-- ==== Sys2Proof/Word.lean ====
section
/-! DEFINITION. Words, bytes, instance numbers and the sparse list every large store of the model uses. -/

namespace Sys2Proof

/-- A byte (R6). -/
abbrev Byte := BitVec 8

/-- A 32-bit register word (R381). -/
abbrev Word := BitVec 32

/-- A 64-bit word: atomics, counters, addresses of the fabric (R149, R305). -/
abbrev Word64 := BitVec 64

/-- TILE[t] (Table 00-3). -/
abbrev TileId := Fin 256

/-- PART[p] (Table 00-3). -/
abbrev PartId := Fin 32

/-- PORT[n] (Table 00-3). -/
abbrev PortId := Fin 32

/-- FENG[e] (Table 00-3). -/
abbrev EngId := Fin 64

/-- A tenant (Table 00-3). -/
abbrev TenId := Fin 64

/-- A queue pair (R180). -/
abbrev QpId := Fin 16384

/-- Sparse data by key. The form every operation keeps is `Map.wf` of Machine/Map.lean: keys strictly rising and no
entry equal to what an unlisted key reads as, so that equal contents are equal lists. -/
abbrev Map (β : Type) := List (Nat × β)

end Sys2Proof
end

