-- ==== Sys2Proof/Syntax.lean ====
section
/-! DEFINITION. The commands of the block: one constructor of `Instr` per row of the opcode table, with its operands.
What one unit sends to another leaves as an output; what reaches a unit comes as a command. -/

namespace Sys2Proof

/-- The two requesters of register accesses (R342). -/
inductive Requester where
  | host
  | wellhead
deriving DecidableEq, Repr

/-- The pages of BAR0 (Table 17-6). -/
inductive Page where
  | dev | rstc | pwr | clk | wlh | ledg | uart | pcie | sync | pin
  | bas (i : Fin 8)
  | shl (d : Fin 4)
  | tier
  | deep (c : Fin 16)
  | disp (p : PartId)
  | samp (p : PartId)
  | move (p : PartId)
  | admt (p : PartId)
  | tile (t : TileId)
  | port (n : PortId)
  | feng (e : EngId)
  | dig | elog | srch | codec | mon | finj | qrm | time
deriving DecidableEq, Repr

/-- The three memory tiers, in the order of Table 06-1 (upper first). -/
inductive TierName where
  | shallows
  | basin
  | deep
deriving DecidableEq, Repr

/-- Who makes a State Space access (R130, R134, R136): what a refusal or a poisoned read does depends on it. -/
inductive Accessor where
  | tilePort (t : TileId) (slot : Fin 64)
  | tileDma (t : TileId) (slot : Fin 64)
  | merge (p : PartId) (slot : Fin 256)
  | mover (p : PartId)
  | qp (q : QpId)
  | host
  | fabric
  | device
deriving DecidableEq, Repr

/-- A memory-semantic request packet after its opcode (Table 07-3) with its payload, and the plane it arrives on. `len8` is
LEN8_M1; `rsvZero` says that every RSV field is zero. Of a request this device issues, TAG and the plane are the engine's. -/
structure MemReq where
  tc : Fin 8
  cacheable : Bool
  placeAck : Bool
  len8 : Nat
  srcFeng : EngId
  srcNode : Nat
  tag : Nat
  node : Nat
  part : PartId
  offset : Nat
  key : Word
  gen : Nat
  epoch : Nat
  rsvZero : Bool
  data : List Byte
  plane : PortId := 0
deriving DecidableEq, Repr

/-- A response packet after its opcode (Table 07-5) with its data and the class it travels in. -/
structure MemResp where
  status : Nat
  noCache : Bool
  plain : Bool
  dstFeng : EngId
  dstNode : Nat
  tag : Nat
  detail : Word64
  data : List Byte
  tc : Fin 8 := 0
deriving DecidableEq, Repr

/-- A QP request packet after its opcode (Table 08-8) with its payload. -/
structure QpReq where
  tc : Fin 8
  last : Bool
  place : Bool
  prov : Bool
  replace : Bool
  srcNode : Nat
  dstQpn : QpId
  psn : Nat
  specEpoch : Nat
  node : Nat
  part : PartId
  offset : Nat
  key : Word
  gen : Nat
  fireTag : Nat
  imm : Nat
  epoch : Nat
  srcQpn : QpId
  wrLen : Nat
  payload : List Byte
  rsvZero : Bool := true
deriving DecidableEq, Repr

/-- A QP response packet after its opcode (Table 08-9) with its payload, and the class it travels in. -/
structure QpResp where
  status : Nat
  dstNode : Nat
  dstQpn : QpId
  psn : Nat
  sack : Nat
  payload : List Byte
  tc : Fin 8 := 0
deriving DecidableEq, Repr

/-- The fields of a received flit (Table 08-11) with the outcome of its FEC and CRC checks. -/
structure Flit where
  seq : Nat
  replay : Bool
  ackSeq : Nat
  ackValid : Bool
  retryReq : Bool
  crTc : Fin 8
  crCount : Nat
  firstPkt : Nat
  tc : Fin 8
  payload : List Byte
  fecCorrected : Bool
  fecOk : Bool
  crcOk : Bool
deriving DecidableEq, Repr

/-- A State Mover message after its TYPE (Table 09-2), with the partition that sent it. -/
structure MoverMsg where
  fromNode : Nat
  fromPart : PartId
  ctrlQp : QpId
  copy : Bool
  resume : Bool
  status : Nat
  ctx : Fin 256
  reqId : Nat
  layers : Nat
  pages : Nat
  stride : Nat
  base : Nat
  base2 : Nat
  key : Word
  sideBytes : Nat
  ttlMs : Nat
  kvLen : Nat
  stage : Nat
deriving DecidableEq, Repr

/-- The header every quorum message carries (R320). -/
structure QHdr where
  src : Nat
  dst : Nat
  seq : Nat
  epoch : Nat
deriving DecidableEq, Repr

/-- A quorum decision: the body of PROPOSE and COMMIT (Table 14-5). A list entry is a node and a partition mask. -/
structure QDecision where
  epoch : Nat
  fence : List (Nat × Word)
  unfence : List (Nat × Word)
  replace : List (Fin 15 × Fin 15)
deriving DecidableEq, Repr

/-- What a digest message carries (R320, R327): its header, the group and content compared, the latest clean digest, the
sender's member state and partitions. -/
structure DigestMsg where
  hdr : QHdr
  region : Fin 16
  group : Nat
  contentId : Nat
  digest : Option (BitVec 128)
  mstate : Fin 4
  partMask : Word
deriving DecidableEq, Repr

/-- Why a RUNNING task ends (Table 03-5), with what its error record's syndrome names (Table 14-2). -/
inductive TaskError where
  | abft (row col rows cols : Nat)
  | anchorMismatch
  | sramUE (offset : Nat)
  | badBlock (reason : Nat) (source : Fin 3) (space : Fin 4) (addr : Nat)
  | poisoned (offset : Nat)
  | farNak (code : Nat) (gfa : Word64)
  | refused (tierCode : Nat) (offset : Nat)
  | extent
deriving DecidableEq, Repr

/-- Who asks for a bank of tile SRAM, in the fixed order of R59. -/
inductive BankUser where
  | portA | portB | vector | attention | dma
deriving DecidableEq, Repr

/-- The run of the task of a scoreboard slot, and what it met that its operands do not say: the bank requests of each TCLK cycle (R59), the cycles the array
waited for ports A and B (R62), and the single-bit errors corrected in the words it read (R60). -/
structure TileRun where
  i : Fin 64
  banks : List (List (Fin 32 × BankUser)) := []
  stallA : Nat := 0
  stallB : Nat := 0
  corrected : Nat := 0
deriving DecidableEq, Repr

/-- A patrol pass over the memory of a page, and the errors it corrected (R148). -/
structure PatrolRun where
  pg : Page
  corrected : Nat := 0
deriving DecidableEq, Repr

/-- A power-down unit (Table 15-3). -/
inductive LpUnit where
  | portLp (n : PortId)
  | portOff (n : PortId)
  | slice (p : PartId)
  | stack (i : Fin 8)
  | channel (c : Fin 16)
  | tileGate (p : PartId)
deriving DecidableEq, Repr

/-- The PLLs of Table 15-6: one per quadrant for TCLK, one each for MCLK, FCLK, PCLK and KCLK, one per stack for
HCLK, one per channel for DCLK. -/
inductive Pll where
  | tclk (q : Fin 4)
  | mclk
  | hclk (i : Fin 8)
  | dclk (c : Fin 16)
  | fclk
  | pclk
  | kclk
deriving DecidableEq, Repr

/-- The registers of a tenant doorbell page that RING_CFG.EN guards (R284). -/
inductive RingReg where
  | reqBase (v : Word64)
  | tokBase (v : Word64)
  | cplBase (v : Word64)
  | statAddr (v : Word64)
  | ringCfg (v : Word)
deriving DecidableEq, Repr

/-- How a descriptor list read of a launch ends (R262). -/
inductive ReadOutcome where
  | ok
  | poisoned
  | refused
deriving DecidableEq, Repr

/-- What the Weir's reads bring with a descriptor (R288): whether those of host memory succeeded, the stop sequences, the
prompt, and how many of its tokens the prefix index holds for the model and for the class's fallback model (R277). -/
structure HostRead where
  ok : Bool
  stops : List (List Nat)
  tokens : List Nat
  cached : Nat
  cachedFb : Nat
deriving DecidableEq, Repr

/-- A slot of a loaded index bucket (Table 10-3), with the base and stride of the entry it names. -/
structure PfxSlot where
  valid : Bool
  hash : Nat
  tag : Nat
  block : Nat
  base : Nat
  stride : Nat
deriving DecidableEq, Repr

/-- The commands: one constructor per row of the opcode table. -/
inductive Instr where
  | registerWrite (by_ : Requester) (addr : Nat) (width : Nat) (v : Word64)
  | pgLock (pg : Page)
  | pgIrqStatWrite (pg : Page) (v : Word)
  | pgIrqEnWrite (pg : Page) (v : Word)
  | pgErrClr (pg : Page) (sameCycle : Option (Fin 256))
  | pwrOppWrite (q : Fin 4) (cap floor : Fin 8)
  | dispRoleWrite (p : PartId) (target : Fin 4) (evict : Bool)
  | drainComplete (p : PartId)
  | scrubComplete (p : PartId)
  | controllerReady (p : PartId)
  | pctlLoadFail (p : PartId)
  | taskDescriptorArrive (t : TileId) (slot : Fin 1024) (d : BitVec 512)
  | taskDispatch (t : TileId) (engine : Fin 4) (latency : Nat)
  | taskComplete (t : TileId) (run : TileRun)
  | taskEventReportAccept (t : TileId) (i : Fin 64)
  | taskRunningError (t : TileId) (i : Fin 64) (e : TaskError)
  | sbWatchdogExpire (t : TileId) (i : Fin 64)
  | sbClrMaxlat (t : TileId)
  | progLoadGo (t : TileId) (index : Fin 256)
  | progLoadComplete (t : TileId)
  | attnParamsLatched (t : TileId) (i : Fin 64)
  | mergeNodeArrive (t : TileId) (run : TileRun) (record : Nat)
  | mergeEmitDone (p : PartId) (m : Fin 256)
  | codecErrInfoClear
  | tierRead (src : Accessor) (offset len : Nat)
  | tierWrite (src : Accessor) (offset : Nat) (data : List Byte)
  | zeroFillComplete (page : Nat)
  | memUncorrectableError (page : Nat)
  | migrationStart (page : Nat) (dst : TierName)
  | migrationCommit (page : Nat)
  | migrationTimeout (page : Nat)
  | tierEpochEnd
  | hwDemote (z : PartId) (t : TierName)
  | tierCmdPin (arg : Fin 4)
  | tierCmdUnpin
  | tierCmdHint (arg : Fin 4)
  | tierCmdMove (arg : Fin 4)
  | tierCmdFree
  | tierCmdDone
  | tierZoneWrite (z : PartId) (w : Fin 4) (v : Word)
  | tierLayoutWrite (side : Bool) (v : Word)
  | tierCapacityDrop (t : TierName) (cap : Nat)
  | blockTrainingDone (pg : Page) (ok : Bool) (dimms rate frames : Nat)
  | load (r : MemReq)
  | store (r : MemReq)
  | fadd64 (r : MemReq)
  | swap64 (r : MemReq)
  | cas64 (r : MemReq)
  | cas128 (r : MemReq)
  | for64 (r : MemReq)
  | flush (r : MemReq) (plane : PortId)
  | flushMarkerAnswer (r : MemReq) (plane : PortId)
  | invalidate (r : MemReq)
  | inv (r : MemReq)
  | loadResp (r : MemResp)
  | storeAck (r : MemResp)
  | atomicResp (r : MemResp)
  | flushResp (r : MemResp) (plane : PortId)
  | invalidateResp (r : MemResp)
  | invAck (page : Nat) (node : Nat)
  | nak (r : MemResp) (plane : PortId)
  | requestTimeout (e : EngId) (tag : Fin 512)
  | invTimeout (page : Nat)
  | regionFlush (p : PartId) (key : Word)
  | qpStateInit (q : QpId)
  | qpStateRts (q : QpId)
  | qpStateReset (q : QpId)
  | qpStateError (q : QpId)
  | qpErrorFlushDone (q : QpId)
  | qpDbSqTail (q : QpId) (value : Nat)
  | qpDbRqTail (q : QpId) (value : Nat)
  | qpDbCqHead (q : QpId) (value : Nat)
  | wrWrite (q : QpId)
  | wrRead (q : QpId)
  | wrSend (q : QpId)
  | wrWriteTrigger (q : QpId)
  | wrFlush (q : QpId)
  | wrCancel (q : QpId)
  | heldWrRegister (q : QpId)
  | trigFire (e : EngId) (tag : Nat)
  | trigTimerExpire (q : QpId)
  | holdExpired (q : QpId) (index : Nat)
  | qwrite (r : QpReq)
  | qwriteTrig (r : QpReq)
  | qreadReq (r : QpReq)
  | qsend (r : QpReq)
  | qflush (r : QpReq)
  | qcancel (r : QpReq)
  | writeTriggerEffect (q : QpId) (psn : Nat)
  | qflushAnswer (q : QpId) (psn : Nat)
  | cancelApply (q : QpId) (psn : Nat)
  | qack (r : QpResp)
  | qreadResp (r : QpResp)
  | qplaceAck (r : QpResp)
  | qflushResp (r : QpResp)
  | qnak (r : QpResp)
  | qackTimer (q : QpId)
  | retransmitTimeout (q : QpId)
  | rnrRetryTimer (q : QpId)
  | rgnCmdWrite (p : PartId) (index : Fin 4096)
  | rgnCmdRead (p : PartId) (index : Fin 4096)
  | rgnCmdRevoke (p : PartId) (index : Fin 4096)
  | rgnCmdComplete (p : PartId)
  | dataFlitReceive (n : PortId) (f : Flit)
  | controlFlitReceive (n : PortId) (f : Flit)
  | idleFlitReceive (n : PortId) (f : Flit)
  | flitAckTimer (n : PortId)
  | flitReplayTimeout (n : PortId)
  | flitTransmit (n : PortId)
  | packetEnterPort (n : PortId) (c : Fin 8) (bytes : List Byte)
  | linkTrained (n : PortId) (lanes : Fin 16) (stages : Fin 4)
  | linkDown (n : PortId)
  | portTcWrite (n : PortId) (c : Fin 8) (w : Fin 4) (v : Word)
  | finjArm (v : Word)
  | openPush (p : PartId) (m : MoverMsg)
  | openPark (p : PartId) (m : MoverMsg)
  | openAck (p : PartId) (m : MoverMsg)
  | pullReq (p : PartId) (m : MoverMsg)
  | pullNak (p : PartId) (m : MoverMsg)
  | close (p : PartId) (m : MoverMsg)
  | closeAck (p : PartId) (m : MoverMsg)
  | expire (p : PartId) (m : MoverMsg)
  | moverStageCopyDone (p : PartId) (pass : Fin 128) (layer : Fin 256)
  | attachDone (p : PartId) (c : Fin 256) (unit : Nat)
  | parkRetryTimer (p : PartId) (reqId : Nat)
  | adpLoad (p : PartId) (slot : Fin 64)
  | adpLoadDone (p : PartId) (fault : Bool)
  | adpRetire (p : PartId) (slot : Fin 64)
  | adpForce (p : PartId) (slot : Fin 64)
  | cacheTtlTick (p : PartId)
  | orphanTimeout (p : PartId) (entry : Fin 4096)
  | prefixBucketsLoaded (p : PartId) (reqId : Nat) (cache : PartId) (cacheNode : Nat) (key : Word)
      (buckets : List (List PfxSlot))
  | search (p : PartId)
  | searchDone (p : PartId) (ticket : Nat)
  | pfxInsert (p : PartId)
  | pfxInsertDone (p : PartId) (ticket : Nat) (nak : Bool)
  | poolForwardPlaced (region : Fin 256) (r : MemReq)
  | poolRebuild
  | poolResync
  | poolCmdDone (ok : Bool) (pages : Nat)
  | launchSelect (p : PartId)
  | launchDescRead (p : PartId) (k : Fin 16) (o : ReadOutcome)
  | dispSend (p : PartId) (tile : Fin 8)
  | dispLringTailWrite (p : PartId) (tail : Fin 8192)
  | rsSelWrite (p : PartId) (index : Fin 1024)
  | rsDataStage (p : PartId) (k : Fin 8) (v : Word)
  | rsCommit (p : PartId) (v : Word)
  | pfLeftWrite (p : PartId) (us : Word)
  | dispFailClear (p : PartId)
  | energyRefillTick (p : PartId)
  | energyGrant (p : PartId)
  | fsyncHoldExpire (p : PartId)
  | powerManagerTick
  | reqTail (n : TenId) (tail : Fin 8192)
  | generate (p : PartId) (n : TenId) (d : BitVec 1024) (h : HostRead)
  | pause (p : PartId) (n : TenId) (d : BitVec 1024) (h : HostRead)
  | resume (p : PartId) (n : TenId) (d : BitVec 1024) (h : HostRead)
  | release (p : PartId) (n : TenId) (d : BitVec 1024) (h : HostRead)
  | deferRetryTimer (p : PartId)
  | deferDeadline (p : PartId) (reqId : Nat)
  | idleParkTimer (n : TenId) (conv : Nat)
  | tenantCancel (n : TenId) (tag : Fin 67108864)
  | tokHead (n : TenId) (head : Nat)
  | cplHead (n : TenId) (head : Nat)
  | tenantRingCfgWrite (n : TenId) (r : RingReg)
  | samplerDone (p : PartId) (slot : Fin 1024)
  | tokenWrite (p : PartId) (slot : Fin 1024)
  | completionRecordWrite (n : TenId)
  | vfTokModTimer (n : TenId)
  | vfFlr (n : TenId)
  | cntSnap (pg : Page) (clr : Bool)
  | cntClr (pg : Page)
  | monSnapArm (clear : Bool)
  | monSnapFire
  | unitLevelSample (u : Fin 8)
  | unitCfgWrite (u : Fin 8) (w : Fin 4) (v : Word)
  | qrmFenceNow (mask : Word)
  | fenceAssert (p : PartId)
  | qrmUnfenceReqWrite (mask : Word)
  | qrmPcHb (p : PartId)
  | heartbeatInterval
  | heartbeat (h : QHdr) (alive : Word)
  | hbAck (h : QHdr)
  | suspect (h : QHdr) (node : Nat) (mask : Word)
  | faultReport (h : QHdr) (who : Nat × Word) (cause : Fin 8)
  | propose (h : QHdr) (d : QDecision)
  | vote (h : QHdr) (epoch : Nat) (accept : Bool)
  | commit (h : QHdr) (d : QDecision)
  | commitAck (h : QHdr)
  | commitResendTimer
  | unfenceReq (h : QHdr) (mask : Word)
  | digest (k : Fin 16) (m : DigestMsg)
  | syncReq (h : QHdr) (last : Nat)
  | syncResp (h : QHdr) (entries : List (Nat × PartId × Nat)) (final : Bool)
  | fenceCompareTick
  | digestPassDone (k : Fin 16)
  | digRegionWrite (k : Fin 16) (w : Fin 32) (v : Word)
  | railReadComplete (rail : Fin 16) (reading : Option (Nat × Nat))
  | oppTick (busy : List Nat)
  | oppTransitionDone (q : Fin 4)
  | thermalLimit (q : Fin 4) (temp : Int) (sensor : Fin 256)
  | droopDetect (q : Fin 4)
  | thermalTrip (temp : Int) (sensor : Fin 256)
  | thermRelease (temp : Int)
  | powerDownMaskWrite (which : Fin 4) (v : Word)
  | pwrTileGateWrite (v : Word)
  | lpIdleEnter (u : LpUnit)
  | wakeDone (u : LpUnit)
  | pllLockLoss (l : Pll)
  | pwrGoodRise
  | pwrGoodFall
  | powerOnReset
  | resetNAssert
  | resetNRelease (straps : BitVec 12)
  | strapSample (straps : BitVec 12)
  | perstAssert
  | devRst (key : Byte)
  | blockResetReq (pg : Page)
  | quiesceDone (pg : Page)
  | quiesceTimeout (pg : Page)
  | blockResetDone (pg : Page)
  | fsyncEdge (falling : Bool)
  | fsyncLostTimeout
  | tsyncEdge
  | tsyncLostTimeout
  | timeExchangeTimer
  | timeMessage (t1 t2 t3 t4 : Nat)
  | timeSet (ns : Word64)
  | romBoot
  | wlhWdogWarn
  | wdogReset
  | wlhKick (key : Byte)
  | install
  | verify
  | updDone
  | confirm
  | rcvVerify
  | rcvInstall
  | rcvBoot
  | writeBuf (seq : Byte) (offset : Nat) (data : List Byte) (crcOk : Bool)
  | setLen (seq : Byte) (len : Word) (crcOk : Bool)
  | run (seq : Byte) (op : Byte) (crcOk : Bool)
  | status (seq : Byte) (crcOk : Bool)
  | uartFrameTimeout
  | uartRxByte (b : Byte) (stopLow : Bool)
  | uartDataWrite (b : Byte)
  | uartDataRead
  | ledgWrGo (by_ : Requester) (type : Byte) (key : Nat)
  | ledgWriteDone (failures : Nat)
  | ledgRdGo (index : Nat) (byKey : Bool)
  | flashEraseDone (sector : Nat) (blank : Bool) (eraseUs : Nat)
  | bar2Read (fn1 : Bool) (x len : Nat)
  | bar2Write (fn1 : Bool) (x : Nat) (data : List (Option Byte))
  | bar2AtomicOp (fn1 : Bool) (x : Nat)
  | bar2HoldTimeout (ticket : Nat)
  | devNodeWrite (v : Word)
  | pllRelock (l : Pll)
  | perstDeassert
  | pcieLinkChange (link1 : Bool) (gen width : Nat) (flit toLowPower : Bool)
  | aerErrorLogged (correctable : Bool)
  | msixVectorUnmask (vf : Option TenId) (vec : Fin 256)
  | vfEnableWrite (numVfs : Nat) (enable : Bool)
  | portCtrlEnableWrite (n : PortId) (enable : Bool)
  | linkPartnerWake (n : PortId)
  | patrolPassDone (r : PatrolRun)
  | flashProgramDone (sector : Nat) (good : Bool) (progUs : Nat)
  | uartTxByteSent
deriving DecidableEq, Repr

end Sys2Proof
end

