-- ==== Sys2Proof/Decode.lean ====
section
/-! DEFINITION. Commands by table word. -/

namespace Sys2Proof

/-- The command a word of spec/opcode_table.json spells. Its rows are events and register commands of a block: none
gives any bits, so no word spells a command. -/
def decodeTableWord (_nbits _w : Nat) : Option Instr := none

end Sys2Proof
end

