-- ==== Sys2Proof/Config.lean ====
section
/-! DEFINITION. What the spec leaves open: constants without a body. Nothing can evaluate them, so a statement about
them holds for every value (notes/assumptions 2 and 3). -/

namespace Sys2Proof.Config

/-- Fresh values, drawn at `State.fresh`: wherever a rule leaves a value open and the machine goes on. -/
opaque freeByte : Nat → Byte

/-- The value a function of the vector unit returns, by the function's number and operand (R57). `vecFn` holds it to the
rule's bound. -/
opaque vecFn : Nat → Word → Word

/-- Sine of 2π × θ ÷ 2⁶⁴ in binary32 (R90). `sinCosTurn` holds both to the rule's bound. -/
opaque sinTurn : Word64 → Word

/-- Cosine of 2π × θ ÷ 2⁶⁴ in binary32 (R90). -/
opaque cosTurn : Word64 → Word

/-- The frequency F_i in turns of pair i, from the fields of the parameter block that set it (R89). `ropeFreq` holds it to
the rule's bound. -/
opaque ropeFreq : BitVec 208 → Nat → Word64

/-- One read of a vector program: operand 0 to 2, first byte, length, and whether it adds the bytes as an ACCX tensor (R40). -/
structure VecRead where
  operand : Nat
  at_ : Nat
  len : Nat
  accx : Bool
deriving DecidableEq, Repr, Inhabited

/-- One write of a vector program to its output: bytes as they stand; a row of binary32 values that the unit converts to
FMT_OUT (R42 to R46); or a row of a KV page, quantised where FMT_OUT is KV8L (R36), with the fields of its tag (R226). -/
inductive VecWrite where
  | bytes (at_ : Nat) (data : List Byte)
  | row (r : Nat) (values : List Word)
  | kvRow (r : Nat) (values : List Word) (prov : Bool) (epoch key : Nat)
deriving DecidableEq, Repr, Inhabited

/-- What a Ryurok vector program reads, from its code and its descriptor: its instructions are not documented (R413,
00_scope.md). -/
opaque vectorReads : List Byte → BitVec 512 → List VecRead

/-- What a vector program writes, from its code, its descriptor and the bytes it read: nothing else decides it (R48, R50). -/
opaque vectorWrites : List Byte → BitVec 512 → List (List Byte) → List VecWrite

/-- Byte offset, within its operand, of the block of an MX-format operand B that holds rows 32k to 32k + 31 of column n: R33 runs
blocks along K with the scale after its 32 elements, R417 gives B K rows of LD_B, and no rule says where a block of a column
lies. By FMT_B, LD_B, k and n. -/
opaque mxB : Nat → Nat → Nat → Nat → Nat

/-- Byte i of the side record of a KV8L operand or output that has none: it lies in tile SRAM, or its page has no SIDE. -/
opaque openSide : Nat → Byte

/-- Byte i of the output of a MATRIX task that no rule gives (notes/assumptions/16): an ACCX on the 16-bit path. -/
opaque openOut : BitVec 512 → Nat → Byte

/-- One step of the fault-injection LFSR (R205: its polynomial is not given). -/
opaque lfsr : Word → Word

/-- What an image takes from its CONFIG component, given here, for the store object of an ID (R361: the component's layout is not
given, notes/assumptions/60). -/
opaque configObject : List Byte → Nat → List Byte

/-- The bit of a flit at which an injected corruption starts (R205). -/
opaque corruptAt : Nat → Nat

/-- Which bits between the first and the last of an injected burst are wrong (R205). -/
opaque corruptBits : Nat → Nat

/-- Block columns of a model's KV row in KV8L (R ÷ 64 of R34), 0 for a format without side records: no register gives a row's
length. `kvCols` holds it to R34's bound. -/
opaque kvColumns : Nat → Nat

end Sys2Proof.Config
end

