-- ==== Sys2Proof/Machine/Map.lean ====
section
/-! DEFINITION. Sparse maps in one canonical form: keys strictly rising, no entry equal to what an unlisted key reads
as (`d`). Every large store of the state is read and written through these operations. -/

namespace Sys2Proof

/-- What is listed at key k. -/
def Map.find {β : Type} : Map β → Nat → Option β
  | [], _ => none
  | (a, v) :: t, k => if a = k then some v else Map.find t k

/-- What key k reads as, an unlisted key reading as d. -/
def Map.get {β : Type} (d : β) (m : Map β) (k : Nat) : β := (Map.find m k).getD d

/-- Unlist key k. -/
def Map.del {β : Type} : Map β → Nat → Map β
  | [], _ => []
  | (a, v) :: t, k => if a = k then Map.del t k else (a, v) :: Map.del t k

/-- List v at key k, keeping the keys rising. -/
def Map.put {β : Type} : Map β → Nat → β → Map β
  | [], k, v => [(k, v)]
  | (a, w) :: t, k, v =>
    if k < a then (k, v) :: (a, w) :: t else if k = a then (k, v) :: t else (a, w) :: Map.put t k v

/-- Write v at key k: the value an unlisted key reads as removes the entry. -/
def Map.set {β : Type} [DecidableEq β] (d : β) (m : Map β) (k : Nat) (v : β) : Map β :=
  if v = d then Map.del m k else Map.put m k v

/-- Keys rise, from above b. -/
def Map.rising {β : Type} : Nat → Map β → Bool
  | _, [] => true
  | b, (a, _) :: t => decide (b ≤ a) && Map.rising (a + 1) t

/-- The canonical form, an unlisted key k reading as d k. -/
def Map.wf {β : Type} [DecidableEq β] (d : Nat → β) (m : Map β) : Bool :=
  Map.rising 0 m && m.all (fun e => decide (e.2 ≠ d e.1))

/-- The bytes at addresses a, a + 1, … (n of them), unlisted ones reading 0 (R132). -/
def Map.bytes (m : Map Byte) (a n : Nat) : List Byte := (List.range n).map (fun i => Map.get 0 m (a + i))

/-- Store bytes from address a up. -/
def Map.store (m : Map Byte) : Nat → List Byte → Map Byte
  | _, [] => m
  | a, b :: t => Map.store (Map.set 0 m a b) (a + 1) t

/-- Drop every key from a up to below a + n. -/
def Map.clear {β : Type} (m : Map β) (a n : Nat) : Map β := m.filter (fun e => e.1 < a || a + n ≤ e.1)

/-- Little-endian: the first byte is the lowest (R6). -/
def natOfBytes : List Byte → Nat
  | [] => 0
  | b :: t => b.toNat + 256 * natOfBytes t

/-- The n low bytes of v, the lowest first (R6). -/
def bytesOfNat : Nat → Nat → List Byte
  | 0, _ => []
  | n + 1, v => BitVec.ofNat 8 (v % 256) :: bytesOfNat n (v / 256)

/-- Bits [lo + w − 1 : lo] of v. -/
def bits (v lo w : Nat) : Nat := v / 2 ^ lo % 2 ^ w

/-- v with bits [lo + w − 1 : lo] replaced by x. -/
def withBits (v lo w x : Nat) : Nat := v - bits v lo w * 2 ^ lo + x % 2 ^ w * 2 ^ lo

/-- Bit i of v. -/
def bit (v i : Nat) : Bool := v / 2 ^ i % 2 == 1

/-- The set bits of v below n, lowest first. -/
def setBits (n v : Nat) : List Nat := (List.range n).filter (bit v)

/-- The lowest of the n numbers from k up that p holds of. -/
def lowestFrom (p : Nat → Bool) : Nat → Nat → Option Nat
  | _, 0 => none
  | k, n + 1 => if p k then some k else lowestFrom p (k + 1) n

/-- The lowest number below n that p holds of. -/
def lowest (n : Nat) (p : Nat → Bool) : Option Nat := lowestFrom p 0 n

/-- Field of a descriptor held as one bit vector: bits [lo + w − 1 : lo]. -/
def BV {n : Nat} (d : BitVec n) (lo w : Nat) : Nat := bits d.toNat lo w

/-- The bytes of a descriptor, the lowest first. -/
def BVbytes {n : Nat} (d : BitVec n) : List Byte := bytesOfNat (n / 8) d.toNat

/-- The 32-bit words of a descriptor, the lowest first. -/
def BVwords {n : Nat} (d : BitVec n) : List Word := (List.range (n / 32)).map (fun i => BitVec.ofNat 32 (BV d (32 * i) 32))

/-- A signed n-bit field as an integer. -/
def signed (w v : Nat) : Int := if v < 2 ^ (w - 1) then (v : Int) else (v : Int) - 2 ^ w

/-- An integer as its n-bit two's complement. -/
def unsigned (w : Nat) (v : Int) : Nat := (v % (2 ^ w : Int)).toNat

end Sys2Proof
end

