-- ==== Sys2Proof/Machine/Arith.lean ====
section
/-! DEFINITION. Number formats, exact accumulation, rounding and output conversion (R29 to R50). -/

namespace Sys2Proof.Machine
open Sys2Proof

/-- An element as the paths see it: NaN, an infinity, or m × 2^q exactly (Table 02-4). -/
inductive El where
  | nan
  | inf (neg : Bool)
  | fin (m : Int) (q : Int)
deriving DecidableEq, Repr

/-- Shape of a floating element format (Table 02-2): exponent bits, mantissa bits, bias; `special` 0: every encoding is
finite; 1: the all-ones exponent holds infinities and NaNs; 2: only the all-ones code is NaN (E4M3). -/
structure FloatFmt where
  e : Nat
  m : Nat
  bias : Nat
  special : Nat
deriving DecidableEq, Repr

def f32 : FloatFmt := ⟨8, 23, 127, 1⟩
def f16 : FloatFmt := ⟨5, 10, 15, 1⟩
def bf16 : FloatFmt := ⟨8, 7, 127, 1⟩
def e5m2 : FloatFmt := ⟨5, 2, 15, 1⟩
def e4m3 : FloatFmt := ⟨4, 3, 7, 2⟩
def e3m2 : FloatFmt := ⟨3, 2, 3, 0⟩
def e2m3 : FloatFmt := ⟨2, 3, 1, 0⟩
def e2m1 : FloatFmt := ⟨2, 1, 1, 0⟩

/-- Decode an element (R31): sign highest, then exponent, then mantissa; subnormals kept. -/
def FloatFmt.decode (f : FloatFmt) (x : Nat) : El :=
  let man := bits x 0 f.m
  let exp := bits x f.m f.e
  let neg := bit x (f.e + f.m)
  let top := 2 ^ f.e - 1
  if f.special = 1 ∧ exp = top then (if man = 0 then .inf neg else .nan)
  else if f.special = 2 ∧ exp = top ∧ man = 2 ^ f.m - 1 then .nan
  else
    let mag : Int := if exp = 0 then man else man + 2 ^ f.m
    .fin (if neg then -mag else mag) ((max exp 1 : Nat) - f.bias - f.m)

/-- Rounding of an output (R43): to nearest even, or stochastic with Philox word r. -/
inductive Rnd where
  | even
  | stoch (r : Nat)
deriving DecidableEq, Repr

/-- Magnitude m × 2^q in units of 2^u, rounded (R43). -/
def roundMag (rnd : Rnd) (m : Nat) (q u : Int) : Nat :=
  if u ≤ q then m * 2 ^ (q - u).toNat
  else
    let k := (u - q).toNat
    let i := m / 2 ^ k
    let rest := m % 2 ^ k
    match rnd with
    | .even =>
      if rest * 2 > 2 ^ k ∨ (rest * 2 = 2 ^ k ∧ i % 2 = 1) then i + 1 else i
    | .stoch r => if rest * 2 ^ 32 / 2 ^ k + r ≥ 2 ^ 32 then i + 1 else i

/-- The largest finite code of a format, without the sign. -/
def FloatFmt.maxCode (f : FloatFmt) : Nat :=
  match f.special with
  | 0 => 2 ^ (f.e + f.m) - 1
  | 1 => (2 ^ f.e - 1) * 2 ^ f.m - 1
  | _ => 2 ^ (f.e + f.m) - 2

/-- The code of an infinite result, without the sign (R44): the largest finite value when saturating or where the format
has no infinity and saturates always; else infinity, or NaN in E4M3. -/
def FloatFmt.infCode (f : FloatFmt) (sat : Bool) : Nat :=
  if sat ∨ f.special = 0 then f.maxCode else f.maxCode + 1

/-- Canonical NaN (Table 02-6). -/
def FloatFmt.nanCode (f : FloatFmt) : Nat :=
  if f.m = 2 then 0x7F else if f.special = 2 then 0x7F else (2 ^ f.e - 1) * 2 ^ f.m + 2 ^ (f.m - 1)

/-- Encode m × 2^q (R42 to R44). -/
def FloatFmt.encodeFin (f : FloatFmt) (rnd : Rnd) (sat : Bool) (m q : Int) : Nat :=
  let a := m.natAbs
  if a = 0 then 0
  else
    let e : Int := max ((Nat.log2 a : Int) + q) (1 - (f.bias : Int))
    let i := roundMag rnd a q (e - f.m)
    let code := (e + f.bias - 1).toNat * 2 ^ f.m + i
    let code := if code > f.maxCode then f.infCode sat else code
    (if m < 0 then 2 ^ (f.e + f.m) else 0) + code

/-- Encode a result (R44, R46). -/
def FloatFmt.encode (f : FloatFmt) (rnd : Rnd) (sat : Bool) : El → Nat
  | .nan => f.nanCode
  | .inf neg => (if neg then 2 ^ (f.e + f.m) else 0) + f.infCode sat
  | .fin m q => f.encodeFin rnd sat m q

/-- Sum of m₁ × 2^q₁ and m₂ × 2^q₂. -/
def dyAdd (m1 q1 m2 q2 : Int) : Int × Int :=
  let q := min q1 q2
  (m1 * 2 ^ (q1 - q).toNat + m2 * 2 ^ (q2 - q).toNat, q)

/-- Exact product of two elements (R41). DESIGN CHOICE (notes/assumptions/53): an Infinity times an Infinity, which the rule
does not name, is an Infinity of the product's sign. -/
def El.mul : El → El → El
  | .nan, _ => .nan
  | _, .nan => .nan
  | .inf a, .inf b => .inf (a != b)
  | .inf a, .fin m _ => if m = 0 then .nan else .inf (a != decide (m < 0))
  | .fin m _, .inf b => if m = 0 then .nan else .inf (b != decide (m < 0))
  | .fin a p, .fin b q => .fin (a * b) (p + q)

/-- Sum of two elements: exact. -/
def El.add : El → El → El
  | .nan, _ => .nan
  | _, .nan => .nan
  | .inf a, .inf b => if a = b then .inf a else .nan
  | .inf a, .fin _ _ => .inf a
  | .fin _ _, .inf b => .inf b
  | .fin a p, .fin b q => let r := dyAdd a p b q; .fin r.1 r.2

/-- A binary32 word's value. -/
def el32 (w : Word) : El := f32.decode w.toNat

/-- Round a value to binary32, to nearest even, unsaturated (R48); `negZero`: the sign of an exact zero. -/
def round32 (x : El) (negZero : Bool) : Word :=
  match x with
  | .fin 0 _ => if negZero then 0x80000000 else 0
  | .fin m q =>
    let c := f32.encodeFin .even false m q
    BitVec.ofNat 32 (if c = 0 ∧ m < 0 then 0x80000000 else c)
  | x => BitVec.ofNat 32 (f32.encode .even false x)

def neg32 (w : Word) : Bool := w.msb

/-- binary32 addition (R47, R48). -/
def add32 (a b : Word) : Word :=
  round32 ((el32 a).add (el32 b)) (neg32 a && neg32 b)

/-- binary32 multiplication. -/
def mul32 (a b : Word) : Word := round32 ((el32 a).mul (el32 b)) (neg32 a != neg32 b)

/-- Fused multiply-add a × b + c (R48). -/
def fma32 (a b c : Word) : Word :=
  round32 (((el32 a).mul (el32 b)).add (el32 c)) ((neg32 a != neg32 b) && neg32 c)

/-- Negation. -/
def negate32 (a : Word) : Word := a ^^^ 0x80000000

/-- The larger of two binary32 values; a NaN loses. -/
def max32 (a b : Word) : Word :=
  match el32 a, el32 b with
  | .nan, _ => b
  | _, .nan => a
  | .inf n, _ => if n then b else a
  | _, .inf n => if n then a else b
  | .fin m p, .fin n q => let d := dyAdd m p (-n) q; if d.1 ≥ 0 then a else b

/-- The larger of two scores, a NaN of either winning (R94, R96). -/
def maxNan32 (a b : Word) : Word := if el32 a = .nan ∨ el32 b = .nan then 0x7FC00000 else max32 a b

/-- a < b for binary32 values, false with a NaN. -/
def lt32 (a b : Word) : Bool :=
  match el32 a, el32 b with
  | .nan, _ => false
  | _, .nan => false
  | .inf n, .inf k => n && !k
  | .inf n, .fin _ _ => n
  | .fin _ _, .inf k => !k
  | .fin m p, .fin n q => decide ((dyAdd m p (-n) q).1 < 0)

/-- A natural number rounded to binary32. -/
def nat32 (n : Nat) : Word := round32 (.fin n 0) false

/-- Philox-4x32-10 (R43): ten rounds over four counter words with two key words. -/
def philox (key : Nat) (c0 c1 c2 c3 : Nat) : List Nat :=
  let round := fun (st : (Nat × Nat × Nat × Nat) × (Nat × Nat)) (_ : Nat) =>
    let c := st.1
    let k := st.2
    let p0 := 0xD2511F53 * c.1
    let p1 := 0xCD9E8D57 * c.2.2.1
    ((Nat.xor (Nat.xor (p1 / 2 ^ 32) c.2.1) k.1, p1 % 2 ^ 32, Nat.xor (Nat.xor (p0 / 2 ^ 32) c.2.2.2) k.2, p0 % 2 ^ 32),
      ((k.1 + 0x9E3779B9) % 2 ^ 32, (k.2 + 0xBB67AE85) % 2 ^ 32))
  let r := ((List.range 10).foldl round ((c0, c1, c2, c3), (key % 2 ^ 32, key / 2 ^ 32 % 2 ^ 32))).1
  [r.1, r.2.1, r.2.2.1, r.2.2.2]

/-- The word that rounds the element of index i under a seed (R43). -/
def srWord (seed i : Nat) : Nat := (philox seed (i % 2 ^ 32) (i / 2 ^ 32 % 2 ^ 32) 0 0).headD 0

/-- Element format of a code of Table 02-1: its bits and how a pattern decodes before scales. -/
def elemBits (fmt : Nat) : Nat :=
  match fmt with
  | 0 => 32 | 1 => 16 | 2 => 16 | 5 => 6 | 6 => 6 | 7 => 4 | 0xA => 4 | 0xD => 128 | _ => 8

/-- Two's complement of w bits times 2^q. -/
def intEl (w x : Nat) (q : Int) : El := .fin (signed w (x % 2 ^ w)) q

/-- Decode one element's bits, scales aside (Tables 02-2, 02-4). -/
def decodeEl (fmt x : Nat) : El :=
  match fmt with
  | 0 => f32.decode x
  | 1 => f16.decode x
  | 2 => bf16.decode x
  | 3 => e4m3.decode x
  | 4 => e5m2.decode x
  | 5 => e2m3.decode x
  | 6 => e3m2.decode x
  | 7 => e2m1.decode x
  | 8 => intEl 8 x (-6)
  | 9 => intEl 8 x 0
  | 0xA => intEl 4 x 0
  | _ => e4m3.decode x

/-- Apply a scale exponent (R32). -/
def El.scale (x : El) (k : Int) : El :=
  match x with
  | .fin m q => .fin m (q + k)
  | y => y

/-- Apply an E8M0 scale code with a lane offset (R32, R35): 0xFF decodes as NaN, and so does a sum above 254. -/
def El.e8m0 (x : El) (sc lane : Nat) : El :=
  if sc = 0xFF ∨ sc + lane > 254 then .nan else x.scale ((sc : Int) - 127 + lane)

/-- The MX formats: 32-element blocks with a scale byte (Table 02-1). -/
def isMx (fmt : Nat) : Bool := decide (3 ≤ fmt ∧ fmt ≤ 8)

/-- Bytes of an MX block, its scale last (Table 05-1, R33). -/
def mxGroup (fmt : Nat) : Nat := 4 * elemBits fmt + 1

/-- Bytes a row of n elements takes. -/
def rowBytes (fmt n : Nat) : Nat :=
  if isMx fmt then (n + 31) / 32 * mxGroup fmt else (n * elemBits fmt + 7) / 8

/-- Bits [pos + w − 1 : pos] of a byte image, bit 0 of a byte first (R6). -/
def imageBits (img : Nat → Byte) (pos w : Nat) : Nat :=
  let a := pos / 8
  bits (natOfBytes ((List.range ((pos % 8 + w + 7) / 8)).map fun i => img (a + i))) (pos % 8) w

/-- Element i of the row at byte offset `row` of an image (R32, R33). -/
def rowEl (fmt : Nat) (img : Nat → Byte) (row i : Nat) : El :=
  if isMx fmt then
    let g := row + i / 32 * mxGroup fmt
    (decodeEl fmt (imageBits img (g * 8 + i % 32 * elemBits fmt) (elemBits fmt))).e8m0
      (img (g + mxGroup fmt - 1)).toNat 0
  else decodeEl fmt (imageBits img (row * 8 + i * elemBits fmt) (elemBits fmt))

/-- An accumulator (R37, Table 02-5) with what it counted: products truncated and products not added (R38). -/
structure AccV where
  v : Nat := 0
  nan : Bool := false
  posInf : Bool := false
  negInf : Bool := false
  below : Bool := false
  isOver : Bool := false
  nBelow : Nat := 0
  nOver : Nat := 0
deriving DecidableEq, Repr

/-- Add a product to an accumulator of anchor A (R37, R38, R41). -/
def AccV.addEl (a : AccV) (anchor : Int) (p : El) : AccV :=
  match p with
  | .nan => { a with nan := true }
  | .inf neg => if neg then { a with negInf := true } else { a with posInf := true }
  | .fin m q =>
    let lost := decide (q < anchor) && decide (m % 2 ^ (anchor - q).toNat ≠ 0)
    let x : Int := if q < anchor then m / 2 ^ (anchor - q).toNat else m * 2 ^ (q - anchor).toNat
    let a := if lost then { a with below := true, nBelow := a.nBelow + 1 } else a
    if 2 ^ 63 ≤ x.natAbs then { a with isOver := true, nOver := a.nOver + 1 }
    else { a with v := unsigned 80 ((a.v : Int) + x) }

/-- Combine two accumulators (R41). -/
def AccV.join (a b : AccV) : AccV :=
  { v := (a.v + b.v) % 2 ^ 80, nan := a.nan || b.nan, posInf := a.posInf || b.posInf, negInf := a.negInf || b.negInf,
    below := a.below || b.below, isOver := a.isOver || b.isOver, nBelow := a.nBelow + b.nBelow,
    nOver := a.nOver + b.nOver }

/-- The 16 bytes of an ACCX element (Table 02-5). -/
def AccV.bytes (a : AccV) (anchor : Nat) : List Byte :=
  let flags := a.nan.toNat + 2 * a.posInf.toNat + 4 * a.negInf.toNat + 8 * a.below.toNat + 16 * a.isOver.toNat
  bytesOfNat 16 (a.v + 2 ^ 80 * (anchor % 65536) + 2 ^ 96 * flags)

/-- An ACCX element read from its 16 bytes: its anchor and its accumulator. -/
def accOfNat (x : Nat) : Nat × AccV :=
  (bits x 80 16, { v := bits x 0 80, nan := bit x 96, posInf := bit x 97, negInf := bit x 98, below := bit x 99,
                   isOver := bit x 100 })

/-- The result an accumulator stands for (Table 02-6). -/
def AccV.result (a : AccV) (anchor : Int) : El :=
  if a.nan ∨ (a.posInf ∧ a.negInf) ∨ a.isOver then .nan
  else if a.posInf then .inf false
  else if a.negInf then .inf true
  else .fin (signed 80 a.v) anchor

/-- Integer output of w bits (R43, R44, Table 02-6); true: a NaN was written as 0. -/
def encodeInt (w : Nat) (rnd : Rnd) : El → Nat × Bool
  | .nan => (0, true)
  | .inf neg => (if neg then 2 ^ (w - 1) else 2 ^ (w - 1) - 1, false)
  | .fin m q =>
    let i := roundMag rnd m.natAbs q 0
    if m < 0 then (unsigned w (-(min i (2 ^ (w - 1)) : Nat)), false) else (min i (2 ^ (w - 1) - 1), false)

/-- floor(log2) of a nonzero magnitude m × 2^q. -/
def log2El : El → Option Int
  | .fin m q => if m = 0 then none else some ((Nat.log2 m.natAbs : Int) + q)
  | _ => none

/-- emax of an MX element format (R45). -/
def mxEmax (fmt : Nat) : Int :=
  match fmt with
  | 3 => 8 | 4 => 15 | 5 => 2 | 6 => 4 | 7 => 2 | _ => 0

/-- The MX formats whose elements have a NaN: E4M3 and E5M2 (Table 02-6). -/
def mxHasNan (fmt : Nat) : Bool := decide (fmt = 3 ∨ fmt = 4)

/-- The code of an MX element: a finite value is saturated (R45), an infinity follows SAT where the format has it or a NaN
(R44, Table 02-6). -/
def mxElem (fmt : Nat) (sat : Bool) (rnd : Rnd) (x : El) : Nat :=
  let sat := match x with
    | .inf _ => sat
    | _ => true
  match fmt with
  | 3 => e4m3.encode rnd sat x
  | 4 => e5m2.encode rnd sat x
  | 5 => e2m3.encode rnd true x
  | 6 => e3m2.encode rnd true x
  | 7 => e2m1.encode rnd true x
  | _ => (encodeInt 8 rnd (x.scale 6)).1

/-- The largest of a nonempty list of integers. -/
def maxInt (l : Int) (ls : List Int) : Int := ls.foldl max l

/-- The scale of a block of results (R45, Table 02-6): 0xFF with a NaN in a format without one, 0 when every value is zero,
else from amax. An infinity or a NaN does not enter amax (notes/assumptions/17). -/
def mxScale (fmt : Nat) (xs : List El) : Nat :=
  if mxHasNan fmt = false ∧ xs.any (· = .nan) = true then 0xFF
  else
    match xs.filterMap log2El with
    | [] => 0
    | l :: ls => (min 254 (max 0 (maxInt l ls - mxEmax fmt + 127))).toNat

/-- Pack codes of w bits, the first lowest (R104). -/
def packBits (w : Nat) (l : List Nat) : List Byte :=
  bytesOfNat ((l.length * w + 7) / 8) (l.foldr (fun x acc => x % 2 ^ w + acc * 2 ^ w) 0)

/-- One MX block of up to 32 results, its scale last (R33, R45): padded with zeros. -/
def mxBlock (fmt : Nat) (sat : Bool) (xs : List (El × Rnd)) : List Byte :=
  let sc := mxScale fmt (xs.map (·.1))
  let codes := xs.map fun x => if sc = 0xFF then 0 else mxElem fmt sat x.2 (x.1.scale (127 - (sc : Int)))
  packBits (elemBits fmt) (codes ++ List.replicate (32 - codes.length) 0) ++ [BitVec.ofNat 8 sc]

/-- Split a list into runs of n. -/
def chunks {α : Type} (n : Nat) : Nat → List α → List (List α)
  | 0, _ => []
  | _, [] => []
  | fuel + 1, l => l.take n :: chunks n fuel (l.drop n)

/-- Bytes of one row of results in a format, and how many NaNs went to an integer format (R42 to R46). -/
def encodeRow (fmt : Nat) (sat : Bool) (xs : List (El × Rnd)) : List Byte × Nat :=
  if isMx fmt then (((chunks 32 xs.length xs).map (mxBlock fmt sat)).flatten, 0)
  else
    match fmt with
    | 0 => (packBits 32 (xs.map fun x => f32.encode x.2 sat x.1), 0)
    | 1 => (packBits 16 (xs.map fun x => f16.encode x.2 sat x.1), 0)
    | 2 => (packBits 16 (xs.map fun x => bf16.encode x.2 sat x.1), 0)
    | 9 =>
      let c := xs.map fun x => encodeInt 8 x.2 x.1
      (packBits 8 (c.map (·.1)), (c.filter (·.2)).length)
    | 0xA =>
      let c := xs.map fun x => encodeInt 4 x.2 x.1
      (packBits 4 (c.map (·.1)), (c.filter (·.2)).length)
    | _ => (packBits 8 (xs.map fun x => e4m3.encode x.2 sat x.1), 0)

/-- Byte offset of SCALE[token, column] in a KV8L side record of rows of `row` bytes (Table 02-3). -/
def sideScale (row token col : Nat) : Nat := token * (row / 64) + col

/-- Byte offset of a column's LANE_OFS word in the side record of a page of `tok` rows (Table 02-3). -/
def sideLanes (tok row col : Nat) : Nat := tok * (row / 64) + 4 * col

/-- Byte offset of a token's TOKEN_TAG word (Table 02-3). -/
def sideTag (tok row token : Nat) : Nat := tok * (row / 64) + 4 * (row / 64) + 4 * token

/-- Scale code and lane offset of the byte at `byte` of a token row, from the page's side record (R35). -/
def kvScaleAt (tok row : Nat) (side : Nat → Byte) (token byte : Nat) : Nat × Nat :=
  let c := byte / 64
  let j := byte % 64 / 8
  ((side (sideScale row token c)).toNat, bits (side (sideLanes tok row c + j / 2)).toNat (j % 2 * 4) 4)

/-- A KV8L element (R35). -/
def kv8lEl (tok row : Nat) (side : Nat → Byte) (token byte : Nat) (x : Byte) : El :=
  let k := kvScaleAt tok row side token byte
  (e4m3.decode x.toNat).e8m0 k.1 k.2

/-- Lanes of n bytes of a token row, from `byte`, that decode as NaN because X + L exceeds 254 (R35). DESIGN CHOICE
(notes/assumptions/53): a block whose X is 0xFF is NaN for that reason and none of its lanes is counted. -/
def kvRange (tok row : Nat) (side : Nat → Byte) (token byte n : Nat) : Nat :=
  ((((List.range n).map fun d => (byte + d) / 8).eraseDups).filter fun k =>
    let x := kvScaleAt tok row side token (k * 8)
    x.1 != 255 && decide (254 < x.1 + x.2)).length

/-- e_j of a lane (R36): 0 for a lane of zeros. -/
def laneExp (xs : List El) : Int :=
  match xs.filterMap log2El with
  | [] => 0
  | l :: ls => maxInt l ls - 8 + 127

/-- The lane offsets the first row of a page sets for a column (R36). -/
def laneOffsets (es : List Int) : List Nat :=
  match es with
  | [] => []
  | e :: l =>
    let x0 := max (l.foldl min e) (maxInt e l - 15)
    (e :: l).map fun e => (min 15 (max 0 (e - x0))).toNat

/-- The scale of a column of a token row under given lane offsets (R36). -/
def kvScale (es : List Int) (ls : List Nat) : Nat :=
  match List.zipWith (fun (e : Int) (l : Nat) => e - l) es ls with
  | [] => 0
  | d :: l => (min 254 (max 0 (maxInt d l))).toNat

/-- The lanes of a 64-element column of results. -/
def lanesOf (xs : List (El × Rnd)) : List (List El) := (chunks 8 8 xs).map fun l => l.map (·.1)

/-- A 64-element column quantised under given lane offsets (R36): its element bytes and its scale. -/
def kvColumn (sat : Bool) (ls : List Nat) (xs : List (El × Rnd)) : List Byte × Nat :=
  let x := kvScale ((lanesOf xs).map laneExp) ls
  (xs.zipIdx.map fun e =>
    let l := min (ls.getD (e.2 / 8) 0) (254 - x)
    BitVec.ofNat 8 (e4m3.encode e.1.2 sat (e.1.1.scale (127 - (x : Int) - l))), x)

/-- Exact-path and 16-bit operand codes (R30). -/
def exactFmt (f : Nat) : Bool := decide (3 ≤ f ∧ f ≤ 0xC)
def half16 (f : Nat) : Bool := decide (f = 1 ∨ f = 2)

/-- Pairs R30 allows. -/
def pairOk (a b : Nat) : Bool := (exactFmt a && exactFmt b) || (half16 a && half16 b)

/-- The fixed tree over the 128 products of a pass: adjacent pairs through seven levels (R47). -/
def treeSum : Nat → List Word → Word
  | 0, l => l.headD 0
  | n + 1, l =>
    let pairs := (chunks 2 l.length l).map fun c => add32 (c.headD 0) (c.tail.headD 0)
    treeSum n pairs

/-- A product of the 16-bit path: exact in binary32 (R47). DESIGN CHOICE (notes/assumptions/53): a product of two BF16 values
beyond binary32's range is rounded to binary32. -/
def prod16 (a b : El) : Word := mul32 (round32 a false) (round32 b false)

/-- The 16-bit path over the products of one output in order of K: one tree per pass of 128, passes added in order
(R47). -/
def sum16 (products : List Word) : Word :=
  (chunks 128 products.length products).foldl
    (fun acc c => add32 acc (treeSum 7 (c ++ List.replicate (128 - c.length) 0))) 0

end Sys2Proof.Machine
end

