-- ==== Sys2Proof/Machine/Elementary.lean ====
section
/-! DEFINITION. The elementary functions of the vector unit and the attention sequencer, each any binary32 value within the
bound the spec states (R57, R89, R90). The exact value comes from rational arithmetic; which value within the bound the device
returns is a constant of Config (notes/assumptions/3). -/

namespace Sys2Proof.Machine
open Sys2Proof

/-- Fraction bits of the exact values: their error lies far below every bound of R57, R89 and R90. -/
def fixBits : Nat := 160

/-- m × 2^q as a rational. -/
def dyRat (m q : Int) : Rat := if 0 ≤ q then (m * 2 ^ q.toNat : Int) else (m : Rat) / ((2 ^ (-q).toNat : Nat) : Rat)

/-- A rational cut to `fixBits` fraction bits, as m of m × 2^−fixBits. -/
def fix (x : Rat) : Int := (x * ((2 ^ fixBits : Nat) : Rat)).floor

/-- Product of two fixed-point numbers. -/
def fixMul (a b : Int) : Int := a * b / 2 ^ fixBits

/-- ln 2 in fixed point: the sum of 1 ÷ (k × 2^k). -/
def fixLn2 : Int := (List.range (fixBits + 8)).foldl (fun n k => n + 2 ^ fixBits / (((k + 1) * 2 ^ (k + 1) : Nat) : Int)) 0

/-- arctan(1 ÷ n) in fixed point. -/
def fixAtan (n : Nat) : Int :=
  (List.range fixBits).foldl (fun s k =>
    let term : Int := 2 ^ fixBits / (((2 * k + 1) * n ^ (2 * k + 1) : Nat) : Int)
    if k % 2 = 0 then s + term else s - term) 0

/-- π in fixed point, by Machin's formula. -/
def fixPi : Int := 16 * fixAtan 5 - 4 * fixAtan 239

/-- e^z of a fixed-point z below 7 in magnitude: its Taylor sum. -/
def fixExp (z : Int) : Int :=
  ((List.range 90).foldl (fun (st : Int × Int) k =>
    let term := fixMul st.2 z / ((k + 1 : Nat) : Int)
    (st.1 + term, term)) (2 ^ fixBits, 2 ^ fixBits)).1

/-- sin and cos of a fixed-point z below 7 in magnitude: their Taylor sums. -/
def fixSinCos (z : Int) : Int × Int :=
  let r := (List.range 90).foldl (fun (st : (Int × Int) × Int) k =>
    let term := fixMul st.2 z / ((k + 1 : Nat) : Int)
    let x := if k / 2 % 2 = 0 then term else -term
    (if k % 2 = 0 then (st.1.1 + x, st.1.2) else (st.1.1, st.1.2 - x), term)) ((0, 2 ^ fixBits), 2 ^ fixBits)
  r.1

/-- 2^x for |x| up to 2,000. -/
def exp2Rat (x : Rat) : Rat :=
  let n := x.floor
  dyRat (fixExp (fixMul (fix (x - n)) fixLn2)) (n - fixBits)

/-- log2 of a positive rational: the integer part, then one bit for each squaring of the mantissa. -/
def log2Rat (x : Rat) : Rat :=
  let k : Int := (Nat.log2 x.num.natAbs : Int) - Nat.log2 x.den
  let y := fix (x * dyRat 1 (-k))
  let start : Int × Int := if y < 2 ^ fixBits then (k - 1, y * 2) else (k, y)
  let r := (List.range (fixBits - 8)).foldl (fun (st : Int × Int) _ =>
    let z := fixMul st.2 st.2
    if 2 ^ (fixBits + 1) ≤ z then (2 * st.1 + 1, z / 2) else (2 * st.1, z)) (0, start.2)
  (start.1 : Rat) + dyRat r.1 (-((fixBits - 8 : Nat) : Int))

/-- 1 ÷ √x of a positive rational. -/
def rsqrtRat (x : Rat) : Rat :=
  let k : Int := ((Nat.log2 x.den : Int) - Nat.log2 x.num.natAbs) / 2
  let y := (1 / x) * dyRat 1 (-(2 * k))
  dyRat (Nat.sqrt (y * ((2 ^ (2 * fixBits) : Nat) : Rat)).floor.toNat) (k - fixBits)

/-- A finite element as a rational. -/
def El.rat : El → Option Rat
  | .fin m q => some (dyRat m q)
  | _ => none

/-- A rational rounded to binary32, to nearest even. -/
def ratTo32 (x : Rat) : Word :=
  let m := (x * ((2 ^ 220 : Nat) : Rat)).floor
  round32 (.fin m (-220)) (decide (x < 0))

/-- The unit in the last place of binary32 at x. -/
def ulp32 (x : Rat) : Rat :=
  let a : Rat := if x < 0 then -x else x
  if a = 0 then dyRat 1 (-149)
  else
    let k : Int := (Nat.log2 a.num.natAbs : Int) - Nat.log2 a.den
    let e := if dyRat 1 k ≤ a then k else k - 1
    dyRat 1 (max e (-126) - 23)

/-- The candidate where it lies within `tol` of x, else x rounded to nearest even: every value within the bound, and no
other. -/
def within (x tol : Rat) (candidate : Word) : Word :=
  match (el32 candidate).rat with
  | some c => if c - x ≤ tol ∧ x - c ≤ tol then candidate else ratTo32 x
  | none => ratTo32 x

/-- The elementary functions of the vector unit (R57). -/
inductive VecFn where
  | exp2 | log2 | recip | rsqrt | sin | cos | tanh | sigmoid
deriving DecidableEq, Repr

/-- The number by which Config knows a function. -/
def VecFn.code : VecFn → Nat
  | .exp2 => 0 | .log2 => 1 | .recip => 2 | .rsqrt => 3 | .sin => 4 | .cos => 5 | .tanh => 6 | .sigmoid => 7

/-- The bound in ulps (R57). -/
def VecFn.ulps : VecFn → Nat
  | .exp2 => 1 | .log2 => 1 | .recip => 1 | .rsqrt => 1 | .sin => 2 | .cos => 2 | .tanh => 4 | .sigmoid => 4

/-- e^x for |x| up to 1,000. -/
def expRat (x : Rat) : Rat := exp2Rat (x / dyRat fixLn2 (-fixBits))

/-- The exact value of a function at a finite x, where it has one within the range R57 bounds. -/
def VecFn.exact (f : VecFn) (x : Rat) : Option Rat :=
  let turn := fun (x : Rat) =>
    let twoPi := dyRat (2 * fixPi) (-fixBits)
    fix (x - (x / twoPi).floor * twoPi)
  let cap : Rat → Rat → Rat := fun b y => if y < -b then -b else if b < y then b else y
  match f with
  | .exp2 => some (exp2Rat (cap 400 x))
  | .log2 => if 0 < x then some (log2Rat x) else none
  | .recip => if x = 0 then none else some (1 / x)
  | .rsqrt => if 0 < x then some (rsqrtRat x) else none
  | .sin => if -65536 ≤ x ∧ x ≤ 65536 then some (dyRat (fixSinCos (turn x)).1 (-fixBits)) else none
  | .cos => if -65536 ≤ x ∧ x ≤ 65536 then some (dyRat (fixSinCos (turn x)).2 (-fixBits)) else none
  | .tanh => let e := expRat (2 * cap 100 x); some ((e - 1) / (e + 1))
  | .sigmoid => let e := expRat (cap 200 x); some (e / (1 + e))

/-- A function of the vector unit (R57): NaN of a NaN; at an infinity the limit, where there is one; else a value within the
bound. Where the spec bounds nothing the value is free. -/
def vecFn (f : VecFn) (w : Word) : Word :=
  let open_ := Config.vecFn f.code w
  match el32 w with
  | .nan => 0x7FC00000
  | .inf neg =>
    match f with
    | .exp2 => if neg then 0 else w
    | .log2 => if neg then open_ else w
    | .recip => if neg then 0x80000000 else 0
    | .rsqrt => if neg then open_ else 0
    | .sin => open_
    | .cos => open_
    | .tanh => if neg then 0xBF800000 else 0x3F800000
    | .sigmoid => if neg then 0 else 0x3F800000
  | .fin m q =>
    match f.exact (dyRat m q) with
    | none => open_
    | some x => within x (f.ulps * ulp32 x) open_

/-- exp2 of binary32 (R57): exactly 1.0 at zero (R94). -/
def exp2of (w : Word) : Word := if w &&& 0x7FFFFFFF = 0 then 0x3F800000 else vecFn .exp2 w

/-- The reciprocal of binary32 (R57). -/
def recip32 (w : Word) : Word := vecFn .recip w

/-- The reciprocal square root of binary32 (R57). -/
def rsqrt32 (w : Word) : Word := vecFn .rsqrt w

/-- Sine and cosine of 2π × θ ÷ 2⁶⁴, each within 2⁻²² of the exact function (R90). -/
def sinCosTurn (turn : Word64) : Word × Word :=
  let sc := fixSinCos (2 * fixPi * turn.toNat / 2 ^ 64)
  (within (dyRat sc.1 (-fixBits)) (dyRat 1 (-22)) (Config.sinTurn turn),
   within (dyRat sc.2 (-fixBits)) (dyRat 1 (-22)) (Config.cosTurn turn))

/-- The fields of a parameter block that set its frequencies (Table 04-3): ROPE, ROPE_PAIRS, BASE, FACTOR, ORIG_LEN, the
betas. -/
def ropeFields (b : BitVec 512) : BitVec 208 := BitVec.ofNat 208 (bits b.toNat 176 208)

def f64 : FloatFmt := ⟨11, 52, 1023, 1⟩

/-- ω′_i ÷ 2π × 2⁶⁴ exactly (R89); none where BASE or a scaling parameter is outside its range. -/
def ropeExact (b : BitVec 512) (i : Nat) : Option Rat :=
  let f := fun lo w => bits b.toNat lo w
  let pairs := f 184 8
  match f64.decode (f 192 64), (f32.decode (f 256 32)).rat, (f32.decode (f 320 32)).rat, (f32.decode (f 352 32)).rat with
  | .fin m q, factor, fast, slow =>
    let base := dyRat m q
    if base ≤ 1 ∨ pairs = 0 then none
    else
      let twoPi := dyRat (2 * fixPi) (-fixBits)
      let omega := exp2Rat (-(i * log2Rat base) / pairs)
      let full := fun (w : Rat) => w / twoPi * ((2 ^ 64 : Nat) : Rat)
      match f 178 2, factor with
      | 0, _ => some (full omega)
      | 1, some s => if s < 1 then none else some (full (omega / s))
      | 2, some s =>
        match fast, slow with
        | some hi, some lo =>
          if s < 1 ∨ hi ≤ lo then none
          else
            let r := f 288 32 * omega / twoPi
            if hi ≤ r then some (full omega)
            else if r ≤ lo then some (full (omega / s))
            else
              let g := (r - lo) / (hi - lo)
              some (full ((1 - g) * omega / s + g * omega))
        | _, _ => none
      | _, _ => none
  | _, _, _, _ => none

/-- The frequency F_i in turns (R89): an integer within 2⁻⁵⁰ of the exact value, relative, before its own rounding. -/
def ropeFreq (b : BitVec 512) (i : Nat) : Word64 :=
  let open_ := Config.ropeFreq (ropeFields b) i
  match ropeExact b i with
  | none => open_
  | some x =>
    let tol := x * dyRat 1 (-50) + 1 / 2
    let c : Rat := open_.toNat
    if c - x ≤ tol ∧ x - c ≤ tol then open_ else BitVec.ofInt 64 (x + 1 / 2).floor

end Sys2Proof.Machine
end

