-- ==== Sys2Proof/Machine/Reg.lean ====
section
/-! DEFINITION. Pages of BAR0 (Tables 17-2 and 17-6) and the shape of a register field. -/

namespace Sys2Proof.Machine
open Sys2Proof

/-- Kinds of page: `hdr` is the header every page begins with (R383). -/
inductive Kind where
  | hdr | dev | rstc | pwr | clk | wlh | ledg | uart | pcie | sync | pin | bas | shl | tier | deep | disp | samp | move
  | admt | tile | port | feng | dig | elog | srch | codec | mon | finj | qrm | time
deriving DecidableEq, Repr

/-- Access types (Table 17-3). -/
inductive Acc where
  | rw | ro | w1c | w1s | wo | rwl
deriving DecidableEq, Repr

/-- A register field: where it lies in its page, its access type and reset value, its instances and their stride,
whether a command of its own writes it, and the encodings that are not reserved (an empty list: all). -/
structure Fld where
  kind : Kind
  off : Nat
  lo : Nat
  width : Nat
  acc : Acc
  reset : Nat
  count : Nat
  stride : Nat
  own : Bool
  legal : List (Nat × Nat)
deriving DecidableEq, Repr

/-- v is no reserved encoding of the field (R11). -/
def Fld.ok (f : Fld) (v : Nat) : Bool := f.legal.isEmpty || f.legal.any (fun r => decide (r.1 ≤ v ∧ v ≤ r.2))

end Sys2Proof.Machine

namespace Sys2Proof
open Sys2Proof.Machine

/-- The kind of a page. -/
def Page.kind : Page → Kind
  | .dev => .dev | .rstc => .rstc | .pwr => .pwr | .clk => .clk | .wlh => .wlh | .ledg => .ledg | .uart => .uart
  | .pcie => .pcie | .sync => .sync | .pin => .pin | .bas _ => .bas | .shl _ => .shl | .tier => .tier
  | .deep _ => .deep | .disp _ => .disp | .samp _ => .samp | .move _ => .move | .admt _ => .admt | .tile _ => .tile
  | .port _ => .port | .feng _ => .feng | .dig => .dig | .elog => .elog | .srch => .srch | .codec => .codec
  | .mon => .mon | .finj => .finj | .qrm => .qrm | .time => .time

/-- The instance index of a page (Table 17-4). -/
def Page.inst : Page → Nat
  | .bas i => i.val | .shl d => d.val | .deep c => c.val | .disp p => p.val | .samp p => p.val | .move p => p.val
  | .admt p => p.val | .tile t => t.val | .port n => n.val | .feng e => e.val
  | .dev => 0 | .rstc => 0 | .pwr => 0 | .clk => 0 | .wlh => 0 | .ledg => 0 | .uart => 0 | .pcie => 0 | .sync => 0
  | .pin => 0 | .tier => 0 | .dig => 0 | .elog => 0 | .srch => 0 | .codec => 0 | .mon => 0 | .finj => 0 | .qrm => 0
  | .time => 0

/-- First BAR0 address and stride of a kind of page (Table 17-2). -/
def Machine.Kind.place : Kind → Nat × Nat
  | .hdr => (0, 0) | .dev => (0, 0) | .rstc => (0x1000, 0) | .pwr => (0x2000, 0) | .clk => (0x3000, 0)
  | .wlh => (0x4000, 0) | .ledg => (0x5000, 0) | .uart => (0x6000, 0) | .pcie => (0x7000, 0) | .sync => (0x8000, 0)
  | .pin => (0x9000, 0) | .bas => (0x10000, 0x1000) | .shl => (0x18000, 0x1000) | .tier => (0x1C000, 0)
  | .deep => (0xA0000, 0x1000) | .disp => (0x20000, 0x4000) | .samp => (0x21000, 0x4000) | .move => (0x22000, 0x4000)
  | .admt => (0x23000, 0x4000) | .tile => (0x100000, 0x1000) | .port => (0x200000, 0x1000)
  | .feng => (0x220000, 0x1000) | .dig => (0x300000, 0) | .elog => (0x301000, 0) | .srch => (0x302000, 0)
  | .codec => (0x303000, 0) | .mon => (0x304000, 0) | .finj => (0x305000, 0) | .qrm => (0x306000, 0)
  | .time => (0x307000, 0)

/-- PG_ID.TYPE (Table 17-6). -/
def Machine.Kind.type : Kind → Nat
  | .hdr => 0 | .dev => 1 | .rstc => 2 | .pwr => 3 | .clk => 4 | .wlh => 5 | .ledg => 6 | .uart => 7 | .pcie => 8
  | .sync => 9 | .pin => 0xA | .bas => 0x10 | .shl => 0x11 | .tier => 0x12 | .deep => 0x13 | .disp => 0x20
  | .samp => 0x21 | .move => 0x22 | .admt => 0x23 | .tile => 0x30 | .port => 0x40 | .feng => 0x41 | .dig => 0x50
  | .elog => 0x51 | .srch => 0x52 | .codec => 0x53 | .mon => 0x54 | .finj => 0x55 | .qrm => 0x56 | .time => 0x57

/-- BAR0 address of a page (Table 17-6). -/
def Page.base (pg : Page) : Nat := pg.kind.place.1 + pg.inst * pg.kind.place.2

/-- The page at a BAR0 address (Table 17-2); none outside every page. -/
def Page.at (a : Nat) : Option Page :=
  let i := a / 0x1000
  if i < 10 then
    (([.dev, .rstc, .pwr, .clk, .wlh, .ledg, .uart, .pcie, .sync, .pin] : List Page)[i]?)
  else if 0x10 ≤ i ∧ i < 0x18 then some (.bas (Fin.ofNat 8 (i - 0x10)))
  else if 0x18 ≤ i ∧ i < 0x1C then some (.shl (Fin.ofNat 4 (i - 0x18)))
  else if i = 0x1C then some .tier
  else if 0x20 ≤ i ∧ i < 0xA0 then
    let p : PartId := Fin.ofNat 32 ((i - 0x20) / 4)
    (([.disp p, .samp p, .move p, .admt p] : List Page)[(i - 0x20) % 4]?)
  else if 0xA0 ≤ i ∧ i < 0xB0 then some (.deep (Fin.ofNat 16 (i - 0xA0)))
  else if 0x100 ≤ i ∧ i < 0x200 then some (.tile (Fin.ofNat 256 (i - 0x100)))
  else if 0x200 ≤ i ∧ i < 0x220 then some (.port (Fin.ofNat 32 (i - 0x200)))
  else if 0x220 ≤ i ∧ i < 0x260 then some (.feng (Fin.ofNat 64 (i - 0x220)))
  else if 0x300 ≤ i ∧ i < 0x308 then
    (([.dig, .elog, .srch, .codec, .mon, .finj, .qrm, .time] : List Page)[i - 0x300]?)
  else none

/-- Every page of the device, by rising BAR0 address within each group. -/
def Page.all : List Page :=
  List.flatten
    [[.dev, .rstc, .pwr, .clk, .wlh, .ledg, .uart, .pcie, .sync, .pin], (List.finRange 8).map Page.bas,
     (List.finRange 4).map Page.shl, [.tier], (List.finRange 32).map Page.disp, (List.finRange 32).map Page.samp,
     (List.finRange 32).map Page.move, (List.finRange 32).map Page.admt, (List.finRange 16).map Page.deep,
     (List.finRange 256).map Page.tile, (List.finRange 32).map Page.port, (List.finRange 64).map Page.feng,
     [.dig, .elog, .srch, .codec, .mon, .finj, .qrm, .time]]

/-- What PG_RST.REQ does on a page (Table 17-6): 0 no, 1 yes, 2 via DISP. -/
def Page.rstKind (pg : Page) : Nat :=
  match pg.kind with
  | .uart => 1 | .disp => 1 | .tile => 1 | .port => 1 | .feng => 1 | .dig => 1 | .elog => 1 | .srch => 1 | .codec => 1
  | .mon => 1 | .finj => 1
  | .samp => 2 | .move => 2 | .admt => 2
  | _ => 0

/-- TILE[t] belongs to PART[t / 8] (R9). -/
def partOf (t : TileId) : PartId := Fin.ofNat 32 (t.val / 8)

/-- Tile k of partition p (R9). -/
def tileOf (p : PartId) (k : Nat) : TileId := Fin.ofNat 256 (p.val * 8 + k % 8)

/-- FENG[2p + i], the home engines of partition p (R14). -/
def engOf (p : PartId) (i : Nat) : EngId := Fin.ofNat 64 (p.val * 2 + i % 2)

/-- The partition whose home engine e is (R14). -/
def partOfEng (e : EngId) : PartId := Fin.ofNat 32 (e.val / 2)

/-- The engine that owns a queue pair: QP q belongs to FENG[q / 256] (R180). -/
def engOfQp (q : QpId) : EngId := Fin.ofNat 64 (q.val / 256)

/-- The partition of a queue pair (R180, R14). -/
def partOfQp (q : QpId) : PartId := Fin.ofNat 32 (q.val / 512)

end Sys2Proof
end

