-- ==== Sys2Proof/Machine/RegTable.lean ====
section
/-! DEFINITION. The register tables of the spec, one constant per field: page kind, offset of its word, lowest bit,
width, access type, reset value, instances and their stride, whether a command of its own writes it, and the encodings
that are not reserved (none listed: all). Sources: Tables 01-4, 03-9, 03-10, 05-7, 06-10, 06-11, 06-15, 08-13 to 08-16,
09-8, 09-9, 10-9, 10-10, 11-4 to 11-6, 12-8 to 12-10, 13-1, 13-3, 13-4, 14-9 to 14-12, 15-8, 15-11 to 15-13, 16-7,
17-4, 17-7, 17-8, 18-8. -/

namespace Sys2Proof.Machine.Reg

def DISP_ROLE_CUR : Fld := ⟨.disp, 0x100, 0, 2, .ro, 0, 1, 0, false, []⟩
def DISP_ROLE_TARGET : Fld := ⟨.disp, 0x100, 4, 2, .rw, 0, 1, 0, true, []⟩
def DISP_ROLE_DRAIN_MODE : Fld := ⟨.disp, 0x100, 8, 1, .rw, 0, 1, 0, true, []⟩
def DISP_ROLE_STATE : Fld := ⟨.disp, 0x100, 16, 3, .ro, 0, 1, 0, false, []⟩
def DISP_ROLE_HELD : Fld := ⟨.disp, 0x100, 20, 12, .ro, 0, 1, 0, false, []⟩
def ARITH_CTRL_ABFT_TOL_SHIFT : Fld := ⟨.tile, 0x104, 0, 3, .rw, 2, 1, 0, false, []⟩
def OPQ_CTRL_START_FILL : Fld := ⟨.tile, 0x108, 0, 6, .rw, 8, 1, 0, false, [(1, 32)]⟩
def OPQ_STAT_A_LEVEL : Fld := ⟨.tile, 0x10c, 0, 6, .ro, 0, 1, 0, false, []⟩
def OPQ_STAT_B_LEVEL : Fld := ⟨.tile, 0x10c, 8, 6, .ro, 0, 1, 0, false, []⟩
def OPQ_STAT_A_STALL : Fld := ⟨.tile, 0x10c, 16, 1, .ro, 0, 1, 0, false, []⟩
def OPQ_STAT_B_STALL : Fld := ⟨.tile, 0x10c, 17, 1, .ro, 0, 1, 0, false, []⟩
def SB_STAT_INFLIGHT : Fld := ⟨.tile, 0x110, 0, 7, .ro, 0, 1, 0, false, []⟩
def SB_STAT_MAXLAT : Fld := ⟨.tile, 0x110, 16, 8, .ro, 0, 1, 0, false, []⟩
def SB_STAT_CLR_MAXLAT : Fld := ⟨.tile, 0x110, 31, 1, .wo, 0, 1, 0, true, []⟩
def SB_CTRL_WDOG : Fld := ⟨.tile, 0x114, 0, 24, .rw, 0x100000, 1, 0, false, []⟩
def BANK_ARB_STARVE_LIMIT : Fld := ⟨.tile, 0x118, 0, 4, .rw, 8, 1, 0, false, [(1, 15)]⟩
def SS_BASE_LO_BASE_LO : Fld := ⟨.tile, 0x120, 16, 16, .rw, 0, 1, 0, false, []⟩
def SS_BASE_HI_BASE_HI : Fld := ⟨.tile, 0x124, 0, 15, .rw, 0, 1, 0, false, []⟩
def PROG_SRC_LO_SRC_LO : Fld := ⟨.tile, 0x130, 0, 32, .rw, 0, 1, 0, false, []⟩
def PROG_SRC_HI_SRC_HI : Fld := ⟨.tile, 0x134, 0, 15, .rw, 0, 1, 0, false, []⟩
def PROG_LOAD_INDEX : Fld := ⟨.tile, 0x138, 0, 8, .rw, 0, 1, 0, false, []⟩
def PROG_LOAD_GO : Fld := ⟨.tile, 0x138, 8, 1, .w1s, 0, 1, 0, true, []⟩
def PROG_LOAD_BUSY : Fld := ⟨.tile, 0x138, 9, 1, .ro, 0, 1, 0, false, []⟩
def PROG_LOAD_RESULT : Fld := ⟨.tile, 0x138, 10, 2, .ro, 0, 1, 0, false, []⟩
def DMA_FAR_REGION_KEY : Fld := ⟨.tile, 0x180, 0, 32, .rw, 0, 16, 16, false, []⟩
def DMA_FAR_PART : Fld := ⟨.tile, 0x184, 0, 5, .rw, 0, 16, 16, false, []⟩
def DMA_FAR_NODE : Fld := ⟨.tile, 0x184, 5, 12, .rw, 0, 16, 16, false, []⟩
def DMA_FAR_TC : Fld := ⟨.tile, 0x184, 17, 3, .rw, 2, 16, 16, false, []⟩
def DMA_FAR_VALID : Fld := ⟨.tile, 0x184, 31, 1, .rw, 0, 16, 16, false, []⟩
def DMA_FAR_BASE : Fld := ⟨.tile, 0x188, 0, 47, .rw, 0, 16, 16, false, []⟩
def DMA_FAR_GEN : Fld := ⟨.tile, 0x18c, 15, 16, .rw, 0, 16, 16, false, []⟩
def CODEC_ENC_CTRL_TBL_MASK : Fld := ⟨.codec, 0x100, 0, 16, .rw, 0xffff, 1, 0, false, [(1, 0xffff)]⟩
def CODEC_ERR_ADDR_LO_ADDR_LO : Fld := ⟨.codec, 0x108, 0, 32, .ro, 0, 1, 0, false, []⟩
def CODEC_ERR_ADDR_HI_ADDR_HI : Fld := ⟨.codec, 0x10c, 0, 15, .ro, 0, 1, 0, false, []⟩
def CODEC_ERR_INFO_TILE : Fld := ⟨.codec, 0x110, 0, 8, .ro, 0, 1, 0, false, []⟩
def CODEC_ERR_INFO_SOURCE : Fld := ⟨.codec, 0x110, 8, 2, .ro, 0, 1, 0, false, []⟩
def CODEC_ERR_INFO_SPACE : Fld := ⟨.codec, 0x110, 10, 2, .ro, 0, 1, 0, false, []⟩
def CODEC_ERR_INFO_REASON : Fld := ⟨.codec, 0x110, 16, 8, .ro, 0, 1, 0, false, []⟩
def CODEC_ERR_INFO_VALID : Fld := ⟨.codec, 0x110, 31, 1, .w1c, 0, 1, 0, true, []⟩
def TIER_CMD_ADDR_LO_ADDR_LO : Fld := ⟨.tier, 0x100, 16, 16, .rw, 0, 1, 0, false, []⟩
def TIER_CMD_ADDR_HI_ADDR_HI : Fld := ⟨.tier, 0x104, 0, 15, .rw, 0, 1, 0, false, []⟩
def TIER_CMD_COUNT_COUNT : Fld := ⟨.tier, 0x108, 0, 24, .rw, 1, 1, 0, false, [(1, 0xffffff)]⟩
def TIER_CMD_OP : Fld := ⟨.tier, 0x10c, 0, 3, .rw, 0, 1, 0, false, [(0, 4)]⟩
def TIER_CMD_ARG : Fld := ⟨.tier, 0x10c, 3, 2, .rw, 0, 1, 0, false, []⟩
def TIER_CMD_GO : Fld := ⟨.tier, 0x10c, 8, 1, .w1s, 0, 1, 0, true, []⟩
def TIER_CMD_BUSY : Fld := ⟨.tier, 0x10c, 9, 1, .ro, 0, 1, 0, false, []⟩
def TIER_CMD_RESULT : Fld := ⟨.tier, 0x10c, 10, 2, .ro, 0, 1, 0, false, []⟩
def TIER_CMD_DONE_DONE : Fld := ⟨.tier, 0x110, 0, 24, .ro, 0, 1, 0, false, []⟩
def TIER_POLICY_HW_EN : Fld := ⟨.tier, 0x120, 0, 1, .rw, 1, 1, 0, false, []⟩
def TIER_POLICY_PROMO_COUNT : Fld := ⟨.tier, 0x120, 8, 8, .rw, 16, 1, 0, false, [(1, 255)]⟩
def TIER_POLICY_EPOCH_US : Fld := ⟨.tier, 0x120, 16, 16, .rw, 0x3e8, 1, 0, false, [(1, 0xffff)]⟩
def TIER_HOLD_TIMEOUT_US : Fld := ⟨.tier, 0x124, 0, 16, .rw, 200, 1, 0, false, [(1, 0xffff)]⟩
def TIER_MAP_CFG_MAP_FRAMES : Fld := ⟨.tier, 0x128, 0, 8, .rwl, 193, 1, 0, true, []⟩
def TIER_MAP_CFG_SHL_SIDE_FRAMES : Fld := ⟨.tier, 0x128, 8, 8, .rwl, 8, 1, 0, true, []⟩
def TIER_SIDE_CFG_BAS_SIDE : Fld := ⟨.tier, 0x12c, 0, 16, .rwl, 128, 1, 0, true, []⟩
def TIER_SIDE_CFG_DEEP_SIDE : Fld := ⟨.tier, 0x12c, 16, 16, .rwl, 0x400, 1, 0, true, []⟩
def TIER_CAP0_SHL_CAP : Fld := ⟨.tier, 0x130, 0, 16, .ro, 0xd480, 1, 0, false, []⟩
def TIER_CAP0_BAS_CAP : Fld := ⟨.tier, 0x130, 16, 16, .ro, 0x3520, 1, 0, false, []⟩
def TIER_CAP1_DEEP_CAP : Fld := ⟨.tier, 0x134, 0, 16, .ro, 0, 1, 0, false, []⟩
def TIER_STAT_OVER : Fld := ⟨.tier, 0x138, 0, 3, .ro, 0, 1, 0, false, []⟩
def TIER_STAT_SLOTS_BUSY : Fld := ⟨.tier, 0x138, 8, 9, .ro, 0, 1, 0, false, []⟩
def TIER_ZONE_COMMIT_SHL : Fld := ⟨.tier, 0x200, 0, 16, .rw, 0x640, 32, 16, true, []⟩
def TIER_ZONE_COMMIT_BAS : Fld := ⟨.tier, 0x200, 16, 16, .rw, 0, 32, 16, true, []⟩
def TIER_ZONE_COMMIT_DEEP : Fld := ⟨.tier, 0x204, 0, 16, .rw, 0, 32, 16, true, []⟩
def TIER_ZONE_FIRST_TIER : Fld := ⟨.tier, 0x204, 16, 2, .rw, 1, 32, 16, true, [(0, 2)]⟩
def TIER_ZONE_SHL_HIGH : Fld := ⟨.tier, 0x208, 0, 12, .rw, 0xe37, 32, 16, true, []⟩
def TIER_ZONE_SHL_LOW : Fld := ⟨.tier, 0x208, 16, 12, .rw, 0xd48, 32, 16, true, []⟩
def TIER_ZONE_BAS_HIGH : Fld := ⟨.tier, 0x20c, 0, 13, .rw, 0x1800, 32, 16, true, []⟩
def TIER_ZONE_BAS_LOW : Fld := ⟨.tier, 0x20c, 16, 13, .rw, 0x1680, 32, 16, true, []⟩
def BAS_MEM_STAT_ONLINE : Fld := ⟨.bas, 0x100, 0, 1, .ro, 0, 1, 0, false, []⟩
def SHL_MEM_STAT_ONLINE : Fld := ⟨.shl, 0x100, 0, 1, .ro, 0, 1, 0, false, []⟩
def DEEP_MEM_STAT_ONLINE : Fld := ⟨.deep, 0x100, 0, 1, .ro, 0, 1, 0, false, []⟩
def BAS_MEM_STAT_DEGRADED : Fld := ⟨.bas, 0x100, 1, 1, .ro, 0, 1, 0, false, []⟩
def SHL_MEM_STAT_DEGRADED : Fld := ⟨.shl, 0x100, 1, 1, .ro, 0, 1, 0, false, []⟩
def DEEP_MEM_STAT_DEGRADED : Fld := ⟨.deep, 0x100, 1, 1, .ro, 0, 1, 0, false, []⟩
def BAS_MEM_STAT_DIMMS : Fld := ⟨.bas, 0x100, 2, 2, .ro, 0, 1, 0, false, []⟩
def SHL_MEM_STAT_DIMMS : Fld := ⟨.shl, 0x100, 2, 2, .ro, 0, 1, 0, false, []⟩
def DEEP_MEM_STAT_DIMMS : Fld := ⟨.deep, 0x100, 2, 2, .ro, 0, 1, 0, false, []⟩
def BAS_MEM_STAT_RATE : Fld := ⟨.bas, 0x100, 16, 16, .ro, 0, 1, 0, false, []⟩
def SHL_MEM_STAT_RATE : Fld := ⟨.shl, 0x100, 16, 16, .ro, 0, 1, 0, false, []⟩
def DEEP_MEM_STAT_RATE : Fld := ⟨.deep, 0x100, 16, 16, .ro, 0, 1, 0, false, []⟩
def BAS_MEM_FRAMES_FRAMES : Fld := ⟨.bas, 0x104, 0, 32, .ro, 0, 1, 0, false, []⟩
def SHL_MEM_FRAMES_FRAMES : Fld := ⟨.shl, 0x104, 0, 32, .ro, 0, 1, 0, false, []⟩
def DEEP_MEM_FRAMES_FRAMES : Fld := ⟨.deep, 0x104, 0, 32, .ro, 0, 1, 0, false, []⟩
def BAS_MEM_FREE_FREE : Fld := ⟨.bas, 0x108, 0, 32, .ro, 0, 1, 0, false, []⟩
def SHL_MEM_FREE_FREE : Fld := ⟨.shl, 0x108, 0, 32, .ro, 0, 1, 0, false, []⟩
def DEEP_MEM_FREE_FREE : Fld := ⟨.deep, 0x108, 0, 32, .ro, 0, 1, 0, false, []⟩
def BAS_MEM_ERR_FRAME_FRAME : Fld := ⟨.bas, 0x10c, 0, 32, .ro, 0, 1, 0, false, []⟩
def SHL_MEM_ERR_FRAME_FRAME : Fld := ⟨.shl, 0x10c, 0, 32, .ro, 0, 1, 0, false, []⟩
def DEEP_MEM_ERR_FRAME_FRAME : Fld := ⟨.deep, 0x10c, 0, 32, .ro, 0, 1, 0, false, []⟩
def FENG_CTRL_RESP_TIMEOUT_US : Fld := ⟨.feng, 0x100, 0, 16, .rw, 0x3e8, 1, 0, false, [(1, 0xffff)]⟩
def FENG_STAT_PATH_LOST : Fld := ⟨.feng, 0x104, 0, 1, .w1c, 0, 1, 0, false, []⟩
def FENG_STAT_NAK_OVF : Fld := ⟨.feng, 0x104, 1, 1, .ro, 0, 1, 0, false, []⟩
def FENG_STAT_SLOTS_BUSY : Fld := ⟨.feng, 0x104, 2, 10, .ro, 0, 1, 0, false, []⟩
def QP_DB_QIDX : Fld := ⟨.feng, 0x108, 0, 8, .wo, 0, 1, 0, true, []⟩
def QP_DB_RING : Fld := ⟨.feng, 0x108, 8, 2, .wo, 0, 1, 0, true, []⟩
def QP_DB_VALUE : Fld := ⟨.feng, 0x108, 11, 21, .wo, 0, 1, 0, true, []⟩
def TRIG_FIRE_TAG : Fld := ⟨.feng, 0x10c, 0, 16, .wo, 0, 1, 0, true, []⟩
def TRIG_STAT_IN_USE : Fld := ⟨.feng, 0x110, 0, 13, .ro, 0, 1, 0, false, []⟩
def QPW_BANK_BANK : Fld := ⟨.feng, 0x114, 0, 6, .rw, 0, 1, 0, false, []⟩
def RGN_CMD_INDEX : Fld := ⟨.feng, 0x140, 0, 12, .rw, 0, 1, 0, false, []⟩
def RGN_CMD_OP : Fld := ⟨.feng, 0x140, 12, 2, .rw, 0, 1, 0, false, [(0, 2)]⟩
def RGN_CMD_GO : Fld := ⟨.feng, 0x140, 14, 1, .w1s, 0, 1, 0, true, []⟩
def RGN_CMD_BUSY : Fld := ⟨.feng, 0x140, 15, 1, .ro, 0, 1, 0, false, []⟩
def RGN_DATA_DATA : Fld := ⟨.feng, 0x160, 0, 32, .rw, 0, 8, 4, false, []⟩
def PORT_CTRL_ENABLE : Fld := ⟨.port, 0x100, 0, 1, .rw, 1, 1, 0, true, []⟩
def PORT_CTRL_ORDER_MODE : Fld := ⟨.port, 0x100, 1, 1, .rwl, 0, 1, 0, false, []⟩
def PORT_CTRL_RETRY_MAX : Fld := ⟨.port, 0x100, 8, 4, .rw, 8, 1, 0, false, [(1, 15)]⟩
def PORT_CTRL_ACK_TO_NS : Fld := ⟨.port, 0x100, 16, 16, .rw, 0x7d0, 1, 0, false, [(100, 0xffff)]⟩
def PORT_STAT_LINK_UP : Fld := ⟨.port, 0x104, 0, 1, .ro, 0, 1, 0, false, []⟩
def PORT_STAT_LANES_UP : Fld := ⟨.port, 0x104, 1, 4, .ro, 0, 1, 0, false, []⟩
def PORT_STAT_STAGES : Fld := ⟨.port, 0x104, 5, 2, .ro, 0, 1, 0, false, []⟩
def PORT_STAT_MODE_MISMATCH : Fld := ⟨.port, 0x104, 7, 1, .ro, 0, 1, 0, false, []⟩
def PORT_TC_CIR : Fld := ⟨.port, 0x200, 0, 16, .rw, 0, 8, 16, true, []⟩
def PORT_TC_PIR : Fld := ⟨.port, 0x200, 16, 16, .rw, 0, 8, 16, true, []⟩
def PORT_TC_CBS : Fld := ⟨.port, 0x204, 0, 16, .rw, 64, 8, 16, true, []⟩
def PORT_TC_PBS : Fld := ⟨.port, 0x204, 16, 16, .rw, 128, 8, 16, true, []⟩
def PORT_TC_WEIGHT : Fld := ⟨.port, 0x208, 0, 8, .rw, 0, 8, 16, true, [(1, 255)]⟩
def PORT_TC_BURST : Fld := ⟨.port, 0x208, 16, 16, .rw, 64, 8, 16, true, []⟩
def FINJ_CTRL_PORT : Fld := ⟨.finj, 0x100, 0, 5, .rwl, 0, 1, 0, true, []⟩
def FINJ_CTRL_MODE : Fld := ⟨.finj, 0x100, 5, 3, .rwl, 0, 1, 0, true, [(0, 5)]⟩
def FINJ_CTRL_DIR : Fld := ⟨.finj, 0x100, 8, 1, .rwl, 0, 1, 0, true, []⟩
def FINJ_CTRL_PARAM : Fld := ⟨.finj, 0x100, 16, 8, .rwl, 1, 1, 0, true, []⟩
def FINJ_CTRL_ARM : Fld := ⟨.finj, 0x100, 31, 1, .rwl, 0, 1, 0, true, []⟩
def FINJ_RATE_RATE_LOG2 : Fld := ⟨.finj, 0x104, 0, 5, .rw, 10, 1, 0, false, []⟩
def FINJ_RATE_PATTERN : Fld := ⟨.finj, 0x104, 5, 1, .rw, 0, 1, 0, false, []⟩
def FINJ_SEED_SEED : Fld := ⟨.finj, 0x108, 0, 32, .rw, 1, 1, 0, false, [(1, 0xffffffff)]⟩
def FINJ_LIMIT_LIMIT : Fld := ⟨.finj, 0x10c, 0, 32, .rw, 0, 1, 0, false, []⟩
def INJECTED_COUNT : Fld := ⟨.finj, 0x200, 0, 64, .ro, 0, 32, 8, false, []⟩
def MOVE_CTRL_STRIPES_M1 : Fld := ⟨.move, 0x100, 0, 4, .rw, 7, 1, 0, false, []⟩
def MOVE_CTRL_PREFETCH : Fld := ⟨.move, 0x100, 8, 8, .rw, 4, 1, 0, false, []⟩
def MOVE_CTRL_PULL_RUN : Fld := ⟨.move, 0x100, 16, 7, .rw, 8, 1, 0, false, [(1, 64)]⟩
def MOVE_QP_CFG_FIRST : Fld := ⟨.move, 0x104, 0, 9, .rw, 0, 1, 0, false, []⟩
def MOVE_QP_CFG_COUNT : Fld := ⟨.move, 0x104, 16, 10, .rw, 0, 1, 0, false, []⟩
def MOVE_STAT_CTX_BUSY : Fld := ⟨.move, 0x108, 0, 9, .ro, 0, 1, 0, false, []⟩
def MOVE_STAT_QP_BOUND : Fld := ⟨.move, 0x108, 16, 10, .ro, 0, 1, 0, false, []⟩
def MOVE_PARK_RETRY_MS : Fld := ⟨.move, 0x10c, 0, 16, .rw, 100, 1, 0, false, [(1, 0xffff)]⟩
def MOVE_ADP_BASE_LO_BASE_LO : Fld := ⟨.move, 0x110, 16, 16, .rw, 0, 1, 0, false, []⟩
def MOVE_ADP_BASE_HI_BASE_HI : Fld := ⟨.move, 0x114, 0, 15, .rw, 0, 1, 0, false, []⟩
def MOVE_ADP_STRIDE_PAGES : Fld := ⟨.move, 0x118, 0, 16, .rw, 0, 1, 0, false, []⟩
def MOVE_ADP_CMD_SLOT : Fld := ⟨.move, 0x120, 0, 6, .rw, 0, 1, 0, false, []⟩
def MOVE_ADP_CMD_OP : Fld := ⟨.move, 0x120, 6, 2, .rw, 0, 1, 0, false, [(0, 2)]⟩
def MOVE_ADP_CMD_GO : Fld := ⟨.move, 0x120, 8, 1, .w1s, 0, 1, 0, true, []⟩
def MOVE_ADP_CMD_BUSY : Fld := ⟨.move, 0x120, 9, 1, .ro, 0, 1, 0, false, []⟩
def MOVE_ADP_CMD_RESULT : Fld := ⟨.move, 0x120, 10, 3, .ro, 0, 1, 0, false, []⟩
def MOVE_ADP_SRC_LO_SRC_LO : Fld := ⟨.move, 0x124, 0, 32, .rw, 0, 1, 0, false, []⟩
def MOVE_ADP_SRC_HI_SRC_HI : Fld := ⟨.move, 0x128, 0, 15, .rw, 0, 1, 0, false, []⟩
def MOVE_ADP_LEN_LEN : Fld := ⟨.move, 0x12c, 0, 32, .rw, 0, 1, 0, false, []⟩
def MOVE_ADP_NEW_ID : Fld := ⟨.move, 0x130, 0, 16, .rw, 0, 1, 0, false, []⟩
def MOVE_ADP_NEW_VERSION : Fld := ⟨.move, 0x130, 16, 16, .rw, 0, 1, 0, false, []⟩
def MOVE_ADP_RANK_RANK : Fld := ⟨.move, 0x134, 0, 9, .rw, 0, 1, 0, false, []⟩
def MOVE_MSG_BASE_LO_BASE_LO : Fld := ⟨.move, 0x138, 16, 16, .rw, 0, 1, 0, false, []⟩
def MOVE_MSG_BASE_HI_BASE_HI : Fld := ⟨.move, 0x13c, 0, 15, .rw, 0, 1, 0, false, []⟩
def MOVE_PARK_NODE : Fld := ⟨.move, 0x180, 0, 12, .rw, 0, 8, 4, false, []⟩
def MOVE_PARK_PART : Fld := ⟨.move, 0x180, 12, 5, .rw, 0, 8, 4, false, []⟩
def MOVE_PARK_VALID : Fld := ⟨.move, 0x180, 31, 1, .rw, 0, 8, 4, false, []⟩
def MOVE_CTX_SEL_INDEX : Fld := ⟨.move, 0x200, 0, 8, .rw, 0, 1, 0, false, []⟩
def MOVE_CTX_DATA_DATA : Fld := ⟨.move, 0x240, 0, 32, .ro, 0, 16, 4, false, []⟩
def ADP_SLOT_ID : Fld := ⟨.move, 0x400, 0, 16, .ro, 0, 64, 16, false, []⟩
def ADP_SLOT_VERSION : Fld := ⟨.move, 0x400, 16, 16, .ro, 0, 64, 16, false, []⟩
def ADP_SLOT_RANK : Fld := ⟨.move, 0x404, 0, 9, .ro, 0, 64, 16, false, []⟩
def ADP_SLOT_STATE : Fld := ⟨.move, 0x404, 9, 3, .ro, 0, 64, 16, false, []⟩
def ADP_SLOT_REFS : Fld := ⟨.move, 0x404, 16, 16, .ro, 0, 64, 16, false, []⟩
def ADP_SLOT_LEN : Fld := ⟨.move, 0x408, 0, 32, .ro, 0, 64, 16, false, []⟩
def SRCH_CTRL_EN : Fld := ⟨.srch, 0x100, 0, 1, .rw, 0, 1, 0, false, []⟩
def POOL_BASE_LO_BASE_LO : Fld := ⟨.srch, 0x108, 6, 26, .rw, 0, 1, 0, false, []⟩
def POOL_BASE_HI_BASE_HI : Fld := ⟨.srch, 0x10c, 0, 15, .rw, 0, 1, 0, false, []⟩
def POOL_COUNT_COUNT : Fld := ⟨.srch, 0x110, 0, 9, .rw, 0, 1, 0, false, [(0, 256)]⟩
def POOL_CMD_REGION : Fld := ⟨.srch, 0x120, 0, 8, .rw, 0, 1, 0, false, []⟩
def POOL_CMD_MEMBER : Fld := ⟨.srch, 0x120, 8, 4, .rw, 0, 1, 0, false, []⟩
def POOL_CMD_OP : Fld := ⟨.srch, 0x120, 12, 2, .rw, 0, 1, 0, false, [(0, 1)]⟩
def POOL_CMD_GO : Fld := ⟨.srch, 0x120, 14, 1, .w1s, 0, 1, 0, true, []⟩
def POOL_CMD_BUSY : Fld := ⟨.srch, 0x120, 15, 1, .ro, 0, 1, 0, false, []⟩
def POOL_CMD_RESULT : Fld := ⟨.srch, 0x120, 16, 2, .ro, 0, 1, 0, false, []⟩
def POOL_CMD_TGT_NODE : Fld := ⟨.srch, 0x124, 0, 12, .rw, 0, 1, 0, false, []⟩
def POOL_CMD_TGT_PART : Fld := ⟨.srch, 0x124, 12, 5, .rw, 0, 1, 0, false, []⟩
def POOL_CMD_DONE_PAGES : Fld := ⟨.srch, 0x128, 0, 32, .ro, 0, 1, 0, false, []⟩
def CACHE_CFG_ENT_BASE_LO : Fld := ⟨.srch, 0x400, 16, 16, .rw, 0, 32, 64, false, []⟩
def CACHE_CFG_ENT_BASE_HI : Fld := ⟨.srch, 0x404, 0, 15, .rw, 0, 32, 64, false, []⟩
def CACHE_CFG_ENTRIES : Fld := ⟨.srch, 0x408, 0, 13, .rw, 0, 32, 64, false, [(0, 0x1000)]⟩
def CACHE_CFG_PARK_RGN : Fld := ⟨.srch, 0x40c, 0, 12, .rw, 0, 32, 64, false, []⟩
def CACHE_CFG_PFX_RGN : Fld := ⟨.srch, 0x40c, 16, 12, .rw, 0, 32, 64, false, []⟩
def CACHE_CFG_TTL_MAX_S : Fld := ⟨.srch, 0x410, 0, 32, .rw, 0x15180, 32, 64, false, [(1, 0xffffffff)]⟩
def CACHE_CFG_ORPHAN_S : Fld := ⟨.srch, 0x414, 0, 16, .rw, 600, 32, 64, false, [(1, 0xffff)]⟩
def CACHE_CFG_IDX_LOG2 : Fld := ⟨.srch, 0x414, 16, 5, .rw, 16, 32, 64, false, [(4, 20)]⟩
def CACHE_CFG_IDX_BASE_LO : Fld := ⟨.srch, 0x418, 8, 24, .rw, 0, 32, 64, false, []⟩
def CACHE_CFG_IDX_BASE_HI : Fld := ⟨.srch, 0x41c, 0, 15, .rw, 0, 32, 64, false, []⟩
def CACHE_CFG_RING_BASE_LO : Fld := ⟨.srch, 0x420, 6, 26, .rw, 0, 32, 64, false, []⟩
def CACHE_CFG_RING_BASE_HI : Fld := ⟨.srch, 0x424, 0, 15, .rw, 0, 32, 64, false, []⟩
def CACHE_CFG_RING_LOG2 : Fld := ⟨.srch, 0x428, 0, 4, .rw, 4, 32, 64, false, [(4, 12)]⟩
def CACHE_CFG_RING_EN : Fld := ⟨.srch, 0x428, 8, 1, .rw, 0, 32, 64, false, []⟩
def CACHE_CFG_OLDEST_LO : Fld := ⟨.srch, 0x430, 0, 32, .ro, 0xffffffff, 32, 64, false, []⟩
def CACHE_CFG_OLDEST_HI : Fld := ⟨.srch, 0x434, 0, 32, .ro, 0xffffffff, 32, 64, false, []⟩
def CACHE_CFG_DIRTY : Fld := ⟨.srch, 0x438, 0, 15, .ro, 0, 32, 64, false, []⟩
def DISP_CTRL_ENERGY_EN : Fld := ⟨.disp, 0x104, 0, 1, .rw, 0, 1, 0, false, []⟩
def DISP_CTRL_FSYNC_EN : Fld := ⟨.disp, 0x104, 1, 1, .rw, 0, 1, 0, false, []⟩
def DISP_CTRL_MON_EN : Fld := ⟨.disp, 0x104, 2, 1, .rw, 1, 1, 0, false, []⟩
def DISP_PRI_W_W2 : Fld := ⟨.disp, 0x108, 0, 8, .rw, 3, 1, 0, false, [(1, 255)]⟩
def DISP_PRI_W_W3 : Fld := ⟨.disp, 0x108, 8, 8, .rw, 1, 1, 0, false, [(1, 255)]⟩
def DISP_STORE_RSV_HI : Fld := ⟨.disp, 0x10c, 0, 11, .rw, 256, 1, 0, false, [(0, 0x400)]⟩
def DISP_STORE_USED : Fld := ⟨.disp, 0x10c, 16, 12, .ro, 0, 1, 0, false, []⟩
def DISP_EVT_MASK_LAYER_MASK : Fld := ⟨.disp, 0x110, 0, 8, .rw, 255, 1, 0, false, []⟩
def DISP_EVT_MASK_STEP_MASK : Fld := ⟨.disp, 0x110, 8, 8, .rw, 255, 1, 0, false, []⟩
def DISP_LRING_LOG2_LOG2 : Fld := ⟨.disp, 0x114, 0, 4, .rwl, 6, 1, 0, false, [(4, 12)]⟩
def DISP_LRING_BASE_LO_BASE_LO : Fld := ⟨.disp, 0x118, 6, 26, .rwl, 0, 1, 0, false, []⟩
def DISP_LRING_BASE_HI_BASE_HI : Fld := ⟨.disp, 0x11c, 0, 15, .rwl, 0, 1, 0, false, []⟩
def DISP_LRING_TAIL_TAIL : Fld := ⟨.disp, 0x120, 0, 13, .rw, 0, 1, 0, true, []⟩
def DISP_LRING_HEAD_HEAD : Fld := ⟨.disp, 0x124, 0, 13, .ro, 0, 1, 0, false, []⟩
def DISP_ENERGY_RATE_RATE_MW : Fld := ⟨.disp, 0x130, 0, 24, .ro, 0, 1, 0, false, []⟩
def DISP_ENERGY_DEPTH_DEPTH_NJ : Fld := ⟨.disp, 0x134, 0, 32, .rw, 0xf4240, 1, 0, false, []⟩
def DISP_ENERGY_LEVEL_LEVEL_NJ : Fld := ⟨.disp, 0x138, 0, 32, .ro, 0, 1, 0, false, []⟩
def DISP_ENERGY_GRANT_GRANT_NJ : Fld := ⟨.disp, 0x13c, 0, 20, .rw, 0x10000, 1, 0, false, []⟩
def DISP_FSYNC_OFFSET_US : Fld := ⟨.disp, 0x140, 0, 16, .rw, 0, 1, 0, false, []⟩
def DISP_FSYNC_SLOT : Fld := ⟨.disp, 0x140, 16, 10, .rw, 0, 1, 0, false, []⟩
def DISP_FSYNC_STAT_LAST_HOLD_NS : Fld := ⟨.disp, 0x144, 0, 31, .ro, 0, 1, 0, false, []⟩
def DISP_FSYNC_STAT_ON_EDGE : Fld := ⟨.disp, 0x144, 31, 1, .ro, 0, 1, 0, false, []⟩
def DISP_FAIL_TASK_ID : Fld := ⟨.disp, 0x148, 0, 16, .ro, 0, 1, 0, false, []⟩
def DISP_FAIL_TILE : Fld := ⟨.disp, 0x148, 16, 3, .ro, 0, 1, 0, false, []⟩
def DISP_FAIL_SLOT : Fld := ⟨.disp, 0x148, 19, 10, .ro, 0, 1, 0, false, []⟩
def DISP_FAIL_VALID : Fld := ⟨.disp, 0x148, 31, 1, .w1c, 0, 1, 0, true, []⟩
def DISP_RS_SEL_INDEX : Fld := ⟨.disp, 0x150, 0, 10, .rw, 0, 1, 0, true, []⟩
def DISP_PF_SLOT_INDEX : Fld := ⟨.disp, 0x154, 0, 10, .rw, 0, 1, 0, false, []⟩
def DISP_PF_LEFT_US : Fld := ⟨.disp, 0x158, 0, 32, .wo, 0, 1, 0, true, []⟩
def DISP_RS_DATA_DATA : Fld := ⟨.disp, 0x160, 0, 32, .rw, 0, 8, 4, true, []⟩
def DISP_BACKLOG_US : Fld := ⟨.disp, 0x180, 0, 32, .ro, 0, 4, 4, false, []⟩
def DISP_ECOST_COST_NJ : Fld := ⟨.disp, 0x1c0, 0, 20, .rw, 0, 16, 4, false, []⟩
def DISP_CLASS_TTFT_US : Fld := ⟨.disp, 0x400, 0, 32, .rw, 0, 16, 16, false, []⟩
def DISP_CLASS_STEP_US : Fld := ⟨.disp, 0x404, 0, 24, .rw, 0, 16, 16, false, []⟩
def DISP_CLASS_FALLBACK : Fld := ⟨.disp, 0x404, 24, 4, .rw, 0, 16, 16, false, []⟩
def DISP_CLASS_FB_VALID : Fld := ⟨.disp, 0x404, 28, 1, .rw, 0, 16, 16, false, []⟩
def DISP_CLASS_SLOWDOWN : Fld := ⟨.disp, 0x408, 0, 16, .ro, 0, 16, 16, false, []⟩
def DISP_CLASS_BOOSTS : Fld := ⟨.disp, 0x40c, 0, 32, .ro, 0, 16, 16, false, []⟩
def DISP_MODEL_PF_PS_PER_TOK : Fld := ⟨.disp, 0x500, 0, 32, .rw, 0, 16, 16, false, []⟩
def DISP_MODEL_TAIL_US : Fld := ⟨.disp, 0x504, 0, 24, .rw, 0, 16, 16, false, []⟩
def DISP_MODEL_SOLO_BASE_US : Fld := ⟨.disp, 0x508, 0, 24, .rw, 0, 16, 16, false, []⟩
def DISP_MODEL_SOLO_NS_PER_KTOK : Fld := ⟨.disp, 0x50c, 0, 32, .rw, 0, 16, 16, false, []⟩
def ADMT_CTRL_EN : Fld := ⟨.admt, 0x100, 0, 1, .rw, 0, 1, 0, false, []⟩
def ADMT_CTRL_DEFER_MAX : Fld := ⟨.admt, 0x100, 1, 9, .rw, 64, 1, 0, false, [(0, 256)]⟩
def ADMT_DEFER_RETRY_MS : Fld := ⟨.admt, 0x104, 0, 16, .rw, 50, 1, 0, false, [(1, 0xffff)]⟩
def ADMT_BIND_LO_TEN : Fld := ⟨.admt, 0x108, 0, 32, .rw, 0, 1, 0, false, []⟩
def ADMT_BIND_HI_TEN : Fld := ⟨.admt, 0x10c, 0, 32, .rw, 0, 1, 0, false, []⟩
def ADMT_KV_BASE_LO_BASE_LO : Fld := ⟨.admt, 0x110, 16, 16, .rw, 0, 1, 0, false, []⟩
def ADMT_KV_BASE_HI_BASE_HI : Fld := ⟨.admt, 0x114, 0, 15, .rw, 0, 1, 0, false, []⟩
def ADMT_KV_SLOT_PAGES : Fld := ⟨.admt, 0x118, 0, 24, .rw, 0, 1, 0, false, []⟩
def ADMT_PAGE_LIMIT_LIMIT : Fld := ⟨.admt, 0x11c, 0, 24, .rw, 0, 1, 0, false, []⟩
def ADMT_PAGE_RESV_RESV : Fld := ⟨.admt, 0x120, 0, 24, .ro, 0, 1, 0, false, []⟩
def ADMT_QUEUE_DEPTH : Fld := ⟨.admt, 0x124, 0, 9, .ro, 0, 1, 0, false, []⟩
def ADMT_MODEL_LAYERS : Fld := ⟨.admt, 0x200, 0, 9, .rw, 0, 16, 8, false, []⟩
def ADMT_MODEL_TOK_LOG2 : Fld := ⟨.admt, 0x200, 12, 4, .rw, 6, 16, 8, false, [(4, 8)]⟩
def ADMT_TEN_P_CRATE : Fld := ⟨.admt, 0x800, 0, 16, .rw, 0, 64, 32, false, []⟩
def ADMT_TEN_P_CSIZE : Fld := ⟨.admt, 0x800, 16, 16, .rw, 0, 64, 32, false, []⟩
def ADMT_TEN_P_PRATE : Fld := ⟨.admt, 0x804, 0, 16, .rw, 0, 64, 32, false, []⟩
def ADMT_TEN_P_PSIZE : Fld := ⟨.admt, 0x804, 16, 16, .rw, 0, 64, 32, false, []⟩
def ADMT_TEN_G_CRATE : Fld := ⟨.admt, 0x808, 0, 16, .rw, 0, 64, 32, false, []⟩
def ADMT_TEN_G_CSIZE : Fld := ⟨.admt, 0x808, 16, 16, .rw, 0, 64, 32, false, []⟩
def ADMT_TEN_G_PRATE : Fld := ⟨.admt, 0x80c, 0, 16, .rw, 0, 64, 32, false, []⟩
def ADMT_TEN_G_PSIZE : Fld := ⟨.admt, 0x80c, 16, 16, .rw, 0, 64, 32, false, []⟩
def ADMT_TEN_MAX_OPEN0 : Fld := ⟨.admt, 0x810, 0, 8, .rw, 0, 64, 32, false, []⟩
def ADMT_TEN_MAX_OPEN1 : Fld := ⟨.admt, 0x810, 8, 8, .rw, 0, 64, 32, false, []⟩
def ADMT_TEN_MAX_OPEN2 : Fld := ⟨.admt, 0x810, 16, 8, .rw, 0, 64, 32, false, []⟩
def ADMT_TEN_MAX_OPEN3 : Fld := ⟨.admt, 0x810, 24, 8, .rw, 0, 64, 32, false, []⟩
def ADMT_TEN_IDLE_MS : Fld := ⟨.admt, 0x814, 0, 24, .rw, 0xea60, 64, 32, false, []⟩
def ADMT_TEN_P_PEAK_LVL : Fld := ⟨.admt, 0x818, 0, 32, .ro, 0, 64, 32, false, []⟩
def ADMT_TEN_G_PEAK_LVL : Fld := ⟨.admt, 0x81c, 0, 32, .ro, 0, 64, 32, false, []⟩
def SAMP_LBASE_LO_BASE_LO : Fld := ⟨.samp, 0x108, 6, 26, .rw, 0, 1, 0, false, []⟩
def SAMP_LBASE_HI_BASE_HI : Fld := ⟨.samp, 0x10c, 0, 15, .rw, 0, 1, 0, false, []⟩
def SAMP_LSTRIDE_UNITS : Fld := ⟨.samp, 0x110, 0, 24, .rw, 0x4000, 1, 0, false, []⟩
def SAMP_MODEL_VOCAB : Fld := ⟨.samp, 0x200, 0, 19, .rw, 0, 16, 8, false, []⟩
def SAMP_MODEL_EOS : Fld := ⟨.samp, 0x204, 0, 18, .rw, 0, 16, 8, false, []⟩
def CNT_CTRL_SNAP : Fld := ⟨.hdr, 0x40, 0, 1, .w1s, 0, 1, 0, true, []⟩
def CNT_CTRL_CLR : Fld := ⟨.hdr, 0x40, 1, 1, .w1s, 0, 1, 0, true, []⟩
def CNT_CTRL_VIEW : Fld := ⟨.hdr, 0x40, 2, 1, .rw, 0, 1, 0, false, []⟩
def CNT_STAT_SNAP_SEQ : Fld := ⟨.hdr, 0x44, 0, 16, .ro, 0, 1, 0, false, []⟩
def SNAP_TIME_TIME : Fld := ⟨.hdr, 0x48, 0, 64, .ro, 0, 1, 0, false, []⟩
def ERR_EVENTS_COUNT : Fld := ⟨.hdr, 0x50, 0, 64, .ro, 0, 1, 0, false, []⟩
def IRQ_EVENTS_COUNT : Fld := ⟨.hdr, 0x58, 0, 64, .ro, 0, 1, 0, false, []⟩
def BLK_RESETS_COUNT : Fld := ⟨.hdr, 0x60, 0, 64, .ro, 0, 1, 0, false, []⟩
def RSV_WRITES_COUNT : Fld := ⟨.hdr, 0x68, 0, 64, .ro, 0, 1, 0, false, []⟩
def MON_SNAP_AT_TIME : Fld := ⟨.mon, 0x100, 0, 64, .rw, 0, 1, 0, false, []⟩
def MON_SNAP_ALL_ARM : Fld := ⟨.mon, 0x108, 0, 1, .w1s, 0, 1, 0, true, []⟩
def MON_SNAP_ALL_CLEAR : Fld := ⟨.mon, 0x108, 1, 1, .rw, 0, 1, 0, false, []⟩
def MON_SNAP_SEQ_SEQ : Fld := ⟨.mon, 0x10c, 0, 16, .ro, 0, 1, 0, false, []⟩
def MON_SNAP_TIME_TIME : Fld := ⟨.mon, 0x110, 0, 64, .ro, 0, 1, 0, false, []⟩
def UNIT_SOURCE : Fld := ⟨.mon, 0x400, 0, 4, .rw, 0, 8, 384, true, [(0, 13)]⟩
def UNIT_MODE : Fld := ⟨.mon, 0x400, 4, 1, .rw, 0, 8, 384, true, []⟩
def UNIT_SHIFT : Fld := ⟨.mon, 0x400, 5, 6, .rw, 0, 8, 384, true, [(0, 40)]⟩
def UNIT_INDEX : Fld := ⟨.mon, 0x404, 0, 10, .rw, 0, 8, 384, true, []⟩
def UNIT_ANY : Fld := ⟨.mon, 0x404, 10, 1, .rw, 1, 8, 384, true, []⟩
def UNIT_CLASS_MASK : Fld := ⟨.mon, 0x404, 16, 16, .rw, 0xffff, 8, 384, true, []⟩
def UNIT_BASE : Fld := ⟨.mon, 0x408, 0, 32, .rw, 0, 8, 384, true, []⟩
def UNIT_PERIOD_NS : Fld := ⟨.mon, 0x40c, 0, 32, .rw, 0x3e8, 8, 384, true, [(100, 0xffffffff)]⟩
def UNIT_COUNT : Fld := ⟨.mon, 0x410, 0, 64, .ro, 0, 8, 384, true, []⟩
def UNIT_SUM : Fld := ⟨.mon, 0x418, 0, 64, .ro, 0, 8, 384, true, []⟩
def UNIT_MIN : Fld := ⟨.mon, 0x420, 0, 64, .ro, 0xffffffffffffffff, 8, 384, true, []⟩
def UNIT_MAX : Fld := ⟨.mon, 0x428, 0, 64, .ro, 0, 8, 384, true, []⟩
def UNIT_UNDER : Fld := ⟨.mon, 0x430, 0, 32, .ro, 0, 8, 384, true, []⟩
def UNIT_DROPPED : Fld := ⟨.mon, 0x434, 0, 32, .ro, 0, 8, 384, true, []⟩
def DIG_CTRL_EN : Fld := ⟨.dig, 0x100, 0, 1, .rw, 0, 1, 0, false, []⟩
def DIG_CTRL_RATE : Fld := ⟨.dig, 0x100, 8, 8, .rw, 10, 1, 0, false, [(1, 255)]⟩
def DIG_CTRL_EXCH_STEPS : Fld := ⟨.dig, 0x100, 16, 16, .rw, 64, 1, 0, false, [(1, 0xffff)]⟩
def DIG_REGION_VALID : Fld := ⟨.dig, 0x400, 0, 1, .rw, 0, 16, 128, true, []⟩
def DIG_REGION_SEALED : Fld := ⟨.dig, 0x400, 1, 1, .rw, 0, 16, 128, true, []⟩
def DIG_REGION_MSTATE : Fld := ⟨.dig, 0x400, 2, 3, .ro, 0, 16, 128, true, []⟩
def DIG_REGION_GROUP : Fld := ⟨.dig, 0x400, 16, 16, .rw, 0, 16, 128, true, []⟩
def DIG_REGION_PART_MASK : Fld := ⟨.dig, 0x404, 0, 32, .rw, 0, 16, 128, true, []⟩
def DIG_REGION_BASE_LO : Fld := ⟨.dig, 0x408, 16, 16, .rw, 0, 16, 128, true, []⟩
def DIG_REGION_BASE_HI : Fld := ⟨.dig, 0x40c, 0, 15, .rw, 0, 16, 128, true, []⟩
def DIG_REGION_LEN_PAGES : Fld := ⟨.dig, 0x410, 0, 24, .rw, 0, 16, 128, true, [(0, 0xffffff)]⟩
def DIG_REGION_CONTENT_ID : Fld := ⟨.dig, 0x414, 0, 32, .rw, 0, 16, 128, true, []⟩
def DIG_REGION_PASS : Fld := ⟨.dig, 0x418, 0, 32, .ro, 0, 16, 128, true, []⟩
def DIG_REGION_DIGEST : Fld := ⟨.dig, 0x420, 0, 128, .ro, 0, 16, 128, true, []⟩
def DIG_REGION_MEMBER0_NODE : Fld := ⟨.dig, 0x440, 0, 12, .rw, 0, 16, 128, true, []⟩
def DIG_REGION_MEMBER1_NODE : Fld := ⟨.dig, 0x444, 0, 12, .rw, 0, 16, 128, true, []⟩
def DIG_REGION_MEMBER2_NODE : Fld := ⟨.dig, 0x448, 0, 12, .rw, 0, 16, 128, true, []⟩
def DIG_REGION_MEMBER3_NODE : Fld := ⟨.dig, 0x44c, 0, 12, .rw, 0, 16, 128, true, []⟩
def DIG_REGION_MEMBER4_NODE : Fld := ⟨.dig, 0x450, 0, 12, .rw, 0, 16, 128, true, []⟩
def DIG_REGION_MEMBER5_NODE : Fld := ⟨.dig, 0x454, 0, 12, .rw, 0, 16, 128, true, []⟩
def DIG_REGION_MEMBER6_NODE : Fld := ⟨.dig, 0x458, 0, 12, .rw, 0, 16, 128, true, []⟩
def DIG_REGION_MEMBER7_NODE : Fld := ⟨.dig, 0x45c, 0, 12, .rw, 0, 16, 128, true, []⟩
def DIG_REGION_MEMBER0_REGION : Fld := ⟨.dig, 0x440, 12, 4, .rw, 0, 16, 128, true, []⟩
def DIG_REGION_MEMBER1_REGION : Fld := ⟨.dig, 0x444, 12, 4, .rw, 0, 16, 128, true, []⟩
def DIG_REGION_MEMBER2_REGION : Fld := ⟨.dig, 0x448, 12, 4, .rw, 0, 16, 128, true, []⟩
def DIG_REGION_MEMBER3_REGION : Fld := ⟨.dig, 0x44c, 12, 4, .rw, 0, 16, 128, true, []⟩
def DIG_REGION_MEMBER4_REGION : Fld := ⟨.dig, 0x450, 12, 4, .rw, 0, 16, 128, true, []⟩
def DIG_REGION_MEMBER5_REGION : Fld := ⟨.dig, 0x454, 12, 4, .rw, 0, 16, 128, true, []⟩
def DIG_REGION_MEMBER6_REGION : Fld := ⟨.dig, 0x458, 12, 4, .rw, 0, 16, 128, true, []⟩
def DIG_REGION_MEMBER7_REGION : Fld := ⟨.dig, 0x45c, 12, 4, .rw, 0, 16, 128, true, []⟩
def DIG_REGION_MEMBER0_VALID : Fld := ⟨.dig, 0x440, 16, 1, .rw, 0, 16, 128, true, []⟩
def DIG_REGION_MEMBER1_VALID : Fld := ⟨.dig, 0x444, 16, 1, .rw, 0, 16, 128, true, []⟩
def DIG_REGION_MEMBER2_VALID : Fld := ⟨.dig, 0x448, 16, 1, .rw, 0, 16, 128, true, []⟩
def DIG_REGION_MEMBER3_VALID : Fld := ⟨.dig, 0x44c, 16, 1, .rw, 0, 16, 128, true, []⟩
def DIG_REGION_MEMBER4_VALID : Fld := ⟨.dig, 0x450, 16, 1, .rw, 0, 16, 128, true, []⟩
def DIG_REGION_MEMBER5_VALID : Fld := ⟨.dig, 0x454, 16, 1, .rw, 0, 16, 128, true, []⟩
def DIG_REGION_MEMBER6_VALID : Fld := ⟨.dig, 0x458, 16, 1, .rw, 0, 16, 128, true, []⟩
def DIG_REGION_MEMBER7_VALID : Fld := ⟨.dig, 0x45c, 16, 1, .rw, 0, 16, 128, true, []⟩
def ELOG_CTRL_EN : Fld := ⟨.elog, 0x100, 0, 1, .rw, 0, 1, 0, false, []⟩
def ELOG_CTRL_LOG2 : Fld := ⟨.elog, 0x100, 8, 4, .rwl, 10, 1, 0, false, [(4, 15)]⟩
def ELOG_CTRL_ESC_LIMIT : Fld := ⟨.elog, 0x100, 16, 8, .rw, 4, 1, 0, false, []⟩
def ELOG_STAT_OVERFLOW : Fld := ⟨.elog, 0x104, 0, 1, .w1c, 0, 1, 0, false, []⟩
def ELOG_RING_BASE_LO_BASE_LO : Fld := ⟨.elog, 0x108, 6, 26, .rwl, 0, 1, 0, false, []⟩
def ELOG_RING_BASE_HI_BASE_HI : Fld := ⟨.elog, 0x10c, 0, 15, .rwl, 0, 1, 0, false, []⟩
def ELOG_TAIL_TAIL : Fld := ⟨.elog, 0x110, 0, 16, .ro, 0, 1, 0, false, []⟩
def ELOG_HEAD_HEAD : Fld := ⟨.elog, 0x114, 0, 16, .rw, 0, 1, 0, false, []⟩
def ELOG_SEQ_SEQ : Fld := ⟨.elog, 0x118, 0, 32, .ro, 0, 1, 0, false, []⟩
def ELOG_JRNL_SEL_ENGINE : Fld := ⟨.elog, 0x180, 0, 6, .rw, 0, 1, 0, false, []⟩
def ELOG_JRNL_SEL_INDEX : Fld := ⟨.elog, 0x180, 6, 12, .rw, 0, 1, 0, false, []⟩
def ELOG_JRNL_DATA_DATA : Fld := ⟨.elog, 0x1a0, 0, 32, .ro, 0, 8, 4, false, []⟩
def QRM_CTRL_EN : Fld := ⟨.qrm, 0x100, 0, 1, .rwl, 0, 1, 0, false, []⟩
def QRM_CTRL_GATE : Fld := ⟨.qrm, 0x100, 1, 1, .rw, 0, 1, 0, false, []⟩
def QRM_STAT_IN_QUORUM : Fld := ⟨.qrm, 0x104, 0, 1, .ro, 0, 1, 0, false, []⟩
def QRM_STAT_LEADER : Fld := ⟨.qrm, 0x104, 1, 1, .ro, 0, 1, 0, false, []⟩
def QRM_STAT_WITNESS : Fld := ⟨.qrm, 0x104, 2, 1, .ro, 0, 1, 0, false, []⟩
def QRM_STAT_ISOLATED : Fld := ⟨.qrm, 0x104, 3, 1, .ro, 0, 1, 0, false, []⟩
def QRM_STAT_WIT_SEEN : Fld := ⟨.qrm, 0x104, 4, 3, .ro, 0, 1, 0, false, []⟩
def QRM_EPOCH_LO_EPOCH_LO : Fld := ⟨.qrm, 0x108, 0, 32, .ro, 0, 1, 0, false, []⟩
def QRM_EPOCH_HI_EPOCH_HI : Fld := ⟨.qrm, 0x10c, 0, 32, .ro, 0, 1, 0, false, []⟩
def QRM_FENCE_DP_MASK : Fld := ⟨.qrm, 0x110, 0, 32, .ro, 0, 1, 0, false, []⟩
def QRM_FENCE_MIRROR_MASK : Fld := ⟨.qrm, 0x114, 0, 32, .ro, 0, 1, 0, false, []⟩
def QRM_FENCE_NOW_MASK : Fld := ⟨.qrm, 0x118, 0, 32, .wo, 0, 1, 0, true, []⟩
def QRM_UNFENCE_REQ_MASK : Fld := ⟨.qrm, 0x11c, 0, 32, .wo, 0, 1, 0, true, []⟩
def QRM_WIT_ACTIVE_MASK : Fld := ⟨.qrm, 0x120, 0, 15, .ro, 0, 1, 0, false, []⟩
def QRM_WITNESS_NODE : Fld := ⟨.qrm, 0x130, 0, 12, .rwl, 0, 7, 4, false, []⟩
def QRM_WSPARE_NODE : Fld := ⟨.qrm, 0x150, 0, 12, .rwl, 0, 8, 4, false, []⟩
def QRM_SPARE_PART : Fld := ⟨.qrm, 0x180, 0, 5, .rw, 0, 8, 4, false, []⟩
def QRM_REPLAY_MASK : Fld := ⟨.qrm, 0x1a0, 0, 32, .rw, 0, 1, 0, false, []⟩
def QRM_CKPT_BASE_LO_BASE_LO : Fld := ⟨.qrm, 0x1a4, 16, 16, .rw, 0, 1, 0, false, []⟩
def QRM_CKPT_BASE_HI_BASE_HI : Fld := ⟨.qrm, 0x1a8, 0, 15, .rw, 0, 1, 0, false, []⟩
def QRM_PC_HB_BEAT : Fld := ⟨.qrm, 0x1c0, 0, 1, .wo, 0, 32, 4, true, []⟩
def PG_RST_REQ : Fld := ⟨.hdr, 0x1c, 0, 1, .w1s, 0, 1, 0, true, []⟩
def PG_RST_STATUS : Fld := ⟨.hdr, 0x1c, 1, 2, .ro, 0, 1, 0, false, []⟩
def PG_RST_TIMED_OUT : Fld := ⟨.hdr, 0x1c, 3, 1, .ro, 0, 1, 0, false, []⟩
def RSTC_CAUSE_CAUSE : Fld := ⟨.rstc, 0x100, 0, 4, .ro, 1, 1, 0, false, []⟩
def RSTC_CAUSE_INSTANCE : Fld := ⟨.rstc, 0x100, 8, 8, .ro, 0, 1, 0, false, []⟩
def RSTC_CAUSE_TIME_TIME : Fld := ⟨.rstc, 0x108, 0, 64, .ro, 0, 1, 0, false, []⟩
def RSTC_CTRL_PERST_SCOPE : Fld := ⟨.rstc, 0x110, 0, 1, .rw, 0, 1, 0, false, []⟩
def RSTC_CTRL_QUIESCE_US : Fld := ⟨.rstc, 0x110, 16, 16, .rw, 100, 1, 0, false, [(1, 0xffff)]⟩
def DEV_RST_KEY : Fld := ⟨.rstc, 0x114, 24, 8, .wo, 0, 1, 0, true, []⟩
def RSTC_THERM_RELEASE_C : Fld := ⟨.rstc, 0x118, 0, 8, .rw, 95, 1, 0, false, [(60, 105)]⟩
def PWR_TILE_W_WATTS : Fld := ⟨.pwr, 0x100, 0, 16, .rw, 0x546, 1, 0, false, [(100, 0x546)]⟩
def PWR_THERM_LIMIT_C : Fld := ⟨.pwr, 0x104, 0, 8, .rw, 100, 1, 0, false, [(85, 105)]⟩
def PWR_ICC_TILE_A_MAX : Fld := ⟨.pwr, 0x108, 0, 16, .rw, 440, 1, 0, false, []⟩
def PWR_IDLE_IDLE_US : Fld := ⟨.pwr, 0x10c, 0, 16, .rw, 100, 1, 0, false, []⟩
def PWR_OPP_CAP : Fld := ⟨.pwr, 0x110, 0, 3, .rw, 0, 4, 4, true, []⟩
def PWR_OPP_FLOOR : Fld := ⟨.pwr, 0x110, 4, 3, .rw, 0, 4, 4, true, []⟩
def PWR_OPP_CUR : Fld := ⟨.pwr, 0x110, 8, 3, .ro, 0, 4, 4, false, []⟩
def PWR_OPP_LOOP : Fld := ⟨.pwr, 0x110, 12, 3, .ro, 0, 4, 4, false, []⟩
def PWR_OPP_LIMITER : Fld := ⟨.pwr, 0x110, 16, 4, .ro, 0, 4, 4, false, []⟩
def PWR_PORT_LP_MASK : Fld := ⟨.pwr, 0x120, 0, 32, .rw, 0, 1, 0, true, []⟩
def PWR_PORT_OFF_MASK : Fld := ⟨.pwr, 0x124, 0, 32, .rw, 0, 1, 0, true, []⟩
def PWR_SHL_RET_MASK : Fld := ⟨.pwr, 0x128, 0, 32, .rw, 0, 1, 0, true, []⟩
def PWR_MEM_SR_BAS : Fld := ⟨.pwr, 0x12c, 0, 8, .rw, 0, 1, 0, true, []⟩
def PWR_MEM_SR_DEEP : Fld := ⟨.pwr, 0x12c, 8, 16, .rw, 0, 1, 0, true, []⟩
def PWR_TILE_GATE_MASK : Fld := ⟨.pwr, 0x130, 0, 32, .rw, 0, 1, 0, true, []⟩
def PWR_SHARE_SHARE : Fld := ⟨.pwr, 0x180, 0, 8, .rw, 1, 32, 4, false, []⟩
def RAIL_MV_MV : Fld := ⟨.pwr, 0x200, 0, 16, .ro, 0, 16, 4, false, []⟩
def RAIL_MV_DECIAMPS : Fld := ⟨.pwr, 0x200, 16, 16, .ro, 0, 16, 4, false, []⟩
def PWR_TEMP_MAX : Fld := ⟨.pwr, 0x240, 0, 16, .ro, 0, 1, 0, false, []⟩
def PWR_TEMP_SENSOR : Fld := ⟨.pwr, 0x240, 16, 8, .ro, 0, 1, 0, false, []⟩
def CLK_STAT_LOCK : Fld := ⟨.clk, 0x100, 0, 7, .ro, 0, 1, 0, false, []⟩
def CLK_MHZ_MHZ : Fld := ⟨.clk, 0x110, 0, 16, .ro, 0, 7, 4, false, []⟩
def SYNC_CTRL_FSYNC_EN : Fld := ⟨.sync, 0x100, 0, 1, .rw, 0, 1, 0, false, []⟩
def SYNC_CTRL_FSYNC_POL : Fld := ⟨.sync, 0x100, 1, 1, .rw, 0, 1, 0, false, []⟩
def SYNC_CTRL_TSYNC_EN : Fld := ⟨.sync, 0x100, 2, 1, .rw, 0, 1, 0, false, []⟩
def SYNC_CTRL_MIN_US : Fld := ⟨.sync, 0x100, 16, 16, .rw, 100, 1, 0, false, [(1, 0xffff)]⟩
def SYNC_STAT_FSYNC_LOST : Fld := ⟨.sync, 0x104, 0, 1, .ro, 1, 1, 0, false, []⟩
def SYNC_STAT_TSYNC_LOST : Fld := ⟨.sync, 0x104, 1, 1, .ro, 1, 1, 0, false, []⟩
def SYNC_FSYNC_LAST_TIME : Fld := ⟨.sync, 0x108, 0, 64, .ro, 0, 1, 0, false, []⟩
def SYNC_FSYNC_PERIOD_NS : Fld := ⟨.sync, 0x110, 0, 32, .ro, 0, 1, 0, false, []⟩
def SYNC_TSYNC_LAST_TIME : Fld := ⟨.sync, 0x118, 0, 64, .ro, 0, 1, 0, false, []⟩
def TIME_NOW_NS : Fld := ⟨.time, 0x100, 0, 64, .ro, 0, 1, 0, false, []⟩
def TIME_CTRL_MASTER : Fld := ⟨.time, 0x108, 0, 1, .rwl, 0, 1, 0, false, []⟩
def TIME_CTRL_PPS_EN : Fld := ⟨.time, 0x108, 1, 1, .rw, 0, 1, 0, false, []⟩
def TIME_CTRL_MASTER_NODE : Fld := ⟨.time, 0x108, 16, 12, .rw, 0, 1, 0, false, []⟩
def TIME_SET_NS : Fld := ⟨.time, 0x110, 0, 64, .wo, 0, 1, 0, true, []⟩
def TIME_STAT_SYNCED : Fld := ⟨.time, 0x118, 0, 1, .ro, 0, 1, 0, false, []⟩
def TIME_STAT_ERR_NS : Fld := ⟨.time, 0x118, 16, 16, .ro, 0, 1, 0, false, []⟩
def WLH_STAT_BOOTED : Fld := ⟨.wlh, 0x100, 0, 1, .ro, 0, 1, 0, false, []⟩
def WLH_STAT_RECOVERY : Fld := ⟨.wlh, 0x100, 1, 1, .ro, 0, 1, 0, false, []⟩
def WLH_STAT_STATE_A : Fld := ⟨.wlh, 0x100, 2, 3, .ro, 0, 1, 0, false, []⟩
def WLH_STAT_STATE_B : Fld := ⟨.wlh, 0x100, 5, 3, .ro, 0, 1, 0, false, []⟩
def WLH_STAT_TRIES : Fld := ⟨.wlh, 0x100, 8, 2, .ro, 0, 1, 0, false, []⟩
def WLH_STAT_SVN_FLOOR : Fld := ⟨.wlh, 0x100, 10, 7, .ro, 0, 1, 0, false, []⟩
def WLH_IMG_CTRL_CONFIRM : Fld := ⟨.wlh, 0x104, 0, 1, .w1s, 0, 1, 0, true, []⟩
def WLH_IMG_CTRL_RECOVERY_NEXT : Fld := ⟨.wlh, 0x104, 1, 1, .rw, 0, 1, 0, false, []⟩
def WLH_WDOG_TIMEOUT_MS : Fld := ⟨.wlh, 0x108, 0, 16, .rwl, 0x7d0, 1, 0, false, [(1, 0xffff)]⟩
def WLH_KICK_KEY : Fld := ⟨.wlh, 0x10c, 0, 8, .wo, 0, 1, 0, true, []⟩
def WLH_UPD_SRC_LO_SRC_LO : Fld := ⟨.wlh, 0x110, 6, 26, .rw, 0, 1, 0, false, []⟩
def WLH_UPD_SRC_HI_SRC_HI : Fld := ⟨.wlh, 0x114, 0, 15, .rw, 0, 1, 0, false, []⟩
def WLH_UPD_LEN_LEN : Fld := ⟨.wlh, 0x118, 0, 32, .rw, 0, 1, 0, false, []⟩
def WLH_UPD_CMD_OP : Fld := ⟨.wlh, 0x11c, 0, 1, .rw, 0, 1, 0, false, []⟩
def WLH_UPD_CMD_GO : Fld := ⟨.wlh, 0x11c, 1, 1, .w1s, 0, 1, 0, true, []⟩
def WLH_UPD_CMD_BUSY : Fld := ⟨.wlh, 0x11c, 2, 1, .ro, 0, 1, 0, false, []⟩
def WLH_UPD_CMD_RESULT : Fld := ⟨.wlh, 0x11c, 8, 8, .ro, 0, 1, 0, false, []⟩
def WLH_FLASH_THR_ERASE_MS : Fld := ⟨.wlh, 0x120, 0, 16, .rw, 800, 1, 0, false, []⟩
def WLH_FLASH_THR_RETRY : Fld := ⟨.wlh, 0x120, 16, 4, .rw, 2, 1, 0, false, []⟩
def LEDG_STAT_RO : Fld := ⟨.ledg, 0x100, 0, 1, .ro, 0, 1, 0, false, []⟩
def LEDG_STAT_SEQ_END : Fld := ⟨.ledg, 0x100, 1, 1, .ro, 0, 1, 0, false, []⟩
def LEDG_STAT_SPARES : Fld := ⟨.ledg, 0x100, 2, 4, .ro, 8, 1, 0, false, []⟩
def LEDG_SEQ_NEXT : Fld := ⟨.ledg, 0x108, 0, 48, .ro, 0, 1, 0, false, []⟩
def LEDG_WR_CMD_TYPE : Fld := ⟨.ledg, 0x110, 0, 8, .rw, 0, 1, 0, true, []⟩
def LEDG_WR_CMD_KEY : Fld := ⟨.ledg, 0x110, 8, 16, .rw, 0, 1, 0, true, []⟩
def LEDG_WR_CMD_GO : Fld := ⟨.ledg, 0x110, 24, 1, .w1s, 0, 1, 0, true, []⟩
def LEDG_WR_CMD_BUSY : Fld := ⟨.ledg, 0x110, 25, 1, .ro, 0, 1, 0, false, []⟩
def LEDG_WR_CMD_RESULT : Fld := ⟨.ledg, 0x110, 26, 3, .ro, 0, 1, 0, false, []⟩
def LEDG_RD_SEL_INDEX : Fld := ⟨.ledg, 0x114, 0, 11, .rw, 0, 1, 0, false, []⟩
def LEDG_RD_SEL_BY_KEY : Fld := ⟨.ledg, 0x114, 11, 1, .rw, 0, 1, 0, false, []⟩
def LEDG_RD_SEL_GO : Fld := ⟨.ledg, 0x114, 12, 1, .w1s, 0, 1, 0, true, []⟩
def LEDG_RD_SEL_FOUND : Fld := ⟨.ledg, 0x114, 13, 1, .ro, 0, 1, 0, false, []⟩
def LEDG_RD_KEY_TYPE : Fld := ⟨.ledg, 0x118, 0, 8, .rw, 0, 1, 0, false, []⟩
def LEDG_RD_KEY_KEY : Fld := ⟨.ledg, 0x118, 8, 16, .rw, 0, 1, 0, false, []⟩
def LEDG_WR_DATA_DATA : Fld := ⟨.ledg, 0x180, 0, 32, .rw, 0, 27, 4, false, []⟩
def LEDG_RD_DATA_DATA : Fld := ⟨.ledg, 0x200, 0, 32, .ro, 0, 32, 4, false, []⟩
def UART_BAUD_FRAC : Fld := ⟨.uart, 0x100, 0, 6, .rw, 1, 1, 0, false, []⟩
def UART_BAUD_DIV : Fld := ⟨.uart, 0x100, 6, 16, .rw, 217, 1, 0, false, [(1, 0xffff)]⟩
def UART_CTRL_TX_EN : Fld := ⟨.uart, 0x104, 0, 1, .rw, 0, 1, 0, false, []⟩
def UART_CTRL_RX_EN : Fld := ⟨.uart, 0x104, 1, 1, .rw, 0, 1, 0, false, []⟩
def UART_STAT_TX_LEVEL : Fld := ⟨.uart, 0x108, 0, 6, .ro, 0, 1, 0, false, []⟩
def UART_STAT_RX_LEVEL : Fld := ⟨.uart, 0x108, 8, 6, .ro, 0, 1, 0, false, []⟩
def UART_STAT_OVERRUN : Fld := ⟨.uart, 0x108, 16, 1, .w1c, 0, 1, 0, false, []⟩
def UART_STAT_FRAME_ERR : Fld := ⟨.uart, 0x108, 17, 1, .w1c, 0, 1, 0, false, []⟩
def UART_DATA_DATA : Fld := ⟨.uart, 0x10c, 0, 8, .rw, 0, 1, 0, true, []⟩
def PG_ID_TYPE : Fld := ⟨.hdr, 0x0, 0, 16, .ro, 0, 1, 0, false, []⟩
def PG_ID_INSTANCE : Fld := ⟨.hdr, 0x0, 16, 16, .ro, 0, 1, 0, false, []⟩
def PG_VER_MINOR : Fld := ⟨.hdr, 0x4, 0, 8, .ro, 0, 1, 0, false, []⟩
def PG_VER_MAJOR : Fld := ⟨.hdr, 0x4, 8, 8, .ro, 1, 1, 0, false, []⟩
def PG_CTRL_LOCK : Fld := ⟨.hdr, 0x8, 0, 1, .w1s, 0, 1, 0, true, []⟩
def PG_CTRL_DEST : Fld := ⟨.hdr, 0x8, 2, 2, .rw, 1, 1, 0, false, [(0, 2)]⟩
def PG_CTRL_VEC : Fld := ⟨.hdr, 0x8, 8, 8, .rw, 0, 1, 0, false, []⟩
def PG_STAT_BUSY : Fld := ⟨.hdr, 0xc, 0, 1, .ro, 0, 1, 0, false, []⟩
def PG_STAT_ERR : Fld := ⟨.hdr, 0xc, 1, 1, .ro, 0, 1, 0, false, []⟩
def PG_STAT_IRQ : Fld := ⟨.hdr, 0xc, 2, 1, .ro, 0, 1, 0, false, []⟩
def PG_STAT_LOCKED : Fld := ⟨.hdr, 0xc, 3, 1, .ro, 0, 1, 0, false, []⟩
def PG_IRQ_STAT : Fld := ⟨.hdr, 0x10, 0, 32, .w1c, 0, 1, 0, true, []⟩
def PG_IRQ_EN : Fld := ⟨.hdr, 0x14, 0, 32, .rw, 0, 1, 0, true, []⟩
def PG_ERR_CODE : Fld := ⟨.hdr, 0x18, 0, 8, .ro, 0, 1, 0, false, []⟩
def PG_ERR_MULTI : Fld := ⟨.hdr, 0x18, 8, 1, .ro, 0, 1, 0, false, []⟩
def PG_ERR_CLR : Fld := ⟨.hdr, 0x18, 31, 1, .w1s, 0, 1, 0, true, []⟩
def PG_READY_READY : Fld := ⟨.hdr, 0x20, 0, 1, .ro, 0, 1, 0, false, []⟩
def PG_READY_FAILED : Fld := ⟨.hdr, 0x20, 1, 1, .ro, 0, 1, 0, false, []⟩
def DEV_SKU_BIN : Fld := ⟨.dev, 0x100, 0, 1, .ro, 0, 1, 0, false, []⟩
def DEV_SKU_STEPPING : Fld := ⟨.dev, 0x100, 4, 4, .ro, 0, 1, 0, false, []⟩
def DEV_SKU_PART : Fld := ⟨.dev, 0x100, 16, 16, .ro, 0x9100, 1, 0, false, []⟩
def DEV_SERIAL_LO_SERIAL_LO : Fld := ⟨.dev, 0x108, 0, 32, .ro, 0, 1, 0, false, []⟩
def DEV_SERIAL_HI_SERIAL_HI : Fld := ⟨.dev, 0x10c, 0, 32, .ro, 0, 1, 0, false, []⟩
def DEV_NODE_NODE : Fld := ⟨.dev, 0x110, 0, 12, .rwl, 0, 1, 0, true, []⟩
def DEV_NODE_VALID : Fld := ⟨.dev, 0x110, 31, 1, .rwl, 0, 1, 0, true, []⟩
def DEV_STRAP_VALUE : Fld := ⟨.dev, 0x114, 0, 16, .ro, 0, 1, 0, false, []⟩
def DEV_SCRATCH_DATA : Fld := ⟨.dev, 0x120, 0, 32, .rw, 0, 8, 4, false, []⟩
def PCIE_LINK_GEN : Fld := ⟨.pcie, 0x100, 0, 4, .ro, 0, 1, 0, false, []⟩
def PCIE_LINK_WIDTH : Fld := ⟨.pcie, 0x100, 4, 5, .ro, 0, 1, 0, false, []⟩
def PCIE_LINK_FLIT : Fld := ⟨.pcie, 0x100, 9, 1, .ro, 0, 1, 0, false, []⟩
def PCIE_LINK_BIFURCATED : Fld := ⟨.pcie, 0x100, 10, 1, .ro, 0, 1, 0, false, []⟩
def PCIE_LINK_LINK1_UP : Fld := ⟨.pcie, 0x100, 11, 1, .ro, 0, 1, 0, false, []⟩
def PCIE_SRIOV_NUM_VF : Fld := ⟨.pcie, 0x104, 0, 7, .ro, 0, 1, 0, false, []⟩
def PCIE_SRIOV_VF_EN : Fld := ⟨.pcie, 0x104, 7, 1, .ro, 0, 1, 0, false, []⟩
def PCIE_BAR2_WIN0_WIN : Fld := ⟨.pcie, 0x108, 0, 11, .rw, 0, 1, 0, false, []⟩
def PCIE_BAR2_WIN1_WIN : Fld := ⟨.pcie, 0x10c, 0, 11, .rw, 0, 1, 0, false, []⟩
def PCIE_BAR2_CTRL_HOLD_LIMIT_US : Fld := ⟨.pcie, 0x110, 0, 16, .rw, 500, 1, 0, false, [(1, 0xffff)]⟩
def PCIE_VF_TOK_MOD_US : Fld := ⟨.pcie, 0x114, 0, 16, .rw, 50, 1, 0, false, []⟩
def PIN_FUNC_SPI : Fld := ⟨.pin, 0x100, 0, 1, .rw, 0, 1, 0, false, []⟩
def PIN_FUNC_UART : Fld := ⟨.pin, 0x100, 1, 1, .rw, 0, 1, 0, false, []⟩
def PIN_FUNC_PMBUS : Fld := ⟨.pin, 0x100, 2, 1, .rw, 0, 1, 0, false, []⟩
def PIN_FUNC_SMBUS : Fld := ⟨.pin, 0x100, 3, 1, .rw, 0, 1, 0, false, []⟩
def PIN_FUNC_ALERT : Fld := ⟨.pin, 0x100, 4, 1, .rw, 0, 1, 0, false, []⟩
def PIN_GPIO_OE_OE : Fld := ⟨.pin, 0x104, 0, 24, .rw, 0, 1, 0, false, []⟩
def PIN_GPIO_OUT_OUT : Fld := ⟨.pin, 0x108, 0, 24, .rw, 0, 1, 0, false, []⟩
def PIN_GPIO_IN_IN : Fld := ⟨.pin, 0x10c, 0, 24, .ro, 0, 1, 0, false, []⟩
def PIN_GPIO_PULL_PULL : Fld := ⟨.pin, 0x110, 0, 24, .rw, 0xffffff, 1, 0, false, []⟩
def PIN_DRIVE_DRV : Fld := ⟨.pin, 0x114, 0, 2, .rw, 1, 1, 0, false, [(0, 2)]⟩
def PIN_ALERT_ASSERT : Fld := ⟨.pin, 0x118, 0, 1, .rw, 0, 1, 0, false, []⟩
def QRM_WITNESS_VALID : Fld := ⟨.qrm, 0x130, 31, 1, .rwl, 0, 7, 4, false, []⟩
def QRM_WSPARE_VALID : Fld := ⟨.qrm, 0x150, 31, 1, .rwl, 0, 8, 4, false, []⟩
def QRM_SPARE_VALID : Fld := ⟨.qrm, 0x180, 31, 1, .rw, 0, 8, 4, false, []⟩
def REMOTE_KEY : Fld := ⟨.tier, 0x400, 0, 32, .rw, 0, 64, 4, false, []⟩

def hdrFields : List Fld :=
  [CNT_CTRL_SNAP, CNT_CTRL_CLR, CNT_CTRL_VIEW, CNT_STAT_SNAP_SEQ, SNAP_TIME_TIME, ERR_EVENTS_COUNT, IRQ_EVENTS_COUNT, BLK_RESETS_COUNT, RSV_WRITES_COUNT, PG_RST_REQ, PG_RST_STATUS, PG_RST_TIMED_OUT, PG_ID_TYPE, PG_ID_INSTANCE, PG_VER_MINOR, PG_VER_MAJOR, PG_CTRL_LOCK, PG_CTRL_DEST, PG_CTRL_VEC, PG_STAT_BUSY, PG_STAT_ERR, PG_STAT_IRQ, PG_STAT_LOCKED, PG_IRQ_STAT] ++
  [PG_IRQ_EN, PG_ERR_CODE, PG_ERR_MULTI, PG_ERR_CLR, PG_READY_READY, PG_READY_FAILED]
def devFields : List Fld :=
  [DEV_SKU_BIN, DEV_SKU_STEPPING, DEV_SKU_PART, DEV_SERIAL_LO_SERIAL_LO, DEV_SERIAL_HI_SERIAL_HI, DEV_NODE_NODE, DEV_NODE_VALID, DEV_STRAP_VALUE, DEV_SCRATCH_DATA]
def rstcFields : List Fld :=
  [RSTC_CAUSE_CAUSE, RSTC_CAUSE_INSTANCE, RSTC_CAUSE_TIME_TIME, RSTC_CTRL_PERST_SCOPE, RSTC_CTRL_QUIESCE_US, DEV_RST_KEY, RSTC_THERM_RELEASE_C]
def pwrFields : List Fld :=
  [PWR_TILE_W_WATTS, PWR_THERM_LIMIT_C, PWR_ICC_TILE_A_MAX, PWR_IDLE_IDLE_US, PWR_OPP_CAP, PWR_OPP_FLOOR, PWR_OPP_CUR, PWR_OPP_LOOP, PWR_OPP_LIMITER, PWR_PORT_LP_MASK, PWR_PORT_OFF_MASK, PWR_SHL_RET_MASK, PWR_MEM_SR_BAS, PWR_MEM_SR_DEEP, PWR_TILE_GATE_MASK, PWR_SHARE_SHARE, RAIL_MV_MV, RAIL_MV_DECIAMPS, PWR_TEMP_MAX, PWR_TEMP_SENSOR]
def clkFields : List Fld :=
  [CLK_STAT_LOCK, CLK_MHZ_MHZ]
def wlhFields : List Fld :=
  [WLH_STAT_BOOTED, WLH_STAT_RECOVERY, WLH_STAT_STATE_A, WLH_STAT_STATE_B, WLH_STAT_TRIES, WLH_STAT_SVN_FLOOR, WLH_IMG_CTRL_CONFIRM, WLH_IMG_CTRL_RECOVERY_NEXT, WLH_WDOG_TIMEOUT_MS, WLH_KICK_KEY, WLH_UPD_SRC_LO_SRC_LO, WLH_UPD_SRC_HI_SRC_HI, WLH_UPD_LEN_LEN, WLH_UPD_CMD_OP, WLH_UPD_CMD_GO, WLH_UPD_CMD_BUSY, WLH_UPD_CMD_RESULT, WLH_FLASH_THR_ERASE_MS, WLH_FLASH_THR_RETRY]
def ledgFields : List Fld :=
  [LEDG_STAT_RO, LEDG_STAT_SEQ_END, LEDG_STAT_SPARES, LEDG_SEQ_NEXT, LEDG_WR_CMD_TYPE, LEDG_WR_CMD_KEY, LEDG_WR_CMD_GO, LEDG_WR_CMD_BUSY, LEDG_WR_CMD_RESULT, LEDG_RD_SEL_INDEX, LEDG_RD_SEL_BY_KEY, LEDG_RD_SEL_GO, LEDG_RD_SEL_FOUND, LEDG_RD_KEY_TYPE, LEDG_RD_KEY_KEY, LEDG_WR_DATA_DATA, LEDG_RD_DATA_DATA]
def uartFields : List Fld :=
  [UART_BAUD_FRAC, UART_BAUD_DIV, UART_CTRL_TX_EN, UART_CTRL_RX_EN, UART_STAT_TX_LEVEL, UART_STAT_RX_LEVEL, UART_STAT_OVERRUN, UART_STAT_FRAME_ERR, UART_DATA_DATA]
def pcieFields : List Fld :=
  [PCIE_LINK_GEN, PCIE_LINK_WIDTH, PCIE_LINK_FLIT, PCIE_LINK_BIFURCATED, PCIE_LINK_LINK1_UP, PCIE_SRIOV_NUM_VF, PCIE_SRIOV_VF_EN, PCIE_BAR2_WIN0_WIN, PCIE_BAR2_WIN1_WIN, PCIE_BAR2_CTRL_HOLD_LIMIT_US, PCIE_VF_TOK_MOD_US]
def syncFields : List Fld :=
  [SYNC_CTRL_FSYNC_EN, SYNC_CTRL_FSYNC_POL, SYNC_CTRL_TSYNC_EN, SYNC_CTRL_MIN_US, SYNC_STAT_FSYNC_LOST, SYNC_STAT_TSYNC_LOST, SYNC_FSYNC_LAST_TIME, SYNC_FSYNC_PERIOD_NS, SYNC_TSYNC_LAST_TIME]
def pinFields : List Fld :=
  [PIN_FUNC_SPI, PIN_FUNC_UART, PIN_FUNC_PMBUS, PIN_FUNC_SMBUS, PIN_FUNC_ALERT, PIN_GPIO_OE_OE, PIN_GPIO_OUT_OUT, PIN_GPIO_IN_IN, PIN_GPIO_PULL_PULL, PIN_DRIVE_DRV, PIN_ALERT_ASSERT]
def basFields : List Fld :=
  [BAS_MEM_STAT_ONLINE, BAS_MEM_STAT_DEGRADED, BAS_MEM_STAT_DIMMS, BAS_MEM_STAT_RATE, BAS_MEM_FRAMES_FRAMES, BAS_MEM_FREE_FREE, BAS_MEM_ERR_FRAME_FRAME]
def shlFields : List Fld :=
  [SHL_MEM_STAT_ONLINE, SHL_MEM_STAT_DEGRADED, SHL_MEM_STAT_DIMMS, SHL_MEM_STAT_RATE, SHL_MEM_FRAMES_FRAMES, SHL_MEM_FREE_FREE, SHL_MEM_ERR_FRAME_FRAME]
def tierFields : List Fld :=
  [TIER_CMD_ADDR_LO_ADDR_LO, TIER_CMD_ADDR_HI_ADDR_HI, TIER_CMD_COUNT_COUNT, TIER_CMD_OP, TIER_CMD_ARG, TIER_CMD_GO, TIER_CMD_BUSY, TIER_CMD_RESULT, TIER_CMD_DONE_DONE, TIER_POLICY_HW_EN, TIER_POLICY_PROMO_COUNT, TIER_POLICY_EPOCH_US, TIER_HOLD_TIMEOUT_US, TIER_MAP_CFG_MAP_FRAMES, TIER_MAP_CFG_SHL_SIDE_FRAMES, TIER_SIDE_CFG_BAS_SIDE, TIER_SIDE_CFG_DEEP_SIDE, TIER_CAP0_SHL_CAP, TIER_CAP0_BAS_CAP, TIER_CAP1_DEEP_CAP, TIER_STAT_OVER, TIER_STAT_SLOTS_BUSY, TIER_ZONE_COMMIT_SHL, TIER_ZONE_COMMIT_BAS] ++
  [TIER_ZONE_COMMIT_DEEP, TIER_ZONE_FIRST_TIER, TIER_ZONE_SHL_HIGH, TIER_ZONE_SHL_LOW, TIER_ZONE_BAS_HIGH, TIER_ZONE_BAS_LOW, REMOTE_KEY]
def deepFields : List Fld :=
  [DEEP_MEM_STAT_ONLINE, DEEP_MEM_STAT_DEGRADED, DEEP_MEM_STAT_DIMMS, DEEP_MEM_STAT_RATE, DEEP_MEM_FRAMES_FRAMES, DEEP_MEM_FREE_FREE, DEEP_MEM_ERR_FRAME_FRAME]
def dispFields : List Fld :=
  [DISP_ROLE_CUR, DISP_ROLE_TARGET, DISP_ROLE_DRAIN_MODE, DISP_ROLE_STATE, DISP_ROLE_HELD, DISP_CTRL_ENERGY_EN, DISP_CTRL_FSYNC_EN, DISP_CTRL_MON_EN, DISP_PRI_W_W2, DISP_PRI_W_W3, DISP_STORE_RSV_HI, DISP_STORE_USED, DISP_EVT_MASK_LAYER_MASK, DISP_EVT_MASK_STEP_MASK, DISP_LRING_LOG2_LOG2, DISP_LRING_BASE_LO_BASE_LO, DISP_LRING_BASE_HI_BASE_HI, DISP_LRING_TAIL_TAIL, DISP_LRING_HEAD_HEAD, DISP_ENERGY_RATE_RATE_MW, DISP_ENERGY_DEPTH_DEPTH_NJ, DISP_ENERGY_LEVEL_LEVEL_NJ, DISP_ENERGY_GRANT_GRANT_NJ, DISP_FSYNC_OFFSET_US] ++
  [DISP_FSYNC_SLOT, DISP_FSYNC_STAT_LAST_HOLD_NS, DISP_FSYNC_STAT_ON_EDGE, DISP_FAIL_TASK_ID, DISP_FAIL_TILE, DISP_FAIL_SLOT, DISP_FAIL_VALID, DISP_RS_SEL_INDEX, DISP_PF_SLOT_INDEX, DISP_PF_LEFT_US, DISP_RS_DATA_DATA, DISP_BACKLOG_US, DISP_ECOST_COST_NJ, DISP_CLASS_TTFT_US, DISP_CLASS_STEP_US, DISP_CLASS_FALLBACK, DISP_CLASS_FB_VALID, DISP_CLASS_SLOWDOWN, DISP_CLASS_BOOSTS, DISP_MODEL_PF_PS_PER_TOK, DISP_MODEL_TAIL_US, DISP_MODEL_SOLO_BASE_US, DISP_MODEL_SOLO_NS_PER_KTOK]
def sampFields : List Fld :=
  [SAMP_LBASE_LO_BASE_LO, SAMP_LBASE_HI_BASE_HI, SAMP_LSTRIDE_UNITS, SAMP_MODEL_VOCAB, SAMP_MODEL_EOS]
def moveFields : List Fld :=
  [MOVE_CTRL_STRIPES_M1, MOVE_CTRL_PREFETCH, MOVE_CTRL_PULL_RUN, MOVE_QP_CFG_FIRST, MOVE_QP_CFG_COUNT, MOVE_STAT_CTX_BUSY, MOVE_STAT_QP_BOUND, MOVE_PARK_RETRY_MS, MOVE_ADP_BASE_LO_BASE_LO, MOVE_ADP_BASE_HI_BASE_HI, MOVE_ADP_STRIDE_PAGES, MOVE_ADP_CMD_SLOT, MOVE_ADP_CMD_OP, MOVE_ADP_CMD_GO, MOVE_ADP_CMD_BUSY, MOVE_ADP_CMD_RESULT, MOVE_ADP_SRC_LO_SRC_LO, MOVE_ADP_SRC_HI_SRC_HI, MOVE_ADP_LEN_LEN, MOVE_ADP_NEW_ID, MOVE_ADP_NEW_VERSION, MOVE_ADP_RANK_RANK, MOVE_MSG_BASE_LO_BASE_LO, MOVE_MSG_BASE_HI_BASE_HI] ++
  [MOVE_PARK_NODE, MOVE_PARK_PART, MOVE_PARK_VALID, MOVE_CTX_SEL_INDEX, MOVE_CTX_DATA_DATA, ADP_SLOT_ID, ADP_SLOT_VERSION, ADP_SLOT_RANK, ADP_SLOT_STATE, ADP_SLOT_REFS, ADP_SLOT_LEN]
def admtFields : List Fld :=
  [ADMT_CTRL_EN, ADMT_CTRL_DEFER_MAX, ADMT_DEFER_RETRY_MS, ADMT_BIND_LO_TEN, ADMT_BIND_HI_TEN, ADMT_KV_BASE_LO_BASE_LO, ADMT_KV_BASE_HI_BASE_HI, ADMT_KV_SLOT_PAGES, ADMT_PAGE_LIMIT_LIMIT, ADMT_PAGE_RESV_RESV, ADMT_QUEUE_DEPTH, ADMT_MODEL_LAYERS, ADMT_MODEL_TOK_LOG2, ADMT_TEN_P_CRATE, ADMT_TEN_P_CSIZE, ADMT_TEN_P_PRATE, ADMT_TEN_P_PSIZE, ADMT_TEN_G_CRATE, ADMT_TEN_G_CSIZE, ADMT_TEN_G_PRATE, ADMT_TEN_G_PSIZE, ADMT_TEN_MAX_OPEN0, ADMT_TEN_MAX_OPEN1, ADMT_TEN_MAX_OPEN2] ++
  [ADMT_TEN_MAX_OPEN3, ADMT_TEN_IDLE_MS, ADMT_TEN_P_PEAK_LVL, ADMT_TEN_G_PEAK_LVL]
def tileFields : List Fld :=
  [ARITH_CTRL_ABFT_TOL_SHIFT, OPQ_CTRL_START_FILL, OPQ_STAT_A_LEVEL, OPQ_STAT_B_LEVEL, OPQ_STAT_A_STALL, OPQ_STAT_B_STALL, SB_STAT_INFLIGHT, SB_STAT_MAXLAT, SB_STAT_CLR_MAXLAT, SB_CTRL_WDOG, BANK_ARB_STARVE_LIMIT, SS_BASE_LO_BASE_LO, SS_BASE_HI_BASE_HI, PROG_SRC_LO_SRC_LO, PROG_SRC_HI_SRC_HI, PROG_LOAD_INDEX, PROG_LOAD_GO, PROG_LOAD_BUSY, PROG_LOAD_RESULT, DMA_FAR_REGION_KEY, DMA_FAR_PART, DMA_FAR_NODE, DMA_FAR_TC, DMA_FAR_VALID] ++
  [DMA_FAR_BASE, DMA_FAR_GEN]
def portFields : List Fld :=
  [PORT_CTRL_ENABLE, PORT_CTRL_ORDER_MODE, PORT_CTRL_RETRY_MAX, PORT_CTRL_ACK_TO_NS, PORT_STAT_LINK_UP, PORT_STAT_LANES_UP, PORT_STAT_STAGES, PORT_STAT_MODE_MISMATCH, PORT_TC_CIR, PORT_TC_PIR, PORT_TC_CBS, PORT_TC_PBS, PORT_TC_WEIGHT, PORT_TC_BURST]
def fengFields : List Fld :=
  [FENG_CTRL_RESP_TIMEOUT_US, FENG_STAT_PATH_LOST, FENG_STAT_NAK_OVF, FENG_STAT_SLOTS_BUSY, QP_DB_QIDX, QP_DB_RING, QP_DB_VALUE, TRIG_FIRE_TAG, TRIG_STAT_IN_USE, QPW_BANK_BANK, RGN_CMD_INDEX, RGN_CMD_OP, RGN_CMD_GO, RGN_CMD_BUSY, RGN_DATA_DATA]
def digFields : List Fld :=
  [DIG_CTRL_EN, DIG_CTRL_RATE, DIG_CTRL_EXCH_STEPS, DIG_REGION_VALID, DIG_REGION_SEALED, DIG_REGION_MSTATE, DIG_REGION_GROUP, DIG_REGION_PART_MASK, DIG_REGION_BASE_LO, DIG_REGION_BASE_HI, DIG_REGION_LEN_PAGES, DIG_REGION_CONTENT_ID, DIG_REGION_PASS, DIG_REGION_DIGEST, DIG_REGION_MEMBER0_NODE, DIG_REGION_MEMBER1_NODE, DIG_REGION_MEMBER2_NODE, DIG_REGION_MEMBER3_NODE, DIG_REGION_MEMBER4_NODE, DIG_REGION_MEMBER5_NODE, DIG_REGION_MEMBER6_NODE, DIG_REGION_MEMBER7_NODE, DIG_REGION_MEMBER0_REGION, DIG_REGION_MEMBER1_REGION] ++
  [DIG_REGION_MEMBER2_REGION, DIG_REGION_MEMBER3_REGION, DIG_REGION_MEMBER4_REGION, DIG_REGION_MEMBER5_REGION, DIG_REGION_MEMBER6_REGION, DIG_REGION_MEMBER7_REGION, DIG_REGION_MEMBER0_VALID, DIG_REGION_MEMBER1_VALID, DIG_REGION_MEMBER2_VALID, DIG_REGION_MEMBER3_VALID, DIG_REGION_MEMBER4_VALID, DIG_REGION_MEMBER5_VALID, DIG_REGION_MEMBER6_VALID, DIG_REGION_MEMBER7_VALID]
def elogFields : List Fld :=
  [ELOG_CTRL_EN, ELOG_CTRL_LOG2, ELOG_CTRL_ESC_LIMIT, ELOG_STAT_OVERFLOW, ELOG_RING_BASE_LO_BASE_LO, ELOG_RING_BASE_HI_BASE_HI, ELOG_TAIL_TAIL, ELOG_HEAD_HEAD, ELOG_SEQ_SEQ, ELOG_JRNL_SEL_ENGINE, ELOG_JRNL_SEL_INDEX, ELOG_JRNL_DATA_DATA]
def srchFields : List Fld :=
  [SRCH_CTRL_EN, POOL_BASE_LO_BASE_LO, POOL_BASE_HI_BASE_HI, POOL_COUNT_COUNT, POOL_CMD_REGION, POOL_CMD_MEMBER, POOL_CMD_OP, POOL_CMD_GO, POOL_CMD_BUSY, POOL_CMD_RESULT, POOL_CMD_TGT_NODE, POOL_CMD_TGT_PART, POOL_CMD_DONE_PAGES, CACHE_CFG_ENT_BASE_LO, CACHE_CFG_ENT_BASE_HI, CACHE_CFG_ENTRIES, CACHE_CFG_PARK_RGN, CACHE_CFG_PFX_RGN, CACHE_CFG_TTL_MAX_S, CACHE_CFG_ORPHAN_S, CACHE_CFG_IDX_LOG2, CACHE_CFG_IDX_BASE_LO, CACHE_CFG_IDX_BASE_HI, CACHE_CFG_RING_BASE_LO] ++
  [CACHE_CFG_RING_BASE_HI, CACHE_CFG_RING_LOG2, CACHE_CFG_RING_EN, CACHE_CFG_OLDEST_LO, CACHE_CFG_OLDEST_HI, CACHE_CFG_DIRTY]
def codecFields : List Fld :=
  [CODEC_ENC_CTRL_TBL_MASK, CODEC_ERR_ADDR_LO_ADDR_LO, CODEC_ERR_ADDR_HI_ADDR_HI, CODEC_ERR_INFO_TILE, CODEC_ERR_INFO_SOURCE, CODEC_ERR_INFO_SPACE, CODEC_ERR_INFO_REASON, CODEC_ERR_INFO_VALID]
def monFields : List Fld :=
  [MON_SNAP_AT_TIME, MON_SNAP_ALL_ARM, MON_SNAP_ALL_CLEAR, MON_SNAP_SEQ_SEQ, MON_SNAP_TIME_TIME, UNIT_SOURCE, UNIT_MODE, UNIT_SHIFT, UNIT_INDEX, UNIT_ANY, UNIT_CLASS_MASK, UNIT_BASE, UNIT_PERIOD_NS, UNIT_COUNT, UNIT_SUM, UNIT_MIN, UNIT_MAX, UNIT_UNDER, UNIT_DROPPED]
def finjFields : List Fld :=
  [FINJ_CTRL_PORT, FINJ_CTRL_MODE, FINJ_CTRL_DIR, FINJ_CTRL_PARAM, FINJ_CTRL_ARM, FINJ_RATE_RATE_LOG2, FINJ_RATE_PATTERN, FINJ_SEED_SEED, FINJ_LIMIT_LIMIT, INJECTED_COUNT]
def qrmFields : List Fld :=
  [QRM_CTRL_EN, QRM_CTRL_GATE, QRM_STAT_IN_QUORUM, QRM_STAT_LEADER, QRM_STAT_WITNESS, QRM_STAT_ISOLATED, QRM_STAT_WIT_SEEN, QRM_EPOCH_LO_EPOCH_LO, QRM_EPOCH_HI_EPOCH_HI, QRM_FENCE_DP_MASK, QRM_FENCE_MIRROR_MASK, QRM_FENCE_NOW_MASK, QRM_UNFENCE_REQ_MASK, QRM_WIT_ACTIVE_MASK, QRM_WITNESS_NODE, QRM_WSPARE_NODE, QRM_SPARE_PART, QRM_REPLAY_MASK, QRM_CKPT_BASE_LO_BASE_LO, QRM_CKPT_BASE_HI_BASE_HI, QRM_PC_HB_BEAT, QRM_WITNESS_VALID, QRM_WSPARE_VALID, QRM_SPARE_VALID]
def timeFields : List Fld :=
  [TIME_NOW_NS, TIME_CTRL_MASTER, TIME_CTRL_PPS_EN, TIME_CTRL_MASTER_NODE, TIME_SET_NS, TIME_STAT_SYNCED, TIME_STAT_ERR_NS]

/-- The block-specific fields of a page kind. -/
def fields : Kind → List Fld
  | .hdr => hdrFields
  | .dev => devFields
  | .rstc => rstcFields
  | .pwr => pwrFields
  | .clk => clkFields
  | .wlh => wlhFields
  | .ledg => ledgFields
  | .uart => uartFields
  | .pcie => pcieFields
  | .sync => syncFields
  | .pin => pinFields
  | .bas => basFields
  | .shl => shlFields
  | .tier => tierFields
  | .deep => deepFields
  | .disp => dispFields
  | .samp => sampFields
  | .move => moveFields
  | .admt => admtFields
  | .tile => tileFields
  | .port => portFields
  | .feng => fengFields
  | .dig => digFields
  | .elog => elogFields
  | .srch => srchFields
  | .codec => codecFields
  | .mon => monFields
  | .finj => finjFields
  | .qrm => qrmFields
  | .time => timeFields

end Sys2Proof.Machine.Reg
end

