-- ==== Sys2Proof/Machine/State.lean ====
section
/-! DEFINITION. The state of the block as plain data, the reasons a step can stop, and the state after reset. -/

namespace Sys2Proof.Machine
open Sys2Proof

/-- Reasons the machine stops. The device never halts (INVENTORY.md, Faults). -/
inductive Fault where
  /-- Raised by no command: every error of the device is recorded and the device goes on. Safe. -/
  | none
deriving DecidableEq, Repr

/-- Commands without a meaning. -/
inductive Refusal where
  /-- Raised by an arm of `exec` whose command has no meaning yet. Safe. -/
  | notModelled (mnemonic : String)
deriving DecidableEq, Repr

/-- Bytes by address: the State Space, tile SRAM, flash and the recovery buffer. -/
abbrev Memory := List Host.Cell

/-- DMA_FAR[k] as latched with a descriptor (Table 03-10, R67). -/
structure FarEntry where
  key : Word := 0
  part : PartId := 0
  node : Nat := 0
  tc : Fin 8 := 0
  valid : Bool := false
  base : Nat := 0
  gen : Nat := 0
deriving DecidableEq, Repr

/-- Scoreboard slot states (Table 03-5). -/
inductive SlotState where
  | free | waiting | ready | running | merging
deriving DecidableEq, Repr

/-- A DMA task's transfers with FAR space (R68, R171): the pieces read so far and how far it has asked, by offset from the
source; the bytes for the destination, how far it has stored them and how many pieces are acknowledged; the first refusal with
its GFA. -/
structure FarRun where
  got : Map (List Byte) := []
  asked : Nat := 0
  data : Option (List Byte) := none
  sent : Nat := 0
  acked : Nat := 0
  err : Option (Nat × Nat) := none
deriving DecidableEq, Repr

/-- A scoreboard slot with what it latched on arrival (R67) and at the start of an ATTENTION task (R83); `wrote`: its output
has gone to the tier controller, which holds part of it (R136); `prompt`: since it became READY its engine has been free, its
credit covered it and no task was selected ahead of it (R76). -/
structure Slot where
  st : SlotState := .free
  desc : BitVec 512 := 0
  reqSlot : Nat := 0
  order : Nat := 0
  since : Nat := 0
  ssBase : Nat := 0
  farA : FarEntry := {}
  farOut : FarEntry := {}
  reportWait : Bool := false
  stalled : Bool := false
  tblMask : Nat := 0
  attnDone : Bool := false
  attnEntry : BitVec 256 := 0
  attnBlock : BitVec 512 := 0
  attnPages : List Nat := []
  injected : Nat := 0
  wrote : Bool := false
  far : FarRun := {}
  prompt : Bool := false
deriving DecidableEq, Repr

/-- A buffer tag (R70). -/
structure Tag where
  ready : Bool := false
  readers : Nat := 0
deriving DecidableEq, Repr

/-- A loaded program: its header (Table 03-7) and its code. A code length of 0 is an empty slot. -/
structure Prog where
  code : List Byte := []
  codeLen : Nat := 0
  flags : Nat := 0
  entry : Nat := 0
  minVer : Nat := 0
  buildId : Nat := 0
deriving DecidableEq, Repr

/-- A descriptor in the Dispatcher's task store with its request slot (R262, R271). -/
structure Queued where
  desc : BitVec 512
  slot : Nat
  launch : Nat
deriving DecidableEq, Repr

/-- A tile: scoreboard, tags, program store, load in progress, energy credit (R274); `bankWait`: cycles in a row a requester of a
bank has been refused, by bank × 8 + requester (R59); `acc`: products accumulated in an ACCX element of its SRAM with the
element's 16 bytes, by offset (R39); `coming`: descriptors sent to it that have not arrived (R74). -/
structure Tile where
  slots : Map Slot := []
  tags : Map Tag := []
  progs : Map Prog := []
  load : Option (Nat × Nat) := none
  nextOrder : Nat := 0
  credit : Nat := 0
  bankWait : Map Nat := []
  acc : Map (Nat × Nat) := []
  coming : List Queued := []
deriving DecidableEq, Repr

/-- One row of an attention node (R97). -/
structure NodeRow where
  m : Word
  l : Word
  o : List Word
deriving DecidableEq, Repr

/-- A node of the fixed tree (R93) with its header counts (Table 04-5). -/
structure Node where
  entry : Nat
  level : Nat
  j : Nat
  dim : Nat
  computed : Nat
  skipped : Nat
  partialBlocks : Nat
  rows : List NodeRow
deriving DecidableEq, Repr

/-- Merge slot states (Table 04-6). -/
inductive MergeState where
  | free | gathering | emitting
deriving DecidableEq, Repr

/-- A merge slot: the fields of the opening task, the stored nodes and the tasks in MERGING on it (R98); `wrote`: its output has
gone to the tier controller, which holds part of it (R136); `tok`: tokens of a page, of the opening task. -/
structure MergeSlot where
  st : MergeState := .free
  desc : BitVec 512 := 0
  ssBase : Nat := 0
  tile : Nat := 0
  nb : Nat := 0
  hs : Nat := 0
  target : Nat := 0
  rowIndex : List Nat := []
  nodes : List Node := []
  tasks : List (Nat × Nat) := []
  wrote : Bool := false
  tok : Nat := 64
deriving DecidableEq, Repr

/-- A request slot (Table 11-2) with the device's bookkeeping of its step. -/
structure ReqSlot where
  valid : Bool := false
  group : Bool := false
  basePri : Fin 4 := 0
  effPri : Fin 4 := 0
  failed : Bool := false
  cls : Fin 16 := 0
  model : Fin 16 := 0
  inGroup : Nat := 0
  member : Bool := false
  reqId : Nat := 0
  boostLeft : Nat := 0
  step : Nat := 0
  ewma : Nat := 0
  kvLen : Nat := 0
  boosts : Nat := 0
  pfLeft : Nat := 0
  stepT0 : Nat := 0
  stepOn : Bool := false
  sampled : Bool := false
  startNs : Nat := 0
  lastStep : Nat := 0
  replaying : Bool := false
deriving DecidableEq, Repr

/-- An active launch: its record (Table 11-1), the next descriptor to read, the priority it stamps. -/
structure Launch where
  record : BitVec 256
  next : Nat
  id : Nat
deriving DecidableEq, Repr

/-- A tracked END_OF_LAYER or END_OF_STEP value and the tiles that reported it (R269). -/
structure Evt where
  value : Nat
  tiles : Nat
deriving DecidableEq, Repr

/-- A partition's Dispatcher, merge unit and Sampler. -/
structure Part where
  slots : Map ReqSlot := []
  stage : List Word := []
  started : List Nat := []
  active : List Launch := []
  nextLaunch : Nat := 0
  store : Map (List Queued) := []
  deficit : Map Int := []
  layerEvts : List Evt := []
  stepEvts : List Evt := []
  energyCarry : Nat := 0
  rr : Nat := 0
  fsyncHold : Option (Nat × Nat) := none
  fsyncFirst : Bool := true
  merge : Map MergeSlot := []
  samplerDue : List Nat := []
  slowdownSeen : List Nat := []
deriving DecidableEq, Repr

/-- A run of pages a PULL context has still to ask for (R221, R243): its first page, its length, and whether it is a
prefetch. -/
structure PullRun where
  page : Nat
  count : Nat
  prefetch : Bool
deriving DecidableEq, Repr

/-- A move context (Table 09-1) with the mover's bookkeeping. `layerDone`: by layer, at a sender the stripes completed, at a
receiver the queue pairs whose stripe is in, as bits; `closed`: CLOSE is answered, and its data QPs go back once they are flushed
(R225); `parkNext`: the layer of a park that waits for migration slots (R137). -/
structure MoveCtx where
  kind : Nat := 0
  state : Nat := 0
  wmValid : Bool := false
  stripesM1 : Nat := 0
  qpFirst : Nat := 0
  reqId : Nat := 0
  layers : Nat := 0
  pages : Nat := 0
  wmLayer : Nat := 0
  wmPage : Nat := 0
  localBase : Nat := 0
  remoteBase : Nat := 0
  peerNode : Nat := 0
  peerPart : PartId := 0
  remoteKey : Word := 0
  stride : Nat := 0
  sideBytes : Nat := 0
  pass : Nat := 0
  status : Nat := 0
  ttlMs : Nat := 0
  kvLen : Nat := 0
  peerCtx : Nat := 0
  bound : Bool := false
  layerDone : Map Nat := []
  layerAt : Map Nat := []
  staged : List Nat := []
  restarted : Bool := false
  parkIdx : Nat := 0
  keyIdx : Nat := 0
  entry : Nat := 0
  runs : List PullRun := []
  asked : Bool := false
  askId : Nat := 0
  remoteStage : Nat := 0
  copyRun : Bool := false
  readyReported : Bool := false
  startedAt : Nat := 0
  closed : Bool := false
  parkNext : Option Nat := none
deriving DecidableEq, Repr

/-- An adapter load as its command latched it (R230). -/
structure AdpLoad where
  slot : Nat
  src : Nat
  id : Nat
  version : Nat
  rank : Nat
  len : Nat
deriving DecidableEq, Repr

/-- A partition's State Mover: `outbox`: messages that wait for a send buffer, by QP; `buffers`: send buffers in use, by QP and
number (R414). -/
structure Mover where
  ctxs : Map MoveCtx := []
  adpLoad : Option AdpLoad := none
  parkWaits : List (Nat × Nat) := []
  attaching : List (Nat × Nat) := []
  posts : List (Nat × BitVec 512) := []
  outbox : List (QpId × List Byte) := []
  buffers : List (Nat × Nat) := []
deriving DecidableEq, Repr

/-- What a request is doing (R289, R295, R297). -/
inductive ReqState where
  | deferred | opening | running | parking | resuming | ending
deriving DecidableEq, Repr

/-- An open request of a tenant (R288 to R302). -/
structure Req where
  reqId : Nat
  tenant : TenId
  desc : BitVec 1024
  stops : List (List Nat)
  st : ReqState
  weir : PartId
  model : Fin 16
  fallback : Bool
  promptPart : Option PartId
  genPart : Option PartId
  genSlot : Nat
  pass : Nat
  need : Nat
  readAt : Nat
  tokens : Nat
  outBuf : List (Nat × Nat)
  emitted : List Nat
  pos : Nat
  layers : Nat
  pages : Nat
  lastTok : Nat
  specEpoch : Nat
  adapter : Option Nat
  endStatus : Option (Nat × Nat)
  recorded : Bool := false
  cached : Nat := 0
  cachedFb : Nat := 0
  green : Bool := false
  placedAt : Nat := 0
  prompt : List Nat := []
deriving DecidableEq, Repr

/-- Where a conversation's state is (R289, R290). -/
inductive ConvState where
  | resident | parked | relocating
deriving DecidableEq, Repr

/-- A conversation (R288 CONV_ID) and its pages' place. -/
structure Conv where
  tenant : TenId
  convId : Nat
  st : ConvState
  part : PartId
  slot : Nat
  need : Nat
  kvLen : Nat
  layers : Nat
  model : Fin 16
  reqId : Nat
  handleAddr : Nat
  handle : BitVec 256
  idleFrom : Nat
  parkReq : Nat := 0
  adapter : Option (Nat × Nat) := none
deriving DecidableEq, Repr

/-- A Completion Record (Table 12-5) before its PHASE is known. -/
structure CplRec where
  reqId : Nat
  convId : Nat
  status : Nat
  final : Bool
  notice : Bool
  handle : Bool
  fallback : Bool
  detail : Nat
  tokens : Nat
  pages : Nat
  layers : Nat
  qpos : Nat
  whenNs : Nat
deriving DecidableEq, Repr

/-- A token budget: committed and peak level in 2⁻¹⁶ tokens (R294). -/
structure Budget where
  c : Int := 0
  k : Int := 0
deriving DecidableEq, Repr

/-- A tenant: its doorbell page (Table 12-1), ring pointers (R285, R286), budgets and waiting records. -/
structure Tenant where
  reqBase : Word64 := 0
  tokBase : Word64 := 0
  cplBase : Word64 := 0
  statAddr : Word64 := 0
  reqLog2 : Nat := 4
  tokLog2 : Nat := 6
  cplLog2 : Nat := 4
  en : Bool := false
  reqTail : Nat := 0
  reqHead : Nat := 0
  tokHead : Nat := 0
  tokTail : Nat := 0
  cplHead : Nat := 0
  cplTail : Nat := 0
  p : Budget := {}
  g : Budget := {}
  refilled : Nat := 0
  waiting : List CplRec := []
  modUntil : Nat := 0
  modPend : Bool := false
deriving DecidableEq, Repr

/-- A directory entry (Table 06-4). -/
structure DirEntry where
  valid : Bool := false
  used : Nat := 0
  leaf : Nat := 0
deriving DecidableEq, Repr

/-- Page states (Table 06-6). -/
inductive PageState where
  | unwritten | resident (t : TierName) | inTransit | remote | poisoned
deriving DecidableEq, Repr

/-- A leaf entry (Table 06-5). -/
structure Leaf where
  st : PageState := .unwritten
  pin : Fin 4 := 0
  hint : Fin 4 := 0
  side : Bool := false
  age : Nat := 0
  frame : Nat := 0
  frameTier : TierName := .deep
  sideSlot : Nat := 0
  node : Nat := 0
  part : PartId := 0
  rpage : Nat := 0
  keyIdx : Nat := 0
deriving DecidableEq, Repr

/-- The fabric packet an access serves: a memory-semantic request by opcode (Table 07-4), data of a packet of a QP by PSN, or a
QREAD_REQ. `first`: of the packets of a WR that replaces the page, this one reached it first (R191). -/
inductive FabOp where
  | mem (op : Nat) (r : MemReq)
  | qp (q : QpId) (psn : Nat) (first : Bool)
  | read (r : QpReq)
deriving DecidableEq, Repr

/-- An access waiting on a page (R131). `ticket` names a BAR2 read (R390) or orders fabric requests (R168); `own`: a unit of
the device makes it, which takes its answer from `Tier.answers`. -/
structure Held where
  src : Accessor
  offset : Nat
  len : Nat
  write : Option (List Byte)
  ticket : Nat
  fab : Option FabOp := none
  own : Bool := false
deriving DecidableEq, Repr

/-- How a held access of a unit of the device ended (R131, R136, R138): done, refused with a code of Table 06-13, or failed
with a fabric status of Table 07-6. -/
inductive HeldEnd where
  | done
  | refused (code : Nat)
  | failed (status : Nat) (gfa : Nat)
deriving DecidableEq, Repr

/-- The answer to a held access of a unit of the device, until that unit takes it. -/
structure Answer where
  src : Accessor
  offset : Nat
  write : Bool
  res : HeldEnd
deriving DecidableEq, Repr

/-- A local move that waits for a migration slot (R137); `hw` as in `Mig`. -/
structure WaitMig where
  page : Nat
  dst : TierName
  hw : Nat
deriving DecidableEq, Repr

/-- A FLUSH marker that waits at the target (R168): the requests before it have lower tickets. -/
structure Marker where
  r : MemReq
  plane : PortId
  ticket : Nat
deriving DecidableEq, Repr

/-- What a migration slot is doing (R137, R191, R219, R221). -/
inductive MigKind where
  | localMove | pull | park | replace
deriving DecidableEq, Repr

/-- One of the 256 migration slots, with operations held until the page leaves IN_TRANSIT (R138);
`hw` 1: a promotion, 2: a demotion (R139); `owner`: the QP of a REPLACE and the PSN of the page's first byte (R191);
`sided`: a side slot at the destination is reserved (R127); `via`: the QP that brings a pulled page (R222). -/
structure Mig where
  page : Nat
  prev : Leaf
  kind : MigKind
  dstTier : TierName
  dstFrame : Nat
  dstSide : Nat
  start : Nat
  bytes : Nat
  staged : Memory
  later : List (Nat × Nat)
  hw : Nat := 0
  owner : Option (QpId × Nat) := none
  sided : Bool := false
  via : Option QpId := none
deriving DecidableEq, Repr

/-- A reader directory entry (R174). -/
structure RdEntry where
  page : Nat
  nodes : List Nat
  bcast : Bool
  rgFirst : Nat
  rgCount : Nat
deriving DecidableEq, Repr

/-- An invalidation pass: the nodes awaited, its start, the writer to answer (none for a directory eviction). -/
structure InvPass where
  page : Nat
  awaited : List Nat
  start : Nat
  writer : Option MemReq
deriving DecidableEq, Repr

/-- A running tier command (R141): its operation, first page and count as latched, the pages done, and its result (3
while it is not ready to end). -/
structure TierCmd where
  op : Nat
  arg : Nat
  first : Nat
  count : Nat
  done : Nat
  result : Nat
deriving DecidableEq, Repr

/-- The tier controller. `sideMem` holds side records at page × 2,176 (R127); `counts` holds the accesses of an epoch
plus 1 for each page in the map cache (R128, R139); `stalled`: accesses beyond the 64 a page holds (R131); `demoting`: the
zones and tiers being brought down to LOW, as zone × 4 + tier (Table 06-9); `capLost`: bandwidth a tier has lost since it
was trained (R144); `acc`: products accumulated in an ACCX element with its 16 bytes, by offset (R39). -/
structure Tier where
  dirs : Map DirEntry := []
  pages : Map Leaf := []
  leaves : Map Bool := []
  frames : Map Bool := []
  retired : Map Bool := []
  sides : Map Bool := []
  sideMem : Memory := []
  filling : List Nat := []
  held : Map (List Held) := []
  stalled : Map (List Held) := []
  answers : List Answer := []
  waitMigs : List WaitMig := []
  demoting : List Nat := []
  capLost : Map Nat := []
  acc : Map (Nat × Nat) := []
  migs : List Mig := []
  counts : Map Nat := []
  readers : List RdEntry := []
  passes : List InvPass := []
  passQueue : List MemReq := []
  markers : List Marker := []
  cmd : Option TierCmd := none
  nextTicket : Nat := 0
deriving DecidableEq, Repr

/-- A cached remote line (R172): its partition's slice, what it holds and under which key. Newest use first. -/
structure Line where
  part : PartId
  node : Nat
  gpart : PartId
  block : Nat
  key : Word
  data : List Byte
deriving DecidableEq, Repr

/-- Kinds of outstanding requests (R153). -/
inductive ReqKind where
  | load | store | atomic | flush | invalidate
deriving DecidableEq, Repr

/-- Who waits for the answer of a request: the issuer that gave it by command, a DMA task of a tile slot (by its arrival
order) for one of its pieces (R68), or the pooled region that forwarded an update (R247). -/
inductive ReqOwner where
  | issuer
  | dma (t : TileId) (slot : Fin 64) (order piece : Nat)
  | pool
deriving DecidableEq, Repr

/-- An occupied request slot of an engine (R153). `noInstall`: an INV arrived since (R176). -/
structure Outst where
  kind : ReqKind
  req : MemReq
  issued : Nat
  noInstall : Bool
  planes : List Nat
  answers : List (Nat × Nat)
  owner : ReqOwner := .issuer
deriving DecidableEq, Repr

/-- A registered held WR (R192). -/
structure Trig where
  qp : QpId
  index : Nat
  wr : BitVec 512 := 0
  src : Nat
  tag : Nat
  released : Bool
  since : Nat
deriving DecidableEq, Repr

/-- A region command in progress (R197). -/
structure RgnCmd where
  op : Nat
  index : Nat
  start : Nat
deriving DecidableEq, Repr

/-- A fabric engine. `dropped`: tags of requests that a block reset discarded (R347). -/
structure Engine where
  slots : Map (Option Outst) := []
  naks : List (Nat × Nat × Nat) := []
  nakOvf : Bool := false
  trigs : List Trig := []
  journal : List (BitVec 256) := []
  jseq : Nat := 0
  frozen : Bool := false
  spray : Nat := 0
  sentPlanes : Nat := 0
  rgn : Option RgnCmd := none
  dropped : List Nat := []
deriving DecidableEq, Repr

/-- A region table entry (Table 07-2). -/
structure Region where
  valid : Bool := false
  read : Bool := false
  write : Bool := false
  atomic : Bool := false
  cacheOk : Bool := false
  window : Bool := false
  gen : Nat := 0
  keyCheck : Nat := 0
  base : Nat := 0
  lenM1 : Nat := 0
  rgFirst : Nat := 0
  rgCount : Nat := 0
deriving DecidableEq, Repr

/-- QP states (Table 08-1). -/
inductive QpState where
  | reset | init | rts | error
deriving DecidableEq, Repr

/-- A started work request: its entry, PSNs and what it still awaits; `rnrHit`: a packet of it was answered with RNR and waits to
be sent again (R188). One that SQ_HEAD has passed keeps its record until its packets are acknowledged, under an index no entry
has. -/
structure OpenWr where
  index : Nat
  wr : BitVec 512
  psn : Nat
  packets : Nat
  answered : Bool
  delivered : Bool
  done : Bool
  rnr : Nat
  rnrHit : Bool := false
deriving DecidableEq, Repr

/-- A received packet that waits for placement: a trigger, a PLACE write, a marker or a cancel (R187, R416). -/
structure RxWait where
  op : Nat
  psn : Nat
  req : QpReq
  done : Bool
deriving DecidableEq, Repr

/-- A QP context (Table 08-1) with the transport's bookkeeping (R194, R195, R416): `cqeWait`: entries that wait for room, a
receiver's with the receive entry it reports (R183); `regTo`: how far the engine has read posted WRs for registration (R192);
`reached`: the pages that WRs with REPLACE have reached, by the PSN of the page's first packet (R191); `recvOn`: the mover keeps
receive entries posted (R414); `provSent`: epochs of provisional WRITEs that no CANCEL of the QP has settled, with the page each
came from (R229). -/
structure Qp where
  st : QpState := .reset
  tc : Fin 8 := 0
  remNode : Nat := 0
  remPart : PartId := 0
  remQpn : QpId := 0
  sqBase : Nat := 0
  rqBase : Nat := 0
  cqBase : Nat := 0
  sqLog2 : Nat := 0
  rqLog2 : Nat := 0
  cqLog2 : Nat := 0
  sqTail : Nat := 0
  sqHead : Nat := 0
  rqTail : Nat := 0
  rqHead : Nat := 0
  cqHead : Nat := 0
  cqTail : Nat := 0
  nextPsn : Nat := 0
  retryLimit : Nat := 0
  rnrLimit : Nat := 0
  unaPsn : Nat := 0
  ackTo : Nat := 0
  epsn : Nat := 0
  rnrUs : Nat := 0
  holdTo : Nat := 0
  rxSpec : Nat := 0
  rxMap : Nat := 0
  txMap : Nat := 0
  nextWr : Nat := 0
  wrs : List OpenWr := []
  early : List Nat := []
  rxWaits : List RxWait := []
  unplaced : List (Nat × Nat) := []
  rqUsed : Nat := 0
  rqOpen : List (Nat × Nat × Nat × Nat) := []
  lenErr : List Nat := []
  lateCode : Option Nat := none
  toAck : Nat := 0
  ackFrom : Nat := 0
  rounds : Nat := 0
  progressAt : Nat := 0
  rnrAt : Option Nat := none
  flushed : Bool := false
  cqeWait : List (BitVec 256 × Option Nat) := []
  regTo : Nat := 0
  reached : List Nat := []
  recvOn : Bool := false
  provSent : List (Nat × Nat) := []
  sqPsn : Nat := 0
  headAt : Nat := 0
  lastPlane : Option Nat := none
deriving DecidableEq, Repr

/-- A port's link layer, policers and queues (R199 to R205): held flits with their SEQ and the time they were last sent;
`queues`: packets that passed the policer, by class, those of `mid` partly sent; `waiting`: packets held red; `delayed`:
packets a REORDER injection holds back, with the packets of their class still to go first. Policer levels are in tenths of
a byte. -/
structure Port where
  seqNext : Nat := 0
  exp : Nat := 0
  held : List (Nat × Nat × List Byte) := []
  replays : Nat := 0
  awaitingExp : Bool := false
  rxUnacked : Nat := 0
  rxFrom : Nat := 0
  credits : Map Nat := []
  tcLvl : Map Nat := []
  tpLvl : Map Nat := []
  tLast : Map Nat := []
  queues : Map (List (List Byte)) := []
  waiting : Map (List (List Byte)) := []
  mid : List Nat := []
  redCounted : List Nat := []
  drr : Map Nat := []
  drrAt : Nat := 7
  creditsBack : Map Nat := []
  delayed : List (Nat × List Byte × Nat) := []
deriving DecidableEq, Repr

/-- The fault injector (R205): LFSR, flits since the last periodic injection, injections since ARM. -/
structure Finj where
  lfsr : Word := 1
  flits : Nat := 0
  count : Nat := 0
deriving DecidableEq, Repr

/-- A search or a prefix insert in progress: its partition, descriptor, the time it was taken, what was latched. -/
structure Work where
  ticket : Nat
  part : PartId
  desc : BitVec 512
  taken : Nat
  coll : BitVec 512
  entry : Option Nat
deriving DecidableEq, Repr

/-- A pooled-region update forwarded to a peer and not yet placed (R247): the request it serves with its place among the
fabric requests, the STORE to the peer, and whether that has left. -/
structure PoolFwd where
  region : Nat
  op : Nat
  req : MemReq
  bytes : List Byte
  ticket : Nat
  fwd : MemReq
  sent : Bool
deriving DecidableEq, Repr

/-- The SRCH block: work in progress, lease sets (partition, lease member page base, pages, overflow), forwards. -/
structure Srch where
  works : List Work := []
  nextTicket : Nat := 0
  lease : List (Nat × Nat × List Nat) := []
  fwds : List PoolFwd := []
  poolCmd : Option (Nat × Nat × Nat) := none
  lastPull : Map Nat := []
deriving DecidableEq, Repr

/-- The values of a capture unit (R310, R311). -/
structure UnitVals where
  count : Nat := 0
  sum : Nat := 0
  min : Nat := 18446744073709551615
  max : Nat := 0
  under : Nat := 0
  dropped : Nat := 0
  bins : Map Nat := []
deriving DecidableEq, Repr

/-- A capture unit: live values, shadow, samples waiting (R311). -/
structure CapUnit where
  live : UnitVals := {}
  shadow : UnitVals := {}
  queue : List Nat := []
  sampledAt : Nat := 0
deriving DecidableEq, Repr

/-- A digest region's pass and the members heard from (R327, R328). -/
structure DigRegion where
  clean : Bool := false
  dirty : Bool := false
  steps : Nat := 0
  members : List DigestMsg := []
  minority : Map Nat := []
deriving DecidableEq, Repr

/-- The error log (R316, R317): recent records, newest first; SEVERITY 2 times per partition; the last millisecond of a
CORRECTED record per page; records for the ledger. -/
structure Elog where
  recent : List (BitVec 512) := []
  sev2 : Map (List Nat) := []
  corrected : Map Nat := []
  toLedger : List (BitVec 512) := []
deriving DecidableEq, Repr

/-- The quorum: committed fence table (node × 32 + partition to fence epoch + 1); by node, the last 5 heartbeat intervals
(bit 5: the node is known; bits 4 to 0: missed, the newest lowest); by node × 32 + partition, heartbeats in a row with the
bit clear; suspicions, votes and commits; `fencing`: fences between F1 and F3 with their causes. -/
structure Qrm where
  table : Map Nat := []
  missed : Map Nat := []
  clear : Map Nat := []
  heard : List Nat := []
  reports : List (Nat × Nat) := []
  suspected : List (Nat × Nat) := []
  voted : List Nat := []
  prop : Option (QDecision × List Nat) := none
  commits : List QDecision := []
  unacked : List (Nat × Nat × Nat) := []
  acks : List Nat := []
  badIntervals : Nat := 0
  seqOut : Nat := 0
  seen : List (Nat × Nat) := []
  pcBeat : List Nat := []
  diverged : Bool := false
  fencing : List (Nat × Nat) := []
  peerEpoch : Nat := 0
  unfenceReqs : List (Nat × Nat) := []
  syncBuf : List (Nat × PartId × Nat) := []
deriving DecidableEq, Repr

/-- Power: units in a mode and waking, when each went idle, operating point moves, limits acting. -/
structure Pwr where
  inMode : List LpUnit := []
  waking : List LpUnit := []
  idleFrom : List (LpUnit × Nat) := []
  moving : List (Nat × Nat) := []
  thermHot : List Nat := []
  currHit : List Nat := []
  stretches : Map Nat := []
  railMiss : Map Nat := []
deriving DecidableEq, Repr

/-- Pins and waits of the reset controller: PWR_GOOD, RESET_N, PERST#, a thermal trip held, a device reset that waits for
the end of a ledger write (R346), PLLs without lock, block resets in progress, the straps last sampled. -/
structure Rst where
  pwrGood : Bool := false
  resetLow : Bool := false
  perstLow : Bool := false
  thermHeld : Bool := false
  waiting : Option Nat := none
  lost : List Pll := []
  quiesceAt : Map Nat := []
  straps : Nat := 0
deriving DecidableEq, Repr

/-- Slot states of Table 16-3. -/
inductive ImgState where
  | empty | writing | trial | confirmed | retired | bad
deriving DecidableEq, Repr

/-- A flash sector's record (Table 16-6). -/
structure Sector where
  erased : Bool := false
  retired : Bool := false
  erases : Nat := 0
  eraseUs : Nat := 0
  progUs : Nat := 0
  retries : Nat := 0
  intent : Bool := false
deriving DecidableEq, Repr

/-- Fuses (R356, R360, R393). A key slot holds a hash unless unfused or revoked. -/
structure Fuses where
  binB : Bool := false
  serial : Word64 := 0
  keys : List (Option (BitVec 384)) := []
  svn : Nat := 0
deriving DecidableEq, Repr

/-- An update or recovery command in progress (R358, R364): install or verify, its slot, image length and result so far, the
SEQ of the UART frame to answer; of an install, the sector under way, whether it is erased, and the bytes placed. -/
structure Upd where
  install : Bool
  boot : Bool := false
  slotB : Bool := false
  len : Nat
  result : Nat := 0
  recovery : Bool := false
  seq : Option Byte := none
  sector : Option Nat := none
  erased : Bool := false
  done : Nat := 0
deriving DecidableEq, Repr

/-- A store object (R361): its ID, FORMAT, SEQ and payload, and where in the store its header stands. -/
structure StoreObj where
  id : Nat
  format : Nat
  seq : Nat
  payload : List Byte
  place : Nat
deriving DecidableEq, Repr

/-- The Wellhead: flash, slot states and tries (IMG_STATE), watchdog, commands, recovery page and buffer (R353 to R365);
`config`: the CONFIG component of the image that runs, `objects`: the store objects it has read, one for each ID (R361). -/
structure Wlh where
  flash : Memory := []
  flashSize : Nat := 67108864
  stA : ImgState := .empty
  stB : ImgState := .empty
  triesA : Nat := 0
  triesB : Nat := 0
  bootB : Bool := false
  running : Bool := false
  kicked : Nat := 0
  warned : Bool := false
  upd : Option Upd := none
  sectors : Map Sector := []
  pctl : List Byte := []
  config : List Byte := []
  objects : List StoreObj := []
  pctlHash : BitVec 384 := 0
  rcvLen : Nat := 0
  rcvResult : Nat := 0
  rcvBuf : Memory := []
  lastSeq : Option Byte := none
  lastAns : Nat := 0
deriving DecidableEq, Repr

/-- The ledger: records, newest first; the writes in progress, oldest first (R366, R367). -/
structure Ledger where
  recs : List (BitVec 1024) := []
  writing : List (BitVec 1024) := []
  readOnly : Bool := false
  spares : Nat := 8
deriving DecidableEq, Repr

/-- The UART's FIFOs (R372) and the bytes of a frame under way (R365). -/
structure Uart where
  tx : List Byte := []
  rx : List Byte := []
  frame : List Byte := []
deriving DecidableEq, Repr

/-- PCIe: vectors unmasked and pending bits of the PF (by vector) and the VFs (by tenant × 2 + vector), held BAR2
reads. -/
structure Pcie where
  unmasked : List Nat := []
  pend : List Nat := []
  vfUnmasked : List Nat := []
  vfPend : List Nat := []
  held : List (Nat × Nat × Nat × Nat) := []
deriving DecidableEq, Repr

/-- SYNC and TIME bookkeeping: edges accepted since the input returned, whether any was accepted, exchanges in a row below
100 ns. -/
structure Sync where
  fEdges : Nat := 0
  tEdges : Nat := 0
  good : Nat := 0
  everSynced : Bool := false
  exchanging : Bool := false
  fAny : Bool := false
  tAny : Bool := false
deriving DecidableEq, Repr

/-- What the device sends or drives, in the order it does so. -/
inductive Out where
  | memReq (op : Nat) (plane : Nat) (r : MemReq) (packet : List Byte)
  | memResp (op : Nat) (plane : Nat) (r : MemResp) (packet : List Byte)
  | localResp (e : EngId) (tag : Nat) (status : Nat) (data : List Byte)
  | qpReq (op : Nat) (plane : Nat) (r : QpReq) (packet : List Byte)
  | qpResp (op : Nat) (plane : Nat) (r : QpResp) (packet : List Byte)
  | peerPoison (node : Nat) (part : PartId) (page : Nat)
  | flit (n : PortId) (kind seq : Nat) (replay : Bool) (bytes : List Byte)
  /-- A flit sent so that its FEC check fails (R205, MODE 4). -/
  | flitBadFec (n : PortId) (kind seq : Nat) (replay : Bool) (bytes : List Byte)
  | packetDrop (n : PortId) (c : Nat)
  | quorum (planes : List Nat) (head : List Byte) (body : List Nat)
  | digest (planes : List Nat) (head : List Byte) (m : DigestMsg)
  | timeMsg (node : Nat)
  | descriptor (t : TileId) (slot : Nat) (d : BitVec 512)
  | taskDone (t : TileId) (taskId : Nat)
  | taskFailed (t : TileId) (taskId code : Nat)
  | accessDone (src : Accessor) (offset : Nat) (data : List Byte)
  | accessHeld (src : Accessor) (offset : Nat)
  | accessStalled (src : Accessor) (offset : Nat)
  /-- A read of a POISONED page: to the host, the completion with EP set and all-ones data (R134). -/
  | accessPoisoned (src : Accessor) (offset : Nat) (data : List Byte)
  | accessRefused (src : Accessor) (offset : Nat) (code : Nat)
  | pullNeeded (z : PartId) (page : Nat)
  | msix (vf : Option Nat) (vec : Nat)
  | wellheadIrq (pg : Page)
  | hostWrite (tenant : TenId) (asVf : Bool) (addr : Nat) (data : List Byte)
  | bar2Cpl (status : Nat) (data : List Byte)
  | event (p : PartId) (step : Bool) (value : Nat)
  | qpComplete (q : QpId) (wrId : Nat) (status : Nat)
  | uartTx (b : Byte)
  | uartRead (b : Byte)
  | uartReply (seq : Byte) (result : Nat)
  | thermtrip (asserted : Bool)
  | spi (erase : Bool) (sector : Nat)
  | voltage (q : Fin 4) (opp : Nat)
  | imageStart (slotB recovery : Bool)
deriving DecidableEq, Repr

/-- The state of the block. -/
structure State where
  /-- Fabric-global time in ns (R8), the count TIME_NOW shows. -/
  now : Nat
  /-- The model's own counter at which free values are drawn. -/
  fresh : Nat
  /-- Commands waiting, first in, first out. -/
  pending : List Instr
  /-- Everything sent, in order. -/
  out : List Out
  /-- Register words by BAR0 address. -/
  regs : Map Word
  /-- Live 64-bit counters by BAR0 address (R305). -/
  cnt : Map Word64
  /-- Snapshots of the counters (R307). -/
  shadow : Map Word64
  /-- The State Space by offset (R122). -/
  mem : Memory
  /-- Tile SRAM: tile × 2²¹ + offset (R58). -/
  sram : Memory
  /-- Uncorrectable 8-byte words of tile SRAM (R60). -/
  sramBad : Map Bool
  tiles : Map Tile
  parts : Map Part
  movers : Map Mover
  tenants : Map Tenant
  reqs : List Req
  convs : List Conv
  tier : Tier
  rrc : List Line
  engines : Map Engine
  regions : Map Region
  qps : Map Qp
  ports : Map Port
  finj : Finj
  srch : Srch
  units : Map CapUnit
  digs : Map DigRegion
  elog : Elog
  qrm : Qrm
  pwr : Pwr
  rst : Rst
  fuses : Fuses
  wlh : Wlh
  ledger : Ledger
  uart : Uart
  pcie : Pcie
  sync : Sync
  /-- The wiring of the fabric, which lies outside the device: planes and nodes that the switches do not join (R167,
  notes/assumptions/10). No command changes it. -/
  unreached : List (Nat × Nat)
deriving DecidableEq, Repr

/-- The machine right after a power-on reset: every register word unlisted, so at its reset value; memories and queues
empty. -/
def State.reset : State where
  now := 0
  fresh := 0
  pending := []
  out := []
  regs := []
  cnt := []
  shadow := []
  mem := []
  sram := []
  sramBad := []
  tiles := []
  parts := []
  movers := []
  tenants := []
  reqs := []
  convs := []
  tier := {}
  rrc := []
  engines := []
  regions := []
  qps := []
  ports := []
  finj := {}
  srch := {}
  units := []
  digs := []
  elog := {}
  qrm := {}
  pwr := {}
  rst := {}
  fuses := {}
  wlh := {}
  ledger := {}
  uart := {}
  pcie := {}
  sync := {}
  unreached := []

end Sys2Proof.Machine
end

