-- ==== Sys2Proof/Machine/Ops.lean ====
section
/-! DEFINITION. The named operations every meaning is built from: register words and fields, State Space and SRAM bytes,
outputs, free values. -/

namespace Sys2Proof.Machine
open Sys2Proof

/-- What `exec` and `step` answer. -/
abbrev Res := Host.Outcome State Fault Refusal

/-- Reset value of the fields of the list that lie in the word at page offset o. -/
def Reg.resetOf (l : List Fld) (o : Nat) : Nat :=
  l.foldl (fun acc f =>
    let a := f.off + (if f.stride = 0 then 0 else (o - f.off) / f.stride * f.stride)
    let words := (f.lo + f.width + 31) / 32
    if f.off ≤ o ∧ a ≤ o ∧ o < a + 4 * words ∧ (a - f.off) / (max f.stride 1) < f.count then
      acc + f.reset * 2 ^ f.lo / 2 ^ (8 * (o - a)) % 2 ^ 32 else acc) 0

/-- Reset values that differ between instances or bins (Tables 08-15, 15-12), and the constant words of the page header
and the DEV page (Tables 17-4, 17-7). -/
def Reg.resetWord (binB : Bool) (a : Nat) : Word :=
  match Page.at a with
  | none => if 0x400000 ≤ a ∧ a < 0x401000 ∧ a % 16 = 12 then 1 else 0
  | some pg =>
    let o := a % 0x1000
    if o = 0 then BitVec.ofNat 32 (pg.kind.type + pg.inst * 65536)
    else if o < 0x100 then BitVec.ofNat 32 (Reg.resetOf Reg.hdrFields o)
    else
      match pg.kind with
      | .port =>
        if 0x200 ≤ o ∧ o < 0x280 then
          let c := (o - 0x200) / 16
          match o % 16 with
          | 0 =>
            let cir := if c = 0 then 20 else if c = 1 then 100 else if c = 2 then 500 else if c = 7 then 0 else 50
            let pir := if c = 0 then 50 else if c = 1 then 200 else 1000
            BitVec.ofNat 32 (cir + pir * 65536)
          | 8 => BitVec.ofNat 32 ((if c = 2 then 8 else if c = 7 then 1 else 2) + 64 * 65536)
          | _ => BitVec.ofNat 32 (Reg.resetOf Reg.portFields o)
        else BitVec.ofNat 32 (Reg.resetOf Reg.portFields o)
      | .pwr =>
        if 0x110 ≤ o ∧ o < 0x120 then BitVec.ofNat 32 (if binB then 5 else 7)
        else BitVec.ofNat 32 (Reg.resetOf Reg.pwrFields o)
      | k => BitVec.ofNat 32 (Reg.resetOf (Reg.fields k) o)

/-- A register word by BAR0 address. -/
def State.word (s : State) (a : Nat) : Word := Map.get (Reg.resetWord s.fuses.binB a) s.regs a

/-- Write a register word. -/
def State.setWord (s : State) (a : Nat) (v : Word) : State :=
  { s with regs := Map.set (Reg.resetWord s.fuses.binB a) s.regs a v }

/-- n register words from address a as one number, the lowest first. -/
def State.words (s : State) (a : Nat) : Nat → Nat
  | 0 => 0
  | n + 1 => (s.word a).toNat + 2 ^ 32 * s.words (a + 4) n

/-- Write n register words from address a. -/
def State.setWords (s : State) (a : Nat) : Nat → Nat → State
  | 0, _ => s
  | n + 1, v => (s.setWord a (BitVec.ofNat 32 v)).setWords (a + 4) n (v / 2 ^ 32)

/-- BAR0 address of instance i of a field on a page. -/
def Fld.addr (f : Fld) (pg : Page) (i : Nat) : Nat := pg.base + f.off + i * f.stride

/-- How many words a field touches. -/
def Fld.words (f : Fld) : Nat := (f.lo + f.width + 31) / 32

/-- Read a register field. -/
def State.fld (s : State) (pg : Page) (f : Fld) (i : Nat := 0) : Nat :=
  bits (s.words (f.addr pg i) f.words) f.lo f.width

/-- Write a register field, as the device does: no access type is checked. -/
def State.setFld (s : State) (pg : Page) (f : Fld) (v : Nat) (i : Nat := 0) : State :=
  s.setWords (f.addr pg i) f.words (withBits (s.words (f.addr pg i) f.words) f.lo f.width v)

/-- A one-bit field. -/
def State.flag (s : State) (pg : Page) (f : Fld) (i : Nat := 0) : Bool := s.fld pg f i != 0

/-- A State Space offset held in two fields: [46:32] and the low bits in place. -/
def State.fldAddr (s : State) (pg : Page) (lo hi : Fld) (i : Nat := 0) : Nat :=
  s.fld pg hi i * 2 ^ 32 + s.fld pg lo i * 2 ^ lo.lo

/-- Send. -/
def State.send (s : State) (o : Out) : State := { s with out := s.out ++ [o] }

/-- Send, in order. -/
def State.sends (s : State) (l : List Out) : State := { s with out := s.out ++ l }

/-- Where free values are drawn next. -/
def State.draw (s : State) : State := { s with fresh := s.fresh + 1 }

/-- n free bytes. -/
def State.freeBytes (s : State) (n : Nat) : List Byte :=
  (List.range n).map (fun i => Config.freeByte (s.fresh * 65536 + i))

/-- A free number below 2^w. -/
def State.freeNat (s : State) (w : Nat) : Nat := natOfBytes (s.freeBytes ((w + 7) / 8)) % 2 ^ w

/-- This device's node (R394). -/
def State.node (s : State) : Nat := s.fld .dev Reg.DEV_NODE_NODE

/-- Bytes of the State Space as stored (R122); unlisted bytes are 0 (R132). -/
def State.rd (s : State) (a n : Nat) : List Byte := Map.bytes s.mem a n

/-- Little-endian number stored in the State Space (R6). -/
def State.rdNat (s : State) (a n : Nat) : Nat := natOfBytes (s.rd a n)

/-- Mark the digest passes that a write of n bytes from offset a makes unclean (R327). -/
def State.digDirty (s : State) (a n : Nat) : Map DigRegion :=
  (List.range 16).foldl (fun m k =>
    let base := s.fldAddr .dig Reg.DIG_REGION_BASE_LO Reg.DIG_REGION_BASE_HI k
    if s.flag .dig Reg.DIG_REGION_SEALED k ∧ n ≠ 0 ∧ a < base + s.fld .dig Reg.DIG_REGION_LEN_PAGES k * 65536 ∧ base < a + n
    then Map.set {} m k { Map.get {} m k with dirty := true } else m) s.digs

/-- Store bytes in the State Space. -/
def State.wr (s : State) (a : Nat) (b : List Byte) : State :=
  { s with mem := Map.store s.mem a b, digs := s.digDirty a b.length }

/-- Address of a byte of tile SRAM in `State.sram` (R58). -/
def sramAddr (t : TileId) (off : Nat) : Nat := t.val * 2097152 + off % 2097152

/-- Bytes of tile SRAM. -/
def State.rdSram (s : State) (t : TileId) (off n : Nat) : List Byte := Map.bytes s.sram (sramAddr t off) n

/-- Store bytes in tile SRAM. -/
def State.wrSram (s : State) (t : TileId) (off : Nat) (b : List Byte) : State :=
  { s with sram := Map.store s.sram (sramAddr t off) b }

def State.tile (s : State) (t : TileId) : Tile := Map.get {} s.tiles t.val
def State.setTile (s : State) (t : TileId) (v : Tile) : State := { s with tiles := Map.set {} s.tiles t.val v }
def State.part (s : State) (p : PartId) : Part := Map.get {} s.parts p.val
def State.setPart (s : State) (p : PartId) (v : Part) : State := { s with parts := Map.set {} s.parts p.val v }
def State.mover (s : State) (p : PartId) : Mover := Map.get {} s.movers p.val
def State.setMover (s : State) (p : PartId) (v : Mover) : State := { s with movers := Map.set {} s.movers p.val v }
def State.ten (s : State) (n : TenId) : Tenant := Map.get {} s.tenants n.val
def State.setTen (s : State) (n : TenId) (v : Tenant) : State := { s with tenants := Map.set {} s.tenants n.val v }
def State.eng (s : State) (e : EngId) : Engine := Map.get {} s.engines e.val
def State.setEng (s : State) (e : EngId) (v : Engine) : State := { s with engines := Map.set {} s.engines e.val v }
def State.qp (s : State) (q : QpId) : Qp := Map.get {} s.qps q.val
def State.setQp (s : State) (q : QpId) (v : Qp) : State := { s with qps := Map.set {} s.qps q.val v }
def State.port (s : State) (n : PortId) : Port := Map.get {} s.ports n.val
def State.setPort (s : State) (n : PortId) (v : Port) : State := { s with ports := Map.set {} s.ports n.val v }

/-- Region entry i of partition p (R156): 4,096 entries for each partition. -/
def State.rgn (s : State) (p : PartId) (i : Nat) : Region := Map.get {} s.regions (p.val * 4096 + i % 4096)

def State.setRgn (s : State) (p : PartId) (i : Nat) (v : Region) : State :=
  { s with regions := Map.set {} s.regions (p.val * 4096 + i % 4096) v }

/-- Scoreboard slot i of a tile. -/
def State.slot (s : State) (t : TileId) (i : Fin 64) : Slot := Map.get {} (s.tile t).slots i.val

def State.setSlot (s : State) (t : TileId) (i : Fin 64) (v : Slot) : State :=
  let x := s.tile t
  s.setTile t { x with slots := Map.set {} x.slots i.val v }

/-- Request slot i of a Dispatcher (Table 11-2). -/
def State.rs (s : State) (p : PartId) (i : Nat) : ReqSlot := Map.get {} (s.part p).slots i

def State.setRs (s : State) (p : PartId) (i : Nat) (v : ReqSlot) : State :=
  let x := s.part p
  s.setPart p { x with slots := Map.set {} x.slots i v }

/-- The fence flip-flops (R324). -/
def State.fenced (s : State) (p : PartId) : Bool := bit (s.fld .qrm Reg.QRM_FENCE_DP_MASK) p.val

/-- PG_READY of a page (R349). -/
def State.ready (s : State) (pg : Page) : Bool := s.flag pg Reg.PG_READY_READY

/-- All the partitions, engines, ports, tiles, tenants, queue pairs, in rising order. -/
def allParts : List PartId := List.finRange 32
def allEngs : List EngId := List.finRange 64
def allPorts : List PortId := List.finRange 32
def allTiles : List TileId := List.finRange 256
def allTens : List TenId := List.finRange 64

/-- Fold an update of the state over a list. -/
def State.each {α : Type} (s : State) (l : List α) (f : State → α → State) : State := l.foldl f s

/-- Update when a condition holds. -/
def State.when (s : State) (b : Bool) (f : State → State) : State := if b then f s else s

end Sys2Proof.Machine
end

