-- ==== Sys2Proof/Machine/Flags.lean ====
section
/-! DEFINITION. The common page header at work: counters, PG_ERR, interrupts, access to pages (R304 to R308, R349,
R382 to R386). -/

namespace Sys2Proof.Machine
open Sys2Proof

/-- The largest value of a 64-bit counter, where it stays (R305). -/
def max64 : Nat := 18446744073709551615

/-- Count n events in the counter at page offset o (R305): a counter at 2⁶⁴ − 1 stays there. -/
def State.count (s : State) (pg : Page) (o : Nat) (n : Nat := 1) : State :=
  let a := pg.base + o
  { s with cnt := Map.set 0 s.cnt a (BitVec.ofNat 64 (min max64 ((Map.get 0 s.cnt a).toNat + n))) }

/-- A live counter. -/
def State.counter (s : State) (pg : Page) (o : Nat) : Nat := (Map.get 0 s.cnt (pg.base + o)).toNat

/-- Send a PF MSI-X vector, or set its pending bit while it is masked (R385); MSIX_SENT counts messages. -/
def State.pfVector (s : State) (v : Nat) : State :=
  if v ∈ s.pcie.unmasked then (s.send (.msix none v)).count .pcie 0xB0
  else if v ∈ s.pcie.pend then s
  else { s with pcie := { s.pcie with pend := v :: s.pcie.pend } }

/-- Send vector v of tenant n (R391). -/
def State.vfVector (s : State) (n : TenId) (v : Nat) : State :=
  let k := n.val * 2 + v
  if k ∈ s.pcie.vfUnmasked then (s.send (.msix (some n.val) v)).count .pcie 0xB0
  else if k ∈ s.pcie.vfPend then s
  else { s with pcie := { s.pcie with vfPend := k :: s.pcie.vfPend } }

/-- PG_IRQ_STAT AND PG_IRQ_EN (R385). -/
def State.irqPending (s : State) (pg : Page) : Bool :=
  s.word (pg.base + 0x10) &&& s.word (pg.base + 0x14) != 0

/-- One message to each destination DEST names (R385). DEST 3 is reserved and cannot be written. -/
def State.irqMessage (s : State) (pg : Page) : State :=
  let d := s.fld pg Reg.PG_CTRL_DEST
  let s := if d = 0 ∨ d = 2 then s.pfVector (s.fld pg Reg.PG_CTRL_VEC) else s
  if d = 1 ∨ d = 2 then s.send (.wellheadIrq pg) else s

/-- The device sets a PG_IRQ_STAT bit: IRQ_EVENTS counts a bit set from clear, and a page that becomes pending sends
(R385, Table 13-1). -/
def State.irq (s : State) (pg : Page) (b : Nat) : State :=
  let a := pg.base + 0x10
  let was := s.irqPending pg
  let old := s.word a
  let t := s.setWord a (old ||| BitVec.ofNat 32 (2 ^ b))
  let t := if bit old.toNat b then t else t.count pg 0x58
  if !was && t.irqPending pg then t.irqMessage pg else t

/-- Record an error (R386): CODE takes the code, MULTI says CODE was nonzero, ERR_EVENTS counts. -/
def State.err (s : State) (pg : Page) (code : Nat) : State :=
  let multi := s.fld pg Reg.PG_ERR_CODE != 0 || s.flag pg Reg.PG_ERR_MULTI
  ((s.setFld pg Reg.PG_ERR_CODE code).setFld pg Reg.PG_ERR_MULTI multi.toNat).count pg 0x50

/-- A write refused under R11: RSV_ENC recorded, RSV_WRITES counted. -/
def State.rsvEnc (s : State) (pg : Page) : State := (s.err pg 0x0E).count pg 0x68

/-- The page is locked (R384). -/
def State.locked (s : State) (pg : Page) : Bool := s.flag pg Reg.PG_CTRL_LOCK

/-- Software writes one field of a page, as Table 17-3 gives: an RWL field after the lock records WR_LOCKED, a reserved
encoding records RSV_ENC (R11, R382), and neither changes the field. -/
def State.swWrite (s : State) (pg : Page) (f : Fld) (v : Nat) (i : Nat := 0) : State :=
  match f.acc with
  | .rw => if f.ok v then s.setFld pg f v i else s.rsvEnc pg
  | .rwl => if s.locked pg then s.err pg 0xF0 else if f.ok v then s.setFld pg f v i else s.rsvEnc pg
  | .w1c => s.setFld pg f (bits (s.fld pg f i) 0 f.width - Nat.land (s.fld pg f i) v) i
  | .w1s => s.setFld pg f (Nat.lor (s.fld pg f i) v) i
  | .ro => s
  | .wo => s

/-- Whether a command of the page's own registers takes effect: the page is ready (R349). -/
def State.ifReady (s : State) (pg : Page) (f : State → State) : State := if s.ready pg then f s else s

/-- A block reset of the page has begun and its block still works (QUIESCING, Table 15-9). -/
def State.quiescing (s : State) (pg : Page) : Bool := s.fld pg Reg.PG_RST_STATUS == 1

/-- Work in progress of a block goes on: the page is ready or quiescing. -/
def State.works (s : State) (pg : Page) : Bool := s.ready pg || s.quiescing pg

def State.ifWorks (s : State) (pg : Page) (f : State → State) : State := if s.works pg then f s else s

/-- The first access to a unit in a power-down mode wakes it (R337); WAKE_EVENTS counts each wake. -/
def State.wakeUnit (s : State) (u : LpUnit) : State :=
  if u ∈ s.pwr.inMode then
    { s with pwr := { s.pwr with
        inMode := s.pwr.inMode.filter (· ≠ u), waking := u :: s.pwr.waking.filter (· ≠ u) } }.count .pwr 0xB0
  else s

/-- Snapshot one page's counters (R307), with SNAP_TIME t. -/
def State.snapPage (s : State) (pg : Page) (t : Nat) : State :=
  let keep := s.shadow.filter (fun e => !(decide (pg.base ≤ e.1) && decide (e.1 < pg.base + 0x100)))
  let mine := s.cnt.filter (fun e => decide (pg.base ≤ e.1) && decide (e.1 < pg.base + 0x100))
  let s := { s with shadow := mine.foldl (fun (m : Map Word64) (e : Nat × Word64) => Map.put m e.1 e.2) keep }
  let s := s.setFld pg Reg.SNAP_TIME_TIME t
  s.setFld pg Reg.CNT_STAT_SNAP_SEQ ((s.fld pg Reg.CNT_STAT_SNAP_SEQ + 1) % 65536)

/-- Clear one page's live counters (R307). -/
def State.clearPage (s : State) (pg : Page) : State := { s with cnt := Map.clear s.cnt pg.base 0x100 }

end Sys2Proof.Machine
end

