-- ==== Sys2Proof/Machine/Mon.lean ====
section
/-! DEFINITION. Counter snapshots and the capture units of the MON page (R307 to R314). -/

namespace Sys2Proof.Machine
open Sys2Proof

/-- The bin of a sample v (R310). -/
def binOf (log2 : Bool) (base shift v : Nat) : Nat :=
  if v < base then 0
  else
    let d := v - base
    if log2 then (if d < 2 ^ shift then 0 else min 63 (Nat.log2 d - shift + 1)) else min 63 (d / 2 ^ shift)

/-- A sample updates COUNT, SUM, MIN, MAX, UNDER and one bin (R310). -/
def takeSample (u : UnitVals) (log2 : Bool) (base shift v : Nat) : UnitVals :=
  let b := binOf log2 base shift v
  { u with
    count := min max64 (u.count + 1), sum := min max64 (u.sum + v), min := min u.min v, max := max u.max v,
    under := if v < base then min 4294967295 (u.under + 1) else u.under,
    bins := Map.set 0 u.bins b (min 4294967295 (Map.get 0 u.bins b + 1)) }

/-- A unit takes a sample into its live values. -/
def State.unitTake (s : State) (u : Fin 8) (v : Nat) : State :=
  let x : CapUnit := Map.get {} s.units u.val
  let live := takeSample x.live (s.flag .mon Reg.UNIT_MODE u.val) (s.fld .mon Reg.UNIT_BASE u.val)
    (s.fld .mon Reg.UNIT_SHIFT u.val) v
  { s with units := Map.set {} s.units u.val { x with live := live, sampledAt := s.now + 1 } }

/-- A sample reaches a unit (R311): taken at once unless one was taken this nanosecond; otherwise it waits in the
16-entry queue, and is dropped and counted when that is full. -/
def State.unitSample (s : State) (u : Fin 8) (v : Nat) : State :=
  let x : CapUnit := Map.get {} s.units u.val
  if x.sampledAt ≠ s.now + 1 ∧ x.queue = [] then s.unitTake u v
  else if x.queue.length < 16 then { s with units := Map.set {} s.units u.val { x with queue := x.queue ++ [v] } }
  else
    let live := { x.live with dropped := min 4294967295 (x.live.dropped + 1) }
    { s with units := Map.set {} s.units u.val { x with live := live } }.irq .mon 1

/-- Offer a sample of a source's instance and class to the units (R309). -/
def State.sample (s : State) (source inst : Nat) (cls : Option Nat) (v : Nat) : State :=
  s.each (List.finRange 8) fun s u =>
    let passes := s.flag .mon Reg.UNIT_ANY u.val || s.fld .mon Reg.UNIT_INDEX u.val == inst || source == 13
    let clsOk : Bool := match cls with
      | some k => bit (s.fld .mon Reg.UNIT_CLASS_MASK u.val) k
      | none => true
    if s.fld .mon Reg.UNIT_SOURCE u.val = source ∧ passes ∧ clsOk then s.unitSample u v else s

/-- One waiting sample of each unit is taken as a nanosecond passes. -/
def State.unitsDrain (s : State) : State :=
  s.each (List.finRange 8) fun s u =>
    let x : CapUnit := Map.get {} s.units u.val
    match x.queue with
    | [] => s
    | v :: q => { s with units := Map.set {} s.units u.val { x with queue := q } }.unitTake u v

/-- With no command waiting, a nanosecond passes (notes/assumptions/5). -/
def idle (s : State) : Res := .next ({ s with now := (s.now + 1) % 2 ^ 64 }.unitsDrain)

/-- The units' part of a snapshot of the MON page (R311). -/
def State.snapUnits (s : State) : State :=
  s.each (List.finRange 8) fun s u =>
    let x : CapUnit := Map.get {} s.units u.val
    { s with units := Map.set {} s.units u.val { x with shadow := x.live } }

/-- The units' part of a clear of the MON page (R311). -/
def State.clearUnits (s : State) : State :=
  s.each (List.finRange 8) fun s u =>
    let x : CapUnit := Map.get {} s.units u.val
    { s with units := Map.set {} s.units u.val { x with live := {} } }

/-- A snapshot of one page (R307), the MON units included on the MON page. -/
def State.snapshot (s : State) (pg : Page) (clr : Bool) (t : Nat) : State :=
  let s := s.snapPage pg t
  let s := if pg = .mon then s.snapUnits else s
  if clr then (if pg = .mon then s.clearUnits else s).clearPage pg else s

/-- CNT_SNAP: CNT_CTRL.SNAP, alone or with CLR (R307). -/
def execCntSnap (pg : Page) (clr : Bool) (s : State) : Res :=
  .next (s.ifReady pg fun s => s.snapshot pg clr s.now)

/-- CNT_CLR: CNT_CTRL.CLR alone (R307). -/
def execCntClr (pg : Page) (s : State) : Res :=
  .next (s.ifReady pg fun s => (if pg = .mon then s.clearUnits else s).clearPage pg)

/-- The device-wide snapshot (R308): every page and the units, with one SNAP_TIME. -/
def State.snapAll (s : State) (t : Nat) : State :=
  let clr := s.flag .mon Reg.MON_SNAP_ALL_CLEAR
  let s := s.each Page.all fun s pg => s.snapshot pg clr t
  let s := s.setFld .mon Reg.MON_SNAP_ALL_ARM 0
  let s := s.setFld .mon Reg.MON_SNAP_SEQ_SEQ ((s.fld .mon Reg.MON_SNAP_SEQ_SEQ + 1) % 65536)
  (s.setFld .mon Reg.MON_SNAP_TIME_TIME t).irq .mon 0

/-- MON_SNAP_ARM: a write that sets MON_SNAP_ALL.ARM (R308). SNAP_BUSY while armed; a time already passed is taken at
once with SNAP_LATE. -/
def execMonSnapArm (clear : Bool) (s : State) : Res :=
  .next (s.ifReady .mon fun s =>
    if s.flag .mon Reg.MON_SNAP_ALL_ARM then s.err .mon 0x01
    else
      let s := (s.setFld .mon Reg.MON_SNAP_ALL_CLEAR clear.toNat).setFld .mon Reg.MON_SNAP_ALL_ARM 1
      if s.fld .mon Reg.MON_SNAP_AT_TIME < s.now then (s.snapAll s.now).err .mon 0x02 else s)

/-- MON_SNAP_FIRE: the time in MON_SNAP_AT comes while ARM is set (R308). -/
def execMonSnapFire (s : State) : Res :=
  .next (
    if s.flag .mon Reg.MON_SNAP_ALL_ARM && decide (s.fld .mon Reg.MON_SNAP_AT_TIME ≤ s.now) then
      s.snapAll (s.fld .mon Reg.MON_SNAP_AT_TIME)
    else s)

/-- The instances of a level source with their levels (Table 13-2). -/
def State.levels (s : State) (source : Nat) : List (Nat × Nat) :=
  match source with
  | 10 => allParts.map fun p => (p.val, s.fld (.admt p) Reg.ADMT_QUEUE_DEPTH)
  | 11 => allTiles.map fun t => (t.val, s.fld (.tile t) Reg.OPQ_STAT_B_LEVEL)
  | 12 => allParts.map fun p => (p.val, s.fld (.disp p) Reg.DISP_ENERGY_LEVEL_LEVEL_NJ)
  | 13 => [(0, s.tier.migs.length)]
  | _ => []

/-- UNIT_LEVEL_SAMPLE: PERIOD_NS passes for a unit with a level source (R309). -/
def execUnitLevelSample (u : Fin 8) (s : State) : Res :=
  let src := s.fld .mon Reg.UNIT_SOURCE u.val
  .next (s.each (s.levels src) fun s l =>
    if s.flag .mon Reg.UNIT_ANY u.val || s.fld .mon Reg.UNIT_INDEX u.val == l.1 || src == 13 then s.unitSample u l.2
    else s)

/-- UNIT_CFG_WRITE: a write of word w of a unit's configuration (R312, Table 13-4). While SOURCE is not OFF the other fields take
none: UNIT_BUSY, but not for a write of UNIT_CFG that leaves MODE and SHIFT as they are. -/
def execUnitCfgWrite (u : Fin 8) (w : Fin 4) (v : Word) (s : State) : Res :=
  let x := v.toNat
  let off := s.fld .mon Reg.UNIT_SOURCE u.val == 0
  let put := fun (s : State) (f : Fld) (y : Nat) => s.swWrite .mon f y u.val
  .next (s.ifReady .mon fun s =>
    match w with
    | 0 =>
      let s :=
        if off then put (put s Reg.UNIT_MODE (bits x 4 1)) Reg.UNIT_SHIFT (bits x 5 6)
        else if s.fld .mon Reg.UNIT_MODE u.val = bits x 4 1 ∧ s.fld .mon Reg.UNIT_SHIFT u.val = bits x 5 6 then s
        else s.err .mon 0x03
      let s := put s Reg.UNIT_SOURCE (bits x 0 4)
      if off && s.fld .mon Reg.UNIT_SOURCE u.val != 0 then
        let y : CapUnit := Map.get {} s.units u.val
        { s with units := Map.set {} s.units u.val { y with live := {} } }
      else s
    | 1 =>
      if off then
        put (put (put s Reg.UNIT_INDEX (bits x 0 10)) Reg.UNIT_ANY (bits x 10 1)) Reg.UNIT_CLASS_MASK (bits x 16 16)
      else s.err .mon 0x03
    | 2 => if off then put s Reg.UNIT_BASE x else s.err .mon 0x03
    | 3 => if off then put s Reg.UNIT_PERIOD_NS x else s.err .mon 0x03)

end Sys2Proof.Machine
end

