-- ==== Sys2Proof/Machine/Slots.lean ====
section
/-! DEFINITION. What the fabric engines share: planes, packets, request slots, the placement journal, and the answers of
requests (R152 to R154, R158 to R160, R166 to R171, R331). -/

namespace Sys2Proof.Machine
open Sys2Proof

/-- The GFA of a request (Table 07-1). -/
def gfaOf (r : MemReq) : Nat := r.node * 2 ^ 52 + r.part.val * 2 ^ 47 + r.offset

/-- The bytes of a request packet: the header of Table 07-3, then its data (R158). -/
def reqPacket (op : Nat) (r : MemReq) : List Byte :=
  List.flatten
    [bytesOfNat 1 op, bytesOfNat 1 (r.tc.val + 8 * r.cacheable.toNat + 16 * r.placeAck.toNat), bytesOfNat 1 (r.len8 % 32),
     bytesOfNat 1 r.srcFeng.val, bytesOfNat 2 (r.srcNode % 4096), bytesOfNat 2 (r.tag % 512), bytesOfNat 8 (gfaOf r),
     bytesOfNat 4 r.key.toNat, bytesOfNat 2 (r.gen % 65536), bytesOfNat 2 (r.epoch % 65536), r.data]

/-- The bytes of a response packet: the header of Table 07-5, then its data (R160). -/
def respPacket (op : Nat) (r : MemResp) : List Byte :=
  List.flatten
    [bytesOfNat 1 op, bytesOfNat 1 r.status,
     bytesOfNat 1 (((r.data.length - 1) / 8) % 32 + 32 * r.noCache.toNat + 64 * r.plain.toNat), bytesOfNat 1 r.dstFeng.val,
     bytesOfNat 2 (r.dstNode % 4096), bytesOfNat 2 (r.tag % 512), bytesOfNat 8 r.detail.toNat, r.data]

/-- A request packet leaves on a plane. -/
def reqOut (op plane : Nat) (r : MemReq) : Out := .memReq op plane r (reqPacket op r)

/-- A response packet leaves on a plane. -/
def respOut (op plane : Nat) (r : MemResp) : Out := .memResp op plane r (respPacket op r)

/-- The bytes of a QP request packet: the header of Table 08-8, then its payload. -/
def qpReqPacket (op : Nat) (r : QpReq) : List Byte :=
  List.flatten
    [bytesOfNat 1 op,
     bytesOfNat 1 (r.tc.val + 8 * r.last.toNat + 16 * r.place.toNat + 32 * r.prov.toNat + 64 * r.replace.toNat),
     bytesOfNat 2 r.payload.length, bytesOfNat 2 (r.srcNode % 4096), bytesOfNat 2 r.dstQpn.val, bytesOfNat 3 (r.psn % 2 ^ 24),
     bytesOfNat 1 (r.specEpoch % 256), bytesOfNat 8 (r.node * 2 ^ 52 + r.part.val * 2 ^ 47 + r.offset), bytesOfNat 4 r.key.toNat,
     bytesOfNat 2 (r.gen % 65536), bytesOfNat 2 (r.fireTag % 65536), bytesOfNat 4 (r.imm % 2 ^ 32),
     bytesOfNat 2 (r.epoch % 65536), bytesOfNat 2 r.srcQpn.val, bytesOfNat 4 (r.wrLen % 2 ^ 32), r.payload]

/-- The bytes of a QP response packet: the header of Table 08-9, then its payload. -/
def qpRespPacket (op : Nat) (r : QpResp) : List Byte :=
  List.flatten
    [bytesOfNat 1 op, bytesOfNat 1 r.status, bytesOfNat 2 r.payload.length, bytesOfNat 2 (r.dstNode % 4096),
     bytesOfNat 2 r.dstQpn.val, bytesOfNat 3 (r.psn % 2 ^ 24), List.replicate 5 0, bytesOfNat 8 (r.sack % 2 ^ 64), r.payload]

/-- A QP request packet leaves on a plane. -/
def qpReqOut (op plane : Nat) (r : QpReq) : Out := .qpReq op plane r (qpReqPacket op r)

/-- A QP response packet leaves on a plane. -/
def qpRespOut (op plane : Nat) (r : QpResp) : Out := .qpResp op plane r (qpRespPacket op r)

/-- The planes whose link is up and that reach a node (R166, R320). -/
def State.planesTo (s : State) (node : Nat) : List Nat :=
  (allPorts.filter fun n => s.flag (.port n) Reg.PORT_STAT_LINK_UP && !s.unreached.contains (n.val, node)).map (·.val)

/-- This device's epoch. -/
def State.epoch (s : State) : Nat := s.fld .qrm Reg.QRM_EPOCH_LO_EPOCH_LO + 2 ^ 32 * s.fld .qrm Reg.QRM_EPOCH_HI_EPOCH_HI

def State.setEpoch (s : State) (e : Nat) : State :=
  (s.setFld .qrm Reg.QRM_EPOCH_LO_EPOCH_LO (e % 2 ^ 32)).setFld .qrm Reg.QRM_EPOCH_HI_EPOCH_HI (e / 2 ^ 32)

/-- Nodes: a node of the quorum is fenced when the committed table names all 32 of its partitions (R322). -/
def State.nodeFenced (s : State) (node : Nat) : Bool :=
  (List.range 32).all fun p => Map.get 0 s.qrm.table (node * 32 + p) != 0

/-- Every engine takes the ordering mode from PORT[0] (R166). -/
def State.pinned (s : State) : Bool := s.flag (.port 0) Reg.PORT_CTRL_ORDER_MODE

/-- The first plane of the list at or after k, modulo 32. -/
def planeFrom (l : List Nat) (k : Nat) : Option Nat := (List.range 32).findSome? fun i =>
  if (k + i) % 32 ∈ l then some ((k + i) % 32) else none

/-- The PINNED hash of R167. -/
def planeHash (k : Nat) : Nat :=
  Nat.xor (Nat.xor k (k / 2 ^ 5)) (Nat.xor (k / 2 ^ 10) (k / 2 ^ 15)) % 32

/-- The key of a memory-semantic connection (R167). -/
def connKey (r : MemReq) : Nat := Nat.xor (r.srcNode * 64 + r.srcFeng.val) (r.node * 32 + r.part.val)

/-- The plane of the next packet of engine e to a node, with the PINNED key k (R167, R196). -/
def State.planeOf (s : State) (e : EngId) (node k : Nat) : Option Nat :=
  let l := s.planesTo node
  if s.pinned then planeFrom l (planeHash k)
  else if 256 ≤ node then none
  else planeFrom l (s.eng e).spray

/-- A packet of engine e leaves on a plane: the round-robin moves on, and the plane counts for R170. -/
def State.sentOn (s : State) (e : EngId) (plane : Nat) : State :=
  let x := s.eng e
  s.setEng e { x with spray := (plane + 1) % 32, sentPlanes := Nat.lor x.sentPlanes (2 ^ plane) }

/-- The plane of the next packet between QP q and a remote QP (R196). -/
def State.qpPlaneTo (s : State) (q : QpId) (node : Nat) (remote : QpId) : Option Nat :=
  s.planeOf (engOfQp q) node (Nat.xor (s.node * 16384 + q.val) (node * 16384 + remote.val))

/-- QP q answers a packet (R194 to R196, R416): the response takes a plane of its own and the class of the QP; where no plane
reaches the sender, none leaves. -/
def State.qpRespond (s : State) (q : QpId) (op : Nat) (r : QpResp) : State :=
  match s.qpPlaneTo q r.dstNode r.dstQpn with
  | none => s
  | some plane => (s.sentOn (engOfQp q) plane).send (qpRespOut op plane { r with tc := (s.qp q).tc })

/-- Answer a QP packet with QNAK (R194). -/
def State.qnak (s : State) (r : QpReq) (code : Nat) : State :=
  s.qpRespond r.dstQpn 0xC4
    { status := code, dstNode := r.srcNode, dstQpn := r.srcQpn, psn := r.psn, sack := 0, payload := [] }

/-- A request slot (R153). -/
def State.reqSlot (s : State) (e : EngId) (tag : Nat) : Option Outst := Map.get none (s.eng e).slots tag

def State.setReqSlot (s : State) (e : EngId) (tag : Nat) (v : Option Outst) : State :=
  let x := s.eng e
  s.setEng e { x with slots := Map.set none x.slots tag v }

/-- The slot an engine gives its next request: the lowest free one (R153, notes/assumptions/9). -/
def State.freeTag (s : State) (e : EngId) : Option Nat := lowest 512 fun i => (s.reqSlot e i).isNone

/-- The engine of a request's connection (R152). -/
def connEng (r : MemReq) : EngId := engOf (Fin.ofNat 32 (r.srcFeng.val / 2)) (r.node + r.part.val)

/-- An engine issues requests: it is ready and its partition is not fenced (Table 14-4, F4). -/
def State.engLive (s : State) (e : EngId) : Bool := !s.fenced (partOfEng e) && s.ready (.feng e)

/-- A request as its engine issues it: the engine of its connection, and the epoch held (R152, R158). -/
def State.issued (s : State) (r : MemReq) : MemReq := { r with srcFeng := connEng r, epoch := s.epoch % 65536 }

/-- In PINNED mode a connection issues nothing on a new plane while a request of it is outstanding on the old one
(R170). -/
def State.connWaits (s : State) (r : MemReq) (plane : Nat) : Bool :=
  s.pinned && (s.eng (connEng r)).slots.any fun o => match o.2 with
    | some y => y.req.node == r.node && y.req.part == r.part && y.planes != [plane]
    | none => false

/-- A cached line's place: partition, node, block. -/
def lineIs (p : PartId) (r : MemReq) (l : Line) : Bool :=
  l.part == p && l.node == r.node && l.block == r.offset / 256 && l.key == r.key

/-- Lines that a write of this device to (node, offset, n bytes) drops (R172). -/
def State.dropLines (s : State) (node off n : Nat) : State :=
  { s with rrc := s.rrc.filter fun l => !(l.node == node && decide (off / 256 ≤ l.block ∧ l.block * 256 < off + n)) }

/-- An entry of an engine's placement journal (R331, Table 14-8); a frozen journal takes none. -/
def State.journal (s : State) (e : EngId) (kind status node part qpnTag ref psn : Nat) : State :=
  let x := s.eng e
  if x.frozen then s
  else
    let b := List.flatten
      [bytesOfNat 8 s.now, bytesOfNat 1 kind, bytesOfNat 1 status, bytesOfNat 4 (node % 4096 + part * 65536),
       bytesOfNat 2 qpnTag, bytesOfNat 8 ref, bytesOfNat 3 psn, [0], bytesOfNat 4 (x.jseq + 1)]
    s.setEng e { x with
      journal := (BitVec.ofNat 256 (natOfBytes b) :: x.journal).take 4096, jseq := (x.jseq + 1) % 2 ^ 32 }

/-- What a DMA task has of its transfer once a piece is answered (R68, R171): the data of a read or an acknowledgement, or
the first refusal with its GFA. -/
def FarRun.answer (f : FarRun) (kind : ReqKind) (piece status gfa : Nat) (data : List Byte) : FarRun :=
  if status ≠ 0 then { f with err := some (f.err.getD (status, gfa)) }
  else if kind = .load then { f with got := Map.set [] f.got piece data }
  else { f with acked := f.acked + 1 }

/-- A request's end reaches who waits for it. -/
def State.deliver (s : State) (e : EngId) (tag : Nat) (owner : ReqOwner) (kind : ReqKind) (r : MemReq) (status : Nat)
    (data : List Byte) : State :=
  match owner with
  | .issuer => s.send (.localResp e tag status data)
  | .dma t i order piece =>
    let x := s.slot t i
    if x.st = .running ∧ x.order = order then
      s.setSlot t i { x with far := x.far.answer kind piece status (gfaOf r) data }
    else s
  | .pool => s

/-- Issue a request that leaves the device (R153, R166, R167, R170). False: it stalls, for want of a slot or because its
connection waits for its old plane. -/
def State.issue (s : State) (op : Nat) (kind : ReqKind) (r : MemReq) (owner : ReqOwner := .issuer) : Bool × State :=
  let e := connEng r
  if ¬ s.engLive e then (false, s)
  else
    match s.freeTag e with
    | none => (false, s.count (.feng e) 0x90)
    | some tag =>
      let r := { s.issued r with tag := tag }
      match s.planeOf e r.node (connKey r) with
      | none => (true, s.deliver e tag owner kind r 0x10 [])
      | some plane =>
        if s.connWaits r plane then (false, s)
        else
          let s := (s.sentOn e plane).send (reqOut op plane r)
          if op == 0x02 && !r.placeAck then (true, s.deliver e tag owner kind r 0 [])
          else (true, s.setReqSlot e tag (some
            { kind := kind, req := r, issued := s.now, noInstall := false, planes := [plane], answers := [], owner := owner }))

/-- Forwarded updates that waited for a slot leave (R247). -/
def State.fwdsGo (s : State) (e : EngId) : State :=
  match s.srch.fwds.find? fun f => !f.sent && connEng f.fwd == e with
  | none => s
  | some f =>
    match s.issue 0x02 .store f.fwd .pool with
    | (false, _) => s
    | (true, t) => { t with srch := { t.srch with fwds := t.srch.fwds.map fun g => if g = f then { g with sent := true } else g } }

/-- Free a slot and complete its request locally. -/
def State.complete (s : State) (e : EngId) (tag status : Nat) (data : List Byte) : State :=
  match s.reqSlot e tag with
  | none => s
  | some y => ((s.setReqSlot e tag none).deliver e tag y.owner y.kind y.req status data).fwdsGo e

/-- Journal an answer to a memory-semantic request (R331). -/
def State.journalMem (s : State) (e : EngId) (kind status : Nat) (y : MemReq) : State :=
  s.journal e kind status y.node y.part.val y.tag (gfaOf y) 0

/-- A request is answered (R153, R331): a placement or its refusal is journaled, a load's latency sampled, its slot freed. -/
def State.answered (s : State) (e : EngId) (tag : Nat) (y : Outst) (status : Nat) (data : List Byte) : State :=
  let s := match y.kind with
    | .store => s.journalMem e (if status = 0 then 1 else 5) status y.req
    | .load => if status = 0 then s.sample 6 e.val none (s.now - y.issued) else s
    | _ => s
  s.complete e tag status data

/-- A response without its slot: LATE_RESP (R154), or LATE_DROP where a block reset discarded its request (R347). -/
def State.lateResp (s : State) (e : EngId) (tag : Nat) : State :=
  let x := s.eng e
  if x.dropped.contains tag then (s.setEng e { x with dropped := x.dropped.erase tag }).count .rstc 0x80
  else s.count (.feng e) 0x98

/-- The engine records the NAK of a plain store against its target: the first one of each of 64 targets (R169). -/
def State.recordNak (s : State) (e : EngId) (node part code : Nat) : State :=
  let x := s.eng e
  if x.naks.any fun n => n.1 = node ∧ n.2.1 = part then s
  else if x.naks.length < 64 then s.setEng e { x with naks := x.naks ++ [(node, part, code)] }
  else s.setEng e { x with nakOvf := true }

/-- The status a FLUSH completes with, and the engine after it (R169). -/
def State.flushStatus (s : State) (e : EngId) (y : Outst) (answers : List (Nat × Nat)) : Nat × State :=
  let x := s.eng e
  let bad := (List.range 32).findSome? fun p => (answers.find? fun a => a.1 = p ∧ a.2 ≠ 0).map (·.2)
  if s.flag (.feng e) Reg.FENG_STAT_PATH_LOST then (0x13, s)
  else
    match bad with
    | some c => (c, s)
    | none =>
      match x.naks.find? (fun n => n.1 = y.req.node ∧ n.2.1 = y.req.part.val) with
      | some n => (n.2.2, s.setEng e { x with naks := x.naks.filter fun m => m ≠ n })
      | none => if x.nakOvf then (0x12, s.setEng e { x with nakOvf := false }) else (0, s)

/-- One marker of a FLUSH is answered; with the last one the FLUSH completes (R168, R169, R331). -/
def State.markerAnswered (s : State) (e : EngId) (tag plane code : Nat) (y : Outst) : State :=
  let answers := if y.answers.any (fun a => a.1 = plane) then y.answers else y.answers ++ [(plane, code)]
  if y.planes.all fun p => answers.any fun a => a.1 = p then
    let r := s.flushStatus e y answers
    ((r.2.journalMem e 2 r.1 y.req).sample 7 e.val none (s.now - y.issued)).complete e tag r.1 []
  else s.setReqSlot e tag (some { y with answers := answers })

/-- The answer to a request of this device to itself (R151): it frees its slot, or comes late (R154). -/
def State.localAnswer (s : State) (r : MemReq) (status detail : Nat) (data : List Byte) : State :=
  match s.reqSlot r.srcFeng r.tag with
  | none => s.lateResp r.srcFeng r.tag
  | some y =>
    if y.req ≠ r then s.lateResp r.srcFeng r.tag
    else
      match y.kind with
      | .flush => s.markerAnswered r.srcFeng r.tag r.plane.val status y
      | .invalidate => s.answered r.srcFeng r.tag y status (bytesOfNat 8 detail)
      | _ => s.answered r.srcFeng r.tag y status data

end Sys2Proof.Machine
end

