-- ==== Sys2Proof/Machine/TierOps.lean ====
section
/-! DEFINITION. The tier controller's operations: the map, frames, side slots, accesses by page state, moves (R120 to
R140). -/

namespace Sys2Proof.Machine
open Sys2Proof

/-- A tier's number, the upper first (Table 06-1). -/
def tierIdx : TierName → Nat
  | .shallows => 0 | .basin => 1 | .deep => 2

/-- A tier by number. -/
def tierOf (i : Nat) : TierName := if i = 0 then .shallows else if i = 1 then .basin else .deep

/-- Page number of a State Space offset (Table 06-2). -/
def pageOf (off : Nat) : Nat := off % 2 ^ 47 / 65536

/-- Owning zone of a page (Table 06-2, R123). -/
def zoneOf (page : Nat) : PartId := Fin.ofNat 32 (page / 2 ^ 26)

/-- Extent of a page, counted over all zones (Table 06-2). -/
def extOf (page : Nat) : Nat := page / 2 ^ 14

/-- Key of a frame in the occupancy maps. -/
def frameKey (t : TierName) (f : Nat) : Nat := tierIdx t * 2 ^ 26 + f

/-- The memory instance a frame lies in (R120). -/
def instOf (t : TierName) (f : Nat) : Page :=
  match t with
  | .shallows => .shl (Fin.ofNat 4 (f / 32768))
  | .basin => .bas (Fin.ofNat 8 (f % 8))
  | .deep => .deep (Fin.ofNat 16 (f % 16))

/-- The MEM registers of an instance (Table 06-15), by kind of page. -/
def memFld (pg : Page) (b s d : Fld) : Fld :=
  match pg.kind with
  | .bas => b
  | .shl => s
  | _ => d

def memOnline (pg : Page) : Fld := memFld pg Reg.BAS_MEM_STAT_ONLINE Reg.SHL_MEM_STAT_ONLINE Reg.DEEP_MEM_STAT_ONLINE
def memDegraded (pg : Page) : Fld :=
  memFld pg Reg.BAS_MEM_STAT_DEGRADED Reg.SHL_MEM_STAT_DEGRADED Reg.DEEP_MEM_STAT_DEGRADED
def memFrames (pg : Page) : Fld := memFld pg Reg.BAS_MEM_FRAMES_FRAMES Reg.SHL_MEM_FRAMES_FRAMES Reg.DEEP_MEM_FRAMES_FRAMES
def memErrFrame (pg : Page) : Fld :=
  memFld pg Reg.BAS_MEM_ERR_FRAME_FRAME Reg.SHL_MEM_ERR_FRAME_FRAME Reg.DEEP_MEM_ERR_FRAME_FRAME

/-- Map frames, side frames per slice, side frames of Basin and Deep (Table 06-10). -/
def State.mapFrames (s : State) : Nat := s.fld .tier Reg.TIER_MAP_CFG_MAP_FRAMES
def State.shlSideFrames (s : State) : Nat := s.fld .tier Reg.TIER_MAP_CFG_SHL_SIDE_FRAMES
def State.basSideFrames (s : State) : Nat := s.fld .tier Reg.TIER_SIDE_CFG_BAS_SIDE * 64
def State.deepSideFrames (s : State) : Nat := s.fld .tier Reg.TIER_SIDE_CFG_DEEP_SIDE * 64

/-- Frames of Deep: 16 channels of the largest trained size (R120, Table 06-15). -/
def State.deepFrames (s : State) : Nat :=
  16 * (List.finRange 16).foldl (fun m c => max m (s.fld (.deep c) Reg.DEEP_MEM_FRAMES_FRAMES)) 0

/-- The data frames a page of a zone may take in a tier: the first, and how many (R120, Tables 06-3, 06-10). -/
def State.frameRange (s : State) (t : TierName) (z : PartId) : Nat × Nat :=
  match t with
  | .shallows =>
    let first := 256 + s.mapFrames + s.shlSideFrames
    (z.val * 4096 + first, 4096 - first)
  | .basin => (0, 6291456 - s.basSideFrames)
  | .deep => (0, s.deepFrames - s.deepSideFrames)

/-- A frame exists, its instance is ready and online, it is not retired and not in use (R148). -/
def State.frameFree (s : State) (t : TierName) (f : Nat) : Bool :=
  let pg := instOf t f
  let inInst := match t with
    | .shallows => f % 32768
    | .basin => f / 8
    | .deep => f / 16
  s.ready pg && s.flag pg (memOnline pg) && decide (inInst < s.fld pg (memFrames pg)) &&
    !Map.get false s.tier.frames (frameKey t f) && !Map.get false s.tier.retired (frameKey t f)

/-- The frame an allocation takes: the lowest free one (notes/assumptions/9). -/
def State.findFrame (s : State) (t : TierName) (z : PartId) : Option Nat :=
  let r := s.frameRange t z
  lowestFrom (s.frameFree t) r.1 r.2

/-- Key of a side slot: tier, then zone for Shallows, then slot (R127). -/
def sideKey (t : TierName) (z : PartId) (n : Nat) : Nat :=
  tierIdx t * 2 ^ 40 + (if t = .shallows then z.val * 2 ^ 32 else 0) + n

/-- The side slot an allocation takes: the lowest free one. -/
def State.findSide (s : State) (t : TierName) (z : PartId) : Option Nat :=
  let n := match t with
    | .shallows => s.shlSideFrames * 30
    | .basin => s.basSideFrames * 30
    | .deep => s.deepSideFrames * 30
  lowest n (fun i => !Map.get false s.tier.sides (sideKey t z i))

/-- Leaf entry of a page. -/
def State.leaf (s : State) (page : Nat) : Leaf := Map.get {} s.tier.pages page

def State.setTier (s : State) (t : Tier) : State := { s with tier := t }

/-- Directory entry of a page's extent. -/
def State.dir (s : State) (page : Nat) : DirEntry := Map.get {} s.tier.dirs (extOf page)

/-- Positions of the leaves of slice p: two frames each from frame 257 (Table 06-3). -/
def State.leafFree (s : State) (p : PartId) : Option Nat :=
  let pg := Page.shl (Fin.ofNat 4 (p.val / 8))
  if s.ready pg && s.flag pg (memOnline pg) then
    (lowest ((s.mapFrames - 1) / 2) fun i => !Map.get false s.tier.leaves (p.val * 4096 + 257 + 2 * i)).map
      fun i => p.val * 4096 + 257 + 2 * i
  else none

/-- The leaf an extent takes: from its own slice, else from the lowest-numbered slice with one (R125). -/
def State.findLeaf (s : State) (z : PartId) : Option Nat :=
  match s.leafFree z with
  | some l => some l
  | none => allParts.findSome? s.leafFree

/-- Allocate the leaf of a page's extent where none is (R125); none: MAP_FULL. -/
def State.needLeaf (s : State) (page : Nat) : Option State :=
  if (s.dir page).valid then some s
  else
    match s.findLeaf (zoneOf page) with
    | none => none
    | some l =>
      let t := s.tier
      some (s.setTier { t with
        leaves := Map.set false t.leaves l true
        dirs := Map.set {} t.dirs (extOf page) { valid := true, used := 0, leaf := l } })

/-- Release the leaf of an extent whose USED is 0 (R125). -/
def State.dropLeaf (s : State) (page : Nat) : State :=
  let d := s.dir page
  if d.valid && d.used == 0 then
    let t := s.tier
    s.setTier { t with leaves := Map.set false t.leaves d.leaf false, dirs := Map.set {} t.dirs (extOf page) {} }
  else s

/-- Write a leaf entry in one write (R128), keeping USED of its extent (R125). -/
def State.setLeaf (s : State) (page : Nat) (l : Leaf) : State :=
  let was := (s.leaf page).st == .unwritten
  let is := l.st == .unwritten
  let t := s.tier
  let d := s.dir page
  let used := if was && !is then d.used + 1 else if !was && is then d.used - 1 else d.used
  let s := s.setTier { t with
    pages := Map.set {} t.pages page l
    dirs := if d.valid then Map.set {} t.dirs (extOf page) { d with used := used } else t.dirs }
  s.dropLeaf page

/-- Mark a frame used or free. -/
def State.useFrame (s : State) (t : TierName) (f : Nat) (b : Bool) : State :=
  s.setTier { s.tier with frames := Map.set false s.tier.frames (frameKey t f) b }

/-- Mark a side slot used or free. -/
def State.useSide (s : State) (t : TierName) (z : PartId) (n : Nat) (b : Bool) : State :=
  s.setTier { s.tier with sides := Map.set false s.tier.sides (sideKey t z n) b }

/-- Retire a frame (R148): it is never allocated again, and its instance reads DEGRADED. -/
def State.retireFrame (s : State) (t : TierName) (f : Nat) : State :=
  let pg := instOf t f
  let s := s.setTier { s.tier with retired := Map.set false s.tier.retired (frameKey t f) true }
  (s.setFld pg (memDegraded pg) 1).count pg 0x90

/-- Free the frame and side slot a resident leaf names (Table 06-8). -/
def State.freeHome (s : State) (page : Nat) (l : Leaf) : State :=
  let s := s.useFrame l.frameTier l.frame false
  if l.side then s.useSide l.frameTier (zoneOf page) l.sideSlot false else s

/-- The tiers an allocation tries for a page (R133): the pinned one only, else FIRST_TIER and each below. -/
def State.allocTiers (s : State) (page : Nat) : List TierName :=
  match (s.leaf page).pin.val with
  | 0 =>
    match s.fld .tier Reg.TIER_ZONE_FIRST_TIER (zoneOf page).val with
    | 0 => [.shallows, .basin, .deep]
    | 1 => [.basin, .deep]
    | _ => [.deep]
  | n => [tierOf (n - 1)]

/-- The frame a page's allocation takes, with its tier; a page with a side record needs a side slot too (R127). -/
def State.findHome (s : State) (page : Nat) (side : Bool) : Option (TierName × Nat × Nat) :=
  let z := zoneOf page
  (s.allocTiers page).findSome? fun t =>
    match s.findFrame t z with
    | none => none
    | some f =>
      if side then (s.findSide t z).map fun n => (t, f, n) else some (t, f, 0)

/-- The units an access to a page touches wake (R337): the slice that holds its map leaf, and the memory of its frame. -/
def State.wakeFor (s : State) (page : Nat) : State :=
  if s.pwr.inMode.isEmpty then s
  else
    let d := s.dir page
    let s := if d.valid then s.wakeUnit (.slice (Fin.ofNat 32 (d.leaf / 4096))) else s
    let l := s.leaf page
    match l.st with
    | .resident .shallows => s.wakeUnit (.slice (Fin.ofNat 32 (l.frame / 4096)))
    | .resident .basin => s.wakeUnit (.stack (Fin.ofNat 8 l.frame))
    | .resident .deep => s.wakeUnit (.channel (Fin.ofNat 16 l.frame))
    | _ => s

/-- Count an access to a page (R139): a page whose entry is not in the map cache is a MAP_MISS (R128). -/
def State.note (s0 : State) (page : Nat) : State :=
  let s := s0.wakeFor page
  match Map.get 0 s.tier.counts page with
  | 0 => (s.setTier { s.tier with counts := Map.set 0 s.tier.counts page 2 }).count .tier 0x90
  | n => s.setTier { s.tier with counts := Map.set 0 s.tier.counts page (n + 1) }

/-- Accesses held on a page. -/
def State.heldOn (s : State) (page : Nat) : List Held := Map.get [] s.tier.held page

def State.setHeld (s : State) (page : Nat) (l : List Held) : State :=
  s.setTier { s.tier with held := Map.set [] s.tier.held page l }

/-- The migration slot of a page. -/
def State.mig (s : State) (page : Nat) : Option Mig := s.tier.migs.find? (fun m => m.page = page)

def State.dropMig (s : State) (page : Nat) : State :=
  s.setTier { s.tier with migs := s.tier.migs.filter (fun m => m.page ≠ page) }

def State.addMig (s : State) (m : Mig) : State := s.setTier { s.tier with migs := s.tier.migs ++ [m] }

def State.updMig (s : State) (page : Nat) (f : Mig → Mig) : State :=
  s.setTier { s.tier with migs := s.tier.migs.map fun m => if m.page = page then f m else m }

/-- Migration slots in use, of 256 (R137). A park or serve of more than 256 pages at once takes none (notes/assumptions/26). -/
def State.slotsBusy (s : State) : Nat := min 256 s.tier.migs.length

/-- One of the 256 migration slots is free (R137). -/
def State.migRoom (s : State) : Bool := decide (s.slotsBusy < 256)

/-- Accesses stalled at their source for a page that holds 64 already (R131). -/
def State.stalledOn (s : State) (page : Nat) : List Held := Map.get [] s.tier.stalled page

def State.setStalled (s : State) (page : Nat) (l : List Held) : State :=
  s.setTier { s.tier with stalled := Map.set [] s.tier.stalled page l }

/-- An access joins the held ones of its page; HELD_ACCESS counts those on IN_TRANSIT pages (Table 06-14). -/
def State.holdNow (s : State) (h : Held) : State :=
  let page := pageOf h.offset
  let s := s.setHeld page (s.heldOn page ++ [h])
  (if (s.leaf page).st = .inTransit then s.count .tier 0xB8 else s).send (.accessHeld h.src h.offset)

/-- Hold an access behind those already held (R131): a page holds 64, further requesters stall at their source. -/
def State.hold (s : State) (h : Held) : State :=
  let page := pageOf h.offset
  if (s.heldOn page).length < 64 then s.holdNow h
  else (s.setStalled page (s.stalledOn page ++ [h])).send (.accessStalled h.src h.offset)

/-- A held access is withdrawn by its requester: the first stalled one takes its place. -/
def State.unhold (s : State) (page : Nat) (keep : Held → Bool) : State :=
  let s := (s.setHeld page ((s.heldOn page).filter keep)).setStalled page ((s.stalledOn page).filter keep)
  let room := 64 - (s.heldOn page).length
  let l := s.stalledOn page
  (s.setStalled page (l.drop room)).each (l.take room) State.holdNow

/-- Accesses of requesters that a test does not pick are discarded, held and stalled ones alike. -/
def State.keepHeld (s : State) (keep : Held → Bool) : State :=
  let pages := (s.tier.held.map (·.1) ++ s.tier.stalled.map (·.1)).eraseDups
  s.each pages fun s page =>
    let l := (s.heldOn page ++ s.stalledOn page).filter keep
    (s.setHeld page (l.take 64)).setStalled page (l.drop 64)

/-- A unit of the device is told how its held access ended, any other requester by what the device sends. -/
def State.answerHeld (s : State) (h : Held) (res : HeldEnd) (o : Out) : State :=
  if h.own then
    s.setTier { s.tier with
      answers := s.tier.answers ++ [{ src := h.src, offset := h.offset, write := h.write.isSome, res := res }] }
  else s.send o

/-- The pool queue pairs of a partition (R209). -/
def State.isPool (s : State) (q : QpId) : Bool :=
  let p := partOfQp q
  let k := q.val % 512
  let first := s.fld (.move p) Reg.MOVE_QP_CFG_FIRST
  decide (first ≤ k ∧ k < first + s.fld (.move p) Reg.MOVE_QP_CFG_COUNT)

/-- The pool QPs of a partition to a peer, lowest first. -/
def State.poolTo (s : State) (p : PartId) (node : Nat) (part : PartId) : List QpId :=
  ((List.range (s.fld (.move p) Reg.MOVE_QP_CFG_COUNT)).map fun i =>
    (Fin.ofNat 16384 (512 * p.val + (s.fld (.move p) Reg.MOVE_QP_CFG_FIRST + i) % 512) : QpId)).filter fun q =>
      (s.qp q).remNode == node && (s.qp q).remPart == part && (s.qp q).st != .reset

/-- The bytes of a mover message (Table 09-2). -/
def moverBytes (type : Nat) (m : MoverMsg) : List Byte :=
  List.flatten
    [bytesOfNat 1 type, bytesOfNat 1 (m.copy.toNat + 2 * m.resume.toNat), bytesOfNat 1 m.status, bytesOfNat 1 m.ctx.val,
     bytesOfNat 4 m.reqId, bytesOfNat 2 m.layers, bytesOfNat 2 m.pages, bytesOfNat 4 m.stride, bytesOfNat 8 m.base,
     bytesOfNat 8 m.base2, bytesOfNat 4 m.key.toNat, bytesOfNat 2 m.sideBytes, [0, 0], bytesOfNat 4 m.ttlMs,
     bytesOfNat 4 m.kvLen, bytesOfNat 8 m.stage, bytesOfNat 8 0]

/-- The message that 64 bytes from a peer's control QP hold (Table 09-2). -/
def moverOfBytes (node : Nat) (part : PartId) (ctrl : QpId) (b : List Byte) : MoverMsg :=
  let v := natOfBytes b
  { fromNode := node, fromPart := part, ctrlQp := ctrl, copy := bit v 8, resume := bit v 9, status := bits v 16 8,
    ctx := Fin.ofNat 256 (bits v 24 8), reqId := bits v 32 32, layers := bits v 64 9, pages := bits v 80 15,
    stride := bits v 96 24, base := bits v 128 47, base2 := bits v 192 47, key := BitVec.ofNat 32 (bits v 256 32),
    sideBytes := bits v 288 12, ttlMs := bits v 320 32, kvLen := bits v 352 32, stage := bits v 384 47 }

/-- A mover message is due on the control QP to a peer, the lowest-numbered pool QP to it (R209, R210): it waits for a send
buffer (R414). The engines of a fenced partition issue nothing (Table 14-4, F4). -/
def State.moverSend (s : State) (p : PartId) (type : Nat) (node : Nat) (part : PartId) (m : MoverMsg) : State :=
  match if s.fenced p then [] else s.poolTo p node part with
  | [] => s
  | q :: _ =>
    let x := s.mover p
    s.setMover p { x with outbox := x.outbox ++ [(q, moverBytes type m)] }

/-- A message with nothing but its context and request named. -/
def blankMsg (ctx : Nat) (reqId : Nat) : MoverMsg :=
  { fromNode := 0, fromPart := 0, ctrlQp := 0, copy := false, resume := false, status := 0, ctx := Fin.ofNat 256 ctx,
    reqId := reqId, layers := 0, pages := 0, stride := 0, base := 0, base2 := 0, key := 0, sideBytes := 0, ttlMs := 0,
    kvLen := 0, stage := 0 }

/-- Offset of the stage record of page i of layer L (R208). -/
def stageOff (base layers stride pages side l i : Nat) : Nat := base + layers * stride * 65536 + (l * pages + i) * side

/-- The PULL context whose range holds a page, with the page's layer and place in it (R208, R221). -/
def State.pullCtx (s : State) (p : PartId) (page : Nat) : Option (Nat × MoveCtx × Nat × Nat) :=
  (s.mover p).ctxs.findSome? fun e =>
    let c := e.2
    let first := c.localBase / 65536
    if c.kind = 4 ∧ (c.state = 2 ∨ c.state = 3) ∧ first ≤ page ∧ page < first + c.layers * c.stride then
      some (e.1, c, (page - first) / c.stride, (page - first) % c.stride)
    else none

/-- A page that is pulled brings a side record with it (R127, R222). -/
def State.pullSide (s : State) (page : Nat) : Bool :=
  (s.leaf page).side || match s.pullCtx (zoneOf page) page with
    | some (_, c, _, _) => c.sideBytes != 0
    | none => false

/-- A REMOTE page takes a slot, a destination frame and, with a side record, a side slot, and enters IN_TRANSIT; a pinned
page goes to its pinned tier (R127, R137, R140). `some false`: no slot, so the pull waits; `none`: no frame, so it is
refused as R133 refuses a write. -/
def State.pullPage (s : State) (page : Nat) : Option Bool × State :=
  let l := s.leaf page
  if l.st ≠ .remote ∨ ¬ s.migRoom then (some false, s)
  else
    let side := s.pullSide page
    match s.findHome page side with
    | none => (none, s)
    | some (t, f, n) =>
      let m : Mig := { page := page, prev := l, kind := .pull, dstTier := t, dstFrame := f, dstSide := n, start := s.now,
                       bytes := 0, staged := [], later := [], sided := side }
      let s := if side then s.useSide t (zoneOf page) n true else s
      (some true, ((s.useFrame t f true).addMig m).setLeaf page { l with st := .inTransit })

/-- Pull the pages after a missed one that are REMOTE with consecutive home pages; how many joined (R221). -/
def State.pullMore (s : State) (l : Leaf) (page : Nat) : Nat → Nat → Nat × State
  | _, 0 => (0, s)
  | k, n + 1 =>
    let x := s.leaf (page + k)
    if x.st = .remote ∧ x.node = l.node ∧ x.part = l.part ∧ x.rpage = l.rpage + k ∧ x.keyIdx = l.keyIdx then
      match s.pullPage (page + k) with
      | (some true, t) => let r := t.pullMore l page (k + 1) n; (r.1 + 1, r.2)
      | _ => (0, s)
    else (0, s)

/-- Ask the home for a run of pages (R221): PULL_REQ from PULL context i; the first one of a resume carries RESUME. -/
def State.pullReq (s : State) (p : PartId) (i : Nat) (c : MoveCtx) (l : Leaf) (page layer place count : Nat)
    (resume : Bool) : State :=
  s.moverSend p 4 l.node l.part { blankMsg i c.askId with
    copy := c.copyRun, resume := resume, pages := count, base := l.rpage * 65536, base2 := page * 65536,
    key := BitVec.ofNat 32 (s.fld .tier Reg.REMOTE_KEY l.keyIdx), sideBytes := c.sideBytes,
    stage := stageOff c.localBase c.layers c.stride c.pages c.sideBytes layer place }

/-- A REMOTE page starts its pull (R137, R221): IN_TRANSIT, with a demand run of up to PULL_RUN pages asked for by the
zone's mover. `some false`: no slot, so the pull waits; `none`: no frame. -/
def State.startPull (s : State) (page : Nat) : Option Bool × State :=
  let l := s.leaf page
  match s.pullPage page with
  | (some true, s) =>
    let p := zoneOf page
    match s.pullCtx p page with
    | none =>
      let c : MoveCtx := { localBase := page * 65536, layers := 1, stride := 1, pages := 1 }
      (some true, (s.send (.pullNeeded p page)).pullReq p 0 c l page 0 0 1 false)
    | some (i, c, layer, place) =>
      let r := s.pullMore l page 1 (min (s.fld (.move p) Reg.MOVE_CTRL_PULL_RUN - 1) (c.pages - 1 - place))
      let n := r.1 + 1
      let s := ((r.2.count (.move p) 0x90 n).send (.pullNeeded p page)).pullReq p i c l page layer place n (!c.asked && !c.copyRun)
      let m := s.mover p
      (some true, s.setMover p { m with ctxs := Map.set {} m.ctxs i { c with asked := true } })
  | x => x

/-- What a read or a write of one page meets. -/
inductive Serve where
  | data | zeros | poisoned | held | pull
deriving DecidableEq, Repr

/-- How a read is served (Table 06-7, R131). -/
def State.serveRead (s : State) (page : Nat) : Serve :=
  if (s.heldOn page).any (fun h => h.write.isSome) then .held
  else
    match (s.leaf page).st with
    | .unwritten => .zeros
    | .resident _ => .data
    | .inTransit =>
      match s.mig page with
      | some m => if m.kind = .pull ∨ m.kind = .replace then .held else .data
      | none => .data
    | .remote => .pull
    | .poisoned => .poisoned

/-- What every refusal of the tier controller records (R136). -/
def State.noteRefusal (s : State) (src : Accessor) (code : Nat) : State :=
  let s := (s.err .tier code).count .tier 0xC8
  if src = .host then s.irq .tier 4 else s

/-- A refused write (R136). -/
def State.refuseWrite (s : State) (src : Accessor) (off code : Nat) : State :=
  (s.noteRefusal src code).send (.accessRefused src off code)

/-- A refused access, told to its requester (R136, R140). -/
def State.refuseHeld (s : State) (h : Held) (code : Nat) : State :=
  (s.noteRefusal h.src code).answerHeld h (.refused code) (.accessRefused h.src h.offset code)

/-- What the tier controller answers to the write that opens a home, with a side slot where the write brings a side record
(R127): the state with the home allocated, or the refusal's code (R125, R133). -/
def State.openHome (s : State) (page : Nat) (side : Bool := false) : Except Nat State :=
  match s.needLeaf page with
  | none => .error 0x03
  | some s =>
    match s.findHome page side with
    | none => .error 0x02
    | some (t, f, n) =>
      let l := s.leaf page
      let s := if l.st = .poisoned then s.freeHome page l else s
      let s := s.useFrame t f true
      let s := if side then s.useSide t (zoneOf page) n true else s
      .ok (s.setLeaf page { l with st := .resident t, frame := f, frameTier := t, side := side, sideSlot := n, age := 0 })

/-- The zero fill of a page's new frame starts (R133); its bytes and side record are those of no page before it. -/
def State.startFill (s : State) (page : Nat) : State :=
  let t := s.tier
  (s.setTier { t with filling := page :: t.filling, sideMem := Map.clear t.sideMem (page * 2176) 2176 }).count .tier 0xC0

/-- An access to a REMOTE page (Table 06-7): the pull starts and the access is held, or is refused for want of a frame. -/
def State.pullAndHold (s : State) (h : Held) : State :=
  match s.startPull (pageOf h.offset) with
  | (none, s) => s.refuseHeld h 0x02
  | (some _, s) => s.hold h

/-- Serve a read within one page (Table 06-7). -/
def State.serveHeldRead (s : State) (h : Held) : State :=
  match s.serveRead (pageOf h.offset) with
  | .data => s.answerHeld h .done (.accessDone h.src h.offset (s.rd h.offset h.len))
  | .zeros => (s.when (!h.own) fun s => s.count .tier 0x80).answerHeld h .done
      (.accessDone h.src h.offset (List.replicate h.len 0))
  | .poisoned => (s.when (!h.own) fun s => s.count .tier 0x88).answerHeld h .done
      (.accessPoisoned h.src h.offset (if h.src = .host then List.replicate h.len 0xFF else []))
  | .held => s.hold h
  | .pull => s.pullAndHold h

/-- A read of bytes within one page, by an access of its own (R130, R139). -/
def State.tierRead (s : State) (src : Accessor) (off len ticket : Nat) : State :=
  (s.note (pageOf off)).serveHeldRead { src := src, offset := off, len := len, write := none, ticket := ticket }

/-- Bytes written to a page's home. -/
def State.applyWrite (s : State) (off : Nat) (data : List Byte) : State := s.wr off data

/-- A write opens the home of its page and is held for the zero fill (R133), or is refused. -/
def State.openAndHold (s : State) (h : Held) (side : Bool := false) : State :=
  let page := pageOf h.offset
  match s.openHome page side with
  | .error c => s.refuseHeld h c
  | .ok t => ((t.startFill page).setHeld page [h]).send (.accessHeld h.src h.offset)

/-- Serve a write of bytes within one page (Table 06-7, R133, R135). -/
def State.serveHeldWrite (s : State) (h : Held) (data : List Byte) (side : Bool := false) : State :=
  let page := pageOf h.offset
  if !(s.heldOn page).isEmpty then s.hold h
  else
    match (s.leaf page).st with
    | .resident _ => (s.applyWrite h.offset data).answerHeld h .done (.accessDone h.src h.offset [])
    | .inTransit => s.hold h
    | .remote => s.pullAndHold h
    | .unwritten => s.openAndHold h side
    | .poisoned => if h.offset % 65536 = 0 ∧ data.length = 65536 then s.openAndHold h side else s.refuseHeld h 0x04

/-- A write of bytes within one page, by an access of its own (R130, R139); `own`: its end is kept for the unit of the device
that makes it. -/
def State.tierWrite (s : State) (src : Accessor) (off : Nat) (data : List Byte) (own : Bool := false) : State :=
  (s.note (pageOf off)).serveHeldWrite
    { src := src, offset := off, len := data.length, write := some data, ticket := 0, own := own } data

/-- Why the tier controller would refuse a write to a page now, as a status of Table 07-6 (R125, R133, R135, R194). -/
def State.refusal (s : State) (page : Nat) : Option Nat :=
  if !(s.heldOn page).isEmpty then none
  else
    match (s.leaf page).st with
    | .poisoned => some 0x0D
    | .unwritten =>
      match s.needLeaf page with
      | none => some 0x0C
      | some s => if (s.findHome page false).isNone then some 0x0B else none
    | .remote => if s.migRoom && (s.findHome page (s.pullSide page)).isNone then some 0x0B else none
    | _ => none

/-- Why the tier controller would refuse a read of a page now, as a status of Table 07-6 (R134, R140). -/
def State.readRefusal (s : State) (page : Nat) : Option Nat :=
  match s.serveRead page with
  | .poisoned => some 0x0A
  | .pull => if s.migRoom && (s.findHome page (s.pullSide page)).isNone then some 0x0B else none
  | _ => none

/-- Refusals of TIER PG_ERR as statuses of Table 07-6 and back. -/
def fabCode (tier : Nat) : Nat := if tier = 2 then 0x0B else if tier = 3 then 0x0C else 0x0D
def tierCode (fab : Nat) : Nat := if fab = 0x0B then 2 else if fab = 0x0C then 3 else 4

/-- Answer a memory-semantic request (R160): on its plane and in its class to the issuer's node, or to the local issuer
(R151). -/
def State.respond (s : State) (op : Nat) (r : MemReq) (status : Nat) (noCache plain : Bool) (detail : Nat)
    (data : List Byte) : State :=
  if r.srcNode = s.node then
    if plain then s.recordNak r.srcFeng r.node r.part.val status else s.localAnswer r status detail data
  else s.send (respOut op r.plane.val
    { status := status, noCache := noCache, plain := plain, dstFeng := r.srcFeng, dstNode := r.srcNode, tag := r.tag,
      detail := BitVec.ofNat 64 detail, data := data, tc := r.tc })

/-- Refuse a request with a code of Table 07-6 (R157, R169). -/
def State.nak (s : State) (op : Nat) (r : MemReq) (code : Nat) : State :=
  let plain := op == 0x02 && !r.placeAck
  s.respond 0xFE r code false plain (if plain then gfaOf r else 0) []

/-- A node lies in a reader group (Table 07-2). -/
def inGroup (first count node : Nat) : Bool := decide ((node + 4096 - first % 4096) % 4096 < count)

/-- The region entry a key names (R155). -/
def State.rgnOf (s : State) (p : PartId) (key : Word) : Region := s.rgn p (key.toNat % 4096)

/-- Nodes of a reader group. -/
def groupNodes (first count : Nat) : List Nat := (List.range count).map fun i => (first + i) % 4096

/-- The INV for a page to a reader (R175, Table 07-3): it goes out through the home engine of the page's zone, with no key. -/
def State.invReq (s : State) (page node : Nat) : MemReq :=
  { tc := 1, cacheable := false, placeAck := false, len8 := 0, srcFeng := engOf (zoneOf page) node, srcNode := s.node,
    tag := 0, node := node, part := 0, offset := page * 65536, key := 0, gen := 0, epoch := s.epoch % 65536, rsvZero := true,
    data := [] }

/-- Send an INV, on the plane that R167 gives its engine; where none reaches the reader, none leaves. -/
def State.sendInv (s : State) (page node : Nat) : State :=
  let r := s.invReq page node
  match s.planeOf r.srcFeng node (connKey r) with
  | none => s
  | some plane => (s.sentOn r.srcFeng plane).send (reqOut 0x31 plane r)

/-- Start an invalidation pass (R175): INV to every node awaited; fenced nodes are not waited for. -/
def State.startPass (s : State) (page : Nat) (writer : Option MemReq) : State :=
  let nodes := match s.tier.readers.find? (fun e => e.page = page) with
    | none => []
    | some e => if e.bcast then groupNodes e.rgFirst e.rgCount else e.nodes
  let t := s.tier
  let pass : InvPass := { page := page, awaited := nodes.filter (fun n => !s.nodeFenced n), start := s.now, writer := writer }
  (s.setTier { t with passes := t.passes ++ [pass] }).each nodes fun s n => s.sendInv page n

/-- The pass just started for an eviction, where it waits for no node, is over: its entry goes (R174, R175). -/
def State.evictNow (s : State) : State :=
  let t := s.tier
  match t.passes.getLast? with
  | some x =>
    if x.awaited.isEmpty then
      s.setTier { t with passes := t.passes.dropLast, readers := t.readers.filter fun e => e.page ≠ x.page }
    else s
  | none => s

/-- The home's reader directory at a cacheable load (R174): whether the line goes out with NO_CACHE. -/
def State.admitReader (s : State) (r : MemReq) : Bool × State :=
  let page := pageOf r.offset
  let g := s.rgnOf r.part r.key
  let t := s.tier
  if !r.cacheable || !g.cacheOk then (true, s)
  else if t.passes.any (fun x => x.page = page) then (true, s)
  else
    let inG := inGroup g.rgFirst g.rgCount r.srcNode
    match t.readers.find? (fun e => e.page = page) with
    | some e =>
      let put := fun (e' : RdEntry) => s.setTier { t with readers := t.readers.map fun x => if x.page = page then e' else x }
      if r.srcNode ∈ e.nodes ∨ (e.bcast ∧ inG) then (false, s)
      else if e.nodes.length < 8 then (false, put { e with nodes := e.nodes ++ [r.srcNode] })
      else if inG then (false, put { e with bcast := true, rgFirst := g.rgFirst, rgCount := g.rgCount })
      else (true, s)
    | none =>
      if t.readers.length < 65536 then
        (false, s.setTier { t with readers := t.readers ++
          [{ page := page, nodes := [r.srcNode], bcast := false, rgFirst := g.rgFirst, rgCount := g.rgCount }] })
      else
        match t.readers.find? fun e => !t.passes.any fun x => x.page = e.page with
        | some e => (true, (s.startPass e.page none).evictNow.count (.feng (engOf (zoneOf e.page) 0)) 0xA8)
        | none => (true, s)

/-- Answer a LOAD with the bytes of its home: the whole 256-byte line when the load may be cached (R173). -/
def State.answerLoad (s : State) (r : MemReq) : State :=
  let line := r.cacheable && (s.rgnOf r.part r.key).cacheOk && r.srcNode != s.node
  let x := s.admitReader r
  if line then x.2.respond 0x81 r 0 x.1 false 0 (s.rd (r.offset / 256 * 256) 256)
  else s.respond 0x81 r 0 true false 0 (s.rd r.offset (8 * (r.len8 + 1)))

/-- What an atomic writes, from the old bytes and its operand (Table 07-4). -/
def atomicNew (op : Nat) (old operand : List Byte) : List Byte :=
  let o := natOfBytes old
  let x := natOfBytes operand
  match op with
  | 0x10 => bytesOfNat 8 ((o + x) % 2 ^ 64)
  | 0x11 => bytesOfNat 8 x
  | 0x12 => if o = x % 2 ^ 64 then bytesOfNat 8 (x / 2 ^ 64) else old
  | 0x13 => if o = x % 2 ^ 128 then bytesOfNat 16 (x / 2 ^ 128) else old
  | 0x14 => bytesOfNat 8 (Nat.lor o x)
  | _ => operand

/-- A pooled region this device is a member of that holds an offset, or its lease page (R245): the descriptor's index,
its content, and which member this device is. -/
def State.poolAt (s : State) (off : Nat) : Option (Nat × Nat × Nat) :=
  let tab := s.fldAddr .srch Reg.POOL_BASE_LO_BASE_LO Reg.POOL_BASE_HI_BASE_HI
  (List.range (s.fld .srch Reg.POOL_COUNT_COUNT)).findSome? fun i =>
    let d := s.rdNat (tab + 64 * i) 64
    let base := bits d 64 47
    let len := bits d 128 47
    let members := if bits d 0 2 = 1 then 2 else if bits d 0 2 = 2 then 9 else 0
    if bit d 2 ∧ base ≤ off ∧ off < base + len + 65536 then
      (lowest members fun k => decide (bits d (192 + 32 * k) 12 = s.node)).map fun k => (i, d, k)
    else none

/-- Member k of a descriptor: node and partition (Table 10-4). -/
def poolMember (d k : Nat) : Nat × PartId := (bits d (192 + 32 * k) 12, Fin.ofNat 32 (bits d (204 + 32 * k) 5))

/-- A (node, partition) is fenced by the committed table (R323). -/
def State.memberFenced (s : State) (m : Nat × PartId) : Bool := Map.get 0 s.qrm.table (m.1 * 32 + m.2.val) != 0

/-- The member that takes forwarded updates of a page of member k: member 1 for member 0 of a mirror, the stripe's parity
member for a data member (R246, R247); none where this member forwards nothing. -/
def poolPeer (d k off : Nat) : Option Nat :=
  if bits d 0 2 = 1 then (if k = 0 then some 1 else none)
  else
    let parity := 8 - (off - bits d 64 47) / 65536 % 9
    if k = parity then none else some parity

/-- A request comes from the member that forwards updates to this one (R247). -/
def poolForwarded (d k off : Nat) (r : MemReq) : Bool :=
  let src := (r.srcNode, (Fin.ofNat 32 (r.srcFeng.val / 2) : PartId))
  if bits d 0 2 = 1 then k == 1 && poolMember d 0 == src
  else k == 8 - (off - bits d 64 47) / 65536 % 9 && (List.range 9).any fun j => j != k && poolMember d j == src

/-- A request comes from the partition that an OWNER word names as the holder (R249). -/
def leaseHolder (word : Nat) (r : MemReq) : Bool :=
  bit word 63 && bits word 0 12 == r.srcNode && bits word 12 5 == r.srcFeng.val / 2

/-- The pooled-region checks of a store or an atomic (R247, R249): refused with ACCESS, and whether for want of the
lease. -/
def State.poolCheck (s : State) (r : MemReq) : Option Bool :=
  match s.poolAt r.offset with
  | none => none
  | some (_, d, k) =>
    let base := bits d 64 47
    let len := bits d 128 47
    if base + len ≤ r.offset then none
    else if poolForwarded d k r.offset r then none
    else
      let direct := match poolPeer d k r.offset with
        | some _ => true
        | none => bits d 0 2 == 1 && s.memberFenced (poolMember d 0)
      let word := s.rdNat (base + len) 8
      if !direct then some false else if !leaseHolder word r then some true else none

/-- Record a page in the lease set of a member (R250); a full set sets OVERFLOW in the lease word. -/
def State.leaseDirty (s : State) (d k page : Nat) : State :=
  let at_ := bits d 64 47 + bits d 128 47
  let p := (poolMember d k).2
  let sets := s.srch.lease
  let used : Nat := ((sets.filter fun e => e.1 = p.val).map fun e => e.2.2.length).foldl (· + ·) 0
  let mine := match sets.find? (fun e => e.2.1 = at_) with
    | some e => e.2.2
    | none => []
  if page ∈ mine then s
  else if 16384 ≤ used then s.tierWrite .device at_ (bytesOfNat 8 (Nat.lor (s.rdNat at_ 8) (2 ^ 62)))
  else
    let rest := sets.filter fun e => e.2.1 ≠ at_
    { s with srch := { s.srch with lease := rest ++ [(p.val, at_, mine ++ [page])] } }

/-- Bytes XORed. -/
def xorBytes (a b : List Byte) : List Byte := List.zipWith (fun x y => x ^^^ y) a b

/-- A store or an atomic at its home (R163, R164): the bytes change, the answer leaves. On a pooled region it is
forwarded and placement is reported later (R247); a commit by the holder clears its lease set (R250). -/
def State.applyReq (s : State) (op : Nat) (r : MemReq) : State :=
  let n := if op = 0x02 then r.data.length else 8 * (r.len8 + 1)
  let old := s.rd r.offset n
  let new := atomicNew op old r.data
  let answer := fun (s : State) =>
    if op = 0x02 then (if r.placeAck then s.respond 0x82 r 0 false false 0 [] else s)
    else s.respond 0x90 r 0 false false 0 old
  match s.poolAt r.offset with
  | none => answer (s.wr r.offset new)
  | some (i, d, k) =>
    let lease := bits d 64 47 + bits d 128 47
    if lease ≤ r.offset then
      let s := if op = 0x10 ∧ r.offset = lease + 8 ∧ natOfBytes r.data = 1 ∧ leaseHolder (s.rdNat lease 8) r then
          { s with srch := { s.srch with lease := s.srch.lease.filter fun e => e.2.1 ≠ lease } }
        else s
      answer (s.wr r.offset new)
    else if poolForwarded d k r.offset r then
      answer (s.wr r.offset (if bits d 0 2 = 1 then new else xorBytes old r.data))
    else
      let s := (s.leaseDirty d k (pageOf r.offset)).wr r.offset new
      match poolPeer d k r.offset with
      | none => answer s
      | some j =>
        let m := poolMember d j
        if s.memberFenced m then answer s
        else
          let bytes := if bits d 0 2 = 1 then new else xorBytes old new
          let p := (poolMember d k).2
          let out : MemReq :=
            { tc := r.tc, cacheable := false, placeAck := true, len8 := bytes.length / 8 - 1, srcFeng := engOf p 0,
              srcNode := s.node, tag := 0, node := m.1, part := m.2, offset := r.offset,
              key := BitVec.ofNat 32 (bits d 32 32), gen := 0, epoch := 0, rsvZero := true, data := bytes }
          let n := s.tier.nextTicket + 1
          let fwd : PoolFwd := { region := i, op := op, req := r, bytes := bytes, ticket := n, fwd := out, sent := false }
          let s := s.setTier { s.tier with nextTicket := n }
          let s := { s with srch := { s.srch with fwds := s.srch.fwds ++ [fwd] } }
          let s := ((s.count .srch 0xD8).dropLines m.1 r.offset bytes.length).fwdsGo (connEng out)
          if op = 0x02 then s else answer s

/-- Hold a fabric packet on a page (R131). -/
def State.holdFab (s : State) (f : FabOp) (off len : Nat) (write : Option (List Byte)) : State :=
  let n := s.tier.nextTicket + 1
  (s.setTier { s.tier with nextTicket := n }).hold
    { src := .fabric, offset := off, len := len, write := write, ticket := n, fab := some f }

/-- A memory-semantic LOAD, STORE or atomic that passed the checks, at its home (Table 06-7, R131 to R136, R164). -/
def State.homeReqNow (s : State) (op : Nat) (r : MemReq) : State :=
  let page := pageOf r.offset
  let len := 8 * (r.len8 + 1)
  if op = 0x01 then
    match s.serveRead page with
    | .data => s.answerLoad r
    | .zeros => (s.count .tier 0x80).answerLoad r
    | .poisoned => (s.count .tier 0x88).nak op r 0x0A
    | .held => s.holdFab (.mem op r) r.offset len none
    | .pull =>
      match s.startPull page with
      | (none, s) => (s.refuseWrite .fabric r.offset 2).nak op r 0x0B
      | (some _, s) => s.holdFab (.mem op r) r.offset len none
  else
    let hold := fun (s : State) => s.holdFab (.mem op r) r.offset len (some r.data)
    if !(s.heldOn page).isEmpty then hold s
    else
      match (s.leaf page).st with
      | .resident _ => s.applyReq op r
      | .inTransit => hold s
      | .remote =>
        match s.startPull page with
        | (none, s) => (s.refuseWrite .fabric r.offset 2).nak op r 0x0B
        | (some _, s) => hold s
      | .unwritten =>
        match s.openHome page with
        | .error c => (s.refuseWrite .fabric r.offset c).nak op r (fabCode c)
        | .ok t => hold (t.startFill page)
      | .poisoned =>
        if op = 0x02 then (s.refuseWrite .fabric r.offset 4).nak op r 0x0D
        else (s.count .tier 0x88).nak op r 0x0A

/-- A LOAD, STORE or atomic reaches its home: an access of its page (R139). -/
def State.homeReq (s : State) (op : Nat) (r : MemReq) : State := (s.note (pageOf r.offset)).homeReqNow op r

/-- The pages of n bytes from an offset. -/
def pagesOf (off n : Nat) : List Nat :=
  let a := pageOf off
  (List.range (pageOf (off + (n - 1)) - a + 1)).map (a + ·)

/-- The part of the n bytes from an offset that lies in a page: where it starts and its length. -/
def piece (off n page : Nat) : Nat × Nat :=
  let lo := max off (page * 65536)
  (lo, min (off + n) ((page + 1) * 65536) - lo)

/-- The parts of n bytes from an offset, one for each page they lie in. -/
def piecesOf (off n : Nat) : List (Nat × Nat) := (pagesOf off n).map (piece off n)

/-- PSN b lies this far ahead of PSN a, modulo 2²⁴ (R194). -/
def psnAhead (a b : Nat) : Nat := (b + 2 ^ 24 - a % 2 ^ 24) % 2 ^ 24

/-- A PSN has been received (R194). -/
def Qp.got (x : Qp) (psn : Nat) : Bool :=
  let d := psnAhead x.epsn psn
  if d < 256 then bit x.rxMap d else decide (2 ^ 23 ≤ d)

/-- Every PSN of the n up to the last one is received and placed. -/
def Qp.placedRange (x : Qp) (last n : Nat) : Bool :=
  (List.range (min n 512)).all (fun i => x.got (psnAhead i last)) && (decide (n ≤ 512) || x.got (psnAhead (n - 1) last)) &&
    !(x.unplaced.any fun u => decide (psnAhead u.1 last < n))

/-- Every PSN below this one is received and placed (R186, R187, R190). -/
def Qp.placedBelow (x : Qp) (psn : Nat) : Bool :=
  decide (psnAhead psn x.epsn < 2 ^ 23) && !(x.unplaced.any fun u =>
    decide (0 < psnAhead u.1 psn) && decide (psnAhead u.1 psn < 2 ^ 23))

/-- Packets of a WR or piece of n bytes. -/
def packetsOf (n : Nat) : Nat := max 1 ((n + 1023) / 1024)

/-- Send a placement answer of a QP, carrying and clearing its later refusal (R416). -/
def State.placeAnswer (s : State) (q : QpId) (op psn : Nat) : State :=
  let x := s.qp q
  (s.setQp q { x with lateCode := none }).qpRespond q op
    { status := x.lateCode.getD 0, dstNode := x.remNode, dstQpn := x.remQpn, psn := psn, sack := 0, payload := [] }

/-- Answer the WRITEs with PLACE whose bytes are all placed (R416). -/
def State.answerPlaced (s : State) (q : QpId) : State :=
  let x := s.qp q
  let ready := fun (w : RxWait) => w.op == 0x40 && !w.done && x.placedRange w.psn (packetsOf w.req.wrLen)
  let s := s.setQp q { x with rxWaits := x.rxWaits.filter fun w => !ready w }
  s.each (x.rxWaits.filter ready) fun s w => s.placeAnswer q 0xC2 w.psn

/-- A held piece of a QP packet is placed. -/
def State.qpPlaced (s : State) (q : QpId) (psn off : Nat) : State :=
  let x := s.qp q
  (s.setQp q { x with unplaced := x.unplaced.filter fun u => u ≠ (psn, off) }).answerPlaced q

/-- A held piece of a QP packet is refused: the first such code is kept for the QP (R416). -/
def State.qpLate (s : State) (q : QpId) (psn off code : Nat) : State :=
  let x := s.qp q
  (s.setQp q { x with lateCode := some (x.lateCode.getD code) }).qpPlaced q psn off

/-- The PSN of the first packet that falls in a page, of the WR that a packet with REPLACE belongs to (R191). -/
def firstPsn (psn off : Nat) : Nat := (psn + 2 ^ 24 - off % 65536 / 1024) % 2 ^ 24

/-- A packet that fills a page on its way in, past the hold: of the WR that replaces it (R191), or of the serve a pull
waits for (R222). -/
def State.fills (s : State) (q : QpId) (psn off : Nat) (m : Mig) : Bool :=
  match m.kind with
  | .replace => decide (m.owner = some (q, firstPsn psn off))
  | .pull => s.isPool q && (s.qp q).remNode == m.prev.node && (s.qp q).remPart == m.prev.part
  | _ => false

/-- A replacement of a POISONED page starts (R191): a new frame, a migration slot, IN_TRANSIT. -/
def State.openReplace (s : State) (q : QpId) (psn off : Nat) (t : TierName) (f : Nat) : State :=
  let page := pageOf off
  let l := s.leaf page
  let m : Mig := { page := page, prev := l, kind := .replace, dstTier := t, dstFrame := f, dstSide := 0, start := s.now,
                   bytes := 0, staged := [], later := [], owner := some (q, firstPsn psn off) }
  ((s.useFrame t f true).addMig m).setLeaf page { l with st := .inTransit }

/-- Data of a packet goes into the new frame of a page on its way in (R191, R222). -/
def State.fillPiece (s : State) (q : QpId) (psn off : Nat) (data : List Byte) : State :=
  let page := pageOf off
  let s := s.updMig page fun m =>
    { m with staged := Map.store m.staged off data, bytes := m.bytes + data.length,
             via := if m.kind = .pull then some q else none }
  match s.mig page with
  | some m => if m.kind = .pull then s.qpPlaced q psn off else s
  | none => s

/-- A piece of a QP packet's data, within one page, at its home (R194); `first` as in `FabOp`. -/
def State.homePieceNow (s : State) (q : QpId) (psn off : Nat) (data : List Byte) (first : Bool) : State :=
  let page := pageOf off
  let hold := fun (s : State) => s.holdFab (.qp q psn first) off data.length (some data)
  if (s.mig page).any (s.fills q psn off) then s.fillPiece q psn off data
  else if !(s.heldOn page).isEmpty then hold s
  else
    match (s.leaf page).st with
    | .resident _ => (s.wr off data).qpPlaced q psn off
    | .inTransit => hold s
    | .remote =>
      match s.startPull page with
      | (none, s) => (s.refuseWrite .fabric off 2).qpLate q psn off 0x0B
      | (some _, s) => hold s
    | .unwritten =>
      match s.openHome page with
      | .error c => (s.refuseWrite .fabric off c).qpLate q psn off (fabCode c)
      | .ok t => hold (t.startFill page)
    | .poisoned =>
      if ¬ first then (s.refuseWrite .fabric off 4).qpLate q psn off 0x0D
      else if ¬ s.migRoom then hold s
      else
        match s.findHome page false with
        | none => (s.refuseWrite .fabric off 2).qpLate q psn off 0x0B
        | some (t, f, _) => (s.openReplace q psn off t f).fillPiece q psn off data

/-- A piece of a QP packet's data reaches its home: an access of its page (R139). -/
def State.homePiece (s : State) (q : QpId) (psn off : Nat) (data : List Byte) (first : Bool) : State :=
  (s.note (pageOf off)).homePieceNow q psn off data first

/-- A QREAD_REQ that passed the checks is served (R189): with its bytes, or held on a page on its way. -/
def State.serveQread (s : State) (r : QpReq) : State :=
  let ps := (piecesOf r.offset r.wrLen).map fun x => (x, s.serveRead (pageOf x.1))
  match ps.find? fun x => x.2 == .poisoned with
  | some _ => (s.count .tier 0x88).qnak r 0x0A
  | none =>
    match ps.find? fun x => x.2 == .held || x.2 == .pull with
    | some (x, v) =>
      let hold := fun (s : State) => s.holdFab (.read r) x.1 x.2 none
      if v == .held then hold s
      else
        match s.startPull (pageOf x.1) with
        | (none, s) => (s.refuseWrite .fabric x.1 2).qnak r 0x0B
        | (some _, s) => hold s
    | none =>
      let s := s.count .tier 0x80 (ps.filter fun x => x.2 == .zeros).length
      s.qpRespond r.dstQpn 0xC1 { status := 0, dstNode := r.srcNode, dstQpn := r.srcQpn, psn := r.psn, sack := 0,
                                  payload := s.rd r.offset r.wrLen }

/-- The pieces of a QP's packets in a page end together: placed, or refused with a code (R191, R416). -/
def State.qpPage (s : State) (q : QpId) (page : Nat) (code : Option Nat) : State :=
  let x := s.qp q
  let mine := fun (u : Nat × Nat) => pageOf u.2 == page
  let s := s.setQp q { x with
    unplaced := x.unplaced.filter fun u => !mine u
    lateCode := if x.unplaced.any mine then (match x.lateCode, code with
      | none, c => c
      | some l, _ => some l) else x.lateCode }
  s.answerPlaced q

/-- Serve a held access again, now that its page has a home; it was counted when it arrived. -/
def State.serve (s : State) (h : Held) : State :=
  match h.fab, h.write with
  | some (.mem op r), _ => s.homeReqNow op r
  | some (.qp q psn first), some d => s.homePieceNow q psn h.offset d first
  | some (.qp q psn _), none => s.qpPlaced q psn h.offset
  | some (.read r), _ => s.serveQread r
  | none, none => s.serveHeldRead h
  | none, some d => s.serveHeldWrite h d

/-- Release the accesses held on a page in arrival order, then those that stalled behind them (R131). -/
def State.release (s : State) (page : Nat) : State :=
  let l := s.heldOn page ++ s.stalledOn page
  ((s.setHeld page []).setStalled page []).each l State.serve

/-- One held access ends with a fabric status, or with a refusal of the tier controller where that is given. -/
def State.failOne (s : State) (code : Nat) (tier : Option Nat) (h : Held) : State :=
  let l := s.leaf (pageOf h.offset)
  match h.fab, tier with
  | some (.mem op r), none => s.nak op r code
  | some (.mem op r), some _ => (s.noteRefusal h.src (tierCode code)).nak op r code
  | some (.qp q psn _), none => s.qpLate q psn h.offset code
  | some (.qp q psn _), some _ => (s.noteRefusal h.src (tierCode code)).qpLate q psn h.offset code
  | some (.read r), none => s.qnak r code
  | some (.read r), some _ => (s.noteRefusal h.src (tierCode code)).qnak r code
  | none, none =>
    s.answerHeld h (.failed code (l.node * 2 ^ 52 + l.part.val * 2 ^ 47 + l.rpage * 65536 + h.offset % 65536))
      (.accessRefused h.src h.offset code)
  | none, some c => s.refuseHeld h c

/-- End the accesses held on a page with a fabric status (R138); those stalled behind them are served anew. -/
def State.failHeld (s : State) (page code : Nat) : State :=
  let l := s.heldOn page
  let w := s.stalledOn page
  (((s.setHeld page []).setStalled page []).each l (State.failOne · code none)).each w State.serve

/-- Refuse the accesses held on a page whose pull finds no frame (R133, R140). -/
def State.refuseAll (s : State) (page : Nat) : State :=
  let l := s.heldOn page ++ s.stalledOn page
  ((s.setHeld page []).setStalled page []).each l (State.failOne · 0x0B (some 2))

/-- Start a local move (R137): a slot, a destination frame and side slot, then IN_TRANSIT. False: it cannot start. -/
def State.startMove (s : State) (page : Nat) (dst : TierName) : Bool × State :=
  let l := s.leaf page
  match l.st with
  | .resident t =>
    if t = dst ∨ ¬ s.migRoom ∨ page ∈ s.tier.filling then (false, s)
    else
      let z := zoneOf page
      match s.findFrame dst z with
      | none => (false, s)
      | some f =>
        let side := if l.side then s.findSide dst z else some 0
        match side with
        | none => (false, s)
        | some n =>
          let m : Mig := { page := page, prev := l, kind := .localMove, dstTier := dst, dstFrame := f, dstSide := n,
                           start := s.now, bytes := 65536, staged := [], later := [], sided := l.side }
          let s := s.useFrame dst f true
          let s := if l.side then s.useSide dst z n true else s
          (true, (s.addMig m).setLeaf page { l with st := .inTransit })
  | _ => (false, s)

/-- A page that lost its contents: POISONED, its frame named (Table 06-8). A page that had no home names frame 0 of
Shallows, which is never a data frame (Table 06-3). -/
def State.poison (s : State) (page : Nat) : State :=
  let l := s.leaf page
  if l.st = .poisoned then s
  else
    let l := match l.st with
      | .resident _ => l
      | .inTransit => l
      | _ => { pin := l.pin, hint := l.hint, frameTier := .shallows }
    let s := s.setLeaf page { l with st := .poisoned }
    (s.count .tier 0xD0).irq .tier 3

/-- Free a page to UNWRITTEN (Table 06-8). -/
def State.freePage (s : State) (page : Nat) : State :=
  let l := s.leaf page
  let s := match l.st with
    | .resident _ => s.freeHome page l
    | .poisoned => s.freeHome page l
    | _ => s
  let s := { s with mem := Map.clear s.mem (page * 65536) 65536 }
  let s := s.setTier { s.tier with sideMem := Map.clear s.tier.sideMem (page * 2176) 2176 }
  s.setLeaf page { pin := l.pin, hint := l.hint }

/-- How a read of a unit of the device ends: with its bytes, held, lost on a POISONED page, refused (R140), or with the
fabric status of a failed pull (R138). -/
inductive Own where
  | data
  | wait
  | poisoned (off : Nat)
  | refused (code off : Nat)
  | failed (status gfa : Nat)
deriving DecidableEq, Repr

/-- The pages of several ranges, each with the first part that lies in it: a read of several ranges is one access of each page
(notes/assumptions/19). -/
def pagePieces (l : List (Nat × Nat)) : List (Nat × Nat) :=
  ((l.filter fun x => x.2 ≠ 0).flatMap fun x => piecesOf x.1 x.2).foldl
    (fun acc x => if acc.any fun y => pageOf y.1 == pageOf x.1 then acc else acc ++ [x]) []

/-- The answer to a held access of a unit of the device, if there is one. -/
def State.answerAt (s : State) (src : Accessor) (off : Nat) (write : Bool) : Option HeldEnd :=
  (s.tier.answers.find? fun a => a.src == src && a.offset == off && a.write == write).map (·.res)

/-- An access of a unit of the device is held or stalled. -/
def State.waitsAt (s : State) (src : Accessor) (off : Nat) (write : Bool) : Bool :=
  let p := pageOf off
  (s.heldOn p ++ s.stalledOn p).any fun h => h.own && h.src == src && h.offset == off && h.write.isSome == write

/-- Take the answers of a unit of the device that a test picks. -/
def State.takeAnswers (s : State) (f : Answer → Bool) : State :=
  s.setTier { s.tier with answers := s.tier.answers.filter fun a => !f a }

/-- One page of a read that cannot be served now: counted and held once, a REMOTE page starting its pull (R131, R137). -/
def State.holdOwn (s : State) (src : Accessor) (x : Nat × Nat) : State :=
  if s.waitsAt src x.1 false then s
  else
    let s := if (s.answerAt src x.1 false).isSome then s else s.note (pageOf x.1)
    s.serveHeldRead { src := src, offset := x.1, len := x.2, write := none, ticket := 0, own := true }

/-- A read of a unit of the device that has ended leaves no page holding it. -/
def State.unholdOwn (s : State) (src : Accessor) (ps : List (Nat × Nat)) : State :=
  s.each ps fun s x =>
    if s.waitsAt src x.1 false then
      s.unhold (pageOf x.1) fun h => !(h.own && h.src == src && h.offset == x.1 && h.write.isNone)
    else s

/-- A page cannot serve a read now (Table 06-7). -/
def State.mustWait (s : State) (page : Nat) : Bool :=
  match s.serveRead page with
  | .held => true
  | .pull => true
  | _ => false

/-- The read that a unit of the device makes of parts of pages (R130, R131, R134, R412): as long as a page of it is on its way
or on another device it is held there and nothing else happens; otherwise each page is counted as accessed once (R139) and its
bytes can be taken. -/
def State.ownReadAt (s : State) (src : Accessor) (ps : List (Nat × Nat)) : Own × State :=
  let mine := fun (a : Answer) => a.src == src && !a.write && ps.any fun x => a.offset == x.1
  match s.tier.answers.find? fun a => mine a && a.res != .done with
  | some a =>
    match a.res with
    | .refused c => (.refused c a.offset, (s.takeAnswers mine).unholdOwn src ps)
    | .failed c g => (.failed c g, (s.takeAnswers mine).unholdOwn src ps)
    | .done => (.wait, s)
  | none =>
    match ps.find? fun x => s.serveRead (pageOf x.1) = .poisoned with
    | some x =>
      (.poisoned (pageOf x.1 * 65536), (((s.takeAnswers mine).unholdOwn src ps).note (pageOf x.1)).count .tier 0x88)
    | none =>
      if ps.any fun x => s.mustWait (pageOf x.1) then
        (.wait, s.each (ps.filter fun x => s.mustWait (pageOf x.1)) fun s x => s.holdOwn src x)
      else
        let t := s.each (ps.filter fun x => (s.answerAt src x.1 false).isNone) fun s x => s.note (pageOf x.1)
        let t := t.each ps fun t x => if t.serveRead (pageOf x.1) = .zeros then t.count .tier 0x80 else t
        (.data, t.takeAnswers mine)

/-- The read of n bytes from an offset. -/
def State.ownRead (s : State) (src : Accessor) (off n : Nat) : Own × State := s.ownReadAt src (piecesOf off n)

/-- A read the device makes of a structure in the State Space (R412): held on pages on their way or on another device; lost
on POISONED pages and after a failed pull; otherwise its bytes. -/
def State.fetch (s : State) (off n : Nat) (lost : State → State) (k : List Byte → State → State) : State :=
  match s.ownRead .device off n with
  | (.data, t) => k (t.rd off n) t
  | (.wait, t) => t
  | (_, t) => lost t

/-- The part of a byte string from offset off that lies in one page. -/
def pieceIn (off : Nat) (data : List Byte) (page : Nat) : Nat × List Byte :=
  let lo := max off (page * 65536)
  (lo, (data.drop (lo - off)).take (min (off + data.length) ((page + 1) * 65536) - lo))

/-- A write the device makes of a structure or of data in the State Space, page by page. -/
def State.put (s : State) (off : Nat) (data : List Byte) : State :=
  if data.isEmpty then s
  else s.each (pagesOf off data.length) fun s p =>
    let x := pieceIn off data p
    s.tierWrite .device x.1 x.2

/-- Whether a write to these bytes can be applied at once: every page RESIDENT, nothing held. -/
def State.writable (s : State) (off n : Nat) : Bool :=
  (pagesOf off n).all fun p =>
    match (s.leaf p).st with
    | .resident _ => (s.heldOn p).isEmpty
    | _ => false

/-- An access of a unit of the device that has ended is no longer its own: what becomes of it is told as any other's. -/
def State.disown (s : State) (src : Accessor) : State :=
  let free := fun (m : Map (List Held)) => m.map fun (e : Nat × List Held) =>
    (e.1, e.2.map fun h => if h.src = src then { h with own := false } else h)
  s.setTier { s.tier with
    held := free s.tier.held, stalled := free s.tier.stalled, answers := s.tier.answers.filter fun a => a.src ≠ src }

/-- A write of a unit of the device has not been accepted: it is stalled, or held for a page that is on its way from another
device, which may still refuse it (R131, R136, R138). -/
def State.unaccepted (s : State) (src : Accessor) : Bool :=
  let mine := fun (h : Held) => h.own && h.src == src && h.write.isSome
  s.tier.stalled.any (fun e => e.2.any mine) ||
    s.tier.held.any fun e => e.2.any mine && match s.mig e.1 with
      | some m => m.kind == .pull
      | none => (s.leaf e.1).st == .remote

/-- How the writes that a unit of the device has given to the tier controller stand. -/
inductive Writes where
  | accepted
  | wait
  | refused (code off : Nat)
  | failed (status gfa : Nat)
deriving DecidableEq, Repr

/-- The writes of a unit of the device are looked at: one refused or failed ends them all (R136, R138). -/
def State.writesEnd (s : State) (src : Accessor) : Writes × State :=
  match s.tier.answers.find? fun a => a.src == src && a.write && a.res != .done with
  | some a =>
    match a.res with
    | .refused c => (.refused c a.offset, s.disown src)
    | .failed c g => (.failed c g, s.disown src)
    | .done => (.wait, s)
  | none => if s.unaccepted src then (.wait, s) else (.accepted, s.disown src)

/-- Side record bytes of a page (R127). -/
def State.rdSide (s : State) (page n : Nat) : List Byte := Map.bytes s.tier.sideMem (page * 2176) n

/-- Store a page's side record, taking a side slot in its home tier and setting SIDE where it has none (R216); a page that is
pulled has it in the tier it comes to (R222). False: no side slot. -/
def State.setSide (s : State) (page : Nat) (data : List Byte) : Bool × State :=
  let l := s.leaf page
  let store := fun (s : State) =>
    s.setTier { s.tier with sideMem := Map.store s.tier.sideMem (page * 2176) (data.take 2176) }
  if l.side then (true, store s)
  else
    match l.st with
    | .resident t =>
      match s.findSide t (zoneOf page) with
      | none => (false, s)
      | some n => (true, store ((s.useSide t (zoneOf page) n true).setLeaf page { l with side := true, sideSlot := n }))
    | .inTransit =>
      match s.mig page with
      | none => (false, s)
      | some m =>
        if m.sided then (true, store s)
        else
          match s.findSide m.dstTier (zoneOf page) with
          | none => (false, s)
          | some n =>
            (true, store ((s.useSide m.dstTier (zoneOf page) n true).updMig page fun m => { m with sided := true, dstSide := n }))
    | _ => (false, s)

end Sys2Proof.Machine
end

