-- ==== Sys2Proof/Machine/Records.lean ====
section
/-! DEFINITION. Error records, escalation, fence causes, quorum messages, the placement journal (R315 to R331). -/

namespace Sys2Proof.Machine
open Sys2Proof

/-- The partition a page counts for under R317. -/
def partOfPage : Page → Option PartId
  | .tile t => some (partOf t)
  | .disp p => some p
  | .samp p => some p
  | .move p => some p
  | .admt p => some p
  | .feng e => some (partOfEng e)
  | _ => none

/-- The level of the unit a page stands for (Tables 01-1, 14-1). -/
def levelOf (pg : Page) : Nat :=
  match pg.kind with
  | .tile => 3
  | .disp => 4 | .samp => 4 | .move => 4 | .admt => 4
  | _ => 5

/-- The rail that feeds the unit of a page (Table 15-1). -/
def railOf : Page → Nat
  | .tile t => 1 + t.val / 64
  | .shl _ => 6
  | .bas _ => 7
  | .deep _ => 8
  | .port _ => 9
  | .pcie => 11
  | .dev => 12 | .rstc => 12 | .pwr => 12 | .clk => 12 | .wlh => 12 | .ledg => 12 | .uart => 12 | .sync => 12
  | .time => 12
  | .pin => 13
  | _ => 5

/-- What names an error record (Table 14-1). `engine` 7: none. `syn`: bytes 40 up, SYN_KIND first (Table 14-2). -/
structure RecArgs where
  severity : Nat
  engine : Nat := 7
  code : Nat := 0
  opcode : Nat := 0
  taskId : Nat := 0
  reqId : Nat := 0
  layer : Nat := 0
  rail : Option Nat := none
  syn : List Byte := []

/-- Error record of a page's event, numbered n (Table 14-1). TEMP and SENSOR are free: the spec states no reading. -/
def State.errorRecord (s : State) (pg : Page) (a : RecArgs) (n : Nat) : BitVec 512 :=
  let lvl := if a.engine < 7 then 2 else levelOf pg
  let rail := a.rail.getD (railOf pg)
  let volt := s.fld .pwr Reg.RAIL_MV_MV rail
  let b := List.flatten
    [[1], bytesOfNat 1 (a.severity % 4), bytesOfNat 2 (lvl + a.engine * 8), bytesOfNat 2 pg.kind.type,
     bytesOfNat 2 pg.inst, bytesOfNat 1 a.code, bytesOfNat 1 a.opcode, bytesOfNat 2 a.taskId, bytesOfNat 4 a.reqId,
     bytesOfNat 8 s.now, bytesOfNat 2 (s.freeNat 16), bytesOfNat 2 volt, bytesOfNat 1 rail,
     bytesOfNat 1 (s.freeNat 24 / 65536), [0, 0], bytesOfNat 4 n, bytesOfNat 2 a.layer, [0, 0], a.syn]
  BitVec.ofNat 512 (natOfBytes (b.take 64))

/-- The nodes of the witness entries and witness spares, by bit of QRM_WIT_ACTIVE (Table 14-12). -/
def State.witnessNode (s : State) (i : Nat) : Option Nat :=
  if i < 7 then
    if s.flag .qrm Reg.QRM_WITNESS_VALID i then some (s.fld .qrm Reg.QRM_WITNESS_NODE i) else none
  else if s.flag .qrm Reg.QRM_WSPARE_VALID (i - 7) then some (s.fld .qrm Reg.QRM_WSPARE_NODE (i - 7)) else none

/-- The active witnesses, lowest first (QRM_WIT_ACTIVE). -/
def State.witnesses (s : State) : List Nat :=
  (setBits 15 (s.fld .qrm Reg.QRM_WIT_ACTIVE_MASK)).filterMap s.witnessNode

/-- The leader: the lowest-numbered active witness that is not fenced. -/
def State.leader (s : State) : Option Nat := s.witnesses.find? fun n => !s.nodeFenced n

/-- Payload bytes 0 to 15 of the CONTROL flit a quorum message travels in (R320). -/
def quorumHeader (msg : Nat) (h : QHdr) : List Byte :=
  List.flatten
    [[0x51], bytesOfNat 1 msg, bytesOfNat 2 h.src, bytesOfNat 2 h.dst, bytesOfNat 2 h.seq, bytesOfNat 8 h.epoch]

/-- The header of this device's next message to a node (R320). -/
def State.qhdr (s : State) (dst : Nat) : QHdr := { src := s.node, dst := dst, seq := s.qrm.seqOut, epoch := s.epoch }

/-- The sender's SEQ goes on (R320). -/
def State.qseq (s : State) : State := { s with qrm := { s.qrm with seqOut := (s.qrm.seqOut + 1) % 65536 } }

/-- A message is acted on unless a copy of it came before (R320). -/
def State.once (s : State) (h : QHdr) (f : State → State) : State :=
  let q := s.qrm
  if q.seen.contains (h.src, h.seq) then s else f { s with qrm := { q with seen := ((h.src, h.seq) :: q.seen).take 4096 } }

/-- Send a quorum message on the two lowest planes that reach its node (R320). -/
def State.quorumSend (s : State) (msg dst : Nat) (body : List Nat) : State :=
  s.qseq.send (.quorum ((s.planesTo dst).take 2) (quorumHeader msg (s.qhdr dst)) body)

/-- Event F1: a fence cause of partitions is taken (Table 14-4); a cause other than COMMIT sends FAULT_REPORT (R319). -/
def State.takeCauses (s : State) (ps : List PartId) (cause : Nat) : State :=
  let new := ps.filter fun p => !s.fenced p && !s.qrm.fencing.any fun f => f.1 == p.val
  let s := { s with qrm := { s.qrm with fencing := s.qrm.fencing ++ new.map fun p => (p.val, cause) } }
  if cause ≠ 1 ∧ new ≠ [] ∧ s.flag .qrm Reg.QRM_CTRL_EN then
    match s.leader with
    | some n => s.quorumSend 0x04 n [new.foldl (fun m p => Nat.lor m (2 ^ p.val)) 0, cause, s.node]
    | none => s
  else s

/-- Event F1 of one partition. -/
def State.takeCause (s : State) (p : PartId) (cause : Nat) : State := s.takeCauses [p] cause

/-- Entries of the ELOG ring (R316). -/
def State.elogLog2 (s : State) : Nat := s.fld .elog Reg.ELOG_CTRL_LOG2

/-- Append a record to the ring (R316): full, it is dropped with OVERFLOW. -/
def State.elogRing (s : State) (r : BitVec 512) : State :=
  if s.flag .elog Reg.ELOG_CTRL_EN then
    let n := 2 ^ s.elogLog2
    let tail := s.fld .elog Reg.ELOG_TAIL_TAIL
    let head := s.fld .elog Reg.ELOG_HEAD_HEAD
    if (tail + 2 * n - head % (2 * n)) % (2 * n) ≥ n then
      (((s.count .elog 0x88).setFld .elog Reg.ELOG_STAT_OVERFLOW 1).err .elog 0x01).irq .elog 1
    else
      let a := s.fldAddr .elog Reg.ELOG_RING_BASE_LO_BASE_LO Reg.ELOG_RING_BASE_HI_BASE_HI + tail % n * 64
      (s.put a (BVbytes r)).setFld .elog Reg.ELOG_TAIL_TAIL ((tail + 1) % (2 * n))
  else s

/-- Escalation (R317): SEVERITY 2 records of a partition within the last second reach ESC_LIMIT. -/
def State.escalate (s : State) (p : PartId) : State :=
  let times := ((Map.get [] s.elog.sev2 p.val).filter fun t => s.now < t + 1000000000) ++ [s.now]
  let s := { s with elog := { s.elog with sev2 := Map.set [] s.elog.sev2 p.val times } }
  let lim := s.fld .elog Reg.ELOG_CTRL_ESC_LIMIT
  if lim ≠ 0 ∧ lim ≤ times.length ∧ ¬ s.fenced p ∧ ¬ s.qrm.fencing.any (fun f => f.1 == p.val) then
    (s.count .elog 0x98).takeCause p 0x03
  else s

/-- Write an error record (R315, R316): at most one CORRECTED record of a page each millisecond, the rest SUPPRESSED;
records of SEVERITY 2 and 3 go to the Wellhead for the ledger, and those of SEVERITY 2 count for R317. -/
def State.record (s : State) (pg : Page) (a : RecArgs) : State :=
  let last := Map.get 0 s.elog.corrected pg.base
  if a.severity = 0 ∧ last ≠ 0 ∧ s.now < (last - 1) + 1000000 then s.count .elog 0x90
  else
    let n := (s.fld .elog Reg.ELOG_SEQ_SEQ + 1) % 2 ^ 32
    let r := s.errorRecord pg a n
    let s := (s.draw.setFld .elog Reg.ELOG_SEQ_SEQ n).count .elog 0x80
    let el := s.elog
    let s := { s with elog := { el with
      recent := (r :: el.recent).take 16
      corrected := if a.severity = 0 then Map.set 0 el.corrected pg.base (s.now + 1) else el.corrected
      toLedger := if a.severity = 2 ∨ a.severity = 3 then el.toLedger ++ [r] else el.toLedger } }
    let s := (s.elogRing r).irq .elog 0
    match partOfPage pg with
    | some p => if a.severity = 2 then s.escalate p else s
    | none => s

end Sys2Proof.Machine
end

