-- ==== Sys2Proof/Machine/Fabric.lean ====
section
/-! DEFINITION. Memory-semantic requests, their answers, read caching and invalidation (R149 to R178). A request whose
SRC_NODE is this device is issued (or served at once, R151); one whose NODE is this device is served as the target. -/

namespace Sys2Proof.Machine
open Sys2Proof

/-- A partition is in reset: its DISP page is not ready (notes/assumptions/18). -/
def State.inReset (s : State) (p : PartId) : Bool := !s.ready (.disp p)

/-- EPOCH a lies 1 to 32,768 behind epoch b, modulo 2¹⁶ (R159). -/
def olderEpoch (a b : Nat) : Bool :=
  let d := (b % 65536 + 65536 - a % 65536) % 65536
  decide (1 ≤ d ∧ d ≤ 32768)

/-- The source partition is fenced by the quorum and the request's EPOCH is older (R159). -/
def State.staleEpoch (s : State) (node part epoch : Nat) : Bool :=
  match Map.get 0 s.qrm.table (node * 32 + part) with
  | 0 => false
  | n + 1 => olderEpoch epoch n

/-- Length and alignment (R161) and RSV fields. -/
def reqShape (op : Nat) (r : MemReq) : Bool :=
  let n := 8 * (r.len8 + 1)
  r.rsvZero && decide (r.len8 < 32) && (match op with
  | 0x01 => decide (r.offset % 8 = 0 ∧ r.offset % 256 + n ≤ 256)
  | 0x02 => decide (r.offset % 8 = 0 ∧ r.offset % 256 + n ≤ 256 ∧ r.data.length = n)
  | 0x12 => decide (r.offset % 8 = 0 ∧ r.len8 = 0 ∧ r.data.length = 16)
  | 0x13 => decide (r.offset % 16 = 0 ∧ r.len8 = 1 ∧ r.data.length = 32)
  | 0x30 => decide (r.len8 = 0 ∧ r.data = [])
  | _ => decide (r.offset % 8 = 0 ∧ r.len8 = 0 ∧ r.data.length = 8))

/-- The permission bit of an opcode (Table 07-2). -/
def permitted (g : Region) (op : Nat) : Bool :=
  if op = 0x01 then g.read else if op = 0x02 ∨ op = 0x30 then g.write else g.atomic

/-- Checks 1 and 2 of R157. -/
def State.checkPart (s : State) (p : PartId) (srcNode srcPart epoch : Nat) : Option Nat :=
  if s.inReset p then some 0x01
  else if s.fenced p then some 0x02
  else if s.staleEpoch srcNode srcPart epoch then some 0x03
  else none

/-- Checks 4 to 8 of R157 for n bytes at an offset. -/
def State.checkRegion (s : State) (p : PartId) (key : Word) (gen : Nat) (perm : Region → Bool) (off n : Nat) :
    Option Nat :=
  let g := s.rgnOf p key
  if !g.valid then some 0x05
  else if g.keyCheck ≠ key.toNat / 4096 then some 0x06
  else if g.window ∧ g.gen ≠ gen then some 0x07
  else if !perm g then some 0x08
  else if n ≠ 0 ∧ (off < g.base ∨ g.base + g.lenM1 < off + (n - 1)) then some 0x09
  else none

/-- The first check of R157 that a memory-semantic request fails, with the pooled-region refusals of R247 and R249 under
ACCESS; true where the lease is wanting. -/
def State.checkReq (s : State) (op : Nat) (r : MemReq) : Option (Nat × Bool) :=
  match s.checkPart r.part r.srcNode (r.srcFeng.val / 2) r.epoch with
  | some c => some (c, false)
  | none =>
    if !reqShape op r then some (0x04, false)
    else
      match s.checkRegion r.part r.key r.gen (fun g => permitted g op) r.offset (8 * (r.len8 + 1)) with
      | some c => some (c, false)
      | none => if op = 0x01 ∨ op = 0x30 then none else (s.poolCheck r).map fun lease => (0x08, lease)

/-- The target: checks, then the access at its home. -/
def State.targetReq (s : State) (op : Nat) (r : MemReq) : State :=
  match s.checkReq op r with
  | some (c, lease) => (if lease then s.count .srch 0xF0 else s).nak op r c
  | none => s.homeReq op r

/-- A request to this device does not leave it (R151): it takes a slot, passes every check and goes to the tier controller. A
plain store keeps no slot and completes when the tier controller accepts it, or with its refusal. False: it stalls. -/
def State.requestHere (s : State) (op : Nat) (kind : ReqKind) (r : MemReq) (owner : ReqOwner)
    (serve : State → MemReq → State) : Bool × State :=
  let e := connEng r
  match s.freeTag e with
  | none => (false, s.count (.feng e) 0x90)
  | some tag =>
    let q := { s.issued r with tag := tag, plane := 0 }
    if op == 0x02 && !r.placeAck then
      let code := match s.checkReq op q with
        | some c => some c.1
        | none => s.refusal (pageOf q.offset)
      (true, (serve s q).deliver e tag owner kind q (code.getD 0) [])
    else
      (true, serve (s.setReqSlot e tag (some
        { kind := kind, req := q, issued := s.now, noInstall := false, planes := [0], answers := [], owner := owner })) q)

/-- A LOAD's lookup in its partition's cache (R172): a hit is answered at once, without fabric traffic. -/
def State.cacheHit (s : State) (r : MemReq) (owner : ReqOwner) : Option State :=
  let e := connEng r
  let p := partOfEng e
  (s.rrc.find? (lineIs p r)).map fun l =>
    let s := { s with rrc := l :: s.rrc.filter fun x => !lineIs p r x }
    ((s.count (.feng e) 0xA0).sample 6 e.val none 0).deliver e r.tag owner .load r 0
      ((l.data.drop (r.offset % 256)).take (8 * (r.len8 + 1)))

/-- A unit of the device gives a request to its engine (R151, R152, R172): a fenced or reset engine takes none, one to this
device does not leave it, a LOAD looks the cache up and a write drops cached lines. False: it stalls. -/
def State.request (s : State) (op : Nat) (kind : ReqKind) (r : MemReq) (owner : ReqOwner := .issuer) : Bool × State :=
  if ¬ s.engLive (connEng r) then (false, s)
  else if r.node = s.node then s.requestHere op kind r owner fun s q => s.targetReq op q
  else if op = 0x01 then
    let s := s.wakeUnit (.slice (partOfEng (connEng r)))
    match s.cacheHit r owner with
    | some t => (true, t)
    | none => s.issue op kind r owner
  else (s.dropLines r.node r.offset (8 * (r.len8 + 1))).issue op kind r owner

/-- A LOAD, STORE or atomic: issued, or served as the target; one that names another device is not for this one. -/
def State.memReq (s : State) (op : Nat) (kind : ReqKind) (r : MemReq) : State :=
  if r.srcNode = s.node then (s.request op kind r).2 else if r.node = s.node then s.targetReq op r else s

/-- LOAD (R172, R173). -/
def execLoad (r : MemReq) (s : State) : Res := .next (s.memReq 0x01 .load r)

/-- STORE (R163, R172). -/
def execStore (r : MemReq) (s : State) : Res := .next (s.memReq 0x02 .store r)

/-- FADD64 (R164). -/
def execFadd64 (r : MemReq) (s : State) : Res := .next (s.memReq 0x10 .atomic r)

/-- SWAP64 (R164). -/
def execSwap64 (r : MemReq) (s : State) : Res := .next (s.memReq 0x11 .atomic r)

/-- CAS64 (R164). -/
def execCas64 (r : MemReq) (s : State) : Res := .next (s.memReq 0x12 .atomic r)

/-- CAS128 (R164). -/
def execCas128 (r : MemReq) (s : State) : Res := .next (s.memReq 0x13 .atomic r)

/-- FOR64 (R164). -/
def execFor64 (r : MemReq) (s : State) : Res := .next (s.memReq 0x14 .atomic r)

/-- Requests of one connection and class (R152, R168). -/
def sameConn (a b : MemReq) : Bool :=
  a.srcNode == b.srcNode && a.srcFeng == b.srcFeng && a.node == b.node && a.part == b.part && a.tc == b.tc

/-- A marker arrives at the target: checks 1 and 2, then it waits (R157, R168). -/
def State.targetFlush (s : State) (r : MemReq) : State :=
  match s.checkPart r.part r.srcNode (r.srcFeng.val / 2) r.epoch with
  | some c => s.nak 0x20 r c
  | none =>
    let n := s.tier.nextTicket + 1
    s.setTier { s.tier with nextTicket := n, markers := s.tier.markers ++ [{ r := r, plane := r.plane, ticket := n }] }

/-- A FLUSH leaves as one marker on each plane that is up and reaches NODE, or on the connection's plane (R168); what counts
for R170 starts anew. With no plane it completes at once, with PATH_LOST while that is set (R169, R170). -/
def State.flushOut (s : State) (r : MemReq) : State :=
  let e := connEng r
  let planes := if s.pinned then (s.planeOf e r.node (connKey (s.issued r))).toList
    else if 256 ≤ r.node then [] else s.planesTo r.node
  match s.freeTag e with
  | none => s.count (.feng e) 0x90
  | some tag =>
    let out := { s.issued r with tag := tag, len8 := 0, data := [] }
    if planes.isEmpty then
      s.send (.localResp e tag (if s.flag (.feng e) Reg.FENG_STAT_PATH_LOST then 0x13 else 0x10) [])
    else if planes.any (s.connWaits r) then s
    else
      let s := s.setEng e { s.eng e with sentPlanes := 0 }
      (s.sends (planes.map fun p => reqOut 0x20 p out)).setReqSlot e tag (some
        { kind := .flush, req := out, issued := s.now, noInstall := false, planes := planes, answers := [] })

/-- FLUSH (R168); a marker of another device arrives on a plane. -/
def execFlush (r : MemReq) (plane : PortId) (s : State) : Res :=
  .next (
    if r.srcNode = s.node then
      if ¬ s.engLive (connEng r) then s
      else if r.node = s.node then
        (s.requestHere 0x20 .flush { r with len8 := 0, data := [] } .issuer State.targetFlush).2
      else s.flushOut r
    else if r.node = s.node then s.targetFlush { r with plane := plane }
    else s)

/-- Requests of a marker's connection and class that came before it on its plane and are not placed: held, or forwarded to a
peer of a pooled region (R168, R247). -/
def State.markerWaits (s : State) (m : Marker) : Bool :=
  let before := fun (r : MemReq) (ticket : Nat) => sameConn r m.r && r.plane == m.plane && decide (ticket < m.ticket)
  let waits := fun (e : Nat × List Held) => e.2.any fun h => match h.fab with
    | some (.mem _ r) => before r h.ticket
    | _ => false
  s.tier.held.any waits || s.tier.stalled.any waits || s.srch.fwds.any fun f => before f.req f.ticket

/-- FLUSH_MARKER_ANSWER (R168): every earlier request of the marker is placed or refused. -/
def execFlushMarkerAnswer (r : MemReq) (plane : PortId) (s : State) : Res :=
  .next (match s.tier.markers.find? (fun m => m.r = r ∧ m.plane = plane) with
    | none => s
    | some m =>
      if s.markerWaits m then s
      else
        (s.setTier { s.tier with markers := s.tier.markers.filter fun x => x ≠ m }).respond 0xA0 r 0 false false 0 [])

/-- End an invalidation pass (R175): the entry cleared or, at a timeout, kept with the nodes that did not answer. -/
def State.endPass (s : State) (x : InvPass) (status detail : Nat) : State :=
  let t := s.tier
  let readers := if status = 0 then t.readers.filter fun e => e.page ≠ x.page
    else t.readers.map fun e => if e.page = x.page ∧ ¬ e.bcast then { e with nodes := x.awaited } else e
  let s := s.setTier { t with passes := t.passes.filter (fun y => y ≠ x), readers := readers }
  let s := match x.writer with
    | some r => s.respond 0xB0 r status false false detail []
    | none => s
  match s.tier.passQueue.find? (fun r => pageOf r.offset = x.page) with
  | some r => (s.setTier { s.tier with passQueue := s.tier.passQueue.erase r }).startPass x.page (some r)
  | none => s

/-- End the passes that wait for no node. -/
def State.endPasses (s : State) : Nat → State
  | 0 => s
  | n + 1 =>
    match s.tier.passes.find? (fun x => x.awaited.isEmpty) with
    | some x => (s.endPass x 0 0).endPasses n
    | none => s

/-- How many passes can end at once. -/
def State.passCount (s : State) : Nat := s.tier.passes.length + s.tier.passQueue.length

/-- Nodes that the quorum has removed from membership are no longer waited for (R175). -/
def State.passMembers (s : State) : State :=
  let s := s.setTier { s.tier with passes := s.tier.passes.map fun x =>
    { x with awaited := x.awaited.filter fun n => !s.nodeFenced n } }
  s.endPasses s.passCount

/-- An INVALIDATE at the home (R175): checked as a write; one pass of a page at a time. -/
def State.targetInvalidate (s : State) (r : MemReq) : State :=
  match s.checkReq 0x30 r with
  | some (c, _) => s.nak 0x30 r c
  | none =>
    if s.tier.passes.any fun x => x.page = pageOf r.offset then
      s.setTier { s.tier with passQueue := s.tier.passQueue ++ [r] }
    else
      let s := s.startPass (pageOf r.offset) (some r)
      s.endPasses s.passCount

/-- INVALIDATE (R175). -/
def execInvalidate (r : MemReq) (s : State) : Res :=
  .next (
    if r.srcNode = s.node then
      let r := { r with tc := 1, len8 := 0, data := [] }
      if ¬ s.engLive (connEng r) then s
      else if r.node = s.node then (s.requestHere 0x30 .invalidate r .issuer State.targetInvalidate).2
      else (s.issue 0x30 .invalidate r).2
    else if r.node = s.node then s.targetInvalidate r
    else s)

/-- INV (R176): every line of the page goes, whatever its slice; loads on their way are not installed. -/
def execInv (r : MemReq) (s : State) : Res :=
  let page := pageOf r.offset
  let s := { s with rrc := s.rrc.filter fun l => !(l.node == r.srcNode && l.block / 256 == page) }
  let s := { s with engines := s.engines.map fun (e : Nat × Engine) =>
    (e.1, { e.2 with slots := e.2.slots.map fun (o : Nat × Option Outst) => (o.1, o.2.map fun (y : Outst) =>
      if y.kind = ReqKind.load ∧ y.req.node = r.srcNode ∧ pageOf y.req.offset = page then { y with noInstall := true } else y) }) }
  .next (s.send (respOut 0xB1 r.plane.val
    { status := 0, noCache := false, plain := false, dstFeng := r.srcFeng, dstNode := r.srcNode, tag := r.tag, detail := 0,
      data := [], tc := r.tc }))

/-- A response that finds its slot with a request of its kind. -/
def State.atSlot (s : State) (r : MemResp) (kind : ReqKind) (f : Outst → State → State) : State :=
  match s.reqSlot r.dstFeng r.tag with
  | some y => if y.kind = kind then f y s else s.lateResp r.dstFeng r.tag
  | none => s.lateResp r.dstFeng r.tag

/-- Install a line: 16 ways a set, the least recently used going (R172, R173). -/
def State.install (s : State) (l : Line) : State :=
  let same := fun (x : Line) => x.part == l.part && x.block % 4096 == l.block % 4096
  let rest := s.rrc.filter fun x => !(x.part == l.part && x.node == l.node && x.block == l.block && x.key == l.key)
  let ways := (rest.filter same).take 15
  { s with rrc := l :: rest.filter fun x => !same x || ways.contains x }

/-- LOAD_RESP (R173, R176). -/
def execLoadResp (r : MemResp) (s : State) : Res :=
  .next (s.atSlot r .load fun y s =>
    let line := r.data.length == 256 && y.req.cacheable
    let data := if line then (r.data.drop (y.req.offset % 256)).take (8 * (y.req.len8 + 1)) else r.data
    let s := if line && !r.noCache && !y.noInstall then
        s.install { part := partOfEng r.dstFeng, node := y.req.node, gpart := y.req.part, block := y.req.offset / 256,
                    key := y.req.key, data := r.data }
      else s
    s.answered r.dstFeng r.tag y 0 data)

/-- STORE_ACK (R171, R331). -/
def execStoreAck (r : MemResp) (s : State) : Res :=
  .next (s.atSlot r .store fun y s => s.answered r.dstFeng r.tag y 0 [])

/-- ATOMIC_RESP (R164). -/
def execAtomicResp (r : MemResp) (s : State) : Res :=
  .next (s.atSlot r .atomic fun y s => s.answered r.dstFeng r.tag y 0 r.data)

/-- FLUSH_RESP (R169). -/
def execFlushResp (r : MemResp) (plane : PortId) (s : State) : Res :=
  .next (s.atSlot r .flush fun y s => s.markerAnswered r.dstFeng r.tag plane.val 0 y)

/-- INVALIDATE_RESP (R175). -/
def execInvalidateResp (r : MemResp) (s : State) : Res :=
  .next (s.atSlot r .invalidate fun y s => s.answered r.dstFeng r.tag y r.status (bytesOfNat 8 r.detail.toNat))

/-- INV_ACK (R175): with the last one the pass ends. -/
def execInvAck (page node : Nat) (s : State) : Res :=
  let s := s.setTier { s.tier with passes := s.tier.passes.map fun x =>
    if x.page = page then { x with awaited := x.awaited.filter (· ≠ node) } else x }
  .next (s.endPasses s.passCount)

/-- NAK (R169): of a plain store, recorded against its target; otherwise it completes the request or answers a marker. -/
def execNak (r : MemResp) (plane : PortId) (s : State) : Res :=
  let e := r.dstFeng
  .next (
    if r.plain then s.recordNak e (r.detail.toNat / 2 ^ 52) (r.detail.toNat / 2 ^ 47 % 32) r.status
    else
      match s.reqSlot e r.tag with
      | none => s.lateResp e r.tag
      | some y => if y.kind = .flush then s.markerAnswered e r.tag plane.val r.status y else s.answered e r.tag y r.status [])

/-- REQUEST_TIMEOUT (R154, R169): no response within RESP_TIMEOUT. -/
def execRequestTimeout (e : EngId) (tag : Fin 512) (s : State) : Res :=
  .next (match s.reqSlot e tag.val with
    | none => s
    | some y =>
      if y.issued + s.fld (.feng e) Reg.FENG_CTRL_RESP_TIMEOUT_US * 1000 ≤ s.now then
        if y.kind = .flush ∧ s.flag (.feng e) Reg.FENG_STAT_PATH_LOST then s.complete e tag.val 0x13 []
        else s.complete e tag.val 0x11 []
      else s)

/-- INV_TIMEOUT (R175): a node has not acknowledged within 1 ms. -/
def execInvTimeout (page : Nat) (s : State) : Res :=
  .next (match s.tier.passes.find? (fun x => x.page = page) with
    | none => s
    | some x =>
      if x.start + 1000000 ≤ s.now then
        match x.awaited with
        | n :: _ => let s := s.endPass x 0x0F n; s.endPasses s.passCount
        | [] => s
      else s)

/-- REGION_FLUSH (R178): partition p's lines fetched under a key go. -/
def execRegionFlush (p : PartId) (key : Word) (s : State) : Res :=
  .next { s with rrc := s.rrc.filter fun l => !(l.part == p && l.key == key) }

end Sys2Proof.Machine
end

