-- ==== Sys2Proof/Machine/Pcie.lean ====
section
/-! DEFINITION. The PCIe interface and the DEV page: BAR2, MSI-X, SR-IOV, link and AER events, the node number (R374 to
R396). -/

namespace Sys2Proof.Machine
open Sys2Proof

/-- The device runs in recovery mode (R357, R392). -/
def State.recovery (s : State) : Bool := s.flag .wlh Reg.WLH_STAT_RECOVERY

/-- Tenant n is served through its VF (R376). -/
def State.asVf (s : State) (n : TenId) : Bool :=
  s.flag .pcie Reg.PCIE_SRIOV_VF_EN && decide (n.val < s.fld .pcie Reg.PCIE_SRIOV_NUM_VF)

/-- BAR2 is present for the function: normal mode, and 2 × x8 mode for link 1's (R374, R378). -/
def State.bar2On (s : State) (fn1 : Bool) : Bool :=
  !s.recovery && (!fn1 || s.flag .pcie Reg.PCIE_LINK_BIFURCATED)

/-- The State Space offset of BAR2 offset x (R388). -/
def State.bar2Off (s : State) (fn1 : Bool) (x : Nat) : Nat :=
  s.fld .pcie (if fn1 then Reg.PCIE_BAR2_WIN1_WIN else Reg.PCIE_BAR2_WIN0_WIN) * 2 ^ 36 + x % 2 ^ 36

/-- The aligned 256-byte pieces of n bytes from an offset (R389): offset and length. -/
def blocks256 (off n : Nat) : List (Nat × Nat) :=
  if n = 0 then []
  else (List.range ((off + n - 1) / 256 - off / 256 + 1)).map fun i =>
    let lo := max off ((off / 256 + i) * 256)
    (lo, min (off + n) ((off / 256 + i + 1) * 256) - lo)

/-- A piece of a BAR2 read is held under its ticket. -/
def State.bar2Held (s : State) (ticket off len : Nat) : Bool :=
  (blocks256 off len).any fun b =>
    (s.heldOn (pageOf b.1) ++ s.stalledOn (pageOf b.1)).any fun h => decide (h.ticket = ticket ∧ h.write = none)

/-- BAR2_READ: a read TLP, served in aligned 256-byte pieces (R389); those that are held carry its ticket (R390).
Without BAR2, Unsupported Request. -/
def execBar2Read (fn1 : Bool) (x len : Nat) (s : State) : Res :=
  .next (
    if s.bar2On fn1 then
      let off := s.bar2Off fn1 x
      let n := s.tier.nextTicket + 1
      let s := (s.count .pcie 0x80).setTier { s.tier with nextTicket := n }
      let t := s.each (blocks256 off len) fun s b => s.tierRead .host b.1 b.2 n
      if t.bar2Held n off len then { t with pcie := { t.pcie with held := t.pcie.held ++ [(n, s.now, off, len)] } } else t
    else s.send (.bar2Cpl 1 []))

/-- The runs of enabled bytes of a block: offset and bytes. -/
def enabledRuns (off : Nat) : List (Option Byte) → List (Nat × List Byte)
  | [] => []
  | none :: t => enabledRuns (off + 1) t
  | some b :: t =>
    match enabledRuns (off + 1) t with
    | (o, l) :: r => if o = off + 1 then (off, b :: l) :: r else (off, [b]) :: (o, l) :: r
    | [] => [(off, [b])]

/-- BAR2_WRITE: a write TLP, one access for each aligned 256-byte block, byte enables honoured (R389). -/
def execBar2Write (fn1 : Bool) (x : Nat) (data : List (Option Byte)) (s : State) : Res :=
  let off := s.bar2Off fn1 x
  .next (
    if s.bar2On fn1 then
      (s.count .pcie 0x88).each (blocks256 off data.length) fun s b =>
        s.each (enabledRuns b.1 ((data.drop (b.1 - off)).take b.2)) fun s r => s.tierWrite .host r.1 r.2
    else s)

/-- BAR2_ATOMIC_OP: Unsupported Request (R389). -/
def execBar2AtomicOp (_fn1 : Bool) (_x : Nat) (s : State) : Res := .next (s.send (.bar2Cpl 1 []))

/-- BAR2_HOLD_TIMEOUT: a BAR2 read still held HOLD_LIMIT_US after it arrived completes with Completer Abort and is
dropped (R390). -/
def execBar2HoldTimeout (ticket : Nat) (s : State) : Res :=
  .next (
    match s.pcie.held.find? (fun h => h.1 = ticket) with
    | some (_, t0, off, len) =>
      if s.bar2Held ticket off len ∧ ticket ≠ 0 ∧ t0 + s.fld .pcie Reg.PCIE_BAR2_CTRL_HOLD_LIMIT_US * 1000 ≤ s.now then
        let s := s.each (blocks256 off len) fun s b =>
          s.unhold (pageOf b.1) fun h => h.ticket != ticket
        let s := { s with pcie := { s.pcie with held := s.pcie.held.filter fun h => h.1 ≠ ticket } }
        (((s.send (.bar2Cpl 4 [])).count .pcie 0x90).err .pcie 0x03).irq .pcie 1
      else s
    | none => s)

/-- PCIE_LINK_CHANGE: a link changes state (R396, Tables 17-8, 17-9). -/
def execPcieLinkChange (link1 : Bool) (gen width : Nat) (flit toLowPower : Bool) (s : State) : Res :=
  let before := s.word (Page.base .pcie + 0x100)
  let s :=
    if link1 then
      if s.flag .pcie Reg.PCIE_LINK_BIFURCATED then s.setFld .pcie Reg.PCIE_LINK_LINK1_UP (decide (gen ≠ 0)).toNat else s
    else
      let s := if s.fld .pcie Reg.PCIE_LINK_GEN ≠ 0 ∧ ¬ toLowPower then s.count .pcie 0xB8 else s
      if toLowPower then s
      else
        let s := (s.setFld .pcie Reg.PCIE_LINK_GEN gen).setFld .pcie Reg.PCIE_LINK_WIDTH width
        s.setFld .pcie Reg.PCIE_LINK_FLIT flit.toNat
  .next (if s.word (Page.base .pcie + 0x100) = before then s else s.irq .pcie 0)

/-- AER_ERROR_LOGGED (R396, Table 17-9). -/
def execAerErrorLogged (correctable : Bool) (s : State) : Res :=
  .next ((s.count .pcie (if correctable then 0xC0 else 0xC8)).irq .pcie 2)

/-- Unmask a PF vector; a pending message is sent (R385). -/
def State.unmaskPf (s : State) (v : Nat) : State :=
  let s := { s.setWord (0x400000 + 16 * v + 12) 0 with pcie := { s.pcie with unmasked := v :: s.pcie.unmasked.filter (· ≠ v) } }
  if v ∈ s.pcie.pend then { s with pcie := { s.pcie with pend := s.pcie.pend.filter (· ≠ v) } }.pfVector v else s

/-- MSIX_VECTOR_UNMASK: a vector of the PF, or one of the two of a VF (R385, R391). -/
def execMsixVectorUnmask (vf : Option TenId) (vec : Fin 256) (s : State) : Res :=
  .next (match vf with
    | none => s.unmaskPf vec.val
    | some n =>
      let k := n.val * 2 + vec.val
      if vec.val < 2 then
        let s := { s with pcie := { s.pcie with vfUnmasked := k :: s.pcie.vfUnmasked.filter (· ≠ k) } }
        if k ∈ s.pcie.vfPend then
          { s with pcie := { s.pcie with vfPend := s.pcie.vfPend.filter (· ≠ k) } }.vfVector n vec.val
        else s
      else s)

/-- VF_ENABLE_WRITE: VF Enable and NumVFs, 0 to 64, as the host writes them (R375, R376). -/
def execVfEnableWrite (numVfs : Nat) (enable : Bool) (s : State) : Res :=
  .next (
    if numVfs ≤ 64 ∧ ¬ s.recovery then
      (s.setFld .pcie Reg.PCIE_SRIOV_NUM_VF numVfs).setFld .pcie Reg.PCIE_SRIOV_VF_EN enable.toNat
    else s)

/-- A port has LINK_UP set. -/
def State.anyLink (s : State) : Bool := allPorts.any fun n => s.flag (.port n) Reg.PORT_STAT_LINK_UP

/-- DEV_NODE_WRITE (R394): locked, WR_LOCKED; changing NODE or clearing VALID with a link up, NODE_BUSY. -/
def execDevNodeWrite (v : Word) (s : State) : Res :=
  let node := bits v.toNat 0 12
  let valid := bits v.toNat 31 1
  .next (s.ifReady .dev fun s =>
    if s.locked .dev then s.err .dev 0xF0
    else if s.anyLink ∧ (node ≠ s.node ∨ (valid = 0 ∧ s.flag .dev Reg.DEV_NODE_VALID)) then s.err .dev 0x01
    else (s.setFld .dev Reg.DEV_NODE_NODE node).setFld .dev Reg.DEV_NODE_VALID valid)

end Sys2Proof.Machine
end

