-- ==== Sys2Proof/Machine/Requests.lean ====
section
/-! DEFINITION. Open requests, conversations and Completion Records (R22 to R24, R287 to R293). -/

namespace Sys2Proof.Machine
open Sys2Proof

/-- Fields of a Request Descriptor (Table 12-3). -/
def dOp (d : BitVec 1024) : Nat := BV d 0 3
def dCont (d : BitVec 1024) : Bool := BV d 3 1 != 0
def dDefer (d : BitVec 1024) : Bool := BV d 4 1 != 0
def dSpec (d : BitVec 1024) : Bool := BV d 5 1 != 0
def dNoPrefix (d : BitVec 1024) : Bool := BV d 6 1 != 0
def dPri (d : BitVec 1024) : Nat := BV d 8 2
def dClass (d : BitVec 1024) : Nat := BV d 12 4
def dModel (d : BitVec 1024) : Nat := BV d 16 4
def dDraft (d : BitVec 1024) : Nat := BV d 20 4
def dDepth (d : BitVec 1024) : Nat := BV d 24 4
def dShard (d : BitVec 1024) : Nat := BV d 28 2
def dTag (d : BitVec 1024) : Nat := BV d 32 26
def dConv (d : BitVec 1024) : Nat := BV d 64 32
def dPromptLen (d : BitVec 1024) : Nat := BV d 96 32
def dMaxNew (d : BitVec 1024) : Nat := BV d 192 32
def dAdapter (d : BitVec 1024) : Nat := BV d 224 16
def dStopN (d : BitVec 1024) : Nat := BV d 240 3
def dSeed (d : BitVec 1024) : Nat := BV d 256 64
def dTemp (d : BitVec 1024) : Word := BitVec.ofNat 32 (BV d 320 32)
def dTopP (d : BitVec 1024) : Word := BitVec.ofNat 32 (BV d 352 32)
def dMinP (d : BitVec 1024) : Word := BitVec.ofNat 32 (BV d 384 32)
def dTopK (d : BitVec 1024) : Nat := BV d 416 13
def dNamespace (d : BitVec 1024) : Nat := BV d 512 128
def dModelKey (d : BitVec 1024) : Nat := BV d 640 32

/-- The tokens of a request's prompt, PROMPT_LEN at most (Table 12-3). -/
def Req.promptTokens (r : Req) : List Nat := r.prompt.take (dPromptLen r.desc)
def dHandleAddr (d : BitVec 1024) : Nat := BV d 704 64
def dHandle (d : BitVec 1024) : BitVec 256 := BitVec.ofNat 256 (BV d 768 256)

/-- REQ_ID: tenant × 2²⁶ + TAG (R288). -/
def reqIdOf (n : TenId) (tag : Nat) : Nat := n.val * 2 ^ 26 + tag % 2 ^ 26

/-- The tenant of a REQ_ID. -/
def tenantOf (reqId : Nat) : TenId := Fin.ofNat 64 (reqId / 2 ^ 26)

/-- The open request of a REQ_ID. -/
def State.req (s : State) (id : Nat) : Option Req := s.reqs.find? fun r => r.reqId = id

def State.updReq (s : State) (id : Nat) (f : Req → Req) : State :=
  { s with reqs := s.reqs.map fun r => if r.reqId = id then f r else r }

def State.dropReq (s : State) (id : Nat) : State := { s with reqs := s.reqs.filter fun r => r.reqId ≠ id }

/-- A tenant's conversation. -/
def State.conv (s : State) (n : TenId) (c : Nat) : Option Conv := s.convs.find? fun v => v.tenant = n ∧ v.convId = c

/-- The conversation under whose REQ_ID pages were placed or parked. -/
def State.convOfReq (s : State) (id : Nat) : Option Conv :=
  match s.req id with
  | some r => s.conv r.tenant (dConv r.desc)
  | none => s.convs.find? fun v => v.reqId = id

def State.dropConv (s : State) (n : TenId) (c : Nat) : State :=
  { s with convs := s.convs.filter fun v => !(v.tenant == n && v.convId == c) }

def State.setConv (s : State) (v : Conv) : State :=
  { s with convs := s.convs.filter (fun u => !(u.tenant == v.tenant && u.convId == v.convId)) ++ [v] }

def State.updConv (s : State) (n : TenId) (c : Nat) (f : Conv → Conv) : State :=
  { s with convs := s.convs.map fun v => if v.tenant = n ∧ v.convId = c then f v else v }

/-- A tenant is bound to partition p's Weir (Table 12-8). -/
def State.bound (s : State) (p : PartId) (n : TenId) : Bool :=
  if n.val < 32 then bit (s.fld (.admt p) Reg.ADMT_BIND_LO_TEN) n.val
  else bit (s.fld (.admt p) Reg.ADMT_BIND_HI_TEN) (n.val - 32)

/-- The Weir that serves a tenant (R287). -/
def State.weirOf (s : State) (n : TenId) : Option PartId := allParts.find? fun p => !s.fenced p && s.bound p n

/-- A record joins the tenant's waiting records, in the order in which they are produced (R286). -/
def State.pushRec (s : State) (n : TenId) (c : CplRec) : State :=
  let t := s.ten n
  s.setTen n { t with waiting := t.waiting ++ [c] }

/-- A record of a request with its progress fields (R293); a device of a shard set other than SHARD 0 gives no tokens
(R291). -/
def recOf (r : Req) (status detail : Nat) (final : Bool) : CplRec :=
  { reqId := r.reqId, convId := dConv r.desc, status := status, final := final, notice := false, handle := false,
    fallback := r.fallback, detail := detail, tokens := if dShard r.desc = 0 then r.tokens else 0, pages := r.pages, layers := r.layers, qpos := 0,
    whenNs := 0 }

/-- Queue the final record of an ending request once all its tokens are placed (R23). -/
def State.settleReq (s : State) (id : Nat) (handle : Bool := false) : State :=
  match s.req id with
  | none => s
  | some r =>
    match r.endStatus with
    | none => s
    | some (status, detail) =>
      if r.recorded ∨ r.outBuf ≠ [] then s
      else (s.pushRec r.tenant { recOf r status detail true with handle := handle }).updReq id
        fun r => { r with recorded := true }

/-- A request ends with a status and detail; the first end decides (R22, R24). -/
def State.endReq (s : State) (id status detail : Nat) (handle : Bool := false) : State :=
  match s.req id with
  | none => s
  | some r =>
    if r.endStatus.isSome then s
    else
      let s := s.updReq id fun r => { r with st := .ending, endStatus := some (status, detail) }
      let s := match r.st with
        | .running | .resuming | .opening =>
          s.updConv r.tenant (dConv r.desc) fun v => { v with idleFrom := s.now }
        | _ => s
      s.settleReq id handle

/-- A refusal or another record of a descriptor that opens no request (Spillway, R22, R295). -/
def State.spill (s : State) (n : TenId) (d : BitVec 1024) (status detail : Nat) : State :=
  s.pushRec n { reqId := reqIdOf n (dTag d), convId := dConv d, status := status, final := true, notice := false,
                handle := false, fallback := false, detail := detail, tokens := 0, pages := 0, layers := 0, qpos := 0,
                whenNs := 0 }

/-- Add to or take from PAGE_RESV (R295, R296). -/
def State.reserve (s : State) (p : PartId) (n : Nat) : State :=
  s.setFld (.admt p) Reg.ADMT_PAGE_RESV_RESV ((s.fld (.admt p) Reg.ADMT_PAGE_RESV_RESV + n) % 2 ^ 24)

def State.unreserve (s : State) (p : PartId) (n : Nat) : State :=
  s.setFld (.admt p) Reg.ADMT_PAGE_RESV_RESV (s.fld (.admt p) Reg.ADMT_PAGE_RESV_RESV - n)

/-- Close a conversation, its reservation released (R296). -/
def State.closeConv (s : State) (v : Conv) : State :=
  (if v.st = .resident then s.unreserve v.part v.need else s).dropConv v.tenant v.convId

/-- The ADMT_KV range of DISP slot k of partition p: first offset, pages (R296). -/
def State.slotRange (s : State) (p : PartId) (k : Nat) : Nat × Nat :=
  let n := s.fld (.admt p) Reg.ADMT_KV_SLOT_PAGES
  (s.fldAddr (.admt p) Reg.ADMT_KV_BASE_LO_BASE_LO Reg.ADMT_KV_BASE_HI_BASE_HI + k * n * 65536, n)

/-- Role in force, stable and not fenced. -/
def State.stableRole (s : State) (p : PartId) (role : Nat) : Bool :=
  s.fld (.disp p) Reg.DISP_ROLE_CUR == role && s.fld (.disp p) Reg.DISP_ROLE_STATE == 0 && !s.fenced p

/-- The request's conversation has left its Generation partition (R219). -/
def State.convParked (s : State) (r : Req) : Bool := (s.conv r.tenant (dConv r.desc)).any fun v => v.st == .parked

/-- Requests a partition holds: prefilling there, or served there (DISP_ROLE.HELD). -/
def State.heldReqs (s : State) (p : PartId) : List Req :=
  s.reqs.filter fun r => !r.recorded && decide (r.st ≠ .deferred) && !(r.st == .parking && s.convParked r) &&
    (decide (r.genPart = some p) || decide (r.promptPart = some p))

/-- A partition of a role drains in EVICT mode (R21). -/
def State.draining (s : State) (p : PartId) (role : Nat) : Bool :=
  s.fld (.disp p) Reg.DISP_ROLE_STATE == 1 && s.flag (.disp p) Reg.DISP_ROLE_DRAIN_MODE && s.fld (.disp p) Reg.DISP_ROLE_CUR == role

/-- A Generation partition drains in EVICT mode: its decodes are paused (R21). -/
def State.evicting (s : State) (p : PartId) : Bool := s.draining p 2

/-- A decode of a conversation runs, or is about to, on a Generation partition: one that an EVICT drain pauses (R21). -/
def State.evictable (s : State) (p : PartId) (v : Conv) : Bool :=
  s.reqs.any fun r => r.tenant == v.tenant && dConv r.desc == v.convId && r.genPart == some p &&
    (r.st == .running || r.st == .opening)

/-- Write host memory for a tenant with its Requester ID (R376). -/
def State.hostWr (s : State) (n : TenId) (addr : Nat) (data : List Byte) : State :=
  s.send (.hostWrite n (s.asVf n) (addr % 2 ^ 64) data)

end Sys2Proof.Machine
end

