-- ==== Sys2Proof/Machine/Tier.lean ====
section
/-! DEFINITION. The commands of the tier controller and the memory instances (R120 to R148, R349, R415). -/

namespace Sys2Proof.Machine
open Sys2Proof

/-- Apply one operation of R141 to a page: the state after it, `none` where the page cannot be applied, and true where
it waits for a migration slot or the zero fill of the page. An IN_TRANSIT page takes it after its commit or abort (R138). -/
def State.tierOp (s : State) (page op arg : Nat) : Option (Bool × State) :=
  let l := s.leaf page
  let move := fun (l : Leaf) (s : State) =>
    match l.st with
    | .resident t =>
      if t = tierOf (arg - 1) then some (false, s)
      else if ¬ s.migRoom ∨ page ∈ s.tier.filling then some (true, s)
      else match s.startMove page (tierOf (arg - 1)) with
        | (true, s) => some (false, s)
        | (false, _) => none
    | _ => some (false, s)
  if l.st = .inTransit then
    some (false, s.updMig page fun m => { m with later := m.later ++ [(op, arg)] })
  else
    match op with
    | 0 =>
      match move l s with
      | some (false, t) => some (false, t.setLeaf page { t.leaf page with pin := Fin.ofNat 4 arg })
      | r => r
    | 1 => some (false, s.setLeaf page { l with pin := 0 })
    | 2 => some (false, s.setLeaf page { l with hint := Fin.ofNat 4 arg })
    | 3 => if l.st = .remote then none else move l s
    | _ => if l.st = .remote then none else some (false, s.freePage page)

/-- Run a command's pages in increasing order (R141) until one waits, cannot be applied, or none is left. -/
def State.tierCmdPages (s : State) (c : TierCmd) : Nat → State
  | 0 => s.setTier { s.tier with cmd := some { c with done := c.count, result := 0 } }
  | n + 1 =>
    let done := c.count - (n + 1)
    match s.tierOp ((c.first + done) % 2 ^ 31) c.op c.arg with
    | none => s.setTier { s.tier with cmd := some { c with done := done, result := if done = 0 then 2 else 1 } }
    | some (true, s) => s.setTier { s.tier with cmd := some { c with done := done, result := 3 } }
    | some (false, s) => s.tierCmdPages c n

/-- Go on with a command that waited for a migration slot (R137). -/
def State.tierCmdGo (s : State) : State :=
  match s.tier.cmd with
  | some c => if c.result = 3 then s.tierCmdPages c (c.count - c.done) else s
  | none => s

/-- Start the pulls and the replacements that waited for a slot (R137, R191); a pull that finds no frame is refused (R140). -/
def State.retryPulls (s : State) : State :=
  s.each (s.tier.held.map (·.1)) fun s page =>
    if (s.leaf page).st = .remote then
      match s.startPull page with
      | (none, s) => s.refuseAll page
      | (some _, s) => s
    else if (s.leaf page).st = .poisoned ∧ s.migRoom then s.release page
    else s

/-- Pages of a zone resident in a tier. -/
def State.zoneUse (s : State) (z : PartId) (t : TierName) : Nat :=
  (s.tier.pages.filter fun e => zoneOf e.1 = z ∧ e.2.st = .resident t).length

/-- A zone's watermarks in frames (Table 06-11). -/
def State.zoneHigh (s : State) (z : PartId) : TierName → Nat
  | .shallows => s.fld .tier Reg.TIER_ZONE_SHL_HIGH z.val
  | .basin => s.fld .tier Reg.TIER_ZONE_BAS_HIGH z.val * 1024
  | .deep => 0

def State.zoneLow (s : State) (z : PartId) : TierName → Nat
  | .shallows => s.fld .tier Reg.TIER_ZONE_SHL_LOW z.val
  | .basin => s.fld .tier Reg.TIER_ZONE_BAS_LOW z.val * 1024
  | .deep => 0

/-- Start a move, which waits where all 256 migration slots are busy (R137): `hw` 0: by command, 1: a promotion, 2: a
demotion by hardware policy (R139). False: it does not start and does not wait. -/
def State.moveOrWait (s : State) (page : Nat) (dst : TierName) (hw : Nat) : Bool × State :=
  if s.migRoom then
    match s.startMove page dst with
    | (true, s) => (true, s.updMig page fun m => { m with hw := hw })
    | r => r
  else
    match (s.leaf page).st with
    | .resident t =>
      if t = dst ∨ page ∈ s.tier.filling ∨ s.tier.waitMigs.any (fun w => w.page = page) then (false, s)
      else (true, s.setTier { s.tier with waitMigs := s.tier.waitMigs ++ [{ page := page, dst := dst, hw := hw }] })
    | _ => (false, s)

/-- A waiting move by hardware policy is still wanted when a slot frees (R138, Table 06-9). -/
def State.stillWanted (s : State) (w : WaitMig) : Bool :=
  let l := s.leaf w.page
  let z := zoneOf w.page
  if w.hw = 0 then true
  else if w.hw = 1 then decide (l.pin = 0) && decide (s.zoneUse z w.dst < s.zoneHigh z w.dst)
  else
    match l.st with
    | .resident t => decide (l.pin = 0) && decide (s.zoneLow z t < s.zoneUse z t)
    | _ => false

/-- Start the moves that waited for a slot, in the order they came (R137). -/
def State.waitMigsGo (s : State) : List WaitMig → State
  | [] => s.setTier { s.tier with waitMigs := [] }
  | w :: l =>
    if s.migRoom then (if s.stillWanted w then (s.moveOrWait w.page w.dst w.hw).2 else s).waitMigsGo l
    else s.setTier { s.tier with waitMigs := w :: l }

/-- Order of demotion (Table 06-9): class COLD, NONE, WARM, HOT, then highest AGE, then lowest offset. -/
def demoteKey (page : Nat) (l : Leaf) : Nat :=
  let c := match l.hint.val with
    | 3 => 0 | 0 => 1 | 2 => 2 | _ => 3
  (c * 4 + (3 - l.age)) * 2 ^ 31 + page

/-- Put a number in its place in a rising list. -/
def insertNat (x : Nat) : List Nat → List Nat
  | [] => [x]
  | y :: t => if x ≤ y then x :: y :: t else y :: insertNat x t

/-- The pages a demotion of a zone's tier may take, in order. -/
def State.demotable (s : State) (z : PartId) (t : TierName) : List Nat :=
  ((s.tier.pages.filter fun e =>
      decide (zoneOf e.1 = z) && decide (e.2.st = .resident t) && decide (e.2.pin = 0) &&
        !(decide (t = .basin) && decide (e.2.hint = 2)) && !(s.tier.filling.contains e.1)).foldl (fun l e => insertNat (demoteKey e.1 e.2) l) []).map
    (· % 2 ^ 31)

/-- A demotion of a zone's tier is under way (Table 06-9). -/
def demoteMark (z : PartId) (t : TierName) : Nat := z.val * 4 + tierIdx t

/-- A demotion of a zone's tier has ended. -/
def State.demoteEnd (s : State) (z : PartId) (t : TierName) : State :=
  s.setTier { s.tier with demoting := s.tier.demoting.filter (· ≠ demoteMark z t) }

/-- Demote pages in order until the zone reaches LOW; a page that finds no frame below ends it (Table 06-9). Busy migration
slots only delay it (R137). -/
def State.demote (s : State) (z : PartId) (t : TierName) : List Nat → State
  | [] => s.demoteEnd z t
  | p :: ps =>
    if s.zoneUse z t ≤ s.zoneLow z t then s.demoteEnd z t
    else if ¬ s.migRoom then s
    else
      match s.moveOrWait p (tierOf (tierIdx t + 1)) 2 with
      | (true, s) => s.demote z t ps
      | (false, s) => (s.count .tier 0xA8).demoteEnd z t

/-- Demotions under way go on, the lowest zone first (R137, Table 06-9). -/
def State.demoteGo (s : State) : State :=
  s.each (allParts.flatMap fun z => [(z, TierName.shallows), (z, TierName.basin)]) fun s x =>
    if s.tier.demoting.contains (demoteMark x.1 x.2) ∧ s.flag .tier Reg.TIER_POLICY_HW_EN then
      s.demote x.1 x.2 (s.demotable x.1 x.2)
    else s

/-- A page leaves IN_TRANSIT: its migration slot is freed, held accesses are released, held operations applied, and what
waited for a slot goes on (R137, R138). -/
def State.settle (s : State) (page : Nat) (m : Mig) : State :=
  let s := (s.dropMig page).release page
  let s := s.each m.later fun s o =>
    match s.tierOp page o.1 o.2 with
    | some (_, t) => t
    | none => s
  let s := s.retryPulls.tierCmdGo
  (s.waitMigsGo s.tier.waitMigs).demoteGo

/-- Commit a move (R137): the entry names the destination, the source is freed, held accesses go on. A pull or a REPLACE
commits only with the whole page placed (R191, R222). -/
def State.commitMig (s : State) (page : Nat) (m : Mig) : State :=
  let l := s.leaf page
  let home : Leaf := { l with st := .resident m.dstTier, frame := m.dstFrame, frameTier := m.dstTier }
  match m.kind with
  | .localMove =>
    let s := s.freeHome page m.prev
    let s := s.setLeaf page { home with side := m.prev.side, sideSlot := m.dstSide }
    let s := if m.hw = 1 then s.count .tier 0x98 else if m.hw = 2 then s.count .tier 0xA0 else s
    s.settle page m
  | .park => s
  | _ =>
    if m.bytes < 65536 then s
    else
      let s := match m.prev.st with
        | .resident _ => s.freeHome page m.prev
        | .poisoned => s.freeHome page m.prev
        | _ => s
      let s := { s with mem := m.staged.foldl (fun (mem : Memory) (c : Nat × Byte) => Map.set 0 mem c.1 c.2)
                                (Map.clear s.mem (page * 65536) 65536),
                          digs := if m.kind = MigKind.replace then s.digDirty (page * 65536) 65536 else s.digs }
      let s := (s.setLeaf page { home with side := m.sided, sideSlot := m.dstSide }).settle page m
      match m.owner with
      | some (q, _) => s.qpPage q page none
      | none => s

/-- A move that ends without its destination: the destination is freed and the entry is that of before, with the PIN and
HINT it has now (Table 06-8). -/
def State.leaveTransit (s : State) (page : Nat) (m : Mig) : State :=
  let s := if m.kind = .park then s else s.useFrame m.dstTier m.dstFrame false
  let s := if m.sided then s.useSide m.dstTier (zoneOf page) m.dstSide false else s
  let l := s.leaf page
  s.setLeaf page { m.prev with pin := l.pin, hint := l.hint }

/-- Abort a move (R138): the destination is freed and the page returns to its state before. Held accesses of a local move
go to the restored home; those of a pull or a replacement end with the failed one's status. -/
def State.abortMig (s : State) (page : Nat) (m : Mig) (code : Nat) : State :=
  let s := s.count .tier 0xB0
  let s := s.leaveTransit page m
  let s := if m.kind = .pull ∨ m.kind = .replace then s.failHeld page code else s
  let s := s.settle page m
  match m.owner with
  | some (q, _) => s.qpPage q page (some code)
  | none => s

/-- A page is POISONED for another reason than its memory (Table 06-8): a move of it ends first. -/
def State.poisonAny (s : State) (page : Nat) : State :=
  match s.mig page with
  | some m => ((s.leaveTransit page m).poison page).settle page m
  | none => s.poison page

/-- TIER_READ: bytes of the State Space are read (R130), page by page. -/
def execTierRead (src : Accessor) (offset len : Nat) (s : State) : Res :=
  let off := offset % 2 ^ 47
  .next (if len = 0 then s else s.each (pagesOf off len) fun s p =>
    let x := pieceIn off (List.replicate len 0) p
    s.tierRead src x.1 x.2.length 0)

/-- TIER_WRITE: bytes of the State Space are written (R130), page by page. -/
def execTierWrite (src : Accessor) (offset : Nat) (data : List Byte) (s : State) : Res :=
  let off := offset % 2 ^ 47
  .next (if data.isEmpty then s else s.each (pagesOf off data.length) fun s p =>
    let x := pieceIn off data p
    s.tierWrite src x.1 x.2)

/-- ZERO_FILL_COMPLETE: the new frame is all zeros and the held first write is applied (R133). -/
def execZeroFillComplete (page : Nat) (s : State) : Res :=
  .next (
    if page ∈ s.tier.filling then
      let s := { s with mem := Map.clear s.mem (page * 65536) 65536 }
      (s.setTier { s.tier with filling := s.tier.filling.filter (· ≠ page) }).release page |>.tierCmdGo
    else s)

/-- MEM_UNCORRECTABLE_ERROR: the home or local transit source of a page fails (Table 06-8, R148). -/
def execMemUncorrectableError (page : Nat) (s : State) : Res :=
  let l := s.leaf page
  let lose := fun (s : State) (l : Leaf) =>
    let pg := instOf l.frameTier l.frame
    let s := (s.count pg 0x88).setFld pg (memErrFrame pg) l.frame
    let s := (s.retireFrame l.frameTier l.frame).poison page
    let syn := List.flatten [[0x06, 0, 0, 0], bytesOfNat 4 l.frame, bytesOfNat 8 (page * 65536), s.freeBytes 2]
    s.record pg { severity := 2, syn := syn }
  .next (
    match l.st with
    | .resident _ =>
      let t := lose s l
      if page ∈ s.tier.filling then
        (t.setTier { t.tier with filling := t.tier.filling.filter (· ≠ page) }).release page
      else t
    | .inTransit =>
      match s.mig page with
      | some m =>
        match m.prev.st with
        | .resident _ => (lose (s.leaveTransit page m) m.prev).settle page m
        | _ => s
      | none => s
    | _ => s)

/-- MIGRATION_START: a local move of a RESIDENT page takes its slot, or waits for one (R137). -/
def execMigrationStart (page : Nat) (dst : TierName) (s : State) : Res := .next (s.moveOrWait page dst 0).2

/-- MIGRATION_COMMIT: the copy of a move completes (R137). -/
def execMigrationCommit (page : Nat) (s : State) : Res :=
  .next (match s.mig page with
    | some m => s.commitMig page m
    | none => s)

/-- MIGRATION_TIMEOUT: TIMEOUT_US pass without a commit (R138); a pull's held accesses end with HOLD_TIMEOUT (Table 07-6). -/
def execMigrationTimeout (page : Nat) (s : State) : Res :=
  .next (match s.mig page with
    | some m =>
      if m.start + s.fld .tier Reg.TIER_HOLD_TIMEOUT_US * 1000 ≤ s.now then (s.abortMig page m 0x0E).err .tier 0x06 else s
    | none => s)

/-- TIER_EPOCH_END: promotions, then ages, then a new epoch's counts (R139, Table 06-9). -/
def execTierEpochEnd (s : State) : Res :=
  let counts := s.tier.counts
  let s1 := if s.flag .tier Reg.TIER_POLICY_HW_EN then
      s.each counts fun s e =>
        let l := s.leaf e.1
        let n := (e.2 - 1) * (if l.hint = 1 then 4 else 1)
        let up : Option TierName := match l.st with
          | .resident .basin => some .shallows
          | .resident .deep => some .basin
          | _ => none
        match up with
        | some u =>
          if l.pin = 0 ∧ l.hint ≠ 3 ∧ s.fld .tier Reg.TIER_POLICY_PROMO_COUNT ≤ n ∧
              s.zoneUse (zoneOf e.1) u < s.zoneHigh (zoneOf e.1) u then (s.moveOrWait e.1 u 1).2
          else s
        | none => s
    else s
  let aged := s1.tier.pages.map fun e =>
    match e.2.st with
    | .resident _ => (e.1, { e.2 with age := if Map.get 0 counts e.1 > 1 then 0 else min 3 (e.2.age + 1) })
    | _ => e
  .next (s1.setTier { s1.tier with pages := aged, counts := counts.map fun e => (e.1, 1) })

/-- HW_DEMOTE: a zone is above HIGH in Shallows or Basin, and goes down until it reaches LOW (R139, Table 06-9). -/
def execHwDemote (z : PartId) (t : TierName) (s : State) : Res :=
  .next (
    if s.flag .tier Reg.TIER_POLICY_HW_EN ∧ t ≠ .deep ∧ s.zoneHigh z t < s.zoneUse z t then
      let s := s.setTier { s.tier with demoting := demoteMark z t :: s.tier.demoting.filter (· ≠ demoteMark z t) }
      s.demote z t (s.demotable z t)
    else s)

/-- TIER_CMD with GO (R141): refused with CMD_BUSY while one runs; an ARG that is reserved for the operation is not
written (R11). -/
def State.tierCmd (s : State) (op arg : Nat) : State :=
  s.ifReady .tier fun s =>
    if s.flag .tier Reg.TIER_CMD_BUSY then s.err .tier 0x05
    else
      let bad := arg = 0 ∧ (op = 0 ∨ op = 3)
      let s := if bad then s.rsvEnc .tier else s.setFld .tier Reg.TIER_CMD_ARG arg
      let s := s.setFld .tier Reg.TIER_CMD_OP op
      let arg := s.fld .tier Reg.TIER_CMD_ARG
      if arg = 0 ∧ (op = 0 ∨ op = 3) then s
      else
        let first := s.fldAddr .tier Reg.TIER_CMD_ADDR_LO_ADDR_LO Reg.TIER_CMD_ADDR_HI_ADDR_HI / 65536
        let n := s.fld .tier Reg.TIER_CMD_COUNT_COUNT
        let s := s.setFld .tier Reg.TIER_CMD_BUSY 1
        s.tierCmdPages { op := op, arg := arg, first := first, count := n, done := 0, result := 3 } n

/-- TIER_CMD_PIN (R140, R141). -/
def execTierCmdPin (arg : Fin 4) (s : State) : Res := .next (s.tierCmd 0 arg.val)

/-- TIER_CMD_UNPIN (R141): ARG keeps its value. -/
def execTierCmdUnpin (s : State) : Res := .next (s.tierCmd 1 (s.fld .tier Reg.TIER_CMD_ARG))

/-- TIER_CMD_HINT (R141). -/
def execTierCmdHint (arg : Fin 4) (s : State) : Res := .next (s.tierCmd 2 arg.val)

/-- TIER_CMD_MOVE (R141). -/
def execTierCmdMove (arg : Fin 4) (s : State) : Res := .next (s.tierCmd 3 arg.val)

/-- TIER_CMD_FREE (R141): ARG keeps its value. -/
def execTierCmdFree (s : State) : Res := .next (s.tierCmd 4 (s.fld .tier Reg.TIER_CMD_ARG))

/-- TIER_CMD_DONE: a command that is through ends with its RESULT, DONE and CMD_DONE (R141). -/
def execTierCmdDone (s : State) : Res :=
  .next (match s.tier.cmd with
    | some c =>
      if c.result = 3 then s
      else
        let s := s.setTier { s.tier with cmd := none }
        let s := (s.setFld .tier Reg.TIER_CMD_BUSY 0).setFld .tier Reg.TIER_CMD_RESULT c.result
        (s.setFld .tier Reg.TIER_CMD_DONE_DONE c.done).irq .tier 0
    | none => s)

/-- The commit field of a tier and its capacity field (Tables 06-10, 06-11). -/
def commitFld : TierName → Fld × Fld
  | .shallows => (Reg.TIER_ZONE_COMMIT_SHL, Reg.TIER_CAP0_SHL_CAP)
  | .basin => (Reg.TIER_ZONE_COMMIT_BAS, Reg.TIER_CAP0_BAS_CAP)
  | .deep => (Reg.TIER_ZONE_COMMIT_DEEP, Reg.TIER_CAP1_DEEP_CAP)

/-- Sum of a tier's commits over the zones. -/
def State.commitSum (s : State) (t : TierName) : Nat :=
  allParts.foldl (fun n p => n + s.fld .tier (commitFld t).1 p.val) 0

/-- TIER_STAT.OVER follows the commits (R144). -/
def State.overCommit (s : State) (t : TierName) : State :=
  let isOver := decide (s.fld .tier (commitFld t).2 < s.commitSum t)
  let old := s.fld .tier Reg.TIER_STAT_OVER
  let s := s.setFld .tier Reg.TIER_STAT_OVER (withBits old (tierIdx t) 1 isOver.toNat)
  if isOver && !bit old (tierIdx t) then s.irq .tier 2 else s

/-- Write one commit field (R143). -/
def State.writeCommit (s : State) (z : PartId) (t : TierName) (v : Nat) : State :=
  let old := s.fld .tier (commitFld t).1 z.val
  if v ≤ old ∨ s.commitSum t - old + v ≤ s.fld .tier (commitFld t).2 then
    let s := s.setFld .tier (commitFld t).1 v z.val
    if bit (s.fld .tier Reg.TIER_STAT_OVER) (tierIdx t) then s.overCommit t else s
  else (s.err .tier 0x01).irq .tier 1

/-- Write a pair of watermarks: a LOW above its HIGH is a reserved encoding (Table 06-11, R11). -/
def State.writeMarks (s : State) (z : PartId) (hi lo : Fld) (x : Nat) : State :=
  let h := bits x 0 hi.width
  let l := bits x 16 lo.width
  if h < l then s.rsvEnc .tier else (s.setFld .tier hi h z.val).setFld .tier lo l z.val

/-- TIER_ZONE_WRITE: word w of TIER_ZONE[z] (R143, Table 06-11). -/
def execTierZoneWrite (z : PartId) (w : Fin 4) (v : Word) (s : State) : Res :=
  let x := v.toNat
  .next (s.ifReady .tier fun s =>
    match w with
    | 0 => (s.writeCommit z .shallows (bits x 0 16)).writeCommit z .basin (bits x 16 16)
    | 1 => (s.writeCommit z .deep (bits x 0 16)).swWrite .tier Reg.TIER_ZONE_FIRST_TIER (bits x 16 2) z.val
    | 2 => s.writeMarks z Reg.TIER_ZONE_SHL_HIGH Reg.TIER_ZONE_SHL_LOW x
    | 3 => s.writeMarks z Reg.TIER_ZONE_BAS_HIGH Reg.TIER_ZONE_BAS_LOW x)

/-- The tier holds an allocation (R415). -/
def State.tierUsed (s : State) : Bool :=
  !(s.tier.dirs.isEmpty && s.tier.frames.isEmpty && s.tier.sides.isEmpty)

/-- TIER_LAYOUT_WRITE: TIER_SIDE_CFG or TIER_MAP_CFG (R415). -/
def execTierLayoutWrite (side : Bool) (v : Word) (s : State) : Res :=
  let x := v.toNat
  .next (s.ifReady .tier fun s =>
    if s.locked .tier then s.err .tier 0xF0
    else if s.tierUsed then s.err .tier 0x07
    else if side then
      (s.setFld .tier Reg.TIER_SIDE_CFG_BAS_SIDE (bits x 0 16)).setFld .tier Reg.TIER_SIDE_CFG_DEEP_SIDE (bits x 16 16)
    else
      let m := bits x 0 8
      let s := if m % 2 = 1 ∧ 3 ≤ m then s.setFld .tier Reg.TIER_MAP_CFG_MAP_FRAMES m else s.rsvEnc .tier
      s.setFld .tier Reg.TIER_MAP_CFG_SHL_SIDE_FRAMES (bits x 8 8))

/-- DEEP_CAP from the trained channels and their rates (R121). -/
def State.deepCap (s : State) : Nat :=
  (List.finRange 16).foldl (fun n c =>
    if s.ready (.deep c) then n + s.fld (.deep c) Reg.DEEP_MEM_STAT_RATE else n) 0 * 8 * 85 / 100000

/-- SHL_CAP and BAS_CAP (R121, Table 06-1): 85 % of 16 TB/s for each of the 4 dies, and of 2 TB/s for each of the 8 stacks,
less those whose training failed. An instance still in training counts, as the reset values do (notes/assumptions/54). -/
def State.upperCap (s : State) : TierName → Nat
  | .shallows => 13600 * ((List.finRange 4).filter fun d => !s.flag (.shl d) Reg.PG_READY_FAILED).length
  | .basin => 1700 * ((List.finRange 8).filter fun b => !s.flag (.bas b) Reg.PG_READY_FAILED).length
  | .deep => s.deepCap

/-- A tier's capacity becomes a value, and OVER follows (R121, R144). -/
def State.setCap (s : State) (t : TierName) (cap : Nat) : State :=
  if s.fld .tier (commitFld t).2 = cap then s else (s.setFld .tier (commitFld t).2 cap).overCommit t

/-- A tier's capacity counted again from its trained instances, less what it has lost since (R121, R144). -/
def State.recount (s : State) (t : TierName) : State :=
  s.setCap t (s.upperCap t - Map.get 0 s.tier.capLost (tierIdx t))

/-- The capacity of the tier an instance belongs to is counted again (R121). -/
def State.recap (s : State) (pg : Page) : State :=
  match pg with
  | .shl _ => s.recount .shallows
  | .bas _ => s.recount .basin
  | .deep _ => s.recount .deep
  | _ => s

/-- TIER_CAPACITY_DROP: a tier's capacity falls (R144); what it has lost stays lost when instances are counted again. -/
def execTierCapacityDrop (t : TierName) (cap : Nat) (s : State) : Res :=
  .next (
    if cap < s.fld .tier (commitFld t).2 then
      (s.setTier { s.tier with capLost := Map.set 0 s.tier.capLost (tierIdx t) (s.upperCap t - cap) }).setCap t cap
    else s)

/-- BLOCK_TRAINING_DONE: a block's training or bring-up ends (R349): PG_READY, or FAILED and an error record. The pages
of tiles, partitions and the Wellhead become ready by commands of their own, and TIER needs one Shallows die. -/
def execBlockTrainingDone (pg : Page) (ok : Bool) (dimms rate frames : Nat) (s : State) : Res :=
  .next (
    if s.ready pg || s.flag .wlh Reg.WLH_STAT_RECOVERY then s
    else match pg.kind with
    | .tile => s
    | .disp => s
    | .wlh => s
    | k =>
      if k = .tier ∧ ok ∧ ¬ ((List.finRange 4).any fun d => s.ready (.shl d)) then s
      else if ok then
        let s := (s.setFld pg Reg.PG_READY_READY 1).setFld pg Reg.PG_READY_FAILED 0
        match pg with
        | .bas _ => ((s.setFld pg Reg.BAS_MEM_STAT_ONLINE 1).setFld pg Reg.BAS_MEM_FRAMES_FRAMES 786432).recap pg
        | .shl _ => ((s.setFld pg Reg.SHL_MEM_STAT_ONLINE 1).setFld pg Reg.SHL_MEM_FRAMES_FRAMES 32768).recap pg
        | .deep _ =>
          let s := (s.setFld pg Reg.DEEP_MEM_STAT_ONLINE 1).setFld pg Reg.DEEP_MEM_FRAMES_FRAMES (min frames 2097152)
          ((s.setFld pg Reg.DEEP_MEM_STAT_DIMMS dimms).setFld pg Reg.DEEP_MEM_STAT_RATE rate).recap pg
        | _ => s
      else ((s.setFld pg Reg.PG_READY_FAILED 1).recap pg).record pg { severity := 1 })

/-- PATROL_PASS_DONE: a patrol scrub pass over a memory instance ends (R148, Table 06-16); `corrected`: the errors corrected in
the instance since the pass before, which ECC_CE counts. -/
def execPatrolPassDone (r : PatrolRun) (s : State) : Res :=
  .next (match r.pg with
    | .bas _ => (s.count r.pg 0x80 r.corrected).count r.pg 0x98
    | .shl _ => (s.count r.pg 0x80 r.corrected).count r.pg 0x98
    | .deep _ => (s.count r.pg 0x80 r.corrected).count r.pg 0x98
    | _ => s)

end Sys2Proof.Machine
end

