-- ==== Sys2Proof/Machine/MoverOps.lean ====
section
/-! DEFINITION. The State Mover's operations: triggers, contexts, pool queue pairs, the work requests it posts, layer
commits (R192, R193, R208 to R224). -/

namespace Sys2Proof.Machine
open Sys2Proof

/-- An event of a partition reaches the trigger tables of its two engines (R192, R193). -/
def State.trigEvent (s : State) (p : PartId) (src tag : Nat) : State :=
  let hit := fun (t : Trig) => t.src == src && t.tag == tag
  let any := [engOf p 0, engOf p 1].any fun e => (s.eng e).trigs.any hit
  let s := s.each [engOf p 0, engOf p 1] fun s e =>
    let x := s.eng e
    let n := (x.trigs.filter fun t => hit t && !t.released).length
    (s.setEng e { x with trigs := x.trigs.map fun t => if hit t then { t with released := true } else t }).count
      (.feng e) 0xD0 n
  if any then s else s.count (.feng (engOf p 0)) 0xD8

/-- Move context i of partition p (R211). -/
def State.ctx (s : State) (p : PartId) (i : Nat) : MoveCtx := Map.get {} (s.mover p).ctxs i

def State.setCtx (s : State) (p : PartId) (i : Nat) (c : MoveCtx) : State :=
  let m := s.mover p
  s.setMover p { m with ctxs := Map.set {} m.ctxs i c }

/-- The context a transfer takes: the lowest FREE one, else the lowest that has ended (R211, R225). -/
def State.freeCtx (s : State) (p : PartId) : Option Nat :=
  match lowest 256 (fun i => (s.ctx p i).state == 0) with
  | some i => some i
  | none => lowest 256 fun i => decide (4 ≤ (s.ctx p i).state) && !(s.ctx p i).bound

/-- Contexts of a kind that a request has in a partition. -/
def State.ctxOf (s : State) (p : PartId) (kind reqId : Nat) : Option (Nat × MoveCtx) :=
  (s.mover p).ctxs.find? fun e => e.2.kind == kind && e.2.reqId == reqId && decide (1 ≤ e.2.state)

/-- The pool QPs bound to contexts, as indexes within the partition. -/
def State.boundQps (s : State) (p : PartId) : List Nat :=
  (s.mover p).ctxs.flatMap fun e =>
    if e.2.bound then (List.range (e.2.stripesM1 + 1)).map (e.2.qpFirst + ·) else []

/-- The lowest run of n consecutive free data QPs to a peer, in RTS (R209, R210). -/
def State.findRun (s : State) (p : PartId) (node : Nat) (part : PartId) (n : Nat) : Option Nat :=
  let data := ((s.poolTo p node part).drop 1).map fun q => q.val % 512
  let used := s.boundQps p
  data.find? fun k => (List.range n).all fun i =>
    data.contains (k + i) && !used.contains (k + i) &&
      decide ((s.qp (Fin.ofNat 16384 (512 * p.val + k + i))).st = .rts)

/-- A WR of the mover (Table 08-3). -/
def mkWr (op : Nat) (held place signal : Bool) (trigSrc trigTag fireTag wrId loc rem : Nat) (key : Word)
    (len imm : Nat) : BitVec 512 :=
  BitVec.ofNat 512 (natOfBytes (List.flatten
    [[BitVec.ofNat 8 (op + 16 * held.toNat + 32 * place.toNat + 64 * signal.toNat), BitVec.ofNat 8 trigSrc],
     bytesOfNat 2 trigTag, bytesOfNat 2 fireTag, [0, 0], bytesOfNat 8 wrId, bytesOfNat 8 loc, bytesOfNat 8 rem,
     bytesOfNat 4 key.toNat, [0, 0, 0, 0], bytesOfNat 4 len, bytesOfNat 4 imm]))

/-- A CANCEL of the mover: SPEC_EPOCH and the KV length to keep (Table 08-3, R229). -/
def mkCancel (wrId epoch keep : Nat) : BitVec 512 :=
  mkWr 5 false false false 0 0 0 wrId 0 0 0 0 keep ||| BitVec.ofNat 512 (epoch % 256 * 2 ^ 48)

/-- Entries of a ring in use: pointers modulo 2^(log2 + 1) (Table 08-1, R285). -/
def ringUsed (log2 head tail : Nat) : Nat := (tail + 2 ^ (log2 + 1) - head % 2 ^ (log2 + 1)) % 2 ^ (log2 + 1)

/-- The mover posts WRs that wait, while their send rings have room (R209). -/
def State.postWaiting (s : State) (p : PartId) : List (Nat × BitVec 512) → State
  | [] => s
  | (q, w) :: t =>
    let id : QpId := Fin.ofNat 16384 q
    let x := s.qp id
    if ringUsed x.sqLog2 x.sqHead x.sqTail < 2 ^ x.sqLog2 then
      let s := s.put (x.sqBase + x.sqTail % 2 ^ x.sqLog2 * 64) (BVbytes w)
      (s.setQp id { s.qp id with sqTail := (x.sqTail + 1) % 2 ^ (x.sqLog2 + 1) }).postWaiting p t
    else
      let s := s.postWaiting p t
      let m := s.mover p
      s.setMover p { m with posts := (q, w) :: m.posts }

/-- Post again what waits. -/
def State.repost (s : State) (p : PartId) : State :=
  let m := s.mover p
  (s.setMover p { m with posts := [] }).postWaiting p m.posts

/-- The mover posts WRs in order. -/
def State.post (s : State) (p : PartId) (l : List (Nat × BitVec 512)) : State :=
  let m := s.mover p
  (s.setMover p { m with posts := m.posts ++ l }).repost p

/-- The part of the mover's message area that a pool QP owns (R414). -/
def State.msgArea (s : State) (q : QpId) : Nat :=
  let p := partOfQp q
  s.fldAddr (.move p) Reg.MOVE_MSG_BASE_LO_BASE_LO Reg.MOVE_MSG_BASE_HI_BASE_HI +
    (q.val % 512 - s.fld (.move p) Reg.MOVE_QP_CFG_FIRST) * 2048

/-- WR_ID of the SEND from send buffer k. -/
def msgWrId (k : Nat) : Nat := 2 ^ 40 + k

/-- WR_ID of a CANCEL of the mover. -/
def cancelWrId : Nat := 2 ^ 41

/-- Write each message into a free send buffer of its QP and post its SEND; one without a free buffer waits (R210, R414). -/
def State.mailAll (s : State) (p : PartId) : List (QpId × List Byte) → State
  | [] => s
  | (q, b) :: t =>
    match lowest 16 fun k => !((s.mover p).buffers.contains (q.val, k)) with
    | some k =>
      let at_ := s.msgArea q + k * 64
      let s := s.put at_ b
      let m := s.mover p
      let s := s.setMover p { m with buffers := m.buffers ++ [(q.val, k)] }
      (s.post p [(q.val, mkWr 2 false false false 0 0 0 (msgWrId k) at_ 0 0 64 0)]).mailAll p t
    | none =>
      let m := s.mover p
      (s.setMover p { m with outbox := m.outbox ++ [(q, b)] }).mailAll p t

/-- The mover posts the messages that wait (R210, R414). -/
def State.mail (s : State) (p : PartId) : State :=
  let m := s.mover p
  if m.outbox.isEmpty then s else (s.setMover p { m with outbox := [] }).mailAll p m.outbox

/-- WR_ID of the mover's WRs: the context, layer or run, stripe, and whether it is the trigger of the pair. -/
def moverWrId (ctx layer stripe : Nat) (trigger : Bool) : Nat :=
  ctx + 256 * layer + 2 ^ 24 * stripe + 2 ^ 32 * trigger.toNat

/-- Pages of stripe k (Table 09-3). -/
def stripePages (pages stripes k : Nat) : Nat × Nat := (k * pages / stripes, (k + 1) * pages / stripes)

/-- Pages between layer starts at the peer: PAGES for a park, as granted (R236); otherwise the transfer's STRIDE. -/
def MoveCtx.peerStride (c : MoveCtx) : Nat := if c.kind = 2 ∨ c.kind = 3 then c.pages else c.stride

/-- The WR pairs of a layer on every stripe (Table 09-3), the data and the trigger held or not: held for a push, unheld for a park
(R219); of a push that restarts, what its layer's event and tag have released is not held (R224). -/
def layerWrs (p : PartId) (i : Nat) (c : MoveCtx) (layer : Nat) (heldData heldTrig : Bool) : List (Nat × BitVec 512) :=
  let n := c.stripesM1 + 1
  let tag := c.pass * 256 + layer
  (List.range n).flatMap fun k =>
    let r := stripePages c.pages n k
    let q := 512 * p.val + c.qpFirst + k
    let data := (q, mkWr 0 heldData false false 1 tag 0 (moverWrId i layer k false)
      (c.localBase + (layer * c.stride + r.1) * 65536) (c.remoteBase + (layer * c.peerStride + r.1) * 65536) c.remoteKey
      ((r.2 - r.1) * 65536) 0)
    let trig := (q, mkWr 3 heldTrig false true 4 (0x8000 + tag) (0x8000 + tag) (moverWrId i layer k true)
      (stageOff c.localBase c.layers c.stride c.pages c.sideBytes layer r.1)
      (stageOff c.remoteBase c.layers c.peerStride c.pages c.sideBytes layer r.1) c.remoteKey
      ((r.2 - r.1) * c.sideBytes) layer)
    if r.1 = r.2 then [trig] else [data, trig]

/-- The page number of page i of layer L of a transfer range (R208). -/
def MoveCtx.pageAt (c : MoveCtx) (layer i : Nat) : Nat := c.localBase / 65536 + layer * c.stride + i

/-- Copy a layer's side records into the local stage (R215, R222). -/
def State.gatherSide (s : State) (c : MoveCtx) (layer first n : Nat) : State :=
  if c.sideBytes = 0 then s
  else s.each (List.range n) fun s i =>
    s.put (stageOff c.localBase c.layers c.stride c.pages c.sideBytes layer (first + i))
      (s.rdSide (c.pageAt layer (first + i)) c.sideBytes)

/-- Block columns of a model's KV row, for pages of T tokens (R34: T × R is at most 65,536). -/
def kvCols (model tokens : Nat) : Nat := Config.kvColumns model % (1024 / tokens + 1)

/-- The side record length of T tokens with u block columns (Table 02-3, R208). -/
def sideLen (u tokens : Nat) : Nat := if u = 0 then 0 else (u * (tokens + 4) + 4 * tokens + 63) / 64 * 64

/-- The side record length of a model (R208; no register gives its row, notes/assumptions/20). -/
def sideBytesOf (model tokens : Nat) : Nat := sideLen (kvCols model tokens) tokens

/-- Tokens in a page of a model, as a partition's Weir has it (Table 12-8). -/
def State.modelTokens (s : State) (weir : PartId) (model : Nat) : Nat := 2 ^ s.fld (.admt weir) Reg.ADMT_MODEL_TOK_LOG2 model

/-- Token rows of a page and block columns of a row, for the transfer of a request (R34): those of its model; of a request that
this device does not know, 64 tokens and the columns that SIDE_BYTES leaves (notes/assumptions/20). -/
def State.kvShape (s : State) (c : MoveCtx) : Nat × Nat :=
  let shape := fun (weir : PartId) (m : Fin 16) => let t := s.modelTokens weir m.val; (t, kvCols m.val t)
  match s.convOfReq c.reqId with
  | some v => shape v.part v.model
  | none =>
    match s.req c.reqId with
    | some r => shape r.weir r.model
    | none => (64, (c.sideBytes - 256) / 68)

/-- Offset of the TOKEN_TAG of row k in a side record of T rows with u block columns (Table 02-3). -/
def tagAt (shape : Nat × Nat) (k : Nat) : Nat := shape.2 * (shape.1 + 4) + 4 * k

/-- The TOKEN_TAG of row k of a page (Table 09-6). -/
def State.tag (s : State) (page : Nat) (shape : Nat × Nat) (k : Nat) : Nat :=
  natOfBytes (Map.bytes s.tier.sideMem (page * 2176 + tagAt shape k) 4)

def State.setTag (s : State) (page : Nat) (shape : Nat × Nat) (k : Nat) (f : Nat → Nat) : State :=
  s.setTier { s.tier with
    sideMem := Map.store s.tier.sideMem (page * 2176 + tagAt shape k) (bytesOfNat 4 (f (s.tag page shape k))) }

/-- A context fails (R224, R225, R233). -/
def State.failCtx (s : State) (p : PartId) (i code : Nat) : State :=
  let c := s.ctx p i
  ((s.setCtx p i { c with state := 5, status := code, bound := false }).err (.move p) 0x05).irq (.move p) 1

/-- The commit watermark advances, and the request's progress with it (R217, R224, R293). -/
def State.advance (s : State) (p : PartId) (i layer page : Nat) : State :=
  let c := s.ctx p i
  let s := s.setCtx p i { c with wmValid := true, wmLayer := layer, wmPage := page }
  s.updReq c.reqId fun r => { r with layers := max r.layers (layer + 1), pages := max r.pages ((layer + 1) * c.pages) }

/-- Free the pages of a layer and the stage pages that hold records of this and earlier layers only (R217). -/
def State.freeLayer (s : State) (c : MoveCtx) (layer : Nat) : State :=
  let s := s.each (List.range c.pages) fun s i => s.freePage (c.pageAt layer i)
  let first := c.localBase / 65536 + c.layers * c.stride
  let upTo := fun (n : Nat) =>
    if n = c.layers then (n * c.pages * c.sideBytes + 65535) / 65536 else n * c.pages * c.sideBytes / 65536
  s.each (List.range (upTo (layer + 1) - upTo layer)) fun s i => s.freePage (first + upTo layer + i)

/-- Pages can enter IN_TRANSIT together: each takes a migration slot (R137); more than 256 at once, which R219 asks of a longer
layer, take none (notes/assumptions/26). -/
def State.slotsFor (s : State) (n : Nat) : Bool := decide (256 < n) || decide (s.slotsBusy + n ≤ 256)

/-- The pages of a layer that is parked enter IN_TRANSIT (R219). -/
def State.parkPages (s : State) (pages : List Nat) : State :=
  s.each pages fun s page =>
    let l := s.leaf page
    match l.st with
    | .resident t =>
      let m : Mig := { page := page, prev := l, kind := .park, dstTier := t, dstFrame := l.frame, dstSide := 0,
                       start := s.now, bytes := 0, staged := [], later := [] }
      (s.addMig m).setLeaf page { l with st := .inTransit }
    | _ => s

/-- A page has a provisional row among its TOKEN_TAGs (R220, Table 09-6). -/
def State.provisional (s : State) (page side : Nat) (shape : Nat × Nat) : Bool :=
  side != 0 && (List.range shape.1).any fun r => bit (s.tag page shape r) 0 && bit (s.tag page shape r) 1

/-- A park moves its next layer (R219), when its pages have migration slots; a provisional row fails the context and the request
stays resident (R220). The code the context's STATUS then holds is not stated: it is free. -/
def State.parkLayer (s : State) (p : PartId) (i layer : Nat) : State :=
  let c := s.ctx p i
  let pages := (List.range c.pages).map (c.pageAt layer ·)
  if pages.any fun g => s.provisional g c.sideBytes (s.kvShape c) then
    let s := s.draw.setCtx p i { c with state := 5, status := s.freeNat 8, bound := false }
    let s := (s.err (.move p) 0x04).irq (.move p) 1
    s.updReq c.reqId fun r => { r with st := .running }
  else if ¬ s.slotsFor c.pages then s.setCtx p i { c with state := 3, parkNext := some layer }
  else
    let s := s.parkPages pages
    let s := s.gatherSide c layer 0 c.pages
    (s.setCtx p i { s.ctx p i with state := 3, parkNext := none }).post p (layerWrs p i c layer false false)

/-- One entry write to REMOTE frees the frame (R219, Table 06-8). -/
def State.commitRemote (s : State) (page : Nat) (node : Nat) (part : PartId) (rpage keyIdx : Nat) : State :=
  match s.mig page with
  | none => s
  | some m =>
    let s := s.freeHome page m.prev
    let s := { s with mem := Map.clear s.mem (page * 65536) 65536 }
    let s := s.setTier { s.tier with sideMem := Map.clear s.tier.sideMem (page * 2176) 2176 }
    let l := s.leaf page
    (s.setLeaf page { pin := l.pin, hint := l.hint, st := .remote, node := node, part := part, rpage := rpage,
                      keyIdx := keyIdx }).settle page m

/-- A park gives up on a fault: pages not yet committed keep their local home (R220, Table 09-5). -/
def State.unpark (s : State) (c : MoveCtx) : State :=
  s.each (List.range (c.layers * c.pages)) fun s k =>
    let page := c.pageAt (k / c.pages) (k % c.pages)
    match s.mig page with
    | some m => if m.kind = .park then (s.setLeaf page { m.prev with pin := (s.leaf page).pin, hint := (s.leaf page).hint
                                                       }).settle page m else s
    | none => s

/-- Address of a Cache entry (R235). -/
def State.entryAddr (s : State) (p : PartId) (i : Nat) : Nat :=
  s.fldAddr .srch Reg.CACHE_CFG_ENT_BASE_LO Reg.CACHE_CFG_ENT_BASE_HI p.val + i * 64

/-- A Cache entry as 64 bytes (Table 10-1), and fields of it. -/
def State.entry (s : State) (p : PartId) (i : Nat) : Nat := s.rdNat (s.entryAddr p i) 64

def State.setEntry (s : State) (p : PartId) (i : Nat) (v : Nat) : State := s.put (s.entryAddr p i) (bytesOfNat 64 v)

def entState (e : Nat) : Nat := bits e 0 3
def entKind (e : Nat) : Nat := bits e 3 1
def entPend (e : Nat) : Bool := bit e 4
def entPins (e : Nat) : Nat := bits e 16 16
def entGen (e : Nat) : Nat := bits e 32 20
def entOwner (e : Nat) : Nat × PartId := (bits e 64 12, Fin.ofNat 32 (bits e 76 5))
def entReq (e : Nat) : Nat := bits e 96 32
def entBase (e : Nat) : Nat := bits e 128 47
def entLayers (e : Nat) : Nat := bits e 192 9
def entPages (e : Nat) : Nat := bits e 208 15
def entStride (e : Nat) : Nat := bits e 224 24
def entSide (e : Nat) : Nat := bits e 256 12
def entTtl (e : Nat) : Nat := bits e 288 32
def entExpire (e : Nat) : Nat := bits e 320 64
def entServed (e : Nat) : Nat := bits e 416 32
def entLast (e : Nat) : Nat := bits e 448 64

/-- Pages of an entry's range: its layers and its stage (R236). -/
def entRange (e : Nat) : Nat :=
  entLayers e * entStride e + (entLayers e * entPages e * entSide e + 65535) / 65536

/-- Slot j of bucket b of a partition's prefix index (R242). -/
def State.idxSlot (s : State) (p : PartId) (b j : Nat) : Nat :=
  s.fldAddr .srch Reg.CACHE_CFG_IDX_BASE_LO Reg.CACHE_CFG_IDX_BASE_HI p.val + b * 256 + j * 32

/-- Clear the index slots that name an entry (Table 10-2). -/
def State.clearIdx (s : State) (p : PartId) (tag : Nat) : State :=
  s.each (List.range (2 ^ s.fld .srch Reg.CACHE_CFG_IDX_LOG2 p.val)) fun s b =>
    s.each (List.range 8) fun s j =>
      let a := s.idxSlot p b j
      if bit (s.rdNat (a + 24) 1) 0 ∧ s.rdNat (a + 16) 4 = tag then s.put a (List.replicate 32 0) else s

/-- Free the pages of an entry that still hold anything. -/
def State.freeEntryPages (s : State) (e : Nat) : State :=
  s.each (List.range (entRange e)) fun s k =>
    let page := entBase e / 65536 + k
    if (s.leaf page).st = .unwritten then s else s.freePage page

/-- An EVICT drain of a Cache partition (R21, R239): PREFIX entries are cleared, the pinned ones once unpinned; the owner of each
LIVE PARK entry is told to take it back. -/
def State.evictEntry (s : State) (p : PartId) (i : Nat) : State :=
  let e := s.entry p i
  if entState e ≠ 2 then s
  else if entKind e = 1 then
    if entPins e ≠ 0 then s.setEntry p i (withBits e 4 1 1)
    else ((s.clearIdx p (i + entGen e * 4096)).freeEntryPages e).setEntry p i (withBits e 0 5 0)
  else
    let o := entOwner e
    s.moverSend p 6 o.1 o.2 { blankMsg 0 (entReq e) with status := 0x01 }

/-- A FILLING entry becomes LIVE (Table 10-2); an EVICT drain under way clears it or hands it back (R21, R239). -/
def State.entryLive (s : State) (p : PartId) (i e : Nat) : State :=
  let s := s.setEntry p i (withBits (withBits e 0 3 2) 320 64 (s.now + entTtl e * 1000000))
  if s.draining p 3 then s.evictEntry p i else s

/-- An entry enters EXPIRING and becomes FREE (Table 10-2, R223): a PARK entry's owner hears of it, a PREFIX entry's index
slots go first. -/
def State.expireEntry (s : State) (p : PartId) (i : Nat) : State :=
  let e := s.entry p i
  let s := s.count .srch 0x88
  let s :=
    if entKind e = 1 then (s.clearIdx p (i + entGen e * 4096)).freeEntryPages e
    else
      let o := entOwner e
      (s.freeEntryPages e).moverSend p 8 o.1 o.2 { blankMsg 0 (entReq e) with status := 0x05 }
  s.setEntry p i (withBits e 0 5 0)

/-- A serve ends: the entry is unpinned (Table 10-2). -/
def State.unpin (s : State) (p : PartId) (i served : Nat) : State :=
  let e := s.entry p i
  let e := withBits e 16 16 (entPins e - 1)
  let e := if entKind e = 0 then withBits e 416 32 (entServed e + served) else e
  let s := s.setEntry p i e
  if entState e = 2 ∧ entPins e = 0 ∧ entPend e then s.expireEntry p i
  else if entState e = 3 ∧ entLayers e * entPages e ≤ entServed e then
    (s.freeEntryPages e).setEntry p i (withBits e 0 5 0)
  else s

/-- The run a SERVE context is sending: pages from its local base (R222). -/
def MoveCtx.runPages (c : MoveCtx) : List Nat := (List.range c.pages).map (c.localBase / 65536 + ·)

/-- The pages of a serve return to their state before it (COPY), or are freed (R222). -/
def State.endServe (s : State) (p : PartId) (i : Nat) (ok : Bool) : State :=
  let c := s.ctx p i
  let s := s.each c.runPages fun s page =>
    match s.mig page with
    | some m =>
      let s := (s.setLeaf page { m.prev with pin := (s.leaf page).pin, hint := (s.leaf page).hint }).settle page m
      if ok && !c.copyRun then s.freePage page else s
    | none => s
  let s := if c.entry < 4096 then s.unpin p c.entry (if ok && !c.copyRun then c.pages else 0) else s
  let s := if ok then s.count (.move p) 0xA0 c.pages else s
  s.setCtx p i { c with state := if ok then 4 else 5, bound := false }

/-- Drop a QP's registrations in its engine's trigger table. -/
def State.dropTrigs (s : State) (q : QpId) : State :=
  let e := engOfQp q
  let x := s.eng e
  s.setEng e { x with trigs := x.trigs.filter fun t => t.qp ≠ q }

/-- A QP enters ERROR (Table 08-2): its work is flushed later. -/
def State.qpError (s : State) (q : QpId) : State :=
  let x := s.qp q
  ((s.setQp q { x with st := .error, flushed := false, rnrAt := none }).dropTrigs q).irq (.feng (engOfQp q)) 1

/-- The data QPs of a context (R210). -/
def MoveCtx.qps (c : MoveCtx) (p : PartId) : List QpId :=
  (List.range (c.stripesM1 + 1)).map fun k => Fin.ofNat 16384 (512 * p.val + c.qpFirst + k)

/-- The data QPs of a context go to ERROR, and nothing more is posted on them (R225); those of a fenced partition stay in
RESET (Table 14-4, F3). -/
def State.qpsError (s : State) (p : PartId) (c : MoveCtx) : State :=
  let m := s.mover p
  let s := s.setMover p { m with posts := m.posts.filter fun e => !((c.qps p).any fun q => q.val == e.1) }
  if s.fenced p then s
  else s.each (c.qps p) fun s q => if (s.qp q).st = .rts then s.qpError q else s

/-- A transfer that restarts goes on from its watermark on a fresh run of data QPs (Table 09-5); with no free run it waits in
OPENING (R210). -/
def State.resumeTx (s : State) (p : PartId) (i : Nat) : State :=
  let c := s.ctx p i
  match s.findRun p c.peerNode c.peerPart (c.stripesM1 + 1) with
  | none => (s.setCtx p i { c with state := 1 }).count (.move p) 0xA8
  | some k =>
    let c := { c with qpFirst := k, bound := true, state := 3 }
    let next := if c.wmValid then c.wmLayer + 1 else 0
    let s := (s.setCtx p i c).count (.move p) 0xC0
    if c.kind = 0 then
      s.post p ((List.range (c.layers - next)).flatMap fun j => layerWrs p i c (next + j)
        (Map.get 0 c.layerAt (next + j) == 0) (!c.staged.contains (next + j)))
    else s.post p (layerWrs p i c next false false)

/-- A failed transfer restarts once (Table 09-5); what its first run still has posted is flushed (notes/assumptions/26). -/
def State.restart (s : State) (p : PartId) (i : Nat) : State :=
  let c := s.ctx p i
  ((s.qpsError p c).setCtx p i { c with bound := false, restarted := true, layerDone := [] }).resumeTx p i

/-- A push or a park binds its data QPs and sends OPEN_PUSH or OPEN_PARK (R210, R214, R218); with no free run it waits in
OPENING. -/
def State.openTx (s : State) (p : PartId) (i : Nat) : State :=
  let c := s.ctx p i
  match s.findRun p c.peerNode c.peerPart (c.stripesM1 + 1) with
  | none => s.count (.move p) 0xA8
  | some k =>
    let s := s.setCtx p i { c with qpFirst := k, bound := true }
    s.moverSend p (if c.kind = 0 then 1 else 2) c.peerNode c.peerPart { blankMsg i c.reqId with
      layers := c.layers, pages := c.pages, stride := c.stride, base := if c.kind = 0 then c.remoteBase else 0,
      key := if c.kind = 0 then c.remoteKey else 0, sideBytes := c.sideBytes, ttlMs := c.ttlMs, kvLen := c.kvLen }

/-- Transfers that wait for a run of data QPs try again (R210). -/
def State.retryOpens (s : State) (p : PartId) : State :=
  s.each (s.mover p).ctxs fun s e =>
    let c := e.2
    if (c.kind = 0 ∨ c.kind = 2) ∧ c.state = 1 ∧ ¬ c.bound ∧
        (s.findRun p c.peerNode c.peerPart (c.stripesM1 + 1)).isSome then
      (if c.restarted then s.resumeTx p e.1 else s.openTx p e.1)
    else s

/-- Keep L rows of a transfer range (R227): VALID cleared from row L, whole pages from L freed, PROV cleared below. Draft rows may
lie in any page of a layer's stride. -/
def State.keepRows (s : State) (c : MoveCtx) (shape : Nat × Nat) (keep : Nat) : State :=
  s.each (List.range c.layers) fun s layer =>
    s.each (List.range (max c.pages c.stride)) fun s i =>
      let page := c.pageAt layer i
      if (s.leaf page).st = .unwritten then s
      else if keep ≤ i * shape.1 then s.freePage page
      else if c.sideBytes = 0 ∨ ¬ (s.leaf page).side then s
      else s.each (List.range shape.1) fun s k =>
        if keep ≤ i * shape.1 + k then s.setTag page shape k fun v => withBits v 0 1 0
        else s.setTag page shape k fun v => withBits v 1 1 0

/-- Row tags of the provisional rows that a packet of a PROV WRITE begins (R226, Table 09-6): VALID and PROV set, the packet's
epoch, the row's key index; KV_LEN counts the rows (Table 09-1). Only rows of a context's range are rows of a known layout. -/
def State.tagRows (s : State) (p : PartId) (i epoch off n : Nat) : State :=
  let c := s.ctx p i
  let shape := s.kvShape c
  let row := 64 * shape.2
  if c.sideBytes = 0 ∨ row = 0 ∨ n = 0 then s
  else
    let page := off / 65536
    let k := page - c.localBase / 65536
    if off < c.localBase ∨ c.layers * c.stride ≤ k then s
    else
      let first := (off % 65536 + row - 1) / row
      let rows := (List.range (min shape.1 ((off % 65536 + n + row - 1) / row) - first)).map (first + ·)
      let key := k % c.stride * shape.1
      let s := if (s.leaf page).side then s else (s.setSide page []).2
      let s := s.each rows fun s j =>
        if (s.leaf page).side then
          s.setTag page shape j fun _ => 3 + epoch % 256 * 4 + (key + j) % 2 ^ 22 * 1024
        else s
      match rows.getLast? with
      | some j => s.setCtx p i { c with kvLen := max c.kvLen (key + j + 1) }
      | none => s

end Sys2Proof.Machine
end

