-- ==== Sys2Proof/Machine/Transfers.lean ====
section
/-! DEFINITION. Transfers of the State Mover from their opening to their end: contexts, parks, pulls, serves, early ends
(R211, R218 to R225, R239). -/

namespace Sys2Proof.Machine
open Sys2Proof

/-- Bind a context (R211). Ended contexts of the same request and kind are reused first. -/
def State.bindCtx (s : State) (p : PartId) (c : MoveCtx) : Option (Nat × State) :=
  let old := (s.mover p).ctxs.find? fun e => e.2.reqId == c.reqId && e.2.kind == c.kind && decide (4 ≤ e.2.state) && !e.2.bound
  match old with
  | some (i, _) => some (i, s.setCtx p i c)
  | none => (s.freeCtx p).map fun i => (i, s.setCtx p i c)

/-- A mover has a context for a new transfer (R295). -/
def State.ctxRoom (s : State) (p : PartId) : Bool := (s.freeCtx p).isSome

/-- The local range of a conversation as a transfer range (R208, R296). -/
def State.convRange (s : State) (v : Conv) : MoveCtx :=
  let r := s.slotRange v.part v.slot
  let tokens := s.modelTokens v.part v.model.val
  { reqId := v.reqId, layers := v.layers, stride := r.2 / max v.layers 1, pages := max 1 ((v.kvLen + tokens - 1) / tokens),
    localBase := r.1, sideBytes := sideBytesOf v.model.val tokens, kvLen := v.kvLen }

/-- The tokens a resident conversation holds: those its prompt left, or the KV_LEN of its request slot's latest step. -/
def State.residentKv (s : State) (v : Conv) : Nat :=
  let x := s.rs v.part v.slot
  if x.valid ∧ x.reqId = v.reqId then max v.kvLen x.kvLen else v.kvLen

/-- Token rows and block columns of a conversation's pages (R34). -/
def State.convShape (s : State) (v : Conv) : Nat × Nat :=
  let t := s.modelTokens v.part v.model.val
  (t, kvCols v.model.val t)

/-- The first provisional row of a conversation (R229). -/
def State.firstProv (s : State) (v : Conv) (kv : Nat) : Option Nat :=
  let c := s.convRange { v with kvLen := kv }
  let shape := s.convShape v
  if c.sideBytes = 0 then none
  else lowest kv fun row =>
    (List.range c.layers).any fun layer =>
      let tag := s.tag (c.pageAt layer (row / shape.1)) shape (row % shape.1)
      bit tag 0 && bit tag 1

/-- The rows of a conversation, provisional ones included: a receiving context's KV_LEN counts those that came by a PROV WRITE
(Table 09-1). -/
def State.kvRows (s : State) (v : Conv) : Nat :=
  ((s.mover v.part).ctxs.filter fun e => e.2.reqId == v.reqId && (e.2.kind == 1 || e.2.kind == 4) && decide (2 ≤ e.2.state)).foldl
    (fun n e => max n e.2.kvLen) (s.residentKv v)

/-- The pool QPs of a partition that carried provisional rows of a conversation still unsettled, with the newest epoch (R229). -/
def State.provQps (s : State) (v : Conv) : List (QpId × Nat) :=
  let c := s.convRange v
  let mine := fun (e : Nat × Nat) => decide (c.localBase / 65536 ≤ e.2) && decide (e.2 < c.localBase / 65536 + c.layers * c.stride)
  (List.range (s.fld (.move v.part) Reg.MOVE_QP_CFG_COUNT)).filterMap fun i =>
    let q : QpId := Fin.ofNat 16384 (512 * v.part.val + (s.fld (.move v.part) Reg.MOVE_QP_CFG_FIRST + i) % 512)
    (((s.qp q).provSent.filter mine).getLast?).map fun e => (q, e.1)

/-- The speculation of a conversation is settled before a pause (R229): CANCEL with its first provisional row on each pool QP that
carried its provisional data, and its local rows from there are cut. Its KV length afterwards. -/
def State.settleSpec (s : State) (v : Conv) : Nat × State :=
  let kv := s.kvRows v
  match s.firstProv v kv with
  | some row =>
    let s := s.post v.part ((s.provQps v).map fun e => (e.1.val, mkCancel cancelWrId e.2 row))
    (row, s.keepRows (s.convRange { v with kvLen := kv }) (s.convShape v) row)
  | none => (kv, s)

/-- A park waits for MOVE_PARK_RETRY (R218). -/
def State.parkWait (s : State) (p : PartId) (reqId : Nat) : State :=
  let m := s.mover p
  s.setMover p { m with parkWaits := m.parkWaits.filter (fun w => w.1 != reqId) ++ [(reqId, s.now)] }

/-- The side stage a run of n pages at an offset has in a partition: that of the Cache entry or of the conversation whose
range holds it, with its side record length (R208, R222); none, and the run carries no records. -/
def State.stageAt (s : State) (p : PartId) (entry base : Nat) : Option (MoveCtx × Nat × Nat) :=
  let place := fun (c : MoveCtx) =>
    let k := base / 65536 - c.localBase / 65536
    if c.localBase ≤ base ∧ k < c.layers * c.stride then some (c, k / c.stride, k % c.stride) else none
  if entry < 4096 then
    let e := s.entry p entry
    place { localBase := entBase e, layers := entLayers e, stride := entStride e, pages := entPages e, sideBytes := entSide e }
  else (s.convs.filter fun v => v.part = p).findSome? fun v => place (s.convRange v)

/-- A serve's run is sent (R222): its pages IN_TRANSIT, its side records gathered, a WRITE and a WRITE_TRIGGER posted. With no
free data QP, or no migration slots for its pages, it waits in OPENING. -/
def State.sendServe (s : State) (p : PartId) (i : Nat) : State :=
  let c := s.ctx p i
  match s.findRun p c.peerNode c.peerPart 1 with
  | none => s.count (.move p) 0xA8
  | some k =>
    if ¬ s.slotsFor c.pages then s else
    let s := s.setCtx p i { c with qpFirst := k, bound := true, state := 3 }
    let s := s.parkPages c.runPages
    let st := s.stageAt p c.entry c.localBase
    let s := match st with
      | some (r, layer, place) => s.gatherSide { r with sideBytes := c.sideBytes } layer place c.pages
      | none => s
    let from_ := match st with
      | some (r, layer, place) => stageOff r.localBase r.layers r.stride r.pages c.sideBytes layer place
      | none => 0
    let layer := match st with
      | some (_, layer, _) => layer
      | none => 0
    let len := if st.isSome then c.pages * c.sideBytes else 0
    let q := 512 * p.val + k
    s.post p
      [(q, mkWr 0 false false false 0 0 0 (moverWrId i layer 0 false) c.localBase c.remoteBase c.remoteKey (c.pages * 65536) 0),
       (q, mkWr 3 false false true 0 0 (0x8000 + layer) (moverWrId i layer 0 true) from_ c.remoteStage c.remoteKey len layer)]

/-- Data QPs have returned to the pool, or migration slots to the tier controller: the transfers and serves that wait go on
(R137, R210). -/
def State.qpsFreed (s : State) (p : PartId) : State :=
  let s := s.retryOpens p
  let s := s.each (s.mover p).ctxs fun s e =>
    if e.2.kind = 5 ∧ e.2.state = 1 ∧ ¬ e.2.bound ∧ (s.findRun p e.2.peerNode e.2.peerPart 1).isSome then s.sendServe p e.1
    else s
  s.each (s.mover p).ctxs fun s e =>
    match (s.ctx p e.1).parkNext with
    | some layer => if (s.ctx p e.1).state = 3 ∧ s.slotsFor e.2.pages then s.parkLayer p e.1 layer else s
    | none => s

/-- Send OPEN_PARK to the next VALID target from index k (R218); with none left the park is refused and waits. The run of data
QPs it had goes to those that wait for one (R210). -/
def State.tryPark (s : State) (p : PartId) (i k : Nat) : State :=
  let c := s.ctx p i
  let s := match (List.range 8).find? fun j => decide (k ≤ j) && s.flag (.move p) Reg.MOVE_PARK_VALID j with
    | some j =>
      (s.setCtx p i { c with parkIdx := j, bound := false, peerNode := s.fld (.move p) Reg.MOVE_PARK_NODE j,
                             peerPart := Fin.ofNat 32 (s.fld (.move p) Reg.MOVE_PARK_PART j) }).openTx p i
    | none =>
      let s := s.setCtx p i {}
      (((s.count (.move p) 0xB8).err (.move p) 0x03).irq (.move p) 2).parkWait p c.reqId
  if c.bound then s.qpsFreed p else s

/-- A conversation's park begins (R218, R229). No rule names the TTL a park asks for: it is free. -/
def State.startPark (s : State) (v : Conv) : State :=
  let p := v.part
  let r := s.settleSpec v
  let v := { v with kvLen := r.1 }
  let s := r.2.setConv v
  let c := { s.convRange v with
    kind := 2, state := 1, stripesM1 := s.fld (.move p) Reg.MOVE_CTRL_STRIPES_M1, ttlMs := s.freeNat 32 }
  let s := s.draw
  match s.bindCtx p c with
  | none => s.parkWait p v.reqId
  | some (i, s) => s.tryPark p i 0

/-- Ask for a run that is not yet asked for (R221): pages that are no longer REMOTE are passed over; what no slot is free for
stays. -/
def State.sendRun (s : State) (p : PartId) (i : Nat) (prefetch : Bool) (page : Nat) : Nat → List PullRun × State
  | 0 => ([], s)
  | n + 1 =>
    let l := s.leaf page
    if l.st ≠ .remote then s.sendRun p i prefetch (page + 1) n
    else
      match s.pullPage page with
      | (some true, s) =>
        let c := s.ctx p i
        let r := s.pullMore l page 1 n
        let got := r.1 + 1
        let off := page - c.localBase / 65536
        let s := if prefetch then r.2.count (.move p) 0x98 got else r.2
        let first := !c.asked && !c.copyRun
        let s := s.pullReq p i c l page (off / c.stride) (off % c.stride) got first
        let s := s.setCtx p i { s.ctx p i with asked := true }
        if got < n + 1 then ([⟨page + got, n + 1 - got, prefetch⟩], s) else ([], s)
      | (_, s) => ([⟨page, n + 1, prefetch⟩], s)

/-- A PULL context asks for the runs it still has, in order (R221). -/
def State.sendRuns (s : State) (p : PartId) (i : Nat) : State :=
  let r := (s.ctx p i).runs.foldl (fun (acc : List PullRun × State) (run : PullRun) =>
    let x := acc.2.sendRun p i run.prefetch run.page run.count
    (acc.1 ++ x.1, x.2)) ([], s)
  r.2.setCtx p i { r.2.ctx p i with runs := r.1 }

/-- n pages from a page cut into runs of at most k (R221). -/
def cutRuns (k : Nat) (prefetch : Bool) (page n : Nat) : List PullRun :=
  (List.range ((n + k - 1) / max k 1)).map fun j => ⟨page + j * k, min k (n - j * k), prefetch⟩

/-- A page is on its way or still remote. -/
def State.away (s : State) (page : Nat) : Bool :=
  match (s.leaf page).st with
  | .remote => true
  | .inTransit => true
  | _ => false

/-- A pause takes effect once the push of its conversation's request has ended (R225). -/
def State.pushOpen (s : State) (v : Conv) : Bool :=
  allParts.any fun p => (s.mover p).ctxs.any fun e =>
    decide (e.2.kind ≤ 1) && e.2.reqId == v.reqId && decide (1 ≤ e.2.state) && decide (e.2.state ≤ 3)

/-- A conversation that a PAUSE or a drain holds is parked, unless its push is still open. -/
def State.parkNow (s : State) (v : Conv) : State :=
  if s.pushOpen v then s
  else
    let s := { s with reqs := s.reqs.map fun (r : Req) =>
      if r.tenant == v.tenant && dConv r.desc == v.convId && (r.st == ReqState.running || r.st == ReqState.opening) then
        { r with st := .parking } else r }
    s.startPark v

/-- What a PULL context has reached: its prefetch placed, RESUME_READY; every page placed, DONE, and a conversation handed
back, or one whose decode an EVICT drain takes away, is parked (R21, R221, R239). -/
def State.pullProgress (s : State) (p : PartId) (i : Nat) : State :=
  let c := s.ctx p i
  if c.kind ≠ 4 ∨ c.state = 0 ∨ 4 ≤ c.state then s
  else
    let waits := fun (n : Nat) =>
      (List.range c.layers).any fun layer => (List.range (min n c.pages)).any fun k => s.away (c.pageAt layer k)
    let s :=
      if ¬ c.readyReported ∧ ¬ c.copyRun ∧ c.runs.all (fun r => !r.prefetch) ∧
          ¬ waits (s.fld (.move p) Reg.MOVE_CTRL_PREFETCH) then
        let s := s.setCtx p i { s.ctx p i with readyReported := true }
        let s := s.sample 9 p.val none (s.now - c.startedAt)
        s.updReq c.reqId fun r => if r.st = .resuming then { r with st := .running } else r
      else s
    if waits c.pages then s
    else
      let s := s.setCtx p i { s.ctx p i with state := 4 }
      match s.convs.find? fun v => v.part = p ∧ v.reqId = c.reqId with
      | some v => if v.st = .relocating then s.startPark v else if s.evicting p ∧ s.evictable p v then s.parkNow v else s
      | none => s

/-- State of adapter slot k (Table 09-9). -/
def State.adpState (s : State) (p : PartId) (k : Nat) : Nat := s.fld (.move p) Reg.ADP_SLOT_STATE k

/-- The READY slot of an adapter with the highest VERSION (R231). -/
def State.adpFind (s : State) (p : PartId) (id : Nat) : Option Nat :=
  (List.range 64).foldl (fun (best : Option Nat) k =>
    if s.adpState p k = 2 ∧ s.fld (.move p) Reg.ADP_SLOT_ID k = id then
      match best with
      | some b => if s.fld (.move p) Reg.ADP_SLOT_VERSION b < s.fld (.move p) Reg.ADP_SLOT_VERSION k then some k else best
      | none => some k
    else best) none

/-- The READY or RETIRING slot of an adapter and version (R231). -/
def State.adpSame (s : State) (p : PartId) (a : Nat × Nat) : Option Nat :=
  lowest 64 fun k => (s.adpState p k == 2 || s.adpState p k == 3) && s.fld (.move p) Reg.ADP_SLOT_ID k == a.1 &&
    s.fld (.move p) Reg.ADP_SLOT_VERSION k == a.2

/-- A request binds an adapter slot (R231). -/
def State.adpBind (s : State) (p : PartId) (k : Nat) : State :=
  s.setFld (.move p) Reg.ADP_SLOT_REFS (min 65535 (s.fld (.move p) Reg.ADP_SLOT_REFS k + 1)) k

/-- A binding is released (R231): a RETIRING slot becomes FREE when REFS reaches 0. -/
def State.adpDrop (s : State) (p : PartId) (k : Nat) : State :=
  let s := s.setFld (.move p) Reg.ADP_SLOT_REFS (s.fld (.move p) Reg.ADP_SLOT_REFS k - 1) k
  if s.adpState p k = 3 ∧ s.fld (.move p) Reg.ADP_SLOT_REFS k = 0 then s.setFld (.move p) Reg.ADP_SLOT_STATE 0 k else s

/-- A request's adapter binding is released (R231). -/
def State.dropAdapter (s : State) (id : Nat) : State :=
  match s.req id with
  | some r =>
    match r.genPart, r.adapter with
    | some p, some k => (s.adpDrop p k).updReq id fun r => { r with adapter := none }
    | _, _ => s
  | none => s

/-- The DISP slots of a partition that a request or a conversation holds, or that are open. -/
def State.slotTaken (s : State) (p : PartId) (k : Nat) : Bool :=
  (s.rs p k).valid || s.convs.any (fun v => v.part == p && v.slot == k) ||
    s.reqs.any (fun r => r.genPart == some p && r.genSlot == k && !r.recorded)

/-- The request slot a request receives: the lowest free one (R295, R296). -/
def State.freeRs (s : State) (p : PartId) : Option Nat := lowest 1024 fun k => !s.slotTaken p k

/-- A Generation partition qualifies for a reservation of `need` pages (R295). -/
def State.genOk (s : State) (p : PartId) (need : Nat) : Bool :=
  s.stableRole p 2 && (s.freeRs p).isSome && s.ctxRoom p &&
    decide (s.fld (.admt p) Reg.ADMT_PAGE_RESV_RESV + need ≤ s.fld (.admt p) Reg.ADMT_PAGE_LIMIT_LIMIT)

/-- The first of a list of partitions with the lowest figure. -/
def leastOf (l : List PartId) (f : PartId → Nat) : Option PartId :=
  l.foldl (fun best p =>
    match best with
    | some b => if f p < f b then some p else best
    | none => some p) none

/-- gen_part of R295: lowest PAGE_RESV, then lowest number. -/
def State.genPart (s : State) (need : Nat) : Option PartId :=
  leastOf (allParts.filter fun p => s.genOk p need) fun p => s.fld (.admt p) Reg.ADMT_PAGE_RESV_RESV

/-- The REMOTE_KEY slot of a key (R218): one that holds it, else one whose key no REMOTE entry and no park uses. -/
def State.keySlot (s : State) (key : Word) : Option Nat :=
  let used := fun (k : Nat) =>
    s.tier.pages.any (fun e => e.2.st == .remote && e.2.keyIdx == k) ||
      s.tier.migs.any (fun m => m.prev.st == .remote && m.prev.keyIdx == k) ||
      allParts.any fun p => (s.mover p).ctxs.any fun e => e.2.kind == 2 && e.2.state == 3 && e.2.keyIdx == k
  match lowest 64 fun k => s.fld .tier Reg.REMOTE_KEY k == key.toNat && used k with
  | some k => some k
  | none =>
    match lowest 64 fun k => s.fld .tier Reg.REMOTE_KEY k == key.toNat with
    | some k => some k
    | none => lowest 64 fun k => !used k

/-- Write a REMOTE entry (R126). -/
def State.setRemote (s : State) (page node : Nat) (part : PartId) (rpage keyIdx : Nat) : State :=
  match s.needLeaf page with
  | none => s
  | some s =>
    let l := s.leaf page
    s.setLeaf page { pin := l.pin, hint := l.hint, st := .remote, node := node, part := part, rpage := rpage, keyIdx := keyIdx }

/-- The REMOTE entries of a range become UNWRITTEN (R223). -/
def State.forgetRemote (s : State) (c : MoveCtx) : State :=
  s.each (List.range (c.layers * c.pages)) fun s k =>
    let page := c.pageAt (k / c.pages) (k % c.pages)
    let l := s.leaf page
    if l.st = .remote then s.setLeaf page { pin := l.pin, hint := l.hint } else s

/-- Fields of a park handle (Table 12-4). -/
def hNode (h : BitVec 256) : Nat := BV h 0 12
def hPart (h : BitVec 256) : PartId := Fin.ofNat 32 (BV h 12 5)
def hOwner (h : BitVec 256) : PartId := Fin.ofNat 32 (BV h 17 5)
def hBase (h : BitVec 256) : Nat := BV h 64 47
def hLayers (h : BitVec 256) : Nat := BV h 128 9
def hPages (h : BitVec 256) : Nat := BV h 144 15
def hKey (h : BitVec 256) : Word := BitVec.ofNat 32 (BV h 160 32)
def hKv (h : BitVec 256) : Nat := BV h 192 32
def hReq (h : BitVec 256) : Nat := BV h 224 32

/-- Write from the handle the REMOTE entries of a conversation that are absent (R290); none: no REMOTE_KEY slot takes its key. -/
def State.remoteFromHandle (s : State) (c : MoveCtx) (h : BitVec 256) : Option State :=
  let missing := (List.range (c.layers * c.pages)).filter fun j =>
    (s.leaf (c.pageAt (j / c.pages) (j % c.pages))).st == .unwritten
  if missing.isEmpty then some s
  else
    (s.keySlot (hKey h)).map fun k =>
      (s.setFld .tier Reg.REMOTE_KEY (hKey h).toNat k).each missing fun s j =>
        s.setRemote (c.pageAt (j / c.pages) (j % c.pages)) (hNode h) (hPart h) (hBase h / 65536 + j) k

/-- A resume begins on the partition of the conversation (R221, R290): a PULL context with its prefetch runs. Without a
REMOTE_KEY slot for its entries, which counts as a wait for one (R218), or without a context, it waits and is tried again as a
park is (notes/assumptions/27). -/
def State.startResume (s : State) (v : Conv) (reqId : Nat) (all : Bool) : State :=
  let p := v.part
  let c := s.convRange v
  match s.remoteFromHandle c v.handle with
  | none => (s.count (.move p) 0xB0).parkWait p reqId
  | some s =>
  let pf := if all then c.pages else min c.pages (s.fld (.move p) Reg.MOVE_CTRL_PREFETCH)
  let runs := (List.range c.layers).flatMap fun layer =>
    cutRuns (s.fld (.move p) Reg.MOVE_CTRL_PULL_RUN) true (c.pageAt layer 0) pf
  match s.bindCtx p { c with
      kind := 4, state := 3, reqId := reqId, askId := v.parkReq, peerNode := hNode v.handle, peerPart := hPart v.handle,
      remoteBase := hBase v.handle, remoteKey := hKey v.handle, runs := runs, startedAt := s.now } with
  | none => s.parkWait p reqId
  | some (i, s) => (s.sendRuns p i).pullProgress p i

/-- A decode that an EVICT drain paused goes on in another Generation partition that the Weir chooses (R21). -/
def State.relocate (s : State) (v : Conv) (r : Req) : State :=
  match s.genPart r.need with
  | none => s
  | some gp =>
    match s.freeRs gp, (match v.adapter with
        | some a => (s.adpSame gp a).map some
        | none => some none) with
    | some k, some ad =>
      let s := s.forgetRemote (s.convRange v)
      let s := match ad with
        | some a => s.adpBind gp a
        | none => s
      let v := { v with part := gp, slot := k, need := r.need, st := .resident, reqId := r.reqId }
      let s := ((s.reserve gp r.need).setConv v).updReq r.reqId fun r =>
        { r with genPart := some gp, genSlot := k, st := .resuming, adapter := ad }
      s.startResume v r.reqId false
    | _, _ => s.endReq r.reqId 0x31 0x00

/-- The park of a conversation is complete: it leaves the Generation partition, its reservation is released, a PAUSE and
the request it paused end with DONE (R219, R289, R296). A decode that a drain paused goes on elsewhere (R21); a park by the
idle timer writes its notice record (R292); one handed back writes nothing (R239). -/
def State.parked (s : State) (p : PartId) (c : MoveCtx) : State :=
  match s.convOfReq c.reqId with
  | none => s
  | some v =>
    let w := { v with st := .parked, part := p, kvLen := c.kvLen, layers := c.layers, need := 0, parkReq := v.reqId }
    let s := (s.unreserve v.part v.need).setConv w
    let mine := s.reqs.filter fun r => r.tenant == v.tenant && dConv r.desc == v.convId && r.st == .parking
    let s := s.each mine fun s r => s.dropAdapter r.reqId
    if v.st = .relocating then s
    else if mine.any fun r => dOp r.desc == 2 then
      s.each mine fun s r => s.endReq r.reqId 0x00 0x00 (dOp r.desc == 2 && v.handleAddr != 0)
    else
      match mine with
      | r :: _ => s.relocate w r
      | [] =>
        let weir := (s.weirOf v.tenant).getD 0
        (s.count (.admt weir) 0xB0).pushRec v.tenant
          { reqId := v.reqId, convId := v.convId, status := 0x00, final := false, notice := true,
            handle := v.handleAddr != 0, fallback := false, detail := 0x40, tokens := 0, pages := c.layers * c.pages,
            layers := c.layers, qpos := 0, whenNs := 0 }

/-- The SEND from send buffer k of a QP has ended (R414): the buffer is free, and messages that wait go. -/
def State.mailDone (s : State) (p : PartId) (q : QpId) (k : Nat) : State :=
  let m := s.mover p
  ((s.setMover p { m with buffers := m.buffers.erase (q.val, k) }).repost p).mail p

/-- A WR of the mover completes (R217, R219, R222, R224). -/
def State.moverDone (s : State) (q : QpId) (wrId code : Nat) : State :=
  let p := partOfQp q
  if 2 ^ 40 ≤ wrId then (if wrId < 2 ^ 40 + 16 then s.mailDone p q (wrId - 2 ^ 40) else s.repost p) else
  let i := wrId % 256
  let layer := wrId / 256 % 65536
  let trigger := wrId / 2 ^ 32 % 2 == 1
  let c := s.ctx p i
  let mine := c.bound && decide (c.qpFirst ≤ q.val % 512 ∧ q.val % 512 ≤ c.qpFirst + c.stripesM1)
  let s := s.repost p
  if !mine then s
  else if code = 0 then
    if !trigger then s
    else if c.kind = 5 then (s.endServe p i true).qpsFreed p
    else
      let n := Map.get 0 c.layerDone layer + 1
      let c := { c with layerDone := Map.set 0 c.layerDone layer n, state := 3 }
      let s := s.setCtx p i c
      if n ≤ c.stripesM1 then s
      else if c.kind = 0 then
        let s := ((s.advance p i layer (c.pages - 1)).count (.move p) 0x80).freeLayer c layer
        let s := s.sample 8 p.val none (s.now + 1 - Map.get 0 c.layerAt layer)
        if layer + 1 = c.layers then
          ((s.setCtx p i { s.ctx p i with state := 4, bound := false }).updReq c.reqId
            fun r => { r with promptPart := none }).qpsFreed p
        else s
      else if c.kind = 2 then
        let s := s.each (List.range c.pages) fun s k =>
          s.commitRemote (c.pageAt layer k) c.peerNode c.peerPart (c.remoteBase / 65536 + layer * c.pages + k) c.keyIdx
        let s := (s.advance p i layer (c.pages - 1)).count (.move p) 0x88 c.pages
        if layer + 1 = c.layers then
          ((s.setCtx p i { s.ctx p i with state := 4, bound := false }).parked p c).qpsFreed p
        else s.parkLayer p i (layer + 1)
      else s
  else if code = 0x26 then s
  else if c.kind = 5 then (s.endServe p i false).failCtx p i code
  else
    if (code = 0x22 ∨ code = 0x13) ∧ ¬ c.restarted then s.restart p i
    else
      let s := if c.kind = 2 then s.unpark c else s
      (s.failCtx p i code).endReq c.reqId 0x30 0x30


end Sys2Proof.Machine
end

