-- ==== Sys2Proof/Machine/Qp.lean ====
section
/-! DEFINITION. Queue pairs: states, rings, work requests, triggers, the transport (R180 to R198, R226 to R228, R416). -/

namespace Sys2Proof.Machine
open Sys2Proof

/-- Fields of a work request (Table 08-3). -/
def wOp (w : BitVec 512) : Nat := BV w 0 4
def wHeld (w : BitVec 512) : Bool := BV w 4 1 != 0
def wPlace (w : BitVec 512) : Bool := BV w 5 1 != 0
def wSignal (w : BitVec 512) : Bool := BV w 6 1 != 0
def wFence (w : BitVec 512) : Bool := BV w 7 1 != 0
def wTrigSrc (w : BitVec 512) : Nat := BV w 8 3
def wProv (w : BitVec 512) : Bool := BV w 11 1 != 0
def wReplace (w : BitVec 512) : Bool := BV w 12 1 != 0
def wTrigTag (w : BitVec 512) : Nat := BV w 16 16
def wFireTag (w : BitVec 512) : Nat := BV w 32 16
def wSpec (w : BitVec 512) : Nat := BV w 48 8
def wId (w : BitVec 512) : Nat := BV w 64 64
def wLocal (w : BitVec 512) : Nat := BV w 128 47
def wRemote (w : BitVec 512) : Nat := BV w 192 47
def wKey (w : BitVec 512) : Word := BitVec.ofNat 32 (BV w 256 32)
def wGen (w : BitVec 512) : Nat := BV w 288 16
def wLen (w : BitVec 512) : Nat := BV w 320 32
def wImm (w : BitVec 512) : Nat := BV w 352 32

/-- A WR breaks a rule of Table 08-3 or R191. -/
def wrBad (w : BitVec 512) : Bool :=
  let op := wOp w
  let n := wLen w
  decide (6 ≤ op) || (wHeld w && decide (5 ≤ wTrigSrc w)) || decide (BV w 13 3 ≠ 0) || decide (BV w 56 8 ≠ 0) ||
    decide (BV w 304 16 ≠ 0) || decide (BV w 384 128 ≠ 0) || decide (wLocal w % 8 ≠ 0) || decide (n % 8 ≠ 0) ||
    decide (2 ^ 30 < n) || (decide (op ≤ 2) && decide (n < 8)) || (decide (4 ≤ op) && decide (n ≠ 0)) ||
    (wReplace w && !(decide (op = 0) && decide (wRemote w % 65536 = 0) && decide (n % 65536 = 0)))

/-- Ring lengths. -/
def Qp.cqFull (x : Qp) : Bool := decide (2 ^ x.cqLog2 ≤ ringUsed x.cqLog2 x.cqHead x.cqTail)

/-- A completion entry before PHASE and TIME (Table 08-4). -/
def mkCqe (wrId op : Nat) (recv : Bool) (status : Nat) (q : QpId) (n imm : Nat) : BitVec 256 :=
  BitVec.ofNat 256 (natOfBytes (List.flatten
    [bytesOfNat 8 wrId, bytesOfNat 1 (op + 16 * recv.toNat), bytesOfNat 1 status, bytesOfNat 2 q.val, bytesOfNat 4 n,
     bytesOfNat 4 imm]))

/-- Write a completion entry: PHASE is 1 on the first pass of the ring, TIME the time of writing (Table 08-4). -/
def State.writeCqe (s : State) (q : QpId) (e : BitVec 256) : State :=
  let x := s.qp q
  let phase := if x.cqTail / 2 ^ x.cqLog2 % 2 = 0 then 1 else 0
  let v := e.toNat + phase * 2 ^ 69 + s.now % 2 ^ 64 * 2 ^ 192
  (s.setQp q { x with cqTail := (x.cqTail + 1) % 2 ^ (x.cqLog2 + 1) }).put
    (x.cqBase + x.cqTail % 2 ^ x.cqLog2 * 32) (bytesOfNat 32 v)

/-- Write the entries that wait while the completion ring has room (R184). -/
def State.drainCqes (s : State) (q : QpId) : List (BitVec 256 × Option Nat) → State
  | [] => s
  | e :: t =>
    if (s.qp q).cqFull then s.setQp q { s.qp q with cqeWait := e :: t }
    else (s.writeCqe q e.1).drainCqes q t

/-- RQ_HEAD passes the receive entries that are used and whose completion entries are written (R183). -/
def State.advanceRq (s : State) (q : QpId) : Nat → State
  | 0 => s
  | n + 1 =>
    let x := s.qp q
    if x.rqUsed = 0 ∨ x.rqOpen.any (fun o => o.2.1 = x.rqHead) ∨ x.cqeWait.any (fun e => e.2 = some x.rqHead) then s
    else (s.setQp q { x with rqHead := (x.rqHead + 1) % 2 ^ (x.rqLog2 + 1), rqUsed := x.rqUsed - 1 }).advanceRq q n

def State.drainCq (s : State) (q : QpId) : State :=
  let x := s.qp q
  ((s.setQp q { x with cqeWait := [] }).drainCqes q x.cqeWait).advanceRq q 65536

/-- A completion entry is due (R183, R184), for a receive entry where it reports one. -/
def State.cqe (s : State) (q : QpId) (e : BitVec 256) (entry : Option Nat := none) : State :=
  let x := s.qp q
  (s.setQp q { x with cqeWait := x.cqeWait ++ [(e, entry)] }).drainCq q

/-- The mover's send buffers of a QP are free again (R414). -/
def State.dropBuffers (s : State) (q : QpId) : State :=
  let p := partOfQp q
  let m := s.mover p
  if m.buffers.any fun b => b.1 = q.val then s.setMover p { m with buffers := m.buffers.filter fun b => b.1 ≠ q.val } else s

/-- A QP enters RESET (R182): pointers, PSNs, RX_SPEC and maps return to 0; the configuration stays. -/
def State.qpReset (s : State) (q : QpId) : State :=
  let x := s.qp q
  (((s.dropBuffers q).disown (.qp q)).setQp q
    { tc := x.tc, remNode := x.remNode, remPart := x.remPart, remQpn := x.remQpn, sqBase := x.sqBase, rqBase := x.rqBase,
      cqBase := x.cqBase, sqLog2 := x.sqLog2, rqLog2 := x.rqLog2, cqLog2 := x.cqLog2, retryLimit := x.retryLimit,
      rnrLimit := x.rnrLimit, ackTo := x.ackTo, rnrUs := x.rnrUs, holdTo := x.holdTo }).dropTrigs q

/-- A started WR completes with a code (R183, Table 08-2). -/
def State.wrDone (s : State) (q : QpId) (w : OpenWr) (code : Nat) : State :=
  let x := s.qp q
  let s := s.setQp q { x with wrs := x.wrs.map fun y => if y.index = w.index then { y with done := true } else y }
  let s := s.count (.feng (engOfQp q)) (if code = 0 then 0x80 else 0x88)
  let moved := if code = 0 then wLen w.wr else 0
  let s := if wSignal w.wr ∨ code ≠ 0 then s.cqe q (mkCqe (wId w.wr) (wOp w.wr) false code q moved (wImm w.wr)) else s
  let s := s.send (.qpComplete q (wId w.wr) code)
  let s := if code = 0 ∨ code = 0x23 ∨ code = 0x27 ∨ code = 0x28 then s else s.qpError q
  if s.isPool q then s.moverDone q (wId w.wr) code else s

/-- PSN a is acknowledged: behind UNA_PSN, or its TX_MAP bit set. -/
def Qp.acked (x : Qp) (psn : Nat) : Bool :=
  let d := psnAhead x.unaPsn psn
  if d < 256 then bit x.txMap d else decide (2 ^ 23 ≤ d)

/-- Every packet of a WR has been sent and acknowledged. -/
def Qp.wrDelivered (x : Qp) (w : OpenWr) : Bool :=
  decide (psnAhead x.unaPsn (w.psn + w.packets) = 0 ∨ 2 ^ 23 ≤ psnAhead x.unaPsn (w.psn + w.packets)) ||
    (decide (psnAhead x.unaPsn w.psn < 256) && decide (w.packets ≤ 256) &&
      (List.range w.packets).all fun i => x.acked ((w.psn + i) % 2 ^ 24))

/-- An offset lies in the local bytes of a READ. -/
def readInto (w : OpenWr) (off : Nat) : Bool := decide (wLocal w.wr ≤ off) && decide (off < wLocal w.wr + wLen w.wr)

/-- Local bytes of a READ that the tier controller still holds (R131). -/
def State.readHeld (s : State) (q : QpId) (w : OpenWr) : Bool :=
  let mine := fun (e : Nat × List Held) =>
    e.2.any fun h => h.own && h.src == .qp q && h.write.isSome && readInto w h.offset
  s.tier.held.any mine || s.tier.stalled.any mine

/-- How a local write of a READ that was held ended, where it failed: a status of Table 07-6 (R136, R138). -/
def State.readFailed (s : State) (q : QpId) (w : OpenWr) : Option Nat :=
  s.tier.answers.findSome? fun a =>
    if a.src == .qp q && a.write && readInto w a.offset then
      match a.res with
      | .done => none
      | .refused c => some (fabCode c)
      | .failed c _ => some c
    else none

/-- A WR's completion condition holds (Table 08-5). -/
def State.wrComplete (s : State) (q : QpId) (w : OpenWr) : Bool :=
  if wOp w.wr = 0 ∧ wPlace w.wr ∨ 3 ≤ wOp w.wr then w.answered
  else (s.qp q).wrDelivered w && !(wOp w.wr = 1 && s.readHeld q w)

/-- Complete what is complete (R183), and fail the READs whose local writes have failed. -/
def State.completeWrs (s : State) (q : QpId) : Nat → State
  | 0 => s
  | n + 1 =>
    let x := s.qp q
    match x.wrs.find? (fun w => !w.done && (s.wrComplete q w || (wOp w.wr == 1 && (s.readFailed q w).isSome))) with
    | some w => (s.wrDone q w (if wOp w.wr = 1 then (s.readFailed q w).getD 0 else 0)).completeWrs q n
    | none => s

/-- SQ_HEAD passes the WRs that have completed (R183); the record of one that has packets to be acknowledged stays. -/
def State.advanceSq (s : State) (q : QpId) : Nat → State
  | 0 => s
  | n + 1 =>
    let x := s.qp q
    match x.wrs.find? (fun w => w.index = x.sqHead ∧ w.done) with
    | some w =>
      (s.setQp q { x with
        sqHead := (x.sqHead + 1) % 2 ^ (x.sqLog2 + 1)
        wrs := x.wrs.map fun y => if y = w then { y with index := 65536 + y.psn } else y }).advanceSq q n
    | none => s

/-- The records of WRs that are over go. -/
def State.dropDone (s : State) (q : QpId) : State :=
  let x := s.qp q
  s.setQp q { x with wrs := x.wrs.filter fun w => !(decide (65536 ≤ w.index) && (decide (w.packets = 0) || x.wrDelivered w)) }

/-- WRs complete and leave the ring (R183). -/
def State.retire (s : State) (q : QpId) : State :=
  let n := (s.qp q).wrs.length
  let s := (s.completeWrs q n).takeAnswers fun a => a.src == .qp q && a.write
  if (s.qp q).st = .rts then (s.advanceSq q n).dropDone q else s

/-- Which started WR holds a PSN. -/
def Qp.wrAt (x : Qp) (psn : Nat) : Option OpenWr := x.wrs.find? fun w => decide (psnAhead w.psn psn < w.packets)

/-- How a read of a QP's engine ends where it brings no bytes: the status a WR fails with (R134, R138, R140). -/
def ownCode : Own → Nat
  | .poisoned _ => 0x0A
  | .refused c _ => fabCode c
  | .failed c _ => c
  | _ => 0

/-- Opcode of a WR's packets (Table 08-7). -/
def wrPacketOp (w : BitVec 512) : Nat :=
  match wOp w with
  | 0 => 0x40 | 1 => 0x42 | 2 => 0x43 | 3 => 0x41 | 4 => 0x44 | _ => 0x45

/-- Packet i of a WR (Table 08-8), its payload read from LOCAL_ADDR. -/
def State.wrPacket (s : State) (q : QpId) (w : OpenWr) (i : Nat) : QpReq :=
  let x := s.qp q
  let op := wOp w.wr
  let n := min 1024 (wLen w.wr - 1024 * i)
  let named := op = 0 ∨ op = 1 ∨ op = 3
  { tc := x.tc, last := i + 1 = w.packets, place := wPlace w.wr, prov := wProv w.wr, replace := wReplace w.wr,
    srcNode := s.node, dstQpn := x.remQpn, psn := (w.psn + i) % 2 ^ 24, specEpoch := wSpec w.wr, node := x.remNode,
    part := x.remPart,
    offset := if named then (wRemote w.wr + 1024 * i) % 2 ^ 47 else if op = 2 then 1024 * i else 0,
    key := if named then wKey w.wr else 0, gen := if named then wGen w.wr else 0,
    fireTag := if op = 3 then wFireTag w.wr else 0, imm := wImm w.wr, epoch := s.epoch % 65536, srcQpn := q,
    wrLen := if op = 1 then n else wLen w.wr,
    payload := if op = 0 ∨ op = 2 ∨ op = 3 then s.rd (wLocal w.wr + 1024 * i) n else [] }

/-- The plane of a QP's next packet (R196). -/
def State.qpPlane (s : State) (q : QpId) : Option Nat := s.qpPlaneTo q (s.qp q).remNode (s.qp q).remQpn

/-- A WR fails with a code, unless it has completed. -/
def State.wrFail (s : State) (q : QpId) (w : OpenWr) (code : Nat) : State := if w.done then s else (s.wrDone q w code).retire q

/-- A packet of a WR leaves on a plane. -/
def State.packetGoes (s : State) (q : QpId) (w : OpenWr) (i plane : Nat) : State :=
  let s := (s.sentOn (engOfQp q) plane).send (qpReqOut (wrPacketOp w.wr) plane (s.wrPacket q w i))
  s.setQp q { s.qp q with lastPlane := some plane }

/-- Send packet i of a WR: 0 sent, 1 waits, 2 the WR has failed (R170, R196, R412). A packet of a WR that has completed already
is sent for its PSN. -/
def State.sendPacket (s : State) (q : QpId) (w : OpenWr) (i : Nat) (again : Bool) : Nat × State :=
  let x := s.qp q
  match s.qpPlane q with
  | none => (if w.done then 1 else 2, s.wrFail q w 0x10)
  | some plane =>
    if s.pinned ∧ ¬ again ∧ x.unaPsn ≠ x.nextPsn ∧ x.lastPlane ≠ some plane then (1, s)
    else
      let op := wOp w.wr
      let n := if op = 0 ∨ op = 2 ∨ op = 3 then min 1024 (wLen w.wr - 1024 * i) else 0
      if n = 0 ∨ w.done then (0, s.packetGoes q w i plane)
      else
        match s.ownRead (.qp q) (wLocal w.wr + 1024 * i) n with
        | (.data, s) => (0, s.packetGoes q w i plane)
        | (.wait, s) => (1, s)
        | (r, s) => (2, s.wrFail q w (ownCode r))

/-- Send new packets while fewer than 256 are unacknowledged (R194). -/
def State.pump (s : State) (q : QpId) : Nat → State
  | 0 => s
  | n + 1 =>
    let x := s.qp q
    if x.st ≠ .rts ∨ x.nextPsn = x.sqPsn ∨ 256 ≤ psnAhead x.unaPsn x.nextPsn then s
    else
      match x.wrAt x.nextPsn with
      | none => s
      | some w =>
        match s.sendPacket q w (psnAhead w.psn x.nextPsn) false with
        | (0, s) =>
          let y := s.qp q
          let y := if y.unaPsn = y.nextPsn then { y with progressAt := s.now } else y
          (s.setQp q { y with nextPsn := (y.nextPsn + 1) % 2 ^ 24 }).pump q n
        | (_, s) => s

/-- The WR in ring slot i. -/
def State.ringWr (s : State) (q : QpId) (i : Nat) : BitVec 512 :=
  let x := s.qp q
  BitVec.ofNat 512 (s.rdNat (x.sqBase + i % 2 ^ x.sqLog2 * 64) 64)

/-- The ring pointer after i. -/
def Qp.sqNext (x : Qp) (i : Nat) : Nat := (i + 1) % 2 ^ (x.sqLog2 + 1)

/-- The next WR to start is the one after i; the engine has read so far at least (R183). -/
def State.passWr (s : State) (q : QpId) (i : Nat) : State :=
  let x := s.qp q
  s.setQp q { x with nextWr := x.sqNext i, headAt := s.now, regTo := if x.regTo = i then x.sqNext i else x.regTo }

/-- The next WR to start moves past those that have completed unstarted (TRIG_FULL, HOLD_EXPIRED). -/
def State.skipDone (s : State) (q : QpId) : Nat → State
  | 0 => s
  | n + 1 =>
    let x := s.qp q
    if x.wrs.any fun w => w.index = x.nextWr ∧ w.packets = 0 then (s.passWr q x.nextWr).skipDone q n else s

/-- A WR completes without having started. -/
def State.endUnstarted (s : State) (q : QpId) (i : Nat) (w : BitVec 512) (code : Nat) : State :=
  let x := s.qp q
  let o : OpenWr := { index := i, wr := w, psn := x.sqPsn, packets := 0, answered := false, delivered := false,
                      done := false, rnr := 0 }
  let s := (s.setQp q { x with wrs := x.wrs ++ [o] }).wrDone q o code
  (s.skipDone q 65536).retire q

/-- A WR of which only that it was lost is known: its WR_ID is free (R412). -/
def State.lostWr (s : State) : BitVec 512 := BitVec.ofNat 512 (s.freeNat 64 * 2 ^ 64)

/-- What the engine finds in a ring slot: the WR, or the status it was lost with; or it waits for its page (R412). -/
inductive RingRead where
  | wr (w : BitVec 512)
  | lost (code : Nat)
  | wait
deriving DecidableEq, Repr

/-- Read ring slot i. -/
def State.readWr (s : State) (q : QpId) (i : Nat) : RingRead × State :=
  let x := s.qp q
  match s.ownRead (.qp q) (x.sqBase + i % 2 ^ x.sqLog2 * 64) 64 with
  | (.data, s) => (.wr (s.ringWr q i), s)
  | (.wait, s) => (.wait, s)
  | (r, s) => (.lost (ownCode r), s)

/-- The engine can start a WR of the QP: RTS, work posted, room for its completions, neither fenced nor in reset. -/
def State.canStart (s : State) (q : QpId) : Bool :=
  let x := s.qp q
  decide (x.st = .rts) && decide (x.nextWr ≠ x.sqTail) && !x.cqFull && x.cqeWait.isEmpty && !s.fenced (partOfQp q) &&
    s.ready (.feng (engOfQp q))

/-- The next WR to start, if it can be read now: one that is lost fails. -/
def State.nextWrOf (s : State) (q : QpId) : Option (BitVec 512) × State :=
  let i := (s.qp q).nextWr
  match s.readWr q i with
  | (.wr w, s) => (some w, s)
  | (.wait, s) => (none, s)
  | (.lost c, s) => (none, s.draw.endUnstarted q i s.lostWr c)

/-- A malformed WR next to start completes with BAD_WR (R183). -/
def State.checkNext (s : State) (q : QpId) : State :=
  if s.canStart q then
    let i := (s.qp q).nextWr
    match s.nextWrOf q with
    | (some w, s) => if wrBad w then s.endUnstarted q i w 0x25 else s
    | (none, s) => s
  else s

/-- A WR is released: not held, or its trigger has fired (R192); a TIMER one by its own command. -/
def State.isReleased (s : State) (q : QpId) (i : Nat) (w : BitVec 512) (timer : Bool) : Bool :=
  !wHeld w || (if wTrigSrc w = 3 then timer
    else (s.eng (engOfQp q)).trigs.any fun t => t.qp == q && t.index == i && t.released)

/-- WR w in slot i starts (R183, R192): its PSNs are taken and its packets leave. -/
def State.launchWr (s : State) (q : QpId) (i : Nat) (w : BitVec 512) : State :=
  let x := s.qp q
  let n := packetsOf (wLen w)
  let o : OpenWr := { index := i, wr := w, psn := x.sqPsn, packets := n, answered := false, delivered := false,
                      done := false, rnr := 0 }
  let e := engOfQp q
  let s := s.setEng e { s.eng e with trigs := (s.eng e).trigs.filter fun t => !(t.qp == q && t.index == i) }
  let sent := x.provSent
  let s := s.setQp q { x with
    wrs := x.wrs ++ [o], sqPsn := (x.sqPsn + n) % 2 ^ 24,
    progressAt := if x.unaPsn = x.sqPsn then s.now else x.progressAt
    provSent :=
      if wOp w = 5 then sent.filter fun e => decide ((wSpec w + 256 - e.1 % 256) % 256 ≥ 128)
      else if wProv w then sent ++ [(wSpec w, wLocal w / 65536)] else sent }
  ((s.passWr q i).skipDone q 65536).pump q 256

/-- The engine goes on with a QP: packets that waited leave, and the next WR starts when it has the opcode and may start (R183,
R192); `timer`: the TIMER of the WR at the head has passed. -/
def State.startWr (s : State) (q : QpId) (op : Option Nat) (timer : BitVec 512 → Bool) : State :=
  let s := (s.retire q).pump q 256
  if !s.canStart q then s
  else
    let i := (s.qp q).nextWr
    match s.nextWrOf q with
    | (none, s) => s
    | (some w, s) =>
      if wrBad w then s.endUnstarted q i w 0x25
      else if op.any (· ≠ wOp w) ∨ ¬ s.isReleased q i w (timer w) ∨ (wFence w ∧ (s.qp q).wrs.any fun y => !y.done) then s
      else s.launchWr q i w

/-- WR_WRITE (R185). -/
def execWrWrite (q : QpId) (s : State) : Res := .next (s.startWr q (some 0) fun _ => false)

/-- WR_READ (R189). -/
def execWrRead (q : QpId) (s : State) : Res := .next (s.startWr q (some 1) fun _ => false)

/-- WR_SEND (R188); the mover's messages that wait are posted before it (R210, R414). -/
def execWrSend (q : QpId) (s : State) : Res := .next ((s.mail (partOfQp q)).startWr q (some 2) fun _ => false)

/-- WR_WRITE_TRIGGER (R187). -/
def execWrWriteTrigger (q : QpId) (s : State) : Res := .next (s.startWr q (some 3) fun _ => false)

/-- WR_FLUSH (R186). -/
def execWrFlush (q : QpId) (s : State) : Res := .next (s.startWr q (some 4) fun _ => false)

/-- WR_CANCEL (R190). -/
def execWrCancel (q : QpId) (s : State) : Res := .next (s.startWr q (some 5) fun _ => false)

/-- TRIG_TIMER_EXPIRE (R192): TRIG_TAG µs after the WR reached the head of its ring. -/
def execTrigTimerExpire (q : QpId) (s : State) : Res :=
  let at_ := (s.qp q).headAt
  .next (s.startWr q none fun w => wHeld w && decide (wTrigSrc w = 3) && decide (at_ + wTrigTag w * 1000 ≤ s.now))

/-- A WR is one that the engine registers (R192). -/
def wrRegisters (w : BitVec 512) : Bool := wHeld w && !wrBad w && decide (wTrigSrc w ≠ 3)

/-- A held WR is registered, or completes with TRIG_FULL (R192). -/
def State.register (s : State) (q : QpId) (i : Nat) (w : BitVec 512) : State :=
  let e := engOfQp q
  let y := s.eng e
  if y.trigs.length < 4096 then
    s.setEng e { y with trigs := y.trigs ++
      [{ qp := q, index := i, wr := w, src := wTrigSrc w, tag := wTrigTag w, released := false, since := s.now }] }
  else s.endUnstarted q i w 0x28

/-- The engine reads posted WRs until it has registered one (R192). False: it has read all it can. -/
def State.registerNext (s : State) (q : QpId) : Nat → Bool × State
  | 0 => (false, s)
  | n + 1 =>
    let x := s.qp q
    let i := x.regTo
    if x.st ≠ .rts ∨ i = x.sqTail then (false, s)
    else
      match s.readWr q i with
      | (.wait, s) => (false, s)
      | (r, s) =>
        let s := s.setQp q { s.qp q with regTo := x.sqNext i }
        match r with
        | .wr w => if wrRegisters w then (true, s.register q i w) else s.registerNext q n
        | _ => s.registerNext q n

/-- The engine reads every posted WR and registers those that are held (R192). -/
def State.registerAll (s : State) (q : QpId) : Nat → State
  | 0 => s
  | n + 1 =>
    match s.registerNext q 65536 with
    | (true, s) => s.registerAll q n
    | (false, s) => s

/-- The mover confirms that the held WRs of a push are registered: its context is ARMED (R214). -/
def State.confirmPush (s : State) (q : QpId) : State :=
  let p := partOfQp q
  let k := q.val % 512
  let m := s.mover p
  match m.ctxs.find? fun e => e.2.kind == 0 && e.2.state == 1 && e.2.bound && decide (e.2.qpFirst ≤ k ∧
      k ≤ e.2.qpFirst + e.2.stripesM1) with
  | none => s
  | some (i, c) =>
    let ids := (List.range (c.stripesM1 + 1)).map fun j => 512 * p.val + c.qpFirst + j
    if ids.all fun j => (s.qp (Fin.ofNat 16384 j)).regTo == (s.qp (Fin.ofNat 16384 j)).sqTail &&
        m.posts.all fun e => e.1 != j then
      s.setCtx p i { c with state := 2 }
    else s

/-- HELD_WR_REGISTER (R192): the engine reads on to the next held WR, which is registered or completes with TRIG_FULL. -/
def execHeldWrRegister (q : QpId) (s : State) : Res :=
  let t := (s.registerNext q 65536).2
  .next (if t.isPool q then t.confirmPush q else t)

/-- TRIG_FIRE (R192, Table 08-13). -/
def execTrigFire (e : EngId) (tag : Nat) (s : State) : Res :=
  .next (s.ifReady (.feng e) fun s => s.trigEvent (partOfEng e) 4 (tag % 65536))

/-- HOLD_EXPIRED (R193): not released within HOLD_TIMEOUT_US of its registration. -/
def execHoldExpired (q : QpId) (index : Nat) (s : State) : Res :=
  let e := engOfQp q
  let x := s.qp q
  .next (match (s.eng e).trigs.find? (fun t => t.qp = q ∧ t.index = index ∧ ¬ t.released) with
    | none => s
    | some t =>
      if x.holdTo ≠ 0 ∧ t.since + x.holdTo * 1000 ≤ s.now then
        let s := s.setEng e { s.eng e with trigs := (s.eng e).trigs.filter fun u => !(u.qp == q && u.index == index) }
        ((s.count (.feng e) 0xE0).irq (.feng e) 2).endUnstarted q index t.wr 0x27
      else s)

/-- A STATE write the table does not list (R182). -/
def State.qpBusy (s : State) (q : QpId) : State := s.err (.feng (engOfQp q)) 0x03

/-- The fields of a context are legal (Tables 08-1, 08-2). -/
def Qp.legal (x : Qp) : Bool :=
  decide (x.sqBase % 64 = 0 ∧ x.rqBase % 64 = 0 ∧ x.cqBase % 64 = 0 ∧ 4 ≤ x.sqLog2 ∧ x.sqLog2 ≤ 15 ∧
    (x.rqLog2 = 0 ∨ (4 ≤ x.rqLog2 ∧ x.rqLog2 ≤ 15)) ∧ 4 ≤ x.cqLog2 ∧ x.cqLog2 ≤ 20 ∧ 1 ≤ x.retryLimit ∧ x.ackTo ≤ 10 ∧
    1 ≤ x.rnrUs)

/-- A receive buffer of the mover's message area (R414). -/
def State.msgBuf (s : State) (q : QpId) (k : Nat) : Nat := s.msgArea q + 1024 + k % 16 * 64

/-- The control QP to a peer is the lowest-numbered pool QP to it (R209). -/
def State.isControl (s : State) (q : QpId) : Bool :=
  s.isPool q && (s.poolTo (partOfQp q) (s.qp q).remNode (s.qp q).remPart).head? == some q

/-- The mover posts a receive entry naming a buffer (R414). -/
def State.postRecv (s : State) (q : QpId) (addr : Nat) : State :=
  let x := s.qp q
  if x.rqLog2 = 0 then s
  else
    let s := s.put (x.rqBase + x.rqTail % 2 ^ x.rqLog2 * 16) (bytesOfNat 8 addr ++ bytesOfNat 8 64)
    s.setQp q { s.qp q with rqTail := (x.rqTail + 1) % 2 ^ (x.rqLog2 + 1) }

/-- The mover posts 16 receive entries on a control QP that has none of its own yet (R414). -/
def State.armControl (s : State) (q : QpId) : State :=
  let x := s.qp q
  if x.st = .rts ∧ ¬ x.recvOn ∧ s.isControl q then
    (s.setQp q { x with recvOn := true }).each (List.range 16) fun s k => s.postRecv q (s.msgBuf q k)
  else s

/-- Control QPs that came under a partition's mover get their receive entries (R414). -/
def State.armControls (s : State) (p : PartId) : State :=
  s.each (List.range (s.fld (.move p) Reg.MOVE_QP_CFG_COUNT)) fun s i =>
    s.armControl (Fin.ofNat 16384 (512 * p.val + (s.fld (.move p) Reg.MOVE_QP_CFG_FIRST + i) % 512))

/-- STATE is written INIT (Table 08-2). -/
def State.qpToInit (s : State) (q : QpId) : State :=
  let x := s.qp q
  match x.st with
  | .reset => if x.legal then s.setQp q { x with st := .init } else s.rsvEnc (.feng (engOfQp q))
  | .init => s
  | _ => s.qpBusy q

/-- STATE is written RTS (Table 08-2): PSNs and maps are cleared and work starts: what is posted is read (R192), and the mover
posts 16 receive entries on a control QP (R414). -/
def State.qpToRts (s : State) (q : QpId) : State :=
  let x := s.qp q
  match x.st with
  | .init =>
    let s := s.setQp q { x with
      st := .rts, nextPsn := 0, unaPsn := 0, epsn := 0, rxMap := 0, txMap := 0, sqPsn := 0, headAt := s.now,
      progressAt := s.now }
    ((s.armControl q).registerAll q 65536).checkNext q
  | .rts => s
  | _ => s.qpBusy q

/-- STATE is written RESET (Table 08-2). -/
def State.qpToReset (s : State) (q : QpId) : State :=
  let x := s.qp q
  match x.st with
  | .reset => s
  | .init => s.qpReset q
  | .error => if x.flushed then s.qpReset q else s.qpBusy q
  | .rts => s.qpBusy q

/-- STATE is written ERROR (Table 08-2). -/
def State.qpToError (s : State) (q : QpId) : State :=
  match (s.qp q).st with
  | .rts => s.qpError q
  | .error => s
  | _ => s.qpBusy q

/-- A write of STATE by its code (Table 08-1, R182): 4 to 7 are reserved encodings. -/
def State.qpStateWrite (s : State) (q : QpId) (v : Nat) : State :=
  match v with
  | 0 => s.qpToReset q
  | 1 => s.qpToInit q
  | 2 => s.qpToRts q
  | 3 => s.qpToError q
  | _ => s.rsvEnc (.feng (engOfQp q))

/-- QP_STATE_INIT (Table 08-2). -/
def execQpStateInit (q : QpId) (s : State) : Res := .next (s.ifReady (.feng (engOfQp q)) fun s => s.qpToInit q)

/-- QP_STATE_RTS (Table 08-2). -/
def execQpStateRts (q : QpId) (s : State) : Res := .next (s.ifReady (.feng (engOfQp q)) fun s => s.qpToRts q)

/-- QP_STATE_RESET (Table 08-2). -/
def execQpStateReset (q : QpId) (s : State) : Res := .next (s.ifReady (.feng (engOfQp q)) fun s => s.qpToReset q)

/-- QP_STATE_ERROR (Table 08-2). -/
def execQpStateError (q : QpId) (s : State) : Res := .next (s.ifReady (.feng (engOfQp q)) fun s => s.qpToError q)

/-- The data QPs of a context go through RESET to RTS and return to the pool (R225). -/
def State.qpsBack (s : State) (p : PartId) (c : MoveCtx) : State :=
  s.each (c.qps p) fun s q =>
    if (s.qp q).st = .error then
      let s := s.qpReset q
      s.setQp q { s.qp q with st := .rts }
    else s

/-- The data QPs of a transfer that has ended early go back once CLOSE is answered and each has been flushed (R225). -/
def State.returnQps (s : State) (p : PartId) : State :=
  s.each (s.mover p).ctxs fun s e =>
    let c := s.ctx p e.1
    if c.state = 5 ∧ c.bound ∧ c.closed ∧ (c.qps p).all (fun q => (s.qp q).st != .error || (s.qp q).flushed) then
      ((s.qpsBack p c).setCtx p e.1 { c with bound := false, closed := false }).qpsFreed p
    else s

/-- The posted WRs of a QP in ERROR that have not completed, in ring order; none while one of them waits for its page. -/
def State.flushWrs (s : State) (q : QpId) : List Nat → Option (List (BitVec 512)) × State
  | [] => (some [], s)
  | i :: t =>
    let rest := fun (w : BitVec 512) (s : State) =>
      match s.flushWrs q t with
      | (some l, s) => (some (w :: l), s)
      | (none, s) => (none, s)
    match (s.qp q).wrs.find? fun w => w.index = i with
    | some w => if w.done then s.flushWrs q t else rest w.wr s
    | none =>
      match s.readWr q i with
      | (.wr w, s) => rest w s
      | (.lost _, s) => rest s.lostWr s.draw
      | (.wait, s) => (none, s)

/-- QP_ERROR_FLUSH_DONE (Table 08-2): every posted WR, then every unused receive entry, completes with QP_FLUSHED in ring
order; the flush has ended once every completion entry is written. -/
def execQpErrorFlushDone (q : QpId) (s : State) : Res :=
  let x := s.qp q
  .next (
    if x.st ≠ .error ∨ x.flushed then s
    else
      let m := 2 ^ (x.sqLog2 + 1)
      match s.flushWrs q ((List.range (ringUsed x.sqLog2 x.sqHead x.sqTail)).map fun k => (x.sqHead + k) % m) with
      | (none, s) => s
      | (some l, s) =>
        let s := s.each l fun s w =>
          let s := s.cqe q (mkCqe (wId w) (wOp w) false 0x26 q 0 (wImm w))
          let s := (s.count (.feng (engOfQp q)) 0x88).send (.qpComplete q (wId w) 0x26)
          if s.isPool q then s.moverDone q (wId w) 0x26 else s
        let open_ := x.rqOpen.map (·.2.1)
        let s := s.each (List.range (ringUsed x.rqLog2 x.rqHead x.rqTail)) fun s k =>
          let i := (x.rqHead + k) % 2 ^ (x.rqLog2 + 1)
          if k < x.rqUsed ∧ i ∉ open_ then s else s.cqe q (mkCqe 0 2 true 0x26 q 0 0)
        let s := s.setQp q { s.qp q with
          sqHead := x.sqTail, nextWr := x.sqTail, regTo := x.sqTail, rqHead := x.rqTail, rqUsed := 0, rqOpen := [], wrs := [],
          rxWaits := [], unplaced := [] }
        let s := (s.drainCq q).disown (.qp q)
        (s.setQp q { s.qp q with flushed := (s.qp q).cqeWait.isEmpty }).returnQps (partOfQp q))

/-- A pointer written through QP_DB: SQ_TAIL and RQ_TAIL take 16 bits (Table 08-13). -/
def State.dbTail (s : State) (q : QpId) (value : Nat) (f : State → State) : State :=
  s.ifReady (.feng (engOfQp q)) fun s => if 65536 ≤ value then s.rsvEnc (.feng (engOfQp q)) else f s

/-- SQ_TAIL takes a value (R183): the engine reads what is posted and registers the held WRs, which a read-back of the page
confirms (R192). -/
def State.sqPost (s : State) (q : QpId) (value : Nat) : State :=
  let x := s.qp q
  let s := s.setQp q { x with
    sqTail := value % 2 ^ (x.sqLog2 + 1), headAt := if x.nextWr = x.sqTail then s.now else x.headAt }
  (s.registerAll q 65536).checkNext q

/-- RQ_TAIL takes a value (R183). -/
def State.rqPost (s : State) (q : QpId) (value : Nat) : State :=
  let x := s.qp q
  (s.setQp q { x with rqTail := value % 2 ^ (x.rqLog2 + 1) }).checkNext q

/-- CQ_HEAD takes a value (R184): a full QP goes on, and a flush ends whose last completion entry this lets be written (Table
08-2). -/
def State.cqFree (s : State) (q : QpId) (value : Nat) : State :=
  let x := s.qp q
  let s := (s.setQp q { x with cqHead := value % 2 ^ (x.cqLog2 + 1) }).drainCq q
  let y := s.qp q
  if y.st = .error ∧ ¬ x.cqeWait.isEmpty ∧ y.cqeWait.isEmpty ∧ y.sqHead = y.sqTail ∧ y.rqHead = y.rqTail ∧ y.wrs.isEmpty then
    (s.setQp q { y with flushed := true }).returnQps (partOfQp q)
  else s

/-- QP_DB_SQ_TAIL (R183). -/
def execQpDbSqTail (q : QpId) (value : Nat) (s : State) : Res :=
  .next (s.dbTail q value fun s => s.sqPost q value)

/-- QP_DB_RQ_TAIL (R183). -/
def execQpDbRqTail (q : QpId) (value : Nat) (s : State) : Res :=
  .next (s.dbTail q value fun s => s.rqPost q value)

/-- QP_DB_CQ_HEAD (R184). -/
def execQpDbCqHead (q : QpId) (value : Nat) (s : State) : Res :=
  .next (s.ifReady (.feng (engOfQp q)) fun s => s.cqFree q value)

/-- Send a QACK with EPSN and the SACK map (R195). -/
def State.qack (s : State) (q : QpId) : State :=
  let x := s.qp q
  (s.setQp q { x with toAck := 0 }).qpRespond q 0xC0
    { status := 0, dstNode := x.remNode, dstQpn := x.remQpn, psn := x.epsn, sack := bits x.rxMap 1 64, payload := [] }

/-- EPSN advances past every PSN received (R194). -/
def Qp.slide (x : Qp) : Nat → Qp
  | 0 => x
  | n + 1 => if bit x.rxMap 0 then { x with rxMap := x.rxMap / 2, epsn := (x.epsn + 1) % 2 ^ 24 }.slide n else x

/-- A PSN lies in the receiver's window or among those whose duplicates it knows (R194). -/
def Qp.recent (x : Qp) (psn : Nat) : Bool := decide (psnAhead x.epsn psn < 256) || decide (psnAhead psn x.epsn ≤ 2 ^ 23)

/-- Mark a PSN received (R194); what is kept by PSN goes once it lies too far behind. -/
def State.received (s : State) (q : QpId) (psn : Nat) : State :=
  let x := s.qp q
  let d := psnAhead x.epsn psn
  let x := { x with
    rxMap := if d < 256 ∧ ¬ bit x.rxMap d then x.rxMap + 2 ^ d else x.rxMap
    ackFrom := if x.toAck = 0 then s.now else x.ackFrom
    toAck := x.toAck + 1 }
  let x := x.slide 256
  s.setQp q { x with lenErr := x.lenErr.filter x.recent, reached := x.reached.filter x.recent }

/-- Shape of a QP packet (check 3 of R157, Table 08-8). -/
def qpShape (op : Nat) (r : QpReq) : Bool :=
  let n := r.payload.length
  r.rsvZero && decide (n ≤ 1024) && decide (n % 8 = 0) && (match op with
  | 0x42 => decide (n = 0 ∧ 8 ≤ r.wrLen ∧ r.wrLen ≤ 1024 ∧ r.wrLen % 8 = 0)
  | 0x44 => decide (n = 0)
  | 0x45 => decide (n = 0)
  | 0x41 => decide (n ≤ r.wrLen)
  | _ => decide (8 ≤ n ∧ n ≤ r.wrLen))

/-- Checks of R157 after check 1 for a QP packet. -/
def State.qpCheck (s : State) (op : Nat) (r : QpReq) : Option Nat :=
  if s.staleEpoch r.srcNode (r.srcQpn.val / 512) r.epoch then some 0x03
  else if op = 0x44 then none
  else if !qpShape op r then some 0x04
  else if op = 0x43 ∨ op = 0x45 then none
  else
    let n := if op = 0x42 then r.wrLen else r.payload.length
    s.checkRegion r.part r.key r.gen (fun g => if op = 0x42 then g.read else g.write) r.offset n

/-- A QP packet arrives (R157 check 1, Table 08-2, R194): what it is to the receiver decides what follows. `dup` serves a
duplicate, `fresh` a packet in the window that passes every check. -/
def State.qpArrive (s : State) (op : Nat) (r : QpReq) (dup fresh : State → State) : State :=
  let q := r.dstQpn
  let x := s.qp q
  let part := fun (p : PartId) => if s.inReset p then some 1 else if s.fenced p then some 2 else none
  match part (partOfQp q), part r.part with
  | some c, _ => s.qnak r c
  | none, some c => s.qnak r c
  | none, none =>
    match x.st with
    | .reset => s.qnak r 0x20
    | .init => s.qnak r 0x20
    | .error => s.qnak r 0x24
    | .rts =>
      if x.remNode ≠ r.srcNode ∨ x.remQpn ≠ r.srcQpn then s.qnak r 0x24
      else
        let d := psnAhead x.epsn r.psn
        if d < 256 ∧ ¬ bit x.rxMap d then
          match s.qpCheck op r with
          | some c => s.qnak r c
          | none => fresh s
        else if d < 256 ∨ 2 ^ 23 ≤ d then dup s
        else s.count (.feng (engOfQp q)) 0xC0

/-- A duplicate is discarded, counted and acknowledged at once (R194). -/
def State.dupPkt (s : State) (q : QpId) : State := (s.count (.feng (engOfQp q)) 0xB8).qack q

/-- A duplicate of a packet with its own answer is answered again once the answer has been given (R416). -/
def State.dupAnswer (s : State) (r : QpReq) (op : Nat) : State :=
  let s := s.dupPkt r.dstQpn
  if (s.qp r.dstQpn).rxWaits.any fun w => w.psn = r.psn then s else s.placeAnswer r.dstQpn op r.psn

/-- The pieces of a packet's data, page by page: offsets and bytes. -/
def dataPieces (off : Nat) (data : List Byte) : List (Nat × List Byte) :=
  if data.isEmpty then [] else (pagesOf off data.length).map (pieceIn off data)

/-- A full page of a replacement commits (R191). -/
def State.commitFull (s : State) (pages : List Nat) : State :=
  s.each pages fun s page =>
    match s.mig page with
    | some m => if m.kind = .replace ∧ 65536 ≤ m.bytes then s.commitMig page m else s
    | none => s

/-- Why the tier controller refuses a piece of a packet's data at acceptance (R194): data that fills a page on its way in, or
whose WR replaces the page, is not refused for POISONED (R135, R191). -/
def State.pieceRefusal (s : State) (q : QpId) (psn off : Nat) (first : Bool) : Option Nat :=
  let page := pageOf off
  if (s.mig page).any (s.fills q psn off) then none
  else if first && (s.leaf page).st == .poisoned && (s.heldOn page).isEmpty then
    if s.migRoom && (s.findHome page false).isNone then some 0x0B else none
  else s.refusal page

/-- Deliver a packet's data to the State Space (R194): refused at acceptance by QNAK, or received and placed piece by piece;
`replace`: its WR replaces each page it covers, which the first packet to reach a POISONED page begins (R191); `more` notes what
waits for its placement. -/
def State.qpDeliver (s : State) (r : QpReq) (off : Nat) (replace : Bool) (more : State → State) : State :=
  let q := r.dstQpn
  let x := s.qp q
  let ps := (dataPieces off r.payload).map fun y => (y, replace && !x.reached.contains (firstPsn r.psn y.1))
  match ps.findSome? fun y => s.pieceRefusal q r.psn y.1.1 y.2 with
  | some c => (s.refuseWrite .fabric off (tierCode c)).qnak r c
  | none =>
    let s := s.received q r.psn
    let s := s.setQp q { s.qp q with
      unplaced := (s.qp q).unplaced ++ ps.map fun y => (r.psn, y.1.1)
      reached := (s.qp q).reached ++ (ps.filter (·.2)).map fun y => firstPsn r.psn y.1.1 }
    let s := more s
    let s := s.each ps fun s y => s.homePiece q r.psn y.1.1 y.1.2 y.2
    (s.commitFull (ps.map fun y => pageOf y.1.1)).answerPlaced q

/-- A WRITE that counts as one write of each whole page it covers (R135): with REPLACE, or a transfer of the State Mover. -/
def State.wholePages (s : State) (op : Nat) (r : QpReq) : Bool :=
  r.replace || (op == 0x40 && !r.prov && s.isPool r.dstQpn && r.wrLen % 65536 == 0 && r.offset % 1024 == 0)

/-- PROV data of a settled epoch (R228). -/
def Qp.stale (x : Qp) (r : QpReq) : Bool :=
  r.prov && bit x.rxSpec 8 && decide ((x.rxSpec % 256 + 256 - r.specEpoch % 256) % 256 ≤ 127)

/-- Note a packet that waits for placement (R187, R416). -/
def State.wait (s : State) (op : Nat) (r : QpReq) : State :=
  let x := s.qp r.dstQpn
  s.setQp r.dstQpn { x with rxWaits := x.rxWaits ++ [{ op := op, psn := r.psn, req := r, done := false }] }

/-- The context of a queue pair that brings rows: the one whose run of data QPs it belongs to, else the pull from its peer
(R214, R221, R227). -/
def State.rxCtxOf (s : State) (q : QpId) : Option (Nat × MoveCtx) :=
  let p := partOfQp q
  let x := s.qp q
  let k := q.val % 512
  let l := (s.mover p).ctxs.filter fun e => decide (2 ≤ e.2.state) && decide (e.2.state ≤ 4)
  match l.find? fun e => e.2.kind == 1 && decide (e.2.qpFirst ≤ k ∧ k ≤ e.2.qpFirst + e.2.stripesM1) with
  | some e => some e
  | none => l.find? fun e => e.2.kind == 4 && !e.2.copyRun && e.2.peerNode == x.remNode && e.2.peerPart == x.remPart

/-- A packet with data that is written to its GFA: QWRITE, QWRITE_TRIG (R194, R228). -/
def State.qpWrite (s : State) (op : Nat) (r : QpReq) (answers : Bool) : State :=
  s.qpArrive op r (fun s => if answers then s.dupAnswer r 0xC2 else s.dupPkt r.dstQpn) fun s =>
    let more := fun (s : State) => if answers then s.wait op r else s
    if (s.qp r.dstQpn).stale r then
      let s := (s.received r.dstQpn r.psn).count (.move (partOfQp r.dstQpn)) 0xD8
      (more s).answerPlaced r.dstQpn
    else
      let t := s.qpDeliver r r.offset (s.wholePages op r) more
      match if r.prov ∧ (t.qp r.dstQpn).got r.psn then t.rxCtxOf r.dstQpn else none with
      | some (i, _) => t.tagRows (partOfQp r.dstQpn) i r.specEpoch r.offset r.payload.length
      | none => t

/-- QWRITE (R194): the last packet of a WRITE with PLACE waits for its placement. -/
def execQwrite (r : QpReq) (s : State) : Res := .next (s.qpWrite 0x40 r (r.last && r.place))

/-- QWRITE_TRIG (R187): the last packet waits for placement to take effect. -/
def execQwriteTrig (r : QpReq) (s : State) : Res := .next (s.qpWrite 0x41 r r.last)

/-- QREAD_REQ (R189): accepted and served, at once or after its pages' way; a duplicate is checked and served again. -/
def execQreadReq (r : QpReq) (s : State) : Res :=
  let accept := fun (mark : Bool) (s : State) =>
    let ps := piecesOf r.offset r.wrLen
    let s := s.each ps fun s x => s.note (pageOf x.1)
    match ps.findSome? fun x => s.readRefusal (pageOf x.1) with
    | some c => (if c = 0x0A then s.count .tier 0x88 else s.refuseWrite .fabric r.offset (tierCode c)).qnak r c
    | none => (if mark then s.received r.dstQpn r.psn else s).serveQread r
  .next (s.qpArrive 0x42 r
    (fun s => match s.qpCheck 0x42 r with
      | some c => s.qnak r c
      | none => accept false s)
    (accept true))

/-- QSEND (R188): placed into the next receive entry, or answered with RNR or LENGTH_ERR; `message` takes what has arrived on a
control QP (R212). -/
def State.qsend (s : State) (r : QpReq) (message : State → QpId → List Byte → State) : State :=
  let q := r.dstQpn
  let first := (r.psn + 2 ^ 24 - r.offset / 1024 % 2 ^ 24) % 2 ^ 24
  let lenErr := fun (s : State) => (s.received q r.psn).qnak r 0x23
  s.qpArrive 0x43 r
    (fun s => if first ∈ (s.qp q).lenErr then (s.dupPkt q).qnak r 0x23 else s.dupPkt q)
    fun s =>
      let x := s.qp q
      if x.cqFull ∨ ¬ x.cqeWait.isEmpty then s.qnak r 0x20
      else if first ∈ x.lenErr then lenErr s
      else
        let entryAt := fun (i : Nat) => x.rqBase + i % 2 ^ x.rqLog2 * 16
        let place := fun (s : State) (addr i got : Nat) =>
          s.qpDeliver r (addr + r.offset) false fun s =>
            let y := s.qp q
            let total := got + r.payload.length
            let rest := y.rqOpen.filter fun o => o.1 ≠ first
            let y := { y with rqUsed := if got = 0 then y.rqUsed + 1 else y.rqUsed }
            if total < r.wrLen then s.setQp q { y with rqOpen := rest ++ [(first, i, total, addr)] }
            else
              let s := (s.setQp q { y with rqOpen := rest }).cqe q (mkCqe 0 2 true 0 q r.wrLen r.imm) (some i)
              if s.isControl q then
                (message s q (r.payload ++ s.rd (addr + r.payload.length) (64 - r.payload.length))).postRecv q addr
              else s
        match x.rqOpen.find? (fun o => o.1 = first) with
        | some o => place s o.2.2.2 o.2.1 o.2.2.1
        | none =>
          if x.rqLog2 = 0 ∨ ringUsed x.rqLog2 x.rqHead x.rqTail ≤ x.rqUsed then s.qnak r 0x20
          else
            let i := (x.rqHead + x.rqUsed) % 2 ^ (x.rqLog2 + 1)
            match s.ownRead (.qp q) (entryAt i) 16 with
            | (.data, s) =>
              if s.rdNat (entryAt i + 8) 4 < r.wrLen then
                let s := lenErr (s.setQp q { s.qp q with rqUsed := x.rqUsed + 1, lenErr := first :: x.lenErr })
                s.cqe q (mkCqe 0 2 true 0x23 q 0 r.imm) (some i)
              else place s (s.rdNat (entryAt i) 8 % 2 ^ 47) i 0
            | (.wait, s) => s.qnak r 0x20
            | (o, s) => s.qnak r (ownCode o)

/-- QFLUSH (R186): waits for every lower PSN to be placed. -/
def execQflush (r : QpReq) (s : State) : Res :=
  .next (s.qpArrive 0x44 r (fun s => s.dupAnswer r 0xC3) fun s => (s.received r.dstQpn r.psn).wait 0x44 r)

/-- QCANCEL (R190): waits for every lower PSN to be placed. -/
def execQcancel (r : QpReq) (s : State) : Res :=
  .next (s.qpArrive 0x45 r (fun s => s.dupAnswer r 0xC2) fun s => (s.received r.dstQpn r.psn).wait 0x45 r)

/-- What waits for placement under an opcode and PSN. -/
def Qp.waiting (x : Qp) (op psn : Nat) : Option RxWait := x.rxWaits.find? fun w => w.op = op ∧ w.psn = psn ∧ ¬ w.done

def State.dropWait (s : State) (q : QpId) (w : RxWait) : State :=
  let x := s.qp q
  s.setQp q { x with rxWaits := x.rxWaits.erase w }

/-- WRITE_TRIGGER_EFFECT (R187): its bytes and all earlier ones are placed: a completion entry with IMM, FIRE_TAG on both
engines, then QPLACE_ACK; on a pool QP the mover's attach comes first (R216). -/
def execWriteTriggerEffect (q : QpId) (psn : Nat) (s : State) : Res :=
  let x := s.qp q
  .next (match x.waiting 0x41 psn with
    | none => s
    | some w =>
      if x.placedBelow psn ∧ x.placedRange psn 1 ∧ ¬ x.cqFull ∧ x.cqeWait.isEmpty then
        let s := s.cqe q (mkCqe 0 3 true 0 q w.req.wrLen w.req.imm)
        let s := s.trigEvent (partOfQp q) 0 w.req.fireTag
        if s.isPool q then
          let y := s.qp q
          let s := s.setQp q { y with rxWaits := y.rxWaits.map fun v => if v = w then { v with done := true } else v }
          let m := s.mover (partOfQp q)
          s.setMover (partOfQp q) { m with attaching := m.attaching ++ [(q.val, psn)] }
        else (s.dropWait q w).placeAnswer q 0xC2 psn
      else s)

/-- QFLUSH_ANSWER (R186): all lower PSNs are placed. -/
def execQflushAnswer (q : QpId) (psn : Nat) (s : State) : Res :=
  let x := s.qp q
  .next (match x.waiting 0x44 psn with
    | none => s
    | some w => if x.placedBelow psn then (s.dropWait q w).placeAnswer q 0xC3 psn else s)

/-- KV_LEN of a receiving context: tokens held, provisional ones included (Table 09-1), and those its request has added since. -/
def State.ctxKv (s : State) (c : MoveCtx) : Nat :=
  match s.convs.find? fun v => v.reqId = c.reqId with
  | some v => max c.kvLen (s.residentKv v)
  | none => c.kvLen

/-- CANCEL_APPLY (R190, R227): once every lower PSN is placed. -/
def execCancelApply (q : QpId) (psn : Nat) (s : State) : Res :=
  let x := s.qp q
  let p := partOfQp q
  .next (match x.waiting 0x45 psn with
    | none => s
    | some w =>
      if x.placedBelow psn then
        let s := match s.rxCtxOf q with
          | none => s
          | some (i, c) =>
            let kv := s.ctxKv c
            let s := if kv < w.req.imm then s.count (.move p) 0xD0 else s
            (s.keepRows c (s.kvShape c) (min w.req.imm kv)).setCtx p i { c with kvLen := min w.req.imm kv }
        let s := (s.count (.move p) 0xC8).setQp q { s.qp q with rxSpec := w.req.specEpoch % 256 + 256 }
        (s.dropWait q w).placeAnswer q 0xC2 psn
      else s)

/-- UNA_PSN advances past what is acknowledged (R194, R195). -/
def Qp.slideTx (x : Qp) : Nat → Qp
  | 0 => x
  | n + 1 => if bit x.txMap 0 then { x with txMap := x.txMap / 2, unaPsn := (x.unaPsn + 1) % 2 ^ 24 }.slideTx n else x

/-- PSNs are acknowledged: the map, UNA_PSN, and progress when it advances (R195). -/
def State.ackPsns (s : State) (q : QpId) (l : List Nat) : State :=
  let x := s.qp q
  let map := l.foldl (fun m psn =>
    let d := psnAhead x.unaPsn psn
    if d < psnAhead x.unaPsn x.nextPsn ∧ ¬ bit m d then m + 2 ^ d else m) x.txMap
  let y := { x with txMap := map }.slideTx 256
  s.setQp q (if y.unaPsn = x.unaPsn then y else { y with rounds := 0, progressAt := s.now })

/-- After an acknowledgement or answer: WRs complete, the window moves on, a malformed WR next shows (R183, R194). -/
def State.sendOn (s : State) (q : QpId) : State := ((s.retire q).pump q 256).checkNext q

/-- QACK (R195): EPSN and SACK acknowledge every PSN but those of reads. -/
def execQack (r : QpResp) (s : State) : Res :=
  let q := r.dstQpn
  let x := s.qp q
  let sent := psnAhead x.unaPsn x.nextPsn
  let l := (List.range (min sent 256)).map fun i => (x.unaPsn + i) % 2 ^ 24
  let isRead := fun psn => (x.wrAt psn).any fun w => wOp w.wr = 1
  let acked := fun psn =>
    let d := psnAhead r.psn psn
    decide (2 ^ 23 ≤ d) || (decide (1 ≤ d ∧ d ≤ 64) && bit r.sack (d - 1))
  .next (if x.st ≠ .rts then s else (s.ackPsns q (l.filter fun p => acked p && !isRead p)).sendOn q)

/-- QREAD_RESP (R189): its PSN is acknowledged and its data is written locally, or held there like any write (R131); a write
that the tier controller refuses fails the WR. -/
def execQreadResp (r : QpResp) (s : State) : Res :=
  let q := r.dstQpn
  let x := s.qp q
  .next (
    if x.st ≠ .rts then s
    else
      match x.wrAt r.psn with
      | none => s
      | some w =>
        if wOp w.wr = 1 ∧ ¬ x.acked r.psn then
          let s := s.each (dataPieces (wLocal w.wr + 1024 * psnAhead w.psn r.psn) r.payload) fun s y =>
            s.tierWrite (.qp q) y.1 y.2 true
          (s.ackPsns q [r.psn]).sendOn q
        else s)

/-- An awaited answer arrives (R195, R416): progress; the WR completes, or fails with a later refusal. -/
def State.answer (s : State) (r : QpResp) (kind : Nat) (mine : OpenWr → Bool) : State :=
  let q := r.dstQpn
  let x := s.qp q
  if x.st ≠ .rts then s
  else
    match x.wrs.find? (fun w => mine w && !w.answered && (w.psn + w.packets - 1) % 2 ^ 24 == r.psn) with
    | none => s
    | some w =>
      let s := s.journal (engOfQp q) kind r.status x.remNode x.remPart.val q.val (wId w.wr) r.psn
      let s := s.setQp q { x with
        wrs := x.wrs.map fun y => if y.index = w.index then { y with answered := true } else y
        rounds := 0, progressAt := s.now }
      let s := s.ackPsns q ((List.range (min w.packets 256)).map fun i => (w.psn + w.packets - 1 - i) % 2 ^ 24)
      if r.status = 0 then s.sendOn q else s.wrFail q w r.status

/-- QPLACE_ACK (R416). -/
def execQplaceAck (r : QpResp) (s : State) : Res := .next (s.answer r 3 fun w => wOp w.wr != 4)

/-- QFLUSH_RESP (R186). -/
def execQflushResp (r : QpResp) (s : State) : Res := .next (s.answer r 4 fun w => wOp w.wr == 4)

/-- QNAK (R188, R195): RNR starts a wait, LENGTH_ERR completes the SEND, any other code fails the WR. -/
def execQnak (r : QpResp) (s : State) : Res :=
  let q := r.dstQpn
  let e := engOfQp q
  let x := s.qp q
  .next (
    if x.st ≠ .rts then s
    else
      match x.wrAt r.psn with
      | none => s
      | some w =>
        if r.status = 0x20 then
          let s := s.count (.feng e) 0xC8
          s.setQp q { x with
            rnrAt := some (x.rnrAt.getD s.now), rounds := 0, progressAt := s.now
            wrs := x.wrs.map fun y => if y.index = w.index then { y with rnrHit := true } else y }
        else if r.status = 0x23 then
          let s := s.ackPsns q [r.psn]
          (if w.done then s else s.wrDone q w 0x23).sendOn q
        else if w.done then s
        else
          let s := if (wOp w.wr = 0 ∧ wPlace w.wr) ∨ 3 ≤ wOp w.wr then
              s.journal e 5 r.status x.remNode x.remPart.val q.val (wId w.wr) r.psn
            else s
          s.wrFail q w r.status)

/-- QACK_TIMER (R195). -/
def execQackTimer (q : QpId) (s : State) : Res :=
  let x := s.qp q
  .next (if x.toAck ≠ 0 ∧ (16 ≤ x.toAck ∨ x.ackFrom + 1000 ≤ s.now) then s.qack q else s)

/-- Send a packet of a WR again, unless the QP has left RTS. -/
def State.resend (s : State) (q : QpId) (psn : Nat) (round : Bool) : State :=
  match if (s.qp q).st = .rts then (s.qp q).wrAt psn else none with
  | none => s
  | some w =>
    match s.sendPacket q w (psnAhead w.psn psn) true with
    | (0, s) => if round then s.count (.feng (engOfQp q)) 0xB0 else s
    | (_, s) => s

/-- PSNs sent and not acknowledged. -/
def Qp.unacked (x : Qp) : List Nat :=
  ((List.range (min (psnAhead x.unaPsn x.nextPsn) 256)).map fun i => (x.unaPsn + i) % 2 ^ 24).filter fun p => !x.acked p

/-- The last PSN of a WR. -/
def OpenWr.last (w : OpenWr) : Nat := (w.psn + w.packets - 1) % 2 ^ 24

/-- A packet of a WR has been sent. -/
def Qp.sent (x : Qp) (psn : Nat) : Bool :=
  decide (psnAhead x.unaPsn psn < psnAhead x.unaPsn x.nextPsn) || decide (2 ^ 23 ≤ psnAhead x.unaPsn psn)

/-- Packets acknowledged whose own answer is missing (R416). -/
def Qp.unanswered (x : Qp) : List Nat :=
  (x.wrs.filter fun w => !w.done && !w.answered && decide (w.packets ≠ 0) &&
      (decide (3 ≤ wOp w.wr) || (decide (wOp w.wr = 0) && wPlace w.wr)) && x.sent w.last && x.acked w.last).map (·.last)

/-- RETRANSMIT_TIMEOUT (R195, R416): ACK_TO_LOG2 passes without progress: a round, or after RETRY_LIMIT rounds the oldest
WR fails with RETRY_EXCEEDED. -/
def execRetransmitTimeout (q : QpId) (s : State) : Res :=
  let x := s.qp q
  let l := x.unacked ++ x.unanswered
  .next (
    if x.st ≠ .rts ∨ l.isEmpty ∨ s.now < x.progressAt + 2 ^ x.ackTo * 1000 ∨ x.rnrAt.isSome then s
    else if x.retryLimit ≤ x.rounds then
      match l.findSome? x.wrAt with
      | some w => s.wrFail q w 0x22
      | none => s
    else (s.setQp q { x with rounds := x.rounds + 1, progressAt := s.now }).each l fun s p => s.resend q p true)

/-- RNR_RETRY_TIMER (R188): RNR_US after an RNR QNAK the WR it named is sent again, up to RNR_LIMIT times. -/
def execRnrRetryTimer (q : QpId) (s : State) : Res :=
  let x := s.qp q
  .next (match x.rnrAt with
    | none => s
    | some t =>
      if s.now < t + x.rnrUs * 1000 then s
      else
        match x.wrs.find? fun w => w.rnrHit && !w.done && decide (x.rnrLimit ≠ 15 ∧ x.rnrLimit ≤ w.rnr) with
        | some w => (s.setQp q { x with rnrAt := none }).wrFail q w 0x21
        | none =>
          let again := x.unacked.filter fun p => (x.wrAt p).any (·.rnrHit)
          let s := s.setQp q { x with
            rnrAt := none, progressAt := s.now
            wrs := x.wrs.map fun y => if y.rnrHit then { y with rnr := y.rnr + 1, rnrHit := false } else y }
          s.each again fun s p => s.resend q p false)

/-- Entry bytes of the region table (Table 07-2). -/
def rgnBytes (g : Region) : Nat :=
  g.valid.toNat + 2 * g.read.toNat + 4 * g.write.toNat + 8 * g.atomic.toNat + 16 * g.cacheOk.toNat + 32 * g.window.toNat +
    g.gen * 2 ^ 16 + g.keyCheck * 2 ^ 32 + g.base * 2 ^ 64 + g.lenM1 * 2 ^ 128 + g.rgFirst * 2 ^ 192 + g.rgCount * 2 ^ 208

/-- An entry from its bytes. -/
def rgnOfBytes (v : Nat) : Region :=
  { valid := bit v 0, read := bit v 1, write := bit v 2, atomic := bit v 3, cacheOk := bit v 4, window := bit v 5,
    gen := bits v 16 16, keyCheck := bits v 32 20, base := bits v 64 47 / 64 * 64, lenM1 := bits v 128 47,
    rgFirst := bits v 192 12, rgCount := min 4096 (bits v 208 13) }

/-- A region command starts, or is refused while one runs (R197). -/
def State.rgnCmd (s : State) (p : PartId) (op index : Nat) (f : State → State) : State :=
  let e := engOf p 0
  let pg := Page.feng e
  s.ifReady pg fun s =>
    if s.flag pg Reg.RGN_CMD_BUSY then s.err pg 0x02
    else
      let s := ((s.setFld pg Reg.RGN_CMD_INDEX index).setFld pg Reg.RGN_CMD_OP op).setFld pg Reg.RGN_CMD_BUSY 1
      f (s.setEng e { s.eng e with rgn := some { op := op, index := index, start := s.now } })

/-- RGN_CMD_WRITE (R156, R197): the entry from RGN_DATA as one update. -/
def execRgnCmdWrite (p : PartId) (index : Fin 4096) (s : State) : Res :=
  let pg := Page.feng (engOf p 0)
  .next (s.rgnCmd p 0 index.val fun s => s.setRgn p index.val (rgnOfBytes (s.words (pg.base + 0x160) 8)))

/-- RGN_CMD_READ (R197): RGN_DATA takes the entry. -/
def execRgnCmdRead (p : PartId) (index : Fin 4096) (s : State) : Res :=
  let pg := Page.feng (engOf p 0)
  .next (s.rgnCmd p 1 index.val fun s => s.setWords (pg.base + 0x160) 8 (rgnBytes (s.rgn p index.val)))

/-- RGN_CMD_REVOKE (R197): a window's GEN goes up, or REVOKE_BAD. -/
def execRgnCmdRevoke (p : PartId) (index : Fin 4096) (s : State) : Res :=
  .next (s.rgnCmd p 2 index.val fun s =>
    let g := s.rgn p index.val
    if g.valid ∧ g.window then s.setRgn p index.val { g with gen := (g.gen + 1) % 65536 }
    else s.err (.feng (engOf p 0)) 0x01)

/-- RGN_CMD_COMPLETE (R197): 2 µs after GO for REVOKE, within 0.1 µs for the others. -/
def execRgnCmdComplete (p : PartId) (s : State) : Res :=
  let e := engOf p 0
  .next (match (s.eng e).rgn with
    | none => s
    | some c =>
      if c.op = 2 ∧ s.now < c.start + 2000 then s
      else (s.setEng e { s.eng e with rgn := none }).setFld (.feng e) Reg.RGN_CMD_BUSY 0)

end Sys2Proof.Machine
end

