-- ==== Sys2Proof/Machine/Closing.lean ====
section
/-! DEFINITION. Transfers that end early, and the requests that end with them (R24, R225, R232, R271). -/

namespace Sys2Proof.Machine
open Sys2Proof

/-- A transfer ends early at the mover that ends it (R225): CLOSE with the code, data QPs to ERROR, the context FAILED. The
QPs stay bound until CLOSE_ACK. -/
def State.closeTx (s : State) (p : PartId) (i code : Nat) : State :=
  let c := s.ctx p i
  let s := s.moverSend p 6 c.peerNode c.peerPart { blankMsg i (if c.kind = 4 then c.askId else c.reqId) with status := code }
  let s := if c.bound then s.qpsError p c else s
  let s := if c.kind = 2 then s.unpark c else s
  let s := s.failCtx p i code
  s.setCtx p i { s.ctx p i with bound := c.bound }

/-- The transfers a request has open on this device end early (R225): its pushes, its conversation's park, its pull. The
code CLOSE carries is free: no rule names one for these ends. -/
def State.closeAll (s : State) (reqId : Nat) : State :=
  let ids := match s.convOfReq reqId with
    | some v => [reqId, v.reqId]
    | none => [reqId]
  let code := s.freeNat 8
  (s.each allParts fun s p =>
    s.each (s.mover p).ctxs fun s e =>
      let c := e.2
      if ids.contains c.reqId ∧ (c.kind = 0 ∨ c.kind = 2 ∨ c.kind = 4) ∧ 1 ≤ c.state ∧ c.state ≤ 3 then s.closeTx p e.1 code
      else s).draw

/-- A request ends before its time, with the transfers it has open (R24, R225, R232, R271). -/
def State.abortReq (s : State) (id status detail : Nat) : State :=
  match s.req id with
  | none => s
  | some r => if r.endStatus.isSome then s else (s.closeAll id).endReq id status detail

end Sys2Proof.Machine
end

