-- ==== Sys2Proof/Machine/Hash.lean ====
section
/-! DEFINITION. The public hash functions the spec names: SHA-384 (R241, R326, R354) and CRC-32 (R366). -/

namespace Sys2Proof.Machine
open Sys2Proof

/-- Round constants of SHA-384, ten rows of eight. -/
def shaK : List (List Nat) :=
  [[0x428a2f98d728ae22, 0x7137449123ef65cd, 0xb5c0fbcfec4d3b2f, 0xe9b5dba58189dbbc,
    0x3956c25bf348b538, 0x59f111f1b605d019, 0x923f82a4af194f9b, 0xab1c5ed5da6d8118],
   [0xd807aa98a3030242, 0x12835b0145706fbe, 0x243185be4ee4b28c, 0x550c7dc3d5ffb4e2,
    0x72be5d74f27b896f, 0x80deb1fe3b1696b1, 0x9bdc06a725c71235, 0xc19bf174cf692694],
   [0xe49b69c19ef14ad2, 0xefbe4786384f25e3, 0x0fc19dc68b8cd5b5, 0x240ca1cc77ac9c65,
    0x2de92c6f592b0275, 0x4a7484aa6ea6e483, 0x5cb0a9dcbd41fbd4, 0x76f988da831153b5],
   [0x983e5152ee66dfab, 0xa831c66d2db43210, 0xb00327c898fb213f, 0xbf597fc7beef0ee4,
    0xc6e00bf33da88fc2, 0xd5a79147930aa725, 0x06ca6351e003826f, 0x142929670a0e6e70],
   [0x27b70a8546d22ffc, 0x2e1b21385c26c926, 0x4d2c6dfc5ac42aed, 0x53380d139d95b3df,
    0x650a73548baf63de, 0x766a0abb3c77b2a8, 0x81c2c92e47edaee6, 0x92722c851482353b],
   [0xa2bfe8a14cf10364, 0xa81a664bbc423001, 0xc24b8b70d0f89791, 0xc76c51a30654be30,
    0xd192e819d6ef5218, 0xd69906245565a910, 0xf40e35855771202a, 0x106aa07032bbd1b8],
   [0x19a4c116b8d2d0c8, 0x1e376c085141ab53, 0x2748774cdf8eeb99, 0x34b0bcb5e19b48a8,
    0x391c0cb3c5c95a63, 0x4ed8aa4ae3418acb, 0x5b9cca4f7763e373, 0x682e6ff3d6b2b8a3],
   [0x748f82ee5defb2fc, 0x78a5636f43172f60, 0x84c87814a1f0ab72, 0x8cc702081a6439ec,
    0x90befffa23631e28, 0xa4506cebde82bde9, 0xbef9a3f7b2c67915, 0xc67178f2e372532b],
   [0xca273eceea26619c, 0xd186b8c721c0c207, 0xeada7dd6cde0eb1e, 0xf57d4f7fee6ed178,
    0x06f067aa72176fba, 0x0a637dc5a2c898a6, 0x113f9804bef90dae, 0x1b710b35131c471b],
   [0x28db77f523047d84, 0x32caab7b40c72493, 0x3c9ebe0a15c9bebc, 0x431d67c49c100d4c,
    0x4cc5d4becb3e42b6, 0x597f299cfc657e2a, 0x5fcb6fab3ad6faec, 0x6c44198c4a475817]]

/-- Initial hash words of SHA-384. -/
def shaH : List (BitVec 64) :=
  [0xcbbb9d5dc1059ed8, 0x629a292a367cd507, 0x9159015a3070dd17, 0x152fecd8f70e5939,
   0x67332667ffc00b31, 0x8eb44a8768581511, 0xdb0c2e0d64f98fa7, 0x47b5481dbefa4fa4]

/-- One message word further: the newest 16 words, the newest first. -/
def shaExtend (w : List (BitVec 64)) : List (BitVec 64) :=
  match w[14]?, w[1]?, w[6]?, w[15]? with
  | some w15, some w2, some w7, some w16 =>
    let s0 := w15.rotateRight 1 ^^^ w15.rotateRight 8 ^^^ (w15 >>> 7)
    let s1 := w2.rotateRight 19 ^^^ w2.rotateRight 61 ^^^ (w2 >>> 6)
    (s1 + w7 + s0 + w16) :: w.take 15
  | _, _, _, _ => w

/-- One round on the eight working words. -/
def shaRound (v : List (BitVec 64)) (k w : BitVec 64) : List (BitVec 64) :=
  match v with
  | [a, b, c, d, e, f, g, h] =>
    let s1 := e.rotateRight 14 ^^^ e.rotateRight 18 ^^^ e.rotateRight 41
    let t1 := h + s1 + ((e &&& f) ^^^ (~~~e &&& g)) + k + w
    let s0 := a.rotateRight 28 ^^^ a.rotateRight 34 ^^^ a.rotateRight 39
    let t2 := s0 + ((a &&& b) ^^^ (a &&& c) ^^^ (b &&& c))
    [t1 + t2, a, b, c, d + t1, e, f, g]
  | _ => v

/-- The 80 message words of a block of 16. -/
def shaSchedule : Nat → List (BitVec 64) → List (BitVec 64)
  | 0, _ => []
  | n + 1, w =>
    let x := shaExtend w
    x.headD 0 :: shaSchedule n x

/-- A block of 128 bytes into the hash words. -/
def shaBlock (h : List (BitVec 64)) (b : List Byte) : List (BitVec 64) :=
  let w := (List.range 16).map fun i =>
    BitVec.ofNat 64 ((List.range 8).foldl (fun a j => a * 256 + (b.getD (8 * i + j) 0).toNat) 0)
  let words := w ++ shaSchedule 64 w.reverse
  let v := (List.zip shaK.flatten words).foldl (fun v kw => shaRound v (BitVec.ofNat 64 kw.1) kw.2) h
  List.zipWith (· + ·) h v

/-- The padded message's blocks. -/
def shaBlocks : Nat → List Byte → List (BitVec 64) → List (BitVec 64)
  | 0, _, h => h
  | n + 1, l, h => shaBlocks n (l.drop 128) (shaBlock h (l.take 128))

/-- SHA-384: 48 bytes. -/
def sha384 (m : List Byte) : List Byte :=
  let n := m.length
  let zeros := (240 - (n + 1) % 128) % 128
  let l := List.flatten [m, [0x80], List.replicate zeros 0, (bytesOfNat 16 (8 * n)).reverse]
  let h := shaBlocks (l.length / 128) l shaH
  (h.take 6).flatMap fun x => (bytesOfNat 8 x.toNat).reverse

/-- CRC-32 of IEEE 802.3. -/
def crc32 (m : List Byte) : Word :=
  ~~~(m.foldl (fun (c : Word) b =>
    (List.range 8).foldl (fun (c : Word) _ => (c >>> 1) ^^^ (if c.getLsbD 0 then 0xEDB88320 else 0)) (c ^^^ b.zeroExtend 32))
    0xFFFFFFFF)

/-- The field prime, order, coefficient b and base point of the curve P-384 (FIPS 186-5). -/
def p384P : Nat := 2 ^ 384 - 2 ^ 128 - 2 ^ 96 + 2 ^ 32 - 1
def p384N : Nat :=
  0xffffffffffffffffffffffffffffffffffffffffffffffffc7634d81f4372ddf581a0db248b0a77aecec196accc52973
def p384B : Nat :=
  0xb3312fa7e23ee7e4988e056be3f82d19181d9c6efe8141120314088f5013875ac656398d8a2ed19d2a85c8edd3ec2aef
def p384G : Nat × Nat :=
  (0xaa87ca22be8b05378eb1c71ef320ad746e1d3b628ba79b9859f741e082542a385502f25dbf55296c3a545e3872760ab7,
   0x3617de4a96262c6f5d9e98bf9292dc29f8f41dbd289a147ce9da3113b5f0b8c00a60b1ce1d7e819d7a431d7c90ea0e5f)

/-- b to the power of the number whose bits are listed, the lowest first, modulo m. -/
def powMod (m : Nat) : List Bool → Nat → Nat → Nat
  | [], _, acc => acc
  | x :: t, b, acc => powMod m t (b * b % m) (if x then acc * b % m else acc)

/-- The inverse modulo a prime m of at most 384 bits. -/
def invMod (m a : Nat) : Nat := powMod m ((List.range 384).map (bit (m - 2))) (a % m) 1

/-- The sum of two points of P-384; none: the point at infinity. -/
def ecAdd : Option (Nat × Nat) → Option (Nat × Nat) → Option (Nat × Nat)
  | none, q => q
  | p, none => p
  | some (x1, y1), some (x2, y2) =>
    let m := p384P
    if x1 = x2 ∧ (y1 + y2) % m = 0 then none
    else
      let l := if x1 = x2 then (3 * x1 * x1 + m - 3) * invMod m (2 * y1) % m
        else (y2 + m - y1) * invMod m (x2 + m - x1) % m
      let x := (l * l + 2 * m - x1 - x2) % m
      some (x, (l * (x1 + m - x) + m - y1) % m)

/-- k times a point, by the bits of k, the highest first. -/
def ecMul (p : Option (Nat × Nat)) : List Bool → Option (Nat × Nat) → Option (Nat × Nat)
  | [], acc => acc
  | b :: t, acc =>
    let d := ecAdd acc acc
    ecMul p t (if b then ecAdd d p else d)

/-- A big-endian number. -/
def natBE (l : List Byte) : Nat := l.foldl (fun a b => a * 256 + b.toNat) 0

/-- The ECDSA signature check on P-384 with SHA-384 (FIPS 186-5): 96 bytes of key, 96 of signature. -/
def ecdsaOk (key sig msg : List Byte) : Bool :=
  let x := natBE (key.take 48)
  let y := natBE ((key.drop 48).take 48)
  let r := natBE (sig.take 48)
  let v := natBE ((sig.drop 48).take 48)
  let onCurve := decide (x < p384P ∧ y < p384P ∧ y * y % p384P = (x * x * x + (p384P - 3) * x + p384B) % p384P)
  if ¬ onCurve ∨ r = 0 ∨ p384N ≤ r ∨ v = 0 ∨ p384N ≤ v then false
  else
    let w := invMod p384N v
    let hi := fun k => (List.range 384).reverse.map (bit k)
    let a := ecMul (some p384G) (hi (natBE (sha384 msg) * w % p384N)) none
    let b := ecMul (some (x, y)) (hi (r * w % p384N)) none
    match ecAdd a b with
    | none => false
    | some (c, _) => c % p384N == r

end Sys2Proof.Machine
end

