-- ==== Sys2Proof/Machine/Digest.lean ====
section
/-! DEFINITION. Weight digests: passes, exchanges, member states (R326 to R328). -/

namespace Sys2Proof.Machine
open Sys2Proof

/-- Region k's bookkeeping. -/
def State.dig (s : State) (k : Nat) : DigRegion := Map.get {} s.digs k

def State.setDig (s : State) (k : Nat) (d : DigRegion) : State := { s with digs := Map.set {} s.digs k d }

/-- The NODE, REGION and VALID fields of member j, in one word each (Table 14-10). -/
def State.digMember (s : State) (k j : Nat) : Nat := (s.word (Page.base .dig + 0x400 + k * 0x80 + 0x40 + j * 4)).toNat

/-- VALID members of a region: node and region. -/
def State.digMembers (s : State) (k : Nat) : List (Nat × Nat) :=
  (List.range 8).filterMap fun j =>
    let w := s.digMember k j
    if bit w 16 then some (bits w 0 12, bits w 12 4) else none

/-- The digest of n blocks from block b up (R326). -/
def State.digSum (s : State) (base : Nat) : Nat → Nat → Nat
  | _, 0 => 0
  | b, n + 1 =>
    (natOfBytes ((sha384 (bytesOfNat 8 (b * 512) ++ s.rd (base + b * 512) 512)).take 16) + s.digSum base (b + 1) n) %
      2 ^ 128

/-- A sealed region is hashed: its digest as its bytes stand. -/
def State.digValue (s : State) (k : Nat) : Nat :=
  s.digSum (s.fldAddr .dig Reg.DIG_REGION_BASE_LO Reg.DIG_REGION_BASE_HI k) 0 (s.fld .dig Reg.DIG_REGION_LEN_PAGES k * 128)

/-- The region's own digest, where it has a clean one. -/
def State.digOwn (s : State) (k : Nat) : Option (BitVec 128) :=
  if (s.dig k).clean then some (BitVec.ofNat 128 (s.fld .dig Reg.DIG_REGION_DIGEST k)) else none

/-- What DIG sends of a region to a node (R320, R327). -/
def State.digMsg (s : State) (k node : Nat) : DigestMsg :=
  { hdr := s.qhdr node, region := Fin.ofNat 16 k, group := s.fld .dig Reg.DIG_REGION_GROUP k,
    contentId := s.fld .dig Reg.DIG_REGION_CONTENT_ID k, digest := s.digOwn k,
    mstate := Fin.ofNat 4 (s.fld .dig Reg.DIG_REGION_MSTATE k),
    partMask := BitVec.ofNat 32 (s.fld .dig Reg.DIG_REGION_PART_MASK k) }

/-- The comparable members, itself apart (R327): same CONTENT_ID, a clean digest. -/
def State.digPeers (s : State) (k : Nat) : List (DigestMsg × BitVec 128) :=
  (s.dig k).members.filterMap fun m =>
    match m.digest with
    | some d =>
      if m.contentId = s.fld .dig Reg.DIG_REGION_CONTENT_ID k ∧ m.group = s.fld .dig Reg.DIG_REGION_GROUP k ∧
          (m.hdr.src, m.region.val) ∈ s.digMembers k then some (m, d) else none
    | none => none

/-- A digest that more than half of the list hold (R328). -/
def majority (l : List (BitVec 128)) : Option (BitVec 128) := l.find? fun d => decide (l.length < 2 * l.count d)

/-- A member is expelled (Table 14-6): its partitions are fenced with cause EXPEL and a DIGEST record names the member
that disagrees. -/
def State.expel (s : State) (k other : Nat) : State :=
  let s := (s.setFld .dig Reg.DIG_REGION_MSTATE 1 k).err .dig 0x01
  let s := s.irq .dig 0
  let syn := List.flatten
    [[0x07, BitVec.ofNat 8 k], bytesOfNat 2 (s.fld .dig Reg.DIG_REGION_GROUP k), bytesOfNat 2 other, [0, 0],
     bytesOfNat 16 (s.fld .dig Reg.DIG_REGION_DIGEST k)]
  let s := s.record .dig { severity := 2, code := 0x01, syn := syn }
  s.takeCauses (allParts.filter fun p => bit (s.fld .dig Reg.DIG_REGION_PART_MASK k) p.val) 0x05

/-- Members found in the minority, each with the DIGEST messages it may still send without EXPELLED (R328). -/
def State.digMinority (s : State) (k : Nat) (maj : BitVec 128) : State :=
  let x := s.dig k
  let marks := (s.digPeers k).foldl (fun (acc : Map Nat) m =>
    let i := m.1.hdr.src * 16 + m.1.region.val
    if m.2 = maj then Map.set 0 acc i 0 else if Map.get 0 acc i = 0 then Map.set 0 acc i 3 else acc) x.minority
  s.setDig k { x with minority := marks }

/-- DIG compares the comparable members, itself included (R328, Table 14-6). -/
def State.digCompare (s : State) (k : Nat) : State :=
  match s.digOwn k with
  | none => s
  | some own =>
    let peers := s.digPeers k
    let all := own :: peers.map (·.2)
    let active := s.fld .dig Reg.DIG_REGION_MSTATE k == 0
    match peers.find? fun m => m.2 ≠ own with
    | none => s
    | some (other, _) =>
      let s := s.count .dig 0x98
      if 3 ≤ all.length then
        match majority all with
        | none => ((s.count .dig 0xA0).err .dig 0x02).irq .dig 1
        | some d => if own = d then s.digMinority k d else if active then s.expel k other.hdr.src else s
      else if active then
        if s.node * 16 + k < other.hdr.src * 16 + other.region.val then s.expel k other.hdr.src
        else s.setFld .dig Reg.DIG_REGION_MSTATE 3 k
      else s

/-- DIG sends a region's DIGEST message to a member (R320, R327, Table 14-5). -/
def State.digSend (s : State) (k node : Nat) : State :=
  s.qseq.send (.digest ((s.planesTo node).take 2) (quorumHeader 0x0A (s.qhdr node)) (s.digMsg k node))

/-- An END_OF_STEP of a partition counts for the regions that name it; every EXCH_STEPS of them an exchange (R327). -/
def State.digStep (s : State) (p : PartId) : State :=
  if s.flag .dig Reg.DIG_CTRL_EN then
    s.each (List.range 16) fun s k =>
      if s.flag .dig Reg.DIG_REGION_VALID k ∧ bit (s.fld .dig Reg.DIG_REGION_PART_MASK k) p.val then
        let x := s.dig k
        if x.steps + 1 < s.fld .dig Reg.DIG_CTRL_EXCH_STEPS then s.setDig k { x with steps := x.steps + 1 }
        else
          let s := (s.setDig k { x with steps := 0 }).count .dig 0x90
          let s := s.each (s.digMembers k) fun s m => s.digSend k m.1
          s.digCompare k
      else s
  else s

/-- DIGEST: a replica member's message for region k (R327, R328), acted on once (R320). -/
def execDigest (k : Fin 16) (m : DigestMsg) (s : State) : Res :=
  .next (s.ifReady .dig fun s =>
    let known := decide ((m.hdr.src, m.region.val) ∈ s.digMembers k.val) && m.group == s.fld .dig Reg.DIG_REGION_GROUP k.val
    if s.flag .dig Reg.DIG_CTRL_EN ∧ s.flag .dig Reg.DIG_REGION_VALID k.val ∧ known then
      s.once m.hdr fun s =>
        let x := s.dig k.val
        let mine := fun (u : DigestMsg) => u.hdr.src == m.hdr.src && u.region == m.region
        let wasAway := (x.members.filter mine).any fun u => u.mstate != 0
        let i := m.hdr.src * 16 + m.region.val
        let left := Map.get 0 x.minority i
        let s := s.setDig k.val { x with
          members := m :: x.members.filter (fun u => !mine u)
          minority := Map.set 0 x.minority i (if m.mstate = 1 then 0 else left - 1) }
        let s := if left = 2 ∧ m.mstate ≠ 1 then
            match s.leader with
            | some n => s.quorumSend 0x04 n [m.partMask.toNat, 0x05, m.hdr.src]
            | none => s
          else s
        let s := if s.fld .dig Reg.DIG_REGION_MSTATE k.val = 3 ∧ m.mstate = 0 ∧ wasAway then s.expel k.val m.hdr.src else s
        s.digCompare k.val
    else s)

/-- DIGEST_PASS_DONE (R327): clean, the region's digest is that of its bytes; else the pass is discarded. -/
def execDigestPassDone (k : Fin 16) (s : State) : Res :=
  let first := s.fldAddr .dig Reg.DIG_REGION_BASE_LO Reg.DIG_REGION_BASE_HI k.val / 65536
  let poisoned := (List.range (s.fld .dig Reg.DIG_REGION_LEN_PAGES k.val)).any fun i =>
    (s.leaf (first + i)).st == .poisoned
  let x := s.dig k.val
  .next (s.ifReady .dig fun s =>
    if s.flag .dig Reg.DIG_CTRL_EN ∧ s.flag .dig Reg.DIG_REGION_VALID k.val ∧ s.flag .dig Reg.DIG_REGION_SEALED k.val then
      let s := s.setDig k.val { x with dirty := false, clean := x.clean || !(x.dirty || poisoned) }
      if x.dirty ∨ poisoned then s.count .dig 0x88
      else
        let s := (s.setFld .dig Reg.DIG_REGION_DIGEST (s.digValue k.val) k.val).count .dig 0x80
        let s := s.setFld .dig Reg.DIG_REGION_PASS ((s.fld .dig Reg.DIG_REGION_PASS k.val + 1) % 2 ^ 32) k.val
        if s.fld .dig Reg.DIG_REGION_MSTATE k.val = 2 then
          let own := BitVec.ofNat 128 (s.fld .dig Reg.DIG_REGION_DIGEST k.val)
          let peers := (s.digPeers k.val).map (·.2)
          let same := if peers.length = 1 then peers == [own] else decide (majority (own :: peers) = some own)
          if peers.isEmpty then s
          else if same then ((s.setFld .dig Reg.DIG_REGION_MSTATE 0 k.val).count .dig 0xA8).irq .dig 2
          else s.count .dig 0xB0
        else s
    else s)

/-- DIG_REGION_WRITE: word w of region k (Table 14-10, R327, Table 14-6). -/
def execDigRegionWrite (k : Fin 16) (w : Fin 32) (v : Word) (s : State) : Res :=
  let i := k.val
  .next (s.ifReady .dig fun s =>
    match w.val with
    | 0 =>
      let was := s.flag .dig Reg.DIG_REGION_SEALED i
      let s := s.swWrite .dig Reg.DIG_REGION_VALID (bits v.toNat 0 1) i
      let s := s.swWrite .dig Reg.DIG_REGION_SEALED (bits v.toNat 1 1) i
      let s := s.swWrite .dig Reg.DIG_REGION_GROUP (bits v.toNat 16 16) i
      let s := if was != bit v.toNat 1 then s.setDig i { s.dig i with dirty := true } else s
      if was ∧ ¬ bit v.toNat 1 ∧ s.fld .dig Reg.DIG_REGION_MSTATE i = 1 then s.setFld .dig Reg.DIG_REGION_MSTATE 2 i else s
    | 1 => s.swWrite .dig Reg.DIG_REGION_PART_MASK v.toNat i
    | 2 => s.swWrite .dig Reg.DIG_REGION_BASE_LO (bits v.toNat 16 16) i
    | 3 => s.swWrite .dig Reg.DIG_REGION_BASE_HI (bits v.toNat 0 15) i
    | 4 => s.swWrite .dig Reg.DIG_REGION_LEN_PAGES (bits v.toNat 0 24) i
    | 5 => s.swWrite .dig Reg.DIG_REGION_CONTENT_ID v.toNat i
    | n =>
      if 16 ≤ n ∧ n < 24 then
        s.setWord (Page.base .dig + 0x400 + i * 0x80 + n * 4) (BitVec.ofNat 32 (v.toNat % 2 ^ 17))
      else s)

end Sys2Proof.Machine
end

