-- ==== Sys2Proof/Machine/DispOps.lean ====
section
/-! DEFINITION. The Dispatcher's operations: request slots, priorities, events, step ends, failed tasks (R263 to R279). -/

namespace Sys2Proof.Machine
open Sys2Proof

/-- VALID members of a group slot (R267). -/
def State.members (s : State) (p : PartId) (k : Nat) : List Nat :=
  ((s.part p).slots.filter fun e => e.2.valid && e.2.member && e.2.inGroup == k).map (·.1)

/-- EFF_PRI: a group's is the lowest of its VALID members', or its own BASE_PRI (R267). -/
def State.effOf (s : State) (p : PartId) (k : Nat) : Nat :=
  let x := s.rs p k
  if x.group then
    match s.members p k with
    | [] => x.basePri.val
    | l => l.foldl (fun a m => min a (s.rs p m).effPri.val) 3
  else x.effPri.val

/-- GATED (R264). -/
def State.gated (s : State) (p : PartId) (k : Nat) : Bool :=
  let id := (s.rs p k).reqId
  (s.mover p).ctxs.any fun e =>
    let c := e.2
    c.reqId == id && decide (1 ≤ c.state) &&
      ((c.kind == 0 && c.state == 1) || (c.kind == 1 && c.state != 4) || (c.kind == 4 && !c.readyReported && !c.copyRun))

/-- The 32-byte image of a request slot (Table 11-2). -/
def State.rsImage (s : State) (p : PartId) (k : Nat) : Nat :=
  let x := s.rs p k
  let flags := x.valid.toNat + x.group.toNat * 2 + x.basePri.val * 4 + s.effOf p k * 16 + x.failed.toNat * 64 +
    (x.valid && s.gated p k).toNat * 128
  flags + 2 ^ 8 * (x.cls.val + 16 * x.model.val) + 2 ^ 16 * (x.inGroup + 2 ^ 15 * x.member.toNat) + 2 ^ 32 * x.reqId +
    2 ^ 64 * x.boostLeft + 2 ^ 80 * x.step + 2 ^ 96 * x.ewma + 2 ^ 128 * x.kvLen + 2 ^ 160 * x.boosts + 2 ^ 192 * x.pfLeft +
    2 ^ 224 * x.stepT0

/-- DISP_BACKLOG[q] (Table 11-4). -/
def State.backlog (s : State) (p : PartId) (q : Nat) : Nat :=
  ((s.part p).slots.filter fun e => e.2.valid && s.effOf p e.1 == q).foldl (fun a e => a + e.2.pfLeft) 0 % 2 ^ 32

/-- Slot and COUNT of a launch record (Table 11-1). -/
def recList (r : BitVec 256) : Nat := BV r 0 47
def recCount (r : BitVec 256) : Nat := BV r 64 16
def recTile (r : BitVec 256) : Nat := BV r 80 3
def recKeepPri (r : BitVec 256) : Bool := BV r 83 1 != 0
def recStepStart (r : BitVec 256) : Bool := BV r 84 1 != 0
def recSlot (r : BitVec 256) : Nat := BV r 96 10
def recStep (r : BitVec 256) : Nat := BV r 112 16
def recKvLen (r : BitVec 256) : Nat := BV r 128 32

/-- Discard the unsent descriptors of a slot, counting each launch affected (R267, R271). -/
def State.dropUnsent (s : State) (p : PartId) (k : Nat) : State :=
  let x := s.part p
  let reading := (x.active.filter fun l => recSlot l.record == k).map (·.id)
  let stored := x.store.flatMap fun e => (e.2.filter fun d => d.slot == k).map (·.launch)
  let n := (reading ++ stored).eraseDups.length
  let store := x.store.map fun e => (e.1, e.2.filter fun d => d.slot != k)
  (s.setPart p { x with
    active := x.active.filter fun l => recSlot l.record != k, store := store.filter fun e => !e.2.isEmpty }).count (.disp p) 0x88 n

/-- A task that ends alone leaves no merge slot naming it (R98). -/
def State.unmerge (s : State) (t : TileId) (i : Fin 64) : State :=
  let x := s.part (partOf t)
  s.setPart (partOf t) { x with merge := x.merge.map fun (e : Nat × MergeSlot) =>
    (e.1, { e.2 with tasks := e.2.tasks.filter (· ≠ (t.val, i.val)) }) }

/-- A tile's scoreboard and tags are emptied without a completion (Table 03-5, last row): its programs stay, and nothing that is
held for its tasks is theirs any more. -/
def State.clearTile (s : State) (t : TileId) : State :=
  let s := s.each (s.tile t).slots fun s e =>
    let i : Fin 64 := Fin.ofNat 64 e.1
    ((s.disown (.tilePort t i)).disown (.tileDma t i)).unmerge t i
  let x := s.tile t
  s.setTile t { progs := x.progs, acc := x.acc, coming := x.coming, nextOrder := x.nextOrder }

/-- The requests a slot stands for: its own, or its members' (R267). -/
def State.slotReqs (s : State) (p : PartId) (k : Nat) : List Nat :=
  if (s.rs p k).group then (s.members p k).map fun m => (s.rs p m).reqId else [(s.rs p k).reqId]

/-- A slot is at fault (R262, R271): FAULT, its unsent descriptors discarded. -/
def State.slotFault (s : State) (p : PartId) (k : Nat) : State :=
  (s.setRs p k { s.rs p k with failed := true }).dropUnsent p k

/-- The requests of a slot at fault (R271): with replay enabled a Generation partition is fenced with cause REPLAY (R330);
otherwise they end with ABORTED_FAULT, or POISONED after a poisoned read (Table 12-6). -/
def State.slotLost (s : State) (p : PartId) (slot : Nat) (poisoned : Bool) : State :=
  if bit (s.fld .qrm Reg.QRM_REPLAY_MASK) p.val ∧ s.fld (.disp p) Reg.DISP_ROLE_CUR = 2 then s.takeCause p 0x04
  else s.each (s.slotReqs p slot) fun s id => s.abortReq id (if poisoned then 0x40 else 0x30) 0x31

/-- A tile reports a failed task (R271): DISP_FAIL keeps the first. -/
def State.taskFailed (s : State) (t : TileId) (slot taskId code : Nat) (poisoned : Bool) : State :=
  let p := partOf t
  let s := (s.send (.taskFailed t taskId code)).slotFault p slot
  let s := if s.flag (.disp p) Reg.DISP_FAIL_VALID then s
    else
      let s := s.setFld (.disp p) Reg.DISP_FAIL_TASK_ID taskId
      let s := s.setFld (.disp p) Reg.DISP_FAIL_TILE (t.val % 8)
      (s.setFld (.disp p) Reg.DISP_FAIL_SLOT slot).setFld (.disp p) Reg.DISP_FAIL_VALID 1
  ((s.err (.disp p) 0x03).irq (.disp p) 1).slotLost p slot poisoned

/-- A step-time sample reaches a slot (R276): smoothed with MON_EN set. -/
def State.foldStep (s : State) (p : PartId) (k d : Nat) : State :=
  let x := s.rs p k
  if s.flag (.disp p) Reg.DISP_CTRL_MON_EN then
    let e : Int := if x.sampled then (x.ewma : Int) + ((d : Int) - x.ewma).tdiv 8 else d
    s.setRs p k { x with ewma := min e.toNat 4294967295, sampled := true }
  else s

/-- A step end counts a boost down (R278). -/
def State.boostDown (s : State) (p : PartId) (k : Nat) : State :=
  let x := s.rs p k
  if x.boostLeft = 0 then s
  else if x.boostLeft = 1 then s.setRs p k { x with boostLeft := 0, effPri := x.basePri }
  else s.setRs p k { x with boostLeft := x.boostLeft - 1 }

/-- The slowdown sample of a step (R279). -/
def State.slowdown (s : State) (p : PartId) (k d : Nat) : State :=
  let x := s.rs p k
  let m := x.model.val
  let solo := s.fld (.disp p) Reg.DISP_MODEL_SOLO_BASE_US m * 1000 +
    s.fld (.disp p) Reg.DISP_MODEL_SOLO_NS_PER_KTOK m * x.kvLen / 1024
  if ¬ s.flag (.disp p) Reg.DISP_CTRL_MON_EN ∨ solo = 0 then s
  else
    let v := min 65535 (256 * d / solo)
    let c := x.cls.val
    let y := s.part p
    let was : Int := s.fld (.disp p) Reg.DISP_CLASS_SLOWDOWN c
    let now : Int := if y.slowdownSeen.contains c then was + ((v : Int) - was).tdiv 16 else v
    let s := s.setPart p { y with slowdownSeen := c :: y.slowdownSeen.filter (· ≠ c) }
    (s.setFld (.disp p) Reg.DISP_CLASS_SLOWDOWN now.toNat c).sample 4 p.val (some c) v

/-- END_OF_STEP ends the step of the slot whose STEP it names (R265): step time, slowdown, boosts, the Sampler, digests. -/
def State.endStep (s : State) (p : PartId) (value : Nat) : State :=
  match (s.part p).slots.find? fun e => e.2.valid && e.2.stepOn && e.2.step == value with
  | none => s.digStep p
  | some (k, x) =>
    let d := s.now - x.startNs
    let s := s.setRs p k { x with stepOn := false, lastStep := d, replaying := false }
    let s := s.sample 2 p.val (some x.cls.val) d
    let targets := if x.group then s.members p k else [k]
    let s := s.each targets fun s m => (s.setRs p m { s.rs p m with replaying := false }).foldStep p m d
    let s := s.slowdown p k d
    let s := s.each targets fun s m => s.boostDown p m
    let y := s.part p
    (s.setPart p { y with samplerDue := y.samplerDue ++ targets }).digStep p

/-- END_OF_LAYER at the movers of a pass (R215): the side records are copied; with none to copy the layer's tag fires at
once. -/
def State.endLayer (s : State) (p : PartId) (value : Nat) : State :=
  let pass := value / 256 % 128
  let layer := value % 256
  let mine := (s.mover p).ctxs.filter fun e =>
    e.2.kind == 0 && e.2.pass == pass && (e.2.state == 2 || e.2.state == 3 || e.2.restarted) && decide (e.2.state < 4) &&
      decide (layer < e.2.layers)
  if mine.isEmpty then s
  else
    let s := s.each mine fun s e =>
      let c := s.ctx p e.1
      s.setCtx p e.1 { c with
        state := if c.state = 1 then 1 else 3, layerAt := Map.set 0 c.layerAt layer (s.now + 1),
        staged := if c.sideBytes = 0 then layer :: c.staged else c.staged }
    if mine.all fun e => e.2.sideBytes == 0 then s.trigEvent p 4 (0x8000 + value % 32768) else s

/-- The Dispatcher raises an event (R69). -/
def State.raiseEvent (s : State) (p : PartId) (step : Bool) (value : Nat) : State :=
  let s := (s.send (.event p step value)).trigEvent p (if step then 2 else 1) value
  if step then s.endStep p value else s.endLayer p value

/-- A tile reports an event (R69, R269); false: it needs an entry and none is free. -/
def State.reportEvent (s : State) (p : PartId) (tile : Nat) (step : Bool) (value : Nat) : Bool × State :=
  let mask := s.fld (.disp p) (if step then Reg.DISP_EVT_MASK_STEP_MASK else Reg.DISP_EVT_MASK_LAYER_MASK)
  let x := s.part p
  let evts := if step then x.stepEvts else x.layerEvts
  let put := fun (s : State) (l : List Evt) =>
    let x := s.part p
    s.setPart p (if step then { x with stepEvts := l } else { x with layerEvts := l })
  if ¬ bit mask tile then (true, s)
  else
    let old := (evts.find? fun e => e.value == value)
    if old = none ∧ 16 ≤ evts.length then (false, s)
    else
      let tiles := Nat.lor (2 ^ tile) (match old with
        | some e => e.tiles
        | none => 0)
      let rest := evts.filter fun e => e.value != value
      if Nat.land tiles mask = mask then (true, (put s rest).raiseEvent p step value)
      else (true, put s (rest ++ [{ value := value, tiles := tiles }]))

end Sys2Proof.Machine
end

