-- ==== Sys2Proof/Machine/Disp.lean ====
section
/-! DEFINITION. The Dispatcher: launches, descriptors, request slots, energy (R259 to R283, R329). -/

namespace Sys2Proof.Machine
open Sys2Proof

/-- The launch ring: LOG2, HEAD, TAIL (R259). -/
def State.lringLog2 (s : State) (p : PartId) : Nat := s.fld (.disp p) Reg.DISP_LRING_LOG2_LOG2

/-- Ring positions that hold launches not started, in ring order (R260). -/
def State.unstarted (s : State) (p : PartId) : List Nat :=
  let n := 2 ^ (s.lringLog2 p + 1)
  let head := s.fld (.disp p) Reg.DISP_LRING_HEAD_HEAD
  let used := ringUsed (s.lringLog2 p) head (s.fld (.disp p) Reg.DISP_LRING_TAIL_TAIL)
  ((List.range used).map fun i => (head + i) % n).filter fun x => !(s.part p).started.contains x

/-- State Space offset of the record at a ring position (R259). -/
def State.launchAt (s : State) (p : PartId) (pos : Nat) : Nat :=
  s.fldAddr (.disp p) Reg.DISP_LRING_BASE_LO_BASE_LO Reg.DISP_LRING_BASE_HI_BASE_HI + pos % 2 ^ s.lringLog2 p * 32

/-- A launch record breaks Table 11-1, names a slot that is not VALID, or a STEP in use (R261, R266). -/
def State.launchBad (s : State) (p : PartId) (r : BitVec 256) : Bool :=
  let k := recSlot r
  recCount r == 0 || decide (4096 < recCount r) || BV r 0 6 != 0 || BV r 47 17 != 0 || BV r 85 11 != 0 ||
    BV r 106 6 != 0 || BV r 160 96 != 0 || !(s.rs p k).valid ||
    (recStepStart r && (s.part p).slots.any fun e => e.1 != k && e.2.valid && e.2.stepOn && e.2.step == recStep r)

/-- A ring slot leaves the window: HEAD advances past the started ones (R260). -/
def State.releaseRing (s : State) (p : PartId) : Nat → State
  | 0 => s
  | fuel + 1 =>
    let x := s.part p
    let head := s.fld (.disp p) Reg.DISP_LRING_HEAD_HEAD
    if x.started.contains head then
      let s := s.setPart p { x with started := x.started.filter (· ≠ head) }
      (s.setFld (.disp p) Reg.DISP_LRING_HEAD_HEAD ((head + 1) % 2 ^ (s.lringLog2 p + 1))).releaseRing p fuel
    else s

/-- The launch at a ring position has started or was dropped. -/
def State.launchDone (s : State) (p : PartId) (pos : Nat) : State :=
  let x := s.part p
  (s.setPart p { x with started := x.started ++ [pos] }).releaseRing p 8192

/-- The read of a launch record is over: it counts as one access of its page (R132, R134, R139, R412). -/
def State.launchTake (s : State) (p : PartId) (pos : Nat) : State := (s.ownRead .device (s.launchAt p pos) 32).2

/-- A bad launch is not started (R261). -/
def State.launchDrop (s : State) (p : PartId) (pos : Nat) : State :=
  (((s.launchTake p pos).err (.disp p) 0x02).count (.disp p) 0x88).launchDone p pos

/-- A launch record as it reads now: none while its page is on its way; with no contents where its page is POISONED or its held
read failed (R262, R412). -/
def State.launchRec (s : State) (p : PartId) (pos : Nat) : Option (Option (BitVec 256)) :=
  let a := s.launchAt p pos
  if (s.answerAt .device a false).getD .done ≠ .done then some none
  else if s.mustWait (pageOf a) then none
  else if s.serveRead (pageOf a) = .poisoned then some none
  else some (some (BitVec.ofNat 256 (s.rdNat a 32)))

/-- Examine the launches at ring positions: the good ones, or the first bad one; a record that cannot be read yet ends the
examination (R260, R261, R412). -/
def State.examine (s : State) (p : PartId) : List Nat → List (Nat × BitVec 256) → Except Nat (List (Nat × BitVec 256))
  | [], good => .ok good.reverse
  | pos :: l, good =>
    match s.launchRec p pos with
    | none => .ok good.reverse
    | some none => .error pos
    | some (some r) => if s.launchBad p r then .error pos else s.examine p l ((pos, r) :: good)

/-- The window of up to 32 launches that have not started, bad ones dropped (R260, R261). -/
def State.window (s : State) (p : PartId) : Nat → List (Nat × BitVec 256) × State
  | 0 => ([], s)
  | fuel + 1 =>
    match s.examine p ((s.unstarted p).take 32) [] with
    | .ok l => (l, s)
    | .error pos => (s.launchDrop p pos).window p fuel

/-- The ring records of the window whose pages are on their way or on another device are held there (R412, Table 06-7). -/
def State.pullWindow (s : State) (p : PartId) : State :=
  s.each ((s.unstarted p).take 32) fun s pos =>
    let a := s.launchAt p pos
    if s.mustWait (pageOf a) && ((s.answerAt .device a false).getD .done == .done) then s.holdOwn .device (a, 32) else s

/-- The Sampler buffer of a request cannot take the tokens of one more step (R286). -/
def Req.full (r : Req) : Bool := decide (64 < r.outBuf.length + 1 + dDepth r.desc)

/-- A launch can be selected (R260, R271, R286). -/
def State.selectable (s : State) (p : PartId) (r : BitVec 256) : Bool :=
  let k := recSlot r
  !s.gated p k && !(s.rs p k).failed &&
    !(recStepStart r && (s.slotReqs p k).any fun id => (s.req id).any Req.full)

/-- Whether a launch starts a step of its slot (R265). -/
def State.newStep (s : State) (p : PartId) (r : BitVec 256) : Bool :=
  let x := s.rs p (recSlot r)
  recStepStart r && !(x.stepOn && x.step == recStep r)

/-- The hold of the aligned slot's next step, ready now: its length and whether it ends on an edge (R280, R281); none: the
step starts at once and is not aligned. -/
def State.fsyncPlan (s : State) (p : PartId) : Option (Nat × Bool) :=
  let period := s.fld .sync Reg.SYNC_FSYNC_PERIOD_NS
  let prev := (s.rs p (s.fld (.disp p) Reg.DISP_FSYNC_SLOT)).lastStep
  if s.flag .sync Reg.SYNC_STAT_FSYNC_LOST || (s.part p).fsyncFirst || prev == 0 || period == 0 || decide (period < prev) then none
  else
    let e : Int := s.fld .sync Reg.SYNC_FSYNC_LAST_TIME + s.fld (.disp p) Reg.DISP_FSYNC_OFFSET_US * 1000
    let d := ((e - s.now) % period).toNat
    some (min d (prev / 8), decide (d ≤ prev / 8))

/-- The launch waits for the hold of an aligned step (R280). -/
def State.aligned (s : State) (p : PartId) (r : BitVec 256) : Bool :=
  s.flag (.disp p) Reg.DISP_CTRL_FSYNC_EN && recSlot r == s.fld (.disp p) Reg.DISP_FSYNC_SLOT && s.newStep p r

/-- DISP_FSYNC_STAT of the step that starts. -/
def State.fsyncStat (s : State) (p : PartId) (hold : Nat) (edge : Bool) : State :=
  (s.setFld (.disp p) Reg.DISP_FSYNC_STAT_LAST_HOLD_NS hold).setFld (.disp p) Reg.DISP_FSYNC_STAT_ON_EDGE edge.toNat

/-- An aligned step starts: what the start counts as (R280). -/
def State.fsyncCount (s : State) (p : PartId) : State :=
  let x := s.part p
  match x.fsyncHold with
  | some (_, onEdge) =>
    (s.setPart p { x with fsyncHold := none }).count (.disp p) (if onEdge != 0 then 0xC0 else 0xC8)
  | none =>
    let prev := (s.rs p (s.fld (.disp p) Reg.DISP_FSYNC_SLOT)).lastStep
    let lost := s.flag .sync Reg.SYNC_STAT_FSYNC_LOST
    let long := !lost && !x.fsyncFirst && s.fld .sync Reg.SYNC_FSYNC_PERIOD_NS != 0 &&
      decide (s.fld .sync Reg.SYNC_FSYNC_PERIOD_NS < prev)
    let s := (s.setPart p { x with fsyncFirst := false }).fsyncStat p 0 false
    if long then (s.count (.disp p) 0xD0).irq (.disp p) 3 else s

/-- The boost decision of a step start (R278). -/
def State.boostAt (s : State) (p : PartId) (k : Nat) : State :=
  let x := s.rs p k
  let c := x.cls.val
  let step := s.fld (.disp p) Reg.DISP_CLASS_STEP_US c
  if step = 0 ∨ x.ewma ≤ step * 1000 then s
  else if x.basePri = 0 then s.count (.disp p) 0xB8
  else if x.boostLeft ≠ 0 then s.setRs p k { x with boostLeft := 16 }
  else
    let s := s.setRs p k { x with
      effPri := x.basePri - 1, boostLeft := 16, boosts := min (x.boosts + 1) 4294967295 }
    (s.count (.disp p) 0xB0).setFld (.disp p) Reg.DISP_CLASS_BOOSTS
      (min (s.fld (.disp p) Reg.DISP_CLASS_BOOSTS c + 1) 4294967295) c

/-- The checkpoint of a slot at a step start (R329, Table 14-7). `prog`: the first record of the step; `n`: how many. -/
def State.checkpoint (s : State) (p : PartId) (k : Nat) (r : BitVec 256) (prog n : Nat) : State :=
  let x := s.rs p k
  let q := s.req x.reqId
  let tok := (q.map (·.lastTok)).getD 0
  let pos := (q.map (·.pos)).getD 0
  let b := List.flatten
    [bytesOfNat 4 x.reqId, [1], bytesOfNat 1 (x.basePri.val + 16 * x.cls.val), bytesOfNat 1 x.model.val, [0],
     bytesOfNat 2 (recStep r), [0, 0], bytesOfNat 4 (recKvLen r), bytesOfNat 8 prog, bytesOfNat 2 n, [0, 0],
     bytesOfNat 4 tok, bytesOfNat 4 pos, List.replicate 4 0, bytesOfNat 8 s.now, List.replicate 16 0]
  s.put (s.fldAddr .qrm Reg.QRM_CKPT_BASE_LO_BASE_LO Reg.QRM_CKPT_BASE_HI_BASE_HI + p.val * 65536 + k * 64) b

/-- A step starts (R265, R278, R329). -/
def State.stepStart (s : State) (p : PartId) (pos : Nat) (r : BitVec 256) (l : List (Nat × BitVec 256)) : State :=
  let k := recSlot r
  let s := if s.aligned p r then s.fsyncCount p else s
  let targets := if (s.rs p k).group then s.members p k else [k]
  let n := (l.filter fun e => recStepStart e.2 && recSlot e.2 == k && recStep e.2 == recStep r).length
  let s := if bit (s.fld .qrm Reg.QRM_REPLAY_MASK) p.val then
      s.each (if (s.rs p k).group then k :: targets else targets) fun s m => s.checkpoint p m r (s.launchAt p pos) n
    else s
  let s := s.setRs p k { s.rs p k with
    step := recStep r, kvLen := recKvLen r, stepT0 := s.now % 2 ^ 32, stepOn := true, startNs := s.now }
  s.each targets fun s m => s.boostAt p m

/-- A launch starts (R260). -/
def State.launchStart (s : State) (p : PartId) (pos : Nat) (r : BitVec 256) (l : List (Nat × BitVec 256)) : State :=
  let s := s.launchTake p pos
  let s := if s.newStep p r then s.stepStart p pos r l else s
  let x := s.part p
  let s := s.setPart p { x with
    active := x.active ++ [{ record := r, next := 0, id := x.nextLaunch }], nextLaunch := x.nextLaunch + 1 }
  (s.count (.disp p) 0x80).launchDone p pos

/-- Of the launches that can be selected, the one of lowest EFF_PRI, the earliest among equals (R260). -/
def State.bestLaunch (s : State) (p : PartId) : List (Nat × BitVec 256) → Option (Nat × BitVec 256)
  | [] => none
  | e :: l =>
    match s.bestLaunch p l with
    | none => some e
    | some b => if s.effOf p (recSlot b.2) < s.effOf p (recSlot e.2) then some b else some e

/-- A hold starts for the aligned slot's step if one of the launches would start it and a hold is due (R280). -/
def State.fsyncBegin (s : State) (p : PartId) (l : List (Nat × BitVec 256)) : State :=
  if (s.part p).fsyncHold.isSome || !(l.any fun e => s.aligned p e.2) then s
  else
    match s.fsyncPlan p with
    | none => s
    | some (hold, edge) =>
      (s.setPart p { s.part p with fsyncHold := some (s.now + hold, edge.toNat) }).fsyncStat p hold edge

/-- Examine the window and start one launch (R260). -/
def State.launchSelect (s : State) (p : PartId) : State :=
  let w := (s.pullWindow p).window p 8192
  let s := w.2
  let l := w.1.filter fun e => s.selectable p e.2
  if l.isEmpty ∨ 16 ≤ (s.part p).active.length then s
  else if s.pwr.inMode.contains (.tileGate p) then s.wakeUnit (.tileGate p)
  else
    let l := l.filter fun e => s.ready (.tile (tileOf p (recTile e.2)))
    let s := match s.bestLaunch p l with
      | some b => if s.aligned p b.2 then s.fsyncBegin p [b] else s
      | none => s
    let due : Bool := match (s.part p).fsyncHold with
      | some (t, _) => decide (t ≤ s.now)
      | none => true
    match s.bestLaunch p (l.filter fun e => due || !s.aligned p e.2) with
    | none => s
    | some (pos, r) => s.launchStart p pos r w.1

/-- LAUNCH_SELECT: the Dispatcher checks the window and starts the selectable launch of lowest EFF_PRI (R260). -/
def execLaunchSelect (p : PartId) (s : State) : Res :=
  .next (s.ifReady (.disp p) fun s => s.launchSelect p)

/-- FSYNC_HOLD_EXPIRE: the hold before an aligned step ends (R280). -/
def execFsyncHoldExpire (p : PartId) (s : State) : Res :=
  .next (s.ifReady (.disp p) fun s =>
    match (s.part p).fsyncHold with
    | some (t, _) => if t ≤ s.now then s.launchSelect p else s
    | none => s)

/-- Descriptors held in the task store (DISP_STORE.USED). -/
def Part.used (x : Part) : Nat := x.store.foldl (fun n e => n + e.2.length) 0

/-- A failed read of a descriptor list cuts its launch short (R262). -/
def State.launchCut (s : State) (p : PartId) (l : Launch) (poisoned : Bool) : State :=
  let s := (s.err (.disp p) 0x02).irq (.disp p) 2
  (s.slotFault p (recSlot l.record)).slotLost p (recSlot l.record) poisoned

/-- A descriptor enters the task store (R262). -/
def State.storeDesc (s : State) (p : PartId) (l : Launch) (d : BitVec 512) : State :=
  let k := recSlot l.record
  let pri := if recKeepPri l.record then BV d 18 2 else s.effOf p k
  let x := s.part p
  let room := 2048 - x.used
  if room = 0 ∨ (2 ≤ pri ∧ room ≤ s.fld (.disp p) Reg.DISP_STORE_RSV_HI) then s
  else
    let d := BitVec.ofNat 512 (withBits d.toNat 18 2 pri)
    let key := recTile l.record * 4 + pri
    let next := l.next + 1
    s.setPart p { x with
      store := Map.set [] x.store key (Map.get [] x.store key ++ [{ desc := d, slot := k, launch := l.id }])
      active := if next = recCount l.record then x.active.filter fun y => y.id != l.id
        else x.active.map fun y => if y.id == l.id then { y with next := next } else y }

/-- LAUNCH_DESC_READ: active launch k reads its next descriptor (R262, R412). -/
def execLaunchDescRead (p : PartId) (k : Fin 16) (o : ReadOutcome) (s : State) : Res :=
  .next (s.ifReady (.disp p) fun s =>
    match (s.part p).active[k.val]? with
    | none => s
    | some l =>
      let a := recList l.record + l.next * 64
      match o with
      | .ok => s.fetch a 64 (fun s => s.launchCut p l true) fun b s => s.storeDesc p l (BitVec.ofNat 512 (natOfBytes b))
      | .poisoned => s.launchCut p l true
      | .refused => s.launchCut p l false)

/-- The queue the next descriptor for a tile comes from, with the deficits after it is sent (R268). -/
def State.nextQueue (s : State) (p : PartId) (t : Nat) : Option (Nat × Int × Int) :=
  let x := s.part p
  let has := fun q => !(Map.get [] x.store (t * 4 + q)).isEmpty
  let more := fun q => decide (1 < (Map.get [] x.store (t * 4 + q)).length)
  let d2 := Map.get 0 x.deficit (t * 2)
  let d3 := Map.get 0 x.deficit (t * 2 + 1)
  if has 0 then some (0, d2, d3)
  else if has 1 then some (1, d2, d3)
  else if !has 2 && !has 3 then none
  else
    let dry := decide (d2 ≤ 0) && decide (d3 ≤ 0)
    let d2 : Int := if dry then d2 + s.fld (.disp p) Reg.DISP_PRI_W_W2 else d2
    let d3 : Int := if dry then d3 + s.fld (.disp p) Reg.DISP_PRI_W_W3 else d3
    let two := has 2 && (decide (0 < d2) || !has 3)
    let d2 := if two then d2 - 1 else d2
    let d3 := if two then d3 else d3 - 1
    let d2 := if (if two then more 2 else has 2) then d2 else min d2 0
    let d3 := if (if two then has 3 else more 3) then d3 else min d3 0
    some (if two then 2 else 3, d2, d3)

/-- DISP_SEND: the head descriptor for a tile is sent, or refused for want of a slot, those on their way to the tile counted
(R268, R74). -/
def execDispSend (p : PartId) (tile : Fin 8) (s : State) : Res :=
  let t := tileOf p tile.val
  .next (s.ifReady (.disp p) fun s =>
    if !s.ready (.tile t) then s
    else
      match s.nextQueue p tile.val with
      | none => s
      | some (q, d2, d3) =>
        if 64 ≤ (s.tile t).slots.length + (s.tile t).coming.length then s.count (.tile t) 0xE0
        else
          let x := s.part p
          let key := tile.val * 4 + q
          match Map.get [] x.store key with
          | [] => s
          | d :: rest =>
            let s := s.setPart p { x with
              store := Map.set [] x.store key rest
              deficit := Map.set 0 (Map.set 0 x.deficit (tile.val * 2) d2) (tile.val * 2 + 1) d3 }
            let s := s.setTile t { s.tile t with coming := (s.tile t).coming ++ [d] }
            (s.count (.disp p) 0x90).send (.descriptor t d.slot d.desc))

/-- DISP_LRING_TAIL_WRITE (R259). -/
def execDispLringTailWrite (p : PartId) (tail : Fin 8192) (s : State) : Res :=
  .next (s.ifReady (.disp p) fun s =>
    s.setFld (.disp p) Reg.DISP_LRING_TAIL_TAIL (tail.val % 2 ^ (s.lringLog2 p + 1)))

/-- The staging words (R263). -/
def Part.staged (x : Part) : List Word := (List.range 8).map fun i => x.stage.getD i 0

/-- Load the staging words from a slot's image (R263). -/
def State.loadStage (s : State) (p : PartId) (k : Nat) : State :=
  let img := s.rsImage p k
  s.setPart p { s.part p with stage := (List.range 8).map fun i => BitVec.ofNat 32 (img / 2 ^ (32 * i)) }

/-- RS_SEL_WRITE (R263). -/
def execRsSelWrite (p : PartId) (index : Fin 1024) (s : State) : Res :=
  .next (s.ifReady (.disp p) fun s => (s.setFld (.disp p) Reg.DISP_RS_SEL_INDEX index.val).loadStage p index.val)

/-- RS_DATA_STAGE: a write to RS_DATA[k], k from 1 to 7 (R263). -/
def execRsDataStage (p : PartId) (k : Fin 8) (v : Word) (s : State) : Res :=
  .next (s.ifReady (.disp p) fun s =>
    if k = 0 then s
    else
      let x := s.part p
      s.setPart p { x with stage := x.staged.set k.val v })

/-- The slot that a 32-byte image commits over an old slot: device fields stay, or take their opening values (R263). -/
def commitSlot (old : ReqSlot) (img : Nat) : ReqSlot :=
  let x := { old with
    valid := bit img 0, group := bit img 1, basePri := Fin.ofNat 4 (bits img 2 2), cls := Fin.ofNat 16 (bits img 8 4),
    model := Fin.ofNat 16 (bits img 12 4), inGroup := bits img 16 10, member := bit img 31, reqId := bits img 32 32,
    pfLeft := bits img 192 32 }
  if x.valid && !old.valid then
    { x with
      effPri := x.basePri, failed := false, boostLeft := 0, step := 0, ewma := 0, kvLen := 0, boosts := 0, stepT0 := 0,
      stepOn := false, sampled := false, startNs := 0, lastStep := 0, replaying := false }
  else if x.valid then x
  else { x with stepOn := false }

/-- RS_COMMIT: a write to RS_DATA[0] commits the staged image as one update (R263, R267). -/
def execRsCommit (p : PartId) (v : Word) (s : State) : Res :=
  .next (s.ifReady (.disp p) fun s =>
    let k := s.fld (.disp p) Reg.DISP_RS_SEL_INDEX
    let old := s.rs p k
    let img := natOfBytes ((v :: (s.part p).staged.tail).flatMap fun w => bytesOfNat 4 w.toNat)
    let new := commitSlot old img
    let s := s.setRs p k new
    let s := if old.valid && !new.valid then s.dropUnsent p k else s
    let s := if old.valid != new.valid && k == s.fld (.disp p) Reg.DISP_FSYNC_SLOT then
        s.setPart p { s.part p with fsyncHold := none }
      else s
    s.loadStage p k)

/-- PF_LEFT_WRITE: DISP_PF_LEFT writes PF_LEFT_US of the slot DISP_PF_SLOT names (R263). -/
def execPfLeftWrite (p : PartId) (us : Word) (s : State) : Res :=
  .next (s.ifReady (.disp p) fun s =>
    let k := s.fld (.disp p) Reg.DISP_PF_SLOT_INDEX
    s.setRs p k { s.rs p k with pfLeft := us.toNat })

/-- DISP_FAIL_CLEAR: writing 1 to DISP_FAIL.VALID re-arms the capture (R271). -/
def execDispFailClear (p : PartId) (s : State) : Res :=
  .next (s.ifReady (.disp p) fun s => s.setFld (.disp p) Reg.DISP_FAIL_VALID 0)

/-- ENERGY_REFILL_TICK: 100 ns pass for the energy bucket (R273). -/
def execEnergyRefillTick (p : PartId) (s : State) : Res :=
  .next (s.ifReady (.disp p) fun s =>
    let x := s.part p
    let tenths := s.fld (.disp p) Reg.DISP_ENERGY_RATE_RATE_MW + x.energyCarry
    let depth := s.fld (.disp p) Reg.DISP_ENERGY_DEPTH_DEPTH_NJ
    let level := s.fld (.disp p) Reg.DISP_ENERGY_LEVEL_LEVEL_NJ + tenths / 10
    if depth < level then
      (s.setPart p { x with energyCarry := 0 }).setFld (.disp p) Reg.DISP_ENERGY_LEVEL_LEVEL_NJ depth
    else
      (s.setPart p { x with energyCarry := tenths % 10 }).setFld (.disp p) Reg.DISP_ENERGY_LEVEL_LEVEL_NJ level)

/-- A tile's credit covers a task's energy class (R272). -/
def State.covers (s : State) (t : TileId) (d : BitVec 512) : Bool :=
  let p := partOf t
  !s.flag (.disp p) Reg.DISP_CTRL_ENERGY_EN ||
    decide (s.fld (.disp p) Reg.DISP_ECOST_COST_NJ (BV d 20 4) ≤ (s.tile t).credit)

/-- ENERGY_GRANT: one MCLK cycle's visit of the next tile (R274). -/
def execEnergyGrant (p : PartId) (s : State) : Res :=
  .next (s.ifReady (.disp p) fun s =>
    let x := s.part p
    let t := tileOf p x.rr
    let level := s.fld (.disp p) Reg.DISP_ENERGY_LEVEL_LEVEL_NJ
    let n := min (s.fld (.disp p) Reg.DISP_ENERGY_GRANT_GRANT_NJ - (s.tile t).credit) level
    let s := s.setTile t { s.tile t with credit := (s.tile t).credit + n }
    let s := (s.setPart p { x with rr := (x.rr + 1) % 8 }).setFld (.disp p) Reg.DISP_ENERGY_LEVEL_LEVEL_NJ (level - n)
    let wait := (List.range 8).any fun k =>
      (s.tile (tileOf p k)).slots.any fun e => e.2.st == SlotState.ready && !s.covers (tileOf p k) e.2.desc
    if wait then s.count (.disp p) 0x98 else s)

end Sys2Proof.Machine
end

