-- ==== Sys2Proof/Machine/Codec.lean ====
section
/-! DEFINITION. The split-plane codec: block format, decoder and encoder (R102 to R115), and the CODEC page (R114). -/

namespace Sys2Proof.Machine
open Sys2Proof

/-- Word width, exponent bits, mantissa bits and group size of a format (Table 05-1; group 0: none). -/
def splitOf (fmt : Nat) : Nat × Nat × Nat × Nat :=
  match fmt with
  | 0 => (32, 8, 23, 0)
  | 1 => (16, 5, 10, 0)
  | 2 => (16, 8, 7, 0)
  | 3 => (8, 4, 3, 33)
  | 8 => (8, 4, 3, 33)
  | 4 => (8, 5, 2, 33)
  | 5 => (8, 4, 3, 25)
  | 6 => (8, 4, 3, 25)
  | 7 => (4, 2, 1, 17)
  | 0xA => (4, 2, 1, 0)
  | _ => (8, 4, 3, 0)

/-- Code lengths of the 16 tables, symbols 0 to 15, ZRUN, ESC (Table 05-3). -/
def codeLens : List (List Nat) :=
  [[4, 4, 4, 4, 4, 4, 4, 4, 4, 4, 4, 4, 4, 4, 5, 5, 5, 5],
   [3, 2, 2, 2, 7, 7, 7, 8, 8, 8, 8, 8, 8, 8, 8, 8, 4, 8],
   [3, 2, 2, 4, 7, 7, 7, 8, 8, 8, 8, 8, 8, 8, 8, 8, 2, 8],
   [4, 3, 2, 2, 7, 7, 7, 8, 8, 8, 8, 8, 8, 8, 8, 8, 2, 8],
   [6, 4, 3, 2, 2, 3, 4, 5, 6, 7, 7, 8, 9, 9, 9, 9, 5, 8],
   [7, 6, 4, 3, 2, 2, 3, 4, 5, 6, 7, 8, 9, 9, 9, 9, 5, 8],
   [8, 7, 6, 4, 3, 2, 2, 3, 4, 5, 6, 7, 9, 9, 9, 9, 5, 8],
   [9, 8, 7, 6, 4, 3, 2, 2, 3, 4, 5, 6, 7, 9, 9, 9, 5, 8],
   [9, 9, 8, 7, 6, 4, 3, 2, 2, 3, 4, 5, 6, 7, 9, 9, 5, 8],
   [9, 9, 9, 8, 7, 6, 4, 3, 2, 2, 3, 4, 5, 6, 7, 9, 5, 8],
   [9, 9, 9, 9, 8, 7, 6, 4, 3, 2, 2, 3, 4, 5, 6, 7, 5, 8],
   [9, 9, 9, 9, 8, 7, 7, 6, 4, 3, 2, 2, 3, 4, 5, 6, 5, 8],
   [9, 9, 9, 9, 8, 7, 7, 6, 6, 4, 3, 2, 2, 3, 4, 5, 5, 8],
   [9, 9, 9, 9, 8, 7, 7, 6, 6, 5, 4, 3, 2, 2, 3, 4, 5, 8],
   [9, 9, 9, 9, 8, 7, 7, 6, 6, 5, 4, 4, 3, 2, 2, 3, 5, 8],
   [9, 9, 9, 9, 8, 7, 7, 6, 6, 5, 4, 4, 3, 3, 2, 2, 5, 8]]

/-- Code length of a symbol. -/
def lenOf (t sym : Nat) : Nat := (codeLens.getD t []).getD sym 0

/-- First code of a length in the canonical construction (R110). -/
def firstCode (lens : List Nat) : Nat → Nat
  | 0 => 0
  | n + 1 => (firstCode lens n + (if n = 0 then 0 else (lens.filter (· = n)).length)) * 2

/-- Canonical code of a symbol (R110): shorter codes first, among equal lengths rising symbols. -/
def codeOf (t sym : Nat) : Nat :=
  let lens := codeLens.getD t []
  let l := lens.getD sym 0
  firstCode lens l + ((lens.take sym).filter (· = l)).length

/-- Bits of a byte list, bit 0 of each byte first (R108). -/
def bitsOf (l : List Byte) : List Bool := (l.map fun b => (List.range 8).map fun i => bit b.toNat i).flatten

/-- Number of the bits, the first lowest. -/
def natOfBits : List Bool → Nat
  | [] => 0
  | b :: t => b.toNat + 2 * natOfBits t

/-- The next symbol of a bit stream: symbol and rest; codes come most significant bit first (R110). -/
def nextSym (t : Nat) : Nat → Nat → Nat → List Bool → Option (Nat × List Bool)
  | 0, _, _, _ => none
  | _, _, _, [] => none
  | fuel + 1, len, code, b :: rest =>
    let code := code * 2 + b.toNat
    let len := len + 1
    match (List.range 18).find? (fun sym => lenOf t sym = len ∧ codeOf t sym = code) with
    | some sym => some (sym, rest)
    | none => nextSym t fuel len code rest

/-- What reading the symbols of a block gives: the words in order (none: a zero word; some f: exponent field f), the bits
left, the cost U of R115, ESC symbols. -/
structure Syms where
  words : List (Option Nat) := []
  used : Nat := 0
  cost : Nat := 0
  esc : Nat := 0

/-- Read symbols until n words (R109, R113). Errors: 3 BAD_SYMBOLS, 4 ESC_NARROW. -/
def readSyms (t e ebase n : Nat) : Nat → Syms → List Bool → Except Nat Syms
  | 0, _, _ => .error 3
  | fuel + 1, a, bs =>
    if n ≤ a.words.length then .ok a
    else
      match nextSym t 9 0 0 bs with
      | none => .error 3
      | some (sym, rest) =>
        let l := lenOf t sym
        let cost := a.cost + if l ≤ 4 then 1 else 4
        if sym < 16 then
          if 2 ^ e ≤ ebase + sym then .error 3
          else readSyms t e ebase n fuel { a with words := a.words ++ [some (ebase + sym)], used := a.used + l, cost := cost } rest
        else if sym = 16 then
          let v := natOfBits (rest.take 4)
          readSyms t e ebase n fuel
            { a with words := a.words ++ List.replicate (v + 1) none, used := a.used + l + 4, cost := cost } (rest.drop 4)
        else if e ≤ 4 then .error 4
        else
          readSyms t e ebase n fuel
            { a with words := a.words ++ [some (natOfBits (rest.take e))], used := a.used + l + e, cost := cost + 4,
                     esc := a.esc + 1 } (rest.drop e)

/-- Is byte i of the raw block that starts at image offset `base` a side byte (R104). -/
def isSide (g base i : Nat) : Bool := decide (0 < g) && decide ((base + i) % g = g - 1)

/-- Join the nonzero words with their signs and mantissas (R105). -/
def joinWords (w m : Nat) : List (Option Nat) → List Bool → List Nat → List Nat
  | [], _, _ => []
  | none :: t, sg, ms => 0 :: joinWords w m t sg ms
  | some f :: t, sg, ms =>
    ((sg.headD false).toNat * 2 ^ (w - 1) + f * 2 ^ m + ms.headD 0) :: joinWords w m t (sg.drop 1) (ms.drop 1)

/-- Lay words and side bytes out as the 512 bytes of a raw block (R104). -/
def layBytes (g base : Nat) : Nat → Nat → List Byte → List Byte → List Byte
  | 0, _, _, _ => []
  | n + 1, i, ws, side =>
    if isSide g base i then side.headD 0 :: layBytes g base n (i + 1) ws (side.drop 1)
    else ws.headD 0 :: layBytes g base n (i + 1) (ws.drop 1) side

/-- A decoded block: its raw bytes, its stored length, raw or expanded, ESC symbols, more than 8 cycles. -/
structure Block where
  raw : List Byte
  clen : Nat
  isRaw : Bool
  esc : Nat
  slow : Bool

/-- Decode the block at a stream position (R107 to R113). Errors are the codes of Table 05-4, the lowest that holds. -/
def decodeBlock (fmt base : Nat) (img : Nat → Byte) (pos : Nat) : Except Nat Block :=
  let sp := splitOf fmt
  let w := sp.1
  let e := sp.2.1
  let m := sp.2.2.1
  let g := sp.2.2.2
  let byte := fun i => (img (pos + i)).toNat
  let table := byte 0 % 16
  let isRaw := bit (byte 0) 4
  let rsv := byte 0 / 32
  let ebase := byte 1
  let clen := byte 2 + 256 * byte 3
  let expBits := byte 4 + 256 * byte 5
  let nz := byte 6 + 256 * byte 7
  if rsv ≠ 0 ∨ (isRaw ∧ (clen ≠ 520 ∨ table ≠ 0 ∨ ebase ≠ 0 ∨ expBits ≠ 0 ∨ nz ≠ 0)) ∨ (ebase ≠ 0 ∧ e ≤ 4) then .error 1
  else if isRaw then
    .ok { raw := (List.range 512).map fun i => img (pos + 8 + i), clen := 520, isRaw := true, esc := 0, slow := false }
  else
    let side := (List.range 512).filter (isSide g base)
    let sN := side.length
    let n := (512 - sN) * 8 / w
    let p1 := 8 + (expBits + 7) / 8
    let p2 := p1 + (nz + 7) / 8
    let p3 := p2 + (nz * m + 7) / 8
    if clen % 8 ≠ 0 ∨ clen < 16 ∨ (496 ≤ clen ∧ clen ≤ 519) ∨ 520 < clen ∨ clen ≠ (p3 + sN + 7) / 8 * 8 then .error 2
    else
      let plane := fun a b => bitsOf ((List.range (b - a)).map fun i => img (pos + a + i))
      match readSyms table e ebase n (n + 1) {} ((plane 8 p1).take expBits) with
      | .error c => .error c
      | .ok a =>
        let nonzero := (a.words.filter Option.isSome).length
        if a.words.length ≠ n ∨ a.used ≠ expBits ∨ nonzero ≠ nz then .error 3
        else
          let mant := (chunks m nz ((plane p2 p3).take (nz * m))).map natOfBits
          let words := joinWords w m a.words (plane p1 p2) mant
          let bytes := packBits w words
          .ok { raw := layBytes g base 512 0 bytes ((List.range sN).map fun i => img (pos + p3 + i)), clen := clen,
                isRaw := false, esc := a.esc, slow := decide (8 < (a.cost + 127) / 128) }

/-- Expand the blocks of a stream until n raw bytes are there (R102, R103): the blocks, or the position and reason of the
first bad one. -/
def decodeStream (fmt n : Nat) (img : Nat → Byte) : Nat → Nat → Nat → Except (Nat × Nat) (List Block)
  | 0, _, _ => .ok []
  | fuel + 1, base, pos =>
    if n ≤ base then .ok []
    else
      match decodeBlock fmt base img pos with
      | .error c => .error (pos, c)
      | .ok b =>
        match decodeStream fmt n img fuel (base + 512) (pos + b.clen) with
        | .error x => .error x
        | .ok l => .ok (b :: l)

/-- Words of raw bytes (R104): low nibble first, little-endian. -/
def wordsOf (w : Nat) (l : List Byte) : List Nat := (chunks w (l.length * 8) (bitsOf l)).map natOfBits

/-- Bits of a number, `w` of them, lowest first. -/
def bitsOfNat (w v : Nat) : List Bool := (List.range w).map (bit v)

/-- Code of a symbol, most significant bit first. -/
def codeBits (t sym : Nat) : List Bool := ((bitsOfNat (lenOf t sym) (codeOf t sym))).reverse

/-- Symbols with their raw bits for a list of words (R109, R111): zero runs of up to 16. -/
def symsOf (e m ebase : Nat) : List Nat → Nat → List (Nat × List Bool)
  | [], 0 => []
  | [], k => [(16, bitsOfNat 4 (k - 1))]
  | x :: t, k =>
    if x = 0 then
      if k = 15 then (16, bitsOfNat 4 15) :: symsOf e m ebase t 0 else symsOf e m ebase t (k + 1)
    else
      let f := bits x m e
      let here := if ebase ≤ f ∧ f < ebase + 16 then (f - ebase, []) else (17, bitsOfNat e f)
      if k = 0 then here :: symsOf e m ebase t 0 else (16, bitsOfNat 4 (k - 1)) :: here :: symsOf e m ebase t 0

/-- EXP_BITS of the symbols under a table. -/
def expBitsOf (t : Nat) (l : List (Nat × List Bool)) : Nat := l.foldl (fun n x => n + lenOf t x.1 + x.2.length) 0

/-- The table of a mask with the fewest bits, the lowest number among equals (R111). -/
def bestTable (mask : Nat) (l : List (Nat × List Bool)) : Nat :=
  match setBits 16 mask with
  | [] => 0
  | t :: ts => ts.foldl (fun b x => if expBitsOf x l < expBitsOf b l then x else b) t

/-- Encode the raw block at an image offset (R111): its bytes, and whether it was stored raw. -/
def encodeBlock (fmt mask base : Nat) (raw : List Byte) : List Byte × Bool :=
  let sp := splitOf fmt
  let w := sp.1
  let e := sp.2.1
  let m := sp.2.2.1
  let g := sp.2.2.2
  let raw := raw ++ List.replicate (512 - raw.length) 0
  let idx := (List.range 512).zip raw
  let side := (idx.filter fun x => isSide g base x.1).map (·.2)
  let ws := wordsOf w ((idx.filter fun x => !isSide g base x.1).map (·.2))
  let nzs := ws.filter (· ≠ 0)
  let fmax := nzs.foldl (fun a x => max a (bits x m e)) 0
  let ebase := if e ≤ 4 ∨ nzs = [] then 0 else fmax - 15
  let syms := symsOf e m ebase ws 0
  let t := bestTable mask syms
  let eb := expBitsOf t syms
  let plane1 := packBits 1 ((syms.map fun x => codeBits t x.1 ++ x.2).flatten.map Bool.toNat)
  let plane2 := packBits 1 (nzs.map fun x => bits x (w - 1) 1)
  let plane3 := packBits m (nzs.map fun x => bits x 0 m)
  let body := List.flatten [plane1, plane2, plane3, side]
  let clen := (8 + body.length + 7) / 8 * 8
  if 496 ≤ clen then (bytesOfNat 8 (16 + 520 * 65536) ++ raw, true)
  else
    let hdr := t + ebase * 2 ^ 8 + clen * 2 ^ 16 + eb * 2 ^ 32 + nzs.length * 2 ^ 48
    (List.flatten [bytesOfNat 8 hdr, body, List.replicate (clen - 8 - body.length) 0], false)

/-- Encode a raw image (R102, R103): the stream, blocks compressed, blocks stored raw. -/
def encodeStream (fmt mask : Nat) (img : List Byte) : List Byte × Nat × Nat :=
  let bs := ((chunks 512 img.length img).zipIdx).map fun x => encodeBlock fmt mask (x.2 * 512) x.1
  ((bs.map (·.1)).flatten, (bs.filter fun b => !b.2).length, (bs.filter fun b => b.2).length)

/-- Count expanded blocks on the CODEC page (Table 05-9). -/
def State.countBlocks (s : State) (l : List Block) : State :=
  let ex := l.filter fun b => !b.isRaw
  let s := (s.count .codec 0x80 ex.length).count .codec 0x88 (l.length - ex.length)
  (s.count .codec 0xA0 (l.foldl (fun n b => n + b.esc) 0)).count .codec 0xB0 (ex.filter (·.slow)).length

/-- The CODEC page's part of a bad block (R114): the capture keeps the first. -/
def State.badBlock (s : State) (t : TileId) (source space addr reason : Nat) : State :=
  let s := (s.err .codec 0x01).count .codec 0xA8
  if s.flag .codec Reg.CODEC_ERR_INFO_VALID then s
  else
    let s := (s.setFld .codec Reg.CODEC_ERR_ADDR_LO_ADDR_LO (addr % 2 ^ 32)).setFld .codec
      Reg.CODEC_ERR_ADDR_HI_ADDR_HI (addr / 2 ^ 32)
    let s := (s.setFld .codec Reg.CODEC_ERR_INFO_TILE t.val).setFld .codec Reg.CODEC_ERR_INFO_SOURCE source
    let s := (s.setFld .codec Reg.CODEC_ERR_INFO_SPACE space).setFld .codec Reg.CODEC_ERR_INFO_REASON reason
    s.setFld .codec Reg.CODEC_ERR_INFO_VALID 1

/-- CODEC_ERR_INFO_CLEAR: writing 1 to VALID re-arms the capture (R114, Table 05-7). -/
def execCodecErrInfoClear (s : State) : Res :=
  .next (s.ifReady .codec fun s => s.setFld .codec Reg.CODEC_ERR_INFO_VALID 0)

end Sys2Proof.Machine
end

