-- ==== Sys2Proof/Machine/Operands.lean ====
section
/-! DEFINITION. Task descriptors and their operands: fields, address spaces, arrival checks, reading and writing of tensors
(R60 to R67, R417, Tables 03-2 to 03-4). -/

namespace Sys2Proof.Machine
open Sys2Proof

/-- Fields of a task descriptor (Table 03-2). Operand k: 0 A, 1 B, 2 C, 3 OUT. -/
def tTask (d : BitVec 512) : Nat := BV d 0 16
def tEngine (d : BitVec 512) : Nat := BV d 16 2
def tPri (d : BitVec 512) : Nat := BV d 18 2
def tEclass (d : BitVec 512) : Nat := BV d 20 4
def tAbft (d : BitVec 512) : Bool := BV d 24 1 != 0
def tRnd (d : BitVec 512) : Nat := BV d 25 2
def tSat (d : BitVec 512) : Bool := BV d 27 1 != 0
def tAccIn (d : BitVec 512) : Bool := BV d 28 1 != 0
def tDataflow (d : BitVec 512) : Bool := BV d 29 1 != 0
def tFmtA (d : BitVec 512) : Nat := BV d 32 4
def tFmtB (d : BitVec 512) : Nat := BV d 36 4
def tFmtOut (d : BitVec 512) : Nat := BV d 40 4
def tXpdA (d : BitVec 512) : Bool := BV d 44 1 != 0
def tXpdB (d : BitVec 512) : Bool := BV d 45 1 != 0
def tAnchor (d : BitVec 512) : Int := signed 16 (BV d 48 16)
def tInTags (d : BitVec 512) : List Nat := [BV d 64 8, BV d 72 8, BV d 80 8]
def tOutTag (d : BitVec 512) : Nat := BV d 88 8
def tReaders (d : BitVec 512) : Nat := BV d 96 4
def tEvt (d : BitVec 512) : Nat := BV d 100 4
def tSpace (d : BitVec 512) (k : Nat) : Nat := BV d (104 + 2 * k) 2
def tLayer (d : BitVec 512) : Nat := BV d 112 16
def tAddr (d : BitVec 512) (k : Nat) : Nat := BV d (128 + 32 * k) 32
def tM (d : BitVec 512) : Nat := BV d 256 16 + 1
def tN (d : BitVec 512) : Nat := BV d 272 16 + 1
def tK (d : BitVec 512) : Nat := BV d 288 16 + 1
def tProg (d : BitVec 512) : Nat := BV d 304 8
def tSeed (d : BitVec 512) : Nat := BV d 320 64
def tIndexBase (d : BitVec 512) : Nat := BV d 384 48
def tLdA (d : BitVec 512) : Nat := BV d 432 16
def tLdB (d : BitVec 512) : Nat := BV d 448 16
def tLdOut (d : BitVec 512) : Nat := BV d 464 16
def tAux (d : BitVec 512) : Nat := BV d 480 32

/-- Size of tile SRAM (R58). -/
def sramSize : Nat := 2097152

/-- Extent of rows × LD × 64 bytes, or 64 bytes when LD is 0 (R417). -/
def extent (rows ld : Nat) : Nat := if ld = 0 then 64 else rows * ld * 64

/-- Row bytes of an ATTENTION output, packed (R85). -/
def packedRow (fmt n : Nat) : Nat := (rowBytes fmt n + 63) / 64 * 64

/-- The operands the task's engine uses, with the extent each check takes; none: not checked at arrival (R417). -/
def tOperands (d : BitVec 512) : List (Nat × Option Nat) :=
  match tEngine d with
  | 0 =>
    [(0, some (extent (tM d) (tLdA d))), (1, some (extent (tK d) (tLdB d))), (3, some (extent (tM d) (tLdOut d)))] ++
      (if tAccIn d then [(2, some (extent (tM d) (tLdOut d)))] else [])
  | 1 =>
    [(0, some (extent (tM d) (tLdA d))), (1, some (extent (tK d) (tLdB d))), (2, some (extent (tM d) (tLdOut d))),
     (3, some (extent (tM d) (tLdOut d)))]
  | 2 =>
    let compute := !tDataflow d
    [(0, if compute then some (extent (tM d) (tLdA d)) else none), (1, some ((tAux d + 1) * 32)), (2, some 64),
     (3, if compute then some (tM d * packedRow (tFmtOut d) (tN d)) else none)]
  | _ => [(0, some (tAux d)), (3, some (tAux d))]

/-- DMA_FAR[k] of a tile (Table 03-10). -/
def State.farEntry (s : State) (t : TileId) (k : Nat) : FarEntry :=
  { key := BitVec.ofNat 32 (s.fld (.tile t) Reg.DMA_FAR_REGION_KEY k),
    part := Fin.ofNat 32 (s.fld (.tile t) Reg.DMA_FAR_PART k), node := s.fld (.tile t) Reg.DMA_FAR_NODE k,
    tc := Fin.ofNat 8 (s.fld (.tile t) Reg.DMA_FAR_TC k), valid := s.flag (.tile t) Reg.DMA_FAR_VALID k,
    base := s.fld (.tile t) Reg.DMA_FAR_BASE k, gen := s.fld (.tile t) Reg.DMA_FAR_GEN k }

/-- An operand's address breaks a SPACE check of Table 03-4. -/
def State.spaceBad (s : State) (t : TileId) (d : BitVec 512) (k : Nat) (n : Option Nat) : Bool :=
  let a := tAddr d k
  match tSpace d k with
  | 0 =>
    match n with
    | some n => decide (sramSize < a * 64 + n)
    | none => false
  | 1 => false
  | 2 =>
    tEngine d != 3 || bits a 15 14 != 0 ||
      (match n with
       | some n => decide (sramSize < a % 2 ^ 15 * 64 + n)
       | none => false)
  | _ =>
    let e := s.farEntry t (a / 2 ^ 28)
    tEngine d != 3 || !e.valid || decide (2 ^ 47 < e.base + a % 2 ^ 28 * 64 + tAux d)

/-- A buffer tag field names no tag there is (Table 03-4). -/
def tagBad (x : Nat) : Bool := decide (128 ≤ x ∧ x ≤ 254)

/-- The first failing arrival check, in the order of Table 03-4; the program check apart. -/
def State.descBad (s : State) (t : TileId) (d : BitVec 512) : Option Nat :=
  if 14 ≤ tFmtA d ∨ 14 ≤ tFmtB d ∨ 14 ≤ tFmtOut d then some 0x01
  else if (tEngine d = 0 ∨ tEngine d = 2) ∧ pairOk (tFmtA d) (tFmtB d) = false then some 0x02
  else if 2 ≤ tRnd d ∨ 3 ≤ tEvt d ∨ BV d 30 2 ≠ 0 ∨ BV d 46 2 ≠ 0 ∨ BV d 312 8 ≠ 0 then some 0x05
  else if (tOperands d).any fun o => s.spaceBad t d o.1 o.2 then some 0x06
  else if (tInTags d).any tagBad ∨ tagBad (tOutTag d) ∨ (tReaders d ≠ 0 ∧ tOutTag d = 255) then some 0x07
  else if tEngine d = 3 ∧ (tAux d = 0 ∨ tAux d % 64 ≠ 0) then some 0x08
  else none

/-- State codes of Table 06-6. -/
def PageState.code : PageState → Nat
  | .unwritten => 0
  | .resident .shallows => 1
  | .resident .basin => 2
  | .resident .deep => 3
  | .inTransit => 4
  | .remote => 5
  | .poisoned => 6

/-- How a read of tensor bytes ends: there, not yet there, or with the error that ends the task (R60, R63, R134). -/
inductive Span where
  | ok
  | wait
  | err (e : TaskError)
deriving DecidableEq, Repr

/-- First uncorrectable word of n bytes of tile SRAM, as a byte offset (R60). -/
def State.badWord (s : State) (t : TileId) (off n : Nat) : Option Nat :=
  (s.sramBad.find? fun e => decide (sramAddr t (off / 8 * 8) ≤ e.1) && decide (e.1 < sramAddr t 0 + off + n)).map fun e =>
    e.1 - sramAddr t 0

/-- Read n bytes of tile SRAM. -/
def State.spanSram (s : State) (t : TileId) (off n : Nat) : Span :=
  if sramSize < off + n then .err .extent
  else if !s.works (.tile t) then .wait
  else
    match s.badWord t off n with
    | some w => .err (.sramUE w)
    | none => .ok

/-- Byte offset of operand k in its space; for PEER, within the peer's tile SRAM; for FAR, at the target (Table 03-3). -/
def Slot.opBase (x : Slot) (k : Nat) : Nat :=
  let a := tAddr x.desc k
  match tSpace x.desc k with
  | 0 => a * 64
  | 1 => x.ssBase + a * 64
  | 2 => a % 2 ^ 15 * 64
  | _ => (if k = 3 then x.farOut.base else x.farA.base) + a % 2 ^ 28 * 64

/-- The tile whose SRAM operand k lies in. -/
def Slot.opTile (x : Slot) (t : TileId) (k : Nat) : TileId :=
  if tSpace x.desc k = 2 then tileOf (partOf t) (tAddr x.desc k / 2 ^ 29) else t

/-- What the checks of tile SRAM and of extents say of n bytes from byte `at_` of operand k. -/
def State.spanOp (s : State) (t : TileId) (x : Slot) (k at_ n : Nat) : Span :=
  match tSpace x.desc k with
  | 1 => if 2 ^ 47 < x.opBase k + at_ + n then .err .extent else .ok
  | 3 => .ok
  | _ => s.spanSram (x.opTile t k) (x.opBase k + at_) n

/-- Those bytes can be taken now. -/
def State.takes (s : State) (t : TileId) (x : Slot) (k at_ n : Nat) : Bool :=
  let a := x.opBase k + at_
  s.spanOp t x k at_ n == .ok &&
    (tSpace x.desc k != 1 || (pagesOf a n).all fun p => !s.mustWait p && s.serveRead p != .poisoned)

/-- Byte i of operand k as stored on this device. -/
def State.opByte (s : State) (t : TileId) (x : Slot) (k i : Nat) : Byte :=
  match tSpace x.desc k with
  | 1 => Map.get 0 s.mem (x.opBase k + i)
  | _ => Map.get 0 s.sram (sramAddr (x.opTile t k) (x.opBase k + i))

/-- An operand as a task reads it: the parts of the State Space it takes, its raw image or how its reading ends, and the blocks
expanded on the way (R61). -/
structure Operand where
  ranges : List (Nat × Nat) := []
  res : Except Span (Nat → Byte)
  blocks : List Block := []

/-- n bytes of each row, LD × 64 bytes apart (R64, R417). -/
def rowsOf (rows ld n : Nat) : List (Nat × Nat) := (List.range rows).map fun r => (r * ld * 64, n)

/-- An operand read raw: only its rows are loaded (R85). -/
def State.rawOperand (s : State) (t : TileId) (x : Slot) (k : Nat) (rows : List (Nat × Nat)) : Operand :=
  let bad := rows.findSome? fun r => match s.spanOp t x k r.1 r.2 with
    | .ok => none
    | e => some e
  { ranges := if tSpace x.desc k = 1 then rows.map fun r => (x.opBase k + r.1, r.2) else []
    res := match bad with
      | some e => .error e
      | none => .ok (s.opByte t x k) }

/-- A stream as far as it can be expanded: its blocks, the bytes looked at, and the position and reason of a bad block. -/
structure Stream where
  blocks : List Block := []
  len : Nat
  bad : Option (Nat × Nat) := none

/-- Expand a stream until n raw bytes are there, a block is bad or its bytes cannot be taken (R102, R113): a block is judged by its
header alone or, once its extent can be taken, whole. -/
def walkStream (fmt n : Nat) (img : Nat → Byte) (takes : Nat → Nat → Bool) : Nat → Nat → Nat → Stream
  | 0, _, pos => { len := pos }
  | fuel + 1, base, pos =>
    if n ≤ base then { len := pos }
    else if !takes pos 8 then { len := pos + 8 }
    else
      let clen := (img (pos + 2)).toNat + 256 * (img (pos + 3)).toNat
      match decodeBlock fmt base img pos with
      | .error c =>
        if c ≤ 2 then { len := pos + 8, bad := some (pos, c) }
        else if !takes pos clen then { len := pos + clen }
        else { len := pos + clen, bad := some (pos, c) }
      | .ok b =>
        if !takes pos clen then { len := pos + clen }
        else
          let w := walkStream fmt n img takes fuel (base + 512) (pos + b.clen)
          { w with blocks := b :: w.blocks }

/-- The raw image of a stream, or how its reading ends (R114); `addr`: where it starts, as CODEC_ERR_ADDR gives it. -/
def Stream.image (w : Stream) (n : Nat) (span : Span) (source space addr : Nat) : Except Span (Nat → Byte) :=
  match span, w.bad with
  | .ok, some (pos, reason) => .error (.err (.badBlock reason (Fin.ofNat 3 source) (Fin.ofNat 4 space) (addr + pos)))
  | .ok, none =>
    if w.blocks.length * 512 < n then .error .wait
    else
      let raw := w.blocks.flatMap fun b => b.raw
      .ok fun i => raw.getD i 0
  | e, _ => .error e

/-- An operand expanded at its port: n raw bytes of the stream at its base (R61, R102). `source`: CODEC_ERR_INFO.SOURCE. -/
def State.xpdOperand (s : State) (t : TileId) (x : Slot) (k n fmt source : Nat) : Operand :=
  let w := walkStream fmt n (s.opByte t x k) (s.takes t x k) (n / 512 + 1) 0 0
  { ranges := if tSpace x.desc k = 1 then [(x.opBase k, w.len)] else []
    res := w.image n (s.spanOp t x k 0 w.len) source (tSpace x.desc k) (x.opBase k)
    blocks := w.blocks }

/-- An operand of rows, raw or expanded. -/
def State.operand (s : State) (t : TileId) (x : Slot) (k : Nat) (rows : List (Nat × Nat)) (xpd : Bool) (fmt source : Nat) :
    Operand :=
  if xpd then s.xpdOperand t x k (rows.foldl (fun n r => max n (r.1 + r.2)) 0) fmt source else s.rawOperand t x k rows

/-- Row bytes of a KV8L tensor: its stride, or its N elements where the stride is 0 (R34, notes/assumptions/16). -/
def kvRowBytes (ld n : Nat) : Nat := if ld = 0 then max 64 ((n + 63) / 64 * 64) else ld * 64

/-- The side record of a page (Table 02-3); where the page has none its bytes are open. -/
def State.sideOf (s : State) (page : Nat) : Nat → Byte :=
  let l := s.leaf page
  if l.side || l.st == .unwritten then fun i => Map.get 0 s.tier.sideMem (page * 2176 + i) else Config.openSide

/-- The side record that holds for the byte at an address of operand k: that of its page (R36, R127). -/
def State.sideAt (s : State) (x : Slot) (k a : Nat) : Nat → Byte :=
  if tSpace x.desc k = 1 then s.sideOf (pageOf a) else Config.openSide

/-- Element j of the row at byte `off` of operand k; pages of `tok` tokens hold the rows of a KV8L operand (R32 to R35). -/
def State.elAt (s : State) (x : Slot) (k fmt tok row : Nat) (img : Nat → Byte) (off j : Nat) : El :=
  if fmt = 0xB then
    let a := x.opBase k + off + j
    kv8lEl tok row (s.sideAt x k a) (a % 65536 / row) (a % 65536 % row) (img (off + j))
  else rowEl fmt img off j

/-- Lanes of n elements from byte `off` of a KV8L operand that decode as NaN because X + L exceeds 254 (R35). -/
def State.lanesOut (s : State) (x : Slot) (k tok row off n : Nat) : Nat :=
  let a := x.opBase k + off
  (((List.range n).map fun j => (a + j) / 8).eraseDups.filter fun l =>
    kvRange tok row (s.sideAt x k (l * 8)) (l * 8 % 65536 / row) (l * 8 % 65536 % row) 1 != 0).length

/-- Where a unit of a tile writes: its name at the tier controller, whether it is a DMA task, and State Space or a tile's SRAM from
a base. -/
structure Dest where
  src : Accessor
  dma : Bool
  state : Bool
  base : Nat
  tile : TileId

/-- The name of a task at the tier controller. -/
def taskSrc (t : TileId) (i : Fin 64) (d : BitVec 512) : Accessor := if tEngine d = 3 then .tileDma t i else .tilePort t i

/-- The output of a task in LOCAL, STATE or PEER space. -/
def Slot.dest (x : Slot) (t : TileId) (i : Fin 64) : Dest :=
  { src := taskSrc t i x.desc, dma := tEngine x.desc == 3, state := tSpace x.desc 3 == 1, base := x.opBase 3,
    tile := x.opTile t 3 }

/-- Write bytes to a tile's SRAM (R60): an uncorrectable word covered in part ends the task; one covered whole is good
again. -/
def State.putSram (s : State) (u : TileId) (off : Nat) (b : List Byte) : Except Span State :=
  let n := b.length
  if sramSize < off + n then .error (.err .extent)
  else if !s.works (.tile u) then .error .wait
  else
    let cut := fun w => decide (w < off) || decide (off + n < w + 8)
    match s.badWord u off n with
    | none => .ok (s.wrSram u off b)
    | some _ =>
      match (s.sramBad.filter fun e => decide (sramAddr u (off / 8 * 8) ≤ e.1) && decide (e.1 < sramAddr u 0 + off + n)).find?
          fun e => cut (e.1 - sramAddr u 0) with
      | some e => .error (.err (.sramUE (e.1 - sramAddr u 0)))
      | none =>
        let s := s.wrSram u off b
        .ok { s with sramBad := Map.clear s.sramBad (sramAddr u 0 + off) n }

/-- The code with which the tier controller refuses a write to a page now (R125, R127, R133, R135). -/
def State.refuses (s : State) (page : Nat) (whole side : Bool) : Option Nat :=
  let opened : Option Nat := match s.openHome page side with
    | .error c => some c
    | .ok _ => none
  if !(s.heldOn page).isEmpty then none
  else
    match (s.leaf page).st with
    | .poisoned => if whole then opened else some 0x04
    | .unwritten => opened
    | .remote => if s.migRoom && (s.findHome page (s.pullSide page)).isNone then some 0x02 else none
    | .resident t => if side && !(s.leaf page).side && (s.findSide t (zoneOf page)).isNone then some 0x02 else none
    | _ => none

/-- A unit's writes as they go: the pages counted as accessed (R139), and the state. -/
abbrev Putting := List Nat × State

/-- One page's part of a write of a unit of the device (Table 06-7, R133, R135, R136): applied, given to the tier controller to
hold, or refused. `side`: the write brings a side record. Only a DMA task's write covers a whole POISONED page. -/
def Putting.page (a : Putting) (d : Dest) (side : Bool) (off : Nat) (b : List Byte) : Except (Span × State) Putting :=
  let p := pageOf off
  let s := if a.1.contains p then a.2 else a.2.note p
  match s.refuses p (d.dma && b.length == 65536) side with
  | some c => .error (.err (.refused c off), s.noteRefusal d.src c)
  | none =>
    .ok (p :: a.1.filter (· ≠ p),
      if s.writable off b.length then s.applyWrite off b
      else
        s.serveHeldWrite { src := d.src, offset := off, len := b.length, write := some b, ticket := 0, own := true } b side)

/-- Bytes written to a destination, page by page, until a page refuses. -/
def Putting.bytes (a : Putting) (d : Dest) (at_ : Nat) (b : List Byte) : Except (Span × State) Putting :=
  let off := d.base + at_
  if b.isEmpty then .ok a
  else if !d.state then
    match a.2.putSram d.tile off b with
    | .ok s => .ok (a.1, s)
    | .error e => .error (e, a.2)
  else if 2 ^ 47 < off + b.length then .error (.err .extent, a.2)
  else
    (pagesOf off b.length).foldlM (fun a p =>
      let x := pieceIn off b p
      a.page d false x.1 x.2) a

/-- Pieces written in order. -/
def State.putAll (s : State) (d : Dest) (ws : List (Nat × List Byte)) : Except (Span × State) State :=
  match ws.foldlM (fun (a : Putting) w => a.bytes d w.1 w.2) (([], s) : Putting) with
  | .ok a => .ok a.2
  | .error e => .error e

/-- A resident page without a side record takes a side slot for a new one, all zero (R127); none where the tier has none. -/
def State.takeSide (s : State) (page : Nat) : Option State :=
  let l := s.leaf page
  match l.st with
  | .resident t =>
    if l.side then some s
    else
      (s.findSide t (zoneOf page)).map fun n =>
        let s := (s.useSide t (zoneOf page) n true).setLeaf page { l with side := true, sideSlot := n }
        s.setTier { s.tier with sideMem := Map.clear s.tier.sideMem (page * 2176) 2176 }
  | _ => some s

/-- Bytes of a page's side record. -/
def State.putSide (s : State) (page at_ : Nat) (b : List Byte) : State :=
  s.setTier { s.tier with sideMem := Map.store s.tier.sideMem (page * 2176 + at_) b }

/-- Write one 64-element column of a KV8L row (R36): its elements, its SCALE and, in the first row of a page without a side
record, its LANE_OFS. `fresh`: the page had none when the row began. -/
def Putting.kvColumn (a : Putting) (d : Dest) (tok row : Nat) (sat : Bool) (fresh : Nat → Bool) (at_ : Nat)
    (xs : List (El × Rnd)) : Except (Span × State) Putting :=
  let off := d.base + at_
  let t := off % 65536 / row
  let b := off % 65536 % row
  let p := pageOf off
  let side := if d.state then a.2.sideOf p else Config.openSide
  let first := d.state && fresh p && t == 0
  let ls := if first then laneOffsets ((lanesOf xs).map laneExp)
    else (List.range 8).map fun j => (kvScaleAt tok row side t (b + 8 * j)).2
  let q := Sys2Proof.Machine.kvColumn sat ls xs
  if !d.state then a.bytes d at_ q.1
  else
    match a.page d true off q.1 with
    | .error e => .error e
    | .ok a =>
      let s := (a.2.takeSide p).getD a.2
      let s := s.putSide p (sideScale row t (b / 64)) [BitVec.ofNat 8 q.2]
      .ok (a.1, if first then s.putSide p (sideLanes tok row (b / 64)) ((packBits 4 ls ++ [0, 0, 0, 0]).take 4) else s)

/-- Write a row of a KV page: its columns (R36) and, where the vector unit gives one, its tag (R226). -/
def Putting.kvRow (a : Putting) (d : Dest) (tok row : Nat) (sat : Bool) (at_ : Nat) (xs : List (El × Rnd))
    (tag : Option Nat) : Except (Span × State) Putting :=
  let s0 := a.2
  let fresh := fun p => !(s0.leaf p).side
  let cols := (chunks 64 xs.length xs).zipIdx
  match cols.foldlM (fun (a : Putting) c => a.kvColumn d tok row sat fresh (at_ + 64 * c.2) c.1) a with
  | .error e => .error e
  | .ok a =>
    let off := d.base + at_
    match tag with
    | some v => if d.state then .ok (a.1, a.2.putSide (pageOf off) (sideTag tok row (off % 65536 / row)) (bytesOfNat 4 v))
        else .ok a
    | none => .ok a

/-- Pages of a KV8L output that cannot take a side record now: they are on their way, or on another device. -/
def State.kvAway (s : State) (d : Dest) (at_ n : Nat) : List (Nat × Nat) :=
  if d.state then
    (piecesOf (d.base + at_) n).filter fun x =>
      (s.leaf (pageOf x.1)).st == .inTransit || (s.leaf (pageOf x.1)).st == .remote
  else []

/-- The products that R39 counts in the ACCX element at an offset of tile SRAM or, with `state`, of the State Space: none where
the element is not what a task left there. -/
def State.accCount (s : State) (state : Bool) (t : TileId) (a : Nat) : Nat :=
  let e := Map.get (0, 0) (if state then s.tier.acc else (s.tile t).acc) a
  if e.2 = natOfBytes (if state then s.rd a 16 else s.rdSram t a 16) then e.1 else 0

def State.setAcc (s : State) (state : Bool) (t : TileId) (a n v : Nat) : State :=
  if state then s.setTier { s.tier with acc := Map.set (0, 0) s.tier.acc a (n, v) }
  else s.setTile t { s.tile t with acc := Map.set (0, 0) (s.tile t).acc a (n, v) }

/-- Raw bytes copied from one place of the device to another take the counts of their ACCX elements along. -/
def State.copyAcc (s : State) (fromState : Bool) (u : TileId) (src : Nat) (toState : Bool) (v : TileId) (dst n : Nat) : State :=
  let l := (if fromState then s.tier.acc else (s.tile u).acc).filter fun e => decide (src ≤ e.1 ∧ e.1 + 16 ≤ src + n)
  s.each l fun s e => if s.accCount fromState u e.1 = 0 then s else s.setAcc toState v (dst + (e.1 - src)) e.2.1 e.2.2

end Sys2Proof.Machine
end

