-- ==== Sys2Proof/Machine/Tile.lean ====
section
/-! DEFINITION. The tile: scoreboard, tags, MATRIX, VECTOR and DMA tasks, task errors, programs (R51 to R80). -/

namespace Sys2Proof.Machine
open Sys2Proof

def State.bufTag (s : State) (t : TileId) (k : Nat) : Tag := Map.get {} (s.tile t).tags k

def State.setBufTag (s : State) (t : TileId) (k : Nat) (v : Tag) : State :=
  let x := s.tile t
  s.setTile t { x with tags := Map.set {} x.tags k v }

/-- The tags of a descriptor allow a start (R70). -/
def State.tagsReady (s : State) (t : TileId) (d : BitVec 512) : Bool :=
  (tInTags d).all (fun k => k == 255 || (s.bufTag t k).ready) && (tOutTag d == 255 || !(s.bufTag t (tOutTag d)).ready)

/-- The program a VECTOR task names is loaded, and no load of its slot is in progress (R78). -/
def State.progReady (s : State) (t : TileId) (d : BitVec 512) : Bool :=
  tEngine d != 1 ||
    ((Map.get {} (s.tile t).progs (tProg d)).codeLen != 0 && ((s.tile t).load.map (·.1)) != some (tProg d))

/-- Tasks RUNNING on an engine; the matrix engine and the attention sequencer are one (R55, R56). -/
def State.engineBusy (s : State) (t : TileId) (e : Nat) : Bool :=
  let run := (s.tile t).slots.filter fun x => x.2.st == SlotState.running
  let on := fun (l : List Nat) => (run.filter fun x => l.contains (tEngine x.2.desc)).length
  if e = 3 then decide (4 ≤ on [3]) else if e = 1 then decide (1 ≤ on [1]) else decide (1 ≤ on [0, 2])

/-- Slot a is selected before slot b (R73). -/
def Slot.ahead (a b : Slot) : Bool :=
  decide (tPri a.desc < tPri b.desc) || (tPri a.desc == tPri b.desc && decide (a.order < b.order))

/-- WAITING slots whose condition holds become READY (Table 03-5), each marked with whether the conditions of R76 hold for it. -/
def State.promote (s : State) (t : TileId) : State :=
  let x := s.tile t
  let rise := fun (y : Slot) => y.st == SlotState.waiting && s.tagsReady t y.desc && s.progReady t y.desc
  let ready := x.slots.filter fun e => e.2.st == SlotState.ready || rise e.2
  let prompt := fun (y : Slot) =>
    !s.engineBusy t (tEngine y.desc) && s.covers t y.desc &&
      !ready.any fun e => tEngine e.2.desc == tEngine y.desc && e.2.ahead y
  let up := fun (e : Nat × Slot) => if rise e.2 then (e.1, { e.2 with st := .ready, prompt := prompt e.2 }) else e
  s.setTile t { x with slots := x.slots.map up }

/-- An ending task takes one reader off each distinct input tag (R70). -/
def State.releaseTags (s : State) (t : TileId) (d : BitVec 512) : State :=
  s.each ((tInTags d).eraseDups.filter (· ≠ 255)) fun s k =>
    let g := s.bufTag t k
    if g.readers ≤ 1 then s.setBufTag t k {} else s.setBufTag t k { g with readers := g.readers - 1 }

/-- The tag updates of a completed task (R70). -/
def State.completeTags (s : State) (t : TileId) (d : BitVec 512) : State :=
  let s := s.releaseTags t d
  if tOutTag d ≠ 255 ∧ tReaders d ≠ 0 then s.setBufTag t (tOutTag d) { ready := true, readers := tReaders d } else s

/-- A task completes: its slot is FREE and the waiting tasks are looked at again (Table 03-5). -/
def State.taskEnd (s : State) (t : TileId) (i : Fin 64) : State :=
  let d := (s.slot t i).desc
  let s := s.disown (taskSrc t i d)
  (((((s.completeTags t d).setSlot t i {}).count (.tile t) 0x80).send (.taskDone t (tTask d))).promote t)

/-- The event report of a completing task: accepted, the task ends; else it waits in its slot (R69, R269). -/
def State.finish (s : State) (t : TileId) (i : Fin 64) : State :=
  let x := s.slot t i
  let p := partOf t
  if tEvt x.desc = 0 then s.taskEnd t i
  else
    let r := s.reportEvent p (t.val % 8) (tEvt x.desc == 2) (tLayer x.desc)
    if r.1 then r.2.taskEnd t i
    else if x.reportWait then s
    else (s.setSlot t i { x with reportWait := true }).count (.disp p) 0xA0

/-- What an error record of a task's error holds (R315, Table 14-2): PG_ERR code, severity, syndrome. -/
def State.errorOf (s : State) (e : TaskError) : Nat × Nat × List Byte :=
  let tier := fun (code off : Nat) =>
    let l := s.leaf (pageOf off)
    List.flatten [[4], bytesOfNat 3 code, bytesOfNat 8 (pageOf off * 65536), bytesOfNat 4 l.st.code, bytesOfNat 4 l.frame]
  match e with
  | .abft row col rows cols =>
    (0x04, 2, List.flatten [[1, 0], bytesOfNat 2 row, bytesOfNat 2 col, bytesOfNat 2 rows, bytesOfNat 2 cols])
  | .anchorMismatch => (0x03, 1, [])
  | .sramUE off => (0x0C, 2, List.flatten [[2, 0, 0, 0], bytesOfNat 4 off, bytesOfNat 1 (off / 64 % 32)])
  | .badBlock reason src _ addr =>
    (0x0C, 1, List.flatten [[3, 0, 0, 0], bytesOfNat 8 addr, bytesOfNat 1 reason, bytesOfNat 1 src.val])
  | .poisoned off => (0x0C, 1, tier 0 off)
  | .farNak code gfa => (0x0D, 1, List.flatten [[5], bytesOfNat 3 code, bytesOfNat 8 gfa.toNat])
  | .refused code off => (0x06, 1, tier code off)
  | .extent => (0x06, 1, [])

/-- A tile reports the end of a task with a PG_ERR code: the slot is FREE, its input tags are released (Table 03-5). -/
def State.taskDrop (s : State) (t : TileId) (i : Fin 64) (code : Nat) (poisoned : Bool) : State :=
  let x := s.slot t i
  let s := ((((s.disown (taskSrc t i x.desc)).unmerge t i).err (.tile t) code)).irq (.tile t) 0
  let s := ((s.releaseTags t x.desc).setSlot t i {}).promote t
  s.taskFailed t x.reqSlot (tTask x.desc) code poisoned

/-- The tasks in MERGING on a failed merge slot end with the failing task's code, and the slot is FREE (Table 04-6). -/
def State.mergeFail (s : State) (p : PartId) (m code : Nat) : State :=
  let x := s.part p
  let tasks := (Map.get {} x.merge m).tasks
  let s := s.setPart p { x with merge := Map.set {} x.merge m {} }
  s.each tasks fun s e =>
    let t : TileId := Fin.ofNat 256 e.1
    let i : Fin 64 := Fin.ofNat 64 e.2
    if (s.slot t i).st = .merging then s.taskDrop t i code false else s

/-- The fields of an ATTENTION task that its merge slot latches (R98): ENTRY, D, M, HS, target, output. -/
def mergeKey (d : BitVec 512) : List Nat :=
  [tAux d, tN d, tM d, tLdOut d % 32, tLdB d / 2 ^ (tLdOut d % 32), tAddr d 3, tSpace d 3, tFmtOut d, tRnd d, (tSat d).toNat,
   tSeed d, tIndexBase d]

/-- A failing ATTENTION task takes its merge slot with it (Table 04-6). -/
def State.mergeTaskFail (s : State) (t : TileId) (d : BitVec 512) (code : Nat) : State :=
  let p := partOf t
  let m : MergeSlot := Map.get {} (s.part p).merge (tProg d)
  if tEngine d = 2 ∧ m.st = .gathering ∧ mergeKey m.desc = mergeKey d then s.mergeFail p (tProg d) code else s

/-- A RUNNING task ends with an error of a code, severity and syndrome (Table 03-5, R315). -/
def State.taskError (s : State) (t : TileId) (i : Fin 64) (code severity : Nat) (syn : List Byte) (poisoned : Bool) : State :=
  let x := s.slot t i
  let s := s.record (.tile t)
    { severity := severity, engine := tEngine x.desc, code := code, taskId := tTask x.desc,
      reqId := (s.rs (partOf t) x.reqSlot).reqId, layer := tLayer x.desc, syn := syn }
  (s.taskDrop t i code poisoned).mergeTaskFail t x.desc code

/-- A RUNNING task's error (Table 03-5): counters, the codec's capture, the record, the report. An uncorrectable word counts at
the task's own tile, wherever it lies (DESIGN CHOICE, notes/assumptions/55). -/
def State.runningError (s : State) (t : TileId) (i : Fin 64) (e : TaskError) : State :=
  let x := s.errorOf e
  let s := match e with
    | .abft _ _ _ _ => s.count (.tile t) 0xB0
    | .sramUE _ => s.count (.tile t) 0xD8
    | .badBlock reason src space addr => s.badBlock t src.val space.val addr reason
    | _ => s
  let poisoned : Bool := match e with
    | .poisoned _ => true
    | _ => false
  s.taskError t i x.1 x.2.1 x.2.2 poisoned

/-- A tensor access did not end well: with an error the task ends, else it goes on waiting. -/
def State.spanEnd (s : State) (t : TileId) (i : Fin 64) : Span → State
  | .err e => s.runningError t i e
  | _ => s

/-- A task reads its operands (R60, R63, R85, R116, R119): their State Space parts as one access of each page, held where a page is
on its way; then their expanded blocks count, and the first operand that ends with an error ends the task. -/
def State.reading (s : State) (t : TileId) (i : Fin 64) (ops : List Operand) (k : State → State) : State :=
  let bad := ops.findSome? fun o => match o.res with
    | .error .wait => none
    | .error e => some e
    | .ok _ => none
  match s.ownReadAt (taskSrc t i (s.slot t i).desc) (pagePieces (ops.flatMap (·.ranges))) with
  | (.wait, s) => s
  | (.poisoned off, s) => s.runningError t i (.poisoned off)
  | (.refused c off, s) => s.runningError t i (.refused c off)
  | (.failed st gfa, s) => s.runningError t i (.farNak st (BitVec.ofNat 64 gfa))
  | (.data, s) =>
    let s := s.countBlocks (ops.flatMap (·.blocks))
    match bad with
    | some e => s.spanEnd t i e
    | none => k s

/-- No check ends the reading of an operand. -/
def Operand.fine (o : Operand) : Bool :=
  match o.res with
  | .ok _ => true
  | .error _ => false

/-- The raw image of an operand that was read. -/
def Operand.img (o : Operand) : Nat → Byte :=
  match o.res with
  | .ok f => f
  | .error _ => fun _ => 0

/-- A task's writes are with the tier controller: with all of them accepted it completes (R68, R136). -/
def State.taskWrites (s : State) (t : TileId) (i : Fin 64) : State :=
  match s.writesEnd (taskSrc t i (s.slot t i).desc) with
  | (.accepted, s) => s.finish t i
  | (.wait, s) => s.setSlot t i { s.slot t i with wrote := true }
  | (.refused c off, s) => s.runningError t i (.refused c off)
  | (.failed st gfa, s) => s.runningError t i (.farNak st (BitVec.ofNat 64 gfa))

/-- A refused descriptor is held by the Dispatcher, at the head of its queue (R74). -/
def State.descBack (s : State) (t : TileId) (q : Queued) : State :=
  let x := s.part (partOf t)
  let key := t.val % 8 * 4 + tPri q.desc
  s.setPart (partOf t) { x with store := Map.set [] x.store key (q :: Map.get [] x.store key) }

/-- TASK_DESCRIPTOR_ARRIVE: a descriptor reaches a tile scoreboard (R66, R67, R74). -/
def execTaskDescriptorArrive (t : TileId) (slot : Fin 1024) (d : BitVec 512) (s : State) : Res :=
  .next (s.ifReady (.tile t) fun s =>
    let x := s.tile t
    let loading := (x.load.map (·.1)) == some (tProg d)
    let bad : Option Nat := match s.descBad t d with
      | some c => some c
      | none => if tEngine d = 1 ∧ (Map.get {} x.progs (tProg d)).codeLen = 0 ∧ loading = false then some 0x09 else none
    let sent := x.coming.find? fun q => q.desc == d && q.slot == slot.val
    let s := s.setTile t { x with coming := match sent with
      | some q => x.coming.erase q
      | none => x.coming }
    match lowest 64 fun i => (s.slot t (Fin.ofNat 64 i)).st == SlotState.free with
    | none => (s.descBack t (sent.getD { desc := d, slot := slot.val, launch := 0 })).count (.tile t) 0xE0
    | some i =>
      match bad with
      | some c => ((s.err (.tile t) c).irq (.tile t) 0).taskFailed t slot.val (tTask d) c false
      | none =>
        let base := s.fldAddr (.tile t) Reg.SS_BASE_LO_BASE_LO Reg.SS_BASE_HI_BASE_HI
        let far := fun k => if tEngine d = 3 ∧ tSpace d k = 3 then s.farEntry t (tAddr d k / 2 ^ 28) else {}
        let y : Slot :=
          { st := .waiting, desc := d, reqSlot := slot.val, order := x.nextOrder, since := s.now, ssBase := base,
            farA := far 0, farOut := far 3 }
        let s := s.setTile t { s.tile t with nextOrder := x.nextOrder + 1 }
        (s.setSlot t (Fin.ofNat 64 i) y).promote t)

/-- A READY task may start: tags, order on its OUT_TAG, energy (R70, R72, R272). -/
def State.startable (s : State) (t : TileId) (x : Slot) : Bool :=
  x.st == SlotState.ready && s.tagsReady t x.desc && s.progReady t x.desc && s.covers t x.desc &&
    !(tOutTag x.desc != 255 &&
      (s.tile t).slots.any fun e => tOutTag e.2.desc == tOutTag x.desc && decide (e.2.order < x.order))

/-- The task R73 selects: lowest PRI, then the earliest arrival. -/
def pickTask : List (Nat × Slot) → Option (Nat × Slot)
  | [] => none
  | e :: l =>
    match pickTask l with
    | none => some e
    | some b => if b.2.ahead e.2 then some b else some e

/-- Tasks that wait for the engine another one takes no longer meet the conditions of R76. -/
def State.unprompt (s : State) (t : TileId) (engine : Nat) : State :=
  let x := s.tile t
  let shares := fun (e : Nat) => e == engine || (e % 2 == 0 && engine % 2 == 0)
  let drop := fun (e : Nat × Slot) =>
    if e.2.st == SlotState.ready && shares (tEngine e.2.desc) then (e.1, { e.2 with prompt := false }) else e
  s.setTile t { x with slots := x.slots.map drop }

/-- TASK_DISPATCH: an engine takes the task R73 selects; `latency`: TCLK cycles since its last operand-ready event, which MAXLAT
takes where the conditions of R76 have held since. DESIGN CHOICE (notes/assumptions/55): 8 bits hold at most 255. -/
def execTaskDispatch (t : TileId) (engine : Fin 4) (latency : Nat) (s : State) : Res :=
  .next (s.ifReady (.tile t) fun s =>
    if s.engineBusy t engine.val ∨ s.quiescing (.disp (partOf t)) then s
    else
      match pickTask ((s.tile t).slots.filter fun e => tEngine e.2.desc == engine.val && s.startable t e.2) with
      | none => s
      | some (i, x) =>
        let s := s.setSlot t (Fin.ofNat 64 i) { x with
          st := .running, tblMask := s.fld .codec Reg.CODEC_ENC_CTRL_TBL_MASK }
        let y := s.tile t
        let cost := s.fld (.disp (partOf t)) Reg.DISP_ECOST_COST_NJ (tEclass x.desc)
        let s := if s.flag (.disp (partOf t)) Reg.DISP_CTRL_ENERGY_EN then s.setTile t { y with credit := y.credit - cost } else s
        let s := s.unprompt t engine.val
        let s := s.when x.prompt fun s =>
          s.setFld (.tile t) Reg.SB_STAT_MAXLAT (max (s.fld (.tile t) Reg.SB_STAT_MAXLAT) (min latency 255))
        s.sample 5 t.val none latency)

/-- An output value of row-major index i, with its rounding (R43). -/
def rounded (d : BitVec 512) (i : Nat) (x : El) : El × Rnd :=
  (x, if tRnd d = 1 then .stoch (srWord (tSeed d) (tIndexBase d + i)) else .even)

/-- Tokens of a page of a task's model (R34, Table 12-14). -/
def State.modelTok (s : State) (t : TileId) (x : Slot) : Nat :=
  2 ^ s.fld (.admt (partOf t)) Reg.ADMT_MODEL_TOK_LOG2 (s.rs (partOf t) x.reqSlot).model.val

/-- Products of an output: K, or with an MX operand its padded K (R33). -/
def matK (d : BitVec 512) : Nat := if isMx (tFmtA d) ∨ isMx (tFmtB d) then (tK d + 31) / 32 * 32 else tK d

/-- Operand A of a MATRIX task: its rows. -/
def State.matOpA (s : State) (t : TileId) (x : Slot) : Operand :=
  let d := x.desc
  s.operand t x 0 (rowsOf (tM d) (tLdA d) (rowBytes (tFmtA d) (tK d))) (tXpdA d) (tFmtA d) 0

/-- Operand B: its K rows of N elements; in an MX format, its extent (R33, R417). -/
def State.matOpB (s : State) (t : TileId) (x : Slot) : Operand :=
  let d := x.desc
  let rows := if isMx (tFmtB d) then [(0, extent (tK d) (tLdB d))] else rowsOf (tK d) (tLdB d) (rowBytes (tFmtB d) (tN d))
  s.operand t x 1 rows (tXpdB d) (tFmtB d) 1

/-- Operand C: the ACCX start of the accumulators (R40). -/
def State.matOpC (s : State) (t : TileId) (x : Slot) : Operand :=
  let d := x.desc
  if tAccIn d then s.operand t x 2 (rowsOf (tM d) (tLdOut d) (tN d * 16)) false 0xD 0 else { res := .ok fun _ => 0 }

/-- Element (m, k) of operand A. DESIGN CHOICE (notes/assumptions/53): where only B is in an MX format, A's elements beyond K are
zero. -/
def State.elA (s : State) (t : TileId) (x : Slot) (img : Nat → Byte) (m k : Nat) : El :=
  let d := x.desc
  if k < tK d ∨ isMx (tFmtA d) then
    s.elAt x 0 (tFmtA d) (s.modelTok t x) (kvRowBytes (tLdA d) (tK d)) img (m * tLdA d * 64) k
  else .fin 0 0

/-- Element (k, n) of operand B (R33, R417): in an MX format, element k mod 32 of the block of its column that holds it. -/
def State.elB (s : State) (t : TileId) (x : Slot) (img : Nat → Byte) (k n : Nat) : El :=
  let d := x.desc
  let f := tFmtB d
  if isMx f then
    let at_ := Config.mxB f (tLdB d) (k / 32) n % (extent (tK d) (tLdB d) - mxGroup f + 1)
    rowEl f img at_ (k % 32)
  else if k < tK d then s.elAt x 1 f (s.modelTok t x) (kvRowBytes (tLdB d) (tN d)) img (k * tLdB d * 64) n
  else .fin 0 0

/-- The accumulator of an output on the exact path (R37): from its start, product by product. -/
def matAcc (anchor : Int) (n : Nat) (a b : Nat → El) (start : AccV) : AccV :=
  (List.range n).foldl (fun acc k => acc.addEl anchor ((a k).mul (b k))) start

/-- The sum of an output on the 16-bit path (R47). -/
def matSum (n : Nat) (a b : Nat → El) : Word := sum16 ((List.range n).map fun k => prod16 (a k) (b k))

/-- The tensor at C holds an element of another anchor (R40). -/
def anchorBad (d : BitVec 512) (c : Nat → Byte) : Bool :=
  tAccIn d && (List.range (tM d)).any fun m => (List.range (tN d)).any fun n =>
    bits (natOfBytes ((List.range 16).map fun i => c (m * tLdOut d * 64 + n * 16 + i))) 80 16 != BV d 48 16

/-- A MATRIX output that no rule gives: an ACCX or ACC_IN on the 16-bit path (notes/assumptions/16). -/
def matOpen (d : BitVec 512) : Bool := half16 (tFmtA d) && (tAccIn d || tFmtOut d == 0xD)

/-- The product blocks of up to 128 × 128 outputs: their rows and columns (R51). -/
def abftBlocks (m n : Nat) : List (List Nat × List Nat) :=
  (chunks 128 m (List.range m)).flatMap fun rs => (chunks 128 n (List.range n)).map fun cs => (rs, cs)

/-- A row or column of a block is checked: it holds no product flagged BELOW_ANCHOR (R52). -/
def abftChecked (l : List AccV) : Bool := l.all fun a => a.nBelow == 0

/-- Rows and columns of the blocks left unchecked (R52). -/
def abftSkips (m n : Nat) (acc : Nat → Nat → AccV) : Nat :=
  (abftBlocks m n).foldl (fun k b =>
    k + (b.1.filter fun i => !abftChecked (b.2.map (acc i))).length +
      (b.2.filter fun j => !abftChecked (b.1.map fun i => acc i j)).length) 0

/-- An element at weight 2^A. -/
def atAnchor (anchor : Int) : El → Int
  | .fin m q => if q < anchor then m / 2 ^ (anchor - q).toNat else m * 2 ^ (q - anchor).toNat
  | _ => 0

/-- A product enters an accumulator (R38, R41). -/
def entersAcc (anchor : Int) (p : El) : Bool :=
  match p with
  | .fin _ _ => decide ((atAnchor anchor p).natAbs < 2 ^ 63)
  | _ => false

/-- The element of A·(B·1), or of (1ᵀ·A)·B, that one row or column of a block is checked against (R51): `x k` times the sum of the
block's `y k j`, the products that enter no accumulator apart (notes/assumptions/57). -/
def abftSide (anchor : Int) (n : Nat) (x : Nat → El) (js : List Nat) (y : Nat → Nat → El) : Int :=
  (List.range n).foldl (fun s k =>
    let sum := (js.filter fun j => entersAcc anchor ((x k).mul (y k j))).foldl (fun z j => z.add (y k j)) (.fin 0 0)
    s + atAnchor anchor ((x k).mul sum)) 0

/-- The failing rows and columns on the exact path (R52): sums modulo 2^80, the start tensor's on the checksum side too. -/
def abftExact (d : BitVec 512) (a b : Nat → Nat → El) (acc start : Nat → Nat → AccV) : List Nat × List Nat :=
  let anchor := tAnchor d
  let sum := fun (l : List AccV) => l.foldl (fun z x => z + (x.v : Int)) 0
  let differ := fun (cells starts : List AccV) (side : Int) =>
    abftChecked cells && decide (unsigned 80 (sum cells) ≠ unsigned 80 (sum starts + side))
  let bs := abftBlocks (tM d) (tN d)
  (bs.flatMap fun q => q.1.filter fun m =>
      differ (q.2.map (acc m)) (q.2.map (start m)) (abftSide anchor (matK d) (a m) q.2 fun k j => b k j),
   bs.flatMap fun q => q.2.filter fun n =>
      differ (q.1.map fun m => acc m n) (q.1.map fun m => start m n)
        (abftSide anchor (matK d) (fun k => b k n) q.1 fun k j => a j k))

/-- The check of one row or column on the 16-bit path (R53): `k` products, T, the sum, the check and s of the checksum side, the
outputs. -/
def abftFail16 (k tol : Nat) (sum check mag : Word) (outs : List Word) : Bool :=
  match el32 sum, el32 check, el32 mag with
  | .nan, _, _ => !outs.any fun w => el32 w = .nan
  | _, .nan, _ => !outs.any fun w => el32 w = .nan
  | _, _, .inf _ => false
  | .fin m p, .fin n q, .fin s e =>
    let x := dyAdd m p (-n) q
    let tau : Int × Int := (((k : Int) + 128) * s, e - 23 + tol)
    decide (0 < (dyAdd x.1.natAbs x.2 (-tau.1) tau.2).1)
  | _, _, _ => true

/-- The binary32 sum of up to 128 words by the tree of R47. -/
def blockSum (l : List Word) : Word := treeSum 7 (l ++ List.replicate (128 - l.length) 0)

/-- The failing rows and columns on the 16-bit path (R53). -/
def abft16 (d : BitVec 512) (tol : Nat) (a b : Nat → Nat → El) (out : Nat → Nat → Word) : List Nat × List Nat :=
  let n := tK d
  let side := fun (x : Nat → El) (js : List Nat) (y : Nat → Nat → El) =>
    (List.range n).map fun k => mul32 (round32 (x k) false) (blockSum (js.map fun j => round32 (y k j) false))
  let fails := fun (outs : List Word) (ps : List Word) =>
    abftFail16 n tol (blockSum outs) (sum16 ps) (sum16 (ps.map fun w => w &&& 0x7FFFFFFF)) outs
  let bs := abftBlocks (tM d) (tN d)
  (bs.flatMap fun q => q.1.filter fun i => fails (q.2.map (out i)) (side (a i) q.2 fun k j => b k j),
   bs.flatMap fun q => q.2.filter fun j => fails (q.1.map fun i => out i j) (side (fun k => b k j) q.1 fun k i => a i k))

/-- What the matrix engine computes (R37 to R54): its results by row, or its ACCX elements with the products each counts; the
products truncated and left out; the rows and columns unchecked, and those that fail. -/
structure MatRes where
  rows : List (List El) := []
  accs : List (List (AccV × Nat)) := []
  below : Nat := 0
  left : Nat := 0
  skips : Nat := 0
  fails : List Nat × List Nat := ([], [])
deriving DecidableEq, Repr

/-- The matrix engine's computation. A sum of more than 65,536 products is open (R39). -/
def State.matrix (s : State) (t : TileId) (x : Slot) (a b c : Nat → Byte) : MatRes :=
  let d := x.desc
  let ms := List.range (tM d)
  let ns := List.range (tN d)
  let ea := s.elA t x a
  let eb := s.elB t x b
  if matOpen d then {}
  else if half16 (tFmtA d) then
    let out := fun m n => matSum (tK d) (ea m) (eb · n)
    { rows := ms.map fun m => ns.map fun n => el32 (out m n)
      fails := if tAbft d then abft16 d (s.fld (.tile t) Reg.ARITH_CTRL_ABFT_TOL_SHIFT) ea eb out else ([], []) }
  else
    let cAt := fun m n => m * tLdOut d * 64 + n * 16
    let start := fun m n : Nat =>
      if tAccIn d then (accOfNat (natOfBytes ((List.range 16).map fun i => c (cAt m n + i)))).2 else {}
    let acc := fun m n => matAcc (tAnchor d) (matK d) (ea m) (eb · n) (start m n)
    let count := fun m n =>
      (if tAccIn d then s.accCount (tSpace d 2 == 1) t (x.opBase 2 + cAt m n) else 0) + matK d
    let all := ms.map fun m => ns.map fun n =>
      let v := acc m n
      if 65536 < count m n then
        ({ v with v := natOfBytes ((List.range 10).map fun i => Config.openOut d ((m * tN d + n) * 16 + i)) }, count m n)
      else (v, count m n)
    { rows := all.map fun r => r.map fun v => v.1.result (tAnchor d)
      accs := if tFmtOut d = 0xD then all else []
      below := (all.flatten).foldl (fun n v => n + v.1.nBelow) 0
      left := (all.flatten).foldl (fun n v => n + v.1.nOver) 0
      skips := if tAbft d then abftSkips (tM d) (tN d) acc else 0
      fails := if tAbft d then abftExact d ea eb acc start else ([], []) }

/-- Rows of results at their offsets, converted to FMT_OUT and written (R42 to R46; KV8L by R36), and the NaNs written as
integers. -/
def State.putResults (s : State) (d : BitVec 512) (dst : Dest) (tok row : Nat) (rs : List (Nat × List (El × Rnd))) :
    Except (Span × State) (State × Nat) :=
  if tFmtOut d = 0xB then
    match rs.foldlM (fun (a : Putting) r => a.kvRow dst tok row (tSat d) r.1 r.2 none) (([], s) : Putting) with
    | .ok a => .ok (a.2, 0)
    | .error e => .error e
  else
    let enc := rs.map fun r => (r.1, encodeRow (tFmtOut d) (tSat d) r.2)
    match s.putAll dst (enc.map fun r => (r.1, r.2.1)) with
    | .ok s => .ok (s, enc.foldl (fun n r => n + r.2.2) 0)
    | .error e => .error e

/-- A KV8L output whose pages cannot take a side record yet: those on another device are pulled, and the task waits. -/
def State.kvRanges (s : State) (d : BitVec 512) (dst : Dest) (spans : List (Nat × Nat)) : List (Nat × Nat) :=
  if tFmtOut d = 0xB then spans.flatMap fun r => s.kvAway dst r.1 r.2 else []

/-- The rows that a MATRIX task writes, at their offsets (R42 to R46): results, ACCX elements, or open bytes; not those of KV8L. -/
def MatRes.out (r : MatRes) (d : BitVec 512) : List (Nat × List Byte) :=
  let stride := tLdOut d * 64
  if matOpen d then
    let w := rowBytes (tFmtOut d) (tN d)
    (List.range (tM d)).map fun m => (m * stride, (List.range w).map fun j => Config.openOut d (m * w + j))
  else if tFmtOut d = 0xD then r.accs.zipIdx.map fun e => (e.2 * stride, e.1.flatMap fun v => v.1.bytes (BV d 48 16))
  else
    r.rows.zipIdx.map fun e =>
      (e.2 * stride, (encodeRow (tFmtOut d) (tSat d) (e.1.zipIdx.map fun v => rounded d (e.2 * tN d + v.2) v.1)).1)

/-- What a MATRIX task writes: results, ACCX elements with their counts (R39), or open bytes. -/
def State.matrixOut (s : State) (t : TileId) (i : Fin 64) (x : Slot) (r : MatRes) : Except (Span × State) State :=
  let d := x.desc
  let dst := x.dest t i
  let stride := tLdOut d * 64
  if matOpen d then s.putAll dst (r.out d)
  else if tFmtOut d = 0xD then
    let rows := r.accs.zipIdx.map fun e => (e.2 * stride, e.1.map fun v => (v.1.bytes (BV d 48 16), v.2))
    match s.putAll dst (r.out d) with
    | .error e => .error e
    | .ok s => .ok (s.each rows fun s e => s.each e.2.zipIdx fun s v =>
        s.setAcc dst.state t (dst.base + e.1 + 16 * v.2) v.1.2 (natOfBytes v.1.1))
  else
    let rows := r.rows.zipIdx.map fun e => (e.2 * stride, e.1.zipIdx.map fun v => rounded d (e.2 * tN d + v.2) v.1)
    match s.putResults d dst (s.modelTok t x) (kvRowBytes (tLdOut d) (tN d)) rows with
    | .error e => .error e
    | .ok (s, nans) => .ok (s.count (.tile t) 0xC8 nans)

/-- KV8L lanes of a MATRIX task's operands that decode as NaN, each counted once (R35, notes/assumptions/16). -/
def State.matLanes (s : State) (t : TileId) (x : Slot) : Nat :=
  let d := x.desc
  let tok := s.modelTok t x
  let lanes := fun (k fmt rows ld n : Nat) =>
    if fmt = 0xB then
      (List.range rows).foldl (fun z r => z + s.lanesOut x k tok (kvRowBytes ld n) (r * ld * 64) n) 0 else 0
  lanes 0 (tFmtA d) (tM d) (tLdA d) (tK d) + lanes 1 (tFmtB d) (tK d) (tLdB d) (tN d)

/-- A MATRIX task completes (R29 to R54). -/
def State.runMatrix (s : State) (t : TileId) (i : Fin 64) : State :=
  let x := s.slot t i
  let d := x.desc
  let a := s.matOpA t x
  let b := s.matOpB t x
  let c := s.matOpC t x
  let away := s.kvRanges d (x.dest t i) (rowsOf (tM d) (tLdOut d) (tN d))
  if away.any fun r => !s.mustWait (pageOf r.1) then s
  else
    s.reading t i [a, b, c, { ranges := away, res := .ok fun _ => 0 }] fun s =>
      if anchorBad d c.img then s.runningError t i .anchorMismatch
      else
        let r := s.matrix t x a.img b.img c.img
        let s := (s.count (.tile t) 0xA0 r.below).count (.tile t) 0xA8 r.left
        let s := (s.count (.tile t) 0xB8 r.skips).count (.tile t) 0xC0 (s.matLanes t x)
        match r.fails with
        | ([], []) =>
          match s.matrixOut t i x r with
          | .error (e, s) => s.spanEnd t i e
          | .ok s => s.taskWrites t i
        | (rows, cols) => s.runningError t i (.abft (rows.headD 0) (cols.headD 0) rows.length cols.length)

/-- A row of values of a vector program, each with its rounding. -/
def vecVals (d : BitVec 512) (r : Nat) (vs : List Word) : List (El × Rnd) :=
  vs.zipIdx.map fun v => rounded d (r * tN d + v.2) (el32 v.1)

/-- What a write of a vector program puts at an offset, not in KV8L, and the NaNs it writes as integers (R42 to R46). -/
def vecOut (d : BitVec 512) : Config.VecWrite → Nat × List Byte × Nat
  | .bytes at_ data => (at_, data, 0)
  | .row r vs => (r * tLdOut d * 64, encodeRow (tFmtOut d) (tSat d) (vecVals d r vs))
  | .kvRow r vs _ _ _ => (r * tLdOut d * 64, encodeRow (tFmtOut d) (tSat d) (vecVals d r vs))

/-- One write of a vector program (R36, R42, R226); the NaNs written as integers. -/
def Putting.vec (a : Putting × Nat) (d : BitVec 512) (dst : Dest) (tok : Nat) (w : Config.VecWrite) :
    Except (Span × State) (Putting × Nat) :=
  let kv := fun (r : Nat) (vs : List Word) (tag : Option Nat) =>
    (a.1.kvRow dst tok (kvRowBytes (tLdOut d) (tN d)) (tSat d) (r * tLdOut d * 64) (vecVals d r vs) tag).map fun p => (p, a.2)
  match tFmtOut d, w with
  | 0xB, .row r vs => kv r vs none
  | 0xB, .kvRow r vs prov epoch key => kv r vs (some (1 + 2 * prov.toNat + 4 * (epoch % 256) + 2 ^ 10 * (key % 2 ^ 22)))
  | _, w =>
    let e := vecOut d w
    (a.1.bytes dst e.1 e.2.1).map fun p => (p, a.2 + e.2.2)

/-- The output bytes a write of a vector program covers, for the pages it needs. -/
def vecSpan (d : BitVec 512) : Config.VecWrite → List (Nat × Nat)
  | .bytes _ _ => []
  | .row r vs => [(r * tLdOut d * 64, vs.length)]
  | .kvRow r vs _ _ _ => [(r * tLdOut d * 64, vs.length)]

/-- A VECTOR task completes (R48, R50, R60, R71): what its program reads and writes is a constant of the program, the descriptor and
the bytes read (R413); an ACCX it adds is held to the task's anchor (R40). -/
def State.runVector (s : State) (t : TileId) (i : Fin 64) : State :=
  let x := s.slot t i
  let d := x.desc
  let code := (Map.get {} (s.tile t).progs (tProg d)).code
  let reads := (Config.vectorReads code d).map fun r => (r, s.rawOperand t x (r.operand % 3) [(r.at_, r.len)])
  let bytes := reads.map fun r => (r.1, (List.range r.1.len).map fun j => r.2.img (r.1.at_ + j))
  let writes := Config.vectorWrites code d (bytes.map (·.2))
  let dst := x.dest t i
  let away := s.kvRanges d dst (writes.flatMap (vecSpan d))
  if away.any fun r => !s.mustWait (pageOf r.1) then s
  else
    s.reading t i (reads.map (·.2) ++ [{ ranges := away, res := .ok fun _ => 0 }]) fun s =>
      let odd := bytes.any fun r => r.1.accx &&
        (chunks 16 r.2.length r.2).any fun e => bits (natOfBytes e) 80 16 != BV d 48 16
      if odd then s.runningError t i .anchorMismatch
      else
        match writes.foldlM (fun a w => Putting.vec a d dst (s.modelTok t x) w) ((([], s), 0) : Putting × Nat) with
        | .error (e, s) => s.spanEnd t i e
        | .ok (a, nans) => (a.2.count (.tile t) 0xC8 nans).taskWrites t i

/-- A request of a DMA task to FAR space (R171, Table 03-10). -/
def State.farReq (s : State) (t : TileId) (e : FarEntry) (off n : Nat) (data : List Byte) : MemReq :=
  { tc := e.tc, cacheable := false, placeAck := !data.isEmpty, len8 := n / 8 - 1, srcFeng := engOf (partOf t) 0,
    srcNode := s.node, tag := 0, node := e.node, part := e.part, offset := off, key := e.key, gen := e.gen, epoch := 0,
    rsvZero := true, data := data }

/-- Length of the request at byte `at_` of a FAR transfer of n bytes from `base`: it stays within an aligned 256-byte block
(R161). -/
def farPiece (base at_ n : Nat) : Nat := min (256 - (base + at_) % 256) (n - at_)

/-- Ask for the source's bytes up to n, as far as the engines take requests (R153). -/
def State.farReads (s : State) (t : TileId) (i : Fin 64) (n : Nat) : Nat → State
  | 0 => s
  | fuel + 1 =>
    let x := s.slot t i
    let at_ := x.far.asked
    if n ≤ at_ then s
    else
      let len := farPiece (x.opBase 0) at_ n
      match s.request 0x01 .load (s.farReq t x.farA (x.opBase 0 + at_) len []) (.dma t i x.order at_) with
      | (false, s) => s
      | (true, s) =>
        let y := s.slot t i
        (s.setSlot t i { y with far := { y.far with asked := at_ + len } }).farReads t i n fuel

/-- Store the destination's bytes, as far as the engines take requests (R171). -/
def State.farStores (s : State) (t : TileId) (i : Fin 64) (data : List Byte) : Nat → State
  | 0 => s
  | fuel + 1 =>
    let x := s.slot t i
    let at_ := x.far.sent
    if data.length ≤ at_ then s
    else
      let len := farPiece (x.opBase 3) at_ data.length
      match s.request 0x02 .store (s.farReq t x.farOut (x.opBase 3 + at_) len ((data.drop at_).take len))
          (.dma t i x.order at_) with
      | (false, s) => s
      | (true, s) =>
        let y := s.slot t i
        (s.setSlot t i { y with far := { y.far with sent := at_ + len } }).farStores t i data fuel

/-- A DMA task with a FAR destination goes on storing; with every store acknowledged it completes, with a refusal it ends
(R68, R171). -/
def State.farOutGo (s : State) (t : TileId) (i : Fin 64) (data : List Byte) : State :=
  let s := s.farStores t i data (data.length / 8 + 1)
  let x := s.slot t i
  match x.far.err with
  | some (c, g) => s.runningError t i (.farNak c (BitVec.ofNat 64 g))
  | none =>
    if x.far.sent = data.length ∧ x.far.acked = (x.opBase 3 % 256 + data.length + 255) / 256 then s.finish t i else s

/-- A DMA task has its source's raw image: it goes to the destination, compressed or not (R61, R111, R112, R119). -/
def State.dmaWrite (s : State) (t : TileId) (i : Fin 64) (img : Nat → Byte) : State :=
  let x := s.slot t i
  let d := x.desc
  let raw := (List.range (tAux d)).map img
  let enc := encodeStream (tFmtA d) x.tblMask raw
  let data := if tXpdB d then enc.1 else raw
  let s := if tXpdB d then (s.count .codec 0x90 enc.2.1).count .codec 0x98 enc.2.2 else s
  if tSpace d 3 = 3 then
    (s.setSlot t i { x with far := { x.far with data := some data } }).farOutGo t i data
  else
    match s.putAll (x.dest t i) [(0, data)] with
    | .error (e, s) => s.spanEnd t i e
    | .ok s =>
      let plain := !tXpdA d && !tXpdB d && tSpace d 0 != 3
      (s.when plain fun s =>
        s.copyAcc (tSpace d 0 == 1) (x.opTile t 0) (x.opBase 0) (tSpace d 3 == 1) (x.opTile t 3) (x.opBase 3)
          (tAux d)).taskWrites t i

/-- The bytes of a FAR source that have arrived, and whether all those asked for have. -/
def FarRun.bytes (f : FarRun) : List Byte := f.got.flatMap (·.2)
def FarRun.whole (f : FarRun) : Bool := f.bytes.length == f.asked

/-- A DMA task with a FAR source goes on reading: raw, its bytes; expanded, block by block (R61, R68). -/
def State.dmaFar (s : State) (t : TileId) (i : Fin 64) : State :=
  let x := s.slot t i
  let d := x.desc
  let all := x.far.bytes
  let img := fun j => all.getD j 0
  if !x.far.whole then s
  else if !tXpdA d then
    if x.far.asked = tAux d then s.dmaWrite t i img else s.farReads t i (tAux d) (tAux d / 8 + 1)
  else
    let w := walkStream (tFmtA d) (tAux d) img (fun a n => decide (a + n ≤ x.far.asked)) (tAux d / 512 + 1) 0 0
    if w.bad = none ∧ w.blocks.length * 512 < tAux d then s.farReads t i w.len 128
    else
      let s := s.countBlocks w.blocks
      match w.image (tAux d) .ok 2 3 (x.opBase 0) with
      | .error e => s.spanEnd t i e
      | .ok f => s.dmaWrite t i f

/-- The source of a DMA task that is on this device. -/
def State.dmaOpA (s : State) (t : TileId) (x : Slot) : Operand :=
  s.operand t x 0 [(0, tAux x.desc)] (tXpdA x.desc) (tFmtA x.desc) 2

/-- A DMA task goes on (R61, R68, R70, R111, R112, R171): a refused transfer ends it; then the source's bytes, expanded or not, reach
the destination, compressed or not. -/
def State.runDma (s : State) (t : TileId) (i : Fin 64) : State :=
  let x := s.slot t i
  let d := x.desc
  match x.far.err, x.far.data with
  | some (c, g), _ => s.runningError t i (.farNak c (BitVec.ofNat 64 g))
  | none, some data => s.farOutGo t i data
  | none, none =>
    if tSpace d 0 = 3 then s.dmaFar t i
    else
      let a := s.dmaOpA t x
      s.reading t i [a] fun s => s.dmaWrite t i a.img

/-- One bank in one cycle (R59): of those that ask for it, the first in the fixed order among those refused STARVE_LIMIT cycles in a
row, else the first, is served; each other one is refused once more. -/
def bankCycle (limit : Nat) (was : Map Nat) (reqs : List (Fin 32 × BankUser)) : Map Nat × Nat :=
  let users : List (BankUser × Nat) := [(.portA, 0), (.portB, 1), (.vector, 2), (.attention, 3), (.dma, 4)]
  (List.range 32).foldl (fun acc b =>
    let ask := (users.filter fun u => reqs.any fun r => r.1.val == b && r.2 == u.1).map (·.2)
    let starved := ask.filter fun u => decide (limit ≤ Map.get 0 was (b * 8 + u))
    match (starved ++ ask).head? with
    | none => acc
    | some w =>
      let lost := ask.filter (· ≠ w)
      (lost.foldl (fun m u => Map.set 0 m (b * 8 + u) (Map.get 0 was (b * 8 + u) + 1)) acc.1, acc.2 + lost.length)) ([], 0)

/-- What the run of a task met is counted: banks refused (R59), port waits (R62), corrected words (R60). -/
def State.tileRun (s : State) (t : TileId) (run : TileRun) : State :=
  let x := s.tile t
  let r := run.banks.foldl (fun (acc : Map Nat × Nat) reqs =>
    let c := bankCycle (s.fld (.tile t) Reg.BANK_ARB_STARVE_LIMIT) acc.1 reqs
    (c.1, acc.2 + c.2)) (x.bankWait, 0)
  let s := s.setTile t { x with bankWait := r.1 }
  (((s.count (.tile t) 0x98 r.2).count (.tile t) 0x88 run.stallA).count (.tile t) 0x90 run.stallB).count (.tile t) 0xD0
    run.corrected

/-- An operand in the SRAM of a tile that is in reset: its reads and writes stall (R60). -/
def State.stallsAt (s : State) (t : TileId) (x : Slot) : Bool :=
  [0, 3].any fun k => tSpace x.desc k == 2 && !s.works (.tile (x.opTile t k))

/-- TASK_COMPLETE: a MATRIX, VECTOR or DMA task has run (R70, Table 03-5): it ends with its output written and its tags and event
following, or with the error its operands or its output meet; it stays RUNNING while a page, a response or a held write keeps it
waiting (notes/assumptions/56). -/
def execTaskComplete (t : TileId) (run : TileRun) (s : State) : Res :=
  let i := run.i
  .next (s.ifWorks (.tile t) fun s =>
    let x := s.slot t i
    if x.st ≠ .running ∨ x.reportWait = true ∨ s.stallsAt t x = true then s
    else
      let s := s.tileRun t run
      if x.wrote then s.taskWrites t i
      else
        match tEngine x.desc with
        | 0 => s.runMatrix t i
        | 1 => s.runVector t i
        | 3 => s.runDma t i
        | _ => s)

/-- TASK_EVENT_REPORT_ACCEPT: the Dispatcher takes a report that waited for an entry (R269). -/
def execTaskEventReportAccept (t : TileId) (i : Fin 64) (s : State) : Res :=
  .next (s.ifWorks (.tile t) fun s => if (s.slot t i).reportWait then s.finish t i else s)

/-- TASK_RUNNING_ERROR (Table 03-5): an error the hardware meets while a task runs. Only the matrix engine checks sums, for tasks
with ABFT_EN set (R51); an uncorrectable word of the tile stays bad until it is rewritten (R60). -/
def execTaskRunningError (t : TileId) (i : Fin 64) (e : TaskError) (s : State) : Res :=
  .next (s.ifWorks (.tile t) fun s =>
    let x := s.slot t i
    if x.st ≠ .running then s
    else
      match e with
      | .abft _ _ _ _ => if tAbft x.desc ∧ tEngine x.desc % 2 = 0 then s.runningError t i e else s
      | .sramUE off =>
        { s with sramBad := Map.set false s.sramBad (sramAddr t (off / 8 * 8)) true }.runningError t i e
      | e => s.runningError t i e)

/-- SB_WATCHDOG_EXPIRE: a task has stayed WAITING past WDOG (R75). -/
def execSbWatchdogExpire (t : TileId) (i : Fin 64) (s : State) : Res :=
  .next (s.ifReady (.tile t) fun s =>
    let x := s.slot t i
    if x.st = .waiting ∧ x.stalled = false ∧ s.fld (.tile t) Reg.SB_CTRL_WDOG ≠ 0 then
      ((s.setSlot t i { x with stalled := true }).irq (.tile t) 1).count (.tile t) 0xE8
    else s)

/-- SB_CLR_MAXLAT: writing 1 to SB_STAT.CLR_MAXLAT (Table 03-9). -/
def execSbClrMaxlat (t : TileId) (s : State) : Res :=
  .next (s.ifReady (.tile t) fun s => s.setFld (.tile t) Reg.SB_STAT_MAXLAT 0)

/-- A program load ends with a RESULT (R78): tasks that waited on it are checked against the slot's content. -/
def State.progEnd (s : State) (t : TileId) (index result : Nat) : State :=
  let s := s.setTile t { s.tile t with load := none }
  let s := (s.setFld (.tile t) Reg.PROG_LOAD_BUSY 0).setFld (.tile t) Reg.PROG_LOAD_RESULT result
  let s := (s.setFld (.tile t) Reg.PROG_LOAD_GO 0).irq (.tile t) 2
  let s := if (Map.get {} (s.tile t).progs index).codeLen ≠ 0 then s
    else
      s.each ((s.tile t).slots.filter fun e =>
        e.2.st == SlotState.waiting && tEngine e.2.desc == 1 && tProg e.2.desc == index) fun s e =>
          let s := ((s.err (.tile t) 0x09).irq (.tile t) 0).setSlot t (Fin.ofNat 64 e.1) {}
          s.taskFailed t e.2.reqSlot (tTask e.2.desc) 0x09 false
  s.promote t

/-- PROG_LOAD_GO: a write that sets PROG_LOAD.GO (R78). -/
def execProgLoadGo (t : TileId) (index : Fin 256) (s : State) : Res :=
  .next (s.ifReady (.tile t) fun s =>
    if (s.tile t).load.isSome then s.err (.tile t) 0x0B
    else
      let s := s.setFld (.tile t) Reg.PROG_LOAD_INDEX index.val
      let used := (s.tile t).slots.any fun e =>
        tEngine e.2.desc != 2 && tProg e.2.desc == index.val && e.2.st != SlotState.free
      if used then (s.err (.tile t) 0x0B).progEnd t index.val 2
      else
        let src := s.fld (.tile t) Reg.PROG_SRC_LO_SRC_LO / 64 * 64 + 2 ^ 32 * s.fld (.tile t) Reg.PROG_SRC_HI_SRC_HI
        (s.setTile t { s.tile t with load := some (index.val, src) }).setFld (.tile t) Reg.PROG_LOAD_BUSY 1)

/-- Room a program takes in the store (R78). -/
def Prog.room (x : Prog) : Nat := (64 + x.codeLen + 63) / 64 * 64

/-- The header of an image (Table 03-7). -/
def progHeader (b : List Byte) : Prog :=
  let f := fun a n => natOfBytes ((b.drop a).take n)
  { codeLen := f 8 4, flags := f 6 2, entry := f 12 4, minVer := f 16 4, buildId := f 24 8 }

/-- The header passes the checks that need no code (R78). -/
def progHeaderOk (b : List Byte) (ver : Nat) : Bool :=
  let x := progHeader b
  natOfBytes (b.take 4) == 0x47504C53 && natOfBytes ((b.drop 4).take 2) == 1 && x.codeLen % 16 == 0 &&
    decide (16 ≤ x.codeLen ∧ x.codeLen ≤ 32768) && decide (x.entry < x.codeLen) && decide (x.minVer ≤ ver)

/-- PROG_LOAD_COMPLETE: the image is fetched and checked (R78, R412). -/
def execProgLoadComplete (t : TileId) (s : State) : Res :=
  .next (s.ifWorks (.tile t) fun s =>
    match (s.tile t).load with
    | none => s
    | some (index, src) =>
      let bad := fun (s : State) => (s.err (.tile t) 0x0A).progEnd t index 1
      let h := s.rd src 64
      let good := progHeaderOk h (s.word (Page.base (.tile t) + 4)).toNat
      let x := progHeader h
      let whole := !(s.mustWait (pageOf src) || s.mustWait (pageOf (src + 63))) && good
      match s.ownReadAt .device (pagePieces ([(src, 64)] ++ if whole then [(src + 64, x.codeLen)] else [])) with
      | (.wait, s) => s
      | (.data, s) =>
        if good = false then bad s
        else
          let code := s.rd (src + 64) x.codeLen
          if (sha384 code).take 32 ≠ (h.drop 32).take 32 then bad s
          else
            let y := s.tile t
            let others := (y.progs.filter fun e => e.1 != index).foldl (fun n e => n + e.2.room) 0
            if 131072 < others + x.room then s.progEnd t index 3
            else (s.setTile t { y with progs := Map.set {} y.progs index { x with code := code } }).progEnd t index 0
      | (_, s) => bad s)

end Sys2Proof.Machine
end

