-- ==== Sys2Proof/Machine/Attn.lean ====
section
/-! DEFINITION. The attention sequencer and the merge unit (R81 to R101). -/

namespace Sys2Proof.Machine
open Sys2Proof

/-- What an ATTENTION task latched at its start: ragged entry (Table 04-2) and parameter block (Table 04-3). -/
structure AttnP where
  qStart : Nat
  qLen : Nat
  kvLen : Nat
  posBase : Nat
  pageList : Nat
  scoreMul : Word
  winLo : Nat
  pfx : Nat
  hi : Nat
  maskEn : Bool
  kvh : Nat
  g : Nat
  tok : Nat
  row : Nat
  vOfs : Nat
  rope : Nat
  pairs : Nat

/-- Fields of an entry and a parameter block. -/
def attnOf (e : BitVec 256) (b : BitVec 512) : AttnP :=
  { qStart := BV e 0 32, qLen := BV e 32 32, kvLen := BV e 64 32, posBase := BV e 96 32, pageList := BV e 128 47,
    scoreMul := BitVec.ofNat 32 (BV b 0 32), winLo := BV b 32 32, pfx := BV b 64 32, hi := BV b 96 16,
    maskEn := BV b 112 1 != 0, kvh := BV b 120 8, g := BV b 128 8, tok := 2 ^ BV b 136 8, row := BV b 144 16,
    vOfs := BV b 160 16, rope := BV b 176 2, pairs := BV b 184 8 }

def Slot.attn (x : Slot) : AttnP := attnOf x.attnEntry x.attnBlock

/-- Bytes of a KV element (R86). -/
def kvSize (fmt : Nat) : Nat := if fmt = 2 then 2 else 1

/-- NB: key blocks of 64 keys (R83). -/
def AttnP.nb (a : AttnP) : Nat := (a.kvLen + 63) / 64

/-- Slot level HS and first block of an ATTENTION task (Table 04-1). -/
def tHs (d : BitVec 512) : Nat := tLdOut d % 32

/-- An encoding that Table 04-3 reserves. -/
def blockBad (b : BitVec 512) (dim : Nat) : Bool :=
  BV b 113 7 != 0 || decide (BV b 128 8 = 0 ∨ 128 < BV b 128 8) || decide (BV b 136 8 < 4 ∨ 8 < BV b 136 8) ||
    BV b 144 16 % 64 != 0 || BV b 176 2 == 3 || BV b 178 2 == 3 || BV b 180 4 != 0 || BV b 384 128 != 0 ||
    (BV b 176 2 != 0 && decide (BV b 184 8 = 0 ∨ dim / 2 < BV b 184 8))

/-- The task fails at start with DESC_FIELD (R83). The length of an INJECT task's range is not a range of blocks. -/
def attnBad (d : BitVec 512) (e : BitVec 256) (b : BitVec 512) : Bool :=
  let a := attnOf e b
  let dim := tN d
  let k := kvSize (tFmtB d)
  let compute := !tDataflow d
  let slice := a.kvh * dim * k + dim * k
  !bit e.toNat 192 || tM d != a.qLen * a.g || decide (1024 < a.qLen * a.g) ||
    decide (a.kvLen < a.qLen ∨ 4194304 < a.kvLen) || decide (2 ^ 32 < a.posBase + a.kvLen) ||
    (compute && (tK d != 2 ^ Nat.log2 (tK d) || tLdB d % tK d != 0 || decide (tHs d < Nat.log2 (tK d)))) ||
    decide (a.nb ≤ tLdB d) || !([0xB, 0xC, 2].contains (tFmtB d)) || tFmtOut d == 0xD || tAccIn d || blockBad b dim ||
    decide (a.row < slice ∨ a.row < a.vOfs + slice) || decide (65536 < a.row * a.tok)

/-- Entries of the page list. -/
def AttnP.listLen (a : AttnP) : Nat := (a.kvLen + a.tok - 1) / a.tok

/-- ATTN_PARAMS_LATCHED: the sequencer reads and checks the ragged entry, the parameter block and the page list (R82, R83,
R412). -/
def execAttnParamsLatched (t : TileId) (i : Fin 64) (s : State) : Res :=
  .next (s.ifWorks (.tile t) fun s =>
    let x := s.slot t i
    let d := x.desc
    if x.st ≠ .running ∨ tEngine d ≠ 2 ∨ x.attnDone = true then s
    else
      let read := fun (k at_ n : Nat) => natOfBytes ((List.range n).map fun j => s.opByte t x k (at_ + j))
      let e := BitVec.ofNat 256 (read 1 (tAux d * 32) 32)
      let b := BitVec.ofNat 512 (read 2 0 64)
      let a := attnOf e b
      let list := a.pageList / 64 * 64
      let n := if s.takes t x 1 (tAux d * 32) 32 && s.takes t x 2 0 64 && !attnBad d e b then a.listLen else 0
      let pages : Operand :=
        { ranges := [(list, n * 8)], res := if 2 ^ 47 < list + n * 8 then .error (.err .extent) else .ok fun _ => 0 }
      s.reading t i [s.rawOperand t x 1 [(tAux d * 32, 32)], s.rawOperand t x 2 [(0, 64)], pages] fun s =>
        if attnBad d e b then s.taskError t i 0x05 1 [] false
        else
          s.setSlot t i { x with
            attnDone := true, attnEntry := e, attnBlock := b,
            attnPages := (List.range n).map fun j => s.rdNat (list + j * 8) 8 % 2 ^ 47 })

/-- Minus infinity in binary32. -/
def negInf32 : Word := 0xFF800000

/-- Round a binary32 word to bfloat16, kept as binary32 (R91, R92). -/
def bf32 (w : Word) : Word :=
  if w &&& 0x7FFFFFFF = 0 then w else BitVec.ofNat 32 (bf16.encode .even false (el32 w) * 65536)

/-- Key k is visible to query row index qi (R87). -/
def AttnP.visible (a : AttnP) (qi k : Nat) : Bool :=
  decide (k < a.kvLen) &&
    (!a.maskEn || (decide (k ≤ qi + a.hi ∨ k < a.pfx) && (a.winLo == 0xFFFFFFFF || decide (qi ≤ k + a.winLo))))

/-- Block b is wholly masked (R88). -/
def AttnP.skipped (a : AttnP) (b : Nat) : Bool :=
  let last := a.kvLen - 1
  let first := a.kvLen - a.qLen
  a.maskEn &&
    (decide (last + a.hi < 64 * b ∧ a.pfx ≤ 64 * b) || (a.winLo != 0xFFFFFFFF && decide (64 * b + 63 + a.winLo < first)))

/-- Block b needs element comparisons (R88). -/
def AttnP.partialBlock (a : AttnP) (b : Nat) : Bool :=
  (List.range a.qLen).any fun q => (List.range 64).any fun i =>
    decide (64 * b + i < a.kvLen) && !a.visible (a.kvLen - a.qLen + q) (64 * b + i)

/-- A row of a leaf with no visible key, and of a skipped block (R92). -/
def maskedRow (dim : Nat) : NodeRow := { m := negInf32, l := 0, o := List.replicate dim 0 }

/-- Leaf of one row and one block, from the scores of its 64 key slots and their values (R92). DEDUCED (notes/assumptions/58): where
every visible score is −∞ the leaf's m is NaN, so that R94 and R95 do not take the NaN of R96 for a row without keys. -/
def leafRow (dim : Nat) (scores : List (Option Word)) (vs : List (List Word)) : NodeRow :=
  match scores.filterMap id with
  | [] => maskedRow dim
  | x :: l =>
    let m := l.foldl maxNan32 x
    let ps := scores.map fun sc => match sc with
      | some w => some (bf32 (exp2of (add32 w (negate32 m))))
      | none => none
    { m := if m = negInf32 then 0x7FC00000 else m, l := treeSum 6 (ps.map fun p => p.getD 0),
      o := (List.range dim).map fun d => treeSum 6 ((ps.zip vs).map fun e => match e.1 with
        | some p => mul32 p (e.2.getD d 0)
        | none => 0) }

/-- Combine two rows, the first covering the lower blocks (R94). -/
def combineRow (a b : NodeRow) : NodeRow :=
  if a.m = negInf32 then b
  else if b.m = negInf32 then a
  else
    let m := maxNan32 a.m b.m
    let ea := exp2of (add32 a.m (negate32 m))
    let eb := exp2of (add32 b.m (negate32 m))
    { m := m, l := fma32 a.l ea (mul32 b.l eb), o := List.zipWith (fun x y => fma32 x ea (mul32 y eb)) a.o b.o }

/-- Node (h + 1, j) from its children (R93). -/
def combineNode (a b : Node) : Node :=
  { a with
    level := a.level + 1, j := a.j / 2, computed := a.computed + b.computed, skipped := a.skipped + b.skipped,
    partialBlocks := a.partialBlocks + b.partialBlocks, rows := List.zipWith combineRow a.rows b.rows }

/-- A node whose sibling covers no block (R93). -/
def Node.up (a : Node) : Node := { a with level := a.level + 1, j := a.j / 2 }

/-- Node (h, j) of the tree over nb leaves (R93). -/
def treeNode (leaf : Nat → Node) (nb : Nat) : Nat → Nat → Option Node
  | 0, j => if j < nb then some (leaf j) else none
  | h + 1, j =>
    match treeNode leaf nb h (2 * j), treeNode leaf nb h (2 * j + 1) with
    | some a, some b => some (combineNode a b)
    | some a, none => some a.up
    | none, x => x.map Node.up

/-- Rotary position encoding of a vector at position p (R89 to R91). -/
def rotate (a : AttnP) (freq : Nat → Word64) (p : Nat) (xs : List Word) : List Word :=
  (List.range xs.length).map fun d =>
    let first := if a.rope = 1 then d % 2 = 0 else d < a.pairs
    let i := if a.rope = 1 then d / 2 else if d < a.pairs then d else d - a.pairs
    if a.rope = 0 ∨ 2 * a.pairs ≤ d then xs.getD d 0
    else
      let x0 := xs.getD (if a.rope = 1 then 2 * i else i) 0
      let x1 := xs.getD (if a.rope = 1 then 2 * i + 1 else i + a.pairs) 0
      let turn : Word64 := BitVec.ofNat 64 p * freq i
      let sn := (sinCosTurn turn).1
      let c := (sinCosTurn turn).2
      if first then fma32 x0 c (negate32 (mul32 x1 sn)) else fma32 x0 sn (mul32 x1 c)

/-- A key or value element with the sign of its encoding: KV8L with its scale and lane offset, FP8 or BF16 (R35, R86). -/
def kvEl (a : AttnP) (fmt : Nat) (img side : Nat → Byte) (token byte : Nat) : El × Bool :=
  if fmt = 2 then
    let x := (img (token * a.row + byte)).toNat + 256 * (img (token * a.row + byte + 1)).toNat
    (bf16.decode x, bit x 15)
  else
    let x := img (token * a.row + byte)
    (if fmt = 0xB then kv8lEl a.tok a.row side token byte x else e4m3.decode x.toNat, bit x.toNat 7)

/-- One score before SCORE_MUL, with the products truncated and left out (R91). -/
def scoreOf (d : BitVec 512) (a : AttnP) (freq : Nat → Word64) (q k : List El) (qPos kPos : Nat) : Word × Nat × Nat :=
  let qw := q.map fun x => round32 x false
  let kw := k.map fun x => round32 x false
  if a.rope ≠ 0 then
    (sum16 (List.zipWith mul32 ((rotate a freq qPos qw).map bf32) ((rotate a freq kPos kw).map bf32)), 0, 0)
  else if half16 (tFmtA d) then (sum16 (List.zipWith mul32 qw kw), 0, 0)
  else
    let acc := (List.zipWith El.mul q k).foldl (fun (acc : AccV) p => acc.addEl (tAnchor d) p) {}
    (BitVec.ofNat 32 (f32.encode .even false (acc.result (tAnchor d))), acc.nBelow, acc.nOver)

/-- A KV page as the sequencer reads it: its element area, expanded when XPD_B is set (R61, R106). -/
def State.kvOperand (s : State) (d : BitVec 512) (a : AttnP) (off : Nat) : Operand :=
  let n := a.row * a.tok
  let byte := fun i => Map.get 0 s.mem (off + i)
  let span := fun n => if 2 ^ 47 < off + n then Span.err .extent else .ok
  if tXpdB d then
    let takes := fun at_ n => span (at_ + n) == .ok && (pagesOf (off + at_) n).all fun p => !s.mustWait p && s.serveRead p != .poisoned
    let w := walkStream (tFmtB d) n byte takes (n / 512 + 1) 0 0
    { ranges := [(off, w.len)], res := w.image n (span w.len) 1 1 off, blocks := w.blocks }
  else { ranges := [(off, n)], res := match span n with
    | .ok => .ok byte
    | e => .error e }

/-- A page of the key range: its number in the list, its elements and its side record (R86). -/
abbrev KvPage := Nat × (Nat → Byte) × (Nat → Byte)

/-- A KEY or value slice as elements (R86). -/
def kvSlice (d : BitVec 512) (a : AttnP) (imgs : List KvPage) (k start : Nat) :
    List (El × Bool) :=
  match imgs.find? fun e => e.1 == k / a.tok with
  | some (_, img, side) =>
    (List.range (tN d)).map fun j => kvEl a (tFmtB d) img side (k % a.tok) (start + j * kvSize (tFmtB d))
  | none => []

/-- The leaf of block b (R92), with the products truncated and left out, and with ABFT_EN the rows and columns of its product that
are not checked (R51, R52). -/
def leafNode (d : BitVec 512) (a : AttnP) (freq : Nat → Word64) (qs : List (List El))
    (imgs : List KvPage) (b : Nat) : Node × Nat × Nat × Nat :=
  let dim := tN d
  let base : Node :=
    { entry := tAux d, level := 0, j := b, dim := dim, computed := 0, skipped := 1, partialBlocks := 0,
      rows := List.replicate (tM d) (maskedRow dim) }
  if a.skipped b then (base, 0, 0, 0)
  else
    let keys := (List.range 64).map fun i => 64 * b + i
    let ks := keys.map fun k => if k < a.kvLen then (kvSlice d a imgs k (a.kvh * dim * kvSize (tFmtB d))).map (·.1) else []
    let vs := keys.map fun k =>
      if k < a.kvLen then
        (kvSlice d a imgs k (a.vOfs + a.kvh * dim * kvSize (tFmtB d))).map fun e => bf32 (round32 e.1 e.2)
      else []
    let scored := (qs.zipIdx).map fun qr =>
      let qi := a.kvLen - a.qLen + qr.2 / a.g
      (keys.zip ks).map fun kk =>
        if a.visible qi kk.1 then some (scoreOf d a freq qr.1 kk.2 (a.posBase + qi) (a.posBase + kk.1)) else none
    let rows := scored.map fun l => leafRow dim (l.map fun x => x.map fun y => mul32 y.1 a.scoreMul) vs
    let sum := fun (f : Word × Nat × Nat → Nat) => (scored.flatten.filterMap id).foldl (fun n x => n + f x) 0
    ({ base with computed := 1, skipped := 0, partialBlocks := (a.partialBlock b).toNat, rows := rows },
     sum fun x => x.2.1, sum fun x => x.2.2,
     if tAbft d then
       abftSkips (tM d) 64 fun r k => { nBelow := (((scored.getD r []).getD k none).map fun y => y.2.1).getD 0 }
     else 0)

/-- Key pages that the blocks of a task read (R88). -/
def AttnP.pagesRead (a : AttnP) (first n : Nat) : List Nat :=
  ((List.range n).flatMap fun j =>
    let b := first + j
    if b < a.nb ∧ a.skipped b = false then
      (List.range ((min (64 * b + 63) (a.kvLen - 1)) / a.tok - 64 * b / a.tok + 1)).map (64 * b / a.tok + ·)
    else []).eraseDups

/-- Row index of row r in the query tensor and the output (R85). -/
def AttnP.rowAt (a : AttnP) (r : Nat) : Nat := a.qStart * a.g + r

/-- Lanes of the keys and values a task reads that decode as NaN because X + L exceeds 254 (R35). -/
def kvLanes (d : BitVec 512) (a : AttnP) (imgs : List KvPage) (blocks : List Nat) : Nat :=
  let dim := tN d
  if tFmtB d = 0xB then
    (blocks.flatMap fun b => (List.range 64).map fun i => 64 * b + i).foldl (fun n k =>
      match imgs.find? fun e => e.1 == k / a.tok with
      | some (_, _, side) =>
        if k < a.kvLen then
          n + kvRange a.tok a.row side (k % a.tok) (a.kvh * dim) dim +
            kvRange a.tok a.row side (k % a.tok) (a.vOfs + a.kvh * dim) dim
        else n
      | none => n) 0
  else 0

/-- The query rows of an ATTENTION task, the M rows alone (R85). -/
def State.queryOp (s : State) (t : TileId) (x : Slot) : Operand :=
  let d := x.desc
  s.operand t x 0 ((List.range (tM d)).map fun r => (x.attn.rowAt r * tLdA d * 64, rowBytes (tFmtA d) (tN d))) (tXpdA d)
    (tFmtA d) 0

/-- Lanes of the query rows that decode as NaN because X + L exceeds 254 (R35). -/
def State.queryLanes (s : State) (x : Slot) : Nat :=
  let d := x.desc
  if tFmtA d = 0xB then
    (List.range (tM d)).foldl (fun n r =>
      n + s.lanesOut x 0 x.attn.tok (kvRowBytes (tLdA d) (tN d)) (x.attn.rowAt r * tLdA d * 64) (tN d)) 0
  else 0

/-- The node of a COMPUTE task (R85 to R93) from its operands, and the state with its counts (R35, R38, R52). -/
def State.computeNode (s : State) (t : TileId) (x : Slot) (q : Nat → Byte) (imgs : List KvPage) : Option (Node × State) :=
  let d := x.desc
  let a := x.attn
  let qs := (List.range (tM d)).map fun r => (List.range (tN d)).map fun j =>
    s.elAt x 0 (tFmtA d) a.tok (kvRowBytes (tLdA d) (tN d)) q (a.rowAt r * tLdA d * 64) j
  let leaf := leafNode d a (ropeFreq x.attnBlock) qs imgs
  let mine := (List.range (tK d)).map fun j => tLdB d + j
  let own := mine.filter fun b => decide (b < a.nb) && !a.skipped b
  let sum := fun (f : Node × Nat × Nat × Nat → Nat) => own.foldl (fun n b => n + f (leaf b)) 0
  (treeNode (fun b => (leaf b).1) a.nb (Nat.log2 (tK d)) (tLdB d / tK d)).map fun node =>
    let lanes := kvLanes d a imgs own + s.queryLanes x
    let s := (s.count (.tile t) 0xA0 (sum fun v => v.2.1)).count (.tile t) 0xA8 (sum fun v => v.2.2.1)
    (node, (s.count (.tile t) 0xB8 (sum fun v => v.2.2.2)).count (.tile t) 0xC0 lanes)

/-- The key pages a COMPUTE task reads (R86, R88): the number of each in the list, its offset, and how it is read. -/
def State.keyPages (s : State) (x : Slot) : List (Nat × Nat × Operand) :=
  (x.attn.pagesRead (tLdB x.desc) (tK x.desc)).map fun n =>
    let off := x.attnPages.getD n 0 / 65536 * 65536
    (n, off, s.kvOperand x.desc x.attn off)

/-- Their elements and side records. -/
def State.keyImgs (s : State) (x : Slot) : List KvPage :=
  (s.keyPages x).map fun e => (e.1, e.2.2.img, s.sideOf (pageOf e.2.1))

/-- First block and number of blocks of a node. -/
def Node.first (n : Node) : Nat := n.j * 2 ^ n.level
def Node.size (n : Node) : Nat := 2 ^ n.level

/-- Combine stored nodes as children pair up, up to level hs (R93, R98). -/
def settleNodes (nb hs : Nat) : Nat → List Node → List Node
  | 0, l => l
  | fuel + 1, l =>
    match l.find? fun n => decide (n.level < hs) &&
        (n.j % 2 == 0 && decide (nb ≤ (n.j + 1) * 2 ^ n.level) ||
          l.any fun o => o.level == n.level && o.j == Nat.xor n.j 1) with
    | none => l
    | some n =>
      match l.find? fun o => o.level == n.level && o.j == Nat.xor n.j 1 with
      | none => settleNodes nb hs fuel (n.up :: l.filter (· ≠ n))
      | some o =>
        let c := if n.j % 2 = 0 then combineNode n o else combineNode o n
        settleNodes nb hs fuel (c :: (l.filter (· ≠ n)).filter (· ≠ o))

/-- The node lies within the target of a slot and overlaps no stored node (Table 04-6). -/
def fitsSlot (hs target : Nat) (l : List Node) (n : Node) : Bool :=
  decide (n.level ≤ hs) && n.j / 2 ^ (hs - n.level) == target &&
    l.all fun o => decide (n.first + n.size ≤ o.first ∨ o.first + o.size ≤ n.first)

/-- A node reaches its merge slot (Table 04-6): the state with it stored, or none when the slot refuses it. -/
def State.mergeStore (s : State) (t : TileId) (i : Fin 64) (x : Slot) (n : Node) : Option State :=
  let p := partOf t
  let d := x.desc
  let part := s.part p
  let old : MergeSlot := Map.get {} part.merge (tProg d)
  let target := tLdB d / 2 ^ tHs d
  let fresh : MergeSlot :=
    { st := .gathering, desc := d, ssBase := x.ssBase, tile := t.val, nb := x.attn.nb, hs := tHs d, target := target,
      rowIndex := (List.range (tM d)).map x.attn.rowAt, tok := x.attn.tok }
  let m := if old.st = .free then fresh else old
  if (n.entry == tAux d && n.dim == tN d && n.rows.length == tM d && mergeKey m.desc == mergeKey d &&
      fitsSlot m.hs m.target m.nodes n) = false then none
  else
    let nodes := settleNodes m.nb m.hs (2 * (m.nodes.length + 1) + m.hs + 1) (n :: m.nodes)
    let done := nodes.any fun o => o.level == m.hs
    let tasks := m.tasks.filter (· ≠ (t.val, i.val)) ++ [(t.val, i.val)]
    some (s.setPart p { part with
      merge := Map.set {} part.merge (tProg d) { m with nodes := nodes, tasks := tasks, st := if done then .emitting else .gathering } })

/-- Bytes of a row of a node record and of a record (R97). -/
def recordStride (dim : Nat) : Nat := (8 + 4 * dim + 63) / 64 * 64

/-- A node record read by an INJECT task (R97, R99). -/
def nodeOf (dim rows : Nat) (byte : Nat → Byte) : Node :=
  let f := fun a n => natOfBytes ((List.range n).map fun i => byte (a + i))
  { entry := f 0 4, level := f 8 1, j := f 4 4 / 2 ^ f 8 1, dim := f 9 1 + 1, computed := f 12 4, skipped := f 16 4,
    partialBlocks := f 20 4,
    rows := if f 10 2 = rows then
        (List.range rows).map fun r =>
          let a := 64 + r * recordStride dim
          { m := BitVec.ofNat 32 (f a 4), l := BitVec.ofNat 32 (f (a + 4) 4),
            o := (List.range dim).map fun e => BitVec.ofNat 32 (f (a + 8 + 4 * e) 4) }
      else [] }

/-- A node whose fields differ, that lies outside the target or overlaps: that task alone fails (Table 04-6). -/
def State.nodeRefused (s : State) (t : TileId) (i : Fin 64) : State :=
  let x := s.slot t i
  (s.record (.tile t)
    { severity := 1, engine := 2, code := 0x05, taskId := tTask x.desc, reqId := (s.rs (partOf t) x.reqSlot).reqId,
      layer := tLayer x.desc }).taskDrop t i 0x05 false

/-- Record number `record` of an INJECT task's operand (R97, R99), expanded where XPD_A is set. -/
def State.recordOp (s : State) (t : TileId) (x : Slot) (record : Nat) : Operand :=
  let d := x.desc
  let len := 64 + tM d * recordStride (tN d)
  let o := s.operand t x 0 [(record * len, len)] (tXpdA d) (tFmtA d) 0
  { o with blocks := o.blocks.drop ((record * len + 511) / 512) }

/-- MERGE_NODE_ARRIVE: a COMPUTE task's node, or record number `record` of an INJECT task, reaches the merge slot (R98, R99). A
node that meets an emitting slot waits. -/
def execMergeNodeArrive (t : TileId) (run : TileRun) (record : Nat) (s : State) : Res :=
  let i := run.i
  .next (s.ifWorks (.tile t) fun s =>
    let x := s.slot t i
    let d := x.desc
    let m : MergeSlot := Map.get {} (s.part (partOf t)).merge (tProg d)
    if x.st ≠ .running ∨ tEngine d ≠ 2 ∨ x.attnDone = false ∨ m.st = .emitting then s
    else if tDataflow d then
      if record ≠ x.injected then s
      else
        let o := s.recordOp t x record
        let len := 64 + tM d * recordStride (tN d)
        (s.tileRun t run).reading t i [o] fun s =>
          match s.mergeStore t i x (nodeOf (tN d) (tM d) fun j => o.img (record * len + j)) with
          | none => s.nodeRefused t i
          | some s => (s.setSlot t i { s.slot t i with
              injected := record + 1, st := if record + 1 = tK d then .merging else .running }).promote t
    else
      let q := s.queryOp t x
      let imgs := s.keyImgs x
      (s.tileRun t run).reading t i (q :: (s.keyPages x).map (·.2.2)) fun s =>
        match s.computeNode t x q.img imgs with
        | none => s
        | some (n, s) =>
          match s.mergeStore t i x n with
          | none => s.nodeRefused t i
          | some s => (s.setSlot t i { s.slot t i with st := .merging }).promote t)

/-- The rows of a head's final output with their offsets (R85, R95). -/
def finalRows (m : MergeSlot) (n : Node) : List (Nat × List (El × Rnd)) :=
  let d := m.desc
  let dim := tN d
  (n.rows.zip m.rowIndex).map fun e =>
    let inv := recip32 e.1.l
    (e.2 * packedRow (tFmtOut d) dim, e.1.o.zipIdx.map fun o =>
      rounded d (e.2 * dim + o.2) (if e.1.m = negInf32 then .fin 0 0 else el32 (mul32 o.1 inv)))

/-- The bytes of a node record with their offsets (R97). -/
def recordPieces (m : MergeSlot) (n : Node) : List (Nat × List Byte) :=
  let hdr := List.flatten
    [bytesOfNat 4 n.entry, bytesOfNat 4 n.first, bytesOfNat 1 n.level, bytesOfNat 1 (n.dim - 1), bytesOfNat 2 (tM m.desc),
     bytesOfNat 4 n.computed, bytesOfNat 4 n.skipped, bytesOfNat 4 n.partialBlocks, List.replicate 40 0]
  (0, hdr) :: n.rows.zipIdx.map fun e =>
    (64 + e.2 * recordStride n.dim,
     List.flatten [bytesOfNat 4 e.1.m.toNat, bytesOfNat 4 e.1.l.toNat, e.1.o.flatMap fun w => bytesOfNat 4 w.toNat])

/-- An emitting slot writes the head's final output, not a node record (R95, R97, R98). -/
def MergeSlot.root (x : MergeSlot) : Bool := x.target == 0 && decide (x.nb ≤ 2 ^ x.hs)

/-- What a merge slot writes, not in KV8L. -/
def MergeSlot.rows (x : MergeSlot) (n : Node) : List (Nat × List Byte) :=
  if x.root then (finalRows x n).map fun r => (r.1, (encodeRow (tFmtOut x.desc) (tSat x.desc) r.2).1) else recordPieces x n

/-- Where a merge slot writes: as its opening task would (R98). -/
def MergeSlot.dest (x : MergeSlot) (p : PartId) (m : Fin 256) : Dest :=
  let y : Slot := { desc := x.desc, ssBase := x.ssBase }
  { src := .merge p m, dma := false, state := tSpace x.desc 3 == 1, base := y.opBase 3, tile := Fin.ofNat 256 x.tile }

/-- The write of a merge slot fails with a contributing task's error: the slot fails with it (Table 04-6, R71). -/
def State.emitFail (s : State) (p : PartId) (m : Fin 256) (x : MergeSlot) (e : TaskError) : State :=
  let t : TileId := Fin.ofNat 256 x.tile
  let r := s.errorOf e
  let s := match e with
    | .sramUE _ => s.count (.tile t) 0xD8
    | _ => s
  ((s.disown (.merge p m)).record (.tile t)
    { severity := r.2.1, engine := 2, code := r.1, taskId := tTask x.desc, layer := tLayer x.desc, syn := r.2.2 }).mergeFail
    p m.val r.1

/-- A merge slot has emitted: it is FREE, and its tasks leave MERGING and complete (Table 04-6). -/
def State.emitted (s : State) (p : PartId) (m : Fin 256) (x : MergeSlot) : State :=
  let part := s.part p
  (s.setPart p { part with merge := Map.set {} part.merge m.val {} }).each x.tasks fun s e =>
    let u : TileId := Fin.ofNat 256 e.1
    let i : Fin 64 := Fin.ofNat 64 e.2
    if (s.slot u i).st = .merging then s.finish u i else s

/-- The writes of a merge slot are with the tier controller: with the last one accepted it has emitted (Table 04-6). -/
def State.emitGo (s : State) (p : PartId) (m : Fin 256) (x : MergeSlot) : State :=
  match s.writesEnd (.merge p m) with
  | (.accepted, s) => s.emitted p m x
  | (.wait, s) =>
    let part := s.part p
    s.setPart p { part with merge := Map.set {} part.merge m.val { x with wrote := true } }
  | (.refused c off, s) => s.emitFail p m x (.refused c off)
  | (.failed st gfa, s) => s.emitFail p m x (.farNak st (BitVec.ofNat 64 gfa))

/-- MERGE_EMIT_DONE: an emitting slot has written the head's output, or its node record, and its tasks complete (R95, R97,
Table 04-6); it stays EMITTING while a page keeps a write from being accepted. -/
def execMergeEmitDone (p : PartId) (m : Fin 256) (s : State) : Res :=
  .next (s.ifWorks (.disp p) fun s =>
    let x : MergeSlot := Map.get {} (s.part p).merge m.val
    if x.st ≠ .emitting then s
    else if x.wrote then s.emitGo p m x
    else
      match x.nodes.find? fun n => n.level == x.hs with
      | none => s
      | some n =>
        let d := x.desc
        let dst := x.dest p m
        let rows := finalRows x n
        let away := if x.root then s.kvRanges d dst (rows.map fun r => (r.1, tN d)) else []
        if away.any fun r => !s.mustWait (pageOf r.1) then s
        else
          match s.ownReadAt dst.src (pagePieces away) with
          | (.wait, s) => s
          | (.refused c off, s) => s.emitFail p m x (.refused c off)
          | (.failed st gfa, s) => s.emitFail p m x (.farNak st (BitVec.ofNat 64 gfa))
          | (.poisoned off, s) => s.emitFail p m x (.poisoned off)
          | (.data, s) =>
            let put := if x.root then s.putResults d dst x.tok (packedRow (tFmtOut d) (tN d)) rows
              else (s.putAll dst (recordPieces x n)).map fun s => (s, 0)
            match put with
            | .error (.err e, s) => s.emitFail p m x e
            | .error _ => s
            | .ok (s, nans) => (s.count (.tile dst.tile) 0xC8 nans).emitGo p m x)

end Sys2Proof.Machine
end

