-- ==== Sys2Proof/Machine/Weir.lean ====
section
/-! DEFINITION. The Weir: tenant rings, budgets, admission, deferral, pauses and resumes (R284 to R297). -/

namespace Sys2Proof.Machine
open Sys2Proof

/-- A named token bucket: rate in 16 tokens/s, size in 256 tokens (Table 12-9). -/
def bucketUnits (rate ns : Nat) : Nat := rate * 16 * 65536 * ns / 1000000000

/-- Refill one budget to a time (R294). -/
def refillBudget (b : Budget) (crate csize prate psize last now : Nat) : Budget :=
  let add := fun (r : Nat) => ((bucketUnits r now : Int) - (bucketUnits r last : Int))
  { c := min (b.c + add crate) (csize * 256 * 65536), k := min (b.k + add prate) (psize * 256 * 65536) }

/-- Refill a tenant's budgets from fabric-global time, as the Weir's page sets them (R294). -/
def State.refill (s : State) (p : PartId) (n : TenId) : State :=
  let t := s.ten n
  let f := fun (x : Fld) => s.fld (.admt p) x n.val
  s.setTen n { t with
    p := refillBudget t.p (f Reg.ADMT_TEN_P_CRATE) (f Reg.ADMT_TEN_P_CSIZE) (f Reg.ADMT_TEN_P_PRATE)
      (f Reg.ADMT_TEN_P_PSIZE) t.refilled s.now
    g := refillBudget t.g (f Reg.ADMT_TEN_G_CRATE) (f Reg.ADMT_TEN_G_CSIZE) (f Reg.ADMT_TEN_G_PRATE)
      (f Reg.ADMT_TEN_G_PSIZE) t.refilled s.now
    refilled := s.now }

/-- Colours of a charge (R294). -/
inductive Colour where
  | green | yellow | red
deriving DecidableEq, Repr

/-- The colour of a charge of k tokens (R294). -/
def colourOf (b : Budget) (k : Nat) : Colour :=
  if b.k < (k : Int) * 65536 then .red else if b.c < (k : Int) * 65536 then .yellow else .green

/-- Charge k tokens (R294): green from both buckets, otherwise from the peak bucket only. -/
def charge (b : Budget) (k : Nat) : Budget :=
  { c := if colourOf b k = .green then b.c - (k : Int) * 65536 else b.c, k := b.k - (k : Int) * 65536 }

/-- The fields a descriptor names, by lowest bit and width (Table 12-3). -/
def descFields : List (Nat × Nat) :=
  [(0, 3), (3, 1), (4, 1), (5, 1), (6, 1), (8, 2), (12, 4), (16, 4), (20, 4), (24, 4), (28, 2), (30, 2), (32, 26), (64, 32),
   (96, 32), (128, 64), (192, 32), (224, 16), (240, 3), (256, 64), (320, 32), (352, 32), (384, 32), (416, 13), (448, 64),
   (512, 128), (640, 32), (704, 64), (768, 256)]

/-- Every bit of a descriptor outside its fields is zero. -/
def descRsv (d : BitVec 1024) : Bool :=
  descFields.foldl (fun v f => withBits v f.1 f.2 0) d.toNat == 0

/-- A binary32 is 0 or more. -/
def f32NonNeg (w : Word) : Bool := decide (w.toNat ≤ 0x7F800000) || w == 0x80000000

/-- A field of a descriptor is out of range (DESC_FIELD). What only a generation uses is checked of GENERATE and RESUME. -/
def requestBad (d : BitVec 1024) (h : HostRead) : Bool :=
  let op := dOp d
  let shape := decide (op = 0 ∨ 4 < op) || !descRsv d || decide (dHandleAddr d % 64 ≠ 0) ||
    (decide (op ≠ 3) && decide (dHandle d ≠ 0))
  let gen := decide (4194304 < dPromptLen d) || decide (BV d 128 64 % 64 ≠ 0) || decide (dMaxNew d = 0) ||
    decide (4194304 < dMaxNew d) || decide (4 < dStopN d) || !f32NonNeg (dTemp d) || decide (dTopP d = 0) ||
    decide (0x3F800000 < (dTopP d).toNat) || !(decide ((dMinP d).toNat < 0x3F800000) || dMinP d == 0x80000000) ||
    decide (4096 < dTopK d) || (dSpec d && !(decide (1 ≤ dDepth d) && decide (dDepth d ≤ 8))) ||
    decide (2 < BV d 30 2) || decide (2 ^ BV d 30 2 ≤ dShard d) ||
    h.stops.any (fun l => decide (l.length = 0) || decide (8 < l.length)) || decide (h.stops.length ≠ dStopN d && h.ok)
  shape || ((op == 1 || op == 3) && gen)

/-- An open request of a conversation. -/
def State.openOf (s : State) (n : TenId) (conv : Nat) : Option Req :=
  s.reqs.find? fun r => r.tenant == n && dConv r.desc == conv && !r.recorded

/-- A model is present: its LAYERS is set (Table 12-8). -/
def State.modelOk (s : State) (p : PartId) (m : Nat) : Bool := s.fld (.admt p) Reg.ADMT_MODEL_LAYERS m != 0

/-- Why a descriptor is refused, as a DETAIL of Table 12-7, in that table's order. -/
def State.descReason (s : State) (p : PartId) (n : TenId) (d : BitVec 1024) (h : HostRead) : Option Nat :=
  let conv := s.conv n (dConv d)
  let here := conv.any fun v => v.st == .resident
  let open_ := s.openOf n (dConv d)
  let convBad : Bool := match dOp d with
    | 1 => if dCont d then !here || open_.isSome else conv.isSome || open_.isSome
    | 2 => !here || (open_.any fun r => dOp r.desc == 2)
    | 3 => here || open_.isSome
    | _ => conv.isNone || open_.isSome
  if requestBad d h then some 0x10
  else if convBad then some 0x11
  else if (s.req (reqIdOf n (dTag d))).isSome then some 0x12
  else if dOp d = 2 ∨ dOp d = 4 then none
  else if ¬ s.modelOk p (dModel d) ∨ (dAdapter d ≠ 0xFFFF ∧ dOp d = 1 ∧ ¬ allParts.any fun g => (s.adpFind g (dAdapter d)).isSome)
  then some 0x13
  else if ¬ h.ok then some 0x14
  else none

/-- The projected first-token time in µs (R276). -/
def State.ttft (s : State) (p : PartId) (m unc q : Nat) : Nat :=
  let b := s.backlog p 0 + (if 1 ≤ q then s.backlog p 1 else 0) + (if 2 ≤ q then s.backlog p 2 + s.backlog p 3 else 0)
  b + unc * s.fld (.disp p) Reg.DISP_MODEL_PF_PS_PER_TOK m / 1000000 + s.fld (.disp p) Reg.DISP_MODEL_TAIL_US m

/-- The lowest PASS of a Prompt partition not in use (R295). -/
def State.freePass (s : State) (p : PartId) : Option Nat :=
  lowest 128 fun k => !(s.reqs.any fun r => r.promptPart == some p && r.pass == k && !r.recorded) &&
    !((s.mover p).ctxs.any fun e => e.2.kind == 0 && e.2.pass == k && decide (1 ≤ e.2.state) && decide (e.2.state ≤ 3))

/-- prompt_part of R295: lowest projection, then lowest number. -/
def State.promptPart (s : State) (m unc q : Nat) : Option PartId :=
  leastOf (allParts.filter fun p => s.stableRole p 1 && s.ctxRoom p && (s.freePass p).isSome) fun p => s.ttft p m unc q

/-- Demote (R277): a projected miss, a fallback named, and a smaller projection for it. -/
def State.demotes (s : State) (p : PartId) (d : BitVec 1024) (cached cachedFb : Nat) : Bool :=
  let k := dClass d
  let lim := s.fld (.disp p) Reg.DISP_CLASS_TTFT_US k
  let fb := s.fld (.disp p) Reg.DISP_CLASS_FALLBACK k
  let unc := dPromptLen d - cached
  let uncFb := dPromptLen d - cachedFb
  match s.promptPart (dModel d) unc (dPri d), s.promptPart fb uncFb (dPri d) with
  | some pp, some pf =>
    lim != 0 && decide (lim < s.ttft pp (dModel d) unc (dPri d)) && s.flag (.disp p) Reg.DISP_CLASS_FB_VALID k &&
      decide (s.ttft pf fb uncFb (dPri d) < s.ttft pp (dModel d) unc (dPri d))
  | _, _ => false

/-- need(m, r) (R295). -/
def State.needOf (s : State) (p : PartId) (m held : Nat) (d : BitVec 1024) : Nat :=
  let t := 2 ^ s.fld (.admt p) Reg.ADMT_MODEL_TOK_LOG2 m
  s.fld (.admt p) Reg.ADMT_MODEL_LAYERS m * ((held + dPromptLen d + dMaxNew d + t - 1) / t)

/-- Open requests of a tenant at a priority. -/
def State.openAt (s : State) (n : TenId) (pri : Nat) : Nat :=
  (s.reqs.filter fun r => r.tenant == n && dPri r.desc == pri && r.st != .deferred && !r.recorded &&
    (dOp r.desc == 1 || dOp r.desc == 3)).length

/-- The deferral queue of a Weir, in order. -/
def State.deferred (s : State) (p : PartId) : List Req := s.reqs.filter fun r => r.weir == p && r.st == .deferred

/-- ADMT_QUEUE.DEPTH follows the queue. -/
def State.syncQueue (s : State) (p : PartId) : State := s.setFld (.admt p) Reg.ADMT_QUEUE_DEPTH (s.deferred p).length

/-- A descriptor is refused (R295, Spillway): its final record, its counter, DESC_BAD. A request that is open under its TAG
stays. -/
def State.refused (s : State) (p : PartId) (r : Req) (status detail : Nat) : State :=
  let s := s.count (.admt p) (if status = 0x11 then 0x90 else if status = 0x12 then 0x98 else 0xA0)
  let s := if 0x10 ≤ detail ∧ detail ≤ 0x14 then (s.err (.admt p) 0x02).irq (.admt p) 1 else s
  s.pushRec r.tenant { recOf r status detail true with whenNs := 0 }

/-- A request is refused and leaves the deferral queue (R295, R297). -/
def State.refuse (s : State) (p : PartId) (r : Req) (status detail : Nat) : State :=
  ((s.dropReq r.reqId).syncQueue p).refused p r status detail

/-- The fallback of a class as the Weir's page names it. -/
def State.fallbackOf (s : State) (p : PartId) (d : BitVec 1024) : Fin 16 :=
  Fin.ofNat 16 (s.fld (.disp p) Reg.DISP_CLASS_FALLBACK (dClass d))

/-- Defer a request, or refuse it where it may not wait or the queue is full (R297). A request deferred before keeps its
place. WHEN is free where no Prompt partition is chosen. -/
def State.defer (s : State) (p : PartId) (r : Req) (status detail : Nat) : State :=
  if ¬ dDefer r.desc then s.refuse p r status detail
  else
    let queue := s.deferred p
    let queued := queue.any fun u => u.reqId == r.reqId
    if ¬ queued ∧ s.fld (.admt p) Reg.ADMT_CTRL_DEFER_MAX ≤ queue.length then
      (s.irq (.admt p) 0).refuse p r status 0x05
    else
      let ahead := (queue.takeWhile fun u => u.reqId != r.reqId).length
      let unc := dPromptLen r.desc - (if r.fallback then r.cachedFb else r.cached)
      let at_ := match s.promptPart r.model.val unc (dPri r.desc) with
        | some pp =>
          let q := dPri r.desc
          s.now + 1000 * (s.backlog pp 0 + (if 1 ≤ q then s.backlog pp 1 else 0) +
            (if 2 ≤ q then s.backlog pp 2 + s.backlog pp 3 else 0))
        | none => s.freeNat 64
      let s := if queued then s.updReq r.reqId fun _ => { r with st := .deferred }
        else { s with reqs := s.reqs ++ [{ r with st := .deferred }] }
      let s := (s.draw.syncQueue p).count (.admt p) 0x88
      s.pushRec r.tenant { recOf r 0x10 detail false with qpos := ahead, whenNs := at_ }

/-- A partition chosen at admission can no longer take the request (R214): the charge is returned, the reservation released,
and the request deferred or refused. -/
def State.openRefused (s : State) (reqId detail : Nat) : State :=
  match s.req reqId with
  | none => s
  | some r =>
    let k : Int := (dPromptLen r.desc : Int) * 65536
    let t := s.ten r.tenant
    let s := s.setTen r.tenant { t with p := { c := if r.green then t.p.c + k else t.p.c, k := t.p.k + k } }
    let s := s.dropAdapter reqId
    let s := match s.conv r.tenant (dConv r.desc) with
      | some v => s.closeConv v
      | none => s
    let r := { r with st := .deferred, genPart := none, promptPart := none, adapter := none, green := false }
    (s.dropReq reqId).defer r.weir r 0x12 detail

/-- The transfer of a new request is opened (R214): a PUSH_TX context at the Prompt mover, or the request is refused for want
of one. The key at the receiver is free: no rule says which region it names. -/
def State.openTransfer (s : State) (pp gp : PartId) (r : Req) : State :=
  let m := r.model.val
  let t := s.modelTokens r.weir m
  let layers := s.fld (.admt r.weir) Reg.ADMT_MODEL_LAYERS m
  let c : MoveCtx :=
    { kind := 0, state := 1, stripesM1 := s.fld (.move pp) Reg.MOVE_CTRL_STRIPES_M1, reqId := r.reqId, layers := layers,
      pages := max 1 ((dPromptLen r.desc + t - 1) / t), localBase := (s.slotRange pp r.pass).1,
      remoteBase := (s.slotRange gp r.genSlot).1, peerNode := s.node, peerPart := gp,
      remoteKey := BitVec.ofNat 32 (s.freeNat 32), stride := (s.slotRange gp r.genSlot).2 / max layers 1,
      sideBytes := sideBytesOf m t, pass := r.pass, kvLen := dPromptLen r.desc }
  match s.draw.bindCtx pp c with
  | some (i, s) => s.openTx pp i
  | none => s.draw.openRefused r.reqId 0x06

/-- Accept a request (R295): the charge, the reservation, its conversation, its bindings, its transfer or its resume. -/
def State.accept (s : State) (p : PartId) (r : Req) (pp : Option PartId) (gp : PartId) (need : Nat) (v : Conv) : State :=
  let t := s.ten r.tenant
  let s := if colourOf t.p (dPromptLen r.desc) = .yellow then s.count (.admt p) 0xA8 else s
  let s := s.setTen r.tenant { t with p := charge t.p (dPromptLen r.desc) }
  let s := (s.reserve gp need).count (.admt p) 0x80
  let ad := match v.adapter with
    | some a => s.adpSame gp a
    | none => none
  let s := match ad with
    | some k => s.adpBind gp k
    | none => s
  let r := { r with
    green := decide (colourOf t.p (dPromptLen r.desc) = .green), st := if dOp r.desc = 3 then .resuming else if pp.isSome then .opening else .running, promptPart := pp, genPart := some gp,
    genSlot := v.slot, pass := match pp with
      | some q => (s.freePass q).getD 0
      | none => 0
    need := need, adapter := ad, pos := v.kvLen + dPromptLen r.desc }
  let s := { s.dropReq r.reqId with reqs := (s.dropReq r.reqId).reqs ++ [r] }
  let v := { v with
    st := .resident, need := v.need + need, kvLen := v.kvLen + dPromptLen r.desc, reqId := r.reqId,
    handleAddr := if dHandleAddr r.desc = 0 then v.handleAddr else dHandleAddr r.desc }
  let s := (s.setConv v).syncQueue p
  if dOp r.desc = 3 then
    match v.adapter, ad with
    | some _, none => s.endReq r.reqId 0x31 0x00
    | _, _ => s.startResume { v with kvLen := v.kvLen - dPromptLen r.desc } r.reqId false
  else
    match pp with
    | some q => s.openTransfer q gp r
    | none => s

/-- The conversation a request would run in: new, or the one it continues or resumes. A resume whose conversation the Weir
no longer knows takes what its handle gives (R290). -/
def State.convFor (s : State) (r : Req) (gp : PartId) (slot : Nat) : Conv :=
  let d := r.desc
  match s.conv r.tenant (dConv d) with
  | some v => v
  | none =>
    let h := dHandle d
    let resume := dOp d == 3
    let ad := if dAdapter d = 0xFFFF then none
      else match s.adpFind gp (dAdapter d) with
        | some k => some (dAdapter d, s.fld (.move gp) Reg.ADP_SLOT_VERSION k)
        | none => none
    { tenant := r.tenant, convId := dConv d, st := .resident, part := gp, slot := slot, need := 0,
      kvLen := if resume then hKv h else 0,
      layers := if resume then hLayers h else s.fld (.admt r.weir) Reg.ADMT_MODEL_LAYERS r.model.val, model := r.model,
      reqId := r.reqId, handleAddr := dHandleAddr d, handle := if resume then h else 0, idleFrom := s.now,
      parkReq := if resume then hReq h else 0, adapter := ad }

/-- The procedure of R295 after the descriptor's checks. A demotion decided before stands. -/
def State.admitNow (s : State) (p : PartId) (r : Req) : State :=
  let d := r.desc
  let n := r.tenant
  let s := s.refill p n
  let t := s.ten n
  let open_ := s.openAt n (dPri d)
  let maxOpen := s.fld (.admt p) (match dPri d with
    | 0 => Reg.ADMT_TEN_MAX_OPEN0
    | 1 => Reg.ADMT_TEN_MAX_OPEN1
    | 2 => Reg.ADMT_TEN_MAX_OPEN2
    | _ => Reg.ADMT_TEN_MAX_OPEN3) n.val
  if colourOf t.p (dPromptLen d) = .red then s.refuse p r 0x11 0x01
  else if t.g.k < 0 then s.refuse p r 0x11 0x02
  else if maxOpen = 0 then s.refuse p r 0x13 0x04
  else if maxOpen ≤ open_ then s.defer p r 0x13 0x03
  else
    let prefill := dOp d == 1 && !dCont d
    let dem := prefill && !r.fallback && s.demotes p d r.cached r.cachedFb
    let r := if dem then { r with model := s.fallbackOf p d, fallback := true } else r
    let s := if dem then
        (s.count (.disp p) 0xA8).pushRec n { recOf r 0x20 0x00 false with fallback := true }
      else s
    let s := if dem then s.updReq r.reqId fun u => { u with model := r.model, fallback := true } else s
    let unc := dPromptLen d - (if r.fallback then r.cachedFb else r.cached)
    let pp := if prefill then s.promptPart r.model.val unc (dPri d) else none
    let old := s.conv n (dConv d)
    let held := match old with
      | some v => s.residentKv v
      | none => if dOp d = 3 then hKv (dHandle d) else 0
    let need := s.needOf p r.model.val held d
    let placed := match old with
      | some v => some v.part
      | none => if dOp d = 3 then some (hOwner (dHandle d)) else none
    let adOk := fun (g : PartId) => dAdapter d == 0xFFFF || dOp d != 1 || dCont d || (s.adpFind g (dAdapter d)).isSome
    let gp := match placed with
      | some g =>
        if s.stableRole g 2 ∧ s.ctxRoom g ∧ (old.isSome ∨ (s.freeRs g).isSome) ∧
            s.fld (.admt g) Reg.ADMT_PAGE_RESV_RESV + need ≤ s.fld (.admt g) Reg.ADMT_PAGE_LIMIT_LIMIT then some g else none
      | none =>
        leastOf (allParts.filter fun g => s.genOk g need && adOk g) fun g => s.fld (.admt g) Reg.ADMT_PAGE_RESV_RESV
    let layers := s.fld (.admt p) Reg.ADMT_MODEL_LAYERS r.model.val
    let tooLong := fun (g : PartId) =>
      decide (s.fld (.admt g) Reg.ADMT_KV_SLOT_PAGES / max layers 1 * 2 ^ s.fld (.admt p) Reg.ADMT_MODEL_TOK_LOG2 r.model.val <
        held + dPromptLen d + dMaxNew d)
    let side := match gp with
      | some g => [g]
      | none => allParts.filter fun g => s.fld (.disp g) Reg.DISP_ROLE_CUR == 2 && !s.fenced g
    if !side.isEmpty && side.all tooLong then s.refuse p r 0x12 0x09
    else
      match gp with
      | some g =>
        if prefill ∧ pp = none then s.defer p r 0x12 0x06
        else
          let slot := (s.freeRs g).getD 0
          let v := s.convFor r g slot
          s.accept p r pp g need { v with kvLen := held }
      | none => s.defer p r 0x12 (if prefill ∧ pp = none then 0x06 else 0x07)

/-- A request as the Weir reads it. -/
def State.newReq (s : State) (p : PartId) (n : TenId) (d : BitVec 1024) (h : HostRead) : Req :=
  { reqId := reqIdOf n (dTag d), tenant := n, desc := d, stops := h.stops, st := .opening, weir := p,
    model := Fin.ofNat 16 (dModel d), fallback := false, promptPart := none, genPart := none, genSlot := 0, pass := 0, need := 0,
    readAt := s.now, tokens := 0, outBuf := [], emitted := [], pos := 0, layers := 0, pages := 0, lastTok := 0, specEpoch := 0,
    adapter := none, endStatus := none, recorded := false,
    cached := if dNoPrefix d then 0 else h.cached, cachedFb := if dNoPrefix d then 0 else h.cachedFb,
    prompt := h.tokens }

/-- Tenants' completion rings have room for a record (R286). -/
def Tenant.cplRoom (t : Tenant) : Bool := t.waiting.isEmpty && decide (ringUsed t.cplLog2 t.cplHead t.cplTail < 2 ^ t.cplLog2)

/-- The Weir of a tenant may read a descriptor: it is bound, enabled, its rings are in use, a descriptor waits and records
have room (R285 to R287). -/
def State.weirReads (s : State) (p : PartId) (n : TenId) : Bool :=
  let t := s.ten n
  s.weirOf n == some p && s.flag (.admt p) Reg.ADMT_CTRL_EN && s.ready (.admt p) && !s.recovery && t.en && t.cplRoom &&
    decide (ringUsed t.reqLog2 t.reqHead t.reqTail ≠ 0)

/-- A descriptor is read (R285): REQ_HEAD moves on and is written to STAT_ADDR. -/
def State.readDesc (s : State) (n : TenId) : State :=
  let t := s.ten n
  let head := (t.reqHead + 1) % 2 ^ (t.reqLog2 + 1)
  (s.setTen n { t with reqHead := head }).hostWr n t.statAddr.toNat (bytesOfNat 8 head)

/-- GENERATE (R295, R323): read, checked, then admitted, deferred, demoted or refused; outside the quorum no request is
read. A reserved OP is refused as a field. -/
def execGenerate (p : PartId) (n : TenId) (d : BitVec 1024) (h : HostRead) (s : State) : Res :=
  .next (
    if s.weirReads p n ∧ s.flag .qrm Reg.QRM_STAT_IN_QUORUM ∧ ¬ (2 ≤ dOp d ∧ dOp d ≤ 4) then
      let s := s.readDesc n
      let r := s.newReq p n d h
      match s.descReason p n d h with
      | some why => s.refused p r 0x13 why
      | none => s.admitNow p r
    else s)

/-- RESUME (R289, R290): a GENERATE that first resumes; OWNER_LOST where its partition is fenced or has another role. -/
def execResume (p : PartId) (n : TenId) (d : BitVec 1024) (h : HostRead) (s : State) : Res :=
  .next (
    if s.weirReads p n ∧ s.flag .qrm Reg.QRM_STAT_IN_QUORUM ∧ dOp d = 3 then
      let s := s.readDesc n
      let r := s.newReq p n d h
      let owner := hOwner (dHandle d)
      match s.descReason p n d h with
      | some why => s.refused p r 0x13 why
      | none =>
        if s.fenced owner ∨ s.fld (.disp owner) Reg.DISP_ROLE_CUR ≠ 2 then s.pushRec n { recOf r 0x30 0x33 true with tokens := 0 }
        else s.admitNow p r
    else s)

/-- PAUSE (R289): parks the conversation by R218; its final record follows the last layer's commit. -/
def execPause (p : PartId) (n : TenId) (d : BitVec 1024) (h : HostRead) (s : State) : Res :=
  .next (
    if s.weirReads p n ∧ dOp d = 2 then
      let s := s.readDesc n
      let r := s.newReq p n d h
      match s.descReason p n d h, s.conv n (dConv d) with
      | some why, _ => s.refused p r 0x13 why
      | none, none => s.refused p r 0x13 0x11
      | none, some v =>
        let v := { v with handleAddr := if dHandleAddr d = 0 then v.handleAddr else dHandleAddr d }
        let s := { s.setConv v with reqs := s.reqs ++ [{ r with st := .parking, genPart := some v.part, genSlot := v.slot }] }
        s.parkNow v
    else s)

/-- RELEASE (R289): the conversation's pages are freed wherever they lie; parked ones by CLOSE (R225). -/
def execRelease (p : PartId) (n : TenId) (d : BitVec 1024) (h : HostRead) (s : State) : Res :=
  .next (
    if s.weirReads p n ∧ dOp d = 4 then
      let s := s.readDesc n
      let r := s.newReq p n d h
      match s.descReason p n d h, s.conv n (dConv d) with
      | some why, _ => s.refused p r 0x13 why
      | none, none => s.refused p r 0x13 0x11
      | none, some v =>
        let c := s.convRange { v with kvLen := s.residentKv v }
        let s := if v.st = .resident then s
          else (s.moverSend v.part 6 (hNode v.handle) (hPart v.handle) (blankMsg 0 v.parkReq)).forgetRemote c
        let s := s.each (List.range (c.layers * c.stride + (c.layers * c.pages * c.sideBytes + 65535) / 65536)) fun s k =>
          let page := c.localBase / 65536 + k
          match (s.leaf page).st with
          | .resident _ => s.freePage page
          | .poisoned => s.freePage page
          | _ => s
        (s.closeConv v).pushRec n (recOf r 0x00 0x00 true)
    else s)

/-- A doorbell of a tenant that no Weir serves is dropped and counted (R287). -/
def State.doorbell (s : State) (n : TenId) (f : PartId → State → State) : State :=
  if s.recovery then s
  else
    match s.weirOf n with
    | some p => f p s
    | none => (s.count (.admt 0) 0xB8).err (.admt 0) 0x01

/-- REQ_TAIL (R285); DOORBELLS counts it (Table 17-9). -/
def execReqTail (n : TenId) (tail : Fin 8192) (s : State) : Res :=
  .next ((if s.recovery then s else s.count .pcie 0xA8).doorbell n fun _ s =>
    let t := s.ten n
    s.setTen n { t with reqTail := tail.val % 2 ^ (t.reqLog2 + 1) })

/-- TOK_HEAD (R286). -/
def execTokHead (n : TenId) (head : Nat) (s : State) : Res :=
  .next (if s.recovery then s
    else
      let t := s.ten n
      s.setTen n { t with tokHead := head % 2 ^ (t.tokLog2 + 1) })

/-- CPL_HEAD (R286). -/
def execCplHead (n : TenId) (head : Nat) (s : State) : Res :=
  .next (if s.recovery then s
    else
      let t := s.ten n
      s.setTen n { t with cplHead := head % 2 ^ (t.cplLog2 + 1) })

/-- TENANT_RING_CFG_WRITE (R284): ring bases and sizes change only while EN is clear. -/
def execTenantRingCfgWrite (n : TenId) (r : RingReg) (s : State) : Res :=
  let t := s.ten n
  .next (if s.recovery then s
    else
      match r with
      | .reqBase v => if t.en then s else s.setTen n { t with reqBase := v &&& 0xFFFFFFFFFFFFF000 }
      | .tokBase v => if t.en then s else s.setTen n { t with tokBase := v &&& 0xFFFFFFFFFFFFF000 }
      | .cplBase v => if t.en then s else s.setTen n { t with cplBase := v &&& 0xFFFFFFFFFFFFF000 }
      | .statAddr v => if t.en then s else s.setTen n { t with statAddr := v &&& 0xFFFFFFFFFFFFFFC0 }
      | .ringCfg v =>
        let x := v.toNat
        let pick := fun (old new lo hi : Nat) => if lo ≤ new ∧ new ≤ hi then new else old
        let u := if t.en then t else { t with
          reqLog2 := pick t.reqLog2 (bits x 0 4) 4 12, tokLog2 := pick t.tokLog2 (bits x 8 5) 6 20,
          cplLog2 := pick t.cplLog2 (bits x 16 4) 4 15 }
        s.setTen n { u with en := bit x 31 })

/-- DEFER_RETRY_TIMER (R297): the queue head is evaluated again by R295; a decode that a drain paused looks again for a
partition (R21). -/
def execDeferRetryTimer (p : PartId) (s : State) : Res :=
  let s := s.each (s.reqs.filter fun r => r.st == .parking && dOp r.desc != 2 && r.weir == p) fun s r =>
    match s.conv r.tenant (dConv r.desc) with
    | some v => if v.st = .parked ∧ ¬ s.reqs.any (fun u => u.tenant == r.tenant && dConv u.desc == v.convId && dOp u.desc == 2) then
        s.relocate v r else s
    | none => s
  .next (match s.deferred p with
    | r :: _ => if s.flag .qrm Reg.QRM_STAT_IN_QUORUM then s.admitNow p r else s
    | [] => s)

/-- DEFER_DEADLINE (R297): a deferred request whose age reaches a nonzero TTFT_US of its class. -/
def execDeferDeadline (p : PartId) (reqId : Nat) (s : State) : Res :=
  .next (match (s.deferred p).find? fun r => r.reqId == reqId with
    | some r =>
      let lim := s.fld (.disp p) Reg.DISP_CLASS_TTFT_US (dClass r.desc)
      if lim ≠ 0 ∧ r.readAt + lim * 1000 ≤ s.now then s.refuse p r 0x12 0x08 else s
    | none => s)

/-- IDLE_PARK_TIMER (R289): a resident conversation without an open request for IDLE_MS is parked. -/
def execIdleParkTimer (n : TenId) (conv : Nat) (s : State) : Res :=
  .next (match s.conv n conv, s.weirOf n with
    | some v, some p =>
      let busy := s.openOf n conv
      let parking := (s.mover v.part).ctxs.any fun e => e.2.kind == 2 && e.2.reqId == v.reqId && decide (1 ≤ e.2.state) &&
        decide (e.2.state ≤ 3)
      if v.st = .resident ∧ busy = none ∧ ¬ parking ∧
          v.idleFrom + s.fld (.admt p) Reg.ADMT_TEN_IDLE_MS n.val * 1000000 ≤ s.now then s.startPark v
      else s
    | _, _ => s)

/-- TENANT_CANCEL (R24, R289): the open or deferred request of a TAG ends with ABORTED_HOST; one that has already ended
discards the cancel; no such request counts CANCEL_UNKNOWN. -/
def execTenantCancel (n : TenId) (tag : Fin 67108864) (s : State) : Res :=
  .next (s.doorbell n fun p s =>
    match s.req (reqIdOf n tag.val) with
    | none => s.count (.admt p) 0xC0
    | some r =>
      if r.st = .deferred then
        ((s.dropReq r.reqId).syncQueue r.weir).pushRec n (recOf r 0x41 0x00 true)
      else if r.endStatus.isSome then
        (match r.genPart with
        | some g => s.count (.disp g) 0xD8
        | none => s)
      else s.abortReq r.reqId 0x41 0x00)

end Sys2Proof.Machine
end

