-- ==== Sys2Proof/Machine/Mover.lean ====
section
/-! DEFINITION. The commands of the State Mover: messages, side records, parks, adapter slots (R208 to R232, R236 to R239). -/

namespace Sys2Proof.Machine
open Sys2Proof

/-- The mover of a partition acts on messages: it is not fenced and its page is ready (R239, R349). -/
def State.moverOn (s : State) (p : PartId) (f : State → State) : State :=
  if s.fenced p then s else s.ifReady (.move p) f

/-- Answer an opening (Table 09-2). -/
def State.openAnswer (s : State) (p : PartId) (m : MoverMsg) (status base stride : Nat) (key : Word) : State :=
  s.moverSend p 3 m.fromNode m.fromPart
    { blankMsg m.ctx.val m.reqId with status := status, base := base, stride := stride, key := key }

/-- The data QPs of a transfer at its receiving end, the ones the sender bound: first index and stripes (R210, R214). The
message does not name them: of another device's transfer they are the run this end would bind (notes/assumptions/26). -/
def State.rxRun (s : State) (p : PartId) (m : MoverMsg) : Nat × Nat :=
  if m.fromNode = s.node then
    let c := s.ctx m.fromPart m.ctx.val
    ((s.qp (Fin.ofNat 16384 (512 * m.fromPart.val + c.qpFirst))).remQpn.val % 512, c.stripesM1)
  else
    let n := s.fld (.move p) Reg.MOVE_CTRL_STRIPES_M1
    let first := match (s.poolTo p m.fromNode m.fromPart).drop 1 with
      | q :: _ => q.val % 512
      | [] => 0
    ((s.findRun p m.fromNode m.fromPart (n + 1)).getD first, n)

/-- A receiving context (R214, R236). -/
def State.rxCtx (s : State) (p : PartId) (m : MoverMsg) (kind base : Nat) : MoveCtx :=
  { kind := kind, state := 2, stripesM1 := (s.rxRun p m).2, qpFirst := (s.rxRun p m).1, reqId := m.reqId, layers := m.layers,
    pages := m.pages, localBase := base, peerNode := m.fromNode, peerPart := m.fromPart,
    stride := if kind = 3 then m.pages else m.stride, sideBytes := m.sideBytes, ttlMs := m.ttlMs, kvLen := m.kvLen,
    bound := true }

/-- OPEN_PUSH (R214): a PUSH_RX context on the same data QPs, or MAP_FULL. -/
def State.openPush (s : State) (p : PartId) (m : MoverMsg) : State :=
  match s.bindCtx p (s.rxCtx p m 1 m.base) with
  | some (_, s) => s.openAnswer p m 0 0 0 0
  | none => s.openAnswer p m 0x0C 0 0 0

/-- Entries of a Cache partition. -/
def State.entries (s : State) (p : PartId) : List Nat := List.range (s.fld .srch Reg.CACHE_CFG_ENTRIES p.val)

/-- The lowest FREE entry (R236). -/
def State.freeEntry (s : State) (p : PartId) : Option Nat :=
  lowest (s.fld .srch Reg.CACHE_CFG_ENTRIES p.val) fun i => entState (s.entry p i) == 0

/-- A range of n pages in a region that no entry holds: the lowest one (R236). -/
def State.rangeIn (s : State) (p : PartId) (rgn n : Nat) : Option Nat :=
  let g := s.rgn p rgn
  let taken := ((s.entries p).map fun i => s.entry p i).filter fun e => entState e != 0
  let first := (g.base + 65535) / 65536
  let last := (g.base + g.lenM1 + 1) / 65536
  let fits := fun (a : Nat) => decide (first ≤ a ∧ a + n ≤ last) &&
    taken.all fun e => decide (a + n ≤ entBase e / 65536 ∨ entBase e / 65536 + entRange e ≤ a)
  let starts := first :: taken.map fun e => entBase e / 65536 + entRange e
  if g.valid then (starts.filter fits).foldl (fun (b : Option Nat) a => some (min a (b.getD a))) none else none

/-- The unpinned LIVE PREFIX entry of the oldest LAST_USE (R240). -/
def State.oldestPrefix (s : State) (p : PartId) : Option Nat :=
  (s.entries p).foldl (fun (b : Option Nat) i =>
    let e := s.entry p i
    if entState e = 2 ∧ entKind e = 1 ∧ entPins e = 0 then
      match b with
      | some j => if entLast e < entLast (s.entry p j) then some i else b
      | none => some i
    else b) none

/-- Room for a range, expiring PREFIX entries until it fits (R240). -/
def State.makeRoom (s : State) (p : PartId) (rgn n : Nat) : Nat → Option Nat × State
  | 0 => (s.rangeIn p rgn n, s)
  | k + 1 =>
    match s.rangeIn p rgn n with
    | some a => (some a, s)
    | none =>
      match s.oldestPrefix p with
      | some i => ((s.expireEntry p i).count .srch 0xB0).makeRoom p rgn n k
      | none => (none, s)

/-- The TTL a partition grants (R236). -/
def State.grantTtl (s : State) (p : PartId) (ttl : Nat) : Nat × State :=
  let most := s.fld .srch Reg.CACHE_CFG_TTL_MAX_S p.val * 1000
  if most < ttl then (most, s.count .srch 0x90) else (ttl, s)

/-- The fields of a new entry (Table 10-1): FILLING, GEN incremented, LAST_USE now. -/
def State.newEntry (s : State) (p : PartId) (i kind node : Nat) (part : PartId) (reqId base layers pages side ttl kv : Nat) :
    State :=
  let gen := (entGen (s.entry p i) + 1) % 2 ^ 20
  s.setEntry p i (natOfBytes (List.flatten
    [bytesOfNat 4 (1 + 8 * kind), bytesOfNat 4 gen, bytesOfNat 4 (node + 4096 * part.val), bytesOfNat 4 reqId,
     bytesOfNat 8 base, bytesOfNat 2 layers, bytesOfNat 2 pages, bytesOfNat 4 pages, bytesOfNat 4 side, bytesOfNat 4 ttl,
     bytesOfNat 8 0, bytesOfNat 4 kv, bytesOfNat 4 0, bytesOfNat 8 s.now]))

/-- A region's key (R155). -/
def State.rgnKey (s : State) (p : PartId) (i : Nat) : Word := BitVec.ofNat 32 (i + (s.rgn p i).keyCheck * 4096)

/-- OPEN_PARK (R236): an entry and a range, or a refusal. -/
def State.openPark (s : State) (p : PartId) (m : MoverMsg) : State :=
  let rgn := s.fld .srch Reg.CACHE_CFG_PARK_RGN p.val
  let n := m.layers * m.pages + (m.layers * m.pages * m.sideBytes + 65535) / 65536
  if m.ttlMs = 0 then s.openAnswer p m 0x04 0 0 0
  else
    match s.freeEntry p with
    | none => s.openAnswer p m 0x0C 0 0 0
    | some i =>
      match s.makeRoom p rgn n 4096 with
      | (none, s) => s.openAnswer p m 0x0B 0 0 0
      | (some a, s) =>
        match s.bindCtx p { s.rxCtx p m 3 (a * 65536) with entry := i } with
        | none => s.openAnswer p m 0x0C 0 0 0
        | some (_, s) =>
          let t := s.grantTtl p m.ttlMs
          let s := t.2.newEntry p i 0 m.fromNode m.fromPart m.reqId (a * 65536) m.layers m.pages m.sideBytes t.1 m.kvLen
          s.openAnswer p m 0 (a * 65536) m.pages (s.rgnKey p rgn)

/-- A granted park installs the home's key, writes the handle and moves its first layer (R218, R219, R290). Without a key slot
it waits. ENTRY_TAG is free: OPEN_ACK does not carry it. -/
def State.grantPark (s : State) (p : PartId) (i : Nat) : State :=
  let c := s.ctx p i
  match s.keySlot c.remoteKey with
  | none => (s.count (.move p) 0xB0).parkWait p c.reqId
  | some k =>
    let s := s.setFld .tier Reg.REMOTE_KEY c.remoteKey.toNat k
    let home := c.peerNode + 2 ^ 12 * c.peerPart.val + 2 ^ 17 * p.val
    let h := List.flatten
      [bytesOfNat 4 home, s.freeBytes 4, bytesOfNat 8 c.remoteBase, bytesOfNat 2 c.layers, bytesOfNat 2 c.pages,
       bytesOfNat 4 c.remoteKey.toNat, bytesOfNat 4 c.kvLen, bytesOfNat 4 c.reqId]
    let s := s.draw
    let s := match s.convOfReq c.reqId with
      | some v =>
        let s := s.setConv { v with handle := BitVec.ofNat 256 (natOfBytes h) }
        if v.handleAddr = 0 then s else s.hostWr v.tenant v.handleAddr h
      | none => s
    (s.setCtx p i { s.ctx p i with keyIdx := k, state := 3 }).parkLayer p i 0

/-- OPEN_ACK (R214, R218): WR pairs are posted, the park is granted, the next park target is tried, or the request is handled
as one whose partition does not qualify. -/
def State.openAck (s : State) (p : PartId) (m : MoverMsg) : State :=
  let i := m.ctx.val
  let c := s.ctx p i
  if c.state ≠ 1 ∨ c.reqId ≠ m.reqId ∨ ¬ c.bound then s
  else if c.kind = 0 then
    if m.status = 0 then
      (s.updReq c.reqId fun r => if r.st = .opening then { r with st := .running } else r).post p
        ((List.range c.layers).flatMap fun layer => layerWrs p i c layer true true)
    else ((s.setCtx p i {}).openRefused c.reqId 0x07).qpsFreed p
  else if c.kind = 2 then
    if m.status = 0 then
      (s.setCtx p i { c with remoteBase := m.base, remoteKey := m.key, asked := true }).grantPark p i
    else s.tryPark p i (c.parkIdx + 1)
  else s

/-- The lookup of R238 in a Cache partition: the entry a run lies in, or a refusal. -/
def State.runEntry (s : State) (p : PartId) (m : MoverMsg) : Option Nat :=
  (s.entries p).find? fun i =>
    let e := s.entry p i
    let inside := decide (entBase e ≤ m.base ∧ m.base + m.pages * 65536 ≤ entBase e + entLayers e * entStride e * 65536)
    inside && !entPend e &&
      (if m.copy then entKind e == 1 && entState e == 2 && m.reqId == i + entGen e * 4096
       else entKind e == 0 && (entState e == 2 || entState e == 3) && entOwner e == (m.fromNode, m.fromPart) &&
         entReq e == m.reqId)

/-- A serve has passed its checks (Table 10-2): PINS, LAST_USE, RESUMED, or a PREFIX entry's new expiry. -/
def State.pinEntry (s : State) (p : PartId) (i : Nat) (resume : Bool) : State :=
  let e := s.entry p i
  let e := withBits (withBits e 16 16 (entPins e + 1)) 448 64 s.now
  let e := if entKind e = 1 then withBits e 320 64 (max (entExpire e) (s.now + entTtl e * 1000000))
    else if resume then withBits e 0 3 3 else e
  let s := { s with srch := { s.srch with lastPull := Map.set 0 s.srch.lastPull (p.val * 4096 + i) (s.now + 1) } }
  s.setEntry p i e

/-- PULL_REQ (R222, R238): the checks, then a SERVE context and the run's WRs, or PULL_NAK. Without a free context the answer is
MAP_FULL. The key at the puller is free: no rule says how the home learns it. -/
def State.pullReqIn (s : State) (p : PartId) (m : MoverMsg) : State :=
  let nak := fun (s : State) (code : Nat) =>
    s.moverSend p 5 m.fromNode m.fromPart { blankMsg m.ctx.val m.reqId with status := code }
  match s.checkRegion p m.key 0 (fun g => g.read) m.base (m.pages * 65536) with
  | some code => nak s code
  | none =>
    let cache := s.fld (.disp p) Reg.DISP_ROLE_CUR == 3
    let entry := if cache then s.runEntry p m else none
    if cache ∧ entry = none then nak s 0x05
    else
      let c : MoveCtx :=
        { kind := 5, state := 1, reqId := m.reqId, layers := 1, stride := m.pages, pages := m.pages, localBase := m.base,
          remoteBase := m.base2, remoteStage := m.stage, peerNode := m.fromNode, peerPart := m.fromPart,
          remoteKey := BitVec.ofNat 32 (s.freeNat 32), sideBytes := m.sideBytes, copyRun := m.copy,
          entry := entry.getD 4096 }
      match s.draw.bindCtx p c with
      | none => nak s 0x0C
      | some (i, s) =>
        let s := match entry with
          | some e => s.pinEntry p e m.resume
          | none => s
        let s := if m.copy ∧ cache then s.count .srch 0xA0 else s
        s.sendServe p i

/-- The pulls of a context that have brought nothing end, their held accesses with the code (R138). -/
def State.abortPulls (s : State) (c : MoveCtx) (code : Nat) : State :=
  s.each ((List.range (c.layers * c.pages)).map fun k => c.pageAt (k / c.pages) (k % c.pages)) fun s page =>
    match s.mig page with
    | some x => if x.kind = .pull ∧ x.bytes = 0 then s.abortMig page x code else s
    | none => s

/-- A prefix run is given up: its blocks are computed (R243). -/
def State.dropRun (s : State) (p : PartId) (code i : Nat) : State :=
  let c := s.ctx p i
  let s := (s.abortPulls c code).forgetRemote c
  s.setCtx p i { s.ctx p i with state := 5, status := code, runs := [] }

/-- The contexts of the prefix runs that follow a run of the same prompt. -/
def State.laterRuns (s : State) (p : PartId) (c : MoveCtx) : List Nat :=
  ((s.mover p).ctxs.filter fun e => e.2.kind == 4 && e.2.copyRun && e.2.reqId == c.reqId && decide (1 ≤ e.2.state) &&
    decide (e.2.state < 4) && decide (c.localBase < e.2.localBase)).map (·.1)

/-- PULL_NAK (R138, R222, R243): the held accesses of the context's pulls end with its code; the blocks of a matched run and
every later block are computed instead. -/
def State.pullNakIn (s : State) (p : PartId) (m : MoverMsg) : State :=
  let i := m.ctx.val
  let c := s.ctx p i
  if c.kind ≠ 4 ∨ c.state = 0 ∨ 4 ≤ c.state then s
  else if c.copyRun then
    ((s.each (i :: s.laterRuns p c) fun s j => s.dropRun p m.status j).when (decide (c.reqId < 2 ^ 32)) fun s =>
      s.count .srch 0xA8)
  else s.abortPulls c m.status

/-- Answer a CLOSE (Table 09-2). -/
def State.closeAnswer (s : State) (p : PartId) (m : MoverMsg) : State :=
  s.moverSend p 7 m.fromNode m.fromPart { blankMsg m.ctx.val m.reqId with status := m.status }

/-- A receiving end closes (R225): its QPs go to ERROR, and back once they are flushed; copies above the watermark are freed; the
context is FAILED with the code. -/
def State.closeRx (s : State) (p : PartId) (i code : Nat) : State :=
  let c := s.ctx p i
  let s := if c.bound then s.qpsError p c else s
  let next := if c.wmValid then c.wmLayer + 1 else 0
  let s := s.each (List.range (c.layers - next)) fun s j =>
    s.each (List.range c.pages) fun s k =>
      let page := c.pageAt (next + j) k
      match (s.leaf page).st with
      | .resident _ => s.freePage page
      | _ => s
  let s := s.failCtx p i code
  (s.setCtx p i { s.ctx p i with bound := c.bound, closed := true }).returnQps p

/-- A CLOSE at a home (Table 10-2): an entry FILLING, RESUMED or parked (R289) becomes FREE and its pages go. -/
def State.closeEntry (s : State) (p : PartId) (m : MoverMsg) : State :=
  match (s.entries p).find? fun i =>
      let e := s.entry p i
      decide (1 ≤ entState e) && entKind e == 0 && entOwner e == (m.fromNode, m.fromPart) && entReq e == m.reqId with
  | none => s
  | some i =>
    let e := s.entry p i
    (s.freeEntryPages e).setEntry p i (withBits e 0 5 0)

/-- A parked conversation is handed back (R239): its owner pulls every page and parks it again; one that cannot take the pages
leaves the entry to expire. -/
def State.handBack (s : State) (p : PartId) (v : Conv) : State :=
  let need := v.layers * (s.convRange v).pages
  if s.stableRole p 2 ∧ s.ctxRoom p ∧
      s.fld (.admt p) Reg.ADMT_PAGE_RESV_RESV + need ≤ s.fld (.admt p) Reg.ADMT_PAGE_LIMIT_LIMIT then
    let s := (s.reserve p need).count .srch 0x98
    let v := { v with st := .relocating, need := need }
    (s.setConv v).startResume v v.reqId true
  else s

/-- CLOSE (R225, R239, Table 10-2). -/
def State.closeIn (s : State) (p : PartId) (m : MoverMsg) : State :=
  let handed := s.convs.find? fun v => v.part == p && v.st == .parked && v.parkReq == m.reqId
  match m.status == 0x01, handed with
  | true, some v => s.handBack p v
  | _, _ =>
    let mine := (s.mover p).ctxs.filter fun e =>
      (e.2.kind == 1 || e.2.kind == 3) && e.2.reqId == m.reqId && e.2.peerNode == m.fromNode &&
        e.2.peerPart == m.fromPart && decide (1 ≤ e.2.state) && decide (e.2.state ≤ 3)
    let s := s.each mine fun s e => s.closeRx p e.1 m.status
    (s.closeEntry p m).closeAnswer p m

/-- CLOSE_ACK (R225): the data QPs go through RESET to RTS, once they are flushed, and return to the pool. -/
def State.closeAckIn (s : State) (p : PartId) (m : MoverMsg) : State :=
  let i := m.ctx.val
  let c := s.ctx p i
  if c.state = 5 ∧ c.bound then (s.setCtx p i { c with closed := true }).returnQps p else s

/-- EXPIRE (R223): the request's REMOTE entries become UNWRITTEN and its Weir writes EXPIRED_TTL. -/
def State.expireIn (s : State) (p : PartId) (m : MoverMsg) : State :=
  match s.convs.find? fun v => v.part == p && v.parkReq == m.reqId && (v.st == .parked || decide (v.handle ≠ 0)) with
  | none => s
  | some v =>
    let s := s.forgetRemote (s.convRange v)
    let s := if v.st = .parked then s.dropConv v.tenant v.convId else s
    s.pushRec v.tenant
      { reqId := m.reqId, convId := v.convId, status := 0x32, final := false, notice := true, handle := false,
        fallback := false, detail := 0x00, tokens := 0, pages := 0, layers := 0, qpos := 0, whenNs := 0 }

/-- A message has come to a control QP: the mover acts on it by its TYPE; one that Table 09-2 does not list is discarded and
counted (R212). -/
def State.message (s : State) (q : QpId) (b : List Byte) : State :=
  let p := partOfQp q
  let x := s.qp q
  let m := moverOfBytes x.remNode x.remPart x.remQpn b
  s.moverOn p fun s =>
    match natOfBytes (b.take 1) with
    | 1 => s.openPush p m
    | 2 => s.openPark p m
    | 3 => s.openAck p m
    | 4 => s.pullReqIn p m
    | 5 => s.pullNakIn p m
    | 6 => s.closeIn p m
    | 7 => s.closeAckIn p m
    | 8 => s.expireIn p m
    | _ => s.count (.move p) 0xE0

/-- QSEND (R188, R210): on a control QP the mover acts on the message it brings. -/
def execQsend (r : QpReq) (s : State) : Res := .next (s.qsend r State.message)

/-- OPEN_PUSH (R214). -/
def execOpenPush (p : PartId) (m : MoverMsg) (s : State) : Res := .next (s.moverOn p fun s => s.openPush p m)

/-- OPEN_PARK (R236). -/
def execOpenPark (p : PartId) (m : MoverMsg) (s : State) : Res := .next (s.moverOn p fun s => s.openPark p m)

/-- OPEN_ACK (R214, R218). -/
def execOpenAck (p : PartId) (m : MoverMsg) (s : State) : Res := .next (s.moverOn p fun s => s.openAck p m)

/-- PULL_REQ (R222, R238). -/
def execPullReq (p : PartId) (m : MoverMsg) (s : State) : Res := .next (s.moverOn p fun s => s.pullReqIn p m)

/-- PULL_NAK (R222). -/
def execPullNak (p : PartId) (m : MoverMsg) (s : State) : Res := .next (s.moverOn p fun s => s.pullNakIn p m)

/-- CLOSE (R225). -/
def execClose (p : PartId) (m : MoverMsg) (s : State) : Res := .next (s.moverOn p fun s => s.closeIn p m)

/-- CLOSE_ACK (R225). -/
def execCloseAck (p : PartId) (m : MoverMsg) (s : State) : Res := .next (s.moverOn p fun s => s.closeAckIn p m)

/-- EXPIRE (R223). -/
def execExpire (p : PartId) (m : MoverMsg) (s : State) : Res := .next (s.moverOn p fun s => s.expireIn p m)

/-- MOVER_STAGE_COPY_DONE (R215): the layer's side records are in the stage of every context with that PASS, and the mover fires
the layer's tag. -/
def execMoverStageCopyDone (p : PartId) (pass : Fin 128) (layer : Fin 256) (s : State) : Res :=
  .next (s.moverOn p fun s =>
    let l := layer.val
    let mine := (s.mover p).ctxs.filter fun e =>
      e.2.kind == 0 && e.2.pass == pass.val && decide (e.2.state ≤ 3) && Map.get 0 e.2.layerAt l != 0 && !e.2.staged.contains l
    if mine.isEmpty then s
    else
      let s := s.each mine fun s e =>
        let s := s.gatherSide e.2 l 0 e.2.pages
        s.setCtx p e.1 { s.ctx p e.1 with staged := l :: (s.ctx p e.1).staged }
      s.trigEvent p 4 (0x8000 + pass.val * 256 + l))

/-- The stage records that came with a trigger go to their pages' side slots (R216); false: a page has no side slot, as one
without a frame (R127). -/
def State.attachRecords (s : State) (c : MoveCtx) (r : QpReq) : Bool × State :=
  if c.sideBytes = 0 then (true, s)
  else
    let start := r.offset + r.payload.length - r.wrLen
    let first := (start - stageOff c.localBase c.layers c.stride c.pages c.sideBytes 0 0) / c.sideBytes
    (List.range (r.wrLen / c.sideBytes)).foldl (fun acc j =>
      let k := first + j
      let x := acc.2.setSide (c.pageAt (k / max c.pages 1) (k % max c.pages 1)) (acc.2.rd (start + j * c.sideBytes) c.sideBytes)
      (acc.1 && x.1, x.2)) (true, s)

/-- The stripes whose triggers have fired, by their QPs at the sending end, are all n of a layer: n in a row have (R210, R224). -/
def allStripes (mask n : Nat) : Bool := (List.range 512).any fun k => bits mask k n == 2 ^ n - 1

/-- A layer is whole at a receiving context (R216, R224): the watermark advances, and after the last layer the context is DONE and
a parked entry LIVE (Table 10-2). -/
def State.layerWhole (s : State) (p : PartId) (i layer : Nat) : State :=
  let c := s.ctx p i
  let s := if c.kind = 1 then s.advance p i layer (c.pages - 1)
    else s.setCtx p i { c with wmValid := true, wmLayer := layer, wmPage := c.pages - 1 }
  if layer + 1 ≠ c.layers then s
  else
    let s := (s.setCtx p i { s.ctx p i with state := 4, bound := false }).qpsFreed p
    if c.kind = 3 then
      let e := s.entry p c.entry
      (s.entryLive p c.entry e).count .srch 0x80
    else
      match s.convs.find? fun v => v.part == p && v.reqId == c.reqId with
      | some v =>
        if (s.evicting p && s.evictable p v) || s.reqs.any fun r => r.tenant == v.tenant && dConv r.desc == v.convId && dOp r.desc == 2 && r.st == .parking then
          s.parkNow v else s
      | none => s

/-- A stripe of a layer is in at a receiving context, by the QP it came on (R216). -/
def State.layerIn (s : State) (p : PartId) (i layer : Nat) (q : QpId) : State :=
  let c := s.ctx p i
  let k := (s.qp q).remQpn.val % 512
  let old := Map.get 0 c.layerDone layer
  let mask := if bit old k then old else old + 2 ^ k
  let s := s.setCtx p i { c with layerDone := Map.set 0 c.layerDone layer mask, state := 3 }
  if !allStripes old (c.stripesM1 + 1) && allStripes mask (c.stripesM1 + 1) then s.layerWhole p i layer else s

/-- The pages a QP has brought whole to a PULL context become resident, or with a code their pulls end (R138, R222). -/
def State.pulledBy (s : State) (c : MoveCtx) (q : QpId) (code : Option Nat) : State :=
  s.each ((List.range (c.layers * c.pages)).map fun k => c.pageAt (k / c.pages) (k % c.pages)) fun s page =>
    match s.mig page with
    | some g =>
      if g.kind = .pull ∧ g.via = some q then
        match code with
        | none => if 65536 ≤ g.bytes then s.commitMig page g else s
        | some code => s.abortMig page g code
      else s
    | none => s

/-- ATTACH_DONE (R216, R222): the stage records that queue pair `unit` of context c brought are in; the watermark advances or
the run is committed, then QPLACE_ACK leaves, with NO_FRAME where a page has no side slot (R127). -/
def execAttachDone (p : PartId) (c : Fin 256) (unit : Nat) (s : State) : Res :=
  .next (
    let m := s.mover p
    let x := s.ctx p c.val
    match m.attaching.find? fun a => a.1 == unit with
    | none => s
    | some (qn, psn) =>
      let q : QpId := Fin.ofNat 16384 qn
      let y := s.qp q
      let fits := (x.kind == 1 || x.kind == 3 || x.kind == 4) && decide (1 ≤ x.state) && decide (x.state ≤ 3) &&
        y.remNode == x.peerNode && y.remPart == x.peerPart
      match y.rxWaits.find? (fun w => w.psn == psn && w.op == 0x41) with
      | none => s.setMover p { m with attaching := m.attaching.erase (qn, psn) }
      | some w =>
        if ¬ fits then s
        else
          let r := (s.setMover p { m with attaching := m.attaching.erase (qn, psn) }).attachRecords x w.req
          let s := r.2
          let s :=
            if r.1 then
              if x.kind = 4 then ((s.pulledBy x q none).sendRuns p c.val).pullProgress p c.val
              else s.layerIn p c.val w.req.imm q
            else
              let s := if x.kind = 4 then s.pulledBy x q (some 0x0B) else s
              let y := s.qp q
              (s.noteRefusal .fabric 2).setQp q { y with lateCode := some (y.lateCode.getD 0x0B) }
          if s.fenced p ∨ s.qrm.fencing.any (fun f => f.1 == p.val) then s else (s.dropWait q w).placeAnswer q 0xC2 psn)

/-- A resume of a request that waits for a REMOTE_KEY slot or a context (R218, R221). -/
def State.resumeWaits (s : State) (v : Conv) (reqId : Nat) : Bool :=
  (v.st == .relocating || s.reqs.any fun r => r.reqId == reqId && r.st == .resuming) && (s.ctxOf v.part 4 reqId).isNone

/-- PARK_RETRY_TIMER (R218): MOVE_PARK_RETRY.MS after every target refused, or while a park waits, it is tried again; so is the
choice of a Generation partition for a decode that an EVICT drain paused (R21). -/
def execParkRetryTimer (p : PartId) (reqId : Nat) (s : State) : Res :=
  .next (s.moverOn p fun s =>
    let m := s.mover p
    match m.parkWaits.find? fun w => w.1 == reqId with
    | some (_, t) =>
      if t + s.fld (.move p) Reg.MOVE_PARK_RETRY_MS * 1000000 ≤ s.now then
        let s := s.setMover p { m with parkWaits := m.parkWaits.filter fun w => w.1 != reqId }
        match s.ctxOf p 2 reqId, s.convs.find? fun v => v.part == p && v.reqId == reqId && v.st != .parked with
        | some (i, c), some v => if c.state = 1 ∧ c.asked then s.grantPark p i else if 4 ≤ c.state then s.startPark v else s
        | none, some v => if s.resumeWaits v reqId then s.startResume v reqId (v.st == .relocating) else s.startPark v
        | _, none => s
      else s
    | none =>
      let s := if m.ctxs.any fun e => e.2.reqId == reqId && e.2.parkNext.isSome then s.qpsFreed p else s
      match s.convs.find? fun v => v.part == p && v.reqId == reqId && v.st == .resident with
      | some v =>
        let waits := s.reqs.any fun r => r.tenant == v.tenant && dConv r.desc == v.convId && dOp r.desc == 2 && r.st == .parking
        let going := (s.mover p).ctxs.any fun e => e.2.kind == 2 && e.2.reqId == reqId && decide (1 ≤ e.2.state) &&
          decide (e.2.state ≤ 3)
        if (waits || (s.evicting p && s.evictable p v)) && !going then s.parkNow v else s
      | none =>
        match s.convs.find? fun v => v.part == p && v.reqId == reqId && v.st == .parked with
        | none => s
        | some v =>
          match s.reqs.find? fun r =>
              r.tenant == v.tenant && dConv r.desc == v.convId && r.st == .parking && dOp r.desc != 2 && r.endStatus.isNone with
          | some r => s.relocate v r
          | none => s)

/-- An adapter command ends (R230, R232). -/
def State.adpEnd (s : State) (p : PartId) (result : Nat) : State :=
  let s := (s.setFld (.move p) Reg.MOVE_ADP_CMD_RESULT result).setFld (.move p) Reg.MOVE_ADP_CMD_BUSY 0
  let s := if result = 0 then s else s.err (.move p) 0x02
  s.irq (.move p) 0

/-- An adapter command is given (R232): ADP_BUSY while one runs. -/
def State.adpGo (s : State) (p : PartId) (slot op : Nat) (f : State → State) : State :=
  s.ifReady (.move p) fun s =>
    if s.flag (.move p) Reg.MOVE_ADP_CMD_BUSY then s.err (.move p) 0x01
    else f ((s.setFld (.move p) Reg.MOVE_ADP_CMD_SLOT slot).setFld (.move p) Reg.MOVE_ADP_CMD_OP op)

/-- A READY slot retires (R231, R232): RETIRING, or FREE with nothing bound. -/
def State.adpRetire (s : State) (p : PartId) (k : Nat) : State :=
  s.setFld (.move p) Reg.ADP_SLOT_STATE (if s.fld (.move p) Reg.ADP_SLOT_REFS k = 0 then 0 else 3) k

/-- ADP_LOAD (R230). -/
def execAdpLoad (p : PartId) (slot : Fin 64) (s : State) : Res :=
  .next (s.adpGo p slot.val 0 fun s =>
    let f := fun (x : Fld) => s.fld (.move p) x
    let len := f Reg.MOVE_ADP_LEN_LEN
    let rank := f Reg.MOVE_ADP_RANK_RANK
    let dup := (List.range 64).any fun k => s.adpState p k != 0 && s.fld (.move p) Reg.ADP_SLOT_ID k == f Reg.MOVE_ADP_NEW_ID &&
      s.fld (.move p) Reg.ADP_SLOT_VERSION k == f Reg.MOVE_ADP_NEW_VERSION
    if s.adpState p slot.val ≠ 0 then s.adpEnd p 2
    else if dup then s.adpEnd p 3
    else if f Reg.MOVE_ADP_STRIDE_PAGES * 65536 < len ∨ len = 0 ∨ len % 64 ≠ 0 ∨ rank = 0 ∨ 256 < rank then s.adpEnd p 4
    else
      let s := (s.setFld (.move p) Reg.ADP_SLOT_STATE 1 slot.val).setFld (.move p) Reg.MOVE_ADP_CMD_BUSY 1
      let a : AdpLoad :=
        { slot := slot.val, src := s.fldAddr (.move p) Reg.MOVE_ADP_SRC_LO_SRC_LO Reg.MOVE_ADP_SRC_HI_SRC_HI,
          id := f Reg.MOVE_ADP_NEW_ID, version := f Reg.MOVE_ADP_NEW_VERSION, rank := rank, len := len }
      s.setMover p { s.mover p with adpLoad := some a })

/-- An adapter is loaded (R230): its slot is READY under its ID, VERSION and RANK, older READY slots of the ID retire. -/
def State.adpReady (s : State) (p : PartId) (a : AdpLoad) : State :=
  let s := s.each (List.range 64) fun s j =>
    if j ≠ a.slot ∧ s.adpState p j = 2 ∧ s.fld (.move p) Reg.ADP_SLOT_ID j = a.id then s.adpRetire p j else s
  let s := (s.setFld (.move p) Reg.ADP_SLOT_ID a.id a.slot).setFld (.move p) Reg.ADP_SLOT_VERSION a.version a.slot
  let s := (s.setFld (.move p) Reg.ADP_SLOT_RANK a.rank a.slot).setFld (.move p) Reg.ADP_SLOT_LEN a.len a.slot
  s.setFld (.move p) Reg.ADP_SLOT_STATE 2 a.slot

/-- ADP_LOAD_DONE (R230): the copy ends, or a read fault frees the slot. A source page that is on its way holds the copy (R131). -/
def execAdpLoadDone (p : PartId) (fault : Bool) (s : State) : Res :=
  .next (match (s.mover p).adpLoad with
    | none => s
    | some a =>
      let dst := s.fldAddr (.move p) Reg.MOVE_ADP_BASE_LO_BASE_LO Reg.MOVE_ADP_BASE_HI_BASE_HI +
        a.slot * s.fld (.move p) Reg.MOVE_ADP_STRIDE_PAGES * 65536
      let ended := fun (s : State) => s.setMover p { s.mover p with adpLoad := none }
      let lost := fun (s : State) => ((ended s).setFld (.move p) Reg.ADP_SLOT_STATE 0 a.slot).adpEnd p 5
      if fault then lost s
      else
        match s.ownRead (.mover p) a.src a.len with
        | (.wait, s) => s
        | (.data, s) => (((ended s).put dst (s.rd a.src a.len)).adpReady p a).adpEnd p 0
        | (_, s) => lost s)

/-- ADP_RETIRE (R232). -/
def execAdpRetire (p : PartId) (slot : Fin 64) (s : State) : Res :=
  .next (s.adpGo p slot.val 1 fun s =>
    if s.adpState p slot.val = 2 then (s.adpRetire p slot.val).adpEnd p 0 else s.adpEnd p 1)

/-- ADP_FORCE (R232): every request bound to the slot ends. -/
def execAdpForce (p : PartId) (slot : Fin 64) (s : State) : Res :=
  .next (s.adpGo p slot.val 2 fun s =>
    if s.adpState p slot.val = 2 ∨ s.adpState p slot.val = 3 then
      let mine := s.reqs.filter fun r => r.genPart == some p && r.adapter == some slot.val && !r.recorded
      let s := s.each mine fun s r => (s.abortReq r.reqId 0x31 0x00).count (.move p) 0xE8
      (s.adpRetire p slot.val).adpEnd p 0
    else s.adpEnd p 1)

end Sys2Proof.Machine
end

