-- ==== Sys2Proof/Machine/Cache.lean ====
section
/-! DEFINITION. Cache entries over time, and the prefix match of a prompt (R237, R240 to R243). -/

namespace Sys2Proof.Machine
open Sys2Proof

/-- The mover of a Cache partition acts on entry i: it is not fenced, has the CACHE role, and its table holds the entry. -/
def State.cacheOn (s : State) (p : PartId) (i : Nat) : Bool :=
  !s.fenced p && s.ready (.move p) && s.fld (.disp p) Reg.DISP_ROLE_CUR == 3 &&
    decide (i < s.fld .srch Reg.CACHE_CFG_ENTRIES p.val)

/-- CACHE_TTL_TICK (R237): every LIVE entry past EXPIRE_AT expires, or has EXP_PEND set while pinned. -/
def execCacheTtlTick (p : PartId) (s : State) : Res :=
  .next (s.each (s.entries p) fun s i =>
    let e := s.entry p i
    if s.cacheOn p i ∧ entState e = 2 ∧ entExpire e ≤ s.now then
      if entPins e = 0 then s.expireEntry p i else s.setEntry p i (withBits e 4 1 1)
    else s)

/-- ORPHAN_TIMEOUT (R237): ORPHAN_S seconds pass without a PULL_REQ to a RESUMED entry. -/
def execOrphanTimeout (p : PartId) (entry : Fin 4096) (s : State) : Res :=
  let e := s.entry p entry.val
  let last := Map.get 0 s.srch.lastPull (p.val * 4096 + entry.val) - 1
  .next (
    if s.cacheOn p entry.val ∧ entState e = 3 ∧
        last + s.fld .srch Reg.CACHE_CFG_ORPHAN_S p.val * 1000000000 ≤ s.now then s.expireEntry p entry.val
    else s)

/-- The runs of a match (R243): the first block of the prompt, the slot of that block, the length. -/
def prefixRuns (k : Nat) : List PfxSlot → List (Nat × PfxSlot × Nat)
  | [] => []
  | x :: t =>
    match prefixRuns (k + 1) t with
    | (a, y, n) :: r => if x.tag = y.tag ∧ x.block + 1 = y.block then (k, x, n + 1) :: r else (k, x, 1) :: (a, y, n) :: r
    | [] => [(k, x, 1)]

/-- The chain hash of a block of 64 tokens (R241): the first 16 bytes of the digest of the hash before it, the MODEL key and the
tokens. -/
def chainHash (h modelKey : Nat) (block : List Nat) : Nat :=
  natOfBytes ((sha384 (bytesOfNat 16 h ++ bytesOfNat 4 modelKey ++ block.flatMap (bytesOfNat 4))).take 16)

/-- The matched blocks of a prompt, each block's bucket loaded (R243): those before the first without a VALID slot of equal
HASH. Only whole blocks are hashed (R241). -/
def matched (modelKey : Nat) : Nat → List Nat → List (List PfxSlot) → List PfxSlot
  | h, tokens, b :: t =>
    if tokens.length < 64 then []
    else
      let x := chainHash h modelKey (tokens.take 64)
      match b.find? fun y => y.valid && y.hash == x with
      | some y => y :: matched modelKey x (tokens.drop 64) t
      | none => []
  | _, _, [] => []

/-- One run of a match (R243): REMOTE entries for its pages on every layer, pulled with COPY set and its ENTRY_TAG. Without a
key slot or a context the run is not pulled. -/
def State.pullPrefix (s : State) (p : PartId) (c0 : MoveCtx) (cache : PartId) (node : Nat) (key : Word)
    (run : Nat × PfxSlot × Nat) : State :=
  let x := run.2.1
  let n := run.2.2
  match s.keySlot key with
  | none => s.count (.move p) 0xB0
  | some k =>
    let c : MoveCtx :=
      { kind := 4, state := 3, reqId := c0.reqId, layers := c0.layers, pages := n, localBase := c0.localBase + run.1 * 65536,
        stride := c0.stride, sideBytes := c0.sideBytes, peerNode := node, peerPart := cache,
        remoteBase := x.base + x.block * 65536, remoteKey := key, askId := x.tag, copyRun := true,
        startedAt := s.now }
    let runs := (List.range c.layers).flatMap fun layer =>
      cutRuns (s.fld (.move p) Reg.MOVE_CTRL_PULL_RUN) false (c.pageAt layer 0) n
    let c := { c with runs := runs }
    match s.bindCtx p c with
    | none => s
    | some (i, s) =>
      let s := (s.setFld .tier Reg.REMOTE_KEY key.toNat k).each (List.range (c.layers * n)) fun s j =>
        let page := c.pageAt (j / n) (j % n)
        if (s.leaf page).st = .unwritten then
          s.setRemote page node cache (x.base / 65536 + j / n * x.stride + x.block + j % n) k
        else s
      (s.sendRuns p i).pullProgress p i

/-- PREFIX_BUCKETS_LOADED (R27, R241, R243): the buckets of a prompt's blocks are loaded, and the matched runs are pulled into
the range of its push. -/
def execPrefixBucketsLoaded (p : PartId) (reqId : Nat) (cache : PartId) (cacheNode : Nat) (key : Word)
    (buckets : List (List PfxSlot)) (s : State) : Res :=
  .next (s.moverOn p fun s =>
    match s.req reqId, s.ctxOf p 0 reqId with
    | some r, some (_, c0) =>
      if r.promptPart ≠ some p ∨ dNoPrefix r.desc ∨ r.endStatus.isSome then s
      else s.each (prefixRuns 0 (matched (dModelKey r.desc) (dNamespace r.desc) r.promptTokens buckets)) fun s run =>
        s.pullPrefix p c0 cache cacheNode key run
    | _, _ => s)

end Sys2Proof.Machine
end

