-- ==== Sys2Proof/Machine/Link.lean ====
section
/-! DEFINITION. Ports: flits, replay, credits, traffic classes, training, fault injection (R166, R170, R199 to R206). -/

namespace Sys2Proof.Machine
open Sys2Proof

/-- SEQ b lies this far ahead of SEQ a, modulo 4,096 (Table 08-11). -/
def seqAhead (a b : Nat) : Nat := (b % 4096 + 4096 - a % 4096) % 4096

/-- A flit with its CRC (Table 08-11). -/
def withCrc (b : List Byte) : List Byte := b.take 252 ++ bytesOfNat 4 (crc32 (b.take 252)).toNat

/-- A DATA flit of one packet's bytes (Table 08-11), carrying the acknowledgement the port owes and one class's credits. -/
def mkFlit (seq ack : Nat) (ackValid : Bool) (crTc crCount : Nat) (start : Bool) (c : Nat) (payload : List Byte) : List Byte :=
  let head := List.flatten
    [bytesOfNat 2 (seq % 4096), bytesOfNat 2 (ack % 4096 + 4096 * ackValid.toNat),
     bytesOfNat 2 (crTc + 8 * min crCount 8191), [if start then 0 else 0xFF], bytesOfNat 1 c]
  withCrc (head ++ payload.take 244 ++ List.replicate (244 - payload.length) 0)

/-- A CONTROL flit (kind 1) or an IDLE one (kind 2, Table 08-11): the next SEQ, an acknowledgement, a replay request, credits. -/
def linkFlit (kind seq ack : Nat) (ackValid retry : Bool) (crTc crCount : Nat) : List Byte :=
  withCrc (List.flatten
    [bytesOfNat 2 (seq % 4096 + 4096 * kind), bytesOfNat 2 (ack % 4096 + 4096 * ackValid.toNat + 8192 * retry.toNat),
     bytesOfNat 2 (crTc + 8 * min crCount 8191), [0xFF, 0], List.replicate 244 0])

/-- A held flit as it is sent again: REPLAY set (Table 08-11). -/
def replayFlit (b : List Byte) : List Byte :=
  withCrc (b.take 1 ++ [(b.drop 1).headD 0 ||| 0x40] ++ b.drop 2)

/-- One flit passes the injector (R205): the MODE that strikes it, if any, and the injector's new state. -/
def State.injectAt (s : State) (n : PortId) (rx : Bool) (only : Nat → Bool) : Option Nat × State :=
  let mode := s.fld .finj Reg.FINJ_CTRL_MODE
  if ¬ s.flag .finj Reg.FINJ_CTRL_ARM ∨ s.fld .finj Reg.FINJ_CTRL_PORT ≠ n.val ∨ s.flag .finj Reg.FINJ_CTRL_DIR ≠ rx ∨ ¬ only mode then
    (none, s)
  else
    let every := 2 ^ s.fld .finj Reg.FINJ_RATE_RATE_LOG2
    let x := { s.finj with lfsr := Config.lfsr s.finj.lfsr, flits := s.finj.flits + 1 }
    let hit := if s.flag .finj Reg.FINJ_RATE_PATTERN then x.flits % every == 0 else x.lfsr.toNat % every == 0
    if !hit then (none, { s with finj := x })
    else
      let s := { s with finj := { x with count := x.count + 1 } }.count .finj 0x80
      let s := s.setFld .finj Reg.INJECTED_COUNT (min max64 (s.fld .finj Reg.INJECTED_COUNT n.val + 1)) n.val
      let lim := s.fld .finj Reg.FINJ_LIMIT_LIMIT
      (some mode, if lim ≠ 0 ∧ lim ≤ x.count + 1 then s.setFld .finj Reg.FINJ_CTRL_ARM 0 else s)

/-- Modes 1 to 4 strike flits, mode 5 packets (Table 08-16). -/
def flitMode (m : Nat) : Bool := decide (1 ≤ m ∧ m ≤ 4)

/-- The bits of a flit that an injection corrupts (R205): one bit, or a burst of len bits whose first and last are wrong; where it
starts and what is wrong between them are free. -/
def corruptFlit (fresh mode len : Nat) (b : List Byte) : List Byte :=
  let len := if mode = 2 then 1 else len
  let mask := if len ≤ 1 then 1 else 1 + 2 * (Config.corruptBits fresh % 2 ^ (len - 2)) + 2 ^ (len - 1)
  bytesOfNat 256 (Nat.xor (natOfBytes b) (mask * 2 ^ (Config.corruptAt fresh % (2049 - len))))

/-- Send a flit of a kind (Table 08-11). A transmit-side injection drops it, spoils its bytes or its FEC (R205). -/
def State.txFlit (s : State) (n : PortId) (kind seq : Nat) (replay : Bool) (b : List Byte) : State :=
  let r := s.injectAt n false flitMode
  let s := r.2.count (.port n) 0x80
  match r.1 with
  | none => s.send (.flit n kind seq replay b)
  | some 1 => s
  | some 4 => s.send (.flitBadFec n kind seq replay b)
  | some mode => (s.send (.flit n kind seq replay (corruptFlit s.fresh mode (s.fld .finj Reg.FINJ_CTRL_PARAM) b))).draw

/-- Send a flit without a payload: what it carries is no longer owed (Table 08-11, R200). -/
def State.bareFlit (s : State) (n : PortId) (kind ack : Nat) (ackValid retry : Bool) : State :=
  let x := s.port n
  let cr := x.creditsBack.headD (0, 0)
  let s := s.setPort n { x with
    rxUnacked := 0, creditsBack := Map.set 0 x.creditsBack cr.1 (cr.2 - min cr.2 8191) }
  s.txFlit n kind x.seqNext false (linkFlit kind x.seqNext ack ackValid retry cr.1 cr.2)

/-- Send an acknowledgement, or a replay request with one, in a CONTROL flit (R200). -/
def State.ackFlit (s : State) (n : PortId) (ack : Nat) (retry : Bool) : State := s.bareFlit n 1 ack true retry

/-- Send an IDLE flit, with the acknowledgement the port owes. -/
def State.idleFlit (s : State) (n : PortId) : State :=
  s.bareFlit n 2 ((s.port n).exp + 4095) (decide ((s.port n).rxUnacked ≠ 0)) false

/-- A link goes down (R170, R201): every engine that sent a request on its plane since its last FLUSH has PATH_LOST. The link
layer starts again from its state after reset; packets not begun stay queued. -/
def State.linkLost (s : State) (n : PortId) : State :=
  if ¬ s.flag (.port n) Reg.PORT_STAT_LINK_UP then s
  else
    let s := (s.setFld (.port n) Reg.PORT_STAT_LINK_UP 0).setFld (.port n) Reg.PORT_STAT_LANES_UP 0
    let s := (s.count (.port n) 0xB8).irq (.port n) 0
    let x := s.port n
    let queues := x.queues.map fun (e : Nat × List (List Byte)) => (e.1, if x.mid.contains e.1 then e.2.drop 1 else e.2)
    let s := s.setPort n { x with
      seqNext := 0, exp := 0, held := [], replays := 0, awaitingExp := false, rxUnacked := 0, credits := [], creditsBack := []
      queues := queues.filter fun (e : Nat × List (List Byte)) => !e.2.isEmpty
      mid := [] }
    s.each allEngs fun s e =>
      if bit (s.eng e).sentPlanes n.val then (s.setFld (.feng e) Reg.FENG_STAT_PATH_LOST 1).irq (.feng e) 0 else s

/-- Replay every held flit from the oldest on (R201); after RETRY_MAX replays without progress the link goes down. -/
def State.replayAll (s : State) (n : PortId) : State :=
  let x := s.port n
  if x.held.isEmpty then s
  else if s.fld (.port n) Reg.PORT_CTRL_RETRY_MAX ≤ x.replays then s.linkLost n
  else
    let s := s.setPort n { x with replays := x.replays + 1, held := x.held.map fun h => (h.1, s.now, h.2.2) }
    (s.count (.port n) 0xA8 x.held.length).each x.held fun s h => s.txFlit n 0 h.1 true (replayFlit h.2.2)

/-- What a flit carries beside its payload (Table 08-11): an acknowledgement, credits, a replay request. -/
def State.piggyback (s : State) (n : PortId) (f : Flit) : State :=
  let x := s.port n
  let acked := fun (h : Nat × Nat × List Byte) => decide (seqAhead h.1 f.ackSeq < 2048)
  let s := if f.ackValid ∧ x.held.any acked then
      s.setPort n { x with held := x.held.filter fun h => !acked h, replays := 0 }
    else s
  let y := s.port n
  let s := if f.crCount = 0 then s
    else s.setPort n { y with credits := Map.set 0 y.credits f.crTc.val (Map.get 0 y.credits f.crTc.val + f.crCount) }
  if f.retryReq then s.replayAll n else s

/-- The outcome of the checks of a received flit, after the injector (R200, R205); false: it is discarded. -/
def State.rxFlit (s : State) (n : PortId) (f : Flit) : Option Bool × State :=
  if ¬ s.flag (.port n) Reg.PORT_STAT_LINK_UP then (none, s)
  else
    let r := s.injectAt n true flitMode
    let s := r.2
    if r.1 = some 1 then (none, s)
    else
      let s := s.count (.port n) 0x88
      let s := if f.fecCorrected then s.count (.port n) 0x90 else s
      if ¬ f.fecOk ∨ r.1 = some 4 then (some false, s.count (.port n) 0x98)
      else if ¬ f.crcOk ∨ r.1.isSome then (some false, s.count (.port n) 0xA0)
      else (some true, s)

/-- DATA_FLIT_RECEIVE (R200). The piggybacked fields of an accepted flit alone are used. -/
def execDataFlitReceive (n : PortId) (f : Flit) (s : State) : Res :=
  let r := s.rxFlit n f
  let s := r.2
  let x := s.port n
  .next (match r.1 with
    | none => s
    | some ok =>
      let back := seqAhead f.seq x.exp
      if ok ∧ back = 0 then
        let s := s.setPort n { x with
          exp := (x.exp + 1) % 4096, awaitingExp := false, rxUnacked := x.rxUnacked + 1
          rxFrom := if x.rxUnacked = 0 then s.now else x.rxFrom
          creditsBack := Map.set 0 x.creditsBack f.tc.val (Map.get 0 x.creditsBack f.tc.val + 1) }
        s.piggyback n f
      else if ok ∧ back ≤ 2048 then (s.count (.port n) 0xB0).ackFlit n (x.exp + 4095) false
      else if x.awaitingExp then s
      else (s.setPort n { x with awaitingExp := true }).ackFlit n (x.exp + 4095) true)

/-- CONTROL_FLIT_RECEIVE (R200): acknowledgements, credits, replay requests; a quorum or time message comes as a command of its
own. -/
def execControlFlitReceive (n : PortId) (f : Flit) (s : State) : Res :=
  let r := s.rxFlit n f
  .next (if r.1 = some true then r.2.piggyback n f else r.2)

/-- IDLE_FLIT_RECEIVE (R200). -/
def execIdleFlitReceive (n : PortId) (f : Flit) (s : State) : Res :=
  let r := s.rxFlit n f
  .next (if r.1 = some true then r.2.piggyback n f else r.2)

/-- FLIT_ACK_TIMER (R200): 100 ns after the first accepted flit not yet acknowledged, or at 32 of them. -/
def execFlitAckTimer (n : PortId) (s : State) : Res :=
  let x := s.port n
  .next (
    if s.flag (.port n) Reg.PORT_STAT_LINK_UP ∧ x.rxUnacked ≠ 0 ∧ (32 ≤ x.rxUnacked ∨ x.rxFrom + 100 ≤ s.now) then
      s.ackFlit n (x.exp + 4095) false
    else s)

/-- FLIT_REPLAY_TIMEOUT (R201). -/
def execFlitReplayTimeout (n : PortId) (s : State) : Res :=
  .next (match (s.port n).held with
    | (_, t, _) :: _ =>
      if s.flag (.port n) Reg.PORT_STAT_LINK_UP ∧ t + s.fld (.port n) Reg.PORT_CTRL_ACK_TO_NS ≤ s.now then s.replayAll n else s
    | [] => s)

/-- Packets of a class that passed the policer, in order. -/
def Port.queue (x : Port) (c : Nat) : List (List Byte) := Map.get [] x.queues c

/-- A class is ready (R202): a packet past the policer, and link credit. -/
def Port.isReady (x : Port) (c : Nat) : Bool := !(x.queue c).isEmpty && Map.get 0 x.credits c != 0

/-- The deficit round robin of R202 up to the next class that may send its head packet: the class, and the port with its
deficits. -/
def State.drrPick (s : State) (n : PortId) (x : Port) (c : Nat) : Nat → Option (Nat × Port)
  | 0 => none
  | k + 1 =>
    let len := ((x.queue c).headD []).length
    let d := Map.get 0 x.drr c
    if x.isReady c ∧ len ≤ d ∧ 2 ≤ c then some (c, { x with drr := Map.set 0 x.drr c (d - len), drrAt := c })
    else
      let c' := if 7 ≤ c then 2 else c + 1
      let d' := min (Map.get 0 x.drr c' + s.fld (.port n) Reg.PORT_TC_WEIGHT c' * 256) (s.fld (.port n) Reg.PORT_TC_BURST c' * 64)
      s.drrPick n { x with drr := Map.set 0 x.drr c' d', drrAt := c' } c' k

/-- The class whose flit goes next (R202): TC0, TC1, then the weighted group, where a packet begun goes on to its end. -/
def State.nextClass (s : State) (n : PortId) (x : Port) : Option (Nat × Port) :=
  if x.isReady 0 then some (0, x)
  else if x.isReady 1 then some (1, x)
  else
    match x.mid.find? fun c => 2 ≤ c with
    | some c => if x.isReady c then some (c, x) else none
    | none =>
      if (List.range 6).any fun i => x.isReady (i + 2) then s.drrPick n x x.drrAt 4096 else none

/-- A packet that is past the policer joins its class (R202); a REORDER injection holds it back until the next PARAM packets of
its class have gone (R205). -/
def State.enqueue (s : State) (n : PortId) (c : Nat) (b : List Byte) : State :=
  let r := s.injectAt n false (· == 5)
  let s := r.2
  let x := s.port n
  if r.1.isSome then s.setPort n { x with delayed := x.delayed ++ [(c, b, s.fld .finj Reg.FINJ_CTRL_PARAM)] }
  else
    let late := x.delayed.map fun (d : Nat × List Byte × Nat) => if d.1 = c then (d.1, d.2.1, d.2.2 - 1) else d
    let due := (late.filter fun (d : Nat × List Byte × Nat) => d.1 == c && d.2.2 == 0).map (·.2.1)
    s.setPort n { x with
      queues := Map.set [] x.queues c (x.queue c ++ b :: due)
      delayed := late.filter fun (d : Nat × List Byte × Nat) => !(d.1 == c && d.2.2 == 0) }

/-- The policer's levels of a class at this time, in tenths of a byte (R203). A level starts full. -/
def State.policer (s : State) (n : PortId) (c : Nat) : Nat × Nat :=
  let x := s.port n
  let f := fun (r : Fld) => s.fld (.port n) r c
  let dt := s.now + 1 - Map.get 0 x.tLast c
  if Map.get 0 x.tLast c = 0 then (f Reg.PORT_TC_CBS * 640, f Reg.PORT_TC_PBS * 640)
  else (min (f Reg.PORT_TC_CBS * 640) (Map.get 0 x.tcLvl c + f Reg.PORT_TC_CIR * dt),
        min (f Reg.PORT_TC_PBS * 640) (Map.get 0 x.tpLvl c + f Reg.PORT_TC_PIR * dt))

/-- Colour one packet (R203): some new state where it passes, none where it is red. -/
def State.police (s : State) (n : PortId) (c len : Nat) : Option State :=
  let l := s.policer n c
  let x := s.port n
  let set := fun (tc tp : Nat) => s.setPort n { x with
    tcLvl := Map.set 0 x.tcLvl c tc, tpLvl := Map.set 0 x.tpLvl c tp, tLast := Map.set 0 x.tLast c (s.now + 1) }
  let b := len * 10
  if l.2 < b then none
  else if l.1 < b then some ((set l.1 (l.2 - b)).count (.port n) 0xC0)
  else some (set (l.1 - b) (l.2 - b))

/-- Red packets held at the head of their class are tested again (R203). -/
def State.retryRed (s : State) (n : PortId) (c : Nat) : Nat → State
  | 0 => s
  | k + 1 =>
    match Map.get [] (s.port n).waiting c with
    | [] => s
    | b :: t =>
      match s.police n c b.length with
      | none =>
        if c ∈ (s.port n).redCounted then s
        else (s.setPort n { s.port n with redCounted := c :: (s.port n).redCounted }).count (.port n) 0xC8
      | some s =>
        let x := s.port n
        let s := s.setPort n { x with waiting := Map.set [] x.waiting c t, redCounted := x.redCounted.filter (· ≠ c) }
        (s.enqueue n c b).retryRed n c k

/-- The red packets of TC0 to TC6 are tested again (R203). -/
def State.retryReds (s : State) (n : PortId) : State :=
  if (s.port n).waiting.isEmpty then s
  else s.each (List.range 7) fun s c => s.retryRed n c ((Map.get [] (s.port n).waiting c).length + 1)

/-- FLIT_TRANSMIT (R201, R202): at a flit boundary. No new DATA flit while 2,048 are held; a flit to send wakes a port asleep
(Table 15-3). Packets held red are tested first (R203). DESIGN CHOICE (notes/assumptions/59): with no DATA flit to send, a port
that is awake sends an IDLE flit. -/
def execFlitTransmit (n : PortId) (s : State) : Res :=
  let s := if s.flag (.port n) Reg.PORT_STAT_LINK_UP then s.retryReds n else s
  let x := s.port n
  .next (
    if ¬ s.flag (.port n) Reg.PORT_STAT_LINK_UP then s
    else if (.portLp n : LpUnit) ∈ s.pwr.inMode then if x.queues.isEmpty then s else s.wakeUnit (.portLp n)
    else if (.portLp n : LpUnit) ∈ s.pwr.waking then s
    else if x.queues.isEmpty ∨ 2048 ≤ x.held.length then s.idleFlit n
    else
      match s.nextClass n x with
      | none => (s.count (.port n) 0xD8).idleFlit n
      | some (c, x) =>
        let pkt := (x.queue c).headD []
        let first := !x.mid.contains c
        let left := pkt.drop 244
        let rest := if left.isEmpty then (x.queue c).drop 1 else left :: (x.queue c).drop 1
        let cr := x.creditsBack.headD (0, 0)
        let b := mkFlit x.seqNext (x.exp + 4095) (decide (x.rxUnacked ≠ 0)) cr.1 cr.2 first c pkt
        let s := s.setPort n { x with
          seqNext := (x.seqNext + 1) % 4096, held := x.held ++ [(x.seqNext, s.now, b)]
          credits := Map.set 0 x.credits c (Map.get 0 x.credits c - 1), queues := Map.set [] x.queues c rest
          mid := if left.isEmpty then x.mid.filter (· ≠ c) else c :: x.mid.filter (· ≠ c), rxUnacked := 0
          creditsBack := Map.set 0 x.creditsBack cr.1 (cr.2 - min cr.2 8191) }
        s.txFlit n 0 x.seqNext false b)

/-- PACKET_ENTER_PORT (R203): green and yellow pass; red on TC7 is dropped, on the others held at the head of its class and
counted once. -/
def execPacketEnterPort (n : PortId) (c : Fin 8) (bytes : List Byte) (s : State) : Res :=
  let k := c.val
  let x := s.port n
  .next (
    if k = 7 then
      match s.police n 7 bytes.length with
      | some s => s.enqueue n 7 bytes
      | none => (s.count (.port n) 0xD0).send (.packetDrop n 7)
    else
      let l := Map.get [] x.waiting k ++ [bytes]
      (s.setPort n { x with waiting := Map.set [] x.waiting k l }).retryRed n k (l.length + 1))

/-- LINK_TRAINED (R166, R394): the ordering mode is checked against PORT[0]'s and against the stage count; then the link is up, or
the port reports MODE_MISMATCH. No port trains without a node number, while disabled, or in port off. -/
def execLinkTrained (n : PortId) (lanes : Fin 16) (stages : Fin 4) (s : State) : Res :=
  let pinned := s.flag (.port n) Reg.PORT_CTRL_ORDER_MODE
  let bad := pinned != s.flag (.port 0) Reg.PORT_CTRL_ORDER_MODE || (stages == 1 && pinned) || (decide (2 ≤ stages.val) && !pinned)
  .next (
    if s.flag (.port n) Reg.PORT_STAT_LINK_UP ∨ ¬ s.flag .dev Reg.DEV_NODE_VALID ∨ ¬ s.flag (.port n) Reg.PORT_CTRL_ENABLE ∨
        (.portOff n : LpUnit) ∈ s.pwr.inMode then s
    else
      let s := s.setFld (.port n) Reg.PORT_STAT_STAGES stages.val
      if bad then (s.setFld (.port n) Reg.PORT_STAT_MODE_MISMATCH 1).err (.port n) 0x02
      else
        let s := (s.setFld (.port n) Reg.PORT_STAT_MODE_MISMATCH 0).setFld (.port n) Reg.PORT_STAT_LANES_UP lanes.val
        let s := (s.setFld (.port n) Reg.PORT_STAT_LINK_UP 1).setFld (.port n) Reg.PG_READY_READY 1
        s.irq (.port n) 0)

/-- LINK_DOWN (R170). -/
def execLinkDown (n : PortId) (s : State) : Res := .next (s.linkLost n)

/-- PORT_CTRL_ENABLE_WRITE (Table 08-14): setting ENABLE lets the port train, clearing it takes the link down. -/
def execPortCtrlEnableWrite (n : PortId) (enable : Bool) (s : State) : Res :=
  .next (s.ifReady (.port n) fun s =>
    let s := s.setFld (.port n) Reg.PORT_CTRL_ENABLE enable.toNat
    if enable then s else s.linkLost n)

/-- LINK_PARTNER_WAKE (R337): a wake from the link partner. -/
def execLinkPartnerWake (n : PortId) (s : State) : Res := .next (s.wakeUnit (.portLp n))

/-- Sum of the committed rates of a port with class c's replaced (R204). -/
def State.cirSum (s : State) (n : PortId) (c v : Nat) : Nat :=
  (List.range 8).foldl (fun a k => a + if k = c then v else s.fld (.port n) Reg.PORT_TC_CIR k) 0

/-- A field of PORT_TC[c] takes a value, or keeps its own where the value is reserved (R11, R204). -/
def State.tcField (s : State) (pg : Page) (f : Fld) (v k : Nat) (reserved : Bool) : State :=
  if reserved then s.rsvEnc pg else s.setFld pg f v k

/-- PORT_TC_WRITE (R204): a write of word w of class c, each field on its own (R11); PIR below the CIR that results is reserved
for the pair. -/
def execPortTcWrite (n : PortId) (c : Fin 8) (w : Fin 4) (v : Word) (s : State) : Res :=
  let k := c.val
  let pg := Page.port n
  let lo := bits v.toNat 0 16
  let hi := bits v.toNat 16 16
  .next (s.ifReady pg fun s =>
    match w with
    | 0 =>
      let old := s.fld pg Reg.PORT_TC_CIR k
      let refused := old < lo ∧ 1000 < s.cirSum n k lo
      let cir := if refused then old else lo
      let s := if refused then (s.err pg 0x01).irq pg 1 else s
      if hi < cir then s.rsvEnc pg else (s.setFld pg Reg.PORT_TC_CIR cir k).setFld pg Reg.PORT_TC_PIR hi k
    | 1 => (s.tcField pg Reg.PORT_TC_CBS lo k (decide (lo < 32))).tcField pg Reg.PORT_TC_PBS hi k (decide (hi < 32))
    | 2 =>
      let weight := bits v.toNat 0 8
      (s.tcField pg Reg.PORT_TC_WEIGHT weight k (weight == 0)).tcField pg Reg.PORT_TC_BURST hi k (decide (hi < 32))
    | 3 => s)

/-- PARAM is reserved beside a MODE: a burst of less than 2 bits, a reorder depth of 0 (Table 08-16). -/
def finjParamBad (mode param : Nat) : Bool := (mode == 3 && decide (param < 2)) || (mode == 5 && param == 0)

/-- FINJ_ARM (R205): a write of FINJ_CTRL, each field on its own (R11); PARAM is judged beside the MODE that results. Once the page
is locked it records LOCKED; arming seeds the LFSR. -/
def execFinjArm (v : Word) (s : State) : Res :=
  let x := v.toNat
  .next (s.ifReady .finj fun s =>
    if s.locked .finj then s.err .finj 0x01
    else
      let s := s.setFld .finj Reg.FINJ_CTRL_PORT (bits x 0 5)
      let s := if 5 < bits x 5 3 then s.rsvEnc .finj else s.setFld .finj Reg.FINJ_CTRL_MODE (bits x 5 3)
      let s := s.setFld .finj Reg.FINJ_CTRL_DIR (bits x 8 1)
      let s := if finjParamBad (s.fld .finj Reg.FINJ_CTRL_MODE) (bits x 16 8) then s.rsvEnc .finj
        else s.setFld .finj Reg.FINJ_CTRL_PARAM (bits x 16 8)
      let s := s.setFld .finj Reg.FINJ_CTRL_ARM (bits x 31 1)
      if bit x 31 then
        { s with finj := { lfsr := BitVec.ofNat 32 (s.fld .finj Reg.FINJ_SEED_SEED), flits := 0, count := 0 } }
      else s)

end Sys2Proof.Machine
end

