-- ==== Sys2Proof/Machine/Power.lean ====
section
/-! DEFINITION. Rails, operating points, power-down modes (R5, R335 to R341). -/

namespace Sys2Proof.Machine
open Sys2Proof

/-- The highest operating point of the bin (R5, R339). -/
def State.topOpp (s : State) : Nat := if s.fuses.binB then 5 else 7

/-- VDD_TILE of an operating point, in 10 mV (Table 15-4). -/
def vddOf (opp : Nat) : Nat := [60, 64, 68, 71, 75, 79, 82, 85].getD opp 85

/-- PWR_OPP_WRITE (R5, R340): a write of a quadrant's CAP and FLOOR. -/
def execPwrOppWrite (q : Fin 4) (cap floor : Fin 8) (s : State) : Res :=
  let top := s.topOpp
  let c := min cap.val top
  let f := min floor.val top
  .next (s.ifReady .pwr fun s =>
    if c < f then s.rsvEnc .pwr
    else
      let s := if top < cap.val ∨ top < floor.val then s.count .pwr 0x80 else s
      (s.setFld .pwr Reg.PWR_OPP_CAP c q.val).setFld .pwr Reg.PWR_OPP_FLOOR f q.val)

/-- POWER_MANAGER_TICK (R336): RATE_MW of every partition. -/
def execPowerManagerTick (s : State) : Res :=
  let live := allParts.filter fun p => !s.fenced p
  let sum := (live.map fun p => s.fld .pwr Reg.PWR_SHARE_SHARE p.val).foldl (· + ·) 0
  .next (s.each allParts fun s p =>
    let v := vddOf (s.fld .pwr Reg.PWR_OPP_CUR (p.val / 8))
    let rate := if s.fenced p ∨ sum = 0 then 0
      else s.fld .pwr Reg.PWR_TILE_W_WATTS * 1000 * s.fld .pwr Reg.PWR_SHARE_SHARE p.val * 7225 / (sum * (v * v))
    s.setFld (.disp p) Reg.DISP_ENERGY_RATE_RATE_MW rate)

/-- The point a quadrant moves to, or its point in force. -/
def State.oppTarget (s : State) (q : Nat) : Nat :=
  match s.pwr.moving.find? fun m => m.1 == q with
  | some m => m.2
  | none => s.fld .pwr Reg.PWR_OPP_CUR q

/-- A quadrant starts to move to a point (R340): upward the voltage goes first. -/
def State.moveOpp (s : State) (q target : Nat) : State :=
  let cur := s.fld .pwr Reg.PWR_OPP_CUR q
  let rest := s.pwr.moving.filter fun m => m.1 != q
  if target = cur then { s with pwr := { s.pwr with moving := rest } }
  else
    let s := if cur < target then s.send (.voltage (Fin.ofNat 4 q) (cur + 1)) else s
    { s with pwr := { s.pwr with moving := rest ++ [(q, target)] } }

/-- Set or clear bits of LIMITER; a hardware limit that starts acting sets LIMIT (Table 15-12, R352). -/
def State.limiter (s : State) (q bitNo : Nat) (on : Bool) : State :=
  let old := s.fld .pwr Reg.PWR_OPP_LIMITER q
  let s := s.setFld .pwr Reg.PWR_OPP_LIMITER (withBits old bitNo 1 on.toNat) q
  if on ∧ ¬ bit old bitNo ∧ bitNo < 3 then s.irq .pwr 0 else s

/-- A hardware limit takes one step down at once (R340). -/
def State.stepDown (s : State) (q bitNo : Nat) : State :=
  let target := s.oppTarget q
  let s := s.limiter q bitNo true
  if target = 0 then s else (s.count .pwr (0x90 + 8 * bitNo)).moveOpp q (min target (s.fld .pwr Reg.PWR_OPP_CUR q) - 1)

/-- The choice of a quadrant's point (R340, Table 15-5): busy cycles in percent. Entries q + 4 of `thermHot` are quadrants that
may not rise yet. -/
def State.chooseOpp (s : State) (q busy : Nat) : State :=
  let cur := s.fld .pwr Reg.PWR_OPP_CUR q
  let v1 := if 90 < busy then min (cur + 1) s.topOpp else if busy < 50 then cur - 1 else cur
  let v2 := max (s.fld .pwr Reg.PWR_OPP_FLOOR q) (min v1 (s.fld .pwr Reg.PWR_OPP_CAP q))
  let s := s.setFld .pwr Reg.PWR_OPP_LOOP v1 q
  let s := (if v2 ≠ v1 then s.count .pwr 0x88 else s).limiter q 3 (v2 != v1)
  let hot := s.pwr.thermHot.contains q
  let v3 := if hot then min v2 (cur - 1) else if s.pwr.thermHot.contains (q + 4) then min v2 cur else v2
  let s := (if v3 ≠ v2 then s.count .pwr 0x90 else s).limiter q 0 (hot || s.pwr.thermHot.contains (q + 4))
  let amps := s.pwr.currHit.contains q
  let v4 := if amps then min v3 (s.oppTarget q) else v3
  let s := (if v4 ≠ v3 then s.count .pwr 0x98 else s).limiter q 1 amps
  let droop := decide (1000 < Map.get 0 s.pwr.stretches q)
  let v5 := if droop then min v4 (s.oppTarget q) else v4
  let s := (if v5 ≠ v4 then s.count .pwr 0xA0 else s).limiter q 2 droop
  s.moveOpp q v5

/-- OPP_TICK (R340). -/
def execOppTick (busy : List Nat) (s : State) : Res :=
  let s := s.each (List.range 4) fun s q => s.chooseOpp q (busy.getD q 0)
  .next { s with pwr := { s.pwr with currHit := [], stretches := [] } }

/-- OPP_TRANSITION_DONE (R340): one step of a move is done; downward the voltage follows the frequency. -/
def execOppTransitionDone (q : Fin 4) (s : State) : Res :=
  .next (match s.pwr.moving.find? fun m => m.1 == q.val with
    | none => s
    | some (_, target) =>
      let cur := s.fld .pwr Reg.PWR_OPP_CUR q.val
      let next := if cur < target then cur + 1 else cur - 1
      let s := (s.setFld .pwr Reg.PWR_OPP_CUR next q.val).count .pwr 0xA8
      let s := if next < cur then s.send (.voltage q next) else s
      s.moveOpp q.val target)

/-- Publish the highest sensor (Table 15-12): `temp` in units of 0.125 °C. -/
def State.setTemp (s : State) (temp : Int) (sensor : Fin 256) : State :=
  (s.setFld .pwr Reg.PWR_TEMP_MAX (unsigned 16 temp)).setFld .pwr Reg.PWR_TEMP_SENSOR sensor.val

/-- THERMAL_LIMIT (R340): a quadrant's hottest sensor reading, in units of 0.125 °C. Above LIMIT_C the point falls at once; from
2 °C below it may rise again. -/
def execThermalLimit (q : Fin 4) (temp : Int) (sensor : Fin 256) (s : State) : Res :=
  let lim : Int := s.fld .pwr Reg.PWR_THERM_LIMIT_C * 8
  let s := s.setTemp temp sensor
  let rest := s.pwr.thermHot.filter fun h => h != q.val && h != q.val + 4
  .next (
    if lim < temp then
      let was := s.pwr.thermHot.contains q.val
      let s := { s with pwr := { s.pwr with thermHot := rest ++ [q.val] } }
      if was then s else s.stepDown q.val 0
    else if temp ≤ lim - 16 then { s with pwr := { s.pwr with thermHot := rest } }
    else if s.pwr.thermHot.contains q.val then { s with pwr := { s.pwr with thermHot := rest ++ [q.val + 4] } }
    else s)

/-- DROOP_DETECT (R340): TCLK is stretched by a cycle; more than 1,000 in a millisecond give one step down. -/
def execDroopDetect (q : Fin 4) (s : State) : Res :=
  let n := Map.get 0 s.pwr.stretches q.val + 1
  let s := { s with pwr := { s.pwr with stretches := Map.set 0 s.pwr.stretches q.val n } }.count .pwr 0xB8
  .next (if n = 1001 then s.stepDown q.val 2 else s)

/-- RAIL_READ_COMPLETE (R335): a reading in mV and 0.1 A, or none; the third silence in a row writes a record. -/
def execRailReadComplete (rail : Fin 16) (reading : Option (Nat × Nat)) (s : State) : Res :=
  let k := rail.val
  .next (
    if k = 0 ∨ 13 < k then s
    else
      match reading with
      | some (mv, da) =>
        let s := (s.setFld .pwr Reg.RAIL_MV_MV mv k).setFld .pwr Reg.RAIL_MV_DECIAMPS da k
        let s := { s with pwr := { s.pwr with railMiss := Map.set 0 s.pwr.railMiss k 0 } }
        if k ≤ 4 ∧ s.fld .pwr Reg.PWR_ICC_TILE_A_MAX * 10 < da then
          { s with pwr := { s.pwr with currHit := (k - 1) :: s.pwr.currHit.filter (· ≠ k - 1) } }.stepDown (k - 1) 1
        else s
      | none =>
        let n := Map.get 0 s.pwr.railMiss k + 1
        let s := { s with pwr := { s.pwr with railMiss := Map.set 0 s.pwr.railMiss k (if n = 3 then 0 else n) } }
        if n = 3 then s.record .pwr { severity := 2, rail := some k } else s)

/-- The register bit of a power-down unit (Table 15-3): mask field and bit. -/
def lpBit : LpUnit → Fld × Nat
  | .portLp n => (Reg.PWR_PORT_LP_MASK, n.val)
  | .portOff n => (Reg.PWR_PORT_OFF_MASK, n.val)
  | .slice p => (Reg.PWR_SHL_RET_MASK, p.val)
  | .stack i => (Reg.PWR_MEM_SR_BAS, i.val)
  | .channel c => (Reg.PWR_MEM_SR_DEEP, c.val)
  | .tileGate p => (Reg.PWR_TILE_GATE_MASK, p.val)

/-- The bit of a unit is set. -/
def State.lpSet (s : State) (u : LpUnit) : Bool := bit (s.fld .pwr (lpBit u).1) (lpBit u).2

/-- A unit leaves its mode and stays awake: its bit is cleared (R337). -/
def State.lpClear (s : State) (u : LpUnit) : State :=
  let f := (lpBit u).1
  (s.setFld .pwr f (withBits (s.fld .pwr f) (lpBit u).2 1 0)).wakeUnit u

/-- A mask register of n units takes a value: bits cleared wake their units (R337). -/
def State.lpMask (s : State) (f : Fld) (units : List LpUnit) (v : Nat) : State :=
  let s := s.setFld .pwr f v
  s.each units fun s u => if s.lpSet u then s else s.wakeUnit u

/-- POWER_DOWN_MASK_WRITE (R337): which 0 PWR_PORT_LP, 1 PWR_PORT_OFF, 2 PWR_SHL_RET, 3 PWR_MEM_SR. -/
def execPowerDownMaskWrite (which : Fin 4) (v : Word) (s : State) : Res :=
  let x := v.toNat
  .next (s.ifReady .pwr fun s =>
    match which with
    | 0 => s.lpMask Reg.PWR_PORT_LP_MASK (allPorts.map .portLp) x
    | 1 => s.lpMask Reg.PWR_PORT_OFF_MASK (allPorts.map .portOff) x
    | 2 => s.lpMask Reg.PWR_SHL_RET_MASK (allParts.map .slice) x
    | 3 => (s.lpMask Reg.PWR_MEM_SR_BAS ((List.finRange 8).map .stack) (bits x 0 8)).lpMask Reg.PWR_MEM_SR_DEEP
        ((List.finRange 16).map .channel) (bits x 8 16))

/-- PWR_TILE_GATE_WRITE (R338): bits are set only for stable IDLE and CACHE partitions; the others are refused. -/
def execPwrTileGateWrite (v : Word) (s : State) : Res :=
  .next (s.ifReady .pwr fun s =>
    let old := s.fld .pwr Reg.PWR_TILE_GATE_MASK
    let allowed := fun (p : PartId) => s.stableRole p 0 || s.stableRole p 3
    let refused := (allParts.filter fun p => bit v.toNat p.val && !bit old p.val && !allowed p)
    let x := refused.foldl (fun a p => withBits a p.val 1 0) v.toNat
    let s := s.lpMask Reg.PWR_TILE_GATE_MASK (allParts.map .tileGate) x
    if refused.isEmpty then s else s.err .pwr 0x01)

/-- What the tiles of a partition lose: scoreboards, tags, programs, SRAM (R145, Table 15-3). -/
def State.loseTile (s : State) (t : TileId) : State :=
  let s := { (s.clearTile t).setTile t {} with
    sram := Map.clear s.sram (sramAddr t 0) 2097152, sramBad := Map.clear s.sramBad (sramAddr t 0) 2097152 }
  s.setFld (.tile t) Reg.PG_READY_READY 0

/-- The tiles of a partition. -/
def tilesOf (p : PartId) : List TileId := (List.range 8).map (tileOf p)

/-- A unit has nothing to do. -/
def State.lpIdle (s : State) (u : LpUnit) : Bool :=
  match u with
  | .portLp n => (s.port n).held.isEmpty && (s.port n).queues.isEmpty
  | .tileGate p => (tilesOf p).all fun t => (s.tile t).slots.isEmpty && (s.tile t).coming.isEmpty
  | _ => true

/-- LP_IDLE_ENTER (R337): a unit whose bit is set, idle since it woke for PWR_IDLE_US, enters its mode. -/
def execLpIdleEnter (u : LpUnit) (s : State) : Res :=
  let ok : Bool := match s.pwr.idleFrom.find? fun e => e.1 == u with
    | some e => decide (e.2 + s.fld .pwr Reg.PWR_IDLE_IDLE_US * 1000 ≤ s.now)
    | none => true
  .next (
    if s.lpSet u && !s.pwr.inMode.contains u && !s.pwr.waking.contains u && ok && s.lpIdle u then
      let s := { s with pwr := { s.pwr with inMode := u :: s.pwr.inMode } }
      match u with
      | .portOff n => s.linkLost n
      | .tileGate p => s.each (tilesOf p) State.loseTile
      | _ => s
    else s)

/-- WAKE_DONE (R337): the exit time of a unit ends; gated tiles come back scrubbed (R145). -/
def execWakeDone (u : LpUnit) (s : State) : Res :=
  .next (
    if u ∈ s.pwr.waking then
      let x := s.pwr
      let s := { s with pwr := { x with
        waking := x.waking.filter (· ≠ u), idleFrom := x.idleFrom.filter (fun e => e.1 ≠ u) ++ [(u, s.now)] } }
      match u with
      | .tileGate p => s.each (tilesOf p) fun s t => s.setFld (.tile t) Reg.PG_READY_READY 1
      | _ => s
    else s)

end Sys2Proof.Machine
end

