-- ==== Sys2Proof/Machine/Sampler.lean ====
section
/-! DEFINITION. The Sampler and the tenants' rings of tokens and records (R22 to R24, R284 to R287, R298 to R302, R377,
R391). -/

namespace Sys2Proof.Machine
open Sys2Proof

/-- Offset of the logits of position j of slot k (chapter 12, The Sampler). -/
def State.logitsAt (s : State) (p : PartId) (k j : Nat) : Nat :=
  (s.fldAddr (.samp p) Reg.SAMP_LBASE_LO_BASE_LO Reg.SAMP_LBASE_HI_BASE_HI +
    (k * 9 + j) * (s.fld (.samp p) Reg.SAMP_LSTRIDE_UNITS * 64)) % 2 ^ 47

/-- Step 1 of R298: a NaN is taken as −∞, +∞ as the largest finite value. -/
def cleanLogit (x : Word) : Word :=
  match el32 x with
  | .nan => 0xFF800000
  | .inf false => 0x7F7FFFFF
  | _ => x

/-- Step 2 of R298: the largest of indexed values, ties to the lower index. -/
def greedy : List (Nat × Word) → Option (Nat × Word)
  | [] => none
  | e :: l =>
    match greedy l with
    | none => some e
    | some b => if lt32 e.2 b.2 then some b else some e

/-- Insert into a list ranked in descending order, behind its equals. -/
def rankIn (e : Nat × Word) : List (Nat × Word) → List (Nat × Word)
  | [] => [e]
  | f :: l => if lt32 f.2 e.2 then e :: f :: l else f :: rankIn e l

/-- Step 4 of R298: the k largest values in descending order, ties to the lower index, −∞ dropped. -/
def candidates (k : Nat) (z : List (Nat × Word)) : List (Nat × Word) :=
  (z.foldl (fun l e => (rankIn e l).take k) []).filter fun e => el32 e.2 != El.inf true

/-- Running sums in rank order. -/
def runningSum : Word → List Word → List Word
  | _, [] => []
  | acc, w :: l => add32 acc w :: runningSum (add32 acc w) l

/-- Sums of the weights of ranks 0 to r, the first sum being the first weight. -/
def rankSums : List Word → List Word
  | [] => []
  | w :: l => w :: runningSum w l

/-- A kept set (R298 steps 5 to 7): tokens with their weights in rank order, and c_j. -/
structure Kept where
  toks : List (Nat × Word)
  total : Word
deriving DecidableEq, Repr

/-- Steps 5 to 7 of R298 over ranked candidates. -/
def keptOf (d : BitVec 1024) (c : List (Nat × Word)) : Kept :=
  let z0 := (c.map (·.2)).headD 0
  let w := c.zipIdx.map fun e =>
    (e.1.1, e.2, if e.2 = 0 then (0x3F800000 : Word) else exp2of (mul32 (add32 e.1.2 (negate32 z0)) 0x3FB8AA3B))
  let w := (w.filter fun e => !(decide (1 ≤ e.2.1) && lt32 e.2.2 (dMinP d))).map fun e => (e.1, e.2.2)
  let sums := rankSums (w.map (·.2))
  let lim := mul32 (dTopP d) (sums.getLast?.getD 0)
  let j := (sums.findIdx? fun x => !lt32 x lim).getD (sums.length - 1)
  { toks := w.take (j + 1), total := sums.getD j 0 }

/-- u of step 8 of R298: word 0 of Philox under SEED, × 2⁻³², as binary32. -/
def uniform (d : BitVec 1024) (pos lane : Nat) : Word :=
  round32 (.fin ((philox (dSeed d) (pos % 2 ^ 32) lane 0 0).headD 0) (-32)) false

/-- Step 8 of R298 over weighted tokens: the lowest rank r with c_r > round32(u × c_j); none where no rank exceeds it. -/
def drawToken (u total : Word) (l : List (Nat × Word)) : Option Nat :=
  (((l.map (·.1)).zip (rankSums (l.map (·.2)))).find? fun e => lt32 (mul32 u total) e.2).map (·.1)

/-- What one position's logits give before a draw: no candidate, the greedy token of TEMP 0, or the kept set; `open_`: a
value z is NaN, so the spec ranks nothing. -/
inductive Position where
  | none
  | one (t : Nat)
  | kept (k : Kept)
  | open_
deriving DecidableEq, Repr

/-- Steps 1 to 7 of R298 for one position. -/
def positionOf (d : BitVec 1024) (x : List Word) : Position :=
  let x := x.zipIdx.map fun e => (e.2, cleanLogit e.1)
  if dTemp d &&& 0x7FFFFFFF = 0 then
    match greedy x with
    | some e => .one e.1
    | none => .none
  else
    let r := recip32 (dTemp d)
    let z := x.map fun e => (e.1, mul32 e.2 r)
    if z.any fun e => el32 e.2 == El.nan then .open_
    else
      match candidates (if dTopK d = 0 then 4096 else dTopK d) z with
      | [] => .none
      | c => .kept (keptOf d c)

/-- A free token of those listed. -/
def State.freeToken (s : State) (l : List Nat) : Nat := l.getD (s.freeNat 32 % max l.length 1) 0

/-- A token of one position at a lane (R298 step 8). Where no rank's sum exceeds u × c_j, or nothing is ranked, the spec
states no token: it is free (of the kept set, or of the vocabulary). -/
def State.drawAt (s : State) (d : BitVec 1024) (vocab pos lane : Nat) : Position → Option Nat
  | .none => none
  | .one t => some t
  | .open_ => some (s.freeToken (List.range vocab))
  | .kept k => some ((drawToken (uniform d pos lane) k.total k.toks).getD (s.freeToken (k.toks.map (·.1))))

/-- Quotient of two binary32 values rounded to binary32 (R301: a weight divided by c_j). Outside finite values with a
nonzero divisor the weights of R298 give none, and 0 stands. -/
def div32 (a b : Word) : Word :=
  match el32 a, el32 b with
  | .fin m p, .fin n q =>
    if n = 0 then 0
    else
      let t := m.natAbs * 2 ^ 200
      let x : Int := (2 * (t / n.natAbs) + (if t % n.natAbs = 0 then 0 else 1) : Nat)
      round32 (.fin (if (decide (m < 0)) != decide (n < 0) then -x else x) (p - q - 201)) false
  | _, _ => 0

/-- p of a token at a position (R301): its weight ÷ c_j, or 0 where it is not in the kept set. -/
def Kept.prob (k : Kept) (t : Nat) : Word :=
  match k.toks.find? fun e => e.1 == t with
  | some e => div32 e.2 k.total
  | none => 0

/-- A proposal of the draft model with the draft's kept-set weights: free, for no rule says where the draft's logits lie
(R301). -/
def State.proposal (s : State) (vocab : Nat) : Nat × (Nat → Word) :=
  let f := s.fresh
  (s.freeNat 18 % max vocab 1, fun t =>
    BitVec.ofNat 32 (natOfBytes ((List.range 4).map fun i => Config.freeByte (f * 65536 + 16 + 4 * t + i))))

/-- Verify proposals in order (R301): the tokens to place, how many proposals were accepted, and whether a position had no
candidate. `ps`: positions 0 to d. -/
def State.verify (s : State) (d : BitVec 1024) (vocab : Nat) : Nat → List Position → Nat × Option (List Nat) × State
  | _, [] => (0, some [], s)
  | pos, [p] => (0, (s.drawAt d vocab pos 0 p).map fun t => [t], s.draw)
  | pos, p :: ps =>
    let pr := s.proposal vocab
    let t := pr.1
    let q := pr.2
    let f := s.draw
    let ok : Bool := match p with
      | .none => false
      | .one g => g == t
      | .open_ => bit (f.freeNat 8) 0
      | .kept k => lt32 (mul32 (uniform d pos 1) (q t)) (k.prob t)
    match p with
    | .none => (0, none, f)
    | _ =>
      if ok then
        let r := f.draw.verify d vocab (pos + 1) ps
        (r.1 + 1, r.2.1.map fun l => t :: l, r.2.2)
      else
        let one : Option Nat := match p with
          | .kept k =>
            let w := k.toks.map fun e => (e.1, let x := add32 (k.prob e.1) (negate32 (q e.1)); if lt32 0 x then x else (0 : Word))
            if w.all fun e => e.2 == 0 then f.drawAt d vocab pos 0 p
            else some ((drawToken (uniform d pos 3) ((rankSums (w.map (·.2))).getLast?.getD 0) w).getD
              (f.freeToken (k.toks.map (·.1))))
          | _ => f.drawAt d vocab pos 0 p
        (0, one.map fun t => [t], f.draw)

/-- Read the logits of several positions (R412). -/
def State.readLogits (s : State) (p : PartId) (slot vocab : Nat) (lost : State → State) :
    List Nat → List (List Word) → (List (List Word) → State → State) → State
  | [], acc, k => k acc.reverse s
  | j :: l, acc, k =>
    s.fetch (s.logitsAt p slot j) (4 * vocab) lost fun b s =>
      s.readLogits p slot vocab lost l
        (((List.range vocab).map fun i => BitVec.ofNat 32 (natOfBytes ((b.drop (4 * i)).take 4))) :: acc) k

/-- No candidate logit remains (R298, R303). -/
def State.noCandidate (s : State) (p : PartId) (id : Nat) : State :=
  (((s.err (.samp p) 0x01).irq (.samp p) 0).count (.samp p) 0xB8).abortReq id 0x30 0x32

/-- Drawn tokens join the Sampler's output of a request (R286): a buffer that can take no further step is counted. -/
def State.emit (s : State) (p : PartId) (r : Req) (toks : List Nat) : State :=
  let r' := { r with
    outBuf := r.outBuf ++ toks.zipIdx.map (fun e => (e.1, r.pos + e.2)), pos := r.pos + toks.length,
    lastTok := toks.getLast?.getD r.lastTok }
  let s := s.updReq r.reqId fun _ => r'
  if r'.full && !r.full then s.count (.samp p) 0xA8 else s

/-- A step's speculation is settled (R302, R227): CANCEL with L, the KV length before the proposals plus the number accepted, on
each pool QP that carried its provisional rows, and the conversation's own range is cut to L. -/
def State.settleStep (s : State) (p : PartId) (slot : Nat) (r : Req) (accepted : Nat) : State :=
  let x := s.rs p slot
  let keep := x.kvLen - dDepth r.desc + accepted
  let s := match s.conv r.tenant (dConv r.desc) with
    | some v =>
      let s := s.post v.part ((s.provQps v).map fun (e : QpId × Nat) => (e.1.val, mkCancel cancelWrId e.2 keep))
      s.keepRows (s.convRange { v with kvLen := x.kvLen }) (s.convShape v) keep
    | none => s
  (s.setRs p slot { s.rs p slot with kvLen := keep }).updReq r.reqId fun r => { r with specEpoch := (r.specEpoch + 1) % 256 }

/-- SAMPLER_DONE: the Sampler has read a slot's logits and draws (R298), or verifies the step's proposals (R301, R302). -/
def execSamplerDone (p : PartId) (slot : Fin 1024) (s : State) : Res :=
  .next (s.ifReady (.samp p) fun s =>
    let x := s.part p
    if ¬ x.samplerDue.contains slot.val then s
    else
      let done := fun (s : State) =>
        let x := s.part p
        s.setPart p { x with samplerDue := x.samplerDue.erase slot.val }
      match s.req (s.rs p slot.val).reqId with
      | none => done s
      | some r =>
        if r.endStatus.isSome then done s
        else
          let d := r.desc
          let vocab := s.fld (.samp p) Reg.SAMP_MODEL_VOCAB r.model.val
          let n := if dSpec d then dDepth d else 0
          s.readLogits p slot.val vocab (fun s => (done s).abortReq r.reqId 0x40 0x00) (List.range (n + 1)) [] fun l s =>
            let s := done s
            let nans := l.foldl (fun (a : Nat) x => a + (x.filter fun w => el32 w == El.nan).length) 0
            let s := s.count (.samp p) 0xB0 nans
            let v := s.verify d vocab r.pos (l.map (positionOf d))
            let s := if dSpec d then (v.2.2.count (.samp p) 0x88 n).count (.samp p) 0x90 v.1 else v.2.2
            match v.2.1 with
            | none => s.noCandidate p r.reqId
            | some toks =>
              let s := s.emit p r toks
              if dSpec d then s.settleStep p slot.val r v.1 else s)

/-- Vector 1 of a tenant, at most once per PCIE_VF_TOK_MOD.US (R391). -/
def State.tokenVector (s : State) (n : TenId) : State :=
  let us := s.fld .pcie Reg.PCIE_VF_TOK_MOD_US
  let t := s.ten n
  if us = 0 then s.vfVector n 1
  else if s.now < t.modUntil then s.setTen n { t with modPend := true }
  else (s.setTen n { t with modUntil := s.now + us * 1000, modPend := false }).vfVector n 1

/-- One token entry of the Host Token Ring (Table 12-2). -/
def tokenEntry (tok : Nat) (last : Bool) (phase : Bool) (reqId : Nat) : List Byte :=
  bytesOfNat 8 (tok % 2 ^ 18 + last.toNat * 2 ^ 18 + phase.toNat * 2 ^ 31 + reqId % 2 ^ 32 * 2 ^ 32)

/-- PHASE of ring position k (R286): 1 on the first pass, inverted on each later one. -/
def phaseOf (log2 k : Nat) : Bool := !bit k log2

/-- Stop conditions after a token, in the order of R300: STATUS, DETAIL and the counter. The counter of a stop sequence and
of MAX_NEW is STOP_HOST. -/
def State.stopOf (s : State) (p : PartId) (r : Req) (tok : Nat) (emitted : List Nat) : Option (Nat × Nat × Nat) :=
  if tok = s.fld (.samp p) Reg.SAMP_MODEL_EOS r.model.val then some (0x00, 0x00, 0x98)
  else if r.stops.any fun l => !l.isEmpty && emitted.drop (emitted.length - l.length) == l then some (0x01, 0x21, 0xA0)
  else if dMaxNew r.desc ≤ r.tokens + 1 then some (0x01, 0x20, 0xA0)
  else none

/-- The times of a token placed (Table 13-2): TTFT for a request's first, TOKEN_GAP after. -/
def State.tokenSample (s : State) (r : Req) : State :=
  if r.tokens = 0 then s.sample 1 r.tenant.val (some (dClass r.desc)) (s.now - r.readAt)
  else s.sample 3 r.tenant.val (some (dClass r.desc)) (s.now - r.placedAt)

/-- A token entry goes to the tenant's ring (R286, R291, R294, R391). -/
def State.placeToken (s : State) (p : PartId) (r : Req) (tok : Nat) (last : Bool) : State :=
  let n := r.tenant
  let s := s.refill r.weir n
  let t := s.ten n
  let k := t.tokTail
  let s := s.setTen n { t with tokTail := (k + 1) % 2 ^ (t.tokLog2 + 1), g := charge t.g 1 }
  let s := s.hostWr n (t.tokBase.toNat + k % 2 ^ t.tokLog2 * 8) (tokenEntry tok last (phaseOf t.tokLog2 k) r.reqId)
  ((s.count (.samp p) 0x80).tokenSample r).tokenVector n

/-- The host token ring has room (R286). -/
def Tenant.tokRoom (t : Tenant) : Bool := t.en && decide (ringUsed t.tokLog2 t.tokHead t.tokTail < 2 ^ t.tokLog2)

/-- TOKEN_WRITE: the next drawn token of the request a slot serves is placed, and the stop conditions are checked (R286,
R300). A request that has ended already only empties its buffer (R23, R24). -/
def execTokenWrite (p : PartId) (slot : Fin 1024) (s : State) : Res :=
  .next (
    match s.reqs.find? fun r => r.genPart == some p && r.genSlot == slot.val && !r.outBuf.isEmpty with
    | none => s
    | some r =>
      match r.outBuf with
      | [] => s
      | (tok, _) :: rest =>
        if dShard r.desc = 0 ∧ ¬ (s.ten r.tenant).tokRoom then s
        else
          let emitted := (r.emitted ++ [tok]).drop (r.emitted.length - 7)
          let stop := s.stopOf p r tok emitted
          let last := stop.isSome || (r.endStatus.isSome && rest.isEmpty)
          let s := if dShard r.desc = 0 then s.placeToken p r tok last else s
          let s := s.updReq r.reqId fun r => { r with
            tokens := r.tokens + 1, emitted := emitted, placedAt := s.now, outBuf := if stop.isSome then [] else rest }
          match stop with
          | none => if r.endStatus.isSome then s.settleReq r.reqId else s
          | some (status, detail, c) =>
            if r.endStatus.isSome then (s.count (.disp p) 0xD8).settleReq r.reqId
            else (s.count (.samp p) c).endReq r.reqId status detail)

/-- The 32 bytes of a Completion Record (Table 12-5). -/
def recordBytes (c : CplRec) (phase : Bool) (now : Nat) : List Byte :=
  let flags := phase.toNat + 2 * c.final.toNat + 4 * c.notice.toNat + 8 * c.handle.toNat + 16 * c.fallback.toNat
  List.flatten
    [bytesOfNat 4 c.reqId, bytesOfNat 4 c.convId, bytesOfNat 1 c.status, bytesOfNat 1 flags, bytesOfNat 2 c.detail,
     bytesOfNat 4 c.tokens, bytesOfNat 4 c.pages, bytesOfNat 2 (c.layers % 512), bytesOfNat 2 c.qpos,
     bytesOfNat 8 (if c.status = 0x10 then c.whenNs else now)]

/-- A request whose final record is written leaves, its adapter binding released (R22, R231). -/
def State.finalWritten (s : State) (n : TenId) (c : CplRec) : State :=
  if c.final ∧ ¬ (s.ten n).waiting.any (fun e => e.final && e.reqId == c.reqId) then
    match s.req c.reqId with
    | some r => if r.recorded then (s.dropAdapter c.reqId).dropReq c.reqId else s
    | none => s
  else s

/-- A record tells of the end of an open request, or of a park: a reservation or an open request is released (R296, R297). -/
def State.releases (s : State) (c : CplRec) : Bool :=
  (c.final && (c.status == 0x00 || (s.req c.reqId).any fun r => r.recorded)) || (c.notice && c.detail == 0x40)

/-- The queue heads of the Weirs are evaluated again (R297). -/
def State.retryHeads (s : State) : State :=
  s.each allParts fun s p =>
    match s.deferred p with
    | r :: _ => if s.flag .qrm Reg.QRM_STAT_IN_QUORUM then s.admitNow p r else s
    | [] => s

/-- COMPLETION_RECORD_WRITE: the first waiting record of a tenant is written where its ring has room (R23, R286, R391). -/
def execCompletionRecordWrite (n : TenId) (s : State) : Res :=
  let t := s.ten n
  .next (
    match t.waiting with
    | [] => s
    | c :: rest =>
      if ¬ t.en ∨ 2 ^ t.cplLog2 ≤ ringUsed t.cplLog2 t.cplHead t.cplTail then s
      else
        let k := t.cplTail
        let s := s.setTen n { t with waiting := rest, cplTail := (k + 1) % 2 ^ (t.cplLog2 + 1) }
        let s := s.hostWr n (t.cplBase.toNat + k % 2 ^ t.cplLog2 * 32) (recordBytes c (phaseOf t.cplLog2 k) s.now)
        let free := s.releases c
        let s := (s.vfVector n 0).finalWritten n c
        if free then s.retryHeads else s)

/-- VF_TOK_MOD_TIMER: the interval ends, and tokens written in it raise vector 1 (R391). -/
def execVfTokModTimer (n : TenId) (s : State) : Res :=
  let t := s.ten n
  .next (if t.modPend ∧ t.modUntil ≤ s.now then
      (s.setTen n { t with modPend := false, modUntil := s.now + s.fld .pcie Reg.PCIE_VF_TOK_MOD_US * 1000 }).vfVector n 1
    else s)

/-- An open request ends without a record or a token (R287): its conversation stays where it is. -/
def State.endSilent (s : State) (r : Req) : State :=
  if r.st = .deferred then (s.dropReq r.reqId).syncQueue r.weir
  else
    let s := (s.closeAll r.reqId).dropAdapter r.reqId
    (s.updConv r.tenant (dConv r.desc) fun v => { v with idleFrom := s.now }).dropReq r.reqId

/-- VF_FLR: a Function Level Reset of a tenant's VF (R287, R377): its page and pointers reset, its open requests ended in
silence. Its token budgets, which the doorbell page does not hold, stay. -/
def execVfFlr (n : TenId) (s : State) : Res :=
  let t := s.ten n
  let s := s.each (s.reqs.filter fun r => r.tenant == n) State.endSilent
  .next (s.setTen n { ({} : Tenant) with p := t.p, g := t.g, refilled := t.refilled })

end Sys2Proof.Machine
end

