-- ==== Sys2Proof/Machine/Search.lean ====
section
/-! DEFINITION. The SRCH block: vector search, prefix inserts, pooled regions and their leases (R244 to R258). -/

namespace Sys2Proof.Machine
open Sys2Proof

/-- Read several ranges of the State Space at once (R412): held while a page is on its way or elsewhere; lost on a POISONED page
or a failed pull. -/
def State.gather (s : State) (ranges : List (Nat × Nat)) (lost k : State → State) : State :=
  match s.ownReadAt .device (pagePieces ranges) with
  | (.data, s) => k s
  | (.wait, s) => s
  | (_, s) => lost s

/-- The search ring of a partition (R254). -/
def State.ringBase (s : State) (p : PartId) : Nat :=
  s.fldAddr .srch Reg.CACHE_CFG_RING_BASE_LO Reg.CACHE_CFG_RING_BASE_HI p.val

/-- The ring slot at HEAD (R254). -/
def State.ringSlot (s : State) (p : PartId) : Nat :=
  let base := s.ringBase p
  base + 64 + s.rdNat (base + 8) 8 % 2 ^ s.fld .srch Reg.CACHE_CFG_RING_LOG2 p.val * 64

/-- Take the slot at HEAD (R254): OP written to 0, HEAD advanced. -/
def State.ringTake (s : State) (p : PartId) : State :=
  let base := s.ringBase p
  (s.put (s.ringSlot p) [0]).put (base + 8) (bytesOfNat 8 (s.rdNat (base + 8) 8 + 1))

/-- Write a completion word (R254). -/
def State.ringDone (s : State) (comp status n : Nat) : State :=
  s.put comp (bytesOfNat 8 (status + 2 ^ 8 * (n % 65536) + 2 ^ 63))

/-- SRCH_OLDEST follows the searches in flight (Table 10-10). -/
def State.syncOldest (s : State) (p : PartId) : State :=
  let v := (s.srch.works.filter fun w => w.part == p && w.entry.isNone).foldl (fun a w => min a w.taken) max64
  (s.setFld .srch Reg.CACHE_CFG_OLDEST_LO (v % 2 ^ 32) p.val).setFld .srch Reg.CACHE_CFG_OLDEST_HI (v / 2 ^ 32) p.val

/-- Begin a piece of work of the SRCH block. -/
def State.addWork (s : State) (p : PartId) (d coll : BitVec 512) (entry : Option Nat) : State :=
  let x := s.srch
  let w : Work := { ticket := x.nextTicket, part := p, desc := d, taken := s.now, coll := coll, entry := entry }
  { s with srch := { x with nextTicket := x.nextTicket + 1, works := x.works ++ [w] } }.syncOldest p

/-- End a piece of work. -/
def State.dropWork (s : State) (p : PartId) (ticket : Nat) : State :=
  { s with srch := { s.srch with works := s.srch.works.filter fun w => w.ticket != ticket } }.syncOldest p

/-- An offset of the State Space, in its 64-bit field. -/
def offsetOk (v : Nat) : Bool := decide (v < 2 ^ 47)

/-- A search descriptor is in range (Table 10-6). -/
def searchOk (d : BitVec 512) : Bool :=
  BV d 0 8 == 1 && decide (BV d 8 8 ≤ 2) && decide (1 ≤ BV d 16 16) && decide (BV d 16 16 ≤ 1024) &&
    decide (BV d 16 16 ≤ BV d 32 32) && decide (BV d 32 32 ≤ 65536) && decide (BV d 64 64 % 64 = 0) && BV d 448 64 == 0 &&
    [64, 128, 192, 256, 320].all fun k => offsetOk (BV d k 64)

/-- A segment of a collection (Table 10-5). -/
structure Seg where
  base : Nat
  vec : Nat
  cap : Nat
  count : Nat
  dim : Nat
  fmt : Nat
  sk : Nat
  rsv : Nat
deriving DecidableEq, Repr

def segOf (c : BitVec 512) (k : Nat) : Seg :=
  let f := fun (lo w : Nat) => BV c (256 * k + lo) w
  { base := f 0 64, vec := f 64 64, cap := f 128 32, count := f 160 32, dim := f 192 16, fmt := f 208 8, sk := f 216 8,
    rsv := f 224 32 }

/-- A collection descriptor is in range, its delta segment as its main one (Table 10-5). -/
def collOk (c : BitVec 512) : Bool :=
  let a := segOf c 0
  let b := segOf c 1
  [a, b].all (fun x => x.count ≤ x.cap && x.rsv == 0 && offsetOk x.base && offsetOk x.vec) && decide (1 ≤ a.dim) &&
    decide (a.dim ≤ 8192) && decide (a.fmt ≤ 2) && decide (a.sk ≤ 7) && a.dim == b.dim && a.fmt == b.fmt && a.sk == b.sk

def up64 (n : Nat) : Nat := (n + 63) / 64 * 64

/-- Sizes and places within a segment (Table 10-5). -/
def Seg.skb (g : Seg) : Nat := 32 * (g.sk + 1)
def Seg.ids (g : Seg) : Nat := g.base + up64 (g.cap * g.skb)
def Seg.tombs (g : Seg) : Nat := g.ids + up64 (g.cap * 8)
def Seg.elem (g : Seg) : Nat := if g.fmt = 0 then 4 else 2
def Seg.vstride (g : Seg) : Nat := up64 (g.dim * g.elem)

/-- Vector k of a segment is tombstoned. -/
def State.tomb (s : State) (g : Seg) (k : Nat) : Bool := bit (s.rdNat (g.tombs + k / 8) 1) (k % 8)

/-- Bits that differ (R252). -/
def hamming (a b : List Byte) : Nat :=
  (List.zipWith (fun (x y : Byte) => (setBits 8 (x ^^^ y).toNat).length) a b).foldl (· + ·) 0

/-- Put x behind everything that may stand before it. -/
def insertBy {α : Type} (before : α → α → Bool) (x : α) : List α → List α
  | [] => [x]
  | y :: t => if before x y then x :: y :: t else y :: insertBy before x t

/-- Sort, equals in their given order. -/
def sortBy {α : Type} (before : α → α → Bool) (l : List α) : List α := l.foldl (fun acc x => insertBy before x acc) []

/-- Element i of a vector in binary32 (R253). -/
def State.vecEl (s : State) (fmt a i : Nat) : Word :=
  match fmt with
  | 0 => BitVec.ofNat 32 (s.rdNat (a + 4 * i) 4)
  | 1 =>
    let x := s.rdNat (a + 2 * i) 2
    round32 (f16.decode x) (bit x 15)
  | _ => BitVec.ofNat 32 (s.rdNat (a + 2 * i) 2 * 65536)

/-- The fixed tree over terms padded with +0 to a power of two (R253). -/
def treePad (l : List Word) : Word :=
  let n := Nat.clog 2 l.length
  treeSum n (l ++ List.replicate (2 ^ n - l.length) 0)

def State.ip (s : State) (fmt a b dim : Nat) : Word :=
  treePad ((List.range dim).map fun i => mul32 (s.vecEl fmt a i) (s.vecEl fmt b i))

/-- Exact score of a vector (R253). -/
def State.score (s : State) (metric fmt q v dim : Nat) : Word :=
  match metric with
  | 0 => s.ip fmt q v dim
  | 1 =>
    let qq := s.ip fmt q q dim
    let vv := s.ip fmt v v dim
    if qq &&& 0x7FFFFFFF = 0 ∨ vv &&& 0x7FFFFFFF = 0 then 0xFF800000
    else mul32 (mul32 (s.ip fmt q v dim) (rsqrt32 qq)) (rsqrt32 vv)
  | _ => treePad ((List.range dim).map fun i =>
      let d := add32 (s.vecEl fmt q i) (negate32 (s.vecEl fmt v i))
      mul32 d d)

/-- A result (Table 10-6). -/
structure Hit where
  id : Nat
  score : Word
  pos : Nat
deriving DecidableEq, Repr

/-- Result order (R252): best score first, ties by the lower ID, NaN last. -/
def hitBefore (asc : Bool) (a b : Hit) : Bool :=
  let na := el32 a.score == .nan
  let nb := el32 b.score == .nan
  if na || nb then (if na && nb then decide (a.id < b.id) else nb)
  else if (if asc then lt32 a.score b.score else lt32 b.score a.score) then true
  else if (if asc then lt32 b.score a.score else lt32 a.score b.score) then false
  else decide (a.id < b.id)

/-- Distances of the vectors of a segment that are not tombstoned: distance, delta flag, position (R252). -/
def State.distances (s : State) (g : Seg) (delta : Bool) (q : List Byte) : List (Nat × Bool × Nat) :=
  ((List.range g.count).filter fun k => !s.tomb g k).map fun k => (hamming q (s.rd (g.base + k * g.skb) g.skb), delta, k)

/-- The SHORTLIST smallest distances (R252). -/
def State.shortlist (s : State) (d c : BitVec 512) : List (Nat × Bool × Nat) :=
  let a := segOf c 0
  let b := segOf c 1
  let q := s.rd (BV d 128 64) a.skb
  (sortBy (fun (x y : Nat × Bool × Nat) => decide (x.1 < y.1)) (s.distances a false q ++ s.distances b true q)).take (BV d 32 32)

/-- What a search reads before its candidates are known. -/
def scanRanges (d c : BitVec 512) : List (Nat × Nat) :=
  let a := segOf c 0
  (BV d 128 64, a.skb) :: (BV d 192 64, a.dim * a.elem) :: [a, segOf c 1].flatMap fun g =>
    [(g.base, g.count * g.skb), (g.tombs, (g.count + 7) / 8)]

/-- The ID and vector of a candidate. -/
def candRanges (c : BitVec 512) (x : Nat × Bool × Nat) : List (Nat × Nat) :=
  let g := segOf c x.2.1.toNat
  [(g.ids + x.2.2 * 8, 8), (g.vec + x.2.2 * g.vstride, g.dim * g.elem)]

/-- A search of the ring is served: its ring is enabled and its page ready. -/
def State.ringOn (s : State) (p : PartId) : Bool := s.ready .srch && s.flag .srch Reg.CACHE_CFG_RING_EN p.val

/-- The partition may run ring work (Table 10-8, NOT_CACHE). -/
def State.ringRole (s : State) (p : PartId) : Bool :=
  s.fld (.disp p) Reg.DISP_ROLE_CUR == 3 && s.flag .srch Reg.SRCH_CTRL_EN

/-- SEARCH (R252, R254): the slot at HEAD is taken with its collection descriptor latched; NOT_CACHE or BAD_DESC end it at
once. A reserved OP is a bad descriptor. -/
def execSearch (p : PartId) (s : State) : Res :=
  .next (
    if ¬ s.ringOn p then s
    else s.fetch (s.ringSlot p) 64 id fun b s =>
      let d : BitVec 512 := BitVec.ofNat 512 (natOfBytes b)
      let op := BV d 0 8
      let comp := BV d 320 64
      if op = 0 ∨ op = 2 then s
      else if ¬ s.ringRole p then ((s.ringTake p).ringDone comp 0x02 0).count .srch 0xC0
      else if ¬ searchOk d then ((s.ringTake p).ringDone comp 0x01 0).count .srch 0xC0
      else s.fetch (BV d 64 64) 64 (fun s => ((s.ringTake p).ringDone comp 0x03 0).count .srch 0xC0) fun cb s =>
        let c : BitVec 512 := BitVec.ofNat 512 (natOfBytes cb)
        if ¬ collOk c then ((s.ringTake p).ringDone comp 0x01 0).count .srch 0xC0
        else (s.ringTake p).addWork p d c none)

/-- SEARCH_DONE (R252, R253): the shortlist, the tombstones read again, the exact scores, the best K, then the completion
word. -/
def execSearchDone (p : PartId) (ticket : Nat) (s : State) : Res :=
  .next (match s.srch.works.find? fun w => w.ticket == ticket && w.part == p && w.entry.isNone with
    | none => s
    | some w =>
      let d := w.desc
      let c := w.coll
      let comp := BV d 320 64
      let lost := fun (s : State) => ((s.dropWork p ticket).ringDone comp 0x03 0).count .srch 0xC0
      s.gather (scanRanges d c) lost fun s =>
        let short := s.shortlist d c
        s.gather (short.flatMap (candRanges c)) lost fun s =>
          let a := segOf c 0
          let b := segOf c 1
          let compared := (s.distances a false []).length + (s.distances b true []).length
          let metric := BV d 8 8
          let hits := short.map fun x =>
            let g := segOf c x.2.1.toNat
            ({ id := s.rdNat (g.ids + x.2.2 * 8) 8
               score := s.score metric g.fmt (BV d 192 64) (g.vec + x.2.2 * g.vstride) g.dim
               pos := x.2.2 + x.2.1.toNat * 2 ^ 31 } : Hit)
          let best := (sortBy (hitBefore (metric == 2)) hits).take (BV d 16 16)
          let bytes := best.flatMap fun h => bytesOfNat 8 h.id ++ bytesOfNat 4 h.score.toNat ++ bytesOfNat 4 h.pos
          let s := ((s.dropWork p ticket).put (BV d 256 64) bytes).ringDone comp 0x00 best.length
          ((s.count .srch 0xC0).count .srch 0xC8 compared).count .srch 0xD0 (a.count + b.count - compared))

/-- A prefix insert descriptor is in range (Table 10-7). -/
def insertOk (d : BitVec 512) : Bool :=
  decide (1 ≤ BV d 16 16) && decide (BV d 16 16 ≤ 256) && decide (1 ≤ BV d 32 32) && decide (BV d 32 32 ≤ 16384) &&
    BV d 8 8 == 0 && BV d 81 15 == 0 && decide (BV d 128 64 % 65536 = 0) && BV d 240 16 == 0 && BV d 480 32 == 0 &&
    decide (BV d 224 16 ≤ 2176) && decide (BV d 224 16 % 64 = 0) && decide (BV d 448 32 ≠ 0) && decide (BV d 192 32 < 2 ^ 24) &&
    [128, 256, 320].all fun k => offsetOk (BV d k 64)

/-- The context of an insert is named by a REQ_ID no request has. -/
def insertId (i gen : Nat) : Nat := 2 ^ 32 + i + gen * 4096

/-- PFX_INSERT (R244): an entry and a range in the prefix region, then pulls with COPY set, layer by layer. Without a context or a
key slot the slot at HEAD waits. The REQ_ID of its pulls is free: the descriptor names no tag at the source. -/
def execPfxInsert (p : PartId) (s : State) : Res :=
  .next (
    if ¬ s.ringOn p then s
    else s.fetch (s.ringSlot p) 64 id fun b s =>
      let d : BitVec 512 := BitVec.ofNat 512 (natOfBytes b)
      let comp := BV d 320 64
      let key := BitVec.ofNat 32 (BV d 96 32)
      let layers := BV d 16 16
      let blocks := BV d 32 32
      let side := BV d 224 16
      if BV d 0 8 ≠ 2 then s
      else if ¬ s.ringRole p then (s.ringTake p).ringDone comp 0x02 0
      else if ¬ insertOk d then (s.ringTake p).ringDone comp 0x01 0
      else
        match s.freeEntry p, s.keySlot key with
        | none, _ => (s.ringTake p).ringDone comp 0x04 0
        | _, none => s.count (.move p) 0xB0
        | some i, some k =>
          if ¬ s.ctxRoom p then s
          else
            let rgn := s.fld .srch Reg.CACHE_CFG_PFX_RGN p.val
            match s.makeRoom p rgn (layers * blocks + (layers * blocks * side + 65535) / 65536) 4096 with
            | (none, s) => (s.ringTake p).ringDone comp 0x04 0
            | (some a, s) =>
              let ttl := s.grantTtl p (BV d 448 32)
              let s := (ttl.2.ringTake p).newEntry p i 1 0 0 0 (a * 65536) layers blocks side ttl.1 0
              let node := BV d 64 12
              let part : PartId := Fin.ofNat 32 (BV d 76 5)
              let src := BV d 128 64 / 65536
              let c : MoveCtx :=
                { kind := 4, state := 3, reqId := insertId i (entGen (s.entry p i)), layers := layers, pages := blocks,
                  localBase := a * 65536, stride := blocks, sideBytes := side, peerNode := node, peerPart := part,
                  remoteBase := src * 65536, remoteKey := key, askId := s.freeNat 32, copyRun := true, startedAt := s.now }
              let runs := (List.range layers).flatMap fun layer =>
                cutRuns (s.fld (.move p) Reg.MOVE_CTRL_PULL_RUN) false (c.pageAt layer 0) blocks
              match s.draw.bindCtx p { c with runs := runs } with
              | none => s
              | some (x, s) =>
                let s := (s.setFld .tier Reg.REMOTE_KEY key.toNat k).each (List.range (layers * blocks)) fun s j =>
                  s.setRemote (c.pageAt (j / blocks) (j % blocks)) node part (src + j / blocks * BV d 192 32 + j % blocks) k
                ((s.sendRuns p x).pullProgress p x).addWork p d 0 (some i))

/-- LAST_USE and PINS of the entry an index slot names. -/
def State.slotEntry (s : State) (p : PartId) (a : Nat) : Nat × Nat :=
  let e := s.entry p (s.rdNat (a + 16) 4 % 4096)
  (entLast e, entPins e)

/-- Write the index slot of one block (R244): kept where its hash has a VALID slot; a free slot; else the slot of the oldest
LAST_USE among entries not pinned; else IDX_FULL. True: a slot was written. -/
def State.indexBlock (s : State) (p : PartId) (tag block : Nat) (hash : List Byte) : Bool × State :=
  let b := natOfBytes (hash.take 8) % 2 ^ s.fld .srch Reg.CACHE_CFG_IDX_LOG2 p.val
  let at_ := fun (j : Nat) => s.idxSlot p b j
  let valid := fun (j : Nat) => bit (s.rdNat (at_ j + 24) 1) 0
  let write := fun (j : Nat) =>
    s.put (at_ j) (hash ++ bytesOfNat 4 tag ++ bytesOfNat 4 block ++ [1] ++ List.replicate 7 0)
  if (List.range 8).any fun j => valid j && s.rd (at_ j) 16 == hash then (false, s)
  else
    match lowest 8 fun j => !valid j with
    | some j => (true, write j)
    | none =>
      let old := (List.range 8).foldl (fun (best : Option Nat) j =>
        if (s.slotEntry p (at_ j)).2 ≠ 0 then best
        else
          match best with
          | some k => if (s.slotEntry p (at_ j)).1 < (s.slotEntry p (at_ k)).1 then some j else best
          | none => some j) none
      match old with
      | some j => (true, write j)
      | none => (false, s.count .srch 0xB8)

/-- PFX_INSERT_DONE (R244, Table 10-2): the pages are in, one slot is written per block, the entry is LIVE; or the source
answered PULL_NAK and the entry is freed. -/
def execPfxInsertDone (p : PartId) (ticket : Nat) (nak : Bool) (s : State) : Res :=
  .next (match s.srch.works.find? fun w => w.ticket == ticket && w.part == p && w.entry.isSome with
    | none => s
    | some w =>
      let i := w.entry.getD 0
      let e := s.entry p i
      let d := w.desc
      let comp := BV d 320 64
      let stop := fun (s : State) (status : Nat) =>
        (((s.dropWork p ticket).freeEntryPages e).setEntry p i (withBits e 0 5 0)).ringDone comp status 0
      let pages := (List.range (entLayers e * entPages e)).map (entBase e / 65536 + ·)
      if nak then stop s 0x05
      else if pages.any s.away then s
      else s.gather [(BV d 256 64, 16 * entPages e)] (fun s => stop s 0x03) fun s =>
        let tag := i + entGen e * 4096
        let r := (List.range (entPages e)).foldl (fun (acc : Nat × State) b =>
          let x := acc.2.indexBlock p tag b (acc.2.rd (BV d 256 64 + 16 * b) 16)
          (acc.1 + x.1.toNat, x.2)) (0, s)
        let s := r.2.entryLive p i e
        (s.dropWork p ticket).ringDone comp 0x00 r.1)

/-- A forwarded update is placed (R247): a store is answered now. -/
def State.forwardPlaced (s : State) (f : PoolFwd) : State :=
  let s := { s with srch := { s.srch with fwds := s.srch.fwds.erase f } }
  if f.op = 0x02 ∧ f.req.placeAck then s.respond 0x82 f.req 0 false false 0 [] else s

/-- POOL_FORWARD_PLACED (R247): a peer member has placed an update this device forwarded. -/
def execPoolForwardPlaced (region : Fin 256) (r : MemReq) (s : State) : Res :=
  .next (match s.srch.fwds.find? fun f => f.region == region.val && f.req == r with
    | none => s
    | some f => s.forwardPlaced f)

/-- Pool descriptor i: its place and content (R245). -/
def State.poolDesc (s : State) (i : Nat) : Nat × Nat :=
  let a := s.fldAddr .srch Reg.POOL_BASE_LO_BASE_LO Reg.POOL_BASE_HI_BASE_HI + 64 * i
  (a, s.rdNat a 64)

/-- A pool command is given (R248): POOL_BUSY while one runs. -/
def State.poolGo (s : State) (op : Nat) : State :=
  s.ifReady .srch fun s =>
    if s.flag .srch Reg.POOL_CMD_BUSY then s.err .srch 0x01
    else
      let s := (s.setFld .srch Reg.POOL_CMD_OP op).setFld .srch Reg.POOL_CMD_BUSY 1
      { s with srch := { s.srch with
          poolCmd := some (op, s.fld .srch Reg.POOL_CMD_REGION, s.fld .srch Reg.POOL_CMD_MEMBER) } }

/-- POOL_REBUILD (R248). -/
def execPoolRebuild (s : State) : Res := .next (s.poolGo 0)

/-- POOL_RESYNC (R248). -/
def execPoolResync (s : State) : Res := .next (s.poolGo 1)

/-- The bytes of one page of a rebuilt member: the survivor's of a mirror, the XOR of the others of a stripe (R248). What lies on
other devices is free. -/
def State.poolBytes (s : State) (d k off : Nat) : List Byte :=
  let from_ := if bits d 0 2 = 1 then [1 - k] else (List.range 9).filter (· ≠ k)
  if from_.all fun j => (poolMember d j).1 == s.node then
    from_.foldl (fun acc _ => xorBytes acc (s.rd off 65536)) (List.replicate 65536 0)
  else s.freeBytes 65536

/-- POOL_CMD_DONE (R248): the member's range is written at its target; RESULT, POOL_DONE, and DEGRADED cleared on success. Only a
target on this device changes its State Space. -/
def execPoolCmdDone (ok : Bool) (pages : Nat) (s : State) : Res :=
  .next (match s.srch.poolCmd with
    | none => s
    | some (op, region, member) =>
      let s := { s with srch := { s.srch with poolCmd := none } }
      let x := s.poolDesc region
      let d := x.2
      let k := if op = 0 then member else 1
      let target := if op = 0 then (s.fld .srch Reg.POOL_CMD_TGT_NODE) else (poolMember d 1).1
      let n := min pages (bits d 128 47 / 65536)
      let s := if target = s.node then
          s.each (List.range n) fun s j =>
            let off := bits d 64 47 + j * 65536
            (s.put off (s.poolBytes d k off)).draw
        else s
      let s := if ok then s.put x.1 (bytesOfNat 1 (bits (withBits d 3 1 0) 0 8)) else s.err .srch 0x02
      let s := (s.setFld .srch Reg.POOL_CMD_BUSY 0).setFld .srch Reg.POOL_CMD_RESULT (!ok).toNat
      (s.setFld .srch Reg.POOL_CMD_DONE_PAGES pages).irq .srch 0)

/-- The pool descriptors in force of which this device has a member: index, place, content, member. -/
def State.pools (s : State) : List (Nat × Nat × Nat × Nat) :=
  (List.range (s.fld .srch Reg.POOL_COUNT_COUNT)).filterMap fun i =>
    let x := s.poolDesc i
    let n := if bits x.2 0 2 = 1 then 2 else if bits x.2 0 2 = 2 then 9 else 0
    if bit x.2 2 then (lowest n fun k => (poolMember x.2 k).1 == s.node).map fun k => (i, x.1, x.2, k) else none

/-- A page of a dead writer is POISONED here and at the peer that took its updates (R251). -/
def State.leasePoison (s : State) (d k page : Nat) : State :=
  let s := match s.needLeaf page with
    | some s => s.poisonAny page
    | none => s
  let s := s.count .srch 0xE8
  match poolPeer d k (page * 65536) with
  | some j =>
    let m := poolMember d j
    if m.1 = s.node then s else s.send (.peerPoison m.1 m.2 page)
  | none => s

/-- A committed fence of a (node, partition) at the pools (R248, R251): a fenced peer member makes the descriptor DEGRADED, and
the survivor takes alone what waits for it; the leases of a fenced holder poison its pages and are released. -/
def State.poolFence (s : State) (node : Nat) (part : PartId) : State :=
  s.each s.pools fun s x =>
    let d := x.2.2.1
    let k := x.2.2.2
    let peers := if bits d 0 2 = 1 then [0, 1] else List.range 9
    let s := if peers.any fun j => j != k && poolMember d j == (node, part) then
        let s := ((s.put x.2.1 (bytesOfNat 1 (bits (withBits (s.rdNat x.2.1 1) 3 1 1) 0 8))).count .srch 0xE0).irq .srch 1
        s.each (s.srch.fwds.filter fun f =>
          f.region == x.1 && (poolPeer d k f.req.offset).map (poolMember d) == some (node, part)) State.forwardPlaced
      else s
    let at_ := bits d 64 47 + bits d 128 47
    let word := s.rdNat at_ 8
    if bit word 63 ∧ bits word 0 12 = node ∧ bits word 12 5 = part.val then
      let set := match s.srch.lease.find? fun e => e.2.1 == at_ with
        | some e => e.2.2
        | none => []
      let pages := if bit word 62 then (List.range (bits d 128 47 / 65536)).map (bits d 64 47 / 65536 + ·) else set
      let s := s.each pages fun s page => s.leasePoison d k page
      let s := s.put at_ (bytesOfNat 16 ((s.rdNat (at_ + 8) 8 + 1) % 2 ^ 64 * 2 ^ 64))
      let s := { s with srch := { s.srch with lease := s.srch.lease.filter fun e => e.2.1 != at_ } }
      if pages.isEmpty then s else s.irq .srch 2
    else s

end Sys2Proof.Machine
end

