-- ==== Sys2Proof/Machine/Quorum.lean ====
section
/-! DEFINITION. Fences and the quorum (R318 to R325, R329, R330). -/

namespace Sys2Proof.Machine
open Sys2Proof

/-- The partitions of a mask. -/
def partsOf (mask : Nat) : List PartId := allParts.filter fun p => bit mask p.val

/-- A register field of a mask with one bit set or cleared. -/
def State.setBit (s : State) (pg : Page) (f : Fld) (k : Nat) (b : Bool) : State := s.setFld pg f (withBits (s.fld pg f) k 1 b.toNat)

/-- QRM_FENCE_NOW: a local fence of the partitions named (R318, R319). -/
def execQrmFenceNow (mask : Word) (s : State) : Res :=
  .next (s.ifReady .qrm fun s => s.takeCauses (partsOf mask.toNat) 0x02)

/-- The FENCE record of event F6 (Tables 14-2, 14-4). -/
def State.fenceRecord (s : State) (p : PartId) (cause : Nat) : State :=
  let syn := List.flatten [[0x09, BitVec.ofNat 8 cause, 0, 0], bytesOfNat 4 (2 ^ p.val), bytesOfNat 8 s.epoch]
  s.record .qrm { severity := 3, syn := syn }

/-- The spare of QRM_SPARE that a replay goes to (R330): its index and partition. -/
def State.spare (s : State) : Option (Nat × PartId) :=
  (List.range 8).findSome? fun k =>
    let g : PartId := Fin.ofNat 32 (s.fld .qrm Reg.QRM_SPARE_PART k)
    if s.flag .qrm Reg.QRM_SPARE_VALID k && s.stableRole g 2 && (s.heldReqs g).isEmpty then some (k, g) else none

/-- Offset of the checkpoint of slot k of partition p (R329). -/
def State.ckptAt (s : State) (p : PartId) (k : Nat) : Nat :=
  s.fldAddr .qrm Reg.QRM_CKPT_BASE_LO_BASE_LO Reg.QRM_CKPT_BASE_HI_BASE_HI + p.val * 65536 + k * 64

/-- The spare's controller opens a slot from its checkpoint and posts the step program again, unless the ring writer has
placed the token at POS (R330). A slot whose own replay runs is not replayed again: its request ends with the fence. -/
def State.replaySlot (s : State) (p g : PartId) (k : Nat) (old : ReqSlot) : State :=
  let c := s.rdNat (s.ckptAt p k) 64
  let id := bits c 0 32
  match s.req id with
  | none => s
  | some r =>
    if ¬ bit c 32 ∨ r.endStatus.isSome ∨ old.reqId ≠ id ∨ ¬ old.valid ∨ old.replaying then s
    else
      let pri : Fin 4 := Fin.ofNat 4 (bits c 40 2)
      let pos := r.pos - r.outBuf.length
      let s := s.setRs g k
        { valid := true, group := old.group, basePri := pri, effPri := pri, cls := Fin.ofNat 16 (bits c 44 4),
          model := Fin.ofNat 16 (bits c 48 8), inGroup := old.inGroup, member := old.member, reqId := id
          replaying := decide (pos ≤ bits c 256 32) }
      let s := s.updReq id fun r => { r with
        genPart := some g, genSlot := k, st := if r.st = .opening then .opening else .running, pos := r.pos - r.outBuf.length, outBuf := [] }
      let s := s.count .qrm 0xB0
      if bits c 256 32 < pos then s
      else
        let log2 := s.lringLog2 g
        let tail := s.fld (.disp g) Reg.DISP_LRING_TAIL_TAIL
        let n := min (bits c 192 16) (2 ^ log2)
        let prog := bits c 128 64
        let s := s.each (List.range n) fun s i => s.put (s.launchAt g ((tail + i) % 2 ^ (log2 + 1))) (s.rd (prog + i * 32) 32)
        s.setFld (.disp g) Reg.DISP_LRING_TAIL_TAIL ((tail + n) % 2 ^ (log2 + 1))

/-- The requests of a partition fenced with cause REPLAY that have a replay: its VALID slots, a spare, and no Prompt role
(R330). -/
def State.replays (s : State) (p : PartId) (cause : Nat) : Option (Nat × PartId) :=
  if cause = 4 ∧ bit (s.fld .qrm Reg.QRM_REPLAY_MASK) p.val ∧ s.fld (.disp p) Reg.DISP_ROLE_CUR = 2 then s.spare else none

/-- Tiles, merge slots, Dispatcher, Sampler, engines and QPs of a partition reset without a completion (Tables 03-5, 04-6,
08-1, R270, R274); the journals freeze (R331). Move contexts and the programs of its tiles stay. -/
def State.resetUnits (s : State) (p : PartId) : State :=
  let s := s.each (tilesOf p) fun s t => (s.clearTile t).setTile t { (s.clearTile t).tile t with coming := [] }
  let s := (s.setPart p {}).setFld (.disp p) Reg.DISP_ENERGY_LEVEL_LEVEL_NJ 0
  let s := s.each ((List.range 512).map fun k => (Fin.ofNat 16384 (512 * p.val + k) : QpId)) State.qpReset
  let s := s.each [0, 1] fun s i =>
    let e := engOf p i
    s.setEng e { s.eng e with slots := [], trigs := [], frozen := true }
  s.setMover p { ctxs := (s.mover p).ctxs }

/-- The requests a fenced partition holds end with ABORTED_FAULT and FENCED (Table 14-4, F5): those it serves, and those
that wait in its Weir. Their undrawn tokens are lost with the Sampler; resident conversations are lost. -/
def State.endHeld (s : State) (p : PartId) : State :=
  let held := s.heldReqs p
  let s := s.each held fun s r =>
    (s.updReq r.reqId fun r => if r.genPart = some p then { r with outBuf := [] } else r).abortReq r.reqId 0x30 0x30
  let s := s.each (s.deferred p) fun s r => ((s.dropReq r.reqId).syncQueue p).pushRec r.tenant (recOf r 0x30 0x30 true)
  let kept := s.convs.filter fun v => v.part == p && v.st == .resident && !(s.openOf v.tenant v.convId).any fun r => r.endStatus.isNone
  s.each kept State.closeConv

/-- RSTC_CAUSE and its time (R346). -/
def State.resetCause (s : State) (cause inst : Nat) : State :=
  let s := (s.setFld .rstc Reg.RSTC_CAUSE_CAUSE cause).setFld .rstc Reg.RSTC_CAUSE_INSTANCE inst
  s.setFld .rstc Reg.RSTC_CAUSE_TIME_TIME s.now

/-- Event F3 to F6 of a fence (Table 14-4): flip-flop and mirror set, the units reset, held requests ended or replayed, the
role FENCED with TARGET forced to IDLE, and the FENCE record. It takes over from a block reset, and a committed fence is a
cause of Table 15-7 (R346). -/
def State.fence (s : State) (p : PartId) (cause : Nat) : State :=
  let q := s.qrm
  let s := { s with qrm := { q with fencing := q.fencing.filter fun f => f.1 != p.val } }
  let s := (s.setBit .qrm Reg.QRM_FENCE_DP_MASK p.val true).setBit .qrm Reg.QRM_FENCE_MIRROR_MASK p.val true
  let s := (s.count .qrm 0x88).irq .qrm 0
  let s := if cause = 1 then s.resetCause 8 p.val else s
  let s := s.each (List.flatten [[.disp p, .samp p, .move p, .admt p], (tilesOf p).map Page.tile]) fun s pg =>
    if s.fld pg Reg.PG_RST_STATUS = 0 then s else (s.setFld pg Reg.PG_RST_STATUS 0).setFld pg Reg.PG_READY_READY 1
  let slots := (s.part p).slots
  let spare := s.replays p cause
  let s := s.resetUnits p
  let s := match spare with
    | some (k, g) => (s.setFld .qrm Reg.QRM_SPARE_VALID 0 k).each slots fun s e => s.replaySlot p g e.1 e.2
    | none => s
  let s := s.endHeld p
  let s := (s.setFld (.disp p) Reg.DISP_ROLE_STATE 4).setFld (.disp p) Reg.DISP_ROLE_TARGET 0
  let s := if s.flag .qrm Reg.QRM_CTRL_GATE ∧ ¬ s.pwr.inMode.contains (.tileGate p) then
      { s with pwr := { s.pwr with inMode := .tileGate p :: s.pwr.inMode } }.each (tilesOf p) State.loseTile
    else s
  s.fenceRecord p cause

/-- FENCE_ASSERT: after any attach in progress ends, the fence is in force (R216, R319). -/
def execFenceAssert (p : PartId) (s : State) : Res :=
  .next (match s.qrm.fencing.find? fun f => f.1 == p.val with
    | none => s
    | some (_, cause) => if (s.mover p).attaching.isEmpty then s.fence p cause else s)

/-- A committed unfence of an own partition (R318, Table 01-5): it goes through the scrub to IDLE. -/
def State.unfence (s : State) (p : PartId) : State :=
  if s.fenced p then
    let s := (s.setBit .qrm Reg.QRM_FENCE_DP_MASK p.val false).setBit .qrm Reg.QRM_FENCE_MIRROR_MASK p.val false
    let s := ((s.count .qrm 0x90).setFld (.disp p) Reg.DISP_ROLE_STATE 2).setFld (.disp p) Reg.DISP_ROLE_TARGET 0
    let x := s.pwr
    { s with pwr := { x with inMode := x.inMode.filter (· ≠ LpUnit.tileGate p) } }.each (tilesOf p) State.loseTile
  else s

/-- The device takes part in the quorum. -/
def State.inQrm (s : State) : Bool := s.flag .qrm Reg.QRM_CTRL_EN

/-- A quorum message is acted on: the device takes part, and no copy of it came before (R320). -/
def State.qmsg (s : State) (h : QHdr) (f : State → State) : State :=
  if s.inQrm then s.once h f else s

/-- Send to the leader (Table 14-5). -/
def State.toLeader (s : State) (msg : Nat) (body : List Nat) : State :=
  if s.inQrm then
    match s.leader with
    | some n => s.quorumSend msg n body
    | none => s
  else s

/-- QRM_UNFENCE_REQ_WRITE (R320). -/
def execQrmUnfenceReqWrite (mask : Word) (s : State) : Res :=
  .next (s.ifReady .qrm fun s => s.toLeader 0x09 [mask.toNat])

/-- QRM_PC_HB: a partition controller's heartbeat (R321). -/
def execQrmPcHb (p : PartId) (s : State) : Res :=
  .next (s.ifReady .qrm fun s =>
    let q := s.qrm
    { s with qrm := { q with pcBeat := p.val :: q.pcBeat.filter (· ≠ p.val) } })

/-- PART_ALIVE (R321). -/
def State.partAlive (s : State) : Nat :=
  allParts.foldl (fun m p => if !s.fenced p && s.qrm.pcBeat.contains p.val then m + 2 ^ p.val else m) 0

/-- This device is an active witness. -/
def State.isWitness (s : State) : Bool := s.witnesses.contains s.node

/-- This device leads. -/
def State.leads (s : State) : Bool := s.leader == some s.node

/-- The committed table names partition k of a node. -/
def State.tabled (s : State) (node k : Nat) : Bool := Map.get 0 s.qrm.table (node * 32 + k) != 0

/-- Bits of a mask that the committed table does not name, for a node. -/
def State.notTabled (s : State) (node mask : Nat) : Nat :=
  (setBits 32 mask).foldl (fun m k => if s.tabled node k then m else m + 2 ^ k) 0

/-- Entries of masks by node, merged. -/
def mergeMasks (l : List (Nat × Nat)) : List (Nat × Nat) :=
  (l.map (·.1)).eraseDups.map fun n => (n, (l.filter fun e => e.1 == n).foldl (fun m e => Nat.lor m e.2) 0)

/-- A witness's vote (R322): a fence on 5 missed heartbeats, 5 clear bits or a FAULT_REPORT; an unfence on 5 heard. -/
def State.accepts (s : State) (d : QDecision) : Bool :=
  let q := s.qrm
  let fenceOk := fun (e : Nat × Word) =>
    let report := (q.reports.filter fun r => r.1 == e.1).foldl (fun m r => Nat.lor m r.2) 0
    Map.get 0 q.missed e.1 == 63 ||
      ((setBits 32 e.2.toNat).all fun k => Map.get 0 q.clear (e.1 * 32 + k) == 5) ||
      (setBits 32 e.2.toNat).all fun k => bit report k
  let unfenceOk := fun (e : Nat × Word) => Map.get 0 q.missed e.1 == 32
  d.fence.all fenceOk && d.unfence.all unfenceOk

/-- Witness replacements of a commit (R322): each active witness whose 32 partitions are all fenced by it goes to the first
VALID spare that is not fenced. -/
def State.replacements (s : State) (fence : List (Nat × Word)) : List (Fin 15 × Fin 15) :=
  let active := setBits 15 (s.fld .qrm Reg.QRM_WIT_ACTIVE_MASK)
  let gone := fun (n : Nat) => (List.range 32).all fun k => s.tabled n k || fence.any fun e => e.1 == n && bit e.2.toNat k
  let out := active.filter fun i => (s.witnessNode i).any gone
  let free := (List.range 15).filter fun i => decide (7 ≤ i) && !active.contains i && (s.witnessNode i).any fun n => !gone n
  (out.zip free).map fun e => (Fin.ofNat 15 e.1, Fin.ofNat 15 e.2)

/-- Body of PROPOSE and COMMIT (Table 14-5). -/
def decisionBody (d : QDecision) : List Nat :=
  List.flatten
    [[d.epoch, d.fence.length, d.unfence.length, d.replace.length], d.fence.flatMap fun e => [e.1, e.2.toNat],
     d.unfence.flatMap fun e => [e.1, e.2.toNat], d.replace.flatMap fun e => [e.1.val, e.2.val]]

/-- The leader proposes what is suspected or asked for, where it accepts that itself and no proposal is open (R322). -/
def State.propose (s : State) : State :=
  let q := s.qrm
  if ¬ s.inQrm ∨ ¬ s.leads ∨ q.prop.isSome then s
  else
    let fence := ((mergeMasks q.suspected).map fun e => (e.1, BitVec.ofNat 32 (s.notTabled e.1 e.2))).filter fun e => e.2 != 0
    let unfence := ((mergeMasks q.unfenceReqs).map fun e =>
      (e.1, BitVec.ofNat 32 (e.2 - Nat.land e.2 (s.notTabled e.1 e.2)))).filter fun e => e.2 != 0
    let d : QDecision := { epoch := s.epoch + 1, fence := fence, unfence := unfence, replace := s.replacements fence }
    if (fence.isEmpty && unfence.isEmpty) || !s.accepts d then s
    else
      { s with qrm := { q with prop := some (d, []) } }.each s.witnesses fun s n => s.quorumSend 0x05 n (decisionBody d)

/-- The leader suspects partitions of a node. -/
def State.suspect (s : State) (node mask : Nat) : State :=
  let q := s.qrm
  { s with qrm := { q with suspected := q.suspected ++ [(node, mask)] } }.propose

/-- A witness that has missed a node's 5th heartbeat in a row, or seen a bit clear for the 5th time, tells the leader
(R321). -/
def State.sendSuspect (s : State) (node mask : Nat) : State :=
  if s.notTabled node mask = 0 then s else s.toLeader 0x03 [node, mask]

/-- The heartbeats of an interval as a witness judges them (R321). -/
def State.judgeNodes (s : State) : State :=
  let heard := s.qrm.heard
  let s := s.each s.qrm.missed fun s e =>
    let hit := heard.contains e.1
    let h := 32 + (e.2 % 32 * 2 + (if hit then 0 else 1)) % 32
    let q := s.qrm
    let s := { s with qrm := { q with missed := Map.set 0 q.missed e.1 h } }
    let s := if hit then s else s.count .qrm 0x98
    if h = 63 ∧ e.2 ≠ 63 then s.sendSuspect e.1 4294967295 else s
  let q := s.qrm
  { s with qrm := { q with heard := [] } }

/-- The HB_ACKs of an interval (R323): WIT_SEEN, IN_QUORUM, and the ISOLATED fence after 3 intervals below 4. -/
def State.judgeAcks (s : State) : State :=
  let q := s.qrm
  let n := q.acks.length
  let s := s.setFld .qrm Reg.QRM_STAT_WIT_SEEN (min n 7)
  if 4 ≤ n then { s with qrm := { q with acks := [], badIntervals := 0 } }
  else
    let s := { s with qrm := { q with acks := [], badIntervals := min 4 (q.badIntervals + 1) } }
    let s := s.setFld .qrm Reg.QRM_STAT_IN_QUORUM 0
    if q.badIntervals = 2 then
      (((s.setFld .qrm Reg.QRM_STAT_ISOLATED 1).err .qrm 0x03).irq .qrm 2).takeCauses allParts 0x06
    else s

/-- HEARTBEAT_INTERVAL: 100 µs pass (R321, R323). -/
def execHeartbeatInterval (s : State) : Res :=
  .next (if ¬ s.inQrm then s
    else
      let s := s.judgeAcks
      let s := if s.isWitness then s.judgeNodes else s
      let alive := s.partAlive
      let s := s.each s.witnesses fun s n => s.quorumSend 0x01 n [alive]
      let q := s.qrm
      let q := { q with pcBeat := [], peerEpoch := 0 }
      { s with qrm := q }.propose)

/-- HEARTBEAT at a witness (R321, R322): the node is heard, its clear bits are counted, and HB_ACK answers. -/
def execHeartbeat (h : QHdr) (alive : Word) (s : State) : Res :=
  .next (s.qmsg h fun s =>
    if ¬ s.isWitness then s
    else
      let q := s.qrm
      let q := { q with
        heard := h.src :: q.heard.filter (· ≠ h.src)
        missed := if Map.get 0 q.missed h.src = 0 then Map.set 0 q.missed h.src 32 else q.missed }
      let now := (List.range 32).map fun k =>
        (k, if bit alive.toNat k then 0 else min 5 (Map.get 0 q.clear (h.src * 32 + k) + 1))
      let hot := (now.filter fun e => e.2 == 5 && Map.get 0 q.clear (h.src * 32 + e.1) == 4).foldl (fun m e => m + 2 ^ e.1) 0
      let clear := now.foldl (fun m e => Map.set 0 m (h.src * 32 + e.1) e.2) q.clear
      let s := { s with qrm := { q with clear := clear } }.quorumSend 0x02 h.src []
      if hot = 0 then s else s.sendSuspect h.src hot)

/-- Ask for the commits that are missing (R323). -/
def State.syncReq (s : State) : State := (s.count .qrm 0xB8).toLeader 0x0B [s.epoch]

/-- HB_ACK at a device (R323): 4 active witnesses in one interval set IN_QUORUM; a higher epoch at epoch 0 asks for SYNC. -/
def execHbAck (h : QHdr) (s : State) : Res :=
  .next (s.qmsg h fun s =>
    if ¬ s.witnesses.contains h.src then s
    else
      let q := s.qrm
      let acks := h.src :: q.acks.filter (· ≠ h.src)
      let lost := s.epoch == 0 && decide (0 < h.epoch) && q.peerEpoch == 0
      let s := { s with qrm := { q with acks := acks, peerEpoch := max q.peerEpoch h.epoch } }
      let s := if 4 ≤ acks.length then s.setFld .qrm Reg.QRM_STAT_IN_QUORUM 1 else s
      if lost then s.syncReq else s)

/-- SUSPECT at the leader (R321, R322). -/
def execSuspect (h : QHdr) (node : Nat) (mask : Word) (s : State) : Res :=
  .next (s.qmsg h fun s => if s.leads then s.suspect node mask.toNat else s)

/-- FAULT_REPORT (R321, R322, R328): an immediate suspicion of the partitions of the node it names: the sender's own, or those of
a member that a digest found in the minority. -/
def execFaultReport (h : QHdr) (who : Nat × Word) (cause : Fin 8) (s : State) : Res :=
  .next (s.qmsg h fun s =>
    if cause = 0 then s
    else
      let q := s.qrm
      let s := { s with qrm := { q with reports := q.reports ++ [(who.1, who.2.toNat)] } }
      if s.leads then s.suspect who.1 who.2.toNat else s)

/-- PROPOSE at a witness (R322): one vote for each epoch number; a second proposal is rejected. -/
def execPropose (h : QHdr) (d : QDecision) (s : State) : Res :=
  .next (s.qmsg h fun s =>
    if ¬ s.isWitness then s
    else
      let q := s.qrm
      let ok := !q.voted.contains d.epoch && s.accepts d
      { s with qrm := { q with voted := d.epoch :: q.voted.filter (· ≠ d.epoch) } }.quorumSend 0x06 h.src [d.epoch, ok.toNat])

/-- Apply a commit (R322, R323, Table 14-4): the table, the cached lines (R178) and pooled regions (R248, R251) of what is
fenced, this device's own fences and unfences, the witnesses replaced, the epoch. -/
def State.applyCommit (s : State) (d : QDecision) : State :=
  let s := s.each d.fence fun s e =>
    s.each (partsOf e.2.toNat) fun s p =>
      let q := s.qrm
      let k := e.1 * 32 + p.val
      let s := if Map.get 0 q.table k = 0 then { s with qrm := { q with table := Map.set 0 q.table k (d.epoch + 1) } } else s
      let s := { s with rrc := s.rrc.filter fun l => !(l.node == e.1 && l.gpart == p) }
      let s := s.poolFence e.1 p
      if e.1 = s.node then s.takeCause p 0x01 else s
  let s := s.each d.unfence fun s e =>
    s.each (partsOf e.2.toNat) fun s p =>
      let q := s.qrm
      let s := { s with qrm := { q with table := Map.set 0 q.table (e.1 * 32 + p.val) 0 } }
      if e.1 = s.node then s.unfence p else s
  let s := s.each d.replace fun s e =>
    (s.setBit .qrm Reg.QRM_WIT_ACTIVE_MASK e.1.val false).setBit .qrm Reg.QRM_WIT_ACTIVE_MASK e.2.val true
  let s := ((s.passMembers.setEpoch d.epoch).count .qrm 0x80).irq .qrm 3
  let q := s.qrm
  { s with qrm := { q with
      commits := (d :: q.commits).take 4096
      prop := q.prop.filter fun x => decide (d.epoch < x.1.epoch)
      suspected := q.suspected.filter fun e => s.notTabled e.1 e.2 != 0
      unfenceReqs := q.unfenceReqs.filter fun e => e.2 != s.notTabled e.1 e.2
      reports := q.reports.filter fun e => s.notTabled e.1 e.2 != 0 } }

/-- The nodes a leader knows of: those whose heartbeats it has heard, and the active witnesses. -/
def State.knownNodes (s : State) : List Nat :=
  ((s.qrm.missed.map (·.1)) ++ s.witnesses).eraseDups.filter (· ≠ s.node)

/-- VOTE at the leader (R322): 4 of the active witnesses, the leader included, commit. -/
def execVote (h : QHdr) (epoch : Nat) (accept : Bool) (s : State) : Res :=
  .next (s.qmsg h fun s =>
    match s.qrm.prop with
    | none => s
    | some (d, l) =>
      if d.epoch ≠ epoch ∨ ¬ accept ∨ ¬ s.witnesses.contains h.src ∨ ¬ s.leads then s
      else
        let l := h.src :: l.filter (· ≠ h.src)
        if 4 ≤ l.length ∧ l.contains s.node then
          let nodes := s.knownNodes
          let s := (s.applyCommit d).each nodes fun s n => s.quorumSend 0x07 n (decisionBody d)
          let q := s.qrm
          { s with qrm := { q with unacked := q.unacked ++ nodes.map fun n => (n, d.epoch, 1) } }.propose
        else
          let q := s.qrm
          { s with qrm := { q with prop := some (d, l) } })

/-- COMMIT at a device (R322, R323): applied as the next epoch and acknowledged; any other epoch asks for SYNC, and one
already applied is acknowledged again. -/
def execCommit (h : QHdr) (d : QDecision) (s : State) : Res :=
  .next (s.qmsg h fun s =>
    if d.epoch = s.epoch + 1 then (s.applyCommit d).quorumSend 0x08 h.src []
    else if d.epoch ≤ s.epoch then (s.quorumSend 0x08 h.src []).syncReq
    else s.syncReq)

/-- COMMIT_ACK at the leader (R322): commits up to the epoch its header carries are no longer resent. -/
def execCommitAck (h : QHdr) (s : State) : Res :=
  .next (s.qmsg h fun s =>
    let q := s.qrm
    { s with qrm := { q with unacked := q.unacked.filter fun e => !(e.1 == h.src && decide (e.2.1 ≤ h.epoch)) } })

/-- COMMIT_RESEND_TIMER (R322): unacknowledged commits are sent again; after 20 sends the device is suspected. -/
def execCommitResendTimer (s : State) : Res :=
  .next (if ¬ s.inQrm then s
    else
      s.each s.qrm.unacked fun s e =>
        let q := s.qrm
        if 20 ≤ e.2.2 then
          { s with qrm := { q with unacked := q.unacked.filter (· ≠ e) } }.suspect e.1 4294967295
        else
          match q.commits.find? fun d => d.epoch == e.2.1 with
          | none => s
          | some d =>
            { s with qrm := { q with unacked := q.unacked.map fun x => if x = e then (e.1, e.2.1, e.2.2 + 1) else x } }.quorumSend
              0x07 e.1 (decisionBody d))

/-- UNFENCE_REQ at the leader (R322). -/
def execUnfenceReq (h : QHdr) (mask : Word) (s : State) : Res :=
  .next (s.qmsg h fun s =>
    let q := s.qrm
    if s.leads then { s with qrm := { q with unfenceReqs := q.unfenceReqs ++ [(h.src, mask.toNat)] } }.propose else s)

/-- SYNC_RESP messages of a table, 48 entries each, the last one marked (R323). -/
def syncBodies (l : List (Nat × Nat)) : List (List Nat) :=
  let c := if l.isEmpty then [[]] else chunks 48 l.length l
  c.zipIdx.map fun e =>
    (if e.2 + 1 = c.length then 1 else 0) :: e.1.length :: e.1.flatMap fun x => [x.1 / 32, x.1 % 32, x.2 - 1]

/-- SYNC_REQ at the leader (R323): the commits that are lacking, or the fenced list of the current epoch. -/
def execSyncReq (h : QHdr) (last : Nat) (s : State) : Res :=
  .next (s.qmsg h fun s =>
    if ¬ s.leads ∨ s.epoch ≤ last then s
    else if last = 0 ∨ last + 4096 < s.epoch then
      s.each (syncBodies s.qrm.table) fun s b => s.quorumSend 0x0C h.src b
    else
      s.each ((s.qrm.commits.filter fun d => decide (last < d.epoch)).reverse) fun s d =>
        s.quorumSend 0x07 h.src (decisionBody d))

/-- SYNC_RESP at a device that lags (R323): after the last message it adopts the list and the epoch. -/
def execSyncResp (h : QHdr) (entries : List (Nat × PartId × Nat)) (final : Bool) (s : State) : Res :=
  .next (s.qmsg h fun s =>
    let q := s.qrm
    let all := q.syncBuf ++ entries
    if ¬ final then { s with qrm := { q with syncBuf := all } }
    else
      let old := q.table
      let table := all.foldl (fun (m : Map Nat) e => Map.set 0 m (e.1 * 32 + e.2.1.val) (e.2.2 + 1)) []
      let s := { s with qrm := { q with syncBuf := [], table := table } }
      let s := (s.setEpoch h.epoch).each all fun s e =>
        let s := { s with rrc := s.rrc.filter fun l => !(l.node == e.1 && l.gpart == e.2.1) }
        let s := if Map.get 0 old (e.1 * 32 + e.2.1.val) = 0 then s.poolFence e.1 e.2.1 else s
        if e.1 = s.node then s.takeCause e.2.1 0x01 else s
      let s := s.each allParts fun s p =>
        let k := s.node * 32 + p.val
        if Map.get 0 old k ≠ 0 ∧ Map.get 0 table k = 0 then s.unfence p else s
      (s.passMembers.err .qrm 0x04).irq .qrm 3)

/-- FENCE_COMPARE_TICK (R324, R325): a difference on two compares in a row is recorded, the mirror rewritten from the data
path, and a partition of the committed table whose flip-flop is clear is fenced with cause DIVERGE. The record's SEVERITY
and the place of the mirror's mask in its syndrome are not stated: the first is free, the second follows the epoch. -/
def execFenceCompareTick (s : State) : Res :=
  let dp := s.fld .qrm Reg.QRM_FENCE_DP_MASK
  let mirror := s.fld .qrm Reg.QRM_FENCE_MIRROR_MASK
  let q := s.qrm
  .next (
    if dp = mirror then { s with qrm := { q with diverged := false } }
    else if ¬ q.diverged then { s with qrm := { q with diverged := true } }
    else
      let s := { s with qrm := { q with diverged := false } }
      let s := ((s.err .qrm 0x02).irq .qrm 1).count .qrm 0xA0
      let syn := List.flatten [[0x09, 0x07, 0, 0], bytesOfNat 4 dp, bytesOfNat 8 s.epoch, bytesOfNat 4 mirror]
      let s := s.draw.record .qrm { severity := s.freeNat 2, code := 0x02, syn := syn }
      let s := s.setFld .qrm Reg.QRM_FENCE_MIRROR_MASK dp
      s.takeCauses (allParts.filter fun p => s.tabled s.node p.val && !s.fenced p) 0x07)

end Sys2Proof.Machine
end

