-- ==== Sys2Proof/Machine/Reset.lean ====
section
/-! DEFINITION. Resets, clocks, bring-up, sync inputs and fabric-global time (R341, R343 to R351, R408). -/

namespace Sys2Proof.Machine
open Sys2Proof

/-- A warm reset with a cause reaches a page (Table 15-7): the memory and TIER pages and those of VDD_AON are kept, PCIE under a
DEV_RST too. -/
def warmReaches (cause : Nat) (pg : Page) : Bool :=
  match pg.kind with
  | .tier => false | .bas => false | .shl => false | .deep => false
  | .rstc => false | .pwr => false | .clk => false | .sync => false | .time => false
  | .pcie => cause != 6
  | _ => true

/-- A BAR0 address belongs to what a predicate on pages picks; MSI-X structures go with PCIE. -/
def inPages (p : Page → Bool) (a : Nat) : Bool :=
  match Page.at a with
  | some pg => p pg
  | none => p .pcie

/-- Registers and counters of the pages a predicate picks return to their reset values (R305, R344). -/
def State.resetPages (s : State) (p : Page → Bool) : State :=
  { s with
    regs := s.regs.filter fun e => !inPages p e.1, cnt := s.cnt.filter fun e => !inPages p e.1
    shadow := s.shadow.filter fun e => !inPages p e.1 }

/-- What a word at page offset o holds after a block reset of its page: PG_ERR, PG_CTRL.LOCK and the snapshot's sequence and
time keep their values (R305, R382, R384), the rest takes its reset value r. -/
def keptWord (o : Nat) (v r : Word) : Word :=
  if o = 0x18 ∨ o = 0x44 ∨ o = 0x48 ∨ o = 0x4C then v
  else if o = 0x08 then (r &&& ~~~1) ||| (v &&& 1)
  else r

/-- Registers of the pages a predicate picks return to their reset values as a block reset has it: counters and their snapshot
stay (R305, R382). -/
def State.blockPagesReset (s : State) (p : Page → Bool) : State :=
  let listed := s.regs.filter fun e => inPages p e.1
  let t := { s with regs := s.regs.filter fun e => !inPages p e.1 }
  t.each listed fun t e => t.setWord e.1 (keptWord (e.1 % 4096) (s.word e.1) (Reg.resetWord s.fuses.binB e.1))

/-- The device is held in a reset that a pin or a thermal trip holds (R345, R348). -/
def State.heldInReset (s : State) : Bool :=
  let r := s.rst
  !r.pwrGood || r.resetLow || r.thermHeld || (r.perstLow && !s.flag .rstc Reg.RSTC_CTRL_PERST_SCOPE)

/-- What the ledger's pages show of the MRAM (R367, R368). -/
def State.ledgerShow (s : State) : State :=
  let l := s.ledger
  let next := match l.recs with
    | r :: _ => BV r 0 48 + 1
    | [] => 0
  let s := (s.setFld .ledg Reg.LEDG_STAT_RO l.readOnly.toNat).setFld .ledg Reg.LEDG_STAT_SPARES l.spares
  let s := s.setFld .ledg Reg.LEDG_STAT_SEQ_END (if next = 2 ^ 48 - 1 then 1 else 0)
  s.setFld .ledg Reg.LEDG_SEQ_NEXT next

/-- What needs nothing but KCLK is ready once no reset is held (R349): DEV, PIN, LEDG and UART. The straps show as last
sampled (R408). -/
def State.restart_ (s : State) : State :=
  if s.heldInReset then s
  else
    let s := s.each [.dev, .pin, .ledg, .uart] fun s pg => s.setFld pg Reg.PG_READY_READY 1
    (s.setFld .dev Reg.DEV_STRAP_VALUE s.rst.straps).ledgerShow

/-- The Wellhead as a warm reset leaves it: flash, slot states, what the ledger keeps of them, and the image buffer in the
Shallows stay. -/
def Wlh.afterReset (w : Wlh) : Wlh :=
  { flash := w.flash, flashSize := w.flashSize, stA := w.stA, stB := w.stB, triesA := w.triesA, triesB := w.triesB, sectors := w.sectors,
    rcvBuf := w.rcvBuf }

/-- A cold reset (POR, PWR_GOOD; Table 15-7): every volatile thing is lost. -/
def State.coldReset (s : State) (cause : Nat) : State :=
  let t := State.reset
  let l := s.ledger
  let r := s.rst
  let w := s.wlh.afterReset
  let s := { t with
    fresh := s.fresh, out := s.out, pending := s.pending, fuses := s.fuses, unreached := s.unreached, wlh := { w with rcvBuf := [] },
    ledger := { l with writing := [] }, rst := { resetLow := r.resetLow, perstLow := r.perstLow } }
  s.setFld .rstc Reg.RSTC_CAUSE_CAUSE cause

/-- A warm reset (R344, R345). -/
def State.warmReset (s : State) (cause : Nat) : State :=
  let pci := cause != 6
  let next := s.fld .wlh Reg.WLH_IMG_CTRL_RECOVERY_NEXT
  let s := s.keepHeld fun h => h.src == .host && !pci
  let t := s.tier
  let s := { s with
    tier := { t with passes := [], passQueue := [], markers := [], answers := [] }
    reqs := [], convs := [], movers := [], parts := [], tiles := [], engines := [], qps := [] }
  let s := s.each (t.migs.filter fun m => m.kind != .localMove) fun s m => s.abortMig m.page m 1
  let keepLp := fun (u : LpUnit) => match u with
    | .slice _ => true
    | .stack _ => true
    | .channel _ => true
    | _ => false
  let tens := if pci then [] else s.tenants.map fun e => (e.1, { e.2 with p := {}, g := {}, waiting := [], refilled := s.now })
  let w := s.wlh
  let r := s.rst
  let pw := s.pwr
  let s := { s with
    sram := [], sramBad := [], regions := [], rrc := [], ports := [], qps := [], engines := [], movers := []
    finj := {}, srch := {}, units := [], digs := [], elog := {}, qrm := {}, uart := {}
    tenants := tens, pcie := if pci then {} else s.pcie, wlh := w.afterReset
    rst := { r with waiting := none, quiesceAt := [] }
    pwr := { pw with inMode := pw.inMode.filter keepLp, waking := pw.waking.filter keepLp } }
  let s := s.resetPages (warmReaches cause)
  let s := s.setFld .wlh Reg.WLH_IMG_CTRL_RECOVERY_NEXT next
  let s := (s.count .rstc 0x98).resetCause cause 0
  s.restart_

/-- Take a reset of the device. -/
def State.takeReset (s : State) (cause : Nat) : State := if cause ≤ 2 then s.coldReset cause else s.warmReset cause

/-- A device reset arrives (R346): held while a ledger write is under way, and of two that wait the higher row is taken. -/
def State.deviceReset (s : State) (cause : Nat) : State :=
  if s.ledger.writing ≠ [] then
    let r := s.rst
    match r.waiting with
    | some c => { s with rst := { r with waiting := some (min c cause) } }
    | none => { s with rst := { r with waiting := some cause } }.count .rstc 0x90
  else s.takeReset cause

/-- POWER_ON_RESET (R344). -/
def execPowerOnReset (s : State) : Res := .next (s.coldReset 1)

/-- PWR_GOOD_RISE (R349): KCLK and MCLK and every PLL lock, and the pages that need nothing else are ready. -/
def execPwrGoodRise (s : State) : Res :=
  .next (
    if s.rst.pwrGood then s
    else
      let r := s.rst
      let s := { s with rst := { r with pwrGood := true, lost := [] } }
      let s := s.setFld .clk Reg.CLK_STAT_LOCK 127
      let s := s.each [.clk, .rstc, .time, .pwr, .sync] fun s pg => s.setFld pg Reg.PG_READY_READY 1
      s.restart_)

/-- PWR_GOOD_FALL (R344): as POR, after a ledger write under way (R346). -/
def execPwrGoodFall (s : State) : Res :=
  .next (if s.rst.pwrGood then
      let r := s.rst
      { s with rst := { r with pwrGood := false } }.deviceReset 2
    else s)

/-- RESET_N_ASSERT (R344, R345). -/
def execResetNAssert (s : State) : Res :=
  .next (if s.rst.resetLow then s
    else
      let r := s.rst
      { s with rst := { r with resetLow := true } }.deviceReset 3)

/-- Latch the straps (R407, R408). -/
def State.latchStraps (s : State) (straps : BitVec 12) : State :=
  let r := s.rst
  { s with rst := { r with straps := straps.toNat } }.setFld .dev Reg.DEV_STRAP_VALUE straps.toNat

/-- RESET_N_RELEASE (R408): the straps are sampled and the device restarts. -/
def execResetNRelease (straps : BitVec 12) (s : State) : Res :=
  .next (if s.rst.resetLow then
      let r := s.rst
      let s := { s with rst := { r with resetLow := false } }
      if s.rst.pwrGood then (s.latchStraps straps).restart_ else s
    else s)

/-- STRAP_SAMPLE: 100 µs after PWR_GOOD rises, unless RESET_N is low (R408). -/
def execStrapSample (straps : BitVec 12) (s : State) : Res :=
  .next (if s.rst.pwrGood ∧ ¬ s.rst.resetLow then s.latchStraps straps else s)

/-- PERST_ASSERT (R344): as RESET_N, or PCIe only with PERST_SCOPE set. -/
def execPerstAssert (s : State) : Res :=
  .next (if s.rst.perstLow then s
    else
      let r := s.rst
      let s := { s with rst := { r with perstLow := true } }
      if s.flag .rstc Reg.RSTC_CTRL_PERST_SCOPE then
        let s := s.keepHeld fun h => h.src != .host
        let s := { s with
          pcie := {}
          tenants := s.tenants.map fun (e : Nat × Tenant) => (e.1, { ({} : Tenant) with p := e.2.p, g := e.2.g, refilled := e.2.refilled, waiting := e.2.waiting }) }
        (s.resetPages fun pg => pg == Page.pcie).resetCause 4 0
      else s.deviceReset 4)

/-- PERST_DEASSERT (R349): the link trains and PCIE is ready. -/
def execPerstDeassert (s : State) : Res :=
  .next (if s.rst.perstLow then
      let r := s.rst
      let s := { s with rst := { r with perstLow := false } }.restart_
      if s.heldInReset then s else s.setFld .pcie Reg.PG_READY_READY 1
    else s)

/-- DEV_RST (R344, R352): key 0xD5 starts a warm reset; another records KEY_BAD. -/
def execDevRst (key : Byte) (s : State) : Res :=
  .next (s.ifReady .rstc fun s => if key = 0xD5 then s.deviceReset 6 else s.err .rstc 0x02)

/-- THERMAL_TRIP (R341): 115 °C or more, in units of 0.125 °C, asserts THERMTRIP_N and takes the thermal trip reset. -/
def execThermalTrip (temp : Int) (sensor : Fin 256) (s : State) : Res :=
  .next (
    let s := s.setTemp temp sensor
    if temp < 920 ∨ s.rst.thermHeld then s
    else
      let r := s.rst
      ({ s with rst := { r with thermHeld := true } }.send (.thermtrip true)).deviceReset 7)

/-- THERM_RELEASE (R345): every sensor reads below RELEASE_C. -/
def execThermRelease (temp : Int) (s : State) : Res :=
  .next (if s.rst.thermHeld ∧ temp < s.fld .rstc Reg.RSTC_THERM_RELEASE_C * 8 then
      let r := s.rst
      ({ s with rst := { r with thermHeld := false } }.send (.thermtrip false)).restart_
    else s)

/-- Index of a PLL's clock in Table 15-6. -/
def pllIndex : Pll → Nat
  | .tclk _ => 0 | .mclk => 1 | .hclk _ => 2 | .dclk _ => 3 | .fclk => 4 | .pclk => 5 | .kclk => 6

/-- The pages of the units a PLL feeds, other than KCLK's and MCLK's (Table 15-6). -/
def pllPages : Pll → List Page
  | .tclk q => (List.range 64).map fun k => .tile (Fin.ofNat 256 (q.val * 64 + k))
  | .hclk i => [.bas i]
  | .dclk c => [.deep c]
  | .fclk => allPorts.map Page.port ++ allEngs.map Page.feng
  | .pclk => [.pcie]
  | .mclk => []
  | .kclk => []

/-- PLL_LOCK_LOSS (R343): KCLK and MCLK take a warm reset with cause WDOG; another stops the units it feeds. -/
def execPllLockLoss (l : Pll) (s : State) : Res :=
  .next (
    if l ∈ s.rst.lost then s
    else
      let r := s.rst
      let s := { s with rst := { r with lost := l :: r.lost } }
      let s := ((s.setBit .clk Reg.CLK_STAT_LOCK (pllIndex l) false).count .clk 0x80).irq .clk 0
      match l with
      | .mclk => s.deviceReset 5
      | .kclk => s.deviceReset 5
      | _ => s.each (pllPages l) fun s pg => s.setFld pg Reg.PG_READY_READY 0)

/-- A unit was usable apart from its clock: memory online, link up, partition ready. -/
def State.usable (s : State) (pg : Page) : Bool :=
  match pg with
  | .bas _ => s.flag pg (memOnline pg)
  | .deep _ => s.flag pg (memOnline pg)
  | .port _ => s.flag pg Reg.PORT_STAT_LINK_UP
  | .tile t => s.ready (.disp (partOf t))
  | .pcie => !s.rst.perstLow
  | _ => true

/-- PLL_RELOCK (R343): the bit of CLK_STAT.LOCK is set once every PLL of the clock has lock, and the units are ready again. -/
def execPllRelock (l : Pll) (s : State) : Res :=
  .next (
    if l ∈ s.rst.lost then
      let r := s.rst
      let lost := r.lost.filter (· ≠ l)
      let s := { s with rst := { r with lost := lost } }
      let s := if lost.any fun x => pllIndex x == pllIndex l then s else s.setBit .clk Reg.CLK_STAT_LOCK (pllIndex l) true
      s.each ((pllPages l).filter s.usable) fun s pg => s.setFld pg Reg.PG_READY_READY 1
    else s)

/-- A write that would end a fence is ignored (R324). -/
def State.unfenceDenied (s : State) : State := (s.err .qrm 0x01).count .qrm 0xA8

/-- BLOCK_RESET_REQ: PG_RST.REQ written with 1 (R347, Table 15-9). -/
def execBlockResetReq (pg : Page) (s : State) : Res :=
  .next (s.ifReady pg fun s =>
    if (partOfPage pg).any fun p => s.fenced p then s.unfenceDenied
    else if pg.rstKind ≠ 1 then s.err .rstc 0x01
    else if s.fld pg Reg.PG_RST_STATUS ≠ 0 then s
    else
      let s := (s.setFld pg Reg.PG_RST_TIMED_OUT 0).setFld pg Reg.PG_RST_STATUS 1
      let r := s.rst
      { s with rst := { r with quiesceAt := Map.set 0 r.quiesceAt pg.base (s.now + 1) } }.setFld pg Reg.PG_READY_READY 0)

/-- A quiescing block is idle (Table 15-9). -/
def State.blockIdle (s : State) (pg : Page) : Bool :=
  let quiet := fun (t : TileId) => (s.tile t).slots.all fun e => e.2.st != .running
  match pg with
  | .tile t => quiet t
  | .disp p => (tilesOf p).all quiet && ((s.mover p).ctxs.all fun e => e.2.state != 3) &&
      [0, 1].all fun i => (s.eng (engOf p i)).slots.isEmpty
  | .feng e => (s.eng e).slots.isEmpty
  | .port n => (s.port n).queues.isEmpty && (s.port n).held.isEmpty
  | .srch => s.srch.works.isEmpty && s.srch.poolCmd.isNone
  | .uart => s.uart.tx.isEmpty
  | _ => true

/-- An engine's outstanding requests are discarded; their responses will be dropped (R347). A piece of a DMA task's transfer
among them ends as one that times out (DESIGN CHOICE, notes/assumptions/56). -/
def State.dropOutst (s : State) (e : EngId) : State :=
  let x := s.eng e
  let s := s.setEng e { x with slots := [], dropped := x.slots.map (·.1) ++ x.dropped }
  s.each x.slots fun s o => match o.2 with
    | some y => match y.owner with
      | .dma _ _ _ _ => s.deliver e o.1 y.owner y.kind y.req 0x11 []
      | _ => s
    | none => s

/-- The pages of a block that PG_RST resets (R347): a DISP page stands for its whole partition. -/
def blockPages (pg : Page) : Page → Bool :=
  match pg with
  | .disp p => fun x =>
    match x with
    | .disp q => q == p
    | .samp q => q == p
    | .move q => q == p
    | .admt q => q == p
    | .tile t => partOf t == p
    | _ => false
  | _ => fun x => x == pg

/-- The block of a page is reset (R347): its registers as `blockPagesReset` leaves them, work in progress discarded. -/
def State.blockReset (s : State) (pg : Page) : State :=
  let rst := s.fld pg Reg.PG_RST_TIMED_OUT
  let s := match pg with
    | .tile t => s.clearTile t
    | .disp p =>
      let s := s.each (tilesOf p) fun s t =>
        { (s.clearTile t).setTile t {} with
          sram := Map.clear s.sram (sramAddr t 0) 2097152, sramBad := Map.clear s.sramBad (sramAddr t 0) 2097152 }
      let s := ((s.setPart p {}).setMover p {}).each [0, 1] fun s i => s.dropOutst (engOf p i)
      { s with
        reqs := s.reqs.map fun (r : Req) => if r.genPart = some p then { r with outBuf := [] } else r
        convs := s.convs.filter fun (v : Conv) => !(v.part == p && v.st == ConvState.resident) }
    | .port n => (s.linkLost n).setPort n {}
    | .feng e =>
      let s := s.dropOutst e
      let s := s.setEng e { dropped := (s.eng e).dropped }
      let s := { s with qps := s.qps.filter fun x => x.1 / 256 != e.val }
      if e.val % 2 = 0 then { s with regions := Map.clear s.regions (e.val / 2 * 4096) 4096 } else s
    | .dig => { s with digs := [] }
    | .elog => { s with elog := {} }
    | .srch => { s with srch := {} }
    | .mon => { s with units := [] }
    | .finj => { s with finj := {} }
    | .uart => { s with uart := {} }
    | _ => s
  let s := s.blockPagesReset (blockPages pg)
  let r := s.rst
  let s := { s with rst := { r with quiesceAt := Map.set 0 r.quiesceAt pg.base 0 } }.resetCause 9 (pg.inst % 256)
  (s.setFld pg Reg.PG_RST_STATUS 2).setFld pg Reg.PG_RST_TIMED_OUT rst

/-- QUIESCE_DONE (R347). -/
def execQuiesceDone (pg : Page) (s : State) : Res :=
  .next (if s.quiescing pg && s.blockIdle pg then s.blockReset pg else s)

/-- QUIESCE_TIMEOUT: QUIESCE_US elapse (R347). -/
def execQuiesceTimeout (pg : Page) (s : State) : Res :=
  .next (
    if s.quiescing pg && decide (Map.get 0 s.rst.quiesceAt pg.base - 1 + s.fld .rstc Reg.RSTC_CTRL_QUIESCE_US * 1000 ≤ s.now) then
      ((s.setFld pg Reg.PG_RST_TIMED_OUT 1).count .rstc 0x88).blockReset pg
    else s)

/-- The requests a reset partition held, and those deferred in its Weir, end with ABORTED_FAULT and DETAIL NONE (Table
15-9). -/
def State.endReset (s : State) (p : PartId) : State :=
  let s := s.each (s.heldReqs p) fun s r => s.abortReq r.reqId 0x30 0x00
  s.each (s.deferred p) fun s r => ((s.dropReq r.reqId).syncQueue p).pushRec r.tenant (recOf r 0x30 0x00 true)

/-- BLOCK_RESET_DONE (R347). -/
def execBlockResetDone (pg : Page) (s : State) : Res :=
  .next (if s.fld pg Reg.PG_RST_STATUS = 2 then
      let s := ((s.setFld pg Reg.PG_RST_STATUS 0).setFld pg Reg.PG_READY_READY 1).count pg 0x60
      match pg with
      | .disp p =>
        let s := s.each (List.flatten [[.samp p, .move p, .admt p], (tilesOf p).map Page.tile]) fun s x =>
          s.setFld x Reg.PG_READY_READY 1
        s.endReset p
      | _ => s
    else s)

/-- FSYNC_EDGE (R350). -/
def execFsyncEdge (falling : Bool) (s : State) : Res :=
  .next (
    let last := s.fld .sync Reg.SYNC_FSYNC_LAST_TIME
    let y := s.sync
    if ¬ s.flag .sync Reg.SYNC_CTRL_FSYNC_EN ∨ s.flag .sync Reg.SYNC_CTRL_FSYNC_POL ≠ falling then s
    else if y.fAny ∧ s.now < last + s.fld .sync Reg.SYNC_CTRL_MIN_US * 1000 then s.count .sync 0x88
    else
      let n := min 2 (y.fEdges + 1)
      let s := { s with sync := { y with fEdges := n, fAny := true } }.count .sync 0x80
      let s := if y.fAny then s.setFld .sync Reg.SYNC_FSYNC_PERIOD_NS (min (s.now - last) 4294967295) else s
      let s := s.setFld .sync Reg.SYNC_FSYNC_LAST_TIME s.now
      if n = 2 then s.setFld .sync Reg.SYNC_STAT_FSYNC_LOST 0 else s)

/-- FSYNC_LOST_TIMEOUT: no edge within twice the last period (R350). -/
def execFsyncLostTimeout (s : State) : Res :=
  .next (
    if s.flag .sync Reg.SYNC_CTRL_FSYNC_EN && !s.flag .sync Reg.SYNC_STAT_FSYNC_LOST &&
        decide (s.fld .sync Reg.SYNC_FSYNC_LAST_TIME + 2 * s.fld .sync Reg.SYNC_FSYNC_PERIOD_NS ≤ s.now) then
      let y := s.sync
      (({ s with sync := { y with fEdges := 0 } }.setFld .sync Reg.SYNC_STAT_FSYNC_LOST 1).count .sync 0x90).irq .sync 0
    else s)

/-- Step fabric-global time by a signed number of ns. -/
def State.moveTime (s : State) (d : Int) : State := { s with now := (((s.now : Int) + d) % 2 ^ 64).toNat }

/-- TSYNC_EDGE (R350, R351): time-stamped as FSYNC is; the master with PPS_EN set moves so that the edge falls on a whole
second. -/
def execTsyncEdge (s : State) : Res :=
  .next (
    let y := s.sync
    if ¬ s.flag .sync Reg.SYNC_CTRL_TSYNC_EN ∨
        (y.tAny ∧ s.now < s.fld .sync Reg.SYNC_TSYNC_LAST_TIME + s.fld .sync Reg.SYNC_CTRL_MIN_US * 1000) then s
    else
      let n := min 2 (y.tEdges + 1)
      let s := { s with sync := { y with tEdges := n, tAny := true } }.count .sync 0x98
      let off : Int := (s.now + 500000000) % 1000000000
      let s := if s.flag .time Reg.TIME_CTRL_MASTER && s.flag .time Reg.TIME_CTRL_PPS_EN then
          (s.count .time 0x90 (500000000 - off).natAbs).moveTime (500000000 - off)
        else s
      let s := s.setFld .sync Reg.SYNC_TSYNC_LAST_TIME s.now
      if n = 2 then s.setFld .sync Reg.SYNC_STAT_TSYNC_LOST 0 else s)

/-- TSYNC_LOST_TIMEOUT: no edge within 1.5 s (R350). -/
def execTsyncLostTimeout (s : State) : Res :=
  .next (
    if s.flag .sync Reg.SYNC_CTRL_TSYNC_EN && !s.flag .sync Reg.SYNC_STAT_TSYNC_LOST &&
        decide (s.fld .sync Reg.SYNC_TSYNC_LAST_TIME + 1500000000 ≤ s.now) then
      let y := s.sync
      ({ s with sync := { y with tEdges := 0 } }.setFld .sync Reg.SYNC_STAT_TSYNC_LOST 1).irq .sync 1
    else s)

/-- TIME_EXCHANGE_TIMER: once every 1 ms a device that is no master starts an exchange with MASTER_NODE (R351). -/
def execTimeExchangeTimer (s : State) : Res :=
  .next (if s.flag .time Reg.TIME_CTRL_MASTER then s
    else
      let y := s.sync
      { s with sync := { y with exchanging := true } }.send (.timeMsg (s.fld .time Reg.TIME_CTRL_MASTER_NODE)))

/-- TIME_MESSAGE (R351): the master's answer ends an exchange: its offset steps the time until SYNCED first sets, then slews
it by 200 ns at most. -/
def execTimeMessage (t1 t2 t3 t4 : Nat) (s : State) : Res :=
  .next (
    let y := s.sync
    if ¬ y.exchanging ∨ s.flag .time Reg.TIME_CTRL_MASTER then s
    else
      let off : Int := (((t2 : Int) - t1) - ((t4 : Int) - t3)) / 2
      let good := if off.natAbs < 100 then min 8 (y.good + 1) else 0
      let s := { s with sync := { y with exchanging := false, good := good } }.count .time 0x80
      let s := s.setFld .time Reg.TIME_STAT_ERR_NS (min off.natAbs 65535)
      let slew : Int := max (-200) (min 200 off)
      let s := if y.everSynced then (s.count .time 0x90 slew.natAbs).moveTime slew
        else if off = 0 then s
        else (s.count .time 0x88).moveTime off
      if good = 8 ∧ ¬ s.flag .time Reg.TIME_STAT_SYNCED then
        let y := s.sync
        ({ s with sync := { y with everSynced := true } }.setFld .time Reg.TIME_STAT_SYNCED 1).irq .time 0
      else s)

/-- TIME_SET (R351): the master counts from it; elsewhere NOT_MASTER. -/
def execTimeSet (ns : Word64) (s : State) : Res :=
  .next (s.ifReady .time fun s =>
    if s.flag .time Reg.TIME_CTRL_MASTER then { s with now := ns.toNat } else s.err .time 0x01)

end Sys2Proof.Machine
end

