-- ==== Sys2Proof/Machine/Firmware.lean ====
section
/-! DEFINITION. The Wellhead: boot, update, recovery, ledger, flash wear, watchdog and UART (R353 to R373). -/

namespace Sys2Proof.Machine
open Sys2Proof

/-- Record types that are not reserved (Table 16-5). -/
def ledgTypes : List Nat := [0x01, 0x02, 0x03, 0x04, 0x05, 0x10, 0x11]

/-- The KEYED types (Table 16-5). -/
def ledgKeyed (t : Nat) : Bool := [0x03, 0x04, 0x05, 0x11].contains t

/-- A ledger record before its SEQ and CRC are set (Table 16-5). -/
def ledgRec (type key : Nat) (data : List Byte) : BitVec 1024 :=
  let flags := if ledgKeyed type then 1 else 0
  let b := List.flatten
    [bytesOfNat 6 0, bytesOfNat 1 type, bytesOfNat 1 flags, bytesOfNat 2 key, bytesOfNat 2 data.length, [0, 0, 0, 0],
     data.take 108]
  BitVec.ofNat 1024 (natOfBytes b)

/-- The record with its SEQ and its CRC. -/
def sealRec (seq : Nat) (r : BitVec 1024) : BitVec 1024 :=
  let b := bytesOfNat 6 seq ++ ((BVbytes r).drop 6).take 118
  BitVec.ofNat 1024 (natOfBytes (b ++ bytesOfNat 4 (crc32 b).toNat))

/-- TYPE and KEY of a record. -/
def recKey (r : BitVec 1024) : Nat × Nat := (BV r 48 8, BV r 64 16)

/-- Data byte i of a record. -/
def recByte (r : BitVec 1024) (i : Nat) : Nat := BV r (128 + 8 * i) 8

/-- The SEQ a record would get next (R368). -/
def Ledger.next (l : Ledger) : Nat :=
  match l.recs with
  | r :: _ => BV r 0 48 + 1
  | [] => 0

/-- The ledger takes no more records (R367, R368). -/
def Ledger.closed (l : Ledger) : Bool := l.readOnly || l.next == 2 ^ 48 - 1

/-- Append a record with its SEQ. -/
def Ledger.push (l : Ledger) (r : BitVec 1024) : Ledger := { l with recs := sealRec l.next r :: l.recs }

/-- Append a record (R367): a log of 54 blocks of 32 that is full reuses its oldest block, copying forward the keyed records
in it that are the newest of their key. The number copied comes with it. -/
def Ledger.append (l : Ledger) (r : BitVec 1024) : Ledger × Nat :=
  if l.recs.length < 1728 then (l.push r, 0)
  else
    let k := l.recs.length - 32
    let old := (l.recs.drop k).reverse
    let fwd := old.filter fun o => ledgKeyed (recKey o).1 && l.recs.find? (fun x => recKey x == recKey o) == some o
    ((fwd.foldl Ledger.push { l with recs := l.recs.take k }).push r, fwd.length)

/-- STATE codes of a slot (WLH_STAT). -/
def imgCode : ImgState → Nat
  | .empty => 0 | .writing => 1 | .trial => 2 | .confirmed => 3 | .retired => 4 | .bad => 5

def imgOf (n : Nat) : ImgState := ([.empty, .writing, .trial, .confirmed, .retired, .bad] : List ImgState).getD n .empty

/-- The IMG_STATE record of the two slots: state and TRIES of A, then of B. -/
def imgRec (a : ImgState) (ta : Nat) (b : ImgState) (tb : Nat) : BitVec 1024 :=
  ledgRec 0x03 0 (bytesOfNat 1 (imgCode a) ++ bytesOfNat 1 ta ++ bytesOfNat 1 (imgCode b) ++ bytesOfNat 1 tb)

/-- What WLH_STAT shows (Table 16-7). -/
def State.wlhShow (s : State) : State :=
  let w := s.wlh
  let s := (s.setFld .wlh Reg.WLH_STAT_BOOTED w.bootB.toNat).setFld .wlh Reg.WLH_STAT_STATE_A (imgCode w.stA)
  let s := s.setFld .wlh Reg.WLH_STAT_STATE_B (imgCode w.stB)
  let s := s.setFld .wlh Reg.WLH_STAT_TRIES (if w.bootB then w.triesB else w.triesA)
  s.setFld .wlh Reg.WLH_STAT_SVN_FLOOR s.fuses.svn

/-- A record is in the ledger: it shows, and an IMG_STATE record is the slots' state from now on. -/
def State.ledgerWritten (s : State) (r : BitVec 1024) : State :=
  let x := s.ledger.append r
  let s := ((({ s with ledger := x.1 }.count .ledg 0x80).count .ledg 0x98 x.2)).ledgerShow
  if (recKey r).1 = 0x03 then
    let w := s.wlh
    { s with wlh := { w with stA := imgOf (recByte r 0), triesA := recByte r 1, stB := imgOf (recByte r 2), triesB := recByte r 3 }
    }.wlhShow
  else s

/-- The Wellhead writes a record of its own; a closed ledger refuses it. -/
def State.ledgerPut (s : State) (r : BitVec 1024) : State := if s.ledger.closed then s else s.ledgerWritten r

/-- Set one slot's state and TRIES by an IMG_STATE record. -/
def State.setImg (s : State) (slotB : Bool) (x : ImgState) (tries : Nat) : State :=
  let w := s.wlh
  s.ledgerPut (if slotB then imgRec w.stA w.triesA x tries else imgRec x tries w.stB w.triesB)

/-- The state of a slot. -/
def State.img (s : State) (slotB : Bool) : ImgState := if slotB then s.wlh.stB else s.wlh.stA

/-- Bytes of a slot (Table 16-1). -/
def State.slotSize (s : State) : Nat := s.wlh.flashSize * 3 / 8

/-- The sectors of a slot that are not retired, in increasing order (R354). -/
def State.goodSectors (s : State) (slotB : Bool) : List Nat :=
  let n := s.slotSize / 65536
  ((List.range n).map fun k => if slotB then n + k else k).filter fun k => !(Map.get {} s.wlh.sectors k).retired

/-- The bytes of a slot (R354). -/
def State.slotBytes (s : State) (slotB : Bool) : List Byte :=
  (s.goodSectors slotB).flatMap fun k => Map.bytes s.wlh.flash (k * 65536) 65536

/-- Number in n bytes of an image from byte a. -/
def imgNat (img : List Byte) (a n : Nat) : Nat := natOfBytes ((img.drop a).take n)

/-- Component k of an image header: TYPE, OFFSET, LEN (Table 16-2). -/
def compOf (img : List Byte) (k : Nat) : Nat × Nat × Nat :=
  (imgNat img (64 + 16 * k) 4, imgNat img (68 + 16 * k) 4, imgNat img (72 + 16 * k) 4)

/-- Condition 1 of R356. -/
def headerOk (img : List Byte) (slot : Nat) : Bool :=
  let body := imgNat img 8 4
  let n := imgNat img 18 2
  let zero := fun (a k : Nat) => ((img.drop a).take k).all (· == 0)
  let comp := fun (k : Nat) =>
    let c := compOf img k
    decide (1 ≤ c.1 ∧ c.1 ≤ 4 ∧ c.2.1 + c.2.2 ≤ body ∧ (c.1 = 1 → c.2.2 ≤ 3145728) ∧ (c.1 = 2 → c.2.2 ≤ 262144))
  decide (imgNat img 0 4 = 0x46504C53 ∧ imgNat img 4 2 = 1 ∧ imgNat img 7 1 ≤ 64 ∧ body % 64 = 0 ∧ body + 512 ≤ slot ∧
    body + 512 ≤ img.length ∧ 1 ≤ n ∧ n ≤ 8) &&
  (List.range n).all comp && zero (64 + 16 * n) (128 - 16 * n) && zero 20 44 && zero 432 80

/-- The check of R356: 0x00, or the code of the first condition that fails (Table 16-4). -/
def checkImage (f : Fuses) (slot : Nat) (img : List Byte) : Nat :=
  let key := (img.drop 240).take 96
  let keyOk : Bool := match f.keys[imgNat img 6 1]? with
    | some (some h) => natBE (sha384 key) == h.toNat
    | _ => false
  if ¬ headerOk img slot then 0x02
  else if ¬ keyOk then 0x03
  else if ¬ ecdsaOk key ((img.drop 336).take 96) (img.take 336) then 0x04
  else if sha384 ((img.drop 512).take (imgNat img 8 4)) ≠ (img.drop 192).take 48 then 0x05
  else if imgNat img 7 1 < f.svn then 0x06
  else 0x00

/-- The bytes of the component of a type. -/
def component (img : List Byte) (type : Nat) : List Byte :=
  match (List.range (imgNat img 18 2)).find? fun k => (compOf img k).1 == type with
  | some k => (img.drop (512 + (compOf img k).2.1)).take (compOf img k).2.2
  | none => []

/-- The sectors of the store that are not retired, in increasing order (R353, R354). -/
def State.storeSectors (s : State) : List Nat :=
  let n := s.wlh.flashSize / 65536
  ((List.range (n / 4)).map fun k => n * 3 / 4 + k).filter fun k => !(Map.get {} s.wlh.sectors k).retired

/-- n bytes of the store from byte i, retired sectors passed over (R354). -/
def State.storeRd (s : State) (i n : Nat) : List Byte :=
  let l := s.storeSectors
  (List.range n).map fun k => match l[(i + k) / 65536]? with
    | some j => (Map.bytes s.wlh.flash (j * 65536 + (i + k) % 65536) 1).headD 0
    | none => 0

/-- The object whose header stands at byte i of the store: MAGIC, zero RSV bytes and a good CRC (R361). -/
def State.storeObj (s : State) (i : Nat) : Option StoreObj :=
  let h := s.storeRd i 32
  let len := imgNat h 8 4
  if imgNat h 0 4 ≠ 0x4F504C53 ∨ imgNat h 20 12 ≠ 0 ∨ s.wlh.flashSize / 4 < i + 32 + len then none
  else
    let p := s.storeRd (i + 32) len
    if (crc32 p).toNat ≠ imgNat h 16 4 then none
    else some { id := imgNat h 4 2, format := imgNat h 6 2, seq := imgNat h 12 4, payload := p, place := i }

/-- The objects of the store (R361). DESIGN CHOICE (notes/assumptions/60): a header stands at a multiple of 32 bytes. -/
def State.storeObjs (s : State) : List StoreObj :=
  let l := s.storeSectors
  s.wlh.flash.filterMap fun c =>
    if c.1 % 32 = 0 ∧ l.contains (c.1 / 65536) then s.storeObj (l.idxOf (c.1 / 65536) * 65536 + c.1 % 65536) else none

/-- The objects an image of a STORE_FMT reads: of each ID, in its format, the one of highest SEQ (R361). -/
def newestObjs (fmt : Nat) (l : List StoreObj) : List StoreObj :=
  let mine := l.filter fun o => o.format == fmt
  mine.filter fun o => !mine.any fun x =>
    x.id == o.id && (decide (o.seq < x.seq) || (x.seq == o.seq && decide (x.place < o.place)))

/-- What the image that runs reads for an ID: its object of the store, or its CONFIG component's (R361). -/
def State.objectOf (s : State) (id : Nat) : List Byte :=
  match s.wlh.objects.find? fun o => o.id == id with
  | some o => o.payload
  | none => Config.configObject s.wlh.config id

/-- Write an object's bytes into erased sectors of the store, from the first that has enough after it (R354, R371); where none is
left it is not written. -/
def State.storePut (s : State) (b : List Byte) : State :=
  let l := s.storeSectors
  let n := (b.length + 65535) / 65536
  let free := fun (k : Nat) => match l[k]? with
    | some j => (Map.get {} s.wlh.sectors j).erased
    | none => false
  match lowest (l.length + 1 - n) fun k => (List.range n).all fun i => free (k + i) with
  | none => s
  | some k =>
    s.each (List.range n) fun s i =>
      let w := s.wlh
      let j := l.getD (k + i) 0
      { s with wlh := { w with
          flash := Map.store w.flash (j * 65536) ((b.drop (i * 65536)).take 65536)
          sectors := Map.set {} w.sectors j { Map.get {} w.sectors j with erased := false } } }

/-- The bytes of an object: header and payload (R361). -/
def StoreObj.bytes (o : StoreObj) : List Byte :=
  List.flatten
    [bytesOfNat 4 0x4F504C53, bytesOfNat 2 o.id, bytesOfNat 2 o.format, bytesOfNat 4 o.payload.length, bytesOfNat 4 o.seq,
     bytesOfNat 4 (crc32 o.payload).toNat, List.replicate 12 0, o.payload]

/-- A checked image starts on the Wellhead (R357, R364): the PCTL component and its digest are kept (R363), the store is read
(R361), the watchdog runs, and the PMBus balls serve the controller before any rail is read (Table 18-7). The role list of its
CONFIG component (R17) is not laid out: the roles are set by DISP_ROLE_WRITE (DESIGN CHOICE, notes/assumptions/60). -/
def State.startImage (s : State) (img : List Byte) : State :=
  let s := s.setFld .pin Reg.PIN_FUNC_PMBUS 1
  let w := s.wlh
  let pctl := component img 2
  { s with wlh := { w with
      config := component img 3, objects := newestObjs (imgNat img 16 2) s.storeObjs
      running := true, pctl := pctl, pctlHash := BitVec.ofNat 384 (natBE (sha384 pctl)), kicked := s.now, warned := false } }

/-- The Source ROM tries a slot (R357, Table 16-3): whether its image may run, the slot made BAD where it may not. -/
def State.trySlot (s : State) (slotB : Bool) : Bool × State :=
  let tries := if slotB then s.wlh.triesB else s.wlh.triesA
  let good := fun (_ : Unit) => checkImage s.fuses s.slotSize (s.slotBytes slotB) == 0
  match s.img slotB with
  | .trial =>
    if 3 ≤ tries then (false, (s.setImg slotB .bad tries).count .wlh 0x88)
    else if good () then (true, s.setImg slotB .trial (tries + 1))
    else (false, s.setImg slotB .bad tries)
  | .confirmed => if good () then (true, s) else (false, s.setImg slotB .bad tries)
  | _ => (false, s)

/-- The other pages are not usable in recovery mode (R392). -/
def recoveryPage (pg : Page) : Bool := [Page.dev, .rstc, .wlh, .ledg, .uart, .pcie].contains pg

/-- The ROM enters recovery mode (R364, R392) and gives the UART its balls (Table 18-7). -/
def State.enterRecovery (s : State) : State :=
  let s := s.each (Page.all.filter fun pg => !recoveryPage pg && s.ready pg) fun s pg => s.setFld pg Reg.PG_READY_READY 0
  let s := (s.setFld .wlh Reg.WLH_STAT_RECOVERY 1).setFld .wlh Reg.PG_READY_READY 1
  let s := ((s.setFld .uart Reg.UART_CTRL_TX_EN 1).setFld .uart Reg.UART_CTRL_RX_EN 1).setFld .pin Reg.PIN_FUNC_UART 1
  s.wlhShow.send (.imageStart false true)

/-- The image of a slot runs, and WLH is ready (R357). -/
def State.bootSlot (s : State) (slotB : Bool) : State :=
  let w := s.wlh
  let s := { s with wlh := { w with bootB := slotB } }.startImage (s.slotBytes slotB)
  (((s.setFld .wlh Reg.PG_READY_READY 1).count .wlh 0x80).wlhShow).send (.imageStart slotB false)

/-- Slots left in WRITING by a reset are EMPTY (Table 16-3). -/
def State.dropWriting (s : State) : State :=
  s.each [false, true] fun s b => if s.img b = .writing then s.setImg b .empty 0 else s

/-- An erase of a sector begins under a new ERASE_INTENT (R370). -/
def State.eraseSector (s : State) (k : Nat) : State :=
  let w := s.wlh
  let x := Map.get {} w.sectors k
  let s := { s with wlh := { w with sectors := Map.set {} w.sectors k { x with intent := true } } }
  (s.ledgerPut (ledgRec 0x04 k [])).send (.spi true k)

/-- Half-erased sectors are erased again at a start (R370): an intent that no SECTOR record follows, or a sector recorded as ERASED
that is not blank. -/
def State.mendFlash (s : State) : State :=
  let blank := fun (k : Nat) => !(s.wlh.flash.any fun c => c.1 / 65536 == k)
  s.each (s.wlh.sectors.filter fun e => e.2.intent || (e.2.erased && !blank e.1)) fun s e => s.eraseSector e.1

/-- ROM_BOOT (R357); the ROM gives the flash its balls (Table 18-7). -/
def execRomBoot (s : State) : Res :=
  .next (
    if s.heldInReset ∨ s.ready .wlh then s
    else
      let forced := bit s.rst.straps 0 || s.flag .wlh Reg.WLH_IMG_CTRL_RECOVERY_NEXT
      let s := ((s.setFld .pin Reg.PIN_FUNC_SPI 1).setFld .wlh Reg.WLH_IMG_CTRL_RECOVERY_NEXT 0).ledgerShow.dropWriting
      let sfdp := decide (16777216 ≤ s.wlh.flashSize ∧ s.wlh.flashSize ≤ 67108864)
      if forced || !sfdp then s.enterRecovery
      else
        let s := s.mendFlash
        let first := if s.img false = .trial then false else if s.img true = .trial then true else s.img false != .confirmed
        let a := s.trySlot first
        if a.1 then a.2.bootSlot first
        else
          let b := a.2.trySlot (!first)
          if b.1 then b.2.bootSlot (!first) else b.2.enterRecovery)

/-- The watchdog's timeout in ns. -/
def State.wdogNs (s : State) : Nat := s.fld .wlh Reg.WLH_WDOG_TIMEOUT_MS * 1000000

/-- WLH_WDOG_WARN: half the timeout passes without a kick (Table 16-7). -/
def execWlhWdogWarn (s : State) : Res :=
  .next (
    let w := s.wlh
    if w.running && !w.warned && decide (2 * w.kicked + s.wdogNs ≤ 2 * s.now) then { s with wlh := { w with warned := true } }.irq .wlh 1
    else s)

/-- WDOG_RESET: the whole timeout passes (R344). -/
def execWdogReset (s : State) : Res :=
  .next (if s.wlh.running && decide (s.wlh.kicked + s.wdogNs ≤ s.now) then s.deviceReset 5 else s)

/-- WLH_KICK: 0x4B restarts the watchdog (Table 16-7). -/
def execWlhKick (key : Byte) (s : State) : Res :=
  .next (s.ifReady .wlh fun s =>
    let w := s.wlh
    if key = 0x4B then { s with wlh := { w with kicked := s.now, warned := false } } else s)

/-- An install ends early with a code; its slot is EMPTY again (Table 16-3). -/
def State.failInstall (s : State) (u : Upd) (code : Nat) : State :=
  let w := s.wlh
  { s with wlh := { w with upd := some { u with result := code, sector := none } } }.setImg u.slotB .empty 0

/-- The next sector of an install from sector k on (R354): its erase begins, or no good sector is left. -/
def State.nextSector (s : State) (u : Upd) (k : Nat) : State :=
  match (s.goodSectors u.slotB).find? fun j => decide (k ≤ j) with
  | some j =>
    let w := s.wlh
    { s with wlh := { w with upd := some { u with sector := some j, erased := false } } }.eraseSector j
  | none => s.failInstall u 0x08

/-- An update or recovery command starts (R358, R364): what cannot begin ends with its code. -/
def State.startUpd (s : State) (u : Upd) : State :=
  let w := s.wlh
  let busy := fun (x : ImgState) => x == ImgState.trial || x == ImgState.writing
  let room := if u.recovery then min s.slotSize 32505856 else s.slotSize
  let b := u.install && w.stA == ImgState.confirmed
  let u := { u with slotB := b }
  let code :=
    if u.install ∧ (busy w.stA ∨ busy w.stB) then 0x0A
    else if room < u.len then 0x07
    else if u.install ∧ s.ledger.closed then 0x09
    else 0x00
  let s := { s with wlh := { w with upd := some { u with result := code } } }
  if u.install ∧ code = 0 then (s.setImg b .writing 0).nextSector u 0 else s

/-- A GO of WLH_UPD_CMD (R358): UPD_REFUSED while a command runs. -/
def State.updGo (s : State) (op : Nat) : State :=
  s.ifReady .wlh fun s =>
    if s.wlh.upd.isSome then s.err .wlh 0x01
    else
      let s := (s.setFld .wlh Reg.WLH_UPD_CMD_OP op).setFld .wlh Reg.WLH_UPD_CMD_BUSY 1
      s.startUpd { install := op == 0, len := s.fld .wlh Reg.WLH_UPD_LEN_LEN }

/-- INSTALL (R358). -/
def execInstall (s : State) : Res := .next (s.updGo 0)

/-- VERIFY (R358). -/
def execVerify (s : State) : Res := .next (s.updGo 1)

/-- The image bytes a command works from: State Space or recovery buffer (R358, R364). -/
def State.updBytes (s : State) (u : Upd) (a n : Nat) : List Byte :=
  if u.recovery then Map.bytes s.wlh.rcvBuf a n
  else s.rd (s.fldAddr .wlh Reg.WLH_UPD_SRC_LO_SRC_LO Reg.WLH_UPD_SRC_HI_SRC_HI + a) n

/-- The ROM answers a UART frame (R365). -/
def State.uartAnswer (s : State) (seq : Byte) (result : Nat) : State := (s.send (.uartReply seq result)).count .uart 0x80 3

/-- A command's result shows where its interface has it (R358, R364, R365). -/
def State.updResult (s : State) (u : Upd) (code : Nat) : State :=
  let w := s.wlh
  let s := { s with wlh := { w with upd := none } }
  if u.recovery then
    let w := s.wlh
    let s := { s with wlh := { w with rcvResult := code, lastAns := if u.seq.isSome ∧ w.lastSeq = u.seq then code else w.lastAns } }
    match u.seq with
    | some q => s.uartAnswer q code
    | none => s
  else ((s.setFld .wlh Reg.WLH_UPD_CMD_RESULT code).setFld .wlh Reg.WLH_UPD_CMD_BUSY 0).irq .wlh 0

/-- The pages that need nothing but their clock come back when recovery mode ends (R349, R392). -/
def State.leaveRecovery (s : State) : State :=
  let s := s.setFld .wlh Reg.WLH_STAT_RECOVERY 0
  s.each [.clk, .time, .pwr, .sync, .pin] fun s pg => s.setFld pg Reg.PG_READY_READY 1

/-- UPD_DONE: the command running ends (R356, R358, R364): an install once its image is placed. -/
def execUpdDone (s : State) : Res :=
  .next (match s.wlh.upd with
    | none => s
    | some u =>
      if u.install ∧ u.result = 0 ∧ u.done < u.len then s
      else if u.result ≠ 0 then s.updResult u u.result
      else
        let img := if u.install then (s.slotBytes u.slotB).take u.len else s.updBytes u 0 u.len
        let code := checkImage s.fuses s.slotSize img
        let s := if u.install then s.setImg u.slotB (if code = 0 then .trial else .empty) 0 else s
        let s := s.updResult u code
        if u.boot ∧ code = 0 then ((s.startImage img).leaveRecovery).send (.imageStart false false) else s)

/-- CONFIRM (R359): the IMG_STATE record that confirms a TRIAL slot begins to be written. -/
def execConfirm (s : State) : Res :=
  .next (s.ifReady .wlh fun s =>
    let w := s.wlh
    let l := s.ledger
    if ¬ w.running ∨ s.img w.bootB ≠ .trial then s.err .wlh 0x02
    else if l.closed then s
    else
      let other := fun (x : ImgState) => if x = .confirmed then ImgState.retired else x
      let r := if w.bootB then imgRec (other w.stA) w.triesA .confirmed w.triesB else imgRec .confirmed w.triesA (other w.stB) w.triesB
      { s with ledger := { l with writing := l.writing ++ [r] } })

/-- A recovery command by RCV_CMD or RUN (R364): BUSY while another runs. -/
def State.rcvGo (s : State) (op : Nat) (seq : Option Byte) : State :=
  let w := s.wlh
  if w.upd.isSome then { s with wlh := { w with rcvResult := 0x01 } }
  else s.startUpd { install := op == 2, boot := op == 3, len := w.rcvLen, recovery := true, seq := seq }

/-- RCV_VERIFY (R364). -/
def execRcvVerify (s : State) : Res := .next (if s.recovery then s.rcvGo 1 none else s)

/-- RCV_INSTALL (R364). -/
def execRcvInstall (s : State) : Res := .next (if s.recovery then s.rcvGo 2 none else s)

/-- RCV_BOOT (R364). -/
def execRcvBoot (s : State) : Res := .next (if s.recovery then s.rcvGo 3 none else s)

/-- A whole UART frame in recovery mode (R365): CRC_BAD, a repeated SEQ, or the command f with its answer. -/
def State.frame (s : State) (seq : Byte) (crcOk : Bool) (f : State → State × Option Nat) : State :=
  if ¬ s.recovery then s
  else
    let u := s.uart
    let s := { s with uart := { u with frame := [] } }
    if ¬ crcOk then s.uartAnswer seq 0x0B
    else if s.wlh.lastSeq = some seq then s.uartAnswer seq s.wlh.lastAns
    else
      let x := f s
      let s := x.1
      let w := s.wlh
      let s := { s with wlh := { w with lastSeq := some seq, lastAns := x.2.getD 0x01 } }
      match x.2 with
      | some a => s.uartAnswer seq a
      | none => s

/-- WRITE_BUF (R365). -/
def execWriteBuf (seq : Byte) (offset : Nat) (data : List Byte) (crcOk : Bool) (s : State) : Res :=
  .next (s.frame seq crcOk fun s =>
    let w := s.wlh
    if 32505856 < offset + data.length then (s, some 0x07)
    else ({ s with wlh := { w with rcvBuf := Map.store w.rcvBuf offset data } }, some 0x00))

/-- SET_LEN (R365). -/
def execSetLen (seq : Byte) (len : Word) (crcOk : Bool) (s : State) : Res :=
  .next (s.frame seq crcOk fun s =>
    let w := s.wlh
    ({ s with wlh := { w with rcvLen := len.toNat } }, some 0x00))

/-- RUN (R365): answered when the command ends. No rule says what an OP outside 1 to 3 is answered. -/
def execRun (seq : Byte) (op : Byte) (crcOk : Bool) (s : State) : Res :=
  .next (s.frame seq crcOk fun s =>
    if op = 0 ∨ 3 < op.toNat then (s.draw, some (s.freeNat 8))
    else if s.wlh.upd.isSome then (s.rcvGo op.toNat none, some 0x01)
    else (s.rcvGo op.toNat (some seq), none))

/-- STATUS (R365). -/
def execStatus (seq : Byte) (crcOk : Bool) (s : State) : Res :=
  .next (s.frame seq crcOk fun s => (s, some (if s.wlh.upd.isSome then 0x01 else s.wlh.rcvResult)))

/-- UART_FRAME_TIMEOUT: the frame under way is discarded (R365). -/
def execUartFrameTimeout (s : State) : Res :=
  .next (
    let u := s.uart
    { s with uart := { u with frame := [] } })

/-- UART_RX_BYTE (R372): in recovery mode the ROM takes the byte into its frame. The UART sees no byte while its balls do not
serve it (Table 18-8). -/
def execUartRxByte (b : Byte) (stopLow : Bool) (s : State) : Res :=
  .next (s.ifReady .uart fun s =>
    let u := s.uart
    if ¬ s.flag .uart Reg.UART_CTRL_RX_EN ∨ ¬ s.flag .pin Reg.PIN_FUNC_UART then s
    else if stopLow then (s.setFld .uart Reg.UART_STAT_FRAME_ERR 1).count .uart 0x90
    else if s.recovery then { s with uart := { u with frame := u.frame ++ [b] } }.count .uart 0x88
    else if 32 ≤ u.rx.length then (s.setFld .uart Reg.UART_STAT_OVERRUN 1).count .uart 0x98
    else ({ s with uart := { u with rx := u.rx ++ [b] } }.count .uart 0x88).irq .uart 0)

/-- UART_DATA_WRITE: a byte to transmit (Table 16-7); a full FIFO has no room for it. -/
def execUartDataWrite (b : Byte) (s : State) : Res :=
  .next (s.ifReady .uart fun s =>
    let u := s.uart
    if u.tx.length < 32 then { s with uart := { u with tx := u.tx ++ [b] } } else s)

/-- UART_DATA_READ: a received byte, or 0 when empty (Table 16-7). -/
def execUartDataRead (s : State) : Res :=
  .next (
    let u := s.uart
    if ¬ s.ready .uart then s.send (.uartRead 0)
    else
      match u.rx with
      | [] => s.send (.uartRead 0)
      | b :: t => { s with uart := { u with rx := t } }.send (.uartRead b))

/-- UART_TX_BYTE_SENT (R372): BYTES_TX, and TX_EMPTY with the last byte. A ball that does not serve the UART shows nothing of
it (Table 18-8). -/
def execUartTxByteSent (s : State) : Res :=
  .next (
    let u := s.uart
    match u.tx with
    | [] => s
    | b :: t =>
      if ¬ s.works .uart ∨ ¬ s.flag .uart Reg.UART_CTRL_TX_EN then s
      else
        let s := ({ s with uart := { u with tx := t } }.when (s.flag .pin Reg.PIN_FUNC_UART) (State.send · (.uartTx b))).count .uart 0x80
        if t = [] then s.irq .uart 1 else s)

/-- LEDG_WR_GO (R366 to R368): the host is refused, so is a closed ledger and a reserved TYPE. -/
def execLedgWrGo (by_ : Requester) (type : Byte) (key : Nat) (s : State) : Res :=
  let result := fun (s : State) (r : Nat) => s.setFld .ledg Reg.LEDG_WR_CMD_RESULT r
  .next (s.ifReady .ledg fun s =>
    let l := s.ledger
    if by_ = .host then (result s 3).err .ledg 0x01
    else if s.flag .ledg Reg.LEDG_WR_CMD_BUSY then s
    else
      let s := (s.setFld .ledg Reg.LEDG_WR_CMD_TYPE type.toNat).setFld .ledg Reg.LEDG_WR_CMD_KEY (key % 65536)
      if l.readOnly then (result s 1).err .ledg 0x02
      else if l.closed then (result s 2).err .ledg 0x03
      else if ¬ ledgTypes.contains type.toNat then result s 4
      else
        let data := (List.range 27).flatMap fun k => bytesOfNat 4 (s.fld .ledg Reg.LEDG_WR_DATA_DATA k)
        { s with ledger := { l with writing := l.writing ++ [ledgRec type.toNat (key % 65536) data] }
        }.setFld .ledg Reg.LEDG_WR_CMD_BUSY 1)

/-- A write pulse ends (R367): `failures` read-backs of the record failed. After 3 retries the block is retired and a spare
takes the record; with no spare left the ledger is read-only. True: the record is in. -/
def State.ledgerTry (s : State) (r : BitVec 1024) (failures : Nat) : Bool × State :=
  let s := s.count .ledg 0x88 (min failures 3)
  if failures < 4 then (true, s.ledgerWritten r)
  else
    let l := s.ledger
    let s := s.count .ledg 0x90
    if l.spares = 0 then (false, ({ s with ledger := { l with readOnly := true } }.ledgerShow).irq .ledg 0)
    else (true, { s with ledger := { l with spares := l.spares - 1 } }.ledgerWritten r)

/-- The Wellhead's next ERROR record (R369); a refused one counts LOST_ERRORS. -/
def State.ledgerError (s : State) (failures : Nat) : State :=
  let x := s.elog
  match x.toLedger with
  | [] => s
  | e :: rest =>
    if ¬ s.wlh.running then s
    else
      let s := { s with elog := { x with toLedger := rest } }
      if s.ledger.closed then s.count .ledg 0xA0
      else
        let t := s.ledgerTry (ledgRec 0x01 0 (BVbytes e)) failures
        if t.1 then t.2 else t.2.count .ledg 0xA0

/-- LEDG_WRITE_DONE (R346, R359, R367, R369): the oldest write in progress ends, or the Wellhead's next ERROR record. A device
reset that waited for it follows. -/
def execLedgWriteDone (failures : Nat) (s : State) : Res :=
  .next (
    let l := s.ledger
    match l.writing with
    | [] => s.ledgerError failures
    | r :: rest =>
      let s := { s with ledger := { l with writing := rest } }
      let x := if s.ledger.closed then (false, s) else s.ledgerTry r failures
      let s := x.2
      let s := if rest = [] ∧ s.flag .ledg Reg.LEDG_WR_CMD_BUSY then
          let s := (s.setFld .ledg Reg.LEDG_WR_CMD_BUSY 0).setFld .ledg Reg.LEDG_WR_CMD_RESULT
            (if x.1 then 0 else if s.ledger.readOnly then 1 else 2)
          if x.1 then s else s.err .ledg (if s.ledger.readOnly then 0x02 else 0x03)
        else s
      match s.rst.waiting with
      | some c =>
        let r := s.rst
        if rest = [] then { s with rst := { r with waiting := none } }.takeReset c else s
      | none => s)

/-- LEDG_RD_GO (R366, Table 16-7). -/
def execLedgRdGo (index : Nat) (byKey : Bool) (s : State) : Res :=
  .next (s.ifReady .ledg fun s =>
    let s := (s.setFld .ledg Reg.LEDG_RD_SEL_INDEX (index % 2048)).setFld .ledg Reg.LEDG_RD_SEL_BY_KEY byKey.toNat
    let key := (s.fld .ledg Reg.LEDG_RD_KEY_TYPE, s.fld .ledg Reg.LEDG_RD_KEY_KEY)
    let r := if byKey then s.ledger.recs.find? fun x => recKey x == key else s.ledger.recs[index % 2048]?
    match r with
    | none => s.setFld .ledg Reg.LEDG_RD_SEL_FOUND 0
    | some r =>
      (s.each (List.range 32) fun s k => s.setFld .ledg Reg.LEDG_RD_DATA_DATA (BV r (32 * k) 32) k).setFld .ledg
        Reg.LEDG_RD_SEL_FOUND 1)

/-- A sector's record is kept and written (R370, Table 16-6); a sector that is now retired counts, and the store's valid objects
that begin in it are moved (R371). -/
def State.setSector (s : State) (k : Nat) (x : Sector) : State :=
  let w := s.wlh
  let new := x.retired && !(Map.get {} w.sectors k).retired
  let moved := if new then s.storeObjs.filter fun o => s.storeSectors[o.place / 65536]? == some k else []
  let s := { s with wlh := { w with sectors := Map.set {} w.sectors k x } }
  let s := if new then (s.count .wlh 0x98).each moved fun s o => s.storePut o.bytes else s
  s.ledgerPut (ledgRec 0x05 k (List.flatten
    [[if x.erased then 0 else 1, if x.retired then 1 else 0, 0, 0], bytesOfNat 4 x.erases, bytesOfNat 4 x.eraseUs, bytesOfNat 4 x.progUs,
     bytesOfNat 2 x.retries]))

/-- The install under way at a sector, once erased or not. -/
def State.updAt (s : State) (k : Nat) (erased : Bool) : Option Upd :=
  match s.wlh.upd with
  | some u => if u.sector = some k ∧ u.erased = erased then some u else none
  | none => none

/-- FLASH_ERASE_DONE (R370, R371). -/
def execFlashEraseDone (sector : Nat) (blank : Bool) (eraseUs : Nat) (s : State) : Res :=
  .next (
    if s.wlh.flashSize ≤ sector * 65536 then s
    else
      let w := s.wlh
      let x := Map.get {} w.sectors sector
      let s := { s with wlh := { w with flash := Map.clear w.flash (sector * 65536) 65536 } }
      if ¬ blank then
        let w := s.wlh
        { s with wlh := { w with sectors := Map.set {} w.sectors sector { x with erases := x.erases + 1, eraseUs := eraseUs } }
        }.eraseSector sector
      else
        let slow := decide (s.fld .wlh Reg.WLH_FLASH_THR_ERASE_MS * 1000 < eraseUs)
        let s := s.setSector sector { x with
          erased := true, intent := false, erases := x.erases + 1, eraseUs := eraseUs, progUs := 0, retries := 0
          retired := x.retired || slow }
        match s.updAt sector false with
        | none => s
        | some u =>
          if slow then s.nextSector u (sector + 1)
          else
            let w := s.wlh
            { s with wlh := { w with upd := some { u with erased := true } } }.send (.spi false sector))

/-- FLASH_PROGRAM_DONE (R371): the sector's data is in, is programmed again up to 3 times, or the sector is retired. -/
def execFlashProgramDone (sector : Nat) (good : Bool) (progUs : Nat) (s : State) : Res :=
  .next (
    if s.wlh.flashSize ≤ sector * 65536 then s
    else
      let x := Map.get {} s.wlh.sectors sector
      let x := { x with erased := false, progUs := max x.progUs progUs }
      if good then
        let worn := decide (s.fld .wlh Reg.WLH_FLASH_THR_RETRY < x.retries)
        let s := s.setSector sector { x with retired := x.retired || worn }
        match s.updAt sector true with
        | none => s
        | some u =>
          if worn then s.nextSector u (sector + 1)
          else
            let w := s.wlh
            let n := min 65536 (u.len - u.done)
            let s := { s with wlh := { w with flash := Map.store w.flash (sector * 65536) (s.updBytes u u.done n) } }
            let u := { u with done := u.done + n, sector := none }
            if u.len ≤ u.done then
              let w := s.wlh
              { s with wlh := { w with upd := some u } }
            else s.nextSector u (sector + 1)
      else if x.retries < 3 then
        let w := s.wlh
        { s with wlh := { w with sectors := Map.set {} w.sectors sector { x with retries := x.retries + 1 } } }.send (.spi false sector)
      else
        let s := s.setSector sector { x with retired := true }
        match s.updAt sector true with
        | none => s
        | some u => s.failInstall u 0x09)

end Sys2Proof.Machine
end

