-- ==== Sys2Proof/Machine/Role.lean ====
section
/-! DEFINITION. Role changes of a partition (R15, R20, R21, R239, R363; Tables 01-5 and 01-6). -/

namespace Sys2Proof.Machine
open Sys2Proof

/-- What DISP_ROLE.HELD counts: the entries of a Cache partition, else the requests held. -/
def State.held (s : State) (p : PartId) : Nat :=
  if s.fld (.disp p) Reg.DISP_ROLE_CUR = 3 then ((List.range 4096).filter fun i => entState (s.entry p i) != 0).length
  else (s.heldReqs p).length

/-- DRAIN_MODE EVICT takes effect (Table 01-6): the decodes that run here are paused, the entries that are LIVE cleared or handed
back; what starts to run or becomes LIVE later follows then (`State.parkNow`, `State.entryLive`). -/
def State.evict (s : State) (p : PartId) : State :=
  match s.fld (.disp p) Reg.DISP_ROLE_CUR with
  | 2 => s.each (s.convs.filter fun v => v.part == p && v.st == .resident && s.evictable p v) fun s v => s.parkNow v
  | 3 => s.each (List.range 4096) fun s i => s.evictEntry p i
  | _ => s

/-- The Wellhead's copy of the PCTL component is as it was at boot (R363). -/
def State.pctlGood (s : State) : Bool := s.wlh.running && natBE (sha384 s.wlh.pctl) == s.wlh.pctlHash.toNat

/-- The check before a reload (R363): a copy that differs is read again from the booted slot, if its image is valid. -/
def State.pctlCheck (s : State) : State :=
  if s.pctlGood ∨ ¬ s.wlh.running then s
  else
    let w := s.wlh
    let img := s.slotBytes w.bootB
    if checkImage s.fuses s.slotSize img = 0 then
      let c := component img 2
      { s with wlh := { w with pctl := c, pctlHash := BitVec.ofNat 384 (natBE (sha384 c)) } }
    else s

/-- DISP_ROLE_WRITE (R20): STATE 0 STABLE, 1 DRAINING, 3 LOADING, 5 LOAD_FAILED. DESIGN CHOICE (notes/assumptions/47): while STATE
is SCRUBBING the write is dropped whole, TARGET and DRAIN_MODE included, and nothing is recorded. -/
def execDispRoleWrite (p : PartId) (target : Fin 4) (evict : Bool) (s : State) : Res :=
  let pg : Page := .disp p
  let st := s.fld pg Reg.DISP_ROLE_STATE
  let cur := s.fld pg Reg.DISP_ROLE_CUR
  let mode := s.flag pg Reg.DISP_ROLE_DRAIN_MODE
  .next (
    if ¬ s.ready pg ∧ st ≠ 5 then s
    else if s.fenced p then s.unfenceDenied
    else
      match st with
      | 0 =>
        let s := (s.setFld pg Reg.DISP_ROLE_TARGET target.val).setFld pg Reg.DISP_ROLE_DRAIN_MODE evict.toNat
        if target.val = cur then s
        else
          let s := s.setFld pg Reg.DISP_ROLE_STATE 1
          let s := if cur = 0 ∨ cur = 3 then s.lpClear (.tileGate p) else s
          if evict then s.evict p else s
      | 1 =>
        let s := if target.val ≠ s.fld pg Reg.DISP_ROLE_TARGET ∨ (mode && !evict) then s.err pg 0x01 else s
        if evict && !mode then (s.setFld pg Reg.DISP_ROLE_DRAIN_MODE 1).evict p else s
      | 5 =>
        let s := (s.setFld pg Reg.DISP_ROLE_TARGET target.val).setFld pg Reg.DISP_ROLE_DRAIN_MODE evict.toNat
        ((s.setFld pg Reg.PG_READY_FAILED 0).setFld pg Reg.DISP_ROLE_STATE 3).pctlCheck
      | _ => s)

/-- Fabric windows of the old role are revoked (Table 01-5, R197). -/
def State.revokeWindows (s : State) (p : PartId) : State :=
  { s with regions := s.regions.map fun (e : Nat × Region) =>
      (e.1, if e.1 / 4096 = p.val ∧ e.2.valid ∧ e.2.window then { e.2 with gen := (e.2.gen + 1) % 65536 } else e.2) }

/-- The adapter slots of a partition are cleared (Table 01-5). -/
def State.clearAdapters (s : State) (p : PartId) : State :=
  s.each (List.range 64) fun s k =>
    s.each [Reg.ADP_SLOT_ID, Reg.ADP_SLOT_VERSION, Reg.ADP_SLOT_RANK, Reg.ADP_SLOT_STATE, Reg.ADP_SLOT_REFS, Reg.ADP_SLOT_LEN] fun s f =>
      s.setFld (.move p) f 0 k

/-- DRAIN_COMPLETE (R20): HELD reaches 0. -/
def execDrainComplete (p : PartId) (s : State) : Res :=
  .next (
    if s.fld (.disp p) Reg.DISP_ROLE_STATE = 1 ∧ s.held p = 0 then
      (((s.revokeWindows p).clearAdapters p).each (tilesOf p) State.loseTile).setFld (.disp p) Reg.DISP_ROLE_STATE 2
    else s)

/-- SCRUB_COMPLETE (R145, R20): the tiles hold zeros and are ready, and the Wellhead reloads the controller. After a reset that
reached the partition the scrub comes before its first load (Table 15-10). -/
def execScrubComplete (p : PartId) (s : State) : Res :=
  let st := s.fld (.disp p) Reg.DISP_ROLE_STATE
  let first := st == 0 && !s.ready (.disp p) && !s.quiescing (.disp p) && s.fld (.disp p) Reg.PG_RST_STATUS == 0
  .next (
    if (st = 2 ∨ first) ∧ ¬ s.recovery then
      let s := s.each (tilesOf p) fun s t => (s.loseTile t).setFld (.tile t) Reg.PG_READY_READY 1
      ((s.setFld (.disp p) Reg.PG_READY_READY 0).setFld (.disp p) Reg.DISP_ROLE_STATE 3).pctlCheck
    else s)

/-- The journals of a partition's engines are cleared when it is STABLE again after an unfence (R331). -/
def State.thawJournals (s : State) (p : PartId) : State :=
  s.each [0, 1] fun s i =>
    let x := s.eng (engOf p i)
    if x.frozen then s.setEng (engOf p i) { x with frozen := false, journal := [] } else s

/-- CONTROLLER_READY (R15, R20): the reloaded controller reports ready; WLH and the partition's Shallows die are (Table 15-10). -/
def execControllerReady (p : PartId) (s : State) : Res :=
  .next (
    if s.fld (.disp p) Reg.DISP_ROLE_STATE = 3 ∧ s.ready .wlh ∧ s.ready (.shl (Fin.ofNat 4 (p.val / 8))) ∧ s.pctlGood then
      let s := (s.setFld (.disp p) Reg.DISP_ROLE_CUR (s.fld (.disp p) Reg.DISP_ROLE_TARGET)).setFld (.disp p) Reg.DISP_ROLE_STATE 0
      let s := s.each [.disp p, .samp p, .move p, .admt p] fun s pg =>
        (s.setFld pg Reg.PG_READY_READY 1).setFld pg Reg.PG_READY_FAILED 0
      ((s.irq (.disp p) 0).count .wlh 0x90).thawJournals p
    else s)

/-- PCTL_LOAD_FAIL (R15, R20, R363): the checks of the PCTL component fail. -/
def execPctlLoadFail (p : PartId) (s : State) : Res :=
  .next (
    if s.fld (.disp p) Reg.DISP_ROLE_STATE = 3 then
      let s := (s.setFld (.disp p) Reg.DISP_ROLE_CUR 0).setFld (.disp p) Reg.DISP_ROLE_STATE 5
      let s := (s.setFld (.disp p) Reg.PG_READY_READY 0).setFld (.disp p) Reg.PG_READY_FAILED 1
      ((s.irq (.disp p) 0).err .wlh 0x03).record .wlh { severity := 2, code := 0x03 }
    else s)

end Sys2Proof.Machine
end

