-- ==== Sys2Proof/Machine/Header.lean ====
section
/-! DEFINITION. Register writes: the common page header, plain fields, the QP window and the MSI-X table (R11, R181, R182, R342,
R349, R380 to R386). -/

namespace Sys2Proof.Machine
open Sys2Proof

/-- PG_LOCK: PG_CTRL.LOCK is set (R384). -/
def execPgLock (pg : Page) (s : State) : Res := .next (s.ifReady pg fun s => s.setFld pg Reg.PG_CTRL_LOCK 1)

/-- PG_IRQ_STAT_WRITE (R385): a write that clears a bit and leaves the interrupt pending sends one more message. -/
def execPgIrqStatWrite (pg : Page) (v : Word) (s : State) : Res :=
  .next (s.ifReady pg fun s =>
    let old := s.word (pg.base + 0x10)
    let s := s.setWord (pg.base + 0x10) (old &&& ~~~v)
    if (old &&& v) != 0 && s.irqPending pg then s.irqMessage pg else s)

/-- How many bits of PG_IRQ_STAT a page names, from bit 0 up (R233, R257, R282, R303, R314, R352, R373, R396; Tables 03-11,
06-12). -/
def irqBits : Kind → Nat
  | .tile => 3 | .tier => 5 | .feng => 3 | .port => 2 | .move => 3 | .srch => 3 | .disp => 4 | .admt => 2 | .samp => 1
  | .mon => 2 | .dig => 3 | .elog => 2 | .qrm => 4 | .pwr => 1 | .clk => 1 | .sync => 2 | .time => 1 | .wlh => 2
  | .ledg => 1 | .uart => 2 | .pcie => 3
  | _ => 0

/-- PG_IRQ_EN_WRITE (R385): a write that makes a set bit pending sends one message. -/
def execPgIrqEnWrite (pg : Page) (v : Word) (s : State) : Res :=
  .next (s.ifReady pg fun s =>
    let old := s.word (pg.base + 0x14)
    let en := BitVec.ofNat 32 (v.toNat % 2 ^ irqBits pg.kind)
    let s := s.setWord (pg.base + 0x14) en
    if s.word (pg.base + 0x10) &&& en &&& ~~~old != 0 then s.irqMessage pg else s)

/-- PG_ERR_CLR (R386): CODE and MULTI are cleared; a code recorded in the same cycle remains. -/
def execPgErrClr (pg : Page) (sameCycle : Option (Fin 256)) (s : State) : Res :=
  .next (s.ifReady pg fun s =>
    let s := (s.setFld pg Reg.PG_ERR_CODE 0).setFld pg Reg.PG_ERR_MULTI 0
    match sameCycle with
    | some c => s.err pg c.val
    | none => s)

/-- The instance of a field whose words take in page offset o, and which of its words that is. -/
def Fld.hit (f : Fld) (o : Nat) : Option (Nat × Nat) :=
  if o < f.off then none
  else
    let i := if f.stride = 0 then 0 else (o - f.off) / f.stride
    let j := (o - f.off - i * f.stride) / 4
    if i < f.count ∧ j < f.words ∧ 32 * j < f.lo + f.width ∧ f.lo < 32 * j + 32 then some (i, j) else none

/-- The fields that are on every instance of their page but these: QPW_BANK on FENG[0], the region command on even engines
(Table 08-13). -/
def Fld.on (f : Fld) (pg : Page) : Bool :=
  if f = Reg.QPW_BANK_BANK then pg.inst == 0
  else if f = Reg.RGN_DATA_DATA ∨ f = Reg.RGN_CMD_INDEX ∨ f = Reg.RGN_CMD_OP then pg.inst % 2 == 0
  else true

/-- Fields that a word at page offset o writes. -/
def fieldsAt (pg : Page) (o : Nat) : List Fld :=
  (if o < 0x100 then Reg.hdrFields else Reg.fields pg.kind).filter fun f => !f.own && (f.hit o).isSome && f.on pg

/-- Write one field's part of a word (R11, R382). -/
def State.writeField (s : State) (pg : Page) (o : Nat) (v : Word) (f : Fld) : State :=
  match f.hit o with
  | none => s
  | some (i, j) =>
    let old := match f.acc with
      | .w1c => 0
      | .w1s => 0
      | _ => s.words (f.addr pg i) f.words
    s.swWrite pg f (bits (withBits old (32 * j) 32 v.toNat) f.lo f.width) i

/-- Fields whose values stand in a relation (R275; Tables 09-8, 12-9). -/
def relFields : Kind → List Fld
  | .disp => [Reg.DISP_ECOST_COST_NJ, Reg.DISP_ENERGY_GRANT_GRANT_NJ, Reg.DISP_ENERGY_DEPTH_DEPTH_NJ]
  | .move => [Reg.MOVE_QP_CFG_FIRST, Reg.MOVE_QP_CFG_COUNT]
  | .admt => [Reg.ADMT_TEN_P_CRATE, Reg.ADMT_TEN_P_PRATE, Reg.ADMT_TEN_G_CRATE, Reg.ADMT_TEN_G_PRATE]
  | _ => []

/-- The relations hold: every ECOST at most GRANT, GRANT at most DEPTH; FIRST + COUNT at most 512; no peak rate below its
committed rate. -/
def State.relOk (s : State) (pg : Page) : Bool :=
  match pg.kind with
  | .disp =>
    let g := s.fld pg Reg.DISP_ENERGY_GRANT_GRANT_NJ
    decide (g ≤ s.fld pg Reg.DISP_ENERGY_DEPTH_DEPTH_NJ) && (List.range 16).all fun k => decide (s.fld pg Reg.DISP_ECOST_COST_NJ k ≤ g)
  | .move => decide (s.fld pg Reg.MOVE_QP_CFG_FIRST + s.fld pg Reg.MOVE_QP_CFG_COUNT ≤ 512)
  | .admt => (List.range 64).all fun n =>
      decide (s.fld pg Reg.ADMT_TEN_P_CRATE n ≤ s.fld pg Reg.ADMT_TEN_P_PRATE n) &&
      decide (s.fld pg Reg.ADMT_TEN_G_CRATE n ≤ s.fld pg Reg.ADMT_TEN_G_PRATE n)
  | _ => true

/-- Write the fields of one word of a page; those of a broken relation keep their values and record RSV_ENC. -/
def State.writePlain (s : State) (pg : Page) (o : Nat) (v : Word) : State :=
  let fs := fieldsAt pg o
  let t := s.each fs fun s f => s.writeField pg o v f
  if fs.any (fun f => (relFields pg.kind).contains f) && !t.relOk pg then
    (s.each (fs.filter fun f => !(relFields pg.kind).contains f) fun s f => s.writeField pg o v f).rsvEnc pg
  else t

/-- A word of a page takes a write: what a write does beside its field's new value (R308, R280, R322, R324, R414). -/
def State.writeReg (s : State) (pg : Page) (o : Nat) (v : Word) : State :=
  s.ifReady pg fun s =>
    match pg with
    | .mon =>
      if (o = 0x100 ∨ o = 0x104 ∨ o = 0x108) ∧ s.flag .mon Reg.MON_SNAP_ALL_ARM then s.err .mon 0x01 else s.writePlain pg o v
    | .disp p =>
      let was := s.flag pg Reg.DISP_CTRL_FSYNC_EN
      let s := s.writePlain pg o v
      if s.flag pg Reg.DISP_CTRL_FSYNC_EN ∧ ¬ was then s.setPart p { s.part p with fsyncFirst := true } else s
    | .qrm =>
      let was := (List.range 7).map fun w => s.flag .qrm Reg.QRM_WITNESS_VALID w
      let mask := s.fld .qrm Reg.QRM_FENCE_DP_MASK
      let ends := (o = Reg.QRM_FENCE_DP_MASK.off ∨ o = Reg.QRM_FENCE_MIRROR_MASK.off) ∧ Nat.land mask v.toNat ≠ mask
      let s := s.writePlain pg o v
      let s := s.each (List.range 7) fun s w =>
        let now := s.flag .qrm Reg.QRM_WITNESS_VALID w
        if now = was.getD w false then s else s.setBit .qrm Reg.QRM_WIT_ACTIVE_MASK w now
      if ends then s.unfenceDenied else s
    | .move p => (s.writePlain pg o v).armControls p
    | _ => s.writePlain pg o v

/-- A field of a QP context that software writes (Table 08-1): its first bit, its width, and how it is read and set. -/
structure QpField where
  lo : Nat
  width : Nat
  get : Qp → Nat
  set : Qp → Nat → Qp

/-- The fields writable in RESET only. -/
def qpFields : List QpField :=
  [⟨8, 3, fun x => x.tc.val, fun x v => { x with tc := Fin.ofNat 8 v }⟩,
   ⟨16, 12, Qp.remNode, fun x v => { x with remNode := v }⟩,
   ⟨32, 5, fun x => x.remPart.val, fun x v => { x with remPart := Fin.ofNat 32 v }⟩,
   ⟨48, 14, fun x => x.remQpn.val, fun x v => { x with remQpn := Fin.ofNat 16384 v }⟩,
   ⟨64, 47, Qp.sqBase, fun x v => { x with sqBase := v }⟩,
   ⟨128, 47, Qp.rqBase, fun x v => { x with rqBase := v }⟩,
   ⟨192, 47, Qp.cqBase, fun x v => { x with cqBase := v }⟩,
   ⟨256, 4, Qp.sqLog2, fun x v => { x with sqLog2 := v }⟩,
   ⟨260, 4, Qp.rqLog2, fun x v => { x with rqLog2 := v }⟩,
   ⟨264, 5, Qp.cqLog2, fun x v => { x with cqLog2 := v }⟩,
   ⟨440, 4, Qp.retryLimit, fun x v => { x with retryLimit := v }⟩,
   ⟨444, 4, Qp.rnrLimit, fun x v => { x with rnrLimit := v }⟩,
   ⟨472, 4, Qp.ackTo, fun x v => { x with ackTo := v }⟩,
   ⟨504, 8, Qp.rnrUs, fun x v => { x with rnrUs := v }⟩,
   ⟨512, 16, Qp.holdTo, fun x v => { x with holdTo := v }⟩]

/-- The new value of a field of a context under a write of its word j; none where the word does not touch it. -/
def QpField.next (f : QpField) (x : Qp) (j : Nat) (v : Word) : Option Nat :=
  if f.lo + f.width ≤ 32 * j ∨ 32 * j + 32 ≤ f.lo then none
  else some (bits (withBits (f.get x * 2 ^ f.lo) (32 * j) 32 v.toNat) f.lo f.width)

/-- A word of the QP window takes a write (R181, R182): QP_BUSY where it would change a field outside RESET; STATE takes its value
after the other fields of its word. -/
def State.writeQp (s : State) (o : Nat) (v : Word) : State :=
  let q : QpId := Fin.ofNat 16384 (s.fld (.feng 0) Reg.QPW_BANK_BANK * 256 + o / 256)
  let pg : Page := .feng (engOfQp q)
  let j := o % 256 / 4
  s.ifReady pg fun s =>
    let x := s.qp q
    let hit := qpFields.filterMap fun f => (f.next x j v).map fun n => (f, n)
    let s :=
      if x.st = .reset then s.setQp q (hit.foldl (fun y e => e.1.set y e.2) x)
      else if hit.any fun e => e.1.get x != e.2 then s.qpBusy q
      else s
    match j with
    | 0 => s.qpStateWrite q (bits v.toNat 0 3)
    | 8 => if bits v.toNat 16 16 = x.sqTail then s else s.sqPost q (bits v.toNat 16 16)
    | 9 => if bits v.toNat 16 16 = x.rqTail then s else s.rqPost q (bits v.toNat 16 16)
    | 11 => if bits v.toNat 0 21 = x.cqHead then s else s.cqFree q (bits v.toNat 0 21)
    | _ => s

/-- BAR0 has something at an address (Table 17-2). -/
def bar0Mapped (a : Nat) : Bool := (Page.at a).isSome || (decide (0x260000 ≤ a) && decide (a < 0x270000)) || (decide (0x400000 ≤ a) && decide (a < 0x401020))

/-- One 32-bit write. The vector control words of the MSI-X table mask and unmask (R385); the Pending Bit Array is read
only. -/
def State.write32 (s : State) (a : Nat) (v : Word) : State :=
  match Page.at a with
  | some pg => s.writeReg pg (a % 4096) v
  | none =>
    if 0x260000 ≤ a ∧ a < 0x270000 then s.writeQp (a - 0x260000) v
    else if 0x400000 ≤ a ∧ a < 0x401000 then
      if a % 16 = 12 then
        let vec := (a - 0x400000) / 16
        if v.toNat % 2 = 1 then
          { s.setWord a 1 with pcie := { s.pcie with unmasked := s.pcie.unmasked.filter (· ≠ vec) } }
        else s.unmaskPf vec
      else s.setWord a v
    else s

/-- REGISTER_WRITE (R342, R380, R381): the host and the Wellhead write alike. A 64-bit access acts on its lower word first. -/
def execRegisterWrite (by_ : Requester) (addr : Nat) (width : Nat) (v : Word64) (s : State) : Res :=
  let _ := by_
  .next (
    if ¬ ((width = 4 ∧ addr % 4 = 0) ∨ (width = 8 ∧ addr % 8 = 0)) then (s.err .pcie 0x01).count .pcie 0x98
    else if ¬ bar0Mapped addr then (s.err .pcie 0x02).count .pcie 0xA0
    else if width = 4 then s.write32 addr (BitVec.ofNat 32 v.toNat)
    else (s.write32 addr (BitVec.ofNat 32 v.toNat)).write32 (addr + 4) (BitVec.ofNat 32 (v.toNat / 2 ^ 32)))

end Sys2Proof.Machine
end

