-- ==== Sys2Proof/Machine/Dispatch.lean ====
section
/-! DEFINITION. One arm per command: a direct call of its meaning. -/

namespace Sys2Proof.Machine
open Sys2Proof

def exec (i : Instr) (s : State) : Host.Outcome State Fault Refusal :=
  match i with
  | .registerWrite by_ addr width v => Sys2Proof.Machine.execRegisterWrite by_ addr width v s
  | .pgLock pg => Sys2Proof.Machine.execPgLock pg s
  | .pgIrqStatWrite pg v => Sys2Proof.Machine.execPgIrqStatWrite pg v s
  | .pgIrqEnWrite pg v => Sys2Proof.Machine.execPgIrqEnWrite pg v s
  | .pgErrClr pg sameCycle => Sys2Proof.Machine.execPgErrClr pg sameCycle s
  | .pwrOppWrite q cap floor => Sys2Proof.Machine.execPwrOppWrite q cap floor s
  | .dispRoleWrite p target evict => Sys2Proof.Machine.execDispRoleWrite p target evict s
  | .drainComplete p => Sys2Proof.Machine.execDrainComplete p s
  | .scrubComplete p => Sys2Proof.Machine.execScrubComplete p s
  | .controllerReady p => Sys2Proof.Machine.execControllerReady p s
  | .pctlLoadFail p => Sys2Proof.Machine.execPctlLoadFail p s
  | .taskDescriptorArrive t slot d => Sys2Proof.Machine.execTaskDescriptorArrive t slot d s
  | .taskDispatch t engine latency => Sys2Proof.Machine.execTaskDispatch t engine latency s
  | .taskComplete t run => Sys2Proof.Machine.execTaskComplete t run s
  | .taskEventReportAccept t slot => Sys2Proof.Machine.execTaskEventReportAccept t slot s
  | .taskRunningError t slot e => Sys2Proof.Machine.execTaskRunningError t slot e s
  | .sbWatchdogExpire t slot => Sys2Proof.Machine.execSbWatchdogExpire t slot s
  | .sbClrMaxlat t => Sys2Proof.Machine.execSbClrMaxlat t s
  | .progLoadGo t index => Sys2Proof.Machine.execProgLoadGo t index s
  | .progLoadComplete t => Sys2Proof.Machine.execProgLoadComplete t s
  | .attnParamsLatched t slot => Sys2Proof.Machine.execAttnParamsLatched t slot s
  | .mergeNodeArrive t run record => Sys2Proof.Machine.execMergeNodeArrive t run record s
  | .mergeEmitDone p m => Sys2Proof.Machine.execMergeEmitDone p m s
  | .codecErrInfoClear => Sys2Proof.Machine.execCodecErrInfoClear s
  | .tierRead src offset len => Sys2Proof.Machine.execTierRead src offset len s
  | .tierWrite src offset data => Sys2Proof.Machine.execTierWrite src offset data s
  | .zeroFillComplete page => Sys2Proof.Machine.execZeroFillComplete page s
  | .memUncorrectableError page => Sys2Proof.Machine.execMemUncorrectableError page s
  | .migrationStart page dst => Sys2Proof.Machine.execMigrationStart page dst s
  | .migrationCommit page => Sys2Proof.Machine.execMigrationCommit page s
  | .migrationTimeout page => Sys2Proof.Machine.execMigrationTimeout page s
  | .tierEpochEnd => Sys2Proof.Machine.execTierEpochEnd s
  | .hwDemote z t => Sys2Proof.Machine.execHwDemote z t s
  | .tierCmdPin arg => Sys2Proof.Machine.execTierCmdPin arg s
  | .tierCmdUnpin => Sys2Proof.Machine.execTierCmdUnpin s
  | .tierCmdHint arg => Sys2Proof.Machine.execTierCmdHint arg s
  | .tierCmdMove arg => Sys2Proof.Machine.execTierCmdMove arg s
  | .tierCmdFree => Sys2Proof.Machine.execTierCmdFree s
  | .tierCmdDone => Sys2Proof.Machine.execTierCmdDone s
  | .tierZoneWrite z w v => Sys2Proof.Machine.execTierZoneWrite z w v s
  | .tierLayoutWrite side v => Sys2Proof.Machine.execTierLayoutWrite side v s
  | .tierCapacityDrop t cap => Sys2Proof.Machine.execTierCapacityDrop t cap s
  | .blockTrainingDone pg ok dimms rate frames => Sys2Proof.Machine.execBlockTrainingDone pg ok dimms rate frames s
  | .load r => Sys2Proof.Machine.execLoad r s
  | .store r => Sys2Proof.Machine.execStore r s
  | .fadd64 r => Sys2Proof.Machine.execFadd64 r s
  | .swap64 r => Sys2Proof.Machine.execSwap64 r s
  | .cas64 r => Sys2Proof.Machine.execCas64 r s
  | .cas128 r => Sys2Proof.Machine.execCas128 r s
  | .for64 r => Sys2Proof.Machine.execFor64 r s
  | .flush r plane => Sys2Proof.Machine.execFlush r plane s
  | .flushMarkerAnswer r plane => Sys2Proof.Machine.execFlushMarkerAnswer r plane s
  | .invalidate r => Sys2Proof.Machine.execInvalidate r s
  | .inv r => Sys2Proof.Machine.execInv r s
  | .loadResp r => Sys2Proof.Machine.execLoadResp r s
  | .storeAck r => Sys2Proof.Machine.execStoreAck r s
  | .atomicResp r => Sys2Proof.Machine.execAtomicResp r s
  | .flushResp r plane => Sys2Proof.Machine.execFlushResp r plane s
  | .invalidateResp r => Sys2Proof.Machine.execInvalidateResp r s
  | .invAck page node => Sys2Proof.Machine.execInvAck page node s
  | .nak r plane => Sys2Proof.Machine.execNak r plane s
  | .requestTimeout e tag => Sys2Proof.Machine.execRequestTimeout e tag s
  | .invTimeout page => Sys2Proof.Machine.execInvTimeout page s
  | .regionFlush p key => Sys2Proof.Machine.execRegionFlush p key s
  | .qpStateInit q => Sys2Proof.Machine.execQpStateInit q s
  | .qpStateRts q => Sys2Proof.Machine.execQpStateRts q s
  | .qpStateReset q => Sys2Proof.Machine.execQpStateReset q s
  | .qpStateError q => Sys2Proof.Machine.execQpStateError q s
  | .qpErrorFlushDone q => Sys2Proof.Machine.execQpErrorFlushDone q s
  | .qpDbSqTail q value => Sys2Proof.Machine.execQpDbSqTail q value s
  | .qpDbRqTail q value => Sys2Proof.Machine.execQpDbRqTail q value s
  | .qpDbCqHead q value => Sys2Proof.Machine.execQpDbCqHead q value s
  | .wrWrite q => Sys2Proof.Machine.execWrWrite q s
  | .wrRead q => Sys2Proof.Machine.execWrRead q s
  | .wrSend q => Sys2Proof.Machine.execWrSend q s
  | .wrWriteTrigger q => Sys2Proof.Machine.execWrWriteTrigger q s
  | .wrFlush q => Sys2Proof.Machine.execWrFlush q s
  | .wrCancel q => Sys2Proof.Machine.execWrCancel q s
  | .heldWrRegister q => Sys2Proof.Machine.execHeldWrRegister q s
  | .trigFire e tag => Sys2Proof.Machine.execTrigFire e tag s
  | .trigTimerExpire q => Sys2Proof.Machine.execTrigTimerExpire q s
  | .holdExpired q index => Sys2Proof.Machine.execHoldExpired q index s
  | .qwrite r => Sys2Proof.Machine.execQwrite r s
  | .qwriteTrig r => Sys2Proof.Machine.execQwriteTrig r s
  | .qreadReq r => Sys2Proof.Machine.execQreadReq r s
  | .qsend r => Sys2Proof.Machine.execQsend r s
  | .qflush r => Sys2Proof.Machine.execQflush r s
  | .qcancel r => Sys2Proof.Machine.execQcancel r s
  | .writeTriggerEffect q psn => Sys2Proof.Machine.execWriteTriggerEffect q psn s
  | .qflushAnswer q psn => Sys2Proof.Machine.execQflushAnswer q psn s
  | .cancelApply q psn => Sys2Proof.Machine.execCancelApply q psn s
  | .qack r => Sys2Proof.Machine.execQack r s
  | .qreadResp r => Sys2Proof.Machine.execQreadResp r s
  | .qplaceAck r => Sys2Proof.Machine.execQplaceAck r s
  | .qflushResp r => Sys2Proof.Machine.execQflushResp r s
  | .qnak r => Sys2Proof.Machine.execQnak r s
  | .qackTimer q => Sys2Proof.Machine.execQackTimer q s
  | .retransmitTimeout q => Sys2Proof.Machine.execRetransmitTimeout q s
  | .rnrRetryTimer q => Sys2Proof.Machine.execRnrRetryTimer q s
  | .rgnCmdWrite p index => Sys2Proof.Machine.execRgnCmdWrite p index s
  | .rgnCmdRead p index => Sys2Proof.Machine.execRgnCmdRead p index s
  | .rgnCmdRevoke p index => Sys2Proof.Machine.execRgnCmdRevoke p index s
  | .rgnCmdComplete p => Sys2Proof.Machine.execRgnCmdComplete p s
  | .dataFlitReceive n f => Sys2Proof.Machine.execDataFlitReceive n f s
  | .controlFlitReceive n f => Sys2Proof.Machine.execControlFlitReceive n f s
  | .idleFlitReceive n f => Sys2Proof.Machine.execIdleFlitReceive n f s
  | .flitAckTimer n => Sys2Proof.Machine.execFlitAckTimer n s
  | .flitReplayTimeout n => Sys2Proof.Machine.execFlitReplayTimeout n s
  | .flitTransmit n => Sys2Proof.Machine.execFlitTransmit n s
  | .packetEnterPort n c bytes => Sys2Proof.Machine.execPacketEnterPort n c bytes s
  | .linkTrained n lanes stages => Sys2Proof.Machine.execLinkTrained n lanes stages s
  | .linkDown n => Sys2Proof.Machine.execLinkDown n s
  | .portTcWrite n c w v => Sys2Proof.Machine.execPortTcWrite n c w v s
  | .finjArm v => Sys2Proof.Machine.execFinjArm v s
  | .openPush p m => Sys2Proof.Machine.execOpenPush p m s
  | .openPark p m => Sys2Proof.Machine.execOpenPark p m s
  | .openAck p m => Sys2Proof.Machine.execOpenAck p m s
  | .pullReq p m => Sys2Proof.Machine.execPullReq p m s
  | .pullNak p m => Sys2Proof.Machine.execPullNak p m s
  | .close p m => Sys2Proof.Machine.execClose p m s
  | .closeAck p m => Sys2Proof.Machine.execCloseAck p m s
  | .expire p m => Sys2Proof.Machine.execExpire p m s
  | .moverStageCopyDone p pass layer => Sys2Proof.Machine.execMoverStageCopyDone p pass layer s
  | .attachDone p c unit => Sys2Proof.Machine.execAttachDone p c unit s
  | .parkRetryTimer p reqId => Sys2Proof.Machine.execParkRetryTimer p reqId s
  | .adpLoad p slot => Sys2Proof.Machine.execAdpLoad p slot s
  | .adpLoadDone p fault => Sys2Proof.Machine.execAdpLoadDone p fault s
  | .adpRetire p slot => Sys2Proof.Machine.execAdpRetire p slot s
  | .adpForce p slot => Sys2Proof.Machine.execAdpForce p slot s
  | .cacheTtlTick p => Sys2Proof.Machine.execCacheTtlTick p s
  | .orphanTimeout p entry => Sys2Proof.Machine.execOrphanTimeout p entry s
  | .prefixBucketsLoaded p reqId cache cacheNode key buckets => Sys2Proof.Machine.execPrefixBucketsLoaded p reqId cache cacheNode key buckets s
  | .search p => Sys2Proof.Machine.execSearch p s
  | .searchDone p ticket => Sys2Proof.Machine.execSearchDone p ticket s
  | .pfxInsert p => Sys2Proof.Machine.execPfxInsert p s
  | .pfxInsertDone p ticket nak => Sys2Proof.Machine.execPfxInsertDone p ticket nak s
  | .poolForwardPlaced region r => Sys2Proof.Machine.execPoolForwardPlaced region r s
  | .poolRebuild => Sys2Proof.Machine.execPoolRebuild s
  | .poolResync => Sys2Proof.Machine.execPoolResync s
  | .poolCmdDone ok pages => Sys2Proof.Machine.execPoolCmdDone ok pages s
  | .launchSelect p => Sys2Proof.Machine.execLaunchSelect p s
  | .launchDescRead p k o => Sys2Proof.Machine.execLaunchDescRead p k o s
  | .dispSend p tile => Sys2Proof.Machine.execDispSend p tile s
  | .dispLringTailWrite p tail => Sys2Proof.Machine.execDispLringTailWrite p tail s
  | .rsSelWrite p index => Sys2Proof.Machine.execRsSelWrite p index s
  | .rsDataStage p k v => Sys2Proof.Machine.execRsDataStage p k v s
  | .rsCommit p v => Sys2Proof.Machine.execRsCommit p v s
  | .pfLeftWrite p us => Sys2Proof.Machine.execPfLeftWrite p us s
  | .dispFailClear p => Sys2Proof.Machine.execDispFailClear p s
  | .energyRefillTick p => Sys2Proof.Machine.execEnergyRefillTick p s
  | .energyGrant p => Sys2Proof.Machine.execEnergyGrant p s
  | .fsyncHoldExpire p => Sys2Proof.Machine.execFsyncHoldExpire p s
  | .powerManagerTick => Sys2Proof.Machine.execPowerManagerTick s
  | .reqTail n tail => Sys2Proof.Machine.execReqTail n tail s
  | .generate p n d h => Sys2Proof.Machine.execGenerate p n d h s
  | .pause p n d h => Sys2Proof.Machine.execPause p n d h s
  | .resume p n d h => Sys2Proof.Machine.execResume p n d h s
  | .release p n d h => Sys2Proof.Machine.execRelease p n d h s
  | .deferRetryTimer p => Sys2Proof.Machine.execDeferRetryTimer p s
  | .deferDeadline p reqId => Sys2Proof.Machine.execDeferDeadline p reqId s
  | .idleParkTimer n conv => Sys2Proof.Machine.execIdleParkTimer n conv s
  | .tenantCancel n tag => Sys2Proof.Machine.execTenantCancel n tag s
  | .tokHead n head => Sys2Proof.Machine.execTokHead n head s
  | .cplHead n head => Sys2Proof.Machine.execCplHead n head s
  | .tenantRingCfgWrite n r => Sys2Proof.Machine.execTenantRingCfgWrite n r s
  | .samplerDone p slot => Sys2Proof.Machine.execSamplerDone p slot s
  | .tokenWrite p slot => Sys2Proof.Machine.execTokenWrite p slot s
  | .completionRecordWrite n => Sys2Proof.Machine.execCompletionRecordWrite n s
  | .vfTokModTimer n => Sys2Proof.Machine.execVfTokModTimer n s
  | .vfFlr n => Sys2Proof.Machine.execVfFlr n s
  | .cntSnap pg clr => Sys2Proof.Machine.execCntSnap pg clr s
  | .cntClr pg => Sys2Proof.Machine.execCntClr pg s
  | .monSnapArm clear => Sys2Proof.Machine.execMonSnapArm clear s
  | .monSnapFire => Sys2Proof.Machine.execMonSnapFire s
  | .unitLevelSample u => Sys2Proof.Machine.execUnitLevelSample u s
  | .unitCfgWrite u w v => Sys2Proof.Machine.execUnitCfgWrite u w v s
  | .qrmFenceNow mask => Sys2Proof.Machine.execQrmFenceNow mask s
  | .fenceAssert p => Sys2Proof.Machine.execFenceAssert p s
  | .qrmUnfenceReqWrite mask => Sys2Proof.Machine.execQrmUnfenceReqWrite mask s
  | .qrmPcHb p => Sys2Proof.Machine.execQrmPcHb p s
  | .heartbeatInterval => Sys2Proof.Machine.execHeartbeatInterval s
  | .heartbeat h alive => Sys2Proof.Machine.execHeartbeat h alive s
  | .hbAck h => Sys2Proof.Machine.execHbAck h s
  | .suspect h node mask => Sys2Proof.Machine.execSuspect h node mask s
  | .faultReport h who cause => Sys2Proof.Machine.execFaultReport h who cause s
  | .propose h d => Sys2Proof.Machine.execPropose h d s
  | .vote h epoch accept => Sys2Proof.Machine.execVote h epoch accept s
  | .commit h d => Sys2Proof.Machine.execCommit h d s
  | .commitAck h => Sys2Proof.Machine.execCommitAck h s
  | .commitResendTimer => Sys2Proof.Machine.execCommitResendTimer s
  | .unfenceReq h mask => Sys2Proof.Machine.execUnfenceReq h mask s
  | .digest k m => Sys2Proof.Machine.execDigest k m s
  | .syncReq h last => Sys2Proof.Machine.execSyncReq h last s
  | .syncResp h entries final => Sys2Proof.Machine.execSyncResp h entries final s
  | .fenceCompareTick => Sys2Proof.Machine.execFenceCompareTick s
  | .digestPassDone k => Sys2Proof.Machine.execDigestPassDone k s
  | .digRegionWrite k w v => Sys2Proof.Machine.execDigRegionWrite k w v s
  | .railReadComplete rail reading => Sys2Proof.Machine.execRailReadComplete rail reading s
  | .oppTick busy => Sys2Proof.Machine.execOppTick busy s
  | .oppTransitionDone q => Sys2Proof.Machine.execOppTransitionDone q s
  | .thermalLimit q temp sensor => Sys2Proof.Machine.execThermalLimit q temp sensor s
  | .droopDetect q => Sys2Proof.Machine.execDroopDetect q s
  | .thermalTrip temp sensor => Sys2Proof.Machine.execThermalTrip temp sensor s
  | .thermRelease temp => Sys2Proof.Machine.execThermRelease temp s
  | .powerDownMaskWrite which v => Sys2Proof.Machine.execPowerDownMaskWrite which v s
  | .pwrTileGateWrite v => Sys2Proof.Machine.execPwrTileGateWrite v s
  | .lpIdleEnter u => Sys2Proof.Machine.execLpIdleEnter u s
  | .wakeDone u => Sys2Proof.Machine.execWakeDone u s
  | .pllLockLoss l => Sys2Proof.Machine.execPllLockLoss l s
  | .pwrGoodRise => Sys2Proof.Machine.execPwrGoodRise s
  | .pwrGoodFall => Sys2Proof.Machine.execPwrGoodFall s
  | .powerOnReset => Sys2Proof.Machine.execPowerOnReset s
  | .resetNAssert => Sys2Proof.Machine.execResetNAssert s
  | .resetNRelease straps => Sys2Proof.Machine.execResetNRelease straps s
  | .strapSample straps => Sys2Proof.Machine.execStrapSample straps s
  | .perstAssert => Sys2Proof.Machine.execPerstAssert s
  | .devRst key => Sys2Proof.Machine.execDevRst key s
  | .blockResetReq pg => Sys2Proof.Machine.execBlockResetReq pg s
  | .quiesceDone pg => Sys2Proof.Machine.execQuiesceDone pg s
  | .quiesceTimeout pg => Sys2Proof.Machine.execQuiesceTimeout pg s
  | .blockResetDone pg => Sys2Proof.Machine.execBlockResetDone pg s
  | .fsyncEdge falling => Sys2Proof.Machine.execFsyncEdge falling s
  | .fsyncLostTimeout => Sys2Proof.Machine.execFsyncLostTimeout s
  | .tsyncEdge => Sys2Proof.Machine.execTsyncEdge s
  | .tsyncLostTimeout => Sys2Proof.Machine.execTsyncLostTimeout s
  | .timeExchangeTimer => Sys2Proof.Machine.execTimeExchangeTimer s
  | .timeMessage t1 t2 t3 t4 => Sys2Proof.Machine.execTimeMessage t1 t2 t3 t4 s
  | .timeSet ns => Sys2Proof.Machine.execTimeSet ns s
  | .romBoot => Sys2Proof.Machine.execRomBoot s
  | .wlhWdogWarn => Sys2Proof.Machine.execWlhWdogWarn s
  | .wdogReset => Sys2Proof.Machine.execWdogReset s
  | .wlhKick key => Sys2Proof.Machine.execWlhKick key s
  | .install => Sys2Proof.Machine.execInstall s
  | .verify => Sys2Proof.Machine.execVerify s
  | .updDone => Sys2Proof.Machine.execUpdDone s
  | .confirm => Sys2Proof.Machine.execConfirm s
  | .rcvVerify => Sys2Proof.Machine.execRcvVerify s
  | .rcvInstall => Sys2Proof.Machine.execRcvInstall s
  | .rcvBoot => Sys2Proof.Machine.execRcvBoot s
  | .writeBuf seq offset data crcOk => Sys2Proof.Machine.execWriteBuf seq offset data crcOk s
  | .setLen seq len crcOk => Sys2Proof.Machine.execSetLen seq len crcOk s
  | .run seq op crcOk => Sys2Proof.Machine.execRun seq op crcOk s
  | .status seq crcOk => Sys2Proof.Machine.execStatus seq crcOk s
  | .uartFrameTimeout => Sys2Proof.Machine.execUartFrameTimeout s
  | .uartRxByte b stopLow => Sys2Proof.Machine.execUartRxByte b stopLow s
  | .uartDataWrite b => Sys2Proof.Machine.execUartDataWrite b s
  | .uartDataRead => Sys2Proof.Machine.execUartDataRead s
  | .ledgWrGo by_ type key => Sys2Proof.Machine.execLedgWrGo by_ type key s
  | .ledgWriteDone failures => Sys2Proof.Machine.execLedgWriteDone failures s
  | .ledgRdGo index byKey => Sys2Proof.Machine.execLedgRdGo index byKey s
  | .flashEraseDone sector blank eraseUs => Sys2Proof.Machine.execFlashEraseDone sector blank eraseUs s
  | .bar2Read fn1 x len => Sys2Proof.Machine.execBar2Read fn1 x len s
  | .bar2Write fn1 x data => Sys2Proof.Machine.execBar2Write fn1 x data s
  | .bar2AtomicOp fn1 x => Sys2Proof.Machine.execBar2AtomicOp fn1 x s
  | .bar2HoldTimeout ticket => Sys2Proof.Machine.execBar2HoldTimeout ticket s
  | .devNodeWrite v => Sys2Proof.Machine.execDevNodeWrite v s
  | .pllRelock l => Sys2Proof.Machine.execPllRelock l s
  | .perstDeassert => Sys2Proof.Machine.execPerstDeassert s
  | .pcieLinkChange link1 gen width flit toLowPower => Sys2Proof.Machine.execPcieLinkChange link1 gen width flit toLowPower s
  | .aerErrorLogged correctable => Sys2Proof.Machine.execAerErrorLogged correctable s
  | .msixVectorUnmask vf vec => Sys2Proof.Machine.execMsixVectorUnmask vf vec s
  | .vfEnableWrite numVfs enable => Sys2Proof.Machine.execVfEnableWrite numVfs enable s
  | .portCtrlEnableWrite n enable => Sys2Proof.Machine.execPortCtrlEnableWrite n enable s
  | .linkPartnerWake n => Sys2Proof.Machine.execLinkPartnerWake n s
  | .patrolPassDone r => Sys2Proof.Machine.execPatrolPassDone r s
  | .flashProgramDone sector good progUs => Sys2Proof.Machine.execFlashProgramDone sector good progUs s
  | .uartTxByteSent => Sys2Proof.Machine.execUartTxByteSent s

end Sys2Proof.Machine
end

