-- ==== Sys2Proof/Machine/Frame.lean ====
section
/-! DEFINITION. The words statements use: which command completes with what, and what a command leaves as it was. -/

namespace Sys2Proof.Machine
open Sys2Proof

/-- The components of the state, one for each field of `State`. -/
inductive Comp where
  | now | fresh | pending | out | regs | cnt | shadow | mem | sram | sramBad | tiles | parts
  | movers | tenants | reqs | convs | tier | rrc | engines | regions | qps | ports | finj | srch
  | units | digs | elog | qrm | pwr | rst | fuses | wlh | ledger | uart | pcie | sync
  | unreached
deriving DecidableEq, Repr

/-- A component is the same in two states. -/
def Comp.same (s t : State) : Comp → Prop
  | .now => t.now = s.now
  | .fresh => t.fresh = s.fresh
  | .pending => t.pending = s.pending
  | .out => t.out = s.out
  | .regs => t.regs = s.regs
  | .cnt => t.cnt = s.cnt
  | .shadow => t.shadow = s.shadow
  | .mem => t.mem = s.mem
  | .sram => t.sram = s.sram
  | .sramBad => t.sramBad = s.sramBad
  | .tiles => t.tiles = s.tiles
  | .parts => t.parts = s.parts
  | .movers => t.movers = s.movers
  | .tenants => t.tenants = s.tenants
  | .reqs => t.reqs = s.reqs
  | .convs => t.convs = s.convs
  | .tier => t.tier = s.tier
  | .rrc => t.rrc = s.rrc
  | .engines => t.engines = s.engines
  | .regions => t.regions = s.regions
  | .qps => t.qps = s.qps
  | .ports => t.ports = s.ports
  | .finj => t.finj = s.finj
  | .srch => t.srch = s.srch
  | .units => t.units = s.units
  | .digs => t.digs = s.digs
  | .elog => t.elog = s.elog
  | .qrm => t.qrm = s.qrm
  | .pwr => t.pwr = s.pwr
  | .rst => t.rst = s.rst
  | .fuses => t.fuses = s.fuses
  | .wlh => t.wlh = s.wlh
  | .ledger => t.ledger = s.ledger
  | .uart => t.uart = s.uart
  | .pcie => t.pcie = s.pcie
  | .sync => t.sync = s.sync
  | .unreached => t.unreached = s.unreached

/-- Every component outside the list is unchanged. -/
def State.keeps (s t : State) (l : List Comp) : Prop := ∀ c, c ∉ l → Comp.same s t c

/-- The place of a register field: its page, the field, its instance. -/
abbrev Place := Page × Fld × Nat

/-- The place of instance i of a field. -/
def Fld.place (f : Fld) (pg : Page) (i : Nat := 0) : Place := (pg, f, i)

/-- Bit b of the word at BAR0 address a belongs to the field. -/
def Place.covers (x : Place) (a b : Nat) : Prop :=
  let p := x.2.1.addr x.1 x.2.2
  p ≤ a ∧ x.2.1.lo ≤ (a - p) * 8 + b ∧ (a - p) * 8 + b < x.2.1.lo + x.2.1.width

/-- Every register bit outside the listed fields is unchanged. -/
def State.bitsBut (s t : State) (l : List Place) : Prop :=
  ∀ a b, (∀ x ∈ l, ¬ x.covers a b) → (t.word a).getLsbD b = (s.word a).getLsbD b

/-- Every live counter outside the listed ones, each a page and an offset, is unchanged. -/
def State.countsBut (s t : State) (l : List (Page × Nat)) : Prop :=
  ∀ a, (∀ x ∈ l, a ≠ x.1.base + x.2) → Map.get 0 t.cnt a = Map.get 0 s.cnt a

/-- The frame of a command: components, register fields and counters outside the three lists are unchanged. -/
def State.changes (s t : State) (cs : List Comp) (fs : List Place) (ns : List (Page × Nat)) : Prop :=
  s.keeps t (.regs :: .cnt :: cs) ∧ s.bitsBut t fs ∧ s.countsBut t ns

/-- A frame by pages: components outside the list are unchanged, and so is every register word and counter outside the
listed pages. -/
def State.changesOn (s t : State) (cs : List Comp) (pgs : List Page) : Prop :=
  s.keeps t (.regs :: .cnt :: cs) ∧
  ∀ a, (∀ pg ∈ pgs, a < pg.base ∨ pg.base + 4096 ≤ a) →
    t.word a = s.word a ∧ Map.get 0 t.cnt a = Map.get 0 s.cnt a

/-- Every entry of a map but those of the listed keys is unchanged. -/
def othersSame {β : Type} (d : β) (m n : Map β) (ks : List Nat) : Prop := ∀ k, k ∉ ks → Map.get d n k = Map.get d m k

/-- Every byte of a memory outside n bytes from address a is unchanged. -/
def bytesSame (m n : Memory) (a len : Nat) : Prop := ∀ x, x < a ∨ a + len ≤ x → Map.get 0 n x = Map.get 0 m x

/-- The command completes: `exec` answers a next state, and P holds of it. -/
def completes (c : Instr) (s : State) (P : State → Prop) : Prop := ∃ t, exec c s = .next t ∧ P t

/-- What an interrupt event of a page may write: PG_IRQ_STAT, and the counters of its bits and of messages (R385). -/
def irqPlaces (pg : Page) : List Place := [Reg.PG_IRQ_STAT.place pg]
def irqCounts (pg : Page) : List (Page × Nat) := [(pg, 0x58), (.pcie, 0xB0)]

/-- What an error of a page writes: PG_ERR and ERR_EVENTS (R386). -/
def errPlaces (pg : Page) : List Place := [Reg.PG_ERR_CODE.place pg, Reg.PG_ERR_MULTI.place pg]
def errCounts (pg : Page) : List (Page × Nat) := [(pg, 0x50)]

/-- Bit b of PG_IRQ_STAT of the page is set, its other bits kept (R385). -/
abbrev State.raised (s t : State) (pg : Page) (b : Nat) : Prop :=
  t.word (pg.base + 0x10) = s.word (pg.base + 0x10) ||| BitVec.ofNat 32 (2 ^ b)

/-- The page records a code: CODE takes it, MULTI says CODE was not zero, ERR_EVENTS counts it (R386). -/
abbrev State.erred (s t : State) (pg : Page) (code : Nat) : Prop :=
  t.fld pg Reg.PG_ERR_CODE = code ∧
  t.fld pg Reg.PG_ERR_MULTI = (s.fld pg Reg.PG_ERR_CODE != 0 || s.flag pg Reg.PG_ERR_MULTI).toNat ∧
  t.counter pg 0x50 = min max64 (s.counter pg 0x50 + 1)

/-- n events are counted at an offset of a page (R305). -/
abbrev State.counted (s t : State) (pg : Page) (o : Nat) (n : Nat := 1) : Prop :=
  t.counter pg o = min max64 (s.counter pg o + n)

/-- The messages of a pending page: to the host's vector where DEST names it and it is unmasked, to the Wellhead where DEST
names it (R385). -/
def State.messages (s : State) (pg : Page) : List Out :=
  let d := s.fld pg Reg.PG_CTRL_DEST
  (if (d = 0 ∨ d = 2) ∧ s.fld pg Reg.PG_CTRL_VEC ∈ s.pcie.unmasked then [.msix none (s.fld pg Reg.PG_CTRL_VEC)] else []) ++
  (if d = 1 ∨ d = 2 then [.wellheadIrq pg] else [])

/-- The messages of bit b set on a page: those of a page that becomes pending (R385). -/
def State.irqOut (s : State) (pg : Page) (b : Nat) : List Out :=
  if !s.irqPending pg && bit (s.word (pg.base + 0x14)).toNat b then s.messages pg else []

/-- What a write the device makes in the State Space may touch, whatever its pages are: the bytes, a page's home or its pull, a
refusal (R130, R133, R136, R221). -/
def putComps : List Comp := [.out, .mem, .digs, .tier, .pwr, .pcie, .movers]
def putPages : List Page := [.tier, .pwr, .pcie] ++ allParts.map Page.move

/-- The same of bytes on pages that are RESIDENT with nothing held: the bytes and the accesses counted. -/
def storeComps : List Comp := [.out, .mem, .digs, .tier, .pwr]
def storeCounts : List (Page × Nat) := [(.tier, 0x90), (.pwr, 0xB0)]

/-- What writing an error record may touch beside the log: the ring's bytes in the State Space, an escalation's fence cause,
interrupts (R315 to R317). -/
def recordComps : List Comp := [.fresh, .out, .mem, .tier, .digs, .elog, .qrm, .pwr, .pcie, .movers]
def recordPages : List Page := [.elog, .tier, .pwr, .pcie] ++ allParts.map Page.move

/-- The newest error record is the one that names this event, numbered one above the last (R315). -/
abbrev State.recorded (s t : State) (pg : Page) (a : RecArgs) : Prop :=
  let n := (s.fld .elog Reg.ELOG_SEQ_SEQ + 1) % 2 ^ 32
  t.elog.recent.head? = some (s.errorRecord pg a n) ∧ t.fld .elog Reg.ELOG_SEQ_SEQ = n

/-- The answer of a home to a memory-semantic request of another device, on the request's plane and class (R160). -/
def replyTo (op : Nat) (r : MemReq) (status : Nat) (noCache : Bool) (data : List Byte) : Out :=
  respOut op r.plane.val
    { status := status, noCache := noCache, plain := false, dstFeng := r.srcFeng, dstNode := r.srcNode, tag := r.tag,
      detail := 0, data := data, tc := r.tc }

/-- The answer that a queue pair sends to a packet, on a plane of its own and in the class of the QP: none where no plane reaches
the packet's sender (R194 to R196). -/
def State.qpAnswer (s : State) (q : QpId) (op : Nat) (r : QpResp) : List Out :=
  match s.qpPlaneTo q r.dstNode r.dstQpn with
  | none => []
  | some plane => [qpRespOut op plane { r with tc := (s.qp q).tc }]

/-- The message that a mover owes a peer: on its control QP, where the partition is not fenced and has one (R209, R210). -/
def State.moverMail (s : State) (p : PartId) (type : Nat) (node : Nat) (part : PartId) (m : MoverMsg) : List (QpId × List Byte) :=
  match if s.fenced p then [] else s.poolTo p node part with
  | [] => []
  | q :: _ => [(q, moverBytes type m)]

/-- The flit without a payload that a port sends: its kind, the acknowledgement it carries, one class's credits (R200, Table
08-11). -/
def Port.bareOut (x : Port) (n : PortId) (kind : Nat) (ackValid retry : Bool) : Out :=
  let cr := x.creditsBack.headD (0, 0)
  .flit n kind x.seqNext false (linkFlit kind x.seqNext (x.exp + 4095) ackValid retry cr.1 cr.2)

/-- A port after such a flit: what it carried is no longer owed. -/
def Port.afterBare (x : Port) : Port :=
  let cr := x.creditsBack.headD (0, 0)
  { x with rxUnacked := 0, creditsBack := Map.set 0 x.creditsBack cr.1 (cr.2 - min cr.2 8191) }

/-- A port whose held flits the acknowledgement of a received flit covers, and whose credits it returns (R200). -/
def Port.told (x : Port) (f : Flit) : Port :=
  { x with
    held := if f.ackValid then x.held.filter (fun h => !decide (seqAhead h.1 f.ackSeq < 2048)) else x.held
    replays := if f.ackValid = true ∧ (x.held.any fun h => decide (seqAhead h.1 f.ackSeq < 2048)) = true then 0 else x.replays
    credits := if f.crCount = 0 then x.credits
      else Map.set 0 x.credits f.crTc.val (Map.get 0 x.credits f.crTc.val + f.crCount) }

/-- No forwarded update of a pooled region waits for a slot of the engine (R247). -/
abbrev State.noFwd (s : State) (e : EngId) : Prop := ∀ f ∈ s.srch.fwds, f.sent = true ∨ connEng f.fwd ≠ e

/-- n bytes from an offset of the State Space can be read at once: every page holds them, behind no held write (R131). -/
abbrev State.readable (s : State) (a n : Nat) : Prop := (pagesOf a n).all (fun p => decide (s.serveRead p = .data)) = true

/-- Each of the ranges can be read at once; an empty range always can. -/
abbrev State.readableAll (s : State) (l : List (Nat × Nat)) : Prop :=
  l.all (fun r => r.2 == 0 || (pagesOf r.1 r.2).all fun p => decide (s.serveRead p = .data)) = true

/-- No page is being parked: nothing that waits for one goes on when a request ends (R219, R225). -/
abbrev State.noParks (s : State) : Prop := ∀ m ∈ s.tier.migs, m.kind ≠ .park

/-- No access of a unit of this device waits at the tier controller, nor an answer to one (R131). -/
abbrev State.tierIdle (s : State) : Prop := s.tier.answers = [] ∧ s.tier.held = [] ∧ s.tier.stalled = []

/-- A completed task's input tags have one reader less, its output tag is READY, and the slots that waited for them alone are READY
(R70, Table 03-5). -/
abbrev State.tagged (s t : State) (u : TileId) (i : Fin 64) (d : BitVec 512) : Prop :=
  (∀ k ∈ tInTags d, k ≠ 255 → k ≠ tOutTag d →
    t.bufTag u k = if (s.bufTag u k).readers ≤ 1 then {} else { s.bufTag u k with readers := (s.bufTag u k).readers - 1 }) ∧
  (tOutTag d ≠ 255 → tReaders d ≠ 0 → t.bufTag u (tOutTag d) = { ready := true, readers := tReaders d }) ∧
  ∀ j : Fin 64, j ≠ i → t.slot u j =
    if (s.slot u j).st = .waiting ∧ t.tagsReady u (s.slot u j).desc = true ∧ t.progReady u (s.slot u j).desc = true then
      { s.slot u j with st := .ready, prompt := (t.slot u j).prompt } else s.slot u j

/-- A task has completed: its slot is FREE, its tags are updated, the completion is counted and reported last (R70, R80). -/
abbrev State.taskEnded (s t : State) (u : TileId) (i : Fin 64) (d : BitVec 512) : Prop :=
  t.slot u i = {} ∧ s.counted t (.tile u) 0x80 ∧ t.out.getLast? = some (.taskDone u (tTask d)) ∧ s.tagged t u i d ∧
  othersSame {} s.tiles t.tiles [u.val]

/-- What the run of a task met has been counted at its tile: port waits, banks refused, corrected words (R59, R60, R62). -/
abbrev State.ran (s t : State) (u : TileId) (run : TileRun) : Prop :=
  s.counted t (.tile u) 0x88 run.stallA ∧ s.counted t (.tile u) 0x90 run.stallB ∧ s.counted t (.tile u) 0xD0 run.corrected ∧
  s.counted t (.tile u) 0x98 (run.banks.foldl (fun acc reqs =>
    let c := bankCycle (s.fld (.tile u) Reg.BANK_ARB_STARVE_LIMIT) acc.1 reqs
    (c.1, acc.2 + c.2)) ((s.tile u).bankWait, 0)).2
def ranCounts (u : TileId) : List (Page × Nat) := [0x80, 0x88, 0x90, 0x98, 0xD0].map fun o => ((Page.tile u : Page), o)

/-- A task has ended with an error: its slot is FREE, the tile records and reports the code, the Dispatcher keeps the first failure
and puts the request slot into FAULT (Table 03-5, R271). -/
abbrev State.taskFails (s t : State) (u : TileId) (i : Fin 64) (code : Nat) : Prop :=
  t.slot u i = {} ∧ t.fld (.tile u) Reg.PG_ERR_CODE = code ∧
  Out.taskFailed u (tTask (s.slot u i).desc) code ∈ t.out ∧ t.fld (.disp (partOf u)) Reg.PG_ERR_CODE = 3 ∧
  t.flag (.disp (partOf u)) Reg.DISP_FAIL_VALID = true ∧ (t.rs (partOf u) (s.slot u i).reqSlot).failed = true

/-- What the failure of a task may touch: its tile, its partition, the error log, and its requests with their transfers (R24, R225,
R271, R315). -/
def failComps : List Comp :=
  [.fresh, .out, .regs, .cnt, .mem, .tiles, .parts, .movers, .tenants, .reqs, .convs, .tier, .engines, .qps, .srch, .digs, .elog, .qrm,
   .pwr, .pcie]

/-- What a sample offered to the units of the MON page may touch (R309 to R311). -/
def sampleComps : List Comp := [.units, .out, .pcie]

end Sys2Proof.Machine
end

