-- ==== Sys2Proof/Safety.lean ====
section
/-! DEFINITION. What a safe run is, and the canonical form of the large stores. -/

namespace Sys2Proof.Machine
open Sys2Proof

/-- The canonical form of the State Space, of tile SRAM with its bad words, of the registers, the counters and their
snapshots: keys strictly rising, no entry equal to what an unlisted key reads as. -/
def State.canonical (s : State) : Bool :=
  Map.wf (fun _ => 0) s.mem && Map.wf (fun _ => 0) s.sram && Map.wf (fun _ => false) s.sramBad &&
  Map.wf (Reg.resetWord s.fuses.binB) s.regs && Map.wf (fun _ => 0) s.cnt && Map.rising 0 s.shadow

/-- No step of the next n stops: each answers a next state. -/
def runsFor : Nat → State → Bool
  | 0, _ => true
  | n + 1, s => match step s with
    | .next t => runsFor n t
    | .fault _ => false
    | .refused _ => false

end Sys2Proof.Machine
end

