-- ==== Sys2Proof/WellFormed.lean ====
section
/-! DEFINITION. Which commands are well formed: every operand within the width its table gives it. Operands of a Fin or
BitVec type need no check. -/

namespace Sys2Proof

/-- A request packet within the widths of Table 07-3. -/
def MemReq.wf (r : MemReq) : Bool :=
  decide (r.len8 < 32 ∧ r.srcNode < 4096 ∧ r.tag < 512 ∧ r.node < 4096 ∧ r.offset < 2 ^ 47 ∧ r.gen < 65536 ∧ r.epoch < 65536 ∧
    r.data.length ≤ 256)

/-- A response packet within the widths of Table 07-5. -/
def MemResp.wf (r : MemResp) : Bool :=
  decide (r.status < 256 ∧ r.dstNode < 4096 ∧ r.tag < 512 ∧ r.data.length ≤ 256)

/-- A QP request packet within the widths of Table 08-8. -/
def QpReq.wf (r : QpReq) : Bool :=
  decide (r.srcNode < 4096 ∧ r.psn < 2 ^ 24 ∧ r.specEpoch < 256 ∧ r.node < 4096 ∧ r.offset < 2 ^ 47 ∧ r.gen < 65536 ∧
    r.fireTag < 65536 ∧ r.imm < 2 ^ 32 ∧ r.epoch < 65536 ∧ r.wrLen < 2 ^ 32 ∧ r.payload.length ≤ 4096)

/-- A QP response packet within the widths of Table 08-9. -/
def QpResp.wf (r : QpResp) : Bool :=
  decide (r.status < 256 ∧ r.dstNode < 4096 ∧ r.psn < 2 ^ 24 ∧ r.sack < 2 ^ 64 ∧ r.payload.length ≤ 4096)

/-- A flit within the widths of Table 08-11. -/
def Flit.wf (f : Flit) : Bool :=
  decide (f.seq < 4096 ∧ f.ackSeq < 4096 ∧ f.crCount < 8192 ∧ f.firstPkt < 256 ∧ f.payload.length ≤ 244)

/-- A mover message within the widths of Table 09-2. -/
def MoverMsg.wf (m : MoverMsg) : Bool :=
  decide (m.fromNode < 4096 ∧ m.status < 256 ∧ m.reqId < 2 ^ 32 ∧ m.layers ≤ 256 ∧ m.pages ≤ 16384 ∧ m.stride < 2 ^ 24 ∧
    m.base < 2 ^ 47 ∧ m.base2 < 2 ^ 47 ∧ m.sideBytes < 4096 ∧ m.ttlMs < 2 ^ 32 ∧ m.kvLen < 2 ^ 32 ∧ m.stage < 2 ^ 47)

/-- A quorum header within its widths (R320). -/
def QHdr.wf (h : QHdr) : Bool := decide (h.src < 4096 ∧ h.dst < 4096 ∧ h.seq < 65536 ∧ h.epoch < 2 ^ 64)

/-- A decision within its widths (Table 14-5). -/
def QDecision.wf (d : QDecision) : Bool :=
  decide (d.epoch < 2 ^ 64) && d.fence.all (fun e => decide (e.1 < 4096)) && d.unfence.all fun e => decide (e.1 < 4096)

/-- A digest message within its widths (R327). -/
def DigestMsg.wf (m : DigestMsg) : Bool := m.hdr.wf && decide (m.group < 65536 ∧ m.contentId < 2 ^ 32)

/-- A task error within its widths (Table 14-2). -/
def TaskError.wf : TaskError → Bool
  | .abft r c n k => decide (r < 65536 ∧ c < 65536 ∧ n < 65536 ∧ k < 65536)
  | .anchorMismatch => true
  | .sramUE o => decide (o < 2097152)
  | .badBlock r _ _ a => decide (r < 256 ∧ a < 2 ^ 47)
  | .poisoned o => decide (o < 2 ^ 47)
  | .farNak c _ => decide (c < 256)
  | .refused c o => decide (c < 256 ∧ o < 2 ^ 47)
  | .extent => true

/-- A task's run: in one cycle a requester asks for a bank once (R59). -/
def TileRun.wf (r : TileRun) : Bool := r.banks.all fun l => decide l.Nodup

/-- An index slot within the widths of Tables 10-1 and 10-3. -/
def PfxSlot.wf (k : PfxSlot) : Bool := decide (k.hash < 2 ^ 128 ∧ k.tag < 2 ^ 32 ∧ k.block < 2 ^ 32 ∧ k.base < 2 ^ 47 ∧ k.stride < 2 ^ 24)

/-- Tokens of 32 bits, at most 4 stop sequences of at most 8 (R288). -/
def HostRead.wf (h : HostRead) : Bool :=
  decide (h.stops.length ≤ 4) && h.stops.all (fun q => decide (q.length ≤ 8) && q.all fun t => decide (t < 2 ^ 32)) &&
    (h.tokens.all fun t => decide (t < 2 ^ 32)) && decide (h.cached ≤ h.tokens.length ∧ h.cachedFb ≤ h.tokens.length)

/-- Every operand of a command is within its width. -/
def Instr.wf : Instr → Bool
  | .registerWrite _ addr width _ => decide (addr < 2 ^ 23) && decide (width ≤ 4096)
  | .pgLock _ => true
  | .pgIrqStatWrite _ _ => true
  | .pgIrqEnWrite _ _ => true
  | .pgErrClr _ _ => true
  | .pwrOppWrite _ _ _ => true
  | .dispRoleWrite _ _ _ => true
  | .drainComplete _ => true
  | .scrubComplete _ => true
  | .controllerReady _ => true
  | .pctlLoadFail _ => true
  | .taskDescriptorArrive _ _ _ => true
  | .taskDispatch _ _ _ => true
  | .taskComplete _ r => r.wf
  | .taskEventReportAccept _ _ => true
  | .taskRunningError _ _ e => e.wf
  | .sbWatchdogExpire _ _ => true
  | .sbClrMaxlat _ => true
  | .progLoadGo _ _ => true
  | .progLoadComplete _ => true
  | .attnParamsLatched _ _ => true
  | .mergeNodeArrive _ r _ => r.wf
  | .mergeEmitDone _ _ => true
  | .codecErrInfoClear => true
  | .tierRead _ offset len => decide (offset < 2 ^ 47) && decide (len ≤ 65536)
  | .tierWrite _ offset data => decide (offset < 2 ^ 47) && decide (data.length ≤ 65536)
  | .zeroFillComplete page => decide (page < 2 ^ 31)
  | .memUncorrectableError page => decide (page < 2 ^ 31)
  | .migrationStart page _ => decide (page < 2 ^ 31)
  | .migrationCommit page => decide (page < 2 ^ 31)
  | .migrationTimeout page => decide (page < 2 ^ 31)
  | .tierEpochEnd => true
  | .hwDemote _ _ => true
  | .tierCmdPin _ => true
  | .tierCmdUnpin => true
  | .tierCmdHint _ => true
  | .tierCmdMove _ => true
  | .tierCmdFree => true
  | .tierCmdDone => true
  | .tierZoneWrite _ _ _ => true
  | .tierLayoutWrite _ _ => true
  | .tierCapacityDrop _ cap => decide (cap < 65536)
  | .blockTrainingDone _ _ dimms rate frames => decide (dimms ≤ 2) && decide (rate < 65536) && decide (frames ≤ 6291456)
  | .load r => r.wf
  | .store r => r.wf
  | .fadd64 r => r.wf
  | .swap64 r => r.wf
  | .cas64 r => r.wf
  | .cas128 r => r.wf
  | .for64 r => r.wf
  | .flush r _ => r.wf
  | .flushMarkerAnswer r _ => r.wf
  | .invalidate r => r.wf
  | .inv r => r.wf
  | .loadResp r => r.wf
  | .storeAck r => r.wf
  | .atomicResp r => r.wf
  | .flushResp r _ => r.wf
  | .invalidateResp r => r.wf
  | .invAck page node => decide (page < 2 ^ 31) && decide (node < 4096)
  | .nak r _ => r.wf
  | .requestTimeout _ _ => true
  | .invTimeout page => decide (page < 2 ^ 31)
  | .regionFlush _ _ => true
  | .qpStateInit _ => true
  | .qpStateRts _ => true
  | .qpStateReset _ => true
  | .qpStateError _ => true
  | .qpErrorFlushDone _ => true
  | .qpDbSqTail _ value => decide (value < 2 ^ 21)
  | .qpDbRqTail _ value => decide (value < 2 ^ 21)
  | .qpDbCqHead _ value => decide (value < 2 ^ 21)
  | .wrWrite _ => true
  | .wrRead _ => true
  | .wrSend _ => true
  | .wrWriteTrigger _ => true
  | .wrFlush _ => true
  | .wrCancel _ => true
  | .heldWrRegister _ => true
  | .trigFire _ tag => decide (tag < 65536)
  | .trigTimerExpire _ => true
  | .holdExpired _ index => decide (index < 65536)
  | .qwrite r => r.wf
  | .qwriteTrig r => r.wf
  | .qreadReq r => r.wf
  | .qsend r => r.wf
  | .qflush r => r.wf
  | .qcancel r => r.wf
  | .writeTriggerEffect _ psn => decide (psn < 2 ^ 24)
  | .qflushAnswer _ psn => decide (psn < 2 ^ 24)
  | .cancelApply _ psn => decide (psn < 2 ^ 24)
  | .qack r => r.wf
  | .qreadResp r => r.wf
  | .qplaceAck r => r.wf
  | .qflushResp r => r.wf
  | .qnak r => r.wf
  | .qackTimer _ => true
  | .retransmitTimeout _ => true
  | .rnrRetryTimer _ => true
  | .rgnCmdWrite _ _ => true
  | .rgnCmdRead _ _ => true
  | .rgnCmdRevoke _ _ => true
  | .rgnCmdComplete _ => true
  | .dataFlitReceive _ f => f.wf
  | .controlFlitReceive _ f => f.wf
  | .idleFlitReceive _ f => f.wf
  | .flitAckTimer _ => true
  | .flitReplayTimeout _ => true
  | .flitTransmit _ => true
  | .packetEnterPort _ _ bytes => decide (bytes.length ≤ 8192)
  | .linkTrained _ _ _ => true
  | .linkDown _ => true
  | .portTcWrite _ _ _ _ => true
  | .finjArm _ => true
  | .openPush _ m => m.wf
  | .openPark _ m => m.wf
  | .openAck _ m => m.wf
  | .pullReq _ m => m.wf
  | .pullNak _ m => m.wf
  | .close _ m => m.wf
  | .closeAck _ m => m.wf
  | .expire _ m => m.wf
  | .moverStageCopyDone _ _ _ => true
  | .attachDone _ _ unit => decide (unit < 16384)
  | .parkRetryTimer _ reqId => decide (reqId < 2 ^ 32)
  | .adpLoad _ _ => true
  | .adpLoadDone _ _ => true
  | .adpRetire _ _ => true
  | .adpForce _ _ => true
  | .cacheTtlTick _ => true
  | .orphanTimeout _ _ => true
  | .prefixBucketsLoaded _ reqId _ cacheNode _ buckets => decide (reqId < 2 ^ 32) && decide (cacheNode < 4096) && (buckets.all fun b => decide (b.length ≤ 8) && b.all PfxSlot.wf)
  | .search _ => true
  | .searchDone _ _ => true
  | .pfxInsert _ => true
  | .pfxInsertDone _ _ _ => true
  | .poolForwardPlaced _ r => r.wf
  | .poolRebuild => true
  | .poolResync => true
  | .poolCmdDone _ pages => decide (pages < 2 ^ 31)
  | .launchSelect _ => true
  | .launchDescRead _ _ _ => true
  | .dispSend _ _ => true
  | .dispLringTailWrite _ _ => true
  | .rsSelWrite _ _ => true
  | .rsDataStage _ _ _ => true
  | .rsCommit _ _ => true
  | .pfLeftWrite _ _ => true
  | .dispFailClear _ => true
  | .energyRefillTick _ => true
  | .energyGrant _ => true
  | .fsyncHoldExpire _ => true
  | .powerManagerTick => true
  | .reqTail _ _ => true
  | .generate _ _ _ h => h.wf
  | .pause _ _ _ h => h.wf
  | .resume _ _ _ h => h.wf
  | .release _ _ _ h => h.wf
  | .deferRetryTimer _ => true
  | .deferDeadline _ reqId => decide (reqId < 2 ^ 32)
  | .idleParkTimer _ conv => decide (conv < 2 ^ 32)
  | .tenantCancel _ _ => true
  | .tokHead _ head => decide (head < 2 ^ 21)
  | .cplHead _ head => decide (head < 65536)
  | .tenantRingCfgWrite _ _ => true
  | .samplerDone _ _ => true
  | .tokenWrite _ _ => true
  | .completionRecordWrite _ => true
  | .vfTokModTimer _ => true
  | .vfFlr _ => true
  | .cntSnap _ _ => true
  | .cntClr _ => true
  | .monSnapArm _ => true
  | .monSnapFire => true
  | .unitLevelSample _ => true
  | .unitCfgWrite _ _ _ => true
  | .qrmFenceNow _ => true
  | .fenceAssert _ => true
  | .qrmUnfenceReqWrite _ => true
  | .qrmPcHb _ => true
  | .heartbeatInterval => true
  | .heartbeat h _ => h.wf
  | .hbAck h => h.wf
  | .suspect h node _ => h.wf && decide (node < 4096)
  | .faultReport h w _ => h.wf && decide (w.1 < 4096)
  | .propose h d => h.wf && d.wf
  | .vote h epoch _ => h.wf && decide (epoch < 2 ^ 64)
  | .commit h d => h.wf && d.wf
  | .commitAck h => h.wf
  | .commitResendTimer => true
  | .unfenceReq h _ => h.wf
  | .digest _ m => m.wf
  | .syncReq h last => h.wf && decide (last < 2 ^ 64)
  | .syncResp h entries _ => h.wf && (entries.all fun v => decide (v.1 < 4096 ∧ v.2.2 < 2 ^ 64))
  | .fenceCompareTick => true
  | .digestPassDone _ => true
  | .digRegionWrite _ _ _ => true
  | .railReadComplete _ reading => reading.all fun v => decide (v.1 < 65536 ∧ v.2 < 65536)
  | .oppTick busy => busy.length == 4 && busy.all fun b => decide (b ≤ 100)
  | .oppTransitionDone _ => true
  | .thermalLimit _ temp _ => decide (-32768 ≤ temp ∧ temp < 32768)
  | .droopDetect _ => true
  | .thermalTrip temp _ => decide (-32768 ≤ temp ∧ temp < 32768)
  | .thermRelease temp => decide (-32768 ≤ temp ∧ temp < 32768)
  | .powerDownMaskWrite _ _ => true
  | .pwrTileGateWrite _ => true
  | .lpIdleEnter _ => true
  | .wakeDone _ => true
  | .pllLockLoss _ => true
  | .pwrGoodRise => true
  | .pwrGoodFall => true
  | .powerOnReset => true
  | .resetNAssert => true
  | .resetNRelease _ => true
  | .strapSample _ => true
  | .perstAssert => true
  | .devRst _ => true
  | .blockResetReq _ => true
  | .quiesceDone _ => true
  | .quiesceTimeout _ => true
  | .blockResetDone _ => true
  | .fsyncEdge _ => true
  | .fsyncLostTimeout => true
  | .tsyncEdge => true
  | .tsyncLostTimeout => true
  | .timeExchangeTimer => true
  | .timeMessage t1 t2 t3 t4 => decide (t1 < 2 ^ 64) && decide (t2 < 2 ^ 64) && decide (t3 < 2 ^ 64) && decide (t4 < 2 ^ 64)
  | .timeSet _ => true
  | .romBoot => true
  | .wlhWdogWarn => true
  | .wdogReset => true
  | .wlhKick _ => true
  | .install => true
  | .verify => true
  | .updDone => true
  | .confirm => true
  | .rcvVerify => true
  | .rcvInstall => true
  | .rcvBoot => true
  | .writeBuf _ offset data _ => decide (offset < 2 ^ 32) && decide (data.length ≤ 4096)
  | .setLen _ _ _ => true
  | .run _ _ _ => true
  | .status _ _ => true
  | .uartFrameTimeout => true
  | .uartRxByte _ _ => true
  | .uartDataWrite _ => true
  | .uartDataRead => true
  | .ledgWrGo _ _ key => decide (key < 65536)
  | .ledgWriteDone failures => decide (failures ≤ 4)
  | .ledgRdGo index _ => decide (index < 2048)
  | .flashEraseDone sector _ eraseUs => decide (sector < 1024) && decide (eraseUs < 2 ^ 32)
  | .bar2Read _ x len => decide (x < 2 ^ 36) && decide (len ≤ 4096)
  | .bar2Write _ x data => decide (x < 2 ^ 36) && decide (data.length ≤ 4096)
  | .bar2AtomicOp _ x => decide (x < 2 ^ 36)
  | .bar2HoldTimeout _ => true
  | .devNodeWrite _ => true
  | .pllRelock _ => true
  | .perstDeassert => true
  | .pcieLinkChange _ gen width _ _ => decide (gen ≤ 6) && decide (width ≤ 16)
  | .aerErrorLogged _ => true
  | .msixVectorUnmask _ _ => true
  | .vfEnableWrite numVfs _ => decide (numVfs ≤ 64)
  | .portCtrlEnableWrite _ _ => true
  | .linkPartnerWake _ => true
  | .patrolPassDone _ => true
  | .flashProgramDone sector _ progUs => decide (sector < 1024) && decide (progUs < 2 ^ 32)
  | .uartTxByteSent => true

end Sys2Proof
end

