-- ==== Sys2Proof/Certificates/Slice0/Obligations.lean ====
section
/-! DEFINITION. The statements for the provers. Each names the sections of the specification it rests on in OBLIGATIONS.json. -/

open Sys2Proof Sys2Proof.Machine

/-- On a ready page PG_LOCK sets PG_CTRL.LOCK; PG_IRQ_STAT_WRITE clears the bits written with 1 and sends the
messages of a page that is still pending after it cleared one; PG_IRQ_EN_WRITE stores the bits the page names and
sends the messages when it makes a set bit pending; PG_ERR_CLR clears CODE and MULTI and keeps a code recorded in
the same cycle. On a page that is not ready none of them changes anything. Nothing else changes. On points the spec
leaves open it states the model's choices (notes/assumptions/11). -/
def Obligations.HeaderWritesTakeEffect : Prop :=
  (∀ (s : State) (pg : Page), s.ready pg = true → completes (.pgLock pg) s fun t => t.fld pg Reg.PG_CTRL_LOCK = 1 ∧
    s.changes t [] [Reg.PG_CTRL_LOCK.place pg] []) ∧
  (∀ (s : State) (pg : Page) (v : Word), s.ready pg = true → completes (.pgIrqStatWrite pg v) s fun t => t.word
    (pg.base + 0x10) = s.word (pg.base + 0x10) &&& ~~~v ∧ (t.out = s.out ++ (if (s.word (pg.base + 0x10) &&& v != 0)
    && (s.word (pg.base + 0x10) &&& ~~~v &&& s.word (pg.base + 0x14) != 0) then s.messages pg else [])) ∧ s.changes t
    [.out, .pcie] (irqPlaces pg) [(.pcie, 0xB0)]) ∧
  (∀ (s : State) (pg : Page) (v : Word), s.ready pg = true → completes (.pgIrqEnWrite pg v) s fun t => t.word
    (pg.base + 0x14) = BitVec.ofNat 32 (v.toNat % 2 ^ irqBits pg.kind) ∧ (t.out = s.out ++ (if s.word (pg.base +
    0x10) &&& BitVec.ofNat 32 (v.toNat % 2 ^ irqBits pg.kind) &&& ~~~s.word (pg.base + 0x14) != 0 then s.messages pg
    else [])) ∧ s.changes t [.out, .pcie] [Reg.PG_IRQ_EN.place pg] [(.pcie, 0xB0)]) ∧
  (∀ (s : State) (pg : Page) (c : Option (Fin 256)), s.ready pg = true → completes (.pgErrClr pg c) s fun t => (t.fld
    pg Reg.PG_ERR_CODE = (match c with | some k => k.val | none => 0)) ∧ t.fld pg Reg.PG_ERR_MULTI = 0 ∧ (s.counted t
    pg 0x50 (if c.isSome then 1 else 0)) ∧ s.changes t [] (errPlaces pg) (errCounts pg)) ∧
  (∀ (s : State) (pg : Page) (v : Word) (c : Option (Fin 256)), s.ready pg = false → exec (.pgLock pg) s = .next s ∧
    exec (.pgIrqStatWrite pg v) s = .next s ∧ exec (.pgIrqEnWrite pg v) s = .next s ∧ exec (.pgErrClr pg c) s = .next
    s)

/-- REGISTER_WRITE of 32 bits to a ready page sets every plain read-write field of its word to the written bits and
touches no other register word but PG_ERR; a locked RWL field, a reserved encoding and a value that breaks a
relation between fields leave the field and record WR_LOCKED or RSV_ENC; a page that is not ready, and an address
that is mapped but has no such field, change nothing of it; a 64-bit write acts as the write of its lower word and
then of its upper one; a misaligned or odd-sized write records BAD_WIDTH and an unmapped one UNMAPPED on the PCIE
page, and nothing else changes. On points the spec leaves open it states the model's choices (notes/assumptions/11,
13, 53). -/
def Obligations.RegisterWriteTakesEffect : Prop :=
  (∀ (s : State) (r : Requester) (addr width : Nat) (v : Word64), ¬ ((width = 4 ∧ addr % 4 = 0) ∨ (width = 8 ∧ addr %
    8 = 0)) → completes (.registerWrite r addr width v) s fun t => s.erred t .pcie 0x01 ∧ s.counted t .pcie 0x98 ∧
    s.changes t [] (errPlaces .pcie) [(.pcie, 0x50), (.pcie, 0x98)]) ∧
  (∀ (s : State) (r : Requester) (addr width : Nat) (v : Word64), (width = 4 ∧ addr % 4 = 0) ∨ (width = 8 ∧ addr % 8
    = 0) → bar0Mapped addr = false → completes (.registerWrite r addr width v) s fun t => s.erred t .pcie 0x02 ∧
    s.counted t .pcie 0xA0 ∧ s.changes t [] (errPlaces .pcie) [(.pcie, 0x50), (.pcie, 0xA0)]) ∧
  (∀ (s : State) (r : Requester) (addr : Nat) (v : Word64) (pg : Page), addr % 4 = 0 → (Page.at addr = some pg) →
    s.ready pg = false → completes (.registerWrite r addr 4 v) s fun t => t = s) ∧
  (∀ (s : State) (r : Requester) (pg : Page) (o : Nat) (v : Word64) (f : Fld) (i : Nat), o < 4096 → o % 4 = 0 →
    s.ready pg = true → (pg = .mon ∧ (o = 0x100 ∨ o = 0x104) → s.fld .mon Reg.MON_SNAP_ALL_ARM = 0) → f ∈ fieldsAt pg
    o → (f.hit o = some (i, 0)) → f.acc = .rw ∨ f.acc = .rwl ∧ s.locked pg = false → f.lo + f.width ≤ 32 → f.ok (bits
    v.toNat f.lo f.width) = true → ((∀ g ∈ fieldsAt pg o, g ∉ relFields pg.kind) ∨ (s.each (fieldsAt pg o) fun u g =>
    u.writeField pg o (BitVec.ofNat 32 v.toNat) g).relOk pg = true) → completes (.registerWrite r (pg.base + o) 4 v)
    s fun t => t.fld pg f i = bits v.toNat f.lo f.width ∧ (pg ≠ .qrm → s.keeps t (if pg.kind = .disp then
    [.regs, .cnt, .parts] else [.regs, .cnt])) ∧ (pg ≠ .qrm → ∀ a, a ≠ pg.base + o → a ≠ pg.base + o + 4 → a ≠
    pg.base + 0x18 → t.word a = s.word a)) ∧
  (∀ (s : State) (r : Requester) (addr : Nat) (v : Word64), addr % 8 = 0 → bar0Mapped addr = true → completes
    (.registerWrite r addr 8 v) s fun t => (∃ u, exec (.registerWrite r addr 4 (v &&& 0xFFFFFFFF)) s = .next u ∧ exec
    (.registerWrite r (addr + 4) 4 (v >>> 32)) u = .next t)) ∧
  (∀ (s : State) (r : Requester) (pg : Page) (o : Nat) (v : Word64) (f : Fld) (i : Nat), o < 4096 → o % 4 = 0 →
    s.ready pg = true → pg ≠ .qrm → (pg = .mon ∧ (o = 0x100 ∨ o = 0x104) → s.fld .mon Reg.MON_SNAP_ALL_ARM = 0) → f ∈
    fieldsAt pg o → (f.hit o = some (i, 0)) → f.lo + f.width ≤ 32 → f.acc = .rwl ∧ s.locked pg = true ∨ (f.acc = .rw
    ∨ f.acc = .rwl) ∧ f.ok (bits v.toNat f.lo f.width) = false → completes (.registerWrite r (pg.base + o) 4 v) s fun
    t => t.fld pg f i = s.fld pg f i ∧ (t.fld pg Reg.PG_ERR_CODE = 0xF0 ∨ t.fld pg Reg.PG_ERR_CODE = 0x0E)) ∧
  (∀ (s : State) (r : Requester) (pg : Page) (o : Nat) (v : Word64) (f : Fld) (i : Nat), o < 4096 → o % 4 = 0 →
    s.ready pg = true → f ∈ fieldsAt pg o → (f.hit o = some (i, 0)) → f.lo + f.width ≤ 32 → f ∈ relFields pg.kind →
    ((s.each (fieldsAt pg o) fun u g => u.writeField pg o (BitVec.ofNat 32 v.toNat) g).relOk pg = false) → completes
    (.registerWrite r (pg.base + o) 4 v) s fun t => t.fld pg f i = s.fld pg f i ∧ t.fld pg Reg.PG_ERR_CODE = 0x0E)

/-- A write of DISP_ROLE with a new target on a STABLE partition starts a drain (a partition that was NONE or CACHE
leaves its tile gate first, an EVICT drain gives its state up); one with the current role stores TARGET and
DRAIN_MODE alone; one while DRAINING records ROLE_BUSY and keeps TARGET when it names another; one after LOAD_FAILED
loads again; on a fenced partition it is denied. DRAIN_COMPLETE with nothing held revokes the old role's windows,
clears the adapter slots and starts the scrub; SCRUB_COMPLETE leaves the tiles empty and ready and starts the load;
CONTROLLER_READY makes the target the current role, the pages ready and the state STABLE; PCTL_LOAD_FAIL leaves the
role NONE and LOAD_FAILED. On points the spec leaves open it states the model's choices (notes/assumptions/12, 47).
-/
def Obligations.RoleChangesProceed : Prop :=
  (∀ (s : State) (p : PartId) (target : Fin 4), s.ready (.disp p) = true → s.fenced p = false → s.fld (.disp p)
    Reg.DISP_ROLE_STATE = 0 → target.val ≠ s.fld (.disp p) Reg.DISP_ROLE_CUR → s.fld (.disp p) Reg.DISP_ROLE_CUR = 1
    ∨ s.fld (.disp p) Reg.DISP_ROLE_CUR = 2 → completes (.dispRoleWrite p target false) s fun t => t.fld (.disp p)
    Reg.DISP_ROLE_TARGET = target.val ∧ t.fld (.disp p) Reg.DISP_ROLE_DRAIN_MODE = 0 ∧ t.fld (.disp p)
    Reg.DISP_ROLE_STATE = 1 ∧ s.changes t []
    [Reg.DISP_ROLE_TARGET.place (.disp p), Reg.DISP_ROLE_DRAIN_MODE.place (.disp p), Reg.DISP_ROLE_STATE.place (.disp p)]
    []) ∧
  (∀ (s : State) (p : PartId) (target : Fin 4), s.ready (.disp p) = true → s.fenced p = false → s.fld (.disp p)
    Reg.DISP_ROLE_STATE = 0 → target.val ≠ s.fld (.disp p) Reg.DISP_ROLE_CUR → s.fld (.disp p) Reg.DISP_ROLE_CUR = 0
    ∨ s.fld (.disp p) Reg.DISP_ROLE_CUR = 3 → completes (.dispRoleWrite p target false) s fun t => t.fld (.disp p)
    Reg.DISP_ROLE_TARGET = target.val ∧ t.fld (.disp p) Reg.DISP_ROLE_DRAIN_MODE = 0 ∧ t.fld (.disp p)
    Reg.DISP_ROLE_STATE = 1 ∧ bit (t.fld .pwr Reg.PWR_TILE_GATE_MASK) p.val = false ∧ LpUnit.tileGate p ∉
    t.pwr.inMode ∧ s.changes t [.pwr]
    ([Reg.DISP_ROLE_TARGET.place (.disp p), Reg.DISP_ROLE_DRAIN_MODE.place (.disp p), Reg.DISP_ROLE_STATE.place (.disp p)]
    ++ [Reg.PWR_TILE_GATE_MASK.place .pwr]) [(.pwr, 0xB0)]) ∧
  (∀ (s : State) (p : PartId) (target : Fin 4), s.ready (.disp p) = true → s.fenced p = false → s.fld (.disp p)
    Reg.DISP_ROLE_STATE = 0 → target.val ≠ s.fld (.disp p) Reg.DISP_ROLE_CUR → completes (.dispRoleWrite p target
    true) s fun t => t.fld (.disp p) Reg.DISP_ROLE_TARGET = target.val ∧ t.fld (.disp p) Reg.DISP_ROLE_DRAIN_MODE = 1
    ∧ t.fld (.disp p) Reg.DISP_ROLE_STATE = 1 ∧ s.keeps t
    [.fresh, .out, .regs, .cnt, .mem, .movers, .reqs, .convs, .tier, .digs, .pwr, .pcie]) ∧
  (∀ (s : State) (p : PartId) (target : Fin 4) (evict : Bool), s.ready (.disp p) = true → s.fenced p = false → s.fld
    (.disp p) Reg.DISP_ROLE_STATE = 0 → target.val = s.fld (.disp p) Reg.DISP_ROLE_CUR → completes (.dispRoleWrite p
    target evict) s fun t => t.fld (.disp p) Reg.DISP_ROLE_TARGET = target.val ∧ t.fld (.disp p)
    Reg.DISP_ROLE_DRAIN_MODE = evict.toNat ∧ s.changes t []
    [Reg.DISP_ROLE_TARGET.place (.disp p), Reg.DISP_ROLE_DRAIN_MODE.place (.disp p)] []) ∧
  (∀ (s : State) (p : PartId) (target : Fin 4), s.ready (.disp p) = true → s.fenced p = false → s.fld (.disp p)
    Reg.DISP_ROLE_STATE = 1 → target.val ≠ s.fld (.disp p) Reg.DISP_ROLE_TARGET → completes (.dispRoleWrite p target
    false) s fun t => s.erred t (.disp p) 0x01 ∧ s.changes t [] (errPlaces (.disp p)) (errCounts (.disp p))) ∧
  (∀ (s : State) (p : PartId) (target : Fin 4) (evict : Bool), s.fenced p = false → s.fld (.disp p)
    Reg.DISP_ROLE_STATE = 5 → completes (.dispRoleWrite p target evict) s fun t => t.fld (.disp p)
    Reg.DISP_ROLE_TARGET = target.val ∧ t.fld (.disp p) Reg.DISP_ROLE_STATE = 3 ∧ t.fld (.disp p) Reg.PG_READY_FAILED
    = 0 ∧ s.changes t [.wlh]
    ([Reg.DISP_ROLE_TARGET.place (.disp p), Reg.DISP_ROLE_DRAIN_MODE.place (.disp p), Reg.DISP_ROLE_STATE.place (.disp p)]
    ++ [Reg.PG_READY_FAILED.place (.disp p)]) []) ∧
  (∀ (s : State) (p : PartId) (target : Fin 4) (evict : Bool), s.ready (.disp p) = true → s.fenced p = true →
    completes (.dispRoleWrite p target evict) s fun t => s.erred t .qrm 0x01 ∧ s.counted t .qrm 0xA8 ∧ s.changes t []
    (errPlaces .qrm) [(.qrm, 0x50), (.qrm, 0xA8)]) ∧
  (∀ (s : State) (p : PartId), s.fld (.disp p) Reg.DISP_ROLE_STATE = 1 → s.held p = 0 → completes (.drainComplete p)
    s fun t => t.fld (.disp p) Reg.DISP_ROLE_STATE = 2 ∧ (∀ x : TileId, partOf x = p → t.tile x = {} ∧ t.fld (.tile
    x) Reg.PG_READY_READY = 0) ∧ (∀ (x : TileId) (o : Nat), Map.get 0 t.sram (sramAddr x o) = if partOf x = p then 0
    else Map.get 0 s.sram (sramAddr x o)) ∧ (∀ i, (s.rgn p i).valid = true → (s.rgn p i).window = true → (t.rgn p
    i).gen = ((s.rgn p i).gen + 1) % 65536) ∧ (∀ (q : PartId) (i : Nat), q ≠ p → t.rgn q i = s.rgn q i) ∧ (∀ k : Fin
    64, t.fld (.move p) Reg.ADP_SLOT_STATE k.val = 0 ∧ t.fld (.move p) Reg.ADP_SLOT_REFS k.val = 0) ∧ s.changesOn t
    [.regions, .tiles, .sram, .sramBad] (.disp p :: .move p :: (tilesOf p).map Page.tile)) ∧
  (∀ (s : State) (p : PartId), s.fld (.disp p) Reg.DISP_ROLE_STATE ≠ 1 ∨ s.held p ≠ 0 → completes (.drainComplete p)
    s fun t => t = s) ∧
  (∀ (s : State) (p : PartId), s.fld (.disp p) Reg.DISP_ROLE_STATE = 2 → s.recovery = false → completes
    (.scrubComplete p) s fun t => t.fld (.disp p) Reg.DISP_ROLE_STATE = 3 ∧ t.fld (.disp p) Reg.PG_READY_READY = 0 ∧
    (∀ x : TileId, partOf x = p → t.tile x = {} ∧ t.fld (.tile x) Reg.PG_READY_READY = 1) ∧ (∀ (x : TileId) (o :
    Nat), Map.get 0 t.sram (sramAddr x o) = if partOf x = p then 0 else Map.get 0 s.sram (sramAddr x o)) ∧ (s.changes
    t [.tiles, .sram, .sramBad, .wlh] (Reg.DISP_ROLE_STATE.place (.disp p) :: Reg.PG_READY_READY.place (.disp p) ::
    (tilesOf p).map fun x => Reg.PG_READY_READY.place (.tile x)) [])) ∧
  (∀ (s : State) (p : PartId), s.fld (.disp p) Reg.DISP_ROLE_STATE = 3 → s.ready .wlh = true → s.ready (.shl
    (Fin.ofNat 4 (p.val / 8))) = true → s.pctlGood = true → completes (.controllerReady p) s fun t => t.fld (.disp p)
    Reg.DISP_ROLE_CUR = s.fld (.disp p) Reg.DISP_ROLE_TARGET ∧ t.fld (.disp p) Reg.DISP_ROLE_STATE = 0 ∧ (∀ pg ∈
    [Page.disp p, .samp p, .move p, .admt p], t.ready pg = true ∧ t.fld pg Reg.PG_READY_FAILED = 0) ∧ s.raised t
    (.disp p) 0 ∧ s.counted t .wlh 0x90 ∧ t.out = s.out ++ s.irqOut (.disp p) 0 ∧ (∀ i : Fin 2, (t.eng (engOf p
    i.val)).frozen = false) ∧ (s.changes t [.out, .pcie, .engines]
    ([Reg.DISP_ROLE_CUR.place (.disp p), Reg.DISP_ROLE_STATE.place (.disp p)] ++ irqPlaces (.disp p) ++
    [Page.disp p, .samp p, .move p, .admt p].flatMap fun pg =>
    [Reg.PG_READY_READY.place pg, Reg.PG_READY_FAILED.place pg]) ((.wlh, 0x90) :: irqCounts (.disp p)))) ∧
  (∀ (s : State) (p : PartId), s.fld (.disp p) Reg.DISP_ROLE_STATE = 3 → completes (.pctlLoadFail p) s fun t => t.fld
    (.disp p) Reg.DISP_ROLE_CUR = 0 ∧ t.fld (.disp p) Reg.DISP_ROLE_STATE = 5 ∧ t.fld (.disp p) Reg.PG_READY_READY =
    0 ∧ t.fld (.disp p) Reg.PG_READY_FAILED = 1 ∧ s.raised t (.disp p) 0 ∧ s.erred t .wlh 0x03 ∧ s.recorded t .wlh
    { severity := 2, code := 0x03 } ∧ s.changesOn t recordComps (.disp p :: .wlh :: recordPages))

/-- PWR_OPP_WRITE stores CAP and FLOOR, each held to the bin's top point and counted when it was, and records
RSV_ENC when CAP would fall below FLOOR; OPP_TICK chooses each quadrant's point from its busy share, CAP, FLOOR and
the limits acting, in the order of Table 15-5; OPP_TRANSITION_DONE moves CUR one step; THERMAL_LIMIT above LIMIT_C,
the 1,001st DROOP_DETECT of a millisecond and a tile rail above its limit each take one step down at once;
THERMAL_LIMIT publishes the reading; RAIL_READ_COMPLETE publishes a rail, and the third silence in a row writes an
error record; POWER_MANAGER_TICK sets every RATE_MW from the shares of the partitions that are not fenced. Nothing
else changes. On points the spec leaves open it states the model's choices (notes/assumptions/43). -/
def Obligations.OperatingPointsMove : Prop :=
  (∀ (s : State) (q : Fin 4) (cap floor : Fin 8), s.ready .pwr = true → min floor.val s.topOpp ≤ min cap.val s.topOpp
    → completes (.pwrOppWrite q cap floor) s fun t => t.fld .pwr Reg.PWR_OPP_CAP q.val = min cap.val s.topOpp ∧ t.fld
    .pwr Reg.PWR_OPP_FLOOR q.val = min floor.val s.topOpp ∧ (s.counted t .pwr 0x80 (if s.topOpp < cap.val ∨ s.topOpp
    < floor.val then 1 else 0)) ∧ s.changes t []
    [Reg.PWR_OPP_CAP.place .pwr q.val, Reg.PWR_OPP_FLOOR.place .pwr q.val] [(.pwr, 0x80)]) ∧
  (∀ (s : State) (q : Fin 4) (cap floor : Fin 8), s.ready .pwr = true → min cap.val s.topOpp < min floor.val s.topOpp
    → completes (.pwrOppWrite q cap floor) s fun t => s.erred t .pwr 0x0E ∧ s.counted t .pwr 0x68 ∧ s.changes t []
    (errPlaces .pwr) [(.pwr, 0x50), (.pwr, 0x68)]) ∧
  (∀ (s : State) (busy : List Nat) (q : Fin 4) (cur up v1 v2 v3 v4 v5 : Nat), cur = s.fld .pwr Reg.PWR_OPP_CUR q.val
    → (v1 = (if 90 < busy.getD q.val 0 then min (cur + 1) s.topOpp else if busy.getD q.val 0 < 50 then cur - 1 else
    cur)) → v2 = max (s.fld .pwr Reg.PWR_OPP_FLOOR q.val) (min v1 (s.fld .pwr Reg.PWR_OPP_CAP q.val)) → (v3 = (if
    q.val ∈ s.pwr.thermHot then min v2 (cur - 1) else if q.val + 4 ∈ s.pwr.thermHot then min v2 cur else v2)) → up =
    s.oppTarget q.val → (v4 = (if q.val ∈ s.pwr.currHit then min v3 up else v3)) → (v5 = (if 1000 < Map.get 0
    s.pwr.stretches q.val then min v4 up else v4)) → completes (.oppTick busy) s fun t => t.fld .pwr Reg.PWR_OPP_LOOP
    q.val = v1 ∧ t.oppTarget q.val = v5 ∧ t.pwr.currHit = [] ∧ t.pwr.stretches = [] ∧ bit (t.fld .pwr
    Reg.PWR_OPP_LIMITER q.val) 3 = (v2 != v1) ∧ bit (t.fld .pwr Reg.PWR_OPP_LIMITER q.val) 0 =
    (s.pwr.thermHot.contains q.val || s.pwr.thermHot.contains (q.val + 4)) ∧ bit (t.fld .pwr Reg.PWR_OPP_LIMITER
    q.val) 1 = s.pwr.currHit.contains q.val ∧ bit (t.fld .pwr Reg.PWR_OPP_LIMITER q.val) 2 = decide (1000 < Map.get 0
    s.pwr.stretches q.val) ∧ (s.changes t [.pwr, .out, .pcie] (irqPlaces .pwr ++ (List.range 4).flatMap fun k =>
    [Reg.PWR_OPP_LOOP.place .pwr k, Reg.PWR_OPP_LIMITER.place .pwr k])
    ([(Page.pwr, 0x88), (Page.pwr, 0x90), (Page.pwr, 0x98), (Page.pwr, 0xA0)] ++ irqCounts .pwr))) ∧
  (∀ (s : State) (q : Fin 4) (target cur next : Nat), ((s.pwr.moving.find? fun m => m.1 == q.val) = some (q.val,
    target)) → cur = s.fld .pwr Reg.PWR_OPP_CUR q.val → target ≤ s.topOpp → target ≠ cur → (next = (if cur < target
    then cur + 1 else cur - 1)) → completes (.oppTransitionDone q) s fun t => t.fld .pwr Reg.PWR_OPP_CUR q.val = next
    ∧ t.oppTarget q.val = target ∧ s.counted t .pwr 0xA8 ∧ (t.out = s.out ++ (if next < cur then [Out.voltage q next]
    else []) ++ (if next < target then [Out.voltage q (next + 1)] else [])) ∧ s.changes t [.pwr, .out]
    [Reg.PWR_OPP_CUR.place .pwr q.val] [(.pwr, 0xA8)]) ∧
  (∀ (s : State) (q : Fin 4) (temp : Int) (sensor : Fin 256) (lim : Int), lim = (s.fld .pwr Reg.PWR_THERM_LIMIT_C :
    Int) * 8 → completes (.thermalLimit q temp sensor) s fun t => t.fld .pwr Reg.PWR_TEMP_MAX = unsigned 16 temp ∧
    t.fld .pwr Reg.PWR_TEMP_SENSOR = sensor.val ∧ (q.val ∈ t.pwr.thermHot ↔ lim < temp) ∧ (q.val + 4 ∈ t.pwr.thermHot
    ↔ lim - 16 < temp ∧ temp ≤ lim ∧ (q.val ∈ s.pwr.thermHot ∨ q.val + 4 ∈ s.pwr.thermHot)) ∧ (t.oppTarget q.val = if
    lim < temp ∧ q.val ∉ s.pwr.thermHot then min (s.oppTarget q.val) (s.fld .pwr Reg.PWR_OPP_CUR q.val) - 1 else
    s.oppTarget q.val) ∧ (lim < temp → q.val ∉ s.pwr.thermHot → bit (t.fld .pwr Reg.PWR_OPP_LIMITER q.val) 0 = true)
    ∧ (s.counted t .pwr 0x90 (if lim < temp ∧ q.val ∉ s.pwr.thermHot ∧ s.oppTarget q.val ≠ 0 then 1 else 0)) ∧
    s.changes t [.pwr, .out, .pcie] (irqPlaces .pwr ++
    [Reg.PWR_TEMP_MAX.place .pwr, Reg.PWR_TEMP_SENSOR.place .pwr, Reg.PWR_OPP_LIMITER.place .pwr q.val]) ((.pwr,
    0x90) :: irqCounts .pwr)) ∧
  (∀ (s : State) (q : Fin 4), Map.get 0 s.pwr.stretches q.val ≠ 1000 → completes (.droopDetect q) s fun t => t.pwr =
    { s.pwr with stretches := Map.set 0 s.pwr.stretches q.val (Map.get 0 s.pwr.stretches q.val + 1) } ∧ s.counted t
    .pwr 0xB8 ∧ s.changes t [.pwr] [] [(.pwr, 0xB8)]) ∧
  (∀ (s : State) (q : Fin 4), Map.get 0 s.pwr.stretches q.val = 1000 → completes (.droopDetect q) s fun t => Map.get
    0 t.pwr.stretches q.val = 1001 ∧ s.counted t .pwr 0xB8 ∧ t.oppTarget q.val = min (s.oppTarget q.val) (s.fld .pwr
    Reg.PWR_OPP_CUR q.val) - 1 ∧ bit (t.fld .pwr Reg.PWR_OPP_LIMITER q.val) 2 = true ∧ s.changes t
    [.pwr, .out, .pcie] (irqPlaces .pwr ++ [Reg.PWR_OPP_LIMITER.place .pwr q.val])
    ([(Page.pwr, 0xA0), (Page.pwr, 0xB8)] ++ irqCounts .pwr)) ∧
  (∀ (s : State) (rail : Fin 16) (mv da : Nat), 1 ≤ rail.val → rail.val ≤ 13 → completes (.railReadComplete rail
    (some (mv, da))) s fun t => t.fld .pwr Reg.RAIL_MV_MV rail.val = mv % 2 ^ Reg.RAIL_MV_MV.width ∧ t.fld .pwr
    Reg.RAIL_MV_DECIAMPS rail.val = da % 2 ^ Reg.RAIL_MV_DECIAMPS.width ∧ Map.get 0 t.pwr.railMiss rail.val = 0 ∧ (∀
    q : Fin 4, t.oppTarget q.val = if q.val + 1 = rail.val ∧ s.fld .pwr Reg.PWR_ICC_TILE_A_MAX * 10 < da then min
    (s.oppTarget q.val) (s.fld .pwr Reg.PWR_OPP_CUR q.val) - 1 else s.oppTarget q.val) ∧ (s.changes t
    [.pwr, .out, .pcie] (irqPlaces .pwr ++
    [Reg.RAIL_MV_MV.place .pwr rail.val, Reg.RAIL_MV_DECIAMPS.place .pwr rail.val] ++ if rail.val ≤ 4 then
    [Reg.PWR_OPP_LIMITER.place .pwr (rail.val - 1)] else []) ((.pwr, 0x98) :: irqCounts .pwr))) ∧
  (∀ (s : State) (rail : Fin 16), 1 ≤ rail.val → rail.val ≤ 13 → Map.get 0 s.pwr.railMiss rail.val ≠ 2 → completes
    (.railReadComplete rail none) s fun t => t.pwr =
    { s.pwr with railMiss := Map.set 0 s.pwr.railMiss rail.val (Map.get 0 s.pwr.railMiss rail.val + 1) } ∧ s.changes
    t [.pwr] [] []) ∧
  (∀ (s : State) (rail : Fin 16), 1 ≤ rail.val → rail.val ≤ 13 → Map.get 0 s.pwr.railMiss rail.val = 2 → completes
    (.railReadComplete rail none) s fun t => Map.get 0 t.pwr.railMiss rail.val = 0 ∧ (s.recorded t .pwr
    { severity := 2, rail := some rail.val }) ∧ s.changesOn t recordComps recordPages) ∧
  (∀ (s : State) (p : PartId) (sum v : Nat), (sum = ((allParts.filter fun p => !s.fenced p).map fun p => s.fld .pwr
    Reg.PWR_SHARE_SHARE p.val).foldl (· + ·) 0) → v = vddOf (s.fld .pwr Reg.PWR_OPP_CUR (p.val / 8)) → completes
    (.powerManagerTick) s fun t => (t.fld (.disp p) Reg.DISP_ENERGY_RATE_RATE_MW = (if s.fenced p ∨ sum = 0 then 0
    else s.fld .pwr Reg.PWR_TILE_W_WATTS * 1000 * s.fld .pwr Reg.PWR_SHARE_SHARE p.val * 7225 / (sum * (v * v))) % 2
    ^ Reg.DISP_ENERGY_RATE_RATE_MW.width) ∧ (s.changes t [] (allParts.map fun k => Reg.DISP_ENERGY_RATE_RATE_MW.place
    (.disp k)) []))

/-- A write of a power-down mask stores it, and a unit in its mode whose bit is clear leaves it and wakes;
PWR_TILE_GATE takes only the bits of partitions that are stably NONE or CACHE, or that were set, and records the
refusal of another; LP_IDLE_ENTER puts a unit whose bit is set, that is awake, has nothing to do and was idle for
PWR_IDLE_US into its mode, where gated tiles lose their contents and a port in port off its link; WAKE_DONE ends a
wake, and gated tiles come back ready. Nothing else changes. On points the spec leaves open it states the model's
choices (notes/assumptions/43). -/
def Obligations.PowerDownModesFollowTheirBits : Prop :=
  (∀ (s : State) (v : Word), s.ready .pwr = true → completes (.powerDownMaskWrite 0 v) s fun t => t.fld .pwr
    Reg.PWR_PORT_LP_MASK = v.toNat % 2 ^ Reg.PWR_PORT_LP_MASK.width ∧ (∀ n : PortId, (LpUnit.portLp n ∈ t.pwr.inMode
    ↔ LpUnit.portLp n ∈ s.pwr.inMode ∧ bit v.toNat n.val = true) ∧ (LpUnit.portLp n ∈ t.pwr.waking ↔ LpUnit.portLp n
    ∈ s.pwr.waking ∨ LpUnit.portLp n ∈ s.pwr.inMode ∧ bit v.toNat n.val = false)) ∧ s.changes t [.pwr]
    [Reg.PWR_PORT_LP_MASK.place .pwr] [(.pwr, 0xB0)]) ∧
  (∀ (s : State) (v : Word), s.ready .pwr = true → completes (.powerDownMaskWrite 1 v) s fun t => t.fld .pwr
    Reg.PWR_PORT_OFF_MASK = v.toNat % 2 ^ Reg.PWR_PORT_OFF_MASK.width ∧ (∀ n : PortId, (LpUnit.portOff n ∈
    t.pwr.inMode ↔ LpUnit.portOff n ∈ s.pwr.inMode ∧ bit v.toNat n.val = true) ∧ (LpUnit.portOff n ∈ t.pwr.waking ↔
    LpUnit.portOff n ∈ s.pwr.waking ∨ LpUnit.portOff n ∈ s.pwr.inMode ∧ bit v.toNat n.val = false)) ∧ s.changes t
    [.pwr] [Reg.PWR_PORT_OFF_MASK.place .pwr] [(.pwr, 0xB0)]) ∧
  (∀ (s : State) (v : Word), s.ready .pwr = true → completes (.powerDownMaskWrite 2 v) s fun t => t.fld .pwr
    Reg.PWR_SHL_RET_MASK = v.toNat % 2 ^ Reg.PWR_SHL_RET_MASK.width ∧ (∀ n : PartId, (LpUnit.slice n ∈ t.pwr.inMode ↔
    LpUnit.slice n ∈ s.pwr.inMode ∧ bit v.toNat n.val = true) ∧ (LpUnit.slice n ∈ t.pwr.waking ↔ LpUnit.slice n ∈
    s.pwr.waking ∨ LpUnit.slice n ∈ s.pwr.inMode ∧ bit v.toNat n.val = false)) ∧ s.changes t [.pwr]
    [Reg.PWR_SHL_RET_MASK.place .pwr] [(.pwr, 0xB0)]) ∧
  (∀ (s : State) (v : Word), s.ready .pwr = true → completes (.powerDownMaskWrite 3 v) s fun t => t.fld .pwr
    Reg.PWR_MEM_SR_BAS = bits v.toNat 0 8 ∧ t.fld .pwr Reg.PWR_MEM_SR_DEEP = bits v.toNat 8 16 ∧ (∀ n : Fin 8,
    (LpUnit.stack n ∈ t.pwr.inMode ↔ LpUnit.stack n ∈ s.pwr.inMode ∧ bit v.toNat n.val = true)) ∧ (∀ n : Fin 16,
    (LpUnit.channel n ∈ t.pwr.inMode ↔ LpUnit.channel n ∈ s.pwr.inMode ∧ bit v.toNat (8 + n.val) = true)) ∧ s.changes
    t [.pwr] [Reg.PWR_MEM_SR_BAS.place .pwr, Reg.PWR_MEM_SR_DEEP.place .pwr] [(.pwr, 0xB0)]) ∧
  (∀ (s : State) (v : Word) (no : PartId → Bool), s.ready .pwr = true → (∀ p, no p = (bit v.toNat p.val && !bit
    (s.fld .pwr Reg.PWR_TILE_GATE_MASK) p.val && !(s.stableRole p 0 || s.stableRole p 3))) → completes
    (.pwrTileGateWrite v) s fun t => (∀ p : PartId, bit (t.fld .pwr Reg.PWR_TILE_GATE_MASK) p.val = (bit v.toNat
    p.val && !no p)) ∧ (∀ p : PartId, LpUnit.tileGate p ∈ t.pwr.inMode ↔ LpUnit.tileGate p ∈ s.pwr.inMode ∧ bit
    v.toNat p.val = true ∧ no p = false) ∧ (if allParts.any no then s.erred t .pwr 0x01 else t.fld .pwr
    Reg.PG_ERR_CODE = s.fld .pwr Reg.PG_ERR_CODE ∧ t.counter .pwr 0x50 = s.counter .pwr 0x50) ∧ s.changes t [.pwr]
    (Reg.PWR_TILE_GATE_MASK.place .pwr :: errPlaces .pwr) [(.pwr, 0xB0), (.pwr, 0x50)]) ∧
  (∀ (s : State) (u : LpUnit), s.lpSet u = true → u ∉ s.pwr.inMode → u ∉ s.pwr.waking → (∀ e ∈ s.pwr.idleFrom, e.1 =
    u → e.2 + s.fld .pwr Reg.PWR_IDLE_IDLE_US * 1000 ≤ s.now) → s.lpIdle u = true → (∀ n, u ≠ .portOff n) → (∀ p, u ≠
    .tileGate p) → completes (.lpIdleEnter u) s fun t => t.pwr = { s.pwr with inMode := u :: s.pwr.inMode } ∧
    s.changes t [.pwr] [] []) ∧
  (∀ (s : State) (p : PartId), s.lpSet (LpUnit.tileGate p) = true → LpUnit.tileGate p ∉ s.pwr.inMode →
    LpUnit.tileGate p ∉ s.pwr.waking → (∀ e ∈ s.pwr.idleFrom, e.1 = (LpUnit.tileGate p) → e.2 + s.fld .pwr
    Reg.PWR_IDLE_IDLE_US * 1000 ≤ s.now) → s.lpIdle (LpUnit.tileGate p) = true → completes (.lpIdleEnter (.tileGate
    p)) s fun t => t.pwr = { s.pwr with inMode := .tileGate p :: s.pwr.inMode } ∧ (∀ x : TileId, partOf x = p →
    t.tile x = {} ∧ t.fld (.tile x) Reg.PG_READY_READY = 0) ∧ (∀ (x : TileId) (o : Nat), Map.get 0 t.sram (sramAddr x
    o) = if partOf x = p then 0 else Map.get 0 s.sram (sramAddr x o)) ∧ (s.changes t [.pwr, .tiles, .sram, .sramBad]
    ((tilesOf p).map fun x => Reg.PG_READY_READY.place (.tile x)) [])) ∧
  (∀ (s : State) (n : PortId), s.lpSet (LpUnit.portOff n) = true → LpUnit.portOff n ∉ s.pwr.inMode → LpUnit.portOff n
    ∉ s.pwr.waking → (∀ e ∈ s.pwr.idleFrom, e.1 = (LpUnit.portOff n) → e.2 + s.fld .pwr Reg.PWR_IDLE_IDLE_US * 1000 ≤
    s.now) → s.lpIdle (LpUnit.portOff n) = true → completes (.lpIdleEnter (.portOff n)) s fun t => t.pwr =
    { s.pwr with inMode := .portOff n :: s.pwr.inMode } ∧ t.fld (.port n) Reg.PORT_STAT_LINK_UP = 0 ∧ (s.changes t
    [.pwr, .ports, .out, .pcie] ([Reg.PORT_STAT_LINK_UP.place (.port n), Reg.PORT_STAT_LANES_UP.place (.port n)] ++
    irqPlaces (.port n) ++ allEngs.flatMap fun e => Reg.FENG_STAT_PATH_LOST.place (.feng e) :: irqPlaces (.feng e))
    ((Page.port n, 0xB8) :: irqCounts (Page.port n) ++ allEngs.flatMap fun e => irqCounts (Page.feng e)))) ∧
  (∀ (s : State) (u : LpUnit), u ∈ s.pwr.waking → completes (.wakeDone u) s fun t => (t.pwr =
    { s.pwr with waking := s.pwr.waking.filter (· ≠ u), idleFrom := s.pwr.idleFrom.filter (fun e => e.1 ≠ u) ++ [(u, s.now)] })
    ∧ (∀ x : TileId, u = .tileGate (partOf x) → t.fld (.tile x) Reg.PG_READY_READY = 1) ∧ (s.changes t [.pwr]
    (match u with | .tileGate p => (tilesOf p).map fun x => Reg.PG_READY_READY.place (.tile x) | _ => []) []))

/-- On a port whose link is up and that no fault injection touches: a DATA flit that passes its checks and carries
the expected SEQ is accepted, with its acknowledgement and credits used; a duplicate is counted and acknowledged; a
flit that fails its checks or leaves a gap asks once for a replay; CONTROL and IDLE flits that pass their checks
only carry acknowledgements and credits; one with RETRY_REQ replays the held flits. A flit the injector drops
changes nothing of the port. A port whose link is down receives nothing. Nothing else changes. On points the spec
leaves open it states the model's choices (notes/assumptions/25). -/
def Obligations.FlitsAreReceivedInOrder : Prop :=
  (∀ (s : State) (n : PortId) (f : Flit), s.flag (.port n) Reg.PORT_STAT_LINK_UP = true → s.flag .finj
    Reg.FINJ_CTRL_ARM = false → f.fecOk = true → f.crcOk = true → f.retryReq = false → seqAhead f.seq (s.port n).exp
    = 0 → completes (.dataFlitReceive n f) s fun t => (t.port n =
    { s.port n with exp := ((s.port n).exp + 1) % 4096, awaitingExp := false, rxUnacked := (s.port n).rxUnacked + 1, rxFrom := if (s.port n).rxUnacked = 0 then s.now else (s.port n).rxFrom, creditsBack := Map.set 0 (s.port n).creditsBack f.tc.val (Map.get 0 (s.port n).creditsBack f.tc.val + 1), held := if f.ackValid then (s.port n).held.filter (fun h => !decide (seqAhead h.1 f.ackSeq < 2048)) else (s.port n).held, replays := if f.ackValid = true ∧ ((s.port n).held.any fun h => decide (seqAhead h.1 f.ackSeq < 2048)) = true then 0 else (s.port n).replays, credits := if f.crCount = 0 then (s.port n).credits else Map.set 0 (s.port n).credits f.crTc.val (Map.get 0 (s.port n).credits f.crTc.val + f.crCount) })
    ∧ othersSame {} s.ports t.ports [n.val] ∧ s.counted t (.port n) 0x88 ∧ s.counted t (.port n) 0x90
    f.fecCorrected.toNat ∧ s.changes t [.ports] [] [(.port n, 0x88), (.port n, 0x90)]) ∧
  (∀ (s : State) (n : PortId) (f : Flit), s.flag (.port n) Reg.PORT_STAT_LINK_UP = true → s.flag .finj
    Reg.FINJ_CTRL_ARM = false → f.fecOk = true → f.crcOk = true → 1 ≤ seqAhead f.seq (s.port n).exp → seqAhead f.seq
    (s.port n).exp ≤ 2048 → completes (.dataFlitReceive n f) s fun t => t.out = s.out ++
    [(s.port n).bareOut n 1 true false] ∧ t.port n = (s.port n).afterBare ∧ s.counted t (.port n) 0xB0 ∧ s.counted t
    (.port n) 0x88 ∧ s.counted t (.port n) 0x90 f.fecCorrected.toNat ∧ s.changes t [.ports, .out] []
    [(.port n, 0x80), (.port n, 0x88), (.port n, 0x90), (.port n, 0xB0)]) ∧
  (∀ (s : State) (n : PortId) (f : Flit), s.flag (.port n) Reg.PORT_STAT_LINK_UP = true → s.flag .finj
    Reg.FINJ_CTRL_ARM = false → f.fecOk = false ∨ f.crcOk = false ∨ 2048 < seqAhead f.seq (s.port n).exp → completes
    (.dataFlitReceive n f) s fun t => (t.out = s.out ++ if (s.port n).awaitingExp then [] else
    [(s.port n).bareOut n 1 true true]) ∧ (t.port n = if (s.port n).awaitingExp then s.port n else
    { (s.port n).afterBare with awaitingExp := true }) ∧ s.counted t (.port n) 0x98 (!f.fecOk).toNat ∧ s.counted t
    (.port n) 0xA0 (f.fecOk && !f.crcOk).toNat ∧ s.counted t (.port n) 0x88 ∧ s.counted t (.port n) 0x90
    f.fecCorrected.toNat ∧ s.changes t [.ports, .out] []
    [(.port n, 0x80), (.port n, 0x88), (.port n, 0x90), (.port n, 0x98), (.port n, 0xA0)]) ∧
  (∀ (s : State) (n : PortId) (f : Flit), s.flag (.port n) Reg.PORT_STAT_LINK_UP = true → s.flag .finj
    Reg.FINJ_CTRL_ARM = false → f.fecOk = true → f.crcOk = true → f.retryReq = false → completes (.controlFlitReceive
    n f) s fun t => t.port n = (s.port n).told f ∧ othersSame {} s.ports t.ports [n.val] ∧ s.counted t (.port n) 0x88
    ∧ s.counted t (.port n) 0x90 f.fecCorrected.toNat ∧ s.changes t [.ports] [] [(.port n, 0x88), (.port n, 0x90)]) ∧
  (∀ (s : State) (n : PortId) (f : Flit), s.flag (.port n) Reg.PORT_STAT_LINK_UP = true → s.flag .finj
    Reg.FINJ_CTRL_ARM = false → f.fecOk = false ∨ f.crcOk = false → completes (.controlFlitReceive n f) s fun t =>
    s.counted t (.port n) 0x98 (!f.fecOk).toNat ∧ s.counted t (.port n) 0xA0 (f.fecOk && !f.crcOk).toNat ∧ s.counted
    t (.port n) 0x88 ∧ s.counted t (.port n) 0x90 f.fecCorrected.toNat ∧ s.changes t [] []
    [(.port n, 0x88), (.port n, 0x90), (.port n, 0x98), (.port n, 0xA0)]) ∧
  (∀ (s : State) (n : PortId) (f : Flit), s.flag (.port n) Reg.PORT_STAT_LINK_UP = true → s.flag .finj
    Reg.FINJ_CTRL_ARM = false → f.fecOk = true → f.crcOk = true → f.retryReq = false → completes (.idleFlitReceive n
    f) s fun t => t.port n = (s.port n).told f ∧ othersSame {} s.ports t.ports [n.val] ∧ s.counted t (.port n) 0x88 ∧
    s.counted t (.port n) 0x90 f.fecCorrected.toNat ∧ s.changes t [.ports] [] [(.port n, 0x88), (.port n, 0x90)]) ∧
  (∀ (s : State) (n : PortId) (f : Flit), s.flag (.port n) Reg.PORT_STAT_LINK_UP = true → s.flag .finj
    Reg.FINJ_CTRL_ARM = false → f.fecOk = false ∨ f.crcOk = false → completes (.idleFlitReceive n f) s fun t =>
    s.counted t (.port n) 0x98 (!f.fecOk).toNat ∧ s.counted t (.port n) 0xA0 (f.fecOk && !f.crcOk).toNat ∧ s.counted
    t (.port n) 0x88 ∧ s.counted t (.port n) 0x90 f.fecCorrected.toNat ∧ s.changes t [] []
    [(.port n, 0x88), (.port n, 0x90), (.port n, 0x98), (.port n, 0xA0)]) ∧
  (∀ (s : State) (n : PortId) (f : Flit), s.flag (.port n) Reg.PORT_STAT_LINK_UP = true → s.flag .finj
    Reg.FINJ_CTRL_ARM = false → f.fecOk = true → f.crcOk = true → f.retryReq = true → ((s.port n).told f).held ≠ [] →
    ((s.port n).told f).replays < s.fld (.port n) Reg.PORT_CTRL_RETRY_MAX → completes (.controlFlitReceive n f) s fun
    t => t.port n =
    { (s.port n).told f with replays := ((s.port n).told f).replays + 1, held := ((s.port n).told f).held.map fun h => (h.1, s.now, h.2.2) }
    ∧ (t.out = s.out ++ ((s.port n).told f).held.map fun h => Out.flit n 0 h.1 true (replayFlit h.2.2)) ∧ s.counted t
    (.port n) 0xA8 ((s.port n).told f).held.length ∧ s.counted t (.port n) 0x80 ((s.port n).told f).held.length ∧
    othersSame {} s.ports t.ports [n.val] ∧ s.counted t (.port n) 0x88 ∧ s.counted t (.port n) 0x90
    f.fecCorrected.toNat ∧ s.changes t [.ports, .out] []
    [(.port n, 0x80), (.port n, 0x88), (.port n, 0x90), (.port n, 0xA8)]) ∧
  (∀ (s : State) (n : PortId) (f : Flit), s.flag (.port n) Reg.PORT_STAT_LINK_UP = true → s.flag .finj
    Reg.FINJ_CTRL_ARM = true → s.flag .finj Reg.FINJ_CTRL_DIR = true → s.fld .finj Reg.FINJ_CTRL_PORT = n.val → s.fld
    .finj Reg.FINJ_CTRL_MODE = 1 → s.fld .finj Reg.FINJ_RATE_RATE_LOG2 = 0 → ∃ t, exec (.dataFlitReceive n f) s =
    .next t ∧ exec (.controlFlitReceive n f) s = .next t ∧ exec (.idleFlitReceive n f) s = .next t ∧ t.finj.count =
    s.finj.count + 1 ∧ s.counted t .finj 0x80 ∧ s.keeps t [.finj, .regs, .cnt]) ∧
  (∀ (s : State) (n : PortId) (f : Flit), s.flag (.port n) Reg.PORT_STAT_LINK_UP = false → exec (.dataFlitReceive n
    f) s = .next s ∧ exec (.controlFlitReceive n f) s = .next s ∧ exec (.idleFlitReceive n f) s = .next s)

/-- With the link up and no fault injection: FLIT_TRANSMIT sends the next bytes of the head packet of the class that
R202 chooses, held until acknowledged, with one link credit used; with no flit to send it sends an IDLE flit (the
model's choice, notes/assumptions/59), and counts a stall when packets wait and no class may send; a port asleep
wakes first; FLIT_ACK_TIMER acknowledges what is not yet acknowledged; FLIT_REPLAY_TIMEOUT sends every held flit
again, or takes the link down after RETRY_MAX replays without progress. TC0 goes before TC1, and TC1 before the
weighted classes. Nothing else changes. On points the spec leaves open it states the model's choices
(notes/assumptions/25). -/
def Obligations.FlitsAreSentAndReplayed : Prop :=
  (∀ (s : State) (n : PortId) (c : Nat) (x : Port), s.flag (.port n) Reg.PORT_STAT_LINK_UP = true → s.flag .finj
    Reg.FINJ_CTRL_ARM = false → (s.port n).queues ≠ [] → LpUnit.portLp n ∉ s.pwr.inMode → LpUnit.portLp n ∉
    s.pwr.waking → (s.port n).held.length < 2048 → (s.port n).waiting = [] → (s.nextClass n (s.port n) = some (c, x))
    → completes (.flitTransmit n) s fun t => (let pkt := (x.queue c).headD []; let cr := x.creditsBack.headD (0, 0);
    let b := mkFlit x.seqNext (x.exp + 4095) (decide (x.rxUnacked ≠ 0)) cr.1 cr.2 (!x.mid.contains c) c pkt; t.out =
    s.out ++ [.flit n 0 x.seqNext false b] ∧ (t.port n).held = x.held ++ [(x.seqNext, s.now, b)] ∧ (t.port n).queue c
    = (if 244 < pkt.length then pkt.drop 244 :: (x.queue c).drop 1 else (x.queue c).drop 1) ∧ (c ∈ (t.port n).mid ↔
    244 < pkt.length)) ∧ (t.port n).seqNext = (x.seqNext + 1) % 4096 ∧ Map.get 0 (t.port n).credits c = Map.get 0
    x.credits c - 1 ∧ (t.port n).rxUnacked = 0 ∧ s.counted t (.port n) 0x80 ∧ othersSame {} s.ports t.ports [n.val] ∧
    s.changes t [.ports, .out] [] [(.port n, 0x80)]) ∧
  (∀ (s : State) (n : PortId), s.flag (.port n) Reg.PORT_STAT_LINK_UP = true → s.flag .finj Reg.FINJ_CTRL_ARM = false
    → (s.port n).queues ≠ [] → LpUnit.portLp n ∉ s.pwr.inMode → LpUnit.portLp n ∉ s.pwr.waking → (s.port
    n).held.length < 2048 → (s.port n).waiting = [] → s.nextClass n (s.port n) = none → completes (.flitTransmit n)
    s fun t => t.out = s.out ++ [(s.port n).bareOut n 2 (decide ((s.port n).rxUnacked ≠ 0)) false] ∧ t.port n =
    (s.port n).afterBare ∧ othersSame {} s.ports t.ports [n.val] ∧ s.counted t (.port n) 0xD8 ∧ s.counted t (.port n)
    0x80 ∧ s.changes t [.ports, .out] [] [(.port n, 0x80), (.port n, 0xD8)]) ∧
  (∀ (s : State) (n : PortId), s.flag (.port n) Reg.PORT_STAT_LINK_UP = true → s.flag .finj Reg.FINJ_CTRL_ARM = false
    → LpUnit.portLp n ∉ s.pwr.inMode → LpUnit.portLp n ∉ s.pwr.waking → (s.port n).queues = [] ∨ 2048 ≤ (s.port
    n).held.length → (s.port n).waiting = [] → completes (.flitTransmit n) s fun t => t.out = s.out ++
    [(s.port n).bareOut n 2 (decide ((s.port n).rxUnacked ≠ 0)) false] ∧ t.port n = (s.port n).afterBare ∧ othersSame
    {} s.ports t.ports [n.val] ∧ s.counted t (.port n) 0x80 ∧ s.changes t [.ports, .out] [] [(.port n, 0x80)]) ∧
  (∀ (s : State) (n : PortId), s.flag (.port n) Reg.PORT_STAT_LINK_UP = true → (s.port n).queues ≠ [] → (s.port
    n).waiting = [] → LpUnit.portLp n ∈ s.pwr.inMode → completes (.flitTransmit n) s fun t => LpUnit.portLp n ∉
    t.pwr.inMode ∧ LpUnit.portLp n ∈ t.pwr.waking ∧ s.counted t .pwr 0xB0 ∧ s.changes t [.pwr] [] [(.pwr, 0xB0)]) ∧
  (∀ (s : State) (n : PortId), s.flag (.port n) Reg.PORT_STAT_LINK_UP = true → s.flag .finj Reg.FINJ_CTRL_ARM = false
    → (s.port n).rxUnacked ≠ 0 → 32 ≤ (s.port n).rxUnacked ∨ (s.port n).rxFrom + 100 ≤ s.now → completes
    (.flitAckTimer n) s fun t => t.out = s.out ++ [(s.port n).bareOut n 1 true false] ∧ t.port n = (s.port
    n).afterBare ∧ othersSame {} s.ports t.ports [n.val] ∧ s.counted t (.port n) 0x80 ∧ s.changes t [.ports, .out] []
    [(.port n, 0x80)]) ∧
  (∀ (s : State) (n : PortId) (q t0 : Nat) (b : List Byte) (rest : List (Nat × Nat × List Byte)), s.flag (.port n)
    Reg.PORT_STAT_LINK_UP = true → s.flag .finj Reg.FINJ_CTRL_ARM = false → (s.port n).held = (q, t0, b) :: rest → t0
    + s.fld (.port n) Reg.PORT_CTRL_ACK_TO_NS ≤ s.now → (s.port n).replays < s.fld (.port n) Reg.PORT_CTRL_RETRY_MAX
    → completes (.flitReplayTimeout n) s fun t => (t.port n =
    { s.port n with replays := (s.port n).replays + 1, held := (s.port n).held.map fun h => (h.1, s.now, h.2.2) }) ∧
    (t.out = s.out ++ (s.port n).held.map fun h => Out.flit n 0 h.1 true (replayFlit h.2.2)) ∧ s.counted t (.port n)
    0xA8 (s.port n).held.length ∧ s.counted t (.port n) 0x80 (s.port n).held.length ∧ othersSame {} s.ports t.ports
    [n.val] ∧ s.changes t [.ports, .out] [] [(.port n, 0x80), (.port n, 0xA8)]) ∧
  (∀ (s : State) (n : PortId) (q t0 : Nat) (b : List Byte) (rest : List (Nat × Nat × List Byte)), s.flag (.port n)
    Reg.PORT_STAT_LINK_UP = true → (s.port n).held = (q, t0, b) :: rest → t0 + s.fld (.port n)
    Reg.PORT_CTRL_ACK_TO_NS ≤ s.now → s.fld (.port n) Reg.PORT_CTRL_RETRY_MAX ≤ (s.port n).replays → completes
    (.flitReplayTimeout n) s fun t => t.fld (.port n) Reg.PORT_STAT_LINK_UP = 0 ∧ (t.port n).held = [] ∧ s.counted t
    (.port n) 0xB8 ∧ (s.changes t [.ports, .out, .pcie]
    ([Reg.PORT_STAT_LINK_UP.place (.port n), Reg.PORT_STAT_LANES_UP.place (.port n)] ++ irqPlaces (.port n) ++
    allEngs.flatMap fun e => Reg.FENG_STAT_PATH_LOST.place (.feng e) :: irqPlaces (.feng e)) ((Page.port n, 0xB8) ::
    irqCounts (Page.port n) ++ allEngs.flatMap fun e => irqCounts (Page.feng e)))) ∧
  (∀ (s : State) (n : PortId) (x : Port), x.isReady 0 = true ∨ x.isReady 1 = true → s.nextClass n x = if x.isReady 0
    then some (0, x) else some (1, x))

/-- PACKET_ENTER_PORT on a port without fault injection or delayed packets: a packet that both levels hold (green)
or only the peak level holds (yellow, counted) joins its class and the levels fall by its bits; a red packet waits
at the head of its class and is counted once, and a red packet of TC7 is dropped and counted. PORT_TC_WRITE stores
the policer words and refuses a committed rate that would take the port above 100 GB/s; FINJ_ARM stores the
injector's configuration, seeds the LFSR when it arms, and records LOCKED on a locked page. Of both a field with a
reserved value keeps its own while the others take theirs, and each such field is recorded (once per field: the
model's choice, notes/assumptions/53; PARAM is judged beside the MODE that results, notes/assumptions/59). Nothing
else changes. On points the spec leaves open it states the model's choices (notes/assumptions/25). -/
def Obligations.PacketsMeetThePolicer : Prop :=
  (∀ (s : State) (n : PortId) (c : Fin 8) (bytes : List Byte) (lc lp : Nat), s.flag .finj Reg.FINJ_CTRL_ARM = false →
    (s.port n).delayed = [] → c ≠ 7 → Map.get [] (s.port n).waiting c.val = [] → s.policer n c.val = (lc, lp) →
    bytes.length * 10 ≤ lp → completes (.packetEnterPort n c bytes) s fun t => (t.port n).queue c.val = (s.port
    n).queue c.val ++ [bytes] ∧ Map.get 0 (t.port n).tpLvl c.val = lp - bytes.length * 10 ∧ (Map.get 0 (t.port
    n).tcLvl c.val = if bytes.length * 10 ≤ lc then lc - bytes.length * 10 else lc) ∧ (s.counted t (.port n) 0xC0 (if
    bytes.length * 10 ≤ lc then 0 else 1)) ∧ othersSame {} s.ports t.ports [n.val] ∧ s.changes t [.ports] []
    [(.port n, 0xC0)]) ∧
  (∀ (s : State) (n : PortId) (bytes : List Byte) (lc lp : Nat), s.flag .finj Reg.FINJ_CTRL_ARM = false → (s.port
    n).delayed = [] → s.policer n 7 = (lc, lp) → bytes.length * 10 ≤ lp → completes (.packetEnterPort n 7 bytes)
    s fun t => (t.port n).queue 7 = (s.port n).queue 7 ++ [bytes] ∧ Map.get 0 (t.port n).tpLvl 7 = lp - bytes.length
    * 10 ∧ (Map.get 0 (t.port n).tcLvl 7 = if bytes.length * 10 ≤ lc then lc - bytes.length * 10 else lc) ∧
    (s.counted t (.port n) 0xC0 (if bytes.length * 10 ≤ lc then 0 else 1)) ∧ othersSame {} s.ports t.ports [n.val] ∧
    s.changes t [.ports] [] [(.port n, 0xC0)]) ∧
  (∀ (s : State) (n : PortId) (c : Fin 8) (bytes : List Byte), s.flag .finj Reg.FINJ_CTRL_ARM = false → (s.port
    n).delayed = [] → c ≠ 7 → Map.get [] (s.port n).waiting c.val = [] → (s.policer n c.val).2 < bytes.length * 10 →
    completes (.packetEnterPort n c bytes) s fun t => Map.get [] (t.port n).waiting c.val = [bytes] ∧ (t.port
    n).queues = (s.port n).queues ∧ c.val ∈ (t.port n).redCounted ∧ (s.counted t (.port n) 0xC8 (if c.val ∈ (s.port
    n).redCounted then 0 else 1)) ∧ othersSame {} s.ports t.ports [n.val] ∧ s.changes t [.ports] []
    [(.port n, 0xC8)]) ∧
  (∀ (s : State) (n : PortId) (bytes : List Byte), (s.policer n 7).2 < bytes.length * 10 → completes
    (.packetEnterPort n 7 bytes) s fun t => t.out = s.out ++ [Out.packetDrop n 7] ∧ s.counted t (.port n) 0xD0 ∧
    s.changes t [.out] [] [(.port n, 0xD0)]) ∧
  (∀ (s : State) (n : PortId) (c : Fin 8) (v : Word), s.ready (.port n) = true → bits v.toNat 0 16 ≤ s.fld (.port n)
    Reg.PORT_TC_CIR c.val ∨ s.cirSum n c.val (bits v.toNat 0 16) ≤ 1000 → bits v.toNat 0 16 ≤ bits v.toNat 16 16 →
    completes (.portTcWrite n c 0 v) s fun t => t.fld (.port n) Reg.PORT_TC_CIR c.val = bits v.toNat 0 16 ∧ t.fld
    (.port n) Reg.PORT_TC_PIR c.val = bits v.toNat 16 16 ∧ s.changes t []
    [Reg.PORT_TC_CIR.place (.port n) c.val, Reg.PORT_TC_PIR.place (.port n) c.val] []) ∧
  (∀ (s : State) (n : PortId) (c : Fin 8) (v : Word), s.ready (.port n) = true → s.fld (.port n) Reg.PORT_TC_CIR
    c.val < bits v.toNat 0 16 → 1000 < s.cirSum n c.val (bits v.toNat 0 16) → s.fld (.port n) Reg.PORT_TC_CIR c.val ≤
    bits v.toNat 16 16 → completes (.portTcWrite n c 0 v) s fun t => t.fld (.port n) Reg.PORT_TC_CIR c.val = s.fld
    (.port n) Reg.PORT_TC_CIR c.val ∧ t.fld (.port n) Reg.PORT_TC_PIR c.val = bits v.toNat 16 16 ∧ s.erred t (.port
    n) 0x01 ∧ s.raised t (.port n) 1 ∧ s.changes t [.out, .pcie] (Reg.PORT_TC_PIR.place (.port n) c.val :: errPlaces
    (.port n) ++ irqPlaces (.port n)) (errCounts (Page.port n) ++ irqCounts (Page.port n))) ∧
  (∀ (s : State) (n : PortId) (c : Fin 8) (v : Word), s.ready (.port n) = true → bits v.toNat 0 16 ≤ s.fld (.port n)
    Reg.PORT_TC_CIR c.val → bits v.toNat 16 16 < bits v.toNat 0 16 → completes (.portTcWrite n c 0 v) s fun t =>
    s.erred t (.port n) 0x0E ∧ s.counted t (.port n) 0x68 ∧ s.changes t [] (errPlaces (.port n))
    [(.port n, 0x50), (.port n, 0x68)]) ∧
  (∀ (s : State) (n : PortId) (c : Fin 8) (v : Word), s.ready (.port n) = true → 32 ≤ bits v.toNat 0 16 → 32 ≤ bits
    v.toNat 16 16 → completes (.portTcWrite n c 1 v) s fun t => t.fld (.port n) Reg.PORT_TC_CBS c.val = bits v.toNat
    0 16 ∧ t.fld (.port n) Reg.PORT_TC_PBS c.val = bits v.toNat 16 16 ∧ s.changes t []
    [Reg.PORT_TC_CBS.place (.port n) c.val, Reg.PORT_TC_PBS.place (.port n) c.val] []) ∧
  (∀ (s : State) (n : PortId) (c : Fin 8) (v : Word), s.ready (.port n) = true → 1 ≤ bits v.toNat 0 8 → 32 ≤ bits
    v.toNat 16 16 → completes (.portTcWrite n c 2 v) s fun t => t.fld (.port n) Reg.PORT_TC_WEIGHT c.val = bits
    v.toNat 0 8 ∧ t.fld (.port n) Reg.PORT_TC_BURST c.val = bits v.toNat 16 16 ∧ s.changes t []
    [Reg.PORT_TC_WEIGHT.place (.port n) c.val, Reg.PORT_TC_BURST.place (.port n) c.val] []) ∧
  (∀ (s : State) (n : PortId) (c : Fin 8) (w : Fin 4) (v : Word) (f g : Fld) (lo hi : Nat) (bf bg : Bool), s.ready
    (.port n) = true → w = 1 ∧ f = Reg.PORT_TC_CBS ∧ g = Reg.PORT_TC_PBS ∧ lo = bits v.toNat 0 16 ∧ bf = decide (lo <
    32) ∨ w = 2 ∧ f = Reg.PORT_TC_WEIGHT ∧ g = Reg.PORT_TC_BURST ∧ lo = bits v.toNat 0 8 ∧ bf = decide (lo = 0) → hi
    = bits v.toNat 16 16 → bg = decide (hi < 32) → bf = true ∨ bg = true → completes (.portTcWrite n c w v) s fun t
    => t.fld (.port n) f c.val = (if bf then s.fld (.port n) f c.val else lo) ∧ t.fld (.port n) g c.val = (if bg then
    s.fld (.port n) g c.val else hi) ∧ t.fld (.port n) Reg.PG_ERR_CODE = 0x0E ∧ t.fld (.port n) Reg.PG_ERR_MULTI =
    (s.fld (.port n) Reg.PG_ERR_CODE != 0 || s.flag (.port n) Reg.PG_ERR_MULTI || bf && bg).toNat ∧ s.counted t
    (.port n) 0x50 (bf.toNat + bg.toNat) ∧ s.counted t (.port n) 0x68 (bf.toNat + bg.toNat) ∧ s.changes t []
    ([f.place (.port n) c.val, g.place (.port n) c.val] ++ errPlaces (.port n)) [(.port n, 0x50), (.port n, 0x68)]) ∧
  (∀ (s : State) (v : Word) (mode param m : Nat), s.ready .finj = true → s.locked .finj = false → mode = bits v.toNat
    5 3 → param = bits v.toNat 16 8 → m = (if 5 < mode then s.fld .finj Reg.FINJ_CTRL_MODE else mode) → completes
    (.finjArm v) s fun t => t.fld .finj Reg.FINJ_CTRL_PORT = bits v.toNat 0 5 ∧ t.fld .finj Reg.FINJ_CTRL_MODE = m ∧
    t.fld .finj Reg.FINJ_CTRL_DIR = bits v.toNat 8 1 ∧ (t.fld .finj Reg.FINJ_CTRL_PARAM = if m = 3 ∧ param < 2 ∨ m =
    5 ∧ param = 0 then s.fld .finj Reg.FINJ_CTRL_PARAM else param) ∧ t.fld .finj Reg.FINJ_CTRL_ARM = bits v.toNat 31
    1 ∧ (t.finj = if bit v.toNat 31 then
    { lfsr := BitVec.ofNat 32 (s.fld .finj Reg.FINJ_SEED_SEED), flits := 0, count := 0 } else s.finj) ∧ (s.counted t
    .finj 0x68 ((if 5 < mode then 1 else 0) + if m = 3 ∧ param < 2 ∨ m = 5 ∧ param = 0 then 1 else 0)) ∧ s.changes t
    [.finj]
    ([Reg.FINJ_CTRL_PORT.place .finj, Reg.FINJ_CTRL_MODE.place .finj, Reg.FINJ_CTRL_DIR.place .finj, Reg.FINJ_CTRL_PARAM.place .finj, Reg.FINJ_CTRL_ARM.place .finj]
    ++ errPlaces .finj) [(.finj, 0x50), (.finj, 0x68)]) ∧
  (∀ (s : State) (v : Word), s.ready .finj = true → s.locked .finj = true → completes (.finjArm v) s fun t => s.erred
    t .finj 0x01 ∧ s.changes t [] (errPlaces .finj) (errCounts .finj)) ∧
  (∀ (s : State) (v : Word), s.ready .finj = true → s.locked .finj = false → (5 < bits v.toNat 5 3 ∧ ¬ finjParamBad
    (s.fld .finj Reg.FINJ_CTRL_MODE) (bits v.toNat 16 8) = true ∨ bits v.toNat 5 3 ≤ 5 ∧ finjParamBad (bits v.toNat 5
    3) (bits v.toNat 16 8) = true) → completes (.finjArm v) s fun t => s.erred t .finj 0x0E ∧ s.counted t .finj 0x68
    ∧ t.fld .finj Reg.FINJ_CTRL_PORT = bits v.toNat 0 5 ∧ t.fld .finj Reg.FINJ_CTRL_DIR = bits v.toNat 8 1 ∧ t.fld
    .finj Reg.FINJ_CTRL_ARM = bits v.toNat 31 1)

/-- LINK_TRAINED on an enabled port of a device with a node number takes the link up, with the page ready and the
interrupt raised, when its ordering mode agrees with PORT[0]'s and with the stage count, and otherwise reports
MODE_MISMATCH; LINK_DOWN, and PORT_CTRL.ENABLE cleared, take a link that is up down: the link layer starts again,
the loss is counted, and every engine that had sent on the plane has PATH_LOST; PORT_CTRL.ENABLE set stores it; a
wake from the partner wakes a port asleep. Nothing else changes. On points the spec leaves open it states the
model's choices (notes/assumptions/25). -/
def Obligations.LinksComeUpAndGoDown : Prop :=
  (∀ (s : State) (n : PortId) (lanes : Fin 16) (stages : Fin 4), s.flag (.port n) Reg.PORT_STAT_LINK_UP = false →
    s.flag .dev Reg.DEV_NODE_VALID = true → s.flag (.port n) Reg.PORT_CTRL_ENABLE = true → LpUnit.portOff n ∉
    s.pwr.inMode → ¬ (s.flag (.port n) Reg.PORT_CTRL_ORDER_MODE ≠ s.flag (.port 0) Reg.PORT_CTRL_ORDER_MODE ∨ stages
    = 1 ∧ s.flag (.port n) Reg.PORT_CTRL_ORDER_MODE = true ∨ 2 ≤ stages.val ∧ s.flag (.port n)
    Reg.PORT_CTRL_ORDER_MODE = false) → completes (.linkTrained n lanes stages) s fun t => t.fld (.port n)
    Reg.PORT_STAT_LINK_UP = 1 ∧ t.fld (.port n) Reg.PORT_STAT_LANES_UP = lanes.val ∧ t.fld (.port n)
    Reg.PORT_STAT_STAGES = stages.val ∧ t.fld (.port n) Reg.PORT_STAT_MODE_MISMATCH = 0 ∧ t.ready (.port n) = true ∧
    s.raised t (.port n) 0 ∧ t.out = s.out ++ s.irqOut (.port n) 0 ∧ s.changes t [.out, .pcie]
    ([Reg.PORT_STAT_LINK_UP.place (.port n), Reg.PORT_STAT_LANES_UP.place (.port n), Reg.PORT_STAT_STAGES.place (.port n), Reg.PORT_STAT_MODE_MISMATCH.place (.port n), Reg.PG_READY_READY.place (.port n)]
    ++ irqPlaces (.port n)) (irqCounts (.port n))) ∧
  (∀ (s : State) (n : PortId) (lanes : Fin 16) (stages : Fin 4), s.flag (.port n) Reg.PORT_STAT_LINK_UP = false →
    s.flag .dev Reg.DEV_NODE_VALID = true → s.flag (.port n) Reg.PORT_CTRL_ENABLE = true → LpUnit.portOff n ∉
    s.pwr.inMode → s.flag (.port n) Reg.PORT_CTRL_ORDER_MODE ≠ s.flag (.port 0) Reg.PORT_CTRL_ORDER_MODE ∨ stages = 1
    ∧ s.flag (.port n) Reg.PORT_CTRL_ORDER_MODE = true ∨ 2 ≤ stages.val ∧ s.flag (.port n) Reg.PORT_CTRL_ORDER_MODE =
    false → completes (.linkTrained n lanes stages) s fun t => t.fld (.port n) Reg.PORT_STAT_MODE_MISMATCH = 1 ∧
    t.fld (.port n) Reg.PORT_STAT_STAGES = stages.val ∧ s.erred t (.port n) 0x02 ∧ s.changes t []
    (Reg.PORT_STAT_STAGES.place (.port n) :: Reg.PORT_STAT_MODE_MISMATCH.place (.port n) :: errPlaces (.port n))
    (errCounts (.port n))) ∧
  (∀ (s : State) (n : PortId), s.flag (.port n) Reg.PORT_STAT_LINK_UP = true → completes (.linkDown n) s fun t =>
    t.fld (.port n) Reg.PORT_STAT_LINK_UP = 0 ∧ t.fld (.port n) Reg.PORT_STAT_LANES_UP = 0 ∧ s.counted t (.port n)
    0xB8 ∧ s.raised t (.port n) 0 ∧ ((t.port n).seqNext = 0 ∧ (t.port n).exp = 0 ∧ (t.port n).held = [] ∧ (t.port
    n).credits = [] ∧ (t.port n).mid = []) ∧ othersSame {} s.ports t.ports [n.val] ∧ (∀ e : EngId, bit (s.eng
    e).sentPlanes n.val = true → t.fld (.feng e) Reg.FENG_STAT_PATH_LOST = 1 ∧ s.raised t (.feng e) 0) ∧ (s.changes t
    [.ports, .out, .pcie] ([] ++ ([Reg.PORT_STAT_LINK_UP.place (.port n), Reg.PORT_STAT_LANES_UP.place (.port n)] ++
    irqPlaces (.port n) ++ allEngs.flatMap fun e => Reg.FENG_STAT_PATH_LOST.place (.feng e) :: irqPlaces (.feng e)))
    ((Page.port n, 0xB8) :: irqCounts (Page.port n) ++ allEngs.flatMap fun e => irqCounts (Page.feng e)))) ∧
  (∀ (s : State) (n : PortId), s.flag (.port n) Reg.PORT_STAT_LINK_UP = false → completes (.linkDown n) s fun t => t
    = s) ∧
  (∀ (s : State) (n : PortId), s.ready (.port n) = true → s.flag (.port n) Reg.PORT_STAT_LINK_UP = true → completes
    (.portCtrlEnableWrite n false) s fun t => t.fld (.port n) Reg.PORT_CTRL_ENABLE = 0 ∧ t.fld (.port n)
    Reg.PORT_STAT_LINK_UP = 0 ∧ t.fld (.port n) Reg.PORT_STAT_LANES_UP = 0 ∧ s.counted t (.port n) 0xB8 ∧ s.raised t
    (.port n) 0 ∧ ((t.port n).seqNext = 0 ∧ (t.port n).exp = 0 ∧ (t.port n).held = [] ∧ (t.port n).credits = [] ∧
    (t.port n).mid = []) ∧ othersSame {} s.ports t.ports [n.val] ∧ (∀ e : EngId, bit (s.eng e).sentPlanes n.val =
    true → t.fld (.feng e) Reg.FENG_STAT_PATH_LOST = 1 ∧ s.raised t (.feng e) 0) ∧ (s.changes t [.ports, .out, .pcie]
    ([Reg.PORT_CTRL_ENABLE.place (.port n)] ++
    ([Reg.PORT_STAT_LINK_UP.place (.port n), Reg.PORT_STAT_LANES_UP.place (.port n)] ++ irqPlaces (.port n) ++
    allEngs.flatMap fun e => Reg.FENG_STAT_PATH_LOST.place (.feng e) :: irqPlaces (.feng e))) ((Page.port n, 0xB8) ::
    irqCounts (Page.port n) ++ allEngs.flatMap fun e => irqCounts (Page.feng e)))) ∧
  (∀ (s : State) (n : PortId) (enable : Bool), s.ready (.port n) = true → enable = true ∨ s.flag (.port n)
    Reg.PORT_STAT_LINK_UP = false → completes (.portCtrlEnableWrite n enable) s fun t => t.fld (.port n)
    Reg.PORT_CTRL_ENABLE = enable.toNat ∧ s.changes t [] [Reg.PORT_CTRL_ENABLE.place (.port n)] []) ∧
  (∀ (s : State) (n : PortId), LpUnit.portLp n ∈ s.pwr.inMode → completes (.linkPartnerWake n) s fun t =>
    LpUnit.portLp n ∉ t.pwr.inMode ∧ LpUnit.portLp n ∈ t.pwr.waking ∧ s.counted t .pwr 0xB0 ∧ s.changes t [.pwr] []
    [(.pwr, 0xB0)])

/-- An access within one page, behind no held one it must wait for, counts and is served as Table 06-7 gives. Reads:
RESIDENT returns the stored bytes, UNWRITTEN zeros, POISONED poisoned; a page on its way by a pull or a replacement
and a page behind a held write hold the read; REMOTE starts its pull; a page that holds 64 accesses stalls the next
one. Writes: RESIDENT stores the bytes at their offset; a page on its way holds the write; UNWRITTEN, and POISONED
written whole, take a leaf and a frame and start the zero fill; without them MAP_FULL or NO_FRAME, a partial write
of a POISONED page POISON_WRITE; ZERO_FILL_COMPLETE leaves zeros and the held write. Nothing else changes. On points
the spec leaves open it states the model's choices (notes/assumptions/19). -/
def Obligations.AccessesFollowThePageState : Prop :=
  (∀ (s : State) (src : Accessor) (offset len page : Nat) (home : TierName), 0 < len → offset % 65536 + len ≤ 65536 →
    offset < 2 ^ 47 → page = offset / 65536 → (∀ h ∈ s.heldOn page, h.write = none) → (s.leaf page).st = .resident
    home → completes (.tierRead src offset len) s fun t => t.out = s.out ++
    [Out.accessDone src offset (Map.bytes s.mem offset len)] ∧ t.tier =
    { s.tier with counts := Map.set 0 s.tier.counts page (max 1 (Map.get 0 s.tier.counts page) + 1) } ∧ s.changes t
    [.tier, .out, .pwr] [] [(.tier, 0x90), (.pwr, 0xB0)]) ∧
  (∀ (s : State) (src : Accessor) (offset len page : Nat), 0 < len → offset % 65536 + len ≤ 65536 → offset < 2 ^ 47 →
    page = offset / 65536 → (∀ h ∈ s.heldOn page, h.write = none) → (s.leaf page).st = .unwritten → completes
    (.tierRead src offset len) s fun t => t.out = s.out ++ [Out.accessDone src offset (List.replicate len 0)] ∧
    s.counted t .tier 0x80 ∧ t.tier =
    { s.tier with counts := Map.set 0 s.tier.counts page (max 1 (Map.get 0 s.tier.counts page) + 1) } ∧ s.changes t
    [.tier, .out, .pwr] [] [(.tier, 0x80), (.tier, 0x90), (.pwr, 0xB0)]) ∧
  (∀ (s : State) (src : Accessor) (offset len page : Nat), 0 < len → offset % 65536 + len ≤ 65536 → offset < 2 ^ 47 →
    page = offset / 65536 → (∀ h ∈ s.heldOn page, h.write = none) → (s.leaf page).st = .poisoned → completes
    (.tierRead src offset len) s fun t => t.out = s.out ++
    [Out.accessPoisoned src offset (if src = .host then List.replicate len 0xFF else [])] ∧ s.counted t .tier 0x88 ∧
    t.tier = { s.tier with counts := Map.set 0 s.tier.counts page (max 1 (Map.get 0 s.tier.counts page) + 1) } ∧
    s.changes t [.tier, .out, .pwr] [] [(.tier, 0x88), (.tier, 0x90), (.pwr, 0xB0)]) ∧
  (∀ (s : State) (src : Accessor) (offset len page : Nat), 0 < len → offset % 65536 + len ≤ 65536 → offset < 2 ^ 47 →
    page = offset / 65536 → ((∃ h ∈ s.heldOn page, h.write.isSome = true) ∨ (s.leaf page).st = .inTransit ∧ (s.mig
    page).any (fun m => m.kind = .pull ∨ m.kind = .replace) = true) → (s.heldOn page).length < 64 → completes
    (.tierRead src offset len) s fun t => t.out = s.out ++ [Out.accessHeld src offset] ∧ t.heldOn page = s.heldOn
    page ++ [({ src := src, offset := offset, len := len, write := none, ticket := 0 } : Held)] ∧ t.tier.pages =
    s.tier.pages ∧ ((s.leaf page).st = .inTransit → s.counted t .tier 0xB8) ∧ s.changes t [.tier, .out, .pwr] []
    [(.tier, 0x90), (.pwr, 0xB0), (.tier, 0xB8)]) ∧
  (∀ (s : State) (src : Accessor) (offset len page : Nat) (h : TierName × Nat × Nat), 0 < len → offset % 65536 + len
    ≤ 65536 → offset < 2 ^ 47 → page = offset / 65536 → (∀ h ∈ s.heldOn page, h.write = none) → (s.leaf page).st =
    .remote → s.tier.migs.length < 256 → (s.findHome page (s.pullSide page) = some h) → (s.heldOn page).length < 64 →
    completes (.tierRead src offset len) s fun t => (t.leaf page).st = .inTransit ∧ (∃ m ∈ t.tier.migs, m.page = page
    ∧ m.kind = .pull ∧ m.dstTier = h.1 ∧ m.dstFrame = h.2.1) ∧ Map.get false t.tier.frames (frameKey h.1 h.2.1) =
    true ∧ t.heldOn page = s.heldOn page ++
    [({ src := src, offset := offset, len := len, write := none, ticket := 0 } : Held)] ∧ (t.out.getLast? = some
    (.accessHeld src offset)) ∧ s.changes t [.tier, .out, .pwr, .movers] []
    [(.tier, 0x90), (.pwr, 0xB0), (.tier, 0xB8), (.move (zoneOf page), 0x90)]) ∧
  (∀ (s : State) (src : Accessor) (offset : Nat) (data : List Byte) (page : Nat) (home : TierName), data ≠ [] →
    offset % 65536 + data.length ≤ 65536 → offset < 2 ^ 47 → page = offset / 65536 → s.heldOn page = [] → (s.leaf
    page).st = .resident home → completes (.tierWrite src offset data) s fun t => Map.bytes t.mem offset data.length
    = data ∧ bytesSame s.mem t.mem offset data.length ∧ t.out = s.out ++ [Out.accessDone src offset []] ∧ t.tier =
    { s.tier with counts := Map.set 0 s.tier.counts page (max 1 (Map.get 0 s.tier.counts page) + 1) } ∧ s.changes t
    [.tier, .out, .pwr, .mem, .digs] [] [(.tier, 0x90), (.pwr, 0xB0)]) ∧
  (∀ (s : State) (src : Accessor) (offset : Nat) (data : List Byte) (page : Nat), data ≠ [] → offset % 65536 +
    data.length ≤ 65536 → offset < 2 ^ 47 → page = offset / 65536 → s.heldOn page ≠ [] ∨ (s.leaf page).st =
    .inTransit → (s.heldOn page).length < 64 → completes (.tierWrite src offset data) s fun t => (t.heldOn page =
    s.heldOn page ++
    [({ src := src, offset := offset, len := data.length, write := some data, ticket := 0 } : Held)]) ∧ t.out = s.out
    ++ [Out.accessHeld src offset] ∧ t.tier.pages = s.tier.pages ∧ ((s.leaf page).st = .inTransit → s.counted t .tier
    0xB8) ∧ s.changes t [.tier, .out, .pwr] [] [(.tier, 0x90), (.pwr, 0xB0), (.tier, 0xB8)]) ∧
  (∀ (s : State) (src : Accessor) (offset len : Nat) (data : List Byte) (page : Nat), 0 < len → offset % 65536 + len
    ≤ 65536 → data.length = len → offset < 2 ^ 47 → page = offset / 65536 → (∃ h ∈ s.heldOn page, h.write.isSome =
    true) → 64 ≤ (s.heldOn page).length → completes (.tierRead src offset len) s (fun t => t.out = s.out ++
    [Out.accessStalled src offset] ∧ t.heldOn page = s.heldOn page ∧ t.stalledOn page = s.stalledOn page ++
    [({ src := src, offset := offset, len := len, write := none, ticket := 0 } : Held)] ∧ s.changes t
    [.tier, .out, .pwr] [] [(.tier, 0x90), (.pwr, 0xB0)]) ∧ completes (.tierWrite src offset data) s (fun t => t.out
    = s.out ++ [Out.accessStalled src offset] ∧ t.heldOn page = s.heldOn page ∧ t.stalledOn page = s.stalledOn page
    ++ [({ src := src, offset := offset, len := len, write := some data, ticket := 0 } : Held)] ∧ s.changes t
    [.tier, .out, .pwr] [] [(.tier, 0x90), (.pwr, 0xB0)])) ∧
  (∀ (s : State) (src : Accessor) (offset : Nat) (data : List Byte) (page : Nat) (h : TierName × Nat × Nat), data ≠
    [] → offset % 65536 + data.length ≤ 65536 → offset < 2 ^ 47 → page = offset / 65536 → s.heldOn page = [] →
    (s.leaf page).st = .unwritten ∨ (s.leaf page).st = .poisoned ∧ offset % 65536 = 0 ∧ data.length = 65536 →
    ((((s.note page).needLeaf page).any fun u => decide (u.findHome page false = some h)) = true) → completes
    (.tierWrite src offset data) s fun t => (t.leaf page).st = .resident h.1 ∧ (t.leaf page).frame = h.2.1 ∧ (t.leaf
    page).frameTier = h.1 ∧ page ∈ t.tier.filling ∧ Map.get false t.tier.frames (frameKey h.1 h.2.1) = true ∧
    ((s.leaf page).st = .unwritten → (t.dir page).valid = true) ∧ (t.heldOn page =
    [{ src := src, offset := offset, len := data.length, write := some data, ticket := 0 }]) ∧ t.out = s.out ++
    [Out.accessHeld src offset] ∧ s.counted t .tier 0xC0 ∧ s.changes t [.tier, .out, .pwr] []
    [(.tier, 0x90), (.pwr, 0xB0), (.tier, 0xC0)]) ∧
  (∀ (s : State) (src : Accessor) (offset : Nat) (data : List Byte) (page : Nat), data ≠ [] → offset % 65536 +
    data.length ≤ 65536 → offset < 2 ^ 47 → page = offset / 65536 → s.heldOn page = [] → (s.leaf page).st =
    .unwritten → (s.note page).needLeaf page = none → completes (.tierWrite src offset data) s fun t => s.erred t
    .tier 0x03 ∧ s.counted t .tier 0xC8 ∧ (t.out.getLast? = some (.accessRefused src offset 0x03)) ∧ (src = .host →
    s.raised t .tier 4) ∧ t.tier.pages = s.tier.pages ∧ s.changes t [.tier, .out, .pwr, .pcie] (errPlaces .tier ++
    irqPlaces .tier) [(.tier, 0x90), (.pwr, 0xB0), (.tier, 0xC8), (.tier, 0x50), (.tier, 0x58), (.pcie, 0xB0)]) ∧
  (∀ (s : State) (src : Accessor) (offset : Nat) (data : List Byte) (page : Nat), data ≠ [] → offset % 65536 +
    data.length ≤ 65536 → offset < 2 ^ 47 → page = offset / 65536 → s.heldOn page = [] → (s.leaf page).st =
    .unwritten → ((((s.note page).needLeaf page).any fun u => (u.findHome page false).isNone) = true) → completes
    (.tierWrite src offset data) s fun t => s.erred t .tier 0x02 ∧ s.counted t .tier 0xC8 ∧ (t.out.getLast? = some
    (.accessRefused src offset 0x02)) ∧ (src = .host → s.raised t .tier 4) ∧ t.tier.pages = s.tier.pages ∧ s.changes
    t [.tier, .out, .pwr, .pcie] (errPlaces .tier ++ irqPlaces .tier)
    [(.tier, 0x90), (.pwr, 0xB0), (.tier, 0xC8), (.tier, 0x50), (.tier, 0x58), (.pcie, 0xB0)]) ∧
  (∀ (s : State) (src : Accessor) (offset : Nat) (data : List Byte) (page : Nat), data ≠ [] → offset % 65536 +
    data.length ≤ 65536 → offset < 2 ^ 47 → page = offset / 65536 → s.heldOn page = [] → (s.leaf page).st = .poisoned
    → ¬ (offset % 65536 = 0 ∧ data.length = 65536) → completes (.tierWrite src offset data) s fun t => s.erred t
    .tier 0x04 ∧ s.counted t .tier 0xC8 ∧ (t.out.getLast? = some (.accessRefused src offset 0x04)) ∧ (src = .host →
    s.raised t .tier 4) ∧ t.tier.pages = s.tier.pages ∧ s.changes t [.tier, .out, .pwr, .pcie] (errPlaces .tier ++
    irqPlaces .tier) [(.tier, 0x90), (.pwr, 0xB0), (.tier, 0xC8), (.tier, 0x50), (.tier, 0x58), (.pcie, 0xB0)]) ∧
  (∀ (s : State) (page offset : Nat) (data : List Byte) (src : Accessor) (k : Nat) (home : TierName), page ∈
    s.tier.filling → (s.leaf page).st = .resident home → (s.heldOn page =
    [{ src := src, offset := offset, len := data.length, write := some data, ticket := k }]) → s.stalledOn page = []
    → pageOf offset = page → offset < 2 ^ 47 → offset + data.length ≤ (page + 1) * 65536 → s.tier.cmd = none →
    completes (.zeroFillComplete page) s fun t => page ∉ t.tier.filling ∧ t.heldOn page = [] ∧ Map.bytes t.mem offset
    data.length = data ∧ (∀ x, page * 65536 ≤ x → x < (page + 1) * 65536 → x < offset ∨ offset + data.length ≤ x →
    Map.get 0 t.mem x = 0) ∧ bytesSame s.mem t.mem (page * 65536) 65536 ∧ t.out = s.out ++
    [Out.accessDone src offset []] ∧ t.tier.pages = s.tier.pages ∧ s.changes t [.tier, .out, .pwr, .mem, .digs] []
    [(.tier, 0x90), (.pwr, 0xB0)]) ∧
  (∀ (s : State) (page : Nat), page ∉ s.tier.filling → completes (.zeroFillComplete page) s fun t => t = s)

/-- MIGRATION_START of a RESIDENT page to another tier with a slot, a frame and (where it has a side record) a side
slot makes it IN_TRANSIT and takes them; with every slot busy it waits. MIGRATION_COMMIT of a local move, with
nothing held or waiting, makes the page RESIDENT in its destination and frees the source; of a pull or a replacement
with the whole page placed it stores the placed bytes. MIGRATION_TIMEOUT, with nothing held or waiting, restores the
page's state before, frees the destination and records MIG_TIMEOUT. HW_DEMOTE moves the first page of the order of
Table 06-9 down. TIER_EPOCH_END ages the resident pages and starts new counts, after promoting what R139 promotes.
Nothing else changes. On points the spec leaves open it states the model's choices (notes/assumptions/9, 19). -/
def Obligations.PagesMoveBetweenTiers : Prop :=
  (∀ (s : State) (page : Nat) (dst t0 : TierName) (f n : Nat), (s.leaf page).st = .resident t0 → t0 ≠ dst →
    s.tier.migs.length < 256 → page ∉ s.tier.filling → (s.findFrame dst (zoneOf page) = some f) → ((if (s.leaf
    page).side then s.findSide dst (zoneOf page) else some 0) = some n) → completes (.migrationStart page dst) s fun
    t => t.leaf page = { s.leaf page with st := .inTransit } ∧ t.tier.migs = s.tier.migs ++
    [({ page := page, prev := s.leaf page, kind := .localMove, dstTier := dst, dstFrame := f, dstSide := n, start := s.now, bytes := 65536, staged := [], later := [], sided := (s.leaf page).side } : Mig)]
    ∧ Map.get false t.tier.frames (frameKey dst f) = true ∧ ((s.leaf page).side = true → Map.get false t.tier.sides
    (sideKey dst (zoneOf page) n) = true) ∧ othersSame {} s.tier.pages t.tier.pages [page] ∧ s.changes t [.tier] []
    []) ∧
  (∀ (s : State) (page : Nat) (dst t0 : TierName), (s.leaf page).st = .resident t0 → t0 ≠ dst → 256 ≤
    s.tier.migs.length → page ∉ s.tier.filling → (∀ w ∈ s.tier.waitMigs, w.page ≠ page) → completes (.migrationStart
    page dst) s fun t => t.tier =
    { s.tier with waitMigs := s.tier.waitMigs ++ [{ page := page, dst := dst, hw := 0 }] } ∧ s.changes t [.tier] []
    []) ∧
  (∀ (s : State) (page : Nat) (m : Mig), s.tier.held = [] → s.tier.stalled = [] → s.tier.waitMigs = [] →
    s.tier.demoting = [] → s.tier.cmd = none → m.later = [] → m.owner = none → (s.mig page = some m) → (s.leaf
    page).st = .inTransit → ((∀ x ∈ s.tier.migs, x.page = page → x = m)) → m.kind = .localMove → frameKey
    m.prev.frameTier m.prev.frame ≠ frameKey m.dstTier m.dstFrame → completes (.migrationCommit page) s fun t =>
    t.leaf page =
    { s.leaf page with st := .resident m.dstTier, frame := m.dstFrame, frameTier := m.dstTier, side := m.prev.side, sideSlot := m.dstSide }
    ∧ Map.get false t.tier.frames (frameKey m.prev.frameTier m.prev.frame) = false ∧ (∀ x ∈ t.tier.migs, x.page ≠
    page) ∧ (s.counted t .tier 0x98 (if m.hw = 1 then 1 else 0)) ∧ (s.counted t .tier 0xA0 (if m.hw = 2 then 1 else
    0)) ∧ othersSame {} s.tier.pages t.tier.pages [page] ∧ s.changes t [.tier] [] [(.tier, 0x98), (.tier, 0xA0)]) ∧
  (∀ (s : State) (page : Nat) (m : Mig), s.tier.held = [] → s.tier.stalled = [] → s.tier.waitMigs = [] →
    s.tier.demoting = [] → s.tier.cmd = none → m.later = [] → m.owner = none → (s.mig page = some m) → (s.leaf
    page).st = .inTransit → ((∀ x ∈ s.tier.migs, x.page = page → x = m)) → m.kind = .pull ∨ m.kind = .replace → 65536
    ≤ m.bytes → completes (.migrationCommit page) s fun t => t.leaf page =
    { s.leaf page with st := .resident m.dstTier, frame := m.dstFrame, frameTier := m.dstTier, side := m.sided, sideSlot := m.dstSide }
    ∧ (∀ x ∈ t.tier.migs, x.page ≠ page) ∧ (t.mem = m.staged.foldl (fun mem c => Map.set 0 mem c.1 c.2) (Map.clear
    s.mem (page * 65536) 65536)) ∧ s.changes t [.tier, .mem, .digs] [] []) ∧
  (∀ (s : State) (page : Nat) (m : Mig), s.tier.held = [] → s.tier.stalled = [] → s.tier.waitMigs = [] →
    s.tier.demoting = [] → s.tier.cmd = none → m.later = [] → m.owner = none → (s.mig page = some m) → (s.leaf
    page).st = .inTransit → ((∀ x ∈ s.tier.migs, x.page = page → x = m)) → m.start + s.fld .tier
    Reg.TIER_HOLD_TIMEOUT_US * 1000 ≤ s.now → m.kind = .localMove → m.sided = false → (s.dir page).valid = true →
    m.prev.st ≠ .unwritten → completes (.migrationTimeout page) s fun t => t.leaf page =
    { m.prev with pin := (s.leaf page).pin, hint := (s.leaf page).hint } ∧ Map.get false t.tier.frames (frameKey
    m.dstTier m.dstFrame) = false ∧ (∀ x ∈ t.tier.migs, x.page ≠ page) ∧ s.erred t .tier 0x06 ∧ s.counted t .tier
    0xB0 ∧ othersSame {} s.tier.pages t.tier.pages [page] ∧ s.changes t [.tier] (errPlaces .tier)
    [(.tier, 0xB0), (.tier, 0x50)]) ∧
  (∀ (s : State) (page : Nat) (m : Mig), (s.mig page = some m) → s.now < m.start + s.fld .tier
    Reg.TIER_HOLD_TIMEOUT_US * 1000 → completes (.migrationTimeout page) s fun t => t = s) ∧
  (∀ (s : State) (z : PartId) (d : TierName) (p : Nat) (ps : List Nat) (u : State), s.flag .tier
    Reg.TIER_POLICY_HW_EN = true → d ≠ .deep → s.zoneHigh z d < s.zoneUse z d → s.zoneLow z d < s.zoneUse z d →
    s.tier.migs.length < 256 → s.demotable z d = p :: ps → s.startMove p (tierOf (tierIdx d + 1)) = (true, u) →
    u.zoneUse z d ≤ u.zoneLow z d → completes (.hwDemote z d) s fun t => (t.tier =
    { u.tier with migs := u.tier.migs.map fun m => if m.page = p then { m with hw := 2 } else m, demoting := s.tier.demoting.filter (· ≠ demoteMark z d) })
    ∧ (t.leaf p).st = .inTransit ∧ s.changes t [.tier] [] []) ∧
  (∀ (s : State) (z : PartId) (d : TierName), s.flag .tier Reg.TIER_POLICY_HW_EN = false ∨ s.zoneUse z d ≤ s.zoneHigh
    z d → completes (.hwDemote z d) s fun t => t = s) ∧
  (∀ (s : State), s.flag .tier Reg.TIER_POLICY_HW_EN = false → completes (.tierEpochEnd) s fun t => (t.tier =
    { s.tier with pages := (s.tier.pages.map fun e => match e.2.st with | .resident _ => (e.1, { e.2 with age := if Map.get 0 s.tier.counts e.1 > 1 then 0 else min 3 (e.2.age + 1) }) | _ => e), counts := s.tier.counts.map fun e => (e.1, 1) })
    ∧ s.changes t [.tier] [] []) ∧
  (∀ (s : State) (page n : Nat) (d : TierName) (f : Nat), s.flag .tier Reg.TIER_POLICY_HW_EN = true → s.tier.counts =
    [(page, n + 1)] → (s.leaf page).st = .resident .basin ∧ d = .shallows ∨ (s.leaf page).st = .resident .deep ∧ d =
    .basin → (s.leaf page).pin = 0 → (s.leaf page).hint = 0 → (s.leaf page).side = false → s.fld .tier
    Reg.TIER_POLICY_PROMO_COUNT ≤ n → s.zoneUse (zoneOf page) d < s.zoneHigh (zoneOf page) d → s.tier.migs.length <
    256 → page ∉ s.tier.filling → (s.findFrame d (zoneOf page) = some f) → completes (.tierEpochEnd) s fun t =>
    (t.leaf page).st = .inTransit ∧ (∃ m ∈ t.tier.migs, m.page = page ∧ m.dstTier = d ∧ m.dstFrame = f ∧ m.hw = 1) ∧
    t.tier.counts = [(page, 1)] ∧ s.changes t [.tier] [] [])

/-- On a ready TIER page with no command running, TIER_CMD_PIN, UNPIN, HINT, MOVE and FREE take OP and ARG, set BUSY
and apply the operation of R141 to the pages from the address on: UNPIN clears the pin and HINT sets the hint of
every page of the range that is not IN_TRANSIT; PIN of one page already in its tier sets its pin; MOVE of one page
to another tier starts its move; FREE of one page leaves it UNWRITTEN, reading as zeros. A command while one runs
records CMD_BUSY. TIER_CMD_DONE ends a command that is through with RESULT, DONE and the interrupt. Nothing else
changes. On points the spec leaves open it states the model's choices (notes/assumptions/19). -/
def Obligations.TierCommandsRun : Prop :=
  (∀ (s : State) (first n : Nat), s.ready .tier = true → s.fld .tier Reg.TIER_CMD_BUSY = 0 → first = s.fldAddr .tier
    Reg.TIER_CMD_ADDR_LO_ADDR_LO Reg.TIER_CMD_ADDR_HI_ADDR_HI / 65536 → n = s.fld .tier Reg.TIER_CMD_COUNT_COUNT → (∀
    i, i < n → (s.leaf ((first + i) % 2 ^ 31)).st ≠ .inTransit) → completes (.tierCmdUnpin) s fun t => t.fld .tier
    Reg.TIER_CMD_BUSY = 1 ∧ t.fld .tier Reg.TIER_CMD_OP = 1 ∧ (t.tier.cmd = some
    { op := 1, arg := s.fld .tier Reg.TIER_CMD_ARG, first := first, count := n, done := n, result := 0 }) ∧ (∀ i, i <
    n → t.leaf ((first + i) % 2 ^ 31) = { s.leaf ((first + i) % 2 ^ 31) with pin := 0 }) ∧ s.changes t [.tier]
    [Reg.TIER_CMD_OP.place .tier, Reg.TIER_CMD_ARG.place .tier, Reg.TIER_CMD_BUSY.place .tier] []) ∧
  (∀ (s : State) (arg : Fin 4) (first n : Nat), s.ready .tier = true → s.fld .tier Reg.TIER_CMD_BUSY = 0 → first =
    s.fldAddr .tier Reg.TIER_CMD_ADDR_LO_ADDR_LO Reg.TIER_CMD_ADDR_HI_ADDR_HI / 65536 → n = s.fld .tier
    Reg.TIER_CMD_COUNT_COUNT → (∀ i, i < n → (s.leaf ((first + i) % 2 ^ 31)).st ≠ .inTransit) → completes
    (.tierCmdHint arg) s fun t => t.fld .tier Reg.TIER_CMD_BUSY = 1 ∧ t.fld .tier Reg.TIER_CMD_OP = 2 ∧ (t.tier.cmd =
    some { op := 2, arg := arg.val, first := first, count := n, done := n, result := 0 }) ∧ (∀ i, i < n → t.leaf
    ((first + i) % 2 ^ 31) = { s.leaf ((first + i) % 2 ^ 31) with hint := arg }) ∧ s.changes t [.tier]
    [Reg.TIER_CMD_OP.place .tier, Reg.TIER_CMD_ARG.place .tier, Reg.TIER_CMD_BUSY.place .tier] []) ∧
  (∀ (s : State) (arg : Fin 4) (first n : Nat), s.ready .tier = true → s.fld .tier Reg.TIER_CMD_BUSY = 0 → first =
    s.fldAddr .tier Reg.TIER_CMD_ADDR_LO_ADDR_LO Reg.TIER_CMD_ADDR_HI_ADDR_HI / 65536 → n = s.fld .tier
    Reg.TIER_CMD_COUNT_COUNT → arg ≠ 0 → n = 1 → first < 2 ^ 31 → (s.leaf first).st = .resident (tierOf (arg.val -
    1)) ∨ (s.leaf first).st = .unwritten ∨ (s.leaf first).st = .poisoned ∨ (s.leaf first).st = .remote → completes
    (.tierCmdPin arg) s fun t => t.fld .tier Reg.TIER_CMD_BUSY = 1 ∧ t.fld .tier Reg.TIER_CMD_OP = 0 ∧ (t.tier.cmd =
    some { op := 0, arg := arg.val, first := first, count := n, done := n, result := 0 }) ∧ t.leaf first =
    { s.leaf first with pin := arg } ∧ othersSame {} s.tier.pages t.tier.pages [first] ∧ s.changes t [.tier]
    [Reg.TIER_CMD_OP.place .tier, Reg.TIER_CMD_ARG.place .tier, Reg.TIER_CMD_BUSY.place .tier] []) ∧
  (∀ (s : State) (arg : Fin 4) (first n : Nat) (t0 : TierName) (f : Nat), s.ready .tier = true → s.fld .tier
    Reg.TIER_CMD_BUSY = 0 → first = s.fldAddr .tier Reg.TIER_CMD_ADDR_LO_ADDR_LO Reg.TIER_CMD_ADDR_HI_ADDR_HI / 65536
    → n = s.fld .tier Reg.TIER_CMD_COUNT_COUNT → arg ≠ 0 → n = 1 → first < 2 ^ 31 → (s.leaf first).st = .resident t0
    → t0 ≠ tierOf (arg.val - 1) → (s.leaf first).side = false → s.tier.migs.length < 256 → first ∉ s.tier.filling →
    (s.findFrame (tierOf (arg.val - 1)) (zoneOf first) = some f) → completes (.tierCmdMove arg) s fun t => t.fld
    .tier Reg.TIER_CMD_BUSY = 1 ∧ t.fld .tier Reg.TIER_CMD_OP = 3 ∧ (t.tier.cmd = some
    { op := 3, arg := arg.val, first := first, count := n, done := n, result := 0 }) ∧ t.leaf first =
    { s.leaf first with st := .inTransit } ∧ (∃ m ∈ t.tier.migs, m.page = first ∧ m.kind = .localMove ∧ m.dstTier =
    tierOf (arg.val - 1) ∧ m.dstFrame = f) ∧ s.changes t [.tier]
    [Reg.TIER_CMD_OP.place .tier, Reg.TIER_CMD_ARG.place .tier, Reg.TIER_CMD_BUSY.place .tier] []) ∧
  (∀ (s : State) (first n : Nat), s.ready .tier = true → s.fld .tier Reg.TIER_CMD_BUSY = 0 → first = s.fldAddr .tier
    Reg.TIER_CMD_ADDR_LO_ADDR_LO Reg.TIER_CMD_ADDR_HI_ADDR_HI / 65536 → n = s.fld .tier Reg.TIER_CMD_COUNT_COUNT → n
    = 1 → first < 2 ^ 31 → (s.leaf first).st ≠ .inTransit → (s.leaf first).st ≠ .remote → completes (.tierCmdFree)
    s fun t => t.fld .tier Reg.TIER_CMD_BUSY = 1 ∧ t.fld .tier Reg.TIER_CMD_OP = 4 ∧ (t.tier.cmd = some
    { op := 4, arg := s.fld .tier Reg.TIER_CMD_ARG, first := first, count := n, done := n, result := 0 }) ∧ t.leaf
    first = { pin := (s.leaf first).pin, hint := (s.leaf first).hint } ∧ t.mem = Map.clear s.mem (first * 65536)
    65536 ∧ s.changes t [.tier, .mem]
    [Reg.TIER_CMD_OP.place .tier, Reg.TIER_CMD_ARG.place .tier, Reg.TIER_CMD_BUSY.place .tier] []) ∧
  (∀ (s : State) (a : Fin 4), s.ready .tier = true → s.fld .tier Reg.TIER_CMD_BUSY = 1 → ∃ t, exec (.tierCmdPin a) s
    = .next t ∧ exec .tierCmdUnpin s = .next t ∧ exec (.tierCmdHint a) s = .next t ∧ exec (.tierCmdMove a) s = .next
    t ∧ exec .tierCmdFree s = .next t ∧ s.erred t .tier 0x05 ∧ s.changes t [] (errPlaces .tier) (errCounts .tier)) ∧
  (∀ (s : State) (c : TierCmd), (s.tier.cmd = some c) → c.result ≠ 3 → completes (.tierCmdDone) s fun t => t.tier =
    { s.tier with cmd := none } ∧ t.fld .tier Reg.TIER_CMD_BUSY = 0 ∧ t.fld .tier Reg.TIER_CMD_RESULT = c.result % 4
    ∧ t.fld .tier Reg.TIER_CMD_DONE_DONE = c.done % 2 ^ 24 ∧ s.raised t .tier 0 ∧ t.out = s.out ++ s.irqOut .tier 0 ∧
    s.changes t [.tier, .out, .pcie]
    ([Reg.TIER_CMD_BUSY.place .tier, Reg.TIER_CMD_RESULT.place .tier, Reg.TIER_CMD_DONE_DONE.place .tier] ++
    irqPlaces .tier) (irqCounts .tier))

/-- TIER_ZONE_WRITE stores a commit that fits its tier's capacity or falls, and refuses another with COMMIT_REFUSED
and the interrupt; it stores FIRST_TIER and a pair of watermarks whose LOW is not above HIGH. TIER_LAYOUT_WRITE
stores the side and map layout while the tiers hold nothing, and otherwise records LAYOUT_FIXED, or WR_LOCKED on a
locked page. TIER_CAPACITY_DROP lowers a capacity, and the tier reads OVER when its commits exceed it.
MEM_UNCORRECTABLE_ERROR leaves a RESIDENT page POISONED and its frame retired, with the failing frame named and an
error record. BLOCK_TRAINING_DONE makes a page ready with its trained memory and counts its tier's capacity again,
or FAILED with a record; PATROL_PASS_DONE counts the pass and the errors it corrected. Nothing else changes. On
points the spec leaves open it states the model's choices (notes/assumptions/13, 54). -/
def Obligations.TierLayoutAndZones : Prop :=
  (∀ (s : State) (z : PartId) (v : Word), s.ready .tier = true → bits v.toNat 0 16 ≤ s.fld .tier (commitFld
    .shallows).1 z.val ∨ s.commitSum .shallows - s.fld .tier (commitFld .shallows).1 z.val + bits v.toNat 0 16 ≤
    s.fld .tier (commitFld .shallows).2 → bits v.toNat 16 16 ≤ s.fld .tier (commitFld .basin).1 z.val ∨ s.commitSum
    .basin - s.fld .tier (commitFld .basin).1 z.val + bits v.toNat 16 16 ≤ s.fld .tier (commitFld .basin).2 → s.fld
    .tier Reg.TIER_STAT_OVER = 0 → completes (.tierZoneWrite z 0 v) s fun t => t.fld .tier Reg.TIER_ZONE_COMMIT_SHL
    z.val = bits v.toNat 0 16 ∧ t.fld .tier Reg.TIER_ZONE_COMMIT_BAS z.val = bits v.toNat 16 16 ∧ s.changes t []
    [Reg.TIER_ZONE_COMMIT_SHL.place .tier z.val, Reg.TIER_ZONE_COMMIT_BAS.place .tier z.val] []) ∧
  (∀ (s : State) (z : PartId) (v : Word), s.ready .tier = true → ¬ (bits v.toNat 0 16 ≤ s.fld .tier (commitFld
    .shallows).1 z.val ∨ s.commitSum .shallows - s.fld .tier (commitFld .shallows).1 z.val + bits v.toNat 0 16 ≤
    s.fld .tier (commitFld .shallows).2) → bits v.toNat 16 16 ≤ s.fld .tier (commitFld .basin).1 z.val ∨ s.commitSum
    .basin - s.fld .tier (commitFld .basin).1 z.val + bits v.toNat 16 16 ≤ s.fld .tier (commitFld .basin).2 → s.fld
    .tier Reg.TIER_STAT_OVER = 0 → completes (.tierZoneWrite z 0 v) s fun t => t.fld .tier Reg.TIER_ZONE_COMMIT_SHL
    z.val = s.fld .tier Reg.TIER_ZONE_COMMIT_SHL z.val ∧ t.fld .tier Reg.TIER_ZONE_COMMIT_BAS z.val = bits v.toNat 16
    16 ∧ s.erred t .tier 0x01 ∧ s.raised t .tier 1 ∧ s.changes t [.out, .pcie] (Reg.TIER_ZONE_COMMIT_BAS.place .tier
    z.val :: errPlaces .tier ++ irqPlaces .tier) (errCounts .tier ++ irqCounts .tier)) ∧
  (∀ (s : State) (z : PartId) (v : Word), s.ready .tier = true → bits v.toNat 0 16 ≤ s.fld .tier (commitFld .deep).1
    z.val ∨ s.commitSum .deep - s.fld .tier (commitFld .deep).1 z.val + bits v.toNat 0 16 ≤ s.fld .tier (commitFld
    .deep).2 → bits v.toNat 16 2 ≤ 2 → s.fld .tier Reg.TIER_STAT_OVER = 0 → completes (.tierZoneWrite z 1 v) s fun t
    => t.fld .tier Reg.TIER_ZONE_COMMIT_DEEP z.val = bits v.toNat 0 16 ∧ t.fld .tier Reg.TIER_ZONE_FIRST_TIER z.val =
    bits v.toNat 16 2 ∧ s.changes t []
    [Reg.TIER_ZONE_COMMIT_DEEP.place .tier z.val, Reg.TIER_ZONE_FIRST_TIER.place .tier z.val] []) ∧
  (∀ (s : State) (z : PartId) (v : Word), s.ready .tier = true → bits v.toNat 16 12 ≤ bits v.toNat 0 12 → completes
    (.tierZoneWrite z 2 v) s fun t => t.fld .tier Reg.TIER_ZONE_SHL_HIGH z.val = bits v.toNat 0 12 ∧ t.fld .tier
    Reg.TIER_ZONE_SHL_LOW z.val = bits v.toNat 16 12 ∧ s.changes t []
    [Reg.TIER_ZONE_SHL_HIGH.place .tier z.val, Reg.TIER_ZONE_SHL_LOW.place .tier z.val] []) ∧
  (∀ (s : State) (z : PartId) (v : Word), s.ready .tier = true → bits v.toNat 16 13 ≤ bits v.toNat 0 13 → completes
    (.tierZoneWrite z 3 v) s fun t => t.fld .tier Reg.TIER_ZONE_BAS_HIGH z.val = bits v.toNat 0 13 ∧ t.fld .tier
    Reg.TIER_ZONE_BAS_LOW z.val = bits v.toNat 16 13 ∧ s.changes t []
    [Reg.TIER_ZONE_BAS_HIGH.place .tier z.val, Reg.TIER_ZONE_BAS_LOW.place .tier z.val] []) ∧
  (∀ (s : State) (z : PartId) (w : Fin 4) (v : Word), s.ready .tier = true → w = 2 ∧ bits v.toNat 0 12 < bits v.toNat
    16 12 ∨ w = 3 ∧ bits v.toNat 0 13 < bits v.toNat 16 13 → completes (.tierZoneWrite z w v) s fun t => s.erred t
    .tier 0x0E ∧ s.counted t .tier 0x68 ∧ s.changes t [] (errPlaces .tier) [(.tier, 0x50), (.tier, 0x68)]) ∧
  (∀ (s : State) (v : Word), s.ready .tier = true → s.locked .tier = false → s.tierUsed = false → completes
    (.tierLayoutWrite true v) s fun t => t.fld .tier Reg.TIER_SIDE_CFG_BAS_SIDE = bits v.toNat 0 16 ∧ t.fld .tier
    Reg.TIER_SIDE_CFG_DEEP_SIDE = bits v.toNat 16 16 ∧ s.changes t []
    [Reg.TIER_SIDE_CFG_BAS_SIDE.place .tier, Reg.TIER_SIDE_CFG_DEEP_SIDE.place .tier] []) ∧
  (∀ (s : State) (v : Word), s.ready .tier = true → s.locked .tier = false → s.tierUsed = false → bits v.toNat 0 8 %
    2 = 1 → 3 ≤ bits v.toNat 0 8 → completes (.tierLayoutWrite false v) s fun t => t.fld .tier
    Reg.TIER_MAP_CFG_MAP_FRAMES = bits v.toNat 0 8 ∧ t.fld .tier Reg.TIER_MAP_CFG_SHL_SIDE_FRAMES = bits v.toNat 8 8
    ∧ s.changes t [] [Reg.TIER_MAP_CFG_MAP_FRAMES.place .tier, Reg.TIER_MAP_CFG_SHL_SIDE_FRAMES.place .tier] []) ∧
  (∀ (s : State) (side : Bool) (v : Word), s.ready .tier = true → s.locked .tier = true ∨ s.tierUsed = true →
    completes (.tierLayoutWrite side v) s fun t => (s.erred t .tier (if s.locked .tier then 0xF0 else 0x07)) ∧
    s.changes t [] (errPlaces .tier) (errCounts .tier)) ∧
  (∀ (s : State) (d : TierName) (cap : Nat), cap < s.fld .tier (commitFld d).2 → completes (.tierCapacityDrop d cap)
    s fun t => t.fld .tier (commitFld d).2 = cap ∧ bit (t.fld .tier Reg.TIER_STAT_OVER) (tierIdx d) = decide (cap <
    s.commitSum d) ∧ (cap < s.commitSum d → bit (s.fld .tier Reg.TIER_STAT_OVER) (tierIdx d) = false → s.raised t
    .tier 2) ∧ Map.get 0 t.tier.capLost (tierIdx d) = s.upperCap d - cap ∧ s.changes t [.out, .pcie, .tier]
    ((commitFld d).2.place .tier :: Reg.TIER_STAT_OVER.place .tier :: irqPlaces .tier) (irqCounts .tier)) ∧
  (∀ (s : State) (page : Nat) (d : TierName) (pg : Page), (s.leaf page).st = .resident d → page ∉ s.tier.filling → pg
    = instOf (s.leaf page).frameTier (s.leaf page).frame → completes (.memUncorrectableError page) s fun t => (t.leaf
    page).st = .poisoned ∧ Map.get false t.tier.retired (frameKey (s.leaf page).frameTier (s.leaf page).frame) = true
    ∧ t.fld pg (memErrFrame pg) = (s.leaf page).frame % 2 ^ (memErrFrame pg).width ∧ t.fld pg (memDegraded pg) = 1 ∧
    s.counted t pg 0x88 ∧ s.counted t pg 0x90 ∧ s.raised t .tier 3 ∧ s.recorded t pg
    { severity := 2, syn := List.flatten [[0x06, 0, 0, 0], bytesOfNat 4 (s.leaf page).frame, bytesOfNat 8 (page * 65536), s.freeBytes 2] }
    ∧ s.changesOn t recordComps (pg :: recordPages)) ∧
  (∀ (s : State) (i : Fin 8) (dimms rate frames : Nat), s.ready ((.bas i)) = false → s.fld .wlh Reg.WLH_STAT_RECOVERY
    = 0 → completes (.blockTrainingDone (.bas i) true dimms rate frames) s fun t => t.ready ((.bas i)) = true ∧ t.fld
    ((.bas i)) Reg.PG_READY_FAILED = 0 ∧ t.fld (.bas i) Reg.BAS_MEM_STAT_ONLINE = 1 ∧ t.fld (.bas i)
    Reg.BAS_MEM_FRAMES_FRAMES = 786432 ∧ t.fld .tier Reg.TIER_CAP0_BAS_CAP = t.upperCap .basin - Map.get 0
    s.tier.capLost (tierIdx .basin) ∧ s.changes t [.out, .pcie]
    ([Reg.PG_READY_READY.place ((.bas i)), Reg.PG_READY_FAILED.place ((.bas i)), Reg.BAS_MEM_STAT_ONLINE.place (.bas i), Reg.BAS_MEM_FRAMES_FRAMES.place (.bas i)]
    ++ [Reg.TIER_CAP0_BAS_CAP.place .tier, Reg.TIER_STAT_OVER.place .tier] ++ irqPlaces .tier) (irqCounts .tier)) ∧
  (∀ (s : State) (i : Fin 4) (dimms rate frames : Nat), s.ready ((.shl i)) = false → s.fld .wlh Reg.WLH_STAT_RECOVERY
    = 0 → completes (.blockTrainingDone (.shl i) true dimms rate frames) s fun t => t.ready ((.shl i)) = true ∧ t.fld
    ((.shl i)) Reg.PG_READY_FAILED = 0 ∧ t.fld (.shl i) Reg.SHL_MEM_STAT_ONLINE = 1 ∧ t.fld (.shl i)
    Reg.SHL_MEM_FRAMES_FRAMES = 32768 ∧ t.fld .tier Reg.TIER_CAP0_SHL_CAP = t.upperCap .shallows - Map.get 0
    s.tier.capLost (tierIdx .shallows) ∧ s.changes t [.out, .pcie]
    ([Reg.PG_READY_READY.place ((.shl i)), Reg.PG_READY_FAILED.place ((.shl i)), Reg.SHL_MEM_STAT_ONLINE.place (.shl i), Reg.SHL_MEM_FRAMES_FRAMES.place (.shl i)]
    ++ [Reg.TIER_CAP0_SHL_CAP.place .tier, Reg.TIER_STAT_OVER.place .tier] ++ irqPlaces .tier) (irqCounts .tier)) ∧
  (∀ (s : State) (i : Fin 16) (dimms rate frames : Nat), s.ready ((.deep i)) = false → s.fld .wlh
    Reg.WLH_STAT_RECOVERY = 0 → dimms < 4 → rate < 2 ^ Reg.DEEP_MEM_STAT_RATE.width → completes (.blockTrainingDone
    (.deep i) true dimms rate frames) s fun t => t.ready ((.deep i)) = true ∧ t.fld ((.deep i)) Reg.PG_READY_FAILED =
    0 ∧ t.fld (.deep i) Reg.DEEP_MEM_STAT_ONLINE = 1 ∧ t.fld (.deep i) Reg.DEEP_MEM_FRAMES_FRAMES = min frames
    2097152 ∧ t.fld (.deep i) Reg.DEEP_MEM_STAT_DIMMS = dimms ∧ t.fld (.deep i) Reg.DEEP_MEM_STAT_RATE = rate ∧ t.fld
    .tier Reg.TIER_CAP1_DEEP_CAP = t.upperCap .deep - Map.get 0 s.tier.capLost (tierIdx .deep) ∧ s.changes t
    [.out, .pcie]
    ([Reg.PG_READY_READY.place ((.deep i)), Reg.PG_READY_FAILED.place ((.deep i)), Reg.DEEP_MEM_STAT_ONLINE.place (.deep i), Reg.DEEP_MEM_FRAMES_FRAMES.place (.deep i), Reg.DEEP_MEM_STAT_DIMMS.place (.deep i), Reg.DEEP_MEM_STAT_RATE.place (.deep i), Reg.TIER_CAP1_DEEP_CAP.place .tier, Reg.TIER_STAT_OVER.place .tier]
    ++ irqPlaces .tier) (irqCounts .tier)) ∧
  (∀ (s : State) (pg : Page) (dimms rate frames : Nat), s.ready pg = false → s.fld .wlh Reg.WLH_STAT_RECOVERY = 0 →
    pg.kind ≠ .tile → pg.kind ≠ .disp → pg.kind ≠ .wlh → pg.kind ≠ .bas → pg.kind ≠ .shl → pg.kind ≠ .deep → (pg =
    .tier → ∃ d : Fin 4, s.ready (.shl d) = true) → completes (.blockTrainingDone pg true dimms rate frames) s fun t
    => t.ready pg = true ∧ t.fld pg Reg.PG_READY_FAILED = 0 ∧ s.changes t []
    [Reg.PG_READY_READY.place pg, Reg.PG_READY_FAILED.place pg] []) ∧
  (∀ (s : State) (pg : Page) (dimms rate frames : Nat), s.ready pg = false → s.fld .wlh Reg.WLH_STAT_RECOVERY = 0 →
    pg.kind ≠ .tile → pg.kind ≠ .disp → pg.kind ≠ .wlh → completes (.blockTrainingDone pg false dimms rate frames)
    s fun t => t.fld pg Reg.PG_READY_FAILED = 1 ∧ s.recorded t pg { severity := 1 } ∧ s.changesOn t recordComps (pg
    :: recordPages)) ∧
  (∀ (s : State) (r : PatrolRun), r.pg.kind = .bas ∨ r.pg.kind = .shl ∨ r.pg.kind = .deep → completes
    (.patrolPassDone r) s fun t => s.counted t r.pg 0x98 ∧ s.counted t r.pg 0x80 r.corrected ∧ s.changes t [] []
    [(r.pg, 0x80), (r.pg, 0x98)])

/-- A LOAD, STORE or atomic that names this device and passes the checks of R157, on a RESIDENT page with nothing
held and outside every pooled region, is served at once: a LOAD returns its bytes, or the whole 256-byte line,
entered in the reader directory, when it may be cached; a STORE writes its bytes and is acknowledged when it asks
for placement; FADD64 adds, SWAP64 exchanges, CAS64 and CAS128 exchange on equality, FOR64 ORs, each returning the
old value. The answer to another device leaves on the request's plane and class; a request of this device takes a
slot, completes at its issuer and frees the slot, a plain STORE as soon as the tier controller accepts or holds it.
A request that fails a check is answered NAK with the check's code and has no effect. Nothing else changes. On
points the spec leaves open it states the model's choices (notes/assumptions/22, 23). -/
def Obligations.HomesServeMemoryRequests : Prop :=
  (∀ (s : State) (r : MemReq) (page : Nat) (home : TierName), r.node = s.node → r.srcNode ≠ s.node → s.checkReq 0x01
    r = none → page = pageOf r.offset → (s.leaf page).st = .resident home → (∀ h ∈ s.heldOn page, h.write = none) →
    r.cacheable = false ∨ (s.rgnOf r.part r.key).cacheOk = false → completes (.load r) s fun t => t.out = s.out ++
    [replyTo 0x81 r 0 true (Map.bytes s.mem r.offset (8 * (r.len8 + 1)))] ∧ t.tier.pages = s.tier.pages ∧
    t.tier.readers = s.tier.readers ∧ s.changes t [.tier, .out, .pwr] [] [(.tier, 0x90), (.pwr, 0xB0)]) ∧
  (∀ (s : State) (r : MemReq) (page : Nat) (home : TierName), r.node = s.node → r.srcNode ≠ s.node → s.checkReq 0x01
    r = none → page = pageOf r.offset → (s.leaf page).st = .resident home → (∀ h ∈ s.heldOn page, h.write = none) →
    r.cacheable = true → (s.rgnOf r.part r.key).cacheOk = true → ((s.note page).admitReader r).1 = false → completes
    (.load r) s fun t => t.out = s.out ++ [replyTo 0x81 r 0 false (Map.bytes s.mem (r.offset / 256 * 256) 256)] ∧
    t.tier.pages = s.tier.pages ∧ (∃ e ∈ t.tier.readers, e.page = page ∧ (r.srcNode ∈ e.nodes ∨ e.bcast = true)) ∧
    s.changes t [.tier, .out, .pwr] [] [(.tier, 0x90), (.pwr, 0xB0)]) ∧
  (∀ (s : State) (r : MemReq) (page : Nat) (home : TierName), r.node = s.node → r.srcNode ≠ s.node → s.checkReq 0x02
    r = none → page = pageOf r.offset → (s.leaf page).st = .resident home → s.heldOn page = [] → s.poolAt r.offset =
    none → completes (.store r) s fun t => Map.bytes t.mem r.offset r.data.length = r.data ∧ bytesSame s.mem t.mem
    r.offset r.data.length ∧ (t.out = s.out ++ if r.placeAck = true then [replyTo 0x82 r 0 false []] else []) ∧
    t.tier.pages = s.tier.pages ∧ s.changes t [.tier, .out, .pwr, .mem, .digs] [] [(.tier, 0x90), (.pwr, 0xB0)]) ∧
  (∀ (s : State) (r : MemReq) (page : Nat) (home : TierName) (old x : Nat), r.node = s.node → r.srcNode ≠ s.node →
    s.checkReq 0x10 r = none → page = pageOf r.offset → (s.leaf page).st = .resident home → s.heldOn page = [] →
    s.poolAt r.offset = none → old = natOfBytes (Map.bytes s.mem r.offset 8) → x = natOfBytes r.data → completes
    (.fadd64 r) s fun t => natOfBytes (Map.bytes t.mem r.offset 8) = (old + x) % 2 ^ 64 ∧ bytesSame s.mem t.mem
    r.offset 8 ∧ t.out = s.out ++ [replyTo 0x90 r 0 false (Map.bytes s.mem r.offset 8)] ∧ t.tier.pages = s.tier.pages
    ∧ s.changes t [.tier, .out, .pwr, .mem, .digs] [] [(.tier, 0x90), (.pwr, 0xB0)]) ∧
  (∀ (s : State) (r : MemReq) (page : Nat) (home : TierName) (old x : Nat), r.node = s.node → r.srcNode ≠ s.node →
    s.checkReq 0x11 r = none → page = pageOf r.offset → (s.leaf page).st = .resident home → s.heldOn page = [] →
    s.poolAt r.offset = none → old = natOfBytes (Map.bytes s.mem r.offset 8) → x = natOfBytes r.data → completes
    (.swap64 r) s fun t => natOfBytes (Map.bytes t.mem r.offset 8) = x ∧ bytesSame s.mem t.mem r.offset 8 ∧ t.out =
    s.out ++ [replyTo 0x90 r 0 false (Map.bytes s.mem r.offset 8)] ∧ t.tier.pages = s.tier.pages ∧ s.changes t
    [.tier, .out, .pwr, .mem, .digs] [] [(.tier, 0x90), (.pwr, 0xB0)]) ∧
  (∀ (s : State) (r : MemReq) (page : Nat) (home : TierName) (old x : Nat), r.node = s.node → r.srcNode ≠ s.node →
    s.checkReq 0x12 r = none → page = pageOf r.offset → (s.leaf page).st = .resident home → s.heldOn page = [] →
    s.poolAt r.offset = none → old = natOfBytes (Map.bytes s.mem r.offset 8) → x = natOfBytes r.data → completes
    (.cas64 r) s fun t => (natOfBytes (Map.bytes t.mem r.offset 8) = if old = x % 2 ^ 64 then x / 2 ^ 64 else old) ∧
    bytesSame s.mem t.mem r.offset 8 ∧ t.out = s.out ++ [replyTo 0x90 r 0 false (Map.bytes s.mem r.offset 8)] ∧
    t.tier.pages = s.tier.pages ∧ s.changes t [.tier, .out, .pwr, .mem, .digs] [] [(.tier, 0x90), (.pwr, 0xB0)]) ∧
  (∀ (s : State) (r : MemReq) (page : Nat) (home : TierName) (old x : Nat), r.node = s.node → r.srcNode ≠ s.node →
    s.checkReq 0x13 r = none → page = pageOf r.offset → (s.leaf page).st = .resident home → s.heldOn page = [] →
    s.poolAt r.offset = none → old = natOfBytes (Map.bytes s.mem r.offset 16) → x = natOfBytes r.data → completes
    (.cas128 r) s fun t => (natOfBytes (Map.bytes t.mem r.offset 16) = if old = x % 2 ^ 128 then x / 2 ^ 128 else
    old) ∧ bytesSame s.mem t.mem r.offset 16 ∧ t.out = s.out ++
    [replyTo 0x90 r 0 false (Map.bytes s.mem r.offset 16)] ∧ t.tier.pages = s.tier.pages ∧ s.changes t
    [.tier, .out, .pwr, .mem, .digs] [] [(.tier, 0x90), (.pwr, 0xB0)]) ∧
  (∀ (s : State) (r : MemReq) (page : Nat) (home : TierName) (old x : Nat), r.node = s.node → r.srcNode ≠ s.node →
    s.checkReq 0x14 r = none → page = pageOf r.offset → (s.leaf page).st = .resident home → s.heldOn page = [] →
    s.poolAt r.offset = none → old = natOfBytes (Map.bytes s.mem r.offset 8) → x = natOfBytes r.data → completes
    (.for64 r) s fun t => natOfBytes (Map.bytes t.mem r.offset 8) = Nat.lor old x ∧ bytesSame s.mem t.mem r.offset 8
    ∧ t.out = s.out ++ [replyTo 0x90 r 0 false (Map.bytes s.mem r.offset 8)] ∧ t.tier.pages = s.tier.pages ∧
    s.changes t [.tier, .out, .pwr, .mem, .digs] [] [(.tier, 0x90), (.pwr, 0xB0)]) ∧
  (∀ (s : State) (r q : MemReq) (e : EngId) (tag : Nat) (page : Nat) (home : TierName), r.srcNode = s.node → r.node =
    s.node → e = connEng r → s.engLive e = true → s.noFwd e → (s.freeTag e = some tag) → q =
    { s.issued r with tag := tag, plane := 0 } → s.checkReq 0x01 q = none → page = pageOf r.offset → (s.leaf page).st
    = .resident home → (∀ h ∈ s.heldOn page, h.write = none) → completes (.load r) s fun t => (t.out.getLast? = some
    (.localResp e tag 0 (Map.bytes s.mem r.offset (8 * (r.len8 + 1))))) ∧ t.reqSlot e tag = none ∧ t.tier.pages =
    s.tier.pages ∧ t.tier.readers = s.tier.readers ∧ othersSame {} s.engines t.engines [e.val] ∧ s.changes t (.tier
    :: .pwr :: .engines :: sampleComps) (irqPlaces .mon) ((.tier, 0x90) :: (.pwr, 0xB0) :: irqCounts .mon)) ∧
  (∀ (s : State) (r q : MemReq) (e : EngId) (tag : Nat) (page : Nat) (home : TierName), r.srcNode = s.node → r.node =
    s.node → e = connEng r → s.engLive e = true → s.noFwd e → (s.freeTag e = some tag) → q =
    { s.issued r with tag := tag, plane := 0 } → s.checkReq 0x02 q = none → page = pageOf r.offset → (s.leaf page).st
    = .resident home → s.heldOn page = [] → s.poolAt r.offset = none → completes (.store r) s fun t => Map.bytes
    t.mem r.offset r.data.length = r.data ∧ bytesSame s.mem t.mem r.offset r.data.length ∧ t.out = s.out ++
    [Out.localResp e tag 0 []] ∧ t.reqSlot e tag = none ∧ t.tier.pages = s.tier.pages ∧ othersSame {} s.engines
    t.engines [e.val] ∧ s.changes t [.tier, .out, .pwr, .mem, .digs, .engines] [] [(.tier, 0x90), (.pwr, 0xB0)]) ∧
  (∀ (s : State) (r q : MemReq) (e : EngId) (tag : Nat) (page : Nat), r.srcNode = s.node → r.node = s.node → e =
    connEng r → s.engLive e = true → s.noFwd e → (s.freeTag e = some tag) → q =
    { s.issued r with tag := tag, plane := 0 } → s.checkReq 0x02 q = none → r.placeAck = false → page = pageOf
    r.offset → s.heldOn page ≠ [] ∨ (s.leaf page).st = .inTransit → (s.heldOn page).length < 64 → completes (.store
    r) s fun t => t.out = s.out ++ [Out.accessHeld .fabric r.offset, Out.localResp e tag 0 []] ∧ (t.heldOn
    page).length = (s.heldOn page).length + 1 ∧ s.changes t [.tier, .out, .pwr] []
    [(.tier, 0x90), (.tier, 0xB8), (.pwr, 0xB0)]) ∧
  (∀ (s : State) (r q : MemReq) (e : EngId) (tag : Nat) (page : Nat) (home : TierName) (old : List Byte), r.srcNode =
    s.node → r.node = s.node → e = connEng r → s.engLive e = true → s.noFwd e → (s.freeTag e = some tag) → q =
    { s.issued r with tag := tag, plane := 0 } → ∀ o ∈
    [(Instr.fadd64, 0x10), (.swap64, 0x11), (.cas64, 0x12), (.cas128, 0x13), (.for64, 0x14)], s.checkReq o.2 q = none
    → page = pageOf r.offset → (s.leaf page).st = .resident home → s.heldOn page = [] → s.poolAt r.offset = none →
    old = Map.bytes s.mem r.offset (8 * (r.len8 + 1)) → completes (o.1 r) s fun t => Map.bytes t.mem r.offset (8 *
    (r.len8 + 1)) = atomicNew o.2 old r.data ∧ bytesSame s.mem t.mem r.offset (8 * (r.len8 + 1)) ∧ t.out = s.out ++
    [Out.localResp e tag 0 old] ∧ t.reqSlot e tag = none ∧ othersSame {} s.engines t.engines [e.val] ∧ s.changes t
    [.tier, .out, .pwr, .mem, .digs, .engines] [] [(.tier, 0x90), (.pwr, 0xB0)]) ∧
  (∀ (s : State) (r : MemReq) (c : Nat) (lease : Bool), r.node = s.node → r.srcNode ≠ s.node → ∀ o ∈
    [(Instr.load, 0x01), (.store, 0x02), (.fadd64, 0x10), (.swap64, 0x11), (.cas64, 0x12), (.cas128, 0x13), (.for64, 0x14), (.invalidate, 0x30)],
    s.checkReq o.2 r = some (c, lease) → completes (o.1 r) s fun t => t.out = s.out ++
    [respOut 0xFE r.plane.val { status := c, noCache := false, plain := o.2 == 0x02 && !r.placeAck, dstFeng := r.srcFeng, dstNode := r.srcNode, tag := r.tag, detail := BitVec.ofNat 64 (if o.2 = 0x02 ∧ r.placeAck = false then gfaOf r else 0), data := [], tc := r.tc }]
    ∧ s.changes t [.out] [] [(.srch, 0xF0)]) ∧
  (∀ (s : State) (r q : MemReq) (e : EngId) (tag : Nat) (c : Nat) (lease : Bool), r.srcNode = s.node → r.node =
    s.node → e = connEng r → s.engLive e = true → s.noFwd e → (s.freeTag e = some tag) → q =
    { s.issued r with tag := tag, plane := 0 } → ∀ o ∈
    [(Instr.load, 0x01), (.store, 0x02), (.fadd64, 0x10), (.swap64, 0x11), (.cas64, 0x12), (.cas128, 0x13), (.for64, 0x14)],
    s.checkReq o.2 q = some (c, lease) → completes (o.1 r) s fun t => t.out = s.out ++ [Out.localResp e tag c []] ∧
    othersSame {} s.engines t.engines [e.val] ∧ s.changes t [.out, .engines] [] [(.srch, 0xF0)])

/-- A request of this device to another one, from an engine that is ready and not fenced, takes the lowest free slot
of the engine (the model's choice, notes/assumptions/9) and leaves on the plane of R167, stamped with its engine and
epoch; a STORE without placement is complete at once and takes no slot; a STORE or an atomic first drops the cached
lines it writes; a LOAD whose line is cached is answered from the cache. With no free slot the issuer stalls and it
counts; an engine that is not ready or whose partition is fenced issues nothing; with no plane the request completes
with NO_PATH. Nothing else changes. On points the spec leaves open it states the model's choices
(notes/assumptions/21, 22). -/
def Obligations.IssuedRequestsLeaveOnTheirPlane : Prop :=
  (∀ (s : State) (r r1 : MemReq) (e : EngId) (tag plane : Nat), r.srcNode = s.node → r.node ≠ s.node → e = connEng r
    → s.fenced (partOfEng e) = false → s.ready (.feng e) = true → s.rrc.find? (lineIs (partOfEng e) r) = none →
    (s.freeTag e = some tag) → r1 = { s.issued r with tag := tag } → (s.planeOf e r.node (connKey r1) = some plane) →
    s.connWaits r1 plane = false → completes (.load r) s fun t => t.out = s.out ++ [reqOut 0x01 plane r1] ∧
    (t.reqSlot e tag = some
    { kind := .load, req := r1, issued := s.now, noInstall := false, planes := [plane], answers := [] }) ∧ (t.eng
    e).spray = (plane + 1) % 32 ∧ bit (t.eng e).sentPlanes plane = true ∧ othersSame {} s.engines t.engines [e.val] ∧
    s.changes t [.engines, .out, .pwr] [] [(.pwr, 0xB0)]) ∧
  (∀ (s : State) (r : MemReq) (e : EngId) (l : Line), r.srcNode = s.node → r.node ≠ s.node → e = connEng r → s.fenced
    (partOfEng e) = false → s.ready (.feng e) = true → (s.rrc.find? (lineIs (partOfEng e) r) = some l) → completes
    (.load r) s fun t => (t.out.getLast? = some (.localResp e r.tag 0 ((l.data.drop (r.offset % 256)).take (8 *
    (r.len8 + 1))))) ∧ s.counted t (.feng e) 0xA0 ∧ (t.rrc.head? = some l) ∧ s.changes t (.rrc :: .pwr ::
    sampleComps) (irqPlaces .mon) ((.feng e, 0xA0) :: (.pwr, 0xB0) :: irqCounts .mon)) ∧
  (∀ (s : State) (r r1 : MemReq) (e : EngId) (tag plane : Nat), r.srcNode = s.node → r.node ≠ s.node → e = connEng r
    → s.fenced (partOfEng e) = false → s.ready (.feng e) = true → (s.freeTag e = some tag) → r1 =
    { s.issued r with tag := tag } → (s.planeOf e r.node (connKey r1) = some plane) → s.connWaits r1 plane = false →
    completes (.store r) s fun t => (t.out = s.out ++ reqOut 0x02 plane r1 :: if r.placeAck then [] else
    [.localResp e tag 0 []]) ∧ (if r.placeAck then t.reqSlot e tag = some
    { kind := .store, req := r1, issued := s.now, noInstall := false, planes := [plane], answers := [] } else
    t.reqSlot e tag = none) ∧ (t.rrc = s.rrc.filter fun l => !(l.node == r.node && decide (r.offset / 256 ≤ l.block ∧
    l.block * 256 < r.offset + 8 * (r.len8 + 1)))) ∧ (t.eng e).spray = (plane + 1) % 32 ∧ bit (t.eng e).sentPlanes
    plane = true ∧ othersSame {} s.engines t.engines [e.val] ∧ s.changes t [.engines, .out, .rrc] [] []) ∧
  (∀ (s : State) (r r1 : MemReq) (e : EngId) (tag plane : Nat), r.srcNode = s.node → r.node ≠ s.node → e = connEng r
    → s.fenced (partOfEng e) = false → s.ready (.feng e) = true → (s.freeTag e = some tag) → r1 =
    { s.issued r with tag := tag } → (s.planeOf e r.node (connKey r1) = some plane) → s.connWaits r1 plane = false →
    completes (.fadd64 r) s fun t => t.out = s.out ++ [reqOut 0x10 plane r1] ∧ (t.reqSlot e tag = some
    { kind := .atomic, req := r1, issued := s.now, noInstall := false, planes := [plane], answers := [] }) ∧ (t.rrc =
    s.rrc.filter fun l => !(l.node == r.node && decide (r.offset / 256 ≤ l.block ∧ l.block * 256 < r.offset + 8 *
    (r.len8 + 1)))) ∧ (t.eng e).spray = (plane + 1) % 32 ∧ bit (t.eng e).sentPlanes plane = true ∧ othersSame {}
    s.engines t.engines [e.val] ∧ s.changes t [.engines, .out, .rrc] [] []) ∧
  (∀ (s : State) (r r1 : MemReq) (e : EngId) (tag plane : Nat), r.srcNode = s.node → r.node ≠ s.node → e = connEng r
    → s.fenced (partOfEng e) = false → s.ready (.feng e) = true → (s.freeTag e = some tag) → r1 =
    { s.issued r with tag := tag } → (s.planeOf e r.node (connKey r1) = some plane) → s.connWaits r1 plane = false →
    completes (.swap64 r) s fun t => t.out = s.out ++ [reqOut 0x11 plane r1] ∧ (t.reqSlot e tag = some
    { kind := .atomic, req := r1, issued := s.now, noInstall := false, planes := [plane], answers := [] }) ∧ (t.rrc =
    s.rrc.filter fun l => !(l.node == r.node && decide (r.offset / 256 ≤ l.block ∧ l.block * 256 < r.offset + 8 *
    (r.len8 + 1)))) ∧ (t.eng e).spray = (plane + 1) % 32 ∧ bit (t.eng e).sentPlanes plane = true ∧ othersSame {}
    s.engines t.engines [e.val] ∧ s.changes t [.engines, .out, .rrc] [] []) ∧
  (∀ (s : State) (r r1 : MemReq) (e : EngId) (tag plane : Nat), r.srcNode = s.node → r.node ≠ s.node → e = connEng r
    → s.fenced (partOfEng e) = false → s.ready (.feng e) = true → (s.freeTag e = some tag) → r1 =
    { s.issued r with tag := tag } → (s.planeOf e r.node (connKey r1) = some plane) → s.connWaits r1 plane = false →
    completes (.cas64 r) s fun t => t.out = s.out ++ [reqOut 0x12 plane r1] ∧ (t.reqSlot e tag = some
    { kind := .atomic, req := r1, issued := s.now, noInstall := false, planes := [plane], answers := [] }) ∧ (t.rrc =
    s.rrc.filter fun l => !(l.node == r.node && decide (r.offset / 256 ≤ l.block ∧ l.block * 256 < r.offset + 8 *
    (r.len8 + 1)))) ∧ (t.eng e).spray = (plane + 1) % 32 ∧ bit (t.eng e).sentPlanes plane = true ∧ othersSame {}
    s.engines t.engines [e.val] ∧ s.changes t [.engines, .out, .rrc] [] []) ∧
  (∀ (s : State) (r r1 : MemReq) (e : EngId) (tag plane : Nat), r.srcNode = s.node → r.node ≠ s.node → e = connEng r
    → s.fenced (partOfEng e) = false → s.ready (.feng e) = true → (s.freeTag e = some tag) → r1 =
    { s.issued r with tag := tag } → (s.planeOf e r.node (connKey r1) = some plane) → s.connWaits r1 plane = false →
    completes (.cas128 r) s fun t => t.out = s.out ++ [reqOut 0x13 plane r1] ∧ (t.reqSlot e tag = some
    { kind := .atomic, req := r1, issued := s.now, noInstall := false, planes := [plane], answers := [] }) ∧ (t.rrc =
    s.rrc.filter fun l => !(l.node == r.node && decide (r.offset / 256 ≤ l.block ∧ l.block * 256 < r.offset + 8 *
    (r.len8 + 1)))) ∧ (t.eng e).spray = (plane + 1) % 32 ∧ bit (t.eng e).sentPlanes plane = true ∧ othersSame {}
    s.engines t.engines [e.val] ∧ s.changes t [.engines, .out, .rrc] [] []) ∧
  (∀ (s : State) (r r1 : MemReq) (e : EngId) (tag plane : Nat), r.srcNode = s.node → r.node ≠ s.node → e = connEng r
    → s.fenced (partOfEng e) = false → s.ready (.feng e) = true → (s.freeTag e = some tag) → r1 =
    { s.issued r with tag := tag } → (s.planeOf e r.node (connKey r1) = some plane) → s.connWaits r1 plane = false →
    completes (.for64 r) s fun t => t.out = s.out ++ [reqOut 0x14 plane r1] ∧ (t.reqSlot e tag = some
    { kind := .atomic, req := r1, issued := s.now, noInstall := false, planes := [plane], answers := [] }) ∧ (t.rrc =
    s.rrc.filter fun l => !(l.node == r.node && decide (r.offset / 256 ≤ l.block ∧ l.block * 256 < r.offset + 8 *
    (r.len8 + 1)))) ∧ (t.eng e).spray = (plane + 1) % 32 ∧ bit (t.eng e).sentPlanes plane = true ∧ othersSame {}
    s.engines t.engines [e.val] ∧ s.changes t [.engines, .out, .rrc] [] []) ∧
  (∀ (s : State) (r r1 : MemReq) (e : EngId) (tag plane : Nat), r.srcNode = s.node → r.node ≠ s.node → e = connEng r
    → s.fenced (partOfEng e) = false → s.ready (.feng e) = true → (s.freeTag e = some tag) → r1 =
    { s.issued { r with tc := 1, len8 := 0, data := [] } with tag := tag } → (s.planeOf e r.node (connKey r1) = some
    plane) → s.connWaits r1 plane = false → completes (.invalidate r) s fun t => t.out = s.out ++
    [reqOut 0x30 plane r1] ∧ (t.reqSlot e tag = some
    { kind := .invalidate, req := r1, issued := s.now, noInstall := false, planes := [plane], answers := [] }) ∧
    (t.eng e).spray = (plane + 1) % 32 ∧ bit (t.eng e).sentPlanes plane = true ∧ othersSame {} s.engines t.engines
    [e.val] ∧ s.changes t [.engines, .out] [] []) ∧
  (∀ (s : State) (r : MemReq) (e : EngId), r.srcNode = s.node → r.node ≠ s.node → e = connEng r → s.fenced (partOfEng
    e) = false → s.ready (.feng e) = true → s.freeTag e = none → (s.rrc.find? (lineIs (partOfEng e) r) = none) → ∀ c
    ∈ [Instr.load, .store, .fadd64, .swap64, .cas64, .cas128, .for64, .invalidate], completes (c r) s fun t =>
    s.counted t (.feng e) 0x90 ∧ s.changes t [.rrc, .pwr] [] [(.feng e, 0x90), (.pwr, 0xB0)]) ∧
  (∀ (s : State) (r : MemReq) (e : EngId) (tag : Nat), r.srcNode = s.node → r.node ≠ s.node → e = connEng r →
    s.fenced (partOfEng e) = false → s.ready (.feng e) = true → (s.freeTag e = some tag) → (s.rrc.find? (lineIs
    (partOfEng e) r) = none) → s.planeOf e r.node (connKey { r with srcFeng := e }) = none → ∀ c ∈
    [Instr.load, .store, .fadd64, .swap64, .cas64, .cas128, .for64, .invalidate], completes (c r) s fun t => t.out =
    s.out ++ [Out.localResp e tag 0x10 []] ∧ s.changes t [.rrc, .out, .pwr] [] [(.pwr, 0xB0)]) ∧
  (∀ (s : State) (r : MemReq), r.srcNode = s.node → s.engLive (connEng r) = false → ∀ c ∈
    [Instr.load, .store, .fadd64, .swap64, .cas64, .cas128, .for64, .invalidate, fun r => .flush r 0], completes (c
    r) s fun t => t = s)

/-- A response that finds its slot with a request of its kind frees the slot and completes the request at its
issuer: a LOAD with its bytes (a whole line is cached unless NO_CACHE or an INV came in between), a STORE_ACK and a
NAK of a STORE with a journal entry, an atomic with the old value, an INVALIDATE with its status; a NAK completes
any other request with its code. The answer to a piece of a DMA task's transfer goes to the task. A response without
its slot counts as late. A NAK of a plain store is kept for the next FLUSH. A request past RESP_TIMEOUT completes
with TIMEOUT. Nothing else changes. On points the spec leaves open it states the model's choices
(notes/assumptions/21, 22). -/
def Obligations.ResponsesCompleteTheirRequests : Prop :=
  (∀ (s : State) (r : MemResp) (y : Outst), (s.reqSlot r.dstFeng r.tag = some y) → y.owner = .issuer → s.noFwd
    r.dstFeng → y.kind = .load → ¬ (r.data.length = 256 ∧ y.req.cacheable = true) → completes (.loadResp r) s fun t
    => t.reqSlot r.dstFeng r.tag = none ∧ othersSame {} s.engines t.engines [r.dstFeng.val] ∧ (t.out.getLast? = some
    (.localResp r.dstFeng r.tag 0 r.data)) ∧ s.changes t (.engines :: sampleComps) (irqPlaces .mon) (irqCounts .mon)) ∧
  (∀ (s : State) (r : MemResp) (y : Outst), (s.reqSlot r.dstFeng r.tag = some y) → y.owner = .issuer → s.noFwd
    r.dstFeng → y.kind = .load → r.data.length = 256 → y.req.cacheable = true → completes (.loadResp r) s fun t =>
    t.reqSlot r.dstFeng r.tag = none ∧ othersSame {} s.engines t.engines [r.dstFeng.val] ∧ (t.out.getLast? = some
    (.localResp r.dstFeng r.tag 0 ((r.data.drop (y.req.offset % 256)).take (8 * (y.req.len8 + 1))))) ∧ (if r.noCache
    || y.noInstall then t.rrc = s.rrc else t.rrc.head? = some
    { part := partOfEng r.dstFeng, node := y.req.node, gpart := y.req.part, block := y.req.offset / 256, key := y.req.key, data := r.data })
    ∧ s.changes t (.rrc :: .engines :: sampleComps) (irqPlaces .mon) (irqCounts .mon)) ∧
  (∀ (s : State) (r : MemResp) (y : Outst), (s.reqSlot r.dstFeng r.tag = some y) → y.owner = .issuer → s.noFwd
    r.dstFeng → y.kind = .store → completes (.storeAck r) s fun t => t.reqSlot r.dstFeng r.tag = none ∧ othersSame {}
    s.engines t.engines [r.dstFeng.val] ∧ t.out = s.out ++ [Out.localResp r.dstFeng r.tag 0 []] ∧ ((t.eng
    r.dstFeng).jseq = if (s.eng r.dstFeng).frozen then (s.eng r.dstFeng).jseq else ((s.eng r.dstFeng).jseq + 1) % 2 ^
    32) ∧ s.changes t [.engines, .out] [] []) ∧
  (∀ (s : State) (r : MemResp) (y : Outst), (s.reqSlot r.dstFeng r.tag = some y) → y.owner = .issuer → s.noFwd
    r.dstFeng → y.kind = .atomic → completes (.atomicResp r) s fun t => t.reqSlot r.dstFeng r.tag = none ∧ othersSame
    {} s.engines t.engines [r.dstFeng.val] ∧ t.out = s.out ++ [Out.localResp r.dstFeng r.tag 0 r.data] ∧ s.changes t
    [.engines, .out] [] []) ∧
  (∀ (s : State) (r : MemResp) (y : Outst), (s.reqSlot r.dstFeng r.tag = some y) → y.owner = .issuer → s.noFwd
    r.dstFeng → y.kind = .invalidate → completes (.invalidateResp r) s fun t => t.reqSlot r.dstFeng r.tag = none ∧
    othersSame {} s.engines t.engines [r.dstFeng.val] ∧ t.out = s.out ++
    [Out.localResp r.dstFeng r.tag r.status (bytesOfNat 8 r.detail.toNat)] ∧ s.changes t [.engines, .out] [] []) ∧
  (∀ (s : State) (r : MemResp) (y : Outst) (plane : PortId), r.plain = false → (s.reqSlot r.dstFeng r.tag = some y) →
    y.owner = .issuer → s.noFwd r.dstFeng → y.kind ≠ .flush → completes (.nak r plane) s fun t => t.reqSlot r.dstFeng
    r.tag = none ∧ othersSame {} s.engines t.engines [r.dstFeng.val] ∧ t.out = s.out ++
    [Out.localResp r.dstFeng r.tag r.status []] ∧ (y.kind = .store → (t.eng r.dstFeng).jseq = if (s.eng
    r.dstFeng).frozen then (s.eng r.dstFeng).jseq else ((s.eng r.dstFeng).jseq + 1) % 2 ^ 32) ∧ s.changes t
    [.engines, .out] [] []) ∧
  (∀ (s : State) (r : MemResp) (y : Outst) (d : TileId) (i : Fin 64) (order piece : Nat), (s.reqSlot r.dstFeng r.tag
    = some y) → (y.owner = .dma d i order piece) → (s.slot d i).st = .running → (s.slot d i).order = order → s.noFwd
    r.dstFeng → y.kind = .load → ¬ (r.data.length = 256 ∧ y.req.cacheable = true) → completes (.loadResp r) s fun t
    => t.reqSlot r.dstFeng r.tag = none ∧ t.slot d i =
    { s.slot d i with far := (s.slot d i).far.answer .load piece 0 (gfaOf y.req) r.data } ∧ othersSame {} s.engines
    t.engines [r.dstFeng.val] ∧ othersSame {} s.tiles t.tiles [d.val] ∧ s.changes t (.tiles :: .engines ::
    sampleComps) (irqPlaces .mon) (irqCounts .mon)) ∧
  (∀ (s : State) (r : MemResp) (y : Outst) (d : TileId) (i : Fin 64) (order piece : Nat), (s.reqSlot r.dstFeng r.tag
    = some y) → (y.owner = .dma d i order piece) → (s.slot d i).st = .running → (s.slot d i).order = order → s.noFwd
    r.dstFeng → y.kind = .store → (completes (.storeAck r) s fun t => t.reqSlot r.dstFeng r.tag = none ∧ t.slot d i =
    { s.slot d i with far := (s.slot d i).far.answer .store piece 0 (gfaOf y.req) [] } ∧ t.out = s.out ∧ othersSame
    {} s.tiles t.tiles [d.val] ∧ s.changes t [.tiles, .engines] [] []) ∧ (∀ plane, r.plain = false → completes (.nak
    r plane) s fun t => t.reqSlot r.dstFeng r.tag = none ∧ t.slot d i =
    { s.slot d i with far := (s.slot d i).far.answer .store piece r.status (gfaOf y.req) [] } ∧ t.out = s.out ∧
    othersSame {} s.tiles t.tiles [d.val] ∧ s.changes t [.tiles, .engines] [] [])) ∧
  (∀ (s : State) (r : MemResp) (plane : PortId) (node part : Nat), r.plain = true → node = r.detail.toNat / 2 ^ 52 →
    part = r.detail.toNat / 2 ^ 47 % 32 → ((s.eng r.dstFeng).naks.any (fun n => n.1 = node ∧ n.2.1 = part) = false) →
    completes (.nak r plane) s fun t => (t.eng r.dstFeng = if (s.eng r.dstFeng).naks.length < 64 then
    { s.eng r.dstFeng with naks := (s.eng r.dstFeng).naks ++ [(node, part, r.status)] } else
    { s.eng r.dstFeng with nakOvf := true }) ∧ othersSame {} s.engines t.engines [r.dstFeng.val] ∧ s.changes t
    [.engines] [] []) ∧
  (∀ (s : State) (r : MemResp) (plane : PortId), s.reqSlot r.dstFeng r.tag = none → r.tag ∉ (s.eng r.dstFeng).dropped
    → ∀ c ∈
    [Instr.loadResp, .storeAck, .atomicResp, .invalidateResp, fun r => .flushResp r plane, fun r => .nak r plane],
    r.plain = false → completes (c r) s fun t => s.counted t (.feng r.dstFeng) 0x98 ∧ s.changes t [] []
    [(.feng r.dstFeng, 0x98)]) ∧
  (∀ (s : State) (e : EngId) (tag : Fin 512) (y : Outst), (s.reqSlot e tag.val = some y) → y.owner = .issuer →
    s.noFwd e → y.issued + s.fld (.feng e) Reg.FENG_CTRL_RESP_TIMEOUT_US * 1000 ≤ s.now → completes (.requestTimeout
    e tag) s fun t => t.reqSlot e tag.val = none ∧ (t.out = s.out ++
    [Out.localResp e tag.val (if y.kind = .flush ∧ s.flag (.feng e) Reg.FENG_STAT_PATH_LOST = true then 0x13 else 0x11) []])
    ∧ othersSame {} s.engines t.engines [e.val] ∧ s.changes t [.engines, .out] [] []) ∧
  (∀ (s : State) (e : EngId) (tag : Fin 512) (y : Outst), (s.reqSlot e tag.val = some y) → s.now < y.issued + s.fld
    (.feng e) Reg.FENG_CTRL_RESP_TIMEOUT_US * 1000 → completes (.requestTimeout e tag) s fun t => t = s)

/-- An issued FLUSH sends a marker on every plane that reaches its node; a marker at its target that fails check 1
or 2 of R157 is answered NAK, otherwise it waits, and is answered on its plane once every earlier request of its
connection, class and plane is placed; the last answer completes the FLUSH with the status of R169. INVALIDATE at
its home starts a pass that sends INV to the readers, or waits behind the pass of its page; INV drops the page's
lines of that node and is acknowledged; the last INV_ACK, or INV_TIMEOUT after a millisecond, ends the pass and
answers the writer. A FLUSH or INVALIDATE of this device to itself takes a slot and completes at its issuer.
REGION_FLUSH drops a partition's lines of a key. Nothing else changes. On points the spec leaves open it states the
model's choices (notes/assumptions/21, 22). -/
def Obligations.FlushesAndInvalidationsComplete : Prop :=
  (∀ (s : State) (r : MemReq) (plane : PortId) (e : EngId) (tag : Nat) (r1 : MemReq), r.srcNode = s.node → r.node ≠
    s.node → e = connEng r → s.fenced (partOfEng e) = false → s.ready (.feng e) = true → (s.freeTag e = some tag) →
    r1 = { s.issued r with tag := tag, len8 := 0, data := [] } → s.pinned = false → r.node < 256 → s.planesTo r.node
    ≠ [] → completes (.flush r plane) s fun t => (t.out = s.out ++ (s.planesTo r.node).map fun p => reqOut 0x20 p r1)
    ∧ (t.reqSlot e tag = some
    { kind := .flush, req := r1, issued := s.now, noInstall := false, planes := s.planesTo r.node, answers := [] }) ∧
    (t.eng e).sentPlanes = 0 ∧ othersSame {} s.engines t.engines [e.val] ∧ s.changes t [.engines, .out] [] []) ∧
  (∀ (s : State) (r q : MemReq) (plane : PortId), r.node = s.node → r.srcNode ≠ s.node → q =
    { r with plane := plane } → s.checkPart r.part q.srcNode (q.srcFeng.val / 2) q.epoch = none → completes (.flush r
    plane) s fun t => t.tier =
    { s.tier with nextTicket := s.tier.nextTicket + 1, markers := s.tier.markers ++ [({ r := q, plane := plane, ticket := s.tier.nextTicket + 1 } : Marker)] }
    ∧ s.changes t [.tier] [] []) ∧
  (∀ (s : State) (r q : MemReq) (plane : PortId) (c : Nat), r.node = s.node → r.srcNode ≠ s.node → q =
    { r with plane := plane } → (s.checkPart r.part q.srcNode (q.srcFeng.val / 2) q.epoch = some c) → completes
    (.flush r plane) s fun t => t.out = s.out ++ [replyTo 0xFE q c false []] ∧ s.changes t [.out] [] []) ∧
  (∀ (s : State) (r : MemReq) (plane : PortId) (m : Marker), r.srcNode ≠ s.node → (s.tier.markers.find? (fun x => x.r
    = r ∧ x.plane = plane) = some m) → s.markerWaits m = false → completes (.flushMarkerAnswer r plane) s fun t =>
    (t.tier = { s.tier with markers := s.tier.markers.filter fun x => x ≠ m }) ∧ (t.out = s.out ++
    [replyTo 0xA0 r 0 false []]) ∧ s.changes t [.tier, .out] [] []) ∧
  (∀ (s : State) (r q : MemReq) (plane : PortId) (e : EngId) (tag : Nat), r.srcNode = s.node → r.node = s.node → e =
    connEng r → s.engLive e = true → (s.freeTag e = some tag) → q =
    { s.issued r with tag := tag, plane := 0, len8 := 0, data := [] } → s.checkPart r.part q.srcNode (q.srcFeng.val /
    2) q.epoch = none → completes (.flush r plane) s fun t => (t.reqSlot e tag = some
    { kind := .flush, req := q, issued := s.now, noInstall := false, planes := [0], answers := [] }) ∧ t.tier =
    { s.tier with nextTicket := s.tier.nextTicket + 1, markers := s.tier.markers ++ [({ r := q, plane := 0, ticket := s.tier.nextTicket + 1 } : Marker)] }
    ∧ othersSame {} s.engines t.engines [e.val] ∧ s.changes t [.tier, .engines] [] []) ∧
  (∀ (s : State) (r q : MemReq) (plane : PortId) (e : EngId) (tag : Nat) (c : Nat), r.srcNode = s.node → r.node =
    s.node → e = connEng r → s.engLive e = true → (s.freeTag e = some tag) → q =
    { s.issued r with tag := tag, plane := 0, len8 := 0, data := [] } → (s.checkPart r.part q.srcNode (q.srcFeng.val
    / 2) q.epoch = some c) → s.noFwd e → completes (.flush r plane) s fun t => t.reqSlot e tag = none ∧
    (t.out.getLast? = some (.localResp e tag (if s.flag (.feng e) Reg.FENG_STAT_PATH_LOST then 0x13 else c) [])) ∧
    othersSame {} s.engines t.engines [e.val] ∧ s.changes t (.engines :: sampleComps) (irqPlaces .mon) (irqCounts
    .mon)) ∧
  (∀ (s : State) (r : MemReq) (m : Marker) (y : Outst), (s.tier.markers.find? (fun x => x.r = r ∧ x.plane = r.plane)
    = some m) → s.markerWaits m = false → r.srcNode = s.node → (s.reqSlot r.srcFeng r.tag = some y) → y.req = r →
    y.kind = .flush → y.owner = .issuer → y.planes = [r.plane.val] → y.answers = [] → s.flag (.feng r.srcFeng)
    Reg.FENG_STAT_PATH_LOST = false → ((s.eng r.srcFeng).naks.find? (fun n => n.1 = r.node ∧ n.2.1 = r.part.val) =
    none) → (s.eng r.srcFeng).nakOvf = false → s.noFwd r.srcFeng → completes (.flushMarkerAnswer r r.plane) s fun t
    => t.reqSlot r.srcFeng r.tag = none ∧ (t.out.getLast? = some (.localResp r.srcFeng r.tag 0 [])) ∧ (t.tier =
    { s.tier with markers := s.tier.markers.filter fun x => x ≠ m }) ∧ s.changes t (.tier :: .engines :: sampleComps)
    (irqPlaces .mon) (irqCounts .mon)) ∧
  (∀ (s : State) (r : MemResp) (plane : PortId) (y : Outst), (s.reqSlot r.dstFeng r.tag = some y) → y.owner = .issuer
    → s.noFwd r.dstFeng → y.kind = .flush → y.planes = [plane.val] → y.answers = [] → s.flag (.feng r.dstFeng)
    Reg.FENG_STAT_PATH_LOST = false → ((s.eng r.dstFeng).naks.find? (fun n => n.1 = y.req.node ∧ n.2.1 =
    y.req.part.val) = none) → (s.eng r.dstFeng).nakOvf = false → completes (.flushResp r plane) s fun t => t.reqSlot
    r.dstFeng r.tag = none ∧ othersSame {} s.engines t.engines [r.dstFeng.val] ∧ (t.out.getLast? = some (.localResp
    r.dstFeng r.tag 0 [])) ∧ s.changes t (.engines :: sampleComps) (irqPlaces .mon) (irqCounts .mon)) ∧
  (∀ (s : State) (r : MemResp) (plane : PortId) (y : Outst) (p : Nat), (s.reqSlot r.dstFeng r.tag = some y) → y.kind
    = .flush → y.answers = [] → p ∈ y.planes → p ≠ plane.val → completes (.flushResp r plane) s fun t => (t.reqSlot
    r.dstFeng r.tag = some { y with answers := [(plane.val, 0)] }) ∧ othersSame {} s.engines t.engines
    [r.dstFeng.val] ∧ s.changes t [.engines] [] []) ∧
  (∀ (s : State) (r : MemResp) (plane : PortId) (y : Outst), r.plain = false → (s.reqSlot r.dstFeng r.tag = some y) →
    y.owner = .issuer → s.noFwd r.dstFeng → y.kind = .flush → y.planes = [plane.val] → y.answers = [] → r.status ≠ 0
    → completes (.nak r plane) s fun t => t.reqSlot r.dstFeng r.tag = none ∧ (t.out.getLast? = some (.localResp
    r.dstFeng r.tag (if s.flag (.feng r.dstFeng) Reg.FENG_STAT_PATH_LOST then 0x13 else r.status) [])) ∧ s.changes t
    (.engines :: sampleComps) (irqPlaces .mon) (irqCounts .mon)) ∧
  (∀ (s : State) (r : MemReq) (page : Nat) (e : RdEntry), r.node = s.node → r.srcNode ≠ s.node → s.checkReq 0x30 r =
    none → page = pageOf r.offset → (∀ x ∈ s.tier.passes, x.page ≠ page ∧ x.awaited ≠ []) → (s.tier.readers.find?
    (fun x => x.page = page) = some e) → e.bcast = false → ((∃ n ∈ e.nodes, s.nodeFenced n = false)) → completes
    (.invalidate r) s fun t => (s.pinned = false → ∀ n ∈ e.nodes, n < 256 → s.planesTo n ≠ [] → ∃ plane, reqOut 0x31
    plane (s.invReq page n) ∈ t.out) ∧ (t.tier =
    { s.tier with passes := s.tier.passes ++ [({ page := page, awaited := e.nodes.filter fun n => !s.nodeFenced n, start := s.now, writer := some r } : InvPass)] })
    ∧ s.changes t [.tier, .out, .engines] [] []) ∧
  (∀ (s : State) (r : MemReq) (page : Nat) (e : RdEntry) (n plane : Nat), r.node = s.node → r.srcNode ≠ s.node →
    s.checkReq 0x30 r = none → page = pageOf r.offset → (∀ x ∈ s.tier.passes, x.page ≠ page ∧ x.awaited ≠ []) →
    (s.tier.readers.find? (fun x => x.page = page) = some e) → e.bcast = false → e.nodes = [n] → s.nodeFenced n =
    false → (s.planeOf (s.invReq page n).srcFeng n (connKey (s.invReq page n)) = some plane) → completes (.invalidate
    r) s fun t => t.out = s.out ++ [reqOut 0x31 plane (s.invReq page n)] ∧ (t.tier =
    { s.tier with passes := s.tier.passes ++ [({ page := page, awaited := e.nodes.filter fun n => !s.nodeFenced n, start := s.now, writer := some r } : InvPass)] })
    ∧ s.changes t [.tier, .out, .engines] [] []) ∧
  (∀ (s : State) (r : MemReq) (page : Nat), r.node = s.node → r.srcNode ≠ s.node → s.checkReq 0x30 r = none → page =
    pageOf r.offset → (∀ x ∈ s.tier.passes, x.awaited ≠ []) → (∀ x ∈ s.tier.passes, x.page ≠ page) →
    (s.tier.readers.find? (fun x => x.page = page) = none) → s.tier.passQueue = [] → completes (.invalidate r) s fun
    t => t.out = s.out ++ [replyTo 0xB0 r 0 false []] ∧ t.tier.passes = s.tier.passes ∧ s.changes t [.tier, .out] []
    []) ∧
  (∀ (s : State) (r q : MemReq) (e : EngId) (tag : Nat) (page : Nat), r.srcNode = s.node → r.node = s.node → e =
    connEng r → s.engLive e = true → s.noFwd e → (s.freeTag e = some tag) → q =
    { s.issued r with tc := 1, len8 := 0, data := [], tag := tag, plane := 0 } → s.checkReq 0x30 q = none → page =
    pageOf r.offset → (∀ x ∈ s.tier.passes, x.awaited ≠ []) → (∀ x ∈ s.tier.passes, x.page ≠ page) →
    (s.tier.readers.find? (fun x => x.page = page) = none) → s.tier.passQueue = [] → completes (.invalidate r) s fun
    t => t.out = s.out ++ [Out.localResp e tag 0 (bytesOfNat 8 0)] ∧ t.reqSlot e tag = none ∧ t.tier.passes =
    s.tier.passes ∧ othersSame {} s.engines t.engines [e.val] ∧ s.changes t [.tier, .out, .engines] [] []) ∧
  (∀ (s : State) (r : MemReq), r.node = s.node → r.srcNode ≠ s.node → s.checkReq 0x30 r = none → (∃ x ∈
    s.tier.passes, x.page = pageOf r.offset) → completes (.invalidate r) s fun t => t.tier =
    { s.tier with passQueue := s.tier.passQueue ++ [r] } ∧ s.changes t [.tier] [] []) ∧
  (∀ (s : State) (r : MemReq), completes (.inv r) s fun t => t.out = s.out ++ [replyTo 0xB1 r 0 false []] ∧ (t.rrc =
    s.rrc.filter fun l => !(l.node == r.srcNode && l.block / 256 == pageOf r.offset)) ∧ s.changes t
    [.rrc, .engines, .out] [] []) ∧
  (∀ (s : State) (page node : Nat) (x : InvPass) (w : MemReq), s.tier.passes = [x] → x.page = page → x.awaited =
    [node] → (x.writer = some w) → w.srcNode ≠ s.node → s.tier.passQueue = [] → completes (.invAck page node) s fun t
    => t.out = s.out ++ [replyTo 0xB0 w 0 false []] ∧ (t.tier =
    { s.tier with passes := [], readers := s.tier.readers.filter fun e => e.page ≠ page }) ∧ s.changes t
    [.tier, .out] [] []) ∧
  (∀ (s : State) (page node : Nat), (∀ x ∈ s.tier.passes, (if x.page = page then x.awaited.filter (· ≠ node) else
    x.awaited) ≠ []) → completes (.invAck page node) s fun t => (t.tier =
    { s.tier with passes := s.tier.passes.map fun x => if x.page = page then { x with awaited := x.awaited.filter (· ≠ node) } else x })
    ∧ s.changes t [.tier] [] []) ∧
  (∀ (s : State) (page n : Nat) (ns : List Nat) (x : InvPass) (w : MemReq), s.tier.passes = [x] → x.page = page →
    x.start + 1000000 ≤ s.now → x.awaited = n :: ns → (x.writer = some w) → w.srcNode ≠ s.node → s.tier.passQueue =
    [] → completes (.invTimeout page) s fun t => (t.out = s.out ++
    [respOut 0xB0 w.plane.val { status := 0x0F, noCache := false, plain := false, dstFeng := w.srcFeng, dstNode := w.srcNode, tag := w.tag, detail := BitVec.ofNat 64 n, data := [], tc := w.tc }])
    ∧ t.tier.passes = [] ∧ s.changes t [.tier, .out] [] []) ∧
  (∀ (s : State) (page n : Nat) (ns : List Nat) (x : InvPass) (w : MemReq) (y : Outst), s.tier.passes = [x] → x.page
    = page → x.start + 1000000 ≤ s.now → x.awaited = n :: ns → (x.writer = some w) → w.srcNode = s.node → (s.reqSlot
    w.srcFeng w.tag = some y) → y.req = w → y.kind = .invalidate → y.owner = .issuer → s.noFwd w.srcFeng →
    s.tier.passQueue = [] → completes (.invTimeout page) s fun t => t.out = s.out ++
    [Out.localResp w.srcFeng w.tag 0x0F (bytesOfNat 8 n)] ∧ t.tier.passes = [] ∧ s.changes t [.tier, .out, .engines]
    [] []) ∧
  (∀ (s : State) (p : PartId) (key : Word), completes (.regionFlush p key) s fun t => (t.rrc = s.rrc.filter fun l =>
    !(l.part == p && l.key == key)) ∧ s.changes t [.rrc] [] [])

/-- On a ready engine QP_STATE_INIT takes a RESET QP with a legal context to INIT (an illegal one records RSV_ENC),
QP_STATE_RTS takes INIT to RTS with PSNs and maps cleared (the control QP also posts 16 receive entries),
QP_STATE_RESET takes INIT, and ERROR once its flush has ended, to RESET with its configuration kept, QP_STATE_ERROR
takes RTS to ERROR, drops its registrations and raises the interrupt; the state it is in changes nothing; any other
write records QP_BUSY. QP_ERROR_FLUSH_DONE empties an ERROR QP's rings once what is posted can be read. The
doorbells move SQ_TAIL, RQ_TAIL (16 bits) and CQ_HEAD; SQ_TAIL makes the engine read what is posted: a held WR is
registered, a malformed one fails with BAD_WR. Nothing else changes. On points the spec leaves open it states the
model's choices (notes/assumptions/24). -/
def Obligations.QueuePairsChangeState : Prop :=
  (∀ (s : State) (q : QpId), s.ready (.feng (engOfQp q)) = true → (s.qp q).st = .reset → (s.qp q).legal = true →
    completes (.qpStateInit q) s fun t => t.qp q = { s.qp q with st := .init } ∧ othersSame {} s.qps t.qps [q.val] ∧
    s.changes t [.qps] [] []) ∧
  (∀ (s : State) (q : QpId), s.ready (.feng (engOfQp q)) = true → (s.qp q).st = .reset → (s.qp q).legal = false →
    completes (.qpStateInit q) s fun t => s.erred t (.feng (engOfQp q)) 0x0E ∧ s.counted t (.feng (engOfQp q)) 0x68 ∧
    s.changes t [] (errPlaces (.feng (engOfQp q))) [(.feng (engOfQp q), 0x50), (.feng (engOfQp q), 0x68)]) ∧
  (∀ (s : State) (q : QpId), s.ready (.feng (engOfQp q)) = true → (s.qp q).st = .init → s.isControl q = false ∨ (s.qp
    q).recvOn = true → (s.qp q).regTo = (s.qp q).sqTail → (s.qp q).nextWr = (s.qp q).sqTail → completes (.qpStateRts
    q) s fun t => t.qp q =
    { s.qp q with st := .rts, nextPsn := 0, unaPsn := 0, epsn := 0, rxMap := 0, txMap := 0, sqPsn := 0, headAt := s.now, progressAt := s.now }
    ∧ othersSame {} s.qps t.qps [q.val] ∧ s.changes t [.qps] [] []) ∧
  (∀ (s : State) (q : QpId), s.ready (.feng (engOfQp q)) = true → (s.qp q).st = .init → s.isControl q = true → (s.qp
    q).recvOn = false → 4 ≤ (s.qp q).rqLog2 → s.writable (s.qp q).rqBase (16 * 2 ^ (s.qp q).rqLog2) = true → (s.qp
    q).regTo = (s.qp q).sqTail → (s.qp q).nextWr = (s.qp q).sqTail → completes (.qpStateRts q) s fun t => (t.qp q).st
    = .rts ∧ ((t.qp q).nextPsn = 0 ∧ (t.qp q).epsn = 0) ∧ (t.qp q).rqTail = ((s.qp q).rqTail + 16) % 2 ^ ((s.qp
    q).rqLog2 + 1) ∧ othersSame {} s.qps t.qps [q.val] ∧ (t.qp q).recvOn = true ∧ s.changes t
    [.qps, .tier, .out, .pwr, .mem, .digs] [] [(.tier, 0x90), (.pwr, 0xB0)]) ∧
  (∀ (s : State) (q : QpId), s.ready (.feng (engOfQp q)) = true → (s.qp q).st = .init ∨ (s.qp q).st = .error ∧ (s.qp
    q).flushed = true → completes (.qpStateReset q) s fun t => t.qp q =
    { tc := (s.qp q).tc, remNode := (s.qp q).remNode, remPart := (s.qp q).remPart, remQpn := (s.qp q).remQpn, sqBase := (s.qp q).sqBase, rqBase := (s.qp q).rqBase, cqBase := (s.qp q).cqBase, sqLog2 := (s.qp q).sqLog2, rqLog2 := (s.qp q).rqLog2, cqLog2 := (s.qp q).cqLog2, retryLimit := (s.qp q).retryLimit, rnrLimit := (s.qp q).rnrLimit, ackTo := (s.qp q).ackTo, rnrUs := (s.qp q).rnrUs, holdTo := (s.qp q).holdTo }
    ∧ (t.eng (engOfQp q) = { s.eng (engOfQp q) with trigs := (s.eng (engOfQp q)).trigs.filter fun u => u.qp ≠ q }) ∧
    t.tier = (s.disown (.qp q)).tier ∧ (t.mover (partOfQp q) =
    { s.mover (partOfQp q) with buffers := (s.mover (partOfQp q)).buffers.filter fun b => b.1 ≠ q.val }) ∧ othersSame
    {} s.movers t.movers [(partOfQp q).val] ∧ othersSame {} s.qps t.qps [q.val] ∧ othersSame {} s.engines t.engines
    [(engOfQp q).val] ∧ s.changes t [.qps, .engines, .tier, .movers] [] []) ∧
  (∀ (s : State) (q : QpId), s.ready (.feng (engOfQp q)) = true → (s.qp q).st = .rts → completes (.qpStateError q)
    s fun t => t.qp q = { s.qp q with st := .error, flushed := false, rnrAt := none } ∧ (t.eng (engOfQp q) =
    { s.eng (engOfQp q) with trigs := (s.eng (engOfQp q)).trigs.filter fun u => u.qp ≠ q }) ∧ s.raised t (.feng
    (engOfQp q)) 1 ∧ t.out = s.out ++ s.irqOut (.feng (engOfQp q)) 1 ∧ othersSame {} s.qps t.qps [q.val] ∧ othersSame
    {} s.engines t.engines [(engOfQp q).val] ∧ s.changes t [.qps, .engines, .out, .pcie] (irqPlaces (.feng (engOfQp
    q))) (irqCounts (.feng (engOfQp q)))) ∧
  (∀ (s : State) (q : QpId), (s.qp q).st = .init → completes (.qpStateInit q) s fun t => t = s) ∧
  (∀ (s : State) (q : QpId), (s.qp q).st = .rts → completes (.qpStateRts q) s fun t => t = s) ∧
  (∀ (s : State) (q : QpId), (s.qp q).st = .reset → completes (.qpStateReset q) s fun t => t = s) ∧
  (∀ (s : State) (q : QpId), (s.qp q).st = .error → completes (.qpStateError q) s fun t => t = s) ∧
  (∀ (s : State) (q : QpId), s.ready (.feng (engOfQp q)) = true → ∀ c ∈
    [(Instr.qpStateInit q, [QpState.rts, .error]), (.qpStateRts q, [.reset, .error]), (.qpStateReset q, [.rts]), (.qpStateError q, [.reset, .init])],
    (s.qp q).st ∈ c.2 → completes c.1 s fun t => s.erred t (.feng (engOfQp q)) 0x03 ∧ s.changes t [] (errPlaces
    (.feng (engOfQp q))) (errCounts (.feng (engOfQp q)))) ∧
  (∀ (s : State) (q : QpId), (s.qp q).st = .error → (s.qp q).flushed = false → s.isPool q = false → (∀ e ∈ (s.mover
    (partOfQp q)).ctxs, e.2.closed = false) → s.tier.answers = [] → s.readable (s.qp q).sqBase (64 * 2 ^ (s.qp
    q).sqLog2) → s.writable (s.qp q).cqBase (32 * 2 ^ (s.qp q).cqLog2) = true → completes (.qpErrorFlushDone q) s fun
    t => ((t.qp q).sqHead = (s.qp q).sqTail ∧ (t.qp q).nextWr = (s.qp q).sqTail ∧ (t.qp q).regTo = (s.qp q).sqTail ∧
    (t.qp q).rqHead = (s.qp q).rqTail) ∧ ((t.qp q).wrs = [] ∧ (t.qp q).rxWaits = [] ∧ (t.qp q).rqUsed = 0) ∧ (t.qp
    q).st = .error ∧ (t.qp q).flushed = (t.qp q).cqeWait.isEmpty ∧ othersSame {} s.qps t.qps [q.val] ∧ s.changes t
    [.qps, .tier, .out, .pwr, .mem, .digs] [] [(.feng (engOfQp q), 0x88), (.tier, 0x90), (.pwr, 0xB0)]) ∧
  (∀ (s : State) (q : QpId), (s.qp q).st ≠ .error ∨ (s.qp q).flushed = true → completes (.qpErrorFlushDone q) s fun t
    => t = s) ∧
  (∀ (s : State) (q : QpId) (value : Nat), s.ready (.feng (engOfQp q)) = true → value < 65536 → (s.qp q).st ≠ .rts →
    completes (.qpDbSqTail q value) s fun t => (t.qp q =
    { s.qp q with sqTail := value % 2 ^ ((s.qp q).sqLog2 + 1), headAt := if (s.qp q).nextWr = (s.qp q).sqTail then s.now else (s.qp q).headAt })
    ∧ othersSame {} s.qps t.qps [q.val] ∧ s.changes t [.qps] [] []) ∧
  (∀ (s : State) (q : QpId) (value : Nat) (u : State) (w : BitVec 512), s.ready (.feng (engOfQp q)) = true → value <
    65536 → (u = s.setQp q
    { s.qp q with sqTail := value % 2 ^ ((s.qp q).sqLog2 + 1), headAt := if (s.qp q).nextWr = (s.qp q).sqTail then s.now else (s.qp q).headAt })
    → u.canStart q = true → (s.qp q).regTo = (s.qp q).nextWr → (u.qp q).sqTail = (s.qp q).sqNext (s.qp q).nextWr →
    s.tier.answers = [] → s.readable ((s.qp q).sqBase + (s.qp q).nextWr % 2 ^ (s.qp q).sqLog2 * 64) 64 → w = s.ringWr
    q (s.qp q).nextWr → wrBad w = false → wrRegisters w = false → completes (.qpDbSqTail q value) s fun t => t.qp q =
    { u.qp q with regTo := (u.qp q).sqTail } ∧ othersSame {} s.qps t.qps [q.val] ∧ s.changes t
    [.qps, .tier, .out, .pwr] [] [(.tier, 0x90), (.pwr, 0xB0)]) ∧
  (∀ (s : State) (q : QpId) (value : Nat) (u : State) (w : BitVec 512), s.ready (.feng (engOfQp q)) = true → value <
    65536 → (u = s.setQp q
    { s.qp q with sqTail := value % 2 ^ ((s.qp q).sqLog2 + 1), headAt := if (s.qp q).nextWr = (s.qp q).sqTail then s.now else (s.qp q).headAt })
    → u.canStart q = true → (s.qp q).regTo = (s.qp q).nextWr → (u.qp q).sqTail = (s.qp q).sqNext (s.qp q).nextWr →
    s.tier.answers = [] → s.readable ((s.qp q).sqBase + (s.qp q).nextWr % 2 ^ (s.qp q).sqLog2 * 64) 64 → w = s.ringWr
    q (s.qp q).nextWr → wrBad w = true → s.isPool q = false → (s.qp q).wrs = [] → s.writable (s.qp q).cqBase (32 * 2
    ^ (s.qp q).cqLog2) = true → completes (.qpDbSqTail q value) s fun t => (t.qp q).st = .error ∧ Out.qpComplete q
    (wId w) 0x25 ∈ t.out ∧ s.counted t (.feng (engOfQp q)) 0x88 ∧ s.raised t (.feng (engOfQp q)) 1 ∧ othersSame {}
    s.qps t.qps [q.val] ∧ s.changes t [.qps, .engines, .tier, .out, .pwr, .mem, .digs, .pcie] (irqPlaces (.feng
    (engOfQp q))) ((.feng (engOfQp q), 0x88) :: [(.tier, 0x90), (.pwr, 0xB0)] ++ irqCounts (.feng (engOfQp q)))) ∧
  (∀ (s : State) (q : QpId) (value : Nat) (u : State) (w : BitVec 512), s.ready (.feng (engOfQp q)) = true → value <
    65536 → (u = s.setQp q
    { s.qp q with sqTail := value % 2 ^ ((s.qp q).sqLog2 + 1), headAt := if (s.qp q).nextWr = (s.qp q).sqTail then s.now else (s.qp q).headAt })
    → u.canStart q = true → (s.qp q).regTo = (s.qp q).nextWr → (u.qp q).sqTail = (s.qp q).sqNext (s.qp q).nextWr →
    s.tier.answers = [] → s.readable ((s.qp q).sqBase + (s.qp q).nextWr % 2 ^ (s.qp q).sqLog2 * 64) 64 → w = s.ringWr
    q (s.qp q).nextWr → wrRegisters w = true → (s.eng (engOfQp q)).trigs.length < 4096 → completes (.qpDbSqTail q
    value) s fun t => t.qp q = { u.qp q with regTo := (u.qp q).sqTail } ∧ (t.eng (engOfQp q) =
    { s.eng (engOfQp q) with trigs := (s.eng (engOfQp q)).trigs ++ [{ qp := q, index := (s.qp q).nextWr, wr := w, src := wTrigSrc w, tag := wTrigTag w, released := false, since := s.now }] })
    ∧ othersSame {} s.qps t.qps [q.val] ∧ othersSame {} s.engines t.engines [(engOfQp q).val] ∧ s.changes t
    [.qps, .engines, .tier, .out, .pwr] [] [(.tier, 0x90), (.pwr, 0xB0)]) ∧
  (∀ (s : State) (q : QpId) (value : Nat), s.ready (.feng (engOfQp q)) = true → value < 65536 → s.canStart q = false
    → completes (.qpDbRqTail q value) s fun t => t.qp q = { s.qp q with rqTail := value % 2 ^ ((s.qp q).rqLog2 + 1) }
    ∧ othersSame {} s.qps t.qps [q.val] ∧ s.changes t [.qps] [] []) ∧
  (∀ (s : State) (q : QpId) (value : Nat), s.ready (.feng (engOfQp q)) = true → 65536 ≤ value → ∀ c ∈
    [Instr.qpDbSqTail q value, .qpDbRqTail q value], completes c s fun t => s.erred t (.feng (engOfQp q)) 0x0E ∧
    s.counted t (.feng (engOfQp q)) 0x68 ∧ s.changes t [] (errPlaces (.feng (engOfQp q)))
    [(.feng (engOfQp q), 0x50), (.feng (engOfQp q), 0x68)]) ∧
  (∀ (s : State) (q : QpId) (value : Nat), s.ready (.feng (engOfQp q)) = true → (s.qp q).cqeWait = [] → (s.qp
    q).rqUsed = 0 ∨ (s.qp q).rqOpen.any (fun x => x.2.1 = (s.qp q).rqHead) = true → completes (.qpDbCqHead q value)
    s fun t => t.qp q = { s.qp q with cqHead := value % 2 ^ ((s.qp q).cqLog2 + 1) } ∧ othersSame {} s.qps t.qps
    [q.val] ∧ s.changes t [.qps] [] []) ∧
  (∀ (s : State) (q : QpId) (value : Nat) (c : BitVec 256 × Option Nat), s.ready (.feng (engOfQp q)) = true → (s.qp
    q).cqeWait = [c] → ringUsed (s.qp q).cqLog2 (value % 2 ^ ((s.qp q).cqLog2 + 1)) (s.qp q).cqTail < 2 ^ (s.qp
    q).cqLog2 → s.writable (s.qp q).cqBase (32 * 2 ^ (s.qp q).cqLog2) = true → (s.qp q).rqUsed = 0 → (s.qp q).st ≠
    .error → completes (.qpDbCqHead q value) s fun t => t.qp q =
    { s.qp q with cqHead := value % 2 ^ ((s.qp q).cqLog2 + 1), cqeWait := [], cqTail := ((s.qp q).cqTail + 1) % 2 ^ ((s.qp q).cqLog2 + 1) }
    ∧ othersSame {} s.qps t.qps [q.val] ∧ s.changes t [.qps, .tier, .out, .pwr, .mem, .digs] []
    [(.tier, 0x90), (.pwr, 0xB0)]) ∧
  (∀ (s : State) (q : QpId) (value : Nat) (c : BitVec 256 × Option Nat), s.ready (.feng (engOfQp q)) = true → (s.qp
    q).cqeWait = [c] → ringUsed (s.qp q).cqLog2 (value % 2 ^ ((s.qp q).cqLog2 + 1)) (s.qp q).cqTail < 2 ^ (s.qp
    q).cqLog2 → s.writable (s.qp q).cqBase (32 * 2 ^ (s.qp q).cqLog2) = true → (s.qp q).rqUsed = 0 → (s.qp q).st =
    .error → (s.qp q).sqHead = (s.qp q).sqTail → (s.qp q).rqHead = (s.qp q).rqTail → (s.qp q).wrs = [] → (∀ e ∈
    (s.mover (partOfQp q)).ctxs, e.2.closed = false) → completes (.qpDbCqHead q value) s fun t => t.qp q =
    { s.qp q with cqHead := value % 2 ^ ((s.qp q).cqLog2 + 1), cqeWait := [], cqTail := ((s.qp q).cqTail + 1) % 2 ^ ((s.qp q).cqLog2 + 1), flushed := true }
    ∧ othersSame {} s.qps t.qps [q.val] ∧ s.changes t [.qps, .tier, .out, .pwr, .mem, .digs] []
    [(.tier, 0x90), (.pwr, 0xB0)])

/-- The WR at the head of a QP in RTS, well formed, released and with nothing before it, starts at its own command
(WR_WRITE, WR_READ, WR_SEND with no mover message waiting, WR_WRITE_TRIGGER, WR_FLUSH, WR_CANCEL; TRIG_TIMER_EXPIRE
for a TIMER trigger, which starts no WR that is not released): it takes its PSNs, and its packet leaves on the QP's
plane with the opcode and fields of Tables 08-7 and 08-8. HELD_WR_REGISTER enters the next held WR in the trigger
table, or completes it with TRIG_FULL; TRIG_FIRE releases the registrations that name its tag; HOLD_EXPIRED
completes an unreleased WR with HOLD_TIMEOUT. Nothing else changes. On points the spec leaves open it states the
model's choices (notes/assumptions/24). -/
def Obligations.WorkRequestsStart : Prop :=
  (∀ (s : State) (q : QpId) (w : BitVec 512) (plane : Nat), (s.qp q).st = .rts → (s.qp q).nextWr ≠ (s.qp q).sqTail →
    (s.qp q).cqFull = false → (s.qp q).cqeWait = [] → s.fenced (partOfQp q) = false → s.ready (.feng (engOfQp q)) =
    true → s.readable ((s.qp q).sqBase + (s.qp q).nextWr % 2 ^ (s.qp q).sqLog2 * 64) 64 → s.tier.answers = [] → w =
    s.ringWr q (s.qp q).nextWr → wrBad w = false → (s.qp q).wrs = [] → (s.qp q).nextPsn = (s.qp q).sqPsn → (s.qp
    q).unaPsn = (s.qp q).sqPsn → wLen w ≤ 1024 → (s.qpPlane q = some plane) → wOp w = 0 → s.isReleased q (s.qp
    q).nextWr w false = true → (wLen w ≠ 0 → s.readable (wLocal w) (wLen w)) → completes (.wrWrite q) s fun t =>
    t.out = s.out ++
    [qpReqOut 0x40 plane { tc := (s.qp q).tc, last := true, place := wPlace w, prov := wProv w, replace := wReplace w, srcNode := s.node, dstQpn := (s.qp q).remQpn, psn := (s.qp q).sqPsn % 2 ^ 24, specEpoch := wSpec w, node := (s.qp q).remNode, part := (s.qp q).remPart, offset := wRemote w, key := wKey w, gen := wGen w, fireTag := 0, imm := wImm w, epoch := s.epoch % 65536, srcQpn := q, wrLen := wLen w, payload := s.rd (wLocal w) (wLen w) }]
    ∧ (t.qp q =
    { s.qp q with wrs := [{ index := (s.qp q).nextWr, wr := w, psn := (s.qp q).sqPsn, packets := 1, answered := false, delivered := false, done := false, rnr := 0 }], sqPsn := ((s.qp q).sqPsn + 1) % 2 ^ 24, nextPsn := ((s.qp q).sqPsn + 1) % 2 ^ 24, nextWr := (s.qp q).sqNext (s.qp q).nextWr, regTo := if (s.qp q).regTo = (s.qp q).nextWr then (s.qp q).sqNext (s.qp q).nextWr else (s.qp q).regTo, provSent := if wProv w then (s.qp q).provSent ++ [(wSpec w, wLocal w / 65536)] else (s.qp q).provSent, headAt := s.now, progressAt := s.now, lastPlane := some plane })
    ∧ (t.eng (engOfQp q)).spray = (plane + 1) % 32 ∧ othersSame {} s.qps t.qps [q.val] ∧ othersSame {} s.engines
    t.engines [(engOfQp q).val] ∧ s.changes t [.qps, .engines, .out, .tier, .pwr] [] [(.tier, 0x90), (.pwr, 0xB0)]) ∧
  (∀ (s : State) (q : QpId) (w : BitVec 512) (plane : Nat), (s.qp q).st = .rts → (s.qp q).nextWr ≠ (s.qp q).sqTail →
    (s.qp q).cqFull = false → (s.qp q).cqeWait = [] → s.fenced (partOfQp q) = false → s.ready (.feng (engOfQp q)) =
    true → s.readable ((s.qp q).sqBase + (s.qp q).nextWr % 2 ^ (s.qp q).sqLog2 * 64) 64 → s.tier.answers = [] → w =
    s.ringWr q (s.qp q).nextWr → wrBad w = false → (s.qp q).wrs = [] → (s.qp q).nextPsn = (s.qp q).sqPsn → (s.qp
    q).unaPsn = (s.qp q).sqPsn → wLen w ≤ 1024 → (s.qpPlane q = some plane) → wOp w = 1 → s.isReleased q (s.qp
    q).nextWr w false = true → completes (.wrRead q) s fun t => t.out = s.out ++
    [qpReqOut 0x42 plane { tc := (s.qp q).tc, last := true, place := wPlace w, prov := wProv w, replace := wReplace w, srcNode := s.node, dstQpn := (s.qp q).remQpn, psn := (s.qp q).sqPsn % 2 ^ 24, specEpoch := wSpec w, node := (s.qp q).remNode, part := (s.qp q).remPart, offset := wRemote w, key := wKey w, gen := wGen w, fireTag := 0, imm := wImm w, epoch := s.epoch % 65536, srcQpn := q, wrLen := wLen w, payload := [] }]
    ∧ (t.qp q =
    { s.qp q with wrs := [{ index := (s.qp q).nextWr, wr := w, psn := (s.qp q).sqPsn, packets := 1, answered := false, delivered := false, done := false, rnr := 0 }], sqPsn := ((s.qp q).sqPsn + 1) % 2 ^ 24, nextPsn := ((s.qp q).sqPsn + 1) % 2 ^ 24, nextWr := (s.qp q).sqNext (s.qp q).nextWr, regTo := if (s.qp q).regTo = (s.qp q).nextWr then (s.qp q).sqNext (s.qp q).nextWr else (s.qp q).regTo, provSent := if wProv w then (s.qp q).provSent ++ [(wSpec w, wLocal w / 65536)] else (s.qp q).provSent, headAt := s.now, progressAt := s.now, lastPlane := some plane })
    ∧ (t.eng (engOfQp q)).spray = (plane + 1) % 32 ∧ othersSame {} s.qps t.qps [q.val] ∧ othersSame {} s.engines
    t.engines [(engOfQp q).val] ∧ s.changes t [.qps, .engines, .out, .tier, .pwr] [] [(.tier, 0x90), (.pwr, 0xB0)]) ∧
  (∀ (s : State) (q : QpId) (w : BitVec 512) (plane : Nat), (s.qp q).st = .rts → (s.qp q).nextWr ≠ (s.qp q).sqTail →
    (s.qp q).cqFull = false → (s.qp q).cqeWait = [] → s.fenced (partOfQp q) = false → s.ready (.feng (engOfQp q)) =
    true → s.readable ((s.qp q).sqBase + (s.qp q).nextWr % 2 ^ (s.qp q).sqLog2 * 64) 64 → s.tier.answers = [] → w =
    s.ringWr q (s.qp q).nextWr → wrBad w = false → (s.qp q).wrs = [] → (s.qp q).nextPsn = (s.qp q).sqPsn → (s.qp
    q).unaPsn = (s.qp q).sqPsn → wLen w ≤ 1024 → (s.qpPlane q = some plane) → wOp w = 2 → (s.mover (partOfQp
    q)).outbox = [] → s.isReleased q (s.qp q).nextWr w false = true → (wLen w ≠ 0 → s.readable (wLocal w) (wLen w)) →
    completes (.wrSend q) s fun t => t.out = s.out ++
    [qpReqOut 0x43 plane { tc := (s.qp q).tc, last := true, place := wPlace w, prov := wProv w, replace := wReplace w, srcNode := s.node, dstQpn := (s.qp q).remQpn, psn := (s.qp q).sqPsn % 2 ^ 24, specEpoch := wSpec w, node := (s.qp q).remNode, part := (s.qp q).remPart, offset := 0, key := 0, gen := 0, fireTag := 0, imm := wImm w, epoch := s.epoch % 65536, srcQpn := q, wrLen := wLen w, payload := s.rd (wLocal w) (wLen w) }]
    ∧ (t.qp q =
    { s.qp q with wrs := [{ index := (s.qp q).nextWr, wr := w, psn := (s.qp q).sqPsn, packets := 1, answered := false, delivered := false, done := false, rnr := 0 }], sqPsn := ((s.qp q).sqPsn + 1) % 2 ^ 24, nextPsn := ((s.qp q).sqPsn + 1) % 2 ^ 24, nextWr := (s.qp q).sqNext (s.qp q).nextWr, regTo := if (s.qp q).regTo = (s.qp q).nextWr then (s.qp q).sqNext (s.qp q).nextWr else (s.qp q).regTo, provSent := if wProv w then (s.qp q).provSent ++ [(wSpec w, wLocal w / 65536)] else (s.qp q).provSent, headAt := s.now, progressAt := s.now, lastPlane := some plane })
    ∧ (t.eng (engOfQp q)).spray = (plane + 1) % 32 ∧ othersSame {} s.qps t.qps [q.val] ∧ othersSame {} s.engines
    t.engines [(engOfQp q).val] ∧ s.changes t [.qps, .engines, .out, .tier, .pwr] [] [(.tier, 0x90), (.pwr, 0xB0)]) ∧
  (∀ (s : State) (q : QpId) (w : BitVec 512) (plane : Nat), (s.qp q).st = .rts → (s.qp q).nextWr ≠ (s.qp q).sqTail →
    (s.qp q).cqFull = false → (s.qp q).cqeWait = [] → s.fenced (partOfQp q) = false → s.ready (.feng (engOfQp q)) =
    true → s.readable ((s.qp q).sqBase + (s.qp q).nextWr % 2 ^ (s.qp q).sqLog2 * 64) 64 → s.tier.answers = [] → w =
    s.ringWr q (s.qp q).nextWr → wrBad w = false → (s.qp q).wrs = [] → (s.qp q).nextPsn = (s.qp q).sqPsn → (s.qp
    q).unaPsn = (s.qp q).sqPsn → wLen w ≤ 1024 → (s.qpPlane q = some plane) → wOp w = 3 → s.isReleased q (s.qp
    q).nextWr w false = true → (wLen w ≠ 0 → s.readable (wLocal w) (wLen w)) → completes (.wrWriteTrigger q) s fun t
    => t.out = s.out ++
    [qpReqOut 0x41 plane { tc := (s.qp q).tc, last := true, place := wPlace w, prov := wProv w, replace := wReplace w, srcNode := s.node, dstQpn := (s.qp q).remQpn, psn := (s.qp q).sqPsn % 2 ^ 24, specEpoch := wSpec w, node := (s.qp q).remNode, part := (s.qp q).remPart, offset := wRemote w, key := wKey w, gen := wGen w, fireTag := wFireTag w, imm := wImm w, epoch := s.epoch % 65536, srcQpn := q, wrLen := wLen w, payload := s.rd (wLocal w) (wLen w) }]
    ∧ (t.qp q =
    { s.qp q with wrs := [{ index := (s.qp q).nextWr, wr := w, psn := (s.qp q).sqPsn, packets := 1, answered := false, delivered := false, done := false, rnr := 0 }], sqPsn := ((s.qp q).sqPsn + 1) % 2 ^ 24, nextPsn := ((s.qp q).sqPsn + 1) % 2 ^ 24, nextWr := (s.qp q).sqNext (s.qp q).nextWr, regTo := if (s.qp q).regTo = (s.qp q).nextWr then (s.qp q).sqNext (s.qp q).nextWr else (s.qp q).regTo, provSent := if wProv w then (s.qp q).provSent ++ [(wSpec w, wLocal w / 65536)] else (s.qp q).provSent, headAt := s.now, progressAt := s.now, lastPlane := some plane })
    ∧ (t.eng (engOfQp q)).spray = (plane + 1) % 32 ∧ othersSame {} s.qps t.qps [q.val] ∧ othersSame {} s.engines
    t.engines [(engOfQp q).val] ∧ s.changes t [.qps, .engines, .out, .tier, .pwr] [] [(.tier, 0x90), (.pwr, 0xB0)]) ∧
  (∀ (s : State) (q : QpId) (w : BitVec 512) (plane : Nat), (s.qp q).st = .rts → (s.qp q).nextWr ≠ (s.qp q).sqTail →
    (s.qp q).cqFull = false → (s.qp q).cqeWait = [] → s.fenced (partOfQp q) = false → s.ready (.feng (engOfQp q)) =
    true → s.readable ((s.qp q).sqBase + (s.qp q).nextWr % 2 ^ (s.qp q).sqLog2 * 64) 64 → s.tier.answers = [] → w =
    s.ringWr q (s.qp q).nextWr → wrBad w = false → (s.qp q).wrs = [] → (s.qp q).nextPsn = (s.qp q).sqPsn → (s.qp
    q).unaPsn = (s.qp q).sqPsn → wLen w ≤ 1024 → (s.qpPlane q = some plane) → wOp w = 4 → s.isReleased q (s.qp
    q).nextWr w false = true → completes (.wrFlush q) s fun t => t.out = s.out ++
    [qpReqOut 0x44 plane { tc := (s.qp q).tc, last := true, place := wPlace w, prov := wProv w, replace := wReplace w, srcNode := s.node, dstQpn := (s.qp q).remQpn, psn := (s.qp q).sqPsn % 2 ^ 24, specEpoch := wSpec w, node := (s.qp q).remNode, part := (s.qp q).remPart, offset := 0, key := 0, gen := 0, fireTag := 0, imm := wImm w, epoch := s.epoch % 65536, srcQpn := q, wrLen := wLen w, payload := [] }]
    ∧ (t.qp q =
    { s.qp q with wrs := [{ index := (s.qp q).nextWr, wr := w, psn := (s.qp q).sqPsn, packets := 1, answered := false, delivered := false, done := false, rnr := 0 }], sqPsn := ((s.qp q).sqPsn + 1) % 2 ^ 24, nextPsn := ((s.qp q).sqPsn + 1) % 2 ^ 24, nextWr := (s.qp q).sqNext (s.qp q).nextWr, regTo := if (s.qp q).regTo = (s.qp q).nextWr then (s.qp q).sqNext (s.qp q).nextWr else (s.qp q).regTo, provSent := if wProv w then (s.qp q).provSent ++ [(wSpec w, wLocal w / 65536)] else (s.qp q).provSent, headAt := s.now, progressAt := s.now, lastPlane := some plane })
    ∧ (t.eng (engOfQp q)).spray = (plane + 1) % 32 ∧ othersSame {} s.qps t.qps [q.val] ∧ othersSame {} s.engines
    t.engines [(engOfQp q).val] ∧ s.changes t [.qps, .engines, .out, .tier, .pwr] [] [(.tier, 0x90), (.pwr, 0xB0)]) ∧
  (∀ (s : State) (q : QpId) (w : BitVec 512) (plane : Nat), (s.qp q).st = .rts → (s.qp q).nextWr ≠ (s.qp q).sqTail →
    (s.qp q).cqFull = false → (s.qp q).cqeWait = [] → s.fenced (partOfQp q) = false → s.ready (.feng (engOfQp q)) =
    true → s.readable ((s.qp q).sqBase + (s.qp q).nextWr % 2 ^ (s.qp q).sqLog2 * 64) 64 → s.tier.answers = [] → w =
    s.ringWr q (s.qp q).nextWr → wrBad w = false → (s.qp q).wrs = [] → (s.qp q).nextPsn = (s.qp q).sqPsn → (s.qp
    q).unaPsn = (s.qp q).sqPsn → wLen w ≤ 1024 → (s.qpPlane q = some plane) → wOp w = 5 → s.isReleased q (s.qp
    q).nextWr w false = true → completes (.wrCancel q) s fun t => t.out = s.out ++
    [qpReqOut 0x45 plane { tc := (s.qp q).tc, last := true, place := wPlace w, prov := wProv w, replace := wReplace w, srcNode := s.node, dstQpn := (s.qp q).remQpn, psn := (s.qp q).sqPsn % 2 ^ 24, specEpoch := wSpec w, node := (s.qp q).remNode, part := (s.qp q).remPart, offset := 0, key := 0, gen := 0, fireTag := 0, imm := wImm w, epoch := s.epoch % 65536, srcQpn := q, wrLen := wLen w, payload := [] }]
    ∧ (t.qp q =
    { s.qp q with wrs := [{ index := (s.qp q).nextWr, wr := w, psn := (s.qp q).sqPsn, packets := 1, answered := false, delivered := false, done := false, rnr := 0 }], sqPsn := ((s.qp q).sqPsn + 1) % 2 ^ 24, nextPsn := ((s.qp q).sqPsn + 1) % 2 ^ 24, nextWr := (s.qp q).sqNext (s.qp q).nextWr, regTo := if (s.qp q).regTo = (s.qp q).nextWr then (s.qp q).sqNext (s.qp q).nextWr else (s.qp q).regTo, provSent := (s.qp q).provSent.filter fun e => decide ((wSpec w + 256 - e.1 % 256) % 256 ≥ 128), headAt := s.now, progressAt := s.now, lastPlane := some plane })
    ∧ (t.eng (engOfQp q)).spray = (plane + 1) % 32 ∧ othersSame {} s.qps t.qps [q.val] ∧ othersSame {} s.engines
    t.engines [(engOfQp q).val] ∧ s.changes t [.qps, .engines, .out, .tier, .pwr] [] [(.tier, 0x90), (.pwr, 0xB0)]) ∧
  (∀ (s : State) (q : QpId) (w : BitVec 512) (plane : Nat), (s.qp q).st = .rts → (s.qp q).nextWr ≠ (s.qp q).sqTail →
    (s.qp q).cqFull = false → (s.qp q).cqeWait = [] → s.fenced (partOfQp q) = false → s.ready (.feng (engOfQp q)) =
    true → s.readable ((s.qp q).sqBase + (s.qp q).nextWr % 2 ^ (s.qp q).sqLog2 * 64) 64 → s.tier.answers = [] → w =
    s.ringWr q (s.qp q).nextWr → wrBad w = false → (s.qp q).wrs = [] → (s.qp q).nextPsn = (s.qp q).sqPsn → (s.qp
    q).unaPsn = (s.qp q).sqPsn → wLen w ≤ 1024 → (s.qpPlane q = some plane) → wHeld w = true → wTrigSrc w = 3 → (s.qp
    q).headAt + wTrigTag w * 1000 ≤ s.now → wOp w = 0 → (wLen w ≠ 0 → s.readable (wLocal w) (wLen w)) → completes
    (.trigTimerExpire q) s fun t => t.out = s.out ++
    [qpReqOut 0x40 plane { tc := (s.qp q).tc, last := true, place := wPlace w, prov := wProv w, replace := wReplace w, srcNode := s.node, dstQpn := (s.qp q).remQpn, psn := (s.qp q).sqPsn % 2 ^ 24, specEpoch := wSpec w, node := (s.qp q).remNode, part := (s.qp q).remPart, offset := wRemote w, key := wKey w, gen := wGen w, fireTag := 0, imm := wImm w, epoch := s.epoch % 65536, srcQpn := q, wrLen := wLen w, payload := s.rd (wLocal w) (wLen w) }]
    ∧ (t.qp q =
    { s.qp q with wrs := [{ index := (s.qp q).nextWr, wr := w, psn := (s.qp q).sqPsn, packets := 1, answered := false, delivered := false, done := false, rnr := 0 }], sqPsn := ((s.qp q).sqPsn + 1) % 2 ^ 24, nextPsn := ((s.qp q).sqPsn + 1) % 2 ^ 24, nextWr := (s.qp q).sqNext (s.qp q).nextWr, regTo := if (s.qp q).regTo = (s.qp q).nextWr then (s.qp q).sqNext (s.qp q).nextWr else (s.qp q).regTo, provSent := if wProv w then (s.qp q).provSent ++ [(wSpec w, wLocal w / 65536)] else (s.qp q).provSent, headAt := s.now, progressAt := s.now, lastPlane := some plane })
    ∧ (t.eng (engOfQp q)).spray = (plane + 1) % 32 ∧ othersSame {} s.qps t.qps [q.val] ∧ othersSame {} s.engines
    t.engines [(engOfQp q).val] ∧ s.changes t [.qps, .engines, .out, .tier, .pwr] [] [(.tier, 0x90), (.pwr, 0xB0)]) ∧
  (∀ (s : State) (q : QpId) (w : BitVec 512), (s.qp q).wrs = [] → (s.qp q).nextPsn = (s.qp q).sqPsn → s.tier.answers
    = [] → s.canStart q = true → s.readable ((s.qp q).sqBase + (s.qp q).nextWr % 2 ^ (s.qp q).sqLog2 * 64) 64 → w =
    s.ringWr q (s.qp q).nextWr → wrBad w = false → s.isReleased q (s.qp q).nextWr w false = false → wTrigSrc w ≠ 3 ∨
    s.now < (s.qp q).headAt + wTrigTag w * 1000 → completes (.trigTimerExpire q) s fun t => t.qp q = s.qp q ∧
    othersSame {} s.qps t.qps [q.val] ∧ s.changes t [.qps, .tier, .out, .pwr] [] [(.tier, 0x90), (.pwr, 0xB0)]) ∧
  (∀ (s : State) (q : QpId) (w : BitVec 512), (s.qp q).st = .rts → (s.qp q).regTo ≠ (s.qp q).sqTail → s.tier.answers
    = [] → s.readable ((s.qp q).sqBase + (s.qp q).regTo % 2 ^ (s.qp q).sqLog2 * 64) 64 → w = s.ringWr q (s.qp
    q).regTo → wrRegisters w = true → (s.eng (engOfQp q)).trigs.length < 4096 → s.isPool q = false ∨ (∀ e ∈ (s.mover
    (partOfQp q)).ctxs, e.2.state ≠ 1) → completes (.heldWrRegister q) s fun t => t.eng (engOfQp q) =
    { s.eng (engOfQp q) with trigs := (s.eng (engOfQp q)).trigs ++ [({ qp := q, index := (s.qp q).regTo, wr := w, src := wTrigSrc w, tag := wTrigTag w, released := false, since := s.now } : Trig)] }
    ∧ t.qp q = { s.qp q with regTo := (s.qp q).sqNext (s.qp q).regTo } ∧ othersSame {} s.qps t.qps [q.val] ∧
    othersSame {} s.engines t.engines [(engOfQp q).val] ∧ s.changes t [.engines, .qps, .tier, .out, .pwr] []
    [(.tier, 0x90), (.pwr, 0xB0)]) ∧
  (∀ (s : State) (q : QpId) (w : BitVec 512), (s.qp q).st = .rts → (s.qp q).regTo ≠ (s.qp q).sqTail → s.tier.answers
    = [] → s.readable ((s.qp q).sqBase + (s.qp q).regTo % 2 ^ (s.qp q).sqLog2 * 64) 64 → w = s.ringWr q (s.qp
    q).regTo → wrRegisters w = true → 4096 ≤ (s.eng (engOfQp q)).trigs.length → s.isPool q = false → (s.qp q).wrs =
    [] → (s.qp q).cqFull = false → (s.qp q).cqeWait = [] → s.writable (s.qp q).cqBase (32 * 2 ^ (s.qp q).cqLog2) =
    true → completes (.heldWrRegister q) s fun t => Out.qpComplete q (wId w) 0x28 ∈ t.out ∧ s.counted t (.feng
    (engOfQp q)) 0x88 ∧ (t.qp q).st = .rts ∧ (t.qp q).regTo = (s.qp q).sqNext (s.qp q).regTo ∧ othersSame {} s.qps
    t.qps [q.val] ∧ s.changes t [.qps, .tier, .out, .pwr, .mem, .digs] [] ((.feng (engOfQp q), 0x88) ::
    [(.tier, 0x90), (.pwr, 0xB0)])) ∧
  (∀ (s : State) (q : QpId), (s.qp q).regTo = (s.qp q).sqTail → s.isPool q = false → completes (.heldWrRegister q)
    s fun t => t = s) ∧
  (∀ (s : State) (e : EngId) (tag : Nat), s.ready (.feng e) = true → tag < 65536 → completes (.trigFire e tag) s fun
    t => (∀ k ∈ [engOf (partOfEng e) 0, engOf (partOfEng e) 1], (t.eng k).trigs = (s.eng k).trigs.map fun u => if
    u.src == 4 && u.tag == tag then { u with released := true } else u) ∧ othersSame {} s.engines t.engines
    [(engOf (partOfEng e) 0).val, (engOf (partOfEng e) 1).val] ∧ s.changes t [.engines] []
    [(.feng (engOf (partOfEng e) 0), 0xD0), (.feng (engOf (partOfEng e) 1), 0xD0), (.feng (engOf (partOfEng e) 0), 0xD8)]) ∧
  (∀ (s : State) (q : QpId) (index : Nat) (u : Trig), ((s.eng (engOfQp q)).trigs.find? (fun x => x.qp = q ∧ x.index =
    index ∧ ¬ x.released) = some u) → (s.qp q).st = .rts → (s.qp q).holdTo ≠ 0 → u.since + (s.qp q).holdTo * 1000 ≤
    s.now → s.isPool q = false → (s.qp q).wrs = [] → (s.qp q).cqFull = false → (s.qp q).cqeWait = [] → s.writable
    (s.qp q).cqBase (32 * 2 ^ (s.qp q).cqLog2) = true → completes (.holdExpired q index) s fun t => Out.qpComplete q
    (wId u.wr) 0x27 ∈ t.out ∧ s.counted t (.feng (engOfQp q)) 0xE0 ∧ s.counted t (.feng (engOfQp q)) 0x88 ∧ s.raised
    t (.feng (engOfQp q)) 2 ∧ ((t.eng (engOfQp q)).trigs = (s.eng (engOfQp q)).trigs.filter fun x => !(x.qp == q &&
    x.index == index)) ∧ (t.qp q).st = .rts ∧ othersSame {} s.qps t.qps [q.val] ∧ othersSame {} s.engines t.engines
    [(engOfQp q).val] ∧ s.changes t [.qps, .engines, .tier, .out, .pwr, .mem, .digs, .pcie] (irqPlaces (.feng
    (engOfQp q))) ((.feng (engOfQp q), 0xE0) :: (.feng (engOfQp q), 0x88) :: [(.tier, 0x90), (.pwr, 0xB0)] ++
    irqCounts (.feng (engOfQp q)))) ∧
  (∀ (s : State) (q : QpId) (index : Nat) (u : Trig), ((s.eng (engOfQp q)).trigs.find? (fun x => x.qp = q ∧ x.index =
    index ∧ ¬ x.released) = some u) → (s.qp q).holdTo = 0 ∨ s.now < u.since + (s.qp q).holdTo * 1000 → completes
    (.holdExpired q index) s fun t => t = s)

/-- A packet of the QP's peer at the expected PSN that passes every check is received: EPSN advances. QWRITE stores
its payload at its offset, and answers with QPLACE_ACK when it asks for placement; QWRITE_TRIG stores it and waits
to take effect; QREAD_REQ is answered with the bytes; QSEND of one packet is placed in the next receive buffer and
its entry is used and reported; QFLUSH and QCANCEL wait for what came before. A packet to a QP in RESET or INIT is
answered RNR, to one in ERROR or of another peer QP_ERROR, to a partition in reset or fenced with its code, one that
fails a check with the check's code; a duplicate is counted and acknowledged; one beyond the window is counted.
Every answer takes a plane of its own. Nothing else changes. On points the spec leaves open it states the model's
choices (notes/assumptions/24). -/
def Obligations.QueuePairPacketsAreReceived : Prop :=
  (∀ (s : State) (r : QpReq) (q : QpId) (home : TierName) (page : Nat), q = r.dstQpn → s.inReset (partOfQp q) = false
    → s.fenced (partOfQp q) = false → s.inReset r.part = false → s.fenced r.part = false → (s.qp q).st = .rts → (s.qp
    q).remNode = r.srcNode → (s.qp q).remQpn = r.srcQpn → (s.qp q).epsn = r.psn → r.psn < 2 ^ 24 → (s.qp q).rxMap = 0
    → s.qpCheck 0x40 r = none → page = pageOf r.offset → r.offset % 65536 + r.payload.length ≤ 65536 → (s.leaf
    page).st = .resident home → s.heldOn page = [] → s.mig page = none → (s.qp q).lenErr = [] → (s.qp q).reached = []
    → r.prov = false ∨ s.rxCtxOf q = none → (s.qp q).stale r = false → (s.qp q).unplaced = [] → (s.qp q).rxWaits = []
    → ¬ (r.last = true ∧ r.place = true) → completes (.qwrite r) s fun t => Map.bytes t.mem r.offset r.payload.length
    = r.payload ∧ bytesSame s.mem t.mem r.offset r.payload.length ∧ othersSame {} s.qps t.qps [q.val] ∧ (t.qp q =
    { s.qp q with epsn := (r.psn + 1) % 2 ^ 24, ackFrom := if (s.qp q).toAck = 0 then s.now else (s.qp q).ackFrom, toAck := (s.qp q).toAck + 1, reached := if s.wholePages 0x40 r = true then [firstPsn r.psn r.offset] else [] })
    ∧ t.out = s.out ∧ s.changes t [.qps, .tier, .pwr, .mem, .digs, .out] [] [(.tier, 0x90), (.pwr, 0xB0)]) ∧
  (∀ (s : State) (r : QpReq) (q : QpId) (home : TierName) (page : Nat), q = r.dstQpn → s.inReset (partOfQp q) = false
    → s.fenced (partOfQp q) = false → s.inReset r.part = false → s.fenced r.part = false → (s.qp q).st = .rts → (s.qp
    q).remNode = r.srcNode → (s.qp q).remQpn = r.srcQpn → (s.qp q).epsn = r.psn → r.psn < 2 ^ 24 → (s.qp q).rxMap = 0
    → s.qpCheck 0x40 r = none → page = pageOf r.offset → r.offset % 65536 + r.payload.length ≤ 65536 → (s.leaf
    page).st = .resident home → s.heldOn page = [] → s.mig page = none → (s.qp q).lenErr = [] → (s.qp q).reached = []
    → r.prov = false ∨ s.rxCtxOf q = none → (s.qp q).stale r = false → (s.qp q).unplaced = [] → (s.qp q).rxWaits = []
    → r.last = true → r.place = true → r.wrLen ≤ 1024 → completes (.qwrite r) s fun t => Map.bytes t.mem r.offset
    r.payload.length = r.payload ∧ bytesSame s.mem t.mem r.offset r.payload.length ∧ othersSame {} s.qps t.qps
    [q.val] ∧ (t.qp q =
    { s.qp q with epsn := (r.psn + 1) % 2 ^ 24, ackFrom := if (s.qp q).toAck = 0 then s.now else (s.qp q).ackFrom, toAck := (s.qp q).toAck + 1, reached := if s.wholePages 0x40 r = true then [firstPsn r.psn r.offset] else [], lateCode := none })
    ∧ t.out = s.out ++ s.qpAnswer q 0xC2
    { status := (s.qp q).lateCode.getD 0, dstNode := (s.qp q).remNode, dstQpn := (s.qp q).remQpn, psn := r.psn, sack := 0, payload := [] }
    ∧ othersSame {} s.engines t.engines [(engOfQp q).val] ∧ s.changes t
    [.qps, .engines, .tier, .pwr, .mem, .digs, .out] [] [(.tier, 0x90), (.pwr, 0xB0)]) ∧
  (∀ (s : State) (r : QpReq) (q : QpId) (home : TierName) (page : Nat), q = r.dstQpn → s.inReset (partOfQp q) = false
    → s.fenced (partOfQp q) = false → s.inReset r.part = false → s.fenced r.part = false → (s.qp q).st = .rts → (s.qp
    q).remNode = r.srcNode → (s.qp q).remQpn = r.srcQpn → (s.qp q).epsn = r.psn → r.psn < 2 ^ 24 → (s.qp q).rxMap = 0
    → s.qpCheck 0x41 r = none → page = pageOf r.offset → r.offset % 65536 + r.payload.length ≤ 65536 → (s.leaf
    page).st = .resident home → s.heldOn page = [] → s.mig page = none → (s.qp q).lenErr = [] → (s.qp q).reached = []
    → r.prov = false ∨ s.rxCtxOf q = none → (s.qp q).stale r = false → (s.qp q).unplaced = [] → (s.qp q).rxWaits = []
    → r.last = true → r.payload ≠ [] → completes (.qwriteTrig r) s fun t => Map.bytes t.mem r.offset r.payload.length
    = r.payload ∧ bytesSame s.mem t.mem r.offset r.payload.length ∧ othersSame {} s.qps t.qps [q.val] ∧ (t.qp q =
    { s.qp q with epsn := (r.psn + 1) % 2 ^ 24, ackFrom := if (s.qp q).toAck = 0 then s.now else (s.qp q).ackFrom, toAck := (s.qp q).toAck + 1, reached := if s.wholePages 0x41 r = true then [firstPsn r.psn r.offset] else [], rxWaits := [{ op := 0x41, psn := r.psn, req := r, done := false }] })
    ∧ t.out = s.out ∧ s.changes t [.qps, .tier, .pwr, .mem, .digs, .out] [] [(.tier, 0x90), (.pwr, 0xB0)]) ∧
  (∀ (s : State) (r : QpReq) (q : QpId), q = r.dstQpn → s.inReset (partOfQp q) = false → s.fenced (partOfQp q) =
    false → s.inReset r.part = false → s.fenced r.part = false → (s.qp q).st = .rts → (s.qp q).remNode = r.srcNode →
    (s.qp q).remQpn = r.srcQpn → (s.qp q).epsn = r.psn → r.psn < 2 ^ 24 → (s.qp q).rxMap = 0 → s.qpCheck 0x41 r =
    none → (s.qp q).lenErr = [] → (s.qp q).reached = [] → r.prov = false ∨ s.rxCtxOf q = none → (s.qp q).unplaced =
    [] → (s.qp q).rxWaits = [] → r.last = true → r.payload = [] → completes (.qwriteTrig r) s fun t => (t.qp q =
    { s.qp q with epsn := (r.psn + 1) % 2 ^ 24, ackFrom := if (s.qp q).toAck = 0 then s.now else (s.qp q).ackFrom, toAck := (s.qp q).toAck + 1, rxWaits := [{ op := 0x41, psn := r.psn, req := r, done := false }] })
    ∧ othersSame {} s.qps t.qps [q.val] ∧ s.changesOn t [.qps] [.move (partOfQp q)]) ∧
  (∀ (s : State) (r : QpReq) (q : QpId), q = r.dstQpn → s.inReset (partOfQp q) = false → s.fenced (partOfQp q) =
    false → s.inReset r.part = false → s.fenced r.part = false → (s.qp q).st = .rts → (s.qp q).remNode = r.srcNode →
    (s.qp q).remQpn = r.srcQpn → (s.qp q).epsn = r.psn → r.psn < 2 ^ 24 → (s.qp q).rxMap = 0 → (s.qp q).lenErr = [] →
    (s.qp q).reached = [] → s.qpCheck 0x42 r = none → s.readable r.offset r.wrLen → completes (.qreadReq r) s fun t
    => (t.qp q =
    { s.qp q with epsn := (r.psn + 1) % 2 ^ 24, ackFrom := if (s.qp q).toAck = 0 then s.now else (s.qp q).ackFrom, toAck := (s.qp q).toAck + 1 })
    ∧ t.out = s.out ++ s.qpAnswer q 0xC1
    { status := 0, dstNode := r.srcNode, dstQpn := r.srcQpn, psn := r.psn, sack := 0, payload := s.rd r.offset r.wrLen }
    ∧ othersSame {} s.qps t.qps [q.val] ∧ othersSame {} s.engines t.engines [(engOfQp q).val] ∧ s.changes t
    [.qps, .engines, .tier, .pwr, .out] [] [(.tier, 0x90), (.pwr, 0xB0)]) ∧
  (∀ (s : State) (r : QpReq) (q : QpId) (home : TierName) (i a c addr page : Nat), q = r.dstQpn → s.inReset (partOfQp
    q) = false → s.fenced (partOfQp q) = false → s.inReset r.part = false → s.fenced r.part = false → (s.qp q).st =
    .rts → (s.qp q).remNode = r.srcNode → (s.qp q).remQpn = r.srcQpn → (s.qp q).epsn = r.psn → r.psn < 2 ^ 24 → (s.qp
    q).rxMap = 0 → s.qpCheck 0x43 r = none → (s.qp q).lenErr = [] → (s.qp q).reached = [] → s.tier.answers = [] →
    s.writable (s.qp q).cqBase (32 * 2 ^ (s.qp q).cqLog2) = true → (s.qp q).rqOpen = [] → (s.qp q).rqUsed = 0 → (s.qp
    q).cqFull = false → (s.qp q).cqeWait = [] → (s.qp q).rqLog2 ≠ 0 → 0 < ringUsed (s.qp q).rqLog2 (s.qp q).rqHead
    (s.qp q).rqTail → i = (s.qp q).rqHead % 2 ^ ((s.qp q).rqLog2 + 1) → a = (s.qp q).rqBase + i % 2 ^ (s.qp q).rqLog2
    * 16 → r.offset = 0 → r.payload.length = r.wrLen → s.isPool q = false → s.readable a 16 → addr = s.rdNat a 8 % 2
    ^ 47 → r.wrLen ≤ s.rdNat (a + 8) 4 → page = pageOf addr → addr % 65536 + r.wrLen ≤ 65536 → (s.leaf page).st =
    .resident home → s.heldOn page = [] → s.mig page = none → (s.qp q).unplaced = [] → (s.qp q).rxWaits = [] → c =
    (s.qp q).cqBase + (s.qp q).cqTail % 2 ^ (s.qp q).cqLog2 * 32 → c + 32 ≤ addr ∨ addr + r.wrLen ≤ c → i + 1 < 2 ^
    ((s.qp q).rqLog2 + 1) → completes (.qsend r) s fun t => Map.bytes t.mem addr r.wrLen = r.payload ∧ (t.qp
    q).rqHead = i + 1 ∧ (t.qp q).rqUsed = 0 ∧ (t.qp q).cqTail = ((s.qp q).cqTail + 1) % 2 ^ ((s.qp q).cqLog2 + 1) ∧
    (t.qp q).epsn = (r.psn + 1) % 2 ^ 24 ∧ othersSame {} s.qps t.qps [q.val] ∧ s.changes t
    [.qps, .tier, .pwr, .mem, .digs, .out] [] [(.tier, 0x90), (.pwr, 0xB0)]) ∧
  (∀ (s : State) (r : QpReq) (q : QpId), q = r.dstQpn → s.inReset (partOfQp q) = false → s.fenced (partOfQp q) =
    false → s.inReset r.part = false → s.fenced r.part = false → (s.qp q).st = .rts → (s.qp q).remNode = r.srcNode →
    (s.qp q).remQpn = r.srcQpn → (s.qp q).epsn = r.psn → r.psn < 2 ^ 24 → (s.qp q).rxMap = 0 → (s.qp q).lenErr = [] →
    (s.qp q).reached = [] → s.qpCheck 0x44 r = none → completes (.qflush r) s fun t => (t.qp q =
    { s.qp q with epsn := (r.psn + 1) % 2 ^ 24, ackFrom := if (s.qp q).toAck = 0 then s.now else (s.qp q).ackFrom, toAck := (s.qp q).toAck + 1, rxWaits := (s.qp q).rxWaits ++ [({ op := 0x44, psn := r.psn, req := r, done := false } : RxWait)] })
    ∧ othersSame {} s.qps t.qps [q.val] ∧ s.changes t [.qps] [] []) ∧
  (∀ (s : State) (r : QpReq) (q : QpId), q = r.dstQpn → s.inReset (partOfQp q) = false → s.fenced (partOfQp q) =
    false → s.inReset r.part = false → s.fenced r.part = false → (s.qp q).st = .rts → (s.qp q).remNode = r.srcNode →
    (s.qp q).remQpn = r.srcQpn → (s.qp q).epsn = r.psn → r.psn < 2 ^ 24 → (s.qp q).rxMap = 0 → (s.qp q).lenErr = [] →
    (s.qp q).reached = [] → s.qpCheck 0x45 r = none → completes (.qcancel r) s fun t => (t.qp q =
    { s.qp q with epsn := (r.psn + 1) % 2 ^ 24, ackFrom := if (s.qp q).toAck = 0 then s.now else (s.qp q).ackFrom, toAck := (s.qp q).toAck + 1, rxWaits := (s.qp q).rxWaits ++ [({ op := 0x45, psn := r.psn, req := r, done := false } : RxWait)] })
    ∧ othersSame {} s.qps t.qps [q.val] ∧ s.changes t [.qps] [] []) ∧
  (∀ (s : State) (r : QpReq) (q : QpId) (c : Nat), q = r.dstQpn → (c = (if s.inReset (partOfQp q) = true then 1 else
    if s.fenced (partOfQp q) = true then 2 else if s.inReset r.part = true then 1 else 2)) → s.inReset (partOfQp q) =
    true ∨ s.fenced (partOfQp q) = true ∨ s.inReset r.part = true ∨ s.fenced r.part = true → ∀ o ∈
    [(Instr.qwrite, 0x40), (.qwriteTrig, 0x41), (.qreadReq, 0x42), (.qsend, 0x43), (.qflush, 0x44), (.qcancel, 0x45)],
    completes (o.1 r) s fun t => t.out = s.out ++ s.qpAnswer q 0xC4
    { status := c, dstNode := r.srcNode, dstQpn := r.srcQpn, psn := r.psn, sack := 0, payload := [] } ∧ othersSame {}
    s.engines t.engines [(engOfQp q).val] ∧ s.changes t [.engines, .out] [] []) ∧
  (∀ (s : State) (r : QpReq) (q : QpId), q = r.dstQpn → s.inReset (partOfQp q) = false → s.fenced (partOfQp q) =
    false → s.inReset r.part = false → s.fenced r.part = false → (s.qp q).st = .reset ∨ (s.qp q).st = .init → ∀ o ∈
    [(Instr.qwrite, 0x40), (.qwriteTrig, 0x41), (.qreadReq, 0x42), (.qsend, 0x43), (.qflush, 0x44), (.qcancel, 0x45)],
    completes (o.1 r) s fun t => t.out = s.out ++ s.qpAnswer q 0xC4
    { status := 0x20, dstNode := r.srcNode, dstQpn := r.srcQpn, psn := r.psn, sack := 0, payload := [] } ∧ othersSame
    {} s.engines t.engines [(engOfQp q).val] ∧ s.changes t [.engines, .out] [] []) ∧
  (∀ (s : State) (r : QpReq) (q : QpId), q = r.dstQpn → s.inReset (partOfQp q) = false → s.fenced (partOfQp q) =
    false → s.inReset r.part = false → s.fenced r.part = false → (s.qp q).st = .error ∨ (s.qp q).st = .rts ∧ ((s.qp
    q).remNode ≠ r.srcNode ∨ (s.qp q).remQpn ≠ r.srcQpn) → ∀ o ∈
    [(Instr.qwrite, 0x40), (.qwriteTrig, 0x41), (.qreadReq, 0x42), (.qsend, 0x43), (.qflush, 0x44), (.qcancel, 0x45)],
    completes (o.1 r) s fun t => t.out = s.out ++ s.qpAnswer q 0xC4
    { status := 0x24, dstNode := r.srcNode, dstQpn := r.srcQpn, psn := r.psn, sack := 0, payload := [] } ∧ othersSame
    {} s.engines t.engines [(engOfQp q).val] ∧ s.changes t [.engines, .out] [] []) ∧
  (∀ (s : State) (r : QpReq) (q : QpId) (c : Nat), q = r.dstQpn → s.inReset (partOfQp q) = false → s.fenced (partOfQp
    q) = false → s.inReset r.part = false → s.fenced r.part = false → (s.qp q).st = .rts → (s.qp q).remNode =
    r.srcNode → (s.qp q).remQpn = r.srcQpn → psnAhead (s.qp q).epsn r.psn < 256 → bit (s.qp q).rxMap (psnAhead (s.qp
    q).epsn r.psn) = false → ∀ o ∈
    [(Instr.qwrite, 0x40), (.qwriteTrig, 0x41), (.qreadReq, 0x42), (.qsend, 0x43), (.qflush, 0x44), (.qcancel, 0x45)],
    s.qpCheck o.2 r = some c → completes (o.1 r) s fun t => t.out = s.out ++ s.qpAnswer q 0xC4
    { status := c, dstNode := r.srcNode, dstQpn := r.srcQpn, psn := r.psn, sack := 0, payload := [] } ∧ othersSame {}
    s.engines t.engines [(engOfQp q).val] ∧ s.changes t [.engines, .out] [] []) ∧
  (∀ (s : State) (r : QpReq) (q : QpId), q = r.dstQpn → s.inReset (partOfQp q) = false → s.fenced (partOfQp q) =
    false → s.inReset r.part = false → s.fenced r.part = false → (s.qp q).st = .rts → (s.qp q).remNode = r.srcNode →
    (s.qp q).remQpn = r.srcQpn → 2 ^ 23 ≤ psnAhead (s.qp q).epsn r.psn → ¬ (r.last = true ∧ r.place = true) →
    completes (.qwrite r) s fun t => t.qp q = { s.qp q with toAck := 0 } ∧ s.counted t (.feng (engOfQp q)) 0xB8 ∧
    t.out = s.out ++ s.qpAnswer q 0xC0
    { status := 0, dstNode := (s.qp q).remNode, dstQpn := (s.qp q).remQpn, psn := (s.qp q).epsn, sack := bits (s.qp q).rxMap 1 64, payload := [] }
    ∧ othersSame {} s.qps t.qps [q.val] ∧ othersSame {} s.engines t.engines [(engOfQp q).val] ∧ s.changes t
    [.qps, .engines, .out] [] [(.feng (engOfQp q), 0xB8)]) ∧
  (∀ (s : State) (r : QpReq) (q : QpId), q = r.dstQpn → s.inReset (partOfQp q) = false → s.fenced (partOfQp q) =
    false → s.inReset r.part = false → s.fenced r.part = false → (s.qp q).st = .rts → (s.qp q).remNode = r.srcNode →
    (s.qp q).remQpn = r.srcQpn → 256 ≤ psnAhead (s.qp q).epsn r.psn → psnAhead (s.qp q).epsn r.psn < 2 ^ 23 → ∀ o ∈
    [(Instr.qwrite, 0x40), (.qwriteTrig, 0x41), (.qreadReq, 0x42), (.qsend, 0x43), (.qflush, 0x44), (.qcancel, 0x45)],
    completes (o.1 r) s fun t => s.counted t (.feng (engOfQp q)) 0xC0 ∧ s.changes t [] []
    [(.feng (engOfQp q), 0xC0)])

/-- Once every earlier byte is placed, WRITE_TRIGGER_EFFECT writes a completion entry with IMM and releases the
registrations of its FIRE_TAG on both engines; a QP outside the pool then answers with QPLACE_ACK, one of the pool
waits for the mover's attach. QFLUSH_ANSWER answers with QFLUSH_RESP; CANCEL_APPLY takes the SPEC_EPOCH, counts,
answers with QPLACE_ACK, and keeps at most the named rows of the QP's receiving context: KV_LEN drops to them and
whole pages past them are freed. Before that none of them changes anything. Each answer carries and clears a later
refusal, and leaves on a plane of its own where one reaches the peer. Nothing else changes. On points the spec
leaves open it states the model's choices (notes/assumptions/24). -/
def Obligations.PlacedWorkTakesEffect : Prop :=
  (∀ (s : State) (q : QpId) (psn : Nat) (w : RxWait) (c : Nat), ((s.qp q).waiting 0x41 psn = some w) → (s.qp
    q).placedBelow psn = true → (s.qp q).placedRange psn 1 = true → (s.qp q).cqFull = false → (s.qp q).cqeWait = [] →
    s.writable (s.qp q).cqBase (32 * 2 ^ (s.qp q).cqLog2) = true → c = (s.qp q).cqBase + (s.qp q).cqTail % 2 ^ (s.qp
    q).cqLog2 * 32 → s.isPool q = false → completes (.writeTriggerEffect q psn) s fun t => s.out <+: t.out ∧
    s.qpAnswer q 0xC2
    { status := (s.qp q).lateCode.getD 0, dstNode := (s.qp q).remNode, dstQpn := (s.qp q).remQpn, psn := psn, sack := 0, payload := [] }
    <:+ t.out ∧ (t.qp q).rxWaits = (s.qp q).rxWaits.erase w ∧ (t.qp q).lateCode = none ∧ (t.qp q).cqTail = ((s.qp
    q).cqTail + 1) % 2 ^ ((s.qp q).cqLog2 + 1) ∧ t.rdNat (c + 16) 4 = w.req.imm % 2 ^ 32 ∧ bytesSame s.mem t.mem c 32
    ∧ (∀ k ∈ [engOf (partOfQp q) 0, engOf (partOfQp q) 1], (t.eng k).trigs = (s.eng k).trigs.map fun u => if u.src ==
    0 && u.tag == w.req.fireTag then { u with released := true } else u) ∧ othersSame {} s.qps t.qps [q.val] ∧
    othersSame {} s.engines t.engines [(engOf (partOfQp q) 0).val, (engOf (partOfQp q) 1).val] ∧ s.changes t
    [.qps, .engines, .tier, .pwr, .mem, .digs, .out] []
    [(.feng (engOf (partOfQp q) 0), 0xD0), (.feng (engOf (partOfQp q) 1), 0xD0), (.feng (engOf (partOfQp q) 0), 0xD8), (.tier, 0x90), (.pwr, 0xB0)]) ∧
  (∀ (s : State) (q : QpId) (psn : Nat) (w : RxWait) (c : Nat), ((s.qp q).waiting 0x41 psn = some w) → (s.qp
    q).placedBelow psn = true → (s.qp q).placedRange psn 1 = true → (s.qp q).cqFull = false → (s.qp q).cqeWait = [] →
    s.writable (s.qp q).cqBase (32 * 2 ^ (s.qp q).cqLog2) = true → c = (s.qp q).cqBase + (s.qp q).cqTail % 2 ^ (s.qp
    q).cqLog2 * 32 → s.isPool q = true → completes (.writeTriggerEffect q psn) s fun t => ((t.qp q).rxWaits = (s.qp
    q).rxWaits.map fun v => if v = w then { v with done := true } else v) ∧ (t.mover (partOfQp q) =
    { s.mover (partOfQp q) with attaching := (s.mover (partOfQp q)).attaching ++ [(q.val, psn)] }) ∧ (t.qp q).cqTail
    = ((s.qp q).cqTail + 1) % 2 ^ ((s.qp q).cqLog2 + 1) ∧ t.rdNat (c + 16) 4 = w.req.imm % 2 ^ 32 ∧ bytesSame s.mem
    t.mem c 32 ∧ (∀ k ∈ [engOf (partOfQp q) 0, engOf (partOfQp q) 1], (t.eng k).trigs = (s.eng k).trigs.map fun u =>
    if u.src == 0 && u.tag == w.req.fireTag then { u with released := true } else u) ∧ othersSame {} s.movers
    t.movers [(partOfQp q).val] ∧ othersSame {} s.qps t.qps [q.val] ∧ othersSame {} s.engines t.engines
    [(engOf (partOfQp q) 0).val, (engOf (partOfQp q) 1).val] ∧ s.changes t
    [.qps, .engines, .movers, .tier, .pwr, .mem, .digs, .out] []
    [(.feng (engOf (partOfQp q) 0), 0xD0), (.feng (engOf (partOfQp q) 1), 0xD0), (.feng (engOf (partOfQp q) 0), 0xD8), (.tier, 0x90), (.pwr, 0xB0)]) ∧
  (∀ (s : State) (q : QpId) (psn : Nat) (w : RxWait), ((s.qp q).waiting 0x44 psn = some w) → (s.qp q).placedBelow psn
    = true → completes (.qflushAnswer q psn) s fun t => t.out = s.out ++ s.qpAnswer q 0xC3
    { status := (s.qp q).lateCode.getD 0, dstNode := (s.qp q).remNode, dstQpn := (s.qp q).remQpn, psn := psn, sack := 0, payload := [] }
    ∧ t.qp q = { s.qp q with rxWaits := (s.qp q).rxWaits.erase w, lateCode := none } ∧ othersSame {} s.qps t.qps
    [q.val] ∧ othersSame {} s.engines t.engines [(engOfQp q).val] ∧ s.changes t [.qps, .engines, .out] [] []) ∧
  (∀ (s : State) (q : QpId) (psn : Nat) (w : RxWait), ((s.qp q).waiting 0x45 psn = some w) → (s.qp q).placedBelow psn
    = true → s.rxCtxOf q = none → completes (.cancelApply q psn) s fun t => t.out = s.out ++ s.qpAnswer q 0xC2
    { status := (s.qp q).lateCode.getD 0, dstNode := (s.qp q).remNode, dstQpn := (s.qp q).remQpn, psn := psn, sack := 0, payload := [] }
    ∧ t.qp q =
    { s.qp q with rxWaits := (s.qp q).rxWaits.erase w, rxSpec := w.req.specEpoch % 256 + 256, lateCode := none } ∧
    s.counted t (.move (partOfQp q)) 0xC8 ∧ othersSame {} s.qps t.qps [q.val] ∧ othersSame {} s.engines t.engines
    [(engOfQp q).val] ∧ s.changes t [.qps, .engines, .out] [] [(.move (partOfQp q), 0xC8)]) ∧
  (∀ (s : State) (q : QpId) (psn : Nat) (w : RxWait) (i : Nat) (c : MoveCtx), ((s.qp q).waiting 0x45 psn = some w) →
    (s.qp q).placedBelow psn = true → (s.rxCtxOf q = some (i, c)) → completes (.cancelApply q psn) s fun t => t.out =
    s.out ++ s.qpAnswer q 0xC2
    { status := (s.qp q).lateCode.getD 0, dstNode := (s.qp q).remNode, dstQpn := (s.qp q).remQpn, psn := psn, sack := 0, payload := [] }
    ∧ t.qp q =
    { s.qp q with rxWaits := (s.qp q).rxWaits.erase w, rxSpec := w.req.specEpoch % 256 + 256, lateCode := none } ∧
    t.ctx (partOfQp q) i = { c with kvLen := min w.req.imm (s.ctxKv c) } ∧ (∀ layer, layer < c.layers → ∀ k, k < max
    c.pages c.stride → min w.req.imm (s.ctxKv c) ≤ k * (s.kvShape c).1 → (t.leaf (c.pageAt layer k)).st = .unwritten)
    ∧ s.counted t (.move (partOfQp q)) 0xC8 ∧ (s.ctxKv c < w.req.imm → s.counted t (.move (partOfQp q)) 0xD0) ∧
    othersSame {} s.qps t.qps [q.val] ∧ othersSame {} s.movers t.movers [(partOfQp q).val] ∧ othersSame {} s.engines
    t.engines [(engOfQp q).val] ∧ s.changes t [.qps, .engines, .movers, .tier, .mem, .out] []
    [(.move (partOfQp q), 0xC8), (.move (partOfQp q), 0xD0)]) ∧
  (∀ (s : State) (q : QpId) (psn : Nat), (s.qp q).placedBelow psn = false → completes (.writeTriggerEffect q psn) s
    (fun t => t = s) ∧ completes (.qflushAnswer q psn) s (fun t => t = s) ∧ completes (.cancelApply q psn) s (fun t
    => t = s))

/-- A QACK acknowledges every PSN before EPSN and those of its map, and the WR whose packets are all acknowledged
completes and leaves the ring; QREAD_RESP stores the bytes read and completes the READ; QPLACE_ACK and QFLUSH_RESP
complete the WR that awaits them with a journal entry, or fail it with the code they carry; QNAK starts an RNR wait,
completes a SEND with LENGTH_ERR, or fails its WR and takes the QP to ERROR. QACK_TIMER sends the acknowledgement
that is due. RETRANSMIT_TIMEOUT sends the unacknowledged packet again or fails the WR after RETRY_LIMIT rounds;
RNR_RETRY_TIMER sends again or fails it after RNR_LIMIT. Nothing else changes. On points the spec leaves open it
states the model's choices (notes/assumptions/24). -/
def Obligations.QueuePairAnswersAndTimers : Prop :=
  (∀ (s : State) (r : QpResp) (q : QpId) (w : OpenWr), q = r.dstQpn → (s.qp q).st = .rts → (s.qp q).wrs = [w] →
    w.done = false → w.packets = 1 → w.psn < 2 ^ 24 → (s.qp q).unaPsn = w.psn → (s.qp q).nextPsn = (w.psn + 1) % 2 ^
    24 → (s.qp q).sqPsn = (s.qp q).nextPsn → (s.qp q).txMap = 0 → s.tier.answers = [] → (s.qp q).sqHead = w.index →
    s.isPool q = false → (s.qp q).nextWr = (s.qp q).sqTail → wSignal w.wr = false → (wOp w.wr = 0 ∧ wPlace w.wr =
    false) ∨ wOp w.wr = 2 → r.psn = (w.psn + 1) % 2 ^ 24 → completes (.qack r) s fun t => t.qp q =
    { s.qp q with wrs := [], sqHead := (w.index + 1) % 2 ^ ((s.qp q).sqLog2 + 1), unaPsn := (w.psn + 1) % 2 ^ 24, rounds := 0, progressAt := s.now }
    ∧ s.counted t (.feng (engOfQp q)) 0x80 ∧ t.out = s.out ++ [Out.qpComplete q (wId w.wr) 0] ∧ othersSame {} s.qps
    t.qps [q.val] ∧ s.changes t [.qps, .out] [] [(.feng (engOfQp q), 0x80)]) ∧
  (∀ (s : State) (r : QpResp) (q : QpId) (w : OpenWr) (page : Nat) (home : TierName), q = r.dstQpn → (s.qp q).st =
    .rts → (s.qp q).wrs = [w] → w.done = false → w.packets = 1 → w.psn < 2 ^ 24 → (s.qp q).unaPsn = w.psn → (s.qp
    q).nextPsn = (w.psn + 1) % 2 ^ 24 → (s.qp q).sqPsn = (s.qp q).nextPsn → (s.qp q).txMap = 0 → s.tier.answers = []
    → (s.qp q).sqHead = w.index → s.isPool q = false → (s.qp q).nextWr = (s.qp q).sqTail → wSignal w.wr = false → wOp
    w.wr = 1 → r.psn = w.psn → r.payload ≠ [] → page = pageOf (wLocal w.wr) → wLocal w.wr % 65536 + r.payload.length
    ≤ 65536 → (s.leaf page).st = .resident home → s.heldOn page = [] → s.readHeld q w = false → completes (.qreadResp
    r) s fun t => t.qp q =
    { s.qp q with wrs := [], sqHead := (w.index + 1) % 2 ^ ((s.qp q).sqLog2 + 1), unaPsn := (w.psn + 1) % 2 ^ 24, rounds := 0, progressAt := s.now }
    ∧ s.counted t (.feng (engOfQp q)) 0x80 ∧ (t.out.getLast? = some (Out.qpComplete q (wId w.wr) 0)) ∧ Map.bytes
    t.mem (wLocal w.wr) r.payload.length = r.payload ∧ bytesSame s.mem t.mem (wLocal w.wr) r.payload.length ∧
    othersSame {} s.qps t.qps [q.val] ∧ s.changes t [.qps, .out, .tier, .pwr, .mem, .digs] []
    [(.feng (engOfQp q), 0x80), (.tier, 0x90), (.pwr, 0xB0)]) ∧
  (∀ (s : State) (r : QpResp) (q : QpId) (w : OpenWr), q = r.dstQpn → (s.qp q).st = .rts → (s.qp q).wrs = [w] →
    w.done = false → w.packets = 1 → w.psn < 2 ^ 24 → (s.qp q).unaPsn = w.psn → (s.qp q).nextPsn = (w.psn + 1) % 2 ^
    24 → (s.qp q).sqPsn = (s.qp q).nextPsn → (s.qp q).txMap = 0 → s.tier.answers = [] → (s.qp q).sqHead = w.index →
    s.isPool q = false → (s.qp q).nextWr = (s.qp q).sqTail → wSignal w.wr = false → wOp w.wr = 0 ∧ wPlace w.wr = true
    ∨ wOp w.wr = 3 ∨ wOp w.wr = 5 → w.answered = false → r.psn = w.psn → r.status = 0 → completes (.qplaceAck r)
    s fun t => t.qp q =
    { s.qp q with wrs := [], sqHead := (w.index + 1) % 2 ^ ((s.qp q).sqLog2 + 1), unaPsn := (w.psn + 1) % 2 ^ 24, rounds := 0, progressAt := s.now }
    ∧ s.counted t (.feng (engOfQp q)) 0x80 ∧ t.out = s.out ++ [Out.qpComplete q (wId w.wr) 0] ∧ ((t.eng (engOfQp
    q)).jseq = if (s.eng (engOfQp q)).frozen then (s.eng (engOfQp q)).jseq else ((s.eng (engOfQp q)).jseq + 1) % 2 ^
    32) ∧ othersSame {} s.qps t.qps [q.val] ∧ othersSame {} s.engines t.engines [(engOfQp q).val] ∧ s.changes t
    [.qps, .out, .engines] [] [(.feng (engOfQp q), 0x80)]) ∧
  (∀ (s : State) (r : QpResp) (q : QpId) (w : OpenWr), q = r.dstQpn → (s.qp q).st = .rts → (s.qp q).wrs = [w] →
    w.done = false → w.packets = 1 → w.psn < 2 ^ 24 → (s.qp q).unaPsn = w.psn → (s.qp q).nextPsn = (w.psn + 1) % 2 ^
    24 → (s.qp q).sqPsn = (s.qp q).nextPsn → (s.qp q).txMap = 0 → s.tier.answers = [] → (s.qp q).sqHead = w.index →
    s.isPool q = false → (s.qp q).nextWr = (s.qp q).sqTail → wSignal w.wr = false → wOp w.wr = 4 → w.answered = false
    → r.psn = w.psn → r.status = 0 → completes (.qflushResp r) s fun t => t.qp q =
    { s.qp q with wrs := [], sqHead := (w.index + 1) % 2 ^ ((s.qp q).sqLog2 + 1), unaPsn := (w.psn + 1) % 2 ^ 24, rounds := 0, progressAt := s.now }
    ∧ s.counted t (.feng (engOfQp q)) 0x80 ∧ t.out = s.out ++ [Out.qpComplete q (wId w.wr) 0] ∧ ((t.eng (engOfQp
    q)).jseq = if (s.eng (engOfQp q)).frozen then (s.eng (engOfQp q)).jseq else ((s.eng (engOfQp q)).jseq + 1) % 2 ^
    32) ∧ othersSame {} s.qps t.qps [q.val] ∧ othersSame {} s.engines t.engines [(engOfQp q).val] ∧ s.changes t
    [.qps, .out, .engines] [] [(.feng (engOfQp q), 0x80)]) ∧
  (∀ (s : State) (r : QpResp) (q : QpId) (w : OpenWr), q = r.dstQpn → (s.qp q).st = .rts → (s.qp q).wrs = [w] →
    w.done = false → w.packets = 1 → w.psn < 2 ^ 24 → (s.qp q).unaPsn = w.psn → (s.qp q).nextPsn = (w.psn + 1) % 2 ^
    24 → (s.qp q).sqPsn = (s.qp q).nextPsn → (s.qp q).txMap = 0 → s.tier.answers = [] → (s.qp q).sqHead = w.index →
    s.isPool q = false → s.writable (s.qp q).cqBase (32 * 2 ^ (s.qp q).cqLog2) = true → wOp w.wr = 0 ∧ wPlace w.wr =
    true ∨ wOp w.wr = 3 ∨ wOp w.wr = 5 → w.answered = false → r.psn = w.psn → r.status ∉ [0, 0x23, 0x27, 0x28] →
    completes (.qplaceAck r) s fun t => Out.qpComplete q (wId w.wr) r.status ∈ t.out ∧ s.counted t (.feng (engOfQp
    q)) 0x88 ∧ (t.qp q).st = .error ∧ s.raised t (.feng (engOfQp q)) 1 ∧ othersSame {} s.qps t.qps [q.val] ∧
    othersSame {} s.engines t.engines [(engOfQp q).val] ∧ s.changes t
    [.qps, .engines, .tier, .pwr, .mem, .digs, .out, .pcie] (irqPlaces (.feng (engOfQp q))) ((.feng (engOfQp q),
    0x88) :: [(.tier, 0x90), (.pwr, 0xB0)] ++ irqCounts (.feng (engOfQp q)))) ∧
  (∀ (s : State) (r : QpResp) (q : QpId) (w : OpenWr), q = r.dstQpn → (s.qp q).st = .rts → (s.qp q).wrs = [w] →
    w.done = false → w.packets = 1 → w.psn < 2 ^ 24 → (s.qp q).unaPsn = w.psn → (s.qp q).nextPsn = (w.psn + 1) % 2 ^
    24 → (s.qp q).sqPsn = (s.qp q).nextPsn → (s.qp q).txMap = 0 → s.tier.answers = [] → (s.qp q).sqHead = w.index →
    s.isPool q = false → r.psn = w.psn → r.status = 0x20 → completes (.qnak r) s fun t => (t.qp q =
    { s.qp q with rnrAt := some ((s.qp q).rnrAt.getD s.now), rounds := 0, progressAt := s.now, wrs := [{ w with rnrHit := true }] })
    ∧ s.counted t (.feng (engOfQp q)) 0xC8 ∧ othersSame {} s.qps t.qps [q.val] ∧ s.changes t [.qps] []
    [(.feng (engOfQp q), 0xC8)]) ∧
  (∀ (s : State) (r : QpResp) (q : QpId) (w : OpenWr), q = r.dstQpn → (s.qp q).st = .rts → (s.qp q).wrs = [w] →
    w.done = false → w.packets = 1 → w.psn < 2 ^ 24 → (s.qp q).unaPsn = w.psn → (s.qp q).nextPsn = (w.psn + 1) % 2 ^
    24 → (s.qp q).sqPsn = (s.qp q).nextPsn → (s.qp q).txMap = 0 → s.tier.answers = [] → (s.qp q).sqHead = w.index →
    s.isPool q = false → s.writable (s.qp q).cqBase (32 * 2 ^ (s.qp q).cqLog2) = true → (s.qp q).nextWr = (s.qp
    q).sqTail → wSignal w.wr = false → wOp w.wr = 2 → r.psn = w.psn → r.status = 0x23 → completes (.qnak r) s fun t
    => Out.qpComplete q (wId w.wr) 0x23 ∈ t.out ∧ s.counted t (.feng (engOfQp q)) 0x88 ∧ (t.qp q).st = .rts ∧ (t.qp
    q).wrs = [] ∧ othersSame {} s.qps t.qps [q.val] ∧ s.changes t [.qps, .tier, .pwr, .mem, .digs, .out] [] ((.feng
    (engOfQp q), 0x88) :: [(.tier, 0x90), (.pwr, 0xB0)])) ∧
  (∀ (s : State) (r : QpResp) (q : QpId) (w : OpenWr), q = r.dstQpn → (s.qp q).st = .rts → (s.qp q).wrs = [w] →
    w.done = false → w.packets = 1 → w.psn < 2 ^ 24 → (s.qp q).unaPsn = w.psn → (s.qp q).nextPsn = (w.psn + 1) % 2 ^
    24 → (s.qp q).sqPsn = (s.qp q).nextPsn → (s.qp q).txMap = 0 → s.tier.answers = [] → (s.qp q).sqHead = w.index →
    s.isPool q = false → s.writable (s.qp q).cqBase (32 * 2 ^ (s.qp q).cqLog2) = true → r.psn = w.psn → r.status ∉
    [0, 0x20, 0x23, 0x27, 0x28] → completes (.qnak r) s fun t => Out.qpComplete q (wId w.wr) r.status ∈ t.out ∧
    s.counted t (.feng (engOfQp q)) 0x88 ∧ (t.qp q).st = .error ∧ s.raised t (.feng (engOfQp q)) 1 ∧ othersSame {}
    s.qps t.qps [q.val] ∧ othersSame {} s.engines t.engines [(engOfQp q).val] ∧ s.changes t
    [.qps, .engines, .tier, .pwr, .mem, .digs, .out, .pcie] (irqPlaces (.feng (engOfQp q))) ((.feng (engOfQp q),
    0x88) :: [(.tier, 0x90), (.pwr, 0xB0)] ++ irqCounts (.feng (engOfQp q)))) ∧
  (∀ (s : State) (r : QpResp), (s.qp r.dstQpn).st ≠ .rts → ∀ c ∈
    [Instr.qack, .qreadResp, .qplaceAck, .qflushResp, .qnak], completes (c r) s fun t => t = s) ∧
  (∀ (s : State) (q : QpId), (s.qp q).toAck ≠ 0 → 16 ≤ (s.qp q).toAck ∨ (s.qp q).ackFrom + 1000 ≤ s.now → completes
    (.qackTimer q) s fun t => t.qp q = { s.qp q with toAck := 0 } ∧ t.out = s.out ++ s.qpAnswer q 0xC0
    { status := 0, dstNode := (s.qp q).remNode, dstQpn := (s.qp q).remQpn, psn := (s.qp q).epsn, sack := bits (s.qp q).rxMap 1 64, payload := [] }
    ∧ othersSame {} s.qps t.qps [q.val] ∧ othersSame {} s.engines t.engines [(engOfQp q).val] ∧ s.changes t
    [.qps, .engines, .out] [] []) ∧
  (∀ (s : State) (q : QpId), (s.qp q).toAck = 0 ∨ (s.qp q).toAck < 16 ∧ s.now < (s.qp q).ackFrom + 1000 → completes
    (.qackTimer q) s fun t => t = s) ∧
  (∀ (s : State) (q : QpId) (w : OpenWr) (plane : Nat), (s.qp q).st = .rts → (s.qp q).wrs = [w] → w.done = false →
    w.packets = 1 → w.psn < 2 ^ 24 → (s.qp q).unaPsn = w.psn → (s.qp q).nextPsn = (w.psn + 1) % 2 ^ 24 → (s.qp
    q).sqPsn = (s.qp q).nextPsn → (s.qp q).txMap = 0 → s.tier.answers = [] → (s.qp q).sqHead = w.index → s.isPool q =
    false → (s.qp q).progressAt + 2 ^ (s.qp q).ackTo * 1000 ≤ s.now → (s.qp q).rnrAt = none → w.answered = false →
    (s.qp q).rounds < (s.qp q).retryLimit → (s.qpPlane q = some plane) → (wOp w.wr = 0 ∨ wOp w.wr = 2 ∨ wOp w.wr = 3)
    ∧ wLen w.wr ≠ 0 → s.readable (wLocal w.wr) (min 1024 (wLen w.wr)) → completes (.retransmitTimeout q) s fun t =>
    t.out = s.out ++ [qpReqOut (wrPacketOp w.wr) plane (s.wrPacket q w 0)] ∧ (t.qp q =
    { s.qp q with rounds := (s.qp q).rounds + 1, progressAt := s.now, lastPlane := some plane }) ∧ s.counted t (.feng
    (engOfQp q)) 0xB0 ∧ othersSame {} s.qps t.qps [q.val] ∧ othersSame {} s.engines t.engines [(engOfQp q).val] ∧
    s.changes t [.qps, .engines, .out, .tier, .pwr] [] [(.feng (engOfQp q), 0xB0), (.tier, 0x90), (.pwr, 0xB0)]) ∧
  (∀ (s : State) (q : QpId) (w : OpenWr), (s.qp q).st = .rts → (s.qp q).wrs = [w] → w.done = false → w.packets = 1 →
    w.psn < 2 ^ 24 → (s.qp q).unaPsn = w.psn → (s.qp q).nextPsn = (w.psn + 1) % 2 ^ 24 → (s.qp q).sqPsn = (s.qp
    q).nextPsn → (s.qp q).txMap = 0 → s.tier.answers = [] → (s.qp q).sqHead = w.index → s.isPool q = false →
    s.writable (s.qp q).cqBase (32 * 2 ^ (s.qp q).cqLog2) = true → (s.qp q).progressAt + 2 ^ (s.qp q).ackTo * 1000 ≤
    s.now → (s.qp q).rnrAt = none → (s.qp q).retryLimit ≤ (s.qp q).rounds → completes (.retransmitTimeout q) s fun t
    => Out.qpComplete q (wId w.wr) 0x22 ∈ t.out ∧ (t.qp q).st = .error ∧ s.counted t (.feng (engOfQp q)) 0x88 ∧
    s.raised t (.feng (engOfQp q)) 1 ∧ othersSame {} s.qps t.qps [q.val] ∧ othersSame {} s.engines t.engines
    [(engOfQp q).val] ∧ s.changes t [.qps, .engines, .tier, .pwr, .mem, .digs, .out, .pcie] (irqPlaces (.feng
    (engOfQp q))) ((.feng (engOfQp q), 0x88) :: [(.tier, 0x90), (.pwr, 0xB0)] ++ irqCounts (.feng (engOfQp q)))) ∧
  (∀ (s : State) (q : QpId), (s.qp q).st ≠ .rts ∨ s.now < (s.qp q).progressAt + 2 ^ (s.qp q).ackTo * 1000 ∨ (s.qp
    q).rnrAt.isSome = true → completes (.retransmitTimeout q) s fun t => t = s) ∧
  (∀ (s : State) (q : QpId) (w : OpenWr) (plane : Nat) (x : Nat), (s.qp q).st = .rts → (s.qp q).wrs = [w] → w.done =
    false → w.rnrHit = true → w.packets = 1 → w.psn < 2 ^ 24 → (s.qp q).unaPsn = w.psn → (s.qp q).nextPsn = (w.psn +
    1) % 2 ^ 24 → (s.qp q).sqPsn = (s.qp q).nextPsn → (s.qp q).txMap = 0 → s.tier.answers = [] → (s.qp q).sqHead =
    w.index → s.isPool q = false → ((s.qp q).rnrAt = some x) → x + (s.qp q).rnrUs * 1000 ≤ s.now → (s.qp q).rnrLimit
    = 15 ∨ w.rnr < (s.qp q).rnrLimit → (s.qpPlane q = some plane) → wOp w.wr = 2 ∧ wLen w.wr ≠ 0 → s.readable (wLocal
    w.wr) (min 1024 (wLen w.wr)) → completes (.rnrRetryTimer q) s fun t => t.out = s.out ++
    [qpReqOut (wrPacketOp w.wr) plane (s.wrPacket q w 0)] ∧ (t.qp q =
    { s.qp q with rnrAt := none, progressAt := s.now, lastPlane := some plane, wrs := [{ w with rnr := w.rnr + 1, rnrHit := false }] })
    ∧ othersSame {} s.qps t.qps [q.val] ∧ othersSame {} s.engines t.engines [(engOfQp q).val] ∧ s.changes t
    [.qps, .engines, .out, .tier, .pwr] [] [ (.tier, 0x90), (.pwr, 0xB0)]) ∧
  (∀ (s : State) (q : QpId) (w : OpenWr) (x : Nat), (s.qp q).st = .rts → (s.qp q).wrs = [w] → w.done = false →
    w.rnrHit = true → w.packets = 1 → w.psn < 2 ^ 24 → (s.qp q).unaPsn = w.psn → (s.qp q).nextPsn = (w.psn + 1) % 2 ^
    24 → (s.qp q).sqPsn = (s.qp q).nextPsn → (s.qp q).txMap = 0 → s.tier.answers = [] → (s.qp q).sqHead = w.index →
    s.isPool q = false → s.writable (s.qp q).cqBase (32 * 2 ^ (s.qp q).cqLog2) = true → ((s.qp q).rnrAt = some x) → x
    + (s.qp q).rnrUs * 1000 ≤ s.now → (s.qp q).rnrLimit ≠ 15 → (s.qp q).rnrLimit ≤ w.rnr → completes (.rnrRetryTimer
    q) s fun t => Out.qpComplete q (wId w.wr) 0x21 ∈ t.out ∧ (t.qp q).st = .error ∧ othersSame {} s.qps t.qps [q.val]
    ∧ othersSame {} s.engines t.engines [(engOfQp q).val] ∧ s.changes t
    [.qps, .engines, .tier, .pwr, .mem, .digs, .out, .pcie] (irqPlaces (.feng (engOfQp q))) ((.feng (engOfQp q),
    0x88) :: [(.tier, 0x90), (.pwr, 0xB0)] ++ irqCounts (.feng (engOfQp q)))) ∧
  (∀ (s : State) (q : QpId), ((s.qp q).rnrAt.all (fun x => s.now < x + (s.qp q).rnrUs * 1000) = true) → completes
    (.rnrRetryTimer q) s fun t => t = s)

/-- On a ready engine with no region command running, RGN_CMD_WRITE stores the entry that RGN_DATA spells, RGN_CMD_READ
loads RGN_DATA with the entry, RGN_CMD_REVOKE raises the GEN of a valid window and otherwise records REVOKE_BAD;
each takes INDEX and OP and sets BUSY; while one runs each records RGN_BUSY. RGN_CMD_COMPLETE clears BUSY, for
REVOKE once 2 µs have passed. Nothing else changes. -/
def Obligations.RegionCommandsRun : Prop :=
  (∀ (s : State) (p : PartId) (i : Fin 4096), s.ready (.feng (engOf p 0)) = true → s.fld (.feng (engOf p 0))
    Reg.RGN_CMD_BUSY = 0 → completes (.rgnCmdWrite p i) s fun t => t.fld (.feng (engOf p 0)) Reg.RGN_CMD_INDEX =
    i.val ∧ t.fld (.feng (engOf p 0)) Reg.RGN_CMD_OP = 0 ∧ t.fld (.feng (engOf p 0)) Reg.RGN_CMD_BUSY = 1 ∧ (t.eng
    (engOf p 0) = { s.eng (engOf p 0) with rgn := some { op := 0, index := i.val, start := s.now } }) ∧ t.rgn p
    i.val = rgnOfBytes (s.words ((.feng (engOf p 0) : Page).base + 0x160) 8) ∧ othersSame {} s.regions t.regions
    [p.val * 4096 + i.val] ∧ s.changes t [.engines, .regions] [Reg.RGN_CMD_INDEX.place (.feng (engOf p 0)), Reg.RGN_CMD_OP.place (.feng (engOf p 0)), Reg.RGN_CMD_BUSY.place (.feng (engOf p 0))]
    []) ∧
  (∀ (s : State) (p : PartId) (i : Fin 4096), s.ready (.feng (engOf p 0)) = true → s.fld (.feng (engOf p 0))
    Reg.RGN_CMD_BUSY = 0 → completes (.rgnCmdRead p i) s fun t => t.fld (.feng (engOf p 0)) Reg.RGN_CMD_INDEX =
    i.val ∧ t.fld (.feng (engOf p 0)) Reg.RGN_CMD_OP = 1 ∧ t.fld (.feng (engOf p 0)) Reg.RGN_CMD_BUSY = 1 ∧ (t.eng
    (engOf p 0) = { s.eng (engOf p 0) with rgn := some { op := 1, index := i.val, start := s.now } }) ∧ t.words
    ((.feng (engOf p 0) : Page).base + 0x160) 8 = rgnBytes (s.rgn p i.val) % 2 ^ 256 ∧ s.changesOn t [.engines]
    [.feng (engOf p 0)]) ∧
  (∀ (s : State) (p : PartId) (i : Fin 4096), s.ready (.feng (engOf p 0)) = true → s.fld (.feng (engOf p 0))
    Reg.RGN_CMD_BUSY = 0 → (s.rgn p i.val).valid = true → (s.rgn p i.val).window = true → completes (.rgnCmdRevoke
    p i) s fun t => t.fld (.feng (engOf p 0)) Reg.RGN_CMD_INDEX = i.val ∧ t.fld (.feng (engOf p 0)) Reg.RGN_CMD_OP
    = 2 ∧ t.fld (.feng (engOf p 0)) Reg.RGN_CMD_BUSY = 1 ∧ (t.eng (engOf p 0) = { s.eng (engOf p 0) with rgn := some { op := 2, index := i.val, start := s.now } })
    ∧ t.rgn p i.val = { s.rgn p i.val with gen := ((s.rgn p i.val).gen + 1) % 65536 } ∧ othersSame {} s.regions
    t.regions [p.val * 4096 + i.val] ∧ s.changes t [.engines, .regions] [Reg.RGN_CMD_INDEX.place (.feng (engOf p 0)), Reg.RGN_CMD_OP.place (.feng (engOf p 0)), Reg.RGN_CMD_BUSY.place (.feng (engOf p 0))]
    []) ∧
  (∀ (s : State) (p : PartId) (i : Fin 4096), s.ready (.feng (engOf p 0)) = true → s.fld (.feng (engOf p 0))
    Reg.RGN_CMD_BUSY = 0 → (s.rgn p i.val).valid = false ∨ (s.rgn p i.val).window = false → completes
    (.rgnCmdRevoke p i) s fun t => t.fld (.feng (engOf p 0)) Reg.RGN_CMD_INDEX = i.val ∧ t.fld (.feng (engOf p 0))
    Reg.RGN_CMD_OP = 2 ∧ t.fld (.feng (engOf p 0)) Reg.RGN_CMD_BUSY = 1 ∧ (t.eng (engOf p 0) = { s.eng (engOf p 0) with rgn := some { op := 2, index := i.val, start := s.now } })
    ∧ s.erred t (.feng (engOf p 0)) 0x01 ∧ s.changes t [.engines] ([Reg.RGN_CMD_INDEX.place (.feng (engOf p 0)), Reg.RGN_CMD_OP.place (.feng (engOf p 0)), Reg.RGN_CMD_BUSY.place (.feng (engOf p 0))]
    ++ errPlaces (.feng (engOf p 0))) (errCounts (.feng (engOf p 0)))) ∧
  (∀ (s : State) (p : PartId) (i : Fin 4096), s.ready (.feng (engOf p 0)) = true → s.fld (.feng (engOf p 0))
    Reg.RGN_CMD_BUSY ≠ 0 → ∀ c ∈ [Instr.rgnCmdWrite p i, .rgnCmdRead p i, .rgnCmdRevoke p i], completes c s fun t
    => s.erred t (.feng (engOf p 0)) 0x02 ∧ s.changes t [] (errPlaces (.feng (engOf p 0))) (errCounts (.feng (engOf
    p 0)))) ∧
  (∀ (s : State) (p : PartId) (c : RgnCmd), ((s.eng (engOf p 0)).rgn = some c) → c.op ≠ 2 ∨ c.start + 2000 ≤ s.now
    → completes (.rgnCmdComplete p) s fun t => t.fld (.feng (engOf p 0)) Reg.RGN_CMD_BUSY = 0 ∧ t.eng (engOf p 0) =
    { s.eng (engOf p 0) with rgn := none } ∧ s.changes t [.engines] [Reg.RGN_CMD_BUSY.place (.feng (engOf p 0))]
    []) ∧
  (∀ (s : State) (p : PartId), ((s.eng (engOf p 0)).rgn.all (fun c => c.op = 2 ∧ s.now < c.start + 2000) = true) →
    completes (.rgnCmdComplete p) s fun t => t = s)

/-- On a mover that is ready and not fenced, OPEN_PUSH takes the lowest free context as a receiving one and is
granted, or answered MAP_FULL; OPEN_PARK with a free entry and a range of the region takes both, in FILLING, and is
granted with the range and its key, and with a TTL of 0 or no entry it is refused. OPEN_ACK of a push posts the held
WRITE and WRITE_TRIGGER of each layer and its request runs; of a park it installs the home's key and starts the
park; with no key slot the park waits. A fenced mover, or one that is not ready, takes no message. What a mover owes
a peer waits for a send buffer of its control QP. Nothing else changes. On points the spec leaves open it states the
model's choices (notes/assumptions/26, 27). -/
def Obligations.MoverMessagesOpen : Prop :=
  (∀ (s : State) (p : PartId) (m : MoverMsg) (i : Nat), s.fenced p = false → s.ready (.move p) = true → ((s.mover
    p).ctxs.find? (fun e => e.2.reqId == m.reqId && e.2.kind == 1 && decide (4 ≤ e.2.state) && !e.2.bound) = none) →
    (s.freeCtx p = some i) → completes (.openPush p m) s fun t => t.ctx p i = s.rxCtx p m 1 m.base ∧ ((t.ctx p
    i).kind = 1 ∧ (t.ctx p i).state = 2 ∧ (t.ctx p i).reqId = m.reqId ∧ (t.ctx p i).localBase = m.base) ∧ (t.mover
    p).outbox = (s.mover p).outbox ++ s.moverMail p 3 m.fromNode m.fromPart
    { blankMsg m.ctx.val m.reqId with status := 0 } ∧ othersSame {} s.movers t.movers [p.val] ∧ s.changes t [.movers]
    [] []) ∧
  (∀ (s : State) (p : PartId) (m : MoverMsg), s.fenced p = false → s.ready (.move p) = true → ((s.mover p).ctxs.find?
    (fun e => e.2.reqId == m.reqId && e.2.kind == 1 && decide (4 ≤ e.2.state) && !e.2.bound) = none) → s.freeCtx p =
    none → completes (.openPush p m) s fun t => (t.mover p).outbox = (s.mover p).outbox ++ s.moverMail p 3 m.fromNode
    m.fromPart { blankMsg m.ctx.val m.reqId with status := 0x0C } ∧ othersSame {} s.movers t.movers [p.val] ∧
    (t.mover p).ctxs = (s.mover p).ctxs ∧ s.changes t [.movers] [] []) ∧
  (∀ (s : State) (p : PartId) (m : MoverMsg), s.fenced p = false → s.ready (.move p) = true → m.ttlMs = 0 → completes
    (.openPark p m) s fun t => (t.mover p).outbox = (s.mover p).outbox ++ s.moverMail p 3 m.fromNode m.fromPart
    { blankMsg m.ctx.val m.reqId with status := 0x04 } ∧ othersSame {} s.movers t.movers [p.val] ∧ (t.mover p).ctxs =
    (s.mover p).ctxs ∧ s.changes t [.movers] [] []) ∧
  (∀ (s : State) (p : PartId) (m : MoverMsg), s.fenced p = false → s.ready (.move p) = true → m.ttlMs ≠ 0 →
    s.freeEntry p = none → completes (.openPark p m) s fun t => (t.mover p).outbox = (s.mover p).outbox ++
    s.moverMail p 3 m.fromNode m.fromPart { blankMsg m.ctx.val m.reqId with status := 0x0C } ∧ othersSame {} s.movers
    t.movers [p.val] ∧ (t.mover p).ctxs = (s.mover p).ctxs ∧ s.changes t [.movers] [] []) ∧
  (∀ (s : State) (p : PartId) (m : MoverMsg) (i a k n rgn : Nat), s.fenced p = false → s.ready (.move p) = true →
    ((s.mover p).ctxs.find? (fun e => e.2.reqId == m.reqId && e.2.kind == 3 && decide (4 ≤ e.2.state) && !e.2.bound)
    = none) → m.ttlMs ≠ 0 → m.ttlMs ≤ s.fld .srch Reg.CACHE_CFG_TTL_MAX_S p.val * 1000 → (s.freeEntry p = some i) →
    rgn = s.fld .srch Reg.CACHE_CFG_PARK_RGN p.val → n = m.layers * m.pages + (m.layers * m.pages * m.sideBytes +
    65535) / 65536 → (s.rangeIn p rgn n = some a) → (s.freeCtx p = some k) → a < 2 ^ 31 → s.writable (s.entryAddr p
    i) 64 = true → m.layers < 512 → m.pages < 32768 → completes (.openPark p m) s fun t => (entState (t.entry p i) =
    1 ∧ entKind (t.entry p i) = 0 ∧ entBase (t.entry p i) = a * 65536 ∧ entLayers (t.entry p i) = m.layers ∧ entPages
    (t.entry p i) = m.pages) ∧ t.ctx p k = { s.rxCtx p m 3 (a * 65536) with entry := i } ∧ (t.mover p).outbox =
    (s.mover p).outbox ++ s.moverMail p 3 m.fromNode m.fromPart
    { blankMsg m.ctx.val m.reqId with status := 0, base := a * 65536, stride := m.pages, key := s.rgnKey p rgn } ∧
    othersSame {} s.movers t.movers [p.val] ∧ s.changes t (.movers :: storeComps) [] storeCounts) ∧
  (∀ (s : State) (p : PartId) (m : MoverMsg) (c : MoveCtx) (q : QpId), s.fenced p = false → s.ready (.move p) = true
    → s.ctx p m.ctx.val = c → c.kind = 0 ∧ c.state = 1 ∧ c.bound = true ∧ c.reqId = m.reqId → m.status = 0 → c.layers
    = 1 ∧ c.stripesM1 = 0 ∧ c.pages ≠ 0 → c.pages < 16384 → (s.mover p).posts = [] → s.writable (s.qp q).sqBase (64 *
    2 ^ (s.qp q).sqLog2) = true → q.val = 512 * p.val + c.qpFirst → 4 ≤ (s.qp q).sqLog2 → ringUsed (s.qp q).sqLog2
    (s.qp q).sqHead (s.qp q).sqTail + 2 ≤ 2 ^ (s.qp q).sqLog2 → (s.qp q).sqTail < 2 ^ ((s.qp q).sqLog2 + 1) →
    completes (.openAck p m) s fun t => (t.qp q).sqTail = ((s.qp q).sqTail + 2) % 2 ^ ((s.qp q).sqLog2 + 1) ∧ (wOp
    (t.ringWr q (s.qp q).sqTail) = 0 ∧ wHeld (t.ringWr q (s.qp q).sqTail) = true ∧ wLen (t.ringWr q (s.qp q).sqTail)
    = c.pages * 65536) ∧ (wOp (t.ringWr q ((s.qp q).sqTail + 1)) = 3 ∧ wHeld (t.ringWr q ((s.qp q).sqTail + 1)) =
    true) ∧ (t.reqs = s.reqs.map fun r => if r.reqId = c.reqId then (if r.st = .opening then
    { r with st := .running } else r) else r) ∧ othersSame {} s.qps t.qps [q.val] ∧ s.changes t (.movers :: .qps ::
    .reqs :: storeComps) [] storeCounts) ∧
  (∀ (s : State) (p : PartId) (m : MoverMsg) (c : MoveCtx) (k : Nat), s.fenced p = false → s.ready (.move p) = true →
    s.ctx p m.ctx.val = c → c.kind = 2 ∧ c.state = 1 ∧ c.bound = true ∧ c.reqId = m.reqId → m.status = 0 → (∀ e ∈
    (s.mover p).ctxs, e.2.kind = 4 → e.1 ≠ m.ctx.val) → ((s.setCtx p m.ctx.val
    { c with remoteBase := m.base, remoteKey := m.key, asked := true }).keySlot m.key = some k) → completes (.openAck
    p m) s fun t => t.fld .tier Reg.REMOTE_KEY k = m.key.toNat ∧ ((t.ctx p m.ctx.val).remoteBase = m.base ∧ (t.ctx p
    m.ctx.val).keyIdx = k) ∧ ((t.ctx p m.ctx.val).state = 3 ∨ (t.ctx p m.ctx.val).state = 5) ∧ s.changesOn t (.fresh
    :: .convs :: .qps :: .reqs :: putComps) putPages) ∧
  (∀ (s : State) (p : PartId) (m : MoverMsg) (c : MoveCtx), s.fenced p = false → s.ready (.move p) = true → s.ctx p
    m.ctx.val = c → c.state ≠ 1 ∨ c.reqId ≠ m.reqId ∨ c.bound = false → completes (.openAck p m) s fun t => t = s) ∧
  (∀ (s : State) (p : PartId) (m : MoverMsg), s.fenced p = true ∨ s.ready (.move p) = false → ∀ c ∈
    [Instr.openPush p, .openPark p, .openAck p, .pullReq p, .pullNak p, .close p, .closeAck p, .expire p], completes
    (c m) s fun t => t = s)

/-- PULL_REQ that fails a check of its region is answered PULL_NAK with the code; one that passes, outside a Cache
partition, takes a SERVE context, binds the lowest free data QP, and posts the run's WRITE and trigger. PULL_NAK
aborts what its context has not begun to fill, and a prefix copy fails with its code, and with it the later runs of
the same prompt. CLOSE that names no open transfer is answered; a receiving context it names fails with the code,
its data QPs go to ERROR, the copies above its watermark are freed, and it is answered. CLOSE_ACK returns the data
QPs, once they are flushed, to RTS and the pool. EXPIRE of a parked conversation forgets its REMOTE entries and its
Weir queues a notice with EXPIRED_TTL. Nothing else changes. On points the spec leaves open it states the model's
choices (notes/assumptions/26, 27). -/
def Obligations.PullsAndClosesAreServed : Prop :=
  (∀ (s : State) (p : PartId) (m : MoverMsg) (code : Nat), s.fenced p = false → s.ready (.move p) = true →
    (s.checkRegion p m.key 0 (fun g => g.read) m.base (m.pages * 65536) = some code) → completes (.pullReq p m) s fun
    t => (t.mover p).outbox = (s.mover p).outbox ++ s.moverMail p 5 m.fromNode m.fromPart
    { blankMsg m.ctx.val m.reqId with status := code } ∧ othersSame {} s.movers t.movers [p.val] ∧ (t.mover p).ctxs =
    (s.mover p).ctxs ∧ s.changes t [.movers] [] []) ∧
  (∀ (s : State) (p : PartId) (m : MoverMsg) (i k : Nat) (q : QpId), s.fenced p = false → s.ready (.move p) = true →
    (s.checkRegion p m.key 0 (fun g => g.read) m.base (m.pages * 65536) = none) → s.fld (.disp p) Reg.DISP_ROLE_CUR ≠
    3 → ((s.mover p).ctxs.find? (fun e => e.2.reqId == m.reqId && e.2.kind == 5 && decide (4 ≤ e.2.state) &&
    !e.2.bound) = none) → (s.freeCtx p = some i) → (s.findRun p m.fromNode m.fromPart 1 = some k) → q.val = 512 *
    p.val + k → s.convs = [] → (s.mover p).posts = [] → m.pages = 1 → s.slotsFor 1 = true → s.writable (s.qp
    q).sqBase (64 * 2 ^ (s.qp q).sqLog2) = true → m.base / 65536 ∉ pagesOf (s.qp q).sqBase (64 * 2 ^ (s.qp q).sqLog2)
    → ringUsed (s.qp q).sqLog2 (s.qp q).sqHead (s.qp q).sqTail + 2 ≤ 2 ^ (s.qp q).sqLog2 → 4 ≤ (s.qp q).sqLog2 →
    (s.qp q).sqTail < 2 ^ ((s.qp q).sqLog2 + 1) → completes (.pullReq p m) s fun t => ((t.ctx p i).kind = 5 ∧ (t.ctx
    p i).state = 3 ∧ (t.ctx p i).qpFirst = k ∧ (t.ctx p i).bound = true ∧ (t.ctx p i).remoteBase = m.base2) ∧ (t.qp
    q).sqTail = ((s.qp q).sqTail + 2) % 2 ^ ((s.qp q).sqLog2 + 1) ∧ ((s.leaf (m.base / 65536)).st = .resident .basin
    → (t.leaf (m.base / 65536)).st = .inTransit) ∧ othersSame {} s.movers t.movers [p.val] ∧ othersSame {} s.qps
    t.qps [q.val] ∧ s.changes t (.fresh :: .movers :: .qps :: storeComps) [] storeCounts) ∧
  (∀ (s : State) (p : PartId) (m : MoverMsg) (i : Nat), s.fenced p = false → s.ready (.move p) = true →
    (s.checkRegion p m.key 0 (fun g => g.read) m.base (m.pages * 65536) = none) → s.fld (.disp p) Reg.DISP_ROLE_CUR ≠
    3 → ((s.mover p).ctxs.find? (fun e => e.2.reqId == m.reqId && e.2.kind == 5 && decide (4 ≤ e.2.state) &&
    !e.2.bound) = none) → (s.freeCtx p = some i) → s.findRun p m.fromNode m.fromPart 1 = none → completes (.pullReq p
    m) s fun t => ((t.ctx p i).kind = 5 ∧ (t.ctx p i).state = 1 ∧ (t.ctx p i).localBase = m.base) ∧ s.counted t
    (.move p) 0xA8 ∧ othersSame {} s.movers t.movers [p.val] ∧ s.changes t [.fresh, .movers] [] [(.move p, 0xA8)]) ∧
  (∀ (s : State) (p : PartId) (m : MoverMsg) (c : MoveCtx) (x : Mig) (page : Nat), s.fenced p = false → s.ready
    (.move p) = true → s.ctx p m.ctx.val = c → c.kind = 4 ∧ c.state = 3 ∧ c.copyRun = false → c.layers = 1 ∧ c.pages
    = 1 → page = c.localBase / 65536 → s.tier.migs = [x] → x.page = page ∧ x.kind = .pull ∧ x.bytes = 0 ∧ x.later =
    [] ∧ x.owner = none → x.prev.st = .remote → s.tier.held = [] → s.tier.stalled = [] → s.tier.waitMigs = [] →
    s.tier.demoting = [] → s.tier.cmd = none → completes (.pullNak p m) s fun t => t.leaf page =
    { x.prev with pin := (s.leaf page).pin, hint := (s.leaf page).hint } ∧ t.tier.migs = [] ∧ Map.get false
    t.tier.frames (frameKey x.dstTier x.dstFrame) = false ∧ s.counted t .tier 0xB0 ∧ s.changes t [.tier] []
    [(.tier, 0xB0)]) ∧
  (∀ (s : State) (p : PartId) (m : MoverMsg) (c : MoveCtx), s.fenced p = false → s.ready (.move p) = true → (s.mover
    p).ctxs = [(m.ctx.val, c)] → c.kind = 4 ∧ c.state = 3 ∧ c.copyRun = true → s.tier.migs = [] → c.reqId < 2 ^ 32 →
    completes (.pullNak p m) s fun t => t.ctx p m.ctx.val = { c with state := 5, status := m.status, runs := [] } ∧
    s.counted t .srch 0xA8 ∧ othersSame {} s.movers t.movers [p.val] ∧ s.changes t [.movers, .tier] []
    [(.srch, 0xA8)]) ∧
  (∀ (s : State) (p : PartId) (m : MoverMsg) (c d : MoveCtx) (j : Nat), s.fenced p = false → s.ready (.move p) = true
    → (s.mover p).ctxs = [(m.ctx.val, c), (j, d)] → m.ctx.val < j → d.kind = 4 ∧ d.state = 3 ∧ d.copyRun = true ∧
    d.reqId = c.reqId ∧ c.localBase < d.localBase → c.kind = 4 ∧ c.state = 3 ∧ c.copyRun = true → s.tier.migs = [] →
    c.reqId < 2 ^ 32 → completes (.pullNak p m) s fun t => t.ctx p j =
    { d with state := 5, status := m.status, runs := [] } ∧ t.ctx p m.ctx.val =
    { c with state := 5, status := m.status, runs := [] } ∧ s.counted t .srch 0xA8 ∧ othersSame {} s.movers t.movers
    [p.val] ∧ s.changes t [.movers, .tier] [] [(.srch, 0xA8)]) ∧
  (∀ (s : State) (p : PartId) (m : MoverMsg), s.fenced p = false → s.ready (.move p) = true → (s.ctx p
    m.ctx.val).kind ≠ 4 ∨ (s.ctx p m.ctx.val).state = 0 ∨ 4 ≤ (s.ctx p m.ctx.val).state → completes (.pullNak p m)
    s fun t => t = s) ∧
  (∀ (s : State) (p : PartId) (m : MoverMsg), s.fenced p = false → s.ready (.move p) = true → ((m.status = 1 →
    s.convs.find? (fun v => v.part == p && v.st == .parked && v.parkReq == m.reqId) = none)) → ((s.mover
    p).ctxs.filter (fun (e : Nat × MoveCtx) => (e.2.kind == 1 || e.2.kind == 3) && e.2.reqId == m.reqId &&
    e.2.peerNode == m.fromNode && e.2.peerPart == m.fromPart && decide (1 ≤ e.2.state) && decide (e.2.state ≤ 3)) =
    []) → s.fld .srch Reg.CACHE_CFG_ENTRIES p.val = 0 → completes (.close p m) s fun t => (t.mover p).outbox =
    (s.mover p).outbox ++ s.moverMail p 7 m.fromNode m.fromPart
    { blankMsg m.ctx.val m.reqId with status := m.status } ∧ othersSame {} s.movers t.movers [p.val] ∧ (t.mover
    p).ctxs = (s.mover p).ctxs ∧ s.changes t [.movers] [] []) ∧
  (∀ (s : State) (p : PartId) (m : MoverMsg) (i : Nat) (c : MoveCtx), s.fenced p = false → s.ready (.move p) = true →
    ((m.status = 1 → s.convs.find? (fun v => v.part == p && v.st == .parked && v.parkReq == m.reqId) = none)) →
    ((s.mover p).ctxs.filter (fun (e : Nat × MoveCtx) => (e.2.kind == 1 || e.2.kind == 3) && e.2.reqId == m.reqId &&
    e.2.peerNode == m.fromNode && e.2.peerPart == m.fromPart && decide (1 ≤ e.2.state) && decide (e.2.state ≤ 3)) =
    [(i, c)]) → s.ctx p i = c → c.bound = true → c.qpFirst + c.stripesM1 < 512 → (c.qps p).all (fun q => (s.qp q).st
    == .rts) = true → s.fld .srch Reg.CACHE_CFG_ENTRIES p.val = 0 → (∀ e ∈ (s.mover p).ctxs, e.2.closed = false) →
    completes (.close p m) s fun t => t.ctx p i = { c with state := 5, status := m.status, closed := true } ∧ (∀ q ∈
    c.qps p, (t.qp q).st = .error ∧ (t.qp q).flushed = false) ∧ (∀ layer k, (if c.wmValid then c.wmLayer + 1 else 0)
    ≤ layer → layer < c.layers → k < c.pages → ∀ home ∈ [TierName.shallows, .basin, .deep], (t.leaf (c.pageAt layer
    k)).st ≠ .resident home) ∧ s.raised t (.move p) 1 ∧ t.fld (.move p) Reg.PG_ERR_CODE = 5 ∧ (t.mover p).outbox =
    (s.mover p).outbox ++ s.moverMail p 7 m.fromNode m.fromPart
    { blankMsg m.ctx.val m.reqId with status := m.status } ∧ othersSame {} s.movers t.movers [p.val] ∧ s.changesOn t
    [.movers, .qps, .engines, .tier, .mem, .out, .pcie] [.move p, .pcie, .feng (engOf p 0), .feng (engOf p 1)]) ∧
  (∀ (s : State) (p : PartId) (m : MoverMsg) (c : MoveCtx), s.fenced p = false → s.ready (.move p) = true → s.ctx p
    m.ctx.val = c → c.state = 5 ∧ c.bound = true → c.qpFirst + c.stripesM1 < 512 → (c.qps p).all (fun q => (s.qp
    q).st == .error && (s.qp q).flushed) = true → (∀ e ∈ (s.mover p).ctxs, 2 ≤ e.2.state ∧ e.2.parkNext = none ∧ (e.1
    ≠ m.ctx.val → e.2.closed = false)) → completes (.closeAck p m) s fun t => t.ctx p m.ctx.val =
    { c with bound := false, closed := false } ∧ (∀ q ∈ c.qps p, (t.qp q).st = .rts ∧ (t.qp q).sqTail = 0 ∧ (t.qp
    q).remQpn = (s.qp q).remQpn) ∧ othersSame {} s.movers t.movers [p.val] ∧ s.changes t
    [.movers, .qps, .engines, .tier] [] []) ∧
  (∀ (s : State) (p : PartId) (m : MoverMsg) (c : MoveCtx), s.fenced p = false → s.ready (.move p) = true → s.ctx p
    m.ctx.val = c → c.state = 5 ∧ c.bound = true → (c.qps p).any (fun q => (s.qp q).st == .error && !(s.qp
    q).flushed) = true → (∀ e ∈ (s.mover p).ctxs, e.1 ≠ m.ctx.val → e.2.closed = false) → completes (.closeAck p m)
    s fun t => t.ctx p m.ctx.val = { c with closed := true } ∧ othersSame {} s.movers t.movers [p.val] ∧ s.changes t
    [.movers] [] []) ∧
  (∀ (s : State) (p : PartId) (m : MoverMsg), s.fenced p = false → s.ready (.move p) = true → (s.ctx p
    m.ctx.val).state ≠ 5 ∨ (s.ctx p m.ctx.val).bound = false → completes (.closeAck p m) s fun t => t = s) ∧
  (∀ (s : State) (p : PartId) (m : MoverMsg) (v : Conv), s.fenced p = false → s.ready (.move p) = true →
    (s.convs.find? (fun (v : Conv) => v.part == p && v.parkReq == m.reqId && (v.st == .parked || decide (v.handle ≠
    0))) = some v) → v.st = .parked → completes (.expire p m) s fun t => (∀ u ∈ t.convs, ¬ (u.tenant = v.tenant ∧
    u.convId = v.convId)) ∧ (t.ten v.tenant).waiting = (s.ten v.tenant).waiting ++
    [({ reqId := m.reqId, convId := v.convId, status := 0x32, final := false, notice := true, handle := false, fallback := false, detail := 0, tokens := 0, pages := 0, layers := 0, qpos := 0, whenNs := 0 } : CplRec)]
    ∧ (∀ k, k < (s.convRange v).layers * (s.convRange v).pages → (t.leaf ((s.convRange v).pageAt (k / (s.convRange
    v).pages) (k % (s.convRange v).pages))).st ≠ .remote) ∧ othersSame {} s.tenants t.tenants [v.tenant.val] ∧
    s.changes t [.convs, .tenants, .tier] [] []) ∧
  (∀ (s : State) (p : PartId) (m : MoverMsg), s.fenced p = false → s.ready (.move p) = true → (s.convs.find? (fun (v
    : Conv) => v.part == p && v.parkReq == m.reqId && (v.st == .parked || decide (v.handle ≠ 0))) = none) → completes
    (.expire p m) s fun t => t = s)

/-- MOVER_STAGE_COPY_DONE notes the layer as staged in every sending context of its PASS whose layer was launched,
and releases the registrations of the layer's tag. ATTACH_DONE of a receiving push context takes the stripe's layer,
advances the watermark with its last stripe, ends the context with its last layer, and answers with QPLACE_ACK.
PARK_RETRY_TIMER before its time, or with nothing waiting, changes nothing; at its time a park that waits for a key
slot is granted. Nothing else changes. On points the spec leaves open it states the model's choices
(notes/assumptions/26, 27). -/
def Obligations.TransfersMakeProgress : Prop :=
  (∀ (s : State) (p : PartId) (pass : Fin 128) (layer : Fin 256) (i : Nat) (c : MoveCtx), ((s.mover p).ctxs.filter
    (fun e => e.2.kind == 0 && e.2.pass == pass.val && decide (e.2.state ≤ 3) && Map.get 0 e.2.layerAt layer.val != 0
    && !e.2.staged.contains layer.val) = [(i, c)]) → s.ctx p i = c → s.fenced p = false → s.ready (.move p) = true →
    c.sideBytes = 0 ∨ s.writable (stageOff c.localBase c.layers c.stride c.pages c.sideBytes layer.val 0) (c.pages *
    c.sideBytes) = true → completes (.moverStageCopyDone p pass layer) s fun t => t.ctx p i =
    { c with staged := layer.val :: c.staged } ∧ (∀ k ∈ [engOf p 0, engOf p 1], (t.eng k).trigs = (s.eng
    k).trigs.map fun u => if u.src == 4 && u.tag == 32768 + pass.val * 256 + layer.val then
    { u with released := true } else u) ∧ othersSame {} s.movers t.movers [p.val] ∧ othersSame {} s.engines t.engines
    [(engOf p 0).val, (engOf p 1).val] ∧ s.changes t (.movers :: .engines :: storeComps) []
    ([(.feng (engOf p 0), 0xD0), (.feng (engOf p 1), 0xD0), (.feng (engOf p 0), 0xD8)] ++ storeCounts)) ∧
  (∀ (s : State) (p : PartId) (pass : Fin 128) (layer : Fin 256), ((s.mover p).ctxs.filter (fun e => e.2.kind == 0 &&
    e.2.pass == pass.val && decide (e.2.state ≤ 3) && Map.get 0 e.2.layerAt layer.val != 0 && !e.2.staged.contains
    layer.val) = []) → completes (.moverStageCopyDone p pass layer) s fun t => t = s) ∧
  (∀ (s : State) (p : PartId) (c : Fin 256) (unit psn : Nat) (q : QpId) (x : MoveCtx) (w : RxWait) (old mask : Nat),
    s.fenced p = false → s.qrm.fencing = [] → (s.mover p).attaching = [(unit, psn)] → q = Fin.ofNat 16384 unit →
    s.ctx p c.val = x → x.kind = 1 ∧ 1 ≤ x.state ∧ x.state ≤ 3 → (s.qp q).remNode = x.peerNode ∧ (s.qp q).remPart =
    x.peerPart → ((s.qp q).rxWaits.find? (fun v => v.psn == psn && v.op == 0x41) = some w) → w.req.imm < x.layers →
    x.sideBytes = 0 → s.convs = [] → (∀ e ∈ (s.mover p).ctxs, (e.1 ≠ c.val → e.2.state ≠ 1) ∧ e.2.parkNext = none) →
    old = Map.get 0 x.layerDone w.req.imm → (mask = if bit old ((s.qp q).remQpn.val % 512) then old else old + 2 ^
    ((s.qp q).remQpn.val % 512)) → completes (.attachDone p c unit) s fun t => (t.mover p).attaching = [] ∧ Map.get 0
    (t.ctx p c.val).layerDone w.req.imm = mask ∧ (allStripes old (x.stripesM1 + 1) = false → allStripes mask
    (x.stripesM1 + 1) = true → (t.ctx p c.val).wmValid = true ∧ (t.ctx p c.val).wmLayer = w.req.imm ∧ ((t.ctx p
    c.val).state = if w.req.imm + 1 = x.layers then 4 else 3)) ∧ (t.qp q).rxWaits = (s.qp q).rxWaits.erase w ∧ t.out
    = s.out ++ s.qpAnswer q 0xC2
    { status := (s.qp q).lateCode.getD 0, dstNode := (s.qp q).remNode, dstQpn := (s.qp q).remQpn, psn := psn, sack := 0, payload := [] }
    ∧ othersSame {} s.movers t.movers [p.val] ∧ othersSame {} s.qps t.qps [q.val] ∧ othersSame {} s.engines t.engines
    [(engOfQp q).val] ∧ s.changes t [.movers, .qps, .engines, .out, .reqs] [] []) ∧
  (∀ (s : State) (p : PartId) (c : Fin 256) (unit : Nat), (∀ a ∈ (s.mover p).attaching, a.1 ≠ unit) → completes
    (.attachDone p c unit) s fun t => t = s) ∧
  (∀ (s : State) (p : PartId) (id tm i k : Nat) (c : MoveCtx) (v : Conv), s.fenced p = false → s.ready (.move p) =
    true → (∀ e ∈ (s.mover p).ctxs, e.2.kind = 4 → e.1 ≠ i) → ((s.mover p).parkWaits.find? (fun w => w.1 == id) =
    some (id, tm)) → tm + s.fld (.move p) Reg.MOVE_PARK_RETRY_MS * 1000000 ≤ s.now → (s.ctxOf p 2 id = some (i, c)) →
    s.ctx p i = c → c.state = 1 ∧ c.asked = true ∧ c.reqId = id → (s.convs.find? (fun v => v.part == p && v.reqId ==
    id && v.st != .parked) = some v) → ((s.setMover p
    { s.mover p with parkWaits := (s.mover p).parkWaits.filter fun w => w.1 != id }).keySlot c.remoteKey = some k) →
    completes (.parkRetryTimer p id) s fun t => t.fld .tier Reg.REMOTE_KEY k = c.remoteKey.toNat ∧ (t.ctx p i).keyIdx
    = k ∧ ((t.ctx p i).state = 3 ∨ (t.ctx p i).state = 5) ∧ (∀ w ∈ (t.mover p).parkWaits, w.1 ≠ id) ∧ s.changesOn t
    (.fresh :: .convs :: .qps :: .reqs :: putComps) putPages) ∧
  (∀ (s : State) (p : PartId) (id : Nat), (((s.mover p).parkWaits.find? (fun w => w.1 == id)).any (fun w => decide
    (s.now < w.2 + s.fld (.move p) Reg.MOVE_PARK_RETRY_MS * 1000000)) = true ∨ s.convs = [] ∧ (s.mover p).parkWaits =
    [] ∧ (∀ e ∈ (s.mover p).ctxs, e.2.parkNext = none)) → completes (.parkRetryTimer p id) s fun t => t = s)

/-- On a ready mover with no adapter command running, ADP_LOAD of a FREE slot with a new ID and VERSION, a legal
RANK and a length that fits marks the slot LOADING, latches what it loads and sets BUSY; a slot in use, a duplicate
or a bad length ends at once with its result. ADP_LOAD_DONE leaves the slot READY with the copy stored, under its
ID, VERSION, RANK and LEN, and retires the READY slots of the same ID, or leaves it FREE on a fault or a POISONED
source. ADP_RETIRE of a READY slot leaves it RETIRING, or FREE with nothing bound; ADP_FORCE of a slot that no
request is bound to does the same; either of another slot ends with BAD_STATE. While one runs each records ADP_BUSY.
A command that ends clears BUSY, reports its result and raises the interrupt. Nothing else changes. On points the
spec leaves open it states the model's choices (notes/assumptions/28). -/
def Obligations.AdapterCommandsRun : Prop :=
  (∀ (s : State) (p : PartId) (k : Fin 64), s.ready (.move p) = true → s.fld (.move p) Reg.MOVE_ADP_CMD_BUSY = 0 →
    s.adpState p k.val = 0 → ((List.range 64).any (fun j => s.adpState p j != 0 && s.fld (.move p) Reg.ADP_SLOT_ID j
    == s.fld (.move p) Reg.MOVE_ADP_NEW_ID && s.fld (.move p) Reg.ADP_SLOT_VERSION j == s.fld (.move p)
    Reg.MOVE_ADP_NEW_VERSION) = false) → ¬ (s.fld (.move p) Reg.MOVE_ADP_STRIDE_PAGES * 65536 < s.fld (.move p)
    Reg.MOVE_ADP_LEN_LEN ∨ s.fld (.move p) Reg.MOVE_ADP_LEN_LEN = 0 ∨ s.fld (.move p) Reg.MOVE_ADP_LEN_LEN % 64 ≠ 0 ∨
    s.fld (.move p) Reg.MOVE_ADP_RANK_RANK = 0 ∨ 256 < s.fld (.move p) Reg.MOVE_ADP_RANK_RANK) → completes (.adpLoad
    p k) s fun t => t.fld (.move p) Reg.ADP_SLOT_STATE k.val = 1 ∧ t.fld (.move p) Reg.MOVE_ADP_CMD_BUSY = 1 ∧ t.fld
    (.move p) Reg.MOVE_ADP_CMD_OP = 0 ∧ t.fld (.move p) Reg.MOVE_ADP_CMD_SLOT = k.val ∧ (t.mover p =
    { s.mover p with adpLoad := some { slot := k.val, src := s.fldAddr (.move p) Reg.MOVE_ADP_SRC_LO_SRC_LO Reg.MOVE_ADP_SRC_HI_SRC_HI, id := s.fld (.move p) Reg.MOVE_ADP_NEW_ID, version := s.fld (.move p) Reg.MOVE_ADP_NEW_VERSION, rank := s.fld (.move p) Reg.MOVE_ADP_RANK_RANK, len := s.fld (.move p) Reg.MOVE_ADP_LEN_LEN } })
    ∧ othersSame {} s.movers t.movers [p.val] ∧ s.changes t [.movers]
    [Reg.ADP_SLOT_STATE.place (.move p) k.val, Reg.MOVE_ADP_CMD_BUSY.place (.move p), Reg.MOVE_ADP_CMD_OP.place (.move p), Reg.MOVE_ADP_CMD_SLOT.place (.move p)]
    []) ∧
  (∀ (s : State) (p : PartId) (k : Fin 64), s.ready (.move p) = true → s.fld (.move p) Reg.MOVE_ADP_CMD_BUSY = 0 →
    s.adpState p k.val ≠ 0 → completes (.adpLoad p k) s fun t => t.fld (.move p) Reg.MOVE_ADP_CMD_OP = 0 ∧ t.fld
    (.move p) Reg.MOVE_ADP_CMD_SLOT = k.val ∧ t.fld (.move p) Reg.MOVE_ADP_CMD_BUSY = 0 ∧ t.fld (.move p)
    Reg.MOVE_ADP_CMD_RESULT = 2 ∧ s.raised t (.move p) 0 ∧ s.erred t (.move p) 2 ∧ s.changes t [.out, .pcie]
    ([Reg.MOVE_ADP_CMD_OP.place (.move p), Reg.MOVE_ADP_CMD_SLOT.place (.move p), Reg.MOVE_ADP_CMD_BUSY.place (.move p), Reg.MOVE_ADP_CMD_RESULT.place (.move p)]
    ++ errPlaces (.move p) ++ irqPlaces (.move p)) (errCounts (Page.move p) ++ irqCounts (Page.move p))) ∧
  (∀ (s : State) (p : PartId) (k : Fin 64), s.ready (.move p) = true → s.fld (.move p) Reg.MOVE_ADP_CMD_BUSY = 0 →
    s.adpState p k.val = 0 → ((List.range 64).any (fun j => s.adpState p j != 0 && s.fld (.move p) Reg.ADP_SLOT_ID j
    == s.fld (.move p) Reg.MOVE_ADP_NEW_ID && s.fld (.move p) Reg.ADP_SLOT_VERSION j == s.fld (.move p)
    Reg.MOVE_ADP_NEW_VERSION) = true) → completes (.adpLoad p k) s fun t => t.fld (.move p) Reg.MOVE_ADP_CMD_OP = 0 ∧
    t.fld (.move p) Reg.MOVE_ADP_CMD_SLOT = k.val ∧ t.fld (.move p) Reg.MOVE_ADP_CMD_BUSY = 0 ∧ t.fld (.move p)
    Reg.MOVE_ADP_CMD_RESULT = 3 ∧ s.raised t (.move p) 0 ∧ s.erred t (.move p) 2 ∧ s.changes t [.out, .pcie]
    ([Reg.MOVE_ADP_CMD_OP.place (.move p), Reg.MOVE_ADP_CMD_SLOT.place (.move p), Reg.MOVE_ADP_CMD_BUSY.place (.move p), Reg.MOVE_ADP_CMD_RESULT.place (.move p)]
    ++ errPlaces (.move p) ++ irqPlaces (.move p)) (errCounts (Page.move p) ++ irqCounts (Page.move p))) ∧
  (∀ (s : State) (p : PartId) (k : Fin 64), s.ready (.move p) = true → s.fld (.move p) Reg.MOVE_ADP_CMD_BUSY = 0 →
    s.adpState p k.val = 0 → ((List.range 64).any (fun j => s.adpState p j != 0 && s.fld (.move p) Reg.ADP_SLOT_ID j
    == s.fld (.move p) Reg.MOVE_ADP_NEW_ID && s.fld (.move p) Reg.ADP_SLOT_VERSION j == s.fld (.move p)
    Reg.MOVE_ADP_NEW_VERSION) = false) → s.fld (.move p) Reg.MOVE_ADP_STRIDE_PAGES * 65536 < s.fld (.move p)
    Reg.MOVE_ADP_LEN_LEN ∨ s.fld (.move p) Reg.MOVE_ADP_LEN_LEN = 0 ∨ s.fld (.move p) Reg.MOVE_ADP_LEN_LEN % 64 ≠ 0 ∨
    s.fld (.move p) Reg.MOVE_ADP_RANK_RANK = 0 ∨ 256 < s.fld (.move p) Reg.MOVE_ADP_RANK_RANK → completes (.adpLoad p
    k) s fun t => t.fld (.move p) Reg.MOVE_ADP_CMD_OP = 0 ∧ t.fld (.move p) Reg.MOVE_ADP_CMD_SLOT = k.val ∧ t.fld
    (.move p) Reg.MOVE_ADP_CMD_BUSY = 0 ∧ t.fld (.move p) Reg.MOVE_ADP_CMD_RESULT = 4 ∧ s.raised t (.move p) 0 ∧
    s.erred t (.move p) 2 ∧ s.changes t [.out, .pcie]
    ([Reg.MOVE_ADP_CMD_OP.place (.move p), Reg.MOVE_ADP_CMD_SLOT.place (.move p), Reg.MOVE_ADP_CMD_BUSY.place (.move p), Reg.MOVE_ADP_CMD_RESULT.place (.move p)]
    ++ errPlaces (.move p) ++ irqPlaces (.move p)) (errCounts (Page.move p) ++ irqCounts (Page.move p))) ∧
  (∀ (s : State) (p : PartId) (a : AdpLoad), ((s.mover p).adpLoad = some a) → a.slot < 64 → completes (.adpLoadDone p
    true) s fun t => t.fld (.move p) Reg.ADP_SLOT_STATE a.slot = 0 ∧ t.fld (.move p) Reg.MOVE_ADP_CMD_BUSY = 0 ∧
    t.fld (.move p) Reg.MOVE_ADP_CMD_RESULT = 5 ∧ s.erred t (.move p) 2 ∧ s.raised t (.move p) 0 ∧ (t.mover
    p).adpLoad = none ∧ othersSame {} s.movers t.movers [p.val] ∧ s.changes t [.movers, .out, .pcie]
    ([Reg.ADP_SLOT_STATE.place (.move p) a.slot, Reg.MOVE_ADP_CMD_BUSY.place (.move p), Reg.MOVE_ADP_CMD_RESULT.place (.move p)]
    ++ errPlaces (.move p) ++ irqPlaces (.move p)) (errCounts (Page.move p) ++ irqCounts (Page.move p))) ∧
  (∀ (s : State) (p : PartId) (a : AdpLoad), ((s.mover p).adpLoad = some a) → a.slot < 64 → s.tier.answers = [] → (∃
    g ∈ pagesOf a.src a.len, s.serveRead g = .poisoned) → completes (.adpLoadDone p false) s fun t => t.fld (.move p)
    Reg.ADP_SLOT_STATE a.slot = 0 ∧ t.fld (.move p) Reg.MOVE_ADP_CMD_BUSY = 0 ∧ t.fld (.move p)
    Reg.MOVE_ADP_CMD_RESULT = 5 ∧ s.erred t (.move p) 2 ∧ s.raised t (.move p) 0 ∧ (t.mover p).adpLoad = none ∧
    othersSame {} s.movers t.movers [p.val] ∧ s.changes t [.movers, .out, .pcie, .tier, .pwr]
    ([Reg.ADP_SLOT_STATE.place (.move p) a.slot, Reg.MOVE_ADP_CMD_BUSY.place (.move p), Reg.MOVE_ADP_CMD_RESULT.place (.move p)]
    ++ errPlaces (.move p) ++ irqPlaces (.move p)) (errCounts (Page.move p) ++ irqCounts (Page.move p) ++
    [(.tier, 0x88), (.tier, 0x90), (.pwr, 0xB0)])) ∧
  (∀ (s : State) (p : PartId) (a : AdpLoad) (home : TierName) (d : Nat), ((s.mover p).adpLoad = some a) → a.slot < 64
    → s.tier.answers = [] → s.readable a.src a.len → d = s.fldAddr (.move p) Reg.MOVE_ADP_BASE_LO_BASE_LO
    Reg.MOVE_ADP_BASE_HI_BASE_HI + a.slot * s.fld (.move p) Reg.MOVE_ADP_STRIDE_PAGES * 65536 → a.len ≠ 0 ∧ d % 65536
    + a.len ≤ 65536 → (s.leaf (pageOf d)).st = .resident home → s.heldOn (pageOf d) = [] → a.rank < 2 ^
    Reg.ADP_SLOT_RANK.width → a.len < 2 ^ Reg.ADP_SLOT_LEN.width → a.id < 2 ^ Reg.ADP_SLOT_ID.width → a.version < 2 ^
    Reg.ADP_SLOT_VERSION.width → completes (.adpLoadDone p false) s fun t => Map.bytes t.mem d a.len = s.rd a.src
    a.len ∧ bytesSame s.mem t.mem d a.len ∧ (t.fld (.move p) Reg.ADP_SLOT_STATE a.slot = 2 ∧ t.fld (.move p)
    Reg.ADP_SLOT_ID a.slot = a.id ∧ t.fld (.move p) Reg.ADP_SLOT_VERSION a.slot = a.version ∧ t.fld (.move p)
    Reg.ADP_SLOT_RANK a.slot = a.rank ∧ t.fld (.move p) Reg.ADP_SLOT_LEN a.slot = a.len) ∧ (∀ j, j < 64 → j ≠ a.slot
    → t.adpState p j = if s.adpState p j = 2 ∧ s.fld (.move p) Reg.ADP_SLOT_ID j = a.id then (if s.fld (.move p)
    Reg.ADP_SLOT_REFS j = 0 then 0 else 3) else s.adpState p j) ∧ t.fld (.move p) Reg.MOVE_ADP_CMD_BUSY = 0 ∧ t.fld
    (.move p) Reg.MOVE_ADP_CMD_RESULT = 0 ∧ s.raised t (.move p) 0 ∧ (t.mover p).adpLoad = none ∧ othersSame {}
    s.movers t.movers [p.val] ∧ s.changesOn t [.movers, .out, .pcie, .tier, .pwr, .mem, .digs]
    [.move p, .pcie, .tier, .pwr]) ∧
  (∀ (s : State) (p : PartId) (fault : Bool), (s.mover p).adpLoad = none → completes (.adpLoadDone p fault) s fun t
    => t = s) ∧
  (∀ (s : State) (p : PartId) (k : Fin 64), s.ready (.move p) = true → s.fld (.move p) Reg.MOVE_ADP_CMD_BUSY = 0 →
    s.adpState p k.val = 2 → completes (.adpRetire p k) s fun t => (t.fld (.move p) Reg.ADP_SLOT_STATE k.val = (if
    s.fld (.move p) Reg.ADP_SLOT_REFS k.val = 0 then 0 else 3)) ∧ t.fld (.move p) Reg.MOVE_ADP_CMD_OP = 1 ∧ t.fld
    (.move p) Reg.MOVE_ADP_CMD_SLOT = k.val ∧ t.fld (.move p) Reg.MOVE_ADP_CMD_BUSY = 0 ∧ t.fld (.move p)
    Reg.MOVE_ADP_CMD_RESULT = 0 ∧ s.raised t (.move p) 0 ∧ s.changes t [.out, .pcie]
    ([Reg.ADP_SLOT_STATE.place (.move p) k.val, Reg.MOVE_ADP_CMD_OP.place (.move p), Reg.MOVE_ADP_CMD_SLOT.place (.move p), Reg.MOVE_ADP_CMD_BUSY.place (.move p), Reg.MOVE_ADP_CMD_RESULT.place (.move p)]
    ++ irqPlaces (.move p)) (irqCounts (.move p))) ∧
  (∀ (s : State) (p : PartId) (k : Fin 64), s.ready (.move p) = true → s.fld (.move p) Reg.MOVE_ADP_CMD_BUSY = 0 →
    s.adpState p k.val = 2 ∨ s.adpState p k.val = 3 → (s.reqs.filter (fun r => r.genPart == some p && r.adapter ==
    some k.val && !r.recorded) = []) → completes (.adpForce p k) s fun t => (t.fld (.move p) Reg.ADP_SLOT_STATE k.val
    = (if s.fld (.move p) Reg.ADP_SLOT_REFS k.val = 0 then 0 else 3)) ∧ t.fld (.move p) Reg.MOVE_ADP_CMD_OP = 2 ∧
    t.fld (.move p) Reg.MOVE_ADP_CMD_SLOT = k.val ∧ t.fld (.move p) Reg.MOVE_ADP_CMD_BUSY = 0 ∧ t.fld (.move p)
    Reg.MOVE_ADP_CMD_RESULT = 0 ∧ s.raised t (.move p) 0 ∧ s.changes t [.out, .pcie]
    ([Reg.ADP_SLOT_STATE.place (.move p) k.val, Reg.MOVE_ADP_CMD_OP.place (.move p), Reg.MOVE_ADP_CMD_SLOT.place (.move p), Reg.MOVE_ADP_CMD_BUSY.place (.move p), Reg.MOVE_ADP_CMD_RESULT.place (.move p)]
    ++ irqPlaces (.move p)) (irqCounts (.move p))) ∧
  (∀ (s : State) (p : PartId) (k : Fin 64), s.ready (.move p) = true → s.fld (.move p) Reg.MOVE_ADP_CMD_BUSY = 0 →
    s.adpState p k.val ≠ 2 → completes (.adpRetire p k) s fun t => t.fld (.move p) Reg.MOVE_ADP_CMD_OP = 1 ∧ t.fld
    (.move p) Reg.MOVE_ADP_CMD_SLOT = k.val ∧ t.fld (.move p) Reg.MOVE_ADP_CMD_BUSY = 0 ∧ t.fld (.move p)
    Reg.MOVE_ADP_CMD_RESULT = 1 ∧ s.raised t (.move p) 0 ∧ s.erred t (.move p) 2 ∧ s.changes t [.out, .pcie]
    ([Reg.MOVE_ADP_CMD_OP.place (.move p), Reg.MOVE_ADP_CMD_SLOT.place (.move p), Reg.MOVE_ADP_CMD_BUSY.place (.move p), Reg.MOVE_ADP_CMD_RESULT.place (.move p)]
    ++ errPlaces (.move p) ++ irqPlaces (.move p)) (errCounts (Page.move p) ++ irqCounts (Page.move p))) ∧
  (∀ (s : State) (p : PartId) (k : Fin 64), s.ready (.move p) = true → s.fld (.move p) Reg.MOVE_ADP_CMD_BUSY = 0 →
    s.adpState p k.val ≠ 2 ∧ s.adpState p k.val ≠ 3 → completes (.adpForce p k) s fun t => t.fld (.move p)
    Reg.MOVE_ADP_CMD_OP = 2 ∧ t.fld (.move p) Reg.MOVE_ADP_CMD_SLOT = k.val ∧ t.fld (.move p) Reg.MOVE_ADP_CMD_BUSY =
    0 ∧ t.fld (.move p) Reg.MOVE_ADP_CMD_RESULT = 1 ∧ s.raised t (.move p) 0 ∧ s.erred t (.move p) 2 ∧ s.changes t
    [.out, .pcie]
    ([Reg.MOVE_ADP_CMD_OP.place (.move p), Reg.MOVE_ADP_CMD_SLOT.place (.move p), Reg.MOVE_ADP_CMD_BUSY.place (.move p), Reg.MOVE_ADP_CMD_RESULT.place (.move p)]
    ++ errPlaces (.move p) ++ irqPlaces (.move p)) (errCounts (Page.move p) ++ irqCounts (Page.move p))) ∧
  (∀ (s : State) (p : PartId) (k : Fin 64), s.ready (.move p) = true → s.fld (.move p) Reg.MOVE_ADP_CMD_BUSY ≠ 0 → ∀
    c ∈ [Instr.adpLoad p k, .adpRetire p k, .adpForce p k], completes c s fun t => s.erred t (.move p) 1 ∧ s.changes
    t [] (errPlaces (.move p)) (errCounts (.move p)))

/-- In a Cache partition of one entry whose mover is ready and not fenced, CACHE_TTL_TICK expires a LIVE entry past
EXPIRE_AT that is not pinned, and sets EXP_PEND on one that is; ORPHAN_TIMEOUT expires a RESUMED entry after
ORPHAN_S without a PULL_REQ. An entry that expires is counted and becomes FREE. Before its time nothing changes.
PREFIX_BUCKETS_LOADED pulls the run of a prompt whose first block's bucket holds a VALID slot of equal chain hash
into the range of its push, from the Cache partition, with the entry's tag and a key slot installed; a prompt whose
first block has no such slot, or without an open push, changes nothing. On points the spec leaves open it states the
model's choices (notes/assumptions/29). -/
def Obligations.CacheEntriesExpire : Prop :=
  (∀ (s : State) (p : PartId), s.cacheOn p 0 = true → s.fld .srch Reg.CACHE_CFG_ENTRIES p.val = 1 → entState (s.entry
    p 0) = 2 → entExpire (s.entry p 0) ≤ s.now → entPins (s.entry p 0) = 0 → s.writable (s.entryAddr p 0) 64 = true →
    (∀ k, k < entRange (s.entry p 0) → entBase (s.entry p 0) / 65536 + k ≠ pageOf (s.entryAddr p 0)) → completes
    (.cacheTtlTick p) s fun t => entState (t.entry p 0) = 0 ∧ s.counted t .srch 0x88 ∧ s.changesOn t putComps (.srch
    :: putPages)) ∧
  (∀ (s : State) (p : PartId), s.cacheOn p 0 = true → s.fld .srch Reg.CACHE_CFG_ENTRIES p.val = 1 → entState (s.entry
    p 0) = 2 → entExpire (s.entry p 0) ≤ s.now → entPins (s.entry p 0) ≠ 0 → s.writable (s.entryAddr p 0) 64 = true →
    completes (.cacheTtlTick p) s fun t => t.entry p 0 = withBits (s.entry p 0) 4 1 1 ∧ bytesSame s.mem t.mem
    (s.entryAddr p 0) 64 ∧ s.changes t storeComps [] storeCounts) ∧
  (∀ (s : State) (p : PartId), s.fld .srch Reg.CACHE_CFG_ENTRIES p.val = 1 → s.cacheOn p 0 = false ∨ entState
    (s.entry p 0) ≠ 2 ∨ s.now < entExpire (s.entry p 0) → completes (.cacheTtlTick p) s fun t => t = s) ∧
  (∀ (s : State) (p : PartId) (i : Fin 4096), s.cacheOn p i.val = true → entState (s.entry p i.val) = 3 → Map.get 0
    s.srch.lastPull (p.val * 4096 + i.val) - 1 + s.fld .srch Reg.CACHE_CFG_ORPHAN_S p.val * 1000000000 ≤ s.now →
    s.writable (s.entryAddr p i.val) 64 = true → (∀ k, k < entRange (s.entry p i.val) → entBase (s.entry p i.val) /
    65536 + k ≠ pageOf (s.entryAddr p i.val)) → completes (.orphanTimeout p i) s fun t => entState (t.entry p i.val)
    = 0 ∧ s.counted t .srch 0x88 ∧ s.changesOn t putComps (.srch :: putPages)) ∧
  (∀ (s : State) (p : PartId) (i : Fin 4096), entState (s.entry p i.val) ≠ 3 ∨ s.now < Map.get 0 s.srch.lastPull
    (p.val * 4096 + i.val) - 1 + s.fld .srch Reg.CACHE_CFG_ORPHAN_S p.val * 1000000000 → completes (.orphanTimeout p
    i) s fun t => t = s) ∧
  (∀ (s : State) (p : PartId) (id : Nat) (cache : PartId) (node : Nat) (key : Word) (x : PfxSlot) (r : Req) (j : Nat)
    (c0 : MoveCtx) (k i : Nat), s.fenced p = false → s.ready (.move p) = true → (s.req id = some r) → (s.ctxOf p 0 id
    = some (j, c0)) → (r.promptPart = some p) → dNoPrefix r.desc = false → r.endStatus = none → 64 ≤
    r.promptTokens.length → x.valid = true → x.hash = chainHash (dNamespace r.desc) (dModelKey r.desc)
    (r.promptTokens.take 64) → (s.keySlot key = some k) → (s.freeCtx p = some i) → ((s.mover p).ctxs.find? (fun e =>
    e.2.reqId == c0.reqId && e.2.kind == 4 && decide (4 ≤ e.2.state) && !e.2.bound) = none) → (∀ v ∈ s.convs, v.part
    ≠ p ∨ v.reqId ≠ id) → completes (.prefixBucketsLoaded p id cache node key [[x]]) s fun t => t.fld .tier
    Reg.REMOTE_KEY k = key.toNat ∧ ((t.ctx p i).kind = 4 ∧ (t.ctx p i).copyRun = true ∧ (t.ctx p i).askId = x.tag) ∧
    ((t.ctx p i).remoteBase = x.base + x.block * 65536 ∧ (t.ctx p i).peerNode = node ∧ (t.ctx p i).peerPart = cache)
    ∧ (t.ctx p i).localBase = c0.localBase ∧ othersSame {} s.movers t.movers [p.val] ∧ s.changes t [.movers, .tier]
    [Reg.REMOTE_KEY.place .tier k] [(Page.move p, 0x98)]) ∧
  (∀ (s : State) (p : PartId) (id : Nat) (cache : PartId) (node : Nat) (key : Word) (buckets : List (List PfxSlot)),
    s.fenced p = true ∨ s.ready (.move p) = false ∨ s.req id = none ∨ s.ctxOf p 0 id = none → completes
    (.prefixBucketsLoaded p id cache node key buckets) s fun t => t = s) ∧
  (∀ (s : State) (p : PartId) (id : Nat) (cache : PartId) (node : Nat) (key : Word) (rest : List (List PfxSlot)) (b :
    List PfxSlot) (r : Req), (s.req id = some r) → (∀ x ∈ b, x.valid = false ∨ x.hash ≠ chainHash (dNamespace r.desc)
    (dModelKey r.desc) (r.promptTokens.take 64)) → completes (.prefixBucketsLoaded p id cache node key (b :: rest))
    s fun t => t = s)

/-- On an enabled ring of a Cache partition SEARCH takes a legal descriptor at HEAD with its collection (OP cleared,
HEAD advanced, the work begun), and ends an illegal one with BAD_DESC in its completion word. SEARCH_DONE writes the
best K of the SHORTLIST by exact score, ties by ID, then the completion word, and counts the vectors compared and
skipped. PFX_INSERT takes an entry, FILLING, and a range, and begins its pulls; an illegal descriptor ends with
BAD_DESC. PFX_INSERT_DONE leaves the entry LIVE with its expiry, or FREE after PULL_NAK. A ring that is not enabled
does nothing. On points the spec leaves open it states the model's choices (notes/assumptions/30). -/
def Obligations.SearchesAndInsertsRun : Prop :=
  (∀ (s : State) (p : PartId) (home : TierName) (b a : Nat) (d c : BitVec 512), s.ringOn p = true → b = s.ringBase p
    → a = s.ringSlot p → (s.leaf (pageOf b)).st = .resident home → s.heldOn (pageOf b) = [] → b % 65536 + 64 + 64 * 2
    ^ s.fld .srch Reg.CACHE_CFG_RING_LOG2 p.val ≤ 65536 → d = BitVec.ofNat 512 (s.rdNat a 64) → s.ringRole p = true →
    searchOk d = true → s.readable (BV d 64 64) 64 → c = BitVec.ofNat 512 (s.rdNat (BV d 64 64) 64) → collOk c = true
    → s.tier.answers = [] → completes (.search p) s fun t => t.rdNat a 1 = 0 ∧ t.rdNat (b + 8) 8 = (s.rdNat (b + 8) 8
    + 1) % 2 ^ 64 ∧ t.srch.works = s.srch.works ++
    [({ ticket := s.srch.nextTicket, part := p, desc := d, taken := s.now, coll := c, entry := none } : Work)] ∧
    s.changesOn t [.tier, .pwr, .mem, .digs, .out, .srch] [.srch, .tier, .pwr]) ∧
  (∀ (s : State) (p : PartId) (home : TierName) (b a : Nat) (d : BitVec 512), s.ringOn p = true → b = s.ringBase p →
    a = s.ringSlot p → (s.leaf (pageOf b)).st = .resident home → s.heldOn (pageOf b) = [] → b % 65536 + 64 + 64 * 2 ^
    s.fld .srch Reg.CACHE_CFG_RING_LOG2 p.val ≤ 65536 → d = BitVec.ofNat 512 (s.rdNat a 64) → (s.leaf (pageOf (BV d
    320 64))).st = .resident home → s.heldOn (pageOf (BV d 320 64)) = [] → (BV d 320 64) % 65536 + 8 ≤ 65536 → BV d 0
    8 ≠ 0 ∧ BV d 0 8 ≠ 2 → s.ringRole p = true → searchOk d = false → s.tier.answers = [] → completes (.search p)
    s fun t => t.rdNat (BV d 320 64) 8 = 1 + 2 ^ 8 * (0) + 2 ^ 63 ∧ s.counted t .srch 0xC0 ∧ t.srch = s.srch ∧
    s.changesOn t [.tier, .pwr, .mem, .digs, .out, .srch] [.srch, .tier, .pwr]) ∧
  (∀ (s : State) (p : PartId) (home : TierName) (b a : Nat) (d : BitVec 512), s.ringOn p = true → b = s.ringBase p →
    a = s.ringSlot p → (s.leaf (pageOf b)).st = .resident home → s.heldOn (pageOf b) = [] → b % 65536 + 64 + 64 * 2 ^
    s.fld .srch Reg.CACHE_CFG_RING_LOG2 p.val ≤ 65536 → d = BitVec.ofNat 512 (s.rdNat a 64) → (s.leaf (pageOf (BV d
    320 64))).st = .resident home → s.heldOn (pageOf (BV d 320 64)) = [] → (BV d 320 64) % 65536 + 8 ≤ 65536 → BV d 0
    8 ≠ 0 ∧ BV d 0 8 ≠ 2 → s.ringRole p = false → s.tier.answers = [] → completes (.search p) s fun t => t.rdNat (BV
    d 320 64) 8 = 2 + 2 ^ 8 * (0) + 2 ^ 63 ∧ s.counted t .srch 0xC0 ∧ t.srch = s.srch ∧ s.changesOn t
    [.tier, .pwr, .mem, .digs, .out, .srch] [.srch, .tier, .pwr]) ∧
  (∀ (s : State) (p : PartId), s.ringOn p = false → completes (.search p) s (fun t => t = s) ∧ completes (.pfxInsert
    p) s (fun t => t = s)) ∧
  (∀ (s : State) (p : PartId) (ticket : Nat) (home : TierName) (w : Work) (d c : BitVec 512) (best : List Hit) (n k :
    Nat), (s.srch.works.find? (fun w => w.ticket == ticket && w.part == p && w.entry.isNone) = some w) → d = w.desc →
    c = w.coll → s.readableAll (scanRanges d c) → s.readableAll ((s.shortlist d c).flatMap (candRanges c)) → (best =
    (sortBy (hitBefore (BV d 8 8 == 2)) ((s.shortlist d c).map fun x =>
    ({ id := s.rdNat ((segOf c x.2.1.toNat).ids + x.2.2 * 8) 8, score := s.score (BV d 8 8) (segOf c x.2.1.toNat).fmt (BV d 192 64) ((segOf c x.2.1.toNat).vec + x.2.2 * (segOf c x.2.1.toNat).vstride) (segOf c x.2.1.toNat).dim, pos := x.2.2 + x.2.1.toNat * 2 ^ 31 }
    : Hit))).take (BV d 16 16)) → n = best.length → k = (s.distances (segOf c 0) false []).length + (s.distances
    (segOf c 1) true []).length → n ≠ 0 → (s.leaf (pageOf (BV d 256 64))).st = .resident home → s.heldOn (pageOf (BV
    d 256 64)) = [] → BV d 256 64 % 65536 + 16 * n ≤ 65536 → (s.leaf (pageOf (BV d 320 64))).st = .resident home →
    s.heldOn (pageOf (BV d 320 64)) = [] → (BV d 320 64) % 65536 + 8 ≤ 65536 → BV d 256 64 + 16 * n ≤ BV d 320 64 ∨
    BV d 320 64 + 8 ≤ BV d 256 64 → n < 65536 → s.tier.answers = [] → completes (.searchDone p ticket) s fun t =>
    (t.rd (BV d 256 64) (16 * n) = (best.flatMap fun h => bytesOfNat 8 h.id ++ bytesOfNat 4 h.score.toNat ++
    bytesOfNat 4 h.pos)) ∧ t.rdNat (BV d 320 64) 8 = 0 + 2 ^ 8 * (n) + 2 ^ 63 ∧ (t.srch.works =
    s.srch.works.filter fun w => w.ticket != ticket) ∧ s.counted t .srch 0xC0 ∧ s.counted t .srch 0xC8 k ∧ s.counted
    t .srch 0xD0 ((segOf c 0).count + (segOf c 1).count - k) ∧ s.changesOn t [.tier, .pwr, .mem, .digs, .out, .srch]
    [.srch, .tier, .pwr]) ∧
  (∀ (s : State) (p : PartId) (ticket : Nat), (∀ w ∈ s.srch.works, w.ticket ≠ ticket ∨ w.part ≠ p ∨ w.entry ≠ none) →
    completes (.searchDone p ticket) s fun t => t = s) ∧
  (∀ (s : State) (p : PartId) (home : TierName) (b a : Nat) (d : BitVec 512) (i k g n : Nat), s.ringOn p = true → b =
    s.ringBase p → a = s.ringSlot p → (s.leaf (pageOf b)).st = .resident home → s.heldOn (pageOf b) = [] → b % 65536
    + 64 + 64 * 2 ^ s.fld .srch Reg.CACHE_CFG_RING_LOG2 p.val ≤ 65536 → d = BitVec.ofNat 512 (s.rdNat a 64) →
    s.ringRole p = true → BV d 0 8 = 2 → insertOk d = true → (s.freeEntry p = some i) → (s.keySlot (BitVec.ofNat 32
    (BV d 96 32)) = some k) → s.ctxRoom p = true → n = BV d 16 16 * BV d 32 32 + (BV d 16 16 * BV d 32 32 * BV d 224
    16 + 65535) / 65536 → (s.rangeIn p (s.fld .srch Reg.CACHE_CFG_PFX_RGN p.val) n = some g) → g < 2 ^ 31 →
    s.entryAddr p i + 64 ≤ b ∨ b + 64 + 64 * 2 ^ s.fld .srch Reg.CACHE_CFG_RING_LOG2 p.val ≤ s.entryAddr p i →
    s.tier.answers = [] → s.writable (s.entryAddr p i) 64 = true → (∀ v ∈ s.convs, v.reqId < 2 ^ 32) → completes
    (.pfxInsert p) s fun t => (entState (t.entry p i) = 1 ∧ entKind (t.entry p i) = 1 ∧ entBase (t.entry p i) = g *
    65536 ∧ entLayers (t.entry p i) = BV d 16 16 ∧ entPages (t.entry p i) = BV d 32 32) ∧ t.rdNat (b + 8) 8 =
    (s.rdNat (b + 8) 8 + 1) % 2 ^ 64 ∧ (t.srch.works = s.srch.works ++
    [({ ticket := s.srch.nextTicket, part := p, desc := d, taken := s.now, coll := 0, entry := some i } : Work)]) ∧
    t.fld .tier Reg.REMOTE_KEY k = BV d 96 32 ∧ s.changesOn t
    [.movers, .tier, .out, .mem, .digs, .fresh, .srch, .pwr] [.srch, .tier, .pwr, .move p]) ∧
  (∀ (s : State) (p : PartId) (home : TierName) (b a : Nat) (d : BitVec 512), s.ringOn p = true → b = s.ringBase p →
    a = s.ringSlot p → (s.leaf (pageOf b)).st = .resident home → s.heldOn (pageOf b) = [] → b % 65536 + 64 + 64 * 2 ^
    s.fld .srch Reg.CACHE_CFG_RING_LOG2 p.val ≤ 65536 → d = BitVec.ofNat 512 (s.rdNat a 64) → (s.leaf (pageOf (BV d
    320 64))).st = .resident home → s.heldOn (pageOf (BV d 320 64)) = [] → (BV d 320 64) % 65536 + 8 ≤ 65536 →
    s.ringRole p = true → BV d 0 8 = 2 → insertOk d = false → s.tier.answers = [] → completes (.pfxInsert p) s fun t
    => t.rdNat (BV d 320 64) 8 = 1 + 2 ^ 8 * (0) + 2 ^ 63 ∧ t.srch = s.srch ∧ s.changesOn t
    [.tier, .pwr, .mem, .digs, .out, .srch] [.srch, .tier, .pwr]) ∧
  (∀ (s : State) (p : PartId) (ticket : Nat) (home : TierName) (w : Work) (i : Nat) (d : BitVec 512),
    (s.srch.works.find? (fun w => w.ticket == ticket && w.part == p && w.entry.isSome) = some w) → (w.entry = some i)
    → d = w.desc → (s.leaf (pageOf (BV d 320 64))).st = .resident home → s.heldOn (pageOf (BV d 320 64)) = [] → (BV d
    320 64) % 65536 + 8 ≤ 65536 → s.entryAddr p i + 64 ≤ BV d 320 64 ∨ BV d 320 64 + 8 ≤ s.entryAddr p i → pageOf (BV
    d 320 64) < entBase (s.entry p i) / 65536 ∨ entBase (s.entry p i) / 65536 + entRange (s.entry p i) ≤ pageOf (BV d
    320 64) → s.writable (s.entryAddr p i) 64 = true →(∀ k, k < entRange (s.entry p i) → entBase (s.entry p i) /
    65536 + k ≠ pageOf (s.entryAddr p i)) → completes (.pfxInsertDone p ticket true) s fun t => entState (t.entry p
    i) = 0 ∧ t.rdNat (BV d 320 64) 8 = 5 + 2 ^ 8 * (0) + 2 ^ 63 ∧ (t.srch.works = s.srch.works.filter fun w =>
    w.ticket != ticket) ∧ s.changesOn t [.tier, .pwr, .mem, .digs, .out, .srch] [.srch, .tier, .pwr]) ∧
  (∀ (s : State) (p : PartId) (ticket : Nat) (home : TierName) (w : Work) (i : Nat) (d : BitVec 512),
    (s.srch.works.find? (fun w => w.ticket == ticket && w.part == p && w.entry.isSome) = some w) → (w.entry = some i)
    → d = w.desc → (s.leaf (pageOf (BV d 320 64))).st = .resident home → s.heldOn (pageOf (BV d 320 64)) = [] → (BV d
    320 64) % 65536 + 8 ≤ 65536 → s.entryAddr p i + 64 ≤ BV d 320 64 ∨ BV d 320 64 + 8 ≤ s.entryAddr p i → (∀ j, j <
    entLayers (s.entry p i) * entPages (s.entry p i) → s.away (entBase (s.entry p i) / 65536 + j) = false) →
    s.readable (BV d 256 64) (16 * entPages (s.entry p i)) → entPages (s.entry p i) = 1 → ((List.range 8).all (fun j
    => decide (s.rdNat (s.idxSlot p (natOfBytes (s.rd (BV d 256 64) 8) % 2 ^ s.fld .srch Reg.CACHE_CFG_IDX_LOG2
    p.val) j + 24) 1 = 0)) = true) → s.heldOn (pageOf (s.idxSlot p (natOfBytes (s.rd (BV d 256 64) 8) % 2 ^ s.fld
    .srch Reg.CACHE_CFG_IDX_LOG2 p.val) 0)) = [] → (s.leaf (pageOf (s.idxSlot p (natOfBytes (s.rd (BV d 256 64) 8) %
    2 ^ s.fld .srch Reg.CACHE_CFG_IDX_LOG2 p.val) 0))).st = .resident home → s.idxSlot p (natOfBytes (s.rd (BV d 256
    64) 8) % 2 ^ s.fld .srch Reg.CACHE_CFG_IDX_LOG2 p.val) 0 % 65536 ≤ 65504 → (s.idxSlot p (natOfBytes (s.rd (BV d
    256 64) 8) % 2 ^ s.fld .srch Reg.CACHE_CFG_IDX_LOG2 p.val) 0 + 32 ≤ s.entryAddr p i ∨ s.entryAddr p i + 64 ≤
    s.idxSlot p (natOfBytes (s.rd (BV d 256 64) 8) % 2 ^ s.fld .srch Reg.CACHE_CFG_IDX_LOG2 p.val) 0) →
    s.tier.answers = [] → s.writable (s.entryAddr p i) 64 = true → s.draining p 3 = false → completes (.pfxInsertDone
    p ticket false) s fun t => entState (t.entry p i) = 2 ∧ entExpire (t.entry p i) = (s.now + entTtl (s.entry p i) *
    1000000) % 2 ^ 64 ∧ t.rdNat (BV d 320 64) 8 = 0 + 2 ^ 8 * (1) + 2 ^ 63 ∧ (t.srch.works = s.srch.works.filter fun
    w => w.ticket != ticket) ∧ s.changesOn t [.tier, .pwr, .mem, .digs, .out, .srch] [.srch, .tier, .pwr]) ∧
  (∀ (s : State) (p : PartId) (ticket : Nat) (nak : Bool), (∀ w ∈ s.srch.works, w.ticket ≠ ticket ∨ w.part ≠ p ∨
    w.entry = none) → completes (.pfxInsertDone p ticket nak) s fun t => t = s)

/-- POOL_FORWARD_PLACED ends a forward and acknowledges a store that asked for placement, to its device or to its
issuer here. On a ready SRCH page with no pool command running POOL_REBUILD and POOL_RESYNC latch REGION and MEMBER,
take OP and set BUSY; while one runs they record POOL_BUSY. POOL_CMD_DONE, with its target on another device, clears
BUSY, reports RESULT and DONE_PAGES, raises the interrupt, and on success clears the descriptor's DEGRADED, and with
its target here it has written the member's page; on failure it records POOL_FAIL. Nothing else changes. On points
the spec leaves open it states the model's choices (notes/assumptions/23). -/
def Obligations.PoolCommandsRun : Prop :=
  (∀ (s : State) (region : Fin 256) (r : MemReq) (f : PoolFwd), (s.srch.fwds.find? (fun f => f.region == region.val
    && f.req == r) = some f) → f.op = 0x02 → r.placeAck = true → r.srcNode ≠ s.node → completes (.poolForwardPlaced
    region r) s fun t => t.srch = { s.srch with fwds := s.srch.fwds.erase f } ∧ t.out = s.out ++
    [replyTo 0x82 r 0 false []] ∧ s.changes t [.srch, .out] [] []) ∧
  (∀ (s : State) (region : Fin 256) (r : MemReq) (f : PoolFwd), (s.srch.fwds.find? (fun f => f.region == region.val
    && f.req == r) = some f) → f.op ≠ 0x02 ∨ r.placeAck = false → completes (.poolForwardPlaced region r) s fun t =>
    t = { s with srch := { s.srch with fwds := s.srch.fwds.erase f } }) ∧
  (∀ (s : State) (region : Fin 256) (r : MemReq) (f : PoolFwd) (y : Outst), (s.srch.fwds.find? (fun f => f.region ==
    region.val && f.req == r) = some f) → f.op = 0x02 → r.placeAck = true → r.srcNode = s.node → (s.reqSlot r.srcFeng
    r.tag = some y) → y.req = r → y.kind = .store → y.owner = .issuer → s.noFwd r.srcFeng → completes
    (.poolForwardPlaced region r) s fun t => t.srch = { s.srch with fwds := s.srch.fwds.erase f } ∧ t.reqSlot
    r.srcFeng r.tag = none ∧ othersSame {} s.engines t.engines [r.srcFeng.val] ∧ t.out = s.out ++
    [Out.localResp r.srcFeng r.tag 0 []] ∧ s.changes t [.srch, .engines, .out] [] []) ∧
  (∀ (s : State) (region : Fin 256) (r : MemReq), (∀ f ∈ s.srch.fwds, f.region ≠ region.val ∨ f.req ≠ r) → completes
    (.poolForwardPlaced region r) s fun t => t = s) ∧
  (∀ (s : State), s.ready .srch = true → s.fld .srch Reg.POOL_CMD_BUSY = 0 → completes (.poolRebuild) s fun t =>
    t.fld .srch Reg.POOL_CMD_OP = 0 ∧ t.fld .srch Reg.POOL_CMD_BUSY = 1 ∧ (t.srch =
    { s.srch with poolCmd := some (0, s.fld .srch Reg.POOL_CMD_REGION, s.fld .srch Reg.POOL_CMD_MEMBER) }) ∧
    s.changes t [.srch] [Reg.POOL_CMD_OP.place .srch, Reg.POOL_CMD_BUSY.place .srch] []) ∧
  (∀ (s : State), s.ready .srch = true → s.fld .srch Reg.POOL_CMD_BUSY = 0 → completes (.poolResync) s fun t => t.fld
    .srch Reg.POOL_CMD_OP = 1 ∧ t.fld .srch Reg.POOL_CMD_BUSY = 1 ∧ (t.srch =
    { s.srch with poolCmd := some (1, s.fld .srch Reg.POOL_CMD_REGION, s.fld .srch Reg.POOL_CMD_MEMBER) }) ∧
    s.changes t [.srch] [Reg.POOL_CMD_OP.place .srch, Reg.POOL_CMD_BUSY.place .srch] []) ∧
  (∀ (s : State), s.ready .srch = true → s.fld .srch Reg.POOL_CMD_BUSY ≠ 0 → ∀ c ∈ [Instr.poolRebuild, .poolResync],
    completes c s fun t => s.erred t .srch 0x01 ∧ s.changes t [] (errPlaces .srch) (errCounts .srch)) ∧
  (∀ (s : State) (op region member pages : Nat) (home : TierName), (s.srch.poolCmd = some (op, region, member)) →
    ((if op = 0 then s.fld .srch Reg.POOL_CMD_TGT_NODE else (poolMember (s.poolDesc region).2 1).1) ≠ s.node) → pages
    < 2 ^ Reg.POOL_CMD_DONE_PAGES.width → (s.leaf (pageOf (s.poolDesc region).1)).st = .resident home → s.heldOn
    (pageOf (s.poolDesc region).1) = [] → completes (.poolCmdDone true pages) s fun t => t.srch =
    { s.srch with poolCmd := none } ∧ bit (t.rdNat (s.poolDesc region).1 1) 3 = false ∧ (t.fld .srch
    Reg.POOL_CMD_BUSY = 0 ∧ t.fld .srch Reg.POOL_CMD_RESULT = 0 ∧ t.fld .srch Reg.POOL_CMD_DONE_PAGES = pages) ∧
    s.raised t .srch 0 ∧ s.changes t [.srch, .tier, .pwr, .mem, .digs, .out, .pcie]
    ([Reg.POOL_CMD_BUSY.place .srch, Reg.POOL_CMD_RESULT.place .srch, Reg.POOL_CMD_DONE_PAGES.place .srch] ++
    irqPlaces .srch) ([(Page.tier, 0x90), (Page.pwr, 0xB0)] ++ irqCounts .srch)) ∧
  (∀ (s : State) (op region member pages off : Nat) (d : Nat), (s.srch.poolCmd = some (op, region, member)) → d =
    (s.poolDesc region).2 → off = bits d 64 47 → ((if op = 0 then s.fld .srch Reg.POOL_CMD_TGT_NODE else (poolMember
    d 1).1) = s.node) → min pages (bits d 128 47 / 65536) = 1 → pages < 2 ^ Reg.POOL_CMD_DONE_PAGES.width →
    s.writable off 65536 = true → s.writable (s.poolDesc region).1 1 = true → (s.poolDesc region).1 < off ∨ off +
    65536 ≤ (s.poolDesc region).1 → completes (.poolCmdDone true pages) s fun t => t.rd off 65536 = s.poolBytes d (if
    op = 0 then member else 1) off ∧ bit (t.rdNat (s.poolDesc region).1 1) 3 = false ∧ (t.fld .srch Reg.POOL_CMD_BUSY
    = 0 ∧ t.fld .srch Reg.POOL_CMD_RESULT = 0 ∧ t.fld .srch Reg.POOL_CMD_DONE_PAGES = pages) ∧ s.raised t .srch 0 ∧
    t.srch = { s.srch with poolCmd := none } ∧ s.changes t (.srch :: .fresh :: .pcie :: storeComps)
    ([Reg.POOL_CMD_BUSY.place .srch, Reg.POOL_CMD_RESULT.place .srch, Reg.POOL_CMD_DONE_PAGES.place .srch] ++
    irqPlaces .srch) (storeCounts ++ irqCounts .srch)) ∧
  (∀ (s : State) (op region member pages : Nat), (s.srch.poolCmd = some (op, region, member)) → ((if op = 0 then
    s.fld .srch Reg.POOL_CMD_TGT_NODE else (poolMember (s.poolDesc region).2 1).1) ≠ s.node) → pages < 2 ^
    Reg.POOL_CMD_DONE_PAGES.width → completes (.poolCmdDone false pages) s fun t => t.srch =
    { s.srch with poolCmd := none } ∧ (t.fld .srch Reg.POOL_CMD_BUSY = 0 ∧ t.fld .srch Reg.POOL_CMD_RESULT = 1 ∧
    t.fld .srch Reg.POOL_CMD_DONE_PAGES = pages) ∧ s.erred t .srch 0x02 ∧ s.raised t .srch 0 ∧ s.changes t
    [.srch, .out, .pcie]
    ([Reg.POOL_CMD_BUSY.place .srch, Reg.POOL_CMD_RESULT.place .srch, Reg.POOL_CMD_DONE_PAGES.place .srch] ++
    errPlaces .srch ++ irqPlaces .srch) (errCounts .srch ++ irqCounts .srch)) ∧
  (∀ (s : State) (ok : Bool) (pages : Nat), s.srch.poolCmd = none → completes (.poolCmdDone ok pages) s fun t => t =
    s)

/-- LAUNCH_SELECT of a ready Dispatcher drops a bad launch at HEAD with BAD_LAUNCH and a count; it starts a good one
whose tile is ready, whose slot is neither gated nor at fault: HEAD advances, the launch becomes active, LAUNCHES
counts, and one that starts a step leaves STEP, KV_LEN and STEP_T0 in its slot; of two it starts the one of lower
EFF_PRI. FSYNC_HOLD_EXPIRE starts the aligned step once its hold has ended, and counts the edge or the hold.
LAUNCH_DESC_READ stores the next descriptor of an active launch, or cuts the launch on a failed read. DISP_SEND
sends the head descriptor of the lowest queue that has one, while the tile has a slot for it beside those held and
on their way. Nothing else changes. On points the spec leaves open it states the model's choices
(notes/assumptions/31). -/
def Obligations.LaunchesAreSelected : Prop :=
  (∀ (s : State) (p : PartId) (h : Nat) (r : BitVec 256), s.ready (.disp p) = true → h = s.fld (.disp p)
    Reg.DISP_LRING_HEAD_HEAD → (s.part p).started = [] → s.unstarted p = [h] → s.serveRead (pageOf (s.launchAt p h))
    = .data → r = BitVec.ofNat 256 (s.rdNat (s.launchAt p h) 32) → s.launchBad p r = true → s.tier.answers = [] →
    completes (.launchSelect p) s fun t => s.erred t (.disp p) 2 ∧ s.counted t (.disp p) 0x88 ∧ t.fld (.disp p)
    Reg.DISP_LRING_HEAD_HEAD = (h + 1) % 2 ^ (s.lringLog2 p + 1) ∧ t.part p = { s.part p with started := [] } ∧
    othersSame {} s.parts t.parts [p.val] ∧ s.changes t [.parts, .tier, .pwr, .out] (Reg.DISP_LRING_HEAD_HEAD.place
    (.disp p) :: errPlaces (.disp p)) [(.disp p, 0x50), (.disp p, 0x88), (.tier, 0x90), (.pwr, 0xB0)]) ∧
  (∀ (s : State) (p : PartId) (h : Nat) (r : BitVec 256), s.ready (.disp p) = true → h = s.fld (.disp p)
    Reg.DISP_LRING_HEAD_HEAD → (s.part p).started = [] → s.unstarted p = [h] → s.serveRead (pageOf (s.launchAt p h))
    = .data → r = BitVec.ofNat 256 (s.rdNat (s.launchAt p h) 32) → s.launchBad p r = false → s.selectable p r = true
    → (s.part p).active.length < 16 → s.pwr.inMode.contains (.tileGate p) = false → s.ready (.tile (tileOf p (recTile
    r))) = true → s.newStep p r = false → s.tier.answers = [] → completes (.launchSelect p) s fun t => (t.part
    p).active = (s.part p).active ++ [({ record := r, next := 0, id := (s.part p).nextLaunch } : Launch)] ∧ t.fld
    (.disp p) Reg.DISP_LRING_HEAD_HEAD = (h + 1) % 2 ^ (s.lringLog2 p + 1) ∧ s.counted t (.disp p) 0x80 ∧ (t.part
    p).slots = (s.part p).slots ∧ othersSame {} s.parts t.parts [p.val] ∧ s.changes t [.parts, .tier, .pwr, .out]
    [Reg.DISP_LRING_HEAD_HEAD.place (.disp p)] [(.disp p, 0x80), (.tier, 0x90), (.pwr, 0xB0)]) ∧
  (∀ (s : State) (p : PartId) (h : Nat) (r : BitVec 256) (x : ReqSlot), s.ready (.disp p) = true → h = s.fld (.disp
    p) Reg.DISP_LRING_HEAD_HEAD → (s.part p).started = [] → s.unstarted p = [h] → s.serveRead (pageOf (s.launchAt p
    h)) = .data → r = BitVec.ofNat 256 (s.rdNat (s.launchAt p h) 32) → s.launchBad p r = false → s.selectable p r =
    true → (s.part p).active.length < 16 → s.pwr.inMode.contains (.tileGate p) = false → s.ready (.tile (tileOf p
    (recTile r))) = true → s.newStep p r = true → s.flag (.disp p) Reg.DISP_CTRL_FSYNC_EN = false → bit (s.fld .qrm
    Reg.QRM_REPLAY_MASK) p.val = false → s.rs p (recSlot r) = x → x.group = false → s.tier.answers = [] → completes
    (.launchSelect p) s fun t => (t.part p).active = (s.part p).active ++
    [({ record := r, next := 0, id := (s.part p).nextLaunch } : Launch)] ∧ t.fld (.disp p) Reg.DISP_LRING_HEAD_HEAD =
    (h + 1) % 2 ^ (s.lringLog2 p + 1) ∧ s.counted t (.disp p) 0x80 ∧ ((t.rs p (recSlot r)).step = recStep r ∧ (t.rs p
    (recSlot r)).kvLen = recKvLen r ∧ (t.rs p (recSlot r)).stepT0 = s.now % 2 ^ 32 ∧ (t.rs p (recSlot r)).stepOn =
    true ∧ (t.rs p (recSlot r)).startNs = s.now) ∧ ((t.rs p (recSlot r)).reqId = x.reqId ∧ (t.rs p (recSlot
    r)).basePri = x.basePri) ∧ othersSame {} s.parts t.parts [p.val] ∧ s.changesOn t
    [.parts, .tier, .pwr, .out, .units, .pcie] [.disp p, .tier, .pwr, .mon, .pcie]) ∧
  (∀ (s : State) (p : PartId) (h : Nat) (r1 r2 : BitVec 256), s.ready (.disp p) = true → h = s.fld (.disp p)
    Reg.DISP_LRING_HEAD_HEAD → (s.part p).started = [] → h + 1 < 2 ^ (s.lringLog2 p + 1) → s.unstarted p = [h, h + 1]
    → s.serveRead (pageOf (s.launchAt p h)) = .data → s.serveRead (pageOf (s.launchAt p (h + 1))) = .data → r1 =
    BitVec.ofNat 256 (s.rdNat (s.launchAt p h) 32) → r2 = BitVec.ofNat 256 (s.rdNat (s.launchAt p (h + 1)) 32) →
    s.launchBad p r1 = false → s.selectable p r1 = true → (s.part p).active.length < 16 → s.pwr.inMode.contains
    (.tileGate p) = false → s.ready (.tile (tileOf p (recTile r1))) = true → s.launchBad p r2 = false → s.selectable
    p r2 = true → s.ready (.tile (tileOf p (recTile r2))) = true → s.flag (.disp p) Reg.DISP_CTRL_FSYNC_EN = false →
    s.newStep p r1 = false → s.newStep p r2 = false → s.tier.answers = [] → completes (.launchSelect p) s fun t =>
    ((t.part p).active = (s.part p).active ++
    [({ record := if s.effOf p (recSlot r2) < s.effOf p (recSlot r1) then r2 else r1, next := 0, id := (s.part p).nextLaunch } : Launch)])
    ∧ ((t.part p).started = if s.effOf p (recSlot r2) < s.effOf p (recSlot r1) then [h + 1] else []) ∧ s.counted t
    (.disp p) 0x80 ∧ othersSame {} s.parts t.parts [p.val] ∧ s.changes t [.parts, .tier, .pwr, .out]
    [Reg.DISP_LRING_HEAD_HEAD.place (.disp p)] [(.disp p, 0x80), (.tier, 0x90), (.pwr, 0xB0)]) ∧
  (∀ (s : State) (p : PartId) (k : Fin 16) (o : ReadOutcome) (tile : Fin 8), s.ready (.disp p) = false → ∀ c ∈
    [Instr.launchSelect p, .fsyncHoldExpire p, .launchDescRead p k o, .dispSend p tile], completes c s fun t => t =
    s) ∧
  (∀ (s : State) (p : PartId) (h : Nat) (r : BitVec 256) (tm e : Nat), s.ready (.disp p) = true → h = s.fld (.disp p)
    Reg.DISP_LRING_HEAD_HEAD → (s.part p).started = [] → ((s.part p).fsyncHold = some (tm, e)) → tm ≤ s.now →
    s.unstarted p = [h] → s.serveRead (pageOf (s.launchAt p h)) = .data → r = BitVec.ofNat 256 (s.rdNat (s.launchAt p
    h) 32) → s.launchBad p r = false → s.selectable p r = true → (s.part p).active.length < 16 →
    s.pwr.inMode.contains (.tileGate p) = false → s.ready (.tile (tileOf p (recTile r))) = true → s.aligned p r =
    true → bit (s.fld .qrm Reg.QRM_REPLAY_MASK) p.val = false → (s.rs p (recSlot r)).group = false → s.tier.answers =
    [] → completes (.fsyncHoldExpire p) s fun t => (t.part p).active = (s.part p).active ++
    [({ record := r, next := 0, id := (s.part p).nextLaunch } : Launch)] ∧ t.fld (.disp p) Reg.DISP_LRING_HEAD_HEAD =
    (h + 1) % 2 ^ (s.lringLog2 p + 1) ∧ (t.part p).fsyncHold = none ∧ (s.counted t (.disp p) (if e ≠ 0 then 0xC0 else
    0xC8)) ∧ ((t.rs p (recSlot r)).step = recStep r ∧ (t.rs p (recSlot r)).stepOn = true) ∧ othersSame {} s.parts
    t.parts [p.val] ∧ s.changesOn t [.parts, .tier, .pwr, .out, .units, .pcie] [.disp p, .tier, .pwr, .mon, .pcie]) ∧
  (∀ (s : State) (p : PartId), ((s.part p).fsyncHold.all (fun x => decide (s.now < x.1)) = true) → completes
    (.fsyncHoldExpire p) s fun t => t = s) ∧
  (∀ (s : State) (p : PartId) (k : Fin 16) (l : Launch) (d : BitVec 512) (pri : Nat), s.ready (.disp p) = true →
    ((s.part p).active[k.val]? = some l) → s.readable (recList l.record + l.next * 64) 64 → d = BitVec.ofNat 512
    (s.rdNat (recList l.record + l.next * 64) 64) → (pri = if recKeepPri l.record then BV d 18 2 else s.effOf p
    (recSlot l.record)) → (s.part p).used < 2048 → pri < 2 ∨ s.fld (.disp p) Reg.DISP_STORE_RSV_HI < 2048 - (s.part
    p).used → s.tier.answers = [] → completes (.launchDescRead p k .ok) s fun t => Map.get [] (t.part p).store
    (recTile l.record * 4 + pri) = Map.get [] (s.part p).store (recTile l.record * 4 + pri) ++
    [({ desc := BitVec.ofNat 512 (withBits d.toNat 18 2 pri), slot := recSlot l.record, launch := l.id } : Queued)] ∧
    ((t.part p).active = if l.next + 1 = recCount l.record then (s.part p).active.filter fun y => y.id != l.id else
    (s.part p).active.map fun y => if y.id == l.id then { y with next := l.next + 1 } else y) ∧ othersSame [] (s.part
    p).store (t.part p).store [recTile l.record * 4 + pri] ∧ othersSame {} s.parts t.parts [p.val] ∧ s.changes t
    [.parts, .tier, .pwr, .out] [] [(.tier, 0x90), (.pwr, 0xB0)]) ∧
  (∀ (s : State) (p : PartId) (k : Fin 16) (l : Launch) (id : Nat), s.ready (.disp p) = true → ((s.part
    p).active[k.val]? = some l) → bit (s.fld .qrm Reg.QRM_REPLAY_MASK) p.val = false → s.slotReqs p (recSlot
    l.record) = [id] → s.req id = none → completes (.launchDescRead p k .refused) s fun t => (t.rs p (recSlot
    l.record)).failed = true ∧ (∀ y ∈ (t.part p).active, recSlot y.record ≠ recSlot l.record) ∧ s.erred t (.disp p) 2
    ∧ s.raised t (.disp p) 2 ∧ othersSame {} s.parts t.parts [p.val] ∧ s.changes t [.parts, .out, .pcie] (errPlaces
    (.disp p) ++ irqPlaces (.disp p)) ([(Page.disp p, 0x50), (Page.disp p, 0x88)] ++ irqCounts (Page.disp p))) ∧
  (∀ (s : State) (p : PartId) (k : Fin 16) (o : ReadOutcome), (s.part p).active[k.val]? = none → completes
    (.launchDescRead p k o) s fun t => t = s) ∧
  (∀ (s : State) (p : PartId) (tile : Fin 8) (q : Nat) (d2 d3 : Int) (d : Queued) (rest : List Queued), s.ready
    (.disp p) = true → s.ready (.tile (tileOf p tile.val)) = true → (s.nextQueue p tile.val = some (q, d2, d3)) →
    (s.tile (tileOf p tile.val)).slots.length + (s.tile (tileOf p tile.val)).coming.length < 64 → Map.get [] (s.part
    p).store (tile.val * 4 + q) = d :: rest → completes (.dispSend p tile) s fun t => t.out = s.out ++
    [Out.descriptor (tileOf p tile.val) d.slot d.desc] ∧ s.counted t (.disp p) 0x90 ∧ t.part p =
    { s.part p with store := Map.set [] (s.part p).store (tile.val * 4 + q) rest, deficit := Map.set 0 (Map.set 0 (s.part p).deficit (tile.val * 2) d2) (tile.val * 2 + 1) d3 }
    ∧ t.tile (tileOf p tile.val) =
    { s.tile (tileOf p tile.val) with coming := (s.tile (tileOf p tile.val)).coming ++ [d] } ∧ othersSame {} s.parts
    t.parts [p.val] ∧ othersSame {} s.tiles t.tiles [(tileOf p tile.val).val] ∧ s.changes t [.parts, .tiles, .out] []
    [(.disp p, 0x90)]) ∧
  (∀ (s : State) (p : PartId) (tile : Fin 8) (q : Nat), s.ready (.disp p) = true → s.ready (.tile (tileOf p
    tile.val)) = true → (s.tile (tileOf p tile.val)).slots.length + (s.tile (tileOf p tile.val)).coming.length < 64 →
    (q = if Map.get [] (s.part p).store (tile.val * 4) = [] then 1 else 0) → Map.get [] (s.part p).store (tile.val *
    4 + q) ≠ [] → completes (.dispSend p tile) s fun t => Map.get [] (t.part p).store (tile.val * 4 + q) = (Map.get
    [] (s.part p).store (tile.val * 4 + q)).tail ∧ othersSame {} s.parts t.parts [p.val] ∧ othersSame {} s.tiles
    t.tiles [(tileOf p tile.val).val] ∧ s.changes t [.parts, .tiles, .out] [] [(.disp p, 0x90)]) ∧
  (∀ (s : State) (p : PartId) (tile : Fin 8) (q : Nat) (d2 d3 : Int), s.ready (.disp p) = true → s.ready (.tile
    (tileOf p tile.val)) = true → (s.nextQueue p tile.val = some (q, d2, d3)) → 64 ≤ (s.tile (tileOf p
    tile.val)).slots.length + (s.tile (tileOf p tile.val)).coming.length → completes (.dispSend p tile) s fun t =>
    s.counted t (.tile (tileOf p tile.val)) 0xE0 ∧ s.changes t [] [] [(.tile (tileOf p tile.val), 0xE0)])

/-- On a ready Dispatcher DISP_LRING_TAIL_WRITE sets TAIL, RS_SEL_WRITE selects a slot and loads the staging words
with its image, RS_DATA_STAGE stores a staging word, RS_COMMIT commits the staged image over the selected slot by
R263 (a newly VALID slot opens with its starting values), PF_LEFT_WRITE sets PF_LEFT_US, DISP_FAIL_CLEAR clears
VALID. ENERGY_REFILL_TICK adds a tenth of RATE to the level, carrying tenths, up to DEPTH; ENERGY_GRANT tops up the
next tile's credit to GRANT from the level. On a page that is not ready they change nothing. Nothing else changes.
On points the spec leaves open it states the model's choices (notes/assumptions/31). -/
def Obligations.DispatcherRegistersAndEnergy : Prop :=
  (∀ (s : State) (p : PartId) (tail : Fin 8192), s.ready (.disp p) = true → s.lringLog2 p ≤ 12 → completes
    (.dispLringTailWrite p tail) s fun t => t.fld (.disp p) Reg.DISP_LRING_TAIL_TAIL = tail.val % 2 ^ (s.lringLog2 p
    + 1) ∧ s.changes t [] [Reg.DISP_LRING_TAIL_TAIL.place (.disp p)] []) ∧
  (∀ (s : State) (p : PartId) (i : Fin 1024), s.ready (.disp p) = true → completes (.rsSelWrite p i) s fun t => t.fld
    (.disp p) Reg.DISP_RS_SEL_INDEX = i.val ∧ ((t.part p) =
    { s.part p with stage := (List.range 8).map (fun j => BitVec.ofNat 32 (s.rsImage p i.val / 2 ^ (32 * j))) }) ∧
    othersSame {} s.parts t.parts [p.val] ∧ s.changes t [.parts] [Reg.DISP_RS_SEL_INDEX.place (.disp p)] []) ∧
  (∀ (s : State) (p : PartId) (k : Fin 8) (v : Word), s.ready (.disp p) = true → k ≠ 0 → completes (.rsDataStage p k
    v) s fun t => (t.part p).staged = (s.part p).staged.set k.val v ∧ t.part p =
    { s.part p with stage := (s.part p).staged.set k.val v } ∧ othersSame {} s.parts t.parts [p.val] ∧ s.changes t
    [.parts] [] []) ∧
  (∀ (s : State) (p : PartId) (v : Word) (k img : Nat), s.ready (.disp p) = true → k = s.fld (.disp p)
    Reg.DISP_RS_SEL_INDEX → (img = natOfBytes ((v :: (s.part p).staged.tail).flatMap fun w => bytesOfNat 4 w.toNat))
    → ((s.rs p k).valid = true → bit img 0 = true) → (s.rs p k).valid = bit img 0 ∨ k ≠ s.fld (.disp p)
    Reg.DISP_FSYNC_SLOT → completes (.rsCommit p v) s fun t => t.rs p k = commitSlot (s.rs p k) img ∧ othersSame {}
    (s.part p).slots (t.part p).slots [k] ∧ othersSame {} s.parts t.parts [p.val] ∧ s.changes t [.parts] [] []) ∧
  (∀ (s : State) (p : PartId) (v : Word) (k img : Nat), s.ready (.disp p) = true → k = s.fld (.disp p)
    Reg.DISP_RS_SEL_INDEX → (img = natOfBytes ((v :: (s.part p).staged.tail).flatMap fun w => bytesOfNat 4 w.toNat))
    → (s.rs p k).valid = true → bit img 0 = false → completes (.rsCommit p v) s fun t => t.rs p k = commitSlot (s.rs
    p k) img ∧ (∀ l ∈ (t.part p).active, recSlot l.record ≠ k) ∧ (∀ e ∈ (t.part p).store, ∀ d ∈ e.2, d.slot ≠ k) ∧
    othersSame {} s.parts t.parts [p.val] ∧ s.changes t [.parts] [] [(.disp p, 0x88)]) ∧
  (∀ (s : State) (p : PartId) (us : Word) (k : Nat), s.ready (.disp p) = true → k = s.fld (.disp p)
    Reg.DISP_PF_SLOT_INDEX → completes (.pfLeftWrite p us) s fun t => t.rs p k = { s.rs p k with pfLeft := us.toNat }
    ∧ othersSame {} (s.part p).slots (t.part p).slots [k] ∧ othersSame {} s.parts t.parts [p.val] ∧ s.changes t
    [.parts] [] []) ∧
  (∀ (s : State) (p : PartId), s.ready (.disp p) = true → completes (.dispFailClear p) s fun t => t.fld (.disp p)
    Reg.DISP_FAIL_VALID = 0 ∧ s.changes t [] [Reg.DISP_FAIL_VALID.place (.disp p)] []) ∧
  (∀ (s : State) (p : PartId), s.ready (.disp p) = true → s.fld (.disp p) Reg.DISP_ENERGY_LEVEL_LEVEL_NJ + (s.fld
    (.disp p) Reg.DISP_ENERGY_RATE_RATE_MW + (s.part p).energyCarry) / 10 ≤ s.fld (.disp p)
    Reg.DISP_ENERGY_DEPTH_DEPTH_NJ → completes (.energyRefillTick p) s fun t => t.fld (.disp p)
    Reg.DISP_ENERGY_LEVEL_LEVEL_NJ = s.fld (.disp p) Reg.DISP_ENERGY_LEVEL_LEVEL_NJ + (s.fld (.disp p)
    Reg.DISP_ENERGY_RATE_RATE_MW + (s.part p).energyCarry) / 10 ∧ t.part p =
    { s.part p with energyCarry := (s.fld (.disp p) Reg.DISP_ENERGY_RATE_RATE_MW + (s.part p).energyCarry) % 10 } ∧
    othersSame {} s.parts t.parts [p.val] ∧ s.changes t [.parts] [Reg.DISP_ENERGY_LEVEL_LEVEL_NJ.place (.disp p)] []) ∧
  (∀ (s : State) (p : PartId), s.ready (.disp p) = true → s.fld (.disp p) Reg.DISP_ENERGY_DEPTH_DEPTH_NJ < s.fld
    (.disp p) Reg.DISP_ENERGY_LEVEL_LEVEL_NJ + (s.fld (.disp p) Reg.DISP_ENERGY_RATE_RATE_MW + (s.part
    p).energyCarry) / 10 → completes (.energyRefillTick p) s fun t => t.fld (.disp p) Reg.DISP_ENERGY_LEVEL_LEVEL_NJ
    = s.fld (.disp p) Reg.DISP_ENERGY_DEPTH_DEPTH_NJ ∧ t.part p = { s.part p with energyCarry := 0 } ∧ othersSame {}
    s.parts t.parts [p.val] ∧ s.changes t [.parts] [Reg.DISP_ENERGY_LEVEL_LEVEL_NJ.place (.disp p)] []) ∧
  (∀ (s : State) (p : PartId) (x : TileId) (n : Nat), s.ready (.disp p) = true → x = tileOf p (s.part p).rr → n = min
    (s.fld (.disp p) Reg.DISP_ENERGY_GRANT_GRANT_NJ - (s.tile x).credit) (s.fld (.disp p)
    Reg.DISP_ENERGY_LEVEL_LEVEL_NJ) → completes (.energyGrant p) s fun t => t.tile x =
    { s.tile x with credit := (s.tile x).credit + n } ∧ t.fld (.disp p) Reg.DISP_ENERGY_LEVEL_LEVEL_NJ = s.fld (.disp
    p) Reg.DISP_ENERGY_LEVEL_LEVEL_NJ - n ∧ t.part p = { s.part p with rr := ((s.part p).rr + 1) % 8 } ∧ othersSame
    {} s.parts t.parts [p.val] ∧ othersSame {} s.tiles t.tiles [x.val] ∧ s.changes t [.parts, .tiles]
    [Reg.DISP_ENERGY_LEVEL_LEVEL_NJ.place (.disp p)] [(.disp p, 0x98)]) ∧
  (∀ (s : State) (p : PartId) (tail : Fin 8192) (i : Fin 1024) (k : Fin 8) (v : Word), s.ready (.disp p) = false → ∀
    c ∈
    [Instr.dispLringTailWrite p tail, .rsSelWrite p i, .rsDataStage p k v, .rsCommit p v, .pfLeftWrite p v, .dispFailClear p, .energyRefillTick p, .energyGrant p],
    completes c s fun t => t = s)

/-- A Weir that may read takes a descriptor: REQ_HEAD moves on and is written to the host. GENERATE with an illegal
field is refused with its reason, DESC_BAD and a count; over its peak budget it ends with 0x11; at its open limit it
is deferred, or refused where it may not wait; otherwise it is accepted: the prompt is charged, the reservation made
at the chosen Generation partition, its conversation placed, its transfer opened at the chosen Prompt partition.
RESUME with a handle whose owner qualifies is accepted there. Outside the quorum neither is read. DEFER_RETRY_TIMER
evaluates the queue's head again; DEFER_DEADLINE refuses one past its limit. Nothing else changes. On points the
spec leaves open it states the model's choices (notes/assumptions/35). -/
def Obligations.RequestsAreAdmitted : Prop :=
  (∀ (s : State) (p : PartId) (n : TenId) (d : BitVec 1024) (h : HostRead) (why : Nat), s.weirReads p n = true →
    s.flag .qrm Reg.QRM_STAT_IN_QUORUM = true → dOp d = 0 ∨ dOp d = 1 ∨ 4 < dOp d → (s.descReason p n d h = some why)
    → 0x10 ≤ why ∧ why ≤ 0x14 → completes (.generate p n d h) s fun t => (t.ten n).reqHead = ((s.ten n).reqHead + 1)
    % 2 ^ ((s.ten n).reqLog2 + 1) ∧ Out.hostWrite n (s.asVf n) ((s.ten n).statAddr.toNat % 2 ^ 64) (bytesOfNat 8
    (((s.ten n).reqHead + 1) % 2 ^ ((s.ten n).reqLog2 + 1))) ∈ t.out ∧ (t.ten n).waiting =
    [recOf (s.newReq p n d h) 0x13 why true] ∧ s.counted t (.admt p) 0xA0 ∧ s.erred t (.admt p) 2 ∧ s.raised t (.admt
    p) 1 ∧ t.reqs = s.reqs ∧ othersSame {} s.tenants t.tenants [n.val] ∧ s.changes t [.out, .tenants, .pcie]
    (errPlaces (.admt p) ++ irqPlaces (.admt p)) ([(Page.admt p, 0x50), (Page.admt p, 0xA0)] ++ irqCounts (Page.admt
    p))) ∧
  (∀ (s : State) (p : PartId) (n : TenId) (d : BitVec 1024) (h : HostRead) (why : Nat), s.weirReads p n = true →
    s.flag .qrm Reg.QRM_STAT_IN_QUORUM = true → dOp d = 3 → (s.descReason p n d h = some why) → 0x10 ≤ why ∧ why ≤
    0x14 → completes (.resume p n d h) s fun t => (t.ten n).reqHead = ((s.ten n).reqHead + 1) % 2 ^ ((s.ten
    n).reqLog2 + 1) ∧ Out.hostWrite n (s.asVf n) ((s.ten n).statAddr.toNat % 2 ^ 64) (bytesOfNat 8 (((s.ten
    n).reqHead + 1) % 2 ^ ((s.ten n).reqLog2 + 1))) ∈ t.out ∧ (t.ten n).waiting =
    [recOf (s.newReq p n d h) 0x13 why true] ∧ s.counted t (.admt p) 0xA0 ∧ s.erred t (.admt p) 2 ∧ s.raised t (.admt
    p) 1 ∧ t.reqs = s.reqs ∧ othersSame {} s.tenants t.tenants [n.val] ∧ s.changes t [.out, .tenants, .pcie]
    (errPlaces (.admt p) ++ irqPlaces (.admt p)) ([(Page.admt p, 0x50), (Page.admt p, 0xA0)] ++ irqCounts (Page.admt
    p))) ∧
  (∀ (s : State) (p : PartId) (n : TenId) (d : BitVec 1024) (h : HostRead) (why : Nat), s.weirReads p n = true → dOp
    d = 2 → (s.descReason p n d h = some why) → 0x10 ≤ why ∧ why ≤ 0x14 → completes (.pause p n d h) s fun t =>
    (t.ten n).reqHead = ((s.ten n).reqHead + 1) % 2 ^ ((s.ten n).reqLog2 + 1) ∧ Out.hostWrite n (s.asVf n) ((s.ten
    n).statAddr.toNat % 2 ^ 64) (bytesOfNat 8 (((s.ten n).reqHead + 1) % 2 ^ ((s.ten n).reqLog2 + 1))) ∈ t.out ∧
    (t.ten n).waiting = [recOf (s.newReq p n d h) 0x13 why true] ∧ s.counted t (.admt p) 0xA0 ∧ s.erred t (.admt p) 2
    ∧ s.raised t (.admt p) 1 ∧ t.reqs = s.reqs ∧ othersSame {} s.tenants t.tenants [n.val] ∧ s.changes t
    [.out, .tenants, .pcie] (errPlaces (.admt p) ++ irqPlaces (.admt p)) ([(Page.admt p, 0x50), (Page.admt p, 0xA0)]
    ++ irqCounts (Page.admt p))) ∧
  (∀ (s : State) (p : PartId) (n : TenId) (d : BitVec 1024) (h : HostRead) (why : Nat), s.weirReads p n = true → dOp
    d = 4 → (s.descReason p n d h = some why) → 0x10 ≤ why ∧ why ≤ 0x14 → completes (.release p n d h) s fun t =>
    (t.ten n).reqHead = ((s.ten n).reqHead + 1) % 2 ^ ((s.ten n).reqLog2 + 1) ∧ Out.hostWrite n (s.asVf n) ((s.ten
    n).statAddr.toNat % 2 ^ 64) (bytesOfNat 8 (((s.ten n).reqHead + 1) % 2 ^ ((s.ten n).reqLog2 + 1))) ∈ t.out ∧
    (t.ten n).waiting = [recOf (s.newReq p n d h) 0x13 why true] ∧ s.counted t (.admt p) 0xA0 ∧ s.erred t (.admt p) 2
    ∧ s.raised t (.admt p) 1 ∧ t.reqs = s.reqs ∧ othersSame {} s.tenants t.tenants [n.val] ∧ s.changes t
    [.out, .tenants, .pcie] (errPlaces (.admt p) ++ irqPlaces (.admt p)) ([(Page.admt p, 0x50), (Page.admt p, 0xA0)]
    ++ irqCounts (Page.admt p))) ∧
  (∀ (s : State) (p : PartId) (n : TenId) (d : BitVec 1024) (h : HostRead) (u : State), s.weirReads p n = true →
    s.flag .qrm Reg.QRM_STAT_IN_QUORUM = true → dOp d = 1 → dCont d = false → s.descReason p n d h = none → u =
    (s.readDesc n).refill p n → colourOf (u.ten n).p (dPromptLen d) = .red → completes (.generate p n d h) s fun t =>
    (t.ten n).reqHead = ((s.ten n).reqHead + 1) % 2 ^ ((s.ten n).reqLog2 + 1) ∧ Out.hostWrite n (s.asVf n) ((s.ten
    n).statAddr.toNat % 2 ^ 64) (bytesOfNat 8 (((s.ten n).reqHead + 1) % 2 ^ ((s.ten n).reqLog2 + 1))) ∈ t.out ∧
    (t.ten n).waiting = [recOf (s.newReq p n d h) 0x11 0x01 true] ∧ s.counted t (.admt p) 0x90 ∧ (t.ten n).p = (u.ten
    n).p ∧ (∀ r ∈ t.reqs, r ∈ s.reqs) ∧ othersSame {} s.tenants t.tenants [n.val] ∧ s.changesOn t
    [.out, .tenants, .reqs, .pcie] [.admt p, .pcie]) ∧
  (∀ (s : State) (p : PartId) (n : TenId) (d : BitVec 1024) (h : HostRead) (u : State), s.weirReads p n = true →
    s.flag .qrm Reg.QRM_STAT_IN_QUORUM = true → dOp d = 1 → dCont d = false → s.descReason p n d h = none → u =
    (s.readDesc n).refill p n → colourOf (u.ten n).p (dPromptLen d) ≠ .red → 0 ≤ (u.ten n).g.k → dPri d = 0 → u.fld
    (.admt p) Reg.ADMT_TEN_MAX_OPEN0 n.val ≠ 0 → u.fld (.admt p) Reg.ADMT_TEN_MAX_OPEN0 n.val ≤ u.openAt n 0 → dDefer
    d = false → completes (.generate p n d h) s fun t => (t.ten n).reqHead = ((s.ten n).reqHead + 1) % 2 ^ ((s.ten
    n).reqLog2 + 1) ∧ Out.hostWrite n (s.asVf n) ((s.ten n).statAddr.toNat % 2 ^ 64) (bytesOfNat 8 (((s.ten
    n).reqHead + 1) % 2 ^ ((s.ten n).reqLog2 + 1))) ∈ t.out ∧ (t.ten n).waiting =
    [recOf (s.newReq p n d h) 0x13 0x03 true] ∧ s.counted t (.admt p) 0xA0 ∧ othersSame {} s.tenants t.tenants
    [n.val] ∧ s.changesOn t [.out, .tenants, .reqs, .pcie] [.admt p, .pcie]) ∧
  (∀ (s : State) (p : PartId) (n : TenId) (d : BitVec 1024) (h : HostRead) (u : State), s.weirReads p n = true →
    s.flag .qrm Reg.QRM_STAT_IN_QUORUM = true → dOp d = 1 → dCont d = false → s.descReason p n d h = none → u =
    (s.readDesc n).refill p n → colourOf (u.ten n).p (dPromptLen d) ≠ .red → 0 ≤ (u.ten n).g.k → dPri d = 0 → u.fld
    (.admt p) Reg.ADMT_TEN_MAX_OPEN0 n.val ≠ 0 → u.fld (.admt p) Reg.ADMT_TEN_MAX_OPEN0 n.val ≤ u.openAt n 0 → dDefer
    d = true → (u.deferred p).length < u.fld (.admt p) Reg.ADMT_CTRL_DEFER_MAX → completes (.generate p n d h) s fun
    t => (t.ten n).reqHead = ((s.ten n).reqHead + 1) % 2 ^ ((s.ten n).reqLog2 + 1) ∧ Out.hostWrite n (s.asVf n)
    ((s.ten n).statAddr.toNat % 2 ^ 64) (bytesOfNat 8 (((s.ten n).reqHead + 1) % 2 ^ ((s.ten n).reqLog2 + 1))) ∈
    t.out ∧ t.reqs = s.reqs ++ [({ s.newReq p n d h with st := .deferred } : Req)] ∧ (∃ c ∈ (t.ten n).waiting,
    c.reqId = reqIdOf n (dTag d) ∧ c.status = 0x10 ∧ c.detail = 0x03 ∧ c.final = false ∧ c.qpos = (s.deferred
    p).length) ∧ s.counted t (.admt p) 0x88 ∧ t.fld (.admt p) Reg.ADMT_QUEUE_DEPTH = ((s.deferred p).length + 1) % 2
    ^ 9 ∧ othersSame {} s.tenants t.tenants [n.val] ∧ s.changesOn t [.out, .tenants, .reqs, .fresh] [.admt p]) ∧
  (∀ (s : State) (p : PartId) (n : TenId) (d : BitVec 1024) (h : HostRead) (u : State) (q g : PartId) (k need : Nat),
    s.weirReads p n = true → s.flag .qrm Reg.QRM_STAT_IN_QUORUM = true → dOp d = 1 → dCont d = false → s.descReason p
    n d h = none → u = (s.readDesc n).refill p n → colourOf (u.ten n).p (dPromptLen d) ≠ .red → 0 ≤ (u.ten n).g.k →
    dPri d = 0 → u.openAt n 0 < u.fld (.admt p) Reg.ADMT_TEN_MAX_OPEN0 n.val → u.demotes p d (s.newReq p n d
    h).cached (s.newReq p n d h).cachedFb = false → (u.promptPart (dModel d) (dPromptLen d - (s.newReq p n d
    h).cached) 0 = some q) → dAdapter d = 0xFFFF → need = u.needOf p (dModel d) 0 d → (u.genPart need = some g) →
    (u.freeRs g = some k) → dPromptLen d + dMaxNew d ≤ s.fld (.admt g) Reg.ADMT_KV_SLOT_PAGES / max (s.fld (.admt p)
    Reg.ADMT_MODEL_LAYERS (dModel d)) 1 * 2 ^ s.fld (.admt p) Reg.ADMT_MODEL_TOK_LOG2 (dModel d) → completes
    (.generate p n d h) s fun t => (t.ten n).reqHead = ((s.ten n).reqHead + 1) % 2 ^ ((s.ten n).reqLog2 + 1) ∧
    Out.hostWrite n (s.asVf n) ((s.ten n).statAddr.toNat % 2 ^ 64) (bytesOfNat 8 (((s.ten n).reqHead + 1) % 2 ^
    ((s.ten n).reqLog2 + 1))) ∈ t.out ∧ (∃ r ∈ t.reqs, r.reqId = reqIdOf n (dTag d) ∧ r.desc = d ∧ r.st = .opening ∧
    r.promptPart = some q ∧ r.genPart = some g ∧ r.genSlot = k ∧ r.need = need) ∧ (∃ v ∈ t.convs, v.tenant = n ∧
    v.convId = dConv d ∧ v.st = .resident ∧ v.part = g ∧ v.slot = k ∧ v.kvLen = dPromptLen d) ∧ (∃ e ∈ (t.mover
    q).ctxs, e.2.kind = 0 ∧ e.2.reqId = reqIdOf n (dTag d) ∧ e.2.peerPart = g ∧ e.2.kvLen = dPromptLen d) ∧ t.fld
    (.admt g) Reg.ADMT_PAGE_RESV_RESV = (s.fld (.admt g) Reg.ADMT_PAGE_RESV_RESV + need) % 2 ^ 24 ∧ (t.ten n).p =
    charge (u.ten n).p (dPromptLen d) ∧ s.counted t (.admt p) 0x80 ∧ othersSame {} s.tenants t.tenants [n.val] ∧
    s.changesOn t [.out, .tenants, .reqs, .convs, .movers, .fresh] [.admt p, .admt g, .move q]) ∧
  (∀ (s : State) (p : PartId) (n : TenId) (d : BitVec 1024) (h : HostRead) (u : State) (g : PartId) (k need : Nat),
    s.weirReads p n = true → s.flag .qrm Reg.QRM_STAT_IN_QUORUM = true → dOp d = 3 → s.descReason p n d h = none → u
    = (s.readDesc n).refill p n → colourOf (u.ten n).p (dPromptLen d) ≠ .red → 0 ≤ (u.ten n).g.k → dPri d = 0 →
    u.openAt n 0 < u.fld (.admt p) Reg.ADMT_TEN_MAX_OPEN0 n.val → s.conv n (dConv d) = none → g = hOwner (dHandle d)
    → s.fld (.disp g) Reg.DISP_ROLE_CUR = 2 → u.stableRole g 2 = true → u.ctxRoom g = true → (u.freeRs g = some k) →
    dAdapter d = 0xFFFF → need = u.needOf p (dModel d) (hKv (dHandle d)) d → s.fld (.admt g) Reg.ADMT_PAGE_RESV_RESV
    + need ≤ s.fld (.admt g) Reg.ADMT_PAGE_LIMIT_LIMIT → hKv (dHandle d) + dPromptLen d + dMaxNew d ≤ s.fld (.admt g)
    Reg.ADMT_KV_SLOT_PAGES / max (s.fld (.admt p) Reg.ADMT_MODEL_LAYERS (dModel d)) 1 * 2 ^ s.fld (.admt p)
    Reg.ADMT_MODEL_TOK_LOG2 (dModel d) → completes (.resume p n d h) s fun t => (t.ten n).reqHead = ((s.ten
    n).reqHead + 1) % 2 ^ ((s.ten n).reqLog2 + 1) ∧ Out.hostWrite n (s.asVf n) ((s.ten n).statAddr.toNat % 2 ^ 64)
    (bytesOfNat 8 (((s.ten n).reqHead + 1) % 2 ^ ((s.ten n).reqLog2 + 1))) ∈ t.out ∧ (∃ r ∈ t.reqs, r.reqId = reqIdOf
    n (dTag d) ∧ r.genPart = some g ∧ r.genSlot = k ∧ (r.st = .resuming ∨ r.st = .running)) ∧ (∃ v ∈ t.convs,
    v.tenant = n ∧ v.convId = dConv d ∧ v.st = .resident ∧ v.part = g ∧ v.slot = k) ∧ t.fld (.admt g)
    Reg.ADMT_PAGE_RESV_RESV = (s.fld (.admt g) Reg.ADMT_PAGE_RESV_RESV + need) % 2 ^ 24 ∧ (t.ten n).p = charge (u.ten
    n).p (dPromptLen d) ∧ s.counted t (.admt p) 0x80 ∧ othersSame {} s.tenants t.tenants [n.val] ∧ s.keeps t
    [.out, .tenants, .reqs, .convs, .movers, .fresh, .regs, .cnt, .tier, .mem, .digs, .qps, .units, .pcie, .pwr]) ∧
  (∀ (s : State) (p : PartId) (n : TenId) (d : BitVec 1024) (h : HostRead), s.weirReads p n = false ∨ s.flag .qrm
    Reg.QRM_STAT_IN_QUORUM = false → completes (.generate p n d h) s (fun t => t = s) ∧ completes (.resume p n d h) s
    (fun t => t = s)) ∧
  (∀ (s : State) (p : PartId) (r : Req) (rest : List Req), (s.reqs.filter (fun r => r.st == .parking && dOp r.desc !=
    2 && r.weir == p) = []) → s.deferred p = r :: rest → s.flag .qrm Reg.QRM_STAT_IN_QUORUM = true → exec
    (.deferRetryTimer p) s = .next (s.admitNow p r)) ∧
  (∀ (s : State) (p : PartId), (s.reqs.filter (fun r => r.st == .parking && dOp r.desc != 2 && r.weir == p) = []) →
    s.deferred p = [] ∨ s.flag .qrm Reg.QRM_STAT_IN_QUORUM = false → completes (.deferRetryTimer p) s fun t => t = s) ∧
  (∀ (s : State) (p : PartId) (id : Nat) (r : Req) (n : TenId), ((s.deferred p).find? (fun r => r.reqId == id) = some
    r) → r.tenant = n → s.fld (.disp p) Reg.DISP_CLASS_TTFT_US (dClass r.desc) ≠ 0 → r.readAt + s.fld (.disp p)
    Reg.DISP_CLASS_TTFT_US (dClass r.desc) * 1000 ≤ s.now → completes (.deferDeadline p id) s fun t => (t.ten
    n).waiting = (s.ten n).waiting ++ [recOf r 0x12 0x08 true] ∧ (t.reqs = s.reqs.filter fun x => x.reqId ≠ r.reqId)
    ∧ s.counted t (.admt p) 0x98 ∧ othersSame {} s.tenants t.tenants [n.val] ∧ s.changes t [.tenants, .reqs]
    [Reg.ADMT_QUEUE_DEPTH.place (.admt p)] [(.admt p, 0x98)]) ∧
  (∀ (s : State) (p : PartId) (id : Nat) (r : Req) (n : TenId), ((s.deferred p).find? (fun r => r.reqId == id) = some
    r) → r.tenant = n → s.fld (.disp p) Reg.DISP_CLASS_TTFT_US (dClass r.desc) = 0 ∨ s.now < r.readAt + s.fld (.disp
    p) Reg.DISP_CLASS_TTFT_US (dClass r.desc) * 1000 → completes (.deferDeadline p id) s fun t => t = s)

/-- PAUSE of a resident conversation opens the parking request, and with no push open begins the park: a sending
context, or a wait. RELEASE of a resident conversation frees its pages, releases its reservation, closes it and
queues the final record DONE. IDLE_PARK_TIMER parks an idle resident conversation after IDLE_MS. TENANT_CANCEL of a
deferred request queues ABORTED_HOST; one of an open request ends it so; one of a request that has ended counts
RACE_DISCARD, of none CANCEL_UNKNOWN. A doorbell of a tenant no Weir serves is counted and recorded. Nothing else
changes. On points the spec leaves open it states the model's choices (notes/assumptions/27, 35). -/
def Obligations.ConversationsEnd : Prop :=
  (∀ (s : State) (p : PartId) (n : TenId) (d : BitVec 1024) (h : HostRead) (v : Conv), s.weirReads p n = true → dOp d
    = 2 → s.descReason p n d h = none → (s.conv n (dConv d) = some v) → s.pushOpen v = true → completes (.pause p n d
    h) s fun t => (t.ten n).reqHead = ((s.ten n).reqHead + 1) % 2 ^ ((s.ten n).reqLog2 + 1) ∧ Out.hostWrite n (s.asVf
    n) ((s.ten n).statAddr.toNat % 2 ^ 64) (bytesOfNat 8 (((s.ten n).reqHead + 1) % 2 ^ ((s.ten n).reqLog2 + 1))) ∈
    t.out ∧ (∃ r ∈ t.reqs, r.reqId = reqIdOf n (dTag d) ∧ r.desc = d ∧ r.st = .parking ∧ r.genPart = some v.part) ∧
    othersSame {} s.tenants t.tenants [n.val] ∧ s.changes t [.out, .tenants, .reqs, .convs] [] []) ∧
  (∀ (s : State) (p : PartId) (n : TenId) (d : BitVec 1024) (h : HostRead) (v : Conv), s.weirReads p n = true → dOp d
    = 2 → s.descReason p n d h = none → (s.conv n (dConv d) = some v) → s.pushOpen v = false → v.tenant = n ∧
    v.convId = dConv d → completes (.pause p n d h) s fun t => (t.ten n).reqHead = ((s.ten n).reqHead + 1) % 2 ^
    ((s.ten n).reqLog2 + 1) ∧ Out.hostWrite n (s.asVf n) ((s.ten n).statAddr.toNat % 2 ^ 64) (bytesOfNat 8 (((s.ten
    n).reqHead + 1) % 2 ^ ((s.ten n).reqLog2 + 1))) ∈ t.out ∧ (∃ r ∈ t.reqs, r.reqId = reqIdOf n (dTag d) ∧ r.desc =
    d ∧ r.st = .parking ∧ r.genPart = some v.part) ∧ ((∃ e ∈ (t.mover v.part).ctxs, e.2.kind = 2 ∧ e.2.reqId =
    v.reqId) ∨ ∃ w ∈ (t.mover v.part).parkWaits, w.1 = v.reqId) ∧ othersSame {} s.tenants t.tenants [n.val] ∧ s.keeps
    t [.out, .tenants, .reqs, .convs, .movers, .fresh, .regs, .cnt, .tier, .mem, .pcie, .digs, .pwr, .qps]) ∧
  (∀ (s : State) (p : PartId) (n : TenId) (d : BitVec 1024) (h : HostRead) (v : Conv), s.weirReads p n = true → dOp d
    = 4 → s.descReason p n d h = none → (s.conv n (dConv d) = some v) → v.st = .resident → v.tenant = n ∧ v.convId =
    dConv d → completes (.release p n d h) s fun t => (t.ten n).reqHead = ((s.ten n).reqHead + 1) % 2 ^ ((s.ten
    n).reqLog2 + 1) ∧ Out.hostWrite n (s.asVf n) ((s.ten n).statAddr.toNat % 2 ^ 64) (bytesOfNat 8 (((s.ten
    n).reqHead + 1) % 2 ^ ((s.ten n).reqLog2 + 1))) ∈ t.out ∧ (t.ten n).waiting = [recOf (s.newReq p n d h) 0 0 true]
    ∧ (∀ x ∈ t.convs, ¬ (x.tenant = n ∧ x.convId = dConv d)) ∧ t.fld (.admt v.part) Reg.ADMT_PAGE_RESV_RESV = s.fld
    (.admt v.part) Reg.ADMT_PAGE_RESV_RESV - v.need ∧ (let c := (s.convRange { v with kvLen := s.residentKv v }); ∀ i
    ∈ List.range (c.layers * c.stride), ∀ home ∈ [TierName.shallows, .basin, .deep], (t.leaf (c.localBase / 65536 +
    i)).st ≠ .resident home) ∧ othersSame {} s.tenants t.tenants [n.val] ∧ s.changes t
    [.out, .tenants, .convs, .tier, .mem] [Reg.ADMT_PAGE_RESV_RESV.place (.admt v.part)] []) ∧
  (∀ (s : State) (n : TenId) (c : Nat) (v : Conv) (p : PartId), (s.conv n c = some v) → (s.weirOf n = some p) → v.st
    = .resident → s.openOf n c = none → ((s.mover v.part).ctxs.any (fun e => e.2.kind == 2 && e.2.reqId == v.reqId
    && decide (1 ≤ e.2.state) && decide (e.2.state ≤ 3)) = false) → v.idleFrom + s.fld (.admt p) Reg.ADMT_TEN_IDLE_MS
    n.val * 1000000 ≤ s.now → completes (.idleParkTimer n c) s fun t => ((∃ e ∈ (t.mover v.part).ctxs, e.2.kind = 2 ∧
    e.2.reqId = v.reqId) ∨ ∃ w ∈ (t.mover v.part).parkWaits, w.1 = v.reqId) ∧ s.keeps t
    [.out, .convs, .movers, .fresh, .regs, .cnt, .tier, .mem, .pcie, .digs, .pwr, .qps]) ∧
  (∀ (s : State) (n : TenId) (c : Nat), s.conv n c = none ∨ s.weirOf n = none ∨ s.openOf n c ≠ none → completes
    (.idleParkTimer n c) s fun t => t = s) ∧
  (∀ (s : State) (n : TenId) (tag : Fin 67108864) (p : PartId), s.recovery = false → (s.weirOf n = some p) → s.req
    (reqIdOf n tag.val) = none → completes (.tenantCancel n tag) s fun t => s.counted t (.admt p) 0xC0 ∧ s.changes t
    [] [] [(.admt p, 0xC0)]) ∧
  (∀ (s : State) (n : TenId) (tag : Fin 67108864) (p : PartId) (r : Req), s.recovery = false → (s.weirOf n = some p)
    → (s.req (reqIdOf n tag.val) = some r) → r.st = .deferred → completes (.tenantCancel n tag) s fun t => (t.ten
    n).waiting = (s.ten n).waiting ++ [recOf r 0x41 0 true] ∧ (t.reqs = s.reqs.filter fun x => x.reqId ≠ r.reqId) ∧
    othersSame {} s.tenants t.tenants [n.val] ∧ s.changes t [.tenants, .reqs]
    [Reg.ADMT_QUEUE_DEPTH.place (.admt r.weir)] []) ∧
  (∀ (s : State) (n : TenId) (tag : Fin 67108864) (p : PartId) (r : Req) (g : PartId), s.recovery = false → (s.weirOf
    n = some p) → (s.req (reqIdOf n tag.val) = some r) → r.st ≠ .deferred → r.endStatus.isSome = true → (r.genPart =
    some g) → completes (.tenantCancel n tag) s fun t => s.counted t (.disp g) 0xD8 ∧ s.changes t [] []
    [(.disp g, 0xD8)]) ∧
  (∀ (s : State) (n : TenId) (tag : Fin 67108864) (p : PartId) (r : Req), s.recovery = false → (s.weirOf n = some p)
    → (s.req (reqIdOf n tag.val) = some r) → r.tenant = n → r.st = .running → r.endStatus = none → r.recorded = false
    → r.outBuf = [] → (∀ q ∈ allParts, ∀ e ∈ (s.mover q).ctxs, e.2.state = 0 ∨ 3 < e.2.state) → completes
    (.tenantCancel n tag) s fun t => (t.ten n).waiting = (s.ten n).waiting ++ [recOf r 0x41 0 true] ∧ (∀ x ∈ t.reqs,
    x.reqId = r.reqId → x.st = .ending ∧ x.endStatus = some (0x41, 0) ∧ x.recorded = true) ∧ othersSame {} s.tenants
    t.tenants [n.val] ∧ s.changes t [.tenants, .reqs, .convs, .fresh] [] []) ∧
  (∀ (s : State) (n : TenId) (tail : Fin 8192), s.recovery = false → s.weirOf n = none → completes (.reqTail n tail)
    s fun t => s.counted t (.admt 0) 0xB8 ∧ s.erred t (.admt 0) 1 ∧ s.counted t .pcie 0xA8 ∧ s.changes t []
    (errPlaces (.admt 0)) [(.admt 0, 0x50), (.admt 0, 0xB8), (.pcie, 0xA8)]) ∧
  (∀ (s : State) (n : TenId) (tag : Fin 67108864), s.recovery = false → s.weirOf n = none → completes (.tenantCancel
    n tag) s fun t => s.counted t (.admt 0) 0xB8 ∧ s.erred t (.admt 0) 1 ∧ s.changes t [] (errPlaces (.admt 0))
    [(.admt 0, 0x50), (.admt 0, 0xB8)])

/-- REQ_TAIL, TOK_HEAD and CPL_HEAD of a served tenant take their pointer, modulo twice the ring; a REQ_TAIL counts
as a doorbell. TENANT_RING_CFG_WRITE sets bases and sizes only while EN is clear, keeps a reserved size as it was,
and sets EN. COMPLETION_RECORD_WRITE writes the first waiting record to the completion ring where it has room, with
PHASE and WHEN, moves its tail, and, with no request deferred, lets go of the request whose final record it is;
without room nothing changes. VF_TOK_MOD_TIMER ends the interval. VF_FLR resets the doorbell page and drops the open
requests, its budgets kept. Nothing else changes. On points the spec leaves open it states the model's choices
(notes/assumptions/35, 36). -/
def Obligations.TenantRingsMove : Prop :=
  (∀ (s : State) (n : TenId) (tail : Fin 8192) (p : PartId), s.recovery = false → (s.weirOf n = some p) → completes
    (.reqTail n tail) s fun t => t.ten n = { s.ten n with reqTail := tail.val % 2 ^ ((s.ten n).reqLog2 + 1) } ∧
    othersSame {} s.tenants t.tenants [n.val] ∧ s.counted t .pcie 0xA8 ∧ s.changes t [.tenants] [] [(.pcie, 0xA8)]) ∧
  (∀ (s : State) (n : TenId) (head : Nat), s.recovery = false → completes (.tokHead n head) s fun t => t.ten n =
    { s.ten n with tokHead := head % 2 ^ ((s.ten n).tokLog2 + 1) } ∧ othersSame {} s.tenants t.tenants [n.val] ∧
    s.changes t [.tenants] [] []) ∧
  (∀ (s : State) (n : TenId) (head : Nat), s.recovery = false → completes (.cplHead n head) s fun t => t.ten n =
    { s.ten n with cplHead := head % 2 ^ ((s.ten n).cplLog2 + 1) } ∧ othersSame {} s.tenants t.tenants [n.val] ∧
    s.changes t [.tenants] [] []) ∧
  (∀ (s : State) (n : TenId) (v : Word64), s.recovery = false → (s.ten n).en = false → completes (.tenantRingCfgWrite
    n (.reqBase v)) s fun t => t.ten n = { s.ten n with reqBase := v &&& 0xFFFFFFFFFFFFF000 } ∧ othersSame {}
    s.tenants t.tenants [n.val] ∧ s.changes t [.tenants] [] []) ∧
  (∀ (s : State) (n : TenId) (v : Word64), s.recovery = false → (s.ten n).en = false → completes (.tenantRingCfgWrite
    n (.tokBase v)) s fun t => t.ten n = { s.ten n with tokBase := v &&& 0xFFFFFFFFFFFFF000 } ∧ othersSame {}
    s.tenants t.tenants [n.val] ∧ s.changes t [.tenants] [] []) ∧
  (∀ (s : State) (n : TenId) (v : Word64), s.recovery = false → (s.ten n).en = false → completes (.tenantRingCfgWrite
    n (.cplBase v)) s fun t => t.ten n = { s.ten n with cplBase := v &&& 0xFFFFFFFFFFFFF000 } ∧ othersSame {}
    s.tenants t.tenants [n.val] ∧ s.changes t [.tenants] [] []) ∧
  (∀ (s : State) (n : TenId) (v : Word64), s.recovery = false → (s.ten n).en = false → completes (.tenantRingCfgWrite
    n (.statAddr v)) s fun t => t.ten n = { s.ten n with statAddr := v &&& 0xFFFFFFFFFFFFFFC0 } ∧ othersSame {}
    s.tenants t.tenants [n.val] ∧ s.changes t [.tenants] [] []) ∧
  (∀ (s : State) (n : TenId) (v : Word), s.recovery = false → (s.ten n).en = false → completes (.tenantRingCfgWrite n
    (.ringCfg v)) s fun t => (t.ten n =
    { s.ten n with reqLog2 := if 4 ≤ bits v.toNat 0 4 ∧ bits v.toNat 0 4 ≤ 12 then bits v.toNat 0 4 else (s.ten n).reqLog2, tokLog2 := if 6 ≤ bits v.toNat 8 5 ∧ bits v.toNat 8 5 ≤ 20 then bits v.toNat 8 5 else (s.ten n).tokLog2, cplLog2 := if 4 ≤ bits v.toNat 16 4 ∧ bits v.toNat 16 4 ≤ 15 then bits v.toNat 16 4 else (s.ten n).cplLog2, en := v.getLsbD 31 })
    ∧ othersSame {} s.tenants t.tenants [n.val] ∧ s.changes t [.tenants] [] []) ∧
  (∀ (s : State) (n : TenId) (v : Word), s.recovery = false → (s.ten n).en = true → completes (.tenantRingCfgWrite n
    (.ringCfg v)) s fun t => t.ten n = { s.ten n with en := v.getLsbD 31 } ∧ othersSame {} s.tenants t.tenants
    [n.val] ∧ s.changes t [.tenants] [] []) ∧
  (∀ (s : State) (n : TenId) (v : Word64), (s.ten n).en = true ∨ s.recovery = true → ∀ r ∈
    [RingReg.reqBase v, .tokBase v, .cplBase v, .statAddr v], completes (.tenantRingCfgWrite n r) s fun t => t = s) ∧
  (∀ (s : State) (n : TenId) (tail : Fin 8192) (k : Nat) (r : RingReg) (tag : Fin 67108864), s.recovery = true → ∀ c
    ∈ [Instr.reqTail n tail, .tokHead n k, .cplHead n k, .tenantRingCfgWrite n r, .tenantCancel n tag], completes c
    s fun t => t = s) ∧
  (∀ (s : State) (n : TenId) (c : CplRec) (rest : List CplRec), (s.ten n).waiting = c :: rest → (s.ten n).en = true →
    ringUsed (s.ten n).cplLog2 (s.ten n).cplHead (s.ten n).cplTail < 2 ^ (s.ten n).cplLog2 → c.final = false →
    c.notice = false ∨ (∀ u ∈ s.reqs, u.st ≠ .deferred) → completes (.completionRecordWrite n) s fun t => t.ten n =
    { s.ten n with waiting := rest, cplTail := ((s.ten n).cplTail + 1) % 2 ^ ((s.ten n).cplLog2 + 1) } ∧
    Out.hostWrite n (s.asVf n) (((s.ten n).cplBase.toNat + (s.ten n).cplTail % 2 ^ (s.ten n).cplLog2 * 32) % 2 ^ 64)
    (recordBytes c (phaseOf (s.ten n).cplLog2 (s.ten n).cplTail) s.now) ∈ t.out ∧ othersSame {} s.tenants t.tenants
    [n.val] ∧ s.changes t [.tenants, .out, .pcie] [] [(.pcie, 0xB0)]) ∧
  (∀ (s : State) (n : TenId) (c : CplRec) (rest : List CplRec) (r : Req), (s.ten n).waiting = c :: rest → (s.ten
    n).en = true → ringUsed (s.ten n).cplLog2 (s.ten n).cplHead (s.ten n).cplTail < 2 ^ (s.ten n).cplLog2 → c.final =
    true → (rest.any (fun e => e.final && e.reqId == c.reqId) = false) → (s.req c.reqId = some r) → r.recorded = true
    → r.adapter = none → (∀ u ∈ s.reqs, u.st ≠ .deferred) → completes (.completionRecordWrite n) s fun t => t.ten n =
    { s.ten n with waiting := rest, cplTail := ((s.ten n).cplTail + 1) % 2 ^ ((s.ten n).cplLog2 + 1) } ∧
    Out.hostWrite n (s.asVf n) (((s.ten n).cplBase.toNat + (s.ten n).cplTail % 2 ^ (s.ten n).cplLog2 * 32) % 2 ^ 64)
    (recordBytes c (phaseOf (s.ten n).cplLog2 (s.ten n).cplTail) s.now) ∈ t.out ∧ (t.reqs = s.reqs.filter fun x =>
    x.reqId ≠ c.reqId) ∧ othersSame {} s.tenants t.tenants [n.val] ∧ s.changes t [.tenants, .out, .pcie, .reqs] []
    [(.pcie, 0xB0)]) ∧
  (∀ (s : State) (n : TenId), (s.ten n).waiting = [] ∨ (s.ten n).en = false ∨ 2 ^ (s.ten n).cplLog2 ≤ ringUsed (s.ten
    n).cplLog2 (s.ten n).cplHead (s.ten n).cplTail → completes (.completionRecordWrite n) s fun t => t = s) ∧
  (∀ (s : State) (n : TenId), (s.ten n).modPend = true → (s.ten n).modUntil ≤ s.now → completes (.vfTokModTimer n)
    s fun t => t.ten n =
    { s.ten n with modPend := false, modUntil := s.now + s.fld .pcie Reg.PCIE_VF_TOK_MOD_US * 1000 } ∧ (n.val * 2 + 1
    ∈ s.pcie.vfUnmasked → t.out = s.out ++ [Out.msix (some n.val) 1]) ∧ (n.val * 2 + 1 ∉ s.pcie.vfUnmasked → n.val *
    2 + 1 ∈ t.pcie.vfPend) ∧ othersSame {} s.tenants t.tenants [n.val] ∧ s.changes t [.tenants, .out, .pcie] []
    [(.pcie, 0xB0)]) ∧
  (∀ (s : State) (n : TenId), (s.ten n).modPend = false ∨ s.now < (s.ten n).modUntil → completes (.vfTokModTimer n)
    s fun t => t = s) ∧
  (∀ (s : State) (n : TenId), (∀ q ∈ allParts, ∀ e ∈ (s.mover q).ctxs, e.2.state = 0 ∨ 3 < e.2.state) → (∀ r ∈
    s.reqs, r.tenant = n → r.st ≠ .deferred ∧ r.adapter = none) → completes (.vfFlr n) s fun t => t.ten n =
    { p := (s.ten n).p, g := (s.ten n).g, refilled := (s.ten n).refilled } ∧ (∀ r ∈ t.reqs, r.tenant ≠ n ∧ r ∈
    s.reqs) ∧ othersSame {} s.tenants t.tenants [n.val] ∧ s.changes t [.tenants, .reqs, .convs, .fresh] [] [])

/-- SAMPLER_DONE of a slot whose step has ended draws the token of R298 from its logits for the request it serves,
which joins its output at the next position; a speculative one verifies the proposals of its step, adds the tokens
kept, counts proposals and acceptances, and cuts the KV length to the accepted rows; with no candidate the request
ends with ABORTED_FAULT. TOKEN_WRITE places the next drawn token in the tenant's ring with LAST and PHASE, charges
the generation budget and counts it, but of a device of a shard set other than SHARD 0 places none; EOS ends the
request with DONE, a stop sequence or MAX_NEW with its status; a full ring holds it. Nothing else changes. On points
the spec leaves open it states the model's choices (notes/assumptions/34). -/
def Obligations.TokensAreDrawnAndPlaced : Prop :=
  (∀ (s : State) (p : PartId) (k : Fin 1024) (r : Req) (v : Nat) (x : List Word) (tok : Nat), s.ready (.samp p) =
    true → (s.part p).samplerDue.contains k.val = true → (s.req (s.rs p k.val).reqId = some r) → r.endStatus = none →
    dSpec r.desc = false → v = s.fld (.samp p) Reg.SAMP_MODEL_VOCAB r.model.val → v ≠ 0 → s.readable (s.logitsAt p
    k.val 0) (4 * v) → (x = (List.range v).map fun i => BitVec.ofNat 32 (s.rdNat (s.logitsAt p k.val 0 + 4 * i) 4)) →
    positionOf r.desc x ≠ .none → (s.drawAt r.desc v r.pos 0 (positionOf r.desc x) = some tok) → (∀ y ∈ s.reqs,
    y.reqId = r.reqId → y = r) → s.tier.answers = [] → completes (.samplerDone p k) s fun t => t.part p =
    { s.part p with samplerDue := (s.part p).samplerDue.erase k.val } ∧ (t.reqs = s.reqs.map fun y => if y.reqId =
    r.reqId then { r with outBuf := r.outBuf ++ [(tok, r.pos)], pos := r.pos + 1, lastTok := tok } else y) ∧
    s.changes t [.parts, .reqs, .fresh, .tier, .pwr, .out] []
    [(.samp p, 0xA8), (.samp p, 0xB0), (.tier, 0x90), (.pwr, 0xB0)]) ∧
  (∀ (s : State) (p : PartId) (k : Fin 1024) (r : Req) (v : Nat) (l : List (List Word)), s.ready (.samp p) = true →
    (s.part p).samplerDue.contains k.val = true → (s.req (s.rs p k.val).reqId = some r) → r.endStatus = none → dSpec
    r.desc = true → v = s.fld (.samp p) Reg.SAMP_MODEL_VOCAB r.model.val → v ≠ 0 → (∀ j ∈ List.range (dDepth r.desc +
    1), s.readable (s.logitsAt p k.val j) (4 * v)) → s.tier.answers = [] → (l = ((List.range (dDepth r.desc +
    1)).map fun j => (List.range v).map fun i => BitVec.ofNat 32 (s.rdNat (s.logitsAt p k.val j + 4 * i) 4))) → (∀ x
    ∈ l, positionOf r.desc x ≠ .none) → (∀ y ∈ s.reqs, y.reqId = r.reqId → y = r) → completes (.samplerDone p k)
    s fun t => (∃ toks, (s.verify r.desc v r.pos (l.map (positionOf r.desc))).2.1 = some toks ∧ (t.reqs =
    s.reqs.map fun y => if y.reqId = r.reqId then
    { r with outBuf := r.outBuf ++ toks.zipIdx.map (fun e => (e.1, r.pos + e.2)), pos := r.pos + toks.length, lastTok := toks.getLast?.getD r.lastTok, specEpoch := (r.specEpoch + 1) % 256 }
    else y)) ∧ s.counted t (.samp p) 0x88 (dDepth r.desc) ∧ s.counted t (.samp p) 0x90 (s.verify r.desc v r.pos
    (l.map (positionOf r.desc))).1 ∧ t.rs p k.val =
    { s.rs p k.val with kvLen := (s.rs p k.val).kvLen - dDepth r.desc + (s.verify r.desc v r.pos (l.map (positionOf r.desc))).1 }
    ∧ (t.part p).samplerDue = (s.part p).samplerDue.erase k.val ∧ othersSame {} s.parts t.parts [p.val] ∧ s.changesOn
    t (.parts :: .reqs :: .fresh :: .qps :: putComps) (.samp p :: putPages)) ∧
  (∀ (s : State) (p : PartId) (k : Fin 1024) (r : Req) (v : Nat) (x : List Word), s.ready (.samp p) = true → (s.part
    p).samplerDue.contains k.val = true → (s.req (s.rs p k.val).reqId = some r) → r.endStatus = none → dSpec r.desc =
    false → v = s.fld (.samp p) Reg.SAMP_MODEL_VOCAB r.model.val → s.readable (s.logitsAt p k.val 0) (4 * v) → (x =
    (List.range v).map fun i => BitVec.ofNat 32 (s.rdNat (s.logitsAt p k.val 0 + 4 * i) 4)) → positionOf r.desc x =
    .none → r.outBuf = [] → r.recorded = false → (∀ q ∈ allParts, ∀ e ∈ (s.mover q).ctxs, e.2.state = 0 ∨ 3 <
    e.2.state) → s.tier.answers = [] → completes (.samplerDone p k) s fun t => t.part p =
    { s.part p with samplerDue := (s.part p).samplerDue.erase k.val } ∧ s.erred t (.samp p) 1 ∧ s.counted t (.samp p)
    0xB8 ∧ (∀ y ∈ t.reqs, y.reqId = r.reqId → y.endStatus = some (0x30, 0x32)) ∧ recOf r 0x30 0x32 true ∈ (t.ten
    r.tenant).waiting ∧ s.changesOn t [.parts, .reqs, .fresh, .tier, .pwr, .out, .pcie, .convs, .tenants]
    [.samp p, .tier, .pwr, .pcie]) ∧
  (∀ (s : State) (p : PartId) (k : Fin 1024), s.ready (.samp p) = false ∨ (s.part p).samplerDue.contains k.val =
    false → completes (.samplerDone p k) s fun t => t = s) ∧
  (∀ (s : State) (p : PartId) (k : Fin 1024) (r : Req) (n : TenId) (tok pos : Nat) (rest : List (Nat × Nat)) (em :
    List Nat), (s.reqs.find? (fun r => r.genPart == some p && r.genSlot == k.val && !r.outBuf.isEmpty) = some r) →
    r.outBuf = (tok, pos) :: rest → dShard r.desc = 0 → r.tenant = n → (s.ten n).tokRoom = true → r.endStatus = none
    → r.recorded = false → em = (r.emitted ++ [tok]).drop (r.emitted.length - 7) → (∀ y ∈ s.reqs, y.reqId = r.reqId →
    y = r) → s.stopOf p r tok em = none → completes (.tokenWrite p k) s fun t => Out.hostWrite n (s.asVf n) (((s.ten
    n).tokBase.toNat + (s.ten n).tokTail % 2 ^ (s.ten n).tokLog2 * 8) % 2 ^ 64) (tokenEntry tok false (phaseOf (s.ten
    n).tokLog2 (s.ten n).tokTail) r.reqId) ∈ t.out ∧ (t.ten n).tokTail = ((s.ten n).tokTail + 1) % 2 ^ ((s.ten
    n).tokLog2 + 1) ∧ (t.ten n).g = charge ((s.refill r.weir n).ten n).g 1 ∧ s.counted t (.samp p) 0x80 ∧ othersSame
    {} s.tenants t.tenants [n.val] ∧ (t.reqs = s.reqs.map fun y => if y.reqId = r.reqId then
    { r with tokens := r.tokens + 1, emitted := em, placedAt := s.now, outBuf := rest } else y) ∧ s.changesOn t
    [.tenants, .reqs, .out, .pcie, .units] [.samp p, .pcie, .mon]) ∧
  (∀ (s : State) (p : PartId) (k : Fin 1024) (r : Req) (tok pos : Nat) (rest : List (Nat × Nat)) (em : List Nat),
    (s.reqs.find? (fun r => r.genPart == some p && r.genSlot == k.val && !r.outBuf.isEmpty) = some r) → r.outBuf =
    (tok, pos) :: rest → dShard r.desc ≠ 0 → r.endStatus = none → em = (r.emitted ++ [tok]).drop (r.emitted.length -
    7) → (∀ y ∈ s.reqs, y.reqId = r.reqId → y = r) → s.stopOf p r tok em = none → completes (.tokenWrite p k) s fun t
    => (t.reqs = s.reqs.map fun y => if y.reqId = r.reqId then
    { r with tokens := r.tokens + 1, emitted := em, placedAt := s.now, outBuf := rest } else y) ∧ s.changes t [.reqs]
    [] []) ∧
  (∀ (s : State) (p : PartId) (k : Fin 1024) (r : Req) (n : TenId) (tok pos : Nat) (rest : List (Nat × Nat)) (em :
    List Nat) (status detail ctr : Nat), (s.reqs.find? (fun r => r.genPart == some p && r.genSlot == k.val &&
    !r.outBuf.isEmpty) = some r) → r.outBuf = (tok, pos) :: rest → dShard r.desc = 0 → r.tenant = n → (s.ten
    n).tokRoom = true → r.endStatus = none → r.recorded = false → em = (r.emitted ++ [tok]).drop (r.emitted.length -
    7) → (∀ y ∈ s.reqs, y.reqId = r.reqId → y = r) → (s.stopOf p r tok em = some (status, detail, ctr)) → completes
    (.tokenWrite p k) s fun t => Out.hostWrite n (s.asVf n) (((s.ten n).tokBase.toNat + (s.ten n).tokTail % 2 ^
    (s.ten n).tokLog2 * 8) % 2 ^ 64) (tokenEntry tok true (phaseOf (s.ten n).tokLog2 (s.ten n).tokTail) r.reqId) ∈
    t.out ∧ (t.ten n).tokTail = ((s.ten n).tokTail + 1) % 2 ^ ((s.ten n).tokLog2 + 1) ∧ (t.ten n).g = charge
    ((s.refill r.weir n).ten n).g 1 ∧ s.counted t (.samp p) 0x80 ∧ othersSame {} s.tenants t.tenants [n.val] ∧ (∀ y ∈
    t.reqs, y.reqId = r.reqId → y.endStatus = some (status, detail) ∧ y.outBuf = [] ∧ y.tokens = r.tokens + 1) ∧ (∃ c
    ∈ (t.ten n).waiting, c.reqId = r.reqId ∧ c.status = status ∧ c.detail = detail ∧ c.final = true ∧ c.tokens =
    r.tokens + 1) ∧ s.counted t (.samp p) ctr ∧ s.changesOn t [.tenants, .reqs, .out, .pcie, .units, .convs]
    [.samp p, .pcie, .mon]) ∧
  (∀ (s : State) (p : PartId) (k : Fin 1024), (∀ r ∈ s.reqs, r.genPart = some p → r.genSlot = k.val → r.outBuf = [] ∨
    dShard r.desc = 0 ∧ (s.ten r.tenant).tokRoom = false) → completes (.tokenWrite p k) s fun t => t = s)

/-- CNT_SNAP of a ready page copies its live counters to the shadow, writes SNAP_TIME and moves SNAP_SEQ on; with
CLR, and on CNT_CLR, the live counters of that page become 0; the MON page does the same to its units. MON_SNAP_ARM
arms, or records SNAP_BUSY while armed, or takes a time already past at once with SNAP_LATE. MON_SNAP_FIRE at its
time snapshots every page with SNAP_TIME = MON_SNAP_AT, clears ARM and moves MON_SNAP_SEQ on. Nothing else changes.
On points the spec leaves open it states the model's choices (notes/assumptions/49). -/
def Obligations.SnapshotsAreTaken : Prop :=
  (∀ (s : State) (pg : Page), s.ready pg = true → (Map.wf (fun _ => 0) s.cnt = true) → completes (.cntSnap pg false)
    s fun t => (∀ o ∈ List.range 0x100, Map.get 0 t.shadow (Page.base pg + o) = Map.get 0 s.cnt (Page.base pg + o)) ∧
    t.fld pg Reg.SNAP_TIME_TIME = s.now % 2 ^ 64 ∧ t.fld pg Reg.CNT_STAT_SNAP_SEQ = (s.fld pg Reg.CNT_STAT_SNAP_SEQ +
    1) % 65536 ∧ (pg = .mon → ∀ u : Fin 8, (Map.get {} t.units u.val).shadow = (Map.get {} s.units u.val).live ∧
    (Map.get {} t.units u.val).live = (Map.get {} s.units u.val).live) ∧ (pg ≠ .mon → t.units = s.units) ∧ s.changes
    t [.shadow, .units] [Reg.SNAP_TIME_TIME.place pg, Reg.CNT_STAT_SNAP_SEQ.place pg] []) ∧
  (∀ (s : State) (pg : Page), s.ready pg = true → (Map.wf (fun _ => 0) s.cnt = true) → completes (.cntSnap pg true)
    s fun t => (∀ o ∈ List.range 0x100, Map.get 0 t.shadow (Page.base pg + o) = Map.get 0 s.cnt (Page.base pg + o)) ∧
    t.fld pg Reg.SNAP_TIME_TIME = s.now % 2 ^ 64 ∧ t.fld pg Reg.CNT_STAT_SNAP_SEQ = (s.fld pg Reg.CNT_STAT_SNAP_SEQ +
    1) % 65536 ∧ (∀ o ∈ List.range 0x100, Map.get 0 t.cnt (pg.base + o) = 0) ∧ (pg = .mon → ∀ u : Fin 8, (Map.get {}
    t.units u.val).shadow = (Map.get {} s.units u.val).live ∧ (Map.get {} t.units u.val).live = {}) ∧ (pg ≠ .mon →
    t.units = s.units) ∧ (s.changes t [.shadow, .units] [Reg.SNAP_TIME_TIME.place pg, Reg.CNT_STAT_SNAP_SEQ.place pg]
    ((List.range 0x100).map fun o => (pg, o)))) ∧
  (∀ (s : State) (pg : Page), s.ready pg = true → completes (.cntClr pg) s fun t => (∀ o ∈ List.range 0x100, Map.get
    0 t.cnt (pg.base + o) = 0) ∧ (pg = .mon → ∀ u : Fin 8, (Map.get {} t.units u.val).live = {} ∧ (Map.get {} t.units
    u.val).shadow = (Map.get {} s.units u.val).shadow) ∧ (pg ≠ .mon → t.units = s.units) ∧ (s.changes t [.units] []
    ((List.range 0x100).map fun o => (pg, o)))) ∧
  (∀ (s : State) (pg : Page) (clr : Bool), s.ready pg = false → completes (.cntSnap pg clr) s (fun t => t = s) ∧
    completes (.cntClr pg) s (fun t => t = s)) ∧
  (∀ (s : State) (clear : Bool), s.ready .mon = true → s.flag .mon Reg.MON_SNAP_ALL_ARM = true → completes
    (.monSnapArm clear) s fun t => s.erred t .mon 1 ∧ s.changes t [] (errPlaces .mon) (errCounts .mon)) ∧
  (∀ (s : State) (clear : Bool), s.ready .mon = true → s.flag .mon Reg.MON_SNAP_ALL_ARM = false → s.now ≤ s.fld .mon
    Reg.MON_SNAP_AT_TIME → completes (.monSnapArm clear) s fun t => t.flag .mon Reg.MON_SNAP_ALL_ARM = true ∧ t.flag
    .mon Reg.MON_SNAP_ALL_CLEAR = clear ∧ s.changes t []
    [Reg.MON_SNAP_ALL_ARM.place .mon, Reg.MON_SNAP_ALL_CLEAR.place .mon] []) ∧
  (∀ (s : State) (clear : Bool), s.ready .mon = true → s.flag .mon Reg.MON_SNAP_ALL_ARM = false → s.fld .mon
    Reg.MON_SNAP_AT_TIME < s.now → (Map.wf (fun _ => 0) s.cnt = true) → completes (.monSnapArm clear) s fun t => (∀
    pg ∈ Page.all, t.fld pg Reg.SNAP_TIME_TIME = s.now % 2 ^ 64 ∧ t.fld pg Reg.CNT_STAT_SNAP_SEQ = (s.fld pg
    Reg.CNT_STAT_SNAP_SEQ + 1) % 65536) ∧ t.flag .mon Reg.MON_SNAP_ALL_ARM = false ∧ t.fld .mon Reg.MON_SNAP_SEQ_SEQ
    = (s.fld .mon Reg.MON_SNAP_SEQ_SEQ + 1) % 65536 ∧ t.fld .mon Reg.MON_SNAP_TIME_TIME = s.now % 2 ^ 64 ∧ s.raised t
    .mon 0 ∧ (∀ u : Fin 8, (Map.get {} t.units u.val).shadow = (Map.get {} s.units u.val).live) ∧ (∀ pg ∈ Page.all, ∀
    o ∈ List.range 0x100, Map.get 0 t.shadow (pg.base + o) = Map.get 0 s.cnt (pg.base + o)) ∧ (s.fld .mon
    Reg.PG_ERR_CODE = 0 → t.fld .mon Reg.PG_ERR_CODE = 2) ∧ t.flag .mon Reg.MON_SNAP_ALL_CLEAR = clear ∧ (s.changes t
    [.shadow, .units, .out, .pcie] (Page.all.flatMap (fun pg =>
    [Reg.SNAP_TIME_TIME.place pg, Reg.CNT_STAT_SNAP_SEQ.place pg]) ++ irqPlaces .mon ++
    [Reg.MON_SNAP_ALL_ARM.place .mon, Reg.MON_SNAP_SEQ_SEQ.place .mon, Reg.MON_SNAP_TIME_TIME.place .mon, Reg.MON_SNAP_ALL_CLEAR.place .mon, Reg.PG_ERR_CODE.place .mon, Reg.PG_ERR_MULTI.place .mon])
    (Page.all.flatMap fun pg => (List.range 0x100).map fun o => (pg, o)))) ∧
  (∀ (s : State), s.flag .mon Reg.MON_SNAP_ALL_ARM = true → s.fld .mon Reg.MON_SNAP_AT_TIME ≤ s.now → (Map.wf (fun _
    => 0) s.cnt = true) → completes (.monSnapFire) s fun t => (∀ pg ∈ Page.all, t.fld pg Reg.SNAP_TIME_TIME = s.fld
    .mon Reg.MON_SNAP_AT_TIME ∧ t.fld pg Reg.CNT_STAT_SNAP_SEQ = (s.fld pg Reg.CNT_STAT_SNAP_SEQ + 1) % 65536) ∧
    t.flag .mon Reg.MON_SNAP_ALL_ARM = false ∧ t.fld .mon Reg.MON_SNAP_SEQ_SEQ = (s.fld .mon Reg.MON_SNAP_SEQ_SEQ +
    1) % 65536 ∧ t.fld .mon Reg.MON_SNAP_TIME_TIME = s.fld .mon Reg.MON_SNAP_AT_TIME ∧ s.raised t .mon 0 ∧ (∀ u : Fin
    8, (Map.get {} t.units u.val).shadow = (Map.get {} s.units u.val).live) ∧ (∀ pg ∈ Page.all, ∀ o ∈ List.range
    0x100, Map.get 0 t.shadow (pg.base + o) = Map.get 0 s.cnt (pg.base + o)) ∧ (s.flag .mon Reg.MON_SNAP_ALL_CLEAR =
    true → (∀ u : Fin 8, (Map.get {} t.units u.val).live = {}) ∧ ∀ pg ∈ Page.all, ∀ o ∈ List.range 0x100, o ≠ 0x58 →
    o ≠ 0xB0 → Map.get 0 t.cnt (pg.base + o) = 0) ∧ (s.flag .mon Reg.MON_SNAP_ALL_CLEAR = false → ∀ pg ∈ Page.all, ∀
    o ∈ List.range 0x100, o ≠ 0x58 → o ≠ 0xB0 → Map.get 0 t.cnt (pg.base + o) = Map.get 0 s.cnt (pg.base + o)) ∧
    (s.changes t [.shadow, .units, .out, .pcie] (Page.all.flatMap (fun pg =>
    [Reg.SNAP_TIME_TIME.place pg, Reg.CNT_STAT_SNAP_SEQ.place pg]) ++ irqPlaces .mon ++
    [Reg.MON_SNAP_ALL_ARM.place .mon, Reg.MON_SNAP_SEQ_SEQ.place .mon, Reg.MON_SNAP_TIME_TIME.place .mon])
    (Page.all.flatMap fun pg => (List.range 0x100).map fun o => (pg, o)))) ∧
  (∀ (s : State), s.flag .mon Reg.MON_SNAP_ALL_ARM = false ∨ s.now < s.fld .mon Reg.MON_SNAP_AT_TIME → completes
    (.monSnapFire) s fun t => t = s)

/-- UNIT_LEVEL_SAMPLE offers a unit the level of each instance its filter passes: an idle unit takes a sample at
once, a busy one queues it, a full queue drops and counts it with UNIT_DROP. UNIT_CFG_WRITE sets a unit's fields
while SOURCE is OFF; otherwise a change records UNIT_BUSY and is ignored, reserved values record RSV_ENC; a change
of SOURCE from OFF clears the live values. Nothing else changes. On points the spec leaves open it states the
model's choices (notes/assumptions/32, 49, 50). -/
def Obligations.CaptureUnitsTakeSamples : Prop :=
  (∀ (s : State) (u : Fin 8) (x : CapUnit) (l : Nat × Nat), ((s.levels (s.fld .mon Reg.UNIT_SOURCE u.val)).filter
    (fun l => s.flag .mon Reg.UNIT_ANY u.val || s.fld .mon Reg.UNIT_INDEX u.val == l.1 || s.fld .mon Reg.UNIT_SOURCE
    u.val == 13) = [l]) → x = Map.get {} s.units u.val → x.sampledAt ≠ s.now + 1 → x.queue = [] → completes
    (.unitLevelSample u) s fun t => Map.get {} t.units u.val =
    { x with live := takeSample x.live (s.flag .mon Reg.UNIT_MODE u.val) (s.fld .mon Reg.UNIT_BASE u.val) (s.fld .mon Reg.UNIT_SHIFT u.val) l.2, sampledAt := s.now + 1 }
    ∧ othersSame {} s.units t.units [u.val] ∧ s.changes t [.units] [] []) ∧
  (∀ (s : State) (u : Fin 8) (x : CapUnit) (l : Nat × Nat), ((s.levels (s.fld .mon Reg.UNIT_SOURCE u.val)).filter
    (fun l => s.flag .mon Reg.UNIT_ANY u.val || s.fld .mon Reg.UNIT_INDEX u.val == l.1 || s.fld .mon Reg.UNIT_SOURCE
    u.val == 13) = [l]) → x = Map.get {} s.units u.val → x.sampledAt = s.now + 1 ∨ x.queue ≠ [] → x.queue.length < 16
    → completes (.unitLevelSample u) s fun t => Map.get {} t.units u.val = { x with queue := x.queue ++ [l.2] } ∧
    othersSame {} s.units t.units [u.val] ∧ s.changes t [.units] [] []) ∧
  (∀ (s : State) (u : Fin 8) (x : CapUnit) (l : Nat × Nat), ((s.levels (s.fld .mon Reg.UNIT_SOURCE u.val)).filter
    (fun l => s.flag .mon Reg.UNIT_ANY u.val || s.fld .mon Reg.UNIT_INDEX u.val == l.1 || s.fld .mon Reg.UNIT_SOURCE
    u.val == 13) = [l]) → x = Map.get {} s.units u.val → 16 ≤ x.queue.length → completes (.unitLevelSample u) s fun t
    => Map.get {} t.units u.val = { x with live := { x.live with dropped := min 4294967295 (x.live.dropped + 1) } } ∧
    othersSame {} s.units t.units [u.val] ∧ s.raised t .mon 1 ∧ s.changes t [.units, .out, .pcie] (irqPlaces .mon)
    (irqCounts .mon)) ∧
  (∀ (s : State) (u : Fin 8), completes (.unitLevelSample u) s fun t => othersSame {} s.units t.units [u.val] ∧
    s.changes t [.units, .out, .pcie] (irqPlaces .mon) (irqCounts .mon)) ∧
  (∀ (s : State) (u : Fin 8), ((s.levels (s.fld .mon Reg.UNIT_SOURCE u.val)).filter (fun l => s.flag .mon
    Reg.UNIT_ANY u.val || s.fld .mon Reg.UNIT_INDEX u.val == l.1 || s.fld .mon Reg.UNIT_SOURCE u.val == 13) = []) →
    completes (.unitLevelSample u) s fun t => t = s) ∧
  (∀ (s : State) (u : Fin 8) (v : Word), s.ready .mon = true → s.fld .mon Reg.UNIT_SOURCE u.val = 0 → bits v.toNat 5
    6 ≤ 40 → bits v.toNat 0 4 ≤ 13 → completes (.unitCfgWrite u 0 v) s fun t => t.fld .mon Reg.UNIT_MODE u.val = bits
    v.toNat 4 1 ∧ t.fld .mon Reg.UNIT_SHIFT u.val = bits v.toNat 5 6 ∧ t.fld .mon Reg.UNIT_SOURCE u.val = bits
    v.toNat 0 4 ∧ ((Map.get {} t.units u.val).live = if bits v.toNat 0 4 = 0 then (Map.get {} s.units u.val).live
    else {}) ∧ othersSame {} s.units t.units [u.val] ∧ s.changes t [.units]
    [Reg.UNIT_MODE.place .mon u.val, Reg.UNIT_SHIFT.place .mon u.val, Reg.UNIT_SOURCE.place .mon u.val] []) ∧
  (∀ (s : State) (u : Fin 8) (v : Word), s.ready .mon = true → bits v.toNat 4 1 = s.fld .mon Reg.UNIT_MODE u.val →
    bits v.toNat 5 6 = s.fld .mon Reg.UNIT_SHIFT u.val → bits v.toNat 5 6 ≤ 40 → 14 ≤ bits v.toNat 0 4 → completes
    (.unitCfgWrite u 0 v) s fun t => s.erred t .mon 0x0E ∧ s.counted t .mon 0x68 ∧ t.fld .mon Reg.UNIT_SOURCE u.val =
    s.fld .mon Reg.UNIT_SOURCE u.val ∧ othersSame {} s.units t.units [u.val] ∧ s.changes t [.units] (errPlaces .mon)
    [(.mon, 0x50), (.mon, 0x68)]) ∧
  (∀ (s : State) (u : Fin 8) (v : Word), s.ready .mon = true → s.fld .mon Reg.UNIT_SOURCE u.val ≠ 0 → bits v.toNat 4
    1 ≠ s.fld .mon Reg.UNIT_MODE u.val ∨ bits v.toNat 5 6 ≠ s.fld .mon Reg.UNIT_SHIFT u.val → bits v.toNat 0 4 ≤ 13 →
    completes (.unitCfgWrite u 0 v) s fun t => s.erred t .mon 3 ∧ t.fld .mon Reg.UNIT_MODE u.val = s.fld .mon
    Reg.UNIT_MODE u.val ∧ t.fld .mon Reg.UNIT_SOURCE u.val = bits v.toNat 0 4 ∧ s.changes t [] (Reg.UNIT_SOURCE.place
    .mon u.val :: errPlaces .mon) (errCounts .mon)) ∧
  (∀ (s : State) (u : Fin 8) (v : Word), s.ready .mon = true → s.fld .mon Reg.UNIT_SOURCE u.val = 0 → completes
    (.unitCfgWrite u 1 v) s fun t => t.fld .mon Reg.UNIT_INDEX u.val = bits v.toNat 0 10 ∧ t.fld .mon Reg.UNIT_ANY
    u.val = bits v.toNat 10 1 ∧ t.fld .mon Reg.UNIT_CLASS_MASK u.val = bits v.toNat 16 16 ∧ s.changes t []
    [Reg.UNIT_INDEX.place .mon u.val, Reg.UNIT_ANY.place .mon u.val, Reg.UNIT_CLASS_MASK.place .mon u.val] []) ∧
  (∀ (s : State) (u : Fin 8) (v : Word), s.ready .mon = true → s.fld .mon Reg.UNIT_SOURCE u.val = 0 → completes
    (.unitCfgWrite u 2 v) s fun t => t.fld .mon Reg.UNIT_BASE u.val = v.toNat ∧ s.changes t []
    [Reg.UNIT_BASE.place .mon u.val] []) ∧
  (∀ (s : State) (u : Fin 8) (v : Word), s.ready .mon = true → s.fld .mon Reg.UNIT_SOURCE u.val = 0 → 100 ≤ v.toNat →
    completes (.unitCfgWrite u 3 v) s fun t => t.fld .mon Reg.UNIT_PERIOD_NS u.val = v.toNat ∧ s.changes t []
    [Reg.UNIT_PERIOD_NS.place .mon u.val] []) ∧
  (∀ (s : State) (u : Fin 8) (v : Word), s.ready .mon = true → s.fld .mon Reg.UNIT_SOURCE u.val = 0 → v.toNat < 100 →
    completes (.unitCfgWrite u 3 v) s fun t => s.erred t .mon 0x0E ∧ s.counted t .mon 0x68 ∧ s.changes t []
    (errPlaces .mon) [(.mon, 0x50), (.mon, 0x68)]) ∧
  (∀ (s : State) (u : Fin 8) (w : Fin 4) (v : Word), s.ready .mon = true → s.fld .mon Reg.UNIT_SOURCE u.val ≠ 0 → w ≠
    0 → completes (.unitCfgWrite u w v) s fun t => s.erred t .mon 3 ∧ s.changes t [] (errPlaces .mon) (errCounts
    .mon)) ∧
  (∀ (s : State) (u : Fin 8) (v : Word), s.ready .mon = true → s.fld .mon Reg.UNIT_SOURCE u.val ≠ 0 → bits v.toNat 4
    1 = s.fld .mon Reg.UNIT_MODE u.val → bits v.toNat 5 6 = s.fld .mon Reg.UNIT_SHIFT u.val → bits v.toNat 0 4 ≤ 13 →
    completes (.unitCfgWrite u 0 v) s fun t => t.fld .mon Reg.UNIT_SOURCE u.val = bits v.toNat 0 4 ∧ s.changes t []
    [Reg.UNIT_SOURCE.place .mon u.val] []) ∧
  (∀ (s : State) (u : Fin 8) (w : Fin 4) (v : Word), s.ready .mon = false → completes (.unitCfgWrite u w v) s fun t
    => t = s) ∧
  (∀ (s : State) (u : Fin 8) (w : Fin 4) (v : Word), completes (.unitCfgWrite u w v) s fun t => othersSame {} s.units
    t.units [u.val] ∧ s.changes t [.units] (errPlaces .mon ++
    [Reg.UNIT_MODE.place .mon u.val, Reg.UNIT_SHIFT.place .mon u.val, Reg.UNIT_SOURCE.place .mon u.val, Reg.UNIT_INDEX.place .mon u.val, Reg.UNIT_ANY.place .mon u.val, Reg.UNIT_CLASS_MASK.place .mon u.val, Reg.UNIT_BASE.place .mon u.val, Reg.UNIT_PERIOD_NS.place .mon u.val])
    [(.mon, 0x50), (.mon, 0x68)])

/-- QRM_FENCE_NOW takes a fence cause for each named partition that is neither fenced nor about to be, and reports
it to the leader. FENCE_ASSERT, once no attach is in progress, sets the flip-flop and its mirror, resets the
partition's units and queue pairs, makes DISP_ROLE.STATE FENCED with TARGET IDLE, counts FENCES, and writes a FENCE
record of SEVERITY 3. FENCE_COMPARE_TICK notes a first difference, and on a second records MGMT_DIVERGE, rewrites
the mirror from the data path and fences what the committed table names. Nothing else changes. On points the spec
leaves open it states the model's choices (notes/assumptions/39). -/
def Obligations.FencesAreTaken : Prop :=
  (∀ (s : State) (mask : Word) (n : Nat), s.ready .qrm = true → s.flag .qrm Reg.QRM_CTRL_EN = true → (s.leader = some
    n) → (((partsOf mask.toNat).filter fun p => !s.fenced p && !s.qrm.fencing.any fun f => f.1 == p.val) ≠ []) →
    completes (.qrmFenceNow mask) s fun t => (t.qrm =
    { s.qrm with fencing := s.qrm.fencing ++ ((partsOf mask.toNat).filter fun p => !s.fenced p && !s.qrm.fencing.any fun f => f.1 == p.val).map fun p => (p.val, 2), seqOut := (s.qrm.seqOut + 1) % 65536 })
    ∧ (Out.quorum ((s.planesTo n).take 2) (quorumHeader 4
    { src := s.node, dst := n, seq := s.qrm.seqOut, epoch := s.epoch })
    [((partsOf mask.toNat).filter fun p => !s.fenced p && !s.qrm.fencing.any fun f => f.1 == p.val).foldl (fun m p => Nat.lor m (2 ^ p.val)) 0, 2, s.node]
    ∈ t.out) ∧ s.changes t [.qrm, .out] [] []) ∧
  (∀ (s : State) (mask : Word), s.ready .qrm = true → (s.flag .qrm Reg.QRM_CTRL_EN = false ∨ s.leader = none ∨
    ((partsOf mask.toNat).filter fun p => !s.fenced p && !s.qrm.fencing.any fun f => f.1 == p.val) = []) → completes
    (.qrmFenceNow mask) s fun t => (t =
    { s with qrm := { s.qrm with fencing := s.qrm.fencing ++ ((partsOf mask.toNat).filter fun p => !s.fenced p && !s.qrm.fencing.any fun f => f.1 == p.val).map fun p => (p.val, 2) } })) ∧
  (∀ (s : State) (mask : Word), s.ready .qrm = false → completes (.qrmFenceNow mask) s fun t => t = s) ∧
  (∀ (s : State) (p : PartId) (cause : Nat), (s.qrm.fencing.find? (fun f => f.1 == p.val) = some (p.val, cause)) →
    (s.mover p).attaching = [] → cause < 256 → s.replays p cause = none → (s.reqs.map (·.reqId)).Nodup → s.noParks →
    completes (.fenceAssert p) s fun t => t.fenced p = true ∧ bit (t.fld .qrm Reg.QRM_FENCE_MIRROR_MASK) p.val = true
    ∧ t.fld (.disp p) Reg.DISP_ROLE_STATE = 4 ∧ t.fld (.disp p) Reg.DISP_ROLE_TARGET = 0 ∧ s.counted t .qrm 0x88 ∧ (∀
    f ∈ t.qrm.fencing, f.1 ≠ p.val) ∧ (∀ k : Fin 512, (t.qp (Fin.ofNat 16384 (512 * p.val + k.val))).st = .reset) ∧
    (∀ u ∈ tilesOf p, (t.tile u).slots = []) ∧ (∃ b ∈ t.elog.recent.head?, bits b.toNat 8 8 = 3 ∧ bits b.toNat 320 8
    = 9 ∧ bits b.toNat 328 8 = cause ∧ bits b.toNat 352 32 = 2 ^ p.val) ∧ t.fld .elog Reg.ELOG_SEQ_SEQ = (s.fld .elog
    Reg.ELOG_SEQ_SEQ + 1) % 2 ^ 32 ∧ (t.part p).slots = [] ∧ (∀ r ∈ t.reqs, r.genPart = some p → r.recorded = false →
    r.st ≠ .deferred → r.st ≠ .parking → r.endStatus.isSome = true) ∧ (∀ u, partOf u ≠ p → t.tile u = s.tile u) ∧
    s.keeps t
    [.regs, .cnt, .fresh, .out, .mem, .sram, .sramBad, .tiles, .parts, .movers, .tenants, .reqs, .convs, .tier, .engines, .qps, .srch, .digs, .elog, .qrm, .pwr, .pcie]) ∧
  (∀ (s : State) (p : PartId) (cause : Nat) (k : Nat) (g : PartId), (s.qrm.fencing.find? (fun f => f.1 == p.val) =
    some (p.val, cause)) → (s.mover p).attaching = [] → cause < 256 → (s.replays p cause = some (k, g)) → g ≠ p →
    s.noParks → completes (.fenceAssert p) s fun t => t.fenced p = true ∧ bit (t.fld .qrm Reg.QRM_FENCE_MIRROR_MASK)
    p.val = true ∧ t.fld (.disp p) Reg.DISP_ROLE_STATE = 4 ∧ t.fld (.disp p) Reg.DISP_ROLE_TARGET = 0 ∧ s.counted t
    .qrm 0x88 ∧ (∀ f ∈ t.qrm.fencing, f.1 ≠ p.val) ∧ (∀ k : Fin 512, (t.qp (Fin.ofNat 16384 (512 * p.val +
    k.val))).st = .reset) ∧ (∀ u ∈ tilesOf p, (t.tile u).slots = []) ∧ (∃ b ∈ t.elog.recent.head?, bits b.toNat 8 8 =
    3 ∧ bits b.toNat 320 8 = 9 ∧ bits b.toNat 328 8 = cause ∧ bits b.toNat 352 32 = 2 ^ p.val) ∧ t.fld .elog
    Reg.ELOG_SEQ_SEQ = (s.fld .elog Reg.ELOG_SEQ_SEQ + 1) % 2 ^ 32 ∧ t.flag .qrm Reg.QRM_SPARE_VALID k = false ∧ (∀
    u, partOf u ≠ p → t.tile u = s.tile u) ∧ s.keeps t
    [.regs, .cnt, .fresh, .out, .mem, .sram, .sramBad, .tiles, .parts, .movers, .tenants, .reqs, .convs, .tier, .engines, .qps, .srch, .digs, .elog, .qrm, .pwr, .pcie]) ∧
  (∀ (s : State) (p : PartId), (s.qrm.fencing.find? (fun f => f.1 == p.val) = none ∨ (s.mover p).attaching ≠ []) →
    completes (.fenceAssert p) s fun t => t = s) ∧
  (∀ (s : State), s.fld .qrm Reg.QRM_FENCE_DP_MASK = s.fld .qrm Reg.QRM_FENCE_MIRROR_MASK ∨ s.qrm.diverged = false →
    completes (.fenceCompareTick) s fun t => t =
    { s with qrm := { s.qrm with diverged := decide (s.fld .qrm Reg.QRM_FENCE_DP_MASK ≠ s.fld .qrm Reg.QRM_FENCE_MIRROR_MASK) } }) ∧
  (∀ (s : State), s.fld .qrm Reg.QRM_FENCE_DP_MASK ≠ s.fld .qrm Reg.QRM_FENCE_MIRROR_MASK → s.qrm.diverged = true →
    completes (.fenceCompareTick) s fun t => t.qrm.diverged = false ∧ s.erred t .qrm 2 ∧ s.counted t .qrm 0xA0 ∧
    t.fld .qrm Reg.QRM_FENCE_MIRROR_MASK = s.fld .qrm Reg.QRM_FENCE_DP_MASK ∧ t.fld .qrm Reg.QRM_FENCE_DP_MASK =
    s.fld .qrm Reg.QRM_FENCE_DP_MASK ∧ (∀ p : PartId, s.tabled s.node p.val = true → s.fenced p = false →
    t.qrm.fencing.any (fun f => f.1 == p.val) = true) ∧ (∃ b ∈ t.elog.recent.head?, bits b.toNat 352 32 = s.fld .qrm
    Reg.QRM_FENCE_DP_MASK ∧ bits b.toNat 448 32 = s.fld .qrm Reg.QRM_FENCE_MIRROR_MASK) ∧ s.changesOn t recordComps
    (.qrm :: recordPages))

/-- HEARTBEAT_INTERVAL ends an interval: WIT_SEEN takes the acknowledgements, fewer than 4 clear IN_QUORUM, the
third interval in a row below 4 fences every partition with cause ISOLATED; a witness notes who was missed; a
HEARTBEAT goes to each witness. A witness answers HEARTBEAT with HB_ACK and counts each clear bit. HB_ACK of a
witness joins the interval's; four set IN_QUORUM; epoch 0 below a higher one asks for SYNC. QRM_PC_HB and
QRM_UNFENCE_REQ_WRITE act as their registers say. A device out of the quorum, and a second copy of a message, change
nothing. On points the spec leaves open it states the model's choices (notes/assumptions/38). -/
def Obligations.HeartbeatsAreJudged : Prop :=
  (∀ (s : State) (p : PartId), s.ready .qrm = true → completes (.qrmPcHb p) s fun t => t =
    { s with qrm := { s.qrm with pcBeat := p.val :: s.qrm.pcBeat.filter (· ≠ p.val) } }) ∧
  (∀ (s : State) (mask : Word) (n : Nat), s.ready .qrm = true → s.inQrm = true → (s.leader = some n) → completes
    (.qrmUnfenceReqWrite mask) s fun t => Out.quorum ((s.planesTo n).take 2) (quorumHeader 9
    { src := s.node, dst := n, seq := s.qrm.seqOut, epoch := s.epoch }) [mask.toNat] ∈ t.out ∧ t.qrm =
    { s.qrm with seqOut := (s.qrm.seqOut + 1) % 65536 } ∧ s.changes t [.qrm, .out] [] []) ∧
  (∀ (s : State) (p : PartId) (mask : Word), s.ready .qrm = false ∨ s.inQrm = false ∨ s.leader = none → completes
    (.qrmPcHb p) s (fun t => s.ready .qrm = false → t = s) ∧ completes (.qrmUnfenceReqWrite mask) s (fun t => t = s)) ∧
  (∀ (s : State), s.inQrm = true → s.isWitness = false → 4 ≤ s.qrm.acks.length → completes (.heartbeatInterval) s fun
    t => t.fld .qrm Reg.QRM_STAT_WIT_SEEN = min s.qrm.acks.length 7 ∧ (t.qrm.pcBeat = [] ∧ t.qrm.acks = [] ∧
    t.qrm.peerEpoch = 0) ∧ t.qrm.badIntervals = 0 ∧ t.qrm.missed = s.qrm.missed ∧ (∀ n ∈ s.witnesses, ∃ k, Out.quorum
    ((s.planesTo n).take 2) (quorumHeader 1 { src := s.node, dst := n, seq := k, epoch := s.epoch }) [s.partAlive] ∈
    t.out) ∧ s.changes t [.qrm, .out] [Reg.QRM_STAT_WIT_SEEN.place .qrm] []) ∧
  (∀ (s : State), s.inQrm = true → s.isWitness = false → s.qrm.acks.length < 4 → s.qrm.badIntervals ≠ 2 → completes
    (.heartbeatInterval) s fun t => t.fld .qrm Reg.QRM_STAT_WIT_SEEN = min s.qrm.acks.length 7 ∧ (t.qrm.pcBeat = [] ∧
    t.qrm.acks = [] ∧ t.qrm.peerEpoch = 0) ∧ t.flag .qrm Reg.QRM_STAT_IN_QUORUM = false ∧ t.qrm.badIntervals = min 4
    (s.qrm.badIntervals + 1) ∧ t.qrm.fencing = s.qrm.fencing ∧ (∀ n ∈ s.witnesses, ∃ k, Out.quorum ((s.planesTo
    n).take 2) (quorumHeader 1 { src := s.node, dst := n, seq := k, epoch := s.epoch }) [s.partAlive] ∈ t.out) ∧
    s.changes t [.qrm, .out] [Reg.QRM_STAT_WIT_SEEN.place .qrm, Reg.QRM_STAT_IN_QUORUM.place .qrm] []) ∧
  (∀ (s : State), s.inQrm = true → s.isWitness = false → s.qrm.acks.length < 4 → s.qrm.badIntervals = 2 → completes
    (.heartbeatInterval) s fun t => t.fld .qrm Reg.QRM_STAT_WIT_SEEN = min s.qrm.acks.length 7 ∧ (t.qrm.pcBeat = [] ∧
    t.qrm.acks = [] ∧ t.qrm.peerEpoch = 0) ∧ t.flag .qrm Reg.QRM_STAT_IN_QUORUM = false ∧ t.flag .qrm
    Reg.QRM_STAT_ISOLATED = true ∧ s.erred t .qrm 3 ∧ s.raised t .qrm 2 ∧ (∀ p : PartId, s.fenced p = false → (∀ f ∈
    s.qrm.fencing, f.1 ≠ p.val) → (p.val, 6) ∈ t.qrm.fencing) ∧ (∀ n ∈ s.witnesses, ∃ k, Out.quorum ((s.planesTo
    n).take 2) (quorumHeader 1 { src := s.node, dst := n, seq := k, epoch := s.epoch }) [s.partAlive] ∈ t.out) ∧
    s.changes t [.qrm, .out, .pcie]
    ([Reg.QRM_STAT_WIT_SEEN.place .qrm, Reg.QRM_STAT_IN_QUORUM.place .qrm, Reg.QRM_STAT_ISOLATED.place .qrm] ++
    errPlaces .qrm ++ irqPlaces .qrm) ((.qrm, 0x50) :: irqCounts .qrm)) ∧
  (∀ (s : State), s.inQrm = true → s.isWitness = true → s.leads = false → (Map.wf (fun _ => 0) s.qrm.missed = true) →
    completes (.heartbeatInterval) s fun t => t.fld .qrm Reg.QRM_STAT_WIT_SEEN = min s.qrm.acks.length 7 ∧
    (t.qrm.pcBeat = [] ∧ t.qrm.acks = [] ∧ t.qrm.peerEpoch = 0) ∧ t.qrm.heard = [] ∧ (∀ e ∈ s.qrm.missed, Map.get 0
    t.qrm.missed e.1 = 32 + (e.2 % 32 * 2 + if e.1 ∈ s.qrm.heard then 0 else 1) % 32) ∧ (s.counted t .qrm 0x98
    (s.qrm.missed.filter fun e => !s.qrm.heard.contains e.1).length) ∧ (∀ n ∈ s.witnesses, ∃ k, Out.quorum
    ((s.planesTo n).take 2) (quorumHeader 1 { src := s.node, dst := n, seq := k, epoch := s.epoch }) [s.partAlive] ∈
    t.out) ∧ s.changes t [.qrm, .out, .pcie]
    ([Reg.QRM_STAT_WIT_SEEN.place .qrm, Reg.QRM_STAT_IN_QUORUM.place .qrm, Reg.QRM_STAT_ISOLATED.place .qrm] ++
    errPlaces .qrm ++ irqPlaces .qrm) ([(Page.qrm, 0x50), (Page.qrm, 0x98)] ++ irqCounts .qrm)) ∧
  (∀ (s : State), s.inQrm = true → completes (.heartbeatInterval) s fun t => t.fld .qrm Reg.QRM_STAT_WIT_SEEN = min
    s.qrm.acks.length 7 ∧ (t.qrm.pcBeat = [] ∧ t.qrm.acks = [] ∧ t.qrm.peerEpoch = 0) ∧ s.changes t
    [.qrm, .out, .pcie]
    ([Reg.QRM_STAT_WIT_SEEN.place .qrm, Reg.QRM_STAT_IN_QUORUM.place .qrm, Reg.QRM_STAT_ISOLATED.place .qrm] ++
    errPlaces .qrm ++ irqPlaces .qrm) ([(Page.qrm, 0x50), (Page.qrm, 0x98)] ++ irqCounts .qrm)) ∧
  (∀ (s : State), s.inQrm = false → completes (.heartbeatInterval) s fun t => t = s) ∧
  (∀ (s : State) (h : QHdr) (alive : Word), s.inQrm = true → s.qrm.seen.contains (h.src, h.seq) = false → s.isWitness
    = true → completes (.heartbeat h alive) s fun t => h.src ∈ t.qrm.heard ∧ (∀ k : Fin 32, Map.get 0 t.qrm.clear
    (h.src * 32 + k.val) = if bit alive.toNat k.val then 0 else min 5 (Map.get 0 s.qrm.clear (h.src * 32 + k.val) +
    1)) ∧ (Map.get 0 t.qrm.missed h.src = if Map.get 0 s.qrm.missed h.src = 0 then 32 else Map.get 0 s.qrm.missed
    h.src) ∧ Out.quorum ((s.planesTo h.src).take 2) (quorumHeader 2
    { src := s.node, dst := h.src, seq := s.qrm.seqOut, epoch := s.epoch }) [] ∈ t.out ∧ (∀ m, m < h.src * 32 ∨ h.src
    * 32 + 32 ≤ m → Map.get 0 t.qrm.clear m = Map.get 0 s.qrm.clear m) ∧ s.changes t [.qrm, .out] [] []) ∧
  (∀ (s : State) (h : QHdr) (alive : Word) (n : Nat) (k : Fin 32), s.inQrm = true → s.qrm.seen.contains (h.src,
    h.seq) = false → s.isWitness = true → (s.leader = some n) → alive = ~~~(BitVec.ofNat 32 (2 ^ k.val)) → Map.get 0
    s.qrm.clear (h.src * 32 + k.val) = 4 → s.tabled h.src k.val = false → completes (.heartbeat h alive) s fun t =>
    Out.quorum ((s.planesTo h.src).take 2) (quorumHeader 2
    { src := s.node, dst := h.src, seq := s.qrm.seqOut, epoch := s.epoch }) [] ∈ t.out ∧ Out.quorum ((s.planesTo
    n).take 2) (quorumHeader 3 { src := s.node, dst := n, seq := (s.qrm.seqOut + 1) % 65536, epoch := s.epoch })
    [h.src, 2 ^ k.val] ∈ t.out ∧ s.changes t [.qrm, .out] [] []) ∧
  (∀ (s : State) (h : QHdr) (alive : Word), s.inQrm = true → s.qrm.seen.contains (h.src, h.seq) = false → s.isWitness
    = false → completes (.heartbeat h alive) s fun t => t =
    { s with qrm := { s.qrm with seen := ((h.src, h.seq) :: s.qrm.seen).take 4096 } }) ∧
  (∀ (s : State) (h : QHdr), s.inQrm = true → s.qrm.seen.contains (h.src, h.seq) = false → s.witnesses.contains h.src
    = true → ¬ (s.epoch = 0 ∧ 0 < h.epoch ∧ s.qrm.peerEpoch = 0) → completes (.hbAck h) s fun t => t.qrm.acks =
    (h.src :: s.qrm.acks.filter (· ≠ h.src)) ∧ t.qrm.peerEpoch = max s.qrm.peerEpoch h.epoch ∧ t.flag .qrm
    Reg.QRM_STAT_IN_QUORUM = (decide (4 ≤ (h.src :: s.qrm.acks.filter (· ≠ h.src)).length) || s.flag .qrm
    Reg.QRM_STAT_IN_QUORUM) ∧ s.changes t [.qrm] [Reg.QRM_STAT_IN_QUORUM.place .qrm] []) ∧
  (∀ (s : State) (h : QHdr) (n : Nat), s.inQrm = true → s.qrm.seen.contains (h.src, h.seq) = false →
    s.witnesses.contains h.src = true → s.epoch = 0 ∧ 0 < h.epoch ∧ s.qrm.peerEpoch = 0 → (s.leader = some n) →
    completes (.hbAck h) s fun t => t.qrm.acks = (h.src :: s.qrm.acks.filter (· ≠ h.src)) ∧ t.qrm.peerEpoch = max
    s.qrm.peerEpoch h.epoch ∧ t.flag .qrm Reg.QRM_STAT_IN_QUORUM = (decide (4 ≤ (h.src :: s.qrm.acks.filter (· ≠
    h.src)).length) || s.flag .qrm Reg.QRM_STAT_IN_QUORUM) ∧ s.counted t .qrm 0xB8 ∧ Out.quorum ((s.planesTo n).take
    2) (quorumHeader 11 { src := s.node, dst := n, seq := s.qrm.seqOut, epoch := s.epoch }) [0] ∈ t.out ∧ s.changes t
    [.qrm, .out] [Reg.QRM_STAT_IN_QUORUM.place .qrm] [(.qrm, 0xB8)]) ∧
  (∀ (s : State) (h : QHdr), s.inQrm = true → s.qrm.seen.contains (h.src, h.seq) = false → s.witnesses.contains h.src
    = false → completes (.hbAck h) s fun t => t =
    { s with qrm := { s.qrm with seen := ((h.src, h.seq) :: s.qrm.seen).take 4096 } }) ∧
  (∀ (s : State) (h : QHdr) (m : Word) (n : Nat) (c : Fin 8) (d : QDecision) (b : Bool) (l : List (Nat × PartId ×
    Nat)), s.inQrm = false ∨ (h.src, h.seq) ∈ s.qrm.seen → ∀ i ∈
    [Instr.heartbeat h m, .hbAck h, .suspect h n m, .faultReport h (n, m) c, .propose h d, .vote h n b, .commit h d, .commitAck h, .unfenceReq h m, .syncReq h n, .syncResp h l b],
    completes i s fun t => t = s)

/-- SUSPECT and FAULT_REPORT at the leader, and UNFENCE_REQ, are noted; where the leader accepts what they ask for
and no proposal is open it proposes the next epoch to every witness. A witness answers PROPOSE with a VOTE, ACCEPT
only once for each epoch number. VOTE gathers accepts; the fourth, the leader's among them, commits and sends COMMIT
to every known node. COMMIT_ACK ends resending; COMMIT_RESEND_TIMER sends again, and after 20 sends suspects the
device. Nothing else changes. On points the spec leaves open it states the model's choices (notes/assumptions/38).
-/
def Obligations.DecisionsAreProposedAndVoted : Prop :=
  (∀ (s : State) (h : QHdr) (n : Nat) (m : Word), s.inQrm = true → s.qrm.seen.contains (h.src, h.seq) = false →
    s.leads = true → completes (.suspect h n m) s fun t => t.qrm.suspected = s.qrm.suspected ++ [(n, m.toNat)] ∧
    s.changes t [.qrm, .out] [] []) ∧
  (∀ (s : State) (h : QHdr) (n : Nat) (m : Word), s.inQrm = true → s.qrm.seen.contains (h.src, h.seq) = false →
    s.leads = true → s.qrm.prop = none → s.qrm.suspected = [] → s.qrm.unfenceReqs = [] → s.notTabled n m.toNat =
    m.toNat → m ≠ 0 → s.accepts
    ({ epoch := s.epoch + 1, fence := [(n, m)], unfence := [], replace := s.replacements [(n, m)] }) = true →
    completes (.suspect h n m) s fun t => (t.qrm.prop = some
    ({ epoch := s.epoch + 1, fence := [(n, m)], unfence := [], replace := s.replacements [(n, m)] }, [])) ∧ (∀ w ∈
    s.witnesses, ∃ k, Out.quorum ((s.planesTo w).take 2) (quorumHeader 5
    { src := s.node, dst := w, seq := k, epoch := s.epoch }) (decisionBody
    ({ epoch := s.epoch + 1, fence := [(n, m)], unfence := [], replace := s.replacements [(n, m)] })) ∈ t.out) ∧
    s.changes t [.qrm, .out] [] []) ∧
  (∀ (s : State) (h : QHdr) (n : Nat) (m : Word), s.inQrm = true → s.qrm.seen.contains (h.src, h.seq) = false →
    s.leads = false → completes (.suspect h n m) s fun t => t =
    { s with qrm := { s.qrm with seen := ((h.src, h.seq) :: s.qrm.seen).take 4096 } }) ∧
  (∀ (s : State) (h : QHdr) (w : Nat) (m : Word) (c : Fin 8), s.inQrm = true → s.qrm.seen.contains (h.src, h.seq) =
    false → c ≠ 0 → completes (.faultReport h (w, m) c) s fun t => t.qrm.reports = s.qrm.reports ++ [(w, m.toNat)] ∧
    (t.qrm.suspected = if s.leads then s.qrm.suspected ++ [(w, m.toNat)] else s.qrm.suspected) ∧ s.changes t
    [.qrm, .out] [] []) ∧
  (∀ (s : State) (h : QHdr) (n : Nat) (m : Word) (c : Fin 8), s.inQrm = true → s.qrm.seen.contains (h.src, h.seq) =
    false → c ≠ 0 → s.leads = true → s.qrm.prop = none → s.qrm.suspected = [] → s.qrm.unfenceReqs = [] → s.notTabled
    n m.toNat = m.toNat → m ≠ 0 → completes (.faultReport h (n, m) c) s fun t => (t.qrm.prop = some
    ({ epoch := s.epoch + 1, fence := [(n, m)], unfence := [], replace := s.replacements [(n, m)] }, [])) ∧ (∀ w ∈
    s.witnesses, ∃ k, Out.quorum ((s.planesTo w).take 2) (quorumHeader 5
    { src := s.node, dst := w, seq := k, epoch := s.epoch }) (decisionBody
    ({ epoch := s.epoch + 1, fence := [(n, m)], unfence := [], replace := s.replacements [(n, m)] })) ∈ t.out) ∧
    s.changes t [.qrm, .out] [] []) ∧
  (∀ (s : State) (h : QHdr) (w : Nat) (m : Word) (c : Fin 8), s.inQrm = true → s.qrm.seen.contains (h.src, h.seq) =
    false → c = 0 → completes (.faultReport h (w, m) c) s fun t => t =
    { s with qrm := { s.qrm with seen := ((h.src, h.seq) :: s.qrm.seen).take 4096 } }) ∧
  (∀ (s : State) (h : QHdr) (m : Word), s.inQrm = true → s.qrm.seen.contains (h.src, h.seq) = false → s.leads = true
    → completes (.unfenceReq h m) s fun t => t.qrm.unfenceReqs = s.qrm.unfenceReqs ++ [(h.src, m.toNat)] ∧ s.changes
    t [.qrm, .out] [] []) ∧
  (∀ (s : State) (h : QHdr) (m : Word), s.inQrm = true → s.qrm.seen.contains (h.src, h.seq) = false → s.leads = false
    → completes (.unfenceReq h m) s fun t => t =
    { s with qrm := { s.qrm with seen := ((h.src, h.seq) :: s.qrm.seen).take 4096 } }) ∧
  (∀ (s : State) (h : QHdr) (d : QDecision), s.inQrm = true → s.qrm.seen.contains (h.src, h.seq) = false →
    s.isWitness = true → completes (.propose h d) s fun t => t.qrm =
    { s.qrm with seqOut := (s.qrm.seqOut + 1) % 65536, voted := d.epoch :: s.qrm.voted.filter (· ≠ d.epoch), seen := ((h.src, h.seq) :: s.qrm.seen).take 4096 }
    ∧ (Out.quorum ((s.planesTo h.src).take 2) (quorumHeader 6
    { src := s.node, dst := h.src, seq := s.qrm.seqOut, epoch := s.epoch })
    [d.epoch, if d.epoch ∉ s.qrm.voted ∧ s.accepts d = true then 1 else 0] ∈ t.out) ∧ s.changes t [.qrm, .out] [] []) ∧
  (∀ (s : State) (h : QHdr) (d : QDecision), s.inQrm = true → s.qrm.seen.contains (h.src, h.seq) = false →
    s.isWitness = false → completes (.propose h d) s fun t => t =
    { s with qrm := { s.qrm with seen := ((h.src, h.seq) :: s.qrm.seen).take 4096 } }) ∧
  (∀ (s : State) (h : QHdr) (e : Nat) (b : Bool) (d : QDecision) (l : List Nat), s.inQrm = true → s.qrm.seen.contains
    (h.src, h.seq) = false → (s.qrm.prop = some (d, l)) → d.epoch = e → b = true → s.witnesses.contains h.src = true
    → s.leads = true → (h.src :: l.filter (· ≠ h.src)).length < 4 ∨ s.node ∉ (h.src :: l.filter (· ≠ h.src)) →
    completes (.vote h e b) s fun t => (t =
    { s with qrm := { s.qrm with prop := some (d, (h.src :: l.filter (· ≠ h.src))), seen := ((h.src, h.seq) :: s.qrm.seen).take 4096 } })) ∧
  (∀ (s : State) (h : QHdr) (e : Nat) (b : Bool) (d : QDecision) (l : List Nat), s.inQrm = true → s.qrm.seen.contains
    (h.src, h.seq) = false → (s.qrm.prop = some (d, l)) → d.epoch = e → b = true → s.witnesses.contains h.src = true
    → s.leads = true → 4 ≤ (h.src :: l.filter (· ≠ h.src)).length → s.node ∈ (h.src :: l.filter (· ≠ h.src)) →
    completes (.vote h e b) s fun t => t.epoch = d.epoch % 2 ^ 64 ∧ s.counted t .qrm 0x80 ∧ s.raised t .qrm 3 ∧ (∀ e
    ∈ d.fence, ∀ p ∈ partsOf e.2.toNat, (∀ x ∈ d.unfence, x.1 = e.1 → bit x.2.toNat p.val = false) → t.tabled e.1
    p.val = true) ∧ (∀ e ∈ d.unfence, ∀ p ∈ partsOf e.2.toNat, t.tabled e.1 p.val = false) ∧ (∀ e ∈ d.fence, e.1 =
    s.node → ∀ p ∈ partsOf e.2.toNat, s.fenced p = false → t.qrm.fencing.any (fun f => f.1 == p.val) = true) ∧ (∀ e ∈
    d.unfence, e.1 = s.node → ∀ p ∈ partsOf e.2.toNat, t.fenced p = false ∧ (s.fenced p = true → t.fld (.disp p)
    Reg.DISP_ROLE_STATE = 2)) ∧ (∀ y ∈ t.rrc, ∀ e ∈ d.fence, e.1 = y.node → bit e.2.toNat y.gpart.val = false) ∧
    (d.epoch < 2 ^ 64 → t.qrm.prop ≠ some (d, l)) ∧ (∀ n ∈ s.knownNodes, ∃ k, Out.quorum ((s.planesTo n).take 2)
    (quorumHeader 7 { src := s.node, dst := n, seq := k, epoch := d.epoch % 2 ^ 64 }) (decisionBody d) ∈ t.out) ∧
    s.keeps t
    [.regs, .cnt, .out, .mem, .sram, .sramBad, .tiles, .movers, .engines, .units, .tier, .qps, .rrc, .srch, .digs, .qrm, .pwr, .pcie]) ∧
  (∀ (s : State) (h : QHdr) (e : Nat) (b : Bool), s.inQrm = true → s.qrm.seen.contains (h.src, h.seq) = false →
    (s.qrm.prop = none ∨ b = false ∨ s.leads = false ∨ s.witnesses.contains h.src = false ∨ (∀ x ∈ s.qrm.prop,
    x.1.epoch ≠ e)) → completes (.vote h e b) s fun t => t =
    { s with qrm := { s.qrm with seen := ((h.src, h.seq) :: s.qrm.seen).take 4096 } }) ∧
  (∀ (s : State) (h : QHdr), s.inQrm = true → s.qrm.seen.contains (h.src, h.seq) = false → completes (.commitAck h)
    s fun t => (t =
    { s with qrm := { s.qrm with unacked := s.qrm.unacked.filter (fun e => !(e.1 == h.src && decide (e.2.1 ≤ h.epoch))), seen := ((h.src, h.seq) :: s.qrm.seen).take 4096 } })) ∧
  (∀ (s : State) (n k c : Nat) (d : QDecision), s.inQrm = true → s.qrm.unacked = [(n, k, c)] → c < 20 →
    (s.qrm.commits.find? (fun d => d.epoch == k) = some d) → completes (.commitResendTimer) s fun t => Out.quorum
    ((s.planesTo n).take 2) (quorumHeader 7 { src := s.node, dst := n, seq := s.qrm.seqOut, epoch := s.epoch })
    (decisionBody d) ∈ t.out ∧ t.qrm =
    { s.qrm with unacked := [(n, k, c + 1)], seqOut := (s.qrm.seqOut + 1) % 65536 } ∧ s.changes t [.qrm, .out] [] []) ∧
  (∀ (s : State) (n k c : Nat), s.inQrm = true → s.qrm.unacked = [(n, k, c)] → 20 ≤ c → completes
    (.commitResendTimer) s fun t => t.qrm.unacked = [] ∧ t.qrm.suspected = s.qrm.suspected ++ [(n, 4294967295)] ∧
    s.changes t [.qrm, .out] [] []) ∧
  (∀ (s : State), s.inQrm = true → completes (.commitResendTimer) s fun t => s.changes t [.qrm, .out] [] []) ∧
  (∀ (s : State), s.inQrm = false ∨ s.qrm.unacked = [] → completes (.commitResendTimer) s fun t => t = s)

/-- COMMIT of the next epoch is applied and acknowledged: the fenced list, the fence causes and unfences of this
device, the cached lines of what is fenced dropped, the epoch, COMMITS and EPOCH. An epoch already applied is
acknowledged again; that one and a later one ask the leader for SYNC. SYNC_REQ at the leader sends the commits that
are lacking, or the fenced list. SYNC_RESP is gathered; the last one replaces the fenced list, adopts the epoch and
records SYNC_LOST. Nothing else changes. On points the spec leaves open it states the model's choices
(notes/assumptions/38). -/
def Obligations.CommitsAreApplied : Prop :=
  (∀ (s : State) (h : QHdr) (d : QDecision), s.inQrm = true → s.qrm.seen.contains (h.src, h.seq) = false → d.epoch =
    s.epoch + 1 → completes (.commit h d) s fun t => t.epoch = d.epoch % 2 ^ 64 ∧ s.counted t .qrm 0x80 ∧ s.raised t
    .qrm 3 ∧ (∀ e ∈ d.fence, ∀ p ∈ partsOf e.2.toNat, (∀ x ∈ d.unfence, x.1 = e.1 → bit x.2.toNat p.val = false) →
    t.tabled e.1 p.val = true) ∧ (∀ e ∈ d.unfence, ∀ p ∈ partsOf e.2.toNat, t.tabled e.1 p.val = false) ∧ (∀ e ∈
    d.fence, e.1 = s.node → ∀ p ∈ partsOf e.2.toNat, s.fenced p = false → t.qrm.fencing.any (fun f => f.1 == p.val) =
    true) ∧ (∀ e ∈ d.unfence, e.1 = s.node → ∀ p ∈ partsOf e.2.toNat, t.fenced p = false ∧ (s.fenced p = true → t.fld
    (.disp p) Reg.DISP_ROLE_STATE = 2)) ∧ (∀ y ∈ t.rrc, ∀ e ∈ d.fence, e.1 = y.node → bit e.2.toNat y.gpart.val =
    false) ∧ Out.quorum ((s.planesTo h.src).take 2) (quorumHeader 8
    { src := s.node, dst := h.src, seq := s.qrm.seqOut, epoch := d.epoch % 2 ^ 64 }) [] ∈ t.out ∧ s.keeps t
    [.regs, .cnt, .out, .mem, .sram, .sramBad, .tiles, .movers, .engines, .units, .tier, .qps, .rrc, .srch, .digs, .qrm, .pwr, .pcie]) ∧
  (∀ (s : State) (h : QHdr) (d : QDecision) (n : Nat), s.inQrm = true → s.qrm.seen.contains (h.src, h.seq) = false →
    d.epoch ≤ s.epoch → (s.leader = some n) → completes (.commit h d) s fun t => Out.quorum ((s.planesTo h.src).take
    2) (quorumHeader 8 { src := s.node, dst := h.src, seq := s.qrm.seqOut, epoch := s.epoch }) [] ∈ t.out ∧
    Out.quorum ((s.planesTo n).take 2) (quorumHeader 11
    { src := s.node, dst := n, seq := (s.qrm.seqOut + 1) % 65536, epoch := s.epoch }) [s.epoch] ∈ t.out ∧ s.counted t
    .qrm 0xB8 ∧ s.changes t [.qrm, .out] [] [(.qrm, 0xB8)]) ∧
  (∀ (s : State) (h : QHdr) (d : QDecision) (n : Nat), s.inQrm = true → s.qrm.seen.contains (h.src, h.seq) = false →
    s.epoch + 1 < d.epoch → (s.leader = some n) → completes (.commit h d) s fun t => Out.quorum ((s.planesTo n).take
    2) (quorumHeader 11 { src := s.node, dst := n, seq := s.qrm.seqOut, epoch := s.epoch }) [s.epoch] ∈ t.out ∧
    s.counted t .qrm 0xB8 ∧ t.epoch = s.epoch ∧ s.changes t [.qrm, .out] [] [(.qrm, 0xB8)]) ∧
  (∀ (s : State) (h : QHdr) (last : Nat), s.inQrm = true → s.qrm.seen.contains (h.src, h.seq) = false → s.leads =
    false ∨ s.epoch ≤ last → completes (.syncReq h last) s fun t => t =
    { s with qrm := { s.qrm with seen := ((h.src, h.seq) :: s.qrm.seen).take 4096 } }) ∧
  (∀ (s : State) (h : QHdr) (last : Nat), s.inQrm = true → s.qrm.seen.contains (h.src, h.seq) = false → s.leads =
    true → last < s.epoch → last = 0 ∨ last + 4096 < s.epoch → completes (.syncReq h last) s fun t => (∀ b ∈
    syncBodies s.qrm.table, ∃ k, Out.quorum ((s.planesTo h.src).take 2) (quorumHeader 0xC
    { src := s.node, dst := h.src, seq := k, epoch := s.epoch }) b ∈ t.out) ∧ s.changes t [.qrm, .out] [] []) ∧
  (∀ (s : State) (h : QHdr) (last : Nat), s.inQrm = true → s.qrm.seen.contains (h.src, h.seq) = false → s.leads =
    true → last < s.epoch → last ≠ 0 → s.epoch ≤ last + 4096 → completes (.syncReq h last) s fun t => (∀ d ∈
    s.qrm.commits, last < d.epoch → ∃ k, Out.quorum ((s.planesTo h.src).take 2) (quorumHeader 7
    { src := s.node, dst := h.src, seq := k, epoch := s.epoch }) (decisionBody d) ∈ t.out) ∧ s.changes t [.qrm, .out]
    [] []) ∧
  (∀ (s : State) (h : QHdr) (l : List (Nat × PartId × Nat)), s.inQrm = true → s.qrm.seen.contains (h.src, h.seq) =
    false → completes (.syncResp h l false) s fun t => t =
    { s with qrm := { s.qrm with syncBuf := s.qrm.syncBuf ++ l, seen := ((h.src, h.seq) :: s.qrm.seen).take 4096 } }) ∧
  (∀ (s : State) (h : QHdr) (l : List (Nat × PartId × Nat)), s.inQrm = true → s.qrm.seen.contains (h.src, h.seq) =
    false → completes (.syncResp h l true) s fun t => t.epoch = h.epoch % 2 ^ 64 ∧ t.qrm.syncBuf = [] ∧ (∀ e ∈
    s.qrm.syncBuf ++ l, t.tabled e.1 e.2.1.val = true) ∧ (∀ n, ∀ p : PartId, (∀ e ∈ s.qrm.syncBuf ++ l, ¬ (e.1 = n ∧
    e.2.1 = p)) → t.tabled n p.val = false) ∧ (∀ e ∈ s.qrm.syncBuf ++ l, e.1 = s.node → s.fenced e.2.1 = false →
    t.qrm.fencing.any (fun f => f.1 == e.2.1.val) = true) ∧ s.erred t .qrm 4 ∧ s.raised t .qrm 3 ∧ (∀ y ∈ t.rrc, ∀ e
    ∈ s.qrm.syncBuf ++ l, ¬ (e.1 = y.node ∧ e.2.1 = y.gpart)) ∧ s.keeps t
    [.regs, .cnt, .out, .mem, .sram, .sramBad, .tiles, .movers, .engines, .units, .tier, .qps, .rrc, .srch, .digs, .qrm, .pwr, .pcie])

/-- DIGEST_PASS_DONE of a valid sealed region writes the digest of its bytes and counts PASSES, or discards the pass
of a region written meanwhile. DIGEST keeps the sender's message and compares: of two active members that differ the
one of lower identity is expelled, the other suspended; of three or more the minority is expelled, with no majority
NO_MAJORITY; an expelled member's partitions get a fence cause and a record; a member in the minority that still is
not expelled in its second message after that is reported to the leader. A copy of a message changes nothing.
DIG_REGION_WRITE writes a region's words. Nothing else changes. On points the spec leaves open it states the model's
choices (notes/assumptions/40). -/
def Obligations.DigestsAreCompared : Prop :=
  (∀ (s : State) (k : Fin 16), s.ready .dig = true → s.flag .dig Reg.DIG_CTRL_EN = true → s.flag .dig
    Reg.DIG_REGION_VALID k.val = true → s.flag .dig Reg.DIG_REGION_SEALED k.val = true → (s.dig k.val).dirty = false
    → (((List.range (s.fld .dig Reg.DIG_REGION_LEN_PAGES k.val)).any fun i => (s.leaf (s.fldAddr .dig
    Reg.DIG_REGION_BASE_LO Reg.DIG_REGION_BASE_HI k.val / 65536 + i)).st == .poisoned) = false) → s.fld .dig
    Reg.DIG_REGION_MSTATE k.val ≠ 2 → completes (.digestPassDone k) s fun t => t.fld .dig Reg.DIG_REGION_DIGEST k.val
    = s.digValue k.val ∧ t.fld .dig Reg.DIG_REGION_PASS k.val = (s.fld .dig Reg.DIG_REGION_PASS k.val + 1) % 2 ^ 32 ∧
    s.counted t .dig 0x80 ∧ t.dig k.val = { s.dig k.val with clean := true } ∧ othersSame {} s.digs t.digs [k.val] ∧
    s.changes t [.digs] [Reg.DIG_REGION_DIGEST.place .dig k.val, Reg.DIG_REGION_PASS.place .dig k.val]
    [(.dig, 0x80)]) ∧
  (∀ (s : State) (k : Fin 16) (own : BitVec 128), s.ready .dig = true → s.flag .dig Reg.DIG_CTRL_EN = true → s.flag
    .dig Reg.DIG_REGION_VALID k.val = true → s.flag .dig Reg.DIG_REGION_SEALED k.val = true → (s.dig k.val).dirty =
    false → (((List.range (s.fld .dig Reg.DIG_REGION_LEN_PAGES k.val)).any fun i => (s.leaf (s.fldAddr .dig
    Reg.DIG_REGION_BASE_LO Reg.DIG_REGION_BASE_HI k.val / 65536 + i)).st == .poisoned) = false) → s.fld .dig
    Reg.DIG_REGION_MSTATE k.val = 2 → own = BitVec.ofNat 128 (s.digValue k.val) → (s.digPeers k.val).map (·.2) =
    [own] → completes (.digestPassDone k) s fun t => t.fld .dig Reg.DIG_REGION_MSTATE k.val = 0 ∧ s.counted t .dig
    0xA8 ∧ s.raised t .dig 2 ∧ s.counted t .dig 0x80 ∧ othersSame {} s.digs t.digs [k.val] ∧ s.changes t
    [.digs, .out, .pcie]
    ([Reg.DIG_REGION_DIGEST.place .dig k.val, Reg.DIG_REGION_PASS.place .dig k.val, Reg.DIG_REGION_MSTATE.place .dig k.val]
    ++ irqPlaces .dig) ([(Page.dig, 0x80), (Page.dig, 0xA8)] ++ irqCounts .dig)) ∧
  (∀ (s : State) (k : Fin 16), s.ready .dig = true → s.flag .dig Reg.DIG_CTRL_EN = true → s.flag .dig
    Reg.DIG_REGION_VALID k.val = true → s.flag .dig Reg.DIG_REGION_SEALED k.val = true → ((s.dig k.val).dirty = true
    ∨ ((List.range (s.fld .dig Reg.DIG_REGION_LEN_PAGES k.val)).any fun i => (s.leaf (s.fldAddr .dig
    Reg.DIG_REGION_BASE_LO Reg.DIG_REGION_BASE_HI k.val / 65536 + i)).st == .poisoned) = true) → completes
    (.digestPassDone k) s fun t => t.dig k.val = { s.dig k.val with dirty := false } ∧ s.counted t .dig 0x88 ∧
    othersSame {} s.digs t.digs [k.val] ∧ s.changes t [.digs] [] [(.dig, 0x88)]) ∧
  (∀ (s : State) (k : Fin 16), s.ready .dig = false ∨ s.flag .dig Reg.DIG_CTRL_EN = false ∨ s.flag .dig
    Reg.DIG_REGION_VALID k.val = false ∨ s.flag .dig Reg.DIG_REGION_SEALED k.val = false → completes (.digestPassDone
    k) s fun t => t = s) ∧
  (∀ (s : State) (k : Fin 16) (m : DigestMsg), s.ready .dig = true → s.flag .dig Reg.DIG_CTRL_EN = true → s.flag .dig
    Reg.DIG_REGION_VALID k.val = true → (m.hdr.src, m.region.val) ∈ s.digMembers k.val → m.group = s.fld .dig
    Reg.DIG_REGION_GROUP k.val → (s.dig k.val).clean = false → Map.get 0 (s.dig k.val).minority (m.hdr.src * 16 +
    m.region.val) ≠ 2 → s.fld .dig Reg.DIG_REGION_MSTATE k.val ≠ 3 → (m.hdr.src, m.hdr.seq) ∉ s.qrm.seen → completes
    (.digest k m) s fun t => m ∈ (t.dig k.val).members ∧ othersSame {} s.digs t.digs [k.val] ∧ t.qrm =
    { s.qrm with seen := ((m.hdr.src, m.hdr.seq) :: s.qrm.seen).take 4096 } ∧ s.changes t [.digs, .qrm] [] []) ∧
  (∀ (s : State) (k : Fin 16) (m : DigestMsg) (l : Nat), s.ready .dig = true → s.flag .dig Reg.DIG_CTRL_EN = true →
    s.flag .dig Reg.DIG_REGION_VALID k.val = true → (m.hdr.src, m.region.val) ∈ s.digMembers k.val → m.group = s.fld
    .dig Reg.DIG_REGION_GROUP k.val → (s.dig k.val).clean = false → Map.get 0 (s.dig k.val).minority (m.hdr.src * 16
    + m.region.val) = 2 → m.mstate ≠ 1 → (s.leader = some l) → s.fld .dig Reg.DIG_REGION_MSTATE k.val ≠ 3 →
    (m.hdr.src, m.hdr.seq) ∉ s.qrm.seen → completes (.digest k m) s fun t => m ∈ (t.dig k.val).members ∧ othersSame
    {} s.digs t.digs [k.val] ∧ t.qrm =
    { s.qrm with seen := ((m.hdr.src, m.hdr.seq) :: s.qrm.seen).take 4096, seqOut := (s.qrm.seqOut + 1) % 65536 } ∧
    Map.get 0 (t.dig k.val).minority (m.hdr.src * 16 + m.region.val) = 1 ∧ t.out = s.out ++
    [Out.quorum ((s.planesTo l).take 2) (quorumHeader 4 { src := s.node, dst := l, seq := s.qrm.seqOut, epoch := s.epoch }) [m.partMask.toNat, 5, m.hdr.src]]
    ∧ s.changes t [.digs, .qrm, .out] [] []) ∧
  (∀ (s : State) (k : Fin 16) (m : DigestMsg) (d own : BitVec 128), s.ready .dig = true → s.flag .dig Reg.DIG_CTRL_EN
    = true → s.flag .dig Reg.DIG_REGION_VALID k.val = true → (m.hdr.src, m.region.val) ∈ s.digMembers k.val → m.group
    = s.fld .dig Reg.DIG_REGION_GROUP k.val → (s.dig k.val).clean = true → own = BitVec.ofNat 128 (s.fld .dig
    Reg.DIG_REGION_DIGEST k.val) → m.contentId = s.fld .dig Reg.DIG_REGION_CONTENT_ID k.val → (m.digest = some d) →
    Map.get 0 (s.dig k.val).minority (m.hdr.src * 16 + m.region.val) ≠ 2 → (s.dig k.val).members = [] → d = own →
    (m.hdr.src, m.hdr.seq) ∉ s.qrm.seen → completes (.digest k m) s fun t => m ∈ (t.dig k.val).members ∧ t.fld .dig
    Reg.DIG_REGION_MSTATE k.val = s.fld .dig Reg.DIG_REGION_MSTATE k.val ∧ othersSame {} s.digs t.digs [k.val] ∧
    t.qrm = { s.qrm with seen := ((m.hdr.src, m.hdr.seq) :: s.qrm.seen).take 4096 } ∧ s.changes t [.digs, .qrm] []
    []) ∧
  (∀ (s : State) (k : Fin 16) (m : DigestMsg) (d own : BitVec 128), s.ready .dig = true → s.flag .dig Reg.DIG_CTRL_EN
    = true → s.flag .dig Reg.DIG_REGION_VALID k.val = true → (m.hdr.src, m.region.val) ∈ s.digMembers k.val → m.group
    = s.fld .dig Reg.DIG_REGION_GROUP k.val → (s.dig k.val).clean = true → own = BitVec.ofNat 128 (s.fld .dig
    Reg.DIG_REGION_DIGEST k.val) → m.contentId = s.fld .dig Reg.DIG_REGION_CONTENT_ID k.val → (m.digest = some d) →
    Map.get 0 (s.dig k.val).minority (m.hdr.src * 16 + m.region.val) ≠ 2 → (s.dig k.val).members = [] → d ≠ own →
    s.fld .dig Reg.DIG_REGION_MSTATE k.val = 0 → s.node * 16 + k.val < m.hdr.src * 16 + m.region.val → (m.hdr.src,
    m.hdr.seq) ∉ s.qrm.seen → completes (.digest k m) s fun t => m ∈ (t.dig k.val).members ∧ t.fld .dig
    Reg.PG_ERR_CODE = 1 ∧ t.fld .dig Reg.DIG_REGION_MSTATE k.val = 1 ∧ s.counted t .dig 0x98 ∧ (∀ p : PartId, bit
    (s.fld .dig Reg.DIG_REGION_PART_MASK k.val) p.val = true → s.fenced p = true ∨ t.qrm.fencing.any (fun f => f.1 ==
    p.val) = true) ∧ (∃ b ∈ t.elog.recent.head?, bits b.toNat 320 8 = 7 ∧ bits b.toNat 328 8 = k.val) ∧ (∀ j, j < 16
    → j ≠ k.val → (t.dig j).members = (s.dig j).members ∧ (t.dig j).minority = (s.dig j).minority ∧ (t.dig j).steps =
    (s.dig j).steps) ∧ s.changesOn t (.digs :: recordComps) (.dig :: recordPages)) ∧
  (∀ (s : State) (k : Fin 16) (m : DigestMsg) (d own : BitVec 128), s.ready .dig = true → s.flag .dig Reg.DIG_CTRL_EN
    = true → s.flag .dig Reg.DIG_REGION_VALID k.val = true → (m.hdr.src, m.region.val) ∈ s.digMembers k.val → m.group
    = s.fld .dig Reg.DIG_REGION_GROUP k.val → (s.dig k.val).clean = true → own = BitVec.ofNat 128 (s.fld .dig
    Reg.DIG_REGION_DIGEST k.val) → m.contentId = s.fld .dig Reg.DIG_REGION_CONTENT_ID k.val → (m.digest = some d) →
    Map.get 0 (s.dig k.val).minority (m.hdr.src * 16 + m.region.val) ≠ 2 → (s.dig k.val).members = [] → d ≠ own →
    s.fld .dig Reg.DIG_REGION_MSTATE k.val = 0 → m.hdr.src * 16 + m.region.val ≤ s.node * 16 + k.val → (m.hdr.src,
    m.hdr.seq) ∉ s.qrm.seen → completes (.digest k m) s fun t => m ∈ (t.dig k.val).members ∧ t.fld .dig
    Reg.DIG_REGION_MSTATE k.val = 3 ∧ s.counted t .dig 0x98 ∧ othersSame {} s.digs t.digs [k.val] ∧ t.qrm =
    { s.qrm with seen := ((m.hdr.src, m.hdr.seq) :: s.qrm.seen).take 4096 } ∧ s.changes t [.digs, .qrm]
    [Reg.DIG_REGION_MSTATE.place .dig k.val] [(.dig, 0x98)]) ∧
  (∀ (s : State) (k : Fin 16) (m : DigestMsg) (d own : BitVec 128) (m2 : DigestMsg) (d2 : BitVec 128), s.ready .dig =
    true → s.flag .dig Reg.DIG_CTRL_EN = true → s.flag .dig Reg.DIG_REGION_VALID k.val = true → (m.hdr.src,
    m.region.val) ∈ s.digMembers k.val → m.group = s.fld .dig Reg.DIG_REGION_GROUP k.val → (s.dig k.val).clean = true
    → own = BitVec.ofNat 128 (s.fld .dig Reg.DIG_REGION_DIGEST k.val) → m.contentId = s.fld .dig
    Reg.DIG_REGION_CONTENT_ID k.val → (m.digest = some d) → Map.get 0 (s.dig k.val).minority (m.hdr.src * 16 +
    m.region.val) ≠ 2 → (s.dig k.val).members = [m2] → m2.hdr.src * 16 + m2.region.val ≠ m.hdr.src * 16 +
    m.region.val → (m2.hdr.src, m2.region.val) ≠ (m.hdr.src, m.region.val) → (m2.hdr.src, m2.region.val) ∈
    s.digMembers k.val → m2.group = m.group → m2.contentId = m.contentId → (m2.digest = some d2) → s.fld .dig
    Reg.DIG_REGION_MSTATE k.val = 0 → d = d2 → d ≠ own → (m.hdr.src, m.hdr.seq) ∉ s.qrm.seen → completes (.digest k
    m) s fun t => m ∈ (t.dig k.val).members ∧ t.fld .dig Reg.DIG_REGION_MSTATE k.val = 1 ∧ s.counted t .dig 0x98 ∧ (∀
    p : PartId, bit (s.fld .dig Reg.DIG_REGION_PART_MASK k.val) p.val = true → s.fenced p = true ∨ t.qrm.fencing.any
    (fun f => f.1 == p.val) = true) ∧ (∃ b ∈ t.elog.recent.head?, bits b.toNat 320 8 = 7 ∧ bits b.toNat 328 8 =
    k.val) ∧ (∀ j, j < 16 → j ≠ k.val → (t.dig j).members = (s.dig j).members ∧ (t.dig j).minority = (s.dig
    j).minority ∧ (t.dig j).steps = (s.dig j).steps) ∧ s.changesOn t (.digs :: recordComps) (.dig :: recordPages)) ∧
  (∀ (s : State) (k : Fin 16) (m : DigestMsg) (d own : BitVec 128) (m2 : DigestMsg) (d2 : BitVec 128), s.ready .dig =
    true → s.flag .dig Reg.DIG_CTRL_EN = true → s.flag .dig Reg.DIG_REGION_VALID k.val = true → (m.hdr.src,
    m.region.val) ∈ s.digMembers k.val → m.group = s.fld .dig Reg.DIG_REGION_GROUP k.val → (s.dig k.val).clean = true
    → own = BitVec.ofNat 128 (s.fld .dig Reg.DIG_REGION_DIGEST k.val) → m.contentId = s.fld .dig
    Reg.DIG_REGION_CONTENT_ID k.val → (m.digest = some d) → Map.get 0 (s.dig k.val).minority (m.hdr.src * 16 +
    m.region.val) ≠ 2 → (s.dig k.val).members = [m2] → m2.hdr.src * 16 + m2.region.val ≠ m.hdr.src * 16 +
    m.region.val → (m2.hdr.src, m2.region.val) ≠ (m.hdr.src, m.region.val) → (m2.hdr.src, m2.region.val) ∈
    s.digMembers k.val → m2.group = m.group → m2.contentId = m.contentId → (m2.digest = some d2) → s.fld .dig
    Reg.DIG_REGION_MSTATE k.val = 0 → d ≠ d2 → d ≠ own → d2 ≠ own → (m.hdr.src, m.hdr.seq) ∉ s.qrm.seen → completes
    (.digest k m) s fun t => m ∈ (t.dig k.val).members ∧ s.counted t .dig 0x98 ∧ s.counted t .dig 0xA0 ∧ s.erred t
    .dig 2 ∧ s.raised t .dig 1 ∧ othersSame {} s.digs t.digs [k.val] ∧ s.changes t [.digs, .qrm, .out, .pcie]
    (errPlaces .dig ++ irqPlaces .dig) ([(Page.dig, 0x50), (Page.dig, 0x98), (Page.dig, 0xA0)] ++ irqCounts .dig)) ∧
  (∀ (s : State) (k : Fin 16) (m : DigestMsg) (d own : BitVec 128) (m2 : DigestMsg) (d2 : BitVec 128), s.ready .dig =
    true → s.flag .dig Reg.DIG_CTRL_EN = true → s.flag .dig Reg.DIG_REGION_VALID k.val = true → (m.hdr.src,
    m.region.val) ∈ s.digMembers k.val → m.group = s.fld .dig Reg.DIG_REGION_GROUP k.val → (s.dig k.val).clean = true
    → own = BitVec.ofNat 128 (s.fld .dig Reg.DIG_REGION_DIGEST k.val) → m.contentId = s.fld .dig
    Reg.DIG_REGION_CONTENT_ID k.val → (m.digest = some d) → Map.get 0 (s.dig k.val).minority (m.hdr.src * 16 +
    m.region.val) ≠ 2 → (s.dig k.val).members = [m2] → m2.hdr.src * 16 + m2.region.val ≠ m.hdr.src * 16 +
    m.region.val → (m2.hdr.src, m2.region.val) ≠ (m.hdr.src, m.region.val) → (m2.hdr.src, m2.region.val) ∈
    s.digMembers k.val → m2.group = m.group → m2.contentId = m.contentId → (m2.digest = some d2) → s.fld .dig
    Reg.DIG_REGION_MSTATE k.val = 0 → d ≠ own → d2 = own → (m.hdr.src, m.hdr.seq) ∉ s.qrm.seen → completes (.digest k
    m) s fun t => m ∈ (t.dig k.val).members ∧ s.counted t .dig 0x98 ∧ t.fld .dig Reg.DIG_REGION_MSTATE k.val = 0 ∧
    othersSame {} s.digs t.digs [k.val] ∧ t.qrm =
    { s.qrm with seen := ((m.hdr.src, m.hdr.seq) :: s.qrm.seen).take 4096 } ∧ s.changes t [.digs, .qrm] []
    [(.dig, 0x98)]) ∧
  (∀ (s : State) (k : Fin 16) (m : DigestMsg), s.ready .dig = false ∨ s.flag .dig Reg.DIG_CTRL_EN = false ∨ s.flag
    .dig Reg.DIG_REGION_VALID k.val = false ∨ (m.hdr.src, m.region.val) ∉ s.digMembers k.val ∨ m.group ≠ s.fld .dig
    Reg.DIG_REGION_GROUP k.val ∨ (m.hdr.src, m.hdr.seq) ∈ s.qrm.seen → completes (.digest k m) s fun t => t = s) ∧
  (∀ (s : State) (k : Fin 16) (v : Word), s.ready .dig = true → completes (.digRegionWrite k 0 v) s fun t => t.flag
    .dig Reg.DIG_REGION_VALID k.val = v.getLsbD 0 ∧ t.flag .dig Reg.DIG_REGION_SEALED k.val = v.getLsbD 1 ∧ t.fld
    .dig Reg.DIG_REGION_GROUP k.val = bits v.toNat 16 16 ∧ (t.fld .dig Reg.DIG_REGION_MSTATE k.val = if s.flag .dig
    Reg.DIG_REGION_SEALED k.val = true ∧ v.getLsbD 1 = false ∧ s.fld .dig Reg.DIG_REGION_MSTATE k.val = 1 then 2 else
    s.fld .dig Reg.DIG_REGION_MSTATE k.val) ∧ (t.dig k.val).dirty = ((s.dig k.val).dirty || s.flag .dig
    Reg.DIG_REGION_SEALED k.val != v.getLsbD 1) ∧ othersSame {} s.digs t.digs [k.val] ∧ s.changes t [.digs]
    [Reg.DIG_REGION_VALID.place .dig k.val, Reg.DIG_REGION_SEALED.place .dig k.val, Reg.DIG_REGION_GROUP.place .dig k.val, Reg.DIG_REGION_MSTATE.place .dig k.val]
    []) ∧
  (∀ (s : State) (k : Fin 16) (v : Word), s.ready .dig = true → completes (.digRegionWrite k 1 v) s fun t => t.fld
    .dig Reg.DIG_REGION_PART_MASK k.val = bits v.toNat 0 32 ∧ s.changes t []
    [Reg.DIG_REGION_PART_MASK.place .dig k.val] []) ∧
  (∀ (s : State) (k : Fin 16) (v : Word), s.ready .dig = true → completes (.digRegionWrite k 2 v) s fun t => t.fld
    .dig Reg.DIG_REGION_BASE_LO k.val = bits v.toNat 16 16 ∧ s.changes t [] [Reg.DIG_REGION_BASE_LO.place .dig k.val]
    []) ∧
  (∀ (s : State) (k : Fin 16) (v : Word), s.ready .dig = true → completes (.digRegionWrite k 3 v) s fun t => t.fld
    .dig Reg.DIG_REGION_BASE_HI k.val = bits v.toNat 0 15 ∧ s.changes t [] [Reg.DIG_REGION_BASE_HI.place .dig k.val]
    []) ∧
  (∀ (s : State) (k : Fin 16) (v : Word), s.ready .dig = true → completes (.digRegionWrite k 4 v) s fun t => t.fld
    .dig Reg.DIG_REGION_LEN_PAGES k.val = bits v.toNat 0 24 ∧ s.changes t []
    [Reg.DIG_REGION_LEN_PAGES.place .dig k.val] []) ∧
  (∀ (s : State) (k : Fin 16) (v : Word), s.ready .dig = true → completes (.digRegionWrite k 5 v) s fun t => t.fld
    .dig Reg.DIG_REGION_CONTENT_ID k.val = bits v.toNat 0 32 ∧ s.changes t []
    [Reg.DIG_REGION_CONTENT_ID.place .dig k.val] []) ∧
  (∀ (s : State) (k : Fin 16) (w : Fin 32) (v : Word) (a : Nat), s.ready .dig = true → 16 ≤ w.val → w.val < 24 → a =
    Page.base .dig + 0x400 + k.val * 0x80 + w.val * 4 → completes (.digRegionWrite k w v) s fun t => t.word a = v &&&
    0x1FFFF ∧ (∀ b, b ≠ a → t.word b = s.word b) ∧ s.keeps t [.regs]) ∧
  (∀ (s : State) (k : Fin 16) (w : Fin 32) (v : Word), s.ready .dig = false ∨ 5 < w.val ∧ w.val < 16 ∨ 24 ≤ w.val →
    completes (.digRegionWrite k w v) s fun t => t = s)

/-- TASK_DESCRIPTOR_ARRIVE gives a descriptor that passes every check the lowest FREE slot, WAITING or READY by its
tags and program, with what it latches; one that fails a check is reported with its code and takes no slot; a full
scoreboard counts SLOT_FULL and the Dispatcher holds the descriptor. TASK_DISPATCH starts the task R73 selects on an
idle engine: RUNNING, its energy taken, MAXLAT kept where the conditions of R76 held. SB_WATCHDOG_EXPIRE notes a
stall once with its interrupt and count; SB_CLR_MAXLAT clears MAXLAT. Nothing else changes. On points the spec
leaves open it states the model's choices (notes/assumptions/15, 55). -/
def Obligations.TasksArriveAndStart : Prop :=
  (∀ (s : State) (u : TileId) (slot : Fin 1024) (d : BitVec 512) (i : Fin 64), s.ready (.tile u) = true → (lowest 64
    (fun j => (s.slot u (Fin.ofNat 64 j)).st == SlotState.free) = some i.val) → s.descBad u d = none → (tEngine d = 1
    → (Map.get {} (s.tile u).progs (tProg d)).codeLen ≠ 0 ∨ (s.tile u).load.map (·.1) = some (tProg d)) → completes
    (.taskDescriptorArrive u slot d) s fun t => ((t.slot u i).desc = d ∧ (t.slot u i).reqSlot = slot.val ∧ (t.slot u
    i).since = s.now ∧ (t.slot u i).order = (s.tile u).nextOrder) ∧ ((t.slot u i).st = if s.tagsReady u d &&
    s.progReady u d then .ready else .waiting) ∧ (∀ j : Fin 64, j ≠ i → t.slot u j = if (s.slot u j).st = .waiting ∧
    t.tagsReady u (s.slot u j).desc = true ∧ t.progReady u (s.slot u j).desc = true then
    { s.slot u j with st := .ready, prompt := (t.slot u j).prompt } else s.slot u j) ∧ (t.tile u).coming = (((s.tile
    u).coming.find? fun q => q.desc == d && q.slot == slot.val).elim (s.tile u).coming (s.tile u).coming.erase) ∧
    (t.tile u).nextOrder = (s.tile u).nextOrder + 1 ∧ othersSame {} s.tiles t.tiles [u.val] ∧ s.changes t [.tiles] []
    []) ∧
  (∀ (s : State) (u : TileId) (slot : Fin 1024) (d : BitVec 512) (key : Nat) (q : Queued), s.ready (.tile u) = true →
    (lowest 64 (fun j => (s.slot u (Fin.ofNat 64 j)).st == SlotState.free) = none) → q = ((s.tile u).coming.find? fun
    q => q.desc == d && q.slot == slot.val).getD { desc := d, slot := slot.val, launch := 0 } → key = u.val % 8 * 4 +
    tPri q.desc → completes (.taskDescriptorArrive u slot d) s fun t => s.counted t (.tile u) 0xE0 ∧ Map.get []
    (t.part (partOf u)).store key = q :: Map.get [] (s.part (partOf u)).store key ∧ othersSame [] (s.part (partOf
    u)).store (t.part (partOf u)).store [key] ∧ (t.tile u).slots = (s.tile u).slots ∧ (t.tile u).coming = (((s.tile
    u).coming.find? fun q => q.desc == d && q.slot == slot.val).elim (s.tile u).coming (s.tile u).coming.erase) ∧
    othersSame {} s.parts t.parts [(partOf u).val] ∧ othersSame {} s.tiles t.tiles [u.val] ∧ s.changes t
    [.tiles, .parts] [] [(.tile u, 0xE0)]) ∧
  (∀ (s : State) (u : TileId) (slot : Fin 1024) (d : BitVec 512) (c i : Nat), s.ready (.tile u) = true → (lowest 64
    (fun j => (s.slot u (Fin.ofNat 64 j)).st == SlotState.free) = some i) → (s.descBad u d = some c ∨ s.descBad u d =
    none ∧ tEngine d = 1 ∧ (Map.get {} (s.tile u).progs (tProg d)).codeLen = 0 ∧ (s.tile u).load.map (·.1) ≠ some
    (tProg d) ∧ c = 9) → s.noParks → completes (.taskDescriptorArrive u slot d) s fun t => s.erred t (.tile u) c ∧
    s.raised t (.tile u) 0 ∧ Out.taskFailed u (tTask d) c ∈ t.out ∧ t.fld (.disp (partOf u)) Reg.PG_ERR_CODE = 3 ∧
    t.flag (.disp (partOf u)) Reg.DISP_FAIL_VALID = true ∧ (t.rs (partOf u) slot.val).failed = true ∧ (t.tile
    u).slots = (s.tile u).slots ∧ (t.tile u).coming = (((s.tile u).coming.find? fun q => q.desc == d && q.slot ==
    slot.val).elim (s.tile u).coming (s.tile u).coming.erase) ∧ othersSame {} s.tiles t.tiles [u.val] ∧ s.keeps t
    [.fresh, .out, .regs, .cnt, .mem, .tiles, .parts, .movers, .tenants, .reqs, .convs, .tier, .engines, .qps, .srch, .digs, .qrm, .pwr, .pcie]) ∧
  (∀ (s : State) (u : TileId) (e : Fin 4) (lat i : Nat) (x : Slot), s.ready (.tile u) = true → s.engineBusy u e.val =
    false → s.quiescing (.disp (partOf u)) = false → (pickTask ((s.tile u).slots.filter fun y => tEngine y.2.desc ==
    e.val && s.startable u y.2) = some (i, x)) → completes (.taskDispatch u e lat) s fun t => t.slot u (Fin.ofNat 64
    i) = { x with st := .running, tblMask := s.fld .codec Reg.CODEC_ENC_CTRL_TBL_MASK } ∧ (∀ j : Fin 64, j ≠
    Fin.ofNat 64 i → t.slot u j = if (s.slot u j).st = .ready ∧ (tEngine (s.slot u j).desc = e.val ∨ tEngine (s.slot
    u j).desc % 2 = 0 ∧ e.val % 2 = 0) then { s.slot u j with prompt := false } else s.slot u j) ∧ ((t.tile u).credit
    = if s.flag (.disp (partOf u)) Reg.DISP_CTRL_ENERGY_EN = true then (s.tile u).credit - s.fld (.disp (partOf u))
    Reg.DISP_ECOST_COST_NJ (tEclass x.desc) else (s.tile u).credit) ∧ (t.fld (.tile u) Reg.SB_STAT_MAXLAT = if
    x.prompt then max (s.fld (.tile u) Reg.SB_STAT_MAXLAT) (min lat 255) else s.fld (.tile u) Reg.SB_STAT_MAXLAT) ∧
    othersSame {} s.tiles t.tiles [u.val] ∧ s.changes t [.tiles, .units, .out, .pcie] (Reg.SB_STAT_MAXLAT.place
    (.tile u) :: irqPlaces .mon) (irqCounts .mon)) ∧
  (∀ (s : State) (u : TileId) (e : Fin 4) (lat : Nat), (s.ready (.tile u) = false ∨ s.engineBusy u e.val = true ∨
    s.quiescing (.disp (partOf u)) = true ∨ pickTask ((s.tile u).slots.filter fun y => tEngine y.2.desc == e.val &&
    s.startable u y.2) = none) → completes (.taskDispatch u e lat) s fun t => t = s) ∧
  (∀ (s : State) (u : TileId) (i : Fin 64), s.ready (.tile u) = true → (s.slot u i).st = .waiting → (s.slot u
    i).stalled = false → s.fld (.tile u) Reg.SB_CTRL_WDOG ≠ 0 → completes (.sbWatchdogExpire u i) s fun t => t.slot u
    i = { s.slot u i with stalled := true } ∧ (∀ j : Fin 64, j ≠ i → t.slot u j = s.slot u j) ∧ s.raised t (.tile u)
    1 ∧ s.counted t (.tile u) 0xE8 ∧ othersSame {} s.tiles t.tiles [u.val] ∧ s.changes t [.tiles, .out, .pcie]
    (irqPlaces (.tile u)) ((.tile u, 0xE8) :: irqCounts (.tile u))) ∧
  (∀ (s : State) (u : TileId) (i : Fin 64), s.ready (.tile u) = false ∨ (s.slot u i).st ≠ .waiting ∨ (s.slot u
    i).stalled = true ∨ s.fld (.tile u) Reg.SB_CTRL_WDOG = 0 → completes (.sbWatchdogExpire u i) s fun t => t = s) ∧
  (∀ (s : State) (u : TileId), s.ready (.tile u) = true → completes (.sbClrMaxlat u) s fun t => t.fld (.tile u)
    Reg.SB_STAT_MAXLAT = 0 ∧ s.changes t [] [Reg.SB_STAT_MAXLAT.place (.tile u)] []) ∧
  (∀ (s : State) (u : TileId), s.ready (.tile u) = false → completes (.sbClrMaxlat u) s fun t => t = s)

/-- TASK_COMPLETE of a RUNNING task without event frees its slot, takes a reader off its input tags, sets its output
tag READY, counts and reports it: MATRIX has written its rows to tile SRAM or the State Space, VECTOR what its
program writes, DMA its bytes, expanded or compressed; a FAR destination is done when every store is acknowledged, a
held write when the tier controller has accepted it. Port waits, refused banks and corrected words are counted. An
operand past tile SRAM ends the task with 0x06, a refused FAR request with 0x0D. TASK_EVENT_REPORT_ACCEPT ends a
task whose report waited. TASK_RUNNING_ERROR frees the slot, records the error and tells the Dispatcher, which fails
the request slot; sums are checked only with ABFT_EN. CODEC_ERR_INFO_CLEAR clears VALID. Nothing else changes. On
points the spec leaves open it states the model's choices (notes/assumptions/15, 16, 53, 55, 56, 57). -/
def Obligations.TasksEnd : Prop :=
  (∀ (s : State) (u : TileId) (run : TileRun) (x : Slot) (d : BitVec 512) (r : MatRes) (rows : List (Nat × List
    Byte)), s.works (.tile u) = true → x = s.slot u run.i → d = x.desc → x.st = .running → x.reportWait = false →
    s.stallsAt u x = false → x.wrote = false → tEvt d = 0 → s.tierIdle → tEngine d = 0 → (s.matOpA u x).fine = true →
    (s.matOpB u x).fine = true → (s.matOpC u x).fine = true → s.readableAll ((s.matOpA u x).ranges ++ (s.matOpB u
    x).ranges ++ (s.matOpC u x).ranges) → anchorBad d (s.matOpC u x).img = false → r = s.matrix u x (s.matOpA u
    x).img (s.matOpB u x).img (s.matOpC u x).img → r.fails = ([], []) → tFmtOut d ≠ 0xB → rows = r.out d → tSpace d 3
    ≠ 3 → ((tSpace d 3 = 1 ∧ ∀ w ∈ rows, x.opBase 3 + w.1 + w.2.length ≤ 2 ^ 47 ∧ s.writable (x.opBase 3 + w.1)
    w.2.length = true) ∨ (tSpace d 3 ≠ 1 ∧ ∀ w ∈ rows, x.opBase 3 + w.1 + w.2.length ≤ sramSize ∧ s.badWord (x.opTile
    u 3) (x.opBase 3 + w.1) w.2.length = none)) → completes (.taskComplete u run) s fun t => s.taskEnded t u run.i d
    ∧ s.ran t u run ∧ (if tSpace d 3 = 1 then t.mem = rows.foldl (fun m w => Map.store m (x.opBase 3 + w.1) w.2)
    s.mem ∧ t.sram = s.sram else t.mem = s.mem ∧ t.sram = rows.foldl (fun m w => Map.store m (sramAddr (x.opTile u 3)
    (x.opBase 3 + w.1)) w.2) s.sram) ∧ s.counted t (.tile u) 0xA0 r.below ∧ s.counted t (.tile u) 0xA8 r.left ∧
    s.counted t (.tile u) 0xB8 r.skips ∧ s.changes t [.tiles, .sram, .out, .tier, .pwr, .mem, .digs] [] (storeCounts
    ++ ranCounts u ++ [0xA0, 0xA8, 0xB8, 0xC0, 0xC8].map (fun o => ((Page.tile u : Page), o)) ++
    [0x80, 0x88, 0xA0, 0xB0, 0x90, 0x98].map (fun o => ((Page.codec : Page), o)))) ∧
  (∀ (s : State) (u : TileId) (run : TileRun) (x : Slot) (d : BitVec 512) (r : MatRes) (tok row : Nat), s.works
    (.tile u) = true → x = s.slot u run.i → d = x.desc → x.st = .running → x.reportWait = false → s.stallsAt u x =
    false → x.wrote = false → tEvt d = 0 → s.tierIdle → tEngine d = 0 → (s.matOpA u x).fine = true → (s.matOpB u
    x).fine = true → (s.matOpC u x).fine = true → s.readableAll ((s.matOpA u x).ranges ++ (s.matOpB u x).ranges ++
    (s.matOpC u x).ranges) → anchorBad d (s.matOpC u x).img = false → r = s.matrix u x (s.matOpA u x).img (s.matOpB u
    x).img (s.matOpC u x).img → r.fails = ([], []) → tFmtOut d = 0xB → matOpen d = false → tSpace d 3 = 1 → tok =
    s.modelTok u x → row = kvRowBytes (tLdOut d) (tN d) → tN d ≤ tLdOut d * 64 → x.opBase 3 + tM d * (tLdOut d * 64)
    ≤ 2 ^ 47 → s.writable (x.opBase 3) (tM d * (tLdOut d * 64)) = true → (∀ p ∈ pagesOf (x.opBase 3) (tM d * (tLdOut
    d * 64)), (s.leaf p).side = true) → completes (.taskComplete u run) s fun t => s.taskEnded t u run.i d ∧ s.ran t
    u run ∧ (∀ e ∈ r.rows.zipIdx, ∀ c ∈ (chunks 64 (tN d) (e.1.zipIdx.map fun v => rounded d (e.2 * tN d + v.2)
    v.1)).zipIdx, let off := x.opBase 3 + e.2 * (tLdOut d * 64) + 64 * c.2; let ls := ((List.range 8).map fun j =>
    (kvScaleAt tok row (s.sideOf (pageOf off)) (off % 65536 / row) (off % 65536 % row + 8 * j)).2); Map.bytes t.mem
    off c.1.length = (kvColumn (tSat d) ls c.1).1) ∧ (∀ y, (∀ m, m < tM d → y < x.opBase 3 + m * (tLdOut d * 64) ∨
    x.opBase 3 + m * (tLdOut d * 64) + tN d ≤ y) → Map.get 0 t.mem y = Map.get 0 s.mem y) ∧ s.counted t (.tile u)
    0xA0 r.below ∧ s.counted t (.tile u) 0xA8 r.left ∧ s.counted t (.tile u) 0xB8 r.skips ∧ s.changes t
    [.tiles, .out, .tier, .pwr, .mem, .digs] [] (storeCounts ++ ranCounts u ++ [0xA0, 0xA8, 0xB8, 0xC0, 0xC8].map
    (fun o => ((Page.tile u : Page), o)) ++ [0x80, 0x88, 0xA0, 0xB0, 0x90, 0x98].map (fun o => ((Page.codec : Page),
    o)))) ∧
  (∀ (s : State) (u : TileId) (run : TileRun) (x : Slot) (d : BitVec 512), s.works (.tile u) = true → x = s.slot u
    run.i → d = x.desc → x.st = .running → x.reportWait = false → s.stallsAt u x = false → x.wrote = false → tEvt d =
    0 → s.tierIdle → tEngine d = 1 → tFmtOut d ≠ 0xB → tSpace d 3 ≠ 3 → completes (.taskComplete u run) s fun t =>
    let code := (Map.get {} (s.tile u).progs (tProg d)).code; let reads := ((Config.vectorReads code d).map fun r =>
    (r, s.rawOperand u x (r.operand % 3) [(r.at_, r.len)])); let bytes := (reads.map fun r => ((List.range
    r.1.len).map fun j => r.2.img (r.1.at_ + j))); let rows := ((Config.vectorWrites code d bytes).map fun w =>
    ((vecOut d w).1, (vecOut d w).2.1)); (∀ r ∈ reads, r.2.fine = true ∧ s.readableAll r.2.ranges ∧ r.1.accx = false)
    → ((tSpace d 3 = 1 ∧ ∀ w ∈ rows, x.opBase 3 + w.1 + w.2.length ≤ 2 ^ 47 ∧ s.writable (x.opBase 3 + w.1)
    w.2.length = true) ∨ (tSpace d 3 ≠ 1 ∧ ∀ w ∈ rows, x.opBase 3 + w.1 + w.2.length ≤ sramSize ∧ s.badWord (x.opTile
    u 3) (x.opBase 3 + w.1) w.2.length = none)) → s.taskEnded t u run.i d ∧ s.ran t u run ∧ (if tSpace d 3 = 1 then
    t.mem = rows.foldl (fun m w => Map.store m (x.opBase 3 + w.1) w.2) s.mem ∧ t.sram = s.sram else t.mem = s.mem ∧
    t.sram = rows.foldl (fun m w => Map.store m (sramAddr (x.opTile u 3) (x.opBase 3 + w.1)) w.2) s.sram) ∧ s.changes
    t [.tiles, .sram, .out, .tier, .pwr, .mem, .digs] [] (storeCounts ++ ranCounts u ++ [(.tile u, 0xC8)])) ∧
  (∀ (s : State) (u : TileId) (run : TileRun) (x : Slot) (d : BitVec 512) (b data : List Byte), s.works (.tile u) =
    true → x = s.slot u run.i → d = x.desc → x.st = .running → x.reportWait = false → s.stallsAt u x = false →
    x.wrote = false → tEvt d = 0 → s.tierIdle → tEngine d = 3 → x.far = {} → tSpace d 0 ≠ 3 → tSpace d 3 ≠ 3 →
    (s.dmaOpA u x).fine = true → s.readableAll (s.dmaOpA u x).ranges → b = (List.range (tAux d)).map (s.dmaOpA u
    x).img → data = (if tXpdB d then (encodeStream (tFmtA d) x.tblMask b).1 else b) → ((tSpace d 3 = 1 ∧ x.opBase 3 +
    data.length ≤ 2 ^ 47 ∧ s.writable (x.opBase 3) data.length = true) ∨ (tSpace d 3 ≠ 1 ∧ x.opBase 3 + data.length ≤
    sramSize ∧ s.badWord (x.opTile u 3) (x.opBase 3) data.length = none)) → completes (.taskComplete u run) s fun t
    => t.slot u run.i = {} ∧ s.counted t (.tile u) 0x80 ∧ t.out.getLast? = some (.taskDone u (tTask d)) ∧ s.tagged t
    u run.i d ∧ othersSame {} s.tiles t.tiles [u.val, (x.opTile u 3).val] ∧ s.ran t u run ∧ (if tSpace d 3 = 1 then
    Map.bytes t.mem (x.opBase 3) data.length = data ∧ bytesSame s.mem t.mem (x.opBase 3) data.length ∧ t.sram =
    s.sram else Map.bytes t.sram (sramAddr (x.opTile u 3) (x.opBase 3)) data.length = data ∧ bytesSame s.sram t.sram
    (sramAddr (x.opTile u 3) (x.opBase 3)) data.length ∧ t.mem = s.mem) ∧ s.counted t .codec 0x80 (((s.dmaOpA u
    x).blocks.filter fun k => !k.isRaw).length) ∧ (tXpdB d = true → s.counted t .codec 0x90 (encodeStream (tFmtA d)
    x.tblMask b).2.1 ∧ s.counted t .codec 0x98 (encodeStream (tFmtA d) x.tblMask b).2.2) ∧ s.changes t
    [.tiles, .sram, .out, .tier, .pwr, .mem, .digs] [] (storeCounts ++ ranCounts u ++
    [0x80, 0x88, 0xA0, 0xB0, 0x90, 0x98].map (fun o => ((Page.codec : Page), o)))) ∧
  (∀ (s : State) (u : TileId) (run : TileRun) (x : Slot) (d : BitVec 512) (data : List Byte), s.works (.tile u) =
    true → x = s.slot u run.i → d = x.desc → x.st = .running → x.reportWait = false → s.stallsAt u x = false →
    x.wrote = false → tEvt d = 0 → s.tierIdle → tEngine d = 3 → tSpace d 3 = 3 → x.far.err = none → x.far.data = some
    data → x.far.sent = data.length → x.far.acked = (x.opBase 3 % 256 + data.length + 255) / 256 → completes
    (.taskComplete u run) s fun t => s.taskEnded t u run.i d ∧ s.ran t u run ∧ s.changes t [.tiles, .out] []
    (ranCounts u)) ∧
  (∀ (s : State) (u : TileId) (run : TileRun) (x : Slot) (d : BitVec 512) (data : List Byte), s.works (.tile u) =
    true → x = s.slot u run.i → d = x.desc → x.st = .running → x.reportWait = false → s.stallsAt u x = false →
    x.wrote = false → tEngine d = 3 → tSpace d 3 = 3 → x.far.err = none → x.far.data = some data → x.far.sent =
    data.length → x.far.acked < (x.opBase 3 % 256 + data.length + 255) / 256 → completes (.taskComplete u run) s fun
    t => t.slot u run.i = x ∧ s.ran t u run ∧ s.changes t [.tiles] [] (ranCounts u)) ∧
  (∀ (s : State) (u : TileId) (run : TileRun) (x : Slot) (d : BitVec 512) (c g : Nat), s.works (.tile u) = true → x =
    s.slot u run.i → d = x.desc → x.st = .running → x.reportWait = false → s.stallsAt u x = false → x.wrote = false →
    tEngine d = 3 → x.far.err = some (c, g) → s.noParks → completes (.taskComplete u run) s fun t => s.taskFails t u
    run.i 13 ∧ s.keeps t failComps) ∧
  (∀ (s : State) (u : TileId) (run : TileRun) (x : Slot) (d : BitVec 512), s.works (.tile u) = true → x = s.slot u
    run.i → d = x.desc → x.st = .running → x.reportWait = false → s.stallsAt u x = false → x.wrote = true → tEvt d =
    0 → s.tierIdle → completes (.taskComplete u run) s fun t => s.taskEnded t u run.i d ∧ s.ran t u run ∧ s.changes t
    [.tiles, .out] [] (ranCounts u)) ∧
  (∀ (s : State) (u : TileId) (run : TileRun) (x : Slot) (d : BitVec 512), s.works (.tile u) = true → x = s.slot u
    run.i → d = x.desc → x.st = .running → x.reportWait = false → s.stallsAt u x = false → x.wrote = true →
    s.tier.answers = [] → s.unaccepted (taskSrc u run.i d) = true → completes (.taskComplete u run) s fun t => t.slot
    u run.i = x ∧ s.ran t u run ∧ s.changes t [.tiles] [] (ranCounts u)) ∧
  (∀ (s : State) (u : TileId) (run : TileRun) (x : Slot), s.works (.tile u) = true → x = s.slot u run.i → x.st ≠
    .running ∨ x.reportWait = true ∨ s.stallsAt u x = true → completes (.taskComplete u run) s fun t => t = s) ∧
  (∀ (s : State) (u : TileId) (run : TileRun) (x : Slot), s.works (.tile u) = true → x = s.slot u run.i → x.st =
    .running → x.reportWait = false → s.stallsAt u x = false → x.wrote = false → tEngine x.desc = 2 → completes
    (.taskComplete u run) s fun t => t.slot u run.i = x ∧ s.ran t u run ∧ s.changes t [.tiles] [] (ranCounts u)) ∧
  (∀ (s : State) (u : TileId) (run : TileRun), s.works (.tile u) = false → completes (.taskComplete u run) s fun t =>
    t = s) ∧
  (∀ (s : State) (u : TileId) (run : TileRun) (x : Slot) (d : BitVec 512), s.works (.tile u) = true → x = s.slot u
    run.i → d = x.desc → x.st = .running → x.reportWait = false → s.stallsAt u x = false → x.wrote = false →
    s.noParks → s.tier.answers = [] → tEngine d = 3 → x.far = {} → tSpace d 0 = 0 → tXpdA d = false → sramSize <
    x.opBase 0 + tAux d → completes (.taskComplete u run) s fun t => s.taskFails t u run.i 6 ∧ s.keeps t failComps) ∧
  (∀ (s : State) (u : TileId) (run : TileRun) (x : Slot) (d : BitVec 512), s.works (.tile u) = true → x = s.slot u
    run.i → d = x.desc → x.st = .running → x.reportWait = false → s.stallsAt u x = false → x.wrote = false →
    s.noParks → s.tier.answers = [] → tEngine d = 0 → (∀ k < 4, tSpace d k ≠ 1) → tXpdA d = false → (∀ w ∈ rowsOf (tM
    d) (tLdA d) (rowBytes (tFmtA d) (tK d)), s.spanOp u x 0 w.1 w.2 = .ok ∨ s.spanOp u x 0 w.1 w.2 = .err .extent) →
    (∃ w ∈ rowsOf (tM d) (tLdA d) (rowBytes (tFmtA d) (tK d)), s.spanOp u x 0 w.1 w.2 = .err .extent) → completes
    (.taskComplete u run) s fun t => s.taskFails t u run.i 6 ∧ s.keeps t failComps) ∧
  (∀ (s : State) (u : TileId) (i : Fin 64) (x : Slot) (d : BitVec 512) (r : Bool × State), s.works (.tile u) = true →
    x = s.slot u i → d = x.desc → x.reportWait = true → tEvt d ≠ 0 → s.tierIdle → r = s.reportEvent (partOf u) (u.val
    % 8) (tEvt d == 2) (tLayer d) → r.1 = true → completes (.taskEventReportAccept u i) s fun t => t.slot u i = {} ∧
    t.counter (.tile u) 0x80 = min max64 (s.counter (.tile u) 0x80 + 1) ∧ (t.out.getLast? = some (.taskDone u (tTask
    d))) ∧ t.part (partOf u) = r.2.part (partOf u) ∧ s.tagged t u i d ∧ othersSame {} s.tiles t.tiles [u.val] ∧
    s.keeps t
    [.fresh, .out, .regs, .cnt, .mem, .tiles, .parts, .movers, .tier, .engines, .units, .digs, .elog, .qrm, .pwr, .pcie]) ∧
  (∀ (s : State) (u : TileId) (i : Fin 64) (x : Slot) (d : BitVec 512), s.works (.tile u) = true → x = s.slot u i → d
    = x.desc → x.reportWait = true → tEvt d ≠ 0 → (s.reportEvent (partOf u) (u.val % 8) (tEvt d == 2) (tLayer d)).1 =
    false → completes (.taskEventReportAccept u i) s fun t => t = s) ∧
  (∀ (s : State) (u : TileId) (i : Fin 64), s.works (.tile u) = false ∨ (s.slot u i).reportWait = false → completes
    (.taskEventReportAccept u i) s fun t => t = s) ∧
  (∀ (s : State) (u : TileId) (i : Fin 64) (x : Slot) (d : BitVec 512) (e : TaskError), s.works (.tile u) = true → x
    = s.slot u i → d = x.desc → x.st = .running →
    (match e with | .abft _ _ _ _ => tAbft d && tEngine d % 2 == 0 | _ => true) = true → s.noParks → completes
    (.taskRunningError u i e) s fun t => s.taskFails t u i (s.errorOf e).1 ∧ (∃ b ∈ t.elog.recent.head?, bits b.toNat
    8 2 = (s.errorOf e).2.1 ∧ bits b.toNat 48 16 = u.val ∧ bits b.toNat 64 8 = (s.errorOf e).1) ∧ (∀ v, partOf v ≠
    partOf u → t.tile v = s.tile v) ∧ s.keeps t (.sramBad :: failComps)) ∧
  (∀ (s : State) (u : TileId) (i : Fin 64) (a b c e : Nat), s.works (.tile u) = true → tAbft (s.slot u i).desc =
    false ∨ tEngine (s.slot u i).desc % 2 = 1 → completes (.taskRunningError u i (.abft a b c e)) s fun t => t = s) ∧
  (∀ (s : State) (u : TileId) (i : Fin 64) (x : Slot) (off : Nat), s.works (.tile u) = true → x = s.slot u i → x.st =
    .running → s.noParks → completes (.taskRunningError u i (.sramUE off)) s fun t => Map.get false t.sramBad
    (sramAddr u (off / 8 * 8)) = true ∧ t.counter (.tile u) 0xD8 = min max64 (s.counter (.tile u) 0xD8 + 1) ∧ s.keeps
    t (.sramBad :: failComps)) ∧
  (∀ (s : State) (u : TileId) (i : Fin 64) (x : Slot) (re a : Nat) (src : Fin 3) (sp : Fin 4), s.works (.tile u) =
    true → x = s.slot u i → x.st = .running → s.noParks → s.flag .codec Reg.CODEC_ERR_INFO_VALID = false → completes
    (.taskRunningError u i (.badBlock re src sp a)) s fun t => t.flag .codec Reg.CODEC_ERR_INFO_VALID = true ∧ t.fld
    .codec Reg.CODEC_ERR_INFO_TILE = u.val ∧ t.fld .codec Reg.CODEC_ERR_INFO_SOURCE = src.val ∧ t.fld .codec
    Reg.CODEC_ERR_INFO_SPACE = sp.val ∧ t.fld .codec Reg.PG_ERR_CODE = 1 ∧ t.counter .codec 0xA8 = min max64
    (s.counter .codec 0xA8 + 1) ∧ s.keeps t failComps) ∧
  (∀ (s : State) (u : TileId) (i : Fin 64) (e : TaskError), s.works (.tile u) = false ∨ (s.slot u i).st ≠ .running →
    completes (.taskRunningError u i e) s fun t => t = s) ∧
  (∀ (s : State), s.ready .codec = true → completes (.codecErrInfoClear) s fun t => t.flag .codec
    Reg.CODEC_ERR_INFO_VALID = false ∧ s.changes t [] [Reg.CODEC_ERR_INFO_VALID.place .codec] []) ∧
  (∀ (s : State), s.ready .codec = false → completes (.codecErrInfoClear) s fun t => t = s)

/-- PROG_LOAD_GO starts a load, or with one in progress records LOAD_BUSY, or with the slot in use ends with RESULT
2. PROG_LOAD_COMPLETE stores a good image and ends with 0, a bad one with 1, one without room with 3; VECTOR tasks
that waited for a program that is not there fail with 0x09. ATTN_PARAMS_LATCHED latches a good ragged entry, block
and page list, or fails the task with DESC_FIELD. MERGE_NODE_ARRIVE stores a node that fits its merge slot, which
emits once its node is whole, and fails a task whose node does not fit. MERGE_EMIT_DONE writes the output, frees the
slot and ends its tasks. Nothing else changes. On points the spec leaves open it states the model's choices
(notes/assumptions/16, 33, 58). -/
def Obligations.ProgramsAndAttentionRun : Prop :=
  (∀ (s : State) (u : TileId) (k : Fin 256), s.ready (.tile u) = true → (s.tile u).load = none → ((s.tile
    u).slots.any (fun e => tEngine e.2.desc != 2 && tProg e.2.desc == k.val && e.2.st != SlotState.free) = false) →
    completes (.progLoadGo u k) s fun t => ((t.tile u) =
    { s.tile u with load := some (k.val, s.fld (.tile u) Reg.PROG_SRC_LO_SRC_LO / 64 * 64 + 2 ^ 32 * s.fld (.tile u) Reg.PROG_SRC_HI_SRC_HI) })
    ∧ t.fld (.tile u) Reg.PROG_LOAD_BUSY = 1 ∧ t.fld (.tile u) Reg.PROG_LOAD_INDEX = k.val ∧ othersSame {} s.tiles
    t.tiles [u.val] ∧ s.changes t [.tiles] [Reg.PROG_LOAD_BUSY.place (.tile u), Reg.PROG_LOAD_INDEX.place (.tile u)]
    []) ∧
  (∀ (s : State) (u : TileId) (k : Fin 256), s.ready (.tile u) = true → (s.tile u).load ≠ none → completes
    (.progLoadGo u k) s fun t => s.erred t (.tile u) 0x0B ∧ s.changes t [] (errPlaces (.tile u)) (errCounts (.tile
    u))) ∧
  (∀ (s : State) (u : TileId) (k : Fin 256), s.ready (.tile u) = true → (s.tile u).load = none → ((s.tile
    u).slots.any (fun e => tEngine e.2.desc != 2 && tProg e.2.desc == k.val && e.2.st != SlotState.free) = true) →
    (Map.get {} (s.tile u).progs k.val).codeLen ≠ 0 → completes (.progLoadGo u k) s fun t => (t.tile u).load = none ∧
    t.fld (.tile u) Reg.PROG_LOAD_BUSY = 0 ∧ t.fld (.tile u) Reg.PROG_LOAD_RESULT = 2 ∧ s.raised t (.tile u) 2 ∧
    s.erred t (.tile u) 0x0B ∧ othersSame {} s.tiles t.tiles [u.val] ∧ s.changes t [.tiles, .out, .pcie]
    ([Reg.PROG_LOAD_BUSY.place (.tile u), Reg.PROG_LOAD_RESULT.place (.tile u), Reg.PROG_LOAD_GO.place (.tile u), Reg.PROG_LOAD_INDEX.place (.tile u)]
    ++ errPlaces (.tile u) ++ irqPlaces (.tile u)) (errCounts (Page.tile u) ++ irqCounts (Page.tile u))) ∧
  (∀ (s : State) (u : TileId) (k src : Nat) (h : List Byte), s.works (.tile u) = true → ((s.tile u).load = some (k,
    src)) → s.tier.answers = [] → s.readable src 64 → h = s.rd src 64 → progHeaderOk h (s.word (Page.base (.tile u) +
    4)).toNat = true → s.readable (src + 64) (progHeader h).codeLen → (sha384 (s.rd (src + 64) (progHeader
    h).codeLen)).take 32 = (h.drop 32).take 32 → (((s.tile u).progs.filter (fun e => e.1 != k)).foldl (fun n e => n +
    e.2.room) 0 + (progHeader h).room ≤ 131072) → completes (.progLoadComplete u) s fun t => (t.tile u).load = none ∧
    t.fld (.tile u) Reg.PROG_LOAD_BUSY = 0 ∧ t.fld (.tile u) Reg.PROG_LOAD_RESULT = 0 ∧ s.raised t (.tile u) 2 ∧
    (t.tile u).progs = Map.set {} (s.tile u).progs k
    { progHeader h with code := s.rd (src + 64) (progHeader h).codeLen } ∧ othersSame {} s.tiles t.tiles [u.val] ∧
    s.changesOn t [.tiles, .tier, .out, .pcie, .pwr] [.tile u, .tier, .pcie, .pwr]) ∧
  (∀ (s : State) (u : TileId) (k src : Nat) (h : List Byte), s.works (.tile u) = true → ((s.tile u).load = some (k,
    src)) → s.tier.answers = [] → s.readable src 64 → h = s.rd src 64 → (Map.get {} (s.tile u).progs k).codeLen ≠ 0 →
    progHeaderOk h (s.word (Page.base (.tile u) + 4)).toNat = false → completes (.progLoadComplete u) s fun t =>
    (t.tile u).load = none ∧ t.fld (.tile u) Reg.PROG_LOAD_BUSY = 0 ∧ t.fld (.tile u) Reg.PROG_LOAD_RESULT = 1 ∧
    s.raised t (.tile u) 2 ∧ s.erred t (.tile u) 0x0A ∧ (t.tile u).progs = (s.tile u).progs ∧ othersSame {} s.tiles
    t.tiles [u.val] ∧ s.changesOn t [.tiles, .tier, .out, .pcie, .pwr] [.tile u, .tier, .pcie, .pwr]) ∧
  (∀ (s : State) (u : TileId) (k src : Nat) (h : List Byte), s.works (.tile u) = true → ((s.tile u).load = some (k,
    src)) → s.tier.answers = [] → s.readable src 64 → h = s.rd src 64 → progHeaderOk h (s.word (Page.base (.tile u) +
    4)).toNat = true → s.readable (src + 64) (progHeader h).codeLen → (Map.get {} (s.tile u).progs k).codeLen ≠ 0 →
    (sha384 (s.rd (src + 64) (progHeader h).codeLen)).take 32 ≠ (h.drop 32).take 32 → completes (.progLoadComplete u)
    s fun t => (t.tile u).load = none ∧ t.fld (.tile u) Reg.PROG_LOAD_BUSY = 0 ∧ t.fld (.tile u) Reg.PROG_LOAD_RESULT
    = 1 ∧ s.raised t (.tile u) 2 ∧ s.erred t (.tile u) 0x0A ∧ (t.tile u).progs = (s.tile u).progs ∧ othersSame {}
    s.tiles t.tiles [u.val] ∧ s.changesOn t [.tiles, .tier, .out, .pcie, .pwr] [.tile u, .tier, .pcie, .pwr]) ∧
  (∀ (s : State) (u : TileId) (k src : Nat) (h : List Byte), s.works (.tile u) = true → ((s.tile u).load = some (k,
    src)) → s.tier.answers = [] → s.readable src 64 → h = s.rd src 64 → progHeaderOk h (s.word (Page.base (.tile u) +
    4)).toNat = true → s.readable (src + 64) (progHeader h).codeLen → (Map.get {} (s.tile u).progs k).codeLen ≠ 0 →
    (sha384 (s.rd (src + 64) (progHeader h).codeLen)).take 32 = (h.drop 32).take 32 → (131072 < ((s.tile
    u).progs.filter (fun e => e.1 != k)).foldl (fun n e => n + e.2.room) 0 + (progHeader h).room) → completes
    (.progLoadComplete u) s fun t => (t.tile u).load = none ∧ t.fld (.tile u) Reg.PROG_LOAD_BUSY = 0 ∧ t.fld (.tile
    u) Reg.PROG_LOAD_RESULT = 3 ∧ s.raised t (.tile u) 2 ∧ (t.tile u).progs = (s.tile u).progs ∧ othersSame {}
    s.tiles t.tiles [u.val] ∧ s.changesOn t [.tiles, .tier, .out, .pcie, .pwr] [.tile u, .tier, .pcie, .pwr]) ∧
  (∀ (s : State) (u : TileId) (k src : Nat) (h : List Byte), s.works (.tile u) = true → ((s.tile u).load = some (k,
    src)) → s.tier.answers = [] → s.readable src 64 → h = s.rd src 64 → (Map.get {} (s.tile u).progs k).codeLen = 0 →
    progHeaderOk h (s.word (Page.base (.tile u) + 4)).toNat = false → s.noParks → completes (.progLoadComplete u)
    s fun t => (t.tile u).load = none ∧ t.fld (.tile u) Reg.PROG_LOAD_BUSY = 0 ∧ t.fld (.tile u) Reg.PROG_LOAD_RESULT
    = 1 ∧ (∀ j : Fin 64, (s.slot u j).st = .waiting → tEngine (s.slot u j).desc = 1 → tProg (s.slot u j).desc = k →
    t.slot u j = {} ∧ Out.taskFailed u (tTask (s.slot u j).desc) 9 ∈ t.out ∧ (t.rs (partOf u) (s.slot u
    j).reqSlot).failed = true) ∧ (t.tile u).progs = (s.tile u).progs ∧ othersSame {} s.tiles t.tiles [u.val] ∧
    s.keeps t failComps) ∧
  (∀ (s : State) (u : TileId), s.works (.tile u) = false ∨ (s.tile u).load = none → completes (.progLoadComplete u)
    s fun t => t = s) ∧
  (∀ (s : State) (u : TileId) (i : Fin 64) (x : Slot) (d : BitVec 512) (e : BitVec 256) (b : BitVec 512), s.works
    (.tile u) = true → x = s.slot u i → d = x.desc → x.st = .running → tEngine d = 2 → x.attnDone = false →
    s.tier.answers = [] → s.spanOp u x 1 (tAux d * 32) 32 = .ok → s.spanOp u x 2 0 64 = .ok → (e = BitVec.ofNat 256
    (natOfBytes ((List.range 32).map fun j => s.opByte u x 1 (tAux d * 32 + j)))) → (b = BitVec.ofNat 512 (natOfBytes
    ((List.range 64).map fun j => s.opByte u x 2 (0 + j)))) →attnBad d e b = false → s.readableAll ((s.rawOperand u x
    1 [(tAux d * 32, 32)]).ranges ++ (s.rawOperand u x 2 [(0, 64)]).ranges ++
    [((attnOf e b).pageList / 64 * 64, (attnOf e b).listLen * 8)]) → (attnOf e b).pageList / 64 * 64 + (attnOf e
    b).listLen * 8 ≤ 2 ^ 47 → completes (.attnParamsLatched u i) s fun t => (t.slot u i =
    { x with attnDone := true, attnEntry := e, attnBlock := b, attnPages := (List.range (attnOf e b).listLen).map fun j => s.rdNat ((attnOf e b).pageList / 64 * 64 + j * 8) 8 % 2 ^ 47 })
    ∧ (∀ j : Fin 64, j ≠ i → t.slot u j = s.slot u j) ∧ othersSame {} s.tiles t.tiles [u.val] ∧ s.changes t
    [.tiles, .tier, .pwr, .out] [] storeCounts) ∧
  (∀ (s : State) (u : TileId) (i : Fin 64) (x : Slot) (d : BitVec 512) (e : BitVec 256) (b : BitVec 512), s.works
    (.tile u) = true → x = s.slot u i → d = x.desc → x.st = .running → tEngine d = 2 → x.attnDone = false →
    s.tier.answers = [] → s.spanOp u x 1 (tAux d * 32) 32 = .ok → s.spanOp u x 2 0 64 = .ok → (e = BitVec.ofNat 256
    (natOfBytes ((List.range 32).map fun j => s.opByte u x 1 (tAux d * 32 + j)))) → (b = BitVec.ofNat 512 (natOfBytes
    ((List.range 64).map fun j => s.opByte u x 2 (0 + j)))) →attnBad d e b = true → s.readableAll ((s.rawOperand u x
    1 [(tAux d * 32, 32)]).ranges ++ (s.rawOperand u x 2 [(0, 64)]).ranges) → s.noParks → completes
    (.attnParamsLatched u i) s fun t => s.taskFails t u i 5 ∧ s.keeps t failComps) ∧
  (∀ (s : State) (u : TileId) (i : Fin 64), s.works (.tile u) = false ∨ (s.slot u i).st ≠ .running ∨ tEngine (s.slot
    u i).desc ≠ 2 ∨ (s.slot u i).attnDone = true → completes (.attnParamsLatched u i) s fun t => t = s) ∧
  (∀ (s : State) (u : TileId) (run : TileRun) (x : Slot) (d : BitVec 512) (r : Nat) (old : MergeSlot) (n : Node) (m :
    MergeSlot), s.works (.tile u) = true → x = s.slot u run.i → d = x.desc → x.st = .running → tEngine d = 2 →
    x.attnDone = true → s.tier.answers = [] → old = Map.get {} (s.part (partOf u)).merge (tProg d) → old.st ≠
    .emitting →tDataflow d = false → (s.queryOp u x).fine = true → (∀ e ∈ s.keyPages x, e.2.2.fine = true) →
    s.readableAll ((s.queryOp u x).ranges ++ (s.keyPages x).flatMap fun e => e.2.2.ranges) → ((s.computeNode u x
    (s.queryOp u x).img (s.keyImgs x)).map (·.1)) = some n →(m = if old.st = .free then
    { st := .gathering, desc := d, ssBase := x.ssBase, tile := u.val, nb := x.attn.nb, hs := tHs d, target := tLdB d / 2 ^ tHs d, rowIndex := (List.range (tM d)).map x.attn.rowAt, tok := x.attn.tok }
    else old) →(n.entry == tAux d && n.dim == tN d && n.rows.length == tM d && mergeKey m.desc == mergeKey d &&
    fitsSlot m.hs m.target m.nodes n) = true → completes (.mergeNodeArrive u run r) s fun t => t.slot u run.i =
    { x with st := .merging } ∧ ((Map.get {} (t.part (partOf u)).merge (tProg d)) =
    { m with nodes := settleNodes m.nb m.hs (2 * (m.nodes.length + 1) + m.hs + 1) (n :: m.nodes), tasks := m.tasks.filter (· ≠ (u.val, run.i.val)) ++ [(u.val, run.i.val)], st := if (settleNodes m.nb m.hs (2 * (m.nodes.length + 1) + m.hs + 1) (n :: m.nodes)).any (fun o => o.level == m.hs) then .emitting else .gathering })
    ∧ othersSame {} (s.part (partOf u)).merge (t.part (partOf u)).merge [tProg d] ∧ othersSame {} s.parts t.parts
    [(partOf u).val] ∧ othersSame {} s.tiles t.tiles [u.val] ∧ s.ran t u run ∧ s.changes t
    [.tiles, .parts, .tier, .pwr, .out] [] (storeCounts ++ ranCounts u ++ [0xA0, 0xA8, 0xB8, 0xC0].map (fun o =>
    ((Page.tile u : Page), o)) ++ [0x80, 0x88, 0xA0, 0xB0].map fun o => ((Page.codec : Page), o))) ∧
  (∀ (s : State) (u : TileId) (run : TileRun) (x : Slot) (d : BitVec 512) (r : Nat) (old : MergeSlot) (n : Node) (m :
    MergeSlot), s.works (.tile u) = true → x = s.slot u run.i → d = x.desc → x.st = .running → tEngine d = 2 →
    x.attnDone = true → s.tier.answers = [] → old = Map.get {} (s.part (partOf u)).merge (tProg d) → old.st ≠
    .emitting →tDataflow d = true → r = x.injected → (s.recordOp u x r).fine = true → s.readableAll (s.recordOp u x
    r).ranges → (n = nodeOf (tN d) (tM d) fun j => (s.recordOp u x r).img (r * (64 + tM d * recordStride (tN d)) +
    j)) →(m = if old.st = .free then
    { st := .gathering, desc := d, ssBase := x.ssBase, tile := u.val, nb := x.attn.nb, hs := tHs d, target := tLdB d / 2 ^ tHs d, rowIndex := (List.range (tM d)).map x.attn.rowAt, tok := x.attn.tok }
    else old) →(n.entry == tAux d && n.dim == tN d && n.rows.length == tM d && mergeKey m.desc == mergeKey d &&
    fitsSlot m.hs m.target m.nodes n) = true → completes (.mergeNodeArrive u run r) s fun t => (t.slot u run.i =
    { x with injected := r + 1, st := if r + 1 = tK d then .merging else .running }) ∧ ((Map.get {} (t.part (partOf
    u)).merge (tProg d)) =
    { m with nodes := settleNodes m.nb m.hs (2 * (m.nodes.length + 1) + m.hs + 1) (n :: m.nodes), tasks := m.tasks.filter (· ≠ (u.val, run.i.val)) ++ [(u.val, run.i.val)], st := if (settleNodes m.nb m.hs (2 * (m.nodes.length + 1) + m.hs + 1) (n :: m.nodes)).any (fun o => o.level == m.hs) then .emitting else .gathering })
    ∧ othersSame {} (s.part (partOf u)).merge (t.part (partOf u)).merge [tProg d] ∧ othersSame {} s.parts t.parts
    [(partOf u).val] ∧ othersSame {} s.tiles t.tiles [u.val] ∧ s.ran t u run ∧ s.changes t
    [.tiles, .parts, .tier, .pwr, .out] [] (storeCounts ++ ranCounts u ++ [0x80, 0x88, 0xA0, 0xB0].map fun o =>
    ((Page.codec : Page), o))) ∧
  (∀ (s : State) (u : TileId) (run : TileRun) (x : Slot) (d : BitVec 512) (r : Nat) (old : MergeSlot) (n : Node) (m :
    MergeSlot), s.works (.tile u) = true → x = s.slot u run.i → d = x.desc → x.st = .running → tEngine d = 2 →
    x.attnDone = true → s.tier.answers = [] → old = Map.get {} (s.part (partOf u)).merge (tProg d) → old.st ≠
    .emitting →tDataflow d = true → r = x.injected → (s.recordOp u x r).fine = true → s.readableAll (s.recordOp u x
    r).ranges → (n = nodeOf (tN d) (tM d) fun j => (s.recordOp u x r).img (r * (64 + tM d * recordStride (tN d)) +
    j)) →(m = if old.st = .free then
    { st := .gathering, desc := d, ssBase := x.ssBase, tile := u.val, nb := x.attn.nb, hs := tHs d, target := tLdB d / 2 ^ tHs d, rowIndex := (List.range (tM d)).map x.attn.rowAt, tok := x.attn.tok }
    else old) →(n.entry == tAux d && n.dim == tN d && n.rows.length == tM d && mergeKey m.desc == mergeKey d &&
    fitsSlot m.hs m.target m.nodes n) = false → s.noParks → completes (.mergeNodeArrive u run r) s fun t =>
    s.taskFails t u run.i 5 ∧ (∀ k : Fin 256, Map.get {} (t.part (partOf u)).merge k.val =
    { Map.get {} (s.part (partOf u)).merge k.val with tasks := (Map.get {} (s.part (partOf u)).merge k.val).tasks.filter (· ≠ (u.val, run.i.val)) })
    ∧ s.ran t u run ∧ s.keeps t failComps) ∧
  (∀ (s : State) (u : TileId) (run : TileRun) (x : Slot) (d : BitVec 512) (r : Nat) (old : MergeSlot) (n : Node) (m :
    MergeSlot), s.works (.tile u) = true → x = s.slot u run.i → d = x.desc → x.st = .running → tEngine d = 2 →
    x.attnDone = true → s.tier.answers = [] → old = Map.get {} (s.part (partOf u)).merge (tProg d) → old.st ≠
    .emitting →tDataflow d = false → (s.queryOp u x).fine = true → (∀ e ∈ s.keyPages x, e.2.2.fine = true) →
    s.readableAll ((s.queryOp u x).ranges ++ (s.keyPages x).flatMap fun e => e.2.2.ranges) → ((s.computeNode u x
    (s.queryOp u x).img (s.keyImgs x)).map (·.1)) = some n →(m = if old.st = .free then
    { st := .gathering, desc := d, ssBase := x.ssBase, tile := u.val, nb := x.attn.nb, hs := tHs d, target := tLdB d / 2 ^ tHs d, rowIndex := (List.range (tM d)).map x.attn.rowAt, tok := x.attn.tok }
    else old) →(n.entry == tAux d && n.dim == tN d && n.rows.length == tM d && mergeKey m.desc == mergeKey d &&
    fitsSlot m.hs m.target m.nodes n) = false → s.noParks → completes (.mergeNodeArrive u run r) s fun t =>
    s.taskFails t u run.i 5 ∧ (∀ k : Fin 256, Map.get {} (t.part (partOf u)).merge k.val =
    { Map.get {} (s.part (partOf u)).merge k.val with tasks := (Map.get {} (s.part (partOf u)).merge k.val).tasks.filter (· ≠ (u.val, run.i.val)) })
    ∧ s.ran t u run ∧ s.keeps t failComps) ∧
  (∀ (s : State) (u : TileId) (run : TileRun) (r : Nat), s.works (.tile u) = false ∨ (s.slot u run.i).st ≠ .running ∨
    tEngine (s.slot u run.i).desc ≠ 2 ∨ (s.slot u run.i).attnDone = false ∨ (Map.get {} (s.part (partOf u)).merge
    (tProg (s.slot u run.i).desc)).st = .emitting ∨ tDataflow (s.slot u run.i).desc = true ∧ r ≠ (s.slot u
    run.i).injected → completes (.mergeNodeArrive u run r) s fun t => t = s) ∧
  (∀ (s : State) (p : PartId) (k : Fin 256) (m : MergeSlot) (n : Node) (rows : List (Nat × List Byte)), s.works
    (.disp p) = true → m = Map.get {} (s.part p).merge k.val → m.st = .emitting → m.wrote = false → s.tierIdle →
    (m.nodes.find? (fun n => n.level == m.hs) = some n) → (m.root = true → tFmtOut m.desc ≠ 0xB) → rows = m.rows n →
    (((m.dest p k).state = true ∧ ∀ w ∈ rows, (m.dest p k).base + w.1 + w.2.length ≤ 2 ^ 47 ∧ s.writable ((m.dest p
    k).base + w.1) w.2.length = true) ∨ ((m.dest p k).state = false ∧ s.works (.tile (m.dest p k).tile) = true ∧ ∀ w
    ∈ rows, (m.dest p k).base + w.1 + w.2.length ≤ sramSize ∧ s.badWord (m.dest p k).tile ((m.dest p k).base + w.1)
    w.2.length = none)) → (∀ e ∈ m.tasks, tEvt (s.slot (Fin.ofNat 256 e.1) (Fin.ofNat 64 e.2)).desc = 0) → completes
    (.mergeEmitDone p k) s fun t => Map.get {} (t.part p).merge k.val = {} ∧ (∀ e ∈ m.tasks, (s.slot (Fin.ofNat 256
    e.1) (Fin.ofNat 64 e.2)).st = .merging → t.slot (Fin.ofNat 256 e.1) (Fin.ofNat 64 e.2) = {} ∧ Out.taskDone
    (Fin.ofNat 256 e.1) (tTask (s.slot (Fin.ofNat 256 e.1) (Fin.ofNat 64 e.2)).desc) ∈ t.out) ∧ (if (m.dest p
    k).state then t.mem = rows.foldl (fun z w => Map.store z ((m.dest p k).base + w.1) w.2) s.mem ∧ t.sram = s.sram
    else t.mem = s.mem ∧ t.sram = rows.foldl (fun z w => Map.store z (sramAddr (m.dest p k).tile ((m.dest p k).base +
    w.1)) w.2) s.sram) ∧ othersSame {} s.parts t.parts [p.val] ∧ s.keeps t
    [.tiles, .parts, .sram, .out, .cnt, .tier, .pwr, .mem, .digs]) ∧
  (∀ (s : State) (p : PartId) (k : Fin 256) (m : MergeSlot), s.works (.disp p) = true → m = Map.get {} (s.part
    p).merge k.val → m.st = .emitting → m.wrote = true → s.tierIdle → (∀ e ∈ m.tasks, tEvt (s.slot (Fin.ofNat 256
    e.1) (Fin.ofNat 64 e.2)).desc = 0) → completes (.mergeEmitDone p k) s fun t => Map.get {} (t.part p).merge k.val
    = {} ∧ (∀ e ∈ m.tasks, (s.slot (Fin.ofNat 256 e.1) (Fin.ofNat 64 e.2)).st = .merging → t.slot (Fin.ofNat 256 e.1)
    (Fin.ofNat 64 e.2) = {} ∧ Out.taskDone (Fin.ofNat 256 e.1) (tTask (s.slot (Fin.ofNat 256 e.1) (Fin.ofNat 64
    e.2)).desc) ∈ t.out) ∧ othersSame {} s.parts t.parts [p.val] ∧ s.keeps t [.tiles, .parts, .out, .cnt]) ∧
  (∀ (s : State) (p : PartId) (k : Fin 256), s.works (.disp p) = false ∨ (Map.get {} (s.part p).merge k.val).st ≠
    .emitting → completes (.mergeEmitDone p k) s fun t => t = s)

/-- POWER_ON_RESET and PWR_GOOD_FALL lose every volatile thing and leave every register at its reset value with
RSTC_CAUSE; flash, fuses and the ledger stay. RESET_N_ASSERT, an unscoped PERST_ASSERT, DEV_RST with key 0xD5, the
loss of MCLK or KCLK and THERMAL_TRIP take a warm reset: reached pages return to reset values, requests, SRAM, QPs
and fences are gone, while memory, the TIER, RSTC, PWR, CLK, SYNC and TIME pages and RECOVERY_NEXT stay. During a
ledger write the reset waits, the earlier cause first. Nothing else changes. On points the spec leaves open it
states the model's choices (notes/assumptions/41). -/
def Obligations.ResetsRestartTheDevice : Prop :=
  (∀ (s : State), completes (.powerOnReset) s fun t => (t.out = s.out ∧ t.fresh = s.fresh ∧ t.now = 0) ∧ (t.mem = []
    ∧ t.sram = [] ∧ t.cnt = [] ∧ t.shadow = [] ∧ t.tier = {} ∧ t.tenants = [] ∧ t.reqs = [] ∧ t.convs = [] ∧ t.qps =
    [] ∧ t.regions = [] ∧ t.qrm = {} ∧ t.pwr = {} ∧ t.pcie = {}) ∧ t.fld .rstc Reg.RSTC_CAUSE_CAUSE = 1 ∧ (∀ a, a <
    Page.base .rstc ∨ Page.base .rstc + 0x1000 ≤ a → t.word a = keptWord (a % 4096) (s.word a) (Reg.resetWord
    s.fuses.binB a)) ∧ (∀ pg ∈ Page.all, t.ready pg = false) ∧ t.ledger = { s.ledger with writing := [] } ∧ t.rst =
    { resetLow := s.rst.resetLow, perstLow := s.rst.perstLow } ∧ (t.wlh.flash = s.wlh.flash ∧ t.wlh.stA = s.wlh.stA ∧
    t.wlh.stB = s.wlh.stB) ∧ s.keeps t
    [.fresh, .out, .regs, .cnt, .shadow, .mem, .sram, .sramBad, .tiles, .parts, .movers, .tenants, .reqs, .convs, .tier, .rrc, .engines, .regions, .qps, .ports, .finj, .srch, .units, .digs, .elog, .qrm, .pwr, .rst, .wlh, .uart, .pcie, .now, .sync, .ledger]) ∧
  (∀ (s : State), s.rst.pwrGood = true → s.ledger.writing = [] → completes (.pwrGoodFall) s fun t => (t.out = s.out ∧
    t.fresh = s.fresh ∧ t.now = 0) ∧ (t.mem = [] ∧ t.sram = [] ∧ t.cnt = [] ∧ t.shadow = [] ∧ t.tier = {} ∧ t.tenants
    = [] ∧ t.reqs = [] ∧ t.convs = [] ∧ t.qps = [] ∧ t.regions = [] ∧ t.qrm = {} ∧ t.pwr = {} ∧ t.pcie = {}) ∧ t.fld
    .rstc Reg.RSTC_CAUSE_CAUSE = 2 ∧ (∀ a, a < Page.base .rstc ∨ Page.base .rstc + 0x1000 ≤ a → t.word a = keptWord
    (a % 4096) (s.word a) (Reg.resetWord s.fuses.binB a)) ∧ (∀ pg ∈ Page.all, t.ready pg = false) ∧ t.ledger =
    { s.ledger with writing := [] } ∧ t.rst = { resetLow := s.rst.resetLow, perstLow := s.rst.perstLow } ∧
    (t.wlh.flash = s.wlh.flash ∧ t.wlh.stA = s.wlh.stA ∧ t.wlh.stB = s.wlh.stB) ∧ s.keeps t
    [.fresh, .out, .regs, .cnt, .shadow, .mem, .sram, .sramBad, .tiles, .parts, .movers, .tenants, .reqs, .convs, .tier, .rrc, .engines, .regions, .qps, .ports, .finj, .srch, .units, .digs, .elog, .qrm, .pwr, .rst, .wlh, .uart, .pcie, .now, .sync, .ledger]) ∧
  (∀ (s : State), s.rst.pwrGood = false → completes (.pwrGoodFall) s fun t => t = s) ∧
  (∀ (s : State), s.rst.pwrGood = true → s.ledger.writing ≠ [] → completes (.pwrGoodFall) s fun t => (t.rst =
    { s.rst with pwrGood := false, waiting := some (match s.rst.waiting with | some k => min k 2 | none => 2) }) ∧
    s.changes t [.rst] [] [(.rstc, 0x90)]) ∧
  (∀ (s : State), s.rst.resetLow = false → s.ledger.writing = [] → (∀ m ∈ s.tier.migs, m.kind = .localMove) →
    completes (.resetNAssert) s fun t => (t.reqs = [] ∧ t.convs = [] ∧ t.movers = [] ∧ t.parts = [] ∧ t.tiles = [] ∧
    t.engines = [] ∧ t.qps = [] ∧ t.ports = []) ∧ (t.sram = [] ∧ t.sramBad = [] ∧ t.regions = [] ∧ t.rrc = [] ∧
    t.finj = {} ∧ t.srch = {} ∧ t.units = [] ∧ t.digs = [] ∧ t.elog = {} ∧ t.qrm = {} ∧ t.uart = {}) ∧ (t.fld .rstc
    Reg.RSTC_CAUSE_CAUSE = 3 ∧ t.fld .rstc Reg.RSTC_CAUSE_INSTANCE = 0 ∧ t.fld .rstc Reg.RSTC_CAUSE_TIME_TIME = s.now
    % 2 ^ 64) ∧ s.counted t .rstc 0x98 ∧ (∀ p : PartId, t.fenced p = false) ∧ t.fld .wlh
    Reg.WLH_IMG_CTRL_RECOVERY_NEXT = s.fld .wlh Reg.WLH_IMG_CTRL_RECOVERY_NEXT ∧ t.wlh.flash = s.wlh.flash ∧ (∀ a pg,
    Page.at a = some pg → warmReaches 3 pg = true → pg ∉ [.dev, .pin, .ledg, .uart, .wlh] → t.word a = Reg.resetWord
    s.fuses.binB a ∧ Map.get 0 t.cnt a = 0) ∧ (t.mem = s.mem ∧ t.tier.pages = s.tier.pages ∧ t.tier.dirs =
    s.tier.dirs ∧ t.tier.frames = s.tier.frames) ∧ (∀ a pg, Page.at a = some pg → warmReaches 3 pg = false → pg ≠
    .rstc → t.word a = s.word a ∧ Map.get 0 t.cnt a = Map.get 0 s.cnt a) ∧ t.rst.resetLow = true ∧ (∀ pg ∈
    [Page.dev, .pin, .ledg, .uart, .wlh], t.ready pg = false) ∧ s.keeps t
    [.fresh, .out, .regs, .cnt, .shadow, .mem, .sram, .sramBad, .tiles, .parts, .movers, .tenants, .reqs, .convs, .tier, .rrc, .engines, .regions, .qps, .ports, .finj, .srch, .units, .digs, .elog, .qrm, .pwr, .rst, .wlh, .uart, .pcie]) ∧
  (∀ (s : State), s.rst.resetLow = false → s.ledger.writing = [] → completes (.resetNAssert) s fun t => (t.reqs = []
    ∧ t.convs = [] ∧ t.movers = [] ∧ t.parts = [] ∧ t.tiles = [] ∧ t.engines = [] ∧ t.qps = [] ∧ t.ports = []) ∧
    (t.sram = [] ∧ t.sramBad = [] ∧ t.regions = [] ∧ t.rrc = [] ∧ t.finj = {} ∧ t.srch = {} ∧ t.units = [] ∧ t.digs =
    [] ∧ t.elog = {} ∧ t.qrm = {} ∧ t.uart = {}) ∧ (t.fld .rstc Reg.RSTC_CAUSE_CAUSE = 3 ∧ t.fld .rstc
    Reg.RSTC_CAUSE_INSTANCE = 0 ∧ t.fld .rstc Reg.RSTC_CAUSE_TIME_TIME = s.now % 2 ^ 64) ∧ s.counted t .rstc 0x98 ∧
    (∀ p : PartId, t.fenced p = false) ∧ t.fld .wlh Reg.WLH_IMG_CTRL_RECOVERY_NEXT = s.fld .wlh
    Reg.WLH_IMG_CTRL_RECOVERY_NEXT ∧ t.wlh.flash = s.wlh.flash ∧ (∀ a pg, Page.at a = some pg → warmReaches 3 pg =
    true → pg ∉ [.dev, .pin, .ledg, .uart, .wlh] → t.word a = Reg.resetWord s.fuses.binB a ∧ Map.get 0 t.cnt a = 0) ∧
    t.rst.resetLow = true ∧ (∀ pg ∈ [Page.dev, .pin, .ledg, .uart, .wlh], t.ready pg = false) ∧ s.keeps t
    [.fresh, .out, .regs, .cnt, .shadow, .mem, .sram, .sramBad, .tiles, .parts, .movers, .tenants, .reqs, .convs, .tier, .rrc, .engines, .regions, .qps, .ports, .finj, .srch, .units, .digs, .elog, .qrm, .pwr, .rst, .wlh, .uart, .pcie]) ∧
  (∀ (s : State), s.rst.resetLow = false → s.ledger.writing ≠ [] → completes (.resetNAssert) s fun t => (t.rst =
    { s.rst with resetLow := true, waiting := some (match s.rst.waiting with | some k => min k 3 | none => 3) }) ∧
    s.changes t [.rst] [] [(.rstc, 0x90)]) ∧
  (∀ (s : State), s.rst.resetLow = true → completes (.resetNAssert) s fun t => t = s) ∧
  (∀ (s : State), s.rst.perstLow = false → s.flag .rstc Reg.RSTC_CTRL_PERST_SCOPE = false → s.ledger.writing = [] →
    (∀ m ∈ s.tier.migs, m.kind = .localMove) → completes (.perstAssert) s fun t => (t.reqs = [] ∧ t.convs = [] ∧
    t.movers = [] ∧ t.parts = [] ∧ t.tiles = [] ∧ t.engines = [] ∧ t.qps = [] ∧ t.ports = []) ∧ (t.sram = [] ∧
    t.sramBad = [] ∧ t.regions = [] ∧ t.rrc = [] ∧ t.finj = {} ∧ t.srch = {} ∧ t.units = [] ∧ t.digs = [] ∧ t.elog =
    {} ∧ t.qrm = {} ∧ t.uart = {}) ∧ (t.fld .rstc Reg.RSTC_CAUSE_CAUSE = 4 ∧ t.fld .rstc Reg.RSTC_CAUSE_INSTANCE = 0
    ∧ t.fld .rstc Reg.RSTC_CAUSE_TIME_TIME = s.now % 2 ^ 64) ∧ s.counted t .rstc 0x98 ∧ (∀ p : PartId, t.fenced p =
    false) ∧ t.fld .wlh Reg.WLH_IMG_CTRL_RECOVERY_NEXT = s.fld .wlh Reg.WLH_IMG_CTRL_RECOVERY_NEXT ∧ t.wlh.flash =
    s.wlh.flash ∧ (∀ a pg, Page.at a = some pg → warmReaches 4 pg = true → pg ∉ [.dev, .pin, .ledg, .uart, .wlh] →
    t.word a = Reg.resetWord s.fuses.binB a ∧ Map.get 0 t.cnt a = 0) ∧ (t.mem = s.mem ∧ t.tier.pages = s.tier.pages ∧
    t.tier.dirs = s.tier.dirs ∧ t.tier.frames = s.tier.frames) ∧ (∀ a pg, Page.at a = some pg → warmReaches 4 pg =
    false → pg ≠ .rstc → t.word a = s.word a ∧ Map.get 0 t.cnt a = Map.get 0 s.cnt a) ∧ t.rst.perstLow = true ∧
    s.keeps t
    [.fresh, .out, .regs, .cnt, .shadow, .mem, .sram, .sramBad, .tiles, .parts, .movers, .tenants, .reqs, .convs, .tier, .rrc, .engines, .regions, .qps, .ports, .finj, .srch, .units, .digs, .elog, .qrm, .pwr, .rst, .wlh, .uart, .pcie]) ∧
  (∀ (s : State), s.rst.perstLow = false → s.flag .rstc Reg.RSTC_CTRL_PERST_SCOPE = false → s.ledger.writing = [] →
    completes (.perstAssert) s fun t => (t.reqs = [] ∧ t.convs = [] ∧ t.movers = [] ∧ t.parts = [] ∧ t.tiles = [] ∧
    t.engines = [] ∧ t.qps = [] ∧ t.ports = []) ∧ (t.sram = [] ∧ t.sramBad = [] ∧ t.regions = [] ∧ t.rrc = [] ∧
    t.finj = {} ∧ t.srch = {} ∧ t.units = [] ∧ t.digs = [] ∧ t.elog = {} ∧ t.qrm = {} ∧ t.uart = {}) ∧ (t.fld .rstc
    Reg.RSTC_CAUSE_CAUSE = 4 ∧ t.fld .rstc Reg.RSTC_CAUSE_INSTANCE = 0 ∧ t.fld .rstc Reg.RSTC_CAUSE_TIME_TIME = s.now
    % 2 ^ 64) ∧ s.counted t .rstc 0x98 ∧ (∀ p : PartId, t.fenced p = false) ∧ t.fld .wlh
    Reg.WLH_IMG_CTRL_RECOVERY_NEXT = s.fld .wlh Reg.WLH_IMG_CTRL_RECOVERY_NEXT ∧ t.wlh.flash = s.wlh.flash ∧ (∀ a pg,
    Page.at a = some pg → warmReaches 4 pg = true → pg ∉ [.dev, .pin, .ledg, .uart, .wlh] → t.word a = Reg.resetWord
    s.fuses.binB a ∧ Map.get 0 t.cnt a = 0) ∧ t.rst.perstLow = true ∧ s.keeps t
    [.fresh, .out, .regs, .cnt, .shadow, .mem, .sram, .sramBad, .tiles, .parts, .movers, .tenants, .reqs, .convs, .tier, .rrc, .engines, .regions, .qps, .ports, .finj, .srch, .units, .digs, .elog, .qrm, .pwr, .rst, .wlh, .uart, .pcie]) ∧
  (∀ (s : State), s.rst.perstLow = false → s.flag .rstc Reg.RSTC_CTRL_PERST_SCOPE = true → completes (.perstAssert)
    s fun t => t.pcie = {} ∧ t.rst = { s.rst with perstLow := true } ∧ t.fld .rstc Reg.RSTC_CAUSE_CAUSE = 4 ∧ (∀ n :
    TenId, (t.ten n).waiting = (s.ten n).waiting ∧ (t.ten n).en = false) ∧ (∀ a, Page.at a = some .pcie → t.word a =
    keptWord (a % 4096) (s.word a) (Reg.resetWord s.fuses.binB a)) ∧ (∀ a pg, Page.at a = some pg → pg ≠ .pcie → pg ≠
    .rstc → t.word a = s.word a ∧ Map.get 0 t.cnt a = Map.get 0 s.cnt a) ∧ t.tier.pages = s.tier.pages ∧ s.keeps t
    [.regs, .cnt, .shadow, .rst, .pcie, .tenants, .tier]) ∧
  (∀ (s : State), s.rst.perstLow = true → completes (.perstAssert) s fun t => t = s) ∧
  (∀ (s : State) (key : Byte), s.ready .rstc = true → key = 0xD5 → s.ledger.writing = [] → (∀ m ∈ s.tier.migs, m.kind
    = .localMove) → completes (.devRst key) s fun t => (t.reqs = [] ∧ t.convs = [] ∧ t.movers = [] ∧ t.parts = [] ∧
    t.tiles = [] ∧ t.engines = [] ∧ t.qps = [] ∧ t.ports = []) ∧ (t.sram = [] ∧ t.sramBad = [] ∧ t.regions = [] ∧
    t.rrc = [] ∧ t.finj = {} ∧ t.srch = {} ∧ t.units = [] ∧ t.digs = [] ∧ t.elog = {} ∧ t.qrm = {} ∧ t.uart = {}) ∧
    (t.fld .rstc Reg.RSTC_CAUSE_CAUSE = 6 ∧ t.fld .rstc Reg.RSTC_CAUSE_INSTANCE = 0 ∧ t.fld .rstc
    Reg.RSTC_CAUSE_TIME_TIME = s.now % 2 ^ 64) ∧ s.counted t .rstc 0x98 ∧ (∀ p : PartId, t.fenced p = false) ∧ t.fld
    .wlh Reg.WLH_IMG_CTRL_RECOVERY_NEXT = s.fld .wlh Reg.WLH_IMG_CTRL_RECOVERY_NEXT ∧ t.wlh.flash = s.wlh.flash ∧ (∀
    a pg, Page.at a = some pg → warmReaches 6 pg = true → pg ∉ [.dev, .pin, .ledg, .uart, .wlh] → t.word a =
    Reg.resetWord s.fuses.binB a ∧ Map.get 0 t.cnt a = 0) ∧ (t.mem = s.mem ∧ t.tier.pages = s.tier.pages ∧
    t.tier.dirs = s.tier.dirs ∧ t.tier.frames = s.tier.frames) ∧ (∀ a pg, Page.at a = some pg → warmReaches 6 pg =
    false → pg ≠ .rstc → t.word a = s.word a ∧ Map.get 0 t.cnt a = Map.get 0 s.cnt a) ∧ t.pcie = s.pcie ∧
    (t.tenants.map (·.1)) = (s.tenants.map (·.1)) ∧ s.keeps t
    [.fresh, .out, .regs, .cnt, .shadow, .mem, .sram, .sramBad, .tiles, .parts, .movers, .tenants, .reqs, .convs, .tier, .rrc, .engines, .regions, .qps, .ports, .finj, .srch, .units, .digs, .elog, .qrm, .pwr, .rst, .wlh, .uart, .pcie]) ∧
  (∀ (s : State) (key : Byte), s.ready .rstc = true → key = 0xD5 → s.ledger.writing = [] → completes (.devRst key)
    s fun t => (t.reqs = [] ∧ t.convs = [] ∧ t.movers = [] ∧ t.parts = [] ∧ t.tiles = [] ∧ t.engines = [] ∧ t.qps =
    [] ∧ t.ports = []) ∧ (t.sram = [] ∧ t.sramBad = [] ∧ t.regions = [] ∧ t.rrc = [] ∧ t.finj = {} ∧ t.srch = {} ∧
    t.units = [] ∧ t.digs = [] ∧ t.elog = {} ∧ t.qrm = {} ∧ t.uart = {}) ∧ (t.fld .rstc Reg.RSTC_CAUSE_CAUSE = 6 ∧
    t.fld .rstc Reg.RSTC_CAUSE_INSTANCE = 0 ∧ t.fld .rstc Reg.RSTC_CAUSE_TIME_TIME = s.now % 2 ^ 64) ∧ s.counted t
    .rstc 0x98 ∧ (∀ p : PartId, t.fenced p = false) ∧ t.fld .wlh Reg.WLH_IMG_CTRL_RECOVERY_NEXT = s.fld .wlh
    Reg.WLH_IMG_CTRL_RECOVERY_NEXT ∧ t.wlh.flash = s.wlh.flash ∧ (∀ a pg, Page.at a = some pg → warmReaches 6 pg =
    true → pg ∉ [.dev, .pin, .ledg, .uart, .wlh] → t.word a = Reg.resetWord s.fuses.binB a ∧ Map.get 0 t.cnt a = 0) ∧
    t.pcie = s.pcie ∧ (t.tenants.map (·.1)) = (s.tenants.map (·.1)) ∧ s.keeps t
    [.fresh, .out, .regs, .cnt, .shadow, .mem, .sram, .sramBad, .tiles, .parts, .movers, .tenants, .reqs, .convs, .tier, .rrc, .engines, .regions, .qps, .ports, .finj, .srch, .units, .digs, .elog, .qrm, .pwr, .rst, .wlh, .uart, .pcie]) ∧
  (∀ (s : State) (key : Byte), s.ready .rstc = true → key = 0xD5 → s.ledger.writing ≠ [] → completes (.devRst key)
    s fun t => (t.rst = { s.rst with waiting := some (match s.rst.waiting with | some k => min k 6 | none => 6) }) ∧
    s.changes t [.rst] [] [(.rstc, 0x90)]) ∧
  (∀ (s : State) (key : Byte), s.ready .rstc = true → key ≠ 0xD5 → completes (.devRst key) s fun t => s.erred t .rstc
    2 ∧ s.changes t [] (errPlaces .rstc) (errCounts .rstc)) ∧
  (∀ (s : State) (key : Byte), s.ready .rstc = false → completes (.devRst key) s fun t => t = s) ∧
  (∀ (s : State) (temp : Int) (sensor : Fin 256), 920 ≤ temp → s.rst.thermHeld = false → s.ledger.writing = [] → (∀ m
    ∈ s.tier.migs, m.kind = .localMove) → completes (.thermalTrip temp sensor) s fun t => (t.reqs = [] ∧ t.convs = []
    ∧ t.movers = [] ∧ t.parts = [] ∧ t.tiles = [] ∧ t.engines = [] ∧ t.qps = [] ∧ t.ports = []) ∧ (t.sram = [] ∧
    t.sramBad = [] ∧ t.regions = [] ∧ t.rrc = [] ∧ t.finj = {} ∧ t.srch = {} ∧ t.units = [] ∧ t.digs = [] ∧ t.elog =
    {} ∧ t.qrm = {} ∧ t.uart = {}) ∧ (t.fld .rstc Reg.RSTC_CAUSE_CAUSE = 7 ∧ t.fld .rstc Reg.RSTC_CAUSE_INSTANCE = 0
    ∧ t.fld .rstc Reg.RSTC_CAUSE_TIME_TIME = s.now % 2 ^ 64) ∧ s.counted t .rstc 0x98 ∧ (∀ p : PartId, t.fenced p =
    false) ∧ t.fld .wlh Reg.WLH_IMG_CTRL_RECOVERY_NEXT = s.fld .wlh Reg.WLH_IMG_CTRL_RECOVERY_NEXT ∧ t.wlh.flash =
    s.wlh.flash ∧ (∀ a pg, Page.at a = some pg → warmReaches 7 pg = true → pg ∉ [.dev, .pin, .ledg, .uart, .wlh] →
    t.word a = Reg.resetWord s.fuses.binB a ∧ Map.get 0 t.cnt a = 0) ∧ (t.mem = s.mem ∧ t.tier.pages = s.tier.pages ∧
    t.tier.dirs = s.tier.dirs ∧ t.tier.frames = s.tier.frames) ∧ t.rst.thermHeld = true ∧ Out.thermtrip true ∈ t.out
    ∧ s.keeps t
    [.fresh, .out, .regs, .cnt, .shadow, .mem, .sram, .sramBad, .tiles, .parts, .movers, .tenants, .reqs, .convs, .tier, .rrc, .engines, .regions, .qps, .ports, .finj, .srch, .units, .digs, .elog, .qrm, .pwr, .rst, .wlh, .uart, .pcie]) ∧
  (∀ (s : State) (temp : Int) (sensor : Fin 256), 920 ≤ temp → s.rst.thermHeld = false → s.ledger.writing = [] →
    completes (.thermalTrip temp sensor) s fun t => (t.reqs = [] ∧ t.convs = [] ∧ t.movers = [] ∧ t.parts = [] ∧
    t.tiles = [] ∧ t.engines = [] ∧ t.qps = [] ∧ t.ports = []) ∧ (t.sram = [] ∧ t.sramBad = [] ∧ t.regions = [] ∧
    t.rrc = [] ∧ t.finj = {} ∧ t.srch = {} ∧ t.units = [] ∧ t.digs = [] ∧ t.elog = {} ∧ t.qrm = {} ∧ t.uart = {}) ∧
    (t.fld .rstc Reg.RSTC_CAUSE_CAUSE = 7 ∧ t.fld .rstc Reg.RSTC_CAUSE_INSTANCE = 0 ∧ t.fld .rstc
    Reg.RSTC_CAUSE_TIME_TIME = s.now % 2 ^ 64) ∧ s.counted t .rstc 0x98 ∧ (∀ p : PartId, t.fenced p = false) ∧ t.fld
    .wlh Reg.WLH_IMG_CTRL_RECOVERY_NEXT = s.fld .wlh Reg.WLH_IMG_CTRL_RECOVERY_NEXT ∧ t.wlh.flash = s.wlh.flash ∧ (∀
    a pg, Page.at a = some pg → warmReaches 7 pg = true → pg ∉ [.dev, .pin, .ledg, .uart, .wlh] → t.word a =
    Reg.resetWord s.fuses.binB a ∧ Map.get 0 t.cnt a = 0) ∧ t.rst.thermHeld = true ∧ Out.thermtrip true ∈ t.out ∧
    s.keeps t
    [.fresh, .out, .regs, .cnt, .shadow, .mem, .sram, .sramBad, .tiles, .parts, .movers, .tenants, .reqs, .convs, .tier, .rrc, .engines, .regions, .qps, .ports, .finj, .srch, .units, .digs, .elog, .qrm, .pwr, .rst, .wlh, .uart, .pcie]) ∧
  (∀ (s : State) (temp : Int) (sensor : Fin 256), temp < 920 ∨ s.rst.thermHeld = true → completes (.thermalTrip temp
    sensor) s fun t => s.changes t [] [Reg.PWR_TEMP_MAX.place .pwr, Reg.PWR_TEMP_SENSOR.place .pwr] []) ∧
  (∀ (s : State) (temp : Int) (sensor : Fin 256), 920 ≤ temp → s.rst.thermHeld = false → s.ledger.writing ≠ [] →
    completes (.thermalTrip temp sensor) s fun t => (t.rst =
    { s.rst with thermHeld := true, waiting := some (match s.rst.waiting with | some k => min k 7 | none => 7) }) ∧
    Out.thermtrip true ∈ t.out ∧ s.changes t [.rst, .out]
    [Reg.PWR_TEMP_MAX.place .pwr, Reg.PWR_TEMP_SENSOR.place .pwr] [(.rstc, 0x90)]) ∧
  (∀ (s : State) (l : Pll), l = .mclk ∨ l = .kclk → l ∉ s.rst.lost → s.ledger.writing = [] → (∀ m ∈ s.tier.migs,
    m.kind = .localMove) → completes (.pllLockLoss l) s fun t => (t.reqs = [] ∧ t.convs = [] ∧ t.movers = [] ∧
    t.parts = [] ∧ t.tiles = [] ∧ t.engines = [] ∧ t.qps = [] ∧ t.ports = []) ∧ (t.sram = [] ∧ t.sramBad = [] ∧
    t.regions = [] ∧ t.rrc = [] ∧ t.finj = {} ∧ t.srch = {} ∧ t.units = [] ∧ t.digs = [] ∧ t.elog = {} ∧ t.qrm = {} ∧
    t.uart = {}) ∧ (t.fld .rstc Reg.RSTC_CAUSE_CAUSE = 5 ∧ t.fld .rstc Reg.RSTC_CAUSE_INSTANCE = 0 ∧ t.fld .rstc
    Reg.RSTC_CAUSE_TIME_TIME = s.now % 2 ^ 64) ∧ s.counted t .rstc 0x98 ∧ (∀ p : PartId, t.fenced p = false) ∧ t.fld
    .wlh Reg.WLH_IMG_CTRL_RECOVERY_NEXT = s.fld .wlh Reg.WLH_IMG_CTRL_RECOVERY_NEXT ∧ t.wlh.flash = s.wlh.flash ∧ (∀
    a pg, Page.at a = some pg → warmReaches 5 pg = true → pg ∉ [.dev, .pin, .ledg, .uart, .wlh] → t.word a =
    Reg.resetWord s.fuses.binB a ∧ Map.get 0 t.cnt a = 0) ∧ (t.mem = s.mem ∧ t.tier.pages = s.tier.pages ∧
    t.tier.dirs = s.tier.dirs ∧ t.tier.frames = s.tier.frames) ∧ l ∈ t.rst.lost ∧ s.keeps t
    [.fresh, .out, .regs, .cnt, .shadow, .mem, .sram, .sramBad, .tiles, .parts, .movers, .tenants, .reqs, .convs, .tier, .rrc, .engines, .regions, .qps, .ports, .finj, .srch, .units, .digs, .elog, .qrm, .pwr, .rst, .wlh, .uart, .pcie]) ∧
  (∀ (s : State) (l : Pll), l = .mclk ∨ l = .kclk → l ∉ s.rst.lost → s.ledger.writing = [] → completes (.pllLockLoss
    l) s fun t => (t.reqs = [] ∧ t.convs = [] ∧ t.movers = [] ∧ t.parts = [] ∧ t.tiles = [] ∧ t.engines = [] ∧ t.qps
    = [] ∧ t.ports = []) ∧ (t.sram = [] ∧ t.sramBad = [] ∧ t.regions = [] ∧ t.rrc = [] ∧ t.finj = {} ∧ t.srch = {} ∧
    t.units = [] ∧ t.digs = [] ∧ t.elog = {} ∧ t.qrm = {} ∧ t.uart = {}) ∧ (t.fld .rstc Reg.RSTC_CAUSE_CAUSE = 5 ∧
    t.fld .rstc Reg.RSTC_CAUSE_INSTANCE = 0 ∧ t.fld .rstc Reg.RSTC_CAUSE_TIME_TIME = s.now % 2 ^ 64) ∧ s.counted t
    .rstc 0x98 ∧ (∀ p : PartId, t.fenced p = false) ∧ t.fld .wlh Reg.WLH_IMG_CTRL_RECOVERY_NEXT = s.fld .wlh
    Reg.WLH_IMG_CTRL_RECOVERY_NEXT ∧ t.wlh.flash = s.wlh.flash ∧ (∀ a pg, Page.at a = some pg → warmReaches 5 pg =
    true → pg ∉ [.dev, .pin, .ledg, .uart, .wlh] → t.word a = Reg.resetWord s.fuses.binB a ∧ Map.get 0 t.cnt a = 0) ∧
    l ∈ t.rst.lost ∧ s.keeps t
    [.fresh, .out, .regs, .cnt, .shadow, .mem, .sram, .sramBad, .tiles, .parts, .movers, .tenants, .reqs, .convs, .tier, .rrc, .engines, .regions, .qps, .ports, .finj, .srch, .units, .digs, .elog, .qrm, .pwr, .rst, .wlh, .uart, .pcie]) ∧
  (∀ (s : State) (l : Pll), l ≠ .mclk → l ≠ .kclk → l ∉ s.rst.lost → completes (.pllLockLoss l) s fun t => t.rst =
    { s.rst with lost := l :: s.rst.lost } ∧ bit (t.fld .clk Reg.CLK_STAT_LOCK) (pllIndex l) = false ∧ s.counted t
    .clk 0x80 ∧ s.raised t .clk 0 ∧ (∀ pg ∈ pllPages l, t.ready pg = false) ∧ s.changes t [.rst, .out, .pcie]
    (Reg.CLK_STAT_LOCK.place .clk :: irqPlaces .clk ++ (pllPages l).map Reg.PG_READY_READY.place) ((.clk, 0x80) ::
    irqCounts .clk)) ∧
  (∀ (s : State) (l : Pll), l ∈ s.rst.lost → completes (.pllLockLoss l) s fun t => t = s)

/-- PWR_GOOD_RISE locks every PLL and makes the clock, reset, time, power and sync pages ready; once nothing holds
the device in reset the DEV, PIN, LEDG and UART pages are ready and the straps show. RESET_N_RELEASE and
STRAP_SAMPLE latch the straps; THERM_RELEASE needs every sensor below RELEASE_C; PERST_DEASSERT makes PCIE ready.
PLL_RELOCK sets the lock bit once every PLL of the clock has lock and its usable units ready. Nothing else changes.
On points the spec leaves open it states the model's choices (notes/assumptions/41, 51). -/
def Obligations.ClocksPinsAndRestarts : Prop :=
  (∀ (s : State), s.rst.pwrGood = false → s.rst.resetLow = false ∧ s.rst.thermHeld = false ∧ (s.rst.perstLow = false
    ∨ s.flag .rstc Reg.RSTC_CTRL_PERST_SCOPE = true) → s.rst.straps < 4096 → completes (.pwrGoodRise) s fun t =>
    t.rst = { s.rst with pwrGood := true, lost := [] } ∧ t.fld .clk Reg.CLK_STAT_LOCK = 127 ∧ (∀ pg ∈
    [Page.clk, .rstc, .time, .pwr, .sync], t.ready pg = true) ∧ (∀ pg ∈ [Page.dev, .pin, .ledg, .uart], t.ready pg =
    true) ∧ t.fld .dev Reg.DEV_STRAP_VALUE = s.rst.straps ∧ s.changes t [.rst]
    ([Page.clk, .rstc, .time, .pwr, .sync].map Reg.PG_READY_READY.place ++
    [Reg.CLK_STAT_LOCK.place .clk, Reg.LEDG_STAT_RO.place .ledg, Reg.LEDG_STAT_SPARES.place .ledg, Reg.LEDG_STAT_SEQ_END.place .ledg, Reg.LEDG_SEQ_NEXT.place .ledg, Reg.DEV_STRAP_VALUE.place .dev]
    ++ [Page.dev, .pin, .ledg, .uart].map Reg.PG_READY_READY.place) []) ∧
  (∀ (s : State), s.rst.pwrGood = false → ¬ (s.rst.resetLow = false ∧ s.rst.thermHeld = false ∧ (s.rst.perstLow =
    false ∨ s.flag .rstc Reg.RSTC_CTRL_PERST_SCOPE = true)) → completes (.pwrGoodRise) s fun t => t.rst =
    { s.rst with pwrGood := true, lost := [] } ∧ t.fld .clk Reg.CLK_STAT_LOCK = 127 ∧ (∀ pg ∈
    [Page.clk, .rstc, .time, .pwr, .sync], t.ready pg = true) ∧ s.changes t [.rst] (Reg.CLK_STAT_LOCK.place .clk ::
    [Page.clk, .rstc, .time, .pwr, .sync].map Reg.PG_READY_READY.place) []) ∧
  (∀ (s : State), s.rst.pwrGood = true → completes (.pwrGoodRise) s fun t => t = s) ∧
  (∀ (s : State) (straps : BitVec 12), s.rst.resetLow = true → s.rst.pwrGood = true → s.rst.thermHeld = false →
    s.rst.perstLow = false → completes (.resetNRelease straps) s fun t => t.rst =
    { s.rst with resetLow := false, straps := straps.toNat } ∧ t.fld .dev Reg.DEV_STRAP_VALUE = straps.toNat ∧ (∀ pg
    ∈ [Page.dev, .pin, .ledg, .uart], t.ready pg = true) ∧ s.changes t [.rst] ([Page.dev, .pin, .ledg, .uart].map
    Reg.PG_READY_READY.place ++
    [Reg.LEDG_STAT_RO.place .ledg, Reg.LEDG_STAT_SPARES.place .ledg, Reg.LEDG_STAT_SEQ_END.place .ledg, Reg.LEDG_SEQ_NEXT.place .ledg, Reg.DEV_STRAP_VALUE.place .dev])
    []) ∧
  (∀ (s : State) (straps : BitVec 12), s.rst.resetLow = true → s.rst.pwrGood = true → s.rst.thermHeld = true →
    completes (.resetNRelease straps) s fun t => t.rst = { s.rst with resetLow := false, straps := straps.toNat } ∧
    t.fld .dev Reg.DEV_STRAP_VALUE = straps.toNat ∧ s.changes t [.rst] [Reg.DEV_STRAP_VALUE.place .dev] []) ∧
  (∀ (s : State) (straps : BitVec 12), s.rst.resetLow = true → s.rst.pwrGood = false → completes (.resetNRelease
    straps) s fun t => t = { s with rst := { s.rst with resetLow := false } }) ∧
  (∀ (s : State) (straps : BitVec 12), s.rst.resetLow = false → completes (.resetNRelease straps) s fun t => t = s) ∧
  (∀ (s : State) (straps : BitVec 12), s.rst.pwrGood = true → s.rst.resetLow = false → completes (.strapSample
    straps) s fun t => t.rst = { s.rst with straps := straps.toNat } ∧ t.fld .dev Reg.DEV_STRAP_VALUE = straps.toNat
    ∧ s.changes t [.rst] [Reg.DEV_STRAP_VALUE.place .dev] []) ∧
  (∀ (s : State) (straps : BitVec 12), s.rst.pwrGood = false ∨ s.rst.resetLow = true → completes (.strapSample
    straps) s fun t => t = s) ∧
  (∀ (s : State), s.rst.perstLow = true → s.rst.pwrGood = true → s.rst.resetLow = false → s.rst.thermHeld = false →
    completes (.perstDeassert) s fun t => t.rst = { s.rst with perstLow := false } ∧ t.ready .pcie = true ∧ (∀ pg ∈
    [Page.dev, .pin, .ledg, .uart], t.ready pg = true) ∧ s.changes t [.rst] ([Page.dev, .pin, .ledg, .uart].map
    Reg.PG_READY_READY.place ++
    [Reg.LEDG_STAT_RO.place .ledg, Reg.LEDG_STAT_SPARES.place .ledg, Reg.LEDG_STAT_SEQ_END.place .ledg, Reg.LEDG_SEQ_NEXT.place .ledg, Reg.DEV_STRAP_VALUE.place .dev, Reg.PG_READY_READY.place .pcie])
    []) ∧
  (∀ (s : State), s.rst.perstLow = true → s.rst.pwrGood = false ∨ s.rst.resetLow = true ∨ s.rst.thermHeld = true →
    completes (.perstDeassert) s fun t => t = { s with rst := { s.rst with perstLow := false } }) ∧
  (∀ (s : State), s.rst.perstLow = false → completes (.perstDeassert) s fun t => t = s) ∧
  (∀ (s : State) (temp : Int), s.rst.thermHeld = true → temp < s.fld .rstc Reg.RSTC_THERM_RELEASE_C * 8 →
    s.rst.pwrGood = true → s.rst.resetLow = false → s.rst.perstLow = false → completes (.thermRelease temp) s fun t
    => t.rst = { s.rst with thermHeld := false } ∧ t.out = s.out ++ [Out.thermtrip false] ∧ (∀ pg ∈
    [Page.dev, .pin, .ledg, .uart], t.ready pg = true) ∧ s.changes t [.rst, .out] ([Page.dev, .pin, .ledg, .uart].map
    Reg.PG_READY_READY.place ++
    [Reg.LEDG_STAT_RO.place .ledg, Reg.LEDG_STAT_SPARES.place .ledg, Reg.LEDG_STAT_SEQ_END.place .ledg, Reg.LEDG_SEQ_NEXT.place .ledg, Reg.DEV_STRAP_VALUE.place .dev])
    []) ∧
  (∀ (s : State) (temp : Int), s.rst.thermHeld = true → temp < s.fld .rstc Reg.RSTC_THERM_RELEASE_C * 8 →
    s.rst.pwrGood = false ∨ s.rst.resetLow = true → completes (.thermRelease temp) s fun t => t =
    { s with rst := { s.rst with thermHeld := false }, out := s.out ++ [Out.thermtrip false] }) ∧
  (∀ (s : State) (temp : Int), s.rst.thermHeld = false ∨ (s.fld .rstc Reg.RSTC_THERM_RELEASE_C * 8 : Int) ≤ temp →
    completes (.thermRelease temp) s fun t => t = s) ∧
  (∀ (s : State) (l : Pll) (lost : List Pll), l ∈ s.rst.lost → lost = s.rst.lost.filter (· ≠ l) → completes
    (.pllRelock l) s fun t => t.rst = { s.rst with lost := lost } ∧ (bit (t.fld .clk Reg.CLK_STAT_LOCK) (pllIndex l)
    = ((lost.all fun x => pllIndex x != pllIndex l) || bit (s.fld .clk Reg.CLK_STAT_LOCK) (pllIndex l))) ∧ (∀ pg ∈
    pllPages l, s.usable pg = true → t.ready pg = true) ∧ (∀ pg ∈ pllPages l, s.usable pg = false → t.ready pg =
    s.ready pg) ∧ s.changes t [.rst] (Reg.CLK_STAT_LOCK.place .clk :: (pllPages l).map Reg.PG_READY_READY.place) []) ∧
  (∀ (s : State) (l : Pll), l ∉ s.rst.lost → completes (.pllRelock l) s fun t => t = s)

/-- BLOCK_RESET_REQ of a ready block of kind yes begins QUIESCING and clears PG_READY; for a page of a fenced
partition it records UNFENCE_DENIED, for another kind BAD_BLOCK. QUIESCE_DONE of an idle block, and QUIESCE_TIMEOUT
after QUIESCE_US, reset the block: registers at reset values but PG_ERR, LOCK and the snapshot, counters kept, work
in progress gone, RSTC_CAUSE, STATUS RESETTING. BLOCK_RESET_DONE makes it ready and counts BLK_RESETS; the requests
a partition held end with ABORTED_FAULT. Nothing else changes. On points the spec leaves open it states the model's
choices (notes/assumptions/39, 41, 56). -/
def Obligations.BlockResetsAndFences : Prop :=
  (∀ (s : State) (pg : Page), s.ready pg = true → ((∀ p, partOfPage pg = some p → s.fenced p = false)) → pg.rstKind =
    1 → s.fld pg Reg.PG_RST_STATUS = 0 → completes (.blockResetReq pg) s fun t => t.fld pg Reg.PG_RST_STATUS = 1 ∧
    t.flag pg Reg.PG_RST_TIMED_OUT = false ∧ t.ready pg = false ∧ t.rst =
    { s.rst with quiesceAt := Map.set 0 s.rst.quiesceAt pg.base (s.now + 1) } ∧ s.changes t [.rst]
    [Reg.PG_RST_STATUS.place pg, Reg.PG_RST_TIMED_OUT.place pg, Reg.PG_READY_READY.place pg] []) ∧
  (∀ (s : State) (pg : Page) (p : PartId), s.ready pg = true → (partOfPage pg = some p) → s.fenced p = true →
    completes (.blockResetReq pg) s fun t => s.erred t .qrm 1 ∧ s.counted t .qrm 0xA8 ∧ s.changes t [] (errPlaces
    .qrm) [(.qrm, 0x50), (.qrm, 0xA8)]) ∧
  (∀ (s : State) (pg : Page), s.ready pg = true → ((∀ p, partOfPage pg = some p → s.fenced p = false)) → pg.rstKind ≠
    1 → completes (.blockResetReq pg) s fun t => s.erred t .rstc 1 ∧ s.changes t [] (errPlaces .rstc) (errCounts
    .rstc)) ∧
  (∀ (s : State) (pg : Page), (s.ready pg = false ∨ (∀ p, partOfPage pg = some p → s.fenced p = false) ∧ pg.rstKind =
    1 ∧ s.fld pg Reg.PG_RST_STATUS ≠ 0) → completes (.blockResetReq pg) s fun t => t = s) ∧
  (∀ (s : State) (pg : Page), s.quiescing pg = true → s.blockIdle pg = true → pg.rstKind = 1 → completes
    (.quiesceDone pg) s fun t => t.fld pg Reg.PG_RST_STATUS = 2 ∧ t.fld pg Reg.PG_RST_TIMED_OUT = s.fld pg
    Reg.PG_RST_TIMED_OUT ∧ t.fld .rstc Reg.RSTC_CAUSE_CAUSE = 9 ∧ t.fld .rstc Reg.RSTC_CAUSE_INSTANCE = pg.inst % 256
    ∧ (∀ a x, Page.at a = some x → blockPages pg x = true → a ≠ Reg.PG_RST_STATUS.addr pg 0 → t.word a = keptWord (a
    % 4096) (s.word a) (Reg.resetWord s.fuses.binB a)) ∧ (∀ a x, Page.at a = some x → blockPages pg x = false → x ≠
    .rstc → x.kind ≠ .feng ∨ pg.kind ≠ .port → t.word a = s.word a) ∧ Map.get 0 t.rst.quiesceAt pg.base = 0 ∧ ((∀ n,
    pg ≠ .port n) → t.cnt = s.cnt) ∧ s.keeps t
    [.out, .regs, .cnt, .shadow, .sram, .sramBad, .tiles, .parts, .movers, .tier, .reqs, .convs, .engines, .regions, .qps, .ports, .finj, .srch, .units, .digs, .elog, .rst, .uart, .pcie]) ∧
  (∀ (s : State) (p : PartId), s.quiescing (.disp p) = true → s.blockIdle (.disp p) = true → completes (.quiesceDone
    (.disp p)) s fun t => t.part p = {} ∧ t.mover p = {} ∧ (∀ u ∈ tilesOf p, t.tile u = {}) ∧ (∀ u, partOf u = p → ∀
    o, o < 2097152 → Map.get 0 t.sram (u.val * 2097152 + o) = 0) ∧ (∀ v ∈ t.convs, ¬ (v.part = p ∧ v.st = .resident))
    ∧ (∀ u, partOf u ≠ p → t.tile u = s.tile u) ∧ (∀ q, q ≠ p → t.part q = s.part q ∧ t.mover q = s.mover q) ∧
    s.keeps t [.regs, .rst, .tiles, .sram, .sramBad, .parts, .movers, .tier, .engines, .reqs, .convs]) ∧
  (∀ (s : State) (u : TileId), s.quiescing (.tile u) = true → s.blockIdle (.tile u) = true → completes (.quiesceDone
    (.tile u)) s fun t => t.tile u =
    { progs := (s.tile u).progs, acc := (s.tile u).acc, coming := (s.tile u).coming, nextOrder := (s.tile u).nextOrder }
    ∧ (∀ v, v ≠ u → t.tile v = s.tile v) ∧ (∀ q k, (Map.get {} (t.part q).merge k).nodes = (Map.get {} (s.part
    q).merge k).nodes) ∧ s.keeps t [.regs, .rst, .tiles, .parts, .tier]) ∧
  (∀ (s : State) (e : EngId), s.quiescing (.feng e) = true → s.blockIdle (.feng e) = true → completes (.quiesceDone
    (.feng e)) s fun t => (∀ q, engOfQp q = e → t.qp q = {}) ∧ (∀ q, engOfQp q ≠ e → t.qp q = s.qp q) ∧ ((t.eng
    e).slots = [] ∧ (t.eng e).trigs = []) ∧ (e.val % 2 = 0 → ∀ i, t.rgn (partOfEng e) i = {}) ∧ s.keeps t
    [.regs, .rst, .engines, .qps, .regions]) ∧
  (∀ (s : State) (pg : Page), s.quiescing pg = false ∨ s.blockIdle pg = false → completes (.quiesceDone pg) s fun t
    => t = s) ∧
  (∀ (s : State) (pg : Page), s.quiescing pg = true → Map.get 0 s.rst.quiesceAt pg.base - 1 + s.fld .rstc
    Reg.RSTC_CTRL_QUIESCE_US * 1000 ≤ s.now → pg.rstKind = 1 → completes (.quiesceTimeout pg) s fun t => t.fld pg
    Reg.PG_RST_STATUS = 2 ∧ t.fld pg Reg.PG_RST_TIMED_OUT = 1 ∧ t.fld .rstc Reg.RSTC_CAUSE_CAUSE = 9 ∧ t.fld .rstc
    Reg.RSTC_CAUSE_INSTANCE = pg.inst % 256 ∧ (∀ a x, Page.at a = some x → blockPages pg x = true → a ≠
    Reg.PG_RST_STATUS.addr pg 0 → t.word a = keptWord (a % 4096) (s.word a) (Reg.resetWord s.fuses.binB a)) ∧ (∀ a x,
    Page.at a = some x → blockPages pg x = false → x ≠ .rstc → x.kind ≠ .feng ∨ pg.kind ≠ .port → t.word a = s.word
    a) ∧ Map.get 0 t.rst.quiesceAt pg.base = 0 ∧ s.counted t .rstc 0x88 ∧ s.keeps t
    [.out, .regs, .cnt, .shadow, .sram, .sramBad, .tiles, .parts, .movers, .tier, .reqs, .convs, .engines, .regions, .qps, .ports, .finj, .srch, .units, .digs, .elog, .rst, .uart, .pcie]) ∧
  (∀ (s : State) (pg : Page), s.quiescing pg = false ∨ s.now < Map.get 0 s.rst.quiesceAt pg.base - 1 + s.fld .rstc
    Reg.RSTC_CTRL_QUIESCE_US * 1000 → completes (.quiesceTimeout pg) s fun t => t = s) ∧
  (∀ (s : State) (pg : Page), s.fld pg Reg.PG_RST_STATUS = 2 → (∀ p, pg ≠ .disp p) → completes (.blockResetDone pg)
    s fun t => t.fld pg Reg.PG_RST_STATUS = 0 ∧ t.ready pg = true ∧ s.counted t pg 0x60 ∧ s.changes t []
    [Reg.PG_RST_STATUS.place pg, Reg.PG_READY_READY.place pg] [(pg, 0x60)]) ∧
  (∀ (s : State) (p : PartId), s.fld (.disp p) Reg.PG_RST_STATUS = 2 → (s.reqs.map (·.reqId)).Nodup → s.noParks →
    completes (.blockResetDone (.disp p)) s fun t => t.fld (.disp p) Reg.PG_RST_STATUS = 0 ∧ s.counted t (.disp p)
    0x60 ∧ (∀ x ∈ [Page.disp p, .samp p, .move p, .admt p] ++ (tilesOf p).map Page.tile, t.ready x = true) ∧ (∀ r ∈
    t.reqs, r.genPart = some p → r.recorded = false → r.st ≠ .deferred → r.st ≠ .parking → r.endStatus.isSome = true)
    ∧ s.keeps t
    [.fresh, .out, .regs, .cnt, .mem, .movers, .tenants, .reqs, .convs, .tier, .engines, .qps, .srch, .digs, .pwr, .pcie]) ∧
  (∀ (s : State) (pg : Page), s.fld pg Reg.PG_RST_STATUS ≠ 2 → completes (.blockResetDone pg) s fun t => t = s)

/-- FSYNC_EDGE and TSYNC_EDGE of the enabled polarity, no sooner than MIN_US after the last, are time-stamped and
counted, the second in a row clears LOST; FSYNC closer ones count as glitches; with PPS the master moves to the
nearest whole second. FSYNC_LOST_TIMEOUT and TSYNC_LOST_TIMEOUT set LOST with their interrupt. TIME_EXCHANGE_TIMER
of a device that is no master asks MASTER_NODE; TIME_MESSAGE measures the offset, steps or slews, and SYNCED sets
after 8 exchanges below 100 ns. TIME_SET counts from its value on the master. Nothing else changes. On points the
spec leaves open it states the model's choices (notes/assumptions/42). -/
def Obligations.TimeAndSyncInputs : Prop :=
  (∀ (s : State) (f : Bool), s.flag .sync Reg.SYNC_CTRL_FSYNC_EN = true → s.flag .sync Reg.SYNC_CTRL_FSYNC_POL = f →
    s.sync.fAny = false ∨ s.fld .sync Reg.SYNC_FSYNC_LAST_TIME + s.fld .sync Reg.SYNC_CTRL_MIN_US * 1000 ≤ s.now →
    completes (.fsyncEdge f) s fun t => t.sync = { s.sync with fEdges := min 2 (s.sync.fEdges + 1), fAny := true } ∧
    t.fld .sync Reg.SYNC_FSYNC_LAST_TIME = s.now % 2 ^ 64 ∧ s.counted t .sync 0x80 ∧ (t.fld .sync
    Reg.SYNC_FSYNC_PERIOD_NS = if s.sync.fAny then min (s.now - s.fld .sync Reg.SYNC_FSYNC_LAST_TIME) 4294967295 else
    s.fld .sync Reg.SYNC_FSYNC_PERIOD_NS) ∧ t.flag .sync Reg.SYNC_STAT_FSYNC_LOST = (s.flag .sync
    Reg.SYNC_STAT_FSYNC_LOST && decide (s.sync.fEdges = 0)) ∧ s.changes t [.sync]
    [Reg.SYNC_FSYNC_LAST_TIME.place .sync, Reg.SYNC_FSYNC_PERIOD_NS.place .sync, Reg.SYNC_STAT_FSYNC_LOST.place .sync]
    [(.sync, 0x80)]) ∧
  (∀ (s : State) (f : Bool), s.flag .sync Reg.SYNC_CTRL_FSYNC_EN = true → s.flag .sync Reg.SYNC_CTRL_FSYNC_POL = f →
    s.sync.fAny = true → s.now < s.fld .sync Reg.SYNC_FSYNC_LAST_TIME + s.fld .sync Reg.SYNC_CTRL_MIN_US * 1000 →
    completes (.fsyncEdge f) s fun t => s.counted t .sync 0x88 ∧ s.changes t [] [] [(.sync, 0x88)]) ∧
  (∀ (s : State) (f : Bool), s.flag .sync Reg.SYNC_CTRL_FSYNC_EN = false ∨ s.flag .sync Reg.SYNC_CTRL_FSYNC_POL ≠ f →
    completes (.fsyncEdge f) s fun t => t = s) ∧
  (∀ (s : State), s.flag .sync Reg.SYNC_CTRL_FSYNC_EN = true → s.flag .sync Reg.SYNC_STAT_FSYNC_LOST = false → s.fld
    .sync Reg.SYNC_FSYNC_LAST_TIME + 2 * s.fld .sync Reg.SYNC_FSYNC_PERIOD_NS ≤ s.now → completes (.fsyncLostTimeout)
    s fun t => t.flag .sync Reg.SYNC_STAT_FSYNC_LOST = true ∧ t.sync = { s.sync with fEdges := 0 } ∧ s.counted t
    .sync 0x90 ∧ s.raised t .sync 0 ∧ s.changes t [.sync, .out, .pcie] (Reg.SYNC_STAT_FSYNC_LOST.place .sync ::
    irqPlaces .sync) ((.sync, 0x90) :: irqCounts .sync)) ∧
  (∀ (s : State), ¬ (s.flag .sync Reg.SYNC_CTRL_FSYNC_EN = true ∧ s.flag .sync Reg.SYNC_STAT_FSYNC_LOST = false ∧
    s.fld .sync Reg.SYNC_FSYNC_LAST_TIME + 2 * s.fld .sync Reg.SYNC_FSYNC_PERIOD_NS ≤ s.now) → completes
    (.fsyncLostTimeout) s fun t => t = s) ∧
  (∀ (s : State), s.flag .sync Reg.SYNC_CTRL_TSYNC_EN = true → s.sync.tAny = false ∨ s.fld .sync
    Reg.SYNC_TSYNC_LAST_TIME + s.fld .sync Reg.SYNC_CTRL_MIN_US * 1000 ≤ s.now → ¬ (s.flag .time Reg.TIME_CTRL_MASTER
    = true ∧ s.flag .time Reg.TIME_CTRL_PPS_EN = true) → completes (.tsyncEdge) s fun t => t.sync =
    { s.sync with tEdges := min 2 (s.sync.tEdges + 1), tAny := true } ∧ s.counted t .sync 0x98 ∧ t.fld .sync
    Reg.SYNC_TSYNC_LAST_TIME = t.now % 2 ^ 64 ∧ t.flag .sync Reg.SYNC_STAT_TSYNC_LOST = (s.flag .sync
    Reg.SYNC_STAT_TSYNC_LOST && decide (s.sync.tEdges = 0)) ∧ s.changes t [.sync]
    [Reg.SYNC_TSYNC_LAST_TIME.place .sync, Reg.SYNC_STAT_TSYNC_LOST.place .sync] [(.sync, 0x98)]) ∧
  (∀ (s : State), s.flag .sync Reg.SYNC_CTRL_TSYNC_EN = true → s.sync.tAny = false ∨ s.fld .sync
    Reg.SYNC_TSYNC_LAST_TIME + s.fld .sync Reg.SYNC_CTRL_MIN_US * 1000 ≤ s.now → s.flag .time Reg.TIME_CTRL_MASTER =
    true ∧ s.flag .time Reg.TIME_CTRL_PPS_EN = true → s.now < 2 ^ 63 → completes (.tsyncEdge) s fun t => t.sync =
    { s.sync with tEdges := min 2 (s.sync.tEdges + 1), tAny := true } ∧ s.counted t .sync 0x98 ∧ t.fld .sync
    Reg.SYNC_TSYNC_LAST_TIME = t.now % 2 ^ 64 ∧ t.flag .sync Reg.SYNC_STAT_TSYNC_LOST = (s.flag .sync
    Reg.SYNC_STAT_TSYNC_LOST && decide (s.sync.tEdges = 0)) ∧ t.now % 1000000000 = 0 ∧ (t.now ≤ s.now + 500000000 ∧
    s.now ≤ t.now + 500000000) ∧ s.counted t .time 0x90 ((t.now : Int) - s.now).natAbs ∧ s.changes t [.sync, .now]
    [Reg.SYNC_TSYNC_LAST_TIME.place .sync, Reg.SYNC_STAT_TSYNC_LOST.place .sync] [(.sync, 0x98), (.time, 0x90)]) ∧
  (∀ (s : State), s.flag .sync Reg.SYNC_CTRL_TSYNC_EN = false ∨ s.sync.tAny = true ∧ s.now < s.fld .sync
    Reg.SYNC_TSYNC_LAST_TIME + s.fld .sync Reg.SYNC_CTRL_MIN_US * 1000 → completes (.tsyncEdge) s fun t => t = s) ∧
  (∀ (s : State), s.flag .sync Reg.SYNC_CTRL_TSYNC_EN = true → s.flag .sync Reg.SYNC_STAT_TSYNC_LOST = false → s.fld
    .sync Reg.SYNC_TSYNC_LAST_TIME + 1500000000 ≤ s.now → completes (.tsyncLostTimeout) s fun t => t.flag .sync
    Reg.SYNC_STAT_TSYNC_LOST = true ∧ t.sync = { s.sync with tEdges := 0 } ∧ s.raised t .sync 1 ∧ s.changes t
    [.sync, .out, .pcie] (Reg.SYNC_STAT_TSYNC_LOST.place .sync :: irqPlaces .sync) (irqCounts .sync)) ∧
  (∀ (s : State), ¬ (s.flag .sync Reg.SYNC_CTRL_TSYNC_EN = true ∧ s.flag .sync Reg.SYNC_STAT_TSYNC_LOST = false ∧
    s.fld .sync Reg.SYNC_TSYNC_LAST_TIME + 1500000000 ≤ s.now) → completes (.tsyncLostTimeout) s fun t => t = s) ∧
  (∀ (s : State), s.flag .time Reg.TIME_CTRL_MASTER = false → completes (.timeExchangeTimer) s fun t => t =
    { s with sync := { s.sync with exchanging := true }, out := s.out ++ [Out.timeMsg (s.fld .time Reg.TIME_CTRL_MASTER_NODE)] }) ∧
  (∀ (s : State), s.flag .time Reg.TIME_CTRL_MASTER = true → completes (.timeExchangeTimer) s fun t => t = s) ∧
  (∀ (s : State) (a b c d : Nat) (off : Int), s.sync.exchanging = true → s.flag .time Reg.TIME_CTRL_MASTER = false →
    off = (((b : Int) - a) - ((d : Int) - c)) / 2 → s.sync.everSynced = true → completes (.timeMessage a b c d) s fun
    t => (t.sync.exchanging = false ∧ t.sync.good = (if off.natAbs < 100 then min 8 (s.sync.good + 1) else 0)) ∧
    s.counted t .time 0x80 ∧ t.fld .time Reg.TIME_STAT_ERR_NS = min off.natAbs 65535 ∧ ((if off.natAbs < 100 then min
    8 (s.sync.good + 1) else 0) = 8 → t.flag .time Reg.TIME_STAT_SYNCED = true ∧ (s.flag .time Reg.TIME_STAT_SYNCED =
    false → t.sync.everSynced = true ∧ s.raised t .time 0)) ∧ ((if off.natAbs < 100 then min 8 (s.sync.good + 1) else
    0) ≠ 8 → t.flag .time Reg.TIME_STAT_SYNCED = s.flag .time Reg.TIME_STAT_SYNCED ∧ t.sync.everSynced =
    s.sync.everSynced) ∧ t.now = (((s.now : Int) + max (-200) (min 200 off)) % 2 ^ 64).toNat ∧ s.counted t .time 0x90
    (max (-200) (min 200 off)).natAbs ∧ s.changes t [.now, .sync, .out, .pcie] (Reg.TIME_STAT_ERR_NS.place .time ::
    Reg.TIME_STAT_SYNCED.place .time :: irqPlaces .time) ([(Page.time, 0x80), (Page.time, 0x88), (Page.time, 0x90)]
    ++ irqCounts .time)) ∧
  (∀ (s : State) (a b c d : Nat) (off : Int), s.sync.exchanging = true → s.flag .time Reg.TIME_CTRL_MASTER = false →
    off = (((b : Int) - a) - ((d : Int) - c)) / 2 → s.sync.everSynced = false → completes (.timeMessage a b c d)
    s fun t => (t.sync.exchanging = false ∧ t.sync.good = (if off.natAbs < 100 then min 8 (s.sync.good + 1) else 0))
    ∧ s.counted t .time 0x80 ∧ t.fld .time Reg.TIME_STAT_ERR_NS = min off.natAbs 65535 ∧ ((if off.natAbs < 100 then
    min 8 (s.sync.good + 1) else 0) = 8 → t.flag .time Reg.TIME_STAT_SYNCED = true ∧ (s.flag .time
    Reg.TIME_STAT_SYNCED = false → t.sync.everSynced = true ∧ s.raised t .time 0)) ∧ ((if off.natAbs < 100 then min 8
    (s.sync.good + 1) else 0) ≠ 8 → t.flag .time Reg.TIME_STAT_SYNCED = s.flag .time Reg.TIME_STAT_SYNCED ∧
    t.sync.everSynced = s.sync.everSynced) ∧ (t.now = (((s.now : Int) + off) % 2 ^ 64).toNat ∨ off = 0 ∧ t.now =
    s.now) ∧ (off ≠ 0 → s.counted t .time 0x88) ∧ s.changes t [.now, .sync, .out, .pcie] (Reg.TIME_STAT_ERR_NS.place
    .time :: Reg.TIME_STAT_SYNCED.place .time :: irqPlaces .time)
    ([(Page.time, 0x80), (Page.time, 0x88), (Page.time, 0x90)] ++ irqCounts .time)) ∧
  (∀ (s : State) (a b c d : Nat), s.sync.exchanging = false ∨ s.flag .time Reg.TIME_CTRL_MASTER = true → completes
    (.timeMessage a b c d) s fun t => t = s) ∧
  (∀ (s : State) (ns : Word64), s.ready .time = true → s.flag .time Reg.TIME_CTRL_MASTER = true → completes (.timeSet
    ns) s fun t => t = { s with now := ns.toNat }) ∧
  (∀ (s : State) (ns : Word64), s.ready .time = true → s.flag .time Reg.TIME_CTRL_MASTER = false → completes
    (.timeSet ns) s fun t => s.erred t .time 1 ∧ s.changes t [] (errPlaces .time) (errCounts .time)) ∧
  (∀ (s : State) (ns : Word64), s.ready .time = false → completes (.timeSet ns) s fun t => t = s)

/-- ROM_BOOT outside a held reset clears RECOVERY_NEXT and either runs the image of the first slot in order that
passes its check, with the newest objects of the store in its format, making one that fails BAD, or enters recovery
mode: WLH and UART ready, every other page but those of R392 not. WLH_WDOG_WARN and WDOG_RESET act once half and all
of the timeout pass without WLH_KICK. INSTALL and VERIFY begin or end with their code; UPD_DONE writes the result of
the check, an installed image becoming TRIAL. CONFIRM writes the record that confirms a TRIAL slot. Nothing else
changes. On points the spec leaves open it states the model's choices (notes/assumptions/44, 60). -/
def Obligations.TheRomBoots : Prop :=
  (∀ (s : State), s.heldInReset = false → s.ready .wlh = false → bit s.rst.straps 0 = true ∨ s.flag .wlh
    Reg.WLH_IMG_CTRL_RECOVERY_NEXT = true ∨ s.wlh.flashSize < 16777216 ∨ 67108864 < s.wlh.flashSize → completes
    (.romBoot) s fun t => t.flag .wlh Reg.WLH_STAT_RECOVERY = true ∧ t.ready .wlh = true ∧ (t.flag .uart
    Reg.UART_CTRL_TX_EN = true ∧ t.flag .uart Reg.UART_CTRL_RX_EN = true) ∧ (t.flag .pin Reg.PIN_FUNC_SPI = true ∧
    t.flag .pin Reg.PIN_FUNC_UART = true) ∧ (∀ pg ∈ Page.all, recoveryPage pg = false → t.ready pg = false) ∧ t.flag
    .wlh Reg.WLH_IMG_CTRL_RECOVERY_NEXT = false ∧ t.wlh.flash = s.wlh.flash ∧ t.out = s.out ++
    [Out.imageStart false true] ∧ s.keeps t [.regs, .cnt, .wlh, .ledger, .out]) ∧
  (∀ (s : State) (u : State) (b : Bool), s.heldInReset = false → s.ready .wlh = false → ¬ (bit s.rst.straps 0 = true
    ∨ s.flag .wlh Reg.WLH_IMG_CTRL_RECOVERY_NEXT = true ∨ s.wlh.flashSize < 16777216 ∨ 67108864 < s.wlh.flashSize) →
    u = (((s.setFld .pin Reg.PIN_FUNC_SPI 1).setFld .wlh Reg.WLH_IMG_CTRL_RECOVERY_NEXT
    0).ledgerShow.dropWriting).mendFlash → (b = (if u.wlh.stA = .trial then false else if u.wlh.stB = .trial then
    true else decide (u.wlh.stA ≠ .confirmed))) → completes (.romBoot) s fun t => (if (u.trySlot b).1 = true then
    t.wlh.running = true ∧ t.wlh.bootB = b ∧ t.wlh.config = component (s.slotBytes b) 3 ∧ t.wlh.objects = newestObjs
    (imgNat (s.slotBytes b) 16 2) s.storeObjs ∧ t.wlh.warned = false ∧ t.wlh.kicked = s.now ∧ t.ready .wlh = true ∧
    t.flag .wlh Reg.WLH_STAT_BOOTED = b ∧ t.out.getLast? = some (.imageStart b false) ∧ t.flag .wlh
    Reg.WLH_STAT_RECOVERY = s.flag .wlh Reg.WLH_STAT_RECOVERY ∧ t.flag .pin Reg.PIN_FUNC_SPI = true ∧ t.flag .pin
    Reg.PIN_FUNC_PMBUS = true else if ((u.trySlot b).2.trySlot (!b)).1 = true then t.wlh.running = true ∧ t.wlh.bootB
    = (!b) ∧ t.wlh.config = component (s.slotBytes (!b)) 3 ∧ t.wlh.objects = newestObjs (imgNat (s.slotBytes (!b)) 16
    2) s.storeObjs ∧ t.wlh.warned = false ∧ t.wlh.kicked = s.now ∧ t.ready .wlh = true ∧ t.flag .wlh
    Reg.WLH_STAT_BOOTED = (!b) ∧ t.out.getLast? = some (.imageStart (!b) false) ∧ t.flag .wlh Reg.WLH_STAT_RECOVERY =
    s.flag .wlh Reg.WLH_STAT_RECOVERY ∧ t.flag .pin Reg.PIN_FUNC_SPI = true ∧ t.flag .pin Reg.PIN_FUNC_PMBUS = true
    else t.flag .wlh Reg.WLH_STAT_RECOVERY = true ∧ t.ready .wlh = true ∧ t.out.getLast? = some (.imageStart false
    true)) ∧ t.flag .wlh Reg.WLH_IMG_CTRL_RECOVERY_NEXT = false ∧ s.keeps t [.regs, .cnt, .wlh, .ledger, .out]) ∧
  (∀ (s : State), s.heldInReset = true ∨ s.ready .wlh = true → completes (.romBoot) s fun t => t = s) ∧
  (∀ (s : State), s.wlh.running = true → s.wlh.warned = false → 2 * s.wlh.kicked + s.wdogNs ≤ 2 * s.now → completes
    (.wlhWdogWarn) s fun t => t.wlh = { s.wlh with warned := true } ∧ s.raised t .wlh 1 ∧ s.changes t
    [.wlh, .out, .pcie] (irqPlaces .wlh) (irqCounts .wlh)) ∧
  (∀ (s : State), s.wlh.running = false ∨ s.wlh.warned = true ∨ 2 * s.now < 2 * s.wlh.kicked + s.wdogNs → completes
    (.wlhWdogWarn) s fun t => t = s) ∧
  (∀ (s : State), s.wlh.running = true → s.wlh.kicked + s.wdogNs ≤ s.now → s.ledger.writing = [] → (∀ m ∈
    s.tier.migs, m.kind = .localMove) → completes (.wdogReset) s fun t => (t.reqs = [] ∧ t.convs = [] ∧ t.movers = []
    ∧ t.parts = [] ∧ t.tiles = [] ∧ t.engines = [] ∧ t.qps = [] ∧ t.ports = []) ∧ (t.sram = [] ∧ t.sramBad = [] ∧
    t.regions = [] ∧ t.rrc = [] ∧ t.finj = {} ∧ t.srch = {} ∧ t.units = [] ∧ t.digs = [] ∧ t.elog = {} ∧ t.qrm = {} ∧
    t.uart = {}) ∧ (t.fld .rstc Reg.RSTC_CAUSE_CAUSE = 5 ∧ t.fld .rstc Reg.RSTC_CAUSE_INSTANCE = 0 ∧ t.fld .rstc
    Reg.RSTC_CAUSE_TIME_TIME = s.now % 2 ^ 64) ∧ s.counted t .rstc 0x98 ∧ (∀ p : PartId, t.fenced p = false) ∧ t.fld
    .wlh Reg.WLH_IMG_CTRL_RECOVERY_NEXT = s.fld .wlh Reg.WLH_IMG_CTRL_RECOVERY_NEXT ∧ t.wlh.flash = s.wlh.flash ∧ (∀
    a pg, Page.at a = some pg → warmReaches 5 pg = true → pg ∉ [.dev, .pin, .ledg, .uart, .wlh] → t.word a =
    Reg.resetWord s.fuses.binB a ∧ Map.get 0 t.cnt a = 0) ∧ (t.mem = s.mem ∧ t.tier.pages = s.tier.pages ∧
    t.tier.dirs = s.tier.dirs ∧ t.tier.frames = s.tier.frames) ∧ (∀ a pg, Page.at a = some pg → warmReaches 5 pg =
    false → pg ≠ .rstc → t.word a = s.word a ∧ Map.get 0 t.cnt a = Map.get 0 s.cnt a) ∧ s.keeps t
    [.fresh, .out, .regs, .cnt, .shadow, .mem, .sram, .sramBad, .tiles, .parts, .movers, .tenants, .reqs, .convs, .tier, .rrc, .engines, .regions, .qps, .ports, .finj, .srch, .units, .digs, .elog, .qrm, .pwr, .rst, .wlh, .uart, .pcie]) ∧
  (∀ (s : State), s.wlh.running = true → s.wlh.kicked + s.wdogNs ≤ s.now → s.ledger.writing = [] → completes
    (.wdogReset) s fun t => (t.reqs = [] ∧ t.convs = [] ∧ t.movers = [] ∧ t.parts = [] ∧ t.tiles = [] ∧ t.engines =
    [] ∧ t.qps = [] ∧ t.ports = []) ∧ (t.sram = [] ∧ t.sramBad = [] ∧ t.regions = [] ∧ t.rrc = [] ∧ t.finj = {} ∧
    t.srch = {} ∧ t.units = [] ∧ t.digs = [] ∧ t.elog = {} ∧ t.qrm = {} ∧ t.uart = {}) ∧ (t.fld .rstc
    Reg.RSTC_CAUSE_CAUSE = 5 ∧ t.fld .rstc Reg.RSTC_CAUSE_INSTANCE = 0 ∧ t.fld .rstc Reg.RSTC_CAUSE_TIME_TIME = s.now
    % 2 ^ 64) ∧ s.counted t .rstc 0x98 ∧ (∀ p : PartId, t.fenced p = false) ∧ t.fld .wlh
    Reg.WLH_IMG_CTRL_RECOVERY_NEXT = s.fld .wlh Reg.WLH_IMG_CTRL_RECOVERY_NEXT ∧ t.wlh.flash = s.wlh.flash ∧ (∀ a pg,
    Page.at a = some pg → warmReaches 5 pg = true → pg ∉ [.dev, .pin, .ledg, .uart, .wlh] → t.word a = Reg.resetWord
    s.fuses.binB a ∧ Map.get 0 t.cnt a = 0) ∧ s.keeps t
    [.fresh, .out, .regs, .cnt, .shadow, .mem, .sram, .sramBad, .tiles, .parts, .movers, .tenants, .reqs, .convs, .tier, .rrc, .engines, .regions, .qps, .ports, .finj, .srch, .units, .digs, .elog, .qrm, .pwr, .rst, .wlh, .uart, .pcie]) ∧
  (∀ (s : State), s.wlh.running = true → s.wlh.kicked + s.wdogNs ≤ s.now → s.ledger.writing ≠ [] → completes
    (.wdogReset) s fun t => (t.rst =
    { s.rst with waiting := some (match s.rst.waiting with | some k => min k 5 | none => 5) }) ∧ s.changes t [.rst]
    [] [(.rstc, 0x90)]) ∧
  (∀ (s : State), s.wlh.running = false ∨ s.now < s.wlh.kicked + s.wdogNs → completes (.wdogReset) s fun t => t = s) ∧
  (∀ (s : State) (key : Byte), s.ready .wlh = true → key = 0x4B → completes (.wlhKick key) s fun t => t =
    { s with wlh := { s.wlh with kicked := s.now, warned := false } }) ∧
  (∀ (s : State) (key : Byte), s.ready .wlh = false ∨ key ≠ 0x4B → completes (.wlhKick key) s fun t => t = s) ∧
  (∀ (s : State), s.ready .wlh = true → s.wlh.upd ≠ none → completes (.install) s fun t => s.erred t .wlh 1 ∧
    s.changes t [] (errPlaces .wlh) (errCounts .wlh)) ∧
  (∀ (s : State), s.ready .wlh = false → completes (.install) s fun t => t = s) ∧
  (∀ (s : State), s.ready .wlh = true → s.wlh.upd ≠ none → completes (.verify) s fun t => s.erred t .wlh 1 ∧
    s.changes t [] (errPlaces .wlh) (errCounts .wlh)) ∧
  (∀ (s : State), s.ready .wlh = false → completes (.verify) s fun t => t = s) ∧
  (∀ (s : State), s.ready .wlh = true → s.wlh.upd = none → completes (.verify) s fun t => (t.wlh =
    { s.wlh with upd := some { install := false, slotB := false, len := s.fld .wlh Reg.WLH_UPD_LEN_LEN, result := if s.slotSize < s.fld .wlh Reg.WLH_UPD_LEN_LEN then 7 else 0 } })
    ∧ t.flag .wlh Reg.WLH_UPD_CMD_BUSY = true ∧ t.fld .wlh Reg.WLH_UPD_CMD_OP = 1 ∧ s.changes t [.wlh]
    [Reg.WLH_UPD_CMD_BUSY.place .wlh, Reg.WLH_UPD_CMD_OP.place .wlh] []) ∧
  (∀ (s : State), s.ready .wlh = true → s.wlh.upd = none → ¬ (s.wlh.stA ≠ .trial ∧ s.wlh.stA ≠ .writing ∧ s.wlh.stB ≠
    .trial ∧ s.wlh.stB ≠ .writing) → completes (.install) s fun t => (t.wlh =
    { s.wlh with upd := some { install := true, slotB := (decide (s.wlh.stA = .confirmed)), len := s.fld .wlh Reg.WLH_UPD_LEN_LEN, result := 0x0A } })
    ∧ t.flag .wlh Reg.WLH_UPD_CMD_BUSY = true ∧ t.fld .wlh Reg.WLH_UPD_CMD_OP = 0 ∧ s.changes t [.wlh]
    [Reg.WLH_UPD_CMD_BUSY.place .wlh, Reg.WLH_UPD_CMD_OP.place .wlh] []) ∧
  (∀ (s : State), s.ready .wlh = true → s.wlh.upd = none → s.wlh.stA ≠ .trial ∧ s.wlh.stA ≠ .writing ∧ s.wlh.stB ≠
    .trial ∧ s.wlh.stB ≠ .writing → s.slotSize < s.fld .wlh Reg.WLH_UPD_LEN_LEN → completes (.install) s fun t =>
    (t.wlh =
    { s.wlh with upd := some { install := true, slotB := (decide (s.wlh.stA = .confirmed)), len := s.fld .wlh Reg.WLH_UPD_LEN_LEN, result := 7 } })
    ∧ t.flag .wlh Reg.WLH_UPD_CMD_BUSY = true ∧ t.fld .wlh Reg.WLH_UPD_CMD_OP = 0 ∧ s.changes t [.wlh]
    [Reg.WLH_UPD_CMD_BUSY.place .wlh, Reg.WLH_UPD_CMD_OP.place .wlh] []) ∧
  (∀ (s : State), s.ready .wlh = true → s.wlh.upd = none → s.wlh.stA ≠ .trial ∧ s.wlh.stA ≠ .writing ∧ s.wlh.stB ≠
    .trial ∧ s.wlh.stB ≠ .writing → s.fld .wlh Reg.WLH_UPD_LEN_LEN ≤ s.slotSize → s.goodSectors (decide (s.wlh.stA =
    .confirmed)) = [] → s.ledger.closed = false → (s.ledger.append (ledgRec 0x03 0 [])).1.closed = false → completes
    (.install) s fun t => (t.img (decide (s.wlh.stA = .confirmed)) = .empty ∧ t.img (!(decide (s.wlh.stA =
    .confirmed))) = s.img (!(decide (s.wlh.stA = .confirmed)))) ∧ (t.wlh.upd = some
    { install := true, slotB := (decide (s.wlh.stA = .confirmed)), len := s.fld .wlh Reg.WLH_UPD_LEN_LEN, result := 8 })
    ∧ t.flag .wlh Reg.WLH_UPD_CMD_BUSY = true ∧ t.wlh.flash = s.wlh.flash ∧ t.out = s.out ∧ s.keeps t
    [.regs, .cnt, .wlh, .ledger]) ∧
  (∀ (s : State), s.ready .wlh = true → s.wlh.upd = none → s.wlh.stA ≠ .trial ∧ s.wlh.stA ≠ .writing ∧ s.wlh.stB ≠
    .trial ∧ s.wlh.stB ≠ .writing → s.fld .wlh Reg.WLH_UPD_LEN_LEN ≤ s.slotSize → s.ledger.closed = true → completes
    (.install) s fun t => (t.wlh =
    { s.wlh with upd := some { install := true, slotB := (decide (s.wlh.stA = .confirmed)), len := s.fld .wlh Reg.WLH_UPD_LEN_LEN, result := 9 } })
    ∧ t.flag .wlh Reg.WLH_UPD_CMD_BUSY = true ∧ t.fld .wlh Reg.WLH_UPD_CMD_OP = 0 ∧ s.changes t [.wlh]
    [Reg.WLH_UPD_CMD_BUSY.place .wlh, Reg.WLH_UPD_CMD_OP.place .wlh] []) ∧
  (∀ (s : State) (b : Bool) (k : Nat) (rest : List Nat), s.ready .wlh = true → s.wlh.upd = none → s.wlh.stA ≠ .trial
    ∧ s.wlh.stA ≠ .writing ∧ s.wlh.stB ≠ .trial ∧ s.wlh.stB ≠ .writing → b = (decide (s.wlh.stA = .confirmed)) →
    s.fld .wlh Reg.WLH_UPD_LEN_LEN ≤ s.slotSize → s.goodSectors b = k :: rest → s.ledger.closed = false → completes
    (.install) s fun t => (t.img b = .writing ∧ t.img (!b) = s.img (!b)) ∧ (t.wlh.upd = some
    { install := true, slotB := b, len := s.fld .wlh Reg.WLH_UPD_LEN_LEN, sector := some k }) ∧ (Map.get {}
    t.wlh.sectors k).intent = true ∧ t.out = s.out ++ [Out.spi true k] ∧ t.flag .wlh Reg.WLH_UPD_CMD_BUSY = true ∧
    t.wlh.flash = s.wlh.flash ∧ s.keeps t [.regs, .cnt, .wlh, .ledger, .out]) ∧
  (∀ (s : State) (u : Upd), (s.wlh.upd = some u) → u.recovery = false → u.result ≠ 0 → u.result < 256 → u.boot =
    false → completes (.updDone) s fun t => t.fld .wlh Reg.WLH_UPD_CMD_RESULT = u.result ∧ t.flag .wlh
    Reg.WLH_UPD_CMD_BUSY = false ∧ s.raised t .wlh 0 ∧ t.wlh.upd = none ∧ s.changes t [.wlh, .out, .pcie]
    (Reg.WLH_UPD_CMD_RESULT.place .wlh :: Reg.WLH_UPD_CMD_BUSY.place .wlh :: irqPlaces .wlh) (irqCounts .wlh)) ∧
  (∀ (s : State) (u : Upd), (s.wlh.upd = some u) → u.recovery = false → u.result = 0 → u.install = false → u.boot =
    false → completes (.updDone) s fun t => t.fld .wlh Reg.WLH_UPD_CMD_RESULT = checkImage s.fuses s.slotSize (s.rd
    (s.fldAddr .wlh Reg.WLH_UPD_SRC_LO_SRC_LO Reg.WLH_UPD_SRC_HI_SRC_HI) u.len) ∧ t.flag .wlh Reg.WLH_UPD_CMD_BUSY =
    false ∧ s.raised t .wlh 0 ∧ t.wlh.upd = none ∧ t.wlh = { s.wlh with upd := none } ∧ s.changes t
    [.wlh, .out, .pcie] (Reg.WLH_UPD_CMD_RESULT.place .wlh :: Reg.WLH_UPD_CMD_BUSY.place .wlh :: irqPlaces .wlh)
    (irqCounts .wlh)) ∧
  (∀ (s : State) (u : Upd) (code : Nat), (s.wlh.upd = some u) → u.recovery = false → u.result = 0 → u.install = true
    → u.boot = false → u.len ≤ u.done → s.ledger.closed = false → code = checkImage s.fuses s.slotSize ((s.slotBytes
    u.slotB).take u.len) → completes (.updDone) s fun t => t.fld .wlh Reg.WLH_UPD_CMD_RESULT = code ∧ t.flag .wlh
    Reg.WLH_UPD_CMD_BUSY = false ∧ t.wlh.upd = none ∧ (t.img u.slotB = (if code = 0 then .trial else .empty) ∧ t.img
    (!u.slotB) = s.img (!u.slotB)) ∧ s.raised t .wlh 0 ∧ s.keeps t [.regs, .cnt, .wlh, .ledger, .out, .pcie]) ∧
  (∀ (s : State) (u : Upd), (s.wlh.upd = some u) → u.recovery = true → u.install = false ∨ u.result ≠ 0 → completes
    (.updDone) s fun t => t.wlh.upd = none ∧ (t.wlh.rcvResult = if u.result ≠ 0 then u.result else checkImage s.fuses
    s.slotSize (Map.bytes s.wlh.rcvBuf 0 u.len)) ∧ (t.wlh.rcvResult ≠ 0 → t.flag .wlh Reg.WLH_STAT_RECOVERY = s.flag
    .wlh Reg.WLH_STAT_RECOVERY) ∧ (t.wlh.rcvResult = 0 → u.boot = true → t.flag .wlh Reg.WLH_STAT_RECOVERY = false ∧
    t.wlh.running = true ∧ Out.imageStart false false ∈ t.out) ∧ (t.wlh.stA = s.wlh.stA ∧ t.wlh.stB = s.wlh.stB ∧
    t.wlh.flash = s.wlh.flash) ∧ (∀ q, u.seq = some q → Out.uartReply q t.wlh.rcvResult ∈ t.out) ∧ s.keeps t
    [.regs, .cnt, .wlh, .out]) ∧
  (∀ (s : State), (s.wlh.upd.all (fun u => u.install && u.result == 0 && decide (u.done < u.len)) = true) → completes
    (.updDone) s fun t => t = s) ∧
  (∀ (s : State) (b : Bool), s.ready .wlh = true → s.wlh.running = true → b = s.wlh.bootB → s.img b = .trial →
    s.ledger.closed = false → completes (.confirm) s fun t => (t =
    { s with ledger := { s.ledger with writing := s.ledger.writing ++ [if b then imgRec (if s.wlh.stA = .confirmed then .retired else s.wlh.stA) s.wlh.triesA .confirmed s.wlh.triesB else imgRec .confirmed s.wlh.triesA (if s.wlh.stB = .confirmed then .retired else s.wlh.stB) s.wlh.triesB] } })) ∧
  (∀ (s : State), s.ready .wlh = true → s.wlh.running = false ∨ s.img s.wlh.bootB ≠ .trial → completes (.confirm)
    s fun t => s.erred t .wlh 2 ∧ s.changes t [] (errPlaces .wlh) (errCounts .wlh)) ∧
  (∀ (s : State), s.ready .wlh = false ∨ s.wlh.running = true ∧ s.img s.wlh.bootB = .trial ∧ s.ledger.closed = true →
    completes (.confirm) s fun t => t = s)

/-- In recovery mode RCV_VERIFY, RCV_INSTALL and RCV_BOOT start their command on the buffer, or answer BUSY while
one runs. A frame with a bad CRC is answered 0x0B and a repeated SEQ with the last answer; WRITE_BUF stores its
payload, or answers TOO_LONG past the buffer; SET_LEN sets RCV_LEN; RUN starts a command and is answered when it
ends; STATUS answers the result. Outside recovery mode none of them has an effect. UART_FRAME_TIMEOUT discards the
frame under way. On points the spec leaves open it states the model's choices (notes/assumptions/46). -/
def Obligations.RecoveryAnswers : Prop :=
  (∀ (s : State), s.recovery = true → s.wlh.upd ≠ none → completes (.rcvVerify) s fun t => t =
    { s with wlh := { s.wlh with rcvResult := 1 } }) ∧
  (∀ (s : State), s.recovery = true → s.wlh.upd = none → completes (.rcvVerify) s fun t => (t =
    { s with wlh := { s.wlh with upd := some { install := false, boot := false, len := s.wlh.rcvLen, recovery := true, result := if (min s.slotSize 32505856) < s.wlh.rcvLen then 7 else 0 } } })) ∧
  (∀ (s : State), s.recovery = true → s.wlh.upd ≠ none → completes (.rcvInstall) s fun t => t =
    { s with wlh := { s.wlh with rcvResult := 1 } }) ∧
  (∀ (s : State), s.recovery = true → s.wlh.upd ≠ none → completes (.rcvBoot) s fun t => t =
    { s with wlh := { s.wlh with rcvResult := 1 } }) ∧
  (∀ (s : State), s.recovery = true → s.wlh.upd = none → completes (.rcvBoot) s fun t => (t =
    { s with wlh := { s.wlh with upd := some { install := false, boot := true, len := s.wlh.rcvLen, recovery := true, result := if (min s.slotSize 32505856) < s.wlh.rcvLen then 7 else 0 } } })) ∧
  (∀ (s : State), s.recovery = true → s.wlh.upd = none → ¬ (s.wlh.stA ≠ .trial ∧ s.wlh.stA ≠ .writing ∧ s.wlh.stB ≠
    .trial ∧ s.wlh.stB ≠ .writing) → completes (.rcvInstall) s fun t => (t =
    { s with wlh := { s.wlh with upd := some { install := true, slotB := (decide (s.wlh.stA = .confirmed)), len := s.wlh.rcvLen, recovery := true, result := 0x0A } } })) ∧
  (∀ (s : State), s.recovery = true → s.wlh.upd = none → s.wlh.stA ≠ .trial ∧ s.wlh.stA ≠ .writing ∧ s.wlh.stB ≠
    .trial ∧ s.wlh.stB ≠ .writing → (min s.slotSize 32505856) < s.wlh.rcvLen → completes (.rcvInstall) s fun t => (t
    =
    { s with wlh := { s.wlh with upd := some { install := true, slotB := (decide (s.wlh.stA = .confirmed)), len := s.wlh.rcvLen, recovery := true, result := 7 } } })) ∧
  (∀ (s : State) (b : Bool) (k : Nat) (rest : List Nat), s.recovery = true → s.wlh.upd = none → s.wlh.stA ≠ .trial ∧
    s.wlh.stA ≠ .writing ∧ s.wlh.stB ≠ .trial ∧ s.wlh.stB ≠ .writing → b = (decide (s.wlh.stA = .confirmed)) →
    s.wlh.rcvLen ≤ (min s.slotSize 32505856) → s.goodSectors b = k :: rest → s.ledger.closed = false → completes
    (.rcvInstall) s fun t => (t.img b = .writing ∧ t.img (!b) = s.img (!b)) ∧ (t.wlh.upd = some
    { install := true, slotB := b, len := s.wlh.rcvLen, recovery := true, sector := some k }) ∧ t.out = s.out ++
    [Out.spi true k] ∧ s.keeps t [.regs, .cnt, .wlh, .ledger, .out]) ∧
  (∀ (s : State) (q : Byte), s.recovery = false → ∀ c ∈
    [Instr.rcvVerify, .rcvInstall, .rcvBoot, .writeBuf q 0 [] true, .setLen q 5 true, .run q 1 true, .status q true],
    completes c s fun t => t = s) ∧
  (∀ (s : State) (q : Byte) (o : Nat) (b : List Byte), s.recovery = true → completes (.writeBuf q o b false) s fun t
    => t.out = s.out ++ [Out.uartReply q 0x0B] ∧ t.counter .uart 0x80 = min max64 (s.counter .uart 0x80 + 3) ∧ t.uart
    = { s.uart with frame := [] } ∧ t.wlh = s.wlh ∧ s.changes t [.uart, .out] [] [(.uart, 0x80)]) ∧
  (∀ (s : State) (q : Byte) (o : Nat) (b : List Byte), s.recovery = true → (s.wlh.lastSeq = some q) → completes
    (.writeBuf q o b true) s fun t => t.out = s.out ++ [Out.uartReply q s.wlh.lastAns] ∧ t.counter .uart 0x80 = min
    max64 (s.counter .uart 0x80 + 3) ∧ t.uart = { s.uart with frame := [] } ∧ t.wlh = s.wlh ∧ s.changes t
    [.uart, .out] [] [(.uart, 0x80)]) ∧
  (∀ (s : State) (q : Byte) (n : Word), s.recovery = true → completes (.setLen q n false) s fun t => t.out = s.out ++
    [Out.uartReply q 0x0B] ∧ t.counter .uart 0x80 = min max64 (s.counter .uart 0x80 + 3) ∧ t.uart =
    { s.uart with frame := [] } ∧ t.wlh = s.wlh ∧ s.changes t [.uart, .out] [] [(.uart, 0x80)]) ∧
  (∀ (s : State) (q : Byte) (n : Word), s.recovery = true → (s.wlh.lastSeq = some q) → completes (.setLen q n true)
    s fun t => t.out = s.out ++ [Out.uartReply q s.wlh.lastAns] ∧ t.counter .uart 0x80 = min max64 (s.counter .uart
    0x80 + 3) ∧ t.uart = { s.uart with frame := [] } ∧ t.wlh = s.wlh ∧ s.changes t [.uart, .out] [] [(.uart, 0x80)]) ∧
  (∀ (s : State) (q op : Byte), s.recovery = true → completes (.run q op false) s fun t => t.out = s.out ++
    [Out.uartReply q 0x0B] ∧ t.counter .uart 0x80 = min max64 (s.counter .uart 0x80 + 3) ∧ t.uart =
    { s.uart with frame := [] } ∧ t.wlh = s.wlh ∧ s.changes t [.uart, .out] [] [(.uart, 0x80)]) ∧
  (∀ (s : State) (q op : Byte), s.recovery = true → (s.wlh.lastSeq = some q) → completes (.run q op true) s fun t =>
    t.out = s.out ++ [Out.uartReply q s.wlh.lastAns] ∧ t.counter .uart 0x80 = min max64 (s.counter .uart 0x80 + 3) ∧
    t.uart = { s.uart with frame := [] } ∧ t.wlh = s.wlh ∧ s.changes t [.uart, .out] [] [(.uart, 0x80)]) ∧
  (∀ (s : State) (q : Byte), s.recovery = true → completes (.status q false) s fun t => t.out = s.out ++
    [Out.uartReply q 0x0B] ∧ t.counter .uart 0x80 = min max64 (s.counter .uart 0x80 + 3) ∧ t.uart =
    { s.uart with frame := [] } ∧ t.wlh = s.wlh ∧ s.changes t [.uart, .out] [] [(.uart, 0x80)]) ∧
  (∀ (s : State) (q : Byte), s.recovery = true → (s.wlh.lastSeq = some q) → completes (.status q true) s fun t =>
    t.out = s.out ++ [Out.uartReply q s.wlh.lastAns] ∧ t.counter .uart 0x80 = min max64 (s.counter .uart 0x80 + 3) ∧
    t.uart = { s.uart with frame := [] } ∧ t.wlh = s.wlh ∧ s.changes t [.uart, .out] [] [(.uart, 0x80)]) ∧
  (∀ (s : State) (q : Byte) (o : Nat) (b : List Byte), s.recovery = true → (s.wlh.lastSeq ≠ some q) → o + b.length ≤
    32505856 → completes (.writeBuf q o b true) s fun t => t.out = s.out ++ [Out.uartReply q 0] ∧ t.counter .uart
    0x80 = min max64 (s.counter .uart 0x80 + 3) ∧ t.uart = { s.uart with frame := [] } ∧ (t.wlh =
    { s.wlh with rcvBuf := Map.store s.wlh.rcvBuf o b, lastSeq := some q, lastAns := 0 }) ∧ Map.bytes t.wlh.rcvBuf o
    b.length = b ∧ bytesSame s.wlh.rcvBuf t.wlh.rcvBuf o b.length ∧ s.changes t [.uart, .out, .wlh] []
    [(.uart, 0x80)]) ∧
  (∀ (s : State) (q : Byte) (o : Nat) (b : List Byte), s.recovery = true → (s.wlh.lastSeq ≠ some q) → 32505856 < o +
    b.length → completes (.writeBuf q o b true) s fun t => t.out = s.out ++ [Out.uartReply q 7] ∧ t.counter .uart
    0x80 = min max64 (s.counter .uart 0x80 + 3) ∧ t.uart = { s.uart with frame := [] } ∧ (t.wlh =
    { s.wlh with lastSeq := some q, lastAns := 7 }) ∧ s.changes t [.uart, .out, .wlh] [] [(.uart, 0x80)]) ∧
  (∀ (s : State) (q : Byte) (n : Word), s.recovery = true → (s.wlh.lastSeq ≠ some q) → completes (.setLen q n true)
    s fun t => t.out = s.out ++ [Out.uartReply q 0] ∧ t.counter .uart 0x80 = min max64 (s.counter .uart 0x80 + 3) ∧
    t.uart = { s.uart with frame := [] } ∧ (t.wlh =
    { s.wlh with rcvLen := n.toNat, lastSeq := some q, lastAns := 0 }) ∧ s.changes t [.uart, .out, .wlh] []
    [(.uart, 0x80)]) ∧
  (∀ (s : State) (q : Byte), s.recovery = true → (s.wlh.lastSeq ≠ some q) → completes (.status q true) s fun t =>
    (t.out = s.out ++ [Out.uartReply q (if s.wlh.upd.isSome then 1 else s.wlh.rcvResult)]) ∧ t.counter .uart 0x80 =
    min max64 (s.counter .uart 0x80 + 3) ∧ t.uart = { s.uart with frame := [] } ∧ (t.wlh =
    { s.wlh with lastSeq := some q, lastAns := if s.wlh.upd.isSome then 1 else s.wlh.rcvResult }) ∧ s.changes t
    [.uart, .out, .wlh] [] [(.uart, 0x80)]) ∧
  (∀ (s : State) (q op : Byte), s.recovery = true → (s.wlh.lastSeq ≠ some q) → op = 1 ∨ op = 3 → s.wlh.upd = none →
    completes (.run q op true) s fun t => t.out = s.out ∧ (t.wlh =
    { s.wlh with upd := some { install := false, boot := decide (op = 3), len := s.wlh.rcvLen, recovery := true, seq := some q, result := if (min s.slotSize 32505856) < s.wlh.rcvLen then 7 else 0 }, lastSeq := some q, lastAns := 1 })
    ∧ s.changes t [.uart, .wlh] [] []) ∧
  (∀ (s : State) (q op : Byte) (b : Bool) (k : Nat) (rest : List Nat), s.recovery = true → (s.wlh.lastSeq ≠ some q) →
    op = 2 → s.wlh.upd = none → s.wlh.stA ≠ .trial ∧ s.wlh.stA ≠ .writing ∧ s.wlh.stB ≠ .trial ∧ s.wlh.stB ≠ .writing
    → b = (decide (s.wlh.stA = .confirmed)) → s.wlh.rcvLen ≤ (min s.slotSize 32505856) → s.goodSectors b = k :: rest
    → s.ledger.closed = false → completes (.run q op true) s fun t => t.img b = .writing ∧ (t.wlh.upd = some
    { install := true, slotB := b, len := s.wlh.rcvLen, recovery := true, seq := some q, sector := some k }) ∧
    (t.wlh.lastSeq = some q) ∧ t.out = s.out ++ [Out.spi true k] ∧ s.keeps t
    [.regs, .cnt, .wlh, .ledger, .out, .uart]) ∧
  (∀ (s : State) (q op : Byte), s.recovery = true → (s.wlh.lastSeq ≠ some q) → op = 1 ∨ op = 2 ∨ op = 3 → s.wlh.upd ≠
    none → completes (.run q op true) s fun t => t.out = s.out ++ [Out.uartReply q 1] ∧ t.counter .uart 0x80 = min
    max64 (s.counter .uart 0x80 + 3) ∧ t.uart = { s.uart with frame := [] } ∧ (t.wlh =
    { s.wlh with rcvResult := 1, lastSeq := some q, lastAns := 1 }) ∧ s.changes t [.uart, .out, .wlh] []
    [(.uart, 0x80)]) ∧
  (∀ (s : State) (q op : Byte), s.recovery = true → (s.wlh.lastSeq ≠ some q) → op ≠ 1 ∧ op ≠ 2 ∧ op ≠ 3 → completes
    (.run q op true) s fun t => t.wlh.upd = s.wlh.upd ∧ (t.wlh.lastSeq = some q) ∧ t.counter .uart 0x80 = min max64
    (s.counter .uart 0x80 + 3) ∧ s.changes t [.uart, .out, .wlh, .fresh] [] [(.uart, 0x80)]) ∧
  (∀ (s : State), completes (.uartFrameTimeout) s fun t => t = { s with uart := { s.uart with frame := [] } })

/-- LEDG_WR_GO of firmware queues its record; the host, a read-only or ended ledger and a reserved TYPE are refused
with their result. LEDG_WRITE_DONE puts the record in with its SEQ, or after three failed retries on a spare block,
or turns the ledger read-only; a reset that waited follows. LEDG_RD_GO shows the record found. FLASH_ERASE_DONE and
FLASH_PROGRAM_DONE record the sector and carry an install on; worn sectors retire, and the valid objects of a store
sector are written again elsewhere (R371). The UART moves one byte each way, with its errors, counts and interrupts.
Nothing else changes. On points the spec leaves open it states the model's choices (notes/assumptions/44, 45, 60).
-/
def Obligations.LedgerFlashAndUartWork : Prop :=
  (∀ (s : State) (by_ : Requester) (ty : Byte) (key : Nat), s.ready .ledg = true → by_ = .host → completes (.ledgWrGo
    by_ ty key) s fun t => t.fld .ledg Reg.LEDG_WR_CMD_RESULT = 3 ∧ s.erred t .ledg 1 ∧ s.changes t []
    (Reg.LEDG_WR_CMD_RESULT.place .ledg :: errPlaces .ledg) (errCounts .ledg)) ∧
  (∀ (s : State) (by_ : Requester) (ty : Byte) (key : Nat), s.ready .ledg = true → by_ ≠ .host → s.flag .ledg
    Reg.LEDG_WR_CMD_BUSY = false → s.ledger.readOnly = true → completes (.ledgWrGo by_ ty key) s fun t => t.fld .ledg
    Reg.LEDG_WR_CMD_TYPE = ty.toNat ∧ t.fld .ledg Reg.LEDG_WR_CMD_KEY = key % 65536 ∧ t.fld .ledg
    Reg.LEDG_WR_CMD_RESULT = 1 ∧ s.erred t .ledg 2 ∧ s.changes t []
    ([Reg.LEDG_WR_CMD_RESULT.place .ledg, Reg.LEDG_WR_CMD_TYPE.place .ledg, Reg.LEDG_WR_CMD_KEY.place .ledg] ++
    errPlaces .ledg) (errCounts .ledg)) ∧
  (∀ (s : State) (by_ : Requester) (ty : Byte) (key : Nat), s.ready .ledg = true → by_ ≠ .host → s.flag .ledg
    Reg.LEDG_WR_CMD_BUSY = false → s.ledger.readOnly = false → s.ledger.closed = true → completes (.ledgWrGo by_ ty
    key) s fun t => t.fld .ledg Reg.LEDG_WR_CMD_TYPE = ty.toNat ∧ t.fld .ledg Reg.LEDG_WR_CMD_KEY = key % 65536 ∧
    t.fld .ledg Reg.LEDG_WR_CMD_RESULT = 2 ∧ s.erred t .ledg 3 ∧ s.changes t []
    ([Reg.LEDG_WR_CMD_RESULT.place .ledg, Reg.LEDG_WR_CMD_TYPE.place .ledg, Reg.LEDG_WR_CMD_KEY.place .ledg] ++
    errPlaces .ledg) (errCounts .ledg)) ∧
  (∀ (s : State) (by_ : Requester) (ty : Byte) (key : Nat), s.ready .ledg = true → by_ ≠ .host → s.flag .ledg
    Reg.LEDG_WR_CMD_BUSY = false → s.ledger.closed = false → ty.toNat ∉ ledgTypes → completes (.ledgWrGo by_ ty key)
    s fun t => t.fld .ledg Reg.LEDG_WR_CMD_TYPE = ty.toNat ∧ t.fld .ledg Reg.LEDG_WR_CMD_KEY = key % 65536 ∧ t.fld
    .ledg Reg.LEDG_WR_CMD_RESULT = 4 ∧ s.changes t []
    [Reg.LEDG_WR_CMD_RESULT.place .ledg, Reg.LEDG_WR_CMD_TYPE.place .ledg, Reg.LEDG_WR_CMD_KEY.place .ledg] []) ∧
  (∀ (s : State) (by_ : Requester) (ty : Byte) (key : Nat), s.ready .ledg = true → by_ ≠ .host → s.flag .ledg
    Reg.LEDG_WR_CMD_BUSY = false → s.ledger.closed = false → ty.toNat ∈ ledgTypes → completes (.ledgWrGo by_ ty key)
    s fun t => t.fld .ledg Reg.LEDG_WR_CMD_TYPE = ty.toNat ∧ t.fld .ledg Reg.LEDG_WR_CMD_KEY = key % 65536 ∧ t.flag
    .ledg Reg.LEDG_WR_CMD_BUSY = true ∧ (t.ledger =
    { s.ledger with writing := s.ledger.writing ++ [ledgRec ty.toNat (key % 65536) ((List.range 27).flatMap fun k => bytesOfNat 4 (s.fld .ledg Reg.LEDG_WR_DATA_DATA k))] })
    ∧ s.changes t [.ledger]
    [Reg.LEDG_WR_CMD_BUSY.place .ledg, Reg.LEDG_WR_CMD_TYPE.place .ledg, Reg.LEDG_WR_CMD_KEY.place .ledg] []) ∧
  (∀ (s : State) (by_ : Requester) (ty : Byte) (key : Nat), s.ready .ledg = false ∨ by_ ≠ .host ∧ s.flag .ledg
    Reg.LEDG_WR_CMD_BUSY = true → completes (.ledgWrGo by_ ty key) s fun t => t = s) ∧
  (∀ (s : State) (f : Nat) (r : BitVec 1024), s.ledger.writing = [r] → s.rst.waiting = none → s.ledger.closed = false
    → (recKey r).1 ≠ 3 → s.flag .ledg Reg.LEDG_WR_CMD_BUSY = true → f < 4 ∨ f = 4 ∧ s.ledger.spares ≠ 0 →
    s.ledger.recs.length < 1728 → completes (.ledgWriteDone f) s fun t => (t.ledger =
    { s.ledger with writing := [], recs := sealRec s.ledger.next r :: s.ledger.recs, spares := if f = 4 then s.ledger.spares - 1 else s.ledger.spares })
    ∧ t.flag .ledg Reg.LEDG_WR_CMD_BUSY = false ∧ t.fld .ledg Reg.LEDG_WR_CMD_RESULT = 0 ∧ s.counted t .ledg 0x80 ∧
    s.counted t .ledg 0x88 (min f 3) ∧ t.fld .ledg Reg.LEDG_SEQ_NEXT = (BV (sealRec s.ledger.next r) 0 48 + 1) % 2 ^
    48 ∧ s.changes t [.ledger]
    [Reg.LEDG_STAT_RO.place .ledg, Reg.LEDG_STAT_SPARES.place .ledg, Reg.LEDG_STAT_SEQ_END.place .ledg, Reg.LEDG_SEQ_NEXT.place .ledg, Reg.LEDG_WR_CMD_BUSY.place .ledg, Reg.LEDG_WR_CMD_RESULT.place .ledg]
    [(.ledg, 0x80), (.ledg, 0x88), (.ledg, 0x90), (.ledg, 0x98)]) ∧
  (∀ (s : State) (f : Nat) (r : BitVec 1024), s.ledger.writing = [r] → s.rst.waiting = none → s.ledger.closed = false
    → (recKey r).1 ≠ 3 → s.flag .ledg Reg.LEDG_WR_CMD_BUSY = true → f = 4 → s.ledger.spares = 0 → completes
    (.ledgWriteDone f) s fun t => t.ledger = { s.ledger with writing := [], readOnly := true } ∧ t.flag .ledg
    Reg.LEDG_STAT_RO = true ∧ t.flag .ledg Reg.LEDG_WR_CMD_BUSY = false ∧ t.fld .ledg Reg.LEDG_WR_CMD_RESULT = 1 ∧
    s.erred t .ledg 2 ∧ s.raised t .ledg 0 ∧ s.counted t .ledg 0x90 ∧ s.changes t [.ledger, .out, .pcie]
    ([Reg.LEDG_STAT_RO.place .ledg, Reg.LEDG_STAT_SPARES.place .ledg, Reg.LEDG_STAT_SEQ_END.place .ledg, Reg.LEDG_SEQ_NEXT.place .ledg, Reg.LEDG_WR_CMD_BUSY.place .ledg, Reg.LEDG_WR_CMD_RESULT.place .ledg]
    ++ errPlaces .ledg ++ irqPlaces .ledg) ([(Page.ledg, 0x50), (Page.ledg, 0x88), (Page.ledg, 0x90)] ++ irqCounts
    .ledg)) ∧
  (∀ (s : State) (f c : Nat) (r : BitVec 1024), s.ledger.writing = [r] → (s.rst.waiting = some c) → 3 ≤ c → (∀ m ∈
    s.tier.migs, m.kind = .localMove) → completes (.ledgWriteDone f) s fun t => (t.fld .rstc Reg.RSTC_CAUSE_CAUSE = c
    % 16 ∨ t.fld .rstc Reg.RSTC_CAUSE_CAUSE = c % 256) ∧ t.ledger.writing = [] ∧ (t.reqs = [] ∧ t.tiles = [] ∧ t.qps
    = []) ∧ t.rst.waiting = none ∧ s.keeps t
    [.fresh, .out, .regs, .cnt, .shadow, .mem, .sram, .sramBad, .tiles, .parts, .movers, .tenants, .reqs, .convs, .tier, .rrc, .engines, .regions, .qps, .ports, .finj, .srch, .units, .digs, .elog, .qrm, .pwr, .rst, .wlh, .uart, .pcie, .ledger]) ∧
  (∀ (s : State) (f : Nat) (e : BitVec 512) (rest : List (BitVec 512)), s.ledger.writing = [] → s.elog.toLedger = e
    :: rest → s.wlh.running = true → s.ledger.closed = false → f < 4 → s.ledger.recs.length < 1728 → completes
    (.ledgWriteDone f) s fun t => t.ledger =
    { s.ledger with recs := sealRec s.ledger.next (ledgRec 1 0 (BVbytes e)) :: s.ledger.recs } ∧ t.elog =
    { s.elog with toLedger := rest } ∧ s.changes t [.ledger, .elog]
    [Reg.LEDG_STAT_RO.place .ledg, Reg.LEDG_STAT_SPARES.place .ledg, Reg.LEDG_STAT_SEQ_END.place .ledg, Reg.LEDG_SEQ_NEXT.place .ledg, Reg.LEDG_WR_CMD_BUSY.place .ledg, Reg.LEDG_WR_CMD_RESULT.place .ledg]
    [(.ledg, 0x80), (.ledg, 0x88), (.ledg, 0x98)]) ∧
  (∀ (s : State) (f : Nat) (e : BitVec 512) (rest : List (BitVec 512)), s.ledger.writing = [] → s.elog.toLedger = e
    :: rest → s.wlh.running = true → s.ledger.closed = true → completes (.ledgWriteDone f) s fun t => t =
    { { s with elog := { s.elog with toLedger := rest } } with cnt := t.cnt } ∧ s.counted t .ledg 0xA0 ∧ s.changes t
    [.elog] [] [(.ledg, 0xA0)]) ∧
  (∀ (s : State) (f : Nat), s.ledger.writing = [] → s.elog.toLedger = [] ∨ s.wlh.running = false → completes
    (.ledgWriteDone f) s fun t => t = s) ∧
  (∀ (s : State) (i : Nat) (k : Bool) (r : BitVec 1024), s.ready .ledg = true → ((if k then s.ledger.recs.find? (fun
    x => recKey x == (s.fld .ledg Reg.LEDG_RD_KEY_TYPE, s.fld .ledg Reg.LEDG_RD_KEY_KEY)) else
    s.ledger.recs[i % 2048]?) = some r) → completes (.ledgRdGo i k) s fun t => t.flag .ledg Reg.LEDG_RD_SEL_FOUND =
    true ∧ (∀ j : Fin 32, t.fld .ledg Reg.LEDG_RD_DATA_DATA j.val = BV r (32 * j.val) 32) ∧ (s.changes t []
    ([Reg.LEDG_RD_SEL_INDEX.place .ledg, Reg.LEDG_RD_SEL_BY_KEY.place .ledg, Reg.LEDG_RD_SEL_FOUND.place .ledg] ++
    (List.range 32).map fun j => Reg.LEDG_RD_DATA_DATA.place .ledg j) [])) ∧
  (∀ (s : State) (i : Nat) (k : Bool), s.ready .ledg = true → ((if k then s.ledger.recs.find? (fun x => recKey x ==
    (s.fld .ledg Reg.LEDG_RD_KEY_TYPE, s.fld .ledg Reg.LEDG_RD_KEY_KEY)) else s.ledger.recs[i % 2048]?) = none) →
    completes (.ledgRdGo i k) s fun t => t.flag .ledg Reg.LEDG_RD_SEL_FOUND = false ∧ s.changes t []
    [Reg.LEDG_RD_SEL_INDEX.place .ledg, Reg.LEDG_RD_SEL_BY_KEY.place .ledg, Reg.LEDG_RD_SEL_FOUND.place .ledg] []) ∧
  (∀ (s : State) (i : Nat) (k : Bool), s.ready .ledg = false → completes (.ledgRdGo i k) s fun t => t = s) ∧
  (∀ (s : State) (k us : Nat) (x : Sector), k * 65536 < s.wlh.flashSize → x = Map.get {} s.wlh.sectors k →
    (s.wlh.upd.all (fun u => decide (u.sector ≠ some k)) = true) → completes (.flashEraseDone k true us) s fun t =>
    Map.get {} t.wlh.sectors k =
    { x with erased := true, intent := false, erases := x.erases + 1, eraseUs := us, progUs := 0, retries := 0, retired := x.retired || decide (s.fld .wlh Reg.WLH_FLASH_THR_ERASE_MS * 1000 < us) }
    ∧ ((∀ a, k * 65536 ≤ a → a < (k + 1) * 65536 → Map.get 0 t.wlh.flash a = 0) ∧ ∀ a, a < k * 65536 ∨ (k + 1) *
    65536 ≤ a → Map.get 0 t.wlh.flash a = Map.get 0 s.wlh.flash a) ∧ t.out = s.out ∧ (x.retired = false → s.fld .wlh
    Reg.WLH_FLASH_THR_ERASE_MS * 1000 < us → s.counted t .wlh 0x98) ∧ s.keeps t [.regs, .cnt, .wlh, .ledger, .out]) ∧
  (∀ (s : State) (k us : Nat) (x : Sector) (u : Upd), k * 65536 < s.wlh.flashSize → x = Map.get {} s.wlh.sectors k →
    (s.wlh.upd = some u) → (u.sector = some k) → u.erased = false → us ≤ s.fld .wlh Reg.WLH_FLASH_THR_ERASE_MS * 1000
    → completes (.flashEraseDone k true us) s fun t => (t.wlh.upd = some { u with erased := true }) ∧ t.out = s.out
    ++ [Out.spi false k] ∧ (Map.get {} t.wlh.sectors k).erased = true ∧ ((∀ a, k * 65536 ≤ a → a < (k + 1) * 65536 →
    Map.get 0 t.wlh.flash a = 0) ∧ ∀ a, a < k * 65536 ∨ (k + 1) * 65536 ≤ a → Map.get 0 t.wlh.flash a = Map.get 0
    s.wlh.flash a) ∧ s.keeps t [.regs, .cnt, .wlh, .ledger, .out]) ∧
  (∀ (s : State) (k us : Nat) (x : Sector), k * 65536 < s.wlh.flashSize → x = Map.get {} s.wlh.sectors k → completes
    (.flashEraseDone k false us) s fun t => Map.get {} t.wlh.sectors k =
    { x with intent := true, erases := x.erases + 1, eraseUs := us } ∧ t.out = s.out ++ [Out.spi true k] ∧ ((∀ a, k *
    65536 ≤ a → a < (k + 1) * 65536 → Map.get 0 t.wlh.flash a = 0) ∧ ∀ a, a < k * 65536 ∨ (k + 1) * 65536 ≤ a →
    Map.get 0 t.wlh.flash a = Map.get 0 s.wlh.flash a) ∧ s.keeps t [.regs, .cnt, .wlh, .ledger, .out]) ∧
  (∀ (s : State) (k us : Nat) (b : Bool), s.wlh.flashSize ≤ k * 65536 → completes (.flashEraseDone k b us) s fun t =>
    t = s) ∧
  (∀ (s : State) (k us : Nat) (x : Sector) (u : Upd), k * 65536 < s.wlh.flashSize → x = Map.get {} s.wlh.sectors k →
    (s.wlh.upd = some u) → (u.sector = some k) → u.erased = true → x.retries ≤ s.fld .wlh Reg.WLH_FLASH_THR_RETRY →
    u.len ≤ u.done + 65536 → completes (.flashProgramDone k true us) s fun t => (t.wlh.upd = some
    { u with done := u.done + (u.len - u.done), sector := none }) ∧ Map.get {} t.wlh.sectors k =
    { x with erased := false, progUs := max x.progUs us } ∧ Map.bytes t.wlh.flash (k * 65536) (u.len - u.done) =
    s.updBytes u u.done (u.len - u.done) ∧ bytesSame s.wlh.flash t.wlh.flash (k * 65536) (u.len - u.done) ∧ t.out =
    s.out ∧ s.keeps t [.regs, .cnt, .wlh, .ledger, .out]) ∧
  (∀ (s : State) (k us : Nat) (x : Sector) (u : Upd) (j : Nat), k * 65536 < s.wlh.flashSize → x = Map.get {}
    s.wlh.sectors k → (s.wlh.upd = some u) → (u.sector = some k) → u.erased = true → x.retries ≤ s.fld .wlh
    Reg.WLH_FLASH_THR_RETRY → u.done + 65536 < u.len → ((s.goodSectors u.slotB).find? (fun j => decide (k + 1 ≤ j)) =
    some j) → completes (.flashProgramDone k true us) s fun t => (t.wlh.upd = some
    { u with done := u.done + 65536, sector := some j, erased := false }) ∧ (Map.get {} t.wlh.sectors j).intent =
    true ∧ t.out = s.out ++ [Out.spi true j] ∧ bytesSame s.wlh.flash t.wlh.flash (k * 65536) 65536 ∧ s.keeps t
    [.regs, .cnt, .wlh, .ledger, .out]) ∧
  (∀ (s : State) (k us : Nat) (x : Sector) (u : Upd), k * 65536 < s.wlh.flashSize → x = Map.get {} s.wlh.sectors k →
    (s.wlh.upd = some u) → (u.sector = some k) → u.erased = true → x.retries ≤ s.fld .wlh Reg.WLH_FLASH_THR_RETRY →
    u.done + 65536 < u.len → ((s.goodSectors u.slotB).find? (fun j => decide (k + 1 ≤ j)) = none) → s.ledger.closed =
    false → (s.ledger.append (ledgRec 0x05 k [])).1.closed = false → completes (.flashProgramDone k true us) s fun t
    => (t.wlh.upd = some { u with done := u.done + 65536, result := 8, sector := none }) ∧ t.img u.slotB = .empty ∧
    t.out = s.out ∧ s.keeps t [.regs, .cnt, .wlh, .ledger, .out]) ∧
  (∀ (s : State) (k us : Nat) (x : Sector), k * 65536 < s.wlh.flashSize → x = Map.get {} s.wlh.sectors k → x.retries
    < 3 → completes (.flashProgramDone k false us) s fun t => Map.get {} t.wlh.sectors k =
    { x with erased := false, progUs := max x.progUs us, retries := x.retries + 1 } ∧ t.out = s.out ++
    [Out.spi false k] ∧ s.changes t [.wlh, .out] [] []) ∧
  (∀ (s : State) (k us : Nat) (x : Sector) (u : Upd), k * 65536 < s.wlh.flashSize → x = Map.get {} s.wlh.sectors k →
    (s.wlh.upd = some u) → (u.sector = some k) → u.erased = true → 3 ≤ x.retries → s.ledger.closed = false →
    (s.ledger.append (ledgRec 0x05 k [])).1.closed = false → completes (.flashProgramDone k false us) s fun t =>
    Map.get {} t.wlh.sectors k = { x with erased := false, progUs := max x.progUs us, retired := true } ∧ (t.wlh.upd
    = some { u with result := 9, sector := none }) ∧ t.img u.slotB = .empty ∧ (x.retired = false → s.counted t .wlh
    0x98) ∧ s.keeps t [.regs, .cnt, .wlh, .ledger, .out]) ∧
  (∀ (s : State) (k us j : Nat) (x : Sector) (b : StoreObj), k * 65536 < s.wlh.flashSize → x = Map.get {}
    s.wlh.sectors k → x.retired = false → s.wlh.upd = none → 3 ≤ x.retries → s.storeObjs.filter (fun o =>
    s.storeSectors[o.place / 65536]? == some k) = [b] → b.bytes.length ≤ 65536 → ((s.storeSectors.filter (· ≠
    k)).find? (fun i => (Map.get {} s.wlh.sectors i).erased) = some j) → completes (.flashProgramDone k false us)
    s fun t => (Map.get {} t.wlh.sectors k).retired = true ∧ s.counted t .wlh 0x98 ∧ Map.bytes t.wlh.flash (j *
    65536) b.bytes.length = b.bytes ∧ bytesSame s.wlh.flash t.wlh.flash (j * 65536) b.bytes.length ∧ Map.get {}
    t.wlh.sectors j = { Map.get {} s.wlh.sectors j with erased := false } ∧ t.out = s.out ∧ s.keeps t
    [.regs, .cnt, .wlh, .ledger]) ∧
  (∀ (s : State) (k us : Nat) (b : Bool), s.wlh.flashSize ≤ k * 65536 → completes (.flashProgramDone k b us) s fun t
    => t = s) ∧
  (∀ (s : State) (b : Byte), s.ready .uart = true → s.flag .uart Reg.UART_CTRL_RX_EN = true ∧ s.flag .pin
    Reg.PIN_FUNC_UART = true → completes (.uartRxByte b true) s fun t => t.flag .uart Reg.UART_STAT_FRAME_ERR = true
    ∧ s.counted t .uart 0x90 ∧ s.changes t [] [Reg.UART_STAT_FRAME_ERR.place .uart] [(.uart, 0x90)]) ∧
  (∀ (s : State) (b : Byte), s.ready .uart = true → s.flag .uart Reg.UART_CTRL_RX_EN = true ∧ s.flag .pin
    Reg.PIN_FUNC_UART = true → s.recovery = true → completes (.uartRxByte b false) s fun t => t.uart =
    { s.uart with frame := s.uart.frame ++ [b] } ∧ s.counted t .uart 0x88 ∧ s.changes t [.uart] [] [(.uart, 0x88)]) ∧
  (∀ (s : State) (b : Byte), s.ready .uart = true → s.flag .uart Reg.UART_CTRL_RX_EN = true ∧ s.flag .pin
    Reg.PIN_FUNC_UART = true → s.recovery = false → 32 ≤ s.uart.rx.length → completes (.uartRxByte b false) s fun t
    => t.flag .uart Reg.UART_STAT_OVERRUN = true ∧ s.counted t .uart 0x98 ∧ s.changes t []
    [Reg.UART_STAT_OVERRUN.place .uart] [(.uart, 0x98)]) ∧
  (∀ (s : State) (b : Byte), s.ready .uart = true → s.flag .uart Reg.UART_CTRL_RX_EN = true ∧ s.flag .pin
    Reg.PIN_FUNC_UART = true → s.recovery = false → s.uart.rx.length < 32 → completes (.uartRxByte b false) s fun t
    => t.uart = { s.uart with rx := s.uart.rx ++ [b] } ∧ s.counted t .uart 0x88 ∧ s.raised t .uart 0 ∧ s.changes t
    [.uart, .out, .pcie] (irqPlaces .uart) ((.uart, 0x88) :: irqCounts .uart)) ∧
  (∀ (s : State) (b : Byte) (l : Bool), s.ready .uart = false ∨ s.flag .uart Reg.UART_CTRL_RX_EN = false ∨ s.flag
    .pin Reg.PIN_FUNC_UART = false → completes (.uartRxByte b l) s fun t => t = s) ∧
  (∀ (s : State) (b : Byte), s.ready .uart = true → s.uart.tx.length < 32 → completes (.uartDataWrite b) s fun t => t
    = { s with uart := { s.uart with tx := s.uart.tx ++ [b] } }) ∧
  (∀ (s : State) (b : Byte), s.ready .uart = false ∨ 32 ≤ s.uart.tx.length → completes (.uartDataWrite b) s fun t =>
    t = s) ∧
  (∀ (s : State) (b : Byte) (rest : List Byte), s.ready .uart = true → s.uart.rx = b :: rest → completes
    (.uartDataRead) s fun t => t = { s with uart := { s.uart with rx := rest }, out := s.out ++ [Out.uartRead b] }) ∧
  (∀ (s : State), s.ready .uart = false ∨ s.uart.rx = [] → completes (.uartDataRead) s fun t => t =
    { s with out := s.out ++ [Out.uartRead 0] }) ∧
  (∀ (s : State) (b : Byte) (rest : List Byte), s.uart.tx = b :: rest → s.works .uart = true → s.flag .uart
    Reg.UART_CTRL_TX_EN = true → rest ≠ [] → completes (.uartTxByteSent) s fun t => t.uart =
    { s.uart with tx := rest } ∧ (t.out = if s.flag .pin Reg.PIN_FUNC_UART then s.out ++ [Out.uartTx b] else s.out) ∧
    s.counted t .uart 0x80 ∧ s.changes t [.uart, .out] [] [(.uart, 0x80)]) ∧
  (∀ (s : State) (b : Byte) (rest : List Byte), s.uart.tx = b :: rest → s.works .uart = true → s.flag .uart
    Reg.UART_CTRL_TX_EN = true → rest = [] → completes (.uartTxByteSent) s fun t => t.uart = { s.uart with tx := [] }
    ∧ (s.flag .pin Reg.PIN_FUNC_UART = true → Out.uartTx b ∈ t.out) ∧ s.counted t .uart 0x80 ∧ s.raised t .uart 1 ∧
    s.changes t [.uart, .out, .pcie] (irqPlaces .uart) ((.uart, 0x80) :: irqCounts .uart)) ∧
  (∀ (s : State), s.uart.tx = [] ∨ s.works .uart = false ∨ s.flag .uart Reg.UART_CTRL_TX_EN = false → completes
    (.uartTxByteSent) s fun t => t = s)

/-- BAR2_READ and BAR2_WRITE act on the State Space behind the window of their function: a read of RESIDENT pages
answers each 256-byte piece with the stored bytes, a write of one piece stores its enabled bytes, a read of a page
in transit is held and completes with Completer Abort at its limit; without BAR2, and for AtomicOps, Unsupported
Request. PCIE_LINK_CHANGE, AER_ERROR_LOGGED, MSIX_VECTOR_UNMASK, VF_ENABLE_WRITE and DEV_NODE_WRITE update what
Tables 17-8 and 17-9 name. Nothing else changes. On points the spec leaves open it states the model's choices
(notes/assumptions/48). -/
def Obligations.HostWindowAndPcieEvents : Prop :=
  (∀ (s : State) (fn1 : Bool) (x len off : Nat), s.bar2On fn1 = true → off = s.bar2Off fn1 x → 0 < len → s.readable
    off len → completes (.bar2Read fn1 x len) s fun t => (t.out = s.out ++ (blocks256 off len).map fun b =>
    .accessDone .host b.1 (Map.bytes s.mem b.1 b.2)) ∧ s.counted t .pcie 0x80 ∧ (t.mem = s.mem ∧ t.tier.pages =
    s.tier.pages) ∧ s.changes t [.tier, .out, .pwr] [] [(.pcie, 0x80), (.tier, 0x90), (.pwr, 0xB0)]) ∧
  (∀ (s : State) (fn1 : Bool) (x len off : Nat), s.bar2On fn1 = true → off = s.bar2Off fn1 x → 0 < len → off % 256 +
    len ≤ 256 → ((s.leaf (off / 65536)).st = .inTransit ∧ (s.mig (off / 65536)).any (fun m => m.kind = .pull) = true)
    → (s.heldOn (off / 65536)).length < 64 → completes (.bar2Read fn1 x len) s fun t => t.heldOn (off / 65536) =
    s.heldOn (off / 65536) ++
    [({ src := .host, offset := off, len := len, write := none, ticket := s.tier.nextTicket + 1 } : Held)] ∧ t.pcie =
    { s.pcie with held := s.pcie.held ++ [(s.tier.nextTicket + 1, s.now, off, len)] } ∧ t.out = s.out ++
    [Out.accessHeld .host off] ∧ s.counted t .pcie 0x80 ∧ s.counted t .tier 0xB8 ∧ s.changes t
    [.tier, .out, .pwr, .pcie] [] [(.pcie, 0x80), (.tier, 0xB8), (.tier, 0x90), (.pwr, 0xB0)]) ∧
  (∀ (s : State) (fn1 : Bool) (x len : Nat), s.bar2On fn1 = false → completes (.bar2Read fn1 x len) s fun t => t =
    { s with out := s.out ++ [Out.bar2Cpl 1 []] }) ∧
  (∀ (s : State) (fn1 : Bool) (x off : Nat) (data : List (Option Byte)) (home : TierName), s.bar2On fn1 = true → off
    = s.bar2Off fn1 x → data ≠ [] → off % 256 + data.length ≤ 256 → (s.leaf (off / 65536)).st = .resident home →
    s.heldOn (off / 65536) = [] → completes (.bar2Write fn1 x data) s fun t => (∀ i, i < data.length → Map.get 0
    t.mem (off + i) = (data.getD i none).getD (Map.get 0 s.mem (off + i))) ∧ bytesSame s.mem t.mem off data.length ∧
    s.counted t .pcie 0x88 ∧ t.tier.pages = s.tier.pages ∧ s.changes t [.mem, .digs, .tier, .out, .pwr] []
    [(.pcie, 0x88), (.tier, 0x90), (.pwr, 0xB0)]) ∧
  (∀ (s : State) (fn1 : Bool) (x : Nat) (data : List (Option Byte)), s.bar2On fn1 = false → completes (.bar2Write fn1
    x data) s fun t => t = s) ∧
  (∀ (s : State) (fn1 : Bool) (x : Nat), completes (.bar2AtomicOp fn1 x) s fun t => t =
    { s with out := s.out ++ [Out.bar2Cpl 1 []] }) ∧
  (∀ (s : State) (ticket t0 off n : Nat), ticket ≠ 0 → (s.pcie.held.find? (fun h => h.1 = ticket) = some (ticket, t0,
    off, n)) → ((s.heldOn (pageOf off)).any (fun h => h.ticket = ticket ∧ h.write = none) = true) → s.stalledOn
    (pageOf off) = [] → t0 + s.fld .pcie Reg.PCIE_BAR2_CTRL_HOLD_LIMIT_US * 1000 ≤ s.now → 0 < n → off % 65536 + n ≤
    65536 → completes (.bar2HoldTimeout ticket) s fun t => (t.heldOn (pageOf off) = (s.heldOn (pageOf off)).filter
    (fun h => h.ticket ≠ ticket)) ∧ (t.pcie.held = s.pcie.held.filter (fun h => h.1 ≠ ticket)) ∧ t.out = s.out ++
    Out.bar2Cpl 4 [] :: s.irqOut .pcie 1 ∧ s.counted t .pcie 0x90 ∧ s.erred t .pcie 0x03 ∧ s.raised t .pcie 1 ∧
    t.tier.pages = s.tier.pages ∧ s.changes t [.tier, .pcie, .out] (irqPlaces .pcie ++ errPlaces .pcie) ((Page.pcie,
    0x90) :: irqCounts .pcie ++ errCounts .pcie)) ∧
  (∀ (s : State) (ticket t0 off n : Nat) (h : Held) (rest : List Held), ticket ≠ 0 → (s.pcie.held.find? (fun x => x.1
    = ticket) = some (ticket, t0, off, n)) → ((s.heldOn (pageOf off)).any (fun x => x.ticket = ticket ∧ x.write =
    none) = true) → s.stalledOn (pageOf off) = h :: rest → pageOf h.offset = pageOf off → (∀ x ∈ h :: rest, x.ticket
    ≠ ticket) → (s.heldOn (pageOf off)).length = 64 → ((s.heldOn (pageOf off)).filter (fun x => x.ticket ≠
    ticket)).length = 63 → t0 + s.fld .pcie Reg.PCIE_BAR2_CTRL_HOLD_LIMIT_US * 1000 ≤ s.now → 0 < n → off % 65536 + n
    ≤ 65536 → completes (.bar2HoldTimeout ticket) s fun t => (t.heldOn (pageOf off) = (s.heldOn (pageOf off)).filter
    (fun x => x.ticket ≠ ticket) ++ [h]) ∧ t.stalledOn (pageOf off) = rest ∧ ((s.leaf (pageOf off)).st = .inTransit →
    s.counted t .tier 0xB8) ∧ (t.pcie.held = s.pcie.held.filter (fun x => x.1 ≠ ticket)) ∧ t.out = s.out ++
    Out.accessHeld h.src h.offset :: Out.bar2Cpl 4 [] :: s.irqOut .pcie 1 ∧ s.counted t .pcie 0x90 ∧ s.erred t .pcie
    0x03 ∧ s.raised t .pcie 1 ∧ t.tier.pages = s.tier.pages ∧ s.changes t [.tier, .pcie, .out] (irqPlaces .pcie ++
    errPlaces .pcie) ((Page.tier, 0xB8) :: (Page.pcie, 0x90) :: irqCounts .pcie ++ errCounts .pcie)) ∧
  (∀ (s : State) (ticket t0 off n : Nat), (s.pcie.held.find? (fun h => h.1 = ticket) = some (ticket, t0, off, n)) → ¬
    (t0 + s.fld .pcie Reg.PCIE_BAR2_CTRL_HOLD_LIMIT_US * 1000 ≤ s.now) → completes (.bar2HoldTimeout ticket) s fun t
    => t = s) ∧
  (∀ (s : State) (ticket : Nat), (∀ h ∈ s.pcie.held, h.1 ≠ ticket) → completes (.bar2HoldTimeout ticket) s fun t => t
    = s) ∧
  (∀ (s : State) (gen width : Nat) (flit : Bool), gen < 16 → width < 32 → (gen ≠ s.fld .pcie Reg.PCIE_LINK_GEN ∨
    width ≠ s.fld .pcie Reg.PCIE_LINK_WIDTH ∨ flit ≠ s.flag .pcie Reg.PCIE_LINK_FLIT) → completes (.pcieLinkChange
    false gen width flit false) s fun t => t.fld .pcie Reg.PCIE_LINK_GEN = gen ∧ t.fld .pcie Reg.PCIE_LINK_WIDTH =
    width ∧ t.flag .pcie Reg.PCIE_LINK_FLIT = flit ∧ (s.counted t .pcie 0xB8 (if s.fld .pcie Reg.PCIE_LINK_GEN = 0
    then 0 else 1)) ∧ s.raised t .pcie 0 ∧ t.out = s.out ++ s.irqOut .pcie 0 ∧ s.changes t [.pcie, .out]
    ([Reg.PCIE_LINK_GEN.place .pcie, Reg.PCIE_LINK_WIDTH.place .pcie, Reg.PCIE_LINK_FLIT.place .pcie] ++ irqPlaces
    .pcie) ((.pcie, 0xB8) :: irqCounts .pcie)) ∧
  (∀ (s : State) (gen width : Nat) (flit : Bool), gen < 16 → width < 32 → ¬ (gen ≠ s.fld .pcie Reg.PCIE_LINK_GEN ∨
    width ≠ s.fld .pcie Reg.PCIE_LINK_WIDTH ∨ flit ≠ s.flag .pcie Reg.PCIE_LINK_FLIT) → completes (.pcieLinkChange
    false gen width flit false) s fun t => t.fld .pcie Reg.PCIE_LINK_GEN = gen ∧ t.fld .pcie Reg.PCIE_LINK_WIDTH =
    width ∧ t.flag .pcie Reg.PCIE_LINK_FLIT = flit ∧ (s.counted t .pcie 0xB8 (if s.fld .pcie Reg.PCIE_LINK_GEN = 0
    then 0 else 1)) ∧ s.changes t []
    [Reg.PCIE_LINK_GEN.place .pcie, Reg.PCIE_LINK_WIDTH.place .pcie, Reg.PCIE_LINK_FLIT.place .pcie] [(.pcie, 0xB8)]) ∧
  (∀ (s : State) (link1 : Bool) (gen width : Nat) (flit : Bool), (link1 = true → s.flag .pcie
    Reg.PCIE_LINK_BIFURCATED = false) → completes (.pcieLinkChange link1 gen width flit true) s fun t => t = s) ∧
  (∀ (s : State) (gen width : Nat) (flit low : Bool), s.flag .pcie Reg.PCIE_LINK_BIFURCATED = true → s.flag .pcie
    Reg.PCIE_LINK_LINK1_UP ≠ decide (gen ≠ 0) → completes (.pcieLinkChange true gen width flit low) s fun t => t.flag
    .pcie Reg.PCIE_LINK_LINK1_UP = decide (gen ≠ 0) ∧ s.raised t .pcie 0 ∧ t.out = s.out ++ s.irqOut .pcie 0 ∧
    s.changes t [.pcie, .out] (Reg.PCIE_LINK_LINK1_UP.place .pcie :: irqPlaces .pcie) (irqCounts .pcie)) ∧
  (∀ (s : State) (gen width : Nat) (flit low : Bool), s.flag .pcie Reg.PCIE_LINK_BIFURCATED = false → completes
    (.pcieLinkChange true gen width flit low) s fun t => t = s) ∧
  (∀ (s : State) (c : Bool), completes (.aerErrorLogged c) s fun t => (s.counted t .pcie (if c then 0xC0 else 0xC8))
    ∧ s.raised t .pcie 2 ∧ t.out = s.out ++ s.irqOut .pcie 2 ∧ (s.changes t [.pcie, .out] (irqPlaces .pcie) ((.pcie,
    if c then 0xC0 else 0xC8) :: irqCounts .pcie))) ∧
  (∀ (s : State) (v : Fin 256), v.val ∈ s.pcie.pend → completes (.msixVectorUnmask none v) s fun t => v.val ∈
    t.pcie.unmasked ∧ v.val ∉ t.pcie.pend ∧ t.out = s.out ++ [Out.msix none v.val] ∧ s.counted t .pcie 0xB0 ∧ t.word
    (0x400000 + 16 * v.val + 12) = 0 ∧ (∀ a, a ≠ 0x400000 + 16 * v.val + 12 → t.word a = s.word a) ∧ (∀ k, k ≠ v.val
    → ((k ∈ t.pcie.pend ↔ k ∈ s.pcie.pend) ∧ (k ∈ t.pcie.unmasked ↔ k ∈ s.pcie.unmasked))) ∧ s.keeps t
    [.regs, .cnt, .pcie, .out]) ∧
  (∀ (s : State) (v : Fin 256), v.val ∉ s.pcie.pend → completes (.msixVectorUnmask none v) s fun t => v.val ∈
    t.pcie.unmasked ∧ t.pcie.pend = s.pcie.pend ∧ t.word (0x400000 + 16 * v.val + 12) = 0 ∧ (∀ a, a ≠ 0x400000 + 16 *
    v.val + 12 → t.word a = s.word a) ∧ (∀ k, k ≠ v.val → (k ∈ t.pcie.unmasked ↔ k ∈ s.pcie.unmasked)) ∧ s.keeps t
    [.regs, .pcie]) ∧
  (∀ (s : State) (n : TenId) (v : Fin 256), v.val < 2 → n.val * 2 + v.val ∈ s.pcie.vfPend → completes
    (.msixVectorUnmask (some n) v) s fun t => n.val * 2 + v.val ∈ t.pcie.vfUnmasked ∧ n.val * 2 + v.val ∉
    t.pcie.vfPend ∧ (t.out = s.out ++ [Out.msix (some n.val) v.val]) ∧ s.counted t .pcie 0xB0 ∧ (t.pcie.pend =
    s.pcie.pend ∧ t.pcie.unmasked = s.pcie.unmasked) ∧ s.changes t [.pcie, .out] [] [(.pcie, 0xB0)]) ∧
  (∀ (s : State) (n : TenId) (v : Fin 256), v.val < 2 → n.val * 2 + v.val ∉ s.pcie.vfPend → completes
    (.msixVectorUnmask (some n) v) s fun t => t.pcie =
    { s.pcie with vfUnmasked := (n.val * 2 + v.val) :: s.pcie.vfUnmasked.filter (· ≠ n.val * 2 + v.val) } ∧ s.changes
    t [.pcie] [] []) ∧
  (∀ (s : State) (n : TenId) (v : Fin 256), 2 ≤ v.val → completes (.msixVectorUnmask (some n) v) s fun t => t = s) ∧
  (∀ (s : State) (n : Nat) (en : Bool), n ≤ 64 → s.recovery = false → completes (.vfEnableWrite n en) s fun t =>
    t.fld .pcie Reg.PCIE_SRIOV_NUM_VF = n ∧ t.flag .pcie Reg.PCIE_SRIOV_VF_EN = en ∧ (∀ m : TenId, t.asVf m = (en
    && decide (m.val < n))) ∧ s.changes t [] [Reg.PCIE_SRIOV_NUM_VF.place .pcie, Reg.PCIE_SRIOV_VF_EN.place .pcie]
    []) ∧
  (∀ (s : State) (n : Nat) (en : Bool), 64 < n ∨ s.recovery = true → completes (.vfEnableWrite n en) s fun t => t =
    s) ∧
  (∀ (s : State) (v : Word), s.ready .dev = true → s.locked .dev = false → ¬ (s.anyLink = true ∧ (bits v.toNat 0 12 ≠
    s.node ∨ bits v.toNat 31 1 = 0 ∧ s.flag .dev Reg.DEV_NODE_VALID = true)) → completes (.devNodeWrite v) s fun t =>
    t.node = bits v.toNat 0 12 ∧ t.fld .dev Reg.DEV_NODE_VALID = bits v.toNat 31 1 ∧ s.changes t []
    [Reg.DEV_NODE_NODE.place .dev, Reg.DEV_NODE_VALID.place .dev] []) ∧
  (∀ (s : State) (v : Word), s.ready .dev = true → s.locked .dev = false → s.anyLink = true ∧ (bits v.toNat 0 12 ≠
    s.node ∨ bits v.toNat 31 1 = 0 ∧ s.flag .dev Reg.DEV_NODE_VALID = true) → completes (.devNodeWrite v) s fun t =>
    s.erred t .dev 0x01 ∧ s.changes t [] (errPlaces .dev) (errCounts .dev)) ∧
  (∀ (s : State) (v : Word), s.ready .dev = true → s.locked .dev = true → completes (.devNodeWrite v) s fun t =>
    s.erred t .dev 0xF0 ∧ s.changes t [] (errPlaces .dev) (errCounts .dev)) ∧
  (∀ (s : State) (v : Word), s.ready .dev = false → completes (.devNodeWrite v) s fun t => t = s)

/-- With a command at the front of the queue, a step is exec of that command on the state with the queue's rest. With
an empty queue a step answers a next state in which a nanosecond has passed and only the capture units' waiting
samples moved: that tick is the model's own choice (notes/assumptions/5). -/
def Obligations.StepRunsTheFrontCommand : Prop :=
  (∀ (s : State) (c : Instr) (rest : List Instr), s.pending = c :: rest → step s = exec c { s with pending := rest }) ∧
  (∀ (s : State), s.pending = [] → ∃ t, step s = .next t ∧ t.now = (s.now + 1) % 2 ^ 64 ∧ s.keeps t [.now, .units])

/-- At reset every byte of the State Space and of tile SRAM is unlisted, no command waits, the stores have their
canonical form, every PG_READY is clear, and registers of every chapter read the reset values their tables give,
for every instance: among them RSTC_CAUSE 1, HOLD_LIMIT_US 500, TBL_MASK 0xFFFF, SB_CTRL.WDOG 0x100000, the TIER
policy, zones and capacities, FENG_CTRL.RESP_TIMEOUT_US 1000, the policer bursts, MOVE_CTRL, CACHE_CFG, the DISP,
ADMT, SAMP, MON, DIG, ELOG, WLH, LEDG and UART values. -/
def Obligations.ResetLeavesTheStatedValues : Prop :=
  (State.reset.mem = [] ∧ State.reset.sram = [] ∧ State.reset.pending = [] ∧ State.reset.canonical = true) ∧
  (∀ pg ∈ Page.all, State.reset.ready pg = false ∧ State.reset.fld pg Reg.PG_ERR_CODE = 0 ∧ State.reset.fld pg
    Reg.PG_IRQ_STAT = 0 ∧ State.reset.locked pg = false) ∧
  (State.reset.fld .rstc Reg.RSTC_CAUSE_CAUSE = 1 ∧ State.reset.fld .rstc Reg.RSTC_CTRL_QUIESCE_US = 100 ∧
    State.reset.fld .rstc Reg.RSTC_THERM_RELEASE_C = 95) ∧
  (State.reset.fld .pcie Reg.PCIE_BAR2_CTRL_HOLD_LIMIT_US = 500 ∧ State.reset.fld .pcie Reg.PCIE_VF_TOK_MOD_US = 50
    ∧ State.reset.fld .codec Reg.CODEC_ENC_CTRL_TBL_MASK = 0xFFFF ∧ State.reset.fld .codec Reg.CODEC_ERR_INFO_VALID
    = 0) ∧
  (∀ t : TileId, State.reset.fld (.tile t) Reg.ARITH_CTRL_ABFT_TOL_SHIFT = 2 ∧ State.reset.fld (.tile t)
    Reg.OPQ_CTRL_START_FILL = 8 ∧ State.reset.fld (.tile t) Reg.SB_CTRL_WDOG = 0x100000) ∧
  (State.reset.fld .tier Reg.TIER_POLICY_HW_EN = 1 ∧ State.reset.fld .tier Reg.TIER_POLICY_PROMO_COUNT = 16 ∧
    State.reset.fld .tier Reg.TIER_POLICY_EPOCH_US = 1000 ∧ State.reset.fld .tier Reg.TIER_HOLD_TIMEOUT_US = 200) ∧
  (∀ z : Fin 32, State.reset.fld .tier Reg.TIER_ZONE_COMMIT_SHL z.val = 0x640 ∧ State.reset.fld .tier
    Reg.TIER_ZONE_FIRST_TIER z.val = 1 ∧ State.reset.fld .tier Reg.TIER_ZONE_SHL_HIGH z.val = 0xE37 ∧
    State.reset.fld .tier Reg.TIER_ZONE_BAS_LOW z.val = 0x1680) ∧
  (∀ e : Fin 64, State.reset.fld (.feng e) Reg.FENG_CTRL_RESP_TIMEOUT_US = 1000) ∧
  (∀ n : PortId, State.reset.fld (.port n) Reg.PORT_CTRL_ENABLE = 1 ∧ State.reset.fld (.port n)
    Reg.PORT_CTRL_RETRY_MAX = 8 ∧ State.reset.fld (.port n) Reg.PORT_CTRL_ACK_TO_NS = 2000 ∧ State.reset.fld (.port
    n) Reg.PORT_STAT_LINK_UP = 0) ∧
  (∀ p : PartId, State.reset.fld (.move p) Reg.MOVE_CTRL_STRIPES_M1 = 7 ∧ State.reset.fld (.move p)
    Reg.MOVE_CTRL_PREFETCH = 4 ∧ State.reset.fld (.move p) Reg.MOVE_CTRL_PULL_RUN = 8 ∧ State.reset.fld .srch
    Reg.CACHE_CFG_TTL_MAX_S p.val = 86400 ∧ State.reset.fld .srch Reg.CACHE_CFG_ORPHAN_S p.val = 600) ∧
  (∀ p : PartId, State.reset.fld (.disp p) Reg.DISP_ROLE_CUR = 0 ∧ State.reset.fld (.disp p) Reg.DISP_ROLE_STATE =
    0 ∧ State.reset.fld (.disp p) Reg.DISP_PRI_W_W2 = 3 ∧ State.reset.fld (.disp p) Reg.DISP_PRI_W_W3 = 1 ∧
    State.reset.fld (.disp p) Reg.DISP_ENERGY_DEPTH_DEPTH_NJ = 1000000 ∧ State.reset.fld (.disp p)
    Reg.DISP_ENERGY_GRANT_GRANT_NJ = 65536 ∧ State.reset.fld (.admt p) Reg.ADMT_CTRL_DEFER_MAX = 64 ∧
    State.reset.fld (.admt p) Reg.ADMT_DEFER_RETRY_MS = 50 ∧ State.reset.fld (.samp p) Reg.SAMP_LSTRIDE_UNITS =
    0x4000) ∧
  (∀ u : Fin 8, State.reset.fld .mon Reg.UNIT_SOURCE u.val = 0 ∧ State.reset.fld .mon Reg.UNIT_CLASS_MASK u.val =
    0xFFFF ∧ State.reset.fld .mon Reg.UNIT_PERIOD_NS u.val = 1000) ∧
  (State.reset.fld .dig Reg.DIG_CTRL_RATE = 10 ∧ State.reset.fld .dig Reg.DIG_CTRL_EXCH_STEPS = 64 ∧
    State.reset.fld .elog Reg.ELOG_CTRL_LOG2 = 10 ∧ State.reset.fld .elog Reg.ELOG_CTRL_ESC_LIMIT = 4 ∧
    State.reset.fld .elog Reg.ELOG_SEQ_SEQ = 0 ∧ State.reset.fld .finj Reg.FINJ_CTRL_PARAM = 1 ∧ State.reset.fld
    .finj Reg.FINJ_SEED_SEED = 1) ∧
  (State.reset.fld .pwr Reg.PWR_THERM_LIMIT_C = 100 ∧ State.reset.fld .pwr Reg.PWR_IDLE_IDLE_US = 100 ∧
    State.reset.fld .sync Reg.SYNC_STAT_FSYNC_LOST = 1 ∧ State.reset.fld .sync Reg.SYNC_STAT_TSYNC_LOST = 1 ∧
    State.reset.fld .wlh Reg.WLH_WDOG_TIMEOUT_MS = 2000 ∧ State.reset.fld .wlh Reg.WLH_FLASH_THR_ERASE_MS = 800 ∧
    State.reset.fld .ledg Reg.LEDG_STAT_SPARES = 8 ∧ State.reset.fld .uart Reg.UART_BAUD_DIV = 217)

/-- From every state whose stores have their canonical form, a step answers a next state whose stores have it too, with
the same fuses and the same fabric wiring; it takes exactly the front command from the queue and adds none. No
command of the table stops the block. -/
def Obligations.EveryStepCompletesInCanonicalForm : Prop :=
  ∀ (s : State), s.canonical = true → ∃ t, step s = .next t ∧ t.canonical = true ∧ t.fuses = s.fuses ∧ t.unreached
    = s.unreached ∧ t.pending = s.pending.tail

/-- Taking a sample v adds 1 to COUNT and v to SUM, both staying at their limit, lowers MIN and raises MAX to v, and
increments the bin R310 names and no other: below BASE bin 0 with UNDER; LINEAR the distance shifted right by
SHIFT, at most 63; LOG2 bin 0 below 2^SHIFT, and otherwise the floor of log2 less SHIFT plus 1, at most 63. A bin
stays at its limit. -/
def Obligations.SamplesAreBinned : Prop :=
  (∀ (u : UnitVals) (log2 : Bool) (base shift v : Nat), v < base →
    (let r := takeSample u log2 base shift v; let b := 0; r.count = min (2 ^ 64 - 1) (u.count + 1) ∧ r.sum = min (2 ^ 64 - 1) (u.sum + v) ∧ r.min = min u.min v ∧ r.max = max u.max v ∧ r.dropped = u.dropped ∧ r.under = min (2 ^ 32 - 1) (u.under + 1) ∧ Map.get 0 r.bins b = min (2 ^ 32 - 1) (Map.get 0 u.bins b + 1) ∧ (∀ j, j ≠ b → Map.get 0 r.bins j = Map.get 0 u.bins j))) ∧
  (∀ (u : UnitVals) (log2 : Bool) (base shift v : Nat), log2 = false ∧ base ≤ v →
    (let r := takeSample u log2 base shift v; let b := min 63 ((v - base) >>> shift); r.count = min (2 ^ 64 - 1) (u.count + 1) ∧ r.sum = min (2 ^ 64 - 1) (u.sum + v) ∧ r.min = min u.min v ∧ r.max = max u.max v ∧ r.dropped = u.dropped ∧ r.under = u.under ∧ Map.get 0 r.bins b = min (2 ^ 32 - 1) (Map.get 0 u.bins b + 1) ∧ (∀ j, j ≠ b → Map.get 0 r.bins j = Map.get 0 u.bins j))) ∧
  (∀ (u : UnitVals) (log2 : Bool) (base shift v : Nat), log2 = true ∧ base ≤ v ∧ v - base < 2 ^ shift →
    (let r := takeSample u log2 base shift v; let b := 0; r.count = min (2 ^ 64 - 1) (u.count + 1) ∧ r.sum = min (2 ^ 64 - 1) (u.sum + v) ∧ r.min = min u.min v ∧ r.max = max u.max v ∧ r.dropped = u.dropped ∧ r.under = u.under ∧ Map.get 0 r.bins b = min (2 ^ 32 - 1) (Map.get 0 u.bins b + 1) ∧ (∀ j, j ≠ b → Map.get 0 r.bins j = Map.get 0 u.bins j))) ∧
  (∀ (u : UnitVals) (log2 : Bool) (base shift v : Nat) (e : Nat), log2 = true ∧ base ≤ v ∧ 2 ^ shift ≤ v - base ∧ 2
    ^ e ≤ v - base ∧ v - base < 2 ^ (e + 1) →
    (let r := takeSample u log2 base shift v; let b := min 63 (e - shift + 1); r.count = min (2 ^ 64 - 1) (u.count + 1) ∧ r.sum = min (2 ^ 64 - 1) (u.sum + v) ∧ r.min = min u.min v ∧ r.max = max u.max v ∧ r.dropped = u.dropped ∧ r.under = u.under ∧ Map.get 0 r.bins b = min (2 ^ 32 - 1) (Map.get 0 u.bins b + 1) ∧ (∀ j, j ≠ b → Map.get 0 r.bins j = Map.get 0 u.bins j)))

/-- With MASK_EN set, key k is visible to query row index qi exactly when k is at most the larger of qi + HI and PFX −
1, k is at least qi − LO or LO is 0xFFFFFFFF, and k is below KV_LEN; with MASK_EN clear, exactly when k is below
KV_LEN. A wholly masked block holds no visible key of any row of the task. -/
def Obligations.MaskVisibilityFollowsTheParameters : Prop :=
  (∀ (a : AttnP) (qi k : Nat), a.maskEn = true → (a.visible qi k = true ↔ (k : Int) ≤ max ((qi : Int) + a.hi)
    ((a.pfx : Int) - 1) ∧ ((k : Int) ≥ qi - a.winLo ∨ a.winLo = 0xFFFFFFFF) ∧ k < a.kvLen)) ∧
  (∀ (a : AttnP) (qi k : Nat), a.maskEn = false → (a.visible qi k = true ↔ k < a.kvLen)) ∧
  (∀ (a : AttnP) (b qi k : Nat), a.skipped b = true → a.kvLen - a.qLen ≤ qi → qi < a.kvLen → 64 * b ≤ k → k < 64 *
    b + 64 → a.visible qi k = false)

/-- For every format, table mask, image offset and 512-byte raw block, the block the encoder writes decodes, wherever
it stands, to the raw block, and its CLEN is its length, at most 520. For every raw image the encoder's stream
decodes to blocks whose bytes begin with the image. -/
def Obligations.CompressionIsLossless : Prop :=
  (∀ (fmt mask base pos : Nat) (raw : List Byte) (img : Nat → Byte), raw.length = 512 → (∀ i, i < (encodeBlock fmt
    mask base raw).1.length → img (pos + i) = (encodeBlock fmt mask base raw).1.getD i 0) → ∃ b, decodeBlock fmt
    base img pos = .ok b ∧ b.raw = raw ∧ b.clen = (encodeBlock fmt mask base raw).1.length ∧ b.clen ≤ 520 ∧ b.isRaw
    = (encodeBlock fmt mask base raw).2) ∧
  (∀ (fmt mask : Nat) (raw : List Byte), ∃ l, decodeStream fmt raw.length (fun i => (encodeStream fmt mask
    raw).1.getD i 0) (raw.length + 1) 0 0 = .ok l ∧ (l.map (·.raw)).flatten.take raw.length = raw)
end

