-- ==== Sys2Proof/Laws/Map.lean ====
section
/-! SUPPORT. Laws of the sparse maps: reads after writes, and the canonical form every operation keeps. -/

namespace Sys2Proof
variable {β : Type}

/-- Every key of a rising map is at least its bound. -/
theorem Map.find_rising {b : Nat} {m : Map β} (h : Map.rising b m = true) {k : Nat} (hk : k < b) : Map.find m k = none := by
  induction m generalizing b with
  | nil => rfl
  | cons e t ih =>
    simp only [Map.rising, Bool.and_eq_true, decide_eq_true_eq] at h
    simp only [Map.find]
    rw [if_neg (by omega)]
    exact ih h.2 (by omega)

theorem Map.rising_mono {b c : Nat} {m : Map β} (h : Map.rising b m = true) (hc : c ≤ b) : Map.rising c m = true := by
  cases m with
  | nil => rfl
  | cons e t =>
    simp only [Map.rising, Bool.and_eq_true, decide_eq_true_eq] at h ⊢
    exact ⟨by omega, h.2⟩

/-- A read of the key written. -/
theorem Map.find_put_same (m : Map β) (k : Nat) (v : β) : Map.find (Map.put m k v) k = some v := by
  induction m with
  | nil => simp [Map.put, Map.find]
  | cons e t ih =>
    simp only [Map.put]
    split
    · simp [Map.find]
    · split
      · simp [Map.find]
      · rename_i h1 h2
        simp only [Map.find]
        rw [if_neg (fun h => h2 h.symm)]
        exact ih

/-- A read of another key. -/
theorem Map.find_put_other (m : Map β) {k j : Nat} (v : β) (h : j ≠ k) : Map.find (Map.put m k v) j = Map.find m j := by
  induction m with
  | nil => simp [Map.put, Map.find, Ne.symm h]
  | cons e t ih =>
    simp only [Map.put]
    split
    · simp [Map.find, Ne.symm h]
    · split
      · rename_i _ h2
        subst h2
        simp [Map.find, Ne.symm h]
      · simp only [Map.find, ih]

theorem Map.find_del_other (m : Map β) {k j : Nat} (h : j ≠ k) : Map.find (Map.del m k) j = Map.find m j := by
  induction m with
  | nil => rfl
  | cons e t ih =>
    simp only [Map.del]
    split
    · rename_i h2
      subst h2
      simp [Map.find, Ne.symm h, ih]
    · simp only [Map.find, ih]

@[simp] theorem Map.find_del_same (m : Map β) (k : Nat) : Map.find (Map.del m k) k = none := by
  induction m with
  | nil => rfl
  | cons e t ih =>
    simp only [Map.del]
    split
    · exact ih
    · rename_i h2
      simp only [Map.find]
      rw [if_neg h2]
      exact ih

/-- Reading another key after a write gives what it gave before. -/
theorem Map.get_set_other [DecidableEq β] (d e : β) (m : Map β) {k j : Nat} (v : β) (h : j ≠ k) :
    Map.get e (Map.set d m k v) j = Map.get e m j := by
  simp only [Map.get, Map.set]
  split
  · rw [Map.find_del_other m h]
  · rw [Map.find_put_other m v h]

/-- Reading the key just written gives the value written. -/
@[simp] theorem Map.get_set_same [DecidableEq β] (d : β) (m : Map β) (k : Nat) (v : β) :
    Map.get d (Map.set d m k v) k = v := by
  simp only [Map.get, Map.set]
  split
  · rename_i h
    rw [Map.find_del_same, h]
    rfl
  · rw [Map.find_put_same]
    rfl

theorem Map.rising_put {b : Nat} {m : Map β} (h : Map.rising b m = true) {k : Nat} (hk : b ≤ k) (v : β) :
    Map.rising b (Map.put m k v) = true := by
  induction m generalizing b with
  | nil => simp [Map.put, Map.rising, hk]
  | cons e t ih =>
    have h' := h
    simp only [Map.rising, Bool.and_eq_true, decide_eq_true_eq] at h
    simp only [Map.put]
    split
    · simp only [Map.rising, Bool.and_eq_true, decide_eq_true_eq]
      exact ⟨hk, by omega, h.2⟩
    · split
      · rename_i h2
        simp only [Map.rising, Bool.and_eq_true, decide_eq_true_eq]
        subst h2
        exact ⟨hk, h.2⟩
      · simp only [Map.rising, Bool.and_eq_true, decide_eq_true_eq]
        exact ⟨h.1, ih h.2 (by omega)⟩

theorem Map.rising_del {b : Nat} {m : Map β} (h : Map.rising b m = true) (k : Nat) : Map.rising b (Map.del m k) = true := by
  induction m generalizing b with
  | nil => rfl
  | cons e t ih =>
    simp only [Map.rising, Bool.and_eq_true, decide_eq_true_eq] at h
    simp only [Map.del]
    split
    · exact Map.rising_mono (ih h.2) (by omega)
    · simp only [Map.rising, Bool.and_eq_true, decide_eq_true_eq]
      exact ⟨h.1, ih h.2⟩

theorem Map.rising_filter {b : Nat} {m : Map β} (h : Map.rising b m = true) (p : Nat × β → Bool) :
    Map.rising b (m.filter p) = true := by
  induction m generalizing b with
  | nil => rfl
  | cons e t ih =>
    simp only [Map.rising, Bool.and_eq_true, decide_eq_true_eq] at h
    rw [List.filter_cons]
    split
    · simp only [Map.rising, Bool.and_eq_true, decide_eq_true_eq]
      exact ⟨h.1, ih h.2⟩
    · exact Map.rising_mono (ih h.2) (by omega)

/-- Every entry of a map after a put is the new one or an old one. -/
theorem Map.mem_put {m : Map β} {k : Nat} {v : β} {e : Nat × β} (h : e ∈ Map.put m k v) : e = (k, v) ∨ e ∈ m := by
  induction m with
  | nil => simpa [Map.put] using h
  | cons x t ih =>
    simp only [Map.put] at h
    split at h
    · simpa using h
    · split at h
      · rcases List.mem_cons.mp h with h | h
        · exact .inl h
        · exact .inr (List.mem_cons_of_mem _ h)
      · rcases List.mem_cons.mp h with h | h
        · exact .inr (h ▸ List.mem_cons_self ..)
        · rcases ih h with h | h
          · exact .inl h
          · exact .inr (List.mem_cons_of_mem _ h)

theorem Map.mem_del {m : Map β} {k : Nat} {e : Nat × β} (h : e ∈ Map.del m k) : e ∈ m := by
  induction m with
  | nil => exact h
  | cons x t ih =>
    simp only [Map.del] at h
    split at h
    · exact List.mem_cons_of_mem _ (ih h)
    · rcases List.mem_cons.mp h with h | h
      · exact h ▸ List.mem_cons_self ..
      · exact List.mem_cons_of_mem _ (ih h)

/-- The canonical form, in words: keys rise, and no entry equals what an unlisted key reads as. -/
theorem Map.wf_iff [DecidableEq β] (d : Nat → β) (m : Map β) :
    Map.wf d m = true ↔ Map.rising 0 m = true ∧ ∀ e ∈ m, e.2 ≠ d e.1 := by
  simp only [Map.wf, Bool.and_eq_true, List.all_eq_true, decide_eq_true_eq]

/-- A write keeps the canonical form. -/
theorem Map.set_wf [DecidableEq β] (d : Nat → β) {m : Map β} (h : Map.wf d m = true) (k : Nat) (v : β) :
    Map.wf d (Map.set (d k) m k v) = true := by
  rw [Map.wf_iff] at h ⊢
  simp only [Map.set]
  split
  · exact ⟨Map.rising_del h.1 k, fun e he => h.2 e (Map.mem_del he)⟩
  · rename_i hv
    refine ⟨Map.rising_put h.1 (by omega) v, fun e he => ?_⟩
    rcases Map.mem_put he with rfl | he
    · exact hv
    · exact h.2 e he

/-- A clear keeps the canonical form. -/
theorem Map.filter_wf [DecidableEq β] (d : Nat → β) {m : Map β} (h : Map.wf d m = true) (p : Nat × β → Bool) :
    Map.wf d (m.filter p) = true := by
  rw [Map.wf_iff] at h ⊢
  exact ⟨Map.rising_filter h.1 p, fun e he => h.2 e (List.mem_filter.mp he).1⟩

theorem Map.clear_wf [DecidableEq β] (d : Nat → β) {m : Map β} (h : Map.wf d m = true) (a n : Nat) :
    Map.wf d (Map.clear m a n) = true := Map.filter_wf d h _

/-- A store of bytes keeps the canonical form. -/
theorem Map.store_wf {m : Map Byte} (h : Map.wf (fun _ => 0) m = true) (a : Nat) (l : List Byte) :
    Map.wf (fun _ => 0) (Map.store m a l) = true := by
  induction l generalizing m a with
  | nil => exact h
  | cons b t ih => exact ih (Map.set_wf _ h a b) _

/-- A store of bytes leaves every byte outside them as it was. -/
theorem Map.get_store_other (m : Map Byte) (a : Nat) (l : List Byte) {x : Nat} (h : x < a ∨ a + l.length ≤ x) :
    Map.get 0 (Map.store m a l) x = Map.get 0 m x := by
  induction l generalizing m a with
  | nil => rfl
  | cons b t ih =>
    simp only [List.length_cons] at h
    rw [Map.store, ih _ _ (by omega), Map.get_set_other _ _ _ _ (by omega)]

/-- A stored byte reads as it was stored. -/
theorem Map.get_store_same (m : Map Byte) (a : Nat) (l : List Byte) {i : Nat} (h : i < l.length) :
    Map.get 0 (Map.store m a l) (a + i) = l[i] := by
  induction l generalizing m a i with
  | nil => exact absurd h (by simp)
  | cons b t ih =>
    cases i with
    | zero =>
      rw [Map.store, Map.get_store_other _ _ _ (by omega)]
      exact Map.get_set_same 0 m a b
    | succ j =>
      rw [Map.store, show a + (j + 1) = (a + 1) + j by omega]
      exact ih _ (a + 1) (by simpa using h)

end Sys2Proof
end

