-- ==== Sys2Proof/Laws/Regs.lean ====
section
/-! SUPPORT. Laws of register words and fields: reads after writes, and what a write leaves as it was. -/

namespace Sys2Proof.Machine
open Sys2Proof

/-! ## Words -/

@[simp] theorem State.word_setWord_same (s : State) (a : Nat) (v : Word) : (s.setWord a v).word a = v := by
  simp [State.word, State.setWord]

theorem State.word_setWord_other (s : State) {a b : Nat} (v : Word) (h : b ≠ a) : (s.setWord a v).word b = s.word b := by
  simp only [State.word, State.setWord]
  exact Map.get_set_other _ _ _ _ h

/-- A write of n words leaves every other word as it was. -/
theorem State.word_setWords_other (s : State) (a n v : Nat) {b : Nat} (h : ∀ i, i < n → b ≠ a + 4 * i) :
    (s.setWords a n v).word b = s.word b := by
  induction n generalizing s a v with
  | zero => rfl
  | succ n ih =>
    rw [State.setWords, ih]
    · exact State.word_setWord_other _ _ (by simpa using h 0 (by omega))
    · intro i hi
      have := h (i + 1) (by omega)
      omega

theorem State.words_setWords_below (s : State) (a n v : Nat) {b k : Nat} (h : b + 4 * k ≤ a ∨ a + 4 * n ≤ b) (hm : b % 4 = a % 4) :
    (s.setWords a n v).words b k = s.words b k := by
  induction k generalizing b with
  | zero => rfl
  | succ k ih =>
    rw [State.words, State.words, ih (by omega) (by omega), State.word_setWords_other]
    intro i hi
    omega

/-- Reading n words just written gives the number written. -/
@[simp] theorem State.words_setWords_same (s : State) (a n v : Nat) : (s.setWords a n v).words a n = v % 2 ^ (32 * n) := by
  induction n generalizing s a v with
  | zero => simp [State.words, Nat.mod_one]
  | succ n ih =>
    rw [State.words, State.setWords, ih, State.word_setWords_other]
    · rw [State.word_setWord_same, BitVec.toNat_ofNat, show 32 * (n + 1) = 32 + 32 * n by omega, Nat.pow_add]
      rw [Nat.mod_mul]
    · intro i hi
      omega

theorem State.words_lt (s : State) (a n : Nat) : s.words a n < 2 ^ (32 * n) := by
  induction n generalizing a with
  | zero => simp [State.words]
  | succ n ih =>
    rw [State.words, show 32 * (n + 1) = 32 + 32 * n by omega, Nat.pow_add]
    have h1 := (s.word a).isLt
    have h2 := ih (a + 4)
    have h3 : 2 ^ 32 * (s.words (a + 4) n + 1) ≤ 2 ^ 32 * 2 ^ (32 * n) := Nat.mul_le_mul_left _ h2
    omega

/-! ## Bits of a number -/

theorem bits_lt (v lo w : Nat) : bits v lo w < 2 ^ w := Nat.mod_lt _ (Nat.two_pow_pos w)

theorem withBits_testBit (v lo w x i : Nat) :
    (withBits v lo w x).testBit i = if lo ≤ i ∧ i < lo + w then x.testBit (i - lo) else v.testBit i := by
  have hv : v = (v / 2 ^ (lo + w)) * 2 ^ (lo + w) + bits v lo w * 2 ^ lo + v % 2 ^ lo := by
    have h1 : v / 2 ^ lo / 2 ^ w = v / 2 ^ (lo + w) := by rw [Nat.div_div_eq_div_mul, ← Nat.pow_add]
    have h2 := Nat.div_add_mod v (2 ^ lo)
    have h3 := Nat.div_add_mod (v / 2 ^ lo) (2 ^ w)
    rw [h1] at h3
    rw [bits, Nat.pow_add]
    calc v = 2 ^ lo * (v / 2 ^ lo) + v % 2 ^ lo := h2.symm
      _ = 2 ^ lo * (2 ^ w * (v / 2 ^ (lo + w)) + v / 2 ^ lo % 2 ^ w) + v % 2 ^ lo := by rw [h3]
      _ = _ := by ring_nf
  have hw : withBits v lo w x = (v / 2 ^ (lo + w)) * 2 ^ (lo + w) + (x % 2 ^ w * 2 ^ lo + v % 2 ^ lo) := by
    rw [withBits]
    have : v - bits v lo w * 2 ^ lo = (v / 2 ^ (lo + w)) * 2 ^ (lo + w) + v % 2 ^ lo := by omega
    rw [this]; ring
  have hlt : x % 2 ^ w * 2 ^ lo + v % 2 ^ lo < 2 ^ (lo + w) := by
    have h1 := Nat.mod_lt v (Nat.two_pow_pos lo)
    have h2 := Nat.mod_lt x (Nat.two_pow_pos w)
    rw [Nat.pow_add, Nat.mul_comm (2 ^ lo)]
    have h3 : (x % 2 ^ w + 1) * 2 ^ lo ≤ 2 ^ w * 2 ^ lo := Nat.mul_le_mul_right _ h2
    rw [Nat.add_mul] at h3
    omega
  rw [hw, Nat.mul_comm (v / _), Nat.testBit_two_pow_mul_add _ hlt]
  split
  · rename_i hi
    rw [Nat.mul_comm (x % _), Nat.testBit_two_pow_mul_add _ (Nat.mod_lt v (Nat.two_pow_pos lo))]
    split
    · rename_i h
      rw [if_neg (by omega), Nat.testBit_mod_two_pow]
      simp [h]
    · rename_i h
      rw [Nat.testBit_mod_two_pow]
      rw [if_pos (by omega)]
      simp
      omega
  · rename_i hi
    rw [if_neg (by omega), Nat.testBit_div_two_pow]
    congr 1
    omega

theorem bits_testBit (v lo w i : Nat) : (bits v lo w).testBit i = (decide (i < w) && v.testBit (lo + i)) := by
  rw [bits, Nat.testBit_mod_two_pow, Nat.testBit_div_two_pow, Nat.add_comm]

/-- Reading the bits just replaced gives the new ones. -/
theorem bits_withBits_same (v lo w x : Nat) : bits (withBits v lo w x) lo w = x % 2 ^ w := by
  apply Nat.eq_of_testBit_eq
  intro i
  rw [bits_testBit, withBits_testBit, Nat.testBit_mod_two_pow]
  by_cases h : i < w
  · rw [if_pos (by omega)]; simp [h]
  · simp [h]

/-- Replacing other bits leaves these. -/
theorem bits_withBits_other (v lo w x : Nat) {lo' w' : Nat} (h : lo' + w' ≤ lo ∨ lo + w ≤ lo') :
    bits (withBits v lo w x) lo' w' = bits v lo' w' := by
  apply Nat.eq_of_testBit_eq
  intro i
  rw [bits_testBit, bits_testBit, withBits_testBit]
  by_cases hi : i < w'
  · rw [if_neg (by omega)]
  · simp [hi]

end Sys2Proof.Machine
end

