-- ==== Sys2Proof/Laws/State.lean ====
section
/-! SUPPORT. What each named update of the state leaves as it was, field by field. -/

namespace Sys2Proof.Machine
open Sys2Proof

/-! ## setWord -/

@[simp] theorem State.now_setWord (s : State) (a : Nat) (v : Word) : (s.setWord a v).now = s.now := rfl
@[simp] theorem State.fresh_setWord (s : State) (a : Nat) (v : Word) : (s.setWord a v).fresh = s.fresh := rfl
@[simp] theorem State.pending_setWord (s : State) (a : Nat) (v : Word) : (s.setWord a v).pending = s.pending := rfl
@[simp] theorem State.out_setWord (s : State) (a : Nat) (v : Word) : (s.setWord a v).out = s.out := rfl
@[simp] theorem State.cnt_setWord (s : State) (a : Nat) (v : Word) : (s.setWord a v).cnt = s.cnt := rfl
@[simp] theorem State.shadow_setWord (s : State) (a : Nat) (v : Word) : (s.setWord a v).shadow = s.shadow := rfl
@[simp] theorem State.mem_setWord (s : State) (a : Nat) (v : Word) : (s.setWord a v).mem = s.mem := rfl
@[simp] theorem State.sram_setWord (s : State) (a : Nat) (v : Word) : (s.setWord a v).sram = s.sram := rfl
@[simp] theorem State.sramBad_setWord (s : State) (a : Nat) (v : Word) : (s.setWord a v).sramBad = s.sramBad := rfl
@[simp] theorem State.tiles_setWord (s : State) (a : Nat) (v : Word) : (s.setWord a v).tiles = s.tiles := rfl
@[simp] theorem State.parts_setWord (s : State) (a : Nat) (v : Word) : (s.setWord a v).parts = s.parts := rfl
@[simp] theorem State.movers_setWord (s : State) (a : Nat) (v : Word) : (s.setWord a v).movers = s.movers := rfl
@[simp] theorem State.tenants_setWord (s : State) (a : Nat) (v : Word) : (s.setWord a v).tenants = s.tenants := rfl
@[simp] theorem State.reqs_setWord (s : State) (a : Nat) (v : Word) : (s.setWord a v).reqs = s.reqs := rfl
@[simp] theorem State.convs_setWord (s : State) (a : Nat) (v : Word) : (s.setWord a v).convs = s.convs := rfl
@[simp] theorem State.tier_setWord (s : State) (a : Nat) (v : Word) : (s.setWord a v).tier = s.tier := rfl
@[simp] theorem State.rrc_setWord (s : State) (a : Nat) (v : Word) : (s.setWord a v).rrc = s.rrc := rfl
@[simp] theorem State.engines_setWord (s : State) (a : Nat) (v : Word) : (s.setWord a v).engines = s.engines := rfl
@[simp] theorem State.regions_setWord (s : State) (a : Nat) (v : Word) : (s.setWord a v).regions = s.regions := rfl
@[simp] theorem State.qps_setWord (s : State) (a : Nat) (v : Word) : (s.setWord a v).qps = s.qps := rfl
@[simp] theorem State.ports_setWord (s : State) (a : Nat) (v : Word) : (s.setWord a v).ports = s.ports := rfl
@[simp] theorem State.finj_setWord (s : State) (a : Nat) (v : Word) : (s.setWord a v).finj = s.finj := rfl
@[simp] theorem State.srch_setWord (s : State) (a : Nat) (v : Word) : (s.setWord a v).srch = s.srch := rfl
@[simp] theorem State.units_setWord (s : State) (a : Nat) (v : Word) : (s.setWord a v).units = s.units := rfl
@[simp] theorem State.digs_setWord (s : State) (a : Nat) (v : Word) : (s.setWord a v).digs = s.digs := rfl
@[simp] theorem State.elog_setWord (s : State) (a : Nat) (v : Word) : (s.setWord a v).elog = s.elog := rfl
@[simp] theorem State.qrm_setWord (s : State) (a : Nat) (v : Word) : (s.setWord a v).qrm = s.qrm := rfl
@[simp] theorem State.pwr_setWord (s : State) (a : Nat) (v : Word) : (s.setWord a v).pwr = s.pwr := rfl
@[simp] theorem State.rst_setWord (s : State) (a : Nat) (v : Word) : (s.setWord a v).rst = s.rst := rfl
@[simp] theorem State.fuses_setWord (s : State) (a : Nat) (v : Word) : (s.setWord a v).fuses = s.fuses := rfl
@[simp] theorem State.wlh_setWord (s : State) (a : Nat) (v : Word) : (s.setWord a v).wlh = s.wlh := rfl
@[simp] theorem State.ledger_setWord (s : State) (a : Nat) (v : Word) : (s.setWord a v).ledger = s.ledger := rfl
@[simp] theorem State.uart_setWord (s : State) (a : Nat) (v : Word) : (s.setWord a v).uart = s.uart := rfl
@[simp] theorem State.pcie_setWord (s : State) (a : Nat) (v : Word) : (s.setWord a v).pcie = s.pcie := rfl
@[simp] theorem State.sync_setWord (s : State) (a : Nat) (v : Word) : (s.setWord a v).sync = s.sync := rfl
@[simp] theorem State.unreached_setWord (s : State) (a : Nat) (v : Word) : (s.setWord a v).unreached = s.unreached := rfl

/-! ## send -/

@[simp] theorem State.now_send (s : State) (o : Out) : (s.send o).now = s.now := rfl
@[simp] theorem State.fresh_send (s : State) (o : Out) : (s.send o).fresh = s.fresh := rfl
@[simp] theorem State.pending_send (s : State) (o : Out) : (s.send o).pending = s.pending := rfl
@[simp] theorem State.regs_send (s : State) (o : Out) : (s.send o).regs = s.regs := rfl
@[simp] theorem State.cnt_send (s : State) (o : Out) : (s.send o).cnt = s.cnt := rfl
@[simp] theorem State.shadow_send (s : State) (o : Out) : (s.send o).shadow = s.shadow := rfl
@[simp] theorem State.mem_send (s : State) (o : Out) : (s.send o).mem = s.mem := rfl
@[simp] theorem State.sram_send (s : State) (o : Out) : (s.send o).sram = s.sram := rfl
@[simp] theorem State.sramBad_send (s : State) (o : Out) : (s.send o).sramBad = s.sramBad := rfl
@[simp] theorem State.tiles_send (s : State) (o : Out) : (s.send o).tiles = s.tiles := rfl
@[simp] theorem State.parts_send (s : State) (o : Out) : (s.send o).parts = s.parts := rfl
@[simp] theorem State.movers_send (s : State) (o : Out) : (s.send o).movers = s.movers := rfl
@[simp] theorem State.tenants_send (s : State) (o : Out) : (s.send o).tenants = s.tenants := rfl
@[simp] theorem State.reqs_send (s : State) (o : Out) : (s.send o).reqs = s.reqs := rfl
@[simp] theorem State.convs_send (s : State) (o : Out) : (s.send o).convs = s.convs := rfl
@[simp] theorem State.tier_send (s : State) (o : Out) : (s.send o).tier = s.tier := rfl
@[simp] theorem State.rrc_send (s : State) (o : Out) : (s.send o).rrc = s.rrc := rfl
@[simp] theorem State.engines_send (s : State) (o : Out) : (s.send o).engines = s.engines := rfl
@[simp] theorem State.regions_send (s : State) (o : Out) : (s.send o).regions = s.regions := rfl
@[simp] theorem State.qps_send (s : State) (o : Out) : (s.send o).qps = s.qps := rfl
@[simp] theorem State.ports_send (s : State) (o : Out) : (s.send o).ports = s.ports := rfl
@[simp] theorem State.finj_send (s : State) (o : Out) : (s.send o).finj = s.finj := rfl
@[simp] theorem State.srch_send (s : State) (o : Out) : (s.send o).srch = s.srch := rfl
@[simp] theorem State.units_send (s : State) (o : Out) : (s.send o).units = s.units := rfl
@[simp] theorem State.digs_send (s : State) (o : Out) : (s.send o).digs = s.digs := rfl
@[simp] theorem State.elog_send (s : State) (o : Out) : (s.send o).elog = s.elog := rfl
@[simp] theorem State.qrm_send (s : State) (o : Out) : (s.send o).qrm = s.qrm := rfl
@[simp] theorem State.pwr_send (s : State) (o : Out) : (s.send o).pwr = s.pwr := rfl
@[simp] theorem State.rst_send (s : State) (o : Out) : (s.send o).rst = s.rst := rfl
@[simp] theorem State.fuses_send (s : State) (o : Out) : (s.send o).fuses = s.fuses := rfl
@[simp] theorem State.wlh_send (s : State) (o : Out) : (s.send o).wlh = s.wlh := rfl
@[simp] theorem State.ledger_send (s : State) (o : Out) : (s.send o).ledger = s.ledger := rfl
@[simp] theorem State.uart_send (s : State) (o : Out) : (s.send o).uart = s.uart := rfl
@[simp] theorem State.pcie_send (s : State) (o : Out) : (s.send o).pcie = s.pcie := rfl
@[simp] theorem State.sync_send (s : State) (o : Out) : (s.send o).sync = s.sync := rfl
@[simp] theorem State.unreached_send (s : State) (o : Out) : (s.send o).unreached = s.unreached := rfl

/-! ## sends -/

@[simp] theorem State.now_sends (s : State) (l : List Out) : (s.sends l).now = s.now := rfl
@[simp] theorem State.fresh_sends (s : State) (l : List Out) : (s.sends l).fresh = s.fresh := rfl
@[simp] theorem State.pending_sends (s : State) (l : List Out) : (s.sends l).pending = s.pending := rfl
@[simp] theorem State.regs_sends (s : State) (l : List Out) : (s.sends l).regs = s.regs := rfl
@[simp] theorem State.cnt_sends (s : State) (l : List Out) : (s.sends l).cnt = s.cnt := rfl
@[simp] theorem State.shadow_sends (s : State) (l : List Out) : (s.sends l).shadow = s.shadow := rfl
@[simp] theorem State.mem_sends (s : State) (l : List Out) : (s.sends l).mem = s.mem := rfl
@[simp] theorem State.sram_sends (s : State) (l : List Out) : (s.sends l).sram = s.sram := rfl
@[simp] theorem State.sramBad_sends (s : State) (l : List Out) : (s.sends l).sramBad = s.sramBad := rfl
@[simp] theorem State.tiles_sends (s : State) (l : List Out) : (s.sends l).tiles = s.tiles := rfl
@[simp] theorem State.parts_sends (s : State) (l : List Out) : (s.sends l).parts = s.parts := rfl
@[simp] theorem State.movers_sends (s : State) (l : List Out) : (s.sends l).movers = s.movers := rfl
@[simp] theorem State.tenants_sends (s : State) (l : List Out) : (s.sends l).tenants = s.tenants := rfl
@[simp] theorem State.reqs_sends (s : State) (l : List Out) : (s.sends l).reqs = s.reqs := rfl
@[simp] theorem State.convs_sends (s : State) (l : List Out) : (s.sends l).convs = s.convs := rfl
@[simp] theorem State.tier_sends (s : State) (l : List Out) : (s.sends l).tier = s.tier := rfl
@[simp] theorem State.rrc_sends (s : State) (l : List Out) : (s.sends l).rrc = s.rrc := rfl
@[simp] theorem State.engines_sends (s : State) (l : List Out) : (s.sends l).engines = s.engines := rfl
@[simp] theorem State.regions_sends (s : State) (l : List Out) : (s.sends l).regions = s.regions := rfl
@[simp] theorem State.qps_sends (s : State) (l : List Out) : (s.sends l).qps = s.qps := rfl
@[simp] theorem State.ports_sends (s : State) (l : List Out) : (s.sends l).ports = s.ports := rfl
@[simp] theorem State.finj_sends (s : State) (l : List Out) : (s.sends l).finj = s.finj := rfl
@[simp] theorem State.srch_sends (s : State) (l : List Out) : (s.sends l).srch = s.srch := rfl
@[simp] theorem State.units_sends (s : State) (l : List Out) : (s.sends l).units = s.units := rfl
@[simp] theorem State.digs_sends (s : State) (l : List Out) : (s.sends l).digs = s.digs := rfl
@[simp] theorem State.elog_sends (s : State) (l : List Out) : (s.sends l).elog = s.elog := rfl
@[simp] theorem State.qrm_sends (s : State) (l : List Out) : (s.sends l).qrm = s.qrm := rfl
@[simp] theorem State.pwr_sends (s : State) (l : List Out) : (s.sends l).pwr = s.pwr := rfl
@[simp] theorem State.rst_sends (s : State) (l : List Out) : (s.sends l).rst = s.rst := rfl
@[simp] theorem State.fuses_sends (s : State) (l : List Out) : (s.sends l).fuses = s.fuses := rfl
@[simp] theorem State.wlh_sends (s : State) (l : List Out) : (s.sends l).wlh = s.wlh := rfl
@[simp] theorem State.ledger_sends (s : State) (l : List Out) : (s.sends l).ledger = s.ledger := rfl
@[simp] theorem State.uart_sends (s : State) (l : List Out) : (s.sends l).uart = s.uart := rfl
@[simp] theorem State.pcie_sends (s : State) (l : List Out) : (s.sends l).pcie = s.pcie := rfl
@[simp] theorem State.sync_sends (s : State) (l : List Out) : (s.sends l).sync = s.sync := rfl
@[simp] theorem State.unreached_sends (s : State) (l : List Out) : (s.sends l).unreached = s.unreached := rfl

/-! ## draw -/

@[simp] theorem State.now_draw (s : State) : (s.draw).now = s.now := rfl
@[simp] theorem State.pending_draw (s : State) : (s.draw).pending = s.pending := rfl
@[simp] theorem State.out_draw (s : State) : (s.draw).out = s.out := rfl
@[simp] theorem State.regs_draw (s : State) : (s.draw).regs = s.regs := rfl
@[simp] theorem State.cnt_draw (s : State) : (s.draw).cnt = s.cnt := rfl
@[simp] theorem State.shadow_draw (s : State) : (s.draw).shadow = s.shadow := rfl
@[simp] theorem State.mem_draw (s : State) : (s.draw).mem = s.mem := rfl
@[simp] theorem State.sram_draw (s : State) : (s.draw).sram = s.sram := rfl
@[simp] theorem State.sramBad_draw (s : State) : (s.draw).sramBad = s.sramBad := rfl
@[simp] theorem State.tiles_draw (s : State) : (s.draw).tiles = s.tiles := rfl
@[simp] theorem State.parts_draw (s : State) : (s.draw).parts = s.parts := rfl
@[simp] theorem State.movers_draw (s : State) : (s.draw).movers = s.movers := rfl
@[simp] theorem State.tenants_draw (s : State) : (s.draw).tenants = s.tenants := rfl
@[simp] theorem State.reqs_draw (s : State) : (s.draw).reqs = s.reqs := rfl
@[simp] theorem State.convs_draw (s : State) : (s.draw).convs = s.convs := rfl
@[simp] theorem State.tier_draw (s : State) : (s.draw).tier = s.tier := rfl
@[simp] theorem State.rrc_draw (s : State) : (s.draw).rrc = s.rrc := rfl
@[simp] theorem State.engines_draw (s : State) : (s.draw).engines = s.engines := rfl
@[simp] theorem State.regions_draw (s : State) : (s.draw).regions = s.regions := rfl
@[simp] theorem State.qps_draw (s : State) : (s.draw).qps = s.qps := rfl
@[simp] theorem State.ports_draw (s : State) : (s.draw).ports = s.ports := rfl
@[simp] theorem State.finj_draw (s : State) : (s.draw).finj = s.finj := rfl
@[simp] theorem State.srch_draw (s : State) : (s.draw).srch = s.srch := rfl
@[simp] theorem State.units_draw (s : State) : (s.draw).units = s.units := rfl
@[simp] theorem State.digs_draw (s : State) : (s.draw).digs = s.digs := rfl
@[simp] theorem State.elog_draw (s : State) : (s.draw).elog = s.elog := rfl
@[simp] theorem State.qrm_draw (s : State) : (s.draw).qrm = s.qrm := rfl
@[simp] theorem State.pwr_draw (s : State) : (s.draw).pwr = s.pwr := rfl
@[simp] theorem State.rst_draw (s : State) : (s.draw).rst = s.rst := rfl
@[simp] theorem State.fuses_draw (s : State) : (s.draw).fuses = s.fuses := rfl
@[simp] theorem State.wlh_draw (s : State) : (s.draw).wlh = s.wlh := rfl
@[simp] theorem State.ledger_draw (s : State) : (s.draw).ledger = s.ledger := rfl
@[simp] theorem State.uart_draw (s : State) : (s.draw).uart = s.uart := rfl
@[simp] theorem State.pcie_draw (s : State) : (s.draw).pcie = s.pcie := rfl
@[simp] theorem State.sync_draw (s : State) : (s.draw).sync = s.sync := rfl
@[simp] theorem State.unreached_draw (s : State) : (s.draw).unreached = s.unreached := rfl

/-! ## wr -/

@[simp] theorem State.now_wr (s : State) (a : Nat) (b : List Byte) : (s.wr a b).now = s.now := rfl
@[simp] theorem State.fresh_wr (s : State) (a : Nat) (b : List Byte) : (s.wr a b).fresh = s.fresh := rfl
@[simp] theorem State.pending_wr (s : State) (a : Nat) (b : List Byte) : (s.wr a b).pending = s.pending := rfl
@[simp] theorem State.out_wr (s : State) (a : Nat) (b : List Byte) : (s.wr a b).out = s.out := rfl
@[simp] theorem State.regs_wr (s : State) (a : Nat) (b : List Byte) : (s.wr a b).regs = s.regs := rfl
@[simp] theorem State.cnt_wr (s : State) (a : Nat) (b : List Byte) : (s.wr a b).cnt = s.cnt := rfl
@[simp] theorem State.shadow_wr (s : State) (a : Nat) (b : List Byte) : (s.wr a b).shadow = s.shadow := rfl
@[simp] theorem State.sram_wr (s : State) (a : Nat) (b : List Byte) : (s.wr a b).sram = s.sram := rfl
@[simp] theorem State.sramBad_wr (s : State) (a : Nat) (b : List Byte) : (s.wr a b).sramBad = s.sramBad := rfl
@[simp] theorem State.tiles_wr (s : State) (a : Nat) (b : List Byte) : (s.wr a b).tiles = s.tiles := rfl
@[simp] theorem State.parts_wr (s : State) (a : Nat) (b : List Byte) : (s.wr a b).parts = s.parts := rfl
@[simp] theorem State.movers_wr (s : State) (a : Nat) (b : List Byte) : (s.wr a b).movers = s.movers := rfl
@[simp] theorem State.tenants_wr (s : State) (a : Nat) (b : List Byte) : (s.wr a b).tenants = s.tenants := rfl
@[simp] theorem State.reqs_wr (s : State) (a : Nat) (b : List Byte) : (s.wr a b).reqs = s.reqs := rfl
@[simp] theorem State.convs_wr (s : State) (a : Nat) (b : List Byte) : (s.wr a b).convs = s.convs := rfl
@[simp] theorem State.tier_wr (s : State) (a : Nat) (b : List Byte) : (s.wr a b).tier = s.tier := rfl
@[simp] theorem State.rrc_wr (s : State) (a : Nat) (b : List Byte) : (s.wr a b).rrc = s.rrc := rfl
@[simp] theorem State.engines_wr (s : State) (a : Nat) (b : List Byte) : (s.wr a b).engines = s.engines := rfl
@[simp] theorem State.regions_wr (s : State) (a : Nat) (b : List Byte) : (s.wr a b).regions = s.regions := rfl
@[simp] theorem State.qps_wr (s : State) (a : Nat) (b : List Byte) : (s.wr a b).qps = s.qps := rfl
@[simp] theorem State.ports_wr (s : State) (a : Nat) (b : List Byte) : (s.wr a b).ports = s.ports := rfl
@[simp] theorem State.finj_wr (s : State) (a : Nat) (b : List Byte) : (s.wr a b).finj = s.finj := rfl
@[simp] theorem State.srch_wr (s : State) (a : Nat) (b : List Byte) : (s.wr a b).srch = s.srch := rfl
@[simp] theorem State.units_wr (s : State) (a : Nat) (b : List Byte) : (s.wr a b).units = s.units := rfl
@[simp] theorem State.elog_wr (s : State) (a : Nat) (b : List Byte) : (s.wr a b).elog = s.elog := rfl
@[simp] theorem State.qrm_wr (s : State) (a : Nat) (b : List Byte) : (s.wr a b).qrm = s.qrm := rfl
@[simp] theorem State.pwr_wr (s : State) (a : Nat) (b : List Byte) : (s.wr a b).pwr = s.pwr := rfl
@[simp] theorem State.rst_wr (s : State) (a : Nat) (b : List Byte) : (s.wr a b).rst = s.rst := rfl
@[simp] theorem State.fuses_wr (s : State) (a : Nat) (b : List Byte) : (s.wr a b).fuses = s.fuses := rfl
@[simp] theorem State.wlh_wr (s : State) (a : Nat) (b : List Byte) : (s.wr a b).wlh = s.wlh := rfl
@[simp] theorem State.ledger_wr (s : State) (a : Nat) (b : List Byte) : (s.wr a b).ledger = s.ledger := rfl
@[simp] theorem State.uart_wr (s : State) (a : Nat) (b : List Byte) : (s.wr a b).uart = s.uart := rfl
@[simp] theorem State.pcie_wr (s : State) (a : Nat) (b : List Byte) : (s.wr a b).pcie = s.pcie := rfl
@[simp] theorem State.sync_wr (s : State) (a : Nat) (b : List Byte) : (s.wr a b).sync = s.sync := rfl
@[simp] theorem State.unreached_wr (s : State) (a : Nat) (b : List Byte) : (s.wr a b).unreached = s.unreached := rfl

/-! ## wrSram -/

@[simp] theorem State.now_wrSram (s : State) (t : TileId) (o : Nat) (b : List Byte) : (s.wrSram t o b).now = s.now := rfl
@[simp] theorem State.fresh_wrSram (s : State) (t : TileId) (o : Nat) (b : List Byte) : (s.wrSram t o b).fresh = s.fresh := rfl
@[simp] theorem State.pending_wrSram (s : State) (t : TileId) (o : Nat) (b : List Byte) : (s.wrSram t o b).pending = s.pending := rfl
@[simp] theorem State.out_wrSram (s : State) (t : TileId) (o : Nat) (b : List Byte) : (s.wrSram t o b).out = s.out := rfl
@[simp] theorem State.regs_wrSram (s : State) (t : TileId) (o : Nat) (b : List Byte) : (s.wrSram t o b).regs = s.regs := rfl
@[simp] theorem State.cnt_wrSram (s : State) (t : TileId) (o : Nat) (b : List Byte) : (s.wrSram t o b).cnt = s.cnt := rfl
@[simp] theorem State.shadow_wrSram (s : State) (t : TileId) (o : Nat) (b : List Byte) : (s.wrSram t o b).shadow = s.shadow := rfl
@[simp] theorem State.mem_wrSram (s : State) (t : TileId) (o : Nat) (b : List Byte) : (s.wrSram t o b).mem = s.mem := rfl
@[simp] theorem State.sramBad_wrSram (s : State) (t : TileId) (o : Nat) (b : List Byte) : (s.wrSram t o b).sramBad = s.sramBad := rfl
@[simp] theorem State.tiles_wrSram (s : State) (t : TileId) (o : Nat) (b : List Byte) : (s.wrSram t o b).tiles = s.tiles := rfl
@[simp] theorem State.parts_wrSram (s : State) (t : TileId) (o : Nat) (b : List Byte) : (s.wrSram t o b).parts = s.parts := rfl
@[simp] theorem State.movers_wrSram (s : State) (t : TileId) (o : Nat) (b : List Byte) : (s.wrSram t o b).movers = s.movers := rfl
@[simp] theorem State.tenants_wrSram (s : State) (t : TileId) (o : Nat) (b : List Byte) : (s.wrSram t o b).tenants = s.tenants := rfl
@[simp] theorem State.reqs_wrSram (s : State) (t : TileId) (o : Nat) (b : List Byte) : (s.wrSram t o b).reqs = s.reqs := rfl
@[simp] theorem State.convs_wrSram (s : State) (t : TileId) (o : Nat) (b : List Byte) : (s.wrSram t o b).convs = s.convs := rfl
@[simp] theorem State.tier_wrSram (s : State) (t : TileId) (o : Nat) (b : List Byte) : (s.wrSram t o b).tier = s.tier := rfl
@[simp] theorem State.rrc_wrSram (s : State) (t : TileId) (o : Nat) (b : List Byte) : (s.wrSram t o b).rrc = s.rrc := rfl
@[simp] theorem State.engines_wrSram (s : State) (t : TileId) (o : Nat) (b : List Byte) : (s.wrSram t o b).engines = s.engines := rfl
@[simp] theorem State.regions_wrSram (s : State) (t : TileId) (o : Nat) (b : List Byte) : (s.wrSram t o b).regions = s.regions := rfl
@[simp] theorem State.qps_wrSram (s : State) (t : TileId) (o : Nat) (b : List Byte) : (s.wrSram t o b).qps = s.qps := rfl
@[simp] theorem State.ports_wrSram (s : State) (t : TileId) (o : Nat) (b : List Byte) : (s.wrSram t o b).ports = s.ports := rfl
@[simp] theorem State.finj_wrSram (s : State) (t : TileId) (o : Nat) (b : List Byte) : (s.wrSram t o b).finj = s.finj := rfl
@[simp] theorem State.srch_wrSram (s : State) (t : TileId) (o : Nat) (b : List Byte) : (s.wrSram t o b).srch = s.srch := rfl
@[simp] theorem State.units_wrSram (s : State) (t : TileId) (o : Nat) (b : List Byte) : (s.wrSram t o b).units = s.units := rfl
@[simp] theorem State.digs_wrSram (s : State) (t : TileId) (o : Nat) (b : List Byte) : (s.wrSram t o b).digs = s.digs := rfl
@[simp] theorem State.elog_wrSram (s : State) (t : TileId) (o : Nat) (b : List Byte) : (s.wrSram t o b).elog = s.elog := rfl
@[simp] theorem State.qrm_wrSram (s : State) (t : TileId) (o : Nat) (b : List Byte) : (s.wrSram t o b).qrm = s.qrm := rfl
@[simp] theorem State.pwr_wrSram (s : State) (t : TileId) (o : Nat) (b : List Byte) : (s.wrSram t o b).pwr = s.pwr := rfl
@[simp] theorem State.rst_wrSram (s : State) (t : TileId) (o : Nat) (b : List Byte) : (s.wrSram t o b).rst = s.rst := rfl
@[simp] theorem State.fuses_wrSram (s : State) (t : TileId) (o : Nat) (b : List Byte) : (s.wrSram t o b).fuses = s.fuses := rfl
@[simp] theorem State.wlh_wrSram (s : State) (t : TileId) (o : Nat) (b : List Byte) : (s.wrSram t o b).wlh = s.wlh := rfl
@[simp] theorem State.ledger_wrSram (s : State) (t : TileId) (o : Nat) (b : List Byte) : (s.wrSram t o b).ledger = s.ledger := rfl
@[simp] theorem State.uart_wrSram (s : State) (t : TileId) (o : Nat) (b : List Byte) : (s.wrSram t o b).uart = s.uart := rfl
@[simp] theorem State.pcie_wrSram (s : State) (t : TileId) (o : Nat) (b : List Byte) : (s.wrSram t o b).pcie = s.pcie := rfl
@[simp] theorem State.sync_wrSram (s : State) (t : TileId) (o : Nat) (b : List Byte) : (s.wrSram t o b).sync = s.sync := rfl
@[simp] theorem State.unreached_wrSram (s : State) (t : TileId) (o : Nat) (b : List Byte) : (s.wrSram t o b).unreached = s.unreached := rfl

/-! ## setTile -/

@[simp] theorem State.now_setTile (s : State) (t : TileId) (v : Tile) : (s.setTile t v).now = s.now := rfl
@[simp] theorem State.fresh_setTile (s : State) (t : TileId) (v : Tile) : (s.setTile t v).fresh = s.fresh := rfl
@[simp] theorem State.pending_setTile (s : State) (t : TileId) (v : Tile) : (s.setTile t v).pending = s.pending := rfl
@[simp] theorem State.out_setTile (s : State) (t : TileId) (v : Tile) : (s.setTile t v).out = s.out := rfl
@[simp] theorem State.regs_setTile (s : State) (t : TileId) (v : Tile) : (s.setTile t v).regs = s.regs := rfl
@[simp] theorem State.cnt_setTile (s : State) (t : TileId) (v : Tile) : (s.setTile t v).cnt = s.cnt := rfl
@[simp] theorem State.shadow_setTile (s : State) (t : TileId) (v : Tile) : (s.setTile t v).shadow = s.shadow := rfl
@[simp] theorem State.mem_setTile (s : State) (t : TileId) (v : Tile) : (s.setTile t v).mem = s.mem := rfl
@[simp] theorem State.sram_setTile (s : State) (t : TileId) (v : Tile) : (s.setTile t v).sram = s.sram := rfl
@[simp] theorem State.sramBad_setTile (s : State) (t : TileId) (v : Tile) : (s.setTile t v).sramBad = s.sramBad := rfl
@[simp] theorem State.parts_setTile (s : State) (t : TileId) (v : Tile) : (s.setTile t v).parts = s.parts := rfl
@[simp] theorem State.movers_setTile (s : State) (t : TileId) (v : Tile) : (s.setTile t v).movers = s.movers := rfl
@[simp] theorem State.tenants_setTile (s : State) (t : TileId) (v : Tile) : (s.setTile t v).tenants = s.tenants := rfl
@[simp] theorem State.reqs_setTile (s : State) (t : TileId) (v : Tile) : (s.setTile t v).reqs = s.reqs := rfl
@[simp] theorem State.convs_setTile (s : State) (t : TileId) (v : Tile) : (s.setTile t v).convs = s.convs := rfl
@[simp] theorem State.tier_setTile (s : State) (t : TileId) (v : Tile) : (s.setTile t v).tier = s.tier := rfl
@[simp] theorem State.rrc_setTile (s : State) (t : TileId) (v : Tile) : (s.setTile t v).rrc = s.rrc := rfl
@[simp] theorem State.engines_setTile (s : State) (t : TileId) (v : Tile) : (s.setTile t v).engines = s.engines := rfl
@[simp] theorem State.regions_setTile (s : State) (t : TileId) (v : Tile) : (s.setTile t v).regions = s.regions := rfl
@[simp] theorem State.qps_setTile (s : State) (t : TileId) (v : Tile) : (s.setTile t v).qps = s.qps := rfl
@[simp] theorem State.ports_setTile (s : State) (t : TileId) (v : Tile) : (s.setTile t v).ports = s.ports := rfl
@[simp] theorem State.finj_setTile (s : State) (t : TileId) (v : Tile) : (s.setTile t v).finj = s.finj := rfl
@[simp] theorem State.srch_setTile (s : State) (t : TileId) (v : Tile) : (s.setTile t v).srch = s.srch := rfl
@[simp] theorem State.units_setTile (s : State) (t : TileId) (v : Tile) : (s.setTile t v).units = s.units := rfl
@[simp] theorem State.digs_setTile (s : State) (t : TileId) (v : Tile) : (s.setTile t v).digs = s.digs := rfl
@[simp] theorem State.elog_setTile (s : State) (t : TileId) (v : Tile) : (s.setTile t v).elog = s.elog := rfl
@[simp] theorem State.qrm_setTile (s : State) (t : TileId) (v : Tile) : (s.setTile t v).qrm = s.qrm := rfl
@[simp] theorem State.pwr_setTile (s : State) (t : TileId) (v : Tile) : (s.setTile t v).pwr = s.pwr := rfl
@[simp] theorem State.rst_setTile (s : State) (t : TileId) (v : Tile) : (s.setTile t v).rst = s.rst := rfl
@[simp] theorem State.fuses_setTile (s : State) (t : TileId) (v : Tile) : (s.setTile t v).fuses = s.fuses := rfl
@[simp] theorem State.wlh_setTile (s : State) (t : TileId) (v : Tile) : (s.setTile t v).wlh = s.wlh := rfl
@[simp] theorem State.ledger_setTile (s : State) (t : TileId) (v : Tile) : (s.setTile t v).ledger = s.ledger := rfl
@[simp] theorem State.uart_setTile (s : State) (t : TileId) (v : Tile) : (s.setTile t v).uart = s.uart := rfl
@[simp] theorem State.pcie_setTile (s : State) (t : TileId) (v : Tile) : (s.setTile t v).pcie = s.pcie := rfl
@[simp] theorem State.sync_setTile (s : State) (t : TileId) (v : Tile) : (s.setTile t v).sync = s.sync := rfl
@[simp] theorem State.unreached_setTile (s : State) (t : TileId) (v : Tile) : (s.setTile t v).unreached = s.unreached := rfl

/-! ## setPart -/

@[simp] theorem State.now_setPart (s : State) (p : PartId) (v : Part) : (s.setPart p v).now = s.now := rfl
@[simp] theorem State.fresh_setPart (s : State) (p : PartId) (v : Part) : (s.setPart p v).fresh = s.fresh := rfl
@[simp] theorem State.pending_setPart (s : State) (p : PartId) (v : Part) : (s.setPart p v).pending = s.pending := rfl
@[simp] theorem State.out_setPart (s : State) (p : PartId) (v : Part) : (s.setPart p v).out = s.out := rfl
@[simp] theorem State.regs_setPart (s : State) (p : PartId) (v : Part) : (s.setPart p v).regs = s.regs := rfl
@[simp] theorem State.cnt_setPart (s : State) (p : PartId) (v : Part) : (s.setPart p v).cnt = s.cnt := rfl
@[simp] theorem State.shadow_setPart (s : State) (p : PartId) (v : Part) : (s.setPart p v).shadow = s.shadow := rfl
@[simp] theorem State.mem_setPart (s : State) (p : PartId) (v : Part) : (s.setPart p v).mem = s.mem := rfl
@[simp] theorem State.sram_setPart (s : State) (p : PartId) (v : Part) : (s.setPart p v).sram = s.sram := rfl
@[simp] theorem State.sramBad_setPart (s : State) (p : PartId) (v : Part) : (s.setPart p v).sramBad = s.sramBad := rfl
@[simp] theorem State.tiles_setPart (s : State) (p : PartId) (v : Part) : (s.setPart p v).tiles = s.tiles := rfl
@[simp] theorem State.movers_setPart (s : State) (p : PartId) (v : Part) : (s.setPart p v).movers = s.movers := rfl
@[simp] theorem State.tenants_setPart (s : State) (p : PartId) (v : Part) : (s.setPart p v).tenants = s.tenants := rfl
@[simp] theorem State.reqs_setPart (s : State) (p : PartId) (v : Part) : (s.setPart p v).reqs = s.reqs := rfl
@[simp] theorem State.convs_setPart (s : State) (p : PartId) (v : Part) : (s.setPart p v).convs = s.convs := rfl
@[simp] theorem State.tier_setPart (s : State) (p : PartId) (v : Part) : (s.setPart p v).tier = s.tier := rfl
@[simp] theorem State.rrc_setPart (s : State) (p : PartId) (v : Part) : (s.setPart p v).rrc = s.rrc := rfl
@[simp] theorem State.engines_setPart (s : State) (p : PartId) (v : Part) : (s.setPart p v).engines = s.engines := rfl
@[simp] theorem State.regions_setPart (s : State) (p : PartId) (v : Part) : (s.setPart p v).regions = s.regions := rfl
@[simp] theorem State.qps_setPart (s : State) (p : PartId) (v : Part) : (s.setPart p v).qps = s.qps := rfl
@[simp] theorem State.ports_setPart (s : State) (p : PartId) (v : Part) : (s.setPart p v).ports = s.ports := rfl
@[simp] theorem State.finj_setPart (s : State) (p : PartId) (v : Part) : (s.setPart p v).finj = s.finj := rfl
@[simp] theorem State.srch_setPart (s : State) (p : PartId) (v : Part) : (s.setPart p v).srch = s.srch := rfl
@[simp] theorem State.units_setPart (s : State) (p : PartId) (v : Part) : (s.setPart p v).units = s.units := rfl
@[simp] theorem State.digs_setPart (s : State) (p : PartId) (v : Part) : (s.setPart p v).digs = s.digs := rfl
@[simp] theorem State.elog_setPart (s : State) (p : PartId) (v : Part) : (s.setPart p v).elog = s.elog := rfl
@[simp] theorem State.qrm_setPart (s : State) (p : PartId) (v : Part) : (s.setPart p v).qrm = s.qrm := rfl
@[simp] theorem State.pwr_setPart (s : State) (p : PartId) (v : Part) : (s.setPart p v).pwr = s.pwr := rfl
@[simp] theorem State.rst_setPart (s : State) (p : PartId) (v : Part) : (s.setPart p v).rst = s.rst := rfl
@[simp] theorem State.fuses_setPart (s : State) (p : PartId) (v : Part) : (s.setPart p v).fuses = s.fuses := rfl
@[simp] theorem State.wlh_setPart (s : State) (p : PartId) (v : Part) : (s.setPart p v).wlh = s.wlh := rfl
@[simp] theorem State.ledger_setPart (s : State) (p : PartId) (v : Part) : (s.setPart p v).ledger = s.ledger := rfl
@[simp] theorem State.uart_setPart (s : State) (p : PartId) (v : Part) : (s.setPart p v).uart = s.uart := rfl
@[simp] theorem State.pcie_setPart (s : State) (p : PartId) (v : Part) : (s.setPart p v).pcie = s.pcie := rfl
@[simp] theorem State.sync_setPart (s : State) (p : PartId) (v : Part) : (s.setPart p v).sync = s.sync := rfl
@[simp] theorem State.unreached_setPart (s : State) (p : PartId) (v : Part) : (s.setPart p v).unreached = s.unreached := rfl

/-! ## setMover -/

@[simp] theorem State.now_setMover (s : State) (p : PartId) (v : Mover) : (s.setMover p v).now = s.now := rfl
@[simp] theorem State.fresh_setMover (s : State) (p : PartId) (v : Mover) : (s.setMover p v).fresh = s.fresh := rfl
@[simp] theorem State.pending_setMover (s : State) (p : PartId) (v : Mover) : (s.setMover p v).pending = s.pending := rfl
@[simp] theorem State.out_setMover (s : State) (p : PartId) (v : Mover) : (s.setMover p v).out = s.out := rfl
@[simp] theorem State.regs_setMover (s : State) (p : PartId) (v : Mover) : (s.setMover p v).regs = s.regs := rfl
@[simp] theorem State.cnt_setMover (s : State) (p : PartId) (v : Mover) : (s.setMover p v).cnt = s.cnt := rfl
@[simp] theorem State.shadow_setMover (s : State) (p : PartId) (v : Mover) : (s.setMover p v).shadow = s.shadow := rfl
@[simp] theorem State.mem_setMover (s : State) (p : PartId) (v : Mover) : (s.setMover p v).mem = s.mem := rfl
@[simp] theorem State.sram_setMover (s : State) (p : PartId) (v : Mover) : (s.setMover p v).sram = s.sram := rfl
@[simp] theorem State.sramBad_setMover (s : State) (p : PartId) (v : Mover) : (s.setMover p v).sramBad = s.sramBad := rfl
@[simp] theorem State.tiles_setMover (s : State) (p : PartId) (v : Mover) : (s.setMover p v).tiles = s.tiles := rfl
@[simp] theorem State.parts_setMover (s : State) (p : PartId) (v : Mover) : (s.setMover p v).parts = s.parts := rfl
@[simp] theorem State.tenants_setMover (s : State) (p : PartId) (v : Mover) : (s.setMover p v).tenants = s.tenants := rfl
@[simp] theorem State.reqs_setMover (s : State) (p : PartId) (v : Mover) : (s.setMover p v).reqs = s.reqs := rfl
@[simp] theorem State.convs_setMover (s : State) (p : PartId) (v : Mover) : (s.setMover p v).convs = s.convs := rfl
@[simp] theorem State.tier_setMover (s : State) (p : PartId) (v : Mover) : (s.setMover p v).tier = s.tier := rfl
@[simp] theorem State.rrc_setMover (s : State) (p : PartId) (v : Mover) : (s.setMover p v).rrc = s.rrc := rfl
@[simp] theorem State.engines_setMover (s : State) (p : PartId) (v : Mover) : (s.setMover p v).engines = s.engines := rfl
@[simp] theorem State.regions_setMover (s : State) (p : PartId) (v : Mover) : (s.setMover p v).regions = s.regions := rfl
@[simp] theorem State.qps_setMover (s : State) (p : PartId) (v : Mover) : (s.setMover p v).qps = s.qps := rfl
@[simp] theorem State.ports_setMover (s : State) (p : PartId) (v : Mover) : (s.setMover p v).ports = s.ports := rfl
@[simp] theorem State.finj_setMover (s : State) (p : PartId) (v : Mover) : (s.setMover p v).finj = s.finj := rfl
@[simp] theorem State.srch_setMover (s : State) (p : PartId) (v : Mover) : (s.setMover p v).srch = s.srch := rfl
@[simp] theorem State.units_setMover (s : State) (p : PartId) (v : Mover) : (s.setMover p v).units = s.units := rfl
@[simp] theorem State.digs_setMover (s : State) (p : PartId) (v : Mover) : (s.setMover p v).digs = s.digs := rfl
@[simp] theorem State.elog_setMover (s : State) (p : PartId) (v : Mover) : (s.setMover p v).elog = s.elog := rfl
@[simp] theorem State.qrm_setMover (s : State) (p : PartId) (v : Mover) : (s.setMover p v).qrm = s.qrm := rfl
@[simp] theorem State.pwr_setMover (s : State) (p : PartId) (v : Mover) : (s.setMover p v).pwr = s.pwr := rfl
@[simp] theorem State.rst_setMover (s : State) (p : PartId) (v : Mover) : (s.setMover p v).rst = s.rst := rfl
@[simp] theorem State.fuses_setMover (s : State) (p : PartId) (v : Mover) : (s.setMover p v).fuses = s.fuses := rfl
@[simp] theorem State.wlh_setMover (s : State) (p : PartId) (v : Mover) : (s.setMover p v).wlh = s.wlh := rfl
@[simp] theorem State.ledger_setMover (s : State) (p : PartId) (v : Mover) : (s.setMover p v).ledger = s.ledger := rfl
@[simp] theorem State.uart_setMover (s : State) (p : PartId) (v : Mover) : (s.setMover p v).uart = s.uart := rfl
@[simp] theorem State.pcie_setMover (s : State) (p : PartId) (v : Mover) : (s.setMover p v).pcie = s.pcie := rfl
@[simp] theorem State.sync_setMover (s : State) (p : PartId) (v : Mover) : (s.setMover p v).sync = s.sync := rfl
@[simp] theorem State.unreached_setMover (s : State) (p : PartId) (v : Mover) : (s.setMover p v).unreached = s.unreached := rfl

/-! ## setTen -/

@[simp] theorem State.now_setTen (s : State) (n : TenId) (v : Tenant) : (s.setTen n v).now = s.now := rfl
@[simp] theorem State.fresh_setTen (s : State) (n : TenId) (v : Tenant) : (s.setTen n v).fresh = s.fresh := rfl
@[simp] theorem State.pending_setTen (s : State) (n : TenId) (v : Tenant) : (s.setTen n v).pending = s.pending := rfl
@[simp] theorem State.out_setTen (s : State) (n : TenId) (v : Tenant) : (s.setTen n v).out = s.out := rfl
@[simp] theorem State.regs_setTen (s : State) (n : TenId) (v : Tenant) : (s.setTen n v).regs = s.regs := rfl
@[simp] theorem State.cnt_setTen (s : State) (n : TenId) (v : Tenant) : (s.setTen n v).cnt = s.cnt := rfl
@[simp] theorem State.shadow_setTen (s : State) (n : TenId) (v : Tenant) : (s.setTen n v).shadow = s.shadow := rfl
@[simp] theorem State.mem_setTen (s : State) (n : TenId) (v : Tenant) : (s.setTen n v).mem = s.mem := rfl
@[simp] theorem State.sram_setTen (s : State) (n : TenId) (v : Tenant) : (s.setTen n v).sram = s.sram := rfl
@[simp] theorem State.sramBad_setTen (s : State) (n : TenId) (v : Tenant) : (s.setTen n v).sramBad = s.sramBad := rfl
@[simp] theorem State.tiles_setTen (s : State) (n : TenId) (v : Tenant) : (s.setTen n v).tiles = s.tiles := rfl
@[simp] theorem State.parts_setTen (s : State) (n : TenId) (v : Tenant) : (s.setTen n v).parts = s.parts := rfl
@[simp] theorem State.movers_setTen (s : State) (n : TenId) (v : Tenant) : (s.setTen n v).movers = s.movers := rfl
@[simp] theorem State.reqs_setTen (s : State) (n : TenId) (v : Tenant) : (s.setTen n v).reqs = s.reqs := rfl
@[simp] theorem State.convs_setTen (s : State) (n : TenId) (v : Tenant) : (s.setTen n v).convs = s.convs := rfl
@[simp] theorem State.tier_setTen (s : State) (n : TenId) (v : Tenant) : (s.setTen n v).tier = s.tier := rfl
@[simp] theorem State.rrc_setTen (s : State) (n : TenId) (v : Tenant) : (s.setTen n v).rrc = s.rrc := rfl
@[simp] theorem State.engines_setTen (s : State) (n : TenId) (v : Tenant) : (s.setTen n v).engines = s.engines := rfl
@[simp] theorem State.regions_setTen (s : State) (n : TenId) (v : Tenant) : (s.setTen n v).regions = s.regions := rfl
@[simp] theorem State.qps_setTen (s : State) (n : TenId) (v : Tenant) : (s.setTen n v).qps = s.qps := rfl
@[simp] theorem State.ports_setTen (s : State) (n : TenId) (v : Tenant) : (s.setTen n v).ports = s.ports := rfl
@[simp] theorem State.finj_setTen (s : State) (n : TenId) (v : Tenant) : (s.setTen n v).finj = s.finj := rfl
@[simp] theorem State.srch_setTen (s : State) (n : TenId) (v : Tenant) : (s.setTen n v).srch = s.srch := rfl
@[simp] theorem State.units_setTen (s : State) (n : TenId) (v : Tenant) : (s.setTen n v).units = s.units := rfl
@[simp] theorem State.digs_setTen (s : State) (n : TenId) (v : Tenant) : (s.setTen n v).digs = s.digs := rfl
@[simp] theorem State.elog_setTen (s : State) (n : TenId) (v : Tenant) : (s.setTen n v).elog = s.elog := rfl
@[simp] theorem State.qrm_setTen (s : State) (n : TenId) (v : Tenant) : (s.setTen n v).qrm = s.qrm := rfl
@[simp] theorem State.pwr_setTen (s : State) (n : TenId) (v : Tenant) : (s.setTen n v).pwr = s.pwr := rfl
@[simp] theorem State.rst_setTen (s : State) (n : TenId) (v : Tenant) : (s.setTen n v).rst = s.rst := rfl
@[simp] theorem State.fuses_setTen (s : State) (n : TenId) (v : Tenant) : (s.setTen n v).fuses = s.fuses := rfl
@[simp] theorem State.wlh_setTen (s : State) (n : TenId) (v : Tenant) : (s.setTen n v).wlh = s.wlh := rfl
@[simp] theorem State.ledger_setTen (s : State) (n : TenId) (v : Tenant) : (s.setTen n v).ledger = s.ledger := rfl
@[simp] theorem State.uart_setTen (s : State) (n : TenId) (v : Tenant) : (s.setTen n v).uart = s.uart := rfl
@[simp] theorem State.pcie_setTen (s : State) (n : TenId) (v : Tenant) : (s.setTen n v).pcie = s.pcie := rfl
@[simp] theorem State.sync_setTen (s : State) (n : TenId) (v : Tenant) : (s.setTen n v).sync = s.sync := rfl
@[simp] theorem State.unreached_setTen (s : State) (n : TenId) (v : Tenant) : (s.setTen n v).unreached = s.unreached := rfl

/-! ## setEng -/

@[simp] theorem State.now_setEng (s : State) (e : EngId) (v : Engine) : (s.setEng e v).now = s.now := rfl
@[simp] theorem State.fresh_setEng (s : State) (e : EngId) (v : Engine) : (s.setEng e v).fresh = s.fresh := rfl
@[simp] theorem State.pending_setEng (s : State) (e : EngId) (v : Engine) : (s.setEng e v).pending = s.pending := rfl
@[simp] theorem State.out_setEng (s : State) (e : EngId) (v : Engine) : (s.setEng e v).out = s.out := rfl
@[simp] theorem State.regs_setEng (s : State) (e : EngId) (v : Engine) : (s.setEng e v).regs = s.regs := rfl
@[simp] theorem State.cnt_setEng (s : State) (e : EngId) (v : Engine) : (s.setEng e v).cnt = s.cnt := rfl
@[simp] theorem State.shadow_setEng (s : State) (e : EngId) (v : Engine) : (s.setEng e v).shadow = s.shadow := rfl
@[simp] theorem State.mem_setEng (s : State) (e : EngId) (v : Engine) : (s.setEng e v).mem = s.mem := rfl
@[simp] theorem State.sram_setEng (s : State) (e : EngId) (v : Engine) : (s.setEng e v).sram = s.sram := rfl
@[simp] theorem State.sramBad_setEng (s : State) (e : EngId) (v : Engine) : (s.setEng e v).sramBad = s.sramBad := rfl
@[simp] theorem State.tiles_setEng (s : State) (e : EngId) (v : Engine) : (s.setEng e v).tiles = s.tiles := rfl
@[simp] theorem State.parts_setEng (s : State) (e : EngId) (v : Engine) : (s.setEng e v).parts = s.parts := rfl
@[simp] theorem State.movers_setEng (s : State) (e : EngId) (v : Engine) : (s.setEng e v).movers = s.movers := rfl
@[simp] theorem State.tenants_setEng (s : State) (e : EngId) (v : Engine) : (s.setEng e v).tenants = s.tenants := rfl
@[simp] theorem State.reqs_setEng (s : State) (e : EngId) (v : Engine) : (s.setEng e v).reqs = s.reqs := rfl
@[simp] theorem State.convs_setEng (s : State) (e : EngId) (v : Engine) : (s.setEng e v).convs = s.convs := rfl
@[simp] theorem State.tier_setEng (s : State) (e : EngId) (v : Engine) : (s.setEng e v).tier = s.tier := rfl
@[simp] theorem State.rrc_setEng (s : State) (e : EngId) (v : Engine) : (s.setEng e v).rrc = s.rrc := rfl
@[simp] theorem State.regions_setEng (s : State) (e : EngId) (v : Engine) : (s.setEng e v).regions = s.regions := rfl
@[simp] theorem State.qps_setEng (s : State) (e : EngId) (v : Engine) : (s.setEng e v).qps = s.qps := rfl
@[simp] theorem State.ports_setEng (s : State) (e : EngId) (v : Engine) : (s.setEng e v).ports = s.ports := rfl
@[simp] theorem State.finj_setEng (s : State) (e : EngId) (v : Engine) : (s.setEng e v).finj = s.finj := rfl
@[simp] theorem State.srch_setEng (s : State) (e : EngId) (v : Engine) : (s.setEng e v).srch = s.srch := rfl
@[simp] theorem State.units_setEng (s : State) (e : EngId) (v : Engine) : (s.setEng e v).units = s.units := rfl
@[simp] theorem State.digs_setEng (s : State) (e : EngId) (v : Engine) : (s.setEng e v).digs = s.digs := rfl
@[simp] theorem State.elog_setEng (s : State) (e : EngId) (v : Engine) : (s.setEng e v).elog = s.elog := rfl
@[simp] theorem State.qrm_setEng (s : State) (e : EngId) (v : Engine) : (s.setEng e v).qrm = s.qrm := rfl
@[simp] theorem State.pwr_setEng (s : State) (e : EngId) (v : Engine) : (s.setEng e v).pwr = s.pwr := rfl
@[simp] theorem State.rst_setEng (s : State) (e : EngId) (v : Engine) : (s.setEng e v).rst = s.rst := rfl
@[simp] theorem State.fuses_setEng (s : State) (e : EngId) (v : Engine) : (s.setEng e v).fuses = s.fuses := rfl
@[simp] theorem State.wlh_setEng (s : State) (e : EngId) (v : Engine) : (s.setEng e v).wlh = s.wlh := rfl
@[simp] theorem State.ledger_setEng (s : State) (e : EngId) (v : Engine) : (s.setEng e v).ledger = s.ledger := rfl
@[simp] theorem State.uart_setEng (s : State) (e : EngId) (v : Engine) : (s.setEng e v).uart = s.uart := rfl
@[simp] theorem State.pcie_setEng (s : State) (e : EngId) (v : Engine) : (s.setEng e v).pcie = s.pcie := rfl
@[simp] theorem State.sync_setEng (s : State) (e : EngId) (v : Engine) : (s.setEng e v).sync = s.sync := rfl
@[simp] theorem State.unreached_setEng (s : State) (e : EngId) (v : Engine) : (s.setEng e v).unreached = s.unreached := rfl

/-! ## setQp -/

@[simp] theorem State.now_setQp (s : State) (q : QpId) (v : Qp) : (s.setQp q v).now = s.now := rfl
@[simp] theorem State.fresh_setQp (s : State) (q : QpId) (v : Qp) : (s.setQp q v).fresh = s.fresh := rfl
@[simp] theorem State.pending_setQp (s : State) (q : QpId) (v : Qp) : (s.setQp q v).pending = s.pending := rfl
@[simp] theorem State.out_setQp (s : State) (q : QpId) (v : Qp) : (s.setQp q v).out = s.out := rfl
@[simp] theorem State.regs_setQp (s : State) (q : QpId) (v : Qp) : (s.setQp q v).regs = s.regs := rfl
@[simp] theorem State.cnt_setQp (s : State) (q : QpId) (v : Qp) : (s.setQp q v).cnt = s.cnt := rfl
@[simp] theorem State.shadow_setQp (s : State) (q : QpId) (v : Qp) : (s.setQp q v).shadow = s.shadow := rfl
@[simp] theorem State.mem_setQp (s : State) (q : QpId) (v : Qp) : (s.setQp q v).mem = s.mem := rfl
@[simp] theorem State.sram_setQp (s : State) (q : QpId) (v : Qp) : (s.setQp q v).sram = s.sram := rfl
@[simp] theorem State.sramBad_setQp (s : State) (q : QpId) (v : Qp) : (s.setQp q v).sramBad = s.sramBad := rfl
@[simp] theorem State.tiles_setQp (s : State) (q : QpId) (v : Qp) : (s.setQp q v).tiles = s.tiles := rfl
@[simp] theorem State.parts_setQp (s : State) (q : QpId) (v : Qp) : (s.setQp q v).parts = s.parts := rfl
@[simp] theorem State.movers_setQp (s : State) (q : QpId) (v : Qp) : (s.setQp q v).movers = s.movers := rfl
@[simp] theorem State.tenants_setQp (s : State) (q : QpId) (v : Qp) : (s.setQp q v).tenants = s.tenants := rfl
@[simp] theorem State.reqs_setQp (s : State) (q : QpId) (v : Qp) : (s.setQp q v).reqs = s.reqs := rfl
@[simp] theorem State.convs_setQp (s : State) (q : QpId) (v : Qp) : (s.setQp q v).convs = s.convs := rfl
@[simp] theorem State.tier_setQp (s : State) (q : QpId) (v : Qp) : (s.setQp q v).tier = s.tier := rfl
@[simp] theorem State.rrc_setQp (s : State) (q : QpId) (v : Qp) : (s.setQp q v).rrc = s.rrc := rfl
@[simp] theorem State.engines_setQp (s : State) (q : QpId) (v : Qp) : (s.setQp q v).engines = s.engines := rfl
@[simp] theorem State.regions_setQp (s : State) (q : QpId) (v : Qp) : (s.setQp q v).regions = s.regions := rfl
@[simp] theorem State.ports_setQp (s : State) (q : QpId) (v : Qp) : (s.setQp q v).ports = s.ports := rfl
@[simp] theorem State.finj_setQp (s : State) (q : QpId) (v : Qp) : (s.setQp q v).finj = s.finj := rfl
@[simp] theorem State.srch_setQp (s : State) (q : QpId) (v : Qp) : (s.setQp q v).srch = s.srch := rfl
@[simp] theorem State.units_setQp (s : State) (q : QpId) (v : Qp) : (s.setQp q v).units = s.units := rfl
@[simp] theorem State.digs_setQp (s : State) (q : QpId) (v : Qp) : (s.setQp q v).digs = s.digs := rfl
@[simp] theorem State.elog_setQp (s : State) (q : QpId) (v : Qp) : (s.setQp q v).elog = s.elog := rfl
@[simp] theorem State.qrm_setQp (s : State) (q : QpId) (v : Qp) : (s.setQp q v).qrm = s.qrm := rfl
@[simp] theorem State.pwr_setQp (s : State) (q : QpId) (v : Qp) : (s.setQp q v).pwr = s.pwr := rfl
@[simp] theorem State.rst_setQp (s : State) (q : QpId) (v : Qp) : (s.setQp q v).rst = s.rst := rfl
@[simp] theorem State.fuses_setQp (s : State) (q : QpId) (v : Qp) : (s.setQp q v).fuses = s.fuses := rfl
@[simp] theorem State.wlh_setQp (s : State) (q : QpId) (v : Qp) : (s.setQp q v).wlh = s.wlh := rfl
@[simp] theorem State.ledger_setQp (s : State) (q : QpId) (v : Qp) : (s.setQp q v).ledger = s.ledger := rfl
@[simp] theorem State.uart_setQp (s : State) (q : QpId) (v : Qp) : (s.setQp q v).uart = s.uart := rfl
@[simp] theorem State.pcie_setQp (s : State) (q : QpId) (v : Qp) : (s.setQp q v).pcie = s.pcie := rfl
@[simp] theorem State.sync_setQp (s : State) (q : QpId) (v : Qp) : (s.setQp q v).sync = s.sync := rfl
@[simp] theorem State.unreached_setQp (s : State) (q : QpId) (v : Qp) : (s.setQp q v).unreached = s.unreached := rfl

/-! ## setPort -/

@[simp] theorem State.now_setPort (s : State) (n : PortId) (v : Port) : (s.setPort n v).now = s.now := rfl
@[simp] theorem State.fresh_setPort (s : State) (n : PortId) (v : Port) : (s.setPort n v).fresh = s.fresh := rfl
@[simp] theorem State.pending_setPort (s : State) (n : PortId) (v : Port) : (s.setPort n v).pending = s.pending := rfl
@[simp] theorem State.out_setPort (s : State) (n : PortId) (v : Port) : (s.setPort n v).out = s.out := rfl
@[simp] theorem State.regs_setPort (s : State) (n : PortId) (v : Port) : (s.setPort n v).regs = s.regs := rfl
@[simp] theorem State.cnt_setPort (s : State) (n : PortId) (v : Port) : (s.setPort n v).cnt = s.cnt := rfl
@[simp] theorem State.shadow_setPort (s : State) (n : PortId) (v : Port) : (s.setPort n v).shadow = s.shadow := rfl
@[simp] theorem State.mem_setPort (s : State) (n : PortId) (v : Port) : (s.setPort n v).mem = s.mem := rfl
@[simp] theorem State.sram_setPort (s : State) (n : PortId) (v : Port) : (s.setPort n v).sram = s.sram := rfl
@[simp] theorem State.sramBad_setPort (s : State) (n : PortId) (v : Port) : (s.setPort n v).sramBad = s.sramBad := rfl
@[simp] theorem State.tiles_setPort (s : State) (n : PortId) (v : Port) : (s.setPort n v).tiles = s.tiles := rfl
@[simp] theorem State.parts_setPort (s : State) (n : PortId) (v : Port) : (s.setPort n v).parts = s.parts := rfl
@[simp] theorem State.movers_setPort (s : State) (n : PortId) (v : Port) : (s.setPort n v).movers = s.movers := rfl
@[simp] theorem State.tenants_setPort (s : State) (n : PortId) (v : Port) : (s.setPort n v).tenants = s.tenants := rfl
@[simp] theorem State.reqs_setPort (s : State) (n : PortId) (v : Port) : (s.setPort n v).reqs = s.reqs := rfl
@[simp] theorem State.convs_setPort (s : State) (n : PortId) (v : Port) : (s.setPort n v).convs = s.convs := rfl
@[simp] theorem State.tier_setPort (s : State) (n : PortId) (v : Port) : (s.setPort n v).tier = s.tier := rfl
@[simp] theorem State.rrc_setPort (s : State) (n : PortId) (v : Port) : (s.setPort n v).rrc = s.rrc := rfl
@[simp] theorem State.engines_setPort (s : State) (n : PortId) (v : Port) : (s.setPort n v).engines = s.engines := rfl
@[simp] theorem State.regions_setPort (s : State) (n : PortId) (v : Port) : (s.setPort n v).regions = s.regions := rfl
@[simp] theorem State.qps_setPort (s : State) (n : PortId) (v : Port) : (s.setPort n v).qps = s.qps := rfl
@[simp] theorem State.finj_setPort (s : State) (n : PortId) (v : Port) : (s.setPort n v).finj = s.finj := rfl
@[simp] theorem State.srch_setPort (s : State) (n : PortId) (v : Port) : (s.setPort n v).srch = s.srch := rfl
@[simp] theorem State.units_setPort (s : State) (n : PortId) (v : Port) : (s.setPort n v).units = s.units := rfl
@[simp] theorem State.digs_setPort (s : State) (n : PortId) (v : Port) : (s.setPort n v).digs = s.digs := rfl
@[simp] theorem State.elog_setPort (s : State) (n : PortId) (v : Port) : (s.setPort n v).elog = s.elog := rfl
@[simp] theorem State.qrm_setPort (s : State) (n : PortId) (v : Port) : (s.setPort n v).qrm = s.qrm := rfl
@[simp] theorem State.pwr_setPort (s : State) (n : PortId) (v : Port) : (s.setPort n v).pwr = s.pwr := rfl
@[simp] theorem State.rst_setPort (s : State) (n : PortId) (v : Port) : (s.setPort n v).rst = s.rst := rfl
@[simp] theorem State.fuses_setPort (s : State) (n : PortId) (v : Port) : (s.setPort n v).fuses = s.fuses := rfl
@[simp] theorem State.wlh_setPort (s : State) (n : PortId) (v : Port) : (s.setPort n v).wlh = s.wlh := rfl
@[simp] theorem State.ledger_setPort (s : State) (n : PortId) (v : Port) : (s.setPort n v).ledger = s.ledger := rfl
@[simp] theorem State.uart_setPort (s : State) (n : PortId) (v : Port) : (s.setPort n v).uart = s.uart := rfl
@[simp] theorem State.pcie_setPort (s : State) (n : PortId) (v : Port) : (s.setPort n v).pcie = s.pcie := rfl
@[simp] theorem State.sync_setPort (s : State) (n : PortId) (v : Port) : (s.setPort n v).sync = s.sync := rfl
@[simp] theorem State.unreached_setPort (s : State) (n : PortId) (v : Port) : (s.setPort n v).unreached = s.unreached := rfl

/-! ## setRgn -/

@[simp] theorem State.now_setRgn (s : State) (p : PartId) (i : Nat) (v : Region) : (s.setRgn p i v).now = s.now := rfl
@[simp] theorem State.fresh_setRgn (s : State) (p : PartId) (i : Nat) (v : Region) : (s.setRgn p i v).fresh = s.fresh := rfl
@[simp] theorem State.pending_setRgn (s : State) (p : PartId) (i : Nat) (v : Region) : (s.setRgn p i v).pending = s.pending := rfl
@[simp] theorem State.out_setRgn (s : State) (p : PartId) (i : Nat) (v : Region) : (s.setRgn p i v).out = s.out := rfl
@[simp] theorem State.regs_setRgn (s : State) (p : PartId) (i : Nat) (v : Region) : (s.setRgn p i v).regs = s.regs := rfl
@[simp] theorem State.cnt_setRgn (s : State) (p : PartId) (i : Nat) (v : Region) : (s.setRgn p i v).cnt = s.cnt := rfl
@[simp] theorem State.shadow_setRgn (s : State) (p : PartId) (i : Nat) (v : Region) : (s.setRgn p i v).shadow = s.shadow := rfl
@[simp] theorem State.mem_setRgn (s : State) (p : PartId) (i : Nat) (v : Region) : (s.setRgn p i v).mem = s.mem := rfl
@[simp] theorem State.sram_setRgn (s : State) (p : PartId) (i : Nat) (v : Region) : (s.setRgn p i v).sram = s.sram := rfl
@[simp] theorem State.sramBad_setRgn (s : State) (p : PartId) (i : Nat) (v : Region) : (s.setRgn p i v).sramBad = s.sramBad := rfl
@[simp] theorem State.tiles_setRgn (s : State) (p : PartId) (i : Nat) (v : Region) : (s.setRgn p i v).tiles = s.tiles := rfl
@[simp] theorem State.parts_setRgn (s : State) (p : PartId) (i : Nat) (v : Region) : (s.setRgn p i v).parts = s.parts := rfl
@[simp] theorem State.movers_setRgn (s : State) (p : PartId) (i : Nat) (v : Region) : (s.setRgn p i v).movers = s.movers := rfl
@[simp] theorem State.tenants_setRgn (s : State) (p : PartId) (i : Nat) (v : Region) : (s.setRgn p i v).tenants = s.tenants := rfl
@[simp] theorem State.reqs_setRgn (s : State) (p : PartId) (i : Nat) (v : Region) : (s.setRgn p i v).reqs = s.reqs := rfl
@[simp] theorem State.convs_setRgn (s : State) (p : PartId) (i : Nat) (v : Region) : (s.setRgn p i v).convs = s.convs := rfl
@[simp] theorem State.tier_setRgn (s : State) (p : PartId) (i : Nat) (v : Region) : (s.setRgn p i v).tier = s.tier := rfl
@[simp] theorem State.rrc_setRgn (s : State) (p : PartId) (i : Nat) (v : Region) : (s.setRgn p i v).rrc = s.rrc := rfl
@[simp] theorem State.engines_setRgn (s : State) (p : PartId) (i : Nat) (v : Region) : (s.setRgn p i v).engines = s.engines := rfl
@[simp] theorem State.qps_setRgn (s : State) (p : PartId) (i : Nat) (v : Region) : (s.setRgn p i v).qps = s.qps := rfl
@[simp] theorem State.ports_setRgn (s : State) (p : PartId) (i : Nat) (v : Region) : (s.setRgn p i v).ports = s.ports := rfl
@[simp] theorem State.finj_setRgn (s : State) (p : PartId) (i : Nat) (v : Region) : (s.setRgn p i v).finj = s.finj := rfl
@[simp] theorem State.srch_setRgn (s : State) (p : PartId) (i : Nat) (v : Region) : (s.setRgn p i v).srch = s.srch := rfl
@[simp] theorem State.units_setRgn (s : State) (p : PartId) (i : Nat) (v : Region) : (s.setRgn p i v).units = s.units := rfl
@[simp] theorem State.digs_setRgn (s : State) (p : PartId) (i : Nat) (v : Region) : (s.setRgn p i v).digs = s.digs := rfl
@[simp] theorem State.elog_setRgn (s : State) (p : PartId) (i : Nat) (v : Region) : (s.setRgn p i v).elog = s.elog := rfl
@[simp] theorem State.qrm_setRgn (s : State) (p : PartId) (i : Nat) (v : Region) : (s.setRgn p i v).qrm = s.qrm := rfl
@[simp] theorem State.pwr_setRgn (s : State) (p : PartId) (i : Nat) (v : Region) : (s.setRgn p i v).pwr = s.pwr := rfl
@[simp] theorem State.rst_setRgn (s : State) (p : PartId) (i : Nat) (v : Region) : (s.setRgn p i v).rst = s.rst := rfl
@[simp] theorem State.fuses_setRgn (s : State) (p : PartId) (i : Nat) (v : Region) : (s.setRgn p i v).fuses = s.fuses := rfl
@[simp] theorem State.wlh_setRgn (s : State) (p : PartId) (i : Nat) (v : Region) : (s.setRgn p i v).wlh = s.wlh := rfl
@[simp] theorem State.ledger_setRgn (s : State) (p : PartId) (i : Nat) (v : Region) : (s.setRgn p i v).ledger = s.ledger := rfl
@[simp] theorem State.uart_setRgn (s : State) (p : PartId) (i : Nat) (v : Region) : (s.setRgn p i v).uart = s.uart := rfl
@[simp] theorem State.pcie_setRgn (s : State) (p : PartId) (i : Nat) (v : Region) : (s.setRgn p i v).pcie = s.pcie := rfl
@[simp] theorem State.sync_setRgn (s : State) (p : PartId) (i : Nat) (v : Region) : (s.setRgn p i v).sync = s.sync := rfl
@[simp] theorem State.unreached_setRgn (s : State) (p : PartId) (i : Nat) (v : Region) : (s.setRgn p i v).unreached = s.unreached := rfl

/-! ## setTier -/

@[simp] theorem State.now_setTier (s : State) (t : Tier) : (s.setTier t).now = s.now := rfl
@[simp] theorem State.fresh_setTier (s : State) (t : Tier) : (s.setTier t).fresh = s.fresh := rfl
@[simp] theorem State.pending_setTier (s : State) (t : Tier) : (s.setTier t).pending = s.pending := rfl
@[simp] theorem State.out_setTier (s : State) (t : Tier) : (s.setTier t).out = s.out := rfl
@[simp] theorem State.regs_setTier (s : State) (t : Tier) : (s.setTier t).regs = s.regs := rfl
@[simp] theorem State.cnt_setTier (s : State) (t : Tier) : (s.setTier t).cnt = s.cnt := rfl
@[simp] theorem State.shadow_setTier (s : State) (t : Tier) : (s.setTier t).shadow = s.shadow := rfl
@[simp] theorem State.mem_setTier (s : State) (t : Tier) : (s.setTier t).mem = s.mem := rfl
@[simp] theorem State.sram_setTier (s : State) (t : Tier) : (s.setTier t).sram = s.sram := rfl
@[simp] theorem State.sramBad_setTier (s : State) (t : Tier) : (s.setTier t).sramBad = s.sramBad := rfl
@[simp] theorem State.tiles_setTier (s : State) (t : Tier) : (s.setTier t).tiles = s.tiles := rfl
@[simp] theorem State.parts_setTier (s : State) (t : Tier) : (s.setTier t).parts = s.parts := rfl
@[simp] theorem State.movers_setTier (s : State) (t : Tier) : (s.setTier t).movers = s.movers := rfl
@[simp] theorem State.tenants_setTier (s : State) (t : Tier) : (s.setTier t).tenants = s.tenants := rfl
@[simp] theorem State.reqs_setTier (s : State) (t : Tier) : (s.setTier t).reqs = s.reqs := rfl
@[simp] theorem State.convs_setTier (s : State) (t : Tier) : (s.setTier t).convs = s.convs := rfl
@[simp] theorem State.rrc_setTier (s : State) (t : Tier) : (s.setTier t).rrc = s.rrc := rfl
@[simp] theorem State.engines_setTier (s : State) (t : Tier) : (s.setTier t).engines = s.engines := rfl
@[simp] theorem State.regions_setTier (s : State) (t : Tier) : (s.setTier t).regions = s.regions := rfl
@[simp] theorem State.qps_setTier (s : State) (t : Tier) : (s.setTier t).qps = s.qps := rfl
@[simp] theorem State.ports_setTier (s : State) (t : Tier) : (s.setTier t).ports = s.ports := rfl
@[simp] theorem State.finj_setTier (s : State) (t : Tier) : (s.setTier t).finj = s.finj := rfl
@[simp] theorem State.srch_setTier (s : State) (t : Tier) : (s.setTier t).srch = s.srch := rfl
@[simp] theorem State.units_setTier (s : State) (t : Tier) : (s.setTier t).units = s.units := rfl
@[simp] theorem State.digs_setTier (s : State) (t : Tier) : (s.setTier t).digs = s.digs := rfl
@[simp] theorem State.elog_setTier (s : State) (t : Tier) : (s.setTier t).elog = s.elog := rfl
@[simp] theorem State.qrm_setTier (s : State) (t : Tier) : (s.setTier t).qrm = s.qrm := rfl
@[simp] theorem State.pwr_setTier (s : State) (t : Tier) : (s.setTier t).pwr = s.pwr := rfl
@[simp] theorem State.rst_setTier (s : State) (t : Tier) : (s.setTier t).rst = s.rst := rfl
@[simp] theorem State.fuses_setTier (s : State) (t : Tier) : (s.setTier t).fuses = s.fuses := rfl
@[simp] theorem State.wlh_setTier (s : State) (t : Tier) : (s.setTier t).wlh = s.wlh := rfl
@[simp] theorem State.ledger_setTier (s : State) (t : Tier) : (s.setTier t).ledger = s.ledger := rfl
@[simp] theorem State.uart_setTier (s : State) (t : Tier) : (s.setTier t).uart = s.uart := rfl
@[simp] theorem State.pcie_setTier (s : State) (t : Tier) : (s.setTier t).pcie = s.pcie := rfl
@[simp] theorem State.sync_setTier (s : State) (t : Tier) : (s.setTier t).sync = s.sync := rfl
@[simp] theorem State.unreached_setTier (s : State) (t : Tier) : (s.setTier t).unreached = s.unreached := rfl

/-! ## setDig -/

@[simp] theorem State.now_setDig (s : State) (k : Nat) (v : DigRegion) : (s.setDig k v).now = s.now := rfl
@[simp] theorem State.fresh_setDig (s : State) (k : Nat) (v : DigRegion) : (s.setDig k v).fresh = s.fresh := rfl
@[simp] theorem State.pending_setDig (s : State) (k : Nat) (v : DigRegion) : (s.setDig k v).pending = s.pending := rfl
@[simp] theorem State.out_setDig (s : State) (k : Nat) (v : DigRegion) : (s.setDig k v).out = s.out := rfl
@[simp] theorem State.regs_setDig (s : State) (k : Nat) (v : DigRegion) : (s.setDig k v).regs = s.regs := rfl
@[simp] theorem State.cnt_setDig (s : State) (k : Nat) (v : DigRegion) : (s.setDig k v).cnt = s.cnt := rfl
@[simp] theorem State.shadow_setDig (s : State) (k : Nat) (v : DigRegion) : (s.setDig k v).shadow = s.shadow := rfl
@[simp] theorem State.mem_setDig (s : State) (k : Nat) (v : DigRegion) : (s.setDig k v).mem = s.mem := rfl
@[simp] theorem State.sram_setDig (s : State) (k : Nat) (v : DigRegion) : (s.setDig k v).sram = s.sram := rfl
@[simp] theorem State.sramBad_setDig (s : State) (k : Nat) (v : DigRegion) : (s.setDig k v).sramBad = s.sramBad := rfl
@[simp] theorem State.tiles_setDig (s : State) (k : Nat) (v : DigRegion) : (s.setDig k v).tiles = s.tiles := rfl
@[simp] theorem State.parts_setDig (s : State) (k : Nat) (v : DigRegion) : (s.setDig k v).parts = s.parts := rfl
@[simp] theorem State.movers_setDig (s : State) (k : Nat) (v : DigRegion) : (s.setDig k v).movers = s.movers := rfl
@[simp] theorem State.tenants_setDig (s : State) (k : Nat) (v : DigRegion) : (s.setDig k v).tenants = s.tenants := rfl
@[simp] theorem State.reqs_setDig (s : State) (k : Nat) (v : DigRegion) : (s.setDig k v).reqs = s.reqs := rfl
@[simp] theorem State.convs_setDig (s : State) (k : Nat) (v : DigRegion) : (s.setDig k v).convs = s.convs := rfl
@[simp] theorem State.tier_setDig (s : State) (k : Nat) (v : DigRegion) : (s.setDig k v).tier = s.tier := rfl
@[simp] theorem State.rrc_setDig (s : State) (k : Nat) (v : DigRegion) : (s.setDig k v).rrc = s.rrc := rfl
@[simp] theorem State.engines_setDig (s : State) (k : Nat) (v : DigRegion) : (s.setDig k v).engines = s.engines := rfl
@[simp] theorem State.regions_setDig (s : State) (k : Nat) (v : DigRegion) : (s.setDig k v).regions = s.regions := rfl
@[simp] theorem State.qps_setDig (s : State) (k : Nat) (v : DigRegion) : (s.setDig k v).qps = s.qps := rfl
@[simp] theorem State.ports_setDig (s : State) (k : Nat) (v : DigRegion) : (s.setDig k v).ports = s.ports := rfl
@[simp] theorem State.finj_setDig (s : State) (k : Nat) (v : DigRegion) : (s.setDig k v).finj = s.finj := rfl
@[simp] theorem State.srch_setDig (s : State) (k : Nat) (v : DigRegion) : (s.setDig k v).srch = s.srch := rfl
@[simp] theorem State.units_setDig (s : State) (k : Nat) (v : DigRegion) : (s.setDig k v).units = s.units := rfl
@[simp] theorem State.elog_setDig (s : State) (k : Nat) (v : DigRegion) : (s.setDig k v).elog = s.elog := rfl
@[simp] theorem State.qrm_setDig (s : State) (k : Nat) (v : DigRegion) : (s.setDig k v).qrm = s.qrm := rfl
@[simp] theorem State.pwr_setDig (s : State) (k : Nat) (v : DigRegion) : (s.setDig k v).pwr = s.pwr := rfl
@[simp] theorem State.rst_setDig (s : State) (k : Nat) (v : DigRegion) : (s.setDig k v).rst = s.rst := rfl
@[simp] theorem State.fuses_setDig (s : State) (k : Nat) (v : DigRegion) : (s.setDig k v).fuses = s.fuses := rfl
@[simp] theorem State.wlh_setDig (s : State) (k : Nat) (v : DigRegion) : (s.setDig k v).wlh = s.wlh := rfl
@[simp] theorem State.ledger_setDig (s : State) (k : Nat) (v : DigRegion) : (s.setDig k v).ledger = s.ledger := rfl
@[simp] theorem State.uart_setDig (s : State) (k : Nat) (v : DigRegion) : (s.setDig k v).uart = s.uart := rfl
@[simp] theorem State.pcie_setDig (s : State) (k : Nat) (v : DigRegion) : (s.setDig k v).pcie = s.pcie := rfl
@[simp] theorem State.sync_setDig (s : State) (k : Nat) (v : DigRegion) : (s.setDig k v).sync = s.sync := rfl
@[simp] theorem State.unreached_setDig (s : State) (k : Nat) (v : DigRegion) : (s.setDig k v).unreached = s.unreached := rfl

/-! ## clearPage -/

@[simp] theorem State.now_clearPage (s : State) (pg : Page) : (s.clearPage pg).now = s.now := rfl
@[simp] theorem State.fresh_clearPage (s : State) (pg : Page) : (s.clearPage pg).fresh = s.fresh := rfl
@[simp] theorem State.pending_clearPage (s : State) (pg : Page) : (s.clearPage pg).pending = s.pending := rfl
@[simp] theorem State.out_clearPage (s : State) (pg : Page) : (s.clearPage pg).out = s.out := rfl
@[simp] theorem State.regs_clearPage (s : State) (pg : Page) : (s.clearPage pg).regs = s.regs := rfl
@[simp] theorem State.shadow_clearPage (s : State) (pg : Page) : (s.clearPage pg).shadow = s.shadow := rfl
@[simp] theorem State.mem_clearPage (s : State) (pg : Page) : (s.clearPage pg).mem = s.mem := rfl
@[simp] theorem State.sram_clearPage (s : State) (pg : Page) : (s.clearPage pg).sram = s.sram := rfl
@[simp] theorem State.sramBad_clearPage (s : State) (pg : Page) : (s.clearPage pg).sramBad = s.sramBad := rfl
@[simp] theorem State.tiles_clearPage (s : State) (pg : Page) : (s.clearPage pg).tiles = s.tiles := rfl
@[simp] theorem State.parts_clearPage (s : State) (pg : Page) : (s.clearPage pg).parts = s.parts := rfl
@[simp] theorem State.movers_clearPage (s : State) (pg : Page) : (s.clearPage pg).movers = s.movers := rfl
@[simp] theorem State.tenants_clearPage (s : State) (pg : Page) : (s.clearPage pg).tenants = s.tenants := rfl
@[simp] theorem State.reqs_clearPage (s : State) (pg : Page) : (s.clearPage pg).reqs = s.reqs := rfl
@[simp] theorem State.convs_clearPage (s : State) (pg : Page) : (s.clearPage pg).convs = s.convs := rfl
@[simp] theorem State.tier_clearPage (s : State) (pg : Page) : (s.clearPage pg).tier = s.tier := rfl
@[simp] theorem State.rrc_clearPage (s : State) (pg : Page) : (s.clearPage pg).rrc = s.rrc := rfl
@[simp] theorem State.engines_clearPage (s : State) (pg : Page) : (s.clearPage pg).engines = s.engines := rfl
@[simp] theorem State.regions_clearPage (s : State) (pg : Page) : (s.clearPage pg).regions = s.regions := rfl
@[simp] theorem State.qps_clearPage (s : State) (pg : Page) : (s.clearPage pg).qps = s.qps := rfl
@[simp] theorem State.ports_clearPage (s : State) (pg : Page) : (s.clearPage pg).ports = s.ports := rfl
@[simp] theorem State.finj_clearPage (s : State) (pg : Page) : (s.clearPage pg).finj = s.finj := rfl
@[simp] theorem State.srch_clearPage (s : State) (pg : Page) : (s.clearPage pg).srch = s.srch := rfl
@[simp] theorem State.units_clearPage (s : State) (pg : Page) : (s.clearPage pg).units = s.units := rfl
@[simp] theorem State.digs_clearPage (s : State) (pg : Page) : (s.clearPage pg).digs = s.digs := rfl
@[simp] theorem State.elog_clearPage (s : State) (pg : Page) : (s.clearPage pg).elog = s.elog := rfl
@[simp] theorem State.qrm_clearPage (s : State) (pg : Page) : (s.clearPage pg).qrm = s.qrm := rfl
@[simp] theorem State.pwr_clearPage (s : State) (pg : Page) : (s.clearPage pg).pwr = s.pwr := rfl
@[simp] theorem State.rst_clearPage (s : State) (pg : Page) : (s.clearPage pg).rst = s.rst := rfl
@[simp] theorem State.fuses_clearPage (s : State) (pg : Page) : (s.clearPage pg).fuses = s.fuses := rfl
@[simp] theorem State.wlh_clearPage (s : State) (pg : Page) : (s.clearPage pg).wlh = s.wlh := rfl
@[simp] theorem State.ledger_clearPage (s : State) (pg : Page) : (s.clearPage pg).ledger = s.ledger := rfl
@[simp] theorem State.uart_clearPage (s : State) (pg : Page) : (s.clearPage pg).uart = s.uart := rfl
@[simp] theorem State.pcie_clearPage (s : State) (pg : Page) : (s.clearPage pg).pcie = s.pcie := rfl
@[simp] theorem State.sync_clearPage (s : State) (pg : Page) : (s.clearPage pg).sync = s.sync := rfl
@[simp] theorem State.unreached_clearPage (s : State) (pg : Page) : (s.clearPage pg).unreached = s.unreached := rfl

/-! ## count -/

@[simp] theorem State.now_count (s : State) (pg : Page) (o n : Nat) : (s.count pg o n).now = s.now := rfl
@[simp] theorem State.fresh_count (s : State) (pg : Page) (o n : Nat) : (s.count pg o n).fresh = s.fresh := rfl
@[simp] theorem State.pending_count (s : State) (pg : Page) (o n : Nat) : (s.count pg o n).pending = s.pending := rfl
@[simp] theorem State.out_count (s : State) (pg : Page) (o n : Nat) : (s.count pg o n).out = s.out := rfl
@[simp] theorem State.regs_count (s : State) (pg : Page) (o n : Nat) : (s.count pg o n).regs = s.regs := rfl
@[simp] theorem State.shadow_count (s : State) (pg : Page) (o n : Nat) : (s.count pg o n).shadow = s.shadow := rfl
@[simp] theorem State.mem_count (s : State) (pg : Page) (o n : Nat) : (s.count pg o n).mem = s.mem := rfl
@[simp] theorem State.sram_count (s : State) (pg : Page) (o n : Nat) : (s.count pg o n).sram = s.sram := rfl
@[simp] theorem State.sramBad_count (s : State) (pg : Page) (o n : Nat) : (s.count pg o n).sramBad = s.sramBad := rfl
@[simp] theorem State.tiles_count (s : State) (pg : Page) (o n : Nat) : (s.count pg o n).tiles = s.tiles := rfl
@[simp] theorem State.parts_count (s : State) (pg : Page) (o n : Nat) : (s.count pg o n).parts = s.parts := rfl
@[simp] theorem State.movers_count (s : State) (pg : Page) (o n : Nat) : (s.count pg o n).movers = s.movers := rfl
@[simp] theorem State.tenants_count (s : State) (pg : Page) (o n : Nat) : (s.count pg o n).tenants = s.tenants := rfl
@[simp] theorem State.reqs_count (s : State) (pg : Page) (o n : Nat) : (s.count pg o n).reqs = s.reqs := rfl
@[simp] theorem State.convs_count (s : State) (pg : Page) (o n : Nat) : (s.count pg o n).convs = s.convs := rfl
@[simp] theorem State.tier_count (s : State) (pg : Page) (o n : Nat) : (s.count pg o n).tier = s.tier := rfl
@[simp] theorem State.rrc_count (s : State) (pg : Page) (o n : Nat) : (s.count pg o n).rrc = s.rrc := rfl
@[simp] theorem State.engines_count (s : State) (pg : Page) (o n : Nat) : (s.count pg o n).engines = s.engines := rfl
@[simp] theorem State.regions_count (s : State) (pg : Page) (o n : Nat) : (s.count pg o n).regions = s.regions := rfl
@[simp] theorem State.qps_count (s : State) (pg : Page) (o n : Nat) : (s.count pg o n).qps = s.qps := rfl
@[simp] theorem State.ports_count (s : State) (pg : Page) (o n : Nat) : (s.count pg o n).ports = s.ports := rfl
@[simp] theorem State.finj_count (s : State) (pg : Page) (o n : Nat) : (s.count pg o n).finj = s.finj := rfl
@[simp] theorem State.srch_count (s : State) (pg : Page) (o n : Nat) : (s.count pg o n).srch = s.srch := rfl
@[simp] theorem State.units_count (s : State) (pg : Page) (o n : Nat) : (s.count pg o n).units = s.units := rfl
@[simp] theorem State.digs_count (s : State) (pg : Page) (o n : Nat) : (s.count pg o n).digs = s.digs := rfl
@[simp] theorem State.elog_count (s : State) (pg : Page) (o n : Nat) : (s.count pg o n).elog = s.elog := rfl
@[simp] theorem State.qrm_count (s : State) (pg : Page) (o n : Nat) : (s.count pg o n).qrm = s.qrm := rfl
@[simp] theorem State.pwr_count (s : State) (pg : Page) (o n : Nat) : (s.count pg o n).pwr = s.pwr := rfl
@[simp] theorem State.rst_count (s : State) (pg : Page) (o n : Nat) : (s.count pg o n).rst = s.rst := rfl
@[simp] theorem State.fuses_count (s : State) (pg : Page) (o n : Nat) : (s.count pg o n).fuses = s.fuses := rfl
@[simp] theorem State.wlh_count (s : State) (pg : Page) (o n : Nat) : (s.count pg o n).wlh = s.wlh := rfl
@[simp] theorem State.ledger_count (s : State) (pg : Page) (o n : Nat) : (s.count pg o n).ledger = s.ledger := rfl
@[simp] theorem State.uart_count (s : State) (pg : Page) (o n : Nat) : (s.count pg o n).uart = s.uart := rfl
@[simp] theorem State.pcie_count (s : State) (pg : Page) (o n : Nat) : (s.count pg o n).pcie = s.pcie := rfl
@[simp] theorem State.sync_count (s : State) (pg : Page) (o n : Nat) : (s.count pg o n).sync = s.sync := rfl
@[simp] theorem State.unreached_count (s : State) (pg : Page) (o n : Nat) : (s.count pg o n).unreached = s.unreached := rfl

/-! ## updReq -/

@[simp] theorem State.now_updReq (s : State) (i : Nat) (f : Req → Req) : (s.updReq i f).now = s.now := rfl
@[simp] theorem State.fresh_updReq (s : State) (i : Nat) (f : Req → Req) : (s.updReq i f).fresh = s.fresh := rfl
@[simp] theorem State.pending_updReq (s : State) (i : Nat) (f : Req → Req) : (s.updReq i f).pending = s.pending := rfl
@[simp] theorem State.out_updReq (s : State) (i : Nat) (f : Req → Req) : (s.updReq i f).out = s.out := rfl
@[simp] theorem State.regs_updReq (s : State) (i : Nat) (f : Req → Req) : (s.updReq i f).regs = s.regs := rfl
@[simp] theorem State.cnt_updReq (s : State) (i : Nat) (f : Req → Req) : (s.updReq i f).cnt = s.cnt := rfl
@[simp] theorem State.shadow_updReq (s : State) (i : Nat) (f : Req → Req) : (s.updReq i f).shadow = s.shadow := rfl
@[simp] theorem State.mem_updReq (s : State) (i : Nat) (f : Req → Req) : (s.updReq i f).mem = s.mem := rfl
@[simp] theorem State.sram_updReq (s : State) (i : Nat) (f : Req → Req) : (s.updReq i f).sram = s.sram := rfl
@[simp] theorem State.sramBad_updReq (s : State) (i : Nat) (f : Req → Req) : (s.updReq i f).sramBad = s.sramBad := rfl
@[simp] theorem State.tiles_updReq (s : State) (i : Nat) (f : Req → Req) : (s.updReq i f).tiles = s.tiles := rfl
@[simp] theorem State.parts_updReq (s : State) (i : Nat) (f : Req → Req) : (s.updReq i f).parts = s.parts := rfl
@[simp] theorem State.movers_updReq (s : State) (i : Nat) (f : Req → Req) : (s.updReq i f).movers = s.movers := rfl
@[simp] theorem State.tenants_updReq (s : State) (i : Nat) (f : Req → Req) : (s.updReq i f).tenants = s.tenants := rfl
@[simp] theorem State.convs_updReq (s : State) (i : Nat) (f : Req → Req) : (s.updReq i f).convs = s.convs := rfl
@[simp] theorem State.tier_updReq (s : State) (i : Nat) (f : Req → Req) : (s.updReq i f).tier = s.tier := rfl
@[simp] theorem State.rrc_updReq (s : State) (i : Nat) (f : Req → Req) : (s.updReq i f).rrc = s.rrc := rfl
@[simp] theorem State.engines_updReq (s : State) (i : Nat) (f : Req → Req) : (s.updReq i f).engines = s.engines := rfl
@[simp] theorem State.regions_updReq (s : State) (i : Nat) (f : Req → Req) : (s.updReq i f).regions = s.regions := rfl
@[simp] theorem State.qps_updReq (s : State) (i : Nat) (f : Req → Req) : (s.updReq i f).qps = s.qps := rfl
@[simp] theorem State.ports_updReq (s : State) (i : Nat) (f : Req → Req) : (s.updReq i f).ports = s.ports := rfl
@[simp] theorem State.finj_updReq (s : State) (i : Nat) (f : Req → Req) : (s.updReq i f).finj = s.finj := rfl
@[simp] theorem State.srch_updReq (s : State) (i : Nat) (f : Req → Req) : (s.updReq i f).srch = s.srch := rfl
@[simp] theorem State.units_updReq (s : State) (i : Nat) (f : Req → Req) : (s.updReq i f).units = s.units := rfl
@[simp] theorem State.digs_updReq (s : State) (i : Nat) (f : Req → Req) : (s.updReq i f).digs = s.digs := rfl
@[simp] theorem State.elog_updReq (s : State) (i : Nat) (f : Req → Req) : (s.updReq i f).elog = s.elog := rfl
@[simp] theorem State.qrm_updReq (s : State) (i : Nat) (f : Req → Req) : (s.updReq i f).qrm = s.qrm := rfl
@[simp] theorem State.pwr_updReq (s : State) (i : Nat) (f : Req → Req) : (s.updReq i f).pwr = s.pwr := rfl
@[simp] theorem State.rst_updReq (s : State) (i : Nat) (f : Req → Req) : (s.updReq i f).rst = s.rst := rfl
@[simp] theorem State.fuses_updReq (s : State) (i : Nat) (f : Req → Req) : (s.updReq i f).fuses = s.fuses := rfl
@[simp] theorem State.wlh_updReq (s : State) (i : Nat) (f : Req → Req) : (s.updReq i f).wlh = s.wlh := rfl
@[simp] theorem State.ledger_updReq (s : State) (i : Nat) (f : Req → Req) : (s.updReq i f).ledger = s.ledger := rfl
@[simp] theorem State.uart_updReq (s : State) (i : Nat) (f : Req → Req) : (s.updReq i f).uart = s.uart := rfl
@[simp] theorem State.pcie_updReq (s : State) (i : Nat) (f : Req → Req) : (s.updReq i f).pcie = s.pcie := rfl
@[simp] theorem State.sync_updReq (s : State) (i : Nat) (f : Req → Req) : (s.updReq i f).sync = s.sync := rfl
@[simp] theorem State.unreached_updReq (s : State) (i : Nat) (f : Req → Req) : (s.updReq i f).unreached = s.unreached := rfl

/-! ## dropReq -/

@[simp] theorem State.now_dropReq (s : State) (i : Nat) : (s.dropReq i).now = s.now := rfl
@[simp] theorem State.fresh_dropReq (s : State) (i : Nat) : (s.dropReq i).fresh = s.fresh := rfl
@[simp] theorem State.pending_dropReq (s : State) (i : Nat) : (s.dropReq i).pending = s.pending := rfl
@[simp] theorem State.out_dropReq (s : State) (i : Nat) : (s.dropReq i).out = s.out := rfl
@[simp] theorem State.regs_dropReq (s : State) (i : Nat) : (s.dropReq i).regs = s.regs := rfl
@[simp] theorem State.cnt_dropReq (s : State) (i : Nat) : (s.dropReq i).cnt = s.cnt := rfl
@[simp] theorem State.shadow_dropReq (s : State) (i : Nat) : (s.dropReq i).shadow = s.shadow := rfl
@[simp] theorem State.mem_dropReq (s : State) (i : Nat) : (s.dropReq i).mem = s.mem := rfl
@[simp] theorem State.sram_dropReq (s : State) (i : Nat) : (s.dropReq i).sram = s.sram := rfl
@[simp] theorem State.sramBad_dropReq (s : State) (i : Nat) : (s.dropReq i).sramBad = s.sramBad := rfl
@[simp] theorem State.tiles_dropReq (s : State) (i : Nat) : (s.dropReq i).tiles = s.tiles := rfl
@[simp] theorem State.parts_dropReq (s : State) (i : Nat) : (s.dropReq i).parts = s.parts := rfl
@[simp] theorem State.movers_dropReq (s : State) (i : Nat) : (s.dropReq i).movers = s.movers := rfl
@[simp] theorem State.tenants_dropReq (s : State) (i : Nat) : (s.dropReq i).tenants = s.tenants := rfl
@[simp] theorem State.convs_dropReq (s : State) (i : Nat) : (s.dropReq i).convs = s.convs := rfl
@[simp] theorem State.tier_dropReq (s : State) (i : Nat) : (s.dropReq i).tier = s.tier := rfl
@[simp] theorem State.rrc_dropReq (s : State) (i : Nat) : (s.dropReq i).rrc = s.rrc := rfl
@[simp] theorem State.engines_dropReq (s : State) (i : Nat) : (s.dropReq i).engines = s.engines := rfl
@[simp] theorem State.regions_dropReq (s : State) (i : Nat) : (s.dropReq i).regions = s.regions := rfl
@[simp] theorem State.qps_dropReq (s : State) (i : Nat) : (s.dropReq i).qps = s.qps := rfl
@[simp] theorem State.ports_dropReq (s : State) (i : Nat) : (s.dropReq i).ports = s.ports := rfl
@[simp] theorem State.finj_dropReq (s : State) (i : Nat) : (s.dropReq i).finj = s.finj := rfl
@[simp] theorem State.srch_dropReq (s : State) (i : Nat) : (s.dropReq i).srch = s.srch := rfl
@[simp] theorem State.units_dropReq (s : State) (i : Nat) : (s.dropReq i).units = s.units := rfl
@[simp] theorem State.digs_dropReq (s : State) (i : Nat) : (s.dropReq i).digs = s.digs := rfl
@[simp] theorem State.elog_dropReq (s : State) (i : Nat) : (s.dropReq i).elog = s.elog := rfl
@[simp] theorem State.qrm_dropReq (s : State) (i : Nat) : (s.dropReq i).qrm = s.qrm := rfl
@[simp] theorem State.pwr_dropReq (s : State) (i : Nat) : (s.dropReq i).pwr = s.pwr := rfl
@[simp] theorem State.rst_dropReq (s : State) (i : Nat) : (s.dropReq i).rst = s.rst := rfl
@[simp] theorem State.fuses_dropReq (s : State) (i : Nat) : (s.dropReq i).fuses = s.fuses := rfl
@[simp] theorem State.wlh_dropReq (s : State) (i : Nat) : (s.dropReq i).wlh = s.wlh := rfl
@[simp] theorem State.ledger_dropReq (s : State) (i : Nat) : (s.dropReq i).ledger = s.ledger := rfl
@[simp] theorem State.uart_dropReq (s : State) (i : Nat) : (s.dropReq i).uart = s.uart := rfl
@[simp] theorem State.pcie_dropReq (s : State) (i : Nat) : (s.dropReq i).pcie = s.pcie := rfl
@[simp] theorem State.sync_dropReq (s : State) (i : Nat) : (s.dropReq i).sync = s.sync := rfl
@[simp] theorem State.unreached_dropReq (s : State) (i : Nat) : (s.dropReq i).unreached = s.unreached := rfl

/-! ## dropConv -/

@[simp] theorem State.now_dropConv (s : State) (n : TenId) (c : Nat) : (s.dropConv n c).now = s.now := rfl
@[simp] theorem State.fresh_dropConv (s : State) (n : TenId) (c : Nat) : (s.dropConv n c).fresh = s.fresh := rfl
@[simp] theorem State.pending_dropConv (s : State) (n : TenId) (c : Nat) : (s.dropConv n c).pending = s.pending := rfl
@[simp] theorem State.out_dropConv (s : State) (n : TenId) (c : Nat) : (s.dropConv n c).out = s.out := rfl
@[simp] theorem State.regs_dropConv (s : State) (n : TenId) (c : Nat) : (s.dropConv n c).regs = s.regs := rfl
@[simp] theorem State.cnt_dropConv (s : State) (n : TenId) (c : Nat) : (s.dropConv n c).cnt = s.cnt := rfl
@[simp] theorem State.shadow_dropConv (s : State) (n : TenId) (c : Nat) : (s.dropConv n c).shadow = s.shadow := rfl
@[simp] theorem State.mem_dropConv (s : State) (n : TenId) (c : Nat) : (s.dropConv n c).mem = s.mem := rfl
@[simp] theorem State.sram_dropConv (s : State) (n : TenId) (c : Nat) : (s.dropConv n c).sram = s.sram := rfl
@[simp] theorem State.sramBad_dropConv (s : State) (n : TenId) (c : Nat) : (s.dropConv n c).sramBad = s.sramBad := rfl
@[simp] theorem State.tiles_dropConv (s : State) (n : TenId) (c : Nat) : (s.dropConv n c).tiles = s.tiles := rfl
@[simp] theorem State.parts_dropConv (s : State) (n : TenId) (c : Nat) : (s.dropConv n c).parts = s.parts := rfl
@[simp] theorem State.movers_dropConv (s : State) (n : TenId) (c : Nat) : (s.dropConv n c).movers = s.movers := rfl
@[simp] theorem State.tenants_dropConv (s : State) (n : TenId) (c : Nat) : (s.dropConv n c).tenants = s.tenants := rfl
@[simp] theorem State.reqs_dropConv (s : State) (n : TenId) (c : Nat) : (s.dropConv n c).reqs = s.reqs := rfl
@[simp] theorem State.tier_dropConv (s : State) (n : TenId) (c : Nat) : (s.dropConv n c).tier = s.tier := rfl
@[simp] theorem State.rrc_dropConv (s : State) (n : TenId) (c : Nat) : (s.dropConv n c).rrc = s.rrc := rfl
@[simp] theorem State.engines_dropConv (s : State) (n : TenId) (c : Nat) : (s.dropConv n c).engines = s.engines := rfl
@[simp] theorem State.regions_dropConv (s : State) (n : TenId) (c : Nat) : (s.dropConv n c).regions = s.regions := rfl
@[simp] theorem State.qps_dropConv (s : State) (n : TenId) (c : Nat) : (s.dropConv n c).qps = s.qps := rfl
@[simp] theorem State.ports_dropConv (s : State) (n : TenId) (c : Nat) : (s.dropConv n c).ports = s.ports := rfl
@[simp] theorem State.finj_dropConv (s : State) (n : TenId) (c : Nat) : (s.dropConv n c).finj = s.finj := rfl
@[simp] theorem State.srch_dropConv (s : State) (n : TenId) (c : Nat) : (s.dropConv n c).srch = s.srch := rfl
@[simp] theorem State.units_dropConv (s : State) (n : TenId) (c : Nat) : (s.dropConv n c).units = s.units := rfl
@[simp] theorem State.digs_dropConv (s : State) (n : TenId) (c : Nat) : (s.dropConv n c).digs = s.digs := rfl
@[simp] theorem State.elog_dropConv (s : State) (n : TenId) (c : Nat) : (s.dropConv n c).elog = s.elog := rfl
@[simp] theorem State.qrm_dropConv (s : State) (n : TenId) (c : Nat) : (s.dropConv n c).qrm = s.qrm := rfl
@[simp] theorem State.pwr_dropConv (s : State) (n : TenId) (c : Nat) : (s.dropConv n c).pwr = s.pwr := rfl
@[simp] theorem State.rst_dropConv (s : State) (n : TenId) (c : Nat) : (s.dropConv n c).rst = s.rst := rfl
@[simp] theorem State.fuses_dropConv (s : State) (n : TenId) (c : Nat) : (s.dropConv n c).fuses = s.fuses := rfl
@[simp] theorem State.wlh_dropConv (s : State) (n : TenId) (c : Nat) : (s.dropConv n c).wlh = s.wlh := rfl
@[simp] theorem State.ledger_dropConv (s : State) (n : TenId) (c : Nat) : (s.dropConv n c).ledger = s.ledger := rfl
@[simp] theorem State.uart_dropConv (s : State) (n : TenId) (c : Nat) : (s.dropConv n c).uart = s.uart := rfl
@[simp] theorem State.pcie_dropConv (s : State) (n : TenId) (c : Nat) : (s.dropConv n c).pcie = s.pcie := rfl
@[simp] theorem State.sync_dropConv (s : State) (n : TenId) (c : Nat) : (s.dropConv n c).sync = s.sync := rfl
@[simp] theorem State.unreached_dropConv (s : State) (n : TenId) (c : Nat) : (s.dropConv n c).unreached = s.unreached := rfl

/-! ## setConv -/

@[simp] theorem State.now_setConv (s : State) (v : Conv) : (s.setConv v).now = s.now := rfl
@[simp] theorem State.fresh_setConv (s : State) (v : Conv) : (s.setConv v).fresh = s.fresh := rfl
@[simp] theorem State.pending_setConv (s : State) (v : Conv) : (s.setConv v).pending = s.pending := rfl
@[simp] theorem State.out_setConv (s : State) (v : Conv) : (s.setConv v).out = s.out := rfl
@[simp] theorem State.regs_setConv (s : State) (v : Conv) : (s.setConv v).regs = s.regs := rfl
@[simp] theorem State.cnt_setConv (s : State) (v : Conv) : (s.setConv v).cnt = s.cnt := rfl
@[simp] theorem State.shadow_setConv (s : State) (v : Conv) : (s.setConv v).shadow = s.shadow := rfl
@[simp] theorem State.mem_setConv (s : State) (v : Conv) : (s.setConv v).mem = s.mem := rfl
@[simp] theorem State.sram_setConv (s : State) (v : Conv) : (s.setConv v).sram = s.sram := rfl
@[simp] theorem State.sramBad_setConv (s : State) (v : Conv) : (s.setConv v).sramBad = s.sramBad := rfl
@[simp] theorem State.tiles_setConv (s : State) (v : Conv) : (s.setConv v).tiles = s.tiles := rfl
@[simp] theorem State.parts_setConv (s : State) (v : Conv) : (s.setConv v).parts = s.parts := rfl
@[simp] theorem State.movers_setConv (s : State) (v : Conv) : (s.setConv v).movers = s.movers := rfl
@[simp] theorem State.tenants_setConv (s : State) (v : Conv) : (s.setConv v).tenants = s.tenants := rfl
@[simp] theorem State.reqs_setConv (s : State) (v : Conv) : (s.setConv v).reqs = s.reqs := rfl
@[simp] theorem State.tier_setConv (s : State) (v : Conv) : (s.setConv v).tier = s.tier := rfl
@[simp] theorem State.rrc_setConv (s : State) (v : Conv) : (s.setConv v).rrc = s.rrc := rfl
@[simp] theorem State.engines_setConv (s : State) (v : Conv) : (s.setConv v).engines = s.engines := rfl
@[simp] theorem State.regions_setConv (s : State) (v : Conv) : (s.setConv v).regions = s.regions := rfl
@[simp] theorem State.qps_setConv (s : State) (v : Conv) : (s.setConv v).qps = s.qps := rfl
@[simp] theorem State.ports_setConv (s : State) (v : Conv) : (s.setConv v).ports = s.ports := rfl
@[simp] theorem State.finj_setConv (s : State) (v : Conv) : (s.setConv v).finj = s.finj := rfl
@[simp] theorem State.srch_setConv (s : State) (v : Conv) : (s.setConv v).srch = s.srch := rfl
@[simp] theorem State.units_setConv (s : State) (v : Conv) : (s.setConv v).units = s.units := rfl
@[simp] theorem State.digs_setConv (s : State) (v : Conv) : (s.setConv v).digs = s.digs := rfl
@[simp] theorem State.elog_setConv (s : State) (v : Conv) : (s.setConv v).elog = s.elog := rfl
@[simp] theorem State.qrm_setConv (s : State) (v : Conv) : (s.setConv v).qrm = s.qrm := rfl
@[simp] theorem State.pwr_setConv (s : State) (v : Conv) : (s.setConv v).pwr = s.pwr := rfl
@[simp] theorem State.rst_setConv (s : State) (v : Conv) : (s.setConv v).rst = s.rst := rfl
@[simp] theorem State.fuses_setConv (s : State) (v : Conv) : (s.setConv v).fuses = s.fuses := rfl
@[simp] theorem State.wlh_setConv (s : State) (v : Conv) : (s.setConv v).wlh = s.wlh := rfl
@[simp] theorem State.ledger_setConv (s : State) (v : Conv) : (s.setConv v).ledger = s.ledger := rfl
@[simp] theorem State.uart_setConv (s : State) (v : Conv) : (s.setConv v).uart = s.uart := rfl
@[simp] theorem State.pcie_setConv (s : State) (v : Conv) : (s.setConv v).pcie = s.pcie := rfl
@[simp] theorem State.sync_setConv (s : State) (v : Conv) : (s.setConv v).sync = s.sync := rfl
@[simp] theorem State.unreached_setConv (s : State) (v : Conv) : (s.setConv v).unreached = s.unreached := rfl

/-! ## updConv -/

@[simp] theorem State.now_updConv (s : State) (n : TenId) (c : Nat) (f : Conv → Conv) : (s.updConv n c f).now = s.now := rfl
@[simp] theorem State.fresh_updConv (s : State) (n : TenId) (c : Nat) (f : Conv → Conv) : (s.updConv n c f).fresh = s.fresh := rfl
@[simp] theorem State.pending_updConv (s : State) (n : TenId) (c : Nat) (f : Conv → Conv) : (s.updConv n c f).pending = s.pending := rfl
@[simp] theorem State.out_updConv (s : State) (n : TenId) (c : Nat) (f : Conv → Conv) : (s.updConv n c f).out = s.out := rfl
@[simp] theorem State.regs_updConv (s : State) (n : TenId) (c : Nat) (f : Conv → Conv) : (s.updConv n c f).regs = s.regs := rfl
@[simp] theorem State.cnt_updConv (s : State) (n : TenId) (c : Nat) (f : Conv → Conv) : (s.updConv n c f).cnt = s.cnt := rfl
@[simp] theorem State.shadow_updConv (s : State) (n : TenId) (c : Nat) (f : Conv → Conv) : (s.updConv n c f).shadow = s.shadow := rfl
@[simp] theorem State.mem_updConv (s : State) (n : TenId) (c : Nat) (f : Conv → Conv) : (s.updConv n c f).mem = s.mem := rfl
@[simp] theorem State.sram_updConv (s : State) (n : TenId) (c : Nat) (f : Conv → Conv) : (s.updConv n c f).sram = s.sram := rfl
@[simp] theorem State.sramBad_updConv (s : State) (n : TenId) (c : Nat) (f : Conv → Conv) : (s.updConv n c f).sramBad = s.sramBad := rfl
@[simp] theorem State.tiles_updConv (s : State) (n : TenId) (c : Nat) (f : Conv → Conv) : (s.updConv n c f).tiles = s.tiles := rfl
@[simp] theorem State.parts_updConv (s : State) (n : TenId) (c : Nat) (f : Conv → Conv) : (s.updConv n c f).parts = s.parts := rfl
@[simp] theorem State.movers_updConv (s : State) (n : TenId) (c : Nat) (f : Conv → Conv) : (s.updConv n c f).movers = s.movers := rfl
@[simp] theorem State.tenants_updConv (s : State) (n : TenId) (c : Nat) (f : Conv → Conv) : (s.updConv n c f).tenants = s.tenants := rfl
@[simp] theorem State.reqs_updConv (s : State) (n : TenId) (c : Nat) (f : Conv → Conv) : (s.updConv n c f).reqs = s.reqs := rfl
@[simp] theorem State.tier_updConv (s : State) (n : TenId) (c : Nat) (f : Conv → Conv) : (s.updConv n c f).tier = s.tier := rfl
@[simp] theorem State.rrc_updConv (s : State) (n : TenId) (c : Nat) (f : Conv → Conv) : (s.updConv n c f).rrc = s.rrc := rfl
@[simp] theorem State.engines_updConv (s : State) (n : TenId) (c : Nat) (f : Conv → Conv) : (s.updConv n c f).engines = s.engines := rfl
@[simp] theorem State.regions_updConv (s : State) (n : TenId) (c : Nat) (f : Conv → Conv) : (s.updConv n c f).regions = s.regions := rfl
@[simp] theorem State.qps_updConv (s : State) (n : TenId) (c : Nat) (f : Conv → Conv) : (s.updConv n c f).qps = s.qps := rfl
@[simp] theorem State.ports_updConv (s : State) (n : TenId) (c : Nat) (f : Conv → Conv) : (s.updConv n c f).ports = s.ports := rfl
@[simp] theorem State.finj_updConv (s : State) (n : TenId) (c : Nat) (f : Conv → Conv) : (s.updConv n c f).finj = s.finj := rfl
@[simp] theorem State.srch_updConv (s : State) (n : TenId) (c : Nat) (f : Conv → Conv) : (s.updConv n c f).srch = s.srch := rfl
@[simp] theorem State.units_updConv (s : State) (n : TenId) (c : Nat) (f : Conv → Conv) : (s.updConv n c f).units = s.units := rfl
@[simp] theorem State.digs_updConv (s : State) (n : TenId) (c : Nat) (f : Conv → Conv) : (s.updConv n c f).digs = s.digs := rfl
@[simp] theorem State.elog_updConv (s : State) (n : TenId) (c : Nat) (f : Conv → Conv) : (s.updConv n c f).elog = s.elog := rfl
@[simp] theorem State.qrm_updConv (s : State) (n : TenId) (c : Nat) (f : Conv → Conv) : (s.updConv n c f).qrm = s.qrm := rfl
@[simp] theorem State.pwr_updConv (s : State) (n : TenId) (c : Nat) (f : Conv → Conv) : (s.updConv n c f).pwr = s.pwr := rfl
@[simp] theorem State.rst_updConv (s : State) (n : TenId) (c : Nat) (f : Conv → Conv) : (s.updConv n c f).rst = s.rst := rfl
@[simp] theorem State.fuses_updConv (s : State) (n : TenId) (c : Nat) (f : Conv → Conv) : (s.updConv n c f).fuses = s.fuses := rfl
@[simp] theorem State.wlh_updConv (s : State) (n : TenId) (c : Nat) (f : Conv → Conv) : (s.updConv n c f).wlh = s.wlh := rfl
@[simp] theorem State.ledger_updConv (s : State) (n : TenId) (c : Nat) (f : Conv → Conv) : (s.updConv n c f).ledger = s.ledger := rfl
@[simp] theorem State.uart_updConv (s : State) (n : TenId) (c : Nat) (f : Conv → Conv) : (s.updConv n c f).uart = s.uart := rfl
@[simp] theorem State.pcie_updConv (s : State) (n : TenId) (c : Nat) (f : Conv → Conv) : (s.updConv n c f).pcie = s.pcie := rfl
@[simp] theorem State.sync_updConv (s : State) (n : TenId) (c : Nat) (f : Conv → Conv) : (s.updConv n c f).sync = s.sync := rfl
@[simp] theorem State.unreached_updConv (s : State) (n : TenId) (c : Nat) (f : Conv → Conv) : (s.updConv n c f).unreached = s.unreached := rfl

/-! ## setWords and setFld -/

/-- A write of register words is a write of the component of registers. -/
theorem State.setWords_eq (s : State) (a n v : Nat) : ∃ r, s.setWords a n v = { s with regs := r } := by
  induction n generalizing s a v with
  | zero => exact ⟨s.regs, rfl⟩
  | succ n ih =>
    obtain ⟨r, h⟩ := ih (s.setWord a (BitVec.ofNat 32 v)) (a + 4) (v / 2 ^ 32)
    exact ⟨r, h⟩

theorem State.setFld_eq (s : State) (pg : Page) (f : Fld) (v i : Nat) : ∃ r, s.setFld pg f v i = { s with regs := r } :=
  State.setWords_eq ..

@[simp] theorem State.now_setFld (s : State) (pg : Page) (f : Fld) (v i : Nat) : (s.setFld pg f v i).now = s.now := by
  obtain ⟨r, h⟩ := s.setFld_eq pg f v i; rw [h]
@[simp] theorem State.fresh_setFld (s : State) (pg : Page) (f : Fld) (v i : Nat) : (s.setFld pg f v i).fresh = s.fresh := by
  obtain ⟨r, h⟩ := s.setFld_eq pg f v i; rw [h]
@[simp] theorem State.pending_setFld (s : State) (pg : Page) (f : Fld) (v i : Nat) : (s.setFld pg f v i).pending = s.pending := by
  obtain ⟨r, h⟩ := s.setFld_eq pg f v i; rw [h]
@[simp] theorem State.out_setFld (s : State) (pg : Page) (f : Fld) (v i : Nat) : (s.setFld pg f v i).out = s.out := by
  obtain ⟨r, h⟩ := s.setFld_eq pg f v i; rw [h]
@[simp] theorem State.cnt_setFld (s : State) (pg : Page) (f : Fld) (v i : Nat) : (s.setFld pg f v i).cnt = s.cnt := by
  obtain ⟨r, h⟩ := s.setFld_eq pg f v i; rw [h]
@[simp] theorem State.shadow_setFld (s : State) (pg : Page) (f : Fld) (v i : Nat) : (s.setFld pg f v i).shadow = s.shadow := by
  obtain ⟨r, h⟩ := s.setFld_eq pg f v i; rw [h]
@[simp] theorem State.mem_setFld (s : State) (pg : Page) (f : Fld) (v i : Nat) : (s.setFld pg f v i).mem = s.mem := by
  obtain ⟨r, h⟩ := s.setFld_eq pg f v i; rw [h]
@[simp] theorem State.sram_setFld (s : State) (pg : Page) (f : Fld) (v i : Nat) : (s.setFld pg f v i).sram = s.sram := by
  obtain ⟨r, h⟩ := s.setFld_eq pg f v i; rw [h]
@[simp] theorem State.sramBad_setFld (s : State) (pg : Page) (f : Fld) (v i : Nat) : (s.setFld pg f v i).sramBad = s.sramBad := by
  obtain ⟨r, h⟩ := s.setFld_eq pg f v i; rw [h]
@[simp] theorem State.tiles_setFld (s : State) (pg : Page) (f : Fld) (v i : Nat) : (s.setFld pg f v i).tiles = s.tiles := by
  obtain ⟨r, h⟩ := s.setFld_eq pg f v i; rw [h]
@[simp] theorem State.parts_setFld (s : State) (pg : Page) (f : Fld) (v i : Nat) : (s.setFld pg f v i).parts = s.parts := by
  obtain ⟨r, h⟩ := s.setFld_eq pg f v i; rw [h]
@[simp] theorem State.movers_setFld (s : State) (pg : Page) (f : Fld) (v i : Nat) : (s.setFld pg f v i).movers = s.movers := by
  obtain ⟨r, h⟩ := s.setFld_eq pg f v i; rw [h]
@[simp] theorem State.tenants_setFld (s : State) (pg : Page) (f : Fld) (v i : Nat) : (s.setFld pg f v i).tenants = s.tenants := by
  obtain ⟨r, h⟩ := s.setFld_eq pg f v i; rw [h]
@[simp] theorem State.reqs_setFld (s : State) (pg : Page) (f : Fld) (v i : Nat) : (s.setFld pg f v i).reqs = s.reqs := by
  obtain ⟨r, h⟩ := s.setFld_eq pg f v i; rw [h]
@[simp] theorem State.convs_setFld (s : State) (pg : Page) (f : Fld) (v i : Nat) : (s.setFld pg f v i).convs = s.convs := by
  obtain ⟨r, h⟩ := s.setFld_eq pg f v i; rw [h]
@[simp] theorem State.tier_setFld (s : State) (pg : Page) (f : Fld) (v i : Nat) : (s.setFld pg f v i).tier = s.tier := by
  obtain ⟨r, h⟩ := s.setFld_eq pg f v i; rw [h]
@[simp] theorem State.rrc_setFld (s : State) (pg : Page) (f : Fld) (v i : Nat) : (s.setFld pg f v i).rrc = s.rrc := by
  obtain ⟨r, h⟩ := s.setFld_eq pg f v i; rw [h]
@[simp] theorem State.engines_setFld (s : State) (pg : Page) (f : Fld) (v i : Nat) : (s.setFld pg f v i).engines = s.engines := by
  obtain ⟨r, h⟩ := s.setFld_eq pg f v i; rw [h]
@[simp] theorem State.regions_setFld (s : State) (pg : Page) (f : Fld) (v i : Nat) : (s.setFld pg f v i).regions = s.regions := by
  obtain ⟨r, h⟩ := s.setFld_eq pg f v i; rw [h]
@[simp] theorem State.qps_setFld (s : State) (pg : Page) (f : Fld) (v i : Nat) : (s.setFld pg f v i).qps = s.qps := by
  obtain ⟨r, h⟩ := s.setFld_eq pg f v i; rw [h]
@[simp] theorem State.ports_setFld (s : State) (pg : Page) (f : Fld) (v i : Nat) : (s.setFld pg f v i).ports = s.ports := by
  obtain ⟨r, h⟩ := s.setFld_eq pg f v i; rw [h]
@[simp] theorem State.finj_setFld (s : State) (pg : Page) (f : Fld) (v i : Nat) : (s.setFld pg f v i).finj = s.finj := by
  obtain ⟨r, h⟩ := s.setFld_eq pg f v i; rw [h]
@[simp] theorem State.srch_setFld (s : State) (pg : Page) (f : Fld) (v i : Nat) : (s.setFld pg f v i).srch = s.srch := by
  obtain ⟨r, h⟩ := s.setFld_eq pg f v i; rw [h]
@[simp] theorem State.units_setFld (s : State) (pg : Page) (f : Fld) (v i : Nat) : (s.setFld pg f v i).units = s.units := by
  obtain ⟨r, h⟩ := s.setFld_eq pg f v i; rw [h]
@[simp] theorem State.digs_setFld (s : State) (pg : Page) (f : Fld) (v i : Nat) : (s.setFld pg f v i).digs = s.digs := by
  obtain ⟨r, h⟩ := s.setFld_eq pg f v i; rw [h]
@[simp] theorem State.elog_setFld (s : State) (pg : Page) (f : Fld) (v i : Nat) : (s.setFld pg f v i).elog = s.elog := by
  obtain ⟨r, h⟩ := s.setFld_eq pg f v i; rw [h]
@[simp] theorem State.qrm_setFld (s : State) (pg : Page) (f : Fld) (v i : Nat) : (s.setFld pg f v i).qrm = s.qrm := by
  obtain ⟨r, h⟩ := s.setFld_eq pg f v i; rw [h]
@[simp] theorem State.pwr_setFld (s : State) (pg : Page) (f : Fld) (v i : Nat) : (s.setFld pg f v i).pwr = s.pwr := by
  obtain ⟨r, h⟩ := s.setFld_eq pg f v i; rw [h]
@[simp] theorem State.rst_setFld (s : State) (pg : Page) (f : Fld) (v i : Nat) : (s.setFld pg f v i).rst = s.rst := by
  obtain ⟨r, h⟩ := s.setFld_eq pg f v i; rw [h]
@[simp] theorem State.fuses_setFld (s : State) (pg : Page) (f : Fld) (v i : Nat) : (s.setFld pg f v i).fuses = s.fuses := by
  obtain ⟨r, h⟩ := s.setFld_eq pg f v i; rw [h]
@[simp] theorem State.wlh_setFld (s : State) (pg : Page) (f : Fld) (v i : Nat) : (s.setFld pg f v i).wlh = s.wlh := by
  obtain ⟨r, h⟩ := s.setFld_eq pg f v i; rw [h]
@[simp] theorem State.ledger_setFld (s : State) (pg : Page) (f : Fld) (v i : Nat) : (s.setFld pg f v i).ledger = s.ledger := by
  obtain ⟨r, h⟩ := s.setFld_eq pg f v i; rw [h]
@[simp] theorem State.uart_setFld (s : State) (pg : Page) (f : Fld) (v i : Nat) : (s.setFld pg f v i).uart = s.uart := by
  obtain ⟨r, h⟩ := s.setFld_eq pg f v i; rw [h]
@[simp] theorem State.pcie_setFld (s : State) (pg : Page) (f : Fld) (v i : Nat) : (s.setFld pg f v i).pcie = s.pcie := by
  obtain ⟨r, h⟩ := s.setFld_eq pg f v i; rw [h]
@[simp] theorem State.sync_setFld (s : State) (pg : Page) (f : Fld) (v i : Nat) : (s.setFld pg f v i).sync = s.sync := by
  obtain ⟨r, h⟩ := s.setFld_eq pg f v i; rw [h]
@[simp] theorem State.unreached_setFld (s : State) (pg : Page) (f : Fld) (v i : Nat) : (s.setFld pg f v i).unreached = s.unreached := by
  obtain ⟨r, h⟩ := s.setFld_eq pg f v i; rw [h]

end Sys2Proof.Machine
end

