-- ==== Sys2Proof/Laws/Fields.lean ====
section
/-! SUPPORT. Laws of register fields and counters: what a write of a field reads back as, which bits it leaves, what
counting leaves. -/

namespace Sys2Proof.Machine
open Sys2Proof

/-! ## Reads depend on the registers and the bin only -/

theorem State.word_congr {s t : State} (h : t.regs = s.regs) (hf : t.fuses = s.fuses) (a : Nat) : t.word a = s.word a := by
  simp only [State.word, h, hf]

theorem State.words_congr {s t : State} (h : t.regs = s.regs) (hf : t.fuses = s.fuses) (a n : Nat) :
    t.words a n = s.words a n := by
  induction n generalizing a with
  | zero => rfl
  | succ n ih => rw [State.words, State.words, ih, State.word_congr h hf]

theorem State.fld_congr {s t : State} (h : t.regs = s.regs) (hf : t.fuses = s.fuses) (pg : Page) (f : Fld) (i : Nat) :
    t.fld pg f i = s.fld pg f i := by
  rw [State.fld, State.fld, State.words_congr h hf]

theorem State.flag_congr {s t : State} (h : t.regs = s.regs) (hf : t.fuses = s.fuses) (pg : Page) (f : Fld) (i : Nat) :
    t.flag pg f i = s.flag pg f i := by
  rw [State.flag, State.flag, State.fld_congr h hf]

@[simp] theorem State.word_count (s : State) (pg : Page) (o n a : Nat) : (s.count pg o n).word a = s.word a := rfl
@[simp] theorem State.word_send (s : State) (o : Out) (a : Nat) : (s.send o).word a = s.word a := rfl
@[simp] theorem State.word_setTier (s : State) (t : Tier) (a : Nat) : (s.setTier t).word a = s.word a := rfl

@[simp] theorem State.fld_count (s : State) (pg : Page) (o n : Nat) (q : Page) (f : Fld) (i : Nat) :
    (s.count pg o n).fld q f i = s.fld q f i := State.fld_congr (by simp) (by simp) ..

@[simp] theorem State.fld_send (s : State) (o : Out) (q : Page) (f : Fld) (i : Nat) :
    (s.send o).fld q f i = s.fld q f i := State.fld_congr (by simp) (by simp) ..

@[simp] theorem State.fld_setTier (s : State) (t : Tier) (q : Page) (f : Fld) (i : Nat) :
    (s.setTier t).fld q f i = s.fld q f i := State.fld_congr (by simp) (by simp) ..

/-! ## One word of several -/

theorem State.word_setWords_at (s : State) (a n v : Nat) {k : Nat} (hk : k < n) :
    (s.setWords a n v).word (a + 4 * k) = BitVec.ofNat 32 (v / 2 ^ (32 * k)) := by
  induction n generalizing s a v k with
  | zero => omega
  | succ n ih =>
    rw [State.setWords]
    cases k with
    | zero =>
      rw [State.word_setWords_other]
      · simp
      · intro i _; omega
    | succ k =>
      have h := ih (s.setWord a (BitVec.ofNat 32 v)) (a + 4) (v / 2 ^ 32) (k := k) (by omega)
      rw [show a + 4 * (k + 1) = a + 4 + 4 * k by omega, h, Nat.div_div_eq_div_mul, ← Nat.pow_add,
        show 32 + 32 * k = 32 * (k + 1) by omega]

theorem State.words_testBit (s : State) (a n : Nat) {k b : Nat} (hk : k < n) (hb : b < 32) :
    (s.words a n).testBit (32 * k + b) = (s.word (a + 4 * k)).getLsbD b := by
  induction n generalizing a k with
  | zero => omega
  | succ n ih =>
    rw [State.words, Nat.add_comm, Nat.testBit_two_pow_mul_add _ (s.word a).isLt]
    cases k with
    | zero => rw [if_pos (by omega)]; simp [BitVec.getLsbD]
    | succ k =>
      rw [if_neg (by omega), show 32 * (k + 1) + b - 32 = 32 * k + b by omega, ih _ (by omega),
        show a + 4 + 4 * k = a + 4 * (k + 1) by omega]

/-! ## Fields -/

/-- A field written reads back as the value's low bits. -/
theorem State.fld_setFld_same (s : State) (pg : Page) (f : Fld) (v i : Nat) :
    (s.setFld pg f v i).fld pg f i = v % 2 ^ f.width := by
  have hw : f.lo + f.width ≤ 32 * f.words := by simp only [Fld.words]; omega
  rw [State.fld, State.setFld, State.words_setWords_same, Nat.mod_eq_of_lt, bits_withBits_same]
  apply Nat.lt_pow_two_of_testBit
  intro j hj
  rw [withBits_testBit, if_neg (by omega)]
  exact Nat.testBit_lt_two_pow (Nat.lt_of_lt_of_le (s.words_lt _ _) (Nat.pow_le_pow_right (by omega) hj))

/-- A write of a field leaves every bit the field does not cover. -/
theorem State.setFld_bitsBut (s : State) (pg : Page) (f : Fld) (v i : Nat) : s.bitsBut (s.setFld pg f v i) [f.place pg i] := by
  intro a b h
  have h := h (f.place pg i) (by simp)
  by_cases hb : b < 32
  · by_cases ha : ∃ k, k < f.words ∧ a = f.addr pg i + 4 * k
    · obtain ⟨k, hk, rfl⟩ := ha
      rw [State.setFld, State.word_setWords_at _ _ _ _ hk, BitVec.getLsbD_ofNat, Nat.testBit_div_two_pow, withBits_testBit,
        if_neg, Nat.add_comm b, State.words_testBit _ _ _ hk hb]
      · simp [hb]
      · intro hc
        apply h
        refine ⟨?_, ?_, ?_⟩ <;> simp only [Fld.place] <;> omega
    · rw [State.setFld, State.word_setWords_other]
      intro k hk hc
      exact ha ⟨k, hk, hc⟩
  · rw [BitVec.getLsbD_of_ge _ _ (by omega), BitVec.getLsbD_of_ge _ _ (by omega)]

/-- A field whose bits are all left reads as before. -/
theorem State.fld_of_bits {s t : State} (pg : Page) (f : Fld) (i : Nat)
    (h : ∀ k b, k < f.words → b < 32 → f.lo ≤ 32 * k + b → 32 * k + b < f.lo + f.width →
      (t.word (f.addr pg i + 4 * k)).getLsbD b = (s.word (f.addr pg i + 4 * k)).getLsbD b) :
    t.fld pg f i = s.fld pg f i := by
  have hw : f.lo + f.width ≤ 32 * f.words := by simp only [Fld.words]; omega
  apply Nat.eq_of_testBit_eq
  intro j
  rw [State.fld, State.fld, bits_testBit, bits_testBit]
  by_cases hj : j < f.width
  · have e : f.lo + j = 32 * ((f.lo + j) / 32) + (f.lo + j) % 32 := by omega
    have hk : (f.lo + j) / 32 < f.words := by omega
    rw [e, State.words_testBit _ _ _ hk (by omega), State.words_testBit _ _ _ hk (by omega),
      h _ _ hk (by omega) (by omega) (by omega)]
  · simp [hj]

/-- Writing one field leaves a field that shares no bit with it. -/
theorem State.fld_setFld_other (s : State) (pg q : Page) (f g : Fld) (v i j : Nat)
    (h : ∀ k b, k < g.words → b < 32 → g.lo ≤ 32 * k + b → 32 * k + b < g.lo + g.width →
      ¬ (f.place pg i).covers (g.addr q j + 4 * k) b) :
    (s.setFld pg f v i).fld q g j = s.fld q g j := by
  apply State.fld_of_bits
  intro k b hk hb h1 h2
  exact s.setFld_bitsBut pg f v i _ _ (by simpa using h k b hk hb h1 h2)

/-! ## Counters -/

@[simp] theorem State.counter_count_same (s : State) (pg : Page) (o n : Nat) :
    (s.count pg o n).counter pg o = min max64 (s.counter pg o + n) := by
  simp only [State.counter, State.count, Map.get_set_same, BitVec.toNat_ofNat]
  exact Nat.mod_eq_of_lt (Nat.lt_of_le_of_lt (Nat.min_le_left ..) (by decide))

theorem State.counter_count_other (s : State) (pg q : Page) (o p n : Nat) (h : q.base + p ≠ pg.base + o) :
    (s.count pg o n).counter q p = s.counter q p := by
  simp only [State.counter, State.count]
  rw [Map.get_set_other _ _ _ _ h]

/-- Counting leaves every other counter. -/
theorem State.count_countsBut (s : State) (pg : Page) (o n : Nat) : s.countsBut (s.count pg o n) [(pg, o)] := by
  intro a h
  exact Map.get_set_other _ _ _ _ (h (pg, o) (by simp))

/-! ## Frames compose -/

theorem State.keeps_refl (s : State) (l : List Comp) : s.keeps s l := by
  intro c _; cases c <;> rfl

theorem Comp.same_trans {s t u : State} {c : Comp} (h : Comp.same s t c) (k : Comp.same t u c) : Comp.same s u c := by
  cases c <;> exact Eq.trans k h

theorem State.keeps_trans {s t u : State} {l m : List Comp} (h : s.keeps t l) (k : t.keeps u m) : s.keeps u (l ++ m) := by
  intro c hc
  rw [List.mem_append, not_or] at hc
  exact Comp.same_trans (h c hc.1) (k c hc.2)

theorem State.keeps_mono {s t : State} {l m : List Comp} (h : s.keeps t l) (hl : ∀ c ∈ l, c ∈ m) : s.keeps t m :=
  fun c hc => h c fun hi => hc (hl c hi)

theorem State.bitsBut_trans {s t u : State} {l m : List Place} (h : s.bitsBut t l) (k : t.bitsBut u m) :
    s.bitsBut u (l ++ m) := by
  intro a b hc
  rw [k a b fun x hx => hc x (List.mem_append_right _ hx), h a b fun x hx => hc x (List.mem_append_left _ hx)]

theorem State.bitsBut_mono {s t : State} {l m : List Place} (h : s.bitsBut t l) (hl : ∀ c ∈ l, c ∈ m) : s.bitsBut t m :=
  fun a b hc => h a b fun x hx => hc x (hl x hx)

theorem State.countsBut_trans {s t u : State} {l m : List (Page × Nat)} (h : s.countsBut t l) (k : t.countsBut u m) :
    s.countsBut u (l ++ m) := by
  intro a hc
  rw [k a fun x hx => hc x (List.mem_append_right _ hx), h a fun x hx => hc x (List.mem_append_left _ hx)]

theorem State.countsBut_mono {s t : State} {l m : List (Page × Nat)} (h : s.countsBut t l) (hl : ∀ c ∈ l, c ∈ m) :
    s.countsBut t m :=
  fun a hc => h a fun x hx => hc x (hl x hx)

theorem State.changes_refl (s : State) (cs : List Comp) (fs : List Place) (ns : List (Page × Nat)) : s.changes s cs fs ns :=
  ⟨s.keeps_refl _, fun _ _ _ => rfl, fun _ _ => rfl⟩

/-- Frames of one shape compose. -/
theorem State.changes_trans {s t u : State} {cs : List Comp} {fs : List Place} {ns : List (Page × Nat)}
    (h : s.changes t cs fs ns) (k : t.changes u cs fs ns) : s.changes u cs fs ns :=
  ⟨State.keeps_mono (State.keeps_trans h.1 k.1) (by intro c hc; simp at hc ⊢; tauto), State.bitsBut_mono (State.bitsBut_trans h.2.1 k.2.1) (by simp),
    State.countsBut_mono (State.countsBut_trans h.2.2 k.2.2) (by simp)⟩

/-- A frame may be widened. -/
theorem State.changes_mono {s t : State} {cs ds : List Comp} {fs gs : List Place} {ns ms : List (Page × Nat)}
    (h : s.changes t cs fs ns) (h1 : ∀ c ∈ cs, c ∈ ds) (h2 : ∀ c ∈ fs, c ∈ gs) (h3 : ∀ c ∈ ns, c ∈ ms) :
    s.changes t ds gs ms :=
  ⟨State.keeps_mono h.1 (fun c hc => by
      rcases List.mem_cons.1 hc with rfl | hc
      · simp
      · rcases List.mem_cons.1 hc with rfl | hc
        · simp
        · simp [h1 c hc]),
    State.bitsBut_mono h.2.1 h2, State.countsBut_mono h.2.2 h3⟩

end Sys2Proof.Machine
end

