-- ==== Sys2Proof/Laws/Ops.lean ====
section
/-! SUPPORT. What each shared operation can do, said once: sending, counting, interrupts, errors, stores; and that each
keeps the canonical form of the stores. -/

namespace Sys2Proof.Machine
open Sys2Proof

/-! ## What each operation changes -/

theorem State.send_changes (s : State) (o : Out) : s.changes (s.send o) [.out] [] [] := by
  refine ⟨?_, fun _ _ _ => rfl, fun _ _ => rfl⟩
  intro c hc; cases c <;> simp_all [Comp.same]

theorem State.setWord_bitsBut (s : State) (a : Nat) (v : Word) (l : List Place)
    (h : ∀ b, (∀ x ∈ l, ¬ x.covers a b) → v.getLsbD b = (s.word a).getLsbD b) : s.bitsBut (s.setWord a v) l := by
  intro x b hx
  by_cases e : x = a
  · rw [e, State.word_setWord_same]
    exact h b (e ▸ hx)
  · rw [State.word_setWord_other _ _ e]

theorem State.count_changes (s : State) (pg : Page) (o n : Nat) : s.changes (s.count pg o n) [] [] [(pg, o)] := by
  refine ⟨?_, fun _ _ _ => rfl, s.count_countsBut pg o n⟩
  intro c hc; cases c <;> simp_all [Comp.same]

theorem State.setFld_changes (s : State) (pg : Page) (f : Fld) (v i : Nat) :
    s.changes (s.setFld pg f v i) [] [f.place pg i] [] := by
  refine ⟨?_, s.setFld_bitsBut pg f v i, fun _ _ => by simp⟩
  intro c hc; cases c <;> simp_all [Comp.same]

/-- Sending a vector of the PF sends one message and counts it, or marks it pending (R385). -/
theorem State.pfVector_changes (s : State) (v : Nat) : s.changes (s.pfVector v) [.out, .pcie] [] [(.pcie, 0xB0)] := by
  rw [State.pfVector]
  split
  · exact State.changes_trans (State.changes_mono (s.send_changes _) (by simp) (by simp) (by simp))
      (State.changes_mono (State.count_changes ..) (by simp) (by simp) (by simp))
  · split
    · exact s.changes_refl ..
    · refine ⟨?_, fun _ _ _ => rfl, fun _ _ => rfl⟩
      intro c hc; cases c <;> simp_all [Comp.same]

theorem State.irqMessage_changes (s : State) (pg : Page) :
    s.changes (s.irqMessage pg) [.out, .pcie] [] [(.pcie, 0xB0)] := by
  have h : ∀ t : State, s.changes t [.out, .pcie] [] [(.pcie, 0xB0)] → ∀ d : Nat,
      s.changes (if d = 1 ∨ d = 2 then t.send (.wellheadIrq pg) else t) [.out, .pcie] [] [(.pcie, 0xB0)] := by
    intro t ht d
    split
    · exact State.changes_trans ht (State.changes_mono (t.send_changes _) (by simp) (by simp) (by simp))
    · exact ht
  rw [State.irqMessage]
  apply h
  split
  · exact s.pfVector_changes _
  · exact s.changes_refl ..

@[simp] theorem State.regs_irqMessage (s : State) (pg : Page) : (s.irqMessage pg).regs = s.regs := by
  simp only [State.irqMessage, State.pfVector]
  split <;> split <;> (try split) <;> (try split) <;> simp_all

@[simp] theorem State.fuses_irqMessage (s : State) (pg : Page) : (s.irqMessage pg).fuses = s.fuses :=
  (s.irqMessage_changes pg).1 .fuses (by simp)

/-- An interrupt event changes PG_IRQ_STAT, its counters and the messages, and nothing else (R385). -/
theorem State.irq_changes (s : State) (pg : Page) (b : Nat) :
    s.changes (s.irq pg b) [.out, .pcie] (irqPlaces pg) (irqCounts pg) := by
  have h1 : s.changes (s.setWord (pg.base + 0x10) (s.word (pg.base + 0x10) ||| BitVec.ofNat 32 (2 ^ b))) [.out, .pcie]
      (irqPlaces pg) (irqCounts pg) := by
    refine ⟨?_, ?_, fun _ _ => rfl⟩
    · intro c hc; cases c <;> simp_all [Comp.same]
    · apply State.setWord_bitsBut
      intro j hj
      by_cases hb : j < 32
      · exfalso
        refine hj (Reg.PG_IRQ_STAT.place pg) (by simp [irqPlaces]) ?_
        refine ⟨?_, ?_, ?_⟩ <;> simp [Fld.place, Fld.addr, Reg.PG_IRQ_STAT, hb]
      · rw [BitVec.getLsbD_of_ge _ _ (by omega), BitVec.getLsbD_of_ge _ _ (by omega)]
  simp only [State.irq]
  generalize s.setWord (pg.base + 0x10) (s.word (pg.base + 0x10) ||| BitVec.ofNat 32 (2 ^ b)) = t at h1 ⊢
  have h2 : s.changes (if bit (s.word (pg.base + 0x10)).toNat b then t else t.count pg 0x58) [.out, .pcie]
      (irqPlaces pg) (irqCounts pg) := by
    split
    · exact h1
    · exact State.changes_trans h1 (State.changes_mono (t.count_changes ..) (by simp) (by simp) (by simp [irqCounts]))
  generalize (if bit (s.word (pg.base + 0x10)).toNat b then t else t.count pg 0x58) = u at h2 ⊢
  split
  · exact State.changes_trans h2 (State.changes_mono (u.irqMessage_changes pg) (by simp) (by simp) (by simp [irqCounts]))
  · exact h2

/-- An interrupt event sets its bit and keeps the others (R385). -/
theorem State.irq_raised (s : State) (pg : Page) (b : Nat) : s.raised (s.irq pg b) pg b := by
  simp only [State.raised, State.irq]
  split <;> split <;>
    (try rw [State.word_congr (State.regs_irqMessage ..) (State.fuses_irqMessage ..)]) <;> simp

/-- An error changes PG_ERR and ERR_EVENTS of its page, and nothing else (R386). -/
theorem State.err_changes (s : State) (pg : Page) (code : Nat) :
    s.changes (s.err pg code) [] (errPlaces pg) (errCounts pg) := by
  simp only [State.err]
  refine State.changes_trans (State.changes_trans
    (State.changes_mono (s.setFld_changes ..) (by simp) (by simp [errPlaces]) (by simp))
    (State.changes_mono (State.setFld_changes ..) (by simp) (by simp [errPlaces]) (by simp)))
    (State.changes_mono (State.count_changes ..) (by simp) (by simp) (by simp [errCounts]))

/-- CODE takes the code, MULTI says CODE was not zero, ERR_EVENTS counts (R386). -/
theorem State.err_erred (s : State) (pg : Page) (code : Nat) (h : code < 256) : s.erred (s.err pg code) pg code := by
  have ne : ∀ (f g : Fld) (u : State) (v : Nat), f.addr pg 0 = g.addr pg 0 → f.words = 1 → g.words = 1 →
      (g.lo + g.width ≤ f.lo ∨ f.lo + f.width ≤ g.lo) → (u.setFld pg f v).fld pg g = u.fld pg g := by
    intro f g u v e hf hg hd
    apply State.fld_setFld_other
    rintro k b hk hb h1 h2 ⟨_, h4, h5⟩
    simp only [Fld.place] at h4 h5
    rw [hg] at hk
    rw [e] at h4 h5
    omega
  refine ⟨?_, ?_, ?_⟩
  · simp only [State.err, State.fld_count]
    rw [ne Reg.PG_ERR_MULTI Reg.PG_ERR_CODE _ _ rfl rfl rfl (by decide), State.fld_setFld_same]
    exact Nat.mod_eq_of_lt h
  · simp only [State.err, State.fld_count]
    rw [State.fld_setFld_same]
    cases (s.fld pg Reg.PG_ERR_CODE != 0 || s.flag pg Reg.PG_ERR_MULTI) <;> rfl
  · simp only [State.err, State.counter_count_same]
    simp only [State.counter, State.cnt_setFld]

/-! ## The canonical form -/

theorem State.canonical_iff (s : State) : s.canonical = true ↔
    Map.wf (fun _ => 0) s.mem = true ∧ Map.wf (fun _ => 0) s.sram = true ∧ Map.wf (fun _ => false) s.sramBad = true ∧
    Map.wf (Reg.resetWord s.fuses.binB) s.regs = true ∧ Map.wf (fun _ => 0) s.cnt = true ∧ Map.rising 0 s.shadow = true := by
  simp only [State.canonical, Bool.and_eq_true, and_assoc]

/-- The canonical form is the stores' alone. -/
theorem State.canonical_congr {s t : State} (h1 : t.mem = s.mem) (h2 : t.sram = s.sram) (h3 : t.sramBad = s.sramBad)
    (h4 : t.regs = s.regs) (h5 : t.cnt = s.cnt) (h6 : t.shadow = s.shadow) (h7 : t.fuses = s.fuses) :
    t.canonical = s.canonical := by
  simp only [State.canonical, h1, h2, h3, h4, h5, h6, h7]

@[simp] theorem State.canonical_send (s : State) (o : Out) : (s.send o).canonical = s.canonical := rfl
@[simp] theorem State.canonical_setTier (s : State) (t : Tier) : (s.setTier t).canonical = s.canonical := rfl
@[simp] theorem State.canonical_draw (s : State) : s.draw.canonical = s.canonical := rfl

theorem State.setWord_canonical {s : State} (h : s.canonical = true) (a : Nat) (v : Word) :
    (s.setWord a v).canonical = true := by
  rw [State.canonical_iff] at h ⊢
  exact ⟨h.1, h.2.1, h.2.2.1, Map.set_wf _ h.2.2.2.1 a v, h.2.2.2.2⟩

theorem State.setWords_canonical {s : State} (h : s.canonical = true) (a n v : Nat) :
    (s.setWords a n v).canonical = true := by
  induction n generalizing s a v with
  | zero => exact h
  | succ n ih => exact ih (State.setWord_canonical h _ _) _ _

theorem State.setFld_canonical {s : State} (h : s.canonical = true) (pg : Page) (f : Fld) (v i : Nat) :
    (s.setFld pg f v i).canonical = true := State.setWords_canonical h ..

theorem State.count_canonical {s : State} (h : s.canonical = true) (pg : Page) (o n : Nat) :
    (s.count pg o n).canonical = true := by
  rw [State.canonical_iff] at h ⊢
  exact ⟨h.1, h.2.1, h.2.2.1, h.2.2.2.1, Map.set_wf (fun _ => 0) h.2.2.2.2.1 _ _, h.2.2.2.2.2⟩

/-- A store of bytes keeps the canonical form of the State Space. -/
theorem State.wr_canonical {s : State} (h : s.canonical = true) (a : Nat) (b : List Byte) : (s.wr a b).canonical = true := by
  rw [State.canonical_iff] at h ⊢
  exact ⟨Map.store_wf h.1 a b, h.2⟩

theorem State.wrSram_canonical {s : State} (h : s.canonical = true) (t : TileId) (o : Nat) (b : List Byte) :
    (s.wrSram t o b).canonical = true := by
  rw [State.canonical_iff] at h ⊢
  exact ⟨h.1, Map.store_wf h.2.1 _ b, h.2.2⟩

theorem State.each_canonical {α : Type} {s : State} (h : s.canonical = true) (l : List α) {f : State → α → State}
    (hf : ∀ u x, u.canonical = true → (f u x).canonical = true) : (s.each l f).canonical = true := by
  induction l generalizing s with
  | nil => exact h
  | cons x t ih => exact ih (hf _ _ h)

theorem State.pfVector_canonical {s : State} (h : s.canonical = true) (v : Nat) : (s.pfVector v).canonical = true := by
  rw [State.pfVector]
  split
  · exact State.count_canonical (by simpa using h) ..
  · split
    · exact h
    · exact h

theorem State.irqMessage_canonical {s : State} (h : s.canonical = true) (pg : Page) : (s.irqMessage pg).canonical = true := by
  simp only [State.irqMessage]
  split <;> split <;> simp [State.pfVector_canonical h, h]

theorem State.irq_canonical {s : State} (h : s.canonical = true) (pg : Page) (b : Nat) : (s.irq pg b).canonical = true := by
  simp only [State.irq]
  have h1 := State.setWord_canonical h (pg.base + 0x10) (s.word (pg.base + 0x10) ||| BitVec.ofNat 32 (2 ^ b))
  generalize s.setWord (pg.base + 0x10) (s.word (pg.base + 0x10) ||| BitVec.ofNat 32 (2 ^ b)) = t at h1 ⊢
  have h2 := State.count_canonical h1 pg 0x58 1
  split <;> split <;> simp only [State.irqMessage_canonical, h1, h2]

theorem State.err_canonical {s : State} (h : s.canonical = true) (pg : Page) (code : Nat) :
    (s.err pg code).canonical = true :=
  State.count_canonical (State.setFld_canonical (State.setFld_canonical h ..) ..) ..

end Sys2Proof.Machine
end

