-- ==== Sys2Proof/Machine/Read.lean ====
section
/-! DEFINITION. What a register reads as: words as stored, and the read-only fields that show other state (R305, R349, R380,
R383). No command of the block's table is a read; statements and reviewers use this view. -/

namespace Sys2Proof.Machine
open Sys2Proof

/-- The data frames of a memory instance (R120, Tables 06-3, 06-10). -/
def State.dataFrames (s : State) (pg : Page) : List (TierName × Nat) :=
  match pg with
  | .shl d => (List.range 8).flatMap fun k =>
      let r := s.frameRange .shallows (Fin.ofNat 32 (d.val * 8 + k))
      (List.range r.2).map fun i => (TierName.shallows, r.1 + i)
  | .bas i => ((List.range ((s.frameRange .basin 0).2 / 8)).map fun k => (TierName.basin, 8 * k + i.val))
  | .deep c => ((List.range ((s.frameRange .deep 0).2 / 16)).map fun k => (TierName.deep, 16 * k + c.val))
  | _ => []

/-- MEM_FREE (Table 06-15). -/
def State.freeFrames (s : State) (pg : Page) : Nat := ((s.dataFrames pg).filter fun e => s.frameFree e.1 e.2).length

/-- Fields at their places: first bit, width, value. -/
def fieldsOf (l : List (Nat × Nat × Nat)) : Nat := l.foldl (fun v f => v + f.2.2 % 2 ^ f.2.1 * 2 ^ f.1) 0

/-- A move context as software reads it (Table 09-1). -/
def ctxImage (c : MoveCtx) : Nat :=
  fieldsOf
    [(0, 4, c.kind), (4, 3, c.state), (7, 1, c.wmValid.toNat), (8, 4, c.stripesM1), (16, 9, c.qpFirst), (32, 32, c.reqId),
     (64, 9, c.layers), (80, 15, c.pages), (96, 8, c.wmLayer), (112, 14, c.wmPage), (128, 47, c.localBase),
     (192, 47, c.remoteBase), (256, 12, c.peerNode), (268, 5, c.peerPart.val), (288, 32, c.remoteKey.toNat),
     (320, 24, c.stride), (352, 12, c.sideBytes), (368, 7, if c.kind = 0 then c.pass else 0), (376, 8, c.status),
     (448, 32, if c.kind = 2 ∨ c.kind = 3 then c.ttlMs else 0), (480, 32, c.kvLen)]

/-- Code of a QP's state (Table 08-1). -/
def QpState.code : QpState → Nat
  | .reset => 0 | .init => 1 | .rts => 2 | .error => 3

/-- A QP context as software reads it (Table 08-1). -/
def Qp.image (x : Qp) : Nat :=
  fieldsOf (qpFields.map (fun f => (f.lo, f.width, f.get x)) ++
    [(0, 3, x.st.code), (272, 16, x.sqTail), (288, 16, x.sqHead), (304, 16, x.rqTail), (320, 16, x.rqHead), (352, 21, x.cqHead),
     (384, 21, x.cqTail), (416, 24, x.nextPsn), (448, 24, x.unaPsn), (480, 24, x.epsn), (528, 16, x.rxSpec),
     (768, 256, x.rxMap), (1024, 256, x.txMap)])

/-- A word of the QP window (R181). -/
def State.qpWord (s : State) (o : Nat) : Nat :=
  let q : QpId := Fin.ofNat 16384 (s.fld (.feng 0) Reg.QPW_BANK_BANK * 256 + o / 256)
  if s.ready (.feng (engOfQp q)) then bits (s.qp q).image (o % 256 * 8) 32 else 0

/-- The fields of a 64-byte or 32-byte window of words k, from a number. -/
def wordViews (f : Fld) (n v : Nat) : List (Fld × Nat × Nat) := (List.range n).map fun k => (f, k, bits v (32 * k) 32)

/-- A peak budget level in whole tokens (Table 12-9). -/
def lvlView (l : Int) : Nat := unsigned 32 (l / 65536)

/-- Read-only fields that show state kept elsewhere: field, instance, value. -/
def State.views (s : State) (pg : Page) : List (Fld × Nat × Nat) :=
  match pg with
  | .disp p =>
    List.flatten
      [[(Reg.DISP_ROLE_HELD, 0, min 4095 (s.held p)),
        (Reg.DISP_STORE_USED, 0, (((s.part p).store.map fun e => e.2.length).foldl (· + ·) 0))],
       (List.range 4).map fun q => (Reg.DISP_BACKLOG_US, q, s.backlog p q),
       (s.part p).staged.zipIdx.map fun e => (Reg.DISP_RS_DATA_DATA, e.2, e.1.toNat)]
  | .tile t => [(Reg.SB_STAT_INFLIGHT, 0, ((s.tile t).slots.filter fun e => e.2.st != .free).length)]
  | .tier => [(Reg.TIER_STAT_SLOTS_BUSY, 0, s.slotsBusy)]
  | .bas _ => [(Reg.BAS_MEM_FREE_FREE, 0, s.freeFrames pg)]
  | .shl _ => [(Reg.SHL_MEM_FREE_FREE, 0, s.freeFrames pg)]
  | .deep _ => [(Reg.DEEP_MEM_FREE_FREE, 0, s.freeFrames pg)]
  | .feng e =>
    let x := s.eng e
    [(Reg.FENG_STAT_NAK_OVF, 0, x.nakOvf.toNat), (Reg.FENG_STAT_SLOTS_BUSY, 0, x.slots.length), (Reg.TRIG_STAT_IN_USE, 0, x.trigs.length)]
  | .move p =>
    let c := (s.mover p).ctxs
    List.flatten
      [[(Reg.MOVE_STAT_CTX_BUSY, 0, (c.filter fun e => e.2.state != 0).length),
        (Reg.MOVE_STAT_QP_BOUND, 0, ((c.filter fun e => e.2.bound).map fun e => e.2.stripesM1 + 1).foldl (· + ·) 0)],
       wordViews Reg.MOVE_CTX_DATA_DATA 16 (ctxImage (Map.get {} c (s.fld pg Reg.MOVE_CTX_SEL_INDEX)))]
  | .admt _ => (List.range 64).flatMap fun n =>
      [(Reg.ADMT_TEN_P_PEAK_LVL, n, lvlView (Map.get {} s.tenants n).p.k), (Reg.ADMT_TEN_G_PEAK_LVL, n, lvlView (Map.get {} s.tenants n).g.k)]
  | .srch => (List.range 32).map fun p =>
      (Reg.CACHE_CFG_DIRTY, p, ((s.srch.lease.filter fun e => e.1 == p).map fun e => e.2.2.length).foldl (· + ·) 0)
  | .mon => (List.range 8).flatMap fun u =>
      let x := (Map.get {} s.units u).shadow
      [(Reg.UNIT_COUNT, u, x.count), (Reg.UNIT_SUM, u, x.sum), (Reg.UNIT_MIN, u, x.min), (Reg.UNIT_MAX, u, x.max),
       (Reg.UNIT_UNDER, u, x.under), (Reg.UNIT_DROPPED, u, x.dropped)]
  | .elog =>
    let j := (s.eng (Fin.ofNat 64 (s.fld pg Reg.ELOG_JRNL_SEL_ENGINE))).journal
    wordViews Reg.ELOG_JRNL_DATA_DATA 8 ((j.getD (s.fld pg Reg.ELOG_JRNL_SEL_INDEX) 0).toNat)
  | .qrm => [(Reg.QRM_STAT_LEADER, 0, s.leads.toNat), (Reg.QRM_STAT_WITNESS, 0, s.isWitness.toNat)]
  | .time => [(Reg.TIME_NOW_NS, 0, s.now)]
  | .pin =>
    let oe := s.fld .pin Reg.PIN_GPIO_OE_OE
    let ext := s.fld .pin Reg.PIN_GPIO_IN_IN
    [(Reg.PIN_GPIO_IN_IN, 0, Nat.lor (Nat.land oe (s.fld .pin Reg.PIN_GPIO_OUT_OUT)) (ext - Nat.land ext oe))]
  | .uart => [(Reg.UART_STAT_TX_LEVEL, 0, s.uart.tx.length), (Reg.UART_STAT_RX_LEVEL, 0, s.uart.rx.length)]
  | .dev =>
    [(Reg.DEV_SKU_BIN, 0, s.fuses.binB.toNat), (Reg.DEV_SERIAL_LO_SERIAL_LO, 0, bits s.fuses.serial.toNat 0 32),
     (Reg.DEV_SERIAL_HI_SERIAL_HI, 0, bits s.fuses.serial.toNat 32 32)]
  | _ => []

/-- ALERT_N is pulled low (Table 18-8). -/
def State.alertLow (s : State) : Bool := s.flag .pin Reg.PIN_FUNC_ALERT && s.flag .pin Reg.PIN_ALERT_ASSERT

/-- PG_STAT of a page (Table 17-4). -/
def State.pgStat (s : State) (pg : Page) : List (Fld × Nat × Nat) :=
  [(Reg.PG_STAT_BUSY, 0, (!s.blockIdle pg).toNat), (Reg.PG_STAT_ERR, 0, (s.fld pg Reg.PG_ERR_CODE != 0).toNat),
   (Reg.PG_STAT_IRQ, 0, (s.irqPending pg).toNat), (Reg.PG_STAT_LOCKED, 0, (s.locked pg).toNat)]

/-- A word of a page with the views that lie in it. -/
def State.viewWord (s : State) (pg : Page) (o : Nat) (l : List (Fld × Nat × Nat)) : Nat :=
  l.foldl (fun v e =>
    match e.1.hit o with
    | some (i, j) =>
      if i = e.2.1 then bits (withBits (v * 2 ^ (32 * j)) e.1.lo e.1.width e.2.2) (32 * j) 32 else v
    | none => v) (s.word (pg.base + o)).toNat

/-- A half of a counter, live or from the snapshot as VIEW says (R305 to R307). -/
def State.counterWord (s : State) (pg : Page) (o : Nat) : Nat :=
  let m := if s.flag pg Reg.CNT_CTRL_VIEW then s.shadow else s.cnt
  bits (Map.get 0 m (pg.base + o / 8 * 8)).toNat (if o % 8 < 4 then 0 else 32) 32

/-- The bins of a capture unit, as its shadow has them (Table 13-4). -/
def State.binWord (s : State) (o : Nat) : Option Nat :=
  let k := (o - 0x400) % 0x180
  if 0x400 ≤ o ∧ 0x40 ≤ k ∧ k < 0x140 then some (Map.get 0 (Map.get {} s.units ((o - 0x400) / 0x180)).shadow.bins ((k - 0x40) / 4))
  else none

/-- A word of ELOG_RECENT (Table 14-11). -/
def State.recentWord (s : State) (o : Nat) : Option Nat :=
  if 0x400 ≤ o ∧ o < 0x800 then some (BV (s.elog.recent.getD ((o - 0x400) / 64) 0) (o % 64 * 8) 32) else none

/-- A word of the PF's Pending Bit Array (Table 17-2). -/
def State.pbaWord (s : State) (k : Nat) : Nat :=
  (List.range 32).foldl (fun v i => if s.pcie.pend.contains (32 * k + i) then v + 2 ^ i else v) 0

/-- What the 32-bit word at a BAR0 address reads as: zero where nothing is (R380) and above the header of a page that is not
ready (R349). -/
def State.readWord (s : State) (a : Nat) : Nat :=
  match Page.at a with
  | none =>
    if 0x401000 ≤ a ∧ a < 0x401020 then s.pbaWord ((a - 0x401000) / 4)
    else if 0x260000 ≤ a ∧ a < 0x270000 then s.qpWord (a - 0x260000)
    else if bar0Mapped a then (s.word a).toNat
    else 0
  | some pg =>
    let o := a % 4096
    if o = 0x0C then s.viewWord pg o (s.pgStat pg)
    else if o < 0x50 then (s.word a).toNat
    else if o < 0x100 then s.counterWord pg o
    else if s.ready pg then (if pg = .mon then s.binWord o else if pg = .elog then s.recentWord o else none).getD (s.viewWord pg o (s.views pg))
    else 0

end Sys2Proof.Machine
end

