-- ==== Sys2Proof/Tests/Slice0.lean ====
section
/-! SUPPORT. Tests of single steps, the refusals of WellFormed, and for every statement states and operands that meet its
hypotheses. -/

set_option Elab.async false
set_option linter.unusedVariables false

namespace Sys2Proof.Tests
open Sys2Proof Sys2Proof.Machine

/-- The reset state with register fields set. -/
def st (l : List (Place × Nat)) : State := l.foldl (fun s x => s.setFld x.1.1 x.1.2.1 x.2 x.1.2.2) State.reset

/-! ## Well-formedness: each check refuses a term -/

def okReq : MemReq := { tc := 0, cacheable := false, placeAck := false, len8 := 31, srcFeng := 0, srcNode := 4095, tag := 511,
                        node := 4095, part := 0, offset := 2 ^ 47 - 1, key := 0, gen := 65535, epoch := 65535, rsvZero := true,
                        data := [] }
def okResp : MemResp := { status := 255, noCache := false, plain := false, dstFeng := 0, dstNode := 4095, tag := 511, detail := 0,
                          data := [] }
def okQReq : QpReq := { tc := 0, last := true, place := false, prov := false, replace := false, srcNode := 4095, dstQpn := 0,
                        psn := 16777215, specEpoch := 255, node := 4095, part := 0, offset := 0, key := 0, gen := 0, fireTag := 65535,
                        imm := 0, epoch := 0, srcQpn := 0, wrLen := 0, payload := [] }
def okQResp : QpResp := { status := 255, dstNode := 4095, dstQpn := 0, psn := 16777215, sack := 0, payload := [] }
def okFlit : Flit := { seq := 4095, replay := false, ackSeq := 4095, ackValid := true, retryReq := false, crTc := 0, crCount := 8191,
                       firstPkt := 255, tc := 0, payload := [], fecCorrected := false, fecOk := true, crcOk := true }
def okMsg : MoverMsg := { fromNode := 4095, fromPart := 0, ctrlQp := 0, copy := false, resume := false, status := 255, ctx := 0,
                          reqId := 0, layers := 256, pages := 16384, stride := 0, base := 0, base2 := 0, key := 0, sideBytes := 4095,
                          ttlMs := 0, kvLen := 0, stage := 0 }
/-- Node 9 with page 5 resident and one region over it. -/
def fab : State :=
  { st [(Reg.PG_READY_READY.place .tier, 1), (Reg.PG_READY_READY.place (.bas 0), 1), (Reg.BAS_MEM_STAT_ONLINE.place (.bas 0), 1),
        (Reg.BAS_MEM_FRAMES_FRAMES.place (.bas 0), 786432), (Reg.DEV_NODE_NODE.place .dev, 9), (Reg.DEV_NODE_VALID.place .dev, 1),
        (Reg.PG_READY_READY.place (.disp 0), 1), (Reg.PG_READY_READY.place (.feng 7), 1), (Reg.PORT_STAT_LINK_UP.place (.port 3), 1)] with
    tier := { pages := [(5, { st := .resident .basin, frame := 0, frameTier := .basin })],
              dirs := [(0, { valid := true, used := 1, leaf := 257 })], leaves := [(257, true)], frames := [(67108864, true)] }
    regions := [(0, { valid := true, read := true, write := true, atomic := true, cacheOk := true, base := 0, lenM1 := 1048575,
                      rgFirst := 0, rgCount := 64 })]
    mem := [(327688, 5), (327690, 9)] }

/-- A request of eight bytes of page 5 by engine 7 of a node. -/
def reqBy (node : Nat) (data : List Byte) : MemReq :=
  { tc := 2, cacheable := false, placeAck := true, len8 := 0, srcFeng := 7, srcNode := node, tag := 0, node := 9, part := 0,
    offset := 327688, key := 0, gen := 0, epoch := 0, rsvZero := true, data := data }

/-- The same request in slot 0 of its engine. -/
def slotted (y : ReqKind) (r : MemReq) (s : State) : State :=
  { s with engines := [(7, { slots := [(0, some { kind := y, req := r, issued := 0, noInstall := false, planes := [0], answers := [] })] })] }

/-- Device 9 with page 5 resident, engine 6 ready and port 3 up, for work on queue pair 1541. -/
def rigBase : State :=
  { st [(Reg.PG_READY_READY.place .tier, 1), (Reg.PG_READY_READY.place (.bas 0), 1), (Reg.BAS_MEM_STAT_ONLINE.place (.bas 0), 1),
        (Reg.BAS_MEM_FRAMES_FRAMES.place (.bas 0), 786432), (Reg.PG_READY_READY.place (.feng 6), 1),
        (Reg.PG_READY_READY.place (.disp 3), 1), (Reg.PG_READY_READY.place (.disp 0), 1), (Reg.DEV_NODE_NODE.place .dev, 9),
        (Reg.PORT_STAT_LINK_UP.place (.port 3), 1)] with
    tier := { pages := [(5, { st := .resident .basin, frame := 0, frameTier := .basin })],
              dirs := [(0, { valid := true, used := 1, leaf := 257 })], leaves := [(257, true)], frames := [(67108864, true)] } }

/-- A queue pair in RTS whose rings lie in page 5. -/
def rigQp : Qp :=
  { remNode := 4, remPart := 1, remQpn := 600, sqBase := 327680, rqBase := 331776, cqBase := 335872, sqLog2 := 4, rqLog2 := 4,
    cqLog2 := 4, retryLimit := 2, ackTo := 3, rnrUs := 5, rnrLimit := 3, holdTo := 4, st := .rts }

/-- That device with this queue pair, and a work request in slot 0 of its ring. -/
def rig (x : Qp) (w : Nat := 0) : State :=
  { rigBase with mem := Map.store [] 327680 (bytesOfNat 64 w), qps := [(1541, x)] }

def okHdr : QHdr := { src := 4095, dst := 4095, seq := 65535, epoch := 0 }

theorem test_wf_accepts : ([.load okReq, .loadResp okResp, .qwrite okQReq, .qack okQResp, .dataFlitReceive 0 okFlit,
    .openPush 0 okMsg, .hbAck okHdr, .zeroFillComplete (2 ^ 31 - 1), .tierRead .host (2 ^ 47 - 1) 65536] : List Instr).all
    Instr.wf = true := by decide +kernel

theorem test_wf_requests : ([.load { okReq with len8 := 32 }, .store { okReq with srcNode := 4096 }, .fadd64 { okReq with tag := 512 },
    .swap64 { okReq with node := 4096 }, .flush { okReq with offset := 2 ^ 47 } 0, .inv { okReq with gen := 65536 },
    .cas64 { okReq with epoch := 65536 }, .for64 { okReq with data := List.replicate 257 0 }, .loadResp { okResp with status := 256 },
    .storeAck { okResp with dstNode := 4096 }, .atomicResp { okResp with tag := 512 },
    .nak { okResp with data := List.replicate 257 0 } 0] : List Instr).any Instr.wf = false := by decide +kernel

theorem test_wf_queue_pairs : ([.qwrite { okQReq with srcNode := 4096 }, .qsend { okQReq with psn := 2 ^ 24 },
    .qflush { okQReq with specEpoch := 256 }, .qcancel { okQReq with node := 4096 }, .qwrite { okQReq with offset := 2 ^ 47 },
    .qwrite { okQReq with gen := 65536 }, .qwriteTrig { okQReq with fireTag := 65536 }, .qsend { okQReq with imm := 2 ^ 32 },
    .qwrite { okQReq with epoch := 65536 }, .qreadReq { okQReq with wrLen := 2 ^ 32 }, .qack { okQResp with status := 256 },
    .qack { okQResp with dstNode := 4096 }, .qnak { okQResp with psn := 2 ^ 24 }, .qack { okQResp with sack := 2 ^ 64 },
    .qpDbSqTail 0 (2 ^ 21), .qpDbRqTail 0 (2 ^ 21), .qpDbCqHead 0 (2 ^ 21), .trigFire 0 65536, .holdExpired 0 65536,
    .writeTriggerEffect 0 (2 ^ 24), .qflushAnswer 0 (2 ^ 24), .cancelApply 0 (2 ^ 24)] : List Instr).any Instr.wf = false := by decide +kernel

theorem test_wf_links : ([.dataFlitReceive 0 { okFlit with seq := 4096 }, .controlFlitReceive 0 { okFlit with ackSeq := 4096 },
    .idleFlitReceive 0 { okFlit with crCount := 8192 }, .dataFlitReceive 0 { okFlit with firstPkt := 256 },
    .dataFlitReceive 0 { okFlit with payload := List.replicate 245 0 }] : List Instr).any Instr.wf = false := by decide +kernel

theorem test_wf_movers : ([.openPush 0 { okMsg with fromNode := 4096 }, .openPark 0 { okMsg with status := 256 },
    .openAck 0 { okMsg with reqId := 2 ^ 32 }, .pullReq 0 { okMsg with layers := 257 }, .pullNak 0 { okMsg with pages := 16385 },
    .close 0 { okMsg with stride := 2 ^ 24 }, .closeAck 0 { okMsg with base := 2 ^ 47 }, .expire 0 { okMsg with base2 := 2 ^ 47 },
    .openPush 0 { okMsg with sideBytes := 4096 }, .openPark 0 { okMsg with ttlMs := 2 ^ 32 },
    .openPush 0 { okMsg with kvLen := 2 ^ 32 }, .openPush 0 { okMsg with stage := 2 ^ 47 }, .attachDone 0 0 16384,
    .parkRetryTimer 0 (2 ^ 32)] : List Instr).any Instr.wf = false := by decide +kernel

theorem test_wf_quorum : ([.hbAck { okHdr with src := 4096 }, .commitAck { okHdr with dst := 4096 }, .hbAck { okHdr with seq := 65536 },
    .hbAck { okHdr with epoch := 2 ^ 64 }, .suspect okHdr 4096 0, .propose okHdr ⟨2 ^ 64, [], [], []⟩,
    .propose okHdr ⟨0, [(4096, 0)], [], []⟩, .commit okHdr ⟨0, [], [(4096, 0)], []⟩, .vote okHdr (2 ^ 64) true,
    .syncReq okHdr (2 ^ 64), .digest 0 ⟨{ okHdr with src := 4096 }, 0, 0, 0, none, 0, 0⟩,
    .digest 0 ⟨okHdr, 0, 65536, 0, none, 0, 0⟩,
    .digest 0 ⟨okHdr, 0, 0, 2 ^ 32, none, 0, 0⟩] : List Instr).any Instr.wf = false := by decide +kernel

theorem test_wf_pages : ([.tierRead .host (2 ^ 47) 1, .tierRead .host 0 65537, .tierWrite .host (2 ^ 47) [],
    .zeroFillComplete (2 ^ 31), .memUncorrectableError (2 ^ 31), .migrationStart (2 ^ 31) .deep, .migrationCommit (2 ^ 31),
    .migrationTimeout (2 ^ 31), .invAck (2 ^ 31) 0, .invAck 0 4096, .invTimeout (2 ^ 31), .tierCapacityDrop .basin 65536,
    .registerWrite .host (2 ^ 23) 4 0, .registerWrite .host 0 4097 0, .bar2Read false (2 ^ 36) 1, .bar2Read false 0 4097,
    .bar2AtomicOp false (2 ^ 36), .bar2Write false (2 ^ 36) []] : List Instr).any Instr.wf = false := by decide +kernel

theorem test_wf_others : ([.deferDeadline 0 (2 ^ 32), .idleParkTimer 0 (2 ^ 32), .tokHead 0 (2 ^ 21), .cplHead 0 65536,
    .oppTick [1, 2, 3], .oppTick [1, 2, 3, 101], .thermalLimit 0 32768 0, .thermalTrip 32768 0, .thermRelease (-32769),
    .timeMessage (2 ^ 64) 0 0 0, .writeBuf 0 (2 ^ 32) [] true, .ledgRdGo 2048 true, .flashEraseDone 1024 true 0,
    .flashProgramDone 0 true (2 ^ 32), .ledgWriteDone 5, .pcieLinkChange false 7 16 true false,
    .pcieLinkChange false 6 17 true false, .vfEnableWrite 65 true] : List Instr).any Instr.wf = false := by decide +kernel

/-! ## Single steps -/

theorem test_reset_queue : State.reset.pending = [] := rfl

/-- A step with one command waiting. -/
def stepOf (s : State) (c : Instr) : Option State :=
  match step { s with pending := [c] } with
  | .next t => some t
  | _ => none

theorem test_idle_ticks : (match step State.reset with | .next t => t.now | _ => 0) = 1 := by decide +kernel

theorem test_step_takes_the_front :
    (match step { State.reset with pending := [.dispFailClear 3, .aerErrorLogged true] } with
      | .next t => t.pending
      | _ => []) = [.aerErrorLogged true] := by decide +kernel

/-- R132: an UNWRITTEN page reads as zeros. -/
theorem test_unwritten_reads_zero :
    ((stepOf (st [(Reg.PG_READY_READY.place .tier, 1)]) (.tierRead .host 5 2)).map (·.out)) =
      some [.accessDone .host 5 [0, 0]] := by decide +kernel

/-- R349: a page that is not ready ignores writes. -/
theorem test_unready_page_ignores :
    ((stepOf State.reset (.devNodeWrite 0x80000007)).map fun t => t.fld .dev Reg.DEV_NODE_NODE) = some 0 := by decide +kernel

theorem test_node_write :
    ((stepOf (st [(Reg.PG_READY_READY.place .dev, 1)]) (.devNodeWrite 0x80000007)).map fun t => t.fld .dev Reg.DEV_NODE_NODE) =
      some 7 := by decide +kernel

/-- R305: a counter at its limit stays there. -/
theorem test_counter_stays :
    ((stepOf { State.reset with cnt := [(0x70C0, 0xFFFFFFFFFFFFFFFF)] } (.aerErrorLogged true)).map fun t => t.counter .pcie 0xC0) =
      some (2 ^ 64 - 1) := by decide +kernel

/-- R384: PG_CTRL.LOCK, once set, refuses a locked register with WR_LOCKED. -/
theorem test_locked_refuses :
    ((stepOf (st [(Reg.PG_READY_READY.place .dev, 1), (Reg.PG_CTRL_LOCK.place .dev, 1)]) (.devNodeWrite
      0x80000007)).map fun t => (t.fld .dev Reg.DEV_NODE_NODE, t.fld .dev Reg.PG_ERR_CODE)) = some (0, 0xF0) := by decide +kernel

/-! ## The worked block of the compression chapter: a BF16 block of 16 nonzero words and 240 zero words -/

def workedWords : List Nat :=
  [0x3EC0, 0xBF00, 0x3E00, 0x3E80, 0x3D80, 0xBE80, 0x3F00, 0x3E00, 0x3E80, 0x3E80, 0xBF00, 0x3E00, 0x3D80, 0x3E80, 0x3F00, 0x3E00]

theorem test_worked_block :
    ((encodeBlock 2 0xFFFF 0 ((workedWords.map (bytesOfNat 2)).flatten ++ List.replicate 480 0)).1.take 9) =
      [0x0E, 0x6F, 0x30, 0x00, 0xAD, 0x00, 0x10, 0x00, 0x16] := by decide +kernel

theorem test_worked_block_signs :
    (((encodeBlock 2 0xFFFF 0 ((workedWords.map (bytesOfNat 2)).flatten ++ List.replicate 480 0)).1.drop 30).take 3) =
      [0x22, 0x04, 0x40] := by decide +kernel

/-! ## The hypotheses of each statement can be met -/

theorem wit_CompressionIsLossless : ∃ (fmt mask base pos : Nat) (raw : List Byte) (img : Nat → Byte), raw.length = 512 ∧
    ∀ i, i < (encodeBlock fmt mask base raw).1.length → img (pos + i) = (encodeBlock fmt mask base raw).1.getD i 0 :=
  ⟨2, 1, 0, 64, List.replicate 512 7, fun i => (encodeBlock 2 1 0 (List.replicate 512 7)).1.getD (i - 64) 0, List.length_replicate
   .., fun i _ => congrArg (fun j => (encodeBlock 2 1 0 (List.replicate 512 7)).1.getD j 0) (Nat.add_sub_cancel_left 64 i)⟩

/-- The hypotheses of HeaderWritesTakeEffect can be met, clause by clause. -/
theorem wit_HeaderWritesTakeEffect :
    (∃ (s : State) (pg : Page), s.ready pg = true) ∧
    (∃ (s : State) (pg : Page) (v : Word), s.ready pg = true) ∧
    (∃ (s : State) (pg : Page) (v : Word), s.ready pg = true) ∧
    (∃ (s : State) (pg : Page) (c : Option (Fin 256)), s.ready pg = true) ∧
    (∃ (s : State) (pg : Page) (v : Word) (c : Option (Fin 256)), s.ready pg = false) :=
  ⟨⟨st
     [(Reg.PG_READY_READY.place .mon, 1), (Reg.PG_ERR_CODE.place .mon, 3), (Reg.PG_IRQ_STAT.place .mon, 3), (Reg.PG_IRQ_EN.place .mon, 1)],
     .mon, by decide +kernel⟩,
   ⟨st
     [(Reg.PG_READY_READY.place .mon, 1), (Reg.PG_ERR_CODE.place .mon, 3), (Reg.PG_IRQ_STAT.place .mon, 3), (Reg.PG_IRQ_EN.place .mon, 1)],
     .mon, 2, by decide +kernel⟩,
   ⟨st
     [(Reg.PG_READY_READY.place .mon, 1), (Reg.PG_ERR_CODE.place .mon, 3), (Reg.PG_IRQ_STAT.place .mon, 3), (Reg.PG_IRQ_EN.place .mon, 1)],
     .mon, 3, by decide +kernel⟩,
   ⟨st
     [(Reg.PG_READY_READY.place .mon, 1), (Reg.PG_ERR_CODE.place .mon, 3), (Reg.PG_IRQ_STAT.place .mon, 3), (Reg.PG_IRQ_EN.place .mon, 1)],
     .mon, none, by decide +kernel⟩,
   ⟨State.reset, .mon, 1, none, by decide +kernel⟩⟩

/-- The hypotheses of RegisterWriteTakesEffect can be met, clause by clause. -/
theorem wit_RegisterWriteTakesEffect :
    (∃ (s : State) (r : Requester) (addr : Nat) (width : Nat) (v : Word64), (¬ ((width = 4 ∧ addr % 4 = 0) ∨ (width =
      8 ∧ addr % 8 = 0)))) ∧
    (∃ (s : State) (r : Requester) (addr : Nat) (width : Nat) (v : Word64), ((width = 4 ∧ addr % 4 = 0) ∨ (width = 8
      ∧ addr % 8 = 0)) ∧ bar0Mapped addr = false) ∧
    (∃ (s : State) (r : Requester) (addr : Nat) (v : Word64) (pg : Page), addr % 4 = 0 ∧ (Page.at addr = some pg) ∧
      s.ready pg = false) ∧
    (∃ (s : State) (r : Requester) (pg : Page) (o : Nat) (v : Word64) (f : Fld) (i : Nat), o < 4096 ∧ o % 4 = 0 ∧
      s.ready pg = true ∧ (pg = .mon ∧ (o = 0x100 ∨ o = 0x104) → s.fld .mon Reg.MON_SNAP_ALL_ARM = 0) ∧ f ∈ fieldsAt
      pg o ∧ (f.hit o = some (i, 0)) ∧ (f.acc = .rw ∨ f.acc = .rwl ∧ s.locked pg = false) ∧ f.lo + f.width ≤ 32 ∧
      f.ok (bits v.toNat f.lo f.width) = true ∧ ((∀ g ∈ fieldsAt pg o, g ∉ relFields pg.kind) ∨ (s.each (fieldsAt pg
      o) fun u g => u.writeField pg o (BitVec.ofNat 32 v.toNat) g).relOk pg = true)) ∧
    (∃ (s : State) (r : Requester) (addr : Nat) (v : Word64), addr % 8 = 0 ∧ bar0Mapped addr = true) ∧
    (∃ (s : State) (r : Requester) (pg : Page) (o : Nat) (v : Word64) (f : Fld) (i : Nat), o < 4096 ∧ o % 4 = 0 ∧
      s.ready pg = true ∧ pg ≠ .qrm ∧ (pg = .mon ∧ (o = 0x100 ∨ o = 0x104) → s.fld .mon Reg.MON_SNAP_ALL_ARM = 0) ∧ f
      ∈ fieldsAt pg o ∧ (f.hit o = some (i, 0)) ∧ f.lo + f.width ≤ 32 ∧ (f.acc = .rwl ∧ s.locked pg = true ∨ (f.acc =
      .rw ∨ f.acc = .rwl) ∧ f.ok (bits v.toNat f.lo f.width) = false)) ∧
    (∃ (s : State) (r : Requester) (pg : Page) (o : Nat) (v : Word64) (f : Fld) (i : Nat), o < 4096 ∧ o % 4 = 0 ∧
      s.ready pg = true ∧ f ∈ fieldsAt pg o ∧ (f.hit o = some (i, 0)) ∧ f.lo + f.width ≤ 32 ∧ f ∈ relFields pg.kind ∧
      ((s.each (fieldsAt pg o) fun u g => u.writeField pg o (BitVec.ofNat 32 v.toNat) g).relOk pg = false)) :=
  ⟨⟨State.reset, .host, 0x102, 4, 5, by decide +kernel⟩,
   ⟨State.reset, .host, 0xA000, 4, 5, by decide +kernel⟩,
   ⟨State.reset, .host, 0x304108, 3, .mon, by decide +kernel⟩,
   ⟨st [(Reg.PG_READY_READY.place .mon, 1)], .host, .mon, 8, 0x0102, Reg.PG_CTRL_VEC, 0, by decide +kernel⟩,
   ⟨State.reset, .host, 0x100, 5, by decide +kernel⟩,
   ⟨st [(Reg.PG_READY_READY.place .time, 1), (Reg.PG_CTRL_LOCK.place .time, 1)], .host, .time, 0x108, 1,
     Reg.TIME_CTRL_MASTER, 0, by decide +kernel⟩,
   ⟨st [(Reg.PG_READY_READY.place (.move 3), 1)], .wellhead, .move 3, Reg.MOVE_QP_CFG_FIRST.off, 0x02000020,
     Reg.MOVE_QP_CFG_FIRST, 0, by decide +kernel⟩⟩

/-- The hypotheses of RoleChangesProceed can be met, clause by clause. -/
theorem wit_RoleChangesProceed :
    (∃ (s : State) (p : PartId) (target : Fin 4), s.ready (.disp p) = true ∧ s.fenced p = false ∧ s.fld (.disp p)
      Reg.DISP_ROLE_STATE = 0 ∧ target.val ≠ s.fld (.disp p) Reg.DISP_ROLE_CUR ∧ (s.fld (.disp p) Reg.DISP_ROLE_CUR =
      1 ∨ s.fld (.disp p) Reg.DISP_ROLE_CUR = 2)) ∧
    (∃ (s : State) (p : PartId) (target : Fin 4), s.ready (.disp p) = true ∧ s.fenced p = false ∧ s.fld (.disp p)
      Reg.DISP_ROLE_STATE = 0 ∧ target.val ≠ s.fld (.disp p) Reg.DISP_ROLE_CUR ∧ (s.fld (.disp p) Reg.DISP_ROLE_CUR =
      0 ∨ s.fld (.disp p) Reg.DISP_ROLE_CUR = 3)) ∧
    (∃ (s : State) (p : PartId) (target : Fin 4), s.ready (.disp p) = true ∧ s.fenced p = false ∧ s.fld (.disp p)
      Reg.DISP_ROLE_STATE = 0 ∧ target.val ≠ s.fld (.disp p) Reg.DISP_ROLE_CUR) ∧
    (∃ (s : State) (p : PartId) (target : Fin 4) (evict : Bool), s.ready (.disp p) = true ∧ s.fenced p = false ∧
      s.fld (.disp p) Reg.DISP_ROLE_STATE = 0 ∧ target.val = s.fld (.disp p) Reg.DISP_ROLE_CUR) ∧
    (∃ (s : State) (p : PartId) (target : Fin 4), s.ready (.disp p) = true ∧ s.fenced p = false ∧ s.fld (.disp p)
      Reg.DISP_ROLE_STATE = 1 ∧ target.val ≠ s.fld (.disp p) Reg.DISP_ROLE_TARGET) ∧
    (∃ (s : State) (p : PartId) (target : Fin 4) (evict : Bool), s.fenced p = false ∧ s.fld (.disp p)
      Reg.DISP_ROLE_STATE = 5) ∧
    (∃ (s : State) (p : PartId) (target : Fin 4) (evict : Bool), s.ready (.disp p) = true ∧ s.fenced p = true) ∧
    (∃ (s : State) (p : PartId), s.fld (.disp p) Reg.DISP_ROLE_STATE = 1 ∧ s.held p = 0) ∧
    (∃ (s : State) (p : PartId), (s.fld (.disp p) Reg.DISP_ROLE_STATE ≠ 1 ∨ s.held p ≠ 0)) ∧
    (∃ (s : State) (p : PartId), s.fld (.disp p) Reg.DISP_ROLE_STATE = 2 ∧ s.recovery = false) ∧
    (∃ (s : State) (p : PartId), s.fld (.disp p) Reg.DISP_ROLE_STATE = 3 ∧ s.ready .wlh = true ∧ s.ready (.shl
      (Fin.ofNat 4 (p.val / 8))) = true ∧ s.pctlGood = true) ∧
    (∃ (s : State) (p : PartId), s.fld (.disp p) Reg.DISP_ROLE_STATE = 3) :=
  ⟨⟨st [(Reg.PG_READY_READY.place (.disp 3), 1), (Reg.DISP_ROLE_CUR.place (.disp 3), 2)], 3, 1, by decide +kernel⟩,
   ⟨st [(Reg.PG_READY_READY.place (.disp 3), 1), (Reg.PWR_TILE_GATE_MASK.place .pwr, 8)], 3, 1, by decide +kernel⟩,
   ⟨st [(Reg.PG_READY_READY.place (.disp 3), 1), (Reg.DISP_ROLE_CUR.place (.disp 3), 2)], 3, 1, by decide +kernel⟩,
   ⟨st [(Reg.PG_READY_READY.place (.disp 3), 1), (Reg.DISP_ROLE_CUR.place (.disp 3), 2)], 3, 2, true,
     by decide +kernel⟩,
   ⟨st [(Reg.PG_READY_READY.place (.disp 3), 1), (Reg.DISP_ROLE_STATE.place (.disp 3), 1)], 3, 2, by decide +kernel⟩,
   ⟨st [(Reg.DISP_ROLE_STATE.place (.disp 3), 5), (Reg.PG_READY_FAILED.place (.disp 3), 1)], 3, 2, false,
     by decide +kernel⟩,
   ⟨st [(Reg.PG_READY_READY.place (.disp 3), 1), (Reg.QRM_FENCE_DP_MASK.place .qrm, 8)], 3, 2, false,
     by decide +kernel⟩,
   ⟨st
     [(Reg.DISP_ROLE_STATE.place (.disp 3), 1), (Reg.DISP_ROLE_CUR.place (.disp 3), 1), (Reg.ADP_SLOT_REFS.place (.move 3) 5, 7), (Reg.PG_READY_READY.place (.tile 25), 1)],
     3, by decide +kernel⟩,
   ⟨st [], 3, by decide +kernel⟩,
   ⟨st [(Reg.PG_READY_READY.place (.disp 3), 1), (Reg.DISP_ROLE_STATE.place (.disp 3), 2)], 3, by decide +kernel⟩,
   ⟨{ st [(Reg.DISP_ROLE_STATE.place (.disp 3), 3), (Reg.DISP_ROLE_TARGET.place (.disp 3), 2), (Reg.PG_READY_READY.place .wlh, 1), (Reg.PG_READY_READY.place (.shl 0), 1), (Reg.PG_IRQ_EN.place (.disp 3), 1)] with wlh := { running := true, pctlHash := BitVec.ofNat 384 (natBE (sha384 [])) } },
     3, by decide +kernel⟩,
   ⟨st [(Reg.DISP_ROLE_STATE.place (.disp 3), 3), (Reg.DISP_ROLE_CUR.place (.disp 3), 2)], 3, by decide +kernel⟩⟩

/-- The hypotheses of OperatingPointsMove can be met, clause by clause. -/
theorem wit_OperatingPointsMove :
    (∃ (s : State) (q : Fin 4) (cap : Fin 8) (floor : Fin 8), s.ready .pwr = true ∧ min floor.val s.topOpp ≤ min
      cap.val s.topOpp) ∧
    (∃ (s : State) (q : Fin 4) (cap : Fin 8) (floor : Fin 8), s.ready .pwr = true ∧ min cap.val s.topOpp < min
      floor.val s.topOpp) ∧
    (∃ (s : State) (busy : List Nat) (q : Fin 4) (cur : Nat) (up : Nat) (v1 : Nat) (v2 : Nat) (v3 : Nat) (v4 : Nat)
      (v5 : Nat), cur = s.fld .pwr Reg.PWR_OPP_CUR q.val ∧ (v1 = (if 90 < busy.getD q.val 0 then min (cur + 1)
      s.topOpp else if busy.getD q.val 0 < 50 then cur - 1 else cur)) ∧ v2 = max (s.fld .pwr Reg.PWR_OPP_FLOOR q.val)
      (min v1 (s.fld .pwr Reg.PWR_OPP_CAP q.val)) ∧ (v3 = (if q.val ∈ s.pwr.thermHot then min v2 (cur - 1) else if
      q.val + 4 ∈ s.pwr.thermHot then min v2 cur else v2)) ∧ up = s.oppTarget q.val ∧ (v4 = (if q.val ∈ s.pwr.currHit
      then min v3 up else v3)) ∧ (v5 = (if 1000 < Map.get 0 s.pwr.stretches q.val then min v4 up else v4))) ∧
    (∃ (s : State) (q : Fin 4) (target : Nat) (cur : Nat) (next : Nat), ((s.pwr.moving.find? fun m => m.1 == q.val) =
      some (q.val, target)) ∧ cur = s.fld .pwr Reg.PWR_OPP_CUR q.val ∧ target ≤ s.topOpp ∧ target ≠ cur ∧ (next = (if
      cur < target then cur + 1 else cur - 1))) ∧
    (∃ (s : State) (q : Fin 4) (temp : Int) (sensor : Fin 256) (lim : Int), lim = (s.fld .pwr Reg.PWR_THERM_LIMIT_C :
      Int) * 8) ∧
    (∃ (s : State) (q : Fin 4), Map.get 0 s.pwr.stretches q.val ≠ 1000) ∧
    (∃ (s : State) (q : Fin 4), Map.get 0 s.pwr.stretches q.val = 1000) ∧
    (∃ (s : State) (rail : Fin 16) (mv : Nat) (da : Nat), 1 ≤ rail.val ∧ rail.val ≤ 13) ∧
    (∃ (s : State) (rail : Fin 16), 1 ≤ rail.val ∧ rail.val ≤ 13 ∧ Map.get 0 s.pwr.railMiss rail.val ≠ 2) ∧
    (∃ (s : State) (rail : Fin 16), 1 ≤ rail.val ∧ rail.val ≤ 13 ∧ Map.get 0 s.pwr.railMiss rail.val = 2) ∧
    (∃ (s : State) (p : PartId) (sum : Nat) (v : Nat), (sum = ((allParts.filter fun p => !s.fenced p).map fun p =>
      s.fld .pwr Reg.PWR_SHARE_SHARE p.val).foldl (· + ·) 0) ∧ v = vddOf (s.fld .pwr Reg.PWR_OPP_CUR (p.val / 8))) :=
  ⟨⟨st [(Reg.PG_READY_READY.place .pwr, 1)], 1, 6, 2, by decide +kernel⟩,
   ⟨st [(Reg.PG_READY_READY.place .pwr, 1)], 1, 2, 6, by decide +kernel⟩,
   ⟨{ st [(Reg.PG_READY_READY.place .pwr, 1), (Reg.PWR_OPP_CUR.place .pwr 1, 3), (Reg.PWR_OPP_CUR.place .pwr 2, 4)] with pwr := { thermHot := [1], currHit := [2], moving := [(3, 2)] } },
     [95, 95, 20, 60], 1, 3, 3, 4, 4, 2, 2, 2, by decide +kernel⟩,
   ⟨{ st [(Reg.PG_READY_READY.place .pwr, 1), (Reg.PWR_OPP_CUR.place .pwr 1, 3)] with pwr := { moving := [(1, 5)] } },
     1, 5, 3, 4, by decide +kernel⟩,
   ⟨st [(Reg.PG_READY_READY.place .pwr, 1), (Reg.PWR_OPP_CUR.place .pwr 1, 3)], 1, 900, 7, ((st [] ).fld .pwr
     Reg.PWR_THERM_LIMIT_C : Int) * 8, by decide +kernel⟩,
   ⟨st [(Reg.PG_READY_READY.place .pwr, 1)], 1, by decide +kernel⟩,
   ⟨{ st [(Reg.PG_READY_READY.place .pwr, 1), (Reg.PWR_OPP_CUR.place .pwr 1, 3)] with pwr := { stretches := [(1, 1000)] } },
     1, by decide +kernel⟩,
   ⟨st [(Reg.PG_READY_READY.place .pwr, 1), (Reg.PWR_OPP_CUR.place .pwr 1, 3)], 2, 800, 65000, by decide +kernel⟩,
   ⟨st [(Reg.PG_READY_READY.place .pwr, 1)], 1, by decide +kernel⟩,
   ⟨{ st [(Reg.PG_READY_READY.place .pwr, 1)] with pwr := { railMiss := [(5, 2)] } }, 5, by decide +kernel⟩,
   ⟨st [(Reg.PG_READY_READY.place .pwr, 1), (Reg.QRM_FENCE_DP_MASK.place .qrm, 2)], 3, ((allParts.filter fun p =>
     !(st [(Reg.PG_READY_READY.place .pwr, 1), (Reg.QRM_FENCE_DP_MASK.place .qrm, 2)]).fenced p).map fun p => (st
     [(Reg.PG_READY_READY.place .pwr, 1)]).fld .pwr Reg.PWR_SHARE_SHARE p.val).foldl (· + ·) 0, vddOf ((st
     [(Reg.PG_READY_READY.place .pwr, 1)]).fld .pwr Reg.PWR_OPP_CUR 0), by decide +kernel⟩⟩

/-- The hypotheses of PowerDownModesFollowTheirBits can be met, clause by clause. -/
theorem wit_PowerDownModesFollowTheirBits :
    (∃ (s : State) (v : Word), s.ready .pwr = true) ∧
    (∃ (s : State) (v : Word), s.ready .pwr = true) ∧
    (∃ (s : State) (v : Word), s.ready .pwr = true) ∧
    (∃ (s : State) (v : Word), s.ready .pwr = true) ∧
    (∃ (s : State) (v : Word) (no : PartId → Bool), s.ready .pwr = true ∧ (∀ p, no p = (bit v.toNat p.val && !bit
      (s.fld .pwr Reg.PWR_TILE_GATE_MASK) p.val && !(s.stableRole p 0 || s.stableRole p 3)))) ∧
    (∃ (s : State) (u : LpUnit), s.lpSet u = true ∧ u ∉ s.pwr.inMode ∧ u ∉ s.pwr.waking ∧ (∀ e ∈ s.pwr.idleFrom, e.1
      = u → e.2 + s.fld .pwr Reg.PWR_IDLE_IDLE_US * 1000 ≤ s.now) ∧ s.lpIdle u = true ∧ (∀ n, u ≠ .portOff n) ∧ (∀ p,
      u ≠ .tileGate p)) ∧
    (∃ (s : State) (p : PartId), s.lpSet (LpUnit.tileGate p) = true ∧ LpUnit.tileGate p ∉ s.pwr.inMode ∧
      LpUnit.tileGate p ∉ s.pwr.waking ∧ (∀ e ∈ s.pwr.idleFrom, e.1 = (LpUnit.tileGate p) → e.2 + s.fld .pwr
      Reg.PWR_IDLE_IDLE_US * 1000 ≤ s.now) ∧ s.lpIdle (LpUnit.tileGate p) = true) ∧
    (∃ (s : State) (n : PortId), s.lpSet (LpUnit.portOff n) = true ∧ LpUnit.portOff n ∉ s.pwr.inMode ∧ LpUnit.portOff
      n ∉ s.pwr.waking ∧ (∀ e ∈ s.pwr.idleFrom, e.1 = (LpUnit.portOff n) → e.2 + s.fld .pwr Reg.PWR_IDLE_IDLE_US *
      1000 ≤ s.now) ∧ s.lpIdle (LpUnit.portOff n) = true) ∧
    (∃ (s : State) (u : LpUnit), u ∈ s.pwr.waking) :=
  ⟨⟨{ st [(Reg.PG_READY_READY.place .pwr, 1)] with pwr := { inMode := [LpUnit.portLp 1, LpUnit.portLp 3] } }, 2,
     by decide +kernel⟩,
   ⟨{ st [(Reg.PG_READY_READY.place .pwr, 1)] with pwr := { inMode := [LpUnit.portOff 1, LpUnit.portOff 3] } }, 2,
     by decide +kernel⟩,
   ⟨{ st [(Reg.PG_READY_READY.place .pwr, 1)] with pwr := { inMode := [LpUnit.slice 1, LpUnit.slice 3] } }, 2,
     by decide +kernel⟩,
   ⟨{ st [(Reg.PG_READY_READY.place .pwr, 1)] with pwr := { inMode := [.stack 1, .channel 3] } }, 2,
     by decide +kernel⟩,
   ⟨{ st [(Reg.PG_READY_READY.place .pwr, 1), (Reg.PG_READY_READY.place (.disp 2), 1), (Reg.PWR_TILE_GATE_MASK.place .pwr, 10)] with pwr := { inMode := [.tileGate 1, .tileGate 3] } },
     6, fun p => (bit 6 p.val && !bit 10 p.val && !((st
     [(Reg.PG_READY_READY.place .pwr, 1), (Reg.PG_READY_READY.place (.disp 2), 1)]).stableRole p 0 || (st
     [(Reg.PG_READY_READY.place .pwr, 1), (Reg.PG_READY_READY.place (.disp 2), 1)]).stableRole p 3)),
     by decide +kernel⟩,
   ⟨st [(Reg.PWR_PORT_LP_MASK.place .pwr, 8)], .portLp 3, by decide +kernel⟩,
   ⟨st [(Reg.PWR_TILE_GATE_MASK.place .pwr, 8), (Reg.PG_READY_READY.place (.tile 25), 1)], 3, by decide +kernel⟩,
   ⟨st [(Reg.PWR_PORT_OFF_MASK.place .pwr, 8), (Reg.PORT_STAT_LINK_UP.place (.port 3), 1)], 3, by decide +kernel⟩,
   ⟨{ st [] with pwr := { waking := [.tileGate 3, .portLp 1] } }, .tileGate 3, by decide +kernel⟩⟩

/-- The hypotheses of FlitsAreReceivedInOrder can be met, clause by clause. -/
theorem wit_FlitsAreReceivedInOrder :
    (∃ (s : State) (n : PortId) (f : Flit), s.flag (.port n) Reg.PORT_STAT_LINK_UP = true ∧ s.flag .finj
      Reg.FINJ_CTRL_ARM = false ∧ f.fecOk = true ∧ f.crcOk = true ∧ f.retryReq = false ∧ seqAhead f.seq (s.port
      n).exp = 0) ∧
    (∃ (s : State) (n : PortId) (f : Flit), s.flag (.port n) Reg.PORT_STAT_LINK_UP = true ∧ s.flag .finj
      Reg.FINJ_CTRL_ARM = false ∧ f.fecOk = true ∧ f.crcOk = true ∧ 1 ≤ seqAhead f.seq (s.port n).exp ∧ seqAhead
      f.seq (s.port n).exp ≤ 2048) ∧
    (∃ (s : State) (n : PortId) (f : Flit), s.flag (.port n) Reg.PORT_STAT_LINK_UP = true ∧ s.flag .finj
      Reg.FINJ_CTRL_ARM = false ∧ (f.fecOk = false ∨ f.crcOk = false ∨ 2048 < seqAhead f.seq (s.port n).exp)) ∧
    (∃ (s : State) (n : PortId) (f : Flit), s.flag (.port n) Reg.PORT_STAT_LINK_UP = true ∧ s.flag .finj
      Reg.FINJ_CTRL_ARM = false ∧ f.fecOk = true ∧ f.crcOk = true ∧ f.retryReq = false) ∧
    (∃ (s : State) (n : PortId) (f : Flit), s.flag (.port n) Reg.PORT_STAT_LINK_UP = true ∧ s.flag .finj
      Reg.FINJ_CTRL_ARM = false ∧ (f.fecOk = false ∨ f.crcOk = false)) ∧
    (∃ (s : State) (n : PortId) (f : Flit), s.flag (.port n) Reg.PORT_STAT_LINK_UP = true ∧ s.flag .finj
      Reg.FINJ_CTRL_ARM = false ∧ f.fecOk = true ∧ f.crcOk = true ∧ f.retryReq = false) ∧
    (∃ (s : State) (n : PortId) (f : Flit), s.flag (.port n) Reg.PORT_STAT_LINK_UP = true ∧ s.flag .finj
      Reg.FINJ_CTRL_ARM = false ∧ (f.fecOk = false ∨ f.crcOk = false)) ∧
    (∃ (s : State) (n : PortId) (f : Flit), s.flag (.port n) Reg.PORT_STAT_LINK_UP = true ∧ s.flag .finj
      Reg.FINJ_CTRL_ARM = false ∧ f.fecOk = true ∧ f.crcOk = true ∧ f.retryReq = true ∧ ((s.port n).told f).held ≠ []
      ∧ ((s.port n).told f).replays < s.fld (.port n) Reg.PORT_CTRL_RETRY_MAX) ∧
    (∃ (s : State) (n : PortId) (f : Flit), s.flag (.port n) Reg.PORT_STAT_LINK_UP = true ∧ s.flag .finj
      Reg.FINJ_CTRL_ARM = true ∧ s.flag .finj Reg.FINJ_CTRL_DIR = true ∧ s.fld .finj Reg.FINJ_CTRL_PORT = n.val ∧
      s.fld .finj Reg.FINJ_CTRL_MODE = 1 ∧ s.fld .finj Reg.FINJ_RATE_RATE_LOG2 = 0) ∧
    (∃ (s : State) (n : PortId) (f : Flit), s.flag (.port n) Reg.PORT_STAT_LINK_UP = false) :=
  ⟨⟨{ (st [(Reg.PORT_STAT_LINK_UP.place (.port 3), 1)]) with ports := [(3, { exp := 7, held := [(3, 0, []), (5, 0, [])], rxUnacked := 2 })] },
     3,
     { seq := 7, replay := false, ackSeq := 4, ackValid := true, retryReq := false, crTc := 2, crCount := 3, firstPkt := 0, tc := 2, payload := [], fecCorrected := true, fecOk := true, crcOk := true },
     by decide +kernel⟩,
   ⟨{ (st [(Reg.PORT_STAT_LINK_UP.place (.port 3), 1)]) with ports := [(3, { exp := 7, held := [(3, 0, []), (5, 0, [])], rxUnacked := 2 })] },
     3,
     { seq := 6, replay := false, ackSeq := 4, ackValid := true, retryReq := false, crTc := 2, crCount := 3, firstPkt := 0, tc := 2, payload := [], fecCorrected := true, fecOk := true, crcOk := true },
     by decide +kernel⟩,
   ⟨{ (st [(Reg.PORT_STAT_LINK_UP.place (.port 3), 1)]) with ports := [(3, { exp := 7, held := [(3, 0, []), (5, 0, [])], rxUnacked := 2 })] },
     3,
     { seq := 9, replay := false, ackSeq := 4, ackValid := true, retryReq := false, crTc := 2, crCount := 3, firstPkt := 0, tc := 2, payload := [], fecCorrected := true, fecOk := true, crcOk := true },
     by decide +kernel⟩,
   ⟨{ (st [(Reg.PORT_STAT_LINK_UP.place (.port 3), 1)]) with ports := [(3, { exp := 7, held := [(3, 0, []), (5, 0, [])], rxUnacked := 2 })] },
     3,
     { seq := 7, replay := false, ackSeq := 4, ackValid := true, retryReq := false, crTc := 2, crCount := 3, firstPkt := 0, tc := 2, payload := [], fecCorrected := true, fecOk := true, crcOk := true },
     by decide +kernel⟩,
   ⟨{ (st [(Reg.PORT_STAT_LINK_UP.place (.port 3), 1)]) with ports := [(3, { exp := 7, held := [(3, 0, []), (5, 0, [])], rxUnacked := 2 })] },
     3,
     { seq := 7, replay := false, ackSeq := 4, ackValid := true, retryReq := true, crTc := 2, crCount := 3, firstPkt := 0, tc := 2, payload := [], fecCorrected := true, fecOk := true, crcOk := false },
     by decide +kernel⟩,
   ⟨{ (st [(Reg.PORT_STAT_LINK_UP.place (.port 3), 1)]) with ports := [(3, { exp := 7, held := [(3, 0, []), (5, 0, [])], rxUnacked := 2 })] },
     3,
     { seq := 7, replay := false, ackSeq := 4, ackValid := true, retryReq := false, crTc := 2, crCount := 3, firstPkt := 0, tc := 2, payload := [], fecCorrected := true, fecOk := true, crcOk := true },
     by decide +kernel⟩,
   ⟨{ (st [(Reg.PORT_STAT_LINK_UP.place (.port 3), 1)]) with ports := [(3, { exp := 7, held := [(3, 0, []), (5, 0, [])], rxUnacked := 2 })] },
     3,
     { seq := 7, replay := false, ackSeq := 4, ackValid := true, retryReq := true, crTc := 2, crCount := 3, firstPkt := 0, tc := 2, payload := [], fecCorrected := true, fecOk := true, crcOk := false },
     by decide +kernel⟩,
   ⟨{ st [(Reg.PORT_STAT_LINK_UP.place (.port 3), 1)] with ports := [(3, { held := [(7, 0, List.replicate 256 1), (8, 0, List.replicate 256 2)] })] },
     3,
     { seq := 0, replay := false, ackSeq := 7, ackValid := true, retryReq := true, crTc := 2, crCount := 4, firstPkt := 255, tc := 0, payload := [], fecCorrected := true, fecOk := true, crcOk := true },
     by decide +kernel⟩,
   ⟨st
     [(Reg.PORT_STAT_LINK_UP.place (.port 3), 1), (Reg.FINJ_CTRL_ARM.place .finj, 1), (Reg.FINJ_CTRL_MODE.place .finj, 1), (Reg.FINJ_CTRL_DIR.place .finj, 1), (Reg.FINJ_CTRL_PORT.place .finj, 3), (Reg.FINJ_RATE_RATE_LOG2.place .finj, 0), (Reg.FINJ_RATE_PATTERN.place .finj, 1)],
     3,
     { seq := 7, replay := false, ackSeq := 4, ackValid := true, retryReq := false, crTc := 2, crCount := 3, firstPkt := 0, tc := 2, payload := [], fecCorrected := true, fecOk := true, crcOk := true },
     by decide +kernel⟩,
   ⟨State.reset, 3,
     { seq := 7, replay := false, ackSeq := 4, ackValid := true, retryReq := false, crTc := 2, crCount := 3, firstPkt := 0, tc := 2, payload := [], fecCorrected := true, fecOk := true, crcOk := true },
     by decide +kernel⟩⟩

/-- The hypotheses of FlitsAreSentAndReplayed can be met, clause by clause. -/
theorem wit_FlitsAreSentAndReplayed :
    (∃ (s : State) (n : PortId) (c : Nat) (x : Port), s.flag (.port n) Reg.PORT_STAT_LINK_UP = true ∧ s.flag .finj
      Reg.FINJ_CTRL_ARM = false ∧ (s.port n).queues ≠ [] ∧ LpUnit.portLp n ∉ s.pwr.inMode ∧ LpUnit.portLp n ∉
      s.pwr.waking ∧ (s.port n).held.length < 2048 ∧ (s.port n).waiting = [] ∧ (s.nextClass n (s.port n) = some (c,
      x))) ∧
    (∃ (s : State) (n : PortId), s.flag (.port n) Reg.PORT_STAT_LINK_UP = true ∧ s.flag .finj Reg.FINJ_CTRL_ARM =
      false ∧ (s.port n).queues ≠ [] ∧ LpUnit.portLp n ∉ s.pwr.inMode ∧ LpUnit.portLp n ∉ s.pwr.waking ∧ (s.port
      n).held.length < 2048 ∧ (s.port n).waiting = [] ∧ s.nextClass n (s.port n) = none) ∧
    (∃ (s : State) (n : PortId), s.flag (.port n) Reg.PORT_STAT_LINK_UP = true ∧ s.flag .finj Reg.FINJ_CTRL_ARM =
      false ∧ LpUnit.portLp n ∉ s.pwr.inMode ∧ LpUnit.portLp n ∉ s.pwr.waking ∧ ((s.port n).queues = [] ∨ 2048 ≤
      (s.port n).held.length) ∧ (s.port n).waiting = []) ∧
    (∃ (s : State) (n : PortId), s.flag (.port n) Reg.PORT_STAT_LINK_UP = true ∧ (s.port n).queues ≠ [] ∧ (s.port
      n).waiting = [] ∧ LpUnit.portLp n ∈ s.pwr.inMode) ∧
    (∃ (s : State) (n : PortId), s.flag (.port n) Reg.PORT_STAT_LINK_UP = true ∧ s.flag .finj Reg.FINJ_CTRL_ARM =
      false ∧ (s.port n).rxUnacked ≠ 0 ∧ (32 ≤ (s.port n).rxUnacked ∨ (s.port n).rxFrom + 100 ≤ s.now)) ∧
    (∃ (s : State) (n : PortId) (q : Nat) (t0 : Nat) (b : List Byte) (rest : List (Nat × Nat × List Byte)), s.flag
      (.port n) Reg.PORT_STAT_LINK_UP = true ∧ s.flag .finj Reg.FINJ_CTRL_ARM = false ∧ (s.port n).held = (q, t0, b)
      :: rest ∧ t0 + s.fld (.port n) Reg.PORT_CTRL_ACK_TO_NS ≤ s.now ∧ (s.port n).replays < s.fld (.port n)
      Reg.PORT_CTRL_RETRY_MAX) ∧
    (∃ (s : State) (n : PortId) (q : Nat) (t0 : Nat) (b : List Byte) (rest : List (Nat × Nat × List Byte)), s.flag
      (.port n) Reg.PORT_STAT_LINK_UP = true ∧ (s.port n).held = (q, t0, b) :: rest ∧ t0 + s.fld (.port n)
      Reg.PORT_CTRL_ACK_TO_NS ≤ s.now ∧ s.fld (.port n) Reg.PORT_CTRL_RETRY_MAX ≤ (s.port n).replays) ∧
    (∃ (s : State) (n : PortId) (x : Port), (x.isReady 0 = true ∨ x.isReady 1 = true)) :=
  ⟨⟨{ (st [(Reg.PORT_STAT_LINK_UP.place (.port 3), 1)]) with ports := [(3, { queues := [(1, [[1, 2, 3]])], credits := [(1, 2)], rxUnacked := 1 })] },
     3, 1, { queues := [(1, [[1, 2, 3]])], credits := [(1, 2)], rxUnacked := 1 }, by decide +kernel⟩,
   ⟨{ (st [(Reg.PORT_STAT_LINK_UP.place (.port 3), 1)]) with ports := [(3, { queues := [(1, [[1, 2, 3]])] })] }, 3,
     by decide +kernel⟩,
   ⟨{ st [(Reg.PORT_STAT_LINK_UP.place (.port 3), 1)] with ports := [(3, { seqNext := 9, exp := 4, rxUnacked := 2, creditsBack := [(1, 5)] })] },
     3, by decide +kernel⟩,
   ⟨{ (st [(Reg.PORT_STAT_LINK_UP.place (.port 3), 1)]) with ports := [(3, { queues := [(1, [[1, 2, 3]])] })], pwr := { inMode := [.portLp 3] } },
     3, by decide +kernel⟩,
   ⟨{ (st [(Reg.PORT_STAT_LINK_UP.place (.port 3), 1)]) with ports := [(3, { exp := 5, rxUnacked := 32 })] }, 3,
     by decide +kernel⟩,
   ⟨{ (st [(Reg.PORT_STAT_LINK_UP.place (.port 3), 1)]) with ports := [(3, { held := [(5, 0, [1]), (6, 4, [2])] })], now := 100000 },
     3, 5, 0, [1], [(6, 4, [2])], by decide +kernel⟩,
   ⟨{ (st [(Reg.PORT_STAT_LINK_UP.place (.port 3), 1)]) with ports := [(3, { held := [(5, 0, [1]), (6, 4, [2])], replays := 9 })], now := 100000 },
     3, 5, 0, [1], [(6, 4, [2])], by decide +kernel⟩,
   ⟨State.reset, 3, { queues := [(1, [[1, 2, 3]])], credits := [(1, 2)], rxUnacked := 1 }, by decide +kernel⟩⟩

/-- The hypotheses of PacketsMeetThePolicer can be met, clause by clause. -/
theorem wit_PacketsMeetThePolicer :
    (∃ (s : State) (n : PortId) (c : Fin 8) (bytes : List Byte) (lc : Nat) (lp : Nat), s.flag .finj Reg.FINJ_CTRL_ARM
      = false ∧ (s.port n).delayed = [] ∧ c ≠ 7 ∧ Map.get [] (s.port n).waiting c.val = [] ∧ s.policer n c.val = (lc,
      lp) ∧ bytes.length * 10 ≤ lp) ∧
    (∃ (s : State) (n : PortId) (bytes : List Byte) (lc : Nat) (lp : Nat), s.flag .finj Reg.FINJ_CTRL_ARM = false ∧
      (s.port n).delayed = [] ∧ s.policer n 7 = (lc, lp) ∧ bytes.length * 10 ≤ lp) ∧
    (∃ (s : State) (n : PortId) (c : Fin 8) (bytes : List Byte), s.flag .finj Reg.FINJ_CTRL_ARM = false ∧ (s.port
      n).delayed = [] ∧ c ≠ 7 ∧ Map.get [] (s.port n).waiting c.val = [] ∧ (s.policer n c.val).2 < bytes.length * 10) ∧
    (∃ (s : State) (n : PortId) (bytes : List Byte), (s.policer n 7).2 < bytes.length * 10) ∧
    (∃ (s : State) (n : PortId) (c : Fin 8) (v : Word), s.ready (.port n) = true ∧ (bits v.toNat 0 16 ≤ s.fld (.port
      n) Reg.PORT_TC_CIR c.val ∨ s.cirSum n c.val (bits v.toNat 0 16) ≤ 1000) ∧ bits v.toNat 0 16 ≤ bits v.toNat 16
      16) ∧
    (∃ (s : State) (n : PortId) (c : Fin 8) (v : Word), s.ready (.port n) = true ∧ s.fld (.port n) Reg.PORT_TC_CIR
      c.val < bits v.toNat 0 16 ∧ 1000 < s.cirSum n c.val (bits v.toNat 0 16) ∧ s.fld (.port n) Reg.PORT_TC_CIR c.val
      ≤ bits v.toNat 16 16) ∧
    (∃ (s : State) (n : PortId) (c : Fin 8) (v : Word), s.ready (.port n) = true ∧ bits v.toNat 0 16 ≤ s.fld (.port
      n) Reg.PORT_TC_CIR c.val ∧ bits v.toNat 16 16 < bits v.toNat 0 16) ∧
    (∃ (s : State) (n : PortId) (c : Fin 8) (v : Word), s.ready (.port n) = true ∧ 32 ≤ bits v.toNat 0 16 ∧ 32 ≤ bits
      v.toNat 16 16) ∧
    (∃ (s : State) (n : PortId) (c : Fin 8) (v : Word), s.ready (.port n) = true ∧ 1 ≤ bits v.toNat 0 8 ∧ 32 ≤ bits
      v.toNat 16 16) ∧
    (∃ (s : State) (n : PortId) (c : Fin 8) (w : Fin 4) (v : Word) (f : Fld) (g : Fld) (lo : Nat) (hi : Nat) (bf :
      Bool) (bg : Bool), s.ready (.port n) = true ∧ (w = 1 ∧ f = Reg.PORT_TC_CBS ∧ g = Reg.PORT_TC_PBS ∧ lo = bits
      v.toNat 0 16 ∧ bf = decide (lo < 32) ∨ w = 2 ∧ f = Reg.PORT_TC_WEIGHT ∧ g = Reg.PORT_TC_BURST ∧ lo = bits
      v.toNat 0 8 ∧ bf = decide (lo = 0)) ∧ hi = bits v.toNat 16 16 ∧ bg = decide (hi < 32) ∧ (bf = true ∨ bg =
      true)) ∧
    (∃ (s : State) (v : Word) (mode : Nat) (param : Nat) (m : Nat), s.ready .finj = true ∧ s.locked .finj = false ∧
      mode = bits v.toNat 5 3 ∧ param = bits v.toNat 16 8 ∧ m = (if 5 < mode then s.fld .finj Reg.FINJ_CTRL_MODE else
      mode)) ∧
    (∃ (s : State) (v : Word), s.ready .finj = true ∧ s.locked .finj = true) ∧
    (∃ (s : State) (v : Word), s.ready .finj = true ∧ s.locked .finj = false ∧ (5 < bits v.toNat 5 3 ∧ ¬ finjParamBad
      (s.fld .finj Reg.FINJ_CTRL_MODE) (bits v.toNat 16 8) = true ∨ bits v.toNat 5 3 ≤ 5 ∧ finjParamBad (bits v.toNat
      5 3) (bits v.toNat 16 8) = true)) :=
  ⟨⟨{ (st [(Reg.PORT_STAT_LINK_UP.place (.port 3), 1)]) with ports := [(3, { })] }, 3, 2, [1, 2],
     (({ (st [(Reg.PORT_STAT_LINK_UP.place (.port 3), 1)]) with ports := [(3, { })] }).policer 3 2).1,
     (({ (st [(Reg.PORT_STAT_LINK_UP.place (.port 3), 1)]) with ports := [(3, { })] }).policer 3 2).2,
     by decide +kernel⟩,
   ⟨{ (st [(Reg.PORT_STAT_LINK_UP.place (.port 3), 1)]) with ports := [(3, { })] }, 3, [1, 2],
     (({ (st [(Reg.PORT_STAT_LINK_UP.place (.port 3), 1)]) with ports := [(3, { })] }).policer 3 7).1,
     (({ (st [(Reg.PORT_STAT_LINK_UP.place (.port 3), 1)]) with ports := [(3, { })] }).policer 3 7).2,
     by decide +kernel⟩,
   ⟨{ (st [(Reg.PORT_STAT_LINK_UP.place (.port 3), 1)]) with ports := [(3, { tLast := [(2, 1), (7, 1)] })], now := 0 },
     3, 2, [1, 2], by decide +kernel⟩,
   ⟨{ (st [(Reg.PORT_STAT_LINK_UP.place (.port 3), 1)]) with ports := [(3, { tLast := [(2, 1), (7, 1)] })], now := 0 },
     3, [1, 2], by decide +kernel⟩,
   ⟨st [(Reg.PG_READY_READY.place (.port 3), 1)], 3, 2, 0x00200010, by decide +kernel⟩,
   ⟨st [(Reg.PG_READY_READY.place (.port 3), 1)], 3, 2, 0xffff2000, by decide +kernel⟩,
   ⟨st [(Reg.PG_READY_READY.place (.port 3), 1)], 3, 2, 0x00010002, by decide +kernel⟩,
   ⟨st [(Reg.PG_READY_READY.place (.port 3), 1)], 3, 2, 0x00200040, by decide +kernel⟩,
   ⟨st [(Reg.PG_READY_READY.place (.port 3), 1)], 3, 2, 0x00200040, by decide +kernel⟩,
   ⟨st [(Reg.PG_READY_READY.place (.port 3), 1)], 3, 2, 2, 0x00100005, Reg.PORT_TC_WEIGHT, Reg.PORT_TC_BURST, 5, 16,
     false, true, by decide +kernel⟩,
   ⟨st [(Reg.PG_READY_READY.place .finj, 1), (Reg.FINJ_SEED_SEED.place .finj, 77)], 0x80050063, 3, 5, 3,
     by decide +kernel⟩,
   ⟨st [(Reg.PG_READY_READY.place .finj, 1), (Reg.PG_CTRL_LOCK.place .finj, 1)], 5, by decide +kernel⟩,
   ⟨st [(Reg.PG_READY_READY.place .finj, 1)], 0x80010065, by decide +kernel⟩⟩

/-- The hypotheses of LinksComeUpAndGoDown can be met, clause by clause. -/
theorem wit_LinksComeUpAndGoDown :
    (∃ (s : State) (n : PortId) (lanes : Fin 16) (stages : Fin 4), s.flag (.port n) Reg.PORT_STAT_LINK_UP = false ∧
      s.flag .dev Reg.DEV_NODE_VALID = true ∧ s.flag (.port n) Reg.PORT_CTRL_ENABLE = true ∧ LpUnit.portOff n ∉
      s.pwr.inMode ∧ (¬ (s.flag (.port n) Reg.PORT_CTRL_ORDER_MODE ≠ s.flag (.port 0) Reg.PORT_CTRL_ORDER_MODE ∨
      stages = 1 ∧ s.flag (.port n) Reg.PORT_CTRL_ORDER_MODE = true ∨ 2 ≤ stages.val ∧ s.flag (.port n)
      Reg.PORT_CTRL_ORDER_MODE = false))) ∧
    (∃ (s : State) (n : PortId) (lanes : Fin 16) (stages : Fin 4), s.flag (.port n) Reg.PORT_STAT_LINK_UP = false ∧
      s.flag .dev Reg.DEV_NODE_VALID = true ∧ s.flag (.port n) Reg.PORT_CTRL_ENABLE = true ∧ LpUnit.portOff n ∉
      s.pwr.inMode ∧ (s.flag (.port n) Reg.PORT_CTRL_ORDER_MODE ≠ s.flag (.port 0) Reg.PORT_CTRL_ORDER_MODE ∨ stages
      = 1 ∧ s.flag (.port n) Reg.PORT_CTRL_ORDER_MODE = true ∨ 2 ≤ stages.val ∧ s.flag (.port n)
      Reg.PORT_CTRL_ORDER_MODE = false)) ∧
    (∃ (s : State) (n : PortId), s.flag (.port n) Reg.PORT_STAT_LINK_UP = true) ∧
    (∃ (s : State) (n : PortId), s.flag (.port n) Reg.PORT_STAT_LINK_UP = false) ∧
    (∃ (s : State) (n : PortId), s.ready (.port n) = true ∧ s.flag (.port n) Reg.PORT_STAT_LINK_UP = true) ∧
    (∃ (s : State) (n : PortId) (enable : Bool), s.ready (.port n) = true ∧ (enable = true ∨ s.flag (.port n)
      Reg.PORT_STAT_LINK_UP = false)) ∧
    (∃ (s : State) (n : PortId), LpUnit.portLp n ∈ s.pwr.inMode) :=
  ⟨⟨st [(Reg.DEV_NODE_VALID.place .dev, 1)], 3, 4, 1, by decide +kernel⟩,
   ⟨st [(Reg.DEV_NODE_VALID.place .dev, 1)], 3, 4, 2, by decide +kernel⟩,
   ⟨{ (st [(Reg.PORT_STAT_LINK_UP.place (.port 3), 1), (Reg.PG_READY_READY.place (.port 3), 1)]) with ports := [(3, { seqNext := 5, exp := 2, credits := [(1, 4)] })], engines := [(6, { sentPlanes := 8 })] },
     3, by decide +kernel⟩,
   ⟨State.reset, 3, by decide +kernel⟩,
   ⟨{ (st [(Reg.PORT_STAT_LINK_UP.place (.port 3), 1), (Reg.PG_READY_READY.place (.port 3), 1)]) with ports := [(3, { seqNext := 5, exp := 2, credits := [(1, 4)] })], engines := [(6, { sentPlanes := 8 })] },
     3, by decide +kernel⟩,
   ⟨st [(Reg.PG_READY_READY.place (.port 3), 1)], 3, true, by decide +kernel⟩,
   ⟨{ st [] with pwr := { inMode := [.portLp 3] } }, 3, by decide +kernel⟩⟩

/-- The hypotheses of AccessesFollowThePageState can be met, clause by clause. -/
theorem wit_AccessesFollowThePageState :
    (∃ (s : State) (src : Accessor) (offset : Nat) (len : Nat) (page : Nat) (home : TierName), 0 < len ∧ offset %
      65536 + len ≤ 65536 ∧ offset < 2 ^ 47 ∧ page = offset / 65536 ∧ (∀ h ∈ s.heldOn page, h.write = none) ∧ (s.leaf
      page).st = .resident home) ∧
    (∃ (s : State) (src : Accessor) (offset : Nat) (len : Nat) (page : Nat), 0 < len ∧ offset % 65536 + len ≤ 65536 ∧
      offset < 2 ^ 47 ∧ page = offset / 65536 ∧ (∀ h ∈ s.heldOn page, h.write = none) ∧ (s.leaf page).st =
      .unwritten) ∧
    (∃ (s : State) (src : Accessor) (offset : Nat) (len : Nat) (page : Nat), 0 < len ∧ offset % 65536 + len ≤ 65536 ∧
      offset < 2 ^ 47 ∧ page = offset / 65536 ∧ (∀ h ∈ s.heldOn page, h.write = none) ∧ (s.leaf page).st = .poisoned) ∧
    (∃ (s : State) (src : Accessor) (offset : Nat) (len : Nat) (page : Nat), 0 < len ∧ offset % 65536 + len ≤ 65536 ∧
      offset < 2 ^ 47 ∧ page = offset / 65536 ∧ ((∃ h ∈ s.heldOn page, h.write.isSome = true) ∨ (s.leaf page).st =
      .inTransit ∧ (s.mig page).any (fun m => m.kind = .pull ∨ m.kind = .replace) = true) ∧ (s.heldOn page).length <
      64) ∧
    (∃ (s : State) (src : Accessor) (offset : Nat) (len : Nat) (page : Nat) (h : TierName × Nat × Nat), 0 < len ∧
      offset % 65536 + len ≤ 65536 ∧ offset < 2 ^ 47 ∧ page = offset / 65536 ∧ (∀ h ∈ s.heldOn page, h.write = none)
      ∧ (s.leaf page).st = .remote ∧ s.tier.migs.length < 256 ∧ (s.findHome page (s.pullSide page) = some h) ∧
      (s.heldOn page).length < 64) ∧
    (∃ (s : State) (src : Accessor) (offset : Nat) (data : List Byte) (page : Nat) (home : TierName), data ≠ [] ∧
      offset % 65536 + data.length ≤ 65536 ∧ offset < 2 ^ 47 ∧ page = offset / 65536 ∧ s.heldOn page = [] ∧ (s.leaf
      page).st = .resident home) ∧
    (∃ (s : State) (src : Accessor) (offset : Nat) (data : List Byte) (page : Nat), data ≠ [] ∧ offset % 65536 +
      data.length ≤ 65536 ∧ offset < 2 ^ 47 ∧ page = offset / 65536 ∧ (s.heldOn page ≠ [] ∨ (s.leaf page).st =
      .inTransit) ∧ (s.heldOn page).length < 64) ∧
    (∃ (s : State) (src : Accessor) (offset : Nat) (len : Nat) (data : List Byte) (page : Nat), 0 < len ∧ offset %
      65536 + len ≤ 65536 ∧ data.length = len ∧ offset < 2 ^ 47 ∧ page = offset / 65536 ∧ (∃ h ∈ s.heldOn page,
      h.write.isSome = true) ∧ 64 ≤ (s.heldOn page).length) ∧
    (∃ (s : State) (src : Accessor) (offset : Nat) (data : List Byte) (page : Nat) (h : TierName × Nat × Nat), data ≠
      [] ∧ offset % 65536 + data.length ≤ 65536 ∧ offset < 2 ^ 47 ∧ page = offset / 65536 ∧ s.heldOn page = [] ∧
      ((s.leaf page).st = .unwritten ∨ (s.leaf page).st = .poisoned ∧ offset % 65536 = 0 ∧ data.length = 65536) ∧
      ((((s.note page).needLeaf page).any fun u => decide (u.findHome page false = some h)) = true)) ∧
    (∃ (s : State) (src : Accessor) (offset : Nat) (data : List Byte) (page : Nat), data ≠ [] ∧ offset % 65536 +
      data.length ≤ 65536 ∧ offset < 2 ^ 47 ∧ page = offset / 65536 ∧ s.heldOn page = [] ∧ (s.leaf page).st =
      .unwritten ∧ (s.note page).needLeaf page = none) ∧
    (∃ (s : State) (src : Accessor) (offset : Nat) (data : List Byte) (page : Nat), data ≠ [] ∧ offset % 65536 +
      data.length ≤ 65536 ∧ offset < 2 ^ 47 ∧ page = offset / 65536 ∧ s.heldOn page = [] ∧ (s.leaf page).st =
      .unwritten ∧ ((((s.note page).needLeaf page).any fun u => (u.findHome page false).isNone) = true)) ∧
    (∃ (s : State) (src : Accessor) (offset : Nat) (data : List Byte) (page : Nat), data ≠ [] ∧ offset % 65536 +
      data.length ≤ 65536 ∧ offset < 2 ^ 47 ∧ page = offset / 65536 ∧ s.heldOn page = [] ∧ (s.leaf page).st =
      .poisoned ∧ (¬ (offset % 65536 = 0 ∧ data.length = 65536))) ∧
    (∃ (s : State) (page : Nat) (offset : Nat) (data : List Byte) (src : Accessor) (k : Nat) (home : TierName), page
      ∈ s.tier.filling ∧ (s.leaf page).st = .resident home ∧ (s.heldOn page =
      [{ src := src, offset := offset, len := data.length, write := some data, ticket := k }]) ∧ s.stalledOn page =
      [] ∧ pageOf offset = page ∧ offset < 2 ^ 47 ∧ offset + data.length ≤ (page + 1) * 65536 ∧ s.tier.cmd = none) ∧
    (∃ (s : State) (page : Nat), page ∉ s.tier.filling) :=
  ⟨⟨{ (st [(Reg.PG_READY_READY.place .tier, 1), (Reg.PG_READY_READY.place (.bas 0), 1), (Reg.BAS_MEM_STAT_ONLINE.place (.bas 0), 1), (Reg.BAS_MEM_FRAMES_FRAMES.place (.bas 0), 786432), (Reg.PG_READY_READY.place (.shl 0), 1), (Reg.SHL_MEM_STAT_ONLINE.place (.shl 0), 1), (Reg.SHL_MEM_FRAMES_FRAMES.place (.shl 0), 32768)]) with tier := { pages := [(5, { st := .resident .basin, frame := 0, frameTier := .basin })], dirs := [(0, { valid := true, used := 1, leaf := 257 })], leaves := [(257, true)], frames := [(67108864, true)] }, mem := [(327690, 7)] },
     .host, 327688, 16, 5, .basin, by decide +kernel⟩,
   ⟨{ (st [(Reg.PG_READY_READY.place .tier, 1), (Reg.PG_READY_READY.place (.bas 0), 1), (Reg.BAS_MEM_STAT_ONLINE.place (.bas 0), 1), (Reg.BAS_MEM_FRAMES_FRAMES.place (.bas 0), 786432), (Reg.PG_READY_READY.place (.shl 0), 1), (Reg.SHL_MEM_STAT_ONLINE.place (.shl 0), 1), (Reg.SHL_MEM_FRAMES_FRAMES.place (.shl 0), 32768)]) with tier := { } },
     .host, 327688, 16, 5, by decide +kernel⟩,
   ⟨{ (st [(Reg.PG_READY_READY.place .tier, 1), (Reg.PG_READY_READY.place (.bas 0), 1), (Reg.BAS_MEM_STAT_ONLINE.place (.bas 0), 1), (Reg.BAS_MEM_FRAMES_FRAMES.place (.bas 0), 786432), (Reg.PG_READY_READY.place (.shl 0), 1), (Reg.SHL_MEM_STAT_ONLINE.place (.shl 0), 1), (Reg.SHL_MEM_FRAMES_FRAMES.place (.shl 0), 32768)]) with tier := { pages := [(5, { st := .poisoned })] } },
     .host, 327688, 16, 5, by decide +kernel⟩,
   ⟨{ (st [(Reg.PG_READY_READY.place .tier, 1), (Reg.PG_READY_READY.place (.bas 0), 1), (Reg.BAS_MEM_STAT_ONLINE.place (.bas 0), 1), (Reg.BAS_MEM_FRAMES_FRAMES.place (.bas 0), 786432), (Reg.PG_READY_READY.place (.shl 0), 1), (Reg.SHL_MEM_STAT_ONLINE.place (.shl 0), 1), (Reg.SHL_MEM_FRAMES_FRAMES.place (.shl 0), 32768)]) with tier := { pages := [(5, { st := .inTransit })], migs := [{ page := 5, prev := { st := .remote }, kind := .pull, dstTier := .basin, dstFrame := 0, dstSide := 0, start := 0, bytes := 0, staged := [], later := [] }] } },
     .host, 327688, 16, 5, by decide +kernel⟩,
   ⟨{ (st [(Reg.PG_READY_READY.place .tier, 1), (Reg.PG_READY_READY.place (.bas 0), 1), (Reg.BAS_MEM_STAT_ONLINE.place (.bas 0), 1), (Reg.BAS_MEM_FRAMES_FRAMES.place (.bas 0), 786432), (Reg.PG_READY_READY.place (.shl 0), 1), (Reg.SHL_MEM_STAT_ONLINE.place (.shl 0), 1), (Reg.SHL_MEM_FRAMES_FRAMES.place (.shl 0), 32768)]) with tier := { pages := [(5, { st := .remote, node := 4 })], dirs := [(0, { valid := true, used := 1, leaf := 257 })], leaves := [(257, true)] } },
     .host, 327688, 16, 5, (.basin, 0, 0), by decide +kernel⟩,
   ⟨{ (st [(Reg.PG_READY_READY.place .tier, 1), (Reg.PG_READY_READY.place (.bas 0), 1), (Reg.BAS_MEM_STAT_ONLINE.place (.bas 0), 1), (Reg.BAS_MEM_FRAMES_FRAMES.place (.bas 0), 786432), (Reg.PG_READY_READY.place (.shl 0), 1), (Reg.SHL_MEM_STAT_ONLINE.place (.shl 0), 1), (Reg.SHL_MEM_FRAMES_FRAMES.place (.shl 0), 32768)]) with tier := { pages := [(5, { st := .resident .basin, frame := 0, frameTier := .basin })], dirs := [(0, { valid := true, used := 1, leaf := 257 })], leaves := [(257, true)], frames := [(67108864, true)] }, mem := [(327687, 7), (327690, 9)] },
     .host, 327688, [1, 2, 3], 5, .basin, by decide +kernel⟩,
   ⟨{ (st [(Reg.PG_READY_READY.place .tier, 1), (Reg.PG_READY_READY.place (.bas 0), 1), (Reg.BAS_MEM_STAT_ONLINE.place (.bas 0), 1), (Reg.BAS_MEM_FRAMES_FRAMES.place (.bas 0), 786432), (Reg.PG_READY_READY.place (.shl 0), 1), (Reg.SHL_MEM_STAT_ONLINE.place (.shl 0), 1), (Reg.SHL_MEM_FRAMES_FRAMES.place (.shl 0), 32768)]) with tier := { pages := [(5, { st := .inTransit })] } },
     .host, 327688, [1, 2, 3], 5, by decide +kernel⟩,
   ⟨{ (st [(Reg.PG_READY_READY.place .tier, 1), (Reg.PG_READY_READY.place (.bas 0), 1), (Reg.BAS_MEM_STAT_ONLINE.place (.bas 0), 1), (Reg.BAS_MEM_FRAMES_FRAMES.place (.bas 0), 786432), (Reg.PG_READY_READY.place (.shl 0), 1), (Reg.SHL_MEM_STAT_ONLINE.place (.shl 0), 1), (Reg.SHL_MEM_FRAMES_FRAMES.place (.shl 0), 32768)]) with tier := { pages := [(5, { st := .inTransit })], held := [(5, (List.replicate 64 { src := .host, offset := 327688, len := 8, write := some (List.replicate 8 1), ticket := 0 }))] } },
     .host, 327688, 3, [1, 2, 3], 5, by decide +kernel⟩,
   ⟨{ (st [(Reg.PG_READY_READY.place .tier, 1), (Reg.PG_READY_READY.place (.bas 0), 1), (Reg.BAS_MEM_STAT_ONLINE.place (.bas 0), 1), (Reg.BAS_MEM_FRAMES_FRAMES.place (.bas 0), 786432), (Reg.PG_READY_READY.place (.shl 0), 1), (Reg.SHL_MEM_STAT_ONLINE.place (.shl 0), 1), (Reg.SHL_MEM_FRAMES_FRAMES.place (.shl 0), 32768)]) with tier := { } },
     .host, 327688, [1, 2, 3], 5, (.basin, 0, 0), by decide +kernel⟩,
   ⟨State.reset, .host, 327688, [1, 2, 3], 5, by decide +kernel⟩,
   ⟨{ st [(Reg.PG_READY_READY.place .tier, 1)] with tier := { dirs := [(0, { valid := true, used := 1, leaf := 257 })], pages := [(5, { pin := 3 })] } },
     .host, 327688, [1, 2, 3], 5, by decide +kernel⟩,
   ⟨{ (st [(Reg.PG_READY_READY.place .tier, 1), (Reg.PG_READY_READY.place (.bas 0), 1), (Reg.BAS_MEM_STAT_ONLINE.place (.bas 0), 1), (Reg.BAS_MEM_FRAMES_FRAMES.place (.bas 0), 786432), (Reg.PG_READY_READY.place (.shl 0), 1), (Reg.SHL_MEM_STAT_ONLINE.place (.shl 0), 1), (Reg.SHL_MEM_FRAMES_FRAMES.place (.shl 0), 32768)]) with tier := { pages := [(5, { st := .poisoned })] } },
     .host, 327688, [1, 2, 3], 5, by decide +kernel⟩,
   ⟨{ (st [(Reg.PG_READY_READY.place .tier, 1), (Reg.PG_READY_READY.place (.bas 0), 1), (Reg.BAS_MEM_STAT_ONLINE.place (.bas 0), 1), (Reg.BAS_MEM_FRAMES_FRAMES.place (.bas 0), 786432), (Reg.PG_READY_READY.place (.shl 0), 1), (Reg.SHL_MEM_STAT_ONLINE.place (.shl 0), 1), (Reg.SHL_MEM_FRAMES_FRAMES.place (.shl 0), 32768)]) with tier := { pages := [(5, { st := .resident .basin, frame := 0, frameTier := .basin })], dirs := [(0, { valid := true, used := 1, leaf := 257 })], leaves := [(257, true)], frames := [(67108864, true)], filling := [5], held := [(5, [{ src := .host, offset := 327688, len := 2, write := some [1, 2], ticket := 0 }])] }, mem := [(327687, 7)] },
     5, 327688, [1, 2], .host, 0, .basin, by decide +kernel⟩,
   ⟨{ (st [(Reg.PG_READY_READY.place .tier, 1), (Reg.PG_READY_READY.place (.bas 0), 1), (Reg.BAS_MEM_STAT_ONLINE.place (.bas 0), 1), (Reg.BAS_MEM_FRAMES_FRAMES.place (.bas 0), 786432), (Reg.PG_READY_READY.place (.shl 0), 1), (Reg.SHL_MEM_STAT_ONLINE.place (.shl 0), 1), (Reg.SHL_MEM_FRAMES_FRAMES.place (.shl 0), 32768)]) with tier := { } },
     5, by decide +kernel⟩⟩

/-- The hypotheses of PagesMoveBetweenTiers can be met, clause by clause. -/
theorem wit_PagesMoveBetweenTiers :
    (∃ (s : State) (page : Nat) (dst : TierName) (t0 : TierName) (f : Nat) (n : Nat), (s.leaf page).st = .resident t0
      ∧ t0 ≠ dst ∧ s.tier.migs.length < 256 ∧ page ∉ s.tier.filling ∧ (s.findFrame dst (zoneOf page) = some f) ∧ ((if
      (s.leaf page).side then s.findSide dst (zoneOf page) else some 0) = some n)) ∧
    (∃ (s : State) (page : Nat) (dst : TierName) (t0 : TierName), (s.leaf page).st = .resident t0 ∧ t0 ≠ dst ∧ 256 ≤
      s.tier.migs.length ∧ page ∉ s.tier.filling ∧ (∀ w ∈ s.tier.waitMigs, w.page ≠ page)) ∧
    (∃ (s : State) (page : Nat) (m : Mig), s.tier.held = [] ∧ s.tier.stalled = [] ∧ s.tier.waitMigs = [] ∧
      s.tier.demoting = [] ∧ s.tier.cmd = none ∧ m.later = [] ∧ m.owner = none ∧ (s.mig page = some m) ∧ (s.leaf
      page).st = .inTransit ∧ ((∀ x ∈ s.tier.migs, x.page = page → x = m)) ∧ m.kind = .localMove ∧ frameKey
      m.prev.frameTier m.prev.frame ≠ frameKey m.dstTier m.dstFrame) ∧
    (∃ (s : State) (page : Nat) (m : Mig), s.tier.held = [] ∧ s.tier.stalled = [] ∧ s.tier.waitMigs = [] ∧
      s.tier.demoting = [] ∧ s.tier.cmd = none ∧ m.later = [] ∧ m.owner = none ∧ (s.mig page = some m) ∧ (s.leaf
      page).st = .inTransit ∧ ((∀ x ∈ s.tier.migs, x.page = page → x = m)) ∧ (m.kind = .pull ∨ m.kind = .replace) ∧
      65536 ≤ m.bytes) ∧
    (∃ (s : State) (page : Nat) (m : Mig), s.tier.held = [] ∧ s.tier.stalled = [] ∧ s.tier.waitMigs = [] ∧
      s.tier.demoting = [] ∧ s.tier.cmd = none ∧ m.later = [] ∧ m.owner = none ∧ (s.mig page = some m) ∧ (s.leaf
      page).st = .inTransit ∧ ((∀ x ∈ s.tier.migs, x.page = page → x = m)) ∧ m.start + s.fld .tier
      Reg.TIER_HOLD_TIMEOUT_US * 1000 ≤ s.now ∧ m.kind = .localMove ∧ m.sided = false ∧ (s.dir page).valid = true ∧
      m.prev.st ≠ .unwritten) ∧
    (∃ (s : State) (page : Nat) (m : Mig), (s.mig page = some m) ∧ s.now < m.start + s.fld .tier
      Reg.TIER_HOLD_TIMEOUT_US * 1000) ∧
    (∃ (s : State) (z : PartId) (d : TierName) (p : Nat) (ps : List Nat) (u : State), s.flag .tier
      Reg.TIER_POLICY_HW_EN = true ∧ d ≠ .deep ∧ s.zoneHigh z d < s.zoneUse z d ∧ s.zoneLow z d < s.zoneUse z d ∧
      s.tier.migs.length < 256 ∧ s.demotable z d = p :: ps ∧ s.startMove p (tierOf (tierIdx d + 1)) = (true, u) ∧
      u.zoneUse z d ≤ u.zoneLow z d) ∧
    (∃ (s : State) (z : PartId) (d : TierName), (s.flag .tier Reg.TIER_POLICY_HW_EN = false ∨ s.zoneUse z d ≤
      s.zoneHigh z d)) ∧
    (∃ (s : State), s.flag .tier Reg.TIER_POLICY_HW_EN = false) ∧
    (∃ (s : State) (page : Nat) (n : Nat) (d : TierName) (f : Nat), s.flag .tier Reg.TIER_POLICY_HW_EN = true ∧
      s.tier.counts = [(page, n + 1)] ∧ ((s.leaf page).st = .resident .basin ∧ d = .shallows ∨ (s.leaf page).st =
      .resident .deep ∧ d = .basin) ∧ (s.leaf page).pin = 0 ∧ (s.leaf page).hint = 0 ∧ (s.leaf page).side = false ∧
      s.fld .tier Reg.TIER_POLICY_PROMO_COUNT ≤ n ∧ s.zoneUse (zoneOf page) d < s.zoneHigh (zoneOf page) d ∧
      s.tier.migs.length < 256 ∧ page ∉ s.tier.filling ∧ (s.findFrame d (zoneOf page) = some f)) :=
  ⟨⟨{ (st [(Reg.PG_READY_READY.place .tier, 1), (Reg.PG_READY_READY.place (.bas 0), 1), (Reg.BAS_MEM_STAT_ONLINE.place (.bas 0), 1), (Reg.BAS_MEM_FRAMES_FRAMES.place (.bas 0), 786432), (Reg.PG_READY_READY.place (.shl 0), 1), (Reg.SHL_MEM_STAT_ONLINE.place (.shl 0), 1), (Reg.SHL_MEM_FRAMES_FRAMES.place (.shl 0), 32768)]) with tier := { pages := [(5, { st := .resident .basin, frame := 0, frameTier := .basin })], dirs := [(0, { valid := true, used := 1, leaf := 257 })], leaves := [(257, true)], frames := [(67108864, true)] } },
     5, .shallows, .basin, 457, 0, by decide +kernel⟩,
   ⟨{ (st [(Reg.PG_READY_READY.place .tier, 1), (Reg.PG_READY_READY.place (.bas 0), 1), (Reg.BAS_MEM_STAT_ONLINE.place (.bas 0), 1), (Reg.BAS_MEM_FRAMES_FRAMES.place (.bas 0), 786432), (Reg.PG_READY_READY.place (.shl 0), 1), (Reg.SHL_MEM_STAT_ONLINE.place (.shl 0), 1), (Reg.SHL_MEM_FRAMES_FRAMES.place (.shl 0), 32768)]) with tier := { pages := [(5, { st := .resident .basin })], migs := (List.range 256).map fun i => { page := 1000 + i, prev := { st := .resident .basin }, kind := .localMove, dstTier := .deep, dstFrame := i, dstSide := 0, start := 0, bytes := 65536, staged := [], later := [] } } },
     5, .shallows, .basin, by decide +kernel⟩,
   ⟨{ (st [(Reg.PG_READY_READY.place .tier, 1), (Reg.PG_READY_READY.place (.bas 0), 1), (Reg.BAS_MEM_STAT_ONLINE.place (.bas 0), 1), (Reg.BAS_MEM_FRAMES_FRAMES.place (.bas 0), 786432), (Reg.PG_READY_READY.place (.shl 0), 1), (Reg.SHL_MEM_STAT_ONLINE.place (.shl 0), 1), (Reg.SHL_MEM_FRAMES_FRAMES.place (.shl 0), 32768)]) with tier := { pages := [(5, { st := .inTransit, frame := 0, frameTier := .basin })], dirs := [(0, { valid := true, used := 1, leaf := 257 })], leaves := [(257, true)], frames := [(457, true), (67108864, true)], migs := [{ page := 5, prev := { st := .resident .basin, frame := 0, frameTier := .basin }, kind := .localMove, dstTier := .shallows, dstFrame := 457, dstSide := 0, start := 0, bytes := 65536, staged := [], later := [] }] } },
     5,
     { page := 5, prev := { st := .resident .basin, frame := 0, frameTier := .basin }, kind := .localMove, dstTier := .shallows, dstFrame := 457, dstSide := 0, start := 0, bytes := 65536, staged := [], later := [] },
     by decide +kernel⟩,
   ⟨{ (st [(Reg.PG_READY_READY.place .tier, 1), (Reg.PG_READY_READY.place (.bas 0), 1), (Reg.BAS_MEM_STAT_ONLINE.place (.bas 0), 1), (Reg.BAS_MEM_FRAMES_FRAMES.place (.bas 0), 786432), (Reg.PG_READY_READY.place (.shl 0), 1), (Reg.SHL_MEM_STAT_ONLINE.place (.shl 0), 1), (Reg.SHL_MEM_FRAMES_FRAMES.place (.shl 0), 32768)]) with tier := { pages := [(5, { st := .inTransit, frame := 0, frameTier := .basin })], dirs := [(0, { valid := true, used := 1, leaf := 257 })], leaves := [(257, true)], frames := [(457, true), (67108864, true)], migs := [{ page := 5, prev := { st := .remote, node := 4 }, kind := .pull, dstTier := .basin, dstFrame := 0, dstSide := 0, start := 0, bytes := 65536, staged := [(327680, 9)], later := [] }] } },
     5,
     { page := 5, prev := { st := .remote, node := 4 }, kind := .pull, dstTier := .basin, dstFrame := 0, dstSide := 0, start := 0, bytes := 65536, staged := [(327680, 9)], later := [] },
     by decide +kernel⟩,
   ⟨{ (st [(Reg.PG_READY_READY.place .tier, 1), (Reg.PG_READY_READY.place (.bas 0), 1), (Reg.BAS_MEM_STAT_ONLINE.place (.bas 0), 1), (Reg.BAS_MEM_FRAMES_FRAMES.place (.bas 0), 786432), (Reg.PG_READY_READY.place (.shl 0), 1), (Reg.SHL_MEM_STAT_ONLINE.place (.shl 0), 1), (Reg.SHL_MEM_FRAMES_FRAMES.place (.shl 0), 32768)]) with tier := { pages := [(5, { st := .inTransit, frame := 0, frameTier := .basin })], dirs := [(0, { valid := true, used := 1, leaf := 257 })], leaves := [(257, true)], frames := [(457, true), (67108864, true)], migs := [{ page := 5, prev := { st := .resident .basin, frame := 0, frameTier := .basin }, kind := .localMove, dstTier := .shallows, dstFrame := 457, dstSide := 0, start := 0, bytes := 65536, staged := [], later := [] }] }, now := 300000 },
     5,
     { page := 5, prev := { st := .resident .basin, frame := 0, frameTier := .basin }, kind := .localMove, dstTier := .shallows, dstFrame := 457, dstSide := 0, start := 0, bytes := 65536, staged := [], later := [] },
     by decide +kernel⟩,
   ⟨{ (st [(Reg.PG_READY_READY.place .tier, 1), (Reg.PG_READY_READY.place (.bas 0), 1), (Reg.BAS_MEM_STAT_ONLINE.place (.bas 0), 1), (Reg.BAS_MEM_FRAMES_FRAMES.place (.bas 0), 786432), (Reg.PG_READY_READY.place (.shl 0), 1), (Reg.SHL_MEM_STAT_ONLINE.place (.shl 0), 1), (Reg.SHL_MEM_FRAMES_FRAMES.place (.shl 0), 32768)]) with tier := { pages := [(5, { st := .inTransit, frame := 0, frameTier := .basin })], dirs := [(0, { valid := true, used := 1, leaf := 257 })], leaves := [(257, true)], frames := [(457, true), (67108864, true)], migs := [{ page := 5, prev := { st := .resident .basin, frame := 0, frameTier := .basin }, kind := .localMove, dstTier := .shallows, dstFrame := 457, dstSide := 0, start := 0, bytes := 65536, staged := [], later := [] }] } },
     5,
     { page := 5, prev := { st := .resident .basin, frame := 0, frameTier := .basin }, kind := .localMove, dstTier := .shallows, dstFrame := 457, dstSide := 0, start := 0, bytes := 65536, staged := [], later := [] },
     by decide +kernel⟩,
   ⟨{ (st [(Reg.PG_READY_READY.place .tier, 1), (Reg.PG_READY_READY.place (.bas 0), 1), (Reg.BAS_MEM_STAT_ONLINE.place (.bas 0), 1), (Reg.BAS_MEM_FRAMES_FRAMES.place (.bas 0), 786432), (Reg.PG_READY_READY.place (.shl 0), 1), (Reg.SHL_MEM_STAT_ONLINE.place (.shl 0), 1), (Reg.SHL_MEM_FRAMES_FRAMES.place (.shl 0), 32768), (Reg.TIER_ZONE_SHL_HIGH.place .tier, 0), (Reg.TIER_ZONE_SHL_LOW.place .tier, 0)]) with tier := { pages := [(5, { st := .resident .shallows, frame := 457, frameTier := .shallows })] } },
     0, .shallows, 5, [],
     (({ (st [(Reg.PG_READY_READY.place .tier, 1), (Reg.PG_READY_READY.place (.bas 0), 1), (Reg.BAS_MEM_STAT_ONLINE.place (.bas 0), 1), (Reg.BAS_MEM_FRAMES_FRAMES.place (.bas 0), 786432), (Reg.PG_READY_READY.place (.shl 0), 1), (Reg.SHL_MEM_STAT_ONLINE.place (.shl 0), 1), (Reg.SHL_MEM_FRAMES_FRAMES.place (.shl 0), 32768), (Reg.TIER_ZONE_SHL_HIGH.place .tier, 0), (Reg.TIER_ZONE_SHL_LOW.place .tier, 0)]) with tier := { pages := [(5, { st := .resident .shallows, frame := 457, frameTier := .shallows })] } }).startMove
     5 .basin).2, by decide +kernel⟩,
   ⟨{ (st [(Reg.PG_READY_READY.place .tier, 1), (Reg.PG_READY_READY.place (.bas 0), 1), (Reg.BAS_MEM_STAT_ONLINE.place (.bas 0), 1), (Reg.BAS_MEM_FRAMES_FRAMES.place (.bas 0), 786432), (Reg.PG_READY_READY.place (.shl 0), 1), (Reg.SHL_MEM_STAT_ONLINE.place (.shl 0), 1), (Reg.SHL_MEM_FRAMES_FRAMES.place (.shl 0), 32768)]) with tier := { pages := [(5, { st := .resident .basin, frame := 0, frameTier := .basin })], dirs := [(0, { valid := true, used := 1, leaf := 257 })], leaves := [(257, true)], frames := [(67108864, true)] } },
     0, .basin, by decide +kernel⟩,
   ⟨{ (st [(Reg.PG_READY_READY.place .tier, 1), (Reg.PG_READY_READY.place (.bas 0), 1), (Reg.BAS_MEM_STAT_ONLINE.place (.bas 0), 1), (Reg.BAS_MEM_FRAMES_FRAMES.place (.bas 0), 786432), (Reg.PG_READY_READY.place (.shl 0), 1), (Reg.SHL_MEM_STAT_ONLINE.place (.shl 0), 1), (Reg.SHL_MEM_FRAMES_FRAMES.place (.shl 0), 32768), (Reg.TIER_POLICY_HW_EN.place .tier, 0)]) with tier := { pages := [(5, { st := .resident .basin, frame := 0, frameTier := .basin })], dirs := [(0, { valid := true, used := 1, leaf := 257 })], leaves := [(257, true)], frames := [(67108864, true)], counts := [(5, 4)] } },
     by decide +kernel⟩,
   ⟨{ (st [(Reg.PG_READY_READY.place .tier, 1), (Reg.PG_READY_READY.place (.bas 0), 1), (Reg.BAS_MEM_STAT_ONLINE.place (.bas 0), 1), (Reg.BAS_MEM_FRAMES_FRAMES.place (.bas 0), 786432), (Reg.PG_READY_READY.place (.shl 0), 1), (Reg.SHL_MEM_STAT_ONLINE.place (.shl 0), 1), (Reg.SHL_MEM_FRAMES_FRAMES.place (.shl 0), 32768)]) with tier := { pages := [(5, { st := .resident .basin, frame := 0, frameTier := .basin })], dirs := [(0, { valid := true, used := 1, leaf := 257 })], leaves := [(257, true)], frames := [(67108864, true)], counts := [(5, 20)] } },
     5, 19, .shallows, 457, by decide +kernel⟩⟩

/-- The hypotheses of TierCommandsRun can be met, clause by clause. -/
theorem wit_TierCommandsRun :
    (∃ (s : State) (first : Nat) (n : Nat), s.ready .tier = true ∧ s.fld .tier Reg.TIER_CMD_BUSY = 0 ∧ first =
      s.fldAddr .tier Reg.TIER_CMD_ADDR_LO_ADDR_LO Reg.TIER_CMD_ADDR_HI_ADDR_HI / 65536 ∧ n = s.fld .tier
      Reg.TIER_CMD_COUNT_COUNT ∧ (∀ i, i < n → (s.leaf ((first + i) % 2 ^ 31)).st ≠ .inTransit)) ∧
    (∃ (s : State) (arg : Fin 4) (first : Nat) (n : Nat), s.ready .tier = true ∧ s.fld .tier Reg.TIER_CMD_BUSY = 0 ∧
      first = s.fldAddr .tier Reg.TIER_CMD_ADDR_LO_ADDR_LO Reg.TIER_CMD_ADDR_HI_ADDR_HI / 65536 ∧ n = s.fld .tier
      Reg.TIER_CMD_COUNT_COUNT ∧ (∀ i, i < n → (s.leaf ((first + i) % 2 ^ 31)).st ≠ .inTransit)) ∧
    (∃ (s : State) (arg : Fin 4) (first : Nat) (n : Nat), s.ready .tier = true ∧ s.fld .tier Reg.TIER_CMD_BUSY = 0 ∧
      first = s.fldAddr .tier Reg.TIER_CMD_ADDR_LO_ADDR_LO Reg.TIER_CMD_ADDR_HI_ADDR_HI / 65536 ∧ n = s.fld .tier
      Reg.TIER_CMD_COUNT_COUNT ∧ arg ≠ 0 ∧ n = 1 ∧ first < 2 ^ 31 ∧ ((s.leaf first).st = .resident (tierOf (arg.val -
      1)) ∨ (s.leaf first).st = .unwritten ∨ (s.leaf first).st = .poisoned ∨ (s.leaf first).st = .remote)) ∧
    (∃ (s : State) (arg : Fin 4) (first : Nat) (n : Nat) (t0 : TierName) (f : Nat), s.ready .tier = true ∧ s.fld
      .tier Reg.TIER_CMD_BUSY = 0 ∧ first = s.fldAddr .tier Reg.TIER_CMD_ADDR_LO_ADDR_LO Reg.TIER_CMD_ADDR_HI_ADDR_HI
      / 65536 ∧ n = s.fld .tier Reg.TIER_CMD_COUNT_COUNT ∧ arg ≠ 0 ∧ n = 1 ∧ first < 2 ^ 31 ∧ (s.leaf first).st =
      .resident t0 ∧ t0 ≠ tierOf (arg.val - 1) ∧ (s.leaf first).side = false ∧ s.tier.migs.length < 256 ∧ first ∉
      s.tier.filling ∧ (s.findFrame (tierOf (arg.val - 1)) (zoneOf first) = some f)) ∧
    (∃ (s : State) (first : Nat) (n : Nat), s.ready .tier = true ∧ s.fld .tier Reg.TIER_CMD_BUSY = 0 ∧ first =
      s.fldAddr .tier Reg.TIER_CMD_ADDR_LO_ADDR_LO Reg.TIER_CMD_ADDR_HI_ADDR_HI / 65536 ∧ n = s.fld .tier
      Reg.TIER_CMD_COUNT_COUNT ∧ n = 1 ∧ first < 2 ^ 31 ∧ (s.leaf first).st ≠ .inTransit ∧ (s.leaf first).st ≠
      .remote) ∧
    (∃ (s : State) (a : Fin 4), s.ready .tier = true ∧ s.fld .tier Reg.TIER_CMD_BUSY = 1) ∧
    (∃ (s : State) (c : TierCmd), (s.tier.cmd = some c) ∧ c.result ≠ 3) :=
  ⟨⟨{ (st [(Reg.PG_READY_READY.place .tier, 1), (Reg.PG_READY_READY.place (.bas 0), 1), (Reg.BAS_MEM_STAT_ONLINE.place (.bas 0), 1), (Reg.BAS_MEM_FRAMES_FRAMES.place (.bas 0), 786432), (Reg.PG_READY_READY.place (.shl 0), 1), (Reg.SHL_MEM_STAT_ONLINE.place (.shl 0), 1), (Reg.SHL_MEM_FRAMES_FRAMES.place (.shl 0), 32768), (Reg.TIER_CMD_ADDR_LO_ADDR_LO.place .tier, 5), (Reg.TIER_CMD_COUNT_COUNT.place .tier, 2)]) with tier := { pages := [(5, { st := .resident .basin, frame := 0, frameTier := .basin, pin := 1, hint := 2 })], dirs := [(0, { valid := true, used := 1, leaf := 257 })], leaves := [(257, true)], frames := [(67108864, true)] } },
     5, 2, by decide +kernel⟩,
   ⟨{ (st [(Reg.PG_READY_READY.place .tier, 1), (Reg.PG_READY_READY.place (.bas 0), 1), (Reg.BAS_MEM_STAT_ONLINE.place (.bas 0), 1), (Reg.BAS_MEM_FRAMES_FRAMES.place (.bas 0), 786432), (Reg.PG_READY_READY.place (.shl 0), 1), (Reg.SHL_MEM_STAT_ONLINE.place (.shl 0), 1), (Reg.SHL_MEM_FRAMES_FRAMES.place (.shl 0), 32768), (Reg.TIER_CMD_ADDR_LO_ADDR_LO.place .tier, 5), (Reg.TIER_CMD_COUNT_COUNT.place .tier, 2)]) with tier := { pages := [(5, { st := .resident .basin, frame := 0, frameTier := .basin, pin := 1, hint := 2 })], dirs := [(0, { valid := true, used := 1, leaf := 257 })], leaves := [(257, true)], frames := [(67108864, true)] } },
     1, 5, 2, by decide +kernel⟩,
   ⟨{ (st [(Reg.PG_READY_READY.place .tier, 1), (Reg.PG_READY_READY.place (.bas 0), 1), (Reg.BAS_MEM_STAT_ONLINE.place (.bas 0), 1), (Reg.BAS_MEM_FRAMES_FRAMES.place (.bas 0), 786432), (Reg.PG_READY_READY.place (.shl 0), 1), (Reg.SHL_MEM_STAT_ONLINE.place (.shl 0), 1), (Reg.SHL_MEM_FRAMES_FRAMES.place (.shl 0), 32768), (Reg.TIER_CMD_ADDR_LO_ADDR_LO.place .tier, 5)]) with tier := { pages := [(5, { st := .resident .basin, frame := 0, frameTier := .basin })], dirs := [(0, { valid := true, used := 1, leaf := 257 })], leaves := [(257, true)], frames := [(67108864, true)] }, mem := [(327690, 7)] },
     2, 5, 1, by decide +kernel⟩,
   ⟨{ (st [(Reg.PG_READY_READY.place .tier, 1), (Reg.PG_READY_READY.place (.bas 0), 1), (Reg.BAS_MEM_STAT_ONLINE.place (.bas 0), 1), (Reg.BAS_MEM_FRAMES_FRAMES.place (.bas 0), 786432), (Reg.PG_READY_READY.place (.shl 0), 1), (Reg.SHL_MEM_STAT_ONLINE.place (.shl 0), 1), (Reg.SHL_MEM_FRAMES_FRAMES.place (.shl 0), 32768), (Reg.TIER_CMD_ADDR_LO_ADDR_LO.place .tier, 5)]) with tier := { pages := [(5, { st := .resident .basin, frame := 0, frameTier := .basin })], dirs := [(0, { valid := true, used := 1, leaf := 257 })], leaves := [(257, true)], frames := [(67108864, true)] }, mem := [(327690, 7)] },
     1, 5, 1, .basin, 457, by decide +kernel⟩,
   ⟨{ (st [(Reg.PG_READY_READY.place .tier, 1), (Reg.PG_READY_READY.place (.bas 0), 1), (Reg.BAS_MEM_STAT_ONLINE.place (.bas 0), 1), (Reg.BAS_MEM_FRAMES_FRAMES.place (.bas 0), 786432), (Reg.PG_READY_READY.place (.shl 0), 1), (Reg.SHL_MEM_STAT_ONLINE.place (.shl 0), 1), (Reg.SHL_MEM_FRAMES_FRAMES.place (.shl 0), 32768), (Reg.TIER_CMD_ADDR_LO_ADDR_LO.place .tier, 5)]) with tier := { pages := [(5, { st := .resident .basin, frame := 0, frameTier := .basin })], dirs := [(0, { valid := true, used := 1, leaf := 257 })], leaves := [(257, true)], frames := [(67108864, true)] }, mem := [(327690, 7)] },
     5, 1, by decide +kernel⟩,
   ⟨st [(Reg.PG_READY_READY.place .tier, 1), (Reg.TIER_CMD_BUSY.place .tier, 1)], 1, by decide +kernel⟩,
   ⟨{ (st [(Reg.PG_READY_READY.place .tier, 1), (Reg.PG_READY_READY.place (.bas 0), 1), (Reg.BAS_MEM_STAT_ONLINE.place (.bas 0), 1), (Reg.BAS_MEM_FRAMES_FRAMES.place (.bas 0), 786432), (Reg.PG_READY_READY.place (.shl 0), 1), (Reg.SHL_MEM_STAT_ONLINE.place (.shl 0), 1), (Reg.SHL_MEM_FRAMES_FRAMES.place (.shl 0), 32768), (Reg.TIER_CMD_BUSY.place .tier, 1)]) with tier := { cmd := some { op := 1, arg := 0, first := 5, count := 2, done := 2, result := 0 } } },
     { op := 1, arg := 0, first := 5, count := 2, done := 2, result := 0 }, by decide +kernel⟩⟩

/-- The hypotheses of TierLayoutAndZones can be met, clause by clause. -/
theorem wit_TierLayoutAndZones :
    (∃ (s : State) (z : PartId) (v : Word), s.ready .tier = true ∧ (bits v.toNat 0 16 ≤ s.fld .tier (commitFld
      .shallows).1 z.val ∨ s.commitSum .shallows - s.fld .tier (commitFld .shallows).1 z.val + bits v.toNat 0 16 ≤
      s.fld .tier (commitFld .shallows).2) ∧ (bits v.toNat 16 16 ≤ s.fld .tier (commitFld .basin).1 z.val ∨
      s.commitSum .basin - s.fld .tier (commitFld .basin).1 z.val + bits v.toNat 16 16 ≤ s.fld .tier (commitFld
      .basin).2) ∧ s.fld .tier Reg.TIER_STAT_OVER = 0) ∧
    (∃ (s : State) (z : PartId) (v : Word), s.ready .tier = true ∧ (¬ (bits v.toNat 0 16 ≤ s.fld .tier (commitFld
      .shallows).1 z.val ∨ s.commitSum .shallows - s.fld .tier (commitFld .shallows).1 z.val + bits v.toNat 0 16 ≤
      s.fld .tier (commitFld .shallows).2)) ∧ (bits v.toNat 16 16 ≤ s.fld .tier (commitFld .basin).1 z.val ∨
      s.commitSum .basin - s.fld .tier (commitFld .basin).1 z.val + bits v.toNat 16 16 ≤ s.fld .tier (commitFld
      .basin).2) ∧ s.fld .tier Reg.TIER_STAT_OVER = 0) ∧
    (∃ (s : State) (z : PartId) (v : Word), s.ready .tier = true ∧ (bits v.toNat 0 16 ≤ s.fld .tier (commitFld
      .deep).1 z.val ∨ s.commitSum .deep - s.fld .tier (commitFld .deep).1 z.val + bits v.toNat 0 16 ≤ s.fld .tier
      (commitFld .deep).2) ∧ bits v.toNat 16 2 ≤ 2 ∧ s.fld .tier Reg.TIER_STAT_OVER = 0) ∧
    (∃ (s : State) (z : PartId) (v : Word), s.ready .tier = true ∧ bits v.toNat 16 12 ≤ bits v.toNat 0 12) ∧
    (∃ (s : State) (z : PartId) (v : Word), s.ready .tier = true ∧ bits v.toNat 16 13 ≤ bits v.toNat 0 13) ∧
    (∃ (s : State) (z : PartId) (w : Fin 4) (v : Word), s.ready .tier = true ∧ (w = 2 ∧ bits v.toNat 0 12 < bits
      v.toNat 16 12 ∨ w = 3 ∧ bits v.toNat 0 13 < bits v.toNat 16 13)) ∧
    (∃ (s : State) (v : Word), s.ready .tier = true ∧ s.locked .tier = false ∧ s.tierUsed = false) ∧
    (∃ (s : State) (v : Word), s.ready .tier = true ∧ s.locked .tier = false ∧ s.tierUsed = false ∧ bits v.toNat 0 8
      % 2 = 1 ∧ 3 ≤ bits v.toNat 0 8) ∧
    (∃ (s : State) (side : Bool) (v : Word), s.ready .tier = true ∧ (s.locked .tier = true ∨ s.tierUsed = true)) ∧
    (∃ (s : State) (d : TierName) (cap : Nat), cap < s.fld .tier (commitFld d).2) ∧
    (∃ (s : State) (page : Nat) (d : TierName) (pg : Page), (s.leaf page).st = .resident d ∧ page ∉ s.tier.filling ∧
      pg = instOf (s.leaf page).frameTier (s.leaf page).frame) ∧
    (∃ (s : State) (i : Fin 8) (dimms : Nat) (rate : Nat) (frames : Nat), s.ready ((.bas i)) = false ∧ s.fld .wlh
      Reg.WLH_STAT_RECOVERY = 0) ∧
    (∃ (s : State) (i : Fin 4) (dimms : Nat) (rate : Nat) (frames : Nat), s.ready ((.shl i)) = false ∧ s.fld .wlh
      Reg.WLH_STAT_RECOVERY = 0) ∧
    (∃ (s : State) (i : Fin 16) (dimms : Nat) (rate : Nat) (frames : Nat), s.ready ((.deep i)) = false ∧ s.fld .wlh
      Reg.WLH_STAT_RECOVERY = 0 ∧ dimms < 4 ∧ rate < 2 ^ Reg.DEEP_MEM_STAT_RATE.width) ∧
    (∃ (s : State) (pg : Page) (dimms : Nat) (rate : Nat) (frames : Nat), s.ready pg = false ∧ s.fld .wlh
      Reg.WLH_STAT_RECOVERY = 0 ∧ pg.kind ≠ .tile ∧ pg.kind ≠ .disp ∧ pg.kind ≠ .wlh ∧ pg.kind ≠ .bas ∧ pg.kind ≠
      .shl ∧ pg.kind ≠ .deep ∧ (pg = .tier → ∃ d : Fin 4, s.ready (.shl d) = true)) ∧
    (∃ (s : State) (pg : Page) (dimms : Nat) (rate : Nat) (frames : Nat), s.ready pg = false ∧ s.fld .wlh
      Reg.WLH_STAT_RECOVERY = 0 ∧ pg.kind ≠ .tile ∧ pg.kind ≠ .disp ∧ pg.kind ≠ .wlh) ∧
    (∃ (s : State) (r : PatrolRun), (r.pg.kind = .bas ∨ r.pg.kind = .shl ∨ r.pg.kind = .deep)) :=
  ⟨⟨{ (st [(Reg.PG_READY_READY.place .tier, 1), (Reg.PG_READY_READY.place (.bas 0), 1), (Reg.BAS_MEM_STAT_ONLINE.place (.bas 0), 1), (Reg.BAS_MEM_FRAMES_FRAMES.place (.bas 0), 786432), (Reg.PG_READY_READY.place (.shl 0), 1), (Reg.SHL_MEM_STAT_ONLINE.place (.shl 0), 1), (Reg.SHL_MEM_FRAMES_FRAMES.place (.shl 0), 32768)]) with tier := { } },
     3, 0x00100640, by decide +kernel⟩,
   ⟨{ (st [(Reg.PG_READY_READY.place .tier, 1), (Reg.PG_READY_READY.place (.bas 0), 1), (Reg.BAS_MEM_STAT_ONLINE.place (.bas 0), 1), (Reg.BAS_MEM_FRAMES_FRAMES.place (.bas 0), 786432), (Reg.PG_READY_READY.place (.shl 0), 1), (Reg.SHL_MEM_STAT_ONLINE.place (.shl 0), 1), (Reg.SHL_MEM_FRAMES_FRAMES.place (.shl 0), 32768)]) with tier := { } },
     3, 0x0000ffff, by decide +kernel⟩,
   ⟨{ (st [(Reg.PG_READY_READY.place .tier, 1), (Reg.PG_READY_READY.place (.bas 0), 1), (Reg.BAS_MEM_STAT_ONLINE.place (.bas 0), 1), (Reg.BAS_MEM_FRAMES_FRAMES.place (.bas 0), 786432), (Reg.PG_READY_READY.place (.shl 0), 1), (Reg.SHL_MEM_STAT_ONLINE.place (.shl 0), 1), (Reg.SHL_MEM_FRAMES_FRAMES.place (.shl 0), 32768)]) with tier := { } },
     3, 0x00020000, by decide +kernel⟩,
   ⟨{ (st [(Reg.PG_READY_READY.place .tier, 1), (Reg.PG_READY_READY.place (.bas 0), 1), (Reg.BAS_MEM_STAT_ONLINE.place (.bas 0), 1), (Reg.BAS_MEM_FRAMES_FRAMES.place (.bas 0), 786432), (Reg.PG_READY_READY.place (.shl 0), 1), (Reg.SHL_MEM_STAT_ONLINE.place (.shl 0), 1), (Reg.SHL_MEM_FRAMES_FRAMES.place (.shl 0), 32768)]) with tier := { } },
     3, 0x00100020, by decide +kernel⟩,
   ⟨{ (st [(Reg.PG_READY_READY.place .tier, 1), (Reg.PG_READY_READY.place (.bas 0), 1), (Reg.BAS_MEM_STAT_ONLINE.place (.bas 0), 1), (Reg.BAS_MEM_FRAMES_FRAMES.place (.bas 0), 786432), (Reg.PG_READY_READY.place (.shl 0), 1), (Reg.SHL_MEM_STAT_ONLINE.place (.shl 0), 1), (Reg.SHL_MEM_FRAMES_FRAMES.place (.shl 0), 32768)]) with tier := { } },
     3, 0x00100020, by decide +kernel⟩,
   ⟨{ (st [(Reg.PG_READY_READY.place .tier, 1), (Reg.PG_READY_READY.place (.bas 0), 1), (Reg.BAS_MEM_STAT_ONLINE.place (.bas 0), 1), (Reg.BAS_MEM_FRAMES_FRAMES.place (.bas 0), 786432), (Reg.PG_READY_READY.place (.shl 0), 1), (Reg.SHL_MEM_STAT_ONLINE.place (.shl 0), 1), (Reg.SHL_MEM_FRAMES_FRAMES.place (.shl 0), 32768)]) with tier := { } },
     3, 2, 0x00200010, by decide +kernel⟩,
   ⟨{ (st [(Reg.PG_READY_READY.place .tier, 1), (Reg.PG_READY_READY.place (.bas 0), 1), (Reg.BAS_MEM_STAT_ONLINE.place (.bas 0), 1), (Reg.BAS_MEM_FRAMES_FRAMES.place (.bas 0), 786432), (Reg.PG_READY_READY.place (.shl 0), 1), (Reg.SHL_MEM_STAT_ONLINE.place (.shl 0), 1), (Reg.SHL_MEM_FRAMES_FRAMES.place (.shl 0), 32768)]) with tier := { } },
     0x00100020, by decide +kernel⟩,
   ⟨{ (st [(Reg.PG_READY_READY.place .tier, 1), (Reg.PG_READY_READY.place (.bas 0), 1), (Reg.BAS_MEM_STAT_ONLINE.place (.bas 0), 1), (Reg.BAS_MEM_FRAMES_FRAMES.place (.bas 0), 786432), (Reg.PG_READY_READY.place (.shl 0), 1), (Reg.SHL_MEM_STAT_ONLINE.place (.shl 0), 1), (Reg.SHL_MEM_FRAMES_FRAMES.place (.shl 0), 32768)]) with tier := { } },
     0x0803, by decide +kernel⟩,
   ⟨{ (st [(Reg.PG_READY_READY.place .tier, 1), (Reg.PG_READY_READY.place (.bas 0), 1), (Reg.BAS_MEM_STAT_ONLINE.place (.bas 0), 1), (Reg.BAS_MEM_FRAMES_FRAMES.place (.bas 0), 786432), (Reg.PG_READY_READY.place (.shl 0), 1), (Reg.SHL_MEM_STAT_ONLINE.place (.shl 0), 1), (Reg.SHL_MEM_FRAMES_FRAMES.place (.shl 0), 32768)]) with tier := { pages := [(5, { st := .resident .basin, frame := 0, frameTier := .basin })], dirs := [(0, { valid := true, used := 1, leaf := 257 })], leaves := [(257, true)], frames := [(67108864, true)] } },
     true, 0x0803, by decide +kernel⟩,
   ⟨{ (st [(Reg.PG_READY_READY.place .tier, 1), (Reg.PG_READY_READY.place (.bas 0), 1), (Reg.BAS_MEM_STAT_ONLINE.place (.bas 0), 1), (Reg.BAS_MEM_FRAMES_FRAMES.place (.bas 0), 786432), (Reg.PG_READY_READY.place (.shl 0), 1), (Reg.SHL_MEM_STAT_ONLINE.place (.shl 0), 1), (Reg.SHL_MEM_FRAMES_FRAMES.place (.shl 0), 32768)]) with tier := { } },
     .shallows, 100, by decide +kernel⟩,
   ⟨{ (st [(Reg.PG_READY_READY.place .tier, 1), (Reg.PG_READY_READY.place (.bas 0), 1), (Reg.BAS_MEM_STAT_ONLINE.place (.bas 0), 1), (Reg.BAS_MEM_FRAMES_FRAMES.place (.bas 0), 786432), (Reg.PG_READY_READY.place (.shl 0), 1), (Reg.SHL_MEM_STAT_ONLINE.place (.shl 0), 1), (Reg.SHL_MEM_FRAMES_FRAMES.place (.shl 0), 32768)]) with tier := { pages := [(5, { st := .resident .basin, frame := 0, frameTier := .basin })], dirs := [(0, { valid := true, used := 1, leaf := 257 })], leaves := [(257, true)], frames := [(67108864, true)] } },
     5, .basin, .bas 0, by decide +kernel⟩,
   ⟨State.reset, 3, 0, 0, 0, by decide +kernel⟩,
   ⟨State.reset, 3, 0, 0, 0, by decide +kernel⟩,
   ⟨State.reset, 3, 2, 6400, 2097152, by decide +kernel⟩,
   ⟨State.reset, .port 3, 0, 0, 0, by decide +kernel⟩,
   ⟨State.reset, .port 3, 0, 0, 0, by decide +kernel⟩,
   ⟨st [], { pg := .bas 2, corrected := 3 }, by decide +kernel⟩⟩

/-- The hypotheses of HomesServeMemoryRequests can be met, clause by clause. -/
theorem wit_HomesServeMemoryRequests :
    (∃ (s : State) (r : MemReq) (page : Nat) (home : TierName), r.node = s.node ∧ r.srcNode ≠ s.node ∧ s.checkReq
      0x01 r = none ∧ page = pageOf r.offset ∧ (s.leaf page).st = .resident home ∧ (∀ h ∈ s.heldOn page, h.write =
      none) ∧ (r.cacheable = false ∨ (s.rgnOf r.part r.key).cacheOk = false)) ∧
    (∃ (s : State) (r : MemReq) (page : Nat) (home : TierName), r.node = s.node ∧ r.srcNode ≠ s.node ∧ s.checkReq
      0x01 r = none ∧ page = pageOf r.offset ∧ (s.leaf page).st = .resident home ∧ (∀ h ∈ s.heldOn page, h.write =
      none) ∧ r.cacheable = true ∧ (s.rgnOf r.part r.key).cacheOk = true ∧ ((s.note page).admitReader r).1 = false) ∧
    (∃ (s : State) (r : MemReq) (page : Nat) (home : TierName), r.node = s.node ∧ r.srcNode ≠ s.node ∧ s.checkReq
      0x02 r = none ∧ page = pageOf r.offset ∧ (s.leaf page).st = .resident home ∧ s.heldOn page = [] ∧ s.poolAt
      r.offset = none) ∧
    (∃ (s : State) (r : MemReq) (page : Nat) (home : TierName) (old : Nat) (x : Nat), r.node = s.node ∧ r.srcNode ≠
      s.node ∧ s.checkReq 0x10 r = none ∧ page = pageOf r.offset ∧ (s.leaf page).st = .resident home ∧ s.heldOn page
      = [] ∧ s.poolAt r.offset = none ∧ old = natOfBytes (Map.bytes s.mem r.offset 8) ∧ x = natOfBytes r.data) ∧
    (∃ (s : State) (r : MemReq) (page : Nat) (home : TierName) (old : Nat) (x : Nat), r.node = s.node ∧ r.srcNode ≠
      s.node ∧ s.checkReq 0x11 r = none ∧ page = pageOf r.offset ∧ (s.leaf page).st = .resident home ∧ s.heldOn page
      = [] ∧ s.poolAt r.offset = none ∧ old = natOfBytes (Map.bytes s.mem r.offset 8) ∧ x = natOfBytes r.data) ∧
    (∃ (s : State) (r : MemReq) (page : Nat) (home : TierName) (old : Nat) (x : Nat), r.node = s.node ∧ r.srcNode ≠
      s.node ∧ s.checkReq 0x12 r = none ∧ page = pageOf r.offset ∧ (s.leaf page).st = .resident home ∧ s.heldOn page
      = [] ∧ s.poolAt r.offset = none ∧ old = natOfBytes (Map.bytes s.mem r.offset 8) ∧ x = natOfBytes r.data) ∧
    (∃ (s : State) (r : MemReq) (page : Nat) (home : TierName) (old : Nat) (x : Nat), r.node = s.node ∧ r.srcNode ≠
      s.node ∧ s.checkReq 0x13 r = none ∧ page = pageOf r.offset ∧ (s.leaf page).st = .resident home ∧ s.heldOn page
      = [] ∧ s.poolAt r.offset = none ∧ old = natOfBytes (Map.bytes s.mem r.offset 16) ∧ x = natOfBytes r.data) ∧
    (∃ (s : State) (r : MemReq) (page : Nat) (home : TierName) (old : Nat) (x : Nat), r.node = s.node ∧ r.srcNode ≠
      s.node ∧ s.checkReq 0x14 r = none ∧ page = pageOf r.offset ∧ (s.leaf page).st = .resident home ∧ s.heldOn page
      = [] ∧ s.poolAt r.offset = none ∧ old = natOfBytes (Map.bytes s.mem r.offset 8) ∧ x = natOfBytes r.data) ∧
    (∃ (s : State) (r : MemReq) (q : MemReq) (e : EngId) (tag : Nat) (page : Nat) (home : TierName), r.srcNode =
      s.node ∧ r.node = s.node ∧ e = connEng r ∧ s.engLive e = true ∧ s.noFwd e ∧ (s.freeTag e = some tag) ∧ q =
      { s.issued r with tag := tag, plane := 0 } ∧ s.checkReq 0x01 q = none ∧ page = pageOf r.offset ∧ (s.leaf
      page).st = .resident home ∧ (∀ h ∈ s.heldOn page, h.write = none)) ∧
    (∃ (s : State) (r : MemReq) (q : MemReq) (e : EngId) (tag : Nat) (page : Nat) (home : TierName), r.srcNode =
      s.node ∧ r.node = s.node ∧ e = connEng r ∧ s.engLive e = true ∧ s.noFwd e ∧ (s.freeTag e = some tag) ∧ q =
      { s.issued r with tag := tag, plane := 0 } ∧ s.checkReq 0x02 q = none ∧ page = pageOf r.offset ∧ (s.leaf
      page).st = .resident home ∧ s.heldOn page = [] ∧ s.poolAt r.offset = none) ∧
    (∃ (s : State) (r : MemReq) (q : MemReq) (e : EngId) (tag : Nat) (page : Nat), r.srcNode = s.node ∧ r.node =
      s.node ∧ e = connEng r ∧ s.engLive e = true ∧ s.noFwd e ∧ (s.freeTag e = some tag) ∧ q =
      { s.issued r with tag := tag, plane := 0 } ∧ s.checkReq 0x02 q = none ∧ r.placeAck = false ∧ page = pageOf
      r.offset ∧ (s.heldOn page ≠ [] ∨ (s.leaf page).st = .inTransit) ∧ (s.heldOn page).length < 64) ∧
    (∃ (s : State) (r : MemReq) (q : MemReq) (e : EngId) (tag : Nat) (page : Nat) (home : TierName) (old : List
      Byte), r.srcNode = s.node ∧ r.node = s.node ∧ e = connEng r ∧ s.engLive e = true ∧ s.noFwd e ∧ (s.freeTag e =
      some tag) ∧ q = { s.issued r with tag := tag, plane := 0 } ∧ (∃ o ∈
      [(Instr.fadd64, 0x10), (.swap64, 0x11), (.cas64, 0x12), (.cas128, 0x13), (.for64, 0x14)], s.checkReq o.2 q =
      none ∧ page = pageOf r.offset ∧ (s.leaf page).st = .resident home ∧ s.heldOn page = [] ∧ s.poolAt r.offset =
      none ∧ old = Map.bytes s.mem r.offset (8 * (r.len8 + 1)))) ∧
    (∃ (s : State) (r : MemReq) (c : Nat) (lease : Bool), r.node = s.node ∧ r.srcNode ≠ s.node ∧ (∃ o ∈
      [(Instr.load, 0x01), (.store, 0x02), (.fadd64, 0x10), (.swap64, 0x11), (.cas64, 0x12), (.cas128, 0x13), (.for64, 0x14), (.invalidate, 0x30)],
      s.checkReq o.2 r = some (c, lease))) ∧
    (∃ (s : State) (r : MemReq) (q : MemReq) (e : EngId) (tag : Nat) (c : Nat) (lease : Bool), r.srcNode = s.node ∧
      r.node = s.node ∧ e = connEng r ∧ s.engLive e = true ∧ s.noFwd e ∧ (s.freeTag e = some tag) ∧ q =
      { s.issued r with tag := tag, plane := 0 } ∧ (∃ o ∈
      [(Instr.load, 0x01), (.store, 0x02), (.fadd64, 0x10), (.swap64, 0x11), (.cas64, 0x12), (.cas128, 0x13), (.for64, 0x14)],
      s.checkReq o.2 q = some (c, lease))) :=
  ⟨⟨{ (st [(Reg.PG_READY_READY.place .tier, 1), (Reg.PG_READY_READY.place (.bas 0), 1), (Reg.BAS_MEM_STAT_ONLINE.place (.bas 0), 1), (Reg.BAS_MEM_FRAMES_FRAMES.place (.bas 0), 786432), (Reg.PG_READY_READY.place (.shl 0), 1), (Reg.SHL_MEM_STAT_ONLINE.place (.shl 0), 1), (Reg.SHL_MEM_FRAMES_FRAMES.place (.shl 0), 32768), (Reg.DEV_NODE_NODE.place .dev, 9), (Reg.DEV_NODE_VALID.place .dev, 1), (Reg.PG_READY_READY.place (.disp 0), 1), (Reg.PG_READY_READY.place (.feng 7), 1)]) with tier := { pages := [(5, { st := .resident .basin, frame := 0, frameTier := .basin })], dirs := [(0, { valid := true, used := 1, leaf := 257 })], leaves := [(257, true)], frames := [(67108864, true)] }, regions := [(0, { valid := true, read := true, write := true, atomic := true, cacheOk := true, base := 0, lenM1 := 1048575, rgFirst := 0, rgCount := 64 })], mem := [(327688, 5), (327690, 9)] },
     { tc := 2, cacheable := false, placeAck := true, len8 := 0, srcFeng := 6, srcNode := 4, tag := 7, node := 9, part := 0, offset := 327688, key := 0, gen := 0, epoch := 0, rsvZero := true, data := [] },
     5, .basin, by decide +kernel⟩,
   ⟨{ (st [(Reg.PG_READY_READY.place .tier, 1), (Reg.PG_READY_READY.place (.bas 0), 1), (Reg.BAS_MEM_STAT_ONLINE.place (.bas 0), 1), (Reg.BAS_MEM_FRAMES_FRAMES.place (.bas 0), 786432), (Reg.PG_READY_READY.place (.shl 0), 1), (Reg.SHL_MEM_STAT_ONLINE.place (.shl 0), 1), (Reg.SHL_MEM_FRAMES_FRAMES.place (.shl 0), 32768), (Reg.DEV_NODE_NODE.place .dev, 9), (Reg.DEV_NODE_VALID.place .dev, 1), (Reg.PG_READY_READY.place (.disp 0), 1), (Reg.PG_READY_READY.place (.feng 7), 1)]) with tier := { pages := [(5, { st := .resident .basin, frame := 0, frameTier := .basin })], dirs := [(0, { valid := true, used := 1, leaf := 257 })], leaves := [(257, true)], frames := [(67108864, true)] }, regions := [(0, { valid := true, read := true, write := true, atomic := true, cacheOk := true, base := 0, lenM1 := 1048575, rgFirst := 0, rgCount := 64 })], mem := [(327688, 5), (327690, 9)] },
     { tc := 2, cacheable := true, placeAck := true, len8 := 0, srcFeng := 6, srcNode := 4, tag := 7, node := 9, part := 0, offset := 327688, key := 0, gen := 0, epoch := 0, rsvZero := true, data := [] },
     5, .basin, by decide +kernel⟩,
   ⟨{ (st [(Reg.PG_READY_READY.place .tier, 1), (Reg.PG_READY_READY.place (.bas 0), 1), (Reg.BAS_MEM_STAT_ONLINE.place (.bas 0), 1), (Reg.BAS_MEM_FRAMES_FRAMES.place (.bas 0), 786432), (Reg.PG_READY_READY.place (.shl 0), 1), (Reg.SHL_MEM_STAT_ONLINE.place (.shl 0), 1), (Reg.SHL_MEM_FRAMES_FRAMES.place (.shl 0), 32768), (Reg.DEV_NODE_NODE.place .dev, 9), (Reg.DEV_NODE_VALID.place .dev, 1), (Reg.PG_READY_READY.place (.disp 0), 1), (Reg.PG_READY_READY.place (.feng 7), 1)]) with tier := { pages := [(5, { st := .resident .basin, frame := 0, frameTier := .basin })], dirs := [(0, { valid := true, used := 1, leaf := 257 })], leaves := [(257, true)], frames := [(67108864, true)] }, regions := [(0, { valid := true, read := true, write := true, atomic := true, cacheOk := true, base := 0, lenM1 := 1048575, rgFirst := 0, rgCount := 64 })], mem := [(327688, 5), (327690, 9)] },
     { tc := 2, cacheable := false, placeAck := true, len8 := 0, srcFeng := 6, srcNode := 4, tag := 7, node := 9, part := 0, offset := 327688, key := 0, gen := 0, epoch := 0, rsvZero := true, data := [1, 0, 3, 4, 5, 6, 7, 8] },
     5, .basin, by decide +kernel⟩,
   ⟨{ (st [(Reg.PG_READY_READY.place .tier, 1), (Reg.PG_READY_READY.place (.bas 0), 1), (Reg.BAS_MEM_STAT_ONLINE.place (.bas 0), 1), (Reg.BAS_MEM_FRAMES_FRAMES.place (.bas 0), 786432), (Reg.PG_READY_READY.place (.shl 0), 1), (Reg.SHL_MEM_STAT_ONLINE.place (.shl 0), 1), (Reg.SHL_MEM_FRAMES_FRAMES.place (.shl 0), 32768), (Reg.DEV_NODE_NODE.place .dev, 9), (Reg.DEV_NODE_VALID.place .dev, 1), (Reg.PG_READY_READY.place (.disp 0), 1), (Reg.PG_READY_READY.place (.feng 7), 1)]) with tier := { pages := [(5, { st := .resident .basin, frame := 0, frameTier := .basin })], dirs := [(0, { valid := true, used := 1, leaf := 257 })], leaves := [(257, true)], frames := [(67108864, true)] }, regions := [(0, { valid := true, read := true, write := true, atomic := true, cacheOk := true, base := 0, lenM1 := 1048575, rgFirst := 0, rgCount := 64 })], mem := [(327688, 5), (327690, 9)] },
     { tc := 2, cacheable := false, placeAck := true, len8 := 0, srcFeng := 6, srcNode := 4, tag := 7, node := 9, part := 0, offset := 327688, key := 0, gen := 0, epoch := 0, rsvZero := true, data := [255, 255, 255, 255, 255, 255, 255, 255] },
     5, .basin, natOfBytes (Map.bytes
     ({ (st [(Reg.PG_READY_READY.place .tier, 1), (Reg.PG_READY_READY.place (.bas 0), 1), (Reg.BAS_MEM_STAT_ONLINE.place (.bas 0), 1), (Reg.BAS_MEM_FRAMES_FRAMES.place (.bas 0), 786432), (Reg.PG_READY_READY.place (.shl 0), 1), (Reg.SHL_MEM_STAT_ONLINE.place (.shl 0), 1), (Reg.SHL_MEM_FRAMES_FRAMES.place (.shl 0), 32768), (Reg.DEV_NODE_NODE.place .dev, 9), (Reg.DEV_NODE_VALID.place .dev, 1), (Reg.PG_READY_READY.place (.disp 0), 1), (Reg.PG_READY_READY.place (.feng 7), 1)]) with tier := { pages := [(5, { st := .resident .basin, frame := 0, frameTier := .basin })], dirs := [(0, { valid := true, used := 1, leaf := 257 })], leaves := [(257, true)], frames := [(67108864, true)] }, regions := [(0, { valid := true, read := true, write := true, atomic := true, cacheOk := true, base := 0, lenM1 := 1048575, rgFirst := 0, rgCount := 64 })], mem := [(327688, 5), (327690, 9)] }).mem
     327688 8), natOfBytes ([255, 255, 255, 255, 255, 255, 255, 255] : List Byte), by decide +kernel⟩,
   ⟨{ (st [(Reg.PG_READY_READY.place .tier, 1), (Reg.PG_READY_READY.place (.bas 0), 1), (Reg.BAS_MEM_STAT_ONLINE.place (.bas 0), 1), (Reg.BAS_MEM_FRAMES_FRAMES.place (.bas 0), 786432), (Reg.PG_READY_READY.place (.shl 0), 1), (Reg.SHL_MEM_STAT_ONLINE.place (.shl 0), 1), (Reg.SHL_MEM_FRAMES_FRAMES.place (.shl 0), 32768), (Reg.DEV_NODE_NODE.place .dev, 9), (Reg.DEV_NODE_VALID.place .dev, 1), (Reg.PG_READY_READY.place (.disp 0), 1), (Reg.PG_READY_READY.place (.feng 7), 1)]) with tier := { pages := [(5, { st := .resident .basin, frame := 0, frameTier := .basin })], dirs := [(0, { valid := true, used := 1, leaf := 257 })], leaves := [(257, true)], frames := [(67108864, true)] }, regions := [(0, { valid := true, read := true, write := true, atomic := true, cacheOk := true, base := 0, lenM1 := 1048575, rgFirst := 0, rgCount := 64 })], mem := [(327688, 5), (327690, 9)] },
     { tc := 2, cacheable := false, placeAck := true, len8 := 0, srcFeng := 6, srcNode := 4, tag := 7, node := 9, part := 0, offset := 327688, key := 0, gen := 0, epoch := 0, rsvZero := true, data := [1, 2, 3, 4, 5, 6, 7, 8] },
     5, .basin, natOfBytes (Map.bytes
     ({ (st [(Reg.PG_READY_READY.place .tier, 1), (Reg.PG_READY_READY.place (.bas 0), 1), (Reg.BAS_MEM_STAT_ONLINE.place (.bas 0), 1), (Reg.BAS_MEM_FRAMES_FRAMES.place (.bas 0), 786432), (Reg.PG_READY_READY.place (.shl 0), 1), (Reg.SHL_MEM_STAT_ONLINE.place (.shl 0), 1), (Reg.SHL_MEM_FRAMES_FRAMES.place (.shl 0), 32768), (Reg.DEV_NODE_NODE.place .dev, 9), (Reg.DEV_NODE_VALID.place .dev, 1), (Reg.PG_READY_READY.place (.disp 0), 1), (Reg.PG_READY_READY.place (.feng 7), 1)]) with tier := { pages := [(5, { st := .resident .basin, frame := 0, frameTier := .basin })], dirs := [(0, { valid := true, used := 1, leaf := 257 })], leaves := [(257, true)], frames := [(67108864, true)] }, regions := [(0, { valid := true, read := true, write := true, atomic := true, cacheOk := true, base := 0, lenM1 := 1048575, rgFirst := 0, rgCount := 64 })], mem := [(327688, 5), (327690, 9)] }).mem
     327688 8), natOfBytes ([1, 2, 3, 4, 5, 6, 7, 8] : List Byte), by decide +kernel⟩,
   ⟨{ (st [(Reg.PG_READY_READY.place .tier, 1), (Reg.PG_READY_READY.place (.bas 0), 1), (Reg.BAS_MEM_STAT_ONLINE.place (.bas 0), 1), (Reg.BAS_MEM_FRAMES_FRAMES.place (.bas 0), 786432), (Reg.PG_READY_READY.place (.shl 0), 1), (Reg.SHL_MEM_STAT_ONLINE.place (.shl 0), 1), (Reg.SHL_MEM_FRAMES_FRAMES.place (.shl 0), 32768), (Reg.DEV_NODE_NODE.place .dev, 9), (Reg.DEV_NODE_VALID.place .dev, 1), (Reg.PG_READY_READY.place (.disp 0), 1), (Reg.PG_READY_READY.place (.feng 7), 1)]) with tier := { pages := [(5, { st := .resident .basin, frame := 0, frameTier := .basin })], dirs := [(0, { valid := true, used := 1, leaf := 257 })], leaves := [(257, true)], frames := [(67108864, true)] }, regions := [(0, { valid := true, read := true, write := true, atomic := true, cacheOk := true, base := 0, lenM1 := 1048575, rgFirst := 0, rgCount := 64 })], mem := [(327688, 5), (327690, 9)] },
     { tc := 2, cacheable := false, placeAck := true, len8 := 0, srcFeng := 6, srcNode := 4, tag := 7, node := 9, part := 0, offset := 327688, key := 0, gen := 0, epoch := 0, rsvZero := true, data := [5, 0, 9, 0, 0, 0, 0, 0, 8, 8, 8, 8, 8, 8, 8, 8] },
     5, .basin, natOfBytes (Map.bytes
     ({ (st [(Reg.PG_READY_READY.place .tier, 1), (Reg.PG_READY_READY.place (.bas 0), 1), (Reg.BAS_MEM_STAT_ONLINE.place (.bas 0), 1), (Reg.BAS_MEM_FRAMES_FRAMES.place (.bas 0), 786432), (Reg.PG_READY_READY.place (.shl 0), 1), (Reg.SHL_MEM_STAT_ONLINE.place (.shl 0), 1), (Reg.SHL_MEM_FRAMES_FRAMES.place (.shl 0), 32768), (Reg.DEV_NODE_NODE.place .dev, 9), (Reg.DEV_NODE_VALID.place .dev, 1), (Reg.PG_READY_READY.place (.disp 0), 1), (Reg.PG_READY_READY.place (.feng 7), 1)]) with tier := { pages := [(5, { st := .resident .basin, frame := 0, frameTier := .basin })], dirs := [(0, { valid := true, used := 1, leaf := 257 })], leaves := [(257, true)], frames := [(67108864, true)] }, regions := [(0, { valid := true, read := true, write := true, atomic := true, cacheOk := true, base := 0, lenM1 := 1048575, rgFirst := 0, rgCount := 64 })], mem := [(327688, 5), (327690, 9)] }).mem
     327688 8), natOfBytes ([5, 0, 9, 0, 0, 0, 0, 0, 8, 8, 8, 8, 8, 8, 8, 8] : List Byte), by decide +kernel⟩,
   ⟨{ (st [(Reg.PG_READY_READY.place .tier, 1), (Reg.PG_READY_READY.place (.bas 0), 1), (Reg.BAS_MEM_STAT_ONLINE.place (.bas 0), 1), (Reg.BAS_MEM_FRAMES_FRAMES.place (.bas 0), 786432), (Reg.PG_READY_READY.place (.shl 0), 1), (Reg.SHL_MEM_STAT_ONLINE.place (.shl 0), 1), (Reg.SHL_MEM_FRAMES_FRAMES.place (.shl 0), 32768), (Reg.DEV_NODE_NODE.place .dev, 9), (Reg.DEV_NODE_VALID.place .dev, 1), (Reg.PG_READY_READY.place (.disp 0), 1), (Reg.PG_READY_READY.place (.feng 7), 1)]) with tier := { pages := [(5, { st := .resident .basin, frame := 0, frameTier := .basin })], dirs := [(0, { valid := true, used := 1, leaf := 257 })], leaves := [(257, true)], frames := [(67108864, true)] }, regions := [(0, { valid := true, read := true, write := true, atomic := true, cacheOk := true, base := 0, lenM1 := 1048575, rgFirst := 0, rgCount := 64 })], mem := [(327688, 5), (327690, 9)] },
     { tc := 2, cacheable := false, placeAck := true, len8 := 1, srcFeng := 6, srcNode := 4, tag := 7, node := 9, part := 0, offset := 327696, key := 0, gen := 0, epoch := 0, rsvZero := true, data := [0, 0, 0, 0, 0, 0, 0, 0, 0, 0, 0, 0, 0, 0, 0, 0, 8, 8, 8, 8, 8, 8, 8, 8, 8, 8, 8, 8, 8, 8, 8, 8] },
     5, .basin, natOfBytes (Map.bytes
     ({ (st [(Reg.PG_READY_READY.place .tier, 1), (Reg.PG_READY_READY.place (.bas 0), 1), (Reg.BAS_MEM_STAT_ONLINE.place (.bas 0), 1), (Reg.BAS_MEM_FRAMES_FRAMES.place (.bas 0), 786432), (Reg.PG_READY_READY.place (.shl 0), 1), (Reg.SHL_MEM_STAT_ONLINE.place (.shl 0), 1), (Reg.SHL_MEM_FRAMES_FRAMES.place (.shl 0), 32768), (Reg.DEV_NODE_NODE.place .dev, 9), (Reg.DEV_NODE_VALID.place .dev, 1), (Reg.PG_READY_READY.place (.disp 0), 1), (Reg.PG_READY_READY.place (.feng 7), 1)]) with tier := { pages := [(5, { st := .resident .basin, frame := 0, frameTier := .basin })], dirs := [(0, { valid := true, used := 1, leaf := 257 })], leaves := [(257, true)], frames := [(67108864, true)] }, regions := [(0, { valid := true, read := true, write := true, atomic := true, cacheOk := true, base := 0, lenM1 := 1048575, rgFirst := 0, rgCount := 64 })], mem := [(327688, 5), (327690, 9)] }).mem
     327696 16), natOfBytes
     ([0, 0, 0, 0, 0, 0, 0, 0, 0, 0, 0, 0, 0, 0, 0, 0, 8, 8, 8, 8, 8, 8, 8, 8, 8, 8, 8, 8, 8, 8, 8, 8] : List Byte),
     by decide +kernel⟩,
   ⟨{ (st [(Reg.PG_READY_READY.place .tier, 1), (Reg.PG_READY_READY.place (.bas 0), 1), (Reg.BAS_MEM_STAT_ONLINE.place (.bas 0), 1), (Reg.BAS_MEM_FRAMES_FRAMES.place (.bas 0), 786432), (Reg.PG_READY_READY.place (.shl 0), 1), (Reg.SHL_MEM_STAT_ONLINE.place (.shl 0), 1), (Reg.SHL_MEM_FRAMES_FRAMES.place (.shl 0), 32768), (Reg.DEV_NODE_NODE.place .dev, 9), (Reg.DEV_NODE_VALID.place .dev, 1), (Reg.PG_READY_READY.place (.disp 0), 1), (Reg.PG_READY_READY.place (.feng 7), 1)]) with tier := { pages := [(5, { st := .resident .basin, frame := 0, frameTier := .basin })], dirs := [(0, { valid := true, used := 1, leaf := 257 })], leaves := [(257, true)], frames := [(67108864, true)] }, regions := [(0, { valid := true, read := true, write := true, atomic := true, cacheOk := true, base := 0, lenM1 := 1048575, rgFirst := 0, rgCount := 64 })], mem := [(327688, 5), (327690, 9)] },
     { tc := 2, cacheable := false, placeAck := true, len8 := 0, srcFeng := 6, srcNode := 4, tag := 7, node := 9, part := 0, offset := 327688, key := 0, gen := 0, epoch := 0, rsvZero := true, data := [1, 2, 3, 4, 5, 6, 7, 8] },
     5, .basin, natOfBytes (Map.bytes
     ({ (st [(Reg.PG_READY_READY.place .tier, 1), (Reg.PG_READY_READY.place (.bas 0), 1), (Reg.BAS_MEM_STAT_ONLINE.place (.bas 0), 1), (Reg.BAS_MEM_FRAMES_FRAMES.place (.bas 0), 786432), (Reg.PG_READY_READY.place (.shl 0), 1), (Reg.SHL_MEM_STAT_ONLINE.place (.shl 0), 1), (Reg.SHL_MEM_FRAMES_FRAMES.place (.shl 0), 32768), (Reg.DEV_NODE_NODE.place .dev, 9), (Reg.DEV_NODE_VALID.place .dev, 1), (Reg.PG_READY_READY.place (.disp 0), 1), (Reg.PG_READY_READY.place (.feng 7), 1)]) with tier := { pages := [(5, { st := .resident .basin, frame := 0, frameTier := .basin })], dirs := [(0, { valid := true, used := 1, leaf := 257 })], leaves := [(257, true)], frames := [(67108864, true)] }, regions := [(0, { valid := true, read := true, write := true, atomic := true, cacheOk := true, base := 0, lenM1 := 1048575, rgFirst := 0, rgCount := 64 })], mem := [(327688, 5), (327690, 9)] }).mem
     327688 8), natOfBytes ([1, 2, 3, 4, 5, 6, 7, 8] : List Byte), by decide +kernel⟩,
   ⟨fab, reqBy 9 [], reqBy 9 [], 7, 0, 5, .basin, by decide +kernel⟩,
   ⟨fab, reqBy 9 [1, 0, 3, 4, 5, 6, 7, 8], reqBy 9 [1, 0, 3, 4, 5, 6, 7, 8], 7, 0, 5, .basin, by decide +kernel⟩,
   ⟨{ fab with tier := { fab.tier with pages := [(5, { st := .inTransit })] } },
     { reqBy 9 [1, 0, 3, 4, 5, 6, 7, 8] with placeAck := false },
     { reqBy 9 [1, 0, 3, 4, 5, 6, 7, 8] with placeAck := false }, 7, 0, 5, by decide +kernel⟩,
   ⟨fab, reqBy 9 [1, 0, 3, 4, 5, 6, 7, 8], reqBy 9 [1, 0, 3, 4, 5, 6, 7, 8], 7, 0, 5, .basin, Map.bytes fab.mem
     327688 8, by decide +kernel⟩,
   ⟨{ (st [(Reg.DEV_NODE_NODE.place .dev, 9), (Reg.DEV_NODE_VALID.place .dev, 1)]) with now := 0 },
     { tc := 2, cacheable := false, placeAck := false, len8 := 0, srcFeng := 6, srcNode := 4, tag := 7, node := 9, part := 0, offset := 327688, key := 0, gen := 0, epoch := 0, rsvZero := true, data := [1, 0, 3, 4, 5, 6, 7, 8] },
     1, false, by decide +kernel⟩,
   ⟨fab, { reqBy 9 [] with offset := 2097152 }, { reqBy 9 [] with offset := 2097152 }, 7, 0, 9, false,
     by decide +kernel⟩⟩

/-- The hypotheses of IssuedRequestsLeaveOnTheirPlane can be met, clause by clause. -/
theorem wit_IssuedRequestsLeaveOnTheirPlane :
    (∃ (s : State) (r : MemReq) (r1 : MemReq) (e : EngId) (tag : Nat) (plane : Nat), r.srcNode = s.node ∧ r.node ≠
      s.node ∧ e = connEng r ∧ s.fenced (partOfEng e) = false ∧ s.ready (.feng e) = true ∧ s.rrc.find? (lineIs
      (partOfEng e) r) = none ∧ (s.freeTag e = some tag) ∧ r1 = { s.issued r with tag := tag } ∧ (s.planeOf e r.node
      (connKey r1) = some plane) ∧ s.connWaits r1 plane = false) ∧
    (∃ (s : State) (r : MemReq) (e : EngId) (l : Line), r.srcNode = s.node ∧ r.node ≠ s.node ∧ e = connEng r ∧
      s.fenced (partOfEng e) = false ∧ s.ready (.feng e) = true ∧ (s.rrc.find? (lineIs (partOfEng e) r) = some l)) ∧
    (∃ (s : State) (r : MemReq) (r1 : MemReq) (e : EngId) (tag : Nat) (plane : Nat), r.srcNode = s.node ∧ r.node ≠
      s.node ∧ e = connEng r ∧ s.fenced (partOfEng e) = false ∧ s.ready (.feng e) = true ∧ (s.freeTag e = some tag) ∧
      r1 = { s.issued r with tag := tag } ∧ (s.planeOf e r.node (connKey r1) = some plane) ∧ s.connWaits r1 plane =
      false) ∧
    (∃ (s : State) (r : MemReq) (r1 : MemReq) (e : EngId) (tag : Nat) (plane : Nat), r.srcNode = s.node ∧ r.node ≠
      s.node ∧ e = connEng r ∧ s.fenced (partOfEng e) = false ∧ s.ready (.feng e) = true ∧ (s.freeTag e = some tag) ∧
      r1 = { s.issued r with tag := tag } ∧ (s.planeOf e r.node (connKey r1) = some plane) ∧ s.connWaits r1 plane =
      false) ∧
    (∃ (s : State) (r : MemReq) (r1 : MemReq) (e : EngId) (tag : Nat) (plane : Nat), r.srcNode = s.node ∧ r.node ≠
      s.node ∧ e = connEng r ∧ s.fenced (partOfEng e) = false ∧ s.ready (.feng e) = true ∧ (s.freeTag e = some tag) ∧
      r1 = { s.issued r with tag := tag } ∧ (s.planeOf e r.node (connKey r1) = some plane) ∧ s.connWaits r1 plane =
      false) ∧
    (∃ (s : State) (r : MemReq) (r1 : MemReq) (e : EngId) (tag : Nat) (plane : Nat), r.srcNode = s.node ∧ r.node ≠
      s.node ∧ e = connEng r ∧ s.fenced (partOfEng e) = false ∧ s.ready (.feng e) = true ∧ (s.freeTag e = some tag) ∧
      r1 = { s.issued r with tag := tag } ∧ (s.planeOf e r.node (connKey r1) = some plane) ∧ s.connWaits r1 plane =
      false) ∧
    (∃ (s : State) (r : MemReq) (r1 : MemReq) (e : EngId) (tag : Nat) (plane : Nat), r.srcNode = s.node ∧ r.node ≠
      s.node ∧ e = connEng r ∧ s.fenced (partOfEng e) = false ∧ s.ready (.feng e) = true ∧ (s.freeTag e = some tag) ∧
      r1 = { s.issued r with tag := tag } ∧ (s.planeOf e r.node (connKey r1) = some plane) ∧ s.connWaits r1 plane =
      false) ∧
    (∃ (s : State) (r : MemReq) (r1 : MemReq) (e : EngId) (tag : Nat) (plane : Nat), r.srcNode = s.node ∧ r.node ≠
      s.node ∧ e = connEng r ∧ s.fenced (partOfEng e) = false ∧ s.ready (.feng e) = true ∧ (s.freeTag e = some tag) ∧
      r1 = { s.issued r with tag := tag } ∧ (s.planeOf e r.node (connKey r1) = some plane) ∧ s.connWaits r1 plane =
      false) ∧
    (∃ (s : State) (r : MemReq) (r1 : MemReq) (e : EngId) (tag : Nat) (plane : Nat), r.srcNode = s.node ∧ r.node ≠
      s.node ∧ e = connEng r ∧ s.fenced (partOfEng e) = false ∧ s.ready (.feng e) = true ∧ (s.freeTag e = some tag) ∧
      r1 = { s.issued { r with tc := 1, len8 := 0, data := [] } with tag := tag } ∧ (s.planeOf e r.node (connKey r1)
      = some plane) ∧ s.connWaits r1 plane = false) ∧
    (∃ (s : State) (r : MemReq) (e : EngId), r.srcNode = s.node ∧ r.node ≠ s.node ∧ e = connEng r ∧ s.fenced
      (partOfEng e) = false ∧ s.ready (.feng e) = true ∧ s.freeTag e = none ∧ (s.rrc.find? (lineIs (partOfEng e) r) =
      none)) ∧
    (∃ (s : State) (r : MemReq) (e : EngId) (tag : Nat), r.srcNode = s.node ∧ r.node ≠ s.node ∧ e = connEng r ∧
      s.fenced (partOfEng e) = false ∧ s.ready (.feng e) = true ∧ (s.freeTag e = some tag) ∧ (s.rrc.find? (lineIs
      (partOfEng e) r) = none) ∧ s.planeOf e r.node (connKey { r with srcFeng := e }) = none) ∧
    (∃ (s : State) (r : MemReq), r.srcNode = s.node ∧ s.engLive (connEng r) = false) :=
  ⟨⟨{ (st [(Reg.DEV_NODE_NODE.place .dev, 9), (Reg.DEV_NODE_VALID.place .dev, 1), (Reg.PG_READY_READY.place (.feng 7), 1), (Reg.PORT_STAT_LINK_UP.place (.port 3), 1)]) with rrc := [{ part := 3, node := 4, gpart := 0, block := 1280, key := 5, data := [] }] },
     { tc := 2, cacheable := false, placeAck := true, len8 := 0, srcFeng := 6, srcNode := 9, tag := 7, node := 4, part := 1, offset := 458752, key := 5, gen := 0, epoch := 0, rsvZero := true, data := [] },
     { ({ tc := 2, cacheable := false, placeAck := true, len8 := 0, srcFeng := 6, srcNode := 9, tag := 7, node := 4, part := 1, offset := 458752, key := 5, gen := 0, epoch := 0, rsvZero := true, data := [] } : MemReq) with srcFeng := 7, epoch := ({ (st [(Reg.DEV_NODE_NODE.place .dev, 9), (Reg.DEV_NODE_VALID.place .dev, 1), (Reg.PG_READY_READY.place (.feng 7), 1), (Reg.PORT_STAT_LINK_UP.place (.port 3), 1)]) with rrc := [{ part := 3, node := 4, gpart := 0, block := 1280, key := 5, data := [] }] }).epoch % 65536, tag := 0 },
     7, 0, 3, by decide +kernel⟩,
   ⟨{ (st [(Reg.DEV_NODE_NODE.place .dev, 9), (Reg.DEV_NODE_VALID.place .dev, 1), (Reg.PG_READY_READY.place (.feng 7), 1), (Reg.PORT_STAT_LINK_UP.place (.port 3), 1)]) with rrc := [{ part := 3, node := 4, gpart := 0, block := 1280, key := 5, data := [] }] },
     { tc := 2, cacheable := false, placeAck := true, len8 := 0, srcFeng := 6, srcNode := 9, tag := 7, node := 4, part := 1, offset := 327688, key := 5, gen := 0, epoch := 0, rsvZero := true, data := [] },
     7, { part := 3, node := 4, gpart := 0, block := 1280, key := 5, data := [] }, by decide +kernel⟩,
   ⟨{ (st [(Reg.DEV_NODE_NODE.place .dev, 9), (Reg.DEV_NODE_VALID.place .dev, 1), (Reg.PG_READY_READY.place (.feng 7), 1), (Reg.PORT_STAT_LINK_UP.place (.port 3), 1)]) with rrc := [{ part := 3, node := 4, gpart := 0, block := 1280, key := 5, data := [] }] },
     { tc := 2, cacheable := false, placeAck := true, len8 := 0, srcFeng := 6, srcNode := 9, tag := 7, node := 4, part := 1, offset := 327688, key := 5, gen := 0, epoch := 0, rsvZero := true, data := [1, 2, 3, 4, 5, 6, 7, 8] },
     { ({ tc := 2, cacheable := false, placeAck := true, len8 := 0, srcFeng := 6, srcNode := 9, tag := 7, node := 4, part := 1, offset := 327688, key := 5, gen := 0, epoch := 0, rsvZero := true, data := [1, 2, 3, 4, 5, 6, 7, 8] } : MemReq) with srcFeng := 7, epoch := ({ (st [(Reg.DEV_NODE_NODE.place .dev, 9), (Reg.DEV_NODE_VALID.place .dev, 1), (Reg.PG_READY_READY.place (.feng 7), 1), (Reg.PORT_STAT_LINK_UP.place (.port 3), 1)]) with rrc := [{ part := 3, node := 4, gpart := 0, block := 1280, key := 5, data := [] }] }).epoch % 65536, tag := 0 },
     7, 0, 3, by decide +kernel⟩,
   ⟨{ (st [(Reg.DEV_NODE_NODE.place .dev, 9), (Reg.DEV_NODE_VALID.place .dev, 1), (Reg.PG_READY_READY.place (.feng 7), 1), (Reg.PORT_STAT_LINK_UP.place (.port 3), 1)]) with rrc := [{ part := 3, node := 4, gpart := 0, block := 1280, key := 5, data := [] }] },
     { tc := 2, cacheable := false, placeAck := true, len8 := 0, srcFeng := 6, srcNode := 9, tag := 7, node := 4, part := 1, offset := 327688, key := 5, gen := 0, epoch := 0, rsvZero := true, data := [1, 2, 3, 4, 5, 6, 7, 8] },
     { ({ tc := 2, cacheable := false, placeAck := true, len8 := 0, srcFeng := 6, srcNode := 9, tag := 7, node := 4, part := 1, offset := 327688, key := 5, gen := 0, epoch := 0, rsvZero := true, data := [1, 2, 3, 4, 5, 6, 7, 8] } : MemReq) with srcFeng := 7, epoch := ({ (st [(Reg.DEV_NODE_NODE.place .dev, 9), (Reg.DEV_NODE_VALID.place .dev, 1), (Reg.PG_READY_READY.place (.feng 7), 1), (Reg.PORT_STAT_LINK_UP.place (.port 3), 1)]) with rrc := [{ part := 3, node := 4, gpart := 0, block := 1280, key := 5, data := [] }] }).epoch % 65536, tag := 0 },
     7, 0, 3, by decide +kernel⟩,
   ⟨{ (st [(Reg.DEV_NODE_NODE.place .dev, 9), (Reg.DEV_NODE_VALID.place .dev, 1), (Reg.PG_READY_READY.place (.feng 7), 1), (Reg.PORT_STAT_LINK_UP.place (.port 3), 1)]) with rrc := [{ part := 3, node := 4, gpart := 0, block := 1280, key := 5, data := [] }] },
     { tc := 2, cacheable := false, placeAck := true, len8 := 0, srcFeng := 6, srcNode := 9, tag := 7, node := 4, part := 1, offset := 327688, key := 5, gen := 0, epoch := 0, rsvZero := true, data := [1, 2, 3, 4, 5, 6, 7, 8] },
     { ({ tc := 2, cacheable := false, placeAck := true, len8 := 0, srcFeng := 6, srcNode := 9, tag := 7, node := 4, part := 1, offset := 327688, key := 5, gen := 0, epoch := 0, rsvZero := true, data := [1, 2, 3, 4, 5, 6, 7, 8] } : MemReq) with srcFeng := 7, epoch := ({ (st [(Reg.DEV_NODE_NODE.place .dev, 9), (Reg.DEV_NODE_VALID.place .dev, 1), (Reg.PG_READY_READY.place (.feng 7), 1), (Reg.PORT_STAT_LINK_UP.place (.port 3), 1)]) with rrc := [{ part := 3, node := 4, gpart := 0, block := 1280, key := 5, data := [] }] }).epoch % 65536, tag := 0 },
     7, 0, 3, by decide +kernel⟩,
   ⟨{ (st [(Reg.DEV_NODE_NODE.place .dev, 9), (Reg.DEV_NODE_VALID.place .dev, 1), (Reg.PG_READY_READY.place (.feng 7), 1), (Reg.PORT_STAT_LINK_UP.place (.port 3), 1)]) with rrc := [{ part := 3, node := 4, gpart := 0, block := 1280, key := 5, data := [] }] },
     { tc := 2, cacheable := false, placeAck := true, len8 := 0, srcFeng := 6, srcNode := 9, tag := 7, node := 4, part := 1, offset := 327688, key := 5, gen := 0, epoch := 0, rsvZero := true, data := [1, 2, 3, 4, 5, 6, 7, 8] },
     { ({ tc := 2, cacheable := false, placeAck := true, len8 := 0, srcFeng := 6, srcNode := 9, tag := 7, node := 4, part := 1, offset := 327688, key := 5, gen := 0, epoch := 0, rsvZero := true, data := [1, 2, 3, 4, 5, 6, 7, 8] } : MemReq) with srcFeng := 7, epoch := ({ (st [(Reg.DEV_NODE_NODE.place .dev, 9), (Reg.DEV_NODE_VALID.place .dev, 1), (Reg.PG_READY_READY.place (.feng 7), 1), (Reg.PORT_STAT_LINK_UP.place (.port 3), 1)]) with rrc := [{ part := 3, node := 4, gpart := 0, block := 1280, key := 5, data := [] }] }).epoch % 65536, tag := 0 },
     7, 0, 3, by decide +kernel⟩,
   ⟨{ (st [(Reg.DEV_NODE_NODE.place .dev, 9), (Reg.DEV_NODE_VALID.place .dev, 1), (Reg.PG_READY_READY.place (.feng 7), 1), (Reg.PORT_STAT_LINK_UP.place (.port 3), 1)]) with rrc := [{ part := 3, node := 4, gpart := 0, block := 1280, key := 5, data := [] }] },
     { tc := 2, cacheable := false, placeAck := true, len8 := 0, srcFeng := 6, srcNode := 9, tag := 7, node := 4, part := 1, offset := 327688, key := 5, gen := 0, epoch := 0, rsvZero := true, data := [1, 2, 3, 4, 5, 6, 7, 8] },
     { ({ tc := 2, cacheable := false, placeAck := true, len8 := 0, srcFeng := 6, srcNode := 9, tag := 7, node := 4, part := 1, offset := 327688, key := 5, gen := 0, epoch := 0, rsvZero := true, data := [1, 2, 3, 4, 5, 6, 7, 8] } : MemReq) with srcFeng := 7, epoch := ({ (st [(Reg.DEV_NODE_NODE.place .dev, 9), (Reg.DEV_NODE_VALID.place .dev, 1), (Reg.PG_READY_READY.place (.feng 7), 1), (Reg.PORT_STAT_LINK_UP.place (.port 3), 1)]) with rrc := [{ part := 3, node := 4, gpart := 0, block := 1280, key := 5, data := [] }] }).epoch % 65536, tag := 0 },
     7, 0, 3, by decide +kernel⟩,
   ⟨{ (st [(Reg.DEV_NODE_NODE.place .dev, 9), (Reg.DEV_NODE_VALID.place .dev, 1), (Reg.PG_READY_READY.place (.feng 7), 1), (Reg.PORT_STAT_LINK_UP.place (.port 3), 1)]) with rrc := [{ part := 3, node := 4, gpart := 0, block := 1280, key := 5, data := [] }] },
     { tc := 2, cacheable := false, placeAck := true, len8 := 0, srcFeng := 6, srcNode := 9, tag := 7, node := 4, part := 1, offset := 327688, key := 5, gen := 0, epoch := 0, rsvZero := true, data := [1, 2, 3, 4, 5, 6, 7, 8] },
     { ({ tc := 2, cacheable := false, placeAck := true, len8 := 0, srcFeng := 6, srcNode := 9, tag := 7, node := 4, part := 1, offset := 327688, key := 5, gen := 0, epoch := 0, rsvZero := true, data := [1, 2, 3, 4, 5, 6, 7, 8] } : MemReq) with srcFeng := 7, epoch := ({ (st [(Reg.DEV_NODE_NODE.place .dev, 9), (Reg.DEV_NODE_VALID.place .dev, 1), (Reg.PG_READY_READY.place (.feng 7), 1), (Reg.PORT_STAT_LINK_UP.place (.port 3), 1)]) with rrc := [{ part := 3, node := 4, gpart := 0, block := 1280, key := 5, data := [] }] }).epoch % 65536, tag := 0 },
     7, 0, 3, by decide +kernel⟩,
   ⟨{ (st [(Reg.DEV_NODE_NODE.place .dev, 9), (Reg.DEV_NODE_VALID.place .dev, 1), (Reg.PG_READY_READY.place (.feng 7), 1), (Reg.PORT_STAT_LINK_UP.place (.port 3), 1)]) with rrc := [{ part := 3, node := 4, gpart := 0, block := 1280, key := 5, data := [] }] },
     { tc := 2, cacheable := false, placeAck := true, len8 := 0, srcFeng := 6, srcNode := 9, tag := 7, node := 4, part := 1, offset := 327688, key := 5, gen := 0, epoch := 0, rsvZero := true, data := [] },
     { ({ tc := 2, cacheable := false, placeAck := true, len8 := 0, srcFeng := 6, srcNode := 9, tag := 7, node := 4, part := 1, offset := 327688, key := 5, gen := 0, epoch := 0, rsvZero := true, data := [] } : MemReq) with srcFeng := 7, epoch := ({ (st [(Reg.DEV_NODE_NODE.place .dev, 9), (Reg.DEV_NODE_VALID.place .dev, 1), (Reg.PG_READY_READY.place (.feng 7), 1), (Reg.PORT_STAT_LINK_UP.place (.port 3), 1)]) with rrc := [{ part := 3, node := 4, gpart := 0, block := 1280, key := 5, data := [] }] }).epoch % 65536, tag := 0, tc := 1 },
     7, 0, 3, by decide +kernel⟩,
   ⟨{ (st [(Reg.DEV_NODE_NODE.place .dev, 9), (Reg.DEV_NODE_VALID.place .dev, 1), (Reg.PG_READY_READY.place (.feng 7), 1), (Reg.PORT_STAT_LINK_UP.place (.port 3), 1)]) with rrc := [{ part := 3, node := 4, gpart := 0, block := 1280, key := 5, data := [] }], engines := [(7, { slots := (List.range 512).map fun i => (i, some { kind := .load, req := reqBy 9 [], issued := 0, noInstall := false, planes := [3], answers := [] }) })] },
     { tc := 2, cacheable := false, placeAck := true, len8 := 0, srcFeng := 6, srcNode := 9, tag := 600, node := 4, part := 1, offset := 327688, key := 0, gen := 0, epoch := 0, rsvZero := true, data := [] },
     7, by decide +kernel⟩,
   ⟨{ (st [(Reg.DEV_NODE_NODE.place .dev, 9), (Reg.DEV_NODE_VALID.place .dev, 1), (Reg.PG_READY_READY.place (.feng 7), 1)]) with now := 0 },
     { tc := 2, cacheable := false, placeAck := true, len8 := 0, srcFeng := 6, srcNode := 9, tag := 7, node := 4, part := 1, offset := 327688, key := 5, gen := 0, epoch := 0, rsvZero := true, data := [] },
     7, 0, by decide +kernel⟩,
   ⟨{ (st [(Reg.DEV_NODE_NODE.place .dev, 9), (Reg.DEV_NODE_VALID.place .dev, 1), (Reg.PORT_STAT_LINK_UP.place (.port 3), 1)]) with now := 0 },
     { tc := 2, cacheable := false, placeAck := true, len8 := 0, srcFeng := 6, srcNode := 9, tag := 7, node := 4, part := 1, offset := 327688, key := 5, gen := 0, epoch := 0, rsvZero := true, data := [] },
     by decide +kernel⟩⟩

/-- The hypotheses of ResponsesCompleteTheirRequests can be met, clause by clause. -/
theorem wit_ResponsesCompleteTheirRequests :
    (∃ (s : State) (r : MemResp) (y : Outst), (s.reqSlot r.dstFeng r.tag = some y) ∧ y.owner = .issuer ∧ s.noFwd
      r.dstFeng ∧ y.kind = .load ∧ (¬ (r.data.length = 256 ∧ y.req.cacheable = true))) ∧
    (∃ (s : State) (r : MemResp) (y : Outst), (s.reqSlot r.dstFeng r.tag = some y) ∧ y.owner = .issuer ∧ s.noFwd
      r.dstFeng ∧ y.kind = .load ∧ r.data.length = 256 ∧ y.req.cacheable = true) ∧
    (∃ (s : State) (r : MemResp) (y : Outst), (s.reqSlot r.dstFeng r.tag = some y) ∧ y.owner = .issuer ∧ s.noFwd
      r.dstFeng ∧ y.kind = .store) ∧
    (∃ (s : State) (r : MemResp) (y : Outst), (s.reqSlot r.dstFeng r.tag = some y) ∧ y.owner = .issuer ∧ s.noFwd
      r.dstFeng ∧ y.kind = .atomic) ∧
    (∃ (s : State) (r : MemResp) (y : Outst), (s.reqSlot r.dstFeng r.tag = some y) ∧ y.owner = .issuer ∧ s.noFwd
      r.dstFeng ∧ y.kind = .invalidate) ∧
    (∃ (s : State) (r : MemResp) (y : Outst) (plane : PortId), r.plain = false ∧ (s.reqSlot r.dstFeng r.tag = some y)
      ∧ y.owner = .issuer ∧ s.noFwd r.dstFeng ∧ y.kind ≠ .flush) ∧
    (∃ (s : State) (r : MemResp) (y : Outst) (d : TileId) (i : Fin 64) (order : Nat) (piece : Nat), (s.reqSlot
      r.dstFeng r.tag = some y) ∧ (y.owner = .dma d i order piece) ∧ (s.slot d i).st = .running ∧ (s.slot d i).order
      = order ∧ s.noFwd r.dstFeng ∧ y.kind = .load ∧ (¬ (r.data.length = 256 ∧ y.req.cacheable = true))) ∧
    (∃ (s : State) (r : MemResp) (y : Outst) (d : TileId) (i : Fin 64) (order : Nat) (piece : Nat), (s.reqSlot
      r.dstFeng r.tag = some y) ∧ (y.owner = .dma d i order piece) ∧ (s.slot d i).st = .running ∧ (s.slot d i).order
      = order ∧ s.noFwd r.dstFeng ∧ y.kind = .store) ∧
    (∃ (s : State) (r : MemResp) (plane : PortId) (node : Nat) (part : Nat), r.plain = true ∧ node = r.detail.toNat /
      2 ^ 52 ∧ part = r.detail.toNat / 2 ^ 47 % 32 ∧ ((s.eng r.dstFeng).naks.any (fun n => n.1 = node ∧ n.2.1 = part)
      = false)) ∧
    (∃ (s : State) (r : MemResp) (plane : PortId), s.reqSlot r.dstFeng r.tag = none ∧ r.tag ∉ (s.eng
      r.dstFeng).dropped ∧ (∃ c ∈
      [Instr.loadResp, .storeAck, .atomicResp, .invalidateResp, fun r => .flushResp r plane, fun r => .nak r plane],
      r.plain = false)) ∧
    (∃ (s : State) (e : EngId) (tag : Fin 512) (y : Outst), (s.reqSlot e tag.val = some y) ∧ y.owner = .issuer ∧
      s.noFwd e ∧ y.issued + s.fld (.feng e) Reg.FENG_CTRL_RESP_TIMEOUT_US * 1000 ≤ s.now) ∧
    (∃ (s : State) (e : EngId) (tag : Fin 512) (y : Outst), (s.reqSlot e tag.val = some y) ∧ s.now < y.issued + s.fld
      (.feng e) Reg.FENG_CTRL_RESP_TIMEOUT_US * 1000) :=
  ⟨⟨{ (st [(Reg.DEV_NODE_NODE.place .dev, 9), (Reg.DEV_NODE_VALID.place .dev, 1)]) with engines := [(6, { slots := [(7, some { kind := .load, req := { tc := 2, cacheable := true, placeAck := true, len8 := 0, srcFeng := 6, srcNode := 9, tag := 7, node := 4, part := 0, offset := 327688, key := 0, gen := 0, epoch := 0, rsvZero := true, data := [] }, issued := 0, noInstall := false, planes := [3], answers := [] })] })], now := 1000000 },
     { status := 0, noCache := false, plain := false, dstFeng := 6, dstNode := 9, tag := 7, detail := 0, data := [1, 2, 3, 4, 5, 6, 7, 8] },
     { kind := .load, req := { tc := 2, cacheable := true, placeAck := true, len8 := 0, srcFeng := 6, srcNode := 9, tag := 7, node := 4, part := 0, offset := 327688, key := 0, gen := 0, epoch := 0, rsvZero := true, data := [] }, issued := 0, noInstall := false, planes := [3], answers := [] },
     by decide +kernel⟩,
   ⟨{ (st [(Reg.DEV_NODE_NODE.place .dev, 9), (Reg.DEV_NODE_VALID.place .dev, 1)]) with engines := [(6, { slots := [(7, some { kind := .load, req := { tc := 2, cacheable := true, placeAck := true, len8 := 0, srcFeng := 6, srcNode := 9, tag := 7, node := 4, part := 0, offset := 327688, key := 0, gen := 0, epoch := 0, rsvZero := true, data := [] }, issued := 0, noInstall := false, planes := [3], answers := [] })] })], now := 1000000 },
     { status := 0, noCache := false, plain := false, dstFeng := 6, dstNode := 9, tag := 7, detail := 0, data := List.replicate 256 3 },
     { kind := .load, req := { tc := 2, cacheable := true, placeAck := true, len8 := 0, srcFeng := 6, srcNode := 9, tag := 7, node := 4, part := 0, offset := 327688, key := 0, gen := 0, epoch := 0, rsvZero := true, data := [] }, issued := 0, noInstall := false, planes := [3], answers := [] },
     by decide +kernel⟩,
   ⟨{ (st [(Reg.DEV_NODE_NODE.place .dev, 9), (Reg.DEV_NODE_VALID.place .dev, 1)]) with engines := [(6, { slots := [(7, some { kind := .store, req := { tc := 2, cacheable := true, placeAck := true, len8 := 0, srcFeng := 6, srcNode := 9, tag := 7, node := 4, part := 0, offset := 327688, key := 0, gen := 0, epoch := 0, rsvZero := true, data := [] }, issued := 0, noInstall := false, planes := [3], answers := [] })] })], now := 1000000 },
     { status := 0, noCache := false, plain := false, dstFeng := 6, dstNode := 9, tag := 7, detail := 0, data := [] },
     { kind := .store, req := { tc := 2, cacheable := true, placeAck := true, len8 := 0, srcFeng := 6, srcNode := 9, tag := 7, node := 4, part := 0, offset := 327688, key := 0, gen := 0, epoch := 0, rsvZero := true, data := [] }, issued := 0, noInstall := false, planes := [3], answers := [] },
     by decide +kernel⟩,
   ⟨{ (st [(Reg.DEV_NODE_NODE.place .dev, 9), (Reg.DEV_NODE_VALID.place .dev, 1)]) with engines := [(6, { slots := [(7, some { kind := .atomic, req := { tc := 2, cacheable := true, placeAck := true, len8 := 0, srcFeng := 6, srcNode := 9, tag := 7, node := 4, part := 0, offset := 327688, key := 0, gen := 0, epoch := 0, rsvZero := true, data := [] }, issued := 0, noInstall := false, planes := [3], answers := [] })] })], now := 1000000 },
     { status := 0, noCache := false, plain := false, dstFeng := 6, dstNode := 9, tag := 7, detail := 0, data := [1, 2, 3, 4, 5, 6, 7, 8] },
     { kind := .atomic, req := { tc := 2, cacheable := true, placeAck := true, len8 := 0, srcFeng := 6, srcNode := 9, tag := 7, node := 4, part := 0, offset := 327688, key := 0, gen := 0, epoch := 0, rsvZero := true, data := [] }, issued := 0, noInstall := false, planes := [3], answers := [] },
     by decide +kernel⟩,
   ⟨{ (st [(Reg.DEV_NODE_NODE.place .dev, 9), (Reg.DEV_NODE_VALID.place .dev, 1)]) with engines := [(6, { slots := [(7, some { kind := .invalidate, req := { tc := 2, cacheable := true, placeAck := true, len8 := 0, srcFeng := 6, srcNode := 9, tag := 7, node := 4, part := 0, offset := 327688, key := 0, gen := 0, epoch := 0, rsvZero := true, data := [] }, issued := 0, noInstall := false, planes := [3], answers := [] })] })], now := 1000000 },
     { status := 15, noCache := false, plain := false, dstFeng := 6, dstNode := 9, tag := 7, detail := 4, data := [] },
     { kind := .invalidate, req := { tc := 2, cacheable := true, placeAck := true, len8 := 0, srcFeng := 6, srcNode := 9, tag := 7, node := 4, part := 0, offset := 327688, key := 0, gen := 0, epoch := 0, rsvZero := true, data := [] }, issued := 0, noInstall := false, planes := [3], answers := [] },
     by decide +kernel⟩,
   ⟨{ (st [(Reg.DEV_NODE_NODE.place .dev, 9), (Reg.DEV_NODE_VALID.place .dev, 1)]) with engines := [(6, { slots := [(7, some { kind := .store, req := { tc := 2, cacheable := true, placeAck := true, len8 := 0, srcFeng := 6, srcNode := 9, tag := 7, node := 4, part := 0, offset := 327688, key := 0, gen := 0, epoch := 0, rsvZero := true, data := [] }, issued := 0, noInstall := false, planes := [3], answers := [] })] })], now := 1000000 },
     { status := 5, noCache := false, plain := false, dstFeng := 6, dstNode := 9, tag := 7, detail := 0, data := [] },
     { kind := .store, req := { tc := 2, cacheable := true, placeAck := true, len8 := 0, srcFeng := 6, srcNode := 9, tag := 7, node := 4, part := 0, offset := 327688, key := 0, gen := 0, epoch := 0, rsvZero := true, data := [] }, issued := 0, noInstall := false, planes := [3], answers := [] },
     3, by decide +kernel⟩,
   ⟨{ fab with engines := [(6, { slots := [(7, some { kind := .load, req := reqBy 9 [], issued := 0, noInstall := false, planes := [3], answers := [], owner := .dma 2 5 1 4 })] })], tiles := [(2, { slots := [(5, { st := .running, order := 1 })] })] },
     { status := 0, noCache := false, plain := false, dstFeng := 6, dstNode := 9, tag := 7, detail := 0, data := [1, 2, 3, 4, 5, 6, 7, 8] },
     { kind := .load, req := reqBy 9 [], issued := 0, noInstall := false, planes := [3], answers := [], owner := .dma 2 5 1 4 },
     2, 5, 1, 4, by decide +kernel⟩,
   ⟨{ fab with engines := [(6, { slots := [(7, some { kind := .store, req := reqBy 9 [], issued := 0, noInstall := false, planes := [3], answers := [], owner := .dma 2 5 1 4 })] })], tiles := [(2, { slots := [(5, { st := .running, order := 1 })] })] },
     { status := 0, noCache := false, plain := false, dstFeng := 6, dstNode := 9, tag := 7, detail := 0, data := [1, 2, 3, 4, 5, 6, 7, 8] },
     { kind := .store, req := reqBy 9 [], issued := 0, noInstall := false, planes := [3], answers := [], owner := .dma 2 5 1 4 },
     2, 5, 1, 4, by decide +kernel⟩,
   ⟨{ (st [(Reg.DEV_NODE_NODE.place .dev, 9), (Reg.DEV_NODE_VALID.place .dev, 1)]) with engines := [(6, { slots := [(7, some { kind := .store, req := { tc := 2, cacheable := true, placeAck := true, len8 := 0, srcFeng := 6, srcNode := 9, tag := 7, node := 4, part := 0, offset := 327688, key := 0, gen := 0, epoch := 0, rsvZero := true, data := [] }, issued := 0, noInstall := false, planes := [3], answers := [] })] })], now := 1000000 },
     { status := 5, noCache := false, plain := true, dstFeng := 6, dstNode := 9, tag := 7, detail := 0x0040000000000000, data := [] },
     3, 4, 0, by decide +kernel⟩,
   ⟨State.reset,
     { status := 0, noCache := false, plain := false, dstFeng := 6, dstNode := 9, tag := 7, detail := 0, data := [] },
     3, by decide +kernel⟩,
   ⟨{ (st [(Reg.DEV_NODE_NODE.place .dev, 9), (Reg.DEV_NODE_VALID.place .dev, 1)]) with engines := [(6, { slots := [(7, some { kind := .store, req := { tc := 2, cacheable := true, placeAck := true, len8 := 0, srcFeng := 6, srcNode := 9, tag := 7, node := 4, part := 0, offset := 327688, key := 0, gen := 0, epoch := 0, rsvZero := true, data := [] }, issued := 0, noInstall := false, planes := [3], answers := [] })] })], now := 1000000 },
     6, 7,
     { kind := .store, req := { tc := 2, cacheable := true, placeAck := true, len8 := 0, srcFeng := 6, srcNode := 9, tag := 7, node := 4, part := 0, offset := 327688, key := 0, gen := 0, epoch := 0, rsvZero := true, data := [] }, issued := 0, noInstall := false, planes := [3], answers := [] },
     by decide +kernel⟩,
   ⟨{ (st [(Reg.DEV_NODE_NODE.place .dev, 9), (Reg.DEV_NODE_VALID.place .dev, 1)]) with engines := [(6, { slots := [(7, some { kind := .store, req := { tc := 2, cacheable := true, placeAck := true, len8 := 0, srcFeng := 6, srcNode := 9, tag := 7, node := 4, part := 0, offset := 327688, key := 0, gen := 0, epoch := 0, rsvZero := true, data := [] }, issued := 0, noInstall := false, planes := [3], answers := [] })] })], now := 0 },
     6, 7,
     { kind := .store, req := { tc := 2, cacheable := true, placeAck := true, len8 := 0, srcFeng := 6, srcNode := 9, tag := 7, node := 4, part := 0, offset := 327688, key := 0, gen := 0, epoch := 0, rsvZero := true, data := [] }, issued := 0, noInstall := false, planes := [3], answers := [] },
     by decide +kernel⟩⟩

/-- The hypotheses of FlushesAndInvalidationsComplete can be met, clause by clause. -/
theorem wit_FlushesAndInvalidationsComplete :
    (∃ (s : State) (r : MemReq) (plane : PortId) (e : EngId) (tag : Nat) (r1 : MemReq), r.srcNode = s.node ∧ r.node ≠
      s.node ∧ e = connEng r ∧ s.fenced (partOfEng e) = false ∧ s.ready (.feng e) = true ∧ (s.freeTag e = some tag) ∧
      r1 = { s.issued r with tag := tag, len8 := 0, data := [] } ∧ s.pinned = false ∧ r.node < 256 ∧ s.planesTo
      r.node ≠ []) ∧
    (∃ (s : State) (r : MemReq) (q : MemReq) (plane : PortId), r.node = s.node ∧ r.srcNode ≠ s.node ∧ q =
      { r with plane := plane } ∧ s.checkPart r.part q.srcNode (q.srcFeng.val / 2) q.epoch = none) ∧
    (∃ (s : State) (r : MemReq) (q : MemReq) (plane : PortId) (c : Nat), r.node = s.node ∧ r.srcNode ≠ s.node ∧ q =
      { r with plane := plane } ∧ (s.checkPart r.part q.srcNode (q.srcFeng.val / 2) q.epoch = some c)) ∧
    (∃ (s : State) (r : MemReq) (plane : PortId) (m : Marker), r.srcNode ≠ s.node ∧ (s.tier.markers.find? (fun x =>
      x.r = r ∧ x.plane = plane) = some m) ∧ s.markerWaits m = false) ∧
    (∃ (s : State) (r : MemReq) (q : MemReq) (plane : PortId) (e : EngId) (tag : Nat), r.srcNode = s.node ∧ r.node =
      s.node ∧ e = connEng r ∧ s.engLive e = true ∧ (s.freeTag e = some tag) ∧ q =
      { s.issued r with tag := tag, plane := 0, len8 := 0, data := [] } ∧ s.checkPart r.part q.srcNode (q.srcFeng.val
      / 2) q.epoch = none) ∧
    (∃ (s : State) (r : MemReq) (q : MemReq) (plane : PortId) (e : EngId) (tag : Nat) (c : Nat), r.srcNode = s.node ∧
      r.node = s.node ∧ e = connEng r ∧ s.engLive e = true ∧ (s.freeTag e = some tag) ∧ q =
      { s.issued r with tag := tag, plane := 0, len8 := 0, data := [] } ∧ (s.checkPart r.part q.srcNode
      (q.srcFeng.val / 2) q.epoch = some c) ∧ s.noFwd e) ∧
    (∃ (s : State) (r : MemReq) (m : Marker) (y : Outst), (s.tier.markers.find? (fun x => x.r = r ∧ x.plane =
      r.plane) = some m) ∧ s.markerWaits m = false ∧ r.srcNode = s.node ∧ (s.reqSlot r.srcFeng r.tag = some y) ∧
      y.req = r ∧ y.kind = .flush ∧ y.owner = .issuer ∧ y.planes = [r.plane.val] ∧ y.answers = [] ∧ s.flag (.feng
      r.srcFeng) Reg.FENG_STAT_PATH_LOST = false ∧ ((s.eng r.srcFeng).naks.find? (fun n => n.1 = r.node ∧ n.2.1 =
      r.part.val) = none) ∧ (s.eng r.srcFeng).nakOvf = false ∧ s.noFwd r.srcFeng) ∧
    (∃ (s : State) (r : MemResp) (plane : PortId) (y : Outst), (s.reqSlot r.dstFeng r.tag = some y) ∧ y.owner =
      .issuer ∧ s.noFwd r.dstFeng ∧ y.kind = .flush ∧ y.planes = [plane.val] ∧ y.answers = [] ∧ s.flag (.feng
      r.dstFeng) Reg.FENG_STAT_PATH_LOST = false ∧ ((s.eng r.dstFeng).naks.find? (fun n => n.1 = y.req.node ∧ n.2.1 =
      y.req.part.val) = none) ∧ (s.eng r.dstFeng).nakOvf = false) ∧
    (∃ (s : State) (r : MemResp) (plane : PortId) (y : Outst) (p : Nat), (s.reqSlot r.dstFeng r.tag = some y) ∧
      y.kind = .flush ∧ y.answers = [] ∧ p ∈ y.planes ∧ p ≠ plane.val) ∧
    (∃ (s : State) (r : MemResp) (plane : PortId) (y : Outst), r.plain = false ∧ (s.reqSlot r.dstFeng r.tag = some y)
      ∧ y.owner = .issuer ∧ s.noFwd r.dstFeng ∧ y.kind = .flush ∧ y.planes = [plane.val] ∧ y.answers = [] ∧ r.status
      ≠ 0) ∧
    (∃ (s : State) (r : MemReq) (page : Nat) (e : RdEntry), r.node = s.node ∧ r.srcNode ≠ s.node ∧ s.checkReq 0x30 r
      = none ∧ page = pageOf r.offset ∧ (∀ x ∈ s.tier.passes, x.page ≠ page ∧ x.awaited ≠ []) ∧ (s.tier.readers.find?
      (fun x => x.page = page) = some e) ∧ e.bcast = false ∧ ((∃ n ∈ e.nodes, s.nodeFenced n = false))) ∧
    (∃ (s : State) (r : MemReq) (page : Nat) (e : RdEntry) (n : Nat) (plane : Nat), r.node = s.node ∧ r.srcNode ≠
      s.node ∧ s.checkReq 0x30 r = none ∧ page = pageOf r.offset ∧ (∀ x ∈ s.tier.passes, x.page ≠ page ∧ x.awaited ≠
      []) ∧ (s.tier.readers.find? (fun x => x.page = page) = some e) ∧ e.bcast = false ∧ e.nodes = [n] ∧ s.nodeFenced
      n = false ∧ (s.planeOf (s.invReq page n).srcFeng n (connKey (s.invReq page n)) = some plane)) ∧
    (∃ (s : State) (r : MemReq) (page : Nat), r.node = s.node ∧ r.srcNode ≠ s.node ∧ s.checkReq 0x30 r = none ∧ page
      = pageOf r.offset ∧ (∀ x ∈ s.tier.passes, x.awaited ≠ []) ∧ (∀ x ∈ s.tier.passes, x.page ≠ page) ∧
      (s.tier.readers.find? (fun x => x.page = page) = none) ∧ s.tier.passQueue = []) ∧
    (∃ (s : State) (r : MemReq) (q : MemReq) (e : EngId) (tag : Nat) (page : Nat), r.srcNode = s.node ∧ r.node =
      s.node ∧ e = connEng r ∧ s.engLive e = true ∧ s.noFwd e ∧ (s.freeTag e = some tag) ∧ q =
      { s.issued r with tc := 1, len8 := 0, data := [], tag := tag, plane := 0 } ∧ s.checkReq 0x30 q = none ∧ page =
      pageOf r.offset ∧ (∀ x ∈ s.tier.passes, x.awaited ≠ []) ∧ (∀ x ∈ s.tier.passes, x.page ≠ page) ∧
      (s.tier.readers.find? (fun x => x.page = page) = none) ∧ s.tier.passQueue = []) ∧
    (∃ (s : State) (r : MemReq), r.node = s.node ∧ r.srcNode ≠ s.node ∧ s.checkReq 0x30 r = none ∧ (∃ x ∈
      s.tier.passes, x.page = pageOf r.offset)) ∧
    (∃ (s : State) (page : Nat) (node : Nat) (x : InvPass) (w : MemReq), s.tier.passes = [x] ∧ x.page = page ∧
      x.awaited = [node] ∧ (x.writer = some w) ∧ w.srcNode ≠ s.node ∧ s.tier.passQueue = []) ∧
    (∃ (s : State) (page : Nat) (node : Nat), (∀ x ∈ s.tier.passes, (if x.page = page then x.awaited.filter (· ≠
      node) else x.awaited) ≠ [])) ∧
    (∃ (s : State) (page : Nat) (n : Nat) (ns : List Nat) (x : InvPass) (w : MemReq), s.tier.passes = [x] ∧ x.page =
      page ∧ x.start + 1000000 ≤ s.now ∧ x.awaited = n :: ns ∧ (x.writer = some w) ∧ w.srcNode ≠ s.node ∧
      s.tier.passQueue = []) ∧
    (∃ (s : State) (page : Nat) (n : Nat) (ns : List Nat) (x : InvPass) (w : MemReq) (y : Outst), s.tier.passes = [x]
      ∧ x.page = page ∧ x.start + 1000000 ≤ s.now ∧ x.awaited = n :: ns ∧ (x.writer = some w) ∧ w.srcNode = s.node ∧
      (s.reqSlot w.srcFeng w.tag = some y) ∧ y.req = w ∧ y.kind = .invalidate ∧ y.owner = .issuer ∧ s.noFwd w.srcFeng
      ∧ s.tier.passQueue = []) :=
  ⟨⟨{ (st [(Reg.DEV_NODE_NODE.place .dev, 9), (Reg.DEV_NODE_VALID.place .dev, 1), (Reg.PG_READY_READY.place (.feng 7), 1), (Reg.PORT_STAT_LINK_UP.place (.port 3), 1)]) with rrc := [{ part := 3, node := 4, gpart := 0, block := 1280, key := 5, data := [] }] },
     { tc := 2, cacheable := false, placeAck := true, len8 := 0, srcFeng := 6, srcNode := 9, tag := 7, node := 4, part := 1, offset := 327688, key := 5, gen := 0, epoch := 0, rsvZero := true, data := [] },
     0, 7, 0,
     { ({ tc := 2, cacheable := false, placeAck := true, len8 := 0, srcFeng := 6, srcNode := 9, tag := 7, node := 4, part := 1, offset := 327688, key := 5, gen := 0, epoch := 0, rsvZero := true, data := [] } : MemReq) with srcFeng := 7, epoch := ({ (st [(Reg.DEV_NODE_NODE.place .dev, 9), (Reg.DEV_NODE_VALID.place .dev, 1), (Reg.PG_READY_READY.place (.feng 7), 1), (Reg.PORT_STAT_LINK_UP.place (.port 3), 1)]) with rrc := [{ part := 3, node := 4, gpart := 0, block := 1280, key := 5, data := [] }] }).epoch % 65536, tag := 0, len8 := 0, data := [] },
     by decide +kernel⟩,
   ⟨{ (st [(Reg.PG_READY_READY.place .tier, 1), (Reg.PG_READY_READY.place (.bas 0), 1), (Reg.BAS_MEM_STAT_ONLINE.place (.bas 0), 1), (Reg.BAS_MEM_FRAMES_FRAMES.place (.bas 0), 786432), (Reg.PG_READY_READY.place (.shl 0), 1), (Reg.SHL_MEM_STAT_ONLINE.place (.shl 0), 1), (Reg.SHL_MEM_FRAMES_FRAMES.place (.shl 0), 32768), (Reg.DEV_NODE_NODE.place .dev, 9), (Reg.DEV_NODE_VALID.place .dev, 1), (Reg.PG_READY_READY.place (.disp 0), 1), (Reg.PG_READY_READY.place (.feng 7), 1)]) with tier := { pages := [(5, { st := .resident .basin, frame := 0, frameTier := .basin })], dirs := [(0, { valid := true, used := 1, leaf := 257 })], leaves := [(257, true)], frames := [(67108864, true)] }, regions := [(0, { valid := true, read := true, write := true, atomic := true, cacheOk := true, base := 0, lenM1 := 1048575, rgFirst := 0, rgCount := 64 })], mem := [(327688, 5), (327690, 9)] },
     { tc := 2, cacheable := false, placeAck := true, len8 := 0, srcFeng := 6, srcNode := 4, tag := 7, node := 9, part := 0, offset := 327688, key := 0, gen := 0, epoch := 0, rsvZero := true, data := [] },
     { ({ tc := 2, cacheable := false, placeAck := true, len8 := 0, srcFeng := 6, srcNode := 4, tag := 7, node := 9, part := 0, offset := 327688, key := 0, gen := 0, epoch := 0, rsvZero := true, data := [] } : MemReq) with plane := 3 },
     3, by decide +kernel⟩,
   ⟨{ (st [(Reg.DEV_NODE_NODE.place .dev, 9), (Reg.DEV_NODE_VALID.place .dev, 1)]) with now := 0 },
     { tc := 2, cacheable := false, placeAck := true, len8 := 0, srcFeng := 6, srcNode := 4, tag := 7, node := 9, part := 0, offset := 327688, key := 0, gen := 0, epoch := 0, rsvZero := true, data := [] },
     { ({ tc := 2, cacheable := false, placeAck := true, len8 := 0, srcFeng := 6, srcNode := 4, tag := 7, node := 9, part := 0, offset := 327688, key := 0, gen := 0, epoch := 0, rsvZero := true, data := [] } : MemReq) with plane := 3 },
     3, 1, by decide +kernel⟩,
   ⟨{ (st [(Reg.DEV_NODE_NODE.place .dev, 9), (Reg.DEV_NODE_VALID.place .dev, 1)]) with tier := { markers := [{ r := { tc := 2, cacheable := false, placeAck := true, len8 := 0, srcFeng := 6, srcNode := 4, tag := 7, node := 9, part := 0, offset := 327688, key := 0, gen := 0, epoch := 0, rsvZero := true, data := [] }, plane := 3, ticket := 1 }] } },
     { tc := 2, cacheable := false, placeAck := true, len8 := 0, srcFeng := 6, srcNode := 4, tag := 7, node := 9, part := 0, offset := 327688, key := 0, gen := 0, epoch := 0, rsvZero := true, data := [] },
     3,
     { r := { tc := 2, cacheable := false, placeAck := true, len8 := 0, srcFeng := 6, srcNode := 4, tag := 7, node := 9, part := 0, offset := 327688, key := 0, gen := 0, epoch := 0, rsvZero := true, data := [] }, plane := 3, ticket := 1 },
     by decide +kernel⟩,
   ⟨fab, reqBy 9 [], reqBy 9 [], 3, 7, 0, by decide +kernel⟩,
   ⟨{ fab with qrm := { table := [(291, 2)] } }, reqBy 9 [], reqBy 9 [], 3, 7, 0, 3, by decide +kernel⟩,
   ⟨{ slotted .flush (reqBy 9 []) fab with tier := { fab.tier with nextTicket := 1, markers := [{ r := reqBy 9 [], plane := 0, ticket := 1 }] } },
     reqBy 9 [], { r := reqBy 9 [], plane := 0, ticket := 1 },
     { kind := .flush, req := reqBy 9 [], issued := 0, noInstall := false, planes := [0], answers := [] },
     by decide +kernel⟩,
   ⟨{ (st [(Reg.DEV_NODE_NODE.place .dev, 9), (Reg.DEV_NODE_VALID.place .dev, 1)]) with engines := [(6, { slots := [(7, some { kind := .flush, req := { tc := 2, cacheable := true, placeAck := true, len8 := 0, srcFeng := 6, srcNode := 9, tag := 7, node := 4, part := 0, offset := 327688, key := 0, gen := 0, epoch := 0, rsvZero := true, data := [] }, issued := 0, noInstall := false, planes := [3], answers := [] })] })], now := 1000000 },
     { status := 0, noCache := false, plain := false, dstFeng := 6, dstNode := 9, tag := 7, detail := 0, data := [] },
     3,
     { kind := .flush, req := { tc := 2, cacheable := true, placeAck := true, len8 := 0, srcFeng := 6, srcNode := 9, tag := 7, node := 4, part := 0, offset := 327688, key := 0, gen := 0, epoch := 0, rsvZero := true, data := [] }, issued := 0, noInstall := false, planes := [3], answers := [] },
     by decide +kernel⟩,
   ⟨{ (st [(Reg.DEV_NODE_NODE.place .dev, 9), (Reg.DEV_NODE_VALID.place .dev, 1)]) with engines := [(6, { slots := [(7, some { kind := .flush, req := { tc := 2, cacheable := true, placeAck := true, len8 := 0, srcFeng := 6, srcNode := 9, tag := 7, node := 4, part := 0, offset := 327688, key := 0, gen := 0, epoch := 0, rsvZero := true, data := [] }, issued := 0, noInstall := false, planes := [3, 5], answers := [] })] })], now := 1000000 },
     { status := 0, noCache := false, plain := false, dstFeng := 6, dstNode := 9, tag := 7, detail := 0, data := [] },
     3,
     { kind := .flush, req := { tc := 2, cacheable := true, placeAck := true, len8 := 0, srcFeng := 6, srcNode := 9, tag := 7, node := 4, part := 0, offset := 327688, key := 0, gen := 0, epoch := 0, rsvZero := true, data := [] }, issued := 0, noInstall := false, planes := [3, 5], answers := [] },
     5, by decide +kernel⟩,
   ⟨{ (st [(Reg.DEV_NODE_NODE.place .dev, 9), (Reg.DEV_NODE_VALID.place .dev, 1)]) with engines := [(6, { slots := [(7, some { kind := .flush, req := { tc := 2, cacheable := true, placeAck := true, len8 := 0, srcFeng := 6, srcNode := 9, tag := 7, node := 4, part := 0, offset := 327688, key := 0, gen := 0, epoch := 0, rsvZero := true, data := [] }, issued := 0, noInstall := false, planes := [3], answers := [] })] })], now := 1000000 },
     { status := 5, noCache := false, plain := false, dstFeng := 6, dstNode := 9, tag := 7, detail := 0, data := [] },
     3,
     { kind := .flush, req := { tc := 2, cacheable := true, placeAck := true, len8 := 0, srcFeng := 6, srcNode := 9, tag := 7, node := 4, part := 0, offset := 327688, key := 0, gen := 0, epoch := 0, rsvZero := true, data := [] }, issued := 0, noInstall := false, planes := [3], answers := [] },
     by decide +kernel⟩,
   ⟨{ (st [(Reg.PG_READY_READY.place .tier, 1), (Reg.PG_READY_READY.place (.bas 0), 1), (Reg.BAS_MEM_STAT_ONLINE.place (.bas 0), 1), (Reg.BAS_MEM_FRAMES_FRAMES.place (.bas 0), 786432), (Reg.PG_READY_READY.place (.shl 0), 1), (Reg.SHL_MEM_STAT_ONLINE.place (.shl 0), 1), (Reg.SHL_MEM_FRAMES_FRAMES.place (.shl 0), 32768), (Reg.DEV_NODE_NODE.place .dev, 9), (Reg.DEV_NODE_VALID.place .dev, 1), (Reg.PG_READY_READY.place (.disp 0), 1), (Reg.PG_READY_READY.place (.feng 7), 1)]) with tier := { pages := [(5, { st := .resident .basin, frame := 0, frameTier := .basin })], dirs := [(0, { valid := true, used := 1, leaf := 257 })], leaves := [(257, true)], frames := [(67108864, true)], readers := [{ page := 5, nodes := [2, 4], bcast := false, rgFirst := 0, rgCount := 0 }] }, regions := [(0, { valid := true, read := true, write := true, atomic := true, cacheOk := true, base := 0, lenM1 := 1048575, rgFirst := 0, rgCount := 64 })], mem := [(327688, 5), (327690, 9)] },
     { tc := 2, cacheable := false, placeAck := true, len8 := 0, srcFeng := 6, srcNode := 4, tag := 7, node := 9, part := 0, offset := 327688, key := 0, gen := 0, epoch := 0, rsvZero := true, data := [] },
     5, { page := 5, nodes := [2, 4], bcast := false, rgFirst := 0, rgCount := 0 }, by decide +kernel⟩,
   ⟨{ fab with tier := { fab.tier with readers := [{ page := 5, nodes := [4], bcast := false, rgFirst := 0, rgCount := 0 }] } },
     reqBy 4 [], 5, { page := 5, nodes := [4], bcast := false, rgFirst := 0, rgCount := 0 }, 4, 3, by decide +kernel⟩,
   ⟨{ (st [(Reg.PG_READY_READY.place .tier, 1), (Reg.PG_READY_READY.place (.bas 0), 1), (Reg.BAS_MEM_STAT_ONLINE.place (.bas 0), 1), (Reg.BAS_MEM_FRAMES_FRAMES.place (.bas 0), 786432), (Reg.PG_READY_READY.place (.shl 0), 1), (Reg.SHL_MEM_STAT_ONLINE.place (.shl 0), 1), (Reg.SHL_MEM_FRAMES_FRAMES.place (.shl 0), 32768), (Reg.DEV_NODE_NODE.place .dev, 9), (Reg.DEV_NODE_VALID.place .dev, 1), (Reg.PG_READY_READY.place (.disp 0), 1), (Reg.PG_READY_READY.place (.feng 7), 1)]) with tier := { pages := [(5, { st := .resident .basin, frame := 0, frameTier := .basin })], dirs := [(0, { valid := true, used := 1, leaf := 257 })], leaves := [(257, true)], frames := [(67108864, true)] }, regions := [(0, { valid := true, read := true, write := true, atomic := true, cacheOk := true, base := 0, lenM1 := 1048575, rgFirst := 0, rgCount := 64 })], mem := [(327688, 5), (327690, 9)] },
     { tc := 2, cacheable := false, placeAck := true, len8 := 0, srcFeng := 6, srcNode := 4, tag := 7, node := 9, part := 0, offset := 327688, key := 0, gen := 0, epoch := 0, rsvZero := true, data := [] },
     5, by decide +kernel⟩,
   ⟨fab, reqBy 9 [], { reqBy 9 [] with tc := 1 }, 7, 0, 5, by decide +kernel⟩,
   ⟨{ (st [(Reg.PG_READY_READY.place .tier, 1), (Reg.PG_READY_READY.place (.bas 0), 1), (Reg.BAS_MEM_STAT_ONLINE.place (.bas 0), 1), (Reg.BAS_MEM_FRAMES_FRAMES.place (.bas 0), 786432), (Reg.PG_READY_READY.place (.shl 0), 1), (Reg.SHL_MEM_STAT_ONLINE.place (.shl 0), 1), (Reg.SHL_MEM_FRAMES_FRAMES.place (.shl 0), 32768), (Reg.DEV_NODE_NODE.place .dev, 9), (Reg.DEV_NODE_VALID.place .dev, 1), (Reg.PG_READY_READY.place (.disp 0), 1), (Reg.PG_READY_READY.place (.feng 7), 1)]) with tier := { pages := [(5, { st := .resident .basin, frame := 0, frameTier := .basin })], dirs := [(0, { valid := true, used := 1, leaf := 257 })], leaves := [(257, true)], frames := [(67108864, true)], readers := [{ page := 5, nodes := [2, 4], bcast := false, rgFirst := 0, rgCount := 0 }], passes := [{ page := 5, awaited := [2, 4], start := 0, writer := some { tc := 2, cacheable := false, placeAck := true, len8 := 0, srcFeng := 6, srcNode := 4, tag := 7, node := 9, part := 0, offset := 327688, key := 0, gen := 0, epoch := 0, rsvZero := true, data := [] } }] }, regions := [(0, { valid := true, read := true, write := true, atomic := true, cacheOk := true, base := 0, lenM1 := 1048575, rgFirst := 0, rgCount := 64 })], mem := [(327688, 5), (327690, 9)] },
     { tc := 2, cacheable := false, placeAck := true, len8 := 0, srcFeng := 6, srcNode := 4, tag := 7, node := 9, part := 0, offset := 327688, key := 0, gen := 0, epoch := 0, rsvZero := true, data := [] },
     by decide +kernel⟩,
   ⟨{ (st [(Reg.PG_READY_READY.place .tier, 1), (Reg.PG_READY_READY.place (.bas 0), 1), (Reg.BAS_MEM_STAT_ONLINE.place (.bas 0), 1), (Reg.BAS_MEM_FRAMES_FRAMES.place (.bas 0), 786432), (Reg.PG_READY_READY.place (.shl 0), 1), (Reg.SHL_MEM_STAT_ONLINE.place (.shl 0), 1), (Reg.SHL_MEM_FRAMES_FRAMES.place (.shl 0), 32768), (Reg.DEV_NODE_NODE.place .dev, 9), (Reg.DEV_NODE_VALID.place .dev, 1), (Reg.PG_READY_READY.place (.disp 0), 1), (Reg.PG_READY_READY.place (.feng 7), 1)]) with tier := { pages := [(5, { st := .resident .basin, frame := 0, frameTier := .basin })], dirs := [(0, { valid := true, used := 1, leaf := 257 })], leaves := [(257, true)], frames := [(67108864, true)], readers := [{ page := 5, nodes := [2, 4], bcast := false, rgFirst := 0, rgCount := 0 }], passes := [{ page := 5, awaited := [4], start := 0, writer := some { tc := 2, cacheable := false, placeAck := true, len8 := 0, srcFeng := 6, srcNode := 4, tag := 7, node := 9, part := 0, offset := 327688, key := 0, gen := 0, epoch := 0, rsvZero := true, data := [] } }] }, regions := [(0, { valid := true, read := true, write := true, atomic := true, cacheOk := true, base := 0, lenM1 := 1048575, rgFirst := 0, rgCount := 64 })], mem := [(327688, 5), (327690, 9)] },
     5, 4,
     { page := 5, awaited := [4], start := 0, writer := some { tc := 2, cacheable := false, placeAck := true, len8 := 0, srcFeng := 6, srcNode := 4, tag := 7, node := 9, part := 0, offset := 327688, key := 0, gen := 0, epoch := 0, rsvZero := true, data := [] } },
     { tc := 2, cacheable := false, placeAck := true, len8 := 0, srcFeng := 6, srcNode := 4, tag := 7, node := 9, part := 0, offset := 327688, key := 0, gen := 0, epoch := 0, rsvZero := true, data := [] },
     by decide +kernel⟩,
   ⟨{ (st [(Reg.PG_READY_READY.place .tier, 1), (Reg.PG_READY_READY.place (.bas 0), 1), (Reg.BAS_MEM_STAT_ONLINE.place (.bas 0), 1), (Reg.BAS_MEM_FRAMES_FRAMES.place (.bas 0), 786432), (Reg.PG_READY_READY.place (.shl 0), 1), (Reg.SHL_MEM_STAT_ONLINE.place (.shl 0), 1), (Reg.SHL_MEM_FRAMES_FRAMES.place (.shl 0), 32768), (Reg.DEV_NODE_NODE.place .dev, 9), (Reg.DEV_NODE_VALID.place .dev, 1), (Reg.PG_READY_READY.place (.disp 0), 1), (Reg.PG_READY_READY.place (.feng 7), 1)]) with tier := { pages := [(5, { st := .resident .basin, frame := 0, frameTier := .basin })], dirs := [(0, { valid := true, used := 1, leaf := 257 })], leaves := [(257, true)], frames := [(67108864, true)], readers := [{ page := 5, nodes := [2, 4], bcast := false, rgFirst := 0, rgCount := 0 }], passes := [{ page := 5, awaited := [2, 4], start := 0, writer := some { tc := 2, cacheable := false, placeAck := true, len8 := 0, srcFeng := 6, srcNode := 4, tag := 7, node := 9, part := 0, offset := 327688, key := 0, gen := 0, epoch := 0, rsvZero := true, data := [] } }] }, regions := [(0, { valid := true, read := true, write := true, atomic := true, cacheOk := true, base := 0, lenM1 := 1048575, rgFirst := 0, rgCount := 64 })], mem := [(327688, 5), (327690, 9)] },
     5, 4, by decide +kernel⟩,
   ⟨{ (st [(Reg.PG_READY_READY.place .tier, 1), (Reg.PG_READY_READY.place (.bas 0), 1), (Reg.BAS_MEM_STAT_ONLINE.place (.bas 0), 1), (Reg.BAS_MEM_FRAMES_FRAMES.place (.bas 0), 786432), (Reg.PG_READY_READY.place (.shl 0), 1), (Reg.SHL_MEM_STAT_ONLINE.place (.shl 0), 1), (Reg.SHL_MEM_FRAMES_FRAMES.place (.shl 0), 32768), (Reg.DEV_NODE_NODE.place .dev, 9), (Reg.DEV_NODE_VALID.place .dev, 1), (Reg.PG_READY_READY.place (.disp 0), 1), (Reg.PG_READY_READY.place (.feng 7), 1)]) with tier := { pages := [(5, { st := .resident .basin, frame := 0, frameTier := .basin })], dirs := [(0, { valid := true, used := 1, leaf := 257 })], leaves := [(257, true)], frames := [(67108864, true)], readers := [{ page := 5, nodes := [2, 4], bcast := false, rgFirst := 0, rgCount := 0 }], passes := [{ page := 5, awaited := [2, 4], start := 0, writer := some { tc := 2, cacheable := false, placeAck := true, len8 := 0, srcFeng := 6, srcNode := 4, tag := 7, node := 9, part := 0, offset := 327688, key := 0, gen := 0, epoch := 0, rsvZero := true, data := [] } }] }, regions := [(0, { valid := true, read := true, write := true, atomic := true, cacheOk := true, base := 0, lenM1 := 1048575, rgFirst := 0, rgCount := 64 })], now := 1000000, mem := [(327688, 5), (327690, 9)] },
     5, 2, [4],
     { page := 5, awaited := [2, 4], start := 0, writer := some { tc := 2, cacheable := false, placeAck := true, len8 := 0, srcFeng := 6, srcNode := 4, tag := 7, node := 9, part := 0, offset := 327688, key := 0, gen := 0, epoch := 0, rsvZero := true, data := [] } },
     { tc := 2, cacheable := false, placeAck := true, len8 := 0, srcFeng := 6, srcNode := 4, tag := 7, node := 9, part := 0, offset := 327688, key := 0, gen := 0, epoch := 0, rsvZero := true, data := [] },
     by decide +kernel⟩,
   ⟨{ slotted .invalidate (reqBy 9 []) fab with tier := { fab.tier with passes := [{ page := 5, awaited := [2, 4], start := 0, writer := some (reqBy 9 []) }] }, now := 1000000 },
     5, 2, [4], { page := 5, awaited := [2, 4], start := 0, writer := some (reqBy 9 []) }, reqBy 9 [],
     { kind := .invalidate, req := reqBy 9 [], issued := 0, noInstall := false, planes := [0], answers := [] },
     by decide +kernel⟩⟩

/-- The hypotheses of QueuePairsChangeState can be met, clause by clause. -/
theorem wit_QueuePairsChangeState :
    (∃ (s : State) (q : QpId), s.ready (.feng (engOfQp q)) = true ∧ (s.qp q).st = .reset ∧ (s.qp q).legal = true) ∧
    (∃ (s : State) (q : QpId), s.ready (.feng (engOfQp q)) = true ∧ (s.qp q).st = .reset ∧ (s.qp q).legal = false) ∧
    (∃ (s : State) (q : QpId), s.ready (.feng (engOfQp q)) = true ∧ (s.qp q).st = .init ∧ (s.isControl q = false ∨
      (s.qp q).recvOn = true) ∧ (s.qp q).regTo = (s.qp q).sqTail ∧ (s.qp q).nextWr = (s.qp q).sqTail) ∧
    (∃ (s : State) (q : QpId), s.ready (.feng (engOfQp q)) = true ∧ (s.qp q).st = .init ∧ s.isControl q = true ∧
      (s.qp q).recvOn = false ∧ 4 ≤ (s.qp q).rqLog2 ∧ s.writable (s.qp q).rqBase (16 * 2 ^ (s.qp q).rqLog2) = true ∧
      (s.qp q).regTo = (s.qp q).sqTail ∧ (s.qp q).nextWr = (s.qp q).sqTail) ∧
    (∃ (s : State) (q : QpId), s.ready (.feng (engOfQp q)) = true ∧ ((s.qp q).st = .init ∨ (s.qp q).st = .error ∧
      (s.qp q).flushed = true)) ∧
    (∃ (s : State) (q : QpId), s.ready (.feng (engOfQp q)) = true ∧ (s.qp q).st = .rts) ∧
    (∃ (s : State) (q : QpId), (s.qp q).st = .init) ∧
    (∃ (s : State) (q : QpId), (s.qp q).st = .rts) ∧
    (∃ (s : State) (q : QpId), (s.qp q).st = .reset) ∧
    (∃ (s : State) (q : QpId), (s.qp q).st = .error) ∧
    (∃ (s : State) (q : QpId), s.ready (.feng (engOfQp q)) = true ∧ (∃ c ∈
      [(Instr.qpStateInit q, [QpState.rts, .error]), (.qpStateRts q, [.reset, .error]), (.qpStateReset q, [.rts]), (.qpStateError q, [.reset, .init])],
      (s.qp q).st ∈ c.2)) ∧
    (∃ (s : State) (q : QpId), (s.qp q).st = .error ∧ (s.qp q).flushed = false ∧ s.isPool q = false ∧ (∀ e ∈ (s.mover
      (partOfQp q)).ctxs, e.2.closed = false) ∧ s.tier.answers = [] ∧ s.readable (s.qp q).sqBase (64 * 2 ^ (s.qp
      q).sqLog2) ∧ s.writable (s.qp q).cqBase (32 * 2 ^ (s.qp q).cqLog2) = true) ∧
    (∃ (s : State) (q : QpId), ((s.qp q).st ≠ .error ∨ (s.qp q).flushed = true)) ∧
    (∃ (s : State) (q : QpId) (value : Nat), s.ready (.feng (engOfQp q)) = true ∧ value < 65536 ∧ (s.qp q).st ≠ .rts) ∧
    (∃ (s : State) (q : QpId) (value : Nat) (u : State) (w : BitVec 512), s.ready (.feng (engOfQp q)) = true ∧ value
      < 65536 ∧ (u = s.setQp q
      { s.qp q with sqTail := value % 2 ^ ((s.qp q).sqLog2 + 1), headAt := if (s.qp q).nextWr = (s.qp q).sqTail then s.now else (s.qp q).headAt })
      ∧ u.canStart q = true ∧ (s.qp q).regTo = (s.qp q).nextWr ∧ (u.qp q).sqTail = (s.qp q).sqNext (s.qp q).nextWr ∧
      s.tier.answers = [] ∧ s.readable ((s.qp q).sqBase + (s.qp q).nextWr % 2 ^ (s.qp q).sqLog2 * 64) 64 ∧ w =
      s.ringWr q (s.qp q).nextWr ∧ wrBad w = false ∧ wrRegisters w = false) ∧
    (∃ (s : State) (q : QpId) (value : Nat) (u : State) (w : BitVec 512), s.ready (.feng (engOfQp q)) = true ∧ value
      < 65536 ∧ (u = s.setQp q
      { s.qp q with sqTail := value % 2 ^ ((s.qp q).sqLog2 + 1), headAt := if (s.qp q).nextWr = (s.qp q).sqTail then s.now else (s.qp q).headAt })
      ∧ u.canStart q = true ∧ (s.qp q).regTo = (s.qp q).nextWr ∧ (u.qp q).sqTail = (s.qp q).sqNext (s.qp q).nextWr ∧
      s.tier.answers = [] ∧ s.readable ((s.qp q).sqBase + (s.qp q).nextWr % 2 ^ (s.qp q).sqLog2 * 64) 64 ∧ w =
      s.ringWr q (s.qp q).nextWr ∧ wrBad w = true ∧ s.isPool q = false ∧ (s.qp q).wrs = [] ∧ s.writable (s.qp
      q).cqBase (32 * 2 ^ (s.qp q).cqLog2) = true) ∧
    (∃ (s : State) (q : QpId) (value : Nat) (u : State) (w : BitVec 512), s.ready (.feng (engOfQp q)) = true ∧ value
      < 65536 ∧ (u = s.setQp q
      { s.qp q with sqTail := value % 2 ^ ((s.qp q).sqLog2 + 1), headAt := if (s.qp q).nextWr = (s.qp q).sqTail then s.now else (s.qp q).headAt })
      ∧ u.canStart q = true ∧ (s.qp q).regTo = (s.qp q).nextWr ∧ (u.qp q).sqTail = (s.qp q).sqNext (s.qp q).nextWr ∧
      s.tier.answers = [] ∧ s.readable ((s.qp q).sqBase + (s.qp q).nextWr % 2 ^ (s.qp q).sqLog2 * 64) 64 ∧ w =
      s.ringWr q (s.qp q).nextWr ∧ wrRegisters w = true ∧ (s.eng (engOfQp q)).trigs.length < 4096) ∧
    (∃ (s : State) (q : QpId) (value : Nat), s.ready (.feng (engOfQp q)) = true ∧ value < 65536 ∧ s.canStart q =
      false) ∧
    (∃ (s : State) (q : QpId) (value : Nat), s.ready (.feng (engOfQp q)) = true ∧ 65536 ≤ value) ∧
    (∃ (s : State) (q : QpId) (value : Nat), s.ready (.feng (engOfQp q)) = true ∧ (s.qp q).cqeWait = [] ∧ ((s.qp
      q).rqUsed = 0 ∨ (s.qp q).rqOpen.any (fun x => x.2.1 = (s.qp q).rqHead) = true)) ∧
    (∃ (s : State) (q : QpId) (value : Nat) (c : BitVec 256 × Option Nat), s.ready (.feng (engOfQp q)) = true ∧ (s.qp
      q).cqeWait = [c] ∧ ringUsed (s.qp q).cqLog2 (value % 2 ^ ((s.qp q).cqLog2 + 1)) (s.qp q).cqTail < 2 ^ (s.qp
      q).cqLog2 ∧ s.writable (s.qp q).cqBase (32 * 2 ^ (s.qp q).cqLog2) = true ∧ (s.qp q).rqUsed = 0 ∧ (s.qp q).st ≠
      .error) ∧
    (∃ (s : State) (q : QpId) (value : Nat) (c : BitVec 256 × Option Nat), s.ready (.feng (engOfQp q)) = true ∧ (s.qp
      q).cqeWait = [c] ∧ ringUsed (s.qp q).cqLog2 (value % 2 ^ ((s.qp q).cqLog2 + 1)) (s.qp q).cqTail < 2 ^ (s.qp
      q).cqLog2 ∧ s.writable (s.qp q).cqBase (32 * 2 ^ (s.qp q).cqLog2) = true ∧ (s.qp q).rqUsed = 0 ∧ (s.qp q).st =
      .error ∧ (s.qp q).sqHead = (s.qp q).sqTail ∧ (s.qp q).rqHead = (s.qp q).rqTail ∧ (s.qp q).wrs = [] ∧ (∀ e ∈
      (s.mover (partOfQp q)).ctxs, e.2.closed = false)) :=
  ⟨⟨{ (st [(Reg.PG_READY_READY.place .tier, 1), (Reg.PG_READY_READY.place (.bas 0), 1), (Reg.BAS_MEM_STAT_ONLINE.place (.bas 0), 1), (Reg.BAS_MEM_FRAMES_FRAMES.place (.bas 0), 786432), (Reg.PG_READY_READY.place (.feng 6), 1), (Reg.PG_READY_READY.place (.disp 3), 1), (Reg.PG_READY_READY.place (.disp 0), 1), (Reg.DEV_NODE_NODE.place .dev, 9), (Reg.PORT_STAT_LINK_UP.place (.port 3), 1)]) with tier := { pages := [(5, { st := .resident .basin, frame := 0, frameTier := .basin })], dirs := [(0, { valid := true, used := 1, leaf := 257 })], leaves := [(257, true)], frames := [(67108864, true)] }, mem := [], qps := [(1541, { remNode := 4, remPart := 1, remQpn := 600, sqBase := 327680, rqBase := 331776, cqBase := 335872, sqLog2 := 4, rqLog2 := 4, cqLog2 := 4, retryLimit := 2, ackTo := 3, rnrUs := 5, rnrLimit := 3, holdTo := 4 })] },
     1541, by decide +kernel⟩,
   ⟨{ (st [(Reg.PG_READY_READY.place .tier, 1), (Reg.PG_READY_READY.place (.bas 0), 1), (Reg.BAS_MEM_STAT_ONLINE.place (.bas 0), 1), (Reg.BAS_MEM_FRAMES_FRAMES.place (.bas 0), 786432), (Reg.PG_READY_READY.place (.feng 6), 1), (Reg.PG_READY_READY.place (.disp 3), 1), (Reg.PG_READY_READY.place (.disp 0), 1), (Reg.DEV_NODE_NODE.place .dev, 9), (Reg.PORT_STAT_LINK_UP.place (.port 3), 1)]) with tier := { pages := [(5, { st := .resident .basin, frame := 0, frameTier := .basin })], dirs := [(0, { valid := true, used := 1, leaf := 257 })], leaves := [(257, true)], frames := [(67108864, true)] }, mem := [], qps := [(1541, { retryLimit := 0 })] },
     1541, by decide +kernel⟩,
   ⟨{ (st [(Reg.PG_READY_READY.place .tier, 1), (Reg.PG_READY_READY.place (.bas 0), 1), (Reg.BAS_MEM_STAT_ONLINE.place (.bas 0), 1), (Reg.BAS_MEM_FRAMES_FRAMES.place (.bas 0), 786432), (Reg.PG_READY_READY.place (.feng 6), 1), (Reg.PG_READY_READY.place (.disp 3), 1), (Reg.PG_READY_READY.place (.disp 0), 1), (Reg.DEV_NODE_NODE.place .dev, 9), (Reg.PORT_STAT_LINK_UP.place (.port 3), 1)]) with tier := { pages := [(5, { st := .resident .basin, frame := 0, frameTier := .basin })], dirs := [(0, { valid := true, used := 1, leaf := 257 })], leaves := [(257, true)], frames := [(67108864, true)] }, mem := [], qps := [(1541, { remNode := 4, remPart := 1, remQpn := 600, sqBase := 327680, rqBase := 331776, cqBase := 335872, sqLog2 := 4, rqLog2 := 4, cqLog2 := 4, retryLimit := 2, ackTo := 3, rnrUs := 5, rnrLimit := 3, holdTo := 4, st := .init, nextPsn := 7 })] },
     1541, by decide +kernel⟩,
   ⟨{ (st [(Reg.PG_READY_READY.place .tier, 1), (Reg.PG_READY_READY.place (.bas 0), 1), (Reg.BAS_MEM_STAT_ONLINE.place (.bas 0), 1), (Reg.BAS_MEM_FRAMES_FRAMES.place (.bas 0), 786432), (Reg.PG_READY_READY.place (.feng 6), 1), (Reg.PG_READY_READY.place (.disp 3), 1), (Reg.PG_READY_READY.place (.disp 0), 1), (Reg.DEV_NODE_NODE.place .dev, 9), (Reg.PORT_STAT_LINK_UP.place (.port 3), 1), (Reg.MOVE_QP_CFG_FIRST.place (.move 3), 5), (Reg.MOVE_QP_CFG_COUNT.place (.move 3), 1)]) with tier := { pages := [(5, { st := .resident .basin, frame := 0, frameTier := .basin })], dirs := [(0, { valid := true, used := 1, leaf := 257 })], leaves := [(257, true)], frames := [(67108864, true)] }, mem := [], qps := [(1541, { remNode := 4, remPart := 1, remQpn := 600, sqBase := 327680, rqBase := 331776, cqBase := 335872, sqLog2 := 4, rqLog2 := 4, cqLog2 := 4, retryLimit := 2, ackTo := 3, rnrUs := 5, rnrLimit := 3, holdTo := 4, st := .init, rqTail := 20 })] },
     1541, by decide +kernel⟩,
   ⟨{ (st [(Reg.PG_READY_READY.place .tier, 1), (Reg.PG_READY_READY.place (.bas 0), 1), (Reg.BAS_MEM_STAT_ONLINE.place (.bas 0), 1), (Reg.BAS_MEM_FRAMES_FRAMES.place (.bas 0), 786432), (Reg.PG_READY_READY.place (.feng 6), 1), (Reg.PG_READY_READY.place (.disp 3), 1), (Reg.PG_READY_READY.place (.disp 0), 1), (Reg.DEV_NODE_NODE.place .dev, 9), (Reg.PORT_STAT_LINK_UP.place (.port 3), 1)]) with tier := { pages := [(5, { st := .resident .basin, frame := 0, frameTier := .basin })], dirs := [(0, { valid := true, used := 1, leaf := 257 })], leaves := [(257, true)], frames := [(67108864, true)] }, mem := [], qps := [(1541, { remNode := 4, remPart := 1, remQpn := 600, sqBase := 327680, rqBase := 331776, cqBase := 335872, sqLog2 := 4, rqLog2 := 4, cqLog2 := 4, retryLimit := 2, ackTo := 3, rnrUs := 5, rnrLimit := 3, holdTo := 4, st := .init, sqTail := 7 })] },
     1541, by decide +kernel⟩,
   ⟨{ (st [(Reg.PG_READY_READY.place .tier, 1), (Reg.PG_READY_READY.place (.bas 0), 1), (Reg.BAS_MEM_STAT_ONLINE.place (.bas 0), 1), (Reg.BAS_MEM_FRAMES_FRAMES.place (.bas 0), 786432), (Reg.PG_READY_READY.place (.feng 6), 1), (Reg.PG_READY_READY.place (.disp 3), 1), (Reg.PG_READY_READY.place (.disp 0), 1), (Reg.DEV_NODE_NODE.place .dev, 9), (Reg.PORT_STAT_LINK_UP.place (.port 3), 1)]) with engines := [(6, { trigs := [{ qp := 1541, index := 2, src := 4, tag := 9, released := false, since := 0 }] })], tier := { pages := [(5, { st := .resident .basin, frame := 0, frameTier := .basin })], dirs := [(0, { valid := true, used := 1, leaf := 257 })], leaves := [(257, true)], frames := [(67108864, true)] }, mem := [], qps := [(1541, { remNode := 4, remPart := 1, remQpn := 600, sqBase := 327680, rqBase := 331776, cqBase := 335872, sqLog2 := 4, rqLog2 := 4, cqLog2 := 4, retryLimit := 2, ackTo := 3, rnrUs := 5, rnrLimit := 3, holdTo := 4, st := .rts })] },
     1541, by decide +kernel⟩,
   ⟨{ (st [(Reg.PG_READY_READY.place .tier, 1), (Reg.PG_READY_READY.place (.bas 0), 1), (Reg.BAS_MEM_STAT_ONLINE.place (.bas 0), 1), (Reg.BAS_MEM_FRAMES_FRAMES.place (.bas 0), 786432), (Reg.PG_READY_READY.place (.feng 6), 1), (Reg.PG_READY_READY.place (.disp 3), 1), (Reg.PG_READY_READY.place (.disp 0), 1), (Reg.DEV_NODE_NODE.place .dev, 9), (Reg.PORT_STAT_LINK_UP.place (.port 3), 1)]) with tier := { pages := [(5, { st := .resident .basin, frame := 0, frameTier := .basin })], dirs := [(0, { valid := true, used := 1, leaf := 257 })], leaves := [(257, true)], frames := [(67108864, true)] }, mem := [], qps := [(1541, { remNode := 4, remPart := 1, remQpn := 600, sqBase := 327680, rqBase := 331776, cqBase := 335872, sqLog2 := 4, rqLog2 := 4, cqLog2 := 4, retryLimit := 2, ackTo := 3, rnrUs := 5, rnrLimit := 3, holdTo := 4, st := .init })] },
     1541, by decide +kernel⟩,
   ⟨{ (st [(Reg.PG_READY_READY.place .tier, 1), (Reg.PG_READY_READY.place (.bas 0), 1), (Reg.BAS_MEM_STAT_ONLINE.place (.bas 0), 1), (Reg.BAS_MEM_FRAMES_FRAMES.place (.bas 0), 786432), (Reg.PG_READY_READY.place (.feng 6), 1), (Reg.PG_READY_READY.place (.disp 3), 1), (Reg.PG_READY_READY.place (.disp 0), 1), (Reg.DEV_NODE_NODE.place .dev, 9), (Reg.PORT_STAT_LINK_UP.place (.port 3), 1)]) with tier := { pages := [(5, { st := .resident .basin, frame := 0, frameTier := .basin })], dirs := [(0, { valid := true, used := 1, leaf := 257 })], leaves := [(257, true)], frames := [(67108864, true)] }, mem := [], qps := [(1541, { remNode := 4, remPart := 1, remQpn := 600, sqBase := 327680, rqBase := 331776, cqBase := 335872, sqLog2 := 4, rqLog2 := 4, cqLog2 := 4, retryLimit := 2, ackTo := 3, rnrUs := 5, rnrLimit := 3, holdTo := 4, st := .rts })] },
     1541, by decide +kernel⟩,
   ⟨{ (st [(Reg.PG_READY_READY.place .tier, 1), (Reg.PG_READY_READY.place (.bas 0), 1), (Reg.BAS_MEM_STAT_ONLINE.place (.bas 0), 1), (Reg.BAS_MEM_FRAMES_FRAMES.place (.bas 0), 786432), (Reg.PG_READY_READY.place (.feng 6), 1), (Reg.PG_READY_READY.place (.disp 3), 1), (Reg.PG_READY_READY.place (.disp 0), 1), (Reg.DEV_NODE_NODE.place .dev, 9), (Reg.PORT_STAT_LINK_UP.place (.port 3), 1)]) with tier := { pages := [(5, { st := .resident .basin, frame := 0, frameTier := .basin })], dirs := [(0, { valid := true, used := 1, leaf := 257 })], leaves := [(257, true)], frames := [(67108864, true)] }, mem := [], qps := [(1541, { remNode := 4, remPart := 1, remQpn := 600, sqBase := 327680, rqBase := 331776, cqBase := 335872, sqLog2 := 4, rqLog2 := 4, cqLog2 := 4, retryLimit := 2, ackTo := 3, rnrUs := 5, rnrLimit := 3, holdTo := 4, st := .reset })] },
     1541, by decide +kernel⟩,
   ⟨{ (st [(Reg.PG_READY_READY.place .tier, 1), (Reg.PG_READY_READY.place (.bas 0), 1), (Reg.BAS_MEM_STAT_ONLINE.place (.bas 0), 1), (Reg.BAS_MEM_FRAMES_FRAMES.place (.bas 0), 786432), (Reg.PG_READY_READY.place (.feng 6), 1), (Reg.PG_READY_READY.place (.disp 3), 1), (Reg.PG_READY_READY.place (.disp 0), 1), (Reg.DEV_NODE_NODE.place .dev, 9), (Reg.PORT_STAT_LINK_UP.place (.port 3), 1)]) with tier := { pages := [(5, { st := .resident .basin, frame := 0, frameTier := .basin })], dirs := [(0, { valid := true, used := 1, leaf := 257 })], leaves := [(257, true)], frames := [(67108864, true)] }, mem := [], qps := [(1541, { remNode := 4, remPart := 1, remQpn := 600, sqBase := 327680, rqBase := 331776, cqBase := 335872, sqLog2 := 4, rqLog2 := 4, cqLog2 := 4, retryLimit := 2, ackTo := 3, rnrUs := 5, rnrLimit := 3, holdTo := 4, st := .error })] },
     1541, by decide +kernel⟩,
   ⟨{ (st [(Reg.PG_READY_READY.place .tier, 1), (Reg.PG_READY_READY.place (.bas 0), 1), (Reg.BAS_MEM_STAT_ONLINE.place (.bas 0), 1), (Reg.BAS_MEM_FRAMES_FRAMES.place (.bas 0), 786432), (Reg.PG_READY_READY.place (.feng 6), 1), (Reg.PG_READY_READY.place (.disp 3), 1), (Reg.PG_READY_READY.place (.disp 0), 1), (Reg.DEV_NODE_NODE.place .dev, 9), (Reg.PORT_STAT_LINK_UP.place (.port 3), 1)]) with tier := { pages := [(5, { st := .resident .basin, frame := 0, frameTier := .basin })], dirs := [(0, { valid := true, used := 1, leaf := 257 })], leaves := [(257, true)], frames := [(67108864, true)] }, mem := [], qps := [(1541, { remNode := 4, remPart := 1, remQpn := 600, sqBase := 327680, rqBase := 331776, cqBase := 335872, sqLog2 := 4, rqLog2 := 4, cqLog2 := 4, retryLimit := 2, ackTo := 3, rnrUs := 5, rnrLimit := 3, holdTo := 4, st := .rts })] },
     1541, by decide +kernel⟩,
   ⟨{ (st [(Reg.PG_READY_READY.place .tier, 1), (Reg.PG_READY_READY.place (.bas 0), 1), (Reg.BAS_MEM_STAT_ONLINE.place (.bas 0), 1), (Reg.BAS_MEM_FRAMES_FRAMES.place (.bas 0), 786432), (Reg.PG_READY_READY.place (.feng 6), 1), (Reg.PG_READY_READY.place (.disp 3), 1), (Reg.PG_READY_READY.place (.disp 0), 1), (Reg.DEV_NODE_NODE.place .dev, 9), (Reg.PORT_STAT_LINK_UP.place (.port 3), 1)]) with tier := { pages := [(5, { st := .resident .basin, frame := 0, frameTier := .basin })], dirs := [(0, { valid := true, used := 1, leaf := 257 })], leaves := [(257, true)], frames := [(67108864, true)] }, mem := Map.store [] 327680 (bytesOfNat 64 27521983426056650714064412062524351034458194706491509475744794456812395931289909262946948588950726184534016), qps := [(1541, { remNode := 4, remPart := 1, remQpn := 600, sqBase := 327680, rqBase := 331776, cqBase := 335872, sqLog2 := 4, rqLog2 := 4, cqLog2 := 4, retryLimit := 2, ackTo := 3, rnrUs := 5, rnrLimit := 3, holdTo := 4, st := .error, sqTail := 2, rqTail := 3 })] },
     1541, by decide +kernel⟩,
   ⟨{ (st [(Reg.PG_READY_READY.place .tier, 1), (Reg.PG_READY_READY.place (.bas 0), 1), (Reg.BAS_MEM_STAT_ONLINE.place (.bas 0), 1), (Reg.BAS_MEM_FRAMES_FRAMES.place (.bas 0), 786432), (Reg.PG_READY_READY.place (.feng 6), 1), (Reg.PG_READY_READY.place (.disp 3), 1), (Reg.PG_READY_READY.place (.disp 0), 1), (Reg.DEV_NODE_NODE.place .dev, 9), (Reg.PORT_STAT_LINK_UP.place (.port 3), 1)]) with tier := { pages := [(5, { st := .resident .basin, frame := 0, frameTier := .basin })], dirs := [(0, { valid := true, used := 1, leaf := 257 })], leaves := [(257, true)], frames := [(67108864, true)] }, mem := [], qps := [(1541, { remNode := 4, remPart := 1, remQpn := 600, sqBase := 327680, rqBase := 331776, cqBase := 335872, sqLog2 := 4, rqLog2 := 4, cqLog2 := 4, retryLimit := 2, ackTo := 3, rnrUs := 5, rnrLimit := 3, holdTo := 4 })] },
     1541, by decide +kernel⟩,
   ⟨{ (st [(Reg.PG_READY_READY.place .tier, 1), (Reg.PG_READY_READY.place (.bas 0), 1), (Reg.BAS_MEM_STAT_ONLINE.place (.bas 0), 1), (Reg.BAS_MEM_FRAMES_FRAMES.place (.bas 0), 786432), (Reg.PG_READY_READY.place (.feng 6), 1), (Reg.PG_READY_READY.place (.disp 3), 1), (Reg.PG_READY_READY.place (.disp 0), 1), (Reg.DEV_NODE_NODE.place .dev, 9), (Reg.PORT_STAT_LINK_UP.place (.port 3), 1)]) with tier := { pages := [(5, { st := .resident .basin, frame := 0, frameTier := .basin })], dirs := [(0, { valid := true, used := 1, leaf := 257 })], leaves := [(257, true)], frames := [(67108864, true)] }, mem := [], qps := [(1541, { remNode := 4, remPart := 1, remQpn := 600, sqBase := 327680, rqBase := 331776, cqBase := 335872, sqLog2 := 4, rqLog2 := 4, cqLog2 := 4, retryLimit := 2, ackTo := 3, rnrUs := 5, rnrLimit := 3, holdTo := 4 })] },
     1541, 35, by decide +kernel⟩,
   ⟨rig rigQp
     27521983426056650714064412062524351034458194706491509475744794456812395931289909262946948588950726184534080,
     1541, 1, (rig rigQp
     27521983426056650714064412062524351034458194706491509475744794456812395931289909262946948588950726184534080).setQp
     1541
     { (rig rigQp 27521983426056650714064412062524351034458194706491509475744794456812395931289909262946948588950726184534080).qp 1541 with sqTail := 1, headAt := 0 },
     27521983426056650714064412062524351034458194706491509475744794456812395931289909262946948588950726184534080,
     by decide +kernel⟩,
   ⟨rig rigQp 34175792574734561318320347298712833833643272357706444319152665725155515612491669199661069026459663,
     1541, 1, (rig rigQp
     34175792574734561318320347298712833833643272357706444319152665725155515612491669199661069026459663).setQp 1541
     { (rig rigQp 34175792574734561318320347298712833833643272357706444319152665725155515612491669199661069026459663).qp 1541 with sqTail := 1, headAt := 0 },
     34175792574734561318320347298712833833643272357706444319152665725155515612491669199661069026459663,
     by decide +kernel⟩,
   ⟨rig rigQp
     27521983426056650714064412062524351034458194706491509475744794456812395931289909262946948588950726184927568,
     1541, 1, (rig rigQp
     27521983426056650714064412062524351034458194706491509475744794456812395931289909262946948588950726184927568).setQp
     1541
     { (rig rigQp 27521983426056650714064412062524351034458194706491509475744794456812395931289909262946948588950726184927568).qp 1541 with sqTail := 1, headAt := 0 },
     27521983426056650714064412062524351034458194706491509475744794456812395931289909262946948588950726184927568,
     by decide +kernel⟩,
   ⟨{ (st [(Reg.PG_READY_READY.place .tier, 1), (Reg.PG_READY_READY.place (.bas 0), 1), (Reg.BAS_MEM_STAT_ONLINE.place (.bas 0), 1), (Reg.BAS_MEM_FRAMES_FRAMES.place (.bas 0), 786432), (Reg.PG_READY_READY.place (.feng 6), 1), (Reg.PG_READY_READY.place (.disp 3), 1), (Reg.PG_READY_READY.place (.disp 0), 1), (Reg.DEV_NODE_NODE.place .dev, 9), (Reg.PORT_STAT_LINK_UP.place (.port 3), 1)]) with tier := { pages := [(5, { st := .resident .basin, frame := 0, frameTier := .basin })], dirs := [(0, { valid := true, used := 1, leaf := 257 })], leaves := [(257, true)], frames := [(67108864, true)] }, mem := [], qps := [(1541, { remNode := 4, remPart := 1, remQpn := 600, sqBase := 327680, rqBase := 331776, cqBase := 335872, sqLog2 := 4, rqLog2 := 4, cqLog2 := 4, retryLimit := 2, ackTo := 3, rnrUs := 5, rnrLimit := 3, holdTo := 4, st := .rts })] },
     1541, 35, by decide +kernel⟩,
   ⟨{ (st [(Reg.PG_READY_READY.place .tier, 1), (Reg.PG_READY_READY.place (.bas 0), 1), (Reg.BAS_MEM_STAT_ONLINE.place (.bas 0), 1), (Reg.BAS_MEM_FRAMES_FRAMES.place (.bas 0), 786432), (Reg.PG_READY_READY.place (.feng 6), 1), (Reg.PG_READY_READY.place (.disp 3), 1), (Reg.PG_READY_READY.place (.disp 0), 1), (Reg.DEV_NODE_NODE.place .dev, 9), (Reg.PORT_STAT_LINK_UP.place (.port 3), 1)]) with tier := { pages := [(5, { st := .resident .basin, frame := 0, frameTier := .basin })], dirs := [(0, { valid := true, used := 1, leaf := 257 })], leaves := [(257, true)], frames := [(67108864, true)] }, mem := [], qps := [(1541, { remNode := 4, remPart := 1, remQpn := 600, sqBase := 327680, rqBase := 331776, cqBase := 335872, sqLog2 := 4, rqLog2 := 4, cqLog2 := 4, retryLimit := 2, ackTo := 3, rnrUs := 5, rnrLimit := 3, holdTo := 4 })] },
     1541, 65536, by decide +kernel⟩,
   ⟨{ (st [(Reg.PG_READY_READY.place .tier, 1), (Reg.PG_READY_READY.place (.bas 0), 1), (Reg.BAS_MEM_STAT_ONLINE.place (.bas 0), 1), (Reg.BAS_MEM_FRAMES_FRAMES.place (.bas 0), 786432), (Reg.PG_READY_READY.place (.feng 6), 1), (Reg.PG_READY_READY.place (.disp 3), 1), (Reg.PG_READY_READY.place (.disp 0), 1), (Reg.DEV_NODE_NODE.place .dev, 9), (Reg.PORT_STAT_LINK_UP.place (.port 3), 1)]) with tier := { pages := [(5, { st := .resident .basin, frame := 0, frameTier := .basin })], dirs := [(0, { valid := true, used := 1, leaf := 257 })], leaves := [(257, true)], frames := [(67108864, true)] }, mem := [], qps := [(1541, { remNode := 4, remPart := 1, remQpn := 600, sqBase := 327680, rqBase := 331776, cqBase := 335872, sqLog2 := 4, rqLog2 := 4, cqLog2 := 4, retryLimit := 2, ackTo := 3, rnrUs := 5, rnrLimit := 3, holdTo := 4, st := .rts })] },
     1541, 35, by decide +kernel⟩,
   ⟨rig { rigQp with cqTail := 16, cqeWait := [(5, none)] }, 1541, 1, (5, none), by decide +kernel⟩,
   ⟨rig { rigQp with st := .error, cqTail := 16, cqeWait := [(5, none)] }, 1541, 1, (5, none), by decide +kernel⟩⟩

/-- The hypotheses of WorkRequestsStart can be met, clause by clause. -/
theorem wit_WorkRequestsStart :
    (∃ (s : State) (q : QpId) (w : BitVec 512) (plane : Nat), (s.qp q).st = .rts ∧ (s.qp q).nextWr ≠ (s.qp q).sqTail
      ∧ (s.qp q).cqFull = false ∧ (s.qp q).cqeWait = [] ∧ s.fenced (partOfQp q) = false ∧ s.ready (.feng (engOfQp q))
      = true ∧ s.readable ((s.qp q).sqBase + (s.qp q).nextWr % 2 ^ (s.qp q).sqLog2 * 64) 64 ∧ s.tier.answers = [] ∧ w
      = s.ringWr q (s.qp q).nextWr ∧ wrBad w = false ∧ (s.qp q).wrs = [] ∧ (s.qp q).nextPsn = (s.qp q).sqPsn ∧ (s.qp
      q).unaPsn = (s.qp q).sqPsn ∧ wLen w ≤ 1024 ∧ (s.qpPlane q = some plane) ∧ wOp w = 0 ∧ s.isReleased q (s.qp
      q).nextWr w false = true ∧ (wLen w ≠ 0 → s.readable (wLocal w) (wLen w))) ∧
    (∃ (s : State) (q : QpId) (w : BitVec 512) (plane : Nat), (s.qp q).st = .rts ∧ (s.qp q).nextWr ≠ (s.qp q).sqTail
      ∧ (s.qp q).cqFull = false ∧ (s.qp q).cqeWait = [] ∧ s.fenced (partOfQp q) = false ∧ s.ready (.feng (engOfQp q))
      = true ∧ s.readable ((s.qp q).sqBase + (s.qp q).nextWr % 2 ^ (s.qp q).sqLog2 * 64) 64 ∧ s.tier.answers = [] ∧ w
      = s.ringWr q (s.qp q).nextWr ∧ wrBad w = false ∧ (s.qp q).wrs = [] ∧ (s.qp q).nextPsn = (s.qp q).sqPsn ∧ (s.qp
      q).unaPsn = (s.qp q).sqPsn ∧ wLen w ≤ 1024 ∧ (s.qpPlane q = some plane) ∧ wOp w = 1 ∧ s.isReleased q (s.qp
      q).nextWr w false = true) ∧
    (∃ (s : State) (q : QpId) (w : BitVec 512) (plane : Nat), (s.qp q).st = .rts ∧ (s.qp q).nextWr ≠ (s.qp q).sqTail
      ∧ (s.qp q).cqFull = false ∧ (s.qp q).cqeWait = [] ∧ s.fenced (partOfQp q) = false ∧ s.ready (.feng (engOfQp q))
      = true ∧ s.readable ((s.qp q).sqBase + (s.qp q).nextWr % 2 ^ (s.qp q).sqLog2 * 64) 64 ∧ s.tier.answers = [] ∧ w
      = s.ringWr q (s.qp q).nextWr ∧ wrBad w = false ∧ (s.qp q).wrs = [] ∧ (s.qp q).nextPsn = (s.qp q).sqPsn ∧ (s.qp
      q).unaPsn = (s.qp q).sqPsn ∧ wLen w ≤ 1024 ∧ (s.qpPlane q = some plane) ∧ wOp w = 2 ∧ (s.mover (partOfQp
      q)).outbox = [] ∧ s.isReleased q (s.qp q).nextWr w false = true ∧ (wLen w ≠ 0 → s.readable (wLocal w) (wLen
      w))) ∧
    (∃ (s : State) (q : QpId) (w : BitVec 512) (plane : Nat), (s.qp q).st = .rts ∧ (s.qp q).nextWr ≠ (s.qp q).sqTail
      ∧ (s.qp q).cqFull = false ∧ (s.qp q).cqeWait = [] ∧ s.fenced (partOfQp q) = false ∧ s.ready (.feng (engOfQp q))
      = true ∧ s.readable ((s.qp q).sqBase + (s.qp q).nextWr % 2 ^ (s.qp q).sqLog2 * 64) 64 ∧ s.tier.answers = [] ∧ w
      = s.ringWr q (s.qp q).nextWr ∧ wrBad w = false ∧ (s.qp q).wrs = [] ∧ (s.qp q).nextPsn = (s.qp q).sqPsn ∧ (s.qp
      q).unaPsn = (s.qp q).sqPsn ∧ wLen w ≤ 1024 ∧ (s.qpPlane q = some plane) ∧ wOp w = 3 ∧ s.isReleased q (s.qp
      q).nextWr w false = true ∧ (wLen w ≠ 0 → s.readable (wLocal w) (wLen w))) ∧
    (∃ (s : State) (q : QpId) (w : BitVec 512) (plane : Nat), (s.qp q).st = .rts ∧ (s.qp q).nextWr ≠ (s.qp q).sqTail
      ∧ (s.qp q).cqFull = false ∧ (s.qp q).cqeWait = [] ∧ s.fenced (partOfQp q) = false ∧ s.ready (.feng (engOfQp q))
      = true ∧ s.readable ((s.qp q).sqBase + (s.qp q).nextWr % 2 ^ (s.qp q).sqLog2 * 64) 64 ∧ s.tier.answers = [] ∧ w
      = s.ringWr q (s.qp q).nextWr ∧ wrBad w = false ∧ (s.qp q).wrs = [] ∧ (s.qp q).nextPsn = (s.qp q).sqPsn ∧ (s.qp
      q).unaPsn = (s.qp q).sqPsn ∧ wLen w ≤ 1024 ∧ (s.qpPlane q = some plane) ∧ wOp w = 4 ∧ s.isReleased q (s.qp
      q).nextWr w false = true) ∧
    (∃ (s : State) (q : QpId) (w : BitVec 512) (plane : Nat), (s.qp q).st = .rts ∧ (s.qp q).nextWr ≠ (s.qp q).sqTail
      ∧ (s.qp q).cqFull = false ∧ (s.qp q).cqeWait = [] ∧ s.fenced (partOfQp q) = false ∧ s.ready (.feng (engOfQp q))
      = true ∧ s.readable ((s.qp q).sqBase + (s.qp q).nextWr % 2 ^ (s.qp q).sqLog2 * 64) 64 ∧ s.tier.answers = [] ∧ w
      = s.ringWr q (s.qp q).nextWr ∧ wrBad w = false ∧ (s.qp q).wrs = [] ∧ (s.qp q).nextPsn = (s.qp q).sqPsn ∧ (s.qp
      q).unaPsn = (s.qp q).sqPsn ∧ wLen w ≤ 1024 ∧ (s.qpPlane q = some plane) ∧ wOp w = 5 ∧ s.isReleased q (s.qp
      q).nextWr w false = true) ∧
    (∃ (s : State) (q : QpId) (w : BitVec 512) (plane : Nat), (s.qp q).st = .rts ∧ (s.qp q).nextWr ≠ (s.qp q).sqTail
      ∧ (s.qp q).cqFull = false ∧ (s.qp q).cqeWait = [] ∧ s.fenced (partOfQp q) = false ∧ s.ready (.feng (engOfQp q))
      = true ∧ s.readable ((s.qp q).sqBase + (s.qp q).nextWr % 2 ^ (s.qp q).sqLog2 * 64) 64 ∧ s.tier.answers = [] ∧ w
      = s.ringWr q (s.qp q).nextWr ∧ wrBad w = false ∧ (s.qp q).wrs = [] ∧ (s.qp q).nextPsn = (s.qp q).sqPsn ∧ (s.qp
      q).unaPsn = (s.qp q).sqPsn ∧ wLen w ≤ 1024 ∧ (s.qpPlane q = some plane) ∧ wHeld w = true ∧ wTrigSrc w = 3 ∧
      (s.qp q).headAt + wTrigTag w * 1000 ≤ s.now ∧ wOp w = 0 ∧ (wLen w ≠ 0 → s.readable (wLocal w) (wLen w))) ∧
    (∃ (s : State) (q : QpId) (w : BitVec 512), (s.qp q).wrs = [] ∧ (s.qp q).nextPsn = (s.qp q).sqPsn ∧
      s.tier.answers = [] ∧ s.canStart q = true ∧ s.readable ((s.qp q).sqBase + (s.qp q).nextWr % 2 ^ (s.qp q).sqLog2
      * 64) 64 ∧ w = s.ringWr q (s.qp q).nextWr ∧ wrBad w = false ∧ s.isReleased q (s.qp q).nextWr w false = false ∧
      (wTrigSrc w ≠ 3 ∨ s.now < (s.qp q).headAt + wTrigTag w * 1000)) ∧
    (∃ (s : State) (q : QpId) (w : BitVec 512), (s.qp q).st = .rts ∧ (s.qp q).regTo ≠ (s.qp q).sqTail ∧
      s.tier.answers = [] ∧ s.readable ((s.qp q).sqBase + (s.qp q).regTo % 2 ^ (s.qp q).sqLog2 * 64) 64 ∧ w =
      s.ringWr q (s.qp q).regTo ∧ wrRegisters w = true ∧ (s.eng (engOfQp q)).trigs.length < 4096 ∧ (s.isPool q =
      false ∨ (∀ e ∈ (s.mover (partOfQp q)).ctxs, e.2.state ≠ 1))) ∧
    (∃ (s : State) (q : QpId) (w : BitVec 512), (s.qp q).st = .rts ∧ (s.qp q).regTo ≠ (s.qp q).sqTail ∧
      s.tier.answers = [] ∧ s.readable ((s.qp q).sqBase + (s.qp q).regTo % 2 ^ (s.qp q).sqLog2 * 64) 64 ∧ w =
      s.ringWr q (s.qp q).regTo ∧ wrRegisters w = true ∧ 4096 ≤ (s.eng (engOfQp q)).trigs.length ∧ s.isPool q = false
      ∧ (s.qp q).wrs = [] ∧ (s.qp q).cqFull = false ∧ (s.qp q).cqeWait = [] ∧ s.writable (s.qp q).cqBase (32 * 2 ^
      (s.qp q).cqLog2) = true) ∧
    (∃ (s : State) (q : QpId), (s.qp q).regTo = (s.qp q).sqTail ∧ s.isPool q = false) ∧
    (∃ (s : State) (e : EngId) (tag : Nat), s.ready (.feng e) = true ∧ tag < 65536) ∧
    (∃ (s : State) (q : QpId) (index : Nat) (u : Trig), ((s.eng (engOfQp q)).trigs.find? (fun x => x.qp = q ∧ x.index
      = index ∧ ¬ x.released) = some u) ∧ (s.qp q).st = .rts ∧ (s.qp q).holdTo ≠ 0 ∧ u.since + (s.qp q).holdTo * 1000
      ≤ s.now ∧ s.isPool q = false ∧ (s.qp q).wrs = [] ∧ (s.qp q).cqFull = false ∧ (s.qp q).cqeWait = [] ∧ s.writable
      (s.qp q).cqBase (32 * 2 ^ (s.qp q).cqLog2) = true) ∧
    (∃ (s : State) (q : QpId) (index : Nat) (u : Trig), ((s.eng (engOfQp q)).trigs.find? (fun x => x.qp = q ∧ x.index
      = index ∧ ¬ x.released) = some u) ∧ ((s.qp q).holdTo = 0 ∨ s.now < u.since + (s.qp q).holdTo * 1000)) :=
  ⟨⟨{ (st [(Reg.PG_READY_READY.place .tier, 1), (Reg.PG_READY_READY.place (.bas 0), 1), (Reg.BAS_MEM_STAT_ONLINE.place (.bas 0), 1), (Reg.BAS_MEM_FRAMES_FRAMES.place (.bas 0), 786432), (Reg.PG_READY_READY.place (.feng 6), 1), (Reg.PG_READY_READY.place (.disp 3), 1), (Reg.PG_READY_READY.place (.disp 0), 1), (Reg.DEV_NODE_NODE.place .dev, 9), (Reg.PORT_STAT_LINK_UP.place (.port 3), 1)]) with tier := { pages := [(5, { st := .resident .basin, frame := 0, frameTier := .basin })], dirs := [(0, { valid := true, used := 1, leaf := 257 })], leaves := [(257, true)], frames := [(67108864, true)] }, mem := Map.store (Map.store [] 327680 (bytesOfNat 64 27521983426056650714064412062524351034458194706491509475744794456812395931289909262946948590076651861180448)) 344064 (bytesOfNat 16 1339673755198158349044581307228491536), qps := [(1541, { remNode := 4, remPart := 1, remQpn := 600, sqBase := 327680, rqBase := 331776, cqBase := 335872, sqLog2 := 4, rqLog2 := 4, cqLog2 := 4, retryLimit := 2, ackTo := 3, rnrUs := 5, rnrLimit := 3, holdTo := 4, st := .rts, sqTail := 1, sqPsn := 9, nextPsn := 9, unaPsn := 9 })] },
     1541,
     27521983426056650714064412062524351034458194706491509475744794456812395931289909262946948590076651861180448, 3,
     by decide +kernel⟩,
   ⟨{ (st [(Reg.PG_READY_READY.place .tier, 1), (Reg.PG_READY_READY.place (.bas 0), 1), (Reg.BAS_MEM_STAT_ONLINE.place (.bas 0), 1), (Reg.BAS_MEM_FRAMES_FRAMES.place (.bas 0), 786432), (Reg.PG_READY_READY.place (.feng 6), 1), (Reg.PG_READY_READY.place (.disp 3), 1), (Reg.PG_READY_READY.place (.disp 0), 1), (Reg.DEV_NODE_NODE.place .dev, 9), (Reg.PORT_STAT_LINK_UP.place (.port 3), 1)]) with tier := { pages := [(5, { st := .resident .basin, frame := 0, frameTier := .basin })], dirs := [(0, { valid := true, used := 1, leaf := 257 })], leaves := [(257, true)], frames := [(67108864, true)] }, mem := Map.store (Map.store [] 327680 (bytesOfNat 64 27521983426056650714064412062524351034458194706491509475744794456812395931289909262946948590076651861180417)) 344064 (bytesOfNat 16 1339673755198158349044581307228491536), qps := [(1541, { remNode := 4, remPart := 1, remQpn := 600, sqBase := 327680, rqBase := 331776, cqBase := 335872, sqLog2 := 4, rqLog2 := 4, cqLog2 := 4, retryLimit := 2, ackTo := 3, rnrUs := 5, rnrLimit := 3, holdTo := 4, st := .rts, sqTail := 1, sqPsn := 9, nextPsn := 9, unaPsn := 9 })] },
     1541,
     27521983426056650714064412062524351034458194706491509475744794456812395931289909262946948590076651861180417, 3,
     by decide +kernel⟩,
   ⟨{ (st [(Reg.PG_READY_READY.place .tier, 1), (Reg.PG_READY_READY.place (.bas 0), 1), (Reg.BAS_MEM_STAT_ONLINE.place (.bas 0), 1), (Reg.BAS_MEM_FRAMES_FRAMES.place (.bas 0), 786432), (Reg.PG_READY_READY.place (.feng 6), 1), (Reg.PG_READY_READY.place (.disp 3), 1), (Reg.PG_READY_READY.place (.disp 0), 1), (Reg.DEV_NODE_NODE.place .dev, 9), (Reg.PORT_STAT_LINK_UP.place (.port 3), 1)]) with tier := { pages := [(5, { st := .resident .basin, frame := 0, frameTier := .basin })], dirs := [(0, { valid := true, used := 1, leaf := 257 })], leaves := [(257, true)], frames := [(67108864, true)] }, mem := Map.store (Map.store [] 327680 (bytesOfNat 64 27521983426056650714064412062524351034458194706491509475744794456812395931289909262946948590076651861180418)) 344064 (bytesOfNat 16 1339673755198158349044581307228491536), qps := [(1541, { remNode := 4, remPart := 1, remQpn := 600, sqBase := 327680, rqBase := 331776, cqBase := 335872, sqLog2 := 4, rqLog2 := 4, cqLog2 := 4, retryLimit := 2, ackTo := 3, rnrUs := 5, rnrLimit := 3, holdTo := 4, st := .rts, sqTail := 1, sqPsn := 9, nextPsn := 9, unaPsn := 9 })] },
     1541,
     27521983426056650714064412062524351034458194706491509475744794456812395931289909262946948590076651861180418, 3,
     by decide +kernel⟩,
   ⟨{ (st [(Reg.PG_READY_READY.place .tier, 1), (Reg.PG_READY_READY.place (.bas 0), 1), (Reg.BAS_MEM_STAT_ONLINE.place (.bas 0), 1), (Reg.BAS_MEM_FRAMES_FRAMES.place (.bas 0), 786432), (Reg.PG_READY_READY.place (.feng 6), 1), (Reg.PG_READY_READY.place (.disp 3), 1), (Reg.PG_READY_READY.place (.disp 0), 1), (Reg.DEV_NODE_NODE.place .dev, 9), (Reg.PORT_STAT_LINK_UP.place (.port 3), 1)]) with tier := { pages := [(5, { st := .resident .basin, frame := 0, frameTier := .basin })], dirs := [(0, { valid := true, used := 1, leaf := 257 })], leaves := [(257, true)], frames := [(67108864, true)] }, mem := Map.store (Map.store [] 327680 (bytesOfNat 64 27521983426056650714064412062524351034458194706491509475744794456812395931289909262946948590076651861180419)) 344064 (bytesOfNat 16 1339673755198158349044581307228491536), qps := [(1541, { remNode := 4, remPart := 1, remQpn := 600, sqBase := 327680, rqBase := 331776, cqBase := 335872, sqLog2 := 4, rqLog2 := 4, cqLog2 := 4, retryLimit := 2, ackTo := 3, rnrUs := 5, rnrLimit := 3, holdTo := 4, st := .rts, sqTail := 1, sqPsn := 9, nextPsn := 9, unaPsn := 9 })] },
     1541,
     27521983426056650714064412062524351034458194706491509475744794456812395931289909262946948590076651861180419, 3,
     by decide +kernel⟩,
   ⟨{ (st [(Reg.PG_READY_READY.place .tier, 1), (Reg.PG_READY_READY.place (.bas 0), 1), (Reg.BAS_MEM_STAT_ONLINE.place (.bas 0), 1), (Reg.BAS_MEM_FRAMES_FRAMES.place (.bas 0), 786432), (Reg.PG_READY_READY.place (.feng 6), 1), (Reg.PG_READY_READY.place (.disp 3), 1), (Reg.PG_READY_READY.place (.disp 0), 1), (Reg.DEV_NODE_NODE.place .dev, 9), (Reg.PORT_STAT_LINK_UP.place (.port 3), 1)]) with tier := { pages := [(5, { st := .resident .basin, frame := 0, frameTier := .basin })], dirs := [(0, { valid := true, used := 1, leaf := 257 })], leaves := [(257, true)], frames := [(67108864, true)] }, mem := Map.store (Map.store [] 327680 (bytesOfNat 64 27521983391880858139329850744204003735745360872848237118038350137659730206134393650456699789709258470195204)) 344064 (bytesOfNat 16 1339673755198158349044581307228491536), qps := [(1541, { remNode := 4, remPart := 1, remQpn := 600, sqBase := 327680, rqBase := 331776, cqBase := 335872, sqLog2 := 4, rqLog2 := 4, cqLog2 := 4, retryLimit := 2, ackTo := 3, rnrUs := 5, rnrLimit := 3, holdTo := 4, st := .rts, sqTail := 1, sqPsn := 9, nextPsn := 9, unaPsn := 9 })] },
     1541,
     27521983391880858139329850744204003735745360872848237118038350137659730206134393650456699789709258470195204, 3,
     by decide +kernel⟩,
   ⟨{ (st [(Reg.PG_READY_READY.place .tier, 1), (Reg.PG_READY_READY.place (.bas 0), 1), (Reg.BAS_MEM_STAT_ONLINE.place (.bas 0), 1), (Reg.BAS_MEM_FRAMES_FRAMES.place (.bas 0), 786432), (Reg.PG_READY_READY.place (.feng 6), 1), (Reg.PG_READY_READY.place (.disp 3), 1), (Reg.PG_READY_READY.place (.disp 0), 1), (Reg.DEV_NODE_NODE.place .dev, 9), (Reg.PORT_STAT_LINK_UP.place (.port 3), 1)]) with tier := { pages := [(5, { st := .resident .basin, frame := 0, frameTier := .basin })], dirs := [(0, { valid := true, used := 1, leaf := 257 })], leaves := [(257, true)], frames := [(67108864, true)] }, mem := Map.store (Map.store [] 327680 (bytesOfNat 64 27521983391880858139329850744204003735745360872848237118038350137659730206134393650456699789709258470195205)) 344064 (bytesOfNat 16 1339673755198158349044581307228491536), qps := [(1541, { remNode := 4, remPart := 1, remQpn := 600, sqBase := 327680, rqBase := 331776, cqBase := 335872, sqLog2 := 4, rqLog2 := 4, cqLog2 := 4, retryLimit := 2, ackTo := 3, rnrUs := 5, rnrLimit := 3, holdTo := 4, st := .rts, sqTail := 1, sqPsn := 9, nextPsn := 9, unaPsn := 9 })] },
     1541,
     27521983391880858139329850744204003735745360872848237118038350137659730206134393650456699789709258470195205, 3,
     by decide +kernel⟩,
   ⟨{ (st [(Reg.PG_READY_READY.place .tier, 1), (Reg.PG_READY_READY.place (.bas 0), 1), (Reg.BAS_MEM_STAT_ONLINE.place (.bas 0), 1), (Reg.BAS_MEM_FRAMES_FRAMES.place (.bas 0), 786432), (Reg.PG_READY_READY.place (.feng 6), 1), (Reg.PG_READY_READY.place (.disp 3), 1), (Reg.PG_READY_READY.place (.disp 0), 1), (Reg.DEV_NODE_NODE.place .dev, 9), (Reg.PORT_STAT_LINK_UP.place (.port 3), 1)]) with tier := { pages := [(5, { st := .resident .basin, frame := 0, frameTier := .basin })], dirs := [(0, { valid := true, used := 1, leaf := 257 })], leaves := [(257, true)], frames := [(67108864, true)] }, mem := Map.store (Map.store [] 327680 (bytesOfNat 64 27521983426056650714064412062524351034458194706491509475744794456812395931289909262946948588950726184862480)) 344064 (bytesOfNat 16 1339673755198158349044581307228491536), qps := [(1541, { remNode := 4, remPart := 1, remQpn := 600, sqBase := 327680, rqBase := 331776, cqBase := 335872, sqLog2 := 4, rqLog2 := 4, cqLog2 := 4, retryLimit := 2, ackTo := 3, rnrUs := 5, rnrLimit := 3, holdTo := 4, st := .rts, sqTail := 1, sqPsn := 9, nextPsn := 9, unaPsn := 9 })], now := 5000 },
     1541,
     27521983426056650714064412062524351034458194706491509475744794456812395931289909262946948588950726184862480, 3,
     by decide +kernel⟩,
   ⟨rig { rigQp with sqTail := 1 }
     27521983426056650714064412062524351034458194706491509475744794456812395931289909262946948588950726184928080,
     1541,
     27521983426056650714064412062524351034458194706491509475744794456812395931289909262946948588950726184928080,
     by decide +kernel⟩,
   ⟨rig { rigQp with sqTail := 1 }
     27521983426056650714064412062524351034458194706491509475744794456812395931289909262946948588950726184927568,
     1541,
     27521983426056650714064412062524351034458194706491509475744794456812395931289909262946948588950726184927568,
     by decide +kernel⟩,
   ⟨{ rig { rigQp with sqTail := 1 } 27521983426056650714064412062524351034458194706491509475744794456812395931289909262946948588950726184927568 with engines := [(6, { trigs := List.replicate 4096 { qp := 1541, index := 9, wr := 0, src := 0, tag := 0, released := false, since := 0 } })] },
     1541,
     27521983426056650714064412062524351034458194706491509475744794456812395931289909262946948588950726184927568,
     by decide +kernel⟩,
   ⟨rig rigQp
     27521983426056650714064412062524351034458194706491509475744794456812395931289909262946948588950726184927568,
     1541, by decide +kernel⟩,
   ⟨{ (st [(Reg.PG_READY_READY.place .tier, 1), (Reg.PG_READY_READY.place (.bas 0), 1), (Reg.BAS_MEM_STAT_ONLINE.place (.bas 0), 1), (Reg.BAS_MEM_FRAMES_FRAMES.place (.bas 0), 786432), (Reg.PG_READY_READY.place (.feng 6), 1), (Reg.PG_READY_READY.place (.disp 3), 1), (Reg.PG_READY_READY.place (.disp 0), 1), (Reg.DEV_NODE_NODE.place .dev, 9), (Reg.PORT_STAT_LINK_UP.place (.port 3), 1)]) with tier := { pages := [(5, { st := .resident .basin, frame := 0, frameTier := .basin })], dirs := [(0, { valid := true, used := 1, leaf := 257 })], leaves := [(257, true)], frames := [(67108864, true)] }, mem := [], qps := [(1541, { remNode := 4, remPart := 1, remQpn := 600, sqBase := 327680, rqBase := 331776, cqBase := 335872, sqLog2 := 4, rqLog2 := 4, cqLog2 := 4, retryLimit := 2, ackTo := 3, rnrUs := 5, rnrLimit := 3, holdTo := 4 })], engines := [(6, { trigs := [{ qp := 1541, index := 2, src := 4, tag := 9, released := false, since := 0 }] }), (7, { trigs := [{ qp := 1541, index := 2, src := 4, tag := 9, released := false, since := 0 }] })] },
     6, 9, by decide +kernel⟩,
   ⟨{ (st [(Reg.PG_READY_READY.place .tier, 1), (Reg.PG_READY_READY.place (.bas 0), 1), (Reg.BAS_MEM_STAT_ONLINE.place (.bas 0), 1), (Reg.BAS_MEM_FRAMES_FRAMES.place (.bas 0), 786432), (Reg.PG_READY_READY.place (.feng 6), 1), (Reg.PG_READY_READY.place (.disp 3), 1), (Reg.PG_READY_READY.place (.disp 0), 1), (Reg.DEV_NODE_NODE.place .dev, 9), (Reg.PORT_STAT_LINK_UP.place (.port 3), 1)]) with tier := { pages := [(5, { st := .resident .basin, frame := 0, frameTier := .basin })], dirs := [(0, { valid := true, used := 1, leaf := 257 })], leaves := [(257, true)], frames := [(67108864, true)] }, mem := Map.store [] 327680 (bytesOfNat 64 27521983426056650714064412062524351034458194706491509475744794456812395931289909262946948588950726185124880), qps := [(1541, { remNode := 4, remPart := 1, remQpn := 600, sqBase := 327680, rqBase := 331776, cqBase := 335872, sqLog2 := 4, rqLog2 := 4, cqLog2 := 4, retryLimit := 2, ackTo := 3, rnrUs := 5, rnrLimit := 3, holdTo := 4, st := .rts, sqTail := 1, sqPsn := 9, nextPsn := 9, unaPsn := 9 })], engines := [(6, { trigs := [{ qp := 1541, index := 0, src := 4, tag := 9, released := false, since := 0 }] })], now := 4000 },
     1541, 0, { qp := 1541, index := 0, src := 4, tag := 9, released := false, since := 0 }, by decide +kernel⟩,
   ⟨{ (st [(Reg.PG_READY_READY.place .tier, 1), (Reg.PG_READY_READY.place (.bas 0), 1), (Reg.BAS_MEM_STAT_ONLINE.place (.bas 0), 1), (Reg.BAS_MEM_FRAMES_FRAMES.place (.bas 0), 786432), (Reg.PG_READY_READY.place (.feng 6), 1), (Reg.PG_READY_READY.place (.disp 3), 1), (Reg.PG_READY_READY.place (.disp 0), 1), (Reg.DEV_NODE_NODE.place .dev, 9), (Reg.PORT_STAT_LINK_UP.place (.port 3), 1)]) with tier := { pages := [(5, { st := .resident .basin, frame := 0, frameTier := .basin })], dirs := [(0, { valid := true, used := 1, leaf := 257 })], leaves := [(257, true)], frames := [(67108864, true)] }, mem := Map.store [] 327680 (bytesOfNat 64 27521983426056650714064412062524351034458194706491509475744794456812395931289909262946948588950726185124880), qps := [(1541, { remNode := 4, remPart := 1, remQpn := 600, sqBase := 327680, rqBase := 331776, cqBase := 335872, sqLog2 := 4, rqLog2 := 4, cqLog2 := 4, retryLimit := 2, ackTo := 3, rnrUs := 5, rnrLimit := 3, holdTo := 4, st := .rts, sqTail := 1, sqPsn := 9, nextPsn := 9, unaPsn := 9 })], engines := [(6, { trigs := [{ qp := 1541, index := 0, src := 4, tag := 9, released := false, since := 0 }] })], now := 3999 },
     1541, 0, { qp := 1541, index := 0, src := 4, tag := 9, released := false, since := 0 }, by decide +kernel⟩⟩

/-- The hypotheses of QueuePairPacketsAreReceived can be met, clause by clause. -/
theorem wit_QueuePairPacketsAreReceived :
    (∃ (s : State) (r : QpReq) (q : QpId) (home : TierName) (page : Nat), q = r.dstQpn ∧ s.inReset (partOfQp q) =
      false ∧ s.fenced (partOfQp q) = false ∧ s.inReset r.part = false ∧ s.fenced r.part = false ∧ (s.qp q).st = .rts
      ∧ (s.qp q).remNode = r.srcNode ∧ (s.qp q).remQpn = r.srcQpn ∧ (s.qp q).epsn = r.psn ∧ r.psn < 2 ^ 24 ∧ (s.qp
      q).rxMap = 0 ∧ s.qpCheck 0x40 r = none ∧ page = pageOf r.offset ∧ r.offset % 65536 + r.payload.length ≤ 65536 ∧
      (s.leaf page).st = .resident home ∧ s.heldOn page = [] ∧ s.mig page = none ∧ (s.qp q).lenErr = [] ∧ (s.qp
      q).reached = [] ∧ (r.prov = false ∨ s.rxCtxOf q = none) ∧ (s.qp q).stale r = false ∧ (s.qp q).unplaced = [] ∧
      (s.qp q).rxWaits = [] ∧ (¬ (r.last = true ∧ r.place = true))) ∧
    (∃ (s : State) (r : QpReq) (q : QpId) (home : TierName) (page : Nat), q = r.dstQpn ∧ s.inReset (partOfQp q) =
      false ∧ s.fenced (partOfQp q) = false ∧ s.inReset r.part = false ∧ s.fenced r.part = false ∧ (s.qp q).st = .rts
      ∧ (s.qp q).remNode = r.srcNode ∧ (s.qp q).remQpn = r.srcQpn ∧ (s.qp q).epsn = r.psn ∧ r.psn < 2 ^ 24 ∧ (s.qp
      q).rxMap = 0 ∧ s.qpCheck 0x40 r = none ∧ page = pageOf r.offset ∧ r.offset % 65536 + r.payload.length ≤ 65536 ∧
      (s.leaf page).st = .resident home ∧ s.heldOn page = [] ∧ s.mig page = none ∧ (s.qp q).lenErr = [] ∧ (s.qp
      q).reached = [] ∧ (r.prov = false ∨ s.rxCtxOf q = none) ∧ (s.qp q).stale r = false ∧ (s.qp q).unplaced = [] ∧
      (s.qp q).rxWaits = [] ∧ r.last = true ∧ r.place = true ∧ r.wrLen ≤ 1024) ∧
    (∃ (s : State) (r : QpReq) (q : QpId) (home : TierName) (page : Nat), q = r.dstQpn ∧ s.inReset (partOfQp q) =
      false ∧ s.fenced (partOfQp q) = false ∧ s.inReset r.part = false ∧ s.fenced r.part = false ∧ (s.qp q).st = .rts
      ∧ (s.qp q).remNode = r.srcNode ∧ (s.qp q).remQpn = r.srcQpn ∧ (s.qp q).epsn = r.psn ∧ r.psn < 2 ^ 24 ∧ (s.qp
      q).rxMap = 0 ∧ s.qpCheck 0x41 r = none ∧ page = pageOf r.offset ∧ r.offset % 65536 + r.payload.length ≤ 65536 ∧
      (s.leaf page).st = .resident home ∧ s.heldOn page = [] ∧ s.mig page = none ∧ (s.qp q).lenErr = [] ∧ (s.qp
      q).reached = [] ∧ (r.prov = false ∨ s.rxCtxOf q = none) ∧ (s.qp q).stale r = false ∧ (s.qp q).unplaced = [] ∧
      (s.qp q).rxWaits = [] ∧ r.last = true ∧ r.payload ≠ []) ∧
    (∃ (s : State) (r : QpReq) (q : QpId), q = r.dstQpn ∧ s.inReset (partOfQp q) = false ∧ s.fenced (partOfQp q) =
      false ∧ s.inReset r.part = false ∧ s.fenced r.part = false ∧ (s.qp q).st = .rts ∧ (s.qp q).remNode = r.srcNode
      ∧ (s.qp q).remQpn = r.srcQpn ∧ (s.qp q).epsn = r.psn ∧ r.psn < 2 ^ 24 ∧ (s.qp q).rxMap = 0 ∧ s.qpCheck 0x41 r =
      none ∧ (s.qp q).lenErr = [] ∧ (s.qp q).reached = [] ∧ (r.prov = false ∨ s.rxCtxOf q = none) ∧ (s.qp q).unplaced
      = [] ∧ (s.qp q).rxWaits = [] ∧ r.last = true ∧ r.payload = []) ∧
    (∃ (s : State) (r : QpReq) (q : QpId), q = r.dstQpn ∧ s.inReset (partOfQp q) = false ∧ s.fenced (partOfQp q) =
      false ∧ s.inReset r.part = false ∧ s.fenced r.part = false ∧ (s.qp q).st = .rts ∧ (s.qp q).remNode = r.srcNode
      ∧ (s.qp q).remQpn = r.srcQpn ∧ (s.qp q).epsn = r.psn ∧ r.psn < 2 ^ 24 ∧ (s.qp q).rxMap = 0 ∧ (s.qp q).lenErr =
      [] ∧ (s.qp q).reached = [] ∧ s.qpCheck 0x42 r = none ∧ s.readable r.offset r.wrLen) ∧
    (∃ (s : State) (r : QpReq) (q : QpId) (home : TierName) (i : Nat) (a : Nat) (c : Nat) (addr : Nat) (page : Nat),
      q = r.dstQpn ∧ s.inReset (partOfQp q) = false ∧ s.fenced (partOfQp q) = false ∧ s.inReset r.part = false ∧
      s.fenced r.part = false ∧ (s.qp q).st = .rts ∧ (s.qp q).remNode = r.srcNode ∧ (s.qp q).remQpn = r.srcQpn ∧
      (s.qp q).epsn = r.psn ∧ r.psn < 2 ^ 24 ∧ (s.qp q).rxMap = 0 ∧ s.qpCheck 0x43 r = none ∧ (s.qp q).lenErr = [] ∧
      (s.qp q).reached = [] ∧ s.tier.answers = [] ∧ s.writable (s.qp q).cqBase (32 * 2 ^ (s.qp q).cqLog2) = true ∧
      (s.qp q).rqOpen = [] ∧ (s.qp q).rqUsed = 0 ∧ (s.qp q).cqFull = false ∧ (s.qp q).cqeWait = [] ∧ (s.qp q).rqLog2
      ≠ 0 ∧ 0 < ringUsed (s.qp q).rqLog2 (s.qp q).rqHead (s.qp q).rqTail ∧ i = (s.qp q).rqHead % 2 ^ ((s.qp q).rqLog2
      + 1) ∧ a = (s.qp q).rqBase + i % 2 ^ (s.qp q).rqLog2 * 16 ∧ r.offset = 0 ∧ r.payload.length = r.wrLen ∧
      s.isPool q = false ∧ s.readable a 16 ∧ addr = s.rdNat a 8 % 2 ^ 47 ∧ r.wrLen ≤ s.rdNat (a + 8) 4 ∧ page =
      pageOf addr ∧ addr % 65536 + r.wrLen ≤ 65536 ∧ (s.leaf page).st = .resident home ∧ s.heldOn page = [] ∧ s.mig
      page = none ∧ (s.qp q).unplaced = [] ∧ (s.qp q).rxWaits = [] ∧ c = (s.qp q).cqBase + (s.qp q).cqTail % 2 ^
      (s.qp q).cqLog2 * 32 ∧ (c + 32 ≤ addr ∨ addr + r.wrLen ≤ c) ∧ i + 1 < 2 ^ ((s.qp q).rqLog2 + 1)) ∧
    (∃ (s : State) (r : QpReq) (q : QpId), q = r.dstQpn ∧ s.inReset (partOfQp q) = false ∧ s.fenced (partOfQp q) =
      false ∧ s.inReset r.part = false ∧ s.fenced r.part = false ∧ (s.qp q).st = .rts ∧ (s.qp q).remNode = r.srcNode
      ∧ (s.qp q).remQpn = r.srcQpn ∧ (s.qp q).epsn = r.psn ∧ r.psn < 2 ^ 24 ∧ (s.qp q).rxMap = 0 ∧ (s.qp q).lenErr =
      [] ∧ (s.qp q).reached = [] ∧ s.qpCheck 0x44 r = none) ∧
    (∃ (s : State) (r : QpReq) (q : QpId), q = r.dstQpn ∧ s.inReset (partOfQp q) = false ∧ s.fenced (partOfQp q) =
      false ∧ s.inReset r.part = false ∧ s.fenced r.part = false ∧ (s.qp q).st = .rts ∧ (s.qp q).remNode = r.srcNode
      ∧ (s.qp q).remQpn = r.srcQpn ∧ (s.qp q).epsn = r.psn ∧ r.psn < 2 ^ 24 ∧ (s.qp q).rxMap = 0 ∧ (s.qp q).lenErr =
      [] ∧ (s.qp q).reached = [] ∧ s.qpCheck 0x45 r = none) ∧
    (∃ (s : State) (r : QpReq) (q : QpId) (c : Nat), q = r.dstQpn ∧ (c = (if s.inReset (partOfQp q) = true then 1
      else if s.fenced (partOfQp q) = true then 2 else if s.inReset r.part = true then 1 else 2)) ∧ (s.inReset
      (partOfQp q) = true ∨ s.fenced (partOfQp q) = true ∨ s.inReset r.part = true ∨ s.fenced r.part = true)) ∧
    (∃ (s : State) (r : QpReq) (q : QpId), q = r.dstQpn ∧ s.inReset (partOfQp q) = false ∧ s.fenced (partOfQp q) =
      false ∧ s.inReset r.part = false ∧ s.fenced r.part = false ∧ ((s.qp q).st = .reset ∨ (s.qp q).st = .init)) ∧
    (∃ (s : State) (r : QpReq) (q : QpId), q = r.dstQpn ∧ s.inReset (partOfQp q) = false ∧ s.fenced (partOfQp q) =
      false ∧ s.inReset r.part = false ∧ s.fenced r.part = false ∧ ((s.qp q).st = .error ∨ (s.qp q).st = .rts ∧
      ((s.qp q).remNode ≠ r.srcNode ∨ (s.qp q).remQpn ≠ r.srcQpn))) ∧
    (∃ (s : State) (r : QpReq) (q : QpId) (c : Nat), q = r.dstQpn ∧ s.inReset (partOfQp q) = false ∧ s.fenced
      (partOfQp q) = false ∧ s.inReset r.part = false ∧ s.fenced r.part = false ∧ (s.qp q).st = .rts ∧ (s.qp
      q).remNode = r.srcNode ∧ (s.qp q).remQpn = r.srcQpn ∧ psnAhead (s.qp q).epsn r.psn < 256 ∧ bit (s.qp q).rxMap
      (psnAhead (s.qp q).epsn r.psn) = false ∧ (∃ o ∈
      [(Instr.qwrite, 0x40), (.qwriteTrig, 0x41), (.qreadReq, 0x42), (.qsend, 0x43), (.qflush, 0x44), (.qcancel, 0x45)],
      s.qpCheck o.2 r = some c)) ∧
    (∃ (s : State) (r : QpReq) (q : QpId), q = r.dstQpn ∧ s.inReset (partOfQp q) = false ∧ s.fenced (partOfQp q) =
      false ∧ s.inReset r.part = false ∧ s.fenced r.part = false ∧ (s.qp q).st = .rts ∧ (s.qp q).remNode = r.srcNode
      ∧ (s.qp q).remQpn = r.srcQpn ∧ 2 ^ 23 ≤ psnAhead (s.qp q).epsn r.psn ∧ (¬ (r.last = true ∧ r.place = true))) ∧
    (∃ (s : State) (r : QpReq) (q : QpId), q = r.dstQpn ∧ s.inReset (partOfQp q) = false ∧ s.fenced (partOfQp q) =
      false ∧ s.inReset r.part = false ∧ s.fenced r.part = false ∧ (s.qp q).st = .rts ∧ (s.qp q).remNode = r.srcNode
      ∧ (s.qp q).remQpn = r.srcQpn ∧ 256 ≤ psnAhead (s.qp q).epsn r.psn ∧ psnAhead (s.qp q).epsn r.psn < 2 ^ 23) :=
  ⟨⟨{ (st [(Reg.PG_READY_READY.place .tier, 1), (Reg.PG_READY_READY.place (.bas 0), 1), (Reg.BAS_MEM_STAT_ONLINE.place (.bas 0), 1), (Reg.BAS_MEM_FRAMES_FRAMES.place (.bas 0), 786432), (Reg.PG_READY_READY.place (.feng 6), 1), (Reg.PG_READY_READY.place (.disp 3), 1), (Reg.PG_READY_READY.place (.disp 0), 1), (Reg.DEV_NODE_NODE.place .dev, 9), (Reg.PORT_STAT_LINK_UP.place (.port 3), 1)]) with tier := { pages := [(5, { st := .resident .basin, frame := 0, frameTier := .basin })], dirs := [(0, { valid := true, used := 1, leaf := 257 })], leaves := [(257, true)], frames := [(67108864, true)] }, mem := [(344063, 7), (344066, 9)], qps := [(1541, { remNode := 4, remPart := 1, remQpn := 600, sqBase := 327680, rqBase := 331776, cqBase := 335872, sqLog2 := 4, rqLog2 := 4, cqLog2 := 4, retryLimit := 2, ackTo := 3, rnrUs := 5, rnrLimit := 3, holdTo := 4, st := .rts, epsn := 9 })], regions := [(0, { valid := true, read := true, write := true, base := 0, lenM1 := 1048575 })] },
     { tc := 0, last := true, place := false, prov := false, replace := false, srcNode := 4, dstQpn := 1541, psn := 9, specEpoch := 0, node := 9, part := 0, offset := 344064, key := 0, gen := 0, fireTag := 6, imm := 3, epoch := 0, srcQpn := 600, wrLen := 8, payload := [1, 2, 3, 4, 5, 6, 7, 8] },
     1541, .basin, 5, by decide +kernel⟩,
   ⟨{ (st [(Reg.PG_READY_READY.place .tier, 1), (Reg.PG_READY_READY.place (.bas 0), 1), (Reg.BAS_MEM_STAT_ONLINE.place (.bas 0), 1), (Reg.BAS_MEM_FRAMES_FRAMES.place (.bas 0), 786432), (Reg.PG_READY_READY.place (.feng 6), 1), (Reg.PG_READY_READY.place (.disp 3), 1), (Reg.PG_READY_READY.place (.disp 0), 1), (Reg.DEV_NODE_NODE.place .dev, 9), (Reg.PORT_STAT_LINK_UP.place (.port 3), 1)]) with tier := { pages := [(5, { st := .resident .basin, frame := 0, frameTier := .basin })], dirs := [(0, { valid := true, used := 1, leaf := 257 })], leaves := [(257, true)], frames := [(67108864, true)] }, mem := [(344063, 7), (344066, 9)], qps := [(1541, { remNode := 4, remPart := 1, remQpn := 600, sqBase := 327680, rqBase := 331776, cqBase := 335872, sqLog2 := 4, rqLog2 := 4, cqLog2 := 4, retryLimit := 2, ackTo := 3, rnrUs := 5, rnrLimit := 3, holdTo := 4, st := .rts, epsn := 9 })], regions := [(0, { valid := true, read := true, write := true, base := 0, lenM1 := 1048575 })] },
     { tc := 0, last := true, place := true, prov := false, replace := false, srcNode := 4, dstQpn := 1541, psn := 9, specEpoch := 0, node := 9, part := 0, offset := 344064, key := 0, gen := 0, fireTag := 6, imm := 3, epoch := 0, srcQpn := 600, wrLen := 8, payload := [1, 2, 3, 4, 5, 6, 7, 8] },
     1541, .basin, 5, by decide +kernel⟩,
   ⟨{ (st [(Reg.PG_READY_READY.place .tier, 1), (Reg.PG_READY_READY.place (.bas 0), 1), (Reg.BAS_MEM_STAT_ONLINE.place (.bas 0), 1), (Reg.BAS_MEM_FRAMES_FRAMES.place (.bas 0), 786432), (Reg.PG_READY_READY.place (.feng 6), 1), (Reg.PG_READY_READY.place (.disp 3), 1), (Reg.PG_READY_READY.place (.disp 0), 1), (Reg.DEV_NODE_NODE.place .dev, 9), (Reg.PORT_STAT_LINK_UP.place (.port 3), 1)]) with tier := { pages := [(5, { st := .resident .basin, frame := 0, frameTier := .basin })], dirs := [(0, { valid := true, used := 1, leaf := 257 })], leaves := [(257, true)], frames := [(67108864, true)] }, mem := [(344063, 7), (344066, 9)], qps := [(1541, { remNode := 4, remPart := 1, remQpn := 600, sqBase := 327680, rqBase := 331776, cqBase := 335872, sqLog2 := 4, rqLog2 := 4, cqLog2 := 4, retryLimit := 2, ackTo := 3, rnrUs := 5, rnrLimit := 3, holdTo := 4, st := .rts, epsn := 9 })], regions := [(0, { valid := true, read := true, write := true, base := 0, lenM1 := 1048575 })] },
     { tc := 0, last := true, place := false, prov := false, replace := false, srcNode := 4, dstQpn := 1541, psn := 9, specEpoch := 0, node := 9, part := 0, offset := 344064, key := 0, gen := 0, fireTag := 6, imm := 3, epoch := 0, srcQpn := 600, wrLen := 8, payload := [1, 2, 3, 4, 5, 6, 7, 8] },
     1541, .basin, 5, by decide +kernel⟩,
   ⟨{ (st [(Reg.PG_READY_READY.place .tier, 1), (Reg.PG_READY_READY.place (.bas 0), 1), (Reg.BAS_MEM_STAT_ONLINE.place (.bas 0), 1), (Reg.BAS_MEM_FRAMES_FRAMES.place (.bas 0), 786432), (Reg.PG_READY_READY.place (.feng 6), 1), (Reg.PG_READY_READY.place (.disp 3), 1), (Reg.PG_READY_READY.place (.disp 0), 1), (Reg.DEV_NODE_NODE.place .dev, 9), (Reg.PORT_STAT_LINK_UP.place (.port 3), 1)]) with tier := { pages := [(5, { st := .resident .basin, frame := 0, frameTier := .basin })], dirs := [(0, { valid := true, used := 1, leaf := 257 })], leaves := [(257, true)], frames := [(67108864, true)] }, mem := [(344063, 7), (344066, 9)], qps := [(1541, { remNode := 4, remPart := 1, remQpn := 600, sqBase := 327680, rqBase := 331776, cqBase := 335872, sqLog2 := 4, rqLog2 := 4, cqLog2 := 4, retryLimit := 2, ackTo := 3, rnrUs := 5, rnrLimit := 3, holdTo := 4, st := .rts, epsn := 9 })], regions := [(0, { valid := true, read := true, write := true, base := 0, lenM1 := 1048575 })] },
     { ({ tc := 0, last := true, place := false, prov := false, replace := false, srcNode := 4, dstQpn := 1541, psn := 9, specEpoch := 0, node := 9, part := 0, offset := 344064, key := 0, gen := 0, fireTag := 6, imm := 3, epoch := 0, srcQpn := 600, wrLen := 8, payload := [1, 2, 3, 4, 5, 6, 7, 8] } : QpReq) with payload := [] },
     1541, by decide +kernel⟩,
   ⟨{ (st [(Reg.PG_READY_READY.place .tier, 1), (Reg.PG_READY_READY.place (.bas 0), 1), (Reg.BAS_MEM_STAT_ONLINE.place (.bas 0), 1), (Reg.BAS_MEM_FRAMES_FRAMES.place (.bas 0), 786432), (Reg.PG_READY_READY.place (.feng 6), 1), (Reg.PG_READY_READY.place (.disp 3), 1), (Reg.PG_READY_READY.place (.disp 0), 1), (Reg.DEV_NODE_NODE.place .dev, 9), (Reg.PORT_STAT_LINK_UP.place (.port 3), 1)]) with tier := { pages := [(5, { st := .resident .basin, frame := 0, frameTier := .basin })], dirs := [(0, { valid := true, used := 1, leaf := 257 })], leaves := [(257, true)], frames := [(67108864, true)] }, mem := [(344063, 7), (344066, 9)], qps := [(1541, { remNode := 4, remPart := 1, remQpn := 600, sqBase := 327680, rqBase := 331776, cqBase := 335872, sqLog2 := 4, rqLog2 := 4, cqLog2 := 4, retryLimit := 2, ackTo := 3, rnrUs := 5, rnrLimit := 3, holdTo := 4, st := .rts, epsn := 9 })], regions := [(0, { valid := true, read := true, write := true, base := 0, lenM1 := 1048575 })] },
     { tc := 0, last := true, place := false, prov := false, replace := false, srcNode := 4, dstQpn := 1541, psn := 9, specEpoch := 0, node := 9, part := 0, offset := 344064, key := 0, gen := 0, fireTag := 6, imm := 3, epoch := 0, srcQpn := 600, wrLen := 8, payload := [] },
     1541, by decide +kernel⟩,
   ⟨{ (st [(Reg.PG_READY_READY.place .tier, 1), (Reg.PG_READY_READY.place (.bas 0), 1), (Reg.BAS_MEM_STAT_ONLINE.place (.bas 0), 1), (Reg.BAS_MEM_FRAMES_FRAMES.place (.bas 0), 786432), (Reg.PG_READY_READY.place (.feng 6), 1), (Reg.PG_READY_READY.place (.disp 3), 1), (Reg.PG_READY_READY.place (.disp 0), 1), (Reg.DEV_NODE_NODE.place .dev, 9), (Reg.PORT_STAT_LINK_UP.place (.port 3), 1)]) with tier := { pages := [(5, { st := .resident .basin, frame := 0, frameTier := .basin })], dirs := [(0, { valid := true, used := 1, leaf := 257 })], leaves := [(257, true)], frames := [(67108864, true)] }, mem := Map.store [] 331776 (bytesOfNat 16 1180591620717411651584), qps := [(1541, { remNode := 4, remPart := 1, remQpn := 600, sqBase := 327680, rqBase := 331776, cqBase := 335872, sqLog2 := 4, rqLog2 := 4, cqLog2 := 4, retryLimit := 2, ackTo := 3, rnrUs := 5, rnrLimit := 3, holdTo := 4, st := .rts, epsn := 9, rqTail := 2 })], regions := [(0, { valid := true, read := true, write := true, base := 0, lenM1 := 1048575 })] },
     { tc := 0, last := true, place := false, prov := false, replace := false, srcNode := 4, dstQpn := 1541, psn := 9, specEpoch := 0, node := 9, part := 0, offset := 0, key := 0, gen := 0, fireTag := 6, imm := 3, epoch := 0, srcQpn := 600, wrLen := 8, payload := [1, 2, 3, 4, 5, 6, 7, 8] },
     1541, .basin, 0, 331776, 335872, 348160, 5, by decide +kernel⟩,
   ⟨{ (st [(Reg.PG_READY_READY.place .tier, 1), (Reg.PG_READY_READY.place (.bas 0), 1), (Reg.BAS_MEM_STAT_ONLINE.place (.bas 0), 1), (Reg.BAS_MEM_FRAMES_FRAMES.place (.bas 0), 786432), (Reg.PG_READY_READY.place (.feng 6), 1), (Reg.PG_READY_READY.place (.disp 3), 1), (Reg.PG_READY_READY.place (.disp 0), 1), (Reg.DEV_NODE_NODE.place .dev, 9), (Reg.PORT_STAT_LINK_UP.place (.port 3), 1)]) with tier := { pages := [(5, { st := .resident .basin, frame := 0, frameTier := .basin })], dirs := [(0, { valid := true, used := 1, leaf := 257 })], leaves := [(257, true)], frames := [(67108864, true)] }, mem := [], qps := [(1541, { remNode := 4, remPart := 1, remQpn := 600, sqBase := 327680, rqBase := 331776, cqBase := 335872, sqLog2 := 4, rqLog2 := 4, cqLog2 := 4, retryLimit := 2, ackTo := 3, rnrUs := 5, rnrLimit := 3, holdTo := 4, st := .rts, epsn := 9 })] },
     { tc := 0, last := true, place := false, prov := false, replace := false, srcNode := 4, dstQpn := 1541, psn := 9, specEpoch := 0, node := 9, part := 0, offset := 344064, key := 0, gen := 0, fireTag := 6, imm := 3, epoch := 0, srcQpn := 600, wrLen := 0, payload := [] },
     1541, by decide +kernel⟩,
   ⟨{ (st [(Reg.PG_READY_READY.place .tier, 1), (Reg.PG_READY_READY.place (.bas 0), 1), (Reg.BAS_MEM_STAT_ONLINE.place (.bas 0), 1), (Reg.BAS_MEM_FRAMES_FRAMES.place (.bas 0), 786432), (Reg.PG_READY_READY.place (.feng 6), 1), (Reg.PG_READY_READY.place (.disp 3), 1), (Reg.PG_READY_READY.place (.disp 0), 1), (Reg.DEV_NODE_NODE.place .dev, 9), (Reg.PORT_STAT_LINK_UP.place (.port 3), 1)]) with tier := { pages := [(5, { st := .resident .basin, frame := 0, frameTier := .basin })], dirs := [(0, { valid := true, used := 1, leaf := 257 })], leaves := [(257, true)], frames := [(67108864, true)] }, mem := [], qps := [(1541, { remNode := 4, remPart := 1, remQpn := 600, sqBase := 327680, rqBase := 331776, cqBase := 335872, sqLog2 := 4, rqLog2 := 4, cqLog2 := 4, retryLimit := 2, ackTo := 3, rnrUs := 5, rnrLimit := 3, holdTo := 4, st := .rts, epsn := 9 })] },
     { tc := 0, last := true, place := false, prov := false, replace := false, srcNode := 4, dstQpn := 1541, psn := 9, specEpoch := 0, node := 9, part := 0, offset := 344064, key := 0, gen := 0, fireTag := 6, imm := 3, epoch := 0, srcQpn := 600, wrLen := 0, payload := [] },
     1541, by decide +kernel⟩,
   ⟨{ (st [(Reg.PG_READY_READY.place .tier, 1), (Reg.PG_READY_READY.place (.bas 0), 1), (Reg.BAS_MEM_STAT_ONLINE.place (.bas 0), 1), (Reg.BAS_MEM_FRAMES_FRAMES.place (.bas 0), 786432), (Reg.PG_READY_READY.place (.feng 6), 1), (Reg.PG_READY_READY.place (.disp 3), 1), (Reg.PG_READY_READY.place (.disp 0), 1), (Reg.DEV_NODE_NODE.place .dev, 9), (Reg.PORT_STAT_LINK_UP.place (.port 3), 1)]) with tier := { pages := [(5, { st := .resident .basin, frame := 0, frameTier := .basin })], dirs := [(0, { valid := true, used := 1, leaf := 257 })], leaves := [(257, true)], frames := [(67108864, true)] }, mem := [], qps := [(1541, { remNode := 4, remPart := 1, remQpn := 600, sqBase := 327680, rqBase := 331776, cqBase := 335872, sqLog2 := 4, rqLog2 := 4, cqLog2 := 4, retryLimit := 2, ackTo := 3, rnrUs := 5, rnrLimit := 3, holdTo := 4, st := .rts, epsn := 9 })] },
     { tc := 0, last := true, place := false, prov := false, replace := false, srcNode := 4, dstQpn := 1541, psn := 9, specEpoch := 0, node := 9, part := 2, offset := 344064, key := 0, gen := 0, fireTag := 6, imm := 3, epoch := 0, srcQpn := 600, wrLen := 8, payload := [1, 2, 3, 4, 5, 6, 7, 8] },
     1541, 1, by decide +kernel⟩,
   ⟨{ (st [(Reg.PG_READY_READY.place .tier, 1), (Reg.PG_READY_READY.place (.bas 0), 1), (Reg.BAS_MEM_STAT_ONLINE.place (.bas 0), 1), (Reg.BAS_MEM_FRAMES_FRAMES.place (.bas 0), 786432), (Reg.PG_READY_READY.place (.feng 6), 1), (Reg.PG_READY_READY.place (.disp 3), 1), (Reg.PG_READY_READY.place (.disp 0), 1), (Reg.DEV_NODE_NODE.place .dev, 9), (Reg.PORT_STAT_LINK_UP.place (.port 3), 1)]) with tier := { pages := [(5, { st := .resident .basin, frame := 0, frameTier := .basin })], dirs := [(0, { valid := true, used := 1, leaf := 257 })], leaves := [(257, true)], frames := [(67108864, true)] }, mem := [], qps := [(1541, { remNode := 4, remPart := 1, remQpn := 600, sqBase := 327680, rqBase := 331776, cqBase := 335872, sqLog2 := 4, rqLog2 := 4, cqLog2 := 4, retryLimit := 2, ackTo := 3, rnrUs := 5, rnrLimit := 3, holdTo := 4 })] },
     { tc := 0, last := true, place := false, prov := false, replace := false, srcNode := 4, dstQpn := 1541, psn := 9, specEpoch := 0, node := 9, part := 0, offset := 344064, key := 0, gen := 0, fireTag := 6, imm := 3, epoch := 0, srcQpn := 600, wrLen := 8, payload := [1, 2, 3, 4, 5, 6, 7, 8] },
     1541, by decide +kernel⟩,
   ⟨{ (st [(Reg.PG_READY_READY.place .tier, 1), (Reg.PG_READY_READY.place (.bas 0), 1), (Reg.BAS_MEM_STAT_ONLINE.place (.bas 0), 1), (Reg.BAS_MEM_FRAMES_FRAMES.place (.bas 0), 786432), (Reg.PG_READY_READY.place (.feng 6), 1), (Reg.PG_READY_READY.place (.disp 3), 1), (Reg.PG_READY_READY.place (.disp 0), 1), (Reg.DEV_NODE_NODE.place .dev, 9), (Reg.PORT_STAT_LINK_UP.place (.port 3), 1)]) with tier := { pages := [(5, { st := .resident .basin, frame := 0, frameTier := .basin })], dirs := [(0, { valid := true, used := 1, leaf := 257 })], leaves := [(257, true)], frames := [(67108864, true)] }, mem := [], qps := [(1541, { remNode := 5, remPart := 1, remQpn := 600, sqBase := 327680, rqBase := 331776, cqBase := 335872, sqLog2 := 4, rqLog2 := 4, cqLog2 := 4, retryLimit := 2, ackTo := 3, rnrUs := 5, rnrLimit := 3, holdTo := 4, st := .rts, epsn := 9 })] },
     { tc := 0, last := true, place := false, prov := false, replace := false, srcNode := 4, dstQpn := 1541, psn := 9, specEpoch := 0, node := 9, part := 0, offset := 344064, key := 0, gen := 0, fireTag := 6, imm := 3, epoch := 0, srcQpn := 600, wrLen := 8, payload := [1, 2, 3, 4, 5, 6, 7, 8] },
     1541, by decide +kernel⟩,
   ⟨{ (st [(Reg.PG_READY_READY.place .tier, 1), (Reg.PG_READY_READY.place (.bas 0), 1), (Reg.BAS_MEM_STAT_ONLINE.place (.bas 0), 1), (Reg.BAS_MEM_FRAMES_FRAMES.place (.bas 0), 786432), (Reg.PG_READY_READY.place (.feng 6), 1), (Reg.PG_READY_READY.place (.disp 3), 1), (Reg.PG_READY_READY.place (.disp 0), 1), (Reg.DEV_NODE_NODE.place .dev, 9), (Reg.PORT_STAT_LINK_UP.place (.port 3), 1)]) with tier := { pages := [(5, { st := .resident .basin, frame := 0, frameTier := .basin })], dirs := [(0, { valid := true, used := 1, leaf := 257 })], leaves := [(257, true)], frames := [(67108864, true)] }, mem := [], qps := [(1541, { remNode := 4, remPart := 1, remQpn := 600, sqBase := 327680, rqBase := 331776, cqBase := 335872, sqLog2 := 4, rqLog2 := 4, cqLog2 := 4, retryLimit := 2, ackTo := 3, rnrUs := 5, rnrLimit := 3, holdTo := 4, st := .rts, epsn := 9 })] },
     { tc := 0, last := true, place := false, prov := false, replace := false, srcNode := 4, dstQpn := 1541, psn := 9, specEpoch := 0, node := 9, part := 0, offset := 344064, key := 0, gen := 0, fireTag := 6, imm := 3, epoch := 0, srcQpn := 600, wrLen := 8, payload := [1, 2, 3, 4, 5, 6, 7, 8] },
     1541, 5, by decide +kernel⟩,
   ⟨{ (st [(Reg.PG_READY_READY.place .tier, 1), (Reg.PG_READY_READY.place (.bas 0), 1), (Reg.BAS_MEM_STAT_ONLINE.place (.bas 0), 1), (Reg.BAS_MEM_FRAMES_FRAMES.place (.bas 0), 786432), (Reg.PG_READY_READY.place (.feng 6), 1), (Reg.PG_READY_READY.place (.disp 3), 1), (Reg.PG_READY_READY.place (.disp 0), 1), (Reg.DEV_NODE_NODE.place .dev, 9), (Reg.PORT_STAT_LINK_UP.place (.port 3), 1)]) with tier := { pages := [(5, { st := .resident .basin, frame := 0, frameTier := .basin })], dirs := [(0, { valid := true, used := 1, leaf := 257 })], leaves := [(257, true)], frames := [(67108864, true)] }, mem := [], qps := [(1541, { remNode := 4, remPart := 1, remQpn := 600, sqBase := 327680, rqBase := 331776, cqBase := 335872, sqLog2 := 4, rqLog2 := 4, cqLog2 := 4, retryLimit := 2, ackTo := 3, rnrUs := 5, rnrLimit := 3, holdTo := 4, st := .rts, epsn := 9 })] },
     { tc := 0, last := true, place := false, prov := false, replace := false, srcNode := 4, dstQpn := 1541, psn := 8, specEpoch := 0, node := 9, part := 0, offset := 344064, key := 0, gen := 0, fireTag := 6, imm := 3, epoch := 0, srcQpn := 600, wrLen := 8, payload := [1, 2, 3, 4, 5, 6, 7, 8] },
     1541, by decide +kernel⟩,
   ⟨{ (st [(Reg.PG_READY_READY.place .tier, 1), (Reg.PG_READY_READY.place (.bas 0), 1), (Reg.BAS_MEM_STAT_ONLINE.place (.bas 0), 1), (Reg.BAS_MEM_FRAMES_FRAMES.place (.bas 0), 786432), (Reg.PG_READY_READY.place (.feng 6), 1), (Reg.PG_READY_READY.place (.disp 3), 1), (Reg.PG_READY_READY.place (.disp 0), 1), (Reg.DEV_NODE_NODE.place .dev, 9), (Reg.PORT_STAT_LINK_UP.place (.port 3), 1)]) with tier := { pages := [(5, { st := .resident .basin, frame := 0, frameTier := .basin })], dirs := [(0, { valid := true, used := 1, leaf := 257 })], leaves := [(257, true)], frames := [(67108864, true)] }, mem := [], qps := [(1541, { remNode := 4, remPart := 1, remQpn := 600, sqBase := 327680, rqBase := 331776, cqBase := 335872, sqLog2 := 4, rqLog2 := 4, cqLog2 := 4, retryLimit := 2, ackTo := 3, rnrUs := 5, rnrLimit := 3, holdTo := 4, st := .rts, epsn := 9 })] },
     { tc := 0, last := true, place := false, prov := false, replace := false, srcNode := 4, dstQpn := 1541, psn := 300, specEpoch := 0, node := 9, part := 0, offset := 344064, key := 0, gen := 0, fireTag := 6, imm := 3, epoch := 0, srcQpn := 600, wrLen := 8, payload := [1, 2, 3, 4, 5, 6, 7, 8] },
     1541, by decide +kernel⟩⟩

/-- The hypotheses of PlacedWorkTakesEffect can be met, clause by clause. -/
theorem wit_PlacedWorkTakesEffect :
    (∃ (s : State) (q : QpId) (psn : Nat) (w : RxWait) (c : Nat), ((s.qp q).waiting 0x41 psn = some w) ∧ (s.qp
      q).placedBelow psn = true ∧ (s.qp q).placedRange psn 1 = true ∧ (s.qp q).cqFull = false ∧ (s.qp q).cqeWait = []
      ∧ s.writable (s.qp q).cqBase (32 * 2 ^ (s.qp q).cqLog2) = true ∧ c = (s.qp q).cqBase + (s.qp q).cqTail % 2 ^
      (s.qp q).cqLog2 * 32 ∧ s.isPool q = false) ∧
    (∃ (s : State) (q : QpId) (psn : Nat) (w : RxWait) (c : Nat), ((s.qp q).waiting 0x41 psn = some w) ∧ (s.qp
      q).placedBelow psn = true ∧ (s.qp q).placedRange psn 1 = true ∧ (s.qp q).cqFull = false ∧ (s.qp q).cqeWait = []
      ∧ s.writable (s.qp q).cqBase (32 * 2 ^ (s.qp q).cqLog2) = true ∧ c = (s.qp q).cqBase + (s.qp q).cqTail % 2 ^
      (s.qp q).cqLog2 * 32 ∧ s.isPool q = true) ∧
    (∃ (s : State) (q : QpId) (psn : Nat) (w : RxWait), ((s.qp q).waiting 0x44 psn = some w) ∧ (s.qp q).placedBelow
      psn = true) ∧
    (∃ (s : State) (q : QpId) (psn : Nat) (w : RxWait), ((s.qp q).waiting 0x45 psn = some w) ∧ (s.qp q).placedBelow
      psn = true ∧ s.rxCtxOf q = none) ∧
    (∃ (s : State) (q : QpId) (psn : Nat) (w : RxWait) (i : Nat) (c : MoveCtx), ((s.qp q).waiting 0x45 psn = some w)
      ∧ (s.qp q).placedBelow psn = true ∧ (s.rxCtxOf q = some (i, c))) ∧
    (∃ (s : State) (q : QpId) (psn : Nat), (s.qp q).placedBelow psn = false) :=
  ⟨⟨{ rig ({ rigQp with epsn := 9, rxWaits := [{ op := 0x41, psn := 8, req := { okQReq with srcNode := 4, dstQpn := 1541, psn := 8, specEpoch := 5, offset := 344064, fireTag := 6, imm := 3, srcQpn := 600, wrLen := 8, payload := [1, 2, 3, 4, 5, 6, 7, 8] }, done := false }] }) with engines := [(6, { trigs := [{ qp := 1541, index := 2, wr := 0, src := 0, tag := 6, released := false, since := 0 }] })] },
     1541, 8,
     { op := 0x41, psn := 8, req := { okQReq with srcNode := 4, dstQpn := 1541, psn := 8, specEpoch := 5, offset := 344064, fireTag := 6, imm := 3, srcQpn := 600, wrLen := 8, payload := [1, 2, 3, 4, 5, 6, 7, 8] }, done := false },
     335872, by decide +kernel⟩,
   ⟨{ rig ({ rigQp with epsn := 9, rxWaits := [{ op := 0x41, psn := 8, req := { okQReq with srcNode := 4, dstQpn := 1541, psn := 8, specEpoch := 5, offset := 344064, fireTag := 6, imm := 3, srcQpn := 600, wrLen := 8, payload := [1, 2, 3, 4, 5, 6, 7, 8] }, done := false }] }) with engines := [(6, { trigs := [{ qp := 1541, index := 2, wr := 0, src := 0, tag := 6, released := false, since := 0 }] })], regs := ((rigBase.setFld (.move 3) Reg.MOVE_QP_CFG_FIRST 5).setFld (.move 3) Reg.MOVE_QP_CFG_COUNT 1).regs },
     1541, 8,
     { op := 0x41, psn := 8, req := { okQReq with srcNode := 4, dstQpn := 1541, psn := 8, specEpoch := 5, offset := 344064, fireTag := 6, imm := 3, srcQpn := 600, wrLen := 8, payload := [1, 2, 3, 4, 5, 6, 7, 8] }, done := false },
     335872, by decide +kernel⟩,
   ⟨rig
     { rigQp with epsn := 9, rxWaits := [{ op := 0x44, psn := 8, req := { okQReq with srcNode := 4, dstQpn := 1541, psn := 8, specEpoch := 5, offset := 344064, fireTag := 6, imm := 3, srcQpn := 600, wrLen := 8, payload := [1, 2, 3, 4, 5, 6, 7, 8] }, done := false }], lateCode := some 11 },
     1541, 8,
     { op := 0x44, psn := 8, req := { okQReq with srcNode := 4, dstQpn := 1541, psn := 8, specEpoch := 5, offset := 344064, fireTag := 6, imm := 3, srcQpn := 600, wrLen := 8, payload := [1, 2, 3, 4, 5, 6, 7, 8] }, done := false },
     by decide +kernel⟩,
   ⟨rig
     { rigQp with epsn := 9, rxWaits := [{ op := 0x45, psn := 8, req := { okQReq with srcNode := 4, dstQpn := 1541, psn := 8, specEpoch := 5, offset := 344064, fireTag := 6, imm := 3, srcQpn := 600, wrLen := 8, payload := [1, 2, 3, 4, 5, 6, 7, 8] }, done := false }] },
     1541, 8,
     { op := 0x45, psn := 8, req := { okQReq with srcNode := 4, dstQpn := 1541, psn := 8, specEpoch := 5, offset := 344064, fireTag := 6, imm := 3, srcQpn := 600, wrLen := 8, payload := [1, 2, 3, 4, 5, 6, 7, 8] }, done := false },
     by decide +kernel⟩,
   ⟨{ rig ({ rigQp with epsn := 9, rxWaits := [{ op := 0x45, psn := 8, req := { okQReq with srcNode := 4, dstQpn := 1541, psn := 8, specEpoch := 5, offset := 344064, fireTag := 6, imm := 3, srcQpn := 600, wrLen := 8, payload := [1, 2, 3, 4, 5, 6, 7, 8] }, done := false }] }) with movers := [(3, { ctxs := [(2, { kind := 1, state := 2, qpFirst := 5, kvLen := 9, layers := 1, pages := 1, stride := 1, localBase := 327680 })] })] },
     1541, 8,
     { op := 0x45, psn := 8, req := { okQReq with srcNode := 4, dstQpn := 1541, psn := 8, specEpoch := 5, offset := 344064, fireTag := 6, imm := 3, srcQpn := 600, wrLen := 8, payload := [1, 2, 3, 4, 5, 6, 7, 8] }, done := false },
     2,
     { kind := 1, state := 2, qpFirst := 5, kvLen := 9, layers := 1, pages := 1, stride := 1, localBase := 327680 },
     by decide +kernel⟩,
   ⟨rig { rigQp with epsn := 9 }, 1541, 12, by decide +kernel⟩⟩

/-- The hypotheses of QueuePairAnswersAndTimers can be met, clause by clause. -/
theorem wit_QueuePairAnswersAndTimers :
    (∃ (s : State) (r : QpResp) (q : QpId) (w : OpenWr), q = r.dstQpn ∧ (s.qp q).st = .rts ∧ (s.qp q).wrs = [w] ∧
      w.done = false ∧ w.packets = 1 ∧ w.psn < 2 ^ 24 ∧ (s.qp q).unaPsn = w.psn ∧ (s.qp q).nextPsn = (w.psn + 1) % 2
      ^ 24 ∧ (s.qp q).sqPsn = (s.qp q).nextPsn ∧ (s.qp q).txMap = 0 ∧ s.tier.answers = [] ∧ (s.qp q).sqHead = w.index
      ∧ s.isPool q = false ∧ (s.qp q).nextWr = (s.qp q).sqTail ∧ wSignal w.wr = false ∧ ((wOp w.wr = 0 ∧ wPlace w.wr
      = false) ∨ wOp w.wr = 2) ∧ r.psn = (w.psn + 1) % 2 ^ 24) ∧
    (∃ (s : State) (r : QpResp) (q : QpId) (w : OpenWr) (page : Nat) (home : TierName), q = r.dstQpn ∧ (s.qp q).st =
      .rts ∧ (s.qp q).wrs = [w] ∧ w.done = false ∧ w.packets = 1 ∧ w.psn < 2 ^ 24 ∧ (s.qp q).unaPsn = w.psn ∧ (s.qp
      q).nextPsn = (w.psn + 1) % 2 ^ 24 ∧ (s.qp q).sqPsn = (s.qp q).nextPsn ∧ (s.qp q).txMap = 0 ∧ s.tier.answers =
      [] ∧ (s.qp q).sqHead = w.index ∧ s.isPool q = false ∧ (s.qp q).nextWr = (s.qp q).sqTail ∧ wSignal w.wr = false
      ∧ wOp w.wr = 1 ∧ r.psn = w.psn ∧ r.payload ≠ [] ∧ page = pageOf (wLocal w.wr) ∧ wLocal w.wr % 65536 +
      r.payload.length ≤ 65536 ∧ (s.leaf page).st = .resident home ∧ s.heldOn page = [] ∧ s.readHeld q w = false) ∧
    (∃ (s : State) (r : QpResp) (q : QpId) (w : OpenWr), q = r.dstQpn ∧ (s.qp q).st = .rts ∧ (s.qp q).wrs = [w] ∧
      w.done = false ∧ w.packets = 1 ∧ w.psn < 2 ^ 24 ∧ (s.qp q).unaPsn = w.psn ∧ (s.qp q).nextPsn = (w.psn + 1) % 2
      ^ 24 ∧ (s.qp q).sqPsn = (s.qp q).nextPsn ∧ (s.qp q).txMap = 0 ∧ s.tier.answers = [] ∧ (s.qp q).sqHead = w.index
      ∧ s.isPool q = false ∧ (s.qp q).nextWr = (s.qp q).sqTail ∧ wSignal w.wr = false ∧ (wOp w.wr = 0 ∧ wPlace w.wr =
      true ∨ wOp w.wr = 3 ∨ wOp w.wr = 5) ∧ w.answered = false ∧ r.psn = w.psn ∧ r.status = 0) ∧
    (∃ (s : State) (r : QpResp) (q : QpId) (w : OpenWr), q = r.dstQpn ∧ (s.qp q).st = .rts ∧ (s.qp q).wrs = [w] ∧
      w.done = false ∧ w.packets = 1 ∧ w.psn < 2 ^ 24 ∧ (s.qp q).unaPsn = w.psn ∧ (s.qp q).nextPsn = (w.psn + 1) % 2
      ^ 24 ∧ (s.qp q).sqPsn = (s.qp q).nextPsn ∧ (s.qp q).txMap = 0 ∧ s.tier.answers = [] ∧ (s.qp q).sqHead = w.index
      ∧ s.isPool q = false ∧ (s.qp q).nextWr = (s.qp q).sqTail ∧ wSignal w.wr = false ∧ wOp w.wr = 4 ∧ w.answered =
      false ∧ r.psn = w.psn ∧ r.status = 0) ∧
    (∃ (s : State) (r : QpResp) (q : QpId) (w : OpenWr), q = r.dstQpn ∧ (s.qp q).st = .rts ∧ (s.qp q).wrs = [w] ∧
      w.done = false ∧ w.packets = 1 ∧ w.psn < 2 ^ 24 ∧ (s.qp q).unaPsn = w.psn ∧ (s.qp q).nextPsn = (w.psn + 1) % 2
      ^ 24 ∧ (s.qp q).sqPsn = (s.qp q).nextPsn ∧ (s.qp q).txMap = 0 ∧ s.tier.answers = [] ∧ (s.qp q).sqHead = w.index
      ∧ s.isPool q = false ∧ s.writable (s.qp q).cqBase (32 * 2 ^ (s.qp q).cqLog2) = true ∧ (wOp w.wr = 0 ∧ wPlace
      w.wr = true ∨ wOp w.wr = 3 ∨ wOp w.wr = 5) ∧ w.answered = false ∧ r.psn = w.psn ∧ r.status ∉
      [0, 0x23, 0x27, 0x28]) ∧
    (∃ (s : State) (r : QpResp) (q : QpId) (w : OpenWr), q = r.dstQpn ∧ (s.qp q).st = .rts ∧ (s.qp q).wrs = [w] ∧
      w.done = false ∧ w.packets = 1 ∧ w.psn < 2 ^ 24 ∧ (s.qp q).unaPsn = w.psn ∧ (s.qp q).nextPsn = (w.psn + 1) % 2
      ^ 24 ∧ (s.qp q).sqPsn = (s.qp q).nextPsn ∧ (s.qp q).txMap = 0 ∧ s.tier.answers = [] ∧ (s.qp q).sqHead = w.index
      ∧ s.isPool q = false ∧ r.psn = w.psn ∧ r.status = 0x20) ∧
    (∃ (s : State) (r : QpResp) (q : QpId) (w : OpenWr), q = r.dstQpn ∧ (s.qp q).st = .rts ∧ (s.qp q).wrs = [w] ∧
      w.done = false ∧ w.packets = 1 ∧ w.psn < 2 ^ 24 ∧ (s.qp q).unaPsn = w.psn ∧ (s.qp q).nextPsn = (w.psn + 1) % 2
      ^ 24 ∧ (s.qp q).sqPsn = (s.qp q).nextPsn ∧ (s.qp q).txMap = 0 ∧ s.tier.answers = [] ∧ (s.qp q).sqHead = w.index
      ∧ s.isPool q = false ∧ s.writable (s.qp q).cqBase (32 * 2 ^ (s.qp q).cqLog2) = true ∧ (s.qp q).nextWr = (s.qp
      q).sqTail ∧ wSignal w.wr = false ∧ wOp w.wr = 2 ∧ r.psn = w.psn ∧ r.status = 0x23) ∧
    (∃ (s : State) (r : QpResp) (q : QpId) (w : OpenWr), q = r.dstQpn ∧ (s.qp q).st = .rts ∧ (s.qp q).wrs = [w] ∧
      w.done = false ∧ w.packets = 1 ∧ w.psn < 2 ^ 24 ∧ (s.qp q).unaPsn = w.psn ∧ (s.qp q).nextPsn = (w.psn + 1) % 2
      ^ 24 ∧ (s.qp q).sqPsn = (s.qp q).nextPsn ∧ (s.qp q).txMap = 0 ∧ s.tier.answers = [] ∧ (s.qp q).sqHead = w.index
      ∧ s.isPool q = false ∧ s.writable (s.qp q).cqBase (32 * 2 ^ (s.qp q).cqLog2) = true ∧ r.psn = w.psn ∧ r.status
      ∉ [0, 0x20, 0x23, 0x27, 0x28]) ∧
    (∃ (s : State) (r : QpResp), (s.qp r.dstQpn).st ≠ .rts) ∧
    (∃ (s : State) (q : QpId), (s.qp q).toAck ≠ 0 ∧ (16 ≤ (s.qp q).toAck ∨ (s.qp q).ackFrom + 1000 ≤ s.now)) ∧
    (∃ (s : State) (q : QpId), ((s.qp q).toAck = 0 ∨ (s.qp q).toAck < 16 ∧ s.now < (s.qp q).ackFrom + 1000)) ∧
    (∃ (s : State) (q : QpId) (w : OpenWr) (plane : Nat), (s.qp q).st = .rts ∧ (s.qp q).wrs = [w] ∧ w.done = false ∧
      w.packets = 1 ∧ w.psn < 2 ^ 24 ∧ (s.qp q).unaPsn = w.psn ∧ (s.qp q).nextPsn = (w.psn + 1) % 2 ^ 24 ∧ (s.qp
      q).sqPsn = (s.qp q).nextPsn ∧ (s.qp q).txMap = 0 ∧ s.tier.answers = [] ∧ (s.qp q).sqHead = w.index ∧ s.isPool q
      = false ∧ (s.qp q).progressAt + 2 ^ (s.qp q).ackTo * 1000 ≤ s.now ∧ (s.qp q).rnrAt = none ∧ w.answered = false
      ∧ (s.qp q).rounds < (s.qp q).retryLimit ∧ (s.qpPlane q = some plane) ∧ (wOp w.wr = 0 ∨ wOp w.wr = 2 ∨ wOp w.wr
      = 3) ∧ wLen w.wr ≠ 0 ∧ s.readable (wLocal w.wr) (min 1024 (wLen w.wr))) ∧
    (∃ (s : State) (q : QpId) (w : OpenWr), (s.qp q).st = .rts ∧ (s.qp q).wrs = [w] ∧ w.done = false ∧ w.packets = 1
      ∧ w.psn < 2 ^ 24 ∧ (s.qp q).unaPsn = w.psn ∧ (s.qp q).nextPsn = (w.psn + 1) % 2 ^ 24 ∧ (s.qp q).sqPsn = (s.qp
      q).nextPsn ∧ (s.qp q).txMap = 0 ∧ s.tier.answers = [] ∧ (s.qp q).sqHead = w.index ∧ s.isPool q = false ∧
      s.writable (s.qp q).cqBase (32 * 2 ^ (s.qp q).cqLog2) = true ∧ (s.qp q).progressAt + 2 ^ (s.qp q).ackTo * 1000
      ≤ s.now ∧ (s.qp q).rnrAt = none ∧ (s.qp q).retryLimit ≤ (s.qp q).rounds) ∧
    (∃ (s : State) (q : QpId), ((s.qp q).st ≠ .rts ∨ s.now < (s.qp q).progressAt + 2 ^ (s.qp q).ackTo * 1000 ∨ (s.qp
      q).rnrAt.isSome = true)) ∧
    (∃ (s : State) (q : QpId) (w : OpenWr) (plane : Nat) (x : Nat), (s.qp q).st = .rts ∧ (s.qp q).wrs = [w] ∧ w.done
      = false ∧ w.rnrHit = true ∧ w.packets = 1 ∧ w.psn < 2 ^ 24 ∧ (s.qp q).unaPsn = w.psn ∧ (s.qp q).nextPsn =
      (w.psn + 1) % 2 ^ 24 ∧ (s.qp q).sqPsn = (s.qp q).nextPsn ∧ (s.qp q).txMap = 0 ∧ s.tier.answers = [] ∧ (s.qp
      q).sqHead = w.index ∧ s.isPool q = false ∧ ((s.qp q).rnrAt = some x) ∧ x + (s.qp q).rnrUs * 1000 ≤ s.now ∧
      ((s.qp q).rnrLimit = 15 ∨ w.rnr < (s.qp q).rnrLimit) ∧ (s.qpPlane q = some plane) ∧ wOp w.wr = 2 ∧ wLen w.wr ≠
      0 ∧ s.readable (wLocal w.wr) (min 1024 (wLen w.wr))) ∧
    (∃ (s : State) (q : QpId) (w : OpenWr) (x : Nat), (s.qp q).st = .rts ∧ (s.qp q).wrs = [w] ∧ w.done = false ∧
      w.rnrHit = true ∧ w.packets = 1 ∧ w.psn < 2 ^ 24 ∧ (s.qp q).unaPsn = w.psn ∧ (s.qp q).nextPsn = (w.psn + 1) % 2
      ^ 24 ∧ (s.qp q).sqPsn = (s.qp q).nextPsn ∧ (s.qp q).txMap = 0 ∧ s.tier.answers = [] ∧ (s.qp q).sqHead = w.index
      ∧ s.isPool q = false ∧ s.writable (s.qp q).cqBase (32 * 2 ^ (s.qp q).cqLog2) = true ∧ ((s.qp q).rnrAt = some x)
      ∧ x + (s.qp q).rnrUs * 1000 ≤ s.now ∧ (s.qp q).rnrLimit ≠ 15 ∧ (s.qp q).rnrLimit ≤ w.rnr) ∧
    (∃ (s : State) (q : QpId), ((s.qp q).rnrAt.all (fun x => s.now < x + (s.qp q).rnrUs * 1000) = true)) :=
  ⟨⟨{ (st [(Reg.PG_READY_READY.place .tier, 1), (Reg.PG_READY_READY.place (.bas 0), 1), (Reg.BAS_MEM_STAT_ONLINE.place (.bas 0), 1), (Reg.BAS_MEM_FRAMES_FRAMES.place (.bas 0), 786432), (Reg.PG_READY_READY.place (.feng 6), 1), (Reg.PG_READY_READY.place (.disp 3), 1), (Reg.PG_READY_READY.place (.disp 0), 1), (Reg.DEV_NODE_NODE.place .dev, 9), (Reg.PORT_STAT_LINK_UP.place (.port 3), 1)]) with tier := { pages := [(5, { st := .resident .basin, frame := 0, frameTier := .basin })], dirs := [(0, { valid := true, used := 1, leaf := 257 })], leaves := [(257, true)], frames := [(67108864, true)] }, mem := [], qps := [(1541, { remNode := 4, remPart := 1, remQpn := 600, sqBase := 327680, rqBase := 331776, cqBase := 335872, sqLog2 := 4, rqLog2 := 4, cqLog2 := 4, retryLimit := 2, ackTo := 3, rnrUs := 5, rnrLimit := 3, holdTo := 4, st := .rts, sqTail := 1, nextWr := 1, unaPsn := 9, nextPsn := 10, sqPsn := 10, wrs := [{ index := 0, wr := 27521983426056650714064412062524351034458194706491509475744794456812395931289909262946948588950726184534016, psn := 9, packets := 1, answered := false, delivered := false, done := false, rnr := 0 }] })] },
     { status := 0, dstNode := 9, dstQpn := 1541, psn := 10, sack := 0, payload := [] }, 1541,
     { index := 0, wr := 27521983426056650714064412062524351034458194706491509475744794456812395931289909262946948588950726184534016, psn := 9, packets := 1, answered := false, delivered := false, done := false, rnr := 0 },
     by decide +kernel⟩,
   ⟨{ (st [(Reg.PG_READY_READY.place .tier, 1), (Reg.PG_READY_READY.place (.bas 0), 1), (Reg.BAS_MEM_STAT_ONLINE.place (.bas 0), 1), (Reg.BAS_MEM_FRAMES_FRAMES.place (.bas 0), 786432), (Reg.PG_READY_READY.place (.feng 6), 1), (Reg.PG_READY_READY.place (.disp 3), 1), (Reg.PG_READY_READY.place (.disp 0), 1), (Reg.DEV_NODE_NODE.place .dev, 9), (Reg.PORT_STAT_LINK_UP.place (.port 3), 1)]) with tier := { pages := [(5, { st := .resident .basin, frame := 0, frameTier := .basin })], dirs := [(0, { valid := true, used := 1, leaf := 257 })], leaves := [(257, true)], frames := [(67108864, true)] }, mem := [], qps := [(1541, { remNode := 4, remPart := 1, remQpn := 600, sqBase := 327680, rqBase := 331776, cqBase := 335872, sqLog2 := 4, rqLog2 := 4, cqLog2 := 4, retryLimit := 2, ackTo := 3, rnrUs := 5, rnrLimit := 3, holdTo := 4, st := .rts, sqTail := 1, nextWr := 1, unaPsn := 9, nextPsn := 10, sqPsn := 10, wrs := [{ index := 0, wr := 27521983426056650714064412062524351034458194706491509475744794456812395931289909262946948588950726184534017, psn := 9, packets := 1, answered := false, delivered := false, done := false, rnr := 0 }] })] },
     { status := 0, dstNode := 9, dstQpn := 1541, psn := 9, sack := 0, payload := [1, 2, 3, 4, 5, 6, 7, 8] }, 1541,
     { index := 0, wr := 27521983426056650714064412062524351034458194706491509475744794456812395931289909262946948588950726184534017, psn := 9, packets := 1, answered := false, delivered := false, done := false, rnr := 0 },
     5, .basin, by decide +kernel⟩,
   ⟨{ (st [(Reg.PG_READY_READY.place .tier, 1), (Reg.PG_READY_READY.place (.bas 0), 1), (Reg.BAS_MEM_STAT_ONLINE.place (.bas 0), 1), (Reg.BAS_MEM_FRAMES_FRAMES.place (.bas 0), 786432), (Reg.PG_READY_READY.place (.feng 6), 1), (Reg.PG_READY_READY.place (.disp 3), 1), (Reg.PG_READY_READY.place (.disp 0), 1), (Reg.DEV_NODE_NODE.place .dev, 9), (Reg.PORT_STAT_LINK_UP.place (.port 3), 1)]) with tier := { pages := [(5, { st := .resident .basin, frame := 0, frameTier := .basin })], dirs := [(0, { valid := true, used := 1, leaf := 257 })], leaves := [(257, true)], frames := [(67108864, true)] }, mem := [], qps := [(1541, { remNode := 4, remPart := 1, remQpn := 600, sqBase := 327680, rqBase := 331776, cqBase := 335872, sqLog2 := 4, rqLog2 := 4, cqLog2 := 4, retryLimit := 2, ackTo := 3, rnrUs := 5, rnrLimit := 3, holdTo := 4, st := .rts, sqTail := 1, nextWr := 1, unaPsn := 9, nextPsn := 10, sqPsn := 10, wrs := [{ index := 0, wr := 27521983426056650714064412062524351034458194706491509475744794456812395931289909262946948588950726184534048, psn := 9, packets := 1, answered := false, delivered := false, done := false, rnr := 0 }] })] },
     { status := 0, dstNode := 9, dstQpn := 1541, psn := 9, sack := 0, payload := [] }, 1541,
     { index := 0, wr := 27521983426056650714064412062524351034458194706491509475744794456812395931289909262946948588950726184534048, psn := 9, packets := 1, answered := false, delivered := false, done := false, rnr := 0 },
     by decide +kernel⟩,
   ⟨{ (st [(Reg.PG_READY_READY.place .tier, 1), (Reg.PG_READY_READY.place (.bas 0), 1), (Reg.BAS_MEM_STAT_ONLINE.place (.bas 0), 1), (Reg.BAS_MEM_FRAMES_FRAMES.place (.bas 0), 786432), (Reg.PG_READY_READY.place (.feng 6), 1), (Reg.PG_READY_READY.place (.disp 3), 1), (Reg.PG_READY_READY.place (.disp 0), 1), (Reg.DEV_NODE_NODE.place .dev, 9), (Reg.PORT_STAT_LINK_UP.place (.port 3), 1)]) with tier := { pages := [(5, { st := .resident .basin, frame := 0, frameTier := .basin })], dirs := [(0, { valid := true, used := 1, leaf := 257 })], leaves := [(257, true)], frames := [(67108864, true)] }, mem := [], qps := [(1541, { remNode := 4, remPart := 1, remQpn := 600, sqBase := 327680, rqBase := 331776, cqBase := 335872, sqLog2 := 4, rqLog2 := 4, cqLog2 := 4, retryLimit := 2, ackTo := 3, rnrUs := 5, rnrLimit := 3, holdTo := 4, st := .rts, sqTail := 1, nextWr := 1, unaPsn := 9, nextPsn := 10, sqPsn := 10, wrs := [{ index := 0, wr := 27521983391880858139329850744204003735745360872848237118038350137659730206134393650456699788583332793548804, psn := 9, packets := 1, answered := false, delivered := false, done := false, rnr := 0 }] })] },
     { status := 0, dstNode := 9, dstQpn := 1541, psn := 9, sack := 0, payload := [] }, 1541,
     { index := 0, wr := 27521983391880858139329850744204003735745360872848237118038350137659730206134393650456699788583332793548804, psn := 9, packets := 1, answered := false, delivered := false, done := false, rnr := 0 },
     by decide +kernel⟩,
   ⟨{ (st [(Reg.PG_READY_READY.place .tier, 1), (Reg.PG_READY_READY.place (.bas 0), 1), (Reg.BAS_MEM_STAT_ONLINE.place (.bas 0), 1), (Reg.BAS_MEM_FRAMES_FRAMES.place (.bas 0), 786432), (Reg.PG_READY_READY.place (.feng 6), 1), (Reg.PG_READY_READY.place (.disp 3), 1), (Reg.PG_READY_READY.place (.disp 0), 1), (Reg.DEV_NODE_NODE.place .dev, 9), (Reg.PORT_STAT_LINK_UP.place (.port 3), 1)]) with tier := { pages := [(5, { st := .resident .basin, frame := 0, frameTier := .basin })], dirs := [(0, { valid := true, used := 1, leaf := 257 })], leaves := [(257, true)], frames := [(67108864, true)] }, mem := [], qps := [(1541, { remNode := 4, remPart := 1, remQpn := 600, sqBase := 327680, rqBase := 331776, cqBase := 335872, sqLog2 := 4, rqLog2 := 4, cqLog2 := 4, retryLimit := 2, ackTo := 3, rnrUs := 5, rnrLimit := 3, holdTo := 4, st := .rts, sqTail := 1, nextWr := 1, unaPsn := 9, nextPsn := 10, sqPsn := 10, wrs := [{ index := 0, wr := 27521983426056650714064412062524351034458194706491509475744794456812395931289909262946948588950726184534048, psn := 9, packets := 1, answered := false, delivered := false, done := false, rnr := 0 }] })] },
     { status := 11, dstNode := 9, dstQpn := 1541, psn := 9, sack := 0, payload := [] }, 1541,
     { index := 0, wr := 27521983426056650714064412062524351034458194706491509475744794456812395931289909262946948588950726184534048, psn := 9, packets := 1, answered := false, delivered := false, done := false, rnr := 0 },
     by decide +kernel⟩,
   ⟨{ (st [(Reg.PG_READY_READY.place .tier, 1), (Reg.PG_READY_READY.place (.bas 0), 1), (Reg.BAS_MEM_STAT_ONLINE.place (.bas 0), 1), (Reg.BAS_MEM_FRAMES_FRAMES.place (.bas 0), 786432), (Reg.PG_READY_READY.place (.feng 6), 1), (Reg.PG_READY_READY.place (.disp 3), 1), (Reg.PG_READY_READY.place (.disp 0), 1), (Reg.DEV_NODE_NODE.place .dev, 9), (Reg.PORT_STAT_LINK_UP.place (.port 3), 1)]) with tier := { pages := [(5, { st := .resident .basin, frame := 0, frameTier := .basin })], dirs := [(0, { valid := true, used := 1, leaf := 257 })], leaves := [(257, true)], frames := [(67108864, true)] }, mem := [], qps := [(1541, { remNode := 4, remPart := 1, remQpn := 600, sqBase := 327680, rqBase := 331776, cqBase := 335872, sqLog2 := 4, rqLog2 := 4, cqLog2 := 4, retryLimit := 2, ackTo := 3, rnrUs := 5, rnrLimit := 3, holdTo := 4, st := .rts, sqTail := 1, nextWr := 1, unaPsn := 9, nextPsn := 10, sqPsn := 10, wrs := [{ index := 0, wr := 27521983426056650714064412062524351034458194706491509475744794456812395931289909262946948588950726184534018, psn := 9, packets := 1, answered := false, delivered := false, done := false, rnr := 0 }] })] },
     { status := 32, dstNode := 9, dstQpn := 1541, psn := 9, sack := 0, payload := [] }, 1541,
     { index := 0, wr := 27521983426056650714064412062524351034458194706491509475744794456812395931289909262946948588950726184534018, psn := 9, packets := 1, answered := false, delivered := false, done := false, rnr := 0 },
     by decide +kernel⟩,
   ⟨{ (st [(Reg.PG_READY_READY.place .tier, 1), (Reg.PG_READY_READY.place (.bas 0), 1), (Reg.BAS_MEM_STAT_ONLINE.place (.bas 0), 1), (Reg.BAS_MEM_FRAMES_FRAMES.place (.bas 0), 786432), (Reg.PG_READY_READY.place (.feng 6), 1), (Reg.PG_READY_READY.place (.disp 3), 1), (Reg.PG_READY_READY.place (.disp 0), 1), (Reg.DEV_NODE_NODE.place .dev, 9), (Reg.PORT_STAT_LINK_UP.place (.port 3), 1)]) with tier := { pages := [(5, { st := .resident .basin, frame := 0, frameTier := .basin })], dirs := [(0, { valid := true, used := 1, leaf := 257 })], leaves := [(257, true)], frames := [(67108864, true)] }, mem := [], qps := [(1541, { remNode := 4, remPart := 1, remQpn := 600, sqBase := 327680, rqBase := 331776, cqBase := 335872, sqLog2 := 4, rqLog2 := 4, cqLog2 := 4, retryLimit := 2, ackTo := 3, rnrUs := 5, rnrLimit := 3, holdTo := 4, st := .rts, sqTail := 1, nextWr := 1, unaPsn := 9, nextPsn := 10, sqPsn := 10, wrs := [{ index := 0, wr := 27521983426056650714064412062524351034458194706491509475744794456812395931289909262946948588950726184534018, psn := 9, packets := 1, answered := false, delivered := false, done := false, rnr := 0 }] })] },
     { status := 35, dstNode := 9, dstQpn := 1541, psn := 9, sack := 0, payload := [] }, 1541,
     { index := 0, wr := 27521983426056650714064412062524351034458194706491509475744794456812395931289909262946948588950726184534018, psn := 9, packets := 1, answered := false, delivered := false, done := false, rnr := 0 },
     by decide +kernel⟩,
   ⟨{ (st [(Reg.PG_READY_READY.place .tier, 1), (Reg.PG_READY_READY.place (.bas 0), 1), (Reg.BAS_MEM_STAT_ONLINE.place (.bas 0), 1), (Reg.BAS_MEM_FRAMES_FRAMES.place (.bas 0), 786432), (Reg.PG_READY_READY.place (.feng 6), 1), (Reg.PG_READY_READY.place (.disp 3), 1), (Reg.PG_READY_READY.place (.disp 0), 1), (Reg.DEV_NODE_NODE.place .dev, 9), (Reg.PORT_STAT_LINK_UP.place (.port 3), 1)]) with tier := { pages := [(5, { st := .resident .basin, frame := 0, frameTier := .basin })], dirs := [(0, { valid := true, used := 1, leaf := 257 })], leaves := [(257, true)], frames := [(67108864, true)] }, mem := [], qps := [(1541, { remNode := 4, remPart := 1, remQpn := 600, sqBase := 327680, rqBase := 331776, cqBase := 335872, sqLog2 := 4, rqLog2 := 4, cqLog2 := 4, retryLimit := 2, ackTo := 3, rnrUs := 5, rnrLimit := 3, holdTo := 4, st := .rts, sqTail := 1, nextWr := 1, unaPsn := 9, nextPsn := 10, sqPsn := 10, wrs := [{ index := 0, wr := 27521983426056650714064412062524351034458194706491509475744794456812395931289909262946948588950726184534016, psn := 9, packets := 1, answered := false, delivered := false, done := false, rnr := 0 }] })] },
     { status := 5, dstNode := 9, dstQpn := 1541, psn := 9, sack := 0, payload := [] }, 1541,
     { index := 0, wr := 27521983426056650714064412062524351034458194706491509475744794456812395931289909262946948588950726184534016, psn := 9, packets := 1, answered := false, delivered := false, done := false, rnr := 0 },
     by decide +kernel⟩,
   ⟨{ (st [(Reg.PG_READY_READY.place .tier, 1), (Reg.PG_READY_READY.place (.bas 0), 1), (Reg.BAS_MEM_STAT_ONLINE.place (.bas 0), 1), (Reg.BAS_MEM_FRAMES_FRAMES.place (.bas 0), 786432), (Reg.PG_READY_READY.place (.feng 6), 1), (Reg.PG_READY_READY.place (.disp 3), 1), (Reg.PG_READY_READY.place (.disp 0), 1), (Reg.DEV_NODE_NODE.place .dev, 9), (Reg.PORT_STAT_LINK_UP.place (.port 3), 1)]) with tier := { pages := [(5, { st := .resident .basin, frame := 0, frameTier := .basin })], dirs := [(0, { valid := true, used := 1, leaf := 257 })], leaves := [(257, true)], frames := [(67108864, true)] }, mem := [], qps := [(1541, { remNode := 4, remPart := 1, remQpn := 600, sqBase := 327680, rqBase := 331776, cqBase := 335872, sqLog2 := 4, rqLog2 := 4, cqLog2 := 4, retryLimit := 2, ackTo := 3, rnrUs := 5, rnrLimit := 3, holdTo := 4 })] },
     { status := 0, dstNode := 9, dstQpn := 1541, psn := 9, sack := 0, payload := [] }, by decide +kernel⟩,
   ⟨{ (st [(Reg.PG_READY_READY.place .tier, 1), (Reg.PG_READY_READY.place (.bas 0), 1), (Reg.BAS_MEM_STAT_ONLINE.place (.bas 0), 1), (Reg.BAS_MEM_FRAMES_FRAMES.place (.bas 0), 786432), (Reg.PG_READY_READY.place (.feng 6), 1), (Reg.PG_READY_READY.place (.disp 3), 1), (Reg.PG_READY_READY.place (.disp 0), 1), (Reg.DEV_NODE_NODE.place .dev, 9), (Reg.PORT_STAT_LINK_UP.place (.port 3), 1)]) with tier := { pages := [(5, { st := .resident .basin, frame := 0, frameTier := .basin })], dirs := [(0, { valid := true, used := 1, leaf := 257 })], leaves := [(257, true)], frames := [(67108864, true)] }, mem := [], qps := [(1541, { remNode := 4, remPart := 1, remQpn := 600, sqBase := 327680, rqBase := 331776, cqBase := 335872, sqLog2 := 4, rqLog2 := 4, cqLog2 := 4, retryLimit := 2, ackTo := 3, rnrUs := 5, rnrLimit := 3, holdTo := 4, st := .rts, epsn := 9, toAck := 2, rxMap := 6 })], now := 1000 },
     1541, by decide +kernel⟩,
   ⟨{ (st [(Reg.PG_READY_READY.place .tier, 1), (Reg.PG_READY_READY.place (.bas 0), 1), (Reg.BAS_MEM_STAT_ONLINE.place (.bas 0), 1), (Reg.BAS_MEM_FRAMES_FRAMES.place (.bas 0), 786432), (Reg.PG_READY_READY.place (.feng 6), 1), (Reg.PG_READY_READY.place (.disp 3), 1), (Reg.PG_READY_READY.place (.disp 0), 1), (Reg.DEV_NODE_NODE.place .dev, 9), (Reg.PORT_STAT_LINK_UP.place (.port 3), 1)]) with tier := { pages := [(5, { st := .resident .basin, frame := 0, frameTier := .basin })], dirs := [(0, { valid := true, used := 1, leaf := 257 })], leaves := [(257, true)], frames := [(67108864, true)] }, mem := [], qps := [(1541, { remNode := 4, remPart := 1, remQpn := 600, sqBase := 327680, rqBase := 331776, cqBase := 335872, sqLog2 := 4, rqLog2 := 4, cqLog2 := 4, retryLimit := 2, ackTo := 3, rnrUs := 5, rnrLimit := 3, holdTo := 4, st := .rts, epsn := 9, toAck := 2 })] },
     1541, by decide +kernel⟩,
   ⟨{ (st [(Reg.PG_READY_READY.place .tier, 1), (Reg.PG_READY_READY.place (.bas 0), 1), (Reg.BAS_MEM_STAT_ONLINE.place (.bas 0), 1), (Reg.BAS_MEM_FRAMES_FRAMES.place (.bas 0), 786432), (Reg.PG_READY_READY.place (.feng 6), 1), (Reg.PG_READY_READY.place (.disp 3), 1), (Reg.PG_READY_READY.place (.disp 0), 1), (Reg.DEV_NODE_NODE.place .dev, 9), (Reg.PORT_STAT_LINK_UP.place (.port 3), 1)]) with tier := { pages := [(5, { st := .resident .basin, frame := 0, frameTier := .basin })], dirs := [(0, { valid := true, used := 1, leaf := 257 })], leaves := [(257, true)], frames := [(67108864, true)] }, mem := [], qps := [(1541, { remNode := 4, remPart := 1, remQpn := 600, sqBase := 327680, rqBase := 331776, cqBase := 335872, sqLog2 := 4, rqLog2 := 4, cqLog2 := 4, retryLimit := 2, ackTo := 3, rnrUs := 5, rnrLimit := 3, holdTo := 4, st := .rts, sqTail := 1, nextWr := 1, unaPsn := 9, nextPsn := 10, sqPsn := 10, wrs := [{ index := 0, wr := 27521983426056650714064412062524351034458194706491509475744794456812395931289909262946948588950726184534016, psn := 9, packets := 1, answered := false, delivered := false, done := false, rnr := 0 }] })], now := 9000 },
     1541,
     { index := 0, wr := 27521983426056650714064412062524351034458194706491509475744794456812395931289909262946948588950726184534016, psn := 9, packets := 1, answered := false, delivered := false, done := false, rnr := 0 },
     3, by decide +kernel⟩,
   ⟨{ (st [(Reg.PG_READY_READY.place .tier, 1), (Reg.PG_READY_READY.place (.bas 0), 1), (Reg.BAS_MEM_STAT_ONLINE.place (.bas 0), 1), (Reg.BAS_MEM_FRAMES_FRAMES.place (.bas 0), 786432), (Reg.PG_READY_READY.place (.feng 6), 1), (Reg.PG_READY_READY.place (.disp 3), 1), (Reg.PG_READY_READY.place (.disp 0), 1), (Reg.DEV_NODE_NODE.place .dev, 9), (Reg.PORT_STAT_LINK_UP.place (.port 3), 1)]) with tier := { pages := [(5, { st := .resident .basin, frame := 0, frameTier := .basin })], dirs := [(0, { valid := true, used := 1, leaf := 257 })], leaves := [(257, true)], frames := [(67108864, true)] }, mem := [], qps := [(1541, { remNode := 4, remPart := 1, remQpn := 600, sqBase := 327680, rqBase := 331776, cqBase := 335872, sqLog2 := 4, rqLog2 := 4, cqLog2 := 4, retryLimit := 2, ackTo := 3, rnrUs := 5, rnrLimit := 3, holdTo := 4, st := .rts, sqTail := 1, nextWr := 1, unaPsn := 9, nextPsn := 10, sqPsn := 10, wrs := [{ index := 0, wr := 27521983426056650714064412062524351034458194706491509475744794456812395931289909262946948588950726184534016, psn := 9, packets := 1, answered := false, delivered := false, done := false, rnr := 0 }], rounds := 2 })], now := 9000 },
     1541,
     { index := 0, wr := 27521983426056650714064412062524351034458194706491509475744794456812395931289909262946948588950726184534016, psn := 9, packets := 1, answered := false, delivered := false, done := false, rnr := 0 },
     by decide +kernel⟩,
   ⟨{ (st [(Reg.PG_READY_READY.place .tier, 1), (Reg.PG_READY_READY.place (.bas 0), 1), (Reg.BAS_MEM_STAT_ONLINE.place (.bas 0), 1), (Reg.BAS_MEM_FRAMES_FRAMES.place (.bas 0), 786432), (Reg.PG_READY_READY.place (.feng 6), 1), (Reg.PG_READY_READY.place (.disp 3), 1), (Reg.PG_READY_READY.place (.disp 0), 1), (Reg.DEV_NODE_NODE.place .dev, 9), (Reg.PORT_STAT_LINK_UP.place (.port 3), 1)]) with tier := { pages := [(5, { st := .resident .basin, frame := 0, frameTier := .basin })], dirs := [(0, { valid := true, used := 1, leaf := 257 })], leaves := [(257, true)], frames := [(67108864, true)] }, mem := [], qps := [(1541, { remNode := 4, remPart := 1, remQpn := 600, sqBase := 327680, rqBase := 331776, cqBase := 335872, sqLog2 := 4, rqLog2 := 4, cqLog2 := 4, retryLimit := 2, ackTo := 3, rnrUs := 5, rnrLimit := 3, holdTo := 4, st := .rts, sqTail := 1, nextWr := 1, unaPsn := 9, nextPsn := 10, sqPsn := 10, wrs := [{ index := 0, wr := 27521983426056650714064412062524351034458194706491509475744794456812395931289909262946948588950726184534016, psn := 9, packets := 1, answered := false, delivered := false, done := false, rnr := 0 }] })], now := 7999 },
     1541, by decide +kernel⟩,
   ⟨{ (st [(Reg.PG_READY_READY.place .tier, 1), (Reg.PG_READY_READY.place (.bas 0), 1), (Reg.BAS_MEM_STAT_ONLINE.place (.bas 0), 1), (Reg.BAS_MEM_FRAMES_FRAMES.place (.bas 0), 786432), (Reg.PG_READY_READY.place (.feng 6), 1), (Reg.PG_READY_READY.place (.disp 3), 1), (Reg.PG_READY_READY.place (.disp 0), 1), (Reg.DEV_NODE_NODE.place .dev, 9), (Reg.PORT_STAT_LINK_UP.place (.port 3), 1)]) with tier := { pages := [(5, { st := .resident .basin, frame := 0, frameTier := .basin })], dirs := [(0, { valid := true, used := 1, leaf := 257 })], leaves := [(257, true)], frames := [(67108864, true)] }, mem := [], qps := [(1541, { remNode := 4, remPart := 1, remQpn := 600, sqBase := 327680, rqBase := 331776, cqBase := 335872, sqLog2 := 4, rqLog2 := 4, cqLog2 := 4, retryLimit := 2, ackTo := 3, rnrUs := 5, rnrLimit := 3, holdTo := 4, st := .rts, sqTail := 1, nextWr := 1, unaPsn := 9, nextPsn := 10, sqPsn := 10, wrs := [{ index := 0, wr := 27521983426056650714064412062524351034458194706491509475744794456812395931289909262946948588950726184534018, psn := 9, packets := 1, answered := false, delivered := false, done := false, rnr := 0, rnrHit := true }], rnrAt := some 100 })], now := 9000 },
     1541,
     { index := 0, wr := 27521983426056650714064412062524351034458194706491509475744794456812395931289909262946948588950726184534018, psn := 9, packets := 1, answered := false, delivered := false, done := false, rnr := 0, rnrHit := true },
     3, 100, by decide +kernel⟩,
   ⟨{ (st [(Reg.PG_READY_READY.place .tier, 1), (Reg.PG_READY_READY.place (.bas 0), 1), (Reg.BAS_MEM_STAT_ONLINE.place (.bas 0), 1), (Reg.BAS_MEM_FRAMES_FRAMES.place (.bas 0), 786432), (Reg.PG_READY_READY.place (.feng 6), 1), (Reg.PG_READY_READY.place (.disp 3), 1), (Reg.PG_READY_READY.place (.disp 0), 1), (Reg.DEV_NODE_NODE.place .dev, 9), (Reg.PORT_STAT_LINK_UP.place (.port 3), 1)]) with tier := { pages := [(5, { st := .resident .basin, frame := 0, frameTier := .basin })], dirs := [(0, { valid := true, used := 1, leaf := 257 })], leaves := [(257, true)], frames := [(67108864, true)] }, mem := [], qps := [(1541, { remNode := 4, remPart := 1, remQpn := 600, sqBase := 327680, rqBase := 331776, cqBase := 335872, sqLog2 := 4, rqLog2 := 4, cqLog2 := 4, retryLimit := 2, ackTo := 3, rnrUs := 5, rnrLimit := 3, holdTo := 4, st := .rts, sqTail := 1, nextWr := 1, unaPsn := 9, nextPsn := 10, sqPsn := 10, wrs := [{ index := 0, wr := 27521983426056650714064412062524351034458194706491509475744794456812395931289909262946948588950726184534018, psn := 9, packets := 1, answered := false, delivered := false, done := false, rnr := 3, rnrHit := true }], rnrAt := some 100 })], now := 9000 },
     1541,
     { index := 0, wr := 27521983426056650714064412062524351034458194706491509475744794456812395931289909262946948588950726184534018, psn := 9, packets := 1, answered := false, delivered := false, done := false, rnr := 3, rnrHit := true },
     100, by decide +kernel⟩,
   ⟨{ (st [(Reg.PG_READY_READY.place .tier, 1), (Reg.PG_READY_READY.place (.bas 0), 1), (Reg.BAS_MEM_STAT_ONLINE.place (.bas 0), 1), (Reg.BAS_MEM_FRAMES_FRAMES.place (.bas 0), 786432), (Reg.PG_READY_READY.place (.feng 6), 1), (Reg.PG_READY_READY.place (.disp 3), 1), (Reg.PG_READY_READY.place (.disp 0), 1), (Reg.DEV_NODE_NODE.place .dev, 9), (Reg.PORT_STAT_LINK_UP.place (.port 3), 1)]) with tier := { pages := [(5, { st := .resident .basin, frame := 0, frameTier := .basin })], dirs := [(0, { valid := true, used := 1, leaf := 257 })], leaves := [(257, true)], frames := [(67108864, true)] }, mem := [], qps := [(1541, { remNode := 4, remPart := 1, remQpn := 600, sqBase := 327680, rqBase := 331776, cqBase := 335872, sqLog2 := 4, rqLog2 := 4, cqLog2 := 4, retryLimit := 2, ackTo := 3, rnrUs := 5, rnrLimit := 3, holdTo := 4, st := .rts, epsn := 9, rnrAt := some 100 })] },
     1541, by decide +kernel⟩⟩

/-- The hypotheses of RegionCommandsRun can be met, clause by clause. -/
theorem wit_RegionCommandsRun :
    (∃ (s : State) (p : PartId) (i : Fin 4096), s.ready (.feng (engOf p 0)) = true ∧ s.fld (.feng (engOf p 0))
      Reg.RGN_CMD_BUSY = 0) ∧
    (∃ (s : State) (p : PartId) (i : Fin 4096), s.ready (.feng (engOf p 0)) = true ∧ s.fld (.feng (engOf p 0))
      Reg.RGN_CMD_BUSY = 0) ∧
    (∃ (s : State) (p : PartId) (i : Fin 4096), s.ready (.feng (engOf p 0)) = true ∧ s.fld (.feng (engOf p 0))
      Reg.RGN_CMD_BUSY = 0 ∧ (s.rgn p i.val).valid = true ∧ (s.rgn p i.val).window = true) ∧
    (∃ (s : State) (p : PartId) (i : Fin 4096), s.ready (.feng (engOf p 0)) = true ∧ s.fld (.feng (engOf p 0))
      Reg.RGN_CMD_BUSY = 0 ∧ ((s.rgn p i.val).valid = false ∨ (s.rgn p i.val).window = false)) ∧
    (∃ (s : State) (p : PartId) (i : Fin 4096), s.ready (.feng (engOf p 0)) = true ∧ s.fld (.feng (engOf p 0))
      Reg.RGN_CMD_BUSY ≠ 0) ∧
    (∃ (s : State) (p : PartId) (c : RgnCmd), ((s.eng (engOf p 0)).rgn = some c) ∧ (c.op ≠ 2 ∨ c.start + 2000 ≤
      s.now)) ∧
    (∃ (s : State) (p : PartId), ((s.eng (engOf p 0)).rgn.all (fun c => c.op = 2 ∧ s.now < c.start + 2000) = true)) :=
  ⟨⟨{ (((st [(Reg.PG_READY_READY.place .tier, 1), (Reg.PG_READY_READY.place (.bas 0), 1), (Reg.BAS_MEM_STAT_ONLINE.place (.bas 0), 1), (Reg.BAS_MEM_FRAMES_FRAMES.place (.bas 0), 786432), (Reg.PG_READY_READY.place (.feng 6), 1), (Reg.PG_READY_READY.place (.disp 3), 1), (Reg.PG_READY_READY.place (.disp 0), 1), (Reg.DEV_NODE_NODE.place .dev, 9), (Reg.PORT_STAT_LINK_UP.place (.port 3), 1)]).setWords ((Page.feng 6).base + 0x160) 8 0x00000100000200000000000000000fffff0000000000040000000012300010031)) with now := 5 },
     3, 9, by decide +kernel⟩,
   ⟨{ (((st [(Reg.PG_READY_READY.place .tier, 1), (Reg.PG_READY_READY.place (.bas 0), 1), (Reg.BAS_MEM_STAT_ONLINE.place (.bas 0), 1), (Reg.BAS_MEM_FRAMES_FRAMES.place (.bas 0), 786432), (Reg.PG_READY_READY.place (.feng 6), 1), (Reg.PG_READY_READY.place (.disp 3), 1), (Reg.PG_READY_READY.place (.disp 0), 1), (Reg.DEV_NODE_NODE.place .dev, 9), (Reg.PORT_STAT_LINK_UP.place (.port 3), 1)]).setWords ((Page.feng 6).base + 0x160) 8 0x00000100000200000000000000000fffff0000000000040000000012300010031)) with now := 5, regions := [(12297, { valid := true, window := true, gen := 4, base := 65536 })] },
     3, 9, by decide +kernel⟩,
   ⟨{ (((st [(Reg.PG_READY_READY.place .tier, 1), (Reg.PG_READY_READY.place (.bas 0), 1), (Reg.BAS_MEM_STAT_ONLINE.place (.bas 0), 1), (Reg.BAS_MEM_FRAMES_FRAMES.place (.bas 0), 786432), (Reg.PG_READY_READY.place (.feng 6), 1), (Reg.PG_READY_READY.place (.disp 3), 1), (Reg.PG_READY_READY.place (.disp 0), 1), (Reg.DEV_NODE_NODE.place .dev, 9), (Reg.PORT_STAT_LINK_UP.place (.port 3), 1)]).setWords ((Page.feng 6).base + 0x160) 8 0x00000100000200000000000000000fffff0000000000040000000012300010031)) with now := 5, regions := [(12297, { valid := true, window := true, gen := 65535, base := 65536 })] },
     3, 9, by decide +kernel⟩,
   ⟨{ (((st [(Reg.PG_READY_READY.place .tier, 1), (Reg.PG_READY_READY.place (.bas 0), 1), (Reg.BAS_MEM_STAT_ONLINE.place (.bas 0), 1), (Reg.BAS_MEM_FRAMES_FRAMES.place (.bas 0), 786432), (Reg.PG_READY_READY.place (.feng 6), 1), (Reg.PG_READY_READY.place (.disp 3), 1), (Reg.PG_READY_READY.place (.disp 0), 1), (Reg.DEV_NODE_NODE.place .dev, 9), (Reg.PORT_STAT_LINK_UP.place (.port 3), 1)]).setWords ((Page.feng 6).base + 0x160) 8 0x00000100000200000000000000000fffff0000000000040000000012300010031)) with now := 5, regions := [(12297, { valid := true, gen := 65535, base := 65536 })] },
     3, 9, by decide +kernel⟩,
   ⟨st [(Reg.PG_READY_READY.place .tier, 1), (Reg.PG_READY_READY.place (.bas 0), 1), (Reg.BAS_MEM_STAT_ONLINE.place (.bas 0), 1), (Reg.BAS_MEM_FRAMES_FRAMES.place (.bas 0), 786432), (Reg.PG_READY_READY.place (.feng 6), 1), (Reg.PG_READY_READY.place (.disp 3), 1), (Reg.PG_READY_READY.place (.disp 0), 1), (Reg.DEV_NODE_NODE.place .dev, 9), (Reg.PORT_STAT_LINK_UP.place (.port 3), 1), (Reg.RGN_CMD_BUSY.place (.feng 6), 1)],
     3, 9, by decide +kernel⟩,
   ⟨{ (st [(Reg.PG_READY_READY.place .tier, 1), (Reg.PG_READY_READY.place (.bas 0), 1), (Reg.BAS_MEM_STAT_ONLINE.place (.bas 0), 1), (Reg.BAS_MEM_FRAMES_FRAMES.place (.bas 0), 786432), (Reg.PG_READY_READY.place (.feng 6), 1), (Reg.PG_READY_READY.place (.disp 3), 1), (Reg.PG_READY_READY.place (.disp 0), 1), (Reg.DEV_NODE_NODE.place .dev, 9), (Reg.PORT_STAT_LINK_UP.place (.port 3), 1), (Reg.RGN_CMD_BUSY.place (.feng 6), 1)]) with now := 2005, engines := [(6, { rgn := some { op := 2, index := 9, start := 5 } })] },
     3, { op := 2, index := 9, start := 5 }, by decide +kernel⟩,
   ⟨{ (st [(Reg.PG_READY_READY.place .tier, 1), (Reg.PG_READY_READY.place (.bas 0), 1), (Reg.BAS_MEM_STAT_ONLINE.place (.bas 0), 1), (Reg.BAS_MEM_FRAMES_FRAMES.place (.bas 0), 786432), (Reg.PG_READY_READY.place (.feng 6), 1), (Reg.PG_READY_READY.place (.disp 3), 1), (Reg.PG_READY_READY.place (.disp 0), 1), (Reg.DEV_NODE_NODE.place .dev, 9), (Reg.PORT_STAT_LINK_UP.place (.port 3), 1)]) with now := 2004, engines := [(6, { rgn := some { op := 2, index := 9, start := 5 } })] },
     3, by decide +kernel⟩⟩

/-- The hypotheses of MoverMessagesOpen can be met, clause by clause. -/
theorem wit_MoverMessagesOpen :
    (∃ (s : State) (p : PartId) (m : MoverMsg) (i : Nat), s.fenced p = false ∧ s.ready (.move p) = true ∧ ((s.mover
      p).ctxs.find? (fun e => e.2.reqId == m.reqId && e.2.kind == 1 && decide (4 ≤ e.2.state) && !e.2.bound) = none)
      ∧ (s.freeCtx p = some i)) ∧
    (∃ (s : State) (p : PartId) (m : MoverMsg), s.fenced p = false ∧ s.ready (.move p) = true ∧ ((s.mover
      p).ctxs.find? (fun e => e.2.reqId == m.reqId && e.2.kind == 1 && decide (4 ≤ e.2.state) && !e.2.bound) = none)
      ∧ s.freeCtx p = none) ∧
    (∃ (s : State) (p : PartId) (m : MoverMsg), s.fenced p = false ∧ s.ready (.move p) = true ∧ m.ttlMs = 0) ∧
    (∃ (s : State) (p : PartId) (m : MoverMsg), s.fenced p = false ∧ s.ready (.move p) = true ∧ m.ttlMs ≠ 0 ∧
      s.freeEntry p = none) ∧
    (∃ (s : State) (p : PartId) (m : MoverMsg) (i : Nat) (a : Nat) (k : Nat) (n : Nat) (rgn : Nat), s.fenced p =
      false ∧ s.ready (.move p) = true ∧ ((s.mover p).ctxs.find? (fun e => e.2.reqId == m.reqId && e.2.kind == 3
      && decide (4 ≤ e.2.state) && !e.2.bound) = none) ∧ m.ttlMs ≠ 0 ∧ m.ttlMs ≤ s.fld .srch Reg.CACHE_CFG_TTL_MAX_S
      p.val * 1000 ∧ (s.freeEntry p = some i) ∧ rgn = s.fld .srch Reg.CACHE_CFG_PARK_RGN p.val ∧ n = m.layers *
      m.pages + (m.layers * m.pages * m.sideBytes + 65535) / 65536 ∧ (s.rangeIn p rgn n = some a) ∧ (s.freeCtx p =
      some k) ∧ a < 2 ^ 31 ∧ s.writable (s.entryAddr p i) 64 = true ∧ m.layers < 512 ∧ m.pages < 32768) ∧
    (∃ (s : State) (p : PartId) (m : MoverMsg) (c : MoveCtx) (q : QpId), s.fenced p = false ∧ s.ready (.move p) =
      true ∧ s.ctx p m.ctx.val = c ∧ c.kind = 0 ∧ c.state = 1 ∧ c.bound = true ∧ c.reqId = m.reqId ∧ m.status = 0 ∧
      c.layers = 1 ∧ c.stripesM1 = 0 ∧ c.pages ≠ 0 ∧ c.pages < 16384 ∧ (s.mover p).posts = [] ∧ s.writable (s.qp
      q).sqBase (64 * 2 ^ (s.qp q).sqLog2) = true ∧ q.val = 512 * p.val + c.qpFirst ∧ 4 ≤ (s.qp q).sqLog2 ∧ ringUsed
      (s.qp q).sqLog2 (s.qp q).sqHead (s.qp q).sqTail + 2 ≤ 2 ^ (s.qp q).sqLog2 ∧ (s.qp q).sqTail < 2 ^ ((s.qp
      q).sqLog2 + 1)) ∧
    (∃ (s : State) (p : PartId) (m : MoverMsg) (c : MoveCtx) (k : Nat), s.fenced p = false ∧ s.ready (.move p) = true
      ∧ s.ctx p m.ctx.val = c ∧ c.kind = 2 ∧ c.state = 1 ∧ c.bound = true ∧ c.reqId = m.reqId ∧ m.status = 0 ∧ (∀ e ∈
      (s.mover p).ctxs, e.2.kind = 4 → e.1 ≠ m.ctx.val) ∧ ((s.setCtx p m.ctx.val
      { c with remoteBase := m.base, remoteKey := m.key, asked := true }).keySlot m.key = some k)) ∧
    (∃ (s : State) (p : PartId) (m : MoverMsg) (c : MoveCtx), s.fenced p = false ∧ s.ready (.move p) = true ∧ s.ctx p
      m.ctx.val = c ∧ (c.state ≠ 1 ∨ c.reqId ≠ m.reqId ∨ c.bound = false)) ∧
    (∃ (s : State) (p : PartId) (m : MoverMsg), (s.fenced p = true ∨ s.ready (.move p) = false)) :=
  ⟨⟨{ (st [(Reg.PG_READY_READY.place .tier, 1), (Reg.PG_READY_READY.place (.bas 0), 1), (Reg.BAS_MEM_STAT_ONLINE.place (.bas 0), 1), (Reg.BAS_MEM_FRAMES_FRAMES.place (.bas 0), 786432), (Reg.PG_READY_READY.place (.move 3), 1), (Reg.PG_READY_READY.place .srch, 1), (Reg.DEV_NODE_NODE.place .dev, 9), (Reg.MOVE_QP_CFG_FIRST.place (.move 3), 5), (Reg.MOVE_QP_CFG_COUNT.place (.move 3), 4)]) with qps := [(1541, { st := .rts, remNode := 4, remPart := 1, remQpn := 600, sqBase := 327680, rqBase := 331776, cqBase := 335872, sqLog2 := 4, rqLog2 := 4, cqLog2 := 4 }), (1542, { st := .rts, remNode := 4, remPart := 1, remQpn := 601, sqBase := 327680, rqBase := 331776, cqBase := 335872, sqLog2 := 4, rqLog2 := 4, cqLog2 := 4 })], tier := { pages := [(5, { st := .resident .basin, frame := 0, frameTier := .basin })], dirs := [(0, { valid := true, used := 1, leaf := 257 })], leaves := [(257, true)], frames := [(67108864, true)] } },
     3,
     { fromNode := 4, fromPart := 1, ctrlQp := 0, copy := false, resume := false, status := 0, ctx := 2, reqId := 55, layers := 1, pages := 1, stride := 1, base := 327680, base2 := 655360, key := 0, sideBytes := 0, ttlMs := 1000, kvLen := 9, stage := 0 },
     0, by decide +kernel⟩,
   ⟨{ (st [(Reg.PG_READY_READY.place .tier, 1), (Reg.PG_READY_READY.place (.bas 0), 1), (Reg.BAS_MEM_STAT_ONLINE.place (.bas 0), 1), (Reg.BAS_MEM_FRAMES_FRAMES.place (.bas 0), 786432), (Reg.PG_READY_READY.place (.move 3), 1), (Reg.PG_READY_READY.place .srch, 1), (Reg.DEV_NODE_NODE.place .dev, 9), (Reg.MOVE_QP_CFG_FIRST.place (.move 3), 5), (Reg.MOVE_QP_CFG_COUNT.place (.move 3), 4)]) with qps := [(1541, { st := .rts, remNode := 4, remPart := 1, remQpn := 600, sqBase := 327680, rqBase := 331776, cqBase := 335872, sqLog2 := 4, rqLog2 := 4, cqLog2 := 4 }), (1542, { st := .rts, remNode := 4, remPart := 1, remQpn := 601, sqBase := 327680, rqBase := 331776, cqBase := 335872, sqLog2 := 4, rqLog2 := 4, cqLog2 := 4 })], tier := { pages := [(5, { st := .resident .basin, frame := 0, frameTier := .basin })], dirs := [(0, { valid := true, used := 1, leaf := 257 })], leaves := [(257, true)], frames := [(67108864, true)] }, movers := [(3, { ctxs := (List.range 256).map fun i => (i, { state := 3 }) })] },
     3,
     { fromNode := 4, fromPart := 1, ctrlQp := 0, copy := false, resume := false, status := 0, ctx := 2, reqId := 55, layers := 1, pages := 1, stride := 1, base := 327680, base2 := 655360, key := 0, sideBytes := 0, ttlMs := 1000, kvLen := 9, stage := 0 },
     by decide +kernel⟩,
   ⟨{ (st [(Reg.PG_READY_READY.place .tier, 1), (Reg.PG_READY_READY.place (.bas 0), 1), (Reg.BAS_MEM_STAT_ONLINE.place (.bas 0), 1), (Reg.BAS_MEM_FRAMES_FRAMES.place (.bas 0), 786432), (Reg.PG_READY_READY.place (.move 3), 1), (Reg.PG_READY_READY.place .srch, 1), (Reg.DEV_NODE_NODE.place .dev, 9), (Reg.MOVE_QP_CFG_FIRST.place (.move 3), 5), (Reg.MOVE_QP_CFG_COUNT.place (.move 3), 4)]) with qps := [(1541, { st := .rts, remNode := 4, remPart := 1, remQpn := 600, sqBase := 327680, rqBase := 331776, cqBase := 335872, sqLog2 := 4, rqLog2 := 4, cqLog2 := 4 }), (1542, { st := .rts, remNode := 4, remPart := 1, remQpn := 601, sqBase := 327680, rqBase := 331776, cqBase := 335872, sqLog2 := 4, rqLog2 := 4, cqLog2 := 4 })], tier := { pages := [(5, { st := .resident .basin, frame := 0, frameTier := .basin })], dirs := [(0, { valid := true, used := 1, leaf := 257 })], leaves := [(257, true)], frames := [(67108864, true)] } },
     3,
     { fromNode := 4, fromPart := 1, ctrlQp := 0, copy := false, resume := false, status := 0, ctx := 2, reqId := 55, layers := 1, pages := 1, stride := 1, base := 327680, base2 := 655360, key := 0, sideBytes := 0, ttlMs := 0, kvLen := 9, stage := 0 },
     by decide +kernel⟩,
   ⟨{ (st [(Reg.PG_READY_READY.place .tier, 1), (Reg.PG_READY_READY.place (.bas 0), 1), (Reg.BAS_MEM_STAT_ONLINE.place (.bas 0), 1), (Reg.BAS_MEM_FRAMES_FRAMES.place (.bas 0), 786432), (Reg.PG_READY_READY.place (.move 3), 1), (Reg.PG_READY_READY.place .srch, 1), (Reg.DEV_NODE_NODE.place .dev, 9), (Reg.MOVE_QP_CFG_FIRST.place (.move 3), 5), (Reg.MOVE_QP_CFG_COUNT.place (.move 3), 4)]) with qps := [(1541, { st := .rts, remNode := 4, remPart := 1, remQpn := 600, sqBase := 327680, rqBase := 331776, cqBase := 335872, sqLog2 := 4, rqLog2 := 4, cqLog2 := 4 }), (1542, { st := .rts, remNode := 4, remPart := 1, remQpn := 601, sqBase := 327680, rqBase := 331776, cqBase := 335872, sqLog2 := 4, rqLog2 := 4, cqLog2 := 4 })], tier := { pages := [(5, { st := .resident .basin, frame := 0, frameTier := .basin })], dirs := [(0, { valid := true, used := 1, leaf := 257 })], leaves := [(257, true)], frames := [(67108864, true)] } },
     3,
     { fromNode := 4, fromPart := 1, ctrlQp := 0, copy := false, resume := false, status := 0, ctx := 2, reqId := 55, layers := 1, pages := 1, stride := 1, base := 327680, base2 := 655360, key := 0, sideBytes := 0, ttlMs := 1000, kvLen := 9, stage := 0 },
     by decide +kernel⟩,
   ⟨{ (st [(Reg.PG_READY_READY.place .tier, 1), (Reg.PG_READY_READY.place (.bas 0), 1), (Reg.BAS_MEM_STAT_ONLINE.place (.bas 0), 1), (Reg.BAS_MEM_FRAMES_FRAMES.place (.bas 0), 786432), (Reg.PG_READY_READY.place (.move 3), 1), (Reg.PG_READY_READY.place .srch, 1), (Reg.DEV_NODE_NODE.place .dev, 9), (Reg.MOVE_QP_CFG_FIRST.place (.move 3), 5), (Reg.MOVE_QP_CFG_COUNT.place (.move 3), 4), (Reg.CACHE_CFG_ENTRIES.place .srch 3, 2), (Reg.CACHE_CFG_TTL_MAX_S.place .srch 3, 60), (Reg.CACHE_CFG_PARK_RGN.place .srch 3, 1), (Reg.CACHE_CFG_ENT_BASE_LO.place .srch 3, 5)]) with qps := [(1541, { st := .rts, remNode := 4, remPart := 1, remQpn := 600, sqBase := 327680, rqBase := 331776, cqBase := 335872, sqLog2 := 4, rqLog2 := 4, cqLog2 := 4 }), (1542, { st := .rts, remNode := 4, remPart := 1, remQpn := 601, sqBase := 327680, rqBase := 331776, cqBase := 335872, sqLog2 := 4, rqLog2 := 4, cqLog2 := 4 })], tier := { pages := [(5, { st := .resident .basin, frame := 0, frameTier := .basin })], dirs := [(0, { valid := true, used := 1, leaf := 257 })], leaves := [(257, true)], frames := [(67108864, true)] }, regions := [(12289, { valid := true, read := true, write := true, keyCheck := 7, base := 655360, lenM1 := 655359 })] },
     3,
     { fromNode := 4, fromPart := 1, ctrlQp := 0, copy := false, resume := false, status := 0, ctx := 2, reqId := 55, layers := 1, pages := 1, stride := 1, base := 327680, base2 := 655360, key := 0, sideBytes := 0, ttlMs := 1000, kvLen := 9, stage := 0 },
     0, 10, 0, 1, 1, by decide +kernel⟩,
   ⟨{ (st [(Reg.PG_READY_READY.place .tier, 1), (Reg.PG_READY_READY.place (.bas 0), 1), (Reg.BAS_MEM_STAT_ONLINE.place (.bas 0), 1), (Reg.BAS_MEM_FRAMES_FRAMES.place (.bas 0), 786432), (Reg.PG_READY_READY.place (.move 3), 1), (Reg.PG_READY_READY.place .srch, 1), (Reg.DEV_NODE_NODE.place .dev, 9), (Reg.MOVE_QP_CFG_FIRST.place (.move 3), 5), (Reg.MOVE_QP_CFG_COUNT.place (.move 3), 4)]) with qps := [(1541, { st := .rts, remNode := 4, remPart := 1, remQpn := 600, sqBase := 327680, rqBase := 331776, cqBase := 335872, sqLog2 := 4, rqLog2 := 4, cqLog2 := 4 }), (1542, { st := .rts, remNode := 4, remPart := 1, remQpn := 601, sqBase := 327680, rqBase := 331776, cqBase := 335872, sqLog2 := 4, rqLog2 := 4, cqLog2 := 4 })], movers := [(3, { ctxs := [(2, { kind := 0, state := 1, bound := true, qpFirst := 6, reqId := 55, layers := 1, pages := 1, stride := 1, localBase := 720896, remoteBase := 786432, remoteKey := 5, pass := 2, peerNode := 4, peerPart := 1 })] })], reqs := [{ reqId := 55, tenant := 1, desc := 0, stops := [], st := .opening, weir := 0, model := 0, fallback := false, promptPart := some 3, genPart := some 0, genSlot := 0, pass := 2, need := 1, readAt := 0, tokens := 0, outBuf := [], emitted := [], pos := 0, layers := 0, pages := 0, lastTok := 0, specEpoch := 0, adapter := none, endStatus := none }], tier := { pages := [(5, { st := .resident .basin, frame := 0, frameTier := .basin })], dirs := [(0, { valid := true, used := 1, leaf := 257 })], leaves := [(257, true)], frames := [(67108864, true)] } },
     3,
     { fromNode := 4, fromPart := 1, ctrlQp := 0, copy := false, resume := false, status := 0, ctx := 2, reqId := 55, layers := 1, pages := 1, stride := 1, base := 327680, base2 := 655360, key := 0, sideBytes := 0, ttlMs := 1000, kvLen := 9, stage := 0 },
     { kind := 0, state := 1, bound := true, qpFirst := 6, reqId := 55, layers := 1, pages := 1, stride := 1, localBase := 720896, remoteBase := 786432, remoteKey := 5, pass := 2, peerNode := 4, peerPart := 1 },
     1542, by decide +kernel⟩,
   ⟨{ (st [(Reg.PG_READY_READY.place .tier, 1), (Reg.PG_READY_READY.place (.bas 0), 1), (Reg.BAS_MEM_STAT_ONLINE.place (.bas 0), 1), (Reg.BAS_MEM_FRAMES_FRAMES.place (.bas 0), 786432), (Reg.PG_READY_READY.place (.move 3), 1), (Reg.PG_READY_READY.place .srch, 1), (Reg.DEV_NODE_NODE.place .dev, 9), (Reg.MOVE_QP_CFG_FIRST.place (.move 3), 5), (Reg.MOVE_QP_CFG_COUNT.place (.move 3), 4)]) with qps := [(1541, { st := .rts, remNode := 4, remPart := 1, remQpn := 600, sqBase := 327680, rqBase := 331776, cqBase := 335872, sqLog2 := 4, rqLog2 := 4, cqLog2 := 4 }), (1542, { st := .rts, remNode := 4, remPart := 1, remQpn := 601, sqBase := 327680, rqBase := 331776, cqBase := 335872, sqLog2 := 4, rqLog2 := 4, cqLog2 := 4 })], movers := [(3, { ctxs := [(2, { kind := 2, state := 1, bound := true, qpFirst := 6, reqId := 55, layers := 1, pages := 1, stride := 1, localBase := 720896, peerNode := 4, peerPart := 1 })] })], tier := { pages := [(5, { st := .resident .basin, frame := 0, frameTier := .basin })], dirs := [(0, { valid := true, used := 1, leaf := 257 })], leaves := [(257, true)], frames := [(67108864, true)] } },
     3,
     { fromNode := 4, fromPart := 1, ctrlQp := 0, copy := false, resume := false, status := 0, ctx := 2, reqId := 55, layers := 1, pages := 1, stride := 1, base := 327680, base2 := 655360, key := 0, sideBytes := 0, ttlMs := 1000, kvLen := 9, stage := 0 },
     { kind := 2, state := 1, bound := true, qpFirst := 6, reqId := 55, layers := 1, pages := 1, stride := 1, localBase := 720896, peerNode := 4, peerPart := 1 },
     0, by decide +kernel⟩,
   ⟨{ (st [(Reg.PG_READY_READY.place .tier, 1), (Reg.PG_READY_READY.place (.bas 0), 1), (Reg.BAS_MEM_STAT_ONLINE.place (.bas 0), 1), (Reg.BAS_MEM_FRAMES_FRAMES.place (.bas 0), 786432), (Reg.PG_READY_READY.place (.move 3), 1), (Reg.PG_READY_READY.place .srch, 1), (Reg.DEV_NODE_NODE.place .dev, 9), (Reg.MOVE_QP_CFG_FIRST.place (.move 3), 5), (Reg.MOVE_QP_CFG_COUNT.place (.move 3), 4)]) with qps := [(1541, { st := .rts, remNode := 4, remPart := 1, remQpn := 600, sqBase := 327680, rqBase := 331776, cqBase := 335872, sqLog2 := 4, rqLog2 := 4, cqLog2 := 4 }), (1542, { st := .rts, remNode := 4, remPart := 1, remQpn := 601, sqBase := 327680, rqBase := 331776, cqBase := 335872, sqLog2 := 4, rqLog2 := 4, cqLog2 := 4 })], movers := [(3, { ctxs := [(2, { kind := 2, state := 1, bound := true, qpFirst := 6, reqId := 56, layers := 1, pages := 1, stride := 1, localBase := 720896, peerNode := 4, peerPart := 1 })] })], tier := { pages := [(5, { st := .resident .basin, frame := 0, frameTier := .basin })], dirs := [(0, { valid := true, used := 1, leaf := 257 })], leaves := [(257, true)], frames := [(67108864, true)] } },
     3,
     { fromNode := 4, fromPart := 1, ctrlQp := 0, copy := false, resume := false, status := 0, ctx := 2, reqId := 55, layers := 1, pages := 1, stride := 1, base := 327680, base2 := 655360, key := 0, sideBytes := 0, ttlMs := 1000, kvLen := 9, stage := 0 },
     { kind := 2, state := 1, bound := true, qpFirst := 6, reqId := 56, layers := 1, pages := 1, stride := 1, localBase := 720896, peerNode := 4, peerPart := 1 },
     by decide +kernel⟩,
   ⟨State.reset, 3,
     { fromNode := 4, fromPart := 1, ctrlQp := 0, copy := false, resume := false, status := 0, ctx := 2, reqId := 55, layers := 1, pages := 1, stride := 1, base := 327680, base2 := 655360, key := 0, sideBytes := 0, ttlMs := 1000, kvLen := 9, stage := 0 },
     by decide +kernel⟩⟩

/-- The hypotheses of PullsAndClosesAreServed can be met, clause by clause. -/
theorem wit_PullsAndClosesAreServed :
    (∃ (s : State) (p : PartId) (m : MoverMsg) (code : Nat), s.fenced p = false ∧ s.ready (.move p) = true ∧
      (s.checkRegion p m.key 0 (fun g => g.read) m.base (m.pages * 65536) = some code)) ∧
    (∃ (s : State) (p : PartId) (m : MoverMsg) (i : Nat) (k : Nat) (q : QpId), s.fenced p = false ∧ s.ready (.move p)
      = true ∧ (s.checkRegion p m.key 0 (fun g => g.read) m.base (m.pages * 65536) = none) ∧ s.fld (.disp p)
      Reg.DISP_ROLE_CUR ≠ 3 ∧ ((s.mover p).ctxs.find? (fun e => e.2.reqId == m.reqId && e.2.kind == 5 && decide (4 ≤
      e.2.state) && !e.2.bound) = none) ∧ (s.freeCtx p = some i) ∧ (s.findRun p m.fromNode m.fromPart 1 = some k) ∧
      q.val = 512 * p.val + k ∧ s.convs = [] ∧ (s.mover p).posts = [] ∧ m.pages = 1 ∧ s.slotsFor 1 = true ∧
      s.writable (s.qp q).sqBase (64 * 2 ^ (s.qp q).sqLog2) = true ∧ m.base / 65536 ∉ pagesOf (s.qp q).sqBase (64 * 2
      ^ (s.qp q).sqLog2) ∧ ringUsed (s.qp q).sqLog2 (s.qp q).sqHead (s.qp q).sqTail + 2 ≤ 2 ^ (s.qp q).sqLog2 ∧ 4 ≤
      (s.qp q).sqLog2 ∧ (s.qp q).sqTail < 2 ^ ((s.qp q).sqLog2 + 1)) ∧
    (∃ (s : State) (p : PartId) (m : MoverMsg) (i : Nat), s.fenced p = false ∧ s.ready (.move p) = true ∧
      (s.checkRegion p m.key 0 (fun g => g.read) m.base (m.pages * 65536) = none) ∧ s.fld (.disp p) Reg.DISP_ROLE_CUR
      ≠ 3 ∧ ((s.mover p).ctxs.find? (fun e => e.2.reqId == m.reqId && e.2.kind == 5 && decide (4 ≤ e.2.state) &&
      !e.2.bound) = none) ∧ (s.freeCtx p = some i) ∧ s.findRun p m.fromNode m.fromPart 1 = none) ∧
    (∃ (s : State) (p : PartId) (m : MoverMsg) (c : MoveCtx) (x : Mig) (page : Nat), s.fenced p = false ∧ s.ready
      (.move p) = true ∧ s.ctx p m.ctx.val = c ∧ c.kind = 4 ∧ c.state = 3 ∧ c.copyRun = false ∧ c.layers = 1 ∧
      c.pages = 1 ∧ page = c.localBase / 65536 ∧ s.tier.migs = [x] ∧ x.page = page ∧ x.kind = .pull ∧ x.bytes = 0 ∧
      x.later = [] ∧ x.owner = none ∧ x.prev.st = .remote ∧ s.tier.held = [] ∧ s.tier.stalled = [] ∧ s.tier.waitMigs
      = [] ∧ s.tier.demoting = [] ∧ s.tier.cmd = none) ∧
    (∃ (s : State) (p : PartId) (m : MoverMsg) (c : MoveCtx), s.fenced p = false ∧ s.ready (.move p) = true ∧
      (s.mover p).ctxs = [(m.ctx.val, c)] ∧ c.kind = 4 ∧ c.state = 3 ∧ c.copyRun = true ∧ s.tier.migs = [] ∧ c.reqId
      < 2 ^ 32) ∧
    (∃ (s : State) (p : PartId) (m : MoverMsg) (c : MoveCtx) (d : MoveCtx) (j : Nat), s.fenced p = false ∧ s.ready
      (.move p) = true ∧ (s.mover p).ctxs = [(m.ctx.val, c), (j, d)] ∧ m.ctx.val < j ∧ d.kind = 4 ∧ d.state = 3 ∧
      d.copyRun = true ∧ d.reqId = c.reqId ∧ c.localBase < d.localBase ∧ c.kind = 4 ∧ c.state = 3 ∧ c.copyRun = true
      ∧ s.tier.migs = [] ∧ c.reqId < 2 ^ 32) ∧
    (∃ (s : State) (p : PartId) (m : MoverMsg), s.fenced p = false ∧ s.ready (.move p) = true ∧ ((s.ctx p
      m.ctx.val).kind ≠ 4 ∨ (s.ctx p m.ctx.val).state = 0 ∨ 4 ≤ (s.ctx p m.ctx.val).state)) ∧
    (∃ (s : State) (p : PartId) (m : MoverMsg), s.fenced p = false ∧ s.ready (.move p) = true ∧ ((m.status = 1 →
      s.convs.find? (fun v => v.part == p && v.st == .parked && v.parkReq == m.reqId) = none)) ∧ ((s.mover
      p).ctxs.filter (fun (e : Nat × MoveCtx) => (e.2.kind == 1 || e.2.kind == 3) && e.2.reqId == m.reqId &&
      e.2.peerNode == m.fromNode && e.2.peerPart == m.fromPart && decide (1 ≤ e.2.state) && decide (e.2.state ≤ 3)) =
      []) ∧ s.fld .srch Reg.CACHE_CFG_ENTRIES p.val = 0) ∧
    (∃ (s : State) (p : PartId) (m : MoverMsg) (i : Nat) (c : MoveCtx), s.fenced p = false ∧ s.ready (.move p) = true
      ∧ ((m.status = 1 → s.convs.find? (fun v => v.part == p && v.st == .parked && v.parkReq == m.reqId) = none)) ∧
      ((s.mover p).ctxs.filter (fun (e : Nat × MoveCtx) => (e.2.kind == 1 || e.2.kind == 3) && e.2.reqId == m.reqId
      && e.2.peerNode == m.fromNode && e.2.peerPart == m.fromPart && decide (1 ≤ e.2.state) && decide (e.2.state ≤
      3)) = [(i, c)]) ∧ s.ctx p i = c ∧ c.bound = true ∧ c.qpFirst + c.stripesM1 < 512 ∧ (c.qps p).all (fun q =>
      (s.qp q).st == .rts) = true ∧ s.fld .srch Reg.CACHE_CFG_ENTRIES p.val = 0 ∧ (∀ e ∈ (s.mover p).ctxs, e.2.closed
      = false)) ∧
    (∃ (s : State) (p : PartId) (m : MoverMsg) (c : MoveCtx), s.fenced p = false ∧ s.ready (.move p) = true ∧ s.ctx p
      m.ctx.val = c ∧ c.state = 5 ∧ c.bound = true ∧ c.qpFirst + c.stripesM1 < 512 ∧ (c.qps p).all (fun q => (s.qp
      q).st == .error && (s.qp q).flushed) = true ∧ (∀ e ∈ (s.mover p).ctxs, 2 ≤ e.2.state ∧ e.2.parkNext = none ∧
      (e.1 ≠ m.ctx.val → e.2.closed = false))) ∧
    (∃ (s : State) (p : PartId) (m : MoverMsg) (c : MoveCtx), s.fenced p = false ∧ s.ready (.move p) = true ∧ s.ctx p
      m.ctx.val = c ∧ c.state = 5 ∧ c.bound = true ∧ (c.qps p).any (fun q => (s.qp q).st == .error && !(s.qp
      q).flushed) = true ∧ (∀ e ∈ (s.mover p).ctxs, e.1 ≠ m.ctx.val → e.2.closed = false)) ∧
    (∃ (s : State) (p : PartId) (m : MoverMsg), s.fenced p = false ∧ s.ready (.move p) = true ∧ ((s.ctx p
      m.ctx.val).state ≠ 5 ∨ (s.ctx p m.ctx.val).bound = false)) ∧
    (∃ (s : State) (p : PartId) (m : MoverMsg) (v : Conv), s.fenced p = false ∧ s.ready (.move p) = true ∧
      (s.convs.find? (fun (v : Conv) => v.part == p && v.parkReq == m.reqId && (v.st == .parked || decide (v.handle ≠
      0))) = some v) ∧ v.st = .parked) ∧
    (∃ (s : State) (p : PartId) (m : MoverMsg), s.fenced p = false ∧ s.ready (.move p) = true ∧ (s.convs.find? (fun
      (v : Conv) => v.part == p && v.parkReq == m.reqId && (v.st == .parked || decide (v.handle ≠ 0))) = none)) :=
  ⟨⟨{ (st [(Reg.PG_READY_READY.place .tier, 1), (Reg.PG_READY_READY.place (.bas 0), 1), (Reg.BAS_MEM_STAT_ONLINE.place (.bas 0), 1), (Reg.BAS_MEM_FRAMES_FRAMES.place (.bas 0), 786432), (Reg.PG_READY_READY.place (.move 3), 1), (Reg.PG_READY_READY.place .srch, 1), (Reg.DEV_NODE_NODE.place .dev, 9), (Reg.MOVE_QP_CFG_FIRST.place (.move 3), 5), (Reg.MOVE_QP_CFG_COUNT.place (.move 3), 4)]) with qps := [(1541, { st := .rts, remNode := 4, remPart := 1, remQpn := 600, sqBase := 327680, rqBase := 331776, cqBase := 335872, sqLog2 := 4, rqLog2 := 4, cqLog2 := 4 }), (1542, { st := .rts, remNode := 4, remPart := 1, remQpn := 601, sqBase := 327680, rqBase := 331776, cqBase := 335872, sqLog2 := 4, rqLog2 := 4, cqLog2 := 4 })], tier := { pages := [(5, { st := .resident .basin, frame := 0, frameTier := .basin })], dirs := [(0, { valid := true, used := 1, leaf := 257 })], leaves := [(257, true)], frames := [(67108864, true)] } },
     3,
     { fromNode := 4, fromPart := 1, ctrlQp := 0, copy := false, resume := false, status := 0, ctx := 2, reqId := 55, layers := 1, pages := 1, stride := 1, base := 327680, base2 := 655360, key := 0, sideBytes := 0, ttlMs := 1000, kvLen := 9, stage := 0 },
     5, by decide +kernel⟩,
   ⟨{ (st [(Reg.PG_READY_READY.place .tier, 1), (Reg.PG_READY_READY.place (.bas 0), 1), (Reg.BAS_MEM_STAT_ONLINE.place (.bas 0), 1), (Reg.BAS_MEM_FRAMES_FRAMES.place (.bas 0), 786432), (Reg.PG_READY_READY.place (.move 3), 1), (Reg.PG_READY_READY.place .srch, 1), (Reg.DEV_NODE_NODE.place .dev, 9), (Reg.MOVE_QP_CFG_FIRST.place (.move 3), 5), (Reg.MOVE_QP_CFG_COUNT.place (.move 3), 4)]) with qps := [(1541, { st := .rts, remNode := 4, remPart := 1, remQpn := 600, sqBase := 393216, rqBase := 331776, cqBase := 335872, sqLog2 := 4, rqLog2 := 4, cqLog2 := 4 }), (1542, { st := .rts, remNode := 4, remPart := 1, remQpn := 601, sqBase := 393216, rqBase := 331776, cqBase := 335872, sqLog2 := 4, rqLog2 := 4, cqLog2 := 4 })], tier := { pages := [(5, { st := .resident .basin, frame := 0, frameTier := .basin }), (6, { st := .resident .basin, frame := 1, frameTier := .basin })], dirs := [(0, { valid := true, used := 1, leaf := 257 })], leaves := [(257, true)], frames := [(67108864, true)] }, regions := [(12288, { valid := true, read := true, base := 0, lenM1 := 1048575 })] },
     3,
     { fromNode := 4, fromPart := 1, ctrlQp := 0, copy := false, resume := false, status := 0, ctx := 2, reqId := 55, layers := 1, pages := 1, stride := 1, base := 327680, base2 := 655360, key := 0, sideBytes := 0, ttlMs := 1000, kvLen := 9, stage := 0 },
     0, 6, 1542, by decide +kernel⟩,
   ⟨{ (st [(Reg.PG_READY_READY.place .tier, 1), (Reg.PG_READY_READY.place (.bas 0), 1), (Reg.BAS_MEM_STAT_ONLINE.place (.bas 0), 1), (Reg.BAS_MEM_FRAMES_FRAMES.place (.bas 0), 786432), (Reg.PG_READY_READY.place (.move 3), 1), (Reg.PG_READY_READY.place .srch, 1), (Reg.DEV_NODE_NODE.place .dev, 9), (Reg.MOVE_QP_CFG_FIRST.place (.move 3), 5), (Reg.MOVE_QP_CFG_COUNT.place (.move 3), 4)]) with qps := [(1541, { st := .rts, remNode := 4, remPart := 1, remQpn := 600, sqBase := 327680, rqBase := 331776, cqBase := 335872, sqLog2 := 4, rqLog2 := 4, cqLog2 := 4 }), (1542, { st := .rts, remNode := 4, remPart := 1, remQpn := 601, sqBase := 327680, rqBase := 331776, cqBase := 335872, sqLog2 := 4, rqLog2 := 4, cqLog2 := 4 })], tier := { pages := [(5, { st := .resident .basin, frame := 0, frameTier := .basin })], dirs := [(0, { valid := true, used := 1, leaf := 257 })], leaves := [(257, true)], frames := [(67108864, true)] }, regions := [(12288, { valid := true, read := true, base := 0, lenM1 := 1048575 })] },
     3,
     { fromNode := 4, fromPart := 2, ctrlQp := 0, copy := false, resume := false, status := 0, ctx := 2, reqId := 55, layers := 1, pages := 1, stride := 1, base := 327680, base2 := 655360, key := 0, sideBytes := 0, ttlMs := 1000, kvLen := 9, stage := 0 },
     0, by decide +kernel⟩,
   ⟨{ (st [(Reg.PG_READY_READY.place .tier, 1), (Reg.PG_READY_READY.place (.bas 0), 1), (Reg.BAS_MEM_STAT_ONLINE.place (.bas 0), 1), (Reg.BAS_MEM_FRAMES_FRAMES.place (.bas 0), 786432), (Reg.PG_READY_READY.place (.move 3), 1), (Reg.PG_READY_READY.place .srch, 1), (Reg.DEV_NODE_NODE.place .dev, 9), (Reg.MOVE_QP_CFG_FIRST.place (.move 3), 5), (Reg.MOVE_QP_CFG_COUNT.place (.move 3), 4)]) with qps := [(1541, { st := .rts, remNode := 4, remPart := 1, remQpn := 600, sqBase := 327680, rqBase := 331776, cqBase := 335872, sqLog2 := 4, rqLog2 := 4, cqLog2 := 4 }), (1542, { st := .rts, remNode := 4, remPart := 1, remQpn := 601, sqBase := 327680, rqBase := 331776, cqBase := 335872, sqLog2 := 4, rqLog2 := 4, cqLog2 := 4 })], movers := [(3, { ctxs := [(2, { kind := 4, state := 3, reqId := 55, layers := 1, pages := 1, stride := 1, localBase := 327680, peerNode := 4, peerPart := 1 })] })], tier := { pages := [(5, { st := .inTransit })], dirs := [(0, { valid := true, used := 1, leaf := 257 })], leaves := [(257, true)], frames := [(67108864, true)], migs := [{ page := 5, prev := { st := .remote, node := 4 }, kind := .pull, dstTier := .basin, dstFrame := 0, dstSide := 0, start := 0, bytes := 0, staged := [], later := [] }] } },
     3,
     { fromNode := 4, fromPart := 1, ctrlQp := 0, copy := false, resume := false, status := 5, ctx := 2, reqId := 55, layers := 1, pages := 1, stride := 1, base := 327680, base2 := 655360, key := 0, sideBytes := 0, ttlMs := 1000, kvLen := 9, stage := 0 },
     { kind := 4, state := 3, reqId := 55, layers := 1, pages := 1, stride := 1, localBase := 327680, peerNode := 4, peerPart := 1 },
     { page := 5, prev := { st := .remote, node := 4 }, kind := .pull, dstTier := .basin, dstFrame := 0, dstSide := 0, start := 0, bytes := 0, staged := [], later := [] },
     5, by decide +kernel⟩,
   ⟨{ (st [(Reg.PG_READY_READY.place .tier, 1), (Reg.PG_READY_READY.place (.bas 0), 1), (Reg.BAS_MEM_STAT_ONLINE.place (.bas 0), 1), (Reg.BAS_MEM_FRAMES_FRAMES.place (.bas 0), 786432), (Reg.PG_READY_READY.place (.move 3), 1), (Reg.PG_READY_READY.place .srch, 1), (Reg.DEV_NODE_NODE.place .dev, 9), (Reg.MOVE_QP_CFG_FIRST.place (.move 3), 5), (Reg.MOVE_QP_CFG_COUNT.place (.move 3), 4)]) with qps := [(1541, { st := .rts, remNode := 4, remPart := 1, remQpn := 600, sqBase := 327680, rqBase := 331776, cqBase := 335872, sqLog2 := 4, rqLog2 := 4, cqLog2 := 4 }), (1542, { st := .rts, remNode := 4, remPart := 1, remQpn := 601, sqBase := 327680, rqBase := 331776, cqBase := 335872, sqLog2 := 4, rqLog2 := 4, cqLog2 := 4 })], movers := [(3, { ctxs := [(2, { kind := 4, copyRun := true, state := 3, reqId := 55, layers := 1, pages := 1, stride := 1, localBase := 327680, peerNode := 4, peerPart := 1 })] })], tier := { pages := [(5, { st := .resident .basin, frame := 0, frameTier := .basin })], dirs := [(0, { valid := true, used := 1, leaf := 257 })], leaves := [(257, true)], frames := [(67108864, true)] } },
     3,
     { fromNode := 4, fromPart := 1, ctrlQp := 0, copy := false, resume := false, status := 5, ctx := 2, reqId := 55, layers := 1, pages := 1, stride := 1, base := 327680, base2 := 655360, key := 0, sideBytes := 0, ttlMs := 1000, kvLen := 9, stage := 0 },
     { kind := 4, copyRun := true, state := 3, reqId := 55, layers := 1, pages := 1, stride := 1, localBase := 327680, peerNode := 4, peerPart := 1 },
     by decide +kernel⟩,
   ⟨{ (st [(Reg.PG_READY_READY.place .tier, 1), (Reg.PG_READY_READY.place (.bas 0), 1), (Reg.BAS_MEM_STAT_ONLINE.place (.bas 0), 1), (Reg.BAS_MEM_FRAMES_FRAMES.place (.bas 0), 786432), (Reg.PG_READY_READY.place (.move 3), 1), (Reg.PG_READY_READY.place .srch, 1), (Reg.DEV_NODE_NODE.place .dev, 9), (Reg.MOVE_QP_CFG_FIRST.place (.move 3), 5), (Reg.MOVE_QP_CFG_COUNT.place (.move 3), 4)]) with qps := [(1541, { st := .rts, remNode := 4, remPart := 1, remQpn := 600, sqBase := 327680, rqBase := 331776, cqBase := 335872, sqLog2 := 4, rqLog2 := 4, cqLog2 := 4 }), (1542, { st := .rts, remNode := 4, remPart := 1, remQpn := 601, sqBase := 327680, rqBase := 331776, cqBase := 335872, sqLog2 := 4, rqLog2 := 4, cqLog2 := 4 })], movers := [(3, { ctxs := [(2, { kind := 4, copyRun := true, state := 3, reqId := 55, layers := 1, pages := 1, stride := 1, localBase := 327680, peerNode := 4, peerPart := 1 }), (3, { kind := 4, copyRun := true, state := 3, reqId := 55, layers := 1, pages := 1, stride := 1, localBase := 65536 + 327680, peerNode := 4, peerPart := 1 })] })], tier := { pages := [(5, { st := .resident .basin, frame := 0, frameTier := .basin })], dirs := [(0, { valid := true, used := 1, leaf := 257 })], leaves := [(257, true)], frames := [(67108864, true)] } },
     3,
     { fromNode := 4, fromPart := 1, ctrlQp := 0, copy := false, resume := false, status := 5, ctx := 2, reqId := 55, layers := 1, pages := 1, stride := 1, base := 327680, base2 := 655360, key := 0, sideBytes := 0, ttlMs := 1000, kvLen := 9, stage := 0 },
     { kind := 4, copyRun := true, state := 3, reqId := 55, layers := 1, pages := 1, stride := 1, localBase := 327680, peerNode := 4, peerPart := 1 },
     { kind := 4, copyRun := true, state := 3, reqId := 55, layers := 1, pages := 1, stride := 1, localBase := 65536 + 327680, peerNode := 4, peerPart := 1 },
     3, by decide +kernel⟩,
   ⟨{ (st [(Reg.PG_READY_READY.place .tier, 1), (Reg.PG_READY_READY.place (.bas 0), 1), (Reg.BAS_MEM_STAT_ONLINE.place (.bas 0), 1), (Reg.BAS_MEM_FRAMES_FRAMES.place (.bas 0), 786432), (Reg.PG_READY_READY.place (.move 3), 1), (Reg.PG_READY_READY.place .srch, 1), (Reg.DEV_NODE_NODE.place .dev, 9), (Reg.MOVE_QP_CFG_FIRST.place (.move 3), 5), (Reg.MOVE_QP_CFG_COUNT.place (.move 3), 4)]) with qps := [(1541, { st := .rts, remNode := 4, remPart := 1, remQpn := 600, sqBase := 327680, rqBase := 331776, cqBase := 335872, sqLog2 := 4, rqLog2 := 4, cqLog2 := 4 }), (1542, { st := .rts, remNode := 4, remPart := 1, remQpn := 601, sqBase := 327680, rqBase := 331776, cqBase := 335872, sqLog2 := 4, rqLog2 := 4, cqLog2 := 4 })], tier := { pages := [(5, { st := .resident .basin, frame := 0, frameTier := .basin })], dirs := [(0, { valid := true, used := 1, leaf := 257 })], leaves := [(257, true)], frames := [(67108864, true)] } },
     3,
     { fromNode := 4, fromPart := 1, ctrlQp := 0, copy := false, resume := false, status := 0, ctx := 2, reqId := 55, layers := 1, pages := 1, stride := 1, base := 327680, base2 := 655360, key := 0, sideBytes := 0, ttlMs := 1000, kvLen := 9, stage := 0 },
     by decide +kernel⟩,
   ⟨{ (st [(Reg.PG_READY_READY.place .tier, 1), (Reg.PG_READY_READY.place (.bas 0), 1), (Reg.BAS_MEM_STAT_ONLINE.place (.bas 0), 1), (Reg.BAS_MEM_FRAMES_FRAMES.place (.bas 0), 786432), (Reg.PG_READY_READY.place (.move 3), 1), (Reg.PG_READY_READY.place .srch, 1), (Reg.DEV_NODE_NODE.place .dev, 9), (Reg.MOVE_QP_CFG_FIRST.place (.move 3), 5), (Reg.MOVE_QP_CFG_COUNT.place (.move 3), 4)]) with qps := [(1541, { st := .rts, remNode := 4, remPart := 1, remQpn := 600, sqBase := 327680, rqBase := 331776, cqBase := 335872, sqLog2 := 4, rqLog2 := 4, cqLog2 := 4 }), (1542, { st := .rts, remNode := 4, remPart := 1, remQpn := 601, sqBase := 327680, rqBase := 331776, cqBase := 335872, sqLog2 := 4, rqLog2 := 4, cqLog2 := 4 })], tier := { pages := [(5, { st := .resident .basin, frame := 0, frameTier := .basin })], dirs := [(0, { valid := true, used := 1, leaf := 257 })], leaves := [(257, true)], frames := [(67108864, true)] } },
     3,
     { fromNode := 4, fromPart := 1, ctrlQp := 0, copy := false, resume := false, status := 48, ctx := 2, reqId := 55, layers := 1, pages := 1, stride := 1, base := 327680, base2 := 655360, key := 0, sideBytes := 0, ttlMs := 1000, kvLen := 9, stage := 0 },
     by decide +kernel⟩,
   ⟨{ (st [(Reg.PG_READY_READY.place .tier, 1), (Reg.PG_READY_READY.place (.bas 0), 1), (Reg.BAS_MEM_STAT_ONLINE.place (.bas 0), 1), (Reg.BAS_MEM_FRAMES_FRAMES.place (.bas 0), 786432), (Reg.PG_READY_READY.place (.move 3), 1), (Reg.PG_READY_READY.place .srch, 1), (Reg.DEV_NODE_NODE.place .dev, 9), (Reg.MOVE_QP_CFG_FIRST.place (.move 3), 5), (Reg.MOVE_QP_CFG_COUNT.place (.move 3), 4)]) with qps := [(1541, { st := .rts, remNode := 4, remPart := 1, remQpn := 600, sqBase := 327680, rqBase := 331776, cqBase := 335872, sqLog2 := 4, rqLog2 := 4, cqLog2 := 4 }), (1542, { st := .rts, remNode := 4, remPart := 1, remQpn := 601, sqBase := 327680, rqBase := 331776, cqBase := 335872, sqLog2 := 4, rqLog2 := 4, cqLog2 := 4 })], movers := [(3, { ctxs := [(2, { kind := 1, state := 2, bound := true, qpFirst := 6, reqId := 55, layers := 1, pages := 1, stride := 1, localBase := 720896, peerNode := 4, peerPart := 1 })] })], tier := { pages := [(5, { st := .resident .basin, frame := 0, frameTier := .basin })], dirs := [(0, { valid := true, used := 1, leaf := 257 })], leaves := [(257, true)], frames := [(67108864, true)] } },
     3,
     { fromNode := 4, fromPart := 1, ctrlQp := 0, copy := false, resume := false, status := 48, ctx := 2, reqId := 55, layers := 1, pages := 1, stride := 1, base := 327680, base2 := 655360, key := 0, sideBytes := 0, ttlMs := 1000, kvLen := 9, stage := 0 },
     2,
     { kind := 1, state := 2, bound := true, qpFirst := 6, reqId := 55, layers := 1, pages := 1, stride := 1, localBase := 720896, peerNode := 4, peerPart := 1 },
     by decide +kernel⟩,
   ⟨{ (st [(Reg.PG_READY_READY.place .tier, 1), (Reg.PG_READY_READY.place (.bas 0), 1), (Reg.BAS_MEM_STAT_ONLINE.place (.bas 0), 1), (Reg.BAS_MEM_FRAMES_FRAMES.place (.bas 0), 786432), (Reg.PG_READY_READY.place (.move 3), 1), (Reg.PG_READY_READY.place .srch, 1), (Reg.DEV_NODE_NODE.place .dev, 9), (Reg.MOVE_QP_CFG_FIRST.place (.move 3), 5), (Reg.MOVE_QP_CFG_COUNT.place (.move 3), 4)]) with qps := [(1541, { st := .rts, remNode := 4, remPart := 1, remQpn := 600, sqBase := 327680, rqBase := 331776, cqBase := 335872, sqLog2 := 4, rqLog2 := 4, cqLog2 := 4 }), (1542, { st := .error, flushed := true, remNode := 4, remPart := 1, remQpn := 601, sqBase := 327680, rqBase := 331776, cqBase := 335872, sqLog2 := 4, rqLog2 := 4, cqLog2 := 4 })], movers := [(3, { ctxs := [(2, { kind := 2, state := 5, bound := true, qpFirst := 6, reqId := 55, layers := 1, pages := 1, stride := 1, localBase := 720896, peerNode := 4, peerPart := 1 })] })], tier := { pages := [(5, { st := .resident .basin, frame := 0, frameTier := .basin })], dirs := [(0, { valid := true, used := 1, leaf := 257 })], leaves := [(257, true)], frames := [(67108864, true)] } },
     3,
     { fromNode := 4, fromPart := 1, ctrlQp := 0, copy := false, resume := false, status := 0, ctx := 2, reqId := 55, layers := 1, pages := 1, stride := 1, base := 327680, base2 := 655360, key := 0, sideBytes := 0, ttlMs := 1000, kvLen := 9, stage := 0 },
     { kind := 2, state := 5, bound := true, qpFirst := 6, reqId := 55, layers := 1, pages := 1, stride := 1, localBase := 720896, peerNode := 4, peerPart := 1 },
     by decide +kernel⟩,
   ⟨{ (st [(Reg.PG_READY_READY.place .tier, 1), (Reg.PG_READY_READY.place (.bas 0), 1), (Reg.BAS_MEM_STAT_ONLINE.place (.bas 0), 1), (Reg.BAS_MEM_FRAMES_FRAMES.place (.bas 0), 786432), (Reg.PG_READY_READY.place (.move 3), 1), (Reg.PG_READY_READY.place .srch, 1), (Reg.DEV_NODE_NODE.place .dev, 9), (Reg.MOVE_QP_CFG_FIRST.place (.move 3), 5), (Reg.MOVE_QP_CFG_COUNT.place (.move 3), 4)]) with qps := [(1541, { st := .rts, remNode := 4, remPart := 1, remQpn := 600, sqBase := 327680, rqBase := 331776, cqBase := 335872, sqLog2 := 4, rqLog2 := 4, cqLog2 := 4 }), (1542, { st := .error, remNode := 4, remPart := 1, remQpn := 601, sqBase := 327680, rqBase := 331776, cqBase := 335872, sqLog2 := 4, rqLog2 := 4, cqLog2 := 4 })], movers := [(3, { ctxs := [(2, { kind := 2, state := 5, bound := true, qpFirst := 6, reqId := 55, layers := 1, pages := 1, stride := 1, localBase := 720896, peerNode := 4, peerPart := 1 })] })], tier := { pages := [(5, { st := .resident .basin, frame := 0, frameTier := .basin })], dirs := [(0, { valid := true, used := 1, leaf := 257 })], leaves := [(257, true)], frames := [(67108864, true)] } },
     3,
     { fromNode := 4, fromPart := 1, ctrlQp := 0, copy := false, resume := false, status := 0, ctx := 2, reqId := 55, layers := 1, pages := 1, stride := 1, base := 327680, base2 := 655360, key := 0, sideBytes := 0, ttlMs := 1000, kvLen := 9, stage := 0 },
     { kind := 2, state := 5, bound := true, qpFirst := 6, reqId := 55, layers := 1, pages := 1, stride := 1, localBase := 720896, peerNode := 4, peerPart := 1 },
     by decide +kernel⟩,
   ⟨{ (st [(Reg.PG_READY_READY.place .tier, 1), (Reg.PG_READY_READY.place (.bas 0), 1), (Reg.BAS_MEM_STAT_ONLINE.place (.bas 0), 1), (Reg.BAS_MEM_FRAMES_FRAMES.place (.bas 0), 786432), (Reg.PG_READY_READY.place (.move 3), 1), (Reg.PG_READY_READY.place .srch, 1), (Reg.DEV_NODE_NODE.place .dev, 9), (Reg.MOVE_QP_CFG_FIRST.place (.move 3), 5), (Reg.MOVE_QP_CFG_COUNT.place (.move 3), 4)]) with qps := [(1541, { st := .rts, remNode := 4, remPart := 1, remQpn := 600, sqBase := 327680, rqBase := 331776, cqBase := 335872, sqLog2 := 4, rqLog2 := 4, cqLog2 := 4 }), (1542, { st := .rts, remNode := 4, remPart := 1, remQpn := 601, sqBase := 327680, rqBase := 331776, cqBase := 335872, sqLog2 := 4, rqLog2 := 4, cqLog2 := 4 })], tier := { pages := [(5, { st := .resident .basin, frame := 0, frameTier := .basin })], dirs := [(0, { valid := true, used := 1, leaf := 257 })], leaves := [(257, true)], frames := [(67108864, true)] } },
     3,
     { fromNode := 4, fromPart := 1, ctrlQp := 0, copy := false, resume := false, status := 0, ctx := 2, reqId := 55, layers := 1, pages := 1, stride := 1, base := 327680, base2 := 655360, key := 0, sideBytes := 0, ttlMs := 1000, kvLen := 9, stage := 0 },
     by decide +kernel⟩,
   ⟨{ (st [(Reg.PG_READY_READY.place .tier, 1), (Reg.PG_READY_READY.place (.bas 0), 1), (Reg.BAS_MEM_STAT_ONLINE.place (.bas 0), 1), (Reg.BAS_MEM_FRAMES_FRAMES.place (.bas 0), 786432), (Reg.PG_READY_READY.place (.move 3), 1), (Reg.PG_READY_READY.place .srch, 1), (Reg.DEV_NODE_NODE.place .dev, 9), (Reg.MOVE_QP_CFG_FIRST.place (.move 3), 5), (Reg.MOVE_QP_CFG_COUNT.place (.move 3), 4)]) with qps := [(1541, { st := .rts, remNode := 4, remPart := 1, remQpn := 600, sqBase := 327680, rqBase := 331776, cqBase := 335872, sqLog2 := 4, rqLog2 := 4, cqLog2 := 4 }), (1542, { st := .rts, remNode := 4, remPart := 1, remQpn := 601, sqBase := 327680, rqBase := 331776, cqBase := 335872, sqLog2 := 4, rqLog2 := 4, cqLog2 := 4 })], tier := { pages := [(5, { st := .resident .basin, frame := 0, frameTier := .basin })], dirs := [(0, { valid := true, used := 1, leaf := 257 })], leaves := [(257, true)], frames := [(67108864, true)] }, convs := [{ tenant := 1, convId := 7, st := .parked, part := 3, slot := 0, need := 0, kvLen := 9, layers := 1, model := 0, reqId := 54, handleAddr := 0, handle := 1, idleFrom := 0, parkReq := 55 }] },
     3,
     { fromNode := 4, fromPart := 1, ctrlQp := 0, copy := false, resume := false, status := 0, ctx := 2, reqId := 55, layers := 1, pages := 1, stride := 1, base := 327680, base2 := 655360, key := 0, sideBytes := 0, ttlMs := 1000, kvLen := 9, stage := 0 },
     { tenant := 1, convId := 7, st := .parked, part := 3, slot := 0, need := 0, kvLen := 9, layers := 1, model := 0, reqId := 54, handleAddr := 0, handle := 1, idleFrom := 0, parkReq := 55 },
     by decide +kernel⟩,
   ⟨{ (st [(Reg.PG_READY_READY.place .tier, 1), (Reg.PG_READY_READY.place (.bas 0), 1), (Reg.BAS_MEM_STAT_ONLINE.place (.bas 0), 1), (Reg.BAS_MEM_FRAMES_FRAMES.place (.bas 0), 786432), (Reg.PG_READY_READY.place (.move 3), 1), (Reg.PG_READY_READY.place .srch, 1), (Reg.DEV_NODE_NODE.place .dev, 9), (Reg.MOVE_QP_CFG_FIRST.place (.move 3), 5), (Reg.MOVE_QP_CFG_COUNT.place (.move 3), 4)]) with qps := [(1541, { st := .rts, remNode := 4, remPart := 1, remQpn := 600, sqBase := 327680, rqBase := 331776, cqBase := 335872, sqLog2 := 4, rqLog2 := 4, cqLog2 := 4 }), (1542, { st := .rts, remNode := 4, remPart := 1, remQpn := 601, sqBase := 327680, rqBase := 331776, cqBase := 335872, sqLog2 := 4, rqLog2 := 4, cqLog2 := 4 })], tier := { pages := [(5, { st := .resident .basin, frame := 0, frameTier := .basin })], dirs := [(0, { valid := true, used := 1, leaf := 257 })], leaves := [(257, true)], frames := [(67108864, true)] } },
     3,
     { fromNode := 4, fromPart := 1, ctrlQp := 0, copy := false, resume := false, status := 0, ctx := 2, reqId := 55, layers := 1, pages := 1, stride := 1, base := 327680, base2 := 655360, key := 0, sideBytes := 0, ttlMs := 1000, kvLen := 9, stage := 0 },
     by decide +kernel⟩⟩

/-- The hypotheses of TransfersMakeProgress can be met, clause by clause. -/
theorem wit_TransfersMakeProgress :
    (∃ (s : State) (p : PartId) (pass : Fin 128) (layer : Fin 256) (i : Nat) (c : MoveCtx), ((s.mover p).ctxs.filter
      (fun e => e.2.kind == 0 && e.2.pass == pass.val && decide (e.2.state ≤ 3) && Map.get 0 e.2.layerAt layer.val !=
      0 && !e.2.staged.contains layer.val) = [(i, c)]) ∧ s.ctx p i = c ∧ s.fenced p = false ∧ s.ready (.move p) =
      true ∧ (c.sideBytes = 0 ∨ s.writable (stageOff c.localBase c.layers c.stride c.pages c.sideBytes layer.val 0)
      (c.pages * c.sideBytes) = true)) ∧
    (∃ (s : State) (p : PartId) (pass : Fin 128) (layer : Fin 256), ((s.mover p).ctxs.filter (fun e => e.2.kind == 0
      && e.2.pass == pass.val && decide (e.2.state ≤ 3) && Map.get 0 e.2.layerAt layer.val != 0 &&
      !e.2.staged.contains layer.val) = [])) ∧
    (∃ (s : State) (p : PartId) (c : Fin 256) (unit : Nat) (psn : Nat) (q : QpId) (x : MoveCtx) (w : RxWait) (old :
      Nat) (mask : Nat), s.fenced p = false ∧ s.qrm.fencing = [] ∧ (s.mover p).attaching = [(unit, psn)] ∧ q =
      Fin.ofNat 16384 unit ∧ s.ctx p c.val = x ∧ x.kind = 1 ∧ 1 ≤ x.state ∧ x.state ≤ 3 ∧ (s.qp q).remNode =
      x.peerNode ∧ (s.qp q).remPart = x.peerPart ∧ ((s.qp q).rxWaits.find? (fun v => v.psn == psn && v.op == 0x41) =
      some w) ∧ w.req.imm < x.layers ∧ x.sideBytes = 0 ∧ s.convs = [] ∧ (∀ e ∈ (s.mover p).ctxs, (e.1 ≠ c.val →
      e.2.state ≠ 1) ∧ e.2.parkNext = none) ∧ old = Map.get 0 x.layerDone w.req.imm ∧ (mask = if bit old ((s.qp
      q).remQpn.val % 512) then old else old + 2 ^ ((s.qp q).remQpn.val % 512))) ∧
    (∃ (s : State) (p : PartId) (c : Fin 256) (unit : Nat), (∀ a ∈ (s.mover p).attaching, a.1 ≠ unit)) ∧
    (∃ (s : State) (p : PartId) (id : Nat) (tm : Nat) (i : Nat) (k : Nat) (c : MoveCtx) (v : Conv), s.fenced p =
      false ∧ s.ready (.move p) = true ∧ (∀ e ∈ (s.mover p).ctxs, e.2.kind = 4 → e.1 ≠ i) ∧ ((s.mover
      p).parkWaits.find? (fun w => w.1 == id) = some (id, tm)) ∧ tm + s.fld (.move p) Reg.MOVE_PARK_RETRY_MS *
      1000000 ≤ s.now ∧ (s.ctxOf p 2 id = some (i, c)) ∧ s.ctx p i = c ∧ c.state = 1 ∧ c.asked = true ∧ c.reqId = id
      ∧ (s.convs.find? (fun v => v.part == p && v.reqId == id && v.st != .parked) = some v) ∧ ((s.setMover p
      { s.mover p with parkWaits := (s.mover p).parkWaits.filter fun w => w.1 != id }).keySlot c.remoteKey = some k)) ∧
    (∃ (s : State) (p : PartId) (id : Nat), (((s.mover p).parkWaits.find? (fun w => w.1 == id)).any (fun w => decide
      (s.now < w.2 + s.fld (.move p) Reg.MOVE_PARK_RETRY_MS * 1000000)) = true ∨ s.convs = [] ∧ (s.mover p).parkWaits
      = [] ∧ (∀ e ∈ (s.mover p).ctxs, e.2.parkNext = none))) :=
  ⟨⟨{ (st [(Reg.PG_READY_READY.place .tier, 1), (Reg.PG_READY_READY.place (.bas 0), 1), (Reg.BAS_MEM_STAT_ONLINE.place (.bas 0), 1), (Reg.BAS_MEM_FRAMES_FRAMES.place (.bas 0), 786432), (Reg.PG_READY_READY.place (.move 3), 1), (Reg.PG_READY_READY.place .srch, 1), (Reg.DEV_NODE_NODE.place .dev, 9), (Reg.MOVE_QP_CFG_FIRST.place (.move 3), 5), (Reg.MOVE_QP_CFG_COUNT.place (.move 3), 4)]) with qps := [(1541, { st := .rts, remNode := 4, remPart := 1, remQpn := 600, sqBase := 327680, rqBase := 331776, cqBase := 335872, sqLog2 := 4, rqLog2 := 4, cqLog2 := 4 }), (1542, { st := .rts, remNode := 4, remPart := 1, remQpn := 601, sqBase := 327680, rqBase := 331776, cqBase := 335872, sqLog2 := 4, rqLog2 := 4, cqLog2 := 4 })], movers := [(3, { ctxs := [(2, { kind := 0, state := 3, bound := true, qpFirst := 6, reqId := 55, layers := 2, pages := 1, stride := 1, localBase := 720896, remoteBase := 786432, pass := 2, peerNode := 4, peerPart := 1, layerAt := [(1, 50)] })] })], tier := { pages := [(5, { st := .resident .basin, frame := 0, frameTier := .basin })], dirs := [(0, { valid := true, used := 1, leaf := 257 })], leaves := [(257, true)], frames := [(67108864, true)] }, engines := [(6, { trigs := [{ qp := 1542, index := 0, src := 4, tag := 33281, released := false, since := 0 }] })] },
     3, 2, 1, 2,
     { kind := 0, state := 3, bound := true, qpFirst := 6, reqId := 55, layers := 2, pages := 1, stride := 1, localBase := 720896, remoteBase := 786432, pass := 2, peerNode := 4, peerPart := 1, layerAt := [(1, 50)] },
     by decide +kernel⟩,
   ⟨{ (st [(Reg.PG_READY_READY.place .tier, 1), (Reg.PG_READY_READY.place (.bas 0), 1), (Reg.BAS_MEM_STAT_ONLINE.place (.bas 0), 1), (Reg.BAS_MEM_FRAMES_FRAMES.place (.bas 0), 786432), (Reg.PG_READY_READY.place (.move 3), 1), (Reg.PG_READY_READY.place .srch, 1), (Reg.DEV_NODE_NODE.place .dev, 9), (Reg.MOVE_QP_CFG_FIRST.place (.move 3), 5), (Reg.MOVE_QP_CFG_COUNT.place (.move 3), 4)]) with qps := [(1541, { st := .rts, remNode := 4, remPart := 1, remQpn := 600, sqBase := 327680, rqBase := 331776, cqBase := 335872, sqLog2 := 4, rqLog2 := 4, cqLog2 := 4 }), (1542, { st := .rts, remNode := 4, remPart := 1, remQpn := 601, sqBase := 327680, rqBase := 331776, cqBase := 335872, sqLog2 := 4, rqLog2 := 4, cqLog2 := 4 })], tier := { pages := [(5, { st := .resident .basin, frame := 0, frameTier := .basin })], dirs := [(0, { valid := true, used := 1, leaf := 257 })], leaves := [(257, true)], frames := [(67108864, true)] } },
     3, 2, 1, by decide +kernel⟩,
   ⟨{ (st [(Reg.PG_READY_READY.place .tier, 1), (Reg.PG_READY_READY.place (.bas 0), 1), (Reg.BAS_MEM_STAT_ONLINE.place (.bas 0), 1), (Reg.BAS_MEM_FRAMES_FRAMES.place (.bas 0), 786432), (Reg.PG_READY_READY.place (.move 3), 1), (Reg.PG_READY_READY.place .srch, 1), (Reg.DEV_NODE_NODE.place .dev, 9), (Reg.MOVE_QP_CFG_FIRST.place (.move 3), 5), (Reg.MOVE_QP_CFG_COUNT.place (.move 3), 4)]) with qps := [(1541, { st := .rts, remNode := 4, remPart := 1, remQpn := 600, sqBase := 327680, rqBase := 331776, cqBase := 335872, sqLog2 := 4, rqLog2 := 4, cqLog2 := 4 }), (1542, { st := .rts, remNode := 4, remPart := 1, rxWaits := [{ op := 0x41, psn := 8, req := { tc := 0, last := true, place := false, prov := false, replace := false, srcNode := 4, dstQpn := 1542, psn := 8, specEpoch := 0, node := 9, part := 3, offset := 720896, key := 0, gen := 0, fireTag := 0, imm := 0, epoch := 0, srcQpn := 601, wrLen := 0, payload := [] }, done := true }], remQpn := 601, sqBase := 327680, rqBase := 331776, cqBase := 335872, sqLog2 := 4, rqLog2 := 4, cqLog2 := 4 })], movers := [(3, { ctxs := [(2, { kind := 1, state := 2, bound := true, qpFirst := 6, reqId := 55, layers := 1, pages := 1, stride := 1, localBase := 720896, peerNode := 4, peerPart := 1 })], attaching := [(1542, 8)] })], tier := { pages := [(5, { st := .resident .basin, frame := 0, frameTier := .basin })], dirs := [(0, { valid := true, used := 1, leaf := 257 })], leaves := [(257, true)], frames := [(67108864, true)] } },
     3, 2, 1542, 8, 1542,
     { kind := 1, state := 2, bound := true, qpFirst := 6, reqId := 55, layers := 1, pages := 1, stride := 1, localBase := 720896, peerNode := 4, peerPart := 1 },
     { op := 0x41, psn := 8, req := { tc := 0, last := true, place := false, prov := false, replace := false, srcNode := 4, dstQpn := 1542, psn := 8, specEpoch := 0, node := 9, part := 3, offset := 720896, key := 0, gen := 0, fireTag := 0, imm := 0, epoch := 0, srcQpn := 601, wrLen := 0, payload := [] }, done := true },
     0, 2 ^ 89, by decide +kernel⟩,
   ⟨{ (st [(Reg.PG_READY_READY.place .tier, 1), (Reg.PG_READY_READY.place (.bas 0), 1), (Reg.BAS_MEM_STAT_ONLINE.place (.bas 0), 1), (Reg.BAS_MEM_FRAMES_FRAMES.place (.bas 0), 786432), (Reg.PG_READY_READY.place (.move 3), 1), (Reg.PG_READY_READY.place .srch, 1), (Reg.DEV_NODE_NODE.place .dev, 9), (Reg.MOVE_QP_CFG_FIRST.place (.move 3), 5), (Reg.MOVE_QP_CFG_COUNT.place (.move 3), 4)]) with qps := [(1541, { st := .rts, remNode := 4, remPart := 1, remQpn := 600, sqBase := 327680, rqBase := 331776, cqBase := 335872, sqLog2 := 4, rqLog2 := 4, cqLog2 := 4 }), (1542, { st := .rts, remNode := 4, remPart := 1, remQpn := 601, sqBase := 327680, rqBase := 331776, cqBase := 335872, sqLog2 := 4, rqLog2 := 4, cqLog2 := 4 })], tier := { pages := [(5, { st := .resident .basin, frame := 0, frameTier := .basin })], dirs := [(0, { valid := true, used := 1, leaf := 257 })], leaves := [(257, true)], frames := [(67108864, true)] } },
     3, 2, 1542, by decide +kernel⟩,
   ⟨{ (st [(Reg.PG_READY_READY.place .tier, 1), (Reg.PG_READY_READY.place (.bas 0), 1), (Reg.BAS_MEM_STAT_ONLINE.place (.bas 0), 1), (Reg.BAS_MEM_FRAMES_FRAMES.place (.bas 0), 786432), (Reg.PG_READY_READY.place (.move 3), 1), (Reg.PG_READY_READY.place .srch, 1), (Reg.DEV_NODE_NODE.place .dev, 9), (Reg.MOVE_QP_CFG_FIRST.place (.move 3), 5), (Reg.MOVE_QP_CFG_COUNT.place (.move 3), 4)]) with qps := [(1541, { st := .rts, remNode := 4, remPart := 1, remQpn := 600, sqBase := 327680, rqBase := 331776, cqBase := 335872, sqLog2 := 4, rqLog2 := 4, cqLog2 := 4 }), (1542, { st := .rts, remNode := 4, remPart := 1, remQpn := 601, sqBase := 327680, rqBase := 331776, cqBase := 335872, sqLog2 := 4, rqLog2 := 4, cqLog2 := 4 })], movers := [(3, { ctxs := [(2, { kind := 2, state := 1, bound := true, asked := true, qpFirst := 6, reqId := 55, layers := 1, pages := 1, stride := 1, localBase := 720896, remoteBase := 131072, remoteKey := 99, peerNode := 4, peerPart := 1 })], parkWaits := [(55, 10)] })], tier := { pages := [(5, { st := .resident .basin, frame := 0, frameTier := .basin })], dirs := [(0, { valid := true, used := 1, leaf := 257 })], leaves := [(257, true)], frames := [(67108864, true)] }, convs := [{ tenant := 1, convId := 7, st := .resident, part := 3, slot := 0, need := 0, kvLen := 9, layers := 1, model := 0, reqId := 55, handleAddr := 0, handle := 0, idleFrom := 0 }], now := 10000000000 },
     3, 55, 10, 2, 0,
     { kind := 2, state := 1, bound := true, asked := true, qpFirst := 6, reqId := 55, layers := 1, pages := 1, stride := 1, localBase := 720896, remoteBase := 131072, remoteKey := 99, peerNode := 4, peerPart := 1 },
     { tenant := 1, convId := 7, st := .resident, part := 3, slot := 0, need := 0, kvLen := 9, layers := 1, model := 0, reqId := 55, handleAddr := 0, handle := 0, idleFrom := 0 },
     by decide +kernel⟩,
   ⟨{ (st [(Reg.PG_READY_READY.place .tier, 1), (Reg.PG_READY_READY.place (.bas 0), 1), (Reg.BAS_MEM_STAT_ONLINE.place (.bas 0), 1), (Reg.BAS_MEM_FRAMES_FRAMES.place (.bas 0), 786432), (Reg.PG_READY_READY.place (.move 3), 1), (Reg.PG_READY_READY.place .srch, 1), (Reg.DEV_NODE_NODE.place .dev, 9), (Reg.MOVE_QP_CFG_FIRST.place (.move 3), 5), (Reg.MOVE_QP_CFG_COUNT.place (.move 3), 4)]) with qps := [(1541, { st := .rts, remNode := 4, remPart := 1, remQpn := 600, sqBase := 327680, rqBase := 331776, cqBase := 335872, sqLog2 := 4, rqLog2 := 4, cqLog2 := 4 }), (1542, { st := .rts, remNode := 4, remPart := 1, remQpn := 601, sqBase := 327680, rqBase := 331776, cqBase := 335872, sqLog2 := 4, rqLog2 := 4, cqLog2 := 4 })], movers := [(3, { parkWaits := [(55, 10)] })], tier := { pages := [(5, { st := .resident .basin, frame := 0, frameTier := .basin })], dirs := [(0, { valid := true, used := 1, leaf := 257 })], leaves := [(257, true)], frames := [(67108864, true)] }, now := 10 },
     3, 55, by decide +kernel⟩⟩

/-- The hypotheses of AdapterCommandsRun can be met, clause by clause. -/
theorem wit_AdapterCommandsRun :
    (∃ (s : State) (p : PartId) (k : Fin 64), s.ready (.move p) = true ∧ s.fld (.move p) Reg.MOVE_ADP_CMD_BUSY = 0 ∧
      s.adpState p k.val = 0 ∧ ((List.range 64).any (fun j => s.adpState p j != 0 && s.fld (.move p) Reg.ADP_SLOT_ID
      j == s.fld (.move p) Reg.MOVE_ADP_NEW_ID && s.fld (.move p) Reg.ADP_SLOT_VERSION j == s.fld (.move p)
      Reg.MOVE_ADP_NEW_VERSION) = false) ∧ (¬ (s.fld (.move p) Reg.MOVE_ADP_STRIDE_PAGES * 65536 < s.fld (.move p)
      Reg.MOVE_ADP_LEN_LEN ∨ s.fld (.move p) Reg.MOVE_ADP_LEN_LEN = 0 ∨ s.fld (.move p) Reg.MOVE_ADP_LEN_LEN % 64 ≠ 0
      ∨ s.fld (.move p) Reg.MOVE_ADP_RANK_RANK = 0 ∨ 256 < s.fld (.move p) Reg.MOVE_ADP_RANK_RANK))) ∧
    (∃ (s : State) (p : PartId) (k : Fin 64), s.ready (.move p) = true ∧ s.fld (.move p) Reg.MOVE_ADP_CMD_BUSY = 0 ∧
      s.adpState p k.val ≠ 0) ∧
    (∃ (s : State) (p : PartId) (k : Fin 64), s.ready (.move p) = true ∧ s.fld (.move p) Reg.MOVE_ADP_CMD_BUSY = 0 ∧
      s.adpState p k.val = 0 ∧ ((List.range 64).any (fun j => s.adpState p j != 0 && s.fld (.move p) Reg.ADP_SLOT_ID
      j == s.fld (.move p) Reg.MOVE_ADP_NEW_ID && s.fld (.move p) Reg.ADP_SLOT_VERSION j == s.fld (.move p)
      Reg.MOVE_ADP_NEW_VERSION) = true)) ∧
    (∃ (s : State) (p : PartId) (k : Fin 64), s.ready (.move p) = true ∧ s.fld (.move p) Reg.MOVE_ADP_CMD_BUSY = 0 ∧
      s.adpState p k.val = 0 ∧ ((List.range 64).any (fun j => s.adpState p j != 0 && s.fld (.move p) Reg.ADP_SLOT_ID
      j == s.fld (.move p) Reg.MOVE_ADP_NEW_ID && s.fld (.move p) Reg.ADP_SLOT_VERSION j == s.fld (.move p)
      Reg.MOVE_ADP_NEW_VERSION) = false) ∧ (s.fld (.move p) Reg.MOVE_ADP_STRIDE_PAGES * 65536 < s.fld (.move p)
      Reg.MOVE_ADP_LEN_LEN ∨ s.fld (.move p) Reg.MOVE_ADP_LEN_LEN = 0 ∨ s.fld (.move p) Reg.MOVE_ADP_LEN_LEN % 64 ≠ 0
      ∨ s.fld (.move p) Reg.MOVE_ADP_RANK_RANK = 0 ∨ 256 < s.fld (.move p) Reg.MOVE_ADP_RANK_RANK)) ∧
    (∃ (s : State) (p : PartId) (a : AdpLoad), ((s.mover p).adpLoad = some a) ∧ a.slot < 64) ∧
    (∃ (s : State) (p : PartId) (a : AdpLoad), ((s.mover p).adpLoad = some a) ∧ a.slot < 64 ∧ s.tier.answers = [] ∧
      (∃ g ∈ pagesOf a.src a.len, s.serveRead g = .poisoned)) ∧
    (∃ (s : State) (p : PartId) (a : AdpLoad) (home : TierName) (d : Nat), ((s.mover p).adpLoad = some a) ∧ a.slot <
      64 ∧ s.tier.answers = [] ∧ s.readable a.src a.len ∧ d = s.fldAddr (.move p) Reg.MOVE_ADP_BASE_LO_BASE_LO
      Reg.MOVE_ADP_BASE_HI_BASE_HI + a.slot * s.fld (.move p) Reg.MOVE_ADP_STRIDE_PAGES * 65536 ∧ a.len ≠ 0 ∧ d %
      65536 + a.len ≤ 65536 ∧ (s.leaf (pageOf d)).st = .resident home ∧ s.heldOn (pageOf d) = [] ∧ a.rank < 2 ^
      Reg.ADP_SLOT_RANK.width ∧ a.len < 2 ^ Reg.ADP_SLOT_LEN.width ∧ a.id < 2 ^ Reg.ADP_SLOT_ID.width ∧ a.version < 2
      ^ Reg.ADP_SLOT_VERSION.width) ∧
    (∃ (s : State) (p : PartId) (fault : Bool), (s.mover p).adpLoad = none) ∧
    (∃ (s : State) (p : PartId) (k : Fin 64), s.ready (.move p) = true ∧ s.fld (.move p) Reg.MOVE_ADP_CMD_BUSY = 0 ∧
      s.adpState p k.val = 2) ∧
    (∃ (s : State) (p : PartId) (k : Fin 64), s.ready (.move p) = true ∧ s.fld (.move p) Reg.MOVE_ADP_CMD_BUSY = 0 ∧
      (s.adpState p k.val = 2 ∨ s.adpState p k.val = 3) ∧ (s.reqs.filter (fun r => r.genPart == some p && r.adapter
      == some k.val && !r.recorded) = [])) ∧
    (∃ (s : State) (p : PartId) (k : Fin 64), s.ready (.move p) = true ∧ s.fld (.move p) Reg.MOVE_ADP_CMD_BUSY = 0 ∧
      s.adpState p k.val ≠ 2) ∧
    (∃ (s : State) (p : PartId) (k : Fin 64), s.ready (.move p) = true ∧ s.fld (.move p) Reg.MOVE_ADP_CMD_BUSY = 0 ∧
      s.adpState p k.val ≠ 2 ∧ s.adpState p k.val ≠ 3) ∧
    (∃ (s : State) (p : PartId) (k : Fin 64), s.ready (.move p) = true ∧ s.fld (.move p) Reg.MOVE_ADP_CMD_BUSY ≠ 0) :=
  ⟨⟨{ (st [(Reg.PG_READY_READY.place .tier, 1), (Reg.PG_READY_READY.place (.bas 0), 1), (Reg.BAS_MEM_STAT_ONLINE.place (.bas 0), 1), (Reg.BAS_MEM_FRAMES_FRAMES.place (.bas 0), 786432), (Reg.PG_READY_READY.place (.move 3), 1), (Reg.PG_READY_READY.place .srch, 1), (Reg.DEV_NODE_NODE.place .dev, 9), (Reg.MOVE_QP_CFG_FIRST.place (.move 3), 5), (Reg.MOVE_QP_CFG_COUNT.place (.move 3), 4), (Reg.MOVE_ADP_STRIDE_PAGES.place (.move 3), 1), (Reg.MOVE_ADP_LEN_LEN.place (.move 3), 128), (Reg.MOVE_ADP_RANK_RANK.place (.move 3), 16), (Reg.MOVE_ADP_NEW_ID.place (.move 3), 77), (Reg.MOVE_ADP_NEW_VERSION.place (.move 3), 2)]) with now := 5 },
     3, 4, by decide +kernel⟩,
   ⟨{ (st [(Reg.PG_READY_READY.place .tier, 1), (Reg.PG_READY_READY.place (.bas 0), 1), (Reg.BAS_MEM_STAT_ONLINE.place (.bas 0), 1), (Reg.BAS_MEM_FRAMES_FRAMES.place (.bas 0), 786432), (Reg.PG_READY_READY.place (.move 3), 1), (Reg.PG_READY_READY.place .srch, 1), (Reg.DEV_NODE_NODE.place .dev, 9), (Reg.MOVE_QP_CFG_FIRST.place (.move 3), 5), (Reg.MOVE_QP_CFG_COUNT.place (.move 3), 4), (Reg.MOVE_ADP_STRIDE_PAGES.place (.move 3), 1), (Reg.MOVE_ADP_LEN_LEN.place (.move 3), 128), (Reg.MOVE_ADP_RANK_RANK.place (.move 3), 16), (Reg.MOVE_ADP_NEW_ID.place (.move 3), 77), (Reg.MOVE_ADP_NEW_VERSION.place (.move 3), 2), (Reg.ADP_SLOT_STATE.place (.move 3) 4, 2)]) with now := 5 },
     3, 4, by decide +kernel⟩,
   ⟨{ (st [(Reg.PG_READY_READY.place .tier, 1), (Reg.PG_READY_READY.place (.bas 0), 1), (Reg.BAS_MEM_STAT_ONLINE.place (.bas 0), 1), (Reg.BAS_MEM_FRAMES_FRAMES.place (.bas 0), 786432), (Reg.PG_READY_READY.place (.move 3), 1), (Reg.PG_READY_READY.place .srch, 1), (Reg.DEV_NODE_NODE.place .dev, 9), (Reg.MOVE_QP_CFG_FIRST.place (.move 3), 5), (Reg.MOVE_QP_CFG_COUNT.place (.move 3), 4), (Reg.MOVE_ADP_STRIDE_PAGES.place (.move 3), 1), (Reg.MOVE_ADP_LEN_LEN.place (.move 3), 128), (Reg.MOVE_ADP_RANK_RANK.place (.move 3), 16), (Reg.MOVE_ADP_NEW_ID.place (.move 3), 77), (Reg.MOVE_ADP_NEW_VERSION.place (.move 3), 2), (Reg.ADP_SLOT_STATE.place (.move 3) 9, 2), (Reg.ADP_SLOT_ID.place (.move 3) 9, 77), (Reg.ADP_SLOT_VERSION.place (.move 3) 9, 2)]) with now := 5 },
     3, 4, by decide +kernel⟩,
   ⟨{ (st [(Reg.PG_READY_READY.place .tier, 1), (Reg.PG_READY_READY.place (.bas 0), 1), (Reg.BAS_MEM_STAT_ONLINE.place (.bas 0), 1), (Reg.BAS_MEM_FRAMES_FRAMES.place (.bas 0), 786432), (Reg.PG_READY_READY.place (.move 3), 1), (Reg.PG_READY_READY.place .srch, 1), (Reg.DEV_NODE_NODE.place .dev, 9), (Reg.MOVE_QP_CFG_FIRST.place (.move 3), 5), (Reg.MOVE_QP_CFG_COUNT.place (.move 3), 4), (Reg.MOVE_ADP_STRIDE_PAGES.place (.move 3), 1), (Reg.MOVE_ADP_LEN_LEN.place (.move 3), 128), (Reg.MOVE_ADP_RANK_RANK.place (.move 3), 16), (Reg.MOVE_ADP_NEW_ID.place (.move 3), 77), (Reg.MOVE_ADP_NEW_VERSION.place (.move 3), 2), (Reg.MOVE_ADP_LEN_LEN.place (.move 3), 65600)]) with now := 5 },
     3, 4, by decide +kernel⟩,
   ⟨{ (st [(Reg.PG_READY_READY.place .tier, 1), (Reg.PG_READY_READY.place (.bas 0), 1), (Reg.BAS_MEM_STAT_ONLINE.place (.bas 0), 1), (Reg.BAS_MEM_FRAMES_FRAMES.place (.bas 0), 786432), (Reg.PG_READY_READY.place (.move 3), 1), (Reg.PG_READY_READY.place .srch, 1), (Reg.DEV_NODE_NODE.place .dev, 9), (Reg.MOVE_QP_CFG_FIRST.place (.move 3), 5), (Reg.MOVE_QP_CFG_COUNT.place (.move 3), 4), (Reg.MOVE_ADP_STRIDE_PAGES.place (.move 3), 1), (Reg.MOVE_ADP_LEN_LEN.place (.move 3), 128), (Reg.MOVE_ADP_RANK_RANK.place (.move 3), 16), (Reg.MOVE_ADP_NEW_ID.place (.move 3), 77), (Reg.MOVE_ADP_NEW_VERSION.place (.move 3), 2), (Reg.ADP_SLOT_STATE.place (.move 3) 4, 1), (Reg.ADP_SLOT_LEN.place (.move 3) 4, 128), (Reg.ADP_SLOT_ID.place (.move 3) 4, 77), (Reg.MOVE_ADP_CMD_BUSY.place (.move 3), 1), (Reg.MOVE_ADP_SRC_LO_SRC_LO.place (.move 3), (327680 / 2 ^ Reg.MOVE_ADP_SRC_LO_SRC_LO.lo)), (Reg.MOVE_ADP_BASE_LO_BASE_LO.place (.move 3), (65536 / 2 ^ Reg.MOVE_ADP_BASE_LO_BASE_LO.lo))]) with now := 5, movers := [(3, { adpLoad := some { slot := 4, src := 327680, id := 77, version := 2, rank := 16, len := 128 } })] },
     3, { slot := 4, src := 327680, id := 77, version := 2, rank := 16, len := 128 }, by decide +kernel⟩,
   ⟨{ (st [(Reg.PG_READY_READY.place .tier, 1), (Reg.PG_READY_READY.place (.bas 0), 1), (Reg.BAS_MEM_STAT_ONLINE.place (.bas 0), 1), (Reg.BAS_MEM_FRAMES_FRAMES.place (.bas 0), 786432), (Reg.PG_READY_READY.place (.move 3), 1), (Reg.PG_READY_READY.place .srch, 1), (Reg.DEV_NODE_NODE.place .dev, 9), (Reg.MOVE_QP_CFG_FIRST.place (.move 3), 5), (Reg.MOVE_QP_CFG_COUNT.place (.move 3), 4), (Reg.MOVE_ADP_STRIDE_PAGES.place (.move 3), 1), (Reg.MOVE_ADP_LEN_LEN.place (.move 3), 128), (Reg.MOVE_ADP_RANK_RANK.place (.move 3), 16), (Reg.MOVE_ADP_NEW_ID.place (.move 3), 77), (Reg.MOVE_ADP_NEW_VERSION.place (.move 3), 2), (Reg.ADP_SLOT_STATE.place (.move 3) 4, 1), (Reg.ADP_SLOT_LEN.place (.move 3) 4, 128), (Reg.ADP_SLOT_ID.place (.move 3) 4, 77), (Reg.MOVE_ADP_CMD_BUSY.place (.move 3), 1), (Reg.MOVE_ADP_SRC_LO_SRC_LO.place (.move 3), (327680 / 2 ^ Reg.MOVE_ADP_SRC_LO_SRC_LO.lo)), (Reg.MOVE_ADP_BASE_LO_BASE_LO.place (.move 3), (65536 / 2 ^ Reg.MOVE_ADP_BASE_LO_BASE_LO.lo))]) with now := 5, movers := [(3, { adpLoad := some { slot := 4, src := 327680, id := 77, version := 2, rank := 16, len := 128 } })], mem := [(327690, 7)], tier := { pages := [(5, { st := .poisoned, frame := 0, frameTier := .basin })] } },
     3, { slot := 4, src := 327680, id := 77, version := 2, rank := 16, len := 128 }, by decide +kernel⟩,
   ⟨{ (st [(Reg.PG_READY_READY.place .tier, 1), (Reg.PG_READY_READY.place (.bas 0), 1), (Reg.BAS_MEM_STAT_ONLINE.place (.bas 0), 1), (Reg.BAS_MEM_FRAMES_FRAMES.place (.bas 0), 786432), (Reg.PG_READY_READY.place (.move 3), 1), (Reg.PG_READY_READY.place .srch, 1), (Reg.DEV_NODE_NODE.place .dev, 9), (Reg.MOVE_QP_CFG_FIRST.place (.move 3), 5), (Reg.MOVE_QP_CFG_COUNT.place (.move 3), 4), (Reg.MOVE_ADP_STRIDE_PAGES.place (.move 3), 1), (Reg.MOVE_ADP_LEN_LEN.place (.move 3), 128), (Reg.MOVE_ADP_RANK_RANK.place (.move 3), 16), (Reg.MOVE_ADP_NEW_ID.place (.move 3), 77), (Reg.MOVE_ADP_NEW_VERSION.place (.move 3), 2), (Reg.ADP_SLOT_STATE.place (.move 3) 4, 1), (Reg.ADP_SLOT_LEN.place (.move 3) 4, 128), (Reg.ADP_SLOT_ID.place (.move 3) 4, 77), (Reg.MOVE_ADP_CMD_BUSY.place (.move 3), 1), (Reg.MOVE_ADP_SRC_LO_SRC_LO.place (.move 3), (327680 / 2 ^ Reg.MOVE_ADP_SRC_LO_SRC_LO.lo)), (Reg.MOVE_ADP_BASE_LO_BASE_LO.place (.move 3), (65536 / 2 ^ Reg.MOVE_ADP_BASE_LO_BASE_LO.lo))]) with now := 5, movers := [(3, { adpLoad := some { slot := 4, src := 327680, id := 77, version := 2, rank := 16, len := 128 } })], mem := [(327690, 7)], tier := { pages := [(5, { st := .resident .basin, frame := 0, frameTier := .basin })] } },
     3, { slot := 4, src := 327680, id := 77, version := 2, rank := 16, len := 128 }, .basin, 327680,
     by decide +kernel⟩,
   ⟨{ (st [(Reg.PG_READY_READY.place .tier, 1), (Reg.PG_READY_READY.place (.bas 0), 1), (Reg.BAS_MEM_STAT_ONLINE.place (.bas 0), 1), (Reg.BAS_MEM_FRAMES_FRAMES.place (.bas 0), 786432), (Reg.PG_READY_READY.place (.move 3), 1), (Reg.PG_READY_READY.place .srch, 1), (Reg.DEV_NODE_NODE.place .dev, 9), (Reg.MOVE_QP_CFG_FIRST.place (.move 3), 5), (Reg.MOVE_QP_CFG_COUNT.place (.move 3), 4)]) with qps := [(1541, { st := .rts, remNode := 4, remPart := 1, remQpn := 600, sqBase := 327680, rqBase := 331776, cqBase := 335872, sqLog2 := 4, rqLog2 := 4, cqLog2 := 4 }), (1542, { st := .rts, remNode := 4, remPart := 1, remQpn := 601, sqBase := 327680, rqBase := 331776, cqBase := 335872, sqLog2 := 4, rqLog2 := 4, cqLog2 := 4 })], tier := { pages := [(5, { st := .resident .basin, frame := 0, frameTier := .basin })], dirs := [(0, { valid := true, used := 1, leaf := 257 })], leaves := [(257, true)], frames := [(67108864, true)] } },
     3, true, by decide +kernel⟩,
   ⟨{ (st [(Reg.PG_READY_READY.place .tier, 1), (Reg.PG_READY_READY.place (.bas 0), 1), (Reg.BAS_MEM_STAT_ONLINE.place (.bas 0), 1), (Reg.BAS_MEM_FRAMES_FRAMES.place (.bas 0), 786432), (Reg.PG_READY_READY.place (.move 3), 1), (Reg.PG_READY_READY.place .srch, 1), (Reg.DEV_NODE_NODE.place .dev, 9), (Reg.MOVE_QP_CFG_FIRST.place (.move 3), 5), (Reg.MOVE_QP_CFG_COUNT.place (.move 3), 4), (Reg.MOVE_ADP_STRIDE_PAGES.place (.move 3), 1), (Reg.MOVE_ADP_LEN_LEN.place (.move 3), 128), (Reg.MOVE_ADP_RANK_RANK.place (.move 3), 16), (Reg.MOVE_ADP_NEW_ID.place (.move 3), 77), (Reg.MOVE_ADP_NEW_VERSION.place (.move 3), 2), (Reg.ADP_SLOT_STATE.place (.move 3) 4, 2)]) with now := 5 },
     3, 4, by decide +kernel⟩,
   ⟨{ (st [(Reg.PG_READY_READY.place .tier, 1), (Reg.PG_READY_READY.place (.bas 0), 1), (Reg.BAS_MEM_STAT_ONLINE.place (.bas 0), 1), (Reg.BAS_MEM_FRAMES_FRAMES.place (.bas 0), 786432), (Reg.PG_READY_READY.place (.move 3), 1), (Reg.PG_READY_READY.place .srch, 1), (Reg.DEV_NODE_NODE.place .dev, 9), (Reg.MOVE_QP_CFG_FIRST.place (.move 3), 5), (Reg.MOVE_QP_CFG_COUNT.place (.move 3), 4), (Reg.MOVE_ADP_STRIDE_PAGES.place (.move 3), 1), (Reg.MOVE_ADP_LEN_LEN.place (.move 3), 128), (Reg.MOVE_ADP_RANK_RANK.place (.move 3), 16), (Reg.MOVE_ADP_NEW_ID.place (.move 3), 77), (Reg.MOVE_ADP_NEW_VERSION.place (.move 3), 2), (Reg.ADP_SLOT_STATE.place (.move 3) 4, 3)]) with now := 5 },
     3, 4, by decide +kernel⟩,
   ⟨{ (st [(Reg.PG_READY_READY.place .tier, 1), (Reg.PG_READY_READY.place (.bas 0), 1), (Reg.BAS_MEM_STAT_ONLINE.place (.bas 0), 1), (Reg.BAS_MEM_FRAMES_FRAMES.place (.bas 0), 786432), (Reg.PG_READY_READY.place (.move 3), 1), (Reg.PG_READY_READY.place .srch, 1), (Reg.DEV_NODE_NODE.place .dev, 9), (Reg.MOVE_QP_CFG_FIRST.place (.move 3), 5), (Reg.MOVE_QP_CFG_COUNT.place (.move 3), 4), (Reg.MOVE_ADP_STRIDE_PAGES.place (.move 3), 1), (Reg.MOVE_ADP_LEN_LEN.place (.move 3), 128), (Reg.MOVE_ADP_RANK_RANK.place (.move 3), 16), (Reg.MOVE_ADP_NEW_ID.place (.move 3), 77), (Reg.MOVE_ADP_NEW_VERSION.place (.move 3), 2)]) with now := 5 },
     3, 4, by decide +kernel⟩,
   ⟨{ (st [(Reg.PG_READY_READY.place .tier, 1), (Reg.PG_READY_READY.place (.bas 0), 1), (Reg.BAS_MEM_STAT_ONLINE.place (.bas 0), 1), (Reg.BAS_MEM_FRAMES_FRAMES.place (.bas 0), 786432), (Reg.PG_READY_READY.place (.move 3), 1), (Reg.PG_READY_READY.place .srch, 1), (Reg.DEV_NODE_NODE.place .dev, 9), (Reg.MOVE_QP_CFG_FIRST.place (.move 3), 5), (Reg.MOVE_QP_CFG_COUNT.place (.move 3), 4), (Reg.MOVE_ADP_STRIDE_PAGES.place (.move 3), 1), (Reg.MOVE_ADP_LEN_LEN.place (.move 3), 128), (Reg.MOVE_ADP_RANK_RANK.place (.move 3), 16), (Reg.MOVE_ADP_NEW_ID.place (.move 3), 77), (Reg.MOVE_ADP_NEW_VERSION.place (.move 3), 2)]) with now := 5 },
     3, 4, by decide +kernel⟩,
   ⟨{ (st [(Reg.PG_READY_READY.place .tier, 1), (Reg.PG_READY_READY.place (.bas 0), 1), (Reg.BAS_MEM_STAT_ONLINE.place (.bas 0), 1), (Reg.BAS_MEM_FRAMES_FRAMES.place (.bas 0), 786432), (Reg.PG_READY_READY.place (.move 3), 1), (Reg.PG_READY_READY.place .srch, 1), (Reg.DEV_NODE_NODE.place .dev, 9), (Reg.MOVE_QP_CFG_FIRST.place (.move 3), 5), (Reg.MOVE_QP_CFG_COUNT.place (.move 3), 4), (Reg.MOVE_ADP_STRIDE_PAGES.place (.move 3), 1), (Reg.MOVE_ADP_LEN_LEN.place (.move 3), 128), (Reg.MOVE_ADP_RANK_RANK.place (.move 3), 16), (Reg.MOVE_ADP_NEW_ID.place (.move 3), 77), (Reg.MOVE_ADP_NEW_VERSION.place (.move 3), 2), (Reg.MOVE_ADP_CMD_BUSY.place (.move 3), 1)]) with now := 5 },
     3, 4, by decide +kernel⟩⟩

/-- The hypotheses of CacheEntriesExpire can be met, clause by clause. -/
theorem wit_CacheEntriesExpire :
    (∃ (s : State) (p : PartId), s.cacheOn p 0 = true ∧ s.fld .srch Reg.CACHE_CFG_ENTRIES p.val = 1 ∧ entState
      (s.entry p 0) = 2 ∧ entExpire (s.entry p 0) ≤ s.now ∧ entPins (s.entry p 0) = 0 ∧ s.writable (s.entryAddr p 0)
      64 = true ∧ (∀ k, k < entRange (s.entry p 0) → entBase (s.entry p 0) / 65536 + k ≠ pageOf (s.entryAddr p 0))) ∧
    (∃ (s : State) (p : PartId), s.cacheOn p 0 = true ∧ s.fld .srch Reg.CACHE_CFG_ENTRIES p.val = 1 ∧ entState
      (s.entry p 0) = 2 ∧ entExpire (s.entry p 0) ≤ s.now ∧ entPins (s.entry p 0) ≠ 0 ∧ s.writable (s.entryAddr p 0)
      64 = true) ∧
    (∃ (s : State) (p : PartId), s.fld .srch Reg.CACHE_CFG_ENTRIES p.val = 1 ∧ (s.cacheOn p 0 = false ∨ entState
      (s.entry p 0) ≠ 2 ∨ s.now < entExpire (s.entry p 0))) ∧
    (∃ (s : State) (p : PartId) (i : Fin 4096), s.cacheOn p i.val = true ∧ entState (s.entry p i.val) = 3 ∧ Map.get 0
      s.srch.lastPull (p.val * 4096 + i.val) - 1 + s.fld .srch Reg.CACHE_CFG_ORPHAN_S p.val * 1000000000 ≤ s.now ∧
      s.writable (s.entryAddr p i.val) 64 = true ∧ (∀ k, k < entRange (s.entry p i.val) → entBase (s.entry p i.val) /
      65536 + k ≠ pageOf (s.entryAddr p i.val))) ∧
    (∃ (s : State) (p : PartId) (i : Fin 4096), (entState (s.entry p i.val) ≠ 3 ∨ s.now < Map.get 0 s.srch.lastPull
      (p.val * 4096 + i.val) - 1 + s.fld .srch Reg.CACHE_CFG_ORPHAN_S p.val * 1000000000)) ∧
    (∃ (s : State) (p : PartId) (id : Nat) (cache : PartId) (node : Nat) (key : Word) (x : PfxSlot) (r : Req) (j :
      Nat) (c0 : MoveCtx) (k : Nat) (i : Nat), s.fenced p = false ∧ s.ready (.move p) = true ∧ (s.req id = some r) ∧
      (s.ctxOf p 0 id = some (j, c0)) ∧ (r.promptPart = some p) ∧ dNoPrefix r.desc = false ∧ r.endStatus = none ∧ 64
      ≤ r.promptTokens.length ∧ x.valid = true ∧ x.hash = chainHash (dNamespace r.desc) (dModelKey r.desc)
      (r.promptTokens.take 64) ∧ (s.keySlot key = some k) ∧ (s.freeCtx p = some i) ∧ ((s.mover p).ctxs.find? (fun e
      => e.2.reqId == c0.reqId && e.2.kind == 4 && decide (4 ≤ e.2.state) && !e.2.bound) = none) ∧ (∀ v ∈ s.convs,
      v.part ≠ p ∨ v.reqId ≠ id)) ∧
    (∃ (s : State) (p : PartId) (id : Nat) (cache : PartId) (node : Nat) (key : Word) (buckets : List (List
      PfxSlot)), (s.fenced p = true ∨ s.ready (.move p) = false ∨ s.req id = none ∨ s.ctxOf p 0 id = none)) ∧
    (∃ (s : State) (p : PartId) (id : Nat) (cache : PartId) (node : Nat) (key : Word) (rest : List (List PfxSlot)) (b
      : List PfxSlot) (r : Req), (s.req id = some r) ∧ (∀ x ∈ b, x.valid = false ∨ x.hash ≠ chainHash (dNamespace
      r.desc) (dModelKey r.desc) (r.promptTokens.take 64))) :=
  ⟨⟨{ (st [(Reg.PG_READY_READY.place .tier, 1), (Reg.PG_READY_READY.place (.bas 0), 1), (Reg.BAS_MEM_STAT_ONLINE.place (.bas 0), 1), (Reg.BAS_MEM_FRAMES_FRAMES.place (.bas 0), 786432), (Reg.PG_READY_READY.place (.move 3), 1), (Reg.PG_READY_READY.place .srch, 1), (Reg.DEV_NODE_NODE.place .dev, 9), (Reg.DISP_ROLE_CUR.place (.disp 3), 3), (Reg.SRCH_CTRL_EN.place .srch, 1), (Reg.CACHE_CFG_ENTRIES.place .srch 3, 1), (Reg.CACHE_CFG_TTL_MAX_S.place .srch 3, 60), (Reg.CACHE_CFG_PFX_RGN.place .srch 3, 1), (Reg.CACHE_CFG_ENT_BASE_LO.place .srch 3, (327680 / 2 ^ Reg.CACHE_CFG_ENT_BASE_LO.lo)), (Reg.CACHE_CFG_IDX_BASE_LO.place .srch 3, (393216 / 2 ^ Reg.CACHE_CFG_IDX_BASE_LO.lo)), (Reg.CACHE_CFG_RING_BASE_LO.place .srch 3, (458752 / 2 ^ Reg.CACHE_CFG_RING_BASE_LO.lo)), (Reg.CACHE_CFG_RING_LOG2.place .srch 3, 4), (Reg.CACHE_CFG_RING_EN.place .srch 3, 1)]) with tier := { pages := [(5, { st := .resident .basin, frame := 0, frameTier := .basin }), (6, { st := .resident .basin, frame := 8, frameTier := .basin }), (7, { st := .resident .basin, frame := 16, frameTier := .basin })], dirs := [(0, { valid := true, used := 1, leaf := 257 })], leaves := [(257, true)], frames := [(67108864, true), (67108872, true), (67108880, true)] }, mem := (Map.store ([] : Memory) 327680 (bytesOfNat 64 10679935676927786821761750686256969077883929784070979104683528524315777993942491825452334509457418)), now := 5 },
     3, by decide +kernel⟩,
   ⟨{ (st [(Reg.PG_READY_READY.place .tier, 1), (Reg.PG_READY_READY.place (.bas 0), 1), (Reg.BAS_MEM_STAT_ONLINE.place (.bas 0), 1), (Reg.BAS_MEM_FRAMES_FRAMES.place (.bas 0), 786432), (Reg.PG_READY_READY.place (.move 3), 1), (Reg.PG_READY_READY.place .srch, 1), (Reg.DEV_NODE_NODE.place .dev, 9), (Reg.DISP_ROLE_CUR.place (.disp 3), 3), (Reg.SRCH_CTRL_EN.place .srch, 1), (Reg.CACHE_CFG_ENTRIES.place .srch 3, 1), (Reg.CACHE_CFG_TTL_MAX_S.place .srch 3, 60), (Reg.CACHE_CFG_PFX_RGN.place .srch 3, 1), (Reg.CACHE_CFG_ENT_BASE_LO.place .srch 3, (327680 / 2 ^ Reg.CACHE_CFG_ENT_BASE_LO.lo)), (Reg.CACHE_CFG_IDX_BASE_LO.place .srch 3, (393216 / 2 ^ Reg.CACHE_CFG_IDX_BASE_LO.lo)), (Reg.CACHE_CFG_RING_BASE_LO.place .srch 3, (458752 / 2 ^ Reg.CACHE_CFG_RING_BASE_LO.lo)), (Reg.CACHE_CFG_RING_LOG2.place .srch 3, 4), (Reg.CACHE_CFG_RING_EN.place .srch 3, 1)]) with tier := { pages := [(5, { st := .resident .basin, frame := 0, frameTier := .basin }), (6, { st := .resident .basin, frame := 8, frameTier := .basin }), (7, { st := .resident .basin, frame := 16, frameTier := .basin })], dirs := [(0, { valid := true, used := 1, leaf := 257 })], leaves := [(257, true)], frames := [(67108864, true), (67108872, true), (67108880, true)] }, mem := (Map.store ([] : Memory) 327680 (bytesOfNat 64 10679935676927786821761750686256969077883929784070979104683528524315777993942491825452334509588490)), now := 5 },
     3, by decide +kernel⟩,
   ⟨{ (st [(Reg.PG_READY_READY.place .tier, 1), (Reg.PG_READY_READY.place (.bas 0), 1), (Reg.BAS_MEM_STAT_ONLINE.place (.bas 0), 1), (Reg.BAS_MEM_FRAMES_FRAMES.place (.bas 0), 786432), (Reg.PG_READY_READY.place (.move 3), 1), (Reg.PG_READY_READY.place .srch, 1), (Reg.DEV_NODE_NODE.place .dev, 9), (Reg.DISP_ROLE_CUR.place (.disp 3), 3), (Reg.SRCH_CTRL_EN.place .srch, 1), (Reg.CACHE_CFG_ENTRIES.place .srch 3, 1), (Reg.CACHE_CFG_TTL_MAX_S.place .srch 3, 60), (Reg.CACHE_CFG_PFX_RGN.place .srch 3, 1), (Reg.CACHE_CFG_ENT_BASE_LO.place .srch 3, (327680 / 2 ^ Reg.CACHE_CFG_ENT_BASE_LO.lo)), (Reg.CACHE_CFG_IDX_BASE_LO.place .srch 3, (393216 / 2 ^ Reg.CACHE_CFG_IDX_BASE_LO.lo)), (Reg.CACHE_CFG_RING_BASE_LO.place .srch 3, (458752 / 2 ^ Reg.CACHE_CFG_RING_BASE_LO.lo)), (Reg.CACHE_CFG_RING_LOG2.place .srch 3, 4), (Reg.CACHE_CFG_RING_EN.place .srch 3, 1)]) with tier := { pages := [(5, { st := .resident .basin, frame := 0, frameTier := .basin }), (6, { st := .resident .basin, frame := 8, frameTier := .basin }), (7, { st := .resident .basin, frame := 16, frameTier := .basin })], dirs := [(0, { valid := true, used := 1, leaf := 257 })], leaves := [(257, true)], frames := [(67108864, true), (67108872, true), (67108880, true)] }, mem := (Map.store ([] : Memory) 327680 (bytesOfNat 64 10679935676927786821761750686256969077883929784070979104683528524315777993942491825452334509457418)), now := 4 },
     3, by decide +kernel⟩,
   ⟨{ (st [(Reg.PG_READY_READY.place .tier, 1), (Reg.PG_READY_READY.place (.bas 0), 1), (Reg.BAS_MEM_STAT_ONLINE.place (.bas 0), 1), (Reg.BAS_MEM_FRAMES_FRAMES.place (.bas 0), 786432), (Reg.PG_READY_READY.place (.move 3), 1), (Reg.PG_READY_READY.place .srch, 1), (Reg.DEV_NODE_NODE.place .dev, 9), (Reg.DISP_ROLE_CUR.place (.disp 3), 3), (Reg.SRCH_CTRL_EN.place .srch, 1), (Reg.CACHE_CFG_ENTRIES.place .srch 3, 1), (Reg.CACHE_CFG_TTL_MAX_S.place .srch 3, 60), (Reg.CACHE_CFG_PFX_RGN.place .srch 3, 1), (Reg.CACHE_CFG_ENT_BASE_LO.place .srch 3, (327680 / 2 ^ Reg.CACHE_CFG_ENT_BASE_LO.lo)), (Reg.CACHE_CFG_IDX_BASE_LO.place .srch 3, (393216 / 2 ^ Reg.CACHE_CFG_IDX_BASE_LO.lo)), (Reg.CACHE_CFG_RING_BASE_LO.place .srch 3, (458752 / 2 ^ Reg.CACHE_CFG_RING_BASE_LO.lo)), (Reg.CACHE_CFG_RING_LOG2.place .srch 3, 4), (Reg.CACHE_CFG_RING_EN.place .srch 3, 1)]) with tier := { pages := [(5, { st := .resident .basin, frame := 0, frameTier := .basin }), (6, { st := .resident .basin, frame := 8, frameTier := .basin }), (7, { st := .resident .basin, frame := 16, frameTier := .basin })], dirs := [(0, { valid := true, used := 1, leaf := 257 })], leaves := [(257, true)], frames := [(67108864, true), (67108872, true), (67108880, true)] }, mem := (Map.store ([] : Memory) 327680 (bytesOfNat 64 10679935676927786821761750686256969077883929784070979104683528524315777993942491825452334509457411)), now := 10000000000000000 },
     3, 0, by decide +kernel⟩,
   ⟨{ (st [(Reg.PG_READY_READY.place .tier, 1), (Reg.PG_READY_READY.place (.bas 0), 1), (Reg.BAS_MEM_STAT_ONLINE.place (.bas 0), 1), (Reg.BAS_MEM_FRAMES_FRAMES.place (.bas 0), 786432), (Reg.PG_READY_READY.place (.move 3), 1), (Reg.PG_READY_READY.place .srch, 1), (Reg.DEV_NODE_NODE.place .dev, 9), (Reg.DISP_ROLE_CUR.place (.disp 3), 3), (Reg.SRCH_CTRL_EN.place .srch, 1), (Reg.CACHE_CFG_ENTRIES.place .srch 3, 1), (Reg.CACHE_CFG_TTL_MAX_S.place .srch 3, 60), (Reg.CACHE_CFG_PFX_RGN.place .srch 3, 1), (Reg.CACHE_CFG_ENT_BASE_LO.place .srch 3, (327680 / 2 ^ Reg.CACHE_CFG_ENT_BASE_LO.lo)), (Reg.CACHE_CFG_IDX_BASE_LO.place .srch 3, (393216 / 2 ^ Reg.CACHE_CFG_IDX_BASE_LO.lo)), (Reg.CACHE_CFG_RING_BASE_LO.place .srch 3, (458752 / 2 ^ Reg.CACHE_CFG_RING_BASE_LO.lo)), (Reg.CACHE_CFG_RING_LOG2.place .srch 3, 4), (Reg.CACHE_CFG_RING_EN.place .srch 3, 1)]) with tier := { pages := [(5, { st := .resident .basin, frame := 0, frameTier := .basin }), (6, { st := .resident .basin, frame := 8, frameTier := .basin }), (7, { st := .resident .basin, frame := 16, frameTier := .basin })], dirs := [(0, { valid := true, used := 1, leaf := 257 })], leaves := [(257, true)], frames := [(67108864, true), (67108872, true), (67108880, true)] }, mem := (Map.store ([] : Memory) 327680 (bytesOfNat 64 10679935676927786821761750686256969077883929784070979104683528524315777993942491825452334509457410)) },
     3, 0, by decide +kernel⟩,
   ⟨{ (st [(Reg.PG_READY_READY.place .tier, 1), (Reg.PG_READY_READY.place (.bas 0), 1), (Reg.BAS_MEM_STAT_ONLINE.place (.bas 0), 1), (Reg.BAS_MEM_FRAMES_FRAMES.place (.bas 0), 786432), (Reg.PG_READY_READY.place (.move 3), 1), (Reg.PG_READY_READY.place .srch, 1), (Reg.DEV_NODE_NODE.place .dev, 9), (Reg.DISP_ROLE_CUR.place (.disp 3), 3), (Reg.SRCH_CTRL_EN.place .srch, 1), (Reg.CACHE_CFG_ENTRIES.place .srch 3, 1), (Reg.CACHE_CFG_TTL_MAX_S.place .srch 3, 60), (Reg.CACHE_CFG_PFX_RGN.place .srch 3, 1), (Reg.CACHE_CFG_ENT_BASE_LO.place .srch 3, (327680 / 2 ^ Reg.CACHE_CFG_ENT_BASE_LO.lo)), (Reg.CACHE_CFG_IDX_BASE_LO.place .srch 3, (393216 / 2 ^ Reg.CACHE_CFG_IDX_BASE_LO.lo)), (Reg.CACHE_CFG_RING_BASE_LO.place .srch 3, (458752 / 2 ^ Reg.CACHE_CFG_RING_BASE_LO.lo)), (Reg.CACHE_CFG_RING_LOG2.place .srch 3, 4), (Reg.CACHE_CFG_RING_EN.place .srch 3, 1)]) with movers := [(3, { ctxs := [(0, { kind := 0, state := 3, reqId := 55, layers := 1, pages := 1, stride := 1, localBase := 720896, peerNode := 4, peerPart := 1, pass := 2 })] })], reqs := [{ reqId := 55, tenant := 1, desc := 5070602400912917605986812821504, stops := [], st := .running, weir := 0, model := 0, fallback := false, promptPart := some 3, genPart := some 0, genSlot := 0, pass := 2, need := 1, readAt := 0, tokens := 0, outBuf := [], emitted := [], pos := 0, layers := 0, pages := 0, lastTok := 0, specEpoch := 0, adapter := none, endStatus := none, prompt := List.replicate 64 3 }], tier := { pages := [(5, { st := .resident .basin, frame := 0, frameTier := .basin }), (6, { st := .resident .basin, frame := 8, frameTier := .basin }), (7, { st := .resident .basin, frame := 16, frameTier := .basin })], dirs := [(0, { valid := true, used := 1, leaf := 257 })], leaves := [(257, true)], frames := [(67108864, true), (67108872, true), (67108880, true)] } },
     3, 55, 6, 4, 99,
     { valid := true, hash := chainHash 0 0 (List.replicate 64 3), tag := 4100, block := 2, base := 2621440, stride := 4 },
     { reqId := 55, tenant := 1, desc := 5070602400912917605986812821504, stops := [], st := .running, weir := 0, model := 0, fallback := false, promptPart := some 3, genPart := some 0, genSlot := 0, pass := 2, need := 1, readAt := 0, tokens := 0, outBuf := [], emitted := [], pos := 0, layers := 0, pages := 0, lastTok := 0, specEpoch := 0, adapter := none, endStatus := none, prompt := List.replicate 64 3 },
     0,
     { kind := 0, state := 3, reqId := 55, layers := 1, pages := 1, stride := 1, localBase := 720896, peerNode := 4, peerPart := 1, pass := 2 },
     0, 1, by decide +kernel⟩,
   ⟨{ (st [(Reg.PG_READY_READY.place .tier, 1), (Reg.PG_READY_READY.place (.bas 0), 1), (Reg.BAS_MEM_STAT_ONLINE.place (.bas 0), 1), (Reg.BAS_MEM_FRAMES_FRAMES.place (.bas 0), 786432), (Reg.PG_READY_READY.place (.move 3), 1), (Reg.PG_READY_READY.place .srch, 1), (Reg.DEV_NODE_NODE.place .dev, 9), (Reg.DISP_ROLE_CUR.place (.disp 3), 3), (Reg.SRCH_CTRL_EN.place .srch, 1), (Reg.CACHE_CFG_ENTRIES.place .srch 3, 1), (Reg.CACHE_CFG_TTL_MAX_S.place .srch 3, 60), (Reg.CACHE_CFG_PFX_RGN.place .srch 3, 1), (Reg.CACHE_CFG_ENT_BASE_LO.place .srch 3, (327680 / 2 ^ Reg.CACHE_CFG_ENT_BASE_LO.lo)), (Reg.CACHE_CFG_IDX_BASE_LO.place .srch 3, (393216 / 2 ^ Reg.CACHE_CFG_IDX_BASE_LO.lo)), (Reg.CACHE_CFG_RING_BASE_LO.place .srch 3, (458752 / 2 ^ Reg.CACHE_CFG_RING_BASE_LO.lo)), (Reg.CACHE_CFG_RING_LOG2.place .srch 3, 4), (Reg.CACHE_CFG_RING_EN.place .srch 3, 1)]) with tier := { pages := [(5, { st := .resident .basin, frame := 0, frameTier := .basin }), (6, { st := .resident .basin, frame := 8, frameTier := .basin }), (7, { st := .resident .basin, frame := 16, frameTier := .basin })], dirs := [(0, { valid := true, used := 1, leaf := 257 })], leaves := [(257, true)], frames := [(67108864, true), (67108872, true), (67108880, true)] } },
     3, 55, 6, 4, 99, [], by decide +kernel⟩,
   ⟨{ (st [(Reg.PG_READY_READY.place .tier, 1), (Reg.PG_READY_READY.place (.bas 0), 1), (Reg.BAS_MEM_STAT_ONLINE.place (.bas 0), 1), (Reg.BAS_MEM_FRAMES_FRAMES.place (.bas 0), 786432), (Reg.PG_READY_READY.place (.move 3), 1), (Reg.PG_READY_READY.place .srch, 1), (Reg.DEV_NODE_NODE.place .dev, 9), (Reg.DISP_ROLE_CUR.place (.disp 3), 3), (Reg.SRCH_CTRL_EN.place .srch, 1), (Reg.CACHE_CFG_ENTRIES.place .srch 3, 1), (Reg.CACHE_CFG_TTL_MAX_S.place .srch 3, 60), (Reg.CACHE_CFG_PFX_RGN.place .srch 3, 1), (Reg.CACHE_CFG_ENT_BASE_LO.place .srch 3, (327680 / 2 ^ Reg.CACHE_CFG_ENT_BASE_LO.lo)), (Reg.CACHE_CFG_IDX_BASE_LO.place .srch 3, (393216 / 2 ^ Reg.CACHE_CFG_IDX_BASE_LO.lo)), (Reg.CACHE_CFG_RING_BASE_LO.place .srch 3, (458752 / 2 ^ Reg.CACHE_CFG_RING_BASE_LO.lo)), (Reg.CACHE_CFG_RING_LOG2.place .srch 3, 4), (Reg.CACHE_CFG_RING_EN.place .srch 3, 1)]) with movers := [(3, { ctxs := [(0, { kind := 0, state := 3, reqId := 55, layers := 1, pages := 1, stride := 1, localBase := 720896, peerNode := 4, peerPart := 1, pass := 2 })] })], reqs := [{ reqId := 55, tenant := 1, desc := 5070602400912917605986812821504, stops := [], st := .running, weir := 0, model := 0, fallback := false, promptPart := some 3, genPart := some 0, genSlot := 0, pass := 2, need := 1, readAt := 0, tokens := 0, outBuf := [], emitted := [], pos := 0, layers := 0, pages := 0, lastTok := 0, specEpoch := 0, adapter := none, endStatus := none, prompt := List.replicate 64 3 }], tier := { pages := [(5, { st := .resident .basin, frame := 0, frameTier := .basin }), (6, { st := .resident .basin, frame := 8, frameTier := .basin }), (7, { st := .resident .basin, frame := 16, frameTier := .basin })], dirs := [(0, { valid := true, used := 1, leaf := 257 })], leaves := [(257, true)], frames := [(67108864, true), (67108872, true), (67108880, true)] } },
     3, 55, 6, 4, 99, [],
     [{ valid := false, hash := chainHash 0 0 (List.replicate 64 3), tag := 4100, block := 2, base := 2621440, stride := 4 }],
     { reqId := 55, tenant := 1, desc := 5070602400912917605986812821504, stops := [], st := .running, weir := 0, model := 0, fallback := false, promptPart := some 3, genPart := some 0, genSlot := 0, pass := 2, need := 1, readAt := 0, tokens := 0, outBuf := [], emitted := [], pos := 0, layers := 0, pages := 0, lastTok := 0, specEpoch := 0, adapter := none, endStatus := none, prompt := List.replicate 64 3 },
     by decide +kernel⟩⟩

/-- The hypotheses of SearchesAndInsertsRun can be met, clause by clause. -/
theorem wit_SearchesAndInsertsRun :
    (∃ (s : State) (p : PartId) (home : TierName) (b : Nat) (a : Nat) (d : BitVec 512) (c : BitVec 512), s.ringOn p =
      true ∧ b = s.ringBase p ∧ a = s.ringSlot p ∧ (s.leaf (pageOf b)).st = .resident home ∧ s.heldOn (pageOf b) = []
      ∧ b % 65536 + 64 + 64 * 2 ^ s.fld .srch Reg.CACHE_CFG_RING_LOG2 p.val ≤ 65536 ∧ d = BitVec.ofNat 512 (s.rdNat a
      64) ∧ s.ringRole p = true ∧ searchOk d = true ∧ s.readable (BV d 64 64) 64 ∧ c = BitVec.ofNat 512 (s.rdNat (BV
      d 64 64) 64) ∧ collOk c = true ∧ s.tier.answers = []) ∧
    (∃ (s : State) (p : PartId) (home : TierName) (b : Nat) (a : Nat) (d : BitVec 512), s.ringOn p = true ∧ b =
      s.ringBase p ∧ a = s.ringSlot p ∧ (s.leaf (pageOf b)).st = .resident home ∧ s.heldOn (pageOf b) = [] ∧ b %
      65536 + 64 + 64 * 2 ^ s.fld .srch Reg.CACHE_CFG_RING_LOG2 p.val ≤ 65536 ∧ d = BitVec.ofNat 512 (s.rdNat a 64) ∧
      (s.leaf (pageOf (BV d 320 64))).st = .resident home ∧ s.heldOn (pageOf (BV d 320 64)) = [] ∧ (BV d 320 64) %
      65536 + 8 ≤ 65536 ∧ BV d 0 8 ≠ 0 ∧ BV d 0 8 ≠ 2 ∧ s.ringRole p = true ∧ searchOk d = false ∧ s.tier.answers =
      []) ∧
    (∃ (s : State) (p : PartId) (home : TierName) (b : Nat) (a : Nat) (d : BitVec 512), s.ringOn p = true ∧ b =
      s.ringBase p ∧ a = s.ringSlot p ∧ (s.leaf (pageOf b)).st = .resident home ∧ s.heldOn (pageOf b) = [] ∧ b %
      65536 + 64 + 64 * 2 ^ s.fld .srch Reg.CACHE_CFG_RING_LOG2 p.val ≤ 65536 ∧ d = BitVec.ofNat 512 (s.rdNat a 64) ∧
      (s.leaf (pageOf (BV d 320 64))).st = .resident home ∧ s.heldOn (pageOf (BV d 320 64)) = [] ∧ (BV d 320 64) %
      65536 + 8 ≤ 65536 ∧ BV d 0 8 ≠ 0 ∧ BV d 0 8 ≠ 2 ∧ s.ringRole p = false ∧ s.tier.answers = []) ∧
    (∃ (s : State) (p : PartId), s.ringOn p = false) ∧
    (∃ (s : State) (p : PartId) (ticket : Nat) (home : TierName) (w : Work) (d : BitVec 512) (c : BitVec 512) (best :
      List Hit) (n : Nat) (k : Nat), (s.srch.works.find? (fun w => w.ticket == ticket && w.part == p &&
      w.entry.isNone) = some w) ∧ d = w.desc ∧ c = w.coll ∧ s.readableAll (scanRanges d c) ∧ s.readableAll
      ((s.shortlist d c).flatMap (candRanges c)) ∧ (best = (sortBy (hitBefore (BV d 8 8 == 2)) ((s.shortlist d
      c).map fun x =>
      ({ id := s.rdNat ((segOf c x.2.1.toNat).ids + x.2.2 * 8) 8, score := s.score (BV d 8 8) (segOf c x.2.1.toNat).fmt (BV d 192 64) ((segOf c x.2.1.toNat).vec + x.2.2 * (segOf c x.2.1.toNat).vstride) (segOf c x.2.1.toNat).dim, pos := x.2.2 + x.2.1.toNat * 2 ^ 31 }
      : Hit))).take (BV d 16 16)) ∧ n = best.length ∧ k = (s.distances (segOf c 0) false []).length + (s.distances
      (segOf c 1) true []).length ∧ n ≠ 0 ∧ (s.leaf (pageOf (BV d 256 64))).st = .resident home ∧ s.heldOn (pageOf
      (BV d 256 64)) = [] ∧ BV d 256 64 % 65536 + 16 * n ≤ 65536 ∧ (s.leaf (pageOf (BV d 320 64))).st = .resident
      home ∧ s.heldOn (pageOf (BV d 320 64)) = [] ∧ (BV d 320 64) % 65536 + 8 ≤ 65536 ∧ (BV d 256 64 + 16 * n ≤ BV d
      320 64 ∨ BV d 320 64 + 8 ≤ BV d 256 64) ∧ n < 65536 ∧ s.tier.answers = []) ∧
    (∃ (s : State) (p : PartId) (ticket : Nat), (∀ w ∈ s.srch.works, w.ticket ≠ ticket ∨ w.part ≠ p ∨ w.entry ≠
      none)) ∧
    (∃ (s : State) (p : PartId) (home : TierName) (b : Nat) (a : Nat) (d : BitVec 512) (i : Nat) (k : Nat) (g : Nat)
      (n : Nat), s.ringOn p = true ∧ b = s.ringBase p ∧ a = s.ringSlot p ∧ (s.leaf (pageOf b)).st = .resident home ∧
      s.heldOn (pageOf b) = [] ∧ b % 65536 + 64 + 64 * 2 ^ s.fld .srch Reg.CACHE_CFG_RING_LOG2 p.val ≤ 65536 ∧ d =
      BitVec.ofNat 512 (s.rdNat a 64) ∧ s.ringRole p = true ∧ BV d 0 8 = 2 ∧ insertOk d = true ∧ (s.freeEntry p =
      some i) ∧ (s.keySlot (BitVec.ofNat 32 (BV d 96 32)) = some k) ∧ s.ctxRoom p = true ∧ n = BV d 16 16 * BV d 32
      32 + (BV d 16 16 * BV d 32 32 * BV d 224 16 + 65535) / 65536 ∧ (s.rangeIn p (s.fld .srch Reg.CACHE_CFG_PFX_RGN
      p.val) n = some g) ∧ g < 2 ^ 31 ∧ (s.entryAddr p i + 64 ≤ b ∨ b + 64 + 64 * 2 ^ s.fld .srch
      Reg.CACHE_CFG_RING_LOG2 p.val ≤ s.entryAddr p i) ∧ s.tier.answers = [] ∧ s.writable (s.entryAddr p i) 64 = true
      ∧ (∀ v ∈ s.convs, v.reqId < 2 ^ 32)) ∧
    (∃ (s : State) (p : PartId) (home : TierName) (b : Nat) (a : Nat) (d : BitVec 512), s.ringOn p = true ∧ b =
      s.ringBase p ∧ a = s.ringSlot p ∧ (s.leaf (pageOf b)).st = .resident home ∧ s.heldOn (pageOf b) = [] ∧ b %
      65536 + 64 + 64 * 2 ^ s.fld .srch Reg.CACHE_CFG_RING_LOG2 p.val ≤ 65536 ∧ d = BitVec.ofNat 512 (s.rdNat a 64) ∧
      (s.leaf (pageOf (BV d 320 64))).st = .resident home ∧ s.heldOn (pageOf (BV d 320 64)) = [] ∧ (BV d 320 64) %
      65536 + 8 ≤ 65536 ∧ s.ringRole p = true ∧ BV d 0 8 = 2 ∧ insertOk d = false ∧ s.tier.answers = []) ∧
    (∃ (s : State) (p : PartId) (ticket : Nat) (home : TierName) (w : Work) (i : Nat) (d : BitVec 512),
      (s.srch.works.find? (fun w => w.ticket == ticket && w.part == p && w.entry.isSome) = some w) ∧ (w.entry = some
      i) ∧ d = w.desc ∧ (s.leaf (pageOf (BV d 320 64))).st = .resident home ∧ s.heldOn (pageOf (BV d 320 64)) = [] ∧
      (BV d 320 64) % 65536 + 8 ≤ 65536 ∧ (s.entryAddr p i + 64 ≤ BV d 320 64 ∨ BV d 320 64 + 8 ≤ s.entryAddr p i) ∧
      (pageOf (BV d 320 64) < entBase (s.entry p i) / 65536 ∨ entBase (s.entry p i) / 65536 + entRange (s.entry p i)
      ≤ pageOf (BV d 320 64)) ∧ s.writable (s.entryAddr p i) 64 = true ∧ (∀ k, k < entRange (s.entry p i) → entBase
      (s.entry p i) / 65536 + k ≠ pageOf (s.entryAddr p i))) ∧
    (∃ (s : State) (p : PartId) (ticket : Nat) (home : TierName) (w : Work) (i : Nat) (d : BitVec 512),
      (s.srch.works.find? (fun w => w.ticket == ticket && w.part == p && w.entry.isSome) = some w) ∧ (w.entry = some
      i) ∧ d = w.desc ∧ (s.leaf (pageOf (BV d 320 64))).st = .resident home ∧ s.heldOn (pageOf (BV d 320 64)) = [] ∧
      (BV d 320 64) % 65536 + 8 ≤ 65536 ∧ (s.entryAddr p i + 64 ≤ BV d 320 64 ∨ BV d 320 64 + 8 ≤ s.entryAddr p i) ∧
      (∀ j, j < entLayers (s.entry p i) * entPages (s.entry p i) → s.away (entBase (s.entry p i) / 65536 + j) =
      false) ∧ s.readable (BV d 256 64) (16 * entPages (s.entry p i)) ∧ entPages (s.entry p i) = 1 ∧ ((List.range
      8).all (fun j => decide (s.rdNat (s.idxSlot p (natOfBytes (s.rd (BV d 256 64) 8) % 2 ^ s.fld .srch
      Reg.CACHE_CFG_IDX_LOG2 p.val) j + 24) 1 = 0)) = true) ∧ s.heldOn (pageOf (s.idxSlot p (natOfBytes (s.rd (BV d
      256 64) 8) % 2 ^ s.fld .srch Reg.CACHE_CFG_IDX_LOG2 p.val) 0)) = [] ∧ (s.leaf (pageOf (s.idxSlot p (natOfBytes
      (s.rd (BV d 256 64) 8) % 2 ^ s.fld .srch Reg.CACHE_CFG_IDX_LOG2 p.val) 0))).st = .resident home ∧ s.idxSlot p
      (natOfBytes (s.rd (BV d 256 64) 8) % 2 ^ s.fld .srch Reg.CACHE_CFG_IDX_LOG2 p.val) 0 % 65536 ≤ 65504 ∧
      (s.idxSlot p (natOfBytes (s.rd (BV d 256 64) 8) % 2 ^ s.fld .srch Reg.CACHE_CFG_IDX_LOG2 p.val) 0 + 32 ≤
      s.entryAddr p i ∨ s.entryAddr p i + 64 ≤ s.idxSlot p (natOfBytes (s.rd (BV d 256 64) 8) % 2 ^ s.fld .srch
      Reg.CACHE_CFG_IDX_LOG2 p.val) 0) ∧ s.tier.answers = [] ∧ s.writable (s.entryAddr p i) 64 = true ∧ s.draining p
      3 = false) ∧
    (∃ (s : State) (p : PartId) (ticket : Nat) (nak : Bool), (∀ w ∈ s.srch.works, w.ticket ≠ ticket ∨ w.part ≠ p ∨
      w.entry = none)) :=
  ⟨⟨{ (st [(Reg.PG_READY_READY.place .tier, 1), (Reg.PG_READY_READY.place (.bas 0), 1), (Reg.BAS_MEM_STAT_ONLINE.place (.bas 0), 1), (Reg.BAS_MEM_FRAMES_FRAMES.place (.bas 0), 786432), (Reg.PG_READY_READY.place (.move 3), 1), (Reg.PG_READY_READY.place .srch, 1), (Reg.DEV_NODE_NODE.place .dev, 9), (Reg.DISP_ROLE_CUR.place (.disp 3), 3), (Reg.SRCH_CTRL_EN.place .srch, 1), (Reg.CACHE_CFG_ENTRIES.place .srch 3, 1), (Reg.CACHE_CFG_TTL_MAX_S.place .srch 3, 60), (Reg.CACHE_CFG_PFX_RGN.place .srch 3, 1), (Reg.CACHE_CFG_ENT_BASE_LO.place .srch 3, (327680 / 2 ^ Reg.CACHE_CFG_ENT_BASE_LO.lo)), (Reg.CACHE_CFG_IDX_BASE_LO.place .srch 3, (393216 / 2 ^ Reg.CACHE_CFG_IDX_BASE_LO.lo)), (Reg.CACHE_CFG_RING_BASE_LO.place .srch 3, (458752 / 2 ^ Reg.CACHE_CFG_RING_BASE_LO.lo)), (Reg.CACHE_CFG_RING_LOG2.place .srch 3, 4), (Reg.CACHE_CFG_RING_EN.place .srch 3, 1)]) with tier := { pages := [(5, { st := .resident .basin, frame := 0, frameTier := .basin }), (6, { st := .resident .basin, frame := 8, frameTier := .basin }), (7, { st := .resident .basin, frame := 16, frameTier := .basin })], dirs := [(0, { valid := true, used := 1, leaf := 257 })], leaves := [(257, true)], frames := [(67108864, true), (67108872, true), (67108880, true)] }, mem := (Map.store (Map.store ([] : Memory) 458816 (bytesOfNat 64 761163252224488149722419233223312288880214220320761587067354069394017786613192573980243498193534451713)) 344064 (bytesOfNat 64 1453677448760444109266559281893278100572052088987622688898561794838429723987730215761371599419515986318528963694611331391558583593566208)) },
     3, .basin, 458752, 458816, BitVec.ofNat 512
     761163252224488149722419233223312288880214220320761587067354069394017786613192573980243498193534451713,
     BitVec.ofNat 512
     1453677448760444109266559281893278100572052088987622688898561794838429723987730215761371599419515986318528963694611331391558583593566208,
     by decide +kernel⟩,
   ⟨{ (st [(Reg.PG_READY_READY.place .tier, 1), (Reg.PG_READY_READY.place (.bas 0), 1), (Reg.BAS_MEM_STAT_ONLINE.place (.bas 0), 1), (Reg.BAS_MEM_FRAMES_FRAMES.place (.bas 0), 786432), (Reg.PG_READY_READY.place (.move 3), 1), (Reg.PG_READY_READY.place .srch, 1), (Reg.DEV_NODE_NODE.place .dev, 9), (Reg.DISP_ROLE_CUR.place (.disp 3), 3), (Reg.SRCH_CTRL_EN.place .srch, 1), (Reg.CACHE_CFG_ENTRIES.place .srch 3, 1), (Reg.CACHE_CFG_TTL_MAX_S.place .srch 3, 60), (Reg.CACHE_CFG_PFX_RGN.place .srch 3, 1), (Reg.CACHE_CFG_ENT_BASE_LO.place .srch 3, (327680 / 2 ^ Reg.CACHE_CFG_ENT_BASE_LO.lo)), (Reg.CACHE_CFG_IDX_BASE_LO.place .srch 3, (393216 / 2 ^ Reg.CACHE_CFG_IDX_BASE_LO.lo)), (Reg.CACHE_CFG_RING_BASE_LO.place .srch 3, (458752 / 2 ^ Reg.CACHE_CFG_RING_BASE_LO.lo)), (Reg.CACHE_CFG_RING_LOG2.place .srch 3, 4), (Reg.CACHE_CFG_RING_EN.place .srch 3, 1)]) with tier := { pages := [(5, { st := .resident .basin, frame := 0, frameTier := .basin }), (6, { st := .resident .basin, frame := 8, frameTier := .basin }), (7, { st := .resident .basin, frame := 16, frameTier := .basin })], dirs := [(0, { valid := true, used := 1, leaf := 257 })], leaves := [(257, true)], frames := [(67108864, true), (67108872, true), (67108880, true)] }, mem := (Map.store (Map.store ([] : Memory) 458816 (bytesOfNat 64 761163252224488149722419233223312288880214220320761587067354069394017786613192573980243498193534648321)) 344064 (bytesOfNat 64 1453677448760444109266559281893278100572052088987622688898561794838429723987730215761371599419515986318528963694611331391558583593566208)) },
     3, .basin, 458752, 458816, BitVec.ofNat 512
     761163252224488149722419233223312288880214220320761587067354069394017786613192573980243498193534648321,
     by decide +kernel⟩,
   ⟨{ (st [(Reg.PG_READY_READY.place .tier, 1), (Reg.PG_READY_READY.place (.bas 0), 1), (Reg.BAS_MEM_STAT_ONLINE.place (.bas 0), 1), (Reg.BAS_MEM_FRAMES_FRAMES.place (.bas 0), 786432), (Reg.PG_READY_READY.place (.move 3), 1), (Reg.PG_READY_READY.place .srch, 1), (Reg.DEV_NODE_NODE.place .dev, 9), (Reg.DISP_ROLE_CUR.place (.disp 3), 3), (Reg.SRCH_CTRL_EN.place .srch, 1), (Reg.CACHE_CFG_ENTRIES.place .srch 3, 1), (Reg.CACHE_CFG_TTL_MAX_S.place .srch 3, 60), (Reg.CACHE_CFG_PFX_RGN.place .srch 3, 1), (Reg.CACHE_CFG_ENT_BASE_LO.place .srch 3, (327680 / 2 ^ Reg.CACHE_CFG_ENT_BASE_LO.lo)), (Reg.CACHE_CFG_IDX_BASE_LO.place .srch 3, (393216 / 2 ^ Reg.CACHE_CFG_IDX_BASE_LO.lo)), (Reg.CACHE_CFG_RING_BASE_LO.place .srch 3, (458752 / 2 ^ Reg.CACHE_CFG_RING_BASE_LO.lo)), (Reg.CACHE_CFG_RING_LOG2.place .srch 3, 4), (Reg.CACHE_CFG_RING_EN.place .srch 3, 1), (Reg.SRCH_CTRL_EN.place .srch, 0)]) with tier := { pages := [(5, { st := .resident .basin, frame := 0, frameTier := .basin }), (6, { st := .resident .basin, frame := 8, frameTier := .basin }), (7, { st := .resident .basin, frame := 16, frameTier := .basin })], dirs := [(0, { valid := true, used := 1, leaf := 257 })], leaves := [(257, true)], frames := [(67108864, true), (67108872, true), (67108880, true)] }, mem := (Map.store (Map.store ([] : Memory) 458816 (bytesOfNat 64 761163252224488149722419233223312288880214220320761587067354069394017786613192573980243498193534451713)) 344064 (bytesOfNat 64 1453677448760444109266559281893278100572052088987622688898561794838429723987730215761371599419515986318528963694611331391558583593566208)) },
     3, .basin, 458752, 458816, BitVec.ofNat 512
     761163252224488149722419233223312288880214220320761587067354069394017786613192573980243498193534451713,
     by decide +kernel⟩,
   ⟨State.reset, 3, by decide +kernel⟩,
   ⟨{ (st [(Reg.PG_READY_READY.place .tier, 1), (Reg.PG_READY_READY.place (.bas 0), 1), (Reg.BAS_MEM_STAT_ONLINE.place (.bas 0), 1), (Reg.BAS_MEM_FRAMES_FRAMES.place (.bas 0), 786432), (Reg.PG_READY_READY.place (.move 3), 1), (Reg.PG_READY_READY.place .srch, 1), (Reg.DEV_NODE_NODE.place .dev, 9), (Reg.DISP_ROLE_CUR.place (.disp 3), 3), (Reg.SRCH_CTRL_EN.place .srch, 1), (Reg.CACHE_CFG_ENTRIES.place .srch 3, 1), (Reg.CACHE_CFG_TTL_MAX_S.place .srch 3, 60), (Reg.CACHE_CFG_PFX_RGN.place .srch 3, 1), (Reg.CACHE_CFG_ENT_BASE_LO.place .srch 3, (327680 / 2 ^ Reg.CACHE_CFG_ENT_BASE_LO.lo)), (Reg.CACHE_CFG_IDX_BASE_LO.place .srch 3, (393216 / 2 ^ Reg.CACHE_CFG_IDX_BASE_LO.lo)), (Reg.CACHE_CFG_RING_BASE_LO.place .srch 3, (458752 / 2 ^ Reg.CACHE_CFG_RING_BASE_LO.lo)), (Reg.CACHE_CFG_RING_LOG2.place .srch 3, 4), (Reg.CACHE_CFG_RING_EN.place .srch 3, 1)]) with tier := { pages := [(5, { st := .resident .basin, frame := 0, frameTier := .basin }), (6, { st := .resident .basin, frame := 8, frameTier := .basin }), (7, { st := .resident .basin, frame := 16, frameTier := .basin })], dirs := [(0, { valid := true, used := 1, leaf := 257 })], leaves := [(257, true)], frames := [(67108864, true), (67108872, true), (67108880, true)] }, mem := (Map.store (Map.store (Map.store (Map.store (Map.store (Map.store (Map.store (Map.store (Map.store (Map.store (Map.store ([] : Memory) 348224 (bytesOfNat 8 4611686019492741120)) 348160 (bytesOfNat 32 240)) 360448 (bytesOfNat 32 241)) 360480 (bytesOfNat 32 255)) 368640 (bytesOfNat 32 240)) 360576 (bytesOfNat 8 1001)) 360584 (bytesOfNat 8 1002)) 368768 (bytesOfNat 8 1003)) 364544 (bytesOfNat 8 4575657222486360064)) 364608 (bytesOfNat 8 4656722015774834688)) 372736 (bytesOfNat 8 4575657222473777152)), srch := { works := [{ ticket := 7, part := 3, desc := BitVec.ofNat 512 761163252224488149722419233223312288880214220320761587067354069394017786613192573980243498193534451713, taken := 3, coll := BitVec.ofNat 512 1453677448760444109266559281893278100572052088987622688898561794838429723987730215761371599419515986318528963694611331391558583593566208, entry := none }], nextTicket := 8 } },
     3, 7, .basin,
     { ticket := 7, part := 3, desc := BitVec.ofNat 512 761163252224488149722419233223312288880214220320761587067354069394017786613192573980243498193534451713, taken := 3, coll := BitVec.ofNat 512 1453677448760444109266559281893278100572052088987622688898561794838429723987730215761371599419515986318528963694611331391558583593566208, entry := none },
     BitVec.ofNat 512
     761163252224488149722419233223312288880214220320761587067354069394017786613192573980243498193534451713,
     BitVec.ofNat 512
     1453677448760444109266559281893278100572052088987622688898561794838429723987730215761371599419515986318528963694611331391558583593566208,
     (let s :=
     { (st [(Reg.PG_READY_READY.place .tier, 1), (Reg.PG_READY_READY.place (.bas 0), 1), (Reg.BAS_MEM_STAT_ONLINE.place (.bas 0), 1), (Reg.BAS_MEM_FRAMES_FRAMES.place (.bas 0), 786432), (Reg.PG_READY_READY.place (.move 3), 1), (Reg.PG_READY_READY.place .srch, 1), (Reg.DEV_NODE_NODE.place .dev, 9), (Reg.DISP_ROLE_CUR.place (.disp 3), 3), (Reg.SRCH_CTRL_EN.place .srch, 1), (Reg.CACHE_CFG_ENTRIES.place .srch 3, 1), (Reg.CACHE_CFG_TTL_MAX_S.place .srch 3, 60), (Reg.CACHE_CFG_PFX_RGN.place .srch 3, 1), (Reg.CACHE_CFG_ENT_BASE_LO.place .srch 3, (327680 / 2 ^ Reg.CACHE_CFG_ENT_BASE_LO.lo)), (Reg.CACHE_CFG_IDX_BASE_LO.place .srch 3, (393216 / 2 ^ Reg.CACHE_CFG_IDX_BASE_LO.lo)), (Reg.CACHE_CFG_RING_BASE_LO.place .srch 3, (458752 / 2 ^ Reg.CACHE_CFG_RING_BASE_LO.lo)), (Reg.CACHE_CFG_RING_LOG2.place .srch 3, 4), (Reg.CACHE_CFG_RING_EN.place .srch 3, 1)]) with tier := { pages := [(5, { st := .resident .basin, frame := 0, frameTier := .basin }), (6, { st := .resident .basin, frame := 8, frameTier := .basin }), (7, { st := .resident .basin, frame := 16, frameTier := .basin })], dirs := [(0, { valid := true, used := 1, leaf := 257 })], leaves := [(257, true)], frames := [(67108864, true), (67108872, true), (67108880, true)] }, mem := (Map.store (Map.store (Map.store (Map.store (Map.store (Map.store (Map.store (Map.store (Map.store (Map.store (Map.store ([] : Memory) 348224 (bytesOfNat 8 4611686019492741120)) 348160 (bytesOfNat 32 240)) 360448 (bytesOfNat 32 241)) 360480 (bytesOfNat 32 255)) 368640 (bytesOfNat 32 240)) 360576 (bytesOfNat 8 1001)) 360584 (bytesOfNat 8 1002)) 368768 (bytesOfNat 8 1003)) 364544 (bytesOfNat 8 4575657222486360064)) 364608 (bytesOfNat 8 4656722015774834688)) 372736 (bytesOfNat 8 4575657222473777152)), srch := { works := [{ ticket := 7, part := 3, desc := BitVec.ofNat 512 761163252224488149722419233223312288880214220320761587067354069394017786613192573980243498193534451713, taken := 3, coll := BitVec.ofNat 512 1453677448760444109266559281893278100572052088987622688898561794838429723987730215761371599419515986318528963694611331391558583593566208, entry := none }], nextTicket := 8 } };
     let d : BitVec 512 := (BitVec.ofNat 512
     761163252224488149722419233223312288880214220320761587067354069394017786613192573980243498193534451713);
     let c : BitVec 512 := (BitVec.ofNat 512
     1453677448760444109266559281893278100572052088987622688898561794838429723987730215761371599419515986318528963694611331391558583593566208);
     (sortBy (hitBefore (BV d 8 8 == 2)) ((s.shortlist d c).map fun x =>
     ({ id := s.rdNat ((segOf c x.2.1.toNat).ids + x.2.2 * 8) 8, score := s.score (BV d 8 8) (segOf c x.2.1.toNat).fmt (BV d 192 64) ((segOf c x.2.1.toNat).vec + x.2.2 * (segOf c x.2.1.toNat).vstride) (segOf c x.2.1.toNat).dim, pos := x.2.2 + x.2.1.toNat * 2 ^ 31 }
     : Hit))).take (BV d 16 16)), 2, 3, by decide +kernel⟩,
   ⟨{ (st [(Reg.PG_READY_READY.place .tier, 1), (Reg.PG_READY_READY.place (.bas 0), 1), (Reg.BAS_MEM_STAT_ONLINE.place (.bas 0), 1), (Reg.BAS_MEM_FRAMES_FRAMES.place (.bas 0), 786432), (Reg.PG_READY_READY.place (.move 3), 1), (Reg.PG_READY_READY.place .srch, 1), (Reg.DEV_NODE_NODE.place .dev, 9), (Reg.DISP_ROLE_CUR.place (.disp 3), 3), (Reg.SRCH_CTRL_EN.place .srch, 1), (Reg.CACHE_CFG_ENTRIES.place .srch 3, 1), (Reg.CACHE_CFG_TTL_MAX_S.place .srch 3, 60), (Reg.CACHE_CFG_PFX_RGN.place .srch 3, 1), (Reg.CACHE_CFG_ENT_BASE_LO.place .srch 3, (327680 / 2 ^ Reg.CACHE_CFG_ENT_BASE_LO.lo)), (Reg.CACHE_CFG_IDX_BASE_LO.place .srch 3, (393216 / 2 ^ Reg.CACHE_CFG_IDX_BASE_LO.lo)), (Reg.CACHE_CFG_RING_BASE_LO.place .srch 3, (458752 / 2 ^ Reg.CACHE_CFG_RING_BASE_LO.lo)), (Reg.CACHE_CFG_RING_LOG2.place .srch 3, 4), (Reg.CACHE_CFG_RING_EN.place .srch 3, 1)]) with tier := { pages := [(5, { st := .resident .basin, frame := 0, frameTier := .basin }), (6, { st := .resident .basin, frame := 8, frameTier := .basin }), (7, { st := .resident .basin, frame := 16, frameTier := .basin })], dirs := [(0, { valid := true, used := 1, leaf := 257 })], leaves := [(257, true)], frames := [(67108864, true), (67108872, true), (67108880, true)] } },
     3, 7, by decide +kernel⟩,
   ⟨{ (st [(Reg.PG_READY_READY.place .tier, 1), (Reg.PG_READY_READY.place (.bas 0), 1), (Reg.BAS_MEM_STAT_ONLINE.place (.bas 0), 1), (Reg.BAS_MEM_FRAMES_FRAMES.place (.bas 0), 786432), (Reg.PG_READY_READY.place (.move 3), 1), (Reg.PG_READY_READY.place .srch, 1), (Reg.DEV_NODE_NODE.place .dev, 9), (Reg.DISP_ROLE_CUR.place (.disp 3), 3), (Reg.SRCH_CTRL_EN.place .srch, 1), (Reg.CACHE_CFG_ENTRIES.place .srch 3, 1), (Reg.CACHE_CFG_TTL_MAX_S.place .srch 3, 60), (Reg.CACHE_CFG_PFX_RGN.place .srch 3, 1), (Reg.CACHE_CFG_ENT_BASE_LO.place .srch 3, (327680 / 2 ^ Reg.CACHE_CFG_ENT_BASE_LO.lo)), (Reg.CACHE_CFG_IDX_BASE_LO.place .srch 3, (393216 / 2 ^ Reg.CACHE_CFG_IDX_BASE_LO.lo)), (Reg.CACHE_CFG_RING_BASE_LO.place .srch 3, (458752 / 2 ^ Reg.CACHE_CFG_RING_BASE_LO.lo)), (Reg.CACHE_CFG_RING_LOG2.place .srch 3, 4), (Reg.CACHE_CFG_RING_EN.place .srch 3, 1)]) with tier := { pages := [(5, { st := .resident .basin, frame := 0, frameTier := .basin }), (6, { st := .resident .basin, frame := 8, frameTier := .basin }), (7, { st := .resident .basin, frame := 16, frameTier := .basin })], dirs := [(0, { valid := true, used := 1, leaf := 257 })], leaves := [(257, true)], frames := [(67108864, true), (67108872, true), (67108880, true)] }, mem := (Map.store ([] : Memory) 458816 (bytesOfNat 64 726838724295606890549323807888004535114804612911806210003435148006435529854971365694755495975252993192375627617711846675140758116539367426)), regions := [(12289, { valid := true, read := true, write := true, keyCheck := 7, base := 655360, lenM1 := 655359 })] },
     3, .basin, 458752, 458816, BitVec.ofNat 512
     726838724295606890549323807888004535114804612911806210003435148006435529854971365694755495975252993192375627617711846675140758116539367426,
     0, 0, 10, 1, by decide +kernel⟩,
   ⟨{ (st [(Reg.PG_READY_READY.place .tier, 1), (Reg.PG_READY_READY.place (.bas 0), 1), (Reg.BAS_MEM_STAT_ONLINE.place (.bas 0), 1), (Reg.BAS_MEM_FRAMES_FRAMES.place (.bas 0), 786432), (Reg.PG_READY_READY.place (.move 3), 1), (Reg.PG_READY_READY.place .srch, 1), (Reg.DEV_NODE_NODE.place .dev, 9), (Reg.DISP_ROLE_CUR.place (.disp 3), 3), (Reg.SRCH_CTRL_EN.place .srch, 1), (Reg.CACHE_CFG_ENTRIES.place .srch 3, 1), (Reg.CACHE_CFG_TTL_MAX_S.place .srch 3, 60), (Reg.CACHE_CFG_PFX_RGN.place .srch 3, 1), (Reg.CACHE_CFG_ENT_BASE_LO.place .srch 3, (327680 / 2 ^ Reg.CACHE_CFG_ENT_BASE_LO.lo)), (Reg.CACHE_CFG_IDX_BASE_LO.place .srch 3, (393216 / 2 ^ Reg.CACHE_CFG_IDX_BASE_LO.lo)), (Reg.CACHE_CFG_RING_BASE_LO.place .srch 3, (458752 / 2 ^ Reg.CACHE_CFG_RING_BASE_LO.lo)), (Reg.CACHE_CFG_RING_LOG2.place .srch 3, 4), (Reg.CACHE_CFG_RING_EN.place .srch 3, 1)]) with tier := { pages := [(5, { st := .resident .basin, frame := 0, frameTier := .basin }), (6, { st := .resident .basin, frame := 8, frameTier := .basin }), (7, { st := .resident .basin, frame := 16, frameTier := .basin })], dirs := [(0, { valid := true, used := 1, leaf := 257 })], leaves := [(257, true)], frames := [(67108864, true), (67108872, true), (67108880, true)] }, mem := (Map.store ([] : Memory) 458816 (bytesOfNat 64 761163252224488149721944948825796241741573442368564445261489427631613106011445668741606156487924711426)), regions := [(12289, { valid := true, read := true, write := true, keyCheck := 7, base := 655360, lenM1 := 655359 })] },
     3, .basin, 458752, 458816, BitVec.ofNat 512
     761163252224488149721944948825796241741573442368564445261489427631613106011445668741606156487924711426,
     by decide +kernel⟩,
   ⟨{ (st [(Reg.PG_READY_READY.place .tier, 1), (Reg.PG_READY_READY.place (.bas 0), 1), (Reg.BAS_MEM_STAT_ONLINE.place (.bas 0), 1), (Reg.BAS_MEM_FRAMES_FRAMES.place (.bas 0), 786432), (Reg.PG_READY_READY.place (.move 3), 1), (Reg.PG_READY_READY.place .srch, 1), (Reg.DEV_NODE_NODE.place .dev, 9), (Reg.DISP_ROLE_CUR.place (.disp 3), 3), (Reg.SRCH_CTRL_EN.place .srch, 1), (Reg.CACHE_CFG_ENTRIES.place .srch 3, 1), (Reg.CACHE_CFG_TTL_MAX_S.place .srch 3, 60), (Reg.CACHE_CFG_PFX_RGN.place .srch 3, 1), (Reg.CACHE_CFG_ENT_BASE_LO.place .srch 3, (327680 / 2 ^ Reg.CACHE_CFG_ENT_BASE_LO.lo)), (Reg.CACHE_CFG_IDX_BASE_LO.place .srch 3, (393216 / 2 ^ Reg.CACHE_CFG_IDX_BASE_LO.lo)), (Reg.CACHE_CFG_RING_BASE_LO.place .srch 3, (458752 / 2 ^ Reg.CACHE_CFG_RING_BASE_LO.lo)), (Reg.CACHE_CFG_RING_LOG2.place .srch 3, 4), (Reg.CACHE_CFG_RING_EN.place .srch 3, 1)]) with tier := { pages := [(5, { st := .resident .basin, frame := 0, frameTier := .basin }), (6, { st := .resident .basin, frame := 8, frameTier := .basin }), (7, { st := .resident .basin, frame := 16, frameTier := .basin }), (10, { st := .resident .basin, frame := 1, frameTier := .basin })], dirs := [(0, { valid := true, used := 1, leaf := 257 })], leaves := [(257, true)], frames := [(67108864, true), (67108872, true), (67108880, true)] }, mem := (Map.store (Map.store ([] : Memory) 327680 (bytesOfNat 64 10679935676927786821761750686256969077883929784070979104683528524315777993942491825452334509457417)) 348160 (bytesOfNat 16 1)), srch := { works := [{ ticket := 7, part := 3, desc := 726838724295606890549323807888004535114804612911806210003435148006435529854971365694755495975252993192375627617711846675140758116539367426, taken := 3, coll := 0, entry := some 0 }], nextTicket := 8 }, now := 9 },
     3, 7, .basin,
     { ticket := 7, part := 3, desc := 726838724295606890549323807888004535114804612911806210003435148006435529854971365694755495975252993192375627617711846675140758116539367426, taken := 3, coll := 0, entry := some 0 },
     0,
     726838724295606890549323807888004535114804612911806210003435148006435529854971365694755495975252993192375627617711846675140758116539367426,
     by decide +kernel⟩,
   ⟨{ (st [(Reg.PG_READY_READY.place .tier, 1), (Reg.PG_READY_READY.place (.bas 0), 1), (Reg.BAS_MEM_STAT_ONLINE.place (.bas 0), 1), (Reg.BAS_MEM_FRAMES_FRAMES.place (.bas 0), 786432), (Reg.PG_READY_READY.place (.move 3), 1), (Reg.PG_READY_READY.place .srch, 1), (Reg.DEV_NODE_NODE.place .dev, 9), (Reg.DISP_ROLE_CUR.place (.disp 3), 3), (Reg.SRCH_CTRL_EN.place .srch, 1), (Reg.CACHE_CFG_ENTRIES.place .srch 3, 1), (Reg.CACHE_CFG_TTL_MAX_S.place .srch 3, 60), (Reg.CACHE_CFG_PFX_RGN.place .srch 3, 1), (Reg.CACHE_CFG_ENT_BASE_LO.place .srch 3, (327680 / 2 ^ Reg.CACHE_CFG_ENT_BASE_LO.lo)), (Reg.CACHE_CFG_IDX_BASE_LO.place .srch 3, (393216 / 2 ^ Reg.CACHE_CFG_IDX_BASE_LO.lo)), (Reg.CACHE_CFG_RING_BASE_LO.place .srch 3, (458752 / 2 ^ Reg.CACHE_CFG_RING_BASE_LO.lo)), (Reg.CACHE_CFG_RING_LOG2.place .srch 3, 4), (Reg.CACHE_CFG_RING_EN.place .srch 3, 1)]) with tier := { pages := [(5, { st := .resident .basin, frame := 0, frameTier := .basin }), (6, { st := .resident .basin, frame := 8, frameTier := .basin }), (7, { st := .resident .basin, frame := 16, frameTier := .basin }), (10, { st := .resident .basin, frame := 1, frameTier := .basin })], dirs := [(0, { valid := true, used := 1, leaf := 257 })], leaves := [(257, true)], frames := [(67108864, true), (67108872, true), (67108880, true)] }, mem := (Map.store (Map.store ([] : Memory) 327680 (bytesOfNat 64 10679935676927786821761750686256969077883929784070979104683528524315777993942491825452334509457417)) 348160 (bytesOfNat 16 1)), srch := { works := [{ ticket := 7, part := 3, desc := 726838724295606890549323807888004535114804612911806210003435148006435529854971365694755495975252993192375627617711846675140758116539367426, taken := 3, coll := 0, entry := some 0 }], nextTicket := 8 }, now := 9 },
     3, 7, .basin,
     { ticket := 7, part := 3, desc := 726838724295606890549323807888004535114804612911806210003435148006435529854971365694755495975252993192375627617711846675140758116539367426, taken := 3, coll := 0, entry := some 0 },
     0,
     726838724295606890549323807888004535114804612911806210003435148006435529854971365694755495975252993192375627617711846675140758116539367426,
     by decide +kernel⟩,
   ⟨{ (st [(Reg.PG_READY_READY.place .tier, 1), (Reg.PG_READY_READY.place (.bas 0), 1), (Reg.BAS_MEM_STAT_ONLINE.place (.bas 0), 1), (Reg.BAS_MEM_FRAMES_FRAMES.place (.bas 0), 786432), (Reg.PG_READY_READY.place (.move 3), 1), (Reg.PG_READY_READY.place .srch, 1), (Reg.DEV_NODE_NODE.place .dev, 9), (Reg.DISP_ROLE_CUR.place (.disp 3), 3), (Reg.SRCH_CTRL_EN.place .srch, 1), (Reg.CACHE_CFG_ENTRIES.place .srch 3, 1), (Reg.CACHE_CFG_TTL_MAX_S.place .srch 3, 60), (Reg.CACHE_CFG_PFX_RGN.place .srch 3, 1), (Reg.CACHE_CFG_ENT_BASE_LO.place .srch 3, (327680 / 2 ^ Reg.CACHE_CFG_ENT_BASE_LO.lo)), (Reg.CACHE_CFG_IDX_BASE_LO.place .srch 3, (393216 / 2 ^ Reg.CACHE_CFG_IDX_BASE_LO.lo)), (Reg.CACHE_CFG_RING_BASE_LO.place .srch 3, (458752 / 2 ^ Reg.CACHE_CFG_RING_BASE_LO.lo)), (Reg.CACHE_CFG_RING_LOG2.place .srch 3, 4), (Reg.CACHE_CFG_RING_EN.place .srch 3, 1)]) with tier := { pages := [(5, { st := .resident .basin, frame := 0, frameTier := .basin }), (6, { st := .resident .basin, frame := 8, frameTier := .basin }), (7, { st := .resident .basin, frame := 16, frameTier := .basin })], dirs := [(0, { valid := true, used := 1, leaf := 257 })], leaves := [(257, true)], frames := [(67108864, true), (67108872, true), (67108880, true)] } },
     3, 7, true, by decide +kernel⟩⟩

/-- The hypotheses of PoolCommandsRun can be met, clause by clause. -/
theorem wit_PoolCommandsRun :
    (∃ (s : State) (region : Fin 256) (r : MemReq) (f : PoolFwd), (s.srch.fwds.find? (fun f => f.region == region.val
      && f.req == r) = some f) ∧ f.op = 0x02 ∧ r.placeAck = true ∧ r.srcNode ≠ s.node) ∧
    (∃ (s : State) (region : Fin 256) (r : MemReq) (f : PoolFwd), (s.srch.fwds.find? (fun f => f.region == region.val
      && f.req == r) = some f) ∧ (f.op ≠ 0x02 ∨ r.placeAck = false)) ∧
    (∃ (s : State) (region : Fin 256) (r : MemReq) (f : PoolFwd) (y : Outst), (s.srch.fwds.find? (fun f => f.region
      == region.val && f.req == r) = some f) ∧ f.op = 0x02 ∧ r.placeAck = true ∧ r.srcNode = s.node ∧ (s.reqSlot
      r.srcFeng r.tag = some y) ∧ y.req = r ∧ y.kind = .store ∧ y.owner = .issuer ∧ s.noFwd r.srcFeng) ∧
    (∃ (s : State) (region : Fin 256) (r : MemReq), (∀ f ∈ s.srch.fwds, f.region ≠ region.val ∨ f.req ≠ r)) ∧
    (∃ (s : State), s.ready .srch = true ∧ s.fld .srch Reg.POOL_CMD_BUSY = 0) ∧
    (∃ (s : State), s.ready .srch = true ∧ s.fld .srch Reg.POOL_CMD_BUSY = 0) ∧
    (∃ (s : State), s.ready .srch = true ∧ s.fld .srch Reg.POOL_CMD_BUSY ≠ 0) ∧
    (∃ (s : State) (op : Nat) (region : Nat) (member : Nat) (pages : Nat) (home : TierName), (s.srch.poolCmd = some
      (op, region, member)) ∧ ((if op = 0 then s.fld .srch Reg.POOL_CMD_TGT_NODE else (poolMember (s.poolDesc
      region).2 1).1) ≠ s.node) ∧ pages < 2 ^ Reg.POOL_CMD_DONE_PAGES.width ∧ (s.leaf (pageOf (s.poolDesc
      region).1)).st = .resident home ∧ s.heldOn (pageOf (s.poolDesc region).1) = []) ∧
    (∃ (s : State) (op : Nat) (region : Nat) (member : Nat) (pages : Nat) (off : Nat) (d : Nat), (s.srch.poolCmd =
      some (op, region, member)) ∧ d = (s.poolDesc region).2 ∧ off = bits d 64 47 ∧ ((if op = 0 then s.fld .srch
      Reg.POOL_CMD_TGT_NODE else (poolMember d 1).1) = s.node) ∧ min pages (bits d 128 47 / 65536) = 1 ∧ pages < 2 ^
      Reg.POOL_CMD_DONE_PAGES.width ∧ s.writable off 65536 = true ∧ s.writable (s.poolDesc region).1 1 = true ∧
      ((s.poolDesc region).1 < off ∨ off + 65536 ≤ (s.poolDesc region).1)) ∧
    (∃ (s : State) (op : Nat) (region : Nat) (member : Nat) (pages : Nat), (s.srch.poolCmd = some (op, region,
      member)) ∧ ((if op = 0 then s.fld .srch Reg.POOL_CMD_TGT_NODE else (poolMember (s.poolDesc region).2 1).1) ≠
      s.node) ∧ pages < 2 ^ Reg.POOL_CMD_DONE_PAGES.width) ∧
    (∃ (s : State) (ok : Bool) (pages : Nat), s.srch.poolCmd = none) :=
  ⟨⟨{ (st [(Reg.PG_READY_READY.place .tier, 1), (Reg.PG_READY_READY.place (.bas 0), 1), (Reg.BAS_MEM_STAT_ONLINE.place (.bas 0), 1), (Reg.BAS_MEM_FRAMES_FRAMES.place (.bas 0), 786432), (Reg.PG_READY_READY.place (.move 3), 1), (Reg.PG_READY_READY.place .srch, 1), (Reg.DEV_NODE_NODE.place .dev, 9), (Reg.DISP_ROLE_CUR.place (.disp 3), 3), (Reg.SRCH_CTRL_EN.place .srch, 1), (Reg.CACHE_CFG_ENTRIES.place .srch 3, 1), (Reg.CACHE_CFG_TTL_MAX_S.place .srch 3, 60), (Reg.CACHE_CFG_PFX_RGN.place .srch 3, 1), (Reg.CACHE_CFG_ENT_BASE_LO.place .srch 3, (327680 / 2 ^ Reg.CACHE_CFG_ENT_BASE_LO.lo)), (Reg.CACHE_CFG_IDX_BASE_LO.place .srch 3, (393216 / 2 ^ Reg.CACHE_CFG_IDX_BASE_LO.lo)), (Reg.CACHE_CFG_RING_BASE_LO.place .srch 3, (458752 / 2 ^ Reg.CACHE_CFG_RING_BASE_LO.lo)), (Reg.CACHE_CFG_RING_LOG2.place .srch 3, 4), (Reg.CACHE_CFG_RING_EN.place .srch 3, 1)]) with tier := { pages := [(5, { st := .resident .basin, frame := 0, frameTier := .basin }), (6, { st := .resident .basin, frame := 8, frameTier := .basin }), (7, { st := .resident .basin, frame := 16, frameTier := .basin })], dirs := [(0, { valid := true, used := 1, leaf := 257 })], leaves := [(257, true)], frames := [(67108864, true), (67108872, true), (67108880, true)] }, srch := { fwds := [{ region := 2, op := 2, req := { tc := 2, cacheable := false, placeAck := true, len8 := 0, srcFeng := 6, srcNode := 4, tag := 7, node := 9, part := 0, offset := 327688, key := 0, gen := 0, epoch := 0, rsvZero := true, data := [] }, bytes := [], ticket := 0, fwd := { tc := 2, cacheable := false, placeAck := true, len8 := 0, srcFeng := 6, srcNode := 9, tag := 7, node := 9, part := 0, offset := 327688, key := 0, gen := 0, epoch := 0, rsvZero := true, data := [] }, sent := true }] } },
     2,
     { tc := 2, cacheable := false, placeAck := true, len8 := 0, srcFeng := 6, srcNode := 4, tag := 7, node := 9, part := 0, offset := 327688, key := 0, gen := 0, epoch := 0, rsvZero := true, data := [] },
     { region := 2, op := 2, req := { tc := 2, cacheable := false, placeAck := true, len8 := 0, srcFeng := 6, srcNode := 4, tag := 7, node := 9, part := 0, offset := 327688, key := 0, gen := 0, epoch := 0, rsvZero := true, data := [] }, bytes := [], ticket := 0, fwd := { tc := 2, cacheable := false, placeAck := true, len8 := 0, srcFeng := 6, srcNode := 9, tag := 7, node := 9, part := 0, offset := 327688, key := 0, gen := 0, epoch := 0, rsvZero := true, data := [] }, sent := true },
     by decide +kernel⟩,
   ⟨{ (st [(Reg.PG_READY_READY.place .tier, 1), (Reg.PG_READY_READY.place (.bas 0), 1), (Reg.BAS_MEM_STAT_ONLINE.place (.bas 0), 1), (Reg.BAS_MEM_FRAMES_FRAMES.place (.bas 0), 786432), (Reg.PG_READY_READY.place (.move 3), 1), (Reg.PG_READY_READY.place .srch, 1), (Reg.DEV_NODE_NODE.place .dev, 9), (Reg.DISP_ROLE_CUR.place (.disp 3), 3), (Reg.SRCH_CTRL_EN.place .srch, 1), (Reg.CACHE_CFG_ENTRIES.place .srch 3, 1), (Reg.CACHE_CFG_TTL_MAX_S.place .srch 3, 60), (Reg.CACHE_CFG_PFX_RGN.place .srch 3, 1), (Reg.CACHE_CFG_ENT_BASE_LO.place .srch 3, (327680 / 2 ^ Reg.CACHE_CFG_ENT_BASE_LO.lo)), (Reg.CACHE_CFG_IDX_BASE_LO.place .srch 3, (393216 / 2 ^ Reg.CACHE_CFG_IDX_BASE_LO.lo)), (Reg.CACHE_CFG_RING_BASE_LO.place .srch 3, (458752 / 2 ^ Reg.CACHE_CFG_RING_BASE_LO.lo)), (Reg.CACHE_CFG_RING_LOG2.place .srch 3, 4), (Reg.CACHE_CFG_RING_EN.place .srch 3, 1)]) with tier := { pages := [(5, { st := .resident .basin, frame := 0, frameTier := .basin }), (6, { st := .resident .basin, frame := 8, frameTier := .basin }), (7, { st := .resident .basin, frame := 16, frameTier := .basin })], dirs := [(0, { valid := true, used := 1, leaf := 257 })], leaves := [(257, true)], frames := [(67108864, true), (67108872, true), (67108880, true)] }, srch := { fwds := [{ region := 2, op := 2, req := { tc := 2, cacheable := false, placeAck := false, len8 := 0, srcFeng := 6, srcNode := 4, tag := 7, node := 9, part := 0, offset := 327688, key := 0, gen := 0, epoch := 0, rsvZero := true, data := [] }, bytes := [], ticket := 0, fwd := { tc := 2, cacheable := false, placeAck := true, len8 := 0, srcFeng := 6, srcNode := 9, tag := 7, node := 9, part := 0, offset := 327688, key := 0, gen := 0, epoch := 0, rsvZero := true, data := [] }, sent := true }] } },
     2,
     { tc := 2, cacheable := false, placeAck := false, len8 := 0, srcFeng := 6, srcNode := 4, tag := 7, node := 9, part := 0, offset := 327688, key := 0, gen := 0, epoch := 0, rsvZero := true, data := [] },
     { region := 2, op := 2, req := { tc := 2, cacheable := false, placeAck := false, len8 := 0, srcFeng := 6, srcNode := 4, tag := 7, node := 9, part := 0, offset := 327688, key := 0, gen := 0, epoch := 0, rsvZero := true, data := [] }, bytes := [], ticket := 0, fwd := { tc := 2, cacheable := false, placeAck := true, len8 := 0, srcFeng := 6, srcNode := 9, tag := 7, node := 9, part := 0, offset := 327688, key := 0, gen := 0, epoch := 0, rsvZero := true, data := [] }, sent := true },
     by decide +kernel⟩,
   ⟨{ (st [(Reg.PG_READY_READY.place .tier, 1), (Reg.PG_READY_READY.place (.bas 0), 1), (Reg.BAS_MEM_STAT_ONLINE.place (.bas 0), 1), (Reg.BAS_MEM_FRAMES_FRAMES.place (.bas 0), 786432), (Reg.PG_READY_READY.place (.move 3), 1), (Reg.PG_READY_READY.place .srch, 1), (Reg.DEV_NODE_NODE.place .dev, 9), (Reg.DISP_ROLE_CUR.place (.disp 3), 3), (Reg.SRCH_CTRL_EN.place .srch, 1), (Reg.CACHE_CFG_ENTRIES.place .srch 3, 1), (Reg.CACHE_CFG_TTL_MAX_S.place .srch 3, 60), (Reg.CACHE_CFG_PFX_RGN.place .srch 3, 1), (Reg.CACHE_CFG_ENT_BASE_LO.place .srch 3, (327680 / 2 ^ Reg.CACHE_CFG_ENT_BASE_LO.lo)), (Reg.CACHE_CFG_IDX_BASE_LO.place .srch 3, (393216 / 2 ^ Reg.CACHE_CFG_IDX_BASE_LO.lo)), (Reg.CACHE_CFG_RING_BASE_LO.place .srch 3, (458752 / 2 ^ Reg.CACHE_CFG_RING_BASE_LO.lo)), (Reg.CACHE_CFG_RING_LOG2.place .srch 3, 4), (Reg.CACHE_CFG_RING_EN.place .srch 3, 1)]) with tier := { pages := [(5, { st := .resident .basin, frame := 0, frameTier := .basin }), (6, { st := .resident .basin, frame := 8, frameTier := .basin }), (7, { st := .resident .basin, frame := 16, frameTier := .basin })], dirs := [(0, { valid := true, used := 1, leaf := 257 })], leaves := [(257, true)], frames := [(67108864, true), (67108872, true), (67108880, true)] }, srch := { fwds := [{ region := 2, op := 2, req := { tc := 2, cacheable := false, placeAck := true, len8 := 0, srcFeng := 6, srcNode := 9, tag := 7, node := 9, part := 0, offset := 327688, key := 0, gen := 0, epoch := 0, rsvZero := true, data := [] }, bytes := [], ticket := 0, fwd := { tc := 2, cacheable := false, placeAck := true, len8 := 0, srcFeng := 6, srcNode := 9, tag := 7, node := 9, part := 0, offset := 327688, key := 0, gen := 0, epoch := 0, rsvZero := true, data := [] }, sent := true }] }, engines := [(6, { slots := [(7, some { kind := .store, req := { tc := 2, cacheable := false, placeAck := true, len8 := 0, srcFeng := 6, srcNode := 9, tag := 7, node := 9, part := 0, offset := 327688, key := 0, gen := 0, epoch := 0, rsvZero := true, data := [] }, issued := 0, noInstall := false, planes := [0], answers := [] })] })] },
     2,
     { tc := 2, cacheable := false, placeAck := true, len8 := 0, srcFeng := 6, srcNode := 9, tag := 7, node := 9, part := 0, offset := 327688, key := 0, gen := 0, epoch := 0, rsvZero := true, data := [] },
     { region := 2, op := 2, req := { tc := 2, cacheable := false, placeAck := true, len8 := 0, srcFeng := 6, srcNode := 9, tag := 7, node := 9, part := 0, offset := 327688, key := 0, gen := 0, epoch := 0, rsvZero := true, data := [] }, bytes := [], ticket := 0, fwd := { tc := 2, cacheable := false, placeAck := true, len8 := 0, srcFeng := 6, srcNode := 9, tag := 7, node := 9, part := 0, offset := 327688, key := 0, gen := 0, epoch := 0, rsvZero := true, data := [] }, sent := true },
     { kind := .store, req := { tc := 2, cacheable := false, placeAck := true, len8 := 0, srcFeng := 6, srcNode := 9, tag := 7, node := 9, part := 0, offset := 327688, key := 0, gen := 0, epoch := 0, rsvZero := true, data := [] }, issued := 0, noInstall := false, planes := [0], answers := [] },
     by decide +kernel⟩,
   ⟨{ (st [(Reg.PG_READY_READY.place .tier, 1), (Reg.PG_READY_READY.place (.bas 0), 1), (Reg.BAS_MEM_STAT_ONLINE.place (.bas 0), 1), (Reg.BAS_MEM_FRAMES_FRAMES.place (.bas 0), 786432), (Reg.PG_READY_READY.place (.move 3), 1), (Reg.PG_READY_READY.place .srch, 1), (Reg.DEV_NODE_NODE.place .dev, 9), (Reg.DISP_ROLE_CUR.place (.disp 3), 3), (Reg.SRCH_CTRL_EN.place .srch, 1), (Reg.CACHE_CFG_ENTRIES.place .srch 3, 1), (Reg.CACHE_CFG_TTL_MAX_S.place .srch 3, 60), (Reg.CACHE_CFG_PFX_RGN.place .srch 3, 1), (Reg.CACHE_CFG_ENT_BASE_LO.place .srch 3, (327680 / 2 ^ Reg.CACHE_CFG_ENT_BASE_LO.lo)), (Reg.CACHE_CFG_IDX_BASE_LO.place .srch 3, (393216 / 2 ^ Reg.CACHE_CFG_IDX_BASE_LO.lo)), (Reg.CACHE_CFG_RING_BASE_LO.place .srch 3, (458752 / 2 ^ Reg.CACHE_CFG_RING_BASE_LO.lo)), (Reg.CACHE_CFG_RING_LOG2.place .srch 3, 4), (Reg.CACHE_CFG_RING_EN.place .srch 3, 1)]) with tier := { pages := [(5, { st := .resident .basin, frame := 0, frameTier := .basin }), (6, { st := .resident .basin, frame := 8, frameTier := .basin }), (7, { st := .resident .basin, frame := 16, frameTier := .basin })], dirs := [(0, { valid := true, used := 1, leaf := 257 })], leaves := [(257, true)], frames := [(67108864, true), (67108872, true), (67108880, true)] } },
     2,
     { tc := 2, cacheable := false, placeAck := true, len8 := 0, srcFeng := 6, srcNode := 4, tag := 7, node := 9, part := 0, offset := 327688, key := 0, gen := 0, epoch := 0, rsvZero := true, data := [] },
     by decide +kernel⟩,
   ⟨{ (st [(Reg.PG_READY_READY.place .tier, 1), (Reg.PG_READY_READY.place (.bas 0), 1), (Reg.BAS_MEM_STAT_ONLINE.place (.bas 0), 1), (Reg.BAS_MEM_FRAMES_FRAMES.place (.bas 0), 786432), (Reg.PG_READY_READY.place (.move 3), 1), (Reg.PG_READY_READY.place .srch, 1), (Reg.DEV_NODE_NODE.place .dev, 9), (Reg.DISP_ROLE_CUR.place (.disp 3), 3), (Reg.SRCH_CTRL_EN.place .srch, 1), (Reg.CACHE_CFG_ENTRIES.place .srch 3, 1), (Reg.CACHE_CFG_TTL_MAX_S.place .srch 3, 60), (Reg.CACHE_CFG_PFX_RGN.place .srch 3, 1), (Reg.CACHE_CFG_ENT_BASE_LO.place .srch 3, (327680 / 2 ^ Reg.CACHE_CFG_ENT_BASE_LO.lo)), (Reg.CACHE_CFG_IDX_BASE_LO.place .srch 3, (393216 / 2 ^ Reg.CACHE_CFG_IDX_BASE_LO.lo)), (Reg.CACHE_CFG_RING_BASE_LO.place .srch 3, (458752 / 2 ^ Reg.CACHE_CFG_RING_BASE_LO.lo)), (Reg.CACHE_CFG_RING_LOG2.place .srch 3, 4), (Reg.CACHE_CFG_RING_EN.place .srch 3, 1)]) with tier := { pages := [(5, { st := .resident .basin, frame := 0, frameTier := .basin }), (6, { st := .resident .basin, frame := 8, frameTier := .basin }), (7, { st := .resident .basin, frame := 16, frameTier := .basin })], dirs := [(0, { valid := true, used := 1, leaf := 257 })], leaves := [(257, true)], frames := [(67108864, true), (67108872, true), (67108880, true)] } },
     by decide +kernel⟩,
   ⟨{ (st [(Reg.PG_READY_READY.place .tier, 1), (Reg.PG_READY_READY.place (.bas 0), 1), (Reg.BAS_MEM_STAT_ONLINE.place (.bas 0), 1), (Reg.BAS_MEM_FRAMES_FRAMES.place (.bas 0), 786432), (Reg.PG_READY_READY.place (.move 3), 1), (Reg.PG_READY_READY.place .srch, 1), (Reg.DEV_NODE_NODE.place .dev, 9), (Reg.DISP_ROLE_CUR.place (.disp 3), 3), (Reg.SRCH_CTRL_EN.place .srch, 1), (Reg.CACHE_CFG_ENTRIES.place .srch 3, 1), (Reg.CACHE_CFG_TTL_MAX_S.place .srch 3, 60), (Reg.CACHE_CFG_PFX_RGN.place .srch 3, 1), (Reg.CACHE_CFG_ENT_BASE_LO.place .srch 3, (327680 / 2 ^ Reg.CACHE_CFG_ENT_BASE_LO.lo)), (Reg.CACHE_CFG_IDX_BASE_LO.place .srch 3, (393216 / 2 ^ Reg.CACHE_CFG_IDX_BASE_LO.lo)), (Reg.CACHE_CFG_RING_BASE_LO.place .srch 3, (458752 / 2 ^ Reg.CACHE_CFG_RING_BASE_LO.lo)), (Reg.CACHE_CFG_RING_LOG2.place .srch 3, 4), (Reg.CACHE_CFG_RING_EN.place .srch 3, 1)]) with tier := { pages := [(5, { st := .resident .basin, frame := 0, frameTier := .basin }), (6, { st := .resident .basin, frame := 8, frameTier := .basin }), (7, { st := .resident .basin, frame := 16, frameTier := .basin })], dirs := [(0, { valid := true, used := 1, leaf := 257 })], leaves := [(257, true)], frames := [(67108864, true), (67108872, true), (67108880, true)] } },
     by decide +kernel⟩,
   ⟨{ (st [(Reg.PG_READY_READY.place .tier, 1), (Reg.PG_READY_READY.place (.bas 0), 1), (Reg.BAS_MEM_STAT_ONLINE.place (.bas 0), 1), (Reg.BAS_MEM_FRAMES_FRAMES.place (.bas 0), 786432), (Reg.PG_READY_READY.place (.move 3), 1), (Reg.PG_READY_READY.place .srch, 1), (Reg.DEV_NODE_NODE.place .dev, 9), (Reg.DISP_ROLE_CUR.place (.disp 3), 3), (Reg.SRCH_CTRL_EN.place .srch, 1), (Reg.CACHE_CFG_ENTRIES.place .srch 3, 1), (Reg.CACHE_CFG_TTL_MAX_S.place .srch 3, 60), (Reg.CACHE_CFG_PFX_RGN.place .srch 3, 1), (Reg.CACHE_CFG_ENT_BASE_LO.place .srch 3, (327680 / 2 ^ Reg.CACHE_CFG_ENT_BASE_LO.lo)), (Reg.CACHE_CFG_IDX_BASE_LO.place .srch 3, (393216 / 2 ^ Reg.CACHE_CFG_IDX_BASE_LO.lo)), (Reg.CACHE_CFG_RING_BASE_LO.place .srch 3, (458752 / 2 ^ Reg.CACHE_CFG_RING_BASE_LO.lo)), (Reg.CACHE_CFG_RING_LOG2.place .srch 3, 4), (Reg.CACHE_CFG_RING_EN.place .srch 3, 1), (Reg.POOL_CMD_BUSY.place .srch, 1)]) with tier := { pages := [(5, { st := .resident .basin, frame := 0, frameTier := .basin }), (6, { st := .resident .basin, frame := 8, frameTier := .basin }), (7, { st := .resident .basin, frame := 16, frameTier := .basin })], dirs := [(0, { valid := true, used := 1, leaf := 257 })], leaves := [(257, true)], frames := [(67108864, true), (67108872, true), (67108880, true)] } },
     by decide +kernel⟩,
   ⟨{ (st [(Reg.PG_READY_READY.place .tier, 1), (Reg.PG_READY_READY.place (.bas 0), 1), (Reg.BAS_MEM_STAT_ONLINE.place (.bas 0), 1), (Reg.BAS_MEM_FRAMES_FRAMES.place (.bas 0), 786432), (Reg.PG_READY_READY.place (.move 3), 1), (Reg.PG_READY_READY.place .srch, 1), (Reg.DEV_NODE_NODE.place .dev, 9), (Reg.DISP_ROLE_CUR.place (.disp 3), 3), (Reg.SRCH_CTRL_EN.place .srch, 1), (Reg.CACHE_CFG_ENTRIES.place .srch 3, 1), (Reg.CACHE_CFG_TTL_MAX_S.place .srch 3, 60), (Reg.CACHE_CFG_PFX_RGN.place .srch 3, 1), (Reg.CACHE_CFG_ENT_BASE_LO.place .srch 3, (327680 / 2 ^ Reg.CACHE_CFG_ENT_BASE_LO.lo)), (Reg.CACHE_CFG_IDX_BASE_LO.place .srch 3, (393216 / 2 ^ Reg.CACHE_CFG_IDX_BASE_LO.lo)), (Reg.CACHE_CFG_RING_BASE_LO.place .srch 3, (458752 / 2 ^ Reg.CACHE_CFG_RING_BASE_LO.lo)), (Reg.CACHE_CFG_RING_LOG2.place .srch 3, 4), (Reg.CACHE_CFG_RING_EN.place .srch 3, 1), (Reg.POOL_BASE_LO_BASE_LO.place .srch, (327680 / 2 ^ Reg.POOL_BASE_LO_BASE_LO.lo)), (Reg.POOL_COUNT_COUNT.place .srch, 1), (Reg.POOL_CMD_BUSY.place .srch, 1), (Reg.POOL_CMD_TGT_NODE.place .srch, 4)]) with tier := { pages := [(5, { st := .resident .basin, frame := 0, frameTier := .basin }), (6, { st := .resident .basin, frame := 8, frameTier := .basin }), (7, { st := .resident .basin, frame := 16, frameTier := .basin })], dirs := [(0, { valid := true, used := 1, leaf := 257 })], leaves := [(257, true)], frames := [(67108864, true), (67108872, true), (67108880, true)] }, mem := (Map.store ([] : Memory) 327680 (bytesOfNat 64 13)), srch := { poolCmd := some (0, 0, 1) } },
     0, 0, 1, 3, .basin, by decide +kernel⟩,
   ⟨{ (st [(Reg.PG_READY_READY.place .tier, 1), (Reg.PG_READY_READY.place (.bas 0), 1), (Reg.BAS_MEM_STAT_ONLINE.place (.bas 0), 1), (Reg.BAS_MEM_FRAMES_FRAMES.place (.bas 0), 786432), (Reg.PG_READY_READY.place (.move 3), 1), (Reg.PG_READY_READY.place .srch, 1), (Reg.DEV_NODE_NODE.place .dev, 9), (Reg.DISP_ROLE_CUR.place (.disp 3), 3), (Reg.SRCH_CTRL_EN.place .srch, 1), (Reg.CACHE_CFG_ENTRIES.place .srch 3, 1), (Reg.CACHE_CFG_TTL_MAX_S.place .srch 3, 60), (Reg.CACHE_CFG_PFX_RGN.place .srch 3, 1), (Reg.CACHE_CFG_ENT_BASE_LO.place .srch 3, (327680 / 2 ^ Reg.CACHE_CFG_ENT_BASE_LO.lo)), (Reg.CACHE_CFG_IDX_BASE_LO.place .srch 3, (393216 / 2 ^ Reg.CACHE_CFG_IDX_BASE_LO.lo)), (Reg.CACHE_CFG_RING_BASE_LO.place .srch 3, (458752 / 2 ^ Reg.CACHE_CFG_RING_BASE_LO.lo)), (Reg.CACHE_CFG_RING_LOG2.place .srch 3, 4), (Reg.CACHE_CFG_RING_EN.place .srch 3, 1), (Reg.POOL_BASE_LO_BASE_LO.place .srch, (327680 / 2 ^ Reg.POOL_BASE_LO_BASE_LO.lo)), (Reg.POOL_COUNT_COUNT.place .srch, 1), (Reg.POOL_CMD_BUSY.place .srch, 1), (Reg.POOL_CMD_TGT_NODE.place .srch, 9)]) with tier := { pages := [(5, { st := .resident .basin, frame := 0, frameTier := .basin }), (6, { st := .resident .basin, frame := 8, frameTier := .basin }), (7, { st := .resident .basin, frame := 16, frameTier := .basin })], dirs := [(0, { valid := true, used := 1, leaf := 257 })], leaves := [(257, true)], frames := [(67108864, true), (67108872, true), (67108880, true)] }, mem := (Map.store ([] : Memory) 327680 (bytesOfNat 64 (13 + 2 ^ 64 * 393216 + 2 ^ 128 * 65536 + 2 ^ 256 * 4))), srch := { poolCmd := some (0, 0, 1) } },
     0, 0, 1, 1, 393216, 463168356949264781694283940034751653713825137193185404947103526367789072777229,
     by decide +kernel⟩,
   ⟨{ (st [(Reg.PG_READY_READY.place .tier, 1), (Reg.PG_READY_READY.place (.bas 0), 1), (Reg.BAS_MEM_STAT_ONLINE.place (.bas 0), 1), (Reg.BAS_MEM_FRAMES_FRAMES.place (.bas 0), 786432), (Reg.PG_READY_READY.place (.move 3), 1), (Reg.PG_READY_READY.place .srch, 1), (Reg.DEV_NODE_NODE.place .dev, 9), (Reg.DISP_ROLE_CUR.place (.disp 3), 3), (Reg.SRCH_CTRL_EN.place .srch, 1), (Reg.CACHE_CFG_ENTRIES.place .srch 3, 1), (Reg.CACHE_CFG_TTL_MAX_S.place .srch 3, 60), (Reg.CACHE_CFG_PFX_RGN.place .srch 3, 1), (Reg.CACHE_CFG_ENT_BASE_LO.place .srch 3, (327680 / 2 ^ Reg.CACHE_CFG_ENT_BASE_LO.lo)), (Reg.CACHE_CFG_IDX_BASE_LO.place .srch 3, (393216 / 2 ^ Reg.CACHE_CFG_IDX_BASE_LO.lo)), (Reg.CACHE_CFG_RING_BASE_LO.place .srch 3, (458752 / 2 ^ Reg.CACHE_CFG_RING_BASE_LO.lo)), (Reg.CACHE_CFG_RING_LOG2.place .srch 3, 4), (Reg.CACHE_CFG_RING_EN.place .srch 3, 1), (Reg.POOL_BASE_LO_BASE_LO.place .srch, (327680 / 2 ^ Reg.POOL_BASE_LO_BASE_LO.lo)), (Reg.POOL_COUNT_COUNT.place .srch, 1), (Reg.POOL_CMD_BUSY.place .srch, 1), (Reg.POOL_CMD_TGT_NODE.place .srch, 4)]) with tier := { pages := [(5, { st := .resident .basin, frame := 0, frameTier := .basin }), (6, { st := .resident .basin, frame := 8, frameTier := .basin }), (7, { st := .resident .basin, frame := 16, frameTier := .basin })], dirs := [(0, { valid := true, used := 1, leaf := 257 })], leaves := [(257, true)], frames := [(67108864, true), (67108872, true), (67108880, true)] }, mem := (Map.store ([] : Memory) 327680 (bytesOfNat 64 13)), srch := { poolCmd := some (0, 0, 1) } },
     0, 0, 1, 3, by decide +kernel⟩,
   ⟨{ (st [(Reg.PG_READY_READY.place .tier, 1), (Reg.PG_READY_READY.place (.bas 0), 1), (Reg.BAS_MEM_STAT_ONLINE.place (.bas 0), 1), (Reg.BAS_MEM_FRAMES_FRAMES.place (.bas 0), 786432), (Reg.PG_READY_READY.place (.move 3), 1), (Reg.PG_READY_READY.place .srch, 1), (Reg.DEV_NODE_NODE.place .dev, 9), (Reg.DISP_ROLE_CUR.place (.disp 3), 3), (Reg.SRCH_CTRL_EN.place .srch, 1), (Reg.CACHE_CFG_ENTRIES.place .srch 3, 1), (Reg.CACHE_CFG_TTL_MAX_S.place .srch 3, 60), (Reg.CACHE_CFG_PFX_RGN.place .srch 3, 1), (Reg.CACHE_CFG_ENT_BASE_LO.place .srch 3, (327680 / 2 ^ Reg.CACHE_CFG_ENT_BASE_LO.lo)), (Reg.CACHE_CFG_IDX_BASE_LO.place .srch 3, (393216 / 2 ^ Reg.CACHE_CFG_IDX_BASE_LO.lo)), (Reg.CACHE_CFG_RING_BASE_LO.place .srch 3, (458752 / 2 ^ Reg.CACHE_CFG_RING_BASE_LO.lo)), (Reg.CACHE_CFG_RING_LOG2.place .srch 3, 4), (Reg.CACHE_CFG_RING_EN.place .srch 3, 1)]) with tier := { pages := [(5, { st := .resident .basin, frame := 0, frameTier := .basin }), (6, { st := .resident .basin, frame := 8, frameTier := .basin }), (7, { st := .resident .basin, frame := 16, frameTier := .basin })], dirs := [(0, { valid := true, used := 1, leaf := 257 })], leaves := [(257, true)], frames := [(67108864, true), (67108872, true), (67108880, true)] } },
     true, 3, by decide +kernel⟩⟩

/-- The hypotheses of LaunchesAreSelected can be met, clause by clause. -/
theorem wit_LaunchesAreSelected :
    (∃ (s : State) (p : PartId) (h : Nat) (r : BitVec 256), s.ready (.disp p) = true ∧ h = s.fld (.disp p)
      Reg.DISP_LRING_HEAD_HEAD ∧ (s.part p).started = [] ∧ s.unstarted p = [h] ∧ s.serveRead (pageOf (s.launchAt p
      h)) = .data ∧ r = BitVec.ofNat 256 (s.rdNat (s.launchAt p h) 32) ∧ s.launchBad p r = true ∧ s.tier.answers =
      []) ∧
    (∃ (s : State) (p : PartId) (h : Nat) (r : BitVec 256), s.ready (.disp p) = true ∧ h = s.fld (.disp p)
      Reg.DISP_LRING_HEAD_HEAD ∧ (s.part p).started = [] ∧ s.unstarted p = [h] ∧ s.serveRead (pageOf (s.launchAt p
      h)) = .data ∧ r = BitVec.ofNat 256 (s.rdNat (s.launchAt p h) 32) ∧ s.launchBad p r = false ∧ s.selectable p r =
      true ∧ (s.part p).active.length < 16 ∧ s.pwr.inMode.contains (.tileGate p) = false ∧ s.ready (.tile (tileOf p
      (recTile r))) = true ∧ s.newStep p r = false ∧ s.tier.answers = []) ∧
    (∃ (s : State) (p : PartId) (h : Nat) (r : BitVec 256) (x : ReqSlot), s.ready (.disp p) = true ∧ h = s.fld (.disp
      p) Reg.DISP_LRING_HEAD_HEAD ∧ (s.part p).started = [] ∧ s.unstarted p = [h] ∧ s.serveRead (pageOf (s.launchAt p
      h)) = .data ∧ r = BitVec.ofNat 256 (s.rdNat (s.launchAt p h) 32) ∧ s.launchBad p r = false ∧ s.selectable p r =
      true ∧ (s.part p).active.length < 16 ∧ s.pwr.inMode.contains (.tileGate p) = false ∧ s.ready (.tile (tileOf p
      (recTile r))) = true ∧ s.newStep p r = true ∧ s.flag (.disp p) Reg.DISP_CTRL_FSYNC_EN = false ∧ bit (s.fld .qrm
      Reg.QRM_REPLAY_MASK) p.val = false ∧ s.rs p (recSlot r) = x ∧ x.group = false ∧ s.tier.answers = []) ∧
    (∃ (s : State) (p : PartId) (h : Nat) (r1 : BitVec 256) (r2 : BitVec 256), s.ready (.disp p) = true ∧ h = s.fld
      (.disp p) Reg.DISP_LRING_HEAD_HEAD ∧ (s.part p).started = [] ∧ h + 1 < 2 ^ (s.lringLog2 p + 1) ∧ s.unstarted p
      = [h, h + 1] ∧ s.serveRead (pageOf (s.launchAt p h)) = .data ∧ s.serveRead (pageOf (s.launchAt p (h + 1))) =
      .data ∧ r1 = BitVec.ofNat 256 (s.rdNat (s.launchAt p h) 32) ∧ r2 = BitVec.ofNat 256 (s.rdNat (s.launchAt p (h +
      1)) 32) ∧ s.launchBad p r1 = false ∧ s.selectable p r1 = true ∧ (s.part p).active.length < 16 ∧
      s.pwr.inMode.contains (.tileGate p) = false ∧ s.ready (.tile (tileOf p (recTile r1))) = true ∧ s.launchBad p r2
      = false ∧ s.selectable p r2 = true ∧ s.ready (.tile (tileOf p (recTile r2))) = true ∧ s.flag (.disp p)
      Reg.DISP_CTRL_FSYNC_EN = false ∧ s.newStep p r1 = false ∧ s.newStep p r2 = false ∧ s.tier.answers = []) ∧
    (∃ (s : State) (p : PartId) (k : Fin 16) (o : ReadOutcome) (tile : Fin 8), s.ready (.disp p) = false) ∧
    (∃ (s : State) (p : PartId) (h : Nat) (r : BitVec 256) (tm : Nat) (e : Nat), s.ready (.disp p) = true ∧ h = s.fld
      (.disp p) Reg.DISP_LRING_HEAD_HEAD ∧ (s.part p).started = [] ∧ ((s.part p).fsyncHold = some (tm, e)) ∧ tm ≤
      s.now ∧ s.unstarted p = [h] ∧ s.serveRead (pageOf (s.launchAt p h)) = .data ∧ r = BitVec.ofNat 256 (s.rdNat
      (s.launchAt p h) 32) ∧ s.launchBad p r = false ∧ s.selectable p r = true ∧ (s.part p).active.length < 16 ∧
      s.pwr.inMode.contains (.tileGate p) = false ∧ s.ready (.tile (tileOf p (recTile r))) = true ∧ s.aligned p r =
      true ∧ bit (s.fld .qrm Reg.QRM_REPLAY_MASK) p.val = false ∧ (s.rs p (recSlot r)).group = false ∧ s.tier.answers
      = []) ∧
    (∃ (s : State) (p : PartId), ((s.part p).fsyncHold.all (fun x => decide (s.now < x.1)) = true)) ∧
    (∃ (s : State) (p : PartId) (k : Fin 16) (l : Launch) (d : BitVec 512) (pri : Nat), s.ready (.disp p) = true ∧
      ((s.part p).active[k.val]? = some l) ∧ s.readable (recList l.record + l.next * 64) 64 ∧ d = BitVec.ofNat 512
      (s.rdNat (recList l.record + l.next * 64) 64) ∧ (pri = if recKeepPri l.record then BV d 18 2 else s.effOf p
      (recSlot l.record)) ∧ (s.part p).used < 2048 ∧ (pri < 2 ∨ s.fld (.disp p) Reg.DISP_STORE_RSV_HI < 2048 -
      (s.part p).used) ∧ s.tier.answers = []) ∧
    (∃ (s : State) (p : PartId) (k : Fin 16) (l : Launch) (id : Nat), s.ready (.disp p) = true ∧ ((s.part
      p).active[k.val]? = some l) ∧ bit (s.fld .qrm Reg.QRM_REPLAY_MASK) p.val = false ∧ s.slotReqs p (recSlot
      l.record) = [id] ∧ s.req id = none) ∧
    (∃ (s : State) (p : PartId) (k : Fin 16) (o : ReadOutcome), (s.part p).active[k.val]? = none) ∧
    (∃ (s : State) (p : PartId) (tile : Fin 8) (q : Nat) (d2 : Int) (d3 : Int) (d : Queued) (rest : List Queued),
      s.ready (.disp p) = true ∧ s.ready (.tile (tileOf p tile.val)) = true ∧ (s.nextQueue p tile.val = some (q, d2,
      d3)) ∧ (s.tile (tileOf p tile.val)).slots.length + (s.tile (tileOf p tile.val)).coming.length < 64 ∧ Map.get []
      (s.part p).store (tile.val * 4 + q) = d :: rest) ∧
    (∃ (s : State) (p : PartId) (tile : Fin 8) (q : Nat), s.ready (.disp p) = true ∧ s.ready (.tile (tileOf p
      tile.val)) = true ∧ (s.tile (tileOf p tile.val)).slots.length + (s.tile (tileOf p tile.val)).coming.length < 64
      ∧ (q = if Map.get [] (s.part p).store (tile.val * 4) = [] then 1 else 0) ∧ Map.get [] (s.part p).store
      (tile.val * 4 + q) ≠ []) ∧
    (∃ (s : State) (p : PartId) (tile : Fin 8) (q : Nat) (d2 : Int) (d3 : Int), s.ready (.disp p) = true ∧ s.ready
      (.tile (tileOf p tile.val)) = true ∧ (s.nextQueue p tile.val = some (q, d2, d3)) ∧ 64 ≤ (s.tile (tileOf p
      tile.val)).slots.length + (s.tile (tileOf p tile.val)).coming.length) :=
  ⟨⟨{ (st [(Reg.PG_READY_READY.place .tier, 1), (Reg.PG_READY_READY.place (.bas 0), 1), (Reg.BAS_MEM_STAT_ONLINE.place (.bas 0), 1), (Reg.BAS_MEM_FRAMES_FRAMES.place (.bas 0), 786432), (Reg.PG_READY_READY.place (.disp 3), 1), (Reg.PG_READY_READY.place (.tile 25), 1), (Reg.PG_READY_READY.place (.tile 24), 1), (Reg.DISP_LRING_LOG2_LOG2.place (.disp 3), 6), (Reg.DISP_LRING_BASE_LO_BASE_LO.place (.disp 3), (327680 / 2 ^ Reg.DISP_LRING_BASE_LO_BASE_LO.lo)), (Reg.DISP_LRING_TAIL_TAIL.place (.disp 3), 1)]) with parts := [(3, { slots := [(7, { valid := true, reqId := 55, basePri := 2, effPri := 2 }), (8, { valid := true, reqId := 56, basePri := 1, effPri := 1 })] })], tier := { pages := [(5, { st := .resident .basin, frame := 0, frameTier := .basin })], dirs := [(0, { valid := true, used := 1, leaf := 257 })], leaves := [(257, true)], frames := [(67108864, true)] }, mem := (Map.store ([] : Memory) 327680 (bytesOfNat 32 34028257461835878832173644842946120720384)), now := 70 },
     3, 0, BitVec.ofNat 256 34028257461835878832173644842946120720384, by decide +kernel⟩,
   ⟨{ (st [(Reg.PG_READY_READY.place .tier, 1), (Reg.PG_READY_READY.place (.bas 0), 1), (Reg.BAS_MEM_STAT_ONLINE.place (.bas 0), 1), (Reg.BAS_MEM_FRAMES_FRAMES.place (.bas 0), 786432), (Reg.PG_READY_READY.place (.disp 3), 1), (Reg.PG_READY_READY.place (.tile 25), 1), (Reg.PG_READY_READY.place (.tile 24), 1), (Reg.DISP_LRING_LOG2_LOG2.place (.disp 3), 6), (Reg.DISP_LRING_BASE_LO_BASE_LO.place (.disp 3), (327680 / 2 ^ Reg.DISP_LRING_BASE_LO_BASE_LO.lo)), (Reg.DISP_LRING_TAIL_TAIL.place (.disp 3), 1)]) with parts := [(3, { slots := [(7, { valid := true, reqId := 55, basePri := 2, effPri := 2 }), (8, { valid := true, reqId := 56, basePri := 1, effPri := 1 })] })], tier := { pages := [(5, { st := .resident .basin, frame := 0, frameTier := .basin })], dirs := [(0, { valid := true, used := 1, leaf := 257 })], leaves := [(257, true)], frames := [(67108864, true)] }, mem := (Map.store ([] : Memory) 327680 (bytesOfNat 32 34028257461835878832210538331093539823616)), now := 70 },
     3, 0, BitVec.ofNat 256 34028257461835878832210538331093539823616, by decide +kernel⟩,
   ⟨{ (st [(Reg.PG_READY_READY.place .tier, 1), (Reg.PG_READY_READY.place (.bas 0), 1), (Reg.BAS_MEM_STAT_ONLINE.place (.bas 0), 1), (Reg.BAS_MEM_FRAMES_FRAMES.place (.bas 0), 786432), (Reg.PG_READY_READY.place (.disp 3), 1), (Reg.PG_READY_READY.place (.tile 25), 1), (Reg.PG_READY_READY.place (.tile 24), 1), (Reg.DISP_LRING_LOG2_LOG2.place (.disp 3), 6), (Reg.DISP_LRING_BASE_LO_BASE_LO.place (.disp 3), (327680 / 2 ^ Reg.DISP_LRING_BASE_LO_BASE_LO.lo)), (Reg.DISP_LRING_TAIL_TAIL.place (.disp 3), 1)]) with parts := [(3, { slots := [(7, { valid := true, reqId := 55, basePri := 2, effPri := 2 }), (8, { valid := true, reqId := 56, basePri := 1, effPri := 1 })] })], tier := { pages := [(5, { st := .resident .basin, frame := 0, frameTier := .basin })], dirs := [(0, { valid := true, used := 1, leaf := 257 })], leaves := [(257, true)], frames := [(67108864, true)] }, mem := (Map.store ([] : Memory) 327680 (bytesOfNat 32 34028257461835898175023652165160335122432)), now := 70 },
     3, 0, BitVec.ofNat 256 34028257461835898175023652165160335122432,
     { valid := true, reqId := 55, basePri := 2, effPri := 2 }, by decide +kernel⟩,
   ⟨{ (st [(Reg.PG_READY_READY.place .tier, 1), (Reg.PG_READY_READY.place (.bas 0), 1), (Reg.BAS_MEM_STAT_ONLINE.place (.bas 0), 1), (Reg.BAS_MEM_FRAMES_FRAMES.place (.bas 0), 786432), (Reg.PG_READY_READY.place (.disp 3), 1), (Reg.PG_READY_READY.place (.tile 25), 1), (Reg.PG_READY_READY.place (.tile 24), 1), (Reg.DISP_LRING_LOG2_LOG2.place (.disp 3), 6), (Reg.DISP_LRING_BASE_LO_BASE_LO.place (.disp 3), (327680 / 2 ^ Reg.DISP_LRING_BASE_LO_BASE_LO.lo)), (Reg.DISP_LRING_TAIL_TAIL.place (.disp 3), 2)]) with parts := [(3, { slots := [(7, { valid := true, reqId := 55, basePri := 2, effPri := 2 }), (8, { valid := true, reqId := 56, basePri := 1, effPri := 1 })] })], tier := { pages := [(5, { st := .resident .basin, frame := 0, frameTier := .basin })], dirs := [(0, { valid := true, used := 1, leaf := 257 })], leaves := [(257, true)], frames := [(67108864, true)] }, mem := (Map.store (Map.store ([] : Memory) 327680 (bytesOfNat 32 34028257461835878832210538331093539823616)) 327712 (bytesOfNat 32 34028257461915105785798983054057909067776)) },
     3, 0, BitVec.ofNat 256 34028257461835878832210538331093539823616, BitVec.ofNat 256
     34028257461915105785798983054057909067776, by decide +kernel⟩,
   ⟨State.reset, 3, 0, .ok, 0, by decide +kernel⟩,
   ⟨{ (st [(Reg.PG_READY_READY.place .tier, 1), (Reg.PG_READY_READY.place (.bas 0), 1), (Reg.BAS_MEM_STAT_ONLINE.place (.bas 0), 1), (Reg.BAS_MEM_FRAMES_FRAMES.place (.bas 0), 786432), (Reg.PG_READY_READY.place (.disp 3), 1), (Reg.PG_READY_READY.place (.tile 25), 1), (Reg.PG_READY_READY.place (.tile 24), 1), (Reg.DISP_LRING_LOG2_LOG2.place (.disp 3), 6), (Reg.DISP_LRING_BASE_LO_BASE_LO.place (.disp 3), (327680 / 2 ^ Reg.DISP_LRING_BASE_LO_BASE_LO.lo)), (Reg.DISP_LRING_TAIL_TAIL.place (.disp 3), 1), (Reg.DISP_CTRL_FSYNC_EN.place (.disp 3), 1), (Reg.DISP_FSYNC_SLOT.place (.disp 3), 7)]) with parts := [(3, { slots := [(7, { valid := true, reqId := 55, basePri := 2, effPri := 2 }), (8, { valid := true, reqId := 56, basePri := 1, effPri := 1 })], fsyncHold := some (60, 1) })], tier := { pages := [(5, { st := .resident .basin, frame := 0, frameTier := .basin })], dirs := [(0, { valid := true, used := 1, leaf := 257 })], leaves := [(257, true)], frames := [(67108864, true)] }, mem := (Map.store ([] : Memory) 327680 (bytesOfNat 32 34028257461835898175023652165160335122432)), now := 70 },
     3, 0, BitVec.ofNat 256 34028257461835898175023652165160335122432, 60, 1, by decide +kernel⟩,
   ⟨{ (st [(Reg.PG_READY_READY.place .tier, 1), (Reg.PG_READY_READY.place (.bas 0), 1), (Reg.BAS_MEM_STAT_ONLINE.place (.bas 0), 1), (Reg.BAS_MEM_FRAMES_FRAMES.place (.bas 0), 786432), (Reg.PG_READY_READY.place (.disp 3), 1), (Reg.PG_READY_READY.place (.tile 25), 1), (Reg.PG_READY_READY.place (.tile 24), 1), (Reg.DISP_LRING_LOG2_LOG2.place (.disp 3), 6), (Reg.DISP_LRING_BASE_LO_BASE_LO.place (.disp 3), (327680 / 2 ^ Reg.DISP_LRING_BASE_LO_BASE_LO.lo))]) with parts := [(3, { fsyncHold := some (60, 1) })], tier := { pages := [(5, { st := .resident .basin, frame := 0, frameTier := .basin })], dirs := [(0, { valid := true, used := 1, leaf := 257 })], leaves := [(257, true)], frames := [(67108864, true)] } },
     3, by decide +kernel⟩,
   ⟨{ (st [(Reg.PG_READY_READY.place .tier, 1), (Reg.PG_READY_READY.place (.bas 0), 1), (Reg.BAS_MEM_STAT_ONLINE.place (.bas 0), 1), (Reg.BAS_MEM_FRAMES_FRAMES.place (.bas 0), 786432), (Reg.PG_READY_READY.place (.disp 3), 1), (Reg.PG_READY_READY.place (.tile 25), 1), (Reg.PG_READY_READY.place (.tile 24), 1), (Reg.DISP_LRING_LOG2_LOG2.place (.disp 3), 6), (Reg.DISP_LRING_BASE_LO_BASE_LO.place (.disp 3), (327680 / 2 ^ Reg.DISP_LRING_BASE_LO_BASE_LO.lo))]) with parts := [(3, { slots := [(7, { valid := true, reqId := 55, basePri := 2, effPri := 2 }), (8, { valid := true, reqId := 56, basePri := 1, effPri := 1 })], active := [{ record := BitVec.ofNat 256 34028257461835878832210538331093539823616, next := 0, id := 9 }] })], tier := { pages := [(5, { st := .resident .basin, frame := 0, frameTier := .basin })], dirs := [(0, { valid := true, used := 1, leaf := 257 })], leaves := [(257, true)], frames := [(67108864, true)] }, mem := (Map.store ([] : Memory) 335872 (bytesOfNat 64 12345)) },
     3, 0, { record := BitVec.ofNat 256 34028257461835878832210538331093539823616, next := 0, id := 9 }, BitVec.ofNat
     512 12345, 2, by decide +kernel⟩,
   ⟨{ (st [(Reg.PG_READY_READY.place .tier, 1), (Reg.PG_READY_READY.place (.bas 0), 1), (Reg.BAS_MEM_STAT_ONLINE.place (.bas 0), 1), (Reg.BAS_MEM_FRAMES_FRAMES.place (.bas 0), 786432), (Reg.PG_READY_READY.place (.disp 3), 1), (Reg.PG_READY_READY.place (.tile 25), 1), (Reg.PG_READY_READY.place (.tile 24), 1), (Reg.DISP_LRING_LOG2_LOG2.place (.disp 3), 6), (Reg.DISP_LRING_BASE_LO_BASE_LO.place (.disp 3), (327680 / 2 ^ Reg.DISP_LRING_BASE_LO_BASE_LO.lo))]) with parts := [(3, { slots := [(7, { valid := true, reqId := 55, basePri := 2, effPri := 2 }), (8, { valid := true, reqId := 56, basePri := 1, effPri := 1 })], active := [{ record := BitVec.ofNat 256 34028257461835878832210538331093539823616, next := 0, id := 9 }] })], tier := { pages := [(5, { st := .resident .basin, frame := 0, frameTier := .basin })], dirs := [(0, { valid := true, used := 1, leaf := 257 })], leaves := [(257, true)], frames := [(67108864, true)] }, mem := (Map.store ([] : Memory) 335872 (bytesOfNat 64 12345)) },
     3, 0, { record := BitVec.ofNat 256 34028257461835878832210538331093539823616, next := 0, id := 9 }, 55,
     by decide +kernel⟩,
   ⟨{ (st [(Reg.PG_READY_READY.place .tier, 1), (Reg.PG_READY_READY.place (.bas 0), 1), (Reg.BAS_MEM_STAT_ONLINE.place (.bas 0), 1), (Reg.BAS_MEM_FRAMES_FRAMES.place (.bas 0), 786432), (Reg.PG_READY_READY.place (.disp 3), 1), (Reg.PG_READY_READY.place (.tile 25), 1), (Reg.PG_READY_READY.place (.tile 24), 1), (Reg.DISP_LRING_LOG2_LOG2.place (.disp 3), 6), (Reg.DISP_LRING_BASE_LO_BASE_LO.place (.disp 3), (327680 / 2 ^ Reg.DISP_LRING_BASE_LO_BASE_LO.lo))]) with tier := { pages := [(5, { st := .resident .basin, frame := 0, frameTier := .basin })], dirs := [(0, { valid := true, used := 1, leaf := 257 })], leaves := [(257, true)], frames := [(67108864, true)] } },
     3, 5, .ok, by decide +kernel⟩,
   ⟨{ (st [(Reg.PG_READY_READY.place .tier, 1), (Reg.PG_READY_READY.place (.bas 0), 1), (Reg.BAS_MEM_STAT_ONLINE.place (.bas 0), 1), (Reg.BAS_MEM_FRAMES_FRAMES.place (.bas 0), 786432), (Reg.PG_READY_READY.place (.disp 3), 1), (Reg.PG_READY_READY.place (.tile 25), 1), (Reg.PG_READY_READY.place (.tile 24), 1), (Reg.DISP_LRING_LOG2_LOG2.place (.disp 3), 6), (Reg.DISP_LRING_BASE_LO_BASE_LO.place (.disp 3), (327680 / 2 ^ Reg.DISP_LRING_BASE_LO_BASE_LO.lo))]) with parts := [(3, { slots := [(7, { valid := true, reqId := 55, basePri := 2, effPri := 2 }), (8, { valid := true, reqId := 56, basePri := 1, effPri := 1 })], store := [(5, [{ desc := 77, slot := 7, launch := 9 }]), (6, [{ desc := 77, slot := 7, launch := 9 }])] })], tier := { pages := [(5, { st := .resident .basin, frame := 0, frameTier := .basin })], dirs := [(0, { valid := true, used := 1, leaf := 257 })], leaves := [(257, true)], frames := [(67108864, true)] } },
     3, 1, 1, 0, 0, { desc := 77, slot := 7, launch := 9 }, [], by decide +kernel⟩,
   ⟨{ (st [(Reg.PG_READY_READY.place .tier, 1), (Reg.PG_READY_READY.place (.bas 0), 1), (Reg.BAS_MEM_STAT_ONLINE.place (.bas 0), 1), (Reg.BAS_MEM_FRAMES_FRAMES.place (.bas 0), 786432), (Reg.PG_READY_READY.place (.disp 3), 1), (Reg.PG_READY_READY.place (.tile 25), 1), (Reg.PG_READY_READY.place (.tile 24), 1), (Reg.DISP_LRING_LOG2_LOG2.place (.disp 3), 6), (Reg.DISP_LRING_BASE_LO_BASE_LO.place (.disp 3), (327680 / 2 ^ Reg.DISP_LRING_BASE_LO_BASE_LO.lo))]) with parts := [(3, { slots := [(7, { valid := true, reqId := 55, basePri := 2, effPri := 2 }), (8, { valid := true, reqId := 56, basePri := 1, effPri := 1 })], store := [(4, [{ desc := 77, slot := 7, launch := 9 }]), (5, [{ desc := 77, slot := 7, launch := 9 }])] })], tier := { pages := [(5, { st := .resident .basin, frame := 0, frameTier := .basin })], dirs := [(0, { valid := true, used := 1, leaf := 257 })], leaves := [(257, true)], frames := [(67108864, true)] } },
     3, 1, 0, by decide +kernel⟩,
   ⟨{ (st [(Reg.PG_READY_READY.place .tier, 1), (Reg.PG_READY_READY.place (.bas 0), 1), (Reg.BAS_MEM_STAT_ONLINE.place (.bas 0), 1), (Reg.BAS_MEM_FRAMES_FRAMES.place (.bas 0), 786432), (Reg.PG_READY_READY.place (.disp 3), 1), (Reg.PG_READY_READY.place (.tile 25), 1), (Reg.PG_READY_READY.place (.tile 24), 1), (Reg.DISP_LRING_LOG2_LOG2.place (.disp 3), 6), (Reg.DISP_LRING_BASE_LO_BASE_LO.place (.disp 3), (327680 / 2 ^ Reg.DISP_LRING_BASE_LO_BASE_LO.lo))]) with parts := [(3, { slots := [(7, { valid := true, reqId := 55, basePri := 2, effPri := 2 }), (8, { valid := true, reqId := 56, basePri := 1, effPri := 1 })], store := [(5, [{ desc := 77, slot := 7, launch := 9 }])] })], tier := { pages := [(5, { st := .resident .basin, frame := 0, frameTier := .basin })], dirs := [(0, { valid := true, used := 1, leaf := 257 })], leaves := [(257, true)], frames := [(67108864, true)] }, tiles := [(25, { slots := (List.range 64).map fun i => (i, {}) })] },
     3, 1, 1, 0, 0, by decide +kernel⟩⟩

/-- The hypotheses of DispatcherRegistersAndEnergy can be met, clause by clause. -/
theorem wit_DispatcherRegistersAndEnergy :
    (∃ (s : State) (p : PartId) (tail : Fin 8192), s.ready (.disp p) = true ∧ s.lringLog2 p ≤ 12) ∧
    (∃ (s : State) (p : PartId) (i : Fin 1024), s.ready (.disp p) = true) ∧
    (∃ (s : State) (p : PartId) (k : Fin 8) (v : Word), s.ready (.disp p) = true ∧ k ≠ 0) ∧
    (∃ (s : State) (p : PartId) (v : Word) (k : Nat) (img : Nat), s.ready (.disp p) = true ∧ k = s.fld (.disp p)
      Reg.DISP_RS_SEL_INDEX ∧ (img = natOfBytes ((v :: (s.part p).staged.tail).flatMap fun w => bytesOfNat 4
      w.toNat)) ∧ ((s.rs p k).valid = true → bit img 0 = true) ∧ ((s.rs p k).valid = bit img 0 ∨ k ≠ s.fld (.disp p)
      Reg.DISP_FSYNC_SLOT)) ∧
    (∃ (s : State) (p : PartId) (v : Word) (k : Nat) (img : Nat), s.ready (.disp p) = true ∧ k = s.fld (.disp p)
      Reg.DISP_RS_SEL_INDEX ∧ (img = natOfBytes ((v :: (s.part p).staged.tail).flatMap fun w => bytesOfNat 4
      w.toNat)) ∧ (s.rs p k).valid = true ∧ bit img 0 = false) ∧
    (∃ (s : State) (p : PartId) (us : Word) (k : Nat), s.ready (.disp p) = true ∧ k = s.fld (.disp p)
      Reg.DISP_PF_SLOT_INDEX) ∧
    (∃ (s : State) (p : PartId), s.ready (.disp p) = true) ∧
    (∃ (s : State) (p : PartId), s.ready (.disp p) = true ∧ s.fld (.disp p) Reg.DISP_ENERGY_LEVEL_LEVEL_NJ + (s.fld
      (.disp p) Reg.DISP_ENERGY_RATE_RATE_MW + (s.part p).energyCarry) / 10 ≤ s.fld (.disp p)
      Reg.DISP_ENERGY_DEPTH_DEPTH_NJ) ∧
    (∃ (s : State) (p : PartId), s.ready (.disp p) = true ∧ s.fld (.disp p) Reg.DISP_ENERGY_DEPTH_DEPTH_NJ < s.fld
      (.disp p) Reg.DISP_ENERGY_LEVEL_LEVEL_NJ + (s.fld (.disp p) Reg.DISP_ENERGY_RATE_RATE_MW + (s.part
      p).energyCarry) / 10) ∧
    (∃ (s : State) (p : PartId) (x : TileId) (n : Nat), s.ready (.disp p) = true ∧ x = tileOf p (s.part p).rr ∧ n =
      min (s.fld (.disp p) Reg.DISP_ENERGY_GRANT_GRANT_NJ - (s.tile x).credit) (s.fld (.disp p)
      Reg.DISP_ENERGY_LEVEL_LEVEL_NJ)) ∧
    (∃ (s : State) (p : PartId) (tail : Fin 8192) (i : Fin 1024) (k : Fin 8) (v : Word), s.ready (.disp p) = false) :=
  ⟨⟨{ (st [(Reg.PG_READY_READY.place .tier, 1), (Reg.PG_READY_READY.place (.bas 0), 1), (Reg.BAS_MEM_STAT_ONLINE.place (.bas 0), 1), (Reg.BAS_MEM_FRAMES_FRAMES.place (.bas 0), 786432), (Reg.PG_READY_READY.place (.disp 3), 1), (Reg.PG_READY_READY.place (.tile 25), 1), (Reg.PG_READY_READY.place (.tile 24), 1), (Reg.DISP_LRING_LOG2_LOG2.place (.disp 3), 6), (Reg.DISP_LRING_BASE_LO_BASE_LO.place (.disp 3), (327680 / 2 ^ Reg.DISP_LRING_BASE_LO_BASE_LO.lo))]) with tier := { pages := [(5, { st := .resident .basin, frame := 0, frameTier := .basin })], dirs := [(0, { valid := true, used := 1, leaf := 257 })], leaves := [(257, true)], frames := [(67108864, true)] } },
     3, 300, by decide +kernel⟩,
   ⟨{ (st [(Reg.PG_READY_READY.place .tier, 1), (Reg.PG_READY_READY.place (.bas 0), 1), (Reg.BAS_MEM_STAT_ONLINE.place (.bas 0), 1), (Reg.BAS_MEM_FRAMES_FRAMES.place (.bas 0), 786432), (Reg.PG_READY_READY.place (.disp 3), 1), (Reg.PG_READY_READY.place (.tile 25), 1), (Reg.PG_READY_READY.place (.tile 24), 1), (Reg.DISP_LRING_LOG2_LOG2.place (.disp 3), 6), (Reg.DISP_LRING_BASE_LO_BASE_LO.place (.disp 3), (327680 / 2 ^ Reg.DISP_LRING_BASE_LO_BASE_LO.lo))]) with parts := [(3, { slots := [(7, { valid := true, reqId := 55, basePri := 2, effPri := 2 }), (8, { valid := true, reqId := 56, basePri := 1, effPri := 1 })] })], tier := { pages := [(5, { st := .resident .basin, frame := 0, frameTier := .basin })], dirs := [(0, { valid := true, used := 1, leaf := 257 })], leaves := [(257, true)], frames := [(67108864, true)] } },
     3, 7, by decide +kernel⟩,
   ⟨{ (st [(Reg.PG_READY_READY.place .tier, 1), (Reg.PG_READY_READY.place (.bas 0), 1), (Reg.BAS_MEM_STAT_ONLINE.place (.bas 0), 1), (Reg.BAS_MEM_FRAMES_FRAMES.place (.bas 0), 786432), (Reg.PG_READY_READY.place (.disp 3), 1), (Reg.PG_READY_READY.place (.tile 25), 1), (Reg.PG_READY_READY.place (.tile 24), 1), (Reg.DISP_LRING_LOG2_LOG2.place (.disp 3), 6), (Reg.DISP_LRING_BASE_LO_BASE_LO.place (.disp 3), (327680 / 2 ^ Reg.DISP_LRING_BASE_LO_BASE_LO.lo))]) with parts := [(3, { slots := [(7, { valid := true, reqId := 55, basePri := 2, effPri := 2 }), (8, { valid := true, reqId := 56, basePri := 1, effPri := 1 })] })], tier := { pages := [(5, { st := .resident .basin, frame := 0, frameTier := .basin })], dirs := [(0, { valid := true, used := 1, leaf := 257 })], leaves := [(257, true)], frames := [(67108864, true)] } },
     3, 6, 77, by decide +kernel⟩,
   ⟨{ (st [(Reg.PG_READY_READY.place .tier, 1), (Reg.PG_READY_READY.place (.bas 0), 1), (Reg.BAS_MEM_STAT_ONLINE.place (.bas 0), 1), (Reg.BAS_MEM_FRAMES_FRAMES.place (.bas 0), 786432), (Reg.PG_READY_READY.place (.disp 3), 1), (Reg.PG_READY_READY.place (.tile 25), 1), (Reg.PG_READY_READY.place (.tile 24), 1), (Reg.DISP_LRING_LOG2_LOG2.place (.disp 3), 6), (Reg.DISP_LRING_BASE_LO_BASE_LO.place (.disp 3), (327680 / 2 ^ Reg.DISP_LRING_BASE_LO_BASE_LO.lo)), (Reg.DISP_RS_SEL_INDEX.place (.disp 3), 9)]) with parts := [(3, { slots := [(7, { valid := true, reqId := 55, basePri := 2, effPri := 2 }), (8, { valid := true, reqId := 56, basePri := 1, effPri := 1 })], stage := [1, 2, 3, 4, 5, 6, 77, 8] })], tier := { pages := [(5, { st := .resident .basin, frame := 0, frameTier := .basin })], dirs := [(0, { valid := true, used := 1, leaf := 257 })], leaves := [(257, true)], frames := [(67108864, true)] } },
     3, 0x2305, 9, 215679573820541951990879549337199660320231183383932917810257870201605, by decide +kernel⟩,
   ⟨{ (st [(Reg.PG_READY_READY.place .tier, 1), (Reg.PG_READY_READY.place (.bas 0), 1), (Reg.BAS_MEM_STAT_ONLINE.place (.bas 0), 1), (Reg.BAS_MEM_FRAMES_FRAMES.place (.bas 0), 786432), (Reg.PG_READY_READY.place (.disp 3), 1), (Reg.PG_READY_READY.place (.tile 25), 1), (Reg.PG_READY_READY.place (.tile 24), 1), (Reg.DISP_LRING_LOG2_LOG2.place (.disp 3), 6), (Reg.DISP_LRING_BASE_LO_BASE_LO.place (.disp 3), (327680 / 2 ^ Reg.DISP_LRING_BASE_LO_BASE_LO.lo)), (Reg.DISP_RS_SEL_INDEX.place (.disp 3), 7)]) with parts := [(3, { slots := [(7, { valid := true, reqId := 55, basePri := 2, effPri := 2 }), (8, { valid := true, reqId := 56, basePri := 1, effPri := 1 })], stage := [1, 2, 3, 4, 5, 6, 77, 8], store := [(4, [{ desc := 77, slot := 7, launch := 9 }]), (5, [{ desc := 77, slot := 8, launch := 9 }])] })], tier := { pages := [(5, { st := .resident .basin, frame := 0, frameTier := .basin })], dirs := [(0, { valid := true, used := 1, leaf := 257 })], leaves := [(257, true)], frames := [(67108864, true)] } },
     3, 0x2304, 7, 215679573820541951990879549337199660320231183383932917810257870201604, by decide +kernel⟩,
   ⟨{ (st [(Reg.PG_READY_READY.place .tier, 1), (Reg.PG_READY_READY.place (.bas 0), 1), (Reg.BAS_MEM_STAT_ONLINE.place (.bas 0), 1), (Reg.BAS_MEM_FRAMES_FRAMES.place (.bas 0), 786432), (Reg.PG_READY_READY.place (.disp 3), 1), (Reg.PG_READY_READY.place (.tile 25), 1), (Reg.PG_READY_READY.place (.tile 24), 1), (Reg.DISP_LRING_LOG2_LOG2.place (.disp 3), 6), (Reg.DISP_LRING_BASE_LO_BASE_LO.place (.disp 3), (327680 / 2 ^ Reg.DISP_LRING_BASE_LO_BASE_LO.lo)), (Reg.DISP_PF_SLOT_INDEX.place (.disp 3), 7)]) with parts := [(3, { slots := [(7, { valid := true, reqId := 55, basePri := 2, effPri := 2 }), (8, { valid := true, reqId := 56, basePri := 1, effPri := 1 })] })], tier := { pages := [(5, { st := .resident .basin, frame := 0, frameTier := .basin })], dirs := [(0, { valid := true, used := 1, leaf := 257 })], leaves := [(257, true)], frames := [(67108864, true)] } },
     3, 5, 7, by decide +kernel⟩,
   ⟨{ (st [(Reg.PG_READY_READY.place .tier, 1), (Reg.PG_READY_READY.place (.bas 0), 1), (Reg.BAS_MEM_STAT_ONLINE.place (.bas 0), 1), (Reg.BAS_MEM_FRAMES_FRAMES.place (.bas 0), 786432), (Reg.PG_READY_READY.place (.disp 3), 1), (Reg.PG_READY_READY.place (.tile 25), 1), (Reg.PG_READY_READY.place (.tile 24), 1), (Reg.DISP_LRING_LOG2_LOG2.place (.disp 3), 6), (Reg.DISP_LRING_BASE_LO_BASE_LO.place (.disp 3), (327680 / 2 ^ Reg.DISP_LRING_BASE_LO_BASE_LO.lo)), (Reg.DISP_FAIL_VALID.place (.disp 3), 1)]) with tier := { pages := [(5, { st := .resident .basin, frame := 0, frameTier := .basin })], dirs := [(0, { valid := true, used := 1, leaf := 257 })], leaves := [(257, true)], frames := [(67108864, true)] } },
     3, by decide +kernel⟩,
   ⟨{ (st [(Reg.PG_READY_READY.place .tier, 1), (Reg.PG_READY_READY.place (.bas 0), 1), (Reg.BAS_MEM_STAT_ONLINE.place (.bas 0), 1), (Reg.BAS_MEM_FRAMES_FRAMES.place (.bas 0), 786432), (Reg.PG_READY_READY.place (.disp 3), 1), (Reg.PG_READY_READY.place (.tile 25), 1), (Reg.PG_READY_READY.place (.tile 24), 1), (Reg.DISP_LRING_LOG2_LOG2.place (.disp 3), 6), (Reg.DISP_LRING_BASE_LO_BASE_LO.place (.disp 3), (327680 / 2 ^ Reg.DISP_LRING_BASE_LO_BASE_LO.lo)), (Reg.DISP_ENERGY_RATE_RATE_MW.place (.disp 3), 1005), (Reg.DISP_ENERGY_LEVEL_LEVEL_NJ.place (.disp 3), 50), (Reg.DISP_ENERGY_DEPTH_DEPTH_NJ.place (.disp 3), 1000)]) with parts := [(3, { slots := [(7, { valid := true, reqId := 55, basePri := 2, effPri := 2 }), (8, { valid := true, reqId := 56, basePri := 1, effPri := 1 })], energyCarry := 7 })], tier := { pages := [(5, { st := .resident .basin, frame := 0, frameTier := .basin })], dirs := [(0, { valid := true, used := 1, leaf := 257 })], leaves := [(257, true)], frames := [(67108864, true)] } },
     3, by decide +kernel⟩,
   ⟨{ (st [(Reg.PG_READY_READY.place .tier, 1), (Reg.PG_READY_READY.place (.bas 0), 1), (Reg.BAS_MEM_STAT_ONLINE.place (.bas 0), 1), (Reg.BAS_MEM_FRAMES_FRAMES.place (.bas 0), 786432), (Reg.PG_READY_READY.place (.disp 3), 1), (Reg.PG_READY_READY.place (.tile 25), 1), (Reg.PG_READY_READY.place (.tile 24), 1), (Reg.DISP_LRING_LOG2_LOG2.place (.disp 3), 6), (Reg.DISP_LRING_BASE_LO_BASE_LO.place (.disp 3), (327680 / 2 ^ Reg.DISP_LRING_BASE_LO_BASE_LO.lo)), (Reg.DISP_ENERGY_RATE_RATE_MW.place (.disp 3), 1005), (Reg.DISP_ENERGY_LEVEL_LEVEL_NJ.place (.disp 3), 950), (Reg.DISP_ENERGY_DEPTH_DEPTH_NJ.place (.disp 3), 1000)]) with parts := [(3, { slots := [(7, { valid := true, reqId := 55, basePri := 2, effPri := 2 }), (8, { valid := true, reqId := 56, basePri := 1, effPri := 1 })], energyCarry := 7 })], tier := { pages := [(5, { st := .resident .basin, frame := 0, frameTier := .basin })], dirs := [(0, { valid := true, used := 1, leaf := 257 })], leaves := [(257, true)], frames := [(67108864, true)] } },
     3, by decide +kernel⟩,
   ⟨{ (st [(Reg.PG_READY_READY.place .tier, 1), (Reg.PG_READY_READY.place (.bas 0), 1), (Reg.BAS_MEM_STAT_ONLINE.place (.bas 0), 1), (Reg.BAS_MEM_FRAMES_FRAMES.place (.bas 0), 786432), (Reg.PG_READY_READY.place (.disp 3), 1), (Reg.PG_READY_READY.place (.tile 25), 1), (Reg.PG_READY_READY.place (.tile 24), 1), (Reg.DISP_LRING_LOG2_LOG2.place (.disp 3), 6), (Reg.DISP_LRING_BASE_LO_BASE_LO.place (.disp 3), (327680 / 2 ^ Reg.DISP_LRING_BASE_LO_BASE_LO.lo)), (Reg.DISP_ENERGY_LEVEL_LEVEL_NJ.place (.disp 3), 90), (Reg.DISP_ENERGY_GRANT_GRANT_NJ.place (.disp 3), 100)]) with parts := [(3, { slots := [(7, { valid := true, reqId := 55, basePri := 2, effPri := 2 }), (8, { valid := true, reqId := 56, basePri := 1, effPri := 1 })], rr := 1 })], tier := { pages := [(5, { st := .resident .basin, frame := 0, frameTier := .basin })], dirs := [(0, { valid := true, used := 1, leaf := 257 })], leaves := [(257, true)], frames := [(67108864, true)] }, tiles := [(25, { credit := 40 })] },
     3, 25, 60, by decide +kernel⟩,
   ⟨State.reset, 3, 1, 1, 1, 1, by decide +kernel⟩⟩

/-- The hypotheses of RequestsAreAdmitted can be met, clause by clause. -/
theorem wit_RequestsAreAdmitted :
    (∃ (s : State) (p : PartId) (n : TenId) (d : BitVec 1024) (h : HostRead) (why : Nat), s.weirReads p n = true ∧
      s.flag .qrm Reg.QRM_STAT_IN_QUORUM = true ∧ (dOp d = 0 ∨ dOp d = 1 ∨ 4 < dOp d) ∧ (s.descReason p n d h = some
      why) ∧ 0x10 ≤ why ∧ why ≤ 0x14) ∧
    (∃ (s : State) (p : PartId) (n : TenId) (d : BitVec 1024) (h : HostRead) (why : Nat), s.weirReads p n = true ∧
      s.flag .qrm Reg.QRM_STAT_IN_QUORUM = true ∧ dOp d = 3 ∧ (s.descReason p n d h = some why) ∧ 0x10 ≤ why ∧ why ≤
      0x14) ∧
    (∃ (s : State) (p : PartId) (n : TenId) (d : BitVec 1024) (h : HostRead) (why : Nat), s.weirReads p n = true ∧
      dOp d = 2 ∧ (s.descReason p n d h = some why) ∧ 0x10 ≤ why ∧ why ≤ 0x14) ∧
    (∃ (s : State) (p : PartId) (n : TenId) (d : BitVec 1024) (h : HostRead) (why : Nat), s.weirReads p n = true ∧
      dOp d = 4 ∧ (s.descReason p n d h = some why) ∧ 0x10 ≤ why ∧ why ≤ 0x14) ∧
    (∃ (s : State) (p : PartId) (n : TenId) (d : BitVec 1024) (h : HostRead) (u : State), s.weirReads p n = true ∧
      s.flag .qrm Reg.QRM_STAT_IN_QUORUM = true ∧ dOp d = 1 ∧ dCont d = false ∧ s.descReason p n d h = none ∧ u =
      (s.readDesc n).refill p n ∧ colourOf (u.ten n).p (dPromptLen d) = .red) ∧
    (∃ (s : State) (p : PartId) (n : TenId) (d : BitVec 1024) (h : HostRead) (u : State), s.weirReads p n = true ∧
      s.flag .qrm Reg.QRM_STAT_IN_QUORUM = true ∧ dOp d = 1 ∧ dCont d = false ∧ s.descReason p n d h = none ∧ u =
      (s.readDesc n).refill p n ∧ colourOf (u.ten n).p (dPromptLen d) ≠ .red ∧ 0 ≤ (u.ten n).g.k ∧ dPri d = 0 ∧ u.fld
      (.admt p) Reg.ADMT_TEN_MAX_OPEN0 n.val ≠ 0 ∧ u.fld (.admt p) Reg.ADMT_TEN_MAX_OPEN0 n.val ≤ u.openAt n 0 ∧
      dDefer d = false) ∧
    (∃ (s : State) (p : PartId) (n : TenId) (d : BitVec 1024) (h : HostRead) (u : State), s.weirReads p n = true ∧
      s.flag .qrm Reg.QRM_STAT_IN_QUORUM = true ∧ dOp d = 1 ∧ dCont d = false ∧ s.descReason p n d h = none ∧ u =
      (s.readDesc n).refill p n ∧ colourOf (u.ten n).p (dPromptLen d) ≠ .red ∧ 0 ≤ (u.ten n).g.k ∧ dPri d = 0 ∧ u.fld
      (.admt p) Reg.ADMT_TEN_MAX_OPEN0 n.val ≠ 0 ∧ u.fld (.admt p) Reg.ADMT_TEN_MAX_OPEN0 n.val ≤ u.openAt n 0 ∧
      dDefer d = true ∧ (u.deferred p).length < u.fld (.admt p) Reg.ADMT_CTRL_DEFER_MAX) ∧
    (∃ (s : State) (p : PartId) (n : TenId) (d : BitVec 1024) (h : HostRead) (u : State) (q : PartId) (g : PartId) (k
      : Nat) (need : Nat), s.weirReads p n = true ∧ s.flag .qrm Reg.QRM_STAT_IN_QUORUM = true ∧ dOp d = 1 ∧ dCont d =
      false ∧ s.descReason p n d h = none ∧ u = (s.readDesc n).refill p n ∧ colourOf (u.ten n).p (dPromptLen d) ≠
      .red ∧ 0 ≤ (u.ten n).g.k ∧ dPri d = 0 ∧ u.openAt n 0 < u.fld (.admt p) Reg.ADMT_TEN_MAX_OPEN0 n.val ∧ u.demotes
      p d (s.newReq p n d h).cached (s.newReq p n d h).cachedFb = false ∧ (u.promptPart (dModel d) (dPromptLen d -
      (s.newReq p n d h).cached) 0 = some q) ∧ dAdapter d = 0xFFFF ∧ need = u.needOf p (dModel d) 0 d ∧ (u.genPart
      need = some g) ∧ (u.freeRs g = some k) ∧ dPromptLen d + dMaxNew d ≤ s.fld (.admt g) Reg.ADMT_KV_SLOT_PAGES /
      max (s.fld (.admt p) Reg.ADMT_MODEL_LAYERS (dModel d)) 1 * 2 ^ s.fld (.admt p) Reg.ADMT_MODEL_TOK_LOG2 (dModel
      d)) ∧
    (∃ (s : State) (p : PartId) (n : TenId) (d : BitVec 1024) (h : HostRead) (u : State) (g : PartId) (k : Nat) (need
      : Nat), s.weirReads p n = true ∧ s.flag .qrm Reg.QRM_STAT_IN_QUORUM = true ∧ dOp d = 3 ∧ s.descReason p n d h =
      none ∧ u = (s.readDesc n).refill p n ∧ colourOf (u.ten n).p (dPromptLen d) ≠ .red ∧ 0 ≤ (u.ten n).g.k ∧ dPri d
      = 0 ∧ u.openAt n 0 < u.fld (.admt p) Reg.ADMT_TEN_MAX_OPEN0 n.val ∧ s.conv n (dConv d) = none ∧ g = hOwner
      (dHandle d) ∧ s.fld (.disp g) Reg.DISP_ROLE_CUR = 2 ∧ u.stableRole g 2 = true ∧ u.ctxRoom g = true ∧ (u.freeRs
      g = some k) ∧ dAdapter d = 0xFFFF ∧ need = u.needOf p (dModel d) (hKv (dHandle d)) d ∧ s.fld (.admt g)
      Reg.ADMT_PAGE_RESV_RESV + need ≤ s.fld (.admt g) Reg.ADMT_PAGE_LIMIT_LIMIT ∧ hKv (dHandle d) + dPromptLen d +
      dMaxNew d ≤ s.fld (.admt g) Reg.ADMT_KV_SLOT_PAGES / max (s.fld (.admt p) Reg.ADMT_MODEL_LAYERS (dModel d)) 1 *
      2 ^ s.fld (.admt p) Reg.ADMT_MODEL_TOK_LOG2 (dModel d)) ∧
    (∃ (s : State) (p : PartId) (n : TenId) (d : BitVec 1024) (h : HostRead), (s.weirReads p n = false ∨ s.flag .qrm
      Reg.QRM_STAT_IN_QUORUM = false)) ∧
    (∃ (s : State) (p : PartId) (r : Req) (rest : List Req), (s.reqs.filter (fun r => r.st == .parking && dOp r.desc
      != 2 && r.weir == p) = []) ∧ s.deferred p = r :: rest ∧ s.flag .qrm Reg.QRM_STAT_IN_QUORUM = true) ∧
    (∃ (s : State) (p : PartId), (s.reqs.filter (fun r => r.st == .parking && dOp r.desc != 2 && r.weir == p) = []) ∧
      (s.deferred p = [] ∨ s.flag .qrm Reg.QRM_STAT_IN_QUORUM = false)) ∧
    (∃ (s : State) (p : PartId) (id : Nat) (r : Req) (n : TenId), ((s.deferred p).find? (fun r => r.reqId == id) =
      some r) ∧ r.tenant = n ∧ s.fld (.disp p) Reg.DISP_CLASS_TTFT_US (dClass r.desc) ≠ 0 ∧ r.readAt + s.fld (.disp
      p) Reg.DISP_CLASS_TTFT_US (dClass r.desc) * 1000 ≤ s.now) ∧
    (∃ (s : State) (p : PartId) (id : Nat) (r : Req) (n : TenId), ((s.deferred p).find? (fun r => r.reqId == id) =
      some r) ∧ r.tenant = n ∧ (s.fld (.disp p) Reg.DISP_CLASS_TTFT_US (dClass r.desc) = 0 ∨ s.now < r.readAt + s.fld
      (.disp p) Reg.DISP_CLASS_TTFT_US (dClass r.desc) * 1000)) :=
  ⟨⟨{ (st [(Reg.PG_READY_READY.place .tier, 1), (Reg.PG_READY_READY.place (.bas 0), 1), (Reg.BAS_MEM_STAT_ONLINE.place (.bas 0), 1), (Reg.BAS_MEM_FRAMES_FRAMES.place (.bas 0), 786432), (Reg.PG_READY_READY.place (.admt 2), 1), (Reg.PG_READY_READY.place (.samp 5), 1), (Reg.DEV_NODE_NODE.place .dev, 9), (Reg.ADMT_BIND_LO_TEN.place (.admt 2), 2), (Reg.ADMT_CTRL_EN.place (.admt 2), 1), (Reg.QRM_STAT_IN_QUORUM.place .qrm, 1), (Reg.ADMT_MODEL_LAYERS.place (.admt 2), 1), (Reg.ADMT_MODEL_TOK_LOG2.place (.admt 2), 6), (Reg.ADMT_TEN_P_CSIZE.place (.admt 2) 1, 100), (Reg.ADMT_TEN_P_PSIZE.place (.admt 2) 1, 100), (Reg.ADMT_TEN_G_CSIZE.place (.admt 2) 1, 100), (Reg.ADMT_TEN_G_PSIZE.place (.admt 2) 1, 100), (Reg.ADMT_TEN_MAX_OPEN0.place (.admt 2) 1, 2), (Reg.DISP_ROLE_CUR.place (.disp 4), 1), (Reg.DISP_ROLE_CUR.place (.disp 5), 2), (Reg.ADMT_PAGE_LIMIT_LIMIT.place (.admt 5), 100), (Reg.ADMT_PAGE_RESV_RESV.place (.admt 5), 7), (Reg.ADMT_KV_SLOT_PAGES.place (.admt 5), 10), (Reg.ADMT_KV_SLOT_PAGES.place (.admt 4), 10), (Reg.ADMT_KV_BASE_LO_BASE_LO.place (.admt 5), 40), (Reg.SAMP_MODEL_VOCAB.place (.samp 5), 4), (Reg.SAMP_MODEL_EOS.place (.samp 5), 3), (Reg.SAMP_LBASE_LO_BASE_LO.place (.samp 5), (327680 / 2 ^ Reg.SAMP_LBASE_LO_BASE_LO.lo)), (Reg.SAMP_LSTRIDE_UNITS.place (.samp 5), 1), (Reg.ADMT_TEN_IDLE_MS.place (.admt 2) 1, 5)]) with tenants := [(1, { en := true, reqTail := 1, p := { c := 6400000000, k := 6400000000 }, g := { c := 6400000000, k := 6400000000 } })], tier := { pages := [(5, { st := .resident .basin, frame := 0, frameTier := .basin })], dirs := [(0, { valid := true, used := 1, leaf := 257 })], leaves := [(257, true)], frames := [(67108864, true)] } },
     2, 1, BitVec.ofNat 1024
     9773544505746286835858277524840310455556890218673838673180915784009096745370843360198549010940529320886332481863681,
     { ok := true, stops := [], tokens := [], cached := 0, cachedFb := 0 }, 0x10, by decide +kernel⟩,
   ⟨{ (st [(Reg.PG_READY_READY.place .tier, 1), (Reg.PG_READY_READY.place (.bas 0), 1), (Reg.BAS_MEM_STAT_ONLINE.place (.bas 0), 1), (Reg.BAS_MEM_FRAMES_FRAMES.place (.bas 0), 786432), (Reg.PG_READY_READY.place (.admt 2), 1), (Reg.PG_READY_READY.place (.samp 5), 1), (Reg.DEV_NODE_NODE.place .dev, 9), (Reg.ADMT_BIND_LO_TEN.place (.admt 2), 2), (Reg.ADMT_CTRL_EN.place (.admt 2), 1), (Reg.QRM_STAT_IN_QUORUM.place .qrm, 1), (Reg.ADMT_MODEL_TOK_LOG2.place (.admt 2), 6), (Reg.ADMT_TEN_P_CSIZE.place (.admt 2) 1, 100), (Reg.ADMT_TEN_P_PSIZE.place (.admt 2) 1, 100), (Reg.ADMT_TEN_G_CSIZE.place (.admt 2) 1, 100), (Reg.ADMT_TEN_G_PSIZE.place (.admt 2) 1, 100), (Reg.ADMT_TEN_MAX_OPEN0.place (.admt 2) 1, 2), (Reg.DISP_ROLE_CUR.place (.disp 4), 1), (Reg.DISP_ROLE_CUR.place (.disp 5), 2), (Reg.ADMT_PAGE_LIMIT_LIMIT.place (.admt 5), 100), (Reg.ADMT_PAGE_RESV_RESV.place (.admt 5), 7), (Reg.ADMT_KV_SLOT_PAGES.place (.admt 5), 10), (Reg.ADMT_KV_SLOT_PAGES.place (.admt 4), 10), (Reg.ADMT_KV_BASE_LO_BASE_LO.place (.admt 5), 40), (Reg.SAMP_MODEL_VOCAB.place (.samp 5), 4), (Reg.SAMP_MODEL_EOS.place (.samp 5), 3), (Reg.SAMP_LBASE_LO_BASE_LO.place (.samp 5), (327680 / 2 ^ Reg.SAMP_LBASE_LO_BASE_LO.lo)), (Reg.SAMP_LSTRIDE_UNITS.place (.samp 5), 1), (Reg.ADMT_TEN_IDLE_MS.place (.admt 2) 1, 5)]) with tenants := [(1, { en := true, reqTail := 1, p := { c := 6400000000, k := 6400000000 }, g := { c := 6400000000, k := 6400000000 } })], tier := { pages := [(5, { st := .resident .basin, frame := 0, frameTier := .basin })], dirs := [(0, { valid := true, used := 1, leaf := 257 })], leaves := [(257, true)], frames := [(67108864, true)] } },
     2, 1, BitVec.ofNat 1024
     9773544505746286835858277524840310455556890218673838673281349411775283637592215990969871673598167007997757034070019,
     { ok := true, stops := [], tokens := [], cached := 0, cachedFb := 0 }, 0x13, by decide +kernel⟩,
   ⟨{ (st [(Reg.PG_READY_READY.place .tier, 1), (Reg.PG_READY_READY.place (.bas 0), 1), (Reg.BAS_MEM_STAT_ONLINE.place (.bas 0), 1), (Reg.BAS_MEM_FRAMES_FRAMES.place (.bas 0), 786432), (Reg.PG_READY_READY.place (.admt 2), 1), (Reg.PG_READY_READY.place (.samp 5), 1), (Reg.DEV_NODE_NODE.place .dev, 9), (Reg.ADMT_BIND_LO_TEN.place (.admt 2), 2), (Reg.ADMT_CTRL_EN.place (.admt 2), 1), (Reg.QRM_STAT_IN_QUORUM.place .qrm, 1), (Reg.ADMT_MODEL_LAYERS.place (.admt 2), 1), (Reg.ADMT_MODEL_TOK_LOG2.place (.admt 2), 6), (Reg.ADMT_TEN_P_CSIZE.place (.admt 2) 1, 100), (Reg.ADMT_TEN_P_PSIZE.place (.admt 2) 1, 100), (Reg.ADMT_TEN_G_CSIZE.place (.admt 2) 1, 100), (Reg.ADMT_TEN_G_PSIZE.place (.admt 2) 1, 100), (Reg.ADMT_TEN_MAX_OPEN0.place (.admt 2) 1, 2), (Reg.DISP_ROLE_CUR.place (.disp 4), 1), (Reg.DISP_ROLE_CUR.place (.disp 5), 2), (Reg.ADMT_PAGE_LIMIT_LIMIT.place (.admt 5), 100), (Reg.ADMT_PAGE_RESV_RESV.place (.admt 5), 7), (Reg.ADMT_KV_SLOT_PAGES.place (.admt 5), 10), (Reg.ADMT_KV_SLOT_PAGES.place (.admt 4), 10), (Reg.ADMT_KV_BASE_LO_BASE_LO.place (.admt 5), 40), (Reg.SAMP_MODEL_VOCAB.place (.samp 5), 4), (Reg.SAMP_MODEL_EOS.place (.samp 5), 3), (Reg.SAMP_LBASE_LO_BASE_LO.place (.samp 5), (327680 / 2 ^ Reg.SAMP_LBASE_LO_BASE_LO.lo)), (Reg.SAMP_LSTRIDE_UNITS.place (.samp 5), 1), (Reg.ADMT_TEN_IDLE_MS.place (.admt 2) 1, 5)]) with tenants := [(1, { en := true, reqTail := 1, p := { c := 6400000000, k := 6400000000 }, g := { c := 6400000000, k := 6400000000 } })], tier := { pages := [(5, { st := .resident .basin, frame := 0, frameTier := .basin })], dirs := [(0, { valid := true, used := 1, leaf := 257 })], leaves := [(257, true)], frames := [(67108864, true)] } },
     2, 1, BitVec.ofNat 1024
     9773544505746286835858277524840310455556890218673838673281349411775283637592215990969871673598167007997757034070018,
     { ok := true, stops := [], tokens := [], cached := 0, cachedFb := 0 }, 0x11, by decide +kernel⟩,
   ⟨{ (st [(Reg.PG_READY_READY.place .tier, 1), (Reg.PG_READY_READY.place (.bas 0), 1), (Reg.BAS_MEM_STAT_ONLINE.place (.bas 0), 1), (Reg.BAS_MEM_FRAMES_FRAMES.place (.bas 0), 786432), (Reg.PG_READY_READY.place (.admt 2), 1), (Reg.PG_READY_READY.place (.samp 5), 1), (Reg.DEV_NODE_NODE.place .dev, 9), (Reg.ADMT_BIND_LO_TEN.place (.admt 2), 2), (Reg.ADMT_CTRL_EN.place (.admt 2), 1), (Reg.QRM_STAT_IN_QUORUM.place .qrm, 1), (Reg.ADMT_MODEL_LAYERS.place (.admt 2), 1), (Reg.ADMT_MODEL_TOK_LOG2.place (.admt 2), 6), (Reg.ADMT_TEN_P_CSIZE.place (.admt 2) 1, 100), (Reg.ADMT_TEN_P_PSIZE.place (.admt 2) 1, 100), (Reg.ADMT_TEN_G_CSIZE.place (.admt 2) 1, 100), (Reg.ADMT_TEN_G_PSIZE.place (.admt 2) 1, 100), (Reg.ADMT_TEN_MAX_OPEN0.place (.admt 2) 1, 2), (Reg.DISP_ROLE_CUR.place (.disp 4), 1), (Reg.DISP_ROLE_CUR.place (.disp 5), 2), (Reg.ADMT_PAGE_LIMIT_LIMIT.place (.admt 5), 100), (Reg.ADMT_PAGE_RESV_RESV.place (.admt 5), 7), (Reg.ADMT_KV_SLOT_PAGES.place (.admt 5), 10), (Reg.ADMT_KV_SLOT_PAGES.place (.admt 4), 10), (Reg.ADMT_KV_BASE_LO_BASE_LO.place (.admt 5), 40), (Reg.SAMP_MODEL_VOCAB.place (.samp 5), 4), (Reg.SAMP_MODEL_EOS.place (.samp 5), 3), (Reg.SAMP_LBASE_LO_BASE_LO.place (.samp 5), (327680 / 2 ^ Reg.SAMP_LBASE_LO_BASE_LO.lo)), (Reg.SAMP_LSTRIDE_UNITS.place (.samp 5), 1), (Reg.ADMT_TEN_IDLE_MS.place (.admt 2) 1, 5)]) with tenants := [(1, { en := true, reqTail := 1, p := { c := 6400000000, k := 6400000000 }, g := { c := 6400000000, k := 6400000000 } })], tier := { pages := [(5, { st := .resident .basin, frame := 0, frameTier := .basin })], dirs := [(0, { valid := true, used := 1, leaf := 257 })], leaves := [(257, true)], frames := [(67108864, true)] } },
     2, 1, BitVec.ofNat 1024
     9773544505746286835858277524840310455556890218673838673281349411775283637592215990969871673598167007997757034070020,
     { ok := true, stops := [], tokens := [], cached := 0, cachedFb := 0 }, 0x11, by decide +kernel⟩,
   ⟨{ (st [(Reg.PG_READY_READY.place .tier, 1), (Reg.PG_READY_READY.place (.bas 0), 1), (Reg.BAS_MEM_STAT_ONLINE.place (.bas 0), 1), (Reg.BAS_MEM_FRAMES_FRAMES.place (.bas 0), 786432), (Reg.PG_READY_READY.place (.admt 2), 1), (Reg.PG_READY_READY.place (.samp 5), 1), (Reg.DEV_NODE_NODE.place .dev, 9), (Reg.ADMT_BIND_LO_TEN.place (.admt 2), 2), (Reg.ADMT_CTRL_EN.place (.admt 2), 1), (Reg.QRM_STAT_IN_QUORUM.place .qrm, 1), (Reg.ADMT_MODEL_LAYERS.place (.admt 2), 1), (Reg.ADMT_MODEL_TOK_LOG2.place (.admt 2), 6), (Reg.ADMT_TEN_P_CSIZE.place (.admt 2) 1, 100), (Reg.ADMT_TEN_P_PSIZE.place (.admt 2) 1, 100), (Reg.ADMT_TEN_G_CSIZE.place (.admt 2) 1, 100), (Reg.ADMT_TEN_G_PSIZE.place (.admt 2) 1, 100), (Reg.ADMT_TEN_MAX_OPEN0.place (.admt 2) 1, 2), (Reg.DISP_ROLE_CUR.place (.disp 4), 1), (Reg.DISP_ROLE_CUR.place (.disp 5), 2), (Reg.ADMT_PAGE_LIMIT_LIMIT.place (.admt 5), 100), (Reg.ADMT_PAGE_RESV_RESV.place (.admt 5), 7), (Reg.ADMT_KV_SLOT_PAGES.place (.admt 5), 10), (Reg.ADMT_KV_SLOT_PAGES.place (.admt 4), 10), (Reg.ADMT_KV_BASE_LO_BASE_LO.place (.admt 5), 40), (Reg.SAMP_MODEL_VOCAB.place (.samp 5), 4), (Reg.SAMP_MODEL_EOS.place (.samp 5), 3), (Reg.SAMP_LBASE_LO_BASE_LO.place (.samp 5), (327680 / 2 ^ Reg.SAMP_LBASE_LO_BASE_LO.lo)), (Reg.SAMP_LSTRIDE_UNITS.place (.samp 5), 1), (Reg.ADMT_TEN_IDLE_MS.place (.admt 2) 1, 5)]) with tenants := [(1, { en := true, reqTail := 1, p := { c := 0, k := 0 }, g := { c := 6400000000, k := 6400000000 } })], tier := { pages := [(5, { st := .resident .basin, frame := 0, frameTier := .basin })], dirs := [(0, { valid := true, used := 1, leaf := 257 })], leaves := [(257, true)], frames := [(67108864, true)] } },
     2, 1, BitVec.ofNat 1024
     9773544505746286835858277524840310455556890218673838673281349411775283637592215990969871673598167007997757034070017,
     { ok := true, stops := [], tokens := [], cached := 0, cachedFb := 0 }, (let s :=
     { (st [(Reg.PG_READY_READY.place .tier, 1), (Reg.PG_READY_READY.place (.bas 0), 1), (Reg.BAS_MEM_STAT_ONLINE.place (.bas 0), 1), (Reg.BAS_MEM_FRAMES_FRAMES.place (.bas 0), 786432), (Reg.PG_READY_READY.place (.admt 2), 1), (Reg.PG_READY_READY.place (.samp 5), 1), (Reg.DEV_NODE_NODE.place .dev, 9), (Reg.ADMT_BIND_LO_TEN.place (.admt 2), 2), (Reg.ADMT_CTRL_EN.place (.admt 2), 1), (Reg.QRM_STAT_IN_QUORUM.place .qrm, 1), (Reg.ADMT_MODEL_LAYERS.place (.admt 2), 1), (Reg.ADMT_MODEL_TOK_LOG2.place (.admt 2), 6), (Reg.ADMT_TEN_P_CSIZE.place (.admt 2) 1, 100), (Reg.ADMT_TEN_P_PSIZE.place (.admt 2) 1, 100), (Reg.ADMT_TEN_G_CSIZE.place (.admt 2) 1, 100), (Reg.ADMT_TEN_G_PSIZE.place (.admt 2) 1, 100), (Reg.ADMT_TEN_MAX_OPEN0.place (.admt 2) 1, 2), (Reg.DISP_ROLE_CUR.place (.disp 4), 1), (Reg.DISP_ROLE_CUR.place (.disp 5), 2), (Reg.ADMT_PAGE_LIMIT_LIMIT.place (.admt 5), 100), (Reg.ADMT_PAGE_RESV_RESV.place (.admt 5), 7), (Reg.ADMT_KV_SLOT_PAGES.place (.admt 5), 10), (Reg.ADMT_KV_SLOT_PAGES.place (.admt 4), 10), (Reg.ADMT_KV_BASE_LO_BASE_LO.place (.admt 5), 40), (Reg.SAMP_MODEL_VOCAB.place (.samp 5), 4), (Reg.SAMP_MODEL_EOS.place (.samp 5), 3), (Reg.SAMP_LBASE_LO_BASE_LO.place (.samp 5), (327680 / 2 ^ Reg.SAMP_LBASE_LO_BASE_LO.lo)), (Reg.SAMP_LSTRIDE_UNITS.place (.samp 5), 1), (Reg.ADMT_TEN_IDLE_MS.place (.admt 2) 1, 5)]) with tenants := [(1, { en := true, reqTail := 1, p := { c := 0, k := 0 }, g := { c := 6400000000, k := 6400000000 } })], tier := { pages := [(5, { st := .resident .basin, frame := 0, frameTier := .basin })], dirs := [(0, { valid := true, used := 1, leaf := 257 })], leaves := [(257, true)], frames := [(67108864, true)] } };
     (s.readDesc 1).refill 2 1), by decide +kernel⟩,
   ⟨{ (st [(Reg.PG_READY_READY.place .tier, 1), (Reg.PG_READY_READY.place (.bas 0), 1), (Reg.BAS_MEM_STAT_ONLINE.place (.bas 0), 1), (Reg.BAS_MEM_FRAMES_FRAMES.place (.bas 0), 786432), (Reg.PG_READY_READY.place (.admt 2), 1), (Reg.PG_READY_READY.place (.samp 5), 1), (Reg.DEV_NODE_NODE.place .dev, 9), (Reg.ADMT_BIND_LO_TEN.place (.admt 2), 2), (Reg.ADMT_CTRL_EN.place (.admt 2), 1), (Reg.QRM_STAT_IN_QUORUM.place .qrm, 1), (Reg.ADMT_MODEL_LAYERS.place (.admt 2), 1), (Reg.ADMT_MODEL_TOK_LOG2.place (.admt 2), 6), (Reg.ADMT_TEN_P_CSIZE.place (.admt 2) 1, 100), (Reg.ADMT_TEN_P_PSIZE.place (.admt 2) 1, 100), (Reg.ADMT_TEN_G_CSIZE.place (.admt 2) 1, 100), (Reg.ADMT_TEN_G_PSIZE.place (.admt 2) 1, 100), (Reg.ADMT_TEN_MAX_OPEN0.place (.admt 2) 1, 2), (Reg.DISP_ROLE_CUR.place (.disp 4), 1), (Reg.DISP_ROLE_CUR.place (.disp 5), 2), (Reg.ADMT_PAGE_LIMIT_LIMIT.place (.admt 5), 100), (Reg.ADMT_PAGE_RESV_RESV.place (.admt 5), 7), (Reg.ADMT_KV_SLOT_PAGES.place (.admt 5), 10), (Reg.ADMT_KV_SLOT_PAGES.place (.admt 4), 10), (Reg.ADMT_KV_BASE_LO_BASE_LO.place (.admt 5), 40), (Reg.SAMP_MODEL_VOCAB.place (.samp 5), 4), (Reg.SAMP_MODEL_EOS.place (.samp 5), 3), (Reg.SAMP_LBASE_LO_BASE_LO.place (.samp 5), (327680 / 2 ^ Reg.SAMP_LBASE_LO_BASE_LO.lo)), (Reg.SAMP_LSTRIDE_UNITS.place (.samp 5), 1), (Reg.ADMT_TEN_IDLE_MS.place (.admt 2) 1, 5)]) with tenants := [(1, { en := true, reqTail := 1, p := { c := 6400000000, k := 6400000000 }, g := { c := 6400000000, k := 6400000000 } })], reqs := [{ reqId := 67108865, tenant := 1, desc := BitVec.ofNat 1024 9773544505746286835858277524840310455556890218673838673281349411775283637592215990969871673599347599618440085635073, stops := [], st := .running, weir := 2, model := 0, fallback := false, promptPart := none, genPart := some 5, genSlot := 3, pass := 0, need := 1, readAt := 0, tokens := 0, outBuf := [], emitted := [], pos := 130, layers := 0, pages := 0, lastTok := 0, specEpoch := 0, adapter := none, endStatus := none }, { reqId := 67108866, tenant := 1, desc := BitVec.ofNat 1024 9773544505746286835858277524840310455556890218673838673281349411775283637592215990969871673599366046362518090153985, stops := [], st := .running, weir := 2, model := 0, fallback := false, promptPart := none, genPart := some 5, genSlot := 3, pass := 0, need := 1, readAt := 0, tokens := 0, outBuf := [], emitted := [], pos := 130, layers := 0, pages := 0, lastTok := 0, specEpoch := 0, adapter := none, endStatus := none }], tier := { pages := [(5, { st := .resident .basin, frame := 0, frameTier := .basin })], dirs := [(0, { valid := true, used := 1, leaf := 257 })], leaves := [(257, true)], frames := [(67108864, true)] } },
     2, 1, BitVec.ofNat 1024
     9773544505746286835858277524840310455556890218673838673281349411775283637592215990969871673598167007997757034070017,
     { ok := true, stops := [], tokens := [], cached := 0, cachedFb := 0 }, (let s :=
     { (st [(Reg.PG_READY_READY.place .tier, 1), (Reg.PG_READY_READY.place (.bas 0), 1), (Reg.BAS_MEM_STAT_ONLINE.place (.bas 0), 1), (Reg.BAS_MEM_FRAMES_FRAMES.place (.bas 0), 786432), (Reg.PG_READY_READY.place (.admt 2), 1), (Reg.PG_READY_READY.place (.samp 5), 1), (Reg.DEV_NODE_NODE.place .dev, 9), (Reg.ADMT_BIND_LO_TEN.place (.admt 2), 2), (Reg.ADMT_CTRL_EN.place (.admt 2), 1), (Reg.QRM_STAT_IN_QUORUM.place .qrm, 1), (Reg.ADMT_MODEL_LAYERS.place (.admt 2), 1), (Reg.ADMT_MODEL_TOK_LOG2.place (.admt 2), 6), (Reg.ADMT_TEN_P_CSIZE.place (.admt 2) 1, 100), (Reg.ADMT_TEN_P_PSIZE.place (.admt 2) 1, 100), (Reg.ADMT_TEN_G_CSIZE.place (.admt 2) 1, 100), (Reg.ADMT_TEN_G_PSIZE.place (.admt 2) 1, 100), (Reg.ADMT_TEN_MAX_OPEN0.place (.admt 2) 1, 2), (Reg.DISP_ROLE_CUR.place (.disp 4), 1), (Reg.DISP_ROLE_CUR.place (.disp 5), 2), (Reg.ADMT_PAGE_LIMIT_LIMIT.place (.admt 5), 100), (Reg.ADMT_PAGE_RESV_RESV.place (.admt 5), 7), (Reg.ADMT_KV_SLOT_PAGES.place (.admt 5), 10), (Reg.ADMT_KV_SLOT_PAGES.place (.admt 4), 10), (Reg.ADMT_KV_BASE_LO_BASE_LO.place (.admt 5), 40), (Reg.SAMP_MODEL_VOCAB.place (.samp 5), 4), (Reg.SAMP_MODEL_EOS.place (.samp 5), 3), (Reg.SAMP_LBASE_LO_BASE_LO.place (.samp 5), (327680 / 2 ^ Reg.SAMP_LBASE_LO_BASE_LO.lo)), (Reg.SAMP_LSTRIDE_UNITS.place (.samp 5), 1), (Reg.ADMT_TEN_IDLE_MS.place (.admt 2) 1, 5)]) with tenants := [(1, { en := true, reqTail := 1, p := { c := 6400000000, k := 6400000000 }, g := { c := 6400000000, k := 6400000000 } })], reqs := [{ reqId := 67108865, tenant := 1, desc := BitVec.ofNat 1024 9773544505746286835858277524840310455556890218673838673281349411775283637592215990969871673599347599618440085635073, stops := [], st := .running, weir := 2, model := 0, fallback := false, promptPart := none, genPart := some 5, genSlot := 3, pass := 0, need := 1, readAt := 0, tokens := 0, outBuf := [], emitted := [], pos := 130, layers := 0, pages := 0, lastTok := 0, specEpoch := 0, adapter := none, endStatus := none }, { reqId := 67108866, tenant := 1, desc := BitVec.ofNat 1024 9773544505746286835858277524840310455556890218673838673281349411775283637592215990969871673599366046362518090153985, stops := [], st := .running, weir := 2, model := 0, fallback := false, promptPart := none, genPart := some 5, genSlot := 3, pass := 0, need := 1, readAt := 0, tokens := 0, outBuf := [], emitted := [], pos := 130, layers := 0, pages := 0, lastTok := 0, specEpoch := 0, adapter := none, endStatus := none }], tier := { pages := [(5, { st := .resident .basin, frame := 0, frameTier := .basin })], dirs := [(0, { valid := true, used := 1, leaf := 257 })], leaves := [(257, true)], frames := [(67108864, true)] } };
     (s.readDesc 1).refill 2 1), by decide +kernel⟩,
   ⟨{ (st [(Reg.PG_READY_READY.place .tier, 1), (Reg.PG_READY_READY.place (.bas 0), 1), (Reg.BAS_MEM_STAT_ONLINE.place (.bas 0), 1), (Reg.BAS_MEM_FRAMES_FRAMES.place (.bas 0), 786432), (Reg.PG_READY_READY.place (.admt 2), 1), (Reg.PG_READY_READY.place (.samp 5), 1), (Reg.DEV_NODE_NODE.place .dev, 9), (Reg.ADMT_BIND_LO_TEN.place (.admt 2), 2), (Reg.ADMT_CTRL_EN.place (.admt 2), 1), (Reg.QRM_STAT_IN_QUORUM.place .qrm, 1), (Reg.ADMT_MODEL_LAYERS.place (.admt 2), 1), (Reg.ADMT_MODEL_TOK_LOG2.place (.admt 2), 6), (Reg.ADMT_TEN_P_CSIZE.place (.admt 2) 1, 100), (Reg.ADMT_TEN_P_PSIZE.place (.admt 2) 1, 100), (Reg.ADMT_TEN_G_CSIZE.place (.admt 2) 1, 100), (Reg.ADMT_TEN_G_PSIZE.place (.admt 2) 1, 100), (Reg.ADMT_TEN_MAX_OPEN0.place (.admt 2) 1, 2), (Reg.DISP_ROLE_CUR.place (.disp 4), 1), (Reg.DISP_ROLE_CUR.place (.disp 5), 2), (Reg.ADMT_PAGE_LIMIT_LIMIT.place (.admt 5), 100), (Reg.ADMT_PAGE_RESV_RESV.place (.admt 5), 7), (Reg.ADMT_KV_SLOT_PAGES.place (.admt 5), 10), (Reg.ADMT_KV_SLOT_PAGES.place (.admt 4), 10), (Reg.ADMT_KV_BASE_LO_BASE_LO.place (.admt 5), 40), (Reg.SAMP_MODEL_VOCAB.place (.samp 5), 4), (Reg.SAMP_MODEL_EOS.place (.samp 5), 3), (Reg.SAMP_LBASE_LO_BASE_LO.place (.samp 5), (327680 / 2 ^ Reg.SAMP_LBASE_LO_BASE_LO.lo)), (Reg.SAMP_LSTRIDE_UNITS.place (.samp 5), 1), (Reg.ADMT_TEN_IDLE_MS.place (.admt 2) 1, 5)]) with tenants := [(1, { en := true, reqTail := 1, p := { c := 6400000000, k := 6400000000 }, g := { c := 6400000000, k := 6400000000 } })], reqs := [{ reqId := 67108865, tenant := 1, desc := BitVec.ofNat 1024 9773544505746286835858277524840310455556890218673838673281349411775283637592215990969871673599347599618440085635073, stops := [], st := .running, weir := 2, model := 0, fallback := false, promptPart := none, genPart := some 5, genSlot := 3, pass := 0, need := 1, readAt := 0, tokens := 0, outBuf := [], emitted := [], pos := 130, layers := 0, pages := 0, lastTok := 0, specEpoch := 0, adapter := none, endStatus := none }, { reqId := 67108866, tenant := 1, desc := BitVec.ofNat 1024 9773544505746286835858277524840310455556890218673838673281349411775283637592215990969871673599366046362518090153985, stops := [], st := .running, weir := 2, model := 0, fallback := false, promptPart := none, genPart := some 5, genSlot := 3, pass := 0, need := 1, readAt := 0, tokens := 0, outBuf := [], emitted := [], pos := 130, layers := 0, pages := 0, lastTok := 0, specEpoch := 0, adapter := none, endStatus := none }], tier := { pages := [(5, { st := .resident .basin, frame := 0, frameTier := .basin })], dirs := [(0, { valid := true, used := 1, leaf := 257 })], leaves := [(257, true)], frames := [(67108864, true)] } },
     2, 1, BitVec.ofNat 1024
     9773544505746286835858277524840310455556890218673838673281349411775283637592215990969871673598167007997757034070033,
     { ok := true, stops := [], tokens := [], cached := 0, cachedFb := 0 }, (let s :=
     { (st [(Reg.PG_READY_READY.place .tier, 1), (Reg.PG_READY_READY.place (.bas 0), 1), (Reg.BAS_MEM_STAT_ONLINE.place (.bas 0), 1), (Reg.BAS_MEM_FRAMES_FRAMES.place (.bas 0), 786432), (Reg.PG_READY_READY.place (.admt 2), 1), (Reg.PG_READY_READY.place (.samp 5), 1), (Reg.DEV_NODE_NODE.place .dev, 9), (Reg.ADMT_BIND_LO_TEN.place (.admt 2), 2), (Reg.ADMT_CTRL_EN.place (.admt 2), 1), (Reg.QRM_STAT_IN_QUORUM.place .qrm, 1), (Reg.ADMT_MODEL_LAYERS.place (.admt 2), 1), (Reg.ADMT_MODEL_TOK_LOG2.place (.admt 2), 6), (Reg.ADMT_TEN_P_CSIZE.place (.admt 2) 1, 100), (Reg.ADMT_TEN_P_PSIZE.place (.admt 2) 1, 100), (Reg.ADMT_TEN_G_CSIZE.place (.admt 2) 1, 100), (Reg.ADMT_TEN_G_PSIZE.place (.admt 2) 1, 100), (Reg.ADMT_TEN_MAX_OPEN0.place (.admt 2) 1, 2), (Reg.DISP_ROLE_CUR.place (.disp 4), 1), (Reg.DISP_ROLE_CUR.place (.disp 5), 2), (Reg.ADMT_PAGE_LIMIT_LIMIT.place (.admt 5), 100), (Reg.ADMT_PAGE_RESV_RESV.place (.admt 5), 7), (Reg.ADMT_KV_SLOT_PAGES.place (.admt 5), 10), (Reg.ADMT_KV_SLOT_PAGES.place (.admt 4), 10), (Reg.ADMT_KV_BASE_LO_BASE_LO.place (.admt 5), 40), (Reg.SAMP_MODEL_VOCAB.place (.samp 5), 4), (Reg.SAMP_MODEL_EOS.place (.samp 5), 3), (Reg.SAMP_LBASE_LO_BASE_LO.place (.samp 5), (327680 / 2 ^ Reg.SAMP_LBASE_LO_BASE_LO.lo)), (Reg.SAMP_LSTRIDE_UNITS.place (.samp 5), 1), (Reg.ADMT_TEN_IDLE_MS.place (.admt 2) 1, 5)]) with tenants := [(1, { en := true, reqTail := 1, p := { c := 6400000000, k := 6400000000 }, g := { c := 6400000000, k := 6400000000 } })], reqs := [{ reqId := 67108865, tenant := 1, desc := BitVec.ofNat 1024 9773544505746286835858277524840310455556890218673838673281349411775283637592215990969871673599347599618440085635073, stops := [], st := .running, weir := 2, model := 0, fallback := false, promptPart := none, genPart := some 5, genSlot := 3, pass := 0, need := 1, readAt := 0, tokens := 0, outBuf := [], emitted := [], pos := 130, layers := 0, pages := 0, lastTok := 0, specEpoch := 0, adapter := none, endStatus := none }, { reqId := 67108866, tenant := 1, desc := BitVec.ofNat 1024 9773544505746286835858277524840310455556890218673838673281349411775283637592215990969871673599366046362518090153985, stops := [], st := .running, weir := 2, model := 0, fallback := false, promptPart := none, genPart := some 5, genSlot := 3, pass := 0, need := 1, readAt := 0, tokens := 0, outBuf := [], emitted := [], pos := 130, layers := 0, pages := 0, lastTok := 0, specEpoch := 0, adapter := none, endStatus := none }], tier := { pages := [(5, { st := .resident .basin, frame := 0, frameTier := .basin })], dirs := [(0, { valid := true, used := 1, leaf := 257 })], leaves := [(257, true)], frames := [(67108864, true)] } };
     (s.readDesc 1).refill 2 1), by decide +kernel⟩,
   ⟨{ (st [(Reg.PG_READY_READY.place .tier, 1), (Reg.PG_READY_READY.place (.bas 0), 1), (Reg.BAS_MEM_STAT_ONLINE.place (.bas 0), 1), (Reg.BAS_MEM_FRAMES_FRAMES.place (.bas 0), 786432), (Reg.PG_READY_READY.place (.admt 2), 1), (Reg.PG_READY_READY.place (.samp 5), 1), (Reg.DEV_NODE_NODE.place .dev, 9), (Reg.ADMT_BIND_LO_TEN.place (.admt 2), 2), (Reg.ADMT_CTRL_EN.place (.admt 2), 1), (Reg.QRM_STAT_IN_QUORUM.place .qrm, 1), (Reg.ADMT_MODEL_LAYERS.place (.admt 2), 1), (Reg.ADMT_MODEL_TOK_LOG2.place (.admt 2), 6), (Reg.ADMT_TEN_P_CSIZE.place (.admt 2) 1, 100), (Reg.ADMT_TEN_P_PSIZE.place (.admt 2) 1, 100), (Reg.ADMT_TEN_G_CSIZE.place (.admt 2) 1, 100), (Reg.ADMT_TEN_G_PSIZE.place (.admt 2) 1, 100), (Reg.ADMT_TEN_MAX_OPEN0.place (.admt 2) 1, 2), (Reg.DISP_ROLE_CUR.place (.disp 4), 1), (Reg.DISP_ROLE_CUR.place (.disp 5), 2), (Reg.ADMT_PAGE_LIMIT_LIMIT.place (.admt 5), 100), (Reg.ADMT_PAGE_RESV_RESV.place (.admt 5), 7), (Reg.ADMT_KV_SLOT_PAGES.place (.admt 5), 10), (Reg.ADMT_KV_SLOT_PAGES.place (.admt 4), 10), (Reg.ADMT_KV_BASE_LO_BASE_LO.place (.admt 5), 40), (Reg.SAMP_MODEL_VOCAB.place (.samp 5), 4), (Reg.SAMP_MODEL_EOS.place (.samp 5), 3), (Reg.SAMP_LBASE_LO_BASE_LO.place (.samp 5), (327680 / 2 ^ Reg.SAMP_LBASE_LO_BASE_LO.lo)), (Reg.SAMP_LSTRIDE_UNITS.place (.samp 5), 1), (Reg.ADMT_TEN_IDLE_MS.place (.admt 2) 1, 5)]) with tenants := [(1, { en := true, reqTail := 1, p := { c := 6400000000, k := 6400000000 }, g := { c := 6400000000, k := 6400000000 } })], tier := { pages := [(5, { st := .resident .basin, frame := 0, frameTier := .basin })], dirs := [(0, { valid := true, used := 1, leaf := 257 })], leaves := [(257, true)], frames := [(67108864, true)] } },
     2, 1, BitVec.ofNat 1024
     9773544505746286835858277524840310455556890218673838673281349411775283637592215990969871673598167007997757034070017,
     { ok := true, stops := [], tokens := [], cached := 0, cachedFb := 0 }, (let s :=
     { (st [(Reg.PG_READY_READY.place .tier, 1), (Reg.PG_READY_READY.place (.bas 0), 1), (Reg.BAS_MEM_STAT_ONLINE.place (.bas 0), 1), (Reg.BAS_MEM_FRAMES_FRAMES.place (.bas 0), 786432), (Reg.PG_READY_READY.place (.admt 2), 1), (Reg.PG_READY_READY.place (.samp 5), 1), (Reg.DEV_NODE_NODE.place .dev, 9), (Reg.ADMT_BIND_LO_TEN.place (.admt 2), 2), (Reg.ADMT_CTRL_EN.place (.admt 2), 1), (Reg.QRM_STAT_IN_QUORUM.place .qrm, 1), (Reg.ADMT_MODEL_LAYERS.place (.admt 2), 1), (Reg.ADMT_MODEL_TOK_LOG2.place (.admt 2), 6), (Reg.ADMT_TEN_P_CSIZE.place (.admt 2) 1, 100), (Reg.ADMT_TEN_P_PSIZE.place (.admt 2) 1, 100), (Reg.ADMT_TEN_G_CSIZE.place (.admt 2) 1, 100), (Reg.ADMT_TEN_G_PSIZE.place (.admt 2) 1, 100), (Reg.ADMT_TEN_MAX_OPEN0.place (.admt 2) 1, 2), (Reg.DISP_ROLE_CUR.place (.disp 4), 1), (Reg.DISP_ROLE_CUR.place (.disp 5), 2), (Reg.ADMT_PAGE_LIMIT_LIMIT.place (.admt 5), 100), (Reg.ADMT_PAGE_RESV_RESV.place (.admt 5), 7), (Reg.ADMT_KV_SLOT_PAGES.place (.admt 5), 10), (Reg.ADMT_KV_SLOT_PAGES.place (.admt 4), 10), (Reg.ADMT_KV_BASE_LO_BASE_LO.place (.admt 5), 40), (Reg.SAMP_MODEL_VOCAB.place (.samp 5), 4), (Reg.SAMP_MODEL_EOS.place (.samp 5), 3), (Reg.SAMP_LBASE_LO_BASE_LO.place (.samp 5), (327680 / 2 ^ Reg.SAMP_LBASE_LO_BASE_LO.lo)), (Reg.SAMP_LSTRIDE_UNITS.place (.samp 5), 1), (Reg.ADMT_TEN_IDLE_MS.place (.admt 2) 1, 5)]) with tenants := [(1, { en := true, reqTail := 1, p := { c := 6400000000, k := 6400000000 }, g := { c := 6400000000, k := 6400000000 } })], tier := { pages := [(5, { st := .resident .basin, frame := 0, frameTier := .basin })], dirs := [(0, { valid := true, used := 1, leaf := 257 })], leaves := [(257, true)], frames := [(67108864, true)] } };
     (s.readDesc 1).refill 2 1), 4, 5, 0, 3, by decide +kernel⟩,
   ⟨{ (st [(Reg.PG_READY_READY.place .tier, 1), (Reg.PG_READY_READY.place (.bas 0), 1), (Reg.BAS_MEM_STAT_ONLINE.place (.bas 0), 1), (Reg.BAS_MEM_FRAMES_FRAMES.place (.bas 0), 786432), (Reg.PG_READY_READY.place (.admt 2), 1), (Reg.PG_READY_READY.place (.samp 5), 1), (Reg.DEV_NODE_NODE.place .dev, 9), (Reg.ADMT_BIND_LO_TEN.place (.admt 2), 2), (Reg.ADMT_CTRL_EN.place (.admt 2), 1), (Reg.QRM_STAT_IN_QUORUM.place .qrm, 1), (Reg.ADMT_MODEL_LAYERS.place (.admt 2), 1), (Reg.ADMT_MODEL_TOK_LOG2.place (.admt 2), 6), (Reg.ADMT_TEN_P_CSIZE.place (.admt 2) 1, 100), (Reg.ADMT_TEN_P_PSIZE.place (.admt 2) 1, 100), (Reg.ADMT_TEN_G_CSIZE.place (.admt 2) 1, 100), (Reg.ADMT_TEN_G_PSIZE.place (.admt 2) 1, 100), (Reg.ADMT_TEN_MAX_OPEN0.place (.admt 2) 1, 2), (Reg.DISP_ROLE_CUR.place (.disp 4), 1), (Reg.DISP_ROLE_CUR.place (.disp 5), 2), (Reg.ADMT_PAGE_LIMIT_LIMIT.place (.admt 5), 100), (Reg.ADMT_PAGE_RESV_RESV.place (.admt 5), 7), (Reg.ADMT_KV_SLOT_PAGES.place (.admt 5), 10), (Reg.ADMT_KV_SLOT_PAGES.place (.admt 4), 10), (Reg.ADMT_KV_BASE_LO_BASE_LO.place (.admt 5), 40), (Reg.SAMP_MODEL_VOCAB.place (.samp 5), 4), (Reg.SAMP_MODEL_EOS.place (.samp 5), 3), (Reg.SAMP_LBASE_LO_BASE_LO.place (.samp 5), (327680 / 2 ^ Reg.SAMP_LBASE_LO_BASE_LO.lo)), (Reg.SAMP_LSTRIDE_UNITS.place (.samp 5), 1), (Reg.ADMT_TEN_IDLE_MS.place (.admt 2) 1, 5)]) with tenants := [(1, { en := true, reqTail := 1, p := { c := 6400000000, k := 6400000000 }, g := { c := 6400000000, k := 6400000000 } })], tier := { pages := [(5, { st := .resident .basin, frame := 0, frameTier := .basin })], dirs := [(0, { valid := true, used := 1, leaf := 257 })], leaves := [(257, true)], frames := [(67108864, true)] } },
     2, 1, BitVec.ofNat 1024
     2808895732501394421426276847978861475747272243862750713433518558479782741304236567171833635356647684928581771233775236618493174522563262337026456318877129433423335365341936438509382663327547655151553246294954499930157161323641424591354036561652350078830838168908108114754477821676764828965319393647832072195,
     { ok := true, stops := [], tokens := [], cached := 0, cachedFb := 0 }, (let s :=
     { (st [(Reg.PG_READY_READY.place .tier, 1), (Reg.PG_READY_READY.place (.bas 0), 1), (Reg.BAS_MEM_STAT_ONLINE.place (.bas 0), 1), (Reg.BAS_MEM_FRAMES_FRAMES.place (.bas 0), 786432), (Reg.PG_READY_READY.place (.admt 2), 1), (Reg.PG_READY_READY.place (.samp 5), 1), (Reg.DEV_NODE_NODE.place .dev, 9), (Reg.ADMT_BIND_LO_TEN.place (.admt 2), 2), (Reg.ADMT_CTRL_EN.place (.admt 2), 1), (Reg.QRM_STAT_IN_QUORUM.place .qrm, 1), (Reg.ADMT_MODEL_LAYERS.place (.admt 2), 1), (Reg.ADMT_MODEL_TOK_LOG2.place (.admt 2), 6), (Reg.ADMT_TEN_P_CSIZE.place (.admt 2) 1, 100), (Reg.ADMT_TEN_P_PSIZE.place (.admt 2) 1, 100), (Reg.ADMT_TEN_G_CSIZE.place (.admt 2) 1, 100), (Reg.ADMT_TEN_G_PSIZE.place (.admt 2) 1, 100), (Reg.ADMT_TEN_MAX_OPEN0.place (.admt 2) 1, 2), (Reg.DISP_ROLE_CUR.place (.disp 4), 1), (Reg.DISP_ROLE_CUR.place (.disp 5), 2), (Reg.ADMT_PAGE_LIMIT_LIMIT.place (.admt 5), 100), (Reg.ADMT_PAGE_RESV_RESV.place (.admt 5), 7), (Reg.ADMT_KV_SLOT_PAGES.place (.admt 5), 10), (Reg.ADMT_KV_SLOT_PAGES.place (.admt 4), 10), (Reg.ADMT_KV_BASE_LO_BASE_LO.place (.admt 5), 40), (Reg.SAMP_MODEL_VOCAB.place (.samp 5), 4), (Reg.SAMP_MODEL_EOS.place (.samp 5), 3), (Reg.SAMP_LBASE_LO_BASE_LO.place (.samp 5), (327680 / 2 ^ Reg.SAMP_LBASE_LO_BASE_LO.lo)), (Reg.SAMP_LSTRIDE_UNITS.place (.samp 5), 1), (Reg.ADMT_TEN_IDLE_MS.place (.admt 2) 1, 5)]) with tenants := [(1, { en := true, reqTail := 1, p := { c := 6400000000, k := 6400000000 }, g := { c := 6400000000, k := 6400000000 } })], tier := { pages := [(5, { st := .resident .basin, frame := 0, frameTier := .basin })], dirs := [(0, { valid := true, used := 1, leaf := 257 })], leaves := [(257, true)], frames := [(67108864, true)] } };
     (s.readDesc 1).refill 2 1), 5, 0, 3, by decide +kernel⟩,
   ⟨State.reset, 2, 1, BitVec.ofNat 1024
     9773544505746286835858277524840310455556890218673838673281349411775283637592215990969871673598167007997757034070017,
     { ok := true, stops := [], tokens := [], cached := 0, cachedFb := 0 }, by decide +kernel⟩,
   ⟨{ (st [(Reg.PG_READY_READY.place .tier, 1), (Reg.PG_READY_READY.place (.bas 0), 1), (Reg.BAS_MEM_STAT_ONLINE.place (.bas 0), 1), (Reg.BAS_MEM_FRAMES_FRAMES.place (.bas 0), 786432), (Reg.PG_READY_READY.place (.admt 2), 1), (Reg.PG_READY_READY.place (.samp 5), 1), (Reg.DEV_NODE_NODE.place .dev, 9), (Reg.ADMT_BIND_LO_TEN.place (.admt 2), 2), (Reg.ADMT_CTRL_EN.place (.admt 2), 1), (Reg.QRM_STAT_IN_QUORUM.place .qrm, 1), (Reg.ADMT_MODEL_LAYERS.place (.admt 2), 1), (Reg.ADMT_MODEL_TOK_LOG2.place (.admt 2), 6), (Reg.ADMT_TEN_P_CSIZE.place (.admt 2) 1, 100), (Reg.ADMT_TEN_P_PSIZE.place (.admt 2) 1, 100), (Reg.ADMT_TEN_G_CSIZE.place (.admt 2) 1, 100), (Reg.ADMT_TEN_G_PSIZE.place (.admt 2) 1, 100), (Reg.ADMT_TEN_MAX_OPEN0.place (.admt 2) 1, 2), (Reg.DISP_ROLE_CUR.place (.disp 4), 1), (Reg.DISP_ROLE_CUR.place (.disp 5), 2), (Reg.ADMT_PAGE_LIMIT_LIMIT.place (.admt 5), 100), (Reg.ADMT_PAGE_RESV_RESV.place (.admt 5), 7), (Reg.ADMT_KV_SLOT_PAGES.place (.admt 5), 10), (Reg.ADMT_KV_SLOT_PAGES.place (.admt 4), 10), (Reg.ADMT_KV_BASE_LO_BASE_LO.place (.admt 5), 40), (Reg.SAMP_MODEL_VOCAB.place (.samp 5), 4), (Reg.SAMP_MODEL_EOS.place (.samp 5), 3), (Reg.SAMP_LBASE_LO_BASE_LO.place (.samp 5), (327680 / 2 ^ Reg.SAMP_LBASE_LO_BASE_LO.lo)), (Reg.SAMP_LSTRIDE_UNITS.place (.samp 5), 1), (Reg.ADMT_TEN_IDLE_MS.place (.admt 2) 1, 5)]) with tenants := [(1, { en := true, reqTail := 1, p := { c := 6400000000, k := 6400000000 }, g := { c := 6400000000, k := 6400000000 } })], reqs := [{ reqId := 67108873, tenant := 1, desc := BitVec.ofNat 1024 9773544505746286835858277524840310455556890218673838673281349411775283637592215990969871673598167007997757034070033, stops := [], st := .deferred, weir := 2, model := 0, fallback := false, promptPart := none, genPart := none, genSlot := 3, pass := 0, need := 1, readAt := 0, tokens := 0, outBuf := [], emitted := [], pos := 130, layers := 0, pages := 0, lastTok := 0, specEpoch := 0, adapter := none, endStatus := none }], tier := { pages := [(5, { st := .resident .basin, frame := 0, frameTier := .basin })], dirs := [(0, { valid := true, used := 1, leaf := 257 })], leaves := [(257, true)], frames := [(67108864, true)] } },
     2,
     { reqId := 67108873, tenant := 1, desc := BitVec.ofNat 1024 9773544505746286835858277524840310455556890218673838673281349411775283637592215990969871673598167007997757034070033, stops := [], st := .deferred, weir := 2, model := 0, fallback := false, promptPart := none, genPart := none, genSlot := 3, pass := 0, need := 1, readAt := 0, tokens := 0, outBuf := [], emitted := [], pos := 130, layers := 0, pages := 0, lastTok := 0, specEpoch := 0, adapter := none, endStatus := none },
     [], by decide +kernel⟩,
   ⟨{ (st [(Reg.PG_READY_READY.place .tier, 1), (Reg.PG_READY_READY.place (.bas 0), 1), (Reg.BAS_MEM_STAT_ONLINE.place (.bas 0), 1), (Reg.BAS_MEM_FRAMES_FRAMES.place (.bas 0), 786432), (Reg.PG_READY_READY.place (.admt 2), 1), (Reg.PG_READY_READY.place (.samp 5), 1), (Reg.DEV_NODE_NODE.place .dev, 9), (Reg.ADMT_BIND_LO_TEN.place (.admt 2), 2), (Reg.ADMT_CTRL_EN.place (.admt 2), 1), (Reg.QRM_STAT_IN_QUORUM.place .qrm, 1), (Reg.ADMT_MODEL_LAYERS.place (.admt 2), 1), (Reg.ADMT_MODEL_TOK_LOG2.place (.admt 2), 6), (Reg.ADMT_TEN_P_CSIZE.place (.admt 2) 1, 100), (Reg.ADMT_TEN_P_PSIZE.place (.admt 2) 1, 100), (Reg.ADMT_TEN_G_CSIZE.place (.admt 2) 1, 100), (Reg.ADMT_TEN_G_PSIZE.place (.admt 2) 1, 100), (Reg.ADMT_TEN_MAX_OPEN0.place (.admt 2) 1, 2), (Reg.DISP_ROLE_CUR.place (.disp 4), 1), (Reg.DISP_ROLE_CUR.place (.disp 5), 2), (Reg.ADMT_PAGE_LIMIT_LIMIT.place (.admt 5), 100), (Reg.ADMT_PAGE_RESV_RESV.place (.admt 5), 7), (Reg.ADMT_KV_SLOT_PAGES.place (.admt 5), 10), (Reg.ADMT_KV_SLOT_PAGES.place (.admt 4), 10), (Reg.ADMT_KV_BASE_LO_BASE_LO.place (.admt 5), 40), (Reg.SAMP_MODEL_VOCAB.place (.samp 5), 4), (Reg.SAMP_MODEL_EOS.place (.samp 5), 3), (Reg.SAMP_LBASE_LO_BASE_LO.place (.samp 5), (327680 / 2 ^ Reg.SAMP_LBASE_LO_BASE_LO.lo)), (Reg.SAMP_LSTRIDE_UNITS.place (.samp 5), 1), (Reg.ADMT_TEN_IDLE_MS.place (.admt 2) 1, 5)]) with tenants := [(1, { en := true, reqTail := 1, p := { c := 6400000000, k := 6400000000 }, g := { c := 6400000000, k := 6400000000 } })], tier := { pages := [(5, { st := .resident .basin, frame := 0, frameTier := .basin })], dirs := [(0, { valid := true, used := 1, leaf := 257 })], leaves := [(257, true)], frames := [(67108864, true)] } },
     2, by decide +kernel⟩,
   ⟨{ (st [(Reg.PG_READY_READY.place .tier, 1), (Reg.PG_READY_READY.place (.bas 0), 1), (Reg.BAS_MEM_STAT_ONLINE.place (.bas 0), 1), (Reg.BAS_MEM_FRAMES_FRAMES.place (.bas 0), 786432), (Reg.PG_READY_READY.place (.admt 2), 1), (Reg.PG_READY_READY.place (.samp 5), 1), (Reg.DEV_NODE_NODE.place .dev, 9), (Reg.ADMT_BIND_LO_TEN.place (.admt 2), 2), (Reg.ADMT_CTRL_EN.place (.admt 2), 1), (Reg.QRM_STAT_IN_QUORUM.place .qrm, 1), (Reg.ADMT_MODEL_LAYERS.place (.admt 2), 1), (Reg.ADMT_MODEL_TOK_LOG2.place (.admt 2), 6), (Reg.ADMT_TEN_P_CSIZE.place (.admt 2) 1, 100), (Reg.ADMT_TEN_P_PSIZE.place (.admt 2) 1, 100), (Reg.ADMT_TEN_G_CSIZE.place (.admt 2) 1, 100), (Reg.ADMT_TEN_G_PSIZE.place (.admt 2) 1, 100), (Reg.ADMT_TEN_MAX_OPEN0.place (.admt 2) 1, 2), (Reg.DISP_ROLE_CUR.place (.disp 4), 1), (Reg.DISP_ROLE_CUR.place (.disp 5), 2), (Reg.ADMT_PAGE_LIMIT_LIMIT.place (.admt 5), 100), (Reg.ADMT_PAGE_RESV_RESV.place (.admt 5), 7), (Reg.ADMT_KV_SLOT_PAGES.place (.admt 5), 10), (Reg.ADMT_KV_SLOT_PAGES.place (.admt 4), 10), (Reg.ADMT_KV_BASE_LO_BASE_LO.place (.admt 5), 40), (Reg.SAMP_MODEL_VOCAB.place (.samp 5), 4), (Reg.SAMP_MODEL_EOS.place (.samp 5), 3), (Reg.SAMP_LBASE_LO_BASE_LO.place (.samp 5), (327680 / 2 ^ Reg.SAMP_LBASE_LO_BASE_LO.lo)), (Reg.SAMP_LSTRIDE_UNITS.place (.samp 5), 1), (Reg.ADMT_TEN_IDLE_MS.place (.admt 2) 1, 5), (Reg.DISP_CLASS_TTFT_US.place (.disp 2), 4)]) with tenants := [(1, { en := true, reqTail := 1, p := { c := 6400000000, k := 6400000000 }, g := { c := 6400000000, k := 6400000000 } })], reqs := [{ reqId := 67108873, tenant := 1, desc := BitVec.ofNat 1024 9773544505746286835858277524840310455556890218673838673281349411775283637592215990969871673598167007997757034070033, stops := [], st := .deferred, weir := 2, model := 0, fallback := false, promptPart := none, genPart := none, genSlot := 3, pass := 0, need := 1, readAt := 0, tokens := 0, outBuf := [], emitted := [], pos := 130, layers := 0, pages := 0, lastTok := 0, specEpoch := 0, adapter := none, endStatus := none }], tier := { pages := [(5, { st := .resident .basin, frame := 0, frameTier := .basin })], dirs := [(0, { valid := true, used := 1, leaf := 257 })], leaves := [(257, true)], frames := [(67108864, true)] }, now := 4000 },
     2, 67108873,
     { reqId := 67108873, tenant := 1, desc := BitVec.ofNat 1024 9773544505746286835858277524840310455556890218673838673281349411775283637592215990969871673598167007997757034070033, stops := [], st := .deferred, weir := 2, model := 0, fallback := false, promptPart := none, genPart := none, genSlot := 3, pass := 0, need := 1, readAt := 0, tokens := 0, outBuf := [], emitted := [], pos := 130, layers := 0, pages := 0, lastTok := 0, specEpoch := 0, adapter := none, endStatus := none },
     1, by decide +kernel⟩,
   ⟨{ (st [(Reg.PG_READY_READY.place .tier, 1), (Reg.PG_READY_READY.place (.bas 0), 1), (Reg.BAS_MEM_STAT_ONLINE.place (.bas 0), 1), (Reg.BAS_MEM_FRAMES_FRAMES.place (.bas 0), 786432), (Reg.PG_READY_READY.place (.admt 2), 1), (Reg.PG_READY_READY.place (.samp 5), 1), (Reg.DEV_NODE_NODE.place .dev, 9), (Reg.ADMT_BIND_LO_TEN.place (.admt 2), 2), (Reg.ADMT_CTRL_EN.place (.admt 2), 1), (Reg.QRM_STAT_IN_QUORUM.place .qrm, 1), (Reg.ADMT_MODEL_LAYERS.place (.admt 2), 1), (Reg.ADMT_MODEL_TOK_LOG2.place (.admt 2), 6), (Reg.ADMT_TEN_P_CSIZE.place (.admt 2) 1, 100), (Reg.ADMT_TEN_P_PSIZE.place (.admt 2) 1, 100), (Reg.ADMT_TEN_G_CSIZE.place (.admt 2) 1, 100), (Reg.ADMT_TEN_G_PSIZE.place (.admt 2) 1, 100), (Reg.ADMT_TEN_MAX_OPEN0.place (.admt 2) 1, 2), (Reg.DISP_ROLE_CUR.place (.disp 4), 1), (Reg.DISP_ROLE_CUR.place (.disp 5), 2), (Reg.ADMT_PAGE_LIMIT_LIMIT.place (.admt 5), 100), (Reg.ADMT_PAGE_RESV_RESV.place (.admt 5), 7), (Reg.ADMT_KV_SLOT_PAGES.place (.admt 5), 10), (Reg.ADMT_KV_SLOT_PAGES.place (.admt 4), 10), (Reg.ADMT_KV_BASE_LO_BASE_LO.place (.admt 5), 40), (Reg.SAMP_MODEL_VOCAB.place (.samp 5), 4), (Reg.SAMP_MODEL_EOS.place (.samp 5), 3), (Reg.SAMP_LBASE_LO_BASE_LO.place (.samp 5), (327680 / 2 ^ Reg.SAMP_LBASE_LO_BASE_LO.lo)), (Reg.SAMP_LSTRIDE_UNITS.place (.samp 5), 1), (Reg.ADMT_TEN_IDLE_MS.place (.admt 2) 1, 5), (Reg.DISP_CLASS_TTFT_US.place (.disp 2), 4)]) with tenants := [(1, { en := true, reqTail := 1, p := { c := 6400000000, k := 6400000000 }, g := { c := 6400000000, k := 6400000000 } })], reqs := [{ reqId := 67108873, tenant := 1, desc := BitVec.ofNat 1024 9773544505746286835858277524840310455556890218673838673281349411775283637592215990969871673598167007997757034070033, stops := [], st := .deferred, weir := 2, model := 0, fallback := false, promptPart := none, genPart := none, genSlot := 3, pass := 0, need := 1, readAt := 0, tokens := 0, outBuf := [], emitted := [], pos := 130, layers := 0, pages := 0, lastTok := 0, specEpoch := 0, adapter := none, endStatus := none }], tier := { pages := [(5, { st := .resident .basin, frame := 0, frameTier := .basin })], dirs := [(0, { valid := true, used := 1, leaf := 257 })], leaves := [(257, true)], frames := [(67108864, true)] }, now := 3999 },
     2, 67108873,
     { reqId := 67108873, tenant := 1, desc := BitVec.ofNat 1024 9773544505746286835858277524840310455556890218673838673281349411775283637592215990969871673598167007997757034070033, stops := [], st := .deferred, weir := 2, model := 0, fallback := false, promptPart := none, genPart := none, genSlot := 3, pass := 0, need := 1, readAt := 0, tokens := 0, outBuf := [], emitted := [], pos := 130, layers := 0, pages := 0, lastTok := 0, specEpoch := 0, adapter := none, endStatus := none },
     1, by decide +kernel⟩⟩

/-- The hypotheses of ConversationsEnd can be met, clause by clause. -/
theorem wit_ConversationsEnd :
    (∃ (s : State) (p : PartId) (n : TenId) (d : BitVec 1024) (h : HostRead) (v : Conv), s.weirReads p n = true ∧ dOp
      d = 2 ∧ s.descReason p n d h = none ∧ (s.conv n (dConv d) = some v) ∧ s.pushOpen v = true) ∧
    (∃ (s : State) (p : PartId) (n : TenId) (d : BitVec 1024) (h : HostRead) (v : Conv), s.weirReads p n = true ∧ dOp
      d = 2 ∧ s.descReason p n d h = none ∧ (s.conv n (dConv d) = some v) ∧ s.pushOpen v = false ∧ v.tenant = n ∧
      v.convId = dConv d) ∧
    (∃ (s : State) (p : PartId) (n : TenId) (d : BitVec 1024) (h : HostRead) (v : Conv), s.weirReads p n = true ∧ dOp
      d = 4 ∧ s.descReason p n d h = none ∧ (s.conv n (dConv d) = some v) ∧ v.st = .resident ∧ v.tenant = n ∧
      v.convId = dConv d) ∧
    (∃ (s : State) (n : TenId) (c : Nat) (v : Conv) (p : PartId), (s.conv n c = some v) ∧ (s.weirOf n = some p) ∧
      v.st = .resident ∧ s.openOf n c = none ∧ ((s.mover v.part).ctxs.any (fun e => e.2.kind == 2 && e.2.reqId ==
      v.reqId && decide (1 ≤ e.2.state) && decide (e.2.state ≤ 3)) = false) ∧ v.idleFrom + s.fld (.admt p)
      Reg.ADMT_TEN_IDLE_MS n.val * 1000000 ≤ s.now) ∧
    (∃ (s : State) (n : TenId) (c : Nat), (s.conv n c = none ∨ s.weirOf n = none ∨ s.openOf n c ≠ none)) ∧
    (∃ (s : State) (n : TenId) (tag : Fin 67108864) (p : PartId), s.recovery = false ∧ (s.weirOf n = some p) ∧ s.req
      (reqIdOf n tag.val) = none) ∧
    (∃ (s : State) (n : TenId) (tag : Fin 67108864) (p : PartId) (r : Req), s.recovery = false ∧ (s.weirOf n = some
      p) ∧ (s.req (reqIdOf n tag.val) = some r) ∧ r.st = .deferred) ∧
    (∃ (s : State) (n : TenId) (tag : Fin 67108864) (p : PartId) (r : Req) (g : PartId), s.recovery = false ∧
      (s.weirOf n = some p) ∧ (s.req (reqIdOf n tag.val) = some r) ∧ r.st ≠ .deferred ∧ r.endStatus.isSome = true ∧
      (r.genPart = some g)) ∧
    (∃ (s : State) (n : TenId) (tag : Fin 67108864) (p : PartId) (r : Req), s.recovery = false ∧ (s.weirOf n = some
      p) ∧ (s.req (reqIdOf n tag.val) = some r) ∧ r.tenant = n ∧ r.st = .running ∧ r.endStatus = none ∧ r.recorded =
      false ∧ r.outBuf = [] ∧ (∀ q ∈ allParts, ∀ e ∈ (s.mover q).ctxs, e.2.state = 0 ∨ 3 < e.2.state)) ∧
    (∃ (s : State) (n : TenId) (tail : Fin 8192), s.recovery = false ∧ s.weirOf n = none) ∧
    (∃ (s : State) (n : TenId) (tag : Fin 67108864), s.recovery = false ∧ s.weirOf n = none) :=
  ⟨⟨{ (st [(Reg.PG_READY_READY.place .tier, 1), (Reg.PG_READY_READY.place (.bas 0), 1), (Reg.BAS_MEM_STAT_ONLINE.place (.bas 0), 1), (Reg.BAS_MEM_FRAMES_FRAMES.place (.bas 0), 786432), (Reg.PG_READY_READY.place (.admt 2), 1), (Reg.PG_READY_READY.place (.samp 5), 1), (Reg.DEV_NODE_NODE.place .dev, 9), (Reg.ADMT_BIND_LO_TEN.place (.admt 2), 2), (Reg.ADMT_CTRL_EN.place (.admt 2), 1), (Reg.QRM_STAT_IN_QUORUM.place .qrm, 1), (Reg.ADMT_MODEL_LAYERS.place (.admt 2), 1), (Reg.ADMT_MODEL_TOK_LOG2.place (.admt 2), 6), (Reg.ADMT_TEN_P_CSIZE.place (.admt 2) 1, 100), (Reg.ADMT_TEN_P_PSIZE.place (.admt 2) 1, 100), (Reg.ADMT_TEN_G_CSIZE.place (.admt 2) 1, 100), (Reg.ADMT_TEN_G_PSIZE.place (.admt 2) 1, 100), (Reg.ADMT_TEN_MAX_OPEN0.place (.admt 2) 1, 2), (Reg.DISP_ROLE_CUR.place (.disp 4), 1), (Reg.DISP_ROLE_CUR.place (.disp 5), 2), (Reg.ADMT_PAGE_LIMIT_LIMIT.place (.admt 5), 100), (Reg.ADMT_PAGE_RESV_RESV.place (.admt 5), 7), (Reg.ADMT_KV_SLOT_PAGES.place (.admt 5), 10), (Reg.ADMT_KV_SLOT_PAGES.place (.admt 4), 10), (Reg.ADMT_KV_BASE_LO_BASE_LO.place (.admt 5), 40), (Reg.SAMP_MODEL_VOCAB.place (.samp 5), 4), (Reg.SAMP_MODEL_EOS.place (.samp 5), 3), (Reg.SAMP_LBASE_LO_BASE_LO.place (.samp 5), (327680 / 2 ^ Reg.SAMP_LBASE_LO_BASE_LO.lo)), (Reg.SAMP_LSTRIDE_UNITS.place (.samp 5), 1), (Reg.ADMT_TEN_IDLE_MS.place (.admt 2) 1, 5)]) with tenants := [(1, { en := true, reqTail := 1, p := { c := 6400000000, k := 6400000000 }, g := { c := 6400000000, k := 6400000000 } })], convs := [{ tenant := 1, convId := 7, st := .resident, part := 5, slot := 0, need := 3, kvLen := 100, layers := 1, model := 0, reqId := 67108867, handleAddr := 0, handle := 0, idleFrom := 0 }], movers := [(5, { ctxs := [(0, { kind := 1, state := 2, reqId := 67108867 })] })], tier := { pages := [(5, { st := .resident .basin, frame := 0, frameTier := .basin })], dirs := [(0, { valid := true, used := 1, leaf := 257 })], leaves := [(257, true)], frames := [(67108864, true)] } },
     2, 1, BitVec.ofNat 1024
     9773544505746286835858277524840310455556890218673838673281349411775283637592215990969871673598167007997757034070018,
     { ok := true, stops := [], tokens := [], cached := 0, cachedFb := 0 },
     { tenant := 1, convId := 7, st := .resident, part := 5, slot := 0, need := 3, kvLen := 100, layers := 1, model := 0, reqId := 67108867, handleAddr := 0, handle := 0, idleFrom := 0 },
     by decide +kernel⟩,
   ⟨{ (st [(Reg.PG_READY_READY.place .tier, 1), (Reg.PG_READY_READY.place (.bas 0), 1), (Reg.BAS_MEM_STAT_ONLINE.place (.bas 0), 1), (Reg.BAS_MEM_FRAMES_FRAMES.place (.bas 0), 786432), (Reg.PG_READY_READY.place (.admt 2), 1), (Reg.PG_READY_READY.place (.samp 5), 1), (Reg.DEV_NODE_NODE.place .dev, 9), (Reg.ADMT_BIND_LO_TEN.place (.admt 2), 2), (Reg.ADMT_CTRL_EN.place (.admt 2), 1), (Reg.QRM_STAT_IN_QUORUM.place .qrm, 1), (Reg.ADMT_MODEL_LAYERS.place (.admt 2), 1), (Reg.ADMT_MODEL_TOK_LOG2.place (.admt 2), 6), (Reg.ADMT_TEN_P_CSIZE.place (.admt 2) 1, 100), (Reg.ADMT_TEN_P_PSIZE.place (.admt 2) 1, 100), (Reg.ADMT_TEN_G_CSIZE.place (.admt 2) 1, 100), (Reg.ADMT_TEN_G_PSIZE.place (.admt 2) 1, 100), (Reg.ADMT_TEN_MAX_OPEN0.place (.admt 2) 1, 2), (Reg.DISP_ROLE_CUR.place (.disp 4), 1), (Reg.DISP_ROLE_CUR.place (.disp 5), 2), (Reg.ADMT_PAGE_LIMIT_LIMIT.place (.admt 5), 100), (Reg.ADMT_PAGE_RESV_RESV.place (.admt 5), 7), (Reg.ADMT_KV_SLOT_PAGES.place (.admt 5), 10), (Reg.ADMT_KV_SLOT_PAGES.place (.admt 4), 10), (Reg.ADMT_KV_BASE_LO_BASE_LO.place (.admt 5), 40), (Reg.SAMP_MODEL_VOCAB.place (.samp 5), 4), (Reg.SAMP_MODEL_EOS.place (.samp 5), 3), (Reg.SAMP_LBASE_LO_BASE_LO.place (.samp 5), (327680 / 2 ^ Reg.SAMP_LBASE_LO_BASE_LO.lo)), (Reg.SAMP_LSTRIDE_UNITS.place (.samp 5), 1), (Reg.ADMT_TEN_IDLE_MS.place (.admt 2) 1, 5)]) with tenants := [(1, { en := true, reqTail := 1, p := { c := 6400000000, k := 6400000000 }, g := { c := 6400000000, k := 6400000000 } })], convs := [{ tenant := 1, convId := 7, st := .resident, part := 5, slot := 0, need := 3, kvLen := 100, layers := 1, model := 0, reqId := 67108867, handleAddr := 0, handle := 0, idleFrom := 0 }], tier := { pages := [(5, { st := .resident .basin, frame := 0, frameTier := .basin })], dirs := [(0, { valid := true, used := 1, leaf := 257 })], leaves := [(257, true)], frames := [(67108864, true)] } },
     2, 1, BitVec.ofNat 1024
     9773544505746286835858277524840310455556890218673838673281349411775283637592215990969871673598167007997757034070018,
     { ok := true, stops := [], tokens := [], cached := 0, cachedFb := 0 },
     { tenant := 1, convId := 7, st := .resident, part := 5, slot := 0, need := 3, kvLen := 100, layers := 1, model := 0, reqId := 67108867, handleAddr := 0, handle := 0, idleFrom := 0 },
     by decide +kernel⟩,
   ⟨{ (st [(Reg.PG_READY_READY.place .tier, 1), (Reg.PG_READY_READY.place (.bas 0), 1), (Reg.BAS_MEM_STAT_ONLINE.place (.bas 0), 1), (Reg.BAS_MEM_FRAMES_FRAMES.place (.bas 0), 786432), (Reg.PG_READY_READY.place (.admt 2), 1), (Reg.PG_READY_READY.place (.samp 5), 1), (Reg.DEV_NODE_NODE.place .dev, 9), (Reg.ADMT_BIND_LO_TEN.place (.admt 2), 2), (Reg.ADMT_CTRL_EN.place (.admt 2), 1), (Reg.QRM_STAT_IN_QUORUM.place .qrm, 1), (Reg.ADMT_MODEL_LAYERS.place (.admt 2), 1), (Reg.ADMT_MODEL_TOK_LOG2.place (.admt 2), 6), (Reg.ADMT_TEN_P_CSIZE.place (.admt 2) 1, 100), (Reg.ADMT_TEN_P_PSIZE.place (.admt 2) 1, 100), (Reg.ADMT_TEN_G_CSIZE.place (.admt 2) 1, 100), (Reg.ADMT_TEN_G_PSIZE.place (.admt 2) 1, 100), (Reg.ADMT_TEN_MAX_OPEN0.place (.admt 2) 1, 2), (Reg.DISP_ROLE_CUR.place (.disp 4), 1), (Reg.DISP_ROLE_CUR.place (.disp 5), 2), (Reg.ADMT_PAGE_LIMIT_LIMIT.place (.admt 5), 100), (Reg.ADMT_PAGE_RESV_RESV.place (.admt 5), 7), (Reg.ADMT_KV_SLOT_PAGES.place (.admt 5), 10), (Reg.ADMT_KV_SLOT_PAGES.place (.admt 4), 10), (Reg.ADMT_KV_BASE_LO_BASE_LO.place (.admt 5), 40), (Reg.SAMP_MODEL_VOCAB.place (.samp 5), 4), (Reg.SAMP_MODEL_EOS.place (.samp 5), 3), (Reg.SAMP_LBASE_LO_BASE_LO.place (.samp 5), (327680 / 2 ^ Reg.SAMP_LBASE_LO_BASE_LO.lo)), (Reg.SAMP_LSTRIDE_UNITS.place (.samp 5), 1), (Reg.ADMT_TEN_IDLE_MS.place (.admt 2) 1, 5)]) with tenants := [(1, { en := true, reqTail := 1, p := { c := 6400000000, k := 6400000000 }, g := { c := 6400000000, k := 6400000000 } })], convs := [{ tenant := 1, convId := 7, st := .resident, part := 5, slot := 0, need := 3, kvLen := 100, layers := 1, model := 0, reqId := 67108867, handleAddr := 0, handle := 0, idleFrom := 0 }], tier := { pages := [(40, { st := .resident .basin, frame := 0, frameTier := .basin })], dirs := [(0, { valid := true, used := 1, leaf := 257 })], leaves := [(257, true)], frames := [(67108864, true)] } },
     2, 1, BitVec.ofNat 1024
     9773544505746286835858277524840310455556890218673838673281349411775283637592215990969871673598167007997757034070020,
     { ok := true, stops := [], tokens := [], cached := 0, cachedFb := 0 },
     { tenant := 1, convId := 7, st := .resident, part := 5, slot := 0, need := 3, kvLen := 100, layers := 1, model := 0, reqId := 67108867, handleAddr := 0, handle := 0, idleFrom := 0 },
     by decide +kernel⟩,
   ⟨{ (st [(Reg.PG_READY_READY.place .tier, 1), (Reg.PG_READY_READY.place (.bas 0), 1), (Reg.BAS_MEM_STAT_ONLINE.place (.bas 0), 1), (Reg.BAS_MEM_FRAMES_FRAMES.place (.bas 0), 786432), (Reg.PG_READY_READY.place (.admt 2), 1), (Reg.PG_READY_READY.place (.samp 5), 1), (Reg.DEV_NODE_NODE.place .dev, 9), (Reg.ADMT_BIND_LO_TEN.place (.admt 2), 2), (Reg.ADMT_CTRL_EN.place (.admt 2), 1), (Reg.QRM_STAT_IN_QUORUM.place .qrm, 1), (Reg.ADMT_MODEL_LAYERS.place (.admt 2), 1), (Reg.ADMT_MODEL_TOK_LOG2.place (.admt 2), 6), (Reg.ADMT_TEN_P_CSIZE.place (.admt 2) 1, 100), (Reg.ADMT_TEN_P_PSIZE.place (.admt 2) 1, 100), (Reg.ADMT_TEN_G_CSIZE.place (.admt 2) 1, 100), (Reg.ADMT_TEN_G_PSIZE.place (.admt 2) 1, 100), (Reg.ADMT_TEN_MAX_OPEN0.place (.admt 2) 1, 2), (Reg.DISP_ROLE_CUR.place (.disp 4), 1), (Reg.DISP_ROLE_CUR.place (.disp 5), 2), (Reg.ADMT_PAGE_LIMIT_LIMIT.place (.admt 5), 100), (Reg.ADMT_PAGE_RESV_RESV.place (.admt 5), 7), (Reg.ADMT_KV_SLOT_PAGES.place (.admt 5), 10), (Reg.ADMT_KV_SLOT_PAGES.place (.admt 4), 10), (Reg.ADMT_KV_BASE_LO_BASE_LO.place (.admt 5), 40), (Reg.SAMP_MODEL_VOCAB.place (.samp 5), 4), (Reg.SAMP_MODEL_EOS.place (.samp 5), 3), (Reg.SAMP_LBASE_LO_BASE_LO.place (.samp 5), (327680 / 2 ^ Reg.SAMP_LBASE_LO_BASE_LO.lo)), (Reg.SAMP_LSTRIDE_UNITS.place (.samp 5), 1), (Reg.ADMT_TEN_IDLE_MS.place (.admt 2) 1, 5)]) with tenants := [(1, { en := true, reqTail := 1, p := { c := 6400000000, k := 6400000000 }, g := { c := 6400000000, k := 6400000000 } })], convs := [{ tenant := 1, convId := 7, st := .resident, part := 5, slot := 0, need := 3, kvLen := 100, layers := 1, model := 0, reqId := 67108867, handleAddr := 0, handle := 0, idleFrom := 0 }], tier := { pages := [(5, { st := .resident .basin, frame := 0, frameTier := .basin })], dirs := [(0, { valid := true, used := 1, leaf := 257 })], leaves := [(257, true)], frames := [(67108864, true)] }, now := 5000000 },
     1, 7,
     { tenant := 1, convId := 7, st := .resident, part := 5, slot := 0, need := 3, kvLen := 100, layers := 1, model := 0, reqId := 67108867, handleAddr := 0, handle := 0, idleFrom := 0 },
     2, by decide +kernel⟩,
   ⟨{ (st [(Reg.PG_READY_READY.place .tier, 1), (Reg.PG_READY_READY.place (.bas 0), 1), (Reg.BAS_MEM_STAT_ONLINE.place (.bas 0), 1), (Reg.BAS_MEM_FRAMES_FRAMES.place (.bas 0), 786432), (Reg.PG_READY_READY.place (.admt 2), 1), (Reg.PG_READY_READY.place (.samp 5), 1), (Reg.DEV_NODE_NODE.place .dev, 9), (Reg.ADMT_BIND_LO_TEN.place (.admt 2), 2), (Reg.ADMT_CTRL_EN.place (.admt 2), 1), (Reg.QRM_STAT_IN_QUORUM.place .qrm, 1), (Reg.ADMT_MODEL_LAYERS.place (.admt 2), 1), (Reg.ADMT_MODEL_TOK_LOG2.place (.admt 2), 6), (Reg.ADMT_TEN_P_CSIZE.place (.admt 2) 1, 100), (Reg.ADMT_TEN_P_PSIZE.place (.admt 2) 1, 100), (Reg.ADMT_TEN_G_CSIZE.place (.admt 2) 1, 100), (Reg.ADMT_TEN_G_PSIZE.place (.admt 2) 1, 100), (Reg.ADMT_TEN_MAX_OPEN0.place (.admt 2) 1, 2), (Reg.DISP_ROLE_CUR.place (.disp 4), 1), (Reg.DISP_ROLE_CUR.place (.disp 5), 2), (Reg.ADMT_PAGE_LIMIT_LIMIT.place (.admt 5), 100), (Reg.ADMT_PAGE_RESV_RESV.place (.admt 5), 7), (Reg.ADMT_KV_SLOT_PAGES.place (.admt 5), 10), (Reg.ADMT_KV_SLOT_PAGES.place (.admt 4), 10), (Reg.ADMT_KV_BASE_LO_BASE_LO.place (.admt 5), 40), (Reg.SAMP_MODEL_VOCAB.place (.samp 5), 4), (Reg.SAMP_MODEL_EOS.place (.samp 5), 3), (Reg.SAMP_LBASE_LO_BASE_LO.place (.samp 5), (327680 / 2 ^ Reg.SAMP_LBASE_LO_BASE_LO.lo)), (Reg.SAMP_LSTRIDE_UNITS.place (.samp 5), 1), (Reg.ADMT_TEN_IDLE_MS.place (.admt 2) 1, 5)]) with tenants := [(1, { en := true, reqTail := 1, p := { c := 6400000000, k := 6400000000 }, g := { c := 6400000000, k := 6400000000 } })], convs := [{ tenant := 1, convId := 7, st := .resident, part := 5, slot := 0, need := 3, kvLen := 100, layers := 1, model := 0, reqId := 67108867, handleAddr := 0, handle := 0, idleFrom := 0 }], tier := { pages := [(5, { st := .resident .basin, frame := 0, frameTier := .basin })], dirs := [(0, { valid := true, used := 1, leaf := 257 })], leaves := [(257, true)], frames := [(67108864, true)] } },
     1, 8, by decide +kernel⟩,
   ⟨{ (st [(Reg.PG_READY_READY.place .tier, 1), (Reg.PG_READY_READY.place (.bas 0), 1), (Reg.BAS_MEM_STAT_ONLINE.place (.bas 0), 1), (Reg.BAS_MEM_FRAMES_FRAMES.place (.bas 0), 786432), (Reg.PG_READY_READY.place (.admt 2), 1), (Reg.PG_READY_READY.place (.samp 5), 1), (Reg.DEV_NODE_NODE.place .dev, 9), (Reg.ADMT_BIND_LO_TEN.place (.admt 2), 2), (Reg.ADMT_CTRL_EN.place (.admt 2), 1), (Reg.QRM_STAT_IN_QUORUM.place .qrm, 1), (Reg.ADMT_MODEL_LAYERS.place (.admt 2), 1), (Reg.ADMT_MODEL_TOK_LOG2.place (.admt 2), 6), (Reg.ADMT_TEN_P_CSIZE.place (.admt 2) 1, 100), (Reg.ADMT_TEN_P_PSIZE.place (.admt 2) 1, 100), (Reg.ADMT_TEN_G_CSIZE.place (.admt 2) 1, 100), (Reg.ADMT_TEN_G_PSIZE.place (.admt 2) 1, 100), (Reg.ADMT_TEN_MAX_OPEN0.place (.admt 2) 1, 2), (Reg.DISP_ROLE_CUR.place (.disp 4), 1), (Reg.DISP_ROLE_CUR.place (.disp 5), 2), (Reg.ADMT_PAGE_LIMIT_LIMIT.place (.admt 5), 100), (Reg.ADMT_PAGE_RESV_RESV.place (.admt 5), 7), (Reg.ADMT_KV_SLOT_PAGES.place (.admt 5), 10), (Reg.ADMT_KV_SLOT_PAGES.place (.admt 4), 10), (Reg.ADMT_KV_BASE_LO_BASE_LO.place (.admt 5), 40), (Reg.SAMP_MODEL_VOCAB.place (.samp 5), 4), (Reg.SAMP_MODEL_EOS.place (.samp 5), 3), (Reg.SAMP_LBASE_LO_BASE_LO.place (.samp 5), (327680 / 2 ^ Reg.SAMP_LBASE_LO_BASE_LO.lo)), (Reg.SAMP_LSTRIDE_UNITS.place (.samp 5), 1), (Reg.ADMT_TEN_IDLE_MS.place (.admt 2) 1, 5)]) with tenants := [(1, { en := true, reqTail := 1, p := { c := 6400000000, k := 6400000000 }, g := { c := 6400000000, k := 6400000000 } })], tier := { pages := [(5, { st := .resident .basin, frame := 0, frameTier := .basin })], dirs := [(0, { valid := true, used := 1, leaf := 257 })], leaves := [(257, true)], frames := [(67108864, true)] } },
     1, 9, 2, by decide +kernel⟩,
   ⟨{ (st [(Reg.PG_READY_READY.place .tier, 1), (Reg.PG_READY_READY.place (.bas 0), 1), (Reg.BAS_MEM_STAT_ONLINE.place (.bas 0), 1), (Reg.BAS_MEM_FRAMES_FRAMES.place (.bas 0), 786432), (Reg.PG_READY_READY.place (.admt 2), 1), (Reg.PG_READY_READY.place (.samp 5), 1), (Reg.DEV_NODE_NODE.place .dev, 9), (Reg.ADMT_BIND_LO_TEN.place (.admt 2), 2), (Reg.ADMT_CTRL_EN.place (.admt 2), 1), (Reg.QRM_STAT_IN_QUORUM.place .qrm, 1), (Reg.ADMT_MODEL_LAYERS.place (.admt 2), 1), (Reg.ADMT_MODEL_TOK_LOG2.place (.admt 2), 6), (Reg.ADMT_TEN_P_CSIZE.place (.admt 2) 1, 100), (Reg.ADMT_TEN_P_PSIZE.place (.admt 2) 1, 100), (Reg.ADMT_TEN_G_CSIZE.place (.admt 2) 1, 100), (Reg.ADMT_TEN_G_PSIZE.place (.admt 2) 1, 100), (Reg.ADMT_TEN_MAX_OPEN0.place (.admt 2) 1, 2), (Reg.DISP_ROLE_CUR.place (.disp 4), 1), (Reg.DISP_ROLE_CUR.place (.disp 5), 2), (Reg.ADMT_PAGE_LIMIT_LIMIT.place (.admt 5), 100), (Reg.ADMT_PAGE_RESV_RESV.place (.admt 5), 7), (Reg.ADMT_KV_SLOT_PAGES.place (.admt 5), 10), (Reg.ADMT_KV_SLOT_PAGES.place (.admt 4), 10), (Reg.ADMT_KV_BASE_LO_BASE_LO.place (.admt 5), 40), (Reg.SAMP_MODEL_VOCAB.place (.samp 5), 4), (Reg.SAMP_MODEL_EOS.place (.samp 5), 3), (Reg.SAMP_LBASE_LO_BASE_LO.place (.samp 5), (327680 / 2 ^ Reg.SAMP_LBASE_LO_BASE_LO.lo)), (Reg.SAMP_LSTRIDE_UNITS.place (.samp 5), 1), (Reg.ADMT_TEN_IDLE_MS.place (.admt 2) 1, 5)]) with tenants := [(1, { en := true, reqTail := 1, p := { c := 6400000000, k := 6400000000 }, g := { c := 6400000000, k := 6400000000 } })], reqs := [{ reqId := 67108873, tenant := 1, desc := BitVec.ofNat 1024 9773544505746286835858277524840310455556890218673838673281349411775283637592215990969871673598167007997757034070033, stops := [], st := .deferred, weir := 2, model := 0, fallback := false, promptPart := none, genPart := none, genSlot := 3, pass := 0, need := 1, readAt := 0, tokens := 0, outBuf := [], emitted := [], pos := 130, layers := 0, pages := 0, lastTok := 0, specEpoch := 0, adapter := none, endStatus := none }], tier := { pages := [(5, { st := .resident .basin, frame := 0, frameTier := .basin })], dirs := [(0, { valid := true, used := 1, leaf := 257 })], leaves := [(257, true)], frames := [(67108864, true)] } },
     1, 9, 2,
     { reqId := 67108873, tenant := 1, desc := BitVec.ofNat 1024 9773544505746286835858277524840310455556890218673838673281349411775283637592215990969871673598167007997757034070033, stops := [], st := .deferred, weir := 2, model := 0, fallback := false, promptPart := none, genPart := none, genSlot := 3, pass := 0, need := 1, readAt := 0, tokens := 0, outBuf := [], emitted := [], pos := 130, layers := 0, pages := 0, lastTok := 0, specEpoch := 0, adapter := none, endStatus := none },
     by decide +kernel⟩,
   ⟨{ (st [(Reg.PG_READY_READY.place .tier, 1), (Reg.PG_READY_READY.place (.bas 0), 1), (Reg.BAS_MEM_STAT_ONLINE.place (.bas 0), 1), (Reg.BAS_MEM_FRAMES_FRAMES.place (.bas 0), 786432), (Reg.PG_READY_READY.place (.admt 2), 1), (Reg.PG_READY_READY.place (.samp 5), 1), (Reg.DEV_NODE_NODE.place .dev, 9), (Reg.ADMT_BIND_LO_TEN.place (.admt 2), 2), (Reg.ADMT_CTRL_EN.place (.admt 2), 1), (Reg.QRM_STAT_IN_QUORUM.place .qrm, 1), (Reg.ADMT_MODEL_LAYERS.place (.admt 2), 1), (Reg.ADMT_MODEL_TOK_LOG2.place (.admt 2), 6), (Reg.ADMT_TEN_P_CSIZE.place (.admt 2) 1, 100), (Reg.ADMT_TEN_P_PSIZE.place (.admt 2) 1, 100), (Reg.ADMT_TEN_G_CSIZE.place (.admt 2) 1, 100), (Reg.ADMT_TEN_G_PSIZE.place (.admt 2) 1, 100), (Reg.ADMT_TEN_MAX_OPEN0.place (.admt 2) 1, 2), (Reg.DISP_ROLE_CUR.place (.disp 4), 1), (Reg.DISP_ROLE_CUR.place (.disp 5), 2), (Reg.ADMT_PAGE_LIMIT_LIMIT.place (.admt 5), 100), (Reg.ADMT_PAGE_RESV_RESV.place (.admt 5), 7), (Reg.ADMT_KV_SLOT_PAGES.place (.admt 5), 10), (Reg.ADMT_KV_SLOT_PAGES.place (.admt 4), 10), (Reg.ADMT_KV_BASE_LO_BASE_LO.place (.admt 5), 40), (Reg.SAMP_MODEL_VOCAB.place (.samp 5), 4), (Reg.SAMP_MODEL_EOS.place (.samp 5), 3), (Reg.SAMP_LBASE_LO_BASE_LO.place (.samp 5), (327680 / 2 ^ Reg.SAMP_LBASE_LO_BASE_LO.lo)), (Reg.SAMP_LSTRIDE_UNITS.place (.samp 5), 1), (Reg.ADMT_TEN_IDLE_MS.place (.admt 2) 1, 5)]) with tenants := [(1, { en := true, reqTail := 1, p := { c := 6400000000, k := 6400000000 }, g := { c := 6400000000, k := 6400000000 } })], reqs := [{ reqId := 67108873, tenant := 1, desc := BitVec.ofNat 1024 9773544505746286835858277524840310455556890218673838673281349411775283637592215990969871673599495173571064121786369, stops := [], st := .ending, weir := 2, model := 0, fallback := false, promptPart := none, genPart := some 5, genSlot := 3, pass := 0, need := 1, readAt := 0, tokens := 0, outBuf := [(1, 130)], emitted := [], pos := 130, layers := 0, pages := 0, lastTok := 0, specEpoch := 0, adapter := none, endStatus := some (0x30, 0) }], tier := { pages := [(5, { st := .resident .basin, frame := 0, frameTier := .basin })], dirs := [(0, { valid := true, used := 1, leaf := 257 })], leaves := [(257, true)], frames := [(67108864, true)] } },
     1, 9, 2,
     { reqId := 67108873, tenant := 1, desc := BitVec.ofNat 1024 9773544505746286835858277524840310455556890218673838673281349411775283637592215990969871673599495173571064121786369, stops := [], st := .ending, weir := 2, model := 0, fallback := false, promptPart := none, genPart := some 5, genSlot := 3, pass := 0, need := 1, readAt := 0, tokens := 0, outBuf := [(1, 130)], emitted := [], pos := 130, layers := 0, pages := 0, lastTok := 0, specEpoch := 0, adapter := none, endStatus := some (0x30, 0) },
     5, by decide +kernel⟩,
   ⟨{ (st [(Reg.PG_READY_READY.place .tier, 1), (Reg.PG_READY_READY.place (.bas 0), 1), (Reg.BAS_MEM_STAT_ONLINE.place (.bas 0), 1), (Reg.BAS_MEM_FRAMES_FRAMES.place (.bas 0), 786432), (Reg.PG_READY_READY.place (.admt 2), 1), (Reg.PG_READY_READY.place (.samp 5), 1), (Reg.DEV_NODE_NODE.place .dev, 9), (Reg.ADMT_BIND_LO_TEN.place (.admt 2), 2), (Reg.ADMT_CTRL_EN.place (.admt 2), 1), (Reg.QRM_STAT_IN_QUORUM.place .qrm, 1), (Reg.ADMT_MODEL_LAYERS.place (.admt 2), 1), (Reg.ADMT_MODEL_TOK_LOG2.place (.admt 2), 6), (Reg.ADMT_TEN_P_CSIZE.place (.admt 2) 1, 100), (Reg.ADMT_TEN_P_PSIZE.place (.admt 2) 1, 100), (Reg.ADMT_TEN_G_CSIZE.place (.admt 2) 1, 100), (Reg.ADMT_TEN_G_PSIZE.place (.admt 2) 1, 100), (Reg.ADMT_TEN_MAX_OPEN0.place (.admt 2) 1, 2), (Reg.DISP_ROLE_CUR.place (.disp 4), 1), (Reg.DISP_ROLE_CUR.place (.disp 5), 2), (Reg.ADMT_PAGE_LIMIT_LIMIT.place (.admt 5), 100), (Reg.ADMT_PAGE_RESV_RESV.place (.admt 5), 7), (Reg.ADMT_KV_SLOT_PAGES.place (.admt 5), 10), (Reg.ADMT_KV_SLOT_PAGES.place (.admt 4), 10), (Reg.ADMT_KV_BASE_LO_BASE_LO.place (.admt 5), 40), (Reg.SAMP_MODEL_VOCAB.place (.samp 5), 4), (Reg.SAMP_MODEL_EOS.place (.samp 5), 3), (Reg.SAMP_LBASE_LO_BASE_LO.place (.samp 5), (327680 / 2 ^ Reg.SAMP_LBASE_LO_BASE_LO.lo)), (Reg.SAMP_LSTRIDE_UNITS.place (.samp 5), 1), (Reg.ADMT_TEN_IDLE_MS.place (.admt 2) 1, 5)]) with tenants := [(1, { en := true, reqTail := 1, p := { c := 6400000000, k := 6400000000 }, g := { c := 6400000000, k := 6400000000 } })], reqs := [{ reqId := 67108873, tenant := 1, desc := BitVec.ofNat 1024 9773544505746286835858277524840310455556890218673838673281349411775283637592215990969871673599495173571064121786369, stops := [], st := .running, weir := 2, model := 0, fallback := false, promptPart := none, genPart := some 5, genSlot := 3, pass := 0, need := 1, readAt := 0, tokens := 0, outBuf := [], emitted := [], pos := 130, layers := 0, pages := 0, lastTok := 0, specEpoch := 0, adapter := none, endStatus := none }], tier := { pages := [(5, { st := .resident .basin, frame := 0, frameTier := .basin })], dirs := [(0, { valid := true, used := 1, leaf := 257 })], leaves := [(257, true)], frames := [(67108864, true)] } },
     1, 9, 2,
     { reqId := 67108873, tenant := 1, desc := BitVec.ofNat 1024 9773544505746286835858277524840310455556890218673838673281349411775283637592215990969871673599495173571064121786369, stops := [], st := .running, weir := 2, model := 0, fallback := false, promptPart := none, genPart := some 5, genSlot := 3, pass := 0, need := 1, readAt := 0, tokens := 0, outBuf := [], emitted := [], pos := 130, layers := 0, pages := 0, lastTok := 0, specEpoch := 0, adapter := none, endStatus := none },
     by decide +kernel⟩,
   ⟨{ (st [(Reg.PG_READY_READY.place .tier, 1), (Reg.PG_READY_READY.place (.bas 0), 1), (Reg.BAS_MEM_STAT_ONLINE.place (.bas 0), 1), (Reg.BAS_MEM_FRAMES_FRAMES.place (.bas 0), 786432), (Reg.PG_READY_READY.place (.admt 2), 1), (Reg.PG_READY_READY.place (.samp 5), 1), (Reg.DEV_NODE_NODE.place .dev, 9), (Reg.ADMT_BIND_LO_TEN.place (.admt 2), 2), (Reg.ADMT_CTRL_EN.place (.admt 2), 1), (Reg.QRM_STAT_IN_QUORUM.place .qrm, 1), (Reg.ADMT_MODEL_LAYERS.place (.admt 2), 1), (Reg.ADMT_MODEL_TOK_LOG2.place (.admt 2), 6), (Reg.ADMT_TEN_P_CSIZE.place (.admt 2) 1, 100), (Reg.ADMT_TEN_P_PSIZE.place (.admt 2) 1, 100), (Reg.ADMT_TEN_G_CSIZE.place (.admt 2) 1, 100), (Reg.ADMT_TEN_G_PSIZE.place (.admt 2) 1, 100), (Reg.ADMT_TEN_MAX_OPEN0.place (.admt 2) 1, 2), (Reg.DISP_ROLE_CUR.place (.disp 4), 1), (Reg.DISP_ROLE_CUR.place (.disp 5), 2), (Reg.ADMT_PAGE_LIMIT_LIMIT.place (.admt 5), 100), (Reg.ADMT_PAGE_RESV_RESV.place (.admt 5), 7), (Reg.ADMT_KV_SLOT_PAGES.place (.admt 5), 10), (Reg.ADMT_KV_SLOT_PAGES.place (.admt 4), 10), (Reg.ADMT_KV_BASE_LO_BASE_LO.place (.admt 5), 40), (Reg.SAMP_MODEL_VOCAB.place (.samp 5), 4), (Reg.SAMP_MODEL_EOS.place (.samp 5), 3), (Reg.SAMP_LBASE_LO_BASE_LO.place (.samp 5), (327680 / 2 ^ Reg.SAMP_LBASE_LO_BASE_LO.lo)), (Reg.SAMP_LSTRIDE_UNITS.place (.samp 5), 1), (Reg.ADMT_TEN_IDLE_MS.place (.admt 2) 1, 5)]) with tier := { pages := [(5, { st := .resident .basin, frame := 0, frameTier := .basin })], dirs := [(0, { valid := true, used := 1, leaf := 257 })], leaves := [(257, true)], frames := [(67108864, true)] } },
     3, 1, by decide +kernel⟩,
   ⟨{ (st [(Reg.PG_READY_READY.place .tier, 1), (Reg.PG_READY_READY.place (.bas 0), 1), (Reg.BAS_MEM_STAT_ONLINE.place (.bas 0), 1), (Reg.BAS_MEM_FRAMES_FRAMES.place (.bas 0), 786432), (Reg.PG_READY_READY.place (.admt 2), 1), (Reg.PG_READY_READY.place (.samp 5), 1), (Reg.DEV_NODE_NODE.place .dev, 9), (Reg.ADMT_BIND_LO_TEN.place (.admt 2), 2), (Reg.ADMT_CTRL_EN.place (.admt 2), 1), (Reg.QRM_STAT_IN_QUORUM.place .qrm, 1), (Reg.ADMT_MODEL_LAYERS.place (.admt 2), 1), (Reg.ADMT_MODEL_TOK_LOG2.place (.admt 2), 6), (Reg.ADMT_TEN_P_CSIZE.place (.admt 2) 1, 100), (Reg.ADMT_TEN_P_PSIZE.place (.admt 2) 1, 100), (Reg.ADMT_TEN_G_CSIZE.place (.admt 2) 1, 100), (Reg.ADMT_TEN_G_PSIZE.place (.admt 2) 1, 100), (Reg.ADMT_TEN_MAX_OPEN0.place (.admt 2) 1, 2), (Reg.DISP_ROLE_CUR.place (.disp 4), 1), (Reg.DISP_ROLE_CUR.place (.disp 5), 2), (Reg.ADMT_PAGE_LIMIT_LIMIT.place (.admt 5), 100), (Reg.ADMT_PAGE_RESV_RESV.place (.admt 5), 7), (Reg.ADMT_KV_SLOT_PAGES.place (.admt 5), 10), (Reg.ADMT_KV_SLOT_PAGES.place (.admt 4), 10), (Reg.ADMT_KV_BASE_LO_BASE_LO.place (.admt 5), 40), (Reg.SAMP_MODEL_VOCAB.place (.samp 5), 4), (Reg.SAMP_MODEL_EOS.place (.samp 5), 3), (Reg.SAMP_LBASE_LO_BASE_LO.place (.samp 5), (327680 / 2 ^ Reg.SAMP_LBASE_LO_BASE_LO.lo)), (Reg.SAMP_LSTRIDE_UNITS.place (.samp 5), 1), (Reg.ADMT_TEN_IDLE_MS.place (.admt 2) 1, 5)]) with tier := { pages := [(5, { st := .resident .basin, frame := 0, frameTier := .basin })], dirs := [(0, { valid := true, used := 1, leaf := 257 })], leaves := [(257, true)], frames := [(67108864, true)] } },
     3, 1, by decide +kernel⟩⟩

/-- The hypotheses of TenantRingsMove can be met, clause by clause. -/
theorem wit_TenantRingsMove :
    (∃ (s : State) (n : TenId) (tail : Fin 8192) (p : PartId), s.recovery = false ∧ (s.weirOf n = some p)) ∧
    (∃ (s : State) (n : TenId) (head : Nat), s.recovery = false) ∧
    (∃ (s : State) (n : TenId) (head : Nat), s.recovery = false) ∧
    (∃ (s : State) (n : TenId) (v : Word64), s.recovery = false ∧ (s.ten n).en = false) ∧
    (∃ (s : State) (n : TenId) (v : Word64), s.recovery = false ∧ (s.ten n).en = false) ∧
    (∃ (s : State) (n : TenId) (v : Word64), s.recovery = false ∧ (s.ten n).en = false) ∧
    (∃ (s : State) (n : TenId) (v : Word64), s.recovery = false ∧ (s.ten n).en = false) ∧
    (∃ (s : State) (n : TenId) (v : Word), s.recovery = false ∧ (s.ten n).en = false) ∧
    (∃ (s : State) (n : TenId) (v : Word), s.recovery = false ∧ (s.ten n).en = true) ∧
    (∃ (s : State) (n : TenId) (v : Word64), ((s.ten n).en = true ∨ s.recovery = true)) ∧
    (∃ (s : State) (n : TenId) (tail : Fin 8192) (k : Nat) (r : RingReg) (tag : Fin 67108864), s.recovery = true) ∧
    (∃ (s : State) (n : TenId) (c : CplRec) (rest : List CplRec), (s.ten n).waiting = c :: rest ∧ (s.ten n).en = true
      ∧ ringUsed (s.ten n).cplLog2 (s.ten n).cplHead (s.ten n).cplTail < 2 ^ (s.ten n).cplLog2 ∧ c.final = false ∧
      (c.notice = false ∨ (∀ u ∈ s.reqs, u.st ≠ .deferred))) ∧
    (∃ (s : State) (n : TenId) (c : CplRec) (rest : List CplRec) (r : Req), (s.ten n).waiting = c :: rest ∧ (s.ten
      n).en = true ∧ ringUsed (s.ten n).cplLog2 (s.ten n).cplHead (s.ten n).cplTail < 2 ^ (s.ten n).cplLog2 ∧ c.final
      = true ∧ (rest.any (fun e => e.final && e.reqId == c.reqId) = false) ∧ (s.req c.reqId = some r) ∧ r.recorded =
      true ∧ r.adapter = none ∧ (∀ u ∈ s.reqs, u.st ≠ .deferred)) ∧
    (∃ (s : State) (n : TenId), ((s.ten n).waiting = [] ∨ (s.ten n).en = false ∨ 2 ^ (s.ten n).cplLog2 ≤ ringUsed
      (s.ten n).cplLog2 (s.ten n).cplHead (s.ten n).cplTail)) ∧
    (∃ (s : State) (n : TenId), (s.ten n).modPend = true ∧ (s.ten n).modUntil ≤ s.now) ∧
    (∃ (s : State) (n : TenId), ((s.ten n).modPend = false ∨ s.now < (s.ten n).modUntil)) ∧
    (∃ (s : State) (n : TenId), (∀ q ∈ allParts, ∀ e ∈ (s.mover q).ctxs, e.2.state = 0 ∨ 3 < e.2.state) ∧ (∀ r ∈
      s.reqs, r.tenant = n → r.st ≠ .deferred ∧ r.adapter = none)) :=
  ⟨⟨{ (st [(Reg.PG_READY_READY.place .tier, 1), (Reg.PG_READY_READY.place (.bas 0), 1), (Reg.BAS_MEM_STAT_ONLINE.place (.bas 0), 1), (Reg.BAS_MEM_FRAMES_FRAMES.place (.bas 0), 786432), (Reg.PG_READY_READY.place (.admt 2), 1), (Reg.PG_READY_READY.place (.samp 5), 1), (Reg.DEV_NODE_NODE.place .dev, 9), (Reg.ADMT_BIND_LO_TEN.place (.admt 2), 2), (Reg.ADMT_CTRL_EN.place (.admt 2), 1), (Reg.QRM_STAT_IN_QUORUM.place .qrm, 1), (Reg.ADMT_MODEL_LAYERS.place (.admt 2), 1), (Reg.ADMT_MODEL_TOK_LOG2.place (.admt 2), 6), (Reg.ADMT_TEN_P_CSIZE.place (.admt 2) 1, 100), (Reg.ADMT_TEN_P_PSIZE.place (.admt 2) 1, 100), (Reg.ADMT_TEN_G_CSIZE.place (.admt 2) 1, 100), (Reg.ADMT_TEN_G_PSIZE.place (.admt 2) 1, 100), (Reg.ADMT_TEN_MAX_OPEN0.place (.admt 2) 1, 2), (Reg.DISP_ROLE_CUR.place (.disp 4), 1), (Reg.DISP_ROLE_CUR.place (.disp 5), 2), (Reg.ADMT_PAGE_LIMIT_LIMIT.place (.admt 5), 100), (Reg.ADMT_PAGE_RESV_RESV.place (.admt 5), 7), (Reg.ADMT_KV_SLOT_PAGES.place (.admt 5), 10), (Reg.ADMT_KV_SLOT_PAGES.place (.admt 4), 10), (Reg.ADMT_KV_BASE_LO_BASE_LO.place (.admt 5), 40), (Reg.SAMP_MODEL_VOCAB.place (.samp 5), 4), (Reg.SAMP_MODEL_EOS.place (.samp 5), 3), (Reg.SAMP_LBASE_LO_BASE_LO.place (.samp 5), (327680 / 2 ^ Reg.SAMP_LBASE_LO_BASE_LO.lo)), (Reg.SAMP_LSTRIDE_UNITS.place (.samp 5), 1), (Reg.ADMT_TEN_IDLE_MS.place (.admt 2) 1, 5)]) with tenants := [(1, { en := true, reqTail := 1, p := { c := 6400000000, k := 6400000000 }, g := { c := 6400000000, k := 6400000000 } })], tier := { pages := [(5, { st := .resident .basin, frame := 0, frameTier := .basin })], dirs := [(0, { valid := true, used := 1, leaf := 257 })], leaves := [(257, true)], frames := [(67108864, true)] } },
     1, 33, 2, by decide +kernel⟩,
   ⟨{ (st [(Reg.PG_READY_READY.place .tier, 1), (Reg.PG_READY_READY.place (.bas 0), 1), (Reg.BAS_MEM_STAT_ONLINE.place (.bas 0), 1), (Reg.BAS_MEM_FRAMES_FRAMES.place (.bas 0), 786432), (Reg.PG_READY_READY.place (.admt 2), 1), (Reg.PG_READY_READY.place (.samp 5), 1), (Reg.DEV_NODE_NODE.place .dev, 9), (Reg.ADMT_BIND_LO_TEN.place (.admt 2), 2), (Reg.ADMT_CTRL_EN.place (.admt 2), 1), (Reg.QRM_STAT_IN_QUORUM.place .qrm, 1), (Reg.ADMT_MODEL_LAYERS.place (.admt 2), 1), (Reg.ADMT_MODEL_TOK_LOG2.place (.admt 2), 6), (Reg.ADMT_TEN_P_CSIZE.place (.admt 2) 1, 100), (Reg.ADMT_TEN_P_PSIZE.place (.admt 2) 1, 100), (Reg.ADMT_TEN_G_CSIZE.place (.admt 2) 1, 100), (Reg.ADMT_TEN_G_PSIZE.place (.admt 2) 1, 100), (Reg.ADMT_TEN_MAX_OPEN0.place (.admt 2) 1, 2), (Reg.DISP_ROLE_CUR.place (.disp 4), 1), (Reg.DISP_ROLE_CUR.place (.disp 5), 2), (Reg.ADMT_PAGE_LIMIT_LIMIT.place (.admt 5), 100), (Reg.ADMT_PAGE_RESV_RESV.place (.admt 5), 7), (Reg.ADMT_KV_SLOT_PAGES.place (.admt 5), 10), (Reg.ADMT_KV_SLOT_PAGES.place (.admt 4), 10), (Reg.ADMT_KV_BASE_LO_BASE_LO.place (.admt 5), 40), (Reg.SAMP_MODEL_VOCAB.place (.samp 5), 4), (Reg.SAMP_MODEL_EOS.place (.samp 5), 3), (Reg.SAMP_LBASE_LO_BASE_LO.place (.samp 5), (327680 / 2 ^ Reg.SAMP_LBASE_LO_BASE_LO.lo)), (Reg.SAMP_LSTRIDE_UNITS.place (.samp 5), 1), (Reg.ADMT_TEN_IDLE_MS.place (.admt 2) 1, 5)]) with tenants := [(1, { en := true, reqTail := 1, p := { c := 6400000000, k := 6400000000 }, g := { c := 6400000000, k := 6400000000 } })], tier := { pages := [(5, { st := .resident .basin, frame := 0, frameTier := .basin })], dirs := [(0, { valid := true, used := 1, leaf := 257 })], leaves := [(257, true)], frames := [(67108864, true)] } },
     1, 129, by decide +kernel⟩,
   ⟨{ (st [(Reg.PG_READY_READY.place .tier, 1), (Reg.PG_READY_READY.place (.bas 0), 1), (Reg.BAS_MEM_STAT_ONLINE.place (.bas 0), 1), (Reg.BAS_MEM_FRAMES_FRAMES.place (.bas 0), 786432), (Reg.PG_READY_READY.place (.admt 2), 1), (Reg.PG_READY_READY.place (.samp 5), 1), (Reg.DEV_NODE_NODE.place .dev, 9), (Reg.ADMT_BIND_LO_TEN.place (.admt 2), 2), (Reg.ADMT_CTRL_EN.place (.admt 2), 1), (Reg.QRM_STAT_IN_QUORUM.place .qrm, 1), (Reg.ADMT_MODEL_LAYERS.place (.admt 2), 1), (Reg.ADMT_MODEL_TOK_LOG2.place (.admt 2), 6), (Reg.ADMT_TEN_P_CSIZE.place (.admt 2) 1, 100), (Reg.ADMT_TEN_P_PSIZE.place (.admt 2) 1, 100), (Reg.ADMT_TEN_G_CSIZE.place (.admt 2) 1, 100), (Reg.ADMT_TEN_G_PSIZE.place (.admt 2) 1, 100), (Reg.ADMT_TEN_MAX_OPEN0.place (.admt 2) 1, 2), (Reg.DISP_ROLE_CUR.place (.disp 4), 1), (Reg.DISP_ROLE_CUR.place (.disp 5), 2), (Reg.ADMT_PAGE_LIMIT_LIMIT.place (.admt 5), 100), (Reg.ADMT_PAGE_RESV_RESV.place (.admt 5), 7), (Reg.ADMT_KV_SLOT_PAGES.place (.admt 5), 10), (Reg.ADMT_KV_SLOT_PAGES.place (.admt 4), 10), (Reg.ADMT_KV_BASE_LO_BASE_LO.place (.admt 5), 40), (Reg.SAMP_MODEL_VOCAB.place (.samp 5), 4), (Reg.SAMP_MODEL_EOS.place (.samp 5), 3), (Reg.SAMP_LBASE_LO_BASE_LO.place (.samp 5), (327680 / 2 ^ Reg.SAMP_LBASE_LO_BASE_LO.lo)), (Reg.SAMP_LSTRIDE_UNITS.place (.samp 5), 1), (Reg.ADMT_TEN_IDLE_MS.place (.admt 2) 1, 5)]) with tenants := [(1, { en := true, reqTail := 1, p := { c := 6400000000, k := 6400000000 }, g := { c := 6400000000, k := 6400000000 } })], tier := { pages := [(5, { st := .resident .basin, frame := 0, frameTier := .basin })], dirs := [(0, { valid := true, used := 1, leaf := 257 })], leaves := [(257, true)], frames := [(67108864, true)] } },
     1, 33, by decide +kernel⟩,
   ⟨{ (st [(Reg.PG_READY_READY.place .tier, 1), (Reg.PG_READY_READY.place (.bas 0), 1), (Reg.BAS_MEM_STAT_ONLINE.place (.bas 0), 1), (Reg.BAS_MEM_FRAMES_FRAMES.place (.bas 0), 786432), (Reg.PG_READY_READY.place (.admt 2), 1), (Reg.PG_READY_READY.place (.samp 5), 1), (Reg.DEV_NODE_NODE.place .dev, 9), (Reg.ADMT_BIND_LO_TEN.place (.admt 2), 2), (Reg.ADMT_CTRL_EN.place (.admt 2), 1), (Reg.QRM_STAT_IN_QUORUM.place .qrm, 1), (Reg.ADMT_MODEL_LAYERS.place (.admt 2), 1), (Reg.ADMT_MODEL_TOK_LOG2.place (.admt 2), 6), (Reg.ADMT_TEN_P_CSIZE.place (.admt 2) 1, 100), (Reg.ADMT_TEN_P_PSIZE.place (.admt 2) 1, 100), (Reg.ADMT_TEN_G_CSIZE.place (.admt 2) 1, 100), (Reg.ADMT_TEN_G_PSIZE.place (.admt 2) 1, 100), (Reg.ADMT_TEN_MAX_OPEN0.place (.admt 2) 1, 2), (Reg.DISP_ROLE_CUR.place (.disp 4), 1), (Reg.DISP_ROLE_CUR.place (.disp 5), 2), (Reg.ADMT_PAGE_LIMIT_LIMIT.place (.admt 5), 100), (Reg.ADMT_PAGE_RESV_RESV.place (.admt 5), 7), (Reg.ADMT_KV_SLOT_PAGES.place (.admt 5), 10), (Reg.ADMT_KV_SLOT_PAGES.place (.admt 4), 10), (Reg.ADMT_KV_BASE_LO_BASE_LO.place (.admt 5), 40), (Reg.SAMP_MODEL_VOCAB.place (.samp 5), 4), (Reg.SAMP_MODEL_EOS.place (.samp 5), 3), (Reg.SAMP_LBASE_LO_BASE_LO.place (.samp 5), (327680 / 2 ^ Reg.SAMP_LBASE_LO_BASE_LO.lo)), (Reg.SAMP_LSTRIDE_UNITS.place (.samp 5), 1), (Reg.ADMT_TEN_IDLE_MS.place (.admt 2) 1, 5)]) with tenants := [(1, { en := false, reqTail := 1, p := { c := 6400000000, k := 6400000000 }, g := { c := 6400000000, k := 6400000000 } })], tier := { pages := [(5, { st := .resident .basin, frame := 0, frameTier := .basin })], dirs := [(0, { valid := true, used := 1, leaf := 257 })], leaves := [(257, true)], frames := [(67108864, true)] } },
     1, 0x12345, by decide +kernel⟩,
   ⟨{ (st [(Reg.PG_READY_READY.place .tier, 1), (Reg.PG_READY_READY.place (.bas 0), 1), (Reg.BAS_MEM_STAT_ONLINE.place (.bas 0), 1), (Reg.BAS_MEM_FRAMES_FRAMES.place (.bas 0), 786432), (Reg.PG_READY_READY.place (.admt 2), 1), (Reg.PG_READY_READY.place (.samp 5), 1), (Reg.DEV_NODE_NODE.place .dev, 9), (Reg.ADMT_BIND_LO_TEN.place (.admt 2), 2), (Reg.ADMT_CTRL_EN.place (.admt 2), 1), (Reg.QRM_STAT_IN_QUORUM.place .qrm, 1), (Reg.ADMT_MODEL_LAYERS.place (.admt 2), 1), (Reg.ADMT_MODEL_TOK_LOG2.place (.admt 2), 6), (Reg.ADMT_TEN_P_CSIZE.place (.admt 2) 1, 100), (Reg.ADMT_TEN_P_PSIZE.place (.admt 2) 1, 100), (Reg.ADMT_TEN_G_CSIZE.place (.admt 2) 1, 100), (Reg.ADMT_TEN_G_PSIZE.place (.admt 2) 1, 100), (Reg.ADMT_TEN_MAX_OPEN0.place (.admt 2) 1, 2), (Reg.DISP_ROLE_CUR.place (.disp 4), 1), (Reg.DISP_ROLE_CUR.place (.disp 5), 2), (Reg.ADMT_PAGE_LIMIT_LIMIT.place (.admt 5), 100), (Reg.ADMT_PAGE_RESV_RESV.place (.admt 5), 7), (Reg.ADMT_KV_SLOT_PAGES.place (.admt 5), 10), (Reg.ADMT_KV_SLOT_PAGES.place (.admt 4), 10), (Reg.ADMT_KV_BASE_LO_BASE_LO.place (.admt 5), 40), (Reg.SAMP_MODEL_VOCAB.place (.samp 5), 4), (Reg.SAMP_MODEL_EOS.place (.samp 5), 3), (Reg.SAMP_LBASE_LO_BASE_LO.place (.samp 5), (327680 / 2 ^ Reg.SAMP_LBASE_LO_BASE_LO.lo)), (Reg.SAMP_LSTRIDE_UNITS.place (.samp 5), 1), (Reg.ADMT_TEN_IDLE_MS.place (.admt 2) 1, 5)]) with tenants := [(1, { en := false, reqTail := 1, p := { c := 6400000000, k := 6400000000 }, g := { c := 6400000000, k := 6400000000 } })], tier := { pages := [(5, { st := .resident .basin, frame := 0, frameTier := .basin })], dirs := [(0, { valid := true, used := 1, leaf := 257 })], leaves := [(257, true)], frames := [(67108864, true)] } },
     1, 0x12345, by decide +kernel⟩,
   ⟨{ (st [(Reg.PG_READY_READY.place .tier, 1), (Reg.PG_READY_READY.place (.bas 0), 1), (Reg.BAS_MEM_STAT_ONLINE.place (.bas 0), 1), (Reg.BAS_MEM_FRAMES_FRAMES.place (.bas 0), 786432), (Reg.PG_READY_READY.place (.admt 2), 1), (Reg.PG_READY_READY.place (.samp 5), 1), (Reg.DEV_NODE_NODE.place .dev, 9), (Reg.ADMT_BIND_LO_TEN.place (.admt 2), 2), (Reg.ADMT_CTRL_EN.place (.admt 2), 1), (Reg.QRM_STAT_IN_QUORUM.place .qrm, 1), (Reg.ADMT_MODEL_LAYERS.place (.admt 2), 1), (Reg.ADMT_MODEL_TOK_LOG2.place (.admt 2), 6), (Reg.ADMT_TEN_P_CSIZE.place (.admt 2) 1, 100), (Reg.ADMT_TEN_P_PSIZE.place (.admt 2) 1, 100), (Reg.ADMT_TEN_G_CSIZE.place (.admt 2) 1, 100), (Reg.ADMT_TEN_G_PSIZE.place (.admt 2) 1, 100), (Reg.ADMT_TEN_MAX_OPEN0.place (.admt 2) 1, 2), (Reg.DISP_ROLE_CUR.place (.disp 4), 1), (Reg.DISP_ROLE_CUR.place (.disp 5), 2), (Reg.ADMT_PAGE_LIMIT_LIMIT.place (.admt 5), 100), (Reg.ADMT_PAGE_RESV_RESV.place (.admt 5), 7), (Reg.ADMT_KV_SLOT_PAGES.place (.admt 5), 10), (Reg.ADMT_KV_SLOT_PAGES.place (.admt 4), 10), (Reg.ADMT_KV_BASE_LO_BASE_LO.place (.admt 5), 40), (Reg.SAMP_MODEL_VOCAB.place (.samp 5), 4), (Reg.SAMP_MODEL_EOS.place (.samp 5), 3), (Reg.SAMP_LBASE_LO_BASE_LO.place (.samp 5), (327680 / 2 ^ Reg.SAMP_LBASE_LO_BASE_LO.lo)), (Reg.SAMP_LSTRIDE_UNITS.place (.samp 5), 1), (Reg.ADMT_TEN_IDLE_MS.place (.admt 2) 1, 5)]) with tenants := [(1, { en := false, reqTail := 1, p := { c := 6400000000, k := 6400000000 }, g := { c := 6400000000, k := 6400000000 } })], tier := { pages := [(5, { st := .resident .basin, frame := 0, frameTier := .basin })], dirs := [(0, { valid := true, used := 1, leaf := 257 })], leaves := [(257, true)], frames := [(67108864, true)] } },
     1, 0x12345, by decide +kernel⟩,
   ⟨{ (st [(Reg.PG_READY_READY.place .tier, 1), (Reg.PG_READY_READY.place (.bas 0), 1), (Reg.BAS_MEM_STAT_ONLINE.place (.bas 0), 1), (Reg.BAS_MEM_FRAMES_FRAMES.place (.bas 0), 786432), (Reg.PG_READY_READY.place (.admt 2), 1), (Reg.PG_READY_READY.place (.samp 5), 1), (Reg.DEV_NODE_NODE.place .dev, 9), (Reg.ADMT_BIND_LO_TEN.place (.admt 2), 2), (Reg.ADMT_CTRL_EN.place (.admt 2), 1), (Reg.QRM_STAT_IN_QUORUM.place .qrm, 1), (Reg.ADMT_MODEL_LAYERS.place (.admt 2), 1), (Reg.ADMT_MODEL_TOK_LOG2.place (.admt 2), 6), (Reg.ADMT_TEN_P_CSIZE.place (.admt 2) 1, 100), (Reg.ADMT_TEN_P_PSIZE.place (.admt 2) 1, 100), (Reg.ADMT_TEN_G_CSIZE.place (.admt 2) 1, 100), (Reg.ADMT_TEN_G_PSIZE.place (.admt 2) 1, 100), (Reg.ADMT_TEN_MAX_OPEN0.place (.admt 2) 1, 2), (Reg.DISP_ROLE_CUR.place (.disp 4), 1), (Reg.DISP_ROLE_CUR.place (.disp 5), 2), (Reg.ADMT_PAGE_LIMIT_LIMIT.place (.admt 5), 100), (Reg.ADMT_PAGE_RESV_RESV.place (.admt 5), 7), (Reg.ADMT_KV_SLOT_PAGES.place (.admt 5), 10), (Reg.ADMT_KV_SLOT_PAGES.place (.admt 4), 10), (Reg.ADMT_KV_BASE_LO_BASE_LO.place (.admt 5), 40), (Reg.SAMP_MODEL_VOCAB.place (.samp 5), 4), (Reg.SAMP_MODEL_EOS.place (.samp 5), 3), (Reg.SAMP_LBASE_LO_BASE_LO.place (.samp 5), (327680 / 2 ^ Reg.SAMP_LBASE_LO_BASE_LO.lo)), (Reg.SAMP_LSTRIDE_UNITS.place (.samp 5), 1), (Reg.ADMT_TEN_IDLE_MS.place (.admt 2) 1, 5)]) with tenants := [(1, { en := false, reqTail := 1, p := { c := 6400000000, k := 6400000000 }, g := { c := 6400000000, k := 6400000000 } })], tier := { pages := [(5, { st := .resident .basin, frame := 0, frameTier := .basin })], dirs := [(0, { valid := true, used := 1, leaf := 257 })], leaves := [(257, true)], frames := [(67108864, true)] } },
     1, 0x12345, by decide +kernel⟩,
   ⟨{ (st [(Reg.PG_READY_READY.place .tier, 1), (Reg.PG_READY_READY.place (.bas 0), 1), (Reg.BAS_MEM_STAT_ONLINE.place (.bas 0), 1), (Reg.BAS_MEM_FRAMES_FRAMES.place (.bas 0), 786432), (Reg.PG_READY_READY.place (.admt 2), 1), (Reg.PG_READY_READY.place (.samp 5), 1), (Reg.DEV_NODE_NODE.place .dev, 9), (Reg.ADMT_BIND_LO_TEN.place (.admt 2), 2), (Reg.ADMT_CTRL_EN.place (.admt 2), 1), (Reg.QRM_STAT_IN_QUORUM.place .qrm, 1), (Reg.ADMT_MODEL_LAYERS.place (.admt 2), 1), (Reg.ADMT_MODEL_TOK_LOG2.place (.admt 2), 6), (Reg.ADMT_TEN_P_CSIZE.place (.admt 2) 1, 100), (Reg.ADMT_TEN_P_PSIZE.place (.admt 2) 1, 100), (Reg.ADMT_TEN_G_CSIZE.place (.admt 2) 1, 100), (Reg.ADMT_TEN_G_PSIZE.place (.admt 2) 1, 100), (Reg.ADMT_TEN_MAX_OPEN0.place (.admt 2) 1, 2), (Reg.DISP_ROLE_CUR.place (.disp 4), 1), (Reg.DISP_ROLE_CUR.place (.disp 5), 2), (Reg.ADMT_PAGE_LIMIT_LIMIT.place (.admt 5), 100), (Reg.ADMT_PAGE_RESV_RESV.place (.admt 5), 7), (Reg.ADMT_KV_SLOT_PAGES.place (.admt 5), 10), (Reg.ADMT_KV_SLOT_PAGES.place (.admt 4), 10), (Reg.ADMT_KV_BASE_LO_BASE_LO.place (.admt 5), 40), (Reg.SAMP_MODEL_VOCAB.place (.samp 5), 4), (Reg.SAMP_MODEL_EOS.place (.samp 5), 3), (Reg.SAMP_LBASE_LO_BASE_LO.place (.samp 5), (327680 / 2 ^ Reg.SAMP_LBASE_LO_BASE_LO.lo)), (Reg.SAMP_LSTRIDE_UNITS.place (.samp 5), 1), (Reg.ADMT_TEN_IDLE_MS.place (.admt 2) 1, 5)]) with tenants := [(1, { en := false, reqTail := 1, p := { c := 6400000000, k := 6400000000 }, g := { c := 6400000000, k := 6400000000 } })], tier := { pages := [(5, { st := .resident .basin, frame := 0, frameTier := .basin })], dirs := [(0, { valid := true, used := 1, leaf := 257 })], leaves := [(257, true)], frames := [(67108864, true)] } },
     1, 0x80050706, by decide +kernel⟩,
   ⟨{ (st [(Reg.PG_READY_READY.place .tier, 1), (Reg.PG_READY_READY.place (.bas 0), 1), (Reg.BAS_MEM_STAT_ONLINE.place (.bas 0), 1), (Reg.BAS_MEM_FRAMES_FRAMES.place (.bas 0), 786432), (Reg.PG_READY_READY.place (.admt 2), 1), (Reg.PG_READY_READY.place (.samp 5), 1), (Reg.DEV_NODE_NODE.place .dev, 9), (Reg.ADMT_BIND_LO_TEN.place (.admt 2), 2), (Reg.ADMT_CTRL_EN.place (.admt 2), 1), (Reg.QRM_STAT_IN_QUORUM.place .qrm, 1), (Reg.ADMT_MODEL_LAYERS.place (.admt 2), 1), (Reg.ADMT_MODEL_TOK_LOG2.place (.admt 2), 6), (Reg.ADMT_TEN_P_CSIZE.place (.admt 2) 1, 100), (Reg.ADMT_TEN_P_PSIZE.place (.admt 2) 1, 100), (Reg.ADMT_TEN_G_CSIZE.place (.admt 2) 1, 100), (Reg.ADMT_TEN_G_PSIZE.place (.admt 2) 1, 100), (Reg.ADMT_TEN_MAX_OPEN0.place (.admt 2) 1, 2), (Reg.DISP_ROLE_CUR.place (.disp 4), 1), (Reg.DISP_ROLE_CUR.place (.disp 5), 2), (Reg.ADMT_PAGE_LIMIT_LIMIT.place (.admt 5), 100), (Reg.ADMT_PAGE_RESV_RESV.place (.admt 5), 7), (Reg.ADMT_KV_SLOT_PAGES.place (.admt 5), 10), (Reg.ADMT_KV_SLOT_PAGES.place (.admt 4), 10), (Reg.ADMT_KV_BASE_LO_BASE_LO.place (.admt 5), 40), (Reg.SAMP_MODEL_VOCAB.place (.samp 5), 4), (Reg.SAMP_MODEL_EOS.place (.samp 5), 3), (Reg.SAMP_LBASE_LO_BASE_LO.place (.samp 5), (327680 / 2 ^ Reg.SAMP_LBASE_LO_BASE_LO.lo)), (Reg.SAMP_LSTRIDE_UNITS.place (.samp 5), 1), (Reg.ADMT_TEN_IDLE_MS.place (.admt 2) 1, 5)]) with tenants := [(1, { en := true, reqTail := 1, p := { c := 6400000000, k := 6400000000 }, g := { c := 6400000000, k := 6400000000 } })], tier := { pages := [(5, { st := .resident .basin, frame := 0, frameTier := .basin })], dirs := [(0, { valid := true, used := 1, leaf := 257 })], leaves := [(257, true)], frames := [(67108864, true)] } },
     1, 0x00050706, by decide +kernel⟩,
   ⟨{ (st [(Reg.PG_READY_READY.place .tier, 1), (Reg.PG_READY_READY.place (.bas 0), 1), (Reg.BAS_MEM_STAT_ONLINE.place (.bas 0), 1), (Reg.BAS_MEM_FRAMES_FRAMES.place (.bas 0), 786432), (Reg.PG_READY_READY.place (.admt 2), 1), (Reg.PG_READY_READY.place (.samp 5), 1), (Reg.DEV_NODE_NODE.place .dev, 9), (Reg.ADMT_BIND_LO_TEN.place (.admt 2), 2), (Reg.ADMT_CTRL_EN.place (.admt 2), 1), (Reg.QRM_STAT_IN_QUORUM.place .qrm, 1), (Reg.ADMT_MODEL_LAYERS.place (.admt 2), 1), (Reg.ADMT_MODEL_TOK_LOG2.place (.admt 2), 6), (Reg.ADMT_TEN_P_CSIZE.place (.admt 2) 1, 100), (Reg.ADMT_TEN_P_PSIZE.place (.admt 2) 1, 100), (Reg.ADMT_TEN_G_CSIZE.place (.admt 2) 1, 100), (Reg.ADMT_TEN_G_PSIZE.place (.admt 2) 1, 100), (Reg.ADMT_TEN_MAX_OPEN0.place (.admt 2) 1, 2), (Reg.DISP_ROLE_CUR.place (.disp 4), 1), (Reg.DISP_ROLE_CUR.place (.disp 5), 2), (Reg.ADMT_PAGE_LIMIT_LIMIT.place (.admt 5), 100), (Reg.ADMT_PAGE_RESV_RESV.place (.admt 5), 7), (Reg.ADMT_KV_SLOT_PAGES.place (.admt 5), 10), (Reg.ADMT_KV_SLOT_PAGES.place (.admt 4), 10), (Reg.ADMT_KV_BASE_LO_BASE_LO.place (.admt 5), 40), (Reg.SAMP_MODEL_VOCAB.place (.samp 5), 4), (Reg.SAMP_MODEL_EOS.place (.samp 5), 3), (Reg.SAMP_LBASE_LO_BASE_LO.place (.samp 5), (327680 / 2 ^ Reg.SAMP_LBASE_LO_BASE_LO.lo)), (Reg.SAMP_LSTRIDE_UNITS.place (.samp 5), 1), (Reg.ADMT_TEN_IDLE_MS.place (.admt 2) 1, 5)]) with tenants := [(1, { en := true, reqTail := 1, p := { c := 6400000000, k := 6400000000 }, g := { c := 6400000000, k := 6400000000 } })], tier := { pages := [(5, { st := .resident .basin, frame := 0, frameTier := .basin })], dirs := [(0, { valid := true, used := 1, leaf := 257 })], leaves := [(257, true)], frames := [(67108864, true)] } },
     1, 1, by decide +kernel⟩,
   ⟨{ (st [(Reg.PG_READY_READY.place .tier, 1), (Reg.PG_READY_READY.place (.bas 0), 1), (Reg.BAS_MEM_STAT_ONLINE.place (.bas 0), 1), (Reg.BAS_MEM_FRAMES_FRAMES.place (.bas 0), 786432), (Reg.PG_READY_READY.place (.admt 2), 1), (Reg.PG_READY_READY.place (.samp 5), 1), (Reg.DEV_NODE_NODE.place .dev, 9), (Reg.ADMT_BIND_LO_TEN.place (.admt 2), 2), (Reg.ADMT_CTRL_EN.place (.admt 2), 1), (Reg.QRM_STAT_IN_QUORUM.place .qrm, 1), (Reg.ADMT_MODEL_LAYERS.place (.admt 2), 1), (Reg.ADMT_MODEL_TOK_LOG2.place (.admt 2), 6), (Reg.ADMT_TEN_P_CSIZE.place (.admt 2) 1, 100), (Reg.ADMT_TEN_P_PSIZE.place (.admt 2) 1, 100), (Reg.ADMT_TEN_G_CSIZE.place (.admt 2) 1, 100), (Reg.ADMT_TEN_G_PSIZE.place (.admt 2) 1, 100), (Reg.ADMT_TEN_MAX_OPEN0.place (.admt 2) 1, 2), (Reg.DISP_ROLE_CUR.place (.disp 4), 1), (Reg.DISP_ROLE_CUR.place (.disp 5), 2), (Reg.ADMT_PAGE_LIMIT_LIMIT.place (.admt 5), 100), (Reg.ADMT_PAGE_RESV_RESV.place (.admt 5), 7), (Reg.ADMT_KV_SLOT_PAGES.place (.admt 5), 10), (Reg.ADMT_KV_SLOT_PAGES.place (.admt 4), 10), (Reg.ADMT_KV_BASE_LO_BASE_LO.place (.admt 5), 40), (Reg.SAMP_MODEL_VOCAB.place (.samp 5), 4), (Reg.SAMP_MODEL_EOS.place (.samp 5), 3), (Reg.SAMP_LBASE_LO_BASE_LO.place (.samp 5), (327680 / 2 ^ Reg.SAMP_LBASE_LO_BASE_LO.lo)), (Reg.SAMP_LSTRIDE_UNITS.place (.samp 5), 1), (Reg.ADMT_TEN_IDLE_MS.place (.admt 2) 1, 5), (Reg.WLH_STAT_RECOVERY.place .wlh, 1)]) with tenants := [(1, { en := true, reqTail := 1, p := { c := 6400000000, k := 6400000000 }, g := { c := 6400000000, k := 6400000000 } })], tier := { pages := [(5, { st := .resident .basin, frame := 0, frameTier := .basin })], dirs := [(0, { valid := true, used := 1, leaf := 257 })], leaves := [(257, true)], frames := [(67108864, true)] } },
     1, 1, 2, .ringCfg 5, 1, by decide +kernel⟩,
   ⟨{ (st [(Reg.PG_READY_READY.place .tier, 1), (Reg.PG_READY_READY.place (.bas 0), 1), (Reg.BAS_MEM_STAT_ONLINE.place (.bas 0), 1), (Reg.BAS_MEM_FRAMES_FRAMES.place (.bas 0), 786432), (Reg.PG_READY_READY.place (.admt 2), 1), (Reg.PG_READY_READY.place (.samp 5), 1), (Reg.DEV_NODE_NODE.place .dev, 9), (Reg.ADMT_BIND_LO_TEN.place (.admt 2), 2), (Reg.ADMT_CTRL_EN.place (.admt 2), 1), (Reg.QRM_STAT_IN_QUORUM.place .qrm, 1), (Reg.ADMT_MODEL_LAYERS.place (.admt 2), 1), (Reg.ADMT_MODEL_TOK_LOG2.place (.admt 2), 6), (Reg.ADMT_TEN_P_CSIZE.place (.admt 2) 1, 100), (Reg.ADMT_TEN_P_PSIZE.place (.admt 2) 1, 100), (Reg.ADMT_TEN_G_CSIZE.place (.admt 2) 1, 100), (Reg.ADMT_TEN_G_PSIZE.place (.admt 2) 1, 100), (Reg.ADMT_TEN_MAX_OPEN0.place (.admt 2) 1, 2), (Reg.DISP_ROLE_CUR.place (.disp 4), 1), (Reg.DISP_ROLE_CUR.place (.disp 5), 2), (Reg.ADMT_PAGE_LIMIT_LIMIT.place (.admt 5), 100), (Reg.ADMT_PAGE_RESV_RESV.place (.admt 5), 7), (Reg.ADMT_KV_SLOT_PAGES.place (.admt 5), 10), (Reg.ADMT_KV_SLOT_PAGES.place (.admt 4), 10), (Reg.ADMT_KV_BASE_LO_BASE_LO.place (.admt 5), 40), (Reg.SAMP_MODEL_VOCAB.place (.samp 5), 4), (Reg.SAMP_MODEL_EOS.place (.samp 5), 3), (Reg.SAMP_LBASE_LO_BASE_LO.place (.samp 5), (327680 / 2 ^ Reg.SAMP_LBASE_LO_BASE_LO.lo)), (Reg.SAMP_LSTRIDE_UNITS.place (.samp 5), 1), (Reg.ADMT_TEN_IDLE_MS.place (.admt 2) 1, 5)]) with tenants := [(1, { en := true, reqTail := 1, p := { c := 6400000000, k := 6400000000 }, g := { c := 6400000000, k := 6400000000 }, waiting := [{ reqId := 67108873, convId := 7, status := 0, final := false, notice := false, handle := false, fallback := false, detail := 0, tokens := 5, pages := 2, layers := 1, qpos := 0, whenNs := 0 }], cplBase := 4096, cplTail := 17, cplHead := 3 })], tier := { pages := [(5, { st := .resident .basin, frame := 0, frameTier := .basin })], dirs := [(0, { valid := true, used := 1, leaf := 257 })], leaves := [(257, true)], frames := [(67108864, true)] } },
     1,
     { reqId := 67108873, convId := 7, status := 0, final := false, notice := false, handle := false, fallback := false, detail := 0, tokens := 5, pages := 2, layers := 1, qpos := 0, whenNs := 0 },
     [], by decide +kernel⟩,
   ⟨{ (st [(Reg.PG_READY_READY.place .tier, 1), (Reg.PG_READY_READY.place (.bas 0), 1), (Reg.BAS_MEM_STAT_ONLINE.place (.bas 0), 1), (Reg.BAS_MEM_FRAMES_FRAMES.place (.bas 0), 786432), (Reg.PG_READY_READY.place (.admt 2), 1), (Reg.PG_READY_READY.place (.samp 5), 1), (Reg.DEV_NODE_NODE.place .dev, 9), (Reg.ADMT_BIND_LO_TEN.place (.admt 2), 2), (Reg.ADMT_CTRL_EN.place (.admt 2), 1), (Reg.QRM_STAT_IN_QUORUM.place .qrm, 1), (Reg.ADMT_MODEL_LAYERS.place (.admt 2), 1), (Reg.ADMT_MODEL_TOK_LOG2.place (.admt 2), 6), (Reg.ADMT_TEN_P_CSIZE.place (.admt 2) 1, 100), (Reg.ADMT_TEN_P_PSIZE.place (.admt 2) 1, 100), (Reg.ADMT_TEN_G_CSIZE.place (.admt 2) 1, 100), (Reg.ADMT_TEN_G_PSIZE.place (.admt 2) 1, 100), (Reg.ADMT_TEN_MAX_OPEN0.place (.admt 2) 1, 2), (Reg.DISP_ROLE_CUR.place (.disp 4), 1), (Reg.DISP_ROLE_CUR.place (.disp 5), 2), (Reg.ADMT_PAGE_LIMIT_LIMIT.place (.admt 5), 100), (Reg.ADMT_PAGE_RESV_RESV.place (.admt 5), 7), (Reg.ADMT_KV_SLOT_PAGES.place (.admt 5), 10), (Reg.ADMT_KV_SLOT_PAGES.place (.admt 4), 10), (Reg.ADMT_KV_BASE_LO_BASE_LO.place (.admt 5), 40), (Reg.SAMP_MODEL_VOCAB.place (.samp 5), 4), (Reg.SAMP_MODEL_EOS.place (.samp 5), 3), (Reg.SAMP_LBASE_LO_BASE_LO.place (.samp 5), (327680 / 2 ^ Reg.SAMP_LBASE_LO_BASE_LO.lo)), (Reg.SAMP_LSTRIDE_UNITS.place (.samp 5), 1), (Reg.ADMT_TEN_IDLE_MS.place (.admt 2) 1, 5)]) with tenants := [(1, { en := true, reqTail := 1, p := { c := 6400000000, k := 6400000000 }, g := { c := 6400000000, k := 6400000000 }, waiting := [{ reqId := 67108873, convId := 7, status := 0, final := true, notice := false, handle := false, fallback := false, detail := 0, tokens := 5, pages := 2, layers := 1, qpos := 0, whenNs := 0 }], cplBase := 4096 })], reqs := [{ reqId := 67108873, tenant := 1, desc := BitVec.ofNat 1024 9773544505746286835858277524840310455556890218673838673281349411775283637592215990969871673599495173571064121786369, stops := [], st := .ending, weir := 2, model := 0, fallback := false, promptPart := none, genPart := some 5, genSlot := 3, pass := 0, need := 1, readAt := 0, tokens := 0, outBuf := [], emitted := [], pos := 130, layers := 0, pages := 0, lastTok := 0, specEpoch := 0, adapter := none, endStatus := some (0, 0), recorded := true }], tier := { pages := [(5, { st := .resident .basin, frame := 0, frameTier := .basin })], dirs := [(0, { valid := true, used := 1, leaf := 257 })], leaves := [(257, true)], frames := [(67108864, true)] } },
     1,
     { reqId := 67108873, convId := 7, status := 0, final := true, notice := false, handle := false, fallback := false, detail := 0, tokens := 5, pages := 2, layers := 1, qpos := 0, whenNs := 0 },
     [],
     { reqId := 67108873, tenant := 1, desc := BitVec.ofNat 1024 9773544505746286835858277524840310455556890218673838673281349411775283637592215990969871673599495173571064121786369, stops := [], st := .ending, weir := 2, model := 0, fallback := false, promptPart := none, genPart := some 5, genSlot := 3, pass := 0, need := 1, readAt := 0, tokens := 0, outBuf := [], emitted := [], pos := 130, layers := 0, pages := 0, lastTok := 0, specEpoch := 0, adapter := none, endStatus := some (0, 0), recorded := true },
     by decide +kernel⟩,
   ⟨{ (st [(Reg.PG_READY_READY.place .tier, 1), (Reg.PG_READY_READY.place (.bas 0), 1), (Reg.BAS_MEM_STAT_ONLINE.place (.bas 0), 1), (Reg.BAS_MEM_FRAMES_FRAMES.place (.bas 0), 786432), (Reg.PG_READY_READY.place (.admt 2), 1), (Reg.PG_READY_READY.place (.samp 5), 1), (Reg.DEV_NODE_NODE.place .dev, 9), (Reg.ADMT_BIND_LO_TEN.place (.admt 2), 2), (Reg.ADMT_CTRL_EN.place (.admt 2), 1), (Reg.QRM_STAT_IN_QUORUM.place .qrm, 1), (Reg.ADMT_MODEL_LAYERS.place (.admt 2), 1), (Reg.ADMT_MODEL_TOK_LOG2.place (.admt 2), 6), (Reg.ADMT_TEN_P_CSIZE.place (.admt 2) 1, 100), (Reg.ADMT_TEN_P_PSIZE.place (.admt 2) 1, 100), (Reg.ADMT_TEN_G_CSIZE.place (.admt 2) 1, 100), (Reg.ADMT_TEN_G_PSIZE.place (.admt 2) 1, 100), (Reg.ADMT_TEN_MAX_OPEN0.place (.admt 2) 1, 2), (Reg.DISP_ROLE_CUR.place (.disp 4), 1), (Reg.DISP_ROLE_CUR.place (.disp 5), 2), (Reg.ADMT_PAGE_LIMIT_LIMIT.place (.admt 5), 100), (Reg.ADMT_PAGE_RESV_RESV.place (.admt 5), 7), (Reg.ADMT_KV_SLOT_PAGES.place (.admt 5), 10), (Reg.ADMT_KV_SLOT_PAGES.place (.admt 4), 10), (Reg.ADMT_KV_BASE_LO_BASE_LO.place (.admt 5), 40), (Reg.SAMP_MODEL_VOCAB.place (.samp 5), 4), (Reg.SAMP_MODEL_EOS.place (.samp 5), 3), (Reg.SAMP_LBASE_LO_BASE_LO.place (.samp 5), (327680 / 2 ^ Reg.SAMP_LBASE_LO_BASE_LO.lo)), (Reg.SAMP_LSTRIDE_UNITS.place (.samp 5), 1), (Reg.ADMT_TEN_IDLE_MS.place (.admt 2) 1, 5)]) with tenants := [(1, { en := true, reqTail := 1, p := { c := 6400000000, k := 6400000000 }, g := { c := 6400000000, k := 6400000000 }, waiting := [{ reqId := 67108873, convId := 7, status := 0, final := false, notice := false, handle := false, fallback := false, detail := 0, tokens := 5, pages := 2, layers := 1, qpos := 0, whenNs := 0 }], cplTail := 16 })], tier := { pages := [(5, { st := .resident .basin, frame := 0, frameTier := .basin })], dirs := [(0, { valid := true, used := 1, leaf := 257 })], leaves := [(257, true)], frames := [(67108864, true)] } },
     1, by decide +kernel⟩,
   ⟨{ (st [(Reg.PG_READY_READY.place .tier, 1), (Reg.PG_READY_READY.place (.bas 0), 1), (Reg.BAS_MEM_STAT_ONLINE.place (.bas 0), 1), (Reg.BAS_MEM_FRAMES_FRAMES.place (.bas 0), 786432), (Reg.PG_READY_READY.place (.admt 2), 1), (Reg.PG_READY_READY.place (.samp 5), 1), (Reg.DEV_NODE_NODE.place .dev, 9), (Reg.ADMT_BIND_LO_TEN.place (.admt 2), 2), (Reg.ADMT_CTRL_EN.place (.admt 2), 1), (Reg.QRM_STAT_IN_QUORUM.place .qrm, 1), (Reg.ADMT_MODEL_LAYERS.place (.admt 2), 1), (Reg.ADMT_MODEL_TOK_LOG2.place (.admt 2), 6), (Reg.ADMT_TEN_P_CSIZE.place (.admt 2) 1, 100), (Reg.ADMT_TEN_P_PSIZE.place (.admt 2) 1, 100), (Reg.ADMT_TEN_G_CSIZE.place (.admt 2) 1, 100), (Reg.ADMT_TEN_G_PSIZE.place (.admt 2) 1, 100), (Reg.ADMT_TEN_MAX_OPEN0.place (.admt 2) 1, 2), (Reg.DISP_ROLE_CUR.place (.disp 4), 1), (Reg.DISP_ROLE_CUR.place (.disp 5), 2), (Reg.ADMT_PAGE_LIMIT_LIMIT.place (.admt 5), 100), (Reg.ADMT_PAGE_RESV_RESV.place (.admt 5), 7), (Reg.ADMT_KV_SLOT_PAGES.place (.admt 5), 10), (Reg.ADMT_KV_SLOT_PAGES.place (.admt 4), 10), (Reg.ADMT_KV_BASE_LO_BASE_LO.place (.admt 5), 40), (Reg.SAMP_MODEL_VOCAB.place (.samp 5), 4), (Reg.SAMP_MODEL_EOS.place (.samp 5), 3), (Reg.SAMP_LBASE_LO_BASE_LO.place (.samp 5), (327680 / 2 ^ Reg.SAMP_LBASE_LO_BASE_LO.lo)), (Reg.SAMP_LSTRIDE_UNITS.place (.samp 5), 1), (Reg.ADMT_TEN_IDLE_MS.place (.admt 2) 1, 5), (Reg.PCIE_VF_TOK_MOD_US.place .pcie, 3)]) with tenants := [(1, { en := true, reqTail := 1, p := { c := 6400000000, k := 6400000000 }, g := { c := 6400000000, k := 6400000000 }, modPend := true, modUntil := 7 })], tier := { pages := [(5, { st := .resident .basin, frame := 0, frameTier := .basin })], dirs := [(0, { valid := true, used := 1, leaf := 257 })], leaves := [(257, true)], frames := [(67108864, true)] }, now := 7 },
     1, by decide +kernel⟩,
   ⟨{ (st [(Reg.PG_READY_READY.place .tier, 1), (Reg.PG_READY_READY.place (.bas 0), 1), (Reg.BAS_MEM_STAT_ONLINE.place (.bas 0), 1), (Reg.BAS_MEM_FRAMES_FRAMES.place (.bas 0), 786432), (Reg.PG_READY_READY.place (.admt 2), 1), (Reg.PG_READY_READY.place (.samp 5), 1), (Reg.DEV_NODE_NODE.place .dev, 9), (Reg.ADMT_BIND_LO_TEN.place (.admt 2), 2), (Reg.ADMT_CTRL_EN.place (.admt 2), 1), (Reg.QRM_STAT_IN_QUORUM.place .qrm, 1), (Reg.ADMT_MODEL_LAYERS.place (.admt 2), 1), (Reg.ADMT_MODEL_TOK_LOG2.place (.admt 2), 6), (Reg.ADMT_TEN_P_CSIZE.place (.admt 2) 1, 100), (Reg.ADMT_TEN_P_PSIZE.place (.admt 2) 1, 100), (Reg.ADMT_TEN_G_CSIZE.place (.admt 2) 1, 100), (Reg.ADMT_TEN_G_PSIZE.place (.admt 2) 1, 100), (Reg.ADMT_TEN_MAX_OPEN0.place (.admt 2) 1, 2), (Reg.DISP_ROLE_CUR.place (.disp 4), 1), (Reg.DISP_ROLE_CUR.place (.disp 5), 2), (Reg.ADMT_PAGE_LIMIT_LIMIT.place (.admt 5), 100), (Reg.ADMT_PAGE_RESV_RESV.place (.admt 5), 7), (Reg.ADMT_KV_SLOT_PAGES.place (.admt 5), 10), (Reg.ADMT_KV_SLOT_PAGES.place (.admt 4), 10), (Reg.ADMT_KV_BASE_LO_BASE_LO.place (.admt 5), 40), (Reg.SAMP_MODEL_VOCAB.place (.samp 5), 4), (Reg.SAMP_MODEL_EOS.place (.samp 5), 3), (Reg.SAMP_LBASE_LO_BASE_LO.place (.samp 5), (327680 / 2 ^ Reg.SAMP_LBASE_LO_BASE_LO.lo)), (Reg.SAMP_LSTRIDE_UNITS.place (.samp 5), 1), (Reg.ADMT_TEN_IDLE_MS.place (.admt 2) 1, 5)]) with tenants := [(1, { en := true, reqTail := 1, p := { c := 6400000000, k := 6400000000 }, g := { c := 6400000000, k := 6400000000 } })], tier := { pages := [(5, { st := .resident .basin, frame := 0, frameTier := .basin })], dirs := [(0, { valid := true, used := 1, leaf := 257 })], leaves := [(257, true)], frames := [(67108864, true)] } },
     1, by decide +kernel⟩,
   ⟨{ (st [(Reg.PG_READY_READY.place .tier, 1), (Reg.PG_READY_READY.place (.bas 0), 1), (Reg.BAS_MEM_STAT_ONLINE.place (.bas 0), 1), (Reg.BAS_MEM_FRAMES_FRAMES.place (.bas 0), 786432), (Reg.PG_READY_READY.place (.admt 2), 1), (Reg.PG_READY_READY.place (.samp 5), 1), (Reg.DEV_NODE_NODE.place .dev, 9), (Reg.ADMT_BIND_LO_TEN.place (.admt 2), 2), (Reg.ADMT_CTRL_EN.place (.admt 2), 1), (Reg.QRM_STAT_IN_QUORUM.place .qrm, 1), (Reg.ADMT_MODEL_LAYERS.place (.admt 2), 1), (Reg.ADMT_MODEL_TOK_LOG2.place (.admt 2), 6), (Reg.ADMT_TEN_P_CSIZE.place (.admt 2) 1, 100), (Reg.ADMT_TEN_P_PSIZE.place (.admt 2) 1, 100), (Reg.ADMT_TEN_G_CSIZE.place (.admt 2) 1, 100), (Reg.ADMT_TEN_G_PSIZE.place (.admt 2) 1, 100), (Reg.ADMT_TEN_MAX_OPEN0.place (.admt 2) 1, 2), (Reg.DISP_ROLE_CUR.place (.disp 4), 1), (Reg.DISP_ROLE_CUR.place (.disp 5), 2), (Reg.ADMT_PAGE_LIMIT_LIMIT.place (.admt 5), 100), (Reg.ADMT_PAGE_RESV_RESV.place (.admt 5), 7), (Reg.ADMT_KV_SLOT_PAGES.place (.admt 5), 10), (Reg.ADMT_KV_SLOT_PAGES.place (.admt 4), 10), (Reg.ADMT_KV_BASE_LO_BASE_LO.place (.admt 5), 40), (Reg.SAMP_MODEL_VOCAB.place (.samp 5), 4), (Reg.SAMP_MODEL_EOS.place (.samp 5), 3), (Reg.SAMP_LBASE_LO_BASE_LO.place (.samp 5), (327680 / 2 ^ Reg.SAMP_LBASE_LO_BASE_LO.lo)), (Reg.SAMP_LSTRIDE_UNITS.place (.samp 5), 1), (Reg.ADMT_TEN_IDLE_MS.place (.admt 2) 1, 5)]) with tenants := [(1, { en := true, reqTail := 1, p := { c := 6400000000, k := 6400000000 }, g := { c := 6400000000, k := 6400000000 } })], reqs := [{ reqId := 67108873, tenant := 1, desc := BitVec.ofNat 1024 9773544505746286835858277524840310455556890218673838673281349411775283637592215990969871673599495173571064121786369, stops := [], st := .running, weir := 2, model := 0, fallback := false, promptPart := none, genPart := some 5, genSlot := 3, pass := 0, need := 1, readAt := 0, tokens := 0, outBuf := [], emitted := [], pos := 130, layers := 0, pages := 0, lastTok := 0, specEpoch := 0, adapter := none, endStatus := none }], tier := { pages := [(5, { st := .resident .basin, frame := 0, frameTier := .basin })], dirs := [(0, { valid := true, used := 1, leaf := 257 })], leaves := [(257, true)], frames := [(67108864, true)] } },
     1, by decide +kernel⟩⟩

/-- The hypotheses of TokensAreDrawnAndPlaced can be met, clause by clause. -/
theorem wit_TokensAreDrawnAndPlaced :
    (∃ (s : State) (p : PartId) (k : Fin 1024) (r : Req) (v : Nat) (x : List Word) (tok : Nat), s.ready (.samp p) =
      true ∧ (s.part p).samplerDue.contains k.val = true ∧ (s.req (s.rs p k.val).reqId = some r) ∧ r.endStatus = none
      ∧ dSpec r.desc = false ∧ v = s.fld (.samp p) Reg.SAMP_MODEL_VOCAB r.model.val ∧ v ≠ 0 ∧ s.readable (s.logitsAt
      p k.val 0) (4 * v) ∧ (x = (List.range v).map fun i => BitVec.ofNat 32 (s.rdNat (s.logitsAt p k.val 0 + 4 * i)
      4)) ∧ positionOf r.desc x ≠ .none ∧ (s.drawAt r.desc v r.pos 0 (positionOf r.desc x) = some tok) ∧ (∀ y ∈
      s.reqs, y.reqId = r.reqId → y = r) ∧ s.tier.answers = []) ∧
    (∃ (s : State) (p : PartId) (k : Fin 1024) (r : Req) (v : Nat) (l : List (List Word)), s.ready (.samp p) = true ∧
      (s.part p).samplerDue.contains k.val = true ∧ (s.req (s.rs p k.val).reqId = some r) ∧ r.endStatus = none ∧
      dSpec r.desc = true ∧ v = s.fld (.samp p) Reg.SAMP_MODEL_VOCAB r.model.val ∧ v ≠ 0 ∧ (∀ j ∈ List.range (dDepth
      r.desc + 1), s.readable (s.logitsAt p k.val j) (4 * v)) ∧ s.tier.answers = [] ∧ (l = ((List.range (dDepth
      r.desc + 1)).map fun j => (List.range v).map fun i => BitVec.ofNat 32 (s.rdNat (s.logitsAt p k.val j + 4 * i)
      4))) ∧ (∀ x ∈ l, positionOf r.desc x ≠ .none) ∧ (∀ y ∈ s.reqs, y.reqId = r.reqId → y = r)) ∧
    (∃ (s : State) (p : PartId) (k : Fin 1024) (r : Req) (v : Nat) (x : List Word), s.ready (.samp p) = true ∧
      (s.part p).samplerDue.contains k.val = true ∧ (s.req (s.rs p k.val).reqId = some r) ∧ r.endStatus = none ∧
      dSpec r.desc = false ∧ v = s.fld (.samp p) Reg.SAMP_MODEL_VOCAB r.model.val ∧ s.readable (s.logitsAt p k.val 0)
      (4 * v) ∧ (x = (List.range v).map fun i => BitVec.ofNat 32 (s.rdNat (s.logitsAt p k.val 0 + 4 * i) 4)) ∧
      positionOf r.desc x = .none ∧ r.outBuf = [] ∧ r.recorded = false ∧ (∀ q ∈ allParts, ∀ e ∈ (s.mover q).ctxs,
      e.2.state = 0 ∨ 3 < e.2.state) ∧ s.tier.answers = []) ∧
    (∃ (s : State) (p : PartId) (k : Fin 1024), (s.ready (.samp p) = false ∨ (s.part p).samplerDue.contains k.val =
      false)) ∧
    (∃ (s : State) (p : PartId) (k : Fin 1024) (r : Req) (n : TenId) (tok : Nat) (pos : Nat) (rest : List (Nat ×
      Nat)) (em : List Nat), (s.reqs.find? (fun r => r.genPart == some p && r.genSlot == k.val && !r.outBuf.isEmpty)
      = some r) ∧ r.outBuf = (tok, pos) :: rest ∧ dShard r.desc = 0 ∧ r.tenant = n ∧ (s.ten n).tokRoom = true ∧
      r.endStatus = none ∧ r.recorded = false ∧ em = (r.emitted ++ [tok]).drop (r.emitted.length - 7) ∧ (∀ y ∈
      s.reqs, y.reqId = r.reqId → y = r) ∧ s.stopOf p r tok em = none) ∧
    (∃ (s : State) (p : PartId) (k : Fin 1024) (r : Req) (tok : Nat) (pos : Nat) (rest : List (Nat × Nat)) (em : List
      Nat), (s.reqs.find? (fun r => r.genPart == some p && r.genSlot == k.val && !r.outBuf.isEmpty) = some r) ∧
      r.outBuf = (tok, pos) :: rest ∧ dShard r.desc ≠ 0 ∧ r.endStatus = none ∧ em = (r.emitted ++ [tok]).drop
      (r.emitted.length - 7) ∧ (∀ y ∈ s.reqs, y.reqId = r.reqId → y = r) ∧ s.stopOf p r tok em = none) ∧
    (∃ (s : State) (p : PartId) (k : Fin 1024) (r : Req) (n : TenId) (tok : Nat) (pos : Nat) (rest : List (Nat ×
      Nat)) (em : List Nat) (status : Nat) (detail : Nat) (ctr : Nat), (s.reqs.find? (fun r => r.genPart == some p &&
      r.genSlot == k.val && !r.outBuf.isEmpty) = some r) ∧ r.outBuf = (tok, pos) :: rest ∧ dShard r.desc = 0 ∧
      r.tenant = n ∧ (s.ten n).tokRoom = true ∧ r.endStatus = none ∧ r.recorded = false ∧ em = (r.emitted ++
      [tok]).drop (r.emitted.length - 7) ∧ (∀ y ∈ s.reqs, y.reqId = r.reqId → y = r) ∧ (s.stopOf p r tok em = some
      (status, detail, ctr))) ∧
    (∃ (s : State) (p : PartId) (k : Fin 1024), (∀ r ∈ s.reqs, r.genPart = some p → r.genSlot = k.val → r.outBuf = []
      ∨ dShard r.desc = 0 ∧ (s.ten r.tenant).tokRoom = false)) :=
  ⟨⟨{ (st [(Reg.PG_READY_READY.place .tier, 1), (Reg.PG_READY_READY.place (.bas 0), 1), (Reg.BAS_MEM_STAT_ONLINE.place (.bas 0), 1), (Reg.BAS_MEM_FRAMES_FRAMES.place (.bas 0), 786432), (Reg.PG_READY_READY.place (.admt 2), 1), (Reg.PG_READY_READY.place (.samp 5), 1), (Reg.DEV_NODE_NODE.place .dev, 9), (Reg.ADMT_BIND_LO_TEN.place (.admt 2), 2), (Reg.ADMT_CTRL_EN.place (.admt 2), 1), (Reg.QRM_STAT_IN_QUORUM.place .qrm, 1), (Reg.ADMT_MODEL_LAYERS.place (.admt 2), 1), (Reg.ADMT_MODEL_TOK_LOG2.place (.admt 2), 6), (Reg.ADMT_TEN_P_CSIZE.place (.admt 2) 1, 100), (Reg.ADMT_TEN_P_PSIZE.place (.admt 2) 1, 100), (Reg.ADMT_TEN_G_CSIZE.place (.admt 2) 1, 100), (Reg.ADMT_TEN_G_PSIZE.place (.admt 2) 1, 100), (Reg.ADMT_TEN_MAX_OPEN0.place (.admt 2) 1, 2), (Reg.DISP_ROLE_CUR.place (.disp 4), 1), (Reg.DISP_ROLE_CUR.place (.disp 5), 2), (Reg.ADMT_PAGE_LIMIT_LIMIT.place (.admt 5), 100), (Reg.ADMT_PAGE_RESV_RESV.place (.admt 5), 7), (Reg.ADMT_KV_SLOT_PAGES.place (.admt 5), 10), (Reg.ADMT_KV_SLOT_PAGES.place (.admt 4), 10), (Reg.ADMT_KV_BASE_LO_BASE_LO.place (.admt 5), 40), (Reg.SAMP_MODEL_VOCAB.place (.samp 5), 4), (Reg.SAMP_MODEL_EOS.place (.samp 5), 3), (Reg.SAMP_LBASE_LO_BASE_LO.place (.samp 5), (327680 / 2 ^ Reg.SAMP_LBASE_LO_BASE_LO.lo)), (Reg.SAMP_LSTRIDE_UNITS.place (.samp 5), 1), (Reg.ADMT_TEN_IDLE_MS.place (.admt 2) 1, 5)]) with tenants := [(1, { en := true, reqTail := 1, p := { c := 6400000000, k := 6400000000 }, g := { c := 6400000000, k := 6400000000 } })], reqs := [{ reqId := 67108873, tenant := 1, desc := BitVec.ofNat 1024 9773544505746286835858277524840310455556890218673838673281349411775283637592215990969871673599495173571064121786369, stops := [], st := .running, weir := 2, model := 0, fallback := false, promptPart := none, genPart := some 5, genSlot := 3, pass := 0, need := 1, readAt := 0, tokens := 0, outBuf := [], emitted := [], pos := 130, layers := 0, pages := 0, lastTok := 0, specEpoch := 0, adapter := none, endStatus := none }], parts := [(5, { slots := [(3, { valid := true, reqId := 67108873 })], samplerDue := [2, 3] })], tier := { pages := [(5, { st := .resident .basin, frame := 0, frameTier := .basin })], dirs := [(0, { valid := true, used := 1, leaf := 257 })], leaves := [(257, true)], frames := [(67108864, true)] }, mem := (Map.store (Map.store (Map.store (Map.store ([] : Memory) 329408 (bytesOfNat 4 1065353216)) 329412 (bytesOfNat 4 1080033280)) 329416 (bytesOfNat 4 3221225472)) 329420 (bytesOfNat 4 1077936128)) },
     5, 3,
     { reqId := 67108873, tenant := 1, desc := BitVec.ofNat 1024 9773544505746286835858277524840310455556890218673838673281349411775283637592215990969871673599495173571064121786369, stops := [], st := .running, weir := 2, model := 0, fallback := false, promptPart := none, genPart := some 5, genSlot := 3, pass := 0, need := 1, readAt := 0, tokens := 0, outBuf := [], emitted := [], pos := 130, layers := 0, pages := 0, lastTok := 0, specEpoch := 0, adapter := none, endStatus := none },
     4, (let s :=
     ({ (st [(Reg.PG_READY_READY.place .tier, 1), (Reg.PG_READY_READY.place (.bas 0), 1), (Reg.BAS_MEM_STAT_ONLINE.place (.bas 0), 1), (Reg.BAS_MEM_FRAMES_FRAMES.place (.bas 0), 786432), (Reg.PG_READY_READY.place (.admt 2), 1), (Reg.PG_READY_READY.place (.samp 5), 1), (Reg.DEV_NODE_NODE.place .dev, 9), (Reg.ADMT_BIND_LO_TEN.place (.admt 2), 2), (Reg.ADMT_CTRL_EN.place (.admt 2), 1), (Reg.QRM_STAT_IN_QUORUM.place .qrm, 1), (Reg.ADMT_MODEL_LAYERS.place (.admt 2), 1), (Reg.ADMT_MODEL_TOK_LOG2.place (.admt 2), 6), (Reg.ADMT_TEN_P_CSIZE.place (.admt 2) 1, 100), (Reg.ADMT_TEN_P_PSIZE.place (.admt 2) 1, 100), (Reg.ADMT_TEN_G_CSIZE.place (.admt 2) 1, 100), (Reg.ADMT_TEN_G_PSIZE.place (.admt 2) 1, 100), (Reg.ADMT_TEN_MAX_OPEN0.place (.admt 2) 1, 2), (Reg.DISP_ROLE_CUR.place (.disp 4), 1), (Reg.DISP_ROLE_CUR.place (.disp 5), 2), (Reg.ADMT_PAGE_LIMIT_LIMIT.place (.admt 5), 100), (Reg.ADMT_PAGE_RESV_RESV.place (.admt 5), 7), (Reg.ADMT_KV_SLOT_PAGES.place (.admt 5), 10), (Reg.ADMT_KV_SLOT_PAGES.place (.admt 4), 10), (Reg.ADMT_KV_BASE_LO_BASE_LO.place (.admt 5), 40), (Reg.SAMP_MODEL_VOCAB.place (.samp 5), 4), (Reg.SAMP_MODEL_EOS.place (.samp 5), 3), (Reg.SAMP_LBASE_LO_BASE_LO.place (.samp 5), (327680 / 2 ^ Reg.SAMP_LBASE_LO_BASE_LO.lo)), (Reg.SAMP_LSTRIDE_UNITS.place (.samp 5), 1), (Reg.ADMT_TEN_IDLE_MS.place (.admt 2) 1, 5)]) with tier := { pages := [(5, { st := .resident .basin, frame := 0, frameTier := .basin })], dirs := [(0, { valid := true, used := 1, leaf := 257 })], leaves := [(257, true)], frames := [(67108864, true)] }, mem := (Map.store (Map.store (Map.store (Map.store ([] : Memory) 329408 (bytesOfNat 4 1065353216)) 329412 (bytesOfNat 4 1080033280)) 329416 (bytesOfNat 4 3221225472)) 329420 (bytesOfNat 4 1077936128)) }
     : State); (List.range 4).map fun i => BitVec.ofNat 32 (s.rdNat (s.logitsAt 5 3 0 + 4 * i) 4)), 1,
     by decide +kernel⟩,
   ⟨{ (st [(Reg.PG_READY_READY.place .tier, 1), (Reg.PG_READY_READY.place (.bas 0), 1), (Reg.BAS_MEM_STAT_ONLINE.place (.bas 0), 1), (Reg.BAS_MEM_FRAMES_FRAMES.place (.bas 0), 786432), (Reg.PG_READY_READY.place (.admt 2), 1), (Reg.PG_READY_READY.place (.samp 5), 1), (Reg.DEV_NODE_NODE.place .dev, 9), (Reg.ADMT_BIND_LO_TEN.place (.admt 2), 2), (Reg.ADMT_CTRL_EN.place (.admt 2), 1), (Reg.QRM_STAT_IN_QUORUM.place .qrm, 1), (Reg.ADMT_MODEL_LAYERS.place (.admt 2), 1), (Reg.ADMT_MODEL_TOK_LOG2.place (.admt 2), 6), (Reg.ADMT_TEN_P_CSIZE.place (.admt 2) 1, 100), (Reg.ADMT_TEN_P_PSIZE.place (.admt 2) 1, 100), (Reg.ADMT_TEN_G_CSIZE.place (.admt 2) 1, 100), (Reg.ADMT_TEN_G_PSIZE.place (.admt 2) 1, 100), (Reg.ADMT_TEN_MAX_OPEN0.place (.admt 2) 1, 2), (Reg.DISP_ROLE_CUR.place (.disp 4), 1), (Reg.DISP_ROLE_CUR.place (.disp 5), 2), (Reg.ADMT_PAGE_LIMIT_LIMIT.place (.admt 5), 100), (Reg.ADMT_PAGE_RESV_RESV.place (.admt 5), 7), (Reg.ADMT_KV_SLOT_PAGES.place (.admt 5), 10), (Reg.ADMT_KV_SLOT_PAGES.place (.admt 4), 10), (Reg.ADMT_KV_BASE_LO_BASE_LO.place (.admt 5), 40), (Reg.SAMP_MODEL_VOCAB.place (.samp 5), 4), (Reg.SAMP_MODEL_EOS.place (.samp 5), 3), (Reg.SAMP_LBASE_LO_BASE_LO.place (.samp 5), (327680 / 2 ^ Reg.SAMP_LBASE_LO_BASE_LO.lo)), (Reg.SAMP_LSTRIDE_UNITS.place (.samp 5), 1), (Reg.ADMT_TEN_IDLE_MS.place (.admt 2) 1, 5)]) with tenants := [(1, { en := true, reqTail := 1, p := { c := 6400000000, k := 6400000000 }, g := { c := 6400000000, k := 6400000000 } })], reqs := [{ reqId := 67108873, tenant := 1, desc := BitVec.ofNat 1024 9773544505746286835858277524840310455556890218673838673281349411775283637592215990969871673599495173571064138563617, stops := [], st := .running, weir := 2, model := 0, fallback := false, promptPart := none, genPart := some 5, genSlot := 3, pass := 0, need := 1, readAt := 0, tokens := 0, outBuf := [], emitted := [], pos := 130, layers := 0, pages := 0, lastTok := 0, specEpoch := 0, adapter := none, endStatus := none }], parts := [(5, { slots := [(3, { valid := true, reqId := 67108873, kvLen := 131 })], samplerDue := [2, 3] })], tier := { pages := [(5, { st := .resident .basin, frame := 0, frameTier := .basin })], dirs := [(0, { valid := true, used := 1, leaf := 257 })], leaves := [(257, true)], frames := [(67108864, true)] }, mem := (Map.store (Map.store (Map.store (Map.store ([] : Memory) 329408 (bytesOfNat 4 1065353216)) 329412 (bytesOfNat 4 1080033280)) 329416 (bytesOfNat 4 3221225472)) 329420 (bytesOfNat 4 1077936128)) },
     5, 3,
     { reqId := 67108873, tenant := 1, desc := BitVec.ofNat 1024 9773544505746286835858277524840310455556890218673838673281349411775283637592215990969871673599495173571064138563617, stops := [], st := .running, weir := 2, model := 0, fallback := false, promptPart := none, genPart := some 5, genSlot := 3, pass := 0, need := 1, readAt := 0, tokens := 0, outBuf := [], emitted := [], pos := 130, layers := 0, pages := 0, lastTok := 0, specEpoch := 0, adapter := none, endStatus := none },
     4, (let s :=
     ({ (st [(Reg.PG_READY_READY.place .tier, 1), (Reg.PG_READY_READY.place (.bas 0), 1), (Reg.BAS_MEM_STAT_ONLINE.place (.bas 0), 1), (Reg.BAS_MEM_FRAMES_FRAMES.place (.bas 0), 786432), (Reg.PG_READY_READY.place (.admt 2), 1), (Reg.PG_READY_READY.place (.samp 5), 1), (Reg.DEV_NODE_NODE.place .dev, 9), (Reg.ADMT_BIND_LO_TEN.place (.admt 2), 2), (Reg.ADMT_CTRL_EN.place (.admt 2), 1), (Reg.QRM_STAT_IN_QUORUM.place .qrm, 1), (Reg.ADMT_MODEL_LAYERS.place (.admt 2), 1), (Reg.ADMT_MODEL_TOK_LOG2.place (.admt 2), 6), (Reg.ADMT_TEN_P_CSIZE.place (.admt 2) 1, 100), (Reg.ADMT_TEN_P_PSIZE.place (.admt 2) 1, 100), (Reg.ADMT_TEN_G_CSIZE.place (.admt 2) 1, 100), (Reg.ADMT_TEN_G_PSIZE.place (.admt 2) 1, 100), (Reg.ADMT_TEN_MAX_OPEN0.place (.admt 2) 1, 2), (Reg.DISP_ROLE_CUR.place (.disp 4), 1), (Reg.DISP_ROLE_CUR.place (.disp 5), 2), (Reg.ADMT_PAGE_LIMIT_LIMIT.place (.admt 5), 100), (Reg.ADMT_PAGE_RESV_RESV.place (.admt 5), 7), (Reg.ADMT_KV_SLOT_PAGES.place (.admt 5), 10), (Reg.ADMT_KV_SLOT_PAGES.place (.admt 4), 10), (Reg.ADMT_KV_BASE_LO_BASE_LO.place (.admt 5), 40), (Reg.SAMP_MODEL_VOCAB.place (.samp 5), 4), (Reg.SAMP_MODEL_EOS.place (.samp 5), 3), (Reg.SAMP_LBASE_LO_BASE_LO.place (.samp 5), (327680 / 2 ^ Reg.SAMP_LBASE_LO_BASE_LO.lo)), (Reg.SAMP_LSTRIDE_UNITS.place (.samp 5), 1), (Reg.ADMT_TEN_IDLE_MS.place (.admt 2) 1, 5)]) with tenants := [(1, { en := true, reqTail := 1, p := { c := 6400000000, k := 6400000000 }, g := { c := 6400000000, k := 6400000000 } })], reqs := [{ reqId := 67108873, tenant := 1, desc := BitVec.ofNat 1024 9773544505746286835858277524840310455556890218673838673281349411775283637592215990969871673599495173571064138563617, stops := [], st := .running, weir := 2, model := 0, fallback := false, promptPart := none, genPart := some 5, genSlot := 3, pass := 0, need := 1, readAt := 0, tokens := 0, outBuf := [], emitted := [], pos := 130, layers := 0, pages := 0, lastTok := 0, specEpoch := 0, adapter := none, endStatus := none }], parts := [(5, { slots := [(3, { valid := true, reqId := 67108873, kvLen := 131 })], samplerDue := [2, 3] })], tier := { pages := [(5, { st := .resident .basin, frame := 0, frameTier := .basin })], dirs := [(0, { valid := true, used := 1, leaf := 257 })], leaves := [(257, true)], frames := [(67108864, true)] }, mem := (Map.store (Map.store (Map.store (Map.store ([] : Memory) 329408 (bytesOfNat 4 1065353216)) 329412 (bytesOfNat 4 1080033280)) 329416 (bytesOfNat 4 3221225472)) 329420 (bytesOfNat 4 1077936128)) }
     : State); (List.range 2).map fun j => (List.range 4).map fun i => BitVec.ofNat 32 (s.rdNat (s.logitsAt 5 3 j + 4
     * i) 4)), by decide +kernel⟩,
   ⟨{ (st [(Reg.PG_READY_READY.place .tier, 1), (Reg.PG_READY_READY.place (.bas 0), 1), (Reg.BAS_MEM_STAT_ONLINE.place (.bas 0), 1), (Reg.BAS_MEM_FRAMES_FRAMES.place (.bas 0), 786432), (Reg.PG_READY_READY.place (.admt 2), 1), (Reg.PG_READY_READY.place (.samp 5), 1), (Reg.DEV_NODE_NODE.place .dev, 9), (Reg.ADMT_BIND_LO_TEN.place (.admt 2), 2), (Reg.ADMT_CTRL_EN.place (.admt 2), 1), (Reg.QRM_STAT_IN_QUORUM.place .qrm, 1), (Reg.ADMT_MODEL_LAYERS.place (.admt 2), 1), (Reg.ADMT_MODEL_TOK_LOG2.place (.admt 2), 6), (Reg.ADMT_TEN_P_CSIZE.place (.admt 2) 1, 100), (Reg.ADMT_TEN_P_PSIZE.place (.admt 2) 1, 100), (Reg.ADMT_TEN_G_CSIZE.place (.admt 2) 1, 100), (Reg.ADMT_TEN_G_PSIZE.place (.admt 2) 1, 100), (Reg.ADMT_TEN_MAX_OPEN0.place (.admt 2) 1, 2), (Reg.DISP_ROLE_CUR.place (.disp 4), 1), (Reg.DISP_ROLE_CUR.place (.disp 5), 2), (Reg.ADMT_PAGE_LIMIT_LIMIT.place (.admt 5), 100), (Reg.ADMT_PAGE_RESV_RESV.place (.admt 5), 7), (Reg.ADMT_KV_SLOT_PAGES.place (.admt 5), 10), (Reg.ADMT_KV_SLOT_PAGES.place (.admt 4), 10), (Reg.ADMT_KV_BASE_LO_BASE_LO.place (.admt 5), 40), (Reg.SAMP_MODEL_EOS.place (.samp 5), 3), (Reg.SAMP_LBASE_LO_BASE_LO.place (.samp 5), (327680 / 2 ^ Reg.SAMP_LBASE_LO_BASE_LO.lo)), (Reg.SAMP_LSTRIDE_UNITS.place (.samp 5), 1), (Reg.ADMT_TEN_IDLE_MS.place (.admt 2) 1, 5)]) with tenants := [(1, { en := true, reqTail := 1, p := { c := 6400000000, k := 6400000000 }, g := { c := 6400000000, k := 6400000000 } })], reqs := [{ reqId := 67108873, tenant := 1, desc := BitVec.ofNat 1024 9773544505746286835858277524840310455556890218673838673281349411775283637592215990969871673599495173571064121786369, stops := [], st := .running, weir := 2, model := 0, fallback := false, promptPart := none, genPart := some 5, genSlot := 3, pass := 0, need := 1, readAt := 0, tokens := 0, outBuf := [], emitted := [], pos := 130, layers := 0, pages := 0, lastTok := 0, specEpoch := 0, adapter := none, endStatus := none }], parts := [(5, { slots := [(3, { valid := true, reqId := 67108873 })], samplerDue := [2, 3] })], tier := { pages := [(5, { st := .resident .basin, frame := 0, frameTier := .basin })], dirs := [(0, { valid := true, used := 1, leaf := 257 })], leaves := [(257, true)], frames := [(67108864, true)] } },
     5, 3,
     { reqId := 67108873, tenant := 1, desc := BitVec.ofNat 1024 9773544505746286835858277524840310455556890218673838673281349411775283637592215990969871673599495173571064121786369, stops := [], st := .running, weir := 2, model := 0, fallback := false, promptPart := none, genPart := some 5, genSlot := 3, pass := 0, need := 1, readAt := 0, tokens := 0, outBuf := [], emitted := [], pos := 130, layers := 0, pages := 0, lastTok := 0, specEpoch := 0, adapter := none, endStatus := none },
     0, [], by decide +kernel⟩,
   ⟨{ (st [(Reg.PG_READY_READY.place .tier, 1), (Reg.PG_READY_READY.place (.bas 0), 1), (Reg.BAS_MEM_STAT_ONLINE.place (.bas 0), 1), (Reg.BAS_MEM_FRAMES_FRAMES.place (.bas 0), 786432), (Reg.PG_READY_READY.place (.admt 2), 1), (Reg.PG_READY_READY.place (.samp 5), 1), (Reg.DEV_NODE_NODE.place .dev, 9), (Reg.ADMT_BIND_LO_TEN.place (.admt 2), 2), (Reg.ADMT_CTRL_EN.place (.admt 2), 1), (Reg.QRM_STAT_IN_QUORUM.place .qrm, 1), (Reg.ADMT_MODEL_LAYERS.place (.admt 2), 1), (Reg.ADMT_MODEL_TOK_LOG2.place (.admt 2), 6), (Reg.ADMT_TEN_P_CSIZE.place (.admt 2) 1, 100), (Reg.ADMT_TEN_P_PSIZE.place (.admt 2) 1, 100), (Reg.ADMT_TEN_G_CSIZE.place (.admt 2) 1, 100), (Reg.ADMT_TEN_G_PSIZE.place (.admt 2) 1, 100), (Reg.ADMT_TEN_MAX_OPEN0.place (.admt 2) 1, 2), (Reg.DISP_ROLE_CUR.place (.disp 4), 1), (Reg.DISP_ROLE_CUR.place (.disp 5), 2), (Reg.ADMT_PAGE_LIMIT_LIMIT.place (.admt 5), 100), (Reg.ADMT_PAGE_RESV_RESV.place (.admt 5), 7), (Reg.ADMT_KV_SLOT_PAGES.place (.admt 5), 10), (Reg.ADMT_KV_SLOT_PAGES.place (.admt 4), 10), (Reg.ADMT_KV_BASE_LO_BASE_LO.place (.admt 5), 40), (Reg.SAMP_MODEL_VOCAB.place (.samp 5), 4), (Reg.SAMP_MODEL_EOS.place (.samp 5), 3), (Reg.SAMP_LBASE_LO_BASE_LO.place (.samp 5), (327680 / 2 ^ Reg.SAMP_LBASE_LO_BASE_LO.lo)), (Reg.SAMP_LSTRIDE_UNITS.place (.samp 5), 1), (Reg.ADMT_TEN_IDLE_MS.place (.admt 2) 1, 5)]) with tier := { pages := [(5, { st := .resident .basin, frame := 0, frameTier := .basin })], dirs := [(0, { valid := true, used := 1, leaf := 257 })], leaves := [(257, true)], frames := [(67108864, true)] } },
     5, 3, by decide +kernel⟩,
   ⟨{ (st [(Reg.PG_READY_READY.place .tier, 1), (Reg.PG_READY_READY.place (.bas 0), 1), (Reg.BAS_MEM_STAT_ONLINE.place (.bas 0), 1), (Reg.BAS_MEM_FRAMES_FRAMES.place (.bas 0), 786432), (Reg.PG_READY_READY.place (.admt 2), 1), (Reg.PG_READY_READY.place (.samp 5), 1), (Reg.DEV_NODE_NODE.place .dev, 9), (Reg.ADMT_BIND_LO_TEN.place (.admt 2), 2), (Reg.ADMT_CTRL_EN.place (.admt 2), 1), (Reg.QRM_STAT_IN_QUORUM.place .qrm, 1), (Reg.ADMT_MODEL_LAYERS.place (.admt 2), 1), (Reg.ADMT_MODEL_TOK_LOG2.place (.admt 2), 6), (Reg.ADMT_TEN_P_CSIZE.place (.admt 2) 1, 100), (Reg.ADMT_TEN_P_PSIZE.place (.admt 2) 1, 100), (Reg.ADMT_TEN_G_CSIZE.place (.admt 2) 1, 100), (Reg.ADMT_TEN_G_PSIZE.place (.admt 2) 1, 100), (Reg.ADMT_TEN_MAX_OPEN0.place (.admt 2) 1, 2), (Reg.DISP_ROLE_CUR.place (.disp 4), 1), (Reg.DISP_ROLE_CUR.place (.disp 5), 2), (Reg.ADMT_PAGE_LIMIT_LIMIT.place (.admt 5), 100), (Reg.ADMT_PAGE_RESV_RESV.place (.admt 5), 7), (Reg.ADMT_KV_SLOT_PAGES.place (.admt 5), 10), (Reg.ADMT_KV_SLOT_PAGES.place (.admt 4), 10), (Reg.ADMT_KV_BASE_LO_BASE_LO.place (.admt 5), 40), (Reg.SAMP_MODEL_VOCAB.place (.samp 5), 4), (Reg.SAMP_MODEL_EOS.place (.samp 5), 3), (Reg.SAMP_LBASE_LO_BASE_LO.place (.samp 5), (327680 / 2 ^ Reg.SAMP_LBASE_LO_BASE_LO.lo)), (Reg.SAMP_LSTRIDE_UNITS.place (.samp 5), 1), (Reg.ADMT_TEN_IDLE_MS.place (.admt 2) 1, 5)]) with tenants := [(1, { en := true, reqTail := 1, p := { c := 6400000000, k := 6400000000 }, g := { c := 6400000000, k := 6400000000 }, tokBase := 8192, tokTail := 70, tokHead := 60 })], reqs := [{ reqId := 67108873, tenant := 1, desc := BitVec.ofNat 1024 9773544505746286835858277524840310455556890218673838673281349411775283637592215990969871673599495173571064121786369, stops := [], st := .running, weir := 2, model := 0, fallback := false, promptPart := none, genPart := some 5, genSlot := 3, pass := 0, need := 1, readAt := 0, tokens := 0, outBuf := [(1, 130), (2, 131)], emitted := [], pos := 130, layers := 0, pages := 0, lastTok := 0, specEpoch := 0, adapter := none, endStatus := none }], tier := { pages := [(5, { st := .resident .basin, frame := 0, frameTier := .basin })], dirs := [(0, { valid := true, used := 1, leaf := 257 })], leaves := [(257, true)], frames := [(67108864, true)] } },
     5, 3,
     { reqId := 67108873, tenant := 1, desc := BitVec.ofNat 1024 9773544505746286835858277524840310455556890218673838673281349411775283637592215990969871673599495173571064121786369, stops := [], st := .running, weir := 2, model := 0, fallback := false, promptPart := none, genPart := some 5, genSlot := 3, pass := 0, need := 1, readAt := 0, tokens := 0, outBuf := [(1, 130), (2, 131)], emitted := [], pos := 130, layers := 0, pages := 0, lastTok := 0, specEpoch := 0, adapter := none, endStatus := none },
     1, 1, 130, [(2, 131)], [1], by decide +kernel⟩,
   ⟨{ (st [(Reg.PG_READY_READY.place .tier, 1), (Reg.PG_READY_READY.place (.bas 0), 1), (Reg.BAS_MEM_STAT_ONLINE.place (.bas 0), 1), (Reg.BAS_MEM_FRAMES_FRAMES.place (.bas 0), 786432), (Reg.PG_READY_READY.place (.admt 2), 1), (Reg.PG_READY_READY.place (.samp 5), 1), (Reg.DEV_NODE_NODE.place .dev, 9), (Reg.ADMT_BIND_LO_TEN.place (.admt 2), 2), (Reg.ADMT_CTRL_EN.place (.admt 2), 1), (Reg.QRM_STAT_IN_QUORUM.place .qrm, 1), (Reg.ADMT_MODEL_LAYERS.place (.admt 2), 1), (Reg.ADMT_MODEL_TOK_LOG2.place (.admt 2), 6), (Reg.ADMT_TEN_P_CSIZE.place (.admt 2) 1, 100), (Reg.ADMT_TEN_P_PSIZE.place (.admt 2) 1, 100), (Reg.ADMT_TEN_G_CSIZE.place (.admt 2) 1, 100), (Reg.ADMT_TEN_G_PSIZE.place (.admt 2) 1, 100), (Reg.ADMT_TEN_MAX_OPEN0.place (.admt 2) 1, 2), (Reg.DISP_ROLE_CUR.place (.disp 4), 1), (Reg.DISP_ROLE_CUR.place (.disp 5), 2), (Reg.ADMT_PAGE_LIMIT_LIMIT.place (.admt 5), 100), (Reg.ADMT_PAGE_RESV_RESV.place (.admt 5), 7), (Reg.ADMT_KV_SLOT_PAGES.place (.admt 5), 10), (Reg.ADMT_KV_SLOT_PAGES.place (.admt 4), 10), (Reg.ADMT_KV_BASE_LO_BASE_LO.place (.admt 5), 40), (Reg.SAMP_MODEL_VOCAB.place (.samp 5), 4), (Reg.SAMP_MODEL_EOS.place (.samp 5), 3), (Reg.SAMP_LBASE_LO_BASE_LO.place (.samp 5), (327680 / 2 ^ Reg.SAMP_LBASE_LO_BASE_LO.lo)), (Reg.SAMP_LSTRIDE_UNITS.place (.samp 5), 1), (Reg.ADMT_TEN_IDLE_MS.place (.admt 2) 1, 5)]) with tenants := [(1, { en := true, reqTail := 1, p := { c := 6400000000, k := 6400000000 }, g := { c := 6400000000, k := 6400000000 }, tokBase := 8192, tokTail := 70, tokHead := 60 })], reqs := [{ reqId := 67108873, tenant := 1, desc := BitVec.ofNat 1024 9773544505746286835858277524840310455556890218673838673281349411775283637592215990969871673599495173571065463963649, stops := [], st := .running, weir := 2, model := 0, fallback := false, promptPart := none, genPart := some 5, genSlot := 3, pass := 0, need := 1, readAt := 0, tokens := 0, outBuf := [(1, 130), (2, 131)], emitted := [], pos := 130, layers := 0, pages := 0, lastTok := 0, specEpoch := 0, adapter := none, endStatus := none }], tier := { pages := [(5, { st := .resident .basin, frame := 0, frameTier := .basin })], dirs := [(0, { valid := true, used := 1, leaf := 257 })], leaves := [(257, true)], frames := [(67108864, true)] } },
     5, 3,
     { reqId := 67108873, tenant := 1, desc := BitVec.ofNat 1024 9773544505746286835858277524840310455556890218673838673281349411775283637592215990969871673599495173571065463963649, stops := [], st := .running, weir := 2, model := 0, fallback := false, promptPart := none, genPart := some 5, genSlot := 3, pass := 0, need := 1, readAt := 0, tokens := 0, outBuf := [(1, 130), (2, 131)], emitted := [], pos := 130, layers := 0, pages := 0, lastTok := 0, specEpoch := 0, adapter := none, endStatus := none },
     1, 130, [(2, 131)], [1], by decide +kernel⟩,
   ⟨{ (st [(Reg.PG_READY_READY.place .tier, 1), (Reg.PG_READY_READY.place (.bas 0), 1), (Reg.BAS_MEM_STAT_ONLINE.place (.bas 0), 1), (Reg.BAS_MEM_FRAMES_FRAMES.place (.bas 0), 786432), (Reg.PG_READY_READY.place (.admt 2), 1), (Reg.PG_READY_READY.place (.samp 5), 1), (Reg.DEV_NODE_NODE.place .dev, 9), (Reg.ADMT_BIND_LO_TEN.place (.admt 2), 2), (Reg.ADMT_CTRL_EN.place (.admt 2), 1), (Reg.QRM_STAT_IN_QUORUM.place .qrm, 1), (Reg.ADMT_MODEL_LAYERS.place (.admt 2), 1), (Reg.ADMT_MODEL_TOK_LOG2.place (.admt 2), 6), (Reg.ADMT_TEN_P_CSIZE.place (.admt 2) 1, 100), (Reg.ADMT_TEN_P_PSIZE.place (.admt 2) 1, 100), (Reg.ADMT_TEN_G_CSIZE.place (.admt 2) 1, 100), (Reg.ADMT_TEN_G_PSIZE.place (.admt 2) 1, 100), (Reg.ADMT_TEN_MAX_OPEN0.place (.admt 2) 1, 2), (Reg.DISP_ROLE_CUR.place (.disp 4), 1), (Reg.DISP_ROLE_CUR.place (.disp 5), 2), (Reg.ADMT_PAGE_LIMIT_LIMIT.place (.admt 5), 100), (Reg.ADMT_PAGE_RESV_RESV.place (.admt 5), 7), (Reg.ADMT_KV_SLOT_PAGES.place (.admt 5), 10), (Reg.ADMT_KV_SLOT_PAGES.place (.admt 4), 10), (Reg.ADMT_KV_BASE_LO_BASE_LO.place (.admt 5), 40), (Reg.SAMP_MODEL_VOCAB.place (.samp 5), 4), (Reg.SAMP_MODEL_EOS.place (.samp 5), 3), (Reg.SAMP_LBASE_LO_BASE_LO.place (.samp 5), (327680 / 2 ^ Reg.SAMP_LBASE_LO_BASE_LO.lo)), (Reg.SAMP_LSTRIDE_UNITS.place (.samp 5), 1), (Reg.ADMT_TEN_IDLE_MS.place (.admt 2) 1, 5)]) with tenants := [(1, { en := true, reqTail := 1, p := { c := 6400000000, k := 6400000000 }, g := { c := 6400000000, k := 6400000000 }, tokBase := 8192, tokTail := 70, tokHead := 60 })], reqs := [{ reqId := 67108873, tenant := 1, desc := BitVec.ofNat 1024 9773544505746286835858277524840310455556890218673838673281349411775283637592215990969871673599495173571064121786369, stops := [], st := .running, weir := 2, model := 0, fallback := false, promptPart := none, genPart := some 5, genSlot := 3, pass := 0, need := 1, readAt := 0, tokens := 0, outBuf := [(3, 130), (2, 131)], emitted := [], pos := 130, layers := 0, pages := 0, lastTok := 0, specEpoch := 0, adapter := none, endStatus := none }], tier := { pages := [(5, { st := .resident .basin, frame := 0, frameTier := .basin })], dirs := [(0, { valid := true, used := 1, leaf := 257 })], leaves := [(257, true)], frames := [(67108864, true)] } },
     5, 3,
     { reqId := 67108873, tenant := 1, desc := BitVec.ofNat 1024 9773544505746286835858277524840310455556890218673838673281349411775283637592215990969871673599495173571064121786369, stops := [], st := .running, weir := 2, model := 0, fallback := false, promptPart := none, genPart := some 5, genSlot := 3, pass := 0, need := 1, readAt := 0, tokens := 0, outBuf := [(3, 130), (2, 131)], emitted := [], pos := 130, layers := 0, pages := 0, lastTok := 0, specEpoch := 0, adapter := none, endStatus := none },
     1, 3, 130, [(2, 131)], [3], 0, 0, 0x98, by decide +kernel⟩,
   ⟨{ (st [(Reg.PG_READY_READY.place .tier, 1), (Reg.PG_READY_READY.place (.bas 0), 1), (Reg.BAS_MEM_STAT_ONLINE.place (.bas 0), 1), (Reg.BAS_MEM_FRAMES_FRAMES.place (.bas 0), 786432), (Reg.PG_READY_READY.place (.admt 2), 1), (Reg.PG_READY_READY.place (.samp 5), 1), (Reg.DEV_NODE_NODE.place .dev, 9), (Reg.ADMT_BIND_LO_TEN.place (.admt 2), 2), (Reg.ADMT_CTRL_EN.place (.admt 2), 1), (Reg.QRM_STAT_IN_QUORUM.place .qrm, 1), (Reg.ADMT_MODEL_LAYERS.place (.admt 2), 1), (Reg.ADMT_MODEL_TOK_LOG2.place (.admt 2), 6), (Reg.ADMT_TEN_P_CSIZE.place (.admt 2) 1, 100), (Reg.ADMT_TEN_P_PSIZE.place (.admt 2) 1, 100), (Reg.ADMT_TEN_G_CSIZE.place (.admt 2) 1, 100), (Reg.ADMT_TEN_G_PSIZE.place (.admt 2) 1, 100), (Reg.ADMT_TEN_MAX_OPEN0.place (.admt 2) 1, 2), (Reg.DISP_ROLE_CUR.place (.disp 4), 1), (Reg.DISP_ROLE_CUR.place (.disp 5), 2), (Reg.ADMT_PAGE_LIMIT_LIMIT.place (.admt 5), 100), (Reg.ADMT_PAGE_RESV_RESV.place (.admt 5), 7), (Reg.ADMT_KV_SLOT_PAGES.place (.admt 5), 10), (Reg.ADMT_KV_SLOT_PAGES.place (.admt 4), 10), (Reg.ADMT_KV_BASE_LO_BASE_LO.place (.admt 5), 40), (Reg.SAMP_MODEL_VOCAB.place (.samp 5), 4), (Reg.SAMP_MODEL_EOS.place (.samp 5), 3), (Reg.SAMP_LBASE_LO_BASE_LO.place (.samp 5), (327680 / 2 ^ Reg.SAMP_LBASE_LO_BASE_LO.lo)), (Reg.SAMP_LSTRIDE_UNITS.place (.samp 5), 1), (Reg.ADMT_TEN_IDLE_MS.place (.admt 2) 1, 5)]) with tier := { pages := [(5, { st := .resident .basin, frame := 0, frameTier := .basin })], dirs := [(0, { valid := true, used := 1, leaf := 257 })], leaves := [(257, true)], frames := [(67108864, true)] } },
     5, 3, by decide +kernel⟩⟩

/-- The hypotheses of SnapshotsAreTaken can be met, clause by clause. -/
theorem wit_SnapshotsAreTaken :
    (∃ (s : State) (pg : Page), s.ready pg = true ∧ (Map.wf (fun _ => 0) s.cnt = true)) ∧
    (∃ (s : State) (pg : Page), s.ready pg = true ∧ (Map.wf (fun _ => 0) s.cnt = true)) ∧
    (∃ (s : State) (pg : Page), s.ready pg = true) ∧
    (∃ (s : State) (pg : Page) (clr : Bool), s.ready pg = false) ∧
    (∃ (s : State) (clear : Bool), s.ready .mon = true ∧ s.flag .mon Reg.MON_SNAP_ALL_ARM = true) ∧
    (∃ (s : State) (clear : Bool), s.ready .mon = true ∧ s.flag .mon Reg.MON_SNAP_ALL_ARM = false ∧ s.now ≤ s.fld
      .mon Reg.MON_SNAP_AT_TIME) ∧
    (∃ (s : State) (clear : Bool), s.ready .mon = true ∧ s.flag .mon Reg.MON_SNAP_ALL_ARM = false ∧ s.fld .mon
      Reg.MON_SNAP_AT_TIME < s.now ∧ (Map.wf (fun _ => 0) s.cnt = true)) ∧
    (∃ (s : State), s.flag .mon Reg.MON_SNAP_ALL_ARM = true ∧ s.fld .mon Reg.MON_SNAP_AT_TIME ≤ s.now ∧ (Map.wf (fun
      _ => 0) s.cnt = true)) ∧
    (∃ (s : State), (s.flag .mon Reg.MON_SNAP_ALL_ARM = false ∨ s.now < s.fld .mon Reg.MON_SNAP_AT_TIME)) :=
  ⟨⟨{ (st [(Reg.PG_READY_READY.place .mon, 1), (Reg.PG_READY_READY.place (.tile 3), 1)]) with cnt := [(Page.base (.tile 3) + 0x50, 7), (Page.base (.tile 3) + 0x80, 9), (Page.base .mon + 0x58, 4)], now := 1234, units := [(2, { live := { count := 3, sum := 30 } })] },
     .tile 3, by decide +kernel⟩,
   ⟨{ (st [(Reg.PG_READY_READY.place .mon, 1), (Reg.PG_READY_READY.place (.tile 3), 1)]) with cnt := [(Page.base (.tile 3) + 0x50, 7), (Page.base (.tile 3) + 0x80, 9), (Page.base .mon + 0x58, 4)], now := 1234, units := [(2, { live := { count := 3, sum := 30 } })] },
     .tile 3, by decide +kernel⟩,
   ⟨{ (st [(Reg.PG_READY_READY.place .mon, 1), (Reg.PG_READY_READY.place (.tile 3), 1)]) with cnt := [(Page.base (.tile 3) + 0x50, 7), (Page.base (.tile 3) + 0x80, 9), (Page.base .mon + 0x58, 4)], now := 1234, units := [(2, { live := { count := 3, sum := 30 } })] },
     .tile 3, by decide +kernel⟩,
   ⟨{ (st [(Reg.PG_READY_READY.place .mon, 1), (Reg.PG_READY_READY.place (.tile 3), 1)]) with cnt := [(Page.base (.tile 3) + 0x50, 7), (Page.base (.tile 3) + 0x80, 9), (Page.base .mon + 0x58, 4)], now := 1234 },
     .tile 4, true, by decide +kernel⟩,
   ⟨st
     [(Reg.PG_READY_READY.place .mon, 1), (Reg.PG_READY_READY.place (.tile 3), 1), (Reg.MON_SNAP_ALL_ARM.place .mon, 1)],
     true, by decide +kernel⟩,
   ⟨st
     [(Reg.PG_READY_READY.place .mon, 1), (Reg.PG_READY_READY.place (.tile 3), 1), (Reg.MON_SNAP_AT_TIME.place .mon, 50)],
     true, by decide +kernel⟩,
   ⟨{ (st [(Reg.PG_READY_READY.place .mon, 1), (Reg.PG_READY_READY.place (.tile 3), 1)]) with cnt := [(Page.base (.tile 3) + 0x50, 7), (Page.base (.tile 3) + 0x80, 9), (Page.base .mon + 0x58, 4)], now := 1234, units := [(2, { live := { count := 3, sum := 30 } })] },
     false, by decide +kernel⟩,
   ⟨{ (st [(Reg.PG_READY_READY.place .mon, 1), (Reg.PG_READY_READY.place (.tile 3), 1), (Reg.MON_SNAP_ALL_ARM.place .mon, 1), (Reg.MON_SNAP_AT_TIME.place .mon, 1200)]) with cnt := [(Page.base (.tile 3) + 0x50, 7), (Page.base (.tile 3) + 0x80, 9), (Page.base .mon + 0x58, 4)], now := 1234, units := [(2, { live := { count := 3, sum := 30 } })] },
     by decide +kernel⟩,
   ⟨st [(Reg.PG_READY_READY.place .mon, 1), (Reg.PG_READY_READY.place (.tile 3), 1)], by decide +kernel⟩⟩

/-- The hypotheses of CaptureUnitsTakeSamples can be met, clause by clause. -/
theorem wit_CaptureUnitsTakeSamples :
    (∃ (s : State) (u : Fin 8) (x : CapUnit) (l : Nat × Nat), ((s.levels (s.fld .mon Reg.UNIT_SOURCE u.val)).filter
      (fun l => s.flag .mon Reg.UNIT_ANY u.val || s.fld .mon Reg.UNIT_INDEX u.val == l.1 || s.fld .mon
      Reg.UNIT_SOURCE u.val == 13) = [l]) ∧ x = Map.get {} s.units u.val ∧ x.sampledAt ≠ s.now + 1 ∧ x.queue = []) ∧
    (∃ (s : State) (u : Fin 8) (x : CapUnit) (l : Nat × Nat), ((s.levels (s.fld .mon Reg.UNIT_SOURCE u.val)).filter
      (fun l => s.flag .mon Reg.UNIT_ANY u.val || s.fld .mon Reg.UNIT_INDEX u.val == l.1 || s.fld .mon
      Reg.UNIT_SOURCE u.val == 13) = [l]) ∧ x = Map.get {} s.units u.val ∧ (x.sampledAt = s.now + 1 ∨ x.queue ≠ []) ∧
      x.queue.length < 16) ∧
    (∃ (s : State) (u : Fin 8) (x : CapUnit) (l : Nat × Nat), ((s.levels (s.fld .mon Reg.UNIT_SOURCE u.val)).filter
      (fun l => s.flag .mon Reg.UNIT_ANY u.val || s.fld .mon Reg.UNIT_INDEX u.val == l.1 || s.fld .mon
      Reg.UNIT_SOURCE u.val == 13) = [l]) ∧ x = Map.get {} s.units u.val ∧ 16 ≤ x.queue.length) ∧
    (∃ (s : State) (u : Fin 8), ((s.levels (s.fld .mon Reg.UNIT_SOURCE u.val)).filter (fun l => s.flag .mon
      Reg.UNIT_ANY u.val || s.fld .mon Reg.UNIT_INDEX u.val == l.1 || s.fld .mon Reg.UNIT_SOURCE u.val == 13) = [])) ∧
    (∃ (s : State) (u : Fin 8) (v : Word), s.ready .mon = true ∧ s.fld .mon Reg.UNIT_SOURCE u.val = 0 ∧ bits v.toNat
      5 6 ≤ 40 ∧ bits v.toNat 0 4 ≤ 13) ∧
    (∃ (s : State) (u : Fin 8) (v : Word), s.ready .mon = true ∧ bits v.toNat 4 1 = s.fld .mon Reg.UNIT_MODE u.val ∧
      bits v.toNat 5 6 = s.fld .mon Reg.UNIT_SHIFT u.val ∧ bits v.toNat 5 6 ≤ 40 ∧ 14 ≤ bits v.toNat 0 4) ∧
    (∃ (s : State) (u : Fin 8) (v : Word), s.ready .mon = true ∧ s.fld .mon Reg.UNIT_SOURCE u.val ≠ 0 ∧ (bits v.toNat
      4 1 ≠ s.fld .mon Reg.UNIT_MODE u.val ∨ bits v.toNat 5 6 ≠ s.fld .mon Reg.UNIT_SHIFT u.val) ∧ bits v.toNat 0 4 ≤
      13) ∧
    (∃ (s : State) (u : Fin 8) (v : Word), s.ready .mon = true ∧ s.fld .mon Reg.UNIT_SOURCE u.val = 0) ∧
    (∃ (s : State) (u : Fin 8) (v : Word), s.ready .mon = true ∧ s.fld .mon Reg.UNIT_SOURCE u.val = 0) ∧
    (∃ (s : State) (u : Fin 8) (v : Word), s.ready .mon = true ∧ s.fld .mon Reg.UNIT_SOURCE u.val = 0 ∧ 100 ≤
      v.toNat) ∧
    (∃ (s : State) (u : Fin 8) (v : Word), s.ready .mon = true ∧ s.fld .mon Reg.UNIT_SOURCE u.val = 0 ∧ v.toNat <
      100) ∧
    (∃ (s : State) (u : Fin 8) (w : Fin 4) (v : Word), s.ready .mon = true ∧ s.fld .mon Reg.UNIT_SOURCE u.val ≠ 0 ∧ w
      ≠ 0) ∧
    (∃ (s : State) (u : Fin 8) (v : Word), s.ready .mon = true ∧ s.fld .mon Reg.UNIT_SOURCE u.val ≠ 0 ∧ bits v.toNat
      4 1 = s.fld .mon Reg.UNIT_MODE u.val ∧ bits v.toNat 5 6 = s.fld .mon Reg.UNIT_SHIFT u.val ∧ bits v.toNat 0 4 ≤
      13) ∧
    (∃ (s : State) (u : Fin 8) (w : Fin 4) (v : Word), s.ready .mon = false) :=
  ⟨⟨{ (st [(Reg.PG_READY_READY.place .mon, 1), (Reg.PG_READY_READY.place (.tile 3), 1), (Reg.UNIT_SOURCE.place .mon 2, 10), (Reg.UNIT_INDEX.place .mon 2, 6), (Reg.UNIT_ANY.place .mon 2, 0), (Reg.ADMT_QUEUE_DEPTH.place (.admt 6), 77), (Reg.UNIT_BASE.place .mon 2, 70), (Reg.UNIT_SHIFT.place .mon 2, 2)]) with units := [(2, { live := { count := 2 } })], now := 5 },
     2, { live := { count := 2 } }, (6, 77), by decide +kernel⟩,
   ⟨{ (st [(Reg.PG_READY_READY.place .mon, 1), (Reg.PG_READY_READY.place (.tile 3), 1), (Reg.UNIT_SOURCE.place .mon 2, 10), (Reg.UNIT_INDEX.place .mon 2, 6), (Reg.UNIT_ANY.place .mon 2, 0), (Reg.ADMT_QUEUE_DEPTH.place (.admt 6), 77), (Reg.UNIT_BASE.place .mon 2, 70), (Reg.UNIT_SHIFT.place .mon 2, 2)]) with units := [(2, { sampledAt := 6 })], now := 5 },
     2, { sampledAt := 6 }, (6, 77), by decide +kernel⟩,
   ⟨{ (st [(Reg.PG_READY_READY.place .mon, 1), (Reg.PG_READY_READY.place (.tile 3), 1), (Reg.UNIT_SOURCE.place .mon 2, 10), (Reg.UNIT_INDEX.place .mon 2, 6), (Reg.UNIT_ANY.place .mon 2, 0), (Reg.ADMT_QUEUE_DEPTH.place (.admt 6), 77), (Reg.UNIT_BASE.place .mon 2, 70), (Reg.UNIT_SHIFT.place .mon 2, 2)]) with units := [(2, { queue := List.replicate 16 3 })], now := 5 },
     2, { queue := List.replicate 16 3 }, (6, 77), by decide +kernel⟩,
   ⟨st
     [(Reg.PG_READY_READY.place .mon, 1), (Reg.PG_READY_READY.place (.tile 3), 1), (Reg.UNIT_SOURCE.place .mon 2, 10), (Reg.UNIT_INDEX.place .mon 2, 6), (Reg.UNIT_ANY.place .mon 2, 0), (Reg.ADMT_QUEUE_DEPTH.place (.admt 6), 77), (Reg.UNIT_BASE.place .mon 2, 70), (Reg.UNIT_SHIFT.place .mon 2, 2)],
     1, by decide +kernel⟩,
   ⟨{ (st [(Reg.PG_READY_READY.place .mon, 1), (Reg.PG_READY_READY.place (.tile 3), 1)]) with units := [(2, { live := { count := 2 } })] },
     2, 0x512, by decide +kernel⟩,
   ⟨st [(Reg.PG_READY_READY.place .mon, 1), (Reg.PG_READY_READY.place (.tile 3), 1)], 2, 14, by decide +kernel⟩,
   ⟨st
     [(Reg.PG_READY_READY.place .mon, 1), (Reg.PG_READY_READY.place (.tile 3), 1), (Reg.UNIT_SOURCE.place .mon 2, 5)],
     2, 0x10, by decide +kernel⟩,
   ⟨st [(Reg.PG_READY_READY.place .mon, 1), (Reg.PG_READY_READY.place (.tile 3), 1)], 7, 0x12340455,
     by decide +kernel⟩,
   ⟨st [(Reg.PG_READY_READY.place .mon, 1), (Reg.PG_READY_READY.place (.tile 3), 1)], 7, 0x12340455,
     by decide +kernel⟩,
   ⟨st [(Reg.PG_READY_READY.place .mon, 1), (Reg.PG_READY_READY.place (.tile 3), 1)], 7, 100, by decide +kernel⟩,
   ⟨st [(Reg.PG_READY_READY.place .mon, 1), (Reg.PG_READY_READY.place (.tile 3), 1)], 7, 99, by decide +kernel⟩,
   ⟨st
     [(Reg.PG_READY_READY.place .mon, 1), (Reg.PG_READY_READY.place (.tile 3), 1), (Reg.UNIT_SOURCE.place .mon 7, 5)],
     7, 1, 99, by decide +kernel⟩,
   ⟨st
     [(Reg.PG_READY_READY.place .mon, 1), (Reg.PG_READY_READY.place (.tile 3), 1), (Reg.UNIT_SOURCE.place .mon 7, 5)],
     7, 0, by decide +kernel⟩,
   ⟨st [], 7, 1, 99, by decide +kernel⟩⟩

/-- The hypotheses of FencesAreTaken can be met, clause by clause. -/
theorem wit_FencesAreTaken :
    (∃ (s : State) (mask : Word) (n : Nat), s.ready .qrm = true ∧ s.flag .qrm Reg.QRM_CTRL_EN = true ∧ (s.leader =
      some n) ∧ (((partsOf mask.toNat).filter fun p => !s.fenced p && !s.qrm.fencing.any fun f => f.1 == p.val) ≠
      [])) ∧
    (∃ (s : State) (mask : Word), s.ready .qrm = true ∧ (s.flag .qrm Reg.QRM_CTRL_EN = false ∨ s.leader = none ∨
      ((partsOf mask.toNat).filter fun p => !s.fenced p && !s.qrm.fencing.any fun f => f.1 == p.val) = [])) ∧
    (∃ (s : State) (mask : Word), s.ready .qrm = false) ∧
    (∃ (s : State) (p : PartId) (cause : Nat), (s.qrm.fencing.find? (fun f => f.1 == p.val) = some (p.val, cause)) ∧
      (s.mover p).attaching = [] ∧ cause < 256 ∧ s.replays p cause = none ∧ (s.reqs.map (·.reqId)).Nodup ∧ s.noParks) ∧
    (∃ (s : State) (p : PartId) (cause : Nat) (k : Nat) (g : PartId), (s.qrm.fencing.find? (fun f => f.1 == p.val) =
      some (p.val, cause)) ∧ (s.mover p).attaching = [] ∧ cause < 256 ∧ (s.replays p cause = some (k, g)) ∧ g ≠ p ∧
      s.noParks) ∧
    (∃ (s : State) (p : PartId), (s.qrm.fencing.find? (fun f => f.1 == p.val) = none ∨ (s.mover p).attaching ≠ [])) ∧
    (∃ (s : State), (s.fld .qrm Reg.QRM_FENCE_DP_MASK = s.fld .qrm Reg.QRM_FENCE_MIRROR_MASK ∨ s.qrm.diverged =
      false)) ∧
    (∃ (s : State), s.fld .qrm Reg.QRM_FENCE_DP_MASK ≠ s.fld .qrm Reg.QRM_FENCE_MIRROR_MASK ∧ s.qrm.diverged = true) :=
  ⟨⟨{ (st [(Reg.PG_READY_READY.place .qrm, 1), (Reg.QRM_CTRL_EN.place .qrm, 1), (Reg.QRM_WIT_ACTIVE_MASK.place .qrm, 127), (Reg.QRM_WITNESS_NODE.place .qrm 0, 10), (Reg.QRM_WITNESS_VALID.place .qrm 0, 1), (Reg.QRM_WITNESS_NODE.place .qrm 1, 11), (Reg.QRM_WITNESS_VALID.place .qrm 1, 1), (Reg.QRM_WITNESS_NODE.place .qrm 2, 12), (Reg.QRM_WITNESS_VALID.place .qrm 2, 1), (Reg.QRM_WITNESS_NODE.place .qrm 3, 13), (Reg.QRM_WITNESS_VALID.place .qrm 3, 1), (Reg.QRM_WITNESS_NODE.place .qrm 4, 14), (Reg.QRM_WITNESS_VALID.place .qrm 4, 1), (Reg.QRM_WITNESS_NODE.place .qrm 5, 15), (Reg.QRM_WITNESS_VALID.place .qrm 5, 1), (Reg.QRM_WITNESS_NODE.place .qrm 6, 16), (Reg.QRM_WITNESS_VALID.place .qrm 6, 1), (Reg.PORT_STAT_LINK_UP.place (.port 4), 1), (Reg.PORT_STAT_LINK_UP.place (.port 6), 1), (Reg.PORT_STAT_LINK_UP.place (.port 9), 1), (Reg.DEV_NODE_NODE.place .dev, 3)]) with qrm := { fencing := [(4, 1)] } },
     0x14, 10, by decide +kernel⟩,
   ⟨st [(Reg.PG_READY_READY.place .qrm, 1)], 0x14, by decide +kernel⟩,
   ⟨State.reset, 1, by decide +kernel⟩,
   ⟨{ (st [(Reg.PG_READY_READY.place .qrm, 1), (Reg.QRM_CTRL_EN.place .qrm, 1), (Reg.QRM_WIT_ACTIVE_MASK.place .qrm, 127), (Reg.QRM_WITNESS_NODE.place .qrm 0, 10), (Reg.QRM_WITNESS_VALID.place .qrm 0, 1), (Reg.QRM_WITNESS_NODE.place .qrm 1, 11), (Reg.QRM_WITNESS_VALID.place .qrm 1, 1), (Reg.QRM_WITNESS_NODE.place .qrm 2, 12), (Reg.QRM_WITNESS_VALID.place .qrm 2, 1), (Reg.QRM_WITNESS_NODE.place .qrm 3, 13), (Reg.QRM_WITNESS_VALID.place .qrm 3, 1), (Reg.QRM_WITNESS_NODE.place .qrm 4, 14), (Reg.QRM_WITNESS_VALID.place .qrm 4, 1), (Reg.QRM_WITNESS_NODE.place .qrm 5, 15), (Reg.QRM_WITNESS_VALID.place .qrm 5, 1), (Reg.QRM_WITNESS_NODE.place .qrm 6, 16), (Reg.QRM_WITNESS_VALID.place .qrm 6, 1), (Reg.PORT_STAT_LINK_UP.place (.port 4), 1), (Reg.PORT_STAT_LINK_UP.place (.port 6), 1), (Reg.PORT_STAT_LINK_UP.place (.port 9), 1), (Reg.DEV_NODE_NODE.place .dev, 3), (Reg.DISP_ROLE_CUR.place (.disp 5), 2)]) with qrm := { fencing := [(5, 2)] }, qps := [(2561, { st := .rts })], tiles := [(41, { slots := [(3, { st := .running })] })], parts := [(5, { slots := [(3, { valid := true })] })] },
     5, 2, by decide +kernel⟩,
   ⟨{ (st [(Reg.PG_READY_READY.place .qrm, 1), (Reg.QRM_CTRL_EN.place .qrm, 1), (Reg.QRM_WIT_ACTIVE_MASK.place .qrm, 127), (Reg.QRM_WITNESS_NODE.place .qrm 0, 10), (Reg.QRM_WITNESS_VALID.place .qrm 0, 1), (Reg.QRM_WITNESS_NODE.place .qrm 1, 11), (Reg.QRM_WITNESS_VALID.place .qrm 1, 1), (Reg.QRM_WITNESS_NODE.place .qrm 2, 12), (Reg.QRM_WITNESS_VALID.place .qrm 2, 1), (Reg.QRM_WITNESS_NODE.place .qrm 3, 13), (Reg.QRM_WITNESS_VALID.place .qrm 3, 1), (Reg.QRM_WITNESS_NODE.place .qrm 4, 14), (Reg.QRM_WITNESS_VALID.place .qrm 4, 1), (Reg.QRM_WITNESS_NODE.place .qrm 5, 15), (Reg.QRM_WITNESS_VALID.place .qrm 5, 1), (Reg.QRM_WITNESS_NODE.place .qrm 6, 16), (Reg.QRM_WITNESS_VALID.place .qrm 6, 1), (Reg.PORT_STAT_LINK_UP.place (.port 4), 1), (Reg.PORT_STAT_LINK_UP.place (.port 6), 1), (Reg.PORT_STAT_LINK_UP.place (.port 9), 1), (Reg.DEV_NODE_NODE.place .dev, 3), (Reg.DISP_ROLE_CUR.place (.disp 5), 2), (Reg.DISP_ROLE_CUR.place (.disp 9), 2), (Reg.DISP_ROLE_TARGET.place (.disp 9), 2), (Reg.DISP_ROLE_STATE.place (.disp 9), 0), (Reg.QRM_REPLAY_MASK.place .qrm, 32), (Reg.QRM_SPARE_VALID.place .qrm 2, 1), (Reg.QRM_SPARE_PART.place .qrm 2, 9), (Reg.PG_READY_READY.place (.disp 9), 1)]) with qrm := { fencing := [(5, 4)] } },
     5, 4, 2, 9, by decide +kernel⟩,
   ⟨{ (st [(Reg.PG_READY_READY.place .qrm, 1), (Reg.QRM_CTRL_EN.place .qrm, 1), (Reg.QRM_WIT_ACTIVE_MASK.place .qrm, 127), (Reg.QRM_WITNESS_NODE.place .qrm 0, 10), (Reg.QRM_WITNESS_VALID.place .qrm 0, 1), (Reg.QRM_WITNESS_NODE.place .qrm 1, 11), (Reg.QRM_WITNESS_VALID.place .qrm 1, 1), (Reg.QRM_WITNESS_NODE.place .qrm 2, 12), (Reg.QRM_WITNESS_VALID.place .qrm 2, 1), (Reg.QRM_WITNESS_NODE.place .qrm 3, 13), (Reg.QRM_WITNESS_VALID.place .qrm 3, 1), (Reg.QRM_WITNESS_NODE.place .qrm 4, 14), (Reg.QRM_WITNESS_VALID.place .qrm 4, 1), (Reg.QRM_WITNESS_NODE.place .qrm 5, 15), (Reg.QRM_WITNESS_VALID.place .qrm 5, 1), (Reg.QRM_WITNESS_NODE.place .qrm 6, 16), (Reg.QRM_WITNESS_VALID.place .qrm 6, 1), (Reg.PORT_STAT_LINK_UP.place (.port 4), 1), (Reg.PORT_STAT_LINK_UP.place (.port 6), 1), (Reg.PORT_STAT_LINK_UP.place (.port 9), 1), (Reg.DEV_NODE_NODE.place .dev, 3)]) with qrm := { fencing := [(6, 2)] } },
     5, by decide +kernel⟩,
   ⟨st
     [(Reg.PG_READY_READY.place .qrm, 1), (Reg.QRM_CTRL_EN.place .qrm, 1), (Reg.QRM_WIT_ACTIVE_MASK.place .qrm, 127), (Reg.QRM_WITNESS_NODE.place .qrm 0, 10), (Reg.QRM_WITNESS_VALID.place .qrm 0, 1), (Reg.QRM_WITNESS_NODE.place .qrm 1, 11), (Reg.QRM_WITNESS_VALID.place .qrm 1, 1), (Reg.QRM_WITNESS_NODE.place .qrm 2, 12), (Reg.QRM_WITNESS_VALID.place .qrm 2, 1), (Reg.QRM_WITNESS_NODE.place .qrm 3, 13), (Reg.QRM_WITNESS_VALID.place .qrm 3, 1), (Reg.QRM_WITNESS_NODE.place .qrm 4, 14), (Reg.QRM_WITNESS_VALID.place .qrm 4, 1), (Reg.QRM_WITNESS_NODE.place .qrm 5, 15), (Reg.QRM_WITNESS_VALID.place .qrm 5, 1), (Reg.QRM_WITNESS_NODE.place .qrm 6, 16), (Reg.QRM_WITNESS_VALID.place .qrm 6, 1), (Reg.PORT_STAT_LINK_UP.place (.port 4), 1), (Reg.PORT_STAT_LINK_UP.place (.port 6), 1), (Reg.PORT_STAT_LINK_UP.place (.port 9), 1), (Reg.DEV_NODE_NODE.place .dev, 3), (Reg.QRM_FENCE_DP_MASK.place .qrm, 32)],
     by decide +kernel⟩,
   ⟨{ (st [(Reg.PG_READY_READY.place .qrm, 1), (Reg.QRM_CTRL_EN.place .qrm, 1), (Reg.QRM_WIT_ACTIVE_MASK.place .qrm, 127), (Reg.QRM_WITNESS_NODE.place .qrm 0, 10), (Reg.QRM_WITNESS_VALID.place .qrm 0, 1), (Reg.QRM_WITNESS_NODE.place .qrm 1, 11), (Reg.QRM_WITNESS_VALID.place .qrm 1, 1), (Reg.QRM_WITNESS_NODE.place .qrm 2, 12), (Reg.QRM_WITNESS_VALID.place .qrm 2, 1), (Reg.QRM_WITNESS_NODE.place .qrm 3, 13), (Reg.QRM_WITNESS_VALID.place .qrm 3, 1), (Reg.QRM_WITNESS_NODE.place .qrm 4, 14), (Reg.QRM_WITNESS_VALID.place .qrm 4, 1), (Reg.QRM_WITNESS_NODE.place .qrm 5, 15), (Reg.QRM_WITNESS_VALID.place .qrm 5, 1), (Reg.QRM_WITNESS_NODE.place .qrm 6, 16), (Reg.QRM_WITNESS_VALID.place .qrm 6, 1), (Reg.PORT_STAT_LINK_UP.place (.port 4), 1), (Reg.PORT_STAT_LINK_UP.place (.port 6), 1), (Reg.PORT_STAT_LINK_UP.place (.port 9), 1), (Reg.DEV_NODE_NODE.place .dev, 3), (Reg.QRM_FENCE_DP_MASK.place .qrm, 64)]) with qrm := { diverged := true, table := [(101, 4)] } },
     by decide +kernel⟩⟩

/-- The hypotheses of HeartbeatsAreJudged can be met, clause by clause. -/
theorem wit_HeartbeatsAreJudged :
    (∃ (s : State) (p : PartId), s.ready .qrm = true) ∧
    (∃ (s : State) (mask : Word) (n : Nat), s.ready .qrm = true ∧ s.inQrm = true ∧ (s.leader = some n)) ∧
    (∃ (s : State) (p : PartId) (mask : Word), (s.ready .qrm = false ∨ s.inQrm = false ∨ s.leader = none)) ∧
    (∃ (s : State), s.inQrm = true ∧ s.isWitness = false ∧ 4 ≤ s.qrm.acks.length) ∧
    (∃ (s : State), s.inQrm = true ∧ s.isWitness = false ∧ s.qrm.acks.length < 4 ∧ s.qrm.badIntervals ≠ 2) ∧
    (∃ (s : State), s.inQrm = true ∧ s.isWitness = false ∧ s.qrm.acks.length < 4 ∧ s.qrm.badIntervals = 2) ∧
    (∃ (s : State), s.inQrm = true ∧ s.isWitness = true ∧ s.leads = false ∧ (Map.wf (fun _ => 0) s.qrm.missed =
      true)) ∧
    (∃ (s : State), s.inQrm = true) ∧
    (∃ (s : State), s.inQrm = false) ∧
    (∃ (s : State) (h : QHdr) (alive : Word), s.inQrm = true ∧ s.qrm.seen.contains (h.src, h.seq) = false ∧
      s.isWitness = true) ∧
    (∃ (s : State) (h : QHdr) (alive : Word) (n : Nat) (k : Fin 32), s.inQrm = true ∧ s.qrm.seen.contains (h.src,
      h.seq) = false ∧ s.isWitness = true ∧ (s.leader = some n) ∧ alive = ~~~(BitVec.ofNat 32 (2 ^ k.val)) ∧ Map.get
      0 s.qrm.clear (h.src * 32 + k.val) = 4 ∧ s.tabled h.src k.val = false) ∧
    (∃ (s : State) (h : QHdr) (alive : Word), s.inQrm = true ∧ s.qrm.seen.contains (h.src, h.seq) = false ∧
      s.isWitness = false) ∧
    (∃ (s : State) (h : QHdr), s.inQrm = true ∧ s.qrm.seen.contains (h.src, h.seq) = false ∧ s.witnesses.contains
      h.src = true ∧ (¬ (s.epoch = 0 ∧ 0 < h.epoch ∧ s.qrm.peerEpoch = 0))) ∧
    (∃ (s : State) (h : QHdr) (n : Nat), s.inQrm = true ∧ s.qrm.seen.contains (h.src, h.seq) = false ∧
      s.witnesses.contains h.src = true ∧ s.epoch = 0 ∧ 0 < h.epoch ∧ s.qrm.peerEpoch = 0 ∧ (s.leader = some n)) ∧
    (∃ (s : State) (h : QHdr), s.inQrm = true ∧ s.qrm.seen.contains (h.src, h.seq) = false ∧ s.witnesses.contains
      h.src = false) ∧
    (∃ (s : State) (h : QHdr) (m : Word) (n : Nat) (c : Fin 8) (d : QDecision) (b : Bool) (l : List (Nat × PartId ×
      Nat)), (s.inQrm = false ∨ (h.src, h.seq) ∈ s.qrm.seen)) :=
  ⟨⟨st
     [(Reg.PG_READY_READY.place .qrm, 1), (Reg.QRM_CTRL_EN.place .qrm, 1), (Reg.QRM_WIT_ACTIVE_MASK.place .qrm, 127), (Reg.QRM_WITNESS_NODE.place .qrm 0, 10), (Reg.QRM_WITNESS_VALID.place .qrm 0, 1), (Reg.QRM_WITNESS_NODE.place .qrm 1, 11), (Reg.QRM_WITNESS_VALID.place .qrm 1, 1), (Reg.QRM_WITNESS_NODE.place .qrm 2, 12), (Reg.QRM_WITNESS_VALID.place .qrm 2, 1), (Reg.QRM_WITNESS_NODE.place .qrm 3, 13), (Reg.QRM_WITNESS_VALID.place .qrm 3, 1), (Reg.QRM_WITNESS_NODE.place .qrm 4, 14), (Reg.QRM_WITNESS_VALID.place .qrm 4, 1), (Reg.QRM_WITNESS_NODE.place .qrm 5, 15), (Reg.QRM_WITNESS_VALID.place .qrm 5, 1), (Reg.QRM_WITNESS_NODE.place .qrm 6, 16), (Reg.QRM_WITNESS_VALID.place .qrm 6, 1), (Reg.PORT_STAT_LINK_UP.place (.port 4), 1), (Reg.PORT_STAT_LINK_UP.place (.port 6), 1), (Reg.PORT_STAT_LINK_UP.place (.port 9), 1), (Reg.DEV_NODE_NODE.place .dev, 3)],
     5, by decide +kernel⟩,
   ⟨st
     [(Reg.PG_READY_READY.place .qrm, 1), (Reg.QRM_CTRL_EN.place .qrm, 1), (Reg.QRM_WIT_ACTIVE_MASK.place .qrm, 127), (Reg.QRM_WITNESS_NODE.place .qrm 0, 10), (Reg.QRM_WITNESS_VALID.place .qrm 0, 1), (Reg.QRM_WITNESS_NODE.place .qrm 1, 11), (Reg.QRM_WITNESS_VALID.place .qrm 1, 1), (Reg.QRM_WITNESS_NODE.place .qrm 2, 12), (Reg.QRM_WITNESS_VALID.place .qrm 2, 1), (Reg.QRM_WITNESS_NODE.place .qrm 3, 13), (Reg.QRM_WITNESS_VALID.place .qrm 3, 1), (Reg.QRM_WITNESS_NODE.place .qrm 4, 14), (Reg.QRM_WITNESS_VALID.place .qrm 4, 1), (Reg.QRM_WITNESS_NODE.place .qrm 5, 15), (Reg.QRM_WITNESS_VALID.place .qrm 5, 1), (Reg.QRM_WITNESS_NODE.place .qrm 6, 16), (Reg.QRM_WITNESS_VALID.place .qrm 6, 1), (Reg.PORT_STAT_LINK_UP.place (.port 4), 1), (Reg.PORT_STAT_LINK_UP.place (.port 6), 1), (Reg.PORT_STAT_LINK_UP.place (.port 9), 1), (Reg.DEV_NODE_NODE.place .dev, 3)],
     6, 10, by decide +kernel⟩,
   ⟨State.reset, 2, 1, by decide +kernel⟩,
   ⟨{ (st [(Reg.PG_READY_READY.place .qrm, 1), (Reg.QRM_CTRL_EN.place .qrm, 1), (Reg.QRM_WIT_ACTIVE_MASK.place .qrm, 127), (Reg.QRM_WITNESS_NODE.place .qrm 0, 10), (Reg.QRM_WITNESS_VALID.place .qrm 0, 1), (Reg.QRM_WITNESS_NODE.place .qrm 1, 11), (Reg.QRM_WITNESS_VALID.place .qrm 1, 1), (Reg.QRM_WITNESS_NODE.place .qrm 2, 12), (Reg.QRM_WITNESS_VALID.place .qrm 2, 1), (Reg.QRM_WITNESS_NODE.place .qrm 3, 13), (Reg.QRM_WITNESS_VALID.place .qrm 3, 1), (Reg.QRM_WITNESS_NODE.place .qrm 4, 14), (Reg.QRM_WITNESS_VALID.place .qrm 4, 1), (Reg.QRM_WITNESS_NODE.place .qrm 5, 15), (Reg.QRM_WITNESS_VALID.place .qrm 5, 1), (Reg.QRM_WITNESS_NODE.place .qrm 6, 16), (Reg.QRM_WITNESS_VALID.place .qrm 6, 1), (Reg.PORT_STAT_LINK_UP.place (.port 4), 1), (Reg.PORT_STAT_LINK_UP.place (.port 6), 1), (Reg.PORT_STAT_LINK_UP.place (.port 9), 1), (Reg.DEV_NODE_NODE.place .dev, 3)]) with qrm := { acks := [10, 11, 12, 13], badIntervals := 2, pcBeat := [4] } },
     by decide +kernel⟩,
   ⟨{ (st [(Reg.PG_READY_READY.place .qrm, 1), (Reg.QRM_CTRL_EN.place .qrm, 1), (Reg.QRM_WIT_ACTIVE_MASK.place .qrm, 127), (Reg.QRM_WITNESS_NODE.place .qrm 0, 10), (Reg.QRM_WITNESS_VALID.place .qrm 0, 1), (Reg.QRM_WITNESS_NODE.place .qrm 1, 11), (Reg.QRM_WITNESS_VALID.place .qrm 1, 1), (Reg.QRM_WITNESS_NODE.place .qrm 2, 12), (Reg.QRM_WITNESS_VALID.place .qrm 2, 1), (Reg.QRM_WITNESS_NODE.place .qrm 3, 13), (Reg.QRM_WITNESS_VALID.place .qrm 3, 1), (Reg.QRM_WITNESS_NODE.place .qrm 4, 14), (Reg.QRM_WITNESS_VALID.place .qrm 4, 1), (Reg.QRM_WITNESS_NODE.place .qrm 5, 15), (Reg.QRM_WITNESS_VALID.place .qrm 5, 1), (Reg.QRM_WITNESS_NODE.place .qrm 6, 16), (Reg.QRM_WITNESS_VALID.place .qrm 6, 1), (Reg.PORT_STAT_LINK_UP.place (.port 4), 1), (Reg.PORT_STAT_LINK_UP.place (.port 6), 1), (Reg.PORT_STAT_LINK_UP.place (.port 9), 1), (Reg.DEV_NODE_NODE.place .dev, 3), (Reg.QRM_STAT_IN_QUORUM.place .qrm, 1)]) with qrm := { acks := [10, 11, 12], badIntervals := 1 } },
     by decide +kernel⟩,
   ⟨{ (st [(Reg.PG_READY_READY.place .qrm, 1), (Reg.QRM_CTRL_EN.place .qrm, 1), (Reg.QRM_WIT_ACTIVE_MASK.place .qrm, 127), (Reg.QRM_WITNESS_NODE.place .qrm 0, 10), (Reg.QRM_WITNESS_VALID.place .qrm 0, 1), (Reg.QRM_WITNESS_NODE.place .qrm 1, 11), (Reg.QRM_WITNESS_VALID.place .qrm 1, 1), (Reg.QRM_WITNESS_NODE.place .qrm 2, 12), (Reg.QRM_WITNESS_VALID.place .qrm 2, 1), (Reg.QRM_WITNESS_NODE.place .qrm 3, 13), (Reg.QRM_WITNESS_VALID.place .qrm 3, 1), (Reg.QRM_WITNESS_NODE.place .qrm 4, 14), (Reg.QRM_WITNESS_VALID.place .qrm 4, 1), (Reg.QRM_WITNESS_NODE.place .qrm 5, 15), (Reg.QRM_WITNESS_VALID.place .qrm 5, 1), (Reg.QRM_WITNESS_NODE.place .qrm 6, 16), (Reg.QRM_WITNESS_VALID.place .qrm 6, 1), (Reg.PORT_STAT_LINK_UP.place (.port 4), 1), (Reg.PORT_STAT_LINK_UP.place (.port 6), 1), (Reg.PORT_STAT_LINK_UP.place (.port 9), 1), (Reg.DEV_NODE_NODE.place .dev, 3), (Reg.QRM_FENCE_DP_MASK.place .qrm, 8)]) with qrm := { acks := [10, 11, 12], badIntervals := 2, fencing := [(4, 1)] } },
     by decide +kernel⟩,
   ⟨{ (st [(Reg.PG_READY_READY.place .qrm, 1), (Reg.QRM_CTRL_EN.place .qrm, 1), (Reg.QRM_WIT_ACTIVE_MASK.place .qrm, 127), (Reg.QRM_WITNESS_NODE.place .qrm 0, 10), (Reg.QRM_WITNESS_VALID.place .qrm 0, 1), (Reg.QRM_WITNESS_NODE.place .qrm 1, 11), (Reg.QRM_WITNESS_VALID.place .qrm 1, 1), (Reg.QRM_WITNESS_NODE.place .qrm 2, 12), (Reg.QRM_WITNESS_VALID.place .qrm 2, 1), (Reg.QRM_WITNESS_NODE.place .qrm 3, 13), (Reg.QRM_WITNESS_VALID.place .qrm 3, 1), (Reg.QRM_WITNESS_NODE.place .qrm 4, 14), (Reg.QRM_WITNESS_VALID.place .qrm 4, 1), (Reg.QRM_WITNESS_NODE.place .qrm 5, 15), (Reg.QRM_WITNESS_VALID.place .qrm 5, 1), (Reg.QRM_WITNESS_NODE.place .qrm 6, 16), (Reg.QRM_WITNESS_VALID.place .qrm 6, 1), (Reg.PORT_STAT_LINK_UP.place (.port 4), 1), (Reg.PORT_STAT_LINK_UP.place (.port 6), 1), (Reg.PORT_STAT_LINK_UP.place (.port 9), 1), (Reg.DEV_NODE_NODE.place .dev, 11)]) with qrm := { acks := [10, 11, 12, 13], missed := [(3, 47), (7, 34)], heard := [7] } },
     by decide +kernel⟩,
   ⟨{ (st [(Reg.PG_READY_READY.place .qrm, 1), (Reg.QRM_CTRL_EN.place .qrm, 1), (Reg.QRM_WIT_ACTIVE_MASK.place .qrm, 127), (Reg.QRM_WITNESS_NODE.place .qrm 0, 10), (Reg.QRM_WITNESS_VALID.place .qrm 0, 1), (Reg.QRM_WITNESS_NODE.place .qrm 1, 11), (Reg.QRM_WITNESS_VALID.place .qrm 1, 1), (Reg.QRM_WITNESS_NODE.place .qrm 2, 12), (Reg.QRM_WITNESS_VALID.place .qrm 2, 1), (Reg.QRM_WITNESS_NODE.place .qrm 3, 13), (Reg.QRM_WITNESS_VALID.place .qrm 3, 1), (Reg.QRM_WITNESS_NODE.place .qrm 4, 14), (Reg.QRM_WITNESS_VALID.place .qrm 4, 1), (Reg.QRM_WITNESS_NODE.place .qrm 5, 15), (Reg.QRM_WITNESS_VALID.place .qrm 5, 1), (Reg.QRM_WITNESS_NODE.place .qrm 6, 16), (Reg.QRM_WITNESS_VALID.place .qrm 6, 1), (Reg.PORT_STAT_LINK_UP.place (.port 4), 1), (Reg.PORT_STAT_LINK_UP.place (.port 6), 1), (Reg.PORT_STAT_LINK_UP.place (.port 9), 1), (Reg.DEV_NODE_NODE.place .dev, 10)]) with qrm := { acks := [10, 11, 12, 13], missed := [(3, 47), (7, 34)], heard := [7] } },
     by decide +kernel⟩,
   ⟨State.reset, by decide +kernel⟩,
   ⟨{ (st [(Reg.PG_READY_READY.place .qrm, 1), (Reg.QRM_CTRL_EN.place .qrm, 1), (Reg.QRM_WIT_ACTIVE_MASK.place .qrm, 127), (Reg.QRM_WITNESS_NODE.place .qrm 0, 10), (Reg.QRM_WITNESS_VALID.place .qrm 0, 1), (Reg.QRM_WITNESS_NODE.place .qrm 1, 11), (Reg.QRM_WITNESS_VALID.place .qrm 1, 1), (Reg.QRM_WITNESS_NODE.place .qrm 2, 12), (Reg.QRM_WITNESS_VALID.place .qrm 2, 1), (Reg.QRM_WITNESS_NODE.place .qrm 3, 13), (Reg.QRM_WITNESS_VALID.place .qrm 3, 1), (Reg.QRM_WITNESS_NODE.place .qrm 4, 14), (Reg.QRM_WITNESS_VALID.place .qrm 4, 1), (Reg.QRM_WITNESS_NODE.place .qrm 5, 15), (Reg.QRM_WITNESS_VALID.place .qrm 5, 1), (Reg.QRM_WITNESS_NODE.place .qrm 6, 16), (Reg.QRM_WITNESS_VALID.place .qrm 6, 1), (Reg.PORT_STAT_LINK_UP.place (.port 4), 1), (Reg.PORT_STAT_LINK_UP.place (.port 6), 1), (Reg.PORT_STAT_LINK_UP.place (.port 9), 1), (Reg.DEV_NODE_NODE.place .dev, 11)]) with qrm := { clear := [(98, 4)] } },
     { src := 3, dst := 11, seq := 77, epoch := 0 }, 0xFFFFFFFB, by decide +kernel⟩,
   ⟨{ (st [(Reg.PG_READY_READY.place .qrm, 1), (Reg.QRM_CTRL_EN.place .qrm, 1), (Reg.QRM_WIT_ACTIVE_MASK.place .qrm, 127), (Reg.QRM_WITNESS_NODE.place .qrm 0, 10), (Reg.QRM_WITNESS_VALID.place .qrm 0, 1), (Reg.QRM_WITNESS_NODE.place .qrm 1, 11), (Reg.QRM_WITNESS_VALID.place .qrm 1, 1), (Reg.QRM_WITNESS_NODE.place .qrm 2, 12), (Reg.QRM_WITNESS_VALID.place .qrm 2, 1), (Reg.QRM_WITNESS_NODE.place .qrm 3, 13), (Reg.QRM_WITNESS_VALID.place .qrm 3, 1), (Reg.QRM_WITNESS_NODE.place .qrm 4, 14), (Reg.QRM_WITNESS_VALID.place .qrm 4, 1), (Reg.QRM_WITNESS_NODE.place .qrm 5, 15), (Reg.QRM_WITNESS_VALID.place .qrm 5, 1), (Reg.QRM_WITNESS_NODE.place .qrm 6, 16), (Reg.QRM_WITNESS_VALID.place .qrm 6, 1), (Reg.PORT_STAT_LINK_UP.place (.port 4), 1), (Reg.PORT_STAT_LINK_UP.place (.port 6), 1), (Reg.PORT_STAT_LINK_UP.place (.port 9), 1), (Reg.DEV_NODE_NODE.place .dev, 11)]) with qrm := { clear := [(98, 4)] } },
     { src := 3, dst := 11, seq := 77, epoch := 0 }, 0xFFFFFFFB, 10, 2, by decide +kernel⟩,
   ⟨st
     [(Reg.PG_READY_READY.place .qrm, 1), (Reg.QRM_CTRL_EN.place .qrm, 1), (Reg.QRM_WIT_ACTIVE_MASK.place .qrm, 127), (Reg.QRM_WITNESS_NODE.place .qrm 0, 10), (Reg.QRM_WITNESS_VALID.place .qrm 0, 1), (Reg.QRM_WITNESS_NODE.place .qrm 1, 11), (Reg.QRM_WITNESS_VALID.place .qrm 1, 1), (Reg.QRM_WITNESS_NODE.place .qrm 2, 12), (Reg.QRM_WITNESS_VALID.place .qrm 2, 1), (Reg.QRM_WITNESS_NODE.place .qrm 3, 13), (Reg.QRM_WITNESS_VALID.place .qrm 3, 1), (Reg.QRM_WITNESS_NODE.place .qrm 4, 14), (Reg.QRM_WITNESS_VALID.place .qrm 4, 1), (Reg.QRM_WITNESS_NODE.place .qrm 5, 15), (Reg.QRM_WITNESS_VALID.place .qrm 5, 1), (Reg.QRM_WITNESS_NODE.place .qrm 6, 16), (Reg.QRM_WITNESS_VALID.place .qrm 6, 1), (Reg.PORT_STAT_LINK_UP.place (.port 4), 1), (Reg.PORT_STAT_LINK_UP.place (.port 6), 1), (Reg.PORT_STAT_LINK_UP.place (.port 9), 1), (Reg.DEV_NODE_NODE.place .dev, 3)],
     { src := 4, dst := 3, seq := 77, epoch := 0 }, 0, by decide +kernel⟩,
   ⟨{ (st [(Reg.PG_READY_READY.place .qrm, 1), (Reg.QRM_CTRL_EN.place .qrm, 1), (Reg.QRM_WIT_ACTIVE_MASK.place .qrm, 127), (Reg.QRM_WITNESS_NODE.place .qrm 0, 10), (Reg.QRM_WITNESS_VALID.place .qrm 0, 1), (Reg.QRM_WITNESS_NODE.place .qrm 1, 11), (Reg.QRM_WITNESS_VALID.place .qrm 1, 1), (Reg.QRM_WITNESS_NODE.place .qrm 2, 12), (Reg.QRM_WITNESS_VALID.place .qrm 2, 1), (Reg.QRM_WITNESS_NODE.place .qrm 3, 13), (Reg.QRM_WITNESS_VALID.place .qrm 3, 1), (Reg.QRM_WITNESS_NODE.place .qrm 4, 14), (Reg.QRM_WITNESS_VALID.place .qrm 4, 1), (Reg.QRM_WITNESS_NODE.place .qrm 5, 15), (Reg.QRM_WITNESS_VALID.place .qrm 5, 1), (Reg.QRM_WITNESS_NODE.place .qrm 6, 16), (Reg.QRM_WITNESS_VALID.place .qrm 6, 1), (Reg.PORT_STAT_LINK_UP.place (.port 4), 1), (Reg.PORT_STAT_LINK_UP.place (.port 6), 1), (Reg.PORT_STAT_LINK_UP.place (.port 9), 1), (Reg.DEV_NODE_NODE.place .dev, 3)]) with qrm := { acks := [10, 11, 12] } },
     { src := 13, dst := 3, seq := 77, epoch := 0 }, by decide +kernel⟩,
   ⟨{ (st [(Reg.PG_READY_READY.place .qrm, 1), (Reg.QRM_CTRL_EN.place .qrm, 1), (Reg.QRM_WIT_ACTIVE_MASK.place .qrm, 127), (Reg.QRM_WITNESS_NODE.place .qrm 0, 10), (Reg.QRM_WITNESS_VALID.place .qrm 0, 1), (Reg.QRM_WITNESS_NODE.place .qrm 1, 11), (Reg.QRM_WITNESS_VALID.place .qrm 1, 1), (Reg.QRM_WITNESS_NODE.place .qrm 2, 12), (Reg.QRM_WITNESS_VALID.place .qrm 2, 1), (Reg.QRM_WITNESS_NODE.place .qrm 3, 13), (Reg.QRM_WITNESS_VALID.place .qrm 3, 1), (Reg.QRM_WITNESS_NODE.place .qrm 4, 14), (Reg.QRM_WITNESS_VALID.place .qrm 4, 1), (Reg.QRM_WITNESS_NODE.place .qrm 5, 15), (Reg.QRM_WITNESS_VALID.place .qrm 5, 1), (Reg.QRM_WITNESS_NODE.place .qrm 6, 16), (Reg.QRM_WITNESS_VALID.place .qrm 6, 1), (Reg.PORT_STAT_LINK_UP.place (.port 4), 1), (Reg.PORT_STAT_LINK_UP.place (.port 6), 1), (Reg.PORT_STAT_LINK_UP.place (.port 9), 1), (Reg.DEV_NODE_NODE.place .dev, 3)]) with qrm := { acks := [10, 12] } },
     { src := 13, dst := 3, seq := 77, epoch := 9 }, 10, by decide +kernel⟩,
   ⟨st
     [(Reg.PG_READY_READY.place .qrm, 1), (Reg.QRM_CTRL_EN.place .qrm, 1), (Reg.QRM_WIT_ACTIVE_MASK.place .qrm, 127), (Reg.QRM_WITNESS_NODE.place .qrm 0, 10), (Reg.QRM_WITNESS_VALID.place .qrm 0, 1), (Reg.QRM_WITNESS_NODE.place .qrm 1, 11), (Reg.QRM_WITNESS_VALID.place .qrm 1, 1), (Reg.QRM_WITNESS_NODE.place .qrm 2, 12), (Reg.QRM_WITNESS_VALID.place .qrm 2, 1), (Reg.QRM_WITNESS_NODE.place .qrm 3, 13), (Reg.QRM_WITNESS_VALID.place .qrm 3, 1), (Reg.QRM_WITNESS_NODE.place .qrm 4, 14), (Reg.QRM_WITNESS_VALID.place .qrm 4, 1), (Reg.QRM_WITNESS_NODE.place .qrm 5, 15), (Reg.QRM_WITNESS_VALID.place .qrm 5, 1), (Reg.QRM_WITNESS_NODE.place .qrm 6, 16), (Reg.QRM_WITNESS_VALID.place .qrm 6, 1), (Reg.PORT_STAT_LINK_UP.place (.port 4), 1), (Reg.PORT_STAT_LINK_UP.place (.port 6), 1), (Reg.PORT_STAT_LINK_UP.place (.port 9), 1), (Reg.DEV_NODE_NODE.place .dev, 3)],
     { src := 18, dst := 3, seq := 77, epoch := 9 }, by decide +kernel⟩,
   ⟨{ (st [(Reg.PG_READY_READY.place .qrm, 1), (Reg.QRM_CTRL_EN.place .qrm, 1), (Reg.QRM_WIT_ACTIVE_MASK.place .qrm, 127), (Reg.QRM_WITNESS_NODE.place .qrm 0, 10), (Reg.QRM_WITNESS_VALID.place .qrm 0, 1), (Reg.QRM_WITNESS_NODE.place .qrm 1, 11), (Reg.QRM_WITNESS_VALID.place .qrm 1, 1), (Reg.QRM_WITNESS_NODE.place .qrm 2, 12), (Reg.QRM_WITNESS_VALID.place .qrm 2, 1), (Reg.QRM_WITNESS_NODE.place .qrm 3, 13), (Reg.QRM_WITNESS_VALID.place .qrm 3, 1), (Reg.QRM_WITNESS_NODE.place .qrm 4, 14), (Reg.QRM_WITNESS_VALID.place .qrm 4, 1), (Reg.QRM_WITNESS_NODE.place .qrm 5, 15), (Reg.QRM_WITNESS_VALID.place .qrm 5, 1), (Reg.QRM_WITNESS_NODE.place .qrm 6, 16), (Reg.QRM_WITNESS_VALID.place .qrm 6, 1), (Reg.PORT_STAT_LINK_UP.place (.port 4), 1), (Reg.PORT_STAT_LINK_UP.place (.port 6), 1), (Reg.PORT_STAT_LINK_UP.place (.port 9), 1), (Reg.DEV_NODE_NODE.place .dev, 3)]) with qrm := { seen := [(4, 77)] } },
     { src := 4, dst := 3, seq := 77, epoch := 0 }, 1, 2, 1,
     { epoch := 1, fence := [], unfence := [], replace := [] }, true, [], by decide +kernel⟩⟩

/-- The hypotheses of DecisionsAreProposedAndVoted can be met, clause by clause. -/
theorem wit_DecisionsAreProposedAndVoted :
    (∃ (s : State) (h : QHdr) (n : Nat) (m : Word), s.inQrm = true ∧ s.qrm.seen.contains (h.src, h.seq) = false ∧
      s.leads = true) ∧
    (∃ (s : State) (h : QHdr) (n : Nat) (m : Word), s.inQrm = true ∧ s.qrm.seen.contains (h.src, h.seq) = false ∧
      s.leads = true ∧ s.qrm.prop = none ∧ s.qrm.suspected = [] ∧ s.qrm.unfenceReqs = [] ∧ s.notTabled n m.toNat =
      m.toNat ∧ m ≠ 0 ∧ s.accepts
      ({ epoch := s.epoch + 1, fence := [(n, m)], unfence := [], replace := s.replacements [(n, m)] }) = true) ∧
    (∃ (s : State) (h : QHdr) (n : Nat) (m : Word), s.inQrm = true ∧ s.qrm.seen.contains (h.src, h.seq) = false ∧
      s.leads = false) ∧
    (∃ (s : State) (h : QHdr) (w : Nat) (m : Word) (c : Fin 8), s.inQrm = true ∧ s.qrm.seen.contains (h.src, h.seq) =
      false ∧ c ≠ 0) ∧
    (∃ (s : State) (h : QHdr) (n : Nat) (m : Word) (c : Fin 8), s.inQrm = true ∧ s.qrm.seen.contains (h.src, h.seq) =
      false ∧ c ≠ 0 ∧ s.leads = true ∧ s.qrm.prop = none ∧ s.qrm.suspected = [] ∧ s.qrm.unfenceReqs = [] ∧
      s.notTabled n m.toNat = m.toNat ∧ m ≠ 0) ∧
    (∃ (s : State) (h : QHdr) (w : Nat) (m : Word) (c : Fin 8), s.inQrm = true ∧ s.qrm.seen.contains (h.src, h.seq) =
      false ∧ c = 0) ∧
    (∃ (s : State) (h : QHdr) (m : Word), s.inQrm = true ∧ s.qrm.seen.contains (h.src, h.seq) = false ∧ s.leads =
      true) ∧
    (∃ (s : State) (h : QHdr) (m : Word), s.inQrm = true ∧ s.qrm.seen.contains (h.src, h.seq) = false ∧ s.leads =
      false) ∧
    (∃ (s : State) (h : QHdr) (d : QDecision), s.inQrm = true ∧ s.qrm.seen.contains (h.src, h.seq) = false ∧
      s.isWitness = true) ∧
    (∃ (s : State) (h : QHdr) (d : QDecision), s.inQrm = true ∧ s.qrm.seen.contains (h.src, h.seq) = false ∧
      s.isWitness = false) ∧
    (∃ (s : State) (h : QHdr) (e : Nat) (b : Bool) (d : QDecision) (l : List Nat), s.inQrm = true ∧
      s.qrm.seen.contains (h.src, h.seq) = false ∧ (s.qrm.prop = some (d, l)) ∧ d.epoch = e ∧ b = true ∧
      s.witnesses.contains h.src = true ∧ s.leads = true ∧ ((h.src :: l.filter (· ≠ h.src)).length < 4 ∨ s.node ∉
      (h.src :: l.filter (· ≠ h.src)))) ∧
    (∃ (s : State) (h : QHdr) (e : Nat) (b : Bool) (d : QDecision) (l : List Nat), s.inQrm = true ∧
      s.qrm.seen.contains (h.src, h.seq) = false ∧ (s.qrm.prop = some (d, l)) ∧ d.epoch = e ∧ b = true ∧
      s.witnesses.contains h.src = true ∧ s.leads = true ∧ 4 ≤ (h.src :: l.filter (· ≠ h.src)).length ∧ s.node ∈
      (h.src :: l.filter (· ≠ h.src))) ∧
    (∃ (s : State) (h : QHdr) (e : Nat) (b : Bool), s.inQrm = true ∧ s.qrm.seen.contains (h.src, h.seq) = false ∧
      (s.qrm.prop = none ∨ b = false ∨ s.leads = false ∨ s.witnesses.contains h.src = false ∨ (∀ x ∈ s.qrm.prop,
      x.1.epoch ≠ e))) ∧
    (∃ (s : State) (h : QHdr), s.inQrm = true ∧ s.qrm.seen.contains (h.src, h.seq) = false) ∧
    (∃ (s : State) (n : Nat) (k : Nat) (c : Nat) (d : QDecision), s.inQrm = true ∧ s.qrm.unacked = [(n, k, c)] ∧ c <
      20 ∧ (s.qrm.commits.find? (fun d => d.epoch == k) = some d)) ∧
    (∃ (s : State) (n : Nat) (k : Nat) (c : Nat), s.inQrm = true ∧ s.qrm.unacked = [(n, k, c)] ∧ 20 ≤ c) ∧
    (∃ (s : State), s.inQrm = true) ∧
    (∃ (s : State), (s.inQrm = false ∨ s.qrm.unacked = [])) :=
  ⟨⟨st
     [(Reg.PG_READY_READY.place .qrm, 1), (Reg.QRM_CTRL_EN.place .qrm, 1), (Reg.QRM_WIT_ACTIVE_MASK.place .qrm, 127), (Reg.QRM_WITNESS_NODE.place .qrm 0, 10), (Reg.QRM_WITNESS_VALID.place .qrm 0, 1), (Reg.QRM_WITNESS_NODE.place .qrm 1, 11), (Reg.QRM_WITNESS_VALID.place .qrm 1, 1), (Reg.QRM_WITNESS_NODE.place .qrm 2, 12), (Reg.QRM_WITNESS_VALID.place .qrm 2, 1), (Reg.QRM_WITNESS_NODE.place .qrm 3, 13), (Reg.QRM_WITNESS_VALID.place .qrm 3, 1), (Reg.QRM_WITNESS_NODE.place .qrm 4, 14), (Reg.QRM_WITNESS_VALID.place .qrm 4, 1), (Reg.QRM_WITNESS_NODE.place .qrm 5, 15), (Reg.QRM_WITNESS_VALID.place .qrm 5, 1), (Reg.QRM_WITNESS_NODE.place .qrm 6, 16), (Reg.QRM_WITNESS_VALID.place .qrm 6, 1), (Reg.PORT_STAT_LINK_UP.place (.port 4), 1), (Reg.PORT_STAT_LINK_UP.place (.port 6), 1), (Reg.PORT_STAT_LINK_UP.place (.port 9), 1), (Reg.DEV_NODE_NODE.place .dev, 10)],
     { src := 12, dst := 10, seq := 77, epoch := 0 }, 3, 4, by decide +kernel⟩,
   ⟨{ (st [(Reg.PG_READY_READY.place .qrm, 1), (Reg.QRM_CTRL_EN.place .qrm, 1), (Reg.QRM_WIT_ACTIVE_MASK.place .qrm, 127), (Reg.QRM_WITNESS_NODE.place .qrm 0, 10), (Reg.QRM_WITNESS_VALID.place .qrm 0, 1), (Reg.QRM_WITNESS_NODE.place .qrm 1, 11), (Reg.QRM_WITNESS_VALID.place .qrm 1, 1), (Reg.QRM_WITNESS_NODE.place .qrm 2, 12), (Reg.QRM_WITNESS_VALID.place .qrm 2, 1), (Reg.QRM_WITNESS_NODE.place .qrm 3, 13), (Reg.QRM_WITNESS_VALID.place .qrm 3, 1), (Reg.QRM_WITNESS_NODE.place .qrm 4, 14), (Reg.QRM_WITNESS_VALID.place .qrm 4, 1), (Reg.QRM_WITNESS_NODE.place .qrm 5, 15), (Reg.QRM_WITNESS_VALID.place .qrm 5, 1), (Reg.QRM_WITNESS_NODE.place .qrm 6, 16), (Reg.QRM_WITNESS_VALID.place .qrm 6, 1), (Reg.PORT_STAT_LINK_UP.place (.port 4), 1), (Reg.PORT_STAT_LINK_UP.place (.port 6), 1), (Reg.PORT_STAT_LINK_UP.place (.port 9), 1), (Reg.DEV_NODE_NODE.place .dev, 10)]) with qrm := { missed := [(3, 63)] } },
     { src := 12, dst := 10, seq := 77, epoch := 0 }, 3, 4, by decide +kernel⟩,
   ⟨st
     [(Reg.PG_READY_READY.place .qrm, 1), (Reg.QRM_CTRL_EN.place .qrm, 1), (Reg.QRM_WIT_ACTIVE_MASK.place .qrm, 127), (Reg.QRM_WITNESS_NODE.place .qrm 0, 10), (Reg.QRM_WITNESS_VALID.place .qrm 0, 1), (Reg.QRM_WITNESS_NODE.place .qrm 1, 11), (Reg.QRM_WITNESS_VALID.place .qrm 1, 1), (Reg.QRM_WITNESS_NODE.place .qrm 2, 12), (Reg.QRM_WITNESS_VALID.place .qrm 2, 1), (Reg.QRM_WITNESS_NODE.place .qrm 3, 13), (Reg.QRM_WITNESS_VALID.place .qrm 3, 1), (Reg.QRM_WITNESS_NODE.place .qrm 4, 14), (Reg.QRM_WITNESS_VALID.place .qrm 4, 1), (Reg.QRM_WITNESS_NODE.place .qrm 5, 15), (Reg.QRM_WITNESS_VALID.place .qrm 5, 1), (Reg.QRM_WITNESS_NODE.place .qrm 6, 16), (Reg.QRM_WITNESS_VALID.place .qrm 6, 1), (Reg.PORT_STAT_LINK_UP.place (.port 4), 1), (Reg.PORT_STAT_LINK_UP.place (.port 6), 1), (Reg.PORT_STAT_LINK_UP.place (.port 9), 1), (Reg.DEV_NODE_NODE.place .dev, 3)],
     { src := 12, dst := 10, seq := 77, epoch := 0 }, 3, 4, by decide +kernel⟩,
   ⟨st
     [(Reg.PG_READY_READY.place .qrm, 1), (Reg.QRM_CTRL_EN.place .qrm, 1), (Reg.QRM_WIT_ACTIVE_MASK.place .qrm, 127), (Reg.QRM_WITNESS_NODE.place .qrm 0, 10), (Reg.QRM_WITNESS_VALID.place .qrm 0, 1), (Reg.QRM_WITNESS_NODE.place .qrm 1, 11), (Reg.QRM_WITNESS_VALID.place .qrm 1, 1), (Reg.QRM_WITNESS_NODE.place .qrm 2, 12), (Reg.QRM_WITNESS_VALID.place .qrm 2, 1), (Reg.QRM_WITNESS_NODE.place .qrm 3, 13), (Reg.QRM_WITNESS_VALID.place .qrm 3, 1), (Reg.QRM_WITNESS_NODE.place .qrm 4, 14), (Reg.QRM_WITNESS_VALID.place .qrm 4, 1), (Reg.QRM_WITNESS_NODE.place .qrm 5, 15), (Reg.QRM_WITNESS_VALID.place .qrm 5, 1), (Reg.QRM_WITNESS_NODE.place .qrm 6, 16), (Reg.QRM_WITNESS_VALID.place .qrm 6, 1), (Reg.PORT_STAT_LINK_UP.place (.port 4), 1), (Reg.PORT_STAT_LINK_UP.place (.port 6), 1), (Reg.PORT_STAT_LINK_UP.place (.port 9), 1), (Reg.DEV_NODE_NODE.place .dev, 10)],
     { src := 3, dst := 10, seq := 77, epoch := 0 }, 7, 4, 2, by decide +kernel⟩,
   ⟨st
     [(Reg.PG_READY_READY.place .qrm, 1), (Reg.QRM_CTRL_EN.place .qrm, 1), (Reg.QRM_WIT_ACTIVE_MASK.place .qrm, 127), (Reg.QRM_WITNESS_NODE.place .qrm 0, 10), (Reg.QRM_WITNESS_VALID.place .qrm 0, 1), (Reg.QRM_WITNESS_NODE.place .qrm 1, 11), (Reg.QRM_WITNESS_VALID.place .qrm 1, 1), (Reg.QRM_WITNESS_NODE.place .qrm 2, 12), (Reg.QRM_WITNESS_VALID.place .qrm 2, 1), (Reg.QRM_WITNESS_NODE.place .qrm 3, 13), (Reg.QRM_WITNESS_VALID.place .qrm 3, 1), (Reg.QRM_WITNESS_NODE.place .qrm 4, 14), (Reg.QRM_WITNESS_VALID.place .qrm 4, 1), (Reg.QRM_WITNESS_NODE.place .qrm 5, 15), (Reg.QRM_WITNESS_VALID.place .qrm 5, 1), (Reg.QRM_WITNESS_NODE.place .qrm 6, 16), (Reg.QRM_WITNESS_VALID.place .qrm 6, 1), (Reg.PORT_STAT_LINK_UP.place (.port 4), 1), (Reg.PORT_STAT_LINK_UP.place (.port 6), 1), (Reg.PORT_STAT_LINK_UP.place (.port 9), 1), (Reg.DEV_NODE_NODE.place .dev, 10)],
     { src := 3, dst := 10, seq := 77, epoch := 0 }, 3, 4, 2, by decide +kernel⟩,
   ⟨st
     [(Reg.PG_READY_READY.place .qrm, 1), (Reg.QRM_CTRL_EN.place .qrm, 1), (Reg.QRM_WIT_ACTIVE_MASK.place .qrm, 127), (Reg.QRM_WITNESS_NODE.place .qrm 0, 10), (Reg.QRM_WITNESS_VALID.place .qrm 0, 1), (Reg.QRM_WITNESS_NODE.place .qrm 1, 11), (Reg.QRM_WITNESS_VALID.place .qrm 1, 1), (Reg.QRM_WITNESS_NODE.place .qrm 2, 12), (Reg.QRM_WITNESS_VALID.place .qrm 2, 1), (Reg.QRM_WITNESS_NODE.place .qrm 3, 13), (Reg.QRM_WITNESS_VALID.place .qrm 3, 1), (Reg.QRM_WITNESS_NODE.place .qrm 4, 14), (Reg.QRM_WITNESS_VALID.place .qrm 4, 1), (Reg.QRM_WITNESS_NODE.place .qrm 5, 15), (Reg.QRM_WITNESS_VALID.place .qrm 5, 1), (Reg.QRM_WITNESS_NODE.place .qrm 6, 16), (Reg.QRM_WITNESS_VALID.place .qrm 6, 1), (Reg.PORT_STAT_LINK_UP.place (.port 4), 1), (Reg.PORT_STAT_LINK_UP.place (.port 6), 1), (Reg.PORT_STAT_LINK_UP.place (.port 9), 1), (Reg.DEV_NODE_NODE.place .dev, 10)],
     { src := 3, dst := 10, seq := 77, epoch := 0 }, 7, 4, 0, by decide +kernel⟩,
   ⟨st
     [(Reg.PG_READY_READY.place .qrm, 1), (Reg.QRM_CTRL_EN.place .qrm, 1), (Reg.QRM_WIT_ACTIVE_MASK.place .qrm, 127), (Reg.QRM_WITNESS_NODE.place .qrm 0, 10), (Reg.QRM_WITNESS_VALID.place .qrm 0, 1), (Reg.QRM_WITNESS_NODE.place .qrm 1, 11), (Reg.QRM_WITNESS_VALID.place .qrm 1, 1), (Reg.QRM_WITNESS_NODE.place .qrm 2, 12), (Reg.QRM_WITNESS_VALID.place .qrm 2, 1), (Reg.QRM_WITNESS_NODE.place .qrm 3, 13), (Reg.QRM_WITNESS_VALID.place .qrm 3, 1), (Reg.QRM_WITNESS_NODE.place .qrm 4, 14), (Reg.QRM_WITNESS_VALID.place .qrm 4, 1), (Reg.QRM_WITNESS_NODE.place .qrm 5, 15), (Reg.QRM_WITNESS_VALID.place .qrm 5, 1), (Reg.QRM_WITNESS_NODE.place .qrm 6, 16), (Reg.QRM_WITNESS_VALID.place .qrm 6, 1), (Reg.PORT_STAT_LINK_UP.place (.port 4), 1), (Reg.PORT_STAT_LINK_UP.place (.port 6), 1), (Reg.PORT_STAT_LINK_UP.place (.port 9), 1), (Reg.DEV_NODE_NODE.place .dev, 10)],
     { src := 3, dst := 10, seq := 77, epoch := 0 }, 4, by decide +kernel⟩,
   ⟨st
     [(Reg.PG_READY_READY.place .qrm, 1), (Reg.QRM_CTRL_EN.place .qrm, 1), (Reg.QRM_WIT_ACTIVE_MASK.place .qrm, 127), (Reg.QRM_WITNESS_NODE.place .qrm 0, 10), (Reg.QRM_WITNESS_VALID.place .qrm 0, 1), (Reg.QRM_WITNESS_NODE.place .qrm 1, 11), (Reg.QRM_WITNESS_VALID.place .qrm 1, 1), (Reg.QRM_WITNESS_NODE.place .qrm 2, 12), (Reg.QRM_WITNESS_VALID.place .qrm 2, 1), (Reg.QRM_WITNESS_NODE.place .qrm 3, 13), (Reg.QRM_WITNESS_VALID.place .qrm 3, 1), (Reg.QRM_WITNESS_NODE.place .qrm 4, 14), (Reg.QRM_WITNESS_VALID.place .qrm 4, 1), (Reg.QRM_WITNESS_NODE.place .qrm 5, 15), (Reg.QRM_WITNESS_VALID.place .qrm 5, 1), (Reg.QRM_WITNESS_NODE.place .qrm 6, 16), (Reg.QRM_WITNESS_VALID.place .qrm 6, 1), (Reg.PORT_STAT_LINK_UP.place (.port 4), 1), (Reg.PORT_STAT_LINK_UP.place (.port 6), 1), (Reg.PORT_STAT_LINK_UP.place (.port 9), 1), (Reg.DEV_NODE_NODE.place .dev, 3)],
     { src := 3, dst := 10, seq := 77, epoch := 0 }, 4, by decide +kernel⟩,
   ⟨{ (st [(Reg.PG_READY_READY.place .qrm, 1), (Reg.QRM_CTRL_EN.place .qrm, 1), (Reg.QRM_WIT_ACTIVE_MASK.place .qrm, 127), (Reg.QRM_WITNESS_NODE.place .qrm 0, 10), (Reg.QRM_WITNESS_VALID.place .qrm 0, 1), (Reg.QRM_WITNESS_NODE.place .qrm 1, 11), (Reg.QRM_WITNESS_VALID.place .qrm 1, 1), (Reg.QRM_WITNESS_NODE.place .qrm 2, 12), (Reg.QRM_WITNESS_VALID.place .qrm 2, 1), (Reg.QRM_WITNESS_NODE.place .qrm 3, 13), (Reg.QRM_WITNESS_VALID.place .qrm 3, 1), (Reg.QRM_WITNESS_NODE.place .qrm 4, 14), (Reg.QRM_WITNESS_VALID.place .qrm 4, 1), (Reg.QRM_WITNESS_NODE.place .qrm 5, 15), (Reg.QRM_WITNESS_VALID.place .qrm 5, 1), (Reg.QRM_WITNESS_NODE.place .qrm 6, 16), (Reg.QRM_WITNESS_VALID.place .qrm 6, 1), (Reg.PORT_STAT_LINK_UP.place (.port 4), 1), (Reg.PORT_STAT_LINK_UP.place (.port 6), 1), (Reg.PORT_STAT_LINK_UP.place (.port 9), 1), (Reg.DEV_NODE_NODE.place .dev, 11)]) with qrm := { missed := [(3, 63)] } },
     { src := 10, dst := 11, seq := 77, epoch := 0 },
     { epoch := 1, fence := [(3, 4)], unfence := [], replace := [] }, by decide +kernel⟩,
   ⟨st
     [(Reg.PG_READY_READY.place .qrm, 1), (Reg.QRM_CTRL_EN.place .qrm, 1), (Reg.QRM_WIT_ACTIVE_MASK.place .qrm, 127), (Reg.QRM_WITNESS_NODE.place .qrm 0, 10), (Reg.QRM_WITNESS_VALID.place .qrm 0, 1), (Reg.QRM_WITNESS_NODE.place .qrm 1, 11), (Reg.QRM_WITNESS_VALID.place .qrm 1, 1), (Reg.QRM_WITNESS_NODE.place .qrm 2, 12), (Reg.QRM_WITNESS_VALID.place .qrm 2, 1), (Reg.QRM_WITNESS_NODE.place .qrm 3, 13), (Reg.QRM_WITNESS_VALID.place .qrm 3, 1), (Reg.QRM_WITNESS_NODE.place .qrm 4, 14), (Reg.QRM_WITNESS_VALID.place .qrm 4, 1), (Reg.QRM_WITNESS_NODE.place .qrm 5, 15), (Reg.QRM_WITNESS_VALID.place .qrm 5, 1), (Reg.QRM_WITNESS_NODE.place .qrm 6, 16), (Reg.QRM_WITNESS_VALID.place .qrm 6, 1), (Reg.PORT_STAT_LINK_UP.place (.port 4), 1), (Reg.PORT_STAT_LINK_UP.place (.port 6), 1), (Reg.PORT_STAT_LINK_UP.place (.port 9), 1), (Reg.DEV_NODE_NODE.place .dev, 3)],
     { src := 10, dst := 11, seq := 77, epoch := 0 },
     { epoch := 1, fence := [(3, 4)], unfence := [], replace := [] }, by decide +kernel⟩,
   ⟨{ (st [(Reg.PG_READY_READY.place .qrm, 1), (Reg.QRM_CTRL_EN.place .qrm, 1), (Reg.QRM_WIT_ACTIVE_MASK.place .qrm, 127), (Reg.QRM_WITNESS_NODE.place .qrm 0, 10), (Reg.QRM_WITNESS_VALID.place .qrm 0, 1), (Reg.QRM_WITNESS_NODE.place .qrm 1, 11), (Reg.QRM_WITNESS_VALID.place .qrm 1, 1), (Reg.QRM_WITNESS_NODE.place .qrm 2, 12), (Reg.QRM_WITNESS_VALID.place .qrm 2, 1), (Reg.QRM_WITNESS_NODE.place .qrm 3, 13), (Reg.QRM_WITNESS_VALID.place .qrm 3, 1), (Reg.QRM_WITNESS_NODE.place .qrm 4, 14), (Reg.QRM_WITNESS_VALID.place .qrm 4, 1), (Reg.QRM_WITNESS_NODE.place .qrm 5, 15), (Reg.QRM_WITNESS_VALID.place .qrm 5, 1), (Reg.QRM_WITNESS_NODE.place .qrm 6, 16), (Reg.QRM_WITNESS_VALID.place .qrm 6, 1), (Reg.PORT_STAT_LINK_UP.place (.port 4), 1), (Reg.PORT_STAT_LINK_UP.place (.port 6), 1), (Reg.PORT_STAT_LINK_UP.place (.port 9), 1), (Reg.DEV_NODE_NODE.place .dev, 10)]) with qrm := { prop := some ({ epoch := 1, fence := [(3, 4)], unfence := [], replace := [] }, [10, 11]) } },
     { src := 12, dst := 10, seq := 77, epoch := 0 }, 1, true,
     { epoch := 1, fence := [(3, 4)], unfence := [], replace := [] }, [10, 11], by decide +kernel⟩,
   ⟨{ (st [(Reg.PG_READY_READY.place .qrm, 1), (Reg.QRM_CTRL_EN.place .qrm, 1), (Reg.QRM_WIT_ACTIVE_MASK.place .qrm, 127), (Reg.QRM_WITNESS_NODE.place .qrm 0, 10), (Reg.QRM_WITNESS_VALID.place .qrm 0, 1), (Reg.QRM_WITNESS_NODE.place .qrm 1, 11), (Reg.QRM_WITNESS_VALID.place .qrm 1, 1), (Reg.QRM_WITNESS_NODE.place .qrm 2, 12), (Reg.QRM_WITNESS_VALID.place .qrm 2, 1), (Reg.QRM_WITNESS_NODE.place .qrm 3, 13), (Reg.QRM_WITNESS_VALID.place .qrm 3, 1), (Reg.QRM_WITNESS_NODE.place .qrm 4, 14), (Reg.QRM_WITNESS_VALID.place .qrm 4, 1), (Reg.QRM_WITNESS_NODE.place .qrm 5, 15), (Reg.QRM_WITNESS_VALID.place .qrm 5, 1), (Reg.QRM_WITNESS_NODE.place .qrm 6, 16), (Reg.QRM_WITNESS_VALID.place .qrm 6, 1), (Reg.PORT_STAT_LINK_UP.place (.port 4), 1), (Reg.PORT_STAT_LINK_UP.place (.port 6), 1), (Reg.PORT_STAT_LINK_UP.place (.port 9), 1), (Reg.DEV_NODE_NODE.place .dev, 10)]) with qrm := { prop := some ({ epoch := 1, fence := [(3, 4)], unfence := [], replace := [] }, [10, 11, 13]), missed := [(3, 63), (10, 32)] } },
     { src := 12, dst := 10, seq := 77, epoch := 0 }, 1, true,
     { epoch := 1, fence := [(3, 4)], unfence := [], replace := [] }, [10, 11, 13], by decide +kernel⟩,
   ⟨st
     [(Reg.PG_READY_READY.place .qrm, 1), (Reg.QRM_CTRL_EN.place .qrm, 1), (Reg.QRM_WIT_ACTIVE_MASK.place .qrm, 127), (Reg.QRM_WITNESS_NODE.place .qrm 0, 10), (Reg.QRM_WITNESS_VALID.place .qrm 0, 1), (Reg.QRM_WITNESS_NODE.place .qrm 1, 11), (Reg.QRM_WITNESS_VALID.place .qrm 1, 1), (Reg.QRM_WITNESS_NODE.place .qrm 2, 12), (Reg.QRM_WITNESS_VALID.place .qrm 2, 1), (Reg.QRM_WITNESS_NODE.place .qrm 3, 13), (Reg.QRM_WITNESS_VALID.place .qrm 3, 1), (Reg.QRM_WITNESS_NODE.place .qrm 4, 14), (Reg.QRM_WITNESS_VALID.place .qrm 4, 1), (Reg.QRM_WITNESS_NODE.place .qrm 5, 15), (Reg.QRM_WITNESS_VALID.place .qrm 5, 1), (Reg.QRM_WITNESS_NODE.place .qrm 6, 16), (Reg.QRM_WITNESS_VALID.place .qrm 6, 1), (Reg.PORT_STAT_LINK_UP.place (.port 4), 1), (Reg.PORT_STAT_LINK_UP.place (.port 6), 1), (Reg.PORT_STAT_LINK_UP.place (.port 9), 1), (Reg.DEV_NODE_NODE.place .dev, 10)],
     { src := 12, dst := 10, seq := 77, epoch := 0 }, 1, false, by decide +kernel⟩,
   ⟨{ (st [(Reg.PG_READY_READY.place .qrm, 1), (Reg.QRM_CTRL_EN.place .qrm, 1), (Reg.QRM_WIT_ACTIVE_MASK.place .qrm, 127), (Reg.QRM_WITNESS_NODE.place .qrm 0, 10), (Reg.QRM_WITNESS_VALID.place .qrm 0, 1), (Reg.QRM_WITNESS_NODE.place .qrm 1, 11), (Reg.QRM_WITNESS_VALID.place .qrm 1, 1), (Reg.QRM_WITNESS_NODE.place .qrm 2, 12), (Reg.QRM_WITNESS_VALID.place .qrm 2, 1), (Reg.QRM_WITNESS_NODE.place .qrm 3, 13), (Reg.QRM_WITNESS_VALID.place .qrm 3, 1), (Reg.QRM_WITNESS_NODE.place .qrm 4, 14), (Reg.QRM_WITNESS_VALID.place .qrm 4, 1), (Reg.QRM_WITNESS_NODE.place .qrm 5, 15), (Reg.QRM_WITNESS_VALID.place .qrm 5, 1), (Reg.QRM_WITNESS_NODE.place .qrm 6, 16), (Reg.QRM_WITNESS_VALID.place .qrm 6, 1), (Reg.PORT_STAT_LINK_UP.place (.port 4), 1), (Reg.PORT_STAT_LINK_UP.place (.port 6), 1), (Reg.PORT_STAT_LINK_UP.place (.port 9), 1), (Reg.DEV_NODE_NODE.place .dev, 10)]) with qrm := { unacked := [(3, 4, 2), (3, 5, 1), (7, 4, 1)] } },
     { src := 3, dst := 10, seq := 77, epoch := 4 }, by decide +kernel⟩,
   ⟨{ (st [(Reg.PG_READY_READY.place .qrm, 1), (Reg.QRM_CTRL_EN.place .qrm, 1), (Reg.QRM_WIT_ACTIVE_MASK.place .qrm, 127), (Reg.QRM_WITNESS_NODE.place .qrm 0, 10), (Reg.QRM_WITNESS_VALID.place .qrm 0, 1), (Reg.QRM_WITNESS_NODE.place .qrm 1, 11), (Reg.QRM_WITNESS_VALID.place .qrm 1, 1), (Reg.QRM_WITNESS_NODE.place .qrm 2, 12), (Reg.QRM_WITNESS_VALID.place .qrm 2, 1), (Reg.QRM_WITNESS_NODE.place .qrm 3, 13), (Reg.QRM_WITNESS_VALID.place .qrm 3, 1), (Reg.QRM_WITNESS_NODE.place .qrm 4, 14), (Reg.QRM_WITNESS_VALID.place .qrm 4, 1), (Reg.QRM_WITNESS_NODE.place .qrm 5, 15), (Reg.QRM_WITNESS_VALID.place .qrm 5, 1), (Reg.QRM_WITNESS_NODE.place .qrm 6, 16), (Reg.QRM_WITNESS_VALID.place .qrm 6, 1), (Reg.PORT_STAT_LINK_UP.place (.port 4), 1), (Reg.PORT_STAT_LINK_UP.place (.port 6), 1), (Reg.PORT_STAT_LINK_UP.place (.port 9), 1), (Reg.DEV_NODE_NODE.place .dev, 10)]) with qrm := { unacked := [(3, 1, 19)], commits := [{ epoch := 1, fence := [(3, 4)], unfence := [], replace := [] }] } },
     3, 1, 19, { epoch := 1, fence := [(3, 4)], unfence := [], replace := [] }, by decide +kernel⟩,
   ⟨{ (st [(Reg.PG_READY_READY.place .qrm, 1), (Reg.QRM_CTRL_EN.place .qrm, 1), (Reg.QRM_WIT_ACTIVE_MASK.place .qrm, 127), (Reg.QRM_WITNESS_NODE.place .qrm 0, 10), (Reg.QRM_WITNESS_VALID.place .qrm 0, 1), (Reg.QRM_WITNESS_NODE.place .qrm 1, 11), (Reg.QRM_WITNESS_VALID.place .qrm 1, 1), (Reg.QRM_WITNESS_NODE.place .qrm 2, 12), (Reg.QRM_WITNESS_VALID.place .qrm 2, 1), (Reg.QRM_WITNESS_NODE.place .qrm 3, 13), (Reg.QRM_WITNESS_VALID.place .qrm 3, 1), (Reg.QRM_WITNESS_NODE.place .qrm 4, 14), (Reg.QRM_WITNESS_VALID.place .qrm 4, 1), (Reg.QRM_WITNESS_NODE.place .qrm 5, 15), (Reg.QRM_WITNESS_VALID.place .qrm 5, 1), (Reg.QRM_WITNESS_NODE.place .qrm 6, 16), (Reg.QRM_WITNESS_VALID.place .qrm 6, 1), (Reg.PORT_STAT_LINK_UP.place (.port 4), 1), (Reg.PORT_STAT_LINK_UP.place (.port 6), 1), (Reg.PORT_STAT_LINK_UP.place (.port 9), 1), (Reg.DEV_NODE_NODE.place .dev, 10)]) with qrm := { unacked := [(3, 1, 20)], commits := [{ epoch := 1, fence := [(3, 4)], unfence := [], replace := [] }] } },
     3, 1, 20, by decide +kernel⟩,
   ⟨{ (st [(Reg.PG_READY_READY.place .qrm, 1), (Reg.QRM_CTRL_EN.place .qrm, 1), (Reg.QRM_WIT_ACTIVE_MASK.place .qrm, 127), (Reg.QRM_WITNESS_NODE.place .qrm 0, 10), (Reg.QRM_WITNESS_VALID.place .qrm 0, 1), (Reg.QRM_WITNESS_NODE.place .qrm 1, 11), (Reg.QRM_WITNESS_VALID.place .qrm 1, 1), (Reg.QRM_WITNESS_NODE.place .qrm 2, 12), (Reg.QRM_WITNESS_VALID.place .qrm 2, 1), (Reg.QRM_WITNESS_NODE.place .qrm 3, 13), (Reg.QRM_WITNESS_VALID.place .qrm 3, 1), (Reg.QRM_WITNESS_NODE.place .qrm 4, 14), (Reg.QRM_WITNESS_VALID.place .qrm 4, 1), (Reg.QRM_WITNESS_NODE.place .qrm 5, 15), (Reg.QRM_WITNESS_VALID.place .qrm 5, 1), (Reg.QRM_WITNESS_NODE.place .qrm 6, 16), (Reg.QRM_WITNESS_VALID.place .qrm 6, 1), (Reg.PORT_STAT_LINK_UP.place (.port 4), 1), (Reg.PORT_STAT_LINK_UP.place (.port 6), 1), (Reg.PORT_STAT_LINK_UP.place (.port 9), 1), (Reg.DEV_NODE_NODE.place .dev, 10)]) with qrm := { unacked := [(3, 1, 20), (4, 1, 2)], commits := [{ epoch := 1, fence := [(3, 4)], unfence := [], replace := [] }] } },
     by decide +kernel⟩,
   ⟨st
     [(Reg.PG_READY_READY.place .qrm, 1), (Reg.QRM_CTRL_EN.place .qrm, 1), (Reg.QRM_WIT_ACTIVE_MASK.place .qrm, 127), (Reg.QRM_WITNESS_NODE.place .qrm 0, 10), (Reg.QRM_WITNESS_VALID.place .qrm 0, 1), (Reg.QRM_WITNESS_NODE.place .qrm 1, 11), (Reg.QRM_WITNESS_VALID.place .qrm 1, 1), (Reg.QRM_WITNESS_NODE.place .qrm 2, 12), (Reg.QRM_WITNESS_VALID.place .qrm 2, 1), (Reg.QRM_WITNESS_NODE.place .qrm 3, 13), (Reg.QRM_WITNESS_VALID.place .qrm 3, 1), (Reg.QRM_WITNESS_NODE.place .qrm 4, 14), (Reg.QRM_WITNESS_VALID.place .qrm 4, 1), (Reg.QRM_WITNESS_NODE.place .qrm 5, 15), (Reg.QRM_WITNESS_VALID.place .qrm 5, 1), (Reg.QRM_WITNESS_NODE.place .qrm 6, 16), (Reg.QRM_WITNESS_VALID.place .qrm 6, 1), (Reg.PORT_STAT_LINK_UP.place (.port 4), 1), (Reg.PORT_STAT_LINK_UP.place (.port 6), 1), (Reg.PORT_STAT_LINK_UP.place (.port 9), 1), (Reg.DEV_NODE_NODE.place .dev, 10)],
     by decide +kernel⟩⟩

/-- The hypotheses of CommitsAreApplied can be met, clause by clause. -/
theorem wit_CommitsAreApplied :
    (∃ (s : State) (h : QHdr) (d : QDecision), s.inQrm = true ∧ s.qrm.seen.contains (h.src, h.seq) = false ∧ d.epoch
      = s.epoch + 1) ∧
    (∃ (s : State) (h : QHdr) (d : QDecision) (n : Nat), s.inQrm = true ∧ s.qrm.seen.contains (h.src, h.seq) = false
      ∧ d.epoch ≤ s.epoch ∧ (s.leader = some n)) ∧
    (∃ (s : State) (h : QHdr) (d : QDecision) (n : Nat), s.inQrm = true ∧ s.qrm.seen.contains (h.src, h.seq) = false
      ∧ s.epoch + 1 < d.epoch ∧ (s.leader = some n)) ∧
    (∃ (s : State) (h : QHdr) (last : Nat), s.inQrm = true ∧ s.qrm.seen.contains (h.src, h.seq) = false ∧ (s.leads =
      false ∨ s.epoch ≤ last)) ∧
    (∃ (s : State) (h : QHdr) (last : Nat), s.inQrm = true ∧ s.qrm.seen.contains (h.src, h.seq) = false ∧ s.leads =
      true ∧ last < s.epoch ∧ (last = 0 ∨ last + 4096 < s.epoch)) ∧
    (∃ (s : State) (h : QHdr) (last : Nat), s.inQrm = true ∧ s.qrm.seen.contains (h.src, h.seq) = false ∧ s.leads =
      true ∧ last < s.epoch ∧ last ≠ 0 ∧ s.epoch ≤ last + 4096) ∧
    (∃ (s : State) (h : QHdr) (l : List (Nat × PartId × Nat)), s.inQrm = true ∧ s.qrm.seen.contains (h.src, h.seq) =
      false) ∧
    (∃ (s : State) (h : QHdr) (l : List (Nat × PartId × Nat)), s.inQrm = true ∧ s.qrm.seen.contains (h.src, h.seq) =
      false) :=
  ⟨⟨{ (st [(Reg.PG_READY_READY.place .qrm, 1), (Reg.QRM_CTRL_EN.place .qrm, 1), (Reg.QRM_WIT_ACTIVE_MASK.place .qrm, 127), (Reg.QRM_WITNESS_NODE.place .qrm 0, 10), (Reg.QRM_WITNESS_VALID.place .qrm 0, 1), (Reg.QRM_WITNESS_NODE.place .qrm 1, 11), (Reg.QRM_WITNESS_VALID.place .qrm 1, 1), (Reg.QRM_WITNESS_NODE.place .qrm 2, 12), (Reg.QRM_WITNESS_VALID.place .qrm 2, 1), (Reg.QRM_WITNESS_NODE.place .qrm 3, 13), (Reg.QRM_WITNESS_VALID.place .qrm 3, 1), (Reg.QRM_WITNESS_NODE.place .qrm 4, 14), (Reg.QRM_WITNESS_VALID.place .qrm 4, 1), (Reg.QRM_WITNESS_NODE.place .qrm 5, 15), (Reg.QRM_WITNESS_VALID.place .qrm 5, 1), (Reg.QRM_WITNESS_NODE.place .qrm 6, 16), (Reg.QRM_WITNESS_VALID.place .qrm 6, 1), (Reg.PORT_STAT_LINK_UP.place (.port 4), 1), (Reg.PORT_STAT_LINK_UP.place (.port 6), 1), (Reg.PORT_STAT_LINK_UP.place (.port 9), 1), (Reg.DEV_NODE_NODE.place .dev, 3), (Reg.QRM_FENCE_DP_MASK.place .qrm, 8)]) with rrc := [{ part := 0, node := 9, gpart := 0, block := 1, key := 0, data := [] }, { part := 0, node := 9, gpart := 1, block := 1, key := 0, data := [] }], qrm := { table := [(99, 1)] } },
     { src := 10, dst := 3, seq := 77, epoch := 1 },
     { epoch := 1, fence := [(3, 4), (9, 1)], unfence := [(3, 8)], replace := [] }, by decide +kernel⟩,
   ⟨st
     [(Reg.PG_READY_READY.place .qrm, 1), (Reg.QRM_CTRL_EN.place .qrm, 1), (Reg.QRM_WIT_ACTIVE_MASK.place .qrm, 127), (Reg.QRM_WITNESS_NODE.place .qrm 0, 10), (Reg.QRM_WITNESS_VALID.place .qrm 0, 1), (Reg.QRM_WITNESS_NODE.place .qrm 1, 11), (Reg.QRM_WITNESS_VALID.place .qrm 1, 1), (Reg.QRM_WITNESS_NODE.place .qrm 2, 12), (Reg.QRM_WITNESS_VALID.place .qrm 2, 1), (Reg.QRM_WITNESS_NODE.place .qrm 3, 13), (Reg.QRM_WITNESS_VALID.place .qrm 3, 1), (Reg.QRM_WITNESS_NODE.place .qrm 4, 14), (Reg.QRM_WITNESS_VALID.place .qrm 4, 1), (Reg.QRM_WITNESS_NODE.place .qrm 5, 15), (Reg.QRM_WITNESS_VALID.place .qrm 5, 1), (Reg.QRM_WITNESS_NODE.place .qrm 6, 16), (Reg.QRM_WITNESS_VALID.place .qrm 6, 1), (Reg.PORT_STAT_LINK_UP.place (.port 4), 1), (Reg.PORT_STAT_LINK_UP.place (.port 6), 1), (Reg.PORT_STAT_LINK_UP.place (.port 9), 1), (Reg.DEV_NODE_NODE.place .dev, 3), (Reg.QRM_EPOCH_LO_EPOCH_LO.place .qrm, 1)],
     { src := 10, dst := 3, seq := 77, epoch := 1 }, { epoch := 1, fence := [(3, 4)], unfence := [], replace := [] },
     10, by decide +kernel⟩,
   ⟨st
     [(Reg.PG_READY_READY.place .qrm, 1), (Reg.QRM_CTRL_EN.place .qrm, 1), (Reg.QRM_WIT_ACTIVE_MASK.place .qrm, 127), (Reg.QRM_WITNESS_NODE.place .qrm 0, 10), (Reg.QRM_WITNESS_VALID.place .qrm 0, 1), (Reg.QRM_WITNESS_NODE.place .qrm 1, 11), (Reg.QRM_WITNESS_VALID.place .qrm 1, 1), (Reg.QRM_WITNESS_NODE.place .qrm 2, 12), (Reg.QRM_WITNESS_VALID.place .qrm 2, 1), (Reg.QRM_WITNESS_NODE.place .qrm 3, 13), (Reg.QRM_WITNESS_VALID.place .qrm 3, 1), (Reg.QRM_WITNESS_NODE.place .qrm 4, 14), (Reg.QRM_WITNESS_VALID.place .qrm 4, 1), (Reg.QRM_WITNESS_NODE.place .qrm 5, 15), (Reg.QRM_WITNESS_VALID.place .qrm 5, 1), (Reg.QRM_WITNESS_NODE.place .qrm 6, 16), (Reg.QRM_WITNESS_VALID.place .qrm 6, 1), (Reg.PORT_STAT_LINK_UP.place (.port 4), 1), (Reg.PORT_STAT_LINK_UP.place (.port 6), 1), (Reg.PORT_STAT_LINK_UP.place (.port 9), 1), (Reg.DEV_NODE_NODE.place .dev, 3)],
     { src := 10, dst := 3, seq := 77, epoch := 1 }, { epoch := 2, fence := [(3, 4)], unfence := [], replace := [] },
     10, by decide +kernel⟩,
   ⟨st
     [(Reg.PG_READY_READY.place .qrm, 1), (Reg.QRM_CTRL_EN.place .qrm, 1), (Reg.QRM_WIT_ACTIVE_MASK.place .qrm, 127), (Reg.QRM_WITNESS_NODE.place .qrm 0, 10), (Reg.QRM_WITNESS_VALID.place .qrm 0, 1), (Reg.QRM_WITNESS_NODE.place .qrm 1, 11), (Reg.QRM_WITNESS_VALID.place .qrm 1, 1), (Reg.QRM_WITNESS_NODE.place .qrm 2, 12), (Reg.QRM_WITNESS_VALID.place .qrm 2, 1), (Reg.QRM_WITNESS_NODE.place .qrm 3, 13), (Reg.QRM_WITNESS_VALID.place .qrm 3, 1), (Reg.QRM_WITNESS_NODE.place .qrm 4, 14), (Reg.QRM_WITNESS_VALID.place .qrm 4, 1), (Reg.QRM_WITNESS_NODE.place .qrm 5, 15), (Reg.QRM_WITNESS_VALID.place .qrm 5, 1), (Reg.QRM_WITNESS_NODE.place .qrm 6, 16), (Reg.QRM_WITNESS_VALID.place .qrm 6, 1), (Reg.PORT_STAT_LINK_UP.place (.port 4), 1), (Reg.PORT_STAT_LINK_UP.place (.port 6), 1), (Reg.PORT_STAT_LINK_UP.place (.port 9), 1), (Reg.DEV_NODE_NODE.place .dev, 10)],
     { src := 3, dst := 10, seq := 77, epoch := 1 }, 5, by decide +kernel⟩,
   ⟨{ (st [(Reg.PG_READY_READY.place .qrm, 1), (Reg.QRM_CTRL_EN.place .qrm, 1), (Reg.QRM_WIT_ACTIVE_MASK.place .qrm, 127), (Reg.QRM_WITNESS_NODE.place .qrm 0, 10), (Reg.QRM_WITNESS_VALID.place .qrm 0, 1), (Reg.QRM_WITNESS_NODE.place .qrm 1, 11), (Reg.QRM_WITNESS_VALID.place .qrm 1, 1), (Reg.QRM_WITNESS_NODE.place .qrm 2, 12), (Reg.QRM_WITNESS_VALID.place .qrm 2, 1), (Reg.QRM_WITNESS_NODE.place .qrm 3, 13), (Reg.QRM_WITNESS_VALID.place .qrm 3, 1), (Reg.QRM_WITNESS_NODE.place .qrm 4, 14), (Reg.QRM_WITNESS_VALID.place .qrm 4, 1), (Reg.QRM_WITNESS_NODE.place .qrm 5, 15), (Reg.QRM_WITNESS_VALID.place .qrm 5, 1), (Reg.QRM_WITNESS_NODE.place .qrm 6, 16), (Reg.QRM_WITNESS_VALID.place .qrm 6, 1), (Reg.PORT_STAT_LINK_UP.place (.port 4), 1), (Reg.PORT_STAT_LINK_UP.place (.port 6), 1), (Reg.PORT_STAT_LINK_UP.place (.port 9), 1), (Reg.DEV_NODE_NODE.place .dev, 10), (Reg.QRM_EPOCH_LO_EPOCH_LO.place .qrm, 9)]) with qrm := { table := [(98, 2)] } },
     { src := 3, dst := 10, seq := 77, epoch := 1 }, 0, by decide +kernel⟩,
   ⟨{ (st [(Reg.PG_READY_READY.place .qrm, 1), (Reg.QRM_CTRL_EN.place .qrm, 1), (Reg.QRM_WIT_ACTIVE_MASK.place .qrm, 127), (Reg.QRM_WITNESS_NODE.place .qrm 0, 10), (Reg.QRM_WITNESS_VALID.place .qrm 0, 1), (Reg.QRM_WITNESS_NODE.place .qrm 1, 11), (Reg.QRM_WITNESS_VALID.place .qrm 1, 1), (Reg.QRM_WITNESS_NODE.place .qrm 2, 12), (Reg.QRM_WITNESS_VALID.place .qrm 2, 1), (Reg.QRM_WITNESS_NODE.place .qrm 3, 13), (Reg.QRM_WITNESS_VALID.place .qrm 3, 1), (Reg.QRM_WITNESS_NODE.place .qrm 4, 14), (Reg.QRM_WITNESS_VALID.place .qrm 4, 1), (Reg.QRM_WITNESS_NODE.place .qrm 5, 15), (Reg.QRM_WITNESS_VALID.place .qrm 5, 1), (Reg.QRM_WITNESS_NODE.place .qrm 6, 16), (Reg.QRM_WITNESS_VALID.place .qrm 6, 1), (Reg.PORT_STAT_LINK_UP.place (.port 4), 1), (Reg.PORT_STAT_LINK_UP.place (.port 6), 1), (Reg.PORT_STAT_LINK_UP.place (.port 9), 1), (Reg.DEV_NODE_NODE.place .dev, 10), (Reg.QRM_EPOCH_LO_EPOCH_LO.place .qrm, 9)]) with qrm := { commits := [{ epoch := 9, fence := [(3, 4)], unfence := [], replace := [] }] } },
     { src := 3, dst := 10, seq := 77, epoch := 1 }, 2, by decide +kernel⟩,
   ⟨st
     [(Reg.PG_READY_READY.place .qrm, 1), (Reg.QRM_CTRL_EN.place .qrm, 1), (Reg.QRM_WIT_ACTIVE_MASK.place .qrm, 127), (Reg.QRM_WITNESS_NODE.place .qrm 0, 10), (Reg.QRM_WITNESS_VALID.place .qrm 0, 1), (Reg.QRM_WITNESS_NODE.place .qrm 1, 11), (Reg.QRM_WITNESS_VALID.place .qrm 1, 1), (Reg.QRM_WITNESS_NODE.place .qrm 2, 12), (Reg.QRM_WITNESS_VALID.place .qrm 2, 1), (Reg.QRM_WITNESS_NODE.place .qrm 3, 13), (Reg.QRM_WITNESS_VALID.place .qrm 3, 1), (Reg.QRM_WITNESS_NODE.place .qrm 4, 14), (Reg.QRM_WITNESS_VALID.place .qrm 4, 1), (Reg.QRM_WITNESS_NODE.place .qrm 5, 15), (Reg.QRM_WITNESS_VALID.place .qrm 5, 1), (Reg.QRM_WITNESS_NODE.place .qrm 6, 16), (Reg.QRM_WITNESS_VALID.place .qrm 6, 1), (Reg.PORT_STAT_LINK_UP.place (.port 4), 1), (Reg.PORT_STAT_LINK_UP.place (.port 6), 1), (Reg.PORT_STAT_LINK_UP.place (.port 9), 1), (Reg.DEV_NODE_NODE.place .dev, 3)],
     { src := 10, dst := 3, seq := 77, epoch := 9 }, [(9, 1, 4)], by decide +kernel⟩,
   ⟨{ (st [(Reg.PG_READY_READY.place .qrm, 1), (Reg.QRM_CTRL_EN.place .qrm, 1), (Reg.QRM_WIT_ACTIVE_MASK.place .qrm, 127), (Reg.QRM_WITNESS_NODE.place .qrm 0, 10), (Reg.QRM_WITNESS_VALID.place .qrm 0, 1), (Reg.QRM_WITNESS_NODE.place .qrm 1, 11), (Reg.QRM_WITNESS_VALID.place .qrm 1, 1), (Reg.QRM_WITNESS_NODE.place .qrm 2, 12), (Reg.QRM_WITNESS_VALID.place .qrm 2, 1), (Reg.QRM_WITNESS_NODE.place .qrm 3, 13), (Reg.QRM_WITNESS_VALID.place .qrm 3, 1), (Reg.QRM_WITNESS_NODE.place .qrm 4, 14), (Reg.QRM_WITNESS_VALID.place .qrm 4, 1), (Reg.QRM_WITNESS_NODE.place .qrm 5, 15), (Reg.QRM_WITNESS_VALID.place .qrm 5, 1), (Reg.QRM_WITNESS_NODE.place .qrm 6, 16), (Reg.QRM_WITNESS_VALID.place .qrm 6, 1), (Reg.PORT_STAT_LINK_UP.place (.port 4), 1), (Reg.PORT_STAT_LINK_UP.place (.port 6), 1), (Reg.PORT_STAT_LINK_UP.place (.port 9), 1), (Reg.DEV_NODE_NODE.place .dev, 3), (Reg.QRM_FENCE_DP_MASK.place .qrm, 8)]) with qrm := { syncBuf := [(12, 0, 1)], table := [(99, 1)] } },
     { src := 10, dst := 3, seq := 77, epoch := 9 }, [(9, 1, 4), (3, 6, 2)], by decide +kernel⟩⟩

/-- The hypotheses of DigestsAreCompared can be met, clause by clause. -/
theorem wit_DigestsAreCompared :
    (∃ (s : State) (k : Fin 16), s.ready .dig = true ∧ s.flag .dig Reg.DIG_CTRL_EN = true ∧ s.flag .dig
      Reg.DIG_REGION_VALID k.val = true ∧ s.flag .dig Reg.DIG_REGION_SEALED k.val = true ∧ (s.dig k.val).dirty =
      false ∧ (((List.range (s.fld .dig Reg.DIG_REGION_LEN_PAGES k.val)).any fun i => (s.leaf (s.fldAddr .dig
      Reg.DIG_REGION_BASE_LO Reg.DIG_REGION_BASE_HI k.val / 65536 + i)).st == .poisoned) = false) ∧ s.fld .dig
      Reg.DIG_REGION_MSTATE k.val ≠ 2) ∧
    (∃ (s : State) (k : Fin 16) (own : BitVec 128), s.ready .dig = true ∧ s.flag .dig Reg.DIG_CTRL_EN = true ∧ s.flag
      .dig Reg.DIG_REGION_VALID k.val = true ∧ s.flag .dig Reg.DIG_REGION_SEALED k.val = true ∧ (s.dig k.val).dirty =
      false ∧ (((List.range (s.fld .dig Reg.DIG_REGION_LEN_PAGES k.val)).any fun i => (s.leaf (s.fldAddr .dig
      Reg.DIG_REGION_BASE_LO Reg.DIG_REGION_BASE_HI k.val / 65536 + i)).st == .poisoned) = false) ∧ s.fld .dig
      Reg.DIG_REGION_MSTATE k.val = 2 ∧ own = BitVec.ofNat 128 (s.digValue k.val) ∧ (s.digPeers k.val).map (·.2) =
      [own]) ∧
    (∃ (s : State) (k : Fin 16), s.ready .dig = true ∧ s.flag .dig Reg.DIG_CTRL_EN = true ∧ s.flag .dig
      Reg.DIG_REGION_VALID k.val = true ∧ s.flag .dig Reg.DIG_REGION_SEALED k.val = true ∧ ((s.dig k.val).dirty =
      true ∨ ((List.range (s.fld .dig Reg.DIG_REGION_LEN_PAGES k.val)).any fun i => (s.leaf (s.fldAddr .dig
      Reg.DIG_REGION_BASE_LO Reg.DIG_REGION_BASE_HI k.val / 65536 + i)).st == .poisoned) = true)) ∧
    (∃ (s : State) (k : Fin 16), (s.ready .dig = false ∨ s.flag .dig Reg.DIG_CTRL_EN = false ∨ s.flag .dig
      Reg.DIG_REGION_VALID k.val = false ∨ s.flag .dig Reg.DIG_REGION_SEALED k.val = false)) ∧
    (∃ (s : State) (k : Fin 16) (m : DigestMsg), s.ready .dig = true ∧ s.flag .dig Reg.DIG_CTRL_EN = true ∧ s.flag
      .dig Reg.DIG_REGION_VALID k.val = true ∧ (m.hdr.src, m.region.val) ∈ s.digMembers k.val ∧ m.group = s.fld .dig
      Reg.DIG_REGION_GROUP k.val ∧ (s.dig k.val).clean = false ∧ Map.get 0 (s.dig k.val).minority (m.hdr.src * 16 +
      m.region.val) ≠ 2 ∧ s.fld .dig Reg.DIG_REGION_MSTATE k.val ≠ 3 ∧ (m.hdr.src, m.hdr.seq) ∉ s.qrm.seen) ∧
    (∃ (s : State) (k : Fin 16) (m : DigestMsg) (l : Nat), s.ready .dig = true ∧ s.flag .dig Reg.DIG_CTRL_EN = true ∧
      s.flag .dig Reg.DIG_REGION_VALID k.val = true ∧ (m.hdr.src, m.region.val) ∈ s.digMembers k.val ∧ m.group =
      s.fld .dig Reg.DIG_REGION_GROUP k.val ∧ (s.dig k.val).clean = false ∧ Map.get 0 (s.dig k.val).minority
      (m.hdr.src * 16 + m.region.val) = 2 ∧ m.mstate ≠ 1 ∧ (s.leader = some l) ∧ s.fld .dig Reg.DIG_REGION_MSTATE
      k.val ≠ 3 ∧ (m.hdr.src, m.hdr.seq) ∉ s.qrm.seen) ∧
    (∃ (s : State) (k : Fin 16) (m : DigestMsg) (d : BitVec 128) (own : BitVec 128), s.ready .dig = true ∧ s.flag
      .dig Reg.DIG_CTRL_EN = true ∧ s.flag .dig Reg.DIG_REGION_VALID k.val = true ∧ (m.hdr.src, m.region.val) ∈
      s.digMembers k.val ∧ m.group = s.fld .dig Reg.DIG_REGION_GROUP k.val ∧ (s.dig k.val).clean = true ∧ own =
      BitVec.ofNat 128 (s.fld .dig Reg.DIG_REGION_DIGEST k.val) ∧ m.contentId = s.fld .dig Reg.DIG_REGION_CONTENT_ID
      k.val ∧ (m.digest = some d) ∧ Map.get 0 (s.dig k.val).minority (m.hdr.src * 16 + m.region.val) ≠ 2 ∧ (s.dig
      k.val).members = [] ∧ d = own ∧ (m.hdr.src, m.hdr.seq) ∉ s.qrm.seen) ∧
    (∃ (s : State) (k : Fin 16) (m : DigestMsg) (d : BitVec 128) (own : BitVec 128), s.ready .dig = true ∧ s.flag
      .dig Reg.DIG_CTRL_EN = true ∧ s.flag .dig Reg.DIG_REGION_VALID k.val = true ∧ (m.hdr.src, m.region.val) ∈
      s.digMembers k.val ∧ m.group = s.fld .dig Reg.DIG_REGION_GROUP k.val ∧ (s.dig k.val).clean = true ∧ own =
      BitVec.ofNat 128 (s.fld .dig Reg.DIG_REGION_DIGEST k.val) ∧ m.contentId = s.fld .dig Reg.DIG_REGION_CONTENT_ID
      k.val ∧ (m.digest = some d) ∧ Map.get 0 (s.dig k.val).minority (m.hdr.src * 16 + m.region.val) ≠ 2 ∧ (s.dig
      k.val).members = [] ∧ d ≠ own ∧ s.fld .dig Reg.DIG_REGION_MSTATE k.val = 0 ∧ s.node * 16 + k.val < m.hdr.src *
      16 + m.region.val ∧ (m.hdr.src, m.hdr.seq) ∉ s.qrm.seen) ∧
    (∃ (s : State) (k : Fin 16) (m : DigestMsg) (d : BitVec 128) (own : BitVec 128), s.ready .dig = true ∧ s.flag
      .dig Reg.DIG_CTRL_EN = true ∧ s.flag .dig Reg.DIG_REGION_VALID k.val = true ∧ (m.hdr.src, m.region.val) ∈
      s.digMembers k.val ∧ m.group = s.fld .dig Reg.DIG_REGION_GROUP k.val ∧ (s.dig k.val).clean = true ∧ own =
      BitVec.ofNat 128 (s.fld .dig Reg.DIG_REGION_DIGEST k.val) ∧ m.contentId = s.fld .dig Reg.DIG_REGION_CONTENT_ID
      k.val ∧ (m.digest = some d) ∧ Map.get 0 (s.dig k.val).minority (m.hdr.src * 16 + m.region.val) ≠ 2 ∧ (s.dig
      k.val).members = [] ∧ d ≠ own ∧ s.fld .dig Reg.DIG_REGION_MSTATE k.val = 0 ∧ m.hdr.src * 16 + m.region.val ≤
      s.node * 16 + k.val ∧ (m.hdr.src, m.hdr.seq) ∉ s.qrm.seen) ∧
    (∃ (s : State) (k : Fin 16) (m : DigestMsg) (d : BitVec 128) (own : BitVec 128) (m2 : DigestMsg) (d2 : BitVec
      128), s.ready .dig = true ∧ s.flag .dig Reg.DIG_CTRL_EN = true ∧ s.flag .dig Reg.DIG_REGION_VALID k.val = true
      ∧ (m.hdr.src, m.region.val) ∈ s.digMembers k.val ∧ m.group = s.fld .dig Reg.DIG_REGION_GROUP k.val ∧ (s.dig
      k.val).clean = true ∧ own = BitVec.ofNat 128 (s.fld .dig Reg.DIG_REGION_DIGEST k.val) ∧ m.contentId = s.fld
      .dig Reg.DIG_REGION_CONTENT_ID k.val ∧ (m.digest = some d) ∧ Map.get 0 (s.dig k.val).minority (m.hdr.src * 16 +
      m.region.val) ≠ 2 ∧ (s.dig k.val).members = [m2] ∧ m2.hdr.src * 16 + m2.region.val ≠ m.hdr.src * 16 +
      m.region.val ∧ (m2.hdr.src, m2.region.val) ≠ (m.hdr.src, m.region.val) ∧ (m2.hdr.src, m2.region.val) ∈
      s.digMembers k.val ∧ m2.group = m.group ∧ m2.contentId = m.contentId ∧ (m2.digest = some d2) ∧ s.fld .dig
      Reg.DIG_REGION_MSTATE k.val = 0 ∧ d = d2 ∧ d ≠ own ∧ (m.hdr.src, m.hdr.seq) ∉ s.qrm.seen) ∧
    (∃ (s : State) (k : Fin 16) (m : DigestMsg) (d : BitVec 128) (own : BitVec 128) (m2 : DigestMsg) (d2 : BitVec
      128), s.ready .dig = true ∧ s.flag .dig Reg.DIG_CTRL_EN = true ∧ s.flag .dig Reg.DIG_REGION_VALID k.val = true
      ∧ (m.hdr.src, m.region.val) ∈ s.digMembers k.val ∧ m.group = s.fld .dig Reg.DIG_REGION_GROUP k.val ∧ (s.dig
      k.val).clean = true ∧ own = BitVec.ofNat 128 (s.fld .dig Reg.DIG_REGION_DIGEST k.val) ∧ m.contentId = s.fld
      .dig Reg.DIG_REGION_CONTENT_ID k.val ∧ (m.digest = some d) ∧ Map.get 0 (s.dig k.val).minority (m.hdr.src * 16 +
      m.region.val) ≠ 2 ∧ (s.dig k.val).members = [m2] ∧ m2.hdr.src * 16 + m2.region.val ≠ m.hdr.src * 16 +
      m.region.val ∧ (m2.hdr.src, m2.region.val) ≠ (m.hdr.src, m.region.val) ∧ (m2.hdr.src, m2.region.val) ∈
      s.digMembers k.val ∧ m2.group = m.group ∧ m2.contentId = m.contentId ∧ (m2.digest = some d2) ∧ s.fld .dig
      Reg.DIG_REGION_MSTATE k.val = 0 ∧ d ≠ d2 ∧ d ≠ own ∧ d2 ≠ own ∧ (m.hdr.src, m.hdr.seq) ∉ s.qrm.seen) ∧
    (∃ (s : State) (k : Fin 16) (m : DigestMsg) (d : BitVec 128) (own : BitVec 128) (m2 : DigestMsg) (d2 : BitVec
      128), s.ready .dig = true ∧ s.flag .dig Reg.DIG_CTRL_EN = true ∧ s.flag .dig Reg.DIG_REGION_VALID k.val = true
      ∧ (m.hdr.src, m.region.val) ∈ s.digMembers k.val ∧ m.group = s.fld .dig Reg.DIG_REGION_GROUP k.val ∧ (s.dig
      k.val).clean = true ∧ own = BitVec.ofNat 128 (s.fld .dig Reg.DIG_REGION_DIGEST k.val) ∧ m.contentId = s.fld
      .dig Reg.DIG_REGION_CONTENT_ID k.val ∧ (m.digest = some d) ∧ Map.get 0 (s.dig k.val).minority (m.hdr.src * 16 +
      m.region.val) ≠ 2 ∧ (s.dig k.val).members = [m2] ∧ m2.hdr.src * 16 + m2.region.val ≠ m.hdr.src * 16 +
      m.region.val ∧ (m2.hdr.src, m2.region.val) ≠ (m.hdr.src, m.region.val) ∧ (m2.hdr.src, m2.region.val) ∈
      s.digMembers k.val ∧ m2.group = m.group ∧ m2.contentId = m.contentId ∧ (m2.digest = some d2) ∧ s.fld .dig
      Reg.DIG_REGION_MSTATE k.val = 0 ∧ d ≠ own ∧ d2 = own ∧ (m.hdr.src, m.hdr.seq) ∉ s.qrm.seen) ∧
    (∃ (s : State) (k : Fin 16) (m : DigestMsg), (s.ready .dig = false ∨ s.flag .dig Reg.DIG_CTRL_EN = false ∨ s.flag
      .dig Reg.DIG_REGION_VALID k.val = false ∨ (m.hdr.src, m.region.val) ∉ s.digMembers k.val ∨ m.group ≠ s.fld .dig
      Reg.DIG_REGION_GROUP k.val ∨ (m.hdr.src, m.hdr.seq) ∈ s.qrm.seen)) ∧
    (∃ (s : State) (k : Fin 16) (v : Word), s.ready .dig = true) ∧
    (∃ (s : State) (k : Fin 16) (v : Word), s.ready .dig = true) ∧
    (∃ (s : State) (k : Fin 16) (v : Word), s.ready .dig = true) ∧
    (∃ (s : State) (k : Fin 16) (v : Word), s.ready .dig = true) ∧
    (∃ (s : State) (k : Fin 16) (v : Word), s.ready .dig = true) ∧
    (∃ (s : State) (k : Fin 16) (v : Word), s.ready .dig = true) ∧
    (∃ (s : State) (k : Fin 16) (w : Fin 32) (v : Word) (a : Nat), s.ready .dig = true ∧ 16 ≤ w.val ∧ w.val < 24 ∧ a
      = Page.base .dig + 0x400 + k.val * 0x80 + w.val * 4) ∧
    (∃ (s : State) (k : Fin 16) (w : Fin 32) (v : Word), (s.ready .dig = false ∨ 5 < w.val ∧ w.val < 16 ∨ 24 ≤
      w.val)) :=
  ⟨⟨{ (((st [(Reg.PG_READY_READY.place .qrm, 1), (Reg.QRM_CTRL_EN.place .qrm, 1), (Reg.QRM_WIT_ACTIVE_MASK.place .qrm, 127), (Reg.QRM_WITNESS_NODE.place .qrm 0, 10), (Reg.QRM_WITNESS_VALID.place .qrm 0, 1), (Reg.QRM_WITNESS_NODE.place .qrm 1, 11), (Reg.QRM_WITNESS_VALID.place .qrm 1, 1), (Reg.QRM_WITNESS_NODE.place .qrm 2, 12), (Reg.QRM_WITNESS_VALID.place .qrm 2, 1), (Reg.QRM_WITNESS_NODE.place .qrm 3, 13), (Reg.QRM_WITNESS_VALID.place .qrm 3, 1), (Reg.QRM_WITNESS_NODE.place .qrm 4, 14), (Reg.QRM_WITNESS_VALID.place .qrm 4, 1), (Reg.QRM_WITNESS_NODE.place .qrm 5, 15), (Reg.QRM_WITNESS_VALID.place .qrm 5, 1), (Reg.QRM_WITNESS_NODE.place .qrm 6, 16), (Reg.QRM_WITNESS_VALID.place .qrm 6, 1), (Reg.PORT_STAT_LINK_UP.place (.port 4), 1), (Reg.PORT_STAT_LINK_UP.place (.port 6), 1), (Reg.PORT_STAT_LINK_UP.place (.port 9), 1), (Reg.DEV_NODE_NODE.place .dev, 3), (Reg.PG_READY_READY.place .dig, 1), (Reg.DIG_CTRL_EN.place .dig, 1), (Reg.DIG_REGION_VALID.place .dig 2, 1), (Reg.DIG_REGION_SEALED.place .dig 2, 1), (Reg.DIG_REGION_GROUP.place .dig 2, 7), (Reg.DIG_REGION_CONTENT_ID.place .dig 2, 99), (Reg.DIG_REGION_PART_MASK.place .dig 2, 6)]).setWord (Page.base .dig + 0x540) 69652).setWord (Page.base .dig + 0x544) 73749) with digs := [(2, {})] },
     2, by decide +kernel⟩,
   ⟨{ (((st [(Reg.PG_READY_READY.place .qrm, 1), (Reg.QRM_CTRL_EN.place .qrm, 1), (Reg.QRM_WIT_ACTIVE_MASK.place .qrm, 127), (Reg.QRM_WITNESS_NODE.place .qrm 0, 10), (Reg.QRM_WITNESS_VALID.place .qrm 0, 1), (Reg.QRM_WITNESS_NODE.place .qrm 1, 11), (Reg.QRM_WITNESS_VALID.place .qrm 1, 1), (Reg.QRM_WITNESS_NODE.place .qrm 2, 12), (Reg.QRM_WITNESS_VALID.place .qrm 2, 1), (Reg.QRM_WITNESS_NODE.place .qrm 3, 13), (Reg.QRM_WITNESS_VALID.place .qrm 3, 1), (Reg.QRM_WITNESS_NODE.place .qrm 4, 14), (Reg.QRM_WITNESS_VALID.place .qrm 4, 1), (Reg.QRM_WITNESS_NODE.place .qrm 5, 15), (Reg.QRM_WITNESS_VALID.place .qrm 5, 1), (Reg.QRM_WITNESS_NODE.place .qrm 6, 16), (Reg.QRM_WITNESS_VALID.place .qrm 6, 1), (Reg.PORT_STAT_LINK_UP.place (.port 4), 1), (Reg.PORT_STAT_LINK_UP.place (.port 6), 1), (Reg.PORT_STAT_LINK_UP.place (.port 9), 1), (Reg.DEV_NODE_NODE.place .dev, 3), (Reg.PG_READY_READY.place .dig, 1), (Reg.DIG_CTRL_EN.place .dig, 1), (Reg.DIG_REGION_VALID.place .dig 2, 1), (Reg.DIG_REGION_SEALED.place .dig 2, 1), (Reg.DIG_REGION_GROUP.place .dig 2, 7), (Reg.DIG_REGION_CONTENT_ID.place .dig 2, 99), (Reg.DIG_REGION_PART_MASK.place .dig 2, 6), (Reg.DIG_REGION_MSTATE.place .dig 2, 2), (Reg.DIG_REGION_LEN_PAGES.place .dig 2, 0)]).setWord (Page.base .dig + 0x540) 69652).setWord (Page.base .dig + 0x544) 73749) with digs := [(2, { members := [{ hdr := { src := 20, dst := 3, seq := 9, epoch := 0 }, region := 1, group := 7, contentId := 99, digest := some 0, mstate := 0, partMask := 1 }] })] },
     2, 0, by decide +kernel⟩,
   ⟨{ (((st [(Reg.PG_READY_READY.place .qrm, 1), (Reg.QRM_CTRL_EN.place .qrm, 1), (Reg.QRM_WIT_ACTIVE_MASK.place .qrm, 127), (Reg.QRM_WITNESS_NODE.place .qrm 0, 10), (Reg.QRM_WITNESS_VALID.place .qrm 0, 1), (Reg.QRM_WITNESS_NODE.place .qrm 1, 11), (Reg.QRM_WITNESS_VALID.place .qrm 1, 1), (Reg.QRM_WITNESS_NODE.place .qrm 2, 12), (Reg.QRM_WITNESS_VALID.place .qrm 2, 1), (Reg.QRM_WITNESS_NODE.place .qrm 3, 13), (Reg.QRM_WITNESS_VALID.place .qrm 3, 1), (Reg.QRM_WITNESS_NODE.place .qrm 4, 14), (Reg.QRM_WITNESS_VALID.place .qrm 4, 1), (Reg.QRM_WITNESS_NODE.place .qrm 5, 15), (Reg.QRM_WITNESS_VALID.place .qrm 5, 1), (Reg.QRM_WITNESS_NODE.place .qrm 6, 16), (Reg.QRM_WITNESS_VALID.place .qrm 6, 1), (Reg.PORT_STAT_LINK_UP.place (.port 4), 1), (Reg.PORT_STAT_LINK_UP.place (.port 6), 1), (Reg.PORT_STAT_LINK_UP.place (.port 9), 1), (Reg.DEV_NODE_NODE.place .dev, 3), (Reg.PG_READY_READY.place .dig, 1), (Reg.DIG_CTRL_EN.place .dig, 1), (Reg.DIG_REGION_VALID.place .dig 2, 1), (Reg.DIG_REGION_SEALED.place .dig 2, 1), (Reg.DIG_REGION_GROUP.place .dig 2, 7), (Reg.DIG_REGION_CONTENT_ID.place .dig 2, 99), (Reg.DIG_REGION_PART_MASK.place .dig 2, 6)]).setWord (Page.base .dig + 0x540) 69652).setWord (Page.base .dig + 0x544) 73749) with digs := [(2, { dirty := true })] },
     2, by decide +kernel⟩,
   ⟨{ (((st [(Reg.PG_READY_READY.place .qrm, 1), (Reg.QRM_CTRL_EN.place .qrm, 1), (Reg.QRM_WIT_ACTIVE_MASK.place .qrm, 127), (Reg.QRM_WITNESS_NODE.place .qrm 0, 10), (Reg.QRM_WITNESS_VALID.place .qrm 0, 1), (Reg.QRM_WITNESS_NODE.place .qrm 1, 11), (Reg.QRM_WITNESS_VALID.place .qrm 1, 1), (Reg.QRM_WITNESS_NODE.place .qrm 2, 12), (Reg.QRM_WITNESS_VALID.place .qrm 2, 1), (Reg.QRM_WITNESS_NODE.place .qrm 3, 13), (Reg.QRM_WITNESS_VALID.place .qrm 3, 1), (Reg.QRM_WITNESS_NODE.place .qrm 4, 14), (Reg.QRM_WITNESS_VALID.place .qrm 4, 1), (Reg.QRM_WITNESS_NODE.place .qrm 5, 15), (Reg.QRM_WITNESS_VALID.place .qrm 5, 1), (Reg.QRM_WITNESS_NODE.place .qrm 6, 16), (Reg.QRM_WITNESS_VALID.place .qrm 6, 1), (Reg.PORT_STAT_LINK_UP.place (.port 4), 1), (Reg.PORT_STAT_LINK_UP.place (.port 6), 1), (Reg.PORT_STAT_LINK_UP.place (.port 9), 1), (Reg.DEV_NODE_NODE.place .dev, 3), (Reg.PG_READY_READY.place .dig, 1), (Reg.DIG_CTRL_EN.place .dig, 1), (Reg.DIG_REGION_VALID.place .dig 2, 1), (Reg.DIG_REGION_SEALED.place .dig 2, 1), (Reg.DIG_REGION_GROUP.place .dig 2, 7), (Reg.DIG_REGION_CONTENT_ID.place .dig 2, 99), (Reg.DIG_REGION_PART_MASK.place .dig 2, 6)]).setWord (Page.base .dig + 0x540) 69652).setWord (Page.base .dig + 0x544) 73749) with digs := [(2, {})] },
     3, by decide +kernel⟩,
   ⟨{ (((st [(Reg.PG_READY_READY.place .qrm, 1), (Reg.QRM_CTRL_EN.place .qrm, 1), (Reg.QRM_WIT_ACTIVE_MASK.place .qrm, 127), (Reg.QRM_WITNESS_NODE.place .qrm 0, 10), (Reg.QRM_WITNESS_VALID.place .qrm 0, 1), (Reg.QRM_WITNESS_NODE.place .qrm 1, 11), (Reg.QRM_WITNESS_VALID.place .qrm 1, 1), (Reg.QRM_WITNESS_NODE.place .qrm 2, 12), (Reg.QRM_WITNESS_VALID.place .qrm 2, 1), (Reg.QRM_WITNESS_NODE.place .qrm 3, 13), (Reg.QRM_WITNESS_VALID.place .qrm 3, 1), (Reg.QRM_WITNESS_NODE.place .qrm 4, 14), (Reg.QRM_WITNESS_VALID.place .qrm 4, 1), (Reg.QRM_WITNESS_NODE.place .qrm 5, 15), (Reg.QRM_WITNESS_VALID.place .qrm 5, 1), (Reg.QRM_WITNESS_NODE.place .qrm 6, 16), (Reg.QRM_WITNESS_VALID.place .qrm 6, 1), (Reg.PORT_STAT_LINK_UP.place (.port 4), 1), (Reg.PORT_STAT_LINK_UP.place (.port 6), 1), (Reg.PORT_STAT_LINK_UP.place (.port 9), 1), (Reg.DEV_NODE_NODE.place .dev, 3), (Reg.PG_READY_READY.place .dig, 1), (Reg.DIG_CTRL_EN.place .dig, 1), (Reg.DIG_REGION_VALID.place .dig 2, 1), (Reg.DIG_REGION_SEALED.place .dig 2, 1), (Reg.DIG_REGION_GROUP.place .dig 2, 7), (Reg.DIG_REGION_CONTENT_ID.place .dig 2, 99), (Reg.DIG_REGION_PART_MASK.place .dig 2, 6)]).setWord (Page.base .dig + 0x540) 69652).setWord (Page.base .dig + 0x544) 73749) with digs := [(2, {})] },
     2,
     { hdr := { src := 20, dst := 3, seq := 9, epoch := 0 }, region := 1, group := 7, contentId := 99, digest := some 5, mstate := 0, partMask := 1 },
     by decide +kernel⟩,
   ⟨{ (((st [(Reg.PG_READY_READY.place .qrm, 1), (Reg.QRM_CTRL_EN.place .qrm, 1), (Reg.QRM_WIT_ACTIVE_MASK.place .qrm, 127), (Reg.QRM_WITNESS_NODE.place .qrm 0, 10), (Reg.QRM_WITNESS_VALID.place .qrm 0, 1), (Reg.QRM_WITNESS_NODE.place .qrm 1, 11), (Reg.QRM_WITNESS_VALID.place .qrm 1, 1), (Reg.QRM_WITNESS_NODE.place .qrm 2, 12), (Reg.QRM_WITNESS_VALID.place .qrm 2, 1), (Reg.QRM_WITNESS_NODE.place .qrm 3, 13), (Reg.QRM_WITNESS_VALID.place .qrm 3, 1), (Reg.QRM_WITNESS_NODE.place .qrm 4, 14), (Reg.QRM_WITNESS_VALID.place .qrm 4, 1), (Reg.QRM_WITNESS_NODE.place .qrm 5, 15), (Reg.QRM_WITNESS_VALID.place .qrm 5, 1), (Reg.QRM_WITNESS_NODE.place .qrm 6, 16), (Reg.QRM_WITNESS_VALID.place .qrm 6, 1), (Reg.PORT_STAT_LINK_UP.place (.port 4), 1), (Reg.PORT_STAT_LINK_UP.place (.port 6), 1), (Reg.PORT_STAT_LINK_UP.place (.port 9), 1), (Reg.DEV_NODE_NODE.place .dev, 3), (Reg.PG_READY_READY.place .dig, 1), (Reg.DIG_CTRL_EN.place .dig, 1), (Reg.DIG_REGION_VALID.place .dig 2, 1), (Reg.DIG_REGION_SEALED.place .dig 2, 1), (Reg.DIG_REGION_GROUP.place .dig 2, 7), (Reg.DIG_REGION_CONTENT_ID.place .dig 2, 99), (Reg.DIG_REGION_PART_MASK.place .dig 2, 6)]).setWord (Page.base .dig + 0x540) 69652).setWord (Page.base .dig + 0x544) 73749) with digs := [(2, { minority := [(321, 2)] })] },
     2,
     { hdr := { src := 20, dst := 3, seq := 9, epoch := 0 }, region := 1, group := 7, contentId := 99, digest := some 5, mstate := 0, partMask := 1 },
     10, by decide +kernel⟩,
   ⟨{ (((st [(Reg.PG_READY_READY.place .qrm, 1), (Reg.QRM_CTRL_EN.place .qrm, 1), (Reg.QRM_WIT_ACTIVE_MASK.place .qrm, 127), (Reg.QRM_WITNESS_NODE.place .qrm 0, 10), (Reg.QRM_WITNESS_VALID.place .qrm 0, 1), (Reg.QRM_WITNESS_NODE.place .qrm 1, 11), (Reg.QRM_WITNESS_VALID.place .qrm 1, 1), (Reg.QRM_WITNESS_NODE.place .qrm 2, 12), (Reg.QRM_WITNESS_VALID.place .qrm 2, 1), (Reg.QRM_WITNESS_NODE.place .qrm 3, 13), (Reg.QRM_WITNESS_VALID.place .qrm 3, 1), (Reg.QRM_WITNESS_NODE.place .qrm 4, 14), (Reg.QRM_WITNESS_VALID.place .qrm 4, 1), (Reg.QRM_WITNESS_NODE.place .qrm 5, 15), (Reg.QRM_WITNESS_VALID.place .qrm 5, 1), (Reg.QRM_WITNESS_NODE.place .qrm 6, 16), (Reg.QRM_WITNESS_VALID.place .qrm 6, 1), (Reg.PORT_STAT_LINK_UP.place (.port 4), 1), (Reg.PORT_STAT_LINK_UP.place (.port 6), 1), (Reg.PORT_STAT_LINK_UP.place (.port 9), 1), (Reg.DEV_NODE_NODE.place .dev, 3), (Reg.PG_READY_READY.place .dig, 1), (Reg.DIG_CTRL_EN.place .dig, 1), (Reg.DIG_REGION_VALID.place .dig 2, 1), (Reg.DIG_REGION_SEALED.place .dig 2, 1), (Reg.DIG_REGION_GROUP.place .dig 2, 7), (Reg.DIG_REGION_CONTENT_ID.place .dig 2, 99), (Reg.DIG_REGION_PART_MASK.place .dig 2, 6)]).setWord (Page.base .dig + 0x540) 69652).setWord (Page.base .dig + 0x544) 73749) with digs := [(2, { clean := true })] },
     2,
     { hdr := { src := 20, dst := 3, seq := 9, epoch := 0 }, region := 1, group := 7, contentId := 99, digest := some 0, mstate := 0, partMask := 1 },
     0, 0, by decide +kernel⟩,
   ⟨{ (((st [(Reg.PG_READY_READY.place .qrm, 1), (Reg.QRM_CTRL_EN.place .qrm, 1), (Reg.QRM_WIT_ACTIVE_MASK.place .qrm, 127), (Reg.QRM_WITNESS_NODE.place .qrm 0, 10), (Reg.QRM_WITNESS_VALID.place .qrm 0, 1), (Reg.QRM_WITNESS_NODE.place .qrm 1, 11), (Reg.QRM_WITNESS_VALID.place .qrm 1, 1), (Reg.QRM_WITNESS_NODE.place .qrm 2, 12), (Reg.QRM_WITNESS_VALID.place .qrm 2, 1), (Reg.QRM_WITNESS_NODE.place .qrm 3, 13), (Reg.QRM_WITNESS_VALID.place .qrm 3, 1), (Reg.QRM_WITNESS_NODE.place .qrm 4, 14), (Reg.QRM_WITNESS_VALID.place .qrm 4, 1), (Reg.QRM_WITNESS_NODE.place .qrm 5, 15), (Reg.QRM_WITNESS_VALID.place .qrm 5, 1), (Reg.QRM_WITNESS_NODE.place .qrm 6, 16), (Reg.QRM_WITNESS_VALID.place .qrm 6, 1), (Reg.PORT_STAT_LINK_UP.place (.port 4), 1), (Reg.PORT_STAT_LINK_UP.place (.port 6), 1), (Reg.PORT_STAT_LINK_UP.place (.port 9), 1), (Reg.DEV_NODE_NODE.place .dev, 3), (Reg.PG_READY_READY.place .dig, 1), (Reg.DIG_CTRL_EN.place .dig, 1), (Reg.DIG_REGION_VALID.place .dig 2, 1), (Reg.DIG_REGION_SEALED.place .dig 2, 1), (Reg.DIG_REGION_GROUP.place .dig 2, 7), (Reg.DIG_REGION_CONTENT_ID.place .dig 2, 99), (Reg.DIG_REGION_PART_MASK.place .dig 2, 6)]).setWord (Page.base .dig + 0x540) 69652).setWord (Page.base .dig + 0x544) 73749) with digs := [(2, { clean := true })] },
     2,
     { hdr := { src := 20, dst := 3, seq := 9, epoch := 0 }, region := 1, group := 7, contentId := 99, digest := some 5, mstate := 0, partMask := 1 },
     5, 0, by decide +kernel⟩,
   ⟨{ (((st [(Reg.PG_READY_READY.place .qrm, 1), (Reg.QRM_CTRL_EN.place .qrm, 1), (Reg.QRM_WIT_ACTIVE_MASK.place .qrm, 127), (Reg.QRM_WITNESS_NODE.place .qrm 0, 10), (Reg.QRM_WITNESS_VALID.place .qrm 0, 1), (Reg.QRM_WITNESS_NODE.place .qrm 1, 11), (Reg.QRM_WITNESS_VALID.place .qrm 1, 1), (Reg.QRM_WITNESS_NODE.place .qrm 2, 12), (Reg.QRM_WITNESS_VALID.place .qrm 2, 1), (Reg.QRM_WITNESS_NODE.place .qrm 3, 13), (Reg.QRM_WITNESS_VALID.place .qrm 3, 1), (Reg.QRM_WITNESS_NODE.place .qrm 4, 14), (Reg.QRM_WITNESS_VALID.place .qrm 4, 1), (Reg.QRM_WITNESS_NODE.place .qrm 5, 15), (Reg.QRM_WITNESS_VALID.place .qrm 5, 1), (Reg.QRM_WITNESS_NODE.place .qrm 6, 16), (Reg.QRM_WITNESS_VALID.place .qrm 6, 1), (Reg.PORT_STAT_LINK_UP.place (.port 4), 1), (Reg.PORT_STAT_LINK_UP.place (.port 6), 1), (Reg.PORT_STAT_LINK_UP.place (.port 9), 1), (Reg.DEV_NODE_NODE.place .dev, 3), (Reg.PG_READY_READY.place .dig, 1), (Reg.DIG_CTRL_EN.place .dig, 1), (Reg.DIG_REGION_VALID.place .dig 2, 1), (Reg.DIG_REGION_SEALED.place .dig 2, 1), (Reg.DIG_REGION_GROUP.place .dig 2, 7), (Reg.DIG_REGION_CONTENT_ID.place .dig 2, 99), (Reg.DIG_REGION_PART_MASK.place .dig 2, 6)]).setWord (Page.base .dig + 0x540) 69634).setWord (Page.base .dig + 0x544) 73749) with digs := [(2, { clean := true })] },
     2,
     { hdr := { src := 2, dst := 3, seq := 9, epoch := 0 }, region := 1, group := 7, contentId := 99, digest := some 5, mstate := 0, partMask := 1 },
     5, 0, by decide +kernel⟩,
   ⟨{ (((st [(Reg.PG_READY_READY.place .qrm, 1), (Reg.QRM_CTRL_EN.place .qrm, 1), (Reg.QRM_WIT_ACTIVE_MASK.place .qrm, 127), (Reg.QRM_WITNESS_NODE.place .qrm 0, 10), (Reg.QRM_WITNESS_VALID.place .qrm 0, 1), (Reg.QRM_WITNESS_NODE.place .qrm 1, 11), (Reg.QRM_WITNESS_VALID.place .qrm 1, 1), (Reg.QRM_WITNESS_NODE.place .qrm 2, 12), (Reg.QRM_WITNESS_VALID.place .qrm 2, 1), (Reg.QRM_WITNESS_NODE.place .qrm 3, 13), (Reg.QRM_WITNESS_VALID.place .qrm 3, 1), (Reg.QRM_WITNESS_NODE.place .qrm 4, 14), (Reg.QRM_WITNESS_VALID.place .qrm 4, 1), (Reg.QRM_WITNESS_NODE.place .qrm 5, 15), (Reg.QRM_WITNESS_VALID.place .qrm 5, 1), (Reg.QRM_WITNESS_NODE.place .qrm 6, 16), (Reg.QRM_WITNESS_VALID.place .qrm 6, 1), (Reg.PORT_STAT_LINK_UP.place (.port 4), 1), (Reg.PORT_STAT_LINK_UP.place (.port 6), 1), (Reg.PORT_STAT_LINK_UP.place (.port 9), 1), (Reg.DEV_NODE_NODE.place .dev, 3), (Reg.PG_READY_READY.place .dig, 1), (Reg.DIG_CTRL_EN.place .dig, 1), (Reg.DIG_REGION_VALID.place .dig 2, 1), (Reg.DIG_REGION_SEALED.place .dig 2, 1), (Reg.DIG_REGION_GROUP.place .dig 2, 7), (Reg.DIG_REGION_CONTENT_ID.place .dig 2, 99), (Reg.DIG_REGION_PART_MASK.place .dig 2, 6)]).setWord (Page.base .dig + 0x540) 69652).setWord (Page.base .dig + 0x544) 73749) with digs := [(2, { clean := true, members := [{ hdr := { src := 21, dst := 3, seq := 9, epoch := 0 }, region := 2, group := 7, contentId := 99, digest := some 5, mstate := 0, partMask := 1 }] })] },
     2,
     { hdr := { src := 20, dst := 3, seq := 9, epoch := 0 }, region := 1, group := 7, contentId := 99, digest := some 5, mstate := 0, partMask := 1 },
     5, 0,
     { hdr := { src := 21, dst := 3, seq := 9, epoch := 0 }, region := 2, group := 7, contentId := 99, digest := some 5, mstate := 0, partMask := 1 },
     5, by decide +kernel⟩,
   ⟨{ (((st [(Reg.PG_READY_READY.place .qrm, 1), (Reg.QRM_CTRL_EN.place .qrm, 1), (Reg.QRM_WIT_ACTIVE_MASK.place .qrm, 127), (Reg.QRM_WITNESS_NODE.place .qrm 0, 10), (Reg.QRM_WITNESS_VALID.place .qrm 0, 1), (Reg.QRM_WITNESS_NODE.place .qrm 1, 11), (Reg.QRM_WITNESS_VALID.place .qrm 1, 1), (Reg.QRM_WITNESS_NODE.place .qrm 2, 12), (Reg.QRM_WITNESS_VALID.place .qrm 2, 1), (Reg.QRM_WITNESS_NODE.place .qrm 3, 13), (Reg.QRM_WITNESS_VALID.place .qrm 3, 1), (Reg.QRM_WITNESS_NODE.place .qrm 4, 14), (Reg.QRM_WITNESS_VALID.place .qrm 4, 1), (Reg.QRM_WITNESS_NODE.place .qrm 5, 15), (Reg.QRM_WITNESS_VALID.place .qrm 5, 1), (Reg.QRM_WITNESS_NODE.place .qrm 6, 16), (Reg.QRM_WITNESS_VALID.place .qrm 6, 1), (Reg.PORT_STAT_LINK_UP.place (.port 4), 1), (Reg.PORT_STAT_LINK_UP.place (.port 6), 1), (Reg.PORT_STAT_LINK_UP.place (.port 9), 1), (Reg.DEV_NODE_NODE.place .dev, 3), (Reg.PG_READY_READY.place .dig, 1), (Reg.DIG_CTRL_EN.place .dig, 1), (Reg.DIG_REGION_VALID.place .dig 2, 1), (Reg.DIG_REGION_SEALED.place .dig 2, 1), (Reg.DIG_REGION_GROUP.place .dig 2, 7), (Reg.DIG_REGION_CONTENT_ID.place .dig 2, 99), (Reg.DIG_REGION_PART_MASK.place .dig 2, 6)]).setWord (Page.base .dig + 0x540) 69652).setWord (Page.base .dig + 0x544) 73749) with digs := [(2, { clean := true, members := [{ hdr := { src := 21, dst := 3, seq := 9, epoch := 0 }, region := 2, group := 7, contentId := 99, digest := some 6, mstate := 0, partMask := 1 }] })] },
     2,
     { hdr := { src := 20, dst := 3, seq := 9, epoch := 0 }, region := 1, group := 7, contentId := 99, digest := some 5, mstate := 0, partMask := 1 },
     5, 0,
     { hdr := { src := 21, dst := 3, seq := 9, epoch := 0 }, region := 2, group := 7, contentId := 99, digest := some 6, mstate := 0, partMask := 1 },
     6, by decide +kernel⟩,
   ⟨{ (((st [(Reg.PG_READY_READY.place .qrm, 1), (Reg.QRM_CTRL_EN.place .qrm, 1), (Reg.QRM_WIT_ACTIVE_MASK.place .qrm, 127), (Reg.QRM_WITNESS_NODE.place .qrm 0, 10), (Reg.QRM_WITNESS_VALID.place .qrm 0, 1), (Reg.QRM_WITNESS_NODE.place .qrm 1, 11), (Reg.QRM_WITNESS_VALID.place .qrm 1, 1), (Reg.QRM_WITNESS_NODE.place .qrm 2, 12), (Reg.QRM_WITNESS_VALID.place .qrm 2, 1), (Reg.QRM_WITNESS_NODE.place .qrm 3, 13), (Reg.QRM_WITNESS_VALID.place .qrm 3, 1), (Reg.QRM_WITNESS_NODE.place .qrm 4, 14), (Reg.QRM_WITNESS_VALID.place .qrm 4, 1), (Reg.QRM_WITNESS_NODE.place .qrm 5, 15), (Reg.QRM_WITNESS_VALID.place .qrm 5, 1), (Reg.QRM_WITNESS_NODE.place .qrm 6, 16), (Reg.QRM_WITNESS_VALID.place .qrm 6, 1), (Reg.PORT_STAT_LINK_UP.place (.port 4), 1), (Reg.PORT_STAT_LINK_UP.place (.port 6), 1), (Reg.PORT_STAT_LINK_UP.place (.port 9), 1), (Reg.DEV_NODE_NODE.place .dev, 3), (Reg.PG_READY_READY.place .dig, 1), (Reg.DIG_CTRL_EN.place .dig, 1), (Reg.DIG_REGION_VALID.place .dig 2, 1), (Reg.DIG_REGION_SEALED.place .dig 2, 1), (Reg.DIG_REGION_GROUP.place .dig 2, 7), (Reg.DIG_REGION_CONTENT_ID.place .dig 2, 99), (Reg.DIG_REGION_PART_MASK.place .dig 2, 6)]).setWord (Page.base .dig + 0x540) 69652).setWord (Page.base .dig + 0x544) 73749) with digs := [(2, { clean := true, members := [{ hdr := { src := 21, dst := 3, seq := 9, epoch := 0 }, region := 2, group := 7, contentId := 99, digest := some 0, mstate := 0, partMask := 1 }] })] },
     2,
     { hdr := { src := 20, dst := 3, seq := 9, epoch := 0 }, region := 1, group := 7, contentId := 99, digest := some 5, mstate := 0, partMask := 1 },
     5, 0,
     { hdr := { src := 21, dst := 3, seq := 9, epoch := 0 }, region := 2, group := 7, contentId := 99, digest := some 0, mstate := 0, partMask := 1 },
     0, by decide +kernel⟩,
   ⟨{ (((st [(Reg.PG_READY_READY.place .qrm, 1), (Reg.QRM_CTRL_EN.place .qrm, 1), (Reg.QRM_WIT_ACTIVE_MASK.place .qrm, 127), (Reg.QRM_WITNESS_NODE.place .qrm 0, 10), (Reg.QRM_WITNESS_VALID.place .qrm 0, 1), (Reg.QRM_WITNESS_NODE.place .qrm 1, 11), (Reg.QRM_WITNESS_VALID.place .qrm 1, 1), (Reg.QRM_WITNESS_NODE.place .qrm 2, 12), (Reg.QRM_WITNESS_VALID.place .qrm 2, 1), (Reg.QRM_WITNESS_NODE.place .qrm 3, 13), (Reg.QRM_WITNESS_VALID.place .qrm 3, 1), (Reg.QRM_WITNESS_NODE.place .qrm 4, 14), (Reg.QRM_WITNESS_VALID.place .qrm 4, 1), (Reg.QRM_WITNESS_NODE.place .qrm 5, 15), (Reg.QRM_WITNESS_VALID.place .qrm 5, 1), (Reg.QRM_WITNESS_NODE.place .qrm 6, 16), (Reg.QRM_WITNESS_VALID.place .qrm 6, 1), (Reg.PORT_STAT_LINK_UP.place (.port 4), 1), (Reg.PORT_STAT_LINK_UP.place (.port 6), 1), (Reg.PORT_STAT_LINK_UP.place (.port 9), 1), (Reg.DEV_NODE_NODE.place .dev, 3), (Reg.PG_READY_READY.place .dig, 1), (Reg.DIG_CTRL_EN.place .dig, 1), (Reg.DIG_REGION_VALID.place .dig 2, 1), (Reg.DIG_REGION_SEALED.place .dig 2, 1), (Reg.DIG_REGION_GROUP.place .dig 2, 7), (Reg.DIG_REGION_CONTENT_ID.place .dig 2, 99), (Reg.DIG_REGION_PART_MASK.place .dig 2, 6)]).setWord (Page.base .dig + 0x540) 69652).setWord (Page.base .dig + 0x544) 73749) with digs := [(2, {})] },
     2,
     { hdr := { src := 25, dst := 3, seq := 9, epoch := 0 }, region := 1, group := 7, contentId := 99, digest := none, mstate := 0, partMask := 1 },
     by decide +kernel⟩,
   ⟨{ (((st [(Reg.PG_READY_READY.place .qrm, 1), (Reg.QRM_CTRL_EN.place .qrm, 1), (Reg.QRM_WIT_ACTIVE_MASK.place .qrm, 127), (Reg.QRM_WITNESS_NODE.place .qrm 0, 10), (Reg.QRM_WITNESS_VALID.place .qrm 0, 1), (Reg.QRM_WITNESS_NODE.place .qrm 1, 11), (Reg.QRM_WITNESS_VALID.place .qrm 1, 1), (Reg.QRM_WITNESS_NODE.place .qrm 2, 12), (Reg.QRM_WITNESS_VALID.place .qrm 2, 1), (Reg.QRM_WITNESS_NODE.place .qrm 3, 13), (Reg.QRM_WITNESS_VALID.place .qrm 3, 1), (Reg.QRM_WITNESS_NODE.place .qrm 4, 14), (Reg.QRM_WITNESS_VALID.place .qrm 4, 1), (Reg.QRM_WITNESS_NODE.place .qrm 5, 15), (Reg.QRM_WITNESS_VALID.place .qrm 5, 1), (Reg.QRM_WITNESS_NODE.place .qrm 6, 16), (Reg.QRM_WITNESS_VALID.place .qrm 6, 1), (Reg.PORT_STAT_LINK_UP.place (.port 4), 1), (Reg.PORT_STAT_LINK_UP.place (.port 6), 1), (Reg.PORT_STAT_LINK_UP.place (.port 9), 1), (Reg.DEV_NODE_NODE.place .dev, 3), (Reg.PG_READY_READY.place .dig, 1), (Reg.DIG_CTRL_EN.place .dig, 1), (Reg.DIG_REGION_VALID.place .dig 2, 1), (Reg.DIG_REGION_SEALED.place .dig 2, 1), (Reg.DIG_REGION_GROUP.place .dig 2, 7), (Reg.DIG_REGION_CONTENT_ID.place .dig 2, 99), (Reg.DIG_REGION_PART_MASK.place .dig 2, 6), (Reg.DIG_REGION_MSTATE.place .dig 2, 1)]).setWord (Page.base .dig + 0x540) 69652).setWord (Page.base .dig + 0x544) 73749) with digs := [(2, {})] },
     2, 0x90001, by decide +kernel⟩,
   ⟨{ (((st [(Reg.PG_READY_READY.place .qrm, 1), (Reg.QRM_CTRL_EN.place .qrm, 1), (Reg.QRM_WIT_ACTIVE_MASK.place .qrm, 127), (Reg.QRM_WITNESS_NODE.place .qrm 0, 10), (Reg.QRM_WITNESS_VALID.place .qrm 0, 1), (Reg.QRM_WITNESS_NODE.place .qrm 1, 11), (Reg.QRM_WITNESS_VALID.place .qrm 1, 1), (Reg.QRM_WITNESS_NODE.place .qrm 2, 12), (Reg.QRM_WITNESS_VALID.place .qrm 2, 1), (Reg.QRM_WITNESS_NODE.place .qrm 3, 13), (Reg.QRM_WITNESS_VALID.place .qrm 3, 1), (Reg.QRM_WITNESS_NODE.place .qrm 4, 14), (Reg.QRM_WITNESS_VALID.place .qrm 4, 1), (Reg.QRM_WITNESS_NODE.place .qrm 5, 15), (Reg.QRM_WITNESS_VALID.place .qrm 5, 1), (Reg.QRM_WITNESS_NODE.place .qrm 6, 16), (Reg.QRM_WITNESS_VALID.place .qrm 6, 1), (Reg.PORT_STAT_LINK_UP.place (.port 4), 1), (Reg.PORT_STAT_LINK_UP.place (.port 6), 1), (Reg.PORT_STAT_LINK_UP.place (.port 9), 1), (Reg.DEV_NODE_NODE.place .dev, 3), (Reg.PG_READY_READY.place .dig, 1), (Reg.DIG_CTRL_EN.place .dig, 1), (Reg.DIG_REGION_VALID.place .dig 2, 1), (Reg.DIG_REGION_SEALED.place .dig 2, 1), (Reg.DIG_REGION_GROUP.place .dig 2, 7), (Reg.DIG_REGION_CONTENT_ID.place .dig 2, 99), (Reg.DIG_REGION_PART_MASK.place .dig 2, 6)]).setWord (Page.base .dig + 0x540) 69652).setWord (Page.base .dig + 0x544) 73749) with digs := [(2, {})] },
     15, 0x90001, by decide +kernel⟩,
   ⟨{ (((st [(Reg.PG_READY_READY.place .qrm, 1), (Reg.QRM_CTRL_EN.place .qrm, 1), (Reg.QRM_WIT_ACTIVE_MASK.place .qrm, 127), (Reg.QRM_WITNESS_NODE.place .qrm 0, 10), (Reg.QRM_WITNESS_VALID.place .qrm 0, 1), (Reg.QRM_WITNESS_NODE.place .qrm 1, 11), (Reg.QRM_WITNESS_VALID.place .qrm 1, 1), (Reg.QRM_WITNESS_NODE.place .qrm 2, 12), (Reg.QRM_WITNESS_VALID.place .qrm 2, 1), (Reg.QRM_WITNESS_NODE.place .qrm 3, 13), (Reg.QRM_WITNESS_VALID.place .qrm 3, 1), (Reg.QRM_WITNESS_NODE.place .qrm 4, 14), (Reg.QRM_WITNESS_VALID.place .qrm 4, 1), (Reg.QRM_WITNESS_NODE.place .qrm 5, 15), (Reg.QRM_WITNESS_VALID.place .qrm 5, 1), (Reg.QRM_WITNESS_NODE.place .qrm 6, 16), (Reg.QRM_WITNESS_VALID.place .qrm 6, 1), (Reg.PORT_STAT_LINK_UP.place (.port 4), 1), (Reg.PORT_STAT_LINK_UP.place (.port 6), 1), (Reg.PORT_STAT_LINK_UP.place (.port 9), 1), (Reg.DEV_NODE_NODE.place .dev, 3), (Reg.PG_READY_READY.place .dig, 1), (Reg.DIG_CTRL_EN.place .dig, 1), (Reg.DIG_REGION_VALID.place .dig 2, 1), (Reg.DIG_REGION_SEALED.place .dig 2, 1), (Reg.DIG_REGION_GROUP.place .dig 2, 7), (Reg.DIG_REGION_CONTENT_ID.place .dig 2, 99), (Reg.DIG_REGION_PART_MASK.place .dig 2, 6)]).setWord (Page.base .dig + 0x540) 69652).setWord (Page.base .dig + 0x544) 73749) with digs := [(2, {})] },
     15, 0x90001, by decide +kernel⟩,
   ⟨{ (((st [(Reg.PG_READY_READY.place .qrm, 1), (Reg.QRM_CTRL_EN.place .qrm, 1), (Reg.QRM_WIT_ACTIVE_MASK.place .qrm, 127), (Reg.QRM_WITNESS_NODE.place .qrm 0, 10), (Reg.QRM_WITNESS_VALID.place .qrm 0, 1), (Reg.QRM_WITNESS_NODE.place .qrm 1, 11), (Reg.QRM_WITNESS_VALID.place .qrm 1, 1), (Reg.QRM_WITNESS_NODE.place .qrm 2, 12), (Reg.QRM_WITNESS_VALID.place .qrm 2, 1), (Reg.QRM_WITNESS_NODE.place .qrm 3, 13), (Reg.QRM_WITNESS_VALID.place .qrm 3, 1), (Reg.QRM_WITNESS_NODE.place .qrm 4, 14), (Reg.QRM_WITNESS_VALID.place .qrm 4, 1), (Reg.QRM_WITNESS_NODE.place .qrm 5, 15), (Reg.QRM_WITNESS_VALID.place .qrm 5, 1), (Reg.QRM_WITNESS_NODE.place .qrm 6, 16), (Reg.QRM_WITNESS_VALID.place .qrm 6, 1), (Reg.PORT_STAT_LINK_UP.place (.port 4), 1), (Reg.PORT_STAT_LINK_UP.place (.port 6), 1), (Reg.PORT_STAT_LINK_UP.place (.port 9), 1), (Reg.DEV_NODE_NODE.place .dev, 3), (Reg.PG_READY_READY.place .dig, 1), (Reg.DIG_CTRL_EN.place .dig, 1), (Reg.DIG_REGION_VALID.place .dig 2, 1), (Reg.DIG_REGION_SEALED.place .dig 2, 1), (Reg.DIG_REGION_GROUP.place .dig 2, 7), (Reg.DIG_REGION_CONTENT_ID.place .dig 2, 99), (Reg.DIG_REGION_PART_MASK.place .dig 2, 6)]).setWord (Page.base .dig + 0x540) 69652).setWord (Page.base .dig + 0x544) 73749) with digs := [(2, {})] },
     15, 0x90001, by decide +kernel⟩,
   ⟨{ (((st [(Reg.PG_READY_READY.place .qrm, 1), (Reg.QRM_CTRL_EN.place .qrm, 1), (Reg.QRM_WIT_ACTIVE_MASK.place .qrm, 127), (Reg.QRM_WITNESS_NODE.place .qrm 0, 10), (Reg.QRM_WITNESS_VALID.place .qrm 0, 1), (Reg.QRM_WITNESS_NODE.place .qrm 1, 11), (Reg.QRM_WITNESS_VALID.place .qrm 1, 1), (Reg.QRM_WITNESS_NODE.place .qrm 2, 12), (Reg.QRM_WITNESS_VALID.place .qrm 2, 1), (Reg.QRM_WITNESS_NODE.place .qrm 3, 13), (Reg.QRM_WITNESS_VALID.place .qrm 3, 1), (Reg.QRM_WITNESS_NODE.place .qrm 4, 14), (Reg.QRM_WITNESS_VALID.place .qrm 4, 1), (Reg.QRM_WITNESS_NODE.place .qrm 5, 15), (Reg.QRM_WITNESS_VALID.place .qrm 5, 1), (Reg.QRM_WITNESS_NODE.place .qrm 6, 16), (Reg.QRM_WITNESS_VALID.place .qrm 6, 1), (Reg.PORT_STAT_LINK_UP.place (.port 4), 1), (Reg.PORT_STAT_LINK_UP.place (.port 6), 1), (Reg.PORT_STAT_LINK_UP.place (.port 9), 1), (Reg.DEV_NODE_NODE.place .dev, 3), (Reg.PG_READY_READY.place .dig, 1), (Reg.DIG_CTRL_EN.place .dig, 1), (Reg.DIG_REGION_VALID.place .dig 2, 1), (Reg.DIG_REGION_SEALED.place .dig 2, 1), (Reg.DIG_REGION_GROUP.place .dig 2, 7), (Reg.DIG_REGION_CONTENT_ID.place .dig 2, 99), (Reg.DIG_REGION_PART_MASK.place .dig 2, 6)]).setWord (Page.base .dig + 0x540) 69652).setWord (Page.base .dig + 0x544) 73749) with digs := [(2, {})] },
     15, 0x90001, by decide +kernel⟩,
   ⟨{ (((st [(Reg.PG_READY_READY.place .qrm, 1), (Reg.QRM_CTRL_EN.place .qrm, 1), (Reg.QRM_WIT_ACTIVE_MASK.place .qrm, 127), (Reg.QRM_WITNESS_NODE.place .qrm 0, 10), (Reg.QRM_WITNESS_VALID.place .qrm 0, 1), (Reg.QRM_WITNESS_NODE.place .qrm 1, 11), (Reg.QRM_WITNESS_VALID.place .qrm 1, 1), (Reg.QRM_WITNESS_NODE.place .qrm 2, 12), (Reg.QRM_WITNESS_VALID.place .qrm 2, 1), (Reg.QRM_WITNESS_NODE.place .qrm 3, 13), (Reg.QRM_WITNESS_VALID.place .qrm 3, 1), (Reg.QRM_WITNESS_NODE.place .qrm 4, 14), (Reg.QRM_WITNESS_VALID.place .qrm 4, 1), (Reg.QRM_WITNESS_NODE.place .qrm 5, 15), (Reg.QRM_WITNESS_VALID.place .qrm 5, 1), (Reg.QRM_WITNESS_NODE.place .qrm 6, 16), (Reg.QRM_WITNESS_VALID.place .qrm 6, 1), (Reg.PORT_STAT_LINK_UP.place (.port 4), 1), (Reg.PORT_STAT_LINK_UP.place (.port 6), 1), (Reg.PORT_STAT_LINK_UP.place (.port 9), 1), (Reg.DEV_NODE_NODE.place .dev, 3), (Reg.PG_READY_READY.place .dig, 1), (Reg.DIG_CTRL_EN.place .dig, 1), (Reg.DIG_REGION_VALID.place .dig 2, 1), (Reg.DIG_REGION_SEALED.place .dig 2, 1), (Reg.DIG_REGION_GROUP.place .dig 2, 7), (Reg.DIG_REGION_CONTENT_ID.place .dig 2, 99), (Reg.DIG_REGION_PART_MASK.place .dig 2, 6)]).setWord (Page.base .dig + 0x540) 69652).setWord (Page.base .dig + 0x544) 73749) with digs := [(2, {})] },
     15, 0x90001, by decide +kernel⟩,
   ⟨{ (((st [(Reg.PG_READY_READY.place .qrm, 1), (Reg.QRM_CTRL_EN.place .qrm, 1), (Reg.QRM_WIT_ACTIVE_MASK.place .qrm, 127), (Reg.QRM_WITNESS_NODE.place .qrm 0, 10), (Reg.QRM_WITNESS_VALID.place .qrm 0, 1), (Reg.QRM_WITNESS_NODE.place .qrm 1, 11), (Reg.QRM_WITNESS_VALID.place .qrm 1, 1), (Reg.QRM_WITNESS_NODE.place .qrm 2, 12), (Reg.QRM_WITNESS_VALID.place .qrm 2, 1), (Reg.QRM_WITNESS_NODE.place .qrm 3, 13), (Reg.QRM_WITNESS_VALID.place .qrm 3, 1), (Reg.QRM_WITNESS_NODE.place .qrm 4, 14), (Reg.QRM_WITNESS_VALID.place .qrm 4, 1), (Reg.QRM_WITNESS_NODE.place .qrm 5, 15), (Reg.QRM_WITNESS_VALID.place .qrm 5, 1), (Reg.QRM_WITNESS_NODE.place .qrm 6, 16), (Reg.QRM_WITNESS_VALID.place .qrm 6, 1), (Reg.PORT_STAT_LINK_UP.place (.port 4), 1), (Reg.PORT_STAT_LINK_UP.place (.port 6), 1), (Reg.PORT_STAT_LINK_UP.place (.port 9), 1), (Reg.DEV_NODE_NODE.place .dev, 3), (Reg.PG_READY_READY.place .dig, 1), (Reg.DIG_CTRL_EN.place .dig, 1), (Reg.DIG_REGION_VALID.place .dig 2, 1), (Reg.DIG_REGION_SEALED.place .dig 2, 1), (Reg.DIG_REGION_GROUP.place .dig 2, 7), (Reg.DIG_REGION_CONTENT_ID.place .dig 2, 99), (Reg.DIG_REGION_PART_MASK.place .dig 2, 6)]).setWord (Page.base .dig + 0x540) 69652).setWord (Page.base .dig + 0x544) 73749) with digs := [(2, {})] },
     15, 23, 0xFFF90001, (Page.base .dig + 0x400 + 15 * 0x80 + 23 * 4), by decide +kernel⟩,
   ⟨{ (((st [(Reg.PG_READY_READY.place .qrm, 1), (Reg.QRM_CTRL_EN.place .qrm, 1), (Reg.QRM_WIT_ACTIVE_MASK.place .qrm, 127), (Reg.QRM_WITNESS_NODE.place .qrm 0, 10), (Reg.QRM_WITNESS_VALID.place .qrm 0, 1), (Reg.QRM_WITNESS_NODE.place .qrm 1, 11), (Reg.QRM_WITNESS_VALID.place .qrm 1, 1), (Reg.QRM_WITNESS_NODE.place .qrm 2, 12), (Reg.QRM_WITNESS_VALID.place .qrm 2, 1), (Reg.QRM_WITNESS_NODE.place .qrm 3, 13), (Reg.QRM_WITNESS_VALID.place .qrm 3, 1), (Reg.QRM_WITNESS_NODE.place .qrm 4, 14), (Reg.QRM_WITNESS_VALID.place .qrm 4, 1), (Reg.QRM_WITNESS_NODE.place .qrm 5, 15), (Reg.QRM_WITNESS_VALID.place .qrm 5, 1), (Reg.QRM_WITNESS_NODE.place .qrm 6, 16), (Reg.QRM_WITNESS_VALID.place .qrm 6, 1), (Reg.PORT_STAT_LINK_UP.place (.port 4), 1), (Reg.PORT_STAT_LINK_UP.place (.port 6), 1), (Reg.PORT_STAT_LINK_UP.place (.port 9), 1), (Reg.DEV_NODE_NODE.place .dev, 3), (Reg.PG_READY_READY.place .dig, 1), (Reg.DIG_CTRL_EN.place .dig, 1), (Reg.DIG_REGION_VALID.place .dig 2, 1), (Reg.DIG_REGION_SEALED.place .dig 2, 1), (Reg.DIG_REGION_GROUP.place .dig 2, 7), (Reg.DIG_REGION_CONTENT_ID.place .dig 2, 99), (Reg.DIG_REGION_PART_MASK.place .dig 2, 6)]).setWord (Page.base .dig + 0x540) 69652).setWord (Page.base .dig + 0x544) 73749) with digs := [(2, {})] },
     15, 24, 1, by decide +kernel⟩⟩

/-- The hypotheses of TasksArriveAndStart can be met, clause by clause. -/
theorem wit_TasksArriveAndStart :
    (∃ (s : State) (u : TileId) (slot : Fin 1024) (d : BitVec 512) (i : Fin 64), s.ready (.tile u) = true ∧ (lowest
      64 (fun j => (s.slot u (Fin.ofNat 64 j)).st == SlotState.free) = some i.val) ∧ s.descBad u d = none ∧ (tEngine
      d = 1 → (Map.get {} (s.tile u).progs (tProg d)).codeLen ≠ 0 ∨ (s.tile u).load.map (·.1) = some (tProg d))) ∧
    (∃ (s : State) (u : TileId) (slot : Fin 1024) (d : BitVec 512) (key : Nat) (q : Queued), s.ready (.tile u) = true
      ∧ (lowest 64 (fun j => (s.slot u (Fin.ofNat 64 j)).st == SlotState.free) = none) ∧ q = ((s.tile
      u).coming.find? fun q => q.desc == d && q.slot == slot.val).getD { desc := d, slot := slot.val, launch := 0 } ∧
      key = u.val % 8 * 4 + tPri q.desc) ∧
    (∃ (s : State) (u : TileId) (slot : Fin 1024) (d : BitVec 512) (c : Nat) (i : Nat), s.ready (.tile u) = true ∧
      (lowest 64 (fun j => (s.slot u (Fin.ofNat 64 j)).st == SlotState.free) = some i) ∧ (s.descBad u d = some c ∨
      s.descBad u d = none ∧ tEngine d = 1 ∧ (Map.get {} (s.tile u).progs (tProg d)).codeLen = 0 ∧ (s.tile
      u).load.map (·.1) ≠ some (tProg d) ∧ c = 9) ∧ s.noParks) ∧
    (∃ (s : State) (u : TileId) (e : Fin 4) (lat : Nat) (i : Nat) (x : Slot), s.ready (.tile u) = true ∧ s.engineBusy
      u e.val = false ∧ s.quiescing (.disp (partOf u)) = false ∧ (pickTask ((s.tile u).slots.filter fun y => tEngine
      y.2.desc == e.val && s.startable u y.2) = some (i, x))) ∧
    (∃ (s : State) (u : TileId) (e : Fin 4) (lat : Nat), (s.ready (.tile u) = false ∨ s.engineBusy u e.val = true ∨
      s.quiescing (.disp (partOf u)) = true ∨ pickTask ((s.tile u).slots.filter fun y => tEngine y.2.desc == e.val &&
      s.startable u y.2) = none)) ∧
    (∃ (s : State) (u : TileId) (i : Fin 64), s.ready (.tile u) = true ∧ (s.slot u i).st = .waiting ∧ (s.slot u
      i).stalled = false ∧ s.fld (.tile u) Reg.SB_CTRL_WDOG ≠ 0) ∧
    (∃ (s : State) (u : TileId) (i : Fin 64), (s.ready (.tile u) = false ∨ (s.slot u i).st ≠ .waiting ∨ (s.slot u
      i).stalled = true ∨ s.fld (.tile u) Reg.SB_CTRL_WDOG = 0)) ∧
    (∃ (s : State) (u : TileId), s.ready (.tile u) = true) ∧
    (∃ (s : State) (u : TileId), s.ready (.tile u) = false) :=
  ⟨⟨{ (st [(Reg.PG_READY_READY.place .tier, 1), (Reg.PG_READY_READY.place (.bas 0), 1), (Reg.BAS_MEM_STAT_ONLINE.place (.bas 0), 1), (Reg.BAS_MEM_FRAMES_FRAMES.place (.bas 0), 786432), (Reg.PG_READY_READY.place (.disp 3), 1), (Reg.PG_READY_READY.place (.tile 25), 1), (Reg.PG_READY_READY.place (.tile 24), 1), (Reg.PG_READY_READY.place .codec, 1)]) with tiles := [(25, { slots := [(0, { st := .running, desc := BitVec.ofNat 512 47634829485251867562414293835869809904506928669110512018171289484383475428426084946257208239023728846633646245696544581424714552203133583369 })] })], tier := { pages := [(5, { st := .resident .basin, frame := 0, frameTier := .basin })], dirs := [(0, { valid := true, used := 1, leaf := 257 })], leaves := [(257, true)], frames := [(67108864, true)] }, now := 44 },
     25, 7, BitVec.ofNat 512
     47634829485251867562414293835869809904506928669110512018171289484383475428426084946257208239023728846633646245696544581424714552203133583369,
     1, by decide +kernel⟩,
   ⟨{ (st [(Reg.PG_READY_READY.place .tier, 1), (Reg.PG_READY_READY.place (.bas 0), 1), (Reg.BAS_MEM_STAT_ONLINE.place (.bas 0), 1), (Reg.BAS_MEM_FRAMES_FRAMES.place (.bas 0), 786432), (Reg.PG_READY_READY.place (.disp 3), 1), (Reg.PG_READY_READY.place (.tile 25), 1), (Reg.PG_READY_READY.place (.tile 24), 1), (Reg.PG_READY_READY.place .codec, 1)]) with tiles := [(25, { slots := [(0, { st := .running }), (1, { st := .running }), (2, { st := .running }), (3, { st := .running }), (4, { st := .running }), (5, { st := .running }), (6, { st := .running }), (7, { st := .running }), (8, { st := .running }), (9, { st := .running }), (10, { st := .running }), (11, { st := .running }), (12, { st := .running }), (13, { st := .running }), (14, { st := .running }), (15, { st := .running }), (16, { st := .running }), (17, { st := .running }), (18, { st := .running }), (19, { st := .running }), (20, { st := .running }), (21, { st := .running }), (22, { st := .running }), (23, { st := .running }), (24, { st := .running }), (25, { st := .running }), (26, { st := .running }), (27, { st := .running }), (28, { st := .running }), (29, { st := .running }), (30, { st := .running }), (31, { st := .running }), (32, { st := .running }), (33, { st := .running }), (34, { st := .running }), (35, { st := .running }), (36, { st := .running }), (37, { st := .running }), (38, { st := .running }), (39, { st := .running }), (40, { st := .running }), (41, { st := .running }), (42, { st := .running }), (43, { st := .running }), (44, { st := .running }), (45, { st := .running }), (46, { st := .running }), (47, { st := .running }), (48, { st := .running }), (49, { st := .running }), (50, { st := .running }), (51, { st := .running }), (52, { st := .running }), (53, { st := .running }), (54, { st := .running }), (55, { st := .running }), (56, { st := .running }), (57, { st := .running }), (58, { st := .running }), (59, { st := .running }), (60, { st := .running }), (61, { st := .running }), (62, { st := .running }), (63, { st := .running })] })], tier := { pages := [(5, { st := .resident .basin, frame := 0, frameTier := .basin })], dirs := [(0, { valid := true, used := 1, leaf := 257 })], leaves := [(257, true)], frames := [(67108864, true)] }, now := 44 },
     25, 7, BitVec.ofNat 512
     47634829485251867562414293835869809904506928669110512018171289484383475428426084946257208239023728846633646245696544581424714552203133583369,
     (25 % 8 * 4 + tPri (BitVec.ofNat 512
     47634829485251867562414293835869809904506928669110512018171289484383475428426084946257208239023728846633646245696544581424714552203133583369)),
     { desc := BitVec.ofNat 512 47634829485251867562414293835869809904506928669110512018171289484383475428426084946257208239023728846633646245696544581424714552203133583369, slot := 7, launch := 0 },
     by decide +kernel⟩,
   ⟨{ (st [(Reg.PG_READY_READY.place .tier, 1), (Reg.PG_READY_READY.place (.bas 0), 1), (Reg.BAS_MEM_STAT_ONLINE.place (.bas 0), 1), (Reg.BAS_MEM_FRAMES_FRAMES.place (.bas 0), 786432), (Reg.PG_READY_READY.place (.disp 3), 1), (Reg.PG_READY_READY.place (.tile 25), 1), (Reg.PG_READY_READY.place (.tile 24), 1), (Reg.PG_READY_READY.place .codec, 1)]) with tier := { pages := [(5, { st := .resident .basin, frame := 0, frameTier := .basin })], dirs := [(0, { valid := true, used := 1, leaf := 257 })], leaves := [(257, true)], frames := [(67108864, true)] }, now := 44 },
     25, 7, BitVec.ofNat 512
     47634829485251867562414293835869809904506928669110512018171289484383475428426084946257208239023728846633646245696544581424714552224608419849,
     1, 0, by decide +kernel⟩,
   ⟨{ (st [(Reg.PG_READY_READY.place .tier, 1), (Reg.PG_READY_READY.place (.bas 0), 1), (Reg.BAS_MEM_STAT_ONLINE.place (.bas 0), 1), (Reg.BAS_MEM_FRAMES_FRAMES.place (.bas 0), 786432), (Reg.PG_READY_READY.place (.disp 3), 1), (Reg.PG_READY_READY.place (.tile 25), 1), (Reg.PG_READY_READY.place (.tile 24), 1), (Reg.PG_READY_READY.place .codec, 1)]) with tiles := [(25, { slots := [(3, { st := .ready, desc := BitVec.ofNat 512 47634829485251867562414293835869809904506928669110512018171289484383475428426084946257208239023728846633646245696544581424714552203133583369, order := 1, prompt := true }), (5, { st := .ready, desc := BitVec.ofNat 512 47634829485251867562414293835869809904506928669110512018171289484383475428426084946257208239023728846633646245696544581424714552203133845513, order := 2 })] })], tier := { pages := [(5, { st := .resident .basin, frame := 0, frameTier := .basin })], dirs := [(0, { valid := true, used := 1, leaf := 257 })], leaves := [(257, true)], frames := [(67108864, true)] } },
     25, 0, 300, 3,
     { st := .ready, desc := BitVec.ofNat 512 47634829485251867562414293835869809904506928669110512018171289484383475428426084946257208239023728846633646245696544581424714552203133583369, order := 1, prompt := true },
     by decide +kernel⟩,
   ⟨{ (st [(Reg.PG_READY_READY.place .tier, 1), (Reg.PG_READY_READY.place (.bas 0), 1), (Reg.BAS_MEM_STAT_ONLINE.place (.bas 0), 1), (Reg.BAS_MEM_FRAMES_FRAMES.place (.bas 0), 786432), (Reg.PG_READY_READY.place (.disp 3), 1), (Reg.PG_READY_READY.place (.tile 25), 1), (Reg.PG_READY_READY.place (.tile 24), 1), (Reg.PG_READY_READY.place .codec, 1)]) with tiles := [(25, { slots := [(3, { st := .waiting, desc := BitVec.ofNat 512 47634829485251867562414293835869809904506928669110512018171289484383475428426084946257208239023728846633646245696544581424714552203133583369 })] })], tier := { pages := [(5, { st := .resident .basin, frame := 0, frameTier := .basin })], dirs := [(0, { valid := true, used := 1, leaf := 257 })], leaves := [(257, true)], frames := [(67108864, true)] } },
     25, 0, 3, by decide +kernel⟩,
   ⟨{ (st [(Reg.PG_READY_READY.place .tier, 1), (Reg.PG_READY_READY.place (.bas 0), 1), (Reg.BAS_MEM_STAT_ONLINE.place (.bas 0), 1), (Reg.BAS_MEM_FRAMES_FRAMES.place (.bas 0), 786432), (Reg.PG_READY_READY.place (.disp 3), 1), (Reg.PG_READY_READY.place (.tile 25), 1), (Reg.PG_READY_READY.place (.tile 24), 1), (Reg.PG_READY_READY.place .codec, 1), (Reg.SB_CTRL_WDOG.place (.tile 25), 5)]) with tiles := [(25, { slots := [(3, { st := .waiting, desc := BitVec.ofNat 512 47634829485251867562414293835869809904506928669110512018171289484383475428426084946257208239023728846633646245696544581424714552203133583369 })] })], tier := { pages := [(5, { st := .resident .basin, frame := 0, frameTier := .basin })], dirs := [(0, { valid := true, used := 1, leaf := 257 })], leaves := [(257, true)], frames := [(67108864, true)] } },
     25, 3, by decide +kernel⟩,
   ⟨{ (st [(Reg.PG_READY_READY.place .tier, 1), (Reg.PG_READY_READY.place (.bas 0), 1), (Reg.BAS_MEM_STAT_ONLINE.place (.bas 0), 1), (Reg.BAS_MEM_FRAMES_FRAMES.place (.bas 0), 786432), (Reg.PG_READY_READY.place (.disp 3), 1), (Reg.PG_READY_READY.place (.tile 25), 1), (Reg.PG_READY_READY.place (.tile 24), 1), (Reg.PG_READY_READY.place .codec, 1)]) with tier := { pages := [(5, { st := .resident .basin, frame := 0, frameTier := .basin })], dirs := [(0, { valid := true, used := 1, leaf := 257 })], leaves := [(257, true)], frames := [(67108864, true)] } },
     25, 4, by decide +kernel⟩,
   ⟨{ (st [(Reg.PG_READY_READY.place .tier, 1), (Reg.PG_READY_READY.place (.bas 0), 1), (Reg.BAS_MEM_STAT_ONLINE.place (.bas 0), 1), (Reg.BAS_MEM_FRAMES_FRAMES.place (.bas 0), 786432), (Reg.PG_READY_READY.place (.disp 3), 1), (Reg.PG_READY_READY.place (.tile 25), 1), (Reg.PG_READY_READY.place (.tile 24), 1), (Reg.PG_READY_READY.place .codec, 1), (Reg.SB_STAT_MAXLAT.place (.tile 25), 9)]) with tier := { pages := [(5, { st := .resident .basin, frame := 0, frameTier := .basin })], dirs := [(0, { valid := true, used := 1, leaf := 257 })], leaves := [(257, true)], frames := [(67108864, true)] } },
     25, by decide +kernel⟩,
   ⟨{ (st [(Reg.PG_READY_READY.place .tier, 1), (Reg.PG_READY_READY.place (.bas 0), 1), (Reg.BAS_MEM_STAT_ONLINE.place (.bas 0), 1), (Reg.BAS_MEM_FRAMES_FRAMES.place (.bas 0), 786432), (Reg.PG_READY_READY.place (.disp 3), 1), (Reg.PG_READY_READY.place (.tile 25), 1), (Reg.PG_READY_READY.place (.tile 24), 1), (Reg.PG_READY_READY.place .codec, 1)]) with tier := { pages := [(5, { st := .resident .basin, frame := 0, frameTier := .basin })], dirs := [(0, { valid := true, used := 1, leaf := 257 })], leaves := [(257, true)], frames := [(67108864, true)] } },
     9, by decide +kernel⟩⟩

/-- The hypotheses of TasksEnd can be met, clause by clause. -/
theorem wit_TasksEnd :
    (∃ (s : State) (u : TileId) (run : TileRun) (x : Slot) (d : BitVec 512) (r : MatRes) (rows : List (Nat × List
      Byte)), s.works (.tile u) = true ∧ x = s.slot u run.i ∧ d = x.desc ∧ x.st = .running ∧ x.reportWait = false ∧
      s.stallsAt u x = false ∧ x.wrote = false ∧ tEvt d = 0 ∧ s.tierIdle ∧ tEngine d = 0 ∧ (s.matOpA u x).fine = true
      ∧ (s.matOpB u x).fine = true ∧ (s.matOpC u x).fine = true ∧ s.readableAll ((s.matOpA u x).ranges ++ (s.matOpB u
      x).ranges ++ (s.matOpC u x).ranges) ∧ anchorBad d (s.matOpC u x).img = false ∧ r = s.matrix u x (s.matOpA u
      x).img (s.matOpB u x).img (s.matOpC u x).img ∧ r.fails = ([], []) ∧ tFmtOut d ≠ 0xB ∧ rows = r.out d ∧ tSpace d
      3 ≠ 3 ∧ ((tSpace d 3 = 1 ∧ ∀ w ∈ rows, x.opBase 3 + w.1 + w.2.length ≤ 2 ^ 47 ∧ s.writable (x.opBase 3 + w.1)
      w.2.length = true) ∨ (tSpace d 3 ≠ 1 ∧ ∀ w ∈ rows, x.opBase 3 + w.1 + w.2.length ≤ sramSize ∧ s.badWord
      (x.opTile u 3) (x.opBase 3 + w.1) w.2.length = none))) ∧
    (∃ (s : State) (u : TileId) (run : TileRun) (x : Slot) (d : BitVec 512) (r : MatRes) (tok : Nat) (row : Nat),
      s.works (.tile u) = true ∧ x = s.slot u run.i ∧ d = x.desc ∧ x.st = .running ∧ x.reportWait = false ∧
      s.stallsAt u x = false ∧ x.wrote = false ∧ tEvt d = 0 ∧ s.tierIdle ∧ tEngine d = 0 ∧ (s.matOpA u x).fine = true
      ∧ (s.matOpB u x).fine = true ∧ (s.matOpC u x).fine = true ∧ s.readableAll ((s.matOpA u x).ranges ++ (s.matOpB u
      x).ranges ++ (s.matOpC u x).ranges) ∧ anchorBad d (s.matOpC u x).img = false ∧ r = s.matrix u x (s.matOpA u
      x).img (s.matOpB u x).img (s.matOpC u x).img ∧ r.fails = ([], []) ∧ tFmtOut d = 0xB ∧ matOpen d = false ∧
      tSpace d 3 = 1 ∧ tok = s.modelTok u x ∧ row = kvRowBytes (tLdOut d) (tN d) ∧ tN d ≤ tLdOut d * 64 ∧ x.opBase 3
      + tM d * (tLdOut d * 64) ≤ 2 ^ 47 ∧ s.writable (x.opBase 3) (tM d * (tLdOut d * 64)) = true ∧ (∀ p ∈ pagesOf
      (x.opBase 3) (tM d * (tLdOut d * 64)), (s.leaf p).side = true)) ∧
    (∃ (s : State) (u : TileId) (run : TileRun) (x : Slot) (d : BitVec 512), s.works (.tile u) = true ∧ x = s.slot u
      run.i ∧ d = x.desc ∧ x.st = .running ∧ x.reportWait = false ∧ s.stallsAt u x = false ∧ x.wrote = false ∧ tEvt d
      = 0 ∧ s.tierIdle ∧ tEngine d = 1 ∧ tFmtOut d ≠ 0xB ∧ tSpace d 3 ≠ 3) ∧
    (∃ (s : State) (u : TileId) (run : TileRun) (x : Slot) (d : BitVec 512) (b : List Byte) (data : List Byte),
      s.works (.tile u) = true ∧ x = s.slot u run.i ∧ d = x.desc ∧ x.st = .running ∧ x.reportWait = false ∧
      s.stallsAt u x = false ∧ x.wrote = false ∧ tEvt d = 0 ∧ s.tierIdle ∧ tEngine d = 3 ∧ x.far = {} ∧ tSpace d 0 ≠
      3 ∧ tSpace d 3 ≠ 3 ∧ (s.dmaOpA u x).fine = true ∧ s.readableAll (s.dmaOpA u x).ranges ∧ b = (List.range (tAux
      d)).map (s.dmaOpA u x).img ∧ data = (if tXpdB d then (encodeStream (tFmtA d) x.tblMask b).1 else b) ∧ ((tSpace
      d 3 = 1 ∧ x.opBase 3 + data.length ≤ 2 ^ 47 ∧ s.writable (x.opBase 3) data.length = true) ∨ (tSpace d 3 ≠ 1 ∧
      x.opBase 3 + data.length ≤ sramSize ∧ s.badWord (x.opTile u 3) (x.opBase 3) data.length = none))) ∧
    (∃ (s : State) (u : TileId) (run : TileRun) (x : Slot) (d : BitVec 512) (data : List Byte), s.works (.tile u) =
      true ∧ x = s.slot u run.i ∧ d = x.desc ∧ x.st = .running ∧ x.reportWait = false ∧ s.stallsAt u x = false ∧
      x.wrote = false ∧ tEvt d = 0 ∧ s.tierIdle ∧ tEngine d = 3 ∧ tSpace d 3 = 3 ∧ x.far.err = none ∧ x.far.data =
      some data ∧ x.far.sent = data.length ∧ x.far.acked = (x.opBase 3 % 256 + data.length + 255) / 256) ∧
    (∃ (s : State) (u : TileId) (run : TileRun) (x : Slot) (d : BitVec 512) (data : List Byte), s.works (.tile u) =
      true ∧ x = s.slot u run.i ∧ d = x.desc ∧ x.st = .running ∧ x.reportWait = false ∧ s.stallsAt u x = false ∧
      x.wrote = false ∧ tEngine d = 3 ∧ tSpace d 3 = 3 ∧ x.far.err = none ∧ x.far.data = some data ∧ x.far.sent =
      data.length ∧ x.far.acked < (x.opBase 3 % 256 + data.length + 255) / 256) ∧
    (∃ (s : State) (u : TileId) (run : TileRun) (x : Slot) (d : BitVec 512) (c : Nat) (g : Nat), s.works (.tile u) =
      true ∧ x = s.slot u run.i ∧ d = x.desc ∧ x.st = .running ∧ x.reportWait = false ∧ s.stallsAt u x = false ∧
      x.wrote = false ∧ tEngine d = 3 ∧ x.far.err = some (c, g) ∧ s.noParks) ∧
    (∃ (s : State) (u : TileId) (run : TileRun) (x : Slot) (d : BitVec 512), s.works (.tile u) = true ∧ x = s.slot u
      run.i ∧ d = x.desc ∧ x.st = .running ∧ x.reportWait = false ∧ s.stallsAt u x = false ∧ x.wrote = true ∧ tEvt d
      = 0 ∧ s.tierIdle) ∧
    (∃ (s : State) (u : TileId) (run : TileRun) (x : Slot) (d : BitVec 512), s.works (.tile u) = true ∧ x = s.slot u
      run.i ∧ d = x.desc ∧ x.st = .running ∧ x.reportWait = false ∧ s.stallsAt u x = false ∧ x.wrote = true ∧
      s.tier.answers = [] ∧ s.unaccepted (taskSrc u run.i d) = true) ∧
    (∃ (s : State) (u : TileId) (run : TileRun) (x : Slot), s.works (.tile u) = true ∧ x = s.slot u run.i ∧ (x.st ≠
      .running ∨ x.reportWait = true ∨ s.stallsAt u x = true)) ∧
    (∃ (s : State) (u : TileId) (run : TileRun) (x : Slot), s.works (.tile u) = true ∧ x = s.slot u run.i ∧ x.st =
      .running ∧ x.reportWait = false ∧ s.stallsAt u x = false ∧ x.wrote = false ∧ tEngine x.desc = 2) ∧
    (∃ (s : State) (u : TileId) (run : TileRun), s.works (.tile u) = false) ∧
    (∃ (s : State) (u : TileId) (run : TileRun) (x : Slot) (d : BitVec 512), s.works (.tile u) = true ∧ x = s.slot u
      run.i ∧ d = x.desc ∧ x.st = .running ∧ x.reportWait = false ∧ s.stallsAt u x = false ∧ x.wrote = false ∧
      s.noParks ∧ s.tier.answers = [] ∧ tEngine d = 3 ∧ x.far = {} ∧ tSpace d 0 = 0 ∧ tXpdA d = false ∧ sramSize <
      x.opBase 0 + tAux d) ∧
    (∃ (s : State) (u : TileId) (run : TileRun) (x : Slot) (d : BitVec 512), s.works (.tile u) = true ∧ x = s.slot u
      run.i ∧ d = x.desc ∧ x.st = .running ∧ x.reportWait = false ∧ s.stallsAt u x = false ∧ x.wrote = false ∧
      s.noParks ∧ s.tier.answers = [] ∧ tEngine d = 0 ∧ (∀ k < 4, tSpace d k ≠ 1) ∧ tXpdA d = false ∧ (∀ w ∈ rowsOf
      (tM d) (tLdA d) (rowBytes (tFmtA d) (tK d)), s.spanOp u x 0 w.1 w.2 = .ok ∨ s.spanOp u x 0 w.1 w.2 = .err
      .extent) ∧ (∃ w ∈ rowsOf (tM d) (tLdA d) (rowBytes (tFmtA d) (tK d)), s.spanOp u x 0 w.1 w.2 = .err .extent)) ∧
    (∃ (s : State) (u : TileId) (i : Fin 64) (x : Slot) (d : BitVec 512) (r : Bool × State), s.works (.tile u) = true
      ∧ x = s.slot u i ∧ d = x.desc ∧ x.reportWait = true ∧ tEvt d ≠ 0 ∧ s.tierIdle ∧ r = s.reportEvent (partOf u)
      (u.val % 8) (tEvt d == 2) (tLayer d) ∧ r.1 = true) ∧
    (∃ (s : State) (u : TileId) (i : Fin 64) (x : Slot) (d : BitVec 512), s.works (.tile u) = true ∧ x = s.slot u i ∧
      d = x.desc ∧ x.reportWait = true ∧ tEvt d ≠ 0 ∧ (s.reportEvent (partOf u) (u.val % 8) (tEvt d == 2) (tLayer
      d)).1 = false) ∧
    (∃ (s : State) (u : TileId) (i : Fin 64), (s.works (.tile u) = false ∨ (s.slot u i).reportWait = false)) ∧
    (∃ (s : State) (u : TileId) (i : Fin 64) (x : Slot) (d : BitVec 512) (e : TaskError), s.works (.tile u) = true ∧
      x = s.slot u i ∧ d = x.desc ∧ x.st = .running ∧
      (match e with | .abft _ _ _ _ => tAbft d && tEngine d % 2 == 0 | _ => true) = true ∧ s.noParks) ∧
    (∃ (s : State) (u : TileId) (i : Fin 64) (a : Nat) (b : Nat) (c : Nat) (e : Nat), s.works (.tile u) = true ∧
      (tAbft (s.slot u i).desc = false ∨ tEngine (s.slot u i).desc % 2 = 1)) ∧
    (∃ (s : State) (u : TileId) (i : Fin 64) (x : Slot) (off : Nat), s.works (.tile u) = true ∧ x = s.slot u i ∧ x.st
      = .running ∧ s.noParks) ∧
    (∃ (s : State) (u : TileId) (i : Fin 64) (x : Slot) (re : Nat) (a : Nat) (src : Fin 3) (sp : Fin 4), s.works
      (.tile u) = true ∧ x = s.slot u i ∧ x.st = .running ∧ s.noParks ∧ s.flag .codec Reg.CODEC_ERR_INFO_VALID =
      false) ∧
    (∃ (s : State) (u : TileId) (i : Fin 64) (e : TaskError), (s.works (.tile u) = false ∨ (s.slot u i).st ≠
      .running)) ∧
    (∃ (s : State), s.ready .codec = true) ∧
    (∃ (s : State), s.ready .codec = false) :=
  ⟨⟨{ (st [(Reg.PG_READY_READY.place .tier, 1), (Reg.PG_READY_READY.place (.bas 0), 1), (Reg.BAS_MEM_STAT_ONLINE.place (.bas 0), 1), (Reg.BAS_MEM_FRAMES_FRAMES.place (.bas 0), 786432), (Reg.PG_READY_READY.place (.disp 3), 1), (Reg.PG_READY_READY.place (.tile 25), 1), (Reg.PG_READY_READY.place (.tile 24), 1), (Reg.PG_READY_READY.place .codec, 1)]) with tiles := [(25, { slots := [(3, { st := .running, desc := BitVec.ofNat 512 47634829485251867562414293835869809904506928669110512515502114560322463575307807664722562718896859398966395771808141796724401564567407165449 }), (4, { st := .waiting, desc := BitVec.ofNat 512 47634829485251867562414293835869809904506928669110512018171289484383475428426084946257208239023728846633646245696544576831475277849455230985 })], tags := [(5, { ready := true, readers := 2 })] })], tier := { pages := [(5, { st := .resident .basin, frame := 0, frameTier := .basin })], dirs := [(0, { valid := true, used := 1, leaf := 257 })], leaves := [(257, true)], frames := [(67108864, true)] }, sram := (Map.store (Map.store (Map.store ([] : Memory) 52428800 (bytesOfNat 2 770)) 52428864 (bytesOfNat 2 261)) 52428864 (bytesOfNat 2 513)) },
     25, { i := 3, banks := [[(0, .portA), (0, .dma)]], stallA := 2, corrected := 1 },
     { st := .running, desc := BitVec.ofNat 512 47634829485251867562414293835869809904506928669110512515502114560322463575307807664722562718896859398966395771808141796724401564567407165449 },
     BitVec.ofNat 512
     47634829485251867562414293835869809904506928669110512515502114560322463575307807664722562718896859398966395771808141796724401564567407165449,
     (State.matrix
     { (st [(Reg.PG_READY_READY.place .tier, 1), (Reg.PG_READY_READY.place (.bas 0), 1), (Reg.BAS_MEM_STAT_ONLINE.place (.bas 0), 1), (Reg.BAS_MEM_FRAMES_FRAMES.place (.bas 0), 786432), (Reg.PG_READY_READY.place (.disp 3), 1), (Reg.PG_READY_READY.place (.tile 25), 1), (Reg.PG_READY_READY.place (.tile 24), 1), (Reg.PG_READY_READY.place .codec, 1)]) with tiles := [(25, { slots := [(3, { st := .running, desc := BitVec.ofNat 512 47634829485251867562414293835869809904506928669110512515502114560322463575307807664722562718896859398966395771808141796724401564567407165449 }), (4, { st := .waiting, desc := BitVec.ofNat 512 47634829485251867562414293835869809904506928669110512018171289484383475428426084946257208239023728846633646245696544576831475277849455230985 })], tags := [(5, { ready := true, readers := 2 })] })], tier := { pages := [(5, { st := .resident .basin, frame := 0, frameTier := .basin })], dirs := [(0, { valid := true, used := 1, leaf := 257 })], leaves := [(257, true)], frames := [(67108864, true)] }, sram := (Map.store (Map.store (Map.store ([] : Memory) 52428800 (bytesOfNat 2 770)) 52428864 (bytesOfNat 2 261)) 52428864 (bytesOfNat 2 513)) }
     25
     { st := .running, desc := BitVec.ofNat 512 47634829485251867562414293835869809904506928669110512515502114560322463575307807664722562718896859398966395771808141796724401564567407165449 }
     (State.opByte
     { (st [(Reg.PG_READY_READY.place .tier, 1), (Reg.PG_READY_READY.place (.bas 0), 1), (Reg.BAS_MEM_STAT_ONLINE.place (.bas 0), 1), (Reg.BAS_MEM_FRAMES_FRAMES.place (.bas 0), 786432), (Reg.PG_READY_READY.place (.disp 3), 1), (Reg.PG_READY_READY.place (.tile 25), 1), (Reg.PG_READY_READY.place (.tile 24), 1), (Reg.PG_READY_READY.place .codec, 1)]) with tiles := [(25, { slots := [(3, { st := .running, desc := BitVec.ofNat 512 47634829485251867562414293835869809904506928669110512515502114560322463575307807664722562718896859398966395771808141796724401564567407165449 }), (4, { st := .waiting, desc := BitVec.ofNat 512 47634829485251867562414293835869809904506928669110512018171289484383475428426084946257208239023728846633646245696544576831475277849455230985 })], tags := [(5, { ready := true, readers := 2 })] })], tier := { pages := [(5, { st := .resident .basin, frame := 0, frameTier := .basin })], dirs := [(0, { valid := true, used := 1, leaf := 257 })], leaves := [(257, true)], frames := [(67108864, true)] }, sram := (Map.store (Map.store (Map.store ([] : Memory) 52428800 (bytesOfNat 2 770)) 52428864 (bytesOfNat 2 261)) 52428864 (bytesOfNat 2 513)) }
     25
     { st := .running, desc := BitVec.ofNat 512 47634829485251867562414293835869809904506928669110512515502114560322463575307807664722562718896859398966395771808141796724401564567407165449 }
     0) (State.opByte
     { (st [(Reg.PG_READY_READY.place .tier, 1), (Reg.PG_READY_READY.place (.bas 0), 1), (Reg.BAS_MEM_STAT_ONLINE.place (.bas 0), 1), (Reg.BAS_MEM_FRAMES_FRAMES.place (.bas 0), 786432), (Reg.PG_READY_READY.place (.disp 3), 1), (Reg.PG_READY_READY.place (.tile 25), 1), (Reg.PG_READY_READY.place (.tile 24), 1), (Reg.PG_READY_READY.place .codec, 1)]) with tiles := [(25, { slots := [(3, { st := .running, desc := BitVec.ofNat 512 47634829485251867562414293835869809904506928669110512515502114560322463575307807664722562718896859398966395771808141796724401564567407165449 }), (4, { st := .waiting, desc := BitVec.ofNat 512 47634829485251867562414293835869809904506928669110512018171289484383475428426084946257208239023728846633646245696544576831475277849455230985 })], tags := [(5, { ready := true, readers := 2 })] })], tier := { pages := [(5, { st := .resident .basin, frame := 0, frameTier := .basin })], dirs := [(0, { valid := true, used := 1, leaf := 257 })], leaves := [(257, true)], frames := [(67108864, true)] }, sram := (Map.store (Map.store (Map.store ([] : Memory) 52428800 (bytesOfNat 2 770)) 52428864 (bytesOfNat 2 261)) 52428864 (bytesOfNat 2 513)) }
     25
     { st := .running, desc := BitVec.ofNat 512 47634829485251867562414293835869809904506928669110512515502114560322463575307807664722562718896859398966395771808141796724401564567407165449 }
     1) (fun _ => 0)), (MatRes.out (State.matrix
     { (st [(Reg.PG_READY_READY.place .tier, 1), (Reg.PG_READY_READY.place (.bas 0), 1), (Reg.BAS_MEM_STAT_ONLINE.place (.bas 0), 1), (Reg.BAS_MEM_FRAMES_FRAMES.place (.bas 0), 786432), (Reg.PG_READY_READY.place (.disp 3), 1), (Reg.PG_READY_READY.place (.tile 25), 1), (Reg.PG_READY_READY.place (.tile 24), 1), (Reg.PG_READY_READY.place .codec, 1)]) with tiles := [(25, { slots := [(3, { st := .running, desc := BitVec.ofNat 512 47634829485251867562414293835869809904506928669110512515502114560322463575307807664722562718896859398966395771808141796724401564567407165449 }), (4, { st := .waiting, desc := BitVec.ofNat 512 47634829485251867562414293835869809904506928669110512018171289484383475428426084946257208239023728846633646245696544576831475277849455230985 })], tags := [(5, { ready := true, readers := 2 })] })], tier := { pages := [(5, { st := .resident .basin, frame := 0, frameTier := .basin })], dirs := [(0, { valid := true, used := 1, leaf := 257 })], leaves := [(257, true)], frames := [(67108864, true)] }, sram := (Map.store (Map.store (Map.store ([] : Memory) 52428800 (bytesOfNat 2 770)) 52428864 (bytesOfNat 2 261)) 52428864 (bytesOfNat 2 513)) }
     25
     { st := .running, desc := BitVec.ofNat 512 47634829485251867562414293835869809904506928669110512515502114560322463575307807664722562718896859398966395771808141796724401564567407165449 }
     (State.opByte
     { (st [(Reg.PG_READY_READY.place .tier, 1), (Reg.PG_READY_READY.place (.bas 0), 1), (Reg.BAS_MEM_STAT_ONLINE.place (.bas 0), 1), (Reg.BAS_MEM_FRAMES_FRAMES.place (.bas 0), 786432), (Reg.PG_READY_READY.place (.disp 3), 1), (Reg.PG_READY_READY.place (.tile 25), 1), (Reg.PG_READY_READY.place (.tile 24), 1), (Reg.PG_READY_READY.place .codec, 1)]) with tiles := [(25, { slots := [(3, { st := .running, desc := BitVec.ofNat 512 47634829485251867562414293835869809904506928669110512515502114560322463575307807664722562718896859398966395771808141796724401564567407165449 }), (4, { st := .waiting, desc := BitVec.ofNat 512 47634829485251867562414293835869809904506928669110512018171289484383475428426084946257208239023728846633646245696544576831475277849455230985 })], tags := [(5, { ready := true, readers := 2 })] })], tier := { pages := [(5, { st := .resident .basin, frame := 0, frameTier := .basin })], dirs := [(0, { valid := true, used := 1, leaf := 257 })], leaves := [(257, true)], frames := [(67108864, true)] }, sram := (Map.store (Map.store (Map.store ([] : Memory) 52428800 (bytesOfNat 2 770)) 52428864 (bytesOfNat 2 261)) 52428864 (bytesOfNat 2 513)) }
     25
     { st := .running, desc := BitVec.ofNat 512 47634829485251867562414293835869809904506928669110512515502114560322463575307807664722562718896859398966395771808141796724401564567407165449 }
     0) (State.opByte
     { (st [(Reg.PG_READY_READY.place .tier, 1), (Reg.PG_READY_READY.place (.bas 0), 1), (Reg.BAS_MEM_STAT_ONLINE.place (.bas 0), 1), (Reg.BAS_MEM_FRAMES_FRAMES.place (.bas 0), 786432), (Reg.PG_READY_READY.place (.disp 3), 1), (Reg.PG_READY_READY.place (.tile 25), 1), (Reg.PG_READY_READY.place (.tile 24), 1), (Reg.PG_READY_READY.place .codec, 1)]) with tiles := [(25, { slots := [(3, { st := .running, desc := BitVec.ofNat 512 47634829485251867562414293835869809904506928669110512515502114560322463575307807664722562718896859398966395771808141796724401564567407165449 }), (4, { st := .waiting, desc := BitVec.ofNat 512 47634829485251867562414293835869809904506928669110512018171289484383475428426084946257208239023728846633646245696544576831475277849455230985 })], tags := [(5, { ready := true, readers := 2 })] })], tier := { pages := [(5, { st := .resident .basin, frame := 0, frameTier := .basin })], dirs := [(0, { valid := true, used := 1, leaf := 257 })], leaves := [(257, true)], frames := [(67108864, true)] }, sram := (Map.store (Map.store (Map.store ([] : Memory) 52428800 (bytesOfNat 2 770)) 52428864 (bytesOfNat 2 261)) 52428864 (bytesOfNat 2 513)) }
     25
     { st := .running, desc := BitVec.ofNat 512 47634829485251867562414293835869809904506928669110512515502114560322463575307807664722562718896859398966395771808141796724401564567407165449 }
     1) (fun _ => 0)) (BitVec.ofNat 512
     47634829485251867562414293835869809904506928669110512515502114560322463575307807664722562718896859398966395771808141796724401564567407165449)),
     by decide +kernel⟩,
   ⟨{ (st [(Reg.PG_READY_READY.place .tier, 1), (Reg.PG_READY_READY.place (.bas 0), 1), (Reg.BAS_MEM_STAT_ONLINE.place (.bas 0), 1), (Reg.BAS_MEM_FRAMES_FRAMES.place (.bas 0), 786432), (Reg.PG_READY_READY.place (.disp 3), 1), (Reg.PG_READY_READY.place (.tile 25), 1), (Reg.PG_READY_READY.place (.tile 24), 1), (Reg.PG_READY_READY.place .codec, 1)]) with tiles := [(25, { slots := [(3, { st := .running, desc := BitVec.ofNat 512 47634829485251867562414293835869809904506928669110512018171289484383613382473180743526834079366567598412204929438168774182845880340318257161 }), (4, { st := .waiting, desc := BitVec.ofNat 512 47634829485251867562414293835869809904506928669110512018171289484383475428426084946257208239023728846633646245696544576831475277849455230985 })], tags := [(5, { ready := true, readers := 2 })] })], tier := { pages := [(5, { st := .resident .basin, frame := 0, frameTier := .basin, side := true, sideSlot := 0 })], dirs := [(0, { valid := true, used := 1, leaf := 257 })], leaves := [(257, true)], frames := [(67108864, true)] }, sram := (Map.store (Map.store (Map.store ([] : Memory) 52428800 (bytesOfNat 2 770)) 52428864 (bytesOfNat 2 261)) 52428864 (bytesOfNat 2 513)) },
     25, { i := 3, banks := [[(0, .portA), (0, .dma)]], stallA := 2, corrected := 1 },
     { st := .running, desc := BitVec.ofNat 512 47634829485251867562414293835869809904506928669110512018171289484383613382473180743526834079366567598412204929438168774182845880340318257161 },
     BitVec.ofNat 512
     47634829485251867562414293835869809904506928669110512018171289484383613382473180743526834079366567598412204929438168774182845880340318257161,
     (State.matrix
     { (st [(Reg.PG_READY_READY.place .tier, 1), (Reg.PG_READY_READY.place (.bas 0), 1), (Reg.BAS_MEM_STAT_ONLINE.place (.bas 0), 1), (Reg.BAS_MEM_FRAMES_FRAMES.place (.bas 0), 786432), (Reg.PG_READY_READY.place (.disp 3), 1), (Reg.PG_READY_READY.place (.tile 25), 1), (Reg.PG_READY_READY.place (.tile 24), 1), (Reg.PG_READY_READY.place .codec, 1)]) with tiles := [(25, { slots := [(3, { st := .running, desc := BitVec.ofNat 512 47634829485251867562414293835869809904506928669110512018171289484383613382473180743526834079366567598412204929438168774182845880340318257161 }), (4, { st := .waiting, desc := BitVec.ofNat 512 47634829485251867562414293835869809904506928669110512018171289484383475428426084946257208239023728846633646245696544576831475277849455230985 })], tags := [(5, { ready := true, readers := 2 })] })], tier := { pages := [(5, { st := .resident .basin, frame := 0, frameTier := .basin, side := true, sideSlot := 0 })], dirs := [(0, { valid := true, used := 1, leaf := 257 })], leaves := [(257, true)], frames := [(67108864, true)] }, sram := (Map.store (Map.store (Map.store ([] : Memory) 52428800 (bytesOfNat 2 770)) 52428864 (bytesOfNat 2 261)) 52428864 (bytesOfNat 2 513)) }
     25
     { st := .running, desc := BitVec.ofNat 512 47634829485251867562414293835869809904506928669110512018171289484383613382473180743526834079366567598412204929438168774182845880340318257161 }
     (State.opByte
     { (st [(Reg.PG_READY_READY.place .tier, 1), (Reg.PG_READY_READY.place (.bas 0), 1), (Reg.BAS_MEM_STAT_ONLINE.place (.bas 0), 1), (Reg.BAS_MEM_FRAMES_FRAMES.place (.bas 0), 786432), (Reg.PG_READY_READY.place (.disp 3), 1), (Reg.PG_READY_READY.place (.tile 25), 1), (Reg.PG_READY_READY.place (.tile 24), 1), (Reg.PG_READY_READY.place .codec, 1)]) with tiles := [(25, { slots := [(3, { st := .running, desc := BitVec.ofNat 512 47634829485251867562414293835869809904506928669110512018171289484383613382473180743526834079366567598412204929438168774182845880340318257161 }), (4, { st := .waiting, desc := BitVec.ofNat 512 47634829485251867562414293835869809904506928669110512018171289484383475428426084946257208239023728846633646245696544576831475277849455230985 })], tags := [(5, { ready := true, readers := 2 })] })], tier := { pages := [(5, { st := .resident .basin, frame := 0, frameTier := .basin, side := true, sideSlot := 0 })], dirs := [(0, { valid := true, used := 1, leaf := 257 })], leaves := [(257, true)], frames := [(67108864, true)] }, sram := (Map.store (Map.store (Map.store ([] : Memory) 52428800 (bytesOfNat 2 770)) 52428864 (bytesOfNat 2 261)) 52428864 (bytesOfNat 2 513)) }
     25
     { st := .running, desc := BitVec.ofNat 512 47634829485251867562414293835869809904506928669110512018171289484383613382473180743526834079366567598412204929438168774182845880340318257161 }
     0) (State.opByte
     { (st [(Reg.PG_READY_READY.place .tier, 1), (Reg.PG_READY_READY.place (.bas 0), 1), (Reg.BAS_MEM_STAT_ONLINE.place (.bas 0), 1), (Reg.BAS_MEM_FRAMES_FRAMES.place (.bas 0), 786432), (Reg.PG_READY_READY.place (.disp 3), 1), (Reg.PG_READY_READY.place (.tile 25), 1), (Reg.PG_READY_READY.place (.tile 24), 1), (Reg.PG_READY_READY.place .codec, 1)]) with tiles := [(25, { slots := [(3, { st := .running, desc := BitVec.ofNat 512 47634829485251867562414293835869809904506928669110512018171289484383613382473180743526834079366567598412204929438168774182845880340318257161 }), (4, { st := .waiting, desc := BitVec.ofNat 512 47634829485251867562414293835869809904506928669110512018171289484383475428426084946257208239023728846633646245696544576831475277849455230985 })], tags := [(5, { ready := true, readers := 2 })] })], tier := { pages := [(5, { st := .resident .basin, frame := 0, frameTier := .basin, side := true, sideSlot := 0 })], dirs := [(0, { valid := true, used := 1, leaf := 257 })], leaves := [(257, true)], frames := [(67108864, true)] }, sram := (Map.store (Map.store (Map.store ([] : Memory) 52428800 (bytesOfNat 2 770)) 52428864 (bytesOfNat 2 261)) 52428864 (bytesOfNat 2 513)) }
     25
     { st := .running, desc := BitVec.ofNat 512 47634829485251867562414293835869809904506928669110512018171289484383613382473180743526834079366567598412204929438168774182845880340318257161 }
     1) (fun _ => 0)), (State.modelTok
     { (st [(Reg.PG_READY_READY.place .tier, 1), (Reg.PG_READY_READY.place (.bas 0), 1), (Reg.BAS_MEM_STAT_ONLINE.place (.bas 0), 1), (Reg.BAS_MEM_FRAMES_FRAMES.place (.bas 0), 786432), (Reg.PG_READY_READY.place (.disp 3), 1), (Reg.PG_READY_READY.place (.tile 25), 1), (Reg.PG_READY_READY.place (.tile 24), 1), (Reg.PG_READY_READY.place .codec, 1)]) with tiles := [(25, { slots := [(3, { st := .running, desc := BitVec.ofNat 512 47634829485251867562414293835869809904506928669110512018171289484383613382473180743526834079366567598412204929438168774182845880340318257161 }), (4, { st := .waiting, desc := BitVec.ofNat 512 47634829485251867562414293835869809904506928669110512018171289484383475428426084946257208239023728846633646245696544576831475277849455230985 })], tags := [(5, { ready := true, readers := 2 })] })], tier := { pages := [(5, { st := .resident .basin, frame := 0, frameTier := .basin, side := true, sideSlot := 0 })], dirs := [(0, { valid := true, used := 1, leaf := 257 })], leaves := [(257, true)], frames := [(67108864, true)] }, sram := (Map.store (Map.store (Map.store ([] : Memory) 52428800 (bytesOfNat 2 770)) 52428864 (bytesOfNat 2 261)) 52428864 (bytesOfNat 2 513)) }
     25
     { st := .running, desc := BitVec.ofNat 512 47634829485251867562414293835869809904506928669110512018171289484383613382473180743526834079366567598412204929438168774182845880340318257161 }),
     64, by decide +kernel⟩,
   ⟨{ (st [(Reg.PG_READY_READY.place .tier, 1), (Reg.PG_READY_READY.place (.bas 0), 1), (Reg.BAS_MEM_STAT_ONLINE.place (.bas 0), 1), (Reg.BAS_MEM_FRAMES_FRAMES.place (.bas 0), 786432), (Reg.PG_READY_READY.place (.disp 3), 1), (Reg.PG_READY_READY.place (.tile 25), 1), (Reg.PG_READY_READY.place (.tile 24), 1), (Reg.PG_READY_READY.place .codec, 1)]) with tiles := [(25, { slots := [(3, { st := .running, desc := BitVec.ofNat 512 47634102635436893179040485073748265163400240214069261549858033914415312747168007644505977246259559095674043890643026613442847954630191677447 }), (4, { st := .waiting, desc := BitVec.ofNat 512 47634829485251867562414293835869809904506928669110512018171289484383475428426084946257208239023728846633646245696544576831475277849455230985 })], tags := [(5, { ready := true, readers := 2 })], progs := [(2, { code := [1], codeLen := 16 })] })], tier := { pages := [(5, { st := .resident .basin, frame := 0, frameTier := .basin })], dirs := [(0, { valid := true, used := 1, leaf := 257 })], leaves := [(257, true)], frames := [(67108864, true)] } },
     25, { i := 3, banks := [[(0, .portA), (0, .dma)]], stallA := 2, corrected := 1 },
     { st := .running, desc := BitVec.ofNat 512 47634102635436893179040485073748265163400240214069261549858033914415312747168007644505977246259559095674043890643026613442847954630191677447 },
     BitVec.ofNat 512
     47634102635436893179040485073748265163400240214069261549858033914415312747168007644505977246259559095674043890643026613442847954630191677447,
     by decide +kernel⟩,
   ⟨{ (st [(Reg.PG_READY_READY.place .tier, 1), (Reg.PG_READY_READY.place (.bas 0), 1), (Reg.BAS_MEM_STAT_ONLINE.place (.bas 0), 1), (Reg.BAS_MEM_FRAMES_FRAMES.place (.bas 0), 786432), (Reg.PG_READY_READY.place (.disp 3), 1), (Reg.PG_READY_READY.place (.tile 25), 1), (Reg.PG_READY_READY.place (.tile 24), 1), (Reg.PG_READY_READY.place .codec, 1)]) with tiles := [(25, { slots := [(3, { st := .running, desc := BitVec.ofNat 512 199791907220223502808422222706762643567910281130558153654986045416023791284465431046846265006300200826470315905860802141013984045515138490886722100 }), (4, { st := .waiting, desc := BitVec.ofNat 512 47634829485251867562414293835869809904506928669110512018171289484383475428426084946257208239023728846633646245696544576831475277849455230985 })], tags := [(5, { ready := true, readers := 2 })] })], tier := { pages := [(5, { st := .resident .basin, frame := 0, frameTier := .basin })], dirs := [(0, { valid := true, used := 1, leaf := 257 })], leaves := [(257, true)], frames := [(67108864, true)] }, sram := (Map.store ([] : Memory) 52428800 (bytesOfNat 8 578437695752307201)) },
     25, { i := 3, banks := [[(0, .portA), (0, .dma)]], stallA := 2, corrected := 1 },
     { st := .running, desc := BitVec.ofNat 512 199791907220223502808422222706762643567910281130558153654986045416023791284465431046846265006300200826470315905860802141013984045515138490886722100 },
     BitVec.ofNat 512
     199791907220223502808422222706762643567910281130558153654986045416023791284465431046846265006300200826470315905860802141013984045515138490886722100,
     (bytesOfNat 64 0x0807060504030201), (bytesOfNat 64 0x0807060504030201), by decide +kernel⟩,
   ⟨{ (st [(Reg.PG_READY_READY.place .tier, 1), (Reg.PG_READY_READY.place (.bas 0), 1), (Reg.BAS_MEM_STAT_ONLINE.place (.bas 0), 1), (Reg.BAS_MEM_FRAMES_FRAMES.place (.bas 0), 786432), (Reg.PG_READY_READY.place (.disp 3), 1), (Reg.PG_READY_READY.place (.tile 25), 1), (Reg.PG_READY_READY.place (.tile 24), 1), (Reg.PG_READY_READY.place .codec, 1)]) with tiles := [(25, { slots := [(3, { st := .running, desc := BitVec.ofNat 512 199791907220223502808422222706762643567910281130558153654986045416023791284464999687699590596063486154228923591773918169347124517076838705369645061, far := { data := some (bytesOfNat 64 7), sent := 64, acked := 1 } }), (4, { st := .waiting, desc := BitVec.ofNat 512 47634829485251867562414293835869809904506928669110512018171289484383475428426084946257208239023728846633646245696544576831475277849455230985 })], tags := [(5, { ready := true, readers := 2 })] })], tier := { pages := [(5, { st := .resident .basin, frame := 0, frameTier := .basin })], dirs := [(0, { valid := true, used := 1, leaf := 257 })], leaves := [(257, true)], frames := [(67108864, true)] } },
     25, { i := 3, banks := [[(0, .portA), (0, .dma)]], stallA := 2, corrected := 1 },
     { st := .running, desc := BitVec.ofNat 512 199791907220223502808422222706762643567910281130558153654986045416023791284464999687699590596063486154228923591773918169347124517076838705369645061, far := { data := some (bytesOfNat 64 7), sent := 64, acked := 1 } },
     BitVec.ofNat 512
     199791907220223502808422222706762643567910281130558153654986045416023791284464999687699590596063486154228923591773918169347124517076838705369645061,
     (bytesOfNat 64 7), by decide +kernel⟩,
   ⟨{ (st [(Reg.PG_READY_READY.place .tier, 1), (Reg.PG_READY_READY.place (.bas 0), 1), (Reg.BAS_MEM_STAT_ONLINE.place (.bas 0), 1), (Reg.BAS_MEM_FRAMES_FRAMES.place (.bas 0), 786432), (Reg.PG_READY_READY.place (.disp 3), 1), (Reg.PG_READY_READY.place (.tile 25), 1), (Reg.PG_READY_READY.place (.tile 24), 1), (Reg.PG_READY_READY.place .codec, 1)]) with tiles := [(25, { slots := [(3, { st := .running, desc := BitVec.ofNat 512 199791907220223502808422222706762643567910281130558153654986045416023791284464999687699590596063486154228923591773918169347124517076838705369645061, far := { data := some (bytesOfNat 64 7), sent := 64, acked := 0 } }), (4, { st := .waiting, desc := BitVec.ofNat 512 47634829485251867562414293835869809904506928669110512018171289484383475428426084946257208239023728846633646245696544576831475277849455230985 })], tags := [(5, { ready := true, readers := 2 })] })], tier := { pages := [(5, { st := .resident .basin, frame := 0, frameTier := .basin })], dirs := [(0, { valid := true, used := 1, leaf := 257 })], leaves := [(257, true)], frames := [(67108864, true)] } },
     25, { i := 3, banks := [[(0, .portA), (0, .dma)]], stallA := 2, corrected := 1 },
     { st := .running, desc := BitVec.ofNat 512 199791907220223502808422222706762643567910281130558153654986045416023791284464999687699590596063486154228923591773918169347124517076838705369645061, far := { data := some (bytesOfNat 64 7), sent := 64, acked := 0 } },
     BitVec.ofNat 512
     199791907220223502808422222706762643567910281130558153654986045416023791284464999687699590596063486154228923591773918169347124517076838705369645061,
     (bytesOfNat 64 7), by decide +kernel⟩,
   ⟨{ (st [(Reg.PG_READY_READY.place .tier, 1), (Reg.PG_READY_READY.place (.bas 0), 1), (Reg.BAS_MEM_STAT_ONLINE.place (.bas 0), 1), (Reg.BAS_MEM_FRAMES_FRAMES.place (.bas 0), 786432), (Reg.PG_READY_READY.place (.disp 3), 1), (Reg.PG_READY_READY.place (.tile 25), 1), (Reg.PG_READY_READY.place (.tile 24), 1), (Reg.PG_READY_READY.place .codec, 1)]) with tiles := [(25, { slots := [(3, { st := .running, desc := BitVec.ofNat 512 199791907220223502808422222706762643567910281130558153654986045416023791284464999687699590596063486154228923591773918169347124517076838705369645061, far := { data := some (bytesOfNat 64 7), err := some (0x12, 4096) } }), (4, { st := .waiting, desc := BitVec.ofNat 512 47634829485251867562414293835869809904506928669110512018171289484383475428426084946257208239023728846633646245696544576831475277849455230985 })], tags := [(5, { ready := true, readers := 2 })] })], tier := { pages := [(5, { st := .resident .basin, frame := 0, frameTier := .basin })], dirs := [(0, { valid := true, used := 1, leaf := 257 })], leaves := [(257, true)], frames := [(67108864, true)] } },
     25, { i := 3, banks := [[(0, .portA), (0, .dma)]], stallA := 2, corrected := 1 },
     { st := .running, desc := BitVec.ofNat 512 199791907220223502808422222706762643567910281130558153654986045416023791284464999687699590596063486154228923591773918169347124517076838705369645061, far := { data := some (bytesOfNat 64 7), err := some (0x12, 4096) } },
     BitVec.ofNat 512
     199791907220223502808422222706762643567910281130558153654986045416023791284464999687699590596063486154228923591773918169347124517076838705369645061,
     0x12, 4096, by decide +kernel⟩,
   ⟨{ (st [(Reg.PG_READY_READY.place .tier, 1), (Reg.PG_READY_READY.place (.bas 0), 1), (Reg.BAS_MEM_STAT_ONLINE.place (.bas 0), 1), (Reg.BAS_MEM_FRAMES_FRAMES.place (.bas 0), 786432), (Reg.PG_READY_READY.place (.disp 3), 1), (Reg.PG_READY_READY.place (.tile 25), 1), (Reg.PG_READY_READY.place (.tile 24), 1), (Reg.PG_READY_READY.place .codec, 1)]) with tiles := [(25, { slots := [(3, { st := .running, desc := BitVec.ofNat 512 199791907220223502808422222706762643567910281130558153654986045416023791284465431046846265006300200826470315905860802141013984045515138490886722100, wrote := true }), (4, { st := .waiting, desc := BitVec.ofNat 512 47634829485251867562414293835869809904506928669110512018171289484383475428426084946257208239023728846633646245696544576831475277849455230985 })], tags := [(5, { ready := true, readers := 2 })] })], tier := { pages := [(5, { st := .resident .basin, frame := 0, frameTier := .basin })], dirs := [(0, { valid := true, used := 1, leaf := 257 })], leaves := [(257, true)], frames := [(67108864, true)] } },
     25, { i := 3, banks := [[(0, .portA), (0, .dma)]], stallA := 2, corrected := 1 },
     { st := .running, desc := BitVec.ofNat 512 199791907220223502808422222706762643567910281130558153654986045416023791284465431046846265006300200826470315905860802141013984045515138490886722100, wrote := true },
     BitVec.ofNat 512
     199791907220223502808422222706762643567910281130558153654986045416023791284465431046846265006300200826470315905860802141013984045515138490886722100,
     by decide +kernel⟩,
   ⟨{ (st [(Reg.PG_READY_READY.place .tier, 1), (Reg.PG_READY_READY.place (.bas 0), 1), (Reg.BAS_MEM_STAT_ONLINE.place (.bas 0), 1), (Reg.BAS_MEM_FRAMES_FRAMES.place (.bas 0), 786432), (Reg.PG_READY_READY.place (.disp 3), 1), (Reg.PG_READY_READY.place (.tile 25), 1), (Reg.PG_READY_READY.place (.tile 24), 1), (Reg.PG_READY_READY.place .codec, 1)]) with tiles := [(25, { slots := [(3, { st := .running, desc := BitVec.ofNat 512 199791907220223502808422222706762643567910281130558153654986045416023791284465431046846265006300200826470315905860802141013984045515138490886722100, wrote := true })], tags := [(5, { ready := true, readers := 2 })] })], tier := { pages := [(5, { st := .resident .basin, frame := 0, frameTier := .basin })], dirs := [(0, { valid := true, used := 1, leaf := 257 })], leaves := [(257, true)], frames := [(67108864, true)], stalled := [(5, [{ src := .tileDma 25 3, offset := 327680, len := 64, write := some (bytesOfNat 64 1), ticket := 0, own := true }])] } },
     25, { i := 3, banks := [[(0, .portA), (0, .dma)]], stallA := 2, corrected := 1 },
     { st := .running, desc := BitVec.ofNat 512 199791907220223502808422222706762643567910281130558153654986045416023791284465431046846265006300200826470315905860802141013984045515138490886722100, wrote := true },
     BitVec.ofNat 512
     199791907220223502808422222706762643567910281130558153654986045416023791284465431046846265006300200826470315905860802141013984045515138490886722100,
     by decide +kernel⟩,
   ⟨{ (st [(Reg.PG_READY_READY.place .tier, 1), (Reg.PG_READY_READY.place (.bas 0), 1), (Reg.BAS_MEM_STAT_ONLINE.place (.bas 0), 1), (Reg.BAS_MEM_FRAMES_FRAMES.place (.bas 0), 786432), (Reg.PG_READY_READY.place (.disp 3), 1), (Reg.PG_READY_READY.place (.tile 25), 1), (Reg.PG_READY_READY.place (.tile 24), 1), (Reg.PG_READY_READY.place .codec, 1)]) with tiles := [(25, { slots := [(3, { st := .running, desc := BitVec.ofNat 512 199791907220223502808422222706762643567910281130558153654986045416023820232487309016748446488809738326205886909268786505273500674565708059569750021 })], tags := [(5, { ready := true, readers := 2 })] })], tier := { pages := [(5, { st := .resident .basin, frame := 0, frameTier := .basin })], dirs := [(0, { valid := true, used := 1, leaf := 257 })], leaves := [(257, true)], frames := [(67108864, true)] } },
     25, { i := 3, banks := [[(0, .portA), (0, .dma)]], stallA := 2, corrected := 1 },
     { st := .running, desc := BitVec.ofNat 512 199791907220223502808422222706762643567910281130558153654986045416023820232487309016748446488809738326205886909268786505273500674565708059569750021 },
     by decide +kernel⟩,
   ⟨{ (st [(Reg.PG_READY_READY.place .tier, 1), (Reg.PG_READY_READY.place (.bas 0), 1), (Reg.BAS_MEM_STAT_ONLINE.place (.bas 0), 1), (Reg.BAS_MEM_FRAMES_FRAMES.place (.bas 0), 786432), (Reg.PG_READY_READY.place (.disp 3), 1), (Reg.PG_READY_READY.place (.tile 25), 1), (Reg.PG_READY_READY.place (.tile 24), 1), (Reg.PG_READY_READY.place .codec, 1)]) with tiles := [(25, { slots := [(3, { st := .running, desc := BitVec.ofNat 512 81394552952880990573520093189 })], tags := [(5, { ready := true, readers := 2 })] })], tier := { pages := [(5, { st := .resident .basin, frame := 0, frameTier := .basin })], dirs := [(0, { valid := true, used := 1, leaf := 257 })], leaves := [(257, true)], frames := [(67108864, true)] } },
     25, { i := 3, banks := [[(0, .portA), (0, .dma)]], stallA := 2, corrected := 1 },
     { st := .running, desc := BitVec.ofNat 512 81394552952880990573520093189 }, by decide +kernel⟩,
   ⟨{ (st [(Reg.PG_READY_READY.place .tier, 1), (Reg.PG_READY_READY.place (.bas 0), 1), (Reg.BAS_MEM_STAT_ONLINE.place (.bas 0), 1), (Reg.BAS_MEM_FRAMES_FRAMES.place (.bas 0), 786432), (Reg.PG_READY_READY.place (.disp 3), 1), (Reg.PG_READY_READY.place (.tile 25), 1), (Reg.PG_READY_READY.place (.tile 24), 1), (Reg.PG_READY_READY.place .codec, 1)]) with tier := { pages := [(5, { st := .resident .basin, frame := 0, frameTier := .basin })], dirs := [(0, { valid := true, used := 1, leaf := 257 })], leaves := [(257, true)], frames := [(67108864, true)] } },
     9, { i := 1 }, by decide +kernel⟩,
   ⟨{ (st [(Reg.PG_READY_READY.place .tier, 1), (Reg.PG_READY_READY.place (.bas 0), 1), (Reg.BAS_MEM_STAT_ONLINE.place (.bas 0), 1), (Reg.BAS_MEM_FRAMES_FRAMES.place (.bas 0), 786432), (Reg.PG_READY_READY.place (.disp 3), 1), (Reg.PG_READY_READY.place (.tile 25), 1), (Reg.PG_READY_READY.place (.tile 24), 1), (Reg.PG_READY_READY.place .codec, 1)]) with tiles := [(25, { slots := [(3, { st := .running, desc := BitVec.ofNat 512 199791907220223502808422222706762643567910281130558153654986045416023791284464999687699590596063486154240073964369289258273991255491765013875720197 }), (4, { st := .waiting, desc := BitVec.ofNat 512 47634829485251867562414293835869809904506928669110512018171289484383475428426084946257208239023728846633646245696544576831475277849455230985 })], tags := [(5, { ready := true, readers := 2 })] })], tier := { pages := [(5, { st := .resident .basin, frame := 0, frameTier := .basin })], dirs := [(0, { valid := true, used := 1, leaf := 257 })], leaves := [(257, true)], frames := [(67108864, true)] } },
     25, { i := 3, banks := [[(0, .portA), (0, .dma)]], stallA := 2, corrected := 1 },
     { st := .running, desc := BitVec.ofNat 512 199791907220223502808422222706762643567910281130558153654986045416023791284464999687699590596063486154240073964369289258273991255491765013875720197 },
     BitVec.ofNat 512
     199791907220223502808422222706762643567910281130558153654986045416023791284464999687699590596063486154240073964369289258273991255491765013875720197,
     by decide +kernel⟩,
   ⟨{ (st [(Reg.PG_READY_READY.place .tier, 1), (Reg.PG_READY_READY.place (.bas 0), 1), (Reg.BAS_MEM_STAT_ONLINE.place (.bas 0), 1), (Reg.BAS_MEM_FRAMES_FRAMES.place (.bas 0), 786432), (Reg.PG_READY_READY.place (.disp 3), 1), (Reg.PG_READY_READY.place (.tile 25), 1), (Reg.PG_READY_READY.place (.tile 24), 1), (Reg.PG_READY_READY.place .codec, 1)]) with tiles := [(25, { slots := [(3, { st := .running, desc := BitVec.ofNat 512 47634829485251867562414293835869809904506928669110512018171289600175564638782333690123349980809769597913814602286311088963043162246004867077 }), (4, { st := .waiting, desc := BitVec.ofNat 512 47634829485251867562414293835869809904506928669110512018171289484383475428426084946257208239023728846633646245696544576831475277849455230985 })], tags := [(5, { ready := true, readers := 2 })] })], tier := { pages := [(5, { st := .resident .basin, frame := 0, frameTier := .basin })], dirs := [(0, { valid := true, used := 1, leaf := 257 })], leaves := [(257, true)], frames := [(67108864, true)] } },
     25, { i := 3, banks := [[(0, .portA), (0, .dma)]], stallA := 2, corrected := 1 },
     { st := .running, desc := BitVec.ofNat 512 47634829485251867562414293835869809904506928669110512018171289600175564638782333690123349980809769597913814602286311088963043162246004867077 },
     BitVec.ofNat 512
     47634829485251867562414293835869809904506928669110512018171289600175564638782333690123349980809769597913814602286311088963043162246004867077,
     by decide +kernel⟩,
   ⟨{ (st [(Reg.PG_READY_READY.place .tier, 1), (Reg.PG_READY_READY.place (.bas 0), 1), (Reg.BAS_MEM_STAT_ONLINE.place (.bas 0), 1), (Reg.BAS_MEM_FRAMES_FRAMES.place (.bas 0), 786432), (Reg.PG_READY_READY.place (.disp 3), 1), (Reg.PG_READY_READY.place (.tile 25), 1), (Reg.PG_READY_READY.place (.tile 24), 1), (Reg.PG_READY_READY.place .codec, 1)]) with tiles := [(25, { slots := [(3, { st := .running, desc := BitVec.ofNat 512 47634829485251867562414293835869809904506928669110512018171289484383475428426084946257208239023728846633646246964195177041257935272448884745, reportWait := true })], tags := [(5, { ready := true, readers := 2 })] })], tier := { pages := [(5, { st := .resident .basin, frame := 0, frameTier := .basin })], dirs := [(0, { valid := true, used := 1, leaf := 257 })], leaves := [(257, true)], frames := [(67108864, true)] } },
     25, 3,
     { st := .running, desc := BitVec.ofNat 512 47634829485251867562414293835869809904506928669110512018171289484383475428426084946257208239023728846633646246964195177041257935272448884745, reportWait := true },
     BitVec.ofNat 512
     47634829485251867562414293835869809904506928669110512018171289484383475428426084946257208239023728846633646246964195177041257935272448884745,
     (State.reportEvent
     { (st [(Reg.PG_READY_READY.place .tier, 1), (Reg.PG_READY_READY.place (.bas 0), 1), (Reg.BAS_MEM_STAT_ONLINE.place (.bas 0), 1), (Reg.BAS_MEM_FRAMES_FRAMES.place (.bas 0), 786432), (Reg.PG_READY_READY.place (.disp 3), 1), (Reg.PG_READY_READY.place (.tile 25), 1), (Reg.PG_READY_READY.place (.tile 24), 1), (Reg.PG_READY_READY.place .codec, 1)]) with tiles := [(25, { slots := [(3, { st := .running, desc := BitVec.ofNat 512 47634829485251867562414293835869809904506928669110512018171289484383475428426084946257208239023728846633646246964195177041257935272448884745, reportWait := true })], tags := [(5, { ready := true, readers := 2 })] })], tier := { pages := [(5, { st := .resident .basin, frame := 0, frameTier := .basin })], dirs := [(0, { valid := true, used := 1, leaf := 257 })], leaves := [(257, true)], frames := [(67108864, true)] } }
     3 1 false 4), by decide +kernel⟩,
   ⟨{ (st [(Reg.PG_READY_READY.place .tier, 1), (Reg.PG_READY_READY.place (.bas 0), 1), (Reg.BAS_MEM_STAT_ONLINE.place (.bas 0), 1), (Reg.BAS_MEM_FRAMES_FRAMES.place (.bas 0), 786432), (Reg.PG_READY_READY.place (.disp 3), 1), (Reg.PG_READY_READY.place (.tile 25), 1), (Reg.PG_READY_READY.place (.tile 24), 1), (Reg.PG_READY_READY.place .codec, 1), (Reg.DISP_EVT_MASK_LAYER_MASK.place (.disp 3), 6)]) with tiles := [(25, { slots := [(3, { st := .running, desc := BitVec.ofNat 512 47634829485251867562414293835869809904506928669110512018171289484383475428426084946257208239023728846633646246964195181652943953699836788745, reportWait := true })] })], parts := [(3, { layerEvts := (List.range 16).map fun k => { value := 100 + k, tiles := 1 } })], tier := { pages := [(5, { st := .resident .basin, frame := 0, frameTier := .basin })], dirs := [(0, { valid := true, used := 1, leaf := 257 })], leaves := [(257, true)], frames := [(67108864, true)] } },
     25, 3,
     { st := .running, desc := BitVec.ofNat 512 47634829485251867562414293835869809904506928669110512018171289484383475428426084946257208239023728846633646246964195181652943953699836788745, reportWait := true },
     BitVec.ofNat 512
     47634829485251867562414293835869809904506928669110512018171289484383475428426084946257208239023728846633646246964195181652943953699836788745,
     by decide +kernel⟩,
   ⟨{ (st [(Reg.PG_READY_READY.place .tier, 1), (Reg.PG_READY_READY.place (.bas 0), 1), (Reg.BAS_MEM_STAT_ONLINE.place (.bas 0), 1), (Reg.BAS_MEM_FRAMES_FRAMES.place (.bas 0), 786432), (Reg.PG_READY_READY.place (.disp 3), 1), (Reg.PG_READY_READY.place (.tile 25), 1), (Reg.PG_READY_READY.place (.tile 24), 1), (Reg.PG_READY_READY.place .codec, 1)]) with tier := { pages := [(5, { st := .resident .basin, frame := 0, frameTier := .basin })], dirs := [(0, { valid := true, used := 1, leaf := 257 })], leaves := [(257, true)], frames := [(67108864, true)] } },
     25, 1, by decide +kernel⟩,
   ⟨{ (st [(Reg.PG_READY_READY.place .tier, 1), (Reg.PG_READY_READY.place (.bas 0), 1), (Reg.BAS_MEM_STAT_ONLINE.place (.bas 0), 1), (Reg.BAS_MEM_FRAMES_FRAMES.place (.bas 0), 786432), (Reg.PG_READY_READY.place (.disp 3), 1), (Reg.PG_READY_READY.place (.tile 25), 1), (Reg.PG_READY_READY.place (.tile 24), 1), (Reg.PG_READY_READY.place .codec, 1)]) with tiles := [(25, { slots := [(3, { st := .running, desc := BitVec.ofNat 512 47634829485251867562414293835869809904506928669110512018171289484383475347546244932251085382787820420572251690980825900028552475376686727173 }), (4, { st := .waiting, desc := BitVec.ofNat 512 47634829485251867562414293835869809904506928669110512018171289484383475428426084946257208239023728846633646245696544576831475277849455230985 })], tags := [(5, { ready := true, readers := 2 })] })], tier := { pages := [(5, { st := .resident .basin, frame := 0, frameTier := .basin })], dirs := [(0, { valid := true, used := 1, leaf := 257 })], leaves := [(257, true)], frames := [(67108864, true)] }, sram := [] },
     25, 3,
     { st := .running, desc := BitVec.ofNat 512 47634829485251867562414293835869809904506928669110512018171289484383475347546244932251085382787820420572251690980825900028552475376686727173 },
     BitVec.ofNat 512
     47634829485251867562414293835869809904506928669110512018171289484383475347546244932251085382787820420572251690980825900028552475376686727173,
     .abft 1 2 3 4, by decide +kernel⟩,
   ⟨{ (st [(Reg.PG_READY_READY.place .tier, 1), (Reg.PG_READY_READY.place (.bas 0), 1), (Reg.BAS_MEM_STAT_ONLINE.place (.bas 0), 1), (Reg.BAS_MEM_FRAMES_FRAMES.place (.bas 0), 786432), (Reg.PG_READY_READY.place (.disp 3), 1), (Reg.PG_READY_READY.place (.tile 25), 1), (Reg.PG_READY_READY.place (.tile 24), 1), (Reg.PG_READY_READY.place .codec, 1)]) with tiles := [(25, { slots := [(3, { st := .running, desc := BitVec.ofNat 512 199791907220223502808422222706762643567910281130558153654986045416023791284465431046846265006300200826470315905860802141013984045515138490886722100 })], tags := [(5, { ready := true, readers := 2 })] })], tier := { pages := [(5, { st := .resident .basin, frame := 0, frameTier := .basin })], dirs := [(0, { valid := true, used := 1, leaf := 257 })], leaves := [(257, true)], frames := [(67108864, true)] } },
     25, 3, 1, 2, 3, 4, by decide +kernel⟩,
   ⟨{ (st [(Reg.PG_READY_READY.place .tier, 1), (Reg.PG_READY_READY.place (.bas 0), 1), (Reg.BAS_MEM_STAT_ONLINE.place (.bas 0), 1), (Reg.BAS_MEM_FRAMES_FRAMES.place (.bas 0), 786432), (Reg.PG_READY_READY.place (.disp 3), 1), (Reg.PG_READY_READY.place (.tile 25), 1), (Reg.PG_READY_READY.place (.tile 24), 1), (Reg.PG_READY_READY.place .codec, 1)]) with tiles := [(25, { slots := [(3, { st := .running, desc := BitVec.ofNat 512 47634829485251867562414293835869809904506928669110512018171289484383475428426084946257208239023728846633646245696544581424714552203133583369 }), (4, { st := .waiting, desc := BitVec.ofNat 512 47634829485251867562414293835869809904506928669110512018171289484383475428426084946257208239023728846633646245696544576831475277849455230985 })], tags := [(5, { ready := true, readers := 2 })] })], tier := { pages := [(5, { st := .resident .basin, frame := 0, frameTier := .basin })], dirs := [(0, { valid := true, used := 1, leaf := 257 })], leaves := [(257, true)], frames := [(67108864, true)] }, sram := [] },
     25, 3,
     { st := .running, desc := BitVec.ofNat 512 47634829485251867562414293835869809904506928669110512018171289484383475428426084946257208239023728846633646245696544581424714552203133583369 },
     70, by decide +kernel⟩,
   ⟨{ (st [(Reg.PG_READY_READY.place .tier, 1), (Reg.PG_READY_READY.place (.bas 0), 1), (Reg.BAS_MEM_STAT_ONLINE.place (.bas 0), 1), (Reg.BAS_MEM_FRAMES_FRAMES.place (.bas 0), 786432), (Reg.PG_READY_READY.place (.disp 3), 1), (Reg.PG_READY_READY.place (.tile 25), 1), (Reg.PG_READY_READY.place (.tile 24), 1), (Reg.PG_READY_READY.place .codec, 1)]) with tiles := [(25, { slots := [(3, { st := .running, desc := BitVec.ofNat 512 47634829485251867562414293835869809904506928669110512018171289484383475428426084946257208239023728846633646245696544581424714552203133583369 }), (4, { st := .waiting, desc := BitVec.ofNat 512 47634829485251867562414293835869809904506928669110512018171289484383475428426084946257208239023728846633646245696544576831475277849455230985 })], tags := [(5, { ready := true, readers := 2 })] })], tier := { pages := [(5, { st := .resident .basin, frame := 0, frameTier := .basin })], dirs := [(0, { valid := true, used := 1, leaf := 257 })], leaves := [(257, true)], frames := [(67108864, true)] }, sram := [] },
     25, 3,
     { st := .running, desc := BitVec.ofNat 512 47634829485251867562414293835869809904506928669110512018171289484383475428426084946257208239023728846633646245696544581424714552203133583369 },
     2, 4096, 1, 1, by decide +kernel⟩,
   ⟨{ (st [(Reg.PG_READY_READY.place .tier, 1), (Reg.PG_READY_READY.place (.bas 0), 1), (Reg.BAS_MEM_STAT_ONLINE.place (.bas 0), 1), (Reg.BAS_MEM_FRAMES_FRAMES.place (.bas 0), 786432), (Reg.PG_READY_READY.place (.disp 3), 1), (Reg.PG_READY_READY.place (.tile 25), 1), (Reg.PG_READY_READY.place (.tile 24), 1), (Reg.PG_READY_READY.place .codec, 1)]) with tier := { pages := [(5, { st := .resident .basin, frame := 0, frameTier := .basin })], dirs := [(0, { valid := true, used := 1, leaf := 257 })], leaves := [(257, true)], frames := [(67108864, true)] } },
     25, 1, .extent, by decide +kernel⟩,
   ⟨{ (st [(Reg.PG_READY_READY.place .tier, 1), (Reg.PG_READY_READY.place (.bas 0), 1), (Reg.BAS_MEM_STAT_ONLINE.place (.bas 0), 1), (Reg.BAS_MEM_FRAMES_FRAMES.place (.bas 0), 786432), (Reg.PG_READY_READY.place (.disp 3), 1), (Reg.PG_READY_READY.place (.tile 25), 1), (Reg.PG_READY_READY.place (.tile 24), 1), (Reg.PG_READY_READY.place .codec, 1), (Reg.CODEC_ERR_INFO_VALID.place .codec, 1)]) with tier := { pages := [(5, { st := .resident .basin, frame := 0, frameTier := .basin })], dirs := [(0, { valid := true, used := 1, leaf := 257 })], leaves := [(257, true)], frames := [(67108864, true)] } },
     by decide +kernel⟩,
   ⟨State.reset, by decide +kernel⟩⟩

/-- The hypotheses of ProgramsAndAttentionRun can be met, clause by clause. -/
theorem wit_ProgramsAndAttentionRun :
    (∃ (s : State) (u : TileId) (k : Fin 256), s.ready (.tile u) = true ∧ (s.tile u).load = none ∧ ((s.tile
      u).slots.any (fun e => tEngine e.2.desc != 2 && tProg e.2.desc == k.val && e.2.st != SlotState.free) = false)) ∧
    (∃ (s : State) (u : TileId) (k : Fin 256), s.ready (.tile u) = true ∧ (s.tile u).load ≠ none) ∧
    (∃ (s : State) (u : TileId) (k : Fin 256), s.ready (.tile u) = true ∧ (s.tile u).load = none ∧ ((s.tile
      u).slots.any (fun e => tEngine e.2.desc != 2 && tProg e.2.desc == k.val && e.2.st != SlotState.free) = true) ∧
      (Map.get {} (s.tile u).progs k.val).codeLen ≠ 0) ∧
    (∃ (s : State) (u : TileId) (k : Nat) (src : Nat) (h : List Byte), s.works (.tile u) = true ∧ ((s.tile u).load =
      some (k, src)) ∧ s.tier.answers = [] ∧ s.readable src 64 ∧ h = s.rd src 64 ∧ progHeaderOk h (s.word (Page.base
      (.tile u) + 4)).toNat = true ∧ s.readable (src + 64) (progHeader h).codeLen ∧ (sha384 (s.rd (src + 64)
      (progHeader h).codeLen)).take 32 = (h.drop 32).take 32 ∧ (((s.tile u).progs.filter (fun e => e.1 != k)).foldl
      (fun n e => n + e.2.room) 0 + (progHeader h).room ≤ 131072)) ∧
    (∃ (s : State) (u : TileId) (k : Nat) (src : Nat) (h : List Byte), s.works (.tile u) = true ∧ ((s.tile u).load =
      some (k, src)) ∧ s.tier.answers = [] ∧ s.readable src 64 ∧ h = s.rd src 64 ∧ (Map.get {} (s.tile u).progs
      k).codeLen ≠ 0 ∧ progHeaderOk h (s.word (Page.base (.tile u) + 4)).toNat = false) ∧
    (∃ (s : State) (u : TileId) (k : Nat) (src : Nat) (h : List Byte), s.works (.tile u) = true ∧ ((s.tile u).load =
      some (k, src)) ∧ s.tier.answers = [] ∧ s.readable src 64 ∧ h = s.rd src 64 ∧ progHeaderOk h (s.word (Page.base
      (.tile u) + 4)).toNat = true ∧ s.readable (src + 64) (progHeader h).codeLen ∧ (Map.get {} (s.tile u).progs
      k).codeLen ≠ 0 ∧ (sha384 (s.rd (src + 64) (progHeader h).codeLen)).take 32 ≠ (h.drop 32).take 32) ∧
    (∃ (s : State) (u : TileId) (k : Nat) (src : Nat) (h : List Byte), s.works (.tile u) = true ∧ ((s.tile u).load =
      some (k, src)) ∧ s.tier.answers = [] ∧ s.readable src 64 ∧ h = s.rd src 64 ∧ progHeaderOk h (s.word (Page.base
      (.tile u) + 4)).toNat = true ∧ s.readable (src + 64) (progHeader h).codeLen ∧ (Map.get {} (s.tile u).progs
      k).codeLen ≠ 0 ∧ (sha384 (s.rd (src + 64) (progHeader h).codeLen)).take 32 = (h.drop 32).take 32 ∧ (131072 <
      ((s.tile u).progs.filter (fun e => e.1 != k)).foldl (fun n e => n + e.2.room) 0 + (progHeader h).room)) ∧
    (∃ (s : State) (u : TileId) (k : Nat) (src : Nat) (h : List Byte), s.works (.tile u) = true ∧ ((s.tile u).load =
      some (k, src)) ∧ s.tier.answers = [] ∧ s.readable src 64 ∧ h = s.rd src 64 ∧ (Map.get {} (s.tile u).progs
      k).codeLen = 0 ∧ progHeaderOk h (s.word (Page.base (.tile u) + 4)).toNat = false ∧ s.noParks) ∧
    (∃ (s : State) (u : TileId), (s.works (.tile u) = false ∨ (s.tile u).load = none)) ∧
    (∃ (s : State) (u : TileId) (i : Fin 64) (x : Slot) (d : BitVec 512) (e : BitVec 256) (b : BitVec 512), s.works
      (.tile u) = true ∧ x = s.slot u i ∧ d = x.desc ∧ x.st = .running ∧ tEngine d = 2 ∧ x.attnDone = false ∧
      s.tier.answers = [] ∧ s.spanOp u x 1 (tAux d * 32) 32 = .ok ∧ s.spanOp u x 2 0 64 = .ok ∧ (e = BitVec.ofNat 256
      (natOfBytes ((List.range 32).map fun j => s.opByte u x 1 (tAux d * 32 + j)))) ∧ (b = BitVec.ofNat 512
      (natOfBytes ((List.range 64).map fun j => s.opByte u x 2 (0 + j)))) ∧ attnBad d e b = false ∧ s.readableAll
      ((s.rawOperand u x 1 [(tAux d * 32, 32)]).ranges ++ (s.rawOperand u x 2 [(0, 64)]).ranges ++
      [((attnOf e b).pageList / 64 * 64, (attnOf e b).listLen * 8)]) ∧ (attnOf e b).pageList / 64 * 64 + (attnOf e
      b).listLen * 8 ≤ 2 ^ 47) ∧
    (∃ (s : State) (u : TileId) (i : Fin 64) (x : Slot) (d : BitVec 512) (e : BitVec 256) (b : BitVec 512), s.works
      (.tile u) = true ∧ x = s.slot u i ∧ d = x.desc ∧ x.st = .running ∧ tEngine d = 2 ∧ x.attnDone = false ∧
      s.tier.answers = [] ∧ s.spanOp u x 1 (tAux d * 32) 32 = .ok ∧ s.spanOp u x 2 0 64 = .ok ∧ (e = BitVec.ofNat 256
      (natOfBytes ((List.range 32).map fun j => s.opByte u x 1 (tAux d * 32 + j)))) ∧ (b = BitVec.ofNat 512
      (natOfBytes ((List.range 64).map fun j => s.opByte u x 2 (0 + j)))) ∧ attnBad d e b = true ∧ s.readableAll
      ((s.rawOperand u x 1 [(tAux d * 32, 32)]).ranges ++ (s.rawOperand u x 2 [(0, 64)]).ranges) ∧ s.noParks) ∧
    (∃ (s : State) (u : TileId) (i : Fin 64), (s.works (.tile u) = false ∨ (s.slot u i).st ≠ .running ∨ tEngine
      (s.slot u i).desc ≠ 2 ∨ (s.slot u i).attnDone = true)) ∧
    (∃ (s : State) (u : TileId) (run : TileRun) (x : Slot) (d : BitVec 512) (r : Nat) (old : MergeSlot) (n : Node) (m
      : MergeSlot), s.works (.tile u) = true ∧ x = s.slot u run.i ∧ d = x.desc ∧ x.st = .running ∧ tEngine d = 2 ∧
      x.attnDone = true ∧ s.tier.answers = [] ∧ old = Map.get {} (s.part (partOf u)).merge (tProg d) ∧ old.st ≠
      .emitting ∧ tDataflow d = false ∧ (s.queryOp u x).fine = true ∧ (∀ e ∈ s.keyPages x, e.2.2.fine = true) ∧
      s.readableAll ((s.queryOp u x).ranges ++ (s.keyPages x).flatMap fun e => e.2.2.ranges) ∧ ((s.computeNode u x
      (s.queryOp u x).img (s.keyImgs x)).map (·.1)) = some n ∧ (m = if old.st = .free then
      { st := .gathering, desc := d, ssBase := x.ssBase, tile := u.val, nb := x.attn.nb, hs := tHs d, target := tLdB d / 2 ^ tHs d, rowIndex := (List.range (tM d)).map x.attn.rowAt, tok := x.attn.tok }
      else old) ∧ (n.entry == tAux d && n.dim == tN d && n.rows.length == tM d && mergeKey m.desc == mergeKey d &&
      fitsSlot m.hs m.target m.nodes n) = true) ∧
    (∃ (s : State) (u : TileId) (run : TileRun) (x : Slot) (d : BitVec 512) (r : Nat) (old : MergeSlot) (n : Node) (m
      : MergeSlot), s.works (.tile u) = true ∧ x = s.slot u run.i ∧ d = x.desc ∧ x.st = .running ∧ tEngine d = 2 ∧
      x.attnDone = true ∧ s.tier.answers = [] ∧ old = Map.get {} (s.part (partOf u)).merge (tProg d) ∧ old.st ≠
      .emitting ∧ tDataflow d = true ∧ r = x.injected ∧ (s.recordOp u x r).fine = true ∧ s.readableAll (s.recordOp u
      x r).ranges ∧ (n = nodeOf (tN d) (tM d) fun j => (s.recordOp u x r).img (r * (64 + tM d * recordStride (tN d))
      + j)) ∧ (m = if old.st = .free then
      { st := .gathering, desc := d, ssBase := x.ssBase, tile := u.val, nb := x.attn.nb, hs := tHs d, target := tLdB d / 2 ^ tHs d, rowIndex := (List.range (tM d)).map x.attn.rowAt, tok := x.attn.tok }
      else old) ∧ (n.entry == tAux d && n.dim == tN d && n.rows.length == tM d && mergeKey m.desc == mergeKey d &&
      fitsSlot m.hs m.target m.nodes n) = true) ∧
    (∃ (s : State) (u : TileId) (run : TileRun) (x : Slot) (d : BitVec 512) (r : Nat) (old : MergeSlot) (n : Node) (m
      : MergeSlot), s.works (.tile u) = true ∧ x = s.slot u run.i ∧ d = x.desc ∧ x.st = .running ∧ tEngine d = 2 ∧
      x.attnDone = true ∧ s.tier.answers = [] ∧ old = Map.get {} (s.part (partOf u)).merge (tProg d) ∧ old.st ≠
      .emitting ∧ tDataflow d = true ∧ r = x.injected ∧ (s.recordOp u x r).fine = true ∧ s.readableAll (s.recordOp u
      x r).ranges ∧ (n = nodeOf (tN d) (tM d) fun j => (s.recordOp u x r).img (r * (64 + tM d * recordStride (tN d))
      + j)) ∧ (m = if old.st = .free then
      { st := .gathering, desc := d, ssBase := x.ssBase, tile := u.val, nb := x.attn.nb, hs := tHs d, target := tLdB d / 2 ^ tHs d, rowIndex := (List.range (tM d)).map x.attn.rowAt, tok := x.attn.tok }
      else old) ∧ (n.entry == tAux d && n.dim == tN d && n.rows.length == tM d && mergeKey m.desc == mergeKey d &&
      fitsSlot m.hs m.target m.nodes n) = false ∧ s.noParks) ∧
    (∃ (s : State) (u : TileId) (run : TileRun) (x : Slot) (d : BitVec 512) (r : Nat) (old : MergeSlot) (n : Node) (m
      : MergeSlot), s.works (.tile u) = true ∧ x = s.slot u run.i ∧ d = x.desc ∧ x.st = .running ∧ tEngine d = 2 ∧
      x.attnDone = true ∧ s.tier.answers = [] ∧ old = Map.get {} (s.part (partOf u)).merge (tProg d) ∧ old.st ≠
      .emitting ∧ tDataflow d = false ∧ (s.queryOp u x).fine = true ∧ (∀ e ∈ s.keyPages x, e.2.2.fine = true) ∧
      s.readableAll ((s.queryOp u x).ranges ++ (s.keyPages x).flatMap fun e => e.2.2.ranges) ∧ ((s.computeNode u x
      (s.queryOp u x).img (s.keyImgs x)).map (·.1)) = some n ∧ (m = if old.st = .free then
      { st := .gathering, desc := d, ssBase := x.ssBase, tile := u.val, nb := x.attn.nb, hs := tHs d, target := tLdB d / 2 ^ tHs d, rowIndex := (List.range (tM d)).map x.attn.rowAt, tok := x.attn.tok }
      else old) ∧ (n.entry == tAux d && n.dim == tN d && n.rows.length == tM d && mergeKey m.desc == mergeKey d &&
      fitsSlot m.hs m.target m.nodes n) = false ∧ s.noParks) ∧
    (∃ (s : State) (u : TileId) (run : TileRun) (r : Nat), (s.works (.tile u) = false ∨ (s.slot u run.i).st ≠
      .running ∨ tEngine (s.slot u run.i).desc ≠ 2 ∨ (s.slot u run.i).attnDone = false ∨ (Map.get {} (s.part (partOf
      u)).merge (tProg (s.slot u run.i).desc)).st = .emitting ∨ tDataflow (s.slot u run.i).desc = true ∧ r ≠ (s.slot
      u run.i).injected)) ∧
    (∃ (s : State) (p : PartId) (k : Fin 256) (m : MergeSlot) (n : Node) (rows : List (Nat × List Byte)), s.works
      (.disp p) = true ∧ m = Map.get {} (s.part p).merge k.val ∧ m.st = .emitting ∧ m.wrote = false ∧ s.tierIdle ∧
      (m.nodes.find? (fun n => n.level == m.hs) = some n) ∧ (m.root = true → tFmtOut m.desc ≠ 0xB) ∧ rows = m.rows n
      ∧ (((m.dest p k).state = true ∧ ∀ w ∈ rows, (m.dest p k).base + w.1 + w.2.length ≤ 2 ^ 47 ∧ s.writable ((m.dest
      p k).base + w.1) w.2.length = true) ∨ ((m.dest p k).state = false ∧ s.works (.tile (m.dest p k).tile) = true ∧
      ∀ w ∈ rows, (m.dest p k).base + w.1 + w.2.length ≤ sramSize ∧ s.badWord (m.dest p k).tile ((m.dest p k).base +
      w.1) w.2.length = none)) ∧ (∀ e ∈ m.tasks, tEvt (s.slot (Fin.ofNat 256 e.1) (Fin.ofNat 64 e.2)).desc = 0)) ∧
    (∃ (s : State) (p : PartId) (k : Fin 256) (m : MergeSlot), s.works (.disp p) = true ∧ m = Map.get {} (s.part
      p).merge k.val ∧ m.st = .emitting ∧ m.wrote = true ∧ s.tierIdle ∧ (∀ e ∈ m.tasks, tEvt (s.slot (Fin.ofNat 256
      e.1) (Fin.ofNat 64 e.2)).desc = 0)) ∧
    (∃ (s : State) (p : PartId) (k : Fin 256), (s.works (.disp p) = false ∨ (Map.get {} (s.part p).merge k.val).st ≠
      .emitting)) :=
  ⟨⟨{ (st [(Reg.PG_READY_READY.place .tier, 1), (Reg.PG_READY_READY.place (.bas 0), 1), (Reg.BAS_MEM_STAT_ONLINE.place (.bas 0), 1), (Reg.BAS_MEM_FRAMES_FRAMES.place (.bas 0), 786432), (Reg.PG_READY_READY.place (.disp 3), 1), (Reg.PG_READY_READY.place (.tile 25), 1), (Reg.PG_READY_READY.place (.tile 24), 1), (Reg.PG_READY_READY.place .codec, 1), (Reg.PROG_SRC_LO_SRC_LO.place (.tile 25), 5)]) with tier := { pages := [(5, { st := .resident .basin, frame := 0, frameTier := .basin })], dirs := [(0, { valid := true, used := 1, leaf := 257 })], leaves := [(257, true)], frames := [(67108864, true)] } },
     25, 7, by decide +kernel⟩,
   ⟨{ (st [(Reg.PG_READY_READY.place .tier, 1), (Reg.PG_READY_READY.place (.bas 0), 1), (Reg.BAS_MEM_STAT_ONLINE.place (.bas 0), 1), (Reg.BAS_MEM_FRAMES_FRAMES.place (.bas 0), 786432), (Reg.PG_READY_READY.place (.disp 3), 1), (Reg.PG_READY_READY.place (.tile 25), 1), (Reg.PG_READY_READY.place (.tile 24), 1), (Reg.PG_READY_READY.place .codec, 1)]) with tiles := [(25, { slots := [], load := some (3, 64) })], tier := { pages := [(5, { st := .resident .basin, frame := 0, frameTier := .basin })], dirs := [(0, { valid := true, used := 1, leaf := 257 })], leaves := [(257, true)], frames := [(67108864, true)] } },
     25, 7, by decide +kernel⟩,
   ⟨{ (st [(Reg.PG_READY_READY.place .tier, 1), (Reg.PG_READY_READY.place (.bas 0), 1), (Reg.BAS_MEM_STAT_ONLINE.place (.bas 0), 1), (Reg.BAS_MEM_FRAMES_FRAMES.place (.bas 0), 786432), (Reg.PG_READY_READY.place (.disp 3), 1), (Reg.PG_READY_READY.place (.tile 25), 1), (Reg.PG_READY_READY.place (.tile 24), 1), (Reg.PG_READY_READY.place .codec, 1)]) with tiles := [(25, { slots := [(3, { st := .waiting, desc := BitVec.ofNat 512 47634829485251867562414293835869809904506928669338660047520751926045541345527935300294972699114313706704893976024235286998208263295674155017 })], progs := [(7, { codeLen := 16 })] })], tier := { pages := [(5, { st := .resident .basin, frame := 0, frameTier := .basin })], dirs := [(0, { valid := true, used := 1, leaf := 257 })], leaves := [(257, true)], frames := [(67108864, true)] } },
     25, 7, by decide +kernel⟩,
   ⟨{ (st [(Reg.PG_READY_READY.place .tier, 1), (Reg.PG_READY_READY.place (.bas 0), 1), (Reg.BAS_MEM_STAT_ONLINE.place (.bas 0), 1), (Reg.BAS_MEM_FRAMES_FRAMES.place (.bas 0), 786432), (Reg.PG_READY_READY.place (.disp 3), 1), (Reg.PG_READY_READY.place (.tile 25), 1), (Reg.PG_READY_READY.place (.tile 24), 1), (Reg.PG_READY_READY.place .codec, 1)]) with tiles := [(25, { slots := [], load := some (7, 327680) })], tier := { pages := [(5, { st := .resident .basin, frame := 0, frameTier := .basin })], dirs := [(0, { valid := true, used := 1, leaf := 257 })], leaves := [(257, true)], frames := [(67108864, true)] }, mem := (Map.store ([] : Memory) 327680 (bytesOfNat 80 268308695452322560800981779626265498292322521230409214379313824996904526116238159490944603362279528425619447461774048905741351921329197568244462297292876766377507008374072873853098005095271507)) },
     25, 7, 327680, (State.rd
     { (st [(Reg.PG_READY_READY.place .tier, 1), (Reg.PG_READY_READY.place (.bas 0), 1), (Reg.BAS_MEM_STAT_ONLINE.place (.bas 0), 1), (Reg.BAS_MEM_FRAMES_FRAMES.place (.bas 0), 786432), (Reg.PG_READY_READY.place (.disp 3), 1), (Reg.PG_READY_READY.place (.tile 25), 1), (Reg.PG_READY_READY.place (.tile 24), 1), (Reg.PG_READY_READY.place .codec, 1)]) with tiles := [(25, { slots := [], load := some (7, 327680) })], tier := { pages := [(5, { st := .resident .basin, frame := 0, frameTier := .basin })], dirs := [(0, { valid := true, used := 1, leaf := 257 })], leaves := [(257, true)], frames := [(67108864, true)] }, mem := (Map.store ([] : Memory) 327680 (bytesOfNat 80 268308695452322560800981779626265498292322521230409214379313824996904526116238159490944603362279528425619447461774048905741351921329197568244462297292876766377507008374072873853098005095271507)) }
     327680 64), by decide +kernel⟩,
   ⟨{ (st [(Reg.PG_READY_READY.place .tier, 1), (Reg.PG_READY_READY.place (.bas 0), 1), (Reg.BAS_MEM_STAT_ONLINE.place (.bas 0), 1), (Reg.BAS_MEM_FRAMES_FRAMES.place (.bas 0), 786432), (Reg.PG_READY_READY.place (.disp 3), 1), (Reg.PG_READY_READY.place (.tile 25), 1), (Reg.PG_READY_READY.place (.tile 24), 1), (Reg.PG_READY_READY.place .codec, 1)]) with tiles := [(25, { slots := [], load := some (7, 327680), progs := [(7, { codeLen := 16 })] })], tier := { pages := [(5, { st := .resident .basin, frame := 0, frameTier := .basin })], dirs := [(0, { valid := true, used := 1, leaf := 257 })], leaves := [(257, true)], frames := [(67108864, true)] }, mem := (Map.store ([] : Memory) 327680 (bytesOfNat 80 268308695452322560800981779626265498292322521230409214379313824996904526116238159490944603362279528425619447461774048905741351921329197568244462297292876766377507008374072873853098005095271508)) },
     25, 7, 327680, (State.rd
     { (st [(Reg.PG_READY_READY.place .tier, 1), (Reg.PG_READY_READY.place (.bas 0), 1), (Reg.BAS_MEM_STAT_ONLINE.place (.bas 0), 1), (Reg.BAS_MEM_FRAMES_FRAMES.place (.bas 0), 786432), (Reg.PG_READY_READY.place (.disp 3), 1), (Reg.PG_READY_READY.place (.tile 25), 1), (Reg.PG_READY_READY.place (.tile 24), 1), (Reg.PG_READY_READY.place .codec, 1)]) with tiles := [(25, { slots := [], load := some (7, 327680), progs := [(7, { codeLen := 16 })] })], tier := { pages := [(5, { st := .resident .basin, frame := 0, frameTier := .basin })], dirs := [(0, { valid := true, used := 1, leaf := 257 })], leaves := [(257, true)], frames := [(67108864, true)] }, mem := (Map.store ([] : Memory) 327680 (bytesOfNat 80 268308695452322560800981779626265498292322521230409214379313824996904526116238159490944603362279528425619447461774048905741351921329197568244462297292876766377507008374072873853098005095271508)) }
     327680 64), by decide +kernel⟩,
   ⟨{ (st [(Reg.PG_READY_READY.place .tier, 1), (Reg.PG_READY_READY.place (.bas 0), 1), (Reg.BAS_MEM_STAT_ONLINE.place (.bas 0), 1), (Reg.BAS_MEM_FRAMES_FRAMES.place (.bas 0), 786432), (Reg.PG_READY_READY.place (.disp 3), 1), (Reg.PG_READY_READY.place (.tile 25), 1), (Reg.PG_READY_READY.place (.tile 24), 1), (Reg.PG_READY_READY.place .codec, 1)]) with tiles := [(25, { slots := [], load := some (7, 327680), progs := [(7, { codeLen := 16 })] })], tier := { pages := [(5, { st := .resident .basin, frame := 0, frameTier := .basin })], dirs := [(0, { valid := true, used := 1, leaf := 257 })], leaves := [(257, true)], frames := [(67108864, true)] }, mem := (Map.store ([] : Memory) 327680 (bytesOfNat 80 268308695452322560800981779626265498292322521230409214379313824996904526116238159490944603362281664412655368371856443927447521473443800272766818950062823807985329228099853514403120967182208083)) },
     25, 7, 327680, (State.rd
     { (st [(Reg.PG_READY_READY.place .tier, 1), (Reg.PG_READY_READY.place (.bas 0), 1), (Reg.BAS_MEM_STAT_ONLINE.place (.bas 0), 1), (Reg.BAS_MEM_FRAMES_FRAMES.place (.bas 0), 786432), (Reg.PG_READY_READY.place (.disp 3), 1), (Reg.PG_READY_READY.place (.tile 25), 1), (Reg.PG_READY_READY.place (.tile 24), 1), (Reg.PG_READY_READY.place .codec, 1)]) with tiles := [(25, { slots := [], load := some (7, 327680), progs := [(7, { codeLen := 16 })] })], tier := { pages := [(5, { st := .resident .basin, frame := 0, frameTier := .basin })], dirs := [(0, { valid := true, used := 1, leaf := 257 })], leaves := [(257, true)], frames := [(67108864, true)] }, mem := (Map.store ([] : Memory) 327680 (bytesOfNat 80 268308695452322560800981779626265498292322521230409214379313824996904526116238159490944603362281664412655368371856443927447521473443800272766818950062823807985329228099853514403120967182208083)) }
     327680 64), by decide +kernel⟩,
   ⟨{ (st [(Reg.PG_READY_READY.place .tier, 1), (Reg.PG_READY_READY.place (.bas 0), 1), (Reg.BAS_MEM_STAT_ONLINE.place (.bas 0), 1), (Reg.BAS_MEM_FRAMES_FRAMES.place (.bas 0), 786432), (Reg.PG_READY_READY.place (.disp 3), 1), (Reg.PG_READY_READY.place (.tile 25), 1), (Reg.PG_READY_READY.place (.tile 24), 1), (Reg.PG_READY_READY.place .codec, 1)]) with tiles := [(25, { slots := [], load := some (7, 327680), progs := [(7, { codeLen := 16 }), (8, { codeLen := 131000 })] })], tier := { pages := [(5, { st := .resident .basin, frame := 0, frameTier := .basin })], dirs := [(0, { valid := true, used := 1, leaf := 257 })], leaves := [(257, true)], frames := [(67108864, true)] }, mem := (Map.store ([] : Memory) 327680 (bytesOfNat 80 268308695452322560800981779626265498292322521230409214379313824996904526116238159490944603362279528425619447461774048905741351921329197568244462297292876766377507008374072873853098005095271507)) },
     25, 7, 327680, (State.rd
     { (st [(Reg.PG_READY_READY.place .tier, 1), (Reg.PG_READY_READY.place (.bas 0), 1), (Reg.BAS_MEM_STAT_ONLINE.place (.bas 0), 1), (Reg.BAS_MEM_FRAMES_FRAMES.place (.bas 0), 786432), (Reg.PG_READY_READY.place (.disp 3), 1), (Reg.PG_READY_READY.place (.tile 25), 1), (Reg.PG_READY_READY.place (.tile 24), 1), (Reg.PG_READY_READY.place .codec, 1)]) with tiles := [(25, { slots := [], load := some (7, 327680), progs := [(7, { codeLen := 16 }), (8, { codeLen := 131000 })] })], tier := { pages := [(5, { st := .resident .basin, frame := 0, frameTier := .basin })], dirs := [(0, { valid := true, used := 1, leaf := 257 })], leaves := [(257, true)], frames := [(67108864, true)] }, mem := (Map.store ([] : Memory) 327680 (bytesOfNat 80 268308695452322560800981779626265498292322521230409214379313824996904526116238159490944603362279528425619447461774048905741351921329197568244462297292876766377507008374072873853098005095271507)) }
     327680 64), by decide +kernel⟩,
   ⟨{ (st [(Reg.PG_READY_READY.place .tier, 1), (Reg.PG_READY_READY.place (.bas 0), 1), (Reg.BAS_MEM_STAT_ONLINE.place (.bas 0), 1), (Reg.BAS_MEM_FRAMES_FRAMES.place (.bas 0), 786432), (Reg.PG_READY_READY.place (.disp 3), 1), (Reg.PG_READY_READY.place (.tile 25), 1), (Reg.PG_READY_READY.place (.tile 24), 1), (Reg.PG_READY_READY.place .codec, 1)]) with tiles := [(25, { slots := [(3, { st := .waiting, desc := BitVec.ofNat 512 (65536 + 7 * 2 ^ 304 + 5) })], load := some (7, 327680), progs := [] })], tier := { pages := [(5, { st := .resident .basin, frame := 0, frameTier := .basin })], dirs := [(0, { valid := true, used := 1, leaf := 257 })], leaves := [(257, true)], frames := [(67108864, true)] }, mem := (Map.store ([] : Memory) 327680 (bytesOfNat 80 268308695452322560800981779626265498292322521230409214379313824996904526116238159490944603362279528425619447461774048905741351921329197568244462297292876766377507008374072873853098005095271508)) },
     25, 7, 327680, (State.rd
     { (st [(Reg.PG_READY_READY.place .tier, 1), (Reg.PG_READY_READY.place (.bas 0), 1), (Reg.BAS_MEM_STAT_ONLINE.place (.bas 0), 1), (Reg.BAS_MEM_FRAMES_FRAMES.place (.bas 0), 786432), (Reg.PG_READY_READY.place (.disp 3), 1), (Reg.PG_READY_READY.place (.tile 25), 1), (Reg.PG_READY_READY.place (.tile 24), 1), (Reg.PG_READY_READY.place .codec, 1)]) with tiles := [(25, { slots := [(3, { st := .waiting, desc := BitVec.ofNat 512 (65536 + 7 * 2 ^ 304 + 5) })], load := some (7, 327680), progs := [] })], tier := { pages := [(5, { st := .resident .basin, frame := 0, frameTier := .basin })], dirs := [(0, { valid := true, used := 1, leaf := 257 })], leaves := [(257, true)], frames := [(67108864, true)] }, mem := (Map.store ([] : Memory) 327680 (bytesOfNat 80 268308695452322560800981779626265498292322521230409214379313824996904526116238159490944603362279528425619447461774048905741351921329197568244462297292876766377507008374072873853098005095271508)) }
     327680 64), by decide +kernel⟩,
   ⟨{ (st [(Reg.PG_READY_READY.place .tier, 1), (Reg.PG_READY_READY.place (.bas 0), 1), (Reg.BAS_MEM_STAT_ONLINE.place (.bas 0), 1), (Reg.BAS_MEM_FRAMES_FRAMES.place (.bas 0), 786432), (Reg.PG_READY_READY.place (.disp 3), 1), (Reg.PG_READY_READY.place (.tile 25), 1), (Reg.PG_READY_READY.place (.tile 24), 1), (Reg.PG_READY_READY.place .codec, 1)]) with tier := { pages := [(5, { st := .resident .basin, frame := 0, frameTier := .basin })], dirs := [(0, { valid := true, used := 1, leaf := 257 })], leaves := [(257, true)], frames := [(67108864, true)] } },
     25, by decide +kernel⟩,
   ⟨{ (st [(Reg.PG_READY_READY.place .tier, 1), (Reg.PG_READY_READY.place (.bas 0), 1), (Reg.BAS_MEM_STAT_ONLINE.place (.bas 0), 1), (Reg.BAS_MEM_FRAMES_FRAMES.place (.bas 0), 786432), (Reg.PG_READY_READY.place (.disp 3), 1), (Reg.PG_READY_READY.place (.tile 25), 1), (Reg.PG_READY_READY.place (.tile 24), 1), (Reg.PG_READY_READY.place .codec, 1)]) with tiles := [(25, { slots := [(3, { st := .running, desc := BitVec.ofNat 512 22181357552966518876627313473144669627687052057212721938341784238628297318636262005817789753924174905979090725167405723717334073353, reqSlot := 7 })] })], tier := { pages := [(5, { st := .resident .basin, frame := 0, frameTier := .basin })], dirs := [(0, { valid := true, used := 1, leaf := 257 })], leaves := [(257, true)], frames := [(67108864, true)] }, sram := (Map.store (Map.store ([] : Memory) 52429824 (bytesOfNat 32 6277101735386792616010925803364360683550499937841330520064)) 52430848 (bytesOfNat 64 93538959807577201834577222743815412401420533497856)), mem := (Map.store (Map.store ([] : Memory) 328704 (bytesOfNat 8 327680)) 328712 (bytesOfNat 8 327680)) },
     25, 3,
     { st := .running, desc := BitVec.ofNat 512 22181357552966518876627313473144669627687052057212721938341784238628297318636262005817789753924174905979090725167405723717334073353, reqSlot := 7 },
     BitVec.ofNat 512
     22181357552966518876627313473144669627687052057212721938341784238628297318636262005817789753924174905979090725167405723717334073353,
     BitVec.ofNat 256 6277101735386792616010925803364360683550499937841330520064, BitVec.ofNat 512
     93538959807577201834577222743815412401420533497856, by decide +kernel⟩,
   ⟨{ (st [(Reg.PG_READY_READY.place .tier, 1), (Reg.PG_READY_READY.place (.bas 0), 1), (Reg.BAS_MEM_STAT_ONLINE.place (.bas 0), 1), (Reg.BAS_MEM_FRAMES_FRAMES.place (.bas 0), 786432), (Reg.PG_READY_READY.place (.disp 3), 1), (Reg.PG_READY_READY.place (.tile 25), 1), (Reg.PG_READY_READY.place (.tile 24), 1), (Reg.PG_READY_READY.place .codec, 1)]) with tiles := [(25, { slots := [(3, { st := .running, desc := BitVec.ofNat 512 22181357552966518876627313473144669627687052057212721938341784238628297318636262005817789753924174905979090725167405723717334073353, reqSlot := 7 })] })], tier := { pages := [(5, { st := .resident .basin, frame := 0, frameTier := .basin })], dirs := [(0, { valid := true, used := 1, leaf := 257 })], leaves := [(257, true)], frames := [(67108864, true)] }, sram := (Map.store (Map.store ([] : Memory) 52429824 (bytesOfNat 32 6277101735386792616010925803364360683550499937841330520064)) 52430848 (bytesOfNat 64 93538959807577212219170939813470669462413191938048)), mem := (Map.store (Map.store ([] : Memory) 328704 (bytesOfNat 8 327680)) 328712 (bytesOfNat 8 327680)) },
     25, 3,
     { st := .running, desc := BitVec.ofNat 512 22181357552966518876627313473144669627687052057212721938341784238628297318636262005817789753924174905979090725167405723717334073353, reqSlot := 7 },
     BitVec.ofNat 512
     22181357552966518876627313473144669627687052057212721938341784238628297318636262005817789753924174905979090725167405723717334073353,
     BitVec.ofNat 256 6277101735386792616010925803364360683550499937841330520064, BitVec.ofNat 512
     93538959807577212219170939813470669462413191938048, by decide +kernel⟩,
   ⟨{ (st [(Reg.PG_READY_READY.place .tier, 1), (Reg.PG_READY_READY.place (.bas 0), 1), (Reg.BAS_MEM_STAT_ONLINE.place (.bas 0), 1), (Reg.BAS_MEM_FRAMES_FRAMES.place (.bas 0), 786432), (Reg.PG_READY_READY.place (.disp 3), 1), (Reg.PG_READY_READY.place (.tile 25), 1), (Reg.PG_READY_READY.place (.tile 24), 1), (Reg.PG_READY_READY.place .codec, 1)]) with tier := { pages := [(5, { st := .resident .basin, frame := 0, frameTier := .basin })], dirs := [(0, { valid := true, used := 1, leaf := 257 })], leaves := [(257, true)], frames := [(67108864, true)] } },
     25, 1, by decide +kernel⟩,
   ⟨{ (st [(Reg.PG_READY_READY.place .tier, 1), (Reg.PG_READY_READY.place (.bas 0), 1), (Reg.BAS_MEM_STAT_ONLINE.place (.bas 0), 1), (Reg.BAS_MEM_FRAMES_FRAMES.place (.bas 0), 786432), (Reg.PG_READY_READY.place (.disp 3), 1), (Reg.PG_READY_READY.place (.tile 25), 1), (Reg.PG_READY_READY.place (.tile 24), 1), (Reg.PG_READY_READY.place .codec, 1)]) with tiles := [(25, { slots := [(3, { st := .running, desc := BitVec.ofNat 512 22181357552966518876627313473144669627687052057212721938341784238628297318636262005817789753924174905979090725167405723717334073353, attnDone := true, attnEntry := BitVec.ofNat 256 6277101735386792616010925803364360683550499937841330520064, attnBlock := BitVec.ofNat 512 93538959807577201834577222743815412401420533497856, attnPages := [327680, 327680], reqSlot := 7 })] })], tier := { pages := [(5, { st := .resident .basin, frame := 0, frameTier := .basin })], dirs := [(0, { valid := true, used := 1, leaf := 257 })], leaves := [(257, true)], frames := [(67108864, true)] }, sram := [] },
     25, { i := 3, stallB := 3 },
     { st := .running, desc := BitVec.ofNat 512 22181357552966518876627313473144669627687052057212721938341784238628297318636262005817789753924174905979090725167405723717334073353, attnDone := true, attnEntry := BitVec.ofNat 256 6277101735386792616010925803364360683550499937841330520064, attnBlock := BitVec.ofNat 512 93538959807577201834577222743815412401420533497856, attnPages := [327680, 327680], reqSlot := 7 },
     BitVec.ofNat 512
     22181357552966518876627313473144669627687052057212721938341784238628297318636262005817789753924174905979090725167405723717334073353,
     0, {},
     { entry := 0, level := 0, j := 0, dim := 64, computed := 0, skipped := 1, partialBlocks := 0, rows := [maskedRow 64] },
     (let x : Slot :=
     { st := .running, desc := BitVec.ofNat 512 22181357552966518876627313473144669627687052057212721938341784238628297318636262005817789753924174905979090725167405723717334073353, attnDone := true, attnEntry := BitVec.ofNat 256 6277101735386792616010925803364360683550499937841330520064, attnBlock := BitVec.ofNat 512 93538959807577201834577222743815412401420533497856, attnPages := [327680, 327680], reqSlot := 7 };
     let d : BitVec 512 := (BitVec.ofNat 512
     22181357552966518876627313473144669627687052057212721938341784238628297318636262005817789753924174905979090725167405723717334073353);
     let u : TileId := 25;
     ({ st := .gathering, desc := d, ssBase := x.ssBase, tile := u.val, nb := x.attn.nb, hs := tHs d, target := tLdB d / 2 ^ tHs d, rowIndex := (List.range (tM d)).map x.attn.rowAt, tok := (Slot.attn ({ st := .running, desc := BitVec.ofNat 512 22181357552966518876627313473144669627687052057212721938341784238628297318636262005817789753924174905979090725167405723717334073353, attnDone := true, attnEntry := BitVec.ofNat 256 6277101735386792616010925803364360683550499937841330520064, attnBlock := BitVec.ofNat 512 93538959807577201834577222743815412401420533497856, attnPages := [327680, 327680], reqSlot := 7 })).tok }
     : MergeSlot)), by decide +kernel⟩,
   ⟨{ (st [(Reg.PG_READY_READY.place .tier, 1), (Reg.PG_READY_READY.place (.bas 0), 1), (Reg.BAS_MEM_STAT_ONLINE.place (.bas 0), 1), (Reg.BAS_MEM_FRAMES_FRAMES.place (.bas 0), 786432), (Reg.PG_READY_READY.place (.disp 3), 1), (Reg.PG_READY_READY.place (.tile 25), 1), (Reg.PG_READY_READY.place (.tile 24), 1), (Reg.PG_READY_READY.place .codec, 1)]) with tiles := [(25, { slots := [(3, { st := .running, desc := BitVec.ofNat 512 22181357552966518876627313473144669627687052057212721938341784238628297318636262005817789753924174905979090725167405723709281009673, attnDone := true, attnEntry := BitVec.ofNat 256 6277101735386792616010925803364360683550499937841330520064, attnBlock := BitVec.ofNat 512 93538959807577201834577222743815412401420533497856, attnPages := [327680, 327680], reqSlot := 7 })] })], tier := { pages := [(5, { st := .resident .basin, frame := 0, frameTier := .basin })], dirs := [(0, { valid := true, used := 1, leaf := 257 })], leaves := [(257, true)], frames := [(67108864, true)] }, sram := (Map.store ([] : Memory) 52428800 (bytesOfNat 384 57473623725289333790404629435688418247060380686306984987862152440116225093078257543325744764977205700090239633343229435198985939141306599467053679718195316840726528)) },
     25, { i := 3, stallB := 3 },
     { st := .running, desc := BitVec.ofNat 512 22181357552966518876627313473144669627687052057212721938341784238628297318636262005817789753924174905979090725167405723709281009673, attnDone := true, attnEntry := BitVec.ofNat 256 6277101735386792616010925803364360683550499937841330520064, attnBlock := BitVec.ofNat 512 93538959807577201834577222743815412401420533497856, attnPages := [327680, 327680], reqSlot := 7 },
     BitVec.ofNat 512
     22181357552966518876627313473144669627687052057212721938341784238628297318636262005817789753924174905979090725167405723709281009673,
     0, {},
     { entry := 0, level := 0, j := 0, dim := 64, computed := 0, skipped := 1, partialBlocks := 0, rows := [maskedRow 64] },
     (let x : Slot :=
     { st := .running, desc := BitVec.ofNat 512 22181357552966518876627313473144669627687052057212721938341784238628297318636262005817789753924174905979090725167405723709281009673, attnDone := true, attnEntry := BitVec.ofNat 256 6277101735386792616010925803364360683550499937841330520064, attnBlock := BitVec.ofNat 512 93538959807577201834577222743815412401420533497856, attnPages := [327680, 327680], reqSlot := 7 };
     let d : BitVec 512 := (BitVec.ofNat 512
     22181357552966518876627313473144669627687052057212721938341784238628297318636262005817789753924174905979090725167405723709281009673);
     let u : TileId := 25;
     ({ st := .gathering, desc := d, ssBase := x.ssBase, tile := u.val, nb := x.attn.nb, hs := tHs d, target := tLdB d / 2 ^ tHs d, rowIndex := (List.range (tM d)).map x.attn.rowAt, tok := (Slot.attn ({ st := .running, desc := BitVec.ofNat 512 22181357552966518876627313473144669627687052057212721938341784238628297318636262005817789753924174905979090725167405723709281009673, attnDone := true, attnEntry := BitVec.ofNat 256 6277101735386792616010925803364360683550499937841330520064, attnBlock := BitVec.ofNat 512 93538959807577201834577222743815412401420533497856, attnPages := [327680, 327680], reqSlot := 7 })).tok }
     : MergeSlot)), by decide +kernel⟩,
   ⟨{ (st [(Reg.PG_READY_READY.place .tier, 1), (Reg.PG_READY_READY.place (.bas 0), 1), (Reg.BAS_MEM_STAT_ONLINE.place (.bas 0), 1), (Reg.BAS_MEM_FRAMES_FRAMES.place (.bas 0), 786432), (Reg.PG_READY_READY.place (.disp 3), 1), (Reg.PG_READY_READY.place (.tile 25), 1), (Reg.PG_READY_READY.place (.tile 24), 1), (Reg.PG_READY_READY.place .codec, 1)]) with tiles := [(25, { slots := [(3, { st := .running, desc := BitVec.ofNat 512 22181357552966518876627313473144669627687052057212721938341784238628297318636262005817789753924174905979090725167405723709281009673, attnDone := true, attnEntry := BitVec.ofNat 256 6277101735386792616010925803364360683550499937841330520064, attnBlock := BitVec.ofNat 512 93538959807577201834577222743815412401420533497856, attnPages := [327680, 327680], reqSlot := 7 })] })], tier := { pages := [(5, { st := .resident .basin, frame := 0, frameTier := .basin })], dirs := [(0, { valid := true, used := 1, leaf := 257 })], leaves := [(257, true)], frames := [(67108864, true)] }, sram := (Map.store ([] : Memory) 52428800 (bytesOfNat 384 57473623725289333790404629435688418247060380686306984987862152440116225093078257543325744764977205700090239633343229435198985939141306599467053679718195316840726532)) },
     25, { i := 3, stallB := 3 },
     { st := .running, desc := BitVec.ofNat 512 22181357552966518876627313473144669627687052057212721938341784238628297318636262005817789753924174905979090725167405723709281009673, attnDone := true, attnEntry := BitVec.ofNat 256 6277101735386792616010925803364360683550499937841330520064, attnBlock := BitVec.ofNat 512 93538959807577201834577222743815412401420533497856, attnPages := [327680, 327680], reqSlot := 7 },
     BitVec.ofNat 512
     22181357552966518876627313473144669627687052057212721938341784238628297318636262005817789753924174905979090725167405723709281009673,
     0, {},
     { entry := 4, level := 0, j := 0, dim := 64, computed := 0, skipped := 1, partialBlocks := 0, rows := [maskedRow 64] },
     (let x : Slot :=
     { st := .running, desc := BitVec.ofNat 512 22181357552966518876627313473144669627687052057212721938341784238628297318636262005817789753924174905979090725167405723709281009673, attnDone := true, attnEntry := BitVec.ofNat 256 6277101735386792616010925803364360683550499937841330520064, attnBlock := BitVec.ofNat 512 93538959807577201834577222743815412401420533497856, attnPages := [327680, 327680], reqSlot := 7 };
     let d : BitVec 512 := (BitVec.ofNat 512
     22181357552966518876627313473144669627687052057212721938341784238628297318636262005817789753924174905979090725167405723709281009673);
     let u : TileId := 25;
     ({ st := .gathering, desc := d, ssBase := x.ssBase, tile := u.val, nb := x.attn.nb, hs := tHs d, target := tLdB d / 2 ^ tHs d, rowIndex := (List.range (tM d)).map x.attn.rowAt, tok := (Slot.attn ({ st := .running, desc := BitVec.ofNat 512 22181357552966518876627313473144669627687052057212721938341784238628297318636262005817789753924174905979090725167405723709281009673, attnDone := true, attnEntry := BitVec.ofNat 256 6277101735386792616010925803364360683550499937841330520064, attnBlock := BitVec.ofNat 512 93538959807577201834577222743815412401420533497856, attnPages := [327680, 327680], reqSlot := 7 })).tok }
     : MergeSlot)), by decide +kernel⟩,
   ⟨{ (st [(Reg.PG_READY_READY.place .tier, 1), (Reg.PG_READY_READY.place (.bas 0), 1), (Reg.BAS_MEM_STAT_ONLINE.place (.bas 0), 1), (Reg.BAS_MEM_FRAMES_FRAMES.place (.bas 0), 786432), (Reg.PG_READY_READY.place (.disp 3), 1), (Reg.PG_READY_READY.place (.tile 25), 1), (Reg.PG_READY_READY.place (.tile 24), 1), (Reg.PG_READY_READY.place .codec, 1)]) with tiles := [(25, { slots := [(3, { st := .running, desc := BitVec.ofNat 512 22181357552966518876627313473144669627687052057212721938341784238628297318636262005817789753924174905979090725167405723717334073353, attnDone := true, attnEntry := BitVec.ofNat 256 6277101735386792616010925803364360683550499937841330520064, attnBlock := BitVec.ofNat 512 93538959807577201834577222743815412401420533497856, attnPages := [327680, 327680], reqSlot := 7 })] })], tier := { pages := [(5, { st := .resident .basin, frame := 0, frameTier := .basin })], dirs := [(0, { valid := true, used := 1, leaf := 257 })], leaves := [(257, true)], frames := [(67108864, true)] }, parts := [(3, { merge := [(6, { st := .gathering, target := 5, tasks := [(25, 3), (24, 1)] })] })], sram := [] },
     25, { i := 3, stallB := 3 },
     { st := .running, desc := BitVec.ofNat 512 22181357552966518876627313473144669627687052057212721938341784238628297318636262005817789753924174905979090725167405723717334073353, attnDone := true, attnEntry := BitVec.ofNat 256 6277101735386792616010925803364360683550499937841330520064, attnBlock := BitVec.ofNat 512 93538959807577201834577222743815412401420533497856, attnPages := [327680, 327680], reqSlot := 7 },
     BitVec.ofNat 512
     22181357552966518876627313473144669627687052057212721938341784238628297318636262005817789753924174905979090725167405723717334073353,
     0, { st := .gathering, target := 5, tasks := [(25, 3), (24, 1)] },
     { entry := 0, level := 0, j := 0, dim := 64, computed := 0, skipped := 1, partialBlocks := 0, rows := [maskedRow 64] },
     { st := .gathering, target := 5, tasks := [(25, 3), (24, 1)] }, by decide +kernel⟩,
   ⟨{ (st [(Reg.PG_READY_READY.place .tier, 1), (Reg.PG_READY_READY.place (.bas 0), 1), (Reg.BAS_MEM_STAT_ONLINE.place (.bas 0), 1), (Reg.BAS_MEM_FRAMES_FRAMES.place (.bas 0), 786432), (Reg.PG_READY_READY.place (.disp 3), 1), (Reg.PG_READY_READY.place (.tile 25), 1), (Reg.PG_READY_READY.place (.tile 24), 1), (Reg.PG_READY_READY.place .codec, 1)]) with tier := { pages := [(5, { st := .resident .basin, frame := 0, frameTier := .basin })], dirs := [(0, { valid := true, used := 1, leaf := 257 })], leaves := [(257, true)], frames := [(67108864, true)] } },
     25, { i := 1 }, 0, by decide +kernel⟩,
   ⟨{ (st [(Reg.PG_READY_READY.place .tier, 1), (Reg.PG_READY_READY.place (.bas 0), 1), (Reg.BAS_MEM_STAT_ONLINE.place (.bas 0), 1), (Reg.BAS_MEM_FRAMES_FRAMES.place (.bas 0), 786432), (Reg.PG_READY_READY.place (.disp 3), 1), (Reg.PG_READY_READY.place (.tile 25), 1), (Reg.PG_READY_READY.place (.tile 24), 1), (Reg.PG_READY_READY.place .codec, 1)]) with tiles := [(25, { slots := [(3, { st := .merging, desc := BitVec.ofNat 512 22181357552966518876627313473144669627687052057212721938341784238628297318636262005817789753924174905979090725167405723717334073353 })] })], parts := [(3, { merge := [(6, { st := .emitting, desc := BitVec.ofNat 512 22181357552966518876627313473144669627687052057212721938341784238628297318636262005817789753924174905979090725167405723717334073353, tile := 25, nb := 1, hs := 0, target := 0, rowIndex := [0], nodes := [{ entry := 0, level := 0, j := 0, dim := 64, computed := 0, skipped := 1, partialBlocks := 0, rows := [maskedRow 64] }], tasks := [(25, 3)] })] })], tier := { pages := [(5, { st := .resident .basin, frame := 0, frameTier := .basin })], dirs := [(0, { valid := true, used := 1, leaf := 257 })], leaves := [(257, true)], frames := [(67108864, true)] } },
     3, 6,
     { st := .emitting, desc := BitVec.ofNat 512 22181357552966518876627313473144669627687052057212721938341784238628297318636262005817789753924174905979090725167405723717334073353, tile := 25, nb := 1, hs := 0, target := 0, rowIndex := [0], nodes := [{ entry := 0, level := 0, j := 0, dim := 64, computed := 0, skipped := 1, partialBlocks := 0, rows := [maskedRow 64] }], tasks := [(25, 3)] },
     { entry := 0, level := 0, j := 0, dim := 64, computed := 0, skipped := 1, partialBlocks := 0, rows := [maskedRow 64] },
     (MergeSlot.rows
     ({ st := .emitting, desc := BitVec.ofNat 512 22181357552966518876627313473144669627687052057212721938341784238628297318636262005817789753924174905979090725167405723717334073353, tile := 25, nb := 1, hs := 0, target := 0, rowIndex := [0], nodes := [{ entry := 0, level := 0, j := 0, dim := 64, computed := 0, skipped := 1, partialBlocks := 0, rows := [maskedRow 64] }], tasks := [(25, 3)] })
     ({ entry := 0, level := 0, j := 0, dim := 64, computed := 0, skipped := 1, partialBlocks := 0, rows := [maskedRow 64] })),
     by decide +kernel⟩,
   ⟨{ (st [(Reg.PG_READY_READY.place .tier, 1), (Reg.PG_READY_READY.place (.bas 0), 1), (Reg.BAS_MEM_STAT_ONLINE.place (.bas 0), 1), (Reg.BAS_MEM_FRAMES_FRAMES.place (.bas 0), 786432), (Reg.PG_READY_READY.place (.disp 3), 1), (Reg.PG_READY_READY.place (.tile 25), 1), (Reg.PG_READY_READY.place (.tile 24), 1), (Reg.PG_READY_READY.place .codec, 1)]) with tiles := [(25, { slots := [(3, { st := .merging, desc := BitVec.ofNat 512 22181357552966518876627313473144669627687052057212721938341784238628297318636262005817789753924174905979090725167405723717334073353 })] })], parts := [(3, { merge := [(6, { st := .emitting, wrote := true, desc := BitVec.ofNat 512 22181357552966518876627313473144669627687052057212721938341784238628297318636262005817789753924174905979090725167405723717334073353, tile := 25, nb := 1, hs := 0, target := 0, rowIndex := [0], nodes := [{ entry := 0, level := 0, j := 0, dim := 64, computed := 0, skipped := 1, partialBlocks := 0, rows := [maskedRow 64] }], tasks := [(25, 3)] })] })], tier := { pages := [(5, { st := .resident .basin, frame := 0, frameTier := .basin })], dirs := [(0, { valid := true, used := 1, leaf := 257 })], leaves := [(257, true)], frames := [(67108864, true)] } },
     3, 6,
     { st := .emitting, wrote := true, desc := BitVec.ofNat 512 22181357552966518876627313473144669627687052057212721938341784238628297318636262005817789753924174905979090725167405723717334073353, tile := 25, nb := 1, hs := 0, target := 0, rowIndex := [0], nodes := [{ entry := 0, level := 0, j := 0, dim := 64, computed := 0, skipped := 1, partialBlocks := 0, rows := [maskedRow 64] }], tasks := [(25, 3)] },
     by decide +kernel⟩,
   ⟨{ (st [(Reg.PG_READY_READY.place .tier, 1), (Reg.PG_READY_READY.place (.bas 0), 1), (Reg.BAS_MEM_STAT_ONLINE.place (.bas 0), 1), (Reg.BAS_MEM_FRAMES_FRAMES.place (.bas 0), 786432), (Reg.PG_READY_READY.place (.disp 3), 1), (Reg.PG_READY_READY.place (.tile 25), 1), (Reg.PG_READY_READY.place (.tile 24), 1), (Reg.PG_READY_READY.place .codec, 1)]) with tier := { pages := [(5, { st := .resident .basin, frame := 0, frameTier := .basin })], dirs := [(0, { valid := true, used := 1, leaf := 257 })], leaves := [(257, true)], frames := [(67108864, true)] } },
     3, 6, by decide +kernel⟩⟩

/-- The hypotheses of ResetsRestartTheDevice can be met, clause by clause. -/
theorem wit_ResetsRestartTheDevice :
    (∃ (s : State), s.rst.pwrGood = true ∧ s.ledger.writing = []) ∧
    (∃ (s : State), s.rst.pwrGood = false) ∧
    (∃ (s : State), s.rst.pwrGood = true ∧ s.ledger.writing ≠ []) ∧
    (∃ (s : State), s.rst.resetLow = false ∧ s.ledger.writing = [] ∧ (∀ m ∈ s.tier.migs, m.kind = .localMove)) ∧
    (∃ (s : State), s.rst.resetLow = false ∧ s.ledger.writing = []) ∧
    (∃ (s : State), s.rst.resetLow = false ∧ s.ledger.writing ≠ []) ∧
    (∃ (s : State), s.rst.resetLow = true) ∧
    (∃ (s : State), s.rst.perstLow = false ∧ s.flag .rstc Reg.RSTC_CTRL_PERST_SCOPE = false ∧ s.ledger.writing = [] ∧
      (∀ m ∈ s.tier.migs, m.kind = .localMove)) ∧
    (∃ (s : State), s.rst.perstLow = false ∧ s.flag .rstc Reg.RSTC_CTRL_PERST_SCOPE = false ∧ s.ledger.writing = []) ∧
    (∃ (s : State), s.rst.perstLow = false ∧ s.flag .rstc Reg.RSTC_CTRL_PERST_SCOPE = true) ∧
    (∃ (s : State), s.rst.perstLow = true) ∧
    (∃ (s : State) (key : Byte), s.ready .rstc = true ∧ key = 0xD5 ∧ s.ledger.writing = [] ∧ (∀ m ∈ s.tier.migs,
      m.kind = .localMove)) ∧
    (∃ (s : State) (key : Byte), s.ready .rstc = true ∧ key = 0xD5 ∧ s.ledger.writing = []) ∧
    (∃ (s : State) (key : Byte), s.ready .rstc = true ∧ key = 0xD5 ∧ s.ledger.writing ≠ []) ∧
    (∃ (s : State) (key : Byte), s.ready .rstc = true ∧ key ≠ 0xD5) ∧
    (∃ (s : State) (key : Byte), s.ready .rstc = false) ∧
    (∃ (s : State) (temp : Int) (sensor : Fin 256), 920 ≤ temp ∧ s.rst.thermHeld = false ∧ s.ledger.writing = [] ∧ (∀
      m ∈ s.tier.migs, m.kind = .localMove)) ∧
    (∃ (s : State) (temp : Int) (sensor : Fin 256), 920 ≤ temp ∧ s.rst.thermHeld = false ∧ s.ledger.writing = []) ∧
    (∃ (s : State) (temp : Int) (sensor : Fin 256), (temp < 920 ∨ s.rst.thermHeld = true)) ∧
    (∃ (s : State) (temp : Int) (sensor : Fin 256), 920 ≤ temp ∧ s.rst.thermHeld = false ∧ s.ledger.writing ≠ []) ∧
    (∃ (s : State) (l : Pll), (l = .mclk ∨ l = .kclk) ∧ l ∉ s.rst.lost ∧ s.ledger.writing = [] ∧ (∀ m ∈ s.tier.migs,
      m.kind = .localMove)) ∧
    (∃ (s : State) (l : Pll), (l = .mclk ∨ l = .kclk) ∧ l ∉ s.rst.lost ∧ s.ledger.writing = []) ∧
    (∃ (s : State) (l : Pll), l ≠ .mclk ∧ l ≠ .kclk ∧ l ∉ s.rst.lost) ∧
    (∃ (s : State) (l : Pll), l ∈ s.rst.lost) :=
  ⟨⟨{ (st [(Reg.PG_READY_READY.place .rstc, 1), (Reg.PG_READY_READY.place .time, 1), (Reg.PG_READY_READY.place (.tile 25), 1), (Reg.PG_READY_READY.place (.disp 3), 1), (Reg.PG_READY_READY.place (.feng 6), 1), (Reg.QRM_FENCE_DP_MASK.place .qrm, 4), (Reg.WLH_IMG_CTRL_RECOVERY_NEXT.place .wlh, 1), (Reg.TIER_CMD_ADDR_LO_ADDR_LO.place .tier, 1)]) with mem := [(5, 6)], rst := { pwrGood := true, straps := 5 } },
     by decide +kernel⟩,
   ⟨State.reset, by decide +kernel⟩,
   ⟨{ (st [(Reg.PG_READY_READY.place .rstc, 1), (Reg.PG_READY_READY.place .time, 1), (Reg.PG_READY_READY.place (.tile 25), 1), (Reg.PG_READY_READY.place (.disp 3), 1), (Reg.PG_READY_READY.place (.feng 6), 1), (Reg.QRM_FENCE_DP_MASK.place .qrm, 4), (Reg.WLH_IMG_CTRL_RECOVERY_NEXT.place .wlh, 1), (Reg.TIER_CMD_ADDR_LO_ADDR_LO.place .tier, 1)]) with ledger := { writing := [5] }, rst := { pwrGood := true, straps := 5 } },
     by decide +kernel⟩,
   ⟨{ (st [(Reg.PG_READY_READY.place .rstc, 1), (Reg.PG_READY_READY.place .time, 1), (Reg.PG_READY_READY.place (.tile 25), 1), (Reg.PG_READY_READY.place (.disp 3), 1), (Reg.PG_READY_READY.place (.feng 6), 1), (Reg.QRM_FENCE_DP_MASK.place .qrm, 4), (Reg.WLH_IMG_CTRL_RECOVERY_NEXT.place .wlh, 1), (Reg.TIER_CMD_ADDR_LO_ADDR_LO.place .tier, 1)]) with mem := [(5, 6)], now := 77, rst := { pwrGood := true, straps := 5 } },
     by decide +kernel⟩,
   ⟨{ (st [(Reg.PG_READY_READY.place .rstc, 1), (Reg.PG_READY_READY.place .time, 1), (Reg.PG_READY_READY.place (.tile 25), 1), (Reg.PG_READY_READY.place (.disp 3), 1), (Reg.PG_READY_READY.place (.feng 6), 1), (Reg.QRM_FENCE_DP_MASK.place .qrm, 4), (Reg.WLH_IMG_CTRL_RECOVERY_NEXT.place .wlh, 1), (Reg.TIER_CMD_ADDR_LO_ADDR_LO.place .tier, 1)]) with tier := { migs := [{ page := 3, prev := {}, kind := .localMove, dstTier := .deep, dstFrame := 1, dstSide := 0, start := 0, bytes := 0, staged := [], later := [] }] }, rst := { pwrGood := true, straps := 5 } },
     by decide +kernel⟩,
   ⟨{ (st [(Reg.PG_READY_READY.place .rstc, 1), (Reg.PG_READY_READY.place .time, 1), (Reg.PG_READY_READY.place (.tile 25), 1), (Reg.PG_READY_READY.place (.disp 3), 1), (Reg.PG_READY_READY.place (.feng 6), 1), (Reg.QRM_FENCE_DP_MASK.place .qrm, 4), (Reg.WLH_IMG_CTRL_RECOVERY_NEXT.place .wlh, 1), (Reg.TIER_CMD_ADDR_LO_ADDR_LO.place .tier, 1)]) with ledger := { writing := [5] }, rst := { pwrGood := true, waiting := some 6 } },
     by decide +kernel⟩,
   ⟨{ (st [(Reg.PG_READY_READY.place .rstc, 1), (Reg.PG_READY_READY.place .time, 1), (Reg.PG_READY_READY.place (.tile 25), 1), (Reg.PG_READY_READY.place (.disp 3), 1), (Reg.PG_READY_READY.place (.feng 6), 1), (Reg.QRM_FENCE_DP_MASK.place .qrm, 4), (Reg.WLH_IMG_CTRL_RECOVERY_NEXT.place .wlh, 1), (Reg.TIER_CMD_ADDR_LO_ADDR_LO.place .tier, 1)]) with rst := { resetLow := true } },
     by decide +kernel⟩,
   ⟨{ (st [(Reg.PG_READY_READY.place .rstc, 1), (Reg.PG_READY_READY.place .time, 1), (Reg.PG_READY_READY.place (.tile 25), 1), (Reg.PG_READY_READY.place (.disp 3), 1), (Reg.PG_READY_READY.place (.feng 6), 1), (Reg.QRM_FENCE_DP_MASK.place .qrm, 4), (Reg.WLH_IMG_CTRL_RECOVERY_NEXT.place .wlh, 1), (Reg.TIER_CMD_ADDR_LO_ADDR_LO.place .tier, 1)]) with mem := [(5, 6)], now := 77, rst := { pwrGood := true, straps := 5 } },
     by decide +kernel⟩,
   ⟨{ (st [(Reg.PG_READY_READY.place .rstc, 1), (Reg.PG_READY_READY.place .time, 1), (Reg.PG_READY_READY.place (.tile 25), 1), (Reg.PG_READY_READY.place (.disp 3), 1), (Reg.PG_READY_READY.place (.feng 6), 1), (Reg.QRM_FENCE_DP_MASK.place .qrm, 4), (Reg.WLH_IMG_CTRL_RECOVERY_NEXT.place .wlh, 1), (Reg.TIER_CMD_ADDR_LO_ADDR_LO.place .tier, 1)]) with tier := { migs := [{ page := 3, prev := {}, kind := .localMove, dstTier := .deep, dstFrame := 1, dstSide := 0, start := 0, bytes := 0, staged := [], later := [] }] }, rst := { pwrGood := true, straps := 5 } },
     by decide +kernel⟩,
   ⟨{ (st [(Reg.PG_READY_READY.place .rstc, 1), (Reg.PG_READY_READY.place .time, 1), (Reg.PG_READY_READY.place (.tile 25), 1), (Reg.PG_READY_READY.place (.disp 3), 1), (Reg.PG_READY_READY.place (.feng 6), 1), (Reg.QRM_FENCE_DP_MASK.place .qrm, 4), (Reg.WLH_IMG_CTRL_RECOVERY_NEXT.place .wlh, 1), (Reg.TIER_CMD_ADDR_LO_ADDR_LO.place .tier, 1), (Reg.RSTC_CTRL_PERST_SCOPE.place .rstc, 1), (Reg.PCIE_SRIOV_NUM_VF.place .pcie, 3)]) with tenants := [(2, { en := true })], rst := { pwrGood := true, straps := 5 } },
     by decide +kernel⟩,
   ⟨{ (st [(Reg.PG_READY_READY.place .rstc, 1), (Reg.PG_READY_READY.place .time, 1), (Reg.PG_READY_READY.place (.tile 25), 1), (Reg.PG_READY_READY.place (.disp 3), 1), (Reg.PG_READY_READY.place (.feng 6), 1), (Reg.QRM_FENCE_DP_MASK.place .qrm, 4), (Reg.WLH_IMG_CTRL_RECOVERY_NEXT.place .wlh, 1), (Reg.TIER_CMD_ADDR_LO_ADDR_LO.place .tier, 1)]) with rst := { perstLow := true } },
     by decide +kernel⟩,
   ⟨{ (st [(Reg.PG_READY_READY.place .rstc, 1), (Reg.PG_READY_READY.place .time, 1), (Reg.PG_READY_READY.place (.tile 25), 1), (Reg.PG_READY_READY.place (.disp 3), 1), (Reg.PG_READY_READY.place (.feng 6), 1), (Reg.QRM_FENCE_DP_MASK.place .qrm, 4), (Reg.WLH_IMG_CTRL_RECOVERY_NEXT.place .wlh, 1), (Reg.TIER_CMD_ADDR_LO_ADDR_LO.place .tier, 1)]) with mem := [(5, 6)], now := 77, rst := { pwrGood := true, straps := 5 } },
     0xD5, by decide +kernel⟩,
   ⟨{ (st [(Reg.PG_READY_READY.place .rstc, 1), (Reg.PG_READY_READY.place .time, 1), (Reg.PG_READY_READY.place (.tile 25), 1), (Reg.PG_READY_READY.place (.disp 3), 1), (Reg.PG_READY_READY.place (.feng 6), 1), (Reg.QRM_FENCE_DP_MASK.place .qrm, 4), (Reg.WLH_IMG_CTRL_RECOVERY_NEXT.place .wlh, 1), (Reg.TIER_CMD_ADDR_LO_ADDR_LO.place .tier, 1)]) with tier := { migs := [{ page := 3, prev := {}, kind := .localMove, dstTier := .deep, dstFrame := 1, dstSide := 0, start := 0, bytes := 0, staged := [], later := [] }] }, rst := { pwrGood := true, straps := 5 } },
     0xD5, by decide +kernel⟩,
   ⟨{ (st [(Reg.PG_READY_READY.place .rstc, 1), (Reg.PG_READY_READY.place .time, 1), (Reg.PG_READY_READY.place (.tile 25), 1), (Reg.PG_READY_READY.place (.disp 3), 1), (Reg.PG_READY_READY.place (.feng 6), 1), (Reg.QRM_FENCE_DP_MASK.place .qrm, 4), (Reg.WLH_IMG_CTRL_RECOVERY_NEXT.place .wlh, 1), (Reg.TIER_CMD_ADDR_LO_ADDR_LO.place .tier, 1)]) with ledger := { writing := [5] }, rst := { pwrGood := true, straps := 5 } },
     0xD5, by decide +kernel⟩,
   ⟨{ (st [(Reg.PG_READY_READY.place .rstc, 1), (Reg.PG_READY_READY.place .time, 1), (Reg.PG_READY_READY.place (.tile 25), 1), (Reg.PG_READY_READY.place (.disp 3), 1), (Reg.PG_READY_READY.place (.feng 6), 1), (Reg.QRM_FENCE_DP_MASK.place .qrm, 4), (Reg.WLH_IMG_CTRL_RECOVERY_NEXT.place .wlh, 1), (Reg.TIER_CMD_ADDR_LO_ADDR_LO.place .tier, 1)]) with rst := { pwrGood := true, straps := 5 } },
     0xD4, by decide +kernel⟩,
   ⟨State.reset, 0xD5, by decide +kernel⟩,
   ⟨{ (st [(Reg.PG_READY_READY.place .rstc, 1), (Reg.PG_READY_READY.place .time, 1), (Reg.PG_READY_READY.place (.tile 25), 1), (Reg.PG_READY_READY.place (.disp 3), 1), (Reg.PG_READY_READY.place (.feng 6), 1), (Reg.QRM_FENCE_DP_MASK.place .qrm, 4), (Reg.WLH_IMG_CTRL_RECOVERY_NEXT.place .wlh, 1), (Reg.TIER_CMD_ADDR_LO_ADDR_LO.place .tier, 1)]) with mem := [(5, 6)], now := 77, rst := { pwrGood := true, straps := 5 } },
     920, 3, by decide +kernel⟩,
   ⟨{ (st [(Reg.PG_READY_READY.place .rstc, 1), (Reg.PG_READY_READY.place .time, 1), (Reg.PG_READY_READY.place (.tile 25), 1), (Reg.PG_READY_READY.place (.disp 3), 1), (Reg.PG_READY_READY.place (.feng 6), 1), (Reg.QRM_FENCE_DP_MASK.place .qrm, 4), (Reg.WLH_IMG_CTRL_RECOVERY_NEXT.place .wlh, 1), (Reg.TIER_CMD_ADDR_LO_ADDR_LO.place .tier, 1)]) with tier := { migs := [{ page := 3, prev := {}, kind := .localMove, dstTier := .deep, dstFrame := 1, dstSide := 0, start := 0, bytes := 0, staged := [], later := [] }] }, rst := { pwrGood := true, straps := 5 } },
     920, 3, by decide +kernel⟩,
   ⟨{ (st [(Reg.PG_READY_READY.place .rstc, 1), (Reg.PG_READY_READY.place .time, 1), (Reg.PG_READY_READY.place (.tile 25), 1), (Reg.PG_READY_READY.place (.disp 3), 1), (Reg.PG_READY_READY.place (.feng 6), 1), (Reg.QRM_FENCE_DP_MASK.place .qrm, 4), (Reg.WLH_IMG_CTRL_RECOVERY_NEXT.place .wlh, 1), (Reg.TIER_CMD_ADDR_LO_ADDR_LO.place .tier, 1)]) with rst := { pwrGood := true, straps := 5 } },
     919, 3, by decide +kernel⟩,
   ⟨{ (st [(Reg.PG_READY_READY.place .rstc, 1), (Reg.PG_READY_READY.place .time, 1), (Reg.PG_READY_READY.place (.tile 25), 1), (Reg.PG_READY_READY.place (.disp 3), 1), (Reg.PG_READY_READY.place (.feng 6), 1), (Reg.QRM_FENCE_DP_MASK.place .qrm, 4), (Reg.WLH_IMG_CTRL_RECOVERY_NEXT.place .wlh, 1), (Reg.TIER_CMD_ADDR_LO_ADDR_LO.place .tier, 1)]) with ledger := { writing := [5] }, rst := { pwrGood := true, straps := 5 } },
     920, 3, by decide +kernel⟩,
   ⟨{ (st [(Reg.PG_READY_READY.place .rstc, 1), (Reg.PG_READY_READY.place .time, 1), (Reg.PG_READY_READY.place (.tile 25), 1), (Reg.PG_READY_READY.place (.disp 3), 1), (Reg.PG_READY_READY.place (.feng 6), 1), (Reg.QRM_FENCE_DP_MASK.place .qrm, 4), (Reg.WLH_IMG_CTRL_RECOVERY_NEXT.place .wlh, 1), (Reg.TIER_CMD_ADDR_LO_ADDR_LO.place .tier, 1)]) with mem := [(5, 6)], now := 77, rst := { pwrGood := true, straps := 5 } },
     .kclk, by decide +kernel⟩,
   ⟨{ (st [(Reg.PG_READY_READY.place .rstc, 1), (Reg.PG_READY_READY.place .time, 1), (Reg.PG_READY_READY.place (.tile 25), 1), (Reg.PG_READY_READY.place (.disp 3), 1), (Reg.PG_READY_READY.place (.feng 6), 1), (Reg.QRM_FENCE_DP_MASK.place .qrm, 4), (Reg.WLH_IMG_CTRL_RECOVERY_NEXT.place .wlh, 1), (Reg.TIER_CMD_ADDR_LO_ADDR_LO.place .tier, 1)]) with tier := { migs := [{ page := 3, prev := {}, kind := .localMove, dstTier := .deep, dstFrame := 1, dstSide := 0, start := 0, bytes := 0, staged := [], later := [] }] }, rst := { pwrGood := true, straps := 5 } },
     .kclk, by decide +kernel⟩,
   ⟨{ (st [(Reg.PG_READY_READY.place .rstc, 1), (Reg.PG_READY_READY.place .time, 1), (Reg.PG_READY_READY.place (.tile 25), 1), (Reg.PG_READY_READY.place (.disp 3), 1), (Reg.PG_READY_READY.place (.feng 6), 1), (Reg.QRM_FENCE_DP_MASK.place .qrm, 4), (Reg.WLH_IMG_CTRL_RECOVERY_NEXT.place .wlh, 1), (Reg.TIER_CMD_ADDR_LO_ADDR_LO.place .tier, 1), (Reg.CLK_STAT_LOCK.place .clk, 127)]) with rst := { pwrGood := true, straps := 5 } },
     .tclk 0, by decide +kernel⟩,
   ⟨{ (st [(Reg.PG_READY_READY.place .rstc, 1), (Reg.PG_READY_READY.place .time, 1), (Reg.PG_READY_READY.place (.tile 25), 1), (Reg.PG_READY_READY.place (.disp 3), 1), (Reg.PG_READY_READY.place (.feng 6), 1), (Reg.QRM_FENCE_DP_MASK.place .qrm, 4), (Reg.WLH_IMG_CTRL_RECOVERY_NEXT.place .wlh, 1), (Reg.TIER_CMD_ADDR_LO_ADDR_LO.place .tier, 1)]) with rst := { lost := [.fclk] } },
     .fclk, by decide +kernel⟩⟩

/-- The hypotheses of ClocksPinsAndRestarts can be met, clause by clause. -/
theorem wit_ClocksPinsAndRestarts :
    (∃ (s : State), s.rst.pwrGood = false ∧ s.rst.resetLow = false ∧ s.rst.thermHeld = false ∧ (s.rst.perstLow =
      false ∨ s.flag .rstc Reg.RSTC_CTRL_PERST_SCOPE = true) ∧ s.rst.straps < 4096) ∧
    (∃ (s : State), s.rst.pwrGood = false ∧ (¬ (s.rst.resetLow = false ∧ s.rst.thermHeld = false ∧ (s.rst.perstLow =
      false ∨ s.flag .rstc Reg.RSTC_CTRL_PERST_SCOPE = true)))) ∧
    (∃ (s : State), s.rst.pwrGood = true) ∧
    (∃ (s : State) (straps : BitVec 12), s.rst.resetLow = true ∧ s.rst.pwrGood = true ∧ s.rst.thermHeld = false ∧
      s.rst.perstLow = false) ∧
    (∃ (s : State) (straps : BitVec 12), s.rst.resetLow = true ∧ s.rst.pwrGood = true ∧ s.rst.thermHeld = true) ∧
    (∃ (s : State) (straps : BitVec 12), s.rst.resetLow = true ∧ s.rst.pwrGood = false) ∧
    (∃ (s : State) (straps : BitVec 12), s.rst.resetLow = false) ∧
    (∃ (s : State) (straps : BitVec 12), s.rst.pwrGood = true ∧ s.rst.resetLow = false) ∧
    (∃ (s : State) (straps : BitVec 12), (s.rst.pwrGood = false ∨ s.rst.resetLow = true)) ∧
    (∃ (s : State), s.rst.perstLow = true ∧ s.rst.pwrGood = true ∧ s.rst.resetLow = false ∧ s.rst.thermHeld = false) ∧
    (∃ (s : State), s.rst.perstLow = true ∧ (s.rst.pwrGood = false ∨ s.rst.resetLow = true ∨ s.rst.thermHeld = true)) ∧
    (∃ (s : State), s.rst.perstLow = false) ∧
    (∃ (s : State) (temp : Int), s.rst.thermHeld = true ∧ temp < s.fld .rstc Reg.RSTC_THERM_RELEASE_C * 8 ∧
      s.rst.pwrGood = true ∧ s.rst.resetLow = false ∧ s.rst.perstLow = false) ∧
    (∃ (s : State) (temp : Int), s.rst.thermHeld = true ∧ temp < s.fld .rstc Reg.RSTC_THERM_RELEASE_C * 8 ∧
      (s.rst.pwrGood = false ∨ s.rst.resetLow = true)) ∧
    (∃ (s : State) (temp : Int), (s.rst.thermHeld = false ∨ (s.fld .rstc Reg.RSTC_THERM_RELEASE_C * 8 : Int) ≤ temp)) ∧
    (∃ (s : State) (l : Pll) (lost : List Pll), l ∈ s.rst.lost ∧ lost = s.rst.lost.filter (· ≠ l)) ∧
    (∃ (s : State) (l : Pll), l ∉ s.rst.lost) :=
  ⟨⟨{ (st [(Reg.PG_READY_READY.place .rstc, 1), (Reg.PG_READY_READY.place .time, 1), (Reg.PG_READY_READY.place (.tile 25), 1), (Reg.PG_READY_READY.place (.disp 3), 1), (Reg.PG_READY_READY.place (.feng 6), 1), (Reg.QRM_FENCE_DP_MASK.place .qrm, 4), (Reg.WLH_IMG_CTRL_RECOVERY_NEXT.place .wlh, 1), (Reg.TIER_CMD_ADDR_LO_ADDR_LO.place .tier, 1)]) with rst := { straps := 9, lost := [.fclk] } },
     by decide +kernel⟩,
   ⟨{ (st [(Reg.PG_READY_READY.place .rstc, 1), (Reg.PG_READY_READY.place .time, 1), (Reg.PG_READY_READY.place (.tile 25), 1), (Reg.PG_READY_READY.place (.disp 3), 1), (Reg.PG_READY_READY.place (.feng 6), 1), (Reg.QRM_FENCE_DP_MASK.place .qrm, 4), (Reg.WLH_IMG_CTRL_RECOVERY_NEXT.place .wlh, 1), (Reg.TIER_CMD_ADDR_LO_ADDR_LO.place .tier, 1)]) with rst := { resetLow := true } },
     by decide +kernel⟩,
   ⟨{ (st [(Reg.PG_READY_READY.place .rstc, 1), (Reg.PG_READY_READY.place .time, 1), (Reg.PG_READY_READY.place (.tile 25), 1), (Reg.PG_READY_READY.place (.disp 3), 1), (Reg.PG_READY_READY.place (.feng 6), 1), (Reg.QRM_FENCE_DP_MASK.place .qrm, 4), (Reg.WLH_IMG_CTRL_RECOVERY_NEXT.place .wlh, 1), (Reg.TIER_CMD_ADDR_LO_ADDR_LO.place .tier, 1)]) with rst := { pwrGood := true, straps := 5 } },
     by decide +kernel⟩,
   ⟨{ (st [(Reg.PG_READY_READY.place .rstc, 1), (Reg.PG_READY_READY.place .time, 1), (Reg.PG_READY_READY.place (.tile 25), 1), (Reg.PG_READY_READY.place (.disp 3), 1), (Reg.PG_READY_READY.place (.feng 6), 1), (Reg.QRM_FENCE_DP_MASK.place .qrm, 4), (Reg.WLH_IMG_CTRL_RECOVERY_NEXT.place .wlh, 1), (Reg.TIER_CMD_ADDR_LO_ADDR_LO.place .tier, 1)]) with rst := { pwrGood := true, resetLow := true } },
     0xABC, by decide +kernel⟩,
   ⟨{ (st [(Reg.PG_READY_READY.place .rstc, 1), (Reg.PG_READY_READY.place .time, 1), (Reg.PG_READY_READY.place (.tile 25), 1), (Reg.PG_READY_READY.place (.disp 3), 1), (Reg.PG_READY_READY.place (.feng 6), 1), (Reg.QRM_FENCE_DP_MASK.place .qrm, 4), (Reg.WLH_IMG_CTRL_RECOVERY_NEXT.place .wlh, 1), (Reg.TIER_CMD_ADDR_LO_ADDR_LO.place .tier, 1)]) with rst := { pwrGood := true, resetLow := true, thermHeld := true } },
     0xABC, by decide +kernel⟩,
   ⟨{ (st [(Reg.PG_READY_READY.place .rstc, 1), (Reg.PG_READY_READY.place .time, 1), (Reg.PG_READY_READY.place (.tile 25), 1), (Reg.PG_READY_READY.place (.disp 3), 1), (Reg.PG_READY_READY.place (.feng 6), 1), (Reg.QRM_FENCE_DP_MASK.place .qrm, 4), (Reg.WLH_IMG_CTRL_RECOVERY_NEXT.place .wlh, 1), (Reg.TIER_CMD_ADDR_LO_ADDR_LO.place .tier, 1)]) with rst := { resetLow := true } },
     0xABC, by decide +kernel⟩,
   ⟨{ (st [(Reg.PG_READY_READY.place .rstc, 1), (Reg.PG_READY_READY.place .time, 1), (Reg.PG_READY_READY.place (.tile 25), 1), (Reg.PG_READY_READY.place (.disp 3), 1), (Reg.PG_READY_READY.place (.feng 6), 1), (Reg.QRM_FENCE_DP_MASK.place .qrm, 4), (Reg.WLH_IMG_CTRL_RECOVERY_NEXT.place .wlh, 1), (Reg.TIER_CMD_ADDR_LO_ADDR_LO.place .tier, 1)]) with rst := { pwrGood := true, straps := 5 } },
     0xABC, by decide +kernel⟩,
   ⟨{ (st [(Reg.PG_READY_READY.place .rstc, 1), (Reg.PG_READY_READY.place .time, 1), (Reg.PG_READY_READY.place (.tile 25), 1), (Reg.PG_READY_READY.place (.disp 3), 1), (Reg.PG_READY_READY.place (.feng 6), 1), (Reg.QRM_FENCE_DP_MASK.place .qrm, 4), (Reg.WLH_IMG_CTRL_RECOVERY_NEXT.place .wlh, 1), (Reg.TIER_CMD_ADDR_LO_ADDR_LO.place .tier, 1)]) with rst := { pwrGood := true, straps := 5 } },
     0xABC, by decide +kernel⟩,
   ⟨State.reset, 0xABC, by decide +kernel⟩,
   ⟨{ (st [(Reg.PG_READY_READY.place .rstc, 1), (Reg.PG_READY_READY.place .time, 1), (Reg.PG_READY_READY.place (.tile 25), 1), (Reg.PG_READY_READY.place (.disp 3), 1), (Reg.PG_READY_READY.place (.feng 6), 1), (Reg.QRM_FENCE_DP_MASK.place .qrm, 4), (Reg.WLH_IMG_CTRL_RECOVERY_NEXT.place .wlh, 1), (Reg.TIER_CMD_ADDR_LO_ADDR_LO.place .tier, 1)]) with rst := { pwrGood := true, perstLow := true } },
     by decide +kernel⟩,
   ⟨{ (st [(Reg.PG_READY_READY.place .rstc, 1), (Reg.PG_READY_READY.place .time, 1), (Reg.PG_READY_READY.place (.tile 25), 1), (Reg.PG_READY_READY.place (.disp 3), 1), (Reg.PG_READY_READY.place (.feng 6), 1), (Reg.QRM_FENCE_DP_MASK.place .qrm, 4), (Reg.WLH_IMG_CTRL_RECOVERY_NEXT.place .wlh, 1), (Reg.TIER_CMD_ADDR_LO_ADDR_LO.place .tier, 1)]) with rst := { perstLow := true } },
     by decide +kernel⟩,
   ⟨{ (st [(Reg.PG_READY_READY.place .rstc, 1), (Reg.PG_READY_READY.place .time, 1), (Reg.PG_READY_READY.place (.tile 25), 1), (Reg.PG_READY_READY.place (.disp 3), 1), (Reg.PG_READY_READY.place (.feng 6), 1), (Reg.QRM_FENCE_DP_MASK.place .qrm, 4), (Reg.WLH_IMG_CTRL_RECOVERY_NEXT.place .wlh, 1), (Reg.TIER_CMD_ADDR_LO_ADDR_LO.place .tier, 1)]) with rst := { pwrGood := true, straps := 5 } },
     by decide +kernel⟩,
   ⟨{ (st [(Reg.PG_READY_READY.place .rstc, 1), (Reg.PG_READY_READY.place .time, 1), (Reg.PG_READY_READY.place (.tile 25), 1), (Reg.PG_READY_READY.place (.disp 3), 1), (Reg.PG_READY_READY.place (.feng 6), 1), (Reg.QRM_FENCE_DP_MASK.place .qrm, 4), (Reg.WLH_IMG_CTRL_RECOVERY_NEXT.place .wlh, 1), (Reg.TIER_CMD_ADDR_LO_ADDR_LO.place .tier, 1)]) with rst := { pwrGood := true, thermHeld := true } },
     -8, by decide +kernel⟩,
   ⟨{ (st [(Reg.PG_READY_READY.place .rstc, 1), (Reg.PG_READY_READY.place .time, 1), (Reg.PG_READY_READY.place (.tile 25), 1), (Reg.PG_READY_READY.place (.disp 3), 1), (Reg.PG_READY_READY.place (.feng 6), 1), (Reg.QRM_FENCE_DP_MASK.place .qrm, 4), (Reg.WLH_IMG_CTRL_RECOVERY_NEXT.place .wlh, 1), (Reg.TIER_CMD_ADDR_LO_ADDR_LO.place .tier, 1)]) with rst := { thermHeld := true } },
     -8, by decide +kernel⟩,
   ⟨{ (st [(Reg.PG_READY_READY.place .rstc, 1), (Reg.PG_READY_READY.place .time, 1), (Reg.PG_READY_READY.place (.tile 25), 1), (Reg.PG_READY_READY.place (.disp 3), 1), (Reg.PG_READY_READY.place (.feng 6), 1), (Reg.QRM_FENCE_DP_MASK.place .qrm, 4), (Reg.WLH_IMG_CTRL_RECOVERY_NEXT.place .wlh, 1), (Reg.TIER_CMD_ADDR_LO_ADDR_LO.place .tier, 1)]) with rst := { pwrGood := true, straps := 5 } },
     2000, by decide +kernel⟩,
   ⟨{ (st [(Reg.PG_READY_READY.place .rstc, 1), (Reg.PG_READY_READY.place .time, 1), (Reg.PG_READY_READY.place (.tile 25), 1), (Reg.PG_READY_READY.place (.disp 3), 1), (Reg.PG_READY_READY.place (.feng 6), 1), (Reg.QRM_FENCE_DP_MASK.place .qrm, 4), (Reg.WLH_IMG_CTRL_RECOVERY_NEXT.place .wlh, 1), (Reg.TIER_CMD_ADDR_LO_ADDR_LO.place .tier, 1)]) with rst := { lost := [.tclk 0, .tclk 1] } },
     .tclk 0, [.tclk 1], by decide +kernel⟩,
   ⟨{ (st [(Reg.PG_READY_READY.place .rstc, 1), (Reg.PG_READY_READY.place .time, 1), (Reg.PG_READY_READY.place (.tile 25), 1), (Reg.PG_READY_READY.place (.disp 3), 1), (Reg.PG_READY_READY.place (.feng 6), 1), (Reg.QRM_FENCE_DP_MASK.place .qrm, 4), (Reg.WLH_IMG_CTRL_RECOVERY_NEXT.place .wlh, 1), (Reg.TIER_CMD_ADDR_LO_ADDR_LO.place .tier, 1)]) with rst := { pwrGood := true, straps := 5 } },
     .fclk, by decide +kernel⟩⟩

/-- The hypotheses of BlockResetsAndFences can be met, clause by clause. -/
theorem wit_BlockResetsAndFences :
    (∃ (s : State) (pg : Page), s.ready pg = true ∧ ((∀ p, partOfPage pg = some p → s.fenced p = false)) ∧ pg.rstKind
      = 1 ∧ s.fld pg Reg.PG_RST_STATUS = 0) ∧
    (∃ (s : State) (pg : Page) (p : PartId), s.ready pg = true ∧ (partOfPage pg = some p) ∧ s.fenced p = true) ∧
    (∃ (s : State) (pg : Page), s.ready pg = true ∧ ((∀ p, partOfPage pg = some p → s.fenced p = false)) ∧ pg.rstKind
      ≠ 1) ∧
    (∃ (s : State) (pg : Page), (s.ready pg = false ∨ (∀ p, partOfPage pg = some p → s.fenced p = false) ∧ pg.rstKind
      = 1 ∧ s.fld pg Reg.PG_RST_STATUS ≠ 0)) ∧
    (∃ (s : State) (pg : Page), s.quiescing pg = true ∧ s.blockIdle pg = true ∧ pg.rstKind = 1) ∧
    (∃ (s : State) (p : PartId), s.quiescing (.disp p) = true ∧ s.blockIdle (.disp p) = true) ∧
    (∃ (s : State) (u : TileId), s.quiescing (.tile u) = true ∧ s.blockIdle (.tile u) = true) ∧
    (∃ (s : State) (e : EngId), s.quiescing (.feng e) = true ∧ s.blockIdle (.feng e) = true) ∧
    (∃ (s : State) (pg : Page), (s.quiescing pg = false ∨ s.blockIdle pg = false)) ∧
    (∃ (s : State) (pg : Page), s.quiescing pg = true ∧ Map.get 0 s.rst.quiesceAt pg.base - 1 + s.fld .rstc
      Reg.RSTC_CTRL_QUIESCE_US * 1000 ≤ s.now ∧ pg.rstKind = 1) ∧
    (∃ (s : State) (pg : Page), (s.quiescing pg = false ∨ s.now < Map.get 0 s.rst.quiesceAt pg.base - 1 + s.fld .rstc
      Reg.RSTC_CTRL_QUIESCE_US * 1000)) ∧
    (∃ (s : State) (pg : Page), s.fld pg Reg.PG_RST_STATUS = 2 ∧ (∀ p, pg ≠ .disp p)) ∧
    (∃ (s : State) (p : PartId), s.fld (.disp p) Reg.PG_RST_STATUS = 2 ∧ (s.reqs.map (·.reqId)).Nodup ∧ s.noParks) ∧
    (∃ (s : State) (pg : Page), s.fld pg Reg.PG_RST_STATUS ≠ 2) :=
  ⟨⟨{ (st [(Reg.PG_READY_READY.place .rstc, 1), (Reg.PG_READY_READY.place .time, 1), (Reg.PG_READY_READY.place (.tile 25), 1), (Reg.PG_READY_READY.place (.disp 3), 1), (Reg.PG_READY_READY.place (.feng 6), 1), (Reg.QRM_FENCE_DP_MASK.place .qrm, 4), (Reg.WLH_IMG_CTRL_RECOVERY_NEXT.place .wlh, 1), (Reg.TIER_CMD_ADDR_LO_ADDR_LO.place .tier, 1)]) with rst := { pwrGood := true, straps := 5 } },
     .tile 25, by decide +kernel⟩,
   ⟨{ (st [(Reg.PG_READY_READY.place .rstc, 1), (Reg.PG_READY_READY.place .time, 1), (Reg.PG_READY_READY.place (.tile 25), 1), (Reg.PG_READY_READY.place (.disp 3), 1), (Reg.PG_READY_READY.place (.feng 6), 1), (Reg.QRM_FENCE_DP_MASK.place .qrm, 4), (Reg.WLH_IMG_CTRL_RECOVERY_NEXT.place .wlh, 1), (Reg.TIER_CMD_ADDR_LO_ADDR_LO.place .tier, 1), (Reg.PG_READY_READY.place (.disp 2), 1)]) with rst := { pwrGood := true, straps := 5 } },
     .disp 2, 2, by decide +kernel⟩,
   ⟨{ (st [(Reg.PG_READY_READY.place .rstc, 1), (Reg.PG_READY_READY.place .time, 1), (Reg.PG_READY_READY.place (.tile 25), 1), (Reg.PG_READY_READY.place (.disp 3), 1), (Reg.PG_READY_READY.place (.feng 6), 1), (Reg.QRM_FENCE_DP_MASK.place .qrm, 4), (Reg.WLH_IMG_CTRL_RECOVERY_NEXT.place .wlh, 1), (Reg.TIER_CMD_ADDR_LO_ADDR_LO.place .tier, 1)]) with rst := { pwrGood := true, straps := 5 } },
     .rstc, by decide +kernel⟩,
   ⟨{ (st [(Reg.PG_READY_READY.place .rstc, 1), (Reg.PG_READY_READY.place .time, 1), (Reg.PG_READY_READY.place (.tile 25), 1), (Reg.PG_READY_READY.place (.disp 3), 1), (Reg.PG_READY_READY.place (.feng 6), 1), (Reg.QRM_FENCE_DP_MASK.place .qrm, 4), (Reg.WLH_IMG_CTRL_RECOVERY_NEXT.place .wlh, 1), (Reg.TIER_CMD_ADDR_LO_ADDR_LO.place .tier, 1)]) with rst := { pwrGood := true, straps := 5 } },
     .disp 9, by decide +kernel⟩,
   ⟨{ (st [(Reg.PG_READY_READY.place .rstc, 1), (Reg.PG_READY_READY.place .time, 1), (Reg.PG_READY_READY.place (.tile 25), 1), (Reg.PG_READY_READY.place (.disp 3), 1), (Reg.PG_READY_READY.place (.feng 6), 1), (Reg.QRM_FENCE_DP_MASK.place .qrm, 4), (Reg.WLH_IMG_CTRL_RECOVERY_NEXT.place .wlh, 1), (Reg.TIER_CMD_ADDR_LO_ADDR_LO.place .tier, 1), (Reg.PG_RST_STATUS.place (.tile 25), 1), (Reg.SB_STAT_MAXLAT.place (.tile 25), 9)]) with rst := { pwrGood := true, straps := 5 } },
     .tile 25, by decide +kernel⟩,
   ⟨{ (st [(Reg.PG_READY_READY.place .rstc, 1), (Reg.PG_READY_READY.place .time, 1), (Reg.PG_READY_READY.place (.tile 25), 1), (Reg.PG_READY_READY.place (.disp 3), 1), (Reg.PG_READY_READY.place (.feng 6), 1), (Reg.QRM_FENCE_DP_MASK.place .qrm, 4), (Reg.WLH_IMG_CTRL_RECOVERY_NEXT.place .wlh, 1), (Reg.TIER_CMD_ADDR_LO_ADDR_LO.place .tier, 1), (Reg.PG_RST_STATUS.place (.disp 3), 1)]) with tiles := [(25, { slots := [(3, { st := .waiting })] })], sram := [(52428805, 7)], rst := { pwrGood := true, straps := 5 } },
     3, by decide +kernel⟩,
   ⟨{ (st [(Reg.PG_READY_READY.place .rstc, 1), (Reg.PG_READY_READY.place .time, 1), (Reg.PG_READY_READY.place (.tile 25), 1), (Reg.PG_READY_READY.place (.disp 3), 1), (Reg.PG_READY_READY.place (.feng 6), 1), (Reg.QRM_FENCE_DP_MASK.place .qrm, 4), (Reg.WLH_IMG_CTRL_RECOVERY_NEXT.place .wlh, 1), (Reg.TIER_CMD_ADDR_LO_ADDR_LO.place .tier, 1), (Reg.PG_RST_STATUS.place (.tile 25), 1)]) with tiles := [(25, { slots := [(3, { st := .waiting })] })], rst := { pwrGood := true, straps := 5 } },
     25, by decide +kernel⟩,
   ⟨{ (st [(Reg.PG_READY_READY.place .rstc, 1), (Reg.PG_READY_READY.place .time, 1), (Reg.PG_READY_READY.place (.tile 25), 1), (Reg.PG_READY_READY.place (.disp 3), 1), (Reg.PG_READY_READY.place (.feng 6), 1), (Reg.QRM_FENCE_DP_MASK.place .qrm, 4), (Reg.WLH_IMG_CTRL_RECOVERY_NEXT.place .wlh, 1), (Reg.TIER_CMD_ADDR_LO_ADDR_LO.place .tier, 1), (Reg.PG_RST_STATUS.place (.feng 6), 1)]) with qps := [(1540, { st := .rts })], rst := { pwrGood := true, straps := 5 } },
     6, by decide +kernel⟩,
   ⟨{ (st [(Reg.PG_READY_READY.place .rstc, 1), (Reg.PG_READY_READY.place .time, 1), (Reg.PG_READY_READY.place (.tile 25), 1), (Reg.PG_READY_READY.place (.disp 3), 1), (Reg.PG_READY_READY.place (.feng 6), 1), (Reg.QRM_FENCE_DP_MASK.place .qrm, 4), (Reg.WLH_IMG_CTRL_RECOVERY_NEXT.place .wlh, 1), (Reg.TIER_CMD_ADDR_LO_ADDR_LO.place .tier, 1), (Reg.PG_RST_STATUS.place (.tile 25), 1)]) with tiles := [(25, { slots := [(3, { st := .running })] })], rst := { pwrGood := true, straps := 5 } },
     .tile 25, by decide +kernel⟩,
   ⟨{ (st [(Reg.PG_READY_READY.place .rstc, 1), (Reg.PG_READY_READY.place .time, 1), (Reg.PG_READY_READY.place (.tile 25), 1), (Reg.PG_READY_READY.place (.disp 3), 1), (Reg.PG_READY_READY.place (.feng 6), 1), (Reg.QRM_FENCE_DP_MASK.place .qrm, 4), (Reg.WLH_IMG_CTRL_RECOVERY_NEXT.place .wlh, 1), (Reg.TIER_CMD_ADDR_LO_ADDR_LO.place .tier, 1), (Reg.PG_RST_STATUS.place (.tile 25), 1)]) with now := 100000000, tiles := [(25, { slots := [(3, { st := .running })] })], rst := { pwrGood := true, straps := 5 } },
     .tile 25, by decide +kernel⟩,
   ⟨{ (st [(Reg.PG_READY_READY.place .rstc, 1), (Reg.PG_READY_READY.place .time, 1), (Reg.PG_READY_READY.place (.tile 25), 1), (Reg.PG_READY_READY.place (.disp 3), 1), (Reg.PG_READY_READY.place (.feng 6), 1), (Reg.QRM_FENCE_DP_MASK.place .qrm, 4), (Reg.WLH_IMG_CTRL_RECOVERY_NEXT.place .wlh, 1), (Reg.TIER_CMD_ADDR_LO_ADDR_LO.place .tier, 1), (Reg.PG_RST_STATUS.place (.tile 25), 1)]) with rst := { quiesceAt := [(1150976, 5)] } },
     .tile 25, by decide +kernel⟩,
   ⟨{ (st [(Reg.PG_READY_READY.place .rstc, 1), (Reg.PG_READY_READY.place .time, 1), (Reg.PG_READY_READY.place (.tile 25), 1), (Reg.PG_READY_READY.place (.disp 3), 1), (Reg.PG_READY_READY.place (.feng 6), 1), (Reg.QRM_FENCE_DP_MASK.place .qrm, 4), (Reg.WLH_IMG_CTRL_RECOVERY_NEXT.place .wlh, 1), (Reg.TIER_CMD_ADDR_LO_ADDR_LO.place .tier, 1), (Reg.PG_RST_STATUS.place (.tile 25), 2)]) with rst := { pwrGood := true, straps := 5 } },
     .tile 25, by decide +kernel⟩,
   ⟨{ (st [(Reg.PG_READY_READY.place .rstc, 1), (Reg.PG_READY_READY.place .time, 1), (Reg.PG_READY_READY.place (.tile 25), 1), (Reg.PG_READY_READY.place (.disp 3), 1), (Reg.PG_READY_READY.place (.feng 6), 1), (Reg.QRM_FENCE_DP_MASK.place .qrm, 4), (Reg.WLH_IMG_CTRL_RECOVERY_NEXT.place .wlh, 1), (Reg.TIER_CMD_ADDR_LO_ADDR_LO.place .tier, 1), (Reg.PG_RST_STATUS.place (.disp 3), 2)]) with rst := { pwrGood := true, straps := 5 } },
     3, by decide +kernel⟩,
   ⟨{ (st [(Reg.PG_READY_READY.place .rstc, 1), (Reg.PG_READY_READY.place .time, 1), (Reg.PG_READY_READY.place (.tile 25), 1), (Reg.PG_READY_READY.place (.disp 3), 1), (Reg.PG_READY_READY.place (.feng 6), 1), (Reg.QRM_FENCE_DP_MASK.place .qrm, 4), (Reg.WLH_IMG_CTRL_RECOVERY_NEXT.place .wlh, 1), (Reg.TIER_CMD_ADDR_LO_ADDR_LO.place .tier, 1)]) with rst := { pwrGood := true, straps := 5 } },
     .tile 25, by decide +kernel⟩⟩

/-- The hypotheses of TimeAndSyncInputs can be met, clause by clause. -/
theorem wit_TimeAndSyncInputs :
    (∃ (s : State) (f : Bool), s.flag .sync Reg.SYNC_CTRL_FSYNC_EN = true ∧ s.flag .sync Reg.SYNC_CTRL_FSYNC_POL = f
      ∧ (s.sync.fAny = false ∨ s.fld .sync Reg.SYNC_FSYNC_LAST_TIME + s.fld .sync Reg.SYNC_CTRL_MIN_US * 1000 ≤
      s.now)) ∧
    (∃ (s : State) (f : Bool), s.flag .sync Reg.SYNC_CTRL_FSYNC_EN = true ∧ s.flag .sync Reg.SYNC_CTRL_FSYNC_POL = f
      ∧ s.sync.fAny = true ∧ s.now < s.fld .sync Reg.SYNC_FSYNC_LAST_TIME + s.fld .sync Reg.SYNC_CTRL_MIN_US * 1000) ∧
    (∃ (s : State) (f : Bool), (s.flag .sync Reg.SYNC_CTRL_FSYNC_EN = false ∨ s.flag .sync Reg.SYNC_CTRL_FSYNC_POL ≠
      f)) ∧
    (∃ (s : State), s.flag .sync Reg.SYNC_CTRL_FSYNC_EN = true ∧ s.flag .sync Reg.SYNC_STAT_FSYNC_LOST = false ∧
      s.fld .sync Reg.SYNC_FSYNC_LAST_TIME + 2 * s.fld .sync Reg.SYNC_FSYNC_PERIOD_NS ≤ s.now) ∧
    (∃ (s : State), (¬ (s.flag .sync Reg.SYNC_CTRL_FSYNC_EN = true ∧ s.flag .sync Reg.SYNC_STAT_FSYNC_LOST = false ∧
      s.fld .sync Reg.SYNC_FSYNC_LAST_TIME + 2 * s.fld .sync Reg.SYNC_FSYNC_PERIOD_NS ≤ s.now))) ∧
    (∃ (s : State), s.flag .sync Reg.SYNC_CTRL_TSYNC_EN = true ∧ (s.sync.tAny = false ∨ s.fld .sync
      Reg.SYNC_TSYNC_LAST_TIME + s.fld .sync Reg.SYNC_CTRL_MIN_US * 1000 ≤ s.now) ∧ (¬ (s.flag .time
      Reg.TIME_CTRL_MASTER = true ∧ s.flag .time Reg.TIME_CTRL_PPS_EN = true))) ∧
    (∃ (s : State), s.flag .sync Reg.SYNC_CTRL_TSYNC_EN = true ∧ (s.sync.tAny = false ∨ s.fld .sync
      Reg.SYNC_TSYNC_LAST_TIME + s.fld .sync Reg.SYNC_CTRL_MIN_US * 1000 ≤ s.now) ∧ s.flag .time Reg.TIME_CTRL_MASTER
      = true ∧ s.flag .time Reg.TIME_CTRL_PPS_EN = true ∧ s.now < 2 ^ 63) ∧
    (∃ (s : State), (s.flag .sync Reg.SYNC_CTRL_TSYNC_EN = false ∨ s.sync.tAny = true ∧ s.now < s.fld .sync
      Reg.SYNC_TSYNC_LAST_TIME + s.fld .sync Reg.SYNC_CTRL_MIN_US * 1000)) ∧
    (∃ (s : State), s.flag .sync Reg.SYNC_CTRL_TSYNC_EN = true ∧ s.flag .sync Reg.SYNC_STAT_TSYNC_LOST = false ∧
      s.fld .sync Reg.SYNC_TSYNC_LAST_TIME + 1500000000 ≤ s.now) ∧
    (∃ (s : State), (¬ (s.flag .sync Reg.SYNC_CTRL_TSYNC_EN = true ∧ s.flag .sync Reg.SYNC_STAT_TSYNC_LOST = false ∧
      s.fld .sync Reg.SYNC_TSYNC_LAST_TIME + 1500000000 ≤ s.now))) ∧
    (∃ (s : State), s.flag .time Reg.TIME_CTRL_MASTER = false) ∧
    (∃ (s : State), s.flag .time Reg.TIME_CTRL_MASTER = true) ∧
    (∃ (s : State) (a : Nat) (b : Nat) (c : Nat) (d : Nat) (off : Int), s.sync.exchanging = true ∧ s.flag .time
      Reg.TIME_CTRL_MASTER = false ∧ off = (((b : Int) - a) - ((d : Int) - c)) / 2 ∧ s.sync.everSynced = true) ∧
    (∃ (s : State) (a : Nat) (b : Nat) (c : Nat) (d : Nat) (off : Int), s.sync.exchanging = true ∧ s.flag .time
      Reg.TIME_CTRL_MASTER = false ∧ off = (((b : Int) - a) - ((d : Int) - c)) / 2 ∧ s.sync.everSynced = false) ∧
    (∃ (s : State) (a : Nat) (b : Nat) (c : Nat) (d : Nat), (s.sync.exchanging = false ∨ s.flag .time
      Reg.TIME_CTRL_MASTER = true)) ∧
    (∃ (s : State) (ns : Word64), s.ready .time = true ∧ s.flag .time Reg.TIME_CTRL_MASTER = true) ∧
    (∃ (s : State) (ns : Word64), s.ready .time = true ∧ s.flag .time Reg.TIME_CTRL_MASTER = false) ∧
    (∃ (s : State) (ns : Word64), s.ready .time = false) :=
  ⟨⟨{ (st [(Reg.PG_READY_READY.place .rstc, 1), (Reg.PG_READY_READY.place .time, 1), (Reg.PG_READY_READY.place (.tile 25), 1), (Reg.PG_READY_READY.place (.disp 3), 1), (Reg.PG_READY_READY.place (.feng 6), 1), (Reg.QRM_FENCE_DP_MASK.place .qrm, 4), (Reg.WLH_IMG_CTRL_RECOVERY_NEXT.place .wlh, 1), (Reg.TIER_CMD_ADDR_LO_ADDR_LO.place .tier, 1), (Reg.SYNC_CTRL_FSYNC_EN.place .sync, 1), (Reg.SYNC_STAT_FSYNC_LOST.place .sync, 1), (Reg.SYNC_FSYNC_LAST_TIME.place .sync, 1000)]) with sync := { fEdges := 1, fAny := true }, now := 20000000, rst := { pwrGood := true, straps := 5 } },
     false, by decide +kernel⟩,
   ⟨{ (st [(Reg.PG_READY_READY.place .rstc, 1), (Reg.PG_READY_READY.place .time, 1), (Reg.PG_READY_READY.place (.tile 25), 1), (Reg.PG_READY_READY.place (.disp 3), 1), (Reg.PG_READY_READY.place (.feng 6), 1), (Reg.QRM_FENCE_DP_MASK.place .qrm, 4), (Reg.WLH_IMG_CTRL_RECOVERY_NEXT.place .wlh, 1), (Reg.TIER_CMD_ADDR_LO_ADDR_LO.place .tier, 1), (Reg.SYNC_CTRL_FSYNC_EN.place .sync, 1), (Reg.SYNC_STAT_FSYNC_LOST.place .sync, 1), (Reg.SYNC_FSYNC_LAST_TIME.place .sync, 1000)]) with sync := { fAny := true }, now := 1000, rst := { pwrGood := true, straps := 5 } },
     false, by decide +kernel⟩,
   ⟨{ (st [(Reg.PG_READY_READY.place .rstc, 1), (Reg.PG_READY_READY.place .time, 1), (Reg.PG_READY_READY.place (.tile 25), 1), (Reg.PG_READY_READY.place (.disp 3), 1), (Reg.PG_READY_READY.place (.feng 6), 1), (Reg.QRM_FENCE_DP_MASK.place .qrm, 4), (Reg.WLH_IMG_CTRL_RECOVERY_NEXT.place .wlh, 1), (Reg.TIER_CMD_ADDR_LO_ADDR_LO.place .tier, 1), (Reg.SYNC_CTRL_FSYNC_EN.place .sync, 1), (Reg.SYNC_STAT_FSYNC_LOST.place .sync, 1), (Reg.SYNC_FSYNC_LAST_TIME.place .sync, 1000)]) with rst := { pwrGood := true, straps := 5 } },
     true, by decide +kernel⟩,
   ⟨{ (st [(Reg.PG_READY_READY.place .rstc, 1), (Reg.PG_READY_READY.place .time, 1), (Reg.PG_READY_READY.place (.tile 25), 1), (Reg.PG_READY_READY.place (.disp 3), 1), (Reg.PG_READY_READY.place (.feng 6), 1), (Reg.QRM_FENCE_DP_MASK.place .qrm, 4), (Reg.WLH_IMG_CTRL_RECOVERY_NEXT.place .wlh, 1), (Reg.TIER_CMD_ADDR_LO_ADDR_LO.place .tier, 1), (Reg.SYNC_CTRL_FSYNC_EN.place .sync, 1), (Reg.SYNC_STAT_FSYNC_LOST.place .sync, 0), (Reg.SYNC_FSYNC_LAST_TIME.place .sync, 1000), (Reg.SYNC_FSYNC_PERIOD_NS.place .sync, 1000)]) with sync := { fEdges := 2 }, now := 3000, rst := { pwrGood := true, straps := 5 } },
     by decide +kernel⟩,
   ⟨{ (st [(Reg.PG_READY_READY.place .rstc, 1), (Reg.PG_READY_READY.place .time, 1), (Reg.PG_READY_READY.place (.tile 25), 1), (Reg.PG_READY_READY.place (.disp 3), 1), (Reg.PG_READY_READY.place (.feng 6), 1), (Reg.QRM_FENCE_DP_MASK.place .qrm, 4), (Reg.WLH_IMG_CTRL_RECOVERY_NEXT.place .wlh, 1), (Reg.TIER_CMD_ADDR_LO_ADDR_LO.place .tier, 1)]) with rst := { pwrGood := true, straps := 5 } },
     by decide +kernel⟩,
   ⟨{ (st [(Reg.PG_READY_READY.place .rstc, 1), (Reg.PG_READY_READY.place .time, 1), (Reg.PG_READY_READY.place (.tile 25), 1), (Reg.PG_READY_READY.place (.disp 3), 1), (Reg.PG_READY_READY.place (.feng 6), 1), (Reg.QRM_FENCE_DP_MASK.place .qrm, 4), (Reg.WLH_IMG_CTRL_RECOVERY_NEXT.place .wlh, 1), (Reg.TIER_CMD_ADDR_LO_ADDR_LO.place .tier, 1), (Reg.SYNC_CTRL_TSYNC_EN.place .sync, 1), (Reg.SYNC_STAT_TSYNC_LOST.place .sync, 1)]) with sync := { tEdges := 1 }, now := 77, rst := { pwrGood := true, straps := 5 } },
     by decide +kernel⟩,
   ⟨{ (st [(Reg.PG_READY_READY.place .rstc, 1), (Reg.PG_READY_READY.place .time, 1), (Reg.PG_READY_READY.place (.tile 25), 1), (Reg.PG_READY_READY.place (.disp 3), 1), (Reg.PG_READY_READY.place (.feng 6), 1), (Reg.QRM_FENCE_DP_MASK.place .qrm, 4), (Reg.WLH_IMG_CTRL_RECOVERY_NEXT.place .wlh, 1), (Reg.TIER_CMD_ADDR_LO_ADDR_LO.place .tier, 1), (Reg.SYNC_CTRL_TSYNC_EN.place .sync, 1), (Reg.SYNC_STAT_TSYNC_LOST.place .sync, 1), (Reg.TIME_CTRL_MASTER.place .time, 1), (Reg.TIME_CTRL_PPS_EN.place .time, 1)]) with now := 1999999990, rst := { pwrGood := true, straps := 5 } },
     by decide +kernel⟩,
   ⟨{ (st [(Reg.PG_READY_READY.place .rstc, 1), (Reg.PG_READY_READY.place .time, 1), (Reg.PG_READY_READY.place (.tile 25), 1), (Reg.PG_READY_READY.place (.disp 3), 1), (Reg.PG_READY_READY.place (.feng 6), 1), (Reg.QRM_FENCE_DP_MASK.place .qrm, 4), (Reg.WLH_IMG_CTRL_RECOVERY_NEXT.place .wlh, 1), (Reg.TIER_CMD_ADDR_LO_ADDR_LO.place .tier, 1)]) with rst := { pwrGood := true, straps := 5 } },
     by decide +kernel⟩,
   ⟨{ (st [(Reg.PG_READY_READY.place .rstc, 1), (Reg.PG_READY_READY.place .time, 1), (Reg.PG_READY_READY.place (.tile 25), 1), (Reg.PG_READY_READY.place (.disp 3), 1), (Reg.PG_READY_READY.place (.feng 6), 1), (Reg.QRM_FENCE_DP_MASK.place .qrm, 4), (Reg.WLH_IMG_CTRL_RECOVERY_NEXT.place .wlh, 1), (Reg.TIER_CMD_ADDR_LO_ADDR_LO.place .tier, 1), (Reg.SYNC_CTRL_TSYNC_EN.place .sync, 1), (Reg.SYNC_STAT_TSYNC_LOST.place .sync, 0)]) with now := 1500000000, rst := { pwrGood := true, straps := 5 } },
     by decide +kernel⟩,
   ⟨{ (st [(Reg.PG_READY_READY.place .rstc, 1), (Reg.PG_READY_READY.place .time, 1), (Reg.PG_READY_READY.place (.tile 25), 1), (Reg.PG_READY_READY.place (.disp 3), 1), (Reg.PG_READY_READY.place (.feng 6), 1), (Reg.QRM_FENCE_DP_MASK.place .qrm, 4), (Reg.WLH_IMG_CTRL_RECOVERY_NEXT.place .wlh, 1), (Reg.TIER_CMD_ADDR_LO_ADDR_LO.place .tier, 1)]) with rst := { pwrGood := true, straps := 5 } },
     by decide +kernel⟩,
   ⟨{ (st [(Reg.PG_READY_READY.place .rstc, 1), (Reg.PG_READY_READY.place .time, 1), (Reg.PG_READY_READY.place (.tile 25), 1), (Reg.PG_READY_READY.place (.disp 3), 1), (Reg.PG_READY_READY.place (.feng 6), 1), (Reg.QRM_FENCE_DP_MASK.place .qrm, 4), (Reg.WLH_IMG_CTRL_RECOVERY_NEXT.place .wlh, 1), (Reg.TIER_CMD_ADDR_LO_ADDR_LO.place .tier, 1), (Reg.TIME_CTRL_MASTER_NODE.place .time, 44)]) with rst := { pwrGood := true, straps := 5 } },
     by decide +kernel⟩,
   ⟨{ (st [(Reg.PG_READY_READY.place .rstc, 1), (Reg.PG_READY_READY.place .time, 1), (Reg.PG_READY_READY.place (.tile 25), 1), (Reg.PG_READY_READY.place (.disp 3), 1), (Reg.PG_READY_READY.place (.feng 6), 1), (Reg.QRM_FENCE_DP_MASK.place .qrm, 4), (Reg.WLH_IMG_CTRL_RECOVERY_NEXT.place .wlh, 1), (Reg.TIER_CMD_ADDR_LO_ADDR_LO.place .tier, 1), (Reg.TIME_CTRL_MASTER.place .time, 1)]) with rst := { pwrGood := true, straps := 5 } },
     by decide +kernel⟩,
   ⟨{ (st [(Reg.PG_READY_READY.place .rstc, 1), (Reg.PG_READY_READY.place .time, 1), (Reg.PG_READY_READY.place (.tile 25), 1), (Reg.PG_READY_READY.place (.disp 3), 1), (Reg.PG_READY_READY.place (.feng 6), 1), (Reg.QRM_FENCE_DP_MASK.place .qrm, 4), (Reg.WLH_IMG_CTRL_RECOVERY_NEXT.place .wlh, 1), (Reg.TIER_CMD_ADDR_LO_ADDR_LO.place .tier, 1)]) with sync := { exchanging := true, everSynced := true }, now := 5000, rst := { pwrGood := true, straps := 5 } },
     10, 600, 620, 30, 590, by decide +kernel⟩,
   ⟨{ (st [(Reg.PG_READY_READY.place .rstc, 1), (Reg.PG_READY_READY.place .time, 1), (Reg.PG_READY_READY.place (.tile 25), 1), (Reg.PG_READY_READY.place (.disp 3), 1), (Reg.PG_READY_READY.place (.feng 6), 1), (Reg.QRM_FENCE_DP_MASK.place .qrm, 4), (Reg.WLH_IMG_CTRL_RECOVERY_NEXT.place .wlh, 1), (Reg.TIER_CMD_ADDR_LO_ADDR_LO.place .tier, 1)]) with sync := { exchanging := true, good := 7 }, now := 5000, rst := { pwrGood := true, straps := 5 } },
     10, 600, 620, 30, 590, by decide +kernel⟩,
   ⟨{ (st [(Reg.PG_READY_READY.place .rstc, 1), (Reg.PG_READY_READY.place .time, 1), (Reg.PG_READY_READY.place (.tile 25), 1), (Reg.PG_READY_READY.place (.disp 3), 1), (Reg.PG_READY_READY.place (.feng 6), 1), (Reg.QRM_FENCE_DP_MASK.place .qrm, 4), (Reg.WLH_IMG_CTRL_RECOVERY_NEXT.place .wlh, 1), (Reg.TIER_CMD_ADDR_LO_ADDR_LO.place .tier, 1)]) with rst := { pwrGood := true, straps := 5 } },
     1, 2, 3, 4, by decide +kernel⟩,
   ⟨{ (st [(Reg.PG_READY_READY.place .rstc, 1), (Reg.PG_READY_READY.place .time, 1), (Reg.PG_READY_READY.place (.tile 25), 1), (Reg.PG_READY_READY.place (.disp 3), 1), (Reg.PG_READY_READY.place (.feng 6), 1), (Reg.QRM_FENCE_DP_MASK.place .qrm, 4), (Reg.WLH_IMG_CTRL_RECOVERY_NEXT.place .wlh, 1), (Reg.TIER_CMD_ADDR_LO_ADDR_LO.place .tier, 1), (Reg.TIME_CTRL_MASTER.place .time, 1)]) with rst := { pwrGood := true, straps := 5 } },
     99, by decide +kernel⟩,
   ⟨{ (st [(Reg.PG_READY_READY.place .rstc, 1), (Reg.PG_READY_READY.place .time, 1), (Reg.PG_READY_READY.place (.tile 25), 1), (Reg.PG_READY_READY.place (.disp 3), 1), (Reg.PG_READY_READY.place (.feng 6), 1), (Reg.QRM_FENCE_DP_MASK.place .qrm, 4), (Reg.WLH_IMG_CTRL_RECOVERY_NEXT.place .wlh, 1), (Reg.TIER_CMD_ADDR_LO_ADDR_LO.place .tier, 1)]) with rst := { pwrGood := true, straps := 5 } },
     99, by decide +kernel⟩,
   ⟨State.reset, 99, by decide +kernel⟩⟩

/-- The hypotheses of TheRomBoots can be met, clause by clause. -/
theorem wit_TheRomBoots :
    (∃ (s : State), s.heldInReset = false ∧ s.ready .wlh = false ∧ (bit s.rst.straps 0 = true ∨ s.flag .wlh
      Reg.WLH_IMG_CTRL_RECOVERY_NEXT = true ∨ s.wlh.flashSize < 16777216 ∨ 67108864 < s.wlh.flashSize)) ∧
    (∃ (s : State) (u : State) (b : Bool), s.heldInReset = false ∧ s.ready .wlh = false ∧ (¬ (bit s.rst.straps 0 =
      true ∨ s.flag .wlh Reg.WLH_IMG_CTRL_RECOVERY_NEXT = true ∨ s.wlh.flashSize < 16777216 ∨ 67108864 <
      s.wlh.flashSize)) ∧ u = (((s.setFld .pin Reg.PIN_FUNC_SPI 1).setFld .wlh Reg.WLH_IMG_CTRL_RECOVERY_NEXT
      0).ledgerShow.dropWriting).mendFlash ∧ (b = (if u.wlh.stA = .trial then false else if u.wlh.stB = .trial then
      true else decide (u.wlh.stA ≠ .confirmed)))) ∧
    (∃ (s : State), (s.heldInReset = true ∨ s.ready .wlh = true)) ∧
    (∃ (s : State), s.wlh.running = true ∧ s.wlh.warned = false ∧ 2 * s.wlh.kicked + s.wdogNs ≤ 2 * s.now) ∧
    (∃ (s : State), (s.wlh.running = false ∨ s.wlh.warned = true ∨ 2 * s.now < 2 * s.wlh.kicked + s.wdogNs)) ∧
    (∃ (s : State), s.wlh.running = true ∧ s.wlh.kicked + s.wdogNs ≤ s.now ∧ s.ledger.writing = [] ∧ (∀ m ∈
      s.tier.migs, m.kind = .localMove)) ∧
    (∃ (s : State), s.wlh.running = true ∧ s.wlh.kicked + s.wdogNs ≤ s.now ∧ s.ledger.writing = []) ∧
    (∃ (s : State), s.wlh.running = true ∧ s.wlh.kicked + s.wdogNs ≤ s.now ∧ s.ledger.writing ≠ []) ∧
    (∃ (s : State), (s.wlh.running = false ∨ s.now < s.wlh.kicked + s.wdogNs)) ∧
    (∃ (s : State) (key : Byte), s.ready .wlh = true ∧ key = 0x4B) ∧
    (∃ (s : State) (key : Byte), (s.ready .wlh = false ∨ key ≠ 0x4B)) ∧
    (∃ (s : State), s.ready .wlh = true ∧ s.wlh.upd ≠ none) ∧
    (∃ (s : State), s.ready .wlh = false) ∧
    (∃ (s : State), s.ready .wlh = true ∧ s.wlh.upd ≠ none) ∧
    (∃ (s : State), s.ready .wlh = false) ∧
    (∃ (s : State), s.ready .wlh = true ∧ s.wlh.upd = none) ∧
    (∃ (s : State), s.ready .wlh = true ∧ s.wlh.upd = none ∧ (¬ (s.wlh.stA ≠ .trial ∧ s.wlh.stA ≠ .writing ∧
      s.wlh.stB ≠ .trial ∧ s.wlh.stB ≠ .writing))) ∧
    (∃ (s : State), s.ready .wlh = true ∧ s.wlh.upd = none ∧ s.wlh.stA ≠ .trial ∧ s.wlh.stA ≠ .writing ∧ s.wlh.stB ≠
      .trial ∧ s.wlh.stB ≠ .writing ∧ s.slotSize < s.fld .wlh Reg.WLH_UPD_LEN_LEN) ∧
    (∃ (s : State), s.ready .wlh = true ∧ s.wlh.upd = none ∧ s.wlh.stA ≠ .trial ∧ s.wlh.stA ≠ .writing ∧ s.wlh.stB ≠
      .trial ∧ s.wlh.stB ≠ .writing ∧ s.fld .wlh Reg.WLH_UPD_LEN_LEN ≤ s.slotSize ∧ s.goodSectors (decide (s.wlh.stA
      = .confirmed)) = [] ∧ s.ledger.closed = false ∧ (s.ledger.append (ledgRec 0x03 0 [])).1.closed = false) ∧
    (∃ (s : State), s.ready .wlh = true ∧ s.wlh.upd = none ∧ s.wlh.stA ≠ .trial ∧ s.wlh.stA ≠ .writing ∧ s.wlh.stB ≠
      .trial ∧ s.wlh.stB ≠ .writing ∧ s.fld .wlh Reg.WLH_UPD_LEN_LEN ≤ s.slotSize ∧ s.ledger.closed = true) ∧
    (∃ (s : State) (b : Bool) (k : Nat) (rest : List Nat), s.ready .wlh = true ∧ s.wlh.upd = none ∧ s.wlh.stA ≠
      .trial ∧ s.wlh.stA ≠ .writing ∧ s.wlh.stB ≠ .trial ∧ s.wlh.stB ≠ .writing ∧ b = (decide (s.wlh.stA =
      .confirmed)) ∧ s.fld .wlh Reg.WLH_UPD_LEN_LEN ≤ s.slotSize ∧ s.goodSectors b = k :: rest ∧ s.ledger.closed =
      false) ∧
    (∃ (s : State) (u : Upd), (s.wlh.upd = some u) ∧ u.recovery = false ∧ u.result ≠ 0 ∧ u.result < 256 ∧ u.boot =
      false) ∧
    (∃ (s : State) (u : Upd), (s.wlh.upd = some u) ∧ u.recovery = false ∧ u.result = 0 ∧ u.install = false ∧ u.boot =
      false) ∧
    (∃ (s : State) (u : Upd) (code : Nat), (s.wlh.upd = some u) ∧ u.recovery = false ∧ u.result = 0 ∧ u.install =
      true ∧ u.boot = false ∧ u.len ≤ u.done ∧ s.ledger.closed = false ∧ code = checkImage s.fuses s.slotSize
      ((s.slotBytes u.slotB).take u.len)) ∧
    (∃ (s : State) (u : Upd), (s.wlh.upd = some u) ∧ u.recovery = true ∧ (u.install = false ∨ u.result ≠ 0)) ∧
    (∃ (s : State), (s.wlh.upd.all (fun u => u.install && u.result == 0 && decide (u.done < u.len)) = true)) ∧
    (∃ (s : State) (b : Bool), s.ready .wlh = true ∧ s.wlh.running = true ∧ b = s.wlh.bootB ∧ s.img b = .trial ∧
      s.ledger.closed = false) ∧
    (∃ (s : State), s.ready .wlh = true ∧ (s.wlh.running = false ∨ s.img s.wlh.bootB ≠ .trial)) ∧
    (∃ (s : State), (s.ready .wlh = false ∨ s.wlh.running = true ∧ s.img s.wlh.bootB = .trial ∧ s.ledger.closed =
      true)) :=
  ⟨⟨{ (st [(Reg.PG_READY_READY.place .uart, 1), (Reg.PG_READY_READY.place .ledg, 1), (Reg.UART_CTRL_TX_EN.place .uart, 1), (Reg.UART_CTRL_RX_EN.place .uart, 1), (Reg.PIN_FUNC_UART.place .pin, 1), (Reg.WLH_IMG_CTRL_RECOVERY_NEXT.place .wlh, 1), (Reg.PG_READY_READY.place .tier, 1)]) with wlh := { flashSize := 16777216, stA := .confirmed }, rst := { pwrGood := true } },
     by decide +kernel⟩,
   ⟨{ (st [(Reg.PG_READY_READY.place .uart, 1), (Reg.PG_READY_READY.place .ledg, 1), (Reg.UART_CTRL_TX_EN.place .uart, 1), (Reg.UART_CTRL_RX_EN.place .uart, 1), (Reg.PIN_FUNC_UART.place .pin, 1)]) with wlh := { flashSize := 16777216, stA := .retired, stB := .writing }, rst := { pwrGood := true } },
     (let s :=
     { (st [(Reg.PG_READY_READY.place .uart, 1), (Reg.PG_READY_READY.place .ledg, 1), (Reg.UART_CTRL_TX_EN.place .uart, 1), (Reg.UART_CTRL_RX_EN.place .uart, 1), (Reg.PIN_FUNC_UART.place .pin, 1)]) with wlh := { flashSize := 16777216, stA := .retired, stB := .writing }, rst := { pwrGood := true } };
     (((s.setFld .pin Reg.PIN_FUNC_SPI 1).setFld .wlh Reg.WLH_IMG_CTRL_RECOVERY_NEXT
     0).ledgerShow.dropWriting).mendFlash), true, by decide +kernel⟩,
   ⟨State.reset, by decide +kernel⟩,
   ⟨{ (st [(Reg.PG_READY_READY.place .uart, 1), (Reg.PG_READY_READY.place .ledg, 1), (Reg.UART_CTRL_TX_EN.place .uart, 1), (Reg.UART_CTRL_RX_EN.place .uart, 1), (Reg.PIN_FUNC_UART.place .pin, 1)]) with wlh := { flashSize := 16777216, running := true, kicked := 5 }, now := 100000000000, rst := { pwrGood := true } },
     by decide +kernel⟩,
   ⟨{ (st [(Reg.PG_READY_READY.place .uart, 1), (Reg.PG_READY_READY.place .ledg, 1), (Reg.UART_CTRL_TX_EN.place .uart, 1), (Reg.UART_CTRL_RX_EN.place .uart, 1), (Reg.PIN_FUNC_UART.place .pin, 1)]) with wlh := { flashSize := 16777216, running := true, kicked := 5 }, rst := { pwrGood := true } },
     by decide +kernel⟩,
   ⟨{ (st [(Reg.PG_READY_READY.place .uart, 1), (Reg.PG_READY_READY.place .ledg, 1), (Reg.UART_CTRL_TX_EN.place .uart, 1), (Reg.UART_CTRL_RX_EN.place .uart, 1), (Reg.PIN_FUNC_UART.place .pin, 1)]) with wlh := { flashSize := 16777216, running := true, kicked := 5 }, now := 100000000000, rst := { pwrGood := true } },
     by decide +kernel⟩,
   ⟨{ (st [(Reg.PG_READY_READY.place .uart, 1), (Reg.PG_READY_READY.place .ledg, 1), (Reg.UART_CTRL_TX_EN.place .uart, 1), (Reg.UART_CTRL_RX_EN.place .uart, 1), (Reg.PIN_FUNC_UART.place .pin, 1)]) with wlh := { flashSize := 16777216, running := true, kicked := 5 }, now := 100000000000, rst := { pwrGood := true } },
     by decide +kernel⟩,
   ⟨{ (st [(Reg.PG_READY_READY.place .uart, 1), (Reg.PG_READY_READY.place .ledg, 1), (Reg.UART_CTRL_TX_EN.place .uart, 1), (Reg.UART_CTRL_RX_EN.place .uart, 1), (Reg.PIN_FUNC_UART.place .pin, 1)]) with wlh := { flashSize := 16777216, running := true, kicked := 5 }, now := 100000000000, ledger := { writing := [1] }, rst := { pwrGood := true } },
     by decide +kernel⟩,
   ⟨{ (st [(Reg.PG_READY_READY.place .uart, 1), (Reg.PG_READY_READY.place .ledg, 1), (Reg.UART_CTRL_TX_EN.place .uart, 1), (Reg.UART_CTRL_RX_EN.place .uart, 1), (Reg.PIN_FUNC_UART.place .pin, 1)]) with rst := { pwrGood := true } },
     by decide +kernel⟩,
   ⟨{ (st [(Reg.PG_READY_READY.place .uart, 1), (Reg.PG_READY_READY.place .ledg, 1), (Reg.UART_CTRL_TX_EN.place .uart, 1), (Reg.UART_CTRL_RX_EN.place .uart, 1), (Reg.PIN_FUNC_UART.place .pin, 1), (Reg.PG_READY_READY.place .wlh, 1)]) with wlh := { flashSize := 16777216, running := true, kicked := 5, warned := true }, now := 44, rst := { pwrGood := true } },
     0x4B, by decide +kernel⟩,
   ⟨{ (st [(Reg.PG_READY_READY.place .uart, 1), (Reg.PG_READY_READY.place .ledg, 1), (Reg.UART_CTRL_TX_EN.place .uart, 1), (Reg.UART_CTRL_RX_EN.place .uart, 1), (Reg.PIN_FUNC_UART.place .pin, 1)]) with rst := { pwrGood := true } },
     0x4A, by decide +kernel⟩,
   ⟨{ (st [(Reg.PG_READY_READY.place .uart, 1), (Reg.PG_READY_READY.place .ledg, 1), (Reg.UART_CTRL_TX_EN.place .uart, 1), (Reg.UART_CTRL_RX_EN.place .uart, 1), (Reg.PIN_FUNC_UART.place .pin, 1), (Reg.PG_READY_READY.place .wlh, 1)]) with wlh := { flashSize := 16777216, upd := some { install := false, len := 3 } }, rst := { pwrGood := true } },
     by decide +kernel⟩,
   ⟨{ (st [(Reg.PG_READY_READY.place .uart, 1), (Reg.PG_READY_READY.place .ledg, 1), (Reg.UART_CTRL_TX_EN.place .uart, 1), (Reg.UART_CTRL_RX_EN.place .uart, 1), (Reg.PIN_FUNC_UART.place .pin, 1)]) with rst := { pwrGood := true } },
     by decide +kernel⟩,
   ⟨{ (st [(Reg.PG_READY_READY.place .uart, 1), (Reg.PG_READY_READY.place .ledg, 1), (Reg.UART_CTRL_TX_EN.place .uart, 1), (Reg.UART_CTRL_RX_EN.place .uart, 1), (Reg.PIN_FUNC_UART.place .pin, 1), (Reg.PG_READY_READY.place .wlh, 1)]) with wlh := { flashSize := 16777216, upd := some { install := false, len := 3 } }, rst := { pwrGood := true } },
     by decide +kernel⟩,
   ⟨{ (st [(Reg.PG_READY_READY.place .uart, 1), (Reg.PG_READY_READY.place .ledg, 1), (Reg.UART_CTRL_TX_EN.place .uart, 1), (Reg.UART_CTRL_RX_EN.place .uart, 1), (Reg.PIN_FUNC_UART.place .pin, 1)]) with rst := { pwrGood := true } },
     by decide +kernel⟩,
   ⟨{ (st [(Reg.PG_READY_READY.place .uart, 1), (Reg.PG_READY_READY.place .ledg, 1), (Reg.UART_CTRL_TX_EN.place .uart, 1), (Reg.UART_CTRL_RX_EN.place .uart, 1), (Reg.PIN_FUNC_UART.place .pin, 1), (Reg.PG_READY_READY.place .wlh, 1), (Reg.WLH_UPD_LEN_LEN.place .wlh, 600)]) with wlh := { flashSize := 16777216 }, rst := { pwrGood := true } },
     by decide +kernel⟩,
   ⟨{ (st [(Reg.PG_READY_READY.place .uart, 1), (Reg.PG_READY_READY.place .ledg, 1), (Reg.UART_CTRL_TX_EN.place .uart, 1), (Reg.UART_CTRL_RX_EN.place .uart, 1), (Reg.PIN_FUNC_UART.place .pin, 1), (Reg.PG_READY_READY.place .wlh, 1)]) with wlh := { flashSize := 16777216, stB := .trial }, rst := { pwrGood := true } },
     by decide +kernel⟩,
   ⟨{ (st [(Reg.PG_READY_READY.place .uart, 1), (Reg.PG_READY_READY.place .ledg, 1), (Reg.UART_CTRL_TX_EN.place .uart, 1), (Reg.UART_CTRL_RX_EN.place .uart, 1), (Reg.PIN_FUNC_UART.place .pin, 1), (Reg.PG_READY_READY.place .wlh, 1), (Reg.WLH_UPD_LEN_LEN.place .wlh, 6300000)]) with wlh := { flashSize := 16777216 }, rst := { pwrGood := true } },
     by decide +kernel⟩,
   ⟨{ (st [(Reg.PG_READY_READY.place .uart, 1), (Reg.PG_READY_READY.place .ledg, 1), (Reg.UART_CTRL_TX_EN.place .uart, 1), (Reg.UART_CTRL_RX_EN.place .uart, 1), (Reg.PIN_FUNC_UART.place .pin, 1), (Reg.PG_READY_READY.place .wlh, 1), (Reg.WLH_UPD_LEN_LEN.place .wlh, 600)]) with wlh := { flashSize := 16777216, sectors := ((List.range 96).map fun k => (k, ({ retired := true } : Sector))) }, rst := { pwrGood := true } },
     by decide +kernel⟩,
   ⟨{ (st [(Reg.PG_READY_READY.place .uart, 1), (Reg.PG_READY_READY.place .ledg, 1), (Reg.UART_CTRL_TX_EN.place .uart, 1), (Reg.UART_CTRL_RX_EN.place .uart, 1), (Reg.PIN_FUNC_UART.place .pin, 1), (Reg.PG_READY_READY.place .wlh, 1), (Reg.WLH_UPD_LEN_LEN.place .wlh, 600)]) with wlh := { flashSize := 16777216 }, ledger := { readOnly := true }, rst := { pwrGood := true } },
     by decide +kernel⟩,
   ⟨{ (st [(Reg.PG_READY_READY.place .uart, 1), (Reg.PG_READY_READY.place .ledg, 1), (Reg.UART_CTRL_TX_EN.place .uart, 1), (Reg.UART_CTRL_RX_EN.place .uart, 1), (Reg.PIN_FUNC_UART.place .pin, 1), (Reg.PG_READY_READY.place .wlh, 1), (Reg.WLH_UPD_LEN_LEN.place .wlh, 600)]) with wlh := { flashSize := 16777216, stA := .confirmed, sectors := [(96, { retired := true })] }, rst := { pwrGood := true } },
     true, 97, ((List.range 94).map (· + 98)), by decide +kernel⟩,
   ⟨{ (st [(Reg.PG_READY_READY.place .uart, 1), (Reg.PG_READY_READY.place .ledg, 1), (Reg.UART_CTRL_TX_EN.place .uart, 1), (Reg.UART_CTRL_RX_EN.place .uart, 1), (Reg.PIN_FUNC_UART.place .pin, 1), (Reg.PG_READY_READY.place .wlh, 1)]) with wlh := { flashSize := 16777216, upd := some { install := true, len := 3, result := 7 } }, rst := { pwrGood := true } },
     { install := true, len := 3, result := 7 }, by decide +kernel⟩,
   ⟨{ (st [(Reg.PG_READY_READY.place .uart, 1), (Reg.PG_READY_READY.place .ledg, 1), (Reg.UART_CTRL_TX_EN.place .uart, 1), (Reg.UART_CTRL_RX_EN.place .uart, 1), (Reg.PIN_FUNC_UART.place .pin, 1), (Reg.PG_READY_READY.place .wlh, 1)]) with wlh := { flashSize := 16777216, upd := some { install := false, len := 64 } }, rst := { pwrGood := true } },
     { install := false, len := 64 }, by decide +kernel⟩,
   ⟨{ (st [(Reg.PG_READY_READY.place .uart, 1), (Reg.PG_READY_READY.place .ledg, 1), (Reg.UART_CTRL_TX_EN.place .uart, 1), (Reg.UART_CTRL_RX_EN.place .uart, 1), (Reg.PIN_FUNC_UART.place .pin, 1), (Reg.PG_READY_READY.place .wlh, 1)]) with wlh := { flashSize := 16777216, stA := .writing, upd := some { install := true, len := 64, done := 64 }, sectors := ((List.range 96).map fun k => (k, ({ retired := true } : Sector))) }, rst := { pwrGood := true } },
     { install := true, len := 64, done := 64 }, 2, by decide +kernel⟩,
   ⟨{ (st [(Reg.PG_READY_READY.place .uart, 1), (Reg.PG_READY_READY.place .ledg, 1), (Reg.UART_CTRL_TX_EN.place .uart, 1), (Reg.UART_CTRL_RX_EN.place .uart, 1), (Reg.PIN_FUNC_UART.place .pin, 1), (Reg.PG_READY_READY.place .wlh, 1), (Reg.WLH_STAT_RECOVERY.place .wlh, 1)]) with wlh := { flashSize := 16777216, upd := some { install := false, boot := true, recovery := true, len := 64, seq := some 4 } }, rst := { pwrGood := true } },
     { install := false, boot := true, recovery := true, len := 64, seq := some 4 }, by decide +kernel⟩,
   ⟨{ (st [(Reg.PG_READY_READY.place .uart, 1), (Reg.PG_READY_READY.place .ledg, 1), (Reg.UART_CTRL_TX_EN.place .uart, 1), (Reg.UART_CTRL_RX_EN.place .uart, 1), (Reg.PIN_FUNC_UART.place .pin, 1)]) with wlh := { flashSize := 16777216, upd := some { install := true, len := 3 } }, rst := { pwrGood := true } },
     by decide +kernel⟩,
   ⟨{ (st [(Reg.PG_READY_READY.place .uart, 1), (Reg.PG_READY_READY.place .ledg, 1), (Reg.UART_CTRL_TX_EN.place .uart, 1), (Reg.UART_CTRL_RX_EN.place .uart, 1), (Reg.PIN_FUNC_UART.place .pin, 1), (Reg.PG_READY_READY.place .wlh, 1)]) with wlh := { flashSize := 16777216, running := true, bootB := true, stA := .confirmed, stB := .trial }, rst := { pwrGood := true } },
     true, by decide +kernel⟩,
   ⟨{ (st [(Reg.PG_READY_READY.place .uart, 1), (Reg.PG_READY_READY.place .ledg, 1), (Reg.UART_CTRL_TX_EN.place .uart, 1), (Reg.UART_CTRL_RX_EN.place .uart, 1), (Reg.PIN_FUNC_UART.place .pin, 1), (Reg.PG_READY_READY.place .wlh, 1)]) with wlh := { flashSize := 16777216, running := true, stA := .confirmed }, rst := { pwrGood := true } },
     by decide +kernel⟩,
   ⟨{ (st [(Reg.PG_READY_READY.place .uart, 1), (Reg.PG_READY_READY.place .ledg, 1), (Reg.UART_CTRL_TX_EN.place .uart, 1), (Reg.UART_CTRL_RX_EN.place .uart, 1), (Reg.PIN_FUNC_UART.place .pin, 1)]) with rst := { pwrGood := true } },
     by decide +kernel⟩⟩

/-- The hypotheses of RecoveryAnswers can be met, clause by clause. -/
theorem wit_RecoveryAnswers :
    (∃ (s : State), s.recovery = true ∧ s.wlh.upd ≠ none) ∧
    (∃ (s : State), s.recovery = true ∧ s.wlh.upd = none) ∧
    (∃ (s : State), s.recovery = true ∧ s.wlh.upd ≠ none) ∧
    (∃ (s : State), s.recovery = true ∧ s.wlh.upd ≠ none) ∧
    (∃ (s : State), s.recovery = true ∧ s.wlh.upd = none) ∧
    (∃ (s : State), s.recovery = true ∧ s.wlh.upd = none ∧ (¬ (s.wlh.stA ≠ .trial ∧ s.wlh.stA ≠ .writing ∧ s.wlh.stB
      ≠ .trial ∧ s.wlh.stB ≠ .writing))) ∧
    (∃ (s : State), s.recovery = true ∧ s.wlh.upd = none ∧ s.wlh.stA ≠ .trial ∧ s.wlh.stA ≠ .writing ∧ s.wlh.stB ≠
      .trial ∧ s.wlh.stB ≠ .writing ∧ (min s.slotSize 32505856) < s.wlh.rcvLen) ∧
    (∃ (s : State) (b : Bool) (k : Nat) (rest : List Nat), s.recovery = true ∧ s.wlh.upd = none ∧ s.wlh.stA ≠ .trial
      ∧ s.wlh.stA ≠ .writing ∧ s.wlh.stB ≠ .trial ∧ s.wlh.stB ≠ .writing ∧ b = (decide (s.wlh.stA = .confirmed)) ∧
      s.wlh.rcvLen ≤ (min s.slotSize 32505856) ∧ s.goodSectors b = k :: rest ∧ s.ledger.closed = false) ∧
    (∃ (s : State) (q : Byte), s.recovery = false) ∧
    (∃ (s : State) (q : Byte) (o : Nat) (b : List Byte), s.recovery = true) ∧
    (∃ (s : State) (q : Byte) (o : Nat) (b : List Byte), s.recovery = true ∧ (s.wlh.lastSeq = some q)) ∧
    (∃ (s : State) (q : Byte) (n : Word), s.recovery = true) ∧
    (∃ (s : State) (q : Byte) (n : Word), s.recovery = true ∧ (s.wlh.lastSeq = some q)) ∧
    (∃ (s : State) (q : Byte) (op : Byte), s.recovery = true) ∧
    (∃ (s : State) (q : Byte) (op : Byte), s.recovery = true ∧ (s.wlh.lastSeq = some q)) ∧
    (∃ (s : State) (q : Byte), s.recovery = true) ∧
    (∃ (s : State) (q : Byte), s.recovery = true ∧ (s.wlh.lastSeq = some q)) ∧
    (∃ (s : State) (q : Byte) (o : Nat) (b : List Byte), s.recovery = true ∧ (s.wlh.lastSeq ≠ some q) ∧ o + b.length
      ≤ 32505856) ∧
    (∃ (s : State) (q : Byte) (o : Nat) (b : List Byte), s.recovery = true ∧ (s.wlh.lastSeq ≠ some q) ∧ 32505856 < o
      + b.length) ∧
    (∃ (s : State) (q : Byte) (n : Word), s.recovery = true ∧ (s.wlh.lastSeq ≠ some q)) ∧
    (∃ (s : State) (q : Byte), s.recovery = true ∧ (s.wlh.lastSeq ≠ some q)) ∧
    (∃ (s : State) (q : Byte) (op : Byte), s.recovery = true ∧ (s.wlh.lastSeq ≠ some q) ∧ (op = 1 ∨ op = 3) ∧
      s.wlh.upd = none) ∧
    (∃ (s : State) (q : Byte) (op : Byte) (b : Bool) (k : Nat) (rest : List Nat), s.recovery = true ∧ (s.wlh.lastSeq
      ≠ some q) ∧ op = 2 ∧ s.wlh.upd = none ∧ s.wlh.stA ≠ .trial ∧ s.wlh.stA ≠ .writing ∧ s.wlh.stB ≠ .trial ∧
      s.wlh.stB ≠ .writing ∧ b = (decide (s.wlh.stA = .confirmed)) ∧ s.wlh.rcvLen ≤ (min s.slotSize 32505856) ∧
      s.goodSectors b = k :: rest ∧ s.ledger.closed = false) ∧
    (∃ (s : State) (q : Byte) (op : Byte), s.recovery = true ∧ (s.wlh.lastSeq ≠ some q) ∧ (op = 1 ∨ op = 2 ∨ op = 3)
      ∧ s.wlh.upd ≠ none) ∧
    (∃ (s : State) (q : Byte) (op : Byte), s.recovery = true ∧ (s.wlh.lastSeq ≠ some q) ∧ op ≠ 1 ∧ op ≠ 2 ∧ op ≠ 3) :=
  ⟨⟨{ (st [(Reg.PG_READY_READY.place .uart, 1), (Reg.PG_READY_READY.place .ledg, 1), (Reg.UART_CTRL_TX_EN.place .uart, 1), (Reg.UART_CTRL_RX_EN.place .uart, 1), (Reg.PIN_FUNC_UART.place .pin, 1), (Reg.WLH_STAT_RECOVERY.place .wlh, 1)]) with wlh := { flashSize := 16777216, upd := some { install := false, len := 3 } }, rst := { pwrGood := true } },
     by decide +kernel⟩,
   ⟨{ (st [(Reg.PG_READY_READY.place .uart, 1), (Reg.PG_READY_READY.place .ledg, 1), (Reg.UART_CTRL_TX_EN.place .uart, 1), (Reg.UART_CTRL_RX_EN.place .uart, 1), (Reg.PIN_FUNC_UART.place .pin, 1), (Reg.WLH_STAT_RECOVERY.place .wlh, 1)]) with wlh := { flashSize := 16777216, rcvLen := 600 }, rst := { pwrGood := true } },
     by decide +kernel⟩,
   ⟨{ (st [(Reg.PG_READY_READY.place .uart, 1), (Reg.PG_READY_READY.place .ledg, 1), (Reg.UART_CTRL_TX_EN.place .uart, 1), (Reg.UART_CTRL_RX_EN.place .uart, 1), (Reg.PIN_FUNC_UART.place .pin, 1), (Reg.WLH_STAT_RECOVERY.place .wlh, 1)]) with wlh := { flashSize := 16777216, upd := some { install := false, len := 3 } }, rst := { pwrGood := true } },
     by decide +kernel⟩,
   ⟨{ (st [(Reg.PG_READY_READY.place .uart, 1), (Reg.PG_READY_READY.place .ledg, 1), (Reg.UART_CTRL_TX_EN.place .uart, 1), (Reg.UART_CTRL_RX_EN.place .uart, 1), (Reg.PIN_FUNC_UART.place .pin, 1), (Reg.WLH_STAT_RECOVERY.place .wlh, 1)]) with wlh := { flashSize := 16777216, upd := some { install := false, len := 3 } }, rst := { pwrGood := true } },
     by decide +kernel⟩,
   ⟨{ (st [(Reg.PG_READY_READY.place .uart, 1), (Reg.PG_READY_READY.place .ledg, 1), (Reg.UART_CTRL_TX_EN.place .uart, 1), (Reg.UART_CTRL_RX_EN.place .uart, 1), (Reg.PIN_FUNC_UART.place .pin, 1), (Reg.WLH_STAT_RECOVERY.place .wlh, 1)]) with wlh := { flashSize := 16777216, rcvLen := 600 }, rst := { pwrGood := true } },
     by decide +kernel⟩,
   ⟨{ (st [(Reg.PG_READY_READY.place .uart, 1), (Reg.PG_READY_READY.place .ledg, 1), (Reg.UART_CTRL_TX_EN.place .uart, 1), (Reg.UART_CTRL_RX_EN.place .uart, 1), (Reg.PIN_FUNC_UART.place .pin, 1), (Reg.WLH_STAT_RECOVERY.place .wlh, 1)]) with wlh := { flashSize := 16777216, stB := .trial }, rst := { pwrGood := true } },
     by decide +kernel⟩,
   ⟨{ (st [(Reg.PG_READY_READY.place .uart, 1), (Reg.PG_READY_READY.place .ledg, 1), (Reg.UART_CTRL_TX_EN.place .uart, 1), (Reg.UART_CTRL_RX_EN.place .uart, 1), (Reg.PIN_FUNC_UART.place .pin, 1), (Reg.WLH_STAT_RECOVERY.place .wlh, 1)]) with wlh := { flashSize := 16777216, rcvLen := 40000000 }, rst := { pwrGood := true } },
     by decide +kernel⟩,
   ⟨{ (st [(Reg.PG_READY_READY.place .uart, 1), (Reg.PG_READY_READY.place .ledg, 1), (Reg.UART_CTRL_TX_EN.place .uart, 1), (Reg.UART_CTRL_RX_EN.place .uart, 1), (Reg.PIN_FUNC_UART.place .pin, 1), (Reg.WLH_STAT_RECOVERY.place .wlh, 1)]) with wlh := { flashSize := 16777216, rcvLen := 600 }, rst := { pwrGood := true } },
     false, 0, ((List.range 95).map (· + 1)), by decide +kernel⟩,
   ⟨{ (st [(Reg.PG_READY_READY.place .uart, 1), (Reg.PG_READY_READY.place .ledg, 1), (Reg.UART_CTRL_TX_EN.place .uart, 1), (Reg.UART_CTRL_RX_EN.place .uart, 1), (Reg.PIN_FUNC_UART.place .pin, 1)]) with rst := { pwrGood := true } },
     3, by decide +kernel⟩,
   ⟨{ (st [(Reg.PG_READY_READY.place .uart, 1), (Reg.PG_READY_READY.place .ledg, 1), (Reg.UART_CTRL_TX_EN.place .uart, 1), (Reg.UART_CTRL_RX_EN.place .uart, 1), (Reg.PIN_FUNC_UART.place .pin, 1), (Reg.WLH_STAT_RECOVERY.place .wlh, 1)]) with uart := { frame := [1, 2] }, rst := { pwrGood := true } },
     3, 0, [1], by decide +kernel⟩,
   ⟨{ (st [(Reg.PG_READY_READY.place .uart, 1), (Reg.PG_READY_READY.place .ledg, 1), (Reg.UART_CTRL_TX_EN.place .uart, 1), (Reg.UART_CTRL_RX_EN.place .uart, 1), (Reg.PIN_FUNC_UART.place .pin, 1), (Reg.WLH_STAT_RECOVERY.place .wlh, 1)]) with wlh := { flashSize := 16777216, lastSeq := some 3, lastAns := 7 }, rst := { pwrGood := true } },
     3, 0, [1], by decide +kernel⟩,
   ⟨{ (st [(Reg.PG_READY_READY.place .uart, 1), (Reg.PG_READY_READY.place .ledg, 1), (Reg.UART_CTRL_TX_EN.place .uart, 1), (Reg.UART_CTRL_RX_EN.place .uart, 1), (Reg.PIN_FUNC_UART.place .pin, 1), (Reg.WLH_STAT_RECOVERY.place .wlh, 1)]) with uart := { frame := [1, 2] }, rst := { pwrGood := true } },
     3, 5, by decide +kernel⟩,
   ⟨{ (st [(Reg.PG_READY_READY.place .uart, 1), (Reg.PG_READY_READY.place .ledg, 1), (Reg.UART_CTRL_TX_EN.place .uart, 1), (Reg.UART_CTRL_RX_EN.place .uart, 1), (Reg.PIN_FUNC_UART.place .pin, 1), (Reg.WLH_STAT_RECOVERY.place .wlh, 1)]) with wlh := { flashSize := 16777216, lastSeq := some 3, lastAns := 7 }, rst := { pwrGood := true } },
     3, 5, by decide +kernel⟩,
   ⟨{ (st [(Reg.PG_READY_READY.place .uart, 1), (Reg.PG_READY_READY.place .ledg, 1), (Reg.UART_CTRL_TX_EN.place .uart, 1), (Reg.UART_CTRL_RX_EN.place .uart, 1), (Reg.PIN_FUNC_UART.place .pin, 1), (Reg.WLH_STAT_RECOVERY.place .wlh, 1)]) with uart := { frame := [1, 2] }, rst := { pwrGood := true } },
     3, 1, by decide +kernel⟩,
   ⟨{ (st [(Reg.PG_READY_READY.place .uart, 1), (Reg.PG_READY_READY.place .ledg, 1), (Reg.UART_CTRL_TX_EN.place .uart, 1), (Reg.UART_CTRL_RX_EN.place .uart, 1), (Reg.PIN_FUNC_UART.place .pin, 1), (Reg.WLH_STAT_RECOVERY.place .wlh, 1)]) with wlh := { flashSize := 16777216, lastSeq := some 3, lastAns := 7 }, rst := { pwrGood := true } },
     3, 1, by decide +kernel⟩,
   ⟨{ (st [(Reg.PG_READY_READY.place .uart, 1), (Reg.PG_READY_READY.place .ledg, 1), (Reg.UART_CTRL_TX_EN.place .uart, 1), (Reg.UART_CTRL_RX_EN.place .uart, 1), (Reg.PIN_FUNC_UART.place .pin, 1), (Reg.WLH_STAT_RECOVERY.place .wlh, 1)]) with uart := { frame := [1, 2] }, rst := { pwrGood := true } },
     3, by decide +kernel⟩,
   ⟨{ (st [(Reg.PG_READY_READY.place .uart, 1), (Reg.PG_READY_READY.place .ledg, 1), (Reg.UART_CTRL_TX_EN.place .uart, 1), (Reg.UART_CTRL_RX_EN.place .uart, 1), (Reg.PIN_FUNC_UART.place .pin, 1), (Reg.WLH_STAT_RECOVERY.place .wlh, 1)]) with wlh := { flashSize := 16777216, lastSeq := some 3, lastAns := 7 }, rst := { pwrGood := true } },
     3, by decide +kernel⟩,
   ⟨{ (st [(Reg.PG_READY_READY.place .uart, 1), (Reg.PG_READY_READY.place .ledg, 1), (Reg.UART_CTRL_TX_EN.place .uart, 1), (Reg.UART_CTRL_RX_EN.place .uart, 1), (Reg.PIN_FUNC_UART.place .pin, 1), (Reg.WLH_STAT_RECOVERY.place .wlh, 1)]) with wlh := { flashSize := 16777216 }, rst := { pwrGood := true } },
     3, 0, [1], by decide +kernel⟩,
   ⟨{ (st [(Reg.PG_READY_READY.place .uart, 1), (Reg.PG_READY_READY.place .ledg, 1), (Reg.UART_CTRL_TX_EN.place .uart, 1), (Reg.UART_CTRL_RX_EN.place .uart, 1), (Reg.PIN_FUNC_UART.place .pin, 1), (Reg.WLH_STAT_RECOVERY.place .wlh, 1)]) with wlh := { flashSize := 16777216 }, rst := { pwrGood := true } },
     3, 32505856, [1], by decide +kernel⟩,
   ⟨{ (st [(Reg.PG_READY_READY.place .uart, 1), (Reg.PG_READY_READY.place .ledg, 1), (Reg.UART_CTRL_TX_EN.place .uart, 1), (Reg.UART_CTRL_RX_EN.place .uart, 1), (Reg.PIN_FUNC_UART.place .pin, 1), (Reg.WLH_STAT_RECOVERY.place .wlh, 1)]) with wlh := { flashSize := 16777216 }, rst := { pwrGood := true } },
     3, 500, by decide +kernel⟩,
   ⟨{ (st [(Reg.PG_READY_READY.place .uart, 1), (Reg.PG_READY_READY.place .ledg, 1), (Reg.UART_CTRL_TX_EN.place .uart, 1), (Reg.UART_CTRL_RX_EN.place .uart, 1), (Reg.PIN_FUNC_UART.place .pin, 1), (Reg.WLH_STAT_RECOVERY.place .wlh, 1)]) with wlh := { flashSize := 16777216, rcvResult := 6 }, rst := { pwrGood := true } },
     3, by decide +kernel⟩,
   ⟨{ (st [(Reg.PG_READY_READY.place .uart, 1), (Reg.PG_READY_READY.place .ledg, 1), (Reg.UART_CTRL_TX_EN.place .uart, 1), (Reg.UART_CTRL_RX_EN.place .uart, 1), (Reg.PIN_FUNC_UART.place .pin, 1), (Reg.WLH_STAT_RECOVERY.place .wlh, 1)]) with wlh := { flashSize := 16777216, rcvLen := 600 }, rst := { pwrGood := true } },
     3, 3, by decide +kernel⟩,
   ⟨{ (st [(Reg.PG_READY_READY.place .uart, 1), (Reg.PG_READY_READY.place .ledg, 1), (Reg.UART_CTRL_TX_EN.place .uart, 1), (Reg.UART_CTRL_RX_EN.place .uart, 1), (Reg.PIN_FUNC_UART.place .pin, 1), (Reg.WLH_STAT_RECOVERY.place .wlh, 1)]) with wlh := { flashSize := 16777216, rcvLen := 600 }, rst := { pwrGood := true } },
     3, 2, false, 0, ((List.range 95).map (· + 1)), by decide +kernel⟩,
   ⟨{ (st [(Reg.PG_READY_READY.place .uart, 1), (Reg.PG_READY_READY.place .ledg, 1), (Reg.UART_CTRL_TX_EN.place .uart, 1), (Reg.UART_CTRL_RX_EN.place .uart, 1), (Reg.PIN_FUNC_UART.place .pin, 1), (Reg.WLH_STAT_RECOVERY.place .wlh, 1)]) with wlh := { flashSize := 16777216, upd := some { install := false, len := 3 } }, rst := { pwrGood := true } },
     3, 2, by decide +kernel⟩,
   ⟨{ (st [(Reg.PG_READY_READY.place .uart, 1), (Reg.PG_READY_READY.place .ledg, 1), (Reg.UART_CTRL_TX_EN.place .uart, 1), (Reg.UART_CTRL_RX_EN.place .uart, 1), (Reg.PIN_FUNC_UART.place .pin, 1), (Reg.WLH_STAT_RECOVERY.place .wlh, 1)]) with wlh := { flashSize := 16777216 }, rst := { pwrGood := true } },
     3, 4, by decide +kernel⟩⟩

/-- The hypotheses of LedgerFlashAndUartWork can be met, clause by clause. -/
theorem wit_LedgerFlashAndUartWork :
    (∃ (s : State) (by_ : Requester) (ty : Byte) (key : Nat), s.ready .ledg = true ∧ by_ = .host) ∧
    (∃ (s : State) (by_ : Requester) (ty : Byte) (key : Nat), s.ready .ledg = true ∧ by_ ≠ .host ∧ s.flag .ledg
      Reg.LEDG_WR_CMD_BUSY = false ∧ s.ledger.readOnly = true) ∧
    (∃ (s : State) (by_ : Requester) (ty : Byte) (key : Nat), s.ready .ledg = true ∧ by_ ≠ .host ∧ s.flag .ledg
      Reg.LEDG_WR_CMD_BUSY = false ∧ s.ledger.readOnly = false ∧ s.ledger.closed = true) ∧
    (∃ (s : State) (by_ : Requester) (ty : Byte) (key : Nat), s.ready .ledg = true ∧ by_ ≠ .host ∧ s.flag .ledg
      Reg.LEDG_WR_CMD_BUSY = false ∧ s.ledger.closed = false ∧ ty.toNat ∉ ledgTypes) ∧
    (∃ (s : State) (by_ : Requester) (ty : Byte) (key : Nat), s.ready .ledg = true ∧ by_ ≠ .host ∧ s.flag .ledg
      Reg.LEDG_WR_CMD_BUSY = false ∧ s.ledger.closed = false ∧ ty.toNat ∈ ledgTypes) ∧
    (∃ (s : State) (by_ : Requester) (ty : Byte) (key : Nat), (s.ready .ledg = false ∨ by_ ≠ .host ∧ s.flag .ledg
      Reg.LEDG_WR_CMD_BUSY = true)) ∧
    (∃ (s : State) (f : Nat) (r : BitVec 1024), s.ledger.writing = [r] ∧ s.rst.waiting = none ∧ s.ledger.closed =
      false ∧ (recKey r).1 ≠ 3 ∧ s.flag .ledg Reg.LEDG_WR_CMD_BUSY = true ∧ (f < 4 ∨ f = 4 ∧ s.ledger.spares ≠ 0) ∧
      s.ledger.recs.length < 1728) ∧
    (∃ (s : State) (f : Nat) (r : BitVec 1024), s.ledger.writing = [r] ∧ s.rst.waiting = none ∧ s.ledger.closed =
      false ∧ (recKey r).1 ≠ 3 ∧ s.flag .ledg Reg.LEDG_WR_CMD_BUSY = true ∧ f = 4 ∧ s.ledger.spares = 0) ∧
    (∃ (s : State) (f : Nat) (c : Nat) (r : BitVec 1024), s.ledger.writing = [r] ∧ (s.rst.waiting = some c) ∧ 3 ≤ c ∧
      (∀ m ∈ s.tier.migs, m.kind = .localMove)) ∧
    (∃ (s : State) (f : Nat) (e : BitVec 512) (rest : List (BitVec 512)), s.ledger.writing = [] ∧ s.elog.toLedger = e
      :: rest ∧ s.wlh.running = true ∧ s.ledger.closed = false ∧ f < 4 ∧ s.ledger.recs.length < 1728) ∧
    (∃ (s : State) (f : Nat) (e : BitVec 512) (rest : List (BitVec 512)), s.ledger.writing = [] ∧ s.elog.toLedger = e
      :: rest ∧ s.wlh.running = true ∧ s.ledger.closed = true) ∧
    (∃ (s : State) (f : Nat), s.ledger.writing = [] ∧ (s.elog.toLedger = [] ∨ s.wlh.running = false)) ∧
    (∃ (s : State) (i : Nat) (k : Bool) (r : BitVec 1024), s.ready .ledg = true ∧ ((if k then s.ledger.recs.find?
      (fun x => recKey x == (s.fld .ledg Reg.LEDG_RD_KEY_TYPE, s.fld .ledg Reg.LEDG_RD_KEY_KEY)) else
      s.ledger.recs[i % 2048]?) = some r)) ∧
    (∃ (s : State) (i : Nat) (k : Bool), s.ready .ledg = true ∧ ((if k then s.ledger.recs.find? (fun x => recKey x ==
      (s.fld .ledg Reg.LEDG_RD_KEY_TYPE, s.fld .ledg Reg.LEDG_RD_KEY_KEY)) else s.ledger.recs[i % 2048]?) = none)) ∧
    (∃ (s : State) (i : Nat) (k : Bool), s.ready .ledg = false) ∧
    (∃ (s : State) (k : Nat) (us : Nat) (x : Sector), k * 65536 < s.wlh.flashSize ∧ x = Map.get {} s.wlh.sectors k ∧
      (s.wlh.upd.all (fun u => decide (u.sector ≠ some k)) = true)) ∧
    (∃ (s : State) (k : Nat) (us : Nat) (x : Sector) (u : Upd), k * 65536 < s.wlh.flashSize ∧ x = Map.get {}
      s.wlh.sectors k ∧ (s.wlh.upd = some u) ∧ (u.sector = some k) ∧ u.erased = false ∧ us ≤ s.fld .wlh
      Reg.WLH_FLASH_THR_ERASE_MS * 1000) ∧
    (∃ (s : State) (k : Nat) (us : Nat) (x : Sector), k * 65536 < s.wlh.flashSize ∧ x = Map.get {} s.wlh.sectors k) ∧
    (∃ (s : State) (k : Nat) (us : Nat) (b : Bool), s.wlh.flashSize ≤ k * 65536) ∧
    (∃ (s : State) (k : Nat) (us : Nat) (x : Sector) (u : Upd), k * 65536 < s.wlh.flashSize ∧ x = Map.get {}
      s.wlh.sectors k ∧ (s.wlh.upd = some u) ∧ (u.sector = some k) ∧ u.erased = true ∧ x.retries ≤ s.fld .wlh
      Reg.WLH_FLASH_THR_RETRY ∧ u.len ≤ u.done + 65536) ∧
    (∃ (s : State) (k : Nat) (us : Nat) (x : Sector) (u : Upd) (j : Nat), k * 65536 < s.wlh.flashSize ∧ x = Map.get
      {} s.wlh.sectors k ∧ (s.wlh.upd = some u) ∧ (u.sector = some k) ∧ u.erased = true ∧ x.retries ≤ s.fld .wlh
      Reg.WLH_FLASH_THR_RETRY ∧ u.done + 65536 < u.len ∧ ((s.goodSectors u.slotB).find? (fun j => decide (k + 1 ≤ j))
      = some j)) ∧
    (∃ (s : State) (k : Nat) (us : Nat) (x : Sector) (u : Upd), k * 65536 < s.wlh.flashSize ∧ x = Map.get {}
      s.wlh.sectors k ∧ (s.wlh.upd = some u) ∧ (u.sector = some k) ∧ u.erased = true ∧ x.retries ≤ s.fld .wlh
      Reg.WLH_FLASH_THR_RETRY ∧ u.done + 65536 < u.len ∧ ((s.goodSectors u.slotB).find? (fun j => decide (k + 1 ≤ j))
      = none) ∧ s.ledger.closed = false ∧ (s.ledger.append (ledgRec 0x05 k [])).1.closed = false) ∧
    (∃ (s : State) (k : Nat) (us : Nat) (x : Sector), k * 65536 < s.wlh.flashSize ∧ x = Map.get {} s.wlh.sectors k ∧
      x.retries < 3) ∧
    (∃ (s : State) (k : Nat) (us : Nat) (x : Sector) (u : Upd), k * 65536 < s.wlh.flashSize ∧ x = Map.get {}
      s.wlh.sectors k ∧ (s.wlh.upd = some u) ∧ (u.sector = some k) ∧ u.erased = true ∧ 3 ≤ x.retries ∧
      s.ledger.closed = false ∧ (s.ledger.append (ledgRec 0x05 k [])).1.closed = false) ∧
    (∃ (s : State) (k : Nat) (us : Nat) (j : Nat) (x : Sector) (b : StoreObj), k * 65536 < s.wlh.flashSize ∧ x =
      Map.get {} s.wlh.sectors k ∧ x.retired = false ∧ s.wlh.upd = none ∧ 3 ≤ x.retries ∧ s.storeObjs.filter (fun o
      => s.storeSectors[o.place / 65536]? == some k) = [b] ∧ b.bytes.length ≤ 65536 ∧ ((s.storeSectors.filter (· ≠
      k)).find? (fun i => (Map.get {} s.wlh.sectors i).erased) = some j)) ∧
    (∃ (s : State) (k : Nat) (us : Nat) (b : Bool), s.wlh.flashSize ≤ k * 65536) ∧
    (∃ (s : State) (b : Byte), s.ready .uart = true ∧ s.flag .uart Reg.UART_CTRL_RX_EN = true ∧ s.flag .pin
      Reg.PIN_FUNC_UART = true) ∧
    (∃ (s : State) (b : Byte), s.ready .uart = true ∧ s.flag .uart Reg.UART_CTRL_RX_EN = true ∧ s.flag .pin
      Reg.PIN_FUNC_UART = true ∧ s.recovery = true) ∧
    (∃ (s : State) (b : Byte), s.ready .uart = true ∧ s.flag .uart Reg.UART_CTRL_RX_EN = true ∧ s.flag .pin
      Reg.PIN_FUNC_UART = true ∧ s.recovery = false ∧ 32 ≤ s.uart.rx.length) ∧
    (∃ (s : State) (b : Byte), s.ready .uart = true ∧ s.flag .uart Reg.UART_CTRL_RX_EN = true ∧ s.flag .pin
      Reg.PIN_FUNC_UART = true ∧ s.recovery = false ∧ s.uart.rx.length < 32) ∧
    (∃ (s : State) (b : Byte) (l : Bool), (s.ready .uart = false ∨ s.flag .uart Reg.UART_CTRL_RX_EN = false ∨ s.flag
      .pin Reg.PIN_FUNC_UART = false)) ∧
    (∃ (s : State) (b : Byte), s.ready .uart = true ∧ s.uart.tx.length < 32) ∧
    (∃ (s : State) (b : Byte), (s.ready .uart = false ∨ 32 ≤ s.uart.tx.length)) ∧
    (∃ (s : State) (b : Byte) (rest : List Byte), s.ready .uart = true ∧ s.uart.rx = b :: rest) ∧
    (∃ (s : State), (s.ready .uart = false ∨ s.uart.rx = [])) ∧
    (∃ (s : State) (b : Byte) (rest : List Byte), s.uart.tx = b :: rest ∧ s.works .uart = true ∧ s.flag .uart
      Reg.UART_CTRL_TX_EN = true ∧ rest ≠ []) ∧
    (∃ (s : State) (b : Byte) (rest : List Byte), s.uart.tx = b :: rest ∧ s.works .uart = true ∧ s.flag .uart
      Reg.UART_CTRL_TX_EN = true ∧ rest = []) ∧
    (∃ (s : State), (s.uart.tx = [] ∨ s.works .uart = false ∨ s.flag .uart Reg.UART_CTRL_TX_EN = false)) :=
  ⟨⟨{ (st [(Reg.PG_READY_READY.place .uart, 1), (Reg.PG_READY_READY.place .ledg, 1), (Reg.UART_CTRL_TX_EN.place .uart, 1), (Reg.UART_CTRL_RX_EN.place .uart, 1), (Reg.PIN_FUNC_UART.place .pin, 1)]) with rst := { pwrGood := true } },
     .host, 2, 70000, by decide +kernel⟩,
   ⟨{ (st [(Reg.PG_READY_READY.place .uart, 1), (Reg.PG_READY_READY.place .ledg, 1), (Reg.UART_CTRL_TX_EN.place .uart, 1), (Reg.UART_CTRL_RX_EN.place .uart, 1), (Reg.PIN_FUNC_UART.place .pin, 1)]) with ledger := { readOnly := true }, rst := { pwrGood := true } },
     .wellhead, 2, 70000, by decide +kernel⟩,
   ⟨{ (st [(Reg.PG_READY_READY.place .uart, 1), (Reg.PG_READY_READY.place .ledg, 1), (Reg.UART_CTRL_TX_EN.place .uart, 1), (Reg.UART_CTRL_RX_EN.place .uart, 1), (Reg.PIN_FUNC_UART.place .pin, 1)]) with ledger := { recs := [BitVec.ofNat 1024 281474976710654] }, rst := { pwrGood := true } },
     .wellhead, 2, 70000, by decide +kernel⟩,
   ⟨{ (st [(Reg.PG_READY_READY.place .uart, 1), (Reg.PG_READY_READY.place .ledg, 1), (Reg.UART_CTRL_TX_EN.place .uart, 1), (Reg.UART_CTRL_RX_EN.place .uart, 1), (Reg.PIN_FUNC_UART.place .pin, 1)]) with rst := { pwrGood := true } },
     .wellhead, 9, 70000, by decide +kernel⟩,
   ⟨{ (st [(Reg.PG_READY_READY.place .uart, 1), (Reg.PG_READY_READY.place .ledg, 1), (Reg.UART_CTRL_TX_EN.place .uart, 1), (Reg.UART_CTRL_RX_EN.place .uart, 1), (Reg.PIN_FUNC_UART.place .pin, 1), (Reg.LEDG_WR_DATA_DATA.place .ledg 3, 77)]) with rst := { pwrGood := true } },
     .wellhead, 2, 70000, by decide +kernel⟩,
   ⟨{ (st [(Reg.PG_READY_READY.place .uart, 1), (Reg.PG_READY_READY.place .ledg, 1), (Reg.UART_CTRL_TX_EN.place .uart, 1), (Reg.UART_CTRL_RX_EN.place .uart, 1), (Reg.PIN_FUNC_UART.place .pin, 1), (Reg.LEDG_WR_CMD_BUSY.place .ledg, 1)]) with rst := { pwrGood := true } },
     .wellhead, 2, 70000, by decide +kernel⟩,
   ⟨{ (st [(Reg.PG_READY_READY.place .uart, 1), (Reg.PG_READY_READY.place .ledg, 1), (Reg.UART_CTRL_TX_EN.place .uart, 1), (Reg.UART_CTRL_RX_EN.place .uart, 1), (Reg.PIN_FUNC_UART.place .pin, 1), (Reg.LEDG_WR_CMD_BUSY.place .ledg, 1)]) with ledger := { writing := [BitVec.ofNat 1024 92234283318501179392] }, rst := { pwrGood := true } },
     2, BitVec.ofNat 1024 92234283318501179392, by decide +kernel⟩,
   ⟨{ (st [(Reg.PG_READY_READY.place .uart, 1), (Reg.PG_READY_READY.place .ledg, 1), (Reg.UART_CTRL_TX_EN.place .uart, 1), (Reg.UART_CTRL_RX_EN.place .uart, 1), (Reg.PIN_FUNC_UART.place .pin, 1), (Reg.LEDG_WR_CMD_BUSY.place .ledg, 1)]) with ledger := { writing := [BitVec.ofNat 1024 92234283318501179392], spares := 0 }, rst := { pwrGood := true } },
     4, BitVec.ofNat 1024 92234283318501179392, by decide +kernel⟩,
   ⟨{ (st [(Reg.PG_READY_READY.place .uart, 1), (Reg.PG_READY_READY.place .ledg, 1), (Reg.UART_CTRL_TX_EN.place .uart, 1), (Reg.UART_CTRL_RX_EN.place .uart, 1), (Reg.PIN_FUNC_UART.place .pin, 1)]) with ledger := { writing := [BitVec.ofNat 1024 92234283318501179392] }, rst := { pwrGood := true, waiting := some 6 } },
     0, 6, BitVec.ofNat 1024 92234283318501179392, by decide +kernel⟩,
   ⟨{ (st [(Reg.PG_READY_READY.place .uart, 1), (Reg.PG_READY_READY.place .ledg, 1), (Reg.UART_CTRL_TX_EN.place .uart, 1), (Reg.UART_CTRL_RX_EN.place .uart, 1), (Reg.PIN_FUNC_UART.place .pin, 1)]) with wlh := { flashSize := 16777216, running := true }, elog := { toLedger := [7, 8] }, rst := { pwrGood := true } },
     0, 7, [8], by decide +kernel⟩,
   ⟨{ (st [(Reg.PG_READY_READY.place .uart, 1), (Reg.PG_READY_READY.place .ledg, 1), (Reg.UART_CTRL_TX_EN.place .uart, 1), (Reg.UART_CTRL_RX_EN.place .uart, 1), (Reg.PIN_FUNC_UART.place .pin, 1)]) with wlh := { flashSize := 16777216, running := true }, elog := { toLedger := [7, 8] }, ledger := { readOnly := true }, rst := { pwrGood := true } },
     0, 7, [8], by decide +kernel⟩,
   ⟨{ (st [(Reg.PG_READY_READY.place .uart, 1), (Reg.PG_READY_READY.place .ledg, 1), (Reg.UART_CTRL_TX_EN.place .uart, 1), (Reg.UART_CTRL_RX_EN.place .uart, 1), (Reg.PIN_FUNC_UART.place .pin, 1)]) with rst := { pwrGood := true } },
     0, by decide +kernel⟩,
   ⟨{ (st [(Reg.PG_READY_READY.place .uart, 1), (Reg.PG_READY_READY.place .ledg, 1), (Reg.UART_CTRL_TX_EN.place .uart, 1), (Reg.UART_CTRL_RX_EN.place .uart, 1), (Reg.PIN_FUNC_UART.place .pin, 1)]) with ledger := { recs := [BitVec.ofNat 1024 166022104038269517827, BitVec.ofNat 1024 92234283318501179392] }, rst := { pwrGood := true } },
     1, false, BitVec.ofNat 1024 92234283318501179392, by decide +kernel⟩,
   ⟨{ (st [(Reg.PG_READY_READY.place .uart, 1), (Reg.PG_READY_READY.place .ledg, 1), (Reg.UART_CTRL_TX_EN.place .uart, 1), (Reg.UART_CTRL_RX_EN.place .uart, 1), (Reg.PIN_FUNC_UART.place .pin, 1), (Reg.LEDG_RD_SEL_FOUND.place .ledg, 1)]) with ledger := { recs := [BitVec.ofNat 1024 166022104038269517827, BitVec.ofNat 1024 92234283318501179392] }, rst := { pwrGood := true } },
     5, false, by decide +kernel⟩,
   ⟨State.reset, 5, false, by decide +kernel⟩,
   ⟨{ (st [(Reg.PG_READY_READY.place .uart, 1), (Reg.PG_READY_READY.place .ledg, 1), (Reg.UART_CTRL_TX_EN.place .uart, 1), (Reg.UART_CTRL_RX_EN.place .uart, 1), (Reg.PIN_FUNC_UART.place .pin, 1)]) with wlh := { flashSize := 16777216, sectors := [(5, { intent := true, retries := 2 })], flash := [(327680, 7), (393216, 9)] }, rst := { pwrGood := true } },
     5, 900000, { intent := true, retries := 2 }, by decide +kernel⟩,
   ⟨{ (st [(Reg.PG_READY_READY.place .uart, 1), (Reg.PG_READY_READY.place .ledg, 1), (Reg.UART_CTRL_TX_EN.place .uart, 1), (Reg.UART_CTRL_RX_EN.place .uart, 1), (Reg.PIN_FUNC_UART.place .pin, 1)]) with wlh := { flashSize := 16777216, sectors := [(5, { intent := true })], upd := some { install := true, len := 600, sector := some 5 } }, rst := { pwrGood := true } },
     5, 700, { intent := true }, { install := true, len := 600, sector := some 5 }, by decide +kernel⟩,
   ⟨{ (st [(Reg.PG_READY_READY.place .uart, 1), (Reg.PG_READY_READY.place .ledg, 1), (Reg.UART_CTRL_TX_EN.place .uart, 1), (Reg.UART_CTRL_RX_EN.place .uart, 1), (Reg.PIN_FUNC_UART.place .pin, 1)]) with wlh := { flashSize := 16777216, sectors := [(5, { intent := true })] }, rst := { pwrGood := true } },
     5, 700, { intent := true }, by decide +kernel⟩,
   ⟨{ (st [(Reg.PG_READY_READY.place .uart, 1), (Reg.PG_READY_READY.place .ledg, 1), (Reg.UART_CTRL_TX_EN.place .uart, 1), (Reg.UART_CTRL_RX_EN.place .uart, 1), (Reg.PIN_FUNC_UART.place .pin, 1)]) with wlh := { flashSize := 16777216 }, rst := { pwrGood := true } },
     500, 1, true, by decide +kernel⟩,
   ⟨{ (st [(Reg.PG_READY_READY.place .uart, 1), (Reg.PG_READY_READY.place .ledg, 1), (Reg.UART_CTRL_TX_EN.place .uart, 1), (Reg.UART_CTRL_RX_EN.place .uart, 1), (Reg.PIN_FUNC_UART.place .pin, 1)]) with wlh := { flashSize := 16777216, sectors := [(5, { erased := true })], upd := some { install := true, len := 600, sector := some 5, erased := true } }, mem := [(3, 9)], rst := { pwrGood := true } },
     5, 700, { erased := true }, { install := true, len := 600, sector := some 5, erased := true },
     by decide +kernel⟩,
   ⟨{ (st [(Reg.PG_READY_READY.place .uart, 1), (Reg.PG_READY_READY.place .ledg, 1), (Reg.UART_CTRL_TX_EN.place .uart, 1), (Reg.UART_CTRL_RX_EN.place .uart, 1), (Reg.PIN_FUNC_UART.place .pin, 1)]) with wlh := { flashSize := 16777216, sectors := [(5, { erased := true })], upd := some { install := true, len := 70000, sector := some 5, erased := true } }, mem := [(3, 9)], rst := { pwrGood := true } },
     5, 700, { erased := true }, { install := true, len := 70000, sector := some 5, erased := true }, 6,
     by decide +kernel⟩,
   ⟨{ (st [(Reg.PG_READY_READY.place .uart, 1), (Reg.PG_READY_READY.place .ledg, 1), (Reg.UART_CTRL_TX_EN.place .uart, 1), (Reg.UART_CTRL_RX_EN.place .uart, 1), (Reg.PIN_FUNC_UART.place .pin, 1)]) with wlh := { flashSize := 16777216, sectors := ((5, { erased := true }) :: (List.range 90).map fun i => (i + 6, ({ retired := true } : Sector))), upd := some { install := true, len := 70000, sector := some 5, erased := true } }, mem := [(3, 9)], rst := { pwrGood := true } },
     5, 700, { erased := true }, { install := true, len := 70000, sector := some 5, erased := true },
     by decide +kernel⟩,
   ⟨{ (st [(Reg.PG_READY_READY.place .uart, 1), (Reg.PG_READY_READY.place .ledg, 1), (Reg.UART_CTRL_TX_EN.place .uart, 1), (Reg.UART_CTRL_RX_EN.place .uart, 1), (Reg.PIN_FUNC_UART.place .pin, 1)]) with wlh := { flashSize := 16777216, sectors := [(5, { retries := 2 })] }, rst := { pwrGood := true } },
     5, 700, { retries := 2 }, by decide +kernel⟩,
   ⟨{ (st [(Reg.PG_READY_READY.place .uart, 1), (Reg.PG_READY_READY.place .ledg, 1), (Reg.UART_CTRL_TX_EN.place .uart, 1), (Reg.UART_CTRL_RX_EN.place .uart, 1), (Reg.PIN_FUNC_UART.place .pin, 1)]) with wlh := { flashSize := 16777216, sectors := [(5, { retries := 3 })], upd := some { install := true, len := 600, sector := some 5, erased := true } }, mem := [(3, 9)], rst := { pwrGood := true } },
     5, 700, { retries := 3 }, { install := true, len := 600, sector := some 5, erased := true }, by decide +kernel⟩,
   ⟨{ State.reset with wlh := { flashSize := 16777216, flash := Map.store [] (192 * 65536) (StoreObj.bytes { id := 5, format := 1, seq := 1, payload := [1, 2, 3, 4], place := 0 }), sectors := [(192, { retries := 3 }), (194, { erased := true })] } },
     192, 7, 194, { retries := 3 }, { id := 5, format := 1, seq := 1, payload := [1, 2, 3, 4], place := 0 },
     by decide +kernel⟩,
   ⟨{ (st [(Reg.PG_READY_READY.place .uart, 1), (Reg.PG_READY_READY.place .ledg, 1), (Reg.UART_CTRL_TX_EN.place .uart, 1), (Reg.UART_CTRL_RX_EN.place .uart, 1), (Reg.PIN_FUNC_UART.place .pin, 1)]) with wlh := { flashSize := 16777216 }, rst := { pwrGood := true } },
     500, 1, true, by decide +kernel⟩,
   ⟨{ (st [(Reg.PG_READY_READY.place .uart, 1), (Reg.PG_READY_READY.place .ledg, 1), (Reg.UART_CTRL_TX_EN.place .uart, 1), (Reg.UART_CTRL_RX_EN.place .uart, 1), (Reg.PIN_FUNC_UART.place .pin, 1)]) with rst := { pwrGood := true } },
     5, by decide +kernel⟩,
   ⟨{ (st [(Reg.PG_READY_READY.place .uart, 1), (Reg.PG_READY_READY.place .ledg, 1), (Reg.UART_CTRL_TX_EN.place .uart, 1), (Reg.UART_CTRL_RX_EN.place .uart, 1), (Reg.PIN_FUNC_UART.place .pin, 1), (Reg.WLH_STAT_RECOVERY.place .wlh, 1)]) with rst := { pwrGood := true } },
     5, by decide +kernel⟩,
   ⟨{ (st [(Reg.PG_READY_READY.place .uart, 1), (Reg.PG_READY_READY.place .ledg, 1), (Reg.UART_CTRL_TX_EN.place .uart, 1), (Reg.UART_CTRL_RX_EN.place .uart, 1), (Reg.PIN_FUNC_UART.place .pin, 1)]) with uart := { rx := List.replicate 32 1 }, rst := { pwrGood := true } },
     5, by decide +kernel⟩,
   ⟨{ (st [(Reg.PG_READY_READY.place .uart, 1), (Reg.PG_READY_READY.place .ledg, 1), (Reg.UART_CTRL_TX_EN.place .uart, 1), (Reg.UART_CTRL_RX_EN.place .uart, 1), (Reg.PIN_FUNC_UART.place .pin, 1)]) with uart := { rx := List.replicate 31 1 }, rst := { pwrGood := true } },
     5, by decide +kernel⟩,
   ⟨State.reset, 5, true, by decide +kernel⟩,
   ⟨{ (st [(Reg.PG_READY_READY.place .uart, 1), (Reg.PG_READY_READY.place .ledg, 1), (Reg.UART_CTRL_TX_EN.place .uart, 1), (Reg.UART_CTRL_RX_EN.place .uart, 1), (Reg.PIN_FUNC_UART.place .pin, 1)]) with rst := { pwrGood := true } },
     5, by decide +kernel⟩,
   ⟨State.reset, 5, by decide +kernel⟩,
   ⟨{ (st [(Reg.PG_READY_READY.place .uart, 1), (Reg.PG_READY_READY.place .ledg, 1), (Reg.UART_CTRL_TX_EN.place .uart, 1), (Reg.UART_CTRL_RX_EN.place .uart, 1), (Reg.PIN_FUNC_UART.place .pin, 1)]) with uart := { rx := [5, 6] }, rst := { pwrGood := true } },
     5, [6], by decide +kernel⟩,
   ⟨{ (st [(Reg.PG_READY_READY.place .uart, 1), (Reg.PG_READY_READY.place .ledg, 1), (Reg.UART_CTRL_TX_EN.place .uart, 1), (Reg.UART_CTRL_RX_EN.place .uart, 1), (Reg.PIN_FUNC_UART.place .pin, 1)]) with rst := { pwrGood := true } },
     by decide +kernel⟩,
   ⟨{ (st [(Reg.PG_READY_READY.place .uart, 1), (Reg.PG_READY_READY.place .ledg, 1), (Reg.UART_CTRL_TX_EN.place .uart, 1), (Reg.UART_CTRL_RX_EN.place .uart, 1), (Reg.PIN_FUNC_UART.place .pin, 1)]) with uart := { tx := [5, 6] }, rst := { pwrGood := true } },
     5, [6], by decide +kernel⟩,
   ⟨{ (st [(Reg.PG_READY_READY.place .uart, 1), (Reg.PG_READY_READY.place .ledg, 1), (Reg.UART_CTRL_TX_EN.place .uart, 1), (Reg.UART_CTRL_RX_EN.place .uart, 1), (Reg.PIN_FUNC_UART.place .pin, 1)]) with uart := { tx := [5] }, rst := { pwrGood := true } },
     5, [], by decide +kernel⟩,
   ⟨{ (st [(Reg.PG_READY_READY.place .uart, 1), (Reg.PG_READY_READY.place .ledg, 1), (Reg.UART_CTRL_TX_EN.place .uart, 1), (Reg.UART_CTRL_RX_EN.place .uart, 1), (Reg.PIN_FUNC_UART.place .pin, 1)]) with rst := { pwrGood := true } },
     by decide +kernel⟩⟩

/-- The hypotheses of HostWindowAndPcieEvents can be met, clause by clause. -/
theorem wit_HostWindowAndPcieEvents :
    (∃ (s : State) (fn1 : Bool) (x : Nat) (len : Nat) (off : Nat), s.bar2On fn1 = true ∧ off = s.bar2Off fn1 x ∧ 0 <
      len ∧ s.readable off len) ∧
    (∃ (s : State) (fn1 : Bool) (x : Nat) (len : Nat) (off : Nat), s.bar2On fn1 = true ∧ off = s.bar2Off fn1 x ∧ 0 <
      len ∧ off % 256 + len ≤ 256 ∧ ((s.leaf (off / 65536)).st = .inTransit ∧ (s.mig (off / 65536)).any (fun m =>
      m.kind = .pull) = true) ∧ (s.heldOn (off / 65536)).length < 64) ∧
    (∃ (s : State) (fn1 : Bool) (x : Nat) (len : Nat), s.bar2On fn1 = false) ∧
    (∃ (s : State) (fn1 : Bool) (x : Nat) (off : Nat) (data : List (Option Byte)) (home : TierName), s.bar2On fn1 =
      true ∧ off = s.bar2Off fn1 x ∧ data ≠ [] ∧ off % 256 + data.length ≤ 256 ∧ (s.leaf (off / 65536)).st =
      .resident home ∧ s.heldOn (off / 65536) = []) ∧
    (∃ (s : State) (fn1 : Bool) (x : Nat) (data : List (Option Byte)), s.bar2On fn1 = false) ∧
    (∃ (s : State) (ticket : Nat) (t0 : Nat) (off : Nat) (n : Nat), ticket ≠ 0 ∧ (s.pcie.held.find? (fun h => h.1 =
      ticket) = some (ticket, t0, off, n)) ∧ ((s.heldOn (pageOf off)).any (fun h => h.ticket = ticket ∧ h.write =
      none) = true) ∧ s.stalledOn (pageOf off) = [] ∧ t0 + s.fld .pcie Reg.PCIE_BAR2_CTRL_HOLD_LIMIT_US * 1000 ≤
      s.now ∧ 0 < n ∧ off % 65536 + n ≤ 65536) ∧
    (∃ (s : State) (ticket : Nat) (t0 : Nat) (off : Nat) (n : Nat) (h : Held) (rest : List Held), ticket ≠ 0 ∧
      (s.pcie.held.find? (fun x => x.1 = ticket) = some (ticket, t0, off, n)) ∧ ((s.heldOn (pageOf off)).any (fun x
      => x.ticket = ticket ∧ x.write = none) = true) ∧ s.stalledOn (pageOf off) = h :: rest ∧ pageOf h.offset =
      pageOf off ∧ (∀ x ∈ h :: rest, x.ticket ≠ ticket) ∧ (s.heldOn (pageOf off)).length = 64 ∧ ((s.heldOn (pageOf
      off)).filter (fun x => x.ticket ≠ ticket)).length = 63 ∧ t0 + s.fld .pcie Reg.PCIE_BAR2_CTRL_HOLD_LIMIT_US *
      1000 ≤ s.now ∧ 0 < n ∧ off % 65536 + n ≤ 65536) ∧
    (∃ (s : State) (ticket : Nat) (t0 : Nat) (off : Nat) (n : Nat), (s.pcie.held.find? (fun h => h.1 = ticket) = some
      (ticket, t0, off, n)) ∧ (¬ (t0 + s.fld .pcie Reg.PCIE_BAR2_CTRL_HOLD_LIMIT_US * 1000 ≤ s.now))) ∧
    (∃ (s : State) (ticket : Nat), (∀ h ∈ s.pcie.held, h.1 ≠ ticket)) ∧
    (∃ (s : State) (gen : Nat) (width : Nat) (flit : Bool), gen < 16 ∧ width < 32 ∧ (gen ≠ s.fld .pcie
      Reg.PCIE_LINK_GEN ∨ width ≠ s.fld .pcie Reg.PCIE_LINK_WIDTH ∨ flit ≠ s.flag .pcie Reg.PCIE_LINK_FLIT)) ∧
    (∃ (s : State) (gen : Nat) (width : Nat) (flit : Bool), gen < 16 ∧ width < 32 ∧ (¬ (gen ≠ s.fld .pcie
      Reg.PCIE_LINK_GEN ∨ width ≠ s.fld .pcie Reg.PCIE_LINK_WIDTH ∨ flit ≠ s.flag .pcie Reg.PCIE_LINK_FLIT))) ∧
    (∃ (s : State) (link1 : Bool) (gen : Nat) (width : Nat) (flit : Bool), (link1 = true → s.flag .pcie
      Reg.PCIE_LINK_BIFURCATED = false)) ∧
    (∃ (s : State) (gen : Nat) (width : Nat) (flit : Bool) (low : Bool), s.flag .pcie Reg.PCIE_LINK_BIFURCATED = true
      ∧ s.flag .pcie Reg.PCIE_LINK_LINK1_UP ≠ decide (gen ≠ 0)) ∧
    (∃ (s : State) (gen : Nat) (width : Nat) (flit : Bool) (low : Bool), s.flag .pcie Reg.PCIE_LINK_BIFURCATED =
      false) ∧
    (∃ (s : State) (v : Fin 256), v.val ∈ s.pcie.pend) ∧
    (∃ (s : State) (v : Fin 256), v.val ∉ s.pcie.pend) ∧
    (∃ (s : State) (n : TenId) (v : Fin 256), v.val < 2 ∧ n.val * 2 + v.val ∈ s.pcie.vfPend) ∧
    (∃ (s : State) (n : TenId) (v : Fin 256), v.val < 2 ∧ n.val * 2 + v.val ∉ s.pcie.vfPend) ∧
    (∃ (s : State) (n : TenId) (v : Fin 256), 2 ≤ v.val) ∧
    (∃ (s : State) (n : Nat) (en : Bool), n ≤ 64 ∧ s.recovery = false) ∧
    (∃ (s : State) (n : Nat) (en : Bool), (64 < n ∨ s.recovery = true)) ∧
    (∃ (s : State) (v : Word), s.ready .dev = true ∧ s.locked .dev = false ∧ (¬ (s.anyLink = true ∧ (bits v.toNat 0
      12 ≠ s.node ∨ bits v.toNat 31 1 = 0 ∧ s.flag .dev Reg.DEV_NODE_VALID = true)))) ∧
    (∃ (s : State) (v : Word), s.ready .dev = true ∧ s.locked .dev = false ∧ s.anyLink = true ∧ (bits v.toNat 0 12 ≠
      s.node ∨ bits v.toNat 31 1 = 0 ∧ s.flag .dev Reg.DEV_NODE_VALID = true)) ∧
    (∃ (s : State) (v : Word), s.ready .dev = true ∧ s.locked .dev = true) ∧
    (∃ (s : State) (v : Word), s.ready .dev = false) :=
  ⟨⟨{ (st [(Reg.PG_READY_READY.place .pcie, 1), (Reg.PG_READY_READY.place .dev, 1), (Reg.PG_READY_READY.place .tier, 1), (Reg.PCIE_BAR2_WIN0_WIN.place .pcie, 1), (Reg.PCIE_BAR2_WIN1_WIN.place .pcie, 2)]) with tier := { pages := [(1048576, { st := .resident .basin }), (1048577, { st := .resident .basin })] }, mem := [(68719542267, 3), (68719542273, 4)] },
     false, 65530, 12, 68719542266, by decide +kernel⟩,
   ⟨{ (st [(Reg.PG_READY_READY.place .pcie, 1), (Reg.PG_READY_READY.place .dev, 1), (Reg.PG_READY_READY.place .tier, 1), (Reg.PCIE_BAR2_WIN0_WIN.place .pcie, 1), (Reg.PCIE_BAR2_WIN1_WIN.place .pcie, 2)]) with tier := { pages := [(1048576, { st := .inTransit })], migs := [{ page := 1048576, prev := { st := .remote }, kind := .pull, dstTier := .basin, dstFrame := 0, dstSide := 0, start := 0, bytes := 0, staged := [], later := [] }] } },
     false, 65530, 6, 68719542266, by decide +kernel⟩,
   ⟨st
     [(Reg.PG_READY_READY.place .pcie, 1), (Reg.PG_READY_READY.place .dev, 1), (Reg.PG_READY_READY.place .tier, 1), (Reg.PCIE_BAR2_WIN0_WIN.place .pcie, 1), (Reg.PCIE_BAR2_WIN1_WIN.place .pcie, 2)],
     true, 5, 6, by decide +kernel⟩,
   ⟨{ (st [(Reg.PG_READY_READY.place .pcie, 1), (Reg.PG_READY_READY.place .dev, 1), (Reg.PG_READY_READY.place .tier, 1), (Reg.PCIE_BAR2_WIN0_WIN.place .pcie, 1), (Reg.PCIE_BAR2_WIN1_WIN.place .pcie, 2)]) with tier := { pages := [(1048576, { st := .resident .basin }), (1048577, { st := .resident .basin })] }, mem := [(68719542267, 9)] },
     false, 65530, 68719542266, [some 1, none, some 3], .basin, by decide +kernel⟩,
   ⟨st
     [(Reg.PG_READY_READY.place .pcie, 1), (Reg.PG_READY_READY.place .dev, 1), (Reg.PG_READY_READY.place .tier, 1), (Reg.PCIE_BAR2_WIN0_WIN.place .pcie, 1), (Reg.PCIE_BAR2_WIN1_WIN.place .pcie, 2)],
     true, 5, [some 6], by decide +kernel⟩,
   ⟨{ (st [(Reg.PG_READY_READY.place .pcie, 1), (Reg.PG_READY_READY.place .dev, 1), (Reg.PG_READY_READY.place .tier, 1), (Reg.PCIE_BAR2_WIN0_WIN.place .pcie, 1), (Reg.PCIE_BAR2_WIN1_WIN.place .pcie, 2)]) with now := 501000, tier := { held := [(1048576, [{ src := .host, offset := 68719542266, len := 6, write := none, ticket := 3 }, { src := .host, offset := 68719542270, len := 2, write := none, ticket := 4 }])] }, pcie := { held := [(3, 1000, 68719542266, 6)] } },
     3, 1000, 68719542266, 6, by decide +kernel⟩,
   ⟨{ (st [(Reg.PG_READY_READY.place .pcie, 1), (Reg.PG_READY_READY.place .dev, 1), (Reg.PG_READY_READY.place .tier, 1), (Reg.PCIE_BAR2_WIN0_WIN.place .pcie, 1), (Reg.PCIE_BAR2_WIN1_WIN.place .pcie, 2)]) with now := 501000, tier := { held := [(1048576, [{ src := .host, offset := 68719542266, len := 6, write := none, ticket := 3 }] ++ List.replicate 63 { src := .host, offset := 68719542270, len := 2, write := none, ticket := 4 })], stalled := [(1048576, [{ src := .host, offset := 68719542270, len := 2, write := none, ticket := 5 }, { src := .host, offset := 68719542270, len := 2, write := none, ticket := 6 }])], pages := [(1048576, { st := .inTransit })] }, pcie := { held := [(3, 1000, 68719542266, 6)] } },
     3, 1000, 68719542266, 6, { src := .host, offset := 68719542270, len := 2, write := none, ticket := 5 },
     [{ src := .host, offset := 68719542270, len := 2, write := none, ticket := 6 }], by decide +kernel⟩,
   ⟨{ (st [(Reg.PG_READY_READY.place .pcie, 1), (Reg.PG_READY_READY.place .dev, 1), (Reg.PG_READY_READY.place .tier, 1), (Reg.PCIE_BAR2_WIN0_WIN.place .pcie, 1), (Reg.PCIE_BAR2_WIN1_WIN.place .pcie, 2)]) with now := 500999, tier := { held := [(1048576, [{ src := .host, offset := 68719542266, len := 6, write := none, ticket := 3 }, { src := .host, offset := 68719542270, len := 2, write := none, ticket := 4 }])] }, pcie := { held := [(3, 1000, 68719542266, 6)] } },
     3, 1000, 68719542266, 6, by decide +kernel⟩,
   ⟨{ (st [(Reg.PG_READY_READY.place .pcie, 1), (Reg.PG_READY_READY.place .dev, 1), (Reg.PG_READY_READY.place .tier, 1), (Reg.PCIE_BAR2_WIN0_WIN.place .pcie, 1), (Reg.PCIE_BAR2_WIN1_WIN.place .pcie, 2)]) with now := 500999, tier := { held := [(1048576, [{ src := .host, offset := 68719542266, len := 6, write := none, ticket := 3 }, { src := .host, offset := 68719542270, len := 2, write := none, ticket := 4 }])] }, pcie := { held := [(3, 1000, 68719542266, 6)] } },
     4, by decide +kernel⟩,
   ⟨st
     [(Reg.PG_READY_READY.place .pcie, 1), (Reg.PG_READY_READY.place .dev, 1), (Reg.PG_READY_READY.place .tier, 1), (Reg.PCIE_BAR2_WIN0_WIN.place .pcie, 1), (Reg.PCIE_BAR2_WIN1_WIN.place .pcie, 2), (Reg.PCIE_LINK_GEN.place .pcie, 6), (Reg.PCIE_LINK_WIDTH.place .pcie, 16), (Reg.PCIE_LINK_FLIT.place .pcie, 1)],
     0, 0, false, by decide +kernel⟩,
   ⟨st
     [(Reg.PG_READY_READY.place .pcie, 1), (Reg.PG_READY_READY.place .dev, 1), (Reg.PG_READY_READY.place .tier, 1), (Reg.PCIE_BAR2_WIN0_WIN.place .pcie, 1), (Reg.PCIE_BAR2_WIN1_WIN.place .pcie, 2), (Reg.PCIE_LINK_GEN.place .pcie, 6), (Reg.PCIE_LINK_WIDTH.place .pcie, 16), (Reg.PCIE_LINK_FLIT.place .pcie, 1)],
     6, 16, true, by decide +kernel⟩,
   ⟨st
     [(Reg.PG_READY_READY.place .pcie, 1), (Reg.PG_READY_READY.place .dev, 1), (Reg.PG_READY_READY.place .tier, 1), (Reg.PCIE_BAR2_WIN0_WIN.place .pcie, 1), (Reg.PCIE_BAR2_WIN1_WIN.place .pcie, 2), (Reg.PCIE_LINK_GEN.place .pcie, 6), (Reg.PCIE_LINK_WIDTH.place .pcie, 16), (Reg.PCIE_LINK_FLIT.place .pcie, 1)],
     true, 6, 16, true, by decide +kernel⟩,
   ⟨st
     [(Reg.PG_READY_READY.place .pcie, 1), (Reg.PG_READY_READY.place .dev, 1), (Reg.PG_READY_READY.place .tier, 1), (Reg.PCIE_BAR2_WIN0_WIN.place .pcie, 1), (Reg.PCIE_BAR2_WIN1_WIN.place .pcie, 2), (Reg.PCIE_LINK_GEN.place .pcie, 6), (Reg.PCIE_LINK_WIDTH.place .pcie, 16), (Reg.PCIE_LINK_FLIT.place .pcie, 1), (Reg.PCIE_LINK_BIFURCATED.place .pcie, 1)],
     6, 8, true, false, by decide +kernel⟩,
   ⟨st
     [(Reg.PG_READY_READY.place .pcie, 1), (Reg.PG_READY_READY.place .dev, 1), (Reg.PG_READY_READY.place .tier, 1), (Reg.PCIE_BAR2_WIN0_WIN.place .pcie, 1), (Reg.PCIE_BAR2_WIN1_WIN.place .pcie, 2)],
     6, 8, true, false, by decide +kernel⟩,
   ⟨{ (st [(Reg.PG_READY_READY.place .pcie, 1), (Reg.PG_READY_READY.place .dev, 1), (Reg.PG_READY_READY.place .tier, 1), (Reg.PCIE_BAR2_WIN0_WIN.place .pcie, 1), (Reg.PCIE_BAR2_WIN1_WIN.place .pcie, 2)]) with pcie := { pend := [3, 7] } },
     7, by decide +kernel⟩,
   ⟨{ (st [(Reg.PG_READY_READY.place .pcie, 1), (Reg.PG_READY_READY.place .dev, 1), (Reg.PG_READY_READY.place .tier, 1), (Reg.PCIE_BAR2_WIN0_WIN.place .pcie, 1), (Reg.PCIE_BAR2_WIN1_WIN.place .pcie, 2)]) with pcie := { pend := [3, 7] } },
     8, by decide +kernel⟩,
   ⟨{ (st [(Reg.PG_READY_READY.place .pcie, 1), (Reg.PG_READY_READY.place .dev, 1), (Reg.PG_READY_READY.place .tier, 1), (Reg.PCIE_BAR2_WIN0_WIN.place .pcie, 1), (Reg.PCIE_BAR2_WIN1_WIN.place .pcie, 2)]) with pcie := { vfPend := [11] } },
     5, 1, by decide +kernel⟩,
   ⟨{ (st [(Reg.PG_READY_READY.place .pcie, 1), (Reg.PG_READY_READY.place .dev, 1), (Reg.PG_READY_READY.place .tier, 1), (Reg.PCIE_BAR2_WIN0_WIN.place .pcie, 1), (Reg.PCIE_BAR2_WIN1_WIN.place .pcie, 2)]) with pcie := { vfPend := [11] } },
     5, 0, by decide +kernel⟩,
   ⟨{ (st [(Reg.PG_READY_READY.place .pcie, 1), (Reg.PG_READY_READY.place .dev, 1), (Reg.PG_READY_READY.place .tier, 1), (Reg.PCIE_BAR2_WIN0_WIN.place .pcie, 1), (Reg.PCIE_BAR2_WIN1_WIN.place .pcie, 2)]) with pcie := { vfPend := [12] } },
     5, 2, by decide +kernel⟩,
   ⟨st
     [(Reg.PG_READY_READY.place .pcie, 1), (Reg.PG_READY_READY.place .dev, 1), (Reg.PG_READY_READY.place .tier, 1), (Reg.PCIE_BAR2_WIN0_WIN.place .pcie, 1), (Reg.PCIE_BAR2_WIN1_WIN.place .pcie, 2)],
     64, true, by decide +kernel⟩,
   ⟨st
     [(Reg.PG_READY_READY.place .pcie, 1), (Reg.PG_READY_READY.place .dev, 1), (Reg.PG_READY_READY.place .tier, 1), (Reg.PCIE_BAR2_WIN0_WIN.place .pcie, 1), (Reg.PCIE_BAR2_WIN1_WIN.place .pcie, 2)],
     65, true, by decide +kernel⟩,
   ⟨st
     [(Reg.PG_READY_READY.place .pcie, 1), (Reg.PG_READY_READY.place .dev, 1), (Reg.PG_READY_READY.place .tier, 1), (Reg.PCIE_BAR2_WIN0_WIN.place .pcie, 1), (Reg.PCIE_BAR2_WIN1_WIN.place .pcie, 2)],
     0x80000123, by decide +kernel⟩,
   ⟨st
     [(Reg.PG_READY_READY.place .pcie, 1), (Reg.PG_READY_READY.place .dev, 1), (Reg.PG_READY_READY.place .tier, 1), (Reg.PCIE_BAR2_WIN0_WIN.place .pcie, 1), (Reg.PCIE_BAR2_WIN1_WIN.place .pcie, 2), (Reg.PORT_STAT_LINK_UP.place (.port 3), 1), (Reg.DEV_NODE_NODE.place .dev, 4), (Reg.DEV_NODE_VALID.place .dev, 1)],
     0x80000123, by decide +kernel⟩,
   ⟨st
     [(Reg.PG_READY_READY.place .pcie, 1), (Reg.PG_READY_READY.place .dev, 1), (Reg.PG_READY_READY.place .tier, 1), (Reg.PCIE_BAR2_WIN0_WIN.place .pcie, 1), (Reg.PCIE_BAR2_WIN1_WIN.place .pcie, 2), (Reg.PG_CTRL_LOCK.place .dev, 1)],
     4, by decide +kernel⟩,
   ⟨st [(Reg.PCIE_BAR2_WIN0_WIN.place .pcie, 1), (Reg.PCIE_BAR2_WIN1_WIN.place .pcie, 2)], 4, by decide +kernel⟩⟩

/-- The hypotheses of StepRunsTheFrontCommand can be met, clause by clause. -/
theorem wit_StepRunsTheFrontCommand :
    (∃ (s : State) (c : Instr) (rest : List Instr), s.pending = c :: rest) ∧
    (∃ (s : State), s.pending = []) :=
  ⟨⟨{ State.reset with pending := [.powerOnReset, .devRst 5] }, .powerOnReset, [.devRst 5], by decide +kernel⟩,
   ⟨State.reset, by decide +kernel⟩⟩

/-- The hypotheses of EveryStepCompletesInCanonicalForm can be met, clause by clause. -/
theorem wit_EveryStepCompletesInCanonicalForm :
    (∃ (s : State), s.canonical = true) :=
  ⟨{ State.reset with pending := [.powerOnReset], mem := [(5, 6)] }, by decide +kernel⟩

/-- The hypotheses of SamplesAreBinned can be met, clause by clause. -/
theorem wit_SamplesAreBinned :
    (∃ (u : UnitVals) (log2 : Bool) (base : Nat) (shift : Nat) (v : Nat), v < base) ∧
    (∃ (u : UnitVals) (log2 : Bool) (base : Nat) (shift : Nat) (v : Nat), log2 = false ∧ base ≤ v) ∧
    (∃ (u : UnitVals) (log2 : Bool) (base : Nat) (shift : Nat) (v : Nat), log2 = true ∧ base ≤ v ∧ v - base < 2 ^
      shift) ∧
    (∃ (u : UnitVals) (log2 : Bool) (base : Nat) (shift : Nat) (v : Nat) (e : Nat), log2 = true ∧ base ≤ v ∧ 2 ^
      shift ≤ v - base ∧ 2 ^ e ≤ v - base ∧ v - base < 2 ^ (e + 1)) :=
  ⟨⟨{}, true, 5, 2, 4, by decide +kernel⟩,
   ⟨{}, false, 5, 2, 5000, by decide +kernel⟩,
   ⟨{}, true, 5, 2, 8, by decide +kernel⟩,
   ⟨{}, true, 5, 2, 9, 2, by decide +kernel⟩⟩

/-- The hypotheses of MaskVisibilityFollowsTheParameters can be met, clause by clause. -/
theorem wit_MaskVisibilityFollowsTheParameters :
    (∃ (a : AttnP) (qi : Nat) (k : Nat), a.maskEn = true) ∧
    (∃ (a : AttnP) (qi : Nat) (k : Nat), a.maskEn = false) ∧
    (∃ (a : AttnP) (b : Nat) (qi : Nat) (k : Nat), a.skipped b = true ∧ a.kvLen - a.qLen ≤ qi ∧ qi < a.kvLen ∧ 64 *
      b ≤ k ∧ k < 64 * b + 64) :=
  ⟨⟨{ (attnOf 0 0) with kvLen := 200, qLen := 4, maskEn := true, winLo := 10, pfx := 0, hi := 0 }, 196, 190,
     by decide +kernel⟩,
   ⟨{ (attnOf 0 0) with kvLen := 200, qLen := 4, maskEn := false, winLo := 10, pfx := 0, hi := 0 }, 196, 190,
     by decide +kernel⟩,
   ⟨{ (attnOf 0 0) with kvLen := 200, qLen := 4, maskEn := true, winLo := 10, pfx := 0, hi := 0 }, 1, 196, 100,
     by decide +kernel⟩⟩


end Sys2Proof.Tests
end

section
/-! PROOFS. The attention mask (R87, R88): which keys a query row sees, and what a skipped block holds. -/

namespace Sys2Proof.Machine
open Sys2Proof

/-- The comparator without its booleans: the upper bound of R87 as its two alternatives, the lower one as a sum. -/
theorem AttnP.visible_iff (a : AttnP) (qi k : Nat) :
    a.visible qi k = true ↔ k < a.kvLen ∧ (a.maskEn = true →
      (k ≤ qi + a.hi ∨ k < a.pfx) ∧ (a.winLo = 0xFFFFFFFF ∨ qi ≤ k + a.winLo)) := by
  cases hm : a.maskEn <;> simp [AttnP.visible, hm]

/-- R88's test: a block above the upper bound of the task's last row, or below the lower bound of its first row. -/
theorem AttnP.skipped_iff (a : AttnP) (b : Nat) :
    a.skipped b = true ↔ a.maskEn = true ∧
      ((a.kvLen - 1 + a.hi < 64 * b ∧ a.pfx ≤ 64 * b) ∨
        (a.winLo ≠ 0xFFFFFFFF ∧ 64 * b + 63 + a.winLo < a.kvLen - a.qLen)) := by
  simp [AttnP.skipped]

/-- The upper bound of R87 in integers: either alternative of the comparator is `k ≤ max (qi + HI) (PFX − 1)`. -/
theorem le_max_lookahead_prefix_iff (k qi hi pfx : Nat) :
    (k : Int) ≤ max ((qi : Int) + hi) ((pfx : Int) - 1) ↔ k ≤ qi + hi ∨ k < pfx := by
  rw [le_max_iff]
  omega

/-- A key above the upper bound of a row is masked from it. -/
theorem AttnP.visible_eq_false_of_above {a : AttnP} {qi k : Nat} (hm : a.maskEn = true) (hhi : qi + a.hi < k)
    (hpfx : a.pfx ≤ k) : a.visible qi k = false := by
  rw [Bool.eq_false_iff, ne_eq, AttnP.visible_iff]
  rintro ⟨-, hv⟩
  obtain ⟨hup, -⟩ := hv hm
  omega

/-- A key below a window that is not unlimited is masked from the row. -/
theorem AttnP.visible_eq_false_of_below {a : AttnP} {qi k : Nat} (hm : a.maskEn = true)
    (hlo : a.winLo ≠ 0xFFFFFFFF) (hlt : k + a.winLo < qi) : a.visible qi k = false := by
  rw [Bool.eq_false_iff, ne_eq, AttnP.visible_iff]
  rintro ⟨-, hv⟩
  obtain ⟨-, hdown⟩ := hv hm
  omega

/-- R87 with MASK_EN set. -/
theorem AttnP.visible_iff_of_maskEn {a : AttnP} (hm : a.maskEn = true) (qi k : Nat) :
    a.visible qi k = true ↔ (k : Int) ≤ max ((qi : Int) + a.hi) ((a.pfx : Int) - 1) ∧
      ((k : Int) ≥ qi - a.winLo ∨ a.winLo = 0xFFFFFFFF) ∧ k < a.kvLen := by
  have hlo : (k : Int) ≥ qi - a.winLo ↔ qi ≤ k + a.winLo := by omega
  rw [AttnP.visible_iff, le_max_lookahead_prefix_iff, hlo]
  tauto

/-- R87 with MASK_EN clear. -/
theorem AttnP.visible_iff_of_not_maskEn {a : AttnP} (hm : a.maskEn = false) (qi k : Nat) :
    a.visible qi k = true ↔ k < a.kvLen := by
  simp [AttnP.visible_iff, hm]

/-- R88: the bounds rise with the row, so a key of a block that fails at the first or the last row fails at each. -/
theorem AttnP.visible_eq_false_of_skipped {a : AttnP} {b qi k : Nat} (hs : a.skipped b = true)
    (hfirst : a.kvLen - a.qLen ≤ qi) (hlast : qi < a.kvLen) (hk : 64 * b ≤ k) (hk' : k < 64 * b + 64) :
    a.visible qi k = false := by
  obtain ⟨hm, ⟨hhi, hpfx⟩ | ⟨hlo, hbelow⟩⟩ := (a.skipped_iff b).mp hs
  · exact AttnP.visible_eq_false_of_above hm (by omega) (by omega)
  · exact AttnP.visible_eq_false_of_below hm hlo (by omega)

/-- Settles O59, from the comparator of R87 read in integers and the block test of R88. -/
theorem maskVisibilityFollowsTheParameters : Obligations.MaskVisibilityFollowsTheParameters := by
  unfold Obligations.MaskVisibilityFollowsTheParameters
  exact ⟨fun _ qi k hm => AttnP.visible_iff_of_maskEn hm qi k,
    fun _ qi k hm => AttnP.visible_iff_of_not_maskEn hm qi k,
    fun _ _ _ _ => AttnP.visible_eq_false_of_skipped⟩

end Sys2Proof.Machine
end


section
/-! PROOFS. The capture units of the MON page (R310): the bin of a sample, and what a sample changes. -/

namespace Sys2Proof.Machine
open Sys2Proof

/-- R310: a sample below BASE falls in bin 0, in either mode. -/
theorem binOf_of_lt_base {base v : Nat} (h : v < base) (log2 : Bool) (shift : Nat) :
    binOf log2 base shift v = 0 := by
  rw [binOf, if_pos h]

/-- R310, MODE LINEAR: the shift of the distance is the model's division by a power of two. -/
theorem binOf_linear {base v : Nat} (h : base ≤ v) (shift : Nat) :
    binOf false base shift v = min 63 ((v - base) >>> shift) := by
  simp [binOf, Nat.not_lt.mpr h, Nat.shiftRight_eq_div_pow]

/-- R310, MODE LOG2, within 2^SHIFT of BASE. -/
theorem binOf_log2_near {base shift v : Nat} (h : base ≤ v) (hd : v - base < 2 ^ shift) :
    binOf true base shift v = 0 := by
  simp [binOf, Nat.not_lt.mpr h, hd]

/-- R310, MODE LOG2, from 2^SHIFT on: the powers of two around the distance fix the floor of its logarithm. -/
theorem binOf_log2_far {base shift v e : Nat} (h : base ≤ v) (hd : 2 ^ shift ≤ v - base)
    (hlow : 2 ^ e ≤ v - base) (hhigh : v - base < 2 ^ (e + 1)) :
    binOf true base shift v = min 63 (e - shift + 1) := by
  have hpos : v - base ≠ 0 := (lt_of_lt_of_le (Nat.two_pow_pos e) hlow).ne'
  have hlog : Nat.log2 (v - base) = e := (Nat.log2_eq_iff hpos).mpr ⟨hlow, hhigh⟩
  simp [binOf, Nat.not_lt.mpr h, Nat.not_lt.mpr hd, hlog]

/-- A sample below BASE counts in UNDER. -/
theorem takeSample_under_of_lt_base {base v : Nat} (h : v < base) (u : UnitVals) (log2 : Bool) (shift : Nat) :
    (takeSample u log2 base shift v).under = min (2 ^ 32 - 1) (u.under + 1) :=
  if_pos h

/-- A sample from BASE on leaves UNDER. -/
theorem takeSample_under_of_base_le {base v : Nat} (h : base ≤ v) (u : UnitVals) (log2 : Bool) (shift : Nat) :
    (takeSample u log2 base shift v).under = u.under :=
  if_neg (Nat.not_lt.mpr h)

/-- The bin of the sample goes up by one and stays at its limit. -/
theorem takeSample_bins_same (u : UnitVals) (log2 : Bool) (base shift v : Nat) :
    Map.get 0 (takeSample u log2 base shift v).bins (binOf log2 base shift v) =
      min (2 ^ 32 - 1) (Map.get 0 u.bins (binOf log2 base shift v) + 1) :=
  Map.get_set_same 0 u.bins _ _

/-- Every other bin keeps its value. -/
theorem takeSample_bins_other {log2 : Bool} {base shift v j : Nat} (h : j ≠ binOf log2 base shift v)
    (u : UnitVals) : Map.get 0 (takeSample u log2 base shift v).bins j = Map.get 0 u.bins j :=
  Map.get_set_other 0 0 u.bins _ h

/-- R310 as a whole, once the sample's bin `b` and the new value `n` of UNDER are known. -/
theorem takeSample_effect {u : UnitVals} {log2 : Bool} {base shift v b n : Nat}
    (hbin : binOf log2 base shift v = b) (hunder : (takeSample u log2 base shift v).under = n) :
    let r := takeSample u log2 base shift v
    r.count = min (2 ^ 64 - 1) (u.count + 1) ∧ r.sum = min (2 ^ 64 - 1) (u.sum + v) ∧ r.min = min u.min v ∧
      r.max = max u.max v ∧ r.dropped = u.dropped ∧ r.under = n ∧
      Map.get 0 r.bins b = min (2 ^ 32 - 1) (Map.get 0 u.bins b + 1) ∧
      ∀ j, j ≠ b → Map.get 0 r.bins j = Map.get 0 u.bins j := by
  subst hbin
  exact ⟨rfl, rfl, rfl, rfl, rfl, hunder, takeSample_bins_same u log2 base shift v,
    fun _ hj => takeSample_bins_other hj u⟩

/-- Settles O58: the four ways R310 chooses a bin, each with the one effect of a sample. -/
theorem samplesAreBinned : Obligations.SamplesAreBinned := by
  unfold Obligations.SamplesAreBinned
  refine ⟨?below, ?linear, ?near, ?far⟩
  case below =>
    intro u log2 base shift v hv
    exact takeSample_effect (binOf_of_lt_base hv log2 shift) (takeSample_under_of_lt_base hv u log2 shift)
  case linear =>
    rintro u _ base shift v ⟨rfl, hv⟩
    exact takeSample_effect (binOf_linear hv shift) (takeSample_under_of_base_le hv u false shift)
  case near =>
    rintro u _ base shift v ⟨rfl, hv, hd⟩
    exact takeSample_effect (binOf_log2_near hv hd) (takeSample_under_of_base_le hv u true shift)
  case far =>
    rintro u _ base shift v e ⟨rfl, hv, hd, hlow, hhigh⟩
    exact takeSample_effect (binOf_log2_far hv hd hlow hhigh) (takeSample_under_of_base_le hv u true shift)

end Sys2Proof.Machine
end

section
-- One proof at a time: many at once would each hold a thread, and the memory of the check does not allow so many.
set_option Elab.async false

section
/-! PROOFS. Bits, bytes and words of the codec (R104 to R106, R108): packing and unpacking undo each other. -/

namespace Sys2Proof.Machine
open Sys2Proof

/-- A bit of the model is the library's. -/
theorem bit_eq_testBit (v i : Nat) : bit v i = v.testBit i := by
  rw [bit, Nat.testBit_eq_decide_div_mod_eq]
  rfl

@[simp] theorem length_bitsOfNat (w v : Nat) : (bitsOfNat w v).length = w := by simp [bitsOfNat]

@[simp] theorem bitsOfNat_zero_width (v : Nat) : bitsOfNat 0 v = [] := rfl

theorem getElem_bitsOfNat {w v i : Nat} (h : i < (bitsOfNat w v).length) : (bitsOfNat w v)[i] = v.testBit i := by
  simp [bitsOfNat, bit_eq_testBit]

/-- The bits of a number written as its low part and the rest. -/
theorem bitsOfNat_add (w k x acc : Nat) :
    bitsOfNat (w + k) (x % 2 ^ w + acc * 2 ^ w) = bitsOfNat w x ++ bitsOfNat k acc := by
  refine List.ext_getElem (by simp) fun i hi _ => ?_
  rw [getElem_bitsOfNat, Nat.add_comm (x % _), Nat.mul_comm acc, Nat.testBit_two_pow_mul_add _ (Nat.mod_lt x (Nat.two_pow_pos w)),
    List.getElem_append]
  split
  · rename_i h
    rw [dif_pos (by simpa using h), getElem_bitsOfNat, Nat.testBit_mod_two_pow]
    simp [h]
  · rename_i h
    rw [dif_neg (by simpa using h), getElem_bitsOfNat]
    simp

/-- Splitting the bits of a number. -/
theorem bitsOfNat_append (w k v : Nat) : bitsOfNat (w + k) v = bitsOfNat w v ++ bitsOfNat k (v / 2 ^ w) := by
  conv_lhs => rw [← Nat.mod_add_div' v (2 ^ w)]
  exact bitsOfNat_add w k v _

@[simp] theorem bitsOfNat_zero (w : Nat) : bitsOfNat w 0 = List.replicate w false := by
  refine List.ext_getElem (by simp) fun i _ _ => ?_
  rw [getElem_bitsOfNat]
  simp

theorem bitsOfNat_mod (w v : Nat) : bitsOfNat w (v % 2 ^ w) = bitsOfNat w v := by
  refine List.ext_getElem (by simp) fun i hi _ => ?_
  rw [length_bitsOfNat] at hi
  rw [getElem_bitsOfNat, getElem_bitsOfNat, Nat.testBit_mod_two_pow]
  simp [hi]

/-- A number is read back from its low bits. -/
@[simp] theorem natOfBits_bitsOfNat (w v : Nat) : natOfBits (bitsOfNat w v) = v % 2 ^ w := by
  induction w generalizing v with
  | zero => simp [natOfBits, Nat.mod_one]
  | succ w ih =>
    rw [Nat.add_comm w 1, bitsOfNat_append, show bitsOfNat 1 v = [bit v 0] from rfl, List.singleton_append, natOfBits, ih,
      Nat.pow_add, Nat.mod_mul]
    rcases Nat.mod_two_eq_zero_or_one v with h | h <;> simp [bit, h]

/-- Bits are read back from their number. -/
theorem bitsOfNat_natOfBits (l : List Bool) : bitsOfNat l.length (natOfBits l) = l := by
  induction l with
  | nil => rfl
  | cons b t ih =>
    have h : bitsOfNat 1 (b.toNat + 2 * natOfBits t) = [b] := by
      cases b <;> simp [bitsOfNat, bit]
    have h2 : (b.toNat + 2 * natOfBits t) / 2 ^ 1 = natOfBits t := by
      have := b.toNat_lt
      omega
    rw [natOfBits, List.length_cons, Nat.add_comm t.length, bitsOfNat_append, h, h2, ih]
    rfl

/-! ## Bytes -/

@[simp] theorem length_bytesOfNat (n v : Nat) : (bytesOfNat n v).length = n := by
  induction n generalizing v with
  | zero => rfl
  | succ n ih => simp [bytesOfNat, ih]

theorem bitsOf_cons (b : Byte) (l : List Byte) : bitsOf (b :: l) = bitsOfNat 8 b.toNat ++ bitsOf l := rfl

@[simp] theorem bitsOf_append (l m : List Byte) : bitsOf (l ++ m) = bitsOf l ++ bitsOf m := by
  simp [bitsOf]

@[simp] theorem length_bitsOf (l : List Byte) : (bitsOf l).length = 8 * l.length := by
  induction l with
  | nil => rfl
  | cons b t ih => rw [bitsOf_cons, List.length_append, length_bitsOfNat, ih, List.length_cons]; omega

theorem bitsOf_bytesOfNat (n v : Nat) : bitsOf (bytesOfNat n v) = bitsOfNat (8 * n) v := by
  induction n generalizing v with
  | zero => rfl
  | succ n ih =>
    rw [bytesOfNat, bitsOf_cons, ih, show 8 * (n + 1) = 8 + 8 * n by omega, bitsOfNat_append, BitVec.toNat_ofNat, ← bitsOfNat_mod 8 v,
      Nat.mod_mod]
    rfl

/-- Bytes of the same bits are the same. -/
theorem bitsOf_injective {l m : List Byte} (h : bitsOf l = bitsOf m) : l = m := by
  induction l generalizing m with
  | nil =>
    have := congrArg List.length h
    rw [length_bitsOf, length_bitsOf] at this
    exact (List.eq_nil_of_length_eq_zero (by simp at this; simpa using this.symm)).symm
  | cons b t ih =>
    cases m with
    | nil =>
      have := congrArg List.length h
      rw [length_bitsOf, length_bitsOf] at this
      simp at this
    | cons c u =>
      rw [bitsOf_cons, bitsOf_cons] at h
      obtain ⟨h1, h2⟩ := List.append_inj h (by simp)
      have h3 := congrArg natOfBits h1
      rw [natOfBits_bitsOfNat, natOfBits_bitsOfNat, Nat.mod_eq_of_lt b.isLt, Nat.mod_eq_of_lt c.isLt] at h3
      rw [BitVec.eq_of_toNat_eq h3, ih h2]

/-! ## Packing -/

/-- The bits of packed codes: those of each code, then zeros up to a whole byte (R104). -/
theorem bitsOf_packBits (w : Nat) (l : List Nat) :
    bitsOf (packBits w l) = (l.map (bitsOfNat w)).flatten ++
      List.replicate (8 * ((l.length * w + 7) / 8) - l.length * w) false := by
  have h : ∀ k, bitsOfNat (l.length * w + k) (l.foldr (fun x acc => x % 2 ^ w + acc * 2 ^ w) 0) =
      (l.map (bitsOfNat w)).flatten ++ List.replicate k false := by
    intro k
    induction l with
    | nil => simp
    | cons x t ih =>
      rw [List.length_cons, show (t.length + 1) * w + k = w + (t.length * w + k) by ring, List.foldr_cons, bitsOfNat_add, ih]
      simp
  rw [packBits, bitsOf_bytesOfNat, ← h]
  congr 1
  omega

@[simp] theorem length_packBits (w : Nat) (l : List Nat) : (packBits w l).length = (l.length * w + 7) / 8 := by
  simp [packBits]

/-- Bits packed one by one. -/
theorem bitsOf_packBits_one (l : List Bool) :
    ∃ k, bitsOf (packBits 1 (l.map Bool.toNat)) = l ++ List.replicate k false := by
  have h : ((l.map Bool.toNat).map (bitsOfNat 1)).flatten = l := by
    induction l with
    | nil => rfl
    | cons b t ih =>
      rw [List.map_cons, List.map_cons, List.flatten_cons, ih]
      cases b <;> rfl
  exact ⟨_, (bitsOf_packBits 1 _).trans (by rw [h])⟩

/-- Cutting a list of pieces of n gives the pieces. -/
theorem chunks_flatten {α : Type} {n : Nat} (hn : 0 < n) (ls : List (List α)) (h : ∀ l ∈ ls, l.length = n) {fuel : Nat}
    (hf : ls.length ≤ fuel) : chunks n fuel ls.flatten = ls := by
  induction ls generalizing fuel with
  | nil => cases fuel <;> rfl
  | cons l t ih =>
    obtain ⟨fuel, rfl⟩ : ∃ k, fuel = k + 1 := ⟨fuel - 1, by simp at hf; omega⟩
    have hl := h l (by simp)
    obtain ⟨x, u, rfl⟩ : ∃ x u, l = x :: u := List.exists_cons_of_length_pos (by omega)
    rw [List.flatten_cons, List.cons_append, chunks, ← List.cons_append, List.take_left' hl, List.drop_left' hl,
      ih (fun m hm => h m (List.mem_cons_of_mem _ hm)) (by simpa using hf)]
    simp

/-- Every list of whole pieces of n is the pieces that chunks cuts it into. -/
theorem exists_pieces {α : Type} (n k : Nat) (l : List α) (h : l.length = k * n) :
    ∃ ls : List (List α), ls.length = k ∧ (∀ m ∈ ls, m.length = n) ∧ ls.flatten = l := by
  induction k generalizing l with
  | zero => exact ⟨[], rfl, by simp, (List.eq_nil_of_length_eq_zero (by simpa using h)).symm⟩
  | succ k ih =>
    rw [Nat.add_mul, Nat.one_mul] at h
    obtain ⟨ls, h1, h2, h3⟩ := ih (l.drop n) (by rw [List.length_drop]; omega)
    refine ⟨l.take n :: ls, by simp [h1], ?_, by simp [h3]⟩
    intro m hm
    rcases List.mem_cons.mp hm with rfl | hm
    · rw [List.length_take]; omega
    · exact h2 m hm

/-- The words of bytes that hold a whole number of them: how many, their range, and their bits (R104). -/
theorem wordsOf_spec {w k : Nat} (hw : 0 < w) (l : List Byte) (h : 8 * l.length = k * w) :
    (wordsOf w l).length = k ∧ (∀ x ∈ wordsOf w l, x < 2 ^ w) ∧ ((wordsOf w l).map (bitsOfNat w)).flatten = bitsOf l := by
  obtain ⟨ls, h1, h2, h3⟩ := exists_pieces w k (bitsOf l) (by rw [length_bitsOf, h])
  have hk : ls.length ≤ l.length * 8 := by
    rw [h1, Nat.mul_comm l.length, h]
    exact Nat.le_mul_of_pos_right k hw
  have e : wordsOf w l = ls.map natOfBits := by rw [wordsOf, ← h3, chunks_flatten hw ls h2 hk]
  have back : ∀ m ∈ ls, bitsOfNat w (natOfBits m) = m := fun m hm => h2 m hm ▸ bitsOfNat_natOfBits m
  refine ⟨by simp [e, h1], ?_, ?_⟩
  · intro x hx
    rw [e] at hx
    obtain ⟨m, hm, rfl⟩ := List.mem_map.mp hx
    rw [← back m hm, natOfBits_bitsOfNat]
    exact Nat.mod_lt _ (Nat.two_pow_pos w)
  · rw [e, List.map_map, List.map_congr_left (f := bitsOfNat w ∘ natOfBits) (g := id) back, List.map_id, h3]

/-- Packing the words of bytes gives the bytes (R104). -/
theorem packBits_wordsOf {w k : Nat} (hw : 0 < w) (l : List Byte) (h : 8 * l.length = k * w) :
    packBits w (wordsOf w l) = l := by
  obtain ⟨hlen, -, hbits⟩ := wordsOf_spec hw l h
  apply bitsOf_injective
  rw [bitsOf_packBits, hbits, hlen, ← h, show 8 * ((8 * l.length + 7) / 8) - 8 * l.length = 0 by omega]
  simp

end Sys2Proof.Machine
end

section
/-! PROOFS. The symbols of a block (R109 to R111): no code of a table begins another, and reading what was written gives the
words back. -/

namespace Sys2Proof.Machine
open Sys2Proof

/-- What the decoder finds for a code of a length. -/
def symAt (t len code : Nat) : Option Nat := (List.range 18).find? fun sym => lenOf t sym = len ∧ codeOf t sym = code

/-- Every table of Table 05-3: a code is its symbol's, and none of its beginnings is a code. -/
theorem symAt_code_prefix : ∀ t < 16, ∀ sym < 18, ∀ k < lenOf t sym,
    symAt t (lenOf t sym - k) (codeOf t sym / 2 ^ k) = if k = 0 then some sym else none := by
  decide +kernel

/-- Codes are 1 to 9 bits long and fit their length (Table 05-3). -/
theorem codeOf_fits : ∀ t < 16, ∀ sym < 18, 0 < lenOf t sym ∧ lenOf t sym ≤ 9 ∧ codeOf t sym < 2 ^ lenOf t sym := by
  decide +kernel

theorem nextSym_cons (t fuel len code : Nat) (b : Bool) (rest : List Bool) :
    nextSym t (fuel + 1) len code (b :: rest) =
      match symAt t (len + 1) (code * 2 + b.toNat) with
      | some sym => some (sym, rest)
      | none => nextSym t fuel (len + 1) (code * 2 + b.toNat) rest := rfl

/-- One more bit of a code. -/
theorem div_two_pow_succ_mul_two (c k : Nat) : c / 2 ^ (k + 1) * 2 + (bit c k).toNat = c / 2 ^ k := by
  rw [Nat.pow_succ, ← Nat.div_div_eq_div_mul, bit]
  rcases Nat.mod_two_eq_zero_or_one (c / 2 ^ k) with h | h <;> simp [h] <;> omega

theorem reverse_bitsOfNat_succ (k c : Nat) : (bitsOfNat (k + 1) c).reverse = bit c k :: (bitsOfNat k c).reverse := by
  simp [bitsOfNat, List.range_succ]

/-- With k bits of a symbol's code to come, the decoder reads them and finds the symbol. -/
theorem nextSym_rest_of_code {t sym : Nat} (ht : t < 16) (hs : sym < 18) (rest : List Bool) {k fuel : Nat} (hk : 0 < k)
    (hl : k ≤ lenOf t sym) (hf : k ≤ fuel) :
    nextSym t fuel (lenOf t sym - k) (codeOf t sym / 2 ^ k) ((bitsOfNat k (codeOf t sym)).reverse ++ rest) =
      some (sym, rest) := by
  induction k generalizing fuel with
  | zero => omega
  | succ k ih =>
    obtain ⟨fuel, rfl⟩ : ∃ j, fuel = j + 1 := ⟨fuel - 1, by omega⟩
    have hlen : lenOf t sym - (k + 1) + 1 = lenOf t sym - k := by omega
    rw [reverse_bitsOfNat_succ, List.cons_append, nextSym_cons, div_two_pow_succ_mul_two, hlen,
      symAt_code_prefix t ht sym hs k (by omega)]
    rcases Nat.eq_zero_or_pos k with rfl | hpos
    · rfl
    · rw [if_neg (by omega)]
      exact ih hpos (by omega) (by omega)

/-- R110: a symbol's code is read back. -/
theorem nextSym_codeBits {t sym : Nat} (ht : t < 16) (hs : sym < 18) (rest : List Bool) :
    nextSym t 9 0 0 (codeBits t sym ++ rest) = some (sym, rest) := by
  obtain ⟨h0, h9, hc⟩ := codeOf_fits t ht sym hs
  have h := nextSym_rest_of_code ht hs rest h0 le_rfl h9
  rwa [Nat.sub_self, Nat.div_eq_of_lt hc] at h

/-- The words a symbol with its raw bits stands for (R109). -/
def symWords (ebase : Nat) (x : Nat × List Bool) : List (Option Nat) :=
  if x.1 < 16 then [some (ebase + x.1)]
  else if x.1 = 16 then List.replicate (natOfBits x.2 + 1) none else [some (natOfBits x.2)]

/-- The symbols an encoder may write: exponents in range without raw bits, runs with 4, escapes with an exponent (R109). -/
def SymOk (e ebase : Nat) (x : Nat × List Bool) : Prop :=
  x.1 < 16 ∧ x.2 = [] ∧ ebase + x.1 < 2 ^ e ∨ x.1 = 16 ∧ x.2.length = 4 ∨ x.1 = 17 ∧ x.2.length = e ∧ 4 < e

/-- The bits of a symbol: its code, then its raw bits. -/
def symBits (t : Nat) (x : Nat × List Bool) : List Bool := codeBits t x.1 ++ x.2

theorem length_symBits (t : Nat) (x : Nat × List Bool) : (symBits t x).length = lenOf t x.1 + x.2.length := by
  simp [symBits, codeBits]

theorem length_symWords_pos (ebase : Nat) (x : Nat × List Bool) : 0 < (symWords ebase x).length := by
  rw [symWords]
  split
  · simp
  · split <;> simp

/-- One round of the reader: a symbol of the encoder adds its words and its bits. -/
theorem readSyms_symBits {t e ebase n fuel : Nat} (ht : t < 16) {a : Syms} (ha : a.words.length < n) {x : Nat × List Bool}
    (hx : SymOk e ebase x) (rest : List Bool) :
    ∃ b : Syms, b.words = a.words ++ symWords ebase x ∧ b.used = a.used + (lenOf t x.1 + x.2.length) ∧
      readSyms t e ebase n (fuel + 1) a (symBits t x ++ rest) = readSyms t e ebase n fuel b rest := by
  obtain ⟨sym, raw⟩ := x
  have hn : ¬ n ≤ a.words.length := by omega
  rcases hx with ⟨h, rfl, hr⟩ | ⟨rfl, hr⟩ | ⟨rfl, hr, he⟩
  · refine ⟨{ a with
      words := a.words ++ [some (ebase + sym)], used := a.used + lenOf t sym,
      cost := a.cost + if lenOf t sym ≤ 4 then 1 else 4 }, by simp only [symWords, if_pos h], rfl, ?_⟩
    simp only [readSyms, symBits, List.append_assoc, nextSym_codeBits ht (show sym < 18 from Nat.lt_trans h (by omega))]
    simp only [if_neg hn, if_pos h, if_neg (Nat.not_le.mpr hr), List.nil_append]
  · refine ⟨{ a with
      words := a.words ++ List.replicate (natOfBits raw + 1) none, used := a.used + lenOf t 16 + 4,
      cost := a.cost + if lenOf t 16 ≤ 4 then 1 else 4 }, rfl, by simp only [hr]; omega, ?_⟩
    simp only [readSyms, symBits, List.append_assoc, nextSym_codeBits ht (show 16 < 18 by omega)]
    simp only [if_neg hn, if_neg (show ¬ 16 < 16 by omega), if_true, List.drop_left' hr, List.take_left' hr]
  · refine ⟨{ a with
      words := a.words ++ [some (natOfBits raw)], used := a.used + lenOf t 17 + e,
      cost := a.cost + (if lenOf t 17 ≤ 4 then 1 else 4) + 4, esc := a.esc + 1 }, rfl, by simp only [hr]; omega, ?_⟩
    simp only [readSyms, symBits, List.append_assoc, nextSym_codeBits ht (show 17 < 18 by omega)]
    simp only [if_neg hn, if_neg (show ¬ 17 < 16 by omega), if_neg (show ¬ 17 = 16 by omega), if_neg (Nat.not_le.mpr he),
      List.drop_left' hr, List.take_left' hr]

/-- Reading the symbols that were written (R109): the words they stand for, with all their bits used. -/
theorem readSyms_symsBits {t e ebase n : Nat} (ht : t < 16) (l : List (Nat × List Bool)) (hl : ∀ x ∈ l, SymOk e ebase x)
    {fuel : Nat} (a : Syms) (hn : a.words.length + (l.flatMap (symWords ebase)).length = n)
    (hf : n < fuel + a.words.length) :
    ∃ b : Syms, readSyms t e ebase n fuel a (l.flatMap (symBits t)) = .ok b ∧
      b.words = a.words ++ l.flatMap (symWords ebase) ∧ b.used = a.used + (l.flatMap (symBits t)).length := by
  induction l generalizing a fuel with
  | nil =>
    obtain ⟨fuel, rfl⟩ : ∃ j, fuel = j + 1 := ⟨fuel - 1, by simp at hn; omega⟩
    exact ⟨a, by rw [readSyms, if_pos (by simp at hn; omega)], by simp, by simp⟩
  | cons x l ih =>
    have hpos := length_symWords_pos ebase x
    rw [List.flatMap_cons, List.length_append] at hn
    obtain ⟨fuel, rfl⟩ : ∃ j, fuel = j + 1 := ⟨fuel - 1, by omega⟩
    obtain ⟨b, hbw, hbu, hb⟩ := readSyms_symBits (fuel := fuel) ht (a := a) (n := n) (by omega) (hl x (by simp))
      (l.flatMap (symBits t))
    have hlen : b.words.length = a.words.length + (symWords ebase x).length := by rw [hbw, List.length_append]
    obtain ⟨c, hc, hcw, hcu⟩ := ih (fun y hy => hl y (List.mem_cons_of_mem _ hy)) (fuel := fuel) b (by omega) (by omega)
    refine ⟨c, ?_, ?_, ?_⟩
    · rw [List.flatMap_cons, hb, hc]
    · rw [hcw, hbw, List.flatMap_cons, List.append_assoc]
    · rw [hcu, hbu, List.flatMap_cons, List.length_append, length_symBits]; omega

/-! ## What the encoder writes -/

/-- A word as the reader gives it back: none for zero, its exponent field otherwise. -/
def wordExp (e m x : Nat) : Option Nat := if x = 0 then none else some (bits x m e)

/-- A nonzero word's own symbol: in the window of EBASE, or an escape (R109). -/
def expSym (e m ebase x : Nat) : Nat × List Bool :=
  if ebase ≤ bits x m e ∧ bits x m e < ebase + 16 then (bits x m e - ebase, []) else (17, bitsOfNat e (bits x m e))

theorem symWords_run {ebase k : Nat} (h : k < 16) :
    symWords ebase (16, bitsOfNat 4 k) = List.replicate (k + 1) none := by
  simp [symWords, Nat.mod_eq_of_lt h]

theorem symWords_expSym (e m ebase x : Nat) : symWords ebase (expSym e m ebase x) = [some (bits x m e)] := by
  rw [expSym]
  split
  · rename_i h
    simp only [symWords]
    rw [if_pos (by omega), Nat.add_sub_cancel' h.1]
  · simp only [symWords]
    rw [if_neg (by omega), if_neg (by omega), natOfBits_bitsOfNat, Nat.mod_eq_of_lt (bits_lt x m e)]

/-- The encoder's symbols stand for its words (R109, R111), k zero words being under way. -/
theorem symsOf_words (e m ebase : Nat) (ws : List Nat) {k : Nat} (hk : k < 16) :
    (symsOf e m ebase ws k).flatMap (symWords ebase) = List.replicate k none ++ ws.map (wordExp e m) := by
  induction ws generalizing k with
  | nil =>
    cases k with
    | zero => rfl
    | succ k => simp [symsOf, symWords_run (show k < 16 by omega)]
  | cons x t ih =>
    rw [symsOf, List.map_cons]
    by_cases hx : x = 0
    · have hz : wordExp e m x = none := if_pos hx
      rw [if_pos hx, hz]
      by_cases h15 : k = 15
      · rw [if_pos h15, List.flatMap_cons, ih (by omega), symWords_run (by omega), h15, List.replicate_succ']
        simp
      · rw [if_neg h15, ih (by omega), List.replicate_succ']
        simp
    · have hw : wordExp e m x = some (bits x m e) := if_neg hx
      have hexp := symWords_expSym e m ebase x
      rw [if_neg hx, hw]
      simp only [expSym] at hexp
      by_cases h0 : k = 0
      · rw [if_pos h0, List.flatMap_cons, hexp, ih (by omega), h0]
        simp
      · rw [if_neg h0, List.flatMap_cons, List.flatMap_cons, hexp, ih (by omega), symWords_run (by omega),
          Nat.sub_add_cancel (by omega)]
        simp

theorem symOk_expSym {e m ebase x : Nat} (h : 4 < e ∨ ebase = 0 ∧ e ≤ 4) : SymOk e ebase (expSym e m ebase x) := by
  have hb := bits_lt x m e
  rw [expSym]
  split
  · exact .inl ⟨by simp; omega, rfl, by simp; omega⟩
  · rename_i hr
    rcases h with h | ⟨h0, he⟩
    · exact .inr (.inr ⟨rfl, by simp, h⟩)
    · have : (2 : Nat) ^ e ≤ 2 ^ 4 := Nat.pow_le_pow_right (by omega) he
      omega

/-- Every symbol of the encoder is one the reader accepts, if EBASE is 0 where ESC is not allowed (R109). -/
theorem symsOf_ok {e m ebase : Nat} (h : 4 < e ∨ ebase = 0 ∧ e ≤ 4) (ws : List Nat) (k : Nat) :
    ∀ x ∈ symsOf e m ebase ws k, SymOk e ebase x := by
  have run : ∀ v, SymOk e ebase (16, bitsOfNat 4 v) := fun v => .inr (.inl ⟨rfl, by simp⟩)
  induction ws generalizing k with
  | nil => cases k <;> simp [symsOf, run]
  | cons x t ih =>
    have hexp := symOk_expSym (x := x) (m := m) h
    simp only [expSym] at hexp
    rw [symsOf]
    split
    · split
      · simpa [run] using ih 0
      · exact ih _
    · split
      · simpa [hexp] using ih 0
      · simpa [run, hexp] using ih 0

/-- EXP_BITS is the length of plane 1 in bits (R106). -/
theorem expBitsOf_eq (t : Nat) (l : List (Nat × List Bool)) : expBitsOf t l = (l.flatMap (symBits t)).length := by
  have h : ∀ n, l.foldl (fun n x => n + lenOf t x.1 + x.2.length) n = n + (l.flatMap (symBits t)).length := by
    induction l with
    | nil => intro n; rfl
    | cons x l ih => intro n; rw [List.foldl_cons, ih, List.flatMap_cons, List.length_append, length_symBits]; omega
  rw [expBitsOf, h, Nat.zero_add]

theorem mem_setBits_lt {n v i : Nat} (h : i ∈ setBits n v) : i < n := by
  simpa using (List.mem_filter.mp h).1

/-- The encoder takes one of the 16 tables (R111). -/
theorem bestTable_lt (mask : Nat) (l : List (Nat × List Bool)) : bestTable mask l < 16 := by
  have h : ∀ (ts : List Nat) (b : Nat), b < 16 → (∀ x ∈ ts, x < 16) →
      ts.foldl (fun b x => if expBitsOf x l < expBitsOf b l then x else b) b < 16 := by
    intro ts
    induction ts with
    | nil => exact fun b hb _ => hb
    | cons x ts ih =>
      intro b hb hts
      rw [List.foldl_cons]
      refine ih _ ?_ fun y hy => hts y (List.mem_cons_of_mem _ hy)
      split
      · exact hts x (by simp)
      · exact hb
  have hm : ∀ x ∈ setBits 16 mask, x < 16 := fun x => mem_setBits_lt
  rw [bestTable]
  split
  · omega
  · rename_i t ts heq
    rw [heq] at hm
    exact h ts t (hm t (by simp)) fun x hx => hm x (List.mem_cons_of_mem _ hx)

end Sys2Proof.Machine
end

section
/-! PROOFS. Blocks of the codec (R102 to R111): the decoder undoes the encoder, whether the block is compressed or stored raw. -/

namespace Sys2Proof.Machine
open Sys2Proof

/-! ## Formats (Table 05-1) -/

/-- A word is its sign, its exponent and its mantissa, none of them empty; exponents fit a byte. -/
theorem splitOf_widths (fmt : Nat) :
    (splitOf fmt).1 = 1 + (splitOf fmt).2.1 + (splitOf fmt).2.2.1 ∧ 0 < (splitOf fmt).2.1 ∧ (splitOf fmt).2.1 ≤ 8 ∧
      0 < (splitOf fmt).2.2.1 := by
  unfold splitOf
  split <;> decide

/-- Words divide a byte, or there are no side bytes and they divide the block; a group is never one byte. -/
theorem splitOf_group (fmt : Nat) :
    ((splitOf fmt).1 ∣ 8 ∨ (splitOf fmt).2.2.2 = 0 ∧ (splitOf fmt).1 ∣ 4096) ∧ (splitOf fmt).2.2.2 ≠ 1 := by
  unfold splitOf
  split <;> decide

/-! ## Side bytes (R104) -/

/-- The bytes of a block from offset i on at which p holds, in order. -/
def bytesAt (p : Nat → Bool) (i : Nat) (l : List Byte) : List Byte :=
  (((List.range' i l.length).zip l).filter fun x => p x.1).map (·.2)

theorem bytesAt_cons (p : Nat → Bool) (i : Nat) (b : Byte) (l : List Byte) :
    bytesAt p i (b :: l) = if p i then b :: bytesAt p (i + 1) l else bytesAt p (i + 1) l := by
  simp only [bytesAt, List.length_cons, List.range'_succ, List.zip_cons_cons, List.filter_cons]
  split <;> rfl

theorem length_bytesAt (p : Nat → Bool) (i : Nat) (l : List Byte) :
    (bytesAt p i l).length = ((List.range' i l.length).filter p).length := by
  induction l generalizing i with
  | nil => rfl
  | cons b t ih =>
    rw [bytesAt_cons, List.length_cons, List.range'_succ, List.filter_cons]
    split <;> simp [ih]

theorem length_bytesAt_add_not (p : Nat → Bool) (i : Nat) (l : List Byte) :
    (bytesAt p i l).length + (bytesAt (fun j => !p j) i l).length = l.length := by
  induction l generalizing i with
  | nil => rfl
  | cons b t ih =>
    have := ih (i + 1)
    rw [bytesAt_cons, bytesAt_cons]
    cases p i <;> simp <;> omega

/-- Laying the two parts of a block out gives the block (R104). -/
theorem layBytes_bytesAt (g base i : Nat) (l : List Byte) :
    layBytes g base l.length i (bytesAt (fun j => !isSide g base j) i l) (bytesAt (isSide g base) i l) = l := by
  induction l generalizing i with
  | nil => rfl
  | cons b t ih =>
    rw [List.length_cons, layBytes, bytesAt_cons, bytesAt_cons]
    cases isSide g base i <;> simp [ih]

/-- A block of two bytes or more has one that is no side byte. -/
theorem exists_not_side {g base : Nat} (hg : g ≠ 1) : isSide g base 0 = false ∨ isSide g base 1 = false := by
  rcases Nat.lt_or_ge g 2 with h | h
  · left; simp [isSide]; omega
  · by_contra hc
    simp only [not_or, Bool.not_eq_false, isSide, Bool.and_eq_true, decide_eq_true_eq] at hc
    obtain ⟨⟨-, h0⟩, -, h1⟩ := hc
    rw [Nat.add_zero] at h0
    rw [Nat.add_mod, h0, Nat.mod_eq_of_lt (show 1 < g by omega), show g - 1 + 1 = g by omega, Nat.mod_self] at h1
    omega

theorem words_bytes_pos {g base : Nat} (hg : g ≠ 1) {l : List Byte} (hl : 1 < l.length) :
    0 < (bytesAt (fun j => !isSide g base j) 0 l).length := by
  obtain ⟨b, c, t, rfl⟩ : ∃ b c t, l = b :: c :: t := by
    match l with
    | b :: c :: t => exact ⟨b, c, t, rfl⟩
  rw [bytesAt_cons, bytesAt_cons]
  rcases exists_not_side (base := base) hg with h | h
  · simp [h]
  · cases isSide g base 0 <;> simp [h]

/-! ## Joining words (R105) -/

/-- A word is its sign, exponent and mantissa. -/
theorem join_fields {w e m x : Nat} (hw : w = 1 + e + m) (hx : x < 2 ^ w) :
    (bit x (w - 1)).toNat * 2 ^ (w - 1) + bits x m e * 2 ^ m + bits x 0 m = x := by
  have hs : (bit x (w - 1)).toNat = x / 2 ^ (w - 1) := by
    have h : x / 2 ^ (w - 1) < 2 := by
      rw [Nat.div_lt_iff_lt_mul (Nat.two_pow_pos _), ← Nat.pow_succ', show (w - 1).succ = w by omega]
      exact hx
    rw [bit, Nat.mod_eq_of_lt h]
    generalize x / 2 ^ (w - 1) = q at h
    rcases Nat.lt_or_ge q 1 with h1 | h1
    · rw [show q = 0 by omega]; rfl
    · rw [show q = 1 by omega]; rfl
  have h1 := Nat.mod_add_div x (2 ^ m)
  have h2 := Nat.mod_add_div (x / 2 ^ m) (2 ^ e)
  rw [Nat.div_div_eq_div_mul, ← Nat.pow_add] at h2
  rw [hs, bits, bits, Nat.pow_zero, Nat.div_one, show w - 1 = m + e by omega]
  calc x / 2 ^ (m + e) * 2 ^ (m + e) + x / 2 ^ m % 2 ^ e * 2 ^ m + x % 2 ^ m
      = x % 2 ^ m + 2 ^ m * (x / 2 ^ m % 2 ^ e + 2 ^ e * (x / 2 ^ (m + e))) := by rw [Nat.pow_add]; ring
    _ = x := by rw [h2, h1]

/-- Joining the parts of words gives the words, whatever follows the signs (R105). -/
theorem joinWords_parts {w e m : Nat} (hw : w = 1 + e + m) (ws : List Nat) (h : ∀ x ∈ ws, x < 2 ^ w) (pad : List Bool) :
    joinWords w m (ws.map (wordExp e m)) ((ws.filter (· ≠ 0)).map (fun x => bit x (w - 1)) ++ pad)
      ((ws.filter (· ≠ 0)).map fun x => bits x 0 m) = ws := by
  induction ws with
  | nil => rfl
  | cons x t ih =>
    have ht := ih fun y hy => h y (List.mem_cons_of_mem _ hy)
    by_cases hx : x = 0
    · rw [List.map_cons, wordExp, if_pos hx, joinWords, List.filter_cons_of_neg (by simpa using hx), ht, hx]
    · rw [List.map_cons, wordExp, if_neg hx, joinWords, List.filter_cons_of_pos (by simpa using hx)]
      simp only [List.map_cons, List.cons_append, List.headD_cons, List.drop_succ_cons, List.drop_zero]
      rw [ht, join_fields hw (h x (by simp))]

/-! ## Bytes of an image -/

/-- The bytes of the list stand in the image from a position on. -/
def Stands (img : Nat → Byte) (pos : Nat) (l : List Byte) : Prop := ∀ i, i < l.length → img (pos + i) = l.getD i 0

theorem Stands.left {img : Nat → Byte} {pos : Nat} {l m : List Byte} (h : Stands img pos (l ++ m)) : Stands img pos l := by
  intro i hi
  rw [h i (by rw [List.length_append]; omega), List.getD_append _ _ _ _ hi]

theorem Stands.right {img : Nat → Byte} {pos : Nat} {l m : List Byte} (h : Stands img pos (l ++ m)) :
    Stands img (pos + l.length) m := by
  intro i hi
  rw [Nat.add_assoc, h _ (by rw [List.length_append]; omega), List.getD_append_right _ _ _ _ (by omega), Nat.add_sub_cancel_left]

theorem Stands.bytes {img : Nat → Byte} {pos n : Nat} {l : List Byte} (h : Stands img pos l) (hn : n = l.length) :
    (List.range n).map (fun i => img (pos + i)) = l := by
  subst hn
  refine List.ext_getElem (by simp) fun i hi _ => ?_
  rw [List.length_map, List.length_range] at hi
  rw [List.getElem_map, List.getElem_range, h i hi, List.getD_eq_getElem _ _ hi]

/-- A byte of a number's bytes. -/
theorem bytesOfNat_getD {n i : Nat} (h : i < n) (v : Nat) : ((bytesOfNat n v).getD i 0).toNat = v / 256 ^ i % 256 := by
  induction n generalizing i v with
  | zero => omega
  | succ n ih =>
    cases i with
    | zero => simp [bytesOfNat]
    | succ i =>
      rw [bytesOfNat, List.getD_cons_succ, ih (by omega), Nat.div_div_eq_div_mul, Nat.pow_succ']

theorem Stands.byte {img : Nat → Byte} {pos v i : Nat} (h : Stands img pos (bytesOfNat 8 v)) (hi : i < 8) :
    (img (pos + i)).toNat = v / 256 ^ i % 256 := by
  rw [h i (by simpa using hi), bytesOfNat_getD hi]

/-! ## A raw block -/

/-- R107, R112: a block stored raw is read back. -/
theorem decodeBlock_raw {fmt base pos : Nat} {img : Nat → Byte} {raw : List Byte} (hraw : raw.length = 512)
    (h : Stands img pos (bytesOfNat 8 (16 + 520 * 65536) ++ raw)) :
    decodeBlock fmt base img pos = .ok { raw := raw, clen := 520, isRaw := true, esc := 0, slow := false } := by
  have hb : ∀ i < 8, (img (pos + i)).toNat = (16 + 520 * 65536) / 256 ^ i % 256 := fun i hi => h.left.byte hi
  have hbytes := h.right.bytes hraw.symm
  rw [length_bytesOfNat] at hbytes
  simp only [decodeBlock, hb 0 (by omega), hb 1 (by omega), hb 2 (by omega), hb 3 (by omega), hb 4 (by omega), hb 5 (by omega),
    hb 6 (by omega), hb 7 (by omega), hbytes]
  rfl

/-! ## A compressed block -/

/-- The header of a compressed block (R107). -/
def blockHeader (t ebase clen eb nz : Nat) : Nat := t + ebase * 2 ^ 8 + clen * 2 ^ 16 + eb * 2 ^ 32 + nz * 2 ^ 48

/-- What the decoder takes from the header. -/
theorem Stands.header {img : Nat → Byte} {pos t ebase clen eb nz : Nat}
    (h : Stands img pos (bytesOfNat 8 (blockHeader t ebase clen eb nz))) (ht : t < 16) (he : ebase < 256)
    (hc : clen < 65536) (hb : eb < 65536) (hn : nz < 65536) :
    (img (pos + 0)).toNat = t ∧ (img (pos + 1)).toNat = ebase ∧ (img (pos + 2)).toNat + 256 * (img (pos + 3)).toNat = clen ∧
      (img (pos + 4)).toNat + 256 * (img (pos + 5)).toNat = eb ∧ (img (pos + 6)).toNat + 256 * (img (pos + 7)).toNat = nz := by
  have hi : ∀ i < 8, (img (pos + i)).toNat = blockHeader t ebase clen eb nz / 256 ^ i % 256 := fun i hi => h.byte hi
  rw [hi 0 (by omega), hi 1 (by omega), hi 2 (by omega), hi 3 (by omega), hi 4 (by omega), hi 5 (by omega), hi 6 (by omega),
    hi 7 (by omega), blockHeader]
  refine ⟨?_, ?_, ?_, ?_, ?_⟩ <;> omega

/-- The three planes and the side bytes of a block (R106). -/
def blockBody (t w m : Nat) (syms : List (Nat × List Bool)) (nzs : List Nat) (side : List Byte) : List Byte :=
  packBits 1 ((syms.flatMap (symBits t)).map Bool.toNat) ++
    (packBits 1 ((nzs.map fun x => bit x (w - 1)).map Bool.toNat) ++ (packBits m (nzs.map fun x => bits x 0 m) ++ side))

theorem length_blockBody (t w m : Nat) (syms : List (Nat × List Bool)) (nzs : List Nat) (side : List Byte) :
    (blockBody t w m syms nzs side).length =
      (expBitsOf t syms + 7) / 8 + ((nzs.length + 7) / 8 + ((nzs.length * m + 7) / 8 + side.length)) := by
  simp [blockBody, expBitsOf_eq]

/-- Mantissas are read back from plane 3. -/
theorem mantissas_read {m : Nat} (hm : 0 < m) (nzs : List Nat) :
    (chunks m nzs.length ((bitsOf (packBits m (nzs.map fun x => bits x 0 m))).take (nzs.length * m))).map natOfBits =
      nzs.map fun x => bits x 0 m := by
  have hlen : (((nzs.map fun x => bits x 0 m).map (bitsOfNat m)).flatten).length = nzs.length * m := by
    simp [List.length_flatten, Function.comp_def]
  rw [bitsOf_packBits, List.take_left' hlen, chunks_flatten hm _ (by simp) (by simp), List.map_map, List.map_map]
  refine List.map_congr_left fun x _ => ?_
  simp [Nat.mod_eq_of_lt (bits_lt x 0 m)]

/-- The words of a compressed block, read from its planes. -/
theorem words_read {t e ebase : Nat} (ht : t < 16) (hesc : 4 < e ∨ ebase = 0 ∧ e ≤ 4) (m : Nat) (ws : List Nat) :
    ∃ a : Syms,
      readSyms t e ebase ws.length (ws.length + 1) {}
        ((bitsOf (packBits 1 (((symsOf e m ebase ws 0).flatMap (symBits t)).map Bool.toNat))).take
          (expBitsOf t (symsOf e m ebase ws 0))) = .ok a ∧
      a.words = ws.map (wordExp e m) ∧ a.used = expBitsOf t (symsOf e m ebase ws 0) := by
  have hwords := symsOf_words e m ebase ws (k := 0) (by omega)
  obtain ⟨k, hk⟩ := bitsOf_packBits_one ((symsOf e m ebase ws 0).flatMap (symBits t))
  obtain ⟨a, h1, h2, h3⟩ := readSyms_symsBits (n := ws.length) ht (symsOf e m ebase ws 0) (symsOf_ok hesc ws 0)
    (fuel := ws.length + 1) {} (by rw [hwords]; simp) (by simp)
  refine ⟨a, ?_, ?_, ?_⟩
  · rw [hk, expBitsOf_eq, List.take_left' rfl, h1]
  · rw [h2, hwords]; simp
  · rw [h3, expBitsOf_eq]; simp

theorem filter_isSome_wordExp (e m : Nat) (ws : List Nat) :
    ((ws.map (wordExp e m)).filter Option.isSome).length = (ws.filter (· ≠ 0)).length := by
  induction ws with
  | nil => rfl
  | cons x t ih => by_cases hx : x = 0 <;> simp_all [wordExp]

/-- A list of words has at least one bit of plane 1. -/
theorem expBitsOf_symsOf_pos {t : Nat} (ht : t < 16) {e m ebase : Nat} (hesc : 4 < e ∨ ebase = 0 ∧ e ≤ 4) {ws : List Nat}
    (hws : 0 < ws.length) : 0 < expBitsOf t (symsOf e m ebase ws 0) := by
  have hwords := symsOf_words e m ebase ws (k := 0) (by omega)
  have hok := symsOf_ok (m := m) hesc ws 0
  rw [expBitsOf_eq]
  cases hl : symsOf e m ebase ws 0 with
  | nil => rw [hl] at hwords; have := congrArg List.length hwords; simp at this; omega
  | cons x l =>
    have hx := hok x (by simp [hl])
    have h18 : x.1 < 18 := by rcases hx with h | h | h <;> omega
    rw [List.flatMap_cons, List.length_append, length_symBits]
    have := (codeOf_fits t ht x.1 h18).1
    omega

end Sys2Proof.Machine
end

section
/-! PROOFS. The codec is lossless (R102 to R113): a block, then a stream of blocks. -/

namespace Sys2Proof.Machine
open Sys2Proof

/-- EBASE as the encoder chooses it (R111). -/
def blockEbase (e m : Nat) (ws : List Nat) : Nat :=
  if e ≤ 4 ∨ ws.filter (· ≠ 0) = [] then 0 else (ws.filter (· ≠ 0)).foldl (fun a x => max a (bits x m e)) 0 - 15

/-- The stored length of a body of n bytes (R107). -/
def blockLen (n : Nat) : Nat := (8 + n + 7) / 8 * 8

/-- The words of a block at an image offset: those of its bytes that are no side bytes (R104). -/
def blockWords (fmt base : Nat) (raw : List Byte) : List Nat :=
  wordsOf (splitOf fmt).1 (bytesAt (fun j => !isSide (splitOf fmt).2.2.2 base j) 0 raw)

/-- The symbols of a block. -/
def blockSyms (fmt base : Nat) (raw : List Byte) : List (Nat × List Bool) :=
  symsOf (splitOf fmt).2.1 (splitOf fmt).2.2.1
    (blockEbase (splitOf fmt).2.1 (splitOf fmt).2.2.1 (blockWords fmt base raw)) (blockWords fmt base raw) 0

/-- The body of a block. -/
def bodyOf (fmt mask base : Nat) (raw : List Byte) : List Byte :=
  blockBody (bestTable mask (blockSyms fmt base raw)) (splitOf fmt).1 (splitOf fmt).2.2.1 (blockSyms fmt base raw)
    ((blockWords fmt base raw).filter (· ≠ 0)) (bytesAt (isSide (splitOf fmt).2.2.2 base) 0 raw)

/-- The header of a block. -/
def headerOf (fmt mask base : Nat) (raw : List Byte) : Nat :=
  blockHeader (bestTable mask (blockSyms fmt base raw))
    (blockEbase (splitOf fmt).2.1 (splitOf fmt).2.2.1 (blockWords fmt base raw))
    (blockLen (bodyOf fmt mask base raw).length)
    (expBitsOf (bestTable mask (blockSyms fmt base raw)) (blockSyms fmt base raw))
    ((blockWords fmt base raw).filter (· ≠ 0)).length

theorem bits_one_eq (x i : Nat) : bits x i 1 = (bit x i).toNat := by
  rw [bits, bit]
  rcases Nat.mod_two_eq_zero_or_one (x / 2 ^ i) with h | h <;> simp [h]

/-- The encoder of R111 by its parts. -/
theorem encodeBlock_eq (fmt mask base : Nat) {raw : List Byte} (h : raw.length = 512) :
    encodeBlock fmt mask base raw =
      if 496 ≤ blockLen (bodyOf fmt mask base raw).length then (bytesOfNat 8 (16 + 520 * 65536) ++ raw, true)
      else
        (bytesOfNat 8 (headerOf fmt mask base raw) ++ (bodyOf fmt mask base raw ++
          List.replicate (blockLen (bodyOf fmt mask base raw).length - 8 - (bodyOf fmt mask base raw).length) 0), false) := by
  have hside : ∀ p : Nat → Bool,
      (((List.range 512).zip raw).filter fun x => p x.1).map (·.2) = bytesAt p 0 raw := by
    intro p; rw [bytesAt, h, List.range_eq_range']
  have hbody : ∀ (t w m : Nat) (syms : List (Nat × List Bool)) (nzs : List Nat) (side : List Byte),
      List.flatten [packBits 1 ((syms.map fun x => codeBits t x.1 ++ x.2).flatten.map Bool.toNat),
        packBits 1 (nzs.map fun x => bits x (w - 1) 1), packBits m (nzs.map fun x => bits x 0 m), side] =
      blockBody t w m syms nzs side := by
    intro t w m syms nzs side
    simp [blockBody, bits_one_eq, List.flatMap, symBits, Function.comp_def]
  simp only [encodeBlock, h, Nat.sub_self, List.replicate_zero, List.append_nil, hside,
    hside (fun j => !isSide (splitOf fmt).2.2.2 base j), hbody]
  simp only [List.flatten_cons, List.flatten_nil, List.append_nil]
  rfl

theorem blockEbase_lt {e : Nat} (he : e ≤ 8) (m : Nat) (ws : List Nat) : blockEbase e m ws < 256 := by
  have h : ∀ (l : List Nat) (a : Nat), a < 256 → l.foldl (fun a x => max a (bits x m e)) a < 256 := by
    intro l
    induction l with
    | nil => exact fun a ha => ha
    | cons x t ih =>
      intro a ha
      have hx := bits_lt x m e
      have : (2 : Nat) ^ e ≤ 2 ^ 8 := Nat.pow_le_pow_right (by omega) he
      exact ih _ (Nat.max_lt.mpr ⟨ha, by omega⟩)
  have := h (ws.filter (· ≠ 0)) 0 (by omega)
  rw [blockEbase]
  split <;> omega

theorem blockEbase_escape (e m : Nat) (ws : List Nat) : 4 < e ∨ blockEbase e m ws = 0 ∧ e ≤ 4 := by
  rcases Nat.lt_or_ge 4 e with h | h
  · exact .inl h
  · exact .inr ⟨if_pos (.inl h), h⟩

/-- The bytes of a block's words are a whole number of words (R104). -/
theorem exists_words (fmt base : Nat) {raw : List Byte} (h : raw.length = 512) :
    ∃ k, 8 * (bytesAt (fun j => !isSide (splitOf fmt).2.2.2 base j) 0 raw).length = k * (splitOf fmt).1 := by
  obtain ⟨hd | ⟨hg, hd⟩, -⟩ := splitOf_group fmt
  · obtain ⟨k, hk⟩ := hd
    refine ⟨k * (bytesAt (fun j => !isSide (splitOf fmt).2.2.2 base j) 0 raw).length, ?_⟩
    rw [Nat.mul_right_comm, Nat.mul_comm k, ← hk]
  · obtain ⟨k, hk⟩ := hd
    have hside : bytesAt (isSide (splitOf fmt).2.2.2 base) 0 raw = [] := by
      simp [bytesAt, isSide, hg]
    have := length_bytesAt_add_not (isSide (splitOf fmt).2.2.2 base) 0 raw
    rw [hside, h, List.length_nil, Nat.zero_add] at this
    exact ⟨k, by rw [this, Nat.mul_comm k, ← hk]⟩

/-- The words of a block: how many the decoder expects, their range, and that their bytes are the block's. -/
theorem blockWords_spec (fmt base : Nat) {raw : List Byte} (h : raw.length = 512) :
    (blockWords fmt base raw).length =
        (512 - (bytesAt (isSide (splitOf fmt).2.2.2 base) 0 raw).length) * 8 / (splitOf fmt).1 ∧
      0 < (blockWords fmt base raw).length ∧ (∀ x ∈ blockWords fmt base raw, x < 2 ^ (splitOf fmt).1) ∧
      packBits (splitOf fmt).1 (blockWords fmt base raw) = bytesAt (fun j => !isSide (splitOf fmt).2.2.2 base j) 0 raw := by
  obtain ⟨hw, -, -, -⟩ := splitOf_widths fmt
  obtain ⟨k, hk⟩ := exists_words fmt base h
  have hpos : 0 < (splitOf fmt).1 := by omega
  obtain ⟨hlen, hlt, -⟩ := wordsOf_spec hpos _ hk
  have hsum := length_bytesAt_add_not (isSide (splitOf fmt).2.2.2 base) 0 raw
  have hbytes := words_bytes_pos (base := base) (splitOf_group fmt).2 (show 1 < raw.length by omega)
  refine ⟨?_, ?_, hlt, packBits_wordsOf hpos _ hk⟩
  · rw [blockWords, hlen, show (512 - (bytesAt (isSide (splitOf fmt).2.2.2 base) 0 raw).length) * 8 = k * (splitOf fmt).1 by omega,
      Nat.mul_div_cancel _ hpos]
  · rw [blockWords, hlen]
    exact Nat.pos_of_mul_pos_right (by omega : 0 < k * (splitOf fmt).1)

/-- What the decoder answers, once its header, its planes and its symbols are known (R107 to R113). -/
theorem decodeBlock_of_parts {fmt base pos t ebase clen eb nz n : Nat} {img : Nat → Byte}
    {plane1 plane2 plane3 side : List Byte} {a : Syms}
    (h0 : (img (pos + 0)).toNat = t) (h1 : (img (pos + 1)).toNat = ebase)
    (h2 : (img (pos + 2)).toNat + 256 * (img (pos + 3)).toNat = clen)
    (h4 : (img (pos + 4)).toNat + 256 * (img (pos + 5)).toNat = eb)
    (h6 : (img (pos + 6)).toNat + 256 * (img (pos + 7)).toNat = nz)
    (ht : t < 16) (hesc : 4 < (splitOf fmt).2.1 ∨ ebase = 0 ∧ (splitOf fmt).2.1 ≤ 4)
    (hsN : ((List.range 512).filter (isSide (splitOf fmt).2.2.2 base)).length = side.length)
    (hn : (512 - side.length) * 8 / (splitOf fmt).1 = n)
    (l1 : (eb + 7) / 8 = plane1.length) (l2 : (nz + 7) / 8 = plane2.length)
    (l3 : (nz * (splitOf fmt).2.2.1 + 7) / 8 = plane3.length)
    (hlow : 16 ≤ clen) (hhigh : clen < 496)
    (hclen : (8 + plane1.length + plane2.length + plane3.length + side.length + 7) / 8 * 8 = clen)
    (hbody : Stands img (pos + 8) (plane1 ++ (plane2 ++ (plane3 ++ side))))
    (hread : readSyms t (splitOf fmt).2.1 ebase n (n + 1) {} ((bitsOf plane1).take eb) = .ok a)
    (hwords : a.words.length = n) (hused : a.used = eb) (hnz : (a.words.filter Option.isSome).length = nz) :
    decodeBlock fmt base img pos =
      .ok { raw := layBytes (splitOf fmt).2.2.2 base 512 0 (packBits (splitOf fmt).1
              (joinWords (splitOf fmt).1 (splitOf fmt).2.2.1 a.words (bitsOf plane2)
                ((chunks (splitOf fmt).2.2.1 nz ((bitsOf plane3).take (nz * (splitOf fmt).2.2.1))).map natOfBits))) side,
            clen := clen, isRaw := false, esc := a.esc, slow := decide (8 < (a.cost + 127) / 128) } := by
  have hraw : bit t 4 = false := by simp [bit, Nat.div_eq_of_lt ht]
  have hrsv : t / 32 = 0 := Nat.div_eq_of_lt (by omega)
  have hbad : ¬ (clen % 8 ≠ 0 ∨ clen < 16 ∨ 496 ≤ clen ∧ clen ≤ 519 ∨ 520 < clen ∨ clen ≠ clen) := by omega
  have hesc' : ¬ (ebase ≠ 0 ∧ (splitOf fmt).2.1 ≤ 4) := by omega
  have b1 := hbody.left.bytes (Nat.add_sub_cancel_left 8 plane1.length)
  have b2 : (List.range (8 + plane1.length + plane2.length - (8 + plane1.length))).map
      (fun i => img (pos + (8 + plane1.length) + i)) = plane2 :=
    Stands.bytes (Nat.add_assoc pos .. ▸ hbody.right.left) (Nat.add_sub_cancel_left ..)
  have b3 : (List.range (8 + plane1.length + plane2.length + plane3.length - (8 + plane1.length + plane2.length))).map
      (fun i => img (pos + (8 + plane1.length + plane2.length) + i)) = plane3 := by
    refine Stands.bytes ?_ (Nat.add_sub_cancel_left ..)
    simpa only [← Nat.add_assoc] using hbody.right.right.left
  have b4 : (List.range side.length).map
      (fun i => img (pos + (8 + plane1.length + plane2.length + plane3.length) + i)) = side := by
    refine Stands.bytes ?_ rfl
    simpa only [← Nat.add_assoc] using hbody.right.right.right
  simp only [decodeBlock, h0, h1, h2, h4, h6, hsN, hn, l1, l2, l3, hclen, hraw, hrsv, b1, b2, b3, b4, Nat.mod_eq_of_lt ht, hread,
    hwords, hused, hnz, if_neg hbad, hesc']
  simp

/-- R108 to R113: a block that was compressed is read back. -/
theorem decodeBlock_compressed {fmt mask base pos : Nat} {img : Nat → Byte} {raw : List Byte} (hraw : raw.length = 512)
    (hlen : blockLen (bodyOf fmt mask base raw).length < 496)
    (h : Stands img pos (bytesOfNat 8 (headerOf fmt mask base raw) ++ (bodyOf fmt mask base raw ++
      List.replicate (blockLen (bodyOf fmt mask base raw).length - 8 - (bodyOf fmt mask base raw).length) 0))) :
    ∃ b, decodeBlock fmt base img pos = .ok b ∧ b.raw = raw ∧ b.clen = blockLen (bodyOf fmt mask base raw).length ∧
      b.isRaw = false := by
  obtain ⟨hw, he0, he8, hm⟩ := splitOf_widths fmt
  obtain ⟨hn, hnpos, hlt, hpack⟩ := blockWords_spec fmt base hraw
  have ht := bestTable_lt mask (blockSyms fmt base raw)
  have hesc := blockEbase_escape (splitOf fmt).2.1 (splitOf fmt).2.2.1 (blockWords fmt base raw)
  have hebpos : 0 < expBitsOf _ (blockSyms fmt base raw) := expBitsOf_symsOf_pos ht (m := (splitOf fmt).2.2.1) hesc hnpos
  have hblen : (bodyOf fmt mask base raw).length = _ := length_blockBody ..
  have hll : blockLen (bodyOf fmt mask base raw).length = (8 + (bodyOf fmt mask base raw).length + 7) / 8 * 8 := rfl
  obtain ⟨a, hread, hawords, haused⟩ := words_read ht hesc (splitOf fmt).2.2.1 (blockWords fmt base raw)
  have hside := length_bytesAt (isSide (splitOf fmt).2.2.2 base) 0 raw
  have hlay := layBytes_bytesAt (splitOf fmt).2.2.2 base 0 raw
  rw [hraw] at hside hlay
  rw [← List.range_eq_range'] at hside
  obtain ⟨k, hsigns⟩ := bitsOf_packBits_one (((blockWords fmt base raw).filter (· ≠ 0)).map fun x => bit x ((splitOf fmt).1 - 1))
  obtain ⟨h0, h1, h2, h4, h6⟩ := h.left.header ht (blockEbase_lt he8 _ _) (by omega) (by omega) (by omega)
  have hbody := h.right.left
  rw [length_bytesOfNat] at hbody
  have hdec := decodeBlock_of_parts h0 h1 h2 h4 h6 ht hesc hside.symm hn.symm (by simp [expBitsOf_eq]) (by simp) (by simp)
    (by omega) hlen (by rw [hll, hblen]; simp [expBitsOf_eq]; omega) hbody hread (by simp [hawords]) haused
    (by rw [hawords, filter_isSome_wordExp])
  refine ⟨_, hdec, ?_, rfl, rfl⟩
  simp only [hawords, hsigns, mantissas_read hm, joinWords_parts hw _ hlt, hpack, hlay]

/-- A block written by the encoder is read back, wherever it stands. -/
theorem decodeBlock_encodeBlock {fmt mask base pos : Nat} {raw : List Byte} {img : Nat → Byte} (hraw : raw.length = 512)
    (h : Stands img pos (encodeBlock fmt mask base raw).1) :
    ∃ b, decodeBlock fmt base img pos = .ok b ∧ b.raw = raw ∧ b.clen = (encodeBlock fmt mask base raw).1.length ∧
      b.clen ≤ 520 ∧ b.isRaw = (encodeBlock fmt mask base raw).2 := by
  rw [encodeBlock_eq fmt mask base hraw] at h ⊢
  split at h
  · rename_i hlong
    rw [if_pos hlong]
    exact ⟨_, decodeBlock_raw hraw h, rfl, by simp [hraw], le_rfl, rfl⟩
  · rename_i hshort
    rw [if_neg hshort]
    obtain ⟨b, hb, hbraw, hclen, hisRaw⟩ := decodeBlock_compressed hraw (by omega) h
    refine ⟨b, hb, hbraw, ?_, by omega, hisRaw⟩
    simp only [hclen, List.length_append, length_bytesOfNat, List.length_replicate, blockLen]
    omega

/-! ## Streams -/

/-- The last block of an image is filled with zeros (R103). -/
def padBlock (raw : List Byte) : List Byte := raw ++ List.replicate (512 - raw.length) 0

theorem encodeBlock_padBlock (fmt mask base : Nat) (raw : List Byte) :
    encodeBlock fmt mask base (padBlock raw) = encodeBlock fmt mask base raw := by
  have h : padBlock raw ++ List.replicate (512 - (padBlock raw).length) 0 = padBlock raw := by
    simp [padBlock, show 512 - (raw.length + (512 - raw.length)) = 0 by omega]
  simp only [encodeBlock, h]
  rfl

/-- The blocks of an image from its k-th on, as the encoder writes them. -/
def streamFrom (fmt mask k fuel : Nat) (l : List Byte) : List Byte :=
  (((chunks 512 fuel l).zipIdx k).map fun x => (encodeBlock fmt mask (x.2 * 512) x.1).1).flatten

theorem encodeStream_eq (fmt mask : Nat) (img : List Byte) :
    (encodeStream fmt mask img).1 = streamFrom fmt mask 0 img.length img := by
  simp [encodeStream, streamFrom, Function.comp_def]

theorem streamFrom_succ (fmt mask k fuel : Nat) {l : List Byte} (h : l ≠ []) :
    streamFrom fmt mask k (fuel + 1) l =
      (encodeBlock fmt mask (k * 512) (l.take 512)).1 ++ streamFrom fmt mask (k + 1) fuel (l.drop 512) := by
  obtain ⟨b, t, rfl⟩ := List.exists_cons_of_ne_nil h
  rfl

/-- R102, R103: the blocks of an image of n bytes, from the k-th on, are read back one after the other. -/
theorem decodeStream_streamFrom {fmt mask n fuel : Nat} {img : Nat → Byte} {k pos : Nat} {l : List Byte} (hf : l.length ≤ fuel)
    (hn : n ≤ k * 512 + l.length) (hl : l ≠ [] → n = k * 512 + l.length)
    (h : Stands img pos (streamFrom fmt mask k fuel l)) :
    ∃ bs, decodeStream fmt n img (fuel + 1) (k * 512) pos = .ok bs ∧ (bs.map (·.raw)).flatten.take l.length = l := by
  induction fuel generalizing k pos l with
  | zero =>
    obtain rfl : l = [] := List.eq_nil_of_length_eq_zero (by omega)
    exact ⟨[], by rw [decodeStream, if_pos (by simpa using hn)], rfl⟩
  | succ fuel ih =>
    by_cases hnil : l = []
    · subst hnil
      exact ⟨[], by rw [decodeStream, if_pos (by simpa using hn)], rfl⟩
    · have hpos : 0 < l.length := List.length_pos_of_ne_nil hnil
      have hN := hl hnil
      rw [streamFrom_succ fmt mask k fuel hnil, ← encodeBlock_padBlock] at h
      obtain ⟨b, hb, hraw, hclen, -, -⟩ := decodeBlock_encodeBlock (by simp [padBlock]) h.left
      obtain ⟨rest, hd⟩ : ∃ rest, rest = l.drop 512 := ⟨_, rfl⟩
      have hlen : rest.length = l.length - 512 := by rw [hd, List.length_drop]
      have hrest : Stands img (pos + b.clen) (streamFrom fmt mask (k + 1) fuel rest) := by
        rw [encodeBlock_padBlock] at h hclen
        rw [hclen, hd]
        exact h.right
      have hend : l.length - 512 ≠ 0 → k * 512 + l.length = (k + 1) * 512 + (l.length - 512) := by
        clear * -
        omega
      obtain ⟨bs, hbs, hflat⟩ := ih (k := k + 1) (l := rest) (by omega) (by rw [hlen, hN]; clear * -; omega)
        (fun hne => by rw [hN, hlen]; exact hend (by have := List.length_pos_of_ne_nil hne; omega)) hrest
      refine ⟨b :: bs, ?_, ?_⟩
      · rw [decodeStream, if_neg (by omega), hb, show k * 512 + 512 = (k + 1) * 512 by ring]
        simp only [hbs]
      · rw [List.map_cons, List.flatten_cons, hraw]
        rcases Nat.lt_or_ge l.length 512 with hs | hs
        · rw [padBlock, List.take_of_length_le (i := 512) (by omega), List.append_assoc, List.take_left' rfl]
        · have h512 : (l.take 512).length = 512 := by simp; omega
          have hpad : padBlock (l.take 512) = l.take 512 := by simp [padBlock, h512]
          rw [hpad, List.take_append, h512, List.take_of_length_le (l := l.take 512) (by omega), ← hlen, hflat, hd, List.take_append_drop]

/-- Settles O60: a block by its planes, each read back as it was written; a stream block by block. -/
theorem compressionIsLossless : Obligations.CompressionIsLossless := by
  unfold Obligations.CompressionIsLossless
  refine ⟨fun fmt mask base pos raw img hraw h => decodeBlock_encodeBlock hraw h, fun fmt mask raw => ?_⟩
  have h := decodeStream_streamFrom (fmt := fmt) (mask := mask) (n := raw.length) (k := 0) (pos := 0) (l := raw)
    (img := fun i => (encodeStream fmt mask raw).1.getD i 0) le_rfl (by omega) (fun _ => by omega)
    (fun i _ => by rw [encodeStream_eq, Nat.zero_add])
  rwa [Nat.zero_mul] at h

end Sys2Proof.Machine
end

section
/-! PROOFS. What every operation keeps: the canonical form of the stores, the fuses, the wiring and the queue of commands. -/

namespace Sys2Proof.Machine
open Sys2Proof

/-- What an operation touches: a component of the state; of the tiles only what a running task knows of its FAR accesses; the
register words and counters of the pages of a kind, or of any page. -/
structure Touch where
  /-- The bit of the touch. -/
  ix : Nat
deriving DecidableEq

namespace Touch

def now : Touch := ⟨0⟩
def fresh : Touch := ⟨1⟩
def pending : Touch := ⟨2⟩
def out : Touch := ⟨3⟩
def regs : Touch := ⟨4⟩
def cnt : Touch := ⟨5⟩
def shadow : Touch := ⟨6⟩
def mem : Touch := ⟨7⟩
def sram : Touch := ⟨8⟩
def sramBad : Touch := ⟨9⟩
def tiles : Touch := ⟨10⟩
def parts : Touch := ⟨11⟩
def movers : Touch := ⟨12⟩
def tenants : Touch := ⟨13⟩
def reqs : Touch := ⟨14⟩
def convs : Touch := ⟨15⟩
def tier : Touch := ⟨16⟩
def rrc : Touch := ⟨17⟩
def engines : Touch := ⟨18⟩
def regions : Touch := ⟨19⟩
def qps : Touch := ⟨20⟩
def ports : Touch := ⟨21⟩
def finj : Touch := ⟨22⟩
def srch : Touch := ⟨23⟩
def units : Touch := ⟨24⟩
def digs : Touch := ⟨25⟩
def elog : Touch := ⟨26⟩
def qrm : Touch := ⟨27⟩
def pwr : Touch := ⟨28⟩
def rst : Touch := ⟨29⟩
def fuses : Touch := ⟨30⟩
def wlh : Touch := ⟨31⟩
def ledger : Touch := ⟨32⟩
def uart : Touch := ⟨33⟩
def pcie : Touch := ⟨34⟩
def sync : Touch := ⟨35⟩
def unreached : Touch := ⟨36⟩
def far : Touch := ⟨37⟩
def anyPage : Touch := ⟨38⟩
def page (k : Kind) : Touch := ⟨64 + k.ctorIdx⟩

end Touch

theorem Touch.eq_of_ix {c d : Touch} (h : c.ix = d.ix) : c = d := by
  cases c
  cases d
  exact congrArg Touch.mk h

/-- A component, wholly. -/
def Comp.touch (c : Comp) : Touch := ⟨c.ctorIdx⟩

theorem Comp.ctorIdx_lt (c : Comp) : c.ctorIdx < 37 := by cases c <;> decide

theorem Comp.touch_inj {c d : Comp} (h : c.touch = d.touch) : c = d := by
  have hl (e : Comp) : ([.now, .fresh, .pending, .out, .regs, .cnt, .shadow, .mem, .sram, .sramBad, .tiles, .parts, .movers, .tenants, .reqs,
      .convs, .tier, .rrc, .engines, .regions] ++ [.qps, .ports, .finj, .srch, .units, .digs, .elog, .qrm, .pwr, .rst, .fuses, .wlh, .ledger,
      .uart, .pcie, .sync, .unreached] : List Comp)[e.ctorIdx]? = some e := by cases e <;> rfl
  have hi : c.ctorIdx = d.ctorIdx := congrArg Touch.ix h
  exact Option.some.inj (by rw [← hl c, hi, hl d])

theorem Comp.touch_ne (c : Comp) {n : Nat} (h : 37 ≤ n) : c.touch ≠ ⟨n⟩ := by
  have := c.ctorIdx_lt
  intro e
  have hi : c.ctorIdx = n := congrArg Touch.ix e
  omega

/-- A list of touches, a bit each. -/
def Touch.mask (l : List Touch) : Nat := List.rec 0 (fun c _ m => Nat.lor (Nat.pow 2 c.ix) m) l

/-- Every touch of one list is in another: decided on their bits. -/
def Touch.within (k l : List Touch) : Bool := Nat.beq (Nat.land (Touch.mask k) (Touch.mask l)) (Touch.mask k)

theorem Touch.testBit_mask (l : List Touch) (c : Touch) : (Touch.mask l).testBit c.ix = decide (c ∈ l) := by
  induction l with
  | nil => simp [Touch.mask]
  | cons d l ih =>
    have e : Touch.mask (d :: l) = 2 ^ d.ix ||| Touch.mask l := rfl
    rw [e, Nat.testBit_or, ih, Nat.testBit_two_pow]
    by_cases h : c = d
    · simp [h]
    · have : d.ix ≠ c.ix := fun he => h (Touch.eq_of_ix he.symm)
      simp [h, this]

theorem Touch.mem_of_within {k l : List Touch} (h : Touch.within k l = true) {c : Touch} (hc : c ∈ k) : c ∈ l := by
  have h1 := congrArg (fun n => n.testBit c.ix) (Nat.eq_of_beq_eq_true h : Touch.mask k &&& Touch.mask l = Touch.mask k)
  simp only [Nat.testBit_and, Touch.testBit_mask, hc, decide_true, Bool.true_and, decide_eq_true_eq] at h1
  exact h1

theorem Touch.mem_of_bit {l : List Touch} {c : Touch} (h : (Touch.mask l).testBit c.ix = true) : c ∈ l :=
  of_decide_eq_true ((Touch.testBit_mask l c).symm.trans h)

theorem Touch.within_of {k l : List Touch} (h : ∀ c ∈ k, c ∈ l) : Touch.within k l = true := by
  refine Nat.beq_eq.mpr (Nat.eq_of_testBit_eq (x := Touch.mask k &&& Touch.mask l) fun i => ?_)
  rw [Nat.testBit_and]
  by_cases hi : ∃ c : Touch, c.ix = i
  · obtain ⟨c, rfl⟩ := hi
    rw [Touch.testBit_mask, Touch.testBit_mask]
    by_cases hc : c ∈ k
    · simp [hc, h c hc]
    · simp [hc]
  · have : (Touch.mask k).testBit i = false := by
      clear h
      induction k with
      | nil => simp [Touch.mask]
      | cons d k ih =>
        have e : Touch.mask (d :: k) = 2 ^ d.ix ||| Touch.mask k := rfl
        rw [e, Nat.testBit_or, ih, Nat.testBit_two_pow]
        simpa using fun hd => hi ⟨d, hd⟩
    rw [this, Bool.false_and]

theorem Touch.within_append {k l m : List Touch} (h : Touch.within k m = true) (g : Touch.within l m = true) : Touch.within (k ++ l) m = true :=
  Touch.within_of fun _ hc => (List.mem_append.mp hc).elim (Touch.mem_of_within h) (Touch.mem_of_within g)

theorem Touch.within_trans {k l m : List Touch} (h : Touch.within k l = true) (g : Touch.within l m = true) : Touch.within k m = true :=
  Touch.within_of fun _ hc => Touch.mem_of_within g (Touch.mem_of_within h hc)

/-- The words and counters of a page are among what is touched. -/
def Touch.pageIn (pg : Page) (l : List Touch) : Bool :=
  within [.anyPage] l || match pg with
    | .dev => within [.page .dev] l | .rstc => within [.page .rstc] l
    | .pwr => within [.page .pwr] l | .clk => within [.page .clk] l
    | .wlh => within [.page .wlh] l | .ledg => within [.page .ledg] l
    | .uart => within [.page .uart] l | .pcie => within [.page .pcie] l
    | .sync => within [.page .sync] l | .pin => within [.page .pin] l
    | .bas _ => within [.page .bas] l | .shl _ => within [.page .shl] l
    | .tier => within [.page .tier] l | .deep _ => within [.page .deep] l
    | .disp _ => within [.page .disp] l | .samp _ => within [.page .samp] l
    | .move _ => within [.page .move] l | .admt _ => within [.page .admt] l
    | .tile _ => within [.page .tile] l | .port _ => within [.page .port] l
    | .feng _ => within [.page .feng] l | .dig => within [.page .dig] l
    | .elog => within [.page .elog] l | .srch => within [.page .srch] l
    | .codec => within [.page .codec] l | .mon => within [.page .mon] l
    | .finj => within [.page .finj] l | .qrm => within [.page .qrm] l
    | .time => within [.page .time] l

theorem Touch.pageIn_eq (pg : Page) (l : List Touch) : Touch.pageIn pg l = (within [.anyPage] l || within [.page pg.kind] l) := by
  cases pg <;> rfl

theorem Touch.pageIn_trans {pg : Page} {k l : List Touch} (h : Touch.pageIn pg k = true) (g : Touch.within k l = true) :
    Touch.pageIn pg l = true := by
  rw [Touch.pageIn_eq, Bool.or_eq_true] at h ⊢
  exact h.imp (Touch.within_trans · g) (Touch.within_trans · g)

/-- The page RSTC. -/
def isRstc : Page → Bool
  | .rstc => true
  | _ => false

/-- The words of instance i of a field lie in its page. -/
def Fld.fits (f : Fld) (i : Nat) : Bool := decide (f.off + i * f.stride + 4 * f.words ≤ 4096)

/-- The counter of resets is no other place of a page. -/
theorem Page.resets_of_base {pg : Page} {o : Nat} (h : o < 4096) (e : Page.rstc.base + 0x98 = pg.base + o) : isRstc pg = true ∧ o = 0x98 := by
  cases pg <;> simp only [Page.base, Page.kind, Page.inst, Kind.place, isRstc, Bool.false_eq_true, false_and, true_and] at e ⊢ <;> omega

theorem Kind.eq_of_ctorIdx {k j : Kind} (h : k.ctorIdx = j.ctorIdx) : k = j := by
  have hl (e : Kind) : ([.hdr, .dev, .rstc, .pwr, .clk, .wlh, .ledg, .uart, .pcie, .sync, .pin, .bas, .shl, .tier, .deep, .disp, .samp, .move,
      .admt, .tile, .port, .feng, .dig, .elog, .srch, .codec, .mon, .finj, .qrm, .time] : List Kind)[e.ctorIdx]? = some e := by cases e <;> rfl
  exact Option.some.inj (by rw [← hl k, h, hl j])

/-- What every command keeps: the stores' canonical form, the fuses, the fabric's wiring, the queue of commands; and that it touches
what the list says alone. -/
structure Steady (l : List Touch) (s t : State) : Prop where
  canonical : s.canonical = true → t.canonical = true
  fuses : t.fuses = s.fuses
  unreached : t.unreached = s.unreached
  pending : t.pending = s.pending
  same : ∀ c : Comp, c.touch ∉ l → (c = .tiles → Touch.far ∉ l) → Comp.same s t c
  still : Touch.tiles ∉ l → s.tiles = [] → t.tiles = []
  words : Touch.anyPage ∉ l → ∀ a, (∀ pg : Page, Touch.page pg.kind ∈ l → a < pg.base ∨ pg.base + 4096 ≤ a) →
    t.word a = s.word a ∧ Map.get 0 t.cnt a = Map.get 0 s.cnt a
  resets : Touch.anyPage ∉ l → t.counter .rstc 0x98 = s.counter .rstc 0x98

/-- The same of an operation that may answer no state. -/
structure SteadyOpt (l : List Touch) (s : State) (o : Option State) : Prop where
  of_eq : ∀ {t}, o = some t → Steady l s t

/-- The same of an operation that may answer a state beside a value. -/
structure SteadyOptSnd {α : Type} (l : List Touch) (s : State) (o : Option (α × State)) : Prop where
  of_eq : ∀ {r}, o = some r → Steady l s r.2

namespace Steady

theorem refl (l : List Touch) (s : State) : Steady l s s :=
  ⟨id, rfl, rfl, rfl, fun c _ _ => s.keeps_refl [] c (by simp), fun _ h => h, fun _ _ _ => ⟨rfl, rfl⟩, fun _ => rfl⟩

variable {F k : List Touch} {s₀ s t : State}

theorem trans {s t u : State} (h : Steady F s t) (g : Steady F t u) : Steady F s u :=
  ⟨g.canonical ∘ h.canonical, g.fuses.trans h.fuses, g.unreached.trans h.unreached, g.pending.trans h.pending,
    fun c hc hf => by
      have h1 := h.same c hc hf
      have h2 := g.same c hc hf
      cases c <;> exact h2.trans h1,
    fun hl e => g.still hl (h.still hl e),
    fun hp a ha => ⟨(g.words hp a ha).1.trans (h.words hp a ha).1, (g.words hp a ha).2.trans (h.words hp a ha).2⟩,
    fun hp => (g.resets hp).trans (h.resets hp)⟩

theorem mono (h : Steady k s t) (hF : Touch.within k F = true) : Steady F s t :=
  ⟨h.canonical, h.fuses, h.unreached, h.pending,
    fun c hc hf => h.same c (fun hk => hc (Touch.mem_of_within hF hk)) fun e hk => hf e (Touch.mem_of_within hF hk),
    fun hl => h.still fun hk => hl (Touch.mem_of_within hF hk),
    fun hp a ha => h.words (fun hk => hp (Touch.mem_of_within hF hk)) a fun pg hk => ha pg (Touch.mem_of_within hF hk),
    fun hp => h.resets fun hk => hp (Touch.mem_of_within hF hk)⟩

/-- What an operation of its own components does, after others. -/
theorem widen (h : Steady F s₀ s) (g : ∀ s₁, Steady k s₁ s → Steady k s₁ t) (hF : Touch.within k F = true) : Steady F s₀ t :=
  h.trans ((g s (.refl k s)).mono hF)

/-- The pages, of any kind. -/
def pages : List Touch := .flatten
  [[.anyPage, .page .hdr, .page .dev, .page .rstc, .page .pwr, .page .clk, .page .wlh, .page .ledg, .page .uart, .page .pcie, .page .sync],
   [.page .pin, .page .bas, .page .shl, .page .tier, .page .deep, .page .disp, .page .samp, .page .move, .page .admt, .page .tile],
   [.page .port, .page .feng, .page .dig, .page .elog, .page .srch, .page .codec, .page .mon, .page .finj, .page .qrm, .page .time]]

theorem touch_not_mem_pages (c : Comp) : c.touch ∉ pages ∧ c.touch ≠ .far := by
  have hp : ∀ x ∈ pages, 37 < x.ix := by decide
  have := c.ctorIdx_lt
  refine ⟨fun h => ?_, c.touch_ne (by omega)⟩
  have := hp _ h
  simp only [Comp.touch] at this
  omega

/-- What components an operation touches, the tiles among them where a running task hears of its FAR accesses. -/
def ofComps (l : List Comp) : List Touch := l.map Comp.touch ++ if l.contains .tiles then [.far] else []

theorem mem_ofComps {l : List Comp} {c : Comp} (h : c.touch ∈ ofComps l) : c ∈ l := by
  rcases List.mem_append.mp h with h1 | h2
  · obtain ⟨d, hd, e⟩ := List.mem_map.mp h1
    exact Comp.touch_inj e ▸ hd
  · split at h2
    · exact absurd (List.mem_singleton.mp h2) (touch_not_mem_pages c).2
    · simp at h2

theorem far_mem_ofComps {l : List Comp} (h : Touch.far ∈ ofComps l) : Comp.tiles ∈ l := by
  rcases List.mem_append.mp h with h1 | h2
  · obtain ⟨d, -, e⟩ := List.mem_map.mp h1
    exact absurd e (touch_not_mem_pages d).2
  · split at h2
    next hcon => exact List.mem_of_elem_eq_true hcon
    next => simp at h2

theorem keeps {l : List Comp} (h : Steady F s t) (hF : Touch.within F (ofComps l ++ pages) = true := by rfl) : s.keeps t l := by
  intro c hc
  refine h.same c (fun hF' => ?_) fun e hf => ?_
  · rcases List.mem_append.mp (Touch.mem_of_within hF hF') with h1 | h2
    · exact hc (mem_ofComps h1)
    · exact (touch_not_mem_pages c).1 h2
  · subst e
    rcases List.mem_append.mp (Touch.mem_of_within hF hf) with h1 | h2
    · exact hc (far_mem_ofComps h1)
    · exact absurd h2 (by decide)

theorem keepsOf {l : List Comp} (h : Steady (ofComps l ++ pages) s t) : s.keeps t l := h.keeps (Touch.within_of fun _ h => h)

/-- What an operation touches, by components and pages. -/
theorem changesOn {l : List Comp} {pgs : List Page} (h : Steady F s t) (ks : List Kind) (hk : ∀ pg : Page, pg.kind ∈ ks → pg ∈ pgs)
    (hF : Touch.within F (ofComps (.regs :: .cnt :: l) ++ ks.map Touch.page) = true := by rfl) : s.changesOn t l pgs := by
  have hp (x : Touch) (hx : x ∈ F) (h64 : 37 < x.ix) : ∃ k ∈ ks, x = .page k := by
    rcases List.mem_append.mp (Touch.mem_of_within hF hx) with h1 | h2
    · exfalso
      rcases List.mem_append.mp h1 with h1 | h2
      · obtain ⟨d, -, e⟩ := List.mem_map.mp h1
        have := d.ctorIdx_lt
        rw [← e, Comp.touch] at h64
        simp only at h64
        omega
      · split at h2
        · exact absurd (List.mem_singleton.mp h2 ▸ h64) (by decide)
        · simp at h2
    · obtain ⟨k, hk, e⟩ := List.mem_map.mp h2
      exact ⟨k, hk, e.symm⟩
  refine ⟨h.keeps (Touch.within_of fun x hx => ?_), fun a ha => h.words (fun hx => ?_) a fun pg hx => ha pg (hk pg ?_)⟩
  · rcases List.mem_append.mp (Touch.mem_of_within hF hx) with h1 | h2
    · exact List.mem_append_left _ h1
    · obtain ⟨k, -, e⟩ := List.mem_map.mp h2
      exact List.mem_append_right _ (e ▸ by cases k <;> decide)
  · obtain ⟨k, -, e⟩ := hp _ hx (by decide)
    exact absurd (congrArg Touch.ix e) (by rw [Touch.page, Touch.anyPage]; simp only; omega)
  · obtain ⟨k, hkm, e⟩ := hp _ hx (by rw [Touch.page]; simp only; omega)
    have hi : 64 + pg.kind.ctorIdx = 64 + k.ctorIdx := congrArg Touch.ix e
    have : pg.kind = k := Kind.eq_of_ctorIdx (by omega)
    exact this ▸ hkm

theorem changesOnOf {l : List Comp} {pgs : List Page} (ks : List Kind) (h : Steady (ofComps (.regs :: .cnt :: l) ++ ks.map Touch.page) s t)
    (hk : ∀ pg : Page, pg.kind ∈ ks → pg ∈ pgs) : s.changesOn t l pgs := h.changesOn ks hk (Touch.within_of fun _ h => h)

/-- An update of the listed components. -/
theorem upd (h : Steady F s₀ s) (k : List Touch)
    (hk : ∀ c : Comp, c.touch ∉ k → Comp.same s t c := by
      intro c hc; cases c <;> first | (unfold Comp.same; with_reducible rfl) | exact hc.elim (Touch.mem_of_bit rfl))
    (mem : t.mem = s.mem := by with_reducible rfl) (sram : t.sram = s.sram := by with_reducible rfl)
    (bad : t.sramBad = s.sramBad := by with_reducible rfl) (regs : t.regs = s.regs := by with_reducible rfl) (cnt : t.cnt = s.cnt := by with_reducible rfl)
    (shadow : t.shadow = s.shadow := by with_reducible rfl) (fuses : t.fuses = s.fuses := by with_reducible rfl)
    (unreached : t.unreached = s.unreached := by with_reducible rfl) (pending : t.pending = s.pending := by with_reducible rfl)
    (hF : Touch.within k F = true := by rfl) : Steady F s₀ t :=
  h.trans (mono ⟨fun hc => (State.canonical_congr mem sram bad regs cnt shadow fuses).trans hc, fuses, unreached, pending, fun c hc _ => hk c hc,
    fun hl e => (hk .tiles hl).trans e, fun _ a _ => ⟨by rw [State.word, State.word, regs, fuses], by rw [cnt]⟩,
    fun _ => by rw [State.counter, State.counter, cnt]⟩ hF)

/-- An update of the stores, each of which keeps its canonical form. -/
theorem of_stores (h : Steady F s₀ s) (k : List Touch)
    (mem : Map.wf (fun _ => 0) s.mem = true → Map.wf (fun _ => 0) t.mem = true := by exact id)
    (sram : Map.wf (fun _ => 0) s.sram = true → Map.wf (fun _ => 0) t.sram = true := by exact id)
    (bad : Map.wf (fun _ => false) s.sramBad = true → Map.wf (fun _ => false) t.sramBad = true := by exact id)
    (regs : Map.wf (Reg.resetWord s.fuses.binB) s.regs = true → Map.wf (Reg.resetWord s.fuses.binB) t.regs = true := by exact id)
    (cnt : Map.wf (fun _ => 0) s.cnt = true → Map.wf (fun _ => 0) t.cnt = true := by exact id)
    (shadow : Map.rising 0 s.shadow = true → Map.rising 0 t.shadow = true := by exact id)
    (fuses : t.fuses = s.fuses := by rfl) (unreached : t.unreached = s.unreached := by rfl)
    (pending : t.pending = s.pending := by rfl)
    (hk : ∀ c : Comp, c.touch ∉ k → Comp.same s t c := by
      intro c hc; cases c <;> first | exact hc.elim (Touch.mem_of_bit rfl) | rfl)
    (words : Touch.anyPage ∉ k → ∀ a, (∀ pg : Page, Touch.page pg.kind ∈ k → a < pg.base ∨ pg.base + 4096 ≤ a) →
      t.word a = s.word a ∧ Map.get 0 t.cnt a = Map.get 0 s.cnt a := by exact fun _ _ _ => ⟨rfl, rfl⟩)
    (resets : Touch.anyPage ∉ k → t.counter .rstc 0x98 = s.counter .rstc 0x98 := by exact fun _ => rfl)
    (hF : Touch.within k F = true := by rfl) : Steady F s₀ t := by
  refine h.trans (mono ⟨fun hc => ?_, fuses, unreached, pending, fun c hc _ => hk c hc,
    fun hl e => (hk .tiles hl).trans e, words, resets⟩ hF)
  obtain ⟨hm, hs, hb, hr, hn, hw⟩ := s.canonical_iff.mp hc
  exact t.canonical_iff.mpr ⟨mem hm, sram hs, bad hb, fuses.symm ▸ regs hr, cnt hn, shadow hw⟩

/-- Whatever page a word or a counter is of. -/
theorem anywhere {k : List Touch} {P : Prop} (h : Touch.anyPage ∈ k := by simp) (n : Touch.anyPage ∉ k) : P := absurd h n

theorem setWord (h : Steady F s₀ s) (a v) (hF : Touch.within [.regs, .anyPage] F = true := by rfl) : Steady F s₀ (s.setWord a v) :=
  h.of_stores [.regs, .anyPage] (regs := fun hr => Map.set_wf _ hr a v) (words := anywhere) (resets := anywhere) (hF := hF)

theorem setWords (h : Steady F s₀ s) (a n v) (hF : Touch.within [.regs, .anyPage] F = true := by rfl) : Steady F s₀ (s.setWords a n v) := by
  induction n generalizing s a v with
  | zero => exact h
  | succ n ih => exact ih (h.setWord _ _ hF) ..

/-- An operation on one page. -/
theorem onPage {pg : Page} {c : Touch} (h : Steady F s₀ s) (hA : Steady [c, .anyPage] s t) (hk : Steady [c, .page pg.kind] s t)
    (hF : Touch.within [c] F = true) (hP : Touch.pageIn pg F = true) : Steady F s₀ t := by
  rw [Touch.pageIn_eq, Bool.or_eq_true] at hP
  rcases hP with hP | hP
  · exact h.trans (hA.mono (Touch.within_append hF hP))
  · exact h.trans (hk.mono (Touch.within_append hF hP))

/-- A field whose place on its page is not known. -/
theorem setFldAt (h : Steady F s₀ s) (pg f v i) (hF : Touch.within [.regs, .anyPage] F = true := by rfl) : Steady F s₀ (s.setFld pg f v i) :=
  h.setWords _ _ _ hF

theorem setFld (h : Steady F s₀ s) (pg f v i) (hb : f.fits i = true := by rfl)
    (hF : Touch.within [.regs] F = true := by rfl) (hP : Touch.pageIn pg F = true := by rfl) : Steady F s₀ (s.setFld pg f v i) := by
  have hs := (Steady.refl [.regs, .anyPage] s).setFldAt pg f v i
  have hb' := of_decide_eq_true hb
  have hn : (s.setFld pg f v i).cnt = s.cnt := hs.same .cnt (by decide) (by simp)
  refine h.onPage (pg := pg) (c := .regs) hs ⟨hs.canonical, hs.fuses, hs.unreached, hs.pending,
    fun c hc hf => hs.same c ?_ fun _ => by decide, fun _ => hs.still (by decide),
    fun _ a ha => ⟨State.word_setWords_other _ _ _ _ fun i hi he => ?_, congrArg (Map.get 0 · a) hn⟩,
    fun _ => congrArg (fun m => (Map.get 0 m (Page.rstc.base + 0x98)).toNat) hn⟩
    hF hP
  · simp only [List.mem_cons, List.not_mem_nil, or_false, not_or] at hc ⊢
    exact ⟨hc.1, c.touch_ne (by omega)⟩
  · rcases ha pg (by simp) with hlt | hge <;> rw [Fld.addr] at he <;> omega

/-- A word of a page. -/
theorem setWordOn (h : Steady F s₀ s) (pg : Page) (o v) (hb : Nat.blt o 4096 = true := by rfl)
    (hF : Touch.within [.regs] F = true := by rfl) (hP : Touch.pageIn pg F = true := by rfl) :
    Steady F s₀ (s.setWord (pg.base + o) v) := by
  have hs := (Steady.refl [.regs, .anyPage] s).setWord (pg.base + o) v
  have hb' : o < 4096 := Nat.blt_eq.mp hb
  refine h.onPage (pg := pg) (c := .regs) hs ⟨hs.canonical, hs.fuses, hs.unreached, hs.pending,
    fun c hc hf => hs.same c ?_ fun _ => by decide, fun _ => hs.still (by decide),
    fun _ a ha => ⟨State.word_setWord_other _ _ fun he => ?_, rfl⟩, fun _ => rfl⟩ hF hP
  · simp only [List.mem_cons, List.not_mem_nil, or_false, not_or] at hc ⊢
    exact ⟨hc.1, c.touch_ne (by omega)⟩
  · rcases ha pg (by simp) with hlt | hge <;> omega

/-- A counter whose place on its page is not known. -/
theorem countAt (h : Steady F s₀ s) (pg o n) (hF : Touch.within [.cnt, .anyPage] F = true := by rfl) : Steady F s₀ (s.count pg o n) :=
  h.of_stores [.cnt, .anyPage] (cnt := fun hn => Map.set_wf (fun _ => 0) hn _ _) (words := anywhere) (resets := anywhere) (hF := hF)

theorem count (h : Steady F s₀ s) (pg o n) (hb : Nat.blt o 4096 = true := by rfl)
    (hr : (o != 0x98 || !isRstc pg) = true := by rfl)
    (hF : Touch.within [.cnt] F = true := by rfl) (hP : Touch.pageIn pg F = true := by rfl) : Steady F s₀ (s.count pg o n) := by
  have hs := (Steady.refl [.cnt, .anyPage] s).countAt pg o n
  have hb' : o < 4096 := Nat.blt_eq.mp hb
  refine h.onPage (pg := pg) (c := .cnt) hs ⟨hs.canonical, hs.fuses, hs.unreached, hs.pending,
    fun c hc hf => hs.same c ?_ fun _ => by decide, fun _ => hs.still (by decide),
    fun _ a ha => ⟨rfl, Map.get_set_other _ _ _ _ fun he => ?_⟩, fun _ => congrArg BitVec.toNat (Map.get_set_other _ _ _ _ fun he => ?_)⟩ hF hP
  · simp only [List.mem_cons, List.not_mem_nil, or_false, not_or] at hc ⊢
    exact ⟨hc.1, c.touch_ne (by omega)⟩
  · rcases ha pg (by simp) with hlt | hge <;> omega
  · have hk : isRstc pg = true ∧ o = 0x98 := Page.resets_of_base hb' he
    simp [hk] at hr

theorem wr (h : Steady F s₀ s) (a b) (hF : Touch.within [.mem, .digs] F = true := by rfl) : Steady F s₀ (s.wr a b) :=
  h.of_stores [.mem, .digs] (mem := fun hm => Map.store_wf hm a b) (hF := hF)

theorem clearMem (h : Steady F s₀ s) (a n) (hF : Touch.within [.mem] F = true := by rfl) :
    Steady F s₀ { s with mem := Map.clear s.mem a n } :=
  h.of_stores [.mem] (mem := fun hm => Map.clear_wf _ hm ..) (hF := hF)

theorem clearSram (h : Steady F s₀ s) (a n) (hF : Touch.within [.sram, .sramBad] F = true := by rfl) :
    Steady F s₀ { s with sram := Map.clear s.sram a n, sramBad := Map.clear s.sramBad a n } :=
  h.of_stores [.sram, .sramBad] (sram := fun hs => Map.clear_wf _ hs ..) (bad := fun hb => Map.clear_wf _ hb ..) (hF := hF)

theorem wrSram (h : Steady F s₀ s) (t o b) (hF : Touch.within [.sram] F = true := by rfl) : Steady F s₀ (s.wrSram t o b) :=
  h.of_stores [.sram] (sram := fun hs => Map.store_wf hs _ b) (hF := hF)

theorem clearPage (h : Steady F s₀ s) (pg) (hF : Touch.within [.cnt, .anyPage] F = true := by rfl) : Steady F s₀ (s.clearPage pg) :=
  h.of_stores [.cnt, .anyPage] (cnt := fun hn => Map.clear_wf _ hn ..) (words := anywhere) (resets := anywhere) (hF := hF)

theorem ite {c : Prop} {_ : Decidable c} (h : Steady F s₀ s) (k : Steady F s₀ t) : Steady F s₀ (if c then s else t) := by
  split
  · exact h
  · exact k

theorem ite_snd {α : Type} {c : Prop} {_ : Decidable c} {x y : α × State} (h : Steady F s₀ x.2) (k : Steady F s₀ y.2) :
    Steady F s₀ (if c then x else y).2 := by
  split
  · exact h
  · exact k

theorem ite_fst {α : Type} {c : Prop} {_ : Decidable c} {x y : State × α} (h : Steady F s₀ x.1) (k : Steady F s₀ y.1) :
    Steady F s₀ (if c then x else y).1 := by
  split
  · exact h
  · exact k

theorem of_snd {α : Type} {x : α × State} {a : α} (e : x = (a, t)) (h : Steady F s₀ x.2) : Steady F s₀ t := by
  rw [e] at h; exact h

theorem of_fst {α : Type} {x : State × α} {a : α} (e : x = (t, a)) (h : Steady F s₀ x.1) : Steady F s₀ t := by
  rw [e] at h; exact h

theorem of_snd_snd {α β : Type} {x : α × β × State} {a : α} {b : β} (e : x = (a, b, t)) (h : Steady F s₀ x.2.2) :
    Steady F s₀ t := by
  rw [e] at h; exact h

/-- A fold of an operation that keeps what every command keeps. -/
theorem foldl {α : Type} {f : State → α → State} {l : List α} (h : Steady F s₀ s)
    (hf : ∀ u x, Steady F s₀ u → Steady F s₀ (f u x)) : Steady F s₀ (l.foldl f s) := by
  induction l generalizing s with
  | nil => exact h
  | cons x l ih => exact ih (hf _ _ h)

theorem each {α : Type} (h : Steady F s₀ s) {f : State → α → State} (hf : ∀ u x, Steady F s₀ u → Steady F s₀ (f u x)) (l) :
    Steady F s₀ (s.each l f) := h.foldl hf

theorem foldl_snd {α β : Type} {f : β × State → α → β × State} {l : List α} {a : β × State} (h : Steady F s₀ a.2)
    (hf : ∀ u x, Steady F s₀ u.2 → Steady F s₀ (f u x).2) : Steady F s₀ (l.foldl f a).2 := by
  induction l generalizing a with
  | nil => exact h
  | cons x l ih => exact ih (hf _ _ h)

/-- A snapshot's copies are put in at their keys. -/
theorem rising_foldl_put (l : List (Nat × Word64)) {m : Map Word64} (h : Map.rising 0 m = true) :
    Map.rising 0 (l.foldl (fun m e => Map.put m e.1 e.2) m) = true := by
  induction l generalizing m with
  | nil => exact h
  | cons e l ih => exact ih (Map.rising_put h (by omega) e.2)

theorem snapPage (h : Steady F s₀ s) (pg t) (hF : Touch.within [.regs, .shadow] F = true := by rfl)
    (hP : Touch.pageIn pg F = true := by rfl) : Steady F s₀ (s.snapPage pg t) := by
  unfold State.snapPage
  have hr : Touch.within [.regs] F = true := Touch.within_trans rfl hF
  extract_lets keep mine s1 s2
  have hs1 : Steady _ s₀ s1 := h.of_stores [.shadow] (shadow := fun hw => rising_foldl_put _ (Map.rising_filter hw _)) (hF := Touch.within_trans rfl hF)
  exact (hs1.setFld (hF := hr) (hP := hP) ..).setFld (hF := hr) (hP := hP) ..

end Steady

/-- The same of a command: it answers a next state. -/
def SteadyNext (l : List Touch) (s : State) (r : Res) : Prop := ∃ t, r = .next t ∧ Steady l s t

theorem SteadyNext.next {F : List Touch} {s t : State} (h : Steady F s t) : SteadyNext F s (.next t) := ⟨t, rfl, h⟩

/-- The same of an operation that may answer an error instead. -/
structure SteadyOk {α : Type} (l : List Touch) (s : State) (o : Except α State) : Prop where
  of_eq : ∀ {t}, o = .ok t → Steady l s t

/-- The same of an operation whose error carries a state, and whose value carries one that `g` picks. -/
def SteadyVia {α β : Type} (g : β → State) (l : List Touch) (s : State) (o : Except (α × State) β) : Prop :=
  (∀ e, o = .error e → Steady l s e.2) ∧ ∀ b, o = .ok b → Steady l s (g b)

/-- The same of an operation that answers a state, or an error with one. -/
abbrev SteadyEx {α : Type} (l : List Touch) (s : State) (o : Except (α × State) State) : Prop := SteadyVia id l s o

section
variable {α : Type} {F k : List Touch} {s t : State}

theorem SteadyOk.error {e : α} : SteadyOk F s (.error e) := ⟨fun h => nomatch h⟩

theorem SteadyOk.ok (h : Steady F s t) : SteadyOk F s (Except.ok (ε := α) t) := ⟨fun e => Except.ok.inj e ▸ h⟩

theorem SteadyVia.error {β : Type} {g : β → State} {e : α × State} (h : Steady F s e.2) : SteadyVia g F s (.error e) :=
  ⟨fun _ k => Except.error.inj k ▸ h, fun _ k => nomatch k⟩

theorem SteadyVia.ok {β : Type} {g : β → State} {b : β} (h : Steady F s (g b)) :
    SteadyVia g F s (Except.ok (ε := α × State) b) :=
  ⟨fun _ k => (nomatch k), fun _ k => Except.ok.inj k ▸ h⟩

theorem SteadyVia.ok_of_eq {β : Type} {g : β → State} {o : Except (α × State) β} (h : SteadyVia g F s o) {b : β}
    (e : o = .ok b) : Steady F s (g b) := h.2 b e

theorem SteadyVia.error_of_eq {β : Type} {g : β → State} {o : Except (α × State) β} (h : SteadyVia g F s o)
    {x : α × State} (e : o = .error x) : Steady F s x.2 := h.1 x e

theorem SteadyVia.map {β γ : Type} {g : β → State} {g' : γ → State} {o : Except (α × State) β} {f : β → γ}
    (h : SteadyVia g F s o) (hf : ∀ b, g' (f b) = g b) : SteadyVia g' F s (o.map f) := by
  cases o with
  | error e => exact .error (h.error_of_eq rfl)
  | ok b => exact .ok (hf b ▸ h.ok_of_eq rfl)

/-- A fold that stops at the first error. -/
theorem SteadyVia.foldlM {β γ : Type} {g : β → State} {f : β → γ → Except (α × State) β} {l : List γ} {b : β}
    (h : Steady F s (g b)) (hf : ∀ b x, Steady F s (g b) → SteadyVia g F s (f b x)) : SteadyVia g F s (l.foldlM f b) := by
  induction l generalizing b with
  | nil => exact .ok h
  | cons x l ih =>
    have hx := hf b x h
    rw [List.foldlM_cons]
    cases he : f b x with
    | error e => exact .error (hx.error_of_eq he)
    | ok c => exact ih (hx.ok_of_eq he)

end

theorem SteadyOpt.none {F : List Touch} {s : State} : SteadyOpt F s none := ⟨fun h => nomatch h⟩

theorem SteadyOpt.some {F : List Touch} {s t : State} (h : Steady F s t) : SteadyOpt F s (some t) :=
  ⟨fun e => Option.some.inj e ▸ h⟩

theorem SteadyOptSnd.none {F : List Touch} {α : Type} {s : State} : SteadyOptSnd (α := α) F s none :=
  ⟨fun h => nomatch h⟩

theorem SteadyOptSnd.some {F : List Touch} {α : Type} {s : State} {x : α × State} (h : Steady F s x.2) : SteadyOptSnd F s (some x) :=
  ⟨fun e => Option.some.inj e ▸ h⟩

theorem SteadyOpt.map {F : List Touch} {α : Type} {s : State} {o : Option α} {f : α → State} (h : ∀ x, Steady F s (f x)) :
    SteadyOpt F s (o.map f) := by
  refine ⟨fun ht => ?_⟩
  obtain ⟨x, -, rfl⟩ := Option.map_eq_some_iff.mp ht
  exact h x

theorem SteadyOptSnd.map {F : List Touch} {α β : Type} {s : State} {o : Option α} {f : α → β × State} (h : ∀ x, Steady F s (f x).2) :
    SteadyOptSnd F s (o.map f) := by
  refine ⟨fun ht => ?_⟩
  obtain ⟨x, -, rfl⟩ := Option.map_eq_some_iff.mp ht
  exact h x

theorem SteadyOpt.ite {F : List Touch} {s : State} {x y : Option State} {c : Prop} {_ : Decidable c} (h : SteadyOpt F s x) (k : SteadyOpt F s y) :
    SteadyOpt F s (if c then x else y) := by
  split
  · exact h
  · exact k

theorem SteadyOptSnd.ite {F : List Touch} {α : Type} {s : State} {x y : Option (α × State)} {c : Prop} {_ : Decidable c} (h : SteadyOptSnd F s x) (k : SteadyOptSnd F s y) :
    SteadyOptSnd F s (if c then x else y) := by
  split
  · exact h
  · exact k

theorem SteadyNext.ite {F : List Touch} {s : State} {x y : Res} {c : Prop} {_ : Decidable c} (h : SteadyNext F s x) (k : SteadyNext F s y) :
    SteadyNext F s (if c then x else y) := by
  split
  · exact h
  · exact k

section
variable {F k : List Touch} {s₀ s : State}

theorem Steady.widenOpt {o : Option State} (h : Steady F s₀ s) (g : ∀ s₁, Steady k s₁ s → SteadyOpt k s₁ o) (hF : Touch.within k F = true) :
    SteadyOpt F s₀ o := ⟨fun e => h.trans (((g s (.refl k s)).of_eq e).mono hF)⟩

theorem Steady.widenOptSnd {α : Type} {o : Option (α × State)} (h : Steady F s₀ s) (g : ∀ s₁, Steady k s₁ s → SteadyOptSnd k s₁ o)
    (hF : Touch.within k F = true) : SteadyOptSnd F s₀ o := ⟨fun e => h.trans (((g s (.refl k s)).of_eq e).mono hF)⟩

theorem Steady.widenOk {α : Type} {o : Except α State} (h : Steady F s₀ s) (g : ∀ s₁, Steady k s₁ s → SteadyOk k s₁ o)
    (hF : Touch.within k F = true) : SteadyOk F s₀ o := ⟨fun e => h.trans (((g s (.refl k s)).of_eq e).mono hF)⟩

theorem Steady.widenVia {α β : Type} {p : β → State} {o : Except (α × State) β} (h : Steady F s₀ s) (g : ∀ s₁, Steady k s₁ s → SteadyVia p k s₁ o)
    (hF : Touch.within k F = true) : SteadyVia p F s₀ o :=
  ⟨fun _ e => h.trans (((g s (.refl k s)).error_of_eq e).mono hF), fun _ e => h.trans (((g s (.refl k s)).ok_of_eq e).mono hF)⟩

theorem Steady.widenEx {α : Type} {o : Except (α × State) State} (h : Steady F s₀ s) (g : ∀ s₁, Steady k s₁ s → SteadyEx k s₁ o)
    (hF : Touch.within k F = true) : SteadyEx F s₀ o := h.widenVia g hF

theorem Steady.widenNext {r : Res} (h : Steady F s₀ s) (g : ∀ s₁, Steady k s₁ s → SteadyNext k s₁ r) (hF : Touch.within k F = true) :
    SteadyNext F s₀ r := by
  obtain ⟨t, e, ht⟩ := g s (.refl k s)
  exact ⟨t, e, h.trans (ht.mono hF)⟩

end

end Sys2Proof.Machine
end


section
/-! PROOFS. What the operations of Ops.lean keep: the named operations every meaning is built from: register words and
fields, State Space and SRAM bytes, outputs, free values. -/

namespace Sys2Proof.Machine
open Sys2Proof

theorem Steady.send {F : List Touch} {s₀ s : State} (h : Steady F s₀ s) (o)
    (hF : Touch.within [.out] F = true := by rfl) :
    Steady F s₀ (s.send o) := by
  refine h.widen (fun s₀ h => ?_) hF
  unfold State.send
  exact h.upd [.out]

theorem Steady.sends {F : List Touch} {s₀ s : State} (h : Steady F s₀ s) (l)
    (hF : Touch.within [.out] F = true := by rfl) :
    Steady F s₀ (s.sends l) := by
  refine h.widen (fun s₀ h => ?_) hF
  unfold State.sends
  exact h.upd [.out]

theorem Steady.draw {F : List Touch} {s₀ s : State} (h : Steady F s₀ s)
    (hF : Touch.within [.fresh] F = true := by rfl) :
    Steady F s₀ s.draw := by
  refine h.widen (fun s₀ h => ?_) hF
  unfold State.draw
  exact h.upd [.fresh]

theorem Steady.setTile {F : List Touch} {s₀ s : State} (h : Steady F s₀ s) (t v)
    (hF : Touch.within [.tiles] F = true := by rfl) :
    Steady F s₀ (s.setTile t v) := by
  refine h.widen (fun s₀ h => ?_) hF
  unfold State.setTile
  exact h.upd [.tiles]

theorem Steady.setPart {F : List Touch} {s₀ s : State} (h : Steady F s₀ s) (p v)
    (hF : Touch.within [.parts] F = true := by rfl) :
    Steady F s₀ (s.setPart p v) := by
  refine h.widen (fun s₀ h => ?_) hF
  unfold State.setPart
  exact h.upd [.parts]

theorem Steady.setMover {F : List Touch} {s₀ s : State} (h : Steady F s₀ s) (p v)
    (hF : Touch.within [.movers] F = true := by rfl) :
    Steady F s₀ (s.setMover p v) := by
  refine h.widen (fun s₀ h => ?_) hF
  unfold State.setMover
  exact h.upd [.movers]

theorem Steady.setTen {F : List Touch} {s₀ s : State} (h : Steady F s₀ s) (n v)
    (hF : Touch.within [.tenants] F = true := by rfl) :
    Steady F s₀ (s.setTen n v) := by
  refine h.widen (fun s₀ h => ?_) hF
  unfold State.setTen
  exact h.upd [.tenants]

theorem Steady.setEng {F : List Touch} {s₀ s : State} (h : Steady F s₀ s) (e v)
    (hF : Touch.within [.engines] F = true := by rfl) :
    Steady F s₀ (s.setEng e v) := by
  refine h.widen (fun s₀ h => ?_) hF
  unfold State.setEng
  exact h.upd [.engines]

theorem Steady.setQp {F : List Touch} {s₀ s : State} (h : Steady F s₀ s) (q v)
    (hF : Touch.within [.qps] F = true := by rfl) :
    Steady F s₀ (s.setQp q v) := by
  refine h.widen (fun s₀ h => ?_) hF
  unfold State.setQp
  exact h.upd [.qps]

theorem Steady.setPort {F : List Touch} {s₀ s : State} (h : Steady F s₀ s) (n v)
    (hF : Touch.within [.ports] F = true := by rfl) :
    Steady F s₀ (s.setPort n v) := by
  refine h.widen (fun s₀ h => ?_) hF
  unfold State.setPort
  exact h.upd [.ports]

theorem Steady.setRgn {F : List Touch} {s₀ s : State} (h : Steady F s₀ s) (p i v)
    (hF : Touch.within [.regions] F = true := by rfl) :
    Steady F s₀ (s.setRgn p i v) := by
  refine h.widen (fun s₀ h => ?_) hF
  unfold State.setRgn
  exact h.upd [.regions]

theorem Steady.setSlot {F : List Touch} {s₀ s : State} (h : Steady F s₀ s) (t i v)
    (hF : Touch.within [.tiles] F = true := by rfl) :
    Steady F s₀ (s.setSlot t i v) := by
  refine h.widen (fun s₀ h => ?_) hF
  unfold State.setSlot
  exact h.setTile ..

theorem Steady.setRs {F : List Touch} {s₀ s : State} (h : Steady F s₀ s) (p i v)
    (hF : Touch.within [.parts] F = true := by rfl) :
    Steady F s₀ (s.setRs p i v) := by
  refine h.widen (fun s₀ h => ?_) hF
  unfold State.setRs
  exact h.setPart ..

theorem Steady.when {F : List Touch} {s₀ s : State} (h : Steady F s₀ s) {f}
    (hf : ∀ x0, Steady F s₀ x0 → Steady F s₀ (f x0)) (b) :
    Steady F s₀ (s.when b f) := by
  unfold State.when
  exact .ite (hf _ h) h

end Sys2Proof.Machine
end


section
/-! PROOFS. What the operations of Flags.lean keep: the common page header at work: counters, PG_ERR, interrupts,
access to pages. -/

namespace Sys2Proof.Machine
open Sys2Proof

theorem Steady.pfVector {F : List Touch} {s₀ s : State} (h : Steady F s₀ s) (v)
    (hF : Touch.within [.out, .cnt, .pcie, .page .pcie] F = true := by rfl) :
    Steady F s₀ (s.pfVector v) := by
  refine h.widen (fun s₀ h => ?_) hF
  unfold State.pfVector
  exact .ite ((h.send ..).count ..) (.ite h (h.upd [.pcie]))

theorem Steady.vfVector {F : List Touch} {s₀ s : State} (h : Steady F s₀ s) (n v)
    (hF : Touch.within [.out, .cnt, .pcie, .page .pcie] F = true := by rfl) :
    Steady F s₀ (s.vfVector n v) := by
  refine h.widen (fun s₀ h => ?_) hF
  unfold State.vfVector
  exact .ite ((h.send ..).count ..) (.ite h (h.upd [.pcie]))

theorem Steady.irqMessage {F : List Touch} {s₀ s : State} (h : Steady F s₀ s) (pg)
    (hF : Touch.within [.out, .cnt, .pcie, .page .pcie] F = true := by rfl) :
    Steady F s₀ (s.irqMessage pg) := by
  refine h.widen (fun s₀ h => ?_) hF
  unfold State.irqMessage
  extract_lets _ s1
  have hs1 : Steady _ s₀ s1 := .ite (h.pfVector ..) h
  exact .ite (hs1.send ..) hs1

theorem Steady.irq {F : List Touch} {s₀ s : State} (h : Steady F s₀ s) (pg b)
    (hF : Touch.within [.out, .regs, .cnt, .pcie, .page .pcie] F = true := by rfl)
    (hP : Touch.pageIn pg F = true := by rfl) :
    Steady F s₀ (s.irq pg b) := by
  unfold State.irq
  extract_lets a was old t1 t2
  have ht1 : Steady _ s₀ t1 := h.setWordOn (hF := Touch.within_trans rfl hF) (hP := hP) ..
  have ht2 : Steady _ s₀ t2 := .ite ht1 (ht1.count (hF := Touch.within_trans rfl hF) (hP := hP) ..)
  exact .ite (ht2.irqMessage (hF := Touch.within_trans rfl hF) ..) ht2

theorem Steady.err {F : List Touch} {s₀ s : State} (h : Steady F s₀ s) (pg code)
    (hF : Touch.within [.regs, .cnt] F = true := by rfl)
    (hP : Touch.pageIn pg F = true := by rfl) :
    Steady F s₀ (s.err pg code) := by
  unfold State.err
  exact ((h.setFld (hF := Touch.within_trans rfl hF) (hP := hP) ..).setFld (hF := Touch.within_trans rfl hF)
      (hP := hP) ..).count (hF := Touch.within_trans rfl hF) (hP := hP) ..

theorem Steady.rsvEnc {F : List Touch} {s₀ s : State} (h : Steady F s₀ s) (pg)
    (hF : Touch.within [.regs, .cnt] F = true := by rfl)
    (hP : Touch.pageIn pg F = true := by rfl) :
    Steady F s₀ (s.rsvEnc pg) := by
  unfold State.rsvEnc
  exact (h.err (hF := Touch.within_trans rfl hF) (hP := hP) ..).count (hF := Touch.within_trans rfl hF) (hP := hP) ..

theorem Steady.swWrite {F : List Touch} {s₀ s : State} (h : Steady F s₀ s) (pg f v i)
    (hF : Touch.within [.regs, .cnt, .anyPage] F = true := by rfl) :
    Steady F s₀ (s.swWrite pg f v i) := by
  refine h.widen (fun s₀ h => ?_) hF
  unfold State.swWrite
  split
  · exact .ite (h.setFldAt ..) (h.rsvEnc ..)
  · exact .ite (h.err ..) (.ite (h.setFldAt ..) (h.rsvEnc ..))
  · exact h.setFldAt ..
  · exact h.setFldAt ..
  · exact h
  · exact h

theorem Steady.ifReady {F : List Touch} {s₀ s : State} (h : Steady F s₀ s) {f}
    (hf : ∀ x0, Steady F s₀ x0 → Steady F s₀ (f x0)) (pg) :
    Steady F s₀ (s.ifReady pg f) := by
  unfold State.ifReady
  exact .ite (hf _ h) h

theorem Steady.ifWorks {F : List Touch} {s₀ s : State} (h : Steady F s₀ s) {f}
    (hf : ∀ x0, Steady F s₀ x0 → Steady F s₀ (f x0)) (pg) :
    Steady F s₀ (s.ifWorks pg f) := by
  unfold State.ifWorks
  exact .ite (hf _ h) h

theorem Steady.wakeUnit {F : List Touch} {s₀ s : State} (h : Steady F s₀ s) (u)
    (hF : Touch.within [.cnt, .pwr, .page .pwr] F = true := by rfl) :
    Steady F s₀ (s.wakeUnit u) := by
  refine h.widen (fun s₀ h => ?_) hF
  unfold State.wakeUnit
  exact .ite ((h.upd [.pwr]).count ..) h

end Sys2Proof.Machine
end


section
/-! PROOFS. What the operations of Mon.lean keep: counter snapshots and the capture units of the MON page. -/

namespace Sys2Proof.Machine
open Sys2Proof

theorem Steady.unitTake {F : List Touch} {s₀ s : State} (h : Steady F s₀ s) (u v)
    (hF : Touch.within [.units] F = true := by rfl) :
    Steady F s₀ (s.unitTake u v) := by
  refine h.widen (fun s₀ h => ?_) hF
  unfold State.unitTake
  exact h.upd [.units]

theorem Steady.unitSample {F : List Touch} {s₀ s : State} (h : Steady F s₀ s) (u v)
    (hF : Touch.within [.out, .regs, .cnt, .units, .pcie, .page .pcie, .page .mon] F = true := by rfl) :
    Steady F s₀ (s.unitSample u v) := by
  refine h.widen (fun s₀ h => ?_) hF
  unfold State.unitSample
  exact .ite (h.unitTake ..) (.ite (h.upd [.units]) ((h.upd [.units]).irq ..))

theorem Steady.sample {F : List Touch} {s₀ s : State} (h : Steady F s₀ s) (source inst cls v)
    (hF : Touch.within [.out, .regs, .cnt, .units, .pcie, .page .pcie, .page .mon] F = true := by rfl) :
    Steady F s₀ (s.sample source inst cls v) := by
  refine h.widen (fun s₀ h => ?_) hF
  unfold State.sample
  exact h.each (fun u _ hu => .ite (hu.unitSample ..) hu) ..

theorem Steady.unitsDrain {F : List Touch} {s₀ s : State} (h : Steady F s₀ s)
    (hF : Touch.within [.units] F = true := by rfl) :
    Steady F s₀ s.unitsDrain := by
  refine h.widen (fun s₀ h => ?_) hF
  unfold State.unitsDrain
  exact h.each (fun u _ hu => by
      extract_lets
      split
      · exact hu
      · exact (hu.upd [.units]).unitTake ..) ..

theorem idle_steady {F : List Touch} {s₀ s : State} (h : Steady F s₀ s)
    (hF : Touch.within [.now, .units] F = true := by rfl) :
    SteadyNext F s₀ (idle s) := by
  refine h.widenNext (fun s₀ h => ?_) hF
  unfold idle
  exact .next ((h.upd [.now]).unitsDrain)

theorem Steady.snapUnits {F : List Touch} {s₀ s : State} (h : Steady F s₀ s)
    (hF : Touch.within [.units] F = true := by rfl) :
    Steady F s₀ s.snapUnits := by
  refine h.widen (fun s₀ h => ?_) hF
  unfold State.snapUnits
  exact h.each (fun u _ hu => hu.upd [.units]) ..

theorem Steady.clearUnits {F : List Touch} {s₀ s : State} (h : Steady F s₀ s)
    (hF : Touch.within [.units] F = true := by rfl) :
    Steady F s₀ s.clearUnits := by
  refine h.widen (fun s₀ h => ?_) hF
  unfold State.clearUnits
  exact h.each (fun u _ hu => hu.upd [.units]) ..

theorem Steady.snapshot {F : List Touch} {s₀ s : State} (h : Steady F s₀ s) (pg clr t)
    (hF : Touch.within [.regs, .cnt, .shadow, .units, .anyPage] F = true := by rfl) :
    Steady F s₀ (s.snapshot pg clr t) := by
  refine h.widen (fun s₀ h => ?_) hF
  unfold State.snapshot
  extract_lets s1 s2
  have hs1 : Steady _ s₀ s1 := h.snapPage ..
  have hs2 : Steady _ s₀ s2 := .ite hs1.snapUnits hs1
  exact .ite ((Steady.ite hs2.clearUnits hs2).clearPage ..) hs2

theorem execCntSnap_steady {F : List Touch} {s₀ s : State} (h : Steady F s₀ s) (pg clr)
    (hF : Touch.within [.regs, .cnt, .shadow, .units, .anyPage] F = true := by rfl) :
    SteadyNext F s₀ (execCntSnap pg clr s) := by
  refine h.widenNext (fun s₀ h => ?_) hF
  unfold execCntSnap
  exact .next (h.ifReady (fun u hu => hu.snapshot ..) ..)

theorem execCntClr_steady {F : List Touch} {s₀ s : State} (h : Steady F s₀ s) (pg)
    (hF : Touch.within [.cnt, .units, .anyPage] F = true := by rfl) :
    SteadyNext F s₀ (execCntClr pg s) := by
  refine h.widenNext (fun s₀ h => ?_) hF
  unfold execCntClr
  exact .next (h.ifReady (fun u hu => (Steady.ite hu.clearUnits hu).clearPage ..) ..)

theorem Steady.snapAll {F : List Touch} {s₀ s : State} (h : Steady F s₀ s) (t)
    (hF : Touch.within [.out, .regs, .cnt, .shadow, .units, .pcie, .anyPage, .page .pcie, .page .mon] F = true :=
        by rfl) :
    Steady F s₀ (s.snapAll t) := by
  refine h.widen (fun s₀ h => ?_) hF
  unfold State.snapAll
  extract_lets _ s1 s2 s3
  have hs1 : Steady _ s₀ s1 := h.each (fun u _ hu => hu.snapshot ..) ..
  have hs2 : Steady _ s₀ s2 := hs1.setFld ..
  have hs3 : Steady _ s₀ s3 := hs2.setFld ..
  exact (hs3.setFld ..).irq ..

theorem execMonSnapArm_steady {F : List Touch} {s₀ s : State} (h : Steady F s₀ s) (clear)
    (hF : Touch.within [.out, .regs, .cnt, .shadow, .units, .pcie, .anyPage, .page .pcie, .page .mon] F = true :=
        by rfl) :
    SteadyNext F s₀ (execMonSnapArm clear s) := by
  refine h.widenNext (fun s₀ h => ?_) hF
  unfold execMonSnapArm
  exact .next (h.ifReady (fun u hu => by
      extract_lets s1
      have hs1 : Steady _ s₀ s1 := (hu.setFld ..).setFld ..
      exact .ite (hu.err ..) (.ite ((hs1.snapAll ..).err ..) hs1)) ..)

theorem execMonSnapFire_steady {F : List Touch} {s₀ s : State} (h : Steady F s₀ s)
    (hF : Touch.within [.out, .regs, .cnt, .shadow, .units, .pcie, .anyPage, .page .pcie, .page .mon] F = true :=
        by rfl) :
    SteadyNext F s₀ (execMonSnapFire s) := by
  refine h.widenNext (fun s₀ h => ?_) hF
  unfold execMonSnapFire
  exact .next (.ite (h.snapAll ..) h)

theorem execUnitLevelSample_steady {F : List Touch} {s₀ s : State} (h : Steady F s₀ s) (u)
    (hF : Touch.within [.out, .regs, .cnt, .units, .pcie, .page .pcie, .page .mon] F = true := by rfl) :
    SteadyNext F s₀ (execUnitLevelSample u s) := by
  refine h.widenNext (fun s₀ h => ?_) hF
  unfold execUnitLevelSample
  exact .next (h.each (fun u1 _ hu1 => .ite (hu1.unitSample ..) hu1) ..)

theorem execUnitCfgWrite_steady {F : List Touch} {s₀ s : State} (h : Steady F s₀ s) (u w v)
    (hF : Touch.within [.regs, .cnt, .units, .anyPage, .page .mon] F = true := by rfl) :
    SteadyNext F s₀ (execUnitCfgWrite u w v s) := by
  refine h.widenNext (fun s₀ h => ?_) hF
  unfold execUnitCfgWrite
  extract_lets _ _ put
  have hput : ∀ x0 x1 x2, Steady [.regs, .cnt, .units, .anyPage, .page .mon] s₀ x0 → Steady [.regs, .cnt, .units,
      .anyPage, .page .mon] s₀ (put x0 x1 x2) :=
    (fun u1 _ _ hu1 => hu1.swWrite ..)
  exact .next (h.ifReady (fun u2 hu2 => by
      extract_lets s1 s2
      have hs1 : Steady _ s₀ s1 := .ite (hput _ _ _ (hput _ _ _ hu2)) (.ite hu2 (hu2.err ..))
      have hs2 : Steady _ s₀ s2 := hput _ _ _ hs1
      split
      · exact .ite (hs2.upd [.units]) hs2
      · exact .ite (hput _ _ _ (hput _ _ _ (hput _ _ _ hu2))) (hu2.err ..)
      · exact .ite (hput _ _ _ hu2) (hu2.err ..)
      · exact .ite (hput _ _ _ hu2) (hu2.err ..)) ..)

end Sys2Proof.Machine
end


section
/-! PROOFS. What the operations of Slots.lean keep: what the fabric engines share: planes, packets, request slots, the
placement journal, and the answers of requests. -/

namespace Sys2Proof.Machine
open Sys2Proof

theorem Steady.setEpoch {F : List Touch} {s₀ s : State} (h : Steady F s₀ s) (e)
    (hF : Touch.within [.regs, .page .qrm] F = true := by rfl) :
    Steady F s₀ (s.setEpoch e) := by
  refine h.widen (fun s₀ h => ?_) hF
  unfold State.setEpoch
  exact (h.setFld ..).setFld ..

theorem Steady.sentOn {F : List Touch} {s₀ s : State} (h : Steady F s₀ s) (e plane)
    (hF : Touch.within [.engines] F = true := by rfl) :
    Steady F s₀ (s.sentOn e plane) := by
  refine h.widen (fun s₀ h => ?_) hF
  unfold State.sentOn
  exact h.setEng ..

theorem Steady.qpRespond {F : List Touch} {s₀ s : State} (h : Steady F s₀ s) (q op r)
    (hF : Touch.within [.out, .engines] F = true := by rfl) :
    Steady F s₀ (s.qpRespond q op r) := by
  refine h.widen (fun s₀ h => ?_) hF
  unfold State.qpRespond
  split
  · exact h
  · exact (h.sentOn ..).send ..

theorem Steady.qnak {F : List Touch} {s₀ s : State} (h : Steady F s₀ s) (r code)
    (hF : Touch.within [.out, .engines] F = true := by rfl) :
    Steady F s₀ (s.qnak r code) := by
  refine h.widen (fun s₀ h => ?_) hF
  unfold State.qnak
  exact h.qpRespond ..

theorem Steady.setReqSlot {F : List Touch} {s₀ s : State} (h : Steady F s₀ s) (e tag v)
    (hF : Touch.within [.engines] F = true := by rfl) :
    Steady F s₀ (s.setReqSlot e tag v) := by
  refine h.widen (fun s₀ h => ?_) hF
  unfold State.setReqSlot
  exact h.setEng ..

theorem Steady.dropLines {F : List Touch} {s₀ s : State} (h : Steady F s₀ s) (node off n)
    (hF : Touch.within [.rrc] F = true := by rfl) :
    Steady F s₀ (s.dropLines node off n) := by
  refine h.widen (fun s₀ h => ?_) hF
  unfold State.dropLines
  exact h.upd [.rrc]

theorem Steady.journal {F : List Touch} {s₀ s : State} (h : Steady F s₀ s) (e kind status node part qpnTag ref psn)
    (hF : Touch.within [.engines] F = true := by rfl) :
    Steady F s₀ (s.journal e kind status node part qpnTag ref psn) := by
  refine h.widen (fun s₀ h => ?_) hF
  unfold State.journal
  exact .ite h (h.setEng ..)

/-- The pieces of a DMA task's transfer change what it knows of its FAR accesses, only while it runs. -/
theorem Steady.deliver {F : List Touch} {s₀ s : State} (h : Steady F s₀ s) (e tag owner kind r status data)
    (hF : Touch.within [.out, .far] F = true := by rfl) :
    Steady F s₀ (s.deliver e tag owner kind r status data) := by
  refine h.widen (fun s₀ h => ?_) hF
  unfold State.deliver
  split
  · exact h.send ..
  · extract_lets x
    split
    next hx =>
      refine h.trans ⟨(State.canonical_congr rfl rfl rfl rfl rfl rfl rfl).trans, rfl, rfl, rfl, fun c hc hf => ?_,
          fun _ e => ?_, fun _ _ _ => ⟨rfl, rfl⟩,
        fun _ => rfl⟩
      · cases c <;> first | exact absurd (hf rfl) (by decide) | rfl
      · have : x = {} := by simp [x, State.slot, State.tile, e, Map.get, Map.find]
        exact absurd (this ▸ hx).1 (by decide)
    next => exact h
  · exact h

theorem Steady.issue {F : List Touch} {s₀ s : State} (h : Steady F s₀ s) (op kind r owner)
    (hF : Touch.within [.out, .cnt, .engines, .far, .page .feng] F = true := by rfl) :
    Steady F s₀ (s.issue op kind r owner).2 := by
  refine h.widen (fun s₀ h => ?_) hF
  unfold State.issue
  extract_lets
  split
  · exact h
  · split
    · exact h.count ..
    · extract_lets
      split
      · exact h.deliver ..
      · extract_lets s1
        have hs1 : Steady _ s₀ s1 := (h.sentOn ..).send ..
        exact .ite_snd h (.ite_snd (hs1.deliver ..) (hs1.setReqSlot ..))

theorem Steady.fwdsGo {F : List Touch} {s₀ s : State} (h : Steady F s₀ s) (e)
    (hF : Touch.within [.out, .cnt, .engines, .srch, .far, .page .feng] F = true := by rfl) :
    Steady F s₀ (s.fwdsGo e) := by
  refine h.widen (fun s₀ h => ?_) hF
  unfold State.fwdsGo
  split
  · exact h
  · split
    · rename_i x snd heq
      have hsnd : Steady _ s₀ snd := .of_snd heq (h.issue ..)
      exact h
    · rename_i x1 t heq1
      have ht : Steady _ s₀ t := .of_snd heq1 (h.issue ..)
      exact ht.upd [.srch]

theorem Steady.complete {F : List Touch} {s₀ s : State} (h : Steady F s₀ s) (e tag status data)
    (hF : Touch.within [.out, .cnt, .engines, .srch, .far, .page .feng] F = true := by rfl) :
    Steady F s₀ (s.complete e tag status data) := by
  refine h.widen (fun s₀ h => ?_) hF
  unfold State.complete
  split
  · exact h
  · exact ((h.setReqSlot ..).deliver ..).fwdsGo ..

theorem Steady.journalMem {F : List Touch} {s₀ s : State} (h : Steady F s₀ s) (e kind status y)
    (hF : Touch.within [.engines] F = true := by rfl) :
    Steady F s₀ (s.journalMem e kind status y) := by
  refine h.widen (fun s₀ h => ?_) hF
  unfold State.journalMem
  exact h.journal ..

theorem Steady.answered {F : List Touch} {s₀ s : State} (h : Steady F s₀ s) (e tag y status data)
    (hF : Touch.within [.out, .regs, .cnt, .engines, .srch, .units, .pcie, .far, .page .pcie, .page .feng, .page
        .mon] F = true := by rfl) :
    Steady F s₀ (s.answered e tag y status data) := by
  refine h.widen (fun s₀ h => ?_) hF
  unfold State.answered
  extract_lets s1
  have hs1 : Steady [.out, .regs, .cnt, .engines, .srch, .units, .pcie, .far, .page .pcie, .page .feng, .page .mon]
      s₀ s1 := by
    unfold s1
    split
    · exact h.journalMem ..
    · exact .ite (h.sample ..) h
    · exact h
  exact hs1.complete ..

theorem Steady.lateResp {F : List Touch} {s₀ s : State} (h : Steady F s₀ s) (e tag)
    (hF : Touch.within [.cnt, .engines, .page .rstc, .page .feng] F = true := by rfl) :
    Steady F s₀ (s.lateResp e tag) := by
  refine h.widen (fun s₀ h => ?_) hF
  unfold State.lateResp
  exact .ite ((h.setEng ..).count ..) (h.count ..)

theorem Steady.recordNak {F : List Touch} {s₀ s : State} (h : Steady F s₀ s) (e node part code)
    (hF : Touch.within [.engines] F = true := by rfl) :
    Steady F s₀ (s.recordNak e node part code) := by
  refine h.widen (fun s₀ h => ?_) hF
  unfold State.recordNak
  exact .ite h (.ite (h.setEng ..) (h.setEng ..))

theorem Steady.flushStatus {F : List Touch} {s₀ s : State} (h : Steady F s₀ s) (e y answers)
    (hF : Touch.within [.engines] F = true := by rfl) :
    Steady F s₀ (s.flushStatus e y answers).2 := by
  refine h.widen (fun s₀ h => ?_) hF
  unfold State.flushStatus
  extract_lets _ bad
  split
  · exact h
  · clear_value bad
    split
    · exact h
    · split
      · exact h.setEng ..
      · exact .ite_snd (h.setEng ..) h

theorem Steady.markerAnswered {F : List Touch} {s₀ s : State} (h : Steady F s₀ s) (e tag plane code y)
    (hF : Touch.within [.out, .regs, .cnt, .engines, .srch, .units, .pcie, .far, .page .pcie, .page .feng, .page
        .mon] F = true := by rfl) :
    Steady F s₀ (s.markerAnswered e tag plane code y) := by
  refine h.widen (fun s₀ h => ?_) hF
  unfold State.markerAnswered
  extract_lets _ r
  have hr : Steady _ s₀ r.2 := h.flushStatus ..
  exact .ite (((hr.journalMem ..).sample ..).complete ..) (h.setReqSlot ..)

theorem Steady.localAnswer {F : List Touch} {s₀ s : State} (h : Steady F s₀ s) (r status detail data)
    (hF : Touch.within [.out, .regs, .cnt, .engines, .srch, .units, .pcie, .far, .page .rstc, .page .pcie, .page
        .feng, .page .mon] F = true := by rfl) :
    Steady F s₀ (s.localAnswer r status detail data) := by
  refine h.widen (fun s₀ h => ?_) hF
  unfold State.localAnswer
  split
  · exact h.lateResp ..
  · split
    · exact h.lateResp ..
    · split
      · exact h.markerAnswered ..
      · exact h.answered ..
      · exact h.answered ..

end Sys2Proof.Machine
end


section
/-! PROOFS. What the operations of TierOps.lean keep: the tier controller's operations: the map, frames, side slots,
accesses by page state, moves. -/

namespace Sys2Proof.Machine
open Sys2Proof

theorem Steady.setTier {F : List Touch} {s₀ s : State} (h : Steady F s₀ s) (t)
    (hF : Touch.within [.tier] F = true := by rfl) :
    Steady F s₀ (s.setTier t) := by
  refine h.widen (fun s₀ h => ?_) hF
  unfold State.setTier
  exact h.upd [.tier]

theorem Steady.needLeaf {F : List Touch} {s₀ s : State} (h : Steady F s₀ s) (page)
    (hF : Touch.within [.tier] F = true := by rfl) :
    SteadyOpt F s₀ (s.needLeaf page) := by
  refine h.widenOpt (fun s₀ h => ?_) hF
  unfold State.needLeaf
  extract_lets
  split
  · exact .some h
  · split
    · exact .none
    · exact .some (h.setTier ..)

theorem Steady.dropLeaf {F : List Touch} {s₀ s : State} (h : Steady F s₀ s) (page)
    (hF : Touch.within [.tier] F = true := by rfl) :
    Steady F s₀ (s.dropLeaf page) := by
  refine h.widen (fun s₀ h => ?_) hF
  unfold State.dropLeaf
  exact .ite (h.setTier ..) h

theorem Steady.setLeaf {F : List Touch} {s₀ s : State} (h : Steady F s₀ s) (page l)
    (hF : Touch.within [.tier] F = true := by rfl) :
    Steady F s₀ (s.setLeaf page l) := by
  refine h.widen (fun s₀ h => ?_) hF
  unfold State.setLeaf
  extract_lets _ _ _ _ _ s1
  have hs1 : Steady _ s₀ s1 := h.setTier ..
  exact hs1.dropLeaf ..

theorem Steady.useFrame {F : List Touch} {s₀ s : State} (h : Steady F s₀ s) (t f b)
    (hF : Touch.within [.tier] F = true := by rfl) :
    Steady F s₀ (s.useFrame t f b) := by
  refine h.widen (fun s₀ h => ?_) hF
  unfold State.useFrame
  exact h.setTier ..

theorem Steady.useSide {F : List Touch} {s₀ s : State} (h : Steady F s₀ s) (t z n b)
    (hF : Touch.within [.tier] F = true := by rfl) :
    Steady F s₀ (s.useSide t z n b) := by
  refine h.widen (fun s₀ h => ?_) hF
  unfold State.useSide
  exact h.setTier ..

theorem Steady.retireFrame {F : List Touch} {s₀ s : State} (h : Steady F s₀ s) (t f)
    (hF : Touch.within [.regs, .cnt, .tier, .anyPage] F = true := by rfl) :
    Steady F s₀ (s.retireFrame t f) := by
  refine h.widen (fun s₀ h => ?_) hF
  unfold State.retireFrame
  extract_lets _ _ s1
  have hs1 : Steady _ s₀ s1 := h.setTier ..
  exact (hs1.setFldAt ..).count ..

theorem Steady.freeHome {F : List Touch} {s₀ s : State} (h : Steady F s₀ s) (page l)
    (hF : Touch.within [.tier] F = true := by rfl) :
    Steady F s₀ (s.freeHome page l) := by
  refine h.widen (fun s₀ h => ?_) hF
  unfold State.freeHome
  extract_lets s1
  have hs1 : Steady _ s₀ s1 := h.useFrame ..
  exact .ite (hs1.useSide ..) hs1

theorem Steady.wakeFor {F : List Touch} {s₀ s : State} (h : Steady F s₀ s) (page)
    (hF : Touch.within [.cnt, .pwr, .page .pwr] F = true := by rfl) :
    Steady F s₀ (s.wakeFor page) := by
  refine h.widen (fun s₀ h => ?_) hF
  unfold State.wakeFor
  extract_lets _ s1
  have hs1 : Steady _ s₀ s1 := .ite (h.wakeUnit ..) h
  split
  · exact h
  · split
    · exact hs1.wakeUnit ..
    · exact hs1.wakeUnit ..
    · exact hs1.wakeUnit ..
    · exact hs1

theorem Steady.note {F : List Touch} {s₀ s0 : State} (h : Steady F s₀ s0) (page)
    (hF : Touch.within [.cnt, .tier, .pwr, .page .pwr, .page .tier] F = true := by rfl) :
    Steady F s₀ (s0.note page) := by
  refine h.widen (fun s₀ h => ?_) hF
  unfold State.note
  extract_lets s
  have hs : Steady _ s₀ s := h.wakeFor ..
  split
  · exact (hs.setTier ..).count ..
  · exact hs.setTier ..

theorem Steady.setHeld {F : List Touch} {s₀ s : State} (h : Steady F s₀ s) (page l)
    (hF : Touch.within [.tier] F = true := by rfl) :
    Steady F s₀ (s.setHeld page l) := by
  refine h.widen (fun s₀ h => ?_) hF
  unfold State.setHeld
  exact h.setTier ..

theorem Steady.dropMig {F : List Touch} {s₀ s : State} (h : Steady F s₀ s) (page)
    (hF : Touch.within [.tier] F = true := by rfl) :
    Steady F s₀ (s.dropMig page) := by
  refine h.widen (fun s₀ h => ?_) hF
  unfold State.dropMig
  exact h.setTier ..

theorem Steady.addMig {F : List Touch} {s₀ s : State} (h : Steady F s₀ s) (m)
    (hF : Touch.within [.tier] F = true := by rfl) :
    Steady F s₀ (s.addMig m) := by
  refine h.widen (fun s₀ h => ?_) hF
  unfold State.addMig
  exact h.setTier ..

theorem Steady.updMig {F : List Touch} {s₀ s : State} (h : Steady F s₀ s) (page f)
    (hF : Touch.within [.tier] F = true := by rfl) :
    Steady F s₀ (s.updMig page f) := by
  refine h.widen (fun s₀ h => ?_) hF
  unfold State.updMig
  exact h.setTier ..

theorem Steady.setStalled {F : List Touch} {s₀ s : State} (h : Steady F s₀ s) (page l)
    (hF : Touch.within [.tier] F = true := by rfl) :
    Steady F s₀ (s.setStalled page l) := by
  refine h.widen (fun s₀ h => ?_) hF
  unfold State.setStalled
  exact h.setTier ..

theorem Steady.holdNow {F : List Touch} {s₀ s : State} (h : Steady F s₀ s) (hh)
    (hF : Touch.within [.out, .cnt, .tier, .page .tier] F = true := by rfl) :
    Steady F s₀ (s.holdNow hh) := by
  refine h.widen (fun s₀ h => ?_) hF
  unfold State.holdNow
  extract_lets _ s1
  have hs1 : Steady _ s₀ s1 := h.setHeld ..
  exact (Steady.ite (hs1.count ..) hs1).send ..

theorem Steady.hold {F : List Touch} {s₀ s : State} (h : Steady F s₀ s) (hh)
    (hF : Touch.within [.out, .cnt, .tier, .page .tier] F = true := by rfl) :
    Steady F s₀ (s.hold hh) := by
  refine h.widen (fun s₀ h => ?_) hF
  unfold State.hold
  exact .ite (h.holdNow ..) ((h.setStalled ..).send ..)

theorem Steady.unhold {F : List Touch} {s₀ s : State} (h : Steady F s₀ s) (page keep)
    (hF : Touch.within [.out, .cnt, .tier, .page .tier] F = true := by rfl) :
    Steady F s₀ (s.unhold page keep) := by
  refine h.widen (fun s₀ h => ?_) hF
  unfold State.unhold
  extract_lets s1
  have hs1 : Steady _ s₀ s1 := (h.setHeld ..).setStalled ..
  exact (hs1.setStalled ..).each (fun u _ hu => hu.holdNow ..) ..

theorem Steady.keepHeld {F : List Touch} {s₀ s : State} (h : Steady F s₀ s) (keep)
    (hF : Touch.within [.tier] F = true := by rfl) :
    Steady F s₀ (s.keepHeld keep) := by
  refine h.widen (fun s₀ h => ?_) hF
  unfold State.keepHeld
  exact h.each (fun u _ hu => (hu.setHeld ..).setStalled ..) ..

theorem Steady.answerHeld {F : List Touch} {s₀ s : State} (h : Steady F s₀ s) (hh res o)
    (hF : Touch.within [.out, .tier] F = true := by rfl) :
    Steady F s₀ (s.answerHeld hh res o) := by
  refine h.widen (fun s₀ h => ?_) hF
  unfold State.answerHeld
  exact .ite (h.setTier ..) (h.send ..)

theorem Steady.moverSend {F : List Touch} {s₀ s : State} (h : Steady F s₀ s) (p type node part m)
    (hF : Touch.within [.movers] F = true := by rfl) :
    Steady F s₀ (s.moverSend p type node part m) := by
  refine h.widen (fun s₀ h => ?_) hF
  unfold State.moverSend
  extract_lets
  split
  · exact h
  · exact h.setMover ..

theorem Steady.pullPage {F : List Touch} {s₀ s : State} (h : Steady F s₀ s) (page)
    (hF : Touch.within [.tier] F = true := by rfl) :
    Steady F s₀ (s.pullPage page).2 := by
  refine h.widen (fun s₀ h => ?_) hF
  unfold State.pullPage
  extract_lets
  split
  · exact h
  · split
    · exact h
    · extract_lets _ s1
      have hs1 : Steady _ s₀ s1 := .ite (h.useSide ..) h
      exact ((hs1.useFrame ..).addMig ..).setLeaf ..

theorem Steady.pullMore {F : List Touch} {s₀ s : State} (h : Steady F s₀ s) (l page a a')
    (hF : Touch.within [.tier] F = true := by rfl) :
    Steady F s₀ (s.pullMore l page a a').2 := by
  refine h.widen (fun s₀ h' => ?_) hF
  clear hF h
  rename' h' => h
  induction a' generalizing s l page a
  case zero  =>
    unfold State.pullMore
    exact h
  case succ n ih =>
    unfold State.pullMore
    extract_lets
    split
    · split
      · rename_i x t heq
        have ht : Steady _ s₀ t := .of_snd heq (h.pullPage ..)
        extract_lets r
        have hr : Steady _ s₀ r.2 := ih (h := ht) ..
        exact hr
      · rename_i x1 _
        exact h
    · exact h

theorem Steady.pullReq {F : List Touch} {s₀ s : State} (h : Steady F s₀ s) (p i c l page layer place count resume)
    (hF : Touch.within [.movers] F = true := by rfl) :
    Steady F s₀ (s.pullReq p i c l page layer place count resume) := by
  refine h.widen (fun s₀ h => ?_) hF
  unfold State.pullReq
  exact h.moverSend ..

theorem Steady.startPull {F : List Touch} {s₀ s : State} (h : Steady F s₀ s) (page)
    (hF : Touch.within [.out, .cnt, .movers, .tier, .page .move] F = true := by rfl) :
    Steady F s₀ (s.startPull page).2 := by
  refine h.widen (fun s₀ h => ?_) hF
  unfold State.startPull
  extract_lets
  split
  · rename_i x t heq
    have ht : Steady _ s₀ t := .of_snd heq (h.pullPage ..)
    split
    · exact (ht.send ..).pullReq ..
    · extract_lets r _ s1
      have hr : Steady _ s₀ r.2 := ht.pullMore ..
      have hs1 : Steady _ s₀ s1 := ((hr.count ..).send ..).pullReq ..
      exact hs1.setMover ..
  · rename_i x1 _
    exact h.pullPage ..

theorem Steady.noteRefusal {F : List Touch} {s₀ s : State} (h : Steady F s₀ s) (src code)
    (hF : Touch.within [.out, .regs, .cnt, .pcie, .page .pcie, .page .tier] F = true := by rfl) :
    Steady F s₀ (s.noteRefusal src code) := by
  refine h.widen (fun s₀ h => ?_) hF
  unfold State.noteRefusal
  extract_lets s1
  have hs1 : Steady _ s₀ s1 := (h.err ..).count ..
  exact .ite (hs1.irq ..) hs1

theorem Steady.refuseWrite {F : List Touch} {s₀ s : State} (h : Steady F s₀ s) (src off code)
    (hF : Touch.within [.out, .regs, .cnt, .pcie, .page .pcie, .page .tier] F = true := by rfl) :
    Steady F s₀ (s.refuseWrite src off code) := by
  refine h.widen (fun s₀ h => ?_) hF
  unfold State.refuseWrite
  exact (h.noteRefusal ..).send ..

theorem Steady.refuseHeld {F : List Touch} {s₀ s : State} (h : Steady F s₀ s) (hh code)
    (hF : Touch.within [.out, .regs, .cnt, .tier, .pcie, .page .pcie, .page .tier] F = true := by rfl) :
    Steady F s₀ (s.refuseHeld hh code) := by
  refine h.widen (fun s₀ h => ?_) hF
  unfold State.refuseHeld
  exact (h.noteRefusal ..).answerHeld ..

theorem Steady.openHome {F : List Touch} {s₀ s : State} (h : Steady F s₀ s) (page side)
    (hF : Touch.within [.tier] F = true := by rfl) :
    SteadyOk F s₀ (s.openHome page side) := by
  refine h.widenOk (fun s₀ h => ?_) hF
  unfold State.openHome
  split
  · rename_i x heq
    exact .error
  · rename_i x1 s1 heq1
    have hs1 : Steady _ s₀ s1 := (h.needLeaf ..).of_eq heq1
    extract_lets _ s2
    have hs2 : Steady _ s₀ s2 := .ite (hs1.freeHome ..) hs1
    split
    · exact .error
    · extract_lets s3 s4
      have hs3 : Steady _ s₀ s3 := hs2.useFrame ..
      have hs4 : Steady _ s₀ s4 := .ite (hs3.useSide ..) hs3
      exact .ok (hs4.setLeaf ..)

theorem Steady.startFill {F : List Touch} {s₀ s : State} (h : Steady F s₀ s) (page)
    (hF : Touch.within [.cnt, .tier, .page .tier] F = true := by rfl) :
    Steady F s₀ (s.startFill page) := by
  refine h.widen (fun s₀ h => ?_) hF
  unfold State.startFill
  exact (h.setTier ..).count ..

theorem Steady.pullAndHold {F : List Touch} {s₀ s : State} (h : Steady F s₀ s) (hh)
    (hF : Touch.within [.out, .regs, .cnt, .movers, .tier, .pcie, .page .pcie, .page .tier, .page .move] F = true
        := by rfl) :
    Steady F s₀ (s.pullAndHold hh) := by
  refine h.widen (fun s₀ h => ?_) hF
  unfold State.pullAndHold
  split
  · rename_i x s1 heq
    have hs1 : Steady _ s₀ s1 := .of_snd heq (h.startPull ..)
    exact hs1.refuseHeld ..
  · rename_i x1 _ s2 heq1
    have hs2 : Steady _ s₀ s2 := .of_snd heq1 (h.startPull ..)
    exact hs2.hold ..

theorem Steady.serveHeldRead {F : List Touch} {s₀ s : State} (h : Steady F s₀ s) (hh)
    (hF : Touch.within [.out, .regs, .cnt, .movers, .tier, .pcie, .page .pcie, .page .tier, .page .move] F = true
        := by rfl) :
    Steady F s₀ (s.serveHeldRead hh) := by
  refine h.widen (fun s₀ h => ?_) hF
  unfold State.serveHeldRead
  split
  · exact h.answerHeld ..
  · exact (h.when (fun u hu => hu.count ..) ..).answerHeld ..
  · exact (h.when (fun u1 hu1 => hu1.count ..) ..).answerHeld ..
  · exact h.hold ..
  · exact h.pullAndHold ..

theorem Steady.tierRead {F : List Touch} {s₀ s : State} (h : Steady F s₀ s) (src off len ticket)
    (hF : Touch.within [.out, .regs, .cnt, .movers, .tier, .pwr, .pcie, .page .pwr, .page .pcie, .page .tier, .page
        .move] F = true := by rfl) :
    Steady F s₀ (s.tierRead src off len ticket) := by
  refine h.widen (fun s₀ h => ?_) hF
  unfold State.tierRead
  exact (h.note ..).serveHeldRead ..

theorem Steady.applyWrite {F : List Touch} {s₀ s : State} (h : Steady F s₀ s) (off data)
    (hF : Touch.within [.mem, .digs] F = true := by rfl) :
    Steady F s₀ (s.applyWrite off data) := by
  refine h.widen (fun s₀ h => ?_) hF
  unfold State.applyWrite
  exact h.wr ..

theorem Steady.openAndHold {F : List Touch} {s₀ s : State} (h : Steady F s₀ s) (hh side)
    (hF : Touch.within [.out, .regs, .cnt, .tier, .pcie, .page .pcie, .page .tier] F = true := by rfl) :
    Steady F s₀ (s.openAndHold hh side) := by
  refine h.widen (fun s₀ h => ?_) hF
  unfold State.openAndHold
  extract_lets
  split
  · rename_i x _ heq
    exact h.refuseHeld ..
  · rename_i x1 t heq1
    have ht : Steady _ s₀ t := (h.openHome ..).of_eq heq1
    exact ((ht.startFill ..).setHeld ..).send ..

theorem Steady.serveHeldWrite {F : List Touch} {s₀ s : State} (h : Steady F s₀ s) (hh data side)
    (hF : Touch.within [.out, .regs, .cnt, .mem, .movers, .tier, .digs, .pcie, .page .pcie, .page .tier, .page
        .move] F = true := by rfl) :
    Steady F s₀ (s.serveHeldWrite hh data side) := by
  refine h.widen (fun s₀ h => ?_) hF
  unfold State.serveHeldWrite
  extract_lets
  split
  · exact h.hold ..
  · split
    · exact (h.applyWrite ..).answerHeld ..
    · exact h.hold ..
    · exact h.pullAndHold ..
    · exact h.openAndHold ..
    · exact .ite (h.openAndHold ..) (h.refuseHeld ..)

theorem Steady.tierWrite {F : List Touch} {s₀ s : State} (h : Steady F s₀ s) (src off data own)
    (hF : Touch.within [.out, .regs, .cnt, .mem, .movers, .tier, .digs, .pwr, .pcie, .page .pwr, .page .pcie, .page
        .tier, .page .move] F = true := by rfl) :
    Steady F s₀ (s.tierWrite src off data own) := by
  refine h.widen (fun s₀ h => ?_) hF
  unfold State.tierWrite
  exact (h.note ..).serveHeldWrite ..

theorem Steady.respond {F : List Touch} {s₀ s : State} (h : Steady F s₀ s) (op r status noCache plain detail data)
    (hF : Touch.within [.out, .regs, .cnt, .engines, .srch, .units, .pcie, .far, .page .rstc, .page .pcie, .page
        .feng, .page .mon] F = true := by rfl) :
    Steady F s₀ (s.respond op r status noCache plain detail data) := by
  refine h.widen (fun s₀ h => ?_) hF
  unfold State.respond
  exact .ite (.ite (h.recordNak ..) (h.localAnswer ..)) (h.send ..)

theorem Steady.nak {F : List Touch} {s₀ s : State} (h : Steady F s₀ s) (op r code)
    (hF : Touch.within [.out, .regs, .cnt, .engines, .srch, .units, .pcie, .far, .page .rstc, .page .pcie, .page
        .feng, .page .mon] F = true := by rfl) :
    Steady F s₀ (s.nak op r code) := by
  refine h.widen (fun s₀ h => ?_) hF
  unfold State.nak
  exact h.respond ..

theorem Steady.sendInv {F : List Touch} {s₀ s : State} (h : Steady F s₀ s) (page node)
    (hF : Touch.within [.out, .engines] F = true := by rfl) :
    Steady F s₀ (s.sendInv page node) := by
  refine h.widen (fun s₀ h => ?_) hF
  unfold State.sendInv
  extract_lets
  split
  · exact h
  · exact (h.sentOn ..).send ..

theorem Steady.startPass {F : List Touch} {s₀ s : State} (h : Steady F s₀ s) (page writer)
    (hF : Touch.within [.out, .tier, .engines] F = true := by rfl) :
    Steady F s₀ (s.startPass page writer) := by
  refine h.widen (fun s₀ h => ?_) hF
  unfold State.startPass
  exact (h.setTier ..).each (fun u _ hu => hu.sendInv ..) ..

theorem Steady.evictNow {F : List Touch} {s₀ s : State} (h : Steady F s₀ s)
    (hF : Touch.within [.tier] F = true := by rfl) :
    Steady F s₀ s.evictNow := by
  refine h.widen (fun s₀ h => ?_) hF
  unfold State.evictNow
  extract_lets
  split
  · exact .ite (h.setTier ..) h
  · exact h

theorem Steady.admitReader {F : List Touch} {s₀ s : State} (h : Steady F s₀ s) (r)
    (hF : Touch.within [.out, .cnt, .tier, .engines, .page .feng] F = true := by rfl) :
    Steady F s₀ (s.admitReader r).2 := by
  refine h.widen (fun s₀ h => ?_) hF
  unfold State.admitReader
  extract_lets _ _ _ _ put
  have hput : ∀ x0, Steady [.out, .cnt, .tier, .engines, .page .feng] s₀ (put x0) :=
    (fun _  => h.setTier ..)
  split
  · exact h
  · split
    · exact h
    · split
      · exact .ite_snd h (.ite_snd (hput _ ) (.ite_snd (hput _ ) h))
      · split
        · exact h.setTier ..
        · split
          · exact ((h.startPass ..).evictNow).count ..
          · exact h

theorem Steady.answerLoad {F : List Touch} {s₀ s : State} (h : Steady F s₀ s) (r)
    (hF : Touch.within [.out, .regs, .cnt, .tier, .engines, .srch, .units, .pcie, .far, .page .rstc, .page .pcie,
        .page .feng, .page .mon] F = true := by rfl) :
    Steady F s₀ (s.answerLoad r) := by
  refine h.widen (fun s₀ h => ?_) hF
  unfold State.answerLoad
  extract_lets _ x
  have hx : Steady _ s₀ x.2 := h.admitReader ..
  exact .ite (hx.respond ..) (h.respond ..)

theorem Steady.leaseDirty {F : List Touch} {s₀ s : State} (h : Steady F s₀ s) (d k page)
    (hF : Touch.within [.out, .regs, .cnt, .mem, .movers, .tier, .srch, .digs, .pwr, .pcie, .page .pwr, .page
        .pcie, .page .tier, .page .move] F = true := by rfl) :
    Steady F s₀ (s.leaseDirty d k page) := by
  refine h.widen (fun s₀ h => ?_) hF
  unfold State.leaseDirty
  exact .ite h (.ite (h.tierWrite ..) (h.upd [.srch]))

theorem Steady.applyReq {F : List Touch} {s₀ s : State} (h : Steady F s₀ s) (op r)
    (hF : Touch.within [.out, .regs, .cnt, .mem, .movers, .tier, .rrc, .engines, .srch, .units, .digs, .pwr, .pcie,
        .far, .page .rstc, .page .pwr, .page .pcie, .page .tier, .page .move, .page .feng, .page .srch, .page .mon]
        F = true := by rfl) :
    Steady F s₀ (s.applyReq op r) := by
  refine h.widen (fun s₀ h => ?_) hF
  unfold State.applyReq
  extract_lets _ _ _ answer
  have hanswer : ∀ x0, Steady [.out, .regs, .cnt, .mem, .movers, .tier, .rrc, .engines, .srch, .units, .digs, .pwr,
      .pcie, .far, .page .rstc, .page .pwr, .page .pcie, .page .tier, .page .move, .page .feng, .page .srch, .page
      .mon] s₀ x0 → Steady [.out, .regs, .cnt, .mem, .movers, .tier, .rrc, .engines, .srch, .units, .digs, .pwr,
      .pcie, .far, .page .rstc, .page .pwr, .page .pcie, .page .tier, .page .move, .page .feng, .page .srch, .page
      .mon] s₀ (answer x0) :=
    (fun u hu => .ite (.ite (hu.respond ..) hu) (hu.respond ..))
  split
  · exact hanswer _ (h.wr ..)
  · extract_lets _ s1 s2 _ _ _ _ s3
    have hs1 : Steady _ s₀ s1 := .ite (h.upd [.srch]) h
    have hs2 : Steady _ s₀ s2 := (h.leaseDirty ..).wr ..
    have hs3 : Steady _ s₀ s3 := hs2.setTier ..
    split
    · exact hanswer _ (hs1.wr ..)
    · split
      · exact hanswer _ (h.wr ..)
      · split
        · exact hanswer _ hs2
        · extract_lets _ _ _ s4 s5
          have hs4 : Steady _ s₀ s4 := hs3.upd [.srch]
          have hs5 : Steady _ s₀ s5 := ((hs4.count ..).dropLines ..).fwdsGo ..
          exact .ite (hanswer _ hs2) (.ite hs5 (hanswer _ hs5))

theorem Steady.holdFab {F : List Touch} {s₀ s : State} (h : Steady F s₀ s) (f off len write)
    (hF : Touch.within [.out, .cnt, .tier, .page .tier] F = true := by rfl) :
    Steady F s₀ (s.holdFab f off len write) := by
  refine h.widen (fun s₀ h => ?_) hF
  unfold State.holdFab
  exact (h.setTier ..).hold ..

theorem Steady.homeReqNow {F : List Touch} {s₀ s : State} (h : Steady F s₀ s) (op r)
    (hF : Touch.within [.out, .regs, .cnt, .mem, .movers, .tier, .rrc, .engines, .srch, .units, .digs, .pwr, .pcie,
        .far, .page .rstc, .page .pwr, .page .pcie, .page .tier, .page .move, .page .feng, .page .srch, .page .mon]
        F = true := by rfl) :
    Steady F s₀ (s.homeReqNow op r) := by
  refine h.widen (fun s₀ h => ?_) hF
  unfold State.homeReqNow
  extract_lets _ _ hold
  have hhold : ∀ x0, Steady [.out, .regs, .cnt, .mem, .movers, .tier, .rrc, .engines, .srch, .units, .digs, .pwr,
      .pcie, .far, .page .rstc, .page .pwr, .page .pcie, .page .tier, .page .move, .page .feng, .page .srch, .page
      .mon] s₀ x0 → Steady [.out, .regs, .cnt, .mem, .movers, .tier, .rrc, .engines, .srch, .units, .digs, .pwr,
      .pcie, .far, .page .rstc, .page .pwr, .page .pcie, .page .tier, .page .move, .page .feng, .page .srch, .page
      .mon] s₀ (hold x0) :=
    (fun u hu => hu.holdFab ..)
  split
  · split
    · exact h.answerLoad ..
    · exact (h.count ..).answerLoad ..
    · exact (h.count ..).nak ..
    · exact h.holdFab ..
    · split
      · rename_i x s1 heq
        have hs1 : Steady _ s₀ s1 := .of_snd heq (h.startPull ..)
        exact (hs1.refuseWrite ..).nak ..
      · rename_i x1 _ s2 heq1
        have hs2 : Steady _ s₀ s2 := .of_snd heq1 (h.startPull ..)
        exact hs2.holdFab ..
  · split
    · exact hhold _ h
    · split
      · exact h.applyReq ..
      · exact hhold _ h
      · split
        · rename_i x2 s3 heq2
          have hs3 : Steady _ s₀ s3 := .of_snd heq2 (h.startPull ..)
          exact (hs3.refuseWrite ..).nak ..
        · rename_i x3 _ s4 heq3
          have hs4 : Steady _ s₀ s4 := .of_snd heq3 (h.startPull ..)
          exact hhold _ hs4
      · split
        · rename_i x4 _ heq4
          exact (h.refuseWrite ..).nak ..
        · rename_i x5 t heq5
          have ht : Steady _ s₀ t := (h.openHome ..).of_eq heq5
          exact hhold _ (ht.startFill ..)
      · exact .ite ((h.refuseWrite ..).nak ..) ((h.count ..).nak ..)

theorem Steady.homeReq {F : List Touch} {s₀ s : State} (h : Steady F s₀ s) (op r)
    (hF : Touch.within [.out, .regs, .cnt, .mem, .movers, .tier, .rrc, .engines, .srch, .units, .digs, .pwr, .pcie,
        .far, .page .rstc, .page .pwr, .page .pcie, .page .tier, .page .move, .page .feng, .page .srch, .page .mon]
        F = true := by rfl) :
    Steady F s₀ (s.homeReq op r) := by
  refine h.widen (fun s₀ h => ?_) hF
  unfold State.homeReq
  exact (h.note ..).homeReqNow ..

theorem Steady.placeAnswer {F : List Touch} {s₀ s : State} (h : Steady F s₀ s) (q op psn)
    (hF : Touch.within [.out, .engines, .qps] F = true := by rfl) :
    Steady F s₀ (s.placeAnswer q op psn) := by
  refine h.widen (fun s₀ h => ?_) hF
  unfold State.placeAnswer
  exact (h.setQp ..).qpRespond ..

theorem Steady.answerPlaced {F : List Touch} {s₀ s : State} (h : Steady F s₀ s) (q)
    (hF : Touch.within [.out, .engines, .qps] F = true := by rfl) :
    Steady F s₀ (s.answerPlaced q) := by
  refine h.widen (fun s₀ h => ?_) hF
  unfold State.answerPlaced
  extract_lets _ _ s1
  have hs1 : Steady _ s₀ s1 := h.setQp ..
  exact hs1.each (fun u _ hu => hu.placeAnswer ..) ..

theorem Steady.qpPlaced {F : List Touch} {s₀ s : State} (h : Steady F s₀ s) (q psn off)
    (hF : Touch.within [.out, .engines, .qps] F = true := by rfl) :
    Steady F s₀ (s.qpPlaced q psn off) := by
  refine h.widen (fun s₀ h => ?_) hF
  unfold State.qpPlaced
  exact (h.setQp ..).answerPlaced ..

theorem Steady.qpLate {F : List Touch} {s₀ s : State} (h : Steady F s₀ s) (q psn off code)
    (hF : Touch.within [.out, .engines, .qps] F = true := by rfl) :
    Steady F s₀ (s.qpLate q psn off code) := by
  refine h.widen (fun s₀ h => ?_) hF
  unfold State.qpLate
  exact (h.setQp ..).qpPlaced ..

theorem Steady.openReplace {F : List Touch} {s₀ s : State} (h : Steady F s₀ s) (q psn off t f)
    (hF : Touch.within [.tier] F = true := by rfl) :
    Steady F s₀ (s.openReplace q psn off t f) := by
  refine h.widen (fun s₀ h => ?_) hF
  unfold State.openReplace
  exact ((h.useFrame ..).addMig ..).setLeaf ..

theorem Steady.fillPiece {F : List Touch} {s₀ s : State} (h : Steady F s₀ s) (q psn off data)
    (hF : Touch.within [.out, .tier, .engines, .qps] F = true := by rfl) :
    Steady F s₀ (s.fillPiece q psn off data) := by
  refine h.widen (fun s₀ h => ?_) hF
  unfold State.fillPiece
  extract_lets _ s1
  have hs1 : Steady _ s₀ s1 := h.updMig ..
  split
  · exact .ite (hs1.qpPlaced ..) hs1
  · exact hs1

theorem Steady.homePieceNow {F : List Touch} {s₀ s : State} (h : Steady F s₀ s) (q psn off data first)
    (hF : Touch.within [.out, .regs, .cnt, .mem, .movers, .tier, .engines, .qps, .digs, .pcie, .page .pcie, .page
        .tier, .page .move] F = true := by rfl) :
    Steady F s₀ (s.homePieceNow q psn off data first) := by
  refine h.widen (fun s₀ h => ?_) hF
  unfold State.homePieceNow
  extract_lets _ hold
  have hhold : ∀ x0, Steady [.out, .regs, .cnt, .mem, .movers, .tier, .engines, .qps, .digs, .pcie, .page .pcie,
      .page .tier, .page .move] s₀ x0 → Steady [.out, .regs, .cnt, .mem, .movers, .tier, .engines, .qps, .digs,
      .pcie, .page .pcie, .page .tier, .page .move] s₀ (hold x0) :=
    (fun u hu => hu.holdFab ..)
  split
  · exact h.fillPiece ..
  · split
    · exact hhold _ h
    · split
      · exact (h.wr ..).qpPlaced ..
      · exact hhold _ h
      · split
        · rename_i x s1 heq
          have hs1 : Steady _ s₀ s1 := .of_snd heq (h.startPull ..)
          exact (hs1.refuseWrite ..).qpLate ..
        · rename_i x1 _ s2 heq1
          have hs2 : Steady _ s₀ s2 := .of_snd heq1 (h.startPull ..)
          exact hhold _ hs2
      · split
        · rename_i x2 _ heq2
          exact (h.refuseWrite ..).qpLate ..
        · rename_i x3 t heq3
          have ht : Steady _ s₀ t := (h.openHome ..).of_eq heq3
          exact hhold _ (ht.startFill ..)
      · split
        · exact (h.refuseWrite ..).qpLate ..
        · split
          · exact hhold _ h
          · split
            · exact (h.refuseWrite ..).qpLate ..
            · exact (h.openReplace ..).fillPiece ..

theorem Steady.homePiece {F : List Touch} {s₀ s : State} (h : Steady F s₀ s) (q psn off data first)
    (hF : Touch.within [.out, .regs, .cnt, .mem, .movers, .tier, .engines, .qps, .digs, .pwr, .pcie, .page .pwr,
        .page .pcie, .page .tier, .page .move] F = true := by rfl) :
    Steady F s₀ (s.homePiece q psn off data first) := by
  refine h.widen (fun s₀ h => ?_) hF
  unfold State.homePiece
  exact (h.note ..).homePieceNow ..

theorem Steady.serveQread {F : List Touch} {s₀ s : State} (h : Steady F s₀ s) (r)
    (hF : Touch.within [.out, .regs, .cnt, .movers, .tier, .engines, .pcie, .page .pcie, .page .tier, .page .move]
        F = true := by rfl) :
    Steady F s₀ (s.serveQread r) := by
  refine h.widen (fun s₀ h => ?_) hF
  unfold State.serveQread
  extract_lets _ s1
  have hs1 : Steady _ s₀ s1 := h.count ..
  split
  · exact (h.count ..).qnak ..
  · split
    · extract_lets hold
      have hhold : ∀ x0, Steady [.out, .regs, .cnt, .movers, .tier, .engines, .pcie, .page .pcie, .page .tier,
          .page .move] s₀ x0 → Steady [.out, .regs, .cnt, .movers, .tier, .engines, .pcie, .page .pcie, .page
          .tier, .page .move] s₀ (hold x0) :=
        (fun u hu => hu.holdFab ..)
      split
      · exact hhold _ h
      · split
        · rename_i x s2 heq
          have hs2 : Steady _ s₀ s2 := .of_snd heq (h.startPull ..)
          exact (hs2.refuseWrite ..).qnak ..
        · rename_i x1 _ s3 heq1
          have hs3 : Steady _ s₀ s3 := .of_snd heq1 (h.startPull ..)
          exact hhold _ hs3
    · exact hs1.qpRespond ..

theorem Steady.qpPage {F : List Touch} {s₀ s : State} (h : Steady F s₀ s) (q page code)
    (hF : Touch.within [.out, .engines, .qps] F = true := by rfl) :
    Steady F s₀ (s.qpPage q page code) := by
  refine h.widen (fun s₀ h => ?_) hF
  unfold State.qpPage
  extract_lets _ _ s1
  have hs1 : Steady _ s₀ s1 := h.setQp ..
  exact hs1.answerPlaced ..

theorem Steady.serve {F : List Touch} {s₀ s : State} (h : Steady F s₀ s) (hh)
    (hF : Touch.within [.out, .regs, .cnt, .mem, .movers, .tier, .rrc, .engines, .qps, .srch, .units, .digs, .pwr,
        .pcie, .far, .page .rstc, .page .pwr, .page .pcie, .page .tier, .page .move, .page .feng, .page .srch,
        .page .mon] F = true := by rfl) :
    Steady F s₀ (s.serve hh) := by
  refine h.widen (fun s₀ h => ?_) hF
  unfold State.serve
  split
  · exact h.homeReqNow ..
  · exact h.homePieceNow ..
  · exact h.qpPlaced ..
  · exact h.serveQread ..
  · exact h.serveHeldRead ..
  · exact h.serveHeldWrite ..

theorem Steady.release {F : List Touch} {s₀ s : State} (h : Steady F s₀ s) (page)
    (hF : Touch.within [.out, .regs, .cnt, .mem, .movers, .tier, .rrc, .engines, .qps, .srch, .units, .digs, .pwr,
        .pcie, .far, .page .rstc, .page .pwr, .page .pcie, .page .tier, .page .move, .page .feng, .page .srch,
        .page .mon] F = true := by rfl) :
    Steady F s₀ (s.release page) := by
  refine h.widen (fun s₀ h => ?_) hF
  unfold State.release
  exact ((h.setHeld ..).setStalled ..).each (fun u _ hu => hu.serve ..) ..

theorem Steady.failOne {F : List Touch} {s₀ s : State} (h : Steady F s₀ s) (code tier hh)
    (hF : Touch.within [.out, .regs, .cnt, .tier, .engines, .qps, .srch, .units, .pcie, .far, .page .rstc, .page
        .pcie, .page .tier, .page .feng, .page .mon] F = true := by rfl) :
    Steady F s₀ (s.failOne code tier hh) := by
  refine h.widen (fun s₀ h => ?_) hF
  unfold State.failOne
  extract_lets
  split
  · exact h.nak ..
  · exact (h.noteRefusal ..).nak ..
  · exact h.qpLate ..
  · exact (h.noteRefusal ..).qpLate ..
  · exact h.qnak ..
  · exact (h.noteRefusal ..).qnak ..
  · exact h.answerHeld ..
  · exact h.refuseHeld ..

theorem Steady.failHeld {F : List Touch} {s₀ s : State} (h : Steady F s₀ s) (page code)
    (hF : Touch.within [.out, .regs, .cnt, .mem, .movers, .tier, .rrc, .engines, .qps, .srch, .units, .digs, .pwr,
        .pcie, .far, .page .rstc, .page .pwr, .page .pcie, .page .tier, .page .move, .page .feng, .page .srch,
        .page .mon] F = true := by rfl) :
    Steady F s₀ (s.failHeld page code) := by
  refine h.widen (fun s₀ h => ?_) hF
  unfold State.failHeld
  exact (((h.setHeld ..).setStalled ..).each (fun u _ hu => hu.failOne ..) ..).each (fun u1 _ hu1 => hu1.serve ..) ..

theorem Steady.refuseAll {F : List Touch} {s₀ s : State} (h : Steady F s₀ s) (page)
    (hF : Touch.within [.out, .regs, .cnt, .tier, .engines, .qps, .srch, .units, .pcie, .far, .page .rstc, .page
        .pcie, .page .tier, .page .feng, .page .mon] F = true := by rfl) :
    Steady F s₀ (s.refuseAll page) := by
  refine h.widen (fun s₀ h => ?_) hF
  unfold State.refuseAll
  exact ((h.setHeld ..).setStalled ..).each (fun u _ hu => hu.failOne ..) ..

theorem Steady.startMove {F : List Touch} {s₀ s : State} (h : Steady F s₀ s) (page dst)
    (hF : Touch.within [.tier] F = true := by rfl) :
    Steady F s₀ (s.startMove page dst).2 := by
  refine h.widen (fun s₀ h => ?_) hF
  unfold State.startMove
  extract_lets _ _ side
  split
  · split
    · exact h
    · split
      · exact h
      · extract_lets s1
        have hs1 : Steady _ s₀ s1 := h.useFrame ..
        clear_value side
        split
        · exact h
        · extract_lets _ s2
          have hs2 : Steady _ s₀ s2 := .ite (hs1.useSide ..) hs1
          exact (hs2.addMig ..).setLeaf ..
  · exact h

theorem Steady.poison {F : List Touch} {s₀ s : State} (h : Steady F s₀ s) (page)
    (hF : Touch.within [.out, .regs, .cnt, .tier, .pcie, .page .pcie, .page .tier] F = true := by rfl) :
    Steady F s₀ (s.poison page) := by
  refine h.widen (fun s₀ h => ?_) hF
  unfold State.poison
  extract_lets _ _ s1
  have hs1 : Steady _ s₀ s1 := h.setLeaf ..
  exact .ite h ((hs1.count ..).irq ..)

theorem Steady.freePage {F : List Touch} {s₀ s : State} (h : Steady F s₀ s) (page)
    (hF : Touch.within [.mem, .tier] F = true := by rfl) :
    Steady F s₀ (s.freePage page) := by
  refine h.widen (fun s₀ h => ?_) hF
  unfold State.freePage
  extract_lets _ s1 s2 s3
  have hs1 : Steady [.mem, .tier] s₀ s1 := by
    unfold s1
    split
    · exact h.freeHome ..
    · exact h.freeHome ..
    · exact h
  have hs2 : Steady _ s₀ s2 := hs1.clearMem ..
  exact (hs2.setTier ..).setLeaf ..

theorem Steady.takeAnswers {F : List Touch} {s₀ s : State} (h : Steady F s₀ s) (f)
    (hF : Touch.within [.tier] F = true := by rfl) :
    Steady F s₀ (s.takeAnswers f) := by
  refine h.widen (fun s₀ h => ?_) hF
  unfold State.takeAnswers
  exact h.setTier ..

theorem Steady.holdOwn {F : List Touch} {s₀ s : State} (h : Steady F s₀ s) (src x)
    (hF : Touch.within [.out, .regs, .cnt, .movers, .tier, .pwr, .pcie, .page .pwr, .page .pcie, .page .tier, .page
        .move] F = true := by rfl) :
    Steady F s₀ (s.holdOwn src x) := by
  refine h.widen (fun s₀ h => ?_) hF
  unfold State.holdOwn
  extract_lets s1
  have hs1 : Steady _ s₀ s1 := .ite h (h.note ..)
  exact .ite h (hs1.serveHeldRead ..)

theorem Steady.unholdOwn {F : List Touch} {s₀ s : State} (h : Steady F s₀ s) (src ps)
    (hF : Touch.within [.out, .cnt, .tier, .page .tier] F = true := by rfl) :
    Steady F s₀ (s.unholdOwn src ps) := by
  refine h.widen (fun s₀ h => ?_) hF
  unfold State.unholdOwn
  exact h.each (fun u _ hu => .ite (hu.unhold ..) hu) ..

theorem Steady.ownReadAt {F : List Touch} {s₀ s : State} (h : Steady F s₀ s) (src ps)
    (hF : Touch.within [.out, .regs, .cnt, .movers, .tier, .pwr, .pcie, .page .pwr, .page .pcie, .page .tier, .page
        .move] F = true := by rfl) :
    Steady F s₀ (s.ownReadAt src ps).2 := by
  refine h.widen (fun s₀ h => ?_) hF
  unfold State.ownReadAt
  extract_lets _ t t1
  have ht : Steady _ s₀ t := h.each (fun u _ hu => hu.note ..) ..
  have ht1 : Steady _ s₀ t1 := ht.each (fun u1 _ hu1 => .ite (hu1.count ..) hu1) ..
  split
  · split
    · exact (h.takeAnswers ..).unholdOwn ..
    · exact (h.takeAnswers ..).unholdOwn ..
    · exact h
  · split
    · exact (((h.takeAnswers ..).unholdOwn ..).note ..).count ..
    · exact .ite_snd (h.each (fun u2 _ hu2 => hu2.holdOwn ..) ..) (ht1.takeAnswers ..)

theorem Steady.ownRead {F : List Touch} {s₀ s : State} (h : Steady F s₀ s) (src off n)
    (hF : Touch.within [.out, .regs, .cnt, .movers, .tier, .pwr, .pcie, .page .pwr, .page .pcie, .page .tier, .page
        .move] F = true := by rfl) :
    Steady F s₀ (s.ownRead src off n).2 := by
  refine h.widen (fun s₀ h => ?_) hF
  unfold State.ownRead
  exact h.ownReadAt ..

theorem Steady.fetch {F : List Touch} {s₀ s : State} (h : Steady F s₀ s) {lost}
    (hlost : ∀ x0, Steady F s₀ x0 → Steady F s₀ (lost x0)) {k} (hk : ∀ x0 x1, Steady F s₀ x1 → Steady F s₀
    (k x0 x1)) (off n)
    (hF : Touch.within [.out, .regs, .cnt, .movers, .tier, .pwr, .pcie, .page .pwr, .page .pcie, .page .tier, .page
        .move] F = true := by rfl) :
    Steady F s₀ (s.fetch off n lost k) := by
  unfold State.fetch
  split
  · rename_i x t heq
    have ht : Steady _ s₀ t := .of_snd heq (h.ownRead (hF := Touch.within_trans rfl hF) ..)
    exact hk _ _ ht
  · rename_i x1 t1 heq1
    have ht1 : Steady _ s₀ t1 := .of_snd heq1 (h.ownRead (hF := Touch.within_trans rfl hF) ..)
    exact ht1
  · rename_i x2 _ t2 _ _ heq2
    have ht2 : Steady _ s₀ t2 := .of_snd heq2 (h.ownRead (hF := Touch.within_trans rfl hF) ..)
    exact hlost _ ht2

theorem Steady.put {F : List Touch} {s₀ s : State} (h : Steady F s₀ s) (off data)
    (hF : Touch.within [.out, .regs, .cnt, .mem, .movers, .tier, .digs, .pwr, .pcie, .page .pwr, .page .pcie, .page
        .tier, .page .move] F = true := by rfl) :
    Steady F s₀ (s.put off data) := by
  refine h.widen (fun s₀ h => ?_) hF
  unfold State.put
  exact .ite h (h.each (fun u _ hu => hu.tierWrite ..) ..)

theorem Steady.disown {F : List Touch} {s₀ s : State} (h : Steady F s₀ s) (src)
    (hF : Touch.within [.tier] F = true := by rfl) :
    Steady F s₀ (s.disown src) := by
  refine h.widen (fun s₀ h => ?_) hF
  unfold State.disown
  exact h.setTier ..

theorem Steady.writesEnd {F : List Touch} {s₀ s : State} (h : Steady F s₀ s) (src)
    (hF : Touch.within [.tier] F = true := by rfl) :
    Steady F s₀ (s.writesEnd src).2 := by
  refine h.widen (fun s₀ h => ?_) hF
  unfold State.writesEnd
  split
  · split
    · exact h.disown ..
    · exact h.disown ..
    · exact h
  · exact .ite_snd h (h.disown ..)

theorem Steady.setSide {F : List Touch} {s₀ s : State} (h : Steady F s₀ s) (page data)
    (hF : Touch.within [.tier] F = true := by rfl) :
    Steady F s₀ (s.setSide page data).2 := by
  refine h.widen (fun s₀ h => ?_) hF
  unfold State.setSide
  extract_lets _ store
  have hstore : ∀ x0, Steady [.tier] s₀ x0 → Steady [.tier] s₀ (store x0) :=
    (fun u hu => hu.setTier ..)
  split
  · exact hstore _ h
  · split
    · split
      · exact h
      · exact hstore _ ((h.useSide ..).setLeaf ..)
    · split
      · exact h
      · split
        · exact hstore _ h
        · split
          · exact h
          · exact hstore _ ((h.useSide ..).updMig ..)
    · exact h

end Sys2Proof.Machine
end


section
/-! PROOFS. What the operations of Records.lean keep: error records, escalation, fence causes, quorum messages, the
placement journal. -/

namespace Sys2Proof.Machine
open Sys2Proof

theorem Steady.qseq {F : List Touch} {s₀ s : State} (h : Steady F s₀ s)
    (hF : Touch.within [.qrm] F = true := by rfl) :
    Steady F s₀ s.qseq := by
  refine h.widen (fun s₀ h => ?_) hF
  unfold State.qseq
  exact h.upd [.qrm]

theorem Steady.once {F : List Touch} {s₀ s : State} (h : Steady F s₀ s) {f}
    (hf : ∀ x0, Steady F s₀ x0 → Steady F s₀ (f x0)) (hh)
    (hF : Touch.within [.qrm] F = true := by rfl) :
    Steady F s₀ (s.once hh f) := by
  unfold State.once
  exact .ite h (hf _ (h.upd [.qrm] (hF := Touch.within_trans rfl hF)))

theorem Steady.quorumSend {F : List Touch} {s₀ s : State} (h : Steady F s₀ s) (msg dst body)
    (hF : Touch.within [.out, .qrm] F = true := by rfl) :
    Steady F s₀ (s.quorumSend msg dst body) := by
  refine h.widen (fun s₀ h => ?_) hF
  unfold State.quorumSend
  exact h.qseq.send ..

theorem Steady.takeCauses {F : List Touch} {s₀ s : State} (h : Steady F s₀ s) (ps cause)
    (hF : Touch.within [.out, .qrm] F = true := by rfl) :
    Steady F s₀ (s.takeCauses ps cause) := by
  refine h.widen (fun s₀ h => ?_) hF
  unfold State.takeCauses
  extract_lets _ _ s1
  have hs1 : Steady _ s₀ s1 := h.upd [.qrm]
  split
  · split
    · exact hs1.quorumSend ..
    · exact hs1
  · exact hs1

theorem Steady.takeCause {F : List Touch} {s₀ s : State} (h : Steady F s₀ s) (p cause)
    (hF : Touch.within [.out, .qrm] F = true := by rfl) :
    Steady F s₀ (s.takeCause p cause) := by
  refine h.widen (fun s₀ h => ?_) hF
  unfold State.takeCause
  exact h.takeCauses ..

theorem Steady.elogRing {F : List Touch} {s₀ s : State} (h : Steady F s₀ s) (r)
    (hF : Touch.within [.out, .regs, .cnt, .mem, .movers, .tier, .digs, .pwr, .pcie, .page .pwr, .page .pcie, .page
        .tier, .page .move, .page .elog] F = true := by rfl) :
    Steady F s₀ (s.elogRing r) := by
  refine h.widen (fun s₀ h => ?_) hF
  unfold State.elogRing
  exact .ite (.ite ((((h.count ..).setFld ..).err ..).irq ..) ((h.put ..).setFld ..)) h

theorem Steady.escalate {F : List Touch} {s₀ s : State} (h : Steady F s₀ s) (p)
    (hF : Touch.within [.out, .cnt, .elog, .qrm, .page .elog] F = true := by rfl) :
    Steady F s₀ (s.escalate p) := by
  refine h.widen (fun s₀ h => ?_) hF
  unfold State.escalate
  extract_lets _ _ s1
  have hs1 : Steady _ s₀ s1 := h.upd [.elog]
  exact .ite ((hs1.count ..).takeCause ..) hs1

theorem Steady.record {F : List Touch} {s₀ s : State} (h : Steady F s₀ s) (pg a)
    (hF : Touch.within [.fresh, .out, .regs, .cnt, .mem, .movers, .tier, .digs, .elog, .qrm, .pwr, .pcie, .page
        .pwr, .page .pcie, .page .tier, .page .move, .page .elog] F = true := by rfl) :
    Steady F s₀ (s.record pg a) := by
  refine h.widen (fun s₀ h => ?_) hF
  unfold State.record
  extract_lets _ _ _ s1 _ s2 s3
  have hs1 : Steady _ s₀ s1 := (h.draw.setFld ..).count ..
  have hs2 : Steady _ s₀ s2 := hs1.upd [.elog]
  have hs3 : Steady _ s₀ s3 := (hs2.elogRing ..).irq ..
  split
  · exact h.count ..
  · split
    · exact .ite (hs3.escalate ..) hs3
    · exact hs3

end Sys2Proof.Machine
end


section
/-! PROOFS. What the operations of Fabric.lean keep: memory-semantic requests, their answers, read caching and
invalidation. -/

namespace Sys2Proof.Machine
open Sys2Proof

theorem Steady.targetReq {F : List Touch} {s₀ s : State} (h : Steady F s₀ s) (op r)
    (hF : Touch.within [.out, .regs, .cnt, .mem, .movers, .tier, .rrc, .engines, .srch, .units, .digs, .pwr, .pcie,
        .far, .page .rstc, .page .pwr, .page .pcie, .page .tier, .page .move, .page .feng, .page .srch, .page .mon]
        F = true := by rfl) :
    Steady F s₀ (s.targetReq op r) := by
  refine h.widen (fun s₀ h => ?_) hF
  unfold State.targetReq
  split
  · exact (Steady.ite (h.count ..) h).nak ..
  · exact h.homeReq ..

theorem Steady.requestHere {F : List Touch} {s₀ s : State} (h : Steady F s₀ s) {serve}
    (hserve : ∀ x0 x1, Steady F s₀ x0 → Steady F s₀ (serve x0 x1)) (op kind r owner)
    (hF : Touch.within [.out, .cnt, .tier, .engines, .far, .page .feng] F = true := by rfl) :
    Steady F s₀ (s.requestHere op kind r owner serve).2 := by
  unfold State.requestHere
  extract_lets
  split
  · exact h.count (hF := Touch.within_trans rfl hF) (hP := Touch.pageIn_trans rfl hF) ..
  · exact .ite_snd ((hserve _ _ h).deliver (hF := Touch.within_trans rfl hF) ..) (hserve _ _ (h.setReqSlot
        (hF := Touch.within_trans rfl hF) ..))

theorem Steady.cacheHit {F : List Touch} {s₀ s : State} (h : Steady F s₀ s) (r owner)
    (hF : Touch.within [.out, .regs, .cnt, .rrc, .units, .pcie, .far, .page .pcie, .page .feng, .page .mon] F =
        true := by rfl) :
    SteadyOpt F s₀ (s.cacheHit r owner) := by
  refine h.widenOpt (fun s₀ h => ?_) hF
  unfold State.cacheHit
  extract_lets
  exact .map (fun _  => by
      extract_lets s1
      have hs1 : Steady _ s₀ s1 := h.upd [.rrc]
      exact ((hs1.count ..).sample ..).deliver ..)

theorem Steady.request {F : List Touch} {s₀ s : State} (h : Steady F s₀ s) (op kind r owner)
    (hF : Touch.within [.out, .regs, .cnt, .mem, .movers, .tier, .rrc, .engines, .srch, .units, .digs, .pwr, .pcie,
        .far, .page .rstc, .page .pwr, .page .pcie, .page .tier, .page .move, .page .feng, .page .srch, .page .mon]
        F = true := by rfl) :
    Steady F s₀ (s.request op kind r owner).2 := by
  refine h.widen (fun s₀ h => ?_) hF
  unfold State.request
  extract_lets s1
  have hs1 : Steady _ s₀ s1 := h.wakeUnit ..
  split
  · exact h
  · split
    · exact h.requestHere (fun u2 _ hu2 => hu2.targetReq ..) ..
    · split
      · split
        · rename_i x t heq
          have ht : Steady _ s₀ t := (hs1.cacheHit ..).of_eq heq
          exact ht
        · rename_i x1 heq1
          exact hs1.issue ..
      · exact (h.dropLines ..).issue ..

theorem Steady.memReq {F : List Touch} {s₀ s : State} (h : Steady F s₀ s) (op kind r)
    (hF : Touch.within [.out, .regs, .cnt, .mem, .movers, .tier, .rrc, .engines, .srch, .units, .digs, .pwr, .pcie,
        .far, .page .rstc, .page .pwr, .page .pcie, .page .tier, .page .move, .page .feng, .page .srch, .page .mon]
        F = true := by rfl) :
    Steady F s₀ (s.memReq op kind r) := by
  refine h.widen (fun s₀ h => ?_) hF
  unfold State.memReq
  exact .ite (h.request ..) (.ite (h.targetReq ..) h)

theorem execLoad_steady {F : List Touch} {s₀ s : State} (h : Steady F s₀ s) (r)
    (hF : Touch.within [.out, .regs, .cnt, .mem, .movers, .tier, .rrc, .engines, .srch, .units, .digs, .pwr, .pcie,
        .far, .page .rstc, .page .pwr, .page .pcie, .page .tier, .page .move, .page .feng, .page .srch, .page .mon]
        F = true := by rfl) :
    SteadyNext F s₀ (execLoad r s) := by
  refine h.widenNext (fun s₀ h => ?_) hF
  unfold execLoad
  exact .next (h.memReq ..)

theorem execStore_steady {F : List Touch} {s₀ s : State} (h : Steady F s₀ s) (r)
    (hF : Touch.within [.out, .regs, .cnt, .mem, .movers, .tier, .rrc, .engines, .srch, .units, .digs, .pwr, .pcie,
        .far, .page .rstc, .page .pwr, .page .pcie, .page .tier, .page .move, .page .feng, .page .srch, .page .mon]
        F = true := by rfl) :
    SteadyNext F s₀ (execStore r s) := by
  refine h.widenNext (fun s₀ h => ?_) hF
  unfold execStore
  exact .next (h.memReq ..)

theorem execFadd64_steady {F : List Touch} {s₀ s : State} (h : Steady F s₀ s) (r)
    (hF : Touch.within [.out, .regs, .cnt, .mem, .movers, .tier, .rrc, .engines, .srch, .units, .digs, .pwr, .pcie,
        .far, .page .rstc, .page .pwr, .page .pcie, .page .tier, .page .move, .page .feng, .page .srch, .page .mon]
        F = true := by rfl) :
    SteadyNext F s₀ (execFadd64 r s) := by
  refine h.widenNext (fun s₀ h => ?_) hF
  unfold execFadd64
  exact .next (h.memReq ..)

theorem execSwap64_steady {F : List Touch} {s₀ s : State} (h : Steady F s₀ s) (r)
    (hF : Touch.within [.out, .regs, .cnt, .mem, .movers, .tier, .rrc, .engines, .srch, .units, .digs, .pwr, .pcie,
        .far, .page .rstc, .page .pwr, .page .pcie, .page .tier, .page .move, .page .feng, .page .srch, .page .mon]
        F = true := by rfl) :
    SteadyNext F s₀ (execSwap64 r s) := by
  refine h.widenNext (fun s₀ h => ?_) hF
  unfold execSwap64
  exact .next (h.memReq ..)

theorem execCas64_steady {F : List Touch} {s₀ s : State} (h : Steady F s₀ s) (r)
    (hF : Touch.within [.out, .regs, .cnt, .mem, .movers, .tier, .rrc, .engines, .srch, .units, .digs, .pwr, .pcie,
        .far, .page .rstc, .page .pwr, .page .pcie, .page .tier, .page .move, .page .feng, .page .srch, .page .mon]
        F = true := by rfl) :
    SteadyNext F s₀ (execCas64 r s) := by
  refine h.widenNext (fun s₀ h => ?_) hF
  unfold execCas64
  exact .next (h.memReq ..)

theorem execCas128_steady {F : List Touch} {s₀ s : State} (h : Steady F s₀ s) (r)
    (hF : Touch.within [.out, .regs, .cnt, .mem, .movers, .tier, .rrc, .engines, .srch, .units, .digs, .pwr, .pcie,
        .far, .page .rstc, .page .pwr, .page .pcie, .page .tier, .page .move, .page .feng, .page .srch, .page .mon]
        F = true := by rfl) :
    SteadyNext F s₀ (execCas128 r s) := by
  refine h.widenNext (fun s₀ h => ?_) hF
  unfold execCas128
  exact .next (h.memReq ..)

theorem execFor64_steady {F : List Touch} {s₀ s : State} (h : Steady F s₀ s) (r)
    (hF : Touch.within [.out, .regs, .cnt, .mem, .movers, .tier, .rrc, .engines, .srch, .units, .digs, .pwr, .pcie,
        .far, .page .rstc, .page .pwr, .page .pcie, .page .tier, .page .move, .page .feng, .page .srch, .page .mon]
        F = true := by rfl) :
    SteadyNext F s₀ (execFor64 r s) := by
  refine h.widenNext (fun s₀ h => ?_) hF
  unfold execFor64
  exact .next (h.memReq ..)

theorem Steady.targetFlush {F : List Touch} {s₀ s : State} (h : Steady F s₀ s) (r)
    (hF : Touch.within [.out, .regs, .cnt, .tier, .engines, .srch, .units, .pcie, .far, .page .rstc, .page .pcie,
        .page .feng, .page .mon] F = true := by rfl) :
    Steady F s₀ (s.targetFlush r) := by
  refine h.widen (fun s₀ h => ?_) hF
  unfold State.targetFlush
  extract_lets
  split
  · exact h.nak ..
  · exact h.setTier ..

theorem Steady.flushOut {F : List Touch} {s₀ s : State} (h : Steady F s₀ s) (r)
    (hF : Touch.within [.out, .cnt, .engines, .page .feng] F = true := by rfl) :
    Steady F s₀ (s.flushOut r) := by
  refine h.widen (fun s₀ h => ?_) hF
  unfold State.flushOut
  extract_lets _ _ _ _ s1
  have hs1 : Steady _ s₀ s1 := h.setEng ..
  split
  · exact h.count ..
  · exact .ite (h.send ..) (.ite h ((hs1.sends ..).setReqSlot ..))

theorem execFlush_steady {F : List Touch} {s₀ s : State} (h : Steady F s₀ s) (r plane)
    (hF : Touch.within [.out, .regs, .cnt, .tier, .engines, .srch, .units, .pcie, .far, .page .rstc, .page .pcie,
        .page .feng, .page .mon] F = true := by rfl) :
    SteadyNext F s₀ (execFlush r plane s) := by
  refine h.widenNext (fun s₀ h => ?_) hF
  unfold execFlush
  exact .next (.ite (.ite h (.ite (h.requestHere (fun u _ hu => hu.targetFlush ..) ..) (h.flushOut ..))) (.ite
      (h.targetFlush ..) h))

theorem execFlushMarkerAnswer_steady {F : List Touch} {s₀ s : State} (h : Steady F s₀ s) (r plane)
    (hF : Touch.within [.out, .regs, .cnt, .tier, .engines, .srch, .units, .pcie, .far, .page .rstc, .page .pcie,
        .page .feng, .page .mon] F = true := by rfl) :
    SteadyNext F s₀ (execFlushMarkerAnswer r plane s) := by
  refine h.widenNext (fun s₀ h => ?_) hF
  unfold execFlushMarkerAnswer
  extract_lets
  refine .next ?_
  split
  · exact h
  · exact .ite h ((h.setTier ..).respond ..)

theorem Steady.endPass {F : List Touch} {s₀ s : State} (h : Steady F s₀ s) (x status detail)
    (hF : Touch.within [.out, .regs, .cnt, .tier, .engines, .srch, .units, .pcie, .far, .page .rstc, .page .pcie,
        .page .feng, .page .mon] F = true := by rfl) :
    Steady F s₀ (s.endPass x status detail) := by
  refine h.widen (fun s₀ h => ?_) hF
  unfold State.endPass
  extract_lets _ _ s1 s2
  have hs1 : Steady _ s₀ s1 := h.setTier ..
  have hs2 : Steady [.out, .regs, .cnt, .tier, .engines, .srch, .units, .pcie, .far, .page .rstc, .page .pcie,
      .page .feng, .page .mon] s₀ s2 := by
    unfold s2
    split
    · exact hs1.respond ..
    · exact hs1
  split
  · exact (hs2.setTier ..).startPass ..
  · exact hs2

theorem Steady.endPasses {F : List Touch} {s₀ s : State} (h : Steady F s₀ s) (a)
    (hF : Touch.within [.out, .regs, .cnt, .tier, .engines, .srch, .units, .pcie, .far, .page .rstc, .page .pcie,
        .page .feng, .page .mon] F = true := by rfl) :
    Steady F s₀ (s.endPasses a) := by
  refine h.widen (fun s₀ h' => ?_) hF
  clear hF h
  rename' h' => h
  induction a generalizing s
  case zero  =>
    unfold State.endPasses
    exact h
  case succ n ih =>
    unfold State.endPasses
    split
    · exact ih (h := h.endPass ..) ..
    · exact h

theorem Steady.passMembers {F : List Touch} {s₀ s : State} (h : Steady F s₀ s)
    (hF : Touch.within [.out, .regs, .cnt, .tier, .engines, .srch, .units, .pcie, .far, .page .rstc, .page .pcie,
        .page .feng, .page .mon] F = true := by rfl) :
    Steady F s₀ s.passMembers := by
  refine h.widen (fun s₀ h => ?_) hF
  unfold State.passMembers
  extract_lets _ s1
  have hs1 : Steady _ s₀ s1 := h.setTier ..
  exact hs1.endPasses ..

theorem Steady.targetInvalidate {F : List Touch} {s₀ s : State} (h : Steady F s₀ s) (r)
    (hF : Touch.within [.out, .regs, .cnt, .tier, .engines, .srch, .units, .pcie, .far, .page .rstc, .page .pcie,
        .page .feng, .page .mon] F = true := by rfl) :
    Steady F s₀ (s.targetInvalidate r) := by
  refine h.widen (fun s₀ h => ?_) hF
  unfold State.targetInvalidate
  extract_lets _ s1
  have hs1 : Steady _ s₀ s1 := h.startPass ..
  split
  · exact h.nak ..
  · exact .ite (h.setTier ..) (hs1.endPasses ..)

theorem execInvalidate_steady {F : List Touch} {s₀ s : State} (h : Steady F s₀ s) (r)
    (hF : Touch.within [.out, .regs, .cnt, .tier, .engines, .srch, .units, .pcie, .far, .page .rstc, .page .pcie,
        .page .feng, .page .mon] F = true := by rfl) :
    SteadyNext F s₀ (execInvalidate r s) := by
  refine h.widenNext (fun s₀ h => ?_) hF
  unfold execInvalidate
  exact .next (.ite (.ite h (.ite (h.requestHere (fun u _ hu => hu.targetInvalidate ..) ..) (h.issue ..))) (.ite
      (h.targetInvalidate ..) h))

theorem execInv_steady {F : List Touch} {s₀ s : State} (h : Steady F s₀ s) (r)
    (hF : Touch.within [.out, .rrc, .engines] F = true := by rfl) :
    SteadyNext F s₀ (execInv r s) := by
  refine h.widenNext (fun s₀ h => ?_) hF
  unfold execInv
  extract_lets _ s1 s2
  have hs1 : Steady _ s₀ s1 := h.upd [.rrc]
  have hs2 : Steady _ s₀ s2 := hs1.upd [.engines]
  exact .next (hs2.send ..)

theorem Steady.atSlot {F : List Touch} {s₀ s : State} (h : Steady F s₀ s) {f}
    (hf : ∀ x0 x1, Steady F s₀ x1 → Steady F s₀ (f x0 x1)) (r kind)
    (hF : Touch.within [.cnt, .engines, .page .rstc, .page .feng] F = true := by rfl) :
    Steady F s₀ (s.atSlot r kind f) := by
  unfold State.atSlot
  split
  · exact .ite (hf _ _ h) (h.lateResp (hF := Touch.within_trans rfl hF) ..)
  · exact h.lateResp (hF := Touch.within_trans rfl hF) ..

theorem Steady.install {F : List Touch} {s₀ s : State} (h : Steady F s₀ s) (l)
    (hF : Touch.within [.rrc] F = true := by rfl) :
    Steady F s₀ (s.install l) := by
  refine h.widen (fun s₀ h => ?_) hF
  unfold State.install
  exact h.upd [.rrc]

theorem execLoadResp_steady {F : List Touch} {s₀ s : State} (h : Steady F s₀ s) (r)
    (hF : Touch.within [.out, .regs, .cnt, .rrc, .engines, .srch, .units, .pcie, .far, .page .rstc, .page .pcie,
        .page .feng, .page .mon] F = true := by rfl) :
    SteadyNext F s₀ (execLoadResp r s) := by
  refine h.widenNext (fun s₀ h => ?_) hF
  unfold execLoadResp
  exact .next (h.atSlot (fun _ u hu => by
      extract_lets _ _ s1
      have hs1 : Steady _ s₀ s1 := .ite (hu.install ..) hu
      exact hs1.answered ..) ..)

theorem execStoreAck_steady {F : List Touch} {s₀ s : State} (h : Steady F s₀ s) (r)
    (hF : Touch.within [.out, .regs, .cnt, .engines, .srch, .units, .pcie, .far, .page .rstc, .page .pcie, .page
        .feng, .page .mon] F = true := by rfl) :
    SteadyNext F s₀ (execStoreAck r s) := by
  refine h.widenNext (fun s₀ h => ?_) hF
  unfold execStoreAck
  exact .next (h.atSlot (fun _ u hu => hu.answered ..) ..)

theorem execAtomicResp_steady {F : List Touch} {s₀ s : State} (h : Steady F s₀ s) (r)
    (hF : Touch.within [.out, .regs, .cnt, .engines, .srch, .units, .pcie, .far, .page .rstc, .page .pcie, .page
        .feng, .page .mon] F = true := by rfl) :
    SteadyNext F s₀ (execAtomicResp r s) := by
  refine h.widenNext (fun s₀ h => ?_) hF
  unfold execAtomicResp
  exact .next (h.atSlot (fun _ u hu => hu.answered ..) ..)

theorem execFlushResp_steady {F : List Touch} {s₀ s : State} (h : Steady F s₀ s) (r plane)
    (hF : Touch.within [.out, .regs, .cnt, .engines, .srch, .units, .pcie, .far, .page .rstc, .page .pcie, .page
        .feng, .page .mon] F = true := by rfl) :
    SteadyNext F s₀ (execFlushResp r plane s) := by
  refine h.widenNext (fun s₀ h => ?_) hF
  unfold execFlushResp
  exact .next (h.atSlot (fun _ u hu => hu.markerAnswered ..) ..)

theorem execInvalidateResp_steady {F : List Touch} {s₀ s : State} (h : Steady F s₀ s) (r)
    (hF : Touch.within [.out, .regs, .cnt, .engines, .srch, .units, .pcie, .far, .page .rstc, .page .pcie, .page
        .feng, .page .mon] F = true := by rfl) :
    SteadyNext F s₀ (execInvalidateResp r s) := by
  refine h.widenNext (fun s₀ h => ?_) hF
  unfold execInvalidateResp
  exact .next (h.atSlot (fun _ u hu => hu.answered ..) ..)

theorem execInvAck_steady {F : List Touch} {s₀ s : State} (h : Steady F s₀ s) (page node)
    (hF : Touch.within [.out, .regs, .cnt, .tier, .engines, .srch, .units, .pcie, .far, .page .rstc, .page .pcie,
        .page .feng, .page .mon] F = true := by rfl) :
    SteadyNext F s₀ (execInvAck page node s) := by
  refine h.widenNext (fun s₀ h => ?_) hF
  unfold execInvAck
  extract_lets _ s1
  have hs1 : Steady _ s₀ s1 := h.setTier ..
  exact .next (hs1.endPasses ..)

theorem execNak_steady {F : List Touch} {s₀ s : State} (h : Steady F s₀ s) (r plane)
    (hF : Touch.within [.out, .regs, .cnt, .engines, .srch, .units, .pcie, .far, .page .rstc, .page .pcie, .page
        .feng, .page .mon] F = true := by rfl) :
    SteadyNext F s₀ (execNak r plane s) := by
  refine h.widenNext (fun s₀ h => ?_) hF
  unfold execNak
  extract_lets
  refine .next ?_
  split
  · exact h.recordNak ..
  · split
    · exact h.lateResp ..
    · exact .ite (h.markerAnswered ..) (h.answered ..)

theorem execRequestTimeout_steady {F : List Touch} {s₀ s : State} (h : Steady F s₀ s) (e tag)
    (hF : Touch.within [.out, .cnt, .engines, .srch, .far, .page .feng] F = true := by rfl) :
    SteadyNext F s₀ (execRequestTimeout e tag s) := by
  refine h.widenNext (fun s₀ h => ?_) hF
  unfold execRequestTimeout
  refine .next ?_
  split
  · exact h
  · exact .ite (.ite (h.complete ..) (h.complete ..)) h

theorem execInvTimeout_steady {F : List Touch} {s₀ s : State} (h : Steady F s₀ s) (page)
    (hF : Touch.within [.out, .regs, .cnt, .tier, .engines, .srch, .units, .pcie, .far, .page .rstc, .page .pcie,
        .page .feng, .page .mon] F = true := by rfl) :
    SteadyNext F s₀ (execInvTimeout page s) := by
  refine h.widenNext (fun s₀ h => ?_) hF
  unfold execInvTimeout
  refine .next ?_
  split
  · exact h
  · split
    · split
      · extract_lets s1
        have hs1 : Steady _ s₀ s1 := h.endPass ..
        exact hs1.endPasses ..
      · exact h
    · exact h

theorem execRegionFlush_steady {F : List Touch} {s₀ s : State} (h : Steady F s₀ s) (p key)
    (hF : Touch.within [.rrc] F = true := by rfl) :
    SteadyNext F s₀ (execRegionFlush p key s) := by
  refine h.widenNext (fun s₀ h => ?_) hF
  unfold execRegionFlush
  exact .next (h.upd [.rrc])

end Sys2Proof.Machine
end


section
/-! PROOFS. What the operations of Pcie.lean keep: the PCIe interface and the DEV page: BAR2, MSI-X, SR-IOV, link and
AER events, the node number. -/

namespace Sys2Proof.Machine
open Sys2Proof

theorem execBar2Read_steady {F : List Touch} {s₀ s : State} (h : Steady F s₀ s) (fn1 x len)
    (hF : Touch.within [.out, .regs, .cnt, .movers, .tier, .pwr, .pcie, .page .pwr, .page .pcie, .page .tier, .page
        .move] F = true := by rfl) :
    SteadyNext F s₀ (execBar2Read fn1 x len s) := by
  refine h.widenNext (fun s₀ h => ?_) hF
  unfold execBar2Read
  extract_lets _ _ _ s1 t
  have hs1 : Steady _ s₀ s1 := (h.count ..).setTier ..
  have ht : Steady _ s₀ t := hs1.each (fun u _ hu => hu.tierRead ..) ..
  exact .next (.ite (.ite (ht.upd [.pcie]) ht) (h.send ..))

theorem execBar2Write_steady {F : List Touch} {s₀ s : State} (h : Steady F s₀ s) (fn1 x data)
    (hF : Touch.within [.out, .regs, .cnt, .mem, .movers, .tier, .digs, .pwr, .pcie, .page .pwr, .page .pcie, .page
        .tier, .page .move] F = true := by rfl) :
    SteadyNext F s₀ (execBar2Write fn1 x data s) := by
  refine h.widenNext (fun s₀ h => ?_) hF
  unfold execBar2Write
  exact .next (.ite ((h.count ..).each (fun u _ hu => hu.each (fun u1 _ hu1 => hu1.tierWrite ..) ..) ..) h)

theorem execBar2AtomicOp_steady {F : List Touch} {s₀ s : State} (h : Steady F s₀ s) (x0 x1)
    (hF : Touch.within [.out] F = true := by rfl) :
    SteadyNext F s₀ (execBar2AtomicOp x0 x1 s) := by
  refine h.widenNext (fun s₀ h => ?_) hF
  unfold execBar2AtomicOp
  exact .next (h.send ..)

theorem execBar2HoldTimeout_steady {F : List Touch} {s₀ s : State} (h : Steady F s₀ s) (ticket)
    (hF : Touch.within [.out, .regs, .cnt, .tier, .pcie, .page .pcie, .page .tier] F = true := by rfl) :
    SteadyNext F s₀ (execBar2HoldTimeout ticket s) := by
  refine h.widenNext (fun s₀ h => ?_) hF
  unfold execBar2HoldTimeout
  refine .next ?_
  split
  · extract_lets s1 _ s2
    have hs1 : Steady _ s₀ s1 := h.each (fun u _ hu => hu.unhold ..) ..
    have hs2 : Steady _ s₀ s2 := hs1.upd [.pcie]
    exact .ite ((((hs2.send ..).count ..).err ..).irq ..) h
  · exact h

theorem execPcieLinkChange_steady {F : List Touch} {s₀ s : State} (h : Steady F s₀ s)
    (link1 gen width flit toLowPower)
    (hF : Touch.within [.out, .regs, .cnt, .pcie, .page .pcie] F = true := by rfl) :
    SteadyNext F s₀ (execPcieLinkChange link1 gen width flit toLowPower s) := by
  refine h.widenNext (fun s₀ h => ?_) hF
  unfold execPcieLinkChange
  extract_lets _ s1 s2 s3
  have hs1 : Steady _ s₀ s1 := .ite (h.count ..) h
  have hs2 : Steady _ s₀ s2 := (hs1.setFld ..).setFld ..
  have hs3 : Steady _ s₀ s3 := .ite (.ite (h.setFld ..) h) (.ite hs1 (hs2.setFld ..))
  exact .next (.ite hs3 (hs3.irq ..))

theorem execAerErrorLogged_steady {F : List Touch} {s₀ s : State} (h : Steady F s₀ s) (correctable)
    (hF : Touch.within [.out, .regs, .cnt, .pcie, .anyPage, .page .pcie] F = true := by rfl) :
    SteadyNext F s₀ (execAerErrorLogged correctable s) := by
  refine h.widenNext (fun s₀ h => ?_) hF
  unfold execAerErrorLogged
  exact .next ((h.countAt ..).irq ..)

theorem Steady.unmaskPf {F : List Touch} {s₀ s : State} (h : Steady F s₀ s) (v)
    (hF : Touch.within [.out, .regs, .cnt, .pcie, .anyPage, .page .pcie] F = true := by rfl) :
    Steady F s₀ (s.unmaskPf v) := by
  refine h.widen (fun s₀ h => ?_) hF
  unfold State.unmaskPf
  extract_lets x _ s1
  have hx : Steady _ s₀ x := h.setWord ..
  have hs1 : Steady _ s₀ s1 := hx.upd [.pcie]
  exact .ite ((hs1.upd [.pcie]).pfVector ..) hs1

theorem execMsixVectorUnmask_steady {F : List Touch} {s₀ s : State} (h : Steady F s₀ s) (vf vec)
    (hF : Touch.within [.out, .regs, .cnt, .pcie, .anyPage, .page .pcie] F = true := by rfl) :
    SteadyNext F s₀ (execMsixVectorUnmask vf vec s) := by
  refine h.widenNext (fun s₀ h => ?_) hF
  unfold execMsixVectorUnmask
  extract_lets
  refine .next ?_
  split
  · exact h.unmaskPf ..
  · extract_lets _ s1
    have hs1 : Steady _ s₀ s1 := h.upd [.pcie]
    exact .ite (.ite ((hs1.upd [.pcie]).vfVector ..) hs1) h

theorem execVfEnableWrite_steady {F : List Touch} {s₀ s : State} (h : Steady F s₀ s) (numVfs enable)
    (hF : Touch.within [.regs, .page .pcie] F = true := by rfl) :
    SteadyNext F s₀ (execVfEnableWrite numVfs enable s) := by
  refine h.widenNext (fun s₀ h => ?_) hF
  unfold execVfEnableWrite
  exact .next (.ite ((h.setFld ..).setFld ..) h)

theorem execDevNodeWrite_steady {F : List Touch} {s₀ s : State} (h : Steady F s₀ s) (v)
    (hF : Touch.within [.regs, .cnt, .page .dev] F = true := by rfl) :
    SteadyNext F s₀ (execDevNodeWrite v s) := by
  refine h.widenNext (fun s₀ h => ?_) hF
  unfold execDevNodeWrite
  exact .next (h.ifReady (fun u hu => .ite (hu.err ..) (.ite (hu.err ..) ((hu.setFld ..).setFld ..))) ..)

end Sys2Proof.Machine
end


section
/-! PROOFS. What the operations of Requests.lean keep: open requests, conversations and Completion Records. -/

namespace Sys2Proof.Machine
open Sys2Proof

theorem Steady.updReq {F : List Touch} {s₀ s : State} (h : Steady F s₀ s) (id f)
    (hF : Touch.within [.reqs] F = true := by rfl) :
    Steady F s₀ (s.updReq id f) := by
  refine h.widen (fun s₀ h => ?_) hF
  unfold State.updReq
  exact h.upd [.reqs]

theorem Steady.dropReq {F : List Touch} {s₀ s : State} (h : Steady F s₀ s) (id)
    (hF : Touch.within [.reqs] F = true := by rfl) :
    Steady F s₀ (s.dropReq id) := by
  refine h.widen (fun s₀ h => ?_) hF
  unfold State.dropReq
  exact h.upd [.reqs]

theorem Steady.dropConv {F : List Touch} {s₀ s : State} (h : Steady F s₀ s) (n c)
    (hF : Touch.within [.convs] F = true := by rfl) :
    Steady F s₀ (s.dropConv n c) := by
  refine h.widen (fun s₀ h => ?_) hF
  unfold State.dropConv
  exact h.upd [.convs]

theorem Steady.setConv {F : List Touch} {s₀ s : State} (h : Steady F s₀ s) (v)
    (hF : Touch.within [.convs] F = true := by rfl) :
    Steady F s₀ (s.setConv v) := by
  refine h.widen (fun s₀ h => ?_) hF
  unfold State.setConv
  exact h.upd [.convs]

theorem Steady.updConv {F : List Touch} {s₀ s : State} (h : Steady F s₀ s) (n c f)
    (hF : Touch.within [.convs] F = true := by rfl) :
    Steady F s₀ (s.updConv n c f) := by
  refine h.widen (fun s₀ h => ?_) hF
  unfold State.updConv
  exact h.upd [.convs]

theorem Steady.pushRec {F : List Touch} {s₀ s : State} (h : Steady F s₀ s) (n c)
    (hF : Touch.within [.tenants] F = true := by rfl) :
    Steady F s₀ (s.pushRec n c) := by
  refine h.widen (fun s₀ h => ?_) hF
  unfold State.pushRec
  exact h.setTen ..

theorem Steady.settleReq {F : List Touch} {s₀ s : State} (h : Steady F s₀ s) (id handle)
    (hF : Touch.within [.tenants, .reqs] F = true := by rfl) :
    Steady F s₀ (s.settleReq id handle) := by
  refine h.widen (fun s₀ h => ?_) hF
  unfold State.settleReq
  split
  · exact h
  · split
    · exact h
    · exact .ite h ((h.pushRec ..).updReq ..)

theorem Steady.endReq {F : List Touch} {s₀ s : State} (h : Steady F s₀ s) (id status detail handle)
    (hF : Touch.within [.tenants, .reqs, .convs] F = true := by rfl) :
    Steady F s₀ (s.endReq id status detail handle) := by
  refine h.widen (fun s₀ h => ?_) hF
  unfold State.endReq
  extract_lets s1
  have hs1 : Steady _ s₀ s1 := h.updReq ..
  split
  · exact h
  · extract_lets s2
    have hs2 : Steady [.tenants, .reqs, .convs] s₀ s2 := by
      unfold s2
      split
      · exact hs1.updConv ..
      · exact hs1.updConv ..
      · exact hs1.updConv ..
      · exact hs1
    exact .ite h (hs2.settleReq ..)

theorem Steady.spill {F : List Touch} {s₀ s : State} (h : Steady F s₀ s) (n d status detail)
    (hF : Touch.within [.tenants] F = true := by rfl) :
    Steady F s₀ (s.spill n d status detail) := by
  refine h.widen (fun s₀ h => ?_) hF
  unfold State.spill
  exact h.pushRec ..

theorem Steady.reserve {F : List Touch} {s₀ s : State} (h : Steady F s₀ s) (p n)
    (hF : Touch.within [.regs, .page .admt] F = true := by rfl) :
    Steady F s₀ (s.reserve p n) := by
  refine h.widen (fun s₀ h => ?_) hF
  unfold State.reserve
  exact h.setFld ..

theorem Steady.unreserve {F : List Touch} {s₀ s : State} (h : Steady F s₀ s) (p n)
    (hF : Touch.within [.regs, .page .admt] F = true := by rfl) :
    Steady F s₀ (s.unreserve p n) := by
  refine h.widen (fun s₀ h => ?_) hF
  unfold State.unreserve
  exact h.setFld ..

theorem Steady.closeConv {F : List Touch} {s₀ s : State} (h : Steady F s₀ s) (v)
    (hF : Touch.within [.regs, .convs, .page .admt] F = true := by rfl) :
    Steady F s₀ (s.closeConv v) := by
  refine h.widen (fun s₀ h => ?_) hF
  unfold State.closeConv
  exact (Steady.ite (h.unreserve ..) h).dropConv ..

theorem Steady.hostWr {F : List Touch} {s₀ s : State} (h : Steady F s₀ s) (n addr data)
    (hF : Touch.within [.out] F = true := by rfl) :
    Steady F s₀ (s.hostWr n addr data) := by
  refine h.widen (fun s₀ h => ?_) hF
  unfold State.hostWr
  exact h.send ..

end Sys2Proof.Machine
end


section
/-! PROOFS. What the operations of Tier.lean keep: the commands of the tier controller and the memory instances. -/

namespace Sys2Proof.Machine
open Sys2Proof

theorem Steady.tierOp {F : List Touch} {s₀ s : State} (h : Steady F s₀ s) (page op arg)
    (hF : Touch.within [.mem, .tier] F = true := by rfl) :
    SteadyOptSnd F s₀ (s.tierOp page op arg) := by
  refine h.widenOptSnd (fun s₀ h => ?_) hF
  unfold State.tierOp
  extract_lets _ move
  have hmove : ∀ x0 x1, Steady [.mem, .tier] s₀ x1 → SteadyOptSnd [.mem, .tier] s₀ (move x0 x1) :=
    (fun _ u hu => by
      unfold move
      split
      · split
        · exact .some hu
        · split
          · exact .some hu
          · split
            · rename_i x s1 heq
              have hs1 : Steady _ s₀ s1 := .of_snd heq (hu.startMove ..)
              exact .some hs1
            · rename_i x1 snd heq1
              have hsnd : Steady _ s₀ snd := .of_snd heq1 (hu.startMove ..)
              exact .none
      · exact .some hu)
  split
  · exact .some (h.updMig ..)
  · split
    · split
      · rename_i x2 t heq2
        have ht : Steady _ s₀ t := (hmove _ _ h).of_eq heq2
        exact .some (ht.setLeaf ..)
      · rename_i x3 _
        exact hmove _ _ h
    · exact .some (h.setLeaf ..)
    · exact .some (h.setLeaf ..)
    · exact .ite .none (hmove _ _ h)
    · exact .ite .none (.some (h.freePage ..))

theorem Steady.tierCmdPages {F : List Touch} {s₀ s : State} (h : Steady F s₀ s) (c a)
    (hF : Touch.within [.mem, .tier] F = true := by rfl) :
    Steady F s₀ (s.tierCmdPages c a) := by
  refine h.widen (fun s₀ h' => ?_) hF
  clear hF h
  rename' h' => h
  induction a generalizing s c
  case zero  =>
    unfold State.tierCmdPages
    exact h.setTier ..
  case succ n ih =>
    unfold State.tierCmdPages
    extract_lets
    split
    · rename_i x heq
      exact h.setTier ..
    · rename_i x1 s1 heq1
      have hs1 : Steady _ s₀ s1 := (h.tierOp ..).of_eq heq1
      exact hs1.setTier ..
    · rename_i x2 s2 heq2
      have hs2 : Steady _ s₀ s2 := (h.tierOp ..).of_eq heq2
      exact ih (h := hs2) ..

theorem Steady.tierCmdGo {F : List Touch} {s₀ s : State} (h : Steady F s₀ s)
    (hF : Touch.within [.mem, .tier] F = true := by rfl) :
    Steady F s₀ s.tierCmdGo := by
  refine h.widen (fun s₀ h => ?_) hF
  unfold State.tierCmdGo
  split
  · exact .ite (h.tierCmdPages ..) h
  · exact h

theorem Steady.retryPulls {F : List Touch} {s₀ s : State} (h : Steady F s₀ s)
    (hF : Touch.within [.out, .regs, .cnt, .mem, .movers, .tier, .rrc, .engines, .qps, .srch, .units, .digs, .pwr,
        .pcie, .far, .page .rstc, .page .pwr, .page .pcie, .page .tier, .page .move, .page .feng, .page .srch,
        .page .mon] F = true := by rfl) :
    Steady F s₀ s.retryPulls := by
  refine h.widen (fun s₀ h => ?_) hF
  unfold State.retryPulls
  exact h.each (fun u _ hu => by
      split
      · split
        · rename_i x s1 heq
          have hs1 : Steady _ s₀ s1 := .of_snd heq (hu.startPull ..)
          exact hs1.refuseAll ..
        · rename_i x1 _ s2 heq1
          have hs2 : Steady _ s₀ s2 := .of_snd heq1 (hu.startPull ..)
          exact hs2
      · exact .ite (hu.release ..) hu) ..

theorem Steady.moveOrWait {F : List Touch} {s₀ s : State} (h : Steady F s₀ s) (page dst hw)
    (hF : Touch.within [.tier] F = true := by rfl) :
    Steady F s₀ (s.moveOrWait page dst hw).2 := by
  refine h.widen (fun s₀ h => ?_) hF
  unfold State.moveOrWait
  extract_lets
  split
  · split
    · rename_i x s1 heq
      have hs1 : Steady _ s₀ s1 := .of_snd heq (h.startMove ..)
      exact hs1.updMig ..
    · rename_i x1 _
      exact h.startMove ..
  · split
    · exact .ite_snd h (h.setTier ..)
    · exact h

theorem Steady.waitMigsGo {F : List Touch} {s₀ s : State} (h : Steady F s₀ s) (a)
    (hF : Touch.within [.tier] F = true := by rfl) :
    Steady F s₀ (s.waitMigsGo a) := by
  refine h.widen (fun s₀ h' => ?_) hF
  clear hF h
  rename' h' => h
  induction a generalizing s
  case nil  =>
    unfold State.waitMigsGo
    exact h.setTier ..
  case cons head tail ih =>
    unfold State.waitMigsGo
    exact .ite (ih (h := .ite (h.moveOrWait ..) h) ..) (h.setTier ..)

theorem Steady.demoteEnd {F : List Touch} {s₀ s : State} (h : Steady F s₀ s) (z t)
    (hF : Touch.within [.tier] F = true := by rfl) :
    Steady F s₀ (s.demoteEnd z t) := by
  refine h.widen (fun s₀ h => ?_) hF
  unfold State.demoteEnd
  exact h.setTier ..

theorem Steady.demote {F : List Touch} {s₀ s : State} (h : Steady F s₀ s) (z t a)
    (hF : Touch.within [.cnt, .tier, .page .tier] F = true := by rfl) :
    Steady F s₀ (s.demote z t a) := by
  refine h.widen (fun s₀ h' => ?_) hF
  clear hF h
  rename' h' => h
  induction a generalizing s z t
  case nil  =>
    unfold State.demote
    exact h.demoteEnd ..
  case cons head tail ih =>
    unfold State.demote
    split
    · exact h.demoteEnd ..
    · split
      · exact h
      · split
        · rename_i x s1 heq
          have hs1 : Steady _ s₀ s1 := .of_snd heq (h.moveOrWait ..)
          exact ih (h := hs1) ..
        · rename_i x1 snd heq1
          have hsnd : Steady _ s₀ snd := .of_snd heq1 (h.moveOrWait ..)
          exact (hsnd.count ..).demoteEnd ..

theorem Steady.demoteGo {F : List Touch} {s₀ s : State} (h : Steady F s₀ s)
    (hF : Touch.within [.cnt, .tier, .page .tier] F = true := by rfl) :
    Steady F s₀ s.demoteGo := by
  refine h.widen (fun s₀ h => ?_) hF
  unfold State.demoteGo
  exact h.each (fun u _ hu => .ite (hu.demote ..) hu) ..

theorem Steady.settle {F : List Touch} {s₀ s : State} (h : Steady F s₀ s) (page m)
    (hF : Touch.within [.out, .regs, .cnt, .mem, .movers, .tier, .rrc, .engines, .qps, .srch, .units, .digs, .pwr,
        .pcie, .far, .page .rstc, .page .pwr, .page .pcie, .page .tier, .page .move, .page .feng, .page .srch,
        .page .mon] F = true := by rfl) :
    Steady F s₀ (s.settle page m) := by
  refine h.widen (fun s₀ h => ?_) hF
  unfold State.settle
  extract_lets s1 s2 s3
  have hs1 : Steady _ s₀ s1 := (h.dropMig ..).release ..
  have hs2 : Steady _ s₀ s2 := hs1.each (fun u _ hu => by
      split
      · rename_i x _ t heq
        have ht : Steady _ s₀ t := (hu.tierOp ..).of_eq heq
        exact ht
      · rename_i x1 heq1
        exact hu) ..
  have hs3 : Steady _ s₀ s3 := hs2.retryPulls.tierCmdGo
  exact (hs3.waitMigsGo ..).demoteGo

/-- The bytes of a pull or a replacement are put in one by one. -/
theorem Map.wf_foldl_set (l : List (Nat × Byte)) {m : Memory} (h : Map.wf (fun _ => 0) m = true) :
    Map.wf (fun _ => 0) (l.foldl (fun m c => Map.set 0 m c.1 c.2) m) = true := by
  induction l generalizing m with
  | nil => exact h
  | cons c l ih => exact ih (Map.set_wf (fun _ => 0) h c.1 c.2)

theorem Steady.commitMig {F : List Touch} {s₀ s : State} (h : Steady F s₀ s) (page m)
    (hF : Touch.within [.out, .regs, .cnt, .mem, .movers, .tier, .rrc, .engines, .qps, .srch, .units, .digs, .pwr,
        .pcie, .far, .page .rstc, .page .pwr, .page .pcie, .page .tier, .page .move, .page .feng, .page .srch,
        .page .mon] F = true := by rfl) :
    Steady F s₀ (s.commitMig page m) := by
  refine h.widen (fun s₀ h => ?_) hF
  unfold State.commitMig
  extract_lets _ _ moved1 moved2 moved3 put1 put2 put3
  have hmoved2 : Steady _ s₀ moved2 := (h.freeHome ..).setLeaf ..
  have hmoved3 : Steady _ s₀ moved3 := .ite (hmoved2.count ..) (.ite (hmoved2.count ..) hmoved2)
  have hput1 : Steady [.out, .regs, .cnt, .mem, .movers, .tier, .rrc, .engines, .qps, .srch, .units, .digs, .pwr,
      .pcie, .far, .page .rstc, .page .pwr, .page .pcie, .page .tier, .page .move, .page .feng, .page .srch, .page
      .mon] s₀ put1 := by
    unfold put1
    split
    · exact h.freeHome ..
    · exact h.freeHome ..
    · exact h
  have hput2 : Steady _ s₀ put2 := hput1.of_stores [.mem, .digs] (mem := fun hm => Map.wf_foldl_set _
      (Map.clear_wf _ hm ..))
  have hput3 : Steady _ s₀ put3 := (hput2.setLeaf ..).settle ..
  split
  · exact hmoved3.settle ..
  · exact h
  · refine .ite h ?_
    split
    · exact hput3.qpPage ..
    · exact hput3

theorem Steady.leaveTransit {F : List Touch} {s₀ s : State} (h : Steady F s₀ s) (page m)
    (hF : Touch.within [.tier] F = true := by rfl) :
    Steady F s₀ (s.leaveTransit page m) := by
  refine h.widen (fun s₀ h => ?_) hF
  unfold State.leaveTransit
  extract_lets s1 s2
  have hs1 : Steady _ s₀ s1 := .ite h (h.useFrame ..)
  have hs2 : Steady _ s₀ s2 := .ite (hs1.useSide ..) hs1
  exact hs2.setLeaf ..

theorem Steady.abortMig {F : List Touch} {s₀ s : State} (h : Steady F s₀ s) (page m code)
    (hF : Touch.within [.out, .regs, .cnt, .mem, .movers, .tier, .rrc, .engines, .qps, .srch, .units, .digs, .pwr,
        .pcie, .far, .page .rstc, .page .pwr, .page .pcie, .page .tier, .page .move, .page .feng, .page .srch,
        .page .mon] F = true := by rfl) :
    Steady F s₀ (s.abortMig page m code) := by
  refine h.widen (fun s₀ h => ?_) hF
  unfold State.abortMig
  extract_lets s1 s2 s3 s4
  have hs1 : Steady _ s₀ s1 := h.count ..
  have hs2 : Steady _ s₀ s2 := hs1.leaveTransit ..
  have hs3 : Steady _ s₀ s3 := .ite (hs2.failHeld ..) hs2
  have hs4 : Steady _ s₀ s4 := hs3.settle ..
  split
  · exact hs4.qpPage ..
  · exact hs4

theorem Steady.poisonAny {F : List Touch} {s₀ s : State} (h : Steady F s₀ s) (page)
    (hF : Touch.within [.out, .regs, .cnt, .mem, .movers, .tier, .rrc, .engines, .qps, .srch, .units, .digs, .pwr,
        .pcie, .far, .page .rstc, .page .pwr, .page .pcie, .page .tier, .page .move, .page .feng, .page .srch,
        .page .mon] F = true := by rfl) :
    Steady F s₀ (s.poisonAny page) := by
  refine h.widen (fun s₀ h => ?_) hF
  unfold State.poisonAny
  split
  · exact ((h.leaveTransit ..).poison ..).settle ..
  · exact h.poison ..

theorem execTierRead_steady {F : List Touch} {s₀ s : State} (h : Steady F s₀ s) (src offset len)
    (hF : Touch.within [.out, .regs, .cnt, .movers, .tier, .pwr, .pcie, .page .pwr, .page .pcie, .page .tier, .page
        .move] F = true := by rfl) :
    SteadyNext F s₀ (execTierRead src offset len s) := by
  refine h.widenNext (fun s₀ h => ?_) hF
  unfold execTierRead
  exact .next (.ite h (h.each (fun u _ hu => hu.tierRead ..) ..))

theorem execTierWrite_steady {F : List Touch} {s₀ s : State} (h : Steady F s₀ s) (src offset data)
    (hF : Touch.within [.out, .regs, .cnt, .mem, .movers, .tier, .digs, .pwr, .pcie, .page .pwr, .page .pcie, .page
        .tier, .page .move] F = true := by rfl) :
    SteadyNext F s₀ (execTierWrite src offset data s) := by
  refine h.widenNext (fun s₀ h => ?_) hF
  unfold execTierWrite
  exact .next (.ite h (h.each (fun u _ hu => hu.tierWrite ..) ..))

theorem execZeroFillComplete_steady {F : List Touch} {s₀ s : State} (h : Steady F s₀ s) (page)
    (hF : Touch.within [.out, .regs, .cnt, .mem, .movers, .tier, .rrc, .engines, .qps, .srch, .units, .digs, .pwr,
        .pcie, .far, .page .rstc, .page .pwr, .page .pcie, .page .tier, .page .move, .page .feng, .page .srch,
        .page .mon] F = true := by rfl) :
    SteadyNext F s₀ (execZeroFillComplete page s) := by
  refine h.widenNext (fun s₀ h => ?_) hF
  unfold execZeroFillComplete
  extract_lets s1
  have hs1 : Steady _ s₀ s1 := h.clearMem ..
  exact .next (.ite (((hs1.setTier ..).release ..).tierCmdGo) h)

theorem execMemUncorrectableError_steady {F : List Touch} {s₀ s : State} (h : Steady F s₀ s) (page)
    (hF : Touch.within [.fresh, .out, .regs, .cnt, .mem, .movers, .tier, .rrc, .engines, .qps, .srch, .units,
        .digs, .elog, .qrm, .pwr, .pcie, .far, .anyPage, .page .rstc, .page .pwr, .page .pcie, .page .tier, .page
        .move, .page .feng, .page .elog, .page .srch, .page .mon] F = true := by rfl) :
    SteadyNext F s₀ (execMemUncorrectableError page s) := by
  refine h.widenNext (fun s₀ h => ?_) hF
  unfold execMemUncorrectableError
  extract_lets _ lose t
  have hlose : ∀ x0 x1, Steady [.fresh, .out, .regs, .cnt, .mem, .movers, .tier, .rrc, .engines, .qps, .srch,
      .units, .digs, .elog, .qrm, .pwr, .pcie, .far, .anyPage, .page .rstc, .page .pwr, .page .pcie, .page .tier,
      .page .move, .page .feng, .page .elog, .page .srch, .page .mon] s₀ x0 → Steady [.fresh, .out, .regs, .cnt,
      .mem, .movers, .tier, .rrc, .engines, .qps, .srch, .units, .digs, .elog, .qrm, .pwr, .pcie, .far, .anyPage,
      .page .rstc, .page .pwr, .page .pcie, .page .tier, .page .move, .page .feng, .page .elog, .page .srch, .page
      .mon] s₀ (lose x0 x1) :=
    (fun u _ hu => by
      unfold lose
      extract_lets _ s1 s2
      have hs1 : Steady _ s₀ s1 := (hu.count ..).setFldAt ..
      have hs2 : Steady _ s₀ s2 := (hs1.retireFrame ..).poison ..
      exact hs2.record ..)
  have ht : Steady _ s₀ t := hlose _ _ h
  refine .next ?_
  split
  · exact .ite ((ht.setTier ..).release ..) ht
  · split
    · split
      · exact (hlose _ _ (h.leaveTransit ..)).settle ..
      · exact h
    · exact h
  · exact h

theorem execMigrationStart_steady {F : List Touch} {s₀ s : State} (h : Steady F s₀ s) (page dst)
    (hF : Touch.within [.tier] F = true := by rfl) :
    SteadyNext F s₀ (execMigrationStart page dst s) := by
  refine h.widenNext (fun s₀ h => ?_) hF
  unfold execMigrationStart
  exact .next (h.moveOrWait ..)

theorem execMigrationCommit_steady {F : List Touch} {s₀ s : State} (h : Steady F s₀ s) (page)
    (hF : Touch.within [.out, .regs, .cnt, .mem, .movers, .tier, .rrc, .engines, .qps, .srch, .units, .digs, .pwr,
        .pcie, .far, .page .rstc, .page .pwr, .page .pcie, .page .tier, .page .move, .page .feng, .page .srch,
        .page .mon] F = true := by rfl) :
    SteadyNext F s₀ (execMigrationCommit page s) := by
  refine h.widenNext (fun s₀ h => ?_) hF
  unfold execMigrationCommit
  refine .next ?_
  split
  · exact h.commitMig ..
  · exact h

theorem execMigrationTimeout_steady {F : List Touch} {s₀ s : State} (h : Steady F s₀ s) (page)
    (hF : Touch.within [.out, .regs, .cnt, .mem, .movers, .tier, .rrc, .engines, .qps, .srch, .units, .digs, .pwr,
        .pcie, .far, .page .rstc, .page .pwr, .page .pcie, .page .tier, .page .move, .page .feng, .page .srch,
        .page .mon] F = true := by rfl) :
    SteadyNext F s₀ (execMigrationTimeout page s) := by
  refine h.widenNext (fun s₀ h => ?_) hF
  unfold execMigrationTimeout
  refine .next ?_
  split
  · exact .ite ((h.abortMig ..).err ..) h
  · exact h

theorem execTierEpochEnd_steady {F : List Touch} {s₀ s : State} (h : Steady F s₀ s)
    (hF : Touch.within [.tier] F = true := by rfl) :
    SteadyNext F s₀ (execTierEpochEnd s) := by
  refine h.widenNext (fun s₀ h => ?_) hF
  unfold execTierEpochEnd
  extract_lets _ s1
  have hs1 : Steady _ s₀ s1 := .ite (h.each (fun u _ hu => by
      extract_lets _ _ up
      clear_value up
      split
      · exact .ite (hu.moveOrWait ..) hu
      · exact hu) ..) h
  exact .next (hs1.setTier ..)

theorem execHwDemote_steady {F : List Touch} {s₀ s : State} (h : Steady F s₀ s) (z t)
    (hF : Touch.within [.cnt, .tier, .page .tier] F = true := by rfl) :
    SteadyNext F s₀ (execHwDemote z t s) := by
  refine h.widenNext (fun s₀ h => ?_) hF
  unfold execHwDemote
  extract_lets _ s1
  have hs1 : Steady _ s₀ s1 := h.setTier ..
  exact .next (.ite (hs1.demote ..) h)

theorem Steady.tierCmd {F : List Touch} {s₀ s : State} (h : Steady F s₀ s) (op arg)
    (hF : Touch.within [.regs, .cnt, .mem, .tier, .page .tier] F = true := by rfl) :
    Steady F s₀ (s.tierCmd op arg) := by
  refine h.widen (fun s₀ h => ?_) hF
  unfold State.tierCmd
  extract_lets
  exact h.ifReady (fun u hu => by
      extract_lets s1 s2 _ _ _ s3
      have hs1 : Steady _ s₀ s1 := .ite (hu.rsvEnc ..) (hu.setFld ..)
      have hs2 : Steady _ s₀ s2 := hs1.setFld ..
      have hs3 : Steady _ s₀ s3 := hs2.setFld ..
      exact .ite (hu.err ..) (.ite hs2 (hs3.tierCmdPages ..))) ..

theorem execTierCmdPin_steady {F : List Touch} {s₀ s : State} (h : Steady F s₀ s) (arg)
    (hF : Touch.within [.regs, .cnt, .mem, .tier, .page .tier] F = true := by rfl) :
    SteadyNext F s₀ (execTierCmdPin arg s) := by
  refine h.widenNext (fun s₀ h => ?_) hF
  unfold execTierCmdPin
  exact .next (h.tierCmd ..)

theorem execTierCmdUnpin_steady {F : List Touch} {s₀ s : State} (h : Steady F s₀ s)
    (hF : Touch.within [.regs, .cnt, .mem, .tier, .page .tier] F = true := by rfl) :
    SteadyNext F s₀ (execTierCmdUnpin s) := by
  refine h.widenNext (fun s₀ h => ?_) hF
  unfold execTierCmdUnpin
  exact .next (h.tierCmd ..)

theorem execTierCmdHint_steady {F : List Touch} {s₀ s : State} (h : Steady F s₀ s) (arg)
    (hF : Touch.within [.regs, .cnt, .mem, .tier, .page .tier] F = true := by rfl) :
    SteadyNext F s₀ (execTierCmdHint arg s) := by
  refine h.widenNext (fun s₀ h => ?_) hF
  unfold execTierCmdHint
  exact .next (h.tierCmd ..)

theorem execTierCmdMove_steady {F : List Touch} {s₀ s : State} (h : Steady F s₀ s) (arg)
    (hF : Touch.within [.regs, .cnt, .mem, .tier, .page .tier] F = true := by rfl) :
    SteadyNext F s₀ (execTierCmdMove arg s) := by
  refine h.widenNext (fun s₀ h => ?_) hF
  unfold execTierCmdMove
  exact .next (h.tierCmd ..)

theorem execTierCmdFree_steady {F : List Touch} {s₀ s : State} (h : Steady F s₀ s)
    (hF : Touch.within [.regs, .cnt, .mem, .tier, .page .tier] F = true := by rfl) :
    SteadyNext F s₀ (execTierCmdFree s) := by
  refine h.widenNext (fun s₀ h => ?_) hF
  unfold execTierCmdFree
  exact .next (h.tierCmd ..)

theorem execTierCmdDone_steady {F : List Touch} {s₀ s : State} (h : Steady F s₀ s)
    (hF : Touch.within [.out, .regs, .cnt, .tier, .pcie, .page .pcie, .page .tier] F = true := by rfl) :
    SteadyNext F s₀ (execTierCmdDone s) := by
  refine h.widenNext (fun s₀ h => ?_) hF
  unfold execTierCmdDone
  extract_lets _ s1
  have hs1 : Steady _ s₀ s1 := h.setTier ..
  refine .next ?_
  split
  · extract_lets s2
    have hs2 : Steady _ s₀ s2 := (hs1.setFld ..).setFld ..
    exact .ite h ((hs2.setFld ..).irq ..)
  · exact h

theorem Steady.overCommit {F : List Touch} {s₀ s : State} (h : Steady F s₀ s) (t)
    (hF : Touch.within [.out, .regs, .cnt, .pcie, .page .pcie, .page .tier] F = true := by rfl) :
    Steady F s₀ (s.overCommit t) := by
  refine h.widen (fun s₀ h => ?_) hF
  unfold State.overCommit
  extract_lets _ _ s1
  have hs1 : Steady _ s₀ s1 := h.setFld ..
  exact .ite (hs1.irq ..) hs1

theorem Steady.writeCommit {F : List Touch} {s₀ s : State} (h : Steady F s₀ s) (z t v)
    (hF : Touch.within [.out, .regs, .cnt, .pcie, .anyPage, .page .pcie, .page .tier] F = true := by rfl) :
    Steady F s₀ (s.writeCommit z t v) := by
  refine h.widen (fun s₀ h => ?_) hF
  unfold State.writeCommit
  extract_lets _ s1
  have hs1 : Steady _ s₀ s1 := h.setFldAt ..
  exact .ite (.ite (hs1.overCommit ..) hs1) ((h.err ..).irq ..)

theorem Steady.writeMarks {F : List Touch} {s₀ s : State} (h : Steady F s₀ s) (z hi lo x)
    (hF : Touch.within [.regs, .cnt, .anyPage, .page .tier] F = true := by rfl) :
    Steady F s₀ (s.writeMarks z hi lo x) := by
  refine h.widen (fun s₀ h => ?_) hF
  unfold State.writeMarks
  exact .ite (h.rsvEnc ..) ((h.setFldAt ..).setFldAt ..)

theorem execTierZoneWrite_steady {F : List Touch} {s₀ s : State} (h : Steady F s₀ s) (z w v)
    (hF : Touch.within [.out, .regs, .cnt, .pcie, .anyPage, .page .pcie, .page .tier] F = true := by rfl) :
    SteadyNext F s₀ (execTierZoneWrite z w v s) := by
  refine h.widenNext (fun s₀ h => ?_) hF
  unfold execTierZoneWrite
  extract_lets
  exact .next (h.ifReady (fun u hu => by
      split
      · exact (hu.writeCommit ..).writeCommit ..
      · exact (hu.writeCommit ..).swWrite ..
      · exact hu.writeMarks ..
      · exact hu.writeMarks ..) ..)

theorem execTierLayoutWrite_steady {F : List Touch} {s₀ s : State} (h : Steady F s₀ s) (side v)
    (hF : Touch.within [.regs, .cnt, .page .tier] F = true := by rfl) :
    SteadyNext F s₀ (execTierLayoutWrite side v s) := by
  refine h.widenNext (fun s₀ h => ?_) hF
  unfold execTierLayoutWrite
  extract_lets
  exact .next (h.ifReady (fun u hu => by
      extract_lets s1
      have hs1 : Steady _ s₀ s1 := .ite (hu.setFld ..) (hu.rsvEnc ..)
      exact .ite (hu.err ..) (.ite (hu.err ..) (.ite ((hu.setFld ..).setFld ..) (hs1.setFld ..)))) ..)

theorem Steady.setCap {F : List Touch} {s₀ s : State} (h : Steady F s₀ s) (t cap)
    (hF : Touch.within [.out, .regs, .cnt, .pcie, .anyPage, .page .pcie, .page .tier] F = true := by rfl) :
    Steady F s₀ (s.setCap t cap) := by
  refine h.widen (fun s₀ h => ?_) hF
  unfold State.setCap
  exact .ite h ((h.setFldAt ..).overCommit ..)

theorem Steady.recount {F : List Touch} {s₀ s : State} (h : Steady F s₀ s) (t)
    (hF : Touch.within [.out, .regs, .cnt, .pcie, .anyPage, .page .pcie, .page .tier] F = true := by rfl) :
    Steady F s₀ (s.recount t) := by
  refine h.widen (fun s₀ h => ?_) hF
  unfold State.recount
  exact h.setCap ..

theorem Steady.recap {F : List Touch} {s₀ s : State} (h : Steady F s₀ s) (pg)
    (hF : Touch.within [.out, .regs, .cnt, .pcie, .anyPage, .page .pcie, .page .tier] F = true := by rfl) :
    Steady F s₀ (s.recap pg) := by
  refine h.widen (fun s₀ h => ?_) hF
  unfold State.recap
  split
  · exact h.recount ..
  · exact h.recount ..
  · exact h.recount ..
  · exact h

theorem execTierCapacityDrop_steady {F : List Touch} {s₀ s : State} (h : Steady F s₀ s) (t cap)
    (hF : Touch.within [.out, .regs, .cnt, .tier, .pcie, .anyPage, .page .pcie, .page .tier] F = true := by rfl) :
    SteadyNext F s₀ (execTierCapacityDrop t cap s) := by
  refine h.widenNext (fun s₀ h => ?_) hF
  unfold execTierCapacityDrop
  exact .next (.ite ((h.setTier ..).setCap ..) h)

theorem execBlockTrainingDone_steady {F : List Touch} {s₀ s : State} (h : Steady F s₀ s) (pg ok dimms rate frames)
    (hF : Touch.within [.fresh, .out, .regs, .cnt, .mem, .movers, .tier, .digs, .elog, .qrm, .pwr, .pcie, .anyPage,
        .page .pwr, .page .pcie, .page .tier, .page .move, .page .elog] F = true := by rfl) :
    SteadyNext F s₀ (execBlockTrainingDone pg ok dimms rate frames s) := by
  refine h.widenNext (fun s₀ h => ?_) hF
  unfold execBlockTrainingDone
  extract_lets s1 s2
  have hs1 : Steady _ s₀ s1 := (h.setFld ..).setFld ..
  have hs2 : Steady _ s₀ s2 := (hs1.setFld ..).setFld ..
  refine .next ?_
  split
  · exact h
  · split
    · exact h
    · exact h
    · exact h
    · split
      · exact h
      · split
        · split
          · exact ((hs1.setFld ..).setFld ..).recap ..
          · exact ((hs1.setFld ..).setFld ..).recap ..
          · exact ((hs2.setFld ..).setFld ..).recap ..
          · exact hs1
        · exact ((h.setFld ..).recap ..).record ..

theorem execPatrolPassDone_steady {F : List Touch} {s₀ s : State} (h : Steady F s₀ s) (r)
    (hF : Touch.within [.cnt, .anyPage] F = true := by rfl) :
    SteadyNext F s₀ (execPatrolPassDone r s) := by
  refine h.widenNext (fun s₀ h => ?_) hF
  unfold execPatrolPassDone
  refine .next ?_
  split
  · exact (h.count ..).countAt ..
  · exact (h.count ..).countAt ..
  · exact (h.count ..).countAt ..
  · exact h

end Sys2Proof.Machine
end


section
/-! PROOFS. What the operations of MoverOps.lean keep: the State Mover's operations: triggers, contexts, pool queue
pairs, the work requests it posts, layer commits. -/

namespace Sys2Proof.Machine
open Sys2Proof

theorem Steady.trigEvent {F : List Touch} {s₀ s : State} (h : Steady F s₀ s) (p src tag)
    (hF : Touch.within [.cnt, .engines, .page .feng] F = true := by rfl) :
    Steady F s₀ (s.trigEvent p src tag) := by
  refine h.widen (fun s₀ h => ?_) hF
  unfold State.trigEvent
  extract_lets _ _ s1
  have hs1 : Steady _ s₀ s1 := h.each (fun u _ hu => (hu.setEng ..).count ..) ..
  exact .ite hs1 (hs1.count ..)

theorem Steady.setCtx {F : List Touch} {s₀ s : State} (h : Steady F s₀ s) (p i c)
    (hF : Touch.within [.movers] F = true := by rfl) :
    Steady F s₀ (s.setCtx p i c) := by
  refine h.widen (fun s₀ h => ?_) hF
  unfold State.setCtx
  exact h.setMover ..

theorem Steady.postWaiting {F : List Touch} {s₀ s : State} (h : Steady F s₀ s) (p a)
    (hF : Touch.within [.out, .regs, .cnt, .mem, .movers, .tier, .qps, .digs, .pwr, .pcie, .page .pwr, .page .pcie,
        .page .tier, .page .move] F = true := by rfl) :
    Steady F s₀ (s.postWaiting p a) := by
  refine h.widen (fun s₀ h' => ?_) hF
  clear hF h
  rename' h' => h
  induction a generalizing s p
  case nil  =>
    unfold State.postWaiting
    exact h
  case cons head tail ih =>
    unfold State.postWaiting
    extract_lets _ _ s1 _ s2
    have hs1 : Steady _ s₀ s1 := h.put ..
    have hs2 : Steady _ s₀ s2 := ih (h := h) ..
    exact .ite (ih (h := hs1.setQp ..) ..) (hs2.setMover ..)

theorem Steady.repost {F : List Touch} {s₀ s : State} (h : Steady F s₀ s) (p)
    (hF : Touch.within [.out, .regs, .cnt, .mem, .movers, .tier, .qps, .digs, .pwr, .pcie, .page .pwr, .page .pcie,
        .page .tier, .page .move] F = true := by rfl) :
    Steady F s₀ (s.repost p) := by
  refine h.widen (fun s₀ h => ?_) hF
  unfold State.repost
  exact (h.setMover ..).postWaiting ..

theorem Steady.post {F : List Touch} {s₀ s : State} (h : Steady F s₀ s) (p l)
    (hF : Touch.within [.out, .regs, .cnt, .mem, .movers, .tier, .qps, .digs, .pwr, .pcie, .page .pwr, .page .pcie,
        .page .tier, .page .move] F = true := by rfl) :
    Steady F s₀ (s.post p l) := by
  refine h.widen (fun s₀ h => ?_) hF
  unfold State.post
  exact (h.setMover ..).repost ..

theorem Steady.mailAll {F : List Touch} {s₀ s : State} (h : Steady F s₀ s) (p a)
    (hF : Touch.within [.out, .regs, .cnt, .mem, .movers, .tier, .qps, .digs, .pwr, .pcie, .page .pwr, .page .pcie,
        .page .tier, .page .move] F = true := by rfl) :
    Steady F s₀ (s.mailAll p a) := by
  refine h.widen (fun s₀ h' => ?_) hF
  clear hF h
  rename' h' => h
  induction a generalizing s p
  case nil  =>
    unfold State.mailAll
    exact h
  case cons head tail ih =>
    unfold State.mailAll
    extract_lets
    split
    · extract_lets _ s1 _ s2
      have hs1 : Steady _ s₀ s1 := h.put ..
      have hs2 : Steady _ s₀ s2 := hs1.setMover ..
      exact ih (h := hs2.post ..) ..
    · exact ih (h := h.setMover ..) ..

theorem Steady.mail {F : List Touch} {s₀ s : State} (h : Steady F s₀ s) (p)
    (hF : Touch.within [.out, .regs, .cnt, .mem, .movers, .tier, .qps, .digs, .pwr, .pcie, .page .pwr, .page .pcie,
        .page .tier, .page .move] F = true := by rfl) :
    Steady F s₀ (s.mail p) := by
  refine h.widen (fun s₀ h => ?_) hF
  unfold State.mail
  exact .ite h ((h.setMover ..).mailAll ..)

theorem Steady.gatherSide {F : List Touch} {s₀ s : State} (h : Steady F s₀ s) (c layer first n)
    (hF : Touch.within [.out, .regs, .cnt, .mem, .movers, .tier, .digs, .pwr, .pcie, .page .pwr, .page .pcie, .page
        .tier, .page .move] F = true := by rfl) :
    Steady F s₀ (s.gatherSide c layer first n) := by
  refine h.widen (fun s₀ h => ?_) hF
  unfold State.gatherSide
  exact .ite h (h.each (fun u _ hu => hu.put ..) ..)

theorem Steady.setTag {F : List Touch} {s₀ s : State} (h : Steady F s₀ s) (page shape k f)
    (hF : Touch.within [.tier] F = true := by rfl) :
    Steady F s₀ (s.setTag page shape k f) := by
  refine h.widen (fun s₀ h => ?_) hF
  unfold State.setTag
  exact h.setTier ..

theorem Steady.failCtx {F : List Touch} {s₀ s : State} (h : Steady F s₀ s) (p i code)
    (hF : Touch.within [.out, .regs, .cnt, .movers, .pcie, .page .pcie, .page .move] F = true := by rfl) :
    Steady F s₀ (s.failCtx p i code) := by
  refine h.widen (fun s₀ h => ?_) hF
  unfold State.failCtx
  exact ((h.setCtx ..).err ..).irq ..

theorem Steady.advance {F : List Touch} {s₀ s : State} (h : Steady F s₀ s) (p i layer page)
    (hF : Touch.within [.movers, .reqs] F = true := by rfl) :
    Steady F s₀ (s.advance p i layer page) := by
  refine h.widen (fun s₀ h => ?_) hF
  unfold State.advance
  extract_lets _ s1
  have hs1 : Steady _ s₀ s1 := h.setCtx ..
  exact hs1.updReq ..

theorem Steady.freeLayer {F : List Touch} {s₀ s : State} (h : Steady F s₀ s) (c layer)
    (hF : Touch.within [.mem, .tier] F = true := by rfl) :
    Steady F s₀ (s.freeLayer c layer) := by
  refine h.widen (fun s₀ h => ?_) hF
  unfold State.freeLayer
  extract_lets s1
  have hs1 : Steady _ s₀ s1 := h.each (fun u _ hu => hu.freePage ..) ..
  exact hs1.each (fun u1 _ hu1 => hu1.freePage ..) ..

theorem Steady.parkPages {F : List Touch} {s₀ s : State} (h : Steady F s₀ s) (pages)
    (hF : Touch.within [.tier] F = true := by rfl) :
    Steady F s₀ (s.parkPages pages) := by
  refine h.widen (fun s₀ h => ?_) hF
  unfold State.parkPages
  exact h.each (fun u _ hu => by
      extract_lets
      split
      · exact (hu.addMig ..).setLeaf ..
      · exact hu) ..

theorem Steady.parkLayer {F : List Touch} {s₀ s : State} (h : Steady F s₀ s) (p i layer)
    (hF : Touch.within [.fresh, .out, .regs, .cnt, .mem, .movers, .reqs, .tier, .qps, .digs, .pwr, .pcie, .page
        .pwr, .page .pcie, .page .tier, .page .move] F = true := by rfl) :
    Steady F s₀ (s.parkLayer p i layer) := by
  refine h.widen (fun s₀ h => ?_) hF
  unfold State.parkLayer
  extract_lets _ _ s1 s2 s3 s4
  have hs1 : Steady _ s₀ s1 := h.draw.setCtx ..
  have hs2 : Steady _ s₀ s2 := (hs1.err ..).irq ..
  have hs3 : Steady _ s₀ s3 := h.parkPages ..
  have hs4 : Steady _ s₀ s4 := hs3.gatherSide ..
  exact .ite (hs2.updReq ..) (.ite (h.setCtx ..) ((hs4.setCtx ..).post ..))

theorem Steady.commitRemote {F : List Touch} {s₀ s : State} (h : Steady F s₀ s) (page node part rpage keyIdx)
    (hF : Touch.within [.out, .regs, .cnt, .mem, .movers, .tier, .rrc, .engines, .qps, .srch, .units, .digs, .pwr,
        .pcie, .far, .page .rstc, .page .pwr, .page .pcie, .page .tier, .page .move, .page .feng, .page .srch,
        .page .mon] F = true := by rfl) :
    Steady F s₀ (s.commitRemote page node part rpage keyIdx) := by
  refine h.widen (fun s₀ h => ?_) hF
  unfold State.commitRemote
  split
  · exact h
  · exact ((((h.freeHome ..).clearMem ..).setTier ..).setLeaf ..).settle ..

theorem Steady.unpark {F : List Touch} {s₀ s : State} (h : Steady F s₀ s) (c)
    (hF : Touch.within [.out, .regs, .cnt, .mem, .movers, .tier, .rrc, .engines, .qps, .srch, .units, .digs, .pwr,
        .pcie, .far, .page .rstc, .page .pwr, .page .pcie, .page .tier, .page .move, .page .feng, .page .srch,
        .page .mon] F = true := by rfl) :
    Steady F s₀ (s.unpark c) := by
  refine h.widen (fun s₀ h => ?_) hF
  unfold State.unpark
  exact h.each (fun u _ hu => by
      extract_lets
      split
      · exact .ite ((hu.setLeaf ..).settle ..) hu
      · exact hu) ..

theorem Steady.setEntry {F : List Touch} {s₀ s : State} (h : Steady F s₀ s) (p i v)
    (hF : Touch.within [.out, .regs, .cnt, .mem, .movers, .tier, .digs, .pwr, .pcie, .page .pwr, .page .pcie, .page
        .tier, .page .move] F = true := by rfl) :
    Steady F s₀ (s.setEntry p i v) := by
  refine h.widen (fun s₀ h => ?_) hF
  unfold State.setEntry
  exact h.put ..

theorem Steady.clearIdx {F : List Touch} {s₀ s : State} (h : Steady F s₀ s) (p tag)
    (hF : Touch.within [.out, .regs, .cnt, .mem, .movers, .tier, .digs, .pwr, .pcie, .page .pwr, .page .pcie, .page
        .tier, .page .move] F = true := by rfl) :
    Steady F s₀ (s.clearIdx p tag) := by
  refine h.widen (fun s₀ h => ?_) hF
  unfold State.clearIdx
  exact h.each (fun u _ hu => hu.each (fun u1 _ hu1 => .ite (hu1.put ..) hu1) ..) ..

theorem Steady.freeEntryPages {F : List Touch} {s₀ s : State} (h : Steady F s₀ s) (e)
    (hF : Touch.within [.mem, .tier] F = true := by rfl) :
    Steady F s₀ (s.freeEntryPages e) := by
  refine h.widen (fun s₀ h => ?_) hF
  unfold State.freeEntryPages
  exact h.each (fun u _ hu => .ite hu (hu.freePage ..)) ..

theorem Steady.evictEntry {F : List Touch} {s₀ s : State} (h : Steady F s₀ s) (p i)
    (hF : Touch.within [.out, .regs, .cnt, .mem, .movers, .tier, .digs, .pwr, .pcie, .page .pwr, .page .pcie, .page
        .tier, .page .move] F = true := by rfl) :
    Steady F s₀ (s.evictEntry p i) := by
  refine h.widen (fun s₀ h => ?_) hF
  unfold State.evictEntry
  exact .ite h (.ite (.ite (h.setEntry ..) (((h.clearIdx ..).freeEntryPages ..).setEntry ..)) (h.moverSend ..))

theorem Steady.entryLive {F : List Touch} {s₀ s : State} (h : Steady F s₀ s) (p i e)
    (hF : Touch.within [.out, .regs, .cnt, .mem, .movers, .tier, .digs, .pwr, .pcie, .page .pwr, .page .pcie, .page
        .tier, .page .move] F = true := by rfl) :
    Steady F s₀ (s.entryLive p i e) := by
  refine h.widen (fun s₀ h => ?_) hF
  unfold State.entryLive
  extract_lets s1
  have hs1 : Steady _ s₀ s1 := h.setEntry ..
  exact .ite (hs1.evictEntry ..) hs1

theorem Steady.expireEntry {F : List Touch} {s₀ s : State} (h : Steady F s₀ s) (p i)
    (hF : Touch.within [.out, .regs, .cnt, .mem, .movers, .tier, .digs, .pwr, .pcie, .page .pwr, .page .pcie, .page
        .tier, .page .move, .page .srch] F = true := by rfl) :
    Steady F s₀ (s.expireEntry p i) := by
  refine h.widen (fun s₀ h => ?_) hF
  unfold State.expireEntry
  extract_lets _ s1 _ _ s2
  have hs1 : Steady _ s₀ s1 := h.count ..
  have hs2 : Steady _ s₀ s2 := .ite ((hs1.clearIdx ..).freeEntryPages ..) ((hs1.freeEntryPages ..).moverSend ..)
  exact hs2.setEntry ..

theorem Steady.unpin {F : List Touch} {s₀ s : State} (h : Steady F s₀ s) (p i served)
    (hF : Touch.within [.out, .regs, .cnt, .mem, .movers, .tier, .digs, .pwr, .pcie, .page .pwr, .page .pcie, .page
        .tier, .page .move, .page .srch] F = true := by rfl) :
    Steady F s₀ (s.unpin p i served) := by
  refine h.widen (fun s₀ h => ?_) hF
  unfold State.unpin
  extract_lets _ _ _ s1
  have hs1 : Steady _ s₀ s1 := h.setEntry ..
  exact .ite (hs1.expireEntry ..) (.ite ((hs1.freeEntryPages ..).setEntry ..) hs1)

theorem Steady.endServe {F : List Touch} {s₀ s : State} (h : Steady F s₀ s) (p i ok)
    (hF : Touch.within [.out, .regs, .cnt, .mem, .movers, .tier, .rrc, .engines, .qps, .srch, .units, .digs, .pwr,
        .pcie, .far, .page .rstc, .page .pwr, .page .pcie, .page .tier, .page .move, .page .feng, .page .srch,
        .page .mon] F = true := by rfl) :
    Steady F s₀ (s.endServe p i ok) := by
  refine h.widen (fun s₀ h => ?_) hF
  unfold State.endServe
  extract_lets _ s1 s2 s3
  have hs1 : Steady _ s₀ s1 := h.each (fun u _ hu => by
      split
      · extract_lets _ s4
        have hs4 : Steady _ s₀ s4 := (hu.setLeaf ..).settle ..
        exact .ite (hs4.freePage ..) hs4
      · exact hu) ..
  have hs2 : Steady _ s₀ s2 := .ite (hs1.unpin ..) hs1
  have hs3 : Steady _ s₀ s3 := .ite (hs2.count ..) hs2
  exact hs3.setCtx ..

theorem Steady.dropTrigs {F : List Touch} {s₀ s : State} (h : Steady F s₀ s) (q)
    (hF : Touch.within [.engines] F = true := by rfl) :
    Steady F s₀ (s.dropTrigs q) := by
  refine h.widen (fun s₀ h => ?_) hF
  unfold State.dropTrigs
  exact h.setEng ..

theorem Steady.qpError {F : List Touch} {s₀ s : State} (h : Steady F s₀ s) (q)
    (hF : Touch.within [.out, .regs, .cnt, .engines, .qps, .pcie, .page .pcie, .page .feng] F = true := by rfl) :
    Steady F s₀ (s.qpError q) := by
  refine h.widen (fun s₀ h => ?_) hF
  unfold State.qpError
  exact ((h.setQp ..).dropTrigs ..).irq ..

theorem Steady.qpsError {F : List Touch} {s₀ s : State} (h : Steady F s₀ s) (p c)
    (hF : Touch.within [.out, .regs, .cnt, .movers, .engines, .qps, .pcie, .page .pcie, .page .feng] F = true := by
        rfl) :
    Steady F s₀ (s.qpsError p c) := by
  refine h.widen (fun s₀ h => ?_) hF
  unfold State.qpsError
  extract_lets _ s1
  have hs1 : Steady _ s₀ s1 := h.setMover ..
  exact .ite hs1 (hs1.each (fun u _ hu => .ite (hu.qpError ..) hu) ..)

theorem Steady.resumeTx {F : List Touch} {s₀ s : State} (h : Steady F s₀ s) (p i)
    (hF : Touch.within [.out, .regs, .cnt, .mem, .movers, .tier, .qps, .digs, .pwr, .pcie, .page .pwr, .page .pcie,
        .page .tier, .page .move] F = true := by rfl) :
    Steady F s₀ (s.resumeTx p i) := by
  refine h.widen (fun s₀ h => ?_) hF
  unfold State.resumeTx
  extract_lets
  split
  · exact (h.setCtx ..).count ..
  · extract_lets _ _ s1
    have hs1 : Steady _ s₀ s1 := (h.setCtx ..).count ..
    exact .ite (hs1.post ..) (hs1.post ..)

theorem Steady.restart {F : List Touch} {s₀ s : State} (h : Steady F s₀ s) (p i)
    (hF : Touch.within [.out, .regs, .cnt, .mem, .movers, .tier, .engines, .qps, .digs, .pwr, .pcie, .page .pwr,
        .page .pcie, .page .tier, .page .move, .page .feng] F = true := by rfl) :
    Steady F s₀ (s.restart p i) := by
  refine h.widen (fun s₀ h => ?_) hF
  unfold State.restart
  exact ((h.qpsError ..).setCtx ..).resumeTx ..

theorem Steady.openTx {F : List Touch} {s₀ s : State} (h : Steady F s₀ s) (p i)
    (hF : Touch.within [.cnt, .movers, .page .move] F = true := by rfl) :
    Steady F s₀ (s.openTx p i) := by
  refine h.widen (fun s₀ h => ?_) hF
  unfold State.openTx
  extract_lets
  split
  · exact h.count ..
  · extract_lets s1
    have hs1 : Steady _ s₀ s1 := h.setCtx ..
    exact hs1.moverSend ..

theorem Steady.retryOpens {F : List Touch} {s₀ s : State} (h : Steady F s₀ s) (p)
    (hF : Touch.within [.out, .regs, .cnt, .mem, .movers, .tier, .qps, .digs, .pwr, .pcie, .page .pwr, .page .pcie,
        .page .tier, .page .move] F = true := by rfl) :
    Steady F s₀ (s.retryOpens p) := by
  refine h.widen (fun s₀ h => ?_) hF
  unfold State.retryOpens
  exact h.each (fun u _ hu => .ite (.ite (hu.resumeTx ..) (hu.openTx ..)) hu) ..

theorem Steady.keepRows {F : List Touch} {s₀ s : State} (h : Steady F s₀ s) (c shape keep)
    (hF : Touch.within [.mem, .tier] F = true := by rfl) :
    Steady F s₀ (s.keepRows c shape keep) := by
  refine h.widen (fun s₀ h => ?_) hF
  unfold State.keepRows
  exact h.each (fun u _ hu => hu.each (fun u1 _ hu1 => .ite hu1 (.ite (hu1.freePage ..) (.ite hu1 (hu1.each
      (fun u2 _ hu2 => .ite (hu2.setTag ..) (hu2.setTag ..)) ..)))) ..) ..

theorem Steady.tagRows {F : List Touch} {s₀ s : State} (h : Steady F s₀ s) (p i epoch off n)
    (hF : Touch.within [.movers, .tier] F = true := by rfl) :
    Steady F s₀ (s.tagRows p i epoch off n) := by
  refine h.widen (fun s₀ h => ?_) hF
  unfold State.tagRows
  extract_lets _ _ _ _ _ _ _ _ s1 s2
  have hs1 : Steady _ s₀ s1 := .ite h (h.setSide ..)
  have hs2 : Steady _ s₀ s2 := hs1.each (fun u _ hu => .ite (hu.setTag ..) hu) ..
  split
  · exact h
  · split
    · exact h
    · split
      · exact hs2.setCtx ..
      · exact hs2

end Sys2Proof.Machine
end


section
/-! PROOFS. What the operations of Transfers.lean keep: transfers of the State Mover from their opening to their end:
contexts, parks, pulls, serves, early ends. -/

namespace Sys2Proof.Machine
open Sys2Proof

theorem Steady.bindCtx {F : List Touch} {s₀ s : State} (h : Steady F s₀ s) (p c)
    (hF : Touch.within [.movers] F = true := by rfl) :
    SteadyOptSnd F s₀ (s.bindCtx p c) := by
  refine h.widenOptSnd (fun s₀ h => ?_) hF
  unfold State.bindCtx
  extract_lets old
  clear_value old
  split
  · exact .some (h.setCtx ..)
  · exact .map (fun _  => h.setCtx ..)

theorem Steady.settleSpec {F : List Touch} {s₀ s : State} (h : Steady F s₀ s) (v)
    (hF : Touch.within [.out, .regs, .cnt, .mem, .movers, .tier, .qps, .digs, .pwr, .pcie, .page .pwr, .page .pcie,
        .page .tier, .page .move] F = true := by rfl) :
    Steady F s₀ (s.settleSpec v).2 := by
  refine h.widen (fun s₀ h => ?_) hF
  unfold State.settleSpec
  extract_lets
  split
  · extract_lets s1
    have hs1 : Steady _ s₀ s1 := h.post ..
    exact hs1.keepRows ..
  · exact h

theorem Steady.parkWait {F : List Touch} {s₀ s : State} (h : Steady F s₀ s) (p reqId)
    (hF : Touch.within [.movers] F = true := by rfl) :
    Steady F s₀ (s.parkWait p reqId) := by
  refine h.widen (fun s₀ h => ?_) hF
  unfold State.parkWait
  exact h.setMover ..

theorem Steady.sendServe {F : List Touch} {s₀ s : State} (h : Steady F s₀ s) (p i)
    (hF : Touch.within [.out, .regs, .cnt, .mem, .movers, .tier, .qps, .digs, .pwr, .pcie, .page .pwr, .page .pcie,
        .page .tier, .page .move] F = true := by rfl) :
    Steady F s₀ (s.sendServe p i) := by
  refine h.widen (fun s₀ h => ?_) hF
  unfold State.sendServe
  extract_lets
  split
  · exact h.count ..
  · extract_lets s1 s2 st s3
    have hs1 : Steady _ s₀ s1 := h.setCtx ..
    have hs2 : Steady _ s₀ s2 := hs1.parkPages ..
    have hs3 : Steady [.out, .regs, .cnt, .mem, .movers, .tier, .qps, .digs, .pwr, .pcie, .page .pwr, .page .pcie,
        .page .tier, .page .move] s₀ s3 := by
      unfold s3
      clear_value st
      split
      · exact hs2.gatherSide ..
      · exact hs2
    exact .ite h (hs3.post ..)

theorem Steady.qpsFreed {F : List Touch} {s₀ s : State} (h : Steady F s₀ s) (p)
    (hF : Touch.within [.fresh, .out, .regs, .cnt, .mem, .movers, .reqs, .tier, .qps, .digs, .pwr, .pcie, .page
        .pwr, .page .pcie, .page .tier, .page .move] F = true := by rfl) :
    Steady F s₀ (s.qpsFreed p) := by
  refine h.widen (fun s₀ h => ?_) hF
  unfold State.qpsFreed
  extract_lets s1 s2
  have hs1 : Steady _ s₀ s1 := h.retryOpens ..
  have hs2 : Steady _ s₀ s2 := hs1.each (fun u _ hu => .ite (hu.sendServe ..) hu) ..
  exact hs2.each (fun u1 _ hu1 => by
      split
      · exact .ite (hu1.parkLayer ..) hu1
      · exact hu1) ..

theorem Steady.tryPark {F : List Touch} {s₀ s : State} (h : Steady F s₀ s) (p i k)
    (hF : Touch.within [.fresh, .out, .regs, .cnt, .mem, .movers, .reqs, .tier, .qps, .digs, .pwr, .pcie, .page
        .pwr, .page .pcie, .page .tier, .page .move] F = true := by rfl) :
    Steady F s₀ (s.tryPark p i k) := by
  refine h.widen (fun s₀ h => ?_) hF
  unfold State.tryPark
  extract_lets _ s1 s2
  have hs1 : Steady _ s₀ s1 := h.setCtx ..
  have hs2 : Steady [.fresh, .out, .regs, .cnt, .mem, .movers, .reqs, .tier, .qps, .digs, .pwr, .pcie, .page .pwr,
      .page .pcie, .page .tier, .page .move] s₀ s2 := by
    unfold s2
    split
    · exact (h.setCtx ..).openTx ..
    · exact (((hs1.count ..).err ..).irq ..).parkWait ..
  exact .ite (hs2.qpsFreed ..) hs2

theorem Steady.startPark {F : List Touch} {s₀ s : State} (h : Steady F s₀ s) (v)
    (hF : Touch.within [.fresh, .out, .regs, .cnt, .mem, .movers, .reqs, .convs, .tier, .qps, .digs, .pwr, .pcie,
        .page .pwr, .page .pcie, .page .tier, .page .move] F = true := by rfl) :
    Steady F s₀ (s.startPark v) := by
  refine h.widen (fun s₀ h => ?_) hF
  unfold State.startPark
  extract_lets _ r _ s1 _ _ s2
  have hr : Steady _ s₀ r.2 := h.settleSpec ..
  have hs1 : Steady _ s₀ s1 := hr.setConv ..
  have hs2 : Steady _ s₀ s2 := hs1.draw
  split
  · rename_i x heq
    exact hs2.parkWait ..
  · rename_i x1 _ s3 heq1
    have hs3 : Steady _ s₀ s3 := (hs2.bindCtx ..).of_eq heq1
    exact hs3.tryPark ..

theorem Steady.sendRun {F : List Touch} {s₀ s : State} (h : Steady F s₀ s) (p i prefetch page a)
    (hF : Touch.within [.cnt, .movers, .tier, .page .move] F = true := by rfl) :
    Steady F s₀ (s.sendRun p i prefetch page a).2 := by
  refine h.widen (fun s₀ h' => ?_) hF
  clear hF h
  rename' h' => h
  induction a generalizing s p i prefetch page
  case zero  =>
    unfold State.sendRun
    exact h
  case succ n ih =>
    unfold State.sendRun
    extract_lets
    split
    · exact ih (h := h) ..
    · split
      · rename_i x s1 heq
        have hs1 : Steady _ s₀ s1 := .of_snd heq (h.pullPage ..)
        extract_lets _ r _ _ s2 _ s3 _ s4
        have hr : Steady _ s₀ r.2 := hs1.pullMore ..
        have hs2 : Steady _ s₀ s2 := .ite (hr.count ..) hr
        have hs3 : Steady _ s₀ s3 := hs2.pullReq ..
        have hs4 : Steady _ s₀ s4 := hs3.setCtx ..
        exact .ite_snd hs4 hs4
      · rename_i x1 _ s5 _ heq1
        have hs5 : Steady _ s₀ s5 := .of_snd heq1 (h.pullPage ..)
        exact hs5

theorem Steady.sendRuns {F : List Touch} {s₀ s : State} (h : Steady F s₀ s) (p i)
    (hF : Touch.within [.cnt, .movers, .tier, .page .move] F = true := by rfl) :
    Steady F s₀ (s.sendRuns p i) := by
  refine h.widen (fun s₀ h => ?_) hF
  unfold State.sendRuns
  extract_lets r
  have hr : Steady _ s₀ r.2 := .foldl_snd h (fun a _ ha => by
      extract_lets x
      have hx : Steady _ s₀ x.2 := ha.sendRun ..
      exact hx)
  exact hr.setCtx ..

theorem Steady.parkNow {F : List Touch} {s₀ s : State} (h : Steady F s₀ s) (v)
    (hF : Touch.within [.fresh, .out, .regs, .cnt, .mem, .movers, .reqs, .convs, .tier, .qps, .digs, .pwr, .pcie,
        .page .pwr, .page .pcie, .page .tier, .page .move] F = true := by rfl) :
    Steady F s₀ (s.parkNow v) := by
  refine h.widen (fun s₀ h => ?_) hF
  unfold State.parkNow
  extract_lets s1
  have hs1 : Steady _ s₀ s1 := h.upd [.reqs]
  exact .ite h (hs1.startPark ..)

theorem Steady.pullProgress {F : List Touch} {s₀ s : State} (h : Steady F s₀ s) (p i)
    (hF : Touch.within [.fresh, .out, .regs, .cnt, .mem, .movers, .reqs, .convs, .tier, .qps, .units, .digs, .pwr,
        .pcie, .page .pwr, .page .pcie, .page .tier, .page .move, .page .mon] F = true := by rfl) :
    Steady F s₀ (s.pullProgress p i) := by
  refine h.widen (fun s₀ h => ?_) hF
  unfold State.pullProgress
  extract_lets _ _ s1 s2 s3 _ s4
  have hs1 : Steady _ s₀ s1 := h.setCtx ..
  have hs2 : Steady _ s₀ s2 := hs1.sample ..
  have hs3 : Steady _ s₀ s3 := .ite (hs2.updReq ..) h
  have hs4 : Steady _ s₀ s4 := hs3.setCtx ..
  split
  · exact h
  · split
    · exact hs3
    · split
      · exact .ite (hs4.startPark ..) (.ite (hs4.parkNow ..) hs4)
      · exact hs4

theorem Steady.adpBind {F : List Touch} {s₀ s : State} (h : Steady F s₀ s) (p k)
    (hF : Touch.within [.regs, .anyPage] F = true := by rfl) :
    Steady F s₀ (s.adpBind p k) := by
  refine h.widen (fun s₀ h => ?_) hF
  unfold State.adpBind
  exact h.setFldAt ..

theorem Steady.adpDrop {F : List Touch} {s₀ s : State} (h : Steady F s₀ s) (p k)
    (hF : Touch.within [.regs, .anyPage] F = true := by rfl) :
    Steady F s₀ (s.adpDrop p k) := by
  refine h.widen (fun s₀ h => ?_) hF
  unfold State.adpDrop
  extract_lets s1
  have hs1 : Steady _ s₀ s1 := h.setFldAt ..
  exact .ite (hs1.setFldAt ..) hs1

theorem Steady.dropAdapter {F : List Touch} {s₀ s : State} (h : Steady F s₀ s) (id)
    (hF : Touch.within [.regs, .reqs, .anyPage] F = true := by rfl) :
    Steady F s₀ (s.dropAdapter id) := by
  refine h.widen (fun s₀ h => ?_) hF
  unfold State.dropAdapter
  split
  · split
    · exact (h.adpDrop ..).updReq ..
    · exact h
  · exact h

theorem Steady.setRemote {F : List Touch} {s₀ s : State} (h : Steady F s₀ s) (page node part rpage keyIdx)
    (hF : Touch.within [.tier] F = true := by rfl) :
    Steady F s₀ (s.setRemote page node part rpage keyIdx) := by
  refine h.widen (fun s₀ h => ?_) hF
  unfold State.setRemote
  split
  · rename_i x heq
    exact h
  · rename_i x1 s1 heq1
    have hs1 : Steady _ s₀ s1 := (h.needLeaf ..).of_eq heq1
    exact hs1.setLeaf ..

theorem Steady.forgetRemote {F : List Touch} {s₀ s : State} (h : Steady F s₀ s) (c)
    (hF : Touch.within [.tier] F = true := by rfl) :
    Steady F s₀ (s.forgetRemote c) := by
  refine h.widen (fun s₀ h => ?_) hF
  unfold State.forgetRemote
  exact h.each (fun u _ hu => .ite (hu.setLeaf ..) hu) ..

theorem Steady.remoteFromHandle {F : List Touch} {s₀ s : State} (h : Steady F s₀ s) (c hh)
    (hF : Touch.within [.regs, .tier, .anyPage] F = true := by rfl) :
    SteadyOpt F s₀ (s.remoteFromHandle c hh) := by
  refine h.widenOpt (fun s₀ h => ?_) hF
  unfold State.remoteFromHandle
  exact .ite (.some h) (.map (fun _  => (h.setFldAt ..).each (fun u _ hu => hu.setRemote ..) ..))

theorem Steady.startResume {F : List Touch} {s₀ s : State} (h : Steady F s₀ s) (v reqId all)
    (hF : Touch.within [.fresh, .out, .regs, .cnt, .mem, .movers, .reqs, .convs, .tier, .qps, .units, .digs, .pwr,
        .pcie, .anyPage, .page .pwr, .page .pcie, .page .tier, .page .move, .page .mon] F = true := by rfl) :
    Steady F s₀ (s.startResume v reqId all) := by
  refine h.widen (fun s₀ h => ?_) hF
  unfold State.startResume
  extract_lets
  split
  · rename_i x heq
    exact (h.count ..).parkWait ..
  · rename_i x1 s1 heq1
    have hs1 : Steady _ s₀ s1 := (h.remoteFromHandle ..).of_eq heq1
    extract_lets
    split
    · rename_i x2 heq2
      exact hs1.parkWait ..
    · rename_i x3 _ s2 heq3
      have hs2 : Steady _ s₀ s2 := (hs1.bindCtx ..).of_eq heq3
      exact (hs2.sendRuns ..).pullProgress ..

theorem Steady.relocate {F : List Touch} {s₀ s : State} (h : Steady F s₀ s) (v r)
    (hF : Touch.within [.fresh, .out, .regs, .cnt, .mem, .movers, .tenants, .reqs, .convs, .tier, .qps, .units,
        .digs, .pwr, .pcie, .anyPage, .page .pwr, .page .pcie, .page .tier, .page .move, .page .admt, .page .mon] F
        = true := by rfl) :
    Steady F s₀ (s.relocate v r) := by
  refine h.widen (fun s₀ h => ?_) hF
  unfold State.relocate
  extract_lets s1
  have hs1 : Steady _ s₀ s1 := h.forgetRemote ..
  split
  · exact h
  · split
    · extract_lets s2 _ s3
      have hs2 : Steady [.fresh, .out, .regs, .cnt, .mem, .movers, .tenants, .reqs, .convs, .tier, .qps, .units,
          .digs, .pwr, .pcie, .anyPage, .page .pwr, .page .pcie, .page .tier, .page .move, .page .admt, .page .mon]
          s₀ s2 := by
        unfold s2
        split
        · exact hs1.adpBind ..
        · exact hs1
      have hs3 : Steady _ s₀ s3 := ((hs2.reserve ..).setConv ..).updReq ..
      exact hs3.startResume ..
    · exact h.endReq ..

theorem Steady.parked {F : List Touch} {s₀ s : State} (h : Steady F s₀ s) (p c)
    (hF : Touch.within [.fresh, .out, .regs, .cnt, .mem, .movers, .tenants, .reqs, .convs, .tier, .qps, .units,
        .digs, .pwr, .pcie, .anyPage, .page .pwr, .page .pcie, .page .tier, .page .move, .page .admt, .page .mon] F
        = true := by rfl) :
    Steady F s₀ (s.parked p c) := by
  refine h.widen (fun s₀ h => ?_) hF
  unfold State.parked
  split
  · exact h
  · extract_lets _ s1 mine s2
    have hs1 : Steady _ s₀ s1 := (h.unreserve ..).setConv ..
    have hs2 : Steady _ s₀ s2 := hs1.each (fun u _ hu => hu.dropAdapter ..) ..
    split
    · exact hs2
    · split
      · exact hs2.each (fun u3 _ hu3 => hu3.endReq ..) ..
      · clear_value mine
        split
        · exact hs2.relocate ..
        · exact (hs2.count ..).pushRec ..

theorem Steady.mailDone {F : List Touch} {s₀ s : State} (h : Steady F s₀ s) (p q k)
    (hF : Touch.within [.out, .regs, .cnt, .mem, .movers, .tier, .qps, .digs, .pwr, .pcie, .page .pwr, .page .pcie,
        .page .tier, .page .move] F = true := by rfl) :
    Steady F s₀ (s.mailDone p q k) := by
  refine h.widen (fun s₀ h => ?_) hF
  unfold State.mailDone
  exact ((h.setMover ..).repost ..).mail ..

theorem Steady.moverDone {F : List Touch} {s₀ s : State} (h : Steady F s₀ s) (q wrId code)
    (hF : Touch.within [.fresh, .out, .regs, .cnt, .mem, .movers, .tenants, .reqs, .convs, .tier, .rrc, .engines,
        .qps, .srch, .units, .digs, .pwr, .pcie, .far, .anyPage, .page .rstc, .page .pwr, .page .pcie, .page .tier,
        .page .move, .page .admt, .page .feng, .page .srch, .page .mon] F = true := by rfl) :
    Steady F s₀ (s.moverDone q wrId code) := by
  refine h.widen (fun s₀ h => ?_) hF
  unfold State.moverDone
  extract_lets _ _ _ _ _ _ s1 _ _ s2 s3 s4 _ s5 s6 _ s7
  have hs1 : Steady _ s₀ s1 := h.repost ..
  have hs2 : Steady _ s₀ s2 := hs1.setCtx ..
  have hs3 : Steady _ s₀ s3 := ((hs2.advance ..).count ..).freeLayer ..
  have hs4 : Steady _ s₀ s4 := hs3.sample ..
  have hs5 : Steady _ s₀ s5 := hs2.each (fun u _ hu => hu.commitRemote ..) ..
  have hs6 : Steady _ s₀ s6 := (hs5.advance ..).count ..
  have hs7 : Steady _ s₀ s7 := .ite (hs1.unpark ..) hs1
  exact .ite (.ite (h.mailDone ..) (h.repost ..)) (.ite hs1 (.ite (.ite hs1 (.ite ((hs1.endServe ..).qpsFreed ..)
      (.ite hs2 (.ite (.ite (((hs4.setCtx ..).updReq ..).qpsFreed ..) hs4) (.ite (.ite
      (((hs6.setCtx ..).parked ..).qpsFreed ..) (hs6.parkLayer ..)) hs2))))) (.ite hs1 (.ite
      ((hs1.endServe ..).failCtx ..) (.ite (hs1.restart ..) ((hs7.failCtx ..).endReq ..))))))

end Sys2Proof.Machine
end


section
/-! PROOFS. What the operations of Qp.lean keep: queue pairs: states, rings, work requests, triggers, the transport.
-/

namespace Sys2Proof.Machine
open Sys2Proof

theorem Steady.writeCqe {F : List Touch} {s₀ s : State} (h : Steady F s₀ s) (q e)
    (hF : Touch.within [.out, .regs, .cnt, .mem, .movers, .tier, .qps, .digs, .pwr, .pcie, .page .pwr, .page .pcie,
        .page .tier, .page .move] F = true := by rfl) :
    Steady F s₀ (s.writeCqe q e) := by
  refine h.widen (fun s₀ h => ?_) hF
  unfold State.writeCqe
  exact (h.setQp ..).put ..

theorem Steady.drainCqes {F : List Touch} {s₀ s : State} (h : Steady F s₀ s) (q a)
    (hF : Touch.within [.out, .regs, .cnt, .mem, .movers, .tier, .qps, .digs, .pwr, .pcie, .page .pwr, .page .pcie,
        .page .tier, .page .move] F = true := by rfl) :
    Steady F s₀ (s.drainCqes q a) := by
  refine h.widen (fun s₀ h' => ?_) hF
  clear hF h
  rename' h' => h
  induction a generalizing s q
  case nil  =>
    unfold State.drainCqes
    exact h
  case cons head tail ih =>
    unfold State.drainCqes
    exact .ite (h.setQp ..) (ih (h := h.writeCqe ..) ..)

theorem Steady.advanceRq {F : List Touch} {s₀ s : State} (h : Steady F s₀ s) (q a)
    (hF : Touch.within [.qps] F = true := by rfl) :
    Steady F s₀ (s.advanceRq q a) := by
  refine h.widen (fun s₀ h' => ?_) hF
  clear hF h
  rename' h' => h
  induction a generalizing s q
  case zero  =>
    unfold State.advanceRq
    exact h
  case succ n ih =>
    unfold State.advanceRq
    exact .ite h (ih (h := h.setQp ..) ..)

theorem Steady.drainCq {F : List Touch} {s₀ s : State} (h : Steady F s₀ s) (q)
    (hF : Touch.within [.out, .regs, .cnt, .mem, .movers, .tier, .qps, .digs, .pwr, .pcie, .page .pwr, .page .pcie,
        .page .tier, .page .move] F = true := by rfl) :
    Steady F s₀ (s.drainCq q) := by
  refine h.widen (fun s₀ h => ?_) hF
  unfold State.drainCq
  exact ((h.setQp ..).drainCqes ..).advanceRq ..

theorem Steady.cqe {F : List Touch} {s₀ s : State} (h : Steady F s₀ s) (q e entry)
    (hF : Touch.within [.out, .regs, .cnt, .mem, .movers, .tier, .qps, .digs, .pwr, .pcie, .page .pwr, .page .pcie,
        .page .tier, .page .move] F = true := by rfl) :
    Steady F s₀ (s.cqe q e entry) := by
  refine h.widen (fun s₀ h => ?_) hF
  unfold State.cqe
  exact (h.setQp ..).drainCq ..

theorem Steady.dropBuffers {F : List Touch} {s₀ s : State} (h : Steady F s₀ s) (q)
    (hF : Touch.within [.movers] F = true := by rfl) :
    Steady F s₀ (s.dropBuffers q) := by
  refine h.widen (fun s₀ h => ?_) hF
  unfold State.dropBuffers
  exact .ite (h.setMover ..) h

theorem Steady.qpReset {F : List Touch} {s₀ s : State} (h : Steady F s₀ s) (q)
    (hF : Touch.within [.movers, .tier, .engines, .qps] F = true := by rfl) :
    Steady F s₀ (s.qpReset q) := by
  refine h.widen (fun s₀ h => ?_) hF
  unfold State.qpReset
  exact (((h.dropBuffers ..).disown ..).setQp ..).dropTrigs ..

theorem Steady.wrDone {F : List Touch} {s₀ s : State} (h : Steady F s₀ s) (q w code)
    (hF : Touch.within [.fresh, .out, .regs, .cnt, .mem, .movers, .tenants, .reqs, .convs, .tier, .rrc, .engines,
        .qps, .srch, .units, .digs, .pwr, .pcie, .far, .anyPage, .page .rstc, .page .pwr, .page .pcie, .page .tier,
        .page .move, .page .admt, .page .feng, .page .srch, .page .mon] F = true := by rfl) :
    Steady F s₀ (s.wrDone q w code) := by
  refine h.widen (fun s₀ h => ?_) hF
  unfold State.wrDone
  extract_lets _ s1 s2 _ s3 s4 s5
  have hs1 : Steady _ s₀ s1 := h.setQp ..
  have hs2 : Steady _ s₀ s2 := hs1.countAt ..
  have hs3 : Steady _ s₀ s3 := .ite (hs2.cqe ..) hs2
  have hs4 : Steady _ s₀ s4 := hs3.send ..
  have hs5 : Steady _ s₀ s5 := .ite hs4 (hs4.qpError ..)
  exact .ite (hs5.moverDone ..) hs5

theorem Steady.completeWrs {F : List Touch} {s₀ s : State} (h : Steady F s₀ s) (q a)
    (hF : Touch.within [.fresh, .out, .regs, .cnt, .mem, .movers, .tenants, .reqs, .convs, .tier, .rrc, .engines,
        .qps, .srch, .units, .digs, .pwr, .pcie, .far, .anyPage, .page .rstc, .page .pwr, .page .pcie, .page .tier,
        .page .move, .page .admt, .page .feng, .page .srch, .page .mon] F = true := by rfl) :
    Steady F s₀ (s.completeWrs q a) := by
  refine h.widen (fun s₀ h' => ?_) hF
  clear hF h
  rename' h' => h
  induction a generalizing s q
  case zero  =>
    unfold State.completeWrs
    exact h
  case succ n ih =>
    unfold State.completeWrs
    extract_lets
    split
    · exact ih (h := h.wrDone ..) ..
    · exact h

theorem Steady.advanceSq {F : List Touch} {s₀ s : State} (h : Steady F s₀ s) (q a)
    (hF : Touch.within [.qps] F = true := by rfl) :
    Steady F s₀ (s.advanceSq q a) := by
  refine h.widen (fun s₀ h' => ?_) hF
  clear hF h
  rename' h' => h
  induction a generalizing s q
  case zero  =>
    unfold State.advanceSq
    exact h
  case succ n ih =>
    unfold State.advanceSq
    extract_lets
    split
    · exact ih (h := h.setQp ..) ..
    · exact h

theorem Steady.dropDone {F : List Touch} {s₀ s : State} (h : Steady F s₀ s) (q)
    (hF : Touch.within [.qps] F = true := by rfl) :
    Steady F s₀ (s.dropDone q) := by
  refine h.widen (fun s₀ h => ?_) hF
  unfold State.dropDone
  exact h.setQp ..

theorem Steady.retire {F : List Touch} {s₀ s : State} (h : Steady F s₀ s) (q)
    (hF : Touch.within [.fresh, .out, .regs, .cnt, .mem, .movers, .tenants, .reqs, .convs, .tier, .rrc, .engines,
        .qps, .srch, .units, .digs, .pwr, .pcie, .far, .anyPage, .page .rstc, .page .pwr, .page .pcie, .page .tier,
        .page .move, .page .admt, .page .feng, .page .srch, .page .mon] F = true := by rfl) :
    Steady F s₀ (s.retire q) := by
  refine h.widen (fun s₀ h => ?_) hF
  unfold State.retire
  extract_lets _ s1
  have hs1 : Steady _ s₀ s1 := (h.completeWrs ..).takeAnswers ..
  exact .ite ((hs1.advanceSq ..).dropDone ..) hs1

theorem Steady.wrFail {F : List Touch} {s₀ s : State} (h : Steady F s₀ s) (q w code)
    (hF : Touch.within [.fresh, .out, .regs, .cnt, .mem, .movers, .tenants, .reqs, .convs, .tier, .rrc, .engines,
        .qps, .srch, .units, .digs, .pwr, .pcie, .far, .anyPage, .page .rstc, .page .pwr, .page .pcie, .page .tier,
        .page .move, .page .admt, .page .feng, .page .srch, .page .mon] F = true := by rfl) :
    Steady F s₀ (s.wrFail q w code) := by
  refine h.widen (fun s₀ h => ?_) hF
  unfold State.wrFail
  exact .ite h ((h.wrDone ..).retire ..)

theorem Steady.packetGoes {F : List Touch} {s₀ s : State} (h : Steady F s₀ s) (q w i plane)
    (hF : Touch.within [.out, .engines, .qps] F = true := by rfl) :
    Steady F s₀ (s.packetGoes q w i plane) := by
  refine h.widen (fun s₀ h => ?_) hF
  unfold State.packetGoes
  extract_lets s1
  have hs1 : Steady _ s₀ s1 := (h.sentOn ..).send ..
  exact hs1.setQp ..

theorem Steady.sendPacket {F : List Touch} {s₀ s : State} (h : Steady F s₀ s) (q w i again)
    (hF : Touch.within [.fresh, .out, .regs, .cnt, .mem, .movers, .tenants, .reqs, .convs, .tier, .rrc, .engines,
        .qps, .srch, .units, .digs, .pwr, .pcie, .far, .anyPage, .page .rstc, .page .pwr, .page .pcie, .page .tier,
        .page .move, .page .admt, .page .feng, .page .srch, .page .mon] F = true := by rfl) :
    Steady F s₀ (s.sendPacket q w i again).2 := by
  refine h.widen (fun s₀ h => ?_) hF
  unfold State.sendPacket
  extract_lets
  split
  · exact h.wrFail ..
  · split
    · exact h
    · split
      · exact h.packetGoes ..
      · split
        · rename_i x t heq
          have ht : Steady _ s₀ t := .of_snd heq (h.ownRead ..)
          exact ht.packetGoes ..
        · rename_i x1 t1 heq1
          have ht1 : Steady _ s₀ t1 := .of_snd heq1 (h.ownRead ..)
          exact ht1
        · rename_i x2 _ t2 _ _ heq2
          have ht2 : Steady _ s₀ t2 := .of_snd heq2 (h.ownRead ..)
          exact ht2.wrFail ..

theorem Steady.pump {F : List Touch} {s₀ s : State} (h : Steady F s₀ s) (q a)
    (hF : Touch.within [.fresh, .out, .regs, .cnt, .mem, .movers, .tenants, .reqs, .convs, .tier, .rrc, .engines,
        .qps, .srch, .units, .digs, .pwr, .pcie, .far, .anyPage, .page .rstc, .page .pwr, .page .pcie, .page .tier,
        .page .move, .page .admt, .page .feng, .page .srch, .page .mon] F = true := by rfl) :
    Steady F s₀ (s.pump q a) := by
  refine h.widen (fun s₀ h' => ?_) hF
  clear hF h
  rename' h' => h
  induction a generalizing s q
  case zero  =>
    unfold State.pump
    exact h
  case succ n ih =>
    unfold State.pump
    extract_lets
    split
    · exact h
    · split
      · exact h
      · split
        · rename_i x s1 heq
          have hs1 : Steady _ s₀ s1 := .of_snd heq (h.sendPacket ..)
          exact ih (h := hs1.setQp ..) ..
        · rename_i x1 _ s2 _ heq1
          have hs2 : Steady _ s₀ s2 := .of_snd heq1 (h.sendPacket ..)
          exact hs2

theorem Steady.passWr {F : List Touch} {s₀ s : State} (h : Steady F s₀ s) (q i)
    (hF : Touch.within [.qps] F = true := by rfl) :
    Steady F s₀ (s.passWr q i) := by
  refine h.widen (fun s₀ h => ?_) hF
  unfold State.passWr
  exact h.setQp ..

theorem Steady.skipDone {F : List Touch} {s₀ s : State} (h : Steady F s₀ s) (q a)
    (hF : Touch.within [.qps] F = true := by rfl) :
    Steady F s₀ (s.skipDone q a) := by
  refine h.widen (fun s₀ h' => ?_) hF
  clear hF h
  rename' h' => h
  induction a generalizing s q
  case zero  =>
    unfold State.skipDone
    exact h
  case succ n ih =>
    unfold State.skipDone
    exact .ite (ih (h := h.passWr ..) ..) h

theorem Steady.endUnstarted {F : List Touch} {s₀ s : State} (h : Steady F s₀ s) (q i w code)
    (hF : Touch.within [.fresh, .out, .regs, .cnt, .mem, .movers, .tenants, .reqs, .convs, .tier, .rrc, .engines,
        .qps, .srch, .units, .digs, .pwr, .pcie, .far, .anyPage, .page .rstc, .page .pwr, .page .pcie, .page .tier,
        .page .move, .page .admt, .page .feng, .page .srch, .page .mon] F = true := by rfl) :
    Steady F s₀ (s.endUnstarted q i w code) := by
  refine h.widen (fun s₀ h => ?_) hF
  unfold State.endUnstarted
  extract_lets _ _ s1
  have hs1 : Steady _ s₀ s1 := (h.setQp ..).wrDone ..
  exact (hs1.skipDone ..).retire ..

theorem Steady.readWr {F : List Touch} {s₀ s : State} (h : Steady F s₀ s) (q i)
    (hF : Touch.within [.out, .regs, .cnt, .movers, .tier, .pwr, .pcie, .page .pwr, .page .pcie, .page .tier, .page
        .move] F = true := by rfl) :
    Steady F s₀ (s.readWr q i).2 := by
  refine h.widen (fun s₀ h => ?_) hF
  unfold State.readWr
  extract_lets
  split
  · rename_i x t heq
    have ht : Steady _ s₀ t := .of_snd heq (h.ownRead ..)
    exact ht
  · rename_i x1 t1 heq1
    have ht1 : Steady _ s₀ t1 := .of_snd heq1 (h.ownRead ..)
    exact ht1
  · rename_i x2 _ t2 _ _ heq2
    have ht2 : Steady _ s₀ t2 := .of_snd heq2 (h.ownRead ..)
    exact ht2

theorem Steady.nextWrOf {F : List Touch} {s₀ s : State} (h : Steady F s₀ s) (q)
    (hF : Touch.within [.fresh, .out, .regs, .cnt, .mem, .movers, .tenants, .reqs, .convs, .tier, .rrc, .engines,
        .qps, .srch, .units, .digs, .pwr, .pcie, .far, .anyPage, .page .rstc, .page .pwr, .page .pcie, .page .tier,
        .page .move, .page .admt, .page .feng, .page .srch, .page .mon] F = true := by rfl) :
    Steady F s₀ (s.nextWrOf q).2 := by
  refine h.widen (fun s₀ h => ?_) hF
  unfold State.nextWrOf
  extract_lets
  split
  · rename_i x _ s1 heq
    have hs1 : Steady _ s₀ s1 := .of_snd heq (h.readWr ..)
    exact hs1
  · rename_i x1 s2 heq1
    have hs2 : Steady _ s₀ s2 := .of_snd heq1 (h.readWr ..)
    exact hs2
  · rename_i x2 _ s3 heq2
    have hs3 : Steady _ s₀ s3 := .of_snd heq2 (h.readWr ..)
    exact hs3.draw.endUnstarted ..

theorem Steady.checkNext {F : List Touch} {s₀ s : State} (h : Steady F s₀ s) (q)
    (hF : Touch.within [.fresh, .out, .regs, .cnt, .mem, .movers, .tenants, .reqs, .convs, .tier, .rrc, .engines,
        .qps, .srch, .units, .digs, .pwr, .pcie, .far, .anyPage, .page .rstc, .page .pwr, .page .pcie, .page .tier,
        .page .move, .page .admt, .page .feng, .page .srch, .page .mon] F = true := by rfl) :
    Steady F s₀ (s.checkNext q) := by
  refine h.widen (fun s₀ h => ?_) hF
  unfold State.checkNext
  extract_lets
  split
  · split
    · rename_i x _ s1 heq
      have hs1 : Steady _ s₀ s1 := .of_snd heq (h.nextWrOf ..)
      exact .ite (hs1.endUnstarted ..) hs1
    · rename_i x1 s2 heq1
      have hs2 : Steady _ s₀ s2 := .of_snd heq1 (h.nextWrOf ..)
      exact hs2
  · exact h

theorem Steady.launchWr {F : List Touch} {s₀ s : State} (h : Steady F s₀ s) (q i w)
    (hF : Touch.within [.fresh, .out, .regs, .cnt, .mem, .movers, .tenants, .reqs, .convs, .tier, .rrc, .engines,
        .qps, .srch, .units, .digs, .pwr, .pcie, .far, .anyPage, .page .rstc, .page .pwr, .page .pcie, .page .tier,
        .page .move, .page .admt, .page .feng, .page .srch, .page .mon] F = true := by rfl) :
    Steady F s₀ (s.launchWr q i w) := by
  refine h.widen (fun s₀ h => ?_) hF
  unfold State.launchWr
  extract_lets _ _ _ _ _ s1 _ s2
  have hs1 : Steady _ s₀ s1 := h.setEng ..
  have hs2 : Steady _ s₀ s2 := hs1.setQp ..
  exact ((hs2.passWr ..).skipDone ..).pump ..

theorem Steady.startWr {F : List Touch} {s₀ s : State} (h : Steady F s₀ s) (q op timer)
    (hF : Touch.within [.fresh, .out, .regs, .cnt, .mem, .movers, .tenants, .reqs, .convs, .tier, .rrc, .engines,
        .qps, .srch, .units, .digs, .pwr, .pcie, .far, .anyPage, .page .rstc, .page .pwr, .page .pcie, .page .tier,
        .page .move, .page .admt, .page .feng, .page .srch, .page .mon] F = true := by rfl) :
    Steady F s₀ (s.startWr q op timer) := by
  refine h.widen (fun s₀ h => ?_) hF
  unfold State.startWr
  extract_lets s1
  have hs1 : Steady _ s₀ s1 := (h.retire ..).pump ..
  split
  · exact hs1
  · split
    · rename_i x s2 heq
      have hs2 : Steady _ s₀ s2 := .of_snd heq (hs1.nextWrOf ..)
      exact hs2
    · rename_i x1 _ s3 heq1
      have hs3 : Steady _ s₀ s3 := .of_snd heq1 (hs1.nextWrOf ..)
      exact .ite (hs3.endUnstarted ..) (.ite hs3 (hs3.launchWr ..))

theorem execWrWrite_steady {F : List Touch} {s₀ s : State} (h : Steady F s₀ s) (q)
    (hF : Touch.within [.fresh, .out, .regs, .cnt, .mem, .movers, .tenants, .reqs, .convs, .tier, .rrc, .engines,
        .qps, .srch, .units, .digs, .pwr, .pcie, .far, .anyPage, .page .rstc, .page .pwr, .page .pcie, .page .tier,
        .page .move, .page .admt, .page .feng, .page .srch, .page .mon] F = true := by rfl) :
    SteadyNext F s₀ (execWrWrite q s) := by
  refine h.widenNext (fun s₀ h => ?_) hF
  unfold execWrWrite
  exact .next (h.startWr ..)

theorem execWrRead_steady {F : List Touch} {s₀ s : State} (h : Steady F s₀ s) (q)
    (hF : Touch.within [.fresh, .out, .regs, .cnt, .mem, .movers, .tenants, .reqs, .convs, .tier, .rrc, .engines,
        .qps, .srch, .units, .digs, .pwr, .pcie, .far, .anyPage, .page .rstc, .page .pwr, .page .pcie, .page .tier,
        .page .move, .page .admt, .page .feng, .page .srch, .page .mon] F = true := by rfl) :
    SteadyNext F s₀ (execWrRead q s) := by
  refine h.widenNext (fun s₀ h => ?_) hF
  unfold execWrRead
  exact .next (h.startWr ..)

theorem execWrSend_steady {F : List Touch} {s₀ s : State} (h : Steady F s₀ s) (q)
    (hF : Touch.within [.fresh, .out, .regs, .cnt, .mem, .movers, .tenants, .reqs, .convs, .tier, .rrc, .engines,
        .qps, .srch, .units, .digs, .pwr, .pcie, .far, .anyPage, .page .rstc, .page .pwr, .page .pcie, .page .tier,
        .page .move, .page .admt, .page .feng, .page .srch, .page .mon] F = true := by rfl) :
    SteadyNext F s₀ (execWrSend q s) := by
  refine h.widenNext (fun s₀ h => ?_) hF
  unfold execWrSend
  exact .next ((h.mail ..).startWr ..)

theorem execWrWriteTrigger_steady {F : List Touch} {s₀ s : State} (h : Steady F s₀ s) (q)
    (hF : Touch.within [.fresh, .out, .regs, .cnt, .mem, .movers, .tenants, .reqs, .convs, .tier, .rrc, .engines,
        .qps, .srch, .units, .digs, .pwr, .pcie, .far, .anyPage, .page .rstc, .page .pwr, .page .pcie, .page .tier,
        .page .move, .page .admt, .page .feng, .page .srch, .page .mon] F = true := by rfl) :
    SteadyNext F s₀ (execWrWriteTrigger q s) := by
  refine h.widenNext (fun s₀ h => ?_) hF
  unfold execWrWriteTrigger
  exact .next (h.startWr ..)

theorem execWrFlush_steady {F : List Touch} {s₀ s : State} (h : Steady F s₀ s) (q)
    (hF : Touch.within [.fresh, .out, .regs, .cnt, .mem, .movers, .tenants, .reqs, .convs, .tier, .rrc, .engines,
        .qps, .srch, .units, .digs, .pwr, .pcie, .far, .anyPage, .page .rstc, .page .pwr, .page .pcie, .page .tier,
        .page .move, .page .admt, .page .feng, .page .srch, .page .mon] F = true := by rfl) :
    SteadyNext F s₀ (execWrFlush q s) := by
  refine h.widenNext (fun s₀ h => ?_) hF
  unfold execWrFlush
  exact .next (h.startWr ..)

theorem execWrCancel_steady {F : List Touch} {s₀ s : State} (h : Steady F s₀ s) (q)
    (hF : Touch.within [.fresh, .out, .regs, .cnt, .mem, .movers, .tenants, .reqs, .convs, .tier, .rrc, .engines,
        .qps, .srch, .units, .digs, .pwr, .pcie, .far, .anyPage, .page .rstc, .page .pwr, .page .pcie, .page .tier,
        .page .move, .page .admt, .page .feng, .page .srch, .page .mon] F = true := by rfl) :
    SteadyNext F s₀ (execWrCancel q s) := by
  refine h.widenNext (fun s₀ h => ?_) hF
  unfold execWrCancel
  exact .next (h.startWr ..)

theorem execTrigTimerExpire_steady {F : List Touch} {s₀ s : State} (h : Steady F s₀ s) (q)
    (hF : Touch.within [.fresh, .out, .regs, .cnt, .mem, .movers, .tenants, .reqs, .convs, .tier, .rrc, .engines,
        .qps, .srch, .units, .digs, .pwr, .pcie, .far, .anyPage, .page .rstc, .page .pwr, .page .pcie, .page .tier,
        .page .move, .page .admt, .page .feng, .page .srch, .page .mon] F = true := by rfl) :
    SteadyNext F s₀ (execTrigTimerExpire q s) := by
  refine h.widenNext (fun s₀ h => ?_) hF
  unfold execTrigTimerExpire
  exact .next (h.startWr ..)

theorem Steady.register {F : List Touch} {s₀ s : State} (h : Steady F s₀ s) (q i w)
    (hF : Touch.within [.fresh, .out, .regs, .cnt, .mem, .movers, .tenants, .reqs, .convs, .tier, .rrc, .engines,
        .qps, .srch, .units, .digs, .pwr, .pcie, .far, .anyPage, .page .rstc, .page .pwr, .page .pcie, .page .tier,
        .page .move, .page .admt, .page .feng, .page .srch, .page .mon] F = true := by rfl) :
    Steady F s₀ (s.register q i w) := by
  refine h.widen (fun s₀ h => ?_) hF
  unfold State.register
  exact .ite (h.setEng ..) (h.endUnstarted ..)

theorem Steady.registerNext {F : List Touch} {s₀ s : State} (h : Steady F s₀ s) (q a)
    (hF : Touch.within [.fresh, .out, .regs, .cnt, .mem, .movers, .tenants, .reqs, .convs, .tier, .rrc, .engines,
        .qps, .srch, .units, .digs, .pwr, .pcie, .far, .anyPage, .page .rstc, .page .pwr, .page .pcie, .page .tier,
        .page .move, .page .admt, .page .feng, .page .srch, .page .mon] F = true := by rfl) :
    Steady F s₀ (s.registerNext q a).2 := by
  refine h.widen (fun s₀ h' => ?_) hF
  clear hF h
  rename' h' => h
  induction a generalizing s q
  case zero  =>
    unfold State.registerNext
    exact h
  case succ n ih =>
    unfold State.registerNext
    extract_lets
    split
    · exact h
    · split
      · rename_i x s1 heq
        have hs1 : Steady _ s₀ s1 := .of_snd heq (h.readWr ..)
        exact hs1
      · rename_i x1 _ s2 _ heq1
        have hs2 : Steady _ s₀ s2 := .of_snd heq1 (h.readWr ..)
        extract_lets _ s3
        have hs3 : Steady _ s₀ s3 := hs2.setQp ..
        split
        · exact .ite_snd (hs3.register ..) (ih (h := hs3) ..)
        · exact ih (h := hs3) ..

theorem Steady.registerAll {F : List Touch} {s₀ s : State} (h : Steady F s₀ s) (q a)
    (hF : Touch.within [.fresh, .out, .regs, .cnt, .mem, .movers, .tenants, .reqs, .convs, .tier, .rrc, .engines,
        .qps, .srch, .units, .digs, .pwr, .pcie, .far, .anyPage, .page .rstc, .page .pwr, .page .pcie, .page .tier,
        .page .move, .page .admt, .page .feng, .page .srch, .page .mon] F = true := by rfl) :
    Steady F s₀ (s.registerAll q a) := by
  refine h.widen (fun s₀ h' => ?_) hF
  clear hF h
  rename' h' => h
  induction a generalizing s q
  case zero  =>
    unfold State.registerAll
    exact h
  case succ n ih =>
    unfold State.registerAll
    split
    · rename_i x s1 heq
      have hs1 : Steady _ s₀ s1 := .of_snd heq (h.registerNext ..)
      exact ih (h := hs1) ..
    · rename_i x1 snd heq1
      have hsnd : Steady _ s₀ snd := .of_snd heq1 (h.registerNext ..)
      exact hsnd

theorem Steady.confirmPush {F : List Touch} {s₀ s : State} (h : Steady F s₀ s) (q)
    (hF : Touch.within [.movers] F = true := by rfl) :
    Steady F s₀ (s.confirmPush q) := by
  refine h.widen (fun s₀ h => ?_) hF
  unfold State.confirmPush
  extract_lets
  split
  · exact h
  · exact .ite (h.setCtx ..) h

theorem execHeldWrRegister_steady {F : List Touch} {s₀ s : State} (h : Steady F s₀ s) (q)
    (hF : Touch.within [.fresh, .out, .regs, .cnt, .mem, .movers, .tenants, .reqs, .convs, .tier, .rrc, .engines,
        .qps, .srch, .units, .digs, .pwr, .pcie, .far, .anyPage, .page .rstc, .page .pwr, .page .pcie, .page .tier,
        .page .move, .page .admt, .page .feng, .page .srch, .page .mon] F = true := by rfl) :
    SteadyNext F s₀ (execHeldWrRegister q s) := by
  refine h.widenNext (fun s₀ h => ?_) hF
  unfold execHeldWrRegister
  extract_lets t
  have ht : Steady _ s₀ t := h.registerNext ..
  exact .next (.ite (ht.confirmPush ..) ht)

theorem execTrigFire_steady {F : List Touch} {s₀ s : State} (h : Steady F s₀ s) (e tag)
    (hF : Touch.within [.cnt, .engines, .page .feng] F = true := by rfl) :
    SteadyNext F s₀ (execTrigFire e tag s) := by
  refine h.widenNext (fun s₀ h => ?_) hF
  unfold execTrigFire
  exact .next (h.ifReady (fun u hu => hu.trigEvent ..) ..)

theorem execHoldExpired_steady {F : List Touch} {s₀ s : State} (h : Steady F s₀ s) (q index)
    (hF : Touch.within [.fresh, .out, .regs, .cnt, .mem, .movers, .tenants, .reqs, .convs, .tier, .rrc, .engines,
        .qps, .srch, .units, .digs, .pwr, .pcie, .far, .anyPage, .page .rstc, .page .pwr, .page .pcie, .page .tier,
        .page .move, .page .admt, .page .feng, .page .srch, .page .mon] F = true := by rfl) :
    SteadyNext F s₀ (execHoldExpired q index s) := by
  refine h.widenNext (fun s₀ h => ?_) hF
  unfold execHoldExpired
  extract_lets _ _ _ s1
  have hs1 : Steady _ s₀ s1 := h.setEng ..
  refine .next ?_
  split
  · exact h
  · exact .ite (((hs1.count ..).irq ..).endUnstarted ..) h

theorem Steady.qpBusy {F : List Touch} {s₀ s : State} (h : Steady F s₀ s) (q)
    (hF : Touch.within [.regs, .cnt, .page .feng] F = true := by rfl) :
    Steady F s₀ (s.qpBusy q) := by
  refine h.widen (fun s₀ h => ?_) hF
  unfold State.qpBusy
  exact h.err ..

theorem Steady.postRecv {F : List Touch} {s₀ s : State} (h : Steady F s₀ s) (q addr)
    (hF : Touch.within [.out, .regs, .cnt, .mem, .movers, .tier, .qps, .digs, .pwr, .pcie, .page .pwr, .page .pcie,
        .page .tier, .page .move] F = true := by rfl) :
    Steady F s₀ (s.postRecv q addr) := by
  refine h.widen (fun s₀ h => ?_) hF
  unfold State.postRecv
  extract_lets _ s1
  have hs1 : Steady _ s₀ s1 := h.put ..
  exact .ite h (hs1.setQp ..)

theorem Steady.armControl {F : List Touch} {s₀ s : State} (h : Steady F s₀ s) (q)
    (hF : Touch.within [.out, .regs, .cnt, .mem, .movers, .tier, .qps, .digs, .pwr, .pcie, .page .pwr, .page .pcie,
        .page .tier, .page .move] F = true := by rfl) :
    Steady F s₀ (s.armControl q) := by
  refine h.widen (fun s₀ h => ?_) hF
  unfold State.armControl
  exact .ite ((h.setQp ..).each (fun u _ hu => hu.postRecv ..) ..) h

theorem Steady.armControls {F : List Touch} {s₀ s : State} (h : Steady F s₀ s) (p)
    (hF : Touch.within [.out, .regs, .cnt, .mem, .movers, .tier, .qps, .digs, .pwr, .pcie, .page .pwr, .page .pcie,
        .page .tier, .page .move] F = true := by rfl) :
    Steady F s₀ (s.armControls p) := by
  refine h.widen (fun s₀ h => ?_) hF
  unfold State.armControls
  exact h.each (fun u _ hu => hu.armControl ..) ..

theorem Steady.qpToInit {F : List Touch} {s₀ s : State} (h : Steady F s₀ s) (q)
    (hF : Touch.within [.regs, .cnt, .qps, .page .feng] F = true := by rfl) :
    Steady F s₀ (s.qpToInit q) := by
  refine h.widen (fun s₀ h => ?_) hF
  unfold State.qpToInit
  extract_lets
  split
  · exact .ite (h.setQp ..) (h.rsvEnc ..)
  · exact h
  · exact h.qpBusy ..

theorem Steady.qpToRts {F : List Touch} {s₀ s : State} (h : Steady F s₀ s) (q)
    (hF : Touch.within [.fresh, .out, .regs, .cnt, .mem, .movers, .tenants, .reqs, .convs, .tier, .rrc, .engines,
        .qps, .srch, .units, .digs, .pwr, .pcie, .far, .anyPage, .page .rstc, .page .pwr, .page .pcie, .page .tier,
        .page .move, .page .admt, .page .feng, .page .srch, .page .mon] F = true := by rfl) :
    Steady F s₀ (s.qpToRts q) := by
  refine h.widen (fun s₀ h => ?_) hF
  unfold State.qpToRts
  extract_lets _ s1
  have hs1 : Steady _ s₀ s1 := h.setQp ..
  split
  · exact ((hs1.armControl ..).registerAll ..).checkNext ..
  · exact h
  · exact h.qpBusy ..

theorem Steady.qpToReset {F : List Touch} {s₀ s : State} (h : Steady F s₀ s) (q)
    (hF : Touch.within [.regs, .cnt, .movers, .tier, .engines, .qps, .page .feng] F = true := by rfl) :
    Steady F s₀ (s.qpToReset q) := by
  refine h.widen (fun s₀ h => ?_) hF
  unfold State.qpToReset
  extract_lets
  split
  · exact h
  · exact h.qpReset ..
  · exact .ite (h.qpReset ..) (h.qpBusy ..)
  · exact h.qpBusy ..

theorem Steady.qpToError {F : List Touch} {s₀ s : State} (h : Steady F s₀ s) (q)
    (hF : Touch.within [.out, .regs, .cnt, .engines, .qps, .pcie, .page .pcie, .page .feng] F = true := by rfl) :
    Steady F s₀ (s.qpToError q) := by
  refine h.widen (fun s₀ h => ?_) hF
  unfold State.qpToError
  split
  · exact h.qpError ..
  · exact h
  · exact h.qpBusy ..

theorem Steady.qpStateWrite {F : List Touch} {s₀ s : State} (h : Steady F s₀ s) (q v)
    (hF : Touch.within [.fresh, .out, .regs, .cnt, .mem, .movers, .tenants, .reqs, .convs, .tier, .rrc, .engines,
        .qps, .srch, .units, .digs, .pwr, .pcie, .far, .anyPage, .page .rstc, .page .pwr, .page .pcie, .page .tier,
        .page .move, .page .admt, .page .feng, .page .srch, .page .mon] F = true := by rfl) :
    Steady F s₀ (s.qpStateWrite q v) := by
  refine h.widen (fun s₀ h => ?_) hF
  unfold State.qpStateWrite
  split
  · exact h.qpToReset ..
  · exact h.qpToInit ..
  · exact h.qpToRts ..
  · exact h.qpToError ..
  · exact h.rsvEnc ..

theorem execQpStateInit_steady {F : List Touch} {s₀ s : State} (h : Steady F s₀ s) (q)
    (hF : Touch.within [.regs, .cnt, .qps, .page .feng] F = true := by rfl) :
    SteadyNext F s₀ (execQpStateInit q s) := by
  refine h.widenNext (fun s₀ h => ?_) hF
  unfold execQpStateInit
  exact .next (h.ifReady (fun u hu => hu.qpToInit ..) ..)

theorem execQpStateRts_steady {F : List Touch} {s₀ s : State} (h : Steady F s₀ s) (q)
    (hF : Touch.within [.fresh, .out, .regs, .cnt, .mem, .movers, .tenants, .reqs, .convs, .tier, .rrc, .engines,
        .qps, .srch, .units, .digs, .pwr, .pcie, .far, .anyPage, .page .rstc, .page .pwr, .page .pcie, .page .tier,
        .page .move, .page .admt, .page .feng, .page .srch, .page .mon] F = true := by rfl) :
    SteadyNext F s₀ (execQpStateRts q s) := by
  refine h.widenNext (fun s₀ h => ?_) hF
  unfold execQpStateRts
  exact .next (h.ifReady (fun u hu => hu.qpToRts ..) ..)

theorem execQpStateReset_steady {F : List Touch} {s₀ s : State} (h : Steady F s₀ s) (q)
    (hF : Touch.within [.regs, .cnt, .movers, .tier, .engines, .qps, .page .feng] F = true := by rfl) :
    SteadyNext F s₀ (execQpStateReset q s) := by
  refine h.widenNext (fun s₀ h => ?_) hF
  unfold execQpStateReset
  exact .next (h.ifReady (fun u hu => hu.qpToReset ..) ..)

theorem execQpStateError_steady {F : List Touch} {s₀ s : State} (h : Steady F s₀ s) (q)
    (hF : Touch.within [.out, .regs, .cnt, .engines, .qps, .pcie, .page .pcie, .page .feng] F = true := by rfl) :
    SteadyNext F s₀ (execQpStateError q s) := by
  refine h.widenNext (fun s₀ h => ?_) hF
  unfold execQpStateError
  exact .next (h.ifReady (fun u hu => hu.qpToError ..) ..)

theorem Steady.qpsBack {F : List Touch} {s₀ s : State} (h : Steady F s₀ s) (p c)
    (hF : Touch.within [.movers, .tier, .engines, .qps] F = true := by rfl) :
    Steady F s₀ (s.qpsBack p c) := by
  refine h.widen (fun s₀ h => ?_) hF
  unfold State.qpsBack
  exact h.each (fun u _ hu => by
      extract_lets s1
      have hs1 : Steady _ s₀ s1 := hu.qpReset ..
      exact .ite (hs1.setQp ..) hu) ..

theorem Steady.returnQps {F : List Touch} {s₀ s : State} (h : Steady F s₀ s) (p)
    (hF : Touch.within [.fresh, .out, .regs, .cnt, .mem, .movers, .reqs, .tier, .engines, .qps, .digs, .pwr, .pcie,
        .page .pwr, .page .pcie, .page .tier, .page .move] F = true := by rfl) :
    Steady F s₀ (s.returnQps p) := by
  refine h.widen (fun s₀ h => ?_) hF
  unfold State.returnQps
  exact h.each (fun u _ hu => .ite (((hu.qpsBack ..).setCtx ..).qpsFreed ..) hu) ..

theorem Steady.flushWrs {F : List Touch} {s₀ s : State} (h : Steady F s₀ s) (q a)
    (hF : Touch.within [.fresh, .out, .regs, .cnt, .movers, .tier, .pwr, .pcie, .page .pwr, .page .pcie, .page
        .tier, .page .move] F = true := by rfl) :
    Steady F s₀ (s.flushWrs q a).2 := by
  refine h.widen (fun s₀ h' => ?_) hF
  clear hF h
  rename' h' => h
  induction a generalizing s q
  case nil  =>
    unfold State.flushWrs
    exact h
  case cons head tail ih =>
    unfold State.flushWrs
    extract_lets rest
    have hrest : ∀ x0 x1, Steady [.fresh, .out, .regs, .cnt, .movers, .tier, .pwr, .pcie, .page .pwr, .page .pcie,
        .page .tier, .page .move] s₀ x1 → Steady [.fresh, .out, .regs, .cnt, .movers, .tier, .pwr, .pcie, .page
        .pwr, .page .pcie, .page .tier, .page .move] s₀ (rest x0 x1).2 :=
      (fun _ u hu => by
        unfold rest
        split
        · rename_i x _ s1 heq
          have hs1 : Steady _ s₀ s1 := .of_snd heq (ih (h := hu) ..)
          exact hs1
        · rename_i x1 s2 heq1
          have hs2 : Steady _ s₀ s2 := .of_snd heq1 (ih (h := hu) ..)
          exact hs2)
    split
    · exact .ite_snd (ih (h := h) ..) (hrest _ _ h)
    · split
      · rename_i x2 _ s3 heq2
        have hs3 : Steady _ s₀ s3 := .of_snd heq2 (h.readWr ..)
        exact hrest _ _ hs3
      · rename_i x3 _ s4 heq3
        have hs4 : Steady _ s₀ s4 := .of_snd heq3 (h.readWr ..)
        exact hrest _ _ hs4.draw
      · rename_i x4 s5 heq4
        have hs5 : Steady _ s₀ s5 := .of_snd heq4 (h.readWr ..)
        exact hs5

theorem execQpErrorFlushDone_steady {F : List Touch} {s₀ s : State} (h : Steady F s₀ s) (q)
    (hF : Touch.within [.fresh, .out, .regs, .cnt, .mem, .movers, .tenants, .reqs, .convs, .tier, .rrc, .engines,
        .qps, .srch, .units, .digs, .pwr, .pcie, .far, .anyPage, .page .rstc, .page .pwr, .page .pcie, .page .tier,
        .page .move, .page .admt, .page .feng, .page .srch, .page .mon] F = true := by rfl) :
    SteadyNext F s₀ (execQpErrorFlushDone q s) := by
  refine h.widenNext (fun s₀ h => ?_) hF
  unfold execQpErrorFlushDone
  extract_lets
  refine .next ?_
  split
  · exact h
  · split
    · rename_i x s1 heq
      have hs1 : Steady _ s₀ s1 := .of_snd heq (h.flushWrs ..)
      exact hs1
    · rename_i x1 _ s2 heq1
      have hs2 : Steady _ s₀ s2 := .of_snd heq1 (h.flushWrs ..)
      extract_lets s3 s4 _ s5 s6
      have hs3 : Steady _ s₀ s3 := hs2.each (fun u _ hu => by
          extract_lets s7 s8
          have hs7 : Steady _ s₀ s7 := hu.cqe ..
          have hs8 : Steady _ s₀ s8 := (hs7.count ..).send ..
          exact .ite (hs8.moverDone ..) hs8) ..
      have hs4 : Steady _ s₀ s4 := hs3.each (fun u1 _ hu1 => .ite hu1 (hu1.cqe ..)) ..
      have hs5 : Steady _ s₀ s5 := hs4.setQp ..
      have hs6 : Steady _ s₀ s6 := (hs5.drainCq ..).disown ..
      exact (hs6.setQp ..).returnQps ..

theorem Steady.dbTail {F : List Touch} {s₀ s : State} (h : Steady F s₀ s) {f}
    (hf : ∀ x0, Steady F s₀ x0 → Steady F s₀ (f x0)) (q value)
    (hF : Touch.within [.regs, .cnt, .page .feng] F = true := by rfl) :
    Steady F s₀ (s.dbTail q value f) := by
  unfold State.dbTail
  exact h.ifReady (fun u hu => .ite (hu.rsvEnc (hF := Touch.within_trans rfl hF)
      (hP := Touch.pageIn_trans rfl hF) ..) (hf _ hu)) ..

theorem Steady.sqPost {F : List Touch} {s₀ s : State} (h : Steady F s₀ s) (q value)
    (hF : Touch.within [.fresh, .out, .regs, .cnt, .mem, .movers, .tenants, .reqs, .convs, .tier, .rrc, .engines,
        .qps, .srch, .units, .digs, .pwr, .pcie, .far, .anyPage, .page .rstc, .page .pwr, .page .pcie, .page .tier,
        .page .move, .page .admt, .page .feng, .page .srch, .page .mon] F = true := by rfl) :
    Steady F s₀ (s.sqPost q value) := by
  refine h.widen (fun s₀ h => ?_) hF
  unfold State.sqPost
  extract_lets _ s1
  have hs1 : Steady _ s₀ s1 := h.setQp ..
  exact (hs1.registerAll ..).checkNext ..

theorem Steady.rqPost {F : List Touch} {s₀ s : State} (h : Steady F s₀ s) (q value)
    (hF : Touch.within [.fresh, .out, .regs, .cnt, .mem, .movers, .tenants, .reqs, .convs, .tier, .rrc, .engines,
        .qps, .srch, .units, .digs, .pwr, .pcie, .far, .anyPage, .page .rstc, .page .pwr, .page .pcie, .page .tier,
        .page .move, .page .admt, .page .feng, .page .srch, .page .mon] F = true := by rfl) :
    Steady F s₀ (s.rqPost q value) := by
  refine h.widen (fun s₀ h => ?_) hF
  unfold State.rqPost
  exact (h.setQp ..).checkNext ..

theorem Steady.cqFree {F : List Touch} {s₀ s : State} (h : Steady F s₀ s) (q value)
    (hF : Touch.within [.fresh, .out, .regs, .cnt, .mem, .movers, .reqs, .tier, .engines, .qps, .digs, .pwr, .pcie,
        .page .pwr, .page .pcie, .page .tier, .page .move] F = true := by rfl) :
    Steady F s₀ (s.cqFree q value) := by
  refine h.widen (fun s₀ h => ?_) hF
  unfold State.cqFree
  extract_lets _ s1
  have hs1 : Steady _ s₀ s1 := (h.setQp ..).drainCq ..
  exact .ite ((hs1.setQp ..).returnQps ..) hs1

theorem execQpDbSqTail_steady {F : List Touch} {s₀ s : State} (h : Steady F s₀ s) (q value)
    (hF : Touch.within [.fresh, .out, .regs, .cnt, .mem, .movers, .tenants, .reqs, .convs, .tier, .rrc, .engines,
        .qps, .srch, .units, .digs, .pwr, .pcie, .far, .anyPage, .page .rstc, .page .pwr, .page .pcie, .page .tier,
        .page .move, .page .admt, .page .feng, .page .srch, .page .mon] F = true := by rfl) :
    SteadyNext F s₀ (execQpDbSqTail q value s) := by
  refine h.widenNext (fun s₀ h => ?_) hF
  unfold execQpDbSqTail
  exact .next (h.dbTail (fun u hu => hu.sqPost ..) ..)

theorem execQpDbRqTail_steady {F : List Touch} {s₀ s : State} (h : Steady F s₀ s) (q value)
    (hF : Touch.within [.fresh, .out, .regs, .cnt, .mem, .movers, .tenants, .reqs, .convs, .tier, .rrc, .engines,
        .qps, .srch, .units, .digs, .pwr, .pcie, .far, .anyPage, .page .rstc, .page .pwr, .page .pcie, .page .tier,
        .page .move, .page .admt, .page .feng, .page .srch, .page .mon] F = true := by rfl) :
    SteadyNext F s₀ (execQpDbRqTail q value s) := by
  refine h.widenNext (fun s₀ h => ?_) hF
  unfold execQpDbRqTail
  exact .next (h.dbTail (fun u hu => hu.rqPost ..) ..)

theorem execQpDbCqHead_steady {F : List Touch} {s₀ s : State} (h : Steady F s₀ s) (q value)
    (hF : Touch.within [.fresh, .out, .regs, .cnt, .mem, .movers, .reqs, .tier, .engines, .qps, .digs, .pwr, .pcie,
        .page .pwr, .page .pcie, .page .tier, .page .move] F = true := by rfl) :
    SteadyNext F s₀ (execQpDbCqHead q value s) := by
  refine h.widenNext (fun s₀ h => ?_) hF
  unfold execQpDbCqHead
  exact .next (h.ifReady (fun u hu => hu.cqFree ..) ..)

theorem Steady.qack {F : List Touch} {s₀ s : State} (h : Steady F s₀ s) (q)
    (hF : Touch.within [.out, .engines, .qps] F = true := by rfl) :
    Steady F s₀ (s.qack q) := by
  refine h.widen (fun s₀ h => ?_) hF
  unfold State.qack
  exact (h.setQp ..).qpRespond ..

theorem Steady.received {F : List Touch} {s₀ s : State} (h : Steady F s₀ s) (q psn)
    (hF : Touch.within [.qps] F = true := by rfl) :
    Steady F s₀ (s.received q psn) := by
  refine h.widen (fun s₀ h => ?_) hF
  unfold State.received
  exact h.setQp ..

theorem Steady.qpArrive {F : List Touch} {s₀ s : State} (h : Steady F s₀ s) {dup}
    (hdup : ∀ x0, Steady F s₀ x0 → Steady F s₀ (dup x0)) {fresh} (hfresh : ∀ x0, Steady F s₀ x0 → Steady F s₀
    (fresh x0)) (op r)
    (hF : Touch.within [.out, .cnt, .engines, .page .feng] F = true := by rfl) :
    Steady F s₀ (s.qpArrive op r dup fresh) := by
  unfold State.qpArrive
  extract_lets
  split
  · exact h.qnak (hF := Touch.within_trans rfl hF) ..
  · exact h.qnak (hF := Touch.within_trans rfl hF) ..
  · split
    · exact h.qnak (hF := Touch.within_trans rfl hF) ..
    · exact h.qnak (hF := Touch.within_trans rfl hF) ..
    · exact h.qnak (hF := Touch.within_trans rfl hF) ..
    · split
      · exact h.qnak (hF := Touch.within_trans rfl hF) ..
      · split
        · split
          · exact h.qnak (hF := Touch.within_trans rfl hF) ..
          · exact hfresh _ h
        · exact .ite (hdup _ h) (h.count (hF := Touch.within_trans rfl hF) (hP := Touch.pageIn_trans rfl hF) ..)

theorem Steady.dupPkt {F : List Touch} {s₀ s : State} (h : Steady F s₀ s) (q)
    (hF : Touch.within [.out, .cnt, .engines, .qps, .page .feng] F = true := by rfl) :
    Steady F s₀ (s.dupPkt q) := by
  refine h.widen (fun s₀ h => ?_) hF
  unfold State.dupPkt
  exact (h.count ..).qack ..

theorem Steady.dupAnswer {F : List Touch} {s₀ s : State} (h : Steady F s₀ s) (r op)
    (hF : Touch.within [.out, .cnt, .engines, .qps, .page .feng] F = true := by rfl) :
    Steady F s₀ (s.dupAnswer r op) := by
  refine h.widen (fun s₀ h => ?_) hF
  unfold State.dupAnswer
  extract_lets s1
  have hs1 : Steady _ s₀ s1 := h.dupPkt ..
  exact .ite hs1 (hs1.placeAnswer ..)

theorem Steady.commitFull {F : List Touch} {s₀ s : State} (h : Steady F s₀ s) (pages)
    (hF : Touch.within [.out, .regs, .cnt, .mem, .movers, .tier, .rrc, .engines, .qps, .srch, .units, .digs, .pwr,
        .pcie, .far, .page .rstc, .page .pwr, .page .pcie, .page .tier, .page .move, .page .feng, .page .srch,
        .page .mon] F = true := by rfl) :
    Steady F s₀ (s.commitFull pages) := by
  refine h.widen (fun s₀ h => ?_) hF
  unfold State.commitFull
  exact h.each (fun u _ hu => by
      split
      · exact .ite (hu.commitMig ..) hu
      · exact hu) ..

theorem Steady.qpDeliver {F : List Touch} {s₀ s : State} (h : Steady F s₀ s) {more}
    (hmore : ∀ x0, Steady F s₀ x0 → Steady F s₀ (more x0)) (r off replace)
    (hF : Touch.within [.out, .regs, .cnt, .mem, .movers, .tier, .rrc, .engines, .qps, .srch, .units, .digs, .pwr,
        .pcie, .far, .page .rstc, .page .pwr, .page .pcie, .page .tier, .page .move, .page .feng, .page .srch,
        .page .mon] F = true := by rfl) :
    Steady F s₀ (s.qpDeliver r off replace more) := by
  unfold State.qpDeliver
  extract_lets _ _ _ s1 _ s2 s3 s4
  have hs1 : Steady _ s₀ s1 := h.received (hF := Touch.within_trans rfl hF) ..
  have hs2 : Steady _ s₀ s2 := hs1.setQp (hF := Touch.within_trans rfl hF) ..
  have hs3 : Steady _ s₀ s3 := hmore _ hs2
  have hs4 : Steady _ s₀ s4 := hs3.each (fun u _ hu => hu.homePiece (hF := Touch.within_trans rfl hF) ..) ..
  split
  · exact (h.refuseWrite (hF := Touch.within_trans rfl hF) ..).qnak (hF := Touch.within_trans rfl hF) ..
  · exact (hs4.commitFull (hF := Touch.within_trans rfl hF) ..).answerPlaced (hF := Touch.within_trans rfl hF) ..

theorem Steady.wait {F : List Touch} {s₀ s : State} (h : Steady F s₀ s) (op r)
    (hF : Touch.within [.qps] F = true := by rfl) :
    Steady F s₀ (s.wait op r) := by
  refine h.widen (fun s₀ h => ?_) hF
  unfold State.wait
  exact h.setQp ..

theorem Steady.qpWrite {F : List Touch} {s₀ s : State} (h : Steady F s₀ s) (op r answers)
    (hF : Touch.within [.out, .regs, .cnt, .mem, .movers, .tier, .rrc, .engines, .qps, .srch, .units, .digs, .pwr,
        .pcie, .far, .page .rstc, .page .pwr, .page .pcie, .page .tier, .page .move, .page .feng, .page .srch,
        .page .mon] F = true := by rfl) :
    Steady F s₀ (s.qpWrite op r answers) := by
  refine h.widen (fun s₀ h => ?_) hF
  unfold State.qpWrite
  extract_lets more
  have hmore : ∀ x0, Steady [.out, .regs, .cnt, .mem, .movers, .tier, .rrc, .engines, .qps, .srch, .units, .digs,
      .pwr, .pcie, .far, .page .rstc, .page .pwr, .page .pcie, .page .tier, .page .move, .page .feng, .page .srch,
      .page .mon] s₀ x0 → Steady [.out, .regs, .cnt, .mem, .movers, .tier, .rrc, .engines, .qps, .srch, .units,
      .digs, .pwr, .pcie, .far, .page .rstc, .page .pwr, .page .pcie, .page .tier, .page .move, .page .feng, .page
      .srch, .page .mon] s₀ (more x0) :=
    (fun u hu => .ite (hu.wait ..) hu)
  exact h.qpArrive (fun u1 hu1 => .ite (hu1.dupAnswer ..) (hu1.dupPkt ..)) (fun u2 hu2 => by
      extract_lets s1 t
      have hs1 : Steady _ s₀ s1 := (hu2.received ..).count ..
      have ht : Steady _ s₀ t := hu2.qpDeliver (fun u3 hu3 => hmore _ hu3) ..
      split
      · exact (hmore _ hs1).answerPlaced ..
      · split
        · exact ht.tagRows ..
        · exact ht) ..

theorem execQwrite_steady {F : List Touch} {s₀ s : State} (h : Steady F s₀ s) (r)
    (hF : Touch.within [.out, .regs, .cnt, .mem, .movers, .tier, .rrc, .engines, .qps, .srch, .units, .digs, .pwr,
        .pcie, .far, .page .rstc, .page .pwr, .page .pcie, .page .tier, .page .move, .page .feng, .page .srch,
        .page .mon] F = true := by rfl) :
    SteadyNext F s₀ (execQwrite r s) := by
  refine h.widenNext (fun s₀ h => ?_) hF
  unfold execQwrite
  exact .next (h.qpWrite ..)

theorem execQwriteTrig_steady {F : List Touch} {s₀ s : State} (h : Steady F s₀ s) (r)
    (hF : Touch.within [.out, .regs, .cnt, .mem, .movers, .tier, .rrc, .engines, .qps, .srch, .units, .digs, .pwr,
        .pcie, .far, .page .rstc, .page .pwr, .page .pcie, .page .tier, .page .move, .page .feng, .page .srch,
        .page .mon] F = true := by rfl) :
    SteadyNext F s₀ (execQwriteTrig r s) := by
  refine h.widenNext (fun s₀ h => ?_) hF
  unfold execQwriteTrig
  exact .next (h.qpWrite ..)

theorem execQreadReq_steady {F : List Touch} {s₀ s : State} (h : Steady F s₀ s) (r)
    (hF : Touch.within [.out, .regs, .cnt, .movers, .tier, .engines, .qps, .pwr, .pcie, .page .pwr, .page .pcie,
        .page .tier, .page .move, .page .feng] F = true := by rfl) :
    SteadyNext F s₀ (execQreadReq r s) := by
  refine h.widenNext (fun s₀ h => ?_) hF
  unfold execQreadReq
  extract_lets _ accept
  have haccept : ∀ x0 x1, Steady [.out, .regs, .cnt, .movers, .tier, .engines, .qps, .pwr, .pcie, .page .pwr, .page
      .pcie, .page .tier, .page .move, .page .feng] s₀ x1 → Steady [.out, .regs, .cnt, .movers, .tier, .engines,
      .qps, .pwr, .pcie, .page .pwr, .page .pcie, .page .tier, .page .move, .page .feng] s₀ (accept x0 x1) :=
    (fun _ u hu => by
      unfold accept
      extract_lets s1
      have hs1 : Steady _ s₀ s1 := hu.each (fun u1 _ hu1 => hu1.note ..) ..
      split
      · exact (Steady.ite (hs1.count ..) (hs1.refuseWrite ..)).qnak ..
      · exact (Steady.ite (hs1.received ..) hs1).serveQread ..)
  exact .next (h.qpArrive (fun u2 hu2 => by
      split
      · exact hu2.qnak ..
      · exact haccept _ _ hu2) (fun u3 hu3 => haccept _ _ hu3) ..)

theorem Steady.qsend {F : List Touch} {s₀ s : State} (h : Steady F s₀ s) {message}
    (hmessage : ∀ x0 x1 x2, Steady F s₀ x0 → Steady F s₀ (message x0 x1 x2)) (r)
    (hF : Touch.within [.out, .regs, .cnt, .mem, .movers, .tier, .rrc, .engines, .qps, .srch, .units, .digs, .pwr,
        .pcie, .far, .page .rstc, .page .pwr, .page .pcie, .page .tier, .page .move, .page .feng, .page .srch,
        .page .mon] F = true := by rfl) :
    Steady F s₀ (s.qsend r message) := by
  unfold State.qsend
  extract_lets _ _ lenErr place
  have hlenErr : ∀ x0, Steady F s₀ x0 → Steady F s₀ (lenErr x0) :=
    (fun u hu => (hu.received (hF := Touch.within_trans rfl hF) ..).qnak (hF := Touch.within_trans rfl hF) ..)
  have hplace : ∀ x0 x1 x2 x3, Steady F s₀ x0 → Steady F s₀ (place x0 x1 x2 x3) :=
    (fun u1 _ _ _ hu1 => hu1.qpDeliver (fun u2 hu2 => by
      extract_lets _ _ _ _ s1
      have hs1 : Steady _ s₀ s1 := (hu2.setQp (hF := Touch.within_trans rfl hF) ..).cqe
          (hF := Touch.within_trans rfl hF) ..
      exact .ite (hu2.setQp (hF := Touch.within_trans rfl hF) ..) (.ite ((hmessage _ _ _ hs1).postRecv
          (hF := Touch.within_trans rfl hF) ..) hs1)) (hF := Touch.within_trans rfl hF) ..)
  exact h.qpArrive (fun u3 hu3 => .ite ((hu3.dupPkt (hF := Touch.within_trans rfl hF) ..).qnak
      (hF := Touch.within_trans rfl hF) ..) (hu3.dupPkt (hF := Touch.within_trans rfl hF) ..)) (fun u4 hu4 => by
      extract_lets
      split
      · exact hu4.qnak (hF := Touch.within_trans rfl hF) ..
      · split
        · exact hlenErr _ hu4
        · split
          · exact hplace _ _ _ _ hu4
          · split
            · exact hu4.qnak (hF := Touch.within_trans rfl hF) ..
            · split
              · rename_i x t heq
                have ht : Steady _ s₀ t := .of_snd heq (hu4.ownRead (hF := Touch.within_trans rfl hF) ..)
                extract_lets _ s2
                have hs2 : Steady _ s₀ s2 := hlenErr _ (ht.setQp (hF := Touch.within_trans rfl hF) ..)
                exact .ite (hs2.cqe (hF := Touch.within_trans rfl hF) ..) (hplace _ _ _ _ ht)
              · rename_i x1 t1 heq1
                have ht1 : Steady _ s₀ t1 := .of_snd heq1 (hu4.ownRead (hF := Touch.within_trans rfl hF) ..)
                exact ht1.qnak (hF := Touch.within_trans rfl hF) ..
              · rename_i x2 _ t2 _ _ heq2
                have ht2 : Steady _ s₀ t2 := .of_snd heq2 (hu4.ownRead (hF := Touch.within_trans rfl hF) ..)
                exact ht2.qnak (hF := Touch.within_trans rfl hF) ..) (hF := Touch.within_trans rfl hF) ..

theorem execQflush_steady {F : List Touch} {s₀ s : State} (h : Steady F s₀ s) (r)
    (hF : Touch.within [.out, .cnt, .engines, .qps, .page .feng] F = true := by rfl) :
    SteadyNext F s₀ (execQflush r s) := by
  refine h.widenNext (fun s₀ h => ?_) hF
  unfold execQflush
  exact .next (h.qpArrive (fun u hu => hu.dupAnswer ..) (fun u1 hu1 => (hu1.received ..).wait ..) ..)

theorem execQcancel_steady {F : List Touch} {s₀ s : State} (h : Steady F s₀ s) (r)
    (hF : Touch.within [.out, .cnt, .engines, .qps, .page .feng] F = true := by rfl) :
    SteadyNext F s₀ (execQcancel r s) := by
  refine h.widenNext (fun s₀ h => ?_) hF
  unfold execQcancel
  exact .next (h.qpArrive (fun u hu => hu.dupAnswer ..) (fun u1 hu1 => (hu1.received ..).wait ..) ..)

theorem Steady.dropWait {F : List Touch} {s₀ s : State} (h : Steady F s₀ s) (q w)
    (hF : Touch.within [.qps] F = true := by rfl) :
    Steady F s₀ (s.dropWait q w) := by
  refine h.widen (fun s₀ h => ?_) hF
  unfold State.dropWait
  exact h.setQp ..

theorem execWriteTriggerEffect_steady {F : List Touch} {s₀ s : State} (h : Steady F s₀ s) (q psn)
    (hF : Touch.within [.out, .regs, .cnt, .mem, .movers, .tier, .engines, .qps, .digs, .pwr, .pcie, .page .pwr,
        .page .pcie, .page .tier, .page .move, .page .feng] F = true := by rfl) :
    SteadyNext F s₀ (execWriteTriggerEffect q psn s) := by
  refine h.widenNext (fun s₀ h => ?_) hF
  unfold execWriteTriggerEffect
  extract_lets
  refine .next ?_
  split
  · exact h
  · extract_lets s1 s2 _ s3
    have hs1 : Steady _ s₀ s1 := h.cqe ..
    have hs2 : Steady _ s₀ s2 := hs1.trigEvent ..
    have hs3 : Steady _ s₀ s3 := hs2.setQp ..
    exact .ite (.ite (hs3.setMover ..) ((hs2.dropWait ..).placeAnswer ..)) h

theorem execQflushAnswer_steady {F : List Touch} {s₀ s : State} (h : Steady F s₀ s) (q psn)
    (hF : Touch.within [.out, .engines, .qps] F = true := by rfl) :
    SteadyNext F s₀ (execQflushAnswer q psn s) := by
  refine h.widenNext (fun s₀ h => ?_) hF
  unfold execQflushAnswer
  extract_lets
  refine .next ?_
  split
  · exact h
  · exact .ite ((h.dropWait ..).placeAnswer ..) h

theorem execCancelApply_steady {F : List Touch} {s₀ s : State} (h : Steady F s₀ s) (q psn)
    (hF : Touch.within [.out, .cnt, .mem, .movers, .tier, .engines, .qps, .page .move] F = true := by rfl) :
    SteadyNext F s₀ (execCancelApply q psn s) := by
  refine h.widenNext (fun s₀ h => ?_) hF
  unfold execCancelApply
  extract_lets
  refine .next ?_
  split
  · exact h
  · extract_lets s1 _ s2
    have hs1 : Steady [.out, .cnt, .mem, .movers, .tier, .engines, .qps, .page .move] s₀ s1 := by
      unfold s1
      split
      · exact h
      · extract_lets _ s3
        have hs3 : Steady _ s₀ s3 := .ite (h.count ..) h
        exact (hs3.keepRows ..).setCtx ..
    have hs2 : Steady _ s₀ s2 := (hs1.count ..).setQp ..
    exact .ite ((hs2.dropWait ..).placeAnswer ..) h

theorem Steady.ackPsns {F : List Touch} {s₀ s : State} (h : Steady F s₀ s) (q l)
    (hF : Touch.within [.qps] F = true := by rfl) :
    Steady F s₀ (s.ackPsns q l) := by
  refine h.widen (fun s₀ h => ?_) hF
  unfold State.ackPsns
  exact h.setQp ..

theorem Steady.sendOn {F : List Touch} {s₀ s : State} (h : Steady F s₀ s) (q)
    (hF : Touch.within [.fresh, .out, .regs, .cnt, .mem, .movers, .tenants, .reqs, .convs, .tier, .rrc, .engines,
        .qps, .srch, .units, .digs, .pwr, .pcie, .far, .anyPage, .page .rstc, .page .pwr, .page .pcie, .page .tier,
        .page .move, .page .admt, .page .feng, .page .srch, .page .mon] F = true := by rfl) :
    Steady F s₀ (s.sendOn q) := by
  refine h.widen (fun s₀ h => ?_) hF
  unfold State.sendOn
  exact ((h.retire ..).pump ..).checkNext ..

theorem execQack_steady {F : List Touch} {s₀ s : State} (h : Steady F s₀ s) (r)
    (hF : Touch.within [.fresh, .out, .regs, .cnt, .mem, .movers, .tenants, .reqs, .convs, .tier, .rrc, .engines,
        .qps, .srch, .units, .digs, .pwr, .pcie, .far, .anyPage, .page .rstc, .page .pwr, .page .pcie, .page .tier,
        .page .move, .page .admt, .page .feng, .page .srch, .page .mon] F = true := by rfl) :
    SteadyNext F s₀ (execQack r s) := by
  refine h.widenNext (fun s₀ h => ?_) hF
  unfold execQack
  exact .next (.ite h ((h.ackPsns ..).sendOn ..))

theorem execQreadResp_steady {F : List Touch} {s₀ s : State} (h : Steady F s₀ s) (r)
    (hF : Touch.within [.fresh, .out, .regs, .cnt, .mem, .movers, .tenants, .reqs, .convs, .tier, .rrc, .engines,
        .qps, .srch, .units, .digs, .pwr, .pcie, .far, .anyPage, .page .rstc, .page .pwr, .page .pcie, .page .tier,
        .page .move, .page .admt, .page .feng, .page .srch, .page .mon] F = true := by rfl) :
    SteadyNext F s₀ (execQreadResp r s) := by
  refine h.widenNext (fun s₀ h => ?_) hF
  unfold execQreadResp
  extract_lets
  refine .next ?_
  split
  · exact h
  · split
    · exact h
    · extract_lets s1
      have hs1 : Steady _ s₀ s1 := h.each (fun u _ hu => hu.tierWrite ..) ..
      exact .ite ((hs1.ackPsns ..).sendOn ..) h

theorem Steady.answer {F : List Touch} {s₀ s : State} (h : Steady F s₀ s) (r kind mine)
    (hF : Touch.within [.fresh, .out, .regs, .cnt, .mem, .movers, .tenants, .reqs, .convs, .tier, .rrc, .engines,
        .qps, .srch, .units, .digs, .pwr, .pcie, .far, .anyPage, .page .rstc, .page .pwr, .page .pcie, .page .tier,
        .page .move, .page .admt, .page .feng, .page .srch, .page .mon] F = true := by rfl) :
    Steady F s₀ (s.answer r kind mine) := by
  refine h.widen (fun s₀ h => ?_) hF
  unfold State.answer
  extract_lets
  split
  · exact h
  · split
    · exact h
    · extract_lets s1 s2 s3
      have hs1 : Steady _ s₀ s1 := h.journal ..
      have hs2 : Steady _ s₀ s2 := hs1.setQp ..
      have hs3 : Steady _ s₀ s3 := hs2.ackPsns ..
      exact .ite (hs3.sendOn ..) (hs3.wrFail ..)

theorem execQplaceAck_steady {F : List Touch} {s₀ s : State} (h : Steady F s₀ s) (r)
    (hF : Touch.within [.fresh, .out, .regs, .cnt, .mem, .movers, .tenants, .reqs, .convs, .tier, .rrc, .engines,
        .qps, .srch, .units, .digs, .pwr, .pcie, .far, .anyPage, .page .rstc, .page .pwr, .page .pcie, .page .tier,
        .page .move, .page .admt, .page .feng, .page .srch, .page .mon] F = true := by rfl) :
    SteadyNext F s₀ (execQplaceAck r s) := by
  refine h.widenNext (fun s₀ h => ?_) hF
  unfold execQplaceAck
  exact .next (h.answer ..)

theorem execQflushResp_steady {F : List Touch} {s₀ s : State} (h : Steady F s₀ s) (r)
    (hF : Touch.within [.fresh, .out, .regs, .cnt, .mem, .movers, .tenants, .reqs, .convs, .tier, .rrc, .engines,
        .qps, .srch, .units, .digs, .pwr, .pcie, .far, .anyPage, .page .rstc, .page .pwr, .page .pcie, .page .tier,
        .page .move, .page .admt, .page .feng, .page .srch, .page .mon] F = true := by rfl) :
    SteadyNext F s₀ (execQflushResp r s) := by
  refine h.widenNext (fun s₀ h => ?_) hF
  unfold execQflushResp
  exact .next (h.answer ..)

theorem execQnak_steady {F : List Touch} {s₀ s : State} (h : Steady F s₀ s) (r)
    (hF : Touch.within [.fresh, .out, .regs, .cnt, .mem, .movers, .tenants, .reqs, .convs, .tier, .rrc, .engines,
        .qps, .srch, .units, .digs, .pwr, .pcie, .far, .anyPage, .page .rstc, .page .pwr, .page .pcie, .page .tier,
        .page .move, .page .admt, .page .feng, .page .srch, .page .mon] F = true := by rfl) :
    SteadyNext F s₀ (execQnak r s) := by
  refine h.widenNext (fun s₀ h => ?_) hF
  unfold execQnak
  extract_lets _ _ _ s1 s2
  have hs1 : Steady _ s₀ s1 := h.count ..
  have hs2 : Steady _ s₀ s2 := h.ackPsns ..
  refine .next ?_
  split
  · exact h
  · split
    · exact h
    · extract_lets s3
      have hs3 : Steady _ s₀ s3 := .ite (h.journal ..) h
      exact .ite (hs1.setQp ..) (.ite ((Steady.ite hs2 (hs2.wrDone ..)).sendOn ..) (.ite h (hs3.wrFail ..)))

theorem execQackTimer_steady {F : List Touch} {s₀ s : State} (h : Steady F s₀ s) (q)
    (hF : Touch.within [.out, .engines, .qps] F = true := by rfl) :
    SteadyNext F s₀ (execQackTimer q s) := by
  refine h.widenNext (fun s₀ h => ?_) hF
  unfold execQackTimer
  exact .next (.ite (h.qack ..) h)

theorem Steady.resend {F : List Touch} {s₀ s : State} (h : Steady F s₀ s) (q psn round)
    (hF : Touch.within [.fresh, .out, .regs, .cnt, .mem, .movers, .tenants, .reqs, .convs, .tier, .rrc, .engines,
        .qps, .srch, .units, .digs, .pwr, .pcie, .far, .anyPage, .page .rstc, .page .pwr, .page .pcie, .page .tier,
        .page .move, .page .admt, .page .feng, .page .srch, .page .mon] F = true := by rfl) :
    Steady F s₀ (s.resend q psn round) := by
  refine h.widen (fun s₀ h => ?_) hF
  unfold State.resend
  split
  · exact h
  · split
    · rename_i x s1 heq
      have hs1 : Steady _ s₀ s1 := .of_snd heq (h.sendPacket ..)
      exact .ite (hs1.count ..) hs1
    · rename_i x1 _ s2 _ heq1
      have hs2 : Steady _ s₀ s2 := .of_snd heq1 (h.sendPacket ..)
      exact hs2

theorem execRetransmitTimeout_steady {F : List Touch} {s₀ s : State} (h : Steady F s₀ s) (q)
    (hF : Touch.within [.fresh, .out, .regs, .cnt, .mem, .movers, .tenants, .reqs, .convs, .tier, .rrc, .engines,
        .qps, .srch, .units, .digs, .pwr, .pcie, .far, .anyPage, .page .rstc, .page .pwr, .page .pcie, .page .tier,
        .page .move, .page .admt, .page .feng, .page .srch, .page .mon] F = true := by rfl) :
    SteadyNext F s₀ (execRetransmitTimeout q s) := by
  refine h.widenNext (fun s₀ h => ?_) hF
  unfold execRetransmitTimeout
  extract_lets
  refine .next ?_
  split
  · exact h
  · split
    · split
      · exact h.wrFail ..
      · exact h
    · exact (h.setQp ..).each (fun u4 _ hu4 => hu4.resend ..) ..

theorem execRnrRetryTimer_steady {F : List Touch} {s₀ s : State} (h : Steady F s₀ s) (q)
    (hF : Touch.within [.fresh, .out, .regs, .cnt, .mem, .movers, .tenants, .reqs, .convs, .tier, .rrc, .engines,
        .qps, .srch, .units, .digs, .pwr, .pcie, .far, .anyPage, .page .rstc, .page .pwr, .page .pcie, .page .tier,
        .page .move, .page .admt, .page .feng, .page .srch, .page .mon] F = true := by rfl) :
    SteadyNext F s₀ (execRnrRetryTimer q s) := by
  refine h.widenNext (fun s₀ h => ?_) hF
  unfold execRnrRetryTimer
  extract_lets _ _ s1
  have hs1 : Steady _ s₀ s1 := h.setQp ..
  refine .next ?_
  split
  · exact h
  · split
    · exact h
    · split
      · exact (h.setQp ..).wrFail ..
      · exact hs1.each (fun u _ hu => hu.resend ..) ..

theorem Steady.rgnCmd {F : List Touch} {s₀ s : State} (h : Steady F s₀ s) {f}
    (hf : ∀ x0, Steady F s₀ x0 → Steady F s₀ (f x0)) (p op index)
    (hF : Touch.within [.regs, .cnt, .engines, .anyPage] F = true := by rfl) :
    Steady F s₀ (s.rgnCmd p op index f) := by
  unfold State.rgnCmd
  extract_lets
  exact h.ifReady (fun u hu => by
      extract_lets s1
      have hs1 : Steady _ s₀ s1 := ((hu.setFld (hF := Touch.within_trans rfl hF)
          (hP := Touch.pageIn_trans rfl hF) ..).setFld (hF := Touch.within_trans rfl hF)
          (hP := Touch.pageIn_trans rfl hF) ..).setFld (hF := Touch.within_trans rfl hF)
          (hP := Touch.pageIn_trans rfl hF) ..
      exact .ite (hu.err (hF := Touch.within_trans rfl hF) (hP := Touch.pageIn_trans rfl hF) ..) (hf _ (hs1.setEng
          (hF := Touch.within_trans rfl hF) ..))) ..

theorem execRgnCmdWrite_steady {F : List Touch} {s₀ s : State} (h : Steady F s₀ s) (p index)
    (hF : Touch.within [.regs, .cnt, .engines, .regions, .anyPage] F = true := by rfl) :
    SteadyNext F s₀ (execRgnCmdWrite p index s) := by
  refine h.widenNext (fun s₀ h => ?_) hF
  unfold execRgnCmdWrite
  exact .next (h.rgnCmd (fun u hu => hu.setRgn ..) ..)

theorem execRgnCmdRead_steady {F : List Touch} {s₀ s : State} (h : Steady F s₀ s) (p index)
    (hF : Touch.within [.regs, .cnt, .engines, .anyPage] F = true := by rfl) :
    SteadyNext F s₀ (execRgnCmdRead p index s) := by
  refine h.widenNext (fun s₀ h => ?_) hF
  unfold execRgnCmdRead
  exact .next (h.rgnCmd (fun u hu => hu.setWords ..) ..)

theorem execRgnCmdRevoke_steady {F : List Touch} {s₀ s : State} (h : Steady F s₀ s) (p index)
    (hF : Touch.within [.regs, .cnt, .engines, .regions, .anyPage, .page .feng] F = true := by rfl) :
    SteadyNext F s₀ (execRgnCmdRevoke p index s) := by
  refine h.widenNext (fun s₀ h => ?_) hF
  unfold execRgnCmdRevoke
  exact .next (h.rgnCmd (fun u hu => .ite (hu.setRgn ..) (hu.err ..)) ..)

theorem execRgnCmdComplete_steady {F : List Touch} {s₀ s : State} (h : Steady F s₀ s) (p)
    (hF : Touch.within [.regs, .engines, .page .feng] F = true := by rfl) :
    SteadyNext F s₀ (execRgnCmdComplete p s) := by
  refine h.widenNext (fun s₀ h => ?_) hF
  unfold execRgnCmdComplete
  extract_lets
  refine .next ?_
  split
  · exact h
  · exact .ite h ((h.setEng ..).setFld ..)

end Sys2Proof.Machine
end


section
/-! PROOFS. What the operations of Closing.lean keep: transfers that end early, and the requests that end with them.
-/

namespace Sys2Proof.Machine
open Sys2Proof

theorem Steady.closeTx {F : List Touch} {s₀ s : State} (h : Steady F s₀ s) (p i code)
    (hF : Touch.within [.out, .regs, .cnt, .mem, .movers, .tier, .rrc, .engines, .qps, .srch, .units, .digs, .pwr,
        .pcie, .far, .page .rstc, .page .pwr, .page .pcie, .page .tier, .page .move, .page .feng, .page .srch,
        .page .mon] F = true := by rfl) :
    Steady F s₀ (s.closeTx p i code) := by
  refine h.widen (fun s₀ h => ?_) hF
  unfold State.closeTx
  extract_lets _ _ s1 s2 s3 s4
  have hs1 : Steady _ s₀ s1 := h.moverSend ..
  have hs2 : Steady _ s₀ s2 := .ite (hs1.qpsError ..) hs1
  have hs3 : Steady _ s₀ s3 := .ite (hs2.unpark ..) hs2
  have hs4 : Steady _ s₀ s4 := hs3.failCtx ..
  exact hs4.setCtx ..

theorem Steady.closeAll {F : List Touch} {s₀ s : State} (h : Steady F s₀ s) (reqId)
    (hF : Touch.within [.fresh, .out, .regs, .cnt, .mem, .movers, .tier, .rrc, .engines, .qps, .srch, .units,
        .digs, .pwr, .pcie, .far, .page .rstc, .page .pwr, .page .pcie, .page .tier, .page .move, .page .feng,
        .page .srch, .page .mon] F = true := by rfl) :
    Steady F s₀ (s.closeAll reqId) := by
  refine h.widen (fun s₀ h => ?_) hF
  unfold State.closeAll
  exact (h.each (fun u _ hu => hu.each (fun u1 _ hu1 => .ite (hu1.closeTx ..) hu1) ..) ..).draw

theorem Steady.abortReq {F : List Touch} {s₀ s : State} (h : Steady F s₀ s) (id status detail)
    (hF : Touch.within [.fresh, .out, .regs, .cnt, .mem, .movers, .tenants, .reqs, .convs, .tier, .rrc, .engines,
        .qps, .srch, .units, .digs, .pwr, .pcie, .far, .page .rstc, .page .pwr, .page .pcie, .page .tier, .page
        .move, .page .feng, .page .srch, .page .mon] F = true := by rfl) :
    Steady F s₀ (s.abortReq id status detail) := by
  refine h.widen (fun s₀ h => ?_) hF
  unfold State.abortReq
  split
  · exact h
  · exact .ite h ((h.closeAll ..).endReq ..)

end Sys2Proof.Machine
end


section
/-! PROOFS. What the operations of Digest.lean keep: weight digests: passes, exchanges, member states. -/

namespace Sys2Proof.Machine
open Sys2Proof

theorem Steady.setDig {F : List Touch} {s₀ s : State} (h : Steady F s₀ s) (k d)
    (hF : Touch.within [.digs] F = true := by rfl) :
    Steady F s₀ (s.setDig k d) := by
  refine h.widen (fun s₀ h => ?_) hF
  unfold State.setDig
  exact h.upd [.digs]

theorem Steady.expel {F : List Touch} {s₀ s : State} (h : Steady F s₀ s) (k other)
    (hF : Touch.within [.fresh, .out, .regs, .cnt, .mem, .movers, .tier, .digs, .elog, .qrm, .pwr, .pcie, .anyPage,
        .page .pwr, .page .pcie, .page .tier, .page .move, .page .dig, .page .elog] F = true := by rfl) :
    Steady F s₀ (s.expel k other) := by
  refine h.widen (fun s₀ h => ?_) hF
  unfold State.expel
  extract_lets s1 s2 _ s3
  have hs1 : Steady _ s₀ s1 := (h.setFldAt ..).err ..
  have hs2 : Steady _ s₀ s2 := hs1.irq ..
  have hs3 : Steady _ s₀ s3 := hs2.record ..
  exact hs3.takeCauses ..

theorem Steady.digMinority {F : List Touch} {s₀ s : State} (h : Steady F s₀ s) (k maj)
    (hF : Touch.within [.digs] F = true := by rfl) :
    Steady F s₀ (s.digMinority k maj) := by
  refine h.widen (fun s₀ h => ?_) hF
  unfold State.digMinority
  exact h.setDig ..

theorem Steady.digCompare {F : List Touch} {s₀ s : State} (h : Steady F s₀ s) (k)
    (hF : Touch.within [.fresh, .out, .regs, .cnt, .mem, .movers, .tier, .digs, .elog, .qrm, .pwr, .pcie, .anyPage,
        .page .pwr, .page .pcie, .page .tier, .page .move, .page .dig, .page .elog] F = true := by rfl) :
    Steady F s₀ (s.digCompare k) := by
  refine h.widen (fun s₀ h => ?_) hF
  unfold State.digCompare
  extract_lets _ _ s1
  have hs1 : Steady _ s₀ s1 := h.count ..
  split
  · exact h
  · extract_lets
    split
    · exact h
    · split
      · split
        · exact ((hs1.count ..).err ..).irq ..
        · exact .ite (hs1.digMinority ..) (.ite (hs1.expel ..) hs1)
      · exact .ite (.ite (hs1.expel ..) (hs1.setFldAt ..)) hs1

theorem Steady.digSend {F : List Touch} {s₀ s : State} (h : Steady F s₀ s) (k node)
    (hF : Touch.within [.out, .qrm] F = true := by rfl) :
    Steady F s₀ (s.digSend k node) := by
  refine h.widen (fun s₀ h => ?_) hF
  unfold State.digSend
  exact h.qseq.send ..

theorem Steady.digStep {F : List Touch} {s₀ s : State} (h : Steady F s₀ s) (p)
    (hF : Touch.within [.fresh, .out, .regs, .cnt, .mem, .movers, .tier, .digs, .elog, .qrm, .pwr, .pcie, .anyPage,
        .page .pwr, .page .pcie, .page .tier, .page .move, .page .dig, .page .elog] F = true := by rfl) :
    Steady F s₀ (s.digStep p) := by
  refine h.widen (fun s₀ h => ?_) hF
  unfold State.digStep
  exact .ite (h.each (fun u _ hu => by
      extract_lets _ s1 s2
      have hs1 : Steady _ s₀ s1 := (hu.setDig ..).count ..
      have hs2 : Steady _ s₀ s2 := hs1.each (fun u1 _ hu1 => hu1.digSend ..) ..
      exact .ite (.ite (hu.setDig ..) (hs2.digCompare ..)) hu) ..) h

theorem execDigest_steady {F : List Touch} {s₀ s : State} (h : Steady F s₀ s) (k m)
    (hF : Touch.within [.fresh, .out, .regs, .cnt, .mem, .movers, .tier, .digs, .elog, .qrm, .pwr, .pcie, .anyPage,
        .page .pwr, .page .pcie, .page .tier, .page .move, .page .dig, .page .elog] F = true := by rfl) :
    SteadyNext F s₀ (execDigest k m s) := by
  refine h.widenNext (fun s₀ h => ?_) hF
  unfold execDigest
  extract_lets
  exact .next (h.ifReady (fun u hu => by
      extract_lets
      exact .ite (hu.once (fun u1 hu1 => by
      extract_lets _ _ _ s1 s2 s3
      have hs1 : Steady _ s₀ s1 := hu1.setDig ..
      have hs2 : Steady [.fresh, .out, .regs, .cnt, .mem, .movers, .tier, .digs, .elog, .qrm, .pwr, .pcie,
          .anyPage, .page .pwr, .page .pcie, .page .tier, .page .move, .page .dig, .page .elog] s₀ s2 := by
        unfold s2
        split
        · split
          · exact hs1.quorumSend ..
          · exact hs1
        · exact hs1
      have hs3 : Steady _ s₀ s3 := .ite (hs2.expel ..) hs2
      exact hs3.digCompare ..) ..) hu) ..)

theorem execDigestPassDone_steady {F : List Touch} {s₀ s : State} (h : Steady F s₀ s) (k)
    (hF : Touch.within [.out, .regs, .cnt, .digs, .pcie, .anyPage, .page .pcie, .page .dig] F = true := by rfl) :
    SteadyNext F s₀ (execDigestPassDone k s) := by
  refine h.widenNext (fun s₀ h => ?_) hF
  unfold execDigestPassDone
  extract_lets
  exact .next (h.ifReady (fun u hu => by
      extract_lets s1 s2 s3
      have hs1 : Steady _ s₀ s1 := hu.setDig ..
      have hs2 : Steady _ s₀ s2 := (hs1.setFldAt ..).count ..
      have hs3 : Steady _ s₀ s3 := hs2.setFldAt ..
      exact .ite (.ite (hs1.count ..) (.ite (.ite hs3 (.ite (((hs3.setFldAt ..).count ..).irq ..)
          (hs3.count ..))) hs3)) hu) ..)

theorem execDigRegionWrite_steady {F : List Touch} {s₀ s : State} (h : Steady F s₀ s) (k w v)
    (hF : Touch.within [.regs, .cnt, .digs, .anyPage] F = true := by rfl) :
    SteadyNext F s₀ (execDigRegionWrite k w v s) := by
  refine h.widenNext (fun s₀ h => ?_) hF
  unfold execDigRegionWrite
  extract_lets
  exact .next (h.ifReady (fun u hu => by
      extract_lets _ s1 s2 s3 _ s4
      have hs1 : Steady _ s₀ s1 := hu.swWrite ..
      have hs2 : Steady _ s₀ s2 := hs1.swWrite ..
      have hs3 : Steady _ s₀ s3 := hs2.swWrite ..
      have hs4 : Steady _ s₀ s4 := .ite (hs3.setDig ..) hs3
      split
      · exact .ite (hs4.setFldAt ..) hs4
      · exact hu.swWrite ..
      · exact hu.swWrite ..
      · exact hu.swWrite ..
      · exact hu.swWrite ..
      · exact hu.swWrite ..
      · exact .ite (hu.setWord ..) hu) ..)

end Sys2Proof.Machine
end


section
/-! PROOFS. What the operations of DispOps.lean keep: the Dispatcher's operations: request slots, priorities, events,
step ends, failed tasks. -/

namespace Sys2Proof.Machine
open Sys2Proof

theorem Steady.dropUnsent {F : List Touch} {s₀ s : State} (h : Steady F s₀ s) (p k)
    (hF : Touch.within [.cnt, .parts, .page .disp] F = true := by rfl) :
    Steady F s₀ (s.dropUnsent p k) := by
  refine h.widen (fun s₀ h => ?_) hF
  unfold State.dropUnsent
  exact (h.setPart ..).count ..

theorem Steady.unmerge {F : List Touch} {s₀ s : State} (h : Steady F s₀ s) (t i)
    (hF : Touch.within [.parts] F = true := by rfl) :
    Steady F s₀ (s.unmerge t i) := by
  refine h.widen (fun s₀ h => ?_) hF
  unfold State.unmerge
  exact h.setPart ..

theorem Steady.clearTile {F : List Touch} {s₀ s : State} (h : Steady F s₀ s) (t)
    (hF : Touch.within [.tiles, .parts, .tier] F = true := by rfl) :
    Steady F s₀ (s.clearTile t) := by
  refine h.widen (fun s₀ h => ?_) hF
  unfold State.clearTile
  extract_lets s1
  have hs1 : Steady _ s₀ s1 := h.each (fun u _ hu => ((hu.disown ..).disown ..).unmerge ..) ..
  exact hs1.setTile ..

theorem Steady.slotFault {F : List Touch} {s₀ s : State} (h : Steady F s₀ s) (p k)
    (hF : Touch.within [.cnt, .parts, .page .disp] F = true := by rfl) :
    Steady F s₀ (s.slotFault p k) := by
  refine h.widen (fun s₀ h => ?_) hF
  unfold State.slotFault
  exact (h.setRs ..).dropUnsent ..

theorem Steady.slotLost {F : List Touch} {s₀ s : State} (h : Steady F s₀ s) (p slot poisoned)
    (hF : Touch.within [.fresh, .out, .regs, .cnt, .mem, .movers, .tenants, .reqs, .convs, .tier, .rrc, .engines,
        .qps, .srch, .units, .digs, .qrm, .pwr, .pcie, .far, .page .rstc, .page .pwr, .page .pcie, .page .tier,
        .page .move, .page .feng, .page .srch, .page .mon] F = true := by rfl) :
    Steady F s₀ (s.slotLost p slot poisoned) := by
  refine h.widen (fun s₀ h => ?_) hF
  unfold State.slotLost
  exact .ite (h.takeCause ..) (h.each (fun u _ hu => hu.abortReq ..) ..)

theorem Steady.taskFailed {F : List Touch} {s₀ s : State} (h : Steady F s₀ s) (t slot taskId code poisoned)
    (hF : Touch.within (.flatten [[.fresh, .out, .regs, .cnt, .mem, .parts, .movers, .tenants, .reqs, .convs,
        .tier, .rrc, .engines, .qps, .srch, .units, .digs, .qrm, .pwr, .pcie], [.far, .page .rstc, .page .pwr,
        .page .pcie, .page .tier, .page .disp, .page .move, .page .feng, .page .srch, .page .mon]]) F = true := by
        rfl) :
    Steady F s₀ (s.taskFailed t slot taskId code poisoned) := by
  refine h.widen (fun s₀ h => ?_) hF
  unfold State.taskFailed
  extract_lets _ s1 s2 s3 s4
  have hs1 : Steady _ s₀ s1 := (h.send ..).slotFault ..
  have hs2 : Steady _ s₀ s2 := hs1.setFld ..
  have hs3 : Steady _ s₀ s3 := hs2.setFld ..
  have hs4 : Steady _ s₀ s4 := .ite hs1 ((hs3.setFld ..).setFld ..)
  exact ((hs4.err ..).irq ..).slotLost ..

theorem Steady.foldStep {F : List Touch} {s₀ s : State} (h : Steady F s₀ s) (p k d)
    (hF : Touch.within [.parts] F = true := by rfl) :
    Steady F s₀ (s.foldStep p k d) := by
  refine h.widen (fun s₀ h => ?_) hF
  unfold State.foldStep
  exact .ite (h.setRs ..) h

theorem Steady.boostDown {F : List Touch} {s₀ s : State} (h : Steady F s₀ s) (p k)
    (hF : Touch.within [.parts] F = true := by rfl) :
    Steady F s₀ (s.boostDown p k) := by
  refine h.widen (fun s₀ h => ?_) hF
  unfold State.boostDown
  exact .ite h (.ite (h.setRs ..) (h.setRs ..))

theorem Steady.slowdown {F : List Touch} {s₀ s : State} (h : Steady F s₀ s) (p k d)
    (hF : Touch.within [.out, .regs, .cnt, .parts, .units, .pcie, .anyPage, .page .pcie, .page .mon] F = true := by
        rfl) :
    Steady F s₀ (s.slowdown p k d) := by
  refine h.widen (fun s₀ h => ?_) hF
  unfold State.slowdown
  extract_lets _ _ _ _ _ _ _ _ s1
  have hs1 : Steady _ s₀ s1 := h.setPart ..
  exact .ite h ((hs1.setFldAt ..).sample ..)

theorem Steady.endStep {F : List Touch} {s₀ s : State} (h : Steady F s₀ s) (p value)
    (hF : Touch.within [.fresh, .out, .regs, .cnt, .mem, .parts, .movers, .tier, .units, .digs, .elog, .qrm, .pwr,
        .pcie, .anyPage, .page .pwr, .page .pcie, .page .tier, .page .move, .page .dig, .page .elog, .page .mon] F
        = true := by rfl) :
    Steady F s₀ (s.endStep p value) := by
  refine h.widen (fun s₀ h => ?_) hF
  unfold State.endStep
  split
  · exact h.digStep ..
  · extract_lets _ s1 s2 _ s3 s4 s5
    have hs1 : Steady _ s₀ s1 := h.setRs ..
    have hs2 : Steady _ s₀ s2 := hs1.sample ..
    have hs3 : Steady _ s₀ s3 := hs2.each (fun u _ hu => (hu.setRs ..).foldStep ..) ..
    have hs4 : Steady _ s₀ s4 := hs3.slowdown ..
    have hs5 : Steady _ s₀ s5 := hs4.each (fun u1 _ hu1 => hu1.boostDown ..) ..
    exact (hs5.setPart ..).digStep ..

theorem Steady.endLayer {F : List Touch} {s₀ s : State} (h : Steady F s₀ s) (p value)
    (hF : Touch.within [.cnt, .movers, .engines, .page .feng] F = true := by rfl) :
    Steady F s₀ (s.endLayer p value) := by
  refine h.widen (fun s₀ h => ?_) hF
  unfold State.endLayer
  extract_lets _ _ _ s1
  have hs1 : Steady _ s₀ s1 := h.each (fun u _ hu => hu.setCtx ..) ..
  exact .ite h (.ite (hs1.trigEvent ..) hs1)

theorem Steady.raiseEvent {F : List Touch} {s₀ s : State} (h : Steady F s₀ s) (p step value)
    (hF : Touch.within [.fresh, .out, .regs, .cnt, .mem, .parts, .movers, .tier, .engines, .units, .digs, .elog,
        .qrm, .pwr, .pcie, .anyPage, .page .pwr, .page .pcie, .page .tier, .page .move, .page .feng, .page .dig,
        .page .elog, .page .mon] F = true := by rfl) :
    Steady F s₀ (s.raiseEvent p step value) := by
  refine h.widen (fun s₀ h => ?_) hF
  unfold State.raiseEvent
  extract_lets s1
  have hs1 : Steady _ s₀ s1 := (h.send ..).trigEvent ..
  exact .ite (hs1.endStep ..) (hs1.endLayer ..)

theorem Steady.reportEvent {F : List Touch} {s₀ s : State} (h : Steady F s₀ s) (p tile step value)
    (hF : Touch.within [.fresh, .out, .regs, .cnt, .mem, .parts, .movers, .tier, .engines, .units, .digs, .elog,
        .qrm, .pwr, .pcie, .anyPage, .page .pwr, .page .pcie, .page .tier, .page .move, .page .feng, .page .dig,
        .page .elog, .page .mon] F = true := by rfl) :
    Steady F s₀ (s.reportEvent p tile step value).2 := by
  refine h.widen (fun s₀ h => ?_) hF
  unfold State.reportEvent
  extract_lets _ _ _ put old
  have hput : ∀ x0 x1, Steady [.fresh, .out, .regs, .cnt, .mem, .parts, .movers, .tier, .engines, .units, .digs,
      .elog, .qrm, .pwr, .pcie, .anyPage, .page .pwr, .page .pcie, .page .tier, .page .move, .page .feng, .page
      .dig, .page .elog, .page .mon] s₀ x0 → Steady [.fresh, .out, .regs, .cnt, .mem, .parts, .movers, .tier,
      .engines, .units, .digs, .elog, .qrm, .pwr, .pcie, .anyPage, .page .pwr, .page .pcie, .page .tier, .page
      .move, .page .feng, .page .dig, .page .elog, .page .mon] s₀ (put x0 x1) :=
    (fun u _ hu => hu.setPart ..)
  exact .ite_snd h (.ite_snd h (.ite_snd ((hput _ _ h).raiseEvent ..) (hput _ _ h)))

end Sys2Proof.Machine
end


section
/-! PROOFS. What the operations of Disp.lean keep: the Dispatcher: launches, descriptors, request slots, energy. -/

namespace Sys2Proof.Machine
open Sys2Proof

theorem Steady.releaseRing {F : List Touch} {s₀ s : State} (h : Steady F s₀ s) (p a)
    (hF : Touch.within [.regs, .parts, .page .disp] F = true := by rfl) :
    Steady F s₀ (s.releaseRing p a) := by
  refine h.widen (fun s₀ h' => ?_) hF
  clear hF h
  rename' h' => h
  induction a generalizing s p
  case zero  =>
    unfold State.releaseRing
    exact h
  case succ n ih =>
    unfold State.releaseRing
    extract_lets _ _ s1
    have hs1 : Steady _ s₀ s1 := h.setPart ..
    exact .ite (ih (h := hs1.setFld ..) ..) h

theorem Steady.launchDone {F : List Touch} {s₀ s : State} (h : Steady F s₀ s) (p pos)
    (hF : Touch.within [.regs, .parts, .page .disp] F = true := by rfl) :
    Steady F s₀ (s.launchDone p pos) := by
  refine h.widen (fun s₀ h => ?_) hF
  unfold State.launchDone
  exact (h.setPart ..).releaseRing ..

theorem Steady.launchTake {F : List Touch} {s₀ s : State} (h : Steady F s₀ s) (p pos)
    (hF : Touch.within [.out, .regs, .cnt, .movers, .tier, .pwr, .pcie, .page .pwr, .page .pcie, .page .tier, .page
        .move] F = true := by rfl) :
    Steady F s₀ (s.launchTake p pos) := by
  refine h.widen (fun s₀ h => ?_) hF
  unfold State.launchTake
  exact h.ownRead ..

theorem Steady.launchDrop {F : List Touch} {s₀ s : State} (h : Steady F s₀ s) (p pos)
    (hF : Touch.within [.out, .regs, .cnt, .parts, .movers, .tier, .pwr, .pcie, .page .pwr, .page .pcie, .page
        .tier, .page .disp, .page .move] F = true := by rfl) :
    Steady F s₀ (s.launchDrop p pos) := by
  refine h.widen (fun s₀ h => ?_) hF
  unfold State.launchDrop
  exact (((h.launchTake ..).err ..).count ..).launchDone ..

theorem Steady.window {F : List Touch} {s₀ s : State} (h : Steady F s₀ s) (p a)
    (hF : Touch.within [.out, .regs, .cnt, .parts, .movers, .tier, .pwr, .pcie, .page .pwr, .page .pcie, .page
        .tier, .page .disp, .page .move] F = true := by rfl) :
    Steady F s₀ (s.window p a).2 := by
  refine h.widen (fun s₀ h' => ?_) hF
  clear hF h
  rename' h' => h
  induction a generalizing s p
  case zero  =>
    unfold State.window
    exact h
  case succ n ih =>
    unfold State.window
    split
    · exact h
    · exact ih (h := h.launchDrop ..) ..

theorem Steady.pullWindow {F : List Touch} {s₀ s : State} (h : Steady F s₀ s) (p)
    (hF : Touch.within [.out, .regs, .cnt, .movers, .tier, .pwr, .pcie, .page .pwr, .page .pcie, .page .tier, .page
        .move] F = true := by rfl) :
    Steady F s₀ (s.pullWindow p) := by
  refine h.widen (fun s₀ h => ?_) hF
  unfold State.pullWindow
  exact h.each (fun u _ hu => .ite (hu.holdOwn ..) hu) ..

theorem Steady.fsyncStat {F : List Touch} {s₀ s : State} (h : Steady F s₀ s) (p hold edge)
    (hF : Touch.within [.regs, .page .disp] F = true := by rfl) :
    Steady F s₀ (s.fsyncStat p hold edge) := by
  refine h.widen (fun s₀ h => ?_) hF
  unfold State.fsyncStat
  exact (h.setFld ..).setFld ..

theorem Steady.fsyncCount {F : List Touch} {s₀ s : State} (h : Steady F s₀ s) (p)
    (hF : Touch.within [.out, .regs, .cnt, .parts, .pcie, .anyPage, .page .pcie, .page .disp] F = true := by rfl) :
    Steady F s₀ (s.fsyncCount p) := by
  refine h.widen (fun s₀ h => ?_) hF
  unfold State.fsyncCount
  extract_lets _ _ _ _ s1
  have hs1 : Steady _ s₀ s1 := (h.setPart ..).fsyncStat ..
  split
  · exact (h.setPart ..).countAt ..
  · exact .ite ((hs1.count ..).irq ..) hs1

theorem Steady.boostAt {F : List Touch} {s₀ s : State} (h : Steady F s₀ s) (p k)
    (hF : Touch.within [.regs, .cnt, .parts, .anyPage, .page .disp] F = true := by rfl) :
    Steady F s₀ (s.boostAt p k) := by
  refine h.widen (fun s₀ h => ?_) hF
  unfold State.boostAt
  extract_lets _ _ _ s1
  have hs1 : Steady _ s₀ s1 := h.setRs ..
  exact .ite h (.ite (h.count ..) (.ite (h.setRs ..) ((hs1.count ..).setFldAt ..)))

theorem Steady.checkpoint {F : List Touch} {s₀ s : State} (h : Steady F s₀ s) (p k r prog n)
    (hF : Touch.within [.out, .regs, .cnt, .mem, .movers, .tier, .digs, .pwr, .pcie, .page .pwr, .page .pcie, .page
        .tier, .page .move] F = true := by rfl) :
    Steady F s₀ (s.checkpoint p k r prog n) := by
  refine h.widen (fun s₀ h => ?_) hF
  unfold State.checkpoint
  exact h.put ..

theorem Steady.stepStart {F : List Touch} {s₀ s : State} (h : Steady F s₀ s) (p pos r l)
    (hF : Touch.within [.out, .regs, .cnt, .mem, .parts, .movers, .tier, .digs, .pwr, .pcie, .anyPage, .page .pwr,
        .page .pcie, .page .tier, .page .disp, .page .move] F = true := by rfl) :
    Steady F s₀ (s.stepStart p pos r l) := by
  refine h.widen (fun s₀ h => ?_) hF
  unfold State.stepStart
  extract_lets _ s1 _ _ s2 _ s3
  have hs1 : Steady _ s₀ s1 := .ite (h.fsyncCount ..) h
  have hs2 : Steady _ s₀ s2 := .ite (hs1.each (fun u _ hu => hu.checkpoint ..) ..) hs1
  have hs3 : Steady _ s₀ s3 := hs2.setRs ..
  exact hs3.each (fun u1 _ hu1 => hu1.boostAt ..) ..

theorem Steady.launchStart {F : List Touch} {s₀ s : State} (h : Steady F s₀ s) (p pos r l)
    (hF : Touch.within [.out, .regs, .cnt, .mem, .parts, .movers, .tier, .digs, .pwr, .pcie, .anyPage, .page .pwr,
        .page .pcie, .page .tier, .page .disp, .page .move] F = true := by rfl) :
    Steady F s₀ (s.launchStart p pos r l) := by
  refine h.widen (fun s₀ h => ?_) hF
  unfold State.launchStart
  extract_lets s1 s2 _ s3
  have hs1 : Steady _ s₀ s1 := h.launchTake ..
  have hs2 : Steady _ s₀ s2 := .ite (hs1.stepStart ..) hs1
  have hs3 : Steady _ s₀ s3 := hs2.setPart ..
  exact (hs3.count ..).launchDone ..

theorem Steady.fsyncBegin {F : List Touch} {s₀ s : State} (h : Steady F s₀ s) (p l)
    (hF : Touch.within [.regs, .parts, .page .disp] F = true := by rfl) :
    Steady F s₀ (s.fsyncBegin p l) := by
  refine h.widen (fun s₀ h => ?_) hF
  unfold State.fsyncBegin
  extract_lets
  split
  · exact h
  · split
    · exact h
    · exact (h.setPart ..).fsyncStat ..

theorem Steady.launchSelect {F : List Touch} {s₀ s : State} (h : Steady F s₀ s) (p)
    (hF : Touch.within [.out, .regs, .cnt, .mem, .parts, .movers, .tier, .digs, .pwr, .pcie, .anyPage, .page .pwr,
        .page .pcie, .page .tier, .page .disp, .page .move] F = true := by rfl) :
    Steady F s₀ (s.launchSelect p) := by
  refine h.widen (fun s₀ h => ?_) hF
  unfold State.launchSelect
  extract_lets w s1 _ _ s2
  have hw : Steady _ s₀ w.2 := (h.pullWindow ..).window ..
  have hs1 : Steady _ s₀ s1 := hw
  have hs2 : Steady [.out, .regs, .cnt, .mem, .parts, .movers, .tier, .digs, .pwr, .pcie, .anyPage, .page .pwr,
      .page .pcie, .page .tier, .page .disp, .page .move] s₀ s2 := by
    unfold s2
    split
    · exact .ite (hs1.fsyncBegin ..) hs1
    · exact hs1
  split
  · exact hs1
  · split
    · exact hs1.wakeUnit ..
    · split
      · exact hs2
      · exact hs2.launchStart ..

theorem execLaunchSelect_steady {F : List Touch} {s₀ s : State} (h : Steady F s₀ s) (p)
    (hF : Touch.within [.out, .regs, .cnt, .mem, .parts, .movers, .tier, .digs, .pwr, .pcie, .anyPage, .page .pwr,
        .page .pcie, .page .tier, .page .disp, .page .move] F = true := by rfl) :
    SteadyNext F s₀ (execLaunchSelect p s) := by
  refine h.widenNext (fun s₀ h => ?_) hF
  unfold execLaunchSelect
  exact .next (h.ifReady (fun u hu => hu.launchSelect ..) ..)

theorem execFsyncHoldExpire_steady {F : List Touch} {s₀ s : State} (h : Steady F s₀ s) (p)
    (hF : Touch.within [.out, .regs, .cnt, .mem, .parts, .movers, .tier, .digs, .pwr, .pcie, .anyPage, .page .pwr,
        .page .pcie, .page .tier, .page .disp, .page .move] F = true := by rfl) :
    SteadyNext F s₀ (execFsyncHoldExpire p s) := by
  refine h.widenNext (fun s₀ h => ?_) hF
  unfold execFsyncHoldExpire
  exact .next (h.ifReady (fun u hu => by
      split
      · exact .ite (hu.launchSelect ..) hu
      · exact hu) ..)

theorem Steady.launchCut {F : List Touch} {s₀ s : State} (h : Steady F s₀ s) (p l poisoned)
    (hF : Touch.within (.flatten [[.fresh, .out, .regs, .cnt, .mem, .parts, .movers, .tenants, .reqs, .convs,
        .tier, .rrc, .engines, .qps, .srch, .units, .digs, .qrm, .pwr, .pcie], [.far, .page .rstc, .page .pwr,
        .page .pcie, .page .tier, .page .disp, .page .move, .page .feng, .page .srch, .page .mon]]) F = true := by
        rfl) :
    Steady F s₀ (s.launchCut p l poisoned) := by
  refine h.widen (fun s₀ h => ?_) hF
  unfold State.launchCut
  extract_lets s1
  have hs1 : Steady _ s₀ s1 := (h.err ..).irq ..
  exact (hs1.slotFault ..).slotLost ..

theorem Steady.storeDesc {F : List Touch} {s₀ s : State} (h : Steady F s₀ s) (p l d)
    (hF : Touch.within [.parts] F = true := by rfl) :
    Steady F s₀ (s.storeDesc p l d) := by
  refine h.widen (fun s₀ h => ?_) hF
  unfold State.storeDesc
  exact .ite h (h.setPart ..)

theorem execLaunchDescRead_steady {F : List Touch} {s₀ s : State} (h : Steady F s₀ s) (p k o)
    (hF : Touch.within (.flatten [[.fresh, .out, .regs, .cnt, .mem, .parts, .movers, .tenants, .reqs, .convs,
        .tier, .rrc, .engines, .qps, .srch, .units, .digs, .qrm, .pwr, .pcie], [.far, .page .rstc, .page .pwr,
        .page .pcie, .page .tier, .page .disp, .page .move, .page .feng, .page .srch, .page .mon]]) F = true := by
        rfl) :
    SteadyNext F s₀ (execLaunchDescRead p k o s) := by
  refine h.widenNext (fun s₀ h => ?_) hF
  unfold execLaunchDescRead
  exact .next (h.ifReady (fun u hu => by
      split
      · exact hu
      · extract_lets
        split
        · exact hu.fetch (fun u1 hu1 => hu1.launchCut ..) (fun _ u2 hu2 => hu2.storeDesc ..) ..
        · exact hu.launchCut ..
        · exact hu.launchCut ..) ..)

theorem execDispSend_steady {F : List Touch} {s₀ s : State} (h : Steady F s₀ s) (p tile)
    (hF : Touch.within [.out, .cnt, .tiles, .parts, .page .disp, .page .tile] F = true := by rfl) :
    SteadyNext F s₀ (execDispSend p tile s) := by
  refine h.widenNext (fun s₀ h => ?_) hF
  unfold execDispSend
  extract_lets
  exact .next (h.ifReady (fun u hu => by
      extract_lets
      split
      · exact hu
      · split
        · exact hu
        · extract_lets
          split
          · exact hu.count ..
          · split
            · exact hu
            · extract_lets s1 _ s2
              have hs1 : Steady _ s₀ s1 := hu.setPart ..
              have hs2 : Steady _ s₀ s2 := hs1.setTile ..
              exact (hs2.count ..).send ..) ..)

theorem execDispLringTailWrite_steady {F : List Touch} {s₀ s : State} (h : Steady F s₀ s) (p tail)
    (hF : Touch.within [.regs, .page .disp] F = true := by rfl) :
    SteadyNext F s₀ (execDispLringTailWrite p tail s) := by
  refine h.widenNext (fun s₀ h => ?_) hF
  unfold execDispLringTailWrite
  exact .next (h.ifReady (fun u hu => hu.setFld ..) ..)

theorem Steady.loadStage {F : List Touch} {s₀ s : State} (h : Steady F s₀ s) (p k)
    (hF : Touch.within [.parts] F = true := by rfl) :
    Steady F s₀ (s.loadStage p k) := by
  refine h.widen (fun s₀ h => ?_) hF
  unfold State.loadStage
  exact h.setPart ..

theorem execRsSelWrite_steady {F : List Touch} {s₀ s : State} (h : Steady F s₀ s) (p index)
    (hF : Touch.within [.regs, .parts, .page .disp] F = true := by rfl) :
    SteadyNext F s₀ (execRsSelWrite p index s) := by
  refine h.widenNext (fun s₀ h => ?_) hF
  unfold execRsSelWrite
  exact .next (h.ifReady (fun u hu => (hu.setFld ..).loadStage ..) ..)

theorem execRsDataStage_steady {F : List Touch} {s₀ s : State} (h : Steady F s₀ s) (p k v)
    (hF : Touch.within [.parts] F = true := by rfl) :
    SteadyNext F s₀ (execRsDataStage p k v s) := by
  refine h.widenNext (fun s₀ h => ?_) hF
  unfold execRsDataStage
  exact .next (h.ifReady (fun u hu => .ite hu (hu.setPart ..)) ..)

theorem execRsCommit_steady {F : List Touch} {s₀ s : State} (h : Steady F s₀ s) (p v)
    (hF : Touch.within [.cnt, .parts, .page .disp] F = true := by rfl) :
    SteadyNext F s₀ (execRsCommit p v s) := by
  refine h.widenNext (fun s₀ h => ?_) hF
  unfold execRsCommit
  exact .next (h.ifReady (fun u hu => by
      extract_lets _ _ _ _ s1 s2 _ s3
      have hs1 : Steady _ s₀ s1 := hu.setRs ..
      have hs2 : Steady _ s₀ s2 := .ite (hs1.dropUnsent ..) hs1
      have hs3 : Steady _ s₀ s3 := .ite (hs2.setPart ..) hs2
      exact hs3.loadStage ..) ..)

theorem execPfLeftWrite_steady {F : List Touch} {s₀ s : State} (h : Steady F s₀ s) (p us)
    (hF : Touch.within [.parts] F = true := by rfl) :
    SteadyNext F s₀ (execPfLeftWrite p us s) := by
  refine h.widenNext (fun s₀ h => ?_) hF
  unfold execPfLeftWrite
  exact .next (h.ifReady (fun u hu => hu.setRs ..) ..)

theorem execDispFailClear_steady {F : List Touch} {s₀ s : State} (h : Steady F s₀ s) (p)
    (hF : Touch.within [.regs, .page .disp] F = true := by rfl) :
    SteadyNext F s₀ (execDispFailClear p s) := by
  refine h.widenNext (fun s₀ h => ?_) hF
  unfold execDispFailClear
  exact .next (h.ifReady (fun u hu => hu.setFld ..) ..)

theorem execEnergyRefillTick_steady {F : List Touch} {s₀ s : State} (h : Steady F s₀ s) (p)
    (hF : Touch.within [.regs, .parts, .page .disp] F = true := by rfl) :
    SteadyNext F s₀ (execEnergyRefillTick p s) := by
  refine h.widenNext (fun s₀ h => ?_) hF
  unfold execEnergyRefillTick
  exact .next (h.ifReady (fun u hu => .ite ((hu.setPart ..).setFld ..) ((hu.setPart ..).setFld ..)) ..)

theorem execEnergyGrant_steady {F : List Touch} {s₀ s : State} (h : Steady F s₀ s) (p)
    (hF : Touch.within [.regs, .cnt, .tiles, .parts, .page .disp] F = true := by rfl) :
    SteadyNext F s₀ (execEnergyGrant p s) := by
  refine h.widenNext (fun s₀ h => ?_) hF
  unfold execEnergyGrant
  exact .next (h.ifReady (fun u hu => by
      extract_lets _ _ _ _ _ s1 s2
      have hs1 : Steady _ s₀ s1 := hu.setTile ..
      have hs2 : Steady _ s₀ s2 := (hs1.setPart ..).setFld ..
      exact .ite (hs2.count ..) hs2) ..)

end Sys2Proof.Machine
end


section
/-! PROOFS. What the operations of Codec.lean keep: the split-plane codec: block format, decoder and encoder. -/

namespace Sys2Proof.Machine
open Sys2Proof

theorem Steady.countBlocks {F : List Touch} {s₀ s : State} (h : Steady F s₀ s) (l)
    (hF : Touch.within [.cnt, .page .codec] F = true := by rfl) :
    Steady F s₀ (s.countBlocks l) := by
  refine h.widen (fun s₀ h => ?_) hF
  unfold State.countBlocks
  extract_lets _ s1
  have hs1 : Steady _ s₀ s1 := (h.count ..).count ..
  exact (hs1.count ..).count ..

theorem Steady.badBlock {F : List Touch} {s₀ s : State} (h : Steady F s₀ s) (t source space addr reason)
    (hF : Touch.within [.regs, .cnt, .page .codec] F = true := by rfl) :
    Steady F s₀ (s.badBlock t source space addr reason) := by
  refine h.widen (fun s₀ h => ?_) hF
  unfold State.badBlock
  extract_lets s1 s2 s3 s4
  have hs1 : Steady _ s₀ s1 := (h.err ..).count ..
  have hs2 : Steady _ s₀ s2 := (hs1.setFld ..).setFld ..
  have hs3 : Steady _ s₀ s3 := (hs2.setFld ..).setFld ..
  have hs4 : Steady _ s₀ s4 := (hs3.setFld ..).setFld ..
  exact .ite hs1 (hs4.setFld ..)

theorem execCodecErrInfoClear_steady {F : List Touch} {s₀ s : State} (h : Steady F s₀ s)
    (hF : Touch.within [.regs, .page .codec] F = true := by rfl) :
    SteadyNext F s₀ (execCodecErrInfoClear s) := by
  refine h.widenNext (fun s₀ h => ?_) hF
  unfold execCodecErrInfoClear
  exact .next (h.ifReady (fun u hu => hu.setFld ..) ..)

end Sys2Proof.Machine
end


section
/-! PROOFS. What the operations of Operands.lean keep: task descriptors and their operands: fields, address spaces,
arrival checks, reading and writing of tensors. -/

namespace Sys2Proof.Machine
open Sys2Proof

theorem Steady.putSram {F : List Touch} {s₀ s : State} (h : Steady F s₀ s) (u off b)
    (hF : Touch.within [.sram, .sramBad] F = true := by rfl) :
    SteadyOk F s₀ (s.putSram u off b) := by
  refine h.widenOk (fun s₀ h => ?_) hF
  unfold State.putSram
  extract_lets
  split
  · exact .error
  · split
    · exact .error
    · split
      · exact .ok (h.wrSram ..)
      · split
        · exact .error
        · exact .ok ((h.wrSram ..).of_stores [.sramBad] (bad := fun hb => Map.clear_wf _ hb ..))

/-! The writes of a unit of the device, page by page. -/

theorem Steady.puttingPage {F : List Touch} {s₀ : State} {a : Putting} (h : Steady F s₀ a.2) (d side off b)
    (hF : Touch.within [.out, .regs, .cnt, .mem, .movers, .tier, .digs, .pwr, .pcie, .page .pwr, .page .pcie, .page
        .tier, .page .move] F = true := by rfl) :
    SteadyVia Prod.snd F s₀ (a.page d side off b) := by
  refine h.widenVia (fun s₀ h => ?_) hF
  unfold Putting.page
  extract_lets p s
  have hs : Steady _ s₀ s := .ite h (h.note ..)
  split
  · exact .error (hs.noteRefusal ..)
  · exact .ok (.ite (hs.applyWrite ..) (hs.serveHeldWrite ..))

theorem Steady.puttingBytes {F : List Touch} {s₀ : State} {a : Putting} (h : Steady F s₀ a.2) (d at_ b)
    (hF : Touch.within [.out, .regs, .cnt, .mem, .sram, .sramBad, .movers, .tier, .digs, .pwr, .pcie, .page .pwr,
        .page .pcie, .page .tier, .page .move] F = true := by rfl) :
    SteadyVia Prod.snd F s₀ (a.bytes d at_ b) := by
  refine h.widenVia (fun s₀ h => ?_) hF
  unfold Putting.bytes
  extract_lets
  split
  · exact .ok h
  · split
    · split
      · rename_i s heq
        exact .ok ((h.putSram ..).of_eq heq)
      · exact .error h
    · split
      · exact .error h
      · exact .foldlM h fun a p ha => Steady.puttingPage ha ..

theorem Steady.putAll {F : List Touch} {s₀ s : State} (h : Steady F s₀ s) (d ws)
    (hF : Touch.within [.out, .regs, .cnt, .mem, .sram, .sramBad, .movers, .tier, .digs, .pwr, .pcie, .page .pwr,
        .page .pcie, .page .tier, .page .move] F = true := by rfl) :
    SteadyEx F s₀ (s.putAll d ws) := by
  refine h.widenEx (fun s₀ h => ?_) hF
  have hall : SteadyVia Prod.snd _ s₀ (ws.foldlM (fun (a : Putting) w => a.bytes d w.1 w.2) ([], s)) :=
    .foldlM h fun a w ha => Steady.puttingBytes ha ..
  unfold State.putAll
  split
  · rename_i a heq
    exact .ok (hall.ok_of_eq heq)
  · rename_i e heq
    exact .error (hall.error_of_eq heq)

theorem Steady.takeSide {F : List Touch} {s₀ s : State} (h : Steady F s₀ s) (page)
    (hF : Touch.within [.tier] F = true := by rfl) :
    SteadyOpt F s₀ (s.takeSide page) := by
  refine h.widenOpt (fun s₀ h => ?_) hF
  unfold State.takeSide
  extract_lets
  split
  · exact .ite (.some h) (.map (fun _  => by
      extract_lets s1
      have hs1 : Steady _ s₀ s1 := (h.useSide ..).setLeaf ..
      exact hs1.setTier ..))
  · exact .some h

theorem Steady.putSide {F : List Touch} {s₀ s : State} (h : Steady F s₀ s) (page at_ b)
    (hF : Touch.within [.tier] F = true := by rfl) :
    Steady F s₀ (s.putSide page at_ b) := by
  refine h.widen (fun s₀ h => ?_) hF
  unfold State.putSide
  exact h.setTier ..

theorem Steady.puttingKvColumn {F : List Touch} {s₀ : State} {a : Putting} (h : Steady F s₀ a.2)
    (d tok row sat fresh at_ xs)
    (hF : Touch.within [.out, .regs, .cnt, .mem, .sram, .sramBad, .movers, .tier, .digs, .pwr, .pcie, .page .pwr,
        .page .pcie, .page .tier, .page .move] F = true := by rfl) :
    SteadyVia Prod.snd F s₀ (a.kvColumn d tok row sat fresh at_ xs) := by
  refine h.widenVia (fun s₀ h => ?_) hF
  unfold Putting.kvColumn
  extract_lets
  split
  · exact Steady.puttingBytes h ..
  · split
    · rename_i heq
      exact .error ((Steady.puttingPage h ..).error_of_eq heq)
    · rename_i b heq
      have hb : Steady _ s₀ b.2 := (Steady.puttingPage h ..).ok_of_eq heq
      extract_lets s1 s2
      have hs1 : Steady [.out, .regs, .cnt, .mem, .sram, .sramBad, .movers, .tier, .digs, .pwr, .pcie, .page .pwr,
          .page .pcie, .page .tier, .page .move] s₀ s1 := by
        unfold s1
        cases ht : b.2.takeSide _ with
        | none => exact hb
        | some t => exact (hb.takeSide _).of_eq ht
      exact .ok (.ite ((hs1.putSide ..).putSide ..) (hs1.putSide ..))

theorem Steady.puttingKvRow {F : List Touch} {s₀ : State} {a : Putting} (h : Steady F s₀ a.2)
    (d tok row sat at_ xs tag)
    (hF : Touch.within [.out, .regs, .cnt, .mem, .sram, .sramBad, .movers, .tier, .digs, .pwr, .pcie, .page .pwr,
        .page .pcie, .page .tier, .page .move] F = true := by rfl) :
    SteadyVia Prod.snd F s₀ (a.kvRow d tok row sat at_ xs tag) := by
  refine h.widenVia (fun s₀ h => ?_) hF
  unfold Putting.kvRow
  extract_lets s0 fresh cols
  have hall : SteadyVia Prod.snd _ s₀
      (cols.foldlM (fun (a : Putting) c => a.kvColumn d tok row sat fresh (at_ + 64 * c.2) c.1) a) :=
    .foldlM h fun a c ha => Steady.puttingKvColumn ha ..
  split
  · rename_i heq
    exact .error (hall.error_of_eq heq)
  · rename_i b heq
    have hb : Steady _ s₀ b.2 := hall.ok_of_eq heq
    split
    · split
      · exact .ok (hb.putSide ..)
      · exact .ok hb
    · exact .ok hb

theorem Steady.setAcc {F : List Touch} {s₀ s : State} (h : Steady F s₀ s) (state t a n v)
    (hF : Touch.within [.tiles, .tier] F = true := by rfl) :
    Steady F s₀ (s.setAcc state t a n v) := by
  refine h.widen (fun s₀ h => ?_) hF
  unfold State.setAcc
  exact .ite (h.setTier ..) (h.setTile ..)

theorem Steady.copyAcc {F : List Touch} {s₀ s : State} (h : Steady F s₀ s) (fromState u src toState v dst n)
    (hF : Touch.within [.tiles, .tier] F = true := by rfl) :
    Steady F s₀ (s.copyAcc fromState u src toState v dst n) := by
  refine h.widen (fun s₀ h => ?_) hF
  unfold State.copyAcc
  exact h.each (fun u1 _ hu1 => .ite hu1 (hu1.setAcc ..)) ..

end Sys2Proof.Machine
end


section
/-! PROOFS. What the operations of Tile.lean keep: the tile: scoreboard, tags, MATRIX, VECTOR and DMA tasks, task
errors, programs. -/

namespace Sys2Proof.Machine
open Sys2Proof

theorem Steady.setBufTag {F : List Touch} {s₀ s : State} (h : Steady F s₀ s) (t k v)
    (hF : Touch.within [.tiles] F = true := by rfl) :
    Steady F s₀ (s.setBufTag t k v) := by
  refine h.widen (fun s₀ h => ?_) hF
  unfold State.setBufTag
  exact h.setTile ..

theorem Steady.promote {F : List Touch} {s₀ s : State} (h : Steady F s₀ s) (t)
    (hF : Touch.within [.tiles] F = true := by rfl) :
    Steady F s₀ (s.promote t) := by
  refine h.widen (fun s₀ h => ?_) hF
  unfold State.promote
  exact h.setTile ..

theorem Steady.releaseTags {F : List Touch} {s₀ s : State} (h : Steady F s₀ s) (t d)
    (hF : Touch.within [.tiles] F = true := by rfl) :
    Steady F s₀ (s.releaseTags t d) := by
  refine h.widen (fun s₀ h => ?_) hF
  unfold State.releaseTags
  exact h.each (fun u _ hu => .ite (hu.setBufTag ..) (hu.setBufTag ..)) ..

theorem Steady.completeTags {F : List Touch} {s₀ s : State} (h : Steady F s₀ s) (t d)
    (hF : Touch.within [.tiles] F = true := by rfl) :
    Steady F s₀ (s.completeTags t d) := by
  refine h.widen (fun s₀ h => ?_) hF
  unfold State.completeTags
  extract_lets s1
  have hs1 : Steady _ s₀ s1 := h.releaseTags ..
  exact .ite (hs1.setBufTag ..) hs1

theorem Steady.taskEnd {F : List Touch} {s₀ s : State} (h : Steady F s₀ s) (t i)
    (hF : Touch.within [.out, .cnt, .tiles, .tier, .page .tile] F = true := by rfl) :
    Steady F s₀ (s.taskEnd t i) := by
  refine h.widen (fun s₀ h => ?_) hF
  unfold State.taskEnd
  extract_lets _ s1
  have hs1 : Steady _ s₀ s1 := h.disown ..
  exact ((((hs1.completeTags ..).setSlot ..).count ..).send ..).promote ..

theorem Steady.finish {F : List Touch} {s₀ s : State} (h : Steady F s₀ s) (t i)
    (hF : Touch.within [.fresh, .out, .regs, .cnt, .mem, .tiles, .parts, .movers, .tier, .engines, .units, .digs,
        .elog, .qrm, .pwr, .pcie, .anyPage, .page .pwr, .page .pcie, .page .tier, .page .disp, .page .move, .page
        .tile, .page .feng, .page .dig, .page .elog, .page .mon] F = true := by rfl) :
    Steady F s₀ (s.finish t i) := by
  refine h.widen (fun s₀ h => ?_) hF
  unfold State.finish
  extract_lets _ _ r
  have hr : Steady _ s₀ r.2 := h.reportEvent ..
  exact .ite (h.taskEnd ..) (.ite (hr.taskEnd ..) (.ite h ((h.setSlot ..).count ..)))

theorem Steady.taskDrop {F : List Touch} {s₀ s : State} (h : Steady F s₀ s) (t i code poisoned)
    (hF : Touch.within (.flatten [[.fresh, .out, .regs, .cnt, .mem, .tiles, .parts, .movers, .tenants, .reqs,
        .convs, .tier, .rrc, .engines, .qps, .srch, .units, .digs, .qrm, .pwr], [.pcie, .far, .page .rstc, .page
        .pwr, .page .pcie, .page .tier, .page .disp, .page .move, .page .tile, .page .feng, .page .srch, .page
        .mon]]) F = true := by rfl) :
    Steady F s₀ (s.taskDrop t i code poisoned) := by
  refine h.widen (fun s₀ h => ?_) hF
  unfold State.taskDrop
  extract_lets _ s1 s2
  have hs1 : Steady _ s₀ s1 := (((h.disown ..).unmerge ..).err ..).irq ..
  have hs2 : Steady _ s₀ s2 := ((hs1.releaseTags ..).setSlot ..).promote ..
  exact hs2.taskFailed ..

theorem Steady.mergeFail {F : List Touch} {s₀ s : State} (h : Steady F s₀ s) (p m code)
    (hF : Touch.within (.flatten [[.fresh, .out, .regs, .cnt, .mem, .tiles, .parts, .movers, .tenants, .reqs,
        .convs, .tier, .rrc, .engines, .qps, .srch, .units, .digs, .qrm, .pwr], [.pcie, .far, .page .rstc, .page
        .pwr, .page .pcie, .page .tier, .page .disp, .page .move, .page .tile, .page .feng, .page .srch, .page
        .mon]]) F = true := by rfl) :
    Steady F s₀ (s.mergeFail p m code) := by
  refine h.widen (fun s₀ h => ?_) hF
  unfold State.mergeFail
  extract_lets _ _ s1
  have hs1 : Steady _ s₀ s1 := h.setPart ..
  exact hs1.each (fun u _ hu => .ite (hu.taskDrop ..) hu) ..

theorem Steady.mergeTaskFail {F : List Touch} {s₀ s : State} (h : Steady F s₀ s) (t d code)
    (hF : Touch.within (.flatten [[.fresh, .out, .regs, .cnt, .mem, .tiles, .parts, .movers, .tenants, .reqs,
        .convs, .tier, .rrc, .engines, .qps, .srch, .units, .digs, .qrm, .pwr], [.pcie, .far, .page .rstc, .page
        .pwr, .page .pcie, .page .tier, .page .disp, .page .move, .page .tile, .page .feng, .page .srch, .page
        .mon]]) F = true := by rfl) :
    Steady F s₀ (s.mergeTaskFail t d code) := by
  refine h.widen (fun s₀ h => ?_) hF
  unfold State.mergeTaskFail
  exact .ite (h.mergeFail ..) h

theorem Steady.taskError {F : List Touch} {s₀ s : State} (h : Steady F s₀ s) (t i code severity syn poisoned)
    (hF : Touch.within (.flatten [[.fresh, .out, .regs, .cnt, .mem, .tiles, .parts, .movers, .tenants, .reqs,
        .convs, .tier, .rrc, .engines, .qps, .srch, .units, .digs, .elog, .qrm], [.pwr, .pcie, .far, .page .rstc,
        .page .pwr, .page .pcie, .page .tier, .page .disp, .page .move, .page .tile, .page .feng, .page .elog,
        .page .srch, .page .mon]]) F = true := by rfl) :
    Steady F s₀ (s.taskError t i code severity syn poisoned) := by
  refine h.widen (fun s₀ h => ?_) hF
  unfold State.taskError
  extract_lets _ s1
  have hs1 : Steady _ s₀ s1 := h.record ..
  exact (hs1.taskDrop ..).mergeTaskFail ..

theorem Steady.runningError {F : List Touch} {s₀ s : State} (h : Steady F s₀ s) (t i e)
    (hF : Touch.within (.flatten [[.fresh, .out, .regs, .cnt, .mem, .tiles, .parts, .movers, .tenants, .reqs,
        .convs, .tier, .rrc, .engines, .qps, .srch, .units, .digs, .elog, .qrm], [.pwr, .pcie, .far, .page .rstc,
        .page .pwr, .page .pcie, .page .tier, .page .disp, .page .move, .page .tile, .page .feng, .page .elog,
        .page .srch, .page .codec, .page .mon]]) F = true := by rfl) :
    Steady F s₀ (s.runningError t i e) := by
  refine h.widen (fun s₀ h => ?_) hF
  unfold State.runningError
  extract_lets _ s1
  have hs1 : Steady (.flatten [[.fresh, .out, .regs, .cnt, .mem, .tiles, .parts, .movers, .tenants, .reqs, .convs,
      .tier, .rrc, .engines, .qps, .srch, .units, .digs, .elog, .qrm], [.pwr, .pcie, .far, .page .rstc, .page .pwr,
      .page .pcie, .page .tier, .page .disp, .page .move, .page .tile, .page .feng, .page .elog, .page .srch, .page
      .codec, .page .mon]]) s₀ s1 := by
    unfold s1
    split
    · exact h.count ..
    · exact h.count ..
    · exact h.badBlock ..
    · exact h
  exact hs1.taskError ..

theorem Steady.spanEnd {F : List Touch} {s₀ s : State} (h : Steady F s₀ s) (t i a)
    (hF : Touch.within (.flatten [[.fresh, .out, .regs, .cnt, .mem, .tiles, .parts, .movers, .tenants, .reqs,
        .convs, .tier, .rrc, .engines, .qps, .srch, .units, .digs, .elog, .qrm], [.pwr, .pcie, .far, .page .rstc,
        .page .pwr, .page .pcie, .page .tier, .page .disp, .page .move, .page .tile, .page .feng, .page .elog,
        .page .srch, .page .codec, .page .mon]]) F = true := by rfl) :
    Steady F s₀ (s.spanEnd t i a) := by
  refine h.widen (fun s₀ h => ?_) hF
  unfold State.spanEnd
  split
  · exact h.runningError ..
  · exact h

theorem Steady.reading {F : List Touch} {s₀ s : State} (h : Steady F s₀ s) {k}
    (hk : ∀ x0, Steady F s₀ x0 → Steady F s₀ (k x0)) (t i ops)
    (hF : Touch.within (.flatten [[.fresh, .out, .regs, .cnt, .mem, .tiles, .parts, .movers, .tenants, .reqs,
        .convs, .tier, .rrc, .engines, .qps, .srch, .units, .digs, .elog, .qrm], [.pwr, .pcie, .far, .page .rstc,
        .page .pwr, .page .pcie, .page .tier, .page .disp, .page .move, .page .tile, .page .feng, .page .elog,
        .page .srch, .page .codec, .page .mon]]) F = true := by rfl) :
    Steady F s₀ (s.reading t i ops k) := by
  unfold State.reading
  extract_lets bad
  split
  · rename_i x s1 heq
    have hs1 : Steady _ s₀ s1 := .of_snd heq (h.ownReadAt (hF := Touch.within_trans rfl hF) ..)
    exact hs1
  · rename_i x1 _ s2 heq1
    have hs2 : Steady _ s₀ s2 := .of_snd heq1 (h.ownReadAt (hF := Touch.within_trans rfl hF) ..)
    exact hs2.runningError (hF := Touch.within_trans rfl hF) ..
  · rename_i x2 _ _ s3 heq2
    have hs3 : Steady _ s₀ s3 := .of_snd heq2 (h.ownReadAt (hF := Touch.within_trans rfl hF) ..)
    exact hs3.runningError (hF := Touch.within_trans rfl hF) ..
  · rename_i x3 _ _ s4 heq3
    have hs4 : Steady _ s₀ s4 := .of_snd heq3 (h.ownReadAt (hF := Touch.within_trans rfl hF) ..)
    exact hs4.runningError (hF := Touch.within_trans rfl hF) ..
  · rename_i x4 s5 heq4
    have hs5 : Steady _ s₀ s5 := .of_snd heq4 (h.ownReadAt (hF := Touch.within_trans rfl hF) ..)
    extract_lets s6
    have hs6 : Steady _ s₀ s6 := hs5.countBlocks (hF := Touch.within_trans rfl hF) ..
    clear_value bad
    split
    · exact hs6.spanEnd (hF := Touch.within_trans rfl hF) ..
    · exact hk _ hs6

theorem Steady.taskWrites {F : List Touch} {s₀ s : State} (h : Steady F s₀ s) (t i)
    (hF : Touch.within (.flatten [[.fresh, .out, .regs, .cnt, .mem, .tiles, .parts, .movers, .tenants, .reqs,
        .convs, .tier, .rrc, .engines, .qps, .srch, .units, .digs, .elog, .qrm], [.pwr, .pcie, .far, .anyPage,
        .page .rstc, .page .pwr, .page .pcie, .page .tier, .page .disp, .page .move, .page .tile, .page .feng,
        .page .dig, .page .elog, .page .srch, .page .codec, .page .mon]]) F = true := by rfl) :
    Steady F s₀ (s.taskWrites t i) := by
  refine h.widen (fun s₀ h => ?_) hF
  unfold State.taskWrites
  split
  · rename_i x s1 heq
    have hs1 : Steady _ s₀ s1 := .of_snd heq (h.writesEnd ..)
    exact hs1.finish ..
  · rename_i x1 s2 heq1
    have hs2 : Steady _ s₀ s2 := .of_snd heq1 (h.writesEnd ..)
    exact hs2.setSlot ..
  · rename_i x2 _ _ s3 heq2
    have hs3 : Steady _ s₀ s3 := .of_snd heq2 (h.writesEnd ..)
    exact hs3.runningError ..
  · rename_i x3 _ _ s4 heq3
    have hs4 : Steady _ s₀ s4 := .of_snd heq3 (h.writesEnd ..)
    exact hs4.runningError ..

theorem Steady.descBack {F : List Touch} {s₀ s : State} (h : Steady F s₀ s) (t q)
    (hF : Touch.within [.parts] F = true := by rfl) :
    Steady F s₀ (s.descBack t q) := by
  refine h.widen (fun s₀ h => ?_) hF
  unfold State.descBack
  exact h.setPart ..

theorem execTaskDescriptorArrive_steady {F : List Touch} {s₀ s : State} (h : Steady F s₀ s) (t slot d)
    (hF : Touch.within (.flatten [[.fresh, .out, .regs, .cnt, .mem, .tiles, .parts, .movers, .tenants, .reqs,
        .convs, .tier, .rrc, .engines, .qps, .srch, .units, .digs, .qrm, .pwr], [.pcie, .far, .page .rstc, .page
        .pwr, .page .pcie, .page .tier, .page .disp, .page .move, .page .tile, .page .feng, .page .srch, .page
        .mon]]) F = true := by rfl) :
    SteadyNext F s₀ (execTaskDescriptorArrive t slot d s) := by
  refine h.widenNext (fun s₀ h => ?_) hF
  unfold execTaskDescriptorArrive
  exact .next (h.ifReady (fun u hu => by
      extract_lets _ _ bad sent s1 _ _ _ _ s2
      have hs1 : Steady _ s₀ s1 := hu.setTile ..
      have hs2 : Steady _ s₀ s2 := hs1.setTile ..
      split
      · exact (hs1.descBack ..).count ..
      · clear_value bad
        split
        · exact ((hs1.err ..).irq ..).taskFailed ..
        · exact (hs2.setSlot ..).promote ..) ..)

theorem Steady.unprompt {F : List Touch} {s₀ s : State} (h : Steady F s₀ s) (t engine)
    (hF : Touch.within [.tiles] F = true := by rfl) :
    Steady F s₀ (s.unprompt t engine) := by
  refine h.widen (fun s₀ h => ?_) hF
  unfold State.unprompt
  exact h.setTile ..

theorem execTaskDispatch_steady {F : List Touch} {s₀ s : State} (h : Steady F s₀ s) (t engine latency)
    (hF : Touch.within [.out, .regs, .cnt, .tiles, .units, .pcie, .page .pcie, .page .tile, .page .mon] F = true :=
        by rfl) :
    SteadyNext F s₀ (execTaskDispatch t engine latency s) := by
  refine h.widenNext (fun s₀ h => ?_) hF
  unfold execTaskDispatch
  exact .next (h.ifReady (fun u hu => by
      split
      · exact hu
      · split
        · exact hu
        · extract_lets s1 _ _ s2 s3 s4
          have hs1 : Steady _ s₀ s1 := hu.setSlot ..
          have hs2 : Steady _ s₀ s2 := .ite (hs1.setTile ..) hs1
          have hs3 : Steady _ s₀ s3 := hs2.unprompt ..
          have hs4 : Steady _ s₀ s4 := hs3.when (fun u1 hu1 => hu1.setFld ..) ..
          exact hs4.sample ..) ..)

theorem Steady.putResults {F : List Touch} {s₀ s : State} (h : Steady F s₀ s) (d dst tok row rs)
    (hF : Touch.within [.out, .regs, .cnt, .mem, .sram, .sramBad, .movers, .tier, .digs, .pwr, .pcie, .page .pwr,
        .page .pcie, .page .tier, .page .move] F = true := by rfl) :
    SteadyVia Prod.fst F s₀ (s.putResults d dst tok row rs) := by
  refine h.widenVia (fun s₀ h => ?_) hF
  unfold State.putResults
  split
  · have hall : SteadyVia Prod.snd _ s₀
        (rs.foldlM (fun (a : Putting) r => a.kvRow dst tok row (tSat d) r.1 r.2 none) ([], s)) :=
      .foldlM h fun a r ha => Steady.puttingKvRow ha ..
    split
    · rename_i heq
      exact .ok (hall.ok_of_eq heq)
    · rename_i heq
      exact .error (hall.error_of_eq heq)
  · extract_lets
    split
    · rename_i heq
      exact .ok ((h.putAll ..).ok_of_eq heq)
    · rename_i heq
      exact .error ((h.putAll ..).error_of_eq heq)

theorem Steady.matrixOut {F : List Touch} {s₀ s : State} (h : Steady F s₀ s) (t i x r)
    (hF : Touch.within [.out, .regs, .cnt, .mem, .sram, .sramBad, .tiles, .movers, .tier, .digs, .pwr, .pcie, .page
        .pwr, .page .pcie, .page .tier, .page .move, .page .tile] F = true := by rfl) :
    SteadyEx F s₀ (s.matrixOut t i x r) := by
  refine h.widenEx (fun s₀ h => ?_) hF
  unfold State.matrixOut
  extract_lets
  split
  · exact h.putAll ..
  · split
    · split
      · rename_i heq
        exact .error ((h.putAll ..).error_of_eq heq)
      · rename_i s1 heq
        have hs1 : Steady _ s₀ s1 := (h.putAll ..).ok_of_eq heq
        exact .ok (hs1.each (fun u _ hu => hu.each (fun v _ hv => hv.setAcc ..) _) _)
    · split
      · rename_i heq
        exact .error ((h.putResults ..).error_of_eq heq)
      · rename_i s1 _ heq
        have hs1 : Steady _ s₀ s1 := (h.putResults ..).ok_of_eq heq
        exact .ok (hs1.count ..)

theorem Steady.runMatrix {F : List Touch} {s₀ s : State} (h : Steady F s₀ s) (t i)
    (hF : Touch.within (.flatten [[.fresh, .out, .regs, .cnt, .mem, .sram, .sramBad, .tiles, .parts, .movers,
        .tenants, .reqs, .convs, .tier, .rrc, .engines, .qps, .srch, .units, .digs], [.elog, .qrm, .pwr, .pcie,
        .far, .anyPage, .page .rstc, .page .pwr, .page .pcie, .page .tier, .page .disp, .page .move, .page .tile,
        .page .feng, .page .dig, .page .elog, .page .srch, .page .codec, .page .mon]]) F = true := by rfl) :
    Steady F s₀ (s.runMatrix t i) := by
  refine h.widen (fun s₀ h => ?_) hF
  unfold State.runMatrix
  extract_lets
  exact .ite h (h.reading (fun u hu => by
      extract_lets _ s1 s2
      have hs1 : Steady _ s₀ s1 := (hu.count ..).count ..
      have hs2 : Steady _ s₀ s2 := (hs1.count ..).count ..
      split
      · exact hu.runningError ..
      · split
        · split
          · rename_i x _ s3 heq
            have hs3 : Steady _ s₀ s3 := (hs2.matrixOut ..).error_of_eq heq
            exact hs3.spanEnd ..
          · rename_i x1 s4 heq1
            have hs4 : Steady _ s₀ s4 := (hs2.matrixOut ..).ok_of_eq heq1
            exact hs4.taskWrites ..
        · exact hs2.runningError ..) ..)

theorem Steady.puttingVec {F : List Touch} {s₀ : State} {a : Putting × Nat} (h : Steady F s₀ a.1.2) (d dst tok w)
    (hF : Touch.within [.out, .regs, .cnt, .mem, .sram, .sramBad, .movers, .tier, .digs, .pwr, .pcie, .page .pwr,
        .page .pcie, .page .tier, .page .move] F = true := by rfl) :
    SteadyVia (fun a => a.1.2) F s₀ (Putting.vec a d dst tok w) := by
  refine h.widenVia (fun s₀ h => ?_) hF
  unfold Putting.vec
  extract_lets
  split
  · exact (Steady.puttingKvRow h ..).map fun _ => rfl
  · exact (Steady.puttingKvRow h ..).map fun _ => rfl
  · exact (Steady.puttingBytes h ..).map fun _ => rfl

theorem Steady.runVector {F : List Touch} {s₀ s : State} (h : Steady F s₀ s) (t i)
    (hF : Touch.within (.flatten [[.fresh, .out, .regs, .cnt, .mem, .sram, .sramBad, .tiles, .parts, .movers,
        .tenants, .reqs, .convs, .tier, .rrc, .engines, .qps, .srch, .units, .digs], [.elog, .qrm, .pwr, .pcie,
        .far, .anyPage, .page .rstc, .page .pwr, .page .pcie, .page .tier, .page .disp, .page .move, .page .tile,
        .page .feng, .page .dig, .page .elog, .page .srch, .page .codec, .page .mon]]) F = true := by rfl) :
    Steady F s₀ (s.runVector t i) := by
  refine h.widen (fun s₀ h => ?_) hF
  unfold State.runVector
  extract_lets x d code reads bytes writes dst
  refine .ite h (h.reading (fun u hu => ?_) ..)
  have hall : SteadyVia (fun a => a.1.2) _ s₀
      (writes.foldlM (fun a w => Putting.vec a d dst (u.modelTok t x) w) ((([], u), 0) : Putting × Nat)) :=
    .foldlM hu fun a w ha => Steady.puttingVec ha ..
  refine .ite (hu.runningError ..) ?_
  split
  · rename_i heq
    exact Steady.spanEnd (hall.error_of_eq heq) ..
  · rename_i a _ heq
    have ha : Steady _ s₀ a.2 := hall.ok_of_eq heq
    exact (ha.count ..).taskWrites ..

theorem Steady.farReads {F : List Touch} {s₀ s : State} (h : Steady F s₀ s) (t i n a)
    (hF : Touch.within [.out, .regs, .cnt, .mem, .tiles, .movers, .tier, .rrc, .engines, .srch, .units, .digs,
        .pwr, .pcie, .far, .page .rstc, .page .pwr, .page .pcie, .page .tier, .page .move, .page .feng, .page
        .srch, .page .mon] F = true := by rfl) :
    Steady F s₀ (s.farReads t i n a) := by
  refine h.widen (fun s₀ h' => ?_) hF
  clear hF h
  rename' h' => h
  induction a generalizing s t i n
  case zero  =>
    unfold State.farReads
    exact h
  case succ n1 ih =>
    unfold State.farReads
    extract_lets
    split
    · exact h
    · split
      · rename_i x snd heq
        have hsnd : Steady _ s₀ snd := .of_snd heq (h.request ..)
        exact hsnd
      · rename_i x1 t1 heq1
        have ht1 : Steady _ s₀ t1 := .of_snd heq1 (h.request ..)
        exact ih (h := ht1.setSlot ..) ..

theorem Steady.farStores {F : List Touch} {s₀ s : State} (h : Steady F s₀ s) (t i data a)
    (hF : Touch.within [.out, .regs, .cnt, .mem, .tiles, .movers, .tier, .rrc, .engines, .srch, .units, .digs,
        .pwr, .pcie, .far, .page .rstc, .page .pwr, .page .pcie, .page .tier, .page .move, .page .feng, .page
        .srch, .page .mon] F = true := by rfl) :
    Steady F s₀ (s.farStores t i data a) := by
  refine h.widen (fun s₀ h' => ?_) hF
  clear hF h
  rename' h' => h
  induction a generalizing s t i data
  case zero  =>
    unfold State.farStores
    exact h
  case succ n ih =>
    unfold State.farStores
    extract_lets
    split
    · exact h
    · split
      · rename_i x snd heq
        have hsnd : Steady _ s₀ snd := .of_snd heq (h.request ..)
        exact hsnd
      · rename_i x1 t1 heq1
        have ht1 : Steady _ s₀ t1 := .of_snd heq1 (h.request ..)
        exact ih (h := ht1.setSlot ..) ..

theorem Steady.farOutGo {F : List Touch} {s₀ s : State} (h : Steady F s₀ s) (t i data)
    (hF : Touch.within (.flatten [[.fresh, .out, .regs, .cnt, .mem, .tiles, .parts, .movers, .tenants, .reqs,
        .convs, .tier, .rrc, .engines, .qps, .srch, .units, .digs, .elog, .qrm], [.pwr, .pcie, .far, .anyPage,
        .page .rstc, .page .pwr, .page .pcie, .page .tier, .page .disp, .page .move, .page .tile, .page .feng,
        .page .dig, .page .elog, .page .srch, .page .codec, .page .mon]]) F = true := by rfl) :
    Steady F s₀ (s.farOutGo t i data) := by
  refine h.widen (fun s₀ h => ?_) hF
  unfold State.farOutGo
  extract_lets s1
  have hs1 : Steady _ s₀ s1 := h.farStores ..
  split
  · exact hs1.runningError ..
  · exact .ite (hs1.finish ..) hs1

theorem Steady.dmaWrite {F : List Touch} {s₀ s : State} (h : Steady F s₀ s) (t i img)
    (hF : Touch.within (.flatten [[.fresh, .out, .regs, .cnt, .mem, .sram, .sramBad, .tiles, .parts, .movers,
        .tenants, .reqs, .convs, .tier, .rrc, .engines, .qps, .srch, .units, .digs], [.elog, .qrm, .pwr, .pcie,
        .far, .anyPage, .page .rstc, .page .pwr, .page .pcie, .page .tier, .page .disp, .page .move, .page .tile,
        .page .feng, .page .dig, .page .elog, .page .srch, .page .codec, .page .mon]]) F = true := by rfl) :
    Steady F s₀ (s.dmaWrite t i img) := by
  refine h.widen (fun s₀ h => ?_) hF
  unfold State.dmaWrite
  extract_lets _ _ _ _ _ s1
  have hs1 : Steady _ s₀ s1 := .ite ((h.count ..).count ..) h
  split
  · exact (hs1.setSlot ..).farOutGo ..
  · split
    · rename_i x _ s2 heq
      have hs2 : Steady _ s₀ s2 := (hs1.putAll ..).error_of_eq heq
      exact hs2.spanEnd ..
    · rename_i x1 s3 heq1
      have hs3 : Steady _ s₀ s3 := (hs1.putAll ..).ok_of_eq heq1
      exact (hs3.when (fun u hu => hu.copyAcc ..) ..).taskWrites ..

theorem Steady.dmaFar {F : List Touch} {s₀ s : State} (h : Steady F s₀ s) (t i)
    (hF : Touch.within (.flatten [[.fresh, .out, .regs, .cnt, .mem, .sram, .sramBad, .tiles, .parts, .movers,
        .tenants, .reqs, .convs, .tier, .rrc, .engines, .qps, .srch, .units, .digs], [.elog, .qrm, .pwr, .pcie,
        .far, .anyPage, .page .rstc, .page .pwr, .page .pcie, .page .tier, .page .disp, .page .move, .page .tile,
        .page .feng, .page .dig, .page .elog, .page .srch, .page .codec, .page .mon]]) F = true := by rfl) :
    Steady F s₀ (s.dmaFar t i) := by
  refine h.widen (fun s₀ h => ?_) hF
  unfold State.dmaFar
  extract_lets _ _ _ _ _ s1
  have hs1 : Steady _ s₀ s1 := h.countBlocks ..
  split
  · exact h
  · split
    · exact .ite (h.dmaWrite ..) (h.farReads ..)
    · split
      · exact h.farReads ..
      · split
        · exact hs1.spanEnd ..
        · exact hs1.dmaWrite ..

theorem Steady.runDma {F : List Touch} {s₀ s : State} (h : Steady F s₀ s) (t i)
    (hF : Touch.within (.flatten [[.fresh, .out, .regs, .cnt, .mem, .sram, .sramBad, .tiles, .parts, .movers,
        .tenants, .reqs, .convs, .tier, .rrc, .engines, .qps, .srch, .units, .digs], [.elog, .qrm, .pwr, .pcie,
        .far, .anyPage, .page .rstc, .page .pwr, .page .pcie, .page .tier, .page .disp, .page .move, .page .tile,
        .page .feng, .page .dig, .page .elog, .page .srch, .page .codec, .page .mon]]) F = true := by rfl) :
    Steady F s₀ (s.runDma t i) := by
  refine h.widen (fun s₀ h => ?_) hF
  unfold State.runDma
  extract_lets
  split
  · exact h.runningError ..
  · exact h.farOutGo ..
  · exact .ite (h.dmaFar ..) (h.reading (fun u hu => hu.dmaWrite ..) ..)

theorem Steady.tileRun {F : List Touch} {s₀ s : State} (h : Steady F s₀ s) (t run)
    (hF : Touch.within [.cnt, .tiles, .page .tile] F = true := by rfl) :
    Steady F s₀ (s.tileRun t run) := by
  refine h.widen (fun s₀ h => ?_) hF
  unfold State.tileRun
  extract_lets _ _ s1
  have hs1 : Steady _ s₀ s1 := h.setTile ..
  exact (((hs1.count ..).count ..).count ..).count ..

theorem execTaskComplete_steady {F : List Touch} {s₀ s : State} (h : Steady F s₀ s) (t run)
    (hF : Touch.within (.flatten [[.fresh, .out, .regs, .cnt, .mem, .sram, .sramBad, .tiles, .parts, .movers,
        .tenants, .reqs, .convs, .tier, .rrc, .engines, .qps, .srch, .units, .digs], [.elog, .qrm, .pwr, .pcie,
        .far, .anyPage, .page .rstc, .page .pwr, .page .pcie, .page .tier, .page .disp, .page .move, .page .tile,
        .page .feng, .page .dig, .page .elog, .page .srch, .page .codec, .page .mon]]) F = true := by rfl) :
    SteadyNext F s₀ (execTaskComplete t run s) := by
  refine h.widenNext (fun s₀ h => ?_) hF
  unfold execTaskComplete
  extract_lets
  exact .next (h.ifWorks (fun u hu => by
      extract_lets _ s1
      have hs1 : Steady _ s₀ s1 := hu.tileRun ..
      split
      · exact hu
      · split
        · exact hs1.taskWrites ..
        · split
          · exact hs1.runMatrix ..
          · exact hs1.runVector ..
          · exact hs1.runDma ..
          · exact hs1) ..)

theorem execTaskEventReportAccept_steady {F : List Touch} {s₀ s : State} (h : Steady F s₀ s) (t i)
    (hF : Touch.within [.fresh, .out, .regs, .cnt, .mem, .tiles, .parts, .movers, .tier, .engines, .units, .digs,
        .elog, .qrm, .pwr, .pcie, .anyPage, .page .pwr, .page .pcie, .page .tier, .page .disp, .page .move, .page
        .tile, .page .feng, .page .dig, .page .elog, .page .mon] F = true := by rfl) :
    SteadyNext F s₀ (execTaskEventReportAccept t i s) := by
  refine h.widenNext (fun s₀ h => ?_) hF
  unfold execTaskEventReportAccept
  exact .next (h.ifWorks (fun u hu => .ite (hu.finish ..) hu) ..)

theorem Steady.badWord {F : List Touch} {s₀ s : State} (h : Steady F s₀ s) (a b)
    (hF : Touch.within [.sramBad] F = true := by rfl) :
    Steady F s₀ { s with sramBad := Map.set false s.sramBad a b } := by
  refine h.widen (fun s₀ h => ?_) hF
  exact
    h.of_stores [.sramBad] (bad := fun hb => Map.set_wf (fun _ => false) hb a b)

theorem execTaskRunningError_steady {F : List Touch} {s₀ s : State} (h : Steady F s₀ s) (t i e)
    (hF : Touch.within (.flatten [[.fresh, .out, .regs, .cnt, .mem, .sramBad, .tiles, .parts, .movers, .tenants,
        .reqs, .convs, .tier, .rrc, .engines, .qps, .srch, .units, .digs, .elog], [.qrm, .pwr, .pcie, .far, .page
        .rstc, .page .pwr, .page .pcie, .page .tier, .page .disp, .page .move, .page .tile, .page .feng, .page
        .elog, .page .srch, .page .codec, .page .mon]]) F = true := by rfl) :
    SteadyNext F s₀ (execTaskRunningError t i e s) := by
  refine h.widenNext (fun s₀ h => ?_) hF
  unfold execTaskRunningError
  refine .next (h.ifWorks (fun u hu => ?_) ..)
  extract_lets
  split
  · exact hu
  · split
    · exact .ite (hu.runningError ..) hu
    · exact (hu.badWord ..).runningError ..
    · exact hu.runningError ..

theorem execSbWatchdogExpire_steady {F : List Touch} {s₀ s : State} (h : Steady F s₀ s) (t i)
    (hF : Touch.within [.out, .regs, .cnt, .tiles, .pcie, .page .pcie, .page .tile] F = true := by rfl) :
    SteadyNext F s₀ (execSbWatchdogExpire t i s) := by
  refine h.widenNext (fun s₀ h => ?_) hF
  unfold execSbWatchdogExpire
  exact .next (h.ifReady (fun u hu => .ite (((hu.setSlot ..).irq ..).count ..) hu) ..)

theorem execSbClrMaxlat_steady {F : List Touch} {s₀ s : State} (h : Steady F s₀ s) (t)
    (hF : Touch.within [.regs, .page .tile] F = true := by rfl) :
    SteadyNext F s₀ (execSbClrMaxlat t s) := by
  refine h.widenNext (fun s₀ h => ?_) hF
  unfold execSbClrMaxlat
  exact .next (h.ifReady (fun u hu => hu.setFld ..) ..)

theorem Steady.progEnd {F : List Touch} {s₀ s : State} (h : Steady F s₀ s) (t index result)
    (hF : Touch.within (.flatten [[.fresh, .out, .regs, .cnt, .mem, .tiles, .parts, .movers, .tenants, .reqs,
        .convs, .tier, .rrc, .engines, .qps, .srch, .units, .digs, .qrm, .pwr], [.pcie, .far, .page .rstc, .page
        .pwr, .page .pcie, .page .tier, .page .disp, .page .move, .page .tile, .page .feng, .page .srch, .page
        .mon]]) F = true := by rfl) :
    Steady F s₀ (s.progEnd t index result) := by
  refine h.widen (fun s₀ h => ?_) hF
  unfold State.progEnd
  extract_lets _ s1 s2 s3 s4
  have hs1 : Steady _ s₀ s1 := h.setTile ..
  have hs2 : Steady _ s₀ s2 := (hs1.setFld ..).setFld ..
  have hs3 : Steady _ s₀ s3 := (hs2.setFld ..).irq ..
  have hs4 : Steady _ s₀ s4 := .ite hs3 (hs3.each (fun u _ hu => by
      extract_lets s5
      have hs5 : Steady _ s₀ s5 := ((hu.err ..).irq ..).setSlot ..
      exact hs5.taskFailed ..) ..)
  exact hs4.promote ..

theorem execProgLoadGo_steady {F : List Touch} {s₀ s : State} (h : Steady F s₀ s) (t index)
    (hF : Touch.within (.flatten [[.fresh, .out, .regs, .cnt, .mem, .tiles, .parts, .movers, .tenants, .reqs,
        .convs, .tier, .rrc, .engines, .qps, .srch, .units, .digs, .qrm, .pwr], [.pcie, .far, .page .rstc, .page
        .pwr, .page .pcie, .page .tier, .page .disp, .page .move, .page .tile, .page .feng, .page .srch, .page
        .mon]]) F = true := by rfl) :
    SteadyNext F s₀ (execProgLoadGo t index s) := by
  refine h.widenNext (fun s₀ h => ?_) hF
  unfold execProgLoadGo
  exact .next (h.ifReady (fun u hu => by
      extract_lets s1
      have hs1 : Steady _ s₀ s1 := hu.setFld ..
      exact .ite (hu.err ..) (.ite ((hs1.err ..).progEnd ..) ((hs1.setTile ..).setFld ..))) ..)

theorem execProgLoadComplete_steady {F : List Touch} {s₀ s : State} (h : Steady F s₀ s) (t)
    (hF : Touch.within (.flatten [[.fresh, .out, .regs, .cnt, .mem, .tiles, .parts, .movers, .tenants, .reqs,
        .convs, .tier, .rrc, .engines, .qps, .srch, .units, .digs, .qrm, .pwr], [.pcie, .far, .page .rstc, .page
        .pwr, .page .pcie, .page .tier, .page .disp, .page .move, .page .tile, .page .feng, .page .srch, .page
        .mon]]) F = true := by rfl) :
    SteadyNext F s₀ (execProgLoadComplete t s) := by
  refine h.widenNext (fun s₀ h => ?_) hF
  unfold execProgLoadComplete
  exact .next (h.ifWorks (fun u hu => by
      split
      · exact hu
      · extract_lets bad
        have hbad : ∀ x0, Steady
            (.flatten [[.fresh, .out, .regs, .cnt, .mem, .tiles, .parts, .movers, .tenants, .reqs, .convs, .tier,
            .rrc, .engines, .qps, .srch, .units, .digs, .qrm, .pwr], [.pcie, .far, .page .rstc, .page .pwr, .page
            .pcie, .page .tier, .page .disp, .page .move, .page .tile, .page .feng, .page .srch, .page .mon]]) s₀
            x0 → Steady (.flatten [[.fresh, .out, .regs, .cnt, .mem, .tiles, .parts, .movers, .tenants, .reqs,
            .convs, .tier, .rrc, .engines, .qps, .srch, .units, .digs, .qrm, .pwr], [.pcie, .far, .page .rstc,
            .page .pwr, .page .pcie, .page .tier, .page .disp, .page .move, .page .tile, .page .feng, .page .srch,
            .page .mon]]) s₀ (bad x0) :=
    (fun u1 hu1 => (hu1.err ..).progEnd ..)
        split
        · rename_i x s1 heq
          have hs1 : Steady _ s₀ s1 := .of_snd heq (hu.ownReadAt ..)
          exact hs1
        · rename_i x1 s2 heq1
          have hs2 : Steady _ s₀ s2 := .of_snd heq1 (hu.ownReadAt ..)
          exact .ite (hbad _ hs2) (.ite (hbad _ hs2) (.ite (hs2.progEnd ..) ((hs2.setTile ..).progEnd ..)))
        · rename_i x2 _ s3 _ _ heq2
          have hs3 : Steady _ s₀ s3 := .of_snd heq2 (hu.ownReadAt ..)
          exact hbad _ hs3) ..)

end Sys2Proof.Machine
end


section
/-! PROOFS. What the operations of Attn.lean keep: the attention sequencer and the merge unit. -/

namespace Sys2Proof.Machine
open Sys2Proof

theorem execAttnParamsLatched_steady {F : List Touch} {s₀ s : State} (h : Steady F s₀ s) (t i)
    (hF : Touch.within (.flatten [[.fresh, .out, .regs, .cnt, .mem, .tiles, .parts, .movers, .tenants, .reqs,
        .convs, .tier, .rrc, .engines, .qps, .srch, .units, .digs, .elog, .qrm], [.pwr, .pcie, .far, .page .rstc,
        .page .pwr, .page .pcie, .page .tier, .page .disp, .page .move, .page .tile, .page .feng, .page .elog,
        .page .srch, .page .codec, .page .mon]]) F = true := by rfl) :
    SteadyNext F s₀ (execAttnParamsLatched t i s) := by
  refine h.widenNext (fun s₀ h => ?_) hF
  unfold execAttnParamsLatched
  exact .next (h.ifWorks (fun u hu => .ite hu (hu.reading (fun u1 hu1 => .ite (hu1.taskError ..)
      (hu1.setSlot ..)) ..)) ..)

theorem Steady.computeNode {F : List Touch} {s₀ s : State} (h : Steady F s₀ s) (t x q imgs)
    (hF : Touch.within [.cnt, .page .tile] F = true := by rfl) :
    SteadyOptSnd F s₀ (s.computeNode t x q imgs) := by
  refine h.widenOptSnd (fun s₀ h => ?_) hF
  unfold State.computeNode
  extract_lets _ _ _ _ _ _ _ _ s1
  have hs1 : Steady _ s₀ s1 := (h.count ..).count ..
  exact .map (fun _  => (hs1.count ..).count ..)

theorem Steady.mergeStore {F : List Touch} {s₀ s : State} (h : Steady F s₀ s) (t i x n)
    (hF : Touch.within [.parts] F = true := by rfl) :
    SteadyOpt F s₀ (s.mergeStore t i x n) := by
  refine h.widenOpt (fun s₀ h => ?_) hF
  unfold State.mergeStore
  exact .ite .none (.some (h.setPart ..))

theorem Steady.nodeRefused {F : List Touch} {s₀ s : State} (h : Steady F s₀ s) (t i)
    (hF : Touch.within (.flatten [[.fresh, .out, .regs, .cnt, .mem, .tiles, .parts, .movers, .tenants, .reqs,
        .convs, .tier, .rrc, .engines, .qps, .srch, .units, .digs, .elog, .qrm], [.pwr, .pcie, .far, .page .rstc,
        .page .pwr, .page .pcie, .page .tier, .page .disp, .page .move, .page .tile, .page .feng, .page .elog,
        .page .srch, .page .mon]]) F = true := by rfl) :
    Steady F s₀ (s.nodeRefused t i) := by
  refine h.widen (fun s₀ h => ?_) hF
  unfold State.nodeRefused
  exact (h.record ..).taskDrop ..

theorem execMergeNodeArrive_steady {F : List Touch} {s₀ s : State} (h : Steady F s₀ s) (t run record)
    (hF : Touch.within (.flatten [[.fresh, .out, .regs, .cnt, .mem, .tiles, .parts, .movers, .tenants, .reqs,
        .convs, .tier, .rrc, .engines, .qps, .srch, .units, .digs, .elog, .qrm], [.pwr, .pcie, .far, .page .rstc,
        .page .pwr, .page .pcie, .page .tier, .page .disp, .page .move, .page .tile, .page .feng, .page .elog,
        .page .srch, .page .codec, .page .mon]]) F = true := by rfl) :
    SteadyNext F s₀ (execMergeNodeArrive t run record s) := by
  refine h.widenNext (fun s₀ h => ?_) hF
  unfold execMergeNodeArrive
  extract_lets
  exact .next (h.ifWorks (fun u hu => by
      extract_lets
      exact .ite hu (.ite (.ite hu ((hu.tileRun ..).reading (fun u1 hu1 => by
      split
      · rename_i x heq
        exact hu1.nodeRefused ..
      · rename_i x1 s1 heq1
        have hs1 : Steady _ s₀ s1 := (hu1.mergeStore ..).of_eq heq1
        exact (hs1.setSlot ..).promote ..) ..)) ((hu.tileRun ..).reading (fun u2 hu2 => by
      split
      · rename_i x2 heq2
        exact hu2
      · rename_i x3 _ s2 heq3
        have hs2 : Steady _ s₀ s2 := (hu2.computeNode ..).of_eq heq3
        split
        · rename_i x4 heq4
          exact hs2.nodeRefused ..
        · rename_i x5 s3 heq5
          have hs3 : Steady _ s₀ s3 := (hs2.mergeStore ..).of_eq heq5
          exact (hs3.setSlot ..).promote ..) ..))) ..)

theorem Steady.emitFail {F : List Touch} {s₀ s : State} (h : Steady F s₀ s) (p m x e)
    (hF : Touch.within (.flatten [[.fresh, .out, .regs, .cnt, .mem, .tiles, .parts, .movers, .tenants, .reqs,
        .convs, .tier, .rrc, .engines, .qps, .srch, .units, .digs, .elog, .qrm], [.pwr, .pcie, .far, .page .rstc,
        .page .pwr, .page .pcie, .page .tier, .page .disp, .page .move, .page .tile, .page .feng, .page .elog,
        .page .srch, .page .mon]]) F = true := by rfl) :
    Steady F s₀ (s.emitFail p m x e) := by
  refine h.widen (fun s₀ h => ?_) hF
  unfold State.emitFail
  extract_lets _ _ s1
  have hs1 : Steady (.flatten [[.fresh, .out, .regs, .cnt, .mem, .tiles, .parts, .movers, .tenants, .reqs, .convs,
      .tier, .rrc, .engines, .qps, .srch, .units, .digs, .elog, .qrm], [.pwr, .pcie, .far, .page .rstc, .page .pwr,
      .page .pcie, .page .tier, .page .disp, .page .move, .page .tile, .page .feng, .page .elog, .page .srch, .page
      .mon]]) s₀ s1 := by
    unfold s1
    split
    · exact h.count ..
    · exact h
  exact ((hs1.disown ..).record ..).mergeFail ..

theorem Steady.emitted {F : List Touch} {s₀ s : State} (h : Steady F s₀ s) (p m x)
    (hF : Touch.within [.fresh, .out, .regs, .cnt, .mem, .tiles, .parts, .movers, .tier, .engines, .units, .digs,
        .elog, .qrm, .pwr, .pcie, .anyPage, .page .pwr, .page .pcie, .page .tier, .page .disp, .page .move, .page
        .tile, .page .feng, .page .dig, .page .elog, .page .mon] F = true := by rfl) :
    Steady F s₀ (s.emitted p m x) := by
  refine h.widen (fun s₀ h => ?_) hF
  unfold State.emitted
  exact (h.setPart ..).each (fun u _ hu => .ite (hu.finish ..) hu) ..

theorem Steady.emitGo {F : List Touch} {s₀ s : State} (h : Steady F s₀ s) (p m x)
    (hF : Touch.within (.flatten [[.fresh, .out, .regs, .cnt, .mem, .tiles, .parts, .movers, .tenants, .reqs,
        .convs, .tier, .rrc, .engines, .qps, .srch, .units, .digs, .elog, .qrm], [.pwr, .pcie, .far, .anyPage,
        .page .rstc, .page .pwr, .page .pcie, .page .tier, .page .disp, .page .move, .page .tile, .page .feng,
        .page .dig, .page .elog, .page .srch, .page .mon]]) F = true := by rfl) :
    Steady F s₀ (s.emitGo p m x) := by
  refine h.widen (fun s₀ h => ?_) hF
  unfold State.emitGo
  split
  · rename_i x1 s1 heq
    have hs1 : Steady _ s₀ s1 := .of_snd heq (h.writesEnd ..)
    exact hs1.emitted ..
  · rename_i x2 s2 heq1
    have hs2 : Steady _ s₀ s2 := .of_snd heq1 (h.writesEnd ..)
    exact hs2.setPart ..
  · rename_i x3 _ _ s3 heq2
    have hs3 : Steady _ s₀ s3 := .of_snd heq2 (h.writesEnd ..)
    exact hs3.emitFail ..
  · rename_i x4 _ _ s4 heq3
    have hs4 : Steady _ s₀ s4 := .of_snd heq3 (h.writesEnd ..)
    exact hs4.emitFail ..

theorem execMergeEmitDone_steady {F : List Touch} {s₀ s : State} (h : Steady F s₀ s) (p m)
    (hF : Touch.within (.flatten [[.fresh, .out, .regs, .cnt, .mem, .sram, .sramBad, .tiles, .parts, .movers,
        .tenants, .reqs, .convs, .tier, .rrc, .engines, .qps, .srch, .units, .digs], [.elog, .qrm, .pwr, .pcie,
        .far, .anyPage, .page .rstc, .page .pwr, .page .pcie, .page .tier, .page .disp, .page .move, .page .tile,
        .page .feng, .page .dig, .page .elog, .page .srch, .page .mon]]) F = true := by rfl) :
    SteadyNext F s₀ (execMergeEmitDone p m s) := by
  refine h.widenNext (fun s₀ h => ?_) hF
  unfold execMergeEmitDone
  refine .next (h.ifWorks (fun u hu => ?_) ..)
  extract_lets
  refine .ite hu (.ite (hu.emitGo ..) ?_)
  split
  · exact hu
  · extract_lets
    refine .ite hu ?_
    split
    · rename_i heq
      exact .of_snd heq (hu.ownReadAt ..)
    · rename_i heq
      exact (Steady.of_snd heq (hu.ownReadAt ..)).emitFail ..
    · rename_i heq
      exact (Steady.of_snd heq (hu.ownReadAt ..)).emitFail ..
    · rename_i heq
      exact (Steady.of_snd heq (hu.ownReadAt ..)).emitFail ..
    · rename_i s1 heq
      have hs1 : Steady _ s₀ s1 := .of_snd heq (hu.ownReadAt ..)
      extract_lets put
      have hput : SteadyVia Prod.fst
          (.flatten [[.fresh, .out, .regs, .cnt, .mem, .sram, .sramBad, .tiles, .parts, .movers, .tenants, .reqs,
          .convs, .tier, .rrc, .engines, .qps, .srch, .units, .digs], [.elog, .qrm, .pwr, .pcie, .far, .anyPage,
          .page .rstc, .page .pwr, .page .pcie, .page .tier, .page .disp, .page .move, .page .tile, .page .feng,
          .page .dig, .page .elog, .page .srch, .page .mon]]) s₀ put := by
        unfold put
        split
        · exact hs1.putResults ..
        · exact (hs1.putAll ..).map fun _ => rfl
      clear_value put
      split
      · exact (hput.error_of_eq rfl).emitFail ..
      · exact hs1
      · exact ((hput.ok_of_eq rfl).count ..).emitGo ..

end Sys2Proof.Machine
end


section
/-! PROOFS. What the operations of Weir.lean keep: the Weir: tenant rings, budgets, admission, deferral, pauses and
resumes. -/

namespace Sys2Proof.Machine
open Sys2Proof

theorem Steady.refill {F : List Touch} {s₀ s : State} (h : Steady F s₀ s) (p n)
    (hF : Touch.within [.tenants] F = true := by rfl) :
    Steady F s₀ (s.refill p n) := by
  refine h.widen (fun s₀ h => ?_) hF
  unfold State.refill
  exact h.setTen ..

theorem Steady.syncQueue {F : List Touch} {s₀ s : State} (h : Steady F s₀ s) (p)
    (hF : Touch.within [.regs, .page .admt] F = true := by rfl) :
    Steady F s₀ (s.syncQueue p) := by
  refine h.widen (fun s₀ h => ?_) hF
  unfold State.syncQueue
  exact h.setFld ..

theorem Steady.refused {F : List Touch} {s₀ s : State} (h : Steady F s₀ s) (p r status detail)
    (hF : Touch.within [.out, .regs, .cnt, .tenants, .pcie, .anyPage, .page .pcie, .page .admt] F = true := by rfl) :
    Steady F s₀ (s.refused p r status detail) := by
  refine h.widen (fun s₀ h => ?_) hF
  unfold State.refused
  extract_lets s1 s2
  have hs1 : Steady _ s₀ s1 := h.countAt ..
  have hs2 : Steady _ s₀ s2 := .ite ((hs1.err ..).irq ..) hs1
  exact hs2.pushRec ..

theorem Steady.refuse {F : List Touch} {s₀ s : State} (h : Steady F s₀ s) (p r status detail)
    (hF : Touch.within [.out, .regs, .cnt, .tenants, .reqs, .pcie, .anyPage, .page .pcie, .page .admt] F = true :=
        by rfl) :
    Steady F s₀ (s.refuse p r status detail) := by
  refine h.widen (fun s₀ h => ?_) hF
  unfold State.refuse
  exact ((h.dropReq ..).syncQueue ..).refused ..

theorem Steady.defer {F : List Touch} {s₀ s : State} (h : Steady F s₀ s) (p r status detail)
    (hF : Touch.within [.fresh, .out, .regs, .cnt, .tenants, .reqs, .pcie, .anyPage, .page .pcie, .page .admt] F =
        true := by rfl) :
    Steady F s₀ (s.defer p r status detail) := by
  refine h.widen (fun s₀ h => ?_) hF
  unfold State.defer
  extract_lets _ _ _ _ _ _ s1 s2
  have hs1 : Steady _ s₀ s1 := .ite (h.updReq ..) (h.upd [.reqs])
  have hs2 : Steady _ s₀ s2 := (hs1.draw.syncQueue ..).count ..
  exact .ite (h.refuse ..) (.ite ((h.irq ..).refuse ..) (hs2.pushRec ..))

theorem Steady.openRefused {F : List Touch} {s₀ s : State} (h : Steady F s₀ s) (reqId detail)
    (hF : Touch.within [.fresh, .out, .regs, .cnt, .tenants, .reqs, .convs, .pcie, .anyPage, .page .pcie, .page
        .admt] F = true := by rfl) :
    Steady F s₀ (s.openRefused reqId detail) := by
  refine h.widen (fun s₀ h => ?_) hF
  unfold State.openRefused
  split
  · exact h
  · extract_lets _ _ s1 s2 s3
    have hs1 : Steady _ s₀ s1 := h.setTen ..
    have hs2 : Steady _ s₀ s2 := hs1.dropAdapter ..
    have hs3 : Steady [.fresh, .out, .regs, .cnt, .tenants, .reqs, .convs, .pcie, .anyPage, .page .pcie, .page
        .admt] s₀ s3 := by
      unfold s3
      split
      · exact hs2.closeConv ..
      · exact hs2
    exact (hs3.dropReq ..).defer ..

theorem Steady.openTransfer {F : List Touch} {s₀ s : State} (h : Steady F s₀ s) (pp gp r)
    (hF : Touch.within [.fresh, .out, .regs, .cnt, .movers, .tenants, .reqs, .convs, .pcie, .anyPage, .page .pcie,
        .page .move, .page .admt] F = true := by rfl) :
    Steady F s₀ (s.openTransfer pp gp r) := by
  refine h.widen (fun s₀ h => ?_) hF
  unfold State.openTransfer
  extract_lets
  split
  · rename_i x _ s1 heq
    have hs1 : Steady _ s₀ s1 := (h.draw.bindCtx ..).of_eq heq
    exact hs1.openTx ..
  · rename_i x1 heq1
    exact h.draw.openRefused ..

theorem Steady.accept {F : List Touch} {s₀ s : State} (h : Steady F s₀ s) (p r pp gp need v)
    (hF : Touch.within [.fresh, .out, .regs, .cnt, .mem, .movers, .tenants, .reqs, .convs, .tier, .qps, .units,
        .digs, .pwr, .pcie, .anyPage, .page .pwr, .page .pcie, .page .tier, .page .move, .page .admt, .page .mon] F
        = true := by rfl) :
    Steady F s₀ (s.accept p r pp gp need v) := by
  refine h.widen (fun s₀ h => ?_) hF
  unfold State.accept
  extract_lets _ s1 s2 s3 ad s4 _ x s5 _ s6
  have hs1 : Steady _ s₀ s1 := .ite (h.count ..) h
  have hs2 : Steady _ s₀ s2 := hs1.setTen ..
  have hs3 : Steady _ s₀ s3 := (hs2.reserve ..).count ..
  have hs4 : Steady [.fresh, .out, .regs, .cnt, .mem, .movers, .tenants, .reqs, .convs, .tier, .qps, .units, .digs,
      .pwr, .pcie, .anyPage, .page .pwr, .page .pcie, .page .tier, .page .move, .page .admt, .page .mon] s₀ s4 := by
    unfold s4
    clear_value ad
    split
    · exact hs3.adpBind ..
    · exact hs3
  have hx : Steady _ s₀ x := hs4.dropReq ..
  have hs5 : Steady _ s₀ s5 := hx.upd [.reqs]
  have hs6 : Steady _ s₀ s6 := (hs5.setConv ..).syncQueue ..
  split
  · clear_value ad
    split
    · exact hs6.endReq ..
    · exact hs6.startResume ..
  · split
    · exact hs6.openTransfer ..
    · exact hs6

theorem Steady.admitNow {F : List Touch} {s₀ s : State} (h : Steady F s₀ s) (p r)
    (hF : Touch.within [.fresh, .out, .regs, .cnt, .mem, .movers, .tenants, .reqs, .convs, .tier, .qps, .units,
        .digs, .pwr, .pcie, .anyPage, .page .pwr, .page .pcie, .page .tier, .page .disp, .page .move, .page .admt,
        .page .mon] F = true := by rfl) :
    Steady F s₀ (s.admitNow p r) := by
  refine h.widen (fun s₀ h => ?_) hF
  unfold State.admitNow
  extract_lets _ _ s1 _ _ _ _ _ _ _ s2 s3 _ _ old _ _ placed _ gp
  have hs1 : Steady _ s₀ s1 := h.refill ..
  have hs2 : Steady _ s₀ s2 := .ite ((hs1.count ..).pushRec ..) hs1
  have hs3 : Steady _ s₀ s3 := .ite (hs2.updReq ..) hs2
  split
  · exact hs1.refuse ..
  · split
    · exact hs1.refuse ..
    · split
      · exact hs1.refuse ..
      · split
        · exact hs1.defer ..
        · split
          · exact hs3.refuse ..
          · clear_value gp
            split
            · exact .ite (hs3.defer ..) (hs3.accept ..)
            · exact hs3.defer ..

theorem Steady.readDesc {F : List Touch} {s₀ s : State} (h : Steady F s₀ s) (n)
    (hF : Touch.within [.out, .tenants] F = true := by rfl) :
    Steady F s₀ (s.readDesc n) := by
  refine h.widen (fun s₀ h => ?_) hF
  unfold State.readDesc
  exact (h.setTen ..).hostWr ..

theorem execGenerate_steady {F : List Touch} {s₀ s : State} (h : Steady F s₀ s) (p n d hh)
    (hF : Touch.within [.fresh, .out, .regs, .cnt, .mem, .movers, .tenants, .reqs, .convs, .tier, .qps, .units,
        .digs, .pwr, .pcie, .anyPage, .page .pwr, .page .pcie, .page .tier, .page .disp, .page .move, .page .admt,
        .page .mon] F = true := by rfl) :
    SteadyNext F s₀ (execGenerate p n d hh s) := by
  refine h.widenNext (fun s₀ h => ?_) hF
  unfold execGenerate
  extract_lets s1
  have hs1 : Steady _ s₀ s1 := h.readDesc ..
  refine .next ?_
  split
  · split
    · exact hs1.refused ..
    · exact hs1.admitNow ..
  · exact h

theorem execResume_steady {F : List Touch} {s₀ s : State} (h : Steady F s₀ s) (p n d hh)
    (hF : Touch.within [.fresh, .out, .regs, .cnt, .mem, .movers, .tenants, .reqs, .convs, .tier, .qps, .units,
        .digs, .pwr, .pcie, .anyPage, .page .pwr, .page .pcie, .page .tier, .page .disp, .page .move, .page .admt,
        .page .mon] F = true := by rfl) :
    SteadyNext F s₀ (execResume p n d hh s) := by
  refine h.widenNext (fun s₀ h => ?_) hF
  unfold execResume
  extract_lets s1
  have hs1 : Steady _ s₀ s1 := h.readDesc ..
  refine .next ?_
  split
  · split
    · exact hs1.refused ..
    · exact .ite (hs1.pushRec ..) (hs1.admitNow ..)
  · exact h

theorem execPause_steady {F : List Touch} {s₀ s : State} (h : Steady F s₀ s) (p n d hh)
    (hF : Touch.within [.fresh, .out, .regs, .cnt, .mem, .movers, .tenants, .reqs, .convs, .tier, .qps, .digs,
        .pwr, .pcie, .anyPage, .page .pwr, .page .pcie, .page .tier, .page .move, .page .admt] F = true := by rfl) :
    SteadyNext F s₀ (execPause p n d hh s) := by
  refine h.widenNext (fun s₀ h => ?_) hF
  unfold execPause
  extract_lets s1
  have hs1 : Steady _ s₀ s1 := h.readDesc ..
  refine .next ?_
  split
  · split
    · exact hs1.refused ..
    · exact hs1.refused ..
    · extract_lets _ x s2
      have hx : Steady _ s₀ x := hs1.setConv ..
      have hs2 : Steady _ s₀ s2 := hx.upd [.reqs]
      exact hs2.parkNow ..
  · exact h

theorem execRelease_steady {F : List Touch} {s₀ s : State} (h : Steady F s₀ s) (p n d hh)
    (hF : Touch.within [.out, .regs, .cnt, .mem, .movers, .tenants, .convs, .tier, .pcie, .anyPage, .page .pcie,
        .page .admt] F = true := by rfl) :
    SteadyNext F s₀ (execRelease p n d hh s) := by
  refine h.widenNext (fun s₀ h => ?_) hF
  unfold execRelease
  extract_lets s1
  have hs1 : Steady _ s₀ s1 := h.readDesc ..
  refine .next ?_
  split
  · split
    · exact hs1.refused ..
    · exact hs1.refused ..
    · extract_lets _ s2 s3
      have hs2 : Steady _ s₀ s2 := .ite hs1 ((hs1.moverSend ..).forgetRemote ..)
      have hs3 : Steady _ s₀ s3 := hs2.each (fun u _ hu => by
          extract_lets
          split
          · exact hu.freePage ..
          · exact hu.freePage ..
          · exact hu) ..
      exact (hs3.closeConv ..).pushRec ..
  · exact h

theorem Steady.doorbell {F : List Touch} {s₀ s : State} (h : Steady F s₀ s) {f}
    (hf : ∀ x0 x1, Steady F s₀ x1 → Steady F s₀ (f x0 x1)) (n)
    (hF : Touch.within [.regs, .cnt, .page .admt] F = true := by rfl) :
    Steady F s₀ (s.doorbell n f) := by
  unfold State.doorbell
  split
  · exact h
  · split
    · exact hf _ _ h
    · exact (h.count (hF := Touch.within_trans rfl hF) (hP := Touch.pageIn_trans rfl hF) ..).err
          (hF := Touch.within_trans rfl hF) (hP := Touch.pageIn_trans rfl hF) ..

theorem execReqTail_steady {F : List Touch} {s₀ s : State} (h : Steady F s₀ s) (n tail)
    (hF : Touch.within [.regs, .cnt, .tenants, .page .pcie, .page .admt] F = true := by rfl) :
    SteadyNext F s₀ (execReqTail n tail s) := by
  refine h.widenNext (fun s₀ h => ?_) hF
  unfold execReqTail
  exact .next ((Steady.ite h (h.count ..)).doorbell (fun _ u hu => hu.setTen ..) ..)

theorem execTokHead_steady {F : List Touch} {s₀ s : State} (h : Steady F s₀ s) (n head)
    (hF : Touch.within [.tenants] F = true := by rfl) :
    SteadyNext F s₀ (execTokHead n head s) := by
  refine h.widenNext (fun s₀ h => ?_) hF
  unfold execTokHead
  exact .next (.ite h (h.setTen ..))

theorem execCplHead_steady {F : List Touch} {s₀ s : State} (h : Steady F s₀ s) (n head)
    (hF : Touch.within [.tenants] F = true := by rfl) :
    SteadyNext F s₀ (execCplHead n head s) := by
  refine h.widenNext (fun s₀ h => ?_) hF
  unfold execCplHead
  exact .next (.ite h (h.setTen ..))

theorem execTenantRingCfgWrite_steady {F : List Touch} {s₀ s : State} (h : Steady F s₀ s) (n r)
    (hF : Touch.within [.tenants] F = true := by rfl) :
    SteadyNext F s₀ (execTenantRingCfgWrite n r s) := by
  refine h.widenNext (fun s₀ h => ?_) hF
  unfold execTenantRingCfgWrite
  extract_lets
  refine .next ?_
  split
  · exact h
  · split
    · exact .ite h (h.setTen ..)
    · exact .ite h (h.setTen ..)
    · exact .ite h (h.setTen ..)
    · exact .ite h (h.setTen ..)
    · exact h.setTen ..

theorem execDeferRetryTimer_steady {F : List Touch} {s₀ s : State} (h : Steady F s₀ s) (p)
    (hF : Touch.within [.fresh, .out, .regs, .cnt, .mem, .movers, .tenants, .reqs, .convs, .tier, .qps, .units,
        .digs, .pwr, .pcie, .anyPage, .page .pwr, .page .pcie, .page .tier, .page .disp, .page .move, .page .admt,
        .page .mon] F = true := by rfl) :
    SteadyNext F s₀ (execDeferRetryTimer p s) := by
  refine h.widenNext (fun s₀ h => ?_) hF
  unfold execDeferRetryTimer
  extract_lets s1
  have hs1 : Steady _ s₀ s1 := h.each (fun u _ hu => by
      split
      · exact .ite (hu.relocate ..) hu
      · exact hu) ..
  refine .next ?_
  split
  · exact .ite (hs1.admitNow ..) hs1
  · exact hs1

theorem execDeferDeadline_steady {F : List Touch} {s₀ s : State} (h : Steady F s₀ s) (p reqId)
    (hF : Touch.within [.out, .regs, .cnt, .tenants, .reqs, .pcie, .anyPage, .page .pcie, .page .admt] F = true :=
        by rfl) :
    SteadyNext F s₀ (execDeferDeadline p reqId s) := by
  refine h.widenNext (fun s₀ h => ?_) hF
  unfold execDeferDeadline
  refine .next ?_
  split
  · exact .ite (h.refuse ..) h
  · exact h

theorem execIdleParkTimer_steady {F : List Touch} {s₀ s : State} (h : Steady F s₀ s) (n conv)
    (hF : Touch.within [.fresh, .out, .regs, .cnt, .mem, .movers, .reqs, .convs, .tier, .qps, .digs, .pwr, .pcie,
        .page .pwr, .page .pcie, .page .tier, .page .move] F = true := by rfl) :
    SteadyNext F s₀ (execIdleParkTimer n conv s) := by
  refine h.widenNext (fun s₀ h => ?_) hF
  unfold execIdleParkTimer
  extract_lets
  refine .next ?_
  split
  · exact .ite (h.startPark ..) h
  · exact h

theorem execTenantCancel_steady {F : List Touch} {s₀ s : State} (h : Steady F s₀ s) (n tag)
    (hF : Touch.within [.fresh, .out, .regs, .cnt, .mem, .movers, .tenants, .reqs, .convs, .tier, .rrc, .engines,
        .qps, .srch, .units, .digs, .pwr, .pcie, .far, .page .rstc, .page .pwr, .page .pcie, .page .tier, .page
        .disp, .page .move, .page .admt, .page .feng, .page .srch, .page .mon] F = true := by rfl) :
    SteadyNext F s₀ (execTenantCancel n tag s) := by
  refine h.widenNext (fun s₀ h => ?_) hF
  unfold execTenantCancel
  exact .next (h.doorbell (fun _ u hu => by
      split
      · exact hu.count ..
      · split
        · exact ((hu.dropReq ..).syncQueue ..).pushRec ..
        · split
          · split
            · exact hu.count ..
            · exact hu
          · exact hu.abortReq ..) ..)

end Sys2Proof.Machine
end


section
/-! PROOFS. What the operations of Mover.lean keep: the commands of the State Mover: messages, side records, parks,
adapter slots. -/

namespace Sys2Proof.Machine
open Sys2Proof

theorem Steady.moverOn {F : List Touch} {s₀ s : State} (h : Steady F s₀ s) {f}
    (hf : ∀ x0, Steady F s₀ x0 → Steady F s₀ (f x0)) (p) :
    Steady F s₀ (s.moverOn p f) := by
  unfold State.moverOn
  exact .ite h (h.ifReady (fun u hu => hf _ hu) ..)

theorem Steady.openAnswer {F : List Touch} {s₀ s : State} (h : Steady F s₀ s) (p m status base stride key)
    (hF : Touch.within [.movers] F = true := by rfl) :
    Steady F s₀ (s.openAnswer p m status base stride key) := by
  refine h.widen (fun s₀ h => ?_) hF
  unfold State.openAnswer
  exact h.moverSend ..

theorem Steady.openPush {F : List Touch} {s₀ s : State} (h : Steady F s₀ s) (p m)
    (hF : Touch.within [.movers] F = true := by rfl) :
    Steady F s₀ (s.openPush p m) := by
  refine h.widen (fun s₀ h => ?_) hF
  unfold State.openPush
  split
  · rename_i x _ s1 heq
    have hs1 : Steady _ s₀ s1 := (h.bindCtx ..).of_eq heq
    exact hs1.openAnswer ..
  · rename_i x1 heq1
    exact h.openAnswer ..

theorem Steady.makeRoom {F : List Touch} {s₀ s : State} (h : Steady F s₀ s) (p rgn n a)
    (hF : Touch.within [.out, .regs, .cnt, .mem, .movers, .tier, .digs, .pwr, .pcie, .page .pwr, .page .pcie, .page
        .tier, .page .move, .page .srch] F = true := by rfl) :
    Steady F s₀ (s.makeRoom p rgn n a).2 := by
  refine h.widen (fun s₀ h' => ?_) hF
  clear hF h
  rename' h' => h
  induction a generalizing s p rgn n
  case zero  =>
    unfold State.makeRoom
    exact h
  case succ n1 ih =>
    unfold State.makeRoom
    split
    · exact h
    · split
      · exact ih (h := (h.expireEntry ..).count ..) ..
      · exact h

theorem Steady.grantTtl {F : List Touch} {s₀ s : State} (h : Steady F s₀ s) (p ttl)
    (hF : Touch.within [.cnt, .page .srch] F = true := by rfl) :
    Steady F s₀ (s.grantTtl p ttl).2 := by
  refine h.widen (fun s₀ h => ?_) hF
  unfold State.grantTtl
  exact .ite_snd (h.count ..) h

theorem Steady.newEntry {F : List Touch} {s₀ s : State} (h : Steady F s₀ s)
    (p i kind node part reqId base layers pages side ttl kv)
    (hF : Touch.within [.out, .regs, .cnt, .mem, .movers, .tier, .digs, .pwr, .pcie, .page .pwr, .page .pcie, .page
        .tier, .page .move] F = true := by rfl) :
    Steady F s₀ (s.newEntry p i kind node part reqId base layers pages side ttl kv) := by
  refine h.widen (fun s₀ h => ?_) hF
  unfold State.newEntry
  exact h.setEntry ..

theorem Steady.openPark {F : List Touch} {s₀ s : State} (h : Steady F s₀ s) (p m)
    (hF : Touch.within [.out, .regs, .cnt, .mem, .movers, .tier, .digs, .pwr, .pcie, .page .pwr, .page .pcie, .page
        .tier, .page .move, .page .srch] F = true := by rfl) :
    Steady F s₀ (s.openPark p m) := by
  refine h.widen (fun s₀ h => ?_) hF
  unfold State.openPark
  extract_lets
  split
  · exact h.openAnswer ..
  · split
    · exact h.openAnswer ..
    · split
      · rename_i x s1 heq
        have hs1 : Steady _ s₀ s1 := .of_snd heq (h.makeRoom ..)
        exact hs1.openAnswer ..
      · rename_i x1 _ s2 heq1
        have hs2 : Steady _ s₀ s2 := .of_snd heq1 (h.makeRoom ..)
        extract_lets
        split
        · rename_i x2 heq2
          exact hs2.openAnswer ..
        · rename_i x3 _ s3 heq3
          have hs3 : Steady _ s₀ s3 := (hs2.bindCtx ..).of_eq heq3
          extract_lets t s4
          have ht : Steady _ s₀ t.2 := hs3.grantTtl ..
          have hs4 : Steady _ s₀ s4 := ht.newEntry ..
          exact hs4.openAnswer ..

theorem Steady.grantPark {F : List Touch} {s₀ s : State} (h : Steady F s₀ s) (p i)
    (hF : Touch.within [.fresh, .out, .regs, .cnt, .mem, .movers, .reqs, .convs, .tier, .qps, .digs, .pwr, .pcie,
        .anyPage, .page .pwr, .page .pcie, .page .tier, .page .move] F = true := by rfl) :
    Steady F s₀ (s.grantPark p i) := by
  refine h.widen (fun s₀ h => ?_) hF
  unfold State.grantPark
  extract_lets
  split
  · exact (h.count ..).parkWait ..
  · extract_lets s1 _ s2 s3
    have hs1 : Steady _ s₀ s1 := h.setFldAt ..
    have hs2 : Steady _ s₀ s2 := hs1.draw
    have hs3 : Steady [.fresh, .out, .regs, .cnt, .mem, .movers, .reqs, .convs, .tier, .qps, .digs, .pwr, .pcie,
        .anyPage, .page .pwr, .page .pcie, .page .tier, .page .move] s₀ s3 := by
      unfold s3
      split
      · extract_lets s4
        have hs4 : Steady _ s₀ s4 := hs2.setConv ..
        exact .ite hs4 (hs4.hostWr ..)
      · exact hs2
    exact (hs3.setCtx ..).parkLayer ..

theorem Steady.openAck {F : List Touch} {s₀ s : State} (h : Steady F s₀ s) (p m)
    (hF : Touch.within [.fresh, .out, .regs, .cnt, .mem, .movers, .tenants, .reqs, .convs, .tier, .qps, .digs,
        .pwr, .pcie, .anyPage, .page .pwr, .page .pcie, .page .tier, .page .move, .page .admt] F = true := by rfl) :
    Steady F s₀ (s.openAck p m) := by
  refine h.widen (fun s₀ h => ?_) hF
  unfold State.openAck
  exact .ite h (.ite (.ite ((h.updReq ..).post ..) (((h.setCtx ..).openRefused ..).qpsFreed ..)) (.ite (.ite
      ((h.setCtx ..).grantPark ..) (h.tryPark ..)) h))

theorem Steady.pinEntry {F : List Touch} {s₀ s : State} (h : Steady F s₀ s) (p i resume)
    (hF : Touch.within [.out, .regs, .cnt, .mem, .movers, .tier, .srch, .digs, .pwr, .pcie, .page .pwr, .page
        .pcie, .page .tier, .page .move] F = true := by rfl) :
    Steady F s₀ (s.pinEntry p i resume) := by
  refine h.widen (fun s₀ h => ?_) hF
  unfold State.pinEntry
  extract_lets _ _ _ _ s1
  have hs1 : Steady _ s₀ s1 := h.upd [.srch]
  exact hs1.setEntry ..

theorem Steady.pullReqIn {F : List Touch} {s₀ s : State} (h : Steady F s₀ s) (p m)
    (hF : Touch.within [.fresh, .out, .regs, .cnt, .mem, .movers, .tier, .qps, .srch, .digs, .pwr, .pcie, .page
        .pwr, .page .pcie, .page .tier, .page .move, .page .srch] F = true := by rfl) :
    Steady F s₀ (s.pullReqIn p m) := by
  refine h.widen (fun s₀ h => ?_) hF
  unfold State.pullReqIn
  extract_lets _ nak _ entry
  have hnak : ∀ x0 x1, Steady [.fresh, .out, .regs, .cnt, .mem, .movers, .tier, .qps, .srch, .digs, .pwr, .pcie,
      .page .pwr, .page .pcie, .page .tier, .page .move, .page .srch] s₀ x0 → Steady [.fresh, .out, .regs, .cnt,
      .mem, .movers, .tier, .qps, .srch, .digs, .pwr, .pcie, .page .pwr, .page .pcie, .page .tier, .page .move,
      .page .srch] s₀ (nak x0 x1) :=
    (fun u _ hu => hu.moverSend ..)
  split
  · exact hnak _ _ h
  · split
    · exact hnak _ _ h
    · split
      · rename_i x heq
        exact hnak _ _ h
      · rename_i x1 _ s1 heq1
        have hs1 : Steady _ s₀ s1 := (h.draw.bindCtx ..).of_eq heq1
        extract_lets s2 s3
        have hs2 : Steady [.fresh, .out, .regs, .cnt, .mem, .movers, .tier, .qps, .srch, .digs, .pwr, .pcie, .page
            .pwr, .page .pcie, .page .tier, .page .move, .page .srch] s₀ s2 := by
          unfold s2
          clear_value entry
          split
          · exact hs1.pinEntry ..
          · exact hs1
        have hs3 : Steady _ s₀ s3 := .ite (hs2.count ..) hs2
        exact hs3.sendServe ..

theorem Steady.abortPulls {F : List Touch} {s₀ s : State} (h : Steady F s₀ s) (c code)
    (hF : Touch.within [.out, .regs, .cnt, .mem, .movers, .tier, .rrc, .engines, .qps, .srch, .units, .digs, .pwr,
        .pcie, .far, .page .rstc, .page .pwr, .page .pcie, .page .tier, .page .move, .page .feng, .page .srch,
        .page .mon] F = true := by rfl) :
    Steady F s₀ (s.abortPulls c code) := by
  refine h.widen (fun s₀ h => ?_) hF
  unfold State.abortPulls
  exact h.each (fun u _ hu => by
      split
      · exact .ite (hu.abortMig ..) hu
      · exact hu) ..

theorem Steady.dropRun {F : List Touch} {s₀ s : State} (h : Steady F s₀ s) (p code i)
    (hF : Touch.within [.out, .regs, .cnt, .mem, .movers, .tier, .rrc, .engines, .qps, .srch, .units, .digs, .pwr,
        .pcie, .far, .page .rstc, .page .pwr, .page .pcie, .page .tier, .page .move, .page .feng, .page .srch,
        .page .mon] F = true := by rfl) :
    Steady F s₀ (s.dropRun p code i) := by
  refine h.widen (fun s₀ h => ?_) hF
  unfold State.dropRun
  extract_lets _ s1
  have hs1 : Steady _ s₀ s1 := (h.abortPulls ..).forgetRemote ..
  exact hs1.setCtx ..

theorem Steady.pullNakIn {F : List Touch} {s₀ s : State} (h : Steady F s₀ s) (p m)
    (hF : Touch.within [.out, .regs, .cnt, .mem, .movers, .tier, .rrc, .engines, .qps, .srch, .units, .digs, .pwr,
        .pcie, .far, .page .rstc, .page .pwr, .page .pcie, .page .tier, .page .move, .page .feng, .page .srch,
        .page .mon] F = true := by rfl) :
    Steady F s₀ (s.pullNakIn p m) := by
  refine h.widen (fun s₀ h => ?_) hF
  unfold State.pullNakIn
  exact .ite h (.ite ((h.each (fun u _ hu => hu.dropRun ..) ..).when (fun u1 hu1 => hu1.count ..) ..)
      (h.abortPulls ..))

theorem Steady.closeAnswer {F : List Touch} {s₀ s : State} (h : Steady F s₀ s) (p m)
    (hF : Touch.within [.movers] F = true := by rfl) :
    Steady F s₀ (s.closeAnswer p m) := by
  refine h.widen (fun s₀ h => ?_) hF
  unfold State.closeAnswer
  exact h.moverSend ..

theorem Steady.closeRx {F : List Touch} {s₀ s : State} (h : Steady F s₀ s) (p i code)
    (hF : Touch.within [.fresh, .out, .regs, .cnt, .mem, .movers, .reqs, .tier, .engines, .qps, .digs, .pwr, .pcie,
        .page .pwr, .page .pcie, .page .tier, .page .move, .page .feng] F = true := by rfl) :
    Steady F s₀ (s.closeRx p i code) := by
  refine h.widen (fun s₀ h => ?_) hF
  unfold State.closeRx
  extract_lets _ s1 _ s2 s3
  have hs1 : Steady _ s₀ s1 := .ite (h.qpsError ..) h
  have hs2 : Steady _ s₀ s2 := hs1.each (fun u _ hu => hu.each (fun u1 _ hu1 => by
      extract_lets
      split
      · exact hu1.freePage ..
      · exact hu1) ..) ..
  have hs3 : Steady _ s₀ s3 := hs2.failCtx ..
  exact (hs3.setCtx ..).returnQps ..

theorem Steady.closeEntry {F : List Touch} {s₀ s : State} (h : Steady F s₀ s) (p m)
    (hF : Touch.within [.out, .regs, .cnt, .mem, .movers, .tier, .digs, .pwr, .pcie, .page .pwr, .page .pcie, .page
        .tier, .page .move] F = true := by rfl) :
    Steady F s₀ (s.closeEntry p m) := by
  refine h.widen (fun s₀ h => ?_) hF
  unfold State.closeEntry
  split
  · exact h
  · exact (h.freeEntryPages ..).setEntry ..

theorem Steady.handBack {F : List Touch} {s₀ s : State} (h : Steady F s₀ s) (p v)
    (hF : Touch.within [.fresh, .out, .regs, .cnt, .mem, .movers, .reqs, .convs, .tier, .qps, .units, .digs, .pwr,
        .pcie, .anyPage, .page .pwr, .page .pcie, .page .tier, .page .move, .page .admt, .page .srch, .page .mon] F
        = true := by rfl) :
    Steady F s₀ (s.handBack p v) := by
  refine h.widen (fun s₀ h => ?_) hF
  unfold State.handBack
  extract_lets _ s1
  have hs1 : Steady _ s₀ s1 := (h.reserve ..).count ..
  exact .ite ((hs1.setConv ..).startResume ..) h

theorem Steady.closeIn {F : List Touch} {s₀ s : State} (h : Steady F s₀ s) (p m)
    (hF : Touch.within [.fresh, .out, .regs, .cnt, .mem, .movers, .reqs, .convs, .tier, .engines, .qps, .units,
        .digs, .pwr, .pcie, .anyPage, .page .pwr, .page .pcie, .page .tier, .page .move, .page .admt, .page .feng,
        .page .srch, .page .mon] F = true := by rfl) :
    Steady F s₀ (s.closeIn p m) := by
  refine h.widen (fun s₀ h => ?_) hF
  unfold State.closeIn
  extract_lets handed _ s1
  have hs1 : Steady _ s₀ s1 := h.each (fun u _ hu => hu.closeRx ..) ..
  clear_value handed
  split
  · exact h.handBack ..
  · exact (hs1.closeEntry ..).closeAnswer ..

theorem Steady.closeAckIn {F : List Touch} {s₀ s : State} (h : Steady F s₀ s) (p m)
    (hF : Touch.within [.fresh, .out, .regs, .cnt, .mem, .movers, .reqs, .tier, .engines, .qps, .digs, .pwr, .pcie,
        .page .pwr, .page .pcie, .page .tier, .page .move] F = true := by rfl) :
    Steady F s₀ (s.closeAckIn p m) := by
  refine h.widen (fun s₀ h => ?_) hF
  unfold State.closeAckIn
  exact .ite ((h.setCtx ..).returnQps ..) h

theorem Steady.expireIn {F : List Touch} {s₀ s : State} (h : Steady F s₀ s) (p m)
    (hF : Touch.within [.tenants, .convs, .tier] F = true := by rfl) :
    Steady F s₀ (s.expireIn p m) := by
  refine h.widen (fun s₀ h => ?_) hF
  unfold State.expireIn
  split
  · exact h
  · extract_lets s1 s2
    have hs1 : Steady _ s₀ s1 := h.forgetRemote ..
    have hs2 : Steady _ s₀ s2 := .ite (hs1.dropConv ..) hs1
    exact hs2.pushRec ..

theorem Steady.message {F : List Touch} {s₀ s : State} (h : Steady F s₀ s) (q b)
    (hF : Touch.within [.fresh, .out, .regs, .cnt, .mem, .movers, .tenants, .reqs, .convs, .tier, .rrc, .engines,
        .qps, .srch, .units, .digs, .pwr, .pcie, .far, .anyPage, .page .rstc, .page .pwr, .page .pcie, .page .tier,
        .page .move, .page .admt, .page .feng, .page .srch, .page .mon] F = true := by rfl) :
    Steady F s₀ (s.message q b) := by
  refine h.widen (fun s₀ h => ?_) hF
  unfold State.message
  extract_lets
  exact h.moverOn (fun u hu => by
      split
      · exact hu.openPush ..
      · exact hu.openPark ..
      · exact hu.openAck ..
      · exact hu.pullReqIn ..
      · exact hu.pullNakIn ..
      · exact hu.closeIn ..
      · exact hu.closeAckIn ..
      · exact hu.expireIn ..
      · exact hu.count ..) ..

theorem execQsend_steady {F : List Touch} {s₀ s : State} (h : Steady F s₀ s) (r)
    (hF : Touch.within [.fresh, .out, .regs, .cnt, .mem, .movers, .tenants, .reqs, .convs, .tier, .rrc, .engines,
        .qps, .srch, .units, .digs, .pwr, .pcie, .far, .anyPage, .page .rstc, .page .pwr, .page .pcie, .page .tier,
        .page .move, .page .admt, .page .feng, .page .srch, .page .mon] F = true := by rfl) :
    SteadyNext F s₀ (execQsend r s) := by
  refine h.widenNext (fun s₀ h => ?_) hF
  unfold execQsend
  exact .next (h.qsend (fun u _ _ hu => hu.message ..) ..)

theorem execOpenPush_steady {F : List Touch} {s₀ s : State} (h : Steady F s₀ s) (p m)
    (hF : Touch.within [.movers] F = true := by rfl) :
    SteadyNext F s₀ (execOpenPush p m s) := by
  refine h.widenNext (fun s₀ h => ?_) hF
  unfold execOpenPush
  exact .next (h.moverOn (fun u hu => hu.openPush ..) ..)

theorem execOpenPark_steady {F : List Touch} {s₀ s : State} (h : Steady F s₀ s) (p m)
    (hF : Touch.within [.out, .regs, .cnt, .mem, .movers, .tier, .digs, .pwr, .pcie, .page .pwr, .page .pcie, .page
        .tier, .page .move, .page .srch] F = true := by rfl) :
    SteadyNext F s₀ (execOpenPark p m s) := by
  refine h.widenNext (fun s₀ h => ?_) hF
  unfold execOpenPark
  exact .next (h.moverOn (fun u hu => hu.openPark ..) ..)

theorem execOpenAck_steady {F : List Touch} {s₀ s : State} (h : Steady F s₀ s) (p m)
    (hF : Touch.within [.fresh, .out, .regs, .cnt, .mem, .movers, .tenants, .reqs, .convs, .tier, .qps, .digs,
        .pwr, .pcie, .anyPage, .page .pwr, .page .pcie, .page .tier, .page .move, .page .admt] F = true := by rfl) :
    SteadyNext F s₀ (execOpenAck p m s) := by
  refine h.widenNext (fun s₀ h => ?_) hF
  unfold execOpenAck
  exact .next (h.moverOn (fun u hu => hu.openAck ..) ..)

theorem execPullReq_steady {F : List Touch} {s₀ s : State} (h : Steady F s₀ s) (p m)
    (hF : Touch.within [.fresh, .out, .regs, .cnt, .mem, .movers, .tier, .qps, .srch, .digs, .pwr, .pcie, .page
        .pwr, .page .pcie, .page .tier, .page .move, .page .srch] F = true := by rfl) :
    SteadyNext F s₀ (execPullReq p m s) := by
  refine h.widenNext (fun s₀ h => ?_) hF
  unfold execPullReq
  exact .next (h.moverOn (fun u hu => hu.pullReqIn ..) ..)

theorem execPullNak_steady {F : List Touch} {s₀ s : State} (h : Steady F s₀ s) (p m)
    (hF : Touch.within [.out, .regs, .cnt, .mem, .movers, .tier, .rrc, .engines, .qps, .srch, .units, .digs, .pwr,
        .pcie, .far, .page .rstc, .page .pwr, .page .pcie, .page .tier, .page .move, .page .feng, .page .srch,
        .page .mon] F = true := by rfl) :
    SteadyNext F s₀ (execPullNak p m s) := by
  refine h.widenNext (fun s₀ h => ?_) hF
  unfold execPullNak
  exact .next (h.moverOn (fun u hu => hu.pullNakIn ..) ..)

theorem execClose_steady {F : List Touch} {s₀ s : State} (h : Steady F s₀ s) (p m)
    (hF : Touch.within [.fresh, .out, .regs, .cnt, .mem, .movers, .reqs, .convs, .tier, .engines, .qps, .units,
        .digs, .pwr, .pcie, .anyPage, .page .pwr, .page .pcie, .page .tier, .page .move, .page .admt, .page .feng,
        .page .srch, .page .mon] F = true := by rfl) :
    SteadyNext F s₀ (execClose p m s) := by
  refine h.widenNext (fun s₀ h => ?_) hF
  unfold execClose
  exact .next (h.moverOn (fun u hu => hu.closeIn ..) ..)

theorem execCloseAck_steady {F : List Touch} {s₀ s : State} (h : Steady F s₀ s) (p m)
    (hF : Touch.within [.fresh, .out, .regs, .cnt, .mem, .movers, .reqs, .tier, .engines, .qps, .digs, .pwr, .pcie,
        .page .pwr, .page .pcie, .page .tier, .page .move] F = true := by rfl) :
    SteadyNext F s₀ (execCloseAck p m s) := by
  refine h.widenNext (fun s₀ h => ?_) hF
  unfold execCloseAck
  exact .next (h.moverOn (fun u hu => hu.closeAckIn ..) ..)

theorem execExpire_steady {F : List Touch} {s₀ s : State} (h : Steady F s₀ s) (p m)
    (hF : Touch.within [.tenants, .convs, .tier] F = true := by rfl) :
    SteadyNext F s₀ (execExpire p m s) := by
  refine h.widenNext (fun s₀ h => ?_) hF
  unfold execExpire
  exact .next (h.moverOn (fun u hu => hu.expireIn ..) ..)

theorem execMoverStageCopyDone_steady {F : List Touch} {s₀ s : State} (h : Steady F s₀ s) (p pass layer)
    (hF : Touch.within [.out, .regs, .cnt, .mem, .movers, .tier, .engines, .digs, .pwr, .pcie, .page .pwr, .page
        .pcie, .page .tier, .page .move, .page .feng] F = true := by rfl) :
    SteadyNext F s₀ (execMoverStageCopyDone p pass layer s) := by
  refine h.widenNext (fun s₀ h => ?_) hF
  unfold execMoverStageCopyDone
  extract_lets
  exact .next (h.moverOn (fun u hu => by
      extract_lets _ s1
      have hs1 : Steady _ s₀ s1 := hu.each (fun u1 _ hu1 => by
      extract_lets s2
      have hs2 : Steady _ s₀ s2 := hu1.gatherSide ..
      exact hs2.setCtx ..) ..
      exact .ite hu (hs1.trigEvent ..)) ..)

theorem Steady.attachRecords {F : List Touch} {s₀ s : State} (h : Steady F s₀ s) (c r)
    (hF : Touch.within [.tier] F = true := by rfl) :
    Steady F s₀ (s.attachRecords c r).2 := by
  refine h.widen (fun s₀ h => ?_) hF
  unfold State.attachRecords
  extract_lets
  exact .ite_snd h (.foldl_snd h (fun a _ ha => by
      extract_lets _ x
      have hx : Steady _ s₀ x.2 := ha.setSide ..
      exact hx))

theorem Steady.layerWhole {F : List Touch} {s₀ s : State} (h : Steady F s₀ s) (p i layer)
    (hF : Touch.within [.fresh, .out, .regs, .cnt, .mem, .movers, .reqs, .convs, .tier, .qps, .digs, .pwr, .pcie,
        .page .pwr, .page .pcie, .page .tier, .page .move, .page .srch] F = true := by rfl) :
    Steady F s₀ (s.layerWhole p i layer) := by
  refine h.widen (fun s₀ h => ?_) hF
  unfold State.layerWhole
  extract_lets _ s1 _ s2
  have hs1 : Steady _ s₀ s1 := .ite (h.advance ..) (h.setCtx ..)
  have hs2 : Steady _ s₀ s2 := (hs1.setCtx ..).qpsFreed ..
  split
  · exact hs1
  · split
    · exact (hs2.entryLive ..).count ..
    · split
      · exact .ite (hs2.parkNow ..) hs2
      · exact hs2

theorem Steady.layerIn {F : List Touch} {s₀ s : State} (h : Steady F s₀ s) (p i layer q)
    (hF : Touch.within [.fresh, .out, .regs, .cnt, .mem, .movers, .reqs, .convs, .tier, .qps, .digs, .pwr, .pcie,
        .page .pwr, .page .pcie, .page .tier, .page .move, .page .srch] F = true := by rfl) :
    Steady F s₀ (s.layerIn p i layer q) := by
  refine h.widen (fun s₀ h => ?_) hF
  unfold State.layerIn
  extract_lets _ _ _ _ s1
  have hs1 : Steady _ s₀ s1 := h.setCtx ..
  exact .ite (hs1.layerWhole ..) hs1

theorem Steady.pulledBy {F : List Touch} {s₀ s : State} (h : Steady F s₀ s) (c q code)
    (hF : Touch.within [.out, .regs, .cnt, .mem, .movers, .tier, .rrc, .engines, .qps, .srch, .units, .digs, .pwr,
        .pcie, .far, .page .rstc, .page .pwr, .page .pcie, .page .tier, .page .move, .page .feng, .page .srch,
        .page .mon] F = true := by rfl) :
    Steady F s₀ (s.pulledBy c q code) := by
  refine h.widen (fun s₀ h => ?_) hF
  unfold State.pulledBy
  exact h.each (fun u _ hu => by
      split
      · split
        · split
          · exact .ite (hu.commitMig ..) hu
          · exact hu.abortMig ..
        · exact hu
      · exact hu) ..

theorem execAttachDone_steady {F : List Touch} {s₀ s : State} (h : Steady F s₀ s) (p c unit)
    (hF : Touch.within [.fresh, .out, .regs, .cnt, .mem, .movers, .reqs, .convs, .tier, .rrc, .engines, .qps,
        .srch, .units, .digs, .pwr, .pcie, .far, .page .rstc, .page .pwr, .page .pcie, .page .tier, .page .move,
        .page .feng, .page .srch, .page .mon] F = true := by rfl) :
    SteadyNext F s₀ (execAttachDone p c unit s) := by
  refine h.widenNext (fun s₀ h => ?_) hF
  unfold execAttachDone
  extract_lets
  refine .next ?_
  split
  · exact h
  · extract_lets
    split
    · exact h.setMover ..
    · extract_lets r s1 s2 _ s3
      have hr : Steady _ s₀ r.2 := (h.setMover ..).attachRecords ..
      have hs1 : Steady _ s₀ s1 := hr
      have hs2 : Steady _ s₀ s2 := .ite (hs1.pulledBy ..) hs1
      have hs3 : Steady _ s₀ s3 := .ite (.ite (((hs1.pulledBy ..).sendRuns ..).pullProgress ..) (hs1.layerIn ..))
          ((hs2.noteRefusal ..).setQp ..)
      exact .ite h (.ite hs3 ((hs3.dropWait ..).placeAnswer ..))

theorem execParkRetryTimer_steady {F : List Touch} {s₀ s : State} (h : Steady F s₀ s) (p reqId)
    (hF : Touch.within [.fresh, .out, .regs, .cnt, .mem, .movers, .tenants, .reqs, .convs, .tier, .qps, .units,
        .digs, .pwr, .pcie, .anyPage, .page .pwr, .page .pcie, .page .tier, .page .move, .page .admt, .page .mon] F
        = true := by rfl) :
    SteadyNext F s₀ (execParkRetryTimer p reqId s) := by
  refine h.widenNext (fun s₀ h => ?_) hF
  unfold execParkRetryTimer
  exact .next (h.moverOn (fun u hu => by
      extract_lets _ s1 s2
      have hs1 : Steady _ s₀ s1 := hu.setMover ..
      have hs2 : Steady _ s₀ s2 := .ite (hu.qpsFreed ..) hu
      split
      · split
        · split
          · exact .ite (hs1.grantPark ..) (.ite (hs1.startPark ..) hs1)
          · exact .ite (hs1.startResume ..) (hs1.startPark ..)
          · exact hs1
        · exact hu
      · split
        · exact .ite (hs2.parkNow ..) hs2
        · split
          · exact hs2
          · split
            · exact hs2.relocate ..
            · exact hs2) ..)

theorem Steady.adpEnd {F : List Touch} {s₀ s : State} (h : Steady F s₀ s) (p result)
    (hF : Touch.within [.out, .regs, .cnt, .pcie, .page .pcie, .page .move] F = true := by rfl) :
    Steady F s₀ (s.adpEnd p result) := by
  refine h.widen (fun s₀ h => ?_) hF
  unfold State.adpEnd
  extract_lets s1 s2
  have hs1 : Steady _ s₀ s1 := (h.setFld ..).setFld ..
  have hs2 : Steady _ s₀ s2 := .ite hs1 (hs1.err ..)
  exact hs2.irq ..

theorem Steady.adpGo {F : List Touch} {s₀ s : State} (h : Steady F s₀ s) {f}
    (hf : ∀ x0, Steady F s₀ x0 → Steady F s₀ (f x0)) (p slot op)
    (hF : Touch.within [.regs, .cnt, .page .move] F = true := by rfl) :
    Steady F s₀ (s.adpGo p slot op f) := by
  unfold State.adpGo
  exact h.ifReady (fun u hu => .ite (hu.err (hF := Touch.within_trans rfl hF)
      (hP := Touch.pageIn_trans rfl hF) ..) (hf _ ((hu.setFld (hF := Touch.within_trans rfl hF)
      (hP := Touch.pageIn_trans rfl hF) ..).setFld (hF := Touch.within_trans rfl hF)
      (hP := Touch.pageIn_trans rfl hF) ..))) ..

theorem Steady.adpRetire {F : List Touch} {s₀ s : State} (h : Steady F s₀ s) (p k)
    (hF : Touch.within [.regs, .anyPage] F = true := by rfl) :
    Steady F s₀ (s.adpRetire p k) := by
  refine h.widen (fun s₀ h => ?_) hF
  unfold State.adpRetire
  exact h.setFldAt ..

theorem execAdpLoad_steady {F : List Touch} {s₀ s : State} (h : Steady F s₀ s) (p slot)
    (hF : Touch.within [.out, .regs, .cnt, .movers, .pcie, .anyPage, .page .pcie, .page .move] F = true := by rfl) :
    SteadyNext F s₀ (execAdpLoad p slot s) := by
  refine h.widenNext (fun s₀ h => ?_) hF
  unfold execAdpLoad
  exact .next (h.adpGo (fun u hu => by
      extract_lets _ _ _ _ s1
      have hs1 : Steady _ s₀ s1 := (hu.setFldAt ..).setFld ..
      exact .ite (hu.adpEnd ..) (.ite (hu.adpEnd ..) (.ite (hu.adpEnd ..) (hs1.setMover ..)))) ..)

theorem Steady.adpReady {F : List Touch} {s₀ s : State} (h : Steady F s₀ s) (p a)
    (hF : Touch.within [.regs, .anyPage] F = true := by rfl) :
    Steady F s₀ (s.adpReady p a) := by
  refine h.widen (fun s₀ h => ?_) hF
  unfold State.adpReady
  extract_lets s1 s2 s3
  have hs1 : Steady _ s₀ s1 := h.each (fun u _ hu => .ite (hu.adpRetire ..) hu) ..
  have hs2 : Steady _ s₀ s2 := (hs1.setFldAt ..).setFldAt ..
  have hs3 : Steady _ s₀ s3 := (hs2.setFldAt ..).setFldAt ..
  exact hs3.setFldAt ..

theorem execAdpLoadDone_steady {F : List Touch} {s₀ s : State} (h : Steady F s₀ s) (p fault)
    (hF : Touch.within [.out, .regs, .cnt, .mem, .movers, .tier, .digs, .pwr, .pcie, .anyPage, .page .pwr, .page
        .pcie, .page .tier, .page .move] F = true := by rfl) :
    SteadyNext F s₀ (execAdpLoadDone p fault s) := by
  refine h.widenNext (fun s₀ h => ?_) hF
  unfold execAdpLoadDone
  extract_lets ended
  have hended : ∀ x0, Steady [.out, .regs, .cnt, .mem, .movers, .tier, .digs, .pwr, .pcie, .anyPage, .page .pwr,
      .page .pcie, .page .tier, .page .move] s₀ x0 → Steady [.out, .regs, .cnt, .mem, .movers, .tier, .digs, .pwr,
      .pcie, .anyPage, .page .pwr, .page .pcie, .page .tier, .page .move] s₀ (ended x0) :=
    (fun u hu => hu.setMover ..)
  refine .next ?_
  split
  · exact h
  · extract_lets _ lost
    have hlost : ∀ x0, Steady [.out, .regs, .cnt, .mem, .movers, .tier, .digs, .pwr, .pcie, .anyPage, .page .pwr,
        .page .pcie, .page .tier, .page .move] s₀ x0 → Steady [.out, .regs, .cnt, .mem, .movers, .tier, .digs,
        .pwr, .pcie, .anyPage, .page .pwr, .page .pcie, .page .tier, .page .move] s₀ (lost x0) :=
      (fun u1 hu1 => ((hended _ hu1).setFldAt ..).adpEnd ..)
    split
    · exact hlost _ h
    · split
      · rename_i x s1 heq
        have hs1 : Steady _ s₀ s1 := .of_snd heq (h.ownRead ..)
        exact hs1
      · rename_i x1 s2 heq1
        have hs2 : Steady _ s₀ s2 := .of_snd heq1 (h.ownRead ..)
        exact (((hended _ hs2).put ..).adpReady ..).adpEnd ..
      · rename_i x2 _ s3 _ _ heq2
        have hs3 : Steady _ s₀ s3 := .of_snd heq2 (h.ownRead ..)
        exact hlost _ hs3

theorem execAdpRetire_steady {F : List Touch} {s₀ s : State} (h : Steady F s₀ s) (p slot)
    (hF : Touch.within [.out, .regs, .cnt, .pcie, .anyPage, .page .pcie, .page .move] F = true := by rfl) :
    SteadyNext F s₀ (execAdpRetire p slot s) := by
  refine h.widenNext (fun s₀ h => ?_) hF
  unfold execAdpRetire
  exact .next (h.adpGo (fun u hu => .ite ((hu.adpRetire ..).adpEnd ..) (hu.adpEnd ..)) ..)

theorem execAdpForce_steady {F : List Touch} {s₀ s : State} (h : Steady F s₀ s) (p slot)
    (hF : Touch.within [.fresh, .out, .regs, .cnt, .mem, .movers, .tenants, .reqs, .convs, .tier, .rrc, .engines,
        .qps, .srch, .units, .digs, .pwr, .pcie, .far, .anyPage, .page .rstc, .page .pwr, .page .pcie, .page .tier,
        .page .move, .page .feng, .page .srch, .page .mon] F = true := by rfl) :
    SteadyNext F s₀ (execAdpForce p slot s) := by
  refine h.widenNext (fun s₀ h => ?_) hF
  unfold execAdpForce
  exact .next (h.adpGo (fun u hu => by
      extract_lets _ s1
      have hs1 : Steady _ s₀ s1 := hu.each (fun u1 _ hu1 => (hu1.abortReq ..).count ..) ..
      exact .ite ((hs1.adpRetire ..).adpEnd ..) (hu.adpEnd ..)) ..)

end Sys2Proof.Machine
end


section
/-! PROOFS. What the operations of Cache.lean keep: cache entries over time, and the match of a prompt. -/

namespace Sys2Proof.Machine
open Sys2Proof

theorem execCacheTtlTick_steady {F : List Touch} {s₀ s : State} (h : Steady F s₀ s) (p)
    (hF : Touch.within [.out, .regs, .cnt, .mem, .movers, .tier, .digs, .pwr, .pcie, .page .pwr, .page .pcie, .page
        .tier, .page .move, .page .srch] F = true := by rfl) :
    SteadyNext F s₀ (execCacheTtlTick p s) := by
  refine h.widenNext (fun s₀ h => ?_) hF
  unfold execCacheTtlTick
  exact .next (h.each (fun u _ hu => .ite (.ite (hu.expireEntry ..) (hu.setEntry ..)) hu) ..)

theorem execOrphanTimeout_steady {F : List Touch} {s₀ s : State} (h : Steady F s₀ s) (p entry)
    (hF : Touch.within [.out, .regs, .cnt, .mem, .movers, .tier, .digs, .pwr, .pcie, .page .pwr, .page .pcie, .page
        .tier, .page .move, .page .srch] F = true := by rfl) :
    SteadyNext F s₀ (execOrphanTimeout p entry s) := by
  refine h.widenNext (fun s₀ h => ?_) hF
  unfold execOrphanTimeout
  exact .next (.ite (h.expireEntry ..) h)

theorem Steady.pullPrefix {F : List Touch} {s₀ s : State} (h : Steady F s₀ s) (p c0 cache node key run)
    (hF : Touch.within [.fresh, .out, .regs, .cnt, .mem, .movers, .reqs, .convs, .tier, .qps, .units, .digs, .pwr,
        .pcie, .anyPage, .page .pwr, .page .pcie, .page .tier, .page .move, .page .mon] F = true := by rfl) :
    Steady F s₀ (s.pullPrefix p c0 cache node key run) := by
  refine h.widen (fun s₀ h => ?_) hF
  unfold State.pullPrefix
  extract_lets
  split
  · exact h.count ..
  · split
    · rename_i x heq
      exact h
    · rename_i x1 _ s1 heq1
      have hs1 : Steady _ s₀ s1 := (h.bindCtx ..).of_eq heq1
      extract_lets s2
      have hs2 : Steady _ s₀ s2 := (hs1.setFldAt ..).each (fun u _ hu => .ite (hu.setRemote ..) hu) ..
      exact (hs2.sendRuns ..).pullProgress ..

theorem execPrefixBucketsLoaded_steady {F : List Touch} {s₀ s : State} (h : Steady F s₀ s)
    (p reqId cache cacheNode key buckets)
    (hF : Touch.within [.fresh, .out, .regs, .cnt, .mem, .movers, .reqs, .convs, .tier, .qps, .units, .digs, .pwr,
        .pcie, .anyPage, .page .pwr, .page .pcie, .page .tier, .page .move, .page .mon] F = true := by rfl) :
    SteadyNext F s₀ (execPrefixBucketsLoaded p reqId cache cacheNode key buckets s) := by
  refine h.widenNext (fun s₀ h => ?_) hF
  unfold execPrefixBucketsLoaded
  exact .next (h.moverOn (fun u hu => by
      split
      · exact .ite hu (hu.each (fun u1 _ hu1 => hu1.pullPrefix ..) ..)
      · exact hu) ..)

end Sys2Proof.Machine
end


section
/-! PROOFS. What the operations of Link.lean keep: ports: flits, replay, credits, traffic classes, training, fault
injection. -/

namespace Sys2Proof.Machine
open Sys2Proof

theorem Steady.injectAt {F : List Touch} {s₀ s : State} (h : Steady F s₀ s) (n rx only)
    (hF : Touch.within [.regs, .cnt, .finj, .anyPage, .page .finj] F = true := by rfl) :
    Steady F s₀ (s.injectAt n rx only).2 := by
  refine h.widen (fun s₀ h => ?_) hF
  unfold State.injectAt
  extract_lets _ _ _ _ _ s1 s2
  have hs1 : Steady _ s₀ s1 := (h.upd [.finj]).count ..
  have hs2 : Steady _ s₀ s2 := hs1.setFldAt ..
  exact .ite_snd h (.ite_snd (h.upd [.finj]) (.ite (hs2.setFld ..) hs2))

theorem Steady.txFlit {F : List Touch} {s₀ s : State} (h : Steady F s₀ s) (n kind seq replay b)
    (hF : Touch.within [.fresh, .out, .regs, .cnt, .finj, .anyPage, .page .port, .page .finj] F = true := by rfl) :
    Steady F s₀ (s.txFlit n kind seq replay b) := by
  refine h.widen (fun s₀ h => ?_) hF
  unfold State.txFlit
  extract_lets r s1
  have hr : Steady _ s₀ r.2 := h.injectAt ..
  have hs1 : Steady _ s₀ s1 := hr.count ..
  split
  · exact hs1.send ..
  · exact hs1
  · exact hs1.send ..
  · exact (hs1.send ..).draw

theorem Steady.bareFlit {F : List Touch} {s₀ s : State} (h : Steady F s₀ s) (n kind ack ackValid retry)
    (hF : Touch.within [.fresh, .out, .regs, .cnt, .ports, .finj, .anyPage, .page .port, .page .finj] F = true :=
        by rfl) :
    Steady F s₀ (s.bareFlit n kind ack ackValid retry) := by
  refine h.widen (fun s₀ h => ?_) hF
  unfold State.bareFlit
  extract_lets _ _ s1
  have hs1 : Steady _ s₀ s1 := h.setPort ..
  exact hs1.txFlit ..

theorem Steady.ackFlit {F : List Touch} {s₀ s : State} (h : Steady F s₀ s) (n ack retry)
    (hF : Touch.within [.fresh, .out, .regs, .cnt, .ports, .finj, .anyPage, .page .port, .page .finj] F = true :=
        by rfl) :
    Steady F s₀ (s.ackFlit n ack retry) := by
  refine h.widen (fun s₀ h => ?_) hF
  unfold State.ackFlit
  exact h.bareFlit ..

theorem Steady.idleFlit {F : List Touch} {s₀ s : State} (h : Steady F s₀ s) (n)
    (hF : Touch.within [.fresh, .out, .regs, .cnt, .ports, .finj, .anyPage, .page .port, .page .finj] F = true :=
        by rfl) :
    Steady F s₀ (s.idleFlit n) := by
  refine h.widen (fun s₀ h => ?_) hF
  unfold State.idleFlit
  exact h.bareFlit ..

theorem Steady.linkLost {F : List Touch} {s₀ s : State} (h : Steady F s₀ s) (n)
    (hF : Touch.within [.out, .regs, .cnt, .ports, .pcie, .page .pcie, .page .port, .page .feng] F = true := by rfl) :
    Steady F s₀ (s.linkLost n) := by
  refine h.widen (fun s₀ h => ?_) hF
  unfold State.linkLost
  extract_lets s1 s2 _ _ s3
  have hs1 : Steady _ s₀ s1 := (h.setFld ..).setFld ..
  have hs2 : Steady _ s₀ s2 := (hs1.count ..).irq ..
  have hs3 : Steady _ s₀ s3 := hs2.setPort ..
  exact .ite h (hs3.each (fun u _ hu => .ite ((hu.setFld ..).irq ..) hu) ..)

theorem Steady.replayAll {F : List Touch} {s₀ s : State} (h : Steady F s₀ s) (n)
    (hF : Touch.within [.fresh, .out, .regs, .cnt, .ports, .finj, .pcie, .anyPage, .page .pcie, .page .port, .page
        .feng, .page .finj] F = true := by rfl) :
    Steady F s₀ (s.replayAll n) := by
  refine h.widen (fun s₀ h => ?_) hF
  unfold State.replayAll
  extract_lets _ s1
  have hs1 : Steady _ s₀ s1 := h.setPort ..
  exact .ite h (.ite (h.linkLost ..) ((hs1.count ..).each (fun u _ hu => hu.txFlit ..) ..))

theorem Steady.piggyback {F : List Touch} {s₀ s : State} (h : Steady F s₀ s) (n f)
    (hF : Touch.within [.fresh, .out, .regs, .cnt, .ports, .finj, .pcie, .anyPage, .page .pcie, .page .port, .page
        .feng, .page .finj] F = true := by rfl) :
    Steady F s₀ (s.piggyback n f) := by
  refine h.widen (fun s₀ h => ?_) hF
  unfold State.piggyback
  extract_lets _ _ s1 _ s2
  have hs1 : Steady _ s₀ s1 := .ite (h.setPort ..) h
  have hs2 : Steady _ s₀ s2 := .ite hs1 (hs1.setPort ..)
  exact .ite (hs2.replayAll ..) hs2

theorem Steady.rxFlit {F : List Touch} {s₀ s : State} (h : Steady F s₀ s) (n f)
    (hF : Touch.within [.regs, .cnt, .finj, .anyPage, .page .port, .page .finj] F = true := by rfl) :
    Steady F s₀ (s.rxFlit n f).2 := by
  refine h.widen (fun s₀ h => ?_) hF
  unfold State.rxFlit
  extract_lets r s1 s2 s3
  have hr : Steady _ s₀ r.2 := h.injectAt ..
  have hs1 : Steady _ s₀ s1 := hr
  have hs2 : Steady _ s₀ s2 := hs1.count ..
  have hs3 : Steady _ s₀ s3 := .ite (hs2.count ..) hs2
  exact .ite_snd h (.ite_snd hs1 (.ite_snd (hs3.count ..) (.ite_snd (hs3.count ..) hs3)))

theorem execDataFlitReceive_steady {F : List Touch} {s₀ s : State} (h : Steady F s₀ s) (n f)
    (hF : Touch.within [.fresh, .out, .regs, .cnt, .ports, .finj, .pcie, .anyPage, .page .pcie, .page .port, .page
        .feng, .page .finj] F = true := by rfl) :
    SteadyNext F s₀ (execDataFlitReceive n f s) := by
  refine h.widenNext (fun s₀ h => ?_) hF
  unfold execDataFlitReceive
  extract_lets r s1 _ _ s2
  have hr : Steady _ s₀ r.2 := h.rxFlit ..
  have hs1 : Steady _ s₀ s1 := hr
  have hs2 : Steady _ s₀ s2 := hs1.setPort ..
  refine .next ?_
  split
  · exact hs1
  · exact .ite (hs2.piggyback ..) (.ite ((hs1.count ..).ackFlit ..) (.ite hs1 ((hs1.setPort ..).ackFlit ..)))

theorem execControlFlitReceive_steady {F : List Touch} {s₀ s : State} (h : Steady F s₀ s) (n f)
    (hF : Touch.within [.fresh, .out, .regs, .cnt, .ports, .finj, .pcie, .anyPage, .page .pcie, .page .port, .page
        .feng, .page .finj] F = true := by rfl) :
    SteadyNext F s₀ (execControlFlitReceive n f s) := by
  refine h.widenNext (fun s₀ h => ?_) hF
  unfold execControlFlitReceive
  extract_lets r
  have hr : Steady _ s₀ r.2 := h.rxFlit ..
  exact .next (.ite (hr.piggyback ..) hr)

theorem execIdleFlitReceive_steady {F : List Touch} {s₀ s : State} (h : Steady F s₀ s) (n f)
    (hF : Touch.within [.fresh, .out, .regs, .cnt, .ports, .finj, .pcie, .anyPage, .page .pcie, .page .port, .page
        .feng, .page .finj] F = true := by rfl) :
    SteadyNext F s₀ (execIdleFlitReceive n f s) := by
  refine h.widenNext (fun s₀ h => ?_) hF
  unfold execIdleFlitReceive
  extract_lets r
  have hr : Steady _ s₀ r.2 := h.rxFlit ..
  exact .next (.ite (hr.piggyback ..) hr)

theorem execFlitAckTimer_steady {F : List Touch} {s₀ s : State} (h : Steady F s₀ s) (n)
    (hF : Touch.within [.fresh, .out, .regs, .cnt, .ports, .finj, .anyPage, .page .port, .page .finj] F = true :=
        by rfl) :
    SteadyNext F s₀ (execFlitAckTimer n s) := by
  refine h.widenNext (fun s₀ h => ?_) hF
  unfold execFlitAckTimer
  exact .next (.ite (h.ackFlit ..) h)

theorem execFlitReplayTimeout_steady {F : List Touch} {s₀ s : State} (h : Steady F s₀ s) (n)
    (hF : Touch.within [.fresh, .out, .regs, .cnt, .ports, .finj, .pcie, .anyPage, .page .pcie, .page .port, .page
        .feng, .page .finj] F = true := by rfl) :
    SteadyNext F s₀ (execFlitReplayTimeout n s) := by
  refine h.widenNext (fun s₀ h => ?_) hF
  unfold execFlitReplayTimeout
  refine .next ?_
  split
  · exact .ite (h.replayAll ..) h
  · exact h

theorem Steady.enqueue {F : List Touch} {s₀ s : State} (h : Steady F s₀ s) (n c b)
    (hF : Touch.within [.regs, .cnt, .ports, .finj, .anyPage, .page .finj] F = true := by rfl) :
    Steady F s₀ (s.enqueue n c b) := by
  refine h.widen (fun s₀ h => ?_) hF
  unfold State.enqueue
  extract_lets r s1
  have hr : Steady _ s₀ r.2 := h.injectAt ..
  have hs1 : Steady _ s₀ s1 := hr
  exact .ite (hs1.setPort ..) (hs1.setPort ..)

theorem Steady.police {F : List Touch} {s₀ s : State} (h : Steady F s₀ s) (n c len)
    (hF : Touch.within [.cnt, .ports, .page .port] F = true := by rfl) :
    SteadyOpt F s₀ (s.police n c len) := by
  refine h.widenOpt (fun s₀ h => ?_) hF
  unfold State.police
  extract_lets _ _ set
  have hset : ∀ x0 x1, Steady [.cnt, .ports, .page .port] s₀ (set x0 x1) :=
    (fun _ _  => h.setPort ..)
  exact .ite .none (.ite (.some ((hset _ _ ).count ..)) (.some (hset _ _ )))

theorem Steady.retryRed {F : List Touch} {s₀ s : State} (h : Steady F s₀ s) (n c a)
    (hF : Touch.within [.regs, .cnt, .ports, .finj, .anyPage, .page .port, .page .finj] F = true := by rfl) :
    Steady F s₀ (s.retryRed n c a) := by
  refine h.widen (fun s₀ h' => ?_) hF
  clear hF h
  rename' h' => h
  induction a generalizing s n c
  case zero  =>
    unfold State.retryRed
    exact h
  case succ n1 ih =>
    unfold State.retryRed
    extract_lets
    split
    · exact h
    · split
      · rename_i x heq
        exact .ite h ((h.setPort ..).count ..)
      · rename_i x1 s1 heq1
        have hs1 : Steady _ s₀ s1 := (h.police ..).of_eq heq1
        extract_lets _ s2
        have hs2 : Steady _ s₀ s2 := hs1.setPort ..
        exact ih (h := hs2.enqueue ..) ..

theorem Steady.retryReds {F : List Touch} {s₀ s : State} (h : Steady F s₀ s) (n)
    (hF : Touch.within [.regs, .cnt, .ports, .finj, .anyPage, .page .port, .page .finj] F = true := by rfl) :
    Steady F s₀ (s.retryReds n) := by
  refine h.widen (fun s₀ h => ?_) hF
  unfold State.retryReds
  exact .ite h (h.each (fun u _ hu => hu.retryRed ..) ..)

theorem execFlitTransmit_steady {F : List Touch} {s₀ s : State} (h : Steady F s₀ s) (n)
    (hF : Touch.within [.fresh, .out, .regs, .cnt, .ports, .finj, .pwr, .anyPage, .page .pwr, .page .port, .page
        .finj] F = true := by rfl) :
    SteadyNext F s₀ (execFlitTransmit n s) := by
  refine h.widenNext (fun s₀ h => ?_) hF
  unfold execFlitTransmit
  extract_lets s1
  have hs1 : Steady _ s₀ s1 := .ite (h.retryReds ..) h
  refine .next ?_
  split
  · exact hs1
  · split
    · exact .ite hs1 (hs1.wakeUnit ..)
    · split
      · exact hs1
      · split
        · exact hs1.idleFlit ..
        · split
          · exact (hs1.count ..).idleFlit ..
          · extract_lets _ _ _ _ _ _ s2
            have hs2 : Steady _ s₀ s2 := hs1.setPort ..
            exact hs2.txFlit ..

theorem execPacketEnterPort_steady {F : List Touch} {s₀ s : State} (h : Steady F s₀ s) (n c bytes)
    (hF : Touch.within [.out, .regs, .cnt, .ports, .finj, .anyPage, .page .port, .page .finj] F = true := by rfl) :
    SteadyNext F s₀ (execPacketEnterPort n c bytes s) := by
  refine h.widenNext (fun s₀ h => ?_) hF
  unfold execPacketEnterPort
  extract_lets
  refine .next ?_
  split
  · split
    · rename_i x t heq
      have ht : Steady _ s₀ t := (h.police ..).of_eq heq
      exact ht.enqueue ..
    · rename_i x1 heq1
      exact (h.count ..).send ..
  · exact (h.setPort ..).retryRed ..

theorem execLinkTrained_steady {F : List Touch} {s₀ s : State} (h : Steady F s₀ s) (n lanes stages)
    (hF : Touch.within [.out, .regs, .cnt, .pcie, .page .pcie, .page .port] F = true := by rfl) :
    SteadyNext F s₀ (execLinkTrained n lanes stages s) := by
  refine h.widenNext (fun s₀ h => ?_) hF
  unfold execLinkTrained
  extract_lets _ _ s1 s2 s3
  have hs1 : Steady _ s₀ s1 := h.setFld ..
  have hs2 : Steady _ s₀ s2 := (hs1.setFld ..).setFld ..
  have hs3 : Steady _ s₀ s3 := (hs2.setFld ..).setFld ..
  exact .next (.ite h (.ite ((hs1.setFld ..).err ..) (hs3.irq ..)))

theorem execLinkDown_steady {F : List Touch} {s₀ s : State} (h : Steady F s₀ s) (n)
    (hF : Touch.within [.out, .regs, .cnt, .ports, .pcie, .page .pcie, .page .port, .page .feng] F = true := by rfl) :
    SteadyNext F s₀ (execLinkDown n s) := by
  refine h.widenNext (fun s₀ h => ?_) hF
  unfold execLinkDown
  exact .next (h.linkLost ..)

theorem execPortCtrlEnableWrite_steady {F : List Touch} {s₀ s : State} (h : Steady F s₀ s) (n enable)
    (hF : Touch.within [.out, .regs, .cnt, .ports, .pcie, .page .pcie, .page .port, .page .feng] F = true := by rfl) :
    SteadyNext F s₀ (execPortCtrlEnableWrite n enable s) := by
  refine h.widenNext (fun s₀ h => ?_) hF
  unfold execPortCtrlEnableWrite
  exact .next (h.ifReady (fun u hu => by
      extract_lets s1
      have hs1 : Steady _ s₀ s1 := hu.setFld ..
      exact .ite hs1 (hs1.linkLost ..)) ..)

theorem execLinkPartnerWake_steady {F : List Touch} {s₀ s : State} (h : Steady F s₀ s) (n)
    (hF : Touch.within [.cnt, .pwr, .page .pwr] F = true := by rfl) :
    SteadyNext F s₀ (execLinkPartnerWake n s) := by
  refine h.widenNext (fun s₀ h => ?_) hF
  unfold execLinkPartnerWake
  exact .next (h.wakeUnit ..)

theorem Steady.tcField {F : List Touch} {s₀ s : State} (h : Steady F s₀ s) (pg f v k reserved)
    (hF : Touch.within [.regs, .cnt, .anyPage] F = true := by rfl) :
    Steady F s₀ (s.tcField pg f v k reserved) := by
  refine h.widen (fun s₀ h => ?_) hF
  unfold State.tcField
  exact .ite (h.rsvEnc ..) (h.setFldAt ..)

theorem execPortTcWrite_steady {F : List Touch} {s₀ s : State} (h : Steady F s₀ s) (n c w v)
    (hF : Touch.within [.out, .regs, .cnt, .pcie, .anyPage, .page .pcie] F = true := by rfl) :
    SteadyNext F s₀ (execPortTcWrite n c w v s) := by
  refine h.widenNext (fun s₀ h => ?_) hF
  unfold execPortTcWrite
  extract_lets
  exact .next (h.ifReady (fun u hu => by
      extract_lets _ _ _ s1
      have hs1 : Steady _ s₀ s1 := .ite ((hu.err ..).irq ..) hu
      split
      · exact .ite (hs1.rsvEnc ..) ((hs1.setFldAt ..).setFldAt ..)
      · exact (hu.tcField ..).tcField ..
      · exact (hu.tcField ..).tcField ..
      · exact hu) ..)

theorem execFinjArm_steady {F : List Touch} {s₀ s : State} (h : Steady F s₀ s) (v)
    (hF : Touch.within [.regs, .cnt, .finj, .page .finj] F = true := by rfl) :
    SteadyNext F s₀ (execFinjArm v s) := by
  refine h.widenNext (fun s₀ h => ?_) hF
  unfold execFinjArm
  extract_lets
  exact .next (h.ifReady (fun u hu => by
      extract_lets s1 s2 s3 s4 s5
      have hs1 : Steady _ s₀ s1 := hu.setFld ..
      have hs2 : Steady _ s₀ s2 := .ite (hs1.rsvEnc ..) (hs1.setFld ..)
      have hs3 : Steady _ s₀ s3 := hs2.setFld ..
      have hs4 : Steady _ s₀ s4 := .ite (hs3.rsvEnc ..) (hs3.setFld ..)
      have hs5 : Steady _ s₀ s5 := hs4.setFld ..
      exact .ite (hu.err ..) (.ite (hs5.upd [.finj]) hs5)) ..)

end Sys2Proof.Machine
end


section
/-! PROOFS. What the operations of Power.lean keep: rails, operating points, power-down modes. -/

namespace Sys2Proof.Machine
open Sys2Proof

theorem execPwrOppWrite_steady {F : List Touch} {s₀ s : State} (h : Steady F s₀ s) (q cap floor)
    (hF : Touch.within [.regs, .cnt, .anyPage, .page .pwr] F = true := by rfl) :
    SteadyNext F s₀ (execPwrOppWrite q cap floor s) := by
  refine h.widenNext (fun s₀ h => ?_) hF
  unfold execPwrOppWrite
  extract_lets
  exact .next (h.ifReady (fun u hu => by
      extract_lets s1
      have hs1 : Steady _ s₀ s1 := .ite (hu.count ..) hu
      exact .ite (hu.rsvEnc ..) ((hs1.setFldAt ..).setFldAt ..)) ..)

theorem execPowerManagerTick_steady {F : List Touch} {s₀ s : State} (h : Steady F s₀ s)
    (hF : Touch.within [.regs, .page .disp] F = true := by rfl) :
    SteadyNext F s₀ (execPowerManagerTick s) := by
  refine h.widenNext (fun s₀ h => ?_) hF
  unfold execPowerManagerTick
  exact .next (h.each (fun u _ hu => hu.setFld ..) ..)

theorem Steady.moveOpp {F : List Touch} {s₀ s : State} (h : Steady F s₀ s) (q target)
    (hF : Touch.within [.out, .pwr] F = true := by rfl) :
    Steady F s₀ (s.moveOpp q target) := by
  refine h.widen (fun s₀ h => ?_) hF
  unfold State.moveOpp
  extract_lets _ _ _ s1
  have hs1 : Steady _ s₀ s1 := .ite (h.send ..) h
  exact .ite (h.upd [.pwr]) (hs1.upd [.pwr])

theorem Steady.limiter {F : List Touch} {s₀ s : State} (h : Steady F s₀ s) (q bitNo on)
    (hF : Touch.within [.out, .regs, .cnt, .pcie, .anyPage, .page .pwr, .page .pcie] F = true := by rfl) :
    Steady F s₀ (s.limiter q bitNo on) := by
  refine h.widen (fun s₀ h => ?_) hF
  unfold State.limiter
  extract_lets _ s1
  have hs1 : Steady _ s₀ s1 := h.setFldAt ..
  exact .ite (hs1.irq ..) hs1

theorem Steady.stepDown {F : List Touch} {s₀ s : State} (h : Steady F s₀ s) (q bitNo)
    (hF : Touch.within [.out, .regs, .cnt, .pwr, .pcie, .anyPage, .page .pwr, .page .pcie] F = true := by rfl) :
    Steady F s₀ (s.stepDown q bitNo) := by
  refine h.widen (fun s₀ h => ?_) hF
  unfold State.stepDown
  extract_lets _ s1
  have hs1 : Steady _ s₀ s1 := h.limiter ..
  exact .ite hs1 ((hs1.countAt ..).moveOpp ..)

theorem Steady.chooseOpp {F : List Touch} {s₀ s : State} (h : Steady F s₀ s) (q busy)
    (hF : Touch.within [.out, .regs, .cnt, .pwr, .pcie, .anyPage, .page .pwr, .page .pcie] F = true := by rfl) :
    Steady F s₀ (s.chooseOpp q busy) := by
  refine h.widen (fun s₀ h => ?_) hF
  unfold State.chooseOpp
  extract_lets _ _ _ s1 s2 _ _ s3 _ _ s4 _ _ s5
  have hs1 : Steady _ s₀ s1 := h.setFldAt ..
  have hs2 : Steady _ s₀ s2 := (Steady.ite (hs1.count ..) hs1).limiter ..
  have hs3 : Steady _ s₀ s3 := (Steady.ite (hs2.count ..) hs2).limiter ..
  have hs4 : Steady _ s₀ s4 := (Steady.ite (hs3.count ..) hs3).limiter ..
  have hs5 : Steady _ s₀ s5 := (Steady.ite (hs4.count ..) hs4).limiter ..
  exact hs5.moveOpp ..

theorem execOppTick_steady {F : List Touch} {s₀ s : State} (h : Steady F s₀ s) (busy)
    (hF : Touch.within [.out, .regs, .cnt, .pwr, .pcie, .anyPage, .page .pwr, .page .pcie] F = true := by rfl) :
    SteadyNext F s₀ (execOppTick busy s) := by
  refine h.widenNext (fun s₀ h => ?_) hF
  unfold execOppTick
  extract_lets s1
  have hs1 : Steady _ s₀ s1 := h.each (fun u _ hu => hu.chooseOpp ..) ..
  exact .next (hs1.upd [.pwr])

theorem execOppTransitionDone_steady {F : List Touch} {s₀ s : State} (h : Steady F s₀ s) (q)
    (hF : Touch.within [.out, .regs, .cnt, .pwr, .anyPage, .page .pwr] F = true := by rfl) :
    SteadyNext F s₀ (execOppTransitionDone q s) := by
  refine h.widenNext (fun s₀ h => ?_) hF
  unfold execOppTransitionDone
  extract_lets
  refine .next ?_
  split
  · exact h
  · extract_lets _ s1 s2
    have hs1 : Steady _ s₀ s1 := (h.setFldAt ..).count ..
    have hs2 : Steady _ s₀ s2 := .ite (hs1.send ..) hs1
    exact hs2.moveOpp ..

theorem Steady.setTemp {F : List Touch} {s₀ s : State} (h : Steady F s₀ s) (temp sensor)
    (hF : Touch.within [.regs, .page .pwr] F = true := by rfl) :
    Steady F s₀ (s.setTemp temp sensor) := by
  refine h.widen (fun s₀ h => ?_) hF
  unfold State.setTemp
  exact (h.setFld ..).setFld ..

theorem execThermalLimit_steady {F : List Touch} {s₀ s : State} (h : Steady F s₀ s) (q temp sensor)
    (hF : Touch.within [.out, .regs, .cnt, .pwr, .pcie, .anyPage, .page .pwr, .page .pcie] F = true := by rfl) :
    SteadyNext F s₀ (execThermalLimit q temp sensor s) := by
  refine h.widenNext (fun s₀ h => ?_) hF
  unfold execThermalLimit
  extract_lets _ s1 _ _ _ s2
  have hs1 : Steady _ s₀ s1 := h.setTemp ..
  have hs2 : Steady _ s₀ s2 := hs1.upd [.pwr]
  exact .next (.ite (.ite hs2 (hs2.stepDown ..)) (.ite (hs1.upd [.pwr]) (.ite (hs1.upd [.pwr]) hs1)))

theorem execDroopDetect_steady {F : List Touch} {s₀ s : State} (h : Steady F s₀ s) (q)
    (hF : Touch.within [.out, .regs, .cnt, .pwr, .pcie, .anyPage, .page .pwr, .page .pcie] F = true := by rfl) :
    SteadyNext F s₀ (execDroopDetect q s) := by
  refine h.widenNext (fun s₀ h => ?_) hF
  unfold execDroopDetect
  extract_lets _ _ s1
  have hs1 : Steady _ s₀ s1 := (h.upd [.pwr]).count ..
  exact .next (.ite (hs1.stepDown ..) hs1)

theorem execRailReadComplete_steady {F : List Touch} {s₀ s : State} (h : Steady F s₀ s) (rail reading)
    (hF : Touch.within [.fresh, .out, .regs, .cnt, .mem, .movers, .tier, .digs, .elog, .qrm, .pwr, .pcie, .anyPage,
        .page .pwr, .page .pcie, .page .tier, .page .move, .page .elog] F = true := by rfl) :
    SteadyNext F s₀ (execRailReadComplete rail reading s) := by
  refine h.widenNext (fun s₀ h => ?_) hF
  unfold execRailReadComplete
  extract_lets _ _ _ s1
  have hs1 : Steady _ s₀ s1 := h.upd [.pwr]
  refine .next ?_
  split
  · exact h
  · split
    · extract_lets s2 _ s3
      have hs2 : Steady _ s₀ s2 := (h.setFldAt ..).setFldAt ..
      have hs3 : Steady _ s₀ s3 := hs2.upd [.pwr]
      exact .ite ((hs3.upd [.pwr]).stepDown ..) hs3
    · exact .ite (hs1.record ..) hs1

theorem Steady.lpClear {F : List Touch} {s₀ s : State} (h : Steady F s₀ s) (u)
    (hF : Touch.within [.regs, .cnt, .pwr, .anyPage, .page .pwr] F = true := by rfl) :
    Steady F s₀ (s.lpClear u) := by
  refine h.widen (fun s₀ h => ?_) hF
  unfold State.lpClear
  exact (h.setFldAt ..).wakeUnit ..

theorem Steady.lpMask {F : List Touch} {s₀ s : State} (h : Steady F s₀ s) (f units v)
    (hF : Touch.within [.regs, .cnt, .pwr, .anyPage, .page .pwr] F = true := by rfl) :
    Steady F s₀ (s.lpMask f units v) := by
  refine h.widen (fun s₀ h => ?_) hF
  unfold State.lpMask
  extract_lets s1
  have hs1 : Steady _ s₀ s1 := h.setFldAt ..
  exact hs1.each (fun u _ hu => .ite hu (hu.wakeUnit ..)) ..

theorem execPowerDownMaskWrite_steady {F : List Touch} {s₀ s : State} (h : Steady F s₀ s) (which v)
    (hF : Touch.within [.regs, .cnt, .pwr, .anyPage, .page .pwr] F = true := by rfl) :
    SteadyNext F s₀ (execPowerDownMaskWrite which v s) := by
  refine h.widenNext (fun s₀ h => ?_) hF
  unfold execPowerDownMaskWrite
  extract_lets
  exact .next (h.ifReady (fun u hu => by
      split
      · exact hu.lpMask ..
      · exact hu.lpMask ..
      · exact hu.lpMask ..
      · exact (hu.lpMask ..).lpMask ..) ..)

theorem execPwrTileGateWrite_steady {F : List Touch} {s₀ s : State} (h : Steady F s₀ s) (v)
    (hF : Touch.within [.regs, .cnt, .pwr, .anyPage, .page .pwr] F = true := by rfl) :
    SteadyNext F s₀ (execPwrTileGateWrite v s) := by
  refine h.widenNext (fun s₀ h => ?_) hF
  unfold execPwrTileGateWrite
  exact .next (h.ifReady (fun u hu => by
      extract_lets _ _ _ _ s1
      have hs1 : Steady _ s₀ s1 := hu.lpMask ..
      exact .ite hs1 (hs1.err ..)) ..)

/-- The tile memory of one state, cleared, in another. -/
theorem Steady.clearedSram {F : List Touch} {s₀ s t : State} (h : Steady F s₀ s) (k : Steady F s₀ t) (a n)
    (hF : Touch.within [.sram, .sramBad] F = true := by rfl) :
    Steady F s₀ { t with sram := Map.clear s.sram a n, sramBad := Map.clear s.sramBad a n } := by
  refine ⟨fun hc => ?_, k.fuses, k.unreached, k.pending, fun c hc hf => ?_, k.still, k.words, k.resets⟩
  · obtain ⟨-, hs, hb, -, -, -⟩ := s.canonical_iff.mp (h.canonical hc)
    obtain ⟨hm, -, -, hr, hn, hw⟩ := t.canonical_iff.mp (k.canonical hc)
    exact (State.canonical_iff _).mpr ⟨hm, Map.clear_wf _ hs a n, Map.clear_wf _ hb a n, hr, hn, hw⟩
  · have hs := k.same c hc hf
    cases c <;> first | exact hs | exact hc.elim (Touch.mem_of_within hF (Touch.mem_of_bit rfl))

/-- A tile starts again with its memory empty. -/
theorem Steady.emptyTile {F : List Touch} {s₀ s : State} (h : Steady F s₀ s) (t : TileId)
    (hF : Touch.within [.tiles, .parts, .tier, .sram, .sramBad] F = true := by rfl) :
    Steady F s₀ { (s.clearTile t).setTile t {} with
      sram := Map.clear s.sram (sramAddr t 0) 2097152, sramBad := Map.clear s.sramBad (sramAddr t 0) 2097152 } := by
  refine h.widen (fun s₀ h => ?_) hF
  exact
    h.clearedSram ((h.clearTile t).setTile t {}) ..

theorem Steady.loseTile {F : List Touch} {s₀ s : State} (h : Steady F s₀ s) (t)
    (hF : Touch.within [.regs, .sram, .sramBad, .tiles, .parts, .tier, .page .tile] F = true := by rfl) :
    Steady F s₀ (s.loseTile t) := by
  refine h.widen (fun s₀ h => ?_) hF
  unfold State.loseTile
  exact (h.emptyTile t).setFld ..

theorem execLpIdleEnter_steady {F : List Touch} {s₀ s : State} (h : Steady F s₀ s) (u)
    (hF : Touch.within [.out, .regs, .cnt, .sram, .sramBad, .tiles, .parts, .tier, .ports, .pwr, .pcie, .page
        .pcie, .page .tile, .page .port, .page .feng] F = true := by rfl) :
    SteadyNext F s₀ (execLpIdleEnter u s) := by
  refine h.widenNext (fun s₀ h => ?_) hF
  unfold execLpIdleEnter
  extract_lets _ _ s1
  have hs1 : Steady _ s₀ s1 := h.upd [.pwr]
  refine .next ?_
  split
  · split
    · exact hs1.linkLost ..
    · exact hs1.each (fun u1 _ hu1 => hu1.loseTile ..) ..
    · exact hs1
  · exact h

theorem execWakeDone_steady {F : List Touch} {s₀ s : State} (h : Steady F s₀ s) (u)
    (hF : Touch.within [.regs, .pwr, .page .tile] F = true := by rfl) :
    SteadyNext F s₀ (execWakeDone u s) := by
  refine h.widenNext (fun s₀ h => ?_) hF
  unfold execWakeDone
  extract_lets _ s1
  have hs1 : Steady _ s₀ s1 := h.upd [.pwr]
  refine .next ?_
  split
  · split
    · exact hs1.each (fun u1 _ hu1 => hu1.setFld ..) ..
    · exact hs1
  · exact h

end Sys2Proof.Machine
end


section
/-! PROOFS. What the operations of Sampler.lean keep: the Sampler and the tenants' rings of tokens and records. -/

namespace Sys2Proof.Machine
open Sys2Proof

theorem Steady.verify {F : List Touch} {s₀ s : State} (h : Steady F s₀ s) (d vocab pos l)
    (hF : Touch.within [.fresh] F = true := by rfl) :
    Steady F s₀ (s.verify d vocab pos l).2.2 := by
  refine h.widen (fun s₀ h' => ?_) hF
  clear hF h
  rename' h' => h
  induction l generalizing s pos with
  | nil => exact h
  | cons p ps ih =>
    cases ps with
    | nil => exact h.draw
    | cons p2 ps =>
      have hnext := ih (h := h.draw.draw) (pos + 1)
      unfold State.verify
      extract_lets pr t q f ok r w one
      split
      · exact h.draw
      · split
        · exact hnext
        · exact h.draw.draw

theorem Steady.readLogits {F : List Touch} {s₀ s : State} (h : Steady F s₀ s) {lost}
    (hlost : ∀ x0, Steady F s₀ x0 → Steady F s₀ (lost x0)) {a''} (ha'' : ∀ x0 x1, Steady F s₀ x1 → Steady F s₀
    (a'' x0 x1)) (p slot vocab a a')
    (hF : Touch.within [.out, .regs, .cnt, .movers, .tier, .pwr, .pcie, .page .pwr, .page .pcie, .page .tier, .page
        .move] F = true := by rfl) :
    Steady F s₀ (s.readLogits p slot vocab lost a a' a'') := by
  induction a generalizing s p slot vocab lost a' a''
  case nil  =>
    unfold State.readLogits
    exact ha'' _ _ h
  case cons head tail ih =>
    unfold State.readLogits
    exact h.fetch (fun u hu => hlost _ hu) (fun _ u1 hu1 => ih (h := hu1) (fun u2 hu2 => hlost _ hu2)
        (fun _ u3 hu3 => ha'' _ _ hu3) ..) (hF := Touch.within_trans rfl hF) ..

theorem Steady.noCandidate {F : List Touch} {s₀ s : State} (h : Steady F s₀ s) (p id)
    (hF : Touch.within [.fresh, .out, .regs, .cnt, .mem, .movers, .tenants, .reqs, .convs, .tier, .rrc, .engines,
        .qps, .srch, .units, .digs, .pwr, .pcie, .far, .page .rstc, .page .pwr, .page .pcie, .page .tier, .page
        .samp, .page .move, .page .feng, .page .srch, .page .mon] F = true := by rfl) :
    Steady F s₀ (s.noCandidate p id) := by
  refine h.widen (fun s₀ h => ?_) hF
  unfold State.noCandidate
  exact (((h.err ..).irq ..).count ..).abortReq ..

theorem Steady.emit {F : List Touch} {s₀ s : State} (h : Steady F s₀ s) (p r toks)
    (hF : Touch.within [.cnt, .reqs, .page .samp] F = true := by rfl) :
    Steady F s₀ (s.emit p r toks) := by
  refine h.widen (fun s₀ h => ?_) hF
  unfold State.emit
  extract_lets _ s1
  have hs1 : Steady _ s₀ s1 := h.updReq ..
  exact .ite (hs1.count ..) hs1

theorem Steady.settleStep {F : List Touch} {s₀ s : State} (h : Steady F s₀ s) (p slot r accepted)
    (hF : Touch.within [.out, .regs, .cnt, .mem, .parts, .movers, .reqs, .tier, .qps, .digs, .pwr, .pcie, .page
        .pwr, .page .pcie, .page .tier, .page .move] F = true := by rfl) :
    Steady F s₀ (s.settleStep p slot r accepted) := by
  refine h.widen (fun s₀ h => ?_) hF
  unfold State.settleStep
  extract_lets _ _ s1
  have hs1 : Steady [.out, .regs, .cnt, .mem, .parts, .movers, .reqs, .tier, .qps, .digs, .pwr, .pcie, .page .pwr,
      .page .pcie, .page .tier, .page .move] s₀ s1 := by
    unfold s1
    split
    · extract_lets s2
      have hs2 : Steady _ s₀ s2 := h.post ..
      exact hs2.keepRows ..
    · exact h
  exact (hs1.setRs ..).updReq ..

theorem execSamplerDone_steady {F : List Touch} {s₀ s : State} (h : Steady F s₀ s) (p slot)
    (hF : Touch.within [.fresh, .out, .regs, .cnt, .mem, .parts, .movers, .tenants, .reqs, .convs, .tier, .rrc,
        .engines, .qps, .srch, .units, .digs, .pwr, .pcie, .far, .page .rstc, .page .pwr, .page .pcie, .page .tier,
        .page .samp, .page .move, .page .feng, .page .srch, .page .mon] F = true := by rfl) :
    SteadyNext F s₀ (execSamplerDone p slot s) := by
  refine h.widenNext (fun s₀ h => ?_) hF
  unfold execSamplerDone
  extract_lets done
  have hdone : ∀ x0, Steady [.fresh, .out, .regs, .cnt, .mem, .parts, .movers, .tenants, .reqs, .convs, .tier,
      .rrc, .engines, .qps, .srch, .units, .digs, .pwr, .pcie, .far, .page .rstc, .page .pwr, .page .pcie, .page
      .tier, .page .samp, .page .move, .page .feng, .page .srch, .page .mon] s₀ x0 → Steady [.fresh, .out, .regs,
      .cnt, .mem, .parts, .movers, .tenants, .reqs, .convs, .tier, .rrc, .engines, .qps, .srch, .units, .digs,
      .pwr, .pcie, .far, .page .rstc, .page .pwr, .page .pcie, .page .tier, .page .samp, .page .move, .page .feng,
      .page .srch, .page .mon] s₀ (done x0) :=
    (fun u hu => hu.setPart ..)
  exact .next (h.ifReady (fun u1 hu1 => by
      extract_lets
      split
      · exact hu1
      · split
        · exact hdone _ hu1
        · extract_lets
          exact .ite (hdone _ hu1) (hu1.readLogits (fun u2 hu2 => (hdone _ hu2).abortReq ..) (fun _ u3 hu3 => by
      extract_lets s1 _ s2 v s3
      have hs1 : Steady _ s₀ s1 := hdone _ hu3
      have hs2 : Steady _ s₀ s2 := hs1.count ..
      have hv : Steady _ s₀ v.2.2 := hs2.verify ..
      have hs3 : Steady _ s₀ s3 := .ite ((hv.count ..).count ..) hv
      split
      · exact hs3.noCandidate ..
      · extract_lets s4
        have hs4 : Steady _ s₀ s4 := hs3.emit ..
        exact .ite (hs4.settleStep ..) hs4) ..)) ..)

theorem Steady.tokenVector {F : List Touch} {s₀ s : State} (h : Steady F s₀ s) (n)
    (hF : Touch.within [.out, .cnt, .tenants, .pcie, .page .pcie] F = true := by rfl) :
    Steady F s₀ (s.tokenVector n) := by
  refine h.widen (fun s₀ h => ?_) hF
  unfold State.tokenVector
  exact .ite (h.vfVector ..) (.ite (h.setTen ..) ((h.setTen ..).vfVector ..))

theorem Steady.tokenSample {F : List Touch} {s₀ s : State} (h : Steady F s₀ s) (r)
    (hF : Touch.within [.out, .regs, .cnt, .units, .pcie, .page .pcie, .page .mon] F = true := by rfl) :
    Steady F s₀ (s.tokenSample r) := by
  refine h.widen (fun s₀ h => ?_) hF
  unfold State.tokenSample
  exact .ite (h.sample ..) (h.sample ..)

theorem Steady.placeToken {F : List Touch} {s₀ s : State} (h : Steady F s₀ s) (p r tok last)
    (hF : Touch.within [.out, .regs, .cnt, .tenants, .units, .pcie, .page .pcie, .page .samp, .page .mon] F = true
        := by rfl) :
    Steady F s₀ (s.placeToken p r tok last) := by
  refine h.widen (fun s₀ h => ?_) hF
  unfold State.placeToken
  extract_lets _ s1 _ _ s2 s3
  have hs1 : Steady _ s₀ s1 := h.refill ..
  have hs2 : Steady _ s₀ s2 := hs1.setTen ..
  have hs3 : Steady _ s₀ s3 := hs2.hostWr ..
  exact ((hs3.count ..).tokenSample ..).tokenVector ..

theorem execTokenWrite_steady {F : List Touch} {s₀ s : State} (h : Steady F s₀ s) (p slot)
    (hF : Touch.within [.out, .regs, .cnt, .tenants, .reqs, .convs, .units, .pcie, .anyPage, .page .pcie, .page
        .disp, .page .samp, .page .mon] F = true := by rfl) :
    SteadyNext F s₀ (execTokenWrite p slot s) := by
  refine h.widenNext (fun s₀ h => ?_) hF
  unfold execTokenWrite
  refine .next ?_
  split
  · exact h
  · split
    · exact h
    · extract_lets _ stop _ s1 s2
      have hs1 : Steady _ s₀ s1 := .ite (h.placeToken ..) h
      have hs2 : Steady _ s₀ s2 := hs1.updReq ..
      split
      · exact h
      · clear_value stop
        split
        · exact .ite (hs2.settleReq ..) hs2
        · exact .ite ((hs2.count ..).settleReq ..) ((hs2.countAt ..).endReq ..)

theorem Steady.finalWritten {F : List Touch} {s₀ s : State} (h : Steady F s₀ s) (n c)
    (hF : Touch.within [.regs, .reqs, .anyPage] F = true := by rfl) :
    Steady F s₀ (s.finalWritten n c) := by
  refine h.widen (fun s₀ h => ?_) hF
  unfold State.finalWritten
  split
  · split
    · exact .ite ((h.dropAdapter ..).dropReq ..) h
    · exact h
  · exact h

theorem Steady.retryHeads {F : List Touch} {s₀ s : State} (h : Steady F s₀ s)
    (hF : Touch.within [.fresh, .out, .regs, .cnt, .mem, .movers, .tenants, .reqs, .convs, .tier, .qps, .units,
        .digs, .pwr, .pcie, .anyPage, .page .pwr, .page .pcie, .page .tier, .page .disp, .page .move, .page .admt,
        .page .mon] F = true := by rfl) :
    Steady F s₀ s.retryHeads := by
  refine h.widen (fun s₀ h => ?_) hF
  unfold State.retryHeads
  exact h.each (fun u _ hu => by
      split
      · exact .ite (hu.admitNow ..) hu
      · exact hu) ..

theorem execCompletionRecordWrite_steady {F : List Touch} {s₀ s : State} (h : Steady F s₀ s) (n)
    (hF : Touch.within [.fresh, .out, .regs, .cnt, .mem, .movers, .tenants, .reqs, .convs, .tier, .qps, .units,
        .digs, .pwr, .pcie, .anyPage, .page .pwr, .page .pcie, .page .tier, .page .disp, .page .move, .page .admt,
        .page .mon] F = true := by rfl) :
    SteadyNext F s₀ (execCompletionRecordWrite n s) := by
  refine h.widenNext (fun s₀ h => ?_) hF
  unfold execCompletionRecordWrite
  extract_lets
  refine .next ?_
  split
  · exact h
  · extract_lets s1 s2 _ s3
    have hs1 : Steady _ s₀ s1 := h.setTen ..
    have hs2 : Steady _ s₀ s2 := hs1.hostWr ..
    have hs3 : Steady _ s₀ s3 := (hs2.vfVector ..).finalWritten ..
    exact .ite h (.ite hs3.retryHeads hs3)

theorem execVfTokModTimer_steady {F : List Touch} {s₀ s : State} (h : Steady F s₀ s) (n)
    (hF : Touch.within [.out, .cnt, .tenants, .pcie, .page .pcie] F = true := by rfl) :
    SteadyNext F s₀ (execVfTokModTimer n s) := by
  refine h.widenNext (fun s₀ h => ?_) hF
  unfold execVfTokModTimer
  exact .next (.ite ((h.setTen ..).vfVector ..) h)

theorem Steady.endSilent {F : List Touch} {s₀ s : State} (h : Steady F s₀ s) (r)
    (hF : Touch.within [.fresh, .out, .regs, .cnt, .mem, .movers, .reqs, .convs, .tier, .rrc, .engines, .qps,
        .srch, .units, .digs, .pwr, .pcie, .far, .anyPage, .page .rstc, .page .pwr, .page .pcie, .page .tier, .page
        .move, .page .admt, .page .feng, .page .srch, .page .mon] F = true := by rfl) :
    Steady F s₀ (s.endSilent r) := by
  refine h.widen (fun s₀ h => ?_) hF
  unfold State.endSilent
  extract_lets s1
  have hs1 : Steady _ s₀ s1 := (h.closeAll ..).dropAdapter ..
  exact .ite ((h.dropReq ..).syncQueue ..) ((hs1.updConv ..).dropReq ..)

theorem execVfFlr_steady {F : List Touch} {s₀ s : State} (h : Steady F s₀ s) (n)
    (hF : Touch.within [.fresh, .out, .regs, .cnt, .mem, .movers, .tenants, .reqs, .convs, .tier, .rrc, .engines,
        .qps, .srch, .units, .digs, .pwr, .pcie, .far, .anyPage, .page .rstc, .page .pwr, .page .pcie, .page .tier,
        .page .move, .page .admt, .page .feng, .page .srch, .page .mon] F = true := by rfl) :
    SteadyNext F s₀ (execVfFlr n s) := by
  refine h.widenNext (fun s₀ h => ?_) hF
  unfold execVfFlr
  extract_lets _ s1
  have hs1 : Steady _ s₀ s1 := h.each (fun u _ hu => hu.endSilent ..) ..
  exact .next (hs1.setTen ..)

end Sys2Proof.Machine
end


section
/-! PROOFS. What the operations of Search.lean keep: the SRCH block: vector search, PFX inserts, pooled regions and
their leases. -/

namespace Sys2Proof.Machine
open Sys2Proof

theorem Steady.gather {F : List Touch} {s₀ s : State} (h : Steady F s₀ s) {lost}
    (hlost : ∀ x0, Steady F s₀ x0 → Steady F s₀ (lost x0)) {k} (hk : ∀ x0, Steady F s₀ x0 → Steady F s₀ (k x0))
    (ranges)
    (hF : Touch.within [.out, .regs, .cnt, .movers, .tier, .pwr, .pcie, .page .pwr, .page .pcie, .page .tier, .page
        .move] F = true := by rfl) :
    Steady F s₀ (s.gather ranges lost k) := by
  unfold State.gather
  split
  · rename_i x t heq
    have ht : Steady _ s₀ t := .of_snd heq (h.ownReadAt (hF := Touch.within_trans rfl hF) ..)
    exact hk _ ht
  · rename_i x1 t1 heq1
    have ht1 : Steady _ s₀ t1 := .of_snd heq1 (h.ownReadAt (hF := Touch.within_trans rfl hF) ..)
    exact ht1
  · rename_i x2 _ t2 _ _ heq2
    have ht2 : Steady _ s₀ t2 := .of_snd heq2 (h.ownReadAt (hF := Touch.within_trans rfl hF) ..)
    exact hlost _ ht2

theorem Steady.ringTake {F : List Touch} {s₀ s : State} (h : Steady F s₀ s) (p)
    (hF : Touch.within [.out, .regs, .cnt, .mem, .movers, .tier, .digs, .pwr, .pcie, .page .pwr, .page .pcie, .page
        .tier, .page .move] F = true := by rfl) :
    Steady F s₀ (s.ringTake p) := by
  refine h.widen (fun s₀ h => ?_) hF
  unfold State.ringTake
  exact (h.put ..).put ..

theorem Steady.ringDone {F : List Touch} {s₀ s : State} (h : Steady F s₀ s) (comp status n)
    (hF : Touch.within [.out, .regs, .cnt, .mem, .movers, .tier, .digs, .pwr, .pcie, .page .pwr, .page .pcie, .page
        .tier, .page .move] F = true := by rfl) :
    Steady F s₀ (s.ringDone comp status n) := by
  refine h.widen (fun s₀ h => ?_) hF
  unfold State.ringDone
  exact h.put ..

theorem Steady.syncOldest {F : List Touch} {s₀ s : State} (h : Steady F s₀ s) (p)
    (hF : Touch.within [.regs, .anyPage] F = true := by rfl) :
    Steady F s₀ (s.syncOldest p) := by
  refine h.widen (fun s₀ h => ?_) hF
  unfold State.syncOldest
  exact (h.setFldAt ..).setFldAt ..

theorem Steady.addWork {F : List Touch} {s₀ s : State} (h : Steady F s₀ s) (p d coll entry)
    (hF : Touch.within [.regs, .srch, .anyPage] F = true := by rfl) :
    Steady F s₀ (s.addWork p d coll entry) := by
  refine h.widen (fun s₀ h => ?_) hF
  unfold State.addWork
  exact (h.upd [.srch]).syncOldest ..

theorem Steady.dropWork {F : List Touch} {s₀ s : State} (h : Steady F s₀ s) (p ticket)
    (hF : Touch.within [.regs, .srch, .anyPage] F = true := by rfl) :
    Steady F s₀ (s.dropWork p ticket) := by
  refine h.widen (fun s₀ h => ?_) hF
  unfold State.dropWork
  exact (h.upd [.srch]).syncOldest ..

theorem execSearch_steady {F : List Touch} {s₀ s : State} (h : Steady F s₀ s) (p)
    (hF : Touch.within [.out, .regs, .cnt, .mem, .movers, .tier, .srch, .digs, .pwr, .pcie, .anyPage, .page .pwr,
        .page .pcie, .page .tier, .page .move, .page .srch] F = true := by rfl) :
    SteadyNext F s₀ (execSearch p s) := by
  refine h.widenNext (fun s₀ h => ?_) hF
  unfold execSearch
  exact .next (.ite h (h.fetch (fun u hu => hu) (fun _ u1 hu1 => .ite hu1 (.ite
      (((hu1.ringTake ..).ringDone ..).count ..) (.ite (((hu1.ringTake ..).ringDone ..).count ..) (hu1.fetch
      (fun u2 hu2 => ((hu2.ringTake ..).ringDone ..).count ..) (fun _ u3 hu3 => .ite
      (((hu3.ringTake ..).ringDone ..).count ..) ((hu3.ringTake ..).addWork ..)) ..)))) ..))

theorem execSearchDone_steady {F : List Touch} {s₀ s : State} (h : Steady F s₀ s) (p ticket)
    (hF : Touch.within [.out, .regs, .cnt, .mem, .movers, .tier, .srch, .digs, .pwr, .pcie, .anyPage, .page .pwr,
        .page .pcie, .page .tier, .page .move, .page .srch] F = true := by rfl) :
    SteadyNext F s₀ (execSearchDone p ticket s) := by
  refine h.widenNext (fun s₀ h => ?_) hF
  unfold execSearchDone
  refine .next ?_
  split
  · exact h
  · extract_lets _ _ _ lost
    have hlost : ∀ x0, Steady [.out, .regs, .cnt, .mem, .movers, .tier, .srch, .digs, .pwr, .pcie, .anyPage, .page
        .pwr, .page .pcie, .page .tier, .page .move, .page .srch] s₀ x0 → Steady [.out, .regs, .cnt, .mem, .movers,
        .tier, .srch, .digs, .pwr, .pcie, .anyPage, .page .pwr, .page .pcie, .page .tier, .page .move, .page .srch]
        s₀ (lost x0) :=
      (fun u hu => ((hu.dropWork ..).ringDone ..).count ..)
    exact h.gather (fun u1 hu1 => hlost _ hu1) (fun u2 hu2 => by
        extract_lets
        exact hu2.gather (fun u3 hu3 => hlost _ hu3) (fun u4 hu4 => by
        extract_lets _ _ _ _ s1
        have hs1 : Steady _ s₀ s1 := ((hu4.dropWork ..).put ..).ringDone ..
        exact ((hs1.count ..).count ..).count ..) ..) ..

theorem execPfxInsert_steady {F : List Touch} {s₀ s : State} (h : Steady F s₀ s) (p)
    (hF : Touch.within [.fresh, .out, .regs, .cnt, .mem, .movers, .reqs, .convs, .tier, .qps, .srch, .units, .digs,
        .pwr, .pcie, .anyPage, .page .pwr, .page .pcie, .page .tier, .page .move, .page .srch, .page .mon] F = true
        := by rfl) :
    SteadyNext F s₀ (execPfxInsert p s) := by
  refine h.widenNext (fun s₀ h => ?_) hF
  have hentry : ∀ u p i k n q r b l g d t v,
      Steady [.fresh, .out, .regs, .cnt, .mem, .movers, .reqs, .convs, .tier, .qps, .srch, .units, .digs, .pwr,
          .pcie, .anyPage, .page .pwr, .page .pcie, .page .tier, .page .move, .page .srch, .page .mon] s₀ u →
      Steady [.fresh, .out, .regs, .cnt, .mem, .movers, .reqs, .convs, .tier, .qps, .srch, .units, .digs, .pwr,
          .pcie, .anyPage, .page .pwr, .page .pcie, .page .tier, .page .move, .page .srch, .page .mon] s₀
          (State.newEntry u p i k n q r b l g d t v) :=
    fun _ _ _ _ _ _ _ _ _ _ _ _ _ hu => hu.newEntry ..
  unfold execPfxInsert
  -- Kept from the kernel: it would compute the bytes of the entry to compare states.
  obtain ⟨enter, he⟩ : ∃ f, State.newEntry = f := ⟨_, rfl⟩
  rw [he] at hentry ⊢
  refine .next (.ite h (h.fetch (fun u hu => hu) (fun b u1 hu1 => ?_) ..))
  extract_lets d comp key layers blocks side rgn node part src
  refine .ite hu1 (.ite ?_ (.ite ?_ ?_))
  · exact (hu1.ringTake ..).ringDone ..
  · exact (hu1.ringTake ..).ringDone ..
  · split
    · exact (hu1.ringTake ..).ringDone ..
    · exact hu1.count ..
    · refine .ite hu1 ?_
      split
      · rename_i s2 heq
        exact ((Steady.of_snd heq (hu1.makeRoom ..)).ringTake ..).ringDone ..
      · rename_i a s2 heq
        have hs2 : Steady _ s₀ s2 := .of_snd heq (hu1.makeRoom ..)
        extract_lets ttl s3 c runs
        have hs3 : Steady _ s₀ s3 := hentry _ _ _ _ _ _ _ _ _ _ _ _ _ ((hs2.grantTtl ..).ringTake ..)
        split
        · exact hs3
        · rename_i x s4 heq
          have hs4 : Steady _ s₀ s4 := (hs3.draw.bindCtx ..).of_eq heq
          exact ((((hs4.setFldAt ..).each (fun u _ hu => hu.setRemote ..) _).sendRuns ..).pullProgress ..).addWork ..

theorem Steady.indexBlock {F : List Touch} {s₀ s : State} (h : Steady F s₀ s) (p tag block hash)
    (hF : Touch.within [.out, .regs, .cnt, .mem, .movers, .tier, .digs, .pwr, .pcie, .page .pwr, .page .pcie, .page
        .tier, .page .move, .page .srch] F = true := by rfl) :
    Steady F s₀ (s.indexBlock p tag block hash).2 := by
  refine h.widen (fun s₀ h => ?_) hF
  unfold State.indexBlock
  extract_lets _ _ _ write old
  have hwrite : ∀ x0, Steady [.out, .regs, .cnt, .mem, .movers, .tier, .digs, .pwr, .pcie, .page .pwr, .page .pcie,
      .page .tier, .page .move, .page .srch] s₀ (write x0) :=
    (fun _  => h.put ..)
  split
  · exact h
  · split
    · exact hwrite _ 
    · clear_value old
      split
      · exact hwrite _ 
      · exact h.count ..

theorem execPfxInsertDone_steady {F : List Touch} {s₀ s : State} (h : Steady F s₀ s) (p ticket nak)
    (hF : Touch.within [.out, .regs, .cnt, .mem, .movers, .tier, .srch, .digs, .pwr, .pcie, .anyPage, .page .pwr,
        .page .pcie, .page .tier, .page .move, .page .srch] F = true := by rfl) :
    SteadyNext F s₀ (execPfxInsertDone p ticket nak s) := by
  refine h.widenNext (fun s₀ h => ?_) hF
  unfold execPfxInsertDone
  refine .next ?_
  split
  · exact h
  · extract_lets _ _ _ _ stop
    have hstop : ∀ x0 x1, Steady [.out, .regs, .cnt, .mem, .movers, .tier, .srch, .digs, .pwr, .pcie, .anyPage,
        .page .pwr, .page .pcie, .page .tier, .page .move, .page .srch] s₀ x0 → Steady [.out, .regs, .cnt, .mem,
        .movers, .tier, .srch, .digs, .pwr, .pcie, .anyPage, .page .pwr, .page .pcie, .page .tier, .page .move,
        .page .srch] s₀ (stop x0 x1) :=
      (fun u _ hu => (((hu.dropWork ..).freeEntryPages ..).setEntry ..).ringDone ..)
    exact .ite (hstop _ _ h) (.ite h (h.gather (fun u1 hu1 => hstop _ _ hu1) (fun u2 hu2 => by
        extract_lets r s1
        have hr : Steady _ s₀ r.2 := .foldl_snd hu2 (fun a _ ha => by
        extract_lets x
        have hx : Steady _ s₀ x.2 := ha.indexBlock ..
        exact hx)
        have hs1 : Steady _ s₀ s1 := hr.entryLive ..
        exact (hs1.dropWork ..).ringDone ..) ..))

theorem Steady.forwardPlaced {F : List Touch} {s₀ s : State} (h : Steady F s₀ s) (f)
    (hF : Touch.within [.out, .regs, .cnt, .engines, .srch, .units, .pcie, .far, .page .rstc, .page .pcie, .page
        .feng, .page .mon] F = true := by rfl) :
    Steady F s₀ (s.forwardPlaced f) := by
  refine h.widen (fun s₀ h => ?_) hF
  unfold State.forwardPlaced
  extract_lets _ s1
  have hs1 : Steady _ s₀ s1 := h.upd [.srch]
  exact .ite (hs1.respond ..) hs1

theorem execPoolForwardPlaced_steady {F : List Touch} {s₀ s : State} (h : Steady F s₀ s) (region r)
    (hF : Touch.within [.out, .regs, .cnt, .engines, .srch, .units, .pcie, .far, .page .rstc, .page .pcie, .page
        .feng, .page .mon] F = true := by rfl) :
    SteadyNext F s₀ (execPoolForwardPlaced region r s) := by
  refine h.widenNext (fun s₀ h => ?_) hF
  unfold execPoolForwardPlaced
  refine .next ?_
  split
  · exact h
  · exact h.forwardPlaced ..

theorem Steady.poolGo {F : List Touch} {s₀ s : State} (h : Steady F s₀ s) (op)
    (hF : Touch.within [.regs, .cnt, .srch, .page .srch] F = true := by rfl) :
    Steady F s₀ (s.poolGo op) := by
  refine h.widen (fun s₀ h => ?_) hF
  unfold State.poolGo
  exact h.ifReady (fun u hu => by
      extract_lets s1
      have hs1 : Steady _ s₀ s1 := (hu.setFld ..).setFld ..
      exact .ite (hu.err ..) (hs1.upd [.srch])) ..

theorem execPoolRebuild_steady {F : List Touch} {s₀ s : State} (h : Steady F s₀ s)
    (hF : Touch.within [.regs, .cnt, .srch, .page .srch] F = true := by rfl) :
    SteadyNext F s₀ (execPoolRebuild s) := by
  refine h.widenNext (fun s₀ h => ?_) hF
  unfold execPoolRebuild
  exact .next (h.poolGo ..)

theorem execPoolResync_steady {F : List Touch} {s₀ s : State} (h : Steady F s₀ s)
    (hF : Touch.within [.regs, .cnt, .srch, .page .srch] F = true := by rfl) :
    SteadyNext F s₀ (execPoolResync s) := by
  refine h.widenNext (fun s₀ h => ?_) hF
  unfold execPoolResync
  exact .next (h.poolGo ..)

theorem execPoolCmdDone_steady {F : List Touch} {s₀ s : State} (h : Steady F s₀ s) (ok pages)
    (hF : Touch.within [.fresh, .out, .regs, .cnt, .mem, .movers, .tier, .srch, .digs, .pwr, .pcie, .page .pwr,
        .page .pcie, .page .tier, .page .move, .page .srch] F = true := by rfl) :
    SteadyNext F s₀ (execPoolCmdDone ok pages s) := by
  refine h.widenNext (fun s₀ h => ?_) hF
  unfold execPoolCmdDone
  extract_lets _ s1
  have hs1 : Steady _ s₀ s1 := h.upd [.srch]
  refine .next ?_
  split
  · exact h
  · extract_lets _ _ _ _ _ s2 s3 s4
    have hs2 : Steady _ s₀ s2 := .ite (hs1.each (fun u _ hu => (hu.put ..).draw) ..) hs1
    have hs3 : Steady _ s₀ s3 := .ite (hs2.put ..) (hs2.err ..)
    have hs4 : Steady _ s₀ s4 := (hs3.setFld ..).setFld ..
    exact (hs4.setFld ..).irq ..

theorem Steady.leasePoison {F : List Touch} {s₀ s : State} (h : Steady F s₀ s) (d k page)
    (hF : Touch.within [.out, .regs, .cnt, .mem, .movers, .tier, .rrc, .engines, .qps, .srch, .units, .digs, .pwr,
        .pcie, .far, .page .rstc, .page .pwr, .page .pcie, .page .tier, .page .move, .page .feng, .page .srch,
        .page .mon] F = true := by rfl) :
    Steady F s₀ (s.leasePoison d k page) := by
  refine h.widen (fun s₀ h => ?_) hF
  unfold State.leasePoison
  extract_lets s1 s2
  have hs1 : Steady [.out, .regs, .cnt, .mem, .movers, .tier, .rrc, .engines, .qps, .srch, .units, .digs, .pwr,
      .pcie, .far, .page .rstc, .page .pwr, .page .pcie, .page .tier, .page .move, .page .feng, .page .srch, .page
      .mon] s₀ s1 := by
    unfold s1
    split
    · rename_i x t heq
      have ht : Steady _ s₀ t := (h.needLeaf ..).of_eq heq
      exact ht.poisonAny ..
    · rename_i x1 heq1
      exact h
  have hs2 : Steady _ s₀ s2 := hs1.count ..
  split
  · exact .ite hs2 (hs2.send ..)
  · exact hs2

theorem Steady.poolFence {F : List Touch} {s₀ s : State} (h : Steady F s₀ s) (node part)
    (hF : Touch.within [.out, .regs, .cnt, .mem, .movers, .tier, .rrc, .engines, .qps, .srch, .units, .digs, .pwr,
        .pcie, .far, .page .rstc, .page .pwr, .page .pcie, .page .tier, .page .move, .page .feng, .page .srch,
        .page .mon] F = true := by rfl) :
    Steady F s₀ (s.poolFence node part) := by
  refine h.widen (fun s₀ h => ?_) hF
  unfold State.poolFence
  exact h.each (fun u _ hu => by
      extract_lets _ _ _ s1 s2 _ _ _ _ s3 s4 _ s5
      have hs1 : Steady _ s₀ s1 := ((hu.put ..).count ..).irq ..
      have hs2 : Steady _ s₀ s2 := .ite (hs1.each (fun u1 _ hu1 => hu1.forwardPlaced ..) ..) hu
      have hs3 : Steady _ s₀ s3 := hs2.each (fun u2 _ hu2 => hu2.leasePoison ..) ..
      have hs4 : Steady _ s₀ s4 := hs3.put ..
      have hs5 : Steady _ s₀ s5 := hs4.upd [.srch]
      exact .ite (.ite hs5 (hs5.irq ..)) hs2) ..

end Sys2Proof.Machine
end


section
/-! PROOFS. What the operations of Quorum.lean keep: fences and the quorum. -/

namespace Sys2Proof.Machine
open Sys2Proof

theorem Steady.setBit {F : List Touch} {s₀ s : State} (h : Steady F s₀ s) (pg f k b)
    (hF : Touch.within [.regs, .anyPage] F = true := by rfl) :
    Steady F s₀ (s.setBit pg f k b) := by
  refine h.widen (fun s₀ h => ?_) hF
  unfold State.setBit
  exact h.setFldAt ..

theorem execQrmFenceNow_steady {F : List Touch} {s₀ s : State} (h : Steady F s₀ s) (mask)
    (hF : Touch.within [.out, .qrm] F = true := by rfl) :
    SteadyNext F s₀ (execQrmFenceNow mask s) := by
  refine h.widenNext (fun s₀ h => ?_) hF
  unfold execQrmFenceNow
  exact .next (h.ifReady (fun u hu => hu.takeCauses ..) ..)

theorem Steady.fenceRecord {F : List Touch} {s₀ s : State} (h : Steady F s₀ s) (p cause)
    (hF : Touch.within [.fresh, .out, .regs, .cnt, .mem, .movers, .tier, .digs, .elog, .qrm, .pwr, .pcie, .page
        .pwr, .page .pcie, .page .tier, .page .move, .page .elog] F = true := by rfl) :
    Steady F s₀ (s.fenceRecord p cause) := by
  refine h.widen (fun s₀ h => ?_) hF
  unfold State.fenceRecord
  exact h.record ..

theorem Steady.replaySlot {F : List Touch} {s₀ s : State} (h : Steady F s₀ s) (p g k old)
    (hF : Touch.within [.out, .regs, .cnt, .mem, .parts, .movers, .reqs, .tier, .digs, .pwr, .pcie, .page .pwr,
        .page .pcie, .page .tier, .page .disp, .page .move, .page .qrm] F = true := by rfl) :
    Steady F s₀ (s.replaySlot p g k old) := by
  refine h.widen (fun s₀ h => ?_) hF
  unfold State.replaySlot
  extract_lets
  split
  · exact h
  · extract_lets _ s1 s2 s3 _ _ _ s4
    have hs1 : Steady _ s₀ s1 := h.setRs ..
    have hs2 : Steady _ s₀ s2 := hs1.updReq ..
    have hs3 : Steady _ s₀ s3 := hs2.count ..
    have hs4 : Steady _ s₀ s4 := hs3.each (fun u _ hu => hu.put ..) ..
    exact .ite h (.ite hs3 (hs4.setFld ..))

theorem Steady.resetUnits {F : List Touch} {s₀ s : State} (h : Steady F s₀ s) (p)
    (hF : Touch.within [.regs, .tiles, .parts, .movers, .tier, .engines, .qps, .page .disp] F = true := by rfl) :
    Steady F s₀ (s.resetUnits p) := by
  refine h.widen (fun s₀ h => ?_) hF
  unfold State.resetUnits
  extract_lets s1 s2 s3 s4
  have hs1 : Steady _ s₀ s1 := h.each (fun u _ hu => (hu.clearTile ..).setTile ..) ..
  have hs2 : Steady _ s₀ s2 := (hs1.setPart ..).setFld ..
  have hs3 : Steady _ s₀ s3 := hs2.each (fun u1 _ hu1 => hu1.qpReset ..) ..
  have hs4 : Steady _ s₀ s4 := hs3.each (fun u2 _ hu2 => hu2.setEng ..) ..
  exact hs4.setMover ..

theorem Steady.endHeld {F : List Touch} {s₀ s : State} (h : Steady F s₀ s) (p)
    (hF : Touch.within [.fresh, .out, .regs, .cnt, .mem, .movers, .tenants, .reqs, .convs, .tier, .rrc, .engines,
        .qps, .srch, .units, .digs, .pwr, .pcie, .far, .page .rstc, .page .pwr, .page .pcie, .page .tier, .page
        .move, .page .admt, .page .feng, .page .srch, .page .mon] F = true := by rfl) :
    Steady F s₀ (s.endHeld p) := by
  refine h.widen (fun s₀ h => ?_) hF
  unfold State.endHeld
  extract_lets _ s1 s2
  have hs1 : Steady _ s₀ s1 := h.each (fun u _ hu => (hu.updReq ..).abortReq ..) ..
  have hs2 : Steady _ s₀ s2 := hs1.each (fun u1 _ hu1 => ((hu1.dropReq ..).syncQueue ..).pushRec ..) ..
  exact hs2.each (fun u2 _ hu2 => hu2.closeConv ..) ..

theorem Steady.resetCause {F : List Touch} {s₀ s : State} (h : Steady F s₀ s) (cause inst)
    (hF : Touch.within [.regs, .page .rstc] F = true := by rfl) :
    Steady F s₀ (s.resetCause cause inst) := by
  refine h.widen (fun s₀ h => ?_) hF
  unfold State.resetCause
  extract_lets s1
  have hs1 : Steady _ s₀ s1 := (h.setFld ..).setFld ..
  exact hs1.setFld ..

/-- Where a fence finds a spare, the slots are replayed there. -/
theorem Steady.replaySpare {F : List Touch} {s₀ s : State} (h : Steady F s₀ s) (p : PartId) (slots : List
    (Nat × ReqSlot))
    (spare : Option (Nat × PartId))
    (hF : Touch.within [.out, .regs, .cnt, .mem, .parts, .movers, .reqs, .tier, .digs, .pwr, .pcie, .page .pwr,
        .page .pcie, .page .tier, .page .disp, .page .move, .page .qrm, .anyPage] F = true := by rfl) :
    Steady F s₀ (match spare with
      | some (k, g) => (s.setFld .qrm Reg.QRM_SPARE_VALID 0 k).each slots fun s e => s.replaySlot p g e.1 e.2
      | none => s) := by
  refine h.widen (fun s₀ h => ?_) hF
  cases spare with
  | some x => exact (h.setFldAt ..).each (fun u _ hu => hu.replaySlot ..) _
  | none => exact h

theorem Steady.fence {F : List Touch} {s₀ s : State} (h : Steady F s₀ s) (p cause)
    (hF : Touch.within (.flatten [[.fresh, .out, .regs, .cnt, .mem, .sram, .sramBad, .tiles, .parts, .movers,
        .tenants, .reqs, .convs, .tier, .rrc, .engines, .qps, .srch, .units, .digs], [.elog, .qrm, .pwr, .pcie,
        .far, .anyPage, .page .rstc, .page .pwr, .page .pcie, .page .tier, .page .disp, .page .move, .page .admt,
        .page .tile, .page .feng, .page .elog, .page .srch, .page .mon, .page .qrm]]) F = true := by rfl) :
    Steady F s₀ (s.fence p cause) := by
  refine h.widen (fun s₀ h => ?_) hF
  unfold State.fence
  extract_lets q s1 s2 s3 s4 s5 slots spare s6 s7 s8 s9 _ s10
  have hs1 : Steady _ s₀ s1 := h.upd [.qrm]
  have hs3 : Steady _ s₀ s3 := (((hs1.setBit ..).setBit ..).count ..).irq ..
  have hs4 : Steady _ s₀ s4 := .ite (hs3.resetCause ..) hs3
  have hs5 : Steady _ s₀ s5 := hs4.each (fun u _ hu => .ite hu ((hu.setFld ..).setFld ..)) _
  have hs6 : Steady _ s₀ s6 := hs5.resetUnits ..
  have hs7 : Steady _ s₀ s7 := hs6.replaySpare p slots spare
  have hs9 : Steady _ s₀ s9 := ((hs7.endHeld ..).setFld ..).setFld ..
  have hs10 : Steady _ s₀ s10 := .ite ((hs9.upd [.pwr]).each (fun u _ hu => hu.loseTile _) _) hs9
  exact hs10.fenceRecord ..

theorem execFenceAssert_steady {F : List Touch} {s₀ s : State} (h : Steady F s₀ s) (p)
    (hF : Touch.within (.flatten [[.fresh, .out, .regs, .cnt, .mem, .sram, .sramBad, .tiles, .parts, .movers,
        .tenants, .reqs, .convs, .tier, .rrc, .engines, .qps, .srch, .units, .digs], [.elog, .qrm, .pwr, .pcie,
        .far, .anyPage, .page .rstc, .page .pwr, .page .pcie, .page .tier, .page .disp, .page .move, .page .admt,
        .page .tile, .page .feng, .page .elog, .page .srch, .page .mon, .page .qrm]]) F = true := by rfl) :
    SteadyNext F s₀ (execFenceAssert p s) := by
  refine h.widenNext (fun s₀ h => ?_) hF
  unfold execFenceAssert
  refine .next ?_
  split
  · exact h
  · exact .ite (h.fence ..) h

theorem Steady.unfence {F : List Touch} {s₀ s : State} (h : Steady F s₀ s) (p)
    (hF : Touch.within [.regs, .cnt, .sram, .sramBad, .tiles, .parts, .tier, .pwr, .anyPage, .page .disp, .page
        .tile, .page .qrm] F = true := by rfl) :
    Steady F s₀ (s.unfence p) := by
  refine h.widen (fun s₀ h => ?_) hF
  unfold State.unfence
  extract_lets s1 s2
  have hs1 : Steady _ s₀ s1 := (h.setBit ..).setBit ..
  have hs2 : Steady _ s₀ s2 := ((hs1.count ..).setFld ..).setFld ..
  exact .ite ((hs2.upd [.pwr]).each (fun u _ hu => hu.loseTile ..) ..) h

theorem Steady.qmsg {F : List Touch} {s₀ s : State} (h : Steady F s₀ s) {f}
    (hf : ∀ x0, Steady F s₀ x0 → Steady F s₀ (f x0)) (hh)
    (hF : Touch.within [.qrm] F = true := by rfl) :
    Steady F s₀ (s.qmsg hh f) := by
  unfold State.qmsg
  exact .ite (h.once (fun u hu => hf _ hu) (hF := Touch.within_trans rfl hF) ..) h

theorem Steady.toLeader {F : List Touch} {s₀ s : State} (h : Steady F s₀ s) (msg body)
    (hF : Touch.within [.out, .qrm] F = true := by rfl) :
    Steady F s₀ (s.toLeader msg body) := by
  refine h.widen (fun s₀ h => ?_) hF
  unfold State.toLeader
  split
  · split
    · exact h.quorumSend ..
    · exact h
  · exact h

theorem execQrmUnfenceReqWrite_steady {F : List Touch} {s₀ s : State} (h : Steady F s₀ s) (mask)
    (hF : Touch.within [.out, .qrm] F = true := by rfl) :
    SteadyNext F s₀ (execQrmUnfenceReqWrite mask s) := by
  refine h.widenNext (fun s₀ h => ?_) hF
  unfold execQrmUnfenceReqWrite
  exact .next (h.ifReady (fun u hu => hu.toLeader ..) ..)

theorem execQrmPcHb_steady {F : List Touch} {s₀ s : State} (h : Steady F s₀ s) (p)
    (hF : Touch.within [.qrm] F = true := by rfl) :
    SteadyNext F s₀ (execQrmPcHb p s) := by
  refine h.widenNext (fun s₀ h => ?_) hF
  unfold execQrmPcHb
  exact .next (h.ifReady (fun u hu => hu.upd [.qrm]) ..)

theorem Steady.propose {F : List Touch} {s₀ s : State} (h : Steady F s₀ s)
    (hF : Touch.within [.out, .qrm] F = true := by rfl) :
    Steady F s₀ s.propose := by
  refine h.widen (fun s₀ h => ?_) hF
  unfold State.propose
  exact .ite h (.ite h ((h.upd [.qrm]).each (fun u _ hu => hu.quorumSend ..) ..))

theorem Steady.suspect {F : List Touch} {s₀ s : State} (h : Steady F s₀ s) (node mask)
    (hF : Touch.within [.out, .qrm] F = true := by rfl) :
    Steady F s₀ (s.suspect node mask) := by
  refine h.widen (fun s₀ h => ?_) hF
  unfold State.suspect
  exact (h.upd [.qrm]).propose

theorem Steady.sendSuspect {F : List Touch} {s₀ s : State} (h : Steady F s₀ s) (node mask)
    (hF : Touch.within [.out, .qrm] F = true := by rfl) :
    Steady F s₀ (s.sendSuspect node mask) := by
  refine h.widen (fun s₀ h => ?_) hF
  unfold State.sendSuspect
  exact .ite h (h.toLeader ..)

theorem Steady.judgeNodes {F : List Touch} {s₀ s : State} (h : Steady F s₀ s)
    (hF : Touch.within [.out, .cnt, .qrm, .page .qrm] F = true := by rfl) :
    Steady F s₀ s.judgeNodes := by
  refine h.widen (fun s₀ h => ?_) hF
  unfold State.judgeNodes
  extract_lets _ s1
  have hs1 : Steady _ s₀ s1 := h.each (fun u _ hu => by
      extract_lets _ _ _ s2 s3
      have hs2 : Steady _ s₀ s2 := hu.upd [.qrm]
      have hs3 : Steady _ s₀ s3 := .ite hs2 (hs2.count ..)
      exact .ite (hs3.sendSuspect ..) hs3) ..
  exact hs1.upd [.qrm]

theorem Steady.judgeAcks {F : List Touch} {s₀ s : State} (h : Steady F s₀ s)
    (hF : Touch.within [.out, .regs, .cnt, .qrm, .pcie, .page .pcie, .page .qrm] F = true := by rfl) :
    Steady F s₀ s.judgeAcks := by
  refine h.widen (fun s₀ h => ?_) hF
  unfold State.judgeAcks
  extract_lets _ _ s1 s2 s3
  have hs1 : Steady _ s₀ s1 := h.setFld ..
  have hs2 : Steady _ s₀ s2 := hs1.upd [.qrm]
  have hs3 : Steady _ s₀ s3 := hs2.setFld ..
  exact .ite (hs1.upd [.qrm]) (.ite ((((hs3.setFld ..).err ..).irq ..).takeCauses ..) hs3)

theorem execHeartbeatInterval_steady {F : List Touch} {s₀ s : State} (h : Steady F s₀ s)
    (hF : Touch.within [.out, .regs, .cnt, .qrm, .pcie, .page .pcie, .page .qrm] F = true := by rfl) :
    SteadyNext F s₀ (execHeartbeatInterval s) := by
  refine h.widenNext (fun s₀ h => ?_) hF
  unfold execHeartbeatInterval
  extract_lets s1 s2 _ s3
  have hs1 : Steady _ s₀ s1 := h.judgeAcks
  have hs2 : Steady _ s₀ s2 := .ite hs1.judgeNodes hs1
  have hs3 : Steady _ s₀ s3 := hs2.each (fun u _ hu => hu.quorumSend ..) ..
  exact .next (.ite h ((hs3.upd [.qrm]).propose))

theorem execHeartbeat_steady {F : List Touch} {s₀ s : State} (h : Steady F s₀ s) (hh alive)
    (hF : Touch.within [.out, .qrm] F = true := by rfl) :
    SteadyNext F s₀ (execHeartbeat hh alive s) := by
  refine h.widenNext (fun s₀ h => ?_) hF
  unfold execHeartbeat
  exact .next (h.qmsg (fun u hu => by
      extract_lets _ _ _ _ _ s1
      have hs1 : Steady _ s₀ s1 := (hu.upd [.qrm]).quorumSend ..
      exact .ite hu (.ite hs1 (hs1.sendSuspect ..))) ..)

theorem Steady.syncReq {F : List Touch} {s₀ s : State} (h : Steady F s₀ s)
    (hF : Touch.within [.out, .cnt, .qrm, .page .qrm] F = true := by rfl) :
    Steady F s₀ s.syncReq := by
  refine h.widen (fun s₀ h => ?_) hF
  unfold State.syncReq
  exact (h.count ..).toLeader ..

theorem execHbAck_steady {F : List Touch} {s₀ s : State} (h : Steady F s₀ s) (hh)
    (hF : Touch.within [.out, .regs, .cnt, .qrm, .page .qrm] F = true := by rfl) :
    SteadyNext F s₀ (execHbAck hh s) := by
  refine h.widenNext (fun s₀ h => ?_) hF
  unfold execHbAck
  exact .next (h.qmsg (fun u hu => by
      extract_lets _ _ _ s1 s2
      have hs1 : Steady _ s₀ s1 := hu.upd [.qrm]
      have hs2 : Steady _ s₀ s2 := .ite (hs1.setFld ..) hs1
      exact .ite hu (.ite hs2.syncReq hs2)) ..)

theorem execSuspect_steady {F : List Touch} {s₀ s : State} (h : Steady F s₀ s) (hh node mask)
    (hF : Touch.within [.out, .qrm] F = true := by rfl) :
    SteadyNext F s₀ (execSuspect hh node mask s) := by
  refine h.widenNext (fun s₀ h => ?_) hF
  unfold execSuspect
  exact .next (h.qmsg (fun u hu => .ite (hu.suspect ..) hu) ..)

theorem execFaultReport_steady {F : List Touch} {s₀ s : State} (h : Steady F s₀ s) (hh who cause)
    (hF : Touch.within [.out, .qrm] F = true := by rfl) :
    SteadyNext F s₀ (execFaultReport hh who cause s) := by
  refine h.widenNext (fun s₀ h => ?_) hF
  unfold execFaultReport
  exact .next (h.qmsg (fun u hu => by
      extract_lets _ s1
      have hs1 : Steady _ s₀ s1 := hu.upd [.qrm]
      exact .ite hu (.ite (hs1.suspect ..) hs1)) ..)

theorem execPropose_steady {F : List Touch} {s₀ s : State} (h : Steady F s₀ s) (hh d)
    (hF : Touch.within [.out, .qrm] F = true := by rfl) :
    SteadyNext F s₀ (execPropose hh d s) := by
  refine h.widenNext (fun s₀ h => ?_) hF
  unfold execPropose
  exact .next (h.qmsg (fun u hu => .ite hu ((hu.upd [.qrm]).quorumSend ..)) ..)

theorem Steady.applyCommit {F : List Touch} {s₀ s : State} (h : Steady F s₀ s) (d)
    (hF : Touch.within (.flatten [[.out, .regs, .cnt, .mem, .sram, .sramBad, .tiles, .parts, .movers, .tier, .rrc,
        .engines, .qps, .srch, .units, .digs, .qrm, .pwr, .pcie, .far], [.anyPage, .page .rstc, .page .pwr, .page
        .pcie, .page .tier, .page .disp, .page .move, .page .tile, .page .feng, .page .srch, .page .mon, .page
        .qrm]]) F = true := by rfl) :
    Steady F s₀ (s.applyCommit d) := by
  refine h.widen (fun s₀ h => ?_) hF
  unfold State.applyCommit
  extract_lets s1 s2 s3 s4
  have hs1 : Steady _ s₀ s1 := h.each (fun u _ hu => hu.each (fun u1 _ hu1 => by
      extract_lets _ _ s5 s6 s7
      have hs5 : Steady _ s₀ s5 := .ite (hu1.upd [.qrm]) hu1
      have hs6 : Steady _ s₀ s6 := hs5.upd [.rrc]
      have hs7 : Steady _ s₀ s7 := hs6.poolFence ..
      exact .ite (hs7.takeCause ..) hs7) ..) ..
  have hs2 : Steady _ s₀ s2 := hs1.each (fun u2 _ hu2 => hu2.each (fun u3 _ hu3 => by
      extract_lets _ s8
      have hs8 : Steady _ s₀ s8 := hu3.upd [.qrm]
      exact .ite (hs8.unfence ..) hs8) ..) ..
  have hs3 : Steady _ s₀ s3 := hs2.each (fun u4 _ hu4 => (hu4.setBit ..).setBit ..) ..
  have hs4 : Steady _ s₀ s4 := ((hs3.passMembers.setEpoch ..).count ..).irq ..
  exact hs4.upd [.qrm]

theorem execVote_steady {F : List Touch} {s₀ s : State} (h : Steady F s₀ s) (hh epoch accept)
    (hF : Touch.within (.flatten [[.out, .regs, .cnt, .mem, .sram, .sramBad, .tiles, .parts, .movers, .tier, .rrc,
        .engines, .qps, .srch, .units, .digs, .qrm, .pwr, .pcie, .far], [.anyPage, .page .rstc, .page .pwr, .page
        .pcie, .page .tier, .page .disp, .page .move, .page .tile, .page .feng, .page .srch, .page .mon, .page
        .qrm]]) F = true := by rfl) :
    SteadyNext F s₀ (execVote hh epoch accept s) := by
  refine h.widenNext (fun s₀ h => ?_) hF
  unfold execVote
  exact .next (h.qmsg (fun u hu => by
      extract_lets
      split
      · exact hu
      · extract_lets _ s1
        have hs1 : Steady _ s₀ s1 := (hu.applyCommit ..).each (fun u1 _ hu1 => hu1.quorumSend ..) ..
        exact .ite hu (.ite ((hs1.upd [.qrm]).propose) (hu.upd [.qrm]))) ..)

theorem execCommit_steady {F : List Touch} {s₀ s : State} (h : Steady F s₀ s) (hh d)
    (hF : Touch.within (.flatten [[.out, .regs, .cnt, .mem, .sram, .sramBad, .tiles, .parts, .movers, .tier, .rrc,
        .engines, .qps, .srch, .units, .digs, .qrm, .pwr, .pcie, .far], [.anyPage, .page .rstc, .page .pwr, .page
        .pcie, .page .tier, .page .disp, .page .move, .page .tile, .page .feng, .page .srch, .page .mon, .page
        .qrm]]) F = true := by rfl) :
    SteadyNext F s₀ (execCommit hh d s) := by
  refine h.widenNext (fun s₀ h => ?_) hF
  unfold execCommit
  exact .next (h.qmsg (fun u hu => .ite ((hu.applyCommit ..).quorumSend ..) (.ite
      ((hu.quorumSend ..).syncReq) hu.syncReq)) ..)

theorem execCommitAck_steady {F : List Touch} {s₀ s : State} (h : Steady F s₀ s) (hh)
    (hF : Touch.within [.qrm] F = true := by rfl) :
    SteadyNext F s₀ (execCommitAck hh s) := by
  refine h.widenNext (fun s₀ h => ?_) hF
  unfold execCommitAck
  exact .next (h.qmsg (fun u hu => hu.upd [.qrm]) ..)

theorem execCommitResendTimer_steady {F : List Touch} {s₀ s : State} (h : Steady F s₀ s)
    (hF : Touch.within [.out, .qrm] F = true := by rfl) :
    SteadyNext F s₀ (execCommitResendTimer s) := by
  refine h.widenNext (fun s₀ h => ?_) hF
  unfold execCommitResendTimer
  exact .next (.ite h (h.each (fun u _ hu => by
      extract_lets
      split
      · exact (hu.upd [.qrm]).suspect ..
      · split
        · exact hu
        · exact (hu.upd [.qrm]).quorumSend ..) ..))

theorem execUnfenceReq_steady {F : List Touch} {s₀ s : State} (h : Steady F s₀ s) (hh mask)
    (hF : Touch.within [.out, .qrm] F = true := by rfl) :
    SteadyNext F s₀ (execUnfenceReq hh mask s) := by
  refine h.widenNext (fun s₀ h => ?_) hF
  unfold execUnfenceReq
  exact .next (h.qmsg (fun u hu => .ite ((hu.upd [.qrm]).propose) hu) ..)

theorem execSyncReq_steady {F : List Touch} {s₀ s : State} (h : Steady F s₀ s) (hh last)
    (hF : Touch.within [.out, .qrm] F = true := by rfl) :
    SteadyNext F s₀ (execSyncReq hh last s) := by
  refine h.widenNext (fun s₀ h => ?_) hF
  unfold execSyncReq
  exact .next (h.qmsg (fun u hu => .ite hu (.ite (hu.each (fun u1 _ hu1 => hu1.quorumSend ..) ..) (hu.each
      (fun u2 _ hu2 => hu2.quorumSend ..) ..))) ..)

theorem execSyncResp_steady {F : List Touch} {s₀ s : State} (h : Steady F s₀ s) (hh entries final)
    (hF : Touch.within (.flatten [[.out, .regs, .cnt, .mem, .sram, .sramBad, .tiles, .parts, .movers, .tier, .rrc,
        .engines, .qps, .srch, .units, .digs, .qrm, .pwr, .pcie, .far], [.anyPage, .page .rstc, .page .pwr, .page
        .pcie, .page .tier, .page .disp, .page .move, .page .tile, .page .feng, .page .srch, .page .mon, .page
        .qrm]]) F = true := by rfl) :
    SteadyNext F s₀ (execSyncResp hh entries final s) := by
  refine h.widenNext (fun s₀ h => ?_) hF
  unfold execSyncResp
  exact .next (h.qmsg (fun u hu => by
      extract_lets _ _ _ _ s1 s2 s3
      have hs1 : Steady _ s₀ s1 := hu.upd [.qrm]
      have hs2 : Steady _ s₀ s2 := (hs1.setEpoch ..).each (fun u1 _ hu1 => by
      extract_lets s4 s5
      have hs4 : Steady _ s₀ s4 := hu1.upd [.rrc]
      have hs5 : Steady _ s₀ s5 := .ite (hs4.poolFence ..) hs4
      exact .ite (hs5.takeCause ..) hs5) ..
      have hs3 : Steady _ s₀ s3 := hs2.each (fun u2 _ hu2 => .ite (hu2.unfence ..) hu2) ..
      exact .ite (hu.upd [.qrm]) ((hs3.passMembers.err ..).irq ..)) ..)

theorem execFenceCompareTick_steady {F : List Touch} {s₀ s : State} (h : Steady F s₀ s)
    (hF : Touch.within [.fresh, .out, .regs, .cnt, .mem, .movers, .tier, .digs, .elog, .qrm, .pwr, .pcie, .page
        .pwr, .page .pcie, .page .tier, .page .move, .page .elog, .page .qrm] F = true := by rfl) :
    SteadyNext F s₀ (execFenceCompareTick s) := by
  refine h.widenNext (fun s₀ h => ?_) hF
  unfold execFenceCompareTick
  extract_lets _ _ _ s1 s2 _ s3 s4
  have hs1 : Steady _ s₀ s1 := h.upd [.qrm]
  have hs2 : Steady _ s₀ s2 := ((hs1.err ..).irq ..).count ..
  have hs3 : Steady _ s₀ s3 := hs2.draw.record ..
  have hs4 : Steady _ s₀ s4 := hs3.setFld ..
  exact .next (.ite (h.upd [.qrm]) (.ite (h.upd [.qrm]) (hs4.takeCauses ..)))

end Sys2Proof.Machine
end


section
/-! PROOFS. What the operations of Reset.lean keep: resets, clocks, bring-up, sync inputs and fabric-global time. -/

namespace Sys2Proof.Machine
open Sys2Proof

theorem Steady.resetPages {F : List Touch} {s₀ s : State} (h : Steady F s₀ s) (p)
    (hF : Touch.within [.regs, .cnt, .shadow, .anyPage] F = true := by rfl) :
    Steady F s₀ (s.resetPages p) := by
  refine h.widen (fun s₀ h => ?_) hF
  exact
    h.of_stores [.regs, .cnt, .shadow, .anyPage] (words := Steady.anywhere) (resets := Steady.anywhere)
        (regs := fun hr => Map.filter_wf _ hr _) (cnt := fun hn => Map.filter_wf _ hn _)
    (shadow := fun hw => Map.rising_filter hw _)

theorem Steady.blockPagesReset {F : List Touch} {s₀ s : State} (h : Steady F s₀ s) (p)
    (hF : Touch.within [.regs, .anyPage] F = true := by rfl) :
    Steady F s₀ (s.blockPagesReset p) := by
  refine h.widen (fun s₀ h => ?_) hF
  unfold State.blockPagesReset
  extract_lets listed t
  have ht : Steady _ s₀ t := h.of_stores [.regs, .anyPage] (words := Steady.anywhere) (resets := Steady.anywhere)
      (regs := fun hr => Map.filter_wf _ hr _)
  exact ht.each (fun u _ hu => hu.setWord ..) _

theorem Steady.ledgerShow {F : List Touch} {s₀ s : State} (h : Steady F s₀ s)
    (hF : Touch.within [.regs, .page .ledg] F = true := by rfl) :
    Steady F s₀ s.ledgerShow := by
  refine h.widen (fun s₀ h => ?_) hF
  unfold State.ledgerShow
  extract_lets _ _ s1 s2
  have hs1 : Steady _ s₀ s1 := (h.setFld ..).setFld ..
  have hs2 : Steady _ s₀ s2 := hs1.setFld ..
  exact hs2.setFld ..

theorem Steady.restart_ {F : List Touch} {s₀ s : State} (h : Steady F s₀ s)
    (hF : Touch.within [.regs, .anyPage, .page .dev, .page .ledg] F = true := by rfl) :
    Steady F s₀ s.restart_ := by
  refine h.widen (fun s₀ h => ?_) hF
  unfold State.restart_
  extract_lets s1
  have hs1 : Steady _ s₀ s1 := h.each (fun u _ hu => hu.setFld ..) ..
  exact .ite h ((hs1.setFld ..).ledgerShow)

theorem Steady.coldReset {F : List Touch} {s₀ s : State} (h : Steady F s₀ s) (cause)
    (hF : Touch.within (.flatten [[.now, .regs, .cnt, .shadow, .mem, .sram, .sramBad, .tiles, .parts, .movers,
        .tenants, .reqs, .convs, .tier, .rrc, .engines, .regions, .qps, .ports, .finj], [.srch, .units, .digs,
        .elog, .qrm, .pwr, .rst, .wlh, .ledger, .uart, .pcie, .sync, .anyPage]]) F = true := by rfl) :
    Steady F s₀ (s.coldReset cause) := by
  refine h.widen (fun s₀ h => ?_) hF
  unfold State.coldReset
  extract_lets t l r w s1
  have hs1 : Steady _ s₀ s1 := h.of_stores
    (.flatten [[.now, .regs, .cnt, .shadow, .mem, .sram, .sramBad, .tiles, .parts, .movers, .tenants, .reqs,
        .convs, .tier, .rrc, .engines, .regions, .qps, .ports, .finj], [.srch, .units, .digs, .elog, .qrm, .pwr,
        .rst, .wlh, .ledger, .uart, .pcie, .sync, .anyPage]]) (words := Steady.anywhere) (resets := Steady.anywhere)
    (mem := fun _ => rfl) (sram := fun _ => rfl) (bad := fun _ => rfl)
    (regs := fun _ => rfl) (cnt := fun _ => rfl) (shadow := fun _ => rfl)
  exact hs1.setFld ..

theorem Steady.warmReset {F : List Touch} {s₀ s : State} (h : Steady F s₀ s) (cause)
    (hF : Touch.within (.flatten [[.out, .regs, .cnt, .shadow, .mem, .sram, .sramBad, .tiles, .parts, .movers,
        .tenants, .reqs, .convs, .tier, .rrc, .engines, .regions, .qps, .ports, .finj], [.srch, .units, .digs,
        .elog, .qrm, .pwr, .rst, .wlh, .uart, .pcie, .far, .anyPage, .page .dev, .page .rstc, .page .pwr, .page
        .wlh, .page .ledg, .page .pcie, .page .tier, .page .move], [.page .feng, .page .srch, .page .mon]]) F =
        true := by rfl) :
    Steady F s₀ (s.warmReset cause) := by
  refine h.widen (fun s₀ h => ?_) hF
  unfold State.warmReset
  extract_lets pci next s1 t s2 s3 keepLp tens w r pw s4 s5 s6 s7
  have hs2 : Steady _ s₀ s2 := (h.keepHeld ..).upd [.tier, .reqs, .convs, .movers, .parts, .tiles, .engines, .qps]
  have hs3 : Steady _ s₀ s3 := hs2.each (fun u _ hu => hu.abortMig ..) _
  have hs4 : Steady _ s₀ s4 := hs3.of_stores [.sram, .sramBad, .regions, .rrc, .ports, .qps, .engines, .movers,
      .finj, .srch, .units, .digs, .elog, .qrm,
    .uart, .tenants, .pcie, .wlh, .rst, .pwr] (sram := fun _ => rfl) (bad := fun _ => rfl)
  have hs6 : Steady _ s₀ s6 := (hs4.resetPages ..).setFld ..
  have hs7 : Steady _ s₀ s7 := (hs6.countAt ..).resetCause ..
  exact hs7.restart_

theorem Steady.takeReset {F : List Touch} {s₀ s : State} (h : Steady F s₀ s) (cause)
    (hF : Touch.within (.flatten [[.now, .out, .regs, .cnt, .shadow, .mem, .sram, .sramBad, .tiles, .parts,
        .movers, .tenants, .reqs, .convs, .tier, .rrc, .engines, .regions, .qps, .ports], [.finj, .srch, .units,
        .digs, .elog, .qrm, .pwr, .rst, .wlh, .ledger, .uart, .pcie, .sync, .far, .anyPage, .page .dev, .page
        .rstc, .page .pwr, .page .wlh, .page .ledg], [.page .pcie, .page .tier, .page .move, .page .feng, .page
        .srch, .page .mon]]) F = true := by rfl) :
    Steady F s₀ (s.takeReset cause) := by
  refine h.widen (fun s₀ h => ?_) hF
  unfold State.takeReset
  exact .ite (h.coldReset ..) (h.warmReset ..)

theorem Steady.deviceReset {F : List Touch} {s₀ s : State} (h : Steady F s₀ s) (cause)
    (hF : Touch.within (.flatten [[.now, .out, .regs, .cnt, .shadow, .mem, .sram, .sramBad, .tiles, .parts,
        .movers, .tenants, .reqs, .convs, .tier, .rrc, .engines, .regions, .qps, .ports], [.finj, .srch, .units,
        .digs, .elog, .qrm, .pwr, .rst, .wlh, .ledger, .uart, .pcie, .sync, .far, .anyPage, .page .dev, .page
        .rstc, .page .pwr, .page .wlh, .page .ledg], [.page .pcie, .page .tier, .page .move, .page .feng, .page
        .srch, .page .mon]]) F = true := by rfl) :
    Steady F s₀ (s.deviceReset cause) := by
  refine h.widen (fun s₀ h => ?_) hF
  unfold State.deviceReset
  extract_lets
  split
  · split
    · exact h.upd [.rst]
    · exact (h.upd [.rst]).count ..
  · exact h.takeReset ..

theorem execPowerOnReset_steady {F : List Touch} {s₀ s : State} (h : Steady F s₀ s)
    (hF : Touch.within (.flatten [[.now, .regs, .cnt, .shadow, .mem, .sram, .sramBad, .tiles, .parts, .movers,
        .tenants, .reqs, .convs, .tier, .rrc, .engines, .regions, .qps, .ports, .finj], [.srch, .units, .digs,
        .elog, .qrm, .pwr, .rst, .wlh, .ledger, .uart, .pcie, .sync, .anyPage]]) F = true := by rfl) :
    SteadyNext F s₀ (execPowerOnReset s) := by
  refine h.widenNext (fun s₀ h => ?_) hF
  unfold execPowerOnReset
  exact .next (h.coldReset ..)

theorem execPwrGoodRise_steady {F : List Touch} {s₀ s : State} (h : Steady F s₀ s)
    (hF : Touch.within [.regs, .rst, .anyPage, .page .dev, .page .clk, .page .ledg] F = true := by rfl) :
    SteadyNext F s₀ (execPwrGoodRise s) := by
  refine h.widenNext (fun s₀ h => ?_) hF
  unfold execPwrGoodRise
  extract_lets _ s1 s2 s3
  have hs1 : Steady _ s₀ s1 := h.upd [.rst]
  have hs2 : Steady _ s₀ s2 := hs1.setFld ..
  have hs3 : Steady _ s₀ s3 := hs2.each (fun u _ hu => hu.setFld ..) ..
  exact .next (.ite h hs3.restart_)

theorem execPwrGoodFall_steady {F : List Touch} {s₀ s : State} (h : Steady F s₀ s)
    (hF : Touch.within (.flatten [[.now, .out, .regs, .cnt, .shadow, .mem, .sram, .sramBad, .tiles, .parts,
        .movers, .tenants, .reqs, .convs, .tier, .rrc, .engines, .regions, .qps, .ports], [.finj, .srch, .units,
        .digs, .elog, .qrm, .pwr, .rst, .wlh, .ledger, .uart, .pcie, .sync, .far, .anyPage, .page .dev, .page
        .rstc, .page .pwr, .page .wlh, .page .ledg], [.page .pcie, .page .tier, .page .move, .page .feng, .page
        .srch, .page .mon]]) F = true := by rfl) :
    SteadyNext F s₀ (execPwrGoodFall s) := by
  refine h.widenNext (fun s₀ h => ?_) hF
  unfold execPwrGoodFall
  exact .next (.ite ((h.upd [.rst]).deviceReset ..) h)

theorem execResetNAssert_steady {F : List Touch} {s₀ s : State} (h : Steady F s₀ s)
    (hF : Touch.within (.flatten [[.now, .out, .regs, .cnt, .shadow, .mem, .sram, .sramBad, .tiles, .parts,
        .movers, .tenants, .reqs, .convs, .tier, .rrc, .engines, .regions, .qps, .ports], [.finj, .srch, .units,
        .digs, .elog, .qrm, .pwr, .rst, .wlh, .ledger, .uart, .pcie, .sync, .far, .anyPage, .page .dev, .page
        .rstc, .page .pwr, .page .wlh, .page .ledg], [.page .pcie, .page .tier, .page .move, .page .feng, .page
        .srch, .page .mon]]) F = true := by rfl) :
    SteadyNext F s₀ (execResetNAssert s) := by
  refine h.widenNext (fun s₀ h => ?_) hF
  unfold execResetNAssert
  exact .next (.ite h ((h.upd [.rst]).deviceReset ..))

theorem Steady.latchStraps {F : List Touch} {s₀ s : State} (h : Steady F s₀ s) (straps)
    (hF : Touch.within [.regs, .rst, .page .dev] F = true := by rfl) :
    Steady F s₀ (s.latchStraps straps) := by
  refine h.widen (fun s₀ h => ?_) hF
  unfold State.latchStraps
  exact (h.upd [.rst]).setFld ..

theorem execResetNRelease_steady {F : List Touch} {s₀ s : State} (h : Steady F s₀ s) (straps)
    (hF : Touch.within [.regs, .rst, .anyPage, .page .dev, .page .ledg] F = true := by rfl) :
    SteadyNext F s₀ (execResetNRelease straps s) := by
  refine h.widenNext (fun s₀ h => ?_) hF
  unfold execResetNRelease
  extract_lets _ s1
  have hs1 : Steady _ s₀ s1 := h.upd [.rst]
  exact .next (.ite (.ite ((hs1.latchStraps ..).restart_) hs1) h)

theorem execStrapSample_steady {F : List Touch} {s₀ s : State} (h : Steady F s₀ s) (straps)
    (hF : Touch.within [.regs, .rst, .page .dev] F = true := by rfl) :
    SteadyNext F s₀ (execStrapSample straps s) := by
  refine h.widenNext (fun s₀ h => ?_) hF
  unfold execStrapSample
  exact .next (.ite (h.latchStraps ..) h)

theorem execPerstAssert_steady {F : List Touch} {s₀ s : State} (h : Steady F s₀ s)
    (hF : Touch.within (.flatten [[.now, .out, .regs, .cnt, .shadow, .mem, .sram, .sramBad, .tiles, .parts,
        .movers, .tenants, .reqs, .convs, .tier, .rrc, .engines, .regions, .qps, .ports], [.finj, .srch, .units,
        .digs, .elog, .qrm, .pwr, .rst, .wlh, .ledger, .uart, .pcie, .sync, .far, .anyPage, .page .dev, .page
        .rstc, .page .pwr, .page .wlh, .page .ledg], [.page .pcie, .page .tier, .page .move, .page .feng, .page
        .srch, .page .mon]]) F = true := by rfl) :
    SteadyNext F s₀ (execPerstAssert s) := by
  refine h.widenNext (fun s₀ h => ?_) hF
  unfold execPerstAssert
  extract_lets _ s1 s2 _ s3
  have hs1 : Steady _ s₀ s1 := h.upd [.rst]
  have hs2 : Steady _ s₀ s2 := hs1.keepHeld ..
  have hs3 : Steady _ s₀ s3 := hs2.upd [.tenants, .pcie]
  exact .next (.ite h (.ite ((hs3.resetPages ..).resetCause ..) (hs1.deviceReset ..)))

theorem execPerstDeassert_steady {F : List Touch} {s₀ s : State} (h : Steady F s₀ s)
    (hF : Touch.within [.regs, .rst, .anyPage, .page .dev, .page .ledg, .page .pcie] F = true := by rfl) :
    SteadyNext F s₀ (execPerstDeassert s) := by
  refine h.widenNext (fun s₀ h => ?_) hF
  unfold execPerstDeassert
  extract_lets _ s1
  have hs1 : Steady _ s₀ s1 := (h.upd [.rst]).restart_
  exact .next (.ite (.ite hs1 (hs1.setFld ..)) h)

theorem execDevRst_steady {F : List Touch} {s₀ s : State} (h : Steady F s₀ s) (key)
    (hF : Touch.within (.flatten [[.now, .out, .regs, .cnt, .shadow, .mem, .sram, .sramBad, .tiles, .parts,
        .movers, .tenants, .reqs, .convs, .tier, .rrc, .engines, .regions, .qps, .ports], [.finj, .srch, .units,
        .digs, .elog, .qrm, .pwr, .rst, .wlh, .ledger, .uart, .pcie, .sync, .far, .anyPage, .page .dev, .page
        .rstc, .page .pwr, .page .wlh, .page .ledg], [.page .pcie, .page .tier, .page .move, .page .feng, .page
        .srch, .page .mon]]) F = true := by rfl) :
    SteadyNext F s₀ (execDevRst key s) := by
  refine h.widenNext (fun s₀ h => ?_) hF
  unfold execDevRst
  exact .next (h.ifReady (fun u hu => .ite (hu.deviceReset ..) (hu.err ..)) ..)

theorem execThermalTrip_steady {F : List Touch} {s₀ s : State} (h : Steady F s₀ s) (temp sensor)
    (hF : Touch.within (.flatten [[.now, .out, .regs, .cnt, .shadow, .mem, .sram, .sramBad, .tiles, .parts,
        .movers, .tenants, .reqs, .convs, .tier, .rrc, .engines, .regions, .qps, .ports], [.finj, .srch, .units,
        .digs, .elog, .qrm, .pwr, .rst, .wlh, .ledger, .uart, .pcie, .sync, .far, .anyPage, .page .dev, .page
        .rstc, .page .pwr, .page .wlh, .page .ledg], [.page .pcie, .page .tier, .page .move, .page .feng, .page
        .srch, .page .mon]]) F = true := by rfl) :
    SteadyNext F s₀ (execThermalTrip temp sensor s) := by
  refine h.widenNext (fun s₀ h => ?_) hF
  unfold execThermalTrip
  extract_lets s1
  have hs1 : Steady _ s₀ s1 := h.setTemp ..
  exact .next (.ite hs1 (((hs1.upd [.rst]).send ..).deviceReset ..))

theorem execThermRelease_steady {F : List Touch} {s₀ s : State} (h : Steady F s₀ s) (temp)
    (hF : Touch.within [.out, .regs, .rst, .anyPage, .page .dev, .page .ledg] F = true := by rfl) :
    SteadyNext F s₀ (execThermRelease temp s) := by
  refine h.widenNext (fun s₀ h => ?_) hF
  unfold execThermRelease
  exact .next (.ite (((h.upd [.rst]).send ..).restart_) h)

theorem execPllLockLoss_steady {F : List Touch} {s₀ s : State} (h : Steady F s₀ s) (l)
    (hF : Touch.within (.flatten [[.now, .out, .regs, .cnt, .shadow, .mem, .sram, .sramBad, .tiles, .parts,
        .movers, .tenants, .reqs, .convs, .tier, .rrc, .engines, .regions, .qps, .ports], [.finj, .srch, .units,
        .digs, .elog, .qrm, .pwr, .rst, .wlh, .ledger, .uart, .pcie, .sync, .far, .anyPage, .page .dev, .page
        .rstc, .page .pwr, .page .clk, .page .wlh], [.page .ledg, .page .pcie, .page .tier, .page .move, .page
        .feng, .page .srch, .page .mon]]) F = true := by rfl) :
    SteadyNext F s₀ (execPllLockLoss l s) := by
  refine h.widenNext (fun s₀ h => ?_) hF
  unfold execPllLockLoss
  extract_lets _ s1 s2
  have hs1 : Steady _ s₀ s1 := h.upd [.rst]
  have hs2 : Steady _ s₀ s2 := ((hs1.setBit ..).count ..).irq ..
  refine .next ?_
  split
  · exact h
  · split
    · exact hs2.deviceReset ..
    · exact hs2.deviceReset ..
    · exact hs2.each (fun u _ hu => hu.setFld ..) ..

theorem execPllRelock_steady {F : List Touch} {s₀ s : State} (h : Steady F s₀ s) (l)
    (hF : Touch.within [.regs, .rst, .anyPage] F = true := by rfl) :
    SteadyNext F s₀ (execPllRelock l s) := by
  refine h.widenNext (fun s₀ h => ?_) hF
  unfold execPllRelock
  extract_lets _ _ s1 s2
  have hs1 : Steady _ s₀ s1 := h.upd [.rst]
  have hs2 : Steady _ s₀ s2 := .ite hs1 (hs1.setBit ..)
  exact .next (.ite (hs2.each (fun u _ hu => hu.setFld ..) ..) h)

theorem Steady.unfenceDenied {F : List Touch} {s₀ s : State} (h : Steady F s₀ s)
    (hF : Touch.within [.regs, .cnt, .page .qrm] F = true := by rfl) :
    Steady F s₀ s.unfenceDenied := by
  refine h.widen (fun s₀ h => ?_) hF
  unfold State.unfenceDenied
  exact (h.err ..).count ..

theorem execBlockResetReq_steady {F : List Touch} {s₀ s : State} (h : Steady F s₀ s) (pg)
    (hF : Touch.within [.regs, .cnt, .rst, .page .rstc, .page .qrm] F = true := by rfl)
    (hP : Touch.pageIn pg F = true := by rfl) :
    SteadyNext F s₀ (execBlockResetReq pg s) := by
  unfold execBlockResetReq
  exact .next (h.ifReady (fun u hu => by
      extract_lets s1
      have hs1 : Steady _ s₀ s1 := (hu.setFld (hF := Touch.within_trans rfl hF) (hP := hP) ..).setFld
          (hF := Touch.within_trans rfl hF) (hP := hP) ..
      exact .ite (hu.unfenceDenied (hF := Touch.within_trans rfl hF)) (.ite (hu.err
          (hF := Touch.within_trans rfl hF) (hP := Touch.pageIn_trans rfl hF) ..) (.ite hu ((hs1.upd [.rst]
          (hF := Touch.within_trans rfl hF)).setFld (hF := Touch.within_trans rfl hF) (hP := hP) ..)))) ..)

theorem Steady.dropOutst {F : List Touch} {s₀ s : State} (h : Steady F s₀ s) (e)
    (hF : Touch.within [.out, .engines, .far] F = true := by rfl) :
    Steady F s₀ (s.dropOutst e) := by
  refine h.widen (fun s₀ h => ?_) hF
  unfold State.dropOutst
  extract_lets _ s1
  have hs1 : Steady _ s₀ s1 := h.setEng ..
  exact hs1.each (fun u _ hu => by
      split
      · split
        · exact hu.deliver ..
        · exact hu
      · exact hu) ..

/-- A block starts again: its pages, its cause, its status. -/
theorem Steady.blockRestart {F : List Touch} {s₀ s : State} (h : Steady F s₀ s) (pg pages r inst v)
    (hF : Touch.within [.regs, .rst, .anyPage, .page .rstc] F = true := by rfl) :
    Steady F s₀ (((({ s.blockPagesReset pages with rst := r } : State).resetCause 9 inst).setFld pg
        Reg.PG_RST_STATUS 2).setFld pg Reg.PG_RST_TIMED_OUT v) := by
  refine h.widen (fun s₀ h => ?_) hF
  exact
      ((((h.blockPagesReset _).upd [.rst]).resetCause ..).setFld ..).setFld ..

theorem Steady.blockReset {F : List Touch} {s₀ s : State} (h : Steady F s₀ s) (pg)
    (hF : Touch.within [.out, .regs, .cnt, .sram, .sramBad, .tiles, .parts, .movers, .reqs, .convs, .tier,
        .engines, .regions, .qps, .ports, .finj, .srch, .units, .digs, .elog, .rst, .uart, .pcie, .far, .anyPage,
        .page .rstc, .page .pcie, .page .port, .page .feng] F = true := by rfl) :
    Steady F s₀ (s.blockReset pg) := by
  refine h.widen (fun s₀ h => ?_) hF
  unfold State.blockReset
  refine Steady.blockRestart ?_ ..
  cases pg with
  | tile t => exact h.clearTile ..
  | disp p =>
    have h1 := h.each (fun u t hu => hu.emptyTile t) (tilesOf p)
    exact (((h1.setPart ..).setMover ..).each (fun u _ hu => hu.dropOutst ..) _).upd [.reqs, .convs]
  | port n => exact (h.linkLost ..).setPort ..
  | feng e =>
    have he := (h.dropOutst e).setEng e { dropped := ((s.dropOutst e).eng e).dropped }
    exact .ite (he.upd [.qps, .regions]) (he.upd [.qps])
  | dig => exact h.upd [.digs]
  | elog => exact h.upd [.elog]
  | srch => exact h.upd [.srch]
  | mon => exact h.upd [.units]
  | finj => exact h.upd [.finj]
  | uart => exact h.upd [.uart]
  | _ => exact h

theorem execQuiesceDone_steady {F : List Touch} {s₀ s : State} (h : Steady F s₀ s) (pg)
    (hF : Touch.within [.out, .regs, .cnt, .sram, .sramBad, .tiles, .parts, .movers, .reqs, .convs, .tier,
        .engines, .regions, .qps, .ports, .finj, .srch, .units, .digs, .elog, .rst, .uart, .pcie, .far, .anyPage,
        .page .rstc, .page .pcie, .page .port, .page .feng] F = true := by rfl) :
    SteadyNext F s₀ (execQuiesceDone pg s) := by
  refine h.widenNext (fun s₀ h => ?_) hF
  unfold execQuiesceDone
  exact .next (.ite (h.blockReset ..) h)

theorem execQuiesceTimeout_steady {F : List Touch} {s₀ s : State} (h : Steady F s₀ s) (pg)
    (hF : Touch.within [.out, .regs, .cnt, .sram, .sramBad, .tiles, .parts, .movers, .reqs, .convs, .tier,
        .engines, .regions, .qps, .ports, .finj, .srch, .units, .digs, .elog, .rst, .uart, .pcie, .far, .anyPage,
        .page .rstc, .page .pcie, .page .port, .page .feng] F = true := by rfl) :
    SteadyNext F s₀ (execQuiesceTimeout pg s) := by
  refine h.widenNext (fun s₀ h => ?_) hF
  unfold execQuiesceTimeout
  exact .next (.ite (((h.setFld ..).count ..).blockReset ..) h)

theorem Steady.endReset {F : List Touch} {s₀ s : State} (h : Steady F s₀ s) (p)
    (hF : Touch.within [.fresh, .out, .regs, .cnt, .mem, .movers, .tenants, .reqs, .convs, .tier, .rrc, .engines,
        .qps, .srch, .units, .digs, .pwr, .pcie, .far, .page .rstc, .page .pwr, .page .pcie, .page .tier, .page
        .move, .page .admt, .page .feng, .page .srch, .page .mon] F = true := by rfl) :
    Steady F s₀ (s.endReset p) := by
  refine h.widen (fun s₀ h => ?_) hF
  unfold State.endReset
  extract_lets s1
  have hs1 : Steady _ s₀ s1 := h.each (fun u _ hu => hu.abortReq ..) ..
  exact hs1.each (fun u1 _ hu1 => ((hu1.dropReq ..).syncQueue ..).pushRec ..) ..

theorem execBlockResetDone_steady {F : List Touch} {s₀ s : State} (h : Steady F s₀ s) (pg)
    (hF : Touch.within [.fresh, .out, .regs, .cnt, .mem, .movers, .tenants, .reqs, .convs, .tier, .rrc, .engines,
        .qps, .srch, .units, .digs, .pwr, .pcie, .far, .anyPage, .page .rstc, .page .pwr, .page .pcie, .page .tier,
        .page .move, .page .admt, .page .feng, .page .srch, .page .mon] F = true := by rfl) :
    SteadyNext F s₀ (execBlockResetDone pg s) := by
  refine h.widenNext (fun s₀ h => ?_) hF
  unfold execBlockResetDone
  extract_lets s1
  have hs1 : Steady _ s₀ s1 := ((h.setFld ..).setFld ..).count ..
  refine .next ?_
  split
  · split
    · extract_lets s2
      have hs2 : Steady _ s₀ s2 := hs1.each (fun u _ hu => hu.setFld ..) ..
      exact hs2.endReset ..
    · exact hs1
  · exact h

theorem execFsyncEdge_steady {F : List Touch} {s₀ s : State} (h : Steady F s₀ s) (falling)
    (hF : Touch.within [.regs, .cnt, .sync, .page .sync] F = true := by rfl) :
    SteadyNext F s₀ (execFsyncEdge falling s) := by
  refine h.widenNext (fun s₀ h => ?_) hF
  unfold execFsyncEdge
  extract_lets _ _ _ s1 s2 s3
  have hs1 : Steady _ s₀ s1 := (h.upd [.sync]).count ..
  have hs2 : Steady _ s₀ s2 := .ite (hs1.setFld ..) hs1
  have hs3 : Steady _ s₀ s3 := hs2.setFld ..
  exact .next (.ite h (.ite (h.count ..) (.ite (hs3.setFld ..) hs3)))

theorem execFsyncLostTimeout_steady {F : List Touch} {s₀ s : State} (h : Steady F s₀ s)
    (hF : Touch.within [.out, .regs, .cnt, .pcie, .sync, .page .pcie, .page .sync] F = true := by rfl) :
    SteadyNext F s₀ (execFsyncLostTimeout s) := by
  refine h.widenNext (fun s₀ h => ?_) hF
  unfold execFsyncLostTimeout
  exact .next (.ite ((((h.upd [.sync]).setFld ..).count ..).irq ..) h)

theorem Steady.moveTime {F : List Touch} {s₀ s : State} (h : Steady F s₀ s) (d)
    (hF : Touch.within [.now] F = true := by rfl) :
    Steady F s₀ (s.moveTime d) := by
  refine h.widen (fun s₀ h => ?_) hF
  unfold State.moveTime
  exact h.upd [.now]

theorem execTsyncEdge_steady {F : List Touch} {s₀ s : State} (h : Steady F s₀ s)
    (hF : Touch.within [.now, .regs, .cnt, .sync, .page .sync, .page .time] F = true := by rfl) :
    SteadyNext F s₀ (execTsyncEdge s) := by
  refine h.widenNext (fun s₀ h => ?_) hF
  unfold execTsyncEdge
  extract_lets _ _ s1 _ s2 s3
  have hs1 : Steady _ s₀ s1 := (h.upd [.sync]).count ..
  have hs2 : Steady _ s₀ s2 := .ite ((hs1.count ..).moveTime ..) hs1
  have hs3 : Steady _ s₀ s3 := hs2.setFld ..
  exact .next (.ite h (.ite (hs3.setFld ..) hs3))

theorem execTsyncLostTimeout_steady {F : List Touch} {s₀ s : State} (h : Steady F s₀ s)
    (hF : Touch.within [.out, .regs, .cnt, .pcie, .sync, .page .pcie, .page .sync] F = true := by rfl) :
    SteadyNext F s₀ (execTsyncLostTimeout s) := by
  refine h.widenNext (fun s₀ h => ?_) hF
  unfold execTsyncLostTimeout
  exact .next (.ite (((h.upd [.sync]).setFld ..).irq ..) h)

theorem execTimeExchangeTimer_steady {F : List Touch} {s₀ s : State} (h : Steady F s₀ s)
    (hF : Touch.within [.out, .sync] F = true := by rfl) :
    SteadyNext F s₀ (execTimeExchangeTimer s) := by
  refine h.widenNext (fun s₀ h => ?_) hF
  unfold execTimeExchangeTimer
  exact .next (.ite h ((h.upd [.sync]).send ..))

theorem execTimeMessage_steady {F : List Touch} {s₀ s : State} (h : Steady F s₀ s) (t1 t2 t3 t4)
    (hF : Touch.within [.now, .out, .regs, .cnt, .pcie, .sync, .page .pcie, .page .time] F = true := by rfl) :
    SteadyNext F s₀ (execTimeMessage t1 t2 t3 t4 s) := by
  refine h.widenNext (fun s₀ h => ?_) hF
  unfold execTimeMessage
  extract_lets _ _ _ s1 s2 _ s3
  have hs1 : Steady _ s₀ s1 := (h.upd [.sync]).count ..
  have hs2 : Steady _ s₀ s2 := hs1.setFld ..
  have hs3 : Steady _ s₀ s3 := .ite ((hs2.count ..).moveTime ..) (.ite hs2 ((hs2.count ..).moveTime ..))
  exact .next (.ite h (.ite (((hs3.upd [.sync]).setFld ..).irq ..) hs3))

theorem execTimeSet_steady {F : List Touch} {s₀ s : State} (h : Steady F s₀ s) (ns)
    (hF : Touch.within [.now, .regs, .cnt, .page .time] F = true := by rfl) :
    SteadyNext F s₀ (execTimeSet ns s) := by
  refine h.widenNext (fun s₀ h => ?_) hF
  unfold execTimeSet
  exact .next (h.ifReady (fun u hu => .ite (hu.upd [.now]) (hu.err ..)) ..)

end Sys2Proof.Machine
end


section
/-! PROOFS. What the operations of Firmware.lean keep: the Wellhead: boot, update, recovery, ledger, flash wear,
watchdog and UART. -/

namespace Sys2Proof.Machine
open Sys2Proof

theorem Steady.wlhShow {F : List Touch} {s₀ s : State} (h : Steady F s₀ s)
    (hF : Touch.within [.regs, .page .wlh] F = true := by rfl) :
    Steady F s₀ s.wlhShow := by
  refine h.widen (fun s₀ h => ?_) hF
  unfold State.wlhShow
  extract_lets _ s1 s2 s3
  have hs1 : Steady _ s₀ s1 := (h.setFld ..).setFld ..
  have hs2 : Steady _ s₀ s2 := hs1.setFld ..
  have hs3 : Steady _ s₀ s3 := hs2.setFld ..
  exact hs3.setFld ..

theorem Steady.ledgerWritten {F : List Touch} {s₀ s : State} (h : Steady F s₀ s) (r)
    (hF : Touch.within [.regs, .cnt, .wlh, .ledger, .page .wlh, .page .ledg] F = true := by rfl) :
    Steady F s₀ (s.ledgerWritten r) := by
  refine h.widen (fun s₀ h => ?_) hF
  unfold State.ledgerWritten
  extract_lets _ s1
  have hs1 : Steady _ s₀ s1 := (((h.upd [.ledger]).count ..).count ..).ledgerShow
  exact .ite ((hs1.upd [.wlh]).wlhShow) hs1

theorem Steady.ledgerPut {F : List Touch} {s₀ s : State} (h : Steady F s₀ s) (r)
    (hF : Touch.within [.regs, .cnt, .wlh, .ledger, .page .wlh, .page .ledg] F = true := by rfl) :
    Steady F s₀ (s.ledgerPut r) := by
  refine h.widen (fun s₀ h => ?_) hF
  unfold State.ledgerPut
  exact .ite h (h.ledgerWritten ..)

theorem Steady.setImg {F : List Touch} {s₀ s : State} (h : Steady F s₀ s) (slotB x tries)
    (hF : Touch.within [.regs, .cnt, .wlh, .ledger, .page .wlh, .page .ledg] F = true := by rfl) :
    Steady F s₀ (s.setImg slotB x tries) := by
  refine h.widen (fun s₀ h => ?_) hF
  unfold State.setImg
  exact h.ledgerPut ..

theorem Steady.storePut {F : List Touch} {s₀ s : State} (h : Steady F s₀ s) (b)
    (hF : Touch.within [.wlh] F = true := by rfl) :
    Steady F s₀ (s.storePut b) := by
  refine h.widen (fun s₀ h => ?_) hF
  unfold State.storePut
  extract_lets
  split
  · exact h
  · exact h.each (fun u _ hu => hu.upd [.wlh]) ..

theorem Steady.startImage {F : List Touch} {s₀ s : State} (h : Steady F s₀ s) (img)
    (hF : Touch.within [.regs, .wlh, .page .pin] F = true := by rfl) :
    Steady F s₀ (s.startImage img) := by
  refine h.widen (fun s₀ h => ?_) hF
  unfold State.startImage
  extract_lets s1
  have hs1 : Steady _ s₀ s1 := h.setFld ..
  exact hs1.upd [.wlh]

theorem Steady.trySlot {F : List Touch} {s₀ s : State} (h : Steady F s₀ s) (slotB)
    (hF : Touch.within [.regs, .cnt, .wlh, .ledger, .page .wlh, .page .ledg] F = true := by rfl) :
    Steady F s₀ (s.trySlot slotB).2 := by
  refine h.widen (fun s₀ h => ?_) hF
  unfold State.trySlot
  extract_lets
  split
  · exact .ite_snd ((h.setImg ..).count ..) (.ite_snd (h.setImg ..) (h.setImg ..))
  · exact .ite_snd h (h.setImg ..)
  · exact h

theorem Steady.enterRecovery {F : List Touch} {s₀ s : State} (h : Steady F s₀ s)
    (hF : Touch.within [.out, .regs, .anyPage, .page .wlh, .page .uart, .page .pin] F = true := by rfl) :
    Steady F s₀ s.enterRecovery := by
  refine h.widen (fun s₀ h => ?_) hF
  unfold State.enterRecovery
  extract_lets s1 s2 s3
  have hs1 : Steady _ s₀ s1 := h.each (fun u _ hu => hu.setFld ..) ..
  have hs2 : Steady _ s₀ s2 := (hs1.setFld ..).setFld ..
  have hs3 : Steady _ s₀ s3 := ((hs2.setFld ..).setFld ..).setFld ..
  exact hs3.wlhShow.send ..

theorem Steady.bootSlot {F : List Touch} {s₀ s : State} (h : Steady F s₀ s) (slotB)
    (hF : Touch.within [.out, .regs, .cnt, .wlh, .page .wlh, .page .pin] F = true := by rfl) :
    Steady F s₀ (s.bootSlot slotB) := by
  refine h.widen (fun s₀ h => ?_) hF
  unfold State.bootSlot
  extract_lets _ s1
  have hs1 : Steady _ s₀ s1 := (h.upd [.wlh]).startImage ..
  exact (((hs1.setFld ..).count ..).wlhShow).send ..

theorem Steady.dropWriting {F : List Touch} {s₀ s : State} (h : Steady F s₀ s)
    (hF : Touch.within [.regs, .cnt, .wlh, .ledger, .page .wlh, .page .ledg] F = true := by rfl) :
    Steady F s₀ s.dropWriting := by
  refine h.widen (fun s₀ h => ?_) hF
  unfold State.dropWriting
  exact h.each (fun u _ hu => .ite (hu.setImg ..) hu) ..

theorem Steady.eraseSector {F : List Touch} {s₀ s : State} (h : Steady F s₀ s) (k)
    (hF : Touch.within [.out, .regs, .cnt, .wlh, .ledger, .page .wlh, .page .ledg] F = true := by rfl) :
    Steady F s₀ (s.eraseSector k) := by
  refine h.widen (fun s₀ h => ?_) hF
  unfold State.eraseSector
  extract_lets _ _ s1
  have hs1 : Steady _ s₀ s1 := h.upd [.wlh]
  exact (hs1.ledgerPut ..).send ..

theorem Steady.mendFlash {F : List Touch} {s₀ s : State} (h : Steady F s₀ s)
    (hF : Touch.within [.out, .regs, .cnt, .wlh, .ledger, .page .wlh, .page .ledg] F = true := by rfl) :
    Steady F s₀ s.mendFlash := by
  refine h.widen (fun s₀ h => ?_) hF
  unfold State.mendFlash
  exact h.each (fun u _ hu => hu.eraseSector ..) ..

theorem execRomBoot_steady {F : List Touch} {s₀ s : State} (h : Steady F s₀ s)
    (hF : Touch.within [.out, .regs, .cnt, .wlh, .ledger, .anyPage, .page .wlh, .page .ledg, .page .uart, .page
        .pin] F = true := by rfl) :
    SteadyNext F s₀ (execRomBoot s) := by
  refine h.widenNext (fun s₀ h => ?_) hF
  unfold execRomBoot
  extract_lets _ s1 _ s2 _ a b
  have hs1 : Steady _ s₀ s1 := (((h.setFld ..).setFld ..).ledgerShow).dropWriting
  have hs2 : Steady _ s₀ s2 := hs1.mendFlash
  have ha : Steady _ s₀ a.2 := hs2.trySlot ..
  have hb : Steady _ s₀ b.2 := ha.trySlot ..
  exact .next (.ite h (.ite hs1.enterRecovery (.ite (ha.bootSlot ..) (.ite (hb.bootSlot ..) hb.enterRecovery))))

theorem execWlhWdogWarn_steady {F : List Touch} {s₀ s : State} (h : Steady F s₀ s)
    (hF : Touch.within [.out, .regs, .cnt, .wlh, .pcie, .page .wlh, .page .pcie] F = true := by rfl) :
    SteadyNext F s₀ (execWlhWdogWarn s) := by
  refine h.widenNext (fun s₀ h => ?_) hF
  unfold execWlhWdogWarn
  exact .next (.ite ((h.upd [.wlh]).irq ..) h)

theorem execWdogReset_steady {F : List Touch} {s₀ s : State} (h : Steady F s₀ s)
    (hF : Touch.within (.flatten [[.now, .out, .regs, .cnt, .shadow, .mem, .sram, .sramBad, .tiles, .parts,
        .movers, .tenants, .reqs, .convs, .tier, .rrc, .engines, .regions, .qps, .ports], [.finj, .srch, .units,
        .digs, .elog, .qrm, .pwr, .rst, .wlh, .ledger, .uart, .pcie, .sync, .far, .anyPage, .page .dev, .page
        .rstc, .page .pwr, .page .wlh, .page .ledg], [.page .pcie, .page .tier, .page .move, .page .feng, .page
        .srch, .page .mon]]) F = true := by rfl) :
    SteadyNext F s₀ (execWdogReset s) := by
  refine h.widenNext (fun s₀ h => ?_) hF
  unfold execWdogReset
  exact .next (.ite (h.deviceReset ..) h)

theorem execWlhKick_steady {F : List Touch} {s₀ s : State} (h : Steady F s₀ s) (key)
    (hF : Touch.within [.wlh] F = true := by rfl) :
    SteadyNext F s₀ (execWlhKick key s) := by
  refine h.widenNext (fun s₀ h => ?_) hF
  unfold execWlhKick
  exact .next (h.ifReady (fun u hu => .ite (hu.upd [.wlh]) hu) ..)

theorem Steady.failInstall {F : List Touch} {s₀ s : State} (h : Steady F s₀ s) (u code)
    (hF : Touch.within [.regs, .cnt, .wlh, .ledger, .page .wlh, .page .ledg] F = true := by rfl) :
    Steady F s₀ (s.failInstall u code) := by
  refine h.widen (fun s₀ h => ?_) hF
  unfold State.failInstall
  exact (h.upd [.wlh]).setImg ..

theorem Steady.nextSector {F : List Touch} {s₀ s : State} (h : Steady F s₀ s) (u k)
    (hF : Touch.within [.out, .regs, .cnt, .wlh, .ledger, .page .wlh, .page .ledg] F = true := by rfl) :
    Steady F s₀ (s.nextSector u k) := by
  refine h.widen (fun s₀ h => ?_) hF
  unfold State.nextSector
  extract_lets
  split
  · exact (h.upd [.wlh]).eraseSector ..
  · exact h.failInstall ..

theorem Steady.startUpd {F : List Touch} {s₀ s : State} (h : Steady F s₀ s) (u)
    (hF : Touch.within [.out, .regs, .cnt, .wlh, .ledger, .page .wlh, .page .ledg] F = true := by rfl) :
    Steady F s₀ (s.startUpd u) := by
  refine h.widen (fun s₀ h => ?_) hF
  unfold State.startUpd
  extract_lets _ _ _ _ _ _ s1
  have hs1 : Steady _ s₀ s1 := h.upd [.wlh]
  exact .ite ((hs1.setImg ..).nextSector ..) hs1

theorem Steady.updGo {F : List Touch} {s₀ s : State} (h : Steady F s₀ s) (op)
    (hF : Touch.within [.out, .regs, .cnt, .wlh, .ledger, .page .wlh, .page .ledg] F = true := by rfl) :
    Steady F s₀ (s.updGo op) := by
  refine h.widen (fun s₀ h => ?_) hF
  unfold State.updGo
  exact h.ifReady (fun u hu => by
      extract_lets s1
      have hs1 : Steady _ s₀ s1 := (hu.setFld ..).setFld ..
      exact .ite (hu.err ..) (hs1.startUpd ..)) ..

theorem execInstall_steady {F : List Touch} {s₀ s : State} (h : Steady F s₀ s)
    (hF : Touch.within [.out, .regs, .cnt, .wlh, .ledger, .page .wlh, .page .ledg] F = true := by rfl) :
    SteadyNext F s₀ (execInstall s) := by
  refine h.widenNext (fun s₀ h => ?_) hF
  unfold execInstall
  exact .next (h.updGo ..)

theorem execVerify_steady {F : List Touch} {s₀ s : State} (h : Steady F s₀ s)
    (hF : Touch.within [.out, .regs, .cnt, .wlh, .ledger, .page .wlh, .page .ledg] F = true := by rfl) :
    SteadyNext F s₀ (execVerify s) := by
  refine h.widenNext (fun s₀ h => ?_) hF
  unfold execVerify
  exact .next (h.updGo ..)

theorem Steady.uartAnswer {F : List Touch} {s₀ s : State} (h : Steady F s₀ s) (seq result)
    (hF : Touch.within [.out, .cnt, .page .uart] F = true := by rfl) :
    Steady F s₀ (s.uartAnswer seq result) := by
  refine h.widen (fun s₀ h => ?_) hF
  unfold State.uartAnswer
  exact (h.send ..).count ..

theorem Steady.updResult {F : List Touch} {s₀ s : State} (h : Steady F s₀ s) (u code)
    (hF : Touch.within [.out, .regs, .cnt, .wlh, .pcie, .page .wlh, .page .uart, .page .pcie] F = true := by rfl) :
    Steady F s₀ (s.updResult u code) := by
  refine h.widen (fun s₀ h => ?_) hF
  unfold State.updResult
  extract_lets _ s1 _ s2
  have hs1 : Steady _ s₀ s1 := h.upd [.wlh]
  have hs2 : Steady _ s₀ s2 := hs1.upd [.wlh]
  split
  · split
    · exact hs2.uartAnswer ..
    · exact hs2
  · exact ((hs1.setFld ..).setFld ..).irq ..

theorem Steady.leaveRecovery {F : List Touch} {s₀ s : State} (h : Steady F s₀ s)
    (hF : Touch.within [.regs, .anyPage, .page .wlh] F = true := by rfl) :
    Steady F s₀ s.leaveRecovery := by
  refine h.widen (fun s₀ h => ?_) hF
  unfold State.leaveRecovery
  extract_lets s1
  have hs1 : Steady _ s₀ s1 := h.setFld ..
  exact hs1.each (fun u _ hu => hu.setFld ..) ..

theorem execUpdDone_steady {F : List Touch} {s₀ s : State} (h : Steady F s₀ s)
    (hF : Touch.within [.out, .regs, .cnt, .wlh, .ledger, .pcie, .anyPage, .page .wlh, .page .ledg, .page .uart,
        .page .pcie, .page .pin] F = true := by rfl) :
    SteadyNext F s₀ (execUpdDone s) := by
  refine h.widenNext (fun s₀ h => ?_) hF
  unfold execUpdDone
  refine .next ?_
  split
  · exact h
  · extract_lets _ _ s1 s2
    have hs1 : Steady _ s₀ s1 := .ite (h.setImg ..) h
    have hs2 : Steady _ s₀ s2 := hs1.updResult ..
    exact .ite h (.ite (h.updResult ..) (.ite (((hs2.startImage ..).leaveRecovery).send ..) hs2))

theorem execConfirm_steady {F : List Touch} {s₀ s : State} (h : Steady F s₀ s)
    (hF : Touch.within [.regs, .cnt, .ledger, .page .wlh] F = true := by rfl) :
    SteadyNext F s₀ (execConfirm s) := by
  refine h.widenNext (fun s₀ h => ?_) hF
  unfold execConfirm
  exact .next (h.ifReady (fun u hu => .ite (hu.err ..) (.ite hu (hu.upd [.ledger]))) ..)

theorem Steady.rcvGo {F : List Touch} {s₀ s : State} (h : Steady F s₀ s) (op seq)
    (hF : Touch.within [.out, .regs, .cnt, .wlh, .ledger, .page .wlh, .page .ledg] F = true := by rfl) :
    Steady F s₀ (s.rcvGo op seq) := by
  refine h.widen (fun s₀ h => ?_) hF
  unfold State.rcvGo
  exact .ite (h.upd [.wlh]) (h.startUpd ..)

theorem execRcvVerify_steady {F : List Touch} {s₀ s : State} (h : Steady F s₀ s)
    (hF : Touch.within [.out, .regs, .cnt, .wlh, .ledger, .page .wlh, .page .ledg] F = true := by rfl) :
    SteadyNext F s₀ (execRcvVerify s) := by
  refine h.widenNext (fun s₀ h => ?_) hF
  unfold execRcvVerify
  exact .next (.ite (h.rcvGo ..) h)

theorem execRcvInstall_steady {F : List Touch} {s₀ s : State} (h : Steady F s₀ s)
    (hF : Touch.within [.out, .regs, .cnt, .wlh, .ledger, .page .wlh, .page .ledg] F = true := by rfl) :
    SteadyNext F s₀ (execRcvInstall s) := by
  refine h.widenNext (fun s₀ h => ?_) hF
  unfold execRcvInstall
  exact .next (.ite (h.rcvGo ..) h)

theorem execRcvBoot_steady {F : List Touch} {s₀ s : State} (h : Steady F s₀ s)
    (hF : Touch.within [.out, .regs, .cnt, .wlh, .ledger, .page .wlh, .page .ledg] F = true := by rfl) :
    SteadyNext F s₀ (execRcvBoot s) := by
  refine h.widenNext (fun s₀ h => ?_) hF
  unfold execRcvBoot
  exact .next (.ite (h.rcvGo ..) h)

theorem Steady.frame {F : List Touch} {s₀ s : State} (h : Steady F s₀ s) {f}
    (hf : ∀ x0, Steady F s₀ x0 → Steady F s₀ (f x0).1) (seq crcOk)
    (hF : Touch.within [.out, .cnt, .wlh, .uart, .page .uart] F = true := by rfl) :
    Steady F s₀ (s.frame seq crcOk f) := by
  unfold State.frame
  extract_lets _ s1 x s2 _ s3
  have hs1 : Steady _ s₀ s1 := h.upd [.uart] (hF := Touch.within_trans rfl hF)
  have hx : Steady _ s₀ x.1 := hf _ hs1
  have hs2 : Steady _ s₀ s2 := hx
  have hs3 : Steady _ s₀ s3 := hs2.upd [.wlh] (hF := Touch.within_trans rfl hF)
  split
  · exact h
  · split
    · exact hs1.uartAnswer (hF := Touch.within_trans rfl hF) ..
    · split
      · exact hs1.uartAnswer (hF := Touch.within_trans rfl hF) ..
      · split
        · exact hs3.uartAnswer (hF := Touch.within_trans rfl hF) ..
        · exact hs3

theorem execWriteBuf_steady {F : List Touch} {s₀ s : State} (h : Steady F s₀ s) (seq offset data crcOk)
    (hF : Touch.within [.out, .cnt, .wlh, .uart, .page .uart] F = true := by rfl) :
    SteadyNext F s₀ (execWriteBuf seq offset data crcOk s) := by
  refine h.widenNext (fun s₀ h => ?_) hF
  unfold execWriteBuf
  exact .next (h.frame (fun u hu => .ite_fst hu (hu.upd [.wlh])) ..)

theorem execSetLen_steady {F : List Touch} {s₀ s : State} (h : Steady F s₀ s) (seq len crcOk)
    (hF : Touch.within [.out, .cnt, .wlh, .uart, .page .uart] F = true := by rfl) :
    SteadyNext F s₀ (execSetLen seq len crcOk s) := by
  refine h.widenNext (fun s₀ h => ?_) hF
  unfold execSetLen
  exact .next (h.frame (fun u hu => hu.upd [.wlh]) ..)

theorem execRun_steady {F : List Touch} {s₀ s : State} (h : Steady F s₀ s) (seq op crcOk)
    (hF : Touch.within [.fresh, .out, .regs, .cnt, .wlh, .ledger, .uart, .page .wlh, .page .ledg, .page .uart] F =
        true := by rfl) :
    SteadyNext F s₀ (execRun seq op crcOk s) := by
  refine h.widenNext (fun s₀ h => ?_) hF
  unfold execRun
  exact .next (h.frame (fun u hu => .ite_fst hu.draw (.ite_fst (hu.rcvGo ..) (hu.rcvGo ..))) ..)

theorem execStatus_steady {F : List Touch} {s₀ s : State} (h : Steady F s₀ s) (seq crcOk)
    (hF : Touch.within [.out, .cnt, .wlh, .uart, .page .uart] F = true := by rfl) :
    SteadyNext F s₀ (execStatus seq crcOk s) := by
  refine h.widenNext (fun s₀ h => ?_) hF
  unfold execStatus
  exact .next (h.frame (fun u hu => hu) ..)

theorem execUartFrameTimeout_steady {F : List Touch} {s₀ s : State} (h : Steady F s₀ s)
    (hF : Touch.within [.uart] F = true := by rfl) :
    SteadyNext F s₀ (execUartFrameTimeout s) := by
  refine h.widenNext (fun s₀ h => ?_) hF
  unfold execUartFrameTimeout
  exact .next (h.upd [.uart])

theorem execUartRxByte_steady {F : List Touch} {s₀ s : State} (h : Steady F s₀ s) (b stopLow)
    (hF : Touch.within [.out, .regs, .cnt, .uart, .pcie, .page .uart, .page .pcie] F = true := by rfl) :
    SteadyNext F s₀ (execUartRxByte b stopLow s) := by
  refine h.widenNext (fun s₀ h => ?_) hF
  unfold execUartRxByte
  exact .next (h.ifReady (fun u hu => .ite hu (.ite ((hu.setFld ..).count ..) (.ite ((hu.upd [.uart]).count ..)
      (.ite ((hu.setFld ..).count ..) (((hu.upd [.uart]).count ..).irq ..))))) ..)

theorem execUartDataWrite_steady {F : List Touch} {s₀ s : State} (h : Steady F s₀ s) (b)
    (hF : Touch.within [.uart] F = true := by rfl) :
    SteadyNext F s₀ (execUartDataWrite b s) := by
  refine h.widenNext (fun s₀ h => ?_) hF
  unfold execUartDataWrite
  exact .next (h.ifReady (fun u hu => .ite (hu.upd [.uart]) hu) ..)

theorem execUartDataRead_steady {F : List Touch} {s₀ s : State} (h : Steady F s₀ s)
    (hF : Touch.within [.out, .uart] F = true := by rfl) :
    SteadyNext F s₀ (execUartDataRead s) := by
  refine h.widenNext (fun s₀ h => ?_) hF
  unfold execUartDataRead
  extract_lets
  refine .next ?_
  split
  · exact h.send ..
  · split
    · exact h.send ..
    · exact (h.upd [.uart]).send ..

theorem execUartTxByteSent_steady {F : List Touch} {s₀ s : State} (h : Steady F s₀ s)
    (hF : Touch.within [.out, .regs, .cnt, .uart, .pcie, .page .uart, .page .pcie] F = true := by rfl) :
    SteadyNext F s₀ (execUartTxByteSent s) := by
  refine h.widenNext (fun s₀ h => ?_) hF
  unfold execUartTxByteSent
  extract_lets
  refine .next ?_
  split
  · exact h
  · extract_lets s1
    have hs1 : Steady _ s₀ s1 := ((h.upd [.uart]).when (fun u hu => hu.send ..) ..).count ..
    exact .ite h (.ite (hs1.irq ..) hs1)

theorem execLedgWrGo_steady {F : List Touch} {s₀ s : State} (h : Steady F s₀ s) (by_ type key)
    (hF : Touch.within [.regs, .cnt, .ledger, .page .ledg] F = true := by rfl) :
    SteadyNext F s₀ (execLedgWrGo by_ type key s) := by
  refine h.widenNext (fun s₀ h => ?_) hF
  unfold execLedgWrGo
  extract_lets result
  have hresult : ∀ x0 x1, Steady [.regs, .cnt, .ledger, .page .ledg] s₀ x0 → Steady [.regs, .cnt, .ledger, .page
      .ledg] s₀ (result x0 x1) :=
    (fun u _ hu => hu.setFld ..)
  exact .next (h.ifReady (fun u1 hu1 => by
      extract_lets _ s1
      have hs1 : Steady _ s₀ s1 := (hu1.setFld ..).setFld ..
      exact .ite ((hresult _ _ hu1).err ..) (.ite hu1 (.ite ((hresult _ _ hs1).err ..) (.ite
          ((hresult _ _ hs1).err ..) (.ite (hresult _ _ hs1) ((hs1.upd [.ledger]).setFld ..)))))) ..)

theorem Steady.ledgerTry {F : List Touch} {s₀ s : State} (h : Steady F s₀ s) (r failures)
    (hF : Touch.within [.out, .regs, .cnt, .wlh, .ledger, .pcie, .page .wlh, .page .ledg, .page .pcie] F = true :=
        by rfl) :
    Steady F s₀ (s.ledgerTry r failures).2 := by
  refine h.widen (fun s₀ h => ?_) hF
  unfold State.ledgerTry
  extract_lets s1 _ s2
  have hs1 : Steady _ s₀ s1 := h.count ..
  have hs2 : Steady _ s₀ s2 := hs1.count ..
  exact .ite_snd (hs1.ledgerWritten ..) (.ite_snd (((hs2.upd [.ledger]).ledgerShow).irq ..)
      ((hs2.upd [.ledger]).ledgerWritten ..))

theorem Steady.ledgerError {F : List Touch} {s₀ s : State} (h : Steady F s₀ s) (failures)
    (hF : Touch.within [.out, .regs, .cnt, .elog, .wlh, .ledger, .pcie, .page .wlh, .page .ledg, .page .pcie] F =
        true := by rfl) :
    Steady F s₀ (s.ledgerError failures) := by
  refine h.widen (fun s₀ h => ?_) hF
  unfold State.ledgerError
  extract_lets
  split
  · exact h
  · extract_lets s1 t
    have hs1 : Steady _ s₀ s1 := h.upd [.elog]
    have ht : Steady _ s₀ t.2 := hs1.ledgerTry ..
    exact .ite h (.ite (hs1.count ..) (.ite ht (ht.count ..)))

theorem execLedgWriteDone_steady {F : List Touch} {s₀ s : State} (h : Steady F s₀ s) (failures)
    (hF : Touch.within (.flatten [[.now, .out, .regs, .cnt, .shadow, .mem, .sram, .sramBad, .tiles, .parts,
        .movers, .tenants, .reqs, .convs, .tier, .rrc, .engines, .regions, .qps, .ports], [.finj, .srch, .units,
        .digs, .elog, .qrm, .pwr, .rst, .wlh, .ledger, .uart, .pcie, .sync, .far, .anyPage, .page .dev, .page
        .rstc, .page .pwr, .page .wlh, .page .ledg], [.page .pcie, .page .tier, .page .move, .page .feng, .page
        .srch, .page .mon]]) F = true := by rfl) :
    SteadyNext F s₀ (execLedgWriteDone failures s) := by
  refine h.widenNext (fun s₀ h => ?_) hF
  unfold execLedgWriteDone
  extract_lets
  refine .next ?_
  split
  · exact h.ledgerError ..
  · extract_lets s1 x s2 s3 s4
    have hs1 : Steady _ s₀ s1 := h.upd [.ledger]
    have hx : Steady _ s₀ x.2 := .ite_snd hs1 (hs1.ledgerTry ..)
    have hs2 : Steady _ s₀ s2 := hx
    have hs3 : Steady _ s₀ s3 := (hs2.setFld ..).setFld ..
    have hs4 : Steady _ s₀ s4 := .ite (.ite hs3 (hs3.err ..)) hs2
    split
    · exact .ite ((hs4.upd [.rst]).takeReset ..) hs4
    · exact hs4

theorem execLedgRdGo_steady {F : List Touch} {s₀ s : State} (h : Steady F s₀ s) (index byKey)
    (hF : Touch.within [.regs, .anyPage, .page .ledg] F = true := by rfl) :
    SteadyNext F s₀ (execLedgRdGo index byKey s) := by
  refine h.widenNext (fun s₀ h => ?_) hF
  unfold execLedgRdGo
  exact .next (h.ifReady (fun u hu => by
      extract_lets s1 _ r
      have hs1 : Steady _ s₀ s1 := (hu.setFld ..).setFld ..
      clear_value r
      split
      · exact hs1.setFld ..
      · exact (hs1.each (fun u1 _ hu1 => hu1.setFldAt ..) ..).setFld ..) ..)

theorem Steady.setSector {F : List Touch} {s₀ s : State} (h : Steady F s₀ s) (k x)
    (hF : Touch.within [.regs, .cnt, .wlh, .ledger, .page .wlh, .page .ledg] F = true := by rfl) :
    Steady F s₀ (s.setSector k x) := by
  refine h.widen (fun s₀ h => ?_) hF
  unfold State.setSector
  extract_lets _ _ _ s1 s2
  have hs1 : Steady _ s₀ s1 := h.upd [.wlh]
  have hs2 : Steady _ s₀ s2 := .ite ((hs1.count ..).each (fun u _ hu => hu.storePut ..) ..) hs1
  exact hs2.ledgerPut ..

theorem execFlashEraseDone_steady {F : List Touch} {s₀ s : State} (h : Steady F s₀ s) (sector blank eraseUs)
    (hF : Touch.within [.out, .regs, .cnt, .wlh, .ledger, .page .wlh, .page .ledg] F = true := by rfl) :
    SteadyNext F s₀ (execFlashEraseDone sector blank eraseUs s) := by
  refine h.widenNext (fun s₀ h => ?_) hF
  unfold execFlashEraseDone
  extract_lets _ _ s1 _ _ s2
  have hs1 : Steady _ s₀ s1 := h.upd [.wlh]
  have hs2 : Steady _ s₀ s2 := hs1.setSector ..
  refine .next ?_
  split
  · exact h
  · split
    · exact (hs1.upd [.wlh]).eraseSector ..
    · split
      · exact hs2
      · exact .ite (hs2.nextSector ..) ((hs2.upd [.wlh]).send ..)

theorem execFlashProgramDone_steady {F : List Touch} {s₀ s : State} (h : Steady F s₀ s) (sector good progUs)
    (hF : Touch.within [.out, .regs, .cnt, .wlh, .ledger, .page .wlh, .page .ledg] F = true := by rfl) :
    SteadyNext F s₀ (execFlashProgramDone sector good progUs s) := by
  refine h.widenNext (fun s₀ h => ?_) hF
  unfold execFlashProgramDone
  extract_lets _ _ _ s1 _ _ s2
  have hs1 : Steady _ s₀ s1 := h.setSector ..
  have hs2 : Steady _ s₀ s2 := h.setSector ..
  refine .next ?_
  split
  · exact h
  · split
    · split
      · exact hs1
      · extract_lets _ s3
        have hs3 : Steady _ s₀ s3 := hs1.upd [.wlh]
        exact .ite (hs1.nextSector ..) (.ite (hs3.upd [.wlh]) (hs3.nextSector ..))
    · split
      · exact (h.upd [.wlh]).send ..
      · split
        · exact hs2
        · exact hs2.failInstall ..

end Sys2Proof.Machine
end


section
/-! PROOFS. What the operations of Role.lean keep: role changes of a partition. -/

namespace Sys2Proof.Machine
open Sys2Proof

theorem Steady.evict {F : List Touch} {s₀ s : State} (h : Steady F s₀ s) (p)
    (hF : Touch.within [.fresh, .out, .regs, .cnt, .mem, .movers, .reqs, .convs, .tier, .qps, .digs, .pwr, .pcie,
        .page .pwr, .page .pcie, .page .tier, .page .move] F = true := by rfl) :
    Steady F s₀ (s.evict p) := by
  refine h.widen (fun s₀ h => ?_) hF
  unfold State.evict
  split
  · exact h.each (fun u _ hu => hu.parkNow ..) ..
  · exact h.each (fun u1 _ hu1 => hu1.evictEntry ..) ..
  · exact h

theorem Steady.pctlCheck {F : List Touch} {s₀ s : State} (h : Steady F s₀ s)
    (hF : Touch.within [.wlh] F = true := by rfl) :
    Steady F s₀ s.pctlCheck := by
  refine h.widen (fun s₀ h => ?_) hF
  unfold State.pctlCheck
  exact .ite h (.ite (h.upd [.wlh]) h)

theorem execDispRoleWrite_steady {F : List Touch} {s₀ s : State} (h : Steady F s₀ s) (p target evict)
    (hF : Touch.within [.fresh, .out, .regs, .cnt, .mem, .movers, .reqs, .convs, .tier, .qps, .digs, .pwr, .wlh,
        .pcie, .anyPage, .page .pwr, .page .pcie, .page .tier, .page .move, .page .qrm] F = true := by rfl) :
    SteadyNext F s₀ (execDispRoleWrite p target evict s) := by
  refine h.widenNext (fun s₀ h => ?_) hF
  unfold execDispRoleWrite
  extract_lets _ st _ _ s1 s2 s3 s4
  have hs1 : Steady _ s₀ s1 := (h.setFld ..).setFld ..
  have hs2 : Steady _ s₀ s2 := hs1.setFld ..
  have hs3 : Steady _ s₀ s3 := .ite (hs2.lpClear ..) hs2
  have hs4 : Steady _ s₀ s4 := .ite (h.err ..) h
  refine .next ?_
  split
  · exact h
  · split
    · exact h.unfenceDenied
    · clear_value st
      split
      · exact .ite hs1 (.ite (hs3.evict ..) hs3)
      · exact .ite ((hs4.setFld ..).evict ..) hs4
      · exact ((hs1.setFld ..).setFld ..).pctlCheck
      · exact h

theorem Steady.revokeWindows {F : List Touch} {s₀ s : State} (h : Steady F s₀ s) (p)
    (hF : Touch.within [.regions] F = true := by rfl) :
    Steady F s₀ (s.revokeWindows p) := by
  refine h.widen (fun s₀ h => ?_) hF
  unfold State.revokeWindows
  exact h.upd [.regions]

theorem Steady.clearAdapters {F : List Touch} {s₀ s : State} (h : Steady F s₀ s) (p)
    (hF : Touch.within [.regs, .anyPage] F = true := by rfl) :
    Steady F s₀ (s.clearAdapters p) := by
  refine h.widen (fun s₀ h => ?_) hF
  unfold State.clearAdapters
  exact h.each (fun u _ hu => hu.each (fun u1 _ hu1 => hu1.setFldAt ..) ..) ..

theorem execDrainComplete_steady {F : List Touch} {s₀ s : State} (h : Steady F s₀ s) (p)
    (hF : Touch.within [.regs, .sram, .sramBad, .tiles, .parts, .tier, .regions, .anyPage, .page .disp, .page
        .tile] F = true := by rfl) :
    SteadyNext F s₀ (execDrainComplete p s) := by
  refine h.widenNext (fun s₀ h => ?_) hF
  unfold execDrainComplete
  exact .next (.ite ((((h.revokeWindows ..).clearAdapters ..).each (fun u _ hu => hu.loseTile ..) ..).setFld ..) h)

theorem execScrubComplete_steady {F : List Touch} {s₀ s : State} (h : Steady F s₀ s) (p)
    (hF : Touch.within [.regs, .sram, .sramBad, .tiles, .parts, .tier, .wlh, .page .disp, .page .tile] F = true :=
        by rfl) :
    SteadyNext F s₀ (execScrubComplete p s) := by
  refine h.widenNext (fun s₀ h => ?_) hF
  unfold execScrubComplete
  extract_lets _ _ s1
  have hs1 : Steady _ s₀ s1 := h.each (fun u _ hu => (hu.loseTile ..).setFld ..) ..
  exact .next (.ite (((hs1.setFld ..).setFld ..).pctlCheck) h)

theorem Steady.thawJournals {F : List Touch} {s₀ s : State} (h : Steady F s₀ s) (p)
    (hF : Touch.within [.engines] F = true := by rfl) :
    Steady F s₀ (s.thawJournals p) := by
  refine h.widen (fun s₀ h => ?_) hF
  unfold State.thawJournals
  exact h.each (fun u _ hu => .ite (hu.setEng ..) hu) ..

theorem execControllerReady_steady {F : List Touch} {s₀ s : State} (h : Steady F s₀ s) (p)
    (hF : Touch.within [.out, .regs, .cnt, .engines, .pcie, .anyPage, .page .wlh, .page .pcie, .page .disp] F =
        true := by rfl) :
    SteadyNext F s₀ (execControllerReady p s) := by
  refine h.widenNext (fun s₀ h => ?_) hF
  unfold execControllerReady
  extract_lets s1 s2
  have hs1 : Steady _ s₀ s1 := (h.setFld ..).setFld ..
  have hs2 : Steady _ s₀ s2 := hs1.each (fun u _ hu => (hu.setFld ..).setFld ..) ..
  exact .next (.ite (((hs2.irq ..).count ..).thawJournals ..) h)

theorem execPctlLoadFail_steady {F : List Touch} {s₀ s : State} (h : Steady F s₀ s) (p)
    (hF : Touch.within [.fresh, .out, .regs, .cnt, .mem, .movers, .tier, .digs, .elog, .qrm, .pwr, .pcie, .page
        .pwr, .page .wlh, .page .pcie, .page .tier, .page .disp, .page .move, .page .elog] F = true := by rfl) :
    SteadyNext F s₀ (execPctlLoadFail p s) := by
  refine h.widenNext (fun s₀ h => ?_) hF
  unfold execPctlLoadFail
  extract_lets s1 s2
  have hs1 : Steady _ s₀ s1 := (h.setFld ..).setFld ..
  have hs2 : Steady _ s₀ s2 := (hs1.setFld ..).setFld ..
  exact .next (.ite (((hs2.irq ..).err ..).record ..) h)

end Sys2Proof.Machine
end


section
/-! PROOFS. What the operations of Header.lean keep: register writes: the common page header, plain fields, the QP
window and the MSI-X table. -/

namespace Sys2Proof.Machine
open Sys2Proof

theorem execPgLock_steady {F : List Touch} {s₀ s : State} (h : Steady F s₀ s) (pg)
    (hF : Touch.within [.regs] F = true := by rfl)
    (hP : Touch.pageIn pg F = true := by rfl) :
    SteadyNext F s₀ (execPgLock pg s) := by
  unfold execPgLock
  exact .next (h.ifReady (fun u hu => hu.setFld (hF := Touch.within_trans rfl hF) (hP := hP) ..) ..)

theorem execPgIrqStatWrite_steady {F : List Touch} {s₀ s : State} (h : Steady F s₀ s) (pg v)
    (hF : Touch.within [.out, .regs, .cnt, .pcie, .anyPage, .page .pcie] F = true := by rfl) :
    SteadyNext F s₀ (execPgIrqStatWrite pg v s) := by
  refine h.widenNext (fun s₀ h => ?_) hF
  unfold execPgIrqStatWrite
  exact .next (h.ifReady (fun u hu => by
      extract_lets _ s1
      have hs1 : Steady _ s₀ s1 := hu.setWord ..
      exact .ite (hs1.irqMessage ..) hs1) ..)

theorem execPgIrqEnWrite_steady {F : List Touch} {s₀ s : State} (h : Steady F s₀ s) (pg v)
    (hF : Touch.within [.out, .regs, .cnt, .pcie, .anyPage, .page .pcie] F = true := by rfl) :
    SteadyNext F s₀ (execPgIrqEnWrite pg v s) := by
  refine h.widenNext (fun s₀ h => ?_) hF
  unfold execPgIrqEnWrite
  extract_lets
  exact .next (h.ifReady (fun u hu => by
      extract_lets _ s1
      have hs1 : Steady _ s₀ s1 := hu.setWord ..
      exact .ite (hs1.irqMessage ..) hs1) ..)

theorem execPgErrClr_steady {F : List Touch} {s₀ s : State} (h : Steady F s₀ s) (pg sameCycle)
    (hF : Touch.within [.regs, .cnt] F = true := by rfl)
    (hP : Touch.pageIn pg F = true := by rfl) :
    SteadyNext F s₀ (execPgErrClr pg sameCycle s) := by
  unfold execPgErrClr
  exact .next (h.ifReady (fun u hu => by
      extract_lets s1
      have hs1 : Steady _ s₀ s1 := (hu.setFld (hF := Touch.within_trans rfl hF) (hP := hP) ..).setFld
          (hF := Touch.within_trans rfl hF) (hP := hP) ..
      split
      · exact hs1.err (hF := Touch.within_trans rfl hF) (hP := hP) ..
      · exact hs1) ..)

theorem Steady.writeField {F : List Touch} {s₀ s : State} (h : Steady F s₀ s) (pg o v f)
    (hF : Touch.within [.regs, .cnt, .anyPage] F = true := by rfl) :
    Steady F s₀ (s.writeField pg o v f) := by
  refine h.widen (fun s₀ h => ?_) hF
  unfold State.writeField
  split
  · exact h
  · exact h.swWrite ..

theorem Steady.writePlain {F : List Touch} {s₀ s : State} (h : Steady F s₀ s) (pg o v)
    (hF : Touch.within [.regs, .cnt, .anyPage] F = true := by rfl) :
    Steady F s₀ (s.writePlain pg o v) := by
  refine h.widen (fun s₀ h => ?_) hF
  unfold State.writePlain
  extract_lets _ t
  have ht : Steady _ s₀ t := h.each (fun u _ hu => hu.writeField ..) ..
  exact .ite ((h.each (fun u1 _ hu1 => hu1.writeField ..) ..).rsvEnc ..) ht

theorem Steady.writeReg {F : List Touch} {s₀ s : State} (h : Steady F s₀ s) (pg o v)
    (hF : Touch.within [.out, .regs, .cnt, .mem, .parts, .movers, .tier, .qps, .digs, .pwr, .pcie, .anyPage, .page
        .pwr, .page .pcie, .page .tier, .page .move, .page .mon, .page .qrm] F = true := by rfl) :
    Steady F s₀ (s.writeReg pg o v) := by
  refine h.widen (fun s₀ h => ?_) hF
  unfold State.writeReg
  exact h.ifReady (fun u hu => by
      extract_lets _ s1 _ _ _ s2
      have hs1 : Steady _ s₀ s1 := hu.writePlain ..
      have hs2 : Steady _ s₀ s2 := hs1.each (fun u1 _ hu1 => .ite hu1 (hu1.setBit ..)) ..
      split
      · exact .ite (hu.err ..) (hu.writePlain ..)
      · exact .ite (hs1.setPart ..) hs1
      · exact .ite hs2.unfenceDenied hs2
      · exact (hu.writePlain ..).armControls ..
      · exact hu.writePlain ..) ..

theorem Steady.writeQp {F : List Touch} {s₀ s : State} (h : Steady F s₀ s) (o v)
    (hF : Touch.within [.fresh, .out, .regs, .cnt, .mem, .movers, .tenants, .reqs, .convs, .tier, .rrc, .engines,
        .qps, .srch, .units, .digs, .pwr, .pcie, .far, .anyPage, .page .rstc, .page .pwr, .page .pcie, .page .tier,
        .page .move, .page .admt, .page .feng, .page .srch, .page .mon] F = true := by rfl) :
    Steady F s₀ (s.writeQp o v) := by
  refine h.widen (fun s₀ h => ?_) hF
  unfold State.writeQp
  extract_lets _ _ j
  exact h.ifReady (fun u hu => by
      extract_lets _ _ s1
      have hs1 : Steady _ s₀ s1 := .ite (hu.setQp ..) (.ite (hu.qpBusy ..) hu)
      clear_value j
      split
      · exact hs1.qpStateWrite ..
      · exact .ite hs1 (hs1.sqPost ..)
      · exact .ite hs1 (hs1.rqPost ..)
      · exact .ite hs1 (hs1.cqFree ..)
      · exact hs1) ..

theorem Steady.write32 {F : List Touch} {s₀ s : State} (h : Steady F s₀ s) (a v)
    (hF : Touch.within (.flatten [[.fresh, .out, .regs, .cnt, .mem, .parts, .movers, .tenants, .reqs, .convs,
        .tier, .rrc, .engines, .qps, .srch, .units, .digs, .pwr, .pcie, .far], [.anyPage, .page .rstc, .page .pwr,
        .page .pcie, .page .tier, .page .move, .page .admt, .page .feng, .page .srch, .page .mon, .page .qrm]]) F =
        true := by rfl) :
    Steady F s₀ (s.write32 a v) := by
  refine h.widen (fun s₀ h => ?_) hF
  unfold State.write32
  extract_lets _ x
  have hx : Steady _ s₀ x := h.setWord ..
  split
  · exact h.writeReg ..
  · exact .ite (h.writeQp ..) (.ite (.ite (.ite (hx.upd [.pcie]) (h.unmaskPf ..)) (h.setWord ..)) h)

theorem execRegisterWrite_steady {F : List Touch} {s₀ s : State} (h : Steady F s₀ s) (by_ addr width v)
    (hF : Touch.within (.flatten [[.fresh, .out, .regs, .cnt, .mem, .parts, .movers, .tenants, .reqs, .convs,
        .tier, .rrc, .engines, .qps, .srch, .units, .digs, .pwr, .pcie, .far], [.anyPage, .page .rstc, .page .pwr,
        .page .pcie, .page .tier, .page .move, .page .admt, .page .feng, .page .srch, .page .mon, .page .qrm]]) F =
        true := by rfl) :
    SteadyNext F s₀ (execRegisterWrite by_ addr width v s) := by
  refine h.widenNext (fun s₀ h => ?_) hF
  unfold execRegisterWrite
  exact .next (.ite ((h.err ..).count ..) (.ite ((h.err ..).count ..) (.ite (h.write32 ..)
      ((h.write32 ..).write32 ..))))

end Sys2Proof.Machine
end

section
/-! PROOFS. Every step answers a next state that keeps what every command keeps. -/

namespace Sys2Proof.Machine
open Sys2Proof

/-- What a command may touch. -/
def Touch.every : List Touch := .flatten
  [[.now, .fresh, .pending, .out, .regs, .cnt, .shadow, .mem, .sram, .sramBad, .tiles, .parts, .movers, .tenants, .reqs, .convs, .tier, .rrc],
   [.engines, .regions, .qps, .ports, .finj, .srch, .units, .digs, .elog, .qrm, .pwr, .rst, .fuses, .wlh, .ledger, .uart, .pcie, .sync],
   [.unreached, .far, .anyPage, .page .hdr, .page .dev, .page .rstc, .page .pwr, .page .clk, .page .wlh, .page .ledg, .page .uart, .page .pcie],
   [.page .sync, .page .pin, .page .bas, .page .shl, .page .tier, .page .deep, .page .disp, .page .samp, .page .move, .page .admt, .page .tile],
   [.page .port, .page .feng, .page .dig, .page .elog, .page .srch, .page .codec, .page .mon, .page .finj, .page .qrm, .page .time]]

/-- Every command answers a next state, and keeps what every command keeps. -/
theorem exec_steady (c : Instr) {s₀ s : State} (h : Steady Touch.every s₀ s) : SteadyNext Touch.every s₀ (exec c s) := by
  unfold exec
  cases c with
  | registerWrite => exact execRegisterWrite_steady h ..
  | pgLock => exact execPgLock_steady h ..
  | pgIrqStatWrite => exact execPgIrqStatWrite_steady h ..
  | pgIrqEnWrite => exact execPgIrqEnWrite_steady h ..
  | pgErrClr => exact execPgErrClr_steady h ..
  | pwrOppWrite => exact execPwrOppWrite_steady h ..
  | dispRoleWrite => exact execDispRoleWrite_steady h ..
  | drainComplete => exact execDrainComplete_steady h ..
  | scrubComplete => exact execScrubComplete_steady h ..
  | controllerReady => exact execControllerReady_steady h ..
  | pctlLoadFail => exact execPctlLoadFail_steady h ..
  | taskDescriptorArrive => exact execTaskDescriptorArrive_steady h ..
  | taskDispatch => exact execTaskDispatch_steady h ..
  | taskComplete => exact execTaskComplete_steady h ..
  | taskEventReportAccept => exact execTaskEventReportAccept_steady h ..
  | taskRunningError => exact execTaskRunningError_steady h ..
  | sbWatchdogExpire => exact execSbWatchdogExpire_steady h ..
  | sbClrMaxlat => exact execSbClrMaxlat_steady h ..
  | progLoadGo => exact execProgLoadGo_steady h ..
  | progLoadComplete => exact execProgLoadComplete_steady h ..
  | attnParamsLatched => exact execAttnParamsLatched_steady h ..
  | mergeNodeArrive => exact execMergeNodeArrive_steady h ..
  | mergeEmitDone => exact execMergeEmitDone_steady h ..
  | codecErrInfoClear => exact execCodecErrInfoClear_steady h
  | tierRead => exact execTierRead_steady h ..
  | tierWrite => exact execTierWrite_steady h ..
  | zeroFillComplete => exact execZeroFillComplete_steady h ..
  | memUncorrectableError => exact execMemUncorrectableError_steady h ..
  | migrationStart => exact execMigrationStart_steady h ..
  | migrationCommit => exact execMigrationCommit_steady h ..
  | migrationTimeout => exact execMigrationTimeout_steady h ..
  | tierEpochEnd => exact execTierEpochEnd_steady h
  | hwDemote => exact execHwDemote_steady h ..
  | tierCmdPin => exact execTierCmdPin_steady h ..
  | tierCmdUnpin => exact execTierCmdUnpin_steady h
  | tierCmdHint => exact execTierCmdHint_steady h ..
  | tierCmdMove => exact execTierCmdMove_steady h ..
  | tierCmdFree => exact execTierCmdFree_steady h
  | tierCmdDone => exact execTierCmdDone_steady h
  | tierZoneWrite => exact execTierZoneWrite_steady h ..
  | tierLayoutWrite => exact execTierLayoutWrite_steady h ..
  | tierCapacityDrop => exact execTierCapacityDrop_steady h ..
  | blockTrainingDone => exact execBlockTrainingDone_steady h ..
  | load => exact execLoad_steady h ..
  | store => exact execStore_steady h ..
  | fadd64 => exact execFadd64_steady h ..
  | swap64 => exact execSwap64_steady h ..
  | cas64 => exact execCas64_steady h ..
  | cas128 => exact execCas128_steady h ..
  | for64 => exact execFor64_steady h ..
  | flush => exact execFlush_steady h ..
  | flushMarkerAnswer => exact execFlushMarkerAnswer_steady h ..
  | invalidate => exact execInvalidate_steady h ..
  | inv => exact execInv_steady h ..
  | loadResp => exact execLoadResp_steady h ..
  | storeAck => exact execStoreAck_steady h ..
  | atomicResp => exact execAtomicResp_steady h ..
  | flushResp => exact execFlushResp_steady h ..
  | invalidateResp => exact execInvalidateResp_steady h ..
  | invAck => exact execInvAck_steady h ..
  | nak => exact execNak_steady h ..
  | requestTimeout => exact execRequestTimeout_steady h ..
  | invTimeout => exact execInvTimeout_steady h ..
  | regionFlush => exact execRegionFlush_steady h ..
  | qpStateInit => exact execQpStateInit_steady h ..
  | qpStateRts => exact execQpStateRts_steady h ..
  | qpStateReset => exact execQpStateReset_steady h ..
  | qpStateError => exact execQpStateError_steady h ..
  | qpErrorFlushDone => exact execQpErrorFlushDone_steady h ..
  | qpDbSqTail => exact execQpDbSqTail_steady h ..
  | qpDbRqTail => exact execQpDbRqTail_steady h ..
  | qpDbCqHead => exact execQpDbCqHead_steady h ..
  | wrWrite => exact execWrWrite_steady h ..
  | wrRead => exact execWrRead_steady h ..
  | wrSend => exact execWrSend_steady h ..
  | wrWriteTrigger => exact execWrWriteTrigger_steady h ..
  | wrFlush => exact execWrFlush_steady h ..
  | wrCancel => exact execWrCancel_steady h ..
  | heldWrRegister => exact execHeldWrRegister_steady h ..
  | trigFire => exact execTrigFire_steady h ..
  | trigTimerExpire => exact execTrigTimerExpire_steady h ..
  | holdExpired => exact execHoldExpired_steady h ..
  | qwrite => exact execQwrite_steady h ..
  | qwriteTrig => exact execQwriteTrig_steady h ..
  | qreadReq => exact execQreadReq_steady h ..
  | qsend => exact execQsend_steady h ..
  | qflush => exact execQflush_steady h ..
  | qcancel => exact execQcancel_steady h ..
  | writeTriggerEffect => exact execWriteTriggerEffect_steady h ..
  | qflushAnswer => exact execQflushAnswer_steady h ..
  | cancelApply => exact execCancelApply_steady h ..
  | qack => exact execQack_steady h ..
  | qreadResp => exact execQreadResp_steady h ..
  | qplaceAck => exact execQplaceAck_steady h ..
  | qflushResp => exact execQflushResp_steady h ..
  | qnak => exact execQnak_steady h ..
  | qackTimer => exact execQackTimer_steady h ..
  | retransmitTimeout => exact execRetransmitTimeout_steady h ..
  | rnrRetryTimer => exact execRnrRetryTimer_steady h ..
  | rgnCmdWrite => exact execRgnCmdWrite_steady h ..
  | rgnCmdRead => exact execRgnCmdRead_steady h ..
  | rgnCmdRevoke => exact execRgnCmdRevoke_steady h ..
  | rgnCmdComplete => exact execRgnCmdComplete_steady h ..
  | dataFlitReceive => exact execDataFlitReceive_steady h ..
  | controlFlitReceive => exact execControlFlitReceive_steady h ..
  | idleFlitReceive => exact execIdleFlitReceive_steady h ..
  | flitAckTimer => exact execFlitAckTimer_steady h ..
  | flitReplayTimeout => exact execFlitReplayTimeout_steady h ..
  | flitTransmit => exact execFlitTransmit_steady h ..
  | packetEnterPort => exact execPacketEnterPort_steady h ..
  | linkTrained => exact execLinkTrained_steady h ..
  | linkDown => exact execLinkDown_steady h ..
  | portTcWrite => exact execPortTcWrite_steady h ..
  | finjArm => exact execFinjArm_steady h ..
  | openPush => exact execOpenPush_steady h ..
  | openPark => exact execOpenPark_steady h ..
  | openAck => exact execOpenAck_steady h ..
  | pullReq => exact execPullReq_steady h ..
  | pullNak => exact execPullNak_steady h ..
  | close => exact execClose_steady h ..
  | closeAck => exact execCloseAck_steady h ..
  | expire => exact execExpire_steady h ..
  | moverStageCopyDone => exact execMoverStageCopyDone_steady h ..
  | attachDone => exact execAttachDone_steady h ..
  | parkRetryTimer => exact execParkRetryTimer_steady h ..
  | adpLoad => exact execAdpLoad_steady h ..
  | adpLoadDone => exact execAdpLoadDone_steady h ..
  | adpRetire => exact execAdpRetire_steady h ..
  | adpForce => exact execAdpForce_steady h ..
  | cacheTtlTick => exact execCacheTtlTick_steady h ..
  | orphanTimeout => exact execOrphanTimeout_steady h ..
  | prefixBucketsLoaded => exact execPrefixBucketsLoaded_steady h ..
  | search => exact execSearch_steady h ..
  | searchDone => exact execSearchDone_steady h ..
  | pfxInsert => exact execPfxInsert_steady h ..
  | pfxInsertDone => exact execPfxInsertDone_steady h ..
  | poolForwardPlaced => exact execPoolForwardPlaced_steady h ..
  | poolRebuild => exact execPoolRebuild_steady h
  | poolResync => exact execPoolResync_steady h
  | poolCmdDone => exact execPoolCmdDone_steady h ..
  | launchSelect => exact execLaunchSelect_steady h ..
  | launchDescRead => exact execLaunchDescRead_steady h ..
  | dispSend => exact execDispSend_steady h ..
  | dispLringTailWrite => exact execDispLringTailWrite_steady h ..
  | rsSelWrite => exact execRsSelWrite_steady h ..
  | rsDataStage => exact execRsDataStage_steady h ..
  | rsCommit => exact execRsCommit_steady h ..
  | pfLeftWrite => exact execPfLeftWrite_steady h ..
  | dispFailClear => exact execDispFailClear_steady h ..
  | energyRefillTick => exact execEnergyRefillTick_steady h ..
  | energyGrant => exact execEnergyGrant_steady h ..
  | fsyncHoldExpire => exact execFsyncHoldExpire_steady h ..
  | powerManagerTick => exact execPowerManagerTick_steady h
  | reqTail => exact execReqTail_steady h ..
  | generate => exact execGenerate_steady h ..
  | pause => exact execPause_steady h ..
  | resume => exact execResume_steady h ..
  | release => exact execRelease_steady h ..
  | deferRetryTimer => exact execDeferRetryTimer_steady h ..
  | deferDeadline => exact execDeferDeadline_steady h ..
  | idleParkTimer => exact execIdleParkTimer_steady h ..
  | tenantCancel => exact execTenantCancel_steady h ..
  | tokHead => exact execTokHead_steady h ..
  | cplHead => exact execCplHead_steady h ..
  | tenantRingCfgWrite => exact execTenantRingCfgWrite_steady h ..
  | samplerDone => exact execSamplerDone_steady h ..
  | tokenWrite => exact execTokenWrite_steady h ..
  | completionRecordWrite => exact execCompletionRecordWrite_steady h ..
  | vfTokModTimer => exact execVfTokModTimer_steady h ..
  | vfFlr => exact execVfFlr_steady h ..
  | cntSnap => exact execCntSnap_steady h ..
  | cntClr => exact execCntClr_steady h ..
  | monSnapArm => exact execMonSnapArm_steady h ..
  | monSnapFire => exact execMonSnapFire_steady h
  | unitLevelSample => exact execUnitLevelSample_steady h ..
  | unitCfgWrite => exact execUnitCfgWrite_steady h ..
  | qrmFenceNow => exact execQrmFenceNow_steady h ..
  | fenceAssert => exact execFenceAssert_steady h ..
  | qrmUnfenceReqWrite => exact execQrmUnfenceReqWrite_steady h ..
  | qrmPcHb => exact execQrmPcHb_steady h ..
  | heartbeatInterval => exact execHeartbeatInterval_steady h
  | heartbeat => exact execHeartbeat_steady h ..
  | hbAck => exact execHbAck_steady h ..
  | suspect => exact execSuspect_steady h ..
  | faultReport => exact execFaultReport_steady h ..
  | propose => exact execPropose_steady h ..
  | vote => exact execVote_steady h ..
  | commit => exact execCommit_steady h ..
  | commitAck => exact execCommitAck_steady h ..
  | commitResendTimer => exact execCommitResendTimer_steady h
  | unfenceReq => exact execUnfenceReq_steady h ..
  | digest => exact execDigest_steady h ..
  | syncReq => exact execSyncReq_steady h ..
  | syncResp => exact execSyncResp_steady h ..
  | fenceCompareTick => exact execFenceCompareTick_steady h
  | digestPassDone => exact execDigestPassDone_steady h ..
  | digRegionWrite => exact execDigRegionWrite_steady h ..
  | railReadComplete => exact execRailReadComplete_steady h ..
  | oppTick => exact execOppTick_steady h ..
  | oppTransitionDone => exact execOppTransitionDone_steady h ..
  | thermalLimit => exact execThermalLimit_steady h ..
  | droopDetect => exact execDroopDetect_steady h ..
  | thermalTrip => exact execThermalTrip_steady h ..
  | thermRelease => exact execThermRelease_steady h ..
  | powerDownMaskWrite => exact execPowerDownMaskWrite_steady h ..
  | pwrTileGateWrite => exact execPwrTileGateWrite_steady h ..
  | lpIdleEnter => exact execLpIdleEnter_steady h ..
  | wakeDone => exact execWakeDone_steady h ..
  | pllLockLoss => exact execPllLockLoss_steady h ..
  | pwrGoodRise => exact execPwrGoodRise_steady h
  | pwrGoodFall => exact execPwrGoodFall_steady h
  | powerOnReset => exact execPowerOnReset_steady h
  | resetNAssert => exact execResetNAssert_steady h
  | resetNRelease => exact execResetNRelease_steady h ..
  | strapSample => exact execStrapSample_steady h ..
  | perstAssert => exact execPerstAssert_steady h
  | devRst => exact execDevRst_steady h ..
  | blockResetReq => exact execBlockResetReq_steady h ..
  | quiesceDone => exact execQuiesceDone_steady h ..
  | quiesceTimeout => exact execQuiesceTimeout_steady h ..
  | blockResetDone => exact execBlockResetDone_steady h ..
  | fsyncEdge => exact execFsyncEdge_steady h ..
  | fsyncLostTimeout => exact execFsyncLostTimeout_steady h
  | tsyncEdge => exact execTsyncEdge_steady h
  | tsyncLostTimeout => exact execTsyncLostTimeout_steady h
  | timeExchangeTimer => exact execTimeExchangeTimer_steady h
  | timeMessage => exact execTimeMessage_steady h ..
  | timeSet => exact execTimeSet_steady h ..
  | romBoot => exact execRomBoot_steady h
  | wlhWdogWarn => exact execWlhWdogWarn_steady h
  | wdogReset => exact execWdogReset_steady h
  | wlhKick => exact execWlhKick_steady h ..
  | install => exact execInstall_steady h
  | verify => exact execVerify_steady h
  | updDone => exact execUpdDone_steady h
  | confirm => exact execConfirm_steady h
  | rcvVerify => exact execRcvVerify_steady h
  | rcvInstall => exact execRcvInstall_steady h
  | rcvBoot => exact execRcvBoot_steady h
  | writeBuf => exact execWriteBuf_steady h ..
  | setLen => exact execSetLen_steady h ..
  | run => exact execRun_steady h ..
  | status => exact execStatus_steady h ..
  | uartFrameTimeout => exact execUartFrameTimeout_steady h
  | uartRxByte => exact execUartRxByte_steady h ..
  | uartDataWrite => exact execUartDataWrite_steady h ..
  | uartDataRead => exact execUartDataRead_steady h
  | ledgWrGo => exact execLedgWrGo_steady h ..
  | ledgWriteDone => exact execLedgWriteDone_steady h ..
  | ledgRdGo => exact execLedgRdGo_steady h ..
  | flashEraseDone => exact execFlashEraseDone_steady h ..
  | bar2Read => exact execBar2Read_steady h ..
  | bar2Write => exact execBar2Write_steady h ..
  | bar2AtomicOp => exact execBar2AtomicOp_steady h ..
  | bar2HoldTimeout => exact execBar2HoldTimeout_steady h ..
  | devNodeWrite => exact execDevNodeWrite_steady h ..
  | pllRelock => exact execPllRelock_steady h ..
  | perstDeassert => exact execPerstDeassert_steady h
  | pcieLinkChange => exact execPcieLinkChange_steady h ..
  | aerErrorLogged => exact execAerErrorLogged_steady h ..
  | msixVectorUnmask => exact execMsixVectorUnmask_steady h ..
  | vfEnableWrite => exact execVfEnableWrite_steady h ..
  | portCtrlEnableWrite => exact execPortCtrlEnableWrite_steady h ..
  | linkPartnerWake => exact execLinkPartnerWake_steady h ..
  | patrolPassDone => exact execPatrolPassDone_steady h ..
  | flashProgramDone => exact execFlashProgramDone_steady h ..
  | uartTxByteSent => exact execUartTxByteSent_steady h

theorem step_nil {s : State} (h : s.pending = []) : step s = idle s := by
  unfold step
  rw [h]

theorem step_cons {s : State} {c : Instr} {rest : List Instr} (h : s.pending = c :: rest) :
    step s = exec c { s with pending := rest } := by
  unfold step
  rw [h]

/-- Settles O57, from what every command keeps of the state it starts on, the queue's rest taken. -/
theorem everyStepCompletesInCanonicalForm : Obligations.EveryStepCompletesInCanonicalForm := by
  unfold Obligations.EveryStepCompletesInCanonicalForm
  intro s hs
  cases hp : s.pending with
  | nil =>
    obtain ⟨t, ht, hst⟩ := idle_steady (Steady.refl Touch.every s)
    exact ⟨t, (step_nil hp).trans ht, hst.canonical hs, hst.fuses, hst.unreached, hst.pending.trans hp⟩
  | cons c rest =>
    obtain ⟨t, ht, hst⟩ := exec_steady c (Steady.refl _ { s with pending := rest })
    exact ⟨t, (step_cons hp).trans ht, hst.canonical hs, hst.fuses, hst.unreached, hst.pending⟩

end Sys2Proof.Machine
end

section
/-! PROOFS. Registers and counters that share nothing: fields of one page apart, fields and counters of different pages. -/

namespace Sys2Proof.Machine
open Sys2Proof

/-! ## Pages -/

theorem Page.base_mod (pg : Page) : pg.base % 4096 = 0 := by
  cases pg <;> simp only [Page.base, Page.kind, Page.inst, Kind.place] <;> omega

theorem Page.at_base (pg : Page) : Page.at pg.base = some pg := by
  cases pg with
  | bas i => revert i; decide +kernel
  | shl d => revert d; decide +kernel
  | deep c => revert c; decide +kernel
  | disp p => revert p; decide +kernel
  | samp p => revert p; decide +kernel
  | move p => revert p; decide +kernel
  | admt p => revert p; decide +kernel
  | tile t => revert t; decide +kernel
  | port n => revert n; decide +kernel
  | feng e => revert e; decide +kernel
  | _ => rfl

/-- An address within the page names it. -/
theorem Page.at_base_add (pg : Page) {o : Nat} (h : o < 4096) : Page.at (pg.base + o) = some pg := by
  have hb := Page.base_mod pg
  have e : (pg.base + o) / 4096 = pg.base / 4096 := by omega
  exact (by simp only [Page.at, e] : Page.at (pg.base + o) = Page.at pg.base).trans (Page.at_base pg)

/-- Addresses within different pages differ. -/
theorem Page.add_ne {pg q : Page} (h : pg ≠ q) {o p : Nat} (ho : o < 4096) (hp : p < 4096) : pg.base + o ≠ q.base + p :=
  fun e => h (Option.some.inj ((Page.at_base_add pg ho).symm.trans ((congrArg Page.at e).trans (Page.at_base_add q hp))))

/-- Different pages do not overlap. -/
theorem Page.apart {pg q : Page} (h : pg ≠ q) : pg.base + 4096 ≤ q.base ∨ q.base + 4096 ≤ pg.base := by
  have := Page.base_mod pg
  have := Page.base_mod q
  have := Page.add_ne h (o := 0) (p := 0) (by omega) (by omega)
  omega

/-! ## Fields -/

/-- Instances i and j of two fields of one page share no bit. -/
def Fld.apart (f g : Fld) (i j : Nat) : Bool :=
  decide (8 * (f.off + i * f.stride) + f.lo + f.width ≤ 8 * (g.off + j * g.stride) + g.lo ∨
    8 * (g.off + j * g.stride) + g.lo + g.width ≤ 8 * (f.off + i * f.stride) + f.lo)

/-- No two instances of two fields of one page share a bit: they repeat alike, at different places of a row. -/
def Fld.rowsApart (f g : Fld) : Bool :=
  let m := 8 * f.stride
  let a := (8 * f.off + f.lo) % m
  let b := (8 * g.off + g.lo) % m
  decide (0 < f.stride ∧ f.stride = g.stride ∧ a + f.width ≤ m ∧ b + g.width ≤ m ∧ (a + f.width ≤ b ∨ b + g.width ≤ a))

/-- No instance of the second field reaches down to the only one of the first. -/
def Fld.below (f g : Fld) : Bool := decide (8 * f.off + f.lo + f.width ≤ 8 * g.off + g.lo)

/-- The words of a field that hold its bits. -/
theorem Fld.bits_le_words (f : Fld) : f.lo + f.width ≤ 32 * f.words := by
  simp only [Fld.words]; omega

/-- Places whose bits do not overlap. -/
theorem State.fld_setFld_of_bits (s : State) {pg q : Page} {f g : Fld} {v i j : Nat}
    (h : 8 * f.addr pg i + f.lo + f.width ≤ 8 * g.addr q j + g.lo ∨ 8 * g.addr q j + g.lo + g.width ≤ 8 * f.addr pg i + f.lo) :
    (s.setFld pg f v i).fld q g j = s.fld q g j := by
  apply State.fld_setFld_other
  rintro k b - - h1 h2 ⟨h3, h4, h5⟩
  simp only [Fld.place] at h3 h4 h5
  omega

theorem State.fld_setFld_apart (s : State) {pg : Page} {f g : Fld} {v i j : Nat} (h : f.apart g i j = true) :
    (s.setFld pg f v i).fld pg g j = s.fld pg g j := by
  apply State.fld_setFld_of_bits
  simp only [Fld.apart, decide_eq_true_eq] at h
  simp only [Fld.addr]
  omega

/-- Intervals that repeat with one period, at different places of it. -/
theorem Nat.rows_apart {m a b u v x y : Nat} (ha : a % m + u ≤ m) (hb : b % m + v ≤ m)
    (h : a % m + u ≤ b % m ∨ b % m + v ≤ a % m) : a + x * m + u ≤ b + y * m ∨ b + y * m + v ≤ a + x * m := by
  have ea := Nat.div_add_mod a m
  have eb := Nat.div_add_mod b m
  generalize a % m = c at *
  generalize b % m = d at *
  have hx : m * (a / m) + x * m = m * (a / m + x) := by ring
  have hy : m * (b / m) + y * m = m * (b / m + y) := by ring
  generalize a / m + x = i at hx
  generalize b / m + y = j at hy
  rcases Nat.lt_trichotomy i j with h1 | h1 | h1
  · have := Nat.mul_le_mul_left m h1
    rw [Nat.succ_eq_add_one, Nat.mul_add] at this
    omega
  · subst h1
    omega
  · have := Nat.mul_le_mul_left m h1
    rw [Nat.succ_eq_add_one, Nat.mul_add] at this
    omega

theorem State.fld_setFld_rows (s : State) {pg : Page} {f g : Fld} {v i j : Nat} (h : f.rowsApart g = true) :
    (s.setFld pg f v i).fld pg g j = s.fld pg g j := by
  apply State.fld_setFld_of_bits
  simp only [Fld.rowsApart, decide_eq_true_eq] at h
  obtain ⟨-, hs, ha, hb, hab⟩ := h
  have := Nat.rows_apart (x := i) (y := j) ha hb hab
  simp only [Fld.addr, ← hs]
  rw [show i * (8 * f.stride) = 8 * (i * f.stride) by ring, show j * (8 * f.stride) = 8 * (j * f.stride) by ring] at this
  omega

theorem State.fld_setFld_below (s : State) {pg : Page} {f g : Fld} {v j : Nat} (h : f.below g = true) :
    (s.setFld pg f v).fld pg g j = s.fld pg g j := by
  apply State.fld_setFld_of_bits
  simp only [Fld.below, decide_eq_true_eq] at h
  simp only [Fld.addr]
  omega

theorem State.fld_setFld_above (s : State) {pg : Page} {f g : Fld} {v i : Nat} (h : g.below f = true) :
    (s.setFld pg f v i).fld pg g = s.fld pg g := by
  apply State.fld_setFld_of_bits
  simp only [Fld.below, decide_eq_true_eq] at h
  simp only [Fld.addr]
  omega

theorem State.fld_setFld_page (s : State) {pg q : Page} {f g : Fld} {v i j : Nat} (h : pg ≠ q) (hf : f.fits i = true)
    (hg : g.fits j = true) : (s.setFld pg f v i).fld q g j = s.fld q g j := by
  apply State.fld_setFld_of_bits
  have hp := Page.apart h
  have h1 := f.bits_le_words
  have h2 := g.bits_le_words
  simp only [Fld.fits, decide_eq_true_eq] at hf hg
  simp only [Fld.addr]
  omega

/-- A value the field has room for reads back. -/
theorem State.fld_setFld_of_lt (s : State) {pg : Page} {f : Fld} {v i : Nat} (h : v < 2 ^ f.width) :
    (s.setFld pg f v i).fld pg f i = v := by
  rw [s.fld_setFld_same, Nat.mod_eq_of_lt h]

/-- A field is below the limit of its width. -/
theorem State.fld_lt (s : State) (pg : Page) (f : Fld) (i : Nat) : s.fld pg f i < 2 ^ f.width := bits_lt ..

/-! ## Reads as functions of the registers: what an update of another component leaves is then plain -/

/-- A field of these registers and fuses. -/
def regFld (r : Map Word) (z : Fuses) (pg : Page) (f : Fld) (i : Nat) : Nat :=
  ({ State.reset with regs := r, fuses := z } : State).fld pg f i

/-- A word of these registers and fuses. -/
def regWord (r : Map Word) (z : Fuses) (a : Nat) : Word := ({ State.reset with regs := r, fuses := z } : State).word a

/-- A counter of these counters. -/
def cntAt (c : Map Word64) (pg : Page) (o : Nat) : Nat := (Map.get 0 c (pg.base + o)).toNat

theorem State.fld_eq (s : State) (pg : Page) (f : Fld) (i : Nat) : s.fld pg f i = regFld s.regs s.fuses pg f i :=
  State.fld_congr (s := { State.reset with regs := s.regs, fuses := s.fuses }) (t := s) rfl rfl ..

theorem State.word_eq (s : State) (a : Nat) : s.word a = regWord s.regs s.fuses a :=
  State.word_congr (s := { State.reset with regs := s.regs, fuses := s.fuses }) (t := s) rfl rfl ..

theorem State.counter_eq (s : State) (pg : Page) (o : Nat) : s.counter pg o = cntAt s.cnt pg o := rfl

section
variable (s : State) {z : Fuses} {pg q : Page} {f g : Fld} {v i j : Nat}

@[simp] theorem regFld_setFld_same (hz : z = s.fuses) (hv : v < 2 ^ f.width) :
    regFld (s.setFld pg f v i).regs z pg f i = v := by
  have h := s.fld_setFld_of_lt (pg := pg) (i := i) hv
  rwa [State.fld_eq, State.fuses_setFld, ← hz] at h

theorem regFld_setFld_mod (hz : z = s.fuses) : regFld (s.setFld pg f v i).regs z pg f i = v % 2 ^ f.width := by
  have h := s.fld_setFld_same pg f v i
  rwa [State.fld_eq, State.fuses_setFld, ← hz] at h

theorem regFld_of_fld {t : State} (hz : z = s.fuses) (ht : t.fuses = s.fuses) (h : t.fld q g j = s.fld q g j) :
    regFld t.regs z q g j = regFld s.regs z q g j := by
  rwa [State.fld_eq, State.fld_eq, ht, ← hz] at h

@[simp] theorem regFld_setFld_apart (hz : z = s.fuses) (h : f.apart g i j = true) :
    regFld (s.setFld pg f v i).regs z pg g j = regFld s.regs z pg g j :=
  regFld_of_fld s hz (by simp) (s.fld_setFld_apart h)

@[simp] theorem regFld_setFld_rows (hz : z = s.fuses) (h : f.rowsApart g = true) :
    regFld (s.setFld pg f v i).regs z pg g j = regFld s.regs z pg g j :=
  regFld_of_fld s hz (by simp) (s.fld_setFld_rows h)

@[simp] theorem regFld_setFld_below (hz : z = s.fuses) (h : f.below g = true) :
    regFld (s.setFld pg f v).regs z pg g j = regFld s.regs z pg g j :=
  regFld_of_fld s hz (by simp) (s.fld_setFld_below h)

@[simp] theorem regFld_setFld_above (hz : z = s.fuses) (h : g.below f = true) :
    regFld (s.setFld pg f v i).regs z pg g 0 = regFld s.regs z pg g 0 :=
  regFld_of_fld s hz (by simp) (s.fld_setFld_above h)

@[simp] theorem regFld_setFld_page (hz : z = s.fuses) (h : pg ≠ q) (hf : f.fits i = true) (hg : g.fits j = true) :
    regFld (s.setFld pg f v i).regs z q g j = regFld s.regs z q g j :=
  regFld_of_fld s hz (by simp) (s.fld_setFld_page h hf hg)

end

/-! ## Counters -/

/-- A counter is at most the limit where it stays. -/
@[simp] theorem min_max64_cntAt (c : Map Word64) (pg : Page) (o : Nat) : min max64 (cntAt c pg o) = cntAt c pg o := by
  have : cntAt c pg o < 2 ^ 64 := BitVec.isLt _
  simp only [max64]
  omega

@[simp] theorem cntAt_count_same (s : State) (pg : Page) (o n : Nat) :
    cntAt (s.count pg o n).cnt pg o = min max64 (cntAt s.cnt pg o + n) := State.counter_count_same ..

@[simp] theorem cntAt_count_offset (s : State) (pg : Page) {o p : Nat} (n : Nat) (h : o ≠ p) :
    cntAt (s.count pg o n).cnt pg p = cntAt s.cnt pg p := State.counter_count_other _ _ _ _ _ _ (by omega)

@[simp] theorem cntAt_count_page (s : State) {pg q : Page} {o p : Nat} (n : Nat) (h : pg ≠ q) (ho : o < 4096) (hp : p < 4096) :
    cntAt (s.count pg o n).cnt q p = cntAt s.cnt q p :=
  State.counter_count_other _ _ _ _ _ _ (Page.add_ne h ho hp).symm

end Sys2Proof.Machine
end

section
/-! PROOFS. Frames, step by step: what each operation adds to what has changed; and what interrupts and errors leave. -/

namespace Sys2Proof.Machine
open Sys2Proof

/-! ## Frames grow with each operation -/

section
variable {s t u : State} {cs : List Comp} {fs : List Place} {ns : List (Page × Nat)}

theorem State.changes.refl : s.changes s cs fs ns := s.changes_refl ..

theorem State.changes.ite {c : Prop} {_ : Decidable c} (h : s.changes t cs fs ns) (k : s.changes u cs fs ns) :
    s.changes (if c then t else u) cs fs ns := by
  split
  · exact h
  · exact k

theorem State.changes.setFld (h : s.changes t cs fs ns) {pg : Page} {f : Fld} {v i : Nat}
    (hm : f.place pg i ∈ fs := by simp [irqPlaces, errPlaces]) : s.changes (t.setFld pg f v i) cs fs ns :=
  State.changes_trans h (State.changes_mono (t.setFld_changes ..) (by simp) (by simpa using hm) (by simp))

theorem State.changes.count (h : s.changes t cs fs ns) {pg : Page} {o n : Nat}
    (hm : (pg, o) ∈ ns := by simp [irqCounts, errCounts]) : s.changes (t.count pg o n) cs fs ns :=
  State.changes_trans h (State.changes_mono (t.count_changes ..) (by simp) (by simp) (by simpa using hm))

theorem State.changes.send (h : s.changes t cs fs ns) {o : Out} (hm : .out ∈ cs := by simp) :
    s.changes (t.send o) cs fs ns :=
  State.changes_trans h (State.changes_mono (t.send_changes _) (by simpa using hm) (by simp) (by simp))

theorem State.changes.irq (h : s.changes t cs fs ns) {pg : Page} {b : Nat}
    (ho : Comp.out ∈ cs ∧ Comp.pcie ∈ cs := by simp) (hf : Reg.PG_IRQ_STAT.place pg ∈ fs := by simp [irqPlaces])
    (hn : (pg, 0x58) ∈ ns ∧ (Page.pcie, 0xB0) ∈ ns := by simp [irqCounts]) : s.changes (t.irq pg b) cs fs ns :=
  State.changes_trans h (State.changes_mono (t.irq_changes ..) (by simpa using ho) (by simpa [irqPlaces] using hf)
    (by simpa [irqCounts] using hn))

theorem State.changes.irqMessage (h : s.changes t cs fs ns) {pg : Page}
    (ho : Comp.out ∈ cs ∧ Comp.pcie ∈ cs := by simp) (hn : (Page.pcie, 0xB0) ∈ ns := by simp [irqCounts]) :
    s.changes (t.irqMessage pg) cs fs ns :=
  State.changes_trans h (State.changes_mono (t.irqMessage_changes ..) (by simpa using ho) (by simp) (by simpa using hn))

theorem State.changes.err (h : s.changes t cs fs ns) {pg : Page} {c : Nat}
    (hf : Reg.PG_ERR_CODE.place pg ∈ fs ∧ Reg.PG_ERR_MULTI.place pg ∈ fs := by simp [errPlaces])
    (hn : (pg, 0x50) ∈ ns := by simp [errCounts]) : s.changes (t.err pg c) cs fs ns :=
  State.changes_trans h (State.changes_mono (t.err_changes ..) (by simp) (by simpa [errPlaces] using hf)
    (by simpa [errCounts] using hn))

theorem State.changes.setWord (h : s.changes t cs fs ns) {a : Nat} {v : Word}
    (hb : ∀ b, (∀ x ∈ fs, ¬ Place.covers x a b) → v.getLsbD b = (t.word a).getLsbD b) : s.changes (t.setWord a v) cs fs ns := by
  refine State.changes_trans h ⟨?_, t.setWord_bitsBut a v fs hb, fun _ _ => rfl⟩
  intro c hc
  cases c <;> simp_all [Comp.same]

/-- An update of listed components. -/
theorem State.changes.upd (h : s.changes t cs fs ns)
    (hk : ∀ c, c ∉ Comp.regs :: Comp.cnt :: cs → Comp.same t u c := by
      intro c hc; cases c <;> first | rfl | exact absurd (by simp) hc)
    (hr : u.regs = t.regs := by with_reducible rfl) (hz : u.fuses = t.fuses := by with_reducible rfl)
    (hc : u.cnt = t.cnt := by with_reducible rfl) : s.changes u cs fs ns :=
  State.changes_trans h ⟨hk, fun a _ _ => by rw [State.word_congr hr hz a], fun a _ => by rw [hc]⟩

/-- An operation repeated over a list. -/
theorem State.changes.each {α : Type} (h : s.changes t cs fs ns) {l : List α} {f : State → α → State}
    (hf : ∀ u, ∀ x ∈ l, s.changes u cs fs ns → s.changes (f u x) cs fs ns) : s.changes (t.each l f) cs fs ns := by
  unfold State.each
  induction l generalizing t with
  | nil => exact h
  | cons x l ih => exact ih (hf _ _ (by simp) h) fun u y hy => hf u y (by simp [hy])

/-! An update by name. -/

theorem State.changes.setTile (h : s.changes t cs fs ns) {i : TileId} {v : Tile} (h0 : .tiles ∈ cs := by simp) :
    s.changes (t.setTile i v) cs fs ns :=
  h.upd (fun c hc => by cases c <;> first | rfl | exact absurd (by simp [h0]) hc) rfl rfl rfl

theorem State.changes.setPart (h : s.changes t cs fs ns) {p : PartId} {v : Part} (h0 : .parts ∈ cs := by simp) :
    s.changes (t.setPart p v) cs fs ns :=
  h.upd (fun c hc => by cases c <;> first | rfl | exact absurd (by simp [h0]) hc) rfl rfl rfl

theorem State.changes.setMover (h : s.changes t cs fs ns) {p : PartId} {v : Mover} (h0 : .movers ∈ cs := by simp) :
    s.changes (t.setMover p v) cs fs ns :=
  h.upd (fun c hc => by cases c <;> first | rfl | exact absurd (by simp [h0]) hc) rfl rfl rfl

theorem State.changes.setTen (h : s.changes t cs fs ns) {n : TenId} {v : Tenant} (h0 : .tenants ∈ cs := by simp) :
    s.changes (t.setTen n v) cs fs ns :=
  h.upd (fun c hc => by cases c <;> first | rfl | exact absurd (by simp [h0]) hc) rfl rfl rfl

theorem State.changes.setEng (h : s.changes t cs fs ns) {e : EngId} {v : Engine} (h0 : .engines ∈ cs := by simp) :
    s.changes (t.setEng e v) cs fs ns :=
  h.upd (fun c hc => by cases c <;> first | rfl | exact absurd (by simp [h0]) hc) rfl rfl rfl

theorem State.changes.setQp (h : s.changes t cs fs ns) {q : QpId} {v : Qp} (h0 : .qps ∈ cs := by simp) :
    s.changes (t.setQp q v) cs fs ns :=
  h.upd (fun c hc => by cases c <;> first | rfl | exact absurd (by simp [h0]) hc) rfl rfl rfl

theorem State.changes.setPort (h : s.changes t cs fs ns) {n : PortId} {v : Port} (h0 : .ports ∈ cs := by simp) :
    s.changes (t.setPort n v) cs fs ns :=
  h.upd (fun c hc => by cases c <;> first | rfl | exact absurd (by simp [h0]) hc) rfl rfl rfl

theorem State.changes.setRgn (h : s.changes t cs fs ns) {p : PartId} {i : Nat} {v : Region} (h0 : .regions ∈ cs := by simp) :
    s.changes (t.setRgn p i v) cs fs ns :=
  h.upd (fun c hc => by cases c <;> first | rfl | exact absurd (by simp [h0]) hc) rfl rfl rfl

theorem State.changes.setTier (h : s.changes t cs fs ns) {v : Tier} (h0 : .tier ∈ cs := by simp) :
    s.changes (t.setTier v) cs fs ns :=
  h.upd (fun c hc => by cases c <;> first | rfl | exact absurd (by simp [h0]) hc) rfl rfl rfl

theorem State.changes.setDig (h : s.changes t cs fs ns) {k : Nat} {v : DigRegion} (h0 : .digs ∈ cs := by simp) :
    s.changes (t.setDig k v) cs fs ns :=
  h.upd (fun c hc => by cases c <;> first | rfl | exact absurd (by simp [h0]) hc) rfl rfl rfl

theorem State.changes.setSlot (h : s.changes t cs fs ns) {i : TileId} {k : Fin 64} {v : Slot} (h0 : .tiles ∈ cs := by simp) :
    s.changes (t.setSlot i k v) cs fs ns :=
  h.upd (fun c hc => by cases c <;> first | rfl | exact absurd (by simp [h0]) hc) rfl rfl rfl

theorem State.changes.setRs (h : s.changes t cs fs ns) {p : PartId} {k : Nat} {v : ReqSlot} (h0 : .parts ∈ cs := by simp) :
    s.changes (t.setRs p k v) cs fs ns :=
  h.upd (fun c hc => by cases c <;> first | rfl | exact absurd (by simp [h0]) hc) rfl rfl rfl

theorem State.changes.setConv (h : s.changes t cs fs ns) {v : Conv} (h0 : .convs ∈ cs := by simp) :
    s.changes (t.setConv v) cs fs ns :=
  h.upd (fun c hc => by cases c <;> first | rfl | exact absurd (by simp [h0]) hc) rfl rfl rfl

theorem State.changes.dropConv (h : s.changes t cs fs ns) {n : TenId} {c : Nat} (h0 : .convs ∈ cs := by simp) :
    s.changes (t.dropConv n c) cs fs ns :=
  h.upd (fun c hc => by cases c <;> first | rfl | exact absurd (by simp [h0]) hc) rfl rfl rfl

theorem State.changes.updConv (h : s.changes t cs fs ns) {n : TenId} {c : Nat} {f : Conv → Conv} (h0 : .convs ∈ cs := by simp) :
    s.changes (t.updConv n c f) cs fs ns :=
  h.upd (fun c hc => by cases c <;> first | rfl | exact absurd (by simp [h0]) hc) rfl rfl rfl

theorem State.changes.updReq (h : s.changes t cs fs ns) {i : Nat} {f : Req → Req} (h0 : .reqs ∈ cs := by simp) :
    s.changes (t.updReq i f) cs fs ns :=
  h.upd (fun c hc => by cases c <;> first | rfl | exact absurd (by simp [h0]) hc) rfl rfl rfl

theorem State.changes.dropReq (h : s.changes t cs fs ns) {i : Nat} (h0 : .reqs ∈ cs := by simp) :
    s.changes (t.dropReq i) cs fs ns :=
  h.upd (fun c hc => by cases c <;> first | rfl | exact absurd (by simp [h0]) hc) rfl rfl rfl

theorem State.changes.sends (h : s.changes t cs fs ns) {l : List Out} (h0 : .out ∈ cs := by simp) :
    s.changes (t.sends l) cs fs ns :=
  h.upd (fun c hc => by cases c <;> first | rfl | exact absurd (by simp [h0]) hc) rfl rfl rfl

theorem State.changes.draw (h : s.changes t cs fs ns) (h0 : .fresh ∈ cs := by simp) :
    s.changes (t.draw) cs fs ns :=
  h.upd (fun c hc => by cases c <;> first | rfl | exact absurd (by simp [h0]) hc) rfl rfl rfl

theorem State.changes.wr (h : s.changes t cs fs ns) {a : Nat} {b : List Byte} (h0 : .mem ∈ cs := by simp) (h1 : .digs ∈ cs := by simp) :
    s.changes (t.wr a b) cs fs ns :=
  h.upd (fun c hc => by cases c <;> first | rfl | exact absurd (by simp [h0, h1]) hc) rfl rfl rfl

theorem State.changes.wrSram (h : s.changes t cs fs ns) {i : TileId} {o : Nat} {b : List Byte} (h0 : .sram ∈ cs := by simp) :
    s.changes (t.wrSram i o b) cs fs ns :=
  h.upd (fun c hc => by cases c <;> first | rfl | exact absurd (by simp [h0]) hc) rfl rfl rfl

theorem State.keeps.upd {l : List Comp} (h : s.keeps t l)
    (hk : ∀ c, c ∉ l → Comp.same t u c := by
      intro c hc; cases c <;> first | rfl | exact absurd (by simp) hc) : s.keeps u l :=
  fun c hc => Comp.same_trans (h c hc) (hk c hc)

theorem State.keeps.each {α : Type} {l : List Comp} (h : s.keeps t l) {xs : List α} {f : State → α → State}
    (hf : ∀ u x, s.keeps u l → s.keeps (f u x) l) : s.keeps (t.each xs f) l := by
  unfold State.each
  induction xs generalizing t with
  | nil => exact h
  | cons x xs ih => exact ih (hf _ _ h)

/-! ## Reads of what a frame leaves -/

/-- Two places of one page or of two share no bit. -/
def Place.apart (x y : Place) : Prop :=
  8 * x.2.1.addr x.1 x.2.2 + x.2.1.lo + x.2.1.width ≤ 8 * y.2.1.addr y.1 y.2.2 + y.2.1.lo ∨
    8 * y.2.1.addr y.1 y.2.2 + y.2.1.lo + y.2.1.width ≤ 8 * x.2.1.addr x.1 x.2.2 + x.2.1.lo

theorem Place.apart_of_below {pg : Page} {f g : Fld} {j : Nat} (h : f.below g = true) :
    Place.apart (f.place pg) (g.place pg j) := by
  simp only [Fld.below, decide_eq_true_eq] at h
  simp only [Place.apart, Fld.place, Fld.addr]
  omega

theorem Place.apart_of_apart {pg : Page} {f g : Fld} {i j : Nat} (h : f.apart g i j = true) :
    Place.apart (f.place pg i) (g.place pg j) := by
  simp only [Fld.apart, decide_eq_true_eq] at h
  simp only [Place.apart, Fld.place, Fld.addr]
  omega

theorem Place.apart_of_ne {pg q : Page} {f g : Fld} {i j : Nat} (h : pg ≠ q) (hf : f.fits i = true) (hg : g.fits j = true) :
    Place.apart (f.place pg i) (g.place q j) := by
  have hp := Page.apart h
  have h1 := f.bits_le_words
  have h2 := g.bits_le_words
  simp only [Fld.fits, decide_eq_true_eq] at hf hg
  simp only [Place.apart, Fld.place, Fld.addr]
  omega

theorem State.bitsBut.fld (h : s.bitsBut t fs) {q : Page} {g : Fld} {j : Nat} (hd : ∀ x ∈ fs, Place.apart x (g.place q j)) :
    t.fld q g j = s.fld q g j := by
  apply State.fld_of_bits
  intro k b _ _ h1 h2
  apply h
  rintro x hx ⟨h3, h4, h5⟩
  have := hd x hx
  simp only [Place.apart, Fld.place] at this
  omega

theorem State.changes.fld (h : s.changes t cs fs ns) {q : Page} {g : Fld} {j : Nat}
    (hd : ∀ x ∈ fs, Place.apart x (g.place q j)) : t.fld q g j = s.fld q g j := State.bitsBut.fld h.2.1 hd

theorem State.changes.counter (h : s.changes t cs fs ns) {q : Page} {o : Nat}
    (hd : ∀ x ∈ ns, q.base + o ≠ x.1.base + x.2) : t.counter q o = s.counter q o :=
  congrArg BitVec.toNat (h.2.2 _ hd)

end

/-! ## Entries of a map -/

section
variable {β : Type} [DecidableEq β] (d v : β) (m n : Map β) {k : Nat} {ks : List Nat}

@[simp] theorem othersSame_refl : othersSame d m m ks := fun _ _ => rfl

/-- A listed entry may change. -/
@[simp] theorem othersSame_set (h : k ∈ ks) : othersSame d m (Map.set d n k v) ks ↔ othersSame d m n ks := by
  have e : ∀ j, j ∉ ks → Map.get d (Map.set d n k v) j = Map.get d n j := fun j hj =>
    Map.get_set_other _ _ _ _ fun hjk => hj (hjk ▸ h)
  exact forall₂_congr fun j hj => by rw [e j hj]

end

/-! ## Interrupts -/

@[simp] theorem State.now_irq (s : State) (pg : Page) (b : Nat) : (s.irq pg b).now = s.now :=
  (s.irq_changes pg b).1 .now (by simp)
@[simp] theorem State.fresh_irq (s : State) (pg : Page) (b : Nat) : (s.irq pg b).fresh = s.fresh :=
  (s.irq_changes pg b).1 .fresh (by simp)
@[simp] theorem State.pending_irq (s : State) (pg : Page) (b : Nat) : (s.irq pg b).pending = s.pending :=
  (s.irq_changes pg b).1 .pending (by simp)
@[simp] theorem State.shadow_irq (s : State) (pg : Page) (b : Nat) : (s.irq pg b).shadow = s.shadow :=
  (s.irq_changes pg b).1 .shadow (by simp)
@[simp] theorem State.mem_irq (s : State) (pg : Page) (b : Nat) : (s.irq pg b).mem = s.mem :=
  (s.irq_changes pg b).1 .mem (by simp)
@[simp] theorem State.sram_irq (s : State) (pg : Page) (b : Nat) : (s.irq pg b).sram = s.sram :=
  (s.irq_changes pg b).1 .sram (by simp)
@[simp] theorem State.sramBad_irq (s : State) (pg : Page) (b : Nat) : (s.irq pg b).sramBad = s.sramBad :=
  (s.irq_changes pg b).1 .sramBad (by simp)
@[simp] theorem State.tiles_irq (s : State) (pg : Page) (b : Nat) : (s.irq pg b).tiles = s.tiles :=
  (s.irq_changes pg b).1 .tiles (by simp)
@[simp] theorem State.parts_irq (s : State) (pg : Page) (b : Nat) : (s.irq pg b).parts = s.parts :=
  (s.irq_changes pg b).1 .parts (by simp)
@[simp] theorem State.movers_irq (s : State) (pg : Page) (b : Nat) : (s.irq pg b).movers = s.movers :=
  (s.irq_changes pg b).1 .movers (by simp)
@[simp] theorem State.tenants_irq (s : State) (pg : Page) (b : Nat) : (s.irq pg b).tenants = s.tenants :=
  (s.irq_changes pg b).1 .tenants (by simp)
@[simp] theorem State.reqs_irq (s : State) (pg : Page) (b : Nat) : (s.irq pg b).reqs = s.reqs :=
  (s.irq_changes pg b).1 .reqs (by simp)
@[simp] theorem State.convs_irq (s : State) (pg : Page) (b : Nat) : (s.irq pg b).convs = s.convs :=
  (s.irq_changes pg b).1 .convs (by simp)
@[simp] theorem State.tier_irq (s : State) (pg : Page) (b : Nat) : (s.irq pg b).tier = s.tier :=
  (s.irq_changes pg b).1 .tier (by simp)
@[simp] theorem State.rrc_irq (s : State) (pg : Page) (b : Nat) : (s.irq pg b).rrc = s.rrc :=
  (s.irq_changes pg b).1 .rrc (by simp)
@[simp] theorem State.engines_irq (s : State) (pg : Page) (b : Nat) : (s.irq pg b).engines = s.engines :=
  (s.irq_changes pg b).1 .engines (by simp)
@[simp] theorem State.regions_irq (s : State) (pg : Page) (b : Nat) : (s.irq pg b).regions = s.regions :=
  (s.irq_changes pg b).1 .regions (by simp)
@[simp] theorem State.qps_irq (s : State) (pg : Page) (b : Nat) : (s.irq pg b).qps = s.qps :=
  (s.irq_changes pg b).1 .qps (by simp)
@[simp] theorem State.ports_irq (s : State) (pg : Page) (b : Nat) : (s.irq pg b).ports = s.ports :=
  (s.irq_changes pg b).1 .ports (by simp)
@[simp] theorem State.finj_irq (s : State) (pg : Page) (b : Nat) : (s.irq pg b).finj = s.finj :=
  (s.irq_changes pg b).1 .finj (by simp)
@[simp] theorem State.srch_irq (s : State) (pg : Page) (b : Nat) : (s.irq pg b).srch = s.srch :=
  (s.irq_changes pg b).1 .srch (by simp)
@[simp] theorem State.units_irq (s : State) (pg : Page) (b : Nat) : (s.irq pg b).units = s.units :=
  (s.irq_changes pg b).1 .units (by simp)
@[simp] theorem State.digs_irq (s : State) (pg : Page) (b : Nat) : (s.irq pg b).digs = s.digs :=
  (s.irq_changes pg b).1 .digs (by simp)
@[simp] theorem State.elog_irq (s : State) (pg : Page) (b : Nat) : (s.irq pg b).elog = s.elog :=
  (s.irq_changes pg b).1 .elog (by simp)
@[simp] theorem State.qrm_irq (s : State) (pg : Page) (b : Nat) : (s.irq pg b).qrm = s.qrm :=
  (s.irq_changes pg b).1 .qrm (by simp)
@[simp] theorem State.pwr_irq (s : State) (pg : Page) (b : Nat) : (s.irq pg b).pwr = s.pwr :=
  (s.irq_changes pg b).1 .pwr (by simp)
@[simp] theorem State.rst_irq (s : State) (pg : Page) (b : Nat) : (s.irq pg b).rst = s.rst :=
  (s.irq_changes pg b).1 .rst (by simp)
@[simp] theorem State.fuses_irq (s : State) (pg : Page) (b : Nat) : (s.irq pg b).fuses = s.fuses :=
  (s.irq_changes pg b).1 .fuses (by simp)
@[simp] theorem State.wlh_irq (s : State) (pg : Page) (b : Nat) : (s.irq pg b).wlh = s.wlh :=
  (s.irq_changes pg b).1 .wlh (by simp)
@[simp] theorem State.ledger_irq (s : State) (pg : Page) (b : Nat) : (s.irq pg b).ledger = s.ledger :=
  (s.irq_changes pg b).1 .ledger (by simp)
@[simp] theorem State.uart_irq (s : State) (pg : Page) (b : Nat) : (s.irq pg b).uart = s.uart :=
  (s.irq_changes pg b).1 .uart (by simp)
@[simp] theorem State.sync_irq (s : State) (pg : Page) (b : Nat) : (s.irq pg b).sync = s.sync :=
  (s.irq_changes pg b).1 .sync (by simp)
@[simp] theorem State.unreached_irq (s : State) (pg : Page) (b : Nat) : (s.irq pg b).unreached = s.unreached :=
  (s.irq_changes pg b).1 .unreached (by simp)

section
variable (s : State) {z : Fuses} {pg q : Page} {g : Fld} {b j : Nat}

@[simp] theorem regFld_irq_apart (hz : z = s.fuses) (h : Reg.PG_IRQ_STAT.apart g 0 j = true) :
    regFld (s.irq pg b).regs z pg g j = regFld s.regs z pg g j :=
  regFld_of_fld s hz (by simp) ((s.irq_changes pg b).fld (by simpa [irqPlaces] using Place.apart_of_apart h))

@[simp] theorem regFld_irq_below (hz : z = s.fuses) (h : Reg.PG_IRQ_STAT.below g = true) :
    regFld (s.irq pg b).regs z pg g j = regFld s.regs z pg g j :=
  regFld_of_fld s hz (by simp) ((s.irq_changes pg b).fld (by simpa [irqPlaces] using Place.apart_of_below h))

@[simp] theorem regFld_irq_page (hz : z = s.fuses) (h : pg ≠ q) (hg : g.fits j = true) :
    regFld (s.irq pg b).regs z q g j = regFld s.regs z q g j :=
  regFld_of_fld s hz (by simp)
    ((s.irq_changes pg b).fld (by simpa [irqPlaces] using Place.apart_of_ne h (by decide) hg))

@[simp] theorem cntAt_irq {o : Nat} (h : pg.base + 0x58 ≠ q.base + o) (k : Page.base .pcie + 0xB0 ≠ q.base + o) :
    cntAt (s.irq pg b).cnt q o = cntAt s.cnt q o :=
  (s.irq_changes pg b).counter (by simpa [irqCounts] using ⟨Ne.symm h, Ne.symm k⟩)

/-- The messages of an interrupt event (R385). -/
theorem State.out_pfVector (v : Nat) :
    (s.pfVector v).out = s.out ++ if v ∈ s.pcie.unmasked then [.msix none v] else [] := by
  simp only [State.pfVector]
  split
  · simp [State.send]
  · split <;> simp

theorem State.out_irqMessage : (s.irqMessage pg).out = s.out ++ s.messages pg := by
  simp only [State.irqMessage, State.messages]
  by_cases h1 : s.fld pg Reg.PG_CTRL_DEST = 0 ∨ s.fld pg Reg.PG_CTRL_DEST = 2 <;>
    by_cases h2 : s.fld pg Reg.PG_CTRL_DEST = 1 ∨ s.fld pg Reg.PG_CTRL_DEST = 2 <;>
    simp [h1, h2, State.send, State.out_pfVector]

/-- The messages of a state that differs in the words of the page's interrupts alone. -/
theorem State.messages_congr {t : State} (h : t.fld pg Reg.PG_CTRL_DEST = s.fld pg Reg.PG_CTRL_DEST)
    (k : t.fld pg Reg.PG_CTRL_VEC = s.fld pg Reg.PG_CTRL_VEC) (e : t.pcie = s.pcie) : t.messages pg = s.messages pg := by
  simp only [State.messages, h, k, e]

/-- A word written within the page's header leaves the fields of other words. -/
theorem State.fld_setWord_other {a : Nat} {v : Word} (h : ∀ k, k < g.words → a ≠ g.addr q j + 4 * k) :
    (s.setWord a v).fld q g j = s.fld q g j := by
  apply State.fld_of_bits
  intro k b hk _ _ _
  rw [State.word_setWord_other _ _ (h k hk).symm]

theorem State.messages_setWord {o : Nat} {v : Word} (h : o ≠ 8) :
    (s.setWord (pg.base + o) v).messages pg = s.messages pg := by
  refine s.messages_congr ?_ ?_ rfl <;>
  · apply State.fld_setWord_other
    intro k hk
    have : k = 0 := Nat.lt_one_iff.mp hk
    simp only [Fld.addr, Reg.PG_CTRL_DEST, Reg.PG_CTRL_VEC]
    omega

theorem bit_eq_getLsbD (e : Word) (b : Nat) : bit e.toNat b = e.getLsbD b := by
  rw [BitVec.getLsbD, bit_eq_testBit]

/-- A bit set in a word that met none of a mask's bits meets the mask where the mask has that bit. -/
theorem or_bit_meets {w e : Word} (h : (w &&& e != 0) = false) (b : Nat) :
    ((w ||| BitVec.ofNat 32 (2 ^ b)) &&& e != 0) = bit e.toNat b := by
  have h0 : w &&& e = 0 := by simpa using h
  have hb : BitVec.ofNat 32 (2 ^ b) = BitVec.twoPow 32 b := by
    apply BitVec.eq_of_toNat_eq
    simp [BitVec.toNat_twoPow]
  have hd : (w ||| BitVec.ofNat 32 (2 ^ b)) &&& e = BitVec.twoPow 32 b &&& e := by
    rw [hb]
    ext i hi
    have hw : (w &&& e)[i] = false := by simp [h0]
    simp only [BitVec.getElem_and] at hw
    simp [Bool.and_or_distrib_right, hw]
  rw [hd, BitVec.twoPow_and, bit_eq_getLsbD]
  cases he : e.getLsbD b with
  | false => simp
  | true =>
    have hlt : b < 32 := BitVec.lt_of_getLsbD he
    have hn : BitVec.twoPow 32 b ≠ 0 := fun hz => by
      have := congrArg (BitVec.getLsbD · b) hz
      simp [BitVec.getLsbD_twoPow, hlt] at this
    simpa using hn
/-- The messages of an interrupt event (R385). -/
theorem State.out_irq : (s.irq pg b).out = s.out ++ s.irqOut pg b := by
  have hc : ∀ t : State, (t.count pg 0x58).messages pg = t.messages pg := fun t => t.messages_congr (by simp) (by simp) rfl
  have hp : ∀ t : State, (t.count pg 0x58).irqPending pg = t.irqPending pg := fun t => rfl
  have hs : (s.setWord (pg.base + 0x10) (s.word (pg.base + 0x10) ||| BitVec.ofNat 32 (2 ^ b))).irqPending pg =
      ((s.word (pg.base + 0x10) ||| BitVec.ofNat 32 (2 ^ b)) &&& s.word (pg.base + 0x14) != 0) := by
    rw [State.irqPending, State.word_setWord_same, State.word_setWord_other _ _ (by omega)]
  simp only [State.irq, State.irqOut]
  cases hw : s.irqPending pg with
  | true => split <;> simp
  | false =>
    rw [apply_ite (State.irqPending · pg), hp, ite_self, hs, or_bit_meets hw]
    split
    · split <;> simp [State.out_irqMessage, s.messages_setWord, hc, *]
    · split <;> simp [*]

end

/-! ## Errors -/

@[simp] theorem State.now_err (s : State) (pg : Page) (c : Nat) : (s.err pg c).now = s.now :=
  (s.err_changes pg c).1 .now (by simp)
@[simp] theorem State.fresh_err (s : State) (pg : Page) (c : Nat) : (s.err pg c).fresh = s.fresh :=
  (s.err_changes pg c).1 .fresh (by simp)
@[simp] theorem State.pending_err (s : State) (pg : Page) (c : Nat) : (s.err pg c).pending = s.pending :=
  (s.err_changes pg c).1 .pending (by simp)
@[simp] theorem State.out_err (s : State) (pg : Page) (c : Nat) : (s.err pg c).out = s.out :=
  (s.err_changes pg c).1 .out (by simp)
@[simp] theorem State.shadow_err (s : State) (pg : Page) (c : Nat) : (s.err pg c).shadow = s.shadow :=
  (s.err_changes pg c).1 .shadow (by simp)
@[simp] theorem State.mem_err (s : State) (pg : Page) (c : Nat) : (s.err pg c).mem = s.mem :=
  (s.err_changes pg c).1 .mem (by simp)
@[simp] theorem State.sram_err (s : State) (pg : Page) (c : Nat) : (s.err pg c).sram = s.sram :=
  (s.err_changes pg c).1 .sram (by simp)
@[simp] theorem State.sramBad_err (s : State) (pg : Page) (c : Nat) : (s.err pg c).sramBad = s.sramBad :=
  (s.err_changes pg c).1 .sramBad (by simp)
@[simp] theorem State.tiles_err (s : State) (pg : Page) (c : Nat) : (s.err pg c).tiles = s.tiles :=
  (s.err_changes pg c).1 .tiles (by simp)
@[simp] theorem State.parts_err (s : State) (pg : Page) (c : Nat) : (s.err pg c).parts = s.parts :=
  (s.err_changes pg c).1 .parts (by simp)
@[simp] theorem State.movers_err (s : State) (pg : Page) (c : Nat) : (s.err pg c).movers = s.movers :=
  (s.err_changes pg c).1 .movers (by simp)
@[simp] theorem State.tenants_err (s : State) (pg : Page) (c : Nat) : (s.err pg c).tenants = s.tenants :=
  (s.err_changes pg c).1 .tenants (by simp)
@[simp] theorem State.reqs_err (s : State) (pg : Page) (c : Nat) : (s.err pg c).reqs = s.reqs :=
  (s.err_changes pg c).1 .reqs (by simp)
@[simp] theorem State.convs_err (s : State) (pg : Page) (c : Nat) : (s.err pg c).convs = s.convs :=
  (s.err_changes pg c).1 .convs (by simp)
@[simp] theorem State.tier_err (s : State) (pg : Page) (c : Nat) : (s.err pg c).tier = s.tier :=
  (s.err_changes pg c).1 .tier (by simp)
@[simp] theorem State.rrc_err (s : State) (pg : Page) (c : Nat) : (s.err pg c).rrc = s.rrc :=
  (s.err_changes pg c).1 .rrc (by simp)
@[simp] theorem State.engines_err (s : State) (pg : Page) (c : Nat) : (s.err pg c).engines = s.engines :=
  (s.err_changes pg c).1 .engines (by simp)
@[simp] theorem State.regions_err (s : State) (pg : Page) (c : Nat) : (s.err pg c).regions = s.regions :=
  (s.err_changes pg c).1 .regions (by simp)
@[simp] theorem State.qps_err (s : State) (pg : Page) (c : Nat) : (s.err pg c).qps = s.qps :=
  (s.err_changes pg c).1 .qps (by simp)
@[simp] theorem State.ports_err (s : State) (pg : Page) (c : Nat) : (s.err pg c).ports = s.ports :=
  (s.err_changes pg c).1 .ports (by simp)
@[simp] theorem State.finj_err (s : State) (pg : Page) (c : Nat) : (s.err pg c).finj = s.finj :=
  (s.err_changes pg c).1 .finj (by simp)
@[simp] theorem State.srch_err (s : State) (pg : Page) (c : Nat) : (s.err pg c).srch = s.srch :=
  (s.err_changes pg c).1 .srch (by simp)
@[simp] theorem State.units_err (s : State) (pg : Page) (c : Nat) : (s.err pg c).units = s.units :=
  (s.err_changes pg c).1 .units (by simp)
@[simp] theorem State.digs_err (s : State) (pg : Page) (c : Nat) : (s.err pg c).digs = s.digs :=
  (s.err_changes pg c).1 .digs (by simp)
@[simp] theorem State.elog_err (s : State) (pg : Page) (c : Nat) : (s.err pg c).elog = s.elog :=
  (s.err_changes pg c).1 .elog (by simp)
@[simp] theorem State.qrm_err (s : State) (pg : Page) (c : Nat) : (s.err pg c).qrm = s.qrm :=
  (s.err_changes pg c).1 .qrm (by simp)
@[simp] theorem State.pwr_err (s : State) (pg : Page) (c : Nat) : (s.err pg c).pwr = s.pwr :=
  (s.err_changes pg c).1 .pwr (by simp)
@[simp] theorem State.rst_err (s : State) (pg : Page) (c : Nat) : (s.err pg c).rst = s.rst :=
  (s.err_changes pg c).1 .rst (by simp)
@[simp] theorem State.fuses_err (s : State) (pg : Page) (c : Nat) : (s.err pg c).fuses = s.fuses :=
  (s.err_changes pg c).1 .fuses (by simp)
@[simp] theorem State.wlh_err (s : State) (pg : Page) (c : Nat) : (s.err pg c).wlh = s.wlh :=
  (s.err_changes pg c).1 .wlh (by simp)
@[simp] theorem State.ledger_err (s : State) (pg : Page) (c : Nat) : (s.err pg c).ledger = s.ledger :=
  (s.err_changes pg c).1 .ledger (by simp)
@[simp] theorem State.uart_err (s : State) (pg : Page) (c : Nat) : (s.err pg c).uart = s.uart :=
  (s.err_changes pg c).1 .uart (by simp)
@[simp] theorem State.pcie_err (s : State) (pg : Page) (c : Nat) : (s.err pg c).pcie = s.pcie :=
  (s.err_changes pg c).1 .pcie (by simp)
@[simp] theorem State.sync_err (s : State) (pg : Page) (c : Nat) : (s.err pg c).sync = s.sync :=
  (s.err_changes pg c).1 .sync (by simp)
@[simp] theorem State.unreached_err (s : State) (pg : Page) (c : Nat) : (s.err pg c).unreached = s.unreached :=
  (s.err_changes pg c).1 .unreached (by simp)

theorem State.rsvEnc_changes (s : State) (pg : Page) :
    s.changes (s.rsvEnc pg) [] (errPlaces pg) [(pg, 0x50), (pg, 0x68)] :=
  .count (.err .refl)

@[simp] theorem State.now_rsvEnc (s : State) (pg : Page) : (s.rsvEnc pg).now = s.now :=
  (s.rsvEnc_changes pg).1 .now (by simp)
@[simp] theorem State.fresh_rsvEnc (s : State) (pg : Page) : (s.rsvEnc pg).fresh = s.fresh :=
  (s.rsvEnc_changes pg).1 .fresh (by simp)
@[simp] theorem State.pending_rsvEnc (s : State) (pg : Page) : (s.rsvEnc pg).pending = s.pending :=
  (s.rsvEnc_changes pg).1 .pending (by simp)
@[simp] theorem State.out_rsvEnc (s : State) (pg : Page) : (s.rsvEnc pg).out = s.out :=
  (s.rsvEnc_changes pg).1 .out (by simp)
@[simp] theorem State.shadow_rsvEnc (s : State) (pg : Page) : (s.rsvEnc pg).shadow = s.shadow :=
  (s.rsvEnc_changes pg).1 .shadow (by simp)
@[simp] theorem State.mem_rsvEnc (s : State) (pg : Page) : (s.rsvEnc pg).mem = s.mem :=
  (s.rsvEnc_changes pg).1 .mem (by simp)
@[simp] theorem State.sram_rsvEnc (s : State) (pg : Page) : (s.rsvEnc pg).sram = s.sram :=
  (s.rsvEnc_changes pg).1 .sram (by simp)
@[simp] theorem State.sramBad_rsvEnc (s : State) (pg : Page) : (s.rsvEnc pg).sramBad = s.sramBad :=
  (s.rsvEnc_changes pg).1 .sramBad (by simp)
@[simp] theorem State.tiles_rsvEnc (s : State) (pg : Page) : (s.rsvEnc pg).tiles = s.tiles :=
  (s.rsvEnc_changes pg).1 .tiles (by simp)
@[simp] theorem State.parts_rsvEnc (s : State) (pg : Page) : (s.rsvEnc pg).parts = s.parts :=
  (s.rsvEnc_changes pg).1 .parts (by simp)
@[simp] theorem State.movers_rsvEnc (s : State) (pg : Page) : (s.rsvEnc pg).movers = s.movers :=
  (s.rsvEnc_changes pg).1 .movers (by simp)
@[simp] theorem State.tenants_rsvEnc (s : State) (pg : Page) : (s.rsvEnc pg).tenants = s.tenants :=
  (s.rsvEnc_changes pg).1 .tenants (by simp)
@[simp] theorem State.reqs_rsvEnc (s : State) (pg : Page) : (s.rsvEnc pg).reqs = s.reqs :=
  (s.rsvEnc_changes pg).1 .reqs (by simp)
@[simp] theorem State.convs_rsvEnc (s : State) (pg : Page) : (s.rsvEnc pg).convs = s.convs :=
  (s.rsvEnc_changes pg).1 .convs (by simp)
@[simp] theorem State.tier_rsvEnc (s : State) (pg : Page) : (s.rsvEnc pg).tier = s.tier :=
  (s.rsvEnc_changes pg).1 .tier (by simp)
@[simp] theorem State.rrc_rsvEnc (s : State) (pg : Page) : (s.rsvEnc pg).rrc = s.rrc :=
  (s.rsvEnc_changes pg).1 .rrc (by simp)
@[simp] theorem State.engines_rsvEnc (s : State) (pg : Page) : (s.rsvEnc pg).engines = s.engines :=
  (s.rsvEnc_changes pg).1 .engines (by simp)
@[simp] theorem State.regions_rsvEnc (s : State) (pg : Page) : (s.rsvEnc pg).regions = s.regions :=
  (s.rsvEnc_changes pg).1 .regions (by simp)
@[simp] theorem State.qps_rsvEnc (s : State) (pg : Page) : (s.rsvEnc pg).qps = s.qps :=
  (s.rsvEnc_changes pg).1 .qps (by simp)
@[simp] theorem State.ports_rsvEnc (s : State) (pg : Page) : (s.rsvEnc pg).ports = s.ports :=
  (s.rsvEnc_changes pg).1 .ports (by simp)
@[simp] theorem State.finj_rsvEnc (s : State) (pg : Page) : (s.rsvEnc pg).finj = s.finj :=
  (s.rsvEnc_changes pg).1 .finj (by simp)
@[simp] theorem State.srch_rsvEnc (s : State) (pg : Page) : (s.rsvEnc pg).srch = s.srch :=
  (s.rsvEnc_changes pg).1 .srch (by simp)
@[simp] theorem State.units_rsvEnc (s : State) (pg : Page) : (s.rsvEnc pg).units = s.units :=
  (s.rsvEnc_changes pg).1 .units (by simp)
@[simp] theorem State.digs_rsvEnc (s : State) (pg : Page) : (s.rsvEnc pg).digs = s.digs :=
  (s.rsvEnc_changes pg).1 .digs (by simp)
@[simp] theorem State.elog_rsvEnc (s : State) (pg : Page) : (s.rsvEnc pg).elog = s.elog :=
  (s.rsvEnc_changes pg).1 .elog (by simp)
@[simp] theorem State.qrm_rsvEnc (s : State) (pg : Page) : (s.rsvEnc pg).qrm = s.qrm :=
  (s.rsvEnc_changes pg).1 .qrm (by simp)
@[simp] theorem State.pwr_rsvEnc (s : State) (pg : Page) : (s.rsvEnc pg).pwr = s.pwr :=
  (s.rsvEnc_changes pg).1 .pwr (by simp)
@[simp] theorem State.rst_rsvEnc (s : State) (pg : Page) : (s.rsvEnc pg).rst = s.rst :=
  (s.rsvEnc_changes pg).1 .rst (by simp)
@[simp] theorem State.fuses_rsvEnc (s : State) (pg : Page) : (s.rsvEnc pg).fuses = s.fuses :=
  (s.rsvEnc_changes pg).1 .fuses (by simp)
@[simp] theorem State.wlh_rsvEnc (s : State) (pg : Page) : (s.rsvEnc pg).wlh = s.wlh :=
  (s.rsvEnc_changes pg).1 .wlh (by simp)
@[simp] theorem State.ledger_rsvEnc (s : State) (pg : Page) : (s.rsvEnc pg).ledger = s.ledger :=
  (s.rsvEnc_changes pg).1 .ledger (by simp)
@[simp] theorem State.uart_rsvEnc (s : State) (pg : Page) : (s.rsvEnc pg).uart = s.uart :=
  (s.rsvEnc_changes pg).1 .uart (by simp)
@[simp] theorem State.pcie_rsvEnc (s : State) (pg : Page) : (s.rsvEnc pg).pcie = s.pcie :=
  (s.rsvEnc_changes pg).1 .pcie (by simp)
@[simp] theorem State.sync_rsvEnc (s : State) (pg : Page) : (s.rsvEnc pg).sync = s.sync :=
  (s.rsvEnc_changes pg).1 .sync (by simp)
@[simp] theorem State.unreached_rsvEnc (s : State) (pg : Page) : (s.rsvEnc pg).unreached = s.unreached :=
  (s.rsvEnc_changes pg).1 .unreached (by simp)

end Sys2Proof.Machine
end

section
/-! PROOFS. Steps from the front of the queue, and the writes of the common page header (R382 to R386). -/

namespace Sys2Proof.Machine
open Sys2Proof

/-! ## The front command, and time -/

/-- Taking the units' waiting samples touches the units alone. -/
theorem State.unitsDrain_keeps (s : State) : s.keeps s.unitsDrain [.units] := by
  unfold State.unitsDrain
  refine .each (s.keeps_refl _) fun t u ht => ?_
  dsimp only
  split
  · exact ht
  · exact ht.upd

/-- Settles O55, by the two cases of the queue. -/
theorem stepRunsTheFrontCommand : Obligations.StepRunsTheFrontCommand := by
  unfold Obligations.StepRunsTheFrontCommand
  refine ⟨fun s c rest h => step_cons h, fun s h => ⟨_, step_nil h, ?_, ?_⟩⟩
  · exact State.unitsDrain_keeps _ .now (by simp)
  · exact State.keeps_mono (State.keeps_trans (State.keeps.upd (l := [.now]) (s.keeps_refl _)) (State.unitsDrain_keeps _)) (by simp)

/-! ## Commands that complete -/

/-- A command completes with the state its meaning answers. -/
theorem completes.next {c : Instr} {s t : State} {P : State → Prop} (h : P t) (e : exec c s = .next t := by rfl) :
    completes c s P := ⟨t, e, h⟩

theorem State.ifReady_pos {s : State} {pg : Page} (h : s.ready pg = true) (f : State → State) : s.ifReady pg f = f s := if_pos h

theorem State.ifReady_neg {s : State} {pg : Page} (h : s.ready pg = false) (f : State → State) : s.ifReady pg f = s := by
  simp [State.ifReady, h]

/-- A command of a ready page's registers completes with what it does there. -/
theorem completes.ifReady {c : Instr} {s : State} {P : State → Prop} {pg : Page} {f : State → State}
    (e : exec c s = .next (s.ifReady pg f)) (h : s.ready pg = true) (hp : P (f s)) : completes c s P :=
  ⟨f s, e.trans (congrArg Host.Outcome.next (State.ifReady_pos h f)), hp⟩

/-- On a page that is not ready it changes nothing. -/
theorem exec_of_not_ready {c : Instr} {s : State} {pg : Page} {f : State → State}
    (e : exec c s = .next (s.ifReady pg f)) (h : s.ready pg = false) : exec c s = .next s :=
  e.trans (congrArg Host.Outcome.next (State.ifReady_neg h f))

/-! ## The page header -/

section
variable {s : State} {pg : Page}

/-- A word of a page's header is covered by the field that is the word. -/
theorem State.changes.setHdr {t : State} {cs : List Comp} {fs : List Place} {ns : List (Page × Nat)} (h : s.changes t cs fs ns)
    {f : Fld} {v : Word} (hf : f.place pg ∈ fs) (hw : f.lo = 0 ∧ f.width = 32 := by exact ⟨rfl, rfl⟩) :
    s.changes (t.setWord (pg.base + f.off) v) cs fs ns := by
  refine h.setWord fun b hb => ?_
  obtain ⟨hl, hw⟩ := hw
  by_cases hb32 : b < 32
  · refine absurd ?_ (hb _ hf)
    simp only [Place.covers, Fld.place, Fld.addr, hl, hw]
    omega
  · rw [BitVec.getLsbD_of_ge _ _ (by omega), BitVec.getLsbD_of_ge _ _ (by omega)]

@[simp] theorem State.word_irqMessage (a : Nat) : (s.irqMessage pg).word a = s.word a :=
  State.word_congr (by simp) (by simp) a

/-- A word of the interrupts is written, and messages follow where `b` says so. -/
theorem State.changes.irqWord {f : Fld} {v : Word} {b : Bool} (h : f.place pg ∈ [Reg.PG_IRQ_STAT.place pg, Reg.PG_IRQ_EN.place pg]) :
    s.changes (if b then (s.setWord (pg.base + f.off) v).irqMessage pg else s.setWord (pg.base + f.off) v) [.out, .pcie]
      [f.place pg] [(.pcie, 0xB0)] := by
  have hw : f.lo = 0 ∧ f.width = 32 := by
    simp only [Fld.place, List.mem_cons, Prod.mk.injEq, List.not_mem_nil, or_false, true_and, and_true] at h
    rcases h with rfl | rfl <;> exact ⟨rfl, rfl⟩
  exact .ite (.irqMessage (.setHdr .refl (by simp) hw)) (.setHdr .refl (by simp) hw)

/-- The messages that follow a word of the interrupts. -/
theorem State.out_irqWord {o : Nat} {v : Word} {b : Bool} (h : o ≠ 8) :
    (if b then (s.setWord (pg.base + o) v).irqMessage pg else s.setWord (pg.base + o) v).out =
      s.out ++ if b then s.messages pg else [] := by
  cases b <;> simp [State.out_irqMessage, s.messages_setWord h]

theorem State.word_irqWord {a : Nat} {v : Word} {b : Bool} :
    (if b then (s.setWord a v).irqMessage pg else s.setWord a v).word a = v := by
  cases b <;> simp

end

/-- Settles O1: each write is one word or one field of the header, and what interrupts send. -/
theorem headerWritesTakeEffect : Obligations.HeaderWritesTakeEffect := by
  unfold Obligations.HeaderWritesTakeEffect
  refine ⟨fun s pg h => ?_, fun s pg v h => ?_, fun s pg v h => ?_, fun s pg c h => ?_, fun s pg v c h => ?_⟩
  · exact .ifReady rfl h ⟨s.fld_setFld_of_lt (by decide), .setFld .refl⟩
  · refine .ifReady rfl h ⟨State.word_irqWord, ?_, .irqWord (f := Reg.PG_IRQ_STAT) (by simp)⟩
    refine (State.out_irqWord (by decide)).trans ?_
    rw [State.irqPending, State.word_setWord_same, State.word_setWord_other _ _ (by omega)]
  · refine .ifReady rfl h ⟨State.word_irqWord, ?_, .irqWord (f := Reg.PG_IRQ_EN) (by simp)⟩
    refine (State.out_irqWord (by decide)).trans ?_
    rw [State.word_setWord_other _ _ (by omega)]
  · refine .ifReady rfl h ?_
    cases c with
    | none =>
      refine ⟨?_, ?_, ?_, .setFld (.setFld .refl)⟩
      · simp +decide [State.fld_eq]
      · simp +decide [State.fld_eq]
      · simp [State.counted, State.counter_eq]
    | some c =>
      obtain ⟨h1, h2, h3⟩ := State.err_erred ((s.setFld pg Reg.PG_ERR_CODE 0).setFld pg Reg.PG_ERR_MULTI 0) pg c.val c.isLt
      refine ⟨h1, h2.trans ?_, h3.trans ?_, .err (.setFld (.setFld .refl))⟩
      · simp +decide [State.fld_eq, State.flag]
      · simp +decide [State.counter_eq]
  · exact ⟨exec_of_not_ready rfl h, exec_of_not_ready rfl h, exec_of_not_ready rfl h, exec_of_not_ready rfl h⟩

end Sys2Proof.Machine
end

section
/-! PROOFS. Dispatcher slots and energy (R262 to R269, R274). -/

namespace Sys2Proof.Machine
open Sys2Proof

section
variable {s : State} {p : PartId}

theorem completes.not_ready {c : Instr} {pg : Page} {f : State → State} (e : exec c s = .next (s.ifReady pg f))
    (h : s.ready pg = false) : completes c s fun t => t = s := ⟨s, exec_of_not_ready e h, rfl⟩

/-- A request slot's image is read from the partition and its mover. -/
theorem State.rsImage_setFld (pg : Page) (f : Fld) (v i k : Nat) : (s.setFld pg f v i).rsImage p k = s.rsImage p k := by
  obtain ⟨r, hr⟩ := s.setFld_eq pg f v i
  rw [hr]
  rfl

theorem State.changes.loadStage {t : State} {cs : List Comp} {fs : List Place} {ns : List (Page × Nat)}
    (h : s.changes t cs fs ns) {k : Nat} (hm : .parts ∈ cs := by simp) : s.changes (t.loadStage p k) cs fs ns := h.setPart hm

theorem State.changes.dropUnsent {t : State} {cs : List Comp} {fs : List Place} {ns : List (Page × Nat)}
    (h : s.changes t cs fs ns) {k : Nat} (hm : .parts ∈ cs := by simp) (hn : ((Page.disp p : Page), 0x88) ∈ ns := by simp) :
    s.changes (t.dropUnsent p k) cs fs ns := .count (.setPart h hm) hn

/-- Eight staging words are all there are. -/
theorem Part.staged_of_length {x : Part} (h : x.stage.length = 8) : x.staged = x.stage := by
  apply List.ext_getElem
  · simp [Part.staged, h]
  · intro i h1 h2
    simp [Part.staged, h2]

theorem commitSlot_valid (x : ReqSlot) (img : Nat) : (commitSlot x img).valid = bit img 0 := by
  simp only [commitSlot]
  split
  · rfl
  · split <;> rfl

end

/-- Settles O32, command by command. -/
theorem dispatcherRegistersAndEnergy : Obligations.DispatcherRegistersAndEnergy := by
  unfold Obligations.DispatcherRegistersAndEnergy
  refine ⟨fun s p tail h hl => ?_, fun s p i h => ?_, fun s p k v h hk => ?_, fun s p v k img h hk hi hv hf => ?_,
    fun s p v k img h hk hi hv hb => ?_, fun s p us k h hk => ?_, fun s p h => ?_, fun s p h hle => ?_, fun s p h hlt => ?_,
    fun s p x n h hx hn => ?_, fun s p tail i k v h c hc => ?_⟩
  · refine .ifReady rfl h ⟨s.fld_setFld_of_lt ?_, .setFld .refl⟩
    exact Nat.lt_of_lt_of_le (Nat.mod_lt _ (Nat.two_pow_pos _)) (Nat.pow_le_pow_right (by decide) (Nat.succ_le_succ hl))
  · refine .ifReady rfl h ⟨?_, ?_, ?_, .loadStage (.setFld .refl)⟩
    · have hi : i.val < 2 ^ Reg.DISP_RS_SEL_INDEX.width := i.isLt
      simp [State.fld_eq, State.loadStage, hi]
    · simp [State.loadStage, State.part, State.setPart, State.rsImage_setFld]
    · simp [State.loadStage, State.setPart]
  · refine .ifReady rfl h ?_
    rw [if_neg hk]
    refine ⟨?_, ?_, ?_, .setPart .refl⟩
    · have e : ((s.part p).staged.set k.val v).length = 8 := by simp [Part.staged]
      simp only [State.part, State.setPart, Map.get_set_same] at e ⊢
      exact Part.staged_of_length e
    all_goals simp [State.part, State.setPart]
  · refine .ifReady rfl h ?_
    rw [← hk, ← hi]
    have e1 : ((s.rs p k).valid && !(commitSlot (s.rs p k) img).valid) = false := by
      rw [commitSlot_valid]
      cases hb : (s.rs p k).valid <;> simp_all
    have e2 : ((s.rs p k).valid != (commitSlot (s.rs p k) img).valid &&
        k == (s.setRs p k (commitSlot (s.rs p k) img)).fld (.disp p) Reg.DISP_FSYNC_SLOT) = false := by
      rw [commitSlot_valid]
      rcases hf with hf | hf
      · simp [hf]
      · simp_all [State.fld_eq, State.setRs]
    dsimp only
    simp only [e1, e2, Bool.false_eq_true, if_false]
    refine ⟨?_, ?_, ?_, .loadStage (.setRs .refl)⟩
    all_goals simp [State.loadStage, State.rs, State.setRs, State.part, State.setPart]
  · refine .ifReady rfl h ?_
    rw [← hk, ← hi]
    have e1 : ((s.rs p k).valid && !(commitSlot (s.rs p k) img).valid) = true := by
      rw [commitSlot_valid]
      simp [hv, hb]
    dsimp only
    simp only [e1, if_true]
    refine ⟨?_, ?_, ?_, ?_, .loadStage (.ite (.setPart (.dropUnsent (.setRs .refl))) (.dropUnsent (.setRs .refl)))⟩
    · split <;> simp [State.loadStage, State.dropUnsent, State.rs, State.setRs, State.part, State.setPart]
    · split <;> simp [State.loadStage, State.dropUnsent, State.rs, State.setRs, State.part, State.setPart]
    · split <;> simp [State.loadStage, State.dropUnsent, State.rs, State.setRs, State.part, State.setPart]
      all_goals
        rintro a b x l - - rfl - d hd
        simpa using (List.mem_filter.1 hd).2
    · split <;> simp [State.loadStage, State.dropUnsent, State.rs, State.setRs, State.part, State.setPart]
  · refine .ifReady rfl h ⟨?_, ?_, ?_, .setRs .refl⟩
    all_goals simp [State.rs, State.setRs, State.part, State.setPart, ← hk]
  · exact .ifReady rfl h ⟨s.fld_setFld_of_lt (by decide), .setFld .refl⟩
  · refine .ifReady rfl h ?_
    rw [if_neg (Nat.not_lt.mpr hle)]
    refine ⟨State.fld_setFld_of_lt _ (Nat.lt_of_le_of_lt hle (s.fld_lt ..)), ?_, ?_, .setFld (.setPart .refl)⟩
    all_goals simp [State.part, State.setPart]
  · refine .ifReady rfl h ?_
    rw [if_pos hlt]
    refine ⟨State.fld_setFld_of_lt _ (s.fld_lt ..), ?_, ?_, .setFld (.setPart .refl)⟩
    all_goals simp [State.part, State.setPart]
  · refine .ifReady rfl h ?_
    subst hx hn
    dsimp only
    generalize min (s.fld (.disp p) Reg.DISP_ENERGY_GRANT_GRANT_NJ - (s.tile (tileOf p (s.part p).rr)).credit)
      (s.fld (.disp p) Reg.DISP_ENERGY_LEVEL_LEVEL_NJ) = n
    have hlt : s.fld (.disp p) Reg.DISP_ENERGY_LEVEL_LEVEL_NJ - n < 2 ^ Reg.DISP_ENERGY_LEVEL_LEVEL_NJ.width :=
      Nat.lt_of_le_of_lt (Nat.sub_le ..) (s.fld_lt ..)
    refine ⟨?_, ?_, ?_, ?_, ?_, .ite (.count (.setFld (.setPart (.setTile .refl)))) (.setFld (.setPart (.setTile .refl)))⟩
    · split <;> simp [State.tile, State.setTile, State.setPart]
    · split <;> simp [State.fld_eq, State.setTile, State.setPart]
      all_goals exact State.fld_setFld_of_lt s hlt
    · split <;> simp [State.part, State.setTile, State.setPart]
    · split <;> simp [State.part, State.setTile, State.setPart]
    · split <;> simp [State.part, State.setTile, State.setPart]
  · simp only [List.mem_cons, List.not_mem_nil, or_false] at hc
    rcases hc with rfl | rfl | rfl | rfl | rfl | rfl | rfl | rfl <;> exact .not_ready rfl h

end Sys2Proof.Machine
end

section
/-! PROOFS. What errors leave, frames by pages, and the commands of the region table (R156, R197). -/

namespace Sys2Proof.Machine
open Sys2Proof

/-! ## Reads after an error -/

section
variable (s : State) {z : Fuses} {pg q : Page} {g : Fld} {c j o : Nat}

@[simp] theorem regFld_err_code (hz : z = s.fuses) (hc : c < 256) : regFld (s.err pg c).regs z pg Reg.PG_ERR_CODE 0 = c := by
  have h := (s.err_erred pg c hc).1
  rwa [State.fld_eq, State.fuses_err, ← hz] at h

@[simp] theorem regFld_err_multi (hz : z = s.fuses) (hc : c < 256) : regFld (s.err pg c).regs z pg Reg.PG_ERR_MULTI 0 =
    (regFld s.regs z pg Reg.PG_ERR_CODE 0 != 0 || regFld s.regs z pg Reg.PG_ERR_MULTI 0 != 0).toNat := by
  have h := (s.err_erred pg c hc).2.1
  rwa [State.fld_eq, State.fuses_err, State.flag, State.fld_eq, State.fld_eq, ← hz] at h

@[simp] theorem regFld_err_below (hz : z = s.fuses) (h : Reg.PG_ERR_CODE.below g = true ∧ Reg.PG_ERR_MULTI.below g = true) :
    regFld (s.err pg c).regs z pg g j = regFld s.regs z pg g j :=
  regFld_of_fld s hz (by simp)
    ((s.err_changes pg c).fld (by simpa [errPlaces] using ⟨Place.apart_of_below h.1, Place.apart_of_below h.2⟩))

@[simp] theorem regFld_err_apart (hz : z = s.fuses) (h : Reg.PG_ERR_CODE.apart g 0 j = true ∧ Reg.PG_ERR_MULTI.apart g 0 j = true) :
    regFld (s.err pg c).regs z pg g j = regFld s.regs z pg g j :=
  regFld_of_fld s hz (by simp)
    ((s.err_changes pg c).fld (by simpa [errPlaces] using ⟨Place.apart_of_apart h.1, Place.apart_of_apart h.2⟩))

@[simp] theorem regFld_err_page (hz : z = s.fuses) (h : pg ≠ q) (hg : g.fits j = true) :
    regFld (s.err pg c).regs z q g j = regFld s.regs z q g j :=
  regFld_of_fld s hz (by simp) ((s.err_changes pg c).fld
    (by simpa [errPlaces] using ⟨Place.apart_of_ne h (by decide) hg, Place.apart_of_ne h (by decide) hg⟩))

@[simp] theorem cntAt_err_same : cntAt (s.err pg c).cnt pg 0x50 = min max64 (cntAt s.cnt pg 0x50 + 1) := by
  simp [State.err]

@[simp] theorem cntAt_err_offset (h : 0x50 ≠ o) : cntAt (s.err pg c).cnt pg o = cntAt s.cnt pg o :=
  (s.err_changes pg c).counter (by simp [errCounts]; omega)

@[simp] theorem cntAt_err_page (h : pg ≠ q) (ho : o < 4096) : cntAt (s.err pg c).cnt q o = cntAt s.cnt q o :=
  (s.err_changes pg c).counter (by simpa [errCounts] using (Page.add_ne h (by omega) ho).symm)

@[simp] theorem regs_rsvEnc : (s.rsvEnc pg).regs = (s.err pg 0x0E).regs := by
  rw [State.rsvEnc, State.regs_count]

@[simp] theorem cntAt_rsvEnc_errors : cntAt (s.rsvEnc pg).cnt pg 0x50 = min max64 (cntAt s.cnt pg 0x50 + 1) := by
  simp [State.rsvEnc]

@[simp] theorem cntAt_rsvEnc_writes : cntAt (s.rsvEnc pg).cnt pg 0x68 = min max64 (cntAt s.cnt pg 0x68 + 1) := by
  simp [State.rsvEnc]

@[simp] theorem cntAt_rsvEnc_offset (h : 0x50 ≠ o ∧ 0x68 ≠ o) : cntAt (s.rsvEnc pg).cnt pg o = cntAt s.cnt pg o :=
  (s.rsvEnc_changes pg).counter (by simp; omega)

@[simp] theorem cntAt_rsvEnc_page (h : pg ≠ q) (ho : o < 4096) : cntAt (s.rsvEnc pg).cnt q o = cntAt s.cnt q o :=
  (s.rsvEnc_changes pg).counter (by
    simpa using ⟨(Page.add_ne h (o := 0x50) (by omega) ho).symm, (Page.add_ne h (o := 0x68) (by omega) ho).symm⟩)

end

theorem State.changes.rsvEnc {s t : State} {cs : List Comp} {fs : List Place} {ns : List (Page × Nat)}
    (h : s.changes t cs fs ns) {pg : Page}
    (hf : Reg.PG_ERR_CODE.place pg ∈ fs ∧ Reg.PG_ERR_MULTI.place pg ∈ fs := by simp [errPlaces])
    (hn : (pg, 0x50) ∈ ns ∧ (pg, 0x68) ∈ ns := by simp [errCounts]) : s.changes (t.rsvEnc pg) cs fs ns :=
  State.changes_trans h (State.changes_mono (t.rsvEnc_changes pg) (by simp) (by simpa [errPlaces] using hf) (by simpa using hn))

/-- A page records a code after fields and counters other than those of its errors changed. -/
theorem State.changes.erred {s u : State} {cs : List Comp} {fs : List Place} {ns : List (Page × Nat)}
    (h : s.changes u cs fs ns) {pg : Page} {c : Nat} (hc : c < 256)
    (hf : ∀ x ∈ fs, Place.apart x (Reg.PG_ERR_CODE.place pg) ∧ Place.apart x (Reg.PG_ERR_MULTI.place pg))
    (hn : ∀ x ∈ ns, pg.base + 0x50 ≠ x.1.base + x.2) : s.erred (u.err pg c) pg c := by
  obtain ⟨h1, h2, h3⟩ := u.err_erred pg c hc
  rw [State.flag, h.fld fun x hx => (hf x hx).1, h.fld fun x hx => (hf x hx).2] at h2
  rw [h.counter hn] at h3
  exact ⟨h1, h2, h3⟩

/-! ## Words beside a field, and frames by pages -/

/-- The words of a field and n words from an offset of its page lie apart. -/
def Fld.wordsApart (f : Fld) (i o n : Nat) : Bool :=
  decide ((o % 4 = (f.off + i * f.stride) % 4) ∧
    (o + 4 * n ≤ f.off + i * f.stride ∨ f.off + i * f.stride + 4 * f.words ≤ o))

@[simp] theorem State.words_setFld_apart (s : State) {pg : Page} {f : Fld} {v i o n : Nat} (h : f.wordsApart i o n = true) :
    (s.setFld pg f v i).words (pg.base + o) n = s.words (pg.base + o) n := by
  simp only [Fld.wordsApart, decide_eq_true_eq] at h
  have := Page.base_mod pg
  exact State.words_setWords_below _ _ _ _ (by simp only [Fld.addr]; omega) (by simp only [Fld.addr]; omega)

theorem State.fld_setWords_apart (s : State) {pg : Page} {f : Fld} {v i o n : Nat} (h : f.wordsApart i o n = true) :
    (s.setWords (pg.base + o) n v).fld pg f i = s.fld pg f i := by
  simp only [Fld.wordsApart, decide_eq_true_eq] at h
  have := Page.base_mod pg
  simp only [State.fld]
  rw [State.words_setWords_below]
  all_goals
    simp only [Fld.addr]
    omega

section
variable {s t u : State} {cs : List Comp} {pgs : List Page}

theorem State.changesOn.refl : s.changesOn s cs pgs := ⟨s.keeps_refl _, fun _ _ => ⟨rfl, rfl⟩⟩

theorem State.changesOn.trans (h : s.changesOn t cs pgs) (k : t.changesOn u cs pgs) : s.changesOn u cs pgs :=
  ⟨State.keeps_mono (State.keeps_trans h.1 k.1) (by simp only [List.mem_append, List.mem_cons]; tauto), fun a ha =>
    ⟨(k.2 a ha).1.trans (h.2 a ha).1, (k.2 a ha).2.trans (h.2 a ha).2⟩⟩

theorem State.changesOn.mono {ds : List Comp} {qgs : List Page} (h : s.changesOn t cs pgs) (hc : ∀ c ∈ cs, c ∈ ds)
    (hp : ∀ c ∈ pgs, c ∈ qgs) : s.changesOn t ds qgs :=
  ⟨State.keeps_mono h.1 (by simp only [List.mem_cons]; grind), fun a ha => h.2 a fun q hq => ha q (hp q hq)⟩

/-- A place and a counter of the page lie in it. -/
theorem State.changes.onPages {fs : List Place} {ns : List (Page × Nat)} (h : s.changes t cs fs ns)
    (hf : ∀ x ∈ fs, x.1 ∈ pgs ∧ x.2.1.fits x.2.2 = true) (hn : ∀ x ∈ ns, x.1 ∈ pgs ∧ x.2 < 4096) : s.changesOn t cs pgs := by
  refine ⟨h.1, fun a ha => ⟨BitVec.eq_of_getLsbD_eq fun b hb => h.2.1 a b ?_, h.2.2 a ?_⟩⟩
  · rintro x hx ⟨h1, h2, h3⟩
    obtain ⟨hp, hfit⟩ := hf x hx
    have := ha _ hp
    have := x.2.1.bits_le_words
    simp only [Fld.fits, decide_eq_true_eq, Fld.addr] at hfit h1 h2 h3
    omega
  · intro x hx e
    obtain ⟨hp, hlt⟩ := hn x hx
    have := ha _ hp
    omega

theorem State.changesOn.setFld (h : s.changesOn t cs pgs) {pg : Page} {f : Fld} {v i : Nat} (hp : pg ∈ pgs := by simp)
    (hf : f.fits i = true := by decide) : s.changesOn (t.setFld pg f v i) cs pgs :=
  h.trans ((State.changes_mono (t.setFld_changes pg f v i) (by simp) (fun _ h => h) (ms := []) (by simp)).onPages (by
    simpa [Fld.place] using ⟨hp, hf⟩) (by simp))

theorem State.changesOn.upd (h : s.changesOn t cs pgs)
    (hk : ∀ c, c ∉ Comp.regs :: Comp.cnt :: cs → Comp.same t u c := by
      intro c hc; cases c <;> first | rfl | exact absurd (by simp) hc)
    (hr : u.regs = t.regs := by with_reducible rfl) (hz : u.fuses = t.fuses := by with_reducible rfl)
    (hc : u.cnt = t.cnt := by with_reducible rfl) : s.changesOn u cs pgs :=
  h.trans ⟨hk, fun a _ => ⟨State.word_congr hr hz a, by rw [hc]⟩⟩

theorem State.changesOn.setWords (h : s.changesOn t cs pgs) {pg : Page} {o n v : Nat} (hp : pg ∈ pgs := by simp)
    (ho : o + 4 * n ≤ 4096 := by decide) : s.changesOn (t.setWords (pg.base + o) n v) cs pgs := by
  refine h.trans ⟨?_, fun a ha => ⟨State.word_setWords_other _ _ _ _ fun i hi => ?_, ?_⟩⟩
  · obtain ⟨r, hr⟩ := t.setWords_eq (pg.base + o) n v
    rw [hr]
    exact .upd (t.keeps_refl _)
  · have := ha pg hp
    omega
  · obtain ⟨r, hr⟩ := t.setWords_eq (pg.base + o) n v
    rw [hr]

end

end Sys2Proof.Machine
end

section
/-! PROOFS. The commands of the region table (R156, R197). -/

namespace Sys2Proof.Machine
open Sys2Proof

section
variable {s : State} {p : PartId} {op : Nat} {i : Fin 4096}

/-- The state in which a region command has begun: its registers and what runs. -/
def State.rgnBegun (s : State) (p : PartId) (op index : Nat) : State :=
  (((s.setFld (.feng (engOf p 0)) Reg.RGN_CMD_INDEX index).setFld (.feng (engOf p 0)) Reg.RGN_CMD_OP op).setFld
    (.feng (engOf p 0)) Reg.RGN_CMD_BUSY 1).setEng (engOf p 0)
      { s.eng (engOf p 0) with rgn := some { op := op, index := index, start := s.now } }

theorem State.rgnBegun_changes {cs : List Comp} (h : .engines ∈ cs) : s.changes (s.rgnBegun p op i.val) cs
    [Reg.RGN_CMD_INDEX.place (.feng (engOf p 0)), Reg.RGN_CMD_OP.place (.feng (engOf p 0)), Reg.RGN_CMD_BUSY.place (.feng (engOf p 0))] [] :=
  .setEng (.setFld (.setFld (.setFld .refl))) h

theorem State.rgnCmd_begun {f : State → State} (h : s.ready (.feng (engOf p 0)) = true)
    (hb : s.fld (.feng (engOf p 0)) Reg.RGN_CMD_BUSY = 0) : s.rgnCmd p op i.val f = f (s.rgnBegun p op i.val) := by
  have hb' : s.flag (.feng (engOf p 0)) Reg.RGN_CMD_BUSY = false := by simp [State.flag, hb]
  simp only [State.rgnCmd, State.ifReady_pos h, hb', Bool.false_eq_true, if_false, State.eng, State.engines_setFld,
    State.now_setFld, State.rgnBegun]

theorem State.rgnCmd_busy {f : State → State} (h : s.ready (.feng (engOf p 0)) = true)
    (hb : s.fld (.feng (engOf p 0)) Reg.RGN_CMD_BUSY ≠ 0) : s.rgnCmd p op i.val f = s.err (.feng (engOf p 0)) 0x02 := by
  have hb' : s.flag (.feng (engOf p 0)) Reg.RGN_CMD_BUSY = true := by simp [State.flag, hb]
  simp only [State.rgnCmd, State.ifReady_pos h, hb', if_true]

theorem completes.rgnCmd {c : Instr} {f : State → State} {P : State → Prop} (e : exec c s = .next (s.rgnCmd p op i.val f))
    (h : s.ready (.feng (engOf p 0)) = true) (hb : s.fld (.feng (engOf p 0)) Reg.RGN_CMD_BUSY = 0)
    (hp : P (f (s.rgnBegun p op i.val))) : completes c s P := .next hp (e.trans (congrArg _ (State.rgnCmd_begun h hb)))

theorem completes.rgnBusy {c : Instr} {f : State → State} (e : exec c s = .next (s.rgnCmd p op i.val f))
    (h : s.ready (.feng (engOf p 0)) = true) (hb : s.fld (.feng (engOf p 0)) Reg.RGN_CMD_BUSY ≠ 0) :
    completes c s fun t => s.erred t (.feng (engOf p 0)) 0x02 ∧
      s.changes t [] (errPlaces (.feng (engOf p 0))) (errCounts (.feng (engOf p 0))) :=
  .next ⟨s.err_erred _ _ (by decide), s.err_changes ..⟩ (e.trans (by rw [State.rgnCmd_busy h hb]))

theorem State.rgnBegun_spec (ho : op < 4) : (s.rgnBegun p op i.val).fld (.feng (engOf p 0)) Reg.RGN_CMD_INDEX = i.val ∧
    (s.rgnBegun p op i.val).fld (.feng (engOf p 0)) Reg.RGN_CMD_OP = op ∧
    (s.rgnBegun p op i.val).fld (.feng (engOf p 0)) Reg.RGN_CMD_BUSY = 1 ∧
    (s.rgnBegun p op i.val).eng (engOf p 0) =
      { s.eng (engOf p 0) with rgn := some { op := op, index := i.val, start := s.now } } := by
  have hi : i.val < 2 ^ Reg.RGN_CMD_INDEX.width := i.isLt
  have ho' : op < 2 ^ Reg.RGN_CMD_OP.width := ho
  refine ⟨?_, ?_, ?_, ?_⟩
  · simp +decide [State.rgnBegun, State.fld_eq, State.setEng, hi]
  · simp +decide [State.rgnBegun, State.fld_eq, State.setEng, ho']
  · simp +decide [State.rgnBegun, State.fld_eq, State.setEng]
  · simp [State.rgnBegun, State.eng, State.setEng]

@[simp] theorem State.fld_setRgn {v : Region} {j : Nat} (pg : Page) (f : Fld) (k : Nat) :
    (s.setRgn p j v).fld pg f k = s.fld pg f k := State.fld_congr (by simp) (by simp) ..

@[simp] theorem State.eng_setWords (a n v : Nat) (e : EngId) : (s.setWords a n v).eng e = s.eng e := by
  obtain ⟨r, hr⟩ := s.setWords_eq a n v
  rw [hr]
  rfl

@[simp] theorem State.eng_setRgn {v : Region} {j : Nat} (e : EngId) : (s.setRgn p j v).eng e = s.eng e := by
  simp [State.eng]

theorem State.rgn_setRgn_same {v : Region} : (s.setRgn p i.val v).rgn p i.val = v := by
  simp [State.rgn, State.setRgn]

theorem State.words_rgnBegun : (s.rgnBegun p op i.val).words ((.feng (engOf p 0) : Page).base + 0x160) 8 =
    s.words ((.feng (engOf p 0) : Page).base + 0x160) 8 := by
  refine (State.words_congr (State.regs_setEng ..) (State.fuses_setEng ..) ..).trans ?_
  simp +decide

theorem State.regions_rgnBegun : (s.rgnBegun p op i.val).regions = s.regions := by simp [State.rgnBegun, State.setEng]

@[simp] theorem State.rgn_rgnBegun {j : Nat} : (s.rgnBegun p op i.val).rgn p j = s.rgn p j := by
  simp [State.rgn, State.rgnBegun, State.setEng]

theorem State.othersSame_setRgn {t : State} {v : Region} (h : t.regions = s.regions) :
    othersSame {} s.regions (t.setRgn p i.val v).regions [p.val * 4096 + i.val] := by
  simp [State.setRgn, h, Nat.mod_eq_of_lt i.isLt]

end

/-- Settles O23: each command begins alike, then acts on its entry. -/
theorem regionCommandsRun : Obligations.RegionCommandsRun := by
  unfold Obligations.RegionCommandsRun
  refine ⟨fun s p i h hb => ?_, fun s p i h hb => ?_, fun s p i h hb hv hw => ?_, fun s p i h hb hv => ?_,
    fun s p i h hb c hc => ?_, fun s p c hc hop => ?_, fun s p h => ?_⟩
  · obtain ⟨h1, h2, h3, h4⟩ := State.rgnBegun_spec (s := s) (p := p) (op := 0) (i := i) (by decide)
    refine .rgnCmd rfl h hb ?_
    simp only [State.fld_setRgn, State.eng_setRgn, State.words_rgnBegun]
    exact ⟨h1, h2, h3, h4, State.rgn_setRgn_same, State.othersSame_setRgn State.regions_rgnBegun,
      .setRgn (State.rgnBegun_changes (by simp))⟩
  · obtain ⟨h1, h2, h3, h4⟩ := State.rgnBegun_spec (s := s) (p := p) (op := 1) (i := i) (by decide)
    refine .rgnCmd rfl h hb ?_
    dsimp only
    rw [State.rgn_rgnBegun, State.fld_setWords_apart _ (by decide), State.fld_setWords_apart _ (by decide),
      State.fld_setWords_apart _ (by decide), State.eng_setWords]
    exact ⟨h1, h2, h3, h4, State.words_setWords_same .., .setWords
      ((State.rgnBegun_changes (by simp)).onPages (by simp [Fld.place]; decide) (by simp))⟩
  · obtain ⟨h1, h2, h3, h4⟩ := State.rgnBegun_spec (s := s) (p := p) (op := 2) (i := i) (by decide)
    refine .rgnCmd rfl h hb ?_
    simp only [State.rgn_rgnBegun, hv, hw, and_self, if_true, State.fld_setRgn, State.eng_setRgn]
    exact ⟨h1, h2, h3, h4, State.rgn_setRgn_same, State.othersSame_setRgn State.regions_rgnBegun,
      .setRgn (State.rgnBegun_changes (by simp))⟩
  · obtain ⟨h1, h2, h3, h4⟩ := State.rgnBegun_spec (s := s) (p := p) (op := 2) (i := i) (by decide)
    refine .rgnCmd rfl h hb ?_
    have hn : ¬ ((s.rgn p i.val).valid = true ∧ (s.rgn p i.val).window = true) := by grind
    simp only [State.rgn_rgnBegun, if_neg hn]
    have hch := State.rgnBegun_changes (s := s) (p := p) (op := 2) (i := i) (cs := [.engines]) (by simp)
    refine ⟨?_, ?_, ?_, ?_, hch.erred (by decide) ?_ (by simp), ?_⟩
    · simpa +decide [State.fld_eq] using h1
    · simpa +decide [State.fld_eq] using h2
    · simpa +decide [State.fld_eq] using h3
    · simpa [State.eng] using h4
    · simp +decide [Place.apart_of_apart]
    · exact .err (State.changes_mono hch (by simp) (by simp) (by simp))
  · simp only [List.mem_cons, List.not_mem_nil, or_false] at hc
    rcases hc with rfl | rfl | rfl <;> exact .rgnBusy rfl h hb
  · have hn : ¬ (c.op = 2 ∧ s.now < c.start + 2000) := by omega
    refine .next (t := (s.setEng (engOf p 0) { s.eng (engOf p 0) with rgn := none }).setFld (.feng (engOf p 0)) Reg.RGN_CMD_BUSY 0)
      ⟨State.fld_setFld_of_lt _ (by decide), ?_, .setFld (.setEng .refl)⟩ ?_
    · simp [State.eng, State.setEng]
    · refine congrArg Host.Outcome.next ?_
      rw [hc]
      exact if_neg hn
  · refine .next rfl (congrArg Host.Outcome.next ?_)
    cases hc : (s.eng (engOf p 0)).rgn with
    | none => rfl
    | some c =>
      simp only [hc, Option.all_some, decide_eq_true_eq] at h
      exact if_pos h

end Sys2Proof.Machine
end

section
/-! PROOFS. Snapshots and clears of counters (R307, R308, R311). -/

namespace Sys2Proof.Machine
open Sys2Proof

/-! ## Entries put one after another -/

theorem Map.find_filter_key {β : Type} (m : Map β) (f : Nat → Bool) (k : Nat) :
    Map.find (m.filter fun e => f e.1) k = if f k then Map.find m k else none := by
  induction m with
  | nil => simp [Map.find]
  | cons e m ih =>
    obtain ⟨a, v⟩ := e
    by_cases h : f a = true <;> by_cases hk : a = k <;> grind [Map.find]

/-- Entries with rising keys put over a map: each is found, and the map's own elsewhere. -/
theorem Map.find_foldl_put {β : Type} {b : Nat} {l : Map β} (h : Map.rising b l = true) (m : Map β) (k : Nat) :
    Map.find (l.foldl (fun (m : Map β) (e : Nat × β) => Map.put m e.1 e.2) m) k = (Map.find l k).or (Map.find m k) := by
  induction l generalizing m b with
  | nil => simp [Map.find]
  | cons e l ih =>
    obtain ⟨a, v⟩ := e
    simp only [Map.rising, Bool.and_eq_true, decide_eq_true_eq] at h
    rw [List.foldl_cons, ih h.2]
    by_cases hk : a = k
    · subst hk
      simp [Map.find, Map.find_rising h.2 (Nat.lt_succ_self a), Map.find_put_same]
    · simp [Map.find, hk, Map.find_put_other m v (Ne.symm hk)]

/-! ## A unit's values -/

/-- Each unit of the list has its values changed by f. -/
def State.mapUnits (s : State) (l : List (Fin 8)) (f : CapUnit → CapUnit) : State :=
  s.each l fun s u => { s with units := Map.set {} s.units u.val (f (Map.get {} s.units u.val)) }

section
variable {s t : State} {l : List (Fin 8)} {f : CapUnit → CapUnit} {u : Fin 8}

theorem State.mapUnits_cons {v : Fin 8} : s.mapUnits (v :: l) f =
    ({ s with units := Map.set {} s.units v.val (f (Map.get {} s.units v.val)) } : State).mapUnits l f := rfl

theorem State.units_mapUnits_other (h : u ∉ l) : Map.get {} (s.mapUnits l f).units u.val = Map.get {} s.units u.val := by
  induction l generalizing s with
  | nil => rfl
  | cons v l ih =>
    simp only [List.mem_cons, not_or] at h
    rw [State.mapUnits_cons, ih h.2]
    exact Map.get_set_other _ _ _ _ fun e => h.1 (Fin.ext e)

theorem State.units_mapUnits (h : u ∈ l) (hl : l.Nodup) :
    Map.get {} (s.mapUnits l f).units u.val = f (Map.get {} s.units u.val) := by
  induction l generalizing s with
  | nil => simp at h
  | cons v l ih =>
    obtain ⟨hv, hl⟩ := List.nodup_cons.1 hl
    rw [State.mapUnits_cons]
    by_cases e : u = v
    · subst e
      rw [State.units_mapUnits_other hv]
      exact Map.get_set_same ..
    · rw [ih (by simpa [e] using h) hl]
      exact congrArg f (Map.get_set_other _ _ _ _ fun h => e (Fin.ext h))

theorem State.changes.mapUnits {cs : List Comp} {fs : List Place} {ns : List (Page × Nat)} (h : s.changes t cs fs ns)
    (hm : .units ∈ cs := by simp) : s.changes (t.mapUnits l f) cs fs ns :=
  h.each fun _ _ _ hu => hu.upd fun c hc => by cases c <;> first | rfl | exact absurd (by simp [hm]) hc

theorem State.snapUnits_eq : s.snapUnits = s.mapUnits (List.finRange 8) fun x => { x with shadow := x.live } := rfl
theorem State.clearUnits_eq : s.clearUnits = s.mapUnits (List.finRange 8) fun x => { x with live := {} } := rfl

theorem State.changes.snapUnits {cs : List Comp} {fs : List Place} {ns : List (Page × Nat)} (h : s.changes t cs fs ns)
    (hm : .units ∈ cs := by simp) : s.changes t.snapUnits cs fs ns := by
  rw [State.snapUnits_eq]
  exact h.mapUnits hm

theorem State.changes.clearUnits {cs : List Comp} {fs : List Place} {ns : List (Page × Nat)} (h : s.changes t cs fs ns)
    (hm : .units ∈ cs := by simp) : s.changes t.clearUnits cs fs ns := by
  rw [State.clearUnits_eq]
  exact h.mapUnits hm

theorem State.cnt_mapUnits : (s.mapUnits l f).cnt = s.cnt := by
  induction l generalizing s with
  | nil => rfl
  | cons v l ih => exact ih

theorem State.cnt_clearUnits : s.clearUnits.cnt = s.cnt := by rw [State.clearUnits_eq, State.cnt_mapUnits]

theorem State.cnt_snapUnits : s.snapUnits.cnt = s.cnt := by rw [State.snapUnits_eq, State.cnt_mapUnits]

@[simp] theorem State.units_snapUnits : Map.get {} s.snapUnits.units u.val =
    { (Map.get {} s.units u.val : CapUnit) with shadow := (Map.get {} s.units u.val : CapUnit).live } := by
  rw [State.snapUnits_eq, State.units_mapUnits (by simp) (List.nodup_finRange 8)]

@[simp] theorem State.units_clearUnits : Map.get {} s.clearUnits.units u.val =
    { (Map.get {} s.units u.val : CapUnit) with live := {} } := by
  rw [State.clearUnits_eq, State.units_mapUnits (by simp) (List.nodup_finRange 8)]

end

/-! ## One page -/

section
variable {s u : State} {pg q : Page} {t o : Nat} {clr : Bool}

/-- The counters of a page. -/
def pageCounters (pg : Page) : List (Page × Nat) := (List.range 0x100).map fun o => (pg, o)

theorem mem_pageCounters (ho : o < 0x100) : (pg, o) ∈ pageCounters pg := by simpa [pageCounters] using ho

theorem not_mem_pageCounters {a : Nat} (h : ∀ x ∈ pageCounters pg, a ≠ x.1.base + x.2) : a < pg.base ∨ pg.base + 0x100 ≤ a := by
  by_contra hc
  exact h (pg, a - pg.base) (mem_pageCounters (by omega)) (by simp only; omega)

/-- The places a snapshot of a page writes. -/
def snapPlaces (pg : Page) : List Place := [Reg.SNAP_TIME_TIME.place pg, Reg.CNT_STAT_SNAP_SEQ.place pg]

theorem State.cnt_clearPage (ho : o < 0x100) : Map.get 0 (s.clearPage pg).cnt (pg.base + o) = 0 := by
  simp only [State.clearPage, Map.clear, Map.get]
  rw [Map.find_filter_key _ fun k => decide (k < pg.base) || decide (pg.base + 0x100 ≤ k)]
  simp [Nat.not_le.mpr ho]

theorem State.changes.clearPage {v : State} {cs : List Comp} {fs : List Place} {ns : List (Page × Nat)} (h : s.changes v cs fs ns)
    (hn : ∀ x ∈ pageCounters pg, x ∈ ns) : s.changes (v.clearPage pg) cs fs ns := by
  refine State.changes_trans h ⟨?_, fun _ _ _ => congrArg (BitVec.getLsbD · _) (State.word_congr rfl rfl _), fun a ha => ?_⟩
  · intro c hc
    cases c <;> first | rfl | exact absurd (by simp) hc
  · have := not_mem_pageCounters fun x hx => ha x (hn x hx)
    simp only [State.clearPage, Map.clear, Map.get]
    rw [Map.find_filter_key _ fun k => decide (k < pg.base) || decide (pg.base + 0x100 ≤ k)]
    simp [this]

/-- A snapshot's shadow: the counters of its page, and elsewhere what it was. -/
theorem State.shadow_snapPage (hw : Map.wf (fun _ => 0) s.cnt = true) (a : Nat) : Map.get 0 (s.snapPage pg t).shadow a =
    if pg.base ≤ a ∧ a < pg.base + 0x100 then Map.get 0 s.cnt a else Map.get 0 s.shadow a := by
  simp only [State.snapPage, State.shadow_setFld, Map.get]
  rw [Map.find_foldl_put (Map.rising_filter ((Map.wf_iff _ _).1 hw).1 _),
    Map.find_filter_key _ fun k => decide (pg.base ≤ k) && decide (k < pg.base + 0x100),
    Map.find_filter_key _ fun k => !(decide (pg.base ≤ k) && decide (k < pg.base + 0x100))]
  by_cases h : pg.base ≤ a ∧ a < pg.base + 0x100
  · simp [h]
  · have h' : ¬ (decide (pg.base ≤ a) && decide (a < pg.base + 256)) = true := by simpa using h
    simp only [h', h, Bool.not_eq_true] at *
    simp [h']

theorem State.changes.snapPage {v : State} {cs : List Comp} {fs : List Place} {ns : List (Page × Nat)} (h : s.changes v cs fs ns)
    (hm : .shadow ∈ cs := by simp) (hf : ∀ x ∈ snapPlaces pg, x ∈ fs := by simp [snapPlaces]) :
    s.changes (v.snapPage pg t) cs fs ns :=
  .setFld (.setFld (h.upd fun c hc => by cases c <;> first | rfl | exact absurd (by simp [hm]) hc)
    (hf _ (by simp [snapPlaces]))) (hf _ (by simp [snapPlaces]))

theorem State.changes.snapshot {v : State} {cs : List Comp} {fs : List Place} {ns : List (Page × Nat)} (h : s.changes v cs fs ns)
    (hm : .shadow ∈ cs ∧ .units ∈ cs := by simp) (hf : ∀ x ∈ snapPlaces pg, x ∈ fs := by simp [snapPlaces])
    (hn : clr = true → ∀ x ∈ pageCounters pg, x ∈ ns := by simp) : s.changes (v.snapshot pg clr t) cs fs ns := by
  have hu : s.changes (if pg = .mon then (v.snapPage pg t).snapUnits else v.snapPage pg t) cs fs ns :=
    .ite (.snapUnits (h.snapPage hm.1 hf) hm.2) (h.snapPage hm.1 hf)
  cases clr with
  | false => exact hu
  | true => exact .clearPage (.ite (.clearUnits hu hm.2) hu) (hn rfl)

/-- What a snapshot of a page holds: its time, its number, the counters copied and, with CLR, cleared; on the MON page the units'
values too. -/
structure State.Snapped (s u : State) (pg : Page) (clr : Bool) (t : Nat) : Prop where
  time : u.fld pg Reg.SNAP_TIME_TIME = t % 2 ^ 64
  seq : u.fld pg Reg.CNT_STAT_SNAP_SEQ = (s.fld pg Reg.CNT_STAT_SNAP_SEQ + 1) % 65536
  shadow : ∀ a, Map.get 0 u.shadow a = if pg.base ≤ a ∧ a < pg.base + 0x100 then Map.get 0 s.cnt a else Map.get 0 s.shadow a
  clear : clr = true → ∀ o < 0x100, Map.get 0 u.cnt (pg.base + o) = 0
  keep : clr = false → u.cnt = s.cnt
  units : pg = .mon → ∀ k : Fin 8, (Map.get {} u.units k.val).shadow = (Map.get {} s.units k.val).live ∧
    (Map.get {} u.units k.val).live = if clr then {} else (Map.get {} s.units k.val).live
  others : pg ≠ .mon → u.units = s.units

/-- After the page itself, a snapshot changes the units and, with CLR, clears the page's counters. -/
theorem State.snapshot_after : (s.snapPage pg t).changes (s.snapshot pg clr t) [.units] [] (pageCounters pg) := by
  have hu : (s.snapPage pg t).changes (if pg = .mon then (s.snapPage pg t).snapUnits else s.snapPage pg t) [.units] []
      (pageCounters pg) := .ite (.snapUnits .refl) .refl
  cases clr with
  | false => exact hu
  | true => exact .clearPage (.ite (.clearUnits hu) hu) fun _ h => h

@[simp] theorem State.units_snapPage : (s.snapPage pg t).units = s.units := by simp [State.snapPage]

theorem State.snapshot_false (hp : pg ≠ .mon) : s.snapshot pg false t = s.snapPage pg t := by simp [State.snapshot, hp]
theorem State.snapshot_true (hp : pg ≠ .mon) : s.snapshot pg true t = (s.snapPage pg t).clearPage pg := by simp [State.snapshot, hp]

theorem State.snapshot_snapped (hw : Map.wf (fun _ => 0) s.cnt = true) : s.Snapped (s.snapshot pg clr t) pg clr t where
  time := by
    rw [State.snapshot_after.fld (by simp)]
    simp +decide [State.snapPage, State.fld_eq, regFld_setFld_mod]
    rfl
  seq := by
    rw [State.snapshot_after.fld (by simp)]
    simp +decide [State.snapPage, State.fld_eq, regFld_setFld_mod]
    rfl
  shadow a := by rw [State.snapshot_after.1 .shadow (by simp), State.shadow_snapPage hw]
  clear h o ho := by
    subst h
    exact State.cnt_clearPage ho
  keep h := by
    subst h
    simp only [State.snapshot, Bool.false_eq_true, if_false]
    split
    · exact State.cnt_snapUnits.trans (by simp [State.snapPage])
    · simp [State.snapPage]
  units h k := by
    subst h
    cases clr
    · simp [State.snapshot]
    · simp [State.snapshot, State.clearPage]
  others h := by
    cases clr
    · simp [State.snapshot, h]
    · simp [State.snapshot, State.clearPage, h]

theorem State.snapshot_wf (hw : Map.wf (fun _ => 0) s.cnt = true) : Map.wf (fun _ => 0) (s.snapshot pg clr t).cnt = true := by
  cases clr with
  | false => rwa [(State.snapshot_snapped hw).keep rfl]
  | true =>
    simp only [State.snapshot, State.clearPage, if_true]
    refine Map.clear_wf _ ?_ _ _
    split <;> simpa [State.cnt_clearUnits, State.cnt_snapUnits, State.snapPage] using hw

/-! ## A list of pages -/

/-- The places that snapshots of these pages write. -/
def snapFrame (l : List Page) : List Place := l.flatMap snapPlaces

/-- What snapshots of a list of pages hold. -/
structure State.SnappedAll (s u : State) (l : List Page) (clr : Bool) (t : Nat) : Prop where
  time : ∀ pg ∈ l, u.fld pg Reg.SNAP_TIME_TIME = t % 2 ^ 64
  seq : ∀ pg ∈ l, u.fld pg Reg.CNT_STAT_SNAP_SEQ = (s.fld pg Reg.CNT_STAT_SNAP_SEQ + 1) % 65536
  shadow : ∀ pg ∈ l, ∀ o < 0x100, Map.get 0 u.shadow (pg.base + o) = Map.get 0 s.cnt (pg.base + o)
  shadowKeep : ∀ pg, pg ∉ l → ∀ o < 0x100, Map.get 0 u.shadow (pg.base + o) = Map.get 0 s.shadow (pg.base + o)
  clear : clr = true → ∀ pg ∈ l, ∀ o < 0x100, Map.get 0 u.cnt (pg.base + o) = 0
  keep : clr = false → u.cnt = s.cnt
  units : Page.mon ∈ l → ∀ k : Fin 8, (Map.get {} u.units k.val).shadow = (Map.get {} s.units k.val).live ∧
    (Map.get {} u.units k.val).live = if clr then {} else (Map.get {} s.units k.val).live
  others : Page.mon ∉ l → u.units = s.units
  frame : s.changes u [.shadow, .units] (snapFrame l) (l.flatMap pageCounters)

/-- Another page's snapshots leave a page's own fields and counters. -/
theorem snapFrame_apart {l : List Page} {f : Fld} (h : q ∉ l) (hf : f.fits 0 = true) :
    ∀ x ∈ snapFrame l, Place.apart x (f.place q) := by
  intro x hx
  obtain ⟨pg, hp, hx⟩ := List.mem_flatMap.1 hx
  have hne : pg ≠ q := fun e => h (e ▸ hp)
  simp only [snapPlaces, List.mem_cons, List.not_mem_nil, or_false] at hx
  rcases hx with rfl | rfl
  · exact Place.apart_of_ne hne (by decide) hf
  · exact Place.apart_of_ne hne (by decide) hf

theorem pageCounters_apart {l : List Page} (h : q ∉ l) (ho : o < 0x100) :
    ∀ x ∈ l.flatMap pageCounters, q.base + o ≠ x.1.base + x.2 := by
  intro x hx
  obtain ⟨pg, hp, hx⟩ := List.mem_flatMap.1 hx
  have hne : pg ≠ q := fun e => h (e ▸ hp)
  simp only [pageCounters, List.mem_map, List.mem_range] at hx
  obtain ⟨p, hp, rfl⟩ := hx
  exact Page.add_ne hne.symm (by omega) (by omega)

theorem State.snapshots_snapped {l : List Page} (hl : l.Nodup) (hw : Map.wf (fun _ => 0) s.cnt = true) :
    s.SnappedAll (s.each l fun s pg => s.snapshot pg clr t) l clr t := by
  induction l generalizing s with
  | nil => exact ⟨by simp, by simp, by simp, fun _ _ _ _ => rfl, by simp, fun _ => rfl, by simp, fun _ => rfl, .refl⟩
  | cons pg l ih =>
    obtain ⟨hn, hl⟩ := List.nodup_cons.1 hl
    have h := State.snapshot_snapped (pg := pg) (clr := clr) (t := t) hw
    have k := ih hl (State.snapshot_wf (pg := pg) (clr := clr) (t := t) hw)
    have hframe : s.changes (s.snapshot pg clr t) [.shadow, .units] (snapFrame [pg]) ([pg].flatMap pageCounters) :=
      .snapshot .refl (by simp) (by simp [snapFrame]) (by simp)
    have he : s.each (pg :: l) (fun s pg => s.snapshot pg clr t) = (s.snapshot pg clr t).each l fun s pg => s.snapshot pg clr t := rfl
    rw [he]
    generalize s.snapshot pg clr t = v at *
    generalize v.each l (fun s pg => s.snapshot pg clr t) = u at *
    have hq : ∀ q ∈ l, q ∉ [pg] := fun q hq e => hn (List.mem_singleton.1 e ▸ hq)
    have hadd : ∀ q, q ≠ pg → ∀ o < 0x100, ¬ (pg.base ≤ q.base + o ∧ q.base + o < pg.base + 0x100) := by
      intro q hq o ho
      have := Page.apart hq
      omega
    refine ⟨?_, ?_, ?_, ?_, ?_, ?_, ?_, ?_, ?_⟩
    · refine List.forall_mem_cons.2 ⟨?_, k.time⟩
      rw [k.frame.fld (snapFrame_apart hn (by decide)), h.time]
    · refine List.forall_mem_cons.2 ⟨?_, fun q hm => ?_⟩
      · rw [k.frame.fld (snapFrame_apart hn (by decide)), h.seq]
      · rw [k.seq q hm, hframe.fld (snapFrame_apart (hq q hm) (by decide))]
    · refine List.forall_mem_cons.2 ⟨fun o ho => ?_, fun q hm o ho => ?_⟩
      · rw [k.shadowKeep pg hn o ho, h.shadow, if_pos (by omega)]
      · rw [k.shadow q hm o ho, hframe.2.2 _ (pageCounters_apart (hq q hm) ho)]
    · intro q hm o ho
      simp only [List.mem_cons, not_or] at hm
      rw [k.shadowKeep q hm.2 o ho, h.shadow, if_neg (hadd q hm.1 o ho)]
    · refine fun hc => List.forall_mem_cons.2 ⟨fun o ho => ?_, k.clear hc⟩
      rw [k.frame.2.2 _ (pageCounters_apart hn ho), h.clear hc o ho]
    · exact fun hc => (k.keep hc).trans (h.keep hc)
    · intro hm j
      by_cases hp : pg = .mon
      · subst hp
        rw [k.others hn]
        exact h.units rfl j
      · rw [← h.others hp]
        exact k.units (by simpa [Ne.symm hp] using hm) j
    · intro hm
      simp only [List.mem_cons, not_or] at hm
      exact (k.others hm.2).trans (h.others (Ne.symm hm.1))
    · simp only [snapFrame, List.flatMap_cons, List.flatMap_nil, List.append_nil] at hframe ⊢
      exact State.changes_trans
        (State.changes_mono hframe (by simp) (fun _ => List.mem_append_left _) fun _ => List.mem_append_left _)
        (State.changes_mono k.frame (by simp) (fun _ => List.mem_append_right _) fun _ => List.mem_append_right _)

theorem Page.all_nodup : Page.all.Nodup := by
  simp only [Page.all, List.nodup_flatten, List.pairwise_cons]
  refine ⟨?_, ?_⟩
  · simp only [List.forall_mem_cons, List.nodup_map_iff_inj_on (List.nodup_finRange _)]
    simp
  · simp [List.Disjoint]

/-- Fields that share no bit on one page share none on two. -/
theorem Place.apart_of {f g : Fld} {i j : Nat} (h : f.apart g i j = true) (hf : f.fits i = true) (hg : g.fits j = true) :
    Place.apart (f.place pg i) (g.place q j) := by
  by_cases e : pg = q
  · subst e
    exact Place.apart_of_apart h
  · exact Place.apart_of_ne e hf hg

/-- The interrupt bits of a page that no listed place shares are as they were. -/
theorem State.changes.irqStat {cs : List Comp} {fs : List Place} {ns : List (Page × Nat)} (h : s.changes u cs fs ns)
    (hd : ∀ x ∈ fs, Place.apart x (Reg.PG_IRQ_STAT.place pg)) : u.word (pg.base + 0x10) = s.word (pg.base + 0x10) := by
  refine BitVec.eq_of_getLsbD_eq fun b hb => h.2.1 _ _ ?_
  rintro x hx ⟨h1, h2, h3⟩
  have := hd x hx
  simp only [Place.apart, Fld.place, Fld.addr, Reg.PG_IRQ_STAT] at this h1 h2 h3
  omega

/-- The places and counters of a snapshot of the device. -/
def snapAllPlaces : List Place := Page.all.flatMap (fun pg => [Reg.SNAP_TIME_TIME.place pg, Reg.CNT_STAT_SNAP_SEQ.place pg]) ++
  irqPlaces .mon ++ [Reg.MON_SNAP_ALL_ARM.place .mon, Reg.MON_SNAP_SEQ_SEQ.place .mon, Reg.MON_SNAP_TIME_TIME.place .mon]
def allCounters : List (Page × Nat) := Page.all.flatMap pageCounters

theorem mem_allCounters (hp : pg ∈ Page.all) (ho : o < 0x100) : (pg, o) ∈ allCounters :=
  List.mem_flatMap.2 ⟨pg, hp, mem_pageCounters ho⟩

theorem mem_snapAllPlaces : Reg.PG_IRQ_STAT.place .mon ∈ snapAllPlaces ∧ Reg.MON_SNAP_ALL_ARM.place .mon ∈ snapAllPlaces ∧
    Reg.MON_SNAP_SEQ_SEQ.place .mon ∈ snapAllPlaces ∧ Reg.MON_SNAP_TIME_TIME.place .mon ∈ snapAllPlaces := by
  refine ⟨List.mem_append_left _ (List.mem_append_right _ ?_), List.mem_append_right _ ?_, List.mem_append_right _ ?_,
    List.mem_append_right _ ?_⟩ <;> simp [irqPlaces]

/-- A field that a snapshot of the device does not write. -/
theorem snapAllPlaces_apart {f : Fld} (hf : f.fits 0 = true)
    (h : [Reg.SNAP_TIME_TIME, Reg.CNT_STAT_SNAP_SEQ, Reg.PG_IRQ_STAT, Reg.MON_SNAP_ALL_ARM, Reg.MON_SNAP_SEQ_SEQ,
      Reg.MON_SNAP_TIME_TIME].all (fun g => g.fits 0 && g.apart f 0 0) = true) :
    ∀ x ∈ snapAllPlaces, Place.apart x (f.place pg) := by
  intro x hx
  obtain ⟨g, q, hg, rfl⟩ : ∃ g q, g ∈ [Reg.SNAP_TIME_TIME, Reg.CNT_STAT_SNAP_SEQ, Reg.PG_IRQ_STAT, Reg.MON_SNAP_ALL_ARM,
      Reg.MON_SNAP_SEQ_SEQ, Reg.MON_SNAP_TIME_TIME] ∧ x = g.place q := by
    simp only [snapAllPlaces, irqPlaces, List.mem_append, List.mem_flatMap, List.mem_cons, List.not_mem_nil, or_false] at hx
    rcases hx with (⟨q, -, rfl | rfl⟩ | rfl) | rfl | rfl | rfl <;> exact ⟨_, _, by simp, rfl⟩
  have := List.all_eq_true.1 h g hg
  simp only [Bool.and_eq_true] at this
  exact Place.apart_of this.2 this.1 hf

theorem mem_all : Page.mon ∈ Page.all ∧ Page.pcie ∈ Page.all := by decide +kernel

/-- What a snapshot of the device holds (R308). -/
structure State.SnappedDevice (s u : State) (t : Nat) : Prop where
  time : ∀ pg ∈ Page.all, u.fld pg Reg.SNAP_TIME_TIME = t % 2 ^ 64
  seq : ∀ pg ∈ Page.all, u.fld pg Reg.CNT_STAT_SNAP_SEQ = (s.fld pg Reg.CNT_STAT_SNAP_SEQ + 1) % 65536
  arm : u.fld .mon Reg.MON_SNAP_ALL_ARM = 0
  snaps : u.fld .mon Reg.MON_SNAP_SEQ_SEQ = (s.fld .mon Reg.MON_SNAP_SEQ_SEQ + 1) % 65536
  last : u.fld .mon Reg.MON_SNAP_TIME_TIME = t % 2 ^ 64
  raised : s.raised u .mon 0
  units : ∀ k : Fin 8, (Map.get {} u.units k.val).shadow = (Map.get {} s.units k.val).live
  shadow : ∀ pg ∈ Page.all, ∀ o < 0x100, Map.get 0 u.shadow (pg.base + o) = Map.get 0 s.cnt (pg.base + o)
  cleared : s.flag .mon Reg.MON_SNAP_ALL_CLEAR = true → (∀ k : Fin 8, (Map.get {} u.units k.val).live = {}) ∧
    ∀ pg ∈ Page.all, ∀ o < 0x100, o ≠ 0x58 → o ≠ 0xB0 → Map.get 0 u.cnt (pg.base + o) = 0
  kept : s.flag .mon Reg.MON_SNAP_ALL_CLEAR = false → 
    ∀ pg ∈ Page.all, ∀ o < 0x100, o ≠ 0x58 → o ≠ 0xB0 → Map.get 0 u.cnt (pg.base + o) = Map.get 0 s.cnt (pg.base + o)
  frame : s.changes u [.shadow, .units, .out, .pcie] snapAllPlaces allCounters

theorem State.snapAll_snapped (hw : Map.wf (fun _ => 0) s.cnt = true) : s.SnappedDevice (s.snapAll t) t := by
  have h := State.snapshots_snapped (s := s) (clr := s.flag .mon Reg.MON_SNAP_ALL_CLEAR) (t := t) Page.all_nodup hw
  obtain ⟨hm, hpcie⟩ := mem_all
  simp only [State.snapAll]
  generalize s.each Page.all (fun u pg => u.snapshot pg (s.flag .mon Reg.MON_SNAP_ALL_CLEAR) t) = v at *
  have hafter : v.changes ((((v.setFld .mon Reg.MON_SNAP_ALL_ARM 0).setFld .mon Reg.MON_SNAP_SEQ_SEQ
      (((v.setFld .mon Reg.MON_SNAP_ALL_ARM 0).fld .mon Reg.MON_SNAP_SEQ_SEQ + 1) % 65536)).setFld .mon
      Reg.MON_SNAP_TIME_TIME t).irq .mon 0) [.out, .pcie]
      (irqPlaces .mon ++ [Reg.MON_SNAP_ALL_ARM.place .mon, Reg.MON_SNAP_SEQ_SEQ.place .mon, Reg.MON_SNAP_TIME_TIME.place .mon])
      [(.mon, 0x58), (.pcie, 0xB0)] := .irq (.setFld (.setFld (.setFld .refl)))
  have hsnap : ∀ x ∈ snapFrame Page.all, ∀ {pg : Page} {f : Fld}, f.fits 0 = true → Reg.SNAP_TIME_TIME.apart f 0 0 = true →
      Reg.CNT_STAT_SNAP_SEQ.apart f 0 0 = true → Place.apart x (f.place pg) := by
    intro x hx pg f hf h1 h2
    obtain ⟨q, -, hx⟩ := List.mem_flatMap.1 hx
    simp only [snapPlaces, List.mem_cons, List.not_mem_nil, or_false] at hx
    rcases hx with rfl | rfl
    · exact Place.apart_of h1 (by decide) hf
    · exact Place.apart_of h2 (by decide) hf
  have hcnt : ∀ pg : Page, ∀ o < 0x100, o ≠ 0x58 → o ≠ 0xB0 → ∀ x ∈ [((.mon : Page), 0x58), (.pcie, 0xB0)],
      pg.base + o ≠ x.1.base + x.2 := by
    intro pg o ho h1 h2 x hx e
    have := Page.base_mod pg
    have := Page.base_mod x.1
    simp only [List.mem_cons, List.not_mem_nil, or_false] at hx
    rcases hx with rfl | rfl <;> simp only at * <;> omega
  refine ⟨fun pg hp => ?_, fun pg hp => ?_, ?_, ?_, ?_, ?_, fun k => ?_, fun pg hp o ho => ?_, fun hc => ?_, fun hc => ?_, ?_⟩
  · rw [hafter.fld (by simp +decide [irqPlaces, Place.apart_of]), h.time pg hp]
  · rw [hafter.fld (by simp +decide [irqPlaces, Place.apart_of]), h.seq pg hp]
  · simp +decide [State.fld_eq]
  · have hv : v.fld .mon Reg.MON_SNAP_SEQ_SEQ = s.fld .mon Reg.MON_SNAP_SEQ_SEQ :=
      h.frame.fld fun x hx => hsnap x hx (by decide) (by decide) (by decide)
    rw [← hv]
    simp +decide [State.fld_eq, regFld_setFld_mod]
    rfl
  · simp +decide [State.fld_eq, regFld_setFld_mod]
    rfl
  · refine (State.irq_raised _ .mon 0).trans (congrArg (· ||| _) ?_)
    refine (State.changes.irqStat (s := v) (cs := []) (ns := []) (fs := [Reg.MON_SNAP_ALL_ARM.place .mon, Reg.MON_SNAP_SEQ_SEQ.place .mon,
      Reg.MON_SNAP_TIME_TIME.place .mon]) (.setFld (.setFld (.setFld .refl))) (by simp +decide [Place.apart_of])).trans ?_
    exact h.frame.irqStat fun x hx => hsnap x hx (by decide) (by decide) (by decide)
  · rw [hafter.1 .units (by simp)]
    exact (h.units hm k).1
  · rw [hafter.1 .shadow (by simp)]
    exact h.shadow pg hp o ho
  · refine ⟨fun k => ?_, fun pg hp o ho h1 h2 => ?_⟩
    · rw [hafter.1 .units (by simp), (h.units hm k).2, if_pos hc]
    · rw [hafter.2.2 _ (hcnt pg o ho h1 h2)]
      exact h.clear hc pg hp o ho
  · intro pg hp o ho h1 h2
    rw [hafter.2.2 _ (hcnt pg o ho h1 h2), h.keep hc]
  · obtain ⟨p1, p2, p3, p4⟩ := mem_snapAllPlaces
    have hv : s.changes v [.shadow, .units, .out, .pcie] snapAllPlaces allCounters :=
      State.changes_mono h.frame (by simp) (fun _ hx => List.mem_append_left _ (List.mem_append_left _ hx)) fun _ hx => hx
    exact .irq (.setFld (.setFld (.setFld hv p2) p3) p4) (by simp) p1
      ⟨mem_allCounters hm (by decide), mem_allCounters hpcie (by decide)⟩

end

section
variable {s : State} {clear : Bool}

/-- The state in which a snapshot of the device is armed. -/
def State.snapArmed (s : State) (clear : Bool) : State :=
  (s.setFld .mon Reg.MON_SNAP_ALL_CLEAR clear.toNat).setFld .mon Reg.MON_SNAP_ALL_ARM 1

theorem State.snapArmed_changes {cs : List Comp} {ns : List (Page × Nat)} : s.changes (s.snapArmed clear) cs
    [Reg.MON_SNAP_ALL_ARM.place .mon, Reg.MON_SNAP_ALL_CLEAR.place .mon] ns := .setFld (.setFld .refl)

theorem State.snapArmed_flags : (s.snapArmed clear).flag .mon Reg.MON_SNAP_ALL_ARM = true ∧
    (s.snapArmed clear).flag .mon Reg.MON_SNAP_ALL_CLEAR = clear := by
  have hc : clear.toNat < 2 ^ Reg.MON_SNAP_ALL_CLEAR.width := clear.toNat_lt
  constructor
  · simp +decide [State.snapArmed, State.flag, State.fld_eq]
  · simp +decide [State.snapArmed, State.flag, State.fld_eq, hc]

/-- Fields of a page that arming does not touch. -/
theorem State.fld_snapArmed {pg : Page} {f : Fld} {j : Nat} (hf : f.fits j = true)
    (h : Reg.MON_SNAP_ALL_ARM.apart f 0 j = true ∧ Reg.MON_SNAP_ALL_CLEAR.apart f 0 j = true) :
    (s.snapArmed clear).fld pg f j = s.fld pg f j :=
  (State.snapArmed_changes (cs := []) (ns := [])).fld (by simp +decide [Place.apart_of, hf, h])

theorem execMonSnapArm_eq (h : s.ready .mon = true) (ha : s.flag .mon Reg.MON_SNAP_ALL_ARM = false) : exec (.monSnapArm clear) s =
    .next (if s.fld .mon Reg.MON_SNAP_AT_TIME < s.now then ((s.snapArmed clear).snapAll s.now).err .mon 0x02
      else s.snapArmed clear) := by
  have e : (s.snapArmed clear).fld .mon Reg.MON_SNAP_AT_TIME = s.fld .mon Reg.MON_SNAP_AT_TIME :=
    State.fld_snapArmed (by decide) (by decide)
  have hn : (s.snapArmed clear).now = s.now := by simp [State.snapArmed]
  simp only [exec, execMonSnapArm, State.ifReady_pos h, ha, Bool.false_eq_true, if_false]
  rw [← State.snapArmed, e, hn]

end

/-- Settles O37: a page's snapshot, its clear, and the snapshot of every page at once. -/
theorem snapshotsAreTaken : Obligations.SnapshotsAreTaken := by
  unfold Obligations.SnapshotsAreTaken
  refine ⟨fun s pg h hw => ?_, fun s pg h hw => ?_, fun s pg h => ?_, fun s pg clr h => ?_, fun s clear h ha => ?_,
    fun s clear h ha ht => ?_, fun s clear h ha ht hw => ?_, fun s ha ht hw => ?_, fun s h => ?_⟩
  · have k := State.snapshot_snapped (pg := pg) (clr := false) (t := s.now) hw
    refine .ifReady rfl h ⟨fun o ho => ?_, k.time, k.seq, fun e j => ?_, k.others, .snapshot .refl⟩
    · rw [k.shadow, if_pos (by have := List.mem_range.1 ho; omega)]
    · simpa using k.units e j
  · have k := State.snapshot_snapped (pg := pg) (clr := true) (t := s.now) hw
    refine .ifReady rfl h ⟨fun o ho => ?_, k.time, k.seq, fun o ho => k.clear rfl o (List.mem_range.1 ho), fun e j => ?_, k.others,
      .snapshot .refl (by simp) (by simp [snapPlaces]) fun _ _ hx => hx⟩
    · rw [k.shadow, if_pos (by have := List.mem_range.1 ho; omega)]
    · simpa using k.units e j
  · refine .ifReady rfl h ⟨fun o ho => State.cnt_clearPage (List.mem_range.1 ho), fun e j => ?_, fun e => ?_,
      .clearPage (.ite (.clearUnits .refl) .refl) fun _ hx => hx⟩
    · subst e
      simp [State.clearPage]
    · simp [State.clearPage, e]
  · exact ⟨.not_ready rfl h, .not_ready rfl h⟩
  · refine .ifReady rfl h ?_
    rw [if_pos ha]
    exact ⟨s.err_erred _ _ (by decide), s.err_changes ..⟩
  · obtain ⟨h1, h2⟩ := State.snapArmed_flags (s := s) (clear := clear)
    exact .next ⟨h1, h2, State.snapArmed_changes⟩ ((execMonSnapArm_eq h ha).trans (congrArg _ (if_neg (Nat.not_lt.mpr ht))))
  · refine .next ?_ ((execMonSnapArm_eq h ha).trans (congrArg _ (if_pos ht)))
    obtain ⟨h1, h2⟩ := State.snapArmed_flags (s := s) (clear := clear)
    have k := State.snapAll_snapped (s := s.snapArmed clear) (t := s.now) (by simpa [State.snapArmed] using hw)
    have hch := State.snapArmed_changes (s := s) (clear := clear) (cs := []) (ns := [])
    generalize (s.snapArmed clear).snapAll s.now = u at *
    have he := u.err_changes .mon 0x02
    have hle {f : Fld} {pg : Page} (hf : f.fits 0 = true) (h1 : Reg.PG_ERR_CODE.apart f 0 0 = true ∧ Reg.PG_ERR_MULTI.apart f 0 0 = true) :
        (u.err .mon 0x02).fld pg f = u.fld pg f := he.fld (by simp +decide [errPlaces, Place.apart_of, hf, h1])
    have hcnt : (s.snapArmed clear).cnt = s.cnt := by simp [State.snapArmed]
    have hunits : (s.snapArmed clear).units = s.units := by simp [State.snapArmed]
    refine ⟨fun pg hp => ⟨?_, ?_⟩, ?_, ?_, ?_, ?_, fun j => ?_, fun pg hp o ho => ?_, fun _ => ?_, ?_, ?_⟩
    · rw [hle (by decide) (by decide), k.time pg hp]
    · rw [hle (by decide) (by decide), k.seq pg hp, State.fld_snapArmed (by decide) (by decide)]
    · rw [State.flag, hle (by decide) (by decide), k.arm]
      rfl
    · rw [hle (by decide) (by decide), k.snaps, State.fld_snapArmed (by decide) (by decide)]
    · rw [hle (by decide) (by decide), k.last]
    · refine (he.irqStat (by simp +decide [errPlaces, Place.apart_of])).trans (k.raised.trans (congrArg (· ||| _) ?_))
      exact hch.irqStat (by simp +decide [Place.apart_of])
    · rw [State.units_err, k.units, hunits]
    · rw [State.shadow_err, k.shadow pg hp o (List.mem_range.1 ho), hcnt]
    · exact (u.err_erred .mon 0x02 (by decide)).1
    · rw [State.flag, hle (by decide) (by decide), k.frame.fld (snapAllPlaces_apart (by decide) (by decide))]
      exact h2
    · obtain ⟨-, p2, -, -⟩ := mem_snapAllPlaces
      have hu : s.changes (u.err .mon 0x02) [.shadow, .units, .out, .pcie] (snapAllPlaces ++
          [Reg.MON_SNAP_ALL_CLEAR.place .mon, Reg.PG_ERR_CODE.place .mon, Reg.PG_ERR_MULTI.place .mon]) allCounters :=
        .err (State.changes_trans
          (State.changes_mono hch (by simp) (List.forall_mem_cons.2 ⟨List.mem_append_left _ p2, by simp⟩) (by simp))
          (State.changes_mono k.frame (by simp) (fun _ => List.mem_append_left _) fun _ h => h))
          ⟨List.mem_append_right _ (by simp), List.mem_append_right _ (by simp)⟩ (mem_allCounters mem_all.1 (by decide))
      simp only [snapAllPlaces, List.append_assoc, List.cons_append, List.nil_append] at hu ⊢
      exact hu
  · have hc : (s.flag .mon Reg.MON_SNAP_ALL_ARM && decide (s.fld .mon Reg.MON_SNAP_AT_TIME ≤ s.now)) = true := by simp [ha, ht]
    refine .next ?_ (congrArg Host.Outcome.next (if_pos hc))
    have k := State.snapAll_snapped (t := s.fld .mon Reg.MON_SNAP_AT_TIME) hw
    have hlt : s.fld .mon Reg.MON_SNAP_AT_TIME % 2 ^ 64 = s.fld .mon Reg.MON_SNAP_AT_TIME := Nat.mod_eq_of_lt (s.fld_lt ..)
    refine ⟨fun pg hp => ⟨(k.time pg hp).trans hlt, k.seq pg hp⟩, ?_, k.snaps, k.last.trans hlt, k.raised, k.units,
      fun pg hp o ho => k.shadow pg hp o (List.mem_range.1 ho), fun hc => ?_, fun hc pg hp o ho => k.kept hc pg hp o (List.mem_range.1 ho),
      k.frame⟩
    · simp [State.flag, k.arm]
    · exact ⟨(k.cleared hc).1, fun pg hp o ho => (k.cleared hc).2 pg hp o (List.mem_range.1 ho)⟩
  · refine .next rfl (congrArg Host.Outcome.next (if_neg ?_))
    rcases h with h | h
    · simp [h]
    · simp [Nat.not_le.mpr h]

end Sys2Proof.Machine
end

section
/-! PROOFS. Writes of software, and the capture units (R11, R309 to R312). -/

namespace Sys2Proof.Machine
open Sys2Proof

/-- A page's bit is set after fields other than its interrupt bits changed. -/
theorem State.changes.raised {s u : State} {cs : List Comp} {fs : List Place} {ns : List (Page × Nat)} (h : s.changes u cs fs ns)
    {pg : Page} {b : Nat} (hd : ∀ x ∈ fs, Place.apart x (Reg.PG_IRQ_STAT.place pg)) : s.raised (u.irq pg b) pg b :=
  (u.irq_raised pg b).trans (congrArg (· ||| _) (h.irqStat hd))

theorem Place.apart_of_above {pg : Page} {f g : Fld} {i : Nat} (h : g.below f = true) : Place.apart (f.place pg i) (g.place pg) :=
  (Place.apart_of_below (j := i) h).symm

/-- A recorded code stays while other fields and counters change. -/
theorem State.changes.stays_erred {s t u : State} {cs : List Comp} {fs : List Place} {ns : List (Page × Nat)} (k : t.changes u cs fs ns)
    {pg : Page} {c : Nat} (h : s.erred t pg c)
    (hf : ∀ x ∈ fs, Place.apart x (Reg.PG_ERR_CODE.place pg) ∧ Place.apart x (Reg.PG_ERR_MULTI.place pg))
    (hn : ∀ x ∈ ns, pg.base + 0x50 ≠ x.1.base + x.2) : s.erred u pg c := by
  obtain ⟨h1, h2, h3⟩ := h
  exact ⟨(k.fld fun x hx => (hf x hx).1).trans h1, (k.fld fun x hx => (hf x hx).2).trans h2, (k.counter hn).trans h3⟩

/-- A write that is refused for a reserved encoding, after fields other than those of the page's errors changed. -/
theorem State.changes.refused {s u : State} {cs : List Comp} {fs : List Place} {ns : List (Page × Nat)} (h : s.changes u cs fs ns)
    {pg : Page} (hf : ∀ x ∈ fs, Place.apart x (Reg.PG_ERR_CODE.place pg) ∧ Place.apart x (Reg.PG_ERR_MULTI.place pg))
    (hn : ∀ x ∈ ns, pg.base + 0x50 ≠ x.1.base + x.2 ∧ pg.base + 0x68 ≠ x.1.base + x.2) :
    s.erred (u.rsvEnc pg) pg 0x0E ∧ s.counted (u.rsvEnc pg) pg 0x68 := by
  refine ⟨State.changes.stays_erred (cs := []) (fs := []) (ns := [(pg, 0x68)]) (.count .refl)
    (h.erred (by decide) hf fun x hx => (hn x hx).1) (by simp) (by simp), ?_⟩
  simp only [State.counted]
  rw [← h.counter fun x hx => (hn x hx).2, State.counter_eq, cntAt_rsvEnc_writes, State.counter_eq]

/-- The fields of a page's header that its messages depend on (R385). -/
def messageFlds : List Fld := [Reg.PG_IRQ_STAT, Reg.PG_IRQ_EN, Reg.PG_CTRL_DEST, Reg.PG_CTRL_VEC]

/-- What a page would send depends on its header and the masks alone. -/
theorem State.changes.irqOut_eq {s u : State} {cs : List Comp} {fs : List Place} {ns : List (Page × Nat)} (h : s.changes u cs fs ns)
    {pg : Page} (b : Nat) (hp : u.pcie.unmasked = s.pcie.unmasked)
    (hd : ∀ x ∈ fs, ∀ g ∈ messageFlds, Place.apart x (g.place pg)) : u.irqOut pg b = s.irqOut pg b := by
  have hf {g : Fld} (hg : g ∈ messageFlds) : u.fld pg g = s.fld pg g := h.fld fun x hx => hd x hx g hg
  have hs : u.word (pg.base + 0x10) = s.word (pg.base + 0x10) := h.irqStat fun x hx => hd x hx _ (by simp [messageFlds])
  have he : u.word (pg.base + 0x14) = s.word (pg.base + 0x14) := by
    refine BitVec.eq_of_getLsbD_eq fun b hb => h.2.1 _ _ ?_
    rintro x hx ⟨h1, h2, h3⟩
    have := hd x hx Reg.PG_IRQ_EN (by simp [messageFlds])
    simp only [Place.apart, Fld.place, Fld.addr, Reg.PG_IRQ_EN] at this h1 h2 h3
    omega
  have hm : u.messages pg = s.messages pg := by
    simp only [State.messages, hp]
    rw [hf (g := Reg.PG_CTRL_DEST) (by simp [messageFlds]), hf (g := Reg.PG_CTRL_VEC) (by simp [messageFlds])]
  rw [State.irqOut, State.irqOut, State.irqPending, State.irqPending, hs, he, hm]

theorem State.changes.out_irq_eq {s u : State} {cs : List Comp} {fs : List Place} {ns : List (Page × Nat)} (h : s.changes u cs fs ns)
    {pg : Page} {b : Nat} (ho : u.out = s.out) (hp : u.pcie.unmasked = s.pcie.unmasked)
    (hd : ∀ x ∈ fs, ∀ g ∈ messageFlds, Place.apart x (g.place pg)) : (u.irq pg b).out = s.out ++ s.irqOut pg b := by
  rw [State.out_irq, ho, h.irqOut_eq b hp hd]

/-! ## Writes of software to a field -/

section
variable {s t : State} {cs : List Comp} {fs : List Place} {ns : List (Page × Nat)} {pg : Page} {f : Fld} {v i : Nat}

theorem State.swWrite_ok (ha : f.acc = .rw) (h : f.ok v = true) : s.swWrite pg f v i = s.setFld pg f v i := by
  simp [State.swWrite, ha, h]

theorem State.swWrite_reserved (ha : f.acc = .rw) (h : f.ok v = false) : s.swWrite pg f v i = s.rsvEnc pg := by
  simp [State.swWrite, ha, h]

theorem State.changes.swWrite (h : s.changes t cs fs ns) (ha : f.acc = .rw := by rfl) (hm : f.place pg i ∈ fs := by simp)
    (he : Reg.PG_ERR_CODE.place pg ∈ fs ∧ Reg.PG_ERR_MULTI.place pg ∈ fs := by simp [errPlaces])
    (hn : (pg, 0x50) ∈ ns ∧ (pg, 0x68) ∈ ns := by simp) : s.changes (t.swWrite pg f v i) cs fs ns := by
  cases hv : f.ok v with
  | true => rw [State.swWrite_ok ha hv]; exact .setFld h hm
  | false => rw [State.swWrite_reserved ha hv]; exact .rsvEnc h he hn

/-- The component that software's write to a field leaves: all but registers and counters. -/
theorem State.swWrite_keeps (ha : f.acc = .rw) {c : Comp} (h : c ∉ [.regs, .cnt]) : Comp.same s (s.swWrite pg f v i) c :=
  (State.changes.swWrite (cs := []) (fs := f.place pg i :: errPlaces pg) (ns := [(pg, 0x50), (pg, 0x68)]) .refl ha).1 c h

theorem withBits_bits (v lo w : Nat) : withBits v lo w (bits v lo w) = v := by
  apply Nat.eq_of_testBit_eq
  intro k
  rw [withBits_testBit, bits_testBit]
  by_cases h : lo ≤ k ∧ k < lo + w
  · rw [if_pos h, show lo + (k - lo) = k by omega]
    simp
    omega
  · rw [if_neg h]

/-- Words written as they are. -/
theorem State.word_setWords_words (a n b : Nat) : (s.setWords a n (s.words a n)).word b = s.word b := by
  by_cases h : ∃ k < n, b = a + 4 * k
  · obtain ⟨k, hk, rfl⟩ := h
    rw [State.word_setWords_at _ _ _ _ hk]
    refine BitVec.eq_of_getLsbD_eq fun j hj => ?_
    rw [← State.words_testBit s a n hk hj, BitVec.getLsbD_ofNat, Nat.testBit_div_two_pow]
    simp [hj, Nat.add_comm]
  · exact State.word_setWords_other _ _ _ _ fun k hk e => h ⟨k, hk, e⟩

/-- A field written as it is changes nothing. -/
theorem State.word_setFld_fld (a : Nat) : (s.setFld pg f (s.fld pg f i) i).word a = s.word a := by
  rw [State.setFld, State.fld, withBits_bits]
  exact State.word_setWords_words ..

theorem State.changes.setFld_same (h : s.changes t cs fs ns) (hv : v = t.fld pg f i) : s.changes (t.setFld pg f v i) cs fs ns := by
  subst hv
  have := t.setFld_changes pg f (t.fld pg f i) i
  exact State.changes_trans h ⟨State.keeps_mono this.1 (by simp), fun a b _ => by rw [State.word_setFld_fld], fun _ _ => by
    rw [State.cnt_setFld]⟩

end

/-! ## Units take samples -/

section
variable {s : State} {u : Fin 8}

/-- What each of a list of updates keeps, all keep. -/
theorem State.each_keeps_prop {α : Type} {P : State → Prop} {l : List α} {f : State → α → State} {s : State} (h : P s)
    (hf : ∀ t, ∀ x ∈ l, P t → P (f t x)) : P (s.each l f) := by
  induction l generalizing s with
  | nil => exact h
  | cons x l ih => exact ih (hf s x (by simp) h) fun t y hy => hf t y (by simp [hy])

theorem othersSame_trans {β : Type} {d : β} {m n o : Map β} {ks : List Nat} (h : othersSame d m n ks) (k : othersSame d n o ks) :
    othersSame d m o ks := fun j hj => (k j hj).trans (h j hj)

/-- An update of the elements that a stable test picks is an update of those elements. -/
theorem State.each_ite {α : Type} {p : State → α → Bool} {g : State → α → State} (hp : ∀ t x y, p (g t x) y = p t y) (l : List α)
    (s : State) : s.each l (fun s x => if p s x = true then g s x else s) = s.each (l.filter (p s)) g := by
  induction l generalizing s with
  | nil => rfl
  | cons x l ih =>
    have h : s.each (x :: l) (fun s x => if p s x = true then g s x else s) =
        (if p s x = true then g s x else s).each l fun s x => if p s x = true then g s x else s := rfl
    rw [h]
    by_cases hx : p s x = true
    · rw [if_pos hx, ih, List.filter_cons_of_pos hx, funext (hp s x)]
      rfl
    · rw [if_neg hx, ih, List.filter_cons_of_neg hx]

/-- The state with one unit's values and queue replaced. -/
def State.setUnit (s : State) (u : Fin 8) (x : CapUnit) : State := { s with units := Map.set {} s.units u.val x }

@[simp] theorem State.units_setUnit (x : CapUnit) : (s.setUnit u x).units = Map.set {} s.units u.val x := rfl

theorem State.changes.setUnit {t : State} {cs : List Comp} {fs : List Place} {ns : List (Page × Nat)} (h : s.changes t cs fs ns)
    {x : CapUnit} (hm : .units ∈ cs := by simp) : s.changes (t.setUnit u x) cs fs ns :=
  h.upd (fun c hc => by cases c <;> first | rfl | exact absurd (by simp [hm]) hc) rfl rfl rfl

theorem State.unitTake_changes {v : Nat} {cs : List Comp} {fs : List Place} {ns : List (Page × Nat)} (h : .units ∈ cs) :
    s.changes (s.unitTake u v) cs fs ns := by
  unfold State.unitTake
  exact .upd .refl fun c hc => by cases c <;> first | rfl | exact absurd (by simp [h]) hc

theorem State.unitSample_changes {v : Nat} : s.changes (s.unitSample u v) [.units, .out, .pcie] (irqPlaces .mon) (irqCounts .mon) :=
  .ite (State.unitTake_changes (by simp)) (.ite (.upd .refl) (.irq (.upd .refl)))

theorem State.unitSample_othersSame {v : Nat} : othersSame {} s.units (s.unitSample u v).units [u.val] := by
  simp only [State.unitSample, State.unitTake]
  split
  · simp
  · split <;> simp

/-- The instances whose levels a unit takes. -/
def State.unitLevels (s : State) (u : Fin 8) : List (Nat × Nat) :=
  (s.levels (s.fld .mon Reg.UNIT_SOURCE u.val)).filter fun l =>
    s.flag .mon Reg.UNIT_ANY u.val || s.fld .mon Reg.UNIT_INDEX u.val == l.1 || s.fld .mon Reg.UNIT_SOURCE u.val == 13

theorem exec_unitLevelSample : exec (.unitLevelSample u) s = .next (s.each (s.unitLevels u) fun (s : State) (l : Nat × Nat) => s.unitSample u l.2) := by
  refine congrArg Host.Outcome.next (State.each_ite (g := fun (s : State) (l : Nat × Nat) => s.unitSample u l.2)
    (p := fun (t : State) (l : Nat × Nat) => t.flag .mon Reg.UNIT_ANY u.val || t.fld .mon Reg.UNIT_INDEX u.val == l.1 || s.fld .mon Reg.UNIT_SOURCE u.val == 13)
    (fun t x y => ?_) _ s)
  have h1 : (t.unitSample u x.2).fld .mon Reg.UNIT_ANY u.val = t.fld .mon Reg.UNIT_ANY u.val :=
    State.unitSample_changes.fld (by simpa [irqPlaces] using Place.apart_of_below (by decide))
  have h2 : (t.unitSample u x.2).fld .mon Reg.UNIT_INDEX u.val = t.fld .mon Reg.UNIT_INDEX u.val :=
    State.unitSample_changes.fld (by simpa [irqPlaces] using Place.apart_of_below (by decide))
  simp only [State.flag, h1, h2]

end

section
variable {s : State} {u : Fin 8} {v : Word}

/-- The unit's configuration word 0 once MODE and SHIFT are judged: SOURCE, and a live unit starts anew. -/
def State.unitSource (s t : State) (u : Fin 8) (x : Nat) : State :=
  let t := t.swWrite .mon Reg.UNIT_SOURCE x u.val
  if (s.fld .mon Reg.UNIT_SOURCE u.val == 0 && t.fld .mon Reg.UNIT_SOURCE u.val != 0) = true then
    t.setUnit u { (Map.get {} t.units u.val : CapUnit) with live := {} }
  else t

theorem State.unitCfg0_off (h : s.ready .mon = true) (h0 : s.fld .mon Reg.UNIT_SOURCE u.val = 0) :
    exec (.unitCfgWrite u 0 v) s = .next (s.unitSource ((s.setFld .mon Reg.UNIT_MODE (bits v.toNat 4 1) u.val).swWrite .mon
      Reg.UNIT_SHIFT (bits v.toNat 5 6) u.val) u (bits v.toNat 0 4)) := by
  have h0' : (s.fld .mon Reg.UNIT_SOURCE u.val == 0) = true := by simp [h0]
  simp only [exec, execUnitCfgWrite, State.ifReady_pos h, h0', if_true, State.unitSource, State.setUnit]
  rw [State.swWrite_ok (f := Reg.UNIT_MODE) rfl rfl]

theorem State.unitSource_on {t : State} {x : Nat} (h0 : s.fld .mon Reg.UNIT_SOURCE u.val ≠ 0) :
    s.unitSource t u x = t.swWrite .mon Reg.UNIT_SOURCE x u.val := by
  have h0' : (s.fld .mon Reg.UNIT_SOURCE u.val == 0) = false := by simp [h0]
  simp [State.unitSource, h0']

theorem State.unitSource_off {t : State} {x : Nat} (h0 : s.fld .mon Reg.UNIT_SOURCE u.val = 0) (hx : x ≤ 13) :
    s.unitSource t u x = if x = 0 then t.setFld .mon Reg.UNIT_SOURCE x u.val else
      (t.setFld .mon Reg.UNIT_SOURCE x u.val).setUnit u { (Map.get {} t.units u.val : CapUnit) with live := {} } := by
  have e : t.swWrite .mon Reg.UNIT_SOURCE x u.val = t.setFld .mon Reg.UNIT_SOURCE x u.val :=
    State.swWrite_ok rfl (by simpa [Fld.ok, Reg.UNIT_SOURCE] using hx)
  have hf : (t.setFld .mon Reg.UNIT_SOURCE x u.val).fld .mon Reg.UNIT_SOURCE u.val = x :=
    t.fld_setFld_of_lt (Nat.lt_of_le_of_lt hx (by decide))
  simp only [State.unitSource, e, hf, h0, State.units_setFld]
  by_cases h : x = 0 <;> simp [h]

/-- SOURCE 14 and 15 are reserved. -/
theorem State.unitSource_reserved {t : State} {x : Nat} (hx : 14 ≤ x)
    (ht : t.fld .mon Reg.UNIT_SOURCE u.val = s.fld .mon Reg.UNIT_SOURCE u.val) : s.unitSource t u x = t.rsvEnc .mon := by
  have e : t.swWrite .mon Reg.UNIT_SOURCE x u.val = t.rsvEnc .mon :=
    State.swWrite_reserved rfl (by simp [Fld.ok, Reg.UNIT_SOURCE]; omega)
  have hf : (t.rsvEnc .mon).fld .mon Reg.UNIT_SOURCE u.val = s.fld .mon Reg.UNIT_SOURCE u.val := by
    rw [← ht]
    simp +decide [State.fld_eq]
  simp only [State.unitSource, e, hf]
  exact if_neg (by simp)

theorem State.unitCfg0_on (h : s.ready .mon = true) (h0 : s.fld .mon Reg.UNIT_SOURCE u.val ≠ 0) :
    exec (.unitCfgWrite u 0 v) s = .next (s.unitSource (if s.fld .mon Reg.UNIT_MODE u.val = bits v.toNat 4 1 ∧
      s.fld .mon Reg.UNIT_SHIFT u.val = bits v.toNat 5 6 then s else s.err .mon 0x03) u (bits v.toNat 0 4)) := by
  have h0' : (s.fld .mon Reg.UNIT_SOURCE u.val == 0) = false := by simp [h0]
  simp only [exec, execUnitCfgWrite, State.ifReady_pos h, h0', Bool.false_eq_true, if_false, State.unitSource, Bool.false_and]

theorem State.unitCfg_on {w : Fin 4} (h : s.ready .mon = true) (h0 : s.fld .mon Reg.UNIT_SOURCE u.val ≠ 0) (hw : w ≠ 0) :
    exec (.unitCfgWrite u w v) s = .next (s.err .mon 0x03) := by
  have h0' : (s.fld .mon Reg.UNIT_SOURCE u.val == 0) = false := by simp [h0]
  match w with
  | 0 => exact absurd rfl hw
  | 1 | 2 | 3 => simp only [exec, execUnitCfgWrite, State.ifReady_pos h, h0', Bool.false_eq_true, if_false]

/-- What a write of a unit's configuration may touch (R312). -/
def unitCfgPlaces (u : Fin 8) : List Place := errPlaces .mon ++
  [Reg.UNIT_MODE.place .mon u.val, Reg.UNIT_SHIFT.place .mon u.val, Reg.UNIT_SOURCE.place .mon u.val, Reg.UNIT_INDEX.place .mon u.val,
    Reg.UNIT_ANY.place .mon u.val, Reg.UNIT_CLASS_MASK.place .mon u.val, Reg.UNIT_BASE.place .mon u.val,
    Reg.UNIT_PERIOD_NS.place .mon u.val]

/-- The frame of a write of a unit's configuration. -/
abbrev State.unitCfgChanges (s t : State) (u : Fin 8) : Prop := othersSame {} s.units t.units [u.val] ∧
  s.changes t [.units] (unitCfgPlaces u) [(.mon, 0x50), (.mon, 0x68)]

theorem State.unitCfgChanges_swWrite {t : State} {f : Fld} {x : Nat} (h : s.unitCfgChanges t u) (ha : f.acc = .rw)
    (hf : f.place .mon u.val ∈ unitCfgPlaces u) : s.unitCfgChanges (t.swWrite .mon f x u.val) u := by
  refine ⟨?_, h.2.swWrite ha hf (by simp [unitCfgPlaces, errPlaces]) (by simp)⟩
  have hu : (t.swWrite .mon f x u.val).units = t.units := State.swWrite_keeps ha (c := .units) (by simp)
  exact hu ▸ h.1

theorem State.unitCfgChanges_err {t : State} {c : Nat} (h : s.unitCfgChanges t u) : s.unitCfgChanges (t.err .mon c) u :=
  ⟨by simpa using h.1, h.2.err (by simp [unitCfgPlaces, errPlaces]) (by simp)⟩

theorem State.unitCfgChanges_unitSource {r t : State} {x : Nat} (h : s.unitCfgChanges t u) : s.unitCfgChanges (r.unitSource t u x) u := by
  have k : s.unitCfgChanges (t.swWrite .mon Reg.UNIT_SOURCE x u.val) u := State.unitCfgChanges_swWrite h rfl (by simp [unitCfgPlaces])
  simp only [State.unitSource]
  split
  · exact ⟨by simpa using k.1, .setUnit k.2⟩
  · exact k

theorem State.unitCfgWrite_changes {w : Fin 4} : completes (.unitCfgWrite u w v) s fun t => s.unitCfgChanges t u := by
  have hr : s.unitCfgChanges s u := ⟨by simp, .refl⟩
  cases h : s.ready .mon with
  | false => exact .next hr (exec_of_not_ready rfl h)
  | true =>
    by_cases h0 : s.fld .mon Reg.UNIT_SOURCE u.val = 0
    · match w with
      | 0 =>
        refine .next (State.unitCfgChanges_unitSource (State.unitCfgChanges_swWrite ?_ rfl (by simp [unitCfgPlaces])))
          (State.unitCfg0_off h h0)
        exact ⟨by simp, .setFld .refl (by simp [unitCfgPlaces])⟩
      | 1 =>
        refine .ifReady rfl h ?_
        simp only [h0, BEq.rfl, if_true]
        refine State.unitCfgChanges_swWrite (State.unitCfgChanges_swWrite (State.unitCfgChanges_swWrite hr rfl ?_) rfl ?_) rfl ?_ <;>
          simp [unitCfgPlaces]
      | 2 | 3 =>
        refine .ifReady rfl h ?_
        simp only [h0, BEq.rfl, if_true]
        exact State.unitCfgChanges_swWrite hr rfl (by simp [unitCfgPlaces])
    · by_cases hw : w = 0
      · subst hw
        refine .next (State.unitCfgChanges_unitSource ?_) (State.unitCfg0_on h h0)
        split
        · exact hr
        · exact State.unitCfgChanges_err hr
      · exact .next (State.unitCfgChanges_err hr) (State.unitCfg_on h h0 hw)

end

/-- Settles O38: the sample's branches, and the words of a unit's configuration. -/
theorem captureUnitsTakeSamples : Obligations.CaptureUnitsTakeSamples := by
  unfold Obligations.CaptureUnitsTakeSamples
  refine ⟨fun s u x l hl hx hs hq => ?_, fun s u x l hl hx hs hq => ?_, fun s u x l hl hx hq => ?_, fun s u => ?_, fun s u hl => ?_,
    fun s u v h h0 hs hv => ?_, fun s u v h hm hs hs2 hv => ?_, fun s u v h h0 hc hv => ?_, fun s u v h h0 => ?_, fun s u v h h0 => ?_,
    fun s u v h h0 hv => ?_, fun s u v h h0 hv => ?_, fun s u w v h h0 hw => ?_, fun s u v h h0 hm hs hv => ?_, fun s u w v h => ?_,
    fun s u w v => ?_⟩
  · have e : exec (.unitLevelSample u) s = .next (s.unitTake u l.2) := by
      rw [exec_unitLevelSample, State.unitLevels, hl]
      exact congrArg _ (if_pos ⟨hx ▸ hs, hx ▸ hq⟩)
    refine .next ⟨?_, ?_, State.unitTake_changes (by simp)⟩ e
    · simp [State.unitTake, ← hx]
    · simp [State.unitTake]
  · have e : exec (.unitLevelSample u) s =
        .next (s.setUnit u { x with queue := x.queue ++ [l.2] }) := by
      rw [exec_unitLevelSample, State.unitLevels, hl]
      subst hx
      refine congrArg _ ((if_neg ?_).trans (if_pos hq))
      rintro ⟨h1, h2⟩
      rcases hs with h | h
      · exact h1 h
      · exact h h2
    exact .next ⟨by simp, by simp, .setUnit .refl⟩ e
  · have e : exec (.unitLevelSample u) s =
        .next ((s.setUnit u { x with live := { x.live with dropped := min 4294967295 (x.live.dropped + 1) } }).irq .mon 1) := by
      rw [exec_unitLevelSample, State.unitLevels, hl]
      subst hx
      refine congrArg _ ((if_neg ?_).trans (if_neg (Nat.not_lt.mpr hq)))
      rintro ⟨-, h2⟩
      simp [h2] at hq
    exact .next ⟨by simp, by simp, State.changes.raised (cs := [.units]) (fs := []) (ns := []) (.setUnit .refl) (by simp), .irq (.setUnit .refl)⟩ e
  · refine .next ⟨?_, .each .refl fun t l _ ht => State.changes_trans ht State.unitSample_changes⟩ exec_unitLevelSample
    refine State.each_keeps_prop (P := fun t => othersSame ({} : CapUnit) s.units t.units [u.val]) (by simp) ?_
    exact fun t l _ ht => othersSame_trans ht State.unitSample_othersSame
  · exact .next (by rw [State.unitLevels, hl]; rfl) exec_unitLevelSample
  · have hm1 : bits v.toNat 4 1 < 2 ^ Reg.UNIT_MODE.width := bits_lt ..
    have hs1 : bits v.toNat 5 6 < 2 ^ Reg.UNIT_SHIFT.width := bits_lt ..
    have hv1 : bits v.toNat 0 4 < 2 ^ Reg.UNIT_SOURCE.width := bits_lt ..
    have e := State.unitCfg0_off (v := v) h h0
    rw [State.swWrite_ok rfl (by simpa [Fld.ok, Reg.UNIT_SHIFT] using hs), State.unitSource_off h0 hv] at e
    refine .next ⟨?_, ?_, ?_, ?_, ?_, .ite (.setFld (.setFld (.setFld .refl))) (.setUnit (.setFld (.setFld (.setFld .refl))))⟩ e
    · split <;> simp +decide [State.fld_eq, State.setUnit, hm1]
    · split <;> simp +decide [State.fld_eq, State.setUnit, hs1]
    · split <;> simp +decide [State.fld_eq, State.setUnit, hv1]
    · split <;> simp
    · split <;> simp
  · have hsok : Reg.UNIT_SHIFT.ok (bits v.toNat 5 6) = true := by simpa [Fld.ok, Reg.UNIT_SHIFT] using hs2
    obtain ⟨w, hw, hwu, hwf, e⟩ : ∃ w, s.changes w [] [] [] ∧ w.units = s.units ∧
        w.fld .mon Reg.UNIT_SOURCE u.val = s.fld .mon Reg.UNIT_SOURCE u.val ∧ exec (.unitCfgWrite u 0 v) s = .next (w.rsvEnc .mon) := by
      by_cases h0 : s.fld .mon Reg.UNIT_SOURCE u.val = 0
      · have e := State.unitCfg0_off (v := v) h h0
        rw [State.swWrite_ok rfl hsok] at e
        have hf : ((s.setFld .mon Reg.UNIT_MODE (bits v.toNat 4 1) u.val).setFld .mon Reg.UNIT_SHIFT (bits v.toNat 5 6) u.val).fld .mon
            Reg.UNIT_SOURCE u.val = s.fld .mon Reg.UNIT_SOURCE u.val := by simp +decide [State.fld_eq]
        rw [State.unitSource_reserved hv hf] at e
        refine ⟨_, .setFld_same (.setFld_same .refl hm) (hs.trans ?_), by simp, hf, e⟩
        simp +decide [State.fld_eq]
      · have e := State.unitCfg0_on (v := v) h h0
        rw [if_pos ⟨hm.symm, hs.symm⟩, State.unitSource_reserved hv rfl] at e
        exact ⟨s, .refl, rfl, rfl, e⟩
    obtain ⟨k1, k2⟩ := hw.refused (pg := .mon) (by simp) (by simp)
    refine .next ⟨k1, k2, ?_, by simp [hwu], .rsvEnc (State.changes_mono hw (by simp) (by simp) (by simp))⟩ e
    rw [← hwf]
    simp +decide [State.fld_eq]
  · have hv1 : bits v.toNat 0 4 < 2 ^ Reg.UNIT_SOURCE.width := bits_lt ..
    have e := State.unitCfg0_on (v := v) h h0
    rw [if_neg (by omega), State.unitSource_on h0, State.swWrite_ok rfl (by simpa [Fld.ok, Reg.UNIT_SOURCE] using hv)] at e
    refine .next ⟨?_, ?_, ?_, .setFld (.err .refl)⟩ e
    · exact State.changes.stays_erred (cs := []) (fs := [Reg.UNIT_SOURCE.place .mon u.val]) (ns := []) (.setFld .refl)
        (s.err_erred _ _ (by decide)) (by simp +decide [Place.apart_of_above]) (by simp)
    · simp +decide [State.fld_eq]
    · simp +decide [State.fld_eq, hv1]
  · have h0' : (s.fld .mon Reg.UNIT_SOURCE u.val == 0) = true := by simp [h0]
    have hi : bits v.toNat 0 10 < 2 ^ Reg.UNIT_INDEX.width := bits_lt ..
    have ha : bits v.toNat 10 1 < 2 ^ Reg.UNIT_ANY.width := bits_lt ..
    have hc : bits v.toNat 16 16 < 2 ^ Reg.UNIT_CLASS_MASK.width := bits_lt ..
    refine .ifReady rfl h ?_
    simp only [h0', if_true]
    rw [State.swWrite_ok (f := Reg.UNIT_CLASS_MASK) rfl rfl, State.swWrite_ok (f := Reg.UNIT_ANY) rfl rfl,
      State.swWrite_ok (f := Reg.UNIT_INDEX) rfl rfl]
    refine ⟨?_, ?_, ?_, .setFld (.setFld (.setFld .refl))⟩
    · simp +decide [State.fld_eq, hi]
    · simp +decide [State.fld_eq, ha]
    · simp +decide [State.fld_eq, hc]
  · refine .ifReady rfl h ?_
    simp only [h0, BEq.rfl, if_true]
    rw [State.swWrite_ok (f := Reg.UNIT_BASE) rfl rfl]
    exact ⟨State.fld_setFld_of_lt _ v.isLt, .setFld .refl⟩
  · refine .ifReady rfl h ?_
    have hok : Reg.UNIT_PERIOD_NS.ok v.toNat = true := by
      have := v.isLt
      simp [Fld.ok, Reg.UNIT_PERIOD_NS]
      omega
    simp only [h0, BEq.rfl, if_true]
    rw [State.swWrite_ok rfl hok]
    exact ⟨State.fld_setFld_of_lt _ v.isLt, .setFld .refl⟩
  · refine .ifReady rfl h ?_
    have hok : Reg.UNIT_PERIOD_NS.ok v.toNat = false := by
      simp [Fld.ok, Reg.UNIT_PERIOD_NS]
      omega
    simp only [h0, BEq.rfl, if_true]
    rw [State.swWrite_reserved rfl hok]
    obtain ⟨k1, k2⟩ := State.changes.refused (pg := .mon) (s.changes_refl [] [] []) (by simp) (by simp)
    exact ⟨k1, k2, .rsvEnc .refl⟩
  · exact .next ⟨s.err_erred _ _ (by decide), s.err_changes ..⟩ (State.unitCfg_on h h0 hw)
  · have e := State.unitCfg0_on (v := v) h h0
    rw [if_pos ⟨hm.symm, hs.symm⟩, State.unitSource_on h0, State.swWrite_ok rfl (by simpa [Fld.ok, Reg.UNIT_SOURCE] using hv)] at e
    exact .next ⟨State.fld_setFld_of_lt _ (bits_lt ..), .setFld .refl⟩ e
  · exact .not_ready rfl h
  · exact State.unitCfgWrite_changes

end Sys2Proof.Machine
end

section
/-! PROOFS. Leaves of the map, and the tier commands (R125, R128, R141). -/

namespace Sys2Proof.Machine
open Sys2Proof

/-! ## Leaves -/

section
variable {s t : State} {p q : Nat} {l : Leaf}

theorem State.dropLeaf_eq (s : State) (p : Nat) :
    ∃ lv ds, s.dropLeaf p = s.setTier { s.tier with leaves := lv, dirs := ds } := by
  simp only [State.dropLeaf]
  split
  · exact ⟨_, _, rfl⟩
  · exact ⟨s.tier.leaves, s.tier.dirs, rfl⟩

/-- A leaf written: the page's entry, and what its extent uses. -/
theorem State.setLeaf_eq (s : State) (p : Nat) (l : Leaf) :
    ∃ lv ds, s.setLeaf p l = s.setTier { s.tier with pages := Map.set {} s.tier.pages p l, leaves := lv, dirs := ds } := by
  simp only [State.setLeaf]
  obtain ⟨lv, ds, h⟩ := State.dropLeaf_eq (s.setTier { s.tier with
    pages := Map.set {} s.tier.pages p l
    dirs := if (s.dir p).valid then Map.set {} s.tier.dirs (extOf p) { s.dir p with used :=
      if (s.leaf p).st == .unwritten && !(l.st == .unwritten) then (s.dir p).used + 1
      else if !((s.leaf p).st == .unwritten) && l.st == .unwritten then (s.dir p).used - 1 else (s.dir p).used } else s.tier.dirs }) p
  exact ⟨lv, ds, h⟩

@[simp] theorem State.pages_setLeaf : (s.setLeaf p l).tier.pages = Map.set {} s.tier.pages p l := by
  obtain ⟨lv, ds, h⟩ := s.setLeaf_eq p l
  rw [h]
  rfl

@[simp] theorem State.leaf_setLeaf_same : (s.setLeaf p l).leaf p = l := by simp [State.leaf]

theorem State.leaf_setLeaf_other (h : q ≠ p) : (s.setLeaf p l).leaf q = s.leaf q := by
  simp [State.leaf, Map.get_set_other _ _ _ _ h]

@[simp] theorem State.migs_setLeaf : (s.setLeaf p l).tier.migs = s.tier.migs := by
  obtain ⟨lv, ds, h⟩ := s.setLeaf_eq p l
  rw [h]
  rfl

@[simp] theorem State.mem_setLeaf : (s.setLeaf p l).mem = s.mem := by
  obtain ⟨lv, ds, h⟩ := s.setLeaf_eq p l
  rw [h]
  rfl

theorem State.changes.setLeaf {cs : List Comp} {fs : List Place} {ns : List (Page × Nat)} (h : s.changes t cs fs ns)
    (hm : .tier ∈ cs := by simp) : s.changes (t.setLeaf p l) cs fs ns := by
  obtain ⟨lv, ds, e⟩ := t.setLeaf_eq p l
  rw [e]
  exact h.setTier hm

theorem State.changes.useFrame {cs : List Comp} {fs : List Place} {ns : List (Page × Nat)} (h : s.changes t cs fs ns)
    {n : TierName} {f : Nat} {b : Bool} (hm : .tier ∈ cs := by simp) : s.changes (t.useFrame n f b) cs fs ns := h.setTier hm

theorem State.changes.useSide {cs : List Comp} {fs : List Place} {ns : List (Page × Nat)} (h : s.changes t cs fs ns)
    {n : TierName} {z : PartId} {f : Nat} {b : Bool} (hm : .tier ∈ cs := by simp) : s.changes (t.useSide n z f b) cs fs ns :=
  h.setTier hm

theorem State.changes.freeHome {cs : List Comp} {fs : List Place} {ns : List (Page × Nat)} (h : s.changes t cs fs ns)
    (hm : .tier ∈ cs := by simp) : s.changes (t.freeHome p l) cs fs ns :=
  .ite (.useSide (.useFrame h hm) hm) (.useFrame h hm)

@[simp] theorem State.pages_freeHome : (s.freeHome p l).tier.pages = s.tier.pages := by
  simp only [State.freeHome]
  split <;> rfl

end

/-! ## Frames are found by fields of the memory pages and of the layout -/

section
variable {s t : State} {cs : List Comp} {fs : List Place} {ns : List (Page × Nat)}

/-- The fields of the layout of a tier's frames. -/
def layoutFlds : List Fld := [Reg.TIER_MAP_CFG_MAP_FRAMES, Reg.TIER_MAP_CFG_SHL_SIDE_FRAMES, Reg.TIER_SIDE_CFG_BAS_SIDE,
  Reg.TIER_SIDE_CFG_DEEP_SIDE]

/-- A place of the TIER page that is none of the layout's. -/
def Place.offLayout (x : Place) : Prop :=
  x.1 = .tier ∧ x.2.1.fits x.2.2 = true ∧ layoutFlds.all (fun g => x.2.1.apart g x.2.2 0) = true

theorem Place.offLayout.apart {x : Place} (h : x.offLayout) {g : Fld} (hg : g ∈ layoutFlds) : Place.apart x (g.place .tier) := by
  obtain ⟨pg, f, i⟩ := x
  obtain ⟨rfl, -, h⟩ := h
  exact Place.apart_of_apart (List.all_eq_true.1 h g hg)

theorem Place.offLayout.apart_ne {x : Place} (h : x.offLayout) {q : Page} {g : Fld} {j : Nat} (hq : q ≠ .tier) (hg : g.fits j = true) :
    Place.apart x (g.place q j) := by
  obtain ⟨pg, f, i⟩ := x
  obtain ⟨rfl, hf, -⟩ := h
  exact Place.apart_of_ne (Ne.symm hq) hf hg

theorem instOf_ne_tier (n : TierName) (f : Nat) : instOf n f ≠ .tier := by cases n <;> simp [instOf]

theorem memFld_fits {pg : Page} {b d e : Fld} (hb : b.fits 0 = true) (hd : d.fits 0 = true) (he : e.fits 0 = true) :
    (memFld pg b d e).fits 0 = true := by
  simp only [memFld]
  split <;> assumption

theorem memOnline_fits (pg : Page) : (memOnline pg).fits 0 = true := memFld_fits (by decide) (by decide) (by decide)
theorem memFrames_fits (pg : Page) : (memFrames pg).fits 0 = true := memFld_fits (by decide) (by decide) (by decide)

theorem State.findFrame_of_changes (h : s.changes t cs fs ns) (hl : ∀ x ∈ fs, x.offLayout) (hf : t.tier.frames = s.tier.frames)
    (hr : t.tier.retired = s.tier.retired) (n : TierName) (z : PartId) : t.findFrame n z = s.findFrame n z := by
  have h1 {g : Fld} (hg : g ∈ layoutFlds) : t.fld .tier g = s.fld .tier g := h.fld fun x hx => (hl x hx).apart hg
  have h2 {q : Page} {g : Fld} (hq : q ≠ .tier) (hg : g.fits 0 = true) : t.fld q g = s.fld q g :=
    h.fld fun x hx => (hl x hx).apart_ne hq hg
  have h3 : t.frameFree n = s.frameFree n := by
    funext f
    simp only [State.frameFree, State.ready, State.flag, hf, hr]
    rw [h2 (instOf_ne_tier n f) (by decide), h2 (instOf_ne_tier n f) (memOnline_fits _), h2 (instOf_ne_tier n f) (memFrames_fits _)]
  have h4 : t.deepFrames = s.deepFrames := by
    simp only [State.deepFrames]
    refine congrArg (16 * ·) (congrFun (congrFun (congrArg _ ?_) 0) _)
    funext m c
    rw [h2 (by simp) (by decide)]
  have h5 : t.frameRange n z = s.frameRange n z := by
    simp only [State.frameRange, State.mapFrames, State.shlSideFrames, State.basSideFrames, State.deepSideFrames, h4]
    rw [h1 (by simp [layoutFlds]), h1 (by simp [layoutFlds]), h1 (by simp [layoutFlds]), h1 (by simp [layoutFlds])]
  simp only [State.findFrame, h3, h5]

end

/-! ## A command begins -/

section
variable {s t : State} {op arg : Nat}

/-- The state in which a tier command has begun. -/
def State.tierBegun (s : State) (op arg : Nat) : State :=
  ((s.setFld .tier Reg.TIER_CMD_ARG arg).setFld .tier Reg.TIER_CMD_OP op).setFld .tier Reg.TIER_CMD_BUSY 1

/-- The first page a tier command names. -/
def State.tierCmdFirst (s : State) : Nat :=
  s.fldAddr .tier Reg.TIER_CMD_ADDR_LO_ADDR_LO Reg.TIER_CMD_ADDR_HI_ADDR_HI / 65536

def tierCmdPlaces : List Place := [Reg.TIER_CMD_OP.place .tier, Reg.TIER_CMD_ARG.place .tier, Reg.TIER_CMD_BUSY.place .tier]

theorem State.tierBegun_changes {cs : List Comp} : s.changes (s.tierBegun op arg) cs tierCmdPlaces [] :=
  .setFld (.setFld (.setFld .refl (by simp [tierCmdPlaces])) (by simp [tierCmdPlaces])) (by simp [tierCmdPlaces])

theorem State.tierCmd_begun (h : s.ready .tier = true) (hb : s.fld .tier Reg.TIER_CMD_BUSY = 0) (ha : arg < 4)
    (hx : arg = 0 → op ≠ 0 ∧ op ≠ 3) : s.tierCmd op arg = (s.tierBegun op arg).tierCmdPages
      { op := op, arg := arg, first := s.tierCmdFirst, count := s.fld .tier Reg.TIER_CMD_COUNT_COUNT, done := 0, result := 3 }
      (s.fld .tier Reg.TIER_CMD_COUNT_COUNT) := by
  have hb' : s.flag .tier Reg.TIER_CMD_BUSY = false := by simp [State.flag, hb]
  have hbad : ¬ (arg = 0 ∧ (op = 0 ∨ op = 3)) := fun h => by have := hx h.1; omega
  have ha' : arg < 2 ^ Reg.TIER_CMD_ARG.width := ha
  have harg : ((s.setFld .tier Reg.TIER_CMD_ARG arg).setFld .tier Reg.TIER_CMD_OP op).fld .tier Reg.TIER_CMD_ARG = arg := by
    simp +decide [State.fld_eq, ha']
  simp only [State.tierCmd, State.ifReady_pos h, hb', Bool.false_eq_true, if_false, hbad, harg]
  have h1 : ((s.setFld .tier Reg.TIER_CMD_ARG arg).setFld .tier Reg.TIER_CMD_OP op).fldAddr .tier
      Reg.TIER_CMD_ADDR_LO_ADDR_LO Reg.TIER_CMD_ADDR_HI_ADDR_HI / 65536 = s.tierCmdFirst := by
    simp +decide [State.fldAddr, State.fld_eq, State.tierCmdFirst]
  have h2 : ((s.setFld .tier Reg.TIER_CMD_ARG arg).setFld .tier Reg.TIER_CMD_OP op).fld .tier Reg.TIER_CMD_COUNT_COUNT =
      s.fld .tier Reg.TIER_CMD_COUNT_COUNT := by simp +decide [State.fld_eq]
  rw [h1, h2]
  rfl

theorem State.tierBegun_spec (ho : op < 8) : (s.tierBegun op arg).fld .tier Reg.TIER_CMD_BUSY = 1 ∧
    (s.tierBegun op arg).fld .tier Reg.TIER_CMD_OP = op := by
  have ho' : op < 2 ^ Reg.TIER_CMD_OP.width := ho
  constructor
  · simp +decide [State.tierBegun, State.fld_eq]
  · simp +decide [State.tierBegun, State.fld_eq, ho']

@[simp] theorem State.tier_tierBegun : (s.tierBegun op arg).tier = s.tier := by simp [State.tierBegun]
@[simp] theorem State.mem_tierBegun : (s.tierBegun op arg).mem = s.mem := by simp [State.tierBegun]

end

/-! ## Its pages -/

section
variable {s : State} {c : TierCmd} {g : Leaf → Leaf}

/-- The i-th page of a command. -/
def TierCmd.page (c : TierCmd) (i : Nat) : Nat := (c.first + i) % 2 ^ 31

theorem TierCmd.page_ne (hc : c.count ≤ 2 ^ 31) {i j : Nat} (hi : i < c.count) (hj : j < c.count) (h : i ≠ j) :
    c.page i ≠ c.page j := by
  simp only [TierCmd.page]
  omega

/-- A command whose operation changes each leaf by g has changed the last k leaves and is through. -/
theorem State.tierCmdPages_leaves
    (hop : ∀ (s : State) p, (s.leaf p).st ≠ .inTransit → s.tierOp p c.op c.arg = some (false, s.setLeaf p (g (s.leaf p))))
    (hc : c.count ≤ 2 ^ 31) {k : Nat} (hk : k ≤ c.count) (hst : ∀ i, c.count - k ≤ i → i < c.count → (s.leaf (c.page i)).st ≠ .inTransit) :
    ((s.tierCmdPages c k).tier.cmd = some { c with done := c.count, result := 0 }) ∧
    (∀ i, c.count - k ≤ i → i < c.count → (s.tierCmdPages c k).leaf (c.page i) = g (s.leaf (c.page i))) ∧
    (∀ i, i < c.count - k → (s.tierCmdPages c k).leaf (c.page i) = s.leaf (c.page i)) ∧
    s.changes (s.tierCmdPages c k) [.tier] [] [] := by
  induction k generalizing s with
  | zero => exact ⟨rfl, fun i h1 h2 => by omega, fun i _ => rfl, .setTier .refl⟩
  | succ k ih =>
    have hp : s.tierOp (c.page (c.count - (k + 1))) c.op c.arg =
        some (false, s.setLeaf (c.page (c.count - (k + 1))) (g (s.leaf (c.page (c.count - (k + 1)))))) :=
      hop s _ (hst _ (Nat.le_refl _) (by omega))
    have he : s.tierCmdPages c (k + 1) =
        (s.setLeaf (c.page (c.count - (k + 1))) (g (s.leaf (c.page (c.count - (k + 1)))))).tierCmdPages c k := by
      rw [State.tierCmdPages]
      simp only [TierCmd.page] at hp ⊢
      rw [hp]
    have hne : ∀ i, i < c.count → i ≠ c.count - (k + 1) → c.page i ≠ c.page (c.count - (k + 1)) :=
      fun i hi hn => TierCmd.page_ne hc hi (by omega) hn
    have hleaf : ∀ i, i < c.count → i ≠ c.count - (k + 1) →
        (s.setLeaf (c.page (c.count - (k + 1))) (g (s.leaf (c.page (c.count - (k + 1)))))).leaf (c.page i) = s.leaf (c.page i) :=
      fun i hi hn => State.leaf_setLeaf_other (hne i hi hn)
    obtain ⟨h1, h2, h3, h4⟩ := ih (s := s.setLeaf (c.page (c.count - (k + 1))) (g (s.leaf (c.page (c.count - (k + 1))))))
      (by omega) fun i hi hlt => by rw [hleaf i hlt (by omega)]; exact hst i (by omega) hlt
    rw [he]
    refine ⟨h1, fun i hi hlt => ?_, fun i hi => ?_, State.changes_trans (.setLeaf .refl) h4⟩
    · by_cases e : i = c.count - (k + 1)
      · subst e
        rw [h3 _ (by omega), State.leaf_setLeaf_same]
      · rw [h2 i (by omega) hlt, hleaf i hlt e]
    · rw [h3 i (by omega), hleaf i (by omega) (by omega)]

/-- A command of one page that is applied. -/
theorem State.tierCmdPages_one {t : State} (h1 : c.count = 1) (hp : c.first < 2 ^ 31)
    (h : s.tierOp c.first c.op c.arg = some (false, t)) :
    s.tierCmdPages c 1 = t.setTier { t.tier with cmd := some { c with done := 1, result := 0 } } := by
  simp only [State.tierCmdPages, h1, Nat.sub_self, Nat.add_zero, Nat.mod_eq_of_lt hp]
  rw [h]

end

section
variable {s : State} {p a : Nat}

theorem State.tierOp_unpin (h : (s.leaf p).st ≠ .inTransit) :
    s.tierOp p 1 a = some (false, s.setLeaf p { s.leaf p with pin := 0 }) := by
  simp [State.tierOp, h]

theorem State.tierOp_hint (h : (s.leaf p).st ≠ .inTransit) :
    s.tierOp p 2 a = some (false, s.setLeaf p { s.leaf p with hint := Fin.ofNat 4 a }) := by
  simp [State.tierOp, h]

/-- A pin of a page that needs no move. -/
theorem State.tierOp_pin (h : (s.leaf p).st = .resident (tierOf (a - 1)) ∨ (s.leaf p).st = .unwritten ∨ (s.leaf p).st = .poisoned ∨
    (s.leaf p).st = .remote) : s.tierOp p 0 a = some (false, s.setLeaf p { s.leaf p with pin := Fin.ofNat 4 a }) := by
  rcases h with h | h | h | h <;> simp [State.tierOp, h]

theorem State.tierOp_free (h : (s.leaf p).st ≠ .inTransit) (hr : (s.leaf p).st ≠ .remote) :
    s.tierOp p 4 a = some (false, s.freePage p) := by
  simp [State.tierOp, h, hr]

/-- A freed page: its home is freed where it has one, its bytes and its side record read 0, its leaf keeps pin and hint. -/
theorem State.freePage_eq (s : State) (p : Nat) : ∃ t, (t = s ∨ t = s.freeHome p (s.leaf p)) ∧
    s.freePage p = (({ t with mem := Map.clear t.mem (p * 65536) 65536 } : State).setTier
      { t.tier with sideMem := Map.clear t.tier.sideMem (p * 2176) 2176 }).setLeaf p
        { pin := (s.leaf p).pin, hint := (s.leaf p).hint } := by
  cases h : (s.leaf p).st
  case resident | poisoned => exact ⟨_, .inr rfl, by simp only [State.freePage, h]⟩
  all_goals exact ⟨_, .inl rfl, by simp only [State.freePage, h]⟩

theorem State.freePage_changes {fs : List Place} {ns : List (Page × Nat)} : s.changes (s.freePage p) [.tier, .mem] fs ns := by
  obtain ⟨t, ht, e⟩ := s.freePage_eq p
  have h : s.changes t [.tier, .mem] fs ns := by
    rcases ht with rfl | rfl
    · exact .refl
    · exact .freeHome .refl
  rw [e]
  exact .setLeaf (.setTier h.upd)

@[simp] theorem State.mem_freeHome {l : Leaf} : (s.freeHome p l).mem = s.mem := by
  simp only [State.freeHome]
  split <;> rfl

theorem State.mem_freePage : (s.freePage p).mem = Map.clear s.mem (p * 65536) 65536 := by
  obtain ⟨t, ht, e⟩ := s.freePage_eq p
  rw [e]
  rcases ht with rfl | rfl <;> simp

/-- The migration of a local move of a page without a side record. -/
def State.moveMig (s : State) (p : Nat) (dst : TierName) (f : Nat) : Mig :=
  { page := p, prev := s.leaf p, kind := .localMove, dstTier := dst, dstFrame := f, dstSide := 0, start := s.now, bytes := 65536,
    staged := [], later := [], sided := false }

theorem State.startMove_eq {dst : TierName} {f : Nat} {t0 : TierName} (h : (s.leaf p).st = .resident t0) (hne : t0 ≠ dst)
    (hs : (s.leaf p).side = false) (hroom : s.migRoom = true) (hfill : p ∉ s.tier.filling)
    (hf : s.findFrame dst (zoneOf p) = some f) : s.startMove p dst =
      (true, ((s.useFrame dst f true).addMig (s.moveMig p dst f)).setLeaf p { s.leaf p with st := .inTransit }) := by
  simp only [State.startMove, h, hne, hroom, hfill, hf, hs, State.moveMig, not_true_eq_false, or_self, if_false, Bool.false_eq_true]

theorem State.tierOp_move {dst : TierName} {f : Nat} {t0 : TierName} (hd : dst = tierOf (a - 1)) (h : (s.leaf p).st = .resident t0)
    (hne : t0 ≠ dst) (hs : (s.leaf p).side = false) (hroom : s.migRoom = true) (hfill : p ∉ s.tier.filling)
    (hf : s.findFrame dst (zoneOf p) = some f) : s.tierOp p 3 a =
      some (false, ((s.useFrame dst f true).addMig (s.moveMig p dst f)).setLeaf p { s.leaf p with st := .inTransit }) := by
  subst hd
  have hm := State.startMove_eq h hne hs hroom hfill hf
  simp [State.tierOp, h, hne, hroom, hfill, hm]

end

theorem completes.imp {c : Instr} {s : State} {P Q : State → Prop} (h : completes c s P) (k : ∀ t, P t → Q t) : completes c s Q := by
  obtain ⟨t, e, hp⟩ := h
  exact ⟨t, e, k t hp⟩

section
variable {s : State} {i : Instr} {op arg first n : Nat}

/-- A command whose operation changes each leaf by g, and applies to every page of its range. -/
theorem completes.tierLeaves {g : Leaf → Leaf} (e : exec i s = .next (s.tierCmd op arg)) (h : s.ready .tier = true)
    (hb : s.fld .tier Reg.TIER_CMD_BUSY = 0) (hfirst : first = s.tierCmdFirst) (hn : n = s.fld .tier Reg.TIER_CMD_COUNT_COUNT)
    (ha : arg < 4) (ho : op = 1 ∨ op = 2)
    (hop : ∀ (s : State) p, (s.leaf p).st ≠ .inTransit → s.tierOp p op arg = some (false, s.setLeaf p (g (s.leaf p))))
    (hst : ∀ i, i < n → (s.leaf ((first + i) % 2 ^ 31)).st ≠ .inTransit) :
    completes i s fun t => t.fld .tier Reg.TIER_CMD_BUSY = 1 ∧ t.fld .tier Reg.TIER_CMD_OP = op ∧
      (t.tier.cmd = some { op := op, arg := arg, first := first, count := n, done := n, result := 0 }) ∧
      (∀ i, i < n → t.leaf ((first + i) % 2 ^ 31) = g (s.leaf ((first + i) % 2 ^ 31))) ∧ s.changes t [.tier] tierCmdPlaces [] := by
  have hlt : n < 2 ^ 24 := hn ▸ s.fld_lt ..
  have hbegin := State.tierCmd_begun (op := op) h hb ha (by omega)
  rw [← hn, ← hfirst] at hbegin
  obtain ⟨b1, b2⟩ := State.tierBegun_spec (s := s) (op := op) (arg := arg) (by omega)
  obtain ⟨k1, k2, k3, k4⟩ := State.tierCmdPages_leaves (s := s.tierBegun op arg)
    (c := { op := op, arg := arg, first := first, count := n, done := 0, result := 3 }) hop (by dsimp only; omega) (Nat.le_refl n)
    (fun i _ hi => by simpa [State.leaf, TierCmd.page] using hst i hi)
  refine .next ⟨(k4.fld (by simp)).trans b1, (k4.fld (by simp)).trans b2, k1, fun i hi => ?_,
    State.changes_trans State.tierBegun_changes (State.changes_mono k4 (by simp) (by simp) (by simp))⟩ (e.trans (congrArg _ hbegin))
  exact (k2 i (by simp) hi).trans (by simp [State.leaf, TierCmd.page])

/-- A command of one page, which its operation takes to another state. -/
theorem completes.tierOne {f : State → State} {cs : List Comp} {P : State → Prop} (e : exec i s = .next (s.tierCmd op arg))
    (h : s.ready .tier = true) (hb : s.fld .tier Reg.TIER_CMD_BUSY = 0) (hfirst : first = s.tierCmdFirst)
    (hn : n = s.fld .tier Reg.TIER_CMD_COUNT_COUNT) (ha : arg < 4) (ho : op < 8) (hx : arg = 0 → op ≠ 0 ∧ op ≠ 3) (h1 : n = 1)
    (hlt : first < 2 ^ 31) (hop : (s.tierBegun op arg).tierOp first op arg = some (false, f (s.tierBegun op arg)))
    (hf : ∀ s : State, s.changes (f s) cs [] []) (hc : .tier ∈ cs)
    (hP : P ((f (s.tierBegun op arg)).setTier { (f (s.tierBegun op arg)).tier with
      cmd := some { op := op, arg := arg, first := first, count := n, done := n, result := 0 } })) :
    completes i s fun t => t.fld .tier Reg.TIER_CMD_BUSY = 1 ∧ t.fld .tier Reg.TIER_CMD_OP = op ∧
      (t.tier.cmd = some { op := op, arg := arg, first := first, count := n, done := n, result := 0 }) ∧
      P t ∧ s.changes t cs tierCmdPlaces [] := by
  have hbegin := State.tierCmd_begun (op := op) h hb ha hx
  rw [← hn, ← hfirst] at hbegin
  subst h1
  rw [State.tierCmdPages_one rfl hlt hop] at hbegin
  obtain ⟨b1, b2⟩ := State.tierBegun_spec (s := s) (op := op) (arg := arg) ho
  have k := hf (s.tierBegun op arg)
  refine .next ⟨?_, ?_, rfl, hP, .setTier (State.changes_trans State.tierBegun_changes (State.changes_mono k (by simp) (by simp) (by simp))) hc⟩
    (e.trans (congrArg _ hbegin))
  · rw [State.fld_setTier, k.fld (by simp), b1]
  · rw [State.fld_setTier, k.fld (by simp), b2]

end

/-- Settles O12: a command begins, then its operation is applied to each page. -/
theorem tierCommandsRun : Obligations.TierCommandsRun := by
  unfold Obligations.TierCommandsRun
  refine ⟨fun s first n h hb hfirst hn hst => ?_, fun s arg first n h hb hfirst hn hst => ?_, fun s arg first n h hb hfirst hn ha h1 hp hst => ?_,
    fun s arg first n t0 f h hb hfirst hn ha h1 hp hst hne hs hm hfill hf => ?_, fun s first n h hb hfirst hn h1 hp hst hr => ?_,
    fun s a h hb => ?_, fun s c hc hr => ?_⟩
  · exact .tierLeaves (g := fun l => { l with pin := 0 }) rfl h hb hfirst hn (s.fld_lt ..) (.inl rfl)
      (fun s p h => State.tierOp_unpin h) hst
  · exact .tierLeaves (g := fun l => { l with hint := arg }) rfl h hb hfirst hn arg.isLt (.inr rfl)
      (fun s p h => (State.tierOp_hint h).trans (by simp)) hst
  · refine (completes.tierOne (op := 0) (f := fun s => s.setLeaf first { s.leaf first with pin := Fin.ofNat 4 arg.val }) (cs := [.tier])
      (P := fun t => t.leaf first = { s.leaf first with pin := arg } ∧ othersSame {} s.tier.pages t.tier.pages [first]) rfl h hb hfirst hn arg.isLt
      (by omega) (fun e => absurd (Fin.ext e) ha) h1 hp (State.tierOp_pin (by simpa [State.leaf] using hst)) (fun s => .setLeaf .refl)
      (by simp) ⟨?_, ?_⟩).imp fun t ⟨k1, k2, k3, ⟨k4, k5⟩, k6⟩ => ⟨k1, k2, k3, k4, k5, k6⟩
    · simp [State.leaf, State.setTier]
    · simp [State.setTier]
  · have hff : (s.tierBegun 3 arg.val).findFrame (tierOf (arg.val - 1)) (zoneOf first) = some f :=
      (State.findFrame_of_changes (State.tierBegun_changes (cs := [])) (by simp +decide [tierCmdPlaces, Place.offLayout, Fld.place])
        (by simp) (by simp) _ _).trans hf
    refine (completes.tierOne (op := 3) (f := fun s => ((s.useFrame (tierOf (arg.val - 1)) f true).addMig
      (s.moveMig first (tierOf (arg.val - 1)) f)).setLeaf first { s.leaf first with st := .inTransit }) (cs := [.tier])
      (P := fun t => t.leaf first = { s.leaf first with st := .inTransit } ∧ ∃ m ∈ t.tier.migs, m.page = first ∧ m.kind = .localMove ∧
        m.dstTier = tierOf (arg.val - 1) ∧ m.dstFrame = f) rfl h hb hfirst hn arg.isLt
      (by omega) (fun e => absurd (Fin.ext e) ha) h1 hp (State.tierOp_move rfl (t0 := t0) ?_ hne ?_ ?_ ?_ hff)
      (fun s => .setLeaf (.setTier (.useFrame .refl))) (by simp) ⟨?_, State.moveMig s first (tierOf (arg.val - 1)) f, ?_, rfl, rfl, rfl, rfl⟩).imp
      fun t ⟨k1, k2, k3, ⟨k4, k5⟩, k6⟩ => ⟨k1, k2, k3, k4, k5, k6⟩
    · simpa [State.leaf] using hst
    · simpa [State.leaf] using hs
    · simpa [State.migRoom, State.slotsBusy] using hm
    · simpa using hfill
    · simp [State.leaf, State.setTier]
    · simp [State.setTier, State.addMig, State.moveMig, State.leaf, State.tierBegun]
  · refine (completes.tierOne (op := 4) (f := fun s => s.freePage first) (cs := [.tier, .mem])
      (P := fun t => t.leaf first = { pin := (s.leaf first).pin, hint := (s.leaf first).hint } ∧
        t.mem = Map.clear s.mem (first * 65536) 65536) rfl h hb hfirst hn (s.fld_lt ..) (by omega) (by omega) h1 hp
      (State.tierOp_free (by simpa [State.leaf] using hst) (by simpa [State.leaf] using hr)) (fun s => ?_) (by simp) ⟨?_, ?_⟩).imp
      fun t ⟨k1, k2, k3, ⟨k4, k5⟩, k6⟩ => ⟨k1, k2, k3, k4, k5, k6⟩
    · exact State.freePage_changes
    · simp [State.leaf, State.setTier, State.freePage]
    · exact State.mem_freePage.trans (by simp)
  · have hb' : s.flag .tier Reg.TIER_CMD_BUSY = true := by simp [State.flag, hb]
    have hc (op arg : Nat) : s.tierCmd op arg = s.err .tier 0x05 := (State.ifReady_pos h _).trans (if_pos hb')
    exact ⟨_, congrArg Host.Outcome.next (hc ..), congrArg Host.Outcome.next (hc ..), congrArg Host.Outcome.next (hc ..), congrArg Host.Outcome.next (hc ..), congrArg Host.Outcome.next (hc ..),
      s.err_erred _ _ (by decide), s.err_changes ..⟩
  · have e : exec .tierCmdDone s = .next (((((s.setTier { s.tier with cmd := none }).setFld .tier Reg.TIER_CMD_BUSY 0).setFld .tier
        Reg.TIER_CMD_RESULT c.result).setFld .tier Reg.TIER_CMD_DONE_DONE c.done).irq .tier 0) := by
      simp only [exec, execTierCmdDone, hc, hr, if_false]
    have hch : s.changes ((((s.setTier { s.tier with cmd := none }).setFld .tier Reg.TIER_CMD_BUSY 0).setFld .tier
        Reg.TIER_CMD_RESULT c.result).setFld .tier Reg.TIER_CMD_DONE_DONE c.done) [.tier]
        [Reg.TIER_CMD_BUSY.place .tier, Reg.TIER_CMD_RESULT.place .tier, Reg.TIER_CMD_DONE_DONE.place .tier] [] :=
      .setFld (.setFld (.setFld (.setTier .refl)))
    refine .next ⟨?_, ?_, ?_, ?_, hch.raised (by simp +decide [Place.apart_of]), ?_,
      .irq (.setFld (.setFld (.setFld (.setTier .refl))))⟩ e
    · simp [State.setTier]
    · simp +decide -implicitDefEqProofs [State.fld_eq]
    · simp +decide [State.fld_eq, regFld_setFld_mod]
      rfl
    · simp +decide [State.fld_eq, regFld_setFld_mod]
      rfl
    · exact hch.out_irq_eq (by simp) (by simp) (by simp +decide [messageFlds, Place.apart_of])

end Sys2Proof.Machine
end

section
/-! PROOFS. Records of the ledger, slot states, and the recovery commands (R364, R365, R367). -/

namespace Sys2Proof.Machine
open Sys2Proof

/-! ## Bytes of a record -/

theorem natOfBytes_byte (b : List Byte) (i : Nat) : natOfBytes b / 256 ^ i % 256 = (b.getD i 0).toNat := by
  induction b generalizing i with
  | nil => simp [natOfBytes]
  | cons x b ih =>
    have hx : x.toNat < 256 := x.isLt
    cases i with
    | zero =>
      simp only [natOfBytes, List.getD_cons_zero, Nat.pow_zero, Nat.div_one]
      omega
    | succ i =>
      rw [List.getD_cons_succ, ← ih, natOfBytes, Nat.pow_succ', ← Nat.div_div_eq_div_mul]
      congr 2
      omega

theorem bits_mod {v n lo w : Nat} (h : lo + w ≤ n) : bits (v % 2 ^ n) lo w = bits v lo w := by
  apply Nat.eq_of_testBit_eq
  intro i
  rw [bits_testBit, bits_testBit, Nat.testBit_mod_two_pow]
  by_cases hi : i < w
  · simp [hi, show lo + i < n by omega]
  · simp [hi]

/-- A byte of a record written from its bytes. -/
theorem BV_ofBytes (b : List Byte) {i : Nat} (hi : i < 128) :
    BV (BitVec.ofNat 1024 (natOfBytes b)) (8 * i) 8 = (b.getD i 0).toNat := by
  rw [BV, BitVec.toNat_ofNat, bits_mod (by omega), bits, Nat.pow_mul]
  exact natOfBytes_byte b i

theorem recKey_ledgRec {t : Nat} (ht : t < 256) (k : Nat) (d : List Byte) : (recKey (ledgRec t k d)).1 = t := by
  have h := BV_ofBytes (List.flatten [bytesOfNat 6 0, bytesOfNat 1 t, bytesOfNat 1 (if ledgKeyed t then 1 else 0), bytesOfNat 2 k,
    bytesOfNat 2 d.length, [0, 0, 0, 0], d.take 108]) (i := 6) (by omega)
  simp only [recKey, ledgRec]
  refine h.trans ?_
  simp [bytesOfNat, Nat.mod_eq_of_lt ht]

/-- A data byte of a record. -/
theorem recByte_ledgRec (t k : Nat) (d : List Byte) {i : Nat} (hi : i < 108) : recByte (ledgRec t k d) i = (d.getD i 0).toNat := by
  have h := BV_ofBytes (List.flatten [bytesOfNat 6 0, bytesOfNat 1 t, bytesOfNat 1 (if ledgKeyed t then 1 else 0), bytesOfNat 2 k,
    bytesOfNat 2 d.length, [0, 0, 0, 0], d.take 108]) (i := 16 + i) (by omega)
  simp only [recByte, ledgRec]
  rw [show 128 + 8 * i = 8 * (16 + i) by omega]
  refine h.trans ?_
  rw [show List.flatten [bytesOfNat 6 0, bytesOfNat 1 t, bytesOfNat 1 (if ledgKeyed t then 1 else 0), bytesOfNat 2 k,
    bytesOfNat 2 d.length, [0, 0, 0, 0], d.take 108] = (bytesOfNat 6 0 ++ bytesOfNat 1 t ++ bytesOfNat 1 (if ledgKeyed t then 1 else 0) ++
      bytesOfNat 2 k ++ bytesOfNat 2 d.length ++ [0, 0, 0, 0]) ++ d.take 108 by simp, List.getD_append_right _ _ _ _ (by simp)]
  simp [List.getElem?_take, hi]

/-! ## The Wellhead and the ledger replaced -/

/-- The state with the Wellhead replaced. -/
def State.setWlh (s : State) (w : Wlh) : State := { s with wlh := w }

/-- The state with the ledger replaced. -/
def State.setLedger (s : State) (l : Ledger) : State := { s with ledger := l }

section
variable {s t : State} {cs l : List Comp} {fs : List Place} {ns : List (Page × Nat)} {w : Wlh} {g : Ledger}

@[simp] theorem State.wlh_setWlh : (s.setWlh w).wlh = w := rfl
@[simp] theorem State.ledger_setLedger : (s.setLedger g).ledger = g := rfl
@[simp] theorem State.wlh_setLedger : (s.setLedger g).wlh = s.wlh := rfl
@[simp] theorem State.out_setWlh : (s.setWlh w).out = s.out := rfl

theorem State.changes.setWlh (h : s.changes t cs fs ns) (hm : .wlh ∈ cs := by simp) : s.changes (t.setWlh w) cs fs ns :=
  h.upd (fun c hc => by cases c <;> first | rfl | exact absurd (by simp [hm]) hc) rfl rfl rfl

theorem State.changes.setLedger (h : s.changes t cs fs ns) (hm : .ledger ∈ cs := by simp) : s.changes (t.setLedger g) cs fs ns :=
  h.upd (fun c hc => by cases c <;> first | rfl | exact absurd (by simp [hm]) hc) rfl rfl rfl

theorem State.keeps.setWlh (h : s.keeps t l) (hm : .wlh ∈ l := by simp) : s.keeps (t.setWlh w) l :=
  h.upd fun c hc => by cases c <;> first | rfl | exact absurd hm hc

theorem State.keeps.setLedger (h : s.keeps t l) (hm : .ledger ∈ l := by simp) : s.keeps (t.setLedger g) l :=
  h.upd fun c hc => by cases c <;> first | rfl | exact absurd hm hc

theorem State.keeps.send {o : Out} (h : s.keeps t l) (hm : .out ∈ l := by simp) : s.keeps (t.send o) l :=
  h.upd fun c hc => by cases c <;> first | rfl | exact absurd hm hc

theorem State.keeps.count {pg : Page} {o n : Nat} (h : s.keeps t l) (hm : .cnt ∈ l := by simp) : s.keeps (t.count pg o n) l :=
  h.upd fun c hc => by cases c <;> first | rfl | exact absurd hm hc

end

/-! ## Records written -/

theorem imgOf_imgCode (x : ImgState) : imgOf (imgCode x) = x := by cases x <;> rfl

section
variable {s : State} {a b x : ImgState} {i j n : Nat} {slotB : Bool}

theorem recType_imgRec : (recKey (imgRec a i b j)).1 = 0x03 := recKey_ledgRec (by omega) ..

theorem recByte_imgRec : recByte (imgRec a i b j) 0 = imgCode a ∧ recByte (imgRec a i b j) 1 = i % 256 ∧
    recByte (imgRec a i b j) 2 = imgCode b ∧ recByte (imgRec a i b j) 3 = j % 256 := by
  have ha : imgCode a < 256 := by cases a <;> decide
  have hb : imgCode b < 256 := by cases b <;> decide
  simp only [imgRec]
  rw [recByte_ledgRec _ _ _ (by omega), recByte_ledgRec _ _ _ (by omega), recByte_ledgRec _ _ _ (by omega), recByte_ledgRec _ _ _ (by omega)]
  simp [bytesOfNat, Nat.mod_eq_of_lt ha, Nat.mod_eq_of_lt hb]

/-- What the ledger shows is in its registers. -/
theorem State.ledgerShow_keeps (s : State) : s.keeps s.ledgerShow [.regs] := by
  intro c hc
  have h : s.changes s.ledgerShow [] [Reg.LEDG_STAT_RO.place .ledg, Reg.LEDG_STAT_SPARES.place .ledg, Reg.LEDG_STAT_SEQ_END.place .ledg,
      Reg.LEDG_SEQ_NEXT.place .ledg] [] := .setFld (.setFld (.setFld (.setFld .refl)))
  by_cases hn : c = .cnt
  · subst hn
    simp [Comp.same, State.ledgerShow]
  · exact h.1 c (by simpa [hn] using hc)

theorem State.wlhShow_keeps (s : State) : s.keeps s.wlhShow [.regs] := by
  intro c hc
  have h : s.changes s.wlhShow [] [Reg.WLH_STAT_BOOTED.place .wlh, Reg.WLH_STAT_STATE_A.place .wlh, Reg.WLH_STAT_STATE_B.place .wlh,
      Reg.WLH_STAT_TRIES.place .wlh, Reg.WLH_STAT_SVN_FLOOR.place .wlh] [] := .setFld (.setFld (.setFld (.setFld (.setFld .refl))))
  by_cases hn : c = .cnt
  · subst hn
    simp [Comp.same, State.wlhShow]
  · exact h.1 c (by simpa [hn] using hc)

/-- A record in the ledger, and what its pages then show. -/
def State.ledgerShown (s : State) (r : BitVec 1024) : State :=
  (((s.setLedger (s.ledger.append r).1).count .ledg 0x80).count .ledg 0x98 (s.ledger.append r).2).ledgerShow

/-- The Wellhead with the slots' states of a record. -/
def Wlh.withImgs (w : Wlh) (r : BitVec 1024) : Wlh :=
  { w with stA := imgOf (recByte r 0), triesA := recByte r 1, stB := imgOf (recByte r 2), triesB := recByte r 3 }

theorem State.ledgerWritten_eq (s : State) (r : BitVec 1024) : s.ledgerWritten r =
    if (recKey r).1 = 0x03 then ((s.ledgerShown r).setWlh ((s.ledgerShown r).wlh.withImgs r)).wlhShow else s.ledgerShown r := rfl

theorem State.ledgerShown_keeps (s : State) (r : BitVec 1024) : s.keeps (s.ledgerShown r) [.regs, .cnt, .wlh, .ledger] :=
  State.keeps_mono (State.keeps_trans (l := [.ledger, .cnt]) (.count (.count (.setLedger (s.keeps_refl _)))) (State.ledgerShow_keeps _))
    (by simp)

theorem State.ledgerWritten_keeps (s : State) (r : BitVec 1024) : s.keeps (s.ledgerWritten r) [.regs, .cnt, .wlh, .ledger] := by
  rw [State.ledgerWritten_eq]
  split
  · exact State.keeps_mono (State.keeps_trans (.setWlh (s.ledgerShown_keeps r)) (State.wlhShow_keeps _)) (by simp)
  · exact s.ledgerShown_keeps r

theorem State.ledgerPut_keeps (s : State) (r : BitVec 1024) : s.keeps (s.ledgerPut r) [.regs, .cnt, .wlh, .ledger] := by
  simp only [State.ledgerPut]
  split
  · exact s.keeps_refl _
  · exact s.ledgerWritten_keeps r

theorem State.wlh_wlhShow : s.wlhShow.wlh = s.wlh := s.wlhShow_keeps .wlh (by simp)

theorem State.wlh_ledgerShown {r : BitVec 1024} : (s.ledgerShown r).wlh = s.wlh := State.ledgerShow_keeps _ .wlh (by simp)

/-- A record of the slots' states is their state from now on. -/
theorem State.wlh_ledgerWritten_imgRec : (s.ledgerWritten (imgRec a i b j)).wlh =
    { s.wlh with stA := a, triesA := i % 256, stB := b, triesB := j % 256 } := by
  obtain ⟨h0, h1, h2, h3⟩ := recByte_imgRec (a := a) (b := b) (i := i) (j := j)
  simp only [State.ledgerWritten_eq, recType_imgRec, if_true, State.wlh_wlhShow, State.wlh_setWlh, State.wlh_ledgerShown, Wlh.withImgs,
    h0, h1, h2, h3, imgOf_imgCode]

/-- Any other record leaves them. -/
theorem State.wlh_ledgerPut {r : BitVec 1024} (h : (recKey r).1 ≠ 0x03) : (s.ledgerPut r).wlh = s.wlh := by
  simp only [State.ledgerPut, State.ledgerWritten_eq, h, if_false]
  split
  · rfl
  · exact State.wlh_ledgerShown

/-- A slot's state set while the ledger takes records. -/
theorem State.setImg_spec (h : s.ledger.closed = false) : (s.setImg slotB x n).img slotB = x ∧
    (s.setImg slotB x n).img (!slotB) = s.img (!slotB) ∧ ∃ a i b j, (s.setImg slotB x n).wlh =
      { s.wlh with stA := a, triesA := i, stB := b, triesB := j } := by
  cases slotB <;> simp only [State.setImg, State.ledgerPut, h, Bool.false_eq_true, if_false, if_true, State.img,
    State.wlh_ledgerWritten_imgRec, Bool.not_false, Bool.not_true, true_and] <;> exact ⟨_, _, _, _, rfl⟩

theorem State.setImg_keeps : s.keeps (s.setImg slotB x n) [.regs, .cnt, .wlh, .ledger] := s.ledgerPut_keeps _

/-- The Wellhead that has recorded the intent to erase a sector. -/
def Wlh.intending (w : Wlh) (k : Nat) : Wlh :=
  { w with sectors := Map.set {} w.sectors k { Map.get {} w.sectors k with intent := true } }

theorem State.eraseSector_eq (s : State) (k : Nat) : s.eraseSector k =
    ((s.setWlh (s.wlh.intending k)).ledgerPut (ledgRec 0x04 k [])).send (.spi true k) := rfl

/-- An erase begins: its record, and the command to the flash. -/
theorem State.eraseSector_spec {k : Nat} : (s.eraseSector k).out = s.out ++ [Out.spi true k] ∧
    (s.eraseSector k).wlh = s.wlh.intending k ∧ s.keeps (s.eraseSector k) [.regs, .cnt, .wlh, .ledger, .out] := by
  have hk := State.ledgerPut_keeps (s.setWlh (s.wlh.intending k)) (ledgRec 0x04 k [])
  rw [State.eraseSector_eq]
  refine ⟨?_, ?_, ?_⟩
  · rw [State.send, hk .out (by simp), State.out_setWlh]
  · rw [State.wlh_send, State.wlh_ledgerPut (by rw [recKey_ledgRec] <;> omega), State.wlh_setWlh]
  · exact .send (State.keeps_mono (State.keeps_trans (.setWlh (l := [.wlh]) (s.keeps_refl _)) hk) (by simp))

end

/-! ## Frames of the recovery interface -/

section
variable {s t : State} {q : Byte} {cs : List Comp} {fs : List Place} {ns : List (Page × Nat)}

/-- The state with the frame under way discarded. -/
def State.noFrame (s : State) : State := { s with uart := { s.uart with frame := [] } }

theorem State.changes.noFrame (h : s.changes t cs fs ns) (hm : .uart ∈ cs := by simp) : s.changes t.noFrame cs fs ns :=
  h.upd (fun c hc => by cases c <;> first | rfl | exact absurd (by simp [hm]) hc) rfl rfl rfl

theorem State.keeps.noFrame {l : List Comp} (h : s.keeps t l) (hm : .uart ∈ l := by simp) : s.keeps t.noFrame l :=
  h.upd fun c hc => by cases c <;> first | rfl | exact absurd hm hc

@[simp] theorem State.wlh_noFrame : s.noFrame.wlh = s.wlh := rfl
@[simp] theorem State.out_noFrame : s.noFrame.out = s.out := rfl
@[simp] theorem State.cnt_noFrame : s.noFrame.cnt = s.cnt := rfl
@[simp] theorem State.slotSize_noFrame : s.noFrame.slotSize = s.slotSize := rfl

theorem State.changes.uartAnswer {a : Nat} (h : s.changes t cs fs ns) (hm : .out ∈ cs := by simp) (hn : (Page.uart, 0x80) ∈ ns := by simp) :
    s.changes (t.uartAnswer q a) cs fs ns := .count (.send h hm) hn

/-- The frame's answer leaves, counted. -/
theorem State.uartAnswer_spec {a : Nat} (ho : t.out = s.out) (hc : t.cnt = s.cnt) :
    (t.uartAnswer q a).out = s.out ++ [Out.uartReply q a] ∧ s.counted (t.uartAnswer q a) .uart 0x80 3 := by
  constructor
  · simp [State.uartAnswer, State.send, ho]
  · simp [State.counted, State.uartAnswer, State.counter_eq, hc]

theorem State.frame_bad {f : State → State × Option Nat} (h : s.recovery = true) : s.frame q false f = s.noFrame.uartAnswer q 0x0B := by
  simp only [State.frame, h, not_true_eq_false, if_false, Bool.false_eq_true, not_false_eq_true, if_true]
  rfl

theorem State.frame_again {f : State → State × Option Nat} (h : s.recovery = true) (hl : s.wlh.lastSeq = some q) :
    s.frame q true f = s.noFrame.uartAnswer q s.wlh.lastAns := by
  simp only [State.frame, h, not_true_eq_false, if_false, hl, if_true]
  rfl

/-- What a command of a frame leaves, and its answer if it has one now. -/
def State.framed (q : Byte) (x : State × Option Nat) : State :=
  let t := x.1.setWlh { x.1.wlh with lastSeq := some q, lastAns := x.2.getD 0x01 }
  x.2.elim t (t.uartAnswer q)

theorem State.frame_new {f : State → State × Option Nat} (h : s.recovery = true) (hl : s.wlh.lastSeq ≠ some q) :
    s.frame q true f = State.framed q (f s.noFrame) := by
  have hl' : ¬ (s.noFrame.wlh.lastSeq = some q) := hl
  simp only [State.frame, h, not_true_eq_false, if_false]
  refine (if_neg hl').trans ?_
  cases hx : (f s.noFrame).2 with
  | none => simp only [State.noFrame] at hx; simp only [State.framed, State.noFrame, hx]; rfl
  | some a => simp only [State.noFrame] at hx; simp only [State.framed, State.noFrame, hx]; rfl

theorem completes.frameBad {c : Instr} {f : State → State × Option Nat} (e : exec c s = .next (s.frame q false f)) (h : s.recovery = true) :
    completes c s fun t => t.out = s.out ++ [Out.uartReply q 0x0B] ∧ t.counter .uart 0x80 = min max64 (s.counter .uart 0x80 + 3) ∧
      t.uart = { s.uart with frame := [] } ∧ t.wlh = s.wlh ∧ s.changes t [.uart, .out] [] [(.uart, 0x80)] := by
  obtain ⟨h1, h2⟩ := State.uartAnswer_spec (s := s) (t := s.noFrame) (q := q) (a := 0x0B) rfl rfl
  exact .next ⟨h1, h2, rfl, rfl, .uartAnswer (.noFrame .refl)⟩ (e.trans (congrArg _ (State.frame_bad h)))

theorem completes.frameAgain {c : Instr} {f : State → State × Option Nat} (e : exec c s = .next (s.frame q true f)) (h : s.recovery = true)
    (hl : s.wlh.lastSeq = some q) :
    completes c s fun t => t.out = s.out ++ [Out.uartReply q s.wlh.lastAns] ∧
      t.counter .uart 0x80 = min max64 (s.counter .uart 0x80 + 3) ∧
      t.uart = { s.uart with frame := [] } ∧ t.wlh = s.wlh ∧ s.changes t [.uart, .out] [] [(.uart, 0x80)] := by
  obtain ⟨h1, h2⟩ := State.uartAnswer_spec (s := s) (t := s.noFrame) (q := q) (a := s.wlh.lastAns) rfl rfl
  exact .next ⟨h1, h2, rfl, rfl, .uartAnswer (.noFrame .refl)⟩ (e.trans (congrArg _ (State.frame_again h hl)))

/-- A command of a frame that acts on the Wellhead alone and is answered at once. -/
theorem completes.frameNew {c : Instr} {f : State → State × Option Nat} {w : Wlh} {a : Nat} (e : exec c s = .next (s.frame q true f))
    (h : s.recovery = true) (hl : s.wlh.lastSeq ≠ some q) (hf : f s.noFrame = (s.noFrame.setWlh w, some a)) :
    completes c s fun t => t.out = s.out ++ [Out.uartReply q a] ∧ t.counter .uart 0x80 = min max64 (s.counter .uart 0x80 + 3) ∧
      t.uart = { s.uart with frame := [] } ∧ t.wlh = { w with lastSeq := some q, lastAns := a } ∧
      s.changes t [.uart, .out, .wlh] [] [(.uart, 0x80)] := by
  have he := State.frame_new (f := f) h hl
  rw [hf] at he
  obtain ⟨h1, h2⟩ := State.uartAnswer_spec (s := s) (t := (s.noFrame.setWlh w).setWlh { w with lastSeq := some q, lastAns := a }) (q := q)
    (a := a) rfl rfl
  exact .next ⟨h1, h2, rfl, rfl, .uartAnswer (.setWlh (.setWlh (.noFrame .refl)))⟩ (e.trans (congrArg _ he))

end

/-! ## Updates begin -/

section
variable {s : State} {u : Upd}

/-- The bytes an image may have: those of a slot, and of the buffer in recovery mode. -/
def State.updRoom (s : State) (u : Upd) : Nat := if u.recovery then min s.slotSize 32505856 else s.slotSize

/-- A command that only checks, or that cannot begin, is kept with its result. -/
theorem State.startUpd_of_check (hi : u.install = false) : s.startUpd u =
    s.setWlh { s.wlh with upd := some { u with slotB := false, result := if s.updRoom u < u.len then 7 else 0 } } := by
  simp only [State.startUpd, hi, Bool.false_eq_true, false_and, if_false, Bool.false_and]
  rfl

/-- A slot is on trial or being written. -/
abbrev State.slotsIdle (s : State) : Prop :=
  s.wlh.stA ≠ .trial ∧ s.wlh.stA ≠ .writing ∧ s.wlh.stB ≠ .trial ∧ s.wlh.stB ≠ .writing

theorem State.startUpd_busy (hi : u.install = true) (h : ¬ s.slotsIdle) : s.startUpd u =
    s.setWlh { s.wlh with upd := some { u with slotB := decide (s.wlh.stA = .confirmed), result := 0x0A } } := by
  have hb : (s.wlh.stA == .trial || s.wlh.stA == .writing) = true ∨ (s.wlh.stB == .trial || s.wlh.stB == .writing) = true := by
    simp only [State.slotsIdle, Bool.or_eq_true, beq_iff_eq] at h ⊢
    tauto
  simp only [State.startUpd, hi, true_and, hb, if_true, Bool.true_and]
  rfl

theorem State.slotsIdle.not_busy (h : s.slotsIdle) :
    ¬ ((s.wlh.stA == .trial || s.wlh.stA == .writing) = true ∨ (s.wlh.stB == .trial || s.wlh.stB == .writing) = true) := by
  obtain ⟨h1, h2, h3, h4⟩ := h
  simp [h1, h2, h3, h4]

theorem State.startUpd_long (hi : u.install = true) (h : s.slotsIdle) (hl : s.updRoom u < u.len) :
    s.startUpd u = s.setWlh { s.wlh with upd := some { u with slotB := decide (s.wlh.stA = .confirmed), result := 7 } } := by
  rw [State.updRoom] at hl
  simp only [State.startUpd, hi, true_and, h.not_busy, if_true, Bool.true_and, hl, if_false]
  rfl

theorem State.goodSectors_congr {t : State} (hf : t.wlh.flashSize = s.wlh.flashSize) (hs : t.wlh.sectors = s.wlh.sectors) (b : Bool) :
    t.goodSectors b = s.goodSectors b := by simp only [State.goodSectors, State.slotSize, hf, hs]

theorem State.nextSector_zero {b : Bool} {k : Nat} {rest : List Nat} (hb : u.slotB = b) (hg : s.goodSectors b = k :: rest) :
    s.nextSector u 0 = (s.setWlh { s.wlh with upd := some { u with sector := some k, erased := false } }).eraseSector k := by
  subst hb
  simp only [State.nextSector, hg, Nat.zero_le, decide_true, List.find?_cons_of_pos]
  rfl

/-- An idle update interface of an image that fits: the slot is WRITING and its first good sector is erased. -/
theorem State.startUpd_install {k : Nat} {rest : List Nat} {b : Bool} (hi : u.install = true) (h : s.slotsIdle)
    (hb : b = decide (s.wlh.stA = .confirmed)) (hl : u.len ≤ s.updRoom u) (hg : s.goodSectors b = k :: rest)
    (hc : s.ledger.closed = false) :
    (s.startUpd u).img b = .writing ∧ (s.startUpd u).img (!b) = s.img (!b) ∧
      ((s.startUpd u).wlh.upd = some { u with slotB := b, sector := some k, erased := false }) ∧
      (s.startUpd u).out = s.out ++ [Out.spi true k] ∧ (Map.get {} (s.startUpd u).wlh.sectors k).intent = true ∧
      s.keeps (s.startUpd u) [.regs, .cnt, .wlh, .ledger, .out] := by
  have e : s.startUpd u = ((s.setWlh { s.wlh with upd := some { u with slotB := b, result := 0 } }).setImg b .writing 0).nextSector
      { u with slotB := b } 0 := by
    subst hb
    rw [State.updRoom] at hl
    simp only [State.startUpd, hi, true_and, h.not_busy, if_true, Bool.true_and, Nat.not_lt.mpr hl, hc, Bool.false_eq_true, if_false]
    rfl
  obtain ⟨v1, v2, a, i, c, j, v3⟩ := State.setImg_spec (s := s.setWlh { s.wlh with upd := some { u with slotB := b, result := 0 } })
    (slotB := b) (x := .writing) (n := 0) hc
  have v4 := State.setImg_keeps (s := s.setWlh { s.wlh with upd := some { u with slotB := b, result := 0 } }) (slotB := b) (x := .writing) (n := 0)
  generalize (s.setWlh { s.wlh with upd := some { u with slotB := b, result := 0 } }).setImg b .writing 0 = v at *
  have hv : v.goodSectors b = k :: rest := (State.goodSectors_congr (by rw [v3]; rfl) (by rw [v3]; rfl) b).trans hg
  rw [e, State.nextSector_zero rfl hv]
  obtain ⟨h1, h2, h3⟩ := State.eraseSector_spec (s := v.setWlh { v.wlh with upd := some { u with slotB := b, sector := some k, erased := false } }) (k := k)
  refine ⟨?_, ?_, ?_, ?_, ?_, ?_⟩
  · rw [← v1]
    simp only [State.img, h2, Wlh.intending, State.wlh_setWlh]
  · refine Eq.trans ?_ v2
    simp only [State.img, h2, Wlh.intending, State.wlh_setWlh]
  · rw [h2]
    rfl
  · rw [h1, State.out_setWlh, v4 .out (by simp), State.out_setWlh]
  · rw [h2, Wlh.intending]
    simp only [Map.get_set_same]
  · exact State.keeps_mono (State.keeps_trans (.setWlh (l := [.wlh]) (s.keeps_refl _))
      (State.keeps_trans v4 (State.keeps_trans (.setWlh (l := [.wlh]) (v.keeps_refl _)) h3))) (by simp)

end

theorem State.rcvGo_busy {s : State} {op : Nat} {seq : Option Byte} (h : s.wlh.upd ≠ none) :
    s.rcvGo op seq = s.setWlh { s.wlh with rcvResult := 1 } := if_pos (Option.isSome_iff_ne_none.2 h)

theorem State.rcvGo_idle {s : State} {op : Nat} {seq : Option Byte} (h : s.wlh.upd = none) : s.rcvGo op seq =
    s.startUpd { install := op == 2, boot := op == 3, len := s.wlh.rcvLen, recovery := true, seq := seq } := by
  simp [State.rcvGo, h]

/-- RUN's part of a frame (R365). -/
def runFrame (q op : Byte) (s : State) : State × Option Nat :=
  if op = 0 ∨ 3 < op.toNat then (s.draw, some (s.freeNat 8))
  else if s.wlh.upd.isSome then (s.rcvGo op.toNat none, some 0x01)
  else (s.rcvGo op.toNat (some q), none)

theorem runFrame_idle {s : State} {q op : Byte} (hop : ¬ (op = 0 ∨ 3 < op.toNat)) (hu : s.wlh.upd = none) :
    runFrame q op s.noFrame = (s.noFrame.rcvGo op.toNat (some q), none) := by
  rw [runFrame, if_neg hop]
  exact if_neg (by simp [hu])

/-- Settles O52, command by command. -/
theorem recoveryAnswers : Obligations.RecoveryAnswers := by
  unfold Obligations.RecoveryAnswers
  have hgo {s : State} {c : Instr} {op : Nat} {seq : Option Byte} (h : s.recovery = true)
      (e : exec c s = .next (if s.recovery then s.rcvGo op seq else s)) : exec c s = .next (s.rcvGo op seq) :=
    e.trans (congrArg _ (if_pos h))
  refine ⟨fun s h hu => ?_, fun s h hu => ?_, fun s h hu => ?_, fun s h hu => ?_, fun s h hu => ?_, fun s h hu hs => ?_,
    fun s h hu hs hl => ?_, fun s b k rest h hu hs hb hl hg hc => ?_, fun s q h c hc => ?_, fun s q o b h => .frameBad rfl h,
    fun s q o b h hl => .frameAgain rfl h hl, fun s q n h => .frameBad rfl h, fun s q n h hl => .frameAgain rfl h hl,
    fun s q op h => .frameBad rfl h, fun s q op h hl => .frameAgain rfl h hl, fun s q h => .frameBad rfl h,
    fun s q h hl => .frameAgain rfl h hl, fun s q o b h hl hlen => ?_, fun s q o b h hl hlen => ?_, fun s q n h hl => ?_,
    fun s q h hl => ?_, fun s q op h hl ho hu => ?_, fun s q op b k rest h hl ho hu hs hb hlen hg hc => ?_,
    fun s q op h hl ho hu => ?_, fun s q op h hl ho => ?_, fun s => .next rfl⟩
  · exact .next rfl ((hgo h rfl).trans (congrArg _ (State.rcvGo_busy hu)))
  · exact .next rfl ((hgo h rfl).trans (congrArg _ ((State.rcvGo_idle hu).trans (State.startUpd_of_check rfl))))
  · exact .next rfl ((hgo h rfl).trans (congrArg _ (State.rcvGo_busy hu)))
  · exact .next rfl ((hgo h rfl).trans (congrArg _ (State.rcvGo_busy hu)))
  · exact .next rfl ((hgo h rfl).trans (congrArg _ ((State.rcvGo_idle hu).trans (State.startUpd_of_check rfl))))
  · exact .next rfl ((hgo h rfl).trans (congrArg _ ((State.rcvGo_idle hu).trans (State.startUpd_busy rfl hs))))
  · exact .next rfl ((hgo h rfl).trans (congrArg _ ((State.rcvGo_idle hu).trans (State.startUpd_long rfl hs (by exact hl)))))
  · obtain ⟨k1, k2, k3, k4, -, k5⟩ := State.startUpd_install (u := { install := true, len := s.wlh.rcvLen, recovery := true }) rfl hs hb hl hg hc
    exact .next ⟨⟨k1, k2⟩, k3, k4, k5⟩ ((hgo h rfl).trans (congrArg _ (State.rcvGo_idle hu)))
  · simp only [List.mem_cons, List.not_mem_nil, or_false] at hc
    have hr : ¬ s.recovery = true := by simp [h]
    rcases hc with rfl | rfl | rfl | rfl | rfl | rfl | rfl
    · exact .next rfl (congrArg Host.Outcome.next (if_neg hr))
    · exact .next rfl (congrArg Host.Outcome.next (if_neg hr))
    · exact .next rfl (congrArg Host.Outcome.next (if_neg hr))
    all_goals exact .next rfl (congrArg Host.Outcome.next (if_pos hr))
  · refine (completes.frameNew (w := { s.wlh with rcvBuf := Map.store s.wlh.rcvBuf o b }) (a := 0) rfl h hl
      (if_neg (Nat.not_lt.mpr hlen))).imp fun t ⟨k1, k2, k3, k4, k5⟩ => ⟨k1, k2, k3, k4, ?_, ?_, k5⟩
    · simp only [k4]
      refine List.ext_getElem (by simp [Map.bytes]) fun i hi _ => ?_
      simp only [Map.bytes, List.length_map, List.length_range] at hi
      simp only [Map.bytes, List.getElem_map, List.getElem_range]
      exact Map.get_store_same _ _ _ hi
    · simp only [k4]
      exact fun x hx => Map.get_store_other _ _ _ hx
  · exact .frameNew (w := s.wlh) rfl h hl (if_pos hlen)
  · exact .frameNew (w := { s.wlh with rcvLen := n.toNat }) rfl h hl rfl
  · exact .frameNew (w := s.wlh) rfl h hl rfl
  · have hop : ¬ (op = 0 ∨ 3 < op.toNat) := by rcases ho with rfl | rfl <;> decide
    have hi : (op.toNat == 2) = false := by rcases ho with rfl | rfl <;> rfl
    have hb : (op.toNat == 3) = decide (op = 3) := by rcases ho with rfl | rfl <;> rfl
    have he := State.frame_new (s := s) (q := q) (f := runFrame q op) h hl
    rw [runFrame_idle hop hu, State.rcvGo_idle (s := s.noFrame) hu, State.startUpd_of_check hi, hi, hb] at he
    refine completes.next (s := s) ?_ (congrArg Host.Outcome.next he)
    exact ⟨rfl, rfl, .setWlh (.setWlh (.noFrame .refl))⟩
  · subst ho
    have he := State.frame_new (s := s) (q := q) (f := runFrame q 2) h hl
    rw [runFrame_idle (by decide) hu, State.rcvGo_idle (s := s.noFrame) hu] at he
    obtain ⟨k1, -, k3, k4, -, k5⟩ := State.startUpd_install (s := s.noFrame)
      (u := { install := true, len := s.wlh.rcvLen, recovery := true, seq := some q }) rfl hs hb hlen hg hc
    refine completes.next (s := s) ?_ (congrArg Host.Outcome.next he)
    exact ⟨k1, k3, rfl, k4, .setWlh (State.keeps_mono (State.keeps_trans (.noFrame (l := [.uart]) (s.keeps_refl _)) k5) (by simp))⟩
  · have hop : ¬ (op = 0 ∨ 3 < op.toNat) := by rcases ho with rfl | rfl | rfl <;> decide
    refine completes.frameNew (f := runFrame q op) (w := { s.wlh with rcvResult := 1 }) rfl h hl ?_
    rw [runFrame, if_neg hop]
    refine (if_pos (Option.isSome_iff_ne_none.2 hu)).trans ?_
    rw [State.rcvGo_busy (s := s.noFrame) hu]
    rfl
  · have hop : op = 0 ∨ 3 < op.toNat := by
      by_contra hc
      simp only [not_or, Nat.not_lt] at hc
      have : ∀ x : Byte, x ≠ 1 ∧ x ≠ 2 ∧ x ≠ 3 → x = 0 ∨ 3 < x.toNat := by decide
      rcases this op ho with h | h
      · exact hc.1 h
      · omega
    have he := State.frame_new (s := s) (q := q) (f := runFrame q op) h hl
    rw [runFrame, if_pos hop] at he
    refine completes.next (s := s) ?_ (congrArg Host.Outcome.next he)
    exact ⟨rfl, rfl, (State.uartAnswer_spec rfl rfl).2, .uartAnswer (.setWlh (.draw (.noFrame .refl)))⟩

end Sys2Proof.Machine
end

section
/-! PROOFS. Sync inputs and fabric-global time (R350, R351). -/

namespace Sys2Proof.Machine
open Sys2Proof

/-- The state with the sync inputs' state replaced. -/
def State.setSync (s : State) (y : Sync) : State := { s with sync := y }

section
variable {s t : State} {cs : List Comp} {fs : List Place} {ns : List (Page × Nat)} {y : Sync}

@[simp] theorem State.sync_setSync : (s.setSync y).sync = y := by simp only [State.setSync]
@[simp] theorem State.now_setSync : (s.setSync y).now = s.now := by simp only [State.setSync]
@[simp] theorem State.regs_setSync : (s.setSync y).regs = s.regs := by simp only [State.setSync]
@[simp] theorem State.cnt_setSync : (s.setSync y).cnt = s.cnt := by simp only [State.setSync]
@[simp] theorem State.fuses_setSync : (s.setSync y).fuses = s.fuses := by simp only [State.setSync]
@[simp] theorem State.sync_moveTime {d : Int} : (s.moveTime d).sync = s.sync := by simp only [State.moveTime]
@[simp] theorem State.regs_moveTime {d : Int} : (s.moveTime d).regs = s.regs := by simp only [State.moveTime]
@[simp] theorem State.cnt_moveTime {d : Int} : (s.moveTime d).cnt = s.cnt := by simp only [State.moveTime]
@[simp] theorem State.fuses_moveTime {d : Int} : (s.moveTime d).fuses = s.fuses := by simp only [State.moveTime]

theorem State.changes.setSync (h : s.changes t cs fs ns) (hm : .sync ∈ cs := by simp) : s.changes (t.setSync y) cs fs ns :=
  h.upd (fun c hc => by cases c <;> first | rfl | exact absurd (by simp [hm]) hc) rfl rfl rfl

theorem State.changes.moveTime {d : Int} (h : s.changes t cs fs ns) (hm : .now ∈ cs := by simp) : s.changes (t.moveTime d) cs fs ns :=
  h.upd (fun c hc => by cases c <;> first | rfl | exact absurd (by simp [hm]) hc) rfl rfl rfl

/-! ## Edges -/

/-- A flag cleared once two edges came: it stays set only at the first of them. -/
theorem flag_cleared_second {b : Bool} {n : Nat} : (if min 2 (n + 1) = 2 then false else b) = (b && decide (n = 0)) := by
  rcases n with _ | n
  · simp
  · have : min 2 (n + 1 + 1) = 2 := by omega
    simp [this]

/-- LOST is cleared by the second edge in a row. -/
def State.foundAt (s : State) (f : Fld) (n : Nat) : State := if min 2 (n + 1) = 2 then s.setFld .sync f 0 else s

theorem State.changes.foundAt {f : Fld} {n : Nat} (h : s.changes t cs fs ns) (hm : f.place .sync ∈ fs := by simp) :
    s.changes (t.foundAt f n) cs fs ns := by
  unfold State.foundAt
  exact .ite (.setFld h hm) h

theorem State.flag_foundAt {f : Fld} {n : Nat} : (s.foundAt f n).flag .sync f = (s.flag .sync f && decide (n = 0)) := by
  rw [← flag_cleared_second]
  unfold State.foundAt
  split <;> simp [State.flag, State.fld_setFld_same]

theorem State.fld_foundAt {f g : Fld} {n : Nat} (h : f.apart g 0 0 = true) : (s.foundAt f n).fld .sync g = s.fld .sync g := by
  unfold State.foundAt
  split
  · exact s.fld_setFld_apart h
  · rfl

@[simp] theorem State.sync_foundAt {f : Fld} {n : Nat} : (s.foundAt f n).sync = s.sync := by
  unfold State.foundAt; split <;> simp

@[simp] theorem State.now_foundAt {f : Fld} {n : Nat} : (s.foundAt f n).now = s.now := by
  unfold State.foundAt; split <;> simp

@[simp] theorem State.cnt_foundAt {f : Fld} {n : Nat} : (s.foundAt f n).cnt = s.cnt := by
  unfold State.foundAt; split <;> simp

/-- An FSYNC edge that is taken. -/
def State.fsyncTaken (s : State) : State :=
  let u := (s.setSync { s.sync with fEdges := min 2 (s.sync.fEdges + 1), fAny := true }).count .sync 0x80
  let v := if s.sync.fAny then u.setFld .sync Reg.SYNC_FSYNC_PERIOD_NS (min (s.now - s.fld .sync Reg.SYNC_FSYNC_LAST_TIME) 4294967295) else u
  (v.setFld .sync Reg.SYNC_FSYNC_LAST_TIME v.now).foundAt Reg.SYNC_STAT_FSYNC_LOST s.sync.fEdges

/-- A TSYNC edge counted. -/
def State.tsyncCounted (s : State) : State :=
  (s.setSync { s.sync with tEdges := min 2 (s.sync.tEdges + 1), tAny := true }).count .sync 0x98

/-- The master's time moved with PPS. -/
def State.tsyncMoved (s : State) : State :=
  let off : Int := 500000000 - (s.now + 500000000) % 1000000000
  (s.tsyncCounted.count .time 0x90 off.natAbs).moveTime off

/-- A TSYNC edge that is taken, the master's time moved with PPS. -/
def State.tsyncTaken (s : State) : State :=
  let v := if s.flag .time Reg.TIME_CTRL_MASTER && s.flag .time Reg.TIME_CTRL_PPS_EN then s.tsyncMoved else s.tsyncCounted
  (v.setFld .sync Reg.SYNC_TSYNC_LAST_TIME v.now).foundAt Reg.SYNC_STAT_TSYNC_LOST s.sync.tEdges

theorem exec_fsyncEdge {f : Bool} (h1 : s.flag .sync Reg.SYNC_CTRL_FSYNC_EN = true) (h2 : s.flag .sync Reg.SYNC_CTRL_FSYNC_POL = f)
    (h3 : s.sync.fAny = false ∨ s.fld .sync Reg.SYNC_FSYNC_LAST_TIME + s.fld .sync Reg.SYNC_CTRL_MIN_US * 1000 ≤ s.now) :
    exec (.fsyncEdge f) s = .next s.fsyncTaken := by
  have h4 : ¬ (s.sync.fAny = true ∧ s.now < s.fld .sync Reg.SYNC_FSYNC_LAST_TIME + s.fld .sync Reg.SYNC_CTRL_MIN_US * 1000) := by
    rcases h3 with h | h
    · simp [h]
    · exact fun hc => absurd hc.2 (Nat.not_lt.2 h)
  exact congrArg Host.Outcome.next ((if_neg (by simp [h1, h2])).trans (if_neg h4))

theorem State.tsyncTaken_of (h : (s.flag .time Reg.TIME_CTRL_MASTER && s.flag .time Reg.TIME_CTRL_PPS_EN) = true) : s.tsyncTaken =
    (s.tsyncMoved.setFld .sync Reg.SYNC_TSYNC_LAST_TIME s.tsyncMoved.now).foundAt Reg.SYNC_STAT_TSYNC_LOST s.sync.tEdges := by
  rw [State.tsyncTaken, if_pos h]

theorem State.tsyncTaken_of_not (h : ¬ (s.flag .time Reg.TIME_CTRL_MASTER && s.flag .time Reg.TIME_CTRL_PPS_EN) = true) : s.tsyncTaken =
    (s.tsyncCounted.setFld .sync Reg.SYNC_TSYNC_LAST_TIME s.tsyncCounted.now).foundAt Reg.SYNC_STAT_TSYNC_LOST s.sync.tEdges := by
  rw [State.tsyncTaken, if_neg h]

theorem exec_tsyncEdge (h1 : s.flag .sync Reg.SYNC_CTRL_TSYNC_EN = true)
    (h3 : s.sync.tAny = false ∨ s.fld .sync Reg.SYNC_TSYNC_LAST_TIME + s.fld .sync Reg.SYNC_CTRL_MIN_US * 1000 ≤ s.now) :
    exec .tsyncEdge s = .next s.tsyncTaken := by
  have h4 : ¬ (¬ s.flag .sync Reg.SYNC_CTRL_TSYNC_EN = true ∨
      s.sync.tAny = true ∧ s.now < s.fld .sync Reg.SYNC_TSYNC_LAST_TIME + s.fld .sync Reg.SYNC_CTRL_MIN_US * 1000) := by
    rcases h3 with h | h
    · simp [h, h1]
    · simpa [h1] using fun _ => h
  refine congrArg Host.Outcome.next ((if_neg h4).trans ?_)
  simp [State.tsyncTaken, State.tsyncMoved, State.tsyncCounted, State.foundAt, State.setSync, State.flag, State.fld_eq]

/-- The nearest whole second to a time, as a step from it. -/
theorem nearest_second {n : Nat} (h : n < 2 ^ 63) :
    let off : Int := 500000000 - (n + 500000000) % 1000000000
    let m := (((n : Int) + off) % 2 ^ 64).toNat
    m % 1000000000 = 0 ∧ (m ≤ n + 500000000 ∧ n ≤ m + 500000000) ∧ off.natAbs = ((m : Int) - n).natAbs := by
  dsimp only
  have e : ((n : Int) + (500000000 - (n + 500000000) % 1000000000)) % 2 ^ 64 = n + 500000000 - (n + 500000000) % 1000000000 := by
    rw [Int.emod_eq_of_lt] <;> omega
  rw [e]
  omega

/-! ## Exchanges -/

/-- SYNCED sets after 8 good exchanges. -/
def State.syncedAt (w : State) (good : Nat) : State :=
  if good = 8 ∧ ¬ w.flag .time Reg.TIME_STAT_SYNCED then
    ((w.setSync { w.sync with everSynced := true }).setFld .time Reg.TIME_STAT_SYNCED 1).irq .time 0
  else w

/-- An exchange measured: counted, its error published. -/
def State.exchanged (s : State) (good err : Nat) : State :=
  ((s.setSync { s.sync with exchanging := false, good := good }).count .time 0x80).setFld .time Reg.TIME_STAT_ERR_NS err

/-- The offset to the master's time that four time stamps give. -/
def masterOffset (a b c d : Nat) : Int := (((b : Int) - a) - ((d : Int) - c)) / 2

/-- The good exchanges in a row, after one of this offset. -/
def State.goodNext (s : State) (off : Int) : Nat := if off.natAbs < 100 then min 8 (s.sync.good + 1) else 0

/-- An exchange of this offset, and the time moved by it: slewed once SYNCED has been set, stepped before. -/
def State.timeMoved (s : State) (off : Int) : State :=
  let v := s.exchanged (s.goodNext off) (min off.natAbs 65535)
  let slew : Int := max (-200) (min 200 off)
  if s.sync.everSynced then (v.count .time 0x90 slew.natAbs).moveTime slew else if off = 0 then v else (v.count .time 0x88).moveTime off

theorem exec_timeMessage {a b c d : Nat} (h1 : s.sync.exchanging = true) (h2 : s.flag .time Reg.TIME_CTRL_MASTER = false) :
    exec (.timeMessage a b c d) s = .next ((s.timeMoved (masterOffset a b c d)).syncedAt (s.goodNext (masterOffset a b c d))) := by
  refine congrArg Host.Outcome.next ((if_neg (by simp [h1, h2])).trans ?_)
  rfl

/-- What the end of an exchange leaves, after the time has moved. -/
theorem State.syncedAt_spec {u : State} {good err : Nat} (he : err < 65536) (hr : u.regs = (s.exchanged good err).regs) (hf : u.fuses = s.fuses)
    (hy : u.sync = (s.exchanged good err).sync)
    (hn : s.changes u [.now, .sync] [Reg.TIME_STAT_ERR_NS.place .time] [(.time, 0x80), (.time, 0x88), (.time, 0x90)]) :
    ((u.syncedAt good).sync.exchanging = false ∧ (u.syncedAt good).sync.good = good) ∧
    (u.syncedAt good).fld .time Reg.TIME_STAT_ERR_NS = err ∧
    (good = 8 → (u.syncedAt good).flag .time Reg.TIME_STAT_SYNCED = true ∧
      (s.flag .time Reg.TIME_STAT_SYNCED = false → (u.syncedAt good).sync.everSynced = true ∧ s.raised (u.syncedAt good) .time 0)) ∧
    (good ≠ 8 → (u.syncedAt good).flag .time Reg.TIME_STAT_SYNCED = s.flag .time Reg.TIME_STAT_SYNCED ∧
      (u.syncedAt good).sync.everSynced = s.sync.everSynced) ∧
    (u.syncedAt good).now = u.now ∧ (∀ o ∈ [0x80, 0x88, 0x90], (u.syncedAt good).counter .time o = u.counter .time o) ∧
    s.changes (u.syncedAt good) [.now, .sync, .out, .pcie] (Reg.TIME_STAT_ERR_NS.place .time :: Reg.TIME_STAT_SYNCED.place .time :: irqPlaces .time)
      ([(Page.time, 0x80), (Page.time, 0x88), (Page.time, 0x90)] ++ irqCounts .time) := by
  have hflag : u.flag .time Reg.TIME_STAT_SYNCED = s.flag .time Reg.TIME_STAT_SYNCED := by
    simp +decide [State.flag, State.fld_eq, hr, hf, State.exchanged]
  have herr : u.fld .time Reg.TIME_STAT_ERR_NS = err := by
    rw [State.fld_eq, hr, hf]
    exact regFld_setFld_same _ (by simp) he
  have hn' : s.changes u [.now, .sync, .out, .pcie] (Reg.TIME_STAT_ERR_NS.place .time :: Reg.TIME_STAT_SYNCED.place .time :: irqPlaces .time)
      ([(Page.time, 0x80), (Page.time, 0x88), (Page.time, 0x90)] ++ irqCounts .time) :=
    State.changes_mono hn (by simp) (by simp) (by simp)
  unfold State.syncedAt
  split
  case isTrue h =>
    obtain ⟨h1, h2⟩ := h
    refine ⟨?_, ?_, fun _ => ⟨?_, fun h3 => ⟨?_, ?_⟩⟩, fun h3 => absurd h1 h3, ?_, ?_, .irq (.setFld (.setSync hn'))⟩
    · simp [hy, State.exchanged]
    · rw [← herr]
      simp +decide [State.fld_eq]
    · simp +decide [State.flag, State.fld_eq]
    · simp
    · exact State.changes.raised (cs := [.now, .sync]) (fs := [Reg.TIME_STAT_ERR_NS.place .time, Reg.TIME_STAT_SYNCED.place .time])
        (ns := [(.time, 0x80), (.time, 0x88), (.time, 0x90)]) (.setFld (.setSync (State.changes_mono hn (by simp) (by simp) (by simp))))
        (by simp +decide [Place.apart_of])
    · simp
    · simp +decide [State.counted, State.counter_eq]
  case isFalse h =>
    refine ⟨?_, herr, fun h1 => ?_, fun h1 => ⟨hflag, ?_⟩, rfl, fun o _ => rfl, hn'⟩
    · simp [hy, State.exchanged]
    · have h2 : u.flag .time Reg.TIME_STAT_SYNCED = true := by simpa [h1] using h
      exact ⟨h2, fun h3 => absurd (hflag.symm.trans h2) (by simp [h3])⟩
    · simp [hy, State.exchanged]

end

theorem min_65535_lt (n : Nat) : min n 65535 < 65536 := by omega

/-- Settles O50, input by input. -/
theorem timeAndSyncInputs : Obligations.TimeAndSyncInputs := by
  unfold Obligations.TimeAndSyncInputs
  refine ⟨fun s f h1 h2 h3 => .next ?_ (exec_fsyncEdge h1 h2 h3), fun s f h1 h2 h3 h4 => ?_, fun s f h => ?_, fun s h1 h2 h3 => ?_,
    fun s h => ?_, fun s h1 h2 h3 => .next ?_ (exec_tsyncEdge h1 h2), fun s h1 h2 h3 h4 => .next ?_ (exec_tsyncEdge h1 h2), fun s h => ?_,
    fun s h1 h2 h3 => ?_, fun s h => ?_, fun s h => ?_, fun s h => ?_, fun s a b c d off h1 h2 h3 h4 => ?_,
    fun s a b c d off h1 h2 h3 h4 => ?_, fun s a b c d h => ?_, fun s ns h1 h2 => ?_, fun s ns h1 h2 => ?_, fun s ns h => .not_ready rfl h⟩
  · have hc : s.changes s.fsyncTaken [.sync]
        [Reg.SYNC_FSYNC_LAST_TIME.place .sync, Reg.SYNC_FSYNC_PERIOD_NS.place .sync, Reg.SYNC_STAT_FSYNC_LOST.place .sync] [(.sync, 0x80)] :=
      .foundAt (.setFld (.ite (.setFld (.count (.setSync .refl))) (.count (.setSync .refl))))
    refine ⟨?_, ?_, ?_, ?_, ?_, hc⟩
    all_goals unfold State.fsyncTaken
    · dsimp only
      split <;> simp
    · rw [State.fld_foundAt (by decide), State.fld_setFld_same]
      dsimp only
      split <;> simp [Fld.width, Reg.SYNC_FSYNC_LAST_TIME]
    · dsimp only
      split <;> simp +decide [State.counted, State.counter_eq]
    · rw [State.fld_foundAt (by decide), State.fld_setFld_apart _ (by decide)]
      split
      · exact State.fld_setFld_of_lt _ (by simp only [Reg.SYNC_FSYNC_PERIOD_NS]; omega)
      · simp [State.fld_eq]
    · rw [State.flag_foundAt]
      dsimp only
      split <;> simp +decide [State.flag, State.fld_eq]
  · refine .next ?_ (congrArg Host.Outcome.next ((if_neg (by simp [h1, h2])).trans (if_pos ⟨h3, h4⟩)))
    exact ⟨by simp [State.counted, State.counter_eq], .count .refl⟩
  · exact .next rfl (congrArg Host.Outcome.next (if_pos (by simpa using h)))
  · refine .next ?_ (congrArg Host.Outcome.next (if_pos (by simp [h1, h2, h3])))
    refine ⟨by simp +decide [State.flag, State.fld_eq], by simp, by simp +decide [State.counted, State.counter_eq], ?_,
      .irq (.count (.setFld (State.changes.setSync (y := { s.sync with fEdges := 0 }) .refl)))⟩
    exact State.changes.raised (cs := [.sync]) (fs := [Reg.SYNC_STAT_FSYNC_LOST.place .sync]) (ns := [(.sync, 0x90)])
      (.count (.setFld (State.changes.setSync (y := { s.sync with fEdges := 0 }) .refl))) (by simp +decide [Place.apart_of])
  · exact .next rfl (congrArg Host.Outcome.next (if_neg (by simpa [and_assoc] using h)))
  · have hm : ¬ (s.flag .time Reg.TIME_CTRL_MASTER && s.flag .time Reg.TIME_CTRL_PPS_EN) = true := by simpa using h3
    rw [State.tsyncTaken_of_not hm, State.tsyncCounted]
    refine ⟨by simp, ?_, ?_, ?_, .foundAt (.setFld (.count (.setSync .refl)))⟩
    · simp +decide [State.counted, State.counter_eq]
    · rw [State.fld_foundAt (by decide), State.fld_setFld_same, State.now_foundAt, State.now_setFld]
      rfl
    · rw [State.flag_foundAt]
      simp +decide [State.flag, State.fld_eq]
  · have hm : (s.flag .time Reg.TIME_CTRL_MASTER && s.flag .time Reg.TIME_CTRL_PPS_EN) = true := by simpa using h3
    rw [State.tsyncTaken_of hm]
    have hn : (s.tsyncMoved.setFld .sync Reg.SYNC_TSYNC_LAST_TIME s.tsyncMoved.now |>.foundAt Reg.SYNC_STAT_TSYNC_LOST s.sync.tEdges).now =
        (((s.now : Int) + (500000000 - (s.now + 500000000) % 1000000000)) % 2 ^ 64).toNat := by
      simp [State.tsyncMoved, State.tsyncCounted, State.moveTime]
    obtain ⟨e1, e2, e3⟩ := nearest_second h4
    rw [hn]
    refine ⟨by simp [State.tsyncMoved, State.tsyncCounted], ?_, ?_, ?_, e1, e2, ?_, .foundAt (.setFld (.moveTime (.count (.count (.setSync .refl)))))⟩
    · simp +decide [State.counted, State.counter_eq, State.tsyncMoved, State.tsyncCounted]
    · rw [State.fld_foundAt (by decide), State.fld_setFld_same, ← hn, State.now_foundAt, State.now_setFld]
      rfl
    · rw [State.flag_foundAt]
      simp +decide [State.flag, State.fld_eq, State.tsyncMoved, State.tsyncCounted]
    · rw [← e3]
      simp +decide [State.counted, State.counter_eq, State.tsyncMoved, State.tsyncCounted]
  · refine .next rfl (congrArg Host.Outcome.next (if_pos ?_))
    simpa using h
  · refine .next ?_ (congrArg Host.Outcome.next (if_pos (by simp [h1, h2, h3])))
    refine ⟨by simp +decide [State.flag, State.fld_eq], by simp, ?_, .irq (.setFld (State.changes.setSync (y := { s.sync with tEdges := 0 }) .refl))⟩
    exact State.changes.raised (cs := [.sync]) (fs := [Reg.SYNC_STAT_TSYNC_LOST.place .sync]) (ns := [])
      (.setFld (State.changes.setSync (y := { s.sync with tEdges := 0 }) .refl)) (by simp +decide [Place.apart_of])
  · exact .next rfl (congrArg Host.Outcome.next (if_neg (by simpa [and_assoc] using h)))
  · exact .next rfl (congrArg Host.Outcome.next (if_neg (by simp [h])))
  · exact .next rfl (congrArg Host.Outcome.next (if_pos h))
  · replace h3 : off = masterOffset a b c d := h3
    subst h3
    refine completes.next ?_ (exec_timeMessage h1 h2)
    rw [State.timeMoved, if_pos h4]
    obtain ⟨k1, k2, k3, k4, k5, k6, k7⟩ := State.syncedAt_spec (s := s) (good := s.goodNext (masterOffset a b c d))
        (err := min (masterOffset a b c d).natAbs 65535)
      (u := ((s.exchanged (s.goodNext (masterOffset a b c d)) (min (masterOffset a b c d).natAbs 65535)).count .time 0x90
        (max (-200) (min 200 (masterOffset a b c d))).natAbs).moveTime (max (-200) (min 200 (masterOffset a b c d))))
      (min_65535_lt _) (by simp) (by simp [State.exchanged]) (by simp) (.moveTime (.count (.setFld (.count (.setSync .refl)))))
    refine ⟨k1, ?_, k2, k3, k4, k5.trans ?_, ?_, k7⟩
    · rw [State.counted, k6 _ (by simp)]
      simp +decide [State.counter_eq, State.exchanged]
    · simp [State.moveTime, State.exchanged]
    · rw [State.counted, k6 _ (by simp)]
      simp +decide [State.counter_eq, State.exchanged]
  · replace h3 : off = masterOffset a b c d := h3
    subst h3
    refine completes.next ?_ (exec_timeMessage h1 h2)
    rw [State.timeMoved, if_neg (by simp [h4])]
    by_cases h0 : masterOffset a b c d = 0
    · rw [if_pos h0]
      obtain ⟨k1, k2, k3, k4, k5, k6, k7⟩ := State.syncedAt_spec (s := s) (good := s.goodNext (masterOffset a b c d))
        (err := min (masterOffset a b c d).natAbs 65535)
        (u := s.exchanged (s.goodNext (masterOffset a b c d)) (min (masterOffset a b c d).natAbs 65535))
        (min_65535_lt _) rfl (by simp [State.exchanged]) rfl (.setFld (.count (.setSync .refl)))
      refine ⟨k1, ?_, k2, k3, k4, .inr ⟨h0, k5.trans (by simp [State.exchanged])⟩, fun h => absurd h0 h, k7⟩
      rw [State.counted, k6 _ (by simp)]
      simp +decide [State.counter_eq, State.exchanged]
    · rw [if_neg h0]
      obtain ⟨k1, k2, k3, k4, k5, k6, k7⟩ := State.syncedAt_spec (s := s) (good := s.goodNext (masterOffset a b c d))
        (err := min (masterOffset a b c d).natAbs 65535)
        (u := ((s.exchanged (s.goodNext (masterOffset a b c d)) (min (masterOffset a b c d).natAbs 65535)).count .time 0x88).moveTime (masterOffset a b c d))
        (min_65535_lt _) (by simp) (by simp [State.exchanged]) (by simp) (.moveTime (.count (.setFld (.count (.setSync .refl)))))
      refine ⟨k1, ?_, k2, k3, k4, .inl (k5.trans ?_), fun _ => ?_, k7⟩
      · rw [State.counted, k6 _ (by simp)]
        simp +decide [State.counter_eq, State.exchanged]
      · simp [State.moveTime, State.exchanged, masterOffset]
      · rw [State.counted, k6 _ (by simp)]
        simp +decide [State.counter_eq, State.exchanged]
  · exact .next rfl (congrArg Host.Outcome.next (if_pos (by simpa using h)))
  · refine .ifReady rfl h1 ?_
    rw [if_pos h2]
  · refine .ifReady rfl h1 ?_
    rw [if_neg (by simp [h2])]
    exact ⟨State.err_erred _ _ _ (by decide), .err .refl⟩

end Sys2Proof.Machine
end

section
/-! PROOFS. Restarts, straps and locks (R343, R345, R349, R408). -/

namespace Sys2Proof.Machine
open Sys2Proof

section
variable {s t : State} {cs : List Comp} {fs : List Place} {ns : List (Page × Nat)} {pg : Page} {l : List Page}

/-! ## Bits of a field -/

theorem bit_withBits {v k j : Nat} {b : Bool} : bit (withBits v k 1 b.toNat) j = if j = k then b else bit v j := by
  rw [bit_eq_testBit, bit_eq_testBit, withBits_testBit]
  by_cases h : j = k
  · subst h
    cases b <;> simp
  · rw [if_neg (by omega), if_neg h]

theorem State.bit_setBit {f : Fld} {k j : Nat} {b : Bool} (hj : j < f.width) :
    bit ((s.setBit pg f k b).fld pg f) j = if j = k then b else bit (s.fld pg f) j := by
  rw [State.setBit, s.fld_setFld_same, ← bit_withBits, bit_eq_testBit, bit_eq_testBit, Nat.testBit_mod_two_pow]
  simp [hj]

theorem State.changes.setBit {f : Fld} {k : Nat} {b : Bool} (h : s.changes t cs fs ns) (hm : f.place pg ∈ fs := by simp) :
    s.changes (t.setBit pg f k b) cs fs ns := h.setFld hm

/-! ## Pages made ready -/

/-- Pages made ready, one after the other. -/
def State.setReady (s : State) (l : List Page) : State := s.each l fun s pg => s.setFld pg Reg.PG_READY_READY 1

theorem State.setReady_cons {l : List Page} : s.setReady (pg :: l) = (s.setFld pg Reg.PG_READY_READY 1).setReady l := rfl

theorem State.changes.setReady (h : s.changes t cs fs ns) (hm : ∀ p ∈ l, Reg.PG_READY_READY.place p ∈ fs := by simp) :
    s.changes (t.setReady l) cs fs ns :=
  h.each fun _ p hp hu => hu.setFld (hm p hp)

theorem State.ready_setFld_ready {q : Page} : (s.setFld q Reg.PG_READY_READY 1).ready pg = (decide (q = pg) || s.ready pg) := by
  by_cases h : q = pg
  · subst h
    simp [State.ready, State.flag, State.fld_setFld_same, Reg.PG_READY_READY]
  · simp only [State.ready, State.flag, h, decide_false, Bool.false_or]
    rw [s.fld_setFld_page h (by decide) (by decide)]

theorem State.ready_setReady : (s.setReady l).ready pg = (decide (pg ∈ l) || s.ready pg) := by
  induction l generalizing s with
  | nil => simp [State.setReady, State.each]
  | cons x l ih =>
    rw [State.setReady_cons, ih, State.ready_setFld_ready]
    by_cases h : x = pg
    · simp [h]
    · simp [h, Ne.symm h]

theorem State.rst_setReady : (s.setReady l).rst = s.rst :=
  (State.changes.setReady (s := s) (l := l) (fs := l.map Reg.PG_READY_READY.place) (cs := []) (ns := []) .refl
    (fun _ hp => List.mem_map_of_mem hp)).1 .rst (by simp)

theorem State.changes.ready (h : s.changes t cs fs ns) (hd : ∀ x ∈ fs, Place.apart x (Reg.PG_READY_READY.place pg)) :
    t.ready pg = s.ready pg := by rw [State.ready, State.flag, h.fld hd]; rfl

/-! ## Restarts -/

/-- The registers of the ledger's page that show the MRAM. -/
def ledgerPlaces : List Place :=
  [Reg.LEDG_STAT_RO.place .ledg, Reg.LEDG_STAT_SPARES.place .ledg, Reg.LEDG_STAT_SEQ_END.place .ledg, Reg.LEDG_SEQ_NEXT.place .ledg]

theorem State.changes.ledgerShow (h : s.changes t cs fs ns) (hm : ∀ x ∈ ledgerPlaces, x ∈ fs := by simp [ledgerPlaces]) :
    s.changes t.ledgerShow cs fs ns :=
  (((h.setFld (hm _ (by simp [ledgerPlaces]))).setFld (hm _ (by simp [ledgerPlaces]))).setFld (hm _ (by simp [ledgerPlaces]))).setFld
    (hm _ (by simp [ledgerPlaces]))

/-- The pages that need nothing but KCLK. -/
def restartPages : List Page := [.dev, .pin, .ledg, .uart]

/-- What a restart may touch. -/
def restartPlaces : List Place := restartPages.map Reg.PG_READY_READY.place ++ ledgerPlaces ++ [Reg.DEV_STRAP_VALUE.place .dev]

theorem State.restart_of_held (h : s.heldInReset = true) : s.restart_ = s := if_pos h

theorem State.restart_of_free (h : s.heldInReset = false) :
    s.restart_ = ((s.setReady restartPages).setFld .dev Reg.DEV_STRAP_VALUE (s.setReady restartPages).rst.straps).ledgerShow :=
  if_neg (by simp [h])

theorem State.changes.restart_ (h : s.changes t cs fs ns) (hm : ∀ x ∈ restartPlaces, x ∈ fs) : s.changes t.restart_ cs fs ns := by
  unfold State.restart_
  refine .ite h (.ledgerShow (.setFld (State.changes.setReady (l := restartPages) h ?_) ?_) ?_)
  · exact fun p hp => hm _ (by simp [restartPlaces]; exact .inl ⟨p, hp, rfl⟩)
  · exact hm _ (by simp [restartPlaces])
  · exact fun x hx => hm _ (by simp [restartPlaces, hx])

/-- A restart that nothing holds makes its pages ready and shows the straps. -/
theorem State.restart_spec (h : s.heldInReset = false) : s.restart_.rst = s.rst ∧ (∀ pg, s.restart_.ready pg = (decide (pg ∈ restartPages) || s.ready pg)) ∧
    s.restart_.fld .dev Reg.DEV_STRAP_VALUE = s.rst.straps % 2 ^ Reg.DEV_STRAP_VALUE.width := by
  have hc : s.changes s.restart_ [] restartPlaces [] := .restart_ .refl fun _ h => h
  have hd : (s.setReady restartPages).changes s.restart_ [] (Reg.DEV_STRAP_VALUE.place .dev :: ledgerPlaces) [] := by
    rw [State.restart_of_free h]
    exact .ledgerShow (.setFld .refl (List.mem_cons_self ..)) fun _ hx => List.mem_cons_of_mem _ hx
  refine ⟨hc.1 .rst (by simp), fun pg => ?_, ?_⟩
  · rw [hd.ready (by simp +decide [ledgerPlaces, Place.apart_of]), State.ready_setReady]
  · have he : ((s.setReady restartPages).setFld .dev Reg.DEV_STRAP_VALUE (s.setReady restartPages).rst.straps).changes s.restart_ [] ledgerPlaces [] := by
      rw [State.restart_of_free h]
      exact .ledgerShow .refl fun _ hx => hx
    rw [he.fld (by simp +decide [ledgerPlaces, Place.apart_of]), State.fld_setFld_same, State.rst_setReady]

end

/-- The state with the resets' state replaced. -/
def State.setRst (s : State) (r : Rst) : State := { s with rst := r }

section
variable {s t : State} {cs : List Comp} {fs : List Place} {ns : List (Page × Nat)} {r : Rst}

@[simp] theorem State.rst_setRst : (s.setRst r).rst = r := by simp only [State.setRst]
@[simp] theorem State.regs_setRst : (s.setRst r).regs = s.regs := by simp only [State.setRst]
@[simp] theorem State.fuses_setRst : (s.setRst r).fuses = s.fuses := by simp only [State.setRst]

theorem State.changes.setRst (h : s.changes t cs fs ns) (hm : .rst ∈ cs := by simp) : s.changes (t.setRst r) cs fs ns :=
  h.upd (fun c hc => by cases c <;> first | rfl | exact absurd (by simp [hm]) hc) rfl rfl rfl

/-- What holds the device in reset, with the resets' state and PERST_SCOPE of another state. -/
theorem State.heldInReset_eq : s.heldInReset = (!s.rst.pwrGood || s.rst.resetLow || s.rst.thermHeld ||
    (s.rst.perstLow && !s.flag .rstc Reg.RSTC_CTRL_PERST_SCOPE)) := rfl

/-- The locks and the pages of VDD_AON. -/
def State.powered (s : State) : State :=
  ((s.setRst { s.rst with pwrGood := true, lost := [] }).setFld .clk Reg.CLK_STAT_LOCK 127).setReady [.clk, .rstc, .time, .pwr, .sync]

theorem exec_pwrGoodRise (h : s.rst.pwrGood = false) : exec .pwrGoodRise s = .next s.powered.restart_ :=
  congrArg Host.Outcome.next (if_neg (by simp [h]))

theorem State.powered_changes : s.changes s.powered [.rst]
    (Reg.CLK_STAT_LOCK.place .clk :: [Page.clk, .rstc, .time, .pwr, .sync].map Reg.PG_READY_READY.place) [] :=
  .setReady (.setFld (.setRst .refl)) (by simp)

theorem State.powered_spec : s.powered.rst = { s.rst with pwrGood := true, lost := [] } ∧ s.powered.fld .clk Reg.CLK_STAT_LOCK = 127 ∧
    (∀ pg ∈ [Page.clk, .rstc, .time, .pwr, .sync], s.powered.ready pg = true) ∧
    s.powered.flag .rstc Reg.RSTC_CTRL_PERST_SCOPE = s.flag .rstc Reg.RSTC_CTRL_PERST_SCOPE := by
  have hc : ((s.setRst { s.rst with pwrGood := true, lost := [] }).setFld .clk Reg.CLK_STAT_LOCK 127).changes s.powered []
      ([Page.clk, .rstc, .time, .pwr, .sync].map Reg.PG_READY_READY.place) [] := .setReady .refl
  refine ⟨?_, ?_, fun pg hp => ?_, ?_⟩
  · rw [State.powered, State.rst_setReady, State.rst_setFld, State.rst_setRst]
  · rw [hc.fld (by simp +decide [Place.apart_of])]
    exact State.fld_setFld_of_lt _ (by decide)
  · rw [State.powered, State.ready_setReady, decide_eq_true hp, Bool.true_or]
  · rw [State.flag, State.flag, State.powered_changes.fld (by simp +decide [Place.apart_of])]

/-- The straps latched, with the resets' state given. -/
def State.latched (s : State) (r : Rst) : State := (s.setRst r).setFld .dev Reg.DEV_STRAP_VALUE r.straps

theorem State.latched_changes : s.changes (s.latched r) [.rst] [Reg.DEV_STRAP_VALUE.place .dev] [] := .setFld (.setRst .refl)

theorem State.latched_spec (h : r.straps < 4096) : (s.latched r).rst = r ∧ (s.latched r).fld .dev Reg.DEV_STRAP_VALUE = r.straps := by
  refine ⟨by simp [State.latched], State.fld_setFld_of_lt _ (Nat.lt_trans h (by decide))⟩

theorem State.latched_held : (s.latched r).heldInReset = (!r.pwrGood || r.resetLow || r.thermHeld ||
    (r.perstLow && !s.flag .rstc Reg.RSTC_CTRL_PERST_SCOPE)) := by
  rw [State.heldInReset_eq, State.flag, State.latched_changes.fld (by simp +decide [Place.apart_of])]
  simp [State.latched, State.flag]

theorem State.heldInReset_setRst : (s.setRst r).heldInReset = (!r.pwrGood || r.resetLow || r.thermHeld ||
    (r.perstLow && !s.flag .rstc Reg.RSTC_CTRL_PERST_SCOPE)) := rfl

theorem exec_resetNRelease {x : BitVec 12} (h1 : s.rst.resetLow = true) (h2 : s.rst.pwrGood = true) :
    exec (.resetNRelease x) s = .next (s.latched { s.rst with resetLow := false, straps := x.toNat }).restart_ :=
  congrArg Host.Outcome.next ((if_pos h1).trans (if_pos h2))

theorem exec_perstDeassert (h : s.rst.perstLow = true) : exec .perstDeassert s = .next (
    let u := (s.setRst { s.rst with perstLow := false }).restart_
    if u.heldInReset then u else u.setFld .pcie Reg.PG_READY_READY 1) :=
  congrArg Host.Outcome.next (if_pos h)

theorem exec_thermRelease {x : Int} (h1 : s.rst.thermHeld = true) (h2 : x < s.fld .rstc Reg.RSTC_THERM_RELEASE_C * 8) :
    exec (.thermRelease x) s = .next ((s.setRst { s.rst with thermHeld := false }).send (.thermtrip false)).restart_ :=
  congrArg Host.Outcome.next (if_pos ⟨h1, h2⟩)

/-- A restart leaves what holds the device in reset. -/
theorem State.heldInReset_restart (h : s.heldInReset = false) : s.restart_.heldInReset = false := by
  have hc : s.changes s.restart_ [] restartPlaces [] := .restart_ .refl fun _ hx => hx
  rw [State.heldInReset_eq, hc.1 .rst (by simp), State.flag, hc.fld]
  · exact h
  · simp +decide [restartPlaces, restartPages, ledgerPlaces, Place.apart_of, Place.apart_of_ne]

/-- The lock bit of a clock all of whose PLLs have lock. -/
def State.relocked (s : State) (l : Pll) (lost : List Pll) : State :=
  if lost.any fun x => pllIndex x == pllIndex l then s else s.setBit .clk Reg.CLK_STAT_LOCK (pllIndex l) true

theorem exec_pllRelock {l : Pll} (h : l ∈ s.rst.lost) : exec (.pllRelock l) s = .next (
    let u := (s.setRst { s.rst with lost := s.rst.lost.filter (· ≠ l) }).relocked l (s.rst.lost.filter (· ≠ l))
    u.setReady ((pllPages l).filter u.usable)) :=
  congrArg Host.Outcome.next (if_pos h)

theorem State.changes.relocked {l : Pll} {lost : List Pll} (h : s.changes t cs fs ns) (hm : Reg.CLK_STAT_LOCK.place .clk ∈ fs := by simp) :
    s.changes (t.relocked l lost) cs fs ns := by
  unfold State.relocked
  exact .ite h (.setBit h hm)

theorem State.bit_relocked {l : Pll} {lost : List Pll} : bit ((s.relocked l lost).fld .clk Reg.CLK_STAT_LOCK) (pllIndex l) =
    ((lost.all fun x => pllIndex x != pllIndex l) || bit (s.fld .clk Reg.CLK_STAT_LOCK) (pllIndex l)) := by
  have hl : pllIndex l < Reg.CLK_STAT_LOCK.width := by cases l <;> simp [pllIndex, Reg.CLK_STAT_LOCK]
  have ha : (lost.all fun x => pllIndex x != pllIndex l) = !(lost.any fun x => pllIndex x == pllIndex l) := by
    rw [List.not_any_eq_all_not]
    rfl
  rw [ha, State.relocked]
  split
  case isTrue h => simp [h]
  case isFalse h => simp [h, State.bit_setBit hl]

/-- Whether a unit was usable depends on fields of pages other than CLK's. -/
theorem State.usable_relocked {l : Pll} {lost : List Pll} (hr : r.perstLow = s.rst.perstLow) :
    ((s.setRst r).relocked l lost).usable pg = s.usable pg := by
  have hc : s.changes ((s.setRst r).relocked l lost) [.rst] [Reg.CLK_STAT_LOCK.place .clk] [] := .relocked (.setRst .refl)
  have hk : ((s.setRst r).relocked l lost).rst = r := by
    unfold State.relocked
    split <;> simp [State.setBit]
  have hf {q : Page} {f : Fld} (hq : q ≠ .clk) (hg : f.fits 0 = true) : ((s.setRst r).relocked l lost).fld q f = s.fld q f :=
    hc.fld fun x hx => (List.mem_singleton.1 hx) ▸ Place.apart_of_ne (f := Reg.CLK_STAT_LOCK) (i := 0) hq.symm (by decide) hg
  have hg {q : Page} {f : Fld} (hq : q ≠ .clk) (hg : f.fits 0 = true) : ((s.setRst r).relocked l lost).flag q f = s.flag q f := by
    rw [State.flag, State.flag, hf hq hg]
  cases pg with
  | bas i => exact hg (by simp) (memOnline_fits _)
  | deep i => exact hg (by simp) (memOnline_fits _)
  | port n => exact hg (by simp) (by decide)
  | tile i => exact hg (by simp) (by decide)
  | pcie => exact (congrArg (fun r : Rst => !r.perstLow) hk).trans (congrArg (!·) hr)
  | _ => exact (rfl : true = true)

end

/-- Settles O48, command by command. -/
theorem clocksPinsAndRestarts : Obligations.ClocksPinsAndRestarts := by
  unfold Obligations.ClocksPinsAndRestarts
  refine ⟨fun s h h1 h2 => .next ?_ (exec_pwrGoodRise h), fun s h h1 => .next ?_ (exec_pwrGoodRise h), fun s h => ?_, fun s x h1 h2 h3 h4 => ?_,
    fun s x h1 h2 h3 => ?_, fun s x h1 h2 => ?_, fun s x h => ?_, fun s x h1 h2 => ?_, fun s x h => ?_, fun s h1 h2 h3 h4 => ?_,
    fun s h1 h2 => ?_, fun s h => ?_, fun s x h1 h2 h3 h4 h5 => ?_, fun s x h1 h2 h3 => ?_, fun s x h => ?_,
    fun s l lost h1 h2 => ?_, fun s l h => ?_⟩
  · obtain ⟨p1, p2, p3, p4⟩ := s.powered_spec
    obtain ⟨k1, k2, k3⟩ := State.restart_spec (s := s.powered) (by
      obtain ⟨h1, h3, h4⟩ := h1
      rw [State.heldInReset_eq, p1, p4]
      rcases h4 with h4 | h4 <;> simp [h1, h3, h4])
    have hr : s.powered.changes s.powered.restart_ [] restartPlaces [] := .restart_ .refl fun _ hx => hx
    refine ⟨k1.trans p1, ?_, fun pg hp => ?_, fun pg hp => ?_, ?_, .restart_ (State.changes_mono s.powered_changes (by simp) ?_ (by simp)) ?_⟩
    · rw [hr.fld, p2]
      simp +decide [restartPlaces, restartPages, ledgerPlaces, Place.apart_of, Place.apart_of_ne]
    · rw [k2, p3 pg hp, Bool.or_true]
    · rw [k2, decide_eq_true (p := pg ∈ restartPages) hp, Bool.true_or]
    · rw [k3, p1]
      exact Nat.mod_eq_of_lt (Nat.lt_trans h2 (by decide))
    · simp
    · simp [restartPlaces, restartPages, ledgerPlaces]
  · obtain ⟨p1, p2, p3, p4⟩ := s.powered_spec
    rw [State.restart_of_held]
    · exact ⟨p1, p2, p3, State.changes_mono s.powered_changes (by simp) (by simp) (by simp)⟩
    · rw [State.heldInReset_eq, p1, p4]
      simpa [Bool.or_assoc, or_iff_not_imp_left] using h1
  · exact .next rfl (congrArg Host.Outcome.next (if_pos h))
  · refine completes.next ?_ (exec_resetNRelease h1 h2)
    obtain ⟨l1, l2⟩ := State.latched_spec (s := s) (r := { s.rst with resetLow := false, straps := x.toNat }) x.isLt
    obtain ⟨k1, k2, k3⟩ := State.restart_spec (s := s.latched { s.rst with resetLow := false, straps := x.toNat }) (by
      rw [State.latched_held]
      simp [h2, h3, h4])
    refine ⟨k1.trans l1, ?_, fun pg hp => ?_, .restart_ (State.changes_mono State.latched_changes (by simp) (by simp) (by simp)) ?_⟩
    · rw [k3, l1]
      exact Nat.mod_eq_of_lt (Nat.lt_trans x.isLt (by decide))
    · rw [k2, decide_eq_true (p := pg ∈ restartPages) hp, Bool.true_or]
    · simp [restartPlaces, restartPages, ledgerPlaces]
  · refine completes.next ?_ (exec_resetNRelease h1 h2)
    rw [State.restart_of_held (by rw [State.latched_held]; simp [h3])]
    obtain ⟨l1, l2⟩ := State.latched_spec (s := s) (r := { s.rst with resetLow := false, straps := x.toNat }) x.isLt
    exact ⟨l1, l2, State.latched_changes⟩
  · exact .next rfl (congrArg Host.Outcome.next ((if_pos h1).trans (if_neg (by simp [h2]))))
  · exact .next rfl (congrArg Host.Outcome.next (if_neg (by simp [h])))
  · refine completes.next (t := s.latched { s.rst with straps := x.toNat }) ?_ (congrArg Host.Outcome.next (if_pos (by simp [h1, h2])))
    obtain ⟨l1, l2⟩ := State.latched_spec (s := s) (r := { s.rst with straps := x.toNat }) x.isLt
    exact ⟨l1, l2, State.latched_changes⟩
  · exact .next rfl (congrArg Host.Outcome.next (if_neg (by rcases h with h | h <;> simp [h])))
  · refine completes.next ?_ (exec_perstDeassert h1)
    have hh : (s.setRst { s.rst with perstLow := false }).heldInReset = false := by
      rw [State.heldInReset_setRst]
      simp [h2, h3, h4]
    obtain ⟨k1, k2, k3⟩ := State.restart_spec hh
    dsimp only
    rw [if_neg (by simp [State.heldInReset_restart hh])]
    refine ⟨by rw [State.rst_setFld, k1]; rfl, by rw [State.ready_setFld_ready, decide_eq_true rfl, Bool.true_or], fun pg hp => ?_,
      .setFld (.restart_ (.setRst .refl) ?_)⟩
    · rw [State.ready_setFld_ready, k2, decide_eq_true (p := pg ∈ restartPages) hp, Bool.true_or, Bool.or_true]
    · simp [restartPlaces, restartPages, ledgerPlaces]
  · refine completes.next ?_ (exec_perstDeassert h1)
    have hh : (s.setRst { s.rst with perstLow := false }).heldInReset = true := by
      rw [State.heldInReset_setRst]
      rcases h2 with h | h | h <;> simp [h]
    dsimp only
    rw [State.restart_of_held hh, if_pos hh]
    rfl
  · exact .next rfl (congrArg Host.Outcome.next (if_neg (by simp [h])))
  · refine completes.next ?_ (exec_thermRelease h1 h2)
    obtain ⟨k1, k2, k3⟩ := State.restart_spec (s := (s.setRst { s.rst with thermHeld := false }).send (.thermtrip false)) (by
      rw [State.heldInReset_eq]
      simp [h3, h4, h5])
    have hr := State.changes.restart_ (s := (s.setRst { s.rst with thermHeld := false }).send (.thermtrip false)) (cs := []) (ns := []) .refl fun _ hx => hx
    refine ⟨k1.trans rfl, (hr.1 .out (by simp)).trans rfl, fun pg hp => ?_, .restart_ (.send (.setRst .refl)) ?_⟩
    · rw [k2, decide_eq_true (p := pg ∈ restartPages) hp, Bool.true_or]
    · simp [restartPlaces, restartPages, ledgerPlaces]
  · refine completes.next ?_ (exec_thermRelease h1 h2)
    rw [State.restart_of_held]
    · rfl
    · rw [State.heldInReset_eq]
      rcases h3 with h | h <;> simp [h]
  · refine .next rfl (congrArg Host.Outcome.next (if_neg ?_))
    rcases h with h | h
    · simp [h]
    · exact fun hc => absurd hc.2 (not_lt.2 h)
  · subst h2
    refine completes.next ?_ (exec_pllRelock h1)
    generalize s.rst.lost.filter (· ≠ l) = lost
    obtain ⟨r, hr⟩ : ∃ r, r = { s.rst with lost := lost } := ⟨_, rfl⟩
    rw [← hr]
    have hp : r.perstLow = s.rst.perstLow := by rw [hr]
    have hu : ((s.setRst r).relocked l lost).changes (((s.setRst r).relocked l lost).setReady
        ((pllPages l).filter ((s.setRst r).relocked l lost).usable)) [] ((pllPages l).map Reg.PG_READY_READY.place) [] :=
      .setReady .refl fun p hp => List.mem_map_of_mem (List.mem_of_mem_filter hp)
    have hv : s.changes ((s.setRst r).relocked l lost) [.rst] [Reg.CLK_STAT_LOCK.place .clk] [] := .relocked (.setRst .refl)
    refine ⟨?_, ?_, fun pg hg hs => ?_, fun pg hg hs => ?_, .setReady (.relocked (.setRst .refl)) fun p hp =>
      List.mem_cons_of_mem _ (List.mem_map_of_mem (List.mem_of_mem_filter hp))⟩
    · rw [State.rst_setReady]
      unfold State.relocked
      split <;> simp [State.setBit]
    · rw [hu.fld, State.bit_relocked]
      · rfl
      · exact fun x hx => by
          obtain ⟨q, -, rfl⟩ := List.mem_map.1 hx
          exact Place.apart_of (by decide) (by decide) (by decide)
    · rw [State.ready_setReady, decide_eq_true, Bool.true_or]
      exact List.mem_filter.2 ⟨hg, (State.usable_relocked hp).trans hs⟩
    · rw [State.ready_setReady, decide_eq_false, Bool.false_or, hv.ready (by simp +decide [Place.apart_of])]
      rw [List.mem_filter, State.usable_relocked hp, hs]
      simp
  · exact .next rfl (congrArg Host.Outcome.next (if_neg h))

end Sys2Proof.Machine
end

section
/-! PROOFS. The Wellhead's records, slots and updates: what each may touch (R353 to R371). -/

namespace Sys2Proof.Machine
open Sys2Proof

section
variable {s t : State} {cs : List Comp} {fs : List Place} {ns : List (Page × Nat)} {u : Upd} {b : Bool} {x : ImgState} {n k : Nat}

/-- The fields of WLH_STAT that follow the slots. -/
def slotPlaces : List Place :=
  [Reg.WLH_STAT_BOOTED.place .wlh, Reg.WLH_STAT_STATE_A.place .wlh, Reg.WLH_STAT_STATE_B.place .wlh, Reg.WLH_STAT_TRIES.place .wlh,
   Reg.WLH_STAT_SVN_FLOOR.place .wlh]

/-- What a record of the Wellhead may touch. -/
def ownRecordPlaces : List Place := ledgerPlaces ++ slotPlaces
def ownRecordCounts : List (Page × Nat) := [(.ledg, 0x80), (.ledg, 0x98)]

theorem State.changes.wlhShow (h : s.changes t cs fs ns) (hm : ∀ x ∈ slotPlaces, x ∈ fs := by simp [ownRecordPlaces]) :
    s.changes t.wlhShow cs fs ns :=
  .setFld (.setFld (.setFld (.setFld (.setFld h (hm _ (by simp [slotPlaces]))) (hm _ (by simp [slotPlaces]))) (hm _ (by simp [slotPlaces])))
    (hm _ (by simp [slotPlaces]))) (hm _ (by simp [slotPlaces]))

section
variable (hc : Comp.wlh ∈ cs ∧ Comp.ledger ∈ cs := by simp) (hf : ∀ x ∈ ownRecordPlaces, x ∈ fs := by simp)
  (hn : ∀ x ∈ ownRecordCounts, x ∈ ns := by simp)
include hc hf hn

theorem State.changes.ledgerShown {r : BitVec 1024} (h : s.changes t cs fs ns) : s.changes (t.ledgerShown r) cs fs ns :=
  .ledgerShow (.count (.count (.setLedger h hc.2) (hn _ (by simp [ownRecordCounts]))) (hn _ (by simp [ownRecordCounts])))
    fun x hx => hf x (List.mem_append_left _ hx)

theorem State.changes.ledgerWritten {r : BitVec 1024} (h : s.changes t cs fs ns) : s.changes (t.ledgerWritten r) cs fs ns := by
  rw [State.ledgerWritten_eq]
  exact .ite (.wlhShow (.setWlh (.ledgerShown hc hf hn h) hc.1) fun x hx => hf x (List.mem_append_right _ hx)) (.ledgerShown hc hf hn h)

theorem State.changes.ledgerPut {r : BitVec 1024} (h : s.changes t cs fs ns) : s.changes (t.ledgerPut r) cs fs ns := by
  unfold State.ledgerPut
  exact .ite h (.ledgerWritten hc hf hn h)

theorem State.changes.setImg (h : s.changes t cs fs ns) : s.changes (t.setImg b x n) cs fs ns := .ledgerPut hc hf hn h

theorem State.changes.failInstall (h : s.changes t cs fs ns) : s.changes (t.failInstall u n) cs fs ns :=
  .setImg hc hf hn (.setWlh h hc.1)

end

section
variable (hc : Comp.wlh ∈ cs ∧ Comp.ledger ∈ cs ∧ Comp.out ∈ cs := by simp) (hf : ∀ x ∈ ownRecordPlaces, x ∈ fs := by simp)
  (hn : ∀ x ∈ ownRecordCounts, x ∈ ns := by simp)
include hc hf hn

theorem State.changes.eraseSector (h : s.changes t cs fs ns) : s.changes (t.eraseSector k) cs fs ns := by
  obtain ⟨hw, hl, ho⟩ := hc
  rw [State.eraseSector_eq]
  exact .send (.ledgerPut ⟨hw, hl⟩ hf hn (.setWlh h hw)) ho

theorem State.changes.nextSector (h : s.changes t cs fs ns) : s.changes (t.nextSector u k) cs fs ns := by
  obtain ⟨hw, hl, ho⟩ := hc
  unfold State.nextSector
  split
  · exact .eraseSector ⟨hw, hl, ho⟩ hf hn (.setWlh h hw)
  · exact .failInstall ⟨hw, hl⟩ hf hn h

theorem State.changes.startUpd (h : s.changes t cs fs ns) : s.changes (t.startUpd u) cs fs ns := by
  obtain ⟨hw, hl, ho⟩ := hc
  unfold State.startUpd
  exact .ite (.nextSector ⟨hw, hl, ho⟩ hf hn (.setImg ⟨hw, hl⟩ hf hn (.setWlh h hw))) (.setWlh h hw)

end

end

end Sys2Proof.Machine
end

section
/-! PROOFS. Updates begin and end; an image starts (R357 to R359, R364). -/

namespace Sys2Proof.Machine
open Sys2Proof

section
variable {s t v : State} {cs : List Comp} {fs : List Place} {ns : List (Page × Nat)} {u : Upd} {b : Bool} {x : ImgState} {n k op : Nat}

@[simp] theorem State.regs_setWlh {w : Wlh} : (s.setWlh w).regs = s.regs := by simp only [State.setWlh]
@[simp] theorem State.ledger_setWlh {w : Wlh} : (s.setWlh w).ledger = s.ledger := by simp only [State.setWlh]
@[simp] theorem State.cnt_setWlh {w : Wlh} : (s.setWlh w).cnt = s.cnt := by simp only [State.setWlh]
@[simp] theorem State.fuses_setWlh {w : Wlh} : (s.setWlh w).fuses = s.fuses := by simp only [State.setWlh]

/-! ## Beginnings -/

theorem State.startUpd_closed (hi : u.install = true) (h : s.slotsIdle) (hl : u.len ≤ s.updRoom u) (hc : s.ledger.closed = true) :
    s.startUpd u = s.setWlh { s.wlh with upd := some { u with slotB := decide (s.wlh.stA = .confirmed), result := 9 } } := by
  rw [State.updRoom] at hl
  simp only [State.startUpd, hi, true_and, h.not_busy, if_true, Bool.true_and, Nat.not_lt.mpr hl, hc, if_false]
  rfl

theorem natOfBytes_append (v n : Nat) (l : List Byte) : natOfBytes (bytesOfNat n v ++ l) = v % 256 ^ n + 256 ^ n * natOfBytes l := by
  induction n generalizing v with
  | zero => simp [bytesOfNat, Nat.mod_one]
  | succ n ih =>
    have h1 : v % 256 % 2 ^ 8 = v % 256 := Nat.mod_mod_of_dvd _ (by norm_num)
    have h2 : v % (256 * 256 ^ n) = v % 256 + 256 * (v / 256 % 256 ^ n) := Nat.mod_mul
    simp only [bytesOfNat, List.cons_append, natOfBytes, ih, BitVec.toNat_ofNat]
    rw [h1, Nat.pow_succ', h2]
    ring

theorem BV_sealRec (q : Nat) (r : BitVec 1024) : BV (sealRec q r) 0 48 = q % 2 ^ 48 := by
  simp only [sealRec]
  rw [List.append_assoc, natOfBytes_append, BV, BitVec.toNat_ofNat, bits_mod (by omega), bits, Nat.pow_zero, Nat.div_one,
    show (256 : Nat) ^ 6 = 2 ^ 48 by norm_num, Nat.add_mul_mod_self_left, Nat.mod_mod]

theorem Ledger.next_push (l : Ledger) (r : BitVec 1024) : (l.push r).next = l.next % 2 ^ 48 + 1 := by
  rw [Ledger.next, Ledger.push]
  exact congrArg (· + 1) (BV_sealRec _ _)

/-- Whether the ledger takes more records after one does not depend on what the record says. -/
theorem Ledger.closed_append (l : Ledger) (r r' : BitVec 1024) : (l.append r).1.closed = (l.append r').1.closed := by
  have hp (m : Ledger) : (m.push r).closed = (m.push r').closed := by
    rw [Ledger.closed, Ledger.closed, Ledger.next_push, Ledger.next_push]
    rfl
  rw [Ledger.append, Ledger.append]
  split
  · exact hp l
  · exact hp _

theorem State.ledger_ledgerWritten (s : State) (r : BitVec 1024) : (s.ledgerWritten r).ledger = (s.ledger.append r).1 := by
  have hs : (s.ledgerShown r).ledger = (s.ledger.append r).1 := by
    rw [State.ledgerShown, State.ledgerShow_keeps _ .ledger (by simp), State.ledger_count, State.ledger_count, State.ledger_setLedger]
  rw [State.ledgerWritten_eq]
  split
  · rw [State.wlhShow_keeps _ .ledger (by simp), State.ledger_setWlh, hs]
  · exact hs

/-- No good sector is left for the image: the slot was WRITING, and is EMPTY again. -/
theorem State.startUpd_full (hi : u.install = true) (h : s.slotsIdle) (hb : b = decide (s.wlh.stA = .confirmed))
    (hl : u.len ≤ s.updRoom u) (hg : s.goodSectors b = []) (hc : s.ledger.closed = false)
    (hn : (s.ledger.append (ledgRec 0x03 0 [])).1.closed = false) :
    (s.startUpd u).img b = .empty ∧ (s.startUpd u).img (!b) = s.img (!b) ∧
      (s.startUpd u).wlh.upd = some { u with slotB := b, result := 8, sector := none } ∧ (s.startUpd u).wlh.flash = s.wlh.flash ∧
      (s.startUpd u).out = s.out ∧ s.keeps (s.startUpd u) [.regs, .cnt, .wlh, .ledger] := by
  have e : s.startUpd u = ((s.setWlh { s.wlh with upd := some { u with slotB := b, result := 0 } }).setImg b .writing 0).nextSector
      { u with slotB := b } 0 := by
    subst hb
    rw [State.updRoom] at hl
    simp only [State.startUpd, hi, true_and, h.not_busy, if_true, Bool.true_and, Nat.not_lt.mpr hl, hc, Bool.false_eq_true, if_false]
    rfl
  obtain ⟨v1, v2, a, i, c, j, v3⟩ := State.setImg_spec (s := s.setWlh { s.wlh with upd := some { u with slotB := b, result := 0 } })
    (slotB := b) (x := .writing) (n := 0) hc
  have v4 := State.setImg_keeps (s := s.setWlh { s.wlh with upd := some { u with slotB := b, result := 0 } }) (slotB := b) (x := .writing) (n := 0)
  have v5 : ((s.setWlh { s.wlh with upd := some { u with slotB := b, result := 0 } }).setImg b .writing 0).ledger.closed = false := by
    rw [State.setImg, State.ledgerPut, if_neg (by simp [hc, State.setWlh]), State.ledger_ledgerWritten, Ledger.closed_append _ _ (ledgRec 0x03 0 [])]
    exact hn
  generalize (s.setWlh { s.wlh with upd := some { u with slotB := b, result := 0 } }).setImg b .writing 0 = v at *
  have hv : v.goodSectors b = [] := (State.goodSectors_congr (by rw [v3]; rfl) (by rw [v3]; rfl) b).trans hg
  have e2 : s.startUpd u = (v.setWlh { v.wlh with upd := some { u with slotB := b, result := 8, sector := none } }).setImg b .empty 0 := by
    rw [e, State.nextSector]
    dsimp only
    rw [hv]
    rfl
  obtain ⟨w1, w2, a', i', c', j', w3⟩ := State.setImg_spec (s := v.setWlh { v.wlh with upd := some { u with slotB := b, result := 8, sector := none } })
    (slotB := b) (x := .empty) (n := 0) v5
  have w4 := State.setImg_keeps (s := v.setWlh { v.wlh with upd := some { u with slotB := b, result := 8, sector := none } }) (slotB := b) (x := .empty) (n := 0)
  rw [e2]
  refine ⟨w1, w2.trans v2, ?_, ?_, ?_, ?_⟩
  · rw [w3]
    rfl
  · rw [w3]
    exact (congrArg Wlh.flash v3).trans rfl
  · rw [w4 .out (by simp), State.out_setWlh, v4 .out (by simp), State.out_setWlh]
  · exact State.keeps_mono (State.keeps_trans (.setWlh (l := [.wlh]) (s.keeps_refl _))
      (State.keeps_trans v4 (State.keeps_trans (.setWlh (l := [.wlh]) (v.keeps_refl _)) w4))) (by simp)

/-! ## GO of the update interface -/

/-- The registers of a command under way. -/
def State.updBegun (s : State) (op : Nat) : State := (s.setFld .wlh Reg.WLH_UPD_CMD_OP op).setFld .wlh Reg.WLH_UPD_CMD_BUSY 1

/-- What a GO names. -/
def State.updOf (s : State) (op : Nat) : Upd := { install := op == 0, len := s.fld .wlh Reg.WLH_UPD_LEN_LEN }

@[simp] theorem State.wlh_updBegun : (s.updBegun op).wlh = s.wlh := by simp [State.updBegun]
@[simp] theorem State.ledger_updBegun : (s.updBegun op).ledger = s.ledger := by simp [State.updBegun]
@[simp] theorem State.out_updBegun : (s.updBegun op).out = s.out := by simp [State.updBegun]

theorem State.changes.updBegun (h : s.changes t cs fs ns) (hm : Reg.WLH_UPD_CMD_BUSY.place .wlh ∈ fs ∧ Reg.WLH_UPD_CMD_OP.place .wlh ∈ fs := by simp) :
    s.changes (t.updBegun op) cs fs ns := .setFld (.setFld h hm.2) hm.1

theorem State.updGo_eq (h : s.ready .wlh = true) (hu : s.wlh.upd = none) : s.updGo op = (s.updBegun op).startUpd (s.updOf op) := by
  rw [State.updGo, State.ifReady_pos h, if_neg (by simp [hu]), State.updOf]
  simp +decide [State.updBegun, State.fld_eq]

theorem State.updGo_refused (h : s.ready .wlh = true) (hu : s.wlh.upd ≠ none) : s.updGo op = s.err .wlh 0x01 := by
  rw [State.updGo, State.ifReady_pos h, if_pos (Option.isSome_iff_ne_none.2 hu)]

/-- The command shows while it begins. -/
theorem State.updBegun_shows (hop : op < 2) {t : State} {cs : List Comp} {ns : List (Page × Nat)}
    (ht : (s.updBegun op).changes t cs ownRecordPlaces ns) :
    t.flag .wlh Reg.WLH_UPD_CMD_BUSY = true ∧ t.fld .wlh Reg.WLH_UPD_CMD_OP = op := by
  have h1 : ∀ f ∈ [Reg.WLH_UPD_CMD_BUSY, Reg.WLH_UPD_CMD_OP], t.fld .wlh f = (s.updBegun op).fld .wlh f := by
    intro f hf
    refine ht.fld ?_
    simp only [List.mem_cons, List.not_mem_nil, or_false] at hf
    rcases hf with rfl | rfl <;>
    simp +decide [ownRecordPlaces, ledgerPlaces, slotPlaces, Place.apart_of, Place.apart_of_ne]
  rw [State.flag, h1 _ (by simp), h1 _ (by simp)]
  constructor
  · simp +decide [State.updBegun, State.fld_eq]
  · rw [State.updBegun, State.fld_setFld_apart _ (by decide), State.fld_setFld_of_lt _ hop]

end

end Sys2Proof.Machine
end

section
/-! PROOFS. The Source ROM tries the slots, starts an image or enters recovery mode (R356, R357, R361, R364, R370). -/

namespace Sys2Proof.Machine
open Sys2Proof

section
variable {s t v : State} {cs : List Comp} {fs : List Place} {ns : List (Page × Nat)} {u : Upd} {b : Bool} {x : ImgState} {n k : Nat}

/-! ## The flash -/

/-- Two states hold the same bytes in flash, in the same good sectors. -/
structure State.sameFlash (s t : State) : Prop where
  flash : t.wlh.flash = s.wlh.flash
  size : t.wlh.flashSize = s.wlh.flashSize
  retired : ∀ k, (Map.get {} t.wlh.sectors k).retired = (Map.get {} s.wlh.sectors k).retired

theorem State.sameFlash.refl : s.sameFlash s := ⟨rfl, rfl, fun _ => rfl⟩

theorem State.sameFlash.of_wlh (h : s.sameFlash t) (h1 : v.wlh.flash = t.wlh.flash) (h2 : v.wlh.flashSize = t.wlh.flashSize)
    (h3 : v.wlh.sectors = t.wlh.sectors) : s.sameFlash v :=
  ⟨h1.trans h.flash, h2.trans h.size, fun k => by rw [h3]; exact h.retired k⟩

theorem State.sameFlash.keeps {l : List Comp} (h : s.sameFlash t) (hk : t.keeps v l) (hl : Comp.wlh ∉ l := by simp) : s.sameFlash v := by
  have e : v.wlh = t.wlh := hk .wlh hl
  exact h.of_wlh (by rw [e]) (by rw [e]) (by rw [e])

theorem State.sameFlash.slotSize (h : s.sameFlash t) : t.slotSize = s.slotSize := by rw [State.slotSize, State.slotSize, h.size]

theorem State.sameFlash.slotBytes (h : s.sameFlash t) (b : Bool) : t.slotBytes b = s.slotBytes b := by
  simp only [State.slotBytes, State.goodSectors, State.slotSize, h.flash, h.size, h.retired]

theorem State.sameFlash.storeSectors (h : s.sameFlash t) : t.storeSectors = s.storeSectors := by
  simp only [State.storeSectors, h.size, h.retired]

theorem State.sameFlash.storeObjs (h : s.sameFlash t) : t.storeObjs = s.storeObjs := by
  have hr : t.storeRd = s.storeRd := by
    funext i n
    simp only [State.storeRd, h.storeSectors, h.flash]
  simp only [State.storeObjs, State.storeObj, hr, h.storeSectors, h.flash, h.size]

/-- A record leaves what is in flash, and the rest of the Wellhead but the slots' states. -/
theorem State.wlh_ledgerPut_eq (s : State) (r : BitVec 1024) : ∃ a i c j, (s.ledgerPut r).wlh =
    { s.wlh with stA := a, triesA := i, stB := c, triesB := j } := by
  unfold State.ledgerPut
  split
  · exact ⟨_, _, _, _, rfl⟩
  · rw [State.ledgerWritten_eq]
    split
    · rw [State.wlh_wlhShow, State.wlh_setWlh, State.wlh_ledgerShown, Wlh.withImgs]
      exact ⟨_, _, _, _, rfl⟩
    · rw [State.wlh_ledgerShown]
      exact ⟨_, _, _, _, rfl⟩

theorem State.sameFlash.ledgerPut {r : BitVec 1024} (h : s.sameFlash t) : s.sameFlash (t.ledgerPut r) := by
  obtain ⟨a, i, c, j, e⟩ := t.wlh_ledgerPut_eq r
  exact h.of_wlh (by rw [e]) (by rw [e]) (by rw [e])

theorem State.sameFlash.setImg (h : s.sameFlash t) : s.sameFlash (t.setImg b x n) := h.ledgerPut

theorem State.sameFlash.eraseSector (h : s.sameFlash t) : s.sameFlash (t.eraseSector k) := by
  have e : (t.eraseSector k).wlh = t.wlh.intending k := State.eraseSector_spec.2.1
  refine ⟨by rw [e]; exact h.flash, by rw [e]; exact h.size, fun j => ?_⟩
  rw [e, ← h.retired j]
  simp only [Wlh.intending]
  by_cases hj : j = k
  · subst hj
    rw [Map.get_set_same]
  · exact congrArg Sector.retired (Map.get_set_other _ _ _ _ hj)

theorem State.sameFlash.dropWriting (h : s.sameFlash t) : s.sameFlash t.dropWriting := by
  unfold State.dropWriting
  refine State.each_keeps_prop h fun u x _ hu => ?_
  split
  · exact hu.setImg
  · exact hu

theorem State.sameFlash.mendFlash (h : s.sameFlash t) : s.sameFlash t.mendFlash := by
  unfold State.mendFlash
  exact State.each_keeps_prop h fun u x _ hu => hu.eraseSector

/-! ## Slots tried -/

theorem State.sameFlash.setWlh {y : Wlh} (h : s.sameFlash t) (h1 : y.flash = t.wlh.flash := by rfl) (h2 : y.flashSize = t.wlh.flashSize := by rfl)
    (h3 : y.sectors = t.wlh.sectors := by rfl) : s.sameFlash (t.setWlh y) := h.of_wlh h1 h2 h3

theorem State.sameFlash.nextSector (h : s.sameFlash t) : s.sameFlash (t.nextSector u k) := by
  unfold State.nextSector
  split
  · exact (h.setWlh (y := _)).eraseSector
  · exact (h.setWlh (y := _)).setImg

theorem State.sameFlash.startUpd (h : s.sameFlash t) : s.sameFlash (t.startUpd u) := by
  unfold State.startUpd
  extract_lets w busy room b u' code v
  have hv : s.sameFlash v := h.setWlh
  split
  · exact hv.setImg.nextSector
  · exact hv

theorem State.trySlot_cases : (s.trySlot b).2 = s ∨ (∃ x n, (s.trySlot b).2 = s.setImg b x n) ∨ ∃ x n, (s.trySlot b).2 = (s.setImg b x n).count .wlh 0x88 := by
  unfold State.trySlot
  extract_lets tries good
  split
  · split
    · exact .inr (.inr ⟨_, _, rfl⟩)
    · split
      · exact .inr (.inl ⟨_, _, rfl⟩)
      · exact .inr (.inl ⟨_, _, rfl⟩)
  · split
    · exact .inl rfl
    · exact .inr (.inl ⟨_, _, rfl⟩)
  · exact .inl rfl

theorem State.sameFlash.trySlot (h : s.sameFlash t) : s.sameFlash (t.trySlot b).2 := by
  rcases t.trySlot_cases (b := b) with e | ⟨x, n, e⟩ | ⟨x, n, e⟩ <;> rw [e]
  · exact h
  · exact h.setImg
  · exact State.sameFlash.of_wlh (h.setImg (b := b) (x := x) (n := n)) (by simp) (by simp) (by simp)

theorem State.changes.trySlot (h : s.changes t cs fs ns) (hc : Comp.wlh ∈ cs ∧ Comp.ledger ∈ cs) (hf : ∀ x ∈ ownRecordPlaces, x ∈ fs)
    (hn : ∀ x ∈ ownRecordCounts, x ∈ ns) (hm : (Page.wlh, 0x88) ∈ ns) : s.changes (t.trySlot b).2 cs fs ns := by
  rcases t.trySlot_cases (b := b) with e | ⟨x, n, e⟩ | ⟨x, n, e⟩ <;> rw [e]
  · exact h
  · exact h.setImg hc hf hn
  · exact .count (h.setImg hc hf hn) hm

theorem State.changes.dropWriting (h : s.changes t cs fs ns) (hc : Comp.wlh ∈ cs ∧ Comp.ledger ∈ cs) (hf : ∀ x ∈ ownRecordPlaces, x ∈ fs)
    (hn : ∀ x ∈ ownRecordCounts, x ∈ ns) : s.changes t.dropWriting cs fs ns := by
  unfold State.dropWriting
  exact h.each fun u x _ hu => .ite (hu.setImg hc hf hn) hu

theorem State.changes.mendFlash (h : s.changes t cs fs ns) (hc : Comp.wlh ∈ cs ∧ Comp.ledger ∈ cs ∧ Comp.out ∈ cs)
    (hf : ∀ x ∈ ownRecordPlaces, x ∈ fs) (hn : ∀ x ∈ ownRecordCounts, x ∈ ns) : s.changes t.mendFlash cs fs ns := by
  unfold State.mendFlash
  exact h.each fun u x _ hu => hu.eraseSector hc hf hn

/-! ## Images started -/

/-- The Wellhead with a checked image running. -/
def Wlh.withImage (w : Wlh) (img : List Byte) (objs : List StoreObj) (now : Nat) : Wlh :=
  { w with
    config := component img 3, objects := newestObjs (imgNat img 16 2) objs, running := true, pctl := component img 2
    pctlHash := BitVec.ofNat 384 (natBE (sha384 (component img 2))), kicked := now, warned := false }

theorem State.startImage_eq {img : List Byte} : s.startImage img =
    (s.setFld .pin Reg.PIN_FUNC_PMBUS 1).setWlh (s.wlh.withImage img s.storeObjs s.now) := by
  have e : (s.setFld .pin Reg.PIN_FUNC_PMBUS 1).storeObjs = s.storeObjs :=
    State.sameFlash.storeObjs (State.sameFlash.refl.of_wlh (by simp) (by simp) (by simp))
  simp only [State.startImage, Wlh.withImage, State.setWlh, e, State.wlh_setFld, State.now_setFld]

/-- The image of a slot, running. -/
theorem State.bootSlot_eq : s.bootSlot b =
    (((((s.setWlh { s.wlh with bootB := b }).setFld .pin Reg.PIN_FUNC_PMBUS 1).setWlh
      (Wlh.withImage { s.wlh with bootB := b } (s.slotBytes b) s.storeObjs s.now)).setFld .wlh Reg.PG_READY_READY 1).count .wlh 0x80).wlhShow.send
      (.imageStart b false) := by
  have e : State.bootSlot s b = (((((s.setWlh { s.wlh with bootB := b }).startImage (s.slotBytes b)).setFld .wlh Reg.PG_READY_READY 1).count .wlh
    0x80).wlhShow).send (.imageStart b false) := rfl
  have e2 : (s.setWlh { s.wlh with bootB := b }).storeObjs = s.storeObjs :=
    State.sameFlash.storeObjs (State.sameFlash.refl.of_wlh rfl rfl rfl)
  rw [e, State.startImage_eq, e2]
  rfl

/-- What the start of a slot's image may touch. -/
def bootPlaces : List Place := [Reg.PIN_FUNC_PMBUS.place .pin, Reg.PG_READY_READY.place .wlh] ++ slotPlaces

theorem State.fld_booted : s.wlhShow.fld .wlh Reg.WLH_STAT_BOOTED = s.wlh.bootB.toNat := by
  have hb : s.wlh.bootB.toNat < 2 ^ Reg.WLH_STAT_BOOTED.width := Bool.toNat_lt _
  simp +decide [State.wlhShow, State.fld_eq, hb]

theorem State.bootSlot_spec : (s.bootSlot b).wlh = Wlh.withImage { s.wlh with bootB := b } (s.slotBytes b) s.storeObjs s.now ∧
    (s.bootSlot b).ready .wlh = true ∧ (s.bootSlot b).flag .wlh Reg.WLH_STAT_BOOTED = b ∧
    (s.bootSlot b).out.getLast? = some (.imageStart b false) ∧ (s.bootSlot b).flag .pin Reg.PIN_FUNC_PMBUS = true ∧
    s.changes (s.bootSlot b) [.wlh, .out] bootPlaces [(.wlh, 0x80)] := by
  rw [State.bootSlot_eq]
  refine ⟨?_, ?_, ?_, ?_, ?_, .send (.wlhShow (.count (.setFld (.setWlh (.setFld (.setWlh .refl) ?_)) ?_)) ?_)⟩
  · rw [State.wlh_send, State.wlh_wlhShow]
    simp
  · simp +decide [State.wlhShow, State.ready, State.flag, State.fld_eq]
  · rw [State.flag, State.fld_send, State.fld_booted]
    simp [Wlh.withImage]
  · simp [State.send]
  · simp +decide [State.wlhShow, State.flag, State.fld_eq]
  · simp [bootPlaces]
  · simp [bootPlaces]
  · exact fun x hx => List.mem_append_right _ hx

/-! ## Recovery mode -/

theorem Page.mem_all (pg : Page) : pg ∈ Page.all := by cases pg <;> simp [Page.all]

/-- What entering recovery mode may touch. -/
def rescuePlaces : List Place :=
  Page.all.map Reg.PG_READY_READY.place ++ [Reg.WLH_STAT_RECOVERY.place .wlh, Reg.UART_CTRL_TX_EN.place .uart, Reg.UART_CTRL_RX_EN.place .uart,
    Reg.PIN_FUNC_UART.place .pin] ++ slotPlaces

/-- Every page but those of R392 is not ready. -/
def State.dropReady (s : State) : State :=
  s.each (Page.all.filter fun pg => !recoveryPage pg && s.ready pg) fun s pg => s.setFld pg Reg.PG_READY_READY 0

theorem State.enterRecovery_eq : s.enterRecovery = ((((((s.dropReady.setFld .wlh Reg.WLH_STAT_RECOVERY 1).setFld .wlh Reg.PG_READY_READY 1).setFld .uart
    Reg.UART_CTRL_TX_EN 1).setFld .uart Reg.UART_CTRL_RX_EN 1).setFld .pin Reg.PIN_FUNC_UART 1).wlhShow).send (.imageStart false true) := rfl

theorem State.changes.dropReady (h : s.changes t cs fs ns) (hm : ∀ pg, Reg.PG_READY_READY.place pg ∈ fs) : s.changes t.dropReady cs fs ns := by
  unfold State.dropReady
  exact h.each fun u pg _ hu => .setFld hu (hm pg)

theorem ready_rescuePlaces (pg : Page) : Reg.PG_READY_READY.place pg ∈ rescuePlaces := by
  simp only [rescuePlaces, List.mem_append]
  exact .inl (.inl (List.mem_map_of_mem (Page.mem_all pg)))

theorem State.enterRecovery_changes : s.changes s.enterRecovery [.out] rescuePlaces [] := by
  rw [State.enterRecovery_eq]
  refine .send (.wlhShow (.setFld (.setFld (.setFld (.setFld (.setFld (.dropReady .refl ready_rescuePlaces) ?_) (ready_rescuePlaces _)) ?_) ?_) ?_) ?_)
  all_goals simp only [rescuePlaces, List.mem_append]
  · exact .inl (.inr (by simp))
  · exact .inl (.inr (by simp))
  · exact .inl (.inr (by simp))
  · exact .inl (.inr (by simp))
  · exact fun x hx => .inr hx

theorem State.ready_dropReady {pg : Page} (h : recoveryPage pg = false) : s.dropReady.ready pg = false := by
  have hz (u : State) (q : Page) : (u.setFld q Reg.PG_READY_READY 0).ready pg = (u.ready pg && decide (q ≠ pg)) := by
    by_cases hq : q = pg
    · subst hq
      simp [State.ready, State.flag, State.fld_setFld_same]
    · simp only [State.ready, State.flag, ne_eq, hq, not_false_eq_true, decide_true, Bool.and_true]
      rw [u.fld_setFld_page hq (by decide) (by decide)]
  have hl (l : List Page) (u : State) : (u.each l fun s pg => s.setFld pg Reg.PG_READY_READY 0).ready pg = (u.ready pg && decide (pg ∉ l)) := by
    induction l generalizing u with
    | nil => simp [State.each]
    | cons q l ih =>
      refine (ih (u.setFld q Reg.PG_READY_READY 0)).trans ?_
      rw [hz]
      by_cases hq : q = pg
      · simp [hq]
      · simp [hq, Ne.symm hq]
  unfold State.dropReady
  rw [hl]
  cases hs : s.ready pg with
  | false => rfl
  | true => simp [Page.mem_all, h, hs]

theorem State.enterRecovery_spec : s.enterRecovery.flag .wlh Reg.WLH_STAT_RECOVERY = true ∧ s.enterRecovery.ready .wlh = true ∧
    (s.enterRecovery.flag .uart Reg.UART_CTRL_TX_EN = true ∧ s.enterRecovery.flag .uart Reg.UART_CTRL_RX_EN = true) ∧
    s.enterRecovery.flag .pin Reg.PIN_FUNC_UART = true ∧ (∀ pg, recoveryPage pg = false → s.enterRecovery.ready pg = false) ∧
    s.enterRecovery.out = s.out ++ [Out.imageStart false true] := by
  have hu := State.enterRecovery_changes (s := s)
  have hd : s.changes s.dropReady [] (Page.all.map Reg.PG_READY_READY.place) [] := .dropReady .refl fun pg => List.mem_map_of_mem (Page.mem_all pg)
  rw [State.enterRecovery_eq]
  refine ⟨?_, ?_, ⟨?_, ?_⟩, ?_, fun pg hp => ?_, ?_⟩
  · simp +decide [State.wlhShow, State.flag, State.fld_eq]
  · simp +decide [State.wlhShow, State.ready, State.flag, State.fld_eq]
  · simp +decide [State.wlhShow, State.flag, State.fld_eq]
  · simp +decide [State.wlhShow, State.flag, State.fld_eq]
  · simp +decide [State.wlhShow, State.flag, State.fld_eq]
  · have hne : pg ≠ .wlh ∧ pg ≠ .uart := by constructor <;> (rintro rfl; exact absurd hp (by decide))
    refine Eq.trans ?_ (s.ready_dropReady hp)
    have hb : (s.dropReady.setFld .wlh Reg.WLH_STAT_RECOVERY 1).changes s.enterRecovery [.out]
        ([Reg.PG_READY_READY.place .wlh, Reg.UART_CTRL_TX_EN.place .uart, Reg.UART_CTRL_RX_EN.place .uart, Reg.PIN_FUNC_UART.place .pin] ++ slotPlaces) [] := by
      rw [State.enterRecovery_eq]
      exact .send (.wlhShow (.setFld (.setFld (.setFld (.setFld .refl)))) fun x hx => List.mem_append_right _ hx)
    rw [← State.enterRecovery_eq, hb.ready]
    · simp only [State.ready, State.flag]
      rw [State.fld_setFld_page _ hne.1.symm (by decide) (by decide)]
    · simp +decide [slotPlaces, Place.apart_of, Place.apart_of_ne, hne.1.symm]
  · have ho : s.dropReady.out = s.out := hd.1 .out (by simp)
    have hw (u : State) : u.wlhShow.out = u.out := State.wlhShow_keeps _ .out (by simp)
    simp only [State.send, hw, State.out_setFld, ho]

end

end Sys2Proof.Machine
end

section
/-! PROOFS. A warm reset: what is empty after it, what it keeps (R344 to R346, Table 15-7). -/

namespace Sys2Proof.Machine
open Sys2Proof

section
variable {s t u v : State} {cs : List Comp} {fs : List Place} {ns : List (Page × Nat)} {c : Nat}

/-! ## The stages of a warm reset -/

/-- The units of the device hold nothing any more; accesses of the host are discarded with the PCIe page. -/
def State.warmCleared (s : State) (c : Nat) : State :=
  let s := s.keepHeld fun h => h.src == .host && !(c != 6)
  { s with
    tier := { s.tier with passes := [], passQueue := [], markers := [], answers := [] }
    reqs := [], convs := [], movers := [], parts := [], tiles := [], engines := [], qps := [] }

/-- Moves from or to another device end. -/
def State.warmAborted (s : State) (c : Nat) : State :=
  (s.warmCleared c).each ((s.keepHeld fun h => h.src == .host && !(c != 6)).tier.migs.filter fun m => m.kind != .localMove)
    fun s m => s.abortMig m.page m 1

/-- The units of HCLK and of the channels keep their power-down modes. -/
def keepLp : LpUnit → Bool
  | .slice _ => true
  | .stack _ => true
  | .channel _ => true
  | _ => false

/-- Every volatile store but the memory is empty. -/
def State.warmEmptied (s : State) (c : Nat) : State :=
  { s with
    sram := [], sramBad := [], regions := [], rrc := [], ports := [], qps := [], engines := [], movers := []
    finj := {}, srch := {}, units := [], digs := [], elog := {}, qrm := {}, uart := {}
    tenants := if c != 6 then [] else s.tenants.map fun e => (e.1, { e.2 with p := {}, g := {}, waiting := [], refilled := s.now })
    pcie := if c != 6 then {} else s.pcie
    wlh := s.wlh.afterReset
    rst := { s.rst with waiting := none, quiesceAt := [] }
    pwr := { s.pwr with inMode := s.pwr.inMode.filter keepLp, waking := s.pwr.waking.filter keepLp } }

/-- The pages that the reset reaches start again, RECOVERY_NEXT as it was. -/
def State.warmPages (s : State) (c : Nat) : State := ((s.warmAborted c).warmEmptied c).resetPages (warmReaches c)

theorem State.warmReset_eq (s : State) (c : Nat) : s.warmReset c =
    (((((s.warmPages c).setFld .wlh Reg.WLH_IMG_CTRL_RECOVERY_NEXT (s.fld .wlh Reg.WLH_IMG_CTRL_RECOVERY_NEXT)).count .rstc 0x98).resetCause
      c 0)).restart_ := rfl

/-! ## Registers of pages reset -/

theorem Map.get_filter_key {β : Type} (d : β) (m : Map β) (f : Nat → Bool) (k : Nat) :
    Map.get d (m.filter fun e => f e.1) k = if f k then Map.get d m k else d := by
  simp only [Map.get, Map.find_filter_key]
  split <;> rfl

theorem State.word_resetPages (p : Page → Bool) (a : Nat) :
    (s.resetPages p).word a = if inPages p a then Reg.resetWord s.fuses.binB a else s.word a := by
  have e : (s.resetPages p).word a = if (!inPages p a) = true then s.word a else Reg.resetWord s.fuses.binB a :=
    Map.get_filter_key (Reg.resetWord s.fuses.binB a) s.regs (fun k => !inPages p k) a
  rw [e]
  cases inPages p a <;> rfl

theorem State.get_cnt_resetPages (p : Page → Bool) (a : Nat) :
    Map.get 0 (s.resetPages p).cnt a = if inPages p a then 0 else Map.get 0 s.cnt a := by
  have e : Map.get 0 (s.resetPages p).cnt a = if (!inPages p a) = true then Map.get 0 s.cnt a else 0 :=
    Map.get_filter_key 0 s.cnt (fun k => !inPages p k) a
  rw [e]
  cases inPages p a <;> rfl

theorem inPages_of_at {p : Page → Bool} {a : Nat} {pg : Page} (h : Page.at a = some pg) : inPages p a = p pg := by
  rw [inPages, h]

/-! ## Accesses discarded -/

/-- Discarding accesses changes nothing but what is held and stalled. -/
theorem State.keepHeld_eq (s : State) (f : Held → Bool) :
    ∃ h w, s.keepHeld f = s.setTier { s.tier with held := h, stalled := w } := by
  unfold State.keepHeld
  refine State.each_keeps_prop (P := fun u => ∃ h w, u = s.setTier { s.tier with held := h, stalled := w }) ⟨_, _, rfl⟩ ?_
  rintro _ x - ⟨h, w, rfl⟩
  exact ⟨_, _, rfl⟩

/-! ## After the reset -/

theorem State.warmAborted_steady (s : State) (c : Nat) :
    Steady [.out, .regs, .cnt, .mem, .movers, .tier, .rrc, .engines, .qps, .srch, .units, .digs, .pwr, .pcie, .far,
      .page .rstc, .page .pwr, .page .pcie, .page .tier, .page .move, .page .feng, .page .srch, .page .mon] (s.warmCleared c) (s.warmAborted c) := by
  unfold State.warmAborted
  exact (Steady.refl _ _).each (fun u _ hu => hu.abortMig ..) _

/-- What is empty after a warm reset. -/
theorem State.warmPages_spec (s : State) (c : Nat) :
    ((s.warmPages c).reqs = [] ∧ (s.warmPages c).convs = [] ∧ (s.warmPages c).movers = [] ∧ (s.warmPages c).parts = [] ∧ (s.warmPages c).tiles = [] ∧
      (s.warmPages c).engines = [] ∧ (s.warmPages c).qps = [] ∧ (s.warmPages c).ports = []) ∧
    (s.warmPages c).now = s.now ∧ (s.warmPages c).fuses = s.fuses ∧ (s.warmPages c).wlh = s.wlh.afterReset ∧
    Map.get 0 (s.warmPages c).cnt (Page.rstc.base + 0x98) = Map.get 0 s.cnt (Page.rstc.base + 0x98) := by
  have ha := s.warmAborted_steady c
  obtain ⟨h, w, hk⟩ := s.keepHeld_eq fun h => h.src == .host && !(c != 6)
  have hw : (s.warmCleared c).wlh = s.wlh := by rw [State.warmCleared, hk]; rfl
  have hn : (s.warmCleared c).now = s.now := by rw [State.warmCleared, hk]; rfl
  have hf : (s.warmCleared c).fuses = s.fuses := by rw [State.warmCleared, hk]; rfl
  have hc : (s.warmCleared c).cnt = s.cnt := by rw [State.warmCleared, hk]; rfl
  have hkeep {x : Comp} (hx : x ∈ [Comp.reqs, .convs, .parts, .wlh, .now]) : Comp.same (s.warmCleared c) (s.warmAborted c) x :=
    ha.keeps (l := [.out, .regs, .cnt, .mem, .movers, .tier, .rrc, .engines, .qps, .srch, .units, .digs, .pwr, .pcie, .tiles]) (by rfl) x
      (by simp at hx; rcases hx with rfl | rfl | rfl | rfl | rfl <;> decide)
  refine ⟨⟨?_, ?_, rfl, ?_, ?_, rfl, rfl, rfl⟩, ?_, ?_, ?_, ?_⟩
  · exact (hkeep (x := .reqs) (by simp)).trans rfl
  · exact (hkeep (x := .convs) (by simp)).trans rfl
  · exact (hkeep (x := .parts) (by simp)).trans rfl
  · exact ha.still (by decide) rfl
  · exact (hkeep (x := .now) (by simp)).trans hn
  · exact ha.fuses.trans hf
  · exact congrArg Wlh.afterReset ((hkeep (x := .wlh) (by simp)).trans hw)
  · rw [State.warmPages, State.get_cnt_resetPages, inPages_of_at (Page.at_base_add .rstc (by omega))]
    have hr : ((s.warmAborted c).counter .rstc 0x98) = ((s.warmCleared c).counter .rstc 0x98) := ha.resets (by decide)
    rw [State.counter, State.counter, hc] at hr
    exact BitVec.eq_of_toNat_eq hr

/-- What a warm reset may touch after its pages start again. -/
def warmPlaces : List Place :=
  Reg.WLH_IMG_CTRL_RECOVERY_NEXT.place .wlh ::
    [Reg.RSTC_CAUSE_CAUSE.place .rstc, Reg.RSTC_CAUSE_INSTANCE.place .rstc, Reg.RSTC_CAUSE_TIME_TIME.place .rstc] ++ restartPlaces

theorem State.changes.resetCause {i : Nat} (h : s.changes t cs fs ns)
    (hm : ∀ x ∈ [Reg.RSTC_CAUSE_CAUSE.place .rstc, Reg.RSTC_CAUSE_INSTANCE.place .rstc, Reg.RSTC_CAUSE_TIME_TIME.place .rstc], x ∈ fs) :
    s.changes (t.resetCause c i) cs fs ns :=
  .setFld (.setFld (.setFld h (hm _ (by simp))) (hm _ (by simp))) (hm _ (by simp))

theorem State.warmReset_changes (s : State) (c : Nat) : (s.warmPages c).changes (s.warmReset c) [] warmPlaces [(.rstc, 0x98)] := by
  rw [State.warmReset_eq]
  refine .restart_ (.resetCause (.count (.setFld .refl (by simp [warmPlaces])) (by simp)) ?_) ?_
  · intro x hx
    simp only [warmPlaces, List.mem_append, List.mem_cons] at hx ⊢
    tauto
  · intro x hx
    exact List.mem_append_right _ hx

/-- A word or a counter of a page that shows nothing after the reset. -/
theorem State.warmReset_unshown (s : State) {a : Nat} {pg : Page} (h : Page.at a = some pg) (hp : ¬ (pg ∈ [Page.dev, .pin, .ledg, .uart, .wlh] ∨ pg = .rstc)) :
    (s.warmReset c).word a = (s.warmPages c).word a ∧ Map.get 0 (s.warmReset c).cnt a = Map.get 0 (s.warmPages c).cnt a := by
  have ho : (s.warmPages c).changesOn (s.warmReset c) [] [.rstc, .dev, .pin, .ledg, .uart, .wlh] :=
    (s.warmReset_changes c).onPages (by simp +decide [warmPlaces, restartPlaces, restartPages, ledgerPlaces]) (by simp)
  refine ho.2 a fun q hq => ?_
  by_contra hin
  have hat : Page.at a = some q := by
    have := Page.at_base_add q (o := a - q.base) (by omega)
    rwa [show q.base + (a - q.base) = a by omega] at this
  have : q = pg := Option.some.inj (hat.symm.trans h)
  subst this
  simp only [List.mem_cons] at hp hq
  tauto

/-- The cause, its count and RECOVERY_NEXT. -/
theorem State.warmReset_shows (s : State) (hc : c < 16) : (s.warmReset c).fld .rstc Reg.RSTC_CAUSE_CAUSE = c ∧
    (s.warmReset c).fld .rstc Reg.RSTC_CAUSE_INSTANCE = 0 ∧ (s.warmReset c).fld .rstc Reg.RSTC_CAUSE_TIME_TIME = s.now % 2 ^ 64 ∧
    s.counted (s.warmReset c) .rstc 0x98 ∧ (s.warmReset c).fld .wlh Reg.WLH_IMG_CTRL_RECOVERY_NEXT = s.fld .wlh Reg.WLH_IMG_CTRL_RECOVERY_NEXT := by
  obtain ⟨-, hnow, -, -, hcnt⟩ := s.warmPages_spec c
  obtain ⟨v, hv⟩ : ∃ v, v = ((((s.warmPages c).setFld .wlh Reg.WLH_IMG_CTRL_RECOVERY_NEXT (s.fld .wlh Reg.WLH_IMG_CTRL_RECOVERY_NEXT)).count .rstc 0x98).resetCause c 0) := ⟨_, rfl⟩
  have ht : v.changes (s.warmReset c) [] restartPlaces [] := by
    rw [State.warmReset_eq, ← hv]
    exact .restart_ .refl fun _ h => h
  have hn : ((s.warmPages c).setFld .wlh Reg.WLH_IMG_CTRL_RECOVERY_NEXT (s.fld .wlh Reg.WLH_IMG_CTRL_RECOVERY_NEXT)).now = s.now := by
    rw [State.now_setFld, hnow]
  refine ⟨?_, ?_, ?_, ?_, ?_⟩
  · rw [ht.fld (by simp +decide [restartPlaces, restartPages, ledgerPlaces, Place.apart_of, Place.apart_of_ne]), hv]
    rw [State.resetCause, State.fld_setFld_apart _ (by decide), State.fld_setFld_apart _ (by decide), State.fld_setFld_of_lt _ hc]
  · rw [ht.fld (by simp +decide [restartPlaces, restartPages, ledgerPlaces, Place.apart_of, Place.apart_of_ne]), hv]
    simp +decide [State.resetCause, State.fld_eq]
  · rw [ht.fld (by simp +decide [restartPlaces, restartPages, ledgerPlaces, Place.apart_of, Place.apart_of_ne]), hv]
    rw [State.resetCause, State.fld_setFld_same]
    simp only [State.now_setFld, State.now_count, hnow]
    rfl
  · have hc0 : (s.warmPages c).counter .rstc 0x98 = s.counter .rstc 0x98 := congrArg BitVec.toNat hcnt
    rw [State.counted, ht.counter (by simp), hv, State.resetCause, ← hc0]
    simp +decide [State.counter_eq]
  · rw [ht.fld (by simp +decide [restartPlaces, restartPages, ledgerPlaces, Place.apart_of, Place.apart_of_ne]), hv, State.resetCause]
    have hlt := s.fld_lt .wlh Reg.WLH_IMG_CTRL_RECOVERY_NEXT 0
    generalize s.fld .wlh Reg.WLH_IMG_CTRL_RECOVERY_NEXT = n at hlt ⊢
    simp +decide [State.fld_eq, hlt]

/-- The pages that a warm reset starts again. -/
theorem State.warmReset_reached (s : State) {a : Nat} {pg : Page} (h : Page.at a = some pg) (hr : warmReaches c pg = true)
    (hp : pg ∉ [Page.dev, .pin, .ledg, .uart, .wlh]) :
    (s.warmReset c).word a = Reg.resetWord s.fuses.binB a ∧ Map.get 0 (s.warmReset c).cnt a = 0 := by
  obtain ⟨hw, hc⟩ := s.warmReset_unshown (c := c) h (by
    rintro (h | h)
    · exact hp (by simpa using h)
    · subst h
      exact Bool.noConfusion hr)
  rw [hw, hc, State.warmPages, State.word_resetPages, State.get_cnt_resetPages, inPages_of_at h, hr, if_pos rfl, if_pos rfl]
  exact ⟨by rw [← (s.warmPages_spec c).2.2.1]; rfl, rfl⟩

/-- Nothing is fenced after a warm reset. -/
theorem State.warmReset_fenced (s : State) (p : PartId) : (s.warmReset c).fenced p = false := by
  have hw := (s.warmReset_reached (c := c) (Page.at_base_add .qrm (o := Reg.QRM_FENCE_DP_MASK.off) (by decide)) rfl (by decide)).1
  have h0 (b : Bool) : Reg.resetWord b (Page.qrm.base + Reg.QRM_FENCE_DP_MASK.off) = 0 := by cases b <;> decide +kernel
  have hf : (s.warmReset c).fld .qrm Reg.QRM_FENCE_DP_MASK = 0 := by
    rw [h0] at hw
    have : (s.warmReset c).words (Reg.QRM_FENCE_DP_MASK.addr .qrm 0) 1 = 0 := by
      rw [State.words, State.words, show Reg.QRM_FENCE_DP_MASK.addr .qrm 0 = Page.qrm.base + Reg.QRM_FENCE_DP_MASK.off by decide, hw]
      rfl
    rw [State.fld, show Reg.QRM_FENCE_DP_MASK.words = 1 by decide, this]
    rfl
  simp [State.fenced, hf, bit]

/-- A warm reset with no move from or to another device under way keeps the memory's pages. -/
theorem State.warmReset_local (s : State) (h : ∀ m ∈ s.tier.migs, m.kind = .localMove) :
    ((s.warmReset c).mem = s.mem ∧ (s.warmReset c).tier.pages = s.tier.pages ∧ (s.warmReset c).tier.dirs = s.tier.dirs ∧
      (s.warmReset c).tier.frames = s.tier.frames) ∧
    ∀ a pg, Page.at a = some pg → warmReaches c pg = false → pg ≠ .rstc →
      (s.warmReset c).word a = s.word a ∧ Map.get 0 (s.warmReset c).cnt a = Map.get 0 s.cnt a := by
  obtain ⟨hd, w, hk⟩ := s.keepHeld_eq fun h => h.src == .host && !(c != 6)
  have hm : (s.keepHeld fun h => h.src == .host && !(c != 6)).tier.migs.filter (fun m => m.kind != .localMove) = [] := by
    rw [hk]
    exact List.filter_eq_nil_iff.mpr fun m hm => by simp [h m hm]
  have ha : s.warmAborted c = s.warmCleared c := by rw [State.warmAborted, hm]; rfl
  have hc := s.warmReset_changes c
  have hmem : (s.warmPages c).mem = s.mem := by rw [State.warmPages, ha, State.warmCleared, hk]; rfl
  have htier : (s.warmPages c).tier = { s.tier with held := hd, stalled := w, passes := [], passQueue := [], markers := [], answers := [] } := by
    rw [State.warmPages, ha, State.warmCleared, hk]; rfl
  have ht : (s.warmReset c).tier = (s.warmPages c).tier := hc.1 .tier (by simp)
  refine ⟨⟨(hc.1 .mem (by simp)).trans hmem, ?_, ?_, ?_⟩, fun a pg hp hr hn => ?_⟩
  · rw [ht, htier]
  · rw [ht, htier]
  · rw [ht, htier]
  · obtain ⟨h1, h2⟩ := s.warmReset_unshown (c := c) hp (by
      rintro (h | h)
      · simp only [List.mem_cons, List.not_mem_nil, or_false] at h
        rcases h with rfl | rfl | rfl | rfl | rfl <;> exact Bool.noConfusion hr
      · exact hn h)
    rw [h1, h2, State.warmPages, State.word_resetPages, State.get_cnt_resetPages, inPages_of_at hp, hr, ha, State.warmCleared, hk]
    exact ⟨State.word_congr rfl rfl _, rfl⟩

/-- What is empty after a warm reset. -/
theorem State.warmReset_empty (s : State) : ((s.warmReset c).reqs = [] ∧ (s.warmReset c).convs = [] ∧ (s.warmReset c).movers = [] ∧
      (s.warmReset c).parts = [] ∧ (s.warmReset c).tiles = [] ∧ (s.warmReset c).engines = [] ∧ (s.warmReset c).qps = [] ∧ (s.warmReset c).ports = []) ∧
    ((s.warmReset c).sram = [] ∧ (s.warmReset c).sramBad = [] ∧ (s.warmReset c).regions = [] ∧ (s.warmReset c).rrc = [] ∧
      (s.warmReset c).finj = {} ∧ (s.warmReset c).srch = {} ∧ (s.warmReset c).units = [] ∧ (s.warmReset c).digs = [] ∧
      (s.warmReset c).elog = {} ∧ (s.warmReset c).qrm = {} ∧ (s.warmReset c).uart = {}) ∧ (s.warmReset c).wlh = s.wlh.afterReset := by
  obtain ⟨⟨h1, h2, h3, h4, h5, h6, h7, h8⟩, -, -, hw, -⟩ := s.warmPages_spec c
  have k {x : Comp} (hx : x ∉ [Comp.regs, .cnt]) : Comp.same (s.warmPages c) (s.warmReset c) x := (s.warmReset_changes c).1 x (by simpa using hx)
  exact ⟨⟨(k (x := .reqs) (by simp)).trans h1, (k (x := .convs) (by simp)).trans h2, (k (x := .movers) (by simp)).trans h3,
      (k (x := .parts) (by simp)).trans h4, (k (x := .tiles) (by simp)).trans h5, (k (x := .engines) (by simp)).trans h6,
      (k (x := .qps) (by simp)).trans h7, (k (x := .ports) (by simp)).trans h8⟩,
    ⟨(k (x := .sram) (by simp)).trans rfl, (k (x := .sramBad) (by simp)).trans rfl, (k (x := .regions) (by simp)).trans rfl,
      (k (x := .rrc) (by simp)).trans rfl, (k (x := .finj) (by simp)).trans rfl, (k (x := .srch) (by simp)).trans rfl,
      (k (x := .units) (by simp)).trans rfl, (k (x := .digs) (by simp)).trans rfl, (k (x := .elog) (by simp)).trans rfl,
      (k (x := .qrm) (by simp)).trans rfl, (k (x := .uart) (by simp)).trans rfl⟩, (k (x := .wlh) (by simp)).trans hw⟩

/-- What a warm reset may touch. -/
def warmComps : List Comp :=
  [.fresh, .out, .regs, .cnt, .shadow, .mem, .sram, .sramBad, .tiles, .parts, .movers, .tenants, .reqs, .convs, .tier, .rrc, .engines, .regions,
   .qps, .ports, .finj, .srch, .units, .digs, .elog, .qrm, .pwr, .rst, .wlh, .uart, .pcie]

theorem State.warmReset_keeps (s : State) : s.keeps (s.warmReset c) warmComps := Steady.keepsOf (.warmReset (.refl _ s) c)

end

end Sys2Proof.Machine
end

section
/-! PROOFS. O51: boot, watchdog and updates (R344, R355 to R359, R361, R364). -/

namespace Sys2Proof.Machine
open Sys2Proof

section
variable {s t u v w : State} {cs : List Comp} {fs : List Place} {ns : List (Page × Nat)} {b : Bool} {code : Nat}

/-! ## ROM_BOOT -/

/-- The ROM gives the flash its balls and forgets RECOVERY_NEXT. -/
def State.romPins (s : State) : State := (s.setFld .pin Reg.PIN_FUNC_SPI 1).setFld .wlh Reg.WLH_IMG_CTRL_RECOVERY_NEXT 0

/-- The ROM has read the ledger; slots left in WRITING are EMPTY. -/
def State.romStarted (s : State) : State := s.romPins.ledgerShow.dropWriting

/-- A start of the ROM that enters recovery mode at once. -/
def State.forced (s : State) : Prop :=
  bit s.rst.straps 0 = true ∨ s.flag .wlh Reg.WLH_IMG_CTRL_RECOVERY_NEXT = true ∨ s.wlh.flashSize < 16777216 ∨ 67108864 < s.wlh.flashSize

/-- The slot that the ROM tries first. -/
def Wlh.firstSlot (w : Wlh) : Bool :=
  if w.stA = .trial then false else if w.stB = .trial then true else decide (w.stA ≠ .confirmed)

/-- What the ROM does with a flash it can read. -/
def State.romTried (s : State) (b : Bool) : State :=
  if (s.trySlot b).1 = true then (s.trySlot b).2.bootSlot b
  else if ((s.trySlot b).2.trySlot (!b)).1 = true then ((s.trySlot b).2.trySlot (!b)).2.bootSlot (!b)
  else ((s.trySlot b).2.trySlot (!b)).2.enterRecovery

theorem State.romPins_changes : s.changes s.romPins [] [Reg.PIN_FUNC_SPI.place .pin, Reg.WLH_IMG_CTRL_RECOVERY_NEXT.place .wlh] [] :=
  .setFld (.setFld .refl)

theorem State.romPins_shows : s.romPins.flag .pin Reg.PIN_FUNC_SPI = true ∧ s.romPins.flag .wlh Reg.WLH_IMG_CTRL_RECOVERY_NEXT = false ∧
    s.romPins.flag .wlh Reg.WLH_STAT_RECOVERY = s.flag .wlh Reg.WLH_STAT_RECOVERY := by
  refine ⟨?_, ?_, ?_⟩ <;> simp +decide [State.romPins, State.flag, State.fld_eq]

theorem State.romStarted_flash : s.sameFlash s.romStarted :=
  ((State.sameFlash.refl.keeps (l := _) s.romPins_changes.1).keeps (State.ledgerShow_keeps _)).dropWriting

theorem State.romStarted_changes : s.romPins.changes s.romStarted [.wlh, .ledger] ownRecordPlaces ownRecordCounts :=
  .dropWriting (.ledgerShow .refl fun _ h => List.mem_append_left _ h) (by simp) (fun _ h => h) fun _ h => h

theorem exec_romBoot_of_forced (h1 : s.heldInReset = false) (h2 : s.ready .wlh = false) (h : s.forced) :
    exec .romBoot s = .next s.romStarted.enterRecovery := by
  refine congrArg Host.Outcome.next ?_
  have hs : s.romStarted.wlh.flashSize = s.wlh.flashSize := s.romStarted_flash.size
  rw [if_neg (by simp [h1, h2])]
  refine if_pos ?_
  change (_ || !decide (16777216 ≤ s.romStarted.wlh.flashSize ∧ s.romStarted.wlh.flashSize ≤ 67108864)) = true
  rw [hs]
  rcases h with h | h | h | h
  · simp [h]
  · simp [h]
  · simp [Nat.not_le.mpr h]
  · simp [Nat.not_le.mpr h]

theorem exec_romBoot_of_free (h1 : s.heldInReset = false) (h2 : s.ready .wlh = false) (h : ¬ s.forced) :
    exec .romBoot s = .next (s.romStarted.mendFlash.romTried s.romStarted.mendFlash.wlh.firstSlot) := by
  refine congrArg Host.Outcome.next ?_
  have hs : s.romStarted.wlh.flashSize = s.wlh.flashSize := s.romStarted_flash.size
  rw [if_neg (by simp [h1, h2])]
  simp only [State.forced, not_or, Bool.not_eq_true, not_lt] at h
  obtain ⟨ha, hb, hc, hd⟩ := h
  refine (if_neg ?_).trans ?_
  · change ¬ (_ || !decide (16777216 ≤ s.romStarted.wlh.flashSize ∧ s.romStarted.wlh.flashSize ≤ 67108864)) = true
    rw [hs]
    simp [ha, hb, hc, hd]
  · have e : (if s.romStarted.mendFlash.img false = .trial then false else if s.romStarted.mendFlash.img true = .trial then true
        else s.romStarted.mendFlash.img false != .confirmed) = s.romStarted.mendFlash.wlh.firstSlot := by
      simp only [Wlh.firstSlot, State.img, Bool.false_eq_true, if_false, if_true]
      cases s.romStarted.mendFlash.wlh.stA <;> rfl
    rw [← e]
    rfl

/-- What the ROM may touch after its pins. -/
def romCounts : List (Page × Nat) := ownRecordCounts ++ [(.wlh, 0x88), (.wlh, 0x80)]

/-- The image of slot b runs. -/
def State.booted (s t : State) (b : Bool) : Prop :=
  t.wlh.running = true ∧ t.wlh.bootB = b ∧ t.wlh.config = component (s.slotBytes b) 3 ∧
    t.wlh.objects = newestObjs (imgNat (s.slotBytes b) 16 2) s.storeObjs ∧ t.wlh.warned = false ∧ t.wlh.kicked = s.now ∧ t.ready .wlh = true ∧
    t.flag .wlh Reg.WLH_STAT_BOOTED = b ∧ t.out.getLast? = some (.imageStart b false) ∧
    t.flag .wlh Reg.WLH_STAT_RECOVERY = s.flag .wlh Reg.WLH_STAT_RECOVERY ∧ t.flag .pin Reg.PIN_FUNC_SPI = true ∧
    t.flag .pin Reg.PIN_FUNC_PMBUS = true

/-- The image of a slot starts after the ROM has read ledger and slots. -/
theorem State.bootSlot_booted (h : s.romPins.changes w [.wlh, .ledger, .out] ownRecordPlaces romCounts) (hf : s.sameFlash w) :
    s.booted (w.bootSlot b) b ∧ (w.bootSlot b).flag .wlh Reg.WLH_IMG_CTRL_RECOVERY_NEXT = false ∧
      s.keeps (w.bootSlot b) [.regs, .cnt, .wlh, .ledger, .out] := by
  obtain ⟨p1, p2, p3⟩ := s.romPins_shows
  obtain ⟨e, hr, hb, ho, hp, hc⟩ := State.bootSlot_spec (s := w) (b := b)
  have hnow : w.now = s.now := (h.1 .now (by simp)).trans (s.romPins_changes.1 .now (by simp))
  have ht : s.romPins.changes (w.bootSlot b) [.wlh, .ledger, .out] (ownRecordPlaces ++ bootPlaces) romCounts :=
    State.changes_trans (State.changes_mono h (fun _ h => h) (fun _ h => List.mem_append_left _ h) fun _ h => h)
      (State.changes_mono hc (by simp) (fun _ h => List.mem_append_right _ h) (by simp [romCounts]))
  refine ⟨⟨?_, ?_, ?_, ?_, ?_, ?_, hr, hb, ho, ?_, ?_, hp⟩, ?_, ?_⟩
  · rw [e]; rfl
  · rw [e]; rfl
  · rw [e, hf.slotBytes]; rfl
  · rw [e, hf.slotBytes, hf.storeObjs]; rfl
  · rw [e]; rfl
  · rw [e]; exact hnow
  · rw [← p3, State.flag, ht.fld]
    · rfl
    · simp +decide [ownRecordPlaces, ledgerPlaces, slotPlaces, bootPlaces, Place.apart_of, Place.apart_of_ne]
  · rw [← p1, State.flag, ht.fld]
    · rfl
    · simp +decide [ownRecordPlaces, ledgerPlaces, slotPlaces, bootPlaces, Place.apart_of, Place.apart_of_ne]
  · rw [← p2, State.flag, ht.fld]
    · rfl
    · simp +decide [ownRecordPlaces, ledgerPlaces, slotPlaces, bootPlaces, Place.apart_of, Place.apart_of_ne]
  · exact State.keeps_mono (State.keeps_trans s.romPins_changes.1 ht.1) (by simp)

theorem apart_of_rescue {f : Fld} {pg : Page} (hr : Reg.PG_READY_READY.apart f 0 0 = true) (hf : f.fits 0 = true)
    (h : ∀ y ∈ ownRecordPlaces ++ [Reg.WLH_STAT_RECOVERY.place .wlh, Reg.UART_CTRL_TX_EN.place .uart, Reg.UART_CTRL_RX_EN.place .uart,
      Reg.PIN_FUNC_UART.place .pin], Place.apart y (f.place pg)) : ∀ y ∈ ownRecordPlaces ++ rescuePlaces, Place.apart y (f.place pg) := by
  intro y hy
  simp only [rescuePlaces, List.mem_append, List.mem_map] at hy
  rcases hy with hy | (⟨q, -, rfl⟩ | hy) | hy
  · exact h y (List.mem_append_left _ hy)
  · exact Place.apart_of hr rfl hf
  · exact h y (List.mem_append_right _ hy)
  · exact h y (List.mem_append_left _ (List.mem_append_right _ hy))

/-- The ROM enters recovery mode after it has read ledger and slots. -/
theorem State.enterRecovery_entered (h : s.romPins.changes w [.wlh, .ledger, .out] ownRecordPlaces romCounts) :
    w.enterRecovery.flag .pin Reg.PIN_FUNC_SPI = true ∧ w.enterRecovery.flag .wlh Reg.WLH_IMG_CTRL_RECOVERY_NEXT = false ∧
      s.keeps w.enterRecovery [.regs, .cnt, .wlh, .ledger, .out] := by
  obtain ⟨p1, p2, -⟩ := s.romPins_shows
  have ht : s.romPins.changes w.enterRecovery [.wlh, .ledger, .out] (ownRecordPlaces ++ rescuePlaces) romCounts :=
    State.changes_trans (State.changes_mono h (fun _ h => h) (fun _ h => List.mem_append_left _ h) fun _ h => h)
      (State.changes_mono w.enterRecovery_changes (by simp) (fun _ h => List.mem_append_right _ h) (by simp))
  refine ⟨?_, ?_, State.keeps_mono (State.keeps_trans s.romPins_changes.1 ht.1) (by simp)⟩
  · rw [← p1, State.flag, ht.fld]
    · rfl
    · exact apart_of_rescue (by decide) (by decide) (by simp +decide [ownRecordPlaces, ledgerPlaces, slotPlaces, Place.apart_of, Place.apart_of_ne])
  · rw [← p2, State.flag, ht.fld]
    · rfl
    · exact apart_of_rescue (by decide) (by decide) (by simp +decide [ownRecordPlaces, ledgerPlaces, slotPlaces, Place.apart_of, Place.apart_of_ne])

theorem State.trySlot_rom (h : s.romPins.changes w [.wlh, .ledger, .out] ownRecordPlaces romCounts) :
    s.romPins.changes (w.trySlot b).2 [.wlh, .ledger, .out] ownRecordPlaces romCounts :=
  .trySlot h (by simp) (fun _ h => h) (fun _ h => List.mem_append_left _ h) (by simp [romCounts])

/-- What the ROM reads before it tries a slot. -/
theorem State.mended_rom : s.romPins.changes s.romStarted.mendFlash [.wlh, .ledger, .out] ownRecordPlaces romCounts :=
  .mendFlash (State.changes_mono s.romStarted_changes (by simp) (fun _ h => h) fun _ h => List.mem_append_left _ h) (by simp) (fun _ h => h)
    fun _ h => List.mem_append_left _ h

/-! ## Ends of updates -/

theorem checkImage_lt (f : Fuses) (n : Nat) (img : List Byte) : checkImage f n img < 256 := by
  unfold checkImage
  extract_lets key keyOk
  split
  · omega
  · split
    · omega
    · split
      · omega
      · split
        · omega
        · split <;> omega

/-- A command of the host's interface has ended with a code. -/
def State.updShown (s : State) (code : Nat) : State :=
  (((s.setWlh { s.wlh with upd := none }).setFld .wlh Reg.WLH_UPD_CMD_RESULT code).setFld .wlh Reg.WLH_UPD_CMD_BUSY 0).irq .wlh 0

theorem State.updResult_host {x : Upd} (h : x.recovery = false) : s.updResult x code = s.updShown code := if_neg (by simp [h])

theorem State.updShown_spec (hc : code < 256) : (s.updShown code).fld .wlh Reg.WLH_UPD_CMD_RESULT = code ∧
    (s.updShown code).flag .wlh Reg.WLH_UPD_CMD_BUSY = false ∧ s.raised (s.updShown code) .wlh 0 ∧ (s.updShown code).wlh = { s.wlh with upd := none } ∧
    s.changes (s.updShown code) [.wlh, .out, .pcie] (Reg.WLH_UPD_CMD_RESULT.place .wlh :: Reg.WLH_UPD_CMD_BUSY.place .wlh :: irqPlaces .wlh)
      (irqCounts .wlh) := by
  have h1 : s.changes (((s.setWlh { s.wlh with upd := none }).setFld .wlh Reg.WLH_UPD_CMD_RESULT code).setFld .wlh Reg.WLH_UPD_CMD_BUSY 0) [.wlh]
      [Reg.WLH_UPD_CMD_RESULT.place .wlh, Reg.WLH_UPD_CMD_BUSY.place .wlh] [] := .setFld (.setFld (.setWlh .refl))
  have hc' : code < 2 ^ Reg.WLH_UPD_CMD_RESULT.width := hc
  refine ⟨?_, ?_, h1.raised (by simp +decide [Place.apart_of]), ?_, .irq (State.changes_mono h1 (by simp) (by simp) (by simp))⟩
  · simp +decide [State.updShown, State.fld_eq, hc']
  · simp +decide [State.updShown, State.flag, State.fld_eq]
  · rw [State.updShown, State.wlh_irq, State.wlh_setFld, State.wlh_setFld, State.wlh_setWlh]

theorem exec_updDone_failed {x : Upd} (h : s.wlh.upd = some x) (hr : x.result ≠ 0) : exec .updDone s = .next (s.updResult x x.result) := by
  refine congrArg Host.Outcome.next ?_
  simp only [h]
  rw [if_neg (by simp [hr]), if_pos hr]

theorem exec_updDone_checked {x : Upd} (h : s.wlh.upd = some x) (hr : x.result = 0) (hi : x.install = false) : exec .updDone s = .next (
    if x.boot = true ∧ checkImage s.fuses s.slotSize (s.updBytes x 0 x.len) = 0 then
      (((s.updResult x (checkImage s.fuses s.slotSize (s.updBytes x 0 x.len))).startImage (s.updBytes x 0 x.len)).leaveRecovery).send
        (.imageStart false false)
    else s.updResult x (checkImage s.fuses s.slotSize (s.updBytes x 0 x.len))) := by
  refine congrArg Host.Outcome.next ?_
  simp only [h]
  rw [if_neg (by simp [hi]), if_neg (by simp [hr])]
  simp only [hi, Bool.false_eq_true, if_false]

theorem exec_updDone_installed {x : Upd} (h : s.wlh.upd = some x) (hr : x.result = 0) (hi : x.install = true) (hb : x.boot = false)
    (hd : x.len ≤ x.done) (hc : code = checkImage s.fuses s.slotSize ((s.slotBytes x.slotB).take x.len)) :
    exec .updDone s = .next ((s.setImg x.slotB (if code = 0 then .trial else .empty) 0).updResult x code) := by
  subst hc
  refine congrArg Host.Outcome.next ?_
  simp only [h]
  rw [if_neg (by simp [Nat.not_lt.mpr hd]), if_neg (by simp [hr])]
  simp only [hi, hb, Bool.false_eq_true, false_and, if_false, if_true]

/-! ## Ends of recovery commands -/

/-- The Wellhead after a recovery command. -/
def Wlh.answered (y : Wlh) (x : Upd) (code : Nat) : Wlh :=
  { y with upd := none, rcvResult := code, lastAns := if x.seq.isSome ∧ y.lastSeq = x.seq then code else y.lastAns }

theorem State.updResult_rcv {x : Upd} (h : x.recovery = true) : (s.updResult x code).wlh = s.wlh.answered x code ∧
    (∀ q, x.seq = some q → Out.uartReply q code ∈ (s.updResult x code).out) ∧
    s.changes (s.updResult x code) [.wlh, .out] [] [(.uart, 0x80)] := by
  have e : s.updResult x code = match x.seq with
      | some q => (s.setWlh (s.wlh.answered x code)).uartAnswer q code
      | none => s.setWlh (s.wlh.answered x code) := if_pos h
  rw [e]
  cases hs : x.seq with
  | none => exact ⟨rfl, by simp, .setWlh .refl⟩
  | some q => exact ⟨rfl, by simp [State.uartAnswer, State.send], .uartAnswer (.setWlh .refl)⟩

/-- What the end of recovery mode may touch. -/
def leavePlaces : List Place :=
  [Reg.PIN_FUNC_PMBUS.place .pin, Reg.WLH_STAT_RECOVERY.place .wlh] ++ ([.clk, .time, .pwr, .sync, .pin] : List Page).map Reg.PG_READY_READY.place

/-- An image taken over the UART runs. -/
def State.rcvStarted (s : State) (img : List Byte) : State := ((s.startImage img).leaveRecovery).send (.imageStart false false)

theorem State.rcvStarted_spec {img : List Byte} : (s.rcvStarted img).wlh = s.wlh.withImage img s.storeObjs s.now ∧
    (s.rcvStarted img).out = s.out ++ [.imageStart false false] ∧ (s.rcvStarted img).flag .wlh Reg.WLH_STAT_RECOVERY = false ∧
    s.changes (s.rcvStarted img) [.wlh, .out] leavePlaces [] := by
  have e : s.rcvStarted img = (((s.startImage img).setFld .wlh Reg.WLH_STAT_RECOVERY 0).setReady [.clk, .time, .pwr, .sync, .pin]).send
      (.imageStart false false) := rfl
  have h1 : ((s.startImage img).setFld .wlh Reg.WLH_STAT_RECOVERY 0).changes (s.rcvStarted img) [.out]
      (([.clk, .time, .pwr, .sync, .pin] : List Page).map Reg.PG_READY_READY.place) [] := by
    rw [e]
    exact .send (.setReady .refl)
  have h2 : s.changes ((s.startImage img).setFld .wlh Reg.WLH_STAT_RECOVERY 0) [.wlh]
      [Reg.PIN_FUNC_PMBUS.place .pin, Reg.WLH_STAT_RECOVERY.place .wlh] [] := by
    rw [State.startImage_eq]
    exact .setFld (.setWlh (.setFld .refl))
  refine ⟨?_, ?_, ?_, State.changes_trans (State.changes_mono h2 (by simp) (by simp [leavePlaces]) (by simp))
    (State.changes_mono h1 (by simp) (by simp [leavePlaces]) (by simp))⟩
  · rw [h1.1 .wlh (by simp), State.wlh_setFld, State.startImage_eq, State.wlh_setWlh]
  · rw [e, State.send, State.setReady]
    have : (((s.startImage img).setFld .wlh Reg.WLH_STAT_RECOVERY 0).setReady [.clk, .time, .pwr, .sync, .pin]).out = s.out :=
      ((State.changes.setReady (cs := []) (ns := []) .refl fun p hp => List.mem_map_of_mem hp).1 .out (by simp)).trans (h2.1 .out (by simp))
    rw [← this]
    rfl
  · rw [State.flag, h1.fld (by simp +decide [Place.apart_of, Place.apart_of_ne]), State.fld_setFld_same]
    rfl

end

end Sys2Proof.Machine
end

section
/-! PROOFS. O51: what ROM_BOOT, the watchdog, INSTALL, VERIFY, UPD_DONE and CONFIRM do. -/

namespace Sys2Proof.Machine
open Sys2Proof

section
variable {s t u v w : State} {b : Bool} {code op : Nat}

/-! ## ROM_BOOT -/

theorem State.romTried_spec (h : s.romPins.changes w [.wlh, .ledger, .out] ownRecordPlaces romCounts) (hf : s.sameFlash w) :
    (if (w.trySlot b).1 = true then s.booted (w.romTried b) b
      else if ((w.trySlot b).2.trySlot (!b)).1 = true then s.booted (w.romTried b) (!b)
      else (w.romTried b).flag .wlh Reg.WLH_STAT_RECOVERY = true ∧ (w.romTried b).ready .wlh = true ∧
        (w.romTried b).out.getLast? = some (.imageStart false true)) ∧
    (w.romTried b).flag .wlh Reg.WLH_IMG_CTRL_RECOVERY_NEXT = false ∧ s.keeps (w.romTried b) [.regs, .cnt, .wlh, .ledger, .out] := by
  have h1 := State.trySlot_rom h (b := b)
  have h2 := State.trySlot_rom h1 (b := !b)
  have f1 := hf.trySlot (b := b)
  have f2 := f1.trySlot (b := !b)
  unfold State.romTried
  split
  · exact State.bootSlot_booted h1 f1
  · split
    · exact State.bootSlot_booted h2 f2
    · obtain ⟨-, hn, hk⟩ := State.enterRecovery_entered h2
      obtain ⟨hr, hw, -, -, -, ho⟩ := State.enterRecovery_spec (s := ((w.trySlot b).2.trySlot (!b)).2)
      exact ⟨⟨hr, hw, by rw [ho]; simp⟩, hn, hk⟩

theorem State.flash_enterRecovery : s.enterRecovery.wlh = s.wlh := State.enterRecovery_changes.1 .wlh (by simp)

theorem State.out_romStarted : s.romStarted.out = s.out :=
  (s.romStarted_changes.1 .out (by simp)).trans (s.romPins_changes.1 .out (by simp))

/-! ## The watchdog -/

theorem exec_wdogReset (h : s.wlh.running = true) (ht : s.wlh.kicked + s.wdogNs ≤ s.now) : exec .wdogReset s = .next (s.deviceReset 5) :=
  congrArg Host.Outcome.next (if_pos (by simp [h, ht]))

theorem State.deviceReset_of_free (h : s.ledger.writing = []) (hc : 2 < code) : s.deviceReset code = s.warmReset code := by
  rw [State.deviceReset, if_neg (by simp [h]), State.takeReset, if_neg (by omega)]

/-- A reset that waits for a record. -/
def State.waitReset (s : State) (c : Nat) : State :=
  s.setRst { s.rst with waiting := some (match s.rst.waiting with | some k => min k c | none => c) }

theorem State.deviceReset_of_writing (h : s.ledger.writing ≠ []) : (s.deviceReset code).rst = (s.waitReset code).rst ∧
    s.changes (s.deviceReset code) [.rst] [] [(.rstc, 0x90)] := by
  have e : s.deviceReset code = match s.rst.waiting with
      | some k => s.setRst { s.rst with waiting := some (min k code) }
      | none => (s.setRst { s.rst with waiting := some code }).count .rstc 0x90 := by
    rw [State.deviceReset, if_pos h]
    rfl
  rw [e, State.waitReset]
  cases s.rst.waiting with
  | none => exact ⟨rfl, .count (.setRst .refl)⟩
  | some k => exact ⟨rfl, .setRst .refl⟩

/-! ## INSTALL and VERIFY -/

theorem exec_updGo_eq {c : Instr} (e : exec c s = .next (s.updGo op)) (h : s.ready .wlh = true) (hu : s.wlh.upd = none) :
    exec c s = .next ((s.updBegun op).startUpd (s.updOf op)) := e.trans (congrArg _ (State.updGo_eq h hu))

/-- A GO that a running command refuses. -/
theorem completes.updGo_refused {c : Instr} (e : exec c s = .next (s.updGo op)) (h : s.ready .wlh = true) (hu : s.wlh.upd ≠ none) :
    completes c s fun t => s.erred t .wlh 1 ∧ s.changes t [] (errPlaces .wlh) (errCounts .wlh) :=
  .next ⟨State.err_erred _ _ _ (by decide), .err .refl⟩ (e.trans (congrArg _ (State.updGo_refused h hu)))

/-- A GO whose command is kept without a start. -/
theorem completes.updGo_kept {c : Instr} {x : Upd} (e : exec c s = .next (s.updGo op)) (h : s.ready .wlh = true) (hu : s.wlh.upd = none)
    (ho : op < 2) (k : (s.updBegun op).startUpd (s.updOf op) = (s.updBegun op).setWlh { (s.updBegun op).wlh with upd := some x }) :
    completes c s fun t => t.wlh = { s.wlh with upd := some x } ∧ t.flag .wlh Reg.WLH_UPD_CMD_BUSY = true ∧
      t.fld .wlh Reg.WLH_UPD_CMD_OP = op ∧ s.changes t [.wlh] [Reg.WLH_UPD_CMD_BUSY.place .wlh, Reg.WLH_UPD_CMD_OP.place .wlh] [] := by
  refine .next ?_ ((exec_updGo_eq e h hu).trans (congrArg _ k))
  obtain ⟨h1, h2⟩ := State.updBegun_shows (s := s) ho (cs := [.wlh]) (ns := [])
    (State.changes.setWlh (w := { (s.updBegun op).wlh with upd := some x }) .refl)
  exact ⟨by rw [State.wlh_setWlh, State.wlh_updBegun], h1, h2, .setWlh (.updBegun .refl)⟩

/-- The reads of an idle interface do not depend on the command's registers. -/
theorem State.slotsIdle_updBegun (h : s.slotsIdle) : (s.updBegun op).slotsIdle := by
  simpa only [State.slotsIdle, State.wlh_updBegun] using h

theorem State.updRoom_updOf : (s.updBegun op).updRoom (s.updOf op) = s.slotSize := by
  rw [State.updRoom, if_neg (by simp [State.updOf]), State.slotSize, State.slotSize, State.wlh_updBegun]

theorem State.slotB_updBegun : decide ((s.updBegun op).wlh.stA = .confirmed) = decide (s.wlh.stA = .confirmed) := by rw [State.wlh_updBegun]

/-- Places of the command's registers and of what a record may touch. -/
theorem State.updBegun_keeps {l : List Comp} (h : (s.updBegun op).keeps t l) (hl : ∀ x ∈ l, x ∈ [Comp.regs, .cnt, .wlh, .ledger, .out]) :
    s.keeps t [.regs, .cnt, .wlh, .ledger, .out] := by
  have h0 : s.changes (s.updBegun op) [] [Reg.WLH_UPD_CMD_BUSY.place .wlh, Reg.WLH_UPD_CMD_OP.place .wlh] [] := .updBegun .refl
  refine State.keeps_mono (State.keeps_trans h0.1 h) fun x hx => ?_
  simp only [List.mem_append] at hx
  rcases hx with hx | hx
  · revert hx; simp; tauto
  · exact hl x hx

/-! ## UPD_DONE -/

/-- The image taken over the UART runs when its command checked it and was to boot it. -/
theorem State.updDone_rcv {x : Upd} (hu : s.wlh.upd = some x) (hr : x.recovery = true) (hi : x.install = false ∨ x.result ≠ 0)
    (hc : code = if x.result ≠ 0 then x.result else checkImage s.fuses s.slotSize (Map.bytes s.wlh.rcvBuf 0 x.len)) :
    exec .updDone s = .next (if x.boot = true ∧ code = 0 then (s.updResult x code).rcvStarted (Map.bytes s.wlh.rcvBuf 0 x.len)
      else s.updResult x code) := by
  by_cases h0 : x.result = 0
  · rw [if_neg (by simp [h0])] at hc
    rw [exec_updDone_checked hu h0 (hi.resolve_right (by simp [h0])), State.updBytes, if_pos hr, ← hc]
    rfl
  · rw [if_pos h0] at hc
    rw [exec_updDone_failed hu h0, hc, if_neg (by simp [h0])]

/-- A command of the recovery interface ends. -/
theorem State.rcvDone_spec {x : Upd} {img : List Byte} (hr : x.recovery = true)
    (ht : t = if x.boot = true ∧ code = 0 then (s.updResult x code).rcvStarted img else s.updResult x code) :
    t.wlh.upd = none ∧ t.wlh.rcvResult = code ∧
      (t.wlh.rcvResult ≠ 0 → t.flag .wlh Reg.WLH_STAT_RECOVERY = s.flag .wlh Reg.WLH_STAT_RECOVERY) ∧
      (t.wlh.rcvResult = 0 → x.boot = true → t.flag .wlh Reg.WLH_STAT_RECOVERY = false ∧ t.wlh.running = true ∧
        Out.imageStart false false ∈ t.out) ∧
      (t.wlh.stA = s.wlh.stA ∧ t.wlh.stB = s.wlh.stB ∧ t.wlh.flash = s.wlh.flash) ∧
      (∀ q, x.seq = some q → Out.uartReply q t.wlh.rcvResult ∈ t.out) ∧ s.keeps t [.regs, .cnt, .wlh, .out] := by
  obtain ⟨hw, ho, hk⟩ := State.updResult_rcv (s := s) (code := code) hr
  have hrec : (s.updResult x code).flag .wlh Reg.WLH_STAT_RECOVERY = s.flag .wlh Reg.WLH_STAT_RECOVERY := by
    rw [State.flag, hk.fld (by simp)]
    rfl
  split at ht
  next hb =>
    subst ht
    obtain ⟨hw', ho', hf, hk'⟩ := State.rcvStarted_spec (s := s.updResult x code) (img := img)
    have hres : ((s.updResult x code).rcvStarted img).wlh.rcvResult = code := by rw [hw', Wlh.withImage, hw]; rfl
    refine ⟨by rw [hw', Wlh.withImage, hw]; rfl, hres, fun h => absurd (hres.trans hb.2) h, fun _ _ => ⟨hf, by rw [hw']; rfl, by simp [ho']⟩,
      ?_, fun q hq => ?_, State.keeps_mono (State.keeps_trans hk.1 hk'.1) (by simp)⟩
    · rw [hw', Wlh.withImage, hw]
      exact ⟨rfl, rfl, rfl⟩
    · rw [hres, ho']
      exact List.mem_append_left _ (ho q hq)
  next hb =>
    subst ht
    have hres : (s.updResult x code).wlh.rcvResult = code := by rw [hw]; rfl
    refine ⟨by rw [hw]; rfl, hres, fun _ => hrec, fun h h' => absurd ⟨h', hres.symm.trans h⟩ hb, by rw [hw]; exact ⟨rfl, rfl, rfl⟩, ?_,
      State.keeps_mono hk.1 (by simp)⟩
    rw [hres]
    exact ho

/-- An installed image has been checked: its slot is on trial, or empty again. -/
theorem State.installed_spec {x : Upd} (hr : x.recovery = false) (hc : s.ledger.closed = false) (hl : code < 256)
    (ht : t = (s.setImg x.slotB (if code = 0 then .trial else .empty) 0).updResult x code) :
    t.fld .wlh Reg.WLH_UPD_CMD_RESULT = code ∧ t.flag .wlh Reg.WLH_UPD_CMD_BUSY = false ∧ t.wlh.upd = none ∧
      (t.img x.slotB = (if code = 0 then .trial else .empty) ∧ t.img (!x.slotB) = s.img (!x.slotB)) ∧ s.raised t .wlh 0 ∧
      s.keeps t [.regs, .cnt, .wlh, .ledger, .out, .pcie] := by
  obtain ⟨k1, k2, -⟩ := State.setImg_spec (s := s) (slotB := x.slotB) (x := if code = 0 then .trial else .empty) (n := 0) hc
  have hk : s.changes (s.setImg x.slotB (if code = 0 then .trial else .empty) 0) [.wlh, .ledger] ownRecordPlaces ownRecordCounts :=
    .setImg (by simp) (fun _ h => h) (fun _ h => h) .refl
  generalize s.setImg x.slotB (if code = 0 then .trial else .empty) 0 = v at *
  rw [State.updResult_host hr] at ht
  subst ht
  obtain ⟨h1, h2, h3, h4, h5⟩ := State.updShown_spec (s := v) hl
  refine ⟨h1, h2, by rw [h4], ?_, ?_, State.keeps_mono (State.keeps_trans hk.1 h5.1) (by simp)⟩
  · rw [← k1, ← k2]
    simp only [State.img, h4, and_self]
  · rw [State.raised] at h3 ⊢
    rw [h3, hk.irqStat (by simp +decide [ownRecordPlaces, ledgerPlaces, slotPlaces, Place.apart_of, Place.apart_of_ne])]

end

/-- Settles O51, command by command. -/
theorem theRomBoots : Obligations.TheRomBoots := by
  refine ⟨fun s h1 h2 h => ?_, fun s u b h1 h2 h hu hb => ?_, fun s h => ?_, fun s h1 h2 h3 => ?_, fun s h => ?_, fun s h1 h2 h3 hl => ?_,
    fun s h1 h2 h3 => ?_, fun s h1 h2 h3 => ?_, fun s h => ?_, fun s key h1 h2 => ?_, fun s key h => ?_, fun s h1 h2 => ?_, fun s h => ?_,
    fun s h1 h2 => ?_, fun s h => ?_, fun s h1 h2 => ?_, fun s h1 h2 h3 => ?_, fun s h1 h2 h3 h4 => ?_, fun s h1 h2 h3 h4 h5 h6 h7 => ?_,
    fun s h1 h2 h3 h4 h5 => ?_, fun s b k rest h1 h2 h3 hb h4 h5 h6 => ?_, fun s x hu h1 h2 h3 h4 => ?_, fun s x hu h1 h2 h3 h4 => ?_,
    fun s x code hu h1 h2 h3 h4 h5 h6 hc => ?_, fun s x hu h1 h2 => ?_, fun s h => ?_, fun s b h1 h2 hb h3 h4 => ?_, fun s h1 h2 => ?_,
    fun s h => ?_⟩
  · refine completes.next ?_ (exec_romBoot_of_forced h1 h2 h)
    obtain ⟨k1, k2, k3, k4, k5, k6⟩ := State.enterRecovery_spec (s := s.romStarted)
    obtain ⟨p1, p2, p3⟩ := State.enterRecovery_entered (State.changes_mono s.romStarted_changes (by simp) (fun _ h => h) fun _ h => List.mem_append_left _ h)
    exact ⟨k1, k2, k3, ⟨p1, k4⟩, fun pg _ hp => k5 pg hp, p2, (congrArg Wlh.flash State.flash_enterRecovery).trans s.romStarted_flash.flash,
      by rw [k6, State.out_romStarted], p3⟩
  · have hu' : u = s.romStarted.mendFlash := hu
    rw [hu'] at hb ⊢
    subst hb
    exact completes.next (State.romTried_spec s.mended_rom s.romStarted_flash.mendFlash) (exec_romBoot_of_free h1 h2 h)
  · refine .next rfl (congrArg Host.Outcome.next (if_pos ?_))
    rcases h with h | h <;> simp [h]
  · refine completes.next ?_ (congrArg Host.Outcome.next (if_pos (by simp [h1, h2, h3])))
    refine ⟨?_, State.changes.raised (s := s) (cs := [.wlh]) (fs := []) (ns := []) (.setWlh .refl) (by simp), .irq (.setWlh .refl)⟩
    exact State.wlh_irq ..
  · refine .next rfl (congrArg Host.Outcome.next (if_neg ?_))
    rcases h with h | h | h
    · simp [h]
    · simp [h]
    · simp [Nat.not_le.mpr h]
  · refine completes.next ?_ ((exec_wdogReset h1 h2).trans (congrArg _ (State.deviceReset_of_free h3 (by omega))))
    obtain ⟨k1, k2, k3⟩ := s.warmReset_empty (c := 5)
    obtain ⟨m1, m2⟩ := s.warmReset_local (c := 5) hl
    obtain ⟨r1, r2, r3, r4, r5⟩ := s.warmReset_shows (c := 5) (by omega)
    exact ⟨k1, k2, ⟨r1, r2, r3⟩, r4, s.warmReset_fenced, r5, by rw [k3]; rfl, fun a pg hp hr hn => s.warmReset_reached hp hr hn,
      m1, m2, s.warmReset_keeps⟩
  · refine completes.next ?_ ((exec_wdogReset h1 h2).trans (congrArg _ (State.deviceReset_of_free h3 (by omega))))
    obtain ⟨k1, k2, k3⟩ := s.warmReset_empty (c := 5)
    obtain ⟨r1, r2, r3, r4, r5⟩ := s.warmReset_shows (c := 5) (by omega)
    exact ⟨k1, k2, ⟨r1, r2, r3⟩, r4, s.warmReset_fenced, r5, by rw [k3]; rfl, fun a pg hp hr hn => s.warmReset_reached hp hr hn,
      s.warmReset_keeps⟩
  · exact completes.next (State.deviceReset_of_writing h3) (exec_wdogReset h1 h2)
  · refine .next rfl (congrArg Host.Outcome.next (if_neg ?_))
    rcases h with h | h
    · simp [h]
    · simp [Nat.not_le.mpr h]
  · exact .next rfl (congrArg Host.Outcome.next ((State.ifReady_pos h1 _).trans (if_pos h2)))
  · rcases h with h | h
    · exact .not_ready rfl h
    · by_cases hr : s.ready .wlh = true
      · exact .next rfl (congrArg Host.Outcome.next ((State.ifReady_pos hr _).trans (if_neg h)))
      · exact .not_ready rfl (by simpa using hr)
  · exact .updGo_refused rfl h1 h2
  · exact .not_ready rfl h
  · exact .updGo_refused rfl h1 h2
  · exact .not_ready rfl h
  · refine completes.updGo_kept rfl h1 h2 (by omega) ((State.startUpd_of_check rfl).trans ?_)
    rw [State.updRoom_updOf]
    rfl
  · refine completes.updGo_kept rfl h1 h2 (by omega) ((State.startUpd_busy rfl fun hs => h3 ?_).trans ?_)
    · simpa only [State.slotsIdle, State.wlh_updBegun] using hs
    · rw [State.slotB_updBegun]
      rfl
  · refine completes.updGo_kept rfl h1 h2 (by omega) ((State.startUpd_long rfl (State.slotsIdle_updBegun h3) ?_).trans ?_)
    · rw [State.updRoom_updOf]
      exact h4
    · rw [State.slotB_updBegun]
      rfl
  · refine completes.next ?_ (exec_updGo_eq rfl h1 h2)
    obtain ⟨k1, k2, k3, k4, k5, k6⟩ := State.startUpd_full (s := s.updBegun 0) (u := s.updOf 0) rfl (State.slotsIdle_updBegun h3)
      State.slotB_updBegun.symm (by rw [State.updRoom_updOf]; exact h4)
      ((State.goodSectors_congr (by rw [State.wlh_updBegun]) (by rw [State.wlh_updBegun]) _).trans h5)
      (by rw [State.ledger_updBegun]; exact h6) (by rw [State.ledger_updBegun]; exact h7)
    obtain ⟨b1, -⟩ := State.updBegun_shows (s := s) (op := 0) (by omega) (cs := [.wlh, .ledger, .out]) (ns := ownRecordCounts)
      (.startUpd (u := s.updOf 0) (by simp) (fun _ h => h) (fun _ h => h) .refl)
    refine ⟨⟨k1, k2.trans ?_⟩, k3, b1, k4.trans (by rw [State.wlh_updBegun]), k5.trans State.out_updBegun, ?_⟩
    · simp only [State.img, State.wlh_updBegun]
    · have h0 : s.changes (s.updBegun 0) [] [Reg.WLH_UPD_CMD_BUSY.place .wlh, Reg.WLH_UPD_CMD_OP.place .wlh] [] := .updBegun .refl
      exact State.keeps_mono (State.keeps_trans h0.1 k6) (by simp)
  · refine completes.updGo_kept rfl h1 h2 (by omega) ((State.startUpd_closed rfl (State.slotsIdle_updBegun h3) ?_ ?_).trans ?_)
    · rw [State.updRoom_updOf]
      exact h4
    · rw [State.ledger_updBegun]
      exact h5
    · rw [State.slotB_updBegun]
      rfl
  · refine completes.next ?_ (exec_updGo_eq rfl h1 h2)
    obtain ⟨k1, k2, k3, k4, k5, k6⟩ := State.startUpd_install (s := s.updBegun 0) (u := s.updOf 0) (b := b) (k := k) (rest := rest) rfl
      (State.slotsIdle_updBegun h3) (by rw [State.slotB_updBegun]; exact hb) (by rw [State.updRoom_updOf]; exact h4)
      ((State.goodSectors_congr (by rw [State.wlh_updBegun]) (by rw [State.wlh_updBegun]) _).trans h5)
      (by rw [State.ledger_updBegun]; exact h6)
    obtain ⟨b1, -⟩ := State.updBegun_shows (s := s) (op := 0) (by omega) (cs := [.wlh, .ledger, .out]) (ns := ownRecordCounts)
      (.startUpd (u := s.updOf 0) (by simp) (fun _ h => h) (fun _ h => h) .refl)
    have hf : (s.updBegun 0).sameFlash ((s.updBegun 0).startUpd (s.updOf 0)) := State.sameFlash.refl.startUpd
    refine ⟨⟨k1, k2.trans ?_⟩, k3, k5, k4.trans (by rw [State.out_updBegun]), b1, hf.flash.trans (by rw [State.wlh_updBegun]),
      State.updBegun_keeps k6 fun _ h => h⟩
    simp only [State.img, State.wlh_updBegun]
  · refine completes.next ?_ ((exec_updDone_failed hu h2).trans (congrArg _ (State.updResult_host h1)))
    obtain ⟨k1, k2, k3, k4, k5⟩ := State.updShown_spec (s := s) h3
    exact ⟨k1, k2, k3, by rw [k4], k5⟩
  · refine completes.next ?_ ((exec_updDone_checked hu h2 h3).trans (congrArg _ ((if_neg (by simp [h4])).trans (State.updResult_host h1))))
    obtain ⟨k1, k2, k3, k4, k5⟩ := State.updShown_spec (s := s) (checkImage_lt s.fuses s.slotSize (s.updBytes x 0 x.len))
    rw [State.updBytes, if_neg (by simp [h1]), Nat.add_zero] at k1 k2 k3 k4 k5 ⊢
    exact ⟨k1, k2, k3, by rw [k4], k4, k5⟩
  · exact completes.next (State.installed_spec h1 h6 (by rw [hc]; exact checkImage_lt ..) rfl) (exec_updDone_installed hu h2 h3 h4 h5 hc)
  · refine completes.next ?_ (State.updDone_rcv hu h1 h2 rfl)
    exact State.rcvDone_spec h1 rfl
  · refine .next rfl (congrArg Host.Outcome.next ?_)
    cases hu : s.wlh.upd with
    | none => rfl
    | some x =>
      rw [hu] at h
      exact if_pos (by simpa [and_assoc] using h)
  · subst hb
    refine .next rfl (congrArg Host.Outcome.next ((State.ifReady_pos h1 _).trans ((if_neg ?_).trans (if_neg ?_))))
    · simp [h2, h3]
    · simp [h4]
  · refine completes.next ⟨State.err_erred _ _ _ (by decide), .err .refl⟩ (congrArg Host.Outcome.next ((State.ifReady_pos h1 _).trans (if_pos ?_)))
    rcases h2 with h | h <;> simp [h]
  · rcases h with h | ⟨h1, h2, h3⟩
    · exact .not_ready rfl h
    · by_cases hr : s.ready .wlh = true
      · exact .next rfl (congrArg Host.Outcome.next ((State.ifReady_pos hr _).trans ((if_neg (by simp [h1, h2])).trans (if_pos h3))))
      · exact .not_ready rfl (by simpa using hr)

end Sys2Proof.Machine
end

section
/-! PROOFS. O53, part 1: the ledger's commands (R346, R366 to R369). -/

namespace Sys2Proof.Machine
open Sys2Proof

section
variable {s t u v : State} {cs ds : List Comp} {fs gs : List Place} {ns ms : List (Page × Nat)} {r : BitVec 1024} {f n o : Nat} {pg : Page}

/-! ## Counts along frames -/

/-- A count between two frames that do not touch the counter. -/
theorem State.changes.counted (h : s.changes u cs fs ns) (k : (u.count pg o n).changes t ds gs ms)
    (hn : ∀ x ∈ ns, pg.base + o ≠ x.1.base + x.2 := by simp) (hm : ∀ x ∈ ms, pg.base + o ≠ x.1.base + x.2 := by simp) :
    s.counted t pg o n := by
  rw [State.counted, k.counter hm, State.counter_count_same, h.counter hn]

/-! ## A record in the ledger -/

@[simp] theorem State.cnt_setLedger {l : Ledger} : (s.setLedger l).cnt = s.cnt := by rw [State.setLedger]

/-- What the Ledger's pages show of it. -/
theorem State.ledgerShow_shows : s.ledgerShow.flag .ledg Reg.LEDG_STAT_RO = s.ledger.readOnly ∧
    s.ledgerShow.fld .ledg Reg.LEDG_SEQ_NEXT = s.ledger.next % 2 ^ 48 := by
  have hn : s.ledger.next % 2 ^ 48 < 2 ^ Reg.LEDG_SEQ_NEXT.width := Nat.mod_lt _ (by decide)
  obtain ⟨w, hw⟩ : ∃ w, w = ((s.setFld .ledg Reg.LEDG_STAT_RO s.ledger.readOnly.toNat).setFld .ledg Reg.LEDG_STAT_SPARES
    s.ledger.spares).setFld .ledg Reg.LEDG_STAT_SEQ_END (if s.ledger.next = 2 ^ 48 - 1 then 1 else 0) := ⟨_, rfl⟩
  have e : s.ledgerShow = w.setFld .ledg Reg.LEDG_SEQ_NEXT s.ledger.next := by
    rw [hw]
    rfl
  have hr : s.ledger.readOnly.toNat < 2 ^ Reg.LEDG_STAT_RO.width := Bool.toNat_lt _
  rw [e]
  constructor
  · rw [hw]
    simp +decide [State.flag, State.fld_eq, hr]
  · exact State.fld_setFld_same ..

/-- The ledger after a pulse that put a record in, on a spare block when three retries failed. -/
def Ledger.pulsed (l : Ledger) (f : Nat) : Ledger := { l with spares := if f = 4 then l.spares - 1 else l.spares }

/-- The state after such a pulse, before the record shows. -/
def State.pulsed (s : State) (f : Nat) : State :=
  if f < 4 then s.count .ledg 0x88 (min f 3) else ((s.count .ledg 0x88 (min f 3)).count .ledg 0x90).setLedger (s.ledger.pulsed f)

/-- Failures of a pulse after which its record is in. -/
def Ledger.takes (l : Ledger) (f : Nat) : Prop := f < 4 ∨ f = 4 ∧ l.spares ≠ 0

theorem State.ledger_pulsed (h : s.ledger.takes f) : (s.pulsed f).ledger = s.ledger.pulsed f := by
  unfold State.pulsed
  split
  next h4 => rw [State.ledger_count, Ledger.pulsed, if_neg (by omega)]
  · rfl

theorem State.ledgerTry_takes (h : s.ledger.takes f) : s.ledgerTry r f = (true, (s.pulsed f).ledgerWritten r) := by
  unfold State.pulsed State.ledgerTry
  rcases h with h | ⟨rfl, h⟩
  · rw [if_pos h, if_pos h]
  · rw [if_neg (Nat.lt_irrefl 4), if_neg (Nat.lt_irrefl 4)]
    refine (if_neg h).trans ?_
    rfl

theorem State.pulsed_changes : s.changes (s.pulsed f) [.ledger] [] [(.ledg, 0x88), (.ledg, 0x90)] :=
  .ite (.count .refl) (.setLedger (.count (.count .refl)))

theorem State.counted_pulsed : s.counted (s.pulsed f) .ledg 0x88 (min f 3) := by
  unfold State.pulsed
  split
  · exact State.counter_count_same ..
  · rw [State.counted]
    simp +decide [State.counter_eq]

/-- A record that is not of the slots' states goes into a log that is not full. -/
theorem State.pulsed_written (hr : (recKey r).1 ≠ 3) (hf : s.ledger.takes f) (hl : s.ledger.recs.length < 1728)
    (ht : t = (s.pulsed f).ledgerWritten r) :
    t.ledger = (s.ledger.pulsed f).push r ∧ s.counted t .ledg 0x80 ∧ s.counted t .ledg 0x88 (min f 3) ∧
      t.fld .ledg Reg.LEDG_SEQ_NEXT = (BV (sealRec s.ledger.next r) 0 48 + 1) % 2 ^ 48 ∧
      s.changes t [.ledger] ledgerPlaces ([(.ledg, 0x88), (.ledg, 0x90)] ++ ownRecordCounts) := by
  have ha : (s.pulsed f).ledger.append r = ((s.ledger.pulsed f).push r, 0) := by
    rw [State.ledger_pulsed hf, Ledger.append]
    exact if_pos hl
  have e : t = (((s.pulsed f).setLedger ((s.ledger.pulsed f).push r)).count .ledg 0x80 |>.count .ledg 0x98 0).ledgerShow := by
    rw [ht, State.ledgerWritten_eq, if_neg hr, State.ledgerShown, ha]
  have h1 : (s.pulsed f).changes ((s.pulsed f).setLedger ((s.ledger.pulsed f).push r)) [.ledger] [] [] := .setLedger .refl
  have h2 : (((s.pulsed f).setLedger ((s.ledger.pulsed f).push r)).count .ledg 0x80).changes t [] ledgerPlaces [(.ledg, 0x98)] := by
    rw [e]
    exact .ledgerShow (.count .refl) fun _ h => h
  refine ⟨?_, ?_, ?_, ?_, ?_⟩
  · rw [h2.1 .ledger (by simp), State.ledger_count, State.ledger_setLedger]
  · exact State.changes.counted (State.changes_trans (State.changes_mono s.pulsed_changes (fun _ h => h) (fun _ h => h) fun _ h => h)
      (State.changes_mono h1 (by simp) (by simp) (by simp))) h2
  · rw [State.counted, h2.counter (by simp), ← s.counted_pulsed]
    simp +decide [State.counter_eq, State.setLedger]
  · rw [e, State.ledgerShow_shows.2, State.ledger_count, State.ledger_count, State.ledger_setLedger]
    rfl
  · refine State.changes_trans (State.changes_mono (s.pulsed_changes (f := f)) (fun _ h => h) (by simp) (by simp)) ?_
    rw [e]
    exact .ledgerShow (.count (.count (.setLedger .refl) (by simp [ownRecordCounts])) (by simp [ownRecordCounts])) fun _ h => h

/-- The ledger turns read-only when no spare is left. -/
def State.spent (s : State) : State :=
  (((s.count .ledg 0x88 3).count .ledg 0x90).setLedger { s.ledger with readOnly := true }).ledgerShow.irq .ledg 0

theorem State.ledgerTry_spent (h : s.ledger.spares = 0) : s.ledgerTry r 4 = (false, s.spent) := if_pos h

theorem State.spent_spec : s.spent.ledger = { s.ledger with readOnly := true } ∧ s.spent.flag .ledg Reg.LEDG_STAT_RO = true ∧
    s.raised s.spent .ledg 0 ∧ s.counted s.spent .ledg 0x90 ∧
    s.changes s.spent [.ledger, .out, .pcie] (ledgerPlaces ++ irqPlaces .ledg) ([(.ledg, 0x88), (.ledg, 0x90)] ++ irqCounts .ledg) := by
  obtain ⟨w, hw⟩ : ∃ w, w = ((s.count .ledg 0x88 3).count .ledg 0x90).setLedger { s.ledger with readOnly := true } := ⟨_, rfl⟩
  have h0 : s.changes w [.ledger] [] [(.ledg, 0x88), (.ledg, 0x90)] := by
    rw [hw]
    exact .setLedger (.count (.count .refl))
  have h1 : s.changes w.ledgerShow [.ledger] ledgerPlaces [(.ledg, 0x88), (.ledg, 0x90)] :=
    .ledgerShow (State.changes_mono h0 (by simp) (by simp) (by simp)) fun _ h => h
  have hl : w.ledger = { s.ledger with readOnly := true } := by rw [hw, State.ledger_setLedger]
  have e : s.spent = w.ledgerShow.irq .ledg 0 := by rw [hw]; rfl
  rw [e]
  refine ⟨?_, ?_, h1.raised (by simp +decide [ledgerPlaces, Place.apart_of]), ?_, ?_⟩
  · rw [State.ledger_irq, State.ledgerShow_keeps _ .ledger (by simp), hl]
  · rw [State.flag, (State.irq_changes ..).fld (by simp +decide [irqPlaces, Place.apart_of])]
    exact State.ledgerShow_shows.1.trans (by rw [hl])
  · refine State.changes.counted (s := s) (u := s.count .ledg 0x88 3) (cs := []) (fs := []) (ns := [(.ledg, 0x88)]) (.count .refl)
      (ds := [.ledger, .out, .pcie]) (gs := ledgerPlaces ++ irqPlaces .ledg) (ms := irqCounts .ledg) ?_ (by simp) (by simp [irqCounts]; decide)
    rw [hw]
    exact .irq (.ledgerShow (.setLedger .refl) fun _ h => List.mem_append_left _ h) (by simp) (List.mem_append_right _ (by simp [irqPlaces])) (by simp [irqCounts])
  · exact .irq (State.changes_mono h1 (by simp) (fun _ h => List.mem_append_left _ h) (by simp)) (by simp)
      (List.mem_append_right _ (by simp [irqPlaces])) (by simp [irqCounts])

/-! ## LEDG_WRITE_DONE -/

/-- The command's end shows. -/
def State.ledgEnded (s : State) (code : Nat) : State := (s.setFld .ledg Reg.LEDG_WR_CMD_BUSY 0).setFld .ledg Reg.LEDG_WR_CMD_RESULT code

theorem State.ledgEnded_shows (h : n < 8) : (s.ledgEnded n).flag .ledg Reg.LEDG_WR_CMD_BUSY = false ∧
    (s.ledgEnded n).fld .ledg Reg.LEDG_WR_CMD_RESULT = n := by
  have h' : n < 2 ^ Reg.LEDG_WR_CMD_RESULT.width := h
  constructor <;> simp +decide [State.ledgEnded, State.flag, State.fld_eq, h']

def endPlaces : List Place := [Reg.LEDG_WR_CMD_BUSY.place .ledg, Reg.LEDG_WR_CMD_RESULT.place .ledg]

theorem State.ledgEnded_changes : s.changes (s.ledgEnded n) [] endPlaces [] :=
  .setFld (.setFld .refl (by simp [endPlaces])) (by simp [endPlaces])

/-- The ledger without the write that ends. -/
def State.unqueued (s : State) : State := s.setLedger { s.ledger with writing := [] }

/-- What the last write of the queue leaves, before a reset that waits. -/
def State.wroteLast (s : State) (x : Bool × State) : State :=
  if x.2.flag .ledg Reg.LEDG_WR_CMD_BUSY = true then
    if x.1 = true then x.2.ledgEnded 0
    else (x.2.ledgEnded (if x.2.ledger.readOnly then 1 else 2)).err .ledg (if x.2.ledger.readOnly then 0x02 else 0x03)
  else x.2

/-- The state of the pulse. -/
def State.pulse (s : State) (r : BitVec 1024) (f : Nat) : Bool × State := if s.ledger.closed then (false, s) else s.ledgerTry r f

theorem exec_ledgWriteDone (h : s.ledger.writing = [r]) (hv : v = s.wroteLast (s.unqueued.pulse r f)) :
    exec (.ledgWriteDone f) s = .next (match v.rst.waiting with
      | some c => (v.setRst { v.rst with waiting := none }).takeReset c
      | none => v) := by
  subst hv
  refine congrArg Host.Outcome.next ?_
  extract_lets l
  rw [show l.writing = [r] from h]
  obtain ⟨x, hx⟩ : ∃ x, x = s.unqueued.pulse r f := ⟨_, rfl⟩
  rw [← hx]
  have e : (if ([] : List (BitVec 1024)) = [] ∧ x.2.flag .ledg Reg.LEDG_WR_CMD_BUSY = true then
      if x.1 = true then (x.2.setFld .ledg Reg.LEDG_WR_CMD_BUSY 0).setFld .ledg Reg.LEDG_WR_CMD_RESULT
        (if x.1 = true then 0 else if x.2.ledger.readOnly = true then 1 else 2)
      else ((x.2.setFld .ledg Reg.LEDG_WR_CMD_BUSY 0).setFld .ledg Reg.LEDG_WR_CMD_RESULT
        (if x.1 = true then 0 else if x.2.ledger.readOnly = true then 1 else 2)).err .ledg
          (if ((x.2.setFld .ledg Reg.LEDG_WR_CMD_BUSY 0).setFld .ledg Reg.LEDG_WR_CMD_RESULT
            (if x.1 = true then 0 else if x.2.ledger.readOnly = true then 1 else 2)).ledger.readOnly = true then 0x02 else 0x03)
      else x.2) = s.wroteLast x := by
    unfold State.wroteLast State.ledgEnded
    cases hb : x.2.flag .ledg Reg.LEDG_WR_CMD_BUSY <;> cases h1 : x.1 <;> simp
  have k : ∀ w, w = s.wroteLast x → (match w.rst.waiting with
      | some c => if ([] : List (BitVec 1024)) = [] then (w.setRst { w.rst with waiting := none }).takeReset c else w
      | none => w) = match (s.wroteLast x).rst.waiting with
      | some c => ((s.wroteLast x).setRst { (s.wroteLast x).rst with waiting := none }).takeReset c
      | none => s.wroteLast x := by
    rintro w rfl
    simp only [if_true]
  rw [hx] at e k ⊢
  exact k _ e

end

end Sys2Proof.Machine
end

section
/-! PROOFS. O53, part 2: what each command of the ledger leaves (R346, R366 to R369). -/

namespace Sys2Proof.Machine
open Sys2Proof

section
variable {s t u v w : State} {cs ds : List Comp} {fs gs : List Place} {ns ms : List (Page × Nat)} {r : BitVec 1024} {f n o c : Nat} {pg : Page}

/-! ## LEDG_WRITE_DONE -/

theorem State.closed_unqueued : s.unqueued.ledger.closed = s.ledger.closed := rfl

theorem State.pulse_of_open (h : s.ledger.closed = false) : s.pulse r f = s.ledgerTry r f := if_neg (by simp [h])

theorem Ledger.writing_foldl_push (l : Ledger) (rs : List (BitVec 1024)) : (rs.foldl Ledger.push l).writing = l.writing := by
  induction rs generalizing l with
  | nil => rfl
  | cons x xs ih => exact (ih (l.push x)).trans rfl

theorem Ledger.writing_append (l : Ledger) : (l.append r).1.writing = l.writing := by
  rw [Ledger.append]
  split
  · rfl
  · exact (Ledger.writing_foldl_push _ _).trans rfl

theorem State.writing_ledgerTry : (s.ledgerTry r f).2.ledger.writing = s.ledger.writing := by
  unfold State.ledgerTry
  split
  · rw [State.ledger_ledgerWritten, Ledger.writing_append, State.ledger_count]
  · dsimp only
    split
    · rw [State.ledger_irq, State.ledgerShow_keeps _ .ledger (by simp)]
      simp
    · rw [State.ledger_ledgerWritten, Ledger.writing_append]
      simp

/-- What a write's end may touch before a reset that waited. -/
def wroteComps : List Comp := [.out, .regs, .cnt, .wlh, .ledger, .pcie]

theorem State.wroteLast_keeps : s.keeps (s.wroteLast (s.unqueued.pulse r f)) wroteComps := by
  have h0 : s.changes s.unqueued [.ledger] [] [] := .setLedger .refl
  have h1 : s.unqueued.keeps (s.unqueued.pulse r f).2 wroteComps := by
    unfold State.pulse
    split
    · exact State.keeps_refl _ _
    · exact Steady.keepsOf (.ledgerTry (.refl _ _) r f)
  have h2 : (s.unqueued.pulse r f).2.keeps (s.wroteLast (s.unqueued.pulse r f)) wroteComps := by
    have k (n : Nat) := ((s.unqueued.pulse r f).2).ledgEnded_changes (n := n)
    unfold State.wroteLast
    split
    · split
      · exact State.keeps_mono (k 0).1 (by simp [wroteComps])
      · exact State.keeps_mono (State.keeps_trans (k _).1 (State.err_changes ..).1) (by simp [wroteComps])
    · exact State.keeps_refl _ _
  exact State.keeps_mono (State.keeps_trans h0.1 (State.keeps_trans h1 h2)) (by simp [wroteComps])

theorem State.writing_wroteLast : (s.wroteLast (s.unqueued.pulse r f)).ledger.writing = [] := by
  have h1 : (s.unqueued.pulse r f).2.ledger.writing = [] := by
    unfold State.pulse
    split
    · rfl
    · exact State.writing_ledgerTry
  have k (n : Nat) := ((s.unqueued.pulse r f).2).ledgEnded_changes (n := n)
  unfold State.wroteLast
  split
  · split
    · rw [(k 0).1 .ledger (by simp), h1]
    · rw [(State.err_changes ..).1 .ledger (by simp), (k _).1 .ledger (by simp), h1]
  · exact h1

/-- Until a reset that waited, the write's end is all that happens. -/
theorem exec_ledgWriteDone_of_free (h : s.ledger.writing = [r]) (hw : s.rst.waiting = none) :
    exec (.ledgWriteDone f) s = .next (s.wroteLast (s.unqueued.pulse r f)) := by
  rw [exec_ledgWriteDone h rfl, show (s.wroteLast (s.unqueued.pulse r f)).rst = s.rst from s.wroteLast_keeps .rst (by simp [wroteComps]), hw]

/-- A reset that waited for the write is taken. -/
theorem exec_ledgWriteDone_of_waiting (h : s.ledger.writing = [r]) (hw : s.rst.waiting = some c) :
    exec (.ledgWriteDone f) s = .next (((s.wroteLast (s.unqueued.pulse r f)).setRst { s.rst with waiting := none }).takeReset c) := by
  rw [exec_ledgWriteDone h rfl, show (s.wroteLast (s.unqueued.pulse r f)).rst = s.rst from s.wroteLast_keeps .rst (by simp [wroteComps]), hw]

def ledgEndPlaces : List Place :=
  [Reg.LEDG_STAT_RO.place .ledg, Reg.LEDG_STAT_SPARES.place .ledg, Reg.LEDG_STAT_SEQ_END.place .ledg, Reg.LEDG_SEQ_NEXT.place .ledg,
   Reg.LEDG_WR_CMD_BUSY.place .ledg, Reg.LEDG_WR_CMD_RESULT.place .ledg]

/-- A record written for firmware is in the ledger. -/
theorem ledgWriteDone_put (h : s.ledger.writing = [r]) (hw : s.rst.waiting = none) (hc : s.ledger.closed = false) (hr : (recKey r).1 ≠ 3)
    (hb : s.flag .ledg Reg.LEDG_WR_CMD_BUSY = true) (hf : s.ledger.takes f) (hl : s.ledger.recs.length < 1728) :
    completes (.ledgWriteDone f) s fun t => (t.ledger =
      { s.ledger with writing := [], recs := sealRec s.ledger.next r :: s.ledger.recs, spares := if f = 4 then s.ledger.spares - 1 else s.ledger.spares }) ∧
      t.flag .ledg Reg.LEDG_WR_CMD_BUSY = false ∧ t.fld .ledg Reg.LEDG_WR_CMD_RESULT = 0 ∧ s.counted t .ledg 0x80 ∧
      s.counted t .ledg 0x88 (min f 3) ∧ t.fld .ledg Reg.LEDG_SEQ_NEXT = (BV (sealRec s.ledger.next r) 0 48 + 1) % 2 ^ 48 ∧
      s.changes t [.ledger] ledgEndPlaces [(.ledg, 0x80), (.ledg, 0x88), (.ledg, 0x90), (.ledg, 0x98)] := by
  refine completes.next ?_ (exec_ledgWriteDone_of_free h hw)
  have hq : s.unqueued.ledger.takes f := hf
  rw [State.pulse_of_open (by rw [State.closed_unqueued]; exact hc), State.ledgerTry_takes hq]
  obtain ⟨k1, k2, k3, k4, k5⟩ := State.pulsed_written (r := r) hr hq hl rfl
  generalize (s.unqueued.pulsed f).ledgerWritten r = v at *
  have k6 : s.changes v [.ledger] ledgerPlaces ([(.ledg, 0x88), (.ledg, 0x90)] ++ ownRecordCounts) :=
    State.changes_trans (.setLedger .refl) k5
  have hb' : v.flag .ledg Reg.LEDG_WR_CMD_BUSY = true := by
    rw [State.flag, k6.fld (by simp +decide [ledgerPlaces, Place.apart_of])]
    exact hb
  rw [State.wroteLast, if_pos hb', if_pos rfl]
  have ke := v.ledgEnded_changes (n := 0)
  obtain ⟨e1, e2⟩ := v.ledgEnded_shows (n := 0) (by decide)
  refine ⟨?_, e1, e2, ?_, ?_, ?_, ?_⟩
  · rw [ke.1 .ledger (by simp), k1]
    rfl
  · rw [State.counted, ke.counter (by simp), k2]
    rfl
  · rw [State.counted, ke.counter (by simp), k3]
    rfl
  · rw [ke.fld (by simp +decide [endPlaces, Place.apart_of]), k4]
    rfl
  · exact State.changes_trans (State.changes_mono k6 (fun _ h => h) (by simp [ledgerPlaces, ledgEndPlaces]) (by simp [ownRecordCounts]))
      (State.changes_mono ke (by simp) (by simp [endPlaces, ledgEndPlaces]) (by simp))

/-- The last spare is gone: firmware's record is refused and the ledger is read-only. -/
theorem ledgWriteDone_spent (h : s.ledger.writing = [r]) (hw : s.rst.waiting = none) (hc : s.ledger.closed = false)
    (hb : s.flag .ledg Reg.LEDG_WR_CMD_BUSY = true) (hf : f = 4) (hl : s.ledger.spares = 0) :
    completes (.ledgWriteDone f) s fun t => t.ledger = { s.ledger with writing := [], readOnly := true } ∧
      t.flag .ledg Reg.LEDG_STAT_RO = true ∧ t.flag .ledg Reg.LEDG_WR_CMD_BUSY = false ∧ t.fld .ledg Reg.LEDG_WR_CMD_RESULT = 1 ∧
      s.erred t .ledg 2 ∧ s.raised t .ledg 0 ∧ s.counted t .ledg 0x90 ∧
      s.changes t [.ledger, .out, .pcie] (ledgEndPlaces ++ errPlaces .ledg ++ irqPlaces .ledg)
        ([(Page.ledg, 0x50), (Page.ledg, 0x88), (Page.ledg, 0x90)] ++ irqCounts .ledg) := by
  subst hf
  refine completes.next ?_ (exec_ledgWriteDone_of_free h hw)
  have hq : s.unqueued.ledger.spares = 0 := hl
  rw [State.pulse_of_open (by rw [State.closed_unqueued]; exact hc), State.ledgerTry_spent hq]
  obtain ⟨k1, k2, k3, k4, k5⟩ := s.unqueued.spent_spec
  generalize s.unqueued.spent = v at *
  have k6 : s.changes v [.ledger, .out, .pcie] (ledgerPlaces ++ irqPlaces .ledg) ([(.ledg, 0x88), (.ledg, 0x90)] ++ irqCounts .ledg) :=
    State.changes_trans (.setLedger .refl) k5
  have hb' : v.flag .ledg Reg.LEDG_WR_CMD_BUSY = true := by
    rw [State.flag, k6.fld (by simp +decide [ledgerPlaces, irqPlaces, Place.apart_of])]
    exact hb
  have hro : v.ledger.readOnly = true := by rw [k1]
  rw [State.wroteLast, if_pos hb', if_neg (by simp), if_pos hro, if_pos hro]
  have ke := v.ledgEnded_changes (n := 1)
  obtain ⟨e1, e2⟩ := v.ledgEnded_shows (n := 1) (by decide)
  have kr := (v.ledgEnded 1).err_changes .ledg 2
  have kf {g : Fld} (hg : ∀ x ∈ errPlaces .ledg, Place.apart x (g.place .ledg)) : ((v.ledgEnded 1).err .ledg 2).fld .ledg g =
      (v.ledgEnded 1).fld .ledg g := kr.fld hg
  refine ⟨?_, ?_, ?_, ?_, ?_, ?_, ?_, ?_⟩
  · rw [kr.1 .ledger (by simp), ke.1 .ledger (by simp), k1]
    rfl
  · rw [State.flag, kf (by simp +decide [errPlaces, Place.apart_of]), ke.fld (by simp +decide [endPlaces, Place.apart_of])]
    exact k2
  · rw [State.flag, kf (by simp +decide [errPlaces, Place.apart_of])]
    exact e1
  · rw [kf (by simp +decide [errPlaces, Place.apart_of]), e2]
  · exact State.changes.erred (State.changes_trans (State.changes_mono k6 (fun _ h => h) (fun _ h => List.mem_append_left _ h) fun _ h => h)
        (State.changes_mono ke (by simp) (fun _ h => List.mem_append_right _ h) (by simp))) (by decide)
      (by simp +decide [ledgerPlaces, irqPlaces, endPlaces, Place.apart_of]) (by simp [irqCounts]; decide)
  · have h3 := k3
    rw [State.raised] at h3 ⊢
    rw [kr.irqStat (by simp +decide [errPlaces, Place.apart_of]), ke.irqStat (by simp +decide [endPlaces, Place.apart_of]), h3]
    rfl
  · rw [State.counted, kr.counter (by simp [errCounts]), ke.counter (by simp), k4]
    rfl
  · exact .err (State.changes_trans (State.changes_mono k6 (fun _ h => h) (by simp [ledgerPlaces, ledgEndPlaces, irqPlaces]) (by simp [irqCounts]))
      (State.changes_mono ke (by simp) (by simp [endPlaces, ledgEndPlaces]) (by simp))) (by simp [errPlaces]) (by simp)

/-- The cause of a warm reset, as its register holds it. -/
theorem State.warmReset_cause : (s.warmReset c).fld .rstc Reg.RSTC_CAUSE_CAUSE = c % 16 := by
  obtain ⟨v, hv⟩ : ∃ v, v = ((((s.warmPages c).setFld .wlh Reg.WLH_IMG_CTRL_RECOVERY_NEXT (s.fld .wlh Reg.WLH_IMG_CTRL_RECOVERY_NEXT)).count .rstc
    0x98).resetCause c 0) := ⟨_, rfl⟩
  have ht : v.changes (s.warmReset c) [] restartPlaces [] := by
    rw [State.warmReset_eq, ← hv]
    exact .restart_ .refl fun _ h => h
  rw [ht.fld (by simp +decide [restartPlaces, restartPages, ledgerPlaces, Place.apart_of, Place.apart_of_ne]), hv]
  rw [State.resetCause, State.fld_setFld_apart _ (by decide), State.fld_setFld_apart _ (by decide), State.fld_setFld_same]
  rfl

theorem State.rst_warmReset : (s.warmReset c).rst.waiting = none := by
  rw [(s.warmReset_changes c).1 .rst (by simp)]
  rfl

/-- A device reset that waited for the write follows it. -/
theorem ledgWriteDone_reset (h : s.ledger.writing = [r]) (hw : s.rst.waiting = some c) (hc : 3 ≤ c) :
    completes (.ledgWriteDone f) s fun t => t.fld .rstc Reg.RSTC_CAUSE_CAUSE = c % 16 ∧ t.ledger.writing = [] ∧
      (t.reqs = [] ∧ t.tiles = [] ∧ t.qps = []) ∧ t.rst.waiting = none ∧ s.keeps t (warmComps ++ [.ledger]) := by
  refine completes.next ?_ (exec_ledgWriteDone_of_waiting h hw)
  have k1 := s.wroteLast_keeps (r := r) (f := f)
  have k2 := s.writing_wroteLast (r := r) (f := f)
  generalize s.wroteLast (s.unqueued.pulse r f) = v at *
  rw [State.takeReset, if_neg (by omega)]
  have h3 : v.changes (v.setRst { s.rst with waiting := none }) [.rst] [] [] := .setRst .refl
  generalize v.setRst { s.rst with waiting := none } = u at *
  have k4 := u.warmReset_keeps (c := c)
  obtain ⟨⟨e1, -, -, -, e2, -, e3, -⟩, -, -⟩ := u.warmReset_empty (c := c)
  refine ⟨State.warmReset_cause, ?_, ⟨e1, e2, e3⟩, State.rst_warmReset, State.keeps_mono (State.keeps_trans k1 (State.keeps_trans h3.1 k4))
    (by simp [wroteComps, warmComps])⟩
  rw [k4 .ledger (by simp [warmComps]), h3.1 .ledger (by simp), k2]

/-! ## Error records -/

/-- The error log without the record that the ledger takes. -/
def State.errorTaken (s : State) (rest : List (BitVec 512)) : State := { s with elog := { s.elog with toLedger := rest } }

theorem State.errorTaken_changes (s : State) (rest : List (BitVec 512)) : s.changes (s.errorTaken rest) [.elog] [] [] :=
  .upd .refl (fun c hc => by cases c <;> first | rfl | exact absurd (by simp) hc) rfl rfl rfl

theorem State.changes.errorTaken {rest : List (BitVec 512)} (h : s.changes t cs fs ns) (hm : .elog ∈ cs := by simp) :
    s.changes (t.errorTaken rest) cs fs ns :=
  State.changes_trans h (State.changes_mono (t.errorTaken_changes rest) (by simpa using hm) (by simp) (by simp))

theorem exec_ledgerError {e : BitVec 512} {rest : List (BitVec 512)} (h : s.ledger.writing = []) (he : s.elog.toLedger = e :: rest)
    (hr : s.wlh.running = true) (hc : s.ledger.closed = false) (hf : s.ledger.takes f) :
    exec (.ledgWriteDone f) s = .next (((s.errorTaken rest).pulsed f).ledgerWritten (ledgRec 0x01 0 (BVbytes e))) := by
  have e1 : exec (.ledgWriteDone f) s = .next (s.ledgerError f) := by
    refine congrArg Host.Outcome.next ?_
    extract_lets l
    rw [show l.writing = [] from h]
  rw [e1]
  refine congrArg Host.Outcome.next ?_
  unfold State.ledgerError
  extract_lets x
  rw [show x.toLedger = e :: rest from he]
  refine (if_neg (by simp [hr])).trans ((if_neg ?_).trans ?_)
  · change ¬ (s.errorTaken rest).ledger.closed = true
    exact Bool.eq_false_iff.mp hc
  · have k : ∀ y : Bool × State, y = (s.errorTaken rest).ledgerTry (ledgRec 0x01 0 (BVbytes e)) f →
        (if y.1 = true then y.2 else y.2.count .ledg 0xA0) = ((s.errorTaken rest).pulsed f).ledgerWritten (ledgRec 0x01 0 (BVbytes e)) := by
      rintro y rfl
      rw [State.ledgerTry_takes (s := s.errorTaken rest) hf, if_pos rfl]
    exact k _ rfl

theorem recKey_error (e : BitVec 512) : (recKey (ledgRec 0x01 0 (BVbytes e))).1 ≠ 3 := by
  rw [recKey_ledgRec (by omega)]
  decide

/-! ## LEDG_WR_GO and LEDG_RD_GO -/

/-- The command that firmware wrote shows. -/
def State.ledgNamed (s : State) (ty : Byte) (key : Nat) : State :=
  (s.setFld .ledg Reg.LEDG_WR_CMD_TYPE ty.toNat).setFld .ledg Reg.LEDG_WR_CMD_KEY (key % 65536)

def namePlaces : List Place := [Reg.LEDG_WR_CMD_TYPE.place .ledg, Reg.LEDG_WR_CMD_KEY.place .ledg]

theorem State.ledgNamed_changes {ty : Byte} {key : Nat} : s.changes (s.ledgNamed ty key) [] namePlaces [] :=
  .setFld (.setFld .refl (by simp [namePlaces])) (by simp [namePlaces])

theorem State.ledgNamed_shows {ty : Byte} {key : Nat} (h : (s.ledgNamed ty key).changes t cs fs ns)
    (hf : ∀ x ∈ fs, ∀ g ∈ [Reg.LEDG_WR_CMD_TYPE, Reg.LEDG_WR_CMD_KEY], Place.apart x (g.place .ledg)) :
    t.fld .ledg Reg.LEDG_WR_CMD_TYPE = ty.toNat ∧ t.fld .ledg Reg.LEDG_WR_CMD_KEY = key % 65536 := by
  rw [h.fld fun x hx => hf x hx _ (by simp), h.fld fun x hx => hf x hx _ (by simp)]
  have hk : key % 65536 < 2 ^ Reg.LEDG_WR_CMD_KEY.width := Nat.mod_lt _ (by decide)
  have ht : ty.toNat < 2 ^ Reg.LEDG_WR_CMD_TYPE.width := ty.isLt
  constructor <;> simp +decide [State.ledgNamed, State.fld_eq, hk, ht]

/-- What firmware's GO does once no write is under way. -/
def State.ledgGo (s : State) (ty : Byte) (key : Nat) : State :=
  if s.ledger.readOnly then (s.setFld .ledg Reg.LEDG_WR_CMD_RESULT 1).err .ledg 0x02
  else if s.ledger.closed then (s.setFld .ledg Reg.LEDG_WR_CMD_RESULT 2).err .ledg 0x03
  else if ¬ ledgTypes.contains ty.toNat then s.setFld .ledg Reg.LEDG_WR_CMD_RESULT 4
  else (s.setLedger { s.ledger with writing := s.ledger.writing ++ [ledgRec ty.toNat (key % 65536)
    ((List.range 27).flatMap fun k => bytesOfNat 4 (s.fld .ledg Reg.LEDG_WR_DATA_DATA k))] }).setFld .ledg Reg.LEDG_WR_CMD_BUSY 1

theorem exec_ledgWrGo {by_ : Requester} {ty : Byte} {key : Nat} (h : s.ready .ledg = true) (hb : by_ ≠ .host)
    (hy : s.flag .ledg Reg.LEDG_WR_CMD_BUSY = false) : exec (.ledgWrGo by_ ty key) s = .next ((s.ledgNamed ty key).ledgGo ty key) := by
  have e : exec (.ledgWrGo by_ ty key) s = .next (s.ifReady .ledg fun s => if by_ = .host then (s.setFld .ledg Reg.LEDG_WR_CMD_RESULT 3).err .ledg 0x01
      else if s.flag .ledg Reg.LEDG_WR_CMD_BUSY then s else (s.ledgNamed ty key).ledgGo ty key) := rfl
  rw [e, State.ifReady_pos h, if_neg hb, if_neg (by simp [hy])]

/-- A GO that ends with a result and an error record. -/
theorem State.ledgGo_refused {ty : Byte} {key n c : Nat} (hn : n < 8) (hc : c < 256)
    (ht : t = ((s.ledgNamed ty key).setFld .ledg Reg.LEDG_WR_CMD_RESULT n).err .ledg c) :
    t.fld .ledg Reg.LEDG_WR_CMD_TYPE = ty.toNat ∧ t.fld .ledg Reg.LEDG_WR_CMD_KEY = key % 65536 ∧ t.fld .ledg Reg.LEDG_WR_CMD_RESULT = n ∧
      s.erred t .ledg c ∧ s.changes t []
        ([Reg.LEDG_WR_CMD_RESULT.place .ledg, Reg.LEDG_WR_CMD_TYPE.place .ledg, Reg.LEDG_WR_CMD_KEY.place .ledg] ++ errPlaces .ledg)
        (errCounts .ledg) := by
  subst ht
  have k : (s.ledgNamed ty key).changes (((s.ledgNamed ty key).setFld .ledg Reg.LEDG_WR_CMD_RESULT n).err .ledg c) []
      (Reg.LEDG_WR_CMD_RESULT.place .ledg :: errPlaces .ledg) (errCounts .ledg) := .err (.setFld .refl) (by simp [errPlaces])
  obtain ⟨k1, k2⟩ := State.ledgNamed_shows k (by simp +decide [errPlaces, Place.apart_of])
  refine ⟨k1, k2, ?_, ?_, ?_⟩
  · rw [(State.err_changes ..).fld (by simp +decide [errPlaces, Place.apart_of]), State.fld_setFld_of_lt _ hn]
  · exact State.changes.erred (s := s) (cs := []) (ns := []) (fs := Reg.LEDG_WR_CMD_RESULT.place .ledg :: namePlaces)
      (.setFld (State.changes_mono s.ledgNamed_changes (by simp) (fun _ h => List.mem_cons_of_mem _ h) (by simp))) hc
      (by simp +decide [namePlaces, Place.apart_of]) (by simp)
  · exact State.changes_trans (State.changes_mono s.ledgNamed_changes (by simp) (by simp [namePlaces]) (by simp))
      (State.changes_mono k (by simp) (by simp [errPlaces]) (by simp))

/-- What LEDG_RD_GO looks for. -/
def State.ledgAsked (s : State) (i : Nat) (k : Bool) : Option (BitVec 1024) :=
  if k then s.ledger.recs.find? (fun x => recKey x == (s.fld .ledg Reg.LEDG_RD_KEY_TYPE, s.fld .ledg Reg.LEDG_RD_KEY_KEY))
  else s.ledger.recs[i % 2048]?

/-- The index and the kind of a read show. -/
def State.ledgSel (s : State) (i : Nat) (k : Bool) : State :=
  (s.setFld .ledg Reg.LEDG_RD_SEL_INDEX (i % 2048)).setFld .ledg Reg.LEDG_RD_SEL_BY_KEY k.toNat

/-- The words of a record. -/
def State.ledgData (s : State) (r : BitVec 1024) : State :=
  s.each (List.range 32) fun s k => s.setFld .ledg Reg.LEDG_RD_DATA_DATA (BV r (32 * k) 32) k

theorem exec_ledgRdGo {i : Nat} {k : Bool} (h : s.ready .ledg = true) : exec (.ledgRdGo i k) s = .next (match s.ledgAsked i k with
    | none => (s.ledgSel i k).setFld .ledg Reg.LEDG_RD_SEL_FOUND 0
    | some r => ((s.ledgSel i k).ledgData r).setFld .ledg Reg.LEDG_RD_SEL_FOUND 1) := by
  have e : exec (.ledgRdGo i k) s = .next (s.ifReady .ledg fun s => match (s.ledgSel i k).ledgAsked i k with
      | none => (s.ledgSel i k).setFld .ledg Reg.LEDG_RD_SEL_FOUND 0
      | some r => ((s.ledgSel i k).ledgData r).setFld .ledg Reg.LEDG_RD_SEL_FOUND 1) := rfl
  have ha : (s.ledgSel i k).ledgAsked i k = s.ledgAsked i k := by
    have hl : (s.ledgSel i k).ledger = s.ledger := by rw [State.ledgSel, State.ledger_setFld, State.ledger_setFld]
    have h1 : (s.ledgSel i k).fld .ledg Reg.LEDG_RD_KEY_TYPE = s.fld .ledg Reg.LEDG_RD_KEY_TYPE := by
      simp +decide [State.ledgSel, State.fld_eq]
    have h2 : (s.ledgSel i k).fld .ledg Reg.LEDG_RD_KEY_KEY = s.fld .ledg Reg.LEDG_RD_KEY_KEY := by
      simp +decide [State.ledgSel, State.fld_eq]
    rw [State.ledgAsked, State.ledgAsked, hl, h1, h2]
  rw [e, State.ifReady_pos h, ha]

/-- A row of fields that are set one by one. -/
theorem State.fld_each_rows {g : Fld} {v : Nat → Nat} {l : List Nat} (hl : l.Nodup) (hg : g.stride * 8 ≥ g.width)
    {i : Nat} (hi : i ∈ l) : (s.each l fun s k => s.setFld pg g (v k) k).fld pg g i = v i % 2 ^ g.width := by
  have other (t : State) (l : List Nat) (hn : i ∉ l) : (t.each l fun s k => s.setFld pg g (v k) k).fld pg g i = t.fld pg g i := by
    induction l generalizing t with
    | nil => rfl
    | cons k l ih =>
      simp only [List.mem_cons, not_or] at hn
      refine (ih _ hn.2).trans (State.fld_setFld_of_bits _ ?_)
      simp only [Fld.addr]
      rcases Nat.lt_or_gt_of_ne hn.1 with h | h
      · have := Nat.mul_le_mul_right g.stride (Nat.succ_le_of_lt h)
        rw [Nat.succ_mul] at this
        omega
      · have := Nat.mul_le_mul_right g.stride (Nat.succ_le_of_lt h)
        rw [Nat.succ_mul] at this
        omega
  induction l generalizing s with
  | nil => exact absurd hi (List.not_mem_nil)
  | cons k l ih =>
    obtain ⟨hk, hl'⟩ := List.nodup_cons.1 hl
    rcases List.mem_cons.1 hi with rfl | hi'
    · exact (other _ l hk).trans (State.fld_setFld_same ..)
    · exact ih hl' hi'

theorem State.ledgData_changes : s.changes (s.ledgData r) [] ((List.range 32).map fun j => Reg.LEDG_RD_DATA_DATA.place .ledg j) [] :=
  .each .refl fun t k hk ht => .setFld ht (List.mem_map_of_mem hk)

end

end Sys2Proof.Machine
end

section
/-! PROOFS. O53, part 3: sectors of the flash and objects of the store (R353, R354, R361, R370, R371). -/

namespace Sys2Proof.Machine
open Sys2Proof

section
variable {s t u v w : State} {cs ds : List Comp} {fs gs : List Place} {ns ms : List (Page × Nat)} {k n j : Nat} {x : Sector} {b : List Byte}

/-! ## The lowest number -/

theorem lowest_eq_find (n : Nat) (p : Nat → Bool) : lowest n p = (List.range n).find? p := by
  have h (k n : Nat) : lowestFrom p k n = (List.range' k n).find? p := by
    induction n generalizing k with
    | zero => rfl
    | succ n ih => rw [lowestFrom, List.range'_succ, List.find?_cons, ih]; cases p k <;> rfl
  rw [lowest, h, List.range_eq_range']

/-- The first member of a list with a property, found by its place. -/
theorem lowest_getElem {l : List Nat} {p : Nat → Bool} {q : Nat → Bool} (hq : ∀ i, q i = match l[i]? with | some j => p j | none => false)
    (h : l.find? p = some j) : ∃ m, lowest l.length q = some m ∧ l[m]? = some j := by
  have go (l' pre : List Nat) (e : l = pre ++ l') (h : l'.find? p = some j) :
      ∃ m, lowestFrom q pre.length l'.length = some m ∧ l[m]? = some j := by
    induction l' generalizing pre with
    | nil => exact absurd h (by simp)
    | cons y l' ih =>
      have hy : l[pre.length]? = some y := by rw [e]; simp
      have hqy : q pre.length = p y := by rw [hq, hy]
      rw [List.find?_cons] at h
      cases hp : p y with
      | true =>
        rw [hp] at h
        exact ⟨pre.length, by rw [List.length_cons, lowestFrom, hqy, hp, if_pos rfl], hy.trans h⟩
      | false =>
        rw [hp] at h
        obtain ⟨m, h1, h2⟩ := ih (pre ++ [y]) (by rw [e]; simp) h
        rw [List.length_append, List.length_singleton] at h1
        refine ⟨m, ?_, h2⟩
        rw [List.length_cons, lowestFrom, hqy, hp]
        exact h1
  exact go l [] rfl h

/-! ## Objects written to the store -/

/-- The Wellhead with an object's piece in a sector of the store. -/
def Wlh.pieceAt (y : Wlh) (j : Nat) (b : List Byte) : Wlh :=
  { y with flash := Map.store y.flash (j * 65536) b, sectors := Map.set {} y.sectors j { Map.get {} y.sectors j with erased := false } }

/-- A sector of the store that an object may begin at. -/
def State.storeFree (s : State) (n k : Nat) : Bool :=
  (List.range n).all fun i => match s.storeSectors[k + i]? with
    | some j => (Map.get {} s.wlh.sectors j).erased
    | none => false

theorem State.storePut_eq : s.storePut b =
    match lowest (s.storeSectors.length + 1 - (b.length + 65535) / 65536) (s.storeFree ((b.length + 65535) / 65536)) with
    | none => s
    | some k => s.each (List.range ((b.length + 65535) / 65536)) fun t i =>
      t.setWlh (t.wlh.pieceAt (s.storeSectors.getD (k + i) 0) ((b.drop (i * 65536)).take 65536)) := rfl

theorem State.storePut_changes : s.changes (s.storePut b) [.wlh] [] [] := by
  rw [State.storePut_eq]
  split
  · exact .refl
  · exact .each .refl fun t i _ ht => .setWlh ht

/-- Writes to the store leave the command, the slots and the retired sectors. -/
structure State.storeOnly (s t : State) : Prop where
  upd : t.wlh.upd = s.wlh.upd
  size : t.wlh.flashSize = s.wlh.flashSize
  retired : ∀ i, (Map.get {} t.wlh.sectors i).retired = (Map.get {} s.wlh.sectors i).retired
  still : ∀ i, (Map.get {} s.wlh.sectors i).retired = true → Map.get {} t.wlh.sectors i = Map.get {} s.wlh.sectors i

theorem State.storeOnly.refl : s.storeOnly s := ⟨rfl, rfl, fun _ => rfl, fun _ _ => rfl⟩

theorem State.storeOnly.trans (h : s.storeOnly t) (k : t.storeOnly u) : s.storeOnly u :=
  ⟨k.upd.trans h.upd, k.size.trans h.size, fun i => (k.retired i).trans (h.retired i), fun i hi =>
    (k.still i ((h.retired i).trans hi)).trans (h.still i hi)⟩

theorem State.storeOnly.piece (hj : (Map.get {} s.wlh.sectors j).retired = false) : s.storeOnly (s.setWlh (s.wlh.pieceAt j b)) := by
  have other {i : Nat} (h : i ≠ j) : Map.get {} (s.wlh.pieceAt j b).sectors i = Map.get {} s.wlh.sectors i := Map.get_set_other _ _ _ _ h
  refine ⟨rfl, rfl, fun i => ?_, fun i hi => ?_⟩
  · by_cases h : i = j
    · subst h
      rw [State.wlh_setWlh, Wlh.pieceAt, Map.get_set_same]
    · exact congrArg Sector.retired (other h)
  · refine other fun h => ?_
    subst h
    exact Bool.noConfusion (hj.symm.trans hi)

theorem State.mem_storeSectors {i : Nat} : i ∈ s.storeSectors → (Map.get {} s.wlh.sectors i).retired = false := by
  intro h
  have := (List.mem_filter.1 h).2
  simpa using this

theorem State.storePut_only : s.storeOnly (s.storePut b) := by
  rw [State.storePut_eq]
  split
  · exact .refl
  next m hm =>
    rw [lowest_eq_find] at hm
    have hfree := List.find?_some hm
    refine State.each_keeps_prop (P := s.storeOnly) .refl fun t i hi ht => ht.trans (.piece ?_)
    have hf := List.all_eq_true.1 hfree i hi
    rw [ht.retired]
    cases hl : s.storeSectors[m + i]? with
    | none => rw [hl] at hf; exact Bool.noConfusion hf
    | some y =>
      rw [List.getD_eq_getElem?_getD, hl]
      exact State.mem_storeSectors (List.mem_of_getElem? hl)

/-- An object of at most a sector goes to the first sector of the store that is erased. -/
theorem State.storePut_one (hb : 0 < b.length) (hl : b.length ≤ 65536)
    (h : s.storeSectors.find? (fun i => (Map.get {} s.wlh.sectors i).erased) = some j) :
    s.storePut b = s.setWlh (s.wlh.pieceAt j b) := by
  have hn : (b.length + 65535) / 65536 = 1 := by omega
  obtain ⟨m, h1, h2⟩ := lowest_getElem (q := s.storeFree 1) (fun i => by simp [State.storeFree]) h
  rw [State.storePut_eq, hn, Nat.add_sub_cancel, h1]
  have hd : s.storeSectors.getD (m + 0) 0 = j := by rw [Nat.add_zero, List.getD_eq_getElem?_getD, h2]; rfl
  have ht : (b.drop (0 * 65536)).take 65536 = b := by rw [Nat.zero_mul, List.drop_zero, List.take_of_length_le hl]
  change s.setWlh (s.wlh.pieceAt (s.storeSectors.getD (m + 0) 0) ((b.drop (0 * 65536)).take 65536)) = _
  rw [hd, ht]

theorem StoreObj.bytes_pos (o : StoreObj) : 0 < o.bytes.length := by
  simp only [StoreObj.bytes, List.flatten_cons, List.length_append, length_bytesOfNat]
  omega

/-! ## Records of sectors -/

/-- The Wellhead with a sector's state. -/
def Wlh.withSector (y : Wlh) (k : Nat) (x : Sector) : Wlh := { y with sectors := Map.set {} y.sectors k x }

/-- A sector's record (Table 16-6). -/
def sectorRec (k : Nat) (x : Sector) : BitVec 1024 := ledgRec 0x05 k (List.flatten
  [[if x.erased then 0 else 1, if x.retired then 1 else 0, 0, 0], bytesOfNat 4 x.erases, bytesOfNat 4 x.eraseUs, bytesOfNat 4 x.progUs,
   bytesOfNat 2 x.retries])

/-- The objects that a sector's retirement moves. -/
def State.movedFrom (s : State) (k : Nat) : List StoreObj := s.storeObjs.filter fun o => s.storeSectors[o.place / 65536]? == some k

/-- A sector's state, before its record. -/
def State.sectorKept (s : State) (k : Nat) (x : Sector) : State :=
  if x.retired && !(Map.get {} s.wlh.sectors k).retired then
    ((s.setWlh (s.wlh.withSector k x)).count .wlh 0x98).each (s.movedFrom k) fun s o => s.storePut o.bytes
  else s.setWlh (s.wlh.withSector k x)

theorem State.setSector_eq : s.setSector k x = (s.sectorKept k x).ledgerPut (sectorRec k x) := by
  have e : s.setSector k x = (if x.retired && !(Map.get {} s.wlh.sectors k).retired then
      ((s.setWlh (s.wlh.withSector k x)).count .wlh 0x98).each (if x.retired && !(Map.get {} s.wlh.sectors k).retired then s.movedFrom k else [])
        fun s o => s.storePut o.bytes
    else s.setWlh (s.wlh.withSector k x)).ledgerPut (sectorRec k x) := rfl
  rw [e, State.sectorKept]
  split
  · rfl
  · rfl

theorem recKey_sectorRec : (recKey (sectorRec k x)).1 ≠ 3 := by
  rw [sectorRec, recKey_ledgRec (by omega)]
  decide

/-- A sector's record leaves the Wellhead. -/
theorem State.wlh_setSector : (s.setSector k x).wlh = (s.sectorKept k x).wlh := by
  rw [State.setSector_eq]
  exact State.wlh_ledgerPut recKey_sectorRec

theorem State.sectorKept_changes : s.changes (s.sectorKept k x) [.wlh] [] [(.wlh, 0x98)] := by
  unfold State.sectorKept
  split
  · exact .each (.count (.setWlh .refl)) fun t o _ ht =>
      State.changes_trans ht (State.changes_mono t.storePut_changes (by simp) (by simp) (by simp))
  · exact .setWlh .refl

/-- What a sector's record may touch. -/
def sectorCounts : List (Page × Nat) := ownRecordCounts ++ [(.wlh, 0x98)]

theorem State.setSector_changes : s.changes (s.setSector k x) [.wlh, .ledger] ownRecordPlaces sectorCounts := by
  rw [State.setSector_eq]
  exact .ledgerPut (by simp) (fun _ h => h) (fun _ h => List.mem_append_left _ h)
    (State.changes_mono s.sectorKept_changes (by simp) (by simp) (by simp [sectorCounts]))

/-- A sector that is not newly retired, or moves nothing. -/
theorem State.wlh_setSector_of_still (h : (x.retired = true → (Map.get {} s.wlh.sectors k).retired = true) ∨ s.movedFrom k = []) :
    (s.setSector k x).wlh = s.wlh.withSector k x := by
  rw [State.wlh_setSector, State.sectorKept]
  split
  next hn =>
    have hm : s.movedFrom k = [] := h.resolve_left (by
      simp only [Bool.and_eq_true, Bool.not_eq_true'] at hn
      simp [hn])
    rw [hm]
    exact State.wlh_count ..
  · rfl

/-- A newly retired sector counts. -/
theorem State.counted_setSector (h : x.retired = true) (h0 : (Map.get {} s.wlh.sectors k).retired = false) :
    s.counted (s.setSector k x) .wlh 0x98 := by
  rw [State.setSector_eq, State.sectorKept, if_pos (by simp [h, h0])]
  refine State.changes.counted (s := s) (u := s.setWlh (s.wlh.withSector k x)) (cs := [.wlh]) (fs := []) (ns := []) (.setWlh .refl)
    (ds := [.wlh, .ledger]) (gs := ownRecordPlaces) (ms := ownRecordCounts) ?_ (by simp) (by simp +decide [ownRecordCounts])
  exact .ledgerPut (by simp) (fun _ h => h) (fun _ h => h) (.each .refl fun t o _ ht =>
    State.changes_trans ht (State.changes_mono t.storePut_changes (by simp) (by simp) (by simp)))

/-- A retired sector keeps its state while its objects move. -/
theorem State.setSector_retired (h : x.retired = true) : Map.get {} (s.setSector k x).wlh.sectors k = x ∧
    (s.setSector k x).wlh.upd = s.wlh.upd := by
  have hs : Map.get {} (s.wlh.withSector k x).sectors k = x := Map.get_set_same ..
  rw [State.wlh_setSector, State.sectorKept]
  split
  · have ho : (s.setWlh (s.wlh.withSector k x)).storeOnly (((s.setWlh (s.wlh.withSector k x)).count .wlh 0x98).each (s.movedFrom k)
        fun s o => s.storePut o.bytes) := by
      refine State.each_keeps_prop (P := (s.setWlh (s.wlh.withSector k x)).storeOnly) ?_ fun t o _ ht => ht.trans t.storePut_only
      exact ⟨by rw [State.wlh_count], by rw [State.wlh_count], fun i => by rw [State.wlh_count], fun i _ => by rw [State.wlh_count]⟩
    exact ⟨(ho.still k (by rw [State.wlh_setWlh, hs, h])).trans hs, ho.upd⟩
  · exact ⟨hs, rfl⟩

/-- An empty sector holds no object. -/
theorem State.movedFrom_nil (h : ∀ e ∈ s.wlh.flash, e.1 / 65536 ≠ k) : s.movedFrom k = [] := by
  refine List.filter_eq_nil_iff.2 fun o ho hk => ?_
  rw [State.storeObjs] at ho
  obtain ⟨c, hc, ho⟩ := List.mem_filterMap.1 ho
  split at ho
  next hin =>
    have hm : c.1 / 65536 ∈ s.storeSectors := by simpa using hin.2
    have hp : o.place = s.storeSectors.idxOf (c.1 / 65536) * 65536 + c.1 % 65536 := by
      unfold State.storeObj at ho
      dsimp only at ho
      split at ho
      · exact absurd ho (by simp)
      · split at ho
        · exact absurd ho (by simp)
        · rw [← Option.some.inj ho]
    have hd : o.place / 65536 = s.storeSectors.idxOf (c.1 / 65536) := by rw [hp]; omega
    rw [hd] at hk
    have hg : s.storeSectors[s.storeSectors.idxOf (c.1 / 65536)]? = some (c.1 / 65536) := by
      rw [List.getElem?_eq_getElem (List.idxOf_lt_length_of_mem hm)]
      simp
    rw [hg] at hk
    exact h c hc (by simpa using hk)
  · exact absurd ho (by simp)

/-! ## Ends of an install -/

theorem State.ledger_sectorKept : (s.sectorKept k x).ledger = s.ledger := s.sectorKept_changes.1 .ledger (by simp)

theorem State.open_setSector (h : s.ledger.closed = false) (hn : (s.ledger.append (ledgRec 0x05 k [])).1.closed = false) :
    (s.setSector k x).ledger.closed = false := by
  have hc : (s.sectorKept k x).ledger.closed = false := by rw [State.ledger_sectorKept]; exact h
  rw [State.setSector_eq, State.ledgerPut, if_neg (by simp [hc]), State.ledger_ledgerWritten, State.ledger_sectorKept,
    Ledger.closed_append _ _ (ledgRec 0x05 k [])]
  exact hn

theorem State.failInstall_spec {y : Upd} (h : s.ledger.closed = false) :
    (s.failInstall y n).img y.slotB = .empty ∧ (s.failInstall y n).wlh.upd = some { y with result := n, sector := none } ∧
      (s.failInstall y n).wlh.sectors = s.wlh.sectors ∧ (s.failInstall y n).out = s.out ∧
      s.changes (s.failInstall y n) [.wlh, .ledger] ownRecordPlaces ownRecordCounts := by
  have e : s.failInstall y n = (s.setWlh { s.wlh with upd := some { y with result := n, sector := none } }).setImg y.slotB .empty 0 := rfl
  have hc : s.changes (s.failInstall y n) [.wlh, .ledger] ownRecordPlaces ownRecordCounts :=
    .failInstall (by simp) (fun _ h => h) (fun _ h => h) .refl
  obtain ⟨w1, w2, a, i, c, j, w3⟩ := State.setImg_spec (s := s.setWlh { s.wlh with upd := some { y with result := n, sector := none } })
    (slotB := y.slotB) (x := .empty) (n := 0) h
  rw [← e] at w1 w3
  exact ⟨w1, by rw [w3]; rfl, by rw [w3]; rfl, hc.1 .out (by simp), hc⟩

/-! ## Bytes of an install -/

/-- A sector's record leaves the bytes that a command works from. -/
theorem State.updBytes_congr {y : Upd} {a : Nat} (h : s.changes t [.wlh, .ledger, .out] ownRecordPlaces ns) (hb : t.wlh.rcvBuf = s.wlh.rcvBuf) :
    t.updBytes y a n = s.updBytes y a n := by
  have h1 : t.fld .wlh Reg.WLH_UPD_SRC_LO_SRC_LO = s.fld .wlh Reg.WLH_UPD_SRC_LO_SRC_LO :=
    h.fld (by simp +decide [ownRecordPlaces, ledgerPlaces, slotPlaces, Place.apart_of, Place.apart_of_ne])
  have h2 : t.fld .wlh Reg.WLH_UPD_SRC_HI_SRC_HI = s.fld .wlh Reg.WLH_UPD_SRC_HI_SRC_HI :=
    h.fld (by simp +decide [ownRecordPlaces, ledgerPlaces, slotPlaces, Place.apart_of, Place.apart_of_ne])
  have hm : t.mem = s.mem := h.1 .mem (by simp)
  simp only [State.updBytes, State.fldAddr, h1, h2, hb, State.rd, hm]

theorem State.length_updBytes {y : Upd} {a : Nat} : (s.updBytes y a n).length = n := by
  unfold State.updBytes State.rd
  split <;> simp [Map.bytes]

/-- Bytes stored are read back. -/
theorem Map.bytes_store (m : Map Byte) (a : Nat) (l : List Byte) : Map.bytes (Map.store m a l) a l.length = l := by
  refine List.ext_getElem (by simp [Map.bytes]) fun i h1 h2 => ?_
  simp only [Map.bytes, List.getElem_map, List.getElem_range]
  rw [Map.get_store_same m a l h2]

theorem bytesSame_store (m : Map Byte) (a : Nat) (l : List Byte) : bytesSame m (Map.store m a l) a l.length :=
  fun _ hx => Map.get_store_other m a l hx

end

end Sys2Proof.Machine
end

section
/-! PROOFS. O53, part 4: ends of erases and of programs of a sector (R354, R370, R371). -/

namespace Sys2Proof.Machine
open Sys2Proof

section
variable {s t u v w : State} {k n j us : Nat} {x : Sector} {y : Upd}

/-- The Wellhead with other bytes in flash. -/
def Wlh.withFlash (w : Wlh) (m : Memory) : Wlh := { w with flash := m }

/-- The Wellhead with another command under way. -/
def Wlh.withUpd (w : Wlh) (y : Upd) : Wlh := { w with upd := some y }

theorem Wlh.sector_withSector {z : Wlh} : Map.get {} (z.withSector k x).sectors k = x := Map.get_set_same ..

/-! ## The next sector of an install -/

theorem State.goodSectors_of_retired (hf : t.wlh.flashSize = s.wlh.flashSize)
    (h : ∀ i, (Map.get {} t.wlh.sectors i).retired = (Map.get {} s.wlh.sectors i).retired) (b : Bool) : t.goodSectors b = s.goodSectors b := by
  simp only [State.goodSectors, State.slotSize, hf, h]

theorem State.nextSector_some (h : (s.goodSectors y.slotB).find? (fun i => decide (k ≤ i)) = some j) :
    s.nextSector y k = (s.setWlh (s.wlh.withUpd { y with sector := some j, erased := false })).eraseSector j := by
  rw [State.nextSector, h]
  rfl

theorem State.nextSector_none (h : (s.goodSectors y.slotB).find? (fun i => decide (k ≤ i)) = none) :
    s.nextSector y k = s.failInstall y 8 := by
  rw [State.nextSector, h]

/-! ## FLASH_ERASE_DONE -/

/-- A sector's bytes are gone. -/
def State.sectorCleared (s : State) (k : Nat) : State := s.setWlh (s.wlh.withFlash (Map.clear s.wlh.flash (k * 65536) 65536))

theorem State.movedFrom_sectorCleared : (s.sectorCleared k).movedFrom k = [] := by
  refine State.movedFrom_nil fun e he => ?_
  have h := (List.mem_filter.1 he).2
  simp only [Bool.or_eq_true, decide_eq_true_eq] at h
  omega

/-- Only the erased sector's bytes are gone. -/
theorem flash_cleared (m : Memory) : (∀ a, k * 65536 ≤ a → a < (k + 1) * 65536 → Map.get 0 (Map.clear m (k * 65536) 65536) a = 0) ∧
    ∀ a, a < k * 65536 ∨ (k + 1) * 65536 ≤ a → Map.get 0 (Map.clear m (k * 65536) 65536) a = Map.get 0 m a := by
  have h (a : Nat) : Map.get 0 (Map.clear m (k * 65536) 65536) a =
      if (decide (a < k * 65536) || decide (k * 65536 + 65536 ≤ a)) = true then Map.get 0 m a else 0 :=
    Map.get_filter_key 0 m (fun a => decide (a < k * 65536) || decide (k * 65536 + 65536 ≤ a)) a
  refine ⟨fun a h1 h2 => ?_, fun a ha => ?_⟩
  · rw [h, if_neg (by simp only [Bool.or_eq_true, decide_eq_true_eq]; omega)]
  · rw [h, if_pos (by simp only [Bool.or_eq_true, decide_eq_true_eq]; omega)]

/-- A sector after a good erase. -/
def Sector.blanked (x : Sector) (us : Nat) (slow : Bool) : Sector :=
  { x with erased := true, intent := false, erases := x.erases + 1, eraseUs := us, progUs := 0, retries := 0, retired := x.retired || slow }

/-- The erase took longer than its limit. -/
def State.slowErase (s : State) (us : Nat) : Bool := decide (s.fld .wlh Reg.WLH_FLASH_THR_ERASE_MS * 1000 < us)

/-- The sector is blank and recorded. -/
def State.sectorBlank (s : State) (k us : Nat) : State :=
  (s.sectorCleared k).setSector k ((Map.get {} s.wlh.sectors k).blanked us (s.slowErase us))

theorem exec_flashEraseDone_bad (h : k * 65536 < s.wlh.flashSize) (hx : x = Map.get {} s.wlh.sectors k) :
    exec (.flashEraseDone k false us) s = .next (((s.sectorCleared k).setWlh ((s.sectorCleared k).wlh.withSector k
      { x with erases := x.erases + 1, eraseUs := us })).eraseSector k) := by
  subst hx
  exact congrArg Host.Outcome.next ((if_neg (Nat.not_le.mpr h)).trans (if_pos (by decide)))

theorem exec_flashEraseDone_blank (h : k * 65536 < s.wlh.flashSize) : exec (.flashEraseDone k true us) s = .next (
    match (s.sectorBlank k us).updAt k false with
    | none => s.sectorBlank k us
    | some u => if s.slowErase us then (s.sectorBlank k us).nextSector u (k + 1)
      else ((s.sectorBlank k us).setWlh ((s.sectorBlank k us).wlh.withUpd { u with erased := true })).send (.spi false k)) := by
  refine congrArg Host.Outcome.next ((if_neg (Nat.not_le.mpr h)).trans ((if_neg (by decide)).trans ?_))
  have e : (s.sectorCleared k).slowErase us = s.slowErase us := rfl
  rw [← e]
  rfl

theorem State.wlh_sectorBlank : (s.sectorBlank k us).wlh =
    (s.wlh.withFlash (Map.clear s.wlh.flash (k * 65536) 65536)).withSector k ((Map.get {} s.wlh.sectors k).blanked us (s.slowErase us)) :=
  State.wlh_setSector_of_still (.inr State.movedFrom_sectorCleared)

theorem State.sectorBlank_changes : s.changes (s.sectorBlank k us) [.wlh, .ledger] ownRecordPlaces sectorCounts :=
  State.changes_trans (State.changes.setWlh (s := s) (cs := [.wlh, .ledger]) (fs := ownRecordPlaces) (ns := sectorCounts) .refl)
    State.setSector_changes

theorem State.updAt_eq (s : State) (k : Nat) (e : Bool) (hu : s.wlh.upd = some y) (hk : y.sector = some k) (he : y.erased = e) :
    s.updAt k e = some y := by
  simp [State.updAt, hu, hk, he]

theorem State.updAt_none (s : State) (k : Nat) (e : Bool) (h : s.wlh.upd.all (fun u => decide (u.sector ≠ some k)) = true) :
    s.updAt k e = none := by
  cases hu : s.wlh.upd with
  | none => simp [State.updAt, hu]
  | some y =>
    rw [hu] at h
    have hk : y.sector ≠ some k := by simpa using h
    simp [State.updAt, hu, hk]

/-- An erase that no command waits for. -/
theorem flashEraseDone_free (h : k * 65536 < s.wlh.flashSize) (hx : x = Map.get {} s.wlh.sectors k)
    (hu : s.wlh.upd.all (fun u => decide (u.sector ≠ some k)) = true) : completes (.flashEraseDone k true us) s fun t =>
    Map.get {} t.wlh.sectors k =
      { x with erased := true, intent := false, erases := x.erases + 1, eraseUs := us, progUs := 0, retries := 0, retired := x.retired || decide (s.fld .wlh Reg.WLH_FLASH_THR_ERASE_MS * 1000 < us) }
    ∧ ((∀ a, k * 65536 ≤ a → a < (k + 1) * 65536 → Map.get 0 t.wlh.flash a = 0) ∧ ∀ a, a < k * 65536 ∨ (k + 1) * 65536 ≤ a →
      Map.get 0 t.wlh.flash a = Map.get 0 s.wlh.flash a) ∧ t.out = s.out ∧
    (x.retired = false → s.fld .wlh Reg.WLH_FLASH_THR_ERASE_MS * 1000 < us → s.counted t .wlh 0x98) ∧
    s.keeps t [.regs, .cnt, .wlh, .ledger, .out] := by
  subst hx
  have hn : (s.sectorBlank k us).updAt k false = none := State.updAt_none _ _ _ (by rw [State.wlh_sectorBlank]; exact hu)
  refine completes.next ?_ ((exec_flashEraseDone_blank h).trans (congrArg _ (by rw [hn])))
  refine ⟨?_, ?_, s.sectorBlank_changes.1 .out (by simp), fun hr hs => ?_, State.keeps_mono s.sectorBlank_changes.1 (by simp)⟩
  · rw [State.wlh_sectorBlank]
    exact Wlh.sector_withSector
  · rw [State.wlh_sectorBlank]
    exact flash_cleared _
  · refine Eq.trans (State.counted_setSector ?_ hr) rfl
    simp [Sector.blanked, State.slowErase, hs]

/-- An erase that an install waits for: its data is programmed. -/
theorem flashEraseDone_install (h : k * 65536 < s.wlh.flashSize) (hu : s.wlh.upd = some y) (hk : y.sector = some k) (he : y.erased = false)
    (hs : us ≤ s.fld .wlh Reg.WLH_FLASH_THR_ERASE_MS * 1000) : completes (.flashEraseDone k true us) s fun t =>
    t.wlh.upd = some { y with erased := true } ∧ t.out = s.out ++ [Out.spi false k] ∧ (Map.get {} t.wlh.sectors k).erased = true ∧
    ((∀ a, k * 65536 ≤ a → a < (k + 1) * 65536 → Map.get 0 t.wlh.flash a = 0) ∧ ∀ a, a < k * 65536 ∨ (k + 1) * 65536 ≤ a →
      Map.get 0 t.wlh.flash a = Map.get 0 s.wlh.flash a) ∧ s.keeps t [.regs, .cnt, .wlh, .ledger, .out] := by
  have hn : (s.sectorBlank k us).updAt k false = some y := State.updAt_eq _ _ _ (by rw [State.wlh_sectorBlank]; exact hu) hk he
  have hslow : s.slowErase us = false := by simpa [State.slowErase] using hs
  refine completes.next (t := ((s.sectorBlank k us).setWlh ((s.sectorBlank k us).wlh.withUpd { y with erased := true })).send
    (.spi false k)) ?_ ((exec_flashEraseDone_blank h).trans (congrArg _ (by rw [hn, hslow]; rfl)))
  have hc := s.sectorBlank_changes (k := k) (us := us)
  have hk' : s.keeps (s.sectorBlank k us) [.regs, .cnt, .wlh, .ledger, .out] := State.keeps_mono hc.1 (by simp)
  refine ⟨?_, ?_, ?_, ?_, .send (.setWlh hk')⟩
  · rw [State.wlh_send, State.wlh_setWlh]
    rfl
  · rw [State.send, State.out_setWlh, hc.1 .out (by simp)]
  · rw [State.wlh_send, State.wlh_setWlh, State.wlh_sectorBlank]
    simp only [Wlh.withUpd, Wlh.sector_withSector]
    rfl
  · rw [State.wlh_send, State.wlh_setWlh, State.wlh_sectorBlank]
    exact flash_cleared _

/-- A sector that is not blank is erased again. -/
theorem flashEraseDone_bad (h : k * 65536 < s.wlh.flashSize) (hx : x = Map.get {} s.wlh.sectors k) :
    completes (.flashEraseDone k false us) s fun t => Map.get {} t.wlh.sectors k =
      { x with intent := true, erases := x.erases + 1, eraseUs := us } ∧ t.out = s.out ++ [Out.spi true k] ∧
    ((∀ a, k * 65536 ≤ a → a < (k + 1) * 65536 → Map.get 0 t.wlh.flash a = 0) ∧ ∀ a, a < k * 65536 ∨ (k + 1) * 65536 ≤ a →
      Map.get 0 t.wlh.flash a = Map.get 0 s.wlh.flash a) ∧ s.keeps t [.regs, .cnt, .wlh, .ledger, .out] := by
  refine completes.next ?_ (exec_flashEraseDone_bad h hx)
  obtain ⟨h1, h2, h3⟩ := State.eraseSector_spec (s := (s.sectorCleared k).setWlh ((s.sectorCleared k).wlh.withSector k
    { x with erases := x.erases + 1, eraseUs := us })) (k := k)
  rw [h1, h2, State.wlh_setWlh]
  refine ⟨?_, rfl, flash_cleared _, State.keeps_mono (State.keeps_trans (.setWlh (l := [.wlh]) (.setWlh (l := [.wlh]) (s.keeps_refl _))) h3)
    (by simp)⟩
  simp only [Wlh.intending, Wlh.withSector, Map.get_set_same]

/-! ## FLASH_PROGRAM_DONE -/

/-- A sector after a program. -/
def Sector.programmed (x : Sector) (us : Nat) : Sector := { x with erased := false, progUs := max x.progUs us }

/-- The sector is programmed and recorded, not worn. -/
def State.sectorFull (s : State) (k us : Nat) : State := s.setSector k ((Map.get {} s.wlh.sectors k).programmed us)

/-- The command after its next bytes are in flash. -/
def Upd.advanced (y : Upd) : Upd := { y with done := y.done + min 65536 (y.len - y.done), sector := none }

/-- The next bytes of an install are in flash. -/
def State.bytesPlaced (s : State) (k : Nat) (y : Upd) : State :=
  s.setWlh (s.wlh.withFlash (Map.store s.wlh.flash (k * 65536) (s.updBytes y y.done (min 65536 (y.len - y.done)))))

theorem State.wlh_sectorFull : (s.sectorFull k us).wlh = s.wlh.withSector k ((Map.get {} s.wlh.sectors k).programmed us) :=
  State.wlh_setSector_of_still (.inl id)

theorem State.retired_sectorFull (i : Nat) : (Map.get {} (s.sectorFull k us).wlh.sectors i).retired = (Map.get {} s.wlh.sectors i).retired := by
  rw [State.wlh_sectorFull, Wlh.withSector]
  by_cases h : i = k
  · subst h
    rw [Map.get_set_same]
    rfl
  · exact congrArg Sector.retired (Map.get_set_other _ _ _ _ h)

theorem exec_flashProgramDone_good (h : k * 65536 < s.wlh.flashSize) (hu : s.wlh.upd = some y) (hk : y.sector = some k) (he : y.erased = true)
    (hr : (Map.get {} s.wlh.sectors k).retries ≤ s.fld .wlh Reg.WLH_FLASH_THR_RETRY) : exec (.flashProgramDone k true us) s = .next (
    if y.len ≤ y.advanced.done then ((s.sectorFull k us).bytesPlaced k y).setWlh (((s.sectorFull k us).bytesPlaced k y).wlh.withUpd y.advanced)
    else ((s.sectorFull k us).bytesPlaced k y).nextSector y.advanced (k + 1)) := by
  have hw : decide (s.fld .wlh Reg.WLH_FLASH_THR_RETRY < (Map.get {} s.wlh.sectors k).retries) = false := by simpa using hr
  have hn : (s.sectorFull k us).updAt k true = some y := State.updAt_eq _ _ _ (by rw [State.wlh_sectorFull]; exact hu) hk he
  refine congrArg Host.Outcome.next ((if_neg (Nat.not_le.mpr h)).trans ((if_pos rfl).trans ?_))
  extract_lets worn v y0
  have h0 : worn = false := hw
  have hv : v = s.sectorFull k us := by
    rw [State.sectorFull]
    change s.setSector k { (Map.get {} s.wlh.sectors k).programmed us with retired := (Map.get {} s.wlh.sectors k).retired || worn } = _
    rw [h0, Bool.or_false]
    rfl
  have hy : y0 = (s.sectorFull k us).wlh := by rw [← hv]
  rw [hv, hn, h0, hy]
  rfl

/-- The install's bytes after a program of a sector. -/
theorem State.updBytes_sectorFull {a : Nat} : (s.sectorFull k us).updBytes y a n = s.updBytes y a n :=
  State.updBytes_congr (t := s.sectorFull k us) (State.changes_mono State.setSector_changes (by simp) (fun _ h => h) (fun _ h => h)) (by
    rw [State.wlh_sectorFull]; rfl)

theorem State.sectorFull_changes : s.changes (s.sectorFull k us) [.wlh, .ledger] ownRecordPlaces sectorCounts := State.setSector_changes

theorem State.bytesPlaced_keeps : s.keeps ((s.sectorFull k us).bytesPlaced k y) [.regs, .cnt, .wlh, .ledger, .out] :=
  .setWlh (State.keeps_mono s.sectorFull_changes.1 (by simp))

theorem State.out_bytesPlaced : ((s.sectorFull k us).bytesPlaced k y).out = s.out :=
  (State.out_setWlh).trans (s.sectorFull_changes.1 .out (by simp))

/-- The bytes of an install that a program has put in flash. -/
theorem State.flash_bytesPlaced : ((s.sectorFull k us).bytesPlaced k y).wlh.flash =
    Map.store s.wlh.flash (k * 65536) (s.updBytes y y.done (min 65536 (y.len - y.done))) := by
  rw [State.bytesPlaced, State.wlh_setWlh, Wlh.withFlash, State.updBytes_sectorFull, State.wlh_sectorFull]
  rfl

theorem Upd.done_advanced (h : y.done + 65536 < y.len) : y.advanced = { y with done := y.done + 65536, sector := none } ∧
    ¬ y.len ≤ y.advanced.done := by
  have hn : min 65536 (y.len - y.done) = 65536 := by omega
  rw [Upd.advanced, hn]
  exact ⟨rfl, Nat.not_le.mpr h⟩

section
variable (h : k * 65536 < s.wlh.flashSize) (hu : s.wlh.upd = some y) (hk : y.sector = some k) (he : y.erased = true)
include h hu hk he

/-- The last bytes of an install are in flash. -/
theorem flashProgramDone_last (hx : x = Map.get {} s.wlh.sectors k) (hr : x.retries ≤ s.fld .wlh Reg.WLH_FLASH_THR_RETRY)
    (hl : y.len ≤ y.done + 65536) : completes (.flashProgramDone k true us) s fun t =>
    t.wlh.upd = some { y with done := y.done + (y.len - y.done), sector := none } ∧
    Map.get {} t.wlh.sectors k = { x with erased := false, progUs := max x.progUs us } ∧
    Map.bytes t.wlh.flash (k * 65536) (y.len - y.done) = s.updBytes y y.done (y.len - y.done) ∧
    bytesSame s.wlh.flash t.wlh.flash (k * 65536) (y.len - y.done) ∧ t.out = s.out ∧ s.keeps t [.regs, .cnt, .wlh, .ledger, .out] := by
  subst hx
  have hn : min 65536 (y.len - y.done) = y.len - y.done := by omega
  have hd : y.advanced = { y with done := y.done + (y.len - y.done), sector := none } := by rw [Upd.advanced, hn]
  have hlen : y.len ≤ y.advanced.done := by rw [hd]; change y.len ≤ y.done + (y.len - y.done); omega
  refine completes.next ?_ ((exec_flashProgramDone_good h hu hk he hr).trans (congrArg _ (if_pos hlen)))
  have hb := State.length_updBytes (s := s) (y := y) (a := y.done) (n := y.len - y.done)
  have hf := State.flash_bytesPlaced (s := s) (k := k) (us := us) (y := y)
  rw [hn] at hf
  refine ⟨?_, ?_, ?_, ?_, (State.out_setWlh).trans State.out_bytesPlaced, .setWlh State.bytesPlaced_keeps⟩
  · rw [State.wlh_setWlh, Wlh.withUpd, hd]
  · rw [State.wlh_setWlh, State.bytesPlaced, State.wlh_setWlh, State.wlh_sectorFull]
    exact Wlh.sector_withSector
  · rw [State.wlh_setWlh, Wlh.withUpd, hf]
    have := Map.bytes_store s.wlh.flash (k * 65536) (s.updBytes y y.done (y.len - y.done))
    rwa [hb] at this
  · rw [State.wlh_setWlh, Wlh.withUpd, hf]
    have := bytesSame_store s.wlh.flash (k * 65536) (s.updBytes y y.done (y.len - y.done))
    rwa [hb] at this

theorem State.goodSectors_bytesPlaced (b : Bool) : ((s.sectorFull k us).bytesPlaced k y).goodSectors b = s.goodSectors b := by
  refine State.goodSectors_of_retired ?_ (fun i => ?_) b
  · rw [State.bytesPlaced, State.wlh_setWlh, State.wlh_sectorFull]
    rfl
  · rw [State.bytesPlaced, State.wlh_setWlh]
    exact State.retired_sectorFull i

/-- An install goes on with its next sector. -/
theorem flashProgramDone_next (hx : x = Map.get {} s.wlh.sectors k) (hr : x.retries ≤ s.fld .wlh Reg.WLH_FLASH_THR_RETRY)
    (hl : y.done + 65536 < y.len) (hg : (s.goodSectors y.slotB).find? (fun j => decide (k + 1 ≤ j)) = some j) :
    completes (.flashProgramDone k true us) s fun t =>
    t.wlh.upd = some { y with done := y.done + 65536, sector := some j, erased := false } ∧ (Map.get {} t.wlh.sectors j).intent = true ∧
    t.out = s.out ++ [Out.spi true j] ∧ bytesSame s.wlh.flash t.wlh.flash (k * 65536) 65536 ∧ s.keeps t [.regs, .cnt, .wlh, .ledger, .out] := by
  subst hx
  obtain ⟨hd, hlen⟩ := Upd.done_advanced hl
  have hn : min 65536 (y.len - y.done) = 65536 := by omega
  have hg' : (((s.sectorFull k us).bytesPlaced k y).goodSectors y.advanced.slotB).find? (fun i => decide (k + 1 ≤ i)) = some j := by
    rw [State.goodSectors_bytesPlaced h hu hk he]
    exact hg
  refine completes.next ?_ ((exec_flashProgramDone_good h hu hk he hr).trans (congrArg _ ((if_neg hlen).trans (State.nextSector_some hg'))))
  obtain ⟨e1, e2, e3⟩ := State.eraseSector_spec (s := ((s.sectorFull k us).bytesPlaced k y).setWlh
    (((s.sectorFull k us).bytesPlaced k y).wlh.withUpd { y.advanced with sector := some j, erased := false })) (k := j)
  have hb := State.length_updBytes (s := s) (y := y) (a := y.done) (n := 65536)
  have hf := State.flash_bytesPlaced (s := s) (k := k) (us := us) (y := y)
  rw [hn] at hf
  refine ⟨?_, ?_, ?_, ?_, ?_⟩
  · rw [e2, State.wlh_setWlh, hd]
    rfl
  · rw [e2, Wlh.intending]
    simp only [Map.get_set_same]
  · rw [e1, State.out_setWlh, State.out_bytesPlaced]
  · rw [e2, State.wlh_setWlh]
    have := bytesSame_store s.wlh.flash (k * 65536) (s.updBytes y y.done 65536)
    rw [hb, ← hf] at this
    exact this
  · exact State.keeps_mono (State.keeps_trans (.setWlh State.bytesPlaced_keeps) e3) (by simp)

theorem State.open_bytesPlaced (hc : s.ledger.closed = false) (hn : (s.ledger.append (ledgRec 0x05 k [])).1.closed = false) :
    ((s.sectorFull k us).bytesPlaced k y).ledger.closed = false := State.open_setSector hc hn

/-- No sector is left for the rest of an install. -/
theorem flashProgramDone_full (hx : x = Map.get {} s.wlh.sectors k) (hr : x.retries ≤ s.fld .wlh Reg.WLH_FLASH_THR_RETRY)
    (hl : y.done + 65536 < y.len) (hg : (s.goodSectors y.slotB).find? (fun j => decide (k + 1 ≤ j)) = none)
    (hc : s.ledger.closed = false) (hn : (s.ledger.append (ledgRec 0x05 k [])).1.closed = false) :
    completes (.flashProgramDone k true us) s fun t =>
    t.wlh.upd = some { y with done := y.done + 65536, result := 8, sector := none } ∧ t.img y.slotB = .empty ∧ t.out = s.out ∧
    s.keeps t [.regs, .cnt, .wlh, .ledger, .out] := by
  subst hx
  obtain ⟨hd, hlen⟩ := Upd.done_advanced hl
  have hg' : (((s.sectorFull k us).bytesPlaced k y).goodSectors y.advanced.slotB).find? (fun i => decide (k + 1 ≤ i)) = none := by
    rw [State.goodSectors_bytesPlaced h hu hk he]
    exact hg
  refine completes.next ?_ ((exec_flashProgramDone_good h hu hk he hr).trans (congrArg _ ((if_neg hlen).trans (State.nextSector_none hg'))))
  obtain ⟨e1, e2, -, e4, e5⟩ := State.failInstall_spec (y := y.advanced) (n := 8) (State.open_bytesPlaced (us := us) h hu hk he hc hn)
  refine ⟨by rw [e2, hd], e1, e4.trans State.out_bytesPlaced, State.keeps_mono (State.keeps_trans State.bytesPlaced_keeps e5.1) (by simp)⟩

/-- A sector that cannot be programmed is retired, and its install fails. -/
theorem flashProgramDone_failed (hx : x = Map.get {} s.wlh.sectors k) (hr : 3 ≤ x.retries)
    (hc : s.ledger.closed = false) (hn : (s.ledger.append (ledgRec 0x05 k [])).1.closed = false) :
    completes (.flashProgramDone k false us) s fun t =>
    Map.get {} t.wlh.sectors k = { x with erased := false, progUs := max x.progUs us, retired := true } ∧
    t.wlh.upd = some { y with result := 9, sector := none } ∧ t.img y.slotB = .empty ∧ (x.retired = false → s.counted t .wlh 0x98) ∧
    s.keeps t [.regs, .cnt, .wlh, .ledger, .out] := by
  subst hx
  obtain ⟨z, hz⟩ : ∃ z, z = { (Map.get {} s.wlh.sectors k).programmed us with retired := true } := ⟨_, rfl⟩
  have hzr : z.retired = true := by rw [hz]
  obtain ⟨k1, k2⟩ := State.setSector_retired (s := s) (k := k) hzr
  have ha : (s.setSector k z).updAt k true = some y := State.updAt_eq _ _ _ (k2.trans hu) hk he
  have e : exec (.flashProgramDone k false us) s = .next (match (s.setSector k z).updAt k true with
      | none => s.setSector k z
      | some u => (s.setSector k z).failInstall u 0x09) := by
    rw [hz]
    exact congrArg Host.Outcome.next ((if_neg (Nat.not_le.mpr h)).trans ((if_neg (by decide)).trans (if_neg (Nat.not_lt.mpr hr))))
  refine completes.next ?_ (e.trans (congrArg _ (by rw [ha])))
  obtain ⟨e1, e2, e3, -, e5⟩ := State.failInstall_spec (y := y) (n := 9) (State.open_setSector (x := z) hc hn)
  refine ⟨?_, e2, e1, fun h0 => ?_, State.keeps_mono (State.keeps_trans State.setSector_changes.1 e5.1) (by simp)⟩
  · rw [e3, k1, hz]
    rfl
  · rw [State.counted, e5.counter (by simp +decide [ownRecordCounts])]
    exact State.counted_setSector hzr h0

end

/-- A failed program is tried again. -/
theorem flashProgramDone_again (h : k * 65536 < s.wlh.flashSize) (hx : x = Map.get {} s.wlh.sectors k) (hr : x.retries < 3) :
    completes (.flashProgramDone k false us) s fun t => Map.get {} t.wlh.sectors k =
      { x with erased := false, progUs := max x.progUs us, retries := x.retries + 1 } ∧ t.out = s.out ++ [Out.spi false k] ∧
      s.changes t [.wlh, .out] [] [] := by
  subst hx
  refine completes.next (t := (s.setWlh (s.wlh.withSector k
    { (Map.get {} s.wlh.sectors k).programmed us with retries := (Map.get {} s.wlh.sectors k).retries + 1 })).send (.spi false k)) ?_
    (congrArg Host.Outcome.next ((if_neg (Nat.not_le.mpr h)).trans ((if_neg (by decide)).trans (if_pos hr))))
  refine ⟨?_, ?_, .send (.setWlh .refl)⟩
  · rw [State.wlh_send, State.wlh_setWlh, Wlh.sector_withSector]
    rfl
  · rw [State.send, State.out_setWlh]

/-! ## A store sector that is retired -/

theorem State.storeSectors_withSector (hz : x.retired = true) (ht : t.wlh = s.wlh.withSector k x) :
    t.storeSectors = s.storeSectors.filter (· ≠ k) := by
  simp only [State.storeSectors, ht, Wlh.withSector, List.filter_filter]
  refine List.filter_congr fun i _ => ?_
  by_cases h : i = k
  · subst h
    simp [Map.get_set_same, hz]
  · simp [Map.get_set_other _ _ _ _ h, h]

theorem Wlh.flash_pieceAt {z : Wlh} {l : List Byte} : ((z.withSector k x).pieceAt j l).flash = Map.store z.flash (j * 65536) l := rfl

/-- The object of a store sector that is retired stands in another sector. -/
theorem flashProgramDone_moved {b : StoreObj} (h : k * 65536 < s.wlh.flashSize) (hx : x = Map.get {} s.wlh.sectors k) (h0 : x.retired = false)
    (hu : s.wlh.upd = none) (hr : 3 ≤ x.retries) (hb : s.storeObjs.filter (fun o => s.storeSectors[o.place / 65536]? == some k) = [b])
    (hl : b.bytes.length ≤ 65536)
    (hf : (s.storeSectors.filter (· ≠ k)).find? (fun i => (Map.get {} s.wlh.sectors i).erased) = some j) :
    completes (.flashProgramDone k false us) s fun t => (Map.get {} t.wlh.sectors k).retired = true ∧ s.counted t .wlh 0x98 ∧
      Map.bytes t.wlh.flash (j * 65536) b.bytes.length = b.bytes ∧ bytesSame s.wlh.flash t.wlh.flash (j * 65536) b.bytes.length ∧
      Map.get {} t.wlh.sectors j = { Map.get {} s.wlh.sectors j with erased := false } ∧ t.out = s.out ∧
      s.keeps t [.regs, .cnt, .wlh, .ledger] := by
  subst hx
  obtain ⟨z, hz⟩ : ∃ z, z = { (Map.get {} s.wlh.sectors k).programmed us with retired := true } := ⟨_, rfl⟩
  have hzr : z.retired = true := by rw [hz]
  obtain ⟨k1, k2⟩ := State.setSector_retired (s := s) (k := k) hzr
  have ha : (s.setSector k z).updAt k true = none := by rw [State.updAt, k2, hu]
  have e : exec (.flashProgramDone k false us) s = .next (match (s.setSector k z).updAt k true with
      | none => s.setSector k z
      | some u => (s.setSector k z).failInstall u 0x09) := by
    rw [hz]
    exact congrArg Host.Outcome.next ((if_neg (Nat.not_le.mpr h)).trans ((if_neg (by decide)).trans (if_neg (Nat.not_lt.mpr hr))))
  refine completes.next ?_ (e.trans (congrArg _ (by rw [ha])))
  have hjk : j ≠ k := by simpa using (List.mem_filter.1 (List.mem_of_find?_eq_some hf)).2
  obtain ⟨v, hv⟩ : ∃ v, v = (s.setWlh (s.wlh.withSector k z)).count .wlh 0x98 := ⟨_, rfl⟩
  have hvw : v.wlh = s.wlh.withSector k z := by rw [hv, State.wlh_count, State.wlh_setWlh]
  have hf' : v.storeSectors.find? (fun i => (Map.get {} v.wlh.sectors i).erased) = some j := by
    rw [State.storeSectors_withSector hzr hvw, ← hf, hvw, List.find?_filter, List.find?_filter]
    congr 1
    funext i
    by_cases hi : i = k
    · simp [hi]
    · simp [hi, Wlh.withSector, Map.get_set_other _ _ _ _ hi]
  have hw : (s.setSector k z).wlh = (s.wlh.withSector k z).pieceAt j b.bytes := by
    rw [State.wlh_setSector, State.sectorKept, if_pos (by simp [hzr, h0]), State.movedFrom, hb, ← hv]
    rw [State.each, List.foldl_cons, List.foldl_nil, State.storePut_one b.bytes_pos hl hf', State.wlh_setWlh, hvw]
  refine ⟨by rw [k1, hzr], State.counted_setSector hzr h0, ?_, ?_, ?_, State.setSector_changes.1 .out (by simp),
    State.keeps_mono State.setSector_changes.1 (by simp)⟩
  · rw [hw, Wlh.flash_pieceAt]
    exact Map.bytes_store _ _ _
  · rw [hw, Wlh.flash_pieceAt]
    exact bytesSame_store _ _ _
  · rw [hw, Wlh.pieceAt]
    simp only [Map.get_set_same, Wlh.withSector, Map.get_set_other _ _ _ _ hjk]

end

end Sys2Proof.Machine
end

section
/-! PROOFS. O53: the ledger, the flash and the UART, command by command (R366 to R373). -/

namespace Sys2Proof.Machine
open Sys2Proof

section
variable {s t u v w : State} {cs : List Comp} {fs : List Place} {ns : List (Page × Nat)} {b : Byte}

/-! ## The UART -/

/-- The state with the UART replaced. -/
def State.setUart (s : State) (x : Uart) : State := { s with uart := x }

theorem State.changes.setUart {x : Uart} (h : s.changes t cs fs ns) (hm : .uart ∈ cs := by simp) : s.changes (t.setUart x) cs fs ns :=
  h.upd (fun c hc => by cases c <;> first | rfl | exact absurd (by simp [hm]) hc) rfl rfl rfl

@[simp] theorem State.uart_setUart {x : Uart} : (s.setUart x).uart = x := by rw [State.setUart]
@[simp] theorem State.out_setUart {x : Uart} : (s.setUart x).out = s.out := by rw [State.setUart]

/-- A byte that the UART does not see. -/
theorem exec_uartRxByte (h : s.ready .uart = true) (he : s.flag .uart Reg.UART_CTRL_RX_EN = true ∧ s.flag .pin Reg.PIN_FUNC_UART = true)
    (low : Bool) : exec (.uartRxByte b low) s = .next (
      if low then (s.setFld .uart Reg.UART_STAT_FRAME_ERR 1).count .uart 0x90
      else if s.recovery then (s.setUart { s.uart with frame := s.uart.frame ++ [b] }).count .uart 0x88
      else if 32 ≤ s.uart.rx.length then (s.setFld .uart Reg.UART_STAT_OVERRUN 1).count .uart 0x98
      else ((s.setUart { s.uart with rx := s.uart.rx ++ [b] }).count .uart 0x88).irq .uart 0) :=
  congrArg Host.Outcome.next ((State.ifReady_pos h _).trans (if_neg (by simp [he])))

theorem exec_uartRxByte_unseen (h : s.ready .uart = false ∨ s.flag .uart Reg.UART_CTRL_RX_EN = false ∨ s.flag .pin Reg.PIN_FUNC_UART = false)
    (low : Bool) : exec (.uartRxByte b low) s = .next s := by
  rcases Bool.eq_false_or_eq_true (s.ready .uart) with hr | hr
  · refine congrArg Host.Outcome.next ((State.ifReady_pos hr _).trans (if_pos ?_))
    rcases h with h | h | h
    · exact Bool.noConfusion (h.symm.trans hr)
    · simp [h]
    · simp [h]
  · exact exec_of_not_ready rfl hr

/-- A byte leaves, and shows where the ball serves the UART. -/
def State.byteSent (s : State) (b : Byte) (rest : List Byte) : State :=
  ((s.setUart { s.uart with tx := rest }).when (s.flag .pin Reg.PIN_FUNC_UART) (State.send · (.uartTx b))).count .uart 0x80

theorem State.byteSent_spec {rest : List Byte} : (s.byteSent b rest).uart = { s.uart with tx := rest } ∧
    ((s.byteSent b rest).out = if s.flag .pin Reg.PIN_FUNC_UART then s.out ++ [Out.uartTx b] else s.out) ∧
    s.counted (s.byteSent b rest) .uart 0x80 ∧ s.changes (s.byteSent b rest) [.uart, .out] [] [(.uart, 0x80)] := by
  unfold State.byteSent State.when
  split
  next hp =>
    refine ⟨?_, ?_, State.changes.counted (u := (s.setUart { s.uart with tx := rest }).send (.uartTx b)) (cs := [.uart, .out]) (fs := [])
      (ns := []) (ds := []) (gs := []) (ms := []) (.send (.setUart .refl)) .refl, .count (.send (.setUart .refl))⟩
    · rw [State.uart_count, State.uart_send, State.uart_setUart]
    · rw [State.out_count]
      simp only [State.send, State.out_setUart]
  next hp =>
    refine ⟨?_, ?_, State.changes.counted (u := s.setUart { s.uart with tx := rest }) (cs := [.uart]) (fs := [])
      (ns := []) (ds := []) (gs := []) (ms := []) (.setUart .refl) .refl, .count (.setUart .refl)⟩
    · rw [State.uart_count, State.uart_setUart]
    · rw [State.out_count, State.out_setUart]

theorem exec_uartTxByteSent {rest : List Byte} (h : s.uart.tx = b :: rest) (hw : s.works .uart = true)
    (he : s.flag .uart Reg.UART_CTRL_TX_EN = true) : exec .uartTxByteSent s = .next (
      if rest = [] then (s.byteSent b rest).irq .uart 1 else s.byteSent b rest) := by
  refine congrArg Host.Outcome.next ?_
  extract_lets x
  rw [show x.tx = b :: rest from h]
  exact if_neg (by simp [hw, he])

end

/-- Settles O53, command by command. -/
theorem ledgerFlashAndUartWork : Obligations.LedgerFlashAndUartWork := by
  refine ⟨fun s by_ ty key h hb => ?_, fun s by_ ty key h hb hy hl => ?_, fun s by_ ty key h hb hy hl hc => ?_,
    fun s by_ ty key h hb hy hc ht => ?_, fun s by_ ty key h hb hy hc ht => ?_, fun s by_ ty key h => ?_,
    fun s f r h hw hc hr hb hf hl => ledgWriteDone_put h hw hc hr hb hf hl, fun s f r h hw hc _ hb hf hl => ledgWriteDone_spent h hw hc hb hf hl,
    fun s f c r h hw hc _ => ?_, fun s f e rest h he hr hc hf hl => ?_, fun s f e rest h he hr hc => ?_, fun s f h he => ?_,
    fun s i k r h hr => ?_, fun s i k h hr => ?_, fun s i k h => .not_ready rfl h,
    fun s k us x h hx hu => flashEraseDone_free h hx hu, fun s k us x y h _ hu hk he hs => flashEraseDone_install h hu hk he hs,
    fun s k us x h hx => flashEraseDone_bad h hx, fun s k us b h => .next rfl (congrArg Host.Outcome.next (if_pos h)),
    fun s k us x y h hx hu hk he hr hl => flashProgramDone_last h hu hk he hx hr hl,
    fun s k us x y j h hx hu hk he hr hl hg => flashProgramDone_next h hu hk he hx hr hl hg,
    fun s k us x y h hx hu hk he hr hl hg hc hn => flashProgramDone_full h hu hk he hx hr hl hg hc hn,
    fun s k us x h hx hr => flashProgramDone_again h hx hr,
    fun s k us x y h hx hu hk he hr hc hn => flashProgramDone_failed h hu hk he hx hr hc hn,
    fun s k us j x b h hx h0 hu hr hb hl hf => flashProgramDone_moved h hx h0 hu hr hb hl hf,
    fun s k us b h => .next rfl (congrArg Host.Outcome.next (if_pos h)), fun s b h he => ?_, fun s b h he hr => ?_, fun s b h he hr hl => ?_,
    fun s b h he hr hl => ?_, fun s b l h => .next rfl (exec_uartRxByte_unseen h l), fun s b h hl => ?_, fun s b h => ?_, fun s b rest h hr => ?_,
    fun s h => ?_, fun s b rest h hw he hr => ?_, fun s b rest h hw he hr => ?_, fun s h => ?_⟩
  · have e : exec (.ledgWrGo by_ ty key) s = .next ((s.setFld .ledg Reg.LEDG_WR_CMD_RESULT 3).err .ledg 0x01) :=
      congrArg Host.Outcome.next ((State.ifReady_pos h _).trans (if_pos hb))
    refine completes.next ⟨?_, ?_, .err (.setFld .refl) (by simp [errPlaces])⟩ e
    · rw [(State.err_changes ..).fld (by simp +decide [errPlaces, Place.apart_of]), State.fld_setFld_of_lt _ (by decide)]
    · exact State.changes.erred (cs := []) (fs := [Reg.LEDG_WR_CMD_RESULT.place .ledg]) (ns := []) (.setFld .refl) (by decide)
        (by simp +decide [Place.apart_of]) (by simp)
  · have hl' : (s.ledgNamed ty key).ledger.readOnly = true := by rw [State.ledgNamed_changes.1 .ledger (by simp)]; exact hl
    exact completes.next (State.ledgGo_refused (by decide) (by decide) rfl) ((exec_ledgWrGo h hb hy).trans (congrArg _ (if_pos hl')))
  · have hk : (s.ledgNamed ty key).ledger = s.ledger := State.ledgNamed_changes.1 .ledger (by simp)
    exact completes.next (State.ledgGo_refused (by decide) (by decide) rfl) ((exec_ledgWrGo h hb hy).trans
      (congrArg _ ((if_neg (by rw [hk]; simp [hl])).trans (if_pos (by rw [hk]; exact hc)))))
  · have hk : (s.ledgNamed ty key).ledger = s.ledger := State.ledgNamed_changes.1 .ledger (by simp)
    have hro : s.ledger.readOnly = false := by
      rw [Ledger.closed] at hc
      exact (Bool.or_eq_false_iff.1 hc).1
    refine completes.next ?_ ((exec_ledgWrGo h hb hy).trans (congrArg _ ((if_neg (by rw [hk]; simp [hro])).trans
      ((if_neg (by rw [hk]; simp [hc])).trans (if_pos (by simpa using ht))))))
    obtain ⟨k1, k2⟩ := State.ledgNamed_shows (s := s) (ty := ty) (key := key) (cs := []) (fs := [Reg.LEDG_WR_CMD_RESULT.place .ledg]) (ns := [])
      (State.changes.setFld (pg := .ledg) (f := Reg.LEDG_WR_CMD_RESULT) (v := 4) (i := 0) .refl) (by simp +decide [Place.apart_of])
    exact ⟨k1, k2, State.fld_setFld_of_lt _ (by decide), .setFld (State.changes_mono s.ledgNamed_changes (by simp) (by simp [namePlaces]) (by simp))⟩
  · have hk : (s.ledgNamed ty key).ledger = s.ledger := State.ledgNamed_changes.1 .ledger (by simp)
    have hro : s.ledger.readOnly = false := by
      rw [Ledger.closed] at hc
      exact (Bool.or_eq_false_iff.1 hc).1
    refine completes.next ?_ ((exec_ledgWrGo h hb hy).trans (congrArg _ ((if_neg (by rw [hk]; simp [hro])).trans
      ((if_neg (by rw [hk]; simp [hc])).trans (if_neg (by simpa using ht))))))
    obtain ⟨l, hl⟩ : ∃ l, l = { (s.ledgNamed ty key).ledger with writing := (s.ledgNamed ty key).ledger.writing ++ [ledgRec ty.toNat (key % 65536)
      ((List.range 27).flatMap fun k => bytesOfNat 4 ((s.ledgNamed ty key).fld .ledg Reg.LEDG_WR_DATA_DATA k))] } := ⟨_, rfl⟩
    have hd (k : Nat) : (s.ledgNamed ty key).fld .ledg Reg.LEDG_WR_DATA_DATA k = s.fld .ledg Reg.LEDG_WR_DATA_DATA k := by
      rw [State.ledgNamed, State.fld_setFld_below _ (by decide), State.fld_setFld_below _ (by decide)]
    rw [← hl]
    obtain ⟨k1, k2⟩ := State.ledgNamed_shows (s := s) (ty := ty) (key := key) (cs := [.ledger]) (fs := [Reg.LEDG_WR_CMD_BUSY.place .ledg]) (ns := [])
      (State.changes.setFld (pg := .ledg) (f := Reg.LEDG_WR_CMD_BUSY) (v := 1) (i := 0) (.setLedger (g := l) .refl)) (by simp +decide [Place.apart_of])
    refine ⟨k1, k2, ?_, ?_, .setFld (.setLedger (State.changes_mono s.ledgNamed_changes (by simp) (by simp [namePlaces]) (by simp)))⟩
    · rw [State.flag, State.fld_setFld_of_lt _ (by decide)]
      rfl
    · rw [State.ledger_setFld, State.ledger_setLedger, hl, hk]
      simp only [hd]
  · rcases Bool.eq_false_or_eq_true (s.ready .ledg) with hr | hr
    · rcases h with h | ⟨h1, h2⟩
      · exact Bool.noConfusion (h.symm.trans hr)
      · exact .next rfl (congrArg Host.Outcome.next ((State.ifReady_pos hr _).trans ((if_neg h1).trans (if_pos h2))))
    · exact .not_ready rfl hr
  · exact (ledgWriteDone_reset h hw hc).imp fun t ⟨h1, h2, h3, h4, h5⟩ => ⟨.inl h1, h2, h3, h4, h5⟩
  · have hf' : (s.errorTaken rest).ledger.takes f := .inl hf
    refine completes.next ?_ (exec_ledgerError h he hr hc (.inl hf))
    obtain ⟨k1, -, -, -, k5⟩ := State.pulsed_written (s := s.errorTaken rest) (recKey_error e) hf' hl rfl
    refine ⟨?_, ?_, ?_⟩
    · rw [k1, Ledger.pulsed, if_neg (by omega)]
      rfl
    · rw [k5.1 .elog (by simp)]
      rfl
    · rw [State.ledgerWritten_eq, if_neg (recKey_error e), State.pulsed, if_pos hf]
      exact .ledgerShow (.count (.count (.setLedger (.count (.errorTaken .refl))))) (by simp [ledgerPlaces])
  · have e1 : exec (.ledgWriteDone f) s = .next (s.ledgerError f) := by
      refine congrArg Host.Outcome.next ?_
      extract_lets l
      rw [show l.writing = [] from h]
    have e2 : s.ledgerError f = (s.errorTaken rest).count .ledg 0xA0 := by
      unfold State.ledgerError
      extract_lets x
      rw [show x.toLedger = e :: rest from he]
      exact (if_neg (by simp [hr])).trans (if_pos hc)
    refine completes.next ?_ (e1.trans (congrArg _ e2))
    exact ⟨rfl, State.changes.counted (cs := [.elog]) (fs := []) (ns := []) (ds := []) (gs := []) (ms := []) (.errorTaken .refl) .refl,
      .count (.errorTaken .refl)⟩
  · have e1 : exec (.ledgWriteDone f) s = .next (s.ledgerError f) := by
      refine congrArg Host.Outcome.next ?_
      extract_lets l
      rw [show l.writing = [] from h]
    refine .next rfl (e1.trans (congrArg _ ?_))
    unfold State.ledgerError
    extract_lets x
    cases hx : x.toLedger with
    | nil => rfl
    | cons e rest =>
      refine if_pos ?_
      rcases he with he | he
      · exact absurd (hx.symm.trans he) (by simp)
      · simp [he]
  · refine completes.next ?_ ((exec_ledgRdGo h).trans (congrArg _ (by rw [show s.ledgAsked i k = some r from hr])))
    refine ⟨?_, fun j => ?_, ?_⟩
    · rw [State.flag, State.fld_setFld_of_lt _ (by decide)]
      rfl
    · rw [State.fld_setFld_below _ (by decide), State.ledgData, State.fld_each_rows List.nodup_range (by decide) (List.mem_range.2 j.isLt)]
      exact Nat.mod_eq_of_lt (bits_lt ..)
    · have h0 : s.changes (s.ledgSel i k) [] [Reg.LEDG_RD_SEL_INDEX.place .ledg, Reg.LEDG_RD_SEL_BY_KEY.place .ledg] [] := .setFld (.setFld .refl)
      refine .setFld (State.changes_trans (State.changes_mono h0 (by simp) (fun x hx => List.mem_append_left _ ?_) (by simp))
        (State.changes_mono (s.ledgSel i k).ledgData_changes (by simp) (fun x hx => List.mem_append_right _ hx) (by simp))) (by simp)
      revert hx
      simp only [List.mem_cons, List.not_mem_nil, or_false]
      tauto
  · refine completes.next ?_ ((exec_ledgRdGo h).trans (congrArg _ (by rw [show s.ledgAsked i k = none from hr])))
    refine ⟨?_, .setFld (.setFld (.setFld .refl))⟩
    rw [State.flag, State.fld_setFld_of_lt _ (by decide)]
    rfl
  · refine completes.next ?_ ((exec_uartRxByte h he true).trans (congrArg _ (if_pos rfl)))
    refine ⟨?_, State.changes.counted (cs := []) (fs := [Reg.UART_STAT_FRAME_ERR.place .uart]) (ns := []) (ds := []) (gs := []) (ms := [])
      (.setFld .refl) .refl, .count (.setFld .refl)⟩
    rw [State.flag, State.fld_count, State.fld_setFld_of_lt _ (by decide)]
    rfl
  · refine completes.next ?_ ((exec_uartRxByte h he false).trans (congrArg _ ((if_neg (by decide)).trans (if_pos hr))))
    exact ⟨by rw [State.uart_count, State.uart_setUart], State.changes.counted (cs := [.uart]) (fs := []) (ns := []) (ds := []) (gs := []) (ms := [])
      (.setUart .refl) .refl, .count (.setUart .refl)⟩
  · refine completes.next ?_ ((exec_uartRxByte h he false).trans (congrArg _ ((if_neg (by decide)).trans ((if_neg (by simp [hr])).trans (if_pos hl)))))
    refine ⟨?_, State.changes.counted (cs := []) (fs := [Reg.UART_STAT_OVERRUN.place .uart]) (ns := []) (ds := []) (gs := []) (ms := [])
      (.setFld .refl) .refl, .count (.setFld .refl)⟩
    rw [State.flag, State.fld_count, State.fld_setFld_of_lt _ (by decide)]
    rfl
  · refine completes.next ?_ ((exec_uartRxByte h he false).trans (congrArg _ ((if_neg (by decide)).trans ((if_neg (by simp [hr])).trans
      (if_neg (Nat.not_le.mpr hl))))))
    have hc : s.changes ((s.setUart { s.uart with rx := s.uart.rx ++ [b] }).count .uart 0x88) [.uart] [] [(.uart, 0x88)] := .count (.setUart .refl)
    exact ⟨by rw [State.uart_irq, State.uart_count, State.uart_setUart],
      State.changes.counted (cs := [.uart]) (fs := []) (ns := []) (ds := [.out, .pcie]) (gs := irqPlaces .uart) (ms := irqCounts .uart)
        (.setUart .refl) (.irq .refl) (by simp) (by simp +decide [irqCounts]), hc.raised (by simp),
      .irq (State.changes_mono hc (by simp) (by simp) (by simp))⟩
  · exact .next rfl (congrArg Host.Outcome.next ((State.ifReady_pos h _).trans (if_pos hl)))
  · rcases Bool.eq_false_or_eq_true (s.ready .uart) with hr | hr
    · refine .next rfl (congrArg Host.Outcome.next ((State.ifReady_pos hr _).trans (if_neg ?_)))
      rcases h with h | h
      · exact Bool.noConfusion (h.symm.trans hr)
      · exact Nat.not_lt.mpr h
    · exact .not_ready rfl hr
  · refine .next rfl (congrArg Host.Outcome.next ?_)
    extract_lets x
    refine (if_neg (by simp [h])).trans ?_
    rw [show x.rx = b :: rest from hr]
    rfl
  · refine .next rfl (congrArg Host.Outcome.next ?_)
    extract_lets x
    rcases Bool.eq_false_or_eq_true (s.ready .uart) with hr | hr
    · have hx : x.rx = [] := h.resolve_left (by simp [hr])
      refine (if_neg (by simp [hr])).trans ?_
      rw [hx]
      rfl
    · exact if_pos (by simp [hr])
  · refine completes.next ?_ ((exec_uartTxByteSent h hw he).trans (congrArg _ (if_neg hr)))
    exact State.byteSent_spec
  · subst hr
    refine completes.next ?_ ((exec_uartTxByteSent h hw he).trans (congrArg _ (if_pos rfl)))
    obtain ⟨k1, k2, k3, k4⟩ := State.byteSent_spec (s := s) (b := b) (rest := [])
    refine ⟨by rw [State.uart_irq, k1], fun hp => ?_, ?_, k4.raised (by simp), .irq (State.changes_mono k4 (by simp) (by simp) (by simp))⟩
    · rw [State.out_irq, k2, if_pos hp]
      simp
    · rw [State.counted, (State.irq_changes ..).counter (by simp +decide [irqCounts]), k3]
  · refine .next rfl (congrArg Host.Outcome.next ?_)
    extract_lets x
    cases hx : x.tx with
    | nil => rfl
    | cons b rest =>
      refine if_pos ?_
      rcases h with h | h | h
      · exact absurd (hx.symm.trans h) (by simp)
      · simp [h]
      · simp [h]

end Sys2Proof.Machine
end

section
/-! PROOFS. Error records: what a record says, and what writing it leaves (R315 to R317). -/

namespace Sys2Proof.Machine
open Sys2Proof

section
variable {s t u v : State} {cs : List Comp} {fs : List Place} {ns : List (Page × Nat)} {pg : Page} {a : RecArgs} {n : Nat}

/-! ## Frames by pages -/

theorem State.words_eq {a n : Nat} (h : ∀ b, a ≤ b → b < a + 4 * n → t.word b = s.word b) : t.words a n = s.words a n := by
  induction n generalizing a with
  | zero => rfl
  | succ n ih => rw [State.words, State.words, h a (by omega) (by omega), ih fun b h1 h2 => h b (by omega) (by omega)]

/-- A field of a page that is not listed. -/
theorem State.changesOn.fld {pgs : List Page} (h : s.changesOn t cs pgs) {f : Fld} {i : Nat} (hf : f.fits i = true) (hp : pg ∉ pgs) :
    t.fld pg f i = s.fld pg f i := by
  rw [State.fld, State.fld, State.words_eq]
  intro b h1 h2
  refine (h.2 b fun q hq => ?_).1
  have hne : pg ≠ q := fun e => hp (e ▸ hq)
  have := Page.apart hne
  simp only [Fld.fits, decide_eq_true_eq] at hf
  simp only [Fld.addr] at h1 h2
  omega

theorem State.changesOn.counter {pgs : List Page} (h : s.changesOn t cs pgs) {o : Nat} (ho : o < 4096) (hp : pg ∉ pgs) :
    t.counter pg o = s.counter pg o := by
  refine congrArg BitVec.toNat (h.2 _ fun q hq => ?_).2
  have hne : pg ≠ q := fun e => hp (e ▸ hq)
  have := Page.apart hne
  omega

/-- The pages that a write of the device's units may touch. -/
theorem mem_putPages {q : Page} (h : q.kind ∈ [Kind.pwr, .pcie, .tier, .move]) : q ∈ putPages := by
  revert h
  cases q <;> simp [Page.kind, putPages, allParts]

theorem mem_recordPages {q : Page} (h : q.kind ∈ [Kind.pwr, .pcie, .tier, .move, .elog]) : q ∈ recordPages := by
  revert h
  cases q <;> simp [Page.kind, recordPages, allParts]

/-! ## Power state that memory accesses leave -/

/-- Two states differ in their power state by the units in a mode or waking alone. -/
def State.samePower (s t : State) : Prop := t.pwr = { s.pwr with inMode := t.pwr.inMode, waking := t.pwr.waking }

theorem State.samePower.refl : s.samePower s := rfl

theorem State.samePower.trans (h : s.samePower t) (k : t.samePower u) : s.samePower u := by
  rw [State.samePower] at *
  rw [k]
  simp only
  rw [h]

theorem State.samePower.of_eq (h : t.pwr = s.pwr) : s.samePower t := by
  rw [State.samePower, h]

theorem State.samePower.keeps {l : List Comp} (h : s.samePower t) (k : t.keeps u l) (hl : Comp.pwr ∉ l := by simp) : s.samePower u :=
  h.trans (.of_eq (k .pwr hl))

theorem State.samePower.railMiss (h : s.samePower t) : t.pwr.railMiss = s.pwr.railMiss := by rw [h]
theorem State.samePower.moving (h : s.samePower t) : t.pwr.moving = s.pwr.moving := by rw [h]

theorem State.samePower_wakeUnit (s : State) (x : LpUnit) : s.samePower (s.wakeUnit x) := by
  unfold State.wakeUnit
  split
  · rw [State.samePower, State.pwr_count]
  · exact .refl

theorem State.samePower_wakeFor (s : State) (p : Nat) : s.samePower (s.wakeFor p) := by
  unfold State.wakeFor
  split
  · exact .refl
  · extract_lets d t l
    have ht : s.samePower t := by
      change s.samePower (if d.valid then s.wakeUnit (.slice (Fin.ofNat 32 (d.leaf / 4096))) else s)
      split
      · exact s.samePower_wakeUnit _
      · exact .refl
    split
    · exact ht.trans (t.samePower_wakeUnit _)
    · exact ht.trans (t.samePower_wakeUnit _)
    · exact ht.trans (t.samePower_wakeUnit _)
    · exact ht

theorem State.samePower_note (s : State) (p : Nat) : s.samePower (s.note p) := by
  refine (s.samePower_wakeFor p).trans ?_
  unfold State.note
  extract_lets t
  split
  · exact .of_eq (by rw [State.pwr_count]; rfl)
  · exact .of_eq rfl

theorem State.samePower_put (s : State) (off : Nat) (b : List Byte) : s.samePower (s.put off b) := by
  unfold State.put
  split
  · exact .refl
  · refine State.each_keeps_prop (P := s.samePower) .refl fun t p _ ht => ht.trans ?_
    exact (t.samePower_note _).keeps (l := [.out, .regs, .cnt, .mem, .movers, .tier, .digs, .pcie]) (Steady.keepsOf (.serveHeldWrite (.refl _ _) _ _ _))

/-! ## Records -/

/-- A record depends on the time, on what is free and on the rails' readings. -/
theorem State.errorRecord_congr (hn : t.now = s.now) (hf : t.fresh = s.fresh)
    (hv : ∀ i, t.fld .pwr Reg.RAIL_MV_MV i = s.fld .pwr Reg.RAIL_MV_MV i) : t.errorRecord pg a n = s.errorRecord pg a n := by
  simp only [State.errorRecord, State.freeNat, State.freeBytes, hn, hf, hv]

/-- A record that is not a CORRECTED one too many. -/
def State.recordPut (s : State) (pg : Page) (a : RecArgs) : State :=
  let n := (s.fld .elog Reg.ELOG_SEQ_SEQ + 1) % 2 ^ 32
  let r := s.errorRecord pg a n
  let s := (s.draw.setFld .elog Reg.ELOG_SEQ_SEQ n).count .elog 0x80
  let el := s.elog
  { s with elog := { el with
    recent := (r :: el.recent).take 16
    corrected := if a.severity = 0 then Map.set 0 el.corrected pg.base (s.now + 1) else el.corrected
    toLedger := if a.severity = 2 ∨ a.severity = 3 then el.toLedger ++ [r] else el.toLedger } }

/-- The record as the ring takes it. -/
def State.recordOf (s : State) (pg : Page) (a : RecArgs) : BitVec 512 := s.errorRecord pg a ((s.fld .elog Reg.ELOG_SEQ_SEQ + 1) % 2 ^ 32)

theorem State.record_eq (h : a.severity ≠ 0) : s.record pg a =
    match partOfPage pg with
    | some p => if a.severity = 2 then (((s.recordPut pg a).elogRing (s.recordOf pg a)).irq .elog 0).escalate p
      else ((s.recordPut pg a).elogRing (s.recordOf pg a)).irq .elog 0
    | none => ((s.recordPut pg a).elogRing (s.recordOf pg a)).irq .elog 0 := by
  unfold State.record
  rw [if_neg (by simp [h])]
  rfl

/-- What names the newest record stays. -/
def State.newestSame (s t : State) : Prop :=
  t.elog.recent = s.elog.recent ∧ t.fld .elog Reg.ELOG_SEQ_SEQ = s.fld .elog Reg.ELOG_SEQ_SEQ

theorem State.newestSame.trans (h : s.newestSame t) (k : t.newestSame u) : s.newestSame u := ⟨k.1.trans h.1, k.2.trans h.2⟩

theorem State.newestSame.changes (h : s.newestSame t) (k : t.changes u cs fs ns) (hc : Comp.elog ∉ cs := by simp)
    (hf : ∀ x ∈ fs, Place.apart x (Reg.ELOG_SEQ_SEQ.place .elog) := by simp +decide [irqPlaces, errPlaces, Place.apart_of]) : s.newestSame u :=
  ⟨(congrArg Elog.recent (k.1 .elog (by simpa using hc))).trans h.1, (k.fld hf).trans h.2⟩

theorem State.newestSame.changesOn {pgs : List Page} (h : s.newestSame t) (k : t.changesOn u cs pgs) (hc : Comp.elog ∉ cs := by simp)
    (hp : ∀ q ∈ pgs, q ≠ .elog) : s.newestSame u :=
  ⟨(congrArg Elog.recent (k.1 .elog (by simpa using hc))).trans h.1, (k.fld (by decide) fun hq => hp _ hq rfl).trans h.2⟩

theorem State.elogRing_newest (s : State) (r : BitVec 512) : s.newestSame (s.elogRing r) := by
  have h0 : s.newestSame s := ⟨rfl, rfl⟩
  unfold State.elogRing
  split
  · extract_lets n tail head addr
    split
    · exact h0.changes (cs := [.out, .pcie]) (fs := Reg.ELOG_STAT_OVERFLOW.place .elog :: (errPlaces .elog ++ irqPlaces .elog))
        (ns := (Page.elog, 0x88) :: (errCounts .elog ++ irqCounts .elog))
        (.irq (.err (.setFld (.count .refl)) (by simp [errPlaces]) (by simp [errCounts])) (by simp) (by simp [irqPlaces]) (by simp [irqCounts]))
        (by simp) (by simp +decide [irqPlaces, errPlaces, Place.apart_of])
    · have hp : s.changesOn (s.put addr (BVbytes r)) [.out, .mem, .movers, .tier, .digs, .pwr, .pcie]
          putPages :=
        Steady.changesOnOf [.pwr, .pcie, .tier, .move] (.put (.refl _ s) addr (BVbytes r)) fun q hq => mem_putPages hq
      have h1 := h0.changesOn hp (by simp) (by
        rintro q hq rfl
        simp [putPages] at hq)
      exact h1.changes (cs := []) (ns := []) (.setFld .refl (by exact List.mem_singleton_self _)) (by simp) (by simp +decide [Place.apart_of])
  · exact h0

theorem State.newestSame.irq {b : Nat} (h : s.newestSame t) : s.newestSame (t.irq pg b) :=
  h.changes (cs := [.out, .pcie]) (t.irq_changes pg b)

theorem State.escalate_newest (h : s.newestSame t) (p : PartId) : s.newestSame (t.escalate p) := by
  unfold State.escalate
  extract_lets times el u lim
  have hu : s.newestSame u := h
  split
  · exact (hu.changes (cs := []) (fs := []) (ns := [(.elog, 0x98)]) (.count .refl) (by simp) (by simp)).trans
      ⟨congrArg Elog.recent (Steady.keepsOf (l := [.out, .qrm]) (.takeCause (.refl _ _) p 3) .elog (by simp)),
        (Steady.changesOnOf (l := [.out, .qrm]) (pgs := []) [] (.takeCause (.refl _ _) p 3) (by simp)).fld (by decide) (by simp)⟩
  · exact hu

/-- The newest record is the one written. -/
theorem State.record_recorded (h : a.severity ≠ 0) : s.recorded (s.record pg a) pg a := by
  have h0 : (s.recordPut pg a).elog.recent.head? = some (s.recordOf pg a) ∧
      (s.recordPut pg a).fld .elog Reg.ELOG_SEQ_SEQ = (s.fld .elog Reg.ELOG_SEQ_SEQ + 1) % 2 ^ 32 := by
    refine ⟨rfl, ?_⟩
    have e : (s.recordPut pg a).fld .elog Reg.ELOG_SEQ_SEQ = (s.draw.setFld .elog Reg.ELOG_SEQ_SEQ
        ((s.fld .elog Reg.ELOG_SEQ_SEQ + 1) % 2 ^ 32)).fld .elog Reg.ELOG_SEQ_SEQ := State.fld_congr rfl rfl ..
    rw [e]
    exact State.fld_setFld_of_lt _ (Nat.mod_lt _ (by decide))
  have h1 : (s.recordPut pg a).newestSame (s.record pg a) := by
    rw [State.record_eq h]
    have h2 := ((s.recordPut pg a).elogRing_newest (s.recordOf pg a)).irq (pg := .elog) (b := 0)
    split
    · split
      · exact State.escalate_newest h2 _
      · exact h2
    · exact h2
  exact ⟨by rw [h1.1]; exact h0.1, h1.2.trans h0.2⟩

theorem State.samePower_elogRing (s : State) (r : BitVec 512) : s.samePower (s.elogRing r) := by
  unfold State.elogRing
  split
  · extract_lets n tail head addr
    split
    · exact State.samePower.of_eq (by rw [State.pwr_irq, State.pwr_err, State.pwr_setFld, State.pwr_count])
    · exact (s.samePower_put _ _).trans (.of_eq (State.pwr_setFld ..))
  · exact .refl

theorem State.samePower_record (h : a.severity ≠ 0) : s.samePower (s.record pg a) := by
  have h1 : s.samePower (((s.recordPut pg a).elogRing (s.recordOf pg a)).irq .elog 0) := by
    have e : (s.recordPut pg a).pwr = ((s.draw.setFld .elog Reg.ELOG_SEQ_SEQ ((s.fld .elog Reg.ELOG_SEQ_SEQ + 1) % 2 ^ 32)).count .elog 0x80).pwr := by
      rw [State.recordPut]
    have e2 : s.draw.pwr = s.pwr := by rw [State.draw]
    refine State.samePower.trans (.of_eq ?_) (((s.recordPut pg a).samePower_elogRing (s.recordOf pg a)).trans (.of_eq (State.pwr_irq ..)))
    rw [e, State.pwr_count, State.pwr_setFld, e2]
  rw [State.record_eq h]
  split
  · split
    · exact h1.keeps (l := [.out, .cnt, .regs, .elog, .qrm]) (Steady.keepsOf (.escalate (.refl _ _) _))
    · exact h1
  · exact h1

/-- What writing a record may touch. -/
theorem State.record_changesOn : s.changesOn (s.record pg a) recordComps recordPages :=
  Steady.changesOnOf [.pwr, .pcie, .tier, .move, .elog] (.record (.refl _ s) pg a) fun _ => mem_recordPages

end

end Sys2Proof.Machine
end

section
/-! PROOFS. O4: operating points, limits and rails (R335, R336, R339, R340). -/

namespace Sys2Proof.Machine
open Sys2Proof

section
variable {s t u v : State} {cs : List Comp} {fs : List Place} {ns : List (Page × Nat)} {q j k n o : Nat}

/-- The state with the power state replaced. -/
def State.setPwr (s : State) (x : Pwr) : State := { s with pwr := x }

theorem State.changes.setPwr {x : Pwr} (h : s.changes t cs fs ns) (hm : .pwr ∈ cs := by simp) : s.changes (t.setPwr x) cs fs ns :=
  h.upd (fun c hc => by cases c <;> first | rfl | exact absurd (by simp [hm]) hc) rfl rfl rfl

@[simp] theorem State.pwr_setPwr {x : Pwr} : (s.setPwr x).pwr = x := by rw [State.setPwr]
@[simp] theorem State.out_setPwr {x : Pwr} : (s.setPwr x).out = s.out := by rw [State.setPwr]
@[simp] theorem State.fld_setPwr {x : Pwr} {pg : Page} {f : Fld} {i : Nat} : (s.setPwr x).fld pg f i = s.fld pg f i :=
  State.fld_congr (by rw [State.setPwr]) (by rw [State.setPwr]) ..
@[simp] theorem State.counter_setPwr {x : Pwr} {pg : Page} : (s.setPwr x).counter pg o = s.counter pg o := rfl

/-! ## Rows of fields -/

theorem Place.apart_rows {pg : Page} {f g : Fld} {i j : Nat} (h : f.rowsApart g = true) : Place.apart (f.place pg i) (g.place pg j) := by
  simp only [Fld.rowsApart, decide_eq_true_eq] at h
  obtain ⟨-, hs, ha, hb, hab⟩ := h
  have := Nat.rows_apart (x := i) (y := j) ha hb hab
  simp only [Place.apart, Fld.place, Fld.addr, ← hs]
  rw [show i * (8 * f.stride) = 8 * (i * f.stride) by ring, show j * (8 * f.stride) = 8 * (j * f.stride) by ring] at this
  omega

theorem Place.apart_index {pg : Page} {f : Fld} {i j : Nat} (hij : i ≠ j) (h : f.width ≤ 8 * f.stride := by decide) :
    Place.apart (f.place pg i) (f.place pg j) := by
  simp only [Place.apart, Fld.place, Fld.addr]
  rcases Nat.lt_or_gt_of_ne hij with hlt | hlt
  · have := Nat.mul_le_mul_right f.stride (Nat.succ_le_of_lt hlt)
    rw [Nat.succ_mul] at this
    omega
  · have := Nat.mul_le_mul_right f.stride (Nat.succ_le_of_lt hlt)
    rw [Nat.succ_mul] at this
    omega

/-! ## Points and moves -/

/-- The point that a quadrant's entry names. -/
def moveOf (l : List (Nat × Nat)) (q : Nat) : Option Nat := (l.find? fun m => m.1 == q).map (·.2)

theorem State.oppTarget_eq : s.oppTarget q = (moveOf s.pwr.moving q).getD (s.fld .pwr Reg.PWR_OPP_CUR q) := by
  unfold State.oppTarget moveOf
  cases s.pwr.moving.find? fun m => m.1 == q <;> rfl

theorem State.oppTarget_congr (hm : t.pwr.moving = s.pwr.moving) (hc : t.fld .pwr Reg.PWR_OPP_CUR q = s.fld .pwr Reg.PWR_OPP_CUR q) :
    t.oppTarget q = s.oppTarget q := by rw [State.oppTarget_eq, State.oppTarget_eq, hm, hc]

theorem moveOf_filter_same (l : List (Nat × Nat)) : moveOf (l.filter fun m => m.1 != q) q = none := by
  rw [moveOf, List.find?_filter, List.find?_eq_none.2]
  · rfl
  · intro m _
    by_cases h : m.1 = q <;> simp [h]

theorem moveOf_filter_other (h : j ≠ q) (l : List (Nat × Nat)) : moveOf (l.filter fun m => m.1 != q) j = moveOf l j := by
  rw [moveOf, moveOf, List.find?_filter]
  congr 2
  funext m
  by_cases hm : m.1 = j
  · simp [hm, h]
  · simp [hm]

/-- The moves after one starts or ends. -/
def movesTo (l : List (Nat × Nat)) (q n cur : Nat) : List (Nat × Nat) :=
  if n = cur then l.filter fun m => m.1 != q else (l.filter fun m => m.1 != q) ++ [(q, n)]

theorem moveOf_movesTo {l : List (Nat × Nat)} {cur : Nat} : (moveOf (movesTo l q n cur) q).getD cur = n := by
  unfold movesTo
  split
  next h => rw [moveOf_filter_same, h]; rfl
  next h =>
    have := moveOf_filter_same (q := q) l
    rw [moveOf, Option.map_eq_none_iff] at this
    rw [moveOf, List.find?_append, this]
    simp

theorem moveOf_movesTo_other {l : List (Nat × Nat)} {cur : Nat} (h : j ≠ q) : moveOf (movesTo l q n cur) j = moveOf l j := by
  unfold movesTo
  split
  · exact moveOf_filter_other h l
  · have := moveOf_filter_other h l
    rw [← this, moveOf, moveOf, List.find?_append]
    cases (l.filter fun m => m.1 != q).find? fun m => m.1 == j <;> simp [Ne.symm h]

theorem State.moveOpp_eq : s.moveOpp q n = ((if n ≠ s.fld .pwr Reg.PWR_OPP_CUR q ∧ s.fld .pwr Reg.PWR_OPP_CUR q < n then
      s.send (.voltage (Fin.ofNat 4 q) (s.fld .pwr Reg.PWR_OPP_CUR q + 1)) else s)).setPwr
    { s.pwr with moving := movesTo s.pwr.moving q n (s.fld .pwr Reg.PWR_OPP_CUR q) } := by
  by_cases h : n = s.fld .pwr Reg.PWR_OPP_CUR q
  · rw [movesTo, if_neg (by simp [h]), if_pos h]
    exact if_pos h
  · rw [movesTo, if_neg h]
    refine (if_neg h).trans ?_
    by_cases hc : s.fld .pwr Reg.PWR_OPP_CUR q < n
    · simp only [hc, and_true, ne_eq, h, not_false_eq_true, if_true]
      rfl
    · simp only [hc, and_false, if_false]
      rfl

theorem State.moveOpp_changes : s.changes (s.moveOpp q n) [.pwr, .out] [] [] := by
  rw [State.moveOpp_eq]
  exact .setPwr (.ite (.send .refl) .refl)

theorem State.pwr_moveOpp : (s.moveOpp q n).pwr = { s.pwr with moving := movesTo s.pwr.moving q n (s.fld .pwr Reg.PWR_OPP_CUR q) } := by
  rw [State.moveOpp_eq, State.pwr_setPwr]

/-- A quadrant that starts to move is on its way to the point. -/
theorem State.oppTarget_moveOpp : (s.moveOpp q n).oppTarget q = n := by
  rw [State.oppTarget_eq, State.pwr_moveOpp, State.moveOpp_changes.fld (by simp)]
  exact moveOf_movesTo

theorem State.oppTarget_moveOpp_other (h : j ≠ q) : (s.moveOpp q n).oppTarget j = s.oppTarget j := by
  rw [State.oppTarget_eq, State.oppTarget_eq, State.pwr_moveOpp, State.moveOpp_changes.fld (by simp), moveOf_movesTo_other h]

theorem State.out_moveOpp : (s.moveOpp q n).out = s.out ++ if s.fld .pwr Reg.PWR_OPP_CUR q < n then
    [Out.voltage (Fin.ofNat 4 q) (s.fld .pwr Reg.PWR_OPP_CUR q + 1)] else [] := by
  rw [State.moveOpp_eq, State.out_setPwr]
  by_cases h : s.fld .pwr Reg.PWR_OPP_CUR q < n
  · rw [if_pos ⟨by omega, h⟩, if_pos h]
    rfl
  · rw [if_neg fun hx => h hx.2, if_neg h, List.append_nil]

/-! ## LIMITER -/

/-- What a limit may touch. -/
def limiterPlaces (q : Nat) : List Place := irqPlaces .pwr ++ [Reg.PWR_OPP_LIMITER.place .pwr q]

theorem State.limiter_changes {b : Bool} : s.changes (s.limiter q k b) [.out, .pcie] (limiterPlaces q) (irqCounts .pwr) := by
  unfold State.limiter
  extract_lets old u
  have hu : s.changes u [.out, .pcie] (limiterPlaces q) (irqCounts .pwr) := .setFld .refl (by simp [limiterPlaces])
  exact .ite (.irq hu (by simp) (by simp [limiterPlaces, irqPlaces]) (by simp [irqCounts])) hu

/-- The fields of a quadrant's row lie apart from the page's interrupts, and from the other rows. -/
theorem apart_irq_row {f : Fld} (hf : Reg.PG_IRQ_STAT.below f = true) : ∀ x ∈ irqPlaces .pwr, Place.apart x (f.place .pwr q) := by
  intro x hx
  rw [irqPlaces, List.mem_singleton] at hx
  subst hx
  exact Place.apart_of_below hf

theorem State.bit_limiter {b : Bool} (hk : k < 4) : bit ((s.limiter q k b).fld .pwr Reg.PWR_OPP_LIMITER q) j =
    if j = k then b else bit (s.fld .pwr Reg.PWR_OPP_LIMITER q) j := by
  have hb : withBits (s.fld .pwr Reg.PWR_OPP_LIMITER q) k 1 b.toNat < 2 ^ Reg.PWR_OPP_LIMITER.width := by
    refine Nat.lt_pow_two_of_testBit _ fun i hi => ?_
    have hi' : 4 ≤ i := hi
    rw [← bit_eq_testBit, bit_withBits, if_neg (by omega), bit_eq_testBit]
    exact Nat.testBit_lt_two_pow (lt_of_lt_of_le (s.fld_lt ..) (Nat.pow_le_pow_right (by omega) hi))
  unfold State.limiter
  extract_lets old u
  have hu : u.fld .pwr Reg.PWR_OPP_LIMITER q = withBits old k 1 b.toNat := State.fld_setFld_of_lt _ hb
  split
  · rw [(State.irq_changes ..).fld (apart_irq_row (by decide)), hu, bit_withBits]
  · rw [hu, bit_withBits]

/-! ## One step down -/

theorem State.stepDown_eq : s.stepDown q k = if s.oppTarget q = 0 then s.limiter q k true
    else ((s.limiter q k true).count .pwr (0x90 + 8 * k)).moveOpp q (min (s.oppTarget q) (s.fld .pwr Reg.PWR_OPP_CUR q) - 1) := by
  have h : (s.limiter q k true).fld .pwr Reg.PWR_OPP_CUR q = s.fld .pwr Reg.PWR_OPP_CUR q := by
    refine State.limiter_changes.fld fun x hx => ?_
    rcases List.mem_append.1 hx with hx | hx
    · exact apart_irq_row (by decide) x hx
    · rw [List.mem_singleton] at hx
      subst hx
      exact Place.apart_rows (by decide)
  have e : s.stepDown q k = if s.oppTarget q = 0 then s.limiter q k true
    else ((s.limiter q k true).count .pwr (0x90 + 8 * k)).moveOpp q (min (s.oppTarget q) ((s.limiter q k true).fld .pwr Reg.PWR_OPP_CUR q) - 1) := rfl
  rw [e, h]

/-- What a step down may touch. -/
theorem State.stepDown_changes : s.changes (s.stepDown q k) [.pwr, .out, .pcie] (limiterPlaces q) ((.pwr, 0x90 + 8 * k) :: irqCounts .pwr) := by
  have h1 : s.changes (s.limiter q k true) [.pwr, .out, .pcie] (limiterPlaces q) ((.pwr, 0x90 + 8 * k) :: irqCounts .pwr) :=
    State.changes_mono State.limiter_changes (by simp) (fun _ h => h) fun _ h => List.mem_cons_of_mem _ h
  rw [State.stepDown_eq]
  exact .ite h1 (State.changes_trans (.count h1) (State.changes_mono State.moveOpp_changes (by simp) (by simp) (by simp)))

/-- A limit leaves the point of a quadrant and what moves. -/
theorem State.oppTarget_limiter {b : Bool} : (s.limiter q k b).oppTarget j = s.oppTarget j := by
  refine State.oppTarget_congr (congrArg Pwr.moving (State.limiter_changes.1 .pwr (by simp))) (State.limiter_changes.fld fun x hx => ?_)
  rcases List.mem_append.1 hx with hx | hx
  · exact apart_irq_row (by decide) x hx
  · rw [List.mem_singleton] at hx
    subst hx
    exact Place.apart_rows (by decide)

/-- One step down from the lower of the point in force and the point on the way. -/
theorem State.oppTarget_stepDown : (s.stepDown q k).oppTarget q = min (s.oppTarget q) (s.fld .pwr Reg.PWR_OPP_CUR q) - 1 := by
  rw [State.stepDown_eq]
  split
  next h => rw [State.oppTarget_limiter, h]; omega
  · exact State.oppTarget_moveOpp

theorem State.oppTarget_stepDown_other (h : j ≠ q) : (s.stepDown q k).oppTarget j = s.oppTarget j := by
  rw [State.stepDown_eq]
  split
  · exact State.oppTarget_limiter
  · rw [State.oppTarget_moveOpp_other h]
    refine Eq.trans (State.oppTarget_congr ?_ ?_) (State.oppTarget_limiter (s := s) (q := q) (k := k) (b := true))
    · rw [State.pwr_count]
    · rw [State.fld_count]

theorem State.bit_stepDown (hk : k < 4) : bit ((s.stepDown q k).fld .pwr Reg.PWR_OPP_LIMITER q) k = true := by
  have h1 : bit ((s.limiter q k true).fld .pwr Reg.PWR_OPP_LIMITER q) k = true := by rw [State.bit_limiter hk, if_pos rfl]
  rw [State.stepDown_eq]
  split
  · exact h1
  · rw [State.moveOpp_changes.fld (by simp), State.fld_count, h1]

/-- The count of a limit's steps. -/
theorem State.counted_stepDown (hk : k < 4) : s.counted (s.stepDown q k) .pwr (0x90 + 8 * k) (if s.oppTarget q = 0 then 0 else 1) := by
  have h1 : (s.limiter q k true).counter .pwr (0x90 + 8 * k) = s.counter .pwr (0x90 + 8 * k) :=
    State.limiter_changes.counter (by
    simp only [irqCounts, List.mem_cons, List.not_mem_nil, or_false, forall_eq_or_imp, forall_eq]
    exact ⟨by omega, Page.add_ne (by decide) (by omega) (by decide)⟩)
  rw [State.stepDown_eq]
  split
  · rw [State.counted, h1, State.counter_eq]
    simp
  · rw [State.counted, State.moveOpp_changes.counter (by simp), State.counter_count_same, h1]

/-- The power state after a step down, but for the moves. -/
theorem State.pwr_stepDown : ∃ l, (s.stepDown q k).pwr = { s.pwr with moving := l } := by
  have h1 : (s.limiter q k true).pwr = s.pwr := State.limiter_changes.1 .pwr (by simp)
  rw [State.stepDown_eq]
  split
  · exact ⟨_, h1⟩
  · exact ⟨_, by rw [State.pwr_moveOpp, State.pwr_count, h1]⟩

end

end Sys2Proof.Machine
end

section
/-! PROOFS. O4: the choice of a quadrant's point (R340, Table 15-5). -/

namespace Sys2Proof.Machine
open Sys2Proof

section
variable {s t u v : State} {q j k n o busy : Nat}

/-! ## The stages of a choice -/

/-- The point that the busy share asks for. -/
def State.loopPoint (s : State) (q busy : Nat) : Nat :=
  let cur := s.fld .pwr Reg.PWR_OPP_CUR q
  if 90 < busy then min (cur + 1) s.topOpp else if busy < 50 then cur - 1 else cur

/-- Between FLOOR and CAP. -/
def State.heldPoint (s : State) (q v : Nat) : Nat := max (s.fld .pwr Reg.PWR_OPP_FLOOR q) (min v (s.fld .pwr Reg.PWR_OPP_CAP q))

/-- Under the thermal limit. -/
def State.coolPoint (s : State) (q v : Nat) : Nat :=
  let cur := s.fld .pwr Reg.PWR_OPP_CUR q
  if s.pwr.thermHot.contains q then min v (cur - 1) else if s.pwr.thermHot.contains (q + 4) then min v cur else v

/-- Under the current limit. -/
def State.currPoint (s : State) (q v : Nat) : Nat := if s.pwr.currHit.contains q then min v (s.oppTarget q) else v

/-- The quadrant's clock was stretched too often. -/
def State.drooped (s : State) (q : Nat) : Bool := decide (1000 < Map.get 0 s.pwr.stretches q)

/-- Under the droop limit. -/
def State.droopPoint (s : State) (q v : Nat) : Nat := if s.drooped q then min v (s.oppTarget q) else v

/-- A limit shows, and counts when it changed the point. -/
def State.oppStage (s : State) (q a b o k : Nat) (on : Bool) : State := (if b ≠ a then s.count .pwr o else s).limiter q k on

/-- What a choice depends on. -/
structure State.sameRow (s t : State) (q : Nat) : Prop where
  thermHot : t.pwr.thermHot = s.pwr.thermHot
  currHit : t.pwr.currHit = s.pwr.currHit
  stretches : t.pwr.stretches = s.pwr.stretches
  target : t.oppTarget q = s.oppTarget q
  cur : t.fld .pwr Reg.PWR_OPP_CUR q = s.fld .pwr Reg.PWR_OPP_CUR q
  cap : t.fld .pwr Reg.PWR_OPP_CAP q = s.fld .pwr Reg.PWR_OPP_CAP q
  floor : t.fld .pwr Reg.PWR_OPP_FLOOR q = s.fld .pwr Reg.PWR_OPP_FLOOR q
  fuses : t.fuses = s.fuses

theorem State.sameRow.refl : s.sameRow s q := ⟨rfl, rfl, rfl, rfl, rfl, rfl, rfl, rfl⟩

theorem State.sameRow.trans (h : s.sameRow t q) (k : t.sameRow u q) : s.sameRow u q :=
  ⟨k.thermHot.trans h.thermHot, k.currHit.trans h.currHit, k.stretches.trans h.stretches, k.target.trans h.target, k.cur.trans h.cur,
    k.cap.trans h.cap, k.floor.trans h.floor, k.fuses.trans h.fuses⟩

/-- Places of the interrupts and of the fields that a choice sets. -/
def chosenPlaces (q : Nat) : List Place := limiterPlaces q ++ [Reg.PWR_OPP_LOOP.place .pwr q]

/-- A field of another kind in the rows is not among them. -/
theorem apart_chosen {f : Fld} (h0 : Reg.PG_IRQ_STAT.below f = true) (h1 : Reg.PWR_OPP_LIMITER.rowsApart f = true)
    (h2 : Reg.PWR_OPP_LOOP.rowsApart f = true) : ∀ x ∈ chosenPlaces q, Place.apart x (f.place .pwr j) := by
  intro x hx
  simp only [chosenPlaces, limiterPlaces, List.mem_append, List.mem_singleton] at hx
  rcases hx with (hx | rfl) | rfl
  · exact apart_irq_row h0 x hx
  · exact Place.apart_rows h1
  · exact Place.apart_rows h2

/-- A choice's fields change nothing that it depends on. -/
theorem State.sameRow.of_changes {cs : List Comp} {ns : List (Page × Nat)} (h : s.changes t cs (chosenPlaces j) ns) (hp : t.pwr = s.pwr)
    (hc : t.fuses = s.fuses) : s.sameRow t q where
  thermHot := by rw [hp]
  currHit := by rw [hp]
  stretches := by rw [hp]
  target := State.oppTarget_congr (by rw [hp]) (h.fld (apart_chosen (by decide) (by decide) (by decide)))
  cur := h.fld (apart_chosen (by decide) (by decide) (by decide))
  cap := h.fld (apart_chosen (by decide) (by decide) (by decide))
  floor := h.fld (apart_chosen (by decide) (by decide) (by decide))
  fuses := hc

def stageCounts : List (Page × Nat) := [(Page.pwr, 0x88), (Page.pwr, 0x90), (Page.pwr, 0x98), (Page.pwr, 0xA0)] ++ irqCounts .pwr

theorem State.oppStage_changes {a b : Nat} {on : Bool} (ho : (Page.pwr, o) ∈ stageCounts) :
    s.changes (s.oppStage q a b o k on) [.out, .pcie] (chosenPlaces q) stageCounts :=
  State.changes_trans (.ite (.count .refl ho) .refl)
    (State.changes_mono State.limiter_changes (fun _ h => h) (fun _ h => List.mem_append_left _ h) fun _ h => List.mem_append_right _ h)

theorem State.oppStage_sameRow {a b : Nat} {on : Bool} (ho : (Page.pwr, o) ∈ stageCounts) : s.sameRow (s.oppStage q a b o k on) q :=
  .of_changes (State.oppStage_changes ho) ((State.oppStage_changes ho).1 .pwr (by simp)) ((State.oppStage_changes ho).1 .fuses (by simp))

theorem State.bit_oppStage {a b : Nat} {on : Bool} (hk : k < 4) : bit ((s.oppStage q a b o k on).fld .pwr Reg.PWR_OPP_LIMITER q) j =
    if j = k then on else bit (s.fld .pwr Reg.PWR_OPP_LIMITER q) j := by
  rw [State.oppStage, State.bit_limiter hk]
  split
  · rfl
  · split
    · rw [State.fld_count]
    · rfl

/-- The state before the quadrant moves, and its point. -/
def State.chosen (s : State) (q busy : Nat) : State × Nat :=
  let v1 := s.loopPoint q busy
  let v2 := s.heldPoint q v1
  let v3 := s.coolPoint q v2
  let v4 := s.currPoint q v3
  let v5 := s.droopPoint q v4
  let u := ((s.setFld .pwr Reg.PWR_OPP_LOOP v1 q).oppStage q v1 v2 0x88 3 (v2 != v1)).oppStage q v2 v3 0x90 0
    (s.pwr.thermHot.contains q || s.pwr.thermHot.contains (q + 4))
  ((u.oppStage q v3 v4 0x98 1 (s.pwr.currHit.contains q)).oppStage q v4 v5 0xA0 2 (s.drooped q), v5)

theorem State.coolPoint_congr (h : s.sameRow t q) (hc : t.fld .pwr Reg.PWR_OPP_CUR q = s.fld .pwr Reg.PWR_OPP_CUR q) :
    t.coolPoint q n = s.coolPoint q n := by
  simp only [State.coolPoint, h.thermHot, hc]

theorem State.setLoop_sameRow : s.sameRow (s.setFld .pwr Reg.PWR_OPP_LOOP n q) q := by
  have h : s.changes (s.setFld .pwr Reg.PWR_OPP_LOOP n q) [] (chosenPlaces q) [] := .setFld .refl (by simp [chosenPlaces])
  exact .of_changes h (State.pwr_setFld ..) (State.fuses_setFld ..)

theorem State.chooseOpp_eq : s.chooseOpp q busy = (s.chosen q busy).1.moveOpp q (s.chosen q busy).2 := by
  obtain ⟨u1, h1⟩ : ∃ u, u = (s.setFld .pwr Reg.PWR_OPP_LOOP (s.loopPoint q busy) q).oppStage q (s.loopPoint q busy)
    (s.heldPoint q (s.loopPoint q busy)) 0x88 3 (s.heldPoint q (s.loopPoint q busy) != s.loopPoint q busy) := ⟨_, rfl⟩
  have k1 : s.sameRow u1 q := by
    rw [h1]
    exact State.setLoop_sameRow.trans (State.oppStage_sameRow (by decide))
  obtain ⟨u2, h2⟩ : ∃ u, u = u1.oppStage q (s.heldPoint q (s.loopPoint q busy)) (s.coolPoint q (s.heldPoint q (s.loopPoint q busy))) 0x90 0
    (s.pwr.thermHot.contains q || s.pwr.thermHot.contains (q + 4)) := ⟨_, rfl⟩
  have k2 : s.sameRow u2 q := by
    rw [h2]
    exact k1.trans (State.oppStage_sameRow (by decide))
  obtain ⟨u3, h3⟩ : ∃ u, u = u2.oppStage q (s.coolPoint q (s.heldPoint q (s.loopPoint q busy)))
    (s.currPoint q (s.coolPoint q (s.heldPoint q (s.loopPoint q busy)))) 0x98 1 (s.pwr.currHit.contains q) := ⟨_, rfl⟩
  have k3 : s.sameRow u3 q := by
    rw [h3]
    exact k2.trans (State.oppStage_sameRow (by decide))
  have e : s.chooseOpp q busy =
      let v2 := s.heldPoint q (s.loopPoint q busy)
      let v3 := if u1.pwr.thermHot.contains q then min v2 (s.fld .pwr Reg.PWR_OPP_CUR q - 1)
        else if u1.pwr.thermHot.contains (q + 4) then min v2 (s.fld .pwr Reg.PWR_OPP_CUR q) else v2
      let w2 := u1.oppStage q v2 v3 0x90 0 (u1.pwr.thermHot.contains q || u1.pwr.thermHot.contains (q + 4))
      let v4 := w2.currPoint q v3
      let w3 := w2.oppStage q v3 v4 0x98 1 (w2.pwr.currHit.contains q)
      let v5 := w3.droopPoint q v4
      (w3.oppStage q v4 v5 0xA0 2 (w3.drooped q)).moveOpp q v5 := by
    rw [h1]
    rfl
  have c (w : State) (hw : s.sameRow w q) (m : Nat) : w.currPoint q m = s.currPoint q m := by
    simp only [State.currPoint, hw.currHit, hw.target]
  have d (w : State) (hw : s.sameRow w q) : w.drooped q = s.drooped q := by simp only [State.drooped, hw.stretches]
  have dp (w : State) (hw : s.sameRow w q) (m : Nat) : w.droopPoint q m = s.droopPoint q m := by
    simp only [State.droopPoint, d w hw, hw.target]
  rw [e]
  dsimp only
  have e3 : (if u1.pwr.thermHot.contains q then min (s.heldPoint q (s.loopPoint q busy)) (s.fld .pwr Reg.PWR_OPP_CUR q - 1)
      else if u1.pwr.thermHot.contains (q + 4) then min (s.heldPoint q (s.loopPoint q busy)) (s.fld .pwr Reg.PWR_OPP_CUR q)
      else s.heldPoint q (s.loopPoint q busy)) = s.coolPoint q (s.heldPoint q (s.loopPoint q busy)) := by rw [k1.thermHot]; rfl
  rw [e3, k1.thermHot, ← h2, c u2 k2, k2.currHit, ← h3, dp u3 k3, d u3 k3, h3, h2, h1]
  rfl

/-! ## What a choice leaves -/

theorem State.chosen_changes : s.changes (s.chosen q busy).1 [.out, .pcie] (chosenPlaces q) stageCounts := by
  refine State.changes_trans (State.changes_trans (State.changes_trans (State.changes_trans ?_ (State.oppStage_changes (by decide)))
    (State.oppStage_changes (by decide))) (State.oppStage_changes (by decide))) (State.oppStage_changes (by decide))
  exact .setFld .refl (by simp [chosenPlaces])

theorem State.chooseOpp_changes : s.changes (s.chooseOpp q busy) [.pwr, .out, .pcie] (chosenPlaces q) stageCounts := by
  rw [State.chooseOpp_eq]
  exact State.changes_trans (State.changes_mono State.chosen_changes (by simp) (fun _ h => h) fun _ h => h)
    (State.changes_mono State.moveOpp_changes (by simp) (by simp) (by simp))

theorem State.pwr_chosen : (s.chosen q busy).1.pwr = s.pwr := State.chosen_changes.1 .pwr (by simp)

/-- The fields of a row, once chosen. -/
structure State.rowShown (s t : State) (q busy : Nat) : Prop where
  loop : t.fld .pwr Reg.PWR_OPP_LOOP q = s.loopPoint q busy
  target : t.oppTarget q = (s.chosen q busy).2
  acts : ∀ j, bit (t.fld .pwr Reg.PWR_OPP_LIMITER q) j = if j = 2 then s.drooped q else if j = 1 then s.pwr.currHit.contains q
    else if j = 0 then s.pwr.thermHot.contains q || s.pwr.thermHot.contains (q + 4)
    else if j = 3 then s.heldPoint q (s.loopPoint q busy) != s.loopPoint q busy else bit (s.fld .pwr Reg.PWR_OPP_LIMITER q) j

theorem State.loopPoint_lt (hb : s.topOpp < 8) : s.loopPoint q busy < 8 := by
  have hc : s.fld .pwr Reg.PWR_OPP_CUR q < 8 := s.fld_lt .pwr Reg.PWR_OPP_CUR q
  unfold State.loopPoint
  dsimp only
  split
  · omega
  · split <;> omega

theorem State.topOpp_lt : s.topOpp < 8 := by
  unfold State.topOpp
  split <;> decide

theorem State.chooseOpp_shown : s.rowShown (s.chooseOpp q busy) q busy := by
  have hm := State.moveOpp_changes (s := (s.chosen q busy).1) (q := q) (n := (s.chosen q busy).2)
  have hl : ∀ x ∈ limiterPlaces q, Place.apart x (Reg.PWR_OPP_LOOP.place .pwr q) := by
    intro x hx
    rcases List.mem_append.1 hx with hx | hx
    · exact apart_irq_row (by decide) x hx
    · rw [List.mem_singleton] at hx
      subst hx
      exact Place.apart_rows (by decide)
  have stage {w : State} {a b o k : Nat} {on : Bool} : (w.oppStage q a b o k on).fld .pwr Reg.PWR_OPP_LOOP q = w.fld .pwr Reg.PWR_OPP_LOOP q := by
    rw [State.oppStage, State.limiter_changes.fld hl]
    split
    · rw [State.fld_count]
    · rfl
  constructor
  · rw [State.chooseOpp_eq, hm.fld (by simp), State.chosen]
    dsimp only
    rw [stage, stage, stage, stage, State.fld_setFld_of_lt _ (State.loopPoint_lt State.topOpp_lt)]
  · rw [State.chooseOpp_eq]
    exact State.oppTarget_moveOpp
  · intro j
    rw [State.chooseOpp_eq, hm.fld (by simp), State.chosen]
    dsimp only
    rw [State.bit_oppStage (by decide), State.bit_oppStage (by decide), State.bit_oppStage (by decide), State.bit_oppStage (by decide),
      State.fld_setFld_rows _ (by decide)]

/-! ## Every quadrant chooses -/

/-- Another quadrant's choice leaves what a quadrant's depends on. -/
theorem State.chooseOpp_sameRow (h : q ≠ j) : s.sameRow (s.chooseOpp j busy) q := by
  have k : s.sameRow (s.chosen j busy).1 q := .of_changes State.chosen_changes State.pwr_chosen (State.chosen_changes.1 .fuses (by simp))
  have hm := State.moveOpp_changes (s := (s.chosen j busy).1) (q := j) (n := (s.chosen j busy).2)
  rw [State.chooseOpp_eq]
  refine k.trans ⟨?_, ?_, ?_, State.oppTarget_moveOpp_other h, hm.fld (by simp), hm.fld (by simp), hm.fld (by simp), hm.1 .fuses (by simp)⟩
  all_goals rw [State.pwr_moveOpp]

/-- … and what it shows. -/
theorem State.rowShown.other {b : Nat} (h : s.rowShown t q busy) (hj : q ≠ j) : s.rowShown (t.chooseOpp j b) q busy := by
  have hp {f : Fld} (h0 : Reg.PG_IRQ_STAT.below f = true) (hf : ∀ x ∈ [Reg.PWR_OPP_LIMITER.place .pwr j, Reg.PWR_OPP_LOOP.place .pwr j],
      Place.apart x (f.place .pwr q)) : (t.chooseOpp j b).fld .pwr f q = t.fld .pwr f q := by
    refine State.chooseOpp_changes.fld fun x hx => ?_
    simp only [chosenPlaces, limiterPlaces, List.mem_append, List.mem_singleton] at hx
    rcases hx with (hx | rfl) | rfl
    · exact apart_irq_row h0 x hx
    · exact hf _ (by simp)
    · exact hf _ (by simp)
  have hl : (t.chooseOpp j b).fld .pwr Reg.PWR_OPP_LOOP q = t.fld .pwr Reg.PWR_OPP_LOOP q := hp (by decide) (by
    simp only [List.mem_cons, List.not_mem_nil, or_false, forall_eq_or_imp, forall_eq]
    exact ⟨Place.apart_rows (by decide), Place.apart_index hj.symm⟩)
  have hi : (t.chooseOpp j b).fld .pwr Reg.PWR_OPP_LIMITER q = t.fld .pwr Reg.PWR_OPP_LIMITER q := hp (by decide) (by
    simp only [List.mem_cons, List.not_mem_nil, or_false, forall_eq_or_imp, forall_eq]
    exact ⟨Place.apart_index hj.symm, Place.apart_rows (by decide)⟩)
  exact ⟨hl.trans h.loop, (State.chooseOpp_sameRow hj).target.trans h.target, fun i => by rw [hi]; exact h.acts i⟩

theorem State.rowShown.of_same (h : u.rowShown t q busy) (k : s.sameRow u q)
    (hi : u.fld .pwr Reg.PWR_OPP_LIMITER q = s.fld .pwr Reg.PWR_OPP_LIMITER q) : s.rowShown t q busy := by
  have htop : u.topOpp = s.topOpp := by rw [State.topOpp, State.topOpp, k.fuses]
  have h1 : u.loopPoint q busy = s.loopPoint q busy := by simp only [State.loopPoint, k.cur, htop]
  have h2 (n : Nat) : u.heldPoint q n = s.heldPoint q n := by simp only [State.heldPoint, k.cap, k.floor]
  have h3 (n : Nat) : u.coolPoint q n = s.coolPoint q n := State.coolPoint_congr k k.cur
  have h4 (n : Nat) : u.currPoint q n = s.currPoint q n := by simp only [State.currPoint, k.currHit, k.target]
  have h5 : u.drooped q = s.drooped q := by simp only [State.drooped, k.stretches]
  have h6 (n : Nat) : u.droopPoint q n = s.droopPoint q n := by simp only [State.droopPoint, h5, k.target]
  have h7 : (u.chosen q busy).2 = (s.chosen q busy).2 := by simp only [State.chosen, h1, h2, h3, h4, h6]
  refine ⟨h.loop.trans h1, h.target.trans h7, fun j => ?_⟩
  rw [h.acts j, h1, h2, h5, k.currHit, k.thermHot, hi]

/-- After every quadrant of a list has chosen. -/
theorem State.each_chooseOpp {f : Nat → Nat} {l : List Nat} (hl : l.Nodup) (hq : q ∈ l) :
    s.rowShown (s.each l fun s j => s.chooseOpp j (f j)) q (f q) := by
  induction l generalizing s with
  | nil => exact absurd hq List.not_mem_nil
  | cons j l ih =>
    obtain ⟨hj, hl'⟩ := List.nodup_cons.1 hl
    by_cases h : q = j
    · subst h
      refine State.each_keeps_prop (s := s.chooseOpp q (f q)) (P := fun t => s.rowShown t q (f q)) State.chooseOpp_shown fun t i hi ht => ht.other ?_
      rintro rfl
      exact hj hi
    · refine (ih hl' ((List.mem_cons.1 hq).resolve_left h)).of_same (State.chooseOpp_sameRow h) ?_
      refine State.chooseOpp_changes.fld fun x hx => ?_
      simp only [chosenPlaces, limiterPlaces, List.mem_append, List.mem_singleton] at hx
      rcases hx with (hx | rfl) | rfl
      · exact apart_irq_row (by decide) x hx
      · exact Place.apart_index (Ne.symm h)
      · exact Place.apart_rows (by decide)

/-! ## Readings -/

/-- The quadrants that are hot, or may not rise yet, after a reading. -/
def hotAfter (hot : List Nat) (q : Nat) (temp lim : Int) : List Nat :=
  let rest := hot.filter fun h => h != q && h != q + 4
  if lim < temp then rest ++ [q] else if temp ≤ lim - 16 then rest else if hot.contains q then rest ++ [q + 4] else hot

theorem mem_hotAfter {hot : List Nat} {temp lim : Int} : (q ∈ hotAfter hot q temp lim ↔ lim < temp) ∧
    (q + 4 ∈ hotAfter hot q temp lim ↔ lim - 16 < temp ∧ temp ≤ lim ∧ (q ∈ hot ∨ q + 4 ∈ hot)) := by
  unfold hotAfter
  dsimp only
  by_cases h1 : lim < temp
  · simp [h1]
  · rw [if_neg h1]
    by_cases h2 : temp ≤ lim - 16
    · simp [h2, h1]
    · rw [if_neg h2]
      have h3 : lim - 16 < temp := by omega
      have h4 : temp ≤ lim := by omega
      by_cases h5 : q ∈ hot
      · simp [h5, h1, h3, h4]
      · simp [h5, h1, h3, h4]

/-- A quadrant's reading, published. -/
def State.hotSet (s : State) (q : Fin 4) (temp : Int) (sensor : Fin 256) (lim : Int) : State :=
  (s.setTemp temp sensor).setPwr { s.pwr with thermHot := hotAfter s.pwr.thermHot q.val temp lim }

theorem unsigned_lt (w : Nat) (v : Int) : unsigned w v < 2 ^ w := by
  have h := Int.emod_lt_of_pos v (show (0 : Int) < 2 ^ w by positivity)
  have h' := Int.emod_nonneg v (show ((2 : Int) ^ w) ≠ 0 by positivity)
  rw [unsigned, ← Nat.cast_lt (α := Int), Int.toNat_of_nonneg h']
  simpa using h

def tempPlaces : List Place := [Reg.PWR_TEMP_MAX.place .pwr, Reg.PWR_TEMP_SENSOR.place .pwr]

theorem State.hotSet_changes {q : Fin 4} {temp lim : Int} {sensor : Fin 256} : s.changes (s.hotSet q temp sensor lim) [.pwr] tempPlaces [] :=
  .setPwr (.setFld (.setFld .refl (by simp [tempPlaces])) (by simp [tempPlaces]))

theorem State.hotSet_shows {q : Fin 4} {temp lim : Int} {sensor : Fin 256} :
    (s.hotSet q temp sensor lim).fld .pwr Reg.PWR_TEMP_MAX = unsigned 16 temp ∧ (s.hotSet q temp sensor lim).fld .pwr Reg.PWR_TEMP_SENSOR = sensor.val ∧
      (s.hotSet q temp sensor lim).pwr = { s.pwr with thermHot := hotAfter s.pwr.thermHot q.val temp lim } := by
  have h1 : unsigned 16 temp < 2 ^ Reg.PWR_TEMP_MAX.width := unsigned_lt 16 temp
  have h2 : sensor.val < 2 ^ Reg.PWR_TEMP_SENSOR.width := sensor.isLt
  refine ⟨?_, ?_, State.pwr_setPwr⟩
  · rw [State.hotSet, State.fld_setPwr, State.setTemp, State.fld_setFld_apart _ (by decide), State.fld_setFld_of_lt _ h1]
  · rw [State.hotSet, State.fld_setPwr, State.setTemp, State.fld_setFld_of_lt _ h2]

theorem exec_thermalLimit {q : Fin 4} {temp lim : Int} {sensor : Fin 256} (hl : lim = (s.fld .pwr Reg.PWR_THERM_LIMIT_C : Int) * 8) :
    exec (.thermalLimit q temp sensor) s = .next (if lim < temp ∧ q.val ∉ s.pwr.thermHot then (s.hotSet q temp sensor lim).stepDown q.val 0
      else s.hotSet q temp sensor lim) := by
  subst hl
  obtain ⟨v, hv⟩ : ∃ v, v = s.setTemp temp sensor := ⟨_, rfl⟩
  have hp : v.pwr = s.pwr := by rw [hv, State.setTemp, State.pwr_setFld, State.pwr_setFld]
  have e : exec (.thermalLimit q temp sensor) s = .next (
      if (s.fld .pwr Reg.PWR_THERM_LIMIT_C : Int) * 8 < temp then
        if v.pwr.thermHot.contains q.val then v.setPwr { v.pwr with thermHot := (v.pwr.thermHot.filter fun h => h != q.val && h != q.val + 4) ++ [q.val] }
        else (v.setPwr { v.pwr with thermHot := (v.pwr.thermHot.filter fun h => h != q.val && h != q.val + 4) ++ [q.val] }).stepDown q.val 0
      else if temp ≤ (s.fld .pwr Reg.PWR_THERM_LIMIT_C : Int) * 8 - 16 then
        v.setPwr { v.pwr with thermHot := v.pwr.thermHot.filter fun h => h != q.val && h != q.val + 4 }
      else if v.pwr.thermHot.contains q.val then
        v.setPwr { v.pwr with thermHot := (v.pwr.thermHot.filter fun h => h != q.val && h != q.val + 4) ++ [q.val + 4] }
      else v.setPwr { v.pwr with thermHot := v.pwr.thermHot }) := by
    rw [hv]
    rfl
  rw [e, hp, State.hotSet, hotAfter, ← hv]
  refine congrArg Host.Outcome.next ?_
  by_cases h1 : (s.fld .pwr Reg.PWR_THERM_LIMIT_C : Int) * 8 < temp
  · by_cases h2 : q.val ∈ s.pwr.thermHot
    · simp only [h1, h2, List.contains_iff_mem, if_true, not_true_eq_false, and_false, if_false]
    · simp only [h1, h2, List.contains_iff_mem, if_true, not_false_eq_true, and_true, if_false]
  · simp only [h1, false_and, if_false]
    by_cases h2 : temp ≤ (s.fld .pwr Reg.PWR_THERM_LIMIT_C : Int) * 8 - 16
    · simp only [h2, if_true]
    · by_cases h3 : q.val ∈ s.pwr.thermHot
      · simp only [h2, h3, List.contains_iff_mem, if_true, if_false]
      · simp only [h2, h3, List.contains_iff_mem, if_false]

end

end Sys2Proof.Machine
end

section
/-! PROOFS. O4: what each command of the power manager does (R335, R336, R339, R340). -/

namespace Sys2Proof.Machine
open Sys2Proof

section
variable {s t u v : State} {n o : Nat}

/-! ## PWR_OPP_WRITE -/

/-- The points of a quadrant stored. -/
def State.oppStored (s : State) (q : Fin 4) (cap floor : Fin 8) : State :=
  ((if s.topOpp < cap.val ∨ s.topOpp < floor.val then s.count .pwr 0x80 else s).setFld .pwr Reg.PWR_OPP_CAP (min cap.val s.topOpp) q.val).setFld .pwr
    Reg.PWR_OPP_FLOOR (min floor.val s.topOpp) q.val

theorem State.oppStored_spec {q : Fin 4} {cap floor : Fin 8} : (s.oppStored q cap floor).fld .pwr Reg.PWR_OPP_CAP q.val = min cap.val s.topOpp ∧
    (s.oppStored q cap floor).fld .pwr Reg.PWR_OPP_FLOOR q.val = min floor.val s.topOpp ∧
    s.counted (s.oppStored q cap floor) .pwr 0x80 (if s.topOpp < cap.val ∨ s.topOpp < floor.val then 1 else 0) ∧
    s.changes (s.oppStored q cap floor) [] [Reg.PWR_OPP_CAP.place .pwr q.val, Reg.PWR_OPP_FLOOR.place .pwr q.val] [(.pwr, 0x80)] := by
  have hc : min cap.val s.topOpp < 2 ^ Reg.PWR_OPP_CAP.width := lt_of_le_of_lt (min_le_left ..) cap.isLt
  have hf : min floor.val s.topOpp < 2 ^ Reg.PWR_OPP_FLOOR.width := lt_of_le_of_lt (min_le_left ..) floor.isLt
  refine ⟨?_, State.fld_setFld_of_lt _ hf, ?_, .setFld (.setFld (.ite (.count .refl) .refl))⟩
  · rw [State.oppStored, State.fld_setFld_rows _ (by decide), State.fld_setFld_of_lt _ hc]
  · rw [State.counted]
    split
    · simp +decide [State.oppStored, State.counter_eq, *]
    · simp +decide [State.oppStored, State.counter_eq, *]

theorem exec_pwrOppWrite {q : Fin 4} {cap floor : Fin 8} (h : s.ready .pwr = true) : exec (.pwrOppWrite q cap floor) s = .next (
    if min cap.val s.topOpp < min floor.val s.topOpp then s.rsvEnc .pwr else s.oppStored q cap floor) :=
  congrArg Host.Outcome.next (State.ifReady_pos h _)

/-! ## OPP_TRANSITION_DONE -/

/-- One step of a move is done. -/
def State.oppStepped (s : State) (q : Fin 4) (next : Nat) : State :=
  let u := (s.setFld .pwr Reg.PWR_OPP_CUR next q.val).count .pwr 0xA8
  if next < s.fld .pwr Reg.PWR_OPP_CUR q.val then u.send (.voltage q next) else u

theorem exec_oppTransitionDone {q : Fin 4} {target next : Nat} (h : (s.pwr.moving.find? fun m => m.1 == q.val) = some (q.val, target))
    (hn : next = if s.fld .pwr Reg.PWR_OPP_CUR q.val < target then s.fld .pwr Reg.PWR_OPP_CUR q.val + 1 else s.fld .pwr Reg.PWR_OPP_CUR q.val - 1) :
    exec (.oppTransitionDone q) s = .next ((s.oppStepped q next).moveOpp q.val target) := by
  subst hn
  refine congrArg Host.Outcome.next ?_
  rw [h]
  rfl

theorem State.oppStepped_spec {q : Fin 4} {next : Nat} (hn : next < 8) : (s.oppStepped q next).fld .pwr Reg.PWR_OPP_CUR q.val = next ∧
    s.counted (s.oppStepped q next) .pwr 0xA8 ∧
    ((s.oppStepped q next).out = s.out ++ if next < s.fld .pwr Reg.PWR_OPP_CUR q.val then [Out.voltage q next] else []) ∧
    s.changes (s.oppStepped q next) [.out] [Reg.PWR_OPP_CUR.place .pwr q.val] [(.pwr, 0xA8)] := by
  have hn' : next < 2 ^ Reg.PWR_OPP_CUR.width := hn
  have h1 : ((s.setFld .pwr Reg.PWR_OPP_CUR next q.val).count .pwr 0xA8).fld .pwr Reg.PWR_OPP_CUR q.val = next := by
    rw [State.fld_count, State.fld_setFld_of_lt _ hn']
  have h2 : s.counted ((s.setFld .pwr Reg.PWR_OPP_CUR next q.val).count .pwr 0xA8) .pwr 0xA8 := by
    rw [State.counted]
    simp +decide [State.counter_eq]
  unfold State.oppStepped
  dsimp only
  split
  · exact ⟨h1, h2, by rw [State.send, State.out_count, State.out_setFld], .send (.count (.setFld .refl))⟩
  · exact ⟨h1, h2, by rw [State.out_count, State.out_setFld, List.append_nil], .count (.setFld .refl)⟩

/-! ## DROOP_DETECT -/

/-- One more cycle stretched. -/
def State.stretched (s : State) (q n : Nat) : State :=
  (s.setPwr { s.pwr with stretches := Map.set 0 s.pwr.stretches q n }).count .pwr 0xB8

theorem exec_droopDetect {q : Fin 4} : exec (.droopDetect q) s = .next (
    if Map.get 0 s.pwr.stretches q.val + 1 = 1001 then (s.stretched q.val (Map.get 0 s.pwr.stretches q.val + 1)).stepDown q.val 2
    else s.stretched q.val (Map.get 0 s.pwr.stretches q.val + 1)) := rfl

theorem State.stretched_changes {q : Nat} : s.changes (s.stretched q n) [.pwr] [] [(.pwr, 0xB8)] := .count (.setPwr .refl)

theorem State.oppTarget_stretched {q j : Nat} : (s.stretched q n).oppTarget j = s.oppTarget j :=
  State.oppTarget_congr (by rw [State.stretched, State.pwr_count, State.pwr_setPwr]) (State.stretched_changes.fld (by simp))

/-! ## RAIL_READ_COMPLETE -/

/-- A rail's reading, published. -/
def State.railRead (s : State) (k mv da : Nat) : State :=
  ((s.setFld .pwr Reg.RAIL_MV_MV mv k).setFld .pwr Reg.RAIL_MV_DECIAMPS da k).setPwr { s.pwr with railMiss := Map.set 0 s.pwr.railMiss k 0 }

/-- A tile rail above its limit. -/
def State.railOver (s : State) (k : Nat) : State :=
  s.setPwr { s.pwr with currHit := (k - 1) :: s.pwr.currHit.filter (· ≠ k - 1) }

@[simp] theorem State.fld_railOver {k i : Nat} {pg : Page} {f : Fld} : (s.railOver k).fld pg f i = s.fld pg f i := State.fld_setPwr

theorem State.pwr_railOver {k : Nat} : (s.railOver k).pwr = { s.pwr with currHit := (k - 1) :: s.pwr.currHit.filter (· ≠ k - 1) } :=
  State.pwr_setPwr

def railPlaces (k : Nat) : List Place := [Reg.RAIL_MV_MV.place .pwr k, Reg.RAIL_MV_DECIAMPS.place .pwr k]

theorem State.railRead_changes {k mv da : Nat} : s.changes (s.railRead k mv da) [.pwr] (railPlaces k) [] :=
  .setPwr (.setFld (.setFld .refl (by simp [railPlaces])) (by simp [railPlaces]))

theorem exec_railRead {rail : Fin 16} {mv da : Nat} (h1 : 1 ≤ rail.val) (h2 : rail.val ≤ 13) :
    exec (.railReadComplete rail (some (mv, da))) s = .next (
      if rail.val ≤ 4 ∧ s.fld .pwr Reg.PWR_ICC_TILE_A_MAX * 10 < da then ((s.railRead rail.val mv da).railOver rail.val).stepDown (rail.val - 1) 1
      else s.railRead rail.val mv da) := by
  have hc : (s.railRead rail.val mv da).fld .pwr Reg.PWR_ICC_TILE_A_MAX = s.fld .pwr Reg.PWR_ICC_TILE_A_MAX := by
    rw [State.railRead, State.fld_setPwr, State.fld_setFld_above _ (by decide), State.fld_setFld_above _ (by decide)]
  have hp : ((s.setFld .pwr Reg.RAIL_MV_MV mv rail.val).setFld .pwr Reg.RAIL_MV_DECIAMPS da rail.val).pwr = s.pwr := by
    rw [State.pwr_setFld, State.pwr_setFld]
  obtain ⟨w, hw⟩ : ∃ w, w = (s.setFld .pwr Reg.RAIL_MV_MV mv rail.val).setFld .pwr Reg.RAIL_MV_DECIAMPS da rail.val := ⟨_, rfl⟩
  have e : exec (.railReadComplete rail (some (mv, da))) s = .next (if rail.val = 0 ∨ 13 < rail.val then s else
      if rail.val ≤ 4 ∧ (w.setPwr { w.pwr with railMiss := Map.set 0 w.pwr.railMiss rail.val 0 }).fld .pwr Reg.PWR_ICC_TILE_A_MAX * 10 < da then
        ((w.setPwr { w.pwr with railMiss := Map.set 0 w.pwr.railMiss rail.val 0 }).railOver rail.val).stepDown (rail.val - 1) 1
      else w.setPwr { w.pwr with railMiss := Map.set 0 w.pwr.railMiss rail.val 0 }) := by
    rw [hw]
    rfl
  rw [← hw] at hp
  have er : w.setPwr { w.pwr with railMiss := Map.set 0 w.pwr.railMiss rail.val 0 } = s.railRead rail.val mv da := by
    rw [hp, hw]
    rfl
  rw [e, er, hc, if_neg (by omega)]

theorem State.railRead_shows {k mv da : Nat} : (s.railRead k mv da).fld .pwr Reg.RAIL_MV_MV k = mv % 2 ^ Reg.RAIL_MV_MV.width ∧
    (s.railRead k mv da).fld .pwr Reg.RAIL_MV_DECIAMPS k = da % 2 ^ Reg.RAIL_MV_DECIAMPS.width ∧ Map.get 0 (s.railRead k mv da).pwr.railMiss k = 0 := by
  refine ⟨?_, ?_, ?_⟩
  · rw [State.railRead, State.fld_setPwr, State.fld_setFld_rows _ (by decide), State.fld_setFld_same]
  · rw [State.railRead, State.fld_setPwr, State.fld_setFld_same]
  · rw [State.railRead, State.pwr_setPwr, Map.get_set_same]

theorem State.oppTarget_railRead {k mv da q : Nat} (hq : q < 4) : (s.railRead k mv da).oppTarget q = s.oppTarget q ∧
    (s.railRead k mv da).fld .pwr Reg.PWR_OPP_CUR q = s.fld .pwr Reg.PWR_OPP_CUR q := by
  have h : (s.railRead k mv da).fld .pwr Reg.PWR_OPP_CUR q = s.fld .pwr Reg.PWR_OPP_CUR q := by
    refine State.railRead_changes.fld fun x hx => ?_
    simp only [railPlaces, List.mem_cons, List.not_mem_nil, or_false] at hx
    rcases hx with rfl | rfl <;>
    · simp only [Place.apart, Fld.place, Fld.addr, Reg.PWR_OPP_CUR, Reg.RAIL_MV_MV, Reg.RAIL_MV_DECIAMPS]
      omega
  exact ⟨State.oppTarget_congr (by rw [State.railRead, State.pwr_setPwr]) h, h⟩

/-- A rail that did not answer. -/
def State.railSilent (s : State) (k n : Nat) : State := s.setPwr { s.pwr with railMiss := Map.set 0 s.pwr.railMiss k n }

theorem exec_railSilent {rail : Fin 16} (h1 : 1 ≤ rail.val) (h2 : rail.val ≤ 13) : exec (.railReadComplete rail none) s = .next (
    if Map.get 0 s.pwr.railMiss rail.val + 1 = 3 then (s.railSilent rail.val 0).record .pwr { severity := 2, rail := some rail.val }
    else s.railSilent rail.val (Map.get 0 s.pwr.railMiss rail.val + 1)) := by
  refine congrArg Host.Outcome.next ((if_neg (by omega)).trans ?_)
  dsimp only
  by_cases h : Map.get 0 s.pwr.railMiss rail.val + 1 = 3
  · simp only [h, if_true]
    rfl
  · simp only [h, if_false]
    rfl

/-! ## POWER_MANAGER_TICK -/

/-- The share of a partition of the tiles' power. -/
def State.rateOf (s : State) (sum : Nat) (p : PartId) : Nat :=
  let v := vddOf (s.fld .pwr Reg.PWR_OPP_CUR (p.val / 8))
  if s.fenced p ∨ sum = 0 then 0 else s.fld .pwr Reg.PWR_TILE_W_WATTS * 1000 * s.fld .pwr Reg.PWR_SHARE_SHARE p.val * 7225 / (sum * (v * v))

def ratePlaces : List Place := allParts.map fun k => Reg.DISP_ENERGY_RATE_RATE_MW.place (.disp k)

/-- What the partitions' rates depend on. -/
def State.sameShares (s t : State) : Prop := ∀ n p, t.rateOf n p = s.rateOf n p

theorem State.sameShares.setRate {p : PartId} (h : s.sameShares t) : s.sameShares (t.setFld (.disp p) Reg.DISP_ENERGY_RATE_RATE_MW n) := by
  intro m q
  rw [← h m q]
  have hf : (t.setFld (.disp p) Reg.DISP_ENERGY_RATE_RATE_MW n).fenced q = t.fenced q := by
    rw [State.fenced, State.fenced, State.fld_setFld_page _ (by simp) (by decide) (by decide)]
  have hb {f : Fld} {i : Nat} (hi : f.fits i = true) : (t.setFld (.disp p) Reg.DISP_ENERGY_RATE_RATE_MW n).fld .pwr f i = t.fld .pwr f i :=
    State.fld_setFld_page _ (by simp) (by decide) hi
  have hq : q.val < 32 := q.isLt
  have h1 : Reg.PWR_OPP_CUR.fits (q.val / 8) = true :=
    (by decide : ∀ i : Fin 4, Reg.PWR_OPP_CUR.fits i.val = true) ⟨q.val / 8, by omega⟩
  have h2 : Reg.PWR_SHARE_SHARE.fits q.val = true := (by decide : ∀ i : Fin 32, Reg.PWR_SHARE_SHARE.fits i.val = true) q
  rw [State.rateOf, State.rateOf, hf, hb h1, hb h2, hb (by decide)]

/-- Every partition of a list gets its rate. -/
theorem State.each_rate {l : List PartId} (hl : l.Nodup) {p : PartId} (hp : p ∈ l) (hs : s.sameShares t) :
    (t.each l fun t p => t.setFld (.disp p) Reg.DISP_ENERGY_RATE_RATE_MW (t.rateOf n p)).fld (.disp p) Reg.DISP_ENERGY_RATE_RATE_MW =
      s.rateOf n p % 2 ^ Reg.DISP_ENERGY_RATE_RATE_MW.width := by
  induction l generalizing t with
  | nil => exact absurd hp List.not_mem_nil
  | cons q l ih =>
    obtain ⟨hq, hl'⟩ := List.nodup_cons.1 hl
    rcases List.mem_cons.1 hp with rfl | hp'
    · have hc : (t.setFld (.disp p) Reg.DISP_ENERGY_RATE_RATE_MW (t.rateOf n p)).changes
          ((t.setFld (.disp p) Reg.DISP_ENERGY_RATE_RATE_MW (t.rateOf n p)).each l fun t p =>
            t.setFld (.disp p) Reg.DISP_ENERGY_RATE_RATE_MW (t.rateOf n p)) [] (l.map fun k => Reg.DISP_ENERGY_RATE_RATE_MW.place (.disp k)) [] :=
        .each .refl fun u k hk hu => .setFld hu (List.mem_map_of_mem hk)
      change ((t.setFld (.disp p) Reg.DISP_ENERGY_RATE_RATE_MW (t.rateOf n p)).each l _).fld (.disp p) Reg.DISP_ENERGY_RATE_RATE_MW = _
      rw [hc.fld, State.fld_setFld_same, hs]
      intro x hx
      obtain ⟨k, hk, rfl⟩ := List.mem_map.1 hx
      refine Place.apart_of_ne ?_ (by decide) (by decide)
      simp only [ne_eq, Page.disp.injEq]
      rintro rfl
      exact hq hk
    · exact ih hl' hp' hs.setRate

theorem exec_powerManagerTick {sum : Nat}
    (h : sum = ((allParts.filter fun p => !s.fenced p).map fun p => s.fld .pwr Reg.PWR_SHARE_SHARE p.val).foldl (· + ·) 0) :
    exec .powerManagerTick s = .next (s.each allParts fun t p => t.setFld (.disp p) Reg.DISP_ENERGY_RATE_RATE_MW (t.rateOf sum p)) := by
  subst h
  rfl

theorem allParts_nodup : allParts.Nodup := List.nodup_finRange _

end

/-- Settles O4, command by command. -/
theorem operatingPointsMove : Obligations.OperatingPointsMove := by
  refine ⟨fun s q cap floor h hle => ?_, fun s q cap floor h hlt => ?_, fun s busy q cur up v1 v2 v3 v4 v5 hc h1 h2 h3 hu h4 h5 => ?_,
    fun s q target cur next hm hc ht hne hn => ?_, fun s q temp sensor lim hl => ?_, fun s q h => ?_, fun s q h => ?_,
    fun s rail mv da h1 h2 => ?_, fun s rail h1 h2 h => ?_, fun s rail h1 h2 h => ?_, fun s p sum v hs hv => ?_⟩
  · exact completes.next State.oppStored_spec ((exec_pwrOppWrite h).trans (congrArg _ (if_neg (Nat.not_lt.mpr hle))))
  · refine completes.next ?_ ((exec_pwrOppWrite h).trans (congrArg _ (if_pos hlt)))
    obtain ⟨k1, k2⟩ := State.changes.refused (s := s) (u := s) (cs := []) (fs := []) (ns := []) .refl (pg := .pwr) (by simp) (by simp)
    exact ⟨k1, k2, .rsvEnc .refl⟩
  · have hq : q.val ∈ List.range 4 := List.mem_range.2 q.isLt
    obtain ⟨w, hw⟩ : ∃ w, w = s.each (List.range 4) fun s k => s.chooseOpp k (busy.getD k 0) := ⟨_, rfl⟩
    have hr : s.rowShown w q.val (busy.getD q.val 0) := by
      rw [hw]
      exact State.each_chooseOpp List.nodup_range hq
    have e : exec (.oppTick busy) s = .next (w.setPwr { w.pwr with currHit := [], stretches := [] }) := by
      rw [hw]
      rfl
    have e1 : s.loopPoint q.val (busy.getD q.val 0) = v1 := by rw [h1, hc]; rfl
    have e2 : s.heldPoint q.val v1 = v2 := h2.symm
    have e3 : s.coolPoint q.val v2 = v3 := by rw [h3, hc]; simp only [State.coolPoint, List.contains_iff_mem]
    have e4 : s.currPoint q.val v3 = v4 := by rw [h4, hu]; simp only [State.currPoint, List.contains_iff_mem]
    have e5 : (s.chosen q.val (busy.getD q.val 0)).2 = v5 := by
      simp only [State.chosen, e1, e2, e3, e4, State.droopPoint, State.drooped, decide_eq_true_eq]
      rw [h5, hu]
    have ha := hr.acts
    rw [e1, e2] at ha
    refine completes.next ?_ e
    refine ⟨?_, ?_, by rw [State.pwr_setPwr], by rw [State.pwr_setPwr], ?_, ?_, ?_, ?_, ?_⟩
    · rw [State.fld_setPwr, hr.loop, e1]
    · exact (State.oppTarget_congr (by rw [State.pwr_setPwr]) State.fld_setPwr).trans (hr.target.trans e5)
    · rw [State.fld_setPwr, ha 3]
      simp
    · rw [State.fld_setPwr, ha 0]
      simp
    · rw [State.fld_setPwr, ha 1]
      simp
    · rw [State.fld_setPwr, ha 2]
      simp [State.drooped]
    · refine .setPwr ?_
      rw [hw]
      refine .each .refl fun u k hk hu => State.changes_trans hu (State.changes_mono State.chooseOpp_changes (by simp) ?_ (by simp [stageCounts]))
      intro x hx
      simp only [chosenPlaces, limiterPlaces, List.mem_append, List.mem_singleton] at hx
      rw [List.mem_append, List.mem_flatMap]
      rcases hx with (hx | rfl) | rfl
      · exact .inl hx
      · exact .inr ⟨k, hk, by simp⟩
      · exact .inr ⟨k, hk, by simp⟩
  · have hcur : cur < 8 := by rw [hc]; exact s.fld_lt .pwr Reg.PWR_OPP_CUR q.val
    have htop := s.topOpp_lt
    have hn8 : next < 8 := by rw [hn]; split <;> omega
    rw [hc] at hn
    refine completes.next ?_ (exec_oppTransitionDone hm hn)
    obtain ⟨k1, k2, k3, k4⟩ := State.oppStepped_spec (s := s) (q := q) hn8
    have hmv := State.moveOpp_changes (s := s.oppStepped q next) (q := q.val) (n := target)
    refine ⟨?_, State.oppTarget_moveOpp, ?_, ?_, State.changes_trans (State.changes_mono k4 (by simp) (fun _ h => h) fun _ h => h)
      (State.changes_mono hmv (fun _ h => h) (by simp) (by simp))⟩
    · rw [hmv.fld (by simp), k1]
    · rw [State.counted, hmv.counter (by simp), k2]
    · rw [State.out_moveOpp, k1, k3, hc, show Fin.ofNat 4 q.val = q from Fin.ext (Nat.mod_eq_of_lt q.isLt)]
  · refine completes.next ?_ (exec_thermalLimit hl)
    obtain ⟨k1, k2, k3⟩ := State.hotSet_shows (s := s) (q := q) (temp := temp) (lim := lim) (sensor := sensor)
    have hch := State.hotSet_changes (s := s) (q := q) (temp := temp) (lim := lim) (sensor := sensor)
    have hcur : (s.hotSet q temp sensor lim).fld .pwr Reg.PWR_OPP_CUR q.val = s.fld .pwr Reg.PWR_OPP_CUR q.val := by
      refine hch.fld fun x hx => ?_
      simp only [tempPlaces, List.mem_cons, List.not_mem_nil, or_false] at hx
      have hq := q.isLt
      rcases hx with rfl | rfl <;>
      · simp only [Place.apart, Fld.place, Fld.addr, Reg.PWR_OPP_CUR, Reg.PWR_TEMP_MAX, Reg.PWR_TEMP_SENSOR]
        omega
    have htg : (s.hotSet q temp sensor lim).oppTarget q.val = s.oppTarget q.val := State.oppTarget_congr (by rw [k3]) hcur
    obtain ⟨m1, m2⟩ := mem_hotAfter (hot := s.pwr.thermHot) (q := q.val) (temp := temp) (lim := lim)
    split
    next hd =>
      have hst := State.stepDown_changes (s := s.hotSet q temp sensor lim) (q := q.val) (k := 0)
      obtain ⟨l, hp⟩ := State.pwr_stepDown (s := s.hotSet q temp sensor lim) (q := q.val) (k := 0)
      have ha : ∀ x ∈ limiterPlaces q.val, ∀ f ∈ [Reg.PWR_TEMP_MAX, Reg.PWR_TEMP_SENSOR], Place.apart x (f.place .pwr) := by
        intro x hx f hf
        have hq := q.isLt
        simp only [limiterPlaces, irqPlaces, List.mem_append, List.mem_singleton] at hx
        simp only [List.mem_cons, List.not_mem_nil, or_false] at hf
        rcases hx with rfl | rfl <;> rcases hf with rfl | rfl <;>
        · simp only [Place.apart, Fld.place, Fld.addr, Reg.PWR_OPP_LIMITER, Reg.PWR_TEMP_MAX, Reg.PWR_TEMP_SENSOR, Reg.PG_IRQ_STAT]
          omega
      refine ⟨?_, ?_, by rw [hp, k3]; exact m1, by rw [hp, k3]; exact m2, ?_, fun _ _ => State.bit_stepDown (by decide), ?_, ?_⟩
      · rw [hst.fld fun x hx => ha x hx _ (by simp), k1]
      · rw [hst.fld fun x hx => ha x hx _ (by simp), k2]
      · rw [State.oppTarget_stepDown, htg, hcur]
      · have hcn := State.counted_stepDown (s := s.hotSet q temp sensor lim) (q := q.val) (k := 0) (by decide)
        rw [State.counted] at hcn ⊢
        refine hcn.trans ?_
        rw [hch.counter (by simp), htg]
        by_cases h0 : s.oppTarget q.val = 0
        · simp [h0]
        · simp [h0, hd]
      · exact State.changes_trans (State.changes_mono hch (by simp) (by simp [tempPlaces]) (by simp))
          (State.changes_mono hst (fun _ h => h) (by simp +contextual [limiterPlaces, or_imp]) (by simp [irqCounts]))
    next hd =>
      refine ⟨k1, k2, by rw [k3]; exact m1, by rw [k3]; exact m2, ?_, fun h1 h2 => absurd ⟨h1, h2⟩ hd, ?_,
        State.changes_mono hch (by simp) (by simp [tempPlaces]) (by simp)⟩
      · exact htg
      · rw [State.counted, hch.counter (by simp), if_neg fun h => hd ⟨h.1, h.2.1⟩, State.counter_eq]
        simp
  · refine completes.next ?_ (exec_droopDetect.trans (congrArg _ (if_neg (by omega))))
    refine ⟨by rw [State.stretched, State.pwr_count, State.pwr_setPwr], ?_, State.stretched_changes⟩
    exact State.changes.counted (cs := [.pwr]) (fs := []) (ns := []) (ds := []) (gs := []) (ms := []) (.setPwr .refl) .refl
  · refine completes.next ?_ (exec_droopDetect.trans (congrArg _ (if_pos (by omega))))
    obtain ⟨l, hp⟩ := State.pwr_stepDown (s := s.stretched q.val (Map.get 0 s.pwr.stretches q.val + 1)) (q := q.val) (k := 2)
    have hst := State.stepDown_changes (s := s.stretched q.val (Map.get 0 s.pwr.stretches q.val + 1)) (q := q.val) (k := 2)
    refine ⟨?_, ?_, ?_, State.bit_stepDown (by decide), ?_⟩
    · rw [hp, State.stretched, State.pwr_count, State.pwr_setPwr, Map.get_set_same, h]
    · exact State.changes.counted (cs := [.pwr]) (fs := []) (ns := []) (.setPwr .refl) hst (by simp) (by decide)
    · rw [State.oppTarget_stepDown, State.oppTarget_stretched, State.stretched_changes.fld (by simp)]
    · exact State.changes_trans (State.changes_mono State.stretched_changes (by simp) (by simp) (by simp))
        (State.changes_mono hst (fun _ h => h) (by simp [limiterPlaces]) (by simp [irqCounts]))
  · refine completes.next ?_ (exec_railRead h1 h2)
    obtain ⟨k1, k2, k3⟩ := State.railRead_shows (s := s) (k := rail.val) (mv := mv) (da := da)
    have hch := State.railRead_changes (s := s) (k := rail.val) (mv := mv) (da := da)
    split
    next hd =>
      have hst := State.stepDown_changes (s := (s.railRead rail.val mv da).railOver rail.val) (q := rail.val - 1) (k := 1)
      obtain ⟨l, hp⟩ := State.pwr_stepDown (s := (s.railRead rail.val mv da).railOver rail.val) (q := rail.val - 1) (k := 1)
      have ha {f : Fld} (hi : Reg.PG_IRQ_STAT.below f = true) (hf : Place.apart (Reg.PWR_OPP_LIMITER.place .pwr (rail.val - 1)) (f.place .pwr rail.val)) :
          ∀ x ∈ limiterPlaces (rail.val - 1), Place.apart x (f.place .pwr rail.val) := by
        intro x hx
        rcases List.mem_append.1 hx with hx | hx
        · exact apart_irq_row hi x hx
        · rw [List.mem_singleton] at hx
          subst hx
          exact hf
      have hl4 := hd.1
      refine ⟨?_, ?_, by rw [hp, State.pwr_railOver]; exact k3, fun q => ?_, ?_⟩
      · rw [hst.fld (ha (by decide) ?_), State.fld_railOver, k1]
        simp only [Place.apart, Fld.place, Fld.addr, Reg.PWR_OPP_LIMITER, Reg.RAIL_MV_MV]
        omega
      · rw [hst.fld (ha (by decide) ?_), State.fld_railOver, k2]
        simp only [Place.apart, Fld.place, Fld.addr, Reg.PWR_OPP_LIMITER, Reg.RAIL_MV_DECIAMPS]
        omega
      · have ho : ((s.railRead rail.val mv da).railOver rail.val).oppTarget q.val = s.oppTarget q.val :=
          (State.oppTarget_congr (by rw [State.pwr_railOver]) State.fld_railOver).trans (State.oppTarget_railRead q.isLt).1
        by_cases hq : q.val = rail.val - 1
        · rw [if_pos ⟨by omega, hd.2⟩, ← hq, State.oppTarget_stepDown, ho, State.fld_railOver, (State.oppTarget_railRead q.isLt).2]
        · rw [if_neg fun h => hq (by omega), State.oppTarget_stepDown_other hq, ho]
      · rw [if_pos hl4]
        exact State.changes_trans (.setPwr (State.changes_mono hch (by simp) (by simp [railPlaces]) (by simp)))
          (State.changes_mono hst (fun _ h => h) (by simp +contextual [limiterPlaces, or_imp]) (by simp [irqCounts]))
    next hd =>
      refine ⟨k1, k2, k3, fun q => ?_, State.changes_mono hch (by simp) (by simp [railPlaces]) (by simp)⟩
      have hq := q.isLt
      rw [if_neg fun h => hd ⟨by omega, h.2⟩]
      exact (State.oppTarget_railRead hq).1
  · refine completes.next ?_ ((exec_railSilent h1 h2).trans (congrArg _ (if_neg (by omega))))
    exact ⟨State.pwr_setPwr, .setPwr .refl⟩
  · refine completes.next ?_ ((exec_railSilent h1 h2).trans (congrArg _ (if_pos (by omega))))
    have hpow := State.samePower_record (s := s.railSilent rail.val 0) (pg := .pwr) (a := { severity := 2, rail := some rail.val }) (by simp)
    have hrec := State.record_recorded (s := s.railSilent rail.val 0) (pg := .pwr) (a := { severity := 2, rail := some rail.val }) (by simp)
    have hch : s.changes (s.railSilent rail.val 0) [.pwr] [] [] := .setPwr .refl
    refine ⟨?_, ?_, ?_⟩
    · rw [hpow.railMiss, State.railSilent, State.pwr_setPwr, Map.get_set_same]
    · obtain ⟨r1, r2⟩ := hrec
      rw [hch.fld (by simp)] at r1 r2
      refine ⟨r1.trans (congrArg some (State.errorRecord_congr rfl rfl fun i => hch.fld (by simp))), r2⟩
    · exact ((hch.onPages (by simp) (by simp)).mono (by simp [recordComps]) fun _ h => h).trans State.record_changesOn
  · refine completes.next ?_ (exec_powerManagerTick hs)
    refine ⟨?_, .each .refl fun u k hk hu => .setFld hu (List.mem_map_of_mem hk)⟩
    rw [State.each_rate allParts_nodup (List.mem_finRange _) (fun _ _ => rfl), State.rateOf, ← hv]

end Sys2Proof.Machine
end

section
/-! PROOFS. Units in power-down modes, and the loss of a link (R170, R337). -/

namespace Sys2Proof.Machine
open Sys2Proof

section
variable {s t u : State} {x y : LpUnit} {n : PortId} {e : EngId}

/-! ## Ports and engines -/

theorem State.port_congr (h : t.ports = s.ports) : t.port n = s.port n := by rw [State.port, State.port, h]
theorem State.eng_congr (h : t.engines = s.engines) : t.eng e = s.eng e := by rw [State.eng, State.eng, h]
@[simp] theorem State.port_setPort_same {x : Port} : (s.setPort n x).port n = x := by rw [State.port, State.setPort, Map.get_set_same]
@[simp] theorem State.fld_setPort {x : Port} {pg : Page} {f : Fld} {i : Nat} : (s.setPort n x).fld pg f i = s.fld pg f i :=
  State.fld_congr (State.regs_setPort ..) (State.fuses_setPort ..) ..
@[simp] theorem State.counter_setPort {x : Port} {pg : Page} {o : Nat} : (s.setPort n x).counter pg o = s.counter pg o := rfl

/-! ## One element of a list after a pass over it -/

/-- What the visit of one element brings about, the visits of the others leave. -/
theorem State.each_at {α : Type} {l : List α} (hl : l.Nodup) {f : State → α → State} {a : α} (ha : a ∈ l) {I Q : State → Prop}
    (h0 : I s) (hi : ∀ t b, b ≠ a → I t → I (f t b)) (hq : ∀ t, I t → Q (f t a)) (hs : ∀ t b, b ≠ a → Q t → Q (f t b)) :
    Q (s.each l f) := by
  induction l generalizing s with
  | nil => exact absurd ha List.not_mem_nil
  | cons b l ih =>
    obtain ⟨hb, hl'⟩ := List.nodup_cons.1 hl
    by_cases h : b = a
    · subst h
      refine State.each_keeps_prop (s := f s b) (hq s h0) fun t c hc ht => hs t c ?_ ht
      rintro rfl
      exact hb hc
    · exact ih hl' ((List.mem_cons.1 ha).resolve_left (Ne.symm h)) (hi s b h h0)

/-! ## A unit wakes -/

theorem State.wakeUnit_changes : s.changes (s.wakeUnit x) [.pwr] [] [(.pwr, 0xB0)] :=
  .ite (.count (.setPwr .refl)) .refl

theorem State.pwr_wakeUnit (h : x ∈ s.pwr.inMode) : (s.wakeUnit x).pwr =
    { s.pwr with inMode := s.pwr.inMode.filter (· ≠ x), waking := x :: s.pwr.waking.filter (· ≠ x) } := by
  rw [State.wakeUnit, if_pos h, State.pwr_count]

theorem State.mem_inMode_wakeUnit : y ∈ (s.wakeUnit x).pwr.inMode ↔ y ∈ s.pwr.inMode ∧ y ≠ x := by
  by_cases h : x ∈ s.pwr.inMode
  · rw [State.pwr_wakeUnit h, List.mem_filter, decide_eq_true_eq]
  · rw [State.wakeUnit, if_neg h]
    exact ⟨fun hy => ⟨hy, fun e => h (e ▸ hy)⟩, fun hy => hy.1⟩

theorem State.mem_waking_wakeUnit : y ∈ (s.wakeUnit x).pwr.waking ↔ y ∈ s.pwr.waking ∨ y = x ∧ y ∈ s.pwr.inMode := by
  by_cases h : x ∈ s.pwr.inMode
  · rw [State.pwr_wakeUnit h, List.mem_cons, List.mem_filter, decide_eq_true_eq]
    by_cases e : y = x
    · simp [e, h]
    · simp [e]
  · rw [State.wakeUnit, if_neg h]
    exact ⟨.inl, fun hy => hy.resolve_right fun k => h (k.1 ▸ k.2)⟩

theorem State.counted_wakeUnit (h : x ∈ s.pwr.inMode) : s.counted (s.wakeUnit x) .pwr 0xB0 := by
  rw [State.wakeUnit, if_pos h, State.counted, State.counter_count_same]
  rfl

/-- The named units whose bits are clear have woken. -/
structure State.woken (s t : State) (l : List LpUnit) (on : LpUnit → Bool) : Prop where
  frame : s.changes t [.pwr] [] [(.pwr, 0xB0)]
  inMode : ∀ y, y ∈ t.pwr.inMode ↔ y ∈ s.pwr.inMode ∧ (y ∈ l → on y = true)
  waking : ∀ y, y ∈ t.pwr.waking ↔ y ∈ s.pwr.waking ∨ y ∈ l ∧ on y = false ∧ y ∈ s.pwr.inMode

theorem State.lpSet_congr (h : t.fld .pwr (lpBit x).1 = s.fld .pwr (lpBit x).1) : t.lpSet x = s.lpSet x := by
  rw [State.lpSet, State.lpSet, h]

theorem State.each_wake_woken {on : LpUnit → Bool} {l : List LpUnit} (hon : ∀ y ∈ l, s.lpSet y = on y) :
    s.woken (s.each l fun t x => if t.lpSet x then t else t.wakeUnit x) l on := by
  induction l generalizing s with
  | nil => exact ⟨.refl, fun y => by simp [State.each], fun y => by simp [State.each]⟩
  | cons x l ih =>
    obtain ⟨u, hu⟩ : ∃ u, u = if s.lpSet x then s else s.wakeUnit x := ⟨_, rfl⟩
    have hc : s.changes u [.pwr] [] [(.pwr, 0xB0)] := by
      rw [hu]
      exact .ite .refl State.wakeUnit_changes
    have hx := hon x List.mem_cons_self
    have h := ih (s := u) fun y hy => (State.lpSet_congr (hc.fld (by simp))).trans (hon y (List.mem_cons_of_mem _ hy))
    rw [show (s.each (x :: l) fun t x => if t.lpSet x then t else t.wakeUnit x) = u.each l fun t x => if t.lpSet x then t else t.wakeUnit x by
      rw [hu]; rfl]
    refine ⟨State.changes_trans hc h.frame, fun y => ?_, fun y => ?_⟩
    · rw [h.inMode, hu]
      cases hb : on x
      · rw [if_neg (by rw [hx, hb]; simp), State.mem_inMode_wakeUnit, List.mem_cons]
        constructor
        · rintro ⟨⟨h1, h2⟩, h3⟩
          exact ⟨h1, fun hy => h3 (hy.resolve_left h2)⟩
        · rintro ⟨h1, h2⟩
          refine ⟨⟨h1, ?_⟩, fun hy => h2 (.inr hy)⟩
          rintro rfl
          rw [h2 (.inl rfl)] at hb
          cases hb
      · rw [if_pos (by rw [hx, hb]), List.mem_cons]
        refine and_congr_right fun _ => ⟨fun h3 hy => ?_, fun h3 hy => h3 (.inr hy)⟩
        rcases hy with rfl | hy
        · exact hb
        · exact h3 hy
    · rw [h.waking, hu]
      cases hb : on x
      · rw [if_neg (by rw [hx, hb]; simp), State.mem_inMode_wakeUnit, State.mem_waking_wakeUnit, List.mem_cons]
        by_cases e : y = x
        · subst e
          simp [hb]
        · simp [e]
      · rw [if_pos (by rw [hx, hb]), List.mem_cons]
        by_cases e : y = x
        · subst e
          simp [hb]
        · simp [e]

/-! ## A link is lost -/

/-- A port whose link layer starts again. -/
def Port.lost (x : Port) : Port :=
  let queues := x.queues.map fun (e : Nat × List (List Byte)) => (e.1, if x.mid.contains e.1 then e.2.drop 1 else e.2)
  { x with
    seqNext := 0, exp := 0, held := [], replays := 0, awaitingExp := false, rxUnacked := 0, credits := [], creditsBack := []
    queues := queues.filter fun (e : Nat × List (List Byte)) => !e.2.isEmpty
    mid := [] }

/-- The loss of a port's link, counted and told. -/
def State.lossTold (s : State) (n : PortId) : State :=
  (((s.setFld (.port n) Reg.PORT_STAT_LINK_UP 0).setFld (.port n) Reg.PORT_STAT_LANES_UP 0).count (.port n) 0xB8).irq (.port n) 0

/-- An engine that had sent on the plane has PATH_LOST. -/
def State.pathLost (n : PortId) (s : State) (e : EngId) : State :=
  if bit (s.eng e).sentPlanes n.val then (s.setFld (.feng e) Reg.FENG_STAT_PATH_LOST 1).irq (.feng e) 0 else s

def lossPlaces (n : PortId) : List Place := [Reg.PORT_STAT_LINK_UP.place (.port n), Reg.PORT_STAT_LANES_UP.place (.port n)] ++ irqPlaces (.port n)
def engLossPlaces (e : EngId) : List Place := Reg.FENG_STAT_PATH_LOST.place (.feng e) :: irqPlaces (.feng e)
def linkLossPlaces (n : PortId) : List Place := lossPlaces n ++ allEngs.flatMap engLossPlaces
def linkLossCounts (n : PortId) : List (Page × Nat) := (Page.port n, 0xB8) :: irqCounts (Page.port n) ++ allEngs.flatMap fun e => irqCounts (Page.feng e)

theorem State.lossTold_changes : s.changes (s.lossTold n) [.out, .pcie] (lossPlaces n) ((Page.port n, 0xB8) :: irqCounts (Page.port n)) :=
  .irq (.count (.setFld (.setFld .refl (by simp [lossPlaces])) (by simp [lossPlaces]))) (by simp) (by simp [lossPlaces, irqPlaces])
    (by simp [irqCounts])

theorem State.pathLost_changes : s.changes (s.pathLost n e) [.out, .pcie] (engLossPlaces e) (irqCounts (.feng e)) :=
  .ite (.irq (.setFld .refl (by simp [engLossPlaces])) (by simp) (by simp [engLossPlaces, irqPlaces])) .refl

theorem State.linkLost_eq (h : s.flag (.port n) Reg.PORT_STAT_LINK_UP = true) :
    s.linkLost n = ((s.lossTold n).setPort n (s.port n).lost).each allEngs (State.pathLost n) := by
  have hp : (s.lossTold n).port n = s.port n := State.port_congr (State.lossTold_changes.1 .ports (by simp))
  rw [← hp]
  exact if_neg (by simp [h])

theorem State.linkLost_of_down (h : s.flag (.port n) Reg.PORT_STAT_LINK_UP = false) : s.linkLost n = s := if_pos (by simp [h])

theorem State.each_pathLost_changes {l : List EngId} (hl : ∀ e ∈ l, e ∈ allEngs) : s.changes (s.each l (State.pathLost n)) [.out, .pcie]
    (allEngs.flatMap engLossPlaces) (allEngs.flatMap fun e => irqCounts (Page.feng e)) :=
  .each .refl fun _ e he hu => State.changes_trans hu (State.changes_mono State.pathLost_changes (fun _ h => h)
    (fun _ h => List.mem_flatMap.2 ⟨e, hl e he, h⟩) fun _ h => List.mem_flatMap.2 ⟨e, hl e he, h⟩)

theorem apart_engLoss {pg : Page} {g : Fld} {j : Nat} (hp : pg ≠ .feng e) (hg : g.fits j = true) : ∀ x ∈ engLossPlaces e, Place.apart x (g.place pg j) := by
  intro x hx
  simp only [engLossPlaces, irqPlaces, List.mem_cons, List.not_mem_nil, or_false] at hx
  rcases hx with rfl | rfl
  · exact Place.apart_of_ne (Ne.symm hp) (by decide) hg
  · exact Place.apart_of_ne (Ne.symm hp) (by decide) hg

theorem apart_engLosses {pg : Page} {g : Fld} {j : Nat} (hp : ∀ e, pg ≠ .feng e) (hg : g.fits j = true) :
    ∀ x ∈ allEngs.flatMap engLossPlaces, Place.apart x (g.place pg j) := by
  intro x hx
  obtain ⟨e, -, he⟩ := List.mem_flatMap.1 hx
  exact apart_engLoss (hp e) hg x he

/-- What a lost link changes. -/
theorem State.linkLost_changes : s.changes (s.linkLost n) [.ports, .out, .pcie] (linkLossPlaces n) (linkLossCounts n) := by
  cases h : s.flag (.port n) Reg.PORT_STAT_LINK_UP
  · rw [State.linkLost_of_down h]
    exact .refl
  · rw [State.linkLost_eq h]
    refine State.changes_trans (.setPort (State.changes_mono State.lossTold_changes (by simp) ?_ ?_))
      (State.changes_mono (State.each_pathLost_changes fun _ h => h) (by simp) ?_ ?_)
    · exact fun _ h => List.mem_append_left _ h
    · exact fun _ h => List.mem_append_left _ h
    · exact fun _ h => List.mem_append_right _ h
    · exact fun _ h => List.mem_append_right _ h

/-- A link that was up is down, its loss counted and told, and its port starts again. -/
structure State.linkDown (s t : State) (n : PortId) : Prop where
  up : t.fld (.port n) Reg.PORT_STAT_LINK_UP = 0
  lanes : t.fld (.port n) Reg.PORT_STAT_LANES_UP = 0
  count : s.counted t (.port n) 0xB8
  raised : s.raised t (.port n) 0
  port : t.port n = (s.port n).lost
  others : othersSame {} s.ports t.ports [n.val]
  paths : ∀ e : EngId, bit (s.eng e).sentPlanes n.val = true → t.fld (.feng e) Reg.FENG_STAT_PATH_LOST = 1 ∧ s.raised t (.feng e) 0

theorem State.lossTold_up : (s.lossTold n).fld (.port n) Reg.PORT_STAT_LINK_UP = 0 ∧ (s.lossTold n).fld (.port n) Reg.PORT_STAT_LANES_UP = 0 := by
  constructor <;> simp +decide [State.lossTold, State.fld_eq]

theorem State.each_pathLost (hb : bit (s.eng e).sentPlanes n.val = true) :
    (s.each allEngs (State.pathLost n)).fld (.feng e) Reg.FENG_STAT_PATH_LOST = 1 ∧ s.raised (s.each allEngs (State.pathLost n)) (.feng e) 0 := by
  refine State.each_at (List.nodup_finRange _) (List.mem_finRange e)
    (I := fun t => t.eng e = s.eng e ∧ t.word (Page.base (.feng e) + 0x10) = s.word (Page.base (.feng e) + 0x10))
    (Q := fun t => t.fld (.feng e) Reg.FENG_STAT_PATH_LOST = 1 ∧ s.raised t (.feng e) 0) ⟨rfl, rfl⟩ (fun t d hd ht => ?_) (fun t ht => ?_) fun t d hd ht => ?_
  · obtain ⟨h1, h2⟩ := ht
    have hc := State.pathLost_changes (s := t) (n := n) (e := d)
    refine ⟨(State.eng_congr (hc.1 .engines (by simp))).trans h1, (hc.irqStat (apart_engLoss ?_ (by decide))).trans h2⟩
    simpa using Ne.symm hd
  · obtain ⟨h1, h2⟩ := ht
    have hf : t.changes (t.setFld (.feng e) Reg.FENG_STAT_PATH_LOST 1) [] [Reg.FENG_STAT_PATH_LOST.place (.feng e)] [] := .setFld .refl
    rw [State.pathLost, h1, if_pos hb]
    refine ⟨?_, (hf.raised (by simp +decide [Place.apart_of])).trans (congrArg (· ||| _) h2)⟩
    simp +decide [State.fld_eq]
  · obtain ⟨h1, h2⟩ := ht
    have hne : Page.feng e ≠ Page.feng d := by simpa using Ne.symm hd
    have hc := State.pathLost_changes (s := t) (n := n) (e := d)
    exact ⟨(hc.fld (apart_engLoss hne (by decide))).trans h1, (hc.irqStat (apart_engLoss hne (by decide))).trans h2⟩

theorem State.linkLost_down (h : s.flag (.port n) Reg.PORT_STAT_LINK_UP = true) : s.linkDown (s.linkLost n) n := by
  obtain ⟨u, hu⟩ : ∃ u, u = (s.lossTold n).setPort n (s.port n).lost := ⟨_, rfl⟩
  have hsu : s.changes u [.ports, .out, .pcie] (lossPlaces n) ((Page.port n, 0xB8) :: irqCounts (Page.port n)) := by
    rw [hu]
    exact .setPort (State.changes_mono State.lossTold_changes (by simp) (fun _ h => h) fun _ h => h)
  have hut := State.each_pathLost_changes (s := u) (n := n) (l := allEngs) fun _ h => h
  have hne : ∀ e, Page.port n ≠ Page.feng e := by simp
  have hp (e : EngId) : ∀ x ∈ lossPlaces n, Place.apart x (Reg.PG_IRQ_STAT.place (.feng e)) := by
    simp +decide [lossPlaces, irqPlaces, Place.apart_of_ne]
  obtain ⟨h1, h2⟩ := State.lossTold_up (s := s) (n := n)
  rw [State.linkLost_eq h, ← hu]
  refine ⟨?_, ?_, ?_, ?_, ?_, ?_, fun e he => ?_⟩
  · rw [hut.fld (apart_engLosses hne (by decide)), hu, State.fld_setPort, h1]
  · rw [hut.fld (apart_engLosses hne (by decide)), hu, State.fld_setPort, h2]
  · refine State.changes.counted (u := (s.setFld (.port n) Reg.PORT_STAT_LINK_UP 0).setFld (.port n) Reg.PORT_STAT_LANES_UP 0) (cs := [])
      (fs := lossPlaces n) (ns := []) (ds := [.ports, .out, .pcie]) (gs := irqPlaces (.port n) ++ allEngs.flatMap engLossPlaces)
      (ms := irqCounts (.port n) ++ allEngs.flatMap fun e => irqCounts (Page.feng e))
      (.setFld (.setFld .refl (by simp [lossPlaces])) (by simp [lossPlaces])) ?_ (by simp) ?_
    · refine State.changes_trans ?_ (State.changes_mono hut (by simp) (fun _ h => List.mem_append_right _ h) fun _ h => List.mem_append_right _ h)
      rw [hu]
      exact .setPort (.irq .refl (by simp) (by simp [irqPlaces]) (by simp [irqCounts]))
    · simp only [irqCounts, List.mem_append, List.mem_flatMap, List.mem_cons, List.not_mem_nil, or_false]
      rintro x ((rfl | rfl) | ⟨e, -, rfl | rfl⟩)
      · simp
      · exact Page.add_ne (by simp) (by decide) (by decide)
      · exact Page.add_ne (by simp) (by decide) (by simp)
      · exact Page.add_ne (by simp) (by decide) (by decide)
  · have hf : s.changes (((s.setFld (.port n) Reg.PORT_STAT_LINK_UP 0).setFld (.port n) Reg.PORT_STAT_LANES_UP 0).count (.port n) 0xB8) []
        [Reg.PORT_STAT_LINK_UP.place (.port n), Reg.PORT_STAT_LANES_UP.place (.port n)] [(.port n, 0xB8)] := .count (.setFld (.setFld .refl))
    refine (hut.irqStat (apart_engLosses hne (by decide))).trans ?_
    rw [hu]
    exact hf.raised (by simp +decide [Place.apart_of])
  · refine (State.port_congr (hut.1 .ports (by simp))).trans ?_
    rw [hu]
    exact State.port_setPort_same
  · have hps : u.ports = Map.set {} s.ports n.val (s.port n).lost := by
      rw [hu, State.setPort]
      exact congrArg (Map.set {} · n.val _) (State.lossTold_changes.1 .ports (by simp))
    rw [hut.1 .ports (by simp), hps]
    simp
  · have he' : bit (u.eng e).sentPlanes n.val = true := by
      rw [show u.eng e = s.eng e from State.eng_congr (hsu.1 .engines (by simp))]
      exact he
    obtain ⟨k1, k2⟩ := State.each_pathLost he'
    exact ⟨k1, k2.trans (congrArg (· ||| _) (hsu.irqStat (hp e)))⟩

end

end Sys2Proof.Machine
end

section
/-! PROOFS. O5: power-down modes of units (R337, R338, Table 15-3). -/

namespace Sys2Proof.Machine
open Sys2Proof

section
variable {s t u : State} {f : Fld} {l : List LpUnit} {v : Nat} {x : TileId} {p : PartId}

/-! ## A mask takes a value -/

/-- The units of a mask after it takes a value. -/
structure State.masked (s t : State) (f : Fld) (l : List LpUnit) (v : Nat) : Prop where
  frame : s.changes t [.pwr] [f.place .pwr] [(.pwr, 0xB0)]
  fld : t.fld .pwr f = v % 2 ^ f.width
  inMode : ∀ y, y ∈ t.pwr.inMode ↔ y ∈ s.pwr.inMode ∧ (y ∈ l → bit v (lpBit y).2 = true)
  waking : ∀ y, y ∈ t.pwr.waking ↔ y ∈ s.pwr.waking ∨ y ∈ l ∧ bit v (lpBit y).2 = false ∧ y ∈ s.pwr.inMode

theorem State.lpMask_masked (hl : ∀ y ∈ l, (lpBit y).1 = f ∧ (lpBit y).2 < f.width) : s.masked (s.lpMask f l v) f l v := by
  have hf : (s.setFld .pwr f v).fld .pwr f = v % 2 ^ f.width := State.fld_setFld_same ..
  have hp : (s.setFld .pwr f v).pwr = s.pwr := State.pwr_setFld ..
  have h := State.each_wake_woken (s := s.setFld .pwr f v) (l := l) (on := fun y => bit v (lpBit y).2) fun y hy => by
    obtain ⟨h1, h2⟩ := hl y hy
    rw [State.lpSet, h1, hf, bit_eq_testBit, bit_eq_testBit, Nat.testBit_mod_two_pow]
    simp [h2]
  obtain ⟨h1, h2, h3⟩ := h
  rw [hp] at h2 h3
  exact ⟨State.changes_trans (.setFld .refl) (State.changes_mono h1 (fun _ h => h) (by simp) fun _ h => h), (h1.fld (by simp)).trans hf, h2, h3⟩

theorem exec_powerDownMaskWrite {w : Word} (h : s.ready .pwr = true) :
    exec (.powerDownMaskWrite 0 w) s = .next (s.lpMask Reg.PWR_PORT_LP_MASK (allPorts.map .portLp) w.toNat) ∧
    exec (.powerDownMaskWrite 1 w) s = .next (s.lpMask Reg.PWR_PORT_OFF_MASK (allPorts.map .portOff) w.toNat) ∧
    exec (.powerDownMaskWrite 2 w) s = .next (s.lpMask Reg.PWR_SHL_RET_MASK (allParts.map .slice) w.toNat) ∧
    exec (.powerDownMaskWrite 3 w) s = .next ((s.lpMask Reg.PWR_MEM_SR_BAS ((List.finRange 8).map .stack) (bits w.toNat 0 8)).lpMask
      Reg.PWR_MEM_SR_DEEP ((List.finRange 16).map .channel) (bits w.toNat 8 16)) := by
  refine ⟨?_, ?_, ?_, ?_⟩ <;> exact congrArg Host.Outcome.next (State.ifReady_pos h _)

/-- What holds of the units of a mask: in the mode with the bit set alone, and waking once it is clear. -/
theorem State.masked.unit (h : s.masked t f l v) {y : LpUnit} (hy : y ∈ l) : (y ∈ t.pwr.inMode ↔ y ∈ s.pwr.inMode ∧ bit v (lpBit y).2 = true) ∧
    (y ∈ t.pwr.waking ↔ y ∈ s.pwr.waking ∨ y ∈ s.pwr.inMode ∧ bit v (lpBit y).2 = false) :=
  ⟨(h.inMode y).trans (and_congr_right fun _ => ⟨fun k => k hy, fun k _ => k⟩),
    (h.waking y).trans (or_congr_right ⟨fun k => ⟨k.2.2, k.2.1⟩, fun k => ⟨hy, k.2, k.1⟩⟩)⟩

theorem bit_bits (v lo w k : Nat) : bit (bits v lo w) k = (decide (k < w) && bit v (lo + k)) := by
  rw [bit_eq_testBit, bit_eq_testBit, bits, Nat.testBit_mod_two_pow, Nat.testBit_div_two_pow, Nat.add_comm]

/-! ## PWR_TILE_GATE_WRITE -/

/-- The bits of named partitions cleared. -/
theorem bit_clearBits {l : List PartId} {j : Nat} :
    bit (l.foldl (fun a p => withBits a p.val 1 0) v) j = (bit v j && !(l.any fun p => p.val == j)) := by
  induction l generalizing v with
  | nil => simp
  | cons p l ih =>
    rw [List.foldl_cons, ih, List.any_cons, show (0 : Nat) = false.toNat from rfl, bit_withBits]
    by_cases h : j = p.val
    · simp [h]
    · rw [if_neg h, beq_eq_false_iff_ne.2 (Ne.symm h), Bool.false_or]

/-- The value a write of PWR_TILE_GATE leaves, with the refused partitions' bits clear. -/
def gateValue (w : Word) (no : PartId → Bool) : Nat := (allParts.filter no).foldl (fun a p => withBits a p.val 1 0) w.toNat

theorem bit_gateValue {w : Word} {no : PartId → Bool} : bit (gateValue w no) p.val = (bit w.toNat p.val && !no p) := by
  rw [gateValue, bit_clearBits]
  congr 2
  rw [List.any_filter, Bool.eq_iff_iff, List.any_eq_true]
  constructor
  · rintro ⟨q, -, hq⟩
    rw [Bool.and_eq_true, beq_iff_eq, Fin.val_inj] at hq
    rw [← hq.2]
    exact hq.1
  · exact fun h => ⟨p, List.mem_finRange p, by simp [h]⟩

theorem exec_pwrTileGateWrite {w : Word} {no : PartId → Bool} (h : s.ready .pwr = true)
    (hno : ∀ p, no p = (bit w.toNat p.val && !bit (s.fld .pwr Reg.PWR_TILE_GATE_MASK) p.val && !(s.stableRole p 0 || s.stableRole p 3))) :
    exec (.pwrTileGateWrite w) s = .next (if allParts.any no then
        (s.lpMask Reg.PWR_TILE_GATE_MASK (allParts.map .tileGate) (gateValue w no)).err .pwr 0x01
      else s.lpMask Reg.PWR_TILE_GATE_MASK (allParts.map .tileGate) (gateValue w no)) := by
  refine congrArg Host.Outcome.next ((State.ifReady_pos h _).trans ?_)
  have e : (fun p : PartId => bit w.toNat p.val && !bit (s.fld .pwr Reg.PWR_TILE_GATE_MASK) p.val && !(s.stableRole p 0 || s.stableRole p 3)) = no :=
    funext fun p => (hno p).symm
  simp only [e]
  by_cases ha : allParts.any no = true
  · have : (allParts.filter no).isEmpty = false := by
      rw [List.isEmpty_eq_false_iff, ne_eq, List.filter_eq_nil_iff]
      simpa using ha
    rw [if_pos ha, this]
    rfl
  · have : (allParts.filter no).isEmpty = true := by
      rw [List.isEmpty_iff, List.filter_eq_nil_iff]
      simpa using ha
    rw [if_neg ha, this]
    rfl

/-! ## LP_IDLE_ENTER -/

/-- A unit enters its mode. -/
def State.asleep (s : State) (y : LpUnit) : State := s.setPwr { s.pwr with inMode := y :: s.pwr.inMode }

/-- What entering its mode does to a unit. -/
def State.fallAsleep (s : State) (y : LpUnit) : State :=
  match y with
  | .portOff n => (s.asleep (.portOff n)).linkLost n
  | .tileGate p => (s.asleep (.tileGate p)).each (tilesOf p) State.loseTile
  | y => s.asleep y

theorem exec_lpIdleEnter {y : LpUnit} (h1 : s.lpSet y = true) (h2 : y ∉ s.pwr.inMode) (h3 : y ∉ s.pwr.waking)
    (h4 : ∀ e ∈ s.pwr.idleFrom, e.1 = y → e.2 + s.fld .pwr Reg.PWR_IDLE_IDLE_US * 1000 ≤ s.now) (h5 : s.lpIdle y = true) :
    exec (.lpIdleEnter y) s = .next (s.fallAsleep y) := by
  refine congrArg Host.Outcome.next ?_
  have hc : (s.lpSet y && !s.pwr.inMode.contains y && !s.pwr.waking.contains y && (match s.pwr.idleFrom.find? fun e => e.1 == y with
      | some e => decide (e.2 + s.fld .pwr Reg.PWR_IDLE_IDLE_US * 1000 ≤ s.now)
      | none => true) && s.lpIdle y) = true := by
    have hi : s.pwr.inMode.contains y = false := by simpa using h2
    have hw : s.pwr.waking.contains y = false := by simpa using h3
    rw [h1, hi, hw, h5]
    cases hf : s.pwr.idleFrom.find? fun e => e.1 == y with
    | none => rfl
    | some e => simpa using h4 e (List.mem_of_find?_eq_some hf) (by simpa using List.find?_some hf)
  refine (if_pos hc).trans ?_
  cases y <;> rfl

/-! ## The contents of a tile -/

theorem mem_tilesOf : x ∈ tilesOf p ↔ partOf x = p := by
  have hx := x.isLt
  have hp := p.isLt
  simp only [tilesOf, List.mem_map, List.mem_range, tileOf, partOf, Fin.ext_iff, Fin.val_ofNat]
  constructor
  · rintro ⟨k, hk, h⟩
    omega
  · intro h
    exact ⟨x.val % 8, by omega, by omega⟩

theorem tilesOf_nodup : (tilesOf p).Nodup := by
  refine List.Nodup.map_on (fun i hi j hj h => ?_) List.nodup_range
  have hp := p.isLt
  rw [List.mem_range] at hi hj
  simp only [tileOf, Fin.ext_iff, Fin.val_ofNat] at h
  omega

/-- A tile's memory cleared. -/
def State.emptySram (s : State) (x : TileId) : State :=
  { s with sram := Map.clear s.sram (sramAddr x 0) 2097152, sramBad := Map.clear s.sramBad (sramAddr x 0) 2097152 }

theorem State.changes.emptySram {cs : List Comp} {fs : List Place} {ns : List (Page × Nat)} (h : s.changes t cs fs ns)
    (h0 : .sram ∈ cs := by simp) (h1 : .sramBad ∈ cs := by simp) : s.changes (t.emptySram x) cs fs ns :=
  h.upd (fun c hc => by cases c <;> first | rfl | exact absurd (by simp [h0, h1]) hc) rfl rfl rfl

@[simp] theorem State.sram_emptySram : (s.emptySram x).sram = Map.clear s.sram (sramAddr x 0) 2097152 := by rw [State.emptySram]

/-- Tile memory with one tile's range cleared reads as zeros there, and as before elsewhere. -/
theorem get_clear_sram {m : Memory} {y : TileId} {o : Nat} :
    Map.get 0 (Map.clear m (sramAddr x 0) 2097152) (sramAddr y o) = if y = x then 0 else Map.get 0 m (sramAddr y o) := by
  have ho : o % 2097152 < 2097152 := Nat.mod_lt _ (by decide)
  rw [Map.clear, Map.get, Map.find_filter_key _ fun k => decide (k < sramAddr x 0) || decide (sramAddr x 0 + 2097152 ≤ k)]
  by_cases h : y = x
  · subst h
    have h1 : sramAddr y 0 ≤ sramAddr y o := by simp only [sramAddr]; omega
    have h2 : sramAddr y o < sramAddr y 0 + 2097152 := by simp only [sramAddr]; omega
    simp [Nat.not_lt.2 h1, Nat.not_le.2 h2]
  · have hne : y.val ≠ x.val := fun e => h (Fin.ext e)
    have h1 : sramAddr y o < sramAddr x 0 ∨ sramAddr x 0 + 2097152 ≤ sramAddr y o := by simp only [sramAddr]; omega
    simp only [h1, Bool.or_eq_true, decide_eq_true_eq, if_true, if_neg h]
    rfl

/-- A tile's contents are lost, and its page is not ready. -/
structure State.tileLost (s t : State) (x : TileId) : Prop where
  frame : s.changes t [.tiles, .sram, .sramBad] [Reg.PG_READY_READY.place (.tile x)] []
  tile : t.tile x = {}
  others : ∀ y, y ≠ x → t.tile y = s.tile y
  sram : ∀ y o, Map.get 0 t.sram (sramAddr y o) = if y = x then 0 else Map.get 0 s.sram (sramAddr y o)
  ready : t.fld (.tile x) Reg.PG_READY_READY = 0

/-- A tile that holds no task loses its contents alone. -/
theorem State.loseTile_lost (h : (s.tile x).slots = []) : s.tileLost (s.loseTile x) x := by
  obtain ⟨w, hw⟩ : ∃ w, w = (s.clearTile x).setTile x {} := ⟨_, rfl⟩
  have hc : s.clearTile x = s.setTile x { progs := (s.tile x).progs, acc := (s.tile x).acc, coming := (s.tile x).coming, nextOrder := (s.tile x).nextOrder } := by
    unfold State.clearTile
    rw [h]
    rfl
  have hs : s.changes w [.tiles] [] [] := by
    rw [hw, hc]
    exact .setTile (.setTile .refl)
  have e : s.loseTile x = (w.emptySram x).setFld (.tile x) Reg.PG_READY_READY 0 := by
    rw [hw, hc]
    unfold State.loseTile
    rw [hc]
    rfl
  have ht (y : TileId) : (s.loseTile x).tile y = w.tile y := by rw [e]; rfl
  rw [e] at ht ⊢
  refine ⟨.setFld (State.changes.emptySram (State.changes_mono hs (by simp) (by simp) (by simp))), ?_, fun y hy => ?_, fun y o => ?_, ?_⟩
  · rw [ht, hw, State.tile, State.setTile, Map.get_set_same]
  · have hne : y.val ≠ x.val := fun e => hy (Fin.ext e)
    rw [ht, hw, hc, State.tile, State.setTile, Map.get_set_other _ _ _ _ hne, State.setTile, Map.get_set_other _ _ _ _ hne, State.tile]
  · rw [State.sram_setFld, State.sram_emptySram, get_clear_sram, hs.1 .sram (by simp)]
  · rw [State.fld_setFld_same]
    rfl

/-- Every tile of a list of idle tiles loses its contents. -/
theorem State.each_loseTile {l : List TileId} (hl : l.Nodup) (h : ∀ y ∈ l, (s.tile y).slots = []) :
    (∀ y, y ∉ l → (s.each l State.loseTile).tile y = s.tile y) ∧
    (∀ y ∈ l, (s.each l State.loseTile).tile y = {} ∧ (s.each l State.loseTile).fld (.tile y) Reg.PG_READY_READY = 0) ∧
    (∀ y o, Map.get 0 (s.each l State.loseTile).sram (sramAddr y o) = if y ∈ l then 0 else Map.get 0 s.sram (sramAddr y o)) ∧
    s.changes (s.each l State.loseTile) [.tiles, .sram, .sramBad] (l.map fun y => Reg.PG_READY_READY.place (.tile y)) [] := by
  induction l generalizing s with
  | nil => exact ⟨fun _ _ => rfl, by simp, fun y o => by simp [State.each], .refl⟩
  | cons z l ih =>
    obtain ⟨hz, hl'⟩ := List.nodup_cons.1 hl
    have hlost := State.loseTile_lost (h z List.mem_cons_self)
    have hne {y : TileId} (hy : y ∈ l) : y ≠ z := by
      rintro rfl
      exact hz hy
    obtain ⟨k0, k1, k2, k3⟩ := ih (s := s.loseTile z) hl' fun y hy => by
      rw [hlost.others y (hne hy)]
      exact h y (List.mem_cons_of_mem _ hy)
    change (∀ y, y ∉ z :: l → ((s.loseTile z).each l State.loseTile).tile y = _) ∧ (∀ y ∈ z :: l, ((s.loseTile z).each l State.loseTile).tile y = {} ∧
      ((s.loseTile z).each l State.loseTile).fld (.tile y) Reg.PG_READY_READY = 0) ∧ (∀ y o, Map.get 0 ((s.loseTile z).each l State.loseTile).sram (sramAddr y o) = _) ∧ s.changes ((s.loseTile z).each l State.loseTile) _ _ _
    refine ⟨fun y hy => ?_, fun y hy => ?_, fun y o => ?_, State.changes_trans (State.changes_mono hlost.frame (fun _ h => h) (by simp) (by simp))
      (State.changes_mono k3 (fun _ h => h) (fun _ h => List.mem_cons_of_mem _ h) (by simp))⟩
    · rw [List.mem_cons, not_or] at hy
      rw [k0 y hy.2, hlost.others y hy.1]
    · rcases List.mem_cons.1 hy with rfl | hy'
      · refine ⟨(k0 y hz).trans hlost.tile, (k3.fld fun q hq => ?_).trans hlost.ready⟩
        obtain ⟨i, hi, rfl⟩ := List.mem_map.1 hq
        exact Place.apart_of_ne (by simpa using hne hi) (by decide) (by decide)
      · exact k1 y hy'
    · rw [k2, hlost.sram]
      by_cases hy : y ∈ l
      · rw [if_pos hy, if_pos (List.mem_cons_of_mem _ hy)]
      · rw [if_neg hy]
        simp [hy]

/-! ## WAKE_DONE -/

/-- A unit is awake. -/
def State.awake (s : State) (y : LpUnit) : State := s.setPwr { s.pwr with
  waking := s.pwr.waking.filter (· ≠ y), idleFrom := s.pwr.idleFrom.filter (fun e => e.1 ≠ y) ++ [(y, s.now)] }

/-- What the end of a wake does to a unit. -/
def State.wokenUp (s : State) (y : LpUnit) : State :=
  match y with
  | .tileGate p => (s.awake (.tileGate p)).each (tilesOf p) fun s t => s.setFld (.tile t) Reg.PG_READY_READY 1
  | y => s.awake y

theorem exec_wakeDone {y : LpUnit} (h : y ∈ s.pwr.waking) : exec (.wakeDone y) s = .next (s.wokenUp y) := by
  refine congrArg Host.Outcome.next ((if_pos h).trans ?_)
  cases y <;> rfl

/-- The pages of the named tiles are ready. -/
theorem State.each_readyTile {l : List TileId} (hl : l.Nodup) (hx : x ∈ l) :
    (s.each l fun s t => s.setFld (.tile t) Reg.PG_READY_READY 1).fld (.tile x) Reg.PG_READY_READY = 1 := by
  refine State.each_at hl hx (I := fun _ => True) (Q := fun t => t.fld (.tile x) Reg.PG_READY_READY = 1) trivial (fun _ _ _ _ => trivial)
    (fun t _ => ?_) fun t y hy ht => ?_
  · simp +decide [State.fld_eq]
  · rw [State.fld_setFld_page _ (by simpa using hy) (by decide) (by decide), ht]

theorem State.each_readyTile_changes {l : List TileId} : s.changes (s.each l fun s t => s.setFld (.tile t) Reg.PG_READY_READY 1) []
    (l.map fun y => Reg.PG_READY_READY.place (.tile y)) [] :=
  .each .refl fun _ _ hy hu => .setFld hu (List.mem_map_of_mem hy)

end

/-- Settles O5, command by command. -/
theorem powerDownModesFollowTheirBits : Obligations.PowerDownModesFollowTheirBits := by
  refine ⟨fun s v h => ?_, fun s v h => ?_, fun s v h => ?_, fun s v h => ?_, fun s v no h hno => ?_, fun s u h1 h2 h3 h4 h5 h6 h7 => ?_,
    fun s p h1 h2 h3 h4 h5 => ?_, fun s n h1 h2 h3 h4 h5 => ?_, fun s u h => ?_⟩
  · have hm := State.lpMask_masked (s := s) (f := Reg.PWR_PORT_LP_MASK) (l := allPorts.map .portLp) (v := v.toNat) (by decide)
    exact completes.next ⟨hm.fld, fun n => hm.unit (List.mem_map_of_mem (List.mem_finRange n)), hm.frame⟩ (exec_powerDownMaskWrite h).1
  · have hm := State.lpMask_masked (s := s) (f := Reg.PWR_PORT_OFF_MASK) (l := allPorts.map .portOff) (v := v.toNat) (by decide)
    exact completes.next ⟨hm.fld, fun n => hm.unit (List.mem_map_of_mem (List.mem_finRange n)), hm.frame⟩ (exec_powerDownMaskWrite h).2.1
  · have hm := State.lpMask_masked (s := s) (f := Reg.PWR_SHL_RET_MASK) (l := allParts.map .slice) (v := v.toNat) (by decide)
    exact completes.next ⟨hm.fld, fun n => hm.unit (List.mem_map_of_mem (List.mem_finRange n)), hm.frame⟩ (exec_powerDownMaskWrite h).2.2.1
  · obtain ⟨u, hu⟩ : ∃ u, u = s.lpMask Reg.PWR_MEM_SR_BAS ((List.finRange 8).map .stack) (bits v.toNat 0 8) := ⟨_, rfl⟩
    have hm : s.masked u Reg.PWR_MEM_SR_BAS ((List.finRange 8).map .stack) (bits v.toNat 0 8) := by
      rw [hu]
      exact State.lpMask_masked (by decide)
    have hk := State.lpMask_masked (s := u) (f := Reg.PWR_MEM_SR_DEEP) (l := (List.finRange 16).map .channel) (v := bits v.toNat 8 16) (by decide)
    refine completes.next ?_ ((exec_powerDownMaskWrite h).2.2.2.trans (by rw [← hu]))
    refine ⟨?_, ?_, fun n => ?_, fun n => ?_, State.changes_trans (State.changes_mono hm.frame (fun _ h => h) (by simp) fun _ h => h)
      (State.changes_mono hk.frame (fun _ h => h) (by simp) fun _ h => h)⟩
    · rw [hk.frame.fld (by simp +decide [Place.apart_of]), hm.fld]
      exact Nat.mod_eq_of_lt (Nat.mod_lt _ (by decide))
    · rw [hk.fld]
      exact Nat.mod_eq_of_lt (Nat.mod_lt _ (by decide))
    · have hn := n.isLt
      rw [hk.inMode, (hm.unit (List.mem_map_of_mem (List.mem_finRange n))).1, bit_bits]
      simp [lpBit, hn]
    · have hn := n.isLt
      have hb : bit (bits v.toNat 8 16) n.val = bit v.toNat (8 + n.val) := by rw [bit_bits, decide_eq_true hn, Bool.true_and]
      rw [(hk.unit (List.mem_map_of_mem (List.mem_finRange n))).1, hm.inMode, show (lpBit (.channel n)).2 = n.val from rfl, hb]
      simp
  · have hm := State.lpMask_masked (s := s) (f := Reg.PWR_TILE_GATE_MASK) (l := allParts.map .tileGate) (v := gateValue v no) (by decide)
    obtain ⟨u, hu⟩ : ∃ u, u = s.lpMask Reg.PWR_TILE_GATE_MASK (allParts.map .tileGate) (gateValue v no) := ⟨_, rfl⟩
    rw [← hu] at hm
    refine completes.next ?_ ((exec_pwrTileGateWrite h hno).trans (by rw [← hu]))
    have hb (p : PartId) : bit (u.fld .pwr Reg.PWR_TILE_GATE_MASK) p.val = (bit v.toNat p.val && !no p) := by
      have hp : p.val < Reg.PWR_TILE_GATE_MASK.width := p.isLt
      rw [hm.fld, ← bit_gateValue, bit_eq_testBit, bit_eq_testBit, Nat.testBit_mod_two_pow]
      simp [hp]
    have hi (p : PartId) : LpUnit.tileGate p ∈ u.pwr.inMode ↔ LpUnit.tileGate p ∈ s.pwr.inMode ∧ bit v.toNat p.val = true ∧ no p = false := by
      rw [(hm.unit (List.mem_map_of_mem (List.mem_finRange p))).1, show (lpBit (.tileGate p)).2 = p.val from rfl, bit_gateValue]
      simp
    split
    · refine ⟨fun p => ?_, fun p => by rw [State.pwr_err]; exact hi p, ?_, .err (State.changes_mono hm.frame (fun _ h => h) (by simp) (by simp))⟩
      · rw [← hb, (State.err_changes ..).fld (by simp +decide [errPlaces, Place.apart_of])]
      · exact hm.frame.erred (by decide) (by simp +decide [Place.apart_of]) (by simp)
    · refine ⟨hb, hi, ⟨hm.frame.fld (by simp +decide [Place.apart_of]), hm.frame.counter (by simp)⟩,
        State.changes_mono hm.frame (fun _ h => h) (by simp) (by simp)⟩
  · refine completes.next (P := fun t => t.pwr = _ ∧ s.changes t _ _ _) ?_ (exec_lpIdleEnter h1 h2 h3 h4 h5)
    have h : s.changes (s.asleep u) [.pwr] [] [] := .setPwr .refl
    cases u with
    | portOff n => exact absurd rfl (h6 n)
    | tileGate p => exact absurd rfl (h7 p)
    | _ => exact ⟨State.pwr_setPwr, h⟩
  · refine completes.next ?_ (exec_lpIdleEnter h1 h2 h3 h4 h5)
    have hs : s.changes (s.asleep (.tileGate p)) [.pwr] [] [] := .setPwr .refl
    obtain ⟨-, k1, k2, k3⟩ := State.each_loseTile (s := s.asleep (.tileGate p)) tilesOf_nodup fun y hy => by
      have := List.all_eq_true.1 h5 y hy
      rw [Bool.and_eq_true, List.isEmpty_iff] at this
      rw [show (s.asleep (.tileGate p)).tile y = s.tile y from rfl]
      exact this.1
    refine ⟨(k3.1 .pwr (by simp)).trans State.pwr_setPwr, fun x hx => k1 x (mem_tilesOf.2 hx), fun x o => ?_,
      State.changes_trans (State.changes_mono hs (by simp) (by simp) (by simp)) (State.changes_mono k3 (by simp) (fun _ h => h) (by simp))⟩
    refine (k2 x o).trans ?_
    rw [hs.1 .sram (by simp)]
    simp only [mem_tilesOf]
  · refine completes.next ?_ (exec_lpIdleEnter h1 h2 h3 h4 h5)
    have hs : s.changes (s.asleep (.portOff n)) [.pwr] [] [] := .setPwr .refl
    have hc := State.linkLost_changes (s := s.asleep (.portOff n)) (n := n)
    change ((s.asleep (.portOff n)).linkLost n).pwr = _ ∧ ((s.asleep (.portOff n)).linkLost n).fld _ _ = 0 ∧
      s.changes ((s.asleep (.portOff n)).linkLost n) _ _ _
    refine ⟨(hc.1 .pwr (by simp)).trans State.pwr_setPwr, ?_,
      State.changes_trans (State.changes_mono hs (by simp) (by simp) (by simp)) (State.changes_mono hc (by simp) (fun _ h => h) fun _ h => h)⟩
    cases hup : (s.asleep (.portOff n)).flag (.port n) Reg.PORT_STAT_LINK_UP
    · rw [State.linkLost_of_down hup]
      simpa [State.flag] using hup
    · exact (State.linkLost_down hup).up
  · refine completes.next ?_ (exec_wakeDone h)
    have hs : s.changes (s.awake u) [.pwr] [] [] := .setPwr .refl
    cases u with
    | tileGate p =>
      have hc := State.each_readyTile_changes (s := s.awake (.tileGate p)) (l := tilesOf p)
      refine ⟨(hc.1 .pwr (by simp)).trans State.pwr_setPwr, fun x hx => ?_,
        State.changes_trans (State.changes_mono hs (fun _ h => h) (by simp) (by simp)) (State.changes_mono hc (by simp) (fun _ h => h) (by simp))⟩
      exact State.each_readyTile tilesOf_nodup (mem_tilesOf.2 (LpUnit.tileGate.inj hx).symm)
    | _ => exact ⟨State.pwr_setPwr, (fun _ hx => by cases hx), hs⟩

end Sys2Proof.Machine
end

section
/-! PROOFS. O9: links of the fabric ports (R166, R170, R394). -/

namespace Sys2Proof.Machine
open Sys2Proof

section
variable {s t u : State} {n : PortId} {lanes : Fin 16} {stages : Fin 4}

/-- The ordering mode of a port disagrees with PORT[0]'s or with the stage count. -/
def State.modeBad (s : State) (n : PortId) (stages : Fin 4) : Prop :=
  s.flag (.port n) Reg.PORT_CTRL_ORDER_MODE ≠ s.flag (.port 0) Reg.PORT_CTRL_ORDER_MODE ∨
    stages = 1 ∧ s.flag (.port n) Reg.PORT_CTRL_ORDER_MODE = true ∨ 2 ≤ stages.val ∧ s.flag (.port n) Reg.PORT_CTRL_ORDER_MODE = false

/-- A port whose link trained with the wrong mode. -/
def State.mismatched (s : State) (n : PortId) (stages : Fin 4) : State :=
  ((s.setFld (.port n) Reg.PORT_STAT_STAGES stages.val).setFld (.port n) Reg.PORT_STAT_MODE_MISMATCH 1).err (.port n) 0x02

/-- A port whose link has come up, before it is told. -/
def State.trained (s : State) (n : PortId) (lanes : Fin 16) (stages : Fin 4) : State :=
  ((((s.setFld (.port n) Reg.PORT_STAT_STAGES stages.val).setFld (.port n) Reg.PORT_STAT_MODE_MISMATCH 0).setFld (.port n)
    Reg.PORT_STAT_LANES_UP lanes.val).setFld (.port n) Reg.PORT_STAT_LINK_UP 1).setFld (.port n) Reg.PG_READY_READY 1

def trainedPlaces (n : PortId) : List Place := [Reg.PORT_STAT_LINK_UP.place (.port n), Reg.PORT_STAT_LANES_UP.place (.port n),
  Reg.PORT_STAT_STAGES.place (.port n), Reg.PORT_STAT_MODE_MISMATCH.place (.port n), Reg.PG_READY_READY.place (.port n)]

theorem State.trained_changes : s.changes (s.trained n lanes stages) [] (trainedPlaces n) [] :=
  .setFld (.setFld (.setFld (.setFld (.setFld .refl (by simp [trainedPlaces])) (by simp [trainedPlaces])) (by simp [trainedPlaces]))
    (by simp [trainedPlaces])) (by simp [trainedPlaces])

theorem exec_linkTrained (h1 : s.flag (.port n) Reg.PORT_STAT_LINK_UP = false) (h2 : s.flag .dev Reg.DEV_NODE_VALID = true)
    (h3 : s.flag (.port n) Reg.PORT_CTRL_ENABLE = true) (h4 : LpUnit.portOff n ∉ s.pwr.inMode) :
    (s.modeBad n stages → exec (.linkTrained n lanes stages) s = .next (s.mismatched n stages)) ∧
    (¬ s.modeBad n stages → exec (.linkTrained n lanes stages) s = .next ((s.trained n lanes stages).irq (.port n) 0)) := by
  have hc : ¬ (s.flag (.port n) Reg.PORT_STAT_LINK_UP = true ∨ ¬ s.flag .dev Reg.DEV_NODE_VALID = true ∨
      ¬ s.flag (.port n) Reg.PORT_CTRL_ENABLE = true ∨ (.portOff n : LpUnit) ∈ s.pwr.inMode) := by simp [h1, h2, h3, h4]
  have hb : ((s.flag (.port n) Reg.PORT_CTRL_ORDER_MODE != s.flag (.port 0) Reg.PORT_CTRL_ORDER_MODE ||
      (stages == 1 && s.flag (.port n) Reg.PORT_CTRL_ORDER_MODE) || (decide (2 ≤ stages.val) && !s.flag (.port n) Reg.PORT_CTRL_ORDER_MODE)) = true) ↔
      s.modeBad n stages := by
    rw [State.modeBad]
    simp [or_assoc]
  constructor
  · exact fun h => congrArg Host.Outcome.next ((if_neg hc).trans (if_pos (hb.2 h)))
  · exact fun h => congrArg Host.Outcome.next ((if_neg hc).trans (if_neg fun k => h (hb.1 k)))

theorem exec_linkDown : exec (.linkDown n) s = .next (s.linkLost n) := rfl

theorem exec_portCtrlEnableWrite {b : Bool} (h : s.ready (.port n) = true) : exec (.portCtrlEnableWrite n b) s = .next (
    if b then s.setFld (.port n) Reg.PORT_CTRL_ENABLE b.toNat else (s.setFld (.port n) Reg.PORT_CTRL_ENABLE b.toNat).linkLost n) :=
  congrArg Host.Outcome.next (State.ifReady_pos h _)

theorem exec_linkPartnerWake : exec (.linkPartnerWake n) s = .next (s.wakeUnit (.portLp n)) := rfl

/-- A port's link layer as a loss leaves it. -/
theorem Port.lost_spec (x : Port) : x.lost.seqNext = 0 ∧ x.lost.exp = 0 ∧ x.lost.held = [] ∧ x.lost.credits = [] ∧ x.lost.mid = [] :=
  ⟨rfl, rfl, rfl, rfl, rfl⟩

/-- A link that goes down after a change of fields the loss does not show. -/
theorem State.linkDown.of_changes {fs : List Place} (h : s.changes u [] fs []) (k : u.linkDown t n)
    (hi : ∀ x ∈ fs, ∀ pg, Place.apart x (Reg.PG_IRQ_STAT.place pg)) : s.linkDown t n where
  up := k.up
  lanes := k.lanes
  count := k.count.trans (by rw [h.counter (by simp)])
  raised := k.raised.trans (congrArg (· ||| _) (h.irqStat fun x hx => hi x hx _))
  port := k.port.trans (congrArg Port.lost (State.port_congr (h.1 .ports (by simp))))
  others := by
    have := k.others
    rwa [h.1 .ports (by simp)] at this
  paths e he := by
    obtain ⟨k1, k2⟩ := k.paths e (by rwa [State.eng_congr (h.1 .engines (by simp))])
    exact ⟨k1, k2.trans (congrArg (· ||| _) (h.irqStat fun x hx => hi x hx _))⟩

end

/-- Settles O9, command by command. -/
theorem linksComeUpAndGoDown : Obligations.LinksComeUpAndGoDown := by
  refine ⟨fun s n lanes stages h1 h2 h3 h4 h5 => ?_, fun s n lanes stages h1 h2 h3 h4 h5 => ?_, fun s n h => ?_, fun s n h => ?_,
    fun s n hr h => ?_, fun s n b hr h => ?_, fun s n h => ?_⟩
  · refine completes.next ?_ ((exec_linkTrained h1 h2 h3 h4).2 h5)
    obtain ⟨u, hu⟩ : ∃ u, u = s.trained n lanes stages := ⟨_, rfl⟩
    have hc : s.changes u [] (trainedPlaces n) [] := hu ▸ State.trained_changes
    have hf {f : Fld} (hf : Reg.PG_IRQ_STAT.apart f 0 0 = true) : (u.irq (.port n) 0).fld (.port n) f = u.fld (.port n) f :=
      (State.irq_changes ..).fld (by simp [irqPlaces, Place.apart_of_apart hf])
    have hl : lanes.val < 2 ^ Reg.PORT_STAT_LANES_UP.width := lanes.isLt
    have hst : stages.val < 2 ^ Reg.PORT_STAT_STAGES.width := stages.isLt
    rw [← hu]
    refine ⟨?_, ?_, ?_, ?_, ?_, hc.raised (by simp +decide [trainedPlaces, Place.apart_of]),
      hc.out_irq_eq (hc.1 .out (by simp)) (congrArg Pcie.unmasked (hc.1 .pcie (by simp)))
        (by simp +decide [trainedPlaces, messageFlds, Place.apart_of]),
      .irq (State.changes_mono hc (by simp) (fun _ h => List.mem_append_left _ h) (by simp)) (by simp) (by simp [irqPlaces])⟩
    · rw [hf (by decide), hu]
      simp +decide [State.trained, State.fld_eq]
    · rw [hf (by decide), hu]
      simp +decide [State.trained, State.fld_eq, hl]
    · rw [hf (by decide), hu]
      simp +decide [State.trained, State.fld_eq, hst]
    · rw [hf (by decide), hu]
      simp +decide [State.trained, State.fld_eq]
    · rw [State.ready, State.flag, hf (by decide), hu]
      simp +decide [State.trained, State.fld_eq]
  · refine completes.next ?_ ((exec_linkTrained h1 h2 h3 h4).1 h5)
    have hst : stages.val < 2 ^ Reg.PORT_STAT_STAGES.width := stages.isLt
    obtain ⟨u, hu⟩ : ∃ u, u = (s.setFld (.port n) Reg.PORT_STAT_STAGES stages.val).setFld (.port n) Reg.PORT_STAT_MODE_MISMATCH 1 := ⟨_, rfl⟩
    have hc : s.changes u [] [Reg.PORT_STAT_STAGES.place (.port n), Reg.PORT_STAT_MODE_MISMATCH.place (.port n)] [] := by
      rw [hu]
      exact .setFld (.setFld .refl)
    rw [State.mismatched, ← hu]
    refine ⟨?_, ?_, hc.erred (by decide) (by simp +decide [Place.apart_of]) (by simp),
      .err (State.changes_mono hc (by simp) (by simp) (by simp)) (by simp [errPlaces]) (by simp [errCounts])⟩
    · rw [(State.err_changes ..).fld (by simp +decide [errPlaces, Place.apart_of]), hu]
      simp +decide [State.fld_eq]
    · rw [(State.err_changes ..).fld (by simp +decide [errPlaces, Place.apart_of]), hu]
      simp +decide [State.fld_eq, hst]
  · have k := State.linkLost_down h
    exact completes.next ⟨k.up, k.lanes, k.count, k.raised, by rw [k.port]; exact Port.lost_spec _, k.others, k.paths, State.linkLost_changes⟩ exec_linkDown
  · exact completes.next rfl (exec_linkDown.trans (congrArg _ (State.linkLost_of_down h)))
  · refine completes.next ?_ (exec_portCtrlEnableWrite hr)
    obtain ⟨u, hu⟩ : ∃ u, u = s.setFld (.port n) Reg.PORT_CTRL_ENABLE false.toNat := ⟨_, rfl⟩
    have hc : s.changes u [] [Reg.PORT_CTRL_ENABLE.place (.port n)] [] := by
      rw [hu]
      exact .setFld .refl
    have hup : u.flag (.port n) Reg.PORT_STAT_LINK_UP = true := by
      rw [State.flag, hc.fld (by simp +decide [Place.apart_of])]
      exact h
    have k := (State.linkLost_down hup).of_changes hc (by simp +decide [Place.apart_of])
    have hl := State.linkLost_changes (s := u) (n := n)
    rw [← hu, if_neg Bool.false_ne_true]
    refine ⟨?_, k.up, k.lanes, k.count, k.raised, by rw [k.port]; exact Port.lost_spec _, k.others, k.paths,
      State.changes_trans (State.changes_mono hc (by simp) (by simp) (by simp))
        (State.changes_mono hl (fun _ h => h) (fun _ h => List.mem_append_right _ h) fun _ h => h)⟩
    rw [hl.fld, hu, State.fld_setFld_same]
    · rfl
    · intro x hx
      rcases List.mem_append.1 hx with hy | hy
      · simp only [lossPlaces, irqPlaces, List.mem_append, List.mem_cons, List.not_mem_nil, or_false] at hy
        rcases hy with (rfl | rfl) | rfl <;> exact Place.apart_of (by decide) (by decide) (by decide)
      · exact apart_engLosses (by simp) (by decide) x hy
  · refine completes.next ?_ (exec_portCtrlEnableWrite hr)
    have hc : s.changes (s.setFld (.port n) Reg.PORT_CTRL_ENABLE b.toNat) [] [Reg.PORT_CTRL_ENABLE.place (.port n)] [] := .setFld .refl
    have hf : (s.setFld (.port n) Reg.PORT_CTRL_ENABLE b.toNat).fld (.port n) Reg.PORT_CTRL_ENABLE = b.toNat :=
      State.fld_setFld_of_lt _ b.toNat_lt
    cases b
    · have hup : (s.setFld (.port n) Reg.PORT_CTRL_ENABLE false.toNat).flag (.port n) Reg.PORT_STAT_LINK_UP = false := by
        rw [State.flag, hc.fld (by simp +decide [Place.apart_of])]
        exact h.resolve_left (by simp)
      change ((s.setFld (.port n) Reg.PORT_CTRL_ENABLE false.toNat).linkLost n).fld _ _ = _ ∧ s.changes ((s.setFld (.port n) Reg.PORT_CTRL_ENABLE false.toNat).linkLost n) _ _ _
      rw [State.linkLost_of_down hup]
      exact ⟨hf, hc⟩
    · exact ⟨hf, hc⟩
  · exact completes.next ⟨fun hm => (State.mem_inMode_wakeUnit.1 hm).2 rfl, State.mem_waking_wakeUnit.2 (.inr ⟨rfl, h⟩), State.counted_wakeUnit h,
      State.wakeUnit_changes⟩ exec_linkPartnerWake

end Sys2Proof.Machine
end

section
/-! PROOFS. Flits sent and received without fault injection (R199 to R202). -/

namespace Sys2Proof.Machine
open Sys2Proof

section
variable {s t u : State} {n : PortId} {f : Flit} {a b o : Nat} {pg : Page}

/-! ## Counts -/

theorem State.counted.trans (h : s.counted t pg o a) (k : t.counted u pg o b) : s.counted u pg o (a + b) := by
  rw [State.counted] at *
  rw [k, h]
  omega

theorem State.counted.zero {cs : List Comp} {fs : List Place} {ns : List (Page × Nat)} (h : s.changes t cs fs ns)
    (hn : ∀ x ∈ ns, pg.base + o ≠ x.1.base + x.2 := by simp) : s.counted t pg o 0 := by
  rw [State.counted, h.counter hn, State.counter_eq]
  simp

theorem State.counted.after {cs : List Comp} {fs : List Place} {ns : List (Page × Nat)} (h : s.counted t pg o a) (k : t.changes u cs fs ns)
    (hn : ∀ x ∈ ns, pg.base + o ≠ x.1.base + x.2 := by simp) : s.counted u pg o a := h.trans (.zero k hn)

theorem State.counted.before {cs : List Comp} {fs : List Place} {ns : List (Page × Nat)} (h : s.changes t cs fs ns) (k : t.counted u pg o a)
    (hn : ∀ x ∈ ns, pg.base + o ≠ x.1.base + x.2 := by simp) : s.counted u pg o a := by
  rw [State.counted, ← h.counter hn]
  exact k

theorem State.counted_count : s.counted (s.count pg o a) pg o a := by
  rw [State.counted, State.counter_count_same]

/-! ## A port takes a value -/

/-- One port changes, and counters. -/
structure State.portSet (s t : State) (n : PortId) (x : Port) (ns : List (Page × Nat)) : Prop where
  frame : s.changes t [.ports] [] ns
  port : t.port n = x
  others : othersSame {} s.ports t.ports [n.val]

theorem State.portSet_setPort {x : Port} {ns : List (Page × Nat)} : s.portSet (s.setPort n x) n x ns :=
  ⟨.setPort .refl, State.port_setPort_same, by rw [State.setPort]; simp⟩

theorem State.portSet.refl {ns : List (Page × Nat)} : s.portSet s n (s.port n) ns := ⟨.refl, rfl, by simp⟩

theorem State.portSet.trans {x y : Port} {ns : List (Page × Nat)} (h : s.portSet t n x ns) (k : t.portSet u n y ns) : s.portSet u n y ns :=
  ⟨State.changes_trans h.frame k.frame, k.port, othersSame_trans h.others k.others⟩

theorem State.portSet.count {x : Port} {ns : List (Page × Nat)} (h : s.portSet t n x ns) (hm : (pg, o) ∈ ns := by simp) :
    s.portSet (t.count pg o a) n x ns :=
  ⟨.count h.frame hm, (State.port_congr (State.ports_count ..)).trans h.port, by rw [State.ports_count]; exact h.others⟩

theorem State.portSet.mono {x : Port} {ns ms : List (Page × Nat)} (h : s.portSet t n x ns) (hm : ∀ y ∈ ns, y ∈ ms) : s.portSet t n x ms :=
  ⟨State.changes_mono h.frame (fun _ h => h) (fun _ h => h) hm, h.port, h.others⟩

/-! ## Without fault injection -/

/-- The injector is not armed. -/
abbrev State.disarmed (s : State) : Prop := s.flag .finj Reg.FINJ_CTRL_ARM = false

theorem State.changes.disarmed {cs : List Comp} {ns : List (Page × Nat)} (h : s.changes t cs [] ns) (hd : s.disarmed) : t.disarmed := by
  rw [State.disarmed, State.flag, h.fld (by simp)]
  exact hd

theorem State.injectAt_of_disarmed {rx : Bool} {only : Nat → Bool} (h : s.disarmed) : s.injectAt n rx only = (none, s) :=
  if_pos (.inl (by simp [h]))

theorem State.txFlit_of_disarmed {kind seq : Nat} {replay : Bool} {b : List Byte} (h : s.disarmed) :
    s.txFlit n kind seq replay b = (s.count (.port n) 0x80).send (.flit n kind seq replay b) := by
  simp only [State.txFlit, State.injectAt_of_disarmed h]

theorem State.bareFlit_of_disarmed {kind : Nat} {av retry : Bool} (h : s.disarmed) : s.bareFlit n kind ((s.port n).exp + 4095) av retry =
    ((s.setPort n (s.port n).afterBare).count (.port n) 0x80).send ((s.port n).bareOut n kind av retry) := by
  have hd : (s.setPort n (s.port n).afterBare).disarmed := State.changes.disarmed (cs := [.ports]) (ns := []) (.setPort .refl) h
  exact State.txFlit_of_disarmed hd

/-- A flit without a payload goes out. -/
structure State.bareSent (s t : State) (n : PortId) (kind : Nat) (av retry : Bool) (x : Port) : Prop where
  out : t.out = s.out ++ [x.bareOut n kind av retry]
  port : t.port n = x.afterBare
  others : othersSame {} s.ports t.ports [n.val]
  count : s.counted t (.port n) 0x80
  frame : s.changes t [.ports, .out] [] [(.port n, 0x80)]

theorem State.bareFlit_sent {kind : Nat} {av retry : Bool} (h : s.disarmed) :
    s.bareSent (s.bareFlit n kind ((s.port n).exp + 4095) av retry) n kind av retry (s.port n) := by
  rw [State.bareFlit_of_disarmed h]
  have hp : s.portSet ((s.setPort n (s.port n).afterBare).count (.port n) 0x80) n (s.port n).afterBare [(.port n, 0x80)] :=
    State.portSet_setPort.count
  refine ⟨?_, hp.port, hp.others, ?_, .send (.count (.setPort .refl))⟩
  · rw [State.send, State.out_count, State.out_setPort]
  · exact State.counted.before (cs := [.ports]) (fs := []) (ns := []) (.setPort .refl) (State.counted_count.after (cs := [.out]) (fs := []) (ns := []) (.send .refl))

/-! ## Flits sent one after another -/

theorem State.each_txFlit {α : Type} {l : List α} {kind : Nat} {replay : Bool} {q : α → Nat} {g : α → List Byte} (h : s.disarmed) :
    (s.each l fun s x => s.txFlit n kind (q x) replay (g x)).out = s.out ++ l.map (fun x => Out.flit n kind (q x) replay (g x)) ∧
    s.counted (s.each l fun s x => s.txFlit n kind (q x) replay (g x)) (.port n) 0x80 l.length ∧
    s.changes (s.each l fun s x => s.txFlit n kind (q x) replay (g x)) [.out] [] [(.port n, 0x80)] := by
  induction l generalizing s with
  | nil => exact ⟨(List.append_nil _).symm, .zero (cs := []) (fs := []) (ns := []) .refl, .refl⟩
  | cons x l ih =>
    obtain ⟨u, hu⟩ : ∃ u, u = (s.count (.port n) 0x80).send (.flit n kind (q x) replay (g x)) := ⟨_, rfl⟩
    have hc : s.changes u [.out] [] [(.port n, 0x80)] := by
      rw [hu]
      exact .send (.count .refl)
    have e : (s.each (x :: l) fun s x => s.txFlit n kind (q x) replay (g x)) = u.each l fun s x => s.txFlit n kind (q x) replay (g x) := by
      rw [hu, ← State.txFlit_of_disarmed h]
      rfl
    obtain ⟨k1, k2, k3⟩ := ih (hc.disarmed h)
    rw [e]
    refine ⟨?_, ?_, State.changes_trans hc k3⟩
    · rw [k1, hu, State.send, State.out_count, List.append_assoc]
      rfl
    · rw [List.length_cons, Nat.add_comm]
      refine State.counted.trans ?_ k2
      rw [hu]
      exact State.counted_count.after (cs := [.out]) (fs := []) (ns := []) (.send .refl)

/-- A port that sends every held flit again. -/
def Port.replaying (x : Port) (now : Nat) : Port := { x with replays := x.replays + 1, held := x.held.map fun h => (h.1, now, h.2.2) }

/-- Every held flit goes out again. -/
structure State.replayed (s t : State) (n : PortId) : Prop where
  port : t.port n = (s.port n).replaying s.now
  out : t.out = s.out ++ (s.port n).held.map fun h => Out.flit n 0 h.1 true (replayFlit h.2.2)
  again : s.counted t (.port n) 0xA8 (s.port n).held.length
  sent : s.counted t (.port n) 0x80 (s.port n).held.length
  others : othersSame {} s.ports t.ports [n.val]
  frame : s.changes t [.ports, .out] [] [(.port n, 0x80), (.port n, 0xA8)]

theorem State.replayAll_replayed (h : s.disarmed) (h1 : (s.port n).held ≠ []) (h2 : (s.port n).replays < s.fld (.port n) Reg.PORT_CTRL_RETRY_MAX) :
    s.replayed (s.replayAll n) n := by
  obtain ⟨x, hx⟩ : ∃ x, x = (s.port n).replaying s.now := ⟨_, rfl⟩
  obtain ⟨u, hu⟩ : ∃ u, u = (s.setPort n x).count (.port n) 0xA8 (s.port n).held.length := ⟨_, rfl⟩
  have hp : s.portSet u n x [(.port n, 0xA8)] := by
    rw [hu]
    exact State.portSet_setPort.count
  have e : s.replayAll n = u.each (s.port n).held fun s h => s.txFlit n 0 h.1 true (replayFlit h.2.2) := by
    rw [hu, hx]
    exact (if_neg (by simpa using h1)).trans (if_neg (Nat.not_le.2 h2))
  obtain ⟨k1, k2, k3⟩ := State.each_txFlit (l := (s.port n).held) (n := n) (kind := 0) (replay := true) (q := fun h => h.1)
    (g := fun h => replayFlit h.2.2) (hp.frame.disarmed h)
  rw [← e] at k1 k2 k3
  refine ⟨?_, ?_, ?_, ?_, ?_, State.changes_trans (State.changes_mono hp.frame (by simp) (by simp) (by simp)) (State.changes_mono k3 (by simp) (by simp) (by simp))⟩
  · rw [State.port_congr (k3.1 .ports (by simp)), hp.port, hx]
  · rw [k1, hp.frame.1 .out (by simp)]
  · refine State.counted.after ?_ k3
    rw [hu]
    exact .before (cs := [.ports]) (fs := []) (ns := []) (.setPort .refl) State.counted_count
  · exact .before hp.frame k2
  · rw [k3.1 .ports (by simp)]
    exact hp.others

/-! ## What a received flit says -/

/-- A flit that acknowledges held ones. -/
def Port.acksHeld (x : Port) (f : Flit) : Prop := f.ackValid = true ∧ (x.held.any fun h => decide (seqAhead h.1 f.ackSeq < 2048)) = true

/-- A port after the acknowledgement of a flit. -/
def Port.acked (x : Port) (f : Flit) : Port := { x with held := (x.told f).held, replays := (x.told f).replays }

/-- A port after the credits of a flit. -/
def Port.credited (x : Port) (f : Flit) : Port := { x with credits := (x.told f).credits }

theorem Port.acked_credited (x : Port) : (x.acked f).credited f = x.told f := rfl

theorem Port.acked_of_not {x : Port} (h : ¬ x.acksHeld f) : x.acked f = x := by
  have hh : (x.told f).held = x.held := by
    rw [Port.told]
    cases ha : f.ackValid
    · rfl
    · rw [Port.acksHeld, ha] at h
      have hn : (x.held.any fun h => decide (seqAhead h.1 f.ackSeq < 2048)) = false := by simpa using h
      dsimp only
      rw [if_pos rfl, List.filter_eq_self]
      intro y hy
      simpa using List.any_eq_false.1 hn y hy
  have hr : (x.told f).replays = x.replays := if_neg h
  rw [Port.acked, hh, hr]

theorem Port.acked_of_acks {x : Port} (h : x.acksHeld f) :
    x.acked f = { x with held := x.held.filter (fun h => !decide (seqAhead h.1 f.ackSeq < 2048)), replays := 0 } := by
  have hh : (x.told f).held = x.held.filter (fun h => !decide (seqAhead h.1 f.ackSeq < 2048)) := if_pos h.1
  have hr : (x.told f).replays = 0 := if_pos h
  rw [Port.acked, hh, hr]

theorem Port.credited_eq {x : Port} : x.credited f = if f.crCount = 0 then x
    else { x with credits := Map.set 0 x.credits f.crTc.val (Map.get 0 x.credits f.crTc.val + f.crCount) } := by
  simp only [Port.credited, Port.told]
  split <;> rfl

/-- What the acknowledgement and the credits of a flit do to its port; a replay follows where it asks for one. -/
theorem State.piggyback_told {ns : List (Page × Nat)} : ∃ w, s.portSet w n ((s.port n).told f) ns ∧
    s.piggyback n f = if f.retryReq then w.replayAll n else w := by
  classical
  obtain ⟨u, hu⟩ : ∃ u, u = if (s.port n).acksHeld f then s.setPort n ((s.port n).acked f) else s := ⟨_, rfl⟩
  obtain ⟨w, hw⟩ : ∃ w, w = if f.crCount = 0 then u else u.setPort n ((u.port n).credited f) := ⟨_, rfl⟩
  have hsu : s.portSet u n ((s.port n).acked f) ns := by
    rw [hu]
    split
    next h => exact State.portSet_setPort
    next h =>
      rw [Port.acked_of_not h]
      exact .refl
  have huw : u.portSet w n ((u.port n).credited f) ns := by
    rw [hw]
    split
    next h =>
      rw [Port.credited_eq, if_pos h]
      exact .refl
    next h => exact State.portSet_setPort
  rw [hsu.port, Port.acked_credited] at huw
  refine ⟨w, hsu.trans huw, ?_⟩
  have e1 : (if f.ackValid = true ∧ (s.port n).held.any (fun h => decide (seqAhead h.1 f.ackSeq < 2048)) = true then
      s.setPort n { s.port n with held := (s.port n).held.filter fun h => !decide (seqAhead h.1 f.ackSeq < 2048), replays := 0 } else s) = u := by
    rw [hu]
    by_cases h : (s.port n).acksHeld f
    · rw [if_pos h, Port.acked_of_acks h]
      exact if_pos h
    · rw [if_neg h]
      exact if_neg h
  have e2 : (if f.crCount = 0 then u else u.setPort n { u.port n with
      credits := Map.set 0 (u.port n).credits f.crTc.val (Map.get 0 (u.port n).credits f.crTc.val + f.crCount) }) = w := by
    rw [hw, Port.credited_eq]
    by_cases h : f.crCount = 0
    · rw [if_pos h, if_pos h]
    · rw [if_neg h, if_neg h, if_neg h]
  rw [← e2, ← e1]
  rfl

/-! ## The checks of a received flit -/

/-- A flit that is looked at, counted. -/
def State.rxSeen (s : State) (n : PortId) (f : Flit) : State :=
  if f.fecCorrected then (s.count (.port n) 0x88).count (.port n) 0x90 else s.count (.port n) 0x88

/-- A flit that fails its checks, counted. -/
def State.rxBad (s : State) (n : PortId) (f : Flit) : State :=
  if f.fecOk then (s.rxSeen n f).count (.port n) 0xA0 else (s.rxSeen n f).count (.port n) 0x98

def rxCounts (n : PortId) : List (Page × Nat) := [(.port n, 0x88), (.port n, 0x90)]
def rxBadCounts (n : PortId) : List (Page × Nat) := rxCounts n ++ [(.port n, 0x98), (.port n, 0xA0)]

theorem State.rxSeen_changes : s.changes (s.rxSeen n f) [] [] (rxCounts n) :=
  .ite (.count (.count .refl (by simp [rxCounts])) (by simp [rxCounts])) (.count .refl (by simp [rxCounts]))

theorem State.rxSeen_counted : s.counted (s.rxSeen n f) (.port n) 0x88 ∧ s.counted (s.rxSeen n f) (.port n) 0x90 f.fecCorrected.toNat := by
  unfold State.rxSeen
  cases f.fecCorrected
  · exact ⟨State.counted_count, .zero (cs := []) (fs := []) (ns := [(.port n, 0x88)]) (.count .refl)⟩
  · exact ⟨State.counted_count.after (cs := []) (fs := []) (ns := [(.port n, 0x90)]) (.count .refl),
      .before (cs := []) (fs := []) (ns := [(.port n, 0x88)]) (.count .refl) State.counted_count⟩

theorem State.port_rxSeen : (s.rxSeen n f).port n = s.port n := State.port_congr (State.rxSeen_changes.1 .ports (by simp))

theorem State.rxBad_changes : s.changes (s.rxBad n f) [] [] (rxBadCounts n) := by
  have h : s.changes (s.rxSeen n f) [] [] (rxBadCounts n) :=
    State.changes_mono State.rxSeen_changes (by simp) (by simp) fun _ h => List.mem_append_left _ h
  exact .ite (.count h (by simp [rxBadCounts])) (.count h (by simp [rxBadCounts]))

/-- The counts of a flit that fails its checks. -/
theorem State.rxBad_counted (h : f.fecOk = false ∨ f.crcOk = false) : s.counted (s.rxBad n f) (.port n) 0x98 (!f.fecOk).toNat ∧
    s.counted (s.rxBad n f) (.port n) 0xA0 (f.fecOk && !f.crcOk).toNat ∧ s.counted (s.rxBad n f) (.port n) 0x88 ∧
    s.counted (s.rxBad n f) (.port n) 0x90 f.fecCorrected.toNat := by
  obtain ⟨k1, k2⟩ := State.rxSeen_counted (s := s) (n := n) (f := f)
  have hc := State.rxSeen_changes (s := s) (n := n) (f := f)
  have h0 {o : Nat} (ho : ∀ x ∈ rxCounts n, (Page.port n).base + o ≠ x.1.base + x.2) : s.counted (s.rxSeen n f) (.port n) o 0 := .zero hc ho
  unfold State.rxBad
  cases hf : f.fecOk
  · exact ⟨.before hc State.counted_count (by simp [rxCounts]), (h0 (by simp [rxCounts])).after (cs := []) (fs := []) (ns := [(.port n, 0x98)]) (.count .refl),
      k1.after (cs := []) (fs := []) (ns := [(.port n, 0x98)]) (.count .refl), k2.after (cs := []) (fs := []) (ns := [(.port n, 0x98)]) (.count .refl)⟩
  · rw [h.resolve_left (by simp [hf])]
    exact ⟨(h0 (by simp [rxCounts])).after (cs := []) (fs := []) (ns := [(.port n, 0xA0)]) (.count .refl), .before hc State.counted_count (by simp [rxCounts]),
      k1.after (cs := []) (fs := []) (ns := [(.port n, 0xA0)]) (.count .refl), k2.after (cs := []) (fs := []) (ns := [(.port n, 0xA0)]) (.count .refl)⟩

theorem State.rxFlit_of_down (h : s.flag (.port n) Reg.PORT_STAT_LINK_UP = false) : s.rxFlit n f = (none, s) := if_pos (by simp [h])

theorem State.rxFlit_good (h : s.flag (.port n) Reg.PORT_STAT_LINK_UP = true) (hd : s.disarmed) (h1 : f.fecOk = true) (h2 : f.crcOk = true) :
    s.rxFlit n f = (some true, s.rxSeen n f) := by
  refine (if_neg (by simp [h])).trans ?_
  rw [State.injectAt_of_disarmed hd]
  simp only [h1, h2]
  rfl

theorem State.rxFlit_bad (h : s.flag (.port n) Reg.PORT_STAT_LINK_UP = true) (hd : s.disarmed) (h1 : f.fecOk = false ∨ f.crcOk = false) :
    s.rxFlit n f = (some false, s.rxBad n f) := by
  refine (if_neg (by simp [h])).trans ?_
  rw [State.injectAt_of_disarmed hd, State.rxBad]
  cases hf : f.fecOk
  · rfl
  · rw [h1.resolve_left (by simp [hf])]
    rfl

end

end Sys2Proof.Machine
end

section
/-! PROOFS. O6: received flits (R200, R205). -/

namespace Sys2Proof.Machine
open Sys2Proof

section
variable {s t u : State} {n : PortId} {f : Flit} {ok : Bool}

/-! ## DATA flits after their checks -/

/-- A port that accepts a DATA flit. -/
def Port.accepting (x : Port) (now : Nat) (f : Flit) : Port := { x with
  exp := (x.exp + 1) % 4096, awaitingExp := false, rxUnacked := x.rxUnacked + 1
  rxFrom := if x.rxUnacked = 0 then now else x.rxFrom
  creditsBack := Map.set 0 x.creditsBack f.tc.val (Map.get 0 x.creditsBack f.tc.val + 1) }

theorem exec_data_dropped (h : s.rxFlit n f = (none, u)) : exec (.dataFlitReceive n f) s = .next u := by
  refine congrArg Host.Outcome.next ?_
  rw [h]

theorem exec_data_accepted (h : s.rxFlit n f = (some true, u)) (hb : seqAhead f.seq (u.port n).exp = 0) :
    exec (.dataFlitReceive n f) s = .next ((u.setPort n ((u.port n).accepting u.now f)).piggyback n f) := by
  refine congrArg Host.Outcome.next ?_
  rw [h]
  exact if_pos ⟨rfl, hb⟩

theorem exec_data_duplicate (h : s.rxFlit n f = (some true, u)) (h1 : 1 ≤ seqAhead f.seq (u.port n).exp) (h2 : seqAhead f.seq (u.port n).exp ≤ 2048) :
    exec (.dataFlitReceive n f) s = .next ((u.count (.port n) 0xB0).bareFlit n 1 ((u.port n).exp + 4095) true false) := by
  refine congrArg Host.Outcome.next ?_
  rw [h]
  exact (if_neg fun k => absurd k.2 (Nat.one_le_iff_ne_zero.1 h1)).trans (if_pos ⟨rfl, h2⟩)

theorem exec_data_gap (h : s.rxFlit n f = (some ok, u)) (hb : ok = false ∨ 2048 < seqAhead f.seq (u.port n).exp) :
    exec (.dataFlitReceive n f) s = .next (if (u.port n).awaitingExp then u
      else (u.setPort n { u.port n with awaitingExp := true }).bareFlit n 1 ((u.port n).exp + 4095) true true) := by
  refine congrArg Host.Outcome.next ?_
  rw [h]
  have h1 : ¬ (ok = true ∧ seqAhead f.seq (u.port n).exp = 0) := by
    rintro ⟨rfl, h0⟩
    have := hb.resolve_left (by simp)
    omega
  have h2 : ¬ (ok = true ∧ seqAhead f.seq (u.port n).exp ≤ 2048) := by
    rintro ⟨rfl, h0⟩
    have := hb.resolve_left (by simp)
    omega
  exact (if_neg h1).trans (if_neg h2)

/-- A flit that leaves a gap or fails its checks, counted. -/
theorem State.rxFlit_gap (h : s.flag (.port n) Reg.PORT_STAT_LINK_UP = true) (hd : s.disarmed)
    (hb : f.fecOk = false ∨ f.crcOk = false ∨ 2048 < seqAhead f.seq (s.port n).exp) :
    ∃ ok u, s.rxFlit n f = (some ok, u) ∧ (ok = false ∨ 2048 < seqAhead f.seq (u.port n).exp) ∧ s.changes u [] [] (rxBadCounts n) ∧
      s.counted u (.port n) 0x98 (!f.fecOk).toNat ∧ s.counted u (.port n) 0xA0 (f.fecOk && !f.crcOk).toNat ∧
      s.counted u (.port n) 0x88 ∧ s.counted u (.port n) 0x90 f.fecCorrected.toNat := by
  by_cases hbad : f.fecOk = false ∨ f.crcOk = false
  · exact ⟨false, _, State.rxFlit_bad h hd hbad, .inl rfl, State.rxBad_changes, State.rxBad_counted hbad⟩
  · simp only [not_or, Bool.not_eq_false] at hbad
    obtain ⟨h1, h2⟩ := hbad
    have hc := State.rxSeen_changes (s := s) (n := n) (f := f)
    obtain ⟨k1, k2⟩ := State.rxSeen_counted (s := s) (n := n) (f := f)
    refine ⟨true, _, State.rxFlit_good h hd h1 h2, .inr ?_, State.changes_mono hc (fun _ h => h) (fun _ h => h) fun _ h => List.mem_append_left _ h,
      ?_, ?_, k1, k2⟩
    · rw [State.port_rxSeen]
      simpa [h1, h2] using hb
    · rw [h1]
      exact .zero hc (by simp [rxCounts])
    · rw [h1, h2]
      exact .zero hc (by simp [rxCounts])

/-! ## CONTROL and IDLE flits after their checks -/

theorem exec_control (h : s.rxFlit n f = (some true, u)) :
    exec (.controlFlitReceive n f) s = .next (u.piggyback n f) ∧ exec (.idleFlitReceive n f) s = .next (u.piggyback n f) := by
  constructor <;>
  · refine congrArg Host.Outcome.next ?_
    rw [h]
    exact if_pos rfl

theorem exec_control_other {r : Option Bool} (h : s.rxFlit n f = (r, u)) (hr : r ≠ some true) :
    exec (.controlFlitReceive n f) s = .next u ∧ exec (.idleFlitReceive n f) s = .next u := by
  constructor <;>
  · refine congrArg Host.Outcome.next ?_
    rw [h]
    exact if_neg hr

/-- What a flit without a payload that passes its checks does to its port. -/
theorem State.heard_told (hr : f.retryReq = false) : s.portSet ((s.rxSeen n f).piggyback n f) n ((s.port n).told f) (rxCounts n) ∧
    s.counted ((s.rxSeen n f).piggyback n f) (.port n) 0x88 ∧ s.counted ((s.rxSeen n f).piggyback n f) (.port n) 0x90 f.fecCorrected.toNat := by
  obtain ⟨w, hw, e⟩ := State.piggyback_told (s := s.rxSeen n f) (n := n) (f := f) (ns := [])
  rw [e, hr, if_neg Bool.false_ne_true]
  obtain ⟨k1, k2⟩ := State.rxSeen_counted (s := s) (n := n) (f := f)
  have hc := State.rxSeen_changes (s := s) (n := n) (f := f)
  rw [State.port_rxSeen] at hw
  refine ⟨⟨State.changes_trans (State.changes_mono hc (by simp) (fun _ h => h) fun _ h => h) (State.changes_mono hw.frame (fun _ h => h) (by simp) (by simp)),
    hw.port, ?_⟩, k1.after hw.frame, k2.after hw.frame⟩
  have := hw.others
  rwa [hc.1 .ports (by simp)] at this

/-- What a flit that asks for a replay does to its port. -/
theorem State.heard_replayed (hd : s.disarmed) (hr : f.retryReq = true) (h1 : ((s.port n).told f).held ≠ [])
    (h2 : ((s.port n).told f).replays < s.fld (.port n) Reg.PORT_CTRL_RETRY_MAX) :
    ∃ w, s.portSet w n ((s.port n).told f) (rxCounts n) ∧ w.replayed ((s.rxSeen n f).piggyback n f) n ∧
      s.counted w (.port n) 0x88 ∧ s.counted w (.port n) 0x90 f.fecCorrected.toNat := by
  obtain ⟨w, hw, e⟩ := State.piggyback_told (s := s.rxSeen n f) (n := n) (f := f) (ns := [])
  obtain ⟨k1, k2⟩ := State.rxSeen_counted (s := s) (n := n) (f := f)
  have hc := State.rxSeen_changes (s := s) (n := n) (f := f)
  rw [State.port_rxSeen] at hw
  have hf : w.fld (.port n) Reg.PORT_CTRL_RETRY_MAX = s.fld (.port n) Reg.PORT_CTRL_RETRY_MAX := (hw.frame.fld (by simp)).trans (hc.fld (by simp))
  rw [e, hr, if_pos rfl]
  refine ⟨w, ⟨State.changes_trans (State.changes_mono hc (by simp) (fun _ h => h) fun _ h => h) (State.changes_mono hw.frame (fun _ h => h) (by simp) (by simp)),
    hw.port, ?_⟩, State.replayAll_replayed (hw.frame.disarmed (hc.disarmed hd)) ?_ ?_, k1.after hw.frame, k2.after hw.frame⟩
  · have := hw.others
    rwa [hc.1 .ports (by simp)] at this
  · rw [hw.port]
    exact h1
  · rw [hw.port, hf]
    exact h2

/-! ## A flit that the injector drops -/

theorem State.changes.keepsIn {cs l : List Comp} {fs : List Place} {ns : List (Page × Nat)} (h : s.changes t cs fs ns)
    (hl : ∀ c ∈ Comp.regs :: Comp.cnt :: cs, c ∈ l) : s.keeps t l := fun c hc => h.1 c fun k => hc (hl c k)

/-- A flit is struck. -/
structure State.struck (s t : State) : Prop where
  count : t.finj.count = s.finj.count + 1
  counted : s.counted t .finj 0x80
  keeps : s.keeps t [.finj, .regs, .cnt]

/-- The state with the injector replaced. -/
def State.setFinj (s : State) (x : Finj) : State := { s with finj := x }

theorem State.changes.setFinj {x : Finj} {cs : List Comp} {fs : List Place} {ns : List (Page × Nat)} (h : s.changes t cs fs ns)
    (hm : .finj ∈ cs := by simp) : s.changes (t.setFinj x) cs fs ns :=
  h.upd (fun c hc => by cases c <;> first | rfl | exact absurd (by simp [hm]) hc) rfl rfl rfl

@[simp] theorem State.finj_setFinj {x : Finj} : (s.setFinj x).finj = x := by rw [State.setFinj]
@[simp] theorem State.fld_setFinj {x : Finj} {pg : Page} {f : Fld} {i : Nat} : (s.setFinj x).fld pg f i = s.fld pg f i :=
  State.fld_congr (by rw [State.setFinj]) (by rw [State.setFinj]) ..

/-- The injector after one more flit that it strikes. -/
def Finj.hit (x : Finj) : Finj := { lfsr := Config.lfsr x.lfsr, flits := x.flits + 1, count := x.count + 1 }

/-- The state after one more flit that the injector strikes. -/
def State.injected (s : State) (n : PortId) : State :=
  let u := (s.setFinj s.finj.hit).count .finj 0x80
  u.setFld .finj Reg.INJECTED_COUNT (min max64 (u.fld .finj Reg.INJECTED_COUNT n.val + 1)) n.val

theorem State.injectAt_every {rx : Bool} {only : Nat → Bool} (h1 : s.flag .finj Reg.FINJ_CTRL_ARM = true) (h2 : s.flag .finj Reg.FINJ_CTRL_DIR = rx)
    (h3 : s.fld .finj Reg.FINJ_CTRL_PORT = n.val) (h4 : only (s.fld .finj Reg.FINJ_CTRL_MODE) = true) (h5 : s.fld .finj Reg.FINJ_RATE_RATE_LOG2 = 0) :
    s.injectAt n rx only = (some (s.fld .finj Reg.FINJ_CTRL_MODE),
      if (s.injected n).fld .finj Reg.FINJ_LIMIT_LIMIT ≠ 0 ∧ (s.injected n).fld .finj Reg.FINJ_LIMIT_LIMIT ≤ s.finj.count + 1 then
        (s.injected n).setFld .finj Reg.FINJ_CTRL_ARM 0 else s.injected n) := by
  refine (if_neg (by simp [h1, h2, h3, h4])).trans ?_
  have hm (k : Nat) : (k % 2 ^ 0 == 0) = true := by simp [Nat.mod_one]
  dsimp only
  rw [h5, hm, hm, ite_self]
  rfl

theorem State.injectAt_struck {rx : Bool} {only : Nat → Bool} (h1 : s.flag .finj Reg.FINJ_CTRL_ARM = true) (h2 : s.flag .finj Reg.FINJ_CTRL_DIR = rx)
    (h3 : s.fld .finj Reg.FINJ_CTRL_PORT = n.val) (h4 : only (s.fld .finj Reg.FINJ_CTRL_MODE) = true) (h5 : s.fld .finj Reg.FINJ_RATE_RATE_LOG2 = 0) :
    (s.injectAt n rx only).1 = some (s.fld .finj Reg.FINJ_CTRL_MODE) ∧ s.struck (s.injectAt n rx only).2 := by
  have hc : s.changes (s.injected n) [.finj] [Reg.INJECTED_COUNT.place .finj n.val] [(.finj, 0x80)] := .setFld (.count (.setFinj .refl))
  have hcount : (s.injected n).finj.count = s.finj.count + 1 := by
    rw [State.injected, State.finj_setFld, State.finj_count, State.finj_setFinj]
    rfl
  have hcnt : s.counted (s.injected n) .finj 0x80 :=
    State.changes.counted (cs := [.finj]) (fs := []) (ns := []) (ds := []) (ms := []) (.setFinj .refl) (.setFld .refl (List.mem_singleton.2 rfl))
  rw [State.injectAt_every h1 h2 h3 h4 h5]
  refine ⟨rfl, ?_⟩
  dsimp only
  split
  · exact ⟨by rw [State.finj_setFld, hcount], hcnt.after (cs := []) (fs := [Reg.FINJ_CTRL_ARM.place .finj]) (ns := []) (.setFld .refl),
      (State.changes.setFld (fs := [Reg.INJECTED_COUNT.place .finj n.val, Reg.FINJ_CTRL_ARM.place .finj])
        (State.changes_mono hc (fun _ h => h) (by simp) fun _ h => h) (pg := .finj) (f := Reg.FINJ_CTRL_ARM) (i := 0) (by simp)).keepsIn (by simp)⟩
  · exact ⟨hcount, hcnt, hc.keepsIn (by simp)⟩

end

/-- Settles O6, flit by flit. -/
theorem flitsAreReceivedInOrder : Obligations.FlitsAreReceivedInOrder := by
  refine ⟨fun s n f h hd h1 h2 hr hb => ?_, fun s n f h hd h1 h2 h3 h4 => ?_, fun s n f h hd hb => ?_, fun s n f h hd h1 h2 hr => ?_,
    fun s n f h hd hb => ?_, fun s n f h hd h1 h2 hr => ?_, fun s n f h hd hb => ?_, fun s n f h hd h1 h2 hr h3 h4 => ?_,
    fun s n f h h1 h2 h3 h4 h5 => ?_, fun s n f h => ?_⟩
  · rw [← State.port_rxSeen (f := f)] at hb
    refine completes.next ?_ (exec_data_accepted (State.rxFlit_good h hd h1 h2) hb)
    have hc := State.rxSeen_changes (s := s) (n := n) (f := f)
    obtain ⟨k1, k2⟩ := State.rxSeen_counted (s := s) (n := n) (f := f)
    obtain ⟨u, hu⟩ : ∃ u, u = s.rxSeen n f := ⟨_, rfl⟩
    rw [← hu] at hc k1 k2
    have hp : u.port n = s.port n := hu ▸ State.port_rxSeen
    have hset : u.portSet (u.setPort n ((u.port n).accepting u.now f)) n ((u.port n).accepting u.now f) [] := State.portSet_setPort
    obtain ⟨w, hw, e⟩ := State.piggyback_told (s := u.setPort n ((u.port n).accepting u.now f)) (n := n) (f := f) (ns := [])
    rw [← hu, e, hr, if_neg Bool.false_ne_true]
    rw [State.port_setPort_same] at hw
    have hall := hset.trans hw
    refine ⟨?_, ?_, k1.after hall.frame, k2.after hall.frame, State.changes_trans (State.changes_mono hc (by simp) (fun _ h => h) fun _ h => h)
      (State.changes_mono hall.frame (fun _ h => h) (by simp) (by simp))⟩
    · rw [hall.port, hp, hc.1 .now (by simp)]
      rfl
    · have := hall.others
      rwa [hc.1 .ports (by simp)] at this
  · rw [← State.port_rxSeen (f := f)] at h3 h4
    refine completes.next ?_ (exec_data_duplicate (State.rxFlit_good h hd h1 h2) h3 h4)
    have hc := State.rxSeen_changes (s := s) (n := n) (f := f)
    obtain ⟨k1, k2⟩ := State.rxSeen_counted (s := s) (n := n) (f := f)
    obtain ⟨u, hu⟩ : ∃ u, u = (s.rxSeen n f).count (.port n) 0xB0 := ⟨_, rfl⟩
    have hcu : s.changes u [] [] (rxCounts n ++ [(.port n, 0xB0)]) := by
      rw [hu]
      exact .count (State.changes_mono hc (by simp) (fun _ h => h) fun _ h => List.mem_append_left _ h)
    have hp : u.port n = s.port n := State.port_congr (hcu.1 .ports (by simp))
    have hpx : (s.rxSeen n f).port n = u.port n := hp ▸ State.port_rxSeen
    have hs := State.bareFlit_sent (n := n) (kind := 1) (av := true) (retry := false) (hcu.disarmed hd)
    rw [← hu, hpx]
    rw [hp] at hs ⊢
    have hB0 : s.counted u (.port n) 0xB0 := by
      rw [hu]
      exact .before hc State.counted_count (by simp [rxCounts])
    have hsu : (s.rxSeen n f).changes u [] [] [(.port n, 0xB0)] := by
      rw [hu]
      exact .count .refl
    exact ⟨by rw [hs.out, hcu.1 .out (by simp)], hs.port, hB0.after hs.frame, (k1.after hsu).after hs.frame, (k2.after hsu).after hs.frame,
      State.changes_trans (State.changes_mono hcu (by simp) (fun _ h => h) (by simp [rxCounts])) (State.changes_mono hs.frame (fun _ h => h) (by simp) (by simp))⟩
  · obtain ⟨ok, u, hrx, hgap, hc, k1, k2, k3, k4⟩ := State.rxFlit_gap h hd hb
    refine completes.next ?_ (exec_data_gap hrx hgap)
    have hp : u.port n = s.port n := State.port_congr (hc.1 .ports (by simp))
    rw [hp]
    cases ha : (s.port n).awaitingExp
    · obtain ⟨x, hx⟩ : ∃ x : Port, x = { s.port n with awaitingExp := true } := ⟨_, rfl⟩
      have hset : u.portSet (u.setPort n x) n x [] := State.portSet_setPort
      have hs := State.bareFlit_sent (n := n) (kind := 1) (av := true) (retry := true) (hset.frame.disarmed (hc.disarmed hd))
      rw [hset.port] at hs
      rw [show (s.port n).exp = x.exp by rw [hx], ← hx]
      have hframe := State.changes_trans (State.changes_mono hset.frame (by simp) (fun _ h => h) (by simp)) hs.frame
      refine ⟨?_, ?_, k1.after hframe, k2.after hframe, k3.after hframe, k4.after hframe,
        State.changes_trans (State.changes_mono hc (by simp) (fun _ h => h) (by simp [rxBadCounts, rxCounts])) (State.changes_mono hframe (fun _ h => h) (by simp) (by simp))⟩
      · rw [if_neg Bool.false_ne_true, if_neg Bool.false_ne_true, hs.out, State.out_setPort, hc.1 .out (by simp), hx]
        rfl
      · rw [if_neg Bool.false_ne_true, if_neg Bool.false_ne_true, hs.port, hx]
        rfl
    · rw [if_pos rfl, if_pos rfl, if_pos rfl]
      exact ⟨by rw [hc.1 .out (by simp), List.append_nil], hp, k1, k2, k3, k4, State.changes_mono hc (by simp) (fun _ h => h) (by simp [rxBadCounts, rxCounts])⟩
  · obtain ⟨k, k1, k2⟩ := State.heard_told (s := s) (n := n) hr
    exact completes.next ⟨k.port, k.others, k1, k2, k.frame⟩ (exec_control (State.rxFlit_good h hd h1 h2)).1
  · obtain ⟨k1, k2, k3, k4⟩ := State.rxBad_counted (s := s) (n := n) hb
    exact completes.next ⟨k1, k2, k3, k4, State.rxBad_changes⟩ (exec_control_other (State.rxFlit_bad h hd hb) (by simp)).1
  · obtain ⟨k, k1, k2⟩ := State.heard_told (s := s) (n := n) hr
    exact completes.next ⟨k.port, k.others, k1, k2, k.frame⟩ (exec_control (State.rxFlit_good h hd h1 h2)).2
  · obtain ⟨k1, k2, k3, k4⟩ := State.rxBad_counted (s := s) (n := n) hb
    exact completes.next ⟨k1, k2, k3, k4, State.rxBad_changes⟩ (exec_control_other (State.rxFlit_bad h hd hb) (by simp)).2
  · obtain ⟨w, hw, hrep, k1, k2⟩ := State.heard_replayed (s := s) (n := n) hd hr h3 h4
    refine completes.next ?_ (exec_control (State.rxFlit_good h hd h1 h2)).1
    have hp := hrep.port
    have ho := hrep.out
    have ha := hrep.again
    have hse := hrep.sent
    rw [hw.port] at hp ho ha hse
    rw [hw.frame.1 .now (by simp)] at hp
    rw [hw.frame.1 .out (by simp)] at ho
    exact ⟨hp, ho, .before hw.frame ha (by simp [rxCounts]), .before hw.frame hse (by simp [rxCounts]), othersSame_trans hw.others hrep.others,
      k1.after hrep.frame, k2.after hrep.frame,
      State.changes_trans (State.changes_mono hw.frame (by simp) (fun _ h => h) (by simp [rxCounts])) (State.changes_mono hrep.frame (fun _ h => h) (by simp) (by simp))⟩
  · obtain ⟨k1, k2⟩ := State.injectAt_struck (n := n) (only := flitMode) h1 h2 h3 (by rw [h4]; rfl) h5
    rw [h4] at k1
    have hrx : s.rxFlit n f = (none, (s.injectAt n true flitMode).2) := (if_neg (by simp [h])).trans (if_pos k1)
    exact ⟨_, exec_data_dropped hrx, (exec_control_other hrx (by simp)).1, (exec_control_other hrx (by simp)).2, k2.count, k2.counted, k2.keeps⟩
  · have hrx := State.rxFlit_of_down (f := f) h
    exact ⟨exec_data_dropped hrx, exec_control_other hrx (by simp)⟩

end Sys2Proof.Machine
end

section
/-! PROOFS. O7: sent flits, acknowledgements and replays (R200 to R202). -/

namespace Sys2Proof.Machine
open Sys2Proof

section
variable {s t u : State} {n : PortId} {c : Nat} {x : Port}

/-- A port that sends the next bytes of the head packet of a class, and the flit. -/
def Port.flitOf (x : Port) (c : Nat) : List Byte :=
  let cr := x.creditsBack.headD (0, 0)
  mkFlit x.seqNext (x.exp + 4095) (decide (x.rxUnacked ≠ 0)) cr.1 cr.2 (!x.mid.contains c) c ((x.queue c).headD [])

/-- What is left of a class after the flit. -/
def Port.restOf (x : Port) (c : Nat) : List (List Byte) :=
  if (((x.queue c).headD []).drop 244).isEmpty then (x.queue c).drop 1 else ((x.queue c).headD []).drop 244 :: (x.queue c).drop 1

def Port.sending (x : Port) (c now : Nat) : Port :=
  let cr := x.creditsBack.headD (0, 0)
  { x with
    seqNext := (x.seqNext + 1) % 4096, held := x.held ++ [(x.seqNext, now, x.flitOf c)]
    credits := Map.set 0 x.credits c (Map.get 0 x.credits c - 1), queues := Map.set [] x.queues c (x.restOf c)
    mid := if (((x.queue c).headD []).drop 244).isEmpty then x.mid.filter (· ≠ c) else c :: x.mid.filter (· ≠ c), rxUnacked := 0
    creditsBack := Map.set 0 x.creditsBack cr.1 (cr.2 - min cr.2 8191) }

/-- What FLIT_TRANSMIT does with the link up and no packet held red. -/
def State.transmit (s : State) (n : PortId) : State :=
  if (.portLp n : LpUnit) ∈ s.pwr.inMode then if (s.port n).queues.isEmpty then s else s.wakeUnit (.portLp n)
  else if (.portLp n : LpUnit) ∈ s.pwr.waking then s
  else if (s.port n).queues.isEmpty ∨ 2048 ≤ (s.port n).held.length then s.idleFlit n
  else
    match s.nextClass n (s.port n) with
    | none => (s.count (.port n) 0xD8).idleFlit n
    | some (c, x) => (s.setPort n (x.sending c s.now)).txFlit n 0 x.seqNext false (x.flitOf c)

theorem exec_flitTransmit (h : s.flag (.port n) Reg.PORT_STAT_LINK_UP = true) (hw : (s.port n).waiting = []) :
    exec (.flitTransmit n) s = .next (s.transmit n) := by
  have e : (if s.flag (.port n) Reg.PORT_STAT_LINK_UP then s.retryReds n else s) = s := by
    rw [if_pos h, State.retryReds, hw]
    rfl
  refine congrArg Host.Outcome.next ?_
  dsimp only
  rw [e, if_neg (by simp [h])]
  rfl

theorem exec_flitAckTimer (h : s.flag (.port n) Reg.PORT_STAT_LINK_UP = true) (h1 : (s.port n).rxUnacked ≠ 0)
    (h2 : 32 ≤ (s.port n).rxUnacked ∨ (s.port n).rxFrom + 100 ≤ s.now) :
    exec (.flitAckTimer n) s = .next (s.bareFlit n 1 ((s.port n).exp + 4095) true false) :=
  congrArg Host.Outcome.next (if_pos ⟨h, h1, h2⟩)

theorem exec_flitReplayTimeout {q t0 : Nat} {b : List Byte} {rest : List (Nat × Nat × List Byte)}
    (h : s.flag (.port n) Reg.PORT_STAT_LINK_UP = true) (hh : (s.port n).held = (q, t0, b) :: rest)
    (ht : t0 + s.fld (.port n) Reg.PORT_CTRL_ACK_TO_NS ≤ s.now) : exec (.flitReplayTimeout n) s = .next (s.replayAll n) := by
  refine congrArg Host.Outcome.next ?_
  rw [hh]
  exact if_pos ⟨h, ht⟩

theorem State.replayAll_lost (h1 : (s.port n).held ≠ []) (h2 : s.fld (.port n) Reg.PORT_CTRL_RETRY_MAX ≤ (s.port n).replays) :
    s.replayAll n = s.linkLost n := (if_neg (by simpa using h1)).trans (if_pos h2)

theorem Port.drop_isEmpty {l : List Byte} : (l.drop 244).isEmpty = true ↔ ¬ 244 < l.length := by
  rw [List.isEmpty_iff, List.drop_eq_nil_iff, Nat.not_lt]

theorem Port.queue_sending {now : Nat} : (x.sending c now).queue c = x.restOf c := Map.get_set_same ..

theorem Port.mem_mid_sending {now : Nat} : c ∈ (x.sending c now).mid ↔ 244 < ((x.queue c).headD []).length := by
  simp only [Port.sending]
  split
  next h => simpa using Port.drop_isEmpty.1 h
  next h =>
    rw [Port.drop_isEmpty, not_not] at h
    simp only [List.mem_cons, true_or, h]

theorem Port.restOf_eq : x.restOf c = if 244 < ((x.queue c).headD []).length then ((x.queue c).headD []).drop 244 :: (x.queue c).drop 1
    else (x.queue c).drop 1 := by
  rw [Port.restOf]
  by_cases h : 244 < ((x.queue c).headD []).length
  · rw [if_pos h, if_neg (by rw [Port.drop_isEmpty, not_not]; exact h)]
  · rw [if_neg h, if_pos (Port.drop_isEmpty.2 h)]

/-- TC0 goes first, then TC1. -/
theorem State.nextClass_strict (h : x.isReady 0 = true ∨ x.isReady 1 = true) : s.nextClass n x = if x.isReady 0 then some (0, x) else some (1, x) := by
  rw [State.nextClass]
  cases h0 : x.isReady 0
  · rw [h.resolve_left (by simp [h0])]
    rfl
  · rfl

theorem State.idleFlit_sent (h : s.disarmed) : s.bareSent (s.idleFlit n) n 2 (decide ((s.port n).rxUnacked ≠ 0)) false (s.port n) :=
  State.bareFlit_sent h

end

/-- Settles O7, command by command. -/
theorem flitsAreSentAndReplayed : Obligations.FlitsAreSentAndReplayed := by
  refine ⟨fun s n c x h hd h1 h2 h3 h4 h5 h6 => ?_, fun s n h hd h1 h2 h3 h4 h5 h6 => ?_, fun s n h hd h2 h3 h4 h5 => ?_,
    fun s n h h1 h2 h3 => ?_, fun s n h hd h1 h2 => ?_, fun s n q t0 b rest h hd h1 h2 h3 => ?_, fun s n q t0 b rest h h1 h2 h3 => ?_,
    fun s n x h => State.nextClass_strict h⟩
  · have hq : ¬ ((s.port n).queues.isEmpty = true ∨ 2048 ≤ (s.port n).held.length) := by simp [h1, h4]
    have e : s.transmit n = (s.setPort n (x.sending c s.now)).txFlit n 0 x.seqNext false (x.flitOf c) := by
      rw [State.transmit, if_neg h2, if_neg h3, if_neg hq, h6]
    have hset : s.portSet (s.setPort n (x.sending c s.now)) n (x.sending c s.now) [(.port n, 0x80)] := State.portSet_setPort
    rw [State.txFlit_of_disarmed (hset.frame.disarmed hd)] at e
    have hcnt := hset.count (pg := .port n) (o := 0x80) (a := 1)
    obtain ⟨w, hw⟩ : ∃ w, w = (s.setPort n (x.sending c s.now)).count (.port n) 0x80 := ⟨_, rfl⟩
    rw [← hw] at e hcnt
    have hout : w.out = s.out := hcnt.frame.1 .out (by simp)
    have hcw : s.counted w (.port n) 0x80 := by
      rw [hw]
      exact .before (cs := [.ports]) (fs := []) (ns := []) (.setPort .refl) State.counted_count
    refine completes.next ?_ ((exec_flitTransmit h h5).trans (congrArg _ e))
    have hp : (w.send (.flit n 0 x.seqNext false (x.flitOf c))).port n = x.sending c s.now := hcnt.port
    rw [hp]
    refine ⟨⟨?_, rfl, ?_, Port.mem_mid_sending⟩, rfl, Map.get_set_same .., rfl, hcw.after (cs := [.out]) (fs := []) (ns := []) (.send .refl), hcnt.others,
      .send (State.changes_mono hcnt.frame (by simp) (fun _ h => h) fun _ h => h)⟩
    · rw [State.send, hout]
      rfl
    · rw [Port.queue_sending, Port.restOf_eq]
  · have hq : ¬ ((s.port n).queues.isEmpty = true ∨ 2048 ≤ (s.port n).held.length) := by simp [h1, h4]
    have e : s.transmit n = (s.count (.port n) 0xD8).idleFlit n := by
      rw [State.transmit, if_neg h2, if_neg h3, if_neg hq, h6]
    have hc : s.changes (s.count (.port n) 0xD8) [] [] [(.port n, 0xD8)] := .count .refl
    have hp : (s.count (.port n) 0xD8).port n = s.port n := State.port_congr (State.ports_count ..)
    have hs := State.idleFlit_sent (n := n) (hc.disarmed hd)
    rw [hp] at hs
    refine completes.next ?_ ((exec_flitTransmit h h5).trans (congrArg _ e))
    have ho := hs.others
    rw [State.ports_count] at ho
    exact ⟨by rw [hs.out, State.out_count], hs.port, ho, State.counted_count.after hs.frame, .before hc hs.count,
      State.changes_trans (State.changes_mono hc (by simp) (fun _ h => h) (by simp)) (State.changes_mono hs.frame (fun _ h => h) (by simp) (by simp))⟩
  · have e : s.transmit n = s.idleFlit n := by
      rw [State.transmit, if_neg h2, if_neg h3, if_pos (h4.imp List.isEmpty_iff.2 id)]
    have hs := State.idleFlit_sent (n := n) hd
    exact completes.next ⟨hs.out, hs.port, hs.others, hs.count, hs.frame⟩ ((exec_flitTransmit h h5).trans (congrArg _ e))
  · have e : s.transmit n = s.wakeUnit (.portLp n) := by
      rw [State.transmit, if_pos h3, if_neg (by simpa using h1)]
    exact completes.next ⟨fun hm => (State.mem_inMode_wakeUnit.1 hm).2 rfl, State.mem_waking_wakeUnit.2 (.inr ⟨rfl, h3⟩), State.counted_wakeUnit h3,
      State.wakeUnit_changes⟩ ((exec_flitTransmit h h2).trans (congrArg _ e))
  · have hs := State.bareFlit_sent (n := n) (kind := 1) (av := true) (retry := false) hd
    exact completes.next ⟨hs.out, hs.port, hs.others, hs.count, hs.frame⟩ (exec_flitAckTimer h h1 h2)
  · have hr := State.replayAll_replayed hd (by rw [h1]; exact List.cons_ne_nil _ _) h3
    exact completes.next ⟨hr.port, hr.out, hr.again, hr.sent, hr.others, hr.frame⟩ (exec_flitReplayTimeout h h1 h2)
  · have hne : (s.port n).held ≠ [] := by rw [h1]; exact List.cons_ne_nil _ _
    refine completes.next ?_ ((exec_flitReplayTimeout h h1 h2).trans (congrArg _ (State.replayAll_lost hne h3)))
    have k := State.linkLost_down h
    exact ⟨k.up, by rw [k.port]; rfl, k.count, State.linkLost_changes⟩

end Sys2Proof.Machine
end

section
/-! PROOFS. O8: the policer of a port, and the injector's configuration (R203 to R205). -/

namespace Sys2Proof.Machine
open Sys2Proof

section
variable {s t u : State} {n : PortId} {c len lc lp : Nat} {b : List Byte} {x : Port} {pg : Page} {f g : Fld} {i v : Nat} {r r1 r2 : Bool}

/-! ## Colours -/

/-- A port's levels of a class after a packet, at a time. -/
def Port.charged (x : Port) (c tc tp time : Nat) : Port :=
  { x with tcLvl := Map.set 0 x.tcLvl c tc, tpLvl := Map.set 0 x.tpLvl c tp, tLast := Map.set 0 x.tLast c time }

theorem State.police_red (h : (s.policer n c).2 < len * 10) : s.police n c len = none := if_pos h

/-- A packet that the peak level holds passes, and is counted when the committed level does not hold it. -/
theorem State.police_passes (hl : s.policer n c = (lc, lp)) (h : len * 10 ≤ lp) : ∃ u, s.police n c len = some u ∧
    s.portSet u n ((s.port n).charged c (if len * 10 ≤ lc then lc - len * 10 else lc) (lp - len * 10) (s.now + 1)) [(.port n, 0xC0)] ∧
    s.counted u (.port n) 0xC0 (if len * 10 ≤ lc then 0 else 1) := by
  have hset (y : Port) : s.portSet (s.setPort n y) n y [(.port n, 0xC0)] := State.portSet_setPort
  unfold State.police
  rw [hl]
  dsimp only
  rw [if_neg (Nat.not_lt.2 h)]
  by_cases hc : len * 10 ≤ lc
  · rw [if_neg (Nat.not_lt.2 hc), if_pos hc, if_pos hc]
    exact ⟨_, rfl, hset _, .zero (cs := [.ports]) (fs := []) (ns := []) (.setPort .refl)⟩
  · rw [if_pos (Nat.lt_of_not_le hc), if_neg hc, if_neg hc]
    exact ⟨_, rfl, (hset _).count, .before (cs := [.ports]) (fs := []) (ns := []) (.setPort .refl) State.counted_count⟩

/-- The levels of a class depend on the port's levels, its policer words and the time. -/
theorem State.policer_setPort (h1 : x.tLast = (s.port n).tLast) (h2 : x.tcLvl = (s.port n).tcLvl) (h3 : x.tpLvl = (s.port n).tpLvl) :
    (s.setPort n x).policer n c = s.policer n c := by
  simp only [State.policer, State.port_setPort_same, State.fld_setPort, State.now_setPort, h1, h2, h3]

/-! ## Classes -/

/-- A port with one more packet in a class. -/
def Port.enqueued (x : Port) (c : Nat) (b : List Byte) : Port := { x with queues := Map.set [] x.queues c (x.queue c ++ [b]), delayed := [] }

theorem State.enqueue_of_disarmed (h : s.disarmed) (hd : (s.port n).delayed = []) : s.enqueue n c b = s.setPort n ((s.port n).enqueued c b) := by
  rw [State.enqueue, State.injectAt_of_disarmed h]
  dsimp only
  rw [hd]
  rfl

/-- A port with a packet waiting at the head of a class. -/
def Port.holding (x : Port) (c : Nat) (l : List (List Byte)) : Port := { x with waiting := Map.set [] x.waiting c l }

/-- A port whose head packet of a class passes. -/
def Port.released (x : Port) (c : Nat) : Port := { x with waiting := Map.set [] x.waiting c [], redCounted := x.redCounted.filter (· ≠ c) }

/-- A port whose head packet of a class is counted red. -/
def Port.reddened (x : Port) (c : Nat) : Port := { x with redCounted := c :: x.redCounted }

theorem State.retryRed_passes {k : Nat} (hw : Map.get [] (s.port n).waiting c = [b]) (hp : s.police n c b.length = some u) :
    s.retryRed n c (k + 2) = ((u.setPort n ((u.port n).released c)).enqueue n c b).retryRed n c (k + 1) := by
  rw [State.retryRed, hw]
  dsimp only
  rw [hp]
  rfl

theorem State.retryRed_none {k : Nat} (hw : Map.get [] (s.port n).waiting c = []) : s.retryRed n c k = s := by
  cases k with
  | zero => rfl
  | succ k => rw [State.retryRed, hw]

theorem State.retryRed_red {k : Nat} (hw : Map.get [] (s.port n).waiting c = [b]) (hp : s.police n c b.length = none) :
    s.retryRed n c (k + 1) = if c ∈ (s.port n).redCounted then s else (s.setPort n ((s.port n).reddened c)).count (.port n) 0xC8 := by
  rw [State.retryRed, hw]
  dsimp only
  rw [hp]
  rfl

theorem exec_packetEnter {k : Fin 8} (h : k ≠ 7) (hw : Map.get [] (s.port n).waiting k.val = []) :
    exec (.packetEnterPort n k b) s = .next ((s.setPort n ((s.port n).holding k.val [b])).retryRed n k.val 2) := by
  refine congrArg Host.Outcome.next ((if_neg fun e => h (Fin.ext e)).trans ?_)
  rw [hw]
  rfl

theorem exec_packetEnter7 : exec (.packetEnterPort n 7 b) s = .next (match s.police n 7 b.length with
    | some s => s.enqueue n 7 b
    | none => (s.count (.port n) 0xD0).send (.packetDrop n 7)) := congrArg Host.Outcome.next (if_pos rfl)

/-! ## Fields that a write gives, one by one -/

/-- A field that was refused, or not, as the page's errors show it. -/
structure State.noted (s t : State) (pg : Page) (r : Bool) : Prop where
  code : t.fld pg Reg.PG_ERR_CODE = if r then 0x0E else s.fld pg Reg.PG_ERR_CODE
  multi : t.fld pg Reg.PG_ERR_MULTI = if r then (s.fld pg Reg.PG_ERR_CODE != 0 || s.flag pg Reg.PG_ERR_MULTI).toNat else s.fld pg Reg.PG_ERR_MULTI
  errors : s.counted t pg 0x50 r.toNat
  writes : s.counted t pg 0x68 r.toNat

/-- Fields that hold no error. -/
def besideErrors (pg : Page) (fs : List Place) : Prop :=
  ∀ x ∈ fs, Place.apart x (Reg.PG_ERR_CODE.place pg) ∧ Place.apart x (Reg.PG_ERR_MULTI.place pg)

theorem State.noted.after {cs : List Comp} {fs : List Place} (h : s.noted t pg r) (k : t.changes u cs fs []) (hf : besideErrors pg fs) :
    s.noted u pg r :=
  ⟨(k.fld fun x hx => (hf x hx).1).trans h.code, (k.fld fun x hx => (hf x hx).2).trans h.multi, h.errors.after k, h.writes.after k⟩

theorem State.noted.before {cs : List Comp} {fs : List Place} (h : s.changes t cs fs []) (k : t.noted u pg r) (hf : besideErrors pg fs) :
    s.noted u pg r := by
  obtain ⟨k1, k2, k3, k4⟩ := k
  rw [State.flag, h.fld fun x hx => (hf x hx).1, h.fld fun x hx => (hf x hx).2] at k2
  rw [h.fld fun x hx => (hf x hx).1] at k1
  exact ⟨k1, k2, .before h k3, .before h k4⟩

/-- Two fields, of which one at least was refused. -/
theorem State.noted.twice (h : s.noted t pg r1) (k : t.noted u pg r2) (hr : r1 = true ∨ r2 = true) : u.fld pg Reg.PG_ERR_CODE = 0x0E ∧
    u.fld pg Reg.PG_ERR_MULTI = (s.fld pg Reg.PG_ERR_CODE != 0 || s.flag pg Reg.PG_ERR_MULTI || r1 && r2).toNat ∧
    s.counted u pg 0x50 (r1.toNat + r2.toNat) ∧ s.counted u pg 0x68 (r1.toNat + r2.toNat) := by
  refine ⟨?_, ?_, h.errors.trans k.errors, h.writes.trans k.writes⟩
  · rw [k.code, h.code]
    rcases hr with rfl | rfl <;> simp
  · rw [k.multi, State.flag, h.code, h.multi]
    cases r1
    · rw [hr.resolve_left (by simp)]
      simp [State.flag]
    · cases r2 <;> simp

theorem State.noted.erred (h : s.noted t pg r1) (k : t.noted u pg r2) (hr : r1 = !r2) : s.erred u pg 0x0E ∧ s.counted u pg 0x68 := by
  obtain ⟨k1, k2, k3, k4⟩ := h.twice k (by cases r2 <;> simp_all)
  have h1 : r1.toNat + r2.toNat = 1 := by cases r2 <;> simp_all
  have h2 : (r1 && r2) = false := by cases r2 <;> simp_all
  rw [h2, Bool.or_false] at k2
  rw [h1] at k3 k4
  exact ⟨⟨k1, k2, k3⟩, k4⟩

/-- A field takes its value, or is refused. -/
structure State.fieldTaken (s t : State) (pg : Page) (f : Fld) (i v : Nat) (r : Bool) : Prop where
  frame : s.changes t [] (f.place pg i :: errPlaces pg) [(pg, 0x50), (pg, 0x68)]
  fld : t.fld pg f i = if r then s.fld pg f i else v
  noted : s.noted t pg r

theorem State.tcField_taken (hv : v < 2 ^ f.width) (hf : besideErrors pg [f.place pg i]) : s.fieldTaken (s.tcField pg f v i r) pg f i v r := by
  obtain ⟨h1, h2⟩ := hf _ (List.mem_singleton.2 rfl)
  unfold State.tcField
  cases r
  · have hc : s.changes (s.setFld pg f v i) [] [f.place pg i] [] := .setFld .refl
    refine ⟨State.changes_mono hc (by simp) (by simp) (by simp), State.fld_setFld_of_lt _ hv, ?_⟩
    exact ⟨hc.fld (by simpa using h1), hc.fld (by simpa using h2), .zero hc, .zero hc⟩
  · obtain ⟨⟨k1, k2, k3⟩, k4⟩ := State.changes.refused (s := s) (u := s) (cs := []) (fs := []) (ns := []) .refl (pg := pg) (by simp) (by simp)
    refine ⟨.rsvEnc .refl, ?_, ⟨k1, k2, k3, k4⟩⟩
    rw [if_pos rfl, if_pos rfl, (State.rsvEnc_changes s pg).fld]
    intro y hy
    simp only [errPlaces, List.mem_cons, List.not_mem_nil, or_false] at hy
    rcases hy with rfl | rfl
    · exact h1.symm
    · exact h2.symm

end

end Sys2Proof.Machine
end

section
/-! PROOFS. O8: writes of the policer words and of the injector's configuration (R204, R205). -/

namespace Sys2Proof.Machine
open Sys2Proof

section
variable {s t u : State} {n : PortId} {c : Fin 8} {v : Word}

/-! ## PORT_TC_WRITE -/

theorem exec_portTcWrite0 (h : s.ready (.port n) = true) :
    (¬ (s.fld (.port n) Reg.PORT_TC_CIR c.val < bits v.toNat 0 16 ∧ 1000 < s.cirSum n c.val (bits v.toNat 0 16)) →
      exec (.portTcWrite n c 0 v) s = .next (if bits v.toNat 16 16 < bits v.toNat 0 16 then s.rsvEnc (.port n)
        else (s.setFld (.port n) Reg.PORT_TC_CIR (bits v.toNat 0 16) c.val).setFld (.port n) Reg.PORT_TC_PIR (bits v.toNat 16 16) c.val)) ∧
    (s.fld (.port n) Reg.PORT_TC_CIR c.val < bits v.toNat 0 16 ∧ 1000 < s.cirSum n c.val (bits v.toNat 0 16) →
      exec (.portTcWrite n c 0 v) s = .next (if bits v.toNat 16 16 < s.fld (.port n) Reg.PORT_TC_CIR c.val then
          ((s.err (.port n) 0x01).irq (.port n) 1).rsvEnc (.port n)
        else (((s.err (.port n) 0x01).irq (.port n) 1).setFld (.port n) Reg.PORT_TC_CIR (s.fld (.port n) Reg.PORT_TC_CIR c.val) c.val).setFld
          (.port n) Reg.PORT_TC_PIR (bits v.toNat 16 16) c.val)) := by
  constructor
  · intro hc
    refine congrArg Host.Outcome.next ((State.ifReady_pos h _).trans ?_)
    dsimp only
    rw [if_neg hc, if_neg hc]
  · intro hc
    refine congrArg Host.Outcome.next ((State.ifReady_pos h _).trans ?_)
    dsimp only
    rw [if_pos hc, if_pos hc]

theorem exec_portTcWrite1 (h : s.ready (.port n) = true) : exec (.portTcWrite n c 1 v) s = .next (
    (s.tcField (.port n) Reg.PORT_TC_CBS (bits v.toNat 0 16) c.val (decide (bits v.toNat 0 16 < 32))).tcField (.port n) Reg.PORT_TC_PBS
      (bits v.toNat 16 16) c.val (decide (bits v.toNat 16 16 < 32))) := congrArg Host.Outcome.next (State.ifReady_pos h _)

theorem exec_portTcWrite2 (h : s.ready (.port n) = true) : exec (.portTcWrite n c 2 v) s = .next (
    (s.tcField (.port n) Reg.PORT_TC_WEIGHT (bits v.toNat 0 8) c.val (bits v.toNat 0 8 == 0)).tcField (.port n) Reg.PORT_TC_BURST
      (bits v.toNat 16 16) c.val (decide (bits v.toNat 16 16 < 32))) := congrArg Host.Outcome.next (State.ifReady_pos h _)

/-- The fields of the policer's words lie beside the page's errors. -/
theorem tcField_beside {f : Fld} (h : Reg.PG_ERR_CODE.below f = true ∧ Reg.PG_ERR_MULTI.below f = true) {i : Nat} :
    besideErrors (.port n) [f.place (.port n) i] := by
  intro x hx
  rw [List.mem_singleton] at hx
  subst hx
  exact ⟨(Place.apart_of_below h.1).symm, (Place.apart_of_below h.2).symm⟩

/-- Two fields of a word of a class take their values, one after the other. -/
theorem State.tcFields_taken {f g : Fld} {i lo hi : Nat} {bf bg : Bool} (hlo : lo < 2 ^ f.width) (hhi : hi < 2 ^ g.width)
    (hf : Reg.PG_ERR_CODE.below f = true ∧ Reg.PG_ERR_MULTI.below f = true) (hg : Reg.PG_ERR_CODE.below g = true ∧ Reg.PG_ERR_MULTI.below g = true)
    (h1 : f.rowsApart g = true) (h2 : g.rowsApart f = true) :
    ∃ u, s.fieldTaken u (.port n) f i lo bf ∧
      u.fieldTaken ((s.tcField (.port n) f lo i bf).tcField (.port n) g hi i bg) (.port n) g i hi bg ∧
      ((s.tcField (.port n) f lo i bf).tcField (.port n) g hi i bg).fld (.port n) f i = (if bf then s.fld (.port n) f i else lo) ∧
      ((s.tcField (.port n) f lo i bf).tcField (.port n) g hi i bg).fld (.port n) g i = (if bg then s.fld (.port n) g i else hi) ∧
      s.changes ((s.tcField (.port n) f lo i bf).tcField (.port n) g hi i bg) [] ([f.place (.port n) i, g.place (.port n) i] ++ errPlaces (.port n))
        [(.port n, 0x50), (.port n, 0x68)] := by
  obtain ⟨u, hu⟩ : ∃ u, u = s.tcField (.port n) f lo i bf := ⟨_, rfl⟩
  rw [← hu]
  have k1 : s.fieldTaken u (.port n) f i lo bf := hu ▸ State.tcField_taken hlo (tcField_beside hf)
  have k2 : u.fieldTaken (u.tcField (.port n) g hi i bg) (.port n) g i hi bg := State.tcField_taken hhi (tcField_beside hg)
  refine ⟨u, k1, k2, ?_, ?_, State.changes_trans (State.changes_mono k1.frame (fun _ h => h) (by simp +contextual [errPlaces, or_imp]) fun _ h => h)
    (State.changes_mono k2.frame (fun _ h => h) (by simp +contextual [errPlaces, or_imp]) fun _ h => h)⟩
  · rw [k2.frame.fld, k1.fld]
    intro x hx
    simp only [errPlaces, List.mem_cons, List.not_mem_nil, or_false] at hx
    rcases hx with rfl | rfl | rfl
    · exact Place.apart_rows h2
    · exact Place.apart_of_below hf.1
    · exact Place.apart_of_below hf.2
  · rw [k2.fld, k1.frame.fld]
    intro x hx
    simp only [errPlaces, List.mem_cons, List.not_mem_nil, or_false] at hx
    rcases hx with rfl | rfl | rfl
    · exact Place.apart_rows h1
    · exact Place.apart_of_below hg.1
    · exact Place.apart_of_below hg.2

/-! ## FINJ_ARM -/

/-- The injector's configuration stored, up to the bit that arms it. -/
def State.finjStored (s : State) (x : Nat) : State :=
  let u := (s.setFld .finj Reg.FINJ_CTRL_PORT (bits x 0 5)).tcField .finj Reg.FINJ_CTRL_MODE (bits x 5 3) 0 (decide (5 < bits x 5 3))
  let w := u.setFld .finj Reg.FINJ_CTRL_DIR (bits x 8 1)
  (w.tcField .finj Reg.FINJ_CTRL_PARAM (bits x 16 8) 0 (finjParamBad (w.fld .finj Reg.FINJ_CTRL_MODE) (bits x 16 8))).setFld .finj
    Reg.FINJ_CTRL_ARM (bits x 31 1)

theorem exec_finjArm (h : s.ready .finj = true) (hl : s.locked .finj = false) : exec (.finjArm v) s = .next (
    if bit v.toNat 31 then (s.finjStored v.toNat).setFinj
      { lfsr := BitVec.ofNat 32 ((s.finjStored v.toNat).fld .finj Reg.FINJ_SEED_SEED), flits := 0, count := 0 }
    else s.finjStored v.toNat) := by
  refine congrArg Host.Outcome.next ((State.ifReady_pos h _).trans ((if_neg (by simp [hl])).trans ?_))
  by_cases hm : 5 < bits v.toNat 5 3
  · simp only [State.finjStored, State.tcField, hm, decide_true, if_true]
    rfl
  · simp only [State.finjStored, State.tcField, hm, decide_false, if_false, Bool.false_eq_true]
    rfl

theorem exec_finjArm_locked (h : s.ready .finj = true) (hl : s.locked .finj = true) : exec (.finjArm v) s = .next (s.err .finj 0x01) :=
  congrArg Host.Outcome.next ((State.ifReady_pos h _).trans (if_pos hl))

def finjPlaces : List Place := [Reg.FINJ_CTRL_PORT.place .finj, Reg.FINJ_CTRL_MODE.place .finj, Reg.FINJ_CTRL_DIR.place .finj,
  Reg.FINJ_CTRL_PARAM.place .finj, Reg.FINJ_CTRL_ARM.place .finj]

/-- The injector's configuration after a write: each field on its own, PARAM beside the MODE that results. -/
structure State.finjTaken (s t : State) (x m : Nat) : Prop where
  port : t.fld .finj Reg.FINJ_CTRL_PORT = bits x 0 5
  mode : t.fld .finj Reg.FINJ_CTRL_MODE = m
  dir : t.fld .finj Reg.FINJ_CTRL_DIR = bits x 8 1
  param : t.fld .finj Reg.FINJ_CTRL_PARAM = if finjParamBad m (bits x 16 8) then s.fld .finj Reg.FINJ_CTRL_PARAM else bits x 16 8
  arm : t.fld .finj Reg.FINJ_CTRL_ARM = bits x 31 1
  frame : s.changes t [] (finjPlaces ++ errPlaces .finj) [(.finj, 0x50), (.finj, 0x68)]
  noted : ∃ u, s.noted u .finj (decide (5 < bits x 5 3)) ∧ u.noted t .finj (finjParamBad m (bits x 16 8))

theorem State.finjStored_taken {x m : Nat} (hm : m = if 5 < bits x 5 3 then s.fld .finj Reg.FINJ_CTRL_MODE else bits x 5 3) :
    s.finjTaken (s.finjStored x) x m := by
  obtain ⟨s1, e1⟩ : ∃ w, w = s.setFld .finj Reg.FINJ_CTRL_PORT (bits x 0 5) := ⟨_, rfl⟩
  obtain ⟨s2, e2⟩ : ∃ w, w = s1.tcField .finj Reg.FINJ_CTRL_MODE (bits x 5 3) 0 (decide (5 < bits x 5 3)) := ⟨_, rfl⟩
  obtain ⟨s3, e3⟩ : ∃ w, w = s2.setFld .finj Reg.FINJ_CTRL_DIR (bits x 8 1) := ⟨_, rfl⟩
  obtain ⟨s4, e4⟩ : ∃ w, w = s3.tcField .finj Reg.FINJ_CTRL_PARAM (bits x 16 8) 0 (finjParamBad (s3.fld .finj Reg.FINJ_CTRL_MODE) (bits x 16 8)) := ⟨_, rfl⟩
  have e : s.finjStored x = s4.setFld .finj Reg.FINJ_CTRL_ARM (bits x 31 1) := by
    rw [e4, e3, e2, e1]
    rfl
  have hb {f : Fld} (h : f.apart Reg.PG_ERR_CODE 0 0 = true ∧ f.apart Reg.PG_ERR_MULTI 0 0 = true) : besideErrors .finj [f.place .finj] := by
    intro y hy
    rw [List.mem_singleton] at hy
    subst hy
    exact ⟨Place.apart_of_apart h.1, Place.apart_of_apart h.2⟩
  have c1 : s.changes s1 [] [Reg.FINJ_CTRL_PORT.place .finj] [] := e1 ▸ .setFld .refl
  have k2 : s1.fieldTaken s2 .finj Reg.FINJ_CTRL_MODE 0 (bits x 5 3) (decide (5 < bits x 5 3)) :=
    e2 ▸ State.tcField_taken (bits_lt ..) (hb (by decide))
  have c3 : s2.changes s3 [] [Reg.FINJ_CTRL_DIR.place .finj] [] := e3 ▸ .setFld .refl
  have k4 : s3.fieldTaken s4 .finj Reg.FINJ_CTRL_PARAM 0 (bits x 16 8) (finjParamBad (s3.fld .finj Reg.FINJ_CTRL_MODE) (bits x 16 8)) :=
    e4 ▸ State.tcField_taken (bits_lt ..) (hb (by decide))
  have c5 : s4.changes (s.finjStored x) [] [Reg.FINJ_CTRL_ARM.place .finj] [] := e ▸ .setFld .refl
  have m3 : s3.fld .finj Reg.FINJ_CTRL_MODE = m := by
    rw [c3.fld (by simp +decide [Place.apart_of]), k2.fld, c1.fld (by simp +decide [Place.apart_of]), hm]
    simp
  rw [m3] at k4
  refine ⟨?_, ?_, ?_, ?_, ?_, ?_, s2, State.noted.before c1 k2.noted (hb (by decide)), (State.noted.before c3 k4.noted (hb (by decide))).after c5 (hb (by decide))⟩
  · rw [c5.fld (by simp +decide [Place.apart_of]), k4.frame.fld (by simp +decide [errPlaces, Place.apart_of]), c3.fld (by simp +decide [Place.apart_of]),
      k2.frame.fld (by simp +decide [errPlaces, Place.apart_of]), e1]
    exact State.fld_setFld_of_lt _ (bits_lt ..)
  · rw [c5.fld (by simp +decide [Place.apart_of]), k4.frame.fld (by simp +decide [errPlaces, Place.apart_of]), m3]
  · rw [c5.fld (by simp +decide [Place.apart_of]), k4.frame.fld (by simp +decide [errPlaces, Place.apart_of]), e3]
    exact State.fld_setFld_of_lt _ (bits_lt ..)
  · rw [c5.fld (by simp +decide [Place.apart_of]), k4.fld, c3.fld (by simp +decide [Place.apart_of]),
      k2.frame.fld (by simp +decide [errPlaces, Place.apart_of]), c1.fld (by simp +decide [Place.apart_of])]
  · rw [e]
    exact State.fld_setFld_of_lt _ (bits_lt ..)
  · refine State.changes_trans (State.changes_mono c1 (by simp) (by simp [finjPlaces]) (by simp)) (State.changes_trans
      (State.changes_mono k2.frame (by simp) (by simp [finjPlaces, errPlaces]) (by simp)) (State.changes_trans
      (State.changes_mono c3 (by simp) (by simp [finjPlaces]) (by simp)) (State.changes_trans
      (State.changes_mono k4.frame (by simp) (by simp [finjPlaces, errPlaces]) (by simp)) (State.changes_mono c5 (by simp) (by simp [finjPlaces]) (by simp)))))

theorem finjParamBad_iff {m p : Nat} : finjParamBad m p = true ↔ m = 3 ∧ p < 2 ∨ m = 5 ∧ p = 0 := by
  simp [finjParamBad]

/-- The configuration written, with the injector seeded where the write arms it. -/
def State.finjArmed (s : State) (x : Nat) : State :=
  if bit x 31 then (s.finjStored x).setFinj { lfsr := BitVec.ofNat 32 ((s.finjStored x).fld .finj Reg.FINJ_SEED_SEED), flits := 0, count := 0 }
  else s.finjStored x

theorem State.finjArmed_changes {x : Nat} : (s.finjStored x).changes (s.finjArmed x) [.finj] [] [] := .ite (.setFinj .refl) .refl

end

end Sys2Proof.Machine
end

section
/-! PROOFS. O8: what each command of the policer does. -/

namespace Sys2Proof.Machine
open Sys2Proof

section
variable {s : State} {n : PortId} {c : Fin 8} {b : List Byte} {lc lp : Nat}

theorem Port.queue_enqueued {x : Port} {k : Nat} : (x.enqueued k b).queue k = x.queue k ++ [b] := Map.get_set_same ..

theorem Port.waiting_holding {x : Port} {k : Nat} {l : List (List Byte)} : Map.get [] (x.holding k l).waiting k = l := Map.get_set_same ..
theorem Port.waiting_released {x : Port} {k : Nat} : Map.get [] (x.released k).waiting k = [] := by
  rw [Port.released, Map.get_set_same]

/-- A packet that passes joins its class, and the levels fall. -/
structure State.joined (s t : State) (n : PortId) (k : Nat) (b : List Byte) (lc lp : Nat) : Prop where
  queue : (t.port n).queue k = (s.port n).queue k ++ [b]
  peak : Map.get 0 (t.port n).tpLvl k = lp - b.length * 10
  level : Map.get 0 (t.port n).tcLvl k = if b.length * 10 ≤ lc then lc - b.length * 10 else lc
  count : s.counted t (.port n) 0xC0 (if b.length * 10 ≤ lc then 0 else 1)
  others : othersSame {} s.ports t.ports [n.val]
  frame : s.changes t [.ports] [] [(.port n, 0xC0)]

theorem State.packet_joins (hd : s.disarmed) (h0 : (s.port n).delayed = []) (hc : c ≠ 7) (hw : Map.get [] (s.port n).waiting c.val = [])
    (hl : s.policer n c.val = (lc, lp)) (h : b.length * 10 ≤ lp) :
    s.joined ((s.setPort n ((s.port n).holding c.val [b])).retryRed n c.val 2) n c.val b lc lp := by
  obtain ⟨v, hv⟩ : ∃ v, v = s.setPort n ((s.port n).holding c.val [b]) := ⟨_, rfl⟩
  have k1 : s.portSet v n ((s.port n).holding c.val [b]) [] := hv ▸ State.portSet_setPort
  have hl' : v.policer n c.val = (lc, lp) := by
    rw [hv, State.policer_setPort (x := (s.port n).holding c.val [b]) rfl rfl rfl, hl]
  obtain ⟨u, hp, k2, hcnt⟩ := State.police_passes hl' h
  have hw' : Map.get [] (v.port n).waiting c.val = [b] := by
    rw [k1.port]
    exact Port.waiting_holding
  obtain ⟨w, hwd⟩ : ∃ w, w = u.setPort n ((u.port n).released c.val) := ⟨_, rfl⟩
  have k3 : u.portSet w n ((u.port n).released c.val) [] := hwd ▸ State.portSet_setPort
  have hd' : w.disarmed := k3.frame.disarmed (k2.frame.disarmed (k1.frame.disarmed hd))
  have hy : w.port n = (((s.port n).holding c.val [b]).charged c.val (if b.length * 10 ≤ lc then lc - b.length * 10 else lc)
      (lp - b.length * 10) (v.now + 1)).released c.val := by rw [k3.port, k2.port, k1.port]
  have h0' : (w.port n).delayed = [] := by
    rw [hy]
    exact h0
  obtain ⟨z, hz⟩ : ∃ z, z = w.setPort n ((w.port n).enqueued c.val b) := ⟨_, rfl⟩
  have k4 : w.portSet z n ((w.port n).enqueued c.val b) [] := hz ▸ State.portSet_setPort
  have he : v.retryRed n c.val 2 = z := by
    rw [State.retryRed_passes hw' hp, ← hwd, State.enqueue_of_disarmed hd' h0', ← hz]
    refine State.retryRed_none ?_
    rw [k4.port, hy]
    exact Port.waiting_released
  rw [← hv, he]
  have hall : s.portSet z n ((w.port n).enqueued c.val b) [(.port n, 0xC0)] :=
    (k1.mono (by simp)).trans (k2.trans ((k3.mono (by simp)).trans (k4.mono (by simp))))
  refine ⟨?_, ?_, ?_, ((State.counted.before k1.frame hcnt).after k3.frame).after k4.frame, hall.others, hall.frame⟩
  · rw [hall.port, Port.queue_enqueued, hy]
    rfl
  · rw [hall.port, hy]
    exact Map.get_set_same ..
  · rw [hall.port, hy]
    exact Map.get_set_same ..

theorem State.packet7_joins (hd : s.disarmed) (h0 : (s.port n).delayed = []) (hl : s.policer n 7 = (lc, lp)) (h : b.length * 10 ≤ lp) :
    ∃ z, exec (.packetEnterPort n 7 b) s = .next z ∧ s.joined z n 7 b lc lp := by
  obtain ⟨u, hp, k2, hcnt⟩ := State.police_passes hl h
  have h0' : (u.port n).delayed = [] := by
    rw [k2.port]
    exact h0
  obtain ⟨z, hz⟩ : ∃ z, z = u.setPort n ((u.port n).enqueued 7 b) := ⟨_, rfl⟩
  have k4 : u.portSet z n ((u.port n).enqueued 7 b) [] := hz ▸ State.portSet_setPort
  have hall : s.portSet z n ((u.port n).enqueued 7 b) [(.port n, 0xC0)] := k2.trans (k4.mono (by simp))
  refine ⟨z, ?_, ?_, ?_, ?_, hcnt.after k4.frame, hall.others, hall.frame⟩
  · rw [exec_packetEnter7, hp, hz, ← State.enqueue_of_disarmed (k2.frame.disarmed hd) h0']
  · rw [hall.port, Port.queue_enqueued, k2.port]
    rfl
  · rw [hall.port, k2.port]
    exact Map.get_set_same ..
  · rw [hall.port, k2.port]
    exact Map.get_set_same ..

end

/-- Settles O8, command by command. -/
theorem packetsMeetThePolicer : Obligations.PacketsMeetThePolicer := by
  refine ⟨fun s n c b lc lp hd h0 hc hw hl h => ?_, fun s n b lc lp hd h0 hl h => ?_, fun s n c b hd h0 hc hw h => ?_, fun s n b h => ?_,
    fun s n c v hr h1 h2 => ?_, fun s n c v hr h1 h2 h3 => ?_, fun s n c v hr h1 h2 => ?_, fun s n c v hr h1 h2 => ?_, fun s n c v hr h1 h2 => ?_,
    fun s n c w v f g lo hi bf bg hr hw hhi hbg hb => ?_, fun s v mode param m hr hl hmode hparam hm => ?_, fun s v hr hl => ?_, fun s v hr hl hx => ?_⟩
  · have k := State.packet_joins hd h0 hc hw hl h
    exact completes.next ⟨k.queue, k.peak, k.level, k.count, k.others, k.frame⟩ (exec_packetEnter hc hw)
  · obtain ⟨z, e, k⟩ := State.packet7_joins hd h0 hl h
    exact completes.next ⟨k.queue, k.peak, k.level, k.count, k.others, k.frame⟩ e
  · refine completes.next ?_ (exec_packetEnter hc hw)
    obtain ⟨v, hv⟩ : ∃ v, v = s.setPort n ((s.port n).holding c.val [b]) := ⟨_, rfl⟩
    have k1 : s.portSet v n ((s.port n).holding c.val [b]) [(.port n, 0xC8)] := hv ▸ State.portSet_setPort
    have hw' : Map.get [] (v.port n).waiting c.val = [b] := by
      rw [k1.port]
      exact Port.waiting_holding
    have hred : v.police n c.val b.length = none := by
      refine State.police_red ?_
      rw [hv, State.policer_setPort (x := (s.port n).holding c.val [b]) rfl rfl rfl]
      exact h
    rw [← hv, State.retryRed_red hw' hred, k1.port]
    by_cases hm : c.val ∈ (s.port n).redCounted
    · rw [if_pos hm, if_pos (show c.val ∈ ((s.port n).holding c.val [b]).redCounted from hm), k1.port]
      refine ⟨Port.waiting_holding, rfl, hm, ?_, k1.others, k1.frame⟩
      exact .zero (hv ▸ (.setPort .refl : s.changes _ [.ports] [] []))
    · rw [if_neg hm, if_neg (show c.val ∉ ((s.port n).holding c.val [b]).redCounted from hm)]
      obtain ⟨u, hu⟩ : ∃ u, u = v.setPort n (((s.port n).holding c.val [b]).reddened c.val) := ⟨_, rfl⟩
      have k2 : v.portSet u n (((s.port n).holding c.val [b]).reddened c.val) [(.port n, 0xC8)] := hu ▸ State.portSet_setPort
      have k := (k1.trans k2).count (pg := .port n) (o := 0xC8) (a := 1)
      have hsu : s.changes u [.ports] [] [] := by
        rw [hu, hv]
        exact .setPort (.setPort .refl)
      rw [← hu, k.port]
      exact ⟨Port.waiting_holding (x := s.port n) (k := c.val) (l := [b]), rfl, List.mem_cons_self, .before hsu State.counted_count, k.others, k.frame⟩
  · refine completes.next (t := (s.count (.port n) 0xD0).send (.packetDrop n 7)) ?_ (exec_packetEnter7.trans (by rw [State.police_red h]))
    exact ⟨by rw [State.send, State.out_count], State.counted_count.after (cs := [.out]) (fs := []) (ns := []) (.send .refl), .send (.count .refl)⟩
  · have hc : ¬ (s.fld (.port n) Reg.PORT_TC_CIR c.val < bits v.toNat 0 16 ∧ 1000 < s.cirSum n c.val (bits v.toNat 0 16)) := by omega
    refine completes.next ?_ (((exec_portTcWrite0 hr).1 hc).trans (congrArg _ (if_neg (Nat.not_lt.2 h2))))
    refine ⟨?_, State.fld_setFld_of_lt _ (bits_lt ..), .setFld (.setFld .refl)⟩
    rw [State.fld_setFld_rows _ (by decide)]
    exact State.fld_setFld_of_lt _ (bits_lt ..)
  · refine completes.next ?_ (((exec_portTcWrite0 hr).2 ⟨h1, h2⟩).trans (congrArg _ (if_neg (Nat.not_lt.2 h3))))
    obtain ⟨u, hu⟩ : ∃ u, u = (s.err (.port n) 0x01).irq (.port n) 1 := ⟨_, rfl⟩
    have hc : s.changes u [.out, .pcie] (errPlaces (.port n) ++ irqPlaces (.port n)) (errCounts (.port n) ++ irqCounts (.port n)) := by
      rw [hu]
      exact .irq (.err .refl (by simp [errPlaces]) (by simp [errCounts])) (by simp) (by simp [irqPlaces]) (by simp [irqCounts])
    have hx {f : Fld} {i : Nat} (h : Reg.PG_ERR_CODE.below f = true ∧ Reg.PG_ERR_MULTI.below f = true ∧ Reg.PG_IRQ_STAT.below f = true) :
        u.fld (.port n) f i = s.fld (.port n) f i := by
      refine hc.fld fun x hx => ?_
      simp only [errPlaces, irqPlaces, List.mem_append, List.mem_cons, List.not_mem_nil, or_false] at hx
      rcases hx with (rfl | rfl) | rfl
      · exact Place.apart_of_below h.1
      · exact Place.apart_of_below h.2.1
      · exact Place.apart_of_below h.2.2
    have herr : s.erred u (.port n) 0x01 := by
      rw [hu]
      refine State.changes.stays_erred (cs := [.out, .pcie]) (fs := irqPlaces (.port n)) (ns := irqCounts (.port n)) (.irq .refl (by simp) (by simp [irqPlaces]) (by simp [irqCounts]))
        (s.err_erred (.port n) 0x01 (by decide)) (by simp +decide [irqPlaces, Place.apart_of]) fun x hx => ?_
      simp only [irqCounts, List.mem_cons, List.not_mem_nil, or_false] at hx
      rcases hx with rfl | rfl
      · simp
      · exact Page.add_ne (by simp) (by decide) (by decide)
    have hraise : s.raised u (.port n) 1 := by
      rw [hu]
      exact (s.err_changes (.port n) 0x01).raised (by simp +decide [errPlaces, Place.apart_of])
    have hlast : u.changes ((u.setFld (.port n) Reg.PORT_TC_CIR (s.fld (.port n) Reg.PORT_TC_CIR c.val) c.val).setFld (.port n) Reg.PORT_TC_PIR
        (bits v.toNat 16 16) c.val) [] [Reg.PORT_TC_PIR.place (.port n) c.val] [] :=
      .setFld (State.changes.setFld_same .refl (hx (by decide)).symm)
    rw [← hu]
    refine ⟨?_, State.fld_setFld_of_lt _ (bits_lt ..), hlast.stays_erred herr ?_ (by simp), (hlast.irqStat ?_).trans hraise,
      State.changes_trans (State.changes_mono hc (fun _ h => h) (by simp +contextual [or_imp]) fun _ h => h) (State.changes_mono hlast (by simp) (by simp) (by simp))⟩
    · rw [State.fld_setFld_rows _ (by decide)]
      exact State.fld_setFld_of_lt _ (s.fld_lt ..)
    · simp only [List.mem_singleton, forall_eq]
      exact ⟨Place.apart_of_above (by decide), Place.apart_of_above (by decide)⟩
    · simp only [List.mem_singleton, forall_eq]
      exact Place.apart_of_above (by decide)
  · have hc : ¬ (s.fld (.port n) Reg.PORT_TC_CIR c.val < bits v.toNat 0 16 ∧ 1000 < s.cirSum n c.val (bits v.toNat 0 16)) := by omega
    refine completes.next ?_ (((exec_portTcWrite0 hr).1 hc).trans (congrArg _ (if_pos h2)))
    obtain ⟨k1, k2⟩ := State.changes.refused (s := s) (u := s) (cs := []) (fs := []) (ns := []) .refl (pg := .port n) (by simp) (by simp)
    exact ⟨k1, k2, .rsvEnc .refl⟩
  · refine completes.next ?_ (exec_portTcWrite1 hr)
    rw [decide_eq_false (Nat.not_lt.2 h1), decide_eq_false (Nat.not_lt.2 h2)]
    simp only [State.tcField, Bool.false_eq_true, if_false]
    refine ⟨?_, State.fld_setFld_of_lt _ (bits_lt ..), .setFld (.setFld .refl)⟩
    rw [State.fld_setFld_rows _ (by decide)]
    exact State.fld_setFld_of_lt _ (bits_lt ..)
  · refine completes.next ?_ (exec_portTcWrite2 hr)
    rw [beq_eq_false_iff_ne.2 (Nat.one_le_iff_ne_zero.1 h1), decide_eq_false (Nat.not_lt.2 h2)]
    simp only [State.tcField, Bool.false_eq_true, if_false]
    refine ⟨?_, State.fld_setFld_of_lt _ (bits_lt ..), .setFld (.setFld .refl)⟩
    rw [State.fld_setFld_rows _ (by decide)]
    exact State.fld_setFld_of_lt _ (bits_lt ..)
  · subst hhi hbg
    rcases hw with ⟨rfl, rfl, rfl, rfl, rfl⟩ | ⟨rfl, rfl, rfl, rfl, rfl⟩
    · refine completes.next ?_ (exec_portTcWrite1 hr)
      obtain ⟨u, k1, k2, k3, k4, k5⟩ := State.tcFields_taken (s := s) (n := n) (f := Reg.PORT_TC_CBS) (g := Reg.PORT_TC_PBS) (i := c.val) (lo := bits v.toNat 0 16)
        (hi := bits v.toNat 16 16) (bf := decide (bits v.toNat 0 16 < 32)) (bg := decide (bits v.toNat 16 16 < 32)) (bits_lt ..) (bits_lt ..)
        (by decide) (by decide) (by decide) (by decide)
      obtain ⟨e1, e2, e3, e4⟩ := k1.noted.twice k2.noted hb
      exact ⟨k3, k4, e1, e2, e3, e4, k5⟩
    · refine completes.next ?_ (exec_portTcWrite2 hr)
      rw [show (bits v.toNat 0 8 == 0) = decide (bits v.toNat 0 8 = 0) by rw [Bool.eq_iff_iff]; simp]
      obtain ⟨u, k1, k2, k3, k4, k5⟩ := State.tcFields_taken (s := s) (n := n) (f := Reg.PORT_TC_WEIGHT) (g := Reg.PORT_TC_BURST) (i := c.val) (lo := bits v.toNat 0 8)
        (hi := bits v.toNat 16 16) (bf := decide (bits v.toNat 0 8 = 0)) (bg := decide (bits v.toNat 16 16 < 32)) (lt_of_lt_of_le (bits_lt ..) (by decide)) (bits_lt ..)
        (by decide) (by decide) (by decide) (by decide)
      obtain ⟨e1, e2, e3, e4⟩ := k1.noted.twice k2.noted hb
      exact ⟨k3, k4, e1, e2, e3, e4, k5⟩
  · subst hmode hparam
    have k := State.finjStored_taken (s := s) (x := v.toNat) hm
    obtain ⟨u, n1, n2⟩ := k.noted
    have hc := State.finjArmed_changes (s := s) (x := v.toNat)
    have hseed : (s.finjStored v.toNat).fld .finj Reg.FINJ_SEED_SEED = s.fld .finj Reg.FINJ_SEED_SEED :=
      k.frame.fld (by simp +decide [finjPlaces, errPlaces, Place.apart_of])
    refine completes.next (t := s.finjArmed v.toNat) ?_ (exec_finjArm hr hl)
    refine ⟨(hc.fld (by simp)).trans k.port, (hc.fld (by simp)).trans k.mode, (hc.fld (by simp)).trans k.dir, ?_, (hc.fld (by simp)).trans k.arm, ?_, ?_,
      State.changes_trans (State.changes_mono k.frame (by simp) (fun _ h => h) fun _ h => h) (State.changes_mono hc (fun _ h => h) (by simp) (by simp))⟩
    · rw [hc.fld (by simp), k.param]
      simp only [finjParamBad_iff]
    · rw [State.finjArmed, hseed]
      split
      · rw [State.finj_setFinj]
      · exact k.frame.1 .finj (by simp)
    · have e (p : Prop) [Decidable p] : (decide p).toNat = if p then 1 else 0 := by split <;> simp [*]
      have hb : finjParamBad m (bits v.toNat 16 8) = decide (m = 3 ∧ bits v.toNat 16 8 < 2 ∨ m = 5 ∧ bits v.toNat 16 8 = 0) := by
        rw [Bool.eq_iff_iff, finjParamBad_iff, decide_eq_true_eq]
      rw [← e, ← e, ← hb]
      exact (n1.writes.trans n2.writes).after hc
  · refine completes.next ?_ (exec_finjArm_locked hr hl)
    exact ⟨s.err_erred .finj 0x01 (by decide), .err .refl⟩
  · have hm : ∃ m, m = if 5 < bits v.toNat 5 3 then s.fld .finj Reg.FINJ_CTRL_MODE else bits v.toNat 5 3 := ⟨_, rfl⟩
    obtain ⟨m, hm⟩ := hm
    have k := State.finjStored_taken (s := s) (x := v.toNat) hm
    obtain ⟨u, n1, n2⟩ := k.noted
    have hc := State.finjArmed_changes (s := s) (x := v.toNat)
    have hone : decide (5 < bits v.toNat 5 3) = !finjParamBad m (bits v.toNat 16 8) := by
      rcases hx with ⟨h1, h2⟩ | ⟨h1, h2⟩
      · rw [hm, if_pos h1, decide_eq_true h1, Bool.eq_false_iff.2 h2]
        rfl
      · rw [hm, if_neg (Nat.not_lt.2 h1), decide_eq_false (Nat.not_lt.2 h1), h2]
        rfl
    obtain ⟨k1, k2⟩ := n1.erred n2 hone
    refine completes.next (t := s.finjArmed v.toNat) ?_ (exec_finjArm hr hl)
    exact ⟨hc.stays_erred k1 (by simp) (by simp), k2.after hc, (hc.fld (by simp)).trans k.port, (hc.fld (by simp)).trans k.dir, (hc.fld (by simp)).trans k.arm⟩

end Sys2Proof.Machine
end

section
/-! PROOFS. What a write that the device makes, and an error record, leave of the tiers and of the registers (R133, R136, R316). -/

namespace Sys2Proof.Machine
open Sys2Proof

section
variable {s t u : State} {fs : List Place} {p : Nat} {h : Held}

/-- A page on its way, or with a home or its loss recorded: no access of another page changes its entry. -/
def Leaf.settled (l : Leaf) : Prop := l.st ≠ .remote ∧ l.st ≠ .unwritten

theorem State.leaf_congr (h : t.tier.pages = s.tier.pages) : t.leaf p = s.leaf p := by rw [State.leaf, State.leaf, h]

/-- Registers outside the listed fields, entries of settled pages, retired frames and lost capacities are as they were. -/
structure State.homesKept (s t : State) (fs : List Place) : Prop where
  regs : s.bitsBut t fs
  leaf : ∀ p, (s.leaf p).settled → t.leaf p = s.leaf p
  retired : t.tier.retired = s.tier.retired
  capLost : t.tier.capLost = s.tier.capLost

namespace State.homesKept

theorem refl : s.homesKept s fs := ⟨fun _ _ _ => rfl, fun _ _ => rfl, rfl, rfl⟩

theorem trans (h : s.homesKept t fs) (k : t.homesKept u fs) : s.homesKept u fs :=
  ⟨fun a b hx => (k.regs a b hx).trans (h.regs a b hx), fun p hp => (k.leaf p (by rw [h.leaf p hp]; exact hp)).trans (h.leaf p hp),
    k.retired.trans h.retired, k.capLost.trans h.capLost⟩

theorem mono {gs : List Place} (h : s.homesKept t fs) (hf : ∀ x ∈ fs, x ∈ gs) : s.homesKept t gs :=
  ⟨State.bitsBut_mono h.regs hf, h.leaf, h.retired, h.capLost⟩

theorem fld (h : s.homesKept t fs) {q : Page} {g : Fld} {j : Nat} (hd : ∀ x ∈ fs, Place.apart x (g.place q j)) : t.fld q g j = s.fld q g j :=
  State.bitsBut.fld h.regs hd

theorem irqStat (h : s.homesKept t fs) {pg : Page} (hd : ∀ x ∈ fs, Place.apart x (Reg.PG_IRQ_STAT.place pg)) :
    t.word (pg.base + 0x10) = s.word (pg.base + 0x10) := by
  refine BitVec.eq_of_getLsbD_eq fun b hb => h.regs _ _ ?_
  rintro x hx ⟨h1, h2, h3⟩
  have := hd x hx
  simp only [Place.apart, Fld.place, Fld.addr, Reg.PG_IRQ_STAT] at this h1 h2 h3
  omega

/-- Neither the registers nor the tiers change. -/
theorem keeps {l : List Comp} (h : s.homesKept t fs) (k : t.keeps u l) (hr : Comp.regs ∉ l := by simp) (ht : Comp.tier ∉ l := by simp)
    (hz : Comp.fuses ∉ l := by simp) : s.homesKept u fs := by
  refine h.trans ⟨fun a _ _ => by rw [State.word_congr (k .regs hr) (k .fuses hz) a], fun p _ => ?_, ?_, ?_⟩
  · rw [State.leaf, State.leaf, k .tier ht]
  · rw [k .tier ht]
  · rw [k .tier ht]

theorem changes {cs : List Comp} {gs : List Place} {ns : List (Page × Nat)} (h : s.homesKept t fs) (k : t.changes u cs gs ns)
    (hg : ∀ x ∈ gs, x ∈ fs := by simp) (ht : Comp.tier ∉ cs := by simp) : s.homesKept u fs := by
  have e : u.tier = t.tier := k.1 .tier (by simpa using ht)
  refine h.trans ⟨State.bitsBut_mono k.2.1 hg, fun p _ => ?_, ?_, ?_⟩
  · rw [State.leaf, State.leaf, e]
  · rw [e]
  · rw [e]

/-- The tiers' state with the pages' entries, the retired frames and the lost capacities as they were. -/
theorem setTier {x : Tier} (h : s.homesKept t fs) (h1 : x.pages = t.tier.pages := by rfl) (h2 : x.retired = t.tier.retired := by rfl)
    (h3 : x.capLost = t.tier.capLost := by rfl) : s.homesKept (t.setTier x) fs :=
  h.trans ⟨fun _ _ _ => rfl, fun _ _ => State.leaf_congr h1, h2, h3⟩

theorem setLeaf {l : Leaf} (h : s.homesKept t fs) (hp : ¬ (t.leaf p).settled) : s.homesKept (t.setLeaf p l) fs := by
  obtain ⟨lv, ds, e⟩ := t.setLeaf_eq p l
  refine h.trans ⟨fun a _ _ => ?_, fun q hq => ?_, ?_, ?_⟩
  · rw [e]
    rfl
  · refine State.leaf_setLeaf_other ?_
    rintro rfl
    exact hp hq
  · rw [e]
    rfl
  · rw [e]
    rfl

theorem useFrame {d : TierName} {f : Nat} {b : Bool} (h : s.homesKept t fs) : s.homesKept (t.useFrame d f b) fs := h.setTier
theorem useSide {d : TierName} {z : PartId} {f : Nat} {b : Bool} (h : s.homesKept t fs) : s.homesKept (t.useSide d z f b) fs := h.setTier
theorem setHeld {l : List Held} (h : s.homesKept t fs) : s.homesKept (t.setHeld p l) fs := h.setTier
theorem setStalled {l : List Held} (h : s.homesKept t fs) : s.homesKept (t.setStalled p l) fs := h.setTier
theorem send {o : Out} (h : s.homesKept t fs) : s.homesKept (t.send o) fs := h.changes (cs := [.out]) (gs := []) (ns := []) (.send .refl)
theorem count {pg : Page} {o n : Nat} (h : s.homesKept t fs) : s.homesKept (t.count pg o n) fs :=
  h.changes (cs := []) (gs := []) (ns := [(pg, o)]) (.count .refl)

theorem freeHome {l : Leaf} (h : s.homesKept t fs) : s.homesKept (t.freeHome p l) fs := by
  unfold State.freeHome
  extract_lets v
  split
  · exact h.useFrame.useSide
  · exact h.useFrame

theorem ite {c : Prop} {_ : Decidable c} (h : s.homesKept t fs) (k : s.homesKept u fs) : s.homesKept (if c then t else u) fs := by
  split
  · exact h
  · exact k

/-! ## Accesses -/

theorem note (h : s.homesKept t fs) : s.homesKept (t.note p) fs := by
  have hw : s.homesKept (t.wakeFor p) fs := h.keeps (l := [.cnt, .pwr]) (Steady.keepsOf (.wakeFor (.refl _ t) p))
  unfold State.note
  extract_lets v
  split
  · exact (hw.setTier).count
  · exact hw.setTier

theorem holdNow {x : Held} (h : s.homesKept t fs) : s.homesKept (t.holdNow x) fs := by
  unfold State.holdNow
  extract_lets page v
  exact (State.homesKept.ite (h.setHeld).count h.setHeld).send

theorem hold {x : Held} (h : s.homesKept t fs) : s.homesKept (t.hold x) fs := by
  unfold State.hold
  extract_lets page
  exact .ite h.holdNow (h.setStalled).send

theorem answerHeld {x : Held} {r : HeldEnd} {o : Out} (h : s.homesKept t fs) : s.homesKept (t.answerHeld x r o) fs := by
  unfold State.answerHeld
  exact .ite h.setTier h.send

theorem noteRefusal {src : Accessor} {c : Nat} (h : s.homesKept t fs) (hs : src ≠ .host) (hf : ∀ x ∈ errPlaces .tier, x ∈ fs) :
    s.homesKept (t.noteRefusal src c) fs := by
  unfold State.noteRefusal
  extract_lets v
  rw [if_neg hs]
  exact State.homesKept.count (h.changes (cs := []) (ns := errCounts .tier) (.err .refl) hf)

theorem refuseHeld {x : Held} {c : Nat} (h : s.homesKept t fs) (hs : x.src ≠ .host) (hf : ∀ x ∈ errPlaces .tier, x ∈ fs) :
    s.homesKept (t.refuseHeld x c) fs := (h.noteRefusal hs hf).answerHeld

theorem needLeaf (h : s.homesKept t fs) (e : t.needLeaf p = some u) : s.homesKept u fs := by
  unfold State.needLeaf at e
  split at e
  · exact Option.some.inj e ▸ h
  · split at e
    · cases e
    · exact Option.some.inj e ▸ h.setTier

theorem leaf_needLeaf (e : t.needLeaf p = some u) (q : Nat) : u.leaf q = t.leaf q := by
  unfold State.needLeaf at e
  split at e
  · exact Option.some.inj e ▸ rfl
  · split at e
    · cases e
    · exact Option.some.inj e ▸ rfl

/-- A home is opened for a page that has none, or anew for one whose bytes are lost. -/
theorem openHome {side : Bool} (h : s.homesKept t fs) (hp : ¬ (t.leaf p).settled) (e : t.openHome p side = .ok u) : s.homesKept u fs := by
  unfold State.openHome at e
  split at e
  · cases e
  next v hv =>
    split at e
    · cases e
    next d f n hd =>
      extract_lets l w1 w2 w3 at e
      have hl : v.leaf p = t.leaf p := leaf_needLeaf hv p
      have h1 : s.homesKept w1 fs := .ite (h.needLeaf hv).freeHome (h.needLeaf hv)
      have h3 : s.homesKept w3 fs := .ite (h1.useFrame).useSide h1.useFrame
      have hw1 : w1.tier.pages = v.tier.pages := by
        unfold w1
        split
        · exact State.pages_freeHome
        · rfl
      have hw3 : w3.leaf p = t.leaf p := by
        rw [← hl]
        refine State.leaf_congr (Eq.trans ?_ hw1)
        unfold w3
        split <;> rfl
      rw [← Except.ok.inj e]
      exact h3.setLeaf (by rwa [hw3])

theorem startFill (h : s.homesKept t fs) : s.homesKept (t.startFill p) fs := by
  unfold State.startFill
  exact (h.setTier).count

theorem openAndHold {x : Held} {side : Bool} (h : s.homesKept t fs) (hp : ¬ (t.leaf (pageOf x.offset)).settled) (hs : x.src ≠ .host)
    (hf : ∀ x ∈ errPlaces .tier, x ∈ fs) : s.homesKept (t.openAndHold x side) fs := by
  unfold State.openAndHold
  extract_lets page
  split
  · exact h.refuseHeld hs hf
  next v e => exact ((h.openHome hp e).startFill.setHeld).send

theorem pullPage (h : s.homesKept t fs) : s.homesKept (t.pullPage p).2 fs := by
  unfold State.pullPage
  extract_lets l side
  split
  · exact h
  next hp =>
    rw [not_or, not_not] at hp
    split
    · exact h
    next d f n hd =>
      extract_lets m v
      have hv : s.homesKept v fs := .ite h.useSide h
      have hl : ((v.useFrame d f true).addMig m).leaf p = t.leaf p := by
        refine State.leaf_congr ?_
        change v.tier.pages = t.tier.pages
        unfold v
        split <;> rfl
      refine (hv.useFrame.setTier (t := v.useFrame d f true)).setLeaf fun hset => ?_
      have := hset.1
      rw [show State.setTier (v.useFrame d f true) _ = (v.useFrame d f true).addMig m from rfl, hl] at this
      exact this hp.1

theorem pullMore {l : Leaf} {k n : Nat} (h : s.homesKept t fs) : s.homesKept (t.pullMore l p k n).2 fs := by
  induction n generalizing t k with
  | zero => exact h
  | succ n ih =>
    unfold State.pullMore
    extract_lets x
    split
    · have hp := h.pullPage (p := p + k)
      split
      next v e =>
        rw [e] at hp
        exact ih hp
      · exact h
    · exact h

theorem startPull (h : s.homesKept t fs) : s.homesKept (t.startPull p).2 fs := by
  unfold State.startPull
  extract_lets l z c
  have hp := h.pullPage (p := p)
  split
  next v e =>
    rw [e] at hp
    split
    · exact (hp.send).keeps (l := [.movers]) (Steady.keepsOf (.pullReq (.refl _ _) _ _ _ _ _ _ _ _ _))
    · extract_lets r n w m
      have hw : s.homesKept w fs :=
        State.homesKept.keeps (l := [.movers]) ((hp.pullMore).count.send) (Steady.keepsOf (.pullReq (.refl _ _) _ _ _ _ _ _ _ _ _))
      exact hw.changes (cs := [.movers]) (gs := []) (ns := []) (.setMover .refl)
  · exact hp

theorem pullAndHold {x : Held} (h : s.homesKept t fs) (hs : x.src ≠ .host) (hf : ∀ x ∈ errPlaces .tier, x ∈ fs) :
    s.homesKept (t.pullAndHold x) fs := by
  unfold State.pullAndHold
  have hp := h.startPull (p := pageOf x.offset)
  split
  next v e =>
    rw [e] at hp
    exact hp.refuseHeld hs hf
  next b v e =>
    rw [e] at hp
    exact hp.hold

/-- A write of less than a page leaves the entries of settled pages. -/
theorem serveHeldWrite {x : Held} {data : List Byte} {side : Bool} (h : s.homesKept t fs) (hs : x.src ≠ .host) (hd : data.length < 65536)
    (hf : ∀ x ∈ errPlaces .tier, x ∈ fs) : s.homesKept (t.serveHeldWrite x data side) fs := by
  unfold State.serveHeldWrite
  extract_lets page
  split
  · exact h.hold
  · split
    · exact State.homesKept.answerHeld (h.changes (cs := [.mem, .digs]) (gs := []) (ns := []) (.wr .refl))
    · exact h.hold
    · exact h.pullAndHold hs hf
    next e => exact h.openAndHold (fun k => k.2 e) hs hf
    · rw [if_neg fun k => by omega]
      exact h.refuseHeld hs hf

theorem tierWrite {src : Accessor} {off : Nat} {data : List Byte} {own : Bool} (h : s.homesKept t fs) (hs : src ≠ .host) (hd : data.length < 65536)
    (hf : ∀ x ∈ errPlaces .tier, x ∈ fs) : s.homesKept (t.tierWrite src off data own) fs := (h.note).serveHeldWrite hs hd hf

theorem put {off : Nat} {data : List Byte} (h : s.homesKept t fs) (hd : data.length < 65536) (hf : ∀ x ∈ errPlaces .tier, x ∈ fs) :
    s.homesKept (t.put off data) fs := by
  unfold State.put
  split
  · exact h
  · refine State.each_keeps_prop (P := fun u => s.homesKept u fs) h fun u q _ hu => hu.tierWrite (by simp) ?_ hf
    exact lt_of_le_of_lt (by simp only [pieceIn, List.length_take, List.length_drop]; omega) hd

end State.homesKept

/-! ## Error records -/

/-- The fields that an error record's ring writes, and a refusal of its bytes. -/
def ringPlaces : List Place :=
  [Reg.ELOG_SEQ_SEQ.place .elog, Reg.ELOG_STAT_OVERFLOW.place .elog, Reg.ELOG_TAIL_TAIL.place .elog] ++ errPlaces .elog ++ irqPlaces .elog ++ errPlaces .tier

theorem State.homesKept_elogRing (r : BitVec 512) : s.homesKept (s.elogRing r) ringPlaces := by
  unfold State.elogRing
  split
  · extract_lets n tail head addr
    split
    · exact State.homesKept.changes (cs := [.out, .pcie]) (gs := Reg.ELOG_STAT_OVERFLOW.place .elog :: (errPlaces .elog ++ irqPlaces .elog))
        (ns := (Page.elog, 0x88) :: (errCounts .elog ++ irqCounts .elog)) .refl
        (.irq (.err (.setFld (.count .refl)) (by simp [errPlaces]) (by simp [errCounts])) (by simp) (by simp [irqPlaces]) (by simp [irqCounts]))
        (by simp [ringPlaces, errPlaces, irqPlaces])
    · have hp : s.homesKept (s.put addr (BVbytes r)) ringPlaces := State.homesKept.put .refl (by rw [BVbytes, length_bytesOfNat]; decide) (by simp [ringPlaces, errPlaces])
      exact hp.changes (cs := []) (gs := [Reg.ELOG_TAIL_TAIL.place .elog]) (ns := []) (.setFld .refl) (by simp [ringPlaces])
  · exact .refl

theorem State.homesKept_record (pg : Page) (a : RecArgs) : s.homesKept (s.record pg a) ringPlaces := by
  unfold State.record
  extract_lets last n r v el w x
  split
  · exact State.homesKept.count .refl
  · have hv : s.homesKept v ringPlaces := State.homesKept.changes (cs := [.fresh]) (gs := [Reg.ELOG_SEQ_SEQ.place .elog]) (ns := [(.elog, 0x80)]) .refl
      (.count (.setFld (.draw .refl))) (by simp [ringPlaces])
    have hw : s.homesKept w ringPlaces := ⟨hv.regs, hv.leaf, hv.retired, hv.capLost⟩
    have hx : s.homesKept x ringPlaces := (hw.trans (w.homesKept_elogRing r)).changes (cs := [.out, .pcie]) (gs := irqPlaces .elog) (ns := irqCounts .elog)
      (.irq .refl) (by simp [ringPlaces, irqPlaces])
    split
    · split
      · exact hx.keeps (l := [.out, .cnt, .elog, .qrm]) (Steady.keepsOf (.escalate (.refl _ _) _))
      · exact hx
    · exact hx

end

end Sys2Proof.Machine
end

section
/-! PROOFS. O13: commits, capacities and training (R121, R143, R144, R349). -/

namespace Sys2Proof.Machine
open Sys2Proof

section
variable {s t u : State} {d e : TierName} {z : PartId} {v : Nat} {fs : List Place} {ns : List (Page × Nat)} {cs : List Comp}

/-! ## Commits -/

theorem State.commitSum_congr (h : ∀ p : PartId, t.fld .tier (commitFld d).1 p.val = s.fld .tier (commitFld d).1 p.val) :
    t.commitSum d = s.commitSum d := by
  simp only [State.commitSum, h]

/-- The commit of a zone in a tier may take a value (R143). -/
abbrev State.mayCommit (s : State) (z : PartId) (d : TierName) (v : Nat) : Prop :=
  v ≤ s.fld .tier (commitFld d).1 z.val ∨ s.commitSum d - s.fld .tier (commitFld d).1 z.val + v ≤ s.fld .tier (commitFld d).2

theorem State.writeCommit_ok (h : s.mayCommit z d v) (ho : s.fld .tier Reg.TIER_STAT_OVER = 0) :
    s.writeCommit z d v = s.setFld .tier (commitFld d).1 v z.val := by
  have h0 : (s.setFld .tier (commitFld d).1 v z.val).fld .tier Reg.TIER_STAT_OVER = 0 := by
    rw [State.fld_setFld_of_bits, ho]
    cases d <;> simp [Fld.addr, commitFld, Reg.TIER_STAT_OVER, Reg.TIER_ZONE_COMMIT_SHL, Reg.TIER_ZONE_COMMIT_BAS, Reg.TIER_ZONE_COMMIT_DEEP] <;> omega
  refine (if_pos h).trans (if_neg ?_)
  rw [h0]
  simp [bit]

theorem State.writeCommit_refused (h : ¬ s.mayCommit z d v) : s.writeCommit z d v = (s.err .tier 0x01).irq .tier 1 := if_neg h

theorem commit_rows (h : d ≠ e) : (commitFld d).1.rowsApart (commitFld e).1 = true := by
  revert h
  cases d <;> cases e <;> decide

theorem cap_below_commit : (commitFld d).2.below (commitFld e).1 = true ∧ Reg.TIER_STAT_OVER.below (commitFld e).1 = true ∧
    Reg.PG_IRQ_STAT.below (commitFld e).1 = true ∧ Reg.PG_ERR_CODE.below (commitFld e).1 = true ∧ Reg.PG_ERR_MULTI.below (commitFld e).1 = true := by
  cases d <;> cases e <;> decide

theorem cap_apart : Reg.TIER_STAT_OVER.apart (commitFld d).2 0 0 = true ∧ Reg.PG_IRQ_STAT.apart (commitFld d).2 0 0 = true := by
  cases d <;> decide

/-- What follows a tier's commits and capacity may touch. -/
def overPlaces : List Place := Reg.TIER_STAT_OVER.place .tier :: irqPlaces .tier

theorem apart_overPlaces {f : Fld} {i : Nat} (h : Reg.TIER_STAT_OVER.below f = true ∧ Reg.PG_IRQ_STAT.below f = true) :
    ∀ x ∈ overPlaces, Place.apart x (f.place .tier i) := by
  intro x hx
  simp only [overPlaces, irqPlaces, List.mem_cons, List.not_mem_nil, or_false] at hx
  rcases hx with rfl | rfl
  · exact Place.apart_of_below h.1
  · exact Place.apart_of_below h.2

/-- OVER follows the commits. -/
theorem State.overCommit_spec : s.changes (s.overCommit d) [.out, .pcie] overPlaces (irqCounts .tier) ∧
    bit ((s.overCommit d).fld .tier Reg.TIER_STAT_OVER) (tierIdx d) = decide (s.fld .tier (commitFld d).2 < s.commitSum d) ∧
    (s.fld .tier (commitFld d).2 < s.commitSum d → bit (s.fld .tier Reg.TIER_STAT_OVER) (tierIdx d) = false → s.raised (s.overCommit d) .tier 2) := by
  obtain ⟨b, hb⟩ : ∃ b, b = decide (s.fld .tier (commitFld d).2 < s.commitSum d) := ⟨_, rfl⟩
  obtain ⟨u, hu⟩ : ∃ u, u = s.setFld .tier Reg.TIER_STAT_OVER (withBits (s.fld .tier Reg.TIER_STAT_OVER) (tierIdx d) 1 b.toNat) := ⟨_, rfl⟩
  have e : s.overCommit d = if b && !bit (s.fld .tier Reg.TIER_STAT_OVER) (tierIdx d) then u.irq .tier 2 else u := by
    rw [hu, hb]
    rfl
  have hc : s.changes u [] [Reg.TIER_STAT_OVER.place .tier] [] := hu ▸ .setFld .refl
  have hi : tierIdx d < 3 := by cases d <;> decide
  have hv : withBits (s.fld .tier Reg.TIER_STAT_OVER) (tierIdx d) 1 b.toNat < 2 ^ Reg.TIER_STAT_OVER.width := by
    refine Nat.lt_pow_two_of_testBit _ fun i hx => ?_
    have hx' : 3 ≤ i := hx
    rw [← bit_eq_testBit, bit_withBits, if_neg (by omega), bit_eq_testBit]
    exact Nat.testBit_lt_two_pow (lt_of_lt_of_le (s.fld_lt ..) (Nat.pow_le_pow_right (by omega) hx))
  have ho : bit (u.fld .tier Reg.TIER_STAT_OVER) (tierIdx d) = b := by
    rw [hu, State.fld_setFld_of_lt _ hv, bit_withBits, if_pos rfl]
  rw [e]
  refine ⟨.ite (.irq (State.changes_mono hc (by simp) (by simp [overPlaces]) (by simp)) (by simp) (by simp [overPlaces, irqPlaces]))
    (State.changes_mono hc (by simp) (by simp [overPlaces]) (by simp)), ?_, fun h1 h2 => ?_⟩
  · rw [← hb]
    split
    · rw [(State.irq_changes ..).fld (by simp +decide [irqPlaces, Place.apart_of]), ho]
    · exact ho
  · rw [hb, decide_eq_true h1, h2]
    exact hc.raised (by simp +decide [Place.apart_of])

/-- What a tier's capacity may touch. -/
def capPlaces (d : TierName) : List Place := (commitFld d).2.place .tier :: overPlaces

theorem apart_capPlaces {f : Fld} {i : Nat} (h : (commitFld d).2.below f = true ∧ Reg.TIER_STAT_OVER.below f = true ∧ Reg.PG_IRQ_STAT.below f = true) :
    ∀ x ∈ capPlaces d, Place.apart x (f.place .tier i) := by
  intro x hx
  rcases List.mem_cons.1 hx with rfl | hx
  · exact Place.apart_of_below h.1
  · exact apart_overPlaces h.2 x hx

theorem State.setCap_changes : s.changes (s.setCap d v) [.out, .pcie] (capPlaces d) (irqCounts .tier) := by
  have h : s.changes (s.setFld .tier (commitFld d).2 v) [.out, .pcie] (capPlaces d) (irqCounts .tier) := .setFld .refl (by simp [capPlaces])
  exact .ite .refl (State.changes_trans h (State.changes_mono State.overCommit_spec.1 (fun _ h => h) (fun _ h => List.mem_cons_of_mem _ h) fun _ h => h))

theorem State.commitSum_setCap : (s.setCap d v).commitSum e = s.commitSum e :=
  State.commitSum_congr fun _ => State.setCap_changes.fld (apart_capPlaces ⟨cap_below_commit.1, (cap_below_commit (d := d)).2.1, (cap_below_commit (d := d)).2.2.1⟩)

theorem State.fld_setCap (hv : v < 2 ^ 16) : (s.setCap d v).fld .tier (commitFld d).2 = v := by
  have hw : v < 2 ^ (commitFld d).2.width := by
    revert hv
    cases d <;> exact id
  unfold State.setCap
  split
  next h => exact h
  · rw [State.overCommit_spec.1.fld, State.fld_setFld_of_lt _ hw]
    intro x hx
    simp only [overPlaces, irqPlaces, List.mem_cons, List.not_mem_nil, or_false] at hx
    rcases hx with rfl | rfl
    · exact Place.apart_of_apart cap_apart.1
    · exact Place.apart_of_apart cap_apart.2

/-- A tier's capacity becomes another one. -/
theorem State.setCap_spec (hv : v < 2 ^ 16) (h : s.fld .tier (commitFld d).2 ≠ v) :
    bit ((s.setCap d v).fld .tier Reg.TIER_STAT_OVER) (tierIdx d) = decide (v < s.commitSum d) ∧
    (v < s.commitSum d → bit (s.fld .tier Reg.TIER_STAT_OVER) (tierIdx d) = false → s.raised (s.setCap d v) .tier 2) := by
  have hw : v < 2 ^ (commitFld d).2.width := by
    revert hv
    cases d <;> exact id
  obtain ⟨u, hu⟩ : ∃ u, u = s.setFld .tier (commitFld d).2 v := ⟨_, rfl⟩
  have hc : s.changes u [] [(commitFld d).2.place .tier] [] := hu ▸ .setFld .refl
  have e : s.setCap d v = u.overCommit d := by
    rw [hu]
    exact if_neg h
  have h1 : u.fld .tier (commitFld d).2 = v := by rw [hu, State.fld_setFld_of_lt _ hw]
  have h2 : u.commitSum d = s.commitSum d := State.commitSum_congr fun p => hc.fld (by simpa using Place.apart_of_below cap_below_commit.1)
  have h3 : u.fld .tier Reg.TIER_STAT_OVER = s.fld .tier Reg.TIER_STAT_OVER := hc.fld (List.forall_mem_singleton.2 (Place.apart_of_apart (cap_apart (d := d)).1).symm)
  obtain ⟨-, k1, k2⟩ := State.overCommit_spec (s := u) (d := d)
  rw [h1, h2] at k1 k2
  rw [h3] at k2
  rw [e]
  exact ⟨k1, fun h5 h6 => (k2 h5 h6).trans (congrArg (· ||| _) (hc.irqStat (List.forall_mem_singleton.2 (Place.apart_of_apart (cap_apart (d := d)).2).symm)))⟩

/-! ## Capacities of what is trained -/

theorem foldl_add_le {α : Type} (l : List α) (p : α → Bool) (g : α → Nat) {m : Nat} (h : ∀ a, g a ≤ m) (n : Nat) :
    l.foldl (fun n a => if p a then n + g a else n) n ≤ n + l.length * m := by
  induction l generalizing n with
  | nil => simp
  | cons a l ih =>
    have := h a
    rw [List.foldl_cons, List.length_cons, Nat.succ_mul]
    split
    · exact (ih _).trans (by omega)
    · exact (ih _).trans (by omega)

theorem State.upperCap_lt : s.upperCap d < 2 ^ 16 := by
  cases d
  · have := List.length_filter_le (fun d => !s.flag (.shl d) Reg.PG_READY_FAILED) (List.finRange 4)
    rw [List.length_finRange] at this
    simp only [State.upperCap]
    omega
  · have := List.length_filter_le (fun d => !s.flag (.bas d) Reg.PG_READY_FAILED) (List.finRange 8)
    rw [List.length_finRange] at this
    simp only [State.upperCap]
    omega
  · have := foldl_add_le (List.finRange 16) (fun c => s.ready (.deep c)) (fun c => s.fld (.deep c) Reg.DEEP_MEM_STAT_RATE)
      (m := 65535) (fun c => Nat.le_of_lt_succ (s.fld_lt (.deep c) Reg.DEEP_MEM_STAT_RATE 0)) 0
    rw [List.length_finRange] at this
    simp only [State.upperCap, State.deepCap]
    omega

/-- A capacity depends on the memory pages alone. -/
theorem State.upperCap_congr (h : ∀ pg : Page, pg.kind = .shl ∨ pg.kind = .bas ∨ pg.kind = .deep → ∀ f ∈ [Reg.PG_READY_READY, Reg.PG_READY_FAILED, Reg.DEEP_MEM_STAT_RATE],
    t.fld pg f = s.fld pg f) : t.upperCap d = s.upperCap d := by
  have hs (i) : t.fld (.shl i) Reg.PG_READY_FAILED = s.fld (.shl i) Reg.PG_READY_FAILED := h _ (by simp [Page.kind]) _ (by simp)
  have hb (i) : t.fld (.bas i) Reg.PG_READY_FAILED = s.fld (.bas i) Reg.PG_READY_FAILED := h _ (by simp [Page.kind]) _ (by simp)
  have hr (i) : t.fld (.deep i) Reg.PG_READY_READY = s.fld (.deep i) Reg.PG_READY_READY := h _ (by simp [Page.kind]) _ (by simp)
  have hd (i) : t.fld (.deep i) Reg.DEEP_MEM_STAT_RATE = s.fld (.deep i) Reg.DEEP_MEM_STAT_RATE := h _ (by simp [Page.kind]) _ (by simp)
  cases d
  · simp only [State.upperCap, State.flag, hs]
  · simp only [State.upperCap, State.flag, hb]
  · simp only [State.upperCap, State.deepCap, State.ready, State.flag, hr, hd]
    rfl

/-- A tier's capacity counted again. -/
theorem State.recount_spec : s.changes (s.recount d) [.out, .pcie] (capPlaces d) (irqCounts .tier) ∧
    (s.recount d).fld .tier (commitFld d).2 = (s.recount d).upperCap d - Map.get 0 s.tier.capLost (tierIdx d) := by
  have hc : s.changes (s.recount d) [.out, .pcie] (capPlaces d) (irqCounts .tier) := State.setCap_changes
  have hu : (s.recount d).upperCap d = s.upperCap d := by
    refine State.upperCap_congr fun pg hk f hf => hc.fld fun x hx => ?_
    have hne : pg ≠ .tier := by
      rintro rfl
      simp [Page.kind] at hk
    have hfit : f.fits 0 = true := by
      simp only [List.mem_cons, List.not_mem_nil, or_false] at hf
      rcases hf with rfl | rfl | rfl <;> decide
    have hcap : (commitFld d).2.fits 0 = true := by cases d <;> decide
    simp only [capPlaces, overPlaces, irqPlaces, List.mem_cons, List.not_mem_nil, or_false] at hx
    rcases hx with rfl | rfl | rfl
    · exact Place.apart_of_ne (Ne.symm hne) hcap hfit
    · exact Place.apart_of_ne (Ne.symm hne) (by decide) hfit
    · exact Place.apart_of_ne (Ne.symm hne) (by decide) hfit
  refine ⟨hc, ?_⟩
  rw [hu]
  exact State.fld_setCap (lt_of_le_of_lt (Nat.sub_le ..) State.upperCap_lt)

end

end Sys2Proof.Machine
end

section
/-! PROOFS. Writes of zones and layout, lost memory, and trained instances (R121, R143, R148, R349, R415). -/

namespace Sys2Proof.Machine
open Sys2Proof

section
variable {s t u : State} {d : TierName} {z : PartId} {pg q : Page} {a : RecArgs} {cs : List Comp} {fs : List Place} {ns : List (Page × Nat)}

/-! ## Records after other changes -/

theorem railOf_le : railOf pg ≤ 15 := by
  cases pg
  case tile t =>
    have h : t.val / 64 ≤ 14 := by omega
    exact Nat.add_le_add_left h 1
  all_goals exact Nat.le_of_ble_eq_true rfl

/-- A record reads one rail. -/
theorem State.errorRecord_congr_at (hn : t.now = s.now) (hf : t.fresh = s.fresh)
    (hv : t.fld .pwr Reg.RAIL_MV_MV (a.rail.getD (railOf pg)) = s.fld .pwr Reg.RAIL_MV_MV (a.rail.getD (railOf pg))) {n : Nat} :
    t.errorRecord pg a n = s.errorRecord pg a n := by
  simp only [State.errorRecord, State.freeNat, State.freeBytes, hn, hf, hv]

/-- A record written after fields that it does not depend on changed. -/
theorem State.recorded.before (h : s.changes u cs fs ns) (k : u.recorded t pg a) (hc : Comp.now ∉ cs ∧ Comp.fresh ∉ cs := by simp)
    (hv : ∀ x ∈ fs, Place.apart x (Reg.RAIL_MV_MV.place .pwr (a.rail.getD (railOf pg))) ∧ Place.apart x (Reg.ELOG_SEQ_SEQ.place .elog)) :
    s.recorded t pg a := by
  have e1 : u.fld .elog Reg.ELOG_SEQ_SEQ = s.fld .elog Reg.ELOG_SEQ_SEQ := h.fld fun x hx => (hv x hx).2
  have e2 {n : Nat} : u.errorRecord pg a n = s.errorRecord pg a n :=
    State.errorRecord_congr_at (h.1 .now (by simpa using hc.1)) (h.1 .fresh (by simpa using hc.2)) (h.fld fun x hx => (hv x hx).1)
  rw [State.recorded, e1, e2] at k
  exact k

theorem notMem_recordPages (h : q.kind ∉ [Kind.pwr, .pcie, .tier, .move, .elog]) : q ∉ recordPages := by
  revert h
  cases q <;> simp [Page.kind, recordPages, allParts]

/-- A place of a page outside those that a record's ring writes. -/
theorem apart_ringPlaces {f : Fld} {i : Nat} (hf : f.fits i = true) (h : q.kind ∉ [Kind.pwr, .pcie, .tier, .move, .elog]) :
    ∀ x ∈ ringPlaces, Place.apart x (f.place q i) := by
  have h1 : Page.elog ≠ q := by
    rintro rfl
    simp [Page.kind] at h
  have h2 : Page.tier ≠ q := by
    rintro rfl
    simp [Page.kind] at h
  simp [ringPlaces, errPlaces, irqPlaces, Place.apart_of_ne h1, Place.apart_of_ne h2, hf, show Reg.ELOG_SEQ_SEQ.fits 0 = true from by decide,
    show Reg.ELOG_STAT_OVERFLOW.fits 0 = true from by decide, show Reg.ELOG_TAIL_TAIL.fits 0 = true from by decide,
    show Reg.PG_ERR_CODE.fits 0 = true from by decide, show Reg.PG_ERR_MULTI.fits 0 = true from by decide, show Reg.PG_IRQ_STAT.fits 0 = true from by decide]

/-! ## Zones and layout -/

theorem exec_tierZoneWrite {w : Fin 4} {v : Word} (h : s.ready .tier = true) : exec (.tierZoneWrite z w v) s = .next (match w with
    | 0 => (s.writeCommit z .shallows (bits v.toNat 0 16)).writeCommit z .basin (bits v.toNat 16 16)
    | 1 => (s.writeCommit z .deep (bits v.toNat 0 16)).swWrite .tier Reg.TIER_ZONE_FIRST_TIER (bits v.toNat 16 2) z.val
    | 2 => s.writeMarks z Reg.TIER_ZONE_SHL_HIGH Reg.TIER_ZONE_SHL_LOW v.toNat
    | 3 => s.writeMarks z Reg.TIER_ZONE_BAS_HIGH Reg.TIER_ZONE_BAS_LOW v.toNat) :=
  congrArg Host.Outcome.next (State.ifReady_pos h _)

/-- A pair of watermarks, LOW not above HIGH. -/
theorem State.writeMarks_ok {hi lo : Fld} {x : Nat} (h : bits x 16 lo.width ≤ bits x 0 hi.width) (hr : lo.rowsApart hi = true) :
    (s.writeMarks z hi lo x).fld .tier hi z.val = bits x 0 hi.width ∧ (s.writeMarks z hi lo x).fld .tier lo z.val = bits x 16 lo.width ∧
    s.changes (s.writeMarks z hi lo x) [] [hi.place .tier z.val, lo.place .tier z.val] [] := by
  have e : s.writeMarks z hi lo x = (s.setFld .tier hi (bits x 0 hi.width) z.val).setFld .tier lo (bits x 16 lo.width) z.val := if_neg (by omega)
  rw [e]
  refine ⟨?_, State.fld_setFld_of_lt _ (bits_lt ..), .setFld (.setFld .refl)⟩
  rw [State.fld_setFld_rows _ hr, State.fld_setFld_of_lt _ (bits_lt ..)]

theorem State.writeMarks_reserved {hi lo : Fld} {x : Nat} (h : bits x 0 hi.width < bits x 16 lo.width) : s.writeMarks z hi lo x = s.rsvEnc .tier := if_pos h

theorem State.rsvEnc_refused : s.erred (s.rsvEnc pg) pg 0x0E ∧ s.counted (s.rsvEnc pg) pg 0x68 ∧
    s.changes (s.rsvEnc pg) [] (errPlaces pg) [(pg, 0x50), (pg, 0x68)] := by
  have h := State.changes.refused (s := s) (u := s) (cs := []) (fs := []) (ns := []) (pg := pg) .refl (by simp) (by simp)
  exact ⟨h.1, h.2, s.rsvEnc_changes pg⟩

theorem exec_tierLayoutWrite {side : Bool} {v : Word} (h : s.ready .tier = true) (hl : s.locked .tier = false) (hu : s.tierUsed = false) :
    exec (.tierLayoutWrite side v) s = .next (
      if side = true then (s.setFld .tier Reg.TIER_SIDE_CFG_BAS_SIDE (bits v.toNat 0 16)).setFld .tier Reg.TIER_SIDE_CFG_DEEP_SIDE (bits v.toNat 16 16)
      else (if bits v.toNat 0 8 % 2 = 1 ∧ 3 ≤ bits v.toNat 0 8 then s.setFld .tier Reg.TIER_MAP_CFG_MAP_FRAMES (bits v.toNat 0 8) else s.rsvEnc .tier).setFld
        .tier Reg.TIER_MAP_CFG_SHL_SIDE_FRAMES (bits v.toNat 8 8)) :=
  congrArg Host.Outcome.next ((State.ifReady_pos h _).trans ((if_neg (by simp [hl])).trans (if_neg (by simp [hu]))))

theorem exec_tierLayoutWrite_fixed {side : Bool} {v : Word} (h : s.ready .tier = true) (hl : s.locked .tier = true ∨ s.tierUsed = true) :
    exec (.tierLayoutWrite side v) s = .next (s.err .tier (if s.locked .tier then 0xF0 else 0x07)) := by
  refine congrArg Host.Outcome.next ((State.ifReady_pos h _).trans ?_)
  cases hk : s.locked .tier
  · exact (if_neg (by simp)).trans (if_pos (hl.resolve_left (by simp [hk])))
  · exact if_pos rfl

/-! ## A page lost -/

theorem State.poison_resident {page : Nat} (h : (s.leaf page).st = .resident d) :
    s.poison page = ((s.setLeaf page { s.leaf page with st := .poisoned }).count .tier 0xD0).irq .tier 3 := by
  unfold State.poison
  rw [if_neg (by simp [h])]
  simp only [h]

/-- The state after a page's home failed, before the record: the leaf POISONED, its frame retired and named. -/
def State.lost (s : State) (page : Nat) (l : Leaf) : State :=
  let pg := instOf l.frameTier l.frame
  ((((s.count pg 0x88).setFld pg (memErrFrame pg) l.frame).retireFrame l.frameTier l.frame).poison page)

/-- What names the failure of a page's frame in its record. -/
def State.lossSyn (s : State) (page : Nat) (l : Leaf) : List Byte :=
  List.flatten [[0x06, 0, 0, 0], bytesOfNat 4 l.frame, bytesOfNat 8 (page * 65536), s.freeBytes 2]

theorem exec_memUncorrectableError {page : Nat} (h : (s.leaf page).st = .resident d) (hf : page ∉ s.tier.filling) :
    exec (.memUncorrectableError page) s = .next ((s.lost page (s.leaf page)).record (instOf (s.leaf page).frameTier (s.leaf page).frame)
      { severity := 2, syn := (s.lost page (s.leaf page)).lossSyn page (s.leaf page) }) := by
  refine congrArg Host.Outcome.next ?_
  simp only [h, if_neg hf]
  rfl

theorem memErrFrame_apart (pg : Page) : (memDegraded pg).apart (memErrFrame pg) 0 0 = true := by
  cases pg <;> rfl

theorem memErrFrame_fits (pg : Page) : (memErrFrame pg).fits 0 = true := memFld_fits (by decide) (by decide) (by decide)
theorem memDegraded_fits (pg : Page) : (memDegraded pg).fits 0 = true := memFld_fits (by decide) (by decide) (by decide)

theorem memDegraded_width (pg : Page) : 1 < 2 ^ (memDegraded pg).width := Nat.one_lt_two_pow (by cases pg <;> exact Nat.one_ne_zero)

theorem kind_instOf {f : Nat} : (instOf d f).kind ∈ [Kind.shl, .bas, .deep] := by cases d <;> simp [instOf, Page.kind]

/-- A lost page: the fields, counts and entries that say so. -/
structure State.lostPage (s t : State) (page : Nat) (l : Leaf) : Prop where
  leaf : (t.leaf page).st = .poisoned
  retired : Map.get false t.tier.retired (frameKey l.frameTier l.frame) = true
  frame : t.fld (instOf l.frameTier l.frame) (memErrFrame (instOf l.frameTier l.frame)) = l.frame % 2 ^ (memErrFrame (instOf l.frameTier l.frame)).width
  degraded : t.fld (instOf l.frameTier l.frame) (memDegraded (instOf l.frameTier l.frame)) = 1
  failed : s.counted t (instOf l.frameTier l.frame) 0x88
  fewer : s.counted t (instOf l.frameTier l.frame) 0x90
  raised : s.raised t .tier 3

/-- What a lost page may touch before the record. -/
def lostPlaces (pg : Page) : List Place := [(memErrFrame pg).place pg, (memDegraded pg).place pg] ++ irqPlaces .tier
def lostCounts (pg : Page) : List (Page × Nat) := [(pg, 0x88), (pg, 0x90), (.tier, 0xD0)] ++ irqCounts .tier

theorem State.lost_lostPage {page : Nat} (h : (s.leaf page).st = .resident d) :
    s.lostPage (s.lost page (s.leaf page)) page (s.leaf page) ∧
    s.changes (s.lost page (s.leaf page)) [.out, .tier, .pcie] (lostPlaces (instOf (s.leaf page).frameTier (s.leaf page).frame))
      (lostCounts (instOf (s.leaf page).frameTier (s.leaf page).frame)) := by
  obtain ⟨l, hl⟩ : ∃ l, l = s.leaf page := ⟨_, rfl⟩
  obtain ⟨pg, hpg⟩ : ∃ pg, pg = instOf l.frameTier l.frame := ⟨_, rfl⟩
  obtain ⟨u1, e1⟩ : ∃ u, u = s.count pg 0x88 := ⟨_, rfl⟩
  obtain ⟨u2, e2⟩ : ∃ u, u = u1.setFld pg (memErrFrame pg) l.frame := ⟨_, rfl⟩
  obtain ⟨u3, e3⟩ : ∃ u, u = (u2.setTier { u2.tier with retired := Map.set false u2.tier.retired (frameKey l.frameTier l.frame) true }) := ⟨_, rfl⟩
  obtain ⟨u4, e4⟩ : ∃ u, u = u3.setFld pg (memDegraded pg) 1 := ⟨_, rfl⟩
  obtain ⟨u5, e5⟩ : ∃ u, u = u4.count pg 0x90 := ⟨_, rfl⟩
  obtain ⟨u6, e6⟩ : ∃ u, u = (u5.setLeaf page { u5.leaf page with st := .poisoned }).count .tier 0xD0 := ⟨_, rfl⟩
  have c1 : s.changes u1 [] [] [(pg, 0x88)] := e1 ▸ .count .refl
  have c2 : u1.changes u2 [] [(memErrFrame pg).place pg] [] := e2 ▸ .setFld .refl
  have c3 : u2.changes u3 [.tier] [] [] := e3 ▸ .setTier .refl
  have c4 : u3.changes u4 [] [(memDegraded pg).place pg] [] := e4 ▸ .setFld .refl
  have c5 : u4.changes u5 [] [] [(pg, 0x90)] := e5 ▸ .count .refl
  have c6 : u5.changes u6 [.tier] [] [(.tier, 0xD0)] := by
    rw [e6]
    exact .count (.setLeaf .refl)
  have t3 : u3.tier = { s.tier with retired := Map.set false s.tier.retired (frameKey l.frameTier l.frame) true } := by
    have : u2.tier = s.tier := (c2.1 .tier (by simp)).trans (c1.1 .tier (by simp))
    rw [e3, this]
    rfl
  have t5 : u5.tier = u3.tier := (c5.1 .tier (by simp)).trans (c4.1 .tier (by simp))
  have l5 : u5.leaf page = l := by
    rw [hl]
    exact State.leaf_congr (by rw [t5, t3])
  have e : s.lost page (s.leaf page) = u6.irq .tier 3 := by
    rw [← hl, State.lost, ← hpg, ← e1, ← e2]
    have : u2.retireFrame l.frameTier l.frame = u5 := by
      rw [e5, e4, e3, hpg]
      rfl
    rw [this, State.poison_resident (d := d) (by rw [l5, hl, h]), e6]
  have ht : pg ≠ .tier := by
    rw [hpg]
    exact instOf_ne_tier _ _
  have f1 := memErrFrame_fits pg
  have f2 := memDegraded_fits pg
  have fi : Reg.PG_IRQ_STAT.fits 0 = true := by decide
  have ap : Place.apart ((memDegraded pg).place pg) ((memErrFrame pg).place pg) := Place.apart_of_apart (memErrFrame_apart pg)
  have ci : u6.changes (u6.irq .tier 3) [.out, .pcie] (irqPlaces .tier) (irqCounts .tier) := u6.irq_changes ..
  have hne : ∀ {a b : Nat}, a < 4096 → b < 4096 → pg.base + a ≠ Page.tier.base + b := fun ha hb => Page.add_ne ht ha hb
  have hpc : pg ≠ .pcie := by
    rintro rfl
    have := kind_instOf (d := l.frameTier) (f := l.frame)
    rw [← hpg] at this
    simp [Page.kind] at this
  have hni : ∀ o < 4096, ∀ x ∈ irqCounts .tier, pg.base + o ≠ x.1.base + x.2 := by
    intro o ho x hx
    simp only [irqCounts, List.mem_cons, List.not_mem_nil, or_false] at hx
    rcases hx with rfl | rfl
    · exact hne ho (by simp)
    · exact Page.add_ne hpc ho (by simp)
  rw [e, ← hl, ← hpg]
  refine ⟨?_, ?_⟩
  · constructor
    · rw [State.leaf_congr (congrArg Tier.pages (ci.1 .tier (by simp))), e6]
      rw [State.leaf_congr (t := (u5.setLeaf page _).count .tier 0xD0) (congrArg Tier.pages (State.tier_count ..)), State.leaf_setLeaf_same]
    · have hr : (u5.setLeaf page { u5.leaf page with st := .poisoned }).tier.retired = u5.tier.retired := by
        obtain ⟨lv, ds, hs⟩ := u5.setLeaf_eq page { u5.leaf page with st := .poisoned }
        rw [hs]
        rfl
      rw [ci.1 .tier (by simp), e6, State.tier_count, hr, t5, t3]
      exact Map.get_set_same (d := false) s.tier.retired (frameKey l.frameTier l.frame) true
    · rw [← hpg, ci.fld, c6.fld (by simp), c5.fld (by simp), c4.fld (List.forall_mem_singleton.2 ap), c3.fld (by simp), e2, State.fld_setFld_same]
      exact List.forall_mem_singleton.2 (Place.apart_of_ne ht.symm fi f1)
    · rw [← hpg, ci.fld, c6.fld (by simp), c5.fld (by simp), e4, State.fld_setFld_of_lt _ (memDegraded_width pg)]
      exact List.forall_mem_singleton.2 (Place.apart_of_ne ht.symm fi f2)
    · rw [← hpg]
      have k : s.counted u1 pg 0x88 := e1 ▸ State.counted_count
      exact ((((k.after c2).after c3).after c4).after c5 (by simp)).after c6 (List.forall_mem_singleton.2 (hne (a := 0x88) (b := 0xD0) (by omega) (by omega))) |>.after ci (hni _ (by omega))
    · rw [← hpg]
      have k : u4.counted u5 pg 0x90 := e5 ▸ State.counted_count
      refine .before c1 (.before c2 (.before c3 (.before c4 ?_))) (by simp)
      exact (k.after c6 (List.forall_mem_singleton.2 (hne (a := 0x90) (b := 0xD0) (by omega) (by omega)))).after ci (hni _ (by omega))
    · have c : s.changes u6 [.tier] [(memErrFrame pg).place pg, (memDegraded pg).place pg] [(pg, 0x88), (pg, 0x90), (.tier, 0xD0)] := by
        rw [e6, e5, e4, e3, e2, e1]
        exact .count (.setLeaf (.count (.setFld (.setTier (.setFld (.count .refl))))))
      refine c.raised ?_
      simp [Place.apart_of_ne ht, f1, f2, fi]
  · rw [e6, e5, e4, e3, e2, e1]
    exact .irq (.count (.setLeaf (.count (.setFld (.setTier (.setFld (.count .refl (by simp [lostCounts])) (by simp [lostPlaces]))) (by simp [lostPlaces]))
      (by simp [lostCounts]))) (by simp [lostCounts])) (by simp) (by simp [lostPlaces, irqPlaces]) (by simp [lostCounts, irqCounts])

end

end Sys2Proof.Machine
end

section
/-! PROOFS. O13: zones, layout and instances of the tiers (R121, R143, R144, R148, R349, R415). -/

namespace Sys2Proof.Machine
open Sys2Proof

section
variable {s t u : State} {d : TierName} {z : PartId} {pg q : Page} {a : RecArgs} {cs : List Comp} {fs : List Place} {ns : List (Page × Nat)}

/-! ## Zone words of commits -/

/-- After another tier's commit, a commit is judged as before. -/
theorem State.mayCommit_congr {v : Nat} (h : s.changes t cs fs ns) (hf : ∀ x ∈ fs, ∀ p : PartId, Place.apart x ((commitFld d).1.place .tier p.val))
    (hc : ∀ x ∈ fs, Place.apart x ((commitFld d).2.place .tier)) : t.mayCommit z d v ↔ s.mayCommit z d v := by
  have h1 (p : PartId) : t.fld .tier (commitFld d).1 p.val = s.fld .tier (commitFld d).1 p.val := h.fld fun x hx => hf x hx p
  rw [State.mayCommit, State.mayCommit, h1, State.commitSum_congr h1, h.fld hc]

/-- The other fields of the tier's page are apart from a tier's commits. -/
theorem commit_apart {e : TierName} (h : d ≠ e) {p : PartId} : Place.apart ((commitFld d).1.place .tier z.val) ((commitFld e).1.place .tier p.val) :=
  Place.apart_rows (commit_rows h)

theorem cap_apart_commit {e : TierName} : Place.apart ((commitFld d).1.place .tier z.val) ((commitFld e).2.place .tier) :=
  Place.apart_of_above cap_below_commit.1

theorem commit_width {v lo : Nat} : bits v lo 16 < 2 ^ (commitFld d).1.width := by
  cases d <;> exact bits_lt ..

/-! ## Pages that become ready -/

theorem State.recap_bas {i : Fin 8} : s.recap (.bas i) = s.recount .basin := rfl

/-- A trained page is ready. -/
def State.readied (s : State) (pg : Page) : State := (s.setFld pg Reg.PG_READY_READY 1).setFld pg Reg.PG_READY_FAILED 0

theorem State.ready_readied : (s.readied pg).ready pg = true ∧ (s.readied pg).fld pg Reg.PG_READY_FAILED = 0 ∧
    s.changes (s.readied pg) [] [Reg.PG_READY_READY.place pg, Reg.PG_READY_FAILED.place pg] [] := by
  refine ⟨?_, State.fld_setFld_of_lt _ (by decide), .setFld (.setFld .refl)⟩
  rw [State.ready, State.flag, State.readied, State.fld_setFld_apart _ (by decide), State.fld_setFld_of_lt _ (by decide)]
  rfl

theorem State.ready_eq_of (h : t.fld pg Reg.PG_READY_READY = s.fld pg Reg.PG_READY_READY) : t.ready pg = s.ready pg := by
  rw [State.ready, State.ready, State.flag, State.flag, h]

theorem exec_blockTrainingDone {dimms rate frames : Nat} (h : s.ready pg = false) (hr : s.fld .wlh Reg.WLH_STAT_RECOVERY = 0)
    (h1 : pg.kind ≠ .tile) (h2 : pg.kind ≠ .disp) (h3 : pg.kind ≠ .wlh) (hk : pg = .tier → ∃ d : Fin 4, s.ready (.shl d) = true) :
    exec (.blockTrainingDone pg true dimms rate frames) s = .next (match pg with
      | .bas _ => (((s.readied pg).setFld pg Reg.BAS_MEM_STAT_ONLINE 1).setFld pg Reg.BAS_MEM_FRAMES_FRAMES 786432).recap pg
      | .shl _ => (((s.readied pg).setFld pg Reg.SHL_MEM_STAT_ONLINE 1).setFld pg Reg.SHL_MEM_FRAMES_FRAMES 32768).recap pg
      | .deep _ => (((((s.readied pg).setFld pg Reg.DEEP_MEM_STAT_ONLINE 1).setFld pg Reg.DEEP_MEM_FRAMES_FRAMES (min frames 2097152)).setFld pg
          Reg.DEEP_MEM_STAT_DIMMS dimms).setFld pg Reg.DEEP_MEM_STAT_RATE rate).recap pg
      | _ => s.readied pg) := by
  have hg : (s.ready pg || s.flag .wlh Reg.WLH_STAT_RECOVERY) = false := by simp [h, State.flag, hr]
  refine congrArg Host.Outcome.next ((if_neg (by rw [hg]; decide)).trans ?_)
  cases pg
  case tile => exact absurd rfl h1
  case disp => exact absurd rfl h2
  case wlh => exact absurd rfl h3
  case tier =>
    obtain ⟨d, hd⟩ := hk rfl
    exact (if_neg fun h => h.2.2 (List.any_eq_true.2 ⟨d, List.mem_finRange d, hd⟩)).trans (if_pos rfl)
  all_goals exact (if_neg fun h => by cases h.1).trans (if_pos rfl)

theorem exec_blockTrainingDone_failed {dimms rate frames : Nat} (h : s.ready pg = false) (hr : s.fld .wlh Reg.WLH_STAT_RECOVERY = 0)
    (h1 : pg.kind ≠ .tile) (h2 : pg.kind ≠ .disp) (h3 : pg.kind ≠ .wlh) :
    exec (.blockTrainingDone pg false dimms rate frames) s = .next (((s.setFld pg Reg.PG_READY_FAILED 1).recap pg).record pg { severity := 1 }) := by
  have hg : (s.ready pg || s.flag .wlh Reg.WLH_STAT_RECOVERY) = false := by simp [h, State.flag, hr]
  refine congrArg Host.Outcome.next ((if_neg (by rw [hg]; decide)).trans ?_)
  cases pg
  case tile => exact absurd rfl h1
  case disp => exact absurd rfl h2
  case wlh => exact absurd rfl h3
  all_goals exact (if_neg fun h => absurd h.2.1 (by decide)).trans (if_neg (by decide))

/-- A recount after fields of a memory instance changed: what it leaves, and the capacity that results. -/
theorem State.recount_after (h : s.changes u [] fs []) : s.changes (u.recount d) [.out, .pcie] (fs ++ capPlaces d) (irqCounts .tier) ∧
    (u.recount d).fld .tier (commitFld d).2 = (u.recount d).upperCap d - Map.get 0 s.tier.capLost (tierIdx d) := by
  obtain ⟨k1, k2⟩ := State.recount_spec (s := u) (d := d)
  refine ⟨State.changes_trans (State.changes_mono h (by simp) (fun _ hx => List.mem_append_left _ hx) (by simp))
    (State.changes_mono k1 (fun _ h => h) (fun _ hx => List.mem_append_right _ hx) fun _ h => h), ?_⟩
  rw [k2, h.1 .tier (by simp)]

theorem apart_capPlaces_page {f : Fld} {i : Nat} (hq : q ≠ .tier) (hf : f.fits i = true) : ∀ x ∈ capPlaces d, Place.apart x (f.place q i) := by
  have hc : (commitFld d).2.fits 0 = true := by cases d <;> decide
  simp [capPlaces, overPlaces, irqPlaces, Place.apart_of_ne hq.symm, hf, hc, show Reg.TIER_STAT_OVER.fits 0 = true from by decide,
    show Reg.PG_IRQ_STAT.fits 0 = true from by decide]

theorem State.recount_fld {f : Fld} {i : Nat} (hq : q ≠ .tier) (hf : f.fits i = true) : (s.recount d).fld q f i = s.fld q f i :=
  State.recount_spec.1.fld (apart_capPlaces_page hq hf)

theorem State.recap_changes : s.changes (s.recap pg) [.out, .pcie] ([.shallows, .basin, .deep].flatMap capPlaces) (irqCounts .tier) := by
  unfold State.recap
  split
  · exact State.changes_mono State.recount_spec.1 (fun _ h => h) (by simp +contextual [or_imp]) fun _ h => h
  · exact State.changes_mono State.recount_spec.1 (fun _ h => h) (by simp +contextual [or_imp]) fun _ h => h
  · exact State.changes_mono State.recount_spec.1 (fun _ h => h) (by simp +contextual [or_imp]) fun _ h => h
  · exact .refl

/-- The field of a header that says that training failed is apart from the capacities. -/
theorem capPlaces_apart_failed : ∀ x ∈ ([.shallows, .basin, .deep] : List TierName).flatMap capPlaces, Place.apart x (Reg.PG_READY_FAILED.place .tier) := by
  simp +decide [capPlaces, overPlaces, irqPlaces, Place.apart_of, commitFld]

theorem capPlaces_onPages : ∀ x ∈ ([.shallows, .basin, .deep] : List TierName).flatMap capPlaces, x.1 = .tier ∧ x.2.1.fits x.2.2 = true := by
  decide

/-- The places of the capacities and a field of a header, or of another page. -/
theorem apart_recap {f : Fld} {i : Nat} (h : q = .tier → ∀ x ∈ ([.shallows, .basin, .deep] : List TierName).flatMap capPlaces, Place.apart x (f.place .tier i))
    (hf : f.fits i = true) : ∀ x ∈ ([.shallows, .basin, .deep] : List TierName).flatMap capPlaces, Place.apart x (f.place q i) := by
  intro x hx
  by_cases hq : q = .tier
  · exact hq ▸ h hq x hx
  · obtain ⟨k1, k2⟩ := capPlaces_onPages x hx
    obtain ⟨p, g, j⟩ := x
    cases k1
    exact Place.apart_of_ne (Ne.symm hq) k2 hf

/-! ## Instances -/

/-- A page that is ready, with what its memory reads. -/
structure State.trainedPage (s t : State) (pg : Page) (vals : List (Fld × Nat)) (d : TierName) : Prop where
  ready : t.ready pg = true
  failed : t.fld pg Reg.PG_READY_FAILED = 0
  values : ∀ x ∈ vals, t.fld pg x.1 = x.2
  cap : t.fld .tier (commitFld d).2 = t.upperCap d - Map.get 0 s.tier.capLost (tierIdx d)
  frame : s.changes t [.out, .pcie] ([Reg.PG_READY_READY.place pg, Reg.PG_READY_FAILED.place pg] ++ vals.map (fun x => x.1.place pg) ++ capPlaces d) (irqCounts .tier)

theorem State.trainedPage_recount {vals : List (Fld × Nat)} (hq : pg ≠ .tier)
    (hfit : ∀ x ∈ vals, x.1.fits 0 = true ∧ x.1.apart Reg.PG_READY_READY 0 0 = true ∧ x.1.apart Reg.PG_READY_FAILED 0 0 = true)
    (h3 : ∀ x ∈ vals, u.fld pg x.1 = x.2) (h : (s.readied pg).changes u [] (vals.map fun x => x.1.place pg) []) :
    s.trainedPage (u.recount d) pg vals d := by
  obtain ⟨k1, k2, k3⟩ := s.ready_readied (pg := pg)
  have h1 : u.ready pg = true := by
    refine (State.ready_eq_of (h.fld ?_)).trans k1
    exact List.forall_mem_map.2 fun x hx => Place.apart_of_apart (hfit x hx).2.1
  have h2 : u.fld pg Reg.PG_READY_FAILED = 0 := by
    refine (h.fld ?_).trans k2
    exact List.forall_mem_map.2 fun x hx => Place.apart_of_apart (hfit x hx).2.2
  have hc : s.changes u [] ([Reg.PG_READY_READY.place pg, Reg.PG_READY_FAILED.place pg] ++ vals.map (fun x => x.1.place pg)) [] :=
    State.changes_trans (State.changes_mono k3 (by simp) (fun _ hx => List.mem_append_left _ hx) (by simp))
      (State.changes_mono h (by simp) (fun _ hx => List.mem_append_right _ hx) (by simp))
  exact ⟨(State.ready_eq_of (State.recount_fld hq (by decide))).trans h1, (State.recount_fld hq (by decide)).trans h2,
    fun x hx => (State.recount_fld hq (hfit x hx).1).trans (h3 x hx), (State.recount_after hc).2, (State.recount_after hc).1⟩

theorem State.trained_bas {i : Fin 8} : s.trainedPage ((((s.readied (.bas i)).setFld (.bas i) Reg.BAS_MEM_STAT_ONLINE 1).setFld (.bas i)
    Reg.BAS_MEM_FRAMES_FRAMES 786432).recount .basin) (.bas i) [(Reg.BAS_MEM_STAT_ONLINE, 1), (Reg.BAS_MEM_FRAMES_FRAMES, 786432)] .basin := by
  refine State.trainedPage_recount (by simp) (by decide) ?_ (.setFld (.setFld .refl))
  simp +decide [State.fld_eq]

theorem State.trained_shl {i : Fin 4} : s.trainedPage ((((s.readied (.shl i)).setFld (.shl i) Reg.SHL_MEM_STAT_ONLINE 1).setFld (.shl i)
    Reg.SHL_MEM_FRAMES_FRAMES 32768).recount .shallows) (.shl i) [(Reg.SHL_MEM_STAT_ONLINE, 1), (Reg.SHL_MEM_FRAMES_FRAMES, 32768)] .shallows := by
  refine State.trainedPage_recount (by simp) (by decide) ?_ (.setFld (.setFld .refl))
  simp +decide [State.fld_eq]

theorem State.trained_deep {i : Fin 16} {dimms rate frames : Nat} (h1 : dimms < 4) (h2 : rate < 2 ^ Reg.DEEP_MEM_STAT_RATE.width) :
    s.trainedPage ((((((s.readied (.deep i)).setFld (.deep i) Reg.DEEP_MEM_STAT_ONLINE 1).setFld (.deep i) Reg.DEEP_MEM_FRAMES_FRAMES
      (min frames 2097152)).setFld (.deep i) Reg.DEEP_MEM_STAT_DIMMS dimms).setFld (.deep i) Reg.DEEP_MEM_STAT_RATE rate).recount .deep) (.deep i)
      [(Reg.DEEP_MEM_STAT_ONLINE, 1), (Reg.DEEP_MEM_FRAMES_FRAMES, min frames 2097152), (Reg.DEEP_MEM_STAT_DIMMS, dimms), (Reg.DEEP_MEM_STAT_RATE, rate)] .deep := by
  have h1' : dimms < 2 ^ Reg.DEEP_MEM_STAT_DIMMS.width := h1
  have h3 : min frames 2097152 < 2 ^ Reg.DEEP_MEM_FRAMES_FRAMES.width := lt_of_le_of_lt (Nat.min_le_right ..) (by decide)
  refine State.trainedPage_recount (by simp) (by simp +decide) ?_ (.setFld (.setFld (.setFld (.setFld .refl))))
  simp +decide [State.fld_eq, h1', h2, h3]

/-- A failed training: FAILED shows, and the record names the page. -/
theorem State.failedTraining : ((((s.setFld pg Reg.PG_READY_FAILED 1).recap pg).record pg { severity := 1 }).fld pg Reg.PG_READY_FAILED = 1) ∧
    s.recorded (((s.setFld pg Reg.PG_READY_FAILED 1).recap pg).record pg { severity := 1 }) pg { severity := 1 } ∧
    s.changesOn (((s.setFld pg Reg.PG_READY_FAILED 1).recap pg).record pg { severity := 1 }) recordComps (pg :: recordPages) := by
  obtain ⟨u, hu⟩ : ∃ u, u = s.setFld pg Reg.PG_READY_FAILED 1 := ⟨_, rfl⟩
  obtain ⟨v, hv⟩ : ∃ v, v = u.recap pg := ⟨_, rfl⟩
  have hc : s.changes u [] [Reg.PG_READY_FAILED.place pg] [] := hu ▸ .setFld .refl
  have hk : u.changes v [.out, .pcie] _ _ := hv ▸ State.recap_changes
  have hrail : Reg.RAIL_MV_MV.fits (railOf pg) = true := by
    have := railOf_le (pg := pg)
    interval_cases railOf pg <;> rfl
  rw [← hu, ← hv]
  refine ⟨?_, ?_, ?_⟩
  · rw [(State.homesKept_record pg { severity := 1 }).fld (by simp +decide [ringPlaces, errPlaces, irqPlaces, Place.apart_of]),
      hk.fld (apart_recap (fun _ => capPlaces_apart_failed) (by decide)), hu, State.fld_setFld_of_lt _ (by decide)]
  · refine State.recorded.before hc (State.recorded.before hk (State.record_recorded (by decide)) (by simp) ?_) (by simp) ?_
    · intro x hx
      exact ⟨apart_recap (by simp) hrail x hx, apart_recap (by simp) (by decide) x hx⟩
    · refine List.forall_mem_singleton.2 ⟨?_, Place.apart_of (by decide) (by decide) (by decide)⟩
      by_cases hp : pg = .pwr
      · exact hp ▸ Place.apart_of_below (by decide)
      · exact Place.apart_of_ne hp (by decide) hrail
  · have c1 : s.changesOn u recordComps (pg :: recordPages) :=
      .mono (hc.onPages (pgs := [pg]) (by simpa [Fld.place] using by decide) (by simp)) (by simp) (by simp)
    have c2 : u.changesOn v recordComps (pg :: recordPages) :=
      .mono (hk.onPages (pgs := [.tier, .pcie]) (fun x hx => by simp [capPlaces_onPages x hx]) (by simp [irqCounts])) (by simp [recordComps]) (by simp [recordPages])
    exact (c1.trans c2).trans (State.record_changesOn.mono (fun _ h => h) fun _ h => List.mem_cons_of_mem _ h)

end

end Sys2Proof.Machine
end

section
/-! PROOFS. O13: the clauses put together. -/

namespace Sys2Proof.Machine
open Sys2Proof

section
variable {s t u : State} {d : TierName} {z : PartId} {pg q : Page} {v : Nat}

theorem errIrq_apart_commit : ∀ y ∈ errPlaces .tier ++ irqPlaces .tier, ∀ p : PartId, Place.apart y ((commitFld d).1.place .tier p.val) := by
  have h := (cap_below_commit (d := d) (e := d)).2.2
  simp [errPlaces, irqPlaces, Place.apart_of_below h.1, Place.apart_of_below h.2.1, Place.apart_of_below h.2.2]

theorem State.refusedCommit_spec : s.erred ((s.err .tier 0x01).irq .tier 1) .tier 0x01 ∧ s.raised ((s.err .tier 0x01).irq .tier 1) .tier 1 ∧
    s.changes ((s.err .tier 0x01).irq .tier 1) [.out, .pcie] (errPlaces .tier ++ irqPlaces .tier) (errCounts .tier ++ irqCounts .tier) := by
  have k1 : s.changes (s.err .tier 0x01) [] (errPlaces .tier) (errCounts .tier) := s.err_changes ..
  refine ⟨?_, k1.raised (by simp +decide [errPlaces, Place.apart_of]), ?_⟩
  · exact State.changes.stays_erred (State.irq_changes ..) (s.err_erred .tier 0x01 (by decide)) (by simp +decide [irqPlaces, Place.apart_of])
      (by simp +decide [irqCounts])
  · exact .irq (State.changes_mono k1 (by simp) (by simp +contextual) (by simp +contextual)) (by simp) (by simp [irqPlaces]) (by simp [irqCounts])

theorem ringPlaces_apart_irq : ∀ x ∈ ringPlaces, Place.apart x (Reg.PG_IRQ_STAT.place .tier) := by
  simp +decide only [ringPlaces, errPlaces, irqPlaces, List.cons_append, List.nil_append, List.forall_mem_cons, List.forall_mem_nil, Place.apart_of, Place.apart_of_ne, true_and]
  exact List.forall_mem_nil _

/-- Settles O13: a zone's words are judged one by one against the capacities; what a lost page or a failed training leaves stands after its record. -/
theorem tierLayoutAndZones : Obligations.TierLayoutAndZones := by
  unfold Obligations.TierLayoutAndZones
  refine ⟨?_, ?_, ?_, ?_, ?_, ?_, ?_, ?_, ?_, ?_, ?_, ?_, ?_, ?_, ?_, ?_, ?_⟩
  · intro s z v h h1 h2 ho
    obtain ⟨u, hu⟩ : ∃ u, u = s.setFld .tier (commitFld .shallows).1 (bits v.toNat 0 16) z.val := ⟨_, rfl⟩
    have hc : s.changes u [] [(commitFld .shallows).1.place .tier z.val] [] := hu ▸ .setFld .refl
    have hm : u.mayCommit z .basin (bits v.toNat 16 16) := by
      refine (State.mayCommit_congr hc ?_ ?_).2 h2
      · exact List.forall_mem_singleton.2 fun p => commit_apart (by decide)
      · exact List.forall_mem_singleton.2 cap_apart_commit
    have ho' : u.fld .tier Reg.TIER_STAT_OVER = 0 := (hc.fld (List.forall_mem_singleton.2 (Place.apart_of_above (by decide)))).trans ho
    refine completes.next ?_ (exec_tierZoneWrite h)
    change State.fld (State.writeCommit (State.writeCommit ..) ..) _ _ _ = _ ∧ _
    rw [State.writeCommit_ok h1 ho, ← hu, State.writeCommit_ok hm ho']
    refine ⟨?_, State.fld_setFld_of_lt _ (bits_lt ..), ?_⟩
    · rw [State.fld_setFld_rows _ (by decide), hu]
      exact State.fld_setFld_of_lt _ (bits_lt ..)
    · exact .setFld (State.changes_mono hc (by simp) (by simp [commitFld]) (by simp)) (by simp [commitFld])
  · intro s z v h h1 h2 ho
    obtain ⟨u, hu⟩ : ∃ u, u = (s.err .tier 0x01).irq .tier 1 := ⟨_, rfl⟩
    obtain ⟨k1, k2, k3⟩ := hu ▸ s.refusedCommit_spec
    have hm : u.mayCommit z .basin (bits v.toNat 16 16) := by
      refine (State.mayCommit_congr k3 ?_ ?_).2 h2
      · exact errIrq_apart_commit
      · simp +decide [errPlaces, irqPlaces, Place.apart_of, commitFld]
    have ho' : u.fld .tier Reg.TIER_STAT_OVER = 0 := (k3.fld (by simp +decide [errPlaces, irqPlaces, Place.apart_of])).trans ho
    have e : (s.writeCommit z .shallows (bits v.toNat 0 16)).writeCommit z .basin (bits v.toNat 16 16) =
        u.setFld .tier (commitFld .basin).1 (bits v.toNat 16 16) z.val := by
      rw [State.writeCommit_refused h1, ← hu, State.writeCommit_ok hm ho']
    refine completes.next ?_ ((exec_tierZoneWrite h).trans (congrArg Host.Outcome.next e))
    have kc : u.changes (u.setFld .tier (commitFld .basin).1 (bits v.toNat 16 16) z.val) [] [(commitFld .basin).1.place .tier z.val] [] := .setFld .refl
    refine ⟨?_, State.fld_setFld_of_lt _ (bits_lt ..), ?_, ?_, ?_⟩
    · rw [State.fld_setFld_rows _ (by decide)]
      exact k3.fld fun x hx => errIrq_apart_commit (d := .shallows) x hx z
    · exact kc.stays_erred k1 (List.forall_mem_singleton.2 ⟨Place.apart_of_above (by decide), Place.apart_of_above (by decide)⟩) (by simp)
    · exact (kc.irqStat (List.forall_mem_singleton.2 (Place.apart_of_above (by decide)))).trans k2
    · exact .setFld (State.changes_mono k3 (by simp) (by simp +contextual [or_imp]) (by simp +contextual)) (by simp [commitFld])
  · intro s z v h h1 h2 ho
    obtain ⟨u, hu⟩ : ∃ u, u = s.setFld .tier (commitFld .deep).1 (bits v.toNat 0 16) z.val := ⟨_, rfl⟩
    have e : (s.writeCommit z .deep (bits v.toNat 0 16)).swWrite .tier Reg.TIER_ZONE_FIRST_TIER (bits v.toNat 16 2) z.val =
        u.setFld .tier Reg.TIER_ZONE_FIRST_TIER (bits v.toNat 16 2) z.val := by
      rw [State.writeCommit_ok h1 ho, ← hu]
      exact State.swWrite_ok rfl (by simpa [Fld.ok, Reg.TIER_ZONE_FIRST_TIER] using h2)
    refine completes.next ?_ ((exec_tierZoneWrite h).trans (congrArg Host.Outcome.next e))
    refine ⟨?_, State.fld_setFld_of_lt _ (bits_lt ..), ?_⟩
    · rw [State.fld_setFld_rows _ (by decide), hu]
      exact State.fld_setFld_of_lt _ (bits_lt ..)
    · rw [hu]
      exact .setFld (.setFld .refl (by simp [commitFld]))
  · intro s z v h h1
    exact completes.next (State.writeMarks_ok h1 (by decide)) (exec_tierZoneWrite h)
  · intro s z v h h1
    exact completes.next (State.writeMarks_ok h1 (by decide)) (exec_tierZoneWrite h)
  · intro s z w v h h1
    rcases h1 with ⟨rfl, h1⟩ | ⟨rfl, h1⟩
    · exact completes.next State.rsvEnc_refused ((exec_tierZoneWrite h).trans (congrArg Host.Outcome.next (State.writeMarks_reserved h1)))
    · exact completes.next State.rsvEnc_refused ((exec_tierZoneWrite h).trans (congrArg Host.Outcome.next (State.writeMarks_reserved h1)))
  · intro s v h h1 h2
    refine completes.next ⟨?_, State.fld_setFld_of_lt _ (bits_lt ..), .setFld (.setFld .refl)⟩ (exec_tierLayoutWrite h h1 h2)
    rw [State.fld_setFld_apart _ (by decide)]
    exact State.fld_setFld_of_lt _ (bits_lt ..)
  · intro s v h h1 h2 h3 h4
    have e := (exec_tierLayoutWrite (side := false) (v := v) h h1 h2).trans
      (congrArg (fun u : State => Host.Outcome.next (u.setFld .tier Reg.TIER_MAP_CFG_SHL_SIDE_FRAMES (bits v.toNat 8 8))) (if_pos ⟨h3, h4⟩))
    refine completes.next ⟨?_, State.fld_setFld_of_lt _ (bits_lt ..), .setFld (.setFld .refl)⟩ e
    rw [State.fld_setFld_apart _ (by decide)]
    exact State.fld_setFld_of_lt _ (bits_lt ..)
  · intro s side v h h1
    refine completes.next ⟨?_, s.err_changes ..⟩ (exec_tierLayoutWrite_fixed h h1)
    exact s.err_erred .tier _ (by split <;> decide)
  · intro s d cap h
    obtain ⟨u, hu⟩ : ∃ u, u = s.setTier { s.tier with capLost := Map.set 0 s.tier.capLost (tierIdx d) (s.upperCap d - cap) } := ⟨_, rfl⟩
    have hc : s.changes u [.tier] [] [] := hu ▸ .setTier .refl
    have hf {f : Fld} {i : Nat} : u.fld .tier f i = s.fld .tier f i := hc.fld (by simp)
    have hcap : cap < 2 ^ 16 := h.trans (by
      refine lt_of_lt_of_le (s.fld_lt ..) ?_
      cases d <;> decide)
    have e : exec (.tierCapacityDrop d cap) s = .next (u.setCap d cap) := by
      rw [hu]
      exact congrArg Host.Outcome.next (if_pos h)
    obtain ⟨k1, k2⟩ := State.setCap_spec (s := u) (d := d) hcap (by rw [hf]; omega)
    rw [State.commitSum_congr fun _ => hf] at k1 k2
    rw [hf] at k2
    have kc : u.changes (u.setCap d cap) [.out, .pcie] (capPlaces d) (irqCounts .tier) := State.setCap_changes
    refine completes.next ⟨State.fld_setCap hcap, k1, fun h5 h6 => (k2 h5 h6).trans (congrArg (· ||| _) (hc.irqStat (by simp))), ?_, ?_⟩ e
    · rw [kc.1 .tier (by simp), hu]
      exact Map.get_set_same (d := 0) s.tier.capLost (tierIdx d) (s.upperCap d - cap)
    · exact State.changes_trans (State.changes_mono hc (by simp) (by simp) (by simp)) (State.changes_mono kc (by simp) (by simp [capPlaces, overPlaces]) (by simp))
  · rintro s page d pg h hf rfl
    obtain ⟨u, hu⟩ : ∃ u, u = s.lost page (s.leaf page) := ⟨_, rfl⟩
    obtain ⟨k, kc⟩ := hu ▸ State.lost_lostPage h
    have e := exec_memUncorrectableError h hf
    rw [← hu] at e
    obtain ⟨pg, hpg⟩ : ∃ pg, pg = instOf (s.leaf page).frameTier (s.leaf page).frame := ⟨_, rfl⟩
    rw [← hpg] at e kc ⊢
    have hkind : pg.kind ∉ [Kind.pwr, .pcie, .tier, .move, .elog] := by
      have := kind_instOf (d := (s.leaf page).frameTier) (f := (s.leaf page).frame)
      rw [← hpg] at this
      revert this
      cases pg <;> simp [Page.kind]
    have hsyn : u.lossSyn page (s.leaf page) = s.lossSyn page (s.leaf page) := by
      rw [State.lossSyn, State.lossSyn, State.freeBytes, State.freeBytes, kc.1 .fresh (by simp)]
    rw [hsyn] at e
    obtain ⟨t, ht⟩ : ∃ t, t = u.record pg { severity := 2, syn := s.lossSyn page (s.leaf page) } := ⟨_, rfl⟩
    have hk : u.homesKept t ringPlaces := ht ▸ u.homesKept_record ..
    have hr : u.recorded t pg _ := ht ▸ State.record_recorded Nat.two_pos.ne'
    have ho : u.changesOn t recordComps recordPages := ht ▸ State.record_changesOn
    have hs : (u.leaf page).settled := by simp [Leaf.settled, k.leaf]
    have hn : pg ∉ recordPages := notMem_recordPages hkind
    have hrail : Reg.RAIL_MV_MV.fits (railOf pg) = true := by
      have := railOf_le (pg := pg)
      interval_cases railOf pg <;> rfl
    have hpw : pg ≠ .pwr := fun e => hkind (by simp [e, Page.kind])
    have hel : pg ≠ .elog := fun e => hkind (by simp [e, Page.kind])
    have hap : ∀ x ∈ lostPlaces pg, Place.apart x (Reg.RAIL_MV_MV.place .pwr (railOf pg)) ∧ Place.apart x (Reg.ELOG_SEQ_SEQ.place .elog) := by
      simp [lostPlaces, irqPlaces, Place.apart_of_ne hpw, Place.apart_of_ne hel, memErrFrame_fits, memDegraded_fits, hrail,
        Place.apart_of_ne (pg := .tier) (q := .pwr), Place.apart_of_ne (pg := .tier) (q := .elog), show Reg.ELOG_SEQ_SEQ.fits 0 = true from by decide,
        show Reg.PG_IRQ_STAT.fits 0 = true from by decide]
    refine completes.next ⟨(congrArg Leaf.st (hk.leaf page hs)).trans k.leaf, (congrArg (Map.get false · _) hk.retired).trans k.retired,
      (ho.fld (memErrFrame_fits pg) hn).trans ?_, (ho.fld (memDegraded_fits pg) hn).trans ?_, (ho.counter (by omega) hn).trans ?_,
      (ho.counter (by omega) hn).trans ?_, (hk.irqStat ?_).trans k.raised, State.recorded.before kc hr (by simp) hap, ?_⟩
      (e.trans (congrArg Host.Outcome.next ht.symm))
    · exact hpg ▸ k.frame
    · exact hpg ▸ k.degraded
    · exact hpg ▸ k.failed
    · exact hpg ▸ k.fewer
    · exact ringPlaces_apart_irq
    · refine .trans (.mono (kc.onPages (pgs := [pg, .tier, .pcie]) ?_ ?_) (by simp [recordComps]) (by simp [recordPages]))
        (ho.mono (fun _ h => h) fun _ h => List.mem_cons_of_mem _ h)
      · simp [lostPlaces, irqPlaces, Fld.place, memErrFrame_fits, memDegraded_fits, show Reg.PG_IRQ_STAT.fits 0 = true from by decide]
      · simp [lostCounts, irqCounts]
  · intro s i dimms rate frames h hr
    obtain ⟨k1, k2, k3, k4, k5⟩ := State.trained_bas (s := s) (i := i)
    refine completes.next ⟨k1, k2, k3 (Reg.BAS_MEM_STAT_ONLINE, _) (by simp), k3 (Reg.BAS_MEM_FRAMES_FRAMES, _) (by simp), k4, ?_⟩
      (exec_blockTrainingDone h hr (by simp [Page.kind]) (by simp [Page.kind]) (by simp [Page.kind]) (by simp))
    exact State.changes_mono k5 (fun _ h => h) (by simp [capPlaces, overPlaces, commitFld]) fun _ h => h
  · intro s i dimms rate frames h hr
    obtain ⟨k1, k2, k3, k4, k5⟩ := State.trained_shl (s := s) (i := i)
    refine completes.next ⟨k1, k2, k3 (Reg.SHL_MEM_STAT_ONLINE, _) (by simp), k3 (Reg.SHL_MEM_FRAMES_FRAMES, _) (by simp), k4, ?_⟩
      (exec_blockTrainingDone h hr (by simp [Page.kind]) (by simp [Page.kind]) (by simp [Page.kind]) (by simp))
    exact State.changes_mono k5 (fun _ h => h) (by simp [capPlaces, overPlaces, commitFld]) fun _ h => h
  · intro s i dimms rate frames h hr h1 h2
    obtain ⟨k1, k2, k3, k4, k5⟩ := State.trained_deep (s := s) (i := i) (frames := frames) h1 h2
    refine completes.next ⟨k1, k2, k3 (Reg.DEEP_MEM_STAT_ONLINE, _) (by simp), k3 (Reg.DEEP_MEM_FRAMES_FRAMES, _) (by simp),
        k3 (Reg.DEEP_MEM_STAT_DIMMS, _) (by simp), k3 (Reg.DEEP_MEM_STAT_RATE, _) (by simp), k4, ?_⟩
      (exec_blockTrainingDone h hr (by simp [Page.kind]) (by simp [Page.kind]) (by simp [Page.kind]) (by simp))
    exact State.changes_mono k5 (fun _ h => h) (by simp [capPlaces, overPlaces, commitFld]) fun _ h => h
  · intro s pg dimms rate frames h hr h1 h2 h3 h4 h5 h6 hk
    refine completes.next State.ready_readied ((exec_blockTrainingDone h hr h1 h2 h3 hk).trans (congrArg Host.Outcome.next ?_))
    cases pg
    case bas => exact absurd rfl h4
    case shl => exact absurd rfl h5
    case deep => exact absurd rfl h6
    all_goals rfl
  · intro s pg dimms rate frames h hr h1 h2 h3
    exact completes.next State.failedTraining (exec_blockTrainingDone_failed h hr h1 h2 h3)
  · intro s r h
    have e : exec (.patrolPassDone r) s = .next ((s.count r.pg 0x80 r.corrected).count r.pg 0x98) := by
      obtain ⟨pg, n⟩ := r
      refine congrArg Host.Outcome.next ?_
      cases pg
      case bas => rfl
      case shl => rfl
      case deep => rfl
      all_goals simp [Page.kind] at h
    refine completes.next ⟨?_, ?_, .count (.count .refl)⟩ e
    · exact State.counted.before (cs := []) (fs := []) (ns := [(r.pg, 0x80)]) (.count .refl) State.counted_count (by simp)
    · exact State.counted_count.after (cs := []) (fs := []) (ns := [(r.pg, 0x98)]) (.count .refl) (by simp)
end

end Sys2Proof.Machine
end

section
/-! PROOFS. O3: a scrub of a partition whose tiles still hold tasks (R145, Table 03-5). -/

namespace Sys2Proof.Machine
open Sys2Proof

/-- PART[0] is SCRUBBING, and a task of TILE[0] that still has a slot has an answer of the tier controller waiting for it. -/
def scrubbedTask : State :=
  { State.reset.setFld (.disp 0) Reg.DISP_ROLE_STATE 2 with
    tiles := [(0, { slots := [(0, { st := .running })] })]
    tier := { answers := [{ src := .tilePort 0 0, offset := 0, write := true, res := .done }] } }

theorem scrubbedTask_scrubbing : scrubbedTask.fld (.disp 0) Reg.DISP_ROLE_STATE = 2 ∧ scrubbedTask.recovery = false := by decide +kernel

/-- What waits for the answer is dropped with the task. -/
theorem scrubbedTask_dropped : (match exec (.scrubComplete 0) scrubbedTask with
    | .next t => t.tier.answers
    | _ => scrubbedTask.tier.answers) = [] := by decide +kernel

/-- Refutes O3: SCRUB_COMPLETE of a partition one of whose tiles still holds a task also drops what the tier controller holds for that
task (Table 03-5), so the state of the tiers is not as it was. -/
theorem not_roleChangesProceed : ¬ Obligations.RoleChangesProceed := by
  unfold Obligations.RoleChangesProceed
  rintro ⟨-, -, -, -, -, -, -, -, -, h, -⟩
  obtain ⟨t, he, -, -, -, -, hk, -⟩ := h scrubbedTask 0 scrubbedTask_scrubbing.1 scrubbedTask_scrubbing.2
  have h1 := scrubbedTask_dropped
  rw [he] at h1
  have h2 : t.tier = scrubbedTask.tier := hk .tier (by simp)
  simp only [h2] at h1
  exact absurd h1 (by simp [scrubbedTask])

end Sys2Proof.Machine
end

section
/-! PROOFS. O2: a write of MON_SNAP_ALL while a snapshot is armed (R308). -/

namespace Sys2Proof.Machine
open Sys2Proof

/-- The MON page is ready and a snapshot of all pages is armed. -/
def armedMon : State := (State.reset.setFld .mon Reg.PG_READY_READY 1).setFld .mon Reg.MON_SNAP_ALL_ARM 1

theorem armedMon_ready : armedMon.ready .mon = true := by decide +kernel

/-- The word of MON_SNAP_ALL takes no write then: CLEAR stays 0. -/
theorem armedMon_ignores : (match exec (.registerWrite .host (Page.mon.base + 0x108) 4 2) armedMon with
    | .next t => t.fld .mon Reg.MON_SNAP_ALL_CLEAR
    | _ => 1) = 0 := by decide +kernel

/-- Refutes O2: while MON_SNAP_ALL.ARM is set a write of its word records SNAP_BUSY and leaves the plain field CLEAR (R308), and the
clause of plain fields excludes only the words of MON_SNAP_AT. -/
theorem not_registerWriteTakesEffect : ¬ Obligations.RegisterWriteTakesEffect := by
  unfold Obligations.RegisterWriteTakesEffect
  rintro ⟨-, -, -, h, -⟩
  obtain ⟨t, he, hf, -⟩ := h armedMon .host .mon 0x108 2 Reg.MON_SNAP_ALL_CLEAR 0 (by decide) (by decide) armedMon_ready (by decide) (by decide)
    (by decide) (.inl rfl) (by decide) (by decide) (.inl (by decide))
  have h1 := armedMon_ignores
  rw [he] at h1
  exact absurd (hf.symm.trans h1) (by decide)

end Sys2Proof.Machine
end

section
/-! PROOFS. O54: a BAR2 read beside a held access that carries the next ticket (R389, R390). -/

namespace Sys2Proof.Machine
open Sys2Proof

/-- Page 0 is RESIDENT, and a read under the ticket that the next BAR2 read takes is held on it. -/
def ticketedPage : State :=
  { State.reset with
    tier := { pages := [(0, { st := .resident .basin, frameTier := .basin })],
              held := [(0, [{ src := .host, offset := 0, len := 1, write := none, ticket := 1 }])] } }

theorem ticketedPage_on : ticketedPage.bar2On false = true ∧ (0 : Nat) = ticketedPage.bar2Off false 0 ∧ ticketedPage.readable 0 1 := by decide +kernel

/-- The read is answered, and is taken for a held one all the same. -/
theorem ticketedPage_holds : (match exec (.bar2Read false 0 1) ticketedPage with
    | .next t => t.pcie.held.length
    | _ => 0) = 1 := by decide +kernel

/-- Refutes O54: the ticket of a BAR2 read tells it apart from the accesses held before only while none of them carries NEXT_TICKET + 1;
beside one that does, a read of RESIDENT pages is entered among the held reads of the PCIE block, which the clause says is as it was. -/
theorem not_hostWindowAndPcieEvents : ¬ Obligations.HostWindowAndPcieEvents := by
  unfold Obligations.HostWindowAndPcieEvents
  rintro ⟨h, -⟩
  obtain ⟨h1, h2, h3⟩ := ticketedPage_on
  obtain ⟨t, he, -, -, -, hk, -⟩ := h ticketedPage false 0 1 0 h1 h2 (by decide) h3
  have h4 := ticketedPage_holds
  rw [he] at h4
  have h5 : t.pcie = ticketedPage.pcie := hk .pcie (by simp)
  simp only [h5] at h4
  exact absurd h4 (by decide)

end Sys2Proof.Machine
end

section
/-! PROOFS. O11: a move of a page for which a migration slot still stands (R137). -/

namespace Sys2Proof.Machine
open Sys2Proof

/-- BASIN[0] is online; page 0 is RESIDENT in Shallows, and a slot of a promotion still names it. -/
def slottedPage : State :=
  { (((State.reset.setFld (.bas 0) Reg.PG_READY_READY 1).setFld (.bas 0) Reg.BAS_MEM_STAT_ONLINE 1).setFld (.bas 0) Reg.BAS_MEM_FRAMES_FRAMES 786432) with
    tier := { pages := [(0, { st := .resident .shallows, frameTier := .shallows })],
              migs := [{ page := 0, prev := {}, kind := .localMove, dstTier := .basin, dstFrame := 8, dstSide := 0, start := 0, bytes := 65536,
                         staged := [], later := [], hw := 1, sided := false }] } }

theorem slottedPage_room : slottedPage.findFrame .basin (zoneOf 0) = some 0 := by decide +kernel

/-- The standing slot is marked as the new one: both read as moves by command. -/
theorem slottedPage_remarked : (match exec (.migrationStart 0 .basin) slottedPage with
    | .next t => t.tier.migs.map Mig.hw
    | _ => []) = [0, 0] := by decide +kernel

/-- Refutes O11: MIGRATION_START marks every slot of its page, so one that still stands from a promotion (hw 1) does not stay as it was. -/
theorem not_pagesMoveBetweenTiers : ¬ Obligations.PagesMoveBetweenTiers := by
  unfold Obligations.PagesMoveBetweenTiers
  rintro ⟨h, -⟩
  obtain ⟨t, he, -, hm, -⟩ := h slottedPage 0 .basin .shallows 0 0 rfl (by decide) (by decide) (by decide) slottedPage_room rfl
  have h1 := slottedPage_remarked
  rw [he] at h1
  simp only [hm] at h1
  exact absurd h1 (by decide)

end Sys2Proof.Machine
end

section
/-! PROOFS. O18: a receive ring that ends past the State Space (R122, R414). -/

namespace Sys2Proof.Machine
open Sys2Proof

/-- QP[0] is the control QP of PART[0], in INIT. Its receive ring begins in the last page of the State Space, which is RESIDENT, and ends
one page past it; the next entry lies in that part. -/
def ringPastEnd : State :=
  { ((State.reset.setFld (.feng 0) Reg.PG_READY_READY 1).setFld (.move 0) Reg.MOVE_QP_CFG_COUNT 1) with
    qps := [(0, { st := .init, rqBase := 2 ^ 47 - 65536, rqLog2 := 13, rqTail := 4096 })]
    tier := { pages := [(2 ^ 31 - 1, { st := .resident .basin, frameTier := .basin })] } }

theorem ringPastEnd_ready : ringPastEnd.ready (.feng (engOfQp 0)) = true ∧ ringPastEnd.isControl 0 = true := by decide +kernel

theorem ringPastEnd_writable : ringPastEnd.writable (ringPastEnd.qp 0).rqBase (16 * 2 ^ (ringPastEnd.qp 0).rqLog2) = true := by decide +kernel

/-- The entries fall on page 0, which has no home and gets none: MAP_FULL is recorded. -/
theorem ringPastEnd_refused : (match exec (.qpStateRts 0) ringPastEnd with
    | .next t => t.fld .tier Reg.PG_ERR_CODE
    | _ => 0) = 3 ∧ ringPastEnd.fld .tier Reg.PG_ERR_CODE = 0 := by decide +kernel

/-- Refutes O18: pages are numbered modulo the State Space, so of a receive ring that ends past it only the pages up to its end are asked
to be RESIDENT; the entries of a control QP past the end fall on page 0, whose refusal is recorded in PG_ERR. -/
theorem not_queuePairsChangeState : ¬ Obligations.QueuePairsChangeState := by
  unfold Obligations.QueuePairsChangeState
  rintro ⟨-, -, -, h, -⟩
  obtain ⟨h1, h2⟩ := ringPastEnd_ready
  obtain ⟨t, he, -, -, -, -, -, hk⟩ := h ringPastEnd 0 h1 rfl h2 rfl (by decide) ringPastEnd_writable rfl rfl
  obtain ⟨h3, h4⟩ := ringPastEnd_refused
  rw [he] at h3
  have h5 : t.fld .tier Reg.PG_ERR_CODE = ringPastEnd.fld .tier Reg.PG_ERR_CODE := hk.fld (by simp)
  exact absurd (h3.symm.trans (h5.trans h4)) (by decide)

end Sys2Proof.Machine
end

section
/-! PROOFS. O19: a completion ring that ends past the State Space (R122, R184, R193). -/

namespace Sys2Proof.Machine
open Sys2Proof

/-- QP[0] is in RTS with a held WR past its time. Its completion ring begins in the last page of the State Space, which is RESIDENT, and
ends one page past it; the next entry lies in that part. -/
def cqPastEnd : State :=
  { State.reset with
    now := 1000
    qps := [(0, { st := .rts, holdTo := 1, cqBase := 2 ^ 47 - 65536, cqLog2 := 12, cqHead := 2048, cqTail := 2048 })]
    engines := [((engOfQp 0).val, { trigs := [{ qp := 0, index := 0, wr := 0, src := 0, tag := 0, released := false, since := 0 }] })]
    tier := { pages := [(2 ^ 31 - 1, { st := .resident .basin, frameTier := .basin })] } }

theorem cqPastEnd_writable : cqPastEnd.isPool 0 = false ∧
    cqPastEnd.writable (cqPastEnd.qp 0).cqBase (32 * 2 ^ (cqPastEnd.qp 0).cqLog2) = true := by decide +kernel

/-- The entry falls on page 0, which has no home and gets none: MAP_FULL is recorded. -/
theorem cqPastEnd_refused : (match exec (.holdExpired 0 0) cqPastEnd with
    | .next t => t.fld .tier Reg.PG_ERR_CODE
    | _ => 0) = 3 ∧ cqPastEnd.fld .tier Reg.PG_ERR_CODE = 0 := by decide +kernel

/-- Refutes O19: of a completion ring that ends past the State Space only the pages up to its end are asked to be RESIDENT; the entry of
an expired WR past the end falls on page 0, whose refusal is recorded in PG_ERR. -/
theorem not_workRequestsStart : ¬ Obligations.WorkRequestsStart := by
  unfold Obligations.WorkRequestsStart
  rintro ⟨-, -, -, -, -, -, -, -, -, -, -, -, h, -⟩
  obtain ⟨h1, h2⟩ := cqPastEnd_writable
  obtain ⟨t, he, -, -, -, -, -, -, -, -, hk⟩ := h cqPastEnd 0 0 _ rfl rfl (by decide) (by decide) h1 rfl rfl rfl h2
  obtain ⟨h3, h4⟩ := cqPastEnd_refused
  rw [he] at h3
  have h5 : t.fld .tier Reg.PG_ERR_CODE = cqPastEnd.fld .tier Reg.PG_ERR_CODE := hk.fld fun x hx => by
    rw [irqPlaces, List.mem_singleton] at hx
    subst hx
    exact Place.apart_of (by decide) (by decide) (by decide)
  exact absurd (h3.symm.trans (h5.trans h4)) (by decide)

end Sys2Proof.Machine
end

section
/-! PROOFS. O20, O21 and O22: entries of a completion ring that ends past the State Space (R122, R183, R187, R188, R193). -/

namespace Sys2Proof.Machine
open Sys2Proof

/-- What is seen of the state that a command leaves. -/
def State.after {α : Type} (s : State) (c : Instr) (f : State → α) : Option α :=
  match exec c s with
  | .next t => some (f t)
  | _ => none

/-- A command completes in no state of which something else is seen than of the one it leaves. -/
theorem not_completes_of_after {α : Type} {s : State} {c : Instr} {f : State → α} {post : State → Prop}
    (hp : ∀ t, post t → s.after c f ≠ some (f t)) : ¬ completes c s post := by
  rintro ⟨t, he, ht⟩
  exact hp t ht (by rw [State.after, he])

def State.tierErr (s : State) : Nat := s.fld .tier Reg.PG_ERR_CODE

/-- A command that records an error on the tier page completes in no state that keeps the page's error code. -/
theorem not_completes_of_tierErr {s : State} {c : Instr} {post : State → Prop} (h : s.after c State.tierErr ≠ some s.tierErr)
    (hp : ∀ t, post t → t.tierErr = s.tierErr) : ¬ completes c s post :=
  not_completes_of_after fun t ht => hp t ht ▸ h

section
variable {s t : State} {ks : List Comp} {cs : List (Page × Nat)}

theorem State.changes.tierErr (h : s.changes t ks [] cs) : t.tierErr = s.tierErr :=
  h.fld fun _ hx => absurd hx List.not_mem_nil

theorem State.changes.tierErr_irq {e : EngId} (h : s.changes t ks (irqPlaces (.feng e)) cs) :
    t.tierErr = s.tierErr :=
  h.fld fun x hx => by
    rw [irqPlaces, List.mem_singleton] at hx
    subst hx
    exact Place.apart_of (by decide) (by decide) (by decide)
end

/-- A state whose last page of the State Space is RESIDENT, with one QP in RTS: its completion ring begins in that page and ends one
page past it; the next entry lies in that part, so it falls on page 0, which has no home and gets none (MAP_FULL). -/
def pastEnd (x : Qp) (mem : Memory) : State :=
  { State.reset.setFld (.disp 0) Reg.PG_READY_READY 1 with
    now := 1000000
    qps := [(0, { x with st := .rts, cqBase := 2 ^ 47 - 65536, cqLog2 := 12, cqHead := 2048, cqTail := 2048 })]
    tier := { pages := [(2 ^ 31 - 1, { st := .resident .basin, frameTier := .basin })] }
    mem := mem }

/-- A receive ring of one entry, in the RESIDENT page: 8 bytes at an address of the same page. -/
def recvQp : Qp := { rqBase := 2 ^ 47 - 65536, rqLog2 := 1, rqTail := 1 }

def recvMem : Memory := Map.store [] (2 ^ 47 - 65536) [0, 1, 0xFF, 0xFF, 0xFF, 0x7F, 0, 0, 8]

def sentPacket : QpReq :=
  { tc := 0, last := true, place := false, prov := false, replace := false, srcNode := 0, dstQpn := 0, psn := 0, specEpoch := 0,
    node := 0, part := 0, offset := 0, key := 0, gen := 0, fireTag := 0, imm := 0, epoch := 0, srcQpn := 0, wrLen := 8,
    payload := List.replicate 8 0 }

theorem recv_refused : (pastEnd recvQp recvMem).after (.qsend sentPacket) State.tierErr ≠
    some (pastEnd recvQp recvMem).tierErr := by decide +kernel

/-- Refutes O20: of a completion ring that ends past the State Space only the pages up to its end are asked to be RESIDENT; the entry
that reports a received SEND falls past the end, on page 0, whose refusal is recorded in PG_ERR. -/
theorem not_queuePairPacketsAreReceived : ¬ Obligations.QueuePairPacketsAreReceived := by
  unfold Obligations.QueuePairPacketsAreReceived
  rintro ⟨-, -, -, -, -, h, -⟩
  refine not_completes_of_tierErr recv_refused (fun t ht => ?_)
    (h (pastEnd recvQp recvMem) sentPacket 0 .basin 0 (2 ^ 47 - 65536) (2 ^ 47) (2 ^ 47 - 65280) (2 ^ 31 - 1) rfl
      (by decide +kernel) (by decide +kernel) (by decide +kernel) (by decide +kernel) rfl rfl rfl rfl (by decide) rfl
      (by decide +kernel) rfl rfl rfl (by decide +kernel) rfl rfl rfl rfl (by decide) (by decide) rfl rfl rfl rfl
      (by decide +kernel) (by decide +kernel) (by decide +kernel) (by decide +kernel) rfl (by decide) (by decide +kernel) rfl rfl
      rfl rfl rfl (by decide) (by decide))
  obtain ⟨-, -, -, -, -, -, hk⟩ := ht
  exact hk.tierErr

/-- QP[0] holds a trigger write whose bytes are placed. -/
def trigQp : Qp := { rxWaits := [{ op := 0x41, psn := 0, req := sentPacket, done := false }], epsn := 1 }

theorem trig_refused : (pastEnd trigQp []).after (.writeTriggerEffect 0 0) State.tierErr ≠
    some (pastEnd trigQp []).tierErr := by decide +kernel

/-- Refutes O21: the completion entry of a trigger write falls past the end of the State Space, on page 0, whose refusal is recorded in
PG_ERR. -/
theorem not_placedWorkTakesEffect : ¬ Obligations.PlacedWorkTakesEffect := by
  unfold Obligations.PlacedWorkTakesEffect
  rintro ⟨h, -⟩
  refine not_completes_of_tierErr trig_refused (fun t ht => ?_)
    (h (pastEnd trigQp []) 0 0 _ _ rfl (by decide +kernel) (by decide +kernel) rfl rfl (by decide +kernel) rfl (by decide +kernel))
  obtain ⟨-, -, -, -, -, -, -, -, -, -, hk⟩ := ht
  exact hk.tierErr

/-- QP[0] has one started WR, not answered in time, and no round left. -/
def lateQp : Qp :=
  { nextPsn := 1, sqPsn := 1, sqLog2 := 4, sqTail := 1, nextWr := 1
    wrs := [{ index := 0, wr := 0, psn := 0, packets := 1, answered := false, delivered := false, done := false, rnr := 0 }] }

theorem late_refused : (pastEnd lateQp []).after (.retransmitTimeout 0) State.tierErr ≠
    some (pastEnd lateQp []).tierErr := by decide +kernel

/-- Refutes O22: the completion entry of a WR that fails falls past the end of the State Space, on page 0, whose refusal is recorded in
PG_ERR. -/
theorem not_queuePairAnswersAndTimers : ¬ Obligations.QueuePairAnswersAndTimers := by
  unfold Obligations.QueuePairAnswersAndTimers
  rintro ⟨-, -, -, -, -, -, -, -, -, -, -, -, h, -⟩
  refine not_completes_of_tierErr late_refused (fun t ht => ?_)
    (h (pastEnd lateQp []) 0 _ rfl rfl rfl rfl (by decide) rfl rfl rfl rfl rfl rfl (by decide +kernel) (by decide +kernel) (by decide)
      rfl (by decide))
  obtain ⟨-, -, -, -, -, -, hk⟩ := ht
  exact hk.tierErr_irq

end Sys2Proof.Machine
end

section
/-! PROOFS. O24, O25 and O26: rings and stages of the mover that end past the State Space (R122, R209, R215). -/

namespace Sys2Proof.Machine
open Sys2Proof

/-- A state whose last page of the State Space is RESIDENT and whose mover 0 is ready; page 0 has no home and gets none. -/
def moverAtEnd (m : Mover) : State :=
  { (State.reset.setFld (.move 0) Reg.PG_READY_READY 1).setFld (.move 0) Reg.MOVE_QP_CFG_COUNT 2 with
    movers := [(0, m)]
    tier := { pages := [(2 ^ 31 - 1, { st := .resident .basin, frameTier := .basin })] } }

/-- A send ring whose first entry is the last of the State Space. -/
def ringAtEnd : Qp := { st := .rts, sqBase := 2 ^ 47 - 64, sqLog2 := 4 }

def moverMsg : MoverMsg :=
  { fromNode := 0, fromPart := 0, ctrlQp := 0, copy := false, resume := false, status := 0, ctx := 0, reqId := 0, layers := 1,
    pages := 1, stride := 1, base := 0, base2 := 0, key := 0, sideBytes := 0, ttlMs := 0, kvLen := 0, stage := 0 }

/-- A push of one layer that waits for its OPEN_ACK. -/
def pushState : State :=
  { moverAtEnd { ctxs := [(0, { state := 1, bound := true, layers := 1, pages := 1 })] } with qps := [(0, ringAtEnd)] }

theorem push_refused : pushState.after (.openAck 0 moverMsg) State.tierErr ≠ some pushState.tierErr := by decide +kernel

/-- Refutes O24: of a send ring that ends past the State Space only the pages up to its end are asked to be RESIDENT; the trigger that
the mover posts past the end falls on page 0, whose refusal is recorded in PG_ERR. -/
theorem not_moverMessagesOpen : ¬ Obligations.MoverMessagesOpen := by
  unfold Obligations.MoverMessagesOpen
  rintro ⟨-, -, -, -, -, h, -⟩
  refine not_completes_of_tierErr push_refused (fun t ht => ?_)
    (h pushState 0 moverMsg _ 0 (by decide +kernel) (by decide +kernel) rfl (by decide) rfl (by decide) (by decide) rfl
      (by decide +kernel) rfl (by decide) (by decide) (by decide))
  obtain ⟨-, -, -, -, -, hk⟩ := ht
  exact hk.tierErr

/-- A mover whose pool has one data QP, and a region that holds page 0. -/
def pullState : State :=
  { moverAtEnd {} with
    qps := [(0, { st := .rts }), (1, ringAtEnd)]
    regions := [(0, { valid := true, read := true, lenM1 := 65535 })] }

theorem pull_refused : pullState.after (.pullReq 0 moverMsg) State.tierErr ≠ some pullState.tierErr := by decide +kernel

/-- Refutes O25: the trigger that the mover posts for a served run falls past the end of the State Space, on page 0, whose refusal is
recorded in PG_ERR. -/
theorem not_pullsAndClosesAreServed : ¬ Obligations.PullsAndClosesAreServed := by
  unfold Obligations.PullsAndClosesAreServed
  rintro ⟨-, h, -⟩
  refine not_completes_of_tierErr pull_refused (fun t ht => ?_)
    (h pullState 0 moverMsg 0 1 1 (by decide +kernel) (by decide +kernel) (by decide +kernel) (by decide +kernel) (by decide +kernel)
      (by decide +kernel) (by decide +kernel) rfl rfl rfl rfl (by decide +kernel) (by decide +kernel) (by decide +kernel)
      (by decide +kernel) (by decide) (by decide))
  obtain ⟨-, -, -, -, -, hk⟩ := ht
  exact hk.tierErr

/-- A push of two pages whose stage begins 8 bytes before the end of the State Space. -/
def stageCtx : MoveCtx := { layerAt := [(0, 1)], pages := 2, sideBytes := 8, localBase := 2 ^ 47 - 8 }

def stageState : State := moverAtEnd { ctxs := [(0, stageCtx)] }

theorem stage_refused : stageState.after (.moverStageCopyDone 0 0 0) State.tierErr ≠ some stageState.tierErr := by
  decide +kernel

/-- Refutes O26: the second record of a stage that ends past the State Space falls on page 0, whose refusal is recorded in PG_ERR. -/
theorem not_transfersMakeProgress : ¬ Obligations.TransfersMakeProgress := by
  unfold Obligations.TransfersMakeProgress
  rintro ⟨h, -⟩
  refine not_completes_of_tierErr stage_refused (fun t ht => ?_)
    (h stageState 0 0 0 0 stageCtx (by decide +kernel) (by decide +kernel) (by decide +kernel) (by decide +kernel)
      (Or.inr (by decide +kernel)))
  obtain ⟨-, -, -, -, hk⟩ := ht
  exact hk.tierErr

end Sys2Proof.Machine
end

section
/-! PROOFS. O27, O28 and O29: writes at addresses past the State Space, of which no byte is stored (R122, R230, R235, R254). -/

namespace Sys2Proof.Machine
open Sys2Proof

/-- A state whose page 0 is RESIDENT, with bytes in it. -/
def pageZero (mem : Memory) : State :=
  { State.reset with
    now := 10 ^ 15
    tier := { pages := [(0, { st := .resident .basin, frameTier := .basin })] }
    mem := mem }

/-- The mover of partition 0 loads 64 bytes of page 0 into slot 1, which begins at the end of the State Space. -/
def adpPastEnd : State :=
  { (((pageZero [(0, 1)]).setFld (.move 0) Reg.MOVE_ADP_BASE_LO_BASE_LO 65535).setFld (.move 0) Reg.MOVE_ADP_BASE_HI_BASE_HI
      32767).setFld (.move 0) Reg.MOVE_ADP_STRIDE_PAGES 1 with
    movers := [(0, { adpLoad := some { slot := 1, src := 0, id := 0, version := 0, rank := 1, len := 64 } })] }

theorem adpPastEnd_after : adpPastEnd.after (.adpLoadDone 0 false) (fun t => Map.bytes t.mem (2 ^ 47) 64) =
    some (List.replicate 64 0) := by decide +kernel

/-- Refutes O27: of an adapter slot past the end of the State Space no byte is stored. -/
theorem not_adapterCommandsRun : ¬ Obligations.AdapterCommandsRun := by
  unfold Obligations.AdapterCommandsRun
  rintro ⟨-, -, -, -, -, -, h, -⟩
  refine not_completes_of_after (f := fun t => Map.bytes t.mem (2 ^ 47) 64) (fun t ht => ?_)
    (h adpPastEnd 0 _ .basin (2 ^ 47) rfl (by decide) rfl (by decide +kernel) (by decide +kernel) (by decide) rfl
      (by decide +kernel) (by decide) (by decide) (by decide) (by decide))
  obtain ⟨hb, -⟩ := ht
  rw [adpPastEnd_after, hb]
  decide +kernel

/-- Entry 1024 of a Cache partition, RESUMED, begins at the end of the State Space. -/
def entryPastEnd : State :=
  (((((pageZero [(2 ^ 47, 3)]).setFld .srch Reg.CACHE_CFG_ENT_BASE_LO 65535).setFld .srch Reg.CACHE_CFG_ENT_BASE_HI 32767).setFld
    .srch Reg.CACHE_CFG_ENTRIES 1025).setFld (.disp 0) Reg.DISP_ROLE_CUR 3).setFld (.move 0) Reg.PG_READY_READY 1

theorem entryPastEnd_after : entryPastEnd.after (.orphanTimeout 0 1024) (fun t => entState (t.entry 0 1024)) = some 3 := by
  decide +kernel

/-- Refutes O28: an entry past the end of the State Space keeps its state. -/
theorem not_cacheEntriesExpire : ¬ Obligations.CacheEntriesExpire := by
  unfold Obligations.CacheEntriesExpire
  rintro ⟨-, -, -, h, -⟩
  refine not_completes_of_after (f := fun t => entState (t.entry 0 1024)) (fun t ht => ?_)
    (h entryPastEnd 0 1024 (by decide +kernel) (by decide +kernel) (by decide +kernel) (by decide +kernel) ?_)
  · obtain ⟨hb, -⟩ := ht
    rw [entryPastEnd_after]
    exact fun h => absurd (Option.some.inj h) (hb ▸ by decide)
  · have hr : entRange (entryPastEnd.entry 0 1024) = 0 := by decide +kernel
    exact fun k hk => absurd (hr ▸ hk) (Nat.not_lt_zero k)

/-- An illegal search descriptor in the ring at page 0, whose completion word lies at the end of the State Space. -/
def wordPastEnd : State :=
  ((((pageZero [(64, 1), (109, 0x80)]).setFld .srch Reg.PG_READY_READY 1).setFld .srch Reg.CACHE_CFG_RING_EN 1).setFld .srch
    Reg.SRCH_CTRL_EN 1).setFld (.disp 0) Reg.DISP_ROLE_CUR 3

theorem wordPastEnd_after : wordPastEnd.after (.search 0) (fun t => t.rdNat (2 ^ 47) 8) = some 0 := by decide +kernel

def badSearch : BitVec 512 := BitVec.ofNat 512 (wordPastEnd.rdNat 64 64)

theorem badSearch_word : BV badSearch 320 64 = 2 ^ 47 := by decide +kernel

/-- Refutes O29: a completion word past the end of the State Space is not stored. -/
theorem not_searchesAndInsertsRun : ¬ Obligations.SearchesAndInsertsRun := by
  unfold Obligations.SearchesAndInsertsRun
  rintro ⟨-, h, -⟩
  refine not_completes_of_after (f := fun t => t.rdNat (2 ^ 47) 8) (fun t ht => ?_)
    (h wordPastEnd 0 .basin 0 64 badSearch (by decide +kernel) (by decide +kernel) (by decide +kernel) (by decide +kernel)
      (by decide +kernel) (by decide +kernel) rfl (by decide +kernel) (by decide +kernel) (by decide +kernel) (by decide +kernel)
      (by decide +kernel) (by decide +kernel) (by decide +kernel))
  obtain ⟨hb, -⟩ := ht
  rw [badSearch_word] at hb
  rw [wordPastEnd_after, hb]
  decide

end Sys2Proof.Machine
end

section
/-! PROOFS. O30: a pool descriptor past the end of the State Space (R122, R248). -/

namespace Sys2Proof.Machine
open Sys2Proof

/-- A pool command runs on region 1, whose descriptor, DEGRADED, begins at the end of the State Space; its target is node 1. -/
def poolPastEnd : State :=
  { (((pageZero [(2 ^ 47, 8)]).setFld .srch Reg.POOL_BASE_LO_BASE_LO (2 ^ 26 - 1)).setFld .srch Reg.POOL_BASE_HI_BASE_HI
      32767).setFld .srch Reg.POOL_CMD_TGT_NODE 1 with
    srch := { poolCmd := some (0, 1, 0) } }

theorem poolPastEnd_desc : (poolPastEnd.poolDesc 1).1 = 2 ^ 47 := by decide +kernel

theorem poolPastEnd_after : poolPastEnd.after (.poolCmdDone true 0) (fun t => bit (t.rdNat (2 ^ 47) 1) 3) = some true := by
  decide +kernel

/-- Refutes O30: a descriptor past the end of the State Space stays DEGRADED. -/
theorem not_poolCommandsRun : ¬ Obligations.PoolCommandsRun := by
  unfold Obligations.PoolCommandsRun
  rintro ⟨-, -, -, -, -, -, -, h, -⟩
  refine not_completes_of_after (f := fun t => bit (t.rdNat (2 ^ 47) 1) 3) (fun t ht => ?_)
    (h poolPastEnd 0 1 0 0 .basin rfl (by decide +kernel) (by decide) (by decide +kernel) (by decide +kernel))
  obtain ⟨-, hb, -⟩ := ht
  rw [poolPastEnd_desc] at hb
  rw [poolPastEnd_after, hb]
  decide

end Sys2Proof.Machine
end

section
/-! PROOFS. O35: two requests of one REQ_ID (R231, R287). -/

namespace Sys2Proof.Machine
open Sys2Proof

/-- A request of a tenant under REQ_ID 5. -/
def requestOf (n : TenId) (adapter : Option Nat) : Req :=
  { reqId := 5, tenant := n, desc := 0, stops := [], st := .running, weir := 0, model := 0, fallback := false, promptPart := none,
    genPart := some 0, genSlot := 0, pass := 0, need := 0, readAt := 0, tokens := 0, outBuf := [], emitted := [], pos := 0,
    layers := 0, pages := 0, lastTok := 0, specEpoch := 0, adapter := adapter, endStatus := none }

/-- Before the request of tenant 0 stands one of tenant 1 under the same REQ_ID, bound to adapter slot 0. -/
def sharedId : State :=
  { State.reset.setFld (.move 0) Reg.ADP_SLOT_REFS 1 with reqs := [requestOf 1 (some 0), requestOf 0 none] }

theorem sharedId_after : sharedId.after (.vfFlr 0) (fun t => t.fld (.move 0) Reg.ADP_SLOT_REFS) = some 0 := by decide +kernel

theorem sharedId_idle : (allParts.all fun q => (sharedId.mover q).ctxs.isEmpty) = true := by decide +kernel

/-- Refutes O35: the reset of tenant 0 releases the adapter slot that a request of tenant 1 under the same REQ_ID holds. -/
theorem not_tenantRingsMove : ¬ Obligations.TenantRingsMove := by
  unfold Obligations.TenantRingsMove
  rintro ⟨-, -, -, -, -, -, -, -, -, -, -, -, -, -, -, -, h⟩
  refine not_completes_of_after (f := fun t => t.fld (.move 0) Reg.ADP_SLOT_REFS) (fun t ht => ?_) (h sharedId 0 ?_ ?_)
  · obtain ⟨-, -, -, hk⟩ := ht
    rw [sharedId_after, hk.fld fun x hx => absurd hx List.not_mem_nil]
    decide +kernel
  · intro q hq e he
    have h0 := List.all_eq_true.1 sharedId_idle q hq
    rw [List.isEmpty_iff.1 h0] at he
    exact absurd he List.not_mem_nil
  · decide +kernel

end Sys2Proof.Machine
end

section
/-! PROOFS. O41 and O42: a partition that leaves its fence with a task of a merge slot on one of its tiles (R98, R318). -/

namespace Sys2Proof.Machine
open Sys2Proof

/-- Partition 0 is fenced, and slot 0 of its first tile holds a task that merge slot 0 names. -/
def fencedMerge : State :=
  ((State.reset.setFld .qrm Reg.QRM_CTRL_EN 1).setFld .qrm Reg.QRM_FENCE_DP_MASK 1 |>.setSlot 0 0 { st := .merging }).setPart 0
    { merge := [(0, { st := .gathering, tasks := [(0, 0)] })] }

/-- The tasks that merge slot 0 of partition 0 names. -/
def State.merging (s : State) : List (Nat × Nat) := (Map.get {} (s.part 0).merge 0).tasks

/-- The commit of epoch 1, which unfences partition 0 of the device. -/
def unfences : QDecision := { epoch := 1, fence := [], unfence := [(0, 1)], replace := [] }

/-- The header of a quorum message of the device itself. -/
def ownHeader : QHdr := { src := 0, dst := 0, seq := 0, epoch := 0 }

theorem not_completes_of_keptParts {s : State} {c : Instr} {P : State → Prop} (ha : s.after c State.merging = some [])
    (hs : s.merging = [(0, 0)]) (hk : ∀ t, P t → t.parts = s.parts) : ¬ completes c s P := by
  refine not_completes_of_after (f := State.merging) fun t ht => ?_
  have hm : t.merging = s.merging := by rw [State.merging, State.merging, State.part, State.part, hk t ht]
  rw [ha, hm, hs]
  decide

theorem fencedMerge_after_commit :
    fencedMerge.after (.commit ownHeader unfences) State.merging = some [] := by decide +kernel

/-- Refutes O42: a commit that unfences partition 0 takes the task off the merge slot, which is not in a component it may touch. -/
theorem not_commitsAreApplied : ¬ Obligations.CommitsAreApplied := by
  unfold Obligations.CommitsAreApplied
  rintro ⟨h, -⟩
  refine not_completes_of_keptParts fencedMerge_after_commit (by decide +kernel) ?_
    (h fencedMerge ownHeader unfences (by decide +kernel) (by decide +kernel) (by decide +kernel))
  rintro t ⟨-, -, -, -, -, -, -, -, -, hk⟩
  exact hk .parts (by decide)

/-- The device leads as the only witness, and three votes for the unfence are in. -/
def votedMerge : State :=
  { (fencedMerge.setFld .qrm Reg.QRM_WIT_ACTIVE_MASK 1).setFld .qrm Reg.QRM_WITNESS_VALID 1 with
    qrm := { prop := some (unfences, [1, 2, 3]) } }

theorem votedMerge_after : votedMerge.after (.vote ownHeader 1 true) State.merging = some [] := by decide +kernel

/-- Refutes O41: a vote that commits the unfence of partition 0 takes the task off the merge slot as well. -/
theorem not_decisionsAreProposedAndVoted : ¬ Obligations.DecisionsAreProposedAndVoted := by
  unfold Obligations.DecisionsAreProposedAndVoted
  rintro ⟨-, -, -, -, -, -, -, -, -, -, -, h, -⟩
  refine not_completes_of_keptParts votedMerge_after (by decide +kernel) ?_
    (h votedMerge ownHeader 1 true unfences [1, 2, 3]
      (by decide +kernel) (by decide +kernel) rfl rfl rfl (by decide +kernel) (by decide +kernel) (by decide +kernel)
      (by decide +kernel))
  rintro t ⟨-, -, -, -, -, -, -, -, -, -, hk⟩
  exact hk .parts (by decide)

end Sys2Proof.Machine
end

section
/-! PROOFS. O45: a merge slot that names a task on a tile of another partition (R98, R271). -/

namespace Sys2Proof.Machine
open Sys2Proof

/-- An ATTENTION task's descriptor, every other field 0. -/
def attentionDesc : BitVec 512 := BitVec.ofNat 512 (2 ^ 17)

/-- An ATTENTION task runs on tile 0 of partition 0, and its merge slot names a task of tile 8, which partition 1 has. -/
def strayMerge : State :=
  (((State.reset.setFld (.tile 0) Reg.PG_READY_READY 1).setSlot 0 0 { st := .running, desc := attentionDesc }).setSlot 8 0
    { st := .merging }).setPart 0 { merge := [(0, { st := .gathering, desc := attentionDesc, tasks := [(8, 0)] })] }

/-- State of slot 0 of tile 8. -/
def State.straySlot (s : State) : SlotState := (s.slot 8 0).st

theorem strayMerge_after : strayMerge.after (.taskRunningError 0 0 .extent) State.straySlot = some .free := by decide +kernel

/-- Refutes O45: the error of the running task frees the slot of the other partition's tile too. -/
theorem not_tasksEnd : ¬ Obligations.TasksEnd := by
  unfold Obligations.TasksEnd
  rintro ⟨-, -, -, -, -, -, -, -, -, -, -, -, -, -, -, -, -, h, -⟩
  refine not_completes_of_after (f := State.straySlot) (fun t ht => ?_)
    (h strayMerge 0 0 _ _ .extent (by decide +kernel) rfl rfl (by decide +kernel) rfl
      (fun m hm => absurd hm (by
        have hn : strayMerge.tier.migs = [] := by decide +kernel
        rw [hn]
        exact List.not_mem_nil)))
  obtain ⟨-, -, ht, -⟩ := ht
  rw [strayMerge_after, State.straySlot, State.slot, ht 8 (by decide)]
  decide +kernel

end Sys2Proof.Machine
end

section
/-! PROOFS. Quorum messages: what decides their planes and header, and how they are sent (R320). -/

namespace Sys2Proof.Machine
open Sys2Proof

/-! ## What the messages of a device depend on -/

/-- The register fields of the QRM page that its messages, its witnesses and its fences depend on. -/
def quorumFlds : List Fld :=
  [Reg.QRM_CTRL_EN, Reg.QRM_EPOCH_LO_EPOCH_LO, Reg.QRM_EPOCH_HI_EPOCH_HI, Reg.QRM_WIT_ACTIVE_MASK, Reg.QRM_FENCE_DP_MASK,
   Reg.QRM_WITNESS_NODE, Reg.QRM_WITNESS_VALID, Reg.QRM_WSPARE_NODE, Reg.QRM_WSPARE_VALID]

/-- A place that none of them, nor NODE, nor a port's LINK_UP covers. -/
def Place.besideQuorum (x : Place) : Prop :=
  x.apart (Reg.DEV_NODE_NODE.place .dev) ∧ (∀ n, x.apart (Reg.PORT_STAT_LINK_UP.place (.port n))) ∧
    ∀ g ∈ quorumFlds, ∀ i, g.fits i = true → x.apart (g.place .qrm i)

/-- A field that lies below each of them, or beside one of a single instance. -/
def Fld.besideQuorum (f : Fld) : Bool :=
  f.fits 0 && quorumFlds.all fun g => f.below g || decide (g.stride = 0) && f.apart g 0 0

theorem Place.besideQuorum_of_page {pg : Page} {f : Fld} {i : Nat} (hf : f.fits i = true) (hq : pg ≠ .qrm) (hd : pg ≠ .dev)
    (hp : ∀ n, pg ≠ .port n) : (f.place pg i).besideQuorum :=
  ⟨Place.apart_of_ne hd hf (by decide), fun n => Place.apart_of_ne (hp n) hf (by decide), fun _ _ _ hg => Place.apart_of_ne hq hf hg⟩

theorem Fld.place_besideQuorum {f : Fld} (h : f.besideQuorum = true) : (f.place .qrm).besideQuorum := by
  rw [Fld.besideQuorum, Bool.and_eq_true] at h
  obtain ⟨hf, h⟩ := h
  refine ⟨Place.apart_of_ne (by decide) hf (by decide), fun n => Place.apart_of_ne (by simp) hf (by decide), fun g hg i _ => ?_⟩
  have h1 := List.all_eq_true.1 h g hg
  rw [Bool.or_eq_true, Bool.and_eq_true, decide_eq_true_eq] at h1
  rcases h1 with h1 | ⟨h1, h2⟩
  · exact Place.apart_of_below h1
  · refine Place.apart_of_apart ?_
    simpa [Fld.apart, h1] using h2

/-- The register fields of the QRM page that the quorum's own work writes. -/
def quorumPlaces : List Place :=
  [Reg.QRM_STAT_WIT_SEEN.place .qrm, Reg.QRM_STAT_IN_QUORUM.place .qrm, Reg.QRM_STAT_ISOLATED.place .qrm] ++ errPlaces .qrm ++
    irqPlaces .qrm

theorem quorumPlaces_beside : ∀ x ∈ quorumPlaces, x.besideQuorum := by
  simp only [quorumPlaces, errPlaces, irqPlaces, List.cons_append, List.nil_append, List.forall_mem_cons]
  refine ⟨?_, ?_, ?_, ?_, ?_, ?_, fun x hx => absurd hx List.not_mem_nil⟩ <;> exact Fld.place_besideQuorum (by decide)

/-- Two states whose messages take the same planes and headers, with the same witnesses and fences. -/
structure State.sameQuorum (s t : State) : Prop where
  node : t.node = s.node
  epoch : t.epoch = s.epoch
  planes (n : Nat) : t.planesTo n = s.planesTo n
  inQrm : t.inQrm = s.inQrm
  witnesses : t.witnesses = s.witnesses
  fenced (p : PartId) : t.fenced p = s.fenced p

section
variable {s t u : State} {msg dst n : Nat} {body : List Nat}

theorem State.sameQuorum.trans (h : s.sameQuorum t) (k : t.sameQuorum u) : s.sameQuorum u where
  node := k.node.trans h.node
  epoch := k.epoch.trans h.epoch
  planes n := (k.planes n).trans (h.planes n)
  inQrm := k.inQrm.trans h.inQrm
  witnesses := k.witnesses.trans h.witnesses
  fenced p := (k.fenced p).trans (h.fenced p)

theorem State.changes.sameQuorum {cs : List Comp} {fs : List Place} {ns : List (Page × Nat)} (h : s.changes t cs fs ns)
    (hf : ∀ x ∈ fs, x.besideQuorum) (hu : .unreached ∉ cs := by simp) : s.sameQuorum t := by
  have hq : ∀ g ∈ quorumFlds, ∀ i, g.fits i = true → t.fld .qrm g i = s.fld .qrm g i :=
    fun g hg i hi => h.fld fun x hx => (hf x hx).2.2 g hg i hi
  have hfl : ∀ g ∈ quorumFlds, ∀ i, g.fits i = true → t.flag .qrm g i = s.flag .qrm g i := fun g hg i hi => by
    rw [State.flag, State.flag, hq g hg i hi]
  refine ⟨h.fld fun x hx => (hf x hx).1, ?_, fun n => ?_, hfl _ (by simp [quorumFlds]) 0 (by decide), ?_, fun p => ?_⟩
  · rw [State.epoch, State.epoch, hq _ (by simp [quorumFlds]) 0 (by decide), hq _ (by simp [quorumFlds]) 0 (by decide)]
  · have hr : t.unreached = s.unreached := h.1 .unreached (by simpa using hu)
    have hl : ∀ k, t.flag (.port k) Reg.PORT_STAT_LINK_UP = s.flag (.port k) Reg.PORT_STAT_LINK_UP := fun k => by
      rw [State.flag, State.flag, h.fld fun x hx => (hf x hx).2.1 k]
    simp only [State.planesTo, hr, hl]
  · have hw : ∀ i ∈ setBits 15 (s.fld .qrm Reg.QRM_WIT_ACTIVE_MASK), t.witnessNode i = s.witnessNode i := fun i hi => by
      have hi := List.mem_range.1 (List.mem_filter.1 hi).1
      rw [State.witnessNode, State.witnessNode]
      split
      · rw [hfl _ (by simp [quorumFlds]) i (by simp [Fld.fits, Fld.words, Reg.QRM_WITNESS_VALID]; omega),
          hq _ (by simp [quorumFlds]) i (by simp [Fld.fits, Fld.words, Reg.QRM_WITNESS_NODE]; omega)]
      · rw [hfl _ (by simp [quorumFlds]) (i - 7) (by simp [Fld.fits, Fld.words, Reg.QRM_WSPARE_VALID]; omega),
          hq _ (by simp [quorumFlds]) (i - 7) (by simp [Fld.fits, Fld.words, Reg.QRM_WSPARE_NODE]; omega)]
    rw [State.witnesses, State.witnesses, hq _ (by simp [quorumFlds]) 0 (by decide)]
    exact List.filterMap_congr hw
  · rw [State.fenced, State.fenced, hq _ (by simp [quorumFlds]) 0 (by decide)]

theorem State.sameQuorum.leader (h : s.sameQuorum t) (ht : t.qrm.table = s.qrm.table) : t.leader = s.leader := by
  rw [State.leader, State.leader, h.witnesses]
  simp only [State.nodeFenced, ht]

theorem State.sameQuorum.isWitness (h : s.sameQuorum t) : t.isWitness = s.isWitness := by
  rw [State.isWitness, State.isWitness, h.witnesses, h.node]

theorem State.sameQuorum.partAlive (h : s.sameQuorum t) (hb : t.qrm.pcBeat = s.qrm.pcBeat) : t.partAlive = s.partAlive := by
  simp only [State.partAlive, h.fenced, hb]

/-! ## Messages -/

/-- The quorum message with a SEQ (R320, Table 14-5). -/
def State.quorumMsg (s : State) (msg dst seq : Nat) (body : List Nat) : Out :=
  .quorum ((s.planesTo dst).take 2) (quorumHeader msg { src := s.node, dst := dst, seq := seq, epoch := s.epoch }) body

theorem State.sameQuorum.quorumMsg (h : s.sameQuorum t) {k : Nat} : t.quorumMsg msg dst k body = s.quorumMsg msg dst k body := by
  rw [State.quorumMsg, State.quorumMsg, h.planes, h.node, h.epoch]

theorem State.sameQuorum.sent (h : s.sameQuorum t) {k : Nat} {l : List Out} (hm : t.quorumMsg msg dst k body ∈ l) :
    s.quorumMsg msg dst k body ∈ l := h.quorumMsg ▸ hm

theorem State.quorumSend_eq : s.quorumSend msg dst body =
    { s with qrm := { s.qrm with seqOut := (s.qrm.seqOut + 1) % 65536 }, out := s.out ++ [s.quorumMsg msg dst s.qrm.seqOut body] } := rfl

theorem State.changes.setQrm {cs : List Comp} {fs : List Place} {ns : List (Page × Nat)} (h : s.changes t cs fs ns) {q : Qrm}
    (h0 : .qrm ∈ cs := by simp) : s.changes { t with qrm := q } cs fs ns :=
  h.upd (fun c hc => by cases c <;> first | rfl | exact absurd (by simp [h0]) hc) rfl rfl rfl

theorem State.changes.quorumSend {cs : List Comp} {fs : List Place} {ns : List (Page × Nat)} (h : s.changes t cs fs ns)
    (h0 : .qrm ∈ cs := by simp) (h1 : .out ∈ cs := by simp) : s.changes (t.quorumSend msg dst body) cs fs ns :=
  (h.setQrm h0).send h1

theorem State.mem_out_quorumSend {o : Out} (h : o ∈ t.out) : o ∈ (t.quorumSend msg dst body).out := by
  rw [State.quorumSend_eq]
  exact List.mem_append_left _ h

theorem State.out_quorumSend : t.quorumMsg msg dst t.qrm.seqOut body ∈ (t.quorumSend msg dst body).out := by
  rw [State.quorumSend_eq]
  exact List.mem_append_right _ (List.mem_singleton_self _)

/-! ## Messages sent: only SEQ and the output differ -/

/-- The state t is s after some messages: their SEQs are used, and they stand at the end of the output. -/
structure State.mailed (s t : State) : Prop where
  frame : s.changes t [.qrm, .out] [] []
  qrm : ∃ k, t.qrm = { s.qrm with seqOut := k }
  out (o : Out) : o ∈ s.out → o ∈ t.out

theorem State.mailed.refl : s.mailed s := ⟨.refl, ⟨_, rfl⟩, fun _ h => h⟩

theorem State.mailed.trans (h : s.mailed t) (k : t.mailed u) : s.mailed u where
  frame := State.changes_trans h.frame k.frame
  qrm := by
    obtain ⟨a, ha⟩ := h.qrm
    obtain ⟨b, hb⟩ := k.qrm
    exact ⟨b, by rw [hb, ha]⟩
  out o ho := k.out o (h.out o ho)

theorem State.mailed.quorumSend (h : s.mailed t) : s.mailed (t.quorumSend msg dst body) :=
  h.trans ⟨.quorumSend .refl, ⟨_, rfl⟩, fun _ ho => State.mem_out_quorumSend ho⟩

theorem State.mailed.sameQuorum (h : s.mailed t) : s.sameQuorum t := h.frame.sameQuorum (by simp)

theorem State.mailed.leader (h : s.mailed t) : t.leader = s.leader := by
  obtain ⟨k, hk⟩ := h.qrm
  exact h.sameQuorum.leader (by rw [hk])

theorem State.toLeader_mailed : s.mailed (s.toLeader msg body) := by
  rw [State.toLeader]
  split
  · split
    · exact State.mailed.refl.quorumSend
    · exact .refl
  · exact .refl

theorem State.toLeader_eq (hi : s.inQrm = true) (hl : s.leader = some n) : s.toLeader msg body = s.quorumSend msg n body := by
  rw [State.toLeader, if_pos hi, hl]

/-- One message to each node of a list. -/
theorem State.each_quorumSend (l : List Nat) :
    s.mailed (s.each l fun s n => s.quorumSend msg n body) ∧
      ∀ n ∈ l, ∃ k, s.quorumMsg msg n k body ∈ (s.each l fun s n => s.quorumSend msg n body).out := by
  induction l generalizing s with
  | nil => exact ⟨.refl, fun n hn => absurd hn List.not_mem_nil⟩
  | cons a l ih =>
    have hs : s.mailed (s.quorumSend msg a body) := State.mailed.refl.quorumSend
    obtain ⟨h1, h2⟩ := ih (s := s.quorumSend msg a body)
    refine ⟨hs.trans h1, fun n hn => ?_⟩
    rcases List.mem_cons.1 hn with rfl | hn
    · exact ⟨s.qrm.seqOut, h1.out _ State.out_quorumSend⟩
    · obtain ⟨k, hk⟩ := h2 n hn
      rw [hs.sameQuorum.quorumMsg] at hk
      exact ⟨k, hk⟩

/-! ## Copies of a message -/

/-- The state in which a message is acted on (R320). -/
def State.saw (s : State) (h : QHdr) : State := { s with qrm := { s.qrm with seen := ((h.src, h.seq) :: s.qrm.seen).take 4096 } }

theorem State.qmsg_new {h : QHdr} {f : State → State} (hi : s.inQrm = true) (hs : s.qrm.seen.contains (h.src, h.seq) = false) :
    s.qmsg h f = f (s.saw h) := by
  rw [State.qmsg, if_pos hi, State.once, hs]
  rfl

theorem State.qmsg_copy {h : QHdr} {f : State → State} (hs : s.inQrm = false ∨ (h.src, h.seq) ∈ s.qrm.seen) : s.qmsg h f = s := by
  rw [State.qmsg]
  rcases hs with hs | hs
  · rw [hs]
    rfl
  · split
    · rw [State.once, List.contains_iff_mem.2 hs]
      rfl
    · rfl

theorem State.saw_changes (h : QHdr) : s.changes (s.saw h) [.qrm] [] [] := .setQrm .refl

theorem State.saw_sameQuorum (h : QHdr) : s.sameQuorum (s.saw h) := (s.saw_changes h).sameQuorum (by simp)

theorem State.leader_saw (h : QHdr) : (s.saw h).leader = s.leader := (s.saw_sameQuorum h).leader rfl

/-! ## Fence causes and proposals -/

/-- The partitions of a list that no fence and no fence cause names yet. -/
def State.newCauses (s : State) (ps : List PartId) : List PartId := ps.filter fun p => !s.fenced p && !s.qrm.fencing.any fun f => f.1 == p.val

/-- The state with fence causes of the partitions taken (R318). -/
def State.caused (s : State) (ps : List PartId) (cause : Nat) : State :=
  { s with qrm := { s.qrm with fencing := s.qrm.fencing ++ (s.newCauses ps).map fun p => (p.val, cause) } }

theorem State.takeCauses_mailed (ps : List PartId) (cause : Nat) : (s.caused ps cause).mailed (s.takeCauses ps cause) := by
  rw [State.takeCauses]
  split
  · split
    · exact State.mailed.refl.quorumSend
    · exact .refl
  · exact .refl

theorem State.caused_changes (ps : List PartId) (cause : Nat) : s.changes (s.caused ps cause) [.qrm] [] [] := .setQrm .refl

theorem State.takeCauses_changes (ps : List PartId) (cause : Nat) : s.changes (s.takeCauses ps cause) [.qrm, .out] [] [] :=
  State.changes_trans (State.changes_mono (s.caused_changes ps cause) (by simp) (by simp) (by simp)) (s.takeCauses_mailed ps cause).frame

theorem State.propose_mailed : ∃ p, ({ s with qrm := { s.qrm with prop := p } } : State).mailed s.propose := by
  rw [State.propose]
  split
  · exact ⟨s.qrm.prop, .refl⟩
  · dsimp only
    split
    · exact ⟨s.qrm.prop, .refl⟩
    · exact ⟨_, (State.each_quorumSend _).1⟩

end

end Sys2Proof.Machine
end

section
/-! PROOFS. O40: heartbeats (R321, R323). -/

namespace Sys2Proof.Machine
open Sys2Proof

section
variable {s t u : State} {msg dst n : Nat} {body : List Nat}

/-! ## The acknowledgements of an interval -/

/-- WIT_SEEN takes the acknowledgements of the interval. -/
def State.witSeen (s : State) : State := s.setFld .qrm Reg.QRM_STAT_WIT_SEEN (min s.qrm.acks.length 7)

/-- The interval had fewer than four. -/
def State.fewAcks (s : State) : State :=
  ({ s.witSeen with qrm := { s.qrm with acks := [], badIntervals := min 4 (s.qrm.badIntervals + 1) } } : State).setFld .qrm
    Reg.QRM_STAT_IN_QUORUM 0

/-- The third such interval in a row. -/
def State.isolated (s : State) : State := ((s.fewAcks.setFld .qrm Reg.QRM_STAT_ISOLATED 1).err .qrm 0x03).irq .qrm 2

theorem State.judgeAcks_enough (h : 4 ≤ s.qrm.acks.length) :
    s.judgeAcks = { s.witSeen with qrm := { s.qrm with acks := [], badIntervals := 0 } } := if_pos h

theorem State.judgeAcks_few (h : s.qrm.acks.length < 4) (hb : s.qrm.badIntervals ≠ 2) : s.judgeAcks = s.fewAcks :=
  (if_neg (by omega)).trans (if_neg hb)

theorem State.judgeAcks_isolated (h : s.qrm.acks.length < 4) (hb : s.qrm.badIntervals = 2) :
    s.judgeAcks = s.isolated.takeCauses allParts 0x06 := (if_neg (by omega)).trans (if_pos hb)

theorem State.fld_witSeen : s.witSeen.fld .qrm Reg.QRM_STAT_WIT_SEEN = min s.qrm.acks.length 7 :=
  State.fld_setFld_of_lt _ (show _ < 8 by omega)

theorem State.fewAcks_changes : s.changes s.fewAcks [.qrm] [Reg.QRM_STAT_WIT_SEEN.place .qrm, Reg.QRM_STAT_IN_QUORUM.place .qrm] [] :=
  ((State.changes.refl.setFld).setQrm).setFld

theorem State.isolated_after : s.fewAcks.changes s.isolated [.out, .pcie]
    ([Reg.QRM_STAT_ISOLATED.place .qrm] ++ errPlaces .qrm ++ irqPlaces .qrm) ((.qrm, 0x50) :: irqCounts .qrm) :=
  ((State.changes.refl.setFld).err (by simp [errPlaces]) (by simp)).irq

theorem State.isolated_qrm : s.isolated.qrm = s.fewAcks.qrm := by simp [State.isolated]

theorem State.qrm_fewAcks : s.fewAcks.qrm = { s.qrm with acks := [], badIntervals := min 4 (s.qrm.badIntervals + 1) } := rfl

theorem State.qrm_caused_isolated : (s.isolated.caused allParts 6).qrm =
    { s.qrm with acks := [], badIntervals := min 4 (s.qrm.badIntervals + 1),
                 fencing := s.qrm.fencing ++ (s.isolated.newCauses allParts).map fun p => (p.val, 6) } := by
  rw [State.caused, State.isolated_qrm, State.qrm_fewAcks]

/-- What judging the acknowledgements leaves: the interval's are gone, and the rest of the quorum's state but fence causes. -/
structure State.acksJudged (s t : State) : Prop where
  frame : s.changes t [.qrm, .out, .pcie] quorumPlaces ((.qrm, 0x50) :: irqCounts .qrm)
  seen : t.fld .qrm Reg.QRM_STAT_WIT_SEEN = min s.qrm.acks.length 7
  qrm : ∃ b f k, t.qrm = { s.qrm with acks := [], badIntervals := b, fencing := f, seqOut := k }

theorem State.changes.fewAcks : s.changes s.fewAcks [.qrm, .out, .pcie] quorumPlaces ((.qrm, 0x50) :: irqCounts .qrm) :=
  State.changes_mono State.fewAcks_changes (by simp) (by simp [quorumPlaces]) (by simp)

theorem State.changes.isolated : s.changes s.isolated [.qrm, .out, .pcie] quorumPlaces ((.qrm, 0x50) :: irqCounts .qrm) :=
  State.changes_trans .fewAcks (State.changes_mono State.isolated_after (by simp) (by simp [quorumPlaces]; tauto) (by simp))

theorem State.fld_fewAcks : s.fewAcks.fld .qrm Reg.QRM_STAT_WIT_SEEN = min s.qrm.acks.length 7 := by
  rw [State.fewAcks, State.fld_setFld_apart _ (by decide)]
  exact State.fld_witSeen

theorem State.fld_isolated : s.isolated.fld .qrm Reg.QRM_STAT_WIT_SEEN = min s.qrm.acks.length 7 :=
  (State.isolated_after.fld (by simp +decide [errPlaces, irqPlaces, Place.apart_of])).trans State.fld_fewAcks

theorem State.judgeAcks_judged : s.acksJudged s.judgeAcks := by
  by_cases h : 4 ≤ s.qrm.acks.length
  · rw [State.judgeAcks_enough h]
    exact ⟨State.changes.setQrm (.setFld .refl (by simp [quorumPlaces])), State.fld_witSeen, _, _, _, rfl⟩
  · rw [Nat.not_le] at h
    by_cases hb : s.qrm.badIntervals = 2
    · rw [State.judgeAcks_isolated h hb]
      obtain ⟨k, hk⟩ := (s.isolated.takeCauses_mailed allParts 0x06).qrm
      rw [State.qrm_caused_isolated] at hk
      refine ⟨State.changes_trans .isolated (State.changes_mono (State.takeCauses_changes ..) (by simp) (by simp) (by simp)), ?_,
        _, _, k, hk⟩
      exact ((State.takeCauses_changes ..).fld (by simp)).trans State.fld_isolated
    · rw [State.judgeAcks_few h hb]
      exact ⟨.fewAcks, State.fld_fewAcks, _, _, _, rfl⟩

/-! ## The heartbeats of an interval -/

/-- What a witness keeps of a node at the end of an interval, from what it kept before (R321). -/
def nextMissed (heard : List Nat) (e : Nat × Nat) : Nat := 32 + (e.2 % 32 * 2 + if heard.contains e.1 then 0 else 1) % 32

/-- A witness judges one node. -/
def State.judgeNode (heard : List Nat) (s : State) (e : Nat × Nat) : State :=
  let s := { s with qrm := { s.qrm with missed := Map.set 0 s.qrm.missed e.1 (nextMissed heard e) } }
  let s := if heard.contains e.1 then s else s.count .qrm 0x98
  if nextMissed heard e = 63 ∧ e.2 ≠ 63 then s.sendSuspect e.1 4294967295 else s

theorem State.judgeNodes_eq : s.judgeNodes =
    { s.each s.qrm.missed (State.judgeNode s.qrm.heard) with qrm := { (s.each s.qrm.missed (State.judgeNode s.qrm.heard)).qrm with heard := [] } } := rfl

theorem State.sendSuspect_mailed (node mask : Nat) : s.mailed (s.sendSuspect node mask) := by
  rw [State.sendSuspect]
  split
  · exact .refl
  · exact State.toLeader_mailed

/-- The state t is s after a witness judged the nodes of a list. -/
structure State.nodesJudged (heard : List Nat) (s t : State) (l : List (Nat × Nat)) : Prop where
  frame : s.changes t [.qrm, .out] [] [(.qrm, 0x98)]
  qrm : ∃ k, t.qrm = { s.qrm with missed := l.foldl (fun m e => Map.set 0 m e.1 (nextMissed heard e)) s.qrm.missed, seqOut := k }
  missed : s.counted t .qrm 0x98 (l.filter fun e => !heard.contains e.1).length
  out (o : Out) : o ∈ s.out → o ∈ t.out

theorem State.nodesJudged.mail {heard : List Nat} {l : List (Nat × Nat)} (h : State.nodesJudged heard s t l) (k : t.mailed u) :
    State.nodesJudged heard s u l where
  frame := State.changes_trans h.frame (State.changes_mono k.frame (by simp) (by simp) (by simp))
  qrm := by
    obtain ⟨a, ha⟩ := h.qrm
    obtain ⟨b, hb⟩ := k.qrm
    exact ⟨b, by rw [hb, ha]⟩
  missed := h.missed.after k.frame
  out o ho := k.out o (h.out o ho)

theorem State.judgeNode_judged (heard : List Nat) (e : Nat × Nat) : State.nodesJudged heard s (s.judgeNode heard e) [e] := by
  have h1 : State.nodesJudged heard s
      (let t : State := { s with qrm := { s.qrm with missed := Map.set 0 s.qrm.missed e.1 (nextMissed heard e) } }
       if heard.contains e.1 then t else t.count .qrm 0x98) [e] := by
    have hs : s.changes { s with qrm := { s.qrm with missed := Map.set 0 s.qrm.missed e.1 (nextMissed heard e) } } [.qrm, .out] []
        [(.qrm, 0x98)] := .setQrm .refl
    by_cases hc : heard.contains e.1 = true
    · simp only [hc, if_true]
      refine ⟨hs, ⟨_, rfl⟩, ?_, fun _ h => h⟩
      simp only [List.filter_cons, hc, Bool.not_true, List.filter_nil]
      exact .zero (cs := [.qrm]) (fs := []) (ns := []) (.setQrm .refl)
    · simp only [hc]
      refine ⟨hs.count, ⟨_, rfl⟩, ?_, fun _ h => h⟩
      simp only [List.filter_cons, Bool.not_eq_true _ ▸ hc, List.filter_nil]
      exact .before (cs := [.qrm]) (fs := []) (ns := []) (.setQrm .refl) State.counted_count
  have h2 := fun (t : State) (ht : State.nodesJudged heard s t [e]) => ht.mail (t.sendSuspect_mailed e.1 4294967295)
  rw [State.judgeNode]
  split
  · exact h2 _ h1
  · exact h1

theorem State.nodesJudged.trans {heard : List Nat} {l m : List (Nat × Nat)} (h : State.nodesJudged heard s t l)
    (k : State.nodesJudged heard t u m) : State.nodesJudged heard s u (l ++ m) where
  frame := State.changes_trans h.frame k.frame
  qrm := by
    obtain ⟨a, ha⟩ := h.qrm
    obtain ⟨b, hb⟩ := k.qrm
    refine ⟨b, ?_⟩
    rw [hb, ha, List.foldl_append]
  missed := by
    rw [List.filter_append, List.length_append]
    exact h.missed.trans k.missed
  out o ho := k.out o (h.out o ho)

theorem State.judgeNodes_judged (heard : List Nat) (l : List (Nat × Nat)) :
    State.nodesJudged heard s (s.each l (State.judgeNode heard)) l := by
  induction l generalizing s with
  | nil => exact ⟨.refl, ⟨_, rfl⟩, .zero (cs := []) (fs := []) (ns := []) .refl, fun _ h => h⟩
  | cons e l ih => exact (s.judgeNode_judged heard e).trans ih

theorem Map.get_foldl_set_other {α : Type} {l : List (Nat × α)} (f : Nat × α → Nat) {k : Nat} (hk : k ∉ l.map (·.1)) (m : Map Nat) :
    Map.get 0 (l.foldl (fun m e => Map.set 0 m e.1 (f e)) m) k = Map.get 0 m k := by
  induction l generalizing m with
  | nil => rfl
  | cons a l ih =>
    simp only [List.map_cons, List.mem_cons, not_or] at hk
    rw [List.foldl_cons, ih hk.2, Map.get_set_other _ _ _ _ hk.1]

/-- Values set at distinct keys are found there. -/
theorem Map.get_foldl_set {α : Type} {l : List (Nat × α)} (hl : (l.map (·.1)).Nodup) (f : Nat × α → Nat) {e : Nat × α} (he : e ∈ l)
    (m : Map Nat) : Map.get 0 (l.foldl (fun m e => Map.set 0 m e.1 (f e)) m) e.1 = f e := by
  induction l generalizing m with
  | nil => exact absurd he List.not_mem_nil
  | cons a l ih =>
    simp only [List.map_cons, List.nodup_cons] at hl
    rw [List.foldl_cons]
    rcases List.mem_cons.1 he with rfl | he
    · rw [Map.get_foldl_set_other f hl.1, Map.get_set_same]
    · exact ih hl.2 he _

theorem Map.le_of_rising {β : Type} {m : Map β} {b : Nat} (h : Map.rising b m = true) {k : Nat} (hk : k ∈ m.map (·.1)) : b ≤ k := by
  induction m generalizing b with
  | nil => exact absurd hk List.not_mem_nil
  | cons e m ih =>
    obtain ⟨a, v⟩ := e
    simp only [Map.rising, Bool.and_eq_true, decide_eq_true_eq] at h
    rcases List.mem_cons.1 hk with rfl | hk
    · exact h.1
    · exact Nat.le_trans h.1 (Nat.le_of_succ_le (ih h.2 hk))

theorem Map.nodup_keys {β : Type} {m : Map β} {b : Nat} (h : Map.rising b m = true) : (m.map (·.1)).Nodup := by
  induction m generalizing b with
  | nil => exact List.nodup_nil
  | cons e m ih =>
    obtain ⟨a, v⟩ := e
    simp only [Map.rising, Bool.and_eq_true, decide_eq_true_eq] at h
    exact List.nodup_cons.2 ⟨fun ha => Nat.not_succ_le_self a (Map.le_of_rising h.2 ha), ih h.2⟩

/-! ## The heartbeats that are sent -/

/-- The witnesses get the heartbeats, and the interval's own state is gone. -/
def State.beats (s : State) : State :=
  let t := s.each s.witnesses fun t n => t.quorumSend 0x01 n [s.partAlive]
  State.propose { t with qrm := { t.qrm with pcBeat := [], peerEpoch := 0 } }

/-- The acknowledgements judged, and at a witness the nodes. -/
def State.judged (s : State) : State := if s.judgeAcks.isWitness then s.judgeAcks.judgeNodes else s.judgeAcks

theorem exec_heartbeatInterval (h : s.inQrm = true) : exec .heartbeatInterval s = .next s.judged.beats :=
  congrArg Host.Outcome.next (if_neg (by simp [h]))

/-- What sending the heartbeats leaves. -/
structure State.beaten (s t : State) : Prop where
  frame : s.changes t [.qrm, .out] [] []
  qrm : ∃ k p, t.qrm = { s.qrm with pcBeat := [], peerEpoch := 0, prop := p, seqOut := k }
  sent (n : Nat) : n ∈ s.witnesses → ∃ k, s.quorumMsg 1 n k [s.partAlive] ∈ t.out

theorem State.beats_beaten : s.beaten s.beats := by
  obtain ⟨hm, hs⟩ := State.each_quorumSend (s := s) (msg := 1) (body := [s.partAlive]) s.witnesses
  obtain ⟨p, hp⟩ := State.propose_mailed (s := { (s.each s.witnesses fun t n => t.quorumSend 1 n [s.partAlive]) with
    qrm := { (s.each s.witnesses fun t n => t.quorumSend 1 n [s.partAlive]).qrm with pcBeat := [], peerEpoch := 0 } })
  obtain ⟨a, ha⟩ := hm.qrm
  obtain ⟨b, hb⟩ := hp.qrm
  refine ⟨State.changes_trans ((hm.frame.setQrm).setQrm) hp.frame, ⟨b, p, hb.trans ?_⟩, fun n hn => ?_⟩
  · rw [ha]
  · obtain ⟨k, hk⟩ := hs n hn
    exact ⟨k, hp.out _ hk⟩

theorem State.sent_beats (h : s.sameQuorum u) (hb : u.qrm.pcBeat = s.qrm.pcBeat) :
    ∀ n ∈ s.witnesses, ∃ k, s.quorumMsg 1 n k [s.partAlive] ∈ u.beats.out := by
  intro n hn
  obtain ⟨k, hk⟩ := State.beats_beaten.sent n (h.witnesses ▸ hn)
  rw [h.quorumMsg, h.partAlive hb] at hk
  exact ⟨k, hk⟩

/-- What an interval leaves, whatever its acknowledgements were. -/
structure State.intervalEnds (s t : State) : Prop where
  seen : t.fld .qrm Reg.QRM_STAT_WIT_SEEN = min s.qrm.acks.length 7
  reset : t.qrm.pcBeat = [] ∧ t.qrm.acks = [] ∧ t.qrm.peerEpoch = 0
  sent (n : Nat) : n ∈ s.witnesses → ∃ k, s.quorumMsg 1 n k [s.partAlive] ∈ t.out
  frame : s.changes t [.qrm, .out, .pcie] quorumPlaces ([(.qrm, 0x50), (.qrm, 0x98)] ++ irqCounts .qrm)

/-- The interval's state with the acknowledgements judged, and perhaps the nodes. -/
structure State.wasJudged (s t : State) : Prop where
  frame : s.changes t [.qrm, .out, .pcie] quorumPlaces ([(.qrm, 0x50), (.qrm, 0x98)] ++ irqCounts .qrm)
  seen : t.fld .qrm Reg.QRM_STAT_WIT_SEEN = min s.qrm.acks.length 7
  beat : t.qrm.pcBeat = s.qrm.pcBeat
  acks : t.qrm.acks = []

theorem State.acksJudged.wasJudged (h : s.acksJudged t) : s.wasJudged t := by
  obtain ⟨b, f, k, hq⟩ := h.qrm
  exact ⟨State.changes_mono h.frame (by simp) (by simp) (by simp [irqCounts]), h.seen, by rw [hq], by rw [hq]⟩

theorem State.judgeNodes_frame : s.changes s.judgeNodes [.qrm, .out] [] [(.qrm, 0x98)] := by
  rw [State.judgeNodes_eq]
  exact (State.judgeNodes_judged _ _).frame.setQrm

theorem State.qrm_judgeNodes : ∃ k, s.judgeNodes.qrm = { s.qrm with
    missed := s.qrm.missed.foldl (fun m e => Map.set 0 m e.1 (nextMissed s.qrm.heard e)) s.qrm.missed, heard := [], seqOut := k } := by
  obtain ⟨k, hk⟩ := (State.judgeNodes_judged (s := s) s.qrm.heard s.qrm.missed).qrm
  exact ⟨k, by rw [State.judgeNodes_eq, hk]⟩

theorem State.judged_wasJudged : s.wasJudged s.judged := by
  have h := State.judgeAcks_judged (s := s).wasJudged
  rw [State.judged]
  split
  · obtain ⟨k, hk⟩ := State.qrm_judgeNodes (s := s.judgeAcks)
    refine ⟨State.changes_trans h.frame (State.changes_mono State.judgeNodes_frame (by simp) (by simp) (by simp)), ?_, ?_, ?_⟩
    · exact (State.judgeNodes_frame.fld (by simp)).trans h.seen
    · rw [hk]
      exact h.beat
    · rw [hk]
      exact h.acks
  · exact h

theorem State.wasJudged.ends (h : s.wasJudged t) : s.intervalEnds t.beats where
  seen := (State.beats_beaten.frame.fld (by simp)).trans h.seen
  reset := by
    obtain ⟨k, p, hk⟩ := (State.beats_beaten (s := t)).qrm
    rw [hk]
    exact ⟨rfl, h.acks, rfl⟩
  sent := State.sent_beats (h.frame.sameQuorum quorumPlaces_beside) h.beat
  frame := State.changes_trans h.frame (State.changes_mono State.beats_beaten.frame (by simp) (by simp) (by simp))

theorem State.isWitness_judgeAcks : s.judgeAcks.isWitness = s.isWitness :=
  (State.judgeAcks_judged.frame.sameQuorum quorumPlaces_beside).isWitness

theorem State.judged_of_not_witness (h : s.isWitness = false) : s.judged = s.judgeAcks := by
  rw [State.judged, State.isWitness_judgeAcks, h]
  rfl

theorem State.judged_of_witness (h : s.isWitness = true) : s.judged = s.judgeAcks.judgeNodes := by
  rw [State.judged, State.isWitness_judgeAcks, h, if_pos rfl]

/-! ## A heartbeat at a witness -/

/-- The clear bits of a node's partitions that a witness keeps after a heartbeat (R321). -/
def clearNow (s : State) (src : Nat) (alive : Word) : List (Nat × Nat) :=
  (List.range 32).map fun k => (k, if bit alive.toNat k then 0 else min 5 (Map.get 0 s.qrm.clear (src * 32 + k) + 1))

/-- The bits that a heartbeat shows clear for the fifth time. -/
def hotBits (s : State) (src : Nat) (alive : Word) : Nat :=
  ((clearNow s src alive).filter fun e => e.2 == 5 && Map.get 0 s.qrm.clear (src * 32 + e.1) == 4).foldl (fun m e => m + 2 ^ e.1) 0

/-- A witness keeps what a heartbeat of a node says. -/
def State.noteBeat (s : State) (src : Nat) (alive : Word) : State :=
  { s with qrm := { s.qrm with
      heard := src :: s.qrm.heard.filter (· ≠ src)
      missed := if Map.get 0 s.qrm.missed src = 0 then Map.set 0 s.qrm.missed src 32 else s.qrm.missed
      clear := (clearNow s src alive).foldl (fun m e => Map.set 0 m (src * 32 + e.1) e.2) s.qrm.clear } }

/-- A witness takes a heartbeat: it notes it, answers, and tells the leader of a bit that was clear too often. -/
def State.takeBeat (s : State) (src : Nat) (alive : Word) : State :=
  let t := (s.noteBeat src alive).quorumSend 0x02 src []
  if hotBits s src alive = 0 then t else t.sendSuspect src (hotBits s src alive)

theorem exec_heartbeat {h : QHdr} {alive : Word} (hi : s.inQrm = true) (hs : s.qrm.seen.contains (h.src, h.seq) = false)
    (hw : s.isWitness = true) : exec (.heartbeat h alive) s = .next ((s.saw h).takeBeat h.src alive) := by
  refine congrArg Host.Outcome.next ((State.qmsg_new hi hs).trans (if_neg ?_))
  rw [(s.saw_sameQuorum h).isWitness, hw]
  simp

theorem State.noteBeat_changes (src : Nat) (alive : Word) : s.changes (s.noteBeat src alive) [.qrm] [] [] := .setQrm .refl

theorem State.takeBeat_mailed (src : Nat) (alive : Word) :
    ((s.noteBeat src alive).quorumSend 0x02 src []).mailed (s.takeBeat src alive) := by
  rw [State.takeBeat]
  split
  · exact .refl
  · exact State.sendSuspect_mailed ..

/-- The keys and values a heartbeat sets. -/
def clearSets (s : State) (src : Nat) (alive : Word) : List (Nat × Nat) :=
  (List.range 32).map fun k => (src * 32 + k, if bit alive.toNat k then 0 else min 5 (Map.get 0 s.qrm.clear (src * 32 + k) + 1))

theorem State.clear_noteBeat (src : Nat) (alive : Word) : (s.noteBeat src alive).qrm.clear =
    (clearSets s src alive).foldl (fun m e => Map.set 0 m e.1 e.2) s.qrm.clear := by
  simp only [State.noteBeat, clearNow, clearSets, List.foldl_map]

theorem clearSets_keys (src : Nat) (alive : Word) : (clearSets s src alive).map (·.1) = (List.range 32).map (src * 32 + ·) := by
  rw [clearSets, List.map_map]
  rfl

/-- What a witness keeps of a heartbeat. -/
structure State.beatTaken (s t : State) (src : Nat) (alive : Word) : Prop where
  frame : s.changes t [.qrm, .out] [] []
  heard : src ∈ t.qrm.heard
  clear (k : Fin 32) : Map.get 0 t.qrm.clear (src * 32 + k.val) =
    if bit alive.toNat k.val then 0 else min 5 (Map.get 0 s.qrm.clear (src * 32 + k.val) + 1)
  missed : Map.get 0 t.qrm.missed src = if Map.get 0 s.qrm.missed src = 0 then 32 else Map.get 0 s.qrm.missed src
  answer : s.quorumMsg 2 src s.qrm.seqOut [] ∈ t.out
  others (m : Nat) : m < src * 32 ∨ src * 32 + 32 ≤ m → Map.get 0 t.qrm.clear m = Map.get 0 s.qrm.clear m

theorem State.takeBeat_taken (src : Nat) (alive : Word) : s.beatTaken (s.takeBeat src alive) src alive := by
  have hm : ((s.noteBeat src alive).quorumSend 0x02 src []).mailed (s.takeBeat src alive) := State.takeBeat_mailed ..
  obtain ⟨k, hk⟩ := hm.qrm
  have hq : s.sameQuorum (s.noteBeat src alive) := (s.noteBeat_changes src alive).sameQuorum (by simp)
  have hc : (s.takeBeat src alive).qrm.clear = (clearSets s src alive).foldl (fun m e => Map.set 0 m e.1 e.2) s.qrm.clear := by
    rw [hk]
    exact State.clear_noteBeat ..
  refine ⟨State.changes_trans (.quorumSend (.setQrm .refl)) hm.frame, ?_, fun k => ?_, ?_, ?_, fun m hm => ?_⟩
  · rw [hk]
    exact List.mem_cons_self
  · rw [hc]
    refine Map.get_foldl_set (l := clearSets s src alive) ?_ (·.2) (e := (src * 32 + k.val, _)) ?_ _
    · rw [clearSets_keys]
      exact List.Nodup.map (fun a b h => by simpa using h) List.nodup_range
    · exact List.mem_map.2 ⟨k.val, List.mem_range.2 k.isLt, rfl⟩
  · rw [hk]
    change Map.get 0 (if _ then _ else _) _ = _
    split
    · rw [Map.get_set_same]
    · rfl
  · refine hm.out _ ?_
    rw [← hq.quorumMsg]
    exact State.out_quorumSend
  · rw [hc]
    refine Map.get_foldl_set_other (·.2) (fun h => ?_) _
    rw [clearSets_keys] at h
    obtain ⟨j, hj, rfl⟩ := List.mem_map.1 h
    have := List.mem_range.1 hj
    omega

theorem bit_not_single (k : Fin 32) (j : Nat) (hj : j < 32) : bit (~~~(BitVec.ofNat 32 (2 ^ k.val))).toNat j = decide (j ≠ k.val) := by
  rw [bit_eq_getLsbD, BitVec.getLsbD_not, BitVec.getLsbD_ofNat, Nat.testBit_two_pow]
  simp [hj, eq_comm]

theorem range_filter_eq (k : Fin 32) : (List.range 32).filter (fun j => decide (j = k.val)) = [k.val] := by
  revert k
  decide

/-- One bit clear for the fifth time. -/
theorem hotBits_single (src : Nat) (k : Fin 32) (h : Map.get 0 s.qrm.clear (src * 32 + k.val) = 4) :
    hotBits s src (~~~(BitVec.ofNat 32 (2 ^ k.val))) = 2 ^ k.val := by
  have hb := bit_not_single k
  generalize ~~~(BitVec.ofNat 32 (2 ^ k.val)) = w at hb
  have hf : (clearNow s src w).filter
      (fun e => e.2 == 5 && Map.get 0 s.qrm.clear (src * 32 + e.1) == 4) = [(k.val, 5)] := by
    rw [clearNow, List.filter_map, List.filter_congr (q := fun j => decide (j = k.val)) fun j hj => ?_, range_filter_eq k]
    · simp [hb, h]
    · have hj := List.mem_range.1 hj
      by_cases e : j = k.val
      · subst e
        simp [hb, h]
      · simp [hb, hj, e]
  rw [hotBits, hf]
  simp

theorem setBits_single (k : Fin 32) : setBits 32 (2 ^ k.val) = [k.val] := by
  revert k
  decide

theorem State.notTabled_single {node : Nat} {k : Fin 32} (h : s.tabled node k.val = false) : s.notTabled node (2 ^ k.val) ≠ 0 := by
  rw [State.notTabled, setBits_single]
  simp [h]

theorem State.noteBeat_sameQuorum (src : Nat) (alive : Word) : s.sameQuorum (s.noteBeat src alive) :=
  (s.noteBeat_changes src alive).sameQuorum (by simp)

theorem State.takeBeat_hot {src : Nat} {alive : Word} {m : Nat} (hi : s.inQrm = true) (hl : s.leader = some n) (hh : hotBits s src alive = m)
    (hn : s.notTabled src m ≠ 0) :
    s.takeBeat src alive = ((s.noteBeat src alive).quorumSend 0x02 src []).quorumSend 0x03 n [src, m] := by
  have hq := s.noteBeat_sameQuorum src alive
  have hs := (State.mailed.refl (s := s.noteBeat src alive)).quorumSend (msg := 2) (dst := src) (body := [])
  have h0 : m ≠ 0 := by
    rintro rfl
    exact hn (by rw [State.notTabled, show setBits 32 0 = [] by decide]; rfl)
  rw [State.takeBeat, hh, if_neg h0, State.sendSuspect]
  refine (if_neg (show (s.notTabled src m) ≠ 0 from hn)).trans (State.toLeader_eq (hs.sameQuorum.inQrm.trans (hq.inQrm.trans hi)) ?_)
  rw [hs.leader, hq.leader rfl, hl]

/-- Of two messages in a row, the second has the next SEQ. -/
theorem State.out_quorumSend_twice {a b m : Nat} {x y : List Nat} :
    s.quorumMsg m b ((s.qrm.seqOut + 1) % 65536) y ∈ ((s.quorumSend msg a x).quorumSend m b y).out := by
  rw [← (State.mailed.refl (s := s) |>.quorumSend (msg := msg) (dst := a) (body := x)).sameQuorum.quorumMsg]
  exact State.out_quorumSend

/-! ## Acknowledgements -/

/-- A witness's acknowledgement joins those of the interval (R323). -/
def State.joinAck (s : State) (h : QHdr) : State :=
  let acks := h.src :: s.qrm.acks.filter (· ≠ h.src)
  let t := { s with qrm := { s.qrm with acks := acks, peerEpoch := max s.qrm.peerEpoch h.epoch } }
  if 4 ≤ acks.length then t.setFld .qrm Reg.QRM_STAT_IN_QUORUM 1 else t

theorem exec_hbAck {h : QHdr} (hi : s.inQrm = true) (hs : s.qrm.seen.contains (h.src, h.seq) = false)
    (hw : s.witnesses.contains h.src = true) : exec (.hbAck h) s = .next
      (if ((s.saw h).epoch == 0 && decide (0 < h.epoch) && s.qrm.peerEpoch == 0) = true then ((s.saw h).joinAck h).syncReq
       else (s.saw h).joinAck h) := by
  refine congrArg Host.Outcome.next ((State.qmsg_new hi hs).trans (if_neg ?_))
  rw [(s.saw_sameQuorum h).witnesses, hw]
  simp

/-- What the acknowledgement leaves. -/
structure State.ackJoined (s t : State) (h : QHdr) : Prop where
  frame : s.changes t [.qrm] [Reg.QRM_STAT_IN_QUORUM.place .qrm] []
  acks : t.qrm.acks = h.src :: s.qrm.acks.filter (· ≠ h.src)
  peer : t.qrm.peerEpoch = max s.qrm.peerEpoch h.epoch
  rest : t.qrm.table = s.qrm.table ∧ t.qrm.seqOut = s.qrm.seqOut
  flag : t.flag .qrm Reg.QRM_STAT_IN_QUORUM =
    (decide (4 ≤ (h.src :: s.qrm.acks.filter (· ≠ h.src)).length) || s.flag .qrm Reg.QRM_STAT_IN_QUORUM)

theorem State.joinAck_joined {h : QHdr} : s.ackJoined (s.joinAck h) h := by
  by_cases hc : 4 ≤ (h.src :: s.qrm.acks.filter (· ≠ h.src)).length
  · rw [State.joinAck, if_pos hc]
    refine ⟨.setFld (.setQrm .refl), rfl, rfl, ⟨rfl, rfl⟩, ?_⟩
    rw [decide_eq_true hc, State.flag]
    simp +decide [State.fld_eq]
  · rw [State.joinAck, if_neg hc]
    refine ⟨.setQrm .refl, rfl, rfl, ⟨rfl, rfl⟩, ?_⟩
    rw [decide_eq_false hc]
    rfl

end

/-- The third interval in a row with too few acknowledgements isolates the device. -/
theorem completes.heartbeatIsolated {s : State} (hi : s.inQrm = true) (hw : s.isWitness = false) (ha : s.qrm.acks.length < 4)
    (hb : s.qrm.badIntervals = 2) : completes (.heartbeatInterval) s fun t =>
      t.fld .qrm Reg.QRM_STAT_WIT_SEEN = min s.qrm.acks.length 7 ∧
      (t.qrm.pcBeat = [] ∧ t.qrm.acks = [] ∧ t.qrm.peerEpoch = 0) ∧ t.flag .qrm Reg.QRM_STAT_IN_QUORUM = false ∧
      t.flag .qrm Reg.QRM_STAT_ISOLATED = true ∧ s.erred t .qrm 3 ∧ s.raised t .qrm 2 ∧
      (∀ p : PartId, s.fenced p = false → (∀ f ∈ s.qrm.fencing, f.1 ≠ p.val) → (p.val, 6) ∈ t.qrm.fencing) ∧
      (∀ n ∈ s.witnesses, ∃ k, Out.quorum ((s.planesTo n).take 2) (quorumHeader 1 { src := s.node, dst := n, seq := k, epoch := s.epoch })
        [s.partAlive] ∈ t.out) ∧ s.changes t [.qrm, .out, .pcie]
        ([Reg.QRM_STAT_WIT_SEEN.place .qrm, Reg.QRM_STAT_IN_QUORUM.place .qrm, Reg.QRM_STAT_ISOLATED.place .qrm] ++
          errPlaces .qrm ++ irqPlaces .qrm) ((.qrm, 0x50) :: irqCounts .qrm) := by
  have e := State.judged_of_not_witness hw
  have hj := State.judgeAcks_isolated ha hb
  have hn := (State.judged_wasJudged (s := s)).ends
  obtain ⟨k, p, hq⟩ := (State.beats_beaten (s := s.judged)).qrm
  obtain ⟨k', hk'⟩ := (s.isolated.takeCauses_mailed allParts 0x06).qrm
  rw [e, hj, hk', State.qrm_caused_isolated] at hq
  have hf : s.isolated.changes s.judged.beats [.qrm, .out] [] [] := by
    rw [e, hj]
    exact State.changes_trans (State.takeCauses_changes ..) State.beats_beaten.frame
  refine completes.next ⟨hn.seen, hn.reset, ?_, ?_, ?_, ?_, fun p hp hnf => ?_, hn.sent, ?_⟩ (exec_heartbeatInterval hi)
  · rw [State.flag, hf.fld (by simp), State.isolated_after.fld (by simp +decide [errPlaces, irqPlaces, Place.apart_of]), State.fewAcks]
    simp +decide [State.fld_eq]
  · rw [State.flag, hf.fld (by simp), State.isolated]
    simp +decide [State.fld_eq]
  · refine hf.stays_erred ?_ (by simp) (by simp)
    refine (State.irq_changes ..).stays_erred ?_ (by simp +decide [irqPlaces, Place.apart_of]) (by simp +decide [irqCounts])
    exact (State.changes_trans (State.changes_mono State.fewAcks_changes (ds := [.qrm]) (gs := [Reg.QRM_STAT_WIT_SEEN.place .qrm,
      Reg.QRM_STAT_IN_QUORUM.place .qrm, Reg.QRM_STAT_ISOLATED.place .qrm]) (ms := []) (by simp) (by simp) (by simp))
      (.setFld .refl)).erred (by decide) (by simp +decide [Place.apart_of]) (by simp)
  · refine (hf.irqStat (by simp)).trans (State.changes.raised (cs := [.qrm]) (fs := [Reg.QRM_STAT_WIT_SEEN.place .qrm,
      Reg.QRM_STAT_IN_QUORUM.place .qrm, Reg.QRM_STAT_ISOLATED.place .qrm] ++ errPlaces .qrm) (ns := errCounts .qrm)
      (.err (.setFld (State.changes_mono State.fewAcks_changes (by simp) (by simp) (by simp))) (by simp [errPlaces])) ?_)
    simp +decide [errPlaces, Place.apart_of]
  · rw [e, hj, hq]
    refine List.mem_append_right _ (List.mem_map.2 ⟨p, List.mem_filter.2 ⟨List.mem_finRange p, ?_⟩, rfl⟩)
    rw [(State.changes.isolated.sameQuorum quorumPlaces_beside).fenced, hp, State.isolated_qrm, State.qrm_fewAcks]
    simpa using hnf
  · exact State.changes_trans (State.changes_mono .isolated (by simp) (by simp [quorumPlaces]) (by simp)) (State.changes_mono hf (by simp) (by simp) (by simp))

/-- A witness judges the nodes that it watches. -/
theorem completes.heartbeatWitness {s : State} (hi : s.inQrm = true) (hw : s.isWitness = true) (hl : s.leads = false)
    (hm : Map.wf (fun _ => 0) s.qrm.missed = true) : completes (.heartbeatInterval) s fun t =>
      t.fld .qrm Reg.QRM_STAT_WIT_SEEN = min s.qrm.acks.length 7 ∧
      (t.qrm.pcBeat = [] ∧ t.qrm.acks = [] ∧ t.qrm.peerEpoch = 0) ∧ t.qrm.heard = [] ∧
      (∀ e ∈ s.qrm.missed, Map.get 0 t.qrm.missed e.1 = 32 + (e.2 % 32 * 2 + if e.1 ∈ s.qrm.heard then 0 else 1) % 32) ∧
      (s.counted t .qrm 0x98 (s.qrm.missed.filter fun e => !s.qrm.heard.contains e.1).length) ∧
      (∀ n ∈ s.witnesses, ∃ k, Out.quorum ((s.planesTo n).take 2) (quorumHeader 1 { src := s.node, dst := n, seq := k, epoch := s.epoch })
        [s.partAlive] ∈ t.out) ∧ s.changes t [.qrm, .out, .pcie]
        ([Reg.QRM_STAT_WIT_SEEN.place .qrm, Reg.QRM_STAT_IN_QUORUM.place .qrm, Reg.QRM_STAT_ISOLATED.place .qrm] ++
          errPlaces .qrm ++ irqPlaces .qrm) ([(Page.qrm, 0x50), (Page.qrm, 0x98)] ++ irqCounts .qrm) := by
  have hn := (State.judged_wasJudged (s := s)).ends
  obtain ⟨k, p, hq⟩ := (State.beats_beaten (s := s.judged)).qrm
  have e := State.judged_of_witness hw
  obtain ⟨b, f, k1, h1⟩ := (State.judgeAcks_judged (s := s)).qrm
  obtain ⟨k2, h2⟩ := State.qrm_judgeNodes (s := s.judgeAcks)
  rw [h1] at h2
  rw [e, h2] at hq
  refine completes.next ⟨hn.seen, hn.reset, ?_, fun x hx => ?_, ?_, hn.sent, hn.frame⟩ (exec_heartbeatInterval hi)
  · rw [e, hq]
  · rw [e, hq]
    exact (Map.get_foldl_set (Map.nodup_keys ((Map.wf_iff ..).1 hm).1) _ hx _).trans (by simp [nextMissed])
  · refine State.counted.after (t := s.judged) ?_ State.beats_beaten.frame
    rw [e, State.judgeNodes_eq]
    have hj := (State.judgeNodes_judged (s := s.judgeAcks) s.judgeAcks.qrm.heard s.judgeAcks.qrm.missed).missed
    have h3 : s.judgeAcks.qrm.missed = s.qrm.missed := by rw [h1]
    have h4 : s.judgeAcks.qrm.heard = s.qrm.heard := by rw [h1]
    rw [h3, h4] at hj ⊢
    exact .before State.judgeAcks_judged.frame hj (by simp +decide [irqCounts])

/-- An acknowledgement of a higher epoch: the device asks for the commits that it lacks. -/
theorem completes.hbAckSync {s : State} {h : QHdr} {n : Nat} (hi : s.inQrm = true) (hs : s.qrm.seen.contains (h.src, h.seq) = false)
    (hw : s.witnesses.contains h.src = true) (he : s.epoch = 0 ∧ 0 < h.epoch ∧ s.qrm.peerEpoch = 0) (hl : s.leader = some n) :
    completes (.hbAck h) s fun t => t.qrm.acks = (h.src :: s.qrm.acks.filter (· ≠ h.src)) ∧ t.qrm.peerEpoch = max s.qrm.peerEpoch h.epoch ∧
      t.flag .qrm Reg.QRM_STAT_IN_QUORUM = (decide (4 ≤ (h.src :: s.qrm.acks.filter (· ≠ h.src)).length) ||
        s.flag .qrm Reg.QRM_STAT_IN_QUORUM) ∧ s.counted t .qrm 0xB8 ∧
      Out.quorum ((s.planesTo n).take 2) (quorumHeader 11 { src := s.node, dst := n, seq := s.qrm.seqOut, epoch := s.epoch }) [0] ∈ t.out ∧
      s.changes t [.qrm, .out] [Reg.QRM_STAT_IN_QUORUM.place .qrm] [(.qrm, 0xB8)] := by
  have ht := State.joinAck_joined (s := s.saw h) (h := h)
  have hf : s.changes ((s.saw h).joinAck h) [.qrm] [Reg.QRM_STAT_IN_QUORUM.place .qrm] [] := State.changes_trans (.setQrm .refl) ht.frame
  have hq : s.sameQuorum ((s.saw h).joinAck h) := hf.sameQuorum (fun x hx => quorumPlaces_beside x (by simp_all [quorumPlaces]))
  have hc : ((s.saw h).joinAck h).syncReq = (((s.saw h).joinAck h).count .qrm 0xB8).quorumSend 11 n [0] := by
    have hq' : s.sameQuorum (((s.saw h).joinAck h).count .qrm 0xB8) := hq.trans ((State.count_changes ..).sameQuorum (by simp))
    rw [State.syncReq, State.toLeader_eq (hq'.inQrm.trans hi) ((hq'.leader ht.rest.1).trans hl), hq.epoch, he.1]
  have hb : ((s.saw h).epoch == 0 && decide (0 < h.epoch) && s.qrm.peerEpoch == 0) = true := by
    rw [(s.saw_sameQuorum h).epoch]
    simpa [and_assoc] using he
  have e := (exec_hbAck hi hs hw).trans (congrArg Host.Outcome.next ((if_pos hb).trans hc))
  obtain ⟨h1, h2, h3, h4⟩ : ((s.saw h).joinAck h).qrm.acks = (h.src :: s.qrm.acks.filter (· ≠ h.src)) ∧
      ((s.saw h).joinAck h).qrm.peerEpoch = max s.qrm.peerEpoch h.epoch ∧ ((s.saw h).joinAck h).flag .qrm Reg.QRM_STAT_IN_QUORUM =
        (decide (4 ≤ (h.src :: s.qrm.acks.filter (· ≠ h.src)).length) || s.flag .qrm Reg.QRM_STAT_IN_QUORUM) ∧
      ((s.saw h).joinAck h).qrm.seqOut = s.qrm.seqOut := ⟨ht.acks, ht.peer, ht.flag, ht.rest.2⟩
  clear ht hc
  generalize (s.saw h).joinAck h = v at hf hq h1 h2 h3 h4 e
  have hm := State.out_quorumSend (t := v.count .qrm 0xB8) (msg := 11) (dst := n) (body := [0])
  have h5 : (v.count .qrm 0xB8).qrm.seqOut = s.qrm.seqOut := h4
  rw [h5] at hm
  exact completes.next (t := (v.count .qrm 0xB8).quorumSend 11 n [0]) ⟨h1, h2, h3, .before hf State.counted_count, (hq.trans ((State.count_changes ..).sameQuorum (by simp))).sent hm,
    .quorumSend (.count (State.changes_mono hf (by simp) (by simp) (by simp)))⟩ e

/-- Settles O40: the acknowledgements and the nodes are judged first, and only messages and proposals follow. -/
theorem heartbeatsAreJudged : Obligations.HeartbeatsAreJudged := by
  unfold Obligations.HeartbeatsAreJudged
  refine ⟨fun s p hr => ?_, fun s mask n hr hi hl => ?_, fun s p mask h => ?_, fun s hi hw ha => ?_, fun s hi hw ha hb => ?_,
    fun s hi hw ha hb => ?_, fun s hi hw hl hm => ?_, fun s hi => ?_, fun s hi => ?_, fun s h alive hi hs hw => ?_,
    fun s h alive n k hi hs hw hl ha hc htb => ?_, fun s h alive hi hs hw => ?_, fun s h hi hs hw he => ?_,
    fun s h n hi hs hw he hl => ?_, fun s h hi hs hw => ?_, fun s h m n c d b l hc => ?_⟩
  · exact completes.next rfl (congrArg Host.Outcome.next (if_pos hr))
  · refine completes.next ?_ (congrArg Host.Outcome.next ((if_pos hr).trans (State.toLeader_eq hi hl)))
    exact ⟨State.out_quorumSend, rfl, .quorumSend .refl⟩
  · refine ⟨completes.next (fun hr => State.ifReady_neg hr _), completes.next rfl (congrArg Host.Outcome.next ?_)⟩
    by_cases hr : s.ready .qrm = true
    · refine (State.ifReady_pos hr _).trans ?_
      rcases h with h | h | h
      · exact absurd hr (by simp [h])
      · exact if_neg (by simp [h])
      · rw [State.toLeader, h, ite_self]
    · exact if_neg hr
  · have e := State.judged_of_not_witness hw
    have hj := State.judgeAcks_enough ha
    have hn := (State.judged_wasJudged (s := s)).ends
    obtain ⟨k, p, hq⟩ := (State.beats_beaten (s := s.judged)).qrm
    rw [e, hj] at hq
    refine completes.next ⟨hn.seen, hn.reset, ?_, ?_, hn.sent, ?_⟩ (exec_heartbeatInterval hi)
    · rw [e, hj, hq]
    · rw [e, hj, hq]
    · rw [e, hj]
      exact State.changes_trans (State.changes.setQrm (.setFld .refl)) (State.changes_mono State.beats_beaten.frame (by simp) (by simp) (by simp))
  · have e := State.judged_of_not_witness hw
    have hj := State.judgeAcks_few ha hb
    have hn := (State.judged_wasJudged (s := s)).ends
    obtain ⟨k, p, hq⟩ := (State.beats_beaten (s := s.judged)).qrm
    rw [e, hj, State.qrm_fewAcks] at hq
    refine completes.next ⟨hn.seen, hn.reset, ?_, ?_, ?_, hn.sent, ?_⟩ (exec_heartbeatInterval hi)
    · rw [e, hj, State.flag, State.beats_beaten.frame.fld (by simp), State.fewAcks]
      simp +decide [State.fld_eq]
    · rw [e, hj, hq]
    · rw [e, hj, hq]
    · rw [e, hj]
      exact State.changes_trans (State.changes_mono State.fewAcks_changes (by simp) (by simp) (by simp))
        (State.changes_mono State.beats_beaten.frame (by simp) (by simp) (by simp))
  · exact completes.heartbeatIsolated hi hw ha hb
  · exact completes.heartbeatWitness hi hw hl hm
  · have hn := (State.judged_wasJudged (s := s)).ends
    exact completes.next ⟨hn.seen, hn.reset, hn.frame⟩ (exec_heartbeatInterval hi)
  · exact completes.next rfl (congrArg Host.Outcome.next (if_pos (by simp [hi])))
  · have ht := (s.saw h).takeBeat_taken h.src alive
    refine completes.next ⟨ht.heard, ht.clear, ht.missed, ?_, ht.others, State.changes_trans (.setQrm .refl) ht.frame⟩
      (exec_heartbeat hi hs hw)
    exact (s.saw_sameQuorum h).sent ht.answer
  · have ht := (s.saw h).takeBeat_taken h.src alive
    refine completes.next ⟨?_, ?_, State.changes_trans (.setQrm .refl) ht.frame⟩ (exec_heartbeat hi hs hw)
    · exact (s.saw_sameQuorum h).sent ht.answer
    · have hh := hotBits_single (s := s.saw h) h.src k hc
      rw [← ha] at hh
      have hn : (s.saw h).notTabled h.src (2 ^ k.val) ≠ 0 := State.notTabled_single (by exact htb)
      rw [State.takeBeat_hot ((s.saw_sameQuorum h).inQrm.trans hi) ((State.leader_saw h).trans hl) hh hn]
      exact (s.saw_sameQuorum h).sent (((s.saw h).noteBeat_sameQuorum h.src alive).sent State.out_quorumSend_twice)
  · refine completes.next rfl (congrArg Host.Outcome.next ((State.qmsg_new hi hs).trans (if_pos ?_)))
    rw [(s.saw_sameQuorum h).isWitness, hw]
    simp
  · have ht := State.joinAck_joined (s := s.saw h) (h := h)
    refine completes.next ⟨ht.acks, ht.peer, ht.flag, State.changes_trans (.setQrm .refl) ht.frame⟩
      ((exec_hbAck hi hs hw).trans (congrArg Host.Outcome.next (if_neg ?_)))
    rw [(s.saw_sameQuorum h).epoch]
    simpa [and_assoc] using he
  · exact completes.hbAckSync hi hs hw he hl
  · refine completes.next rfl (congrArg Host.Outcome.next ((State.qmsg_new hi hs).trans (if_pos ?_)))
    rw [(s.saw_sameQuorum h).witnesses, hw]
    simp
  · intro i hi
    have hq : ∀ f, s.qmsg h f = s := fun f => State.qmsg_copy hc
    simp only [List.mem_cons, List.not_mem_nil, or_false] at hi
    rcases hi with rfl | rfl | rfl | rfl | rfl | rfl | rfl | rfl | rfl | rfl | rfl <;>
      exact completes.next rfl (congrArg Host.Outcome.next (hq _))

end Sys2Proof.Machine
end

section
/-! PROOFS. O43: weight digests (R326 to R328). -/

namespace Sys2Proof.Machine
open Sys2Proof

section
variable {s t u : State} {pg : Page} {a : RecArgs} {n i k : Nat}

/-! ## The syndrome of an error record -/

/-- A record's bytes before its syndrome (Table 14-1). -/
def State.recordHead (s : State) (pg : Page) (a : RecArgs) (n : Nat) : List (List Byte) :=
  let lvl := if a.engine < 7 then 2 else levelOf pg
  let rail := a.rail.getD (railOf pg)
  let volt := s.fld .pwr Reg.RAIL_MV_MV rail
  [[1], bytesOfNat 1 (a.severity % 4), bytesOfNat 2 (lvl + a.engine * 8), bytesOfNat 2 pg.kind.type,
    bytesOfNat 2 pg.inst, bytesOfNat 1 a.code, bytesOfNat 1 a.opcode, bytesOfNat 2 a.taskId, bytesOfNat 4 a.reqId,
    bytesOfNat 8 s.now, bytesOfNat 2 (s.freeNat 16), bytesOfNat 2 volt, bytesOfNat 1 rail,
    bytesOfNat 1 (s.freeNat 24 / 65536), [0, 0], bytesOfNat 4 n, bytesOfNat 2 a.layer, [0, 0]]

theorem State.length_recordHead : (s.recordHead pg a n).flatten.length = 40 := by
  simp [State.recordHead, length_bytesOfNat]

theorem State.errorRecord_eq : s.errorRecord pg a n = BitVec.ofNat 512 (natOfBytes (((s.recordHead pg a n).flatten ++ a.syn).take 64)) := by
  rw [← List.flatten_concat]
  rfl

/-- A byte of a record's syndrome. -/
theorem State.bits_errorRecord (h : i < 24) : bits (s.errorRecord pg a n).toNat (320 + 8 * i) 8 = (a.syn.getD i 0).toNat := by
  have hb : (((s.recordHead pg a n).flatten ++ a.syn).take 64).getD (40 + i) 0 = a.syn.getD i 0 := by
    rw [List.getD_eq_getElem?_getD, List.getD_eq_getElem?_getD, List.getElem?_take_of_lt (by omega),
      List.getElem?_append_right (by rw [State.length_recordHead]; omega), State.length_recordHead, Nat.add_sub_cancel_left]
  rw [State.errorRecord_eq, ← hb, ← natOfBytes_byte, BitVec.toNat_ofNat, bits, show 320 + 8 * i = 8 * (40 + i) by omega,
    show (2 : Nat) ^ 512 = 2 ^ (8 * (40 + i)) * 2 ^ (512 - 8 * (40 + i)) by rw [← Nat.pow_add]; congr 1; omega,
    Nat.mod_mul_right_div_self, Nat.mod_mod_of_dvd _ (Nat.pow_dvd_pow 2 (show 8 ≤ 512 - 8 * (40 + i) by omega)), Nat.pow_mul]

end

section
variable {s t u : State} {k : Fin 16} {m : DigestMsg} {own d : BitVec 128}

/-! ## A digest message is kept -/

/-- A member's index among all members (R328). -/
def digIndex (m : DigestMsg) : Nat := m.hdr.src * 16 + m.region.val

/-- A region keeps the newest message of each member, and counts those of a member found in the minority. -/
def State.keepDigest (s : State) (k : Fin 16) (m : DigestMsg) : State :=
  let x := s.dig k.val
  s.setDig k.val { x with
    members := m :: x.members.filter fun u => !(u.hdr.src == m.hdr.src && u.region == m.region)
    minority := Map.set 0 x.minority (digIndex m) (if m.mstate = 1 then 0 else Map.get 0 x.minority (digIndex m) - 1) }

/-- A member that stays in the minority is reported. -/
def State.reportDigest (s t : State) (k : Fin 16) (m : DigestMsg) : State :=
  if Map.get 0 (s.dig k.val).minority (digIndex m) = 2 ∧ m.mstate ≠ 1 then
    match t.leader with
    | some n => t.quorumSend 0x04 n [m.partMask.toNat, 0x05, m.hdr.src]
    | none => t
  else t

/-- A suspended region takes a message of a member that was suspended too. -/
def State.rejoins (s : State) (k : Fin 16) (m : DigestMsg) : Prop :=
  s.fld .dig Reg.DIG_REGION_MSTATE k.val = 3 ∧ m.mstate = 0 ∧
    (((s.dig k.val).members.filter fun u => u.hdr.src == m.hdr.src && u.region == m.region).any fun u => u.mstate != 0) = true

/-- The message is one of a region that takes part. -/
structure State.digestKnown (s : State) (k : Fin 16) (m : DigestMsg) : Prop where
  ready : s.ready .dig = true
  enabled : s.flag .dig Reg.DIG_CTRL_EN = true
  valid : s.flag .dig Reg.DIG_REGION_VALID k.val = true
  member : (m.hdr.src, m.region.val) ∈ s.digMembers k.val
  group : m.group = s.fld .dig Reg.DIG_REGION_GROUP k.val
  new : (m.hdr.src, m.hdr.seq) ∉ s.qrm.seen

theorem State.reportDigest_mailed : t.mailed (s.reportDigest t k m) := by
  rw [State.reportDigest]
  split
  · split
    · exact State.mailed.refl.quorumSend
    · exact .refl
  · exact .refl

theorem State.keepDigest_changes : s.changes ((s.saw m.hdr).keepDigest k m) [.digs, .qrm] [] [] :=
  .setDig (.setQrm .refl)

/-- What a region does with a message that no copy came before. -/
def State.actDigest (s : State) (k : Fin 16) (m : DigestMsg) : State :=
  let t := s.reportDigest (s.keepDigest k m) k m
  let wasAway := ((s.dig k.val).members.filter fun u => u.hdr.src == m.hdr.src && u.region == m.region).any fun u => u.mstate != 0
  (if t.fld .dig Reg.DIG_REGION_MSTATE k.val = 3 ∧ m.mstate = 0 ∧ wasAway then t.expel k.val m.hdr.src else t).digCompare k.val

theorem execDigest_eq : exec (.digest k m) s = .next (s.ifReady .dig fun s =>
    if s.flag .dig Reg.DIG_CTRL_EN ∧ s.flag .dig Reg.DIG_REGION_VALID k.val ∧
        (decide ((m.hdr.src, m.region.val) ∈ s.digMembers k.val) && m.group == s.fld .dig Reg.DIG_REGION_GROUP k.val) then
      s.once m.hdr fun s => s.actDigest k m
    else s) := rfl

theorem exec_digest (h : s.digestKnown k m) (hn : ¬ s.rejoins k m) : exec (.digest k m) s =
    .next ((s.reportDigest ((s.saw m.hdr).keepDigest k m) k m).digCompare k.val) := by
  have hf : (s.reportDigest ((s.saw m.hdr).keepDigest k m) k m).fld .dig Reg.DIG_REGION_MSTATE k.val = s.fld .dig Reg.DIG_REGION_MSTATE k.val :=
    (State.reportDigest_mailed.frame.fld (by simp)).trans (State.keepDigest_changes.fld (by simp))
  have hs : s.qrm.seen.contains (m.hdr.src, m.hdr.seq) = false := by simpa using h.new
  rw [execDigest_eq, State.ifReady_pos h.ready, if_pos ⟨h.enabled, h.valid, by simpa using ⟨h.member, h.group⟩⟩, State.once, hs]
  refine congrArg (fun t : State => Host.Outcome.next (t.digCompare k.val)) (if_neg fun hc => hn ?_)
  exact ⟨hf ▸ hc.1, hc.2.1, hc.2.2⟩

theorem exec_digest_unknown (h : ¬ s.digestKnown k m) : exec (.digest k m) s = .next s := by
  rw [execDigest_eq, State.ifReady]
  split
  · next hr =>
    split
    · next hc =>
      obtain ⟨he, hv, hk⟩ := hc
      have hk' : (m.hdr.src, m.region.val) ∈ s.digMembers k.val ∧ m.group = s.fld .dig Reg.DIG_REGION_GROUP k.val := by simpa using hk
      have hs : s.qrm.seen.contains (m.hdr.src, m.hdr.seq) = true := by
        by_contra hn
        exact h ⟨hr, he, hv, hk'.1, hk'.2, by simpa using hn⟩
      rw [State.once, hs]
      rfl
    · rfl
  · rfl

/-! ## The comparison -/

theorem State.digCompare_none {j : Nat} (h : (s.dig j).clean = false) : s.digCompare j = s := by
  rw [State.digCompare, State.digOwn, h]
  rfl

/-- The region has a clean digest. -/
def State.digestIs (s : State) (j : Nat) (own : BitVec 128) : Prop :=
  (s.dig j).clean = true ∧ own = BitVec.ofNat 128 (s.fld .dig Reg.DIG_REGION_DIGEST j)

theorem State.digestIs.digOwn {j : Nat} (h : s.digestIs j own) : s.digOwn j = some own := by
  rw [State.digOwn, h.1, h.2]
  rfl

theorem State.digCompare_agree {j : Nat} (h : s.digestIs j own) (hp : ∀ x ∈ s.digPeers j, x.2 = own) : s.digCompare j = s := by
  have hf : (s.digPeers j).find? (fun m => m.2 ≠ own) = none := List.find?_eq_none.2 fun x hx => by simp [hp x hx]
  simp only [State.digCompare, h.digOwn, hf]

theorem State.digCompare_pair {j : Nat} (h : s.digestIs j own) (hp : s.digPeers j = [(m, d)]) (hd : d ≠ own)
    (hm : s.fld .dig Reg.DIG_REGION_MSTATE j = 0) : s.digCompare j =
      if s.node * 16 + j < digIndex m then (s.count .dig 0x98).expel j m.hdr.src
      else (s.count .dig 0x98).setFld .dig Reg.DIG_REGION_MSTATE 3 j := by
  simp only [State.digCompare, h.digOwn, hp, List.find?_cons, decide_eq_true hd, List.map_cons, List.map_nil, List.length_cons,
    List.length_nil, hm]
  rfl

section
variable {m2 : DigestMsg} {d2 : BitVec 128} {j : Nat}

theorem majority_peers (h : d ≠ own) : majority [own, d, d] = some d := by
  simp [majority, List.find?_cons, h, h.symm]

theorem majority_own (h : d ≠ own) : majority [own, d, own] = some own := by
  simp [majority, List.find?_cons, h]

theorem majority_none (h : d ≠ own) (h2 : d2 ≠ own) (h3 : d ≠ d2) : majority [own, d, d2] = none := by
  simp [majority, List.find?_cons, h, h2, h3, h.symm, h2.symm, h3.symm]

theorem State.digCompare_minority (h : s.digestIs j own) (hp : s.digPeers j = [(m, d), (m2, d)]) (hd : d ≠ own)
    (hm : s.fld .dig Reg.DIG_REGION_MSTATE j = 0) : s.digCompare j = (s.count .dig 0x98).expel j m.hdr.src := by
  simp only [State.digCompare, h.digOwn, hp, List.find?_cons, decide_eq_true hd, List.map_cons, List.map_nil, List.length_cons,
    List.length_nil, hm, majority_peers hd, if_neg hd.symm]
  rfl

theorem State.digCompare_split (h : s.digestIs j own) (hp : s.digPeers j = [(m, d), (m2, d2)]) (hd : d ≠ own) (h2 : d2 ≠ own)
    (h3 : d ≠ d2) : s.digCompare j = (((s.count .dig 0x98).count .dig 0xA0).err .dig 0x02).irq .dig 1 := by
  simp only [State.digCompare, h.digOwn, hp, List.find?_cons, decide_eq_true hd, List.map_cons, List.map_nil, List.length_cons,
    List.length_nil, majority_none hd h2 h3]
  rfl

theorem State.digCompare_majority (h : s.digestIs j own) (hp : s.digPeers j = [(m, d), (m2, own)]) (hd : d ≠ own) :
    s.digCompare j = (s.count .dig 0x98).digMinority j own := by
  simp only [State.digCompare, h.digOwn, hp, List.find?_cons, decide_eq_true hd, List.map_cons, List.map_nil, List.length_cons,
    List.length_nil, majority_own hd]
  rfl

end

/-! ## What a write in the State Space leaves of the regions -/

/-- Every region but its dirty mark is the same. -/
def State.sameMembers (s t : State) : Prop :=
  ∀ j, (t.dig j).members = (s.dig j).members ∧ (t.dig j).minority = (s.dig j).minority ∧ (t.dig j).steps = (s.dig j).steps

theorem State.sameMembers.refl : s.sameMembers s := fun _ => ⟨rfl, rfl, rfl⟩

theorem State.sameMembers.trans (h : s.sameMembers t) (k : t.sameMembers u) : s.sameMembers u := fun j =>
  ⟨(k j).1.trans (h j).1, (k j).2.1.trans (h j).2.1, (k j).2.2.trans (h j).2.2⟩

theorem State.sameMembers.keeps {l : List Comp} (h : s.sameMembers t) (k : t.keeps u l) (hl : Comp.digs ∉ l := by simp) : s.sameMembers u := by
  have e : u.digs = t.digs := k .digs hl
  refine h.trans fun j => ?_
  simp only [State.dig, e, and_self]

theorem State.sameMembers.changes {cs : List Comp} {fs : List Place} {ns : List (Page × Nat)} (h : s.sameMembers t) (k : t.changes u cs fs ns)
    (hl : Comp.digs ∉ cs := by simp) : s.sameMembers u := h.keeps k.1 (by simpa using hl)

theorem State.sameMembers.of_eq (h : t.digs = s.digs) : s.sameMembers t := fun j => by simp only [State.dig, h, and_self]

/-- A write of n bytes marks region k where it meets it (R327). -/
def State.markDig (s : State) (a n : Nat) (m : Map DigRegion) (k : Nat) : Map DigRegion :=
  let base := s.fldAddr .dig Reg.DIG_REGION_BASE_LO Reg.DIG_REGION_BASE_HI k
  if s.flag .dig Reg.DIG_REGION_SEALED k ∧ n ≠ 0 ∧ a < base + s.fld .dig Reg.DIG_REGION_LEN_PAGES k * 65536 ∧ base < a + n
  then Map.set {} m k { Map.get {} m k with dirty := true } else m

theorem State.markDig_same {a n k j : Nat} {m : Map DigRegion} : (Map.get {} (s.markDig a n m k) j).members = (Map.get {} m j).members ∧
    (Map.get {} (s.markDig a n m k) j).minority = (Map.get {} m j).minority ∧
    (Map.get {} (s.markDig a n m k) j).steps = (Map.get {} m j).steps := by
  rw [State.markDig]
  split
  · by_cases e : j = k
    · subst e
      rw [Map.get_set_same]
      exact ⟨rfl, rfl, rfl⟩
    · rw [Map.get_set_other _ _ _ _ e]
      exact ⟨rfl, rfl, rfl⟩
  · exact ⟨rfl, rfl, rfl⟩

theorem State.sameMembers_wr (a : Nat) (b : List Byte) : s.sameMembers (s.wr a b) := by
  have h : ∀ (l : List Nat) (m : Map DigRegion), s.sameMembers { s with digs := m } →
      s.sameMembers { s with digs := l.foldl (s.markDig a b.length) m } := by
    intro l
    induction l with
    | nil => exact fun m hm => hm
    | cons i l ih => exact fun m hm => ih _ (hm.trans fun j => State.markDig_same)
  exact h (List.range 16) s.digs .refl

theorem State.sameMembers_serveHeldWrite (x : Held) (b : List Byte) (side : Bool) : s.sameMembers (s.serveHeldWrite x b side) := by
  unfold State.serveHeldWrite
  extract_lets page
  split
  · exact State.sameMembers.refl.keeps (Steady.keepsOf (l := [.out, .cnt, .tier, .regs]) (.hold (.refl _ _) _))
  · split
    · exact (s.sameMembers_wr _ _).keeps (Steady.keepsOf (l := [.out, .tier]) (.answerHeld (.refl _ _) _ _ _))
    · exact State.sameMembers.refl.keeps (Steady.keepsOf (l := [.out, .cnt, .tier, .regs]) (.hold (.refl _ _) _))
    · exact State.sameMembers.refl.keeps (Steady.keepsOf (l := [.out, .regs, .cnt, .movers, .tier, .pcie]) (.pullAndHold (.refl _ _) _))
    · exact State.sameMembers.refl.keeps (Steady.keepsOf (l := [.out, .regs, .cnt, .tier, .pcie]) (.openAndHold (.refl _ _) _ _))
    · split
      · exact State.sameMembers.refl.keeps (Steady.keepsOf (l := [.out, .regs, .cnt, .tier, .pcie]) (.openAndHold (.refl _ _) _ _))
      · exact State.sameMembers.refl.keeps (Steady.keepsOf (l := [.out, .regs, .cnt, .tier, .pcie]) (.refuseHeld (.refl _ _) _ _))

theorem State.sameMembers_put (off : Nat) (b : List Byte) : s.sameMembers (s.put off b) := by
  unfold State.put
  split
  · exact .refl
  · refine State.each_keeps_prop (P := s.sameMembers) .refl fun t p _ ht => ?_
    exact (ht.keeps (Steady.keepsOf (l := [.cnt, .tier, .pwr, .regs]) (.note (.refl _ _) _))).trans (State.sameMembers_serveHeldWrite _ _ _)

theorem State.sameMembers_elogRing (r : BitVec 512) : s.sameMembers (s.elogRing r) := by
  unfold State.elogRing
  split
  · extract_lets n tail head addr
    split
    · exact (((State.sameMembers.refl.changes (State.count_changes ..)).changes (State.setFld_changes ..)).changes
        (State.err_changes ..)).changes (State.irq_changes ..)
    · exact (State.sameMembers_put _ _).changes (State.setFld_changes ..)
  · exact .refl

theorem State.sameMembers_record {pg : Page} {a : RecArgs} (h : a.severity ≠ 0) : s.sameMembers (s.record pg a) := by
  have h1 : s.sameMembers (((s.recordPut pg a).elogRing (s.recordOf pg a)).irq .elog 0) := by
    have h0 : s.sameMembers (s.recordPut pg a) := .of_eq rfl
    exact (h0.trans (State.sameMembers_elogRing _)).changes (State.irq_changes ..)
  rw [State.record_eq h]
  split
  · split
    · exact h1.keeps (l := [.out, .cnt, .regs, .elog, .qrm]) (Steady.keepsOf (.escalate (.refl _ _) _))
    · exact h1
  · exact h1

/-! ## A member is expelled -/

/-- Partitions that a fence cause is taken of are fenced, or about to be (R318). -/
theorem State.takeCauses_fencing {ps : List PartId} {c : Nat} {p : PartId} (hp : p ∈ ps) :
    s.fenced p = true ∨ (s.takeCauses ps c).qrm.fencing.any (fun f => f.1 == p.val) = true := by
  obtain ⟨k, hk⟩ := (s.takeCauses_mailed ps c).qrm
  by_cases hf : s.fenced p = true
  · exact .inl hf
  · refine .inr ?_
    rw [hk]
    change List.any (s.qrm.fencing ++ (s.newCauses ps).map fun p => (p.val, c)) _ = true
    rw [List.any_append, Bool.or_eq_true]
    by_cases hq : s.qrm.fencing.any (fun f => f.1 == p.val) = true
    · exact .inl hq
    · refine .inr (List.any_eq_true.2 ⟨(p.val, c), List.mem_map.2 ⟨p, List.mem_filter.2 ⟨hp, ?_⟩, rfl⟩, by simp⟩)
      simp [hf, hq]

/-- What the expulsion of region k leaves (Table 14-6). -/
structure State.expelled (s t : State) (k : Fin 16) : Prop where
  mstate : t.fld .dig Reg.DIG_REGION_MSTATE k.val = 1
  code : t.fld .dig Reg.PG_ERR_CODE = 1
  fencing (p : PartId) : bit (s.fld .dig Reg.DIG_REGION_PART_MASK k.val) p.val = true →
    s.fenced p = true ∨ t.qrm.fencing.any (fun f => f.1 == p.val) = true
  record : ∃ b ∈ t.elog.recent.head?, bits b.toNat 320 8 = 7 ∧ bits b.toNat 328 8 = k.val
  digs : s.sameMembers t
  frame : s.changesOn t recordComps (.dig :: recordPages)
  counter : t.counter .dig 0x98 = s.counter .dig 0x98

/-- The region is EXPELLED, its page records it. -/
def State.markExpelled (s : State) (k : Fin 16) : State := ((s.setFld .dig Reg.DIG_REGION_MSTATE 1 k.val).err .dig 0x01).irq .dig 0

/-- The syndrome of the expulsion's record (Table 14-2). -/
def State.expelSyn (s : State) (k : Fin 16) (other : Nat) : List Byte :=
  List.flatten
    [[0x07, BitVec.ofNat 8 k.val], bytesOfNat 2 (s.fld .dig Reg.DIG_REGION_GROUP k.val), bytesOfNat 2 other, [0, 0],
     bytesOfNat 16 (s.fld .dig Reg.DIG_REGION_DIGEST k.val)]

/-- The record of the expulsion. -/
def State.expelArgs (s : State) (k : Fin 16) (other : Nat) : RecArgs := { severity := 2, code := 0x01, syn := s.expelSyn k other }

/-- The partitions of a region. -/
def State.digParts (s : State) (k : Fin 16) : List PartId := allParts.filter fun p => bit (s.fld .dig Reg.DIG_REGION_PART_MASK k.val) p.val

theorem State.expel_eq (other : Nat) : s.expel k.val other =
    ((s.markExpelled k).record .dig ((s.markExpelled k).expelArgs k other)).takeCauses
      (((s.markExpelled k).record .dig ((s.markExpelled k).expelArgs k other)).digParts k) 0x05 := rfl

theorem State.markExpelled_changes : s.changes (s.markExpelled k) [.out, .pcie]
    (Reg.DIG_REGION_MSTATE.place .dig k.val :: (errPlaces .dig ++ irqPlaces .dig)) ((.dig, 0x50) :: irqCounts .dig) :=
  ((State.changes.refl.setFld).err (by simp [errPlaces]) (by simp)).irq

theorem dig_notMem_recordPages : Page.dig ∉ recordPages := by
  simp [recordPages, putPages]

theorem digRegion_fits (k : Fin 16) : Reg.DIG_REGION_MSTATE.fits k.val = true ∧ Reg.DIG_REGION_PART_MASK.fits k.val = true ∧
    Reg.DIG_REGION_MSTATE.apart Reg.DIG_REGION_PART_MASK k.val k.val = true := by
  revert k
  decide

theorem State.expel_expelled (other : Nat) : s.expelled (s.expel k.val other) k := by
  rw [State.expel_eq]
  have h1 : s.changes (s.markExpelled k) _ _ _ := State.markExpelled_changes
  have h2 : (s.markExpelled k).changesOn ((s.markExpelled k).record .dig ((s.markExpelled k).expelArgs k other)) recordComps recordPages :=
    State.record_changesOn
  have hr := State.record_recorded (s := s.markExpelled k) (pg := .dig) (a := (s.markExpelled k).expelArgs k other) (by simp [State.expelArgs])
  have hm := State.sameMembers_record (s := s.markExpelled k) (pg := .dig) (a := (s.markExpelled k).expelArgs k other) (by simp [State.expelArgs])
  generalize (s.markExpelled k).record .dig ((s.markExpelled k).expelArgs k other) = u at h2 hr hm ⊢
  have h3 : u.changes (u.takeCauses (u.digParts k) 0x05) [.qrm, .out] [] [] := State.takeCauses_changes ..
  have hfld : ∀ (f : Fld) (i : Nat), f.fits i = true → (u.takeCauses (u.digParts k) 0x05).fld .dig f i = (s.markExpelled k).fld .dig f i :=
    fun f i hf => (h3.fld (by simp)).trans (h2.fld hf dig_notMem_recordPages)
  obtain ⟨hm1, hm2, hm3⟩ := digRegion_fits k
  have hk := k.isLt
  have hfen (p : PartId) : u.fenced p = s.fenced p := by
    rw [State.fenced, State.fenced, h2.fld (by decide) (by simp [recordPages, putPages]),
      h1.fld (by simp +decide [errPlaces, irqPlaces, Place.apart_of_ne, hm1])]
  refine ⟨?_, ?_, fun p hp => ?_, ?_, ?_, ?_, ?_⟩
  · rw [hfld _ _ hm1, State.markExpelled]
    simp +decide [State.fld_eq]
  · rw [hfld _ _ (by decide), State.markExpelled]
    simp +decide [State.fld_eq]
  · have hu : u.fld .dig Reg.DIG_REGION_PART_MASK k.val = s.fld .dig Reg.DIG_REGION_PART_MASK k.val :=
      (h2.fld hm2 dig_notMem_recordPages).trans (h1.fld (by simp +decide [errPlaces, irqPlaces, Place.apart_of_below, Place.apart_of, hm1, hm2, hm3]))
    exact hfen p ▸ State.takeCauses_fencing (List.mem_filter.2 ⟨by simp [allParts], by rw [hu, hp]⟩)
  · refine ⟨(s.markExpelled k).recordOf .dig ((s.markExpelled k).expelArgs k other), ?_, ?_, ?_⟩
    · rw [h3.1 .elog (by simp)]
      exact hr.1
    · exact (State.bits_errorRecord (i := 0) (by omega)).trans rfl
    · refine (State.bits_errorRecord (i := 1) (by omega)).trans (Nat.mod_eq_of_lt (by omega))
  · have h0 : s.sameMembers (s.markExpelled k) := State.sameMembers.refl.changes h1
    exact (h0.trans hm).changes h3
  · have k1 : s.changesOn (s.markExpelled k) [.out, .pcie] [.dig, .pcie] :=
      h1.onPages (by simp +decide [errPlaces, irqPlaces, hm1, Fld.place]) (by simp +decide [irqCounts])
    have k3 : u.changesOn (u.takeCauses (u.digParts k) 0x05) [.qrm, .out] [] := h3.onPages (by simp) (by simp)
    exact (k1.mono (by simp [recordComps]) (by simp [recordPages])).trans
      ((h2.mono (by simp) (by simp +contextual)).trans (k3.mono (by simp [recordComps]) (by simp)))
  · rw [h3.counter (by simp), h2.counter (by decide) dig_notMem_recordPages, h1.counter (by simp +decide [irqCounts])]

end

end Sys2Proof.Machine
end

section
/-! PROOFS. O43: what a region does with a DIGEST message (R327, R328). -/

namespace Sys2Proof.Machine
open Sys2Proof

section
variable {s t u : State} {k : Fin 16} {m m2 : DigestMsg} {own d d2 : BitVec 128}

/-! ## The region that keeps a message -/

/-- A region that took a new message, before it compares. -/
def State.tookDigest (s : State) (k : Fin 16) (m : DigestMsg) : State := (s.saw m.hdr).keepDigest k m

theorem State.dig_tookDigest : (s.tookDigest k m).dig k.val = { s.dig k.val with
    members := m :: (s.dig k.val).members.filter fun u => !(u.hdr.src == m.hdr.src && u.region == m.region)
    minority := Map.set 0 (s.dig k.val).minority (digIndex m) (if m.mstate = 1 then 0 else Map.get 0 (s.dig k.val).minority (digIndex m) - 1) } :=
  Map.get_set_same ..

theorem State.mem_tookDigest : m ∈ ((s.tookDigest k m).dig k.val).members := by
  rw [State.dig_tookDigest]
  exact List.mem_cons_self

theorem State.minority_tookDigest (h : m.mstate ≠ 1) (h2 : Map.get 0 (s.dig k.val).minority (digIndex m) = 2) :
    Map.get 0 ((s.tookDigest k m).dig k.val).minority (digIndex m) = 1 := by
  rw [State.dig_tookDigest]
  simp [h, h2]

theorem State.othersSame_tookDigest : othersSame {} s.digs (s.tookDigest k m).digs [k.val] :=
  (othersSame_set (k := k.val) (ks := [k.val]) {} _ s.digs s.digs (by simp)).2 (othersSame_refl _ _)

theorem State.tookDigest_changes : s.changes (s.tookDigest k m) [.digs, .qrm] [] [] := State.keepDigest_changes

theorem State.digestIs.tookDigest (h : s.digestIs k.val own) : (s.tookDigest k m).digestIs k.val own := by
  refine ⟨?_, h.2.trans (congrArg _ (State.tookDigest_changes.fld (by simp)).symm)⟩
  rw [State.dig_tookDigest]
  exact h.1

theorem State.reportDigest_same (h : Map.get 0 (s.dig k.val).minority (digIndex m) ≠ 2) : s.reportDigest t k m = t := if_neg fun hc => h hc.1

/-- A message of a member that is not to be reported is kept and compared. -/
theorem exec_digest_quiet (h : s.digestKnown k m) (hn : ¬ s.rejoins k m) (hl : Map.get 0 (s.dig k.val).minority (digIndex m) ≠ 2) :
    exec (.digest k m) s = .next ((s.tookDigest k m).digCompare k.val) := by
  rw [exec_digest h hn, State.reportDigest_same hl]
  rfl

/-! ## Members that can be compared -/

/-- The message of a member, where it is comparable (R327). -/
def State.digPeer (s : State) (k : Fin 16) (m : DigestMsg) : Option (DigestMsg × BitVec 128) :=
  match m.digest with
  | some d =>
    if m.contentId = s.fld .dig Reg.DIG_REGION_CONTENT_ID k.val ∧ m.group = s.fld .dig Reg.DIG_REGION_GROUP k.val ∧
        (m.hdr.src, m.region.val) ∈ s.digMembers k.val then some (m, d) else none
  | none => none

theorem State.digPeers_eq : s.digPeers k.val = (s.dig k.val).members.filterMap (s.digPeer k) := rfl

/-- A message that the region compares with. -/
structure State.comparable (s : State) (k : Fin 16) (m : DigestMsg) (d : BitVec 128) : Prop where
  digest : m.digest = some d
  content : m.contentId = s.fld .dig Reg.DIG_REGION_CONTENT_ID k.val
  group : m.group = s.fld .dig Reg.DIG_REGION_GROUP k.val
  member : (m.hdr.src, m.region.val) ∈ s.digMembers k.val

theorem State.comparable.digPeer (h : s.comparable k m d) : s.digPeer k m = some (m, d) := by
  rw [State.digPeer, h.digest]
  exact if_pos ⟨h.content, h.group, h.member⟩

theorem State.digPeer_tookDigest : (s.tookDigest k m).digPeer k = s.digPeer k := rfl

theorem State.digPeers_tookDigest_first (h : s.comparable k m d) (hm : (s.dig k.val).members = []) : (s.tookDigest k m).digPeers k.val = [(m, d)] := by
  rw [State.digPeers_eq, State.digPeer_tookDigest, State.dig_tookDigest, hm]
  simp [h.digPeer]

theorem State.digPeers_tookDigest_second (h : s.comparable k m d) (h2 : s.comparable k m2 d2) (hm : (s.dig k.val).members = [m2])
    (hne : (m2.hdr.src, m2.region.val) ≠ (m.hdr.src, m.region.val)) : (s.tookDigest k m).digPeers k.val = [(m, d), (m2, d2)] := by
  have hf : (!(m2.hdr.src == m.hdr.src && m2.region == m.region)) = true := by
    rw [Bool.not_eq_true', Bool.and_eq_false_iff]
    by_cases e : m2.hdr.src = m.hdr.src
    · refine .inr (beq_false_of_ne fun er => hne ?_)
      rw [e, er]
    · exact .inl (beq_false_of_ne e)
  rw [State.digPeers_eq, State.digPeer_tookDigest, State.dig_tookDigest, hm]
  simp only [List.filter_cons, hf, List.filter_nil, if_true, List.filterMap_cons, h.digPeer, h2.digPeer, List.filterMap_nil]

theorem State.not_rejoins_of_active (h : s.fld .dig Reg.DIG_REGION_MSTATE k.val ≠ 3) : ¬ s.rejoins k m := fun hr => h hr.1

theorem State.not_rejoins_of_first (h : (s.dig k.val).members = []) : ¬ s.rejoins k m := fun hr => by
  have := hr.2.2
  simp [h] at this

/-! ## What the comparison leaves -/

theorem State.mstate_tookDigest : (s.tookDigest k m).fld .dig Reg.DIG_REGION_MSTATE k.val = s.fld .dig Reg.DIG_REGION_MSTATE k.val :=
  State.tookDigest_changes.fld (by simp)

/-- The mismatch is counted. -/
def State.differed (s : State) (k : Fin 16) (m : DigestMsg) : State := (s.tookDigest k m).count .dig 0x98

theorem State.differed_changes : s.changes (s.differed k m) [.digs, .qrm] [] [(.dig, 0x98)] :=
  .count (State.changes_mono State.tookDigest_changes (fun _ h => h) (fun _ h => h) (by simp))

theorem State.counted_differed : s.counted (s.differed k m) .dig 0x98 := .before State.tookDigest_changes State.counted_count

/-- A member that the comparison expels. -/
theorem State.differed_expelled (other : Nat) {t : State} (ht : t = (s.differed k m).expel k.val other) :
    m ∈ (t.dig k.val).members ∧ t.fld .dig Reg.PG_ERR_CODE = 1 ∧ t.fld .dig Reg.DIG_REGION_MSTATE k.val = 1 ∧ s.counted t .dig 0x98 ∧
    (∀ p : PartId, bit (s.fld .dig Reg.DIG_REGION_PART_MASK k.val) p.val = true →
      s.fenced p = true ∨ t.qrm.fencing.any (fun f => f.1 == p.val) = true) ∧
    (∃ b ∈ t.elog.recent.head?, bits b.toNat 320 8 = 7 ∧ bits b.toNat 328 8 = k.val) ∧
    (∀ j, j < 16 → j ≠ k.val → (t.dig j).members = (s.dig j).members ∧ (t.dig j).minority = (s.dig j).minority ∧
      (t.dig j).steps = (s.dig j).steps) ∧ s.changesOn t (.digs :: recordComps) (.dig :: recordPages) := by
  have h : (s.differed k m).expelled t k := ht ▸ State.expel_expelled other
  have hc : s.changes (s.differed k m) _ _ _ := State.differed_changes
  refine ⟨?_, h.code, h.mstate, ?_, fun p hp => ?_, h.record, fun j _ hj => ?_, ?_⟩
  · rw [(h.digs k.val).1]
    exact State.mem_tookDigest
  · rw [State.counted, h.counter]
    exact State.counted_differed
  · have hf : (s.differed k m).fenced p = s.fenced p := by rw [State.fenced, State.fenced, hc.fld (by simp)]
    rw [← hf]
    exact h.fencing p (by rw [hc.fld (by simp)]; exact hp)
  · have e : (s.differed k m).dig j = s.dig j := State.othersSame_tookDigest j (by simpa using hj)
    rw [← e]
    exact h.digs j
  · have k1 : s.changesOn (s.differed k m) [.digs, .qrm] [.dig] := hc.onPages (by simp) (by simp)
    exact (k1.mono (by simp [recordComps]) (by simp)).trans (h.frame.mono (fun _ h => List.mem_cons_of_mem _ h) fun _ h => h)

theorem State.digMinority_changes (j : Nat) : s.changes (s.digMinority j own) [.digs] [] [] := .setDig .refl

theorem State.digMinority_others : othersSame {} s.digs (s.digMinority k.val own).digs [k.val] :=
  (othersSame_set (k := k.val) (ks := [k.val]) {} _ s.digs s.digs (by simp)).2 (othersSame_refl _ _)

theorem State.members_digMinority : ((s.digMinority k.val own).dig k.val).members = (s.dig k.val).members := by
  rw [State.digMinority, State.dig, State.setDig, Map.get_set_same]

/-- A second message whose digest the region compares. -/
theorem exec_digest_second (h : s.digestKnown k m) (hl : Map.get 0 (s.dig k.val).minority (digIndex m) ≠ 2)
    (h0 : s.fld .dig Reg.DIG_REGION_MSTATE k.val = 0) : exec (.digest k m) s = .next ((s.tookDigest k m).digCompare k.val) :=
  exec_digest_quiet h (State.not_rejoins_of_active (by omega)) hl

end

end Sys2Proof.Machine
end

section
/-! PROOFS. O43: digest passes, and writes of a region's words (R327, Table 14-10). -/

namespace Sys2Proof.Machine
open Sys2Proof

section
variable {s t u : State} {k : Fin 16} {v : Word}

/-! ## Digest passes -/

theorem State.digSum_congr (h : t.mem = s.mem) (base b n : Nat) : t.digSum base b n = s.digSum base b n := by
  induction n generalizing b with
  | zero => rfl
  | succ n ih => rw [State.digSum, State.digSum, ih, State.rd, State.rd, h]

theorem State.digSum_lt (base b n : Nat) : s.digSum base b n < 2 ^ 128 := by
  cases n with
  | zero => exact Nat.two_pow_pos _
  | succ n => exact Nat.mod_lt _ (Nat.two_pow_pos _)

/-- The region is one that passes are made of. -/
structure State.hashed (s : State) (k : Fin 16) : Prop where
  ready : s.ready .dig = true
  enabled : s.flag .dig Reg.DIG_CTRL_EN = true
  valid : s.flag .dig Reg.DIG_REGION_VALID k.val = true
  isSealed : s.flag .dig Reg.DIG_REGION_SEALED k.val = true

/-- A page of the region is POISONED. -/
def State.digPoisoned (s : State) (k : Fin 16) : Bool :=
  (List.range (s.fld .dig Reg.DIG_REGION_LEN_PAGES k.val)).any fun i =>
    (s.leaf (s.fldAddr .dig Reg.DIG_REGION_BASE_LO Reg.DIG_REGION_BASE_HI k.val / 65536 + i)).st == .poisoned

/-- A clean pass leaves the region's digest, and counts. -/
def State.passed (s : State) (k : Fin 16) : State :=
  ((((s.setDig k.val { s.dig k.val with dirty := false, clean := true }).setFld .dig Reg.DIG_REGION_DIGEST (s.digValue k.val) k.val).count
    .dig 0x80).setFld .dig Reg.DIG_REGION_PASS ((s.fld .dig Reg.DIG_REGION_PASS k.val + 1) % 2 ^ 32) k.val)

/-- What a region does after a clean pass: a member that was away compares first. -/
def State.readmit (s : State) (k : Fin 16) : State :=
  if s.fld .dig Reg.DIG_REGION_MSTATE k.val = 2 then
    let own := BitVec.ofNat 128 (s.fld .dig Reg.DIG_REGION_DIGEST k.val)
    let peers := (s.digPeers k.val).map (·.2)
    let same := if peers.length = 1 then peers == [own] else decide (majority (own :: peers) = some own)
    if peers.isEmpty then s
    else if same then ((s.setFld .dig Reg.DIG_REGION_MSTATE 0 k.val).count .dig 0xA8).irq .dig 2
    else s.count .dig 0xB0
  else s

theorem State.passed_changes : s.changes (s.passed k) [.digs] [Reg.DIG_REGION_DIGEST.place .dig k.val, Reg.DIG_REGION_PASS.place .dig k.val]
    [(.dig, 0x80)] := .setFld (.count (.setFld (.setDig .refl)))

theorem exec_digestPassDone_unhashed (h : ¬ s.hashed k) : exec (.digestPassDone k) s = .next s := by
  refine congrArg Host.Outcome.next ?_
  rw [State.ifReady]
  split
  · next hr => exact if_neg fun hc => h ⟨hr, hc.1, hc.2.1, hc.2.2⟩
  · rfl

theorem exec_digestPassDone_dirty (h : s.hashed k) (hd : (s.dig k.val).dirty = true ∨ s.digPoisoned k = true) :
    exec (.digestPassDone k) s = .next ((s.setDig k.val { s.dig k.val with dirty := false }).count .dig 0x88) := by
  have hb : ((s.dig k.val).dirty || s.digPoisoned k) = true := by simpa using hd
  have e : exec (.digestPassDone k) s = .next ((s.setDig k.val { s.dig k.val with
      dirty := false, clean := (s.dig k.val).clean || !((s.dig k.val).dirty || s.digPoisoned k) }).count .dig 0x88) :=
    congrArg Host.Outcome.next ((State.ifReady_pos h.ready _).trans ((if_pos ⟨h.enabled, h.valid, h.isSealed⟩).trans (if_pos hd)))
  rw [e, hb, Bool.not_true, Bool.or_false]

theorem exec_digestPassDone_clean (h : s.hashed k) (hd : (s.dig k.val).dirty = false) (hp : s.digPoisoned k = false) :
    exec (.digestPassDone k) s = .next ((s.passed k).readmit k) := by
  have hn : ¬ ((s.dig k.val).dirty = true ∨ s.digPoisoned k = true) := by simp [hd, hp]
  have hb : ((s.dig k.val).clean || !((s.dig k.val).dirty || s.digPoisoned k)) = true := by simp [hd, hp]
  obtain ⟨w, hw⟩ : ∃ w, w = s.setDig k.val { s.dig k.val with
    dirty := false, clean := (s.dig k.val).clean || !((s.dig k.val).dirty || s.digPoisoned k) } := ⟨_, rfl⟩
  have hv : w.digValue k.val = s.digValue k.val := by
    rw [State.digValue, State.digValue, State.digSum_congr (t := w) (s := s) (by rw [hw]; rfl), hw]
    rfl
  obtain ⟨x, hx⟩ : ∃ x, x = (w.setFld .dig Reg.DIG_REGION_DIGEST (w.digValue k.val) k.val).count .dig 0x80 := ⟨_, rfl⟩
  have e : exec (.digestPassDone k) s = .next
      ((x.setFld .dig Reg.DIG_REGION_PASS ((x.fld .dig Reg.DIG_REGION_PASS k.val + 1) % 2 ^ 32) k.val).readmit k) := by
    rw [hx, hw]
    exact congrArg Host.Outcome.next ((State.ifReady_pos h.ready _).trans ((if_pos ⟨h.enabled, h.valid, h.isSealed⟩).trans (if_neg hn)))
  have hx2 : x.fld .dig Reg.DIG_REGION_PASS k.val = s.fld .dig Reg.DIG_REGION_PASS k.val := by
    rw [hx, hw]
    simp +decide [State.fld_eq, State.setDig]
  rw [e, hx2, hx, hv, hw, hb]
  rfl

theorem State.passed_shows : (s.passed k).fld .dig Reg.DIG_REGION_DIGEST k.val = s.digValue k.val ∧
    (s.passed k).fld .dig Reg.DIG_REGION_PASS k.val = (s.fld .dig Reg.DIG_REGION_PASS k.val + 1) % 2 ^ 32 ∧
    (s.passed k).fld .dig Reg.DIG_REGION_MSTATE k.val = s.fld .dig Reg.DIG_REGION_MSTATE k.val := by
  have hv : s.digValue k.val < 2 ^ Reg.DIG_REGION_DIGEST.width := State.digSum_lt ..
  have hp : (s.fld .dig Reg.DIG_REGION_PASS k.val + 1) % 2 ^ 32 < 2 ^ Reg.DIG_REGION_PASS.width := Nat.mod_lt _ (Nat.two_pow_pos _)
  refine ⟨?_, State.fld_setFld_of_lt _ hp, ?_⟩
  · rw [State.passed]
    simp +decide [State.fld_eq, State.setDig, hv]
  · rw [State.passed]
    simp +decide [State.fld_eq, State.setDig]

/-- The region's digest is shown again before it compares. -/
theorem State.readmit_readmitted (h : s.fld .dig Reg.DIG_REGION_MSTATE k.val = 2)
    (hp : (s.digPeers k.val).map (·.2) = [BitVec.ofNat 128 (s.fld .dig Reg.DIG_REGION_DIGEST k.val)]) :
    s.readmit k = ((s.setFld .dig Reg.DIG_REGION_MSTATE 0 k.val).count .dig 0xA8).irq .dig 2 := by
  rw [State.readmit, if_pos h, hp]
  simp

end

end Sys2Proof.Machine
end

section
/-! PROOFS. O43 is settled. -/

namespace Sys2Proof.Machine
open Sys2Proof

section
variable {s t u : State} {k : Fin 16} {v : Word}

/-! ## Rows of a register table -/

theorem Place.apart_of_rows {pg : Page} {f g : Fld} {i j : Nat} (h : f.rowsApart g = true) : Place.apart (f.place pg i) (g.place pg j) := by
  simp only [Fld.rowsApart, decide_eq_true_eq] at h
  obtain ⟨-, hs, ha, hb, hab⟩ := h
  have := Nat.rows_apart (x := i) (y := j) ha hb hab
  simp only [Place.apart, Fld.place, Fld.addr, ← hs]
  rw [show i * (8 * f.stride) = 8 * (i * f.stride) by ring, show j * (8 * f.stride) = 8 * (j * f.stride) by ring] at this
  omega

/-- A word that no listed place reaches. -/
theorem State.changes.word {cs : List Comp} {fs : List Place} {ns : List (Page × Nat)} (h : s.changes t cs fs ns) {a : Nat}
    (hd : ∀ x ∈ fs, a + 4 ≤ x.2.1.addr x.1 x.2.2 ∨ 8 * x.2.1.addr x.1 x.2.2 + x.2.1.lo + x.2.1.width ≤ 8 * a) : t.word a = s.word a := by
  refine BitVec.eq_of_getLsbD_eq fun b hb => h.2.1 _ _ ?_
  rintro x hx ⟨h1, h2, h3⟩
  have := hd x hx
  omega

/-! ## Writes of a region's words -/

theorem getLsbD_eq_bit (i : Nat) : v.getLsbD i = bit v.toNat i := by
  simp [bit, BitVec.getLsbD, Nat.testBit_eq_decide_div_mod_eq, BEq.beq]

theorem bits_word : bits v.toNat 0 32 = v.toNat := by
  rw [bits, Nat.pow_zero, Nat.div_one, Nat.mod_eq_of_lt v.isLt]

/-- A word's one field. -/
theorem completes.digWord {w : Fin 32} {f : Fld} {x : Nat} (hr : s.ready .dig = true) (hf : f.acc = .rw) (hx : f.ok x = true)
    (hlt : x < 2 ^ f.width) (e : exec (.digRegionWrite k w v) s = .next (s.ifReady .dig fun s => s.swWrite .dig f x k.val)) :
    completes (.digRegionWrite k w v) s fun t => t.fld .dig f k.val = x ∧ s.changes t [] [f.place .dig k.val] [] := by
  refine completes.next ⟨State.fld_setFld_of_lt _ hlt, State.setFld_changes ..⟩ (e.trans ?_)
  rw [State.ifReady_pos hr, State.swWrite_ok hf hx]

/-- The fields of a region's word 0 are written. -/
def State.digHead (s : State) (k : Fin 16) (v : Word) : State :=
  ((s.setFld .dig Reg.DIG_REGION_VALID (bits v.toNat 0 1) k.val).setFld .dig Reg.DIG_REGION_SEALED (bits v.toNat 1 1) k.val).setFld .dig
    Reg.DIG_REGION_GROUP (bits v.toNat 16 16) k.val

/-- A change of SEALED makes the region dirty. -/
def State.digSeal (s : State) (k : Fin 16) (was now : Bool) : State :=
  if was != now then s.setDig k.val { s.dig k.val with dirty := true } else s

theorem exec_digRegionWrite_head (hr : s.ready .dig = true) : exec (.digRegionWrite k 0 v) s =
    .next (if s.flag .dig Reg.DIG_REGION_SEALED k.val = true ∧ ¬ bit v.toNat 1 = true ∧
      ((s.digHead k v).digSeal k (s.flag .dig Reg.DIG_REGION_SEALED k.val) (bit v.toNat 1)).fld .dig Reg.DIG_REGION_MSTATE k.val = 1
    then ((s.digHead k v).digSeal k (s.flag .dig Reg.DIG_REGION_SEALED k.val) (bit v.toNat 1)).setFld .dig Reg.DIG_REGION_MSTATE 2 k.val
    else (s.digHead k v).digSeal k (s.flag .dig Reg.DIG_REGION_SEALED k.val) (bit v.toNat 1)) := by
  refine congrArg Host.Outcome.next ((State.ifReady_pos hr _).trans ?_)
  rw [State.digHead, ← State.swWrite_ok (f := Reg.DIG_REGION_VALID) rfl rfl, ← State.swWrite_ok (f := Reg.DIG_REGION_SEALED) rfl rfl,
    ← State.swWrite_ok (f := Reg.DIG_REGION_GROUP) rfl rfl]
  rfl

theorem State.digSeal_changes (a b : Bool) : s.changes (s.digSeal k a b) [.digs] [] [] := by
  rw [State.digSeal]
  split
  · exact .setDig .refl
  · exact .refl

theorem State.digSeal_dig (a b : Bool) : ((s.digSeal k a b).dig k.val).dirty = ((s.dig k.val).dirty || a != b) ∧
    othersSame {} s.digs (s.digSeal k a b).digs [k.val] := by
  rw [State.digSeal]
  split
  · next h =>
    refine ⟨?_, (othersSame_set _ _ _ _ (by simp)).2 (othersSame_refl _ _)⟩
    rw [State.dig, State.setDig, Map.get_set_same, h, Bool.or_true]
  · next h => exact ⟨by rw [Bool.eq_false_iff.2 h, Bool.or_false], othersSame_refl _ _⟩

/-! ## What each command leaves -/

theorem State.dig_passed (hd : (s.dig k.val).dirty = false) : (s.passed k).dig k.val = { s.dig k.val with clean := true } ∧
    othersSame {} s.digs (s.passed k).digs [k.val] := by
  have e : (s.passed k).digs = Map.set {} s.digs k.val { s.dig k.val with dirty := false, clean := true } := by
    rw [State.passed, State.digs_setFld, State.digs_count, State.digs_setFld, State.setDig]
  rw [State.dig, e, Map.get_set_same, ← hd]
  exact ⟨rfl, (othersSame_set _ _ _ _ (by simp)).2 (othersSame_refl _ _)⟩

theorem State.counted_passed : s.counted (s.passed k) .dig 0x80 :=
  .after (.before (cs := [.digs]) (fs := [Reg.DIG_REGION_DIGEST.place .dig k.val]) (ns := []) (.setFld (.setDig .refl)) State.counted_count)
    (cs := []) (fs := [Reg.DIG_REGION_PASS.place .dig k.val]) (ns := []) (.setFld .refl)

theorem State.readmit_active (h : s.fld .dig Reg.DIG_REGION_MSTATE k.val ≠ 2) : s.readmit k = s := if_neg h

theorem State.digPeer_congr (h : s.changes t [.digs] [Reg.DIG_REGION_DIGEST.place .dig k.val, Reg.DIG_REGION_PASS.place .dig k.val]
    [(.dig, 0x80)]) : t.digPeer k = s.digPeer k := by
  funext m
  have hm : t.digMembers k.val = s.digMembers k.val := by
    refine List.filterMap_congr fun j hj => ?_
    have hj := List.mem_range.1 hj
    rw [State.digMember, h.word]
    · rfl
    · simp only [List.forall_mem_cons, Fld.place, Fld.addr, Reg.DIG_REGION_DIGEST, Reg.DIG_REGION_PASS, List.not_mem_nil, false_imp_iff,
        implies_true, and_true]
      omega
  rw [State.digPeer, State.digPeer, hm, h.fld (by simp +decide [Place.apart_of_rows]), h.fld (by simp +decide [Place.apart_of_rows])]

theorem State.digPeers_passed (hd : (s.dig k.val).dirty = false) : (s.passed k).digPeers k.val = s.digPeers k.val := by
  rw [State.digPeers_eq, State.digPeers_eq, State.digPeer_congr State.passed_changes, (State.dig_passed hd).1]

/-- A clean pass of a member that takes part. -/
theorem completes.digestPass (h : s.hashed k) (hd : (s.dig k.val).dirty = false) (hp : s.digPoisoned k = false)
    (hm : s.fld .dig Reg.DIG_REGION_MSTATE k.val ≠ 2) : completes (.digestPassDone k) s fun t =>
      t.fld .dig Reg.DIG_REGION_DIGEST k.val = s.digValue k.val ∧
      t.fld .dig Reg.DIG_REGION_PASS k.val = (s.fld .dig Reg.DIG_REGION_PASS k.val + 1) % 2 ^ 32 ∧ s.counted t .dig 0x80 ∧
      t.dig k.val = { s.dig k.val with clean := true } ∧ othersSame {} s.digs t.digs [k.val] ∧
      s.changes t [.digs] [Reg.DIG_REGION_DIGEST.place .dig k.val, Reg.DIG_REGION_PASS.place .dig k.val] [(.dig, 0x80)] := by
  obtain ⟨h1, h2, h3⟩ := s.passed_shows (k := k)
  obtain ⟨h4, h5⟩ := State.dig_passed hd
  refine completes.next ⟨h1, h2, State.counted_passed, h4, h5, State.passed_changes⟩ ?_
  rw [exec_digestPassDone_clean h hd hp, State.readmit_active (by rw [h3]; exact hm)]

/-- A clean pass of a member that was away and agrees. -/
theorem completes.digestReadmitted (h : s.hashed k) (hd : (s.dig k.val).dirty = false) (hp : s.digPoisoned k = false)
    (hm : s.fld .dig Reg.DIG_REGION_MSTATE k.val = 2)
    (hq : (s.digPeers k.val).map (·.2) = [BitVec.ofNat 128 (s.digValue k.val)]) : completes (.digestPassDone k) s fun t =>
      t.fld .dig Reg.DIG_REGION_MSTATE k.val = 0 ∧ s.counted t .dig 0xA8 ∧ s.raised t .dig 2 ∧ s.counted t .dig 0x80 ∧
      othersSame {} s.digs t.digs [k.val] ∧ s.changes t [.digs, .out, .pcie]
        ([Reg.DIG_REGION_DIGEST.place .dig k.val, Reg.DIG_REGION_PASS.place .dig k.val, Reg.DIG_REGION_MSTATE.place .dig k.val] ++
          irqPlaces .dig) ([(Page.dig, 0x80), (Page.dig, 0xA8)] ++ irqCounts .dig) := by
  obtain ⟨h1, h2, h3⟩ := s.passed_shows (k := k)
  have hq' : ((s.passed k).digPeers k.val).map (·.2) = [BitVec.ofNat 128 ((s.passed k).fld .dig Reg.DIG_REGION_DIGEST k.val)] := by
    rw [h1, ← hq, State.digPeers_passed hd]
  have hf : s.changes (s.passed k) _ _ _ := State.passed_changes
  have hc := State.counted_passed (s := s) (k := k)
  have ho := (State.dig_passed hd).2
  have e := exec_digestPassDone_clean h hd hp
  rw [State.readmit_readmitted (h3.trans hm) hq'] at e
  generalize s.passed k = u at hf hc ho e
  have k1 : s.changes ((u.setFld .dig Reg.DIG_REGION_MSTATE 0 k.val).count .dig 0xA8) [.digs]
      [Reg.DIG_REGION_DIGEST.place .dig k.val, Reg.DIG_REGION_PASS.place .dig k.val, Reg.DIG_REGION_MSTATE.place .dig k.val]
      [(Page.dig, 0x80), (Page.dig, 0xA8)] := .count (.setFld (State.changes_mono hf (by simp) (by simp +contextual) (by simp)))
  refine completes.next ⟨?_, ?_, k1.raised ?_, ?_, ?_, .irq (State.changes_mono k1 (by simp) (by simp +contextual) (by simp))⟩ e
  · simp +decide [State.fld_eq]
  · exact .after (.before (State.changes_trans (State.changes_mono hf (ds := [.digs]) (gs := [Reg.DIG_REGION_DIGEST.place .dig k.val,
      Reg.DIG_REGION_PASS.place .dig k.val, Reg.DIG_REGION_MSTATE.place .dig k.val]) (by simp) (by simp +contextual) (fun _ h => h))
      (.setFld .refl)) State.counted_count) (State.irq_changes ..) (by simp +decide [irqCounts])
  · simp +decide [Place.apart_of_above]
  · exact ((hc.after (cs := []) (fs := [Reg.DIG_REGION_MSTATE.place .dig k.val]) (ns := []) (.setFld .refl)).after (cs := []) (fs := [])
      (ns := [(.dig, 0xA8)]) (.count .refl)).after (State.irq_changes ..) (by simp +decide [irqCounts])
  · rw [State.digs_irq, State.digs_count, State.digs_setFld]
    exact ho

end

end Sys2Proof.Machine
end

section
/-! PROOFS. O43 is settled. -/

namespace Sys2Proof.Machine
open Sys2Proof

section
variable {s t : State} {k : Fin 16} {m m2 : DigestMsg} {own d d2 : BitVec 128} {v : Word} {l : Nat}

/-! ## Messages -/

theorem State.tookDigest_sameQuorum : s.sameQuorum (s.tookDigest k m) := State.tookDigest_changes.sameQuorum (by simp)

/-- A member that stays in the minority is reported to the leader. -/
theorem completes.digestReported (h : s.digestKnown k m) (hc : (s.dig k.val).clean = false)
    (h2 : Map.get 0 (s.dig k.val).minority (digIndex m) = 2) (hm : m.mstate ≠ 1) (hl : s.leader = some l)
    (hn : s.fld .dig Reg.DIG_REGION_MSTATE k.val ≠ 3) : completes (.digest k m) s fun t =>
      m ∈ (t.dig k.val).members ∧ othersSame {} s.digs t.digs [k.val] ∧
      t.qrm = { s.qrm with seen := ((m.hdr.src, m.hdr.seq) :: s.qrm.seen).take 4096, seqOut := (s.qrm.seqOut + 1) % 65536 } ∧
      Map.get 0 (t.dig k.val).minority (digIndex m) = 1 ∧ t.out = s.out ++
        [Out.quorum ((s.planesTo l).take 2) (quorumHeader 4 { src := s.node, dst := l, seq := s.qrm.seqOut, epoch := s.epoch })
          [m.partMask.toNat, 5, m.hdr.src]] ∧ s.changes t [.digs, .qrm, .out] [] [] := by
  have hld : (s.tookDigest k m).leader = some l := (State.tookDigest_sameQuorum.leader rfl).trans hl
  have hr : s.reportDigest (s.tookDigest k m) k m = (s.tookDigest k m).quorumSend 0x04 l [m.partMask.toNat, 0x05, m.hdr.src] := by
    rw [State.reportDigest, if_pos ⟨h2, hm⟩, hld]
  have e := exec_digest h (State.not_rejoins_of_active hn)
  change _ = Host.Outcome.next ((s.reportDigest (s.tookDigest k m) k m).digCompare k.val) at e
  have hd : ((s.tookDigest k m).quorumSend 0x04 l [m.partMask.toNat, 0x05, m.hdr.src]).digs = (s.tookDigest k m).digs := rfl
  have hd2 : ((s.tookDigest k m).quorumSend 0x04 l [m.partMask.toNat, 0x05, m.hdr.src]).dig k.val = (s.tookDigest k m).dig k.val := rfl
  have hc2 : (((s.tookDigest k m).quorumSend 0x04 l [m.partMask.toNat, 0x05, m.hdr.src]).dig k.val).clean = false := by
    rw [hd2, State.dig_tookDigest]
    exact hc
  rw [hr, State.digCompare_none hc2] at e
  refine completes.next ⟨?_, ?_, rfl, ?_, ?_, .quorumSend (State.changes_mono State.tookDigest_changes (by simp) (by simp) (by simp))⟩ e
  · rw [hd2]
    exact State.mem_tookDigest
  · rw [hd]
    exact State.othersSame_tookDigest
  · rw [hd2]
    exact State.minority_tookDigest hm h2
  · rw [State.quorumSend_eq, State.tookDigest_sameQuorum.quorumMsg]
    rfl

/-- A lower member suspends itself. -/
theorem completes.digestSuspended (h : s.digestKnown k m) (hk : s.comparable k m d) (hi : s.digestIs k.val own)
    (hl : Map.get 0 (s.dig k.val).minority (digIndex m) ≠ 2) (h0 : (s.dig k.val).members = []) (hne : d ≠ own)
    (hm : s.fld .dig Reg.DIG_REGION_MSTATE k.val = 0) (hle : digIndex m ≤ s.node * 16 + k.val) : completes (.digest k m) s fun t =>
      m ∈ (t.dig k.val).members ∧ t.fld .dig Reg.DIG_REGION_MSTATE k.val = 3 ∧ s.counted t .dig 0x98 ∧ othersSame {} s.digs t.digs [k.val] ∧
      t.qrm = { s.qrm with seen := ((m.hdr.src, m.hdr.seq) :: s.qrm.seen).take 4096 } ∧
      s.changes t [.digs, .qrm] [Reg.DIG_REGION_MSTATE.place .dig k.val] [(.dig, 0x98)] := by
  have e := exec_digest_second h hl hm
  rw [State.digCompare_pair hi.tookDigest (State.digPeers_tookDigest_first hk h0) hne (State.mstate_tookDigest.trans hm),
    State.tookDigest_sameQuorum.node, if_neg (by omega)] at e
  change _ = Host.Outcome.next ((s.differed k m).setFld .dig Reg.DIG_REGION_MSTATE 3 k.val) at e
  have hd : ((s.differed k m).setFld .dig Reg.DIG_REGION_MSTATE 3 k.val).digs = (s.tookDigest k m).digs := State.digs_setFld ..
  refine completes.next ⟨?_, State.fld_setFld_of_lt _ (by decide), ?_, ?_, ?_,
    .setFld (State.changes_mono State.differed_changes (by simp) (by simp) (by simp))⟩ e
  · rw [State.dig, hd]
    exact State.mem_tookDigest
  · exact State.counted_differed.after (cs := []) (fs := [Reg.DIG_REGION_MSTATE.place .dig k.val]) (ns := []) (.setFld .refl)
  · rw [hd]
    exact State.othersSame_tookDigest
  · rw [State.qrm_setFld]
    rfl

/-- No digest has the majority. -/
theorem completes.digestSplit (h : s.digestKnown k m) (hi : s.digestIs k.val own)
    (hl : Map.get 0 (s.dig k.val).minority (digIndex m) ≠ 2) (hp : (s.tookDigest k m).digPeers k.val = [(m, d), (m2, d2)])
    (h1 : d ≠ own) (h2 : d2 ≠ own) (h3 : d ≠ d2) (hm : s.fld .dig Reg.DIG_REGION_MSTATE k.val = 0) : completes (.digest k m) s fun t =>
      m ∈ (t.dig k.val).members ∧ s.counted t .dig 0x98 ∧ s.counted t .dig 0xA0 ∧ s.erred t .dig 2 ∧ s.raised t .dig 1 ∧
      othersSame {} s.digs t.digs [k.val] ∧ s.changes t [.digs, .qrm, .out, .pcie] (errPlaces .dig ++ irqPlaces .dig)
        ([(Page.dig, 0x50), (Page.dig, 0x98), (Page.dig, 0xA0)] ++ irqCounts .dig) := by
  have e := exec_digest_second h hl hm
  rw [State.digCompare_split hi.tookDigest hp h1 h2 h3] at e
  change _ = Host.Outcome.next ((((s.differed k m).count .dig 0xA0).err .dig 0x02).irq .dig 1) at e
  have k1 : s.changes ((s.differed k m).count .dig 0xA0) [.digs, .qrm] [] [(.dig, 0x98), (.dig, 0xA0)] :=
    .count (State.changes_mono State.differed_changes (by simp) (by simp) (by simp))
  have k2 : s.changes (((s.differed k m).count .dig 0xA0).err .dig 0x02) [.digs, .qrm] (errPlaces .dig)
      [(.dig, 0x98), (.dig, 0xA0), (.dig, 0x50)] := .err (State.changes_mono k1 (by simp) (by simp) (by simp +contextual)) (by simp [errPlaces]) (by simp)
  have k3 : ((s.differed k m).count .dig 0xA0).changes ((((s.differed k m).count .dig 0xA0).err .dig 0x02).irq .dig 1) [.out, .pcie]
      (errPlaces .dig ++ irqPlaces .dig) ((.dig, 0x50) :: irqCounts .dig) := .irq (.err .refl (by simp [errPlaces]) (by simp))
  have hd : ((((s.differed k m).count .dig 0xA0).err .dig 0x02).irq .dig 1).digs = (s.tookDigest k m).digs := by
    rw [State.digs_irq, State.digs_err]
    rfl
  refine completes.next ⟨?_, ?_, ?_, ?_, k2.raised ?_, ?_, .irq (State.changes_mono k2 (by simp) (by simp +contextual) (by simp))⟩ e
  · rw [State.dig, hd]
    exact State.mem_tookDigest
  · exact (State.counted_differed.after (cs := []) (fs := []) (ns := [(.dig, 0xA0)]) (.count .refl)).after k3 (by simp +decide [irqCounts])
  · exact (State.counted.before State.differed_changes State.counted_count).after k3 (by simp +decide [irqCounts])
  · exact State.changes.stays_erred (State.irq_changes ..) (k1.erred (by decide) (by simp) (by simp)) (by simp +decide [irqPlaces, Place.apart_of])
      (by simp +decide [irqCounts])
  · simp +decide [errPlaces, Place.apart_of]
  · rw [hd]
    exact State.othersSame_tookDigest

/-- The region's own digest has the majority. -/
theorem completes.digestMinority (h : s.digestKnown k m) (hi : s.digestIs k.val own)
    (hl : Map.get 0 (s.dig k.val).minority (digIndex m) ≠ 2) (hp : (s.tookDigest k m).digPeers k.val = [(m, d), (m2, own)])
    (h1 : d ≠ own) (hm : s.fld .dig Reg.DIG_REGION_MSTATE k.val = 0) : completes (.digest k m) s fun t =>
      m ∈ (t.dig k.val).members ∧ s.counted t .dig 0x98 ∧ t.fld .dig Reg.DIG_REGION_MSTATE k.val = 0 ∧ othersSame {} s.digs t.digs [k.val] ∧
      t.qrm = { s.qrm with seen := ((m.hdr.src, m.hdr.seq) :: s.qrm.seen).take 4096 } ∧ s.changes t [.digs, .qrm] [] [(.dig, 0x98)] := by
  have e := exec_digest_second h hl hm
  rw [State.digCompare_majority hi.tookDigest hp h1] at e
  change _ = Host.Outcome.next ((s.differed k m).digMinority k.val own) at e
  have hc := State.digMinority_changes (s := s.differed k m) (own := own) k.val
  have hf : s.changes ((s.differed k m).digMinority k.val own) [.digs, .qrm] [] [(.dig, 0x98)] :=
    State.changes_trans State.differed_changes (State.changes_mono hc (by simp) (by simp) (by simp))
  refine completes.next ⟨?_, State.counted_differed.after hc, (hf.fld (by simp)).trans hm,
    othersSame_trans State.othersSame_tookDigest State.digMinority_others, rfl, hf⟩ e
  rw [State.members_digMinority]
  exact State.mem_tookDigest

/-! ## Words of a region -/

/-- Word 0: VALID, SEALED and GROUP; an expelled region that is no longer sealed may come back. -/
theorem completes.digHead (hr : s.ready .dig = true) : completes (.digRegionWrite k 0 v) s fun t =>
    t.flag .dig Reg.DIG_REGION_VALID k.val = v.getLsbD 0 ∧ t.flag .dig Reg.DIG_REGION_SEALED k.val = v.getLsbD 1 ∧
    t.fld .dig Reg.DIG_REGION_GROUP k.val = bits v.toNat 16 16 ∧
    (t.fld .dig Reg.DIG_REGION_MSTATE k.val = if s.flag .dig Reg.DIG_REGION_SEALED k.val = true ∧ v.getLsbD 1 = false ∧
      s.fld .dig Reg.DIG_REGION_MSTATE k.val = 1 then 2 else s.fld .dig Reg.DIG_REGION_MSTATE k.val) ∧
    (t.dig k.val).dirty = ((s.dig k.val).dirty || s.flag .dig Reg.DIG_REGION_SEALED k.val != v.getLsbD 1) ∧
    othersSame {} s.digs t.digs [k.val] ∧ s.changes t [.digs] [Reg.DIG_REGION_VALID.place .dig k.val, Reg.DIG_REGION_SEALED.place .dig k.val,
      Reg.DIG_REGION_GROUP.place .dig k.val, Reg.DIG_REGION_MSTATE.place .dig k.val] [] := by
  have e := exec_digRegionWrite_head (k := k) (v := v) hr
  simp only [getLsbD_eq_bit]
  obtain ⟨w, hw⟩ : ∃ w, w = s.digHead k v := ⟨_, rfl⟩
  have h16 : bits v.toNat 16 16 < 2 ^ Reg.DIG_REGION_GROUP.width := bits_lt ..
  obtain ⟨hv, hs, hg, hm⟩ : w.flag .dig Reg.DIG_REGION_VALID k.val = bit v.toNat 0 ∧ w.flag .dig Reg.DIG_REGION_SEALED k.val = bit v.toNat 1 ∧
      w.fld .dig Reg.DIG_REGION_GROUP k.val = bits v.toNat 16 16 ∧ w.fld .dig Reg.DIG_REGION_MSTATE k.val = s.fld .dig Reg.DIG_REGION_MSTATE k.val := by
    have hb (b : Bool) : b.toNat < 2 ^ Reg.DIG_REGION_VALID.width ∧ b.toNat < 2 ^ Reg.DIG_REGION_SEALED.width := by
      cases b <;> decide
    rw [hw, State.digHead]
    simp +decide [State.flag, State.fld_eq, bits_one_eq, hb, h16]
  have hwd : w.digs = s.digs := by
    rw [hw, State.digHead, State.digs_setFld, State.digs_setFld, State.digs_setFld]
  have hwc : s.changes w [.digs] [Reg.DIG_REGION_VALID.place .dig k.val, Reg.DIG_REGION_SEALED.place .dig k.val,
      Reg.DIG_REGION_GROUP.place .dig k.val, Reg.DIG_REGION_MSTATE.place .dig k.val] [] := by
    rw [hw]
    exact .setFld (.setFld (.setFld .refl))
  rw [← hw] at e
  have hx : w.changes (w.digSeal k (s.flag .dig Reg.DIG_REGION_SEALED k.val) (bit v.toNat 1)) [.digs] [] [] := State.digSeal_changes ..
  obtain ⟨hy1, hy2⟩ := State.digSeal_dig (s := w) (k := k) (s.flag .dig Reg.DIG_REGION_SEALED k.val) (bit v.toNat 1)
  rw [State.dig, State.dig] at hy1
  generalize w.digSeal k (s.flag .dig Reg.DIG_REGION_SEALED k.val) (bit v.toNat 1) = x at e hx hy1 hy2
  rw [hwd] at hy1 hy2
  have hxf (f : Fld) : x.fld .dig f k.val = w.fld .dig f k.val := hx.fld (by simp)
  rw [hxf, hm] at e
  have hxc : s.changes x _ _ _ := State.changes_trans hwc (State.changes_mono hx (by simp) (by simp) (by simp))
  by_cases hc : s.flag .dig Reg.DIG_REGION_SEALED k.val = true ∧ bit v.toNat 1 = false ∧ s.fld .dig Reg.DIG_REGION_MSTATE k.val = 1
  · rw [if_pos (by simpa using hc)] at e
    have hy (f : Fld) (hf : Reg.DIG_REGION_MSTATE.rowsApart f = true) :
        (x.setFld .dig Reg.DIG_REGION_MSTATE 2 k.val).fld .dig f k.val = w.fld .dig f k.val := (State.fld_setFld_rows _ hf).trans (hxf f)
    refine completes.next ⟨?_, ?_, ?_, ?_, ?_, ?_, .setFld hxc⟩ e
    · rw [State.flag, hy _ (by decide), ← hv, State.flag]
    · rw [State.flag, hy _ (by decide), ← hs, State.flag]
    · rw [hy _ (by decide), hg]
    · rw [if_pos hc, State.fld_setFld_of_lt _ (by decide)]
    · rw [State.dig, State.digs_setFld]
      exact hy1
    · rw [State.digs_setFld]
      exact hy2
  · rw [if_neg (by simpa using hc)] at e
    refine completes.next ⟨?_, ?_, ?_, ?_, hy1, hy2, hxc⟩ e
    · rw [State.flag, hxf, ← hv, State.flag]
    · rw [State.flag, hxf, ← hs, State.flag]
    · rw [hxf, hg]
    · rw [if_neg hc, hxf, hm]

/-- A word after the region's fields: a member's, or none. -/
theorem exec_digRegionWrite_rest {w : Fin 32} (hw : 5 < w.val) (hr : s.ready .dig = true) : exec (.digRegionWrite k w v) s = .next
    (if 16 ≤ w.val ∧ w.val < 24 then
      s.setWord (Page.base .dig + 0x400 + k.val * 0x80 + w.val * 4) (BitVec.ofNat 32 (v.toNat % 2 ^ 17)) else s) := by
  obtain ⟨n, hn⟩ := w
  obtain ⟨m, rfl⟩ : ∃ m, n = m + 6 := ⟨n - 6, by simp only at hw; omega⟩
  exact congrArg Host.Outcome.next (State.ifReady_pos hr _)

/-- A member's word. -/
theorem completes.digMember {w : Fin 32} {a : Nat} (hr : s.ready .dig = true) (h1 : 16 ≤ w.val) (h2 : w.val < 24)
    (ha : a = Page.base .dig + 0x400 + k.val * 0x80 + w.val * 4) : completes (.digRegionWrite k w v) s fun t =>
      t.word a = v &&& 0x1FFFF ∧ (∀ b, b ≠ a → t.word b = s.word b) ∧ s.keeps t [.regs] := by
  have e := exec_digRegionWrite_rest (k := k) (v := v) (w := w) (by omega) hr
  rw [if_pos ⟨h1, h2⟩, ← ha] at e
  refine completes.next ⟨?_, fun b hb => State.word_setWord_other _ _ hb, ?_⟩ e
  · rw [State.word_setWord_same]
    apply BitVec.eq_of_toNat_eq
    have hm : v.toNat &&& (2 ^ 17 - 1) = v.toNat % 2 ^ 17 := Nat.and_two_pow_sub_one_eq_mod ..
    have hlt : v.toNat % 2 ^ 17 < 2 ^ 32 := Nat.lt_of_lt_of_le (Nat.mod_lt _ (Nat.two_pow_pos _)) (by decide)
    rw [BitVec.toNat_ofNat, Nat.mod_eq_of_lt hlt, BitVec.toNat_and, ← hm]
    rfl
  · intro c hc
    cases c <;> first | rfl | exact absurd (by simp) hc

/-- Other words. -/
theorem exec_digRegionWrite_other {w : Fin 32} (h : s.ready .dig = false ∨ 5 < w.val ∧ w.val < 16 ∨ 24 ≤ w.val) :
    exec (.digRegionWrite k w v) s = .next s := by
  by_cases hr : s.ready .dig = true
  · have hw : (5 < w.val ∧ w.val < 16) ∨ 24 ≤ w.val := h.resolve_left fun h => by simp [hr] at h
    rw [exec_digRegionWrite_rest (by omega) hr, if_neg (by omega)]
  · exact congrArg Host.Outcome.next (if_neg hr)

theorem completes.digestDiscarded (h : s.hashed k) (hd : (s.dig k.val).dirty = true ∨ s.digPoisoned k = true) :
    completes (.digestPassDone k) s fun t => t.dig k.val = { s.dig k.val with dirty := false } ∧ s.counted t .dig 0x88 ∧
      othersSame {} s.digs t.digs [k.val] ∧ s.changes t [.digs] [] [(.dig, 0x88)] := by
  refine completes.next ⟨?_, ?_, ?_, .count (.setDig .refl)⟩ (exec_digestPassDone_dirty h hd)
  · rw [State.dig, State.digs_count, State.setDig, Map.get_set_same]
  · exact .before (cs := [.digs]) (fs := []) (ns := []) (.setDig .refl) State.counted_count
  · exact (othersSame_set (k := k.val) (ks := [k.val]) {} _ s.digs s.digs (by simp)).2 (othersSame_refl _ _)

end

/-! ## The obligation -/

/-- Settles O43, through the state that a region's digest and messages leave before it compares. -/
theorem digestsAreCompared : Obligations.DigestsAreCompared := by
  unfold Obligations.DigestsAreCompared
  refine ⟨?_, ?_, ?_, ?_, ?_, ?_, ?_, ?_, ?_, ?_, ?_, ?_, ?_, ?_, ?_, ?_, ?_, ?_, ?_, ?_, ?_⟩
  · exact fun s k hr he hv hs hd hp hm => completes.digestPass ⟨hr, he, hv, hs⟩ hd hp hm
  · exact fun s k own hr he hv hs hd hp hm ho hq => completes.digestReadmitted ⟨hr, he, hv, hs⟩ hd hp hm (ho ▸ hq)
  · exact fun s k hr he hv hs hd => completes.digestDiscarded ⟨hr, he, hv, hs⟩ hd
  · intro s k h
    refine completes.next rfl (exec_digestPassDone_unhashed fun hh => ?_)
    rcases h with h | h | h | h
    · exact absurd (h.symm.trans hh.ready) (by simp)
    · exact absurd (h.symm.trans hh.enabled) (by simp)
    · exact absurd (h.symm.trans hh.valid) (by simp)
    · exact absurd (h.symm.trans hh.isSealed) (by simp)
  · intro s k m hr he hv hmem hg hc hl hm hn
    refine completes.next ⟨State.mem_tookDigest, State.othersSame_tookDigest, rfl, State.tookDigest_changes⟩
      ((exec_digest_quiet ⟨hr, he, hv, hmem, hg, hn⟩ (State.not_rejoins_of_active hm) hl).trans (congrArg _ (State.digCompare_none ?_)))
    rw [State.dig_tookDigest]
    exact hc
  · exact fun s k m l hr he hv hmem hg hc hl hms hld hm hn => completes.digestReported ⟨hr, he, hv, hmem, hg, hn⟩ hc hl hms hld hm
  · intro s k m d own hr he hv hmem hg hc ho hid hd hl h0 heq hn
    refine completes.next ⟨State.mem_tookDigest, State.mstate_tookDigest, State.othersSame_tookDigest, rfl, State.tookDigest_changes⟩
      ((exec_digest_quiet ⟨hr, he, hv, hmem, hg, hn⟩ (State.not_rejoins_of_first h0) hl).trans
        (congrArg _ (State.digCompare_agree (State.digestIs.tookDigest ⟨hc, ho⟩) ?_)))
    rw [State.digPeers_tookDigest_first ⟨hd, hid, hg, hmem⟩ h0]
    simpa using heq
  · intro s k m d own hr he hv hmem hg hc ho hid hd hl h0 hne hm hlt hn
    refine completes.next (State.differed_expelled m.hdr.src rfl) ((exec_digest_second ⟨hr, he, hv, hmem, hg, hn⟩ hl hm).trans
      (congrArg _ ((State.digCompare_pair (State.digestIs.tookDigest ⟨hc, ho⟩) (State.digPeers_tookDigest_first ⟨hd, hid, hg, hmem⟩ h0) hne
        (State.mstate_tookDigest.trans hm)).trans (if_pos ?_))))
    rw [State.tookDigest_sameQuorum.node]
    exact hlt
  · exact fun s k m d own hr he hv hmem hg hc ho hid hd hl h0 hne hm hlt hn =>
      completes.digestSuspended ⟨hr, he, hv, hmem, hg, hn⟩ ⟨hd, hid, hg, hmem⟩ ⟨hc, ho⟩ hl h0 hne hm hlt
  · intro s k m d own m2 d2 hr he hv hmem hg hc ho hid hd hl hms hix hne hmem2 hg2 hid2 hd2 hm heq hdo hn
    obtain ⟨h1, -, h2⟩ := State.differed_expelled (s := s) (k := k) (m := m) m.hdr.src rfl
    exact completes.next ⟨h1, h2⟩ ((exec_digest_second ⟨hr, he, hv, hmem, hg, hn⟩ hl hm).trans
      (congrArg _ (State.digCompare_minority (State.digestIs.tookDigest ⟨hc, ho⟩) (State.digPeers_tookDigest_second ⟨hd, hid, hg, hmem⟩
        ⟨heq ▸ hd2, hid2.trans hid, hg2.trans hg, hmem2⟩ hms hne) hdo (State.mstate_tookDigest.trans hm))))
  · exact fun s k m d own m2 d2 hr he hv hmem hg hc ho hid hd hl hms hix hne hmem2 hg2 hid2 hd2 hm hdd hdo hdo2 hn =>
      completes.digestSplit ⟨hr, he, hv, hmem, hg, hn⟩ ⟨hc, ho⟩ hl (State.digPeers_tookDigest_second ⟨hd, hid, hg, hmem⟩
        ⟨hd2, hid2.trans hid, hg2.trans hg, hmem2⟩ hms hne) hdo hdo2 hdd hm
  · exact fun s k m d own m2 d2 hr he hv hmem hg hc ho hid hd hl hms hix hne hmem2 hg2 hid2 hd2 hm hdo hdo2 hn =>
      completes.digestMinority ⟨hr, he, hv, hmem, hg, hn⟩ ⟨hc, ho⟩ hl (State.digPeers_tookDigest_second ⟨hd, hid, hg, hmem⟩
        ⟨hdo2 ▸ hd2, hid2.trans hid, hg2.trans hg, hmem2⟩ hms hne) hdo hm
  · intro s k m h
    refine completes.next rfl (exec_digest_unknown fun hh => ?_)
    rcases h with h | h | h | h | h | h
    · exact absurd (h.symm.trans hh.ready) (by simp)
    · exact absurd (h.symm.trans hh.enabled) (by simp)
    · exact absurd (h.symm.trans hh.valid) (by simp)
    · exact h hh.member
    · exact h hh.group
    · exact hh.new h
  · exact fun s k v hr => completes.digHead hr
  · intro s k v hr
    rw [bits_word]
    exact completes.digWord hr rfl rfl v.isLt rfl
  · exact fun s k v hr => completes.digWord hr rfl rfl (bits_lt ..) rfl
  · exact fun s k v hr => completes.digWord hr rfl rfl (bits_lt ..) rfl
  · exact fun s k v hr => completes.digWord hr rfl (by simp [Fld.ok, Reg.DIG_REGION_LEN_PAGES]; have := bits_lt v.toNat 0 24; omega) (bits_lt ..) rfl
  · intro s k v hr
    rw [bits_word]
    exact completes.digWord hr rfl rfl v.isLt rfl
  · exact fun s k w v a hr h1 h2 ha => completes.digMember hr h1 h2 ha
  · exact fun s k w v h => completes.next rfl (exec_digRegionWrite_other h)

end Sys2Proof.Machine
end

end
